-- ==== Sys2Proof/Word.lean ====
section
/-! DEFINITION. The word types of the ULD8512: a register and an address are 32 bits (R4, R23), the device's banks and
the host's shared words are 64 bits (R392), memory is addressed by the byte (R3). -/

namespace Sys2Proof

/-- One byte of memory. -/
abbrev Byte := BitVec 8

/-- A register or a device address (R4, R23). -/
abbrev Word := BitVec 32

/-- A bank word, a stamp, a musical position (R392, R202, R234). -/
abbrev DWord := BitVec 64

/-- A Verb accumulator (Table 3 of the Verb chapter). -/
abbrev Acc := BitVec 80

end Sys2Proof
end

