-- ==== Sys2Proof/Syntax.lean ====
section
/-! DEFINITION. The commands of the block: one constructor of Instr per row of spec/opcode_table.json, with the operands
the row's rule gives it. What the environment decides (a measured voltage, a received character, the bits of a packet) is
an operand; what the device decides is not. -/

namespace Sys2Proof

/-- An event packet (R202, Table 1 of the fabric chapter). -/
structure EvPacket where
  stamp  : DWord
  source : BitVec 6
  late   : Bool
  fence  : Bool
  kind   : Byte
  part   : BitVec 4
  key    : BitVec 12
  value  : Word
  deriving DecidableEq, Repr

/-- An arithmetic field of an instruction (R112). -/
structure ArithField where
  opc : BitVec 5
  acc : BitVec 2
  sa  : BitVec 4
  sb  : BitVec 4
  deriving DecidableEq, Repr

/-- A move field of an instruction (R113). -/
structure MoveField where
  store : Bool
  reg   : BitVec 5
  ptr   : BitVec 3
  mode  : BitVec 3
  size  : BitVec 2
  trunc : Bool
  deriving DecidableEq, Repr

/-- The count registers whose read latches their upper half (R254, R259, R262). -/
inductive CountReg where
  | timerCount (n : Fin 16)
  | timerCapture (n : Fin 16)
  | aoTime
  | epoch
  | position
  deriving DecidableEq, Repr

/-- What the monitor converter measured over the 1,024 samples of its window (R280, R295): the signed sum of the values, in code steps of
the channel, so that the mean is the sum over 1,024. -/
structure Measurement where
  sum : BitVec 64
  deriving DecidableEq, Repr

/-- A measured WCLK rate (R16): the family and the multiple of its base rate (0 once, 1 twice, 2 four times). -/
structure WclkRate where
  family44 : Bool
  multiple : Fin 3
  deriving DecidableEq, Repr

/-- A HELLO payload (R356, Table 5 of the link chapter). -/
structure HelloPayload where
  id    : Word
  mgr   : Bool
  flash : Bool
  lboot : Bool
  verbs : Byte
  depth : Byte
  fs    : Byte
  hash  : DWord
  tsend : Word
  techo : Word
  thold : Word
  deriving DecidableEq, Repr

/-- The addressing of a packet header (R352, Table 2 of the link chapter). -/
structure LinkHeader where
  dest  : BitVec 14
  bcast : Bool
  droot : Bool
  srca  : BitVec 14
  sroot : Bool
  deriving DecidableEq, Repr

/-- How a packet arrives (R352, R354): its link, its sequence number, which only a retried type carries, and whether its CRC holds. -/
structure Arrival where
  link  : Fin 4
  seq   : Byte
  crcOk : Bool
  deriving DecidableEq, Repr

/-- How a packet arrives that a device passes on: with its originator, as its header names it (R352). -/
structure Relayed extends Arrival where
  srca  : BitVec 14
  sroot : Bool
  deriving DecidableEq, Repr

/-- One entry of a WEV payload (R352, Table 3 of the link chapter). -/
structure WevEntry where
  slot : BitVec 16
  widx : BitVec 16
  pkt  : EvPacket
  deriving DecidableEq, Repr

/-- One FRM record (R363, Table 7 of the link chapter). -/
structure FrmRecord where
  op      : Byte
  flags   : Byte
  slot    : BitVec 16
  dev     : BitVec 16
  lane    : BitVec 16
  aseq    : Word
  keypart : BitVec 16
  noteId  : BitVec 16
  vel     : BitVec 16
  sid     : Byte
  pool    : Byte
  uni     : Byte
  pos     : BitVec 16
  aux     : Word
  deriving DecidableEq, Repr

/-- An FRM payload (R363, Table 6 of the link chapter); the record and the end map as their bytes. -/
structure FrmPayload where
  frame   : Word
  nevt    : BitVec 16
  tense   : List Byte
  endmap  : List Byte
  records : List FrmRecord
  deriving DecidableEq, Repr

/-- An up-block (R368): the header, the bus samples bus by bus, the report. -/
structure UpBlock where
  frame  : Word
  void   : BitVec 16
  nlost  : BitVec 16
  lost   : List (BitVec 16)
  sums   : List DWord
  report : List (BitVec 16)
  deriving DecidableEq, Repr

/-- The three SYNC arrivals have a ball edge of their own whose instant lies 2 to 4 TCLK cycles after it (R312). -/
abbrev SyncDelay := Fin 3

/-- The boot steps that time out (R416, R455). -/
inductive BootStep where
  | alwaysOn | regulators | fuses | discovery | load | selfTest (v : Fin 16)
  deriving DecidableEq, Repr

/-- The wake steps that time out (R454). -/
inductive WakeStep where
  | bucks | crystal | pll | image | selfTest (v : Fin 16)
  deriving DecidableEq, Repr

/-- THE COMMANDS: one constructor per row of spec/opcode_table.json. -/
inductive Instr where
  | registerWrite (addr value : Word)
  | write (addr : Word) (words : List Word) (rest : BitVec 5)
  | writeFixed (addr : Word) (words : List Word) (rest : BitVec 5)
  | read (addr : Word) (count : Nat)
  | readFixed (addr : Word) (count : Nat)
  | status (count : Nat)
  | undefinedHostCommand (code : Byte) (addr : Word)
  | hostTransactionEnd
  | countReadLatch (reg : CountReg)
  | wclkLock
  | wclkLost
  | wclkResumed
  | crystalFail
  | crystalStartTimeout (wclk : Option WclkRate)
  | aoClockSwitch
  | syncBallEdge (delay : SyncDelay)
  | syncCommand
  | frameBoundary
  | eventTake
  | tempoSourceLoss
  | wordFrameDispatch (v : Fin 16)
  | preemption (v : Fin 16) (elapsed : BitVec 20)
  | migrationCheck (elapsed : BitVec 20)
  | phraseMigrate (pos : BitVec 12)
  | stateCopyDone (pos : BitVec 12)
  | sendBarrier
  | par (v : Fin 16) (a b : ArithField) (x y : MoveField)
  | imm (v : Fin 16) (dst : BitVec 6) (value : Word)
  | alui (v : Fin 16) (a : ArithField) (value : Word)
  | regmove (v : Fin 16) (dst src : BitVec 6) (x y : MoveField)
  | ctrlNone (v : Fin 16)
  | jmp (v : Fin 16) (cond : BitVec 4) (target : BitVec 13)
  | call (v : Fin 16) (cond : BitVec 4) (target : BitVec 13)
  | ret (v : Fin 16)
  | rep (v : Fin 16) (counter : BitVec 2) (count : BitVec 16) (last : BitVec 13)
  | repd (v : Fin 16) (counter : BitVec 2) (dreg : BitVec 4) (last : BitVec 13)
  | yield (v : Fin 16)
  | exp2f (v : Fin 16) (dst src : BitVec 4) (x y : MoveField)
  | log2f (v : Fin 16) (dst src : BitVec 4) (x y : MoveField)
  | pinc (v : Fin 16) (dst src : BitVec 4) (x y : MoveField)
  | explogResult (v : Fin 16)
  | tip (v : Fin 16) (posPair cfg : BitVec 4) (x y : MoveField)
  | tableResult (v : Fin 16)
  | tget (v : Fin 16) (dst : BitVec 4) (x y : MoveField)
  | sharedLoadResult (v : Fin 16)
  | mixadd (v : Fin 16) (val busIdx : BitVec 4) (x y : MoveField)
  | mixadd2 (v : Fin 16) (valPair busIdx : BitVec 4) (x y : MoveField)
  | evpost (v : Fin 16) (src : BitVec 4) (x y : MoveField)
  | costExceeded (v : Fin 16)
  | watchdogFault (v : Fin 16)
  | storeDeliver
  | eventDeliver
  | eventAccept
  | fenceTimeout (g : Fin 4)
  | midiByteParse (src : Fin 8)
  | umpWord (src : Fin 8)
  | nativePacketCharacter (src : Fin 8)
  | eventWindowWrite (value : Word)
  | timerGo (mask : BitVec 16)
  | compareMatch (n : Fin 16)
  | periodEnd (n : Fin 16)
  | timerWrap (n : Fin 16)
  | timerCapture (n : Fin 16) (falling : Bool)
  | musicalWindowWrite (value : Word)
  | dacChannelWrite (k : Fin 16) (value : Word)
  | parkSwitchClose (k : Fin 16)
  | monitorWindow (m : Measurement)
  | cvChannelWrite (k : Fin 8) (value : Word)
  | cvParkSwitchClose (k : Fin 8)
  | cvSwitchOpen (k : Fin 8)
  | cvRailLoss (vcvp vcvn : Bool)
  | cvRailGood
  | adcRun (run : Bool)
  | adcChannelWrite (n : Fin 16) (value : Word)
  | customCoefficientWrite (value : Word)
  | customDelayWrite (value : Word)
  | settleDone (n : Fin 16) (tap : BitVec 40)
  | modulatorOverload (n : Fin 16) (resets : Word)
  | thresholdCrossing (x : Fin 32) (tap : BitVec 40)
  | thresholdEvent (x : Fin 32) (tap : BitVec 40)
  | holdoffEnd (x : Fin 32)
  | startEdge (p : Fin 8) (quarter : BitVec 2)
  | characterReceived (p : Fin 8) (line : List Nat)
  | characterTransmit (p : Fin 8) (echo : List Bool)
  | collisionRetry (p : Fin 8) (echo : List Bool)
  | baudWrite (p : Fin 8) (value : Word)
  | baudApply (p : Fin 8) (transmit : Bool)
  | serialControlWrite (p : Fin 8) (value : Word)
  | rxflush (p : Fin 8)
  | txflush (p : Fin 8)
  | mute (p : Fin 8)
  | transmitData (p : Fin 8) (value : Word)
  | receiveDataRead (p : Fin 8)
  | roleDecision
  | hello (l : Arrival) (h : HelloPayload) (arrival : Word)
  | linkTrainingTimeout (l : Fin 4)
  | addr (l : Arrival) (address : BitVec 14) (position : BitVec 6) (depth tiers : BitVec 2)
  | ctl (l : Arrival) (hd : LinkHeader) (op err : BitVec 2) (offset data : Word)
  | evt (l : Arrival) (hd : LinkHeader) (events : List EvPacket)
  | wev (l : Relayed) (frame : Word) (entries : List WevEntry)
  | frm (l : Relayed) (payload : FrmPayload)
  | upb (l : Fin 4) (block : UpBlock) (crcOk : Bool)
  | upbExport
  | upbSopTimeout (l : Fin 4)
  | syncPacket (l : Arrival) (elapsed : DWord) (new : Bool) (arrival : DWord)
  | periodicSync
  | bootPacket (l : Relayed) (offset : Word) (bytes : List Byte)
  | trc (l : Relayed) (words : List Word) (scheduling : Bool)
  | stat (l : Relayed) (kind : Byte) (address : BitVec 16)
  | cred (l : Fin 4) (cls : BitVec 2) (count : Byte)
  | ack (l : Fin 4) (seq : Byte)
  | nak (l : Fin 4) (seq : Byte)
  | replayTimeout (l : Fin 4)
  | linkDown (l : Fin 4)
  | deviceRemoval
  | workerJoin (address : BitVec 14)
  | lateMarkClear (address : BitVec 14)
  | mailboxRequest (value : Word)
  | mailboxTimeout
  | portFrameIn (p : Fin 4) (slots : List Word) (lastBit : DWord)
  | portFrameOut (p : Fin 4) (begins : DWord)
  | daiNoClock (p : Fin 4)
  | scrubWriteback
  | backgroundRowTest (rowFails : Bool) (spareFails : List Bool)
  | powerOnReset (vin : BitVec 16)
  | brownoutReset (vin : BitVec 16)
  | pinReset
  | softwareReset
  | bootSequence (selfTestFails : BitVec 16) (crystal44 : Bool)
  | bootTimeout (step : BootStep) (crystal44 : Bool)
  | store (kind : Byte) (len : BitVec 13)
  | newestRecordRead (kind : Byte)
  | storeCommit
  | storeOnHoldup (vhold : BitVec 16) (reachesVmin : Bool)
  | streamFetch
  | reload (value : Word)
  | flashRead
  | flashProgram
  | flashErase
  | flashOperationDone
  | run
  | quiet
  | sleep
  | off
  | entryComplete
  | domainEnable (value : Word)
  | verbProgramLoad (verbB : Bool)
  | padRelease (value : Word)
  | brownoutWarning (vin : BitVec 16)
  | warningRecovery (vin : BitVec 16)
  | brownoutMute
  | vholdShort (millivolts : BitVec 16)
  | vinminClear
  | wakeEvent (sources : BitVec 24) (selfTestFails : BitVec 16)
  | wakeStepTimeout (step : WakeStep)
  | glossEntryStore
  | clearKept (key : BitVec 16)
  | clearCirculating (key : BitVec 16)
  | clearBoth (key : BitVec 16)
  | glossFreeze
  | glossResume
  | rateWrite (value : Word)
  | overrideWrite (n : Fin 16) (value : Word)
  | traceRingResume
  | clrmax
  | testLogicReset
  | extest
  | samplePreload (pins preload : List Bool)
  | idcode
  | clamp
  | highz
  | dbgacc
  | bypass
  | debugRead (address : Word)
  | debugWrite (address value : Word)
  | halt (n : Fin 16) (atYield : Bool)
  | resume (n : Fin 16)
  | step (n : Fin 16)
  | breakpointHit (n : Fin 16)
  | verbRegisterAccess (n : Fin 16) (value : Option Word)
  | fuseProgram (value : Word)
  | fuseVerify (blown : BitVec 32) (parity : Bool)
  | commaAlignment (l : Fin 4)
  | helloInterval (l : Fin 4)
  | muteRampEnd (k : Fin 16)
  | cvRampEnd (k : Fin 8)
  deriving DecidableEq, Repr

end Sys2Proof
end

