-- ==== Sys2Proof/Decode.lean ====
section
/-! DEFINITION. The decoder over the table's bits. spec/opcode_table.json gives no row any bits (every "fields" is empty): the
commands are named, not encoded, so no word spells one. The Verb's own instruction words (R111) are decoded in
Machine/VerbDecode.lean. -/

namespace Sys2Proof

/-- The command that a word spells by the table's bits: none, because the table gives no row bits. -/
def decodeTableWord (_nbits _w : Nat) : Option Instr := none

end Sys2Proof
end

