-- ==== Sys2Proof/Config.lean ====
section
/-! DEFINITION. What an implementation fixes and the spec leaves open: FREE VALUES without a body, so that nothing can be
proved about which value they take. Each is named in the assumption log. -/

namespace Sys2Proof.Config

/-- A word the spec leaves undefined, drawn by the counter State.free (log 3): what the discard frame reads (R85), the
Word scratch at entry (R120). -/
opaque freeWord : Nat → Word

/-- The instruction index at which the catalogue library places the code of a catalogue Word type (R120: "the library
entry for a catalogue type"; the spec gives no place for it, log 4). -/
opaque libraryEntry : Nat → BitVec 13

/-- The stage 5 to 8 coefficients of the linear-phase set, by address (R305: "This manual does not list their values",
log 5). -/
opaque linearPhaseCoefficient : Nat → Word

/-- The coefficients of stages 1 to 4, by stage and index, and those of stages 7 and 8 of the low-latency set, by address: R301 and R303
name them and give no values (log 5). -/
opaque fixedCoefficient : Nat → Nat → Word
opaque lowLatencyCoefficient : Nat → Word

/-- The code, plus 4, that the modulator of a channel gives at the modulator clock edge of an AOTIME: the signal at the balls is outside
the device (R300, log 15). -/
opaque modulatorCode : Nat → Nat → Fin 9

/-- The synchronised level of ball SPnCTS, true where it is asserted, by port and TCLK cycle: an input of the device that no command names
(R334, log 155). -/
opaque ctsLevel : Nat → Nat → Bool

/-- The 40-bit word of a stage's sum that 40 bits do not hold (R302 says that overrange is carried and gives no wider word, log 128). -/
opaque beyond40 : Int → BitVec 40

/-- How many cycles a shared load or a table result takes beyond its issue, by the counter State.free; the users of it
clamp it to the spec's bound of 30, 40 or 3 cycles (R88, R107, R109, log 7). -/
opaque freeLatency : Nat → Nat

/-- The bus of feed n (R267 says that MIX.FEEDn names one and its table gives no field for it, log 20). -/
opaque feedBus : Nat → Nat

/-- A table-interpolation result whose exact rounded value lies outside Q1.31 (R108 forms it "exactly" and rounds it to Q1.31, and states
no result there, log 108). -/
opaque beyondQ31 : Int → Word

/-- How the data word of Gloss 0x1260 codes its cause: 0 a refused write, 1 a bus error, 2 a wait that timed out (R425 gives the
codes no values, log 35). -/
opaque listCause : Nat → Word

end Sys2Proof.Config
end

