-- ==== Sys2Proof/Machine/RegMap.lean ====
section
/-! DEFINITION. The register map of the device (R4, R23, R27, Table 10 of the architecture chapter): the address of every
register, its access type bit by bit (R5), its reset value, what closes its RWL fields (R9) and the field values that are
undefined encodings (R9). One row of a page's table is one register, or one array of registers at a stride. -/

namespace Sys2Proof.Machine

/-- What closes a register's RWL fields (R9). -/
inductive Close where
  | none | device | tense | adcRun | spEnabled | daiEnabled | dbgLock
  deriving DecidableEq, Repr

/-- One register or register array: the masks say which bits have which access type (R5); bits in no mask are reserved
(R6). A range is (high bit, low bit, least, greatest): every other value of that field is undefined. -/
structure RegDesc where
  addr   : Nat
  stride : Nat
  count  : Nat
  reset  : Nat
  rw     : Nat
  rws    : Nat
  w1c    : Nat
  wo     : Nat
  rwl    : Nat
  ro     : Nat
  close  : Close
  ranges : List (Nat × Nat × Nat × Nat)
  deriving DecidableEq, Repr

/-! The device address of each register (instance 0 of an array). -/

/-- The SYS page (Table 10 of the architecture chapter). -/
def R.sysPage : Nat := 0x40000000
/-- The PWR page (Table 10 of the architecture chapter). -/
def R.pwrPage : Nat := 0x40010000
/-- The CLK page (Table 10 of the architecture chapter). -/
def R.clkPage : Nat := 0x40020000
/-- The PARSER page (Table 10 of the architecture chapter). -/
def R.parserPage : Nat := 0x40030000
/-- The ALLOC page (Table 10 of the architecture chapter). -/
def R.allocPage : Nat := 0x40040000
/-- The EVT page (Table 10 of the architecture chapter). -/
def R.evtPage : Nat := 0x40050000
/-- The TENSE page (Table 10 of the architecture chapter). -/
def R.tensePage : Nat := 0x40060000
/-- The MIX page (Table 10 of the architecture chapter). -/
def R.mixPage : Nat := 0x40070000
/-- The DAC page (Table 10 of the architecture chapter). -/
def R.dacPage : Nat := 0x40080000
/-- The CVO page (Table 10 of the architecture chapter). -/
def R.cvoPage : Nat := 0x40090000
/-- The ADC page (Table 10 of the architecture chapter). -/
def R.adcPage : Nat := 0x400A0000
/-- The SP page (Table 10 of the architecture chapter). -/
def R.spPage : Nat := 0x400B0000
/-- The LINK page (Table 10 of the architecture chapter). -/
def R.linkPage : Nat := 0x400C0000
/-- The DAI page (Table 10 of the architecture chapter). -/
def R.daiPage : Nat := 0x400D0000
/-- The MEM page (Table 10 of the architecture chapter). -/
def R.memPage : Nat := 0x400E0000
/-- The GLOSS page (Table 10 of the architecture chapter). -/
def R.glossPage : Nat := 0x400F0000
/-- The VDBG page (Table 10 of the architecture chapter). -/
def R.vdbgPage : Nat := 0x40100000
/-- The NVM page (Table 10 of the architecture chapter). -/
def R.nvmPage : Nat := 0x40110000
/-- The FUSE page (Table 10 of the architecture chapter). -/
def R.fusePage : Nat := 0x40120000
/-- SYS.ID (R26). -/
def R.sysId : Nat := 0x40000000
/-- SYS.BUSERR (R25). -/
def R.sysBuserr : Nat := 0x40000010
/-- SYS.BUSADDR (R25). -/
def R.sysBusaddr : Nat := 0x40000014
/-- SYS.IRQSTAT (R32). -/
def R.sysIrqstat : Nat := 0x40000020
/-- SYS.IRQEN (R32). -/
def R.sysIrqen : Nat := 0x40000024
/-- PWR.CMD (R458). -/
def R.pwrCmd : Nat := 0x40010000
/-- PWR.STAT (R458). -/
def R.pwrStat : Nat := 0x40010004
/-- PWR.DOMEN (R445). -/
def R.pwrDomen : Nat := 0x40010008
/-- PWR.DOMSTAT (R445). -/
def R.pwrDomstat : Nat := 0x4001000C
/-- PWR.PADREL (R452). -/
def R.pwrPadrel : Nat := 0x40010010
/-- PWR.RET (R411). -/
def R.pwrRet : Nat := 0x40010014
/-- PWR.WAKEEN (R453). -/
def R.pwrWakeen : Nat := 0x40010018
/-- PWR.WAKESRC (R453). -/
def R.pwrWakesrc : Nat := 0x4001001C
/-- PWR.VIN (R441). -/
def R.pwrVin : Nat := 0x40010020
/-- PWR.VINMIN (R441). -/
def R.pwrVinmin : Nat := 0x40010024
/-- PWR.BOWAIT (R449). -/
def R.pwrBowait : Nat := 0x40010028
/-- PWR.HOLD (R442). -/
def R.pwrHold : Nat := 0x4001002C
/-- PWR.RSTCAUSE (R443). -/
def R.pwrRstcause : Nat := 0x40010030
/-- PWR.FAIL (R455). -/
def R.pwrFail : Nat := 0x40010034
/-- CLK.CTRL (R13). -/
def R.clkCtrl : Nat := 0x40020000
/-- CLK.STAT (R14). -/
def R.clkStat : Nat := 0x40020004
/-- PARSER.CFG (R155). -/
def R.parserCfg : Nat := 0x40030000
/-- PARSER.LANECFG (R155). -/
def R.parserLanecfg : Nat := 0x40030004
/-- PARSER.DLIM (R155). -/
def R.parserDlim : Nat := 0x40030008
/-- PARSER.VEN (R155). -/
def R.parserVen : Nat := 0x4003000C
/-- PARSER.VSTAT (R155). -/
def R.parserVstat : Nat := 0x40030010
/-- PARSER.VSLOW (R144). -/
def R.parserVslow : Nat := 0x40030014
/-- PARSER.GLOB (R155). -/
def R.parserGlob : Nat := 0x40030018
/-- PARSER.WIN (R147). -/
def R.parserWin : Nat := 0x4003001C
/-- PARSER.OVRFRM (R149). -/
def R.parserOvrfrm : Nat := 0x40030020
/-- PARSER.OVR (R149). -/
def R.parserOvr : Nat := 0x40030040
/-- PARSER.ABANDON (R150). -/
def R.parserAbandon : Nat := 0x40030044
/-- PARSER.MIG (R145). -/
def R.parserMig : Nat := 0x40030048
/-- PARSER.PREEMPT (R142). -/
def R.parserPreempt : Nat := 0x4003004C
/-- PARSER.REFUSE (R136). -/
def R.parserRefuse : Nat := 0x40030050
/-- PARSER.WSTALL (R147). -/
def R.parserWstall : Nat := 0x40030054
/-- PARSER.DEFER (R51). -/
def R.parserDefer : Nat := 0x40030058
/-- PARSER.LATESEND (R149). -/
def R.parserLatesend : Nat := 0x4003005C
/-- PARSER.TRDROP (R153). -/
def R.parserTrdrop : Nat := 0x40030060
/-- PARSER.LANE (R155). -/
def R.parserLane : Nat := 0x40030100
/-- PARSER.LFADE (R155). -/
def R.parserLfade : Nat := 0x40030140
/-- PARSER.VLOAD (R155). -/
def R.parserVload : Nat := 0x40030180
/-- PARSER.TRCTL (R155). -/
def R.parserTrctl : Nat := 0x40030200
/-- PARSER.TRVERB (R155). -/
def R.parserTrverb : Nat := 0x40030204
/-- PARSER.TRSLOT (R155). -/
def R.parserTrslot : Nat := 0x40030208
/-- PARSER.TRPTR (R154). -/
def R.parserTrptr : Nat := 0x4003020C
/-- PARSER.TRBASE (R154). -/
def R.parserTrbase : Nat := 0x40030210
/-- PARSER.LSEL (R155). -/
def R.parserLsel : Nat := 0x40030300
/-- PARSER.LSUM (R155). -/
def R.parserLsum : Nat := 0x40030304
/-- PARSER.LFSUM (R155). -/
def R.parserLfsum : Nat := 0x40030308
/-- PARSER.VOID (R174). -/
def R.parserVoid : Nat := 0x40030400
/-- PARSER.VOIDCNT (R174). -/
def R.parserVoidcnt : Nat := 0x40030404
/-- PARSER.VOIDFRM (R174). -/
def R.parserVoidfrm : Nat := 0x40030408
/-- PARSER.DIVERGE (R174). -/
def R.parserDiverge : Nat := 0x4003040C
/-- ALLOC.SLOTS (R180). -/
def R.allocSlots : Nat := 0x40040000
/-- ALLOC.FADE (R188). -/
def R.allocFade : Nat := 0x40040004
/-- ALLOC.STAT (R201). -/
def R.allocStat : Nat := 0x40040008
/-- ALLOC.STEAL (R188). -/
def R.allocSteal : Nat := 0x40040040
/-- ALLOC.CUT (R190). -/
def R.allocCut : Nat := 0x40040044
/-- ALLOC.REFUSE (R182). -/
def R.allocRefuse : Nat := 0x40040048
/-- ALLOC.ORPHOFF (R192). -/
def R.allocOrphoff : Nat := 0x4004004C
/-- ALLOC.STKDROP (R194). -/
def R.allocStkdrop : Nat := 0x40040050
/-- ALLOC.POOL (R180). -/
def R.allocPool : Nat := 0x40040100
/-- ALLOC.POOLCNT (R201). -/
def R.allocPoolcnt : Nat := 0x40040140
/-- ALLOC.PART (R198). -/
def R.allocPart : Nat := 0x40040180
/-- ALLOC.QSEL (R201). -/
def R.allocQsel : Nat := 0x40040200
/-- ALLOC.QSTATE (R201). -/
def R.allocQstate : Nat := 0x40040204
/-- ALLOC.QNOTE (R201). -/
def R.allocQnote : Nat := 0x40040208
/-- ALLOC.QSEQ (R201). -/
def R.allocQseq : Nat := 0x4004020C
/-- ALLOC.QLANE (R201). -/
def R.allocQlane : Nat := 0x40040210
/-- ALLOC.SYNRES (R60). -/
def R.allocSynres : Nat := 0x40040F00
/-- ALLOC.SYNINV (R60). -/
def R.allocSyninv : Nat := 0x40040F20
/-- ALLOC.SYNREF (R60). -/
def R.allocSynref : Nat := 0x40040F40
/-- EVT.CFG (R233). -/
def R.evtCfg : Nat := 0x40050000
/-- EVT.STAT (R233). -/
def R.evtStat : Nat := 0x40050004
/-- EVT.LATE (R209). -/
def R.evtLate : Nat := 0x40050040
/-- EVT.QDROP (R210). -/
def R.evtQdrop : Nat := 0x40050044
/-- EVT.BADMSG (R205). -/
def R.evtBadmsg : Nat := 0x40050048
/-- EVT.MAPMISS (R233). -/
def R.evtMapmiss : Nat := 0x4005004C
/-- EVT.MAPRANGE (R233). -/
def R.evtMaprange : Nat := 0x40050050
/-- EVT.OUTDROP (R231). -/
def R.evtOutdrop : Nat := 0x40050054
/-- EVT.SRCCFG (R233). -/
def R.evtSrccfg : Nat := 0x40050100
/-- EVT.QUOTA (R210). -/
def R.evtQuota : Nat := 0x40050200
/-- EVT.RBASE (R233). -/
def R.evtRbase : Nat := 0x40050300
/-- EVT.RPTR (R233). -/
def R.evtRptr : Nat := 0x40050304
/-- EVT.PARTPROG (R233). -/
def R.evtPartprog : Nat := 0x40050340
/-- EVT.HWIN (R233). -/
def R.evtHwin : Nat := 0x40050400
/-- EVT.SRANK (R165). -/
def R.evtSrank : Nat := 0x40050800
/-- EVT.PTIMEOUT (R169). -/
def R.evtPtimeout : Nat := 0x40050840
/-- EVT.PMASK (R169). -/
def R.evtPmask : Nat := 0x40050850
/-- EVT.PSTAT (R168). -/
def R.evtPstat : Nat := 0x40050870
/-- EVT.PABANDON (R169). -/
def R.evtPabandon : Nat := 0x40050874
/-- EVT.XCTL (R175). -/
def R.evtXctl : Nat := 0x40050880
/-- EVT.XBASE (R175). -/
def R.evtXbase : Nat := 0x40050884
/-- EVT.XPTR (R175). -/
def R.evtXptr : Nat := 0x40050888
/-- EVT.XDROP (R175). -/
def R.evtXdrop : Nat := 0x4005088C
/-- TENSE.CFG (R262). -/
def R.tenseCfg : Nat := 0x40060000
/-- TENSE.PLL (R262). -/
def R.tensePll : Nat := 0x40060004
/-- TENSE.TEMPO (R262). -/
def R.tenseTempo : Nat := 0x40060008
/-- TENSE.STAT (R262). -/
def R.tenseStat : Nat := 0x4006000C
/-- TENSE.POSL (R262). -/
def R.tensePosl : Nat := 0x40060010
/-- TENSE.POSH (R262). -/
def R.tensePosh : Nat := 0x40060014
/-- TENSE.QF (R262). -/
def R.tenseQf : Nat := 0x40060018
/-- TENSE.QRUN (R262). -/
def R.tenseQrun : Nat := 0x4006001C
/-- TENSE.BPM (R262). -/
def R.tenseBpm : Nat := 0x40060020
/-- TENSE.FRBASE (R245). -/
def R.tenseFrbase : Nat := 0x40060024
/-- TENSE.AOTIMEL (R259). -/
def R.tenseAotimel : Nat := 0x40060030
/-- TENSE.AOTIMEH (R259). -/
def R.tenseAotimeh : Nat := 0x40060034
/-- TENSE.EPOCHL (R259). -/
def R.tenseEpochl : Nat := 0x40060038
/-- TENSE.EPOCHH (R259). -/
def R.tenseEpochh : Nat := 0x4006003C
/-- TENSE.GO (R251). -/
def R.tenseGo : Nat := 0x40060040
/-- TENSE.RUN (R251). -/
def R.tenseRun : Nat := 0x40060044
/-- TENSE.TPCTL (R262). -/
def R.tenseTpctl : Nat := 0x40060048
/-- TENSE.MSKIP (R262). -/
def R.tenseMskip : Nat := 0x40060080
/-- TENSE.MLATE (R262). -/
def R.tenseMlate : Nat := 0x40060084
/-- TENSE.CTLBAD (R262). -/
def R.tenseCtlbad : Nat := 0x40060088
/-- TENSE.PGLITCH (R262). -/
def R.tensePglitch : Nat := 0x4006008C
/-- TENSE.LOSSCNT (R262). -/
def R.tenseLosscnt : Nat := 0x40060090
/-- TENSE.MBAD (R262). -/
def R.tenseMbad : Nat := 0x40060094
/-- TENSE.MWIN (R246). -/
def R.tenseMwin : Nat := 0x40060400
/-- TENSE.MSTAT (R246). -/
def R.tenseMstat : Nat := 0x40060404
/-- TENSE.TCTL (R262). -/
def R.tenseTctl : Nat := 0x40061000
/-- TENSE.TCNT (R254). -/
def R.tenseTcnt : Nat := 0x40061004
/-- TENSE.TLAP (R254). -/
def R.tenseTlap : Nat := 0x40061008
/-- TENSE.TPER (R253). -/
def R.tenseTper : Nat := 0x4006100C
/-- TENSE.TCMPA (R253). -/
def R.tenseTcmpa : Nat := 0x40061010
/-- TENSE.TCMPB (R253). -/
def R.tenseTcmpb : Nat := 0x40061014
/-- TENSE.TCAP (R256). -/
def R.tenseTcap : Nat := 0x40061018
/-- TENSE.TCAPLAP (R256). -/
def R.tenseTcaplap : Nat := 0x4006101C
/-- TENSE.TSTAT (R262). -/
def R.tenseTstat : Nat := 0x40061020
/-- MIX.BBASE (R282). -/
def R.mixBbase : Nat := 0x40070000
/-- MIX.FBASE (R282). -/
def R.mixFbase : Nat := 0x40070004
/-- MIX.FEED (R282). -/
def R.mixFeed : Nat := 0x40070100
/-- MIX.FSTAT (R282). -/
def R.mixFstat : Nat := 0x40070180
/-- MIX.AOUT (R282). -/
def R.mixAout : Nat := 0x40070200
/-- DAC.CFG (R283). -/
def R.dacCfg : Nat := 0x40080000
/-- DAC.STAT (R283). -/
def R.dacStat : Nat := 0x40080004
/-- DAC.CLIP (R283). -/
def R.dacClip : Nat := 0x40080040
/-- DAC.CH (R283). -/
def R.dacCh : Nat := 0x40080100
/-- DAC.CHSTAT (R283). -/
def R.dacChstat : Nat := 0x40080140
/-- DAC.OFS (R283). -/
def R.dacOfs : Nat := 0x40080180
/-- DAC.TINCL (R283). -/
def R.dacTincl : Nat := 0x40080200
/-- DAC.TINCH (R283). -/
def R.dacTinch : Nat := 0x40080204
/-- DAC.TAMP (R283). -/
def R.dacTamp : Nat := 0x40080208
/-- DAC.TCTL (R283). -/
def R.dacTctl : Nat := 0x4008020C
/-- CVO.CFG (R297). -/
def R.cvoCfg : Nat := 0x40090000
/-- CVO.STAT (R297). -/
def R.cvoStat : Nat := 0x40090004
/-- CVO.CH (R297). -/
def R.cvoCh : Nat := 0x40090100
/-- CVO.SRC (R297). -/
def R.cvoSrc : Nat := 0x40090140
/-- CVO.PREF (R297). -/
def R.cvoPref : Nat := 0x40090180
/-- CVO.CHSTAT (R297). -/
def R.cvoChstat : Nat := 0x400901C0
/-- CVO.OFS (R297). -/
def R.cvoOfs : Nat := 0x40090200
/-- CVO.GAIN (R297). -/
def R.cvoGain : Nat := 0x40090240
/-- CVO.TINCL (R297). -/
def R.cvoTincl : Nat := 0x40090300
/-- CVO.TINCH (R297). -/
def R.cvoTinch : Nat := 0x40090304
/-- CVO.TAMP (R297). -/
def R.cvoTamp : Nat := 0x40090308
/-- CVO.TCTL (R297). -/
def R.cvoTctl : Nat := 0x4009030C
/-- ADC.CTRL (R319). -/
def R.adcCtrl : Nat := 0x400A0000
/-- ADC.STAT (R319). -/
def R.adcStat : Nat := 0x400A0004
/-- ADC.FLAG (R319). -/
def R.adcFlag : Nat := 0x400A0008
/-- ADC.IBASE (R319). -/
def R.adcIbase : Nat := 0x400A000C
/-- ADC.CH (R319). -/
def R.adcCh : Nat := 0x400A0100
/-- ADC.CHHI (R319). -/
def R.adcChHi : Nat := 0x400A0120
/-- ADC.CHSTAT (R319). -/
def R.adcChstat : Nat := 0x400A0140
/-- ADC.TRIM (R319). -/
def R.adcTrim : Nat := 0x400A0180
/-- ADC.CADDR (R319). -/
def R.adcCaddr : Nat := 0x400A0200
/-- ADC.CDATA (R304). -/
def R.adcCdata : Nat := 0x400A0204
/-- ADC.CDELAY (R305). -/
def R.adcCdelay : Nat := 0x400A0208
/-- ADC.TLEVEL (R319). -/
def R.adcTlevel : Nat := 0x400A0400
/-- ADC.THYST (R319). -/
def R.adcThyst : Nat := 0x400A0404
/-- ADC.TCTL (R319). -/
def R.adcTctl : Nat := 0x400A0408
/-- SP.CFG (R345). -/
def R.spCfg : Nat := 0x400B0000
/-- SP.BAUD (R322). -/
def R.spBaud : Nat := 0x400B0004
/-- SP.CTL (R345). -/
def R.spCtl : Nat := 0x400B0008
/-- SP.FLOW (R345). -/
def R.spFlow : Nat := 0x400B000C
/-- SP.ADDR (R345). -/
def R.spAddr : Nat := 0x400B0010
/-- SP.SW (R345). -/
def R.spSw : Nat := 0x400B0014
/-- SP.CMD (R345). -/
def R.spCmd : Nat := 0x400B0018
/-- SP.STAT (R345). -/
def R.spStat : Nat := 0x400B001C
/-- SP.LEVEL (R345). -/
def R.spLevel : Nat := 0x400B0020
/-- SP.IEN (R345). -/
def R.spIen : Nat := 0x400B0024
/-- SP.RXD (R345). -/
def R.spRxd : Nat := 0x400B0030
/-- SP.RXT (R345). -/
def R.spRxt : Nat := 0x400B0034
/-- SP.TXD (R345). -/
def R.spTxd : Nat := 0x400B0038
/-- SP.DROP (R345). -/
def R.spDrop : Nat := 0x400B0040
/-- SP.FERRS (R345). -/
def R.spFerrs : Nat := 0x400B0044
/-- SP.PERRS (R345). -/
def R.spPerrs : Nat := 0x400B0048
/-- SP.COLLS (R345). -/
def R.spColls : Nat := 0x400B004C
/-- LINK.CFG (R379). -/
def R.linkCfg : Nat := 0x400C0000
/-- LINK.ADDR (R379). -/
def R.linkAddr : Nat := 0x400C0004
/-- LINK.HBASE (R379). -/
def R.linkHbase : Nat := 0x400C0008
/-- LINK.STAT (R379). -/
def R.linkStat : Nat := 0x400C000C
/-- LINK.LATEWK (R379). -/
def R.linkLatewk : Nat := 0x400C0040
/-- LINK.JOIN (R379). -/
def R.linkJoin : Nat := 0x400C0044
/-- LINK.REMOVE (R379). -/
def R.linkRemove : Nat := 0x400C0048
/-- LINK.DEFER (R379). -/
def R.linkDefer : Nat := 0x400C004C
/-- LINK.BADPKT (R379). -/
def R.linkBadpkt : Nat := 0x400C0050
/-- LINK.LCFG (R379). -/
def R.linkLcfg : Nat := 0x400C0100
/-- LINK.LSTAT (R379). -/
def R.linkLstat : Nat := 0x400C0104
/-- LINK.CRCERR (R379). -/
def R.linkCrcerr : Nat := 0x400C0108
/-- LINK.REPLAY (R379). -/
def R.linkReplay : Nat := 0x400C010C
/-- LINK.PLAN (R379). -/
def R.linkPlan : Nat := 0x400C0200
/-- LINK.QADDR (R379). -/
def R.linkQaddr : Nat := 0x400C0300
/-- LINK.QSTAT (R379). -/
def R.linkQstat : Nat := 0x400C0304
/-- LINK.QLOAD (R379). -/
def R.linkQload : Nat := 0x400C0308
/-- LINK.RDEST (R380). -/
def R.linkRdest : Nat := 0x400C0400
/-- LINK.ROFF (R380). -/
def R.linkRoff : Nat := 0x400C0404
/-- LINK.RDATA (R380). -/
def R.linkRdata : Nat := 0x400C0408
/-- LINK.RCTL (R380). -/
def R.linkRctl : Nat := 0x400C040C
/-- DAI.CFG (R391). -/
def R.daiCfg : Nat := 0x400D0000
/-- DAI.CTL (R391). -/
def R.daiCtl : Nat := 0x400D0004
/-- DAI.IMASK (R391). -/
def R.daiImask : Nat := 0x400D0008
/-- DAI.STAT (R391). -/
def R.daiStat : Nat := 0x400D0010
/-- DAI.SLIP (R391). -/
def R.daiSlip : Nat := 0x400D0020
/-- DAI.OSLOT0 (R391). -/
def R.daiOslot0 : Nat := 0x400D0040
/-- DAI.OSLOT1 (R391). -/
def R.daiOslot1 : Nat := 0x400D1040
/-- DAI.OSLOT2 (R391). -/
def R.daiOslot2 : Nat := 0x400D2040
/-- DAI.OSLOT3 (R391). -/
def R.daiOslot3 : Nat := 0x400D3040
/-- DAI.IBASE (R391). -/
def R.daiIbase : Nat := 0x400D4000
/-- MEM.DLY (R412). -/
def R.memDly : Nat := 0x400E0000
/-- MEM.BTCTL (R412). -/
def R.memBtctl : Nat := 0x400E0004
/-- MEM.BTPOS (R412). -/
def R.memBtpos : Nat := 0x400E0008
/-- MEM.STAT (R412). -/
def R.memStat : Nat := 0x400E000C
/-- MEM.UELOG (R397). -/
def R.memUelog : Nat := 0x400E0010
/-- MEM.UEADDR (R397). -/
def R.memUeaddr : Nat := 0x400E0014
/-- MEM.CELEX (R412). -/
def R.memCelex : Nat := 0x400E0040
/-- MEM.CESHR (R412). -/
def R.memCeshr : Nat := 0x400E0044
/-- MEM.CEVLOC (R412). -/
def R.memCevloc : Nat := 0x400E0048
/-- MEM.UECNT (R412). -/
def R.memUecnt : Nat := 0x400E004C
/-- MEM.REPAIRS (R412). -/
def R.memRepairs : Nat := 0x400E0050
/-- MEM.RMAP (R409). -/
def R.memRmap : Nat := 0x400E1000
/-- GLOSS.CTL (R474). -/
def R.glossCtl : Nat := 0x400F0000
/-- GLOSS.STAT (R474). -/
def R.glossStat : Nat := 0x400F0004
/-- GLOSS.PTR (R474). -/
def R.glossPtr : Nat := 0x400F0008
/-- GLOSS.BASE (R474). -/
def R.glossBase : Nat := 0x400F000C
/-- GLOSS.CMD (R470). -/
def R.glossCmd : Nat := 0x400F0010
/-- GLOSS.RATE (R466). -/
def R.glossRate : Nat := 0x400F0014
/-- GLOSS.SUPP (R474). -/
def R.glossSupp : Nat := 0x400F0040
/-- GLOSS.FRZCNT (R474). -/
def R.glossFrzcnt : Nat := 0x400F0044
/-- GLOSS.LOST (R474). -/
def R.glossLost : Nat := 0x400F0048
/-- GLOSS.OVR (R474). -/
def R.glossOvr : Nat := 0x400F0100
/-- VDBG.VCTL (R479). -/
def R.vdbgVctl : Nat := 0x40100000
/-- VDBG.VSTAT (R479). -/
def R.vdbgVstat : Nat := 0x40100004
/-- VDBG.VWF (R480). -/
def R.vdbgVwf : Nat := 0x40100008
/-- VDBG.VBP0 (R479). -/
def R.vdbgVbp0 : Nat := 0x40100010
/-- VDBG.VBP1 (R479). -/
def R.vdbgVbp1 : Nat := 0x40100014
/-- VDBG.VBP2 (R479). -/
def R.vdbgVbp2 : Nat := 0x40100018
/-- VDBG.VBP3 (R479). -/
def R.vdbgVbp3 : Nat := 0x4010001C
/-- VDBG.VRSEL (R481). -/
def R.vdbgVrsel : Nat := 0x40100020
/-- VDBG.VRDATA (R481). -/
def R.vdbgVrdata : Nat := 0x40100024
/-- VDBG.VFAULT (R129). -/
def R.vdbgVfault : Nat := 0x40100800
/-- VDBG.VSLOT (R129). -/
def R.vdbgVslot : Nat := 0x40100840
/-- VDBG.VOVER (R129). -/
def R.vdbgVover : Nat := 0x40100880
/-- NVM.BOOT (R438). -/
def R.nvmBoot : Nat := 0x40110000
/-- NVM.FLASH (R438). -/
def R.nvmFlash : Nat := 0x40110004
/-- NVM.STAT (R438). -/
def R.nvmStat : Nat := 0x40110008
/-- NVM.SCMD (R438). -/
def R.nvmScmd : Nat := 0x40110010
/-- NVM.SSTAT (R438). -/
def R.nvmSstat : Nat := 0x40110014
/-- NVM.HOLDUP (R433). -/
def R.nvmHoldup : Nat := 0x40110018
/-- NVM.RELOAD (R436). -/
def R.nvmReload : Nat := 0x4011001C
/-- NVM.FADDR (R437). -/
def R.nvmFaddr : Nat := 0x40110020
/-- NVM.FCMD (R437). -/
def R.nvmFcmd : Nat := 0x40110024
/-- NVM.SBUF (R435). -/
def R.nvmSbuf : Nat := 0x40111000
/-- FUSE.WORD (R484). -/
def R.fuseWord : Nat := 0x40120000
/-- FUSE.PERR (R484). -/
def R.fusePerr : Nat := 0x40120040
/-- FUSE.PDATA (R485). -/
def R.fusePdata : Nat := 0x40120080
/-- FUSE.PCTL (R485). -/
def R.fusePctl : Nat := 0x40120084
/-- FUSE.PSTAT (R485). -/
def R.fusePstat : Nat := 0x40120088
/-- SYS.ERR (R9). -/
def R.sysErr : Nat := 0x4000FFFC
/-- PWR.ERR (R9). -/
def R.pwrErr : Nat := 0x4001FFFC
/-- CLK.ERR (R9). -/
def R.clkErr : Nat := 0x4002FFFC
/-- PARSER.ERR (R9). -/
def R.parserErr : Nat := 0x4003FFFC
/-- ALLOC.ERR (R9). -/
def R.allocErr : Nat := 0x4004FFFC
/-- EVT.ERR (R9). -/
def R.evtErr : Nat := 0x4005FFFC
/-- TENSE.ERR (R9). -/
def R.tenseErr : Nat := 0x4006FFFC
/-- MIX.ERR (R9). -/
def R.mixErr : Nat := 0x4007FFFC
/-- DAC.ERR (R9). -/
def R.dacErr : Nat := 0x4008FFFC
/-- CVO.ERR (R9). -/
def R.cvoErr : Nat := 0x4009FFFC
/-- ADC.ERR (R9). -/
def R.adcErr : Nat := 0x400AFFFC
/-- SP.ERR (R9). -/
def R.spErr : Nat := 0x400BFFFC
/-- LINK.ERR (R9). -/
def R.linkErr : Nat := 0x400CFFFC
/-- DAI.ERR (R9). -/
def R.daiErr : Nat := 0x400DFFFC
/-- MEM.ERR (R9). -/
def R.memErr : Nat := 0x400EFFFC
/-- GLOSS.ERR (R9). -/
def R.glossErr : Nat := 0x400FFFFC
/-- VDBG.ERR (R9). -/
def R.vdbgErr : Nat := 0x4010FFFC
/-- NVM.ERR (R9). -/
def R.nvmErr : Nat := 0x4011FFFC
/-- FUSE.ERR (R9). -/
def R.fuseErr : Nat := 0x4012FFFC

/-- The registers of the SYS page. -/
def regTableSys : List RegDesc :=
  [
   ⟨R.sysId, 0, 1, 0x85121010, 0, 0, 0, 0, 0, 0xFFFFFFFF, .none, []⟩,
   ⟨R.sysBuserr, 0, 1, 0x0, 0, 0, 0xC0000000, 0, 0, 0x1F, .none, []⟩,
   ⟨R.sysBusaddr, 0, 1, 0x0, 0, 0, 0, 0, 0, 0xFFFFFFFF, .none, []⟩,
   ⟨R.sysIrqstat, 0, 1, 0x0, 0, 0, 0x1FF00, 0, 0, 0xFF, .none, []⟩,
   ⟨R.sysIrqen, 0, 1, 0x1FF, 0x1FFFF, 0, 0, 0, 0, 0, .none, []⟩,
   ⟨R.sysErr, 0, 1, 0x0, 0, 0, 0xE0000000, 0, 0, 0xFFFF, .none, []⟩]

/-- The registers of the PWR page. -/
def regTablePwr : List RegDesc :=
  [
   ⟨R.pwrCmd, 0, 1, 0x0, 0, 0, 0, 0xFF000007, 0, 0, .none, []⟩,
   ⟨R.pwrStat, 0, 1, 0x0, 0, 0, 0x100, 0, 0, 0xEF, .none, []⟩,
   ⟨R.pwrDomen, 0, 1, 0xFF, 0xFE, 0, 0, 0, 0, 0x1, .none, []⟩,
   ⟨R.pwrDomstat, 0, 1, 0xFF, 0, 0, 0, 0, 0, 0xFFFF, .none, []⟩,
   ⟨R.pwrPadrel, 0, 1, 0x0, 0, 0, 0, 0xA8, 0, 0, .none, []⟩,
   ⟨R.pwrRet, 0, 1, 0x80, 0x1FF, 0, 0, 0, 0, 0, .none, []⟩,
   ⟨R.pwrWakeen, 0, 1, 0x800003, 0x1FFFFFF, 0, 0, 0, 0, 0, .none, []⟩,
   ⟨R.pwrWakesrc, 0, 1, 0x0, 0, 0, 0xFFFFFF, 0, 0, 0, .none, []⟩,
   ⟨R.pwrVin, 0, 1, 0x0, 0, 0, 0, 0, 0, 0xFFFF, .none, []⟩,
   ⟨R.pwrVinmin, 0, 1, 0x0, 0, 0, 0, 0x80000000, 0, 0xFFFF, .none, []⟩,
   ⟨R.pwrBowait, 0, 1, 0x32, 0x3FF, 0, 0, 0, 0, 0, .none, [(9, 0, 1, 1000)]⟩,
   ⟨R.pwrHold, 0, 1, 0x1, 0x3, 0, 0, 0, 0, 0x300, .none, []⟩]
  ++ [
   ⟨R.pwrRstcause, 0, 1, 0x0, 0, 0, 0, 0, 0, 0xFFFF0003, .none, []⟩,
   ⟨R.pwrFail, 0, 1, 0x0, 0, 0, 0x80000000, 0, 0, 0xFF, .none, []⟩,
   ⟨R.pwrErr, 0, 1, 0x0, 0, 0, 0xE0000000, 0, 0, 0xFFFF, .none, []⟩]

/-- The registers of the CLK page. -/
def regTableClk : List RegDesc :=
  [
   ⟨R.clkCtrl, 0, 1, 0x10, 0x300, 0xC3, 0, 0, 0x10, 0x80000000, .device, [(7, 6, 0, 2), (1, 0, 0, 2)]⟩,
   ⟨R.clkStat, 0, 1, 0x1, 0, 0, 0x180, 0, 0, 0x7F, .none, []⟩,
   ⟨R.clkErr, 0, 1, 0x0, 0, 0, 0xE0000000, 0, 0, 0xFFFF, .none, []⟩]

/-- The registers of the PARSER page. -/
def regTableParser : List RegDesc :=
  [
   ⟨R.parserCfg, 0, 1, 0x1100840, 0, 0x11FFFFF, 0, 0, 0, 0x80000000, .none, [(20, 16, 0, 16), (15, 8, 1, 255), (7, 0, 64, 255)]⟩,
   ⟨R.parserLanecfg, 0, 1, 0x3B6D490, 0, 0, 0, 0, 0x3FFFFDF, 0, .device, []⟩,
   ⟨R.parserDlim, 0, 1, 0x3B6, 0x3FF, 0, 0, 0, 0, 0, .none, [(9, 0, 500, 1000)]⟩,
   ⟨R.parserVen, 0, 1, 0xFFFF, 0, 0xFFFF, 0, 0, 0, 0x80000000, .none, [(15, 0, 1, 65535)]⟩,
   ⟨R.parserVstat, 0, 1, 0xFFFF0000, 0, 0, 0, 0, 0, 0xFFFFFFFF, .none, []⟩,
   ⟨R.parserVslow, 0, 1, 0x0, 0, 0, 0xFFFF, 0, 0, 0, .none, []⟩,
   ⟨R.parserGlob, 0, 1, 0x0, 0, 0, 0, 0, 0, 0xFFFFFF, .none, []⟩,
   ⟨R.parserWin, 0, 1, 0x0, 0, 0, 0, 0x80000000, 0, 0x7F7F, .none, []⟩,
   ⟨R.parserOvrfrm, 0, 1, 0x0, 0, 0, 0, 0, 0, 0xFFFFFFFF, .none, []⟩,
   ⟨R.parserOvr, 0, 1, 0x0, 0, 0, 0x80000000, 0, 0, 0xFFFFFF, .none, []⟩,
   ⟨R.parserAbandon, 0, 1, 0x0, 0, 0, 0x80000000, 0, 0, 0xFFFFFF, .none, []⟩,
   ⟨R.parserMig, 0, 1, 0x0, 0, 0, 0x80000000, 0, 0, 0xFFFFFF, .none, []⟩]
  ++ [
   ⟨R.parserPreempt, 0, 1, 0x0, 0, 0, 0x80000000, 0, 0, 0xFFFFFF, .none, []⟩,
   ⟨R.parserRefuse, 0, 1, 0x0, 0, 0, 0x80000000, 0, 0, 0xFFFFFF, .none, []⟩,
   ⟨R.parserWstall, 0, 1, 0x0, 0, 0, 0x80000000, 0, 0, 0xFFFFFF, .none, []⟩,
   ⟨R.parserDefer, 0, 1, 0x0, 0, 0, 0x80000000, 0, 0, 0xFFFFFF, .none, []⟩,
   ⟨R.parserLatesend, 0, 1, 0x0, 0, 0, 0x80000000, 0, 0, 0xFFFFFF, .none, []⟩,
   ⟨R.parserTrdrop, 0, 1, 0x0, 0, 0, 0x80000000, 0, 0, 0xFFFFFF, .none, []⟩,
   ⟨R.parserLane, 4, 16, 0x0, 0, 0, 0, 0, 0, 0xFFFFFF, .none, []⟩,
   ⟨R.parserLfade, 4, 16, 0x0, 0, 0, 0, 0, 0, 0xFFFFFF, .none, []⟩,
   ⟨R.parserVload, 4, 16, 0x0, 0, 0, 0, 0, 0, 0xFFFFFF, .none, []⟩,
   ⟨R.parserTrctl, 0, 1, 0x1F00, 0, 0x1F7F, 0, 0, 0, 0x80000000, .none, [(2, 1, 0, 2)]⟩,
   ⟨R.parserTrverb, 0, 1, 0xFFFF, 0, 0xFFFF, 0, 0, 0, 0x80000000, .none, []⟩,
   ⟨R.parserTrslot, 0, 1, 0x7FF0000, 0, 0x7FF07FF, 0, 0, 0, 0x80000000, .none, []⟩]
  ++ [
   ⟨R.parserTrptr, 0, 1, 0x0, 0, 0, 0x80000000, 0, 0, 0x400007FF, .none, []⟩,
   ⟨R.parserTrbase, 0, 1, 0x1480000, 0, 0, 0, 0, 0, 0xFFFFFFFF, .none, []⟩,
   ⟨R.parserLsel, 0, 1, 0x0, 0x3FF, 0, 0, 0, 0, 0, .none, []⟩,
   ⟨R.parserLsum, 0, 1, 0x0, 0, 0, 0, 0, 0, 0xFFFFFF, .none, []⟩,
   ⟨R.parserLfsum, 0, 1, 0x0, 0, 0, 0, 0, 0, 0xFFFFFF, .none, []⟩,
   ⟨R.parserVoid, 0, 1, 0x0, 0, 0, 0x3FF0000, 0, 0, 0x3FF, .none, []⟩,
   ⟨R.parserVoidcnt, 0, 1, 0x0, 0, 0, 0x80000000, 0, 0, 0xFFFFFF, .none, []⟩,
   ⟨R.parserVoidfrm, 0, 1, 0x0, 0, 0, 0, 0, 0, 0xFFFFFFFF, .none, []⟩,
   ⟨R.parserDiverge, 0, 1, 0x0, 0, 0, 0, 0, 0, 0x107FF, .none, []⟩,
   ⟨R.parserErr, 0, 1, 0x0, 0, 0, 0xE0000000, 0, 0, 0xFFFF, .none, []⟩]

/-- The registers of the ALLOC page. -/
def regTableAlloc : List RegDesc :=
  [
   ⟨R.allocSlots, 0, 1, 0x400, 0, 0, 0, 0, 0x7FF, 0, .device, [(10, 0, 1, 1024)]⟩,
   ⟨R.allocFade, 0, 1, 0x40, 0, 0, 0, 0, 0x3FF, 0, .device, [(9, 0, 16, 512)]⟩,
   ⟨R.allocStat, 0, 1, 0x200400, 0, 0, 0, 0, 0, 0x3F07FF, .none, []⟩,
   ⟨R.allocSteal, 0, 1, 0x0, 0, 0, 0x80000000, 0, 0, 0xFFFFFF, .none, []⟩,
   ⟨R.allocCut, 0, 1, 0x0, 0, 0, 0x80000000, 0, 0, 0xFFFFFF, .none, []⟩,
   ⟨R.allocRefuse, 0, 1, 0x0, 0, 0, 0x80000000, 0, 0, 0xFFFFFF, .none, []⟩,
   ⟨R.allocOrphoff, 0, 1, 0x0, 0, 0, 0x80000000, 0, 0, 0xFFFFFF, .none, []⟩,
   ⟨R.allocStkdrop, 0, 1, 0x0, 0, 0, 0x80000000, 0, 0, 0xFFFFFF, .none, []⟩,
   ⟨R.allocPool, 4, 16, 0x0, 0, 0, 0, 0, 0x7FFFFFF, 0, .device, [(10, 0, 0, 1024), (21, 11, 0, 1024)]⟩,
   ⟨R.allocPoolcnt, 4, 16, 0x0, 0, 0, 0, 0, 0, 0x7FF, .none, []⟩,
   ⟨R.allocPart, 4, 16, 0x0, 0, 0, 0, 0, 0xFFF001F, 0x300, .device, [(3, 2, 0, 2), (1, 0, 0, 2)]⟩,
   ⟨R.allocQsel, 0, 1, 0x0, 0x7FF, 0, 0, 0, 0, 0, .none, []⟩]
  ++ [
   ⟨R.allocQstate, 0, 1, 0x0, 0, 0, 0, 0, 0, 0x7FFFFFFF, .none, []⟩,
   ⟨R.allocQnote, 0, 1, 0x0, 0, 0, 0, 0, 0, 0xFFFFFFFF, .none, []⟩,
   ⟨R.allocQseq, 0, 1, 0x0, 0, 0, 0, 0, 0, 0xFFFFFFFF, .none, []⟩,
   ⟨R.allocQlane, 0, 1, 0x0, 0, 0, 0, 0, 0, 0xBFFF03FF, .none, []⟩,
   ⟨R.allocSynres, 4, 8, 0x0, 0, 0, 0, 0, 0, 0xFFFFFFFF, .none, []⟩,
   ⟨R.allocSyninv, 4, 8, 0x0, 0, 0, 0, 0, 0, 0xFFFFFFFF, .none, []⟩,
   ⟨R.allocSynref, 0, 1, 0x0, 0, 0, 0x80000000, 0, 0, 0xFFFFFF, .none, []⟩,
   ⟨R.allocErr, 0, 1, 0x0, 0, 0, 0xE0000000, 0, 0, 0xFFFF, .none, []⟩]

/-- The registers of the EVT page. -/
def regTableEvt : List RegDesc :=
  [
   ⟨R.evtCfg, 0, 1, 0x20, 0, 0, 0, 0, 0xFF1FFF, 0, .device, [(23, 16, 0, 64), (12, 0, 0, 4096)]⟩,
   ⟨R.evtStat, 0, 1, 0x0, 0, 0, 0, 0, 0, 0x800007FF, .none, []⟩,
   ⟨R.evtLate, 0, 1, 0x0, 0, 0, 0x80000000, 0, 0, 0xFFFFFF, .none, []⟩,
   ⟨R.evtQdrop, 0, 1, 0x0, 0, 0, 0x80000000, 0, 0, 0xFFFFFF, .none, []⟩,
   ⟨R.evtBadmsg, 0, 1, 0x0, 0, 0, 0x80000000, 0, 0, 0xFFFFFF, .none, []⟩,
   ⟨R.evtMapmiss, 0, 1, 0x0, 0, 0, 0x80000000, 0, 0, 0xFFFFFF, .none, []⟩,
   ⟨R.evtMaprange, 0, 1, 0x0, 0, 0, 0x80000000, 0, 0, 0xFFFFFF, .none, []⟩,
   ⟨R.evtOutdrop, 0, 1, 0x0, 0, 0, 0x80000000, 0, 0, 0xFFFFFF, .none, []⟩,
   ⟨R.evtSrccfg, 4, 13, 0x0, 0, 0xFFFF00F, 0, 0, 0, 0x80000000, .none, [(1, 0, 0, 2)]⟩,
   ⟨R.evtQuota, 4, 16, 0x0, 0x7FF, 0, 0, 0, 0, 0x7FF0000, .none, [(10, 0, 0, 1024)]⟩,
   ⟨R.evtRbase, 0, 1, 0x148C000, 0, 0, 0, 0, 0, 0xFFFFFFFF, .none, []⟩,
   ⟨R.evtRptr, 0, 1, 0x0, 0, 0, 0x80000000, 0, 0, 0xFF, .none, []⟩]
  ++ [
   ⟨R.evtPartprog, 4, 16, 0x0, 0, 0, 0, 0, 0, 0x3FFFFFFF, .none, []⟩,
   ⟨R.evtHwin, 0, 1, 0x0, 0, 0, 0, 0xFFFFFFFF, 0, 0, .none, []⟩,
   ⟨R.evtSrank, 4, 16, 0x0, 0, 0, 0, 0, 0x3F3F3F3F, 0, .device, []⟩,
   ⟨R.evtPtimeout, 0, 1, 0x40, 0, 0xFFFF, 0, 0, 0, 0x80000000, .none, [(15, 0, 1, 65535)]⟩,
   ⟨R.evtPmask, 4, 8, 0x0, 0, 0xFFFFFFFF, 0, 0, 0, 0, .none, []⟩,
   ⟨R.evtPstat, 0, 1, 0x0, 0, 0, 0x80000000, 0, 0, 0xFFFFFFF, .none, []⟩,
   ⟨R.evtPabandon, 0, 1, 0x0, 0, 0, 0x80000000, 0, 0, 0xFFFFFF, .none, []⟩,
   ⟨R.evtXctl, 0, 1, 0x0, 0, 0x3F, 0, 0, 0, 0x80000000, .none, [(2, 1, 0, 2)]⟩,
   ⟨R.evtXbase, 0, 1, 0x1488000, 0, 0, 0, 0, 0, 0xFFFFFFFF, .none, []⟩,
   ⟨R.evtXptr, 0, 1, 0x0, 0, 0, 0, 0, 0, 0x3FF, .none, []⟩,
   ⟨R.evtXdrop, 0, 1, 0x0, 0, 0, 0x80000000, 0, 0, 0xFFFFFF, .none, []⟩,
   ⟨R.evtErr, 0, 1, 0x0, 0, 0, 0xE0000000, 0, 0, 0xFFFF, .none, []⟩]

/-- The registers of the TENSE page. -/
def regTableTense : List RegDesc :=
  [
   ⟨R.tenseCfg, 0, 1, 0x20018, 0, 0, 0, 0, 0x1FFFFF, 0, .tense, [(11, 6, 0, 12), (5, 3, 0, 4), (2, 0, 0, 4)]⟩,
   ⟨R.tensePll, 0, 1, 0x80F0023, 0, 0, 0, 0, 0xFFFFFFFF, 0, .tense, [(31, 24, 2, 255), (23, 8, 1, 65535), (7, 4, 0, 8), (3, 0, 0, 8)]⟩,
   ⟨R.tenseTempo, 0, 1, 0x780000, 0, 0, 0, 0, 0xFFFFFFFF, 0, .tense, [(31, 0, 655360, 65470464)]⟩,
   ⟨R.tenseStat, 0, 1, 0x0, 0, 0, 0, 0, 0, 0x1F, .none, []⟩,
   ⟨R.tensePosl, 0, 1, 0x0, 0, 0, 0, 0, 0, 0xFFFFFFFF, .none, []⟩,
   ⟨R.tensePosh, 0, 1, 0x0, 0, 0, 0, 0, 0, 0xFFFFFFFF, .none, []⟩,
   ⟨R.tenseQf, 0, 1, 0x0, 0, 0, 0, 0, 0, 0xFFFFFFFF, .none, []⟩,
   ⟨R.tenseQrun, 0, 1, 0x0, 0, 0, 0, 0, 0, 0xFFFFFFFF, .none, []⟩,
   ⟨R.tenseBpm, 0, 1, 0x0, 0, 0, 0, 0, 0, 0xFFFFFFFF, .none, []⟩,
   ⟨R.tenseFrbase, 0, 1, 0x144B000, 0, 0, 0, 0, 0, 0xFFFFFFFF, .none, []⟩,
   ⟨R.tenseAotimel, 0, 1, 0x0, 0, 0, 0, 0, 0, 0xFFFFFFFF, .none, []⟩,
   ⟨R.tenseAotimeh, 0, 1, 0x0, 0, 0, 0, 0, 0, 0xFFFFFFFF, .none, []⟩]
  ++ [
   ⟨R.tenseEpochl, 0, 1, 0x0, 0, 0, 0, 0, 0, 0xFFFFFFFF, .none, []⟩,
   ⟨R.tenseEpochh, 0, 1, 0x0, 0, 0, 0, 0, 0, 0xFFFFFFFF, .none, []⟩,
   ⟨R.tenseGo, 0, 1, 0x0, 0, 0, 0, 0xFFFF, 0, 0, .none, []⟩,
   ⟨R.tenseRun, 0, 1, 0x0, 0, 0, 0, 0, 0, 0xFFFF, .none, []⟩,
   ⟨R.tenseTpctl, 0, 1, 0x0, 0xFFFF, 0, 0, 0, 0, 0xFF0000, .none, []⟩,
   ⟨R.tenseMskip, 0, 1, 0x0, 0, 0, 0x80000000, 0, 0, 0xFFFFFF, .none, []⟩,
   ⟨R.tenseMlate, 0, 1, 0x0, 0, 0, 0x80000000, 0, 0, 0xFFFFFF, .none, []⟩,
   ⟨R.tenseCtlbad, 0, 1, 0x0, 0, 0, 0x80000000, 0, 0, 0xFFFFFF, .none, []⟩,
   ⟨R.tensePglitch, 0, 1, 0x0, 0, 0, 0x80000000, 0, 0, 0xFFFFFF, .none, []⟩,
   ⟨R.tenseLosscnt, 0, 1, 0x0, 0, 0, 0x80000000, 0, 0, 0xFFFFFF, .none, []⟩,
   ⟨R.tenseMbad, 0, 1, 0x0, 0, 0, 0x80000000, 0, 0, 0xFFFFFF, .none, []⟩,
   ⟨R.tenseMwin, 0, 1, 0x0, 0, 0, 0, 0xFFFFFFFF, 0, 0, .none, []⟩]
  ++ [
   ⟨R.tenseMstat, 0, 1, 0x0, 0, 0, 0, 0, 0, 0x800001FF, .none, []⟩,
   ⟨R.tenseTctl, 64, 16, 0x10, 0x3FFFFFF, 0, 0, 0, 0, 0, .none, [(10, 9, 0, 2), (8, 5, 0, 10), (3, 0, 0, 10)]⟩,
   ⟨R.tenseTcnt, 64, 16, 0x0, 0, 0, 0, 0, 0, 0xFFFFFFFF, .none, []⟩,
   ⟨R.tenseTlap, 64, 16, 0x0, 0, 0, 0, 0, 0, 0xFFFFFFFF, .none, []⟩,
   ⟨R.tenseTper, 64, 16, 0x0, 0xFFFFFFFF, 0, 0, 0, 0, 0, .none, []⟩,
   ⟨R.tenseTcmpa, 64, 16, 0x0, 0xFFFFFFFF, 0, 0, 0, 0, 0, .none, []⟩,
   ⟨R.tenseTcmpb, 64, 16, 0x0, 0xFFFFFFFF, 0, 0, 0, 0, 0, .none, []⟩,
   ⟨R.tenseTcap, 64, 16, 0x0, 0, 0, 0, 0, 0, 0xFFFFFFFF, .none, []⟩,
   ⟨R.tenseTcaplap, 64, 16, 0x0, 0, 0, 0, 0, 0, 0xFFFFFFFF, .none, []⟩,
   ⟨R.tenseTstat, 64, 16, 0x0, 0, 0, 0x7F, 0, 0, 0, .none, []⟩,
   ⟨R.tenseErr, 0, 1, 0x0, 0, 0, 0xE0000000, 0, 0, 0xFFFF, .none, []⟩]

/-- The registers of the MIX page. -/
def regTableMix : List RegDesc :=
  [
   ⟨R.mixBbase, 0, 1, 0x1440000, 0, 0, 0, 0, 0, 0xFFFFFFFF, .none, []⟩,
   ⟨R.mixFbase, 0, 1, 0x1444000, 0, 0, 0, 0, 0, 0xFFFFFFFF, .none, []⟩,
   ⟨R.mixFeed, 4, 32, 0x0, 0, 0, 0, 0, 0x9FFF3FE0, 0, .device, [(28, 24, 0, 24)]⟩,
   ⟨R.mixFstat, 0, 1, 0x0, 0, 0, 0xFFFFFFFF, 0, 0, 0, .none, []⟩,
   ⟨R.mixAout, 4, 16, 0x0, 0, 0x11F3F, 0, 0, 0, 0x80000000, .none, [(12, 8, 0, 24)]⟩,
   ⟨R.mixErr, 0, 1, 0x0, 0, 0, 0xE0000000, 0, 0, 0xFFFF, .none, []⟩]

/-- The registers of the DAC page. -/
def regTableDac : List RegDesc :=
  [
   ⟨R.dacCfg, 0, 1, 0x4000108, 0xFFFF010F, 0, 0, 0, 0, 0, .none, [(3, 0, 4, 12)]⟩,
   ⟨R.dacStat, 0, 1, 0x0, 0, 0, 0xFFFFFFFF, 0, 0, 0, .none, []⟩,
   ⟨R.dacClip, 4, 16, 0x0, 0, 0, 0x80000000, 0, 0, 0xFFFFFF, .none, []⟩,
   ⟨R.dacCh, 4, 16, 0x0, 0xF, 0, 0, 0, 0, 0, .none, [(2, 1, 0, 2)]⟩,
   ⟨R.dacChstat, 4, 16, 0x10000004, 0, 0, 0, 0, 0, 0x1FFF0007, .none, []⟩,
   ⟨R.dacOfs, 4, 16, 0x0, 0, 0, 0, 0, 0, 0xFFFFFFFF, .none, []⟩,
   ⟨R.dacTincl, 16, 16, 0x0, 0xFFFFFFFF, 0, 0, 0, 0, 0, .none, []⟩,
   ⟨R.dacTinch, 16, 16, 0x0, 0xFFFF, 0, 0, 0, 0, 0, .none, []⟩,
   ⟨R.dacTamp, 16, 16, 0x0, 0x7FFFFFFF, 0, 0, 0, 0, 0, .none, []⟩,
   ⟨R.dacTctl, 16, 16, 0x0, 0, 0x7FFF0003, 0, 0, 0, 0x80000000, .none, []⟩,
   ⟨R.dacErr, 0, 1, 0x0, 0, 0, 0xE0000000, 0, 0, 0xFFFF, .none, []⟩]

/-- The registers of the CVO page. -/
def regTableCvo : List RegDesc :=
  [
   ⟨R.cvoCfg, 0, 1, 0x80106, 0xFFFF010F, 0, 0, 0, 0, 0, .none, [(3, 0, 0, 12)]⟩,
   ⟨R.cvoStat, 0, 1, 0x0, 0, 0, 0x40FFFFFF, 0, 0, 0x80000000, .none, []⟩,
   ⟨R.cvoCh, 4, 8, 0x0, 0xFFF, 0, 0, 0, 0, 0, .none, []⟩,
   ⟨R.cvoSrc, 4, 8, 0x0, 0, 0x11F3F, 0, 0, 0, 0x80000000, .none, [(12, 8, 0, 24)]⟩,
   ⟨R.cvoPref, 4, 8, 0xFC7C0000, 0, 0, 0, 0, 0xFFFFFFFF, 0, .device, []⟩,
   ⟨R.cvoChstat, 4, 8, 0x2, 0, 0, 0, 0, 0, 0xFFFFF07, .none, []⟩,
   ⟨R.cvoOfs, 4, 8, 0x0, 0, 0, 0, 0, 0, 0xFFFFFFFF, .none, []⟩,
   ⟨R.cvoGain, 4, 8, 0x0, 0, 0, 0, 0, 0, 0xFFFFFFFF, .none, []⟩,
   ⟨R.cvoTincl, 16, 8, 0x0, 0xFFFFFFFF, 0, 0, 0, 0, 0, .none, []⟩,
   ⟨R.cvoTinch, 16, 8, 0x0, 0xFFFF, 0, 0, 0, 0, 0, .none, []⟩,
   ⟨R.cvoTamp, 16, 8, 0x0, 0x7FFFFFFF, 0, 0, 0, 0, 0, .none, []⟩,
   ⟨R.cvoTctl, 16, 8, 0x0, 0, 0x7FFF0003, 0, 0, 0, 0x80000000, .none, []⟩]
  ++ [
   ⟨R.cvoErr, 0, 1, 0x0, 0, 0, 0xE0000000, 0, 0, 0xFFFF, .none, []⟩]

/-- The registers of the ADC page. -/
def regTableAdc : List RegDesc :=
  [
   ⟨R.adcCtrl, 0, 1, 0x0, 0x1, 0, 0, 0x2, 0, 0, .none, []⟩,
   ⟨R.adcStat, 0, 1, 0x0, 0, 0, 0x80000000, 0, 0, 0xFFFF, .none, []⟩,
   ⟨R.adcFlag, 0, 1, 0x0, 0, 0, 0xFFFFFFFF, 0, 0, 0, .none, []⟩,
   ⟨R.adcIbase, 0, 1, 0x1446000, 0, 0, 0, 0, 0, 0xFFFFFFFF, .none, []⟩,
   ⟨R.adcCh, 4, 8, 0x2, 0x1, 0, 0, 0, 0x1E, 0, .adcRun, []⟩,
   ⟨R.adcChHi, 4, 8, 0x6, 0x1, 0, 0, 0, 0x3E, 0, .adcRun, []⟩,
   ⟨R.adcChstat, 4, 16, 0x0, 0, 0, 0, 0, 0, 0xFFFF, .none, []⟩,
   ⟨R.adcTrim, 4, 16, 0x0, 0, 0, 0, 0, 0, 0xFFFFFFFF, .none, []⟩,
   ⟨R.adcCaddr, 0, 1, 0x0, 0x1FF, 0, 0, 0, 0, 0, .none, []⟩,
   ⟨R.adcCdata, 0, 1, 0x0, 0xFFFFFFFF, 0, 0, 0, 0, 0, .none, []⟩,
   ⟨R.adcCdelay, 0, 1, 0x18120F, 0xFFFFFF, 0, 0, 0, 0, 0, .none, [(23, 16, 0, 64), (15, 8, 0, 64), (7, 0, 0, 64)]⟩,
   ⟨R.adcTlevel, 16, 32, 0x0, 0xFFFFFFFF, 0, 0, 0, 0, 0, .none, []⟩]
  ++ [
   ⟨R.adcThyst, 16, 32, 0x0, 0x7FFFFFFF, 0, 0, 0, 0, 0, .none, []⟩,
   ⟨R.adcTctl, 16, 32, 0x0, 0xFFFFFF, 0, 0, 0, 0, 0x80000000, .none, [(7, 4, 0, 8), (2, 1, 0, 2)]⟩,
   ⟨R.adcErr, 0, 1, 0x0, 0, 0, 0xE0000000, 0, 0, 0xFFFF, .none, []⟩]

/-- The registers of the SP page. -/
def regTableSp : List RegDesc :=
  [
   ⟨R.spCfg, 4096, 8, 0x1, 0, 0, 0, 0, 0x77F1F, 0, .spEnabled, [(18, 17, 0, 2), (12, 11, 0, 2), (3, 2, 0, 2), (1, 0, 0, 2)]⟩,
   ⟨R.spBaud, 4096, 8, 0x3126E9, 0x7FFFFFFF, 0, 0, 0, 0, 0x80000000, .none, [(29, 28, 0, 2), (27, 16, 1, 4095)]⟩,
   ⟨R.spCtl, 4096, 8, 0x40, 0x73, 0, 0, 0, 0, 0, .none, []⟩,
   ⟨R.spFlow, 4096, 8, 0x40014070, 0x7F7FFFFF, 0, 0, 0, 0, 0, .none, [(30, 24, 1, 127), (22, 16, 1, 127), (15, 8, 0, 127), (7, 0, 1, 128)]⟩,
   ⟨R.spAddr, 4096, 8, 0xFFFF00, 0x3FFFFFF, 0, 0, 0, 0, 0, .none, []⟩,
   ⟨R.spSw, 4096, 8, 0x804, 0xFFF, 0, 0, 0, 0, 0, .none, []⟩,
   ⟨R.spCmd, 4096, 8, 0x0, 0, 0, 0, 0x7, 0, 0, .none, []⟩,
   ⟨R.spStat, 4096, 8, 0x0, 0, 0, 0x1FF, 0, 0, 0x7F0000, .none, []⟩,
   ⟨R.spLevel, 4096, 8, 0x0, 0, 0, 0, 0, 0, 0xFF00FF, .none, []⟩,
   ⟨R.spIen, 4096, 8, 0x0, 0x7, 0, 0, 0, 0, 0, .none, []⟩,
   ⟨R.spRxd, 4096, 8, 0x0, 0, 0, 0, 0, 0, 0xFFFF, .none, []⟩,
   ⟨R.spRxt, 4096, 8, 0x0, 0, 0, 0, 0, 0, 0xFFFFFFFF, .none, []⟩]
  ++ [
   ⟨R.spTxd, 4096, 8, 0x0, 0, 0, 0, 0x1FF, 0, 0, .none, []⟩,
   ⟨R.spDrop, 4096, 8, 0x0, 0, 0, 0x80000000, 0, 0, 0xFFFFFF, .none, []⟩,
   ⟨R.spFerrs, 4096, 8, 0x0, 0, 0, 0x80000000, 0, 0, 0xFFFFFF, .none, []⟩,
   ⟨R.spPerrs, 4096, 8, 0x0, 0, 0, 0x80000000, 0, 0, 0xFFFFFF, .none, []⟩,
   ⟨R.spColls, 4096, 8, 0x0, 0, 0, 0x80000000, 0, 0, 0xFFFFFF, .none, []⟩,
   ⟨R.spErr, 0, 1, 0x0, 0, 0, 0xE0000000, 0, 0, 0xFFFF, .none, []⟩]

/-- The registers of the LINK page. -/
def regTableLink : List RegDesc :=
  [
   ⟨R.linkCfg, 0, 1, 0x80007, 0, 0, 0, 0, 0x3FFFFFF, 0, .device, [(25, 19, 1, 64), (18, 12, 0, 64), (5, 4, 0, 2)]⟩,
   ⟨R.linkAddr, 0, 1, 0x0, 0, 0, 0, 0, 0, 0xF03F3FFF, .none, []⟩,
   ⟨R.linkHbase, 0, 1, 0x144C000, 0, 0, 0, 0, 0, 0xFFFFFFFF, .none, []⟩,
   ⟨R.linkStat, 0, 1, 0x0, 0, 0, 0x1, 0, 0, 0x2, .none, []⟩,
   ⟨R.linkLatewk, 0, 1, 0x0, 0, 0, 0x80000000, 0, 0, 0xFFFFFF, .none, []⟩,
   ⟨R.linkJoin, 0, 1, 0x0, 0, 0, 0x80000000, 0, 0, 0xFFFFFF, .none, []⟩,
   ⟨R.linkRemove, 0, 1, 0x0, 0, 0, 0x80000000, 0, 0, 0xFFFFFF, .none, []⟩,
   ⟨R.linkDefer, 0, 1, 0x0, 0, 0, 0x80000000, 0, 0, 0xFFFFFF, .none, []⟩,
   ⟨R.linkBadpkt, 0, 1, 0x0, 0, 0, 0x80000000, 0, 0, 0xFFFFFF, .none, []⟩,
   ⟨R.linkLcfg, 64, 4, 0x0, 0, 0, 0, 0, 0x7, 0, .device, [(2, 0, 0, 4)]⟩,
   ⟨R.linkLstat, 64, 4, 0x0, 0, 0, 0, 0, 0, 0x7FFFFF07, .none, []⟩,
   ⟨R.linkCrcerr, 64, 4, 0x0, 0, 0, 0x80000000, 0, 0, 0xFFFFFF, .none, []⟩]
  ++ [
   ⟨R.linkReplay, 64, 4, 0x0, 0, 0, 0x80000000, 0, 0, 0xFFFFFF, .none, []⟩,
   ⟨R.linkPlan, 4, 64, 0x8000, 0, 0, 0, 0, 0xBFFF, 0, .device, []⟩,
   ⟨R.linkQaddr, 0, 1, 0x0, 0xBFFF, 0, 0, 0, 0, 0, .none, []⟩,
   ⟨R.linkQstat, 0, 1, 0x0, 0, 0, 0, 0, 0, 0x3FF03, .none, []⟩,
   ⟨R.linkQload, 0, 1, 0x0, 0, 0, 0, 0, 0, 0xFFFFFF, .none, []⟩,
   ⟨R.linkRdest, 0, 1, 0x0, 0x3FFF, 0, 0, 0, 0, 0, .none, []⟩,
   ⟨R.linkRoff, 0, 1, 0x0, 0xFFFFFFFF, 0, 0, 0, 0, 0, .none, []⟩,
   ⟨R.linkRdata, 0, 1, 0x0, 0xFFFFFFFF, 0, 0, 0, 0, 0, .none, []⟩,
   ⟨R.linkRctl, 0, 1, 0x0, 0x2, 0, 0x8, 0x1, 0, 0x34, .none, []⟩,
   ⟨R.linkErr, 0, 1, 0x0, 0, 0, 0xE0000000, 0, 0, 0xFFFF, .none, []⟩]

/-- The registers of the DAI page. -/
def regTableDai : List RegDesc :=
  [
   ⟨R.daiCfg, 4096, 4, 0x10, 0, 0, 0, 0, 0xFFF, 0, .daiEnabled, [(5, 4, 0, 2), (1, 0, 0, 2)]⟩,
   ⟨R.daiCtl, 4096, 4, 0x0, 0, 0x3, 0, 0, 0, 0x80000000, .none, []⟩,
   ⟨R.daiImask, 4096, 4, 0x0, 0, 0xFFFF, 0, 0, 0, 0x80000000, .none, []⟩,
   ⟨R.daiStat, 4096, 4, 0x0, 0, 0, 0xB, 0, 0, 0x4, .none, []⟩,
   ⟨R.daiSlip, 4096, 4, 0x0, 0, 0, 0x80000000, 0, 0, 0xFFFFFF, .none, []⟩,
   ⟨R.daiOslot0, 4, 16, 0x0, 0, 0x3001F7F, 0, 0, 0, 0x80000000, .none, [(12, 8, 0, 24)]⟩,
   ⟨R.daiOslot1, 4, 16, 0x0, 0, 0x3001F7F, 0, 0, 0, 0x80000000, .none, [(12, 8, 0, 24)]⟩,
   ⟨R.daiOslot2, 4, 16, 0x0, 0, 0x3001F7F, 0, 0, 0, 0x80000000, .none, [(12, 8, 0, 24)]⟩,
   ⟨R.daiOslot3, 4, 16, 0x0, 0, 0x3001F7F, 0, 0, 0, 0x80000000, .none, [(12, 8, 0, 24)]⟩,
   ⟨R.daiIbase, 0, 1, 0x1447000, 0, 0, 0, 0, 0, 0xFFFFFFFF, .none, []⟩,
   ⟨R.daiErr, 0, 1, 0x0, 0, 0, 0xE0000000, 0, 0, 0xFFFF, .none, []⟩]

/-- The registers of the MEM page. -/
def regTableMem : List RegDesc :=
  [
   ⟨R.memDly, 0, 1, 0x0, 0, 0, 0, 0, 0x1F, 0, .device, [(4, 0, 0, 16)]⟩,
   ⟨R.memBtctl, 0, 1, 0x40F, 0xFF0F, 0, 0, 0, 0, 0, .none, [(15, 8, 1, 255)]⟩,
   ⟨R.memBtpos, 0, 1, 0x0, 0, 0, 0, 0, 0, 0xFF000FFF, .none, []⟩,
   ⟨R.memStat, 0, 1, 0x0, 0, 0, 0x1B, 0, 0, 0x4, .none, []⟩,
   ⟨R.memUelog, 0, 1, 0x0, 0, 0, 0xC0000000, 0, 0, 0x1F7F, .none, []⟩,
   ⟨R.memUeaddr, 0, 1, 0x0, 0, 0, 0, 0, 0, 0xFFFFFFFF, .none, []⟩,
   ⟨R.memCelex, 0, 1, 0x0, 0, 0, 0x80000000, 0, 0, 0xFFFFFF, .none, []⟩,
   ⟨R.memCeshr, 0, 1, 0x0, 0, 0, 0x80000000, 0, 0, 0xFFFFFF, .none, []⟩,
   ⟨R.memCevloc, 0, 1, 0x0, 0, 0, 0x80000000, 0, 0, 0xFFFFFF, .none, []⟩,
   ⟨R.memUecnt, 0, 1, 0x0, 0, 0, 0x80000000, 0, 0, 0xFFFFFF, .none, []⟩,
   ⟨R.memRepairs, 0, 1, 0x0, 0, 0, 0x80000000, 0, 0, 0xFFFFFF, .none, []⟩,
   ⟨R.memRmap, 4, 288, 0x0, 0, 0, 0, 0, 0, 0xFFFFFFFF, .none, []⟩]
  ++ [
   ⟨R.memErr, 0, 1, 0x0, 0, 0, 0xE0000000, 0, 0, 0xFFFF, .none, []⟩]

/-- The registers of the GLOSS page. -/
def regTableGloss : List RegDesc :=
  [
   ⟨R.glossCtl, 0, 1, 0x2, 0x3, 0, 0, 0, 0, 0, .none, []⟩,
   ⟨R.glossStat, 0, 1, 0x0, 0, 0, 0, 0, 0, 0x3F, .none, []⟩,
   ⟨R.glossPtr, 0, 1, 0x0, 0, 0, 0, 0, 0, 0x83FF01FF, .none, []⟩,
   ⟨R.glossBase, 0, 1, 0x15C0000, 0, 0, 0, 0, 0, 0xFFFFFFFF, .none, []⟩,
   ⟨R.glossCmd, 0, 1, 0x0, 0, 0, 0, 0xFFFF0003, 0, 0, .none, []⟩,
   ⟨R.glossRate, 0, 1, 0x640008, 0x3FF00FF, 0, 0, 0, 0, 0, .none, [(25, 16, 1, 1000), (7, 0, 1, 255)]⟩,
   ⟨R.glossSupp, 0, 1, 0x0, 0, 0, 0x80000000, 0, 0, 0xFFFFFF, .none, []⟩,
   ⟨R.glossFrzcnt, 0, 1, 0x0, 0, 0, 0x80000000, 0, 0, 0xFFFFFF, .none, []⟩,
   ⟨R.glossLost, 0, 1, 0x0, 0, 0, 0x80000000, 0, 0, 0xFFFFFF, .none, []⟩,
   ⟨R.glossOvr, 4, 16, 0x0, 0x80FFFFFF, 0, 0, 0, 0, 0, .none, []⟩,
   ⟨R.glossErr, 0, 1, 0x0, 0, 0, 0xE0000000, 0, 0, 0xFFFF, .none, []⟩]

/-- The registers of the VDBG page. -/
def regTableVdbg : List RegDesc :=
  [
   ⟨R.vdbgVctl, 64, 16, 0x0, 0, 0, 0, 0x4, 0x3, 0, .dbgLock, []⟩,
   ⟨R.vdbgVstat, 64, 16, 0x0, 0, 0, 0, 0, 0, 0xF8031FFF, .none, []⟩,
   ⟨R.vdbgVwf, 64, 16, 0x0, 0, 0, 0, 0, 0, 0x803F07FF, .none, []⟩,
   ⟨R.vdbgVbp0, 64, 16, 0x0, 0, 0, 0, 0, 0xC7FF1FFF, 0, .dbgLock, []⟩,
   ⟨R.vdbgVbp1, 64, 16, 0x0, 0, 0, 0, 0, 0xC7FF1FFF, 0, .dbgLock, []⟩,
   ⟨R.vdbgVbp2, 64, 16, 0x0, 0, 0, 0, 0, 0xC7FF1FFF, 0, .dbgLock, []⟩,
   ⟨R.vdbgVbp3, 64, 16, 0x0, 0, 0, 0, 0, 0xC7FF1FFF, 0, .dbgLock, []⟩,
   ⟨R.vdbgVrsel, 64, 16, 0x0, 0, 0, 0, 0, 0x3F, 0, .dbgLock, []⟩,
   ⟨R.vdbgVrdata, 64, 16, 0x0, 0xFFFFFFFF, 0, 0, 0, 0, 0, .none, []⟩,
   ⟨R.vdbgVfault, 4, 16, 0x0, 0, 0, 0xC0000000, 0, 0, 0x3FE01FFF, .none, []⟩,
   ⟨R.vdbgVslot, 4, 16, 0x0, 0, 0, 0, 0, 0, 0x7FF, .none, []⟩,
   ⟨R.vdbgVover, 4, 16, 0x0, 0, 0, 0x80000000, 0, 0, 0xFFFFFF, .none, []⟩]
  ++ [
   ⟨R.vdbgErr, 0, 1, 0x0, 0, 0, 0xE0000000, 0, 0, 0xFFFF, .none, []⟩]

/-- The registers of the NVM page. -/
def regTableNvm : List RegDesc :=
  [
   ⟨R.nvmBoot, 0, 1, 0x0, 0, 0, 0, 0, 0, 0xC0FF00F0, .none, []⟩,
   ⟨R.nvmFlash, 0, 1, 0x0, 0, 0, 0, 0, 0, 0x1F0F, .none, []⟩,
   ⟨R.nvmStat, 0, 1, 0x0, 0, 0, 0, 0, 0, 0x3, .none, []⟩,
   ⟨R.nvmScmd, 0, 1, 0x0, 0, 0, 0, 0xC0FF1FFF, 0, 0, .none, []⟩,
   ⟨R.nvmSstat, 0, 1, 0x0, 0, 0, 0x80000000, 0, 0, 0x40F01FFF, .none, []⟩,
   ⟨R.nvmHoldup, 0, 1, 0x0, 0, 0, 0, 0, 0, 0xFFFFFFFF, .none, []⟩,
   ⟨R.nvmReload, 0, 1, 0x0, 0, 0, 0, 0xFFFFFFFF, 0, 0, .none, []⟩,
   ⟨R.nvmFaddr, 0, 1, 0x0, 0xFFFFFFFF, 0, 0, 0, 0, 0, .none, []⟩,
   ⟨R.nvmFcmd, 0, 1, 0x0, 0, 0, 0x80000000, 0x3, 0, 0, .none, []⟩,
   ⟨R.nvmSbuf, 4, 1024, 0x0, 0xFFFFFFFF, 0, 0, 0, 0, 0, .none, []⟩,
   ⟨R.nvmErr, 0, 1, 0x0, 0, 0, 0xE0000000, 0, 0, 0xFFFF, .none, []⟩]

/-- The registers of the FUSE page. -/
def regTableFuse : List RegDesc :=
  [
   ⟨R.fuseWord, 4, 16, 0x0, 0, 0, 0, 0, 0, 0xFFFFFFFF, .none, []⟩,
   ⟨R.fusePerr, 0, 1, 0x0, 0, 0, 0, 0, 0, 0xFFFF, .none, []⟩,
   ⟨R.fusePdata, 0, 1, 0x0, 0xFFFFFFFF, 0, 0, 0, 0, 0, .none, []⟩,
   ⟨R.fusePctl, 0, 1, 0x0, 0, 0, 0, 0xFFFF000F, 0, 0, .none, []⟩,
   ⟨R.fusePstat, 0, 1, 0x0, 0, 0, 0x80000000, 0, 0, 0x4000000F, .none, []⟩,
   ⟨R.fuseErr, 0, 1, 0x0, 0, 0, 0xE0000000, 0, 0, 0xFFFF, .none, []⟩]

/-- The table of the page that holds an address. -/
def regTableOf (a : Nat) : List RegDesc :=
  match a / 0x10000 with
  | 0x4000 => regTableSys
  | 0x4001 => regTablePwr
  | 0x4002 => regTableClk
  | 0x4003 => regTableParser
  | 0x4004 => regTableAlloc
  | 0x4005 => regTableEvt
  | 0x4006 => regTableTense
  | 0x4007 => regTableMix
  | 0x4008 => regTableDac
  | 0x4009 => regTableCvo
  | 0x400A => regTableAdc
  | 0x400B => regTableSp
  | 0x400C => regTableLink
  | 0x400D => regTableDai
  | 0x400E => regTableMem
  | 0x400F => regTableGloss
  | 0x4010 => regTableVdbg
  | 0x4011 => regTableNvm
  | 0x4012 => regTableFuse
  | _ => []

/-- Does a row name the address: instance i of it lies at addr + i * stride. -/
def RegDesc.hits (d : RegDesc) (a : Nat) : Bool :=
  if d.stride = 0 then a = d.addr
  else d.addr ≤ a && (a - d.addr) % d.stride = 0 && (a - d.addr) / d.stride < d.count

/-- The row that names an address, if a register lies there (R27: every other offset of a page is reserved). -/
def regDesc (a : Nat) : Option RegDesc :=
  if 0x40000000 ≤ a ∧ a < 0x40130000 then (regTableOf a).find? (·.hits a) else none

/-- The reset value of the register at an address: the table's, but for the arrays whose instances differ
(R165: SRANK; Table 4 of the fabric chapter: QUOTA; R180: POOL; R233: SRCCFG). -/
def regReset (a : Nat) : Word :=
  if R.evtSrank ≤ a ∧ a < R.evtSrank + 64 then
    BitVec.ofNat 32 ((a - R.evtSrank) * 0x01010101 + 0x03020100)
  else if R.evtQuota ≤ a ∧ a < R.evtQuota + 64 then
    let n := (a - R.evtQuota) / 4
    if n < 8 then 48 else if n < 12 then 64 else if n = 12 then 128 else if n < 15 then 64 else 128
  else if a = R.allocPool then 1024
  else if R.evtSrccfg + 32 ≤ a ∧ a < R.evtSrccfg + 52 then 2
  else match regDesc a with
    | some d => BitVec.ofNat 32 d.reset
    | none => 0

end Sys2Proof.Machine
end

