-- ==== Sys2Proof/Machine/State.lean ====
section
/-! DEFINITION. The state of the device as plain data, Fault and Refusal, and State.reset. -/

namespace Sys2Proof.Machine

/-! ### Time and clocks (Device architecture; Tense) -/

/-- The device's time: AOTIME and EPOCH in TCLK cycles (R259), the frame whose computing window is open (R132), and how
far that window's steps have come. -/
structure TimeSt where
  /-- TENSE.AOTIME: TCLK cycles since the reset (R259). -/
  aoTime : DWord := 0
  /-- The remainder of the 5.5125-cycle step while the timers count on the AO oscillator (R260), in 1/80 cycle. -/
  aoAcc : Nat := 0
  /-- The timers count on the AO oscillator (R260). -/
  onAo : Bool := false
  /-- TENSE.EPOCH: AOTIME at the sample epoch (R259). -/
  epoch : DWord := 0
  /-- An epoch has been set (R17, R461). -/
  epochSet : Bool := false
  /-- The epoch of before a reload still gives the Gloss its stamps, until the next one is set (R436, R461). -/
  stampOld : Bool := false
  /-- A SYNC has been taken since boot (R17). -/
  synced : Bool := false
  /-- The frame whose computing window is open (R132). -/
  frame : Nat := 0
  /-- The device renders (R24: not during boot, QUIET or SLEEP). -/
  rendering : Bool := false
  /-- The latest frame whose step 1 has run, whose step 2 has begun, and whose step 2 is due (R132, R162, R208). -/
  step1 : Nat := 0
  step2 : Nat := 0
  take  : Nat := 0
  /-- The frames in which a block of a streamed wave was missing when it was read (R74, R149). -/
  streamMiss : List Nat := []
  /-- Frames with a cause of Table 8 of the ordered-release chapter, not yet reported (R173, R174). -/
  voids : List (Nat × BitVec 10) := []
  /-- The latest void frames that have been recorded, newest first: each is counted once (R174). -/
  reported : List Nat := []
  /-- The timers are to change to the AO oscillator (true) or back at its next edge, with the cause of R260. -/
  clockDue : Option (Bool × Nat) := none
  /-- WCLK was lost while it was being followed and has not been handed back (R15). -/
  wclkLost : Bool := false
  /-- Neither the crystal's family nor WCLK's was measured at boot step 3, so that the image gives it (R12, R16). -/
  familyOpen : Bool := false
  /-- The latest sample time at which the converters and ports have acted; none before the first of an epoch (R17, R18). -/
  ticked : Option Nat := none
  /-- Latched upper halves of the 64-bit counts, by the address of the upper register (R254). -/
  latches : List (Nat × Word) := []
  deriving DecidableEq, Repr

/-- The host SPI target (R31): LASTERR, and the words of the transaction in progress. -/
structure HostSt where
  lastErr : Bool := false
  /-- A transaction is open (HCS low), and it is refused (R31). -/
  open? : Bool := false
  refused : Bool := false
  /-- The words the latest transaction returned on HMISO. -/
  out : List Word := []
  /-- The status bytes the latest STATUS returned. -/
  statusOut : List Byte := []
  /-- The pages whose ERR register has lost OFFSET to a clear of LOCKW while UNDEF stayed: the next refusal is the first since (R9, R10). -/
  errOpen : List Nat := []
  deriving DecidableEq, Repr

/-! ### Memory integrity (Memory banks and integrity) -/

/-- The background test, repair and scrub state that no register shows (R396, R406 to R409). -/
structure MemSt where
  /-- The bank and row the background test takes next (R406). -/
  nextBank : Nat := 0
  nextRow : Nat := 0
  /-- Rows begun in the present frame (R406: at most RATE). -/
  begun : Nat := 0
  /-- Rows that found no spare, skipped until the next boot (R408). -/
  skip : List (Nat × Nat) := []
  /-- The Verbs a row of whose local memory is held: Verb and row address (R146, R406). -/
  held : List (Nat × Nat) := []
  /-- Corrected words that wait for their write-back (R396). -/
  scrub : List Nat := []
  /-- The repair map held in PD0: bank, row, spare (R409). -/
  aoMap : List (Nat × Nat × Nat) := []
  /-- The spares marked used, held with the map: bank, spare (R408, R409). -/
  used : List (Nat × Nat) := []
  /-- Repairs not yet in the store area (R409). -/
  unstored : Bool := false
  /-- A table error awaits its recovery at the next boundary: the address that failed (R399). -/
  tableErr : Option Nat := none
  /-- Every frame until the next SYNC is void with cause DIVERGED (R399). -/
  tablesDiverged : Bool := false
  deriving DecidableEq, Repr

/-! ### The Gloss (Gloss event recorder) -/

/-- One Gloss entry (R460, Table 1). -/
structure GlossEntry where
  stamp  : DWord
  aotime : DWord
  code   : BitVec 16
  src    : Byte
  supp   : Byte
  d0     : Word
  d1     : Word
  d2     : Word
  deriving DecidableEq, Repr

/-- The codes not stored since a gap began (R464, R465, R468, R472): number, first code, cause, AOTIME at its start. -/
structure GlossGap where
  count : Nat
  first : BitVec 16
  cause : Nat
  since : Word
  deriving DecidableEq, Repr

/-- The recorder (R463 to R471). -/
structure GlossSt where
  /-- The staging queue, oldest first (R464: 64 entries). -/
  staging : List GlossEntry := []
  /-- The PD0 staging buffer, oldest first (R465: 16 entries). -/
  pd0 : List GlossEntry := []
  /-- Bank 23 can be reached (R465: from the end of boot step 9 while PD3 is on). -/
  reachable : Bool := false
  /-- Token buckets that are not full: code, level and the AOTIME of that level (R466). -/
  buckets : List (Nat × Nat × DWord) := []
  /-- Suppressed occurrences pending, by code (R467). -/
  pending : List (Nat × Nat) := []
  /-- Codes lost to a full staging queue, and the queue has had room since (R464). -/
  lost : Option GlossGap := none
  room : Bool := false
  /-- Codes lost to a full PD0 buffer (R465). -/
  pd0Lost : Option GlossGap := none
  /-- Codes counted while frozen (R468) or during a Gloss store (R472). -/
  gap : Option GlossGap := none
  /-- Kept entries, the next circulating place, its wrap, and VALID (R463, R471). -/
  kcount : Nat := 0
  rhead : Nat := 0
  wrap : Bool := false
  valid : Bool := false
  /-- Frozen by GLOSS.CTL.FREEZE (R468); a Gloss store is copying the bank (R472). -/
  frozen : Bool := false
  storing : Bool := false
  /-- A Gloss store was started in this warning (R472). -/
  storedThisWarning : Bool := false
  storeWaits : Bool := false
  origin : BitVec 2 := 0
  deriving DecidableEq, Repr

/-! ### Events (Event fabric and MIDI; Ordered release, fences and the bit-exact guarantee) -/

/-- An event completed by its source and not yet accepted (R208, R210), with its completion instant. -/
structure ReadyEv where
  pkt     : EvPacket
  instant : DWord
  deriving DecidableEq, Repr

/-- An event in the input queue (R210): its packet, its arrival sequence within its source, the Periods it waits for
(group and number, R167), and whether a brown-out warning holds it (R449). -/
structure QueuedEv where
  pkt   : EvPacket
  seq   : Nat
  waits : List (Nat × Word)
  deriving DecidableEq, Repr

/-- A system exclusive message in progress (R216): the held fragment, its stamp, whether the first was handed over. -/
structure SysexSt where
  frag  : List Byte
  stamp : DWord
  sent  : Bool
  deriving DecidableEq, Repr

/-- The JR state of one group (R219): the latest JR Clock (sender time, arrival stamp) and the JR Timestamp in force. -/
structure JrSt where
  clock : Option (BitVec 16 × DWord) := none
  stamp : Option (BitVec 16) := none
  deriving DecidableEq, Repr

/-- The parse state of one source (R212 to R219, R341). -/
structure ParseSt where
  running : Option Byte := none
  /-- The message in progress: its status byte and the data bytes so far. -/
  status : Option Byte := none
  data : List Byte := []
  sysex : Option SysexSt := none
  /-- Sysex in progress by UMP group (R218): a UMP message may span packets. -/
  umpSysex : List (Nat × SysexSt) := []
  /-- The words of a Universal MIDI Packet in progress, and the characters of its next word (R217). -/
  ump : List Word := []
  umpPart : List Byte := []
  /-- CC0 and CC32 by group and channel (R215). -/
  bankMsb : List (Nat × Byte) := []
  bankLsb : List (Nat × Byte) := []
  /-- Controls 101, 100, 99, 98, 6 and 38 received, by 256 × control + group and channel (R215), and which selection is the
  later one (true: registered). -/
  ctrls : List (Nat × Byte) := []
  registered : List (Nat × Bool) := []
  jr : List (Nat × JrSt) := []
  /-- The characters of a native packet in progress, and a run of unmarked ones outside any packet (R341). -/
  native : List (BitVec 9) := []
  stray : Bool := false
  deriving DecidableEq, Repr

/-- A tuning record (R223). -/
structure Tuning where
  p        : Nat
  root     : Int
  base     : Int
  interval : Int
  off      : List Int
  deriving DecidableEq, Repr

/-- A layer of a program record (Table 9 of the fabric chapter). -/
structure Layer where
  sid   : Nat
  pool  : Nat
  uni   : Nat
  vello : Nat
  velhi : Nat
  keylo : Nat
  keyhi : Nat
  deriving DecidableEq, Repr

/-- A program record (Table 9 of the fabric chapter). -/
structure Program where
  part    : Nat
  program : Nat
  bank    : Nat
  anyBank : Bool
  layers  : List Layer
  deriving DecidableEq, Repr

/-- A control record (Table 10 of the fabric chapter). -/
structure Control where
  parts   : Nat
  kind    : Nat
  hold    : Bool
  perNote : Bool
  index   : Nat
  ttype   : Nat
  target  : Nat
  lo      : Word
  hi      : Word
  smooth  : Nat
  deriving DecidableEq, Repr

/-- An OUT entry (R230). -/
structure OutEntry where
  dest   : Nat
  port   : Nat
  format : Nat
  chan   : Nat
  deriving DecidableEq, Repr

/-- The event map (R221 to R230). The default is the empty map of R229: every CHMAP byte reads 0xFF, no records. A
dropped record is none and keeps its index. -/
structure EvMap where
  chmap    : List Byte := []
  parts    : List (Nat × Nat) := []
  outs     : List OutEntry := []
  tunings  : List (Option Tuning) := []
  programs : List (Option Program) := []
  controls : List (Option Control) := []
  deriving DecidableEq, Repr

/-- The event fabric (R202 to R233) and the fences (R166 to R168). -/
structure EvtSt where
  /-- Per source code 0 to 15: events completed and not yet accepted, oldest first. -/
  ready : List (List ReadyEv) := List.replicate 16 []
  /-- The source last accepted from (R210). -/
  lastSrc : Nat := 15
  queue : List QueuedEv := []
  seq : Nat := 0
  parse : List ParseSt := List.replicate 13 {}
  map : EvMap := {}
  /-- Per part: the active program record (0xFFFF none) and the last valid bank (R224). -/
  progs : List (Nat × Nat) := List.replicate 16 (0xFFFF, 0)
  /-- Held values, by 16 × record + part (R227). -/
  held : List (Nat × Word) := []
  /-- D(g, s) by 64 × g + s (R167). -/
  delivered : List (Nat × Word) := []
  /-- C(g) (R167). -/
  complete : List Word := [0, 0, 0, 0]
  /-- The time-out that runs in each group: the watched number and the boundaries left (R168). -/
  timers : List (Option (Word × Nat)) := [none, none, none, none]
  /-- The words of a native packet being written to HWIN (R233), and of an entry being written to MWIN (R246). -/
  hwin : List Word := []
  /-- Every place of the host ring holds a packet, so that the next one overwrites the oldest (R233). -/
  ringFull : Bool := false
  deriving DecidableEq, Repr

/-! ### Syntaxes, Phrases and allocation -/

/-- A Word entry of a Syntax (Table 12 of the Phrase chapter). -/
structure SynWord where
  typ   : Nat
  xoff  : Nat
  yoff  : Nat
  pbase : Nat
  npar  : Nat
  nin   : Nat
  nout  : Nat
  cost  : Nat
  deriving DecidableEq, Repr

/-- An edge entry (Table 13 of the Phrase chapter). -/
structure SynEdge where
  srcw : Nat
  srcp : Nat
  dstw : Nat
  dstp : Nat
  kind : Nat
  doff : Nat
  deriving DecidableEq, Repr

/-- A parameter entry (Table 14 of the Phrase chapter). -/
structure SynParam where
  dflt    : Word
  fmt     : Nat
  bind    : Nat
  psample : Bool
  smooth  : Nat
  deriving DecidableEq, Repr

/-- An accepted Syntax (R58, R59), with the first frame-area slot of each output port
(R121, R123), entry 8 w + p, and of each feed (R269), entry 512 + n. -/
structure Syntax where
  sid     : Nat
  isGlobal : Bool
  cost    : Nat
  xsize   : Nat
  ysize   : Nat
  ends    : List Nat
  words   : List SynWord
  edges   : List SynEdge
  params  : List SynParam
  slots   : List (Nat × Nat)
  nslots  : Nat
  deriving DecidableEq, Repr

/-- A custom Word declaration (R130). -/
structure WordDecl where
  typ     : Nat
  npar    : Nat
  nin     : Nat
  nout    : Nat
  isGlobal : Bool
  xstate  : Nat
  ystate  : Nat
  inkind  : Nat
  outkind : Nat
  entry   : Nat
  cost    : Nat
  params  : List Nat
  deriving DecidableEq, Repr

/-- An event list entry (Table 7 of the Phrase chapter). -/
structure EvEntry where
  pos    : Nat
  kind   : Nat
  word   : Nat
  pidx   : Nat
  late   : Bool
  deferred : Bool
  smooth : Nat
  value  : Word
  deriving DecidableEq, Repr

/-- The frames a Phrase is armed for and has not ended (R132, R140, R149): the frame, the next Word to run, what arming
writes into the header, the event list, and whether it has been written; its flow position in that frame (R156). -/
structure Work where
  frame   : Nat
  pos     : Nat
  next    : Nat
  first   : Bool
  hdr     : List Byte
  evs     : List EvEntry
  written : Bool
  /-- The DONE results of end-detect Words and any CARRY so far in this frame (R49). -/
  done    : List Nat
  carry   : Bool
  /-- Words aborted or dropped in this frame: their outputs are the zero frame (R128). -/
  aborted : List Nat
  /-- The frame was abandoned: no Word after the one dispatched runs (R150). -/
  cut     : Bool := false
  deriving DecidableEq, Repr

/-- A migration in waiting (R144, R145): the new home, q and rate for the trace record, FORCED, and the state copy in
progress. -/
structure Move where
  dest   : Nat
  xbase  : Nat
  ybase  : Nat
  q      : Nat
  rate   : Nat
  forced : Bool
  copying : Bool
  /-- The frame whose step 1 marked it (R145). -/
  since  : Nat
  deriving DecidableEq, Repr

/-- A live Phrase (R43 to R49, R177 to R179). Its position is its flow-order position: its logical or fade slot, or
2,048 + SID for a global Phrase (R156). -/
structure Phrase where
  pos     : Nat
  sid     : Nat
  isGlobal : Bool
  /-- 1 HELD, 2 SUSTAINED, 3 RELEASED, 4 FADING (R48). -/
  state   : Nat
  first   : Bool
  part    : Nat
  pool    : Nat
  key     : Nat
  noteId  : Nat
  vel     : Nat
  relVel  : Nat
  /-- The release velocity of the note-off that a pedal holds back (R196). -/
  offVel  : Nat
  uni     : Nat
  layer   : Nat
  aseq    : Word
  start   : DWord
  gateOff : DWord
  age     : Word
  lane    : Nat
  home    : Option Nat
  xbase   : Nat
  ybase   : Nat
  level   : Word
  fadeRem : Nat
  latched : Bool
  diverged : Bool
  /-- The frame of the note-on, and of the latest creation or retrigger (R187). -/
  created : Nat
  touched : Nat
  /-- The frame after which the Phrase is to end (R49, R189), when its end condition has been met. -/
  ends    : Option Nat
  /-- Its event-list entries for the frame being taken, and those deferred to the next frame (R51). -/
  evs     : List EvEntry
  deferred : List EvEntry
  works   : List Work
  move    : Option Move
  /-- It runs on its home for the first time after a move (trace REASON 1, R152). -/
  moved   : Bool
  /-- The first of its frame-area slots on its home, while they are reserved (R123). -/
  farea   : Option Nat
  /-- The device it is placed on in a system (R372): none on this device. -/
  dev     : Option Nat
  /-- In a system, the attenuation code and END of its latest report, and whether that report was lost (R366, R367). -/
  rsl     : Option Nat
  rend    : Bool
  rlost   : Bool
  /-- No device of the system could take it: it is unplaced (R372). -/
  adrift  : Bool := false
  /-- The references to unsuitable waves that stand, by Word: the wave number, or 2^32 for a delay line that passes the delay area (R69,
  R83). -/
  stands  : List (Nat × Int) := []
  /-- A frame of it has run to its end (R184). -/
  completed : Bool := false
  deriving DecidableEq, Repr

/-- An entry of a note stack (R194). -/
structure NoteEnt where
  key    : Nat
  noteId : Nat
  vel    : Nat
  deriving DecidableEq, Repr

/-- A note request (R177): part, key, note ID, velocity, effective position, its source event was late, its layers with
their index, and the held values standing when its note-on was taken (R227). -/
structure NoteReq where
  part   : Nat
  key    : Nat
  noteId : Nat
  vel    : Nat
  pos    : DWord
  late   : Bool
  layers : List (Nat × Layer)
  held   : List (Nat × Word)
  deriving DecidableEq, Repr

/-- A Phrase still to be created for a note request: layer index, layer, unison index. -/
structure Todo where
  lidx  : Nat
  layer : Layer
  uni   : Nat
  deriving DecidableEq, Repr

/-- An operation of step 3 (R199): a note request, the rest of one that has started (its group's creation so far), a
note-off, a part control. -/
inductive AllocOp where
  | request (r : NoteReq)
  | create (r : NoteReq) (todo : List Todo) (aseq : Word) (made : Bool)
  | off (part key noteId vel : Nat) (pos : DWord) (late : Bool)
  | control (part index : Nat) (value : Int) (pos : DWord) (late : Bool)
  /-- A Phrase of a request that has its slot, with the steals that admission may still make. -/
  | place (r : NoteReq) (todo : List Todo) (aseq : Word) (made : Bool) (slot steals : Nat)
  /-- What is left of a note-off: the HELD Phrases of a group. -/
  | release (part : Nat) (aseq : Word) (vel : Nat) (pos : DWord) (late : Bool)
  /-- The removal of a Phrase (R378). -/
  | remove (slot : Nat)
  deriving DecidableEq, Repr

/-- The allocator (R177 to R201). -/
structure AllocSt where
  /-- The FRM records of the open frame's step 3 (R363), and the operations moved to the next one (R364). -/
  recs : List FrmRecord := []
  ops : List AllocOp := []
  aseq : Word := 0
  /-- Per part, the note stack, oldest first (R194). -/
  noteStacks : List (List NoteEnt) := List.replicate 16 []
  /-- The slots as they stood at the end of the latest step 3: slot, QSTATE, QNOTE, QSEQ, QLANE (R201). -/
  snap : List (Nat × Word × Word × Word × Word) := []
  /-- The lane sums N and F as they stood at the end of the latest step 3 (R155). -/
  lanes : List (Nat × Nat × Nat) := []
  deriving DecidableEq, Repr

/-! ### Verbs, the Parser and Concord -/

/-- A store posted to shared memory (R88): address, size in bytes, value. -/
structure PostedStore where
  addr : Nat
  size : Nat
  val  : DWord
  deriving DecidableEq, Repr

/-- A Word-frame in a bank (R118 to R127): its key, what it may store to (R124), what it has posted (R88, R110). -/
structure WordFrame where
  frame   : Nat
  pos     : Nat
  widx    : Nat
  cost    : Nat
  /-- Local address ranges it may store to: address and length (R124). -/
  windows : List (Nat × Nat)
  isPre   : Bool
  reason  : Nat
  resumed : Bool
  /-- Verb cycle of the window of its frame at which its entry switch began (R152). -/
  start   : Nat
  /-- Shared stores and events posted and not yet released, oldest first, with how many before them Concord has released while
  the Word-frame ran (R88, R110, R158). -/
  stores  : List PostedStore
  events  : List EvPacket
  storesOut : Nat := 0
  eventsOut : Nat := 0
  dropped : Nat
  overReported : Bool
  /-- What a global Word-frame has added to the buses so far: bus, sample index, value (R149). -/
  sent    : List (Nat × Nat × Word) := []
  /-- Bytes of Word scratch stored since entry: address and length (R120). -/
  scratch : List (Nat × Nat)
  deriving DecidableEq, Repr

/-- A repeat in progress (R102): its counter, the indices of the body's first and last instruction. -/
structure Repeat where
  counter : Nat
  first   : Nat
  last    : Nat
  deriving DecidableEq, Repr

/-- A result of the exponential and logarithm unit under way (R106): the first register, one or two values, the cycle of
issue. -/
structure UnitResult where
  dst   : Nat
  vals  : List Word
  issued : Nat
  deriving DecidableEq, Repr

/-- A load from shared memory under way (R88): destination register code of the move field, size, address, how many
stores the Word-frame had posted, the cycle of issue, the cycles its bank has since stood frozen (R119), and its value with poison
once it has been read. -/
structure SharedLoad where
  reg    : Nat
  size   : Nat
  addr   : Nat
  posted : Nat
  issued : Nat
  paused : Nat := 0
  val    : Option (DWord × Bool) := none
  deriving DecidableEq, Repr

/-- A table-interpolation request (R107): position, configuration, the cycle of issue, the cycles its bank has since stood frozen
(R119), the results once it has arrived (with poison). -/
structure TableReq where
  pos    : DWord
  cfg    : Word
  issued : Nat
  paused : Nat := 0
  results : Option (List (Word × Bool))
  deriving DecidableEq, Repr

/-- A producer of Table 7 whose value is not yet available to every consumer: what it wrote, the kind of producer, the
cycle of issue (R104). -/
structure Produced where
  res    : Nat
  prod   : Nat
  issued : Nat
  deriving DecidableEq, Repr

/-- What follows a control instruction's two delay slots (R100): the end of the Word-frame, a jump, or the next instruction. -/
inductive Delay where
  | ends
  | goto (target : Nat)
  | fall
  deriving DecidableEq, Repr

/-- One register set of a Verb (R89, Table 3) with its return stack, repeat stack and result queue (R118). -/
structure VerbBank where
  wf    : Option WordFrame := none
  d     : List Word := List.replicate 16 0
  acc   : List Acc := List.replicate 4 0
  p     : List Word := List.replicate 8 0
  b     : List Word := List.replicate 8 0
  l     : List Word := List.replicate 8 0
  m     : List Word := List.replicate 4 0
  lc    : List (BitVec 16) := List.replicate 4 0
  vsr   : Word := 4
  pc    : Nat := 0
  cycles : Nat := 0
  rstack : List Nat := []
  reps  : List Repeat := []
  units : List UnitResult := []
  loads : List SharedLoad := []
  table : List TableReq := []
  produced : List Produced := []
  /-- Registers that carry poison: 0 to 15 D, 16 to 19 ACC (R397). -/
  poison : List Nat := []
  /-- A control instruction waits for its delay slots: slots left, and what follows them (R100). -/
  delay : Option (Nat × Delay) := none
  deriving DecidableEq, Repr

/-- A send in a mix queue (R109): its frame, bus, sample index and value. -/
structure MixItem where
  frame : Nat
  bus   : Nat
  idx   : Nat
  val   : Word
  /-- It comes from a non-global Phrase, so the feeds of its bus take it too (R268). -/
  feeds : Bool
  /-- Its Word-frame: flow position and Word (R156). -/
  pos   : Nat
  widx  : Nat
  deriving DecidableEq, Repr

/-- One Verb (R84 to R129, R142 to R146, R479 to R482). -/
structure VerbSt where
  bankA : VerbBank := {}
  bankB : VerbBank := {}
  /-- The register set in use (VSR.BANK): true for bank B. -/
  useB : Bool := false
  /-- The bank in use runs a Word-frame. -/
  running : Bool := false
  /-- The other bank is frozen by a pre-emption (R119). -/
  frozen : Bool := false
  mixq : List MixItem := []
  /-- The domain has been switched on but the program memory is not loaded (R445). -/
  absent : Bool := false
  /-- Frames of slot mode left after a recovery trigger, and the frame of the trigger (R146). -/
  recover : Nat := 0
  /-- Flagged in the open window: q, r, rate, target (R143, R144). -/
  flagged : Option (Nat × Nat × Nat × Nat) := none
  /-- q and the elapsed cycles at its first Word-frame of the open frame (R144). -/
  q0 : Option (Nat × Nat) := none
  /-- Halted through the test port (R479): HALTED, the cause, the breakpoint, a request waiting, the frozen Word-frame
  abandoned (R480). -/
  halted : Bool := false
  haltCause : Nat := 0
  haltBp : Nat := 0
  haltPending : Bool := false
  abandoned : Bool := false
  /-- The instruction at the breakpoint that hit issues without matching again (R479). -/
  bpSkip : Bool := false
  /-- Enabled, powered and not halted as of the latest boundary (R132 step 1). -/
  active : Bool := false
  deriving DecidableEq, Repr

/-- A trace record in staging (R152, R153): its flow key and its 16 bytes. -/
structure TraceRec where
  key  : Nat × Nat × Nat
  bits : BitVec 128
  deriving DecidableEq, Repr

/-- The Parser's state that no register shows (R132 to R155). -/
structure ParserSt where
  /-- The latest frame whose send barrier has passed (R135). -/
  barrier : Option Nat := none
  /-- Trace records that the TRACE cursor has not reached, and those staged for the destination, at most 256 (R153, R157). -/
  trace : List TraceRec := []
  staged : List (BitVec 128) := []
  /-- The latest frame in which dispatch stalled on a full window (R147). -/
  stalledFrame : Option Nat := none
  deriving DecidableEq, Repr

/-- A Word-frame that has ended and has effects not yet released (R157, R158). -/
structure EndedWf where
  frame : Nat
  pos   : Nat
  widx  : Nat
  stores : List PostedStore
  events : List EvPacket
  /-- The allocator update it carries: the Phrase met its end, a Word holds a step carry, the level (R49, R157, R184). -/
  alloc : Option (Bool × Bool × Option Word)
  /-- It is still in flight (R147): not one that was aborted, or dropped before it was dispatched. -/
  inWindow : Bool
  deriving DecidableEq, Repr

/-! ### Boot (Boot image and non-volatile store) -/

/-- How far boot has come (R416 to R419), and what closes registers (R9). -/
structure BootSt where
  /-- Boot step 3 is complete: host commands are taken (R31). -/
  ready : Bool := false
  /-- The DEVICE list has been applied (R418): RWL fields are closed. -/
  deviceApplied : Bool := false
  /-- The TENSE section has been applied (R261, R262). -/
  tenseApplied : Bool := false
  /-- The CAL section has been applied (R429). -/
  calApplied : Bool := false
  /-- Boot has reached step 13, or a wake step W11 (R416, R454). -/
  complete : Bool := false
  /-- Boot step 11, or wake step W11, has been reached: Verbs leave slot mode (R146, R416). -/
  interruptMode : Bool := false
  /-- A reload has been taken and waits for the outputs to park and for a store to end (R435, R436), and the steps of it that will
  time out. -/
  reloading : Bool := false
  reloadOut : List BootStep := []
  /-- The cause of the latest reset is still to be logged, once the Gloss runs (R443). -/
  causeDue : Bool := true
  /-- Boot step 2 or 3 failed for good, and the device waits in OFF for another try (R455). -/
  supplyFailed : Bool := false
  /-- The memories have been cleared since the reset (R410, R417). -/
  cleared : Bool := false
  /-- The program memory of a halted Verb was written: every frame is void with cause DIVERGED until the next boot or reload
  (R481). -/
  programWritten : Bool := false
  deriving DecidableEq, Repr

/-! ### Serial ports and links: their queues -/

/-- A character in a transmit queue (R333): the data bits, and for the first character of an event's message the effective
position before which it may not start (R231). -/
structure TxEntry where
  char  : BitVec 9
  notBefore : Option DWord
  deriving DecidableEq, Repr

/-- An entry of a receive queue (R329): data, FE PE NF BRK ADDR LOSS; its start edge in quarters of a TCLK cycle, whose low 32 bits are
the arrival time (R324); the setting that received it and its bits before the stop bit, from which the fabric forms stamps (R206). -/
structure RxEntry where
  data : BitVec 9
  fe   : Bool
  pe   : Bool
  nf   : Bool
  brk  : Bool
  addr : Bool
  loss : Bool
  start : DWord
  baud : Word
  nbits : Nat
  deriving DecidableEq, Repr

/-- A packet a link has to send, or has sent and holds for a replay (R352, R354): type, header, payload, sequence
number, and the AOTIME at which its EOP leaves. -/
structure OutPkt where
  typ     : Nat
  hd      : LinkHeader
  payload : List Byte
  seq     : Nat
  eop     : DWord := 0
  deriving DecidableEq, Repr

/-- A serial port (R320 to R345). -/
structure SpSt where
  rxq  : List RxEntry := []
  txq  : List TxEntry := []
  /-- The start edge of the character being received, in quarters of a TCLK cycle (R324). -/
  rxBusy : Option DWord := none
  /-- The instant, in quarters, from which the line is known to have been high in single-wire mode (R337, R338). -/
  lineFrom : DWord := 0
  /-- The next entry carries LOSS (R329). -/
  loss   : Bool := false
  muted  : Bool := false
  /-- The line was low when it was last looked at, and is not known to have risen since (R337). -/
  lineLow : Bool := false
  /-- RTS is asserted, while RTSEN is 1 (R335); the CTS level at the latest transmit tick (R334). -/
  rts    : Bool := false
  cts    : Bool := false
  /-- A character is in the shifter, until this instant in quarters of a TCLK cycle (R333). -/
  txBusy : Option DWord := none
  /-- A tick of the free-running transmit divider, in quarters of a TCLK cycle, and the accumulator at it (R321). -/
  txGrid : Nat × Nat := (0, 0)
  /-- The line levels of the latest character sent, before INV: from which instant, in quarters, which level (R323, R338, R340). -/
  line   : List (Nat × Bool) := []
  /-- Consecutive collisions on the character at the head (R338); the character being received is the port's own (R339). -/
  colls  : Nat := 0
  own    : Bool := false
  /-- The bit times for which the line must be high after the latest collision (R338). -/
  backoff : Nat := 0
  /-- What the receiver makes of the port's own character: its entry, the instant of its stop decision, and the instant from which the line
  is high; in quarters (R336, R339). -/
  echo   : Option (RxEntry × DWord × DWord) := none
  /-- The AOTIME of the latest RXFLUSH (R342). -/
  flushed : Option DWord := none
  /-- The AOTIME of a write to BAUD that the receiver has still to apply, and whether the transmitter has (R322). -/
  rxPend : Option DWord := none
  txPend : Bool := false
  /-- The settings in force on each side (R322); BAUD holds the staged one. -/
  rxBaud : Word := 0x003126E9
  txBaud : Word := 0x003126E9
  deriving DecidableEq, Repr

/-- A chain link (R346 to R382). Its training step, its peer and P are in LINK.LSTATn. -/
structure LinkSt where
  /-- Packets waiting to be sent (R352), and retried packets sent and not acknowledged, oldest first (R354). -/
  outq : List OutPkt := []
  sent : List OutPkt := []
  /-- The next sequence number; consecutive replays of the oldest packet (R354). -/
  seq  : Nat := 0
  replays : Nat := 0
  /-- The packet that left last, with the bytes it left with (R352). -/
  wire : Option OutPkt := none
  /-- The sequence number that the next retried packet is to carry; the ACK or NAK still to be sent, and the one sent last: whether it is a
  NAK, and the number up to which packets are received (R351, R354). -/
  expect : Nat := 0
  answer : Option (Bool × Nat) := none
  answered : Option (Bool × Nat) := none
  /-- Credits held, by class: CTL, EVT, BOOT, TRC (R353). -/
  credits : List Nat := [16, 64, 64, 32]
  /-- Of each EVT packet received whose events the fabric has not all accepted: the events left and the buffers it takes; and the
  buffers of each class that have drained, for which CRED is to be sent (R204, R353). -/
  evtHeld : List (Nat × Nat) := []
  owed    : List Nat := [0, 0, 0, 0]
  /-- The latest HELLO received and its arrival; exchanges measured and the sum of their delays (R356). -/
  peer : Option (HelloPayload × Word) := none
  exch : Nat := 0
  psum : Int := 0
  /-- The AOTIME at which the present training step began, and of the latest HELLO sent since the link began to train (R356). -/
  since   : DWord := 0
  helloAt : Option DWord := none
  /-- The AOTIME from which the wire is free for the next packet (R350, R352). -/
  wireFree : DWord := 0
  /-- The up-block of the frame being returned, whether its CRC held, and the AOTIME of its EOP (R368, R369). -/
  block : Option (UpBlock × Bool × DWord) := none
  /-- The neighbour is named in the next frame's header, after a CRC failure (R368). -/
  nameNext : Bool := false
  /-- The frame of a block to be discarded when it arrives (R368). -/
  skip : Option Nat := none
  /-- The next image offset streamed down this link (R358). -/
  stream : Option Nat := none
  deriving DecidableEq, Repr

/-- A worker as the root knows it (R372 to R378): its address, active Verbs, depth, the link it lies on, presence, frames
left of its late mark (0: not late), a join request received, a valid report received. -/
structure DeviceSt where
  addr    : Nat
  verbs   : Nat
  depth   : Nat
  link    : Nat
  present : Bool
  late    : Nat
  joinReq : Bool
  report  : Bool
  deriving DecidableEq, Repr

/-- The system (R346 to R382). -/
structure SysSt where
  /-- Workers known here: on the root every worker, on a tier-one manager those of its tier. -/
  devices : List DeviceSt := []
  /-- Word events of a frame that go up in its WEV packet, or wait on the root for its blocks (R361). -/
  wev : List (Nat × WevEntry) := []
  /-- Word events on the root whose blocks have arrived, in the order they are routed (R361). -/
  wevReady : List EvPacket := []
  /-- The device runs as single: its up-blocks do not fit a frame (R371). -/
  single : Bool := false
  /-- The frame exported last (R359). -/
  exported : Option Nat := none
  /-- The AOTIME of boot step 11 (R347), and that of the latest mailbox request (R380). -/
  roleFrom : DWord := 0
  mailAt   : DWord := 0
  /-- Slots announced FREE at this boundary (ENDMAP, R367). -/
  endmap : List Nat := []
  /-- Devices whose link is lost and not yet removed: address and root link; the first frame they lacked (R376). -/
  lost : List (Nat × Nat) := []
  lossFrame : Option Nat := none
  /-- Void causes of the frames in the hold (R359). -/
  holdVoid : List (Nat × BitVec 10) := []
  deriving DecidableEq, Repr

/-! ### Tense -/

/-- The position tracker (R235 to R248). TRANS, LOST and ACQ are in TENSE.STAT, the source and the internal tempo in
TENSE.CFG and TENSE.TEMPO. -/
structure TenseSt where
  /-- The present piece: its anchor p_a and M_a, and Q_run (R235). -/
  pa : DWord := 0
  ma : DWord := 0
  qrun : Nat := 0
  /-- The pieces before it that the frame being rendered may still need, the newest first (R235, R245). -/
  older : List (DWord × DWord × Nat) := []
  /-- Q_f: at reset that of 120 BPM at 48 kHz, the resets of TEMPO and of the rate (R240). -/
  qf : Nat := 6144000
  /-- P_s (R237). -/
  ps : DWord := 0
  /-- The latest pulse since the source was selected, and its target (R241). -/
  lastP : Option DWord := none
  lastT : DWord := 0
  /-- The next pulse is the first of an acquisition: 1 its target is P_s, 2 it is rounded (R241). -/
  acquire : Nat := 0
  nout : Nat := 0
  /-- Up to four accepted tap intervals (R244). -/
  taps : List Nat := []
  /-- A jump or a pulse took effect at the latest step 2 (R245, R243). -/
  jumped : Bool := false
  pulsed : Bool := false
  /-- The musical queue in order, and the words of an entry being written (R246). -/
  queue : List (DWord × EvPacket) := []
  mwin : List Word := []
  /-- GOMASK and START of the TENSE payload, until the epoch applies them (R261). -/
  atEpoch : Nat × Bool := (0, false)
  deriving DecidableEq, Repr

/-- A timer channel (R250 to R258). -/
structure TimerSt where
  count : Word := 0
  lap   : BitVec 16 := 0
  released : Bool := false
  /-- Count and lap one and two TCLK cycles ago (R256). -/
  prev1 : Word × BitVec 16 := (0, 0)
  prev2 : Word × BitVec 16 := (0, 0)
  deriving DecidableEq, Repr

/-! ### Outputs and inputs -/

/-- A self-tone generator (R277, R278): running, its mode, increment, amplitude and phase. -/
structure ToneSt where
  on    : Bool := false
  add   : Bool := false
  inc   : Nat := 0
  amp   : Nat := 0
  phase : Nat := 0
  deriving DecidableEq, Repr

/-- An audio output channel (R270 to R281). -/
structure DacSt where
  /-- The stage-1 codes of the frame being played (R270). -/
  codes : List Word := List.replicate 16 0
  /-- The stage-1 code of the latest sample, which a SYNC holds while its mute ramp runs (R18). -/
  lastN : Word := 0
  /-- The stage-3 output of the latest sample (R274). -/
  out   : Word := 0
  /-- What stage 6 takes at the latest sample instant, in code steps: stage 4's value and the trims of stage 5 (R279). -/
  level : Int := 0
  /-- κ, and the samples it has stood at 4,096 (R274, R276). -/
  kappa : Nat := 4096
  stood : Nat := 0
  /-- The park switch is open (R276). -/
  open? : Bool := false
  tone  : ToneSt := {}
  /-- T_fac for each FSR, and T_run (R279). -/
  tfac  : List Int := [0, 0, 0]
  trun  : Int := 0
  deriving DecidableEq, Repr

/-- A control-voltage channel (R285 to R296). -/
structure CvSt where
  /-- The stage-1 codes of the frame being played, and the latest one taken (R286, R292). -/
  codes : List Nat := List.replicate 16 0
  lastN : Nat := 0
  /-- The park switch is closed; samples of settling behind it (R289). -/
  closed : Bool := true
  settle : Nat := 0
  /-- The ramp factor a, and the samples at N0 (R288, R289). -/
  a     : Nat := 0
  hold  : Nat := 0
  /-- The span of the amplifier (R290). -/
  span  : Nat := 0
  tone  : ToneSt := {}
  /-- O_fac and G_fac for each span, O_run and G_run (R294). -/
  ofac  : List Int := [0, 0, 0, 0]
  gfac  : List Int := [0, 0, 0, 0]
  orun  : Int := 0
  grun  : Int := 0
  /-- Consecutive visits with a residual beyond DRIFTLIM (R296). -/
  drift : Nat := 0
  /-- Codes M and DAC words D on their way to the DAC with the AOTIME at which each is due, and the latest of them that is due
  (R287). -/
  queue : List (DWord × Nat × Nat) := []
  due   : Nat × Nat := (0, 0)
  /-- M and D as the DAC holds them (R287, R294). -/
  held  : Nat × Nat := (0, 0)
  deriving DecidableEq, Repr

/-- A decimation stage: its latest inputs, the newest first, and whether its next input has an odd index, so that it gives no output
(R302). -/
structure StageSt where
  line : List (BitVec 40) := []
  odd  : Bool := false
  deriving DecidableEq, Repr

/-- An input channel (R299 to R313). -/
structure AdcSt where
  running : Bool := false
  /-- Started, with no modulator code taken yet (R309). -/
  fresh   : Bool := true
  /-- RUN or EN has been 0 since the latest sample boundary: a chain that runs stops there, even where both are 1 again (R309). -/
  cut     : Bool := false
  /-- The stages up to the tap (R301). -/
  stages  : List StageSt := []
  /-- The sum of modulator codes of the period under way (R306). -/
  sum     : Int := 0
  /-- The sample time whose sample a command has delivered (log 129). -/
  given   : Option Nat := none
  /-- The AOTIME at which each reset of the modulator's loop began, and the stage-1 input it holds (R313). -/
  holds   : List (DWord × Int) := []
  /-- Samples still to be delivered before SETTLE clears (R311). -/
  settle  : Nat := 0
  /-- The sample delivered last, held across a period in single-cycle-settling mode (R306). -/
  held    : Word := 0
  /-- The frame whose first overload has been logged (R313). -/
  ovlFrame : Option Nat := none
  /-- O_fac and G_fac for each range (R307). -/
  ofac    : List Int := [0, 0]
  gfac    : List Int := [0, 0]
  deriving DecidableEq, Repr

/-- A threshold detector (R314 to R317); its state is ADC.TCTLx.STATE. -/
structure DetectorSt where
  /-- The previous value evaluated, or none before the first. -/
  last   : Option Int := none
  /-- The events of the open peak windows, the oldest first: stamp, the value of largest magnitude so far, values still to come. -/
  windows : List (DWord × Int × Nat) := []
  /-- Hold-off samples left. -/
  hold   : Nat := 0
  deriving DecidableEq, Repr

/-- The converters. -/
structure AnalogSt where
  dac : List DacSt := List.replicate 16 {}
  cv  : List CvSt := List.replicate 8 {}
  adc : List AdcSt := List.replicate 16 {}
  det : List DetectorSt := List.replicate 32 {}
  /-- The monitor's channel in its rotation: 0 to 15 audio, 16 to 23 control voltage; its window is spoilt (R280, R295). -/
  monitor : Nat := 0
  spoilt  : Bool := false
  /-- The samples of the window so far, and the sum over them of what the device put out: stage 3 of an audio channel, M of a
  control voltage (R280, R295). -/
  monCount : Nat := 0
  monSum   : Int := 0
  /-- The rails outside their thresholds at the latest loss: VCVP, VCVN (R291, R298). -/
  railP : Bool := true
  railN : Bool := true
  /-- Samples of the SYNC mute left (R274, R292). -/
  syncHold : Nat := 0
  /-- The custom coefficients loaded, by address; the others are those of the linear-phase set (R304, R305). -/
  coefs : List (Nat × Word) := []
  deriving DecidableEq, Repr

/-- SHA-256 part way through a message: chaining value, byte count, the bytes of the incomplete block (R454). -/
structure ShaSt where
  chain : List Word
  count : Nat
  tail  : List Byte
  deriving DecidableEq, Repr

/-- What PD0 holds of the running image's check (R445, R454): its build hash, the digest state after the WAVE directory and after
the WAVE payload, and the SHA-256 of the VERB section. -/
structure AcceptedSt where
  hash    : List Byte
  dirEnd  : Option ShaSt
  waveEnd : Option ShaSt
  verbSha : List Byte
  deriving DecidableEq, Repr

/-- What the hold cells of PD0 keep of the balls of PD7 while they are latched (R452): the levels of SPnTX, of SPnRTS and of each digital
audio port's SDO, none where the ball was released or at high impedance. Every other ball of PD7 was an input or a clock, or belongs to
a link pair. -/
structure PadLatch where
  tx  : List (Option Bool) := List.replicate 8 (some true)
  rts : List Bool := List.replicate 8 true
  sdo : List (Option Bool) := List.replicate 4 none
  deriving DecidableEq, Repr

/-- Supply and power (R440 to R458). -/
structure PowerSt where
  /-- BROWNOUT: outputs are muted (R274, R450). -/
  muted  : Bool := false
  /-- A request to turn a domain off is under way, by domain (R274, R289, R446). -/
  offReq : BitVec 8 := 0
  /-- VHOLD in millivolts: 0 until the charger has started, and then the 15 V to which it charges (R433, R442, log 141); VIN is below
  the reset threshold (R434). -/
  vhold : Nat := 0
  vinLow : Bool := false
  /-- The AOTIME from which VIN has stayed above 4.45 V; none while it does not (R441, R457). -/
  vinGood : Option DWord := none
  /-- The warning: AOTIME and frame at its start, the lowest VIN since (R449 to R451). -/
  warnAt : Option DWord := none
  warnFrame : Nat := 0
  warnLow : Nat := 0
  /-- A change to QUIET (1) or to RUN (2) waits for the next frame boundary (R447). -/
  want : Nat := 0
  /-- SLEEP (2) or OFF (3) is being entered (R448). -/
  entry : Option Nat := none
  /-- The domains that were on at entry; the wake sources latched, which fired in one cycle, and its AOTIME (R448, R453). -/
  domains : BitVec 8 := 0xFF
  wakeLatch : BitVec 24 := 0
  wakeAt : DWord := 0
  /-- A wake has begun and a step of it is being retried; the time-outs of W2, W3 and W4 so far (R454). -/
  waking : Bool := false
  retries : Nat × Nat × Nat := (0, 0, 0)
  /-- What the hold cells of the PD7 balls hold (R452). -/
  pads : PadLatch := {}
  accepted : Option AcceptedSt := none
  /-- FAULT is held by a failure of R455, until a wake succeeds or PWR.FAIL is cleared (R444). -/
  failed : Bool := false
  deriving DecidableEq, Repr

/-- Levels of input balls that no register shows (R252, R256), and the balls driven through the boundary register (R483). -/
structure PinSt where
  wake : Bool := false
  sync : Bool := false
  /-- The levels of the timer balls as the two stages of their synchroniser hold them (R252). -/
  ballA : BitVec 8 := 0
  ballB : BitVec 8 := 0
  deriving DecidableEq, Repr
/-- A digital audio port (R383 to R391). -/
structure DaiSt where
  /-- The port frames that wait for their sample time (R385): the sample time at which the last bit was sampled, in 1/256 samples of the
  epoch in force, and the slots. -/
  due   : List (Int × List Word) := []
  /-- The latest sample time with a frame, and the 16 words it delivered (R385, R387). -/
  lastU : Option Nat := none
  words : List Word := List.replicate 16 0
  /-- The position v of the latest port frame sent (R386, R387), and its words on SDO; none where a slot is at high
  impedance. -/
  lastV : Option Nat := none
  sdo   : List (Option Word) := []
  /-- The frame whose first slip has been logged (R387). -/
  slipFrame : Option Nat := none
  /-- The AOTIME of the latest frame on the port, whose start is an FS edge (R388). -/
  edgeAt : DWord := 0
  /-- For the two latest frames played: of each output slot the 16 bus values after the shift, not yet saturated (R386). -/
  bus   : List (Nat × List (List Int)) := []
  /-- The OSLOTs that were in force in the frame before this one, for its last position (R386, R391). -/
  before : List Word := []
  deriving DecidableEq, Repr

/-! ### Boot image and non-volatile store -/

/-- The flash device on NVCS (R414, R415): what discovery finds, and its bytes (blank flash reads 0xFF). -/
structure FlashSt where
  /-- It answers at all; its SFDP signature; the protocols that its Basic Flash Parameter Table declares, by their code in
  NVM.FLASH.PROTO, and those of its xSPI Profile 1.0 table, where it has one; log₂ of its capacity; it declares a 4 KiB erase. -/
  responds : Bool := true
  sfdp     : Bool := true
  basic    : List Nat := [4]
  xspi     : Option (List Nat) := some [0]
  sizeLog  : Nat := 24
  erase4k  : Bool := true
  bytes    : List (Nat × Byte) := []
  deriving DecidableEq, Repr

/-- A store under way (R432): its kind, slot 0 A or 1 B, sequence number, record bytes, and whether it comes from the host. -/
inductive NvmOp where
  | store (kind slot seq : Nat) (record : List Byte) (host : Bool)
  deriving DecidableEq, Repr

/-- The store area (R430): BASE, HCAP, VMIN, EPAGE, ECOMMIT and the kinds with their sectors per slot. -/
structure StoreDesc where
  base    : Nat
  hcap    : Nat
  vmin    : Nat
  epage   : Nat
  ecommit : Nat
  kinds   : List (Nat × Nat)
  deriving DecidableEq, Repr

/-- The flash port's state that no register shows. -/
structure NvmSt where
  op    : Option NvmOp := none
  /-- The direct operation that has been taken and not completed, which waits behind stores (R437): 1 read, 2 program, 3 erase, and its
  address. -/
  direct : Option (Nat × Nat) := none
  desc  : Option StoreDesc := none
  deriving DecidableEq, Repr

/-- A wave of the WAVE directory (R427). A dropped entry keeps its index. -/
structure Wave where
  kind     : Nat
  streamed : Bool
  wide     : Bool
  levels   : Nat
  frames   : Nat
  length   : Nat
  rate     : Nat
  root     : Word
  lexAddr  : Nat
  dataOff  : Nat
  head     : Nat
  deriving DecidableEq, Repr

/-- The image as loaded (R420 to R428). -/
structure ImageSt where
  waves   : List (Option Wave) := []
  strBase : Nat := 0
  strSize : Nat := 0
  /-- Blocks resident in the stream pool: wave and block, with their place in the pool (R428). -/
  pool    : List (Nat × Nat × Nat) := []
  /-- The block of a streamed wave that a table request of a Word has read last: flow position, Word, wave, block (R428). -/
  streams : List (Nat × Nat × Nat × Nat) := []
  /-- The image a link has carried, by offset (R358). -/
  link    : List (Nat × Byte) := []
  /-- The image that the device has booted over a link, which it streams to its own workers (R356, R358). -/
  carried : List (Nat × Byte) := []
  deriving DecidableEq, Repr

/-! ### Fuses and the test port (Debug access, test and fuses) -/

/-- The fuse array (R484 to R486): 16 words of 32 data fuses and a parity fuse, and the word being programmed with its data. -/
structure FuseSt where
  blown : List (Word × Bool) := List.replicate 16 (0, false)
  prog  : Option (Nat × Word) := none
  deriving DecidableEq, Repr

/-- The instruction in the test port's instruction register (R475, Table 1). -/
inductive TapIr where
  | extest | sample | idcode | clamp | highz | dbgacc | bypass
  deriving DecidableEq, Repr

/-- The test port (R475 to R478): its instruction, what the boundary register captured and holds for its outputs, the outcome and
the data of the latest access through DBGACC. -/
structure TapSt where
  ir      : TapIr := .idcode
  pins    : List Bool := []
  preload : List Bool := []
  outcome : BitVec 2 := 0
  data    : Word := 0
  deriving DecidableEq, Repr

/-! ### The device -/

/-- THE STATE. Every piece of state the spec gives the device, as plain data; the default of each field is its value at
reset. Registers (R4) are one list of address and value in canonical form: ascending addresses, and no entry equal to what
an unlisted address reads as (regReset); staged holds the RWS values waiting for the boundary (R7). Memory bytes (R23) are
one list in the same form, reading 0 where unlisted; ecc holds, by word address, the bits in which a stored 88-bit word
differs from the codeword of its data (R395). -/
structure State where
  time   : TimeSt := {}
  host   : HostSt := {}
  regs   : List (Nat × Word) := []
  staged : List (Nat × Word) := []
  mem    : List (Nat × Byte) := []
  ecc    : List (Nat × BitVec 88) := []
  memint : MemSt := {}
  gloss  : GlossSt := {}
  evt    : EvtSt := {}
  syns   : List Syntax := []
  decls  : List WordDecl := []
  phrases : List Phrase := []
  alloc  : AllocSt := {}
  verbs  : List VerbSt := List.replicate 16 {}
  parser : ParserSt := {}
  /-- Concord: Word-frames that have ended and are not yet released (R157), in flow order. -/
  ended  : List EndedWf := []
  boot   : BootSt := {}
  tense  : TenseSt := {}
  timers : List TimerSt := List.replicate 16 {}
  analog : AnalogSt := {}
  pins   : PinSt := {}
  power  : PowerSt := {}
  sp     : List SpSt := List.replicate 8 {}
  sys    : SysSt := {}
  links  : List LinkSt := List.replicate 4 {}
  dai    : List DaiSt := List.replicate 4 {}
  flash  : FlashSt := {}
  nvm    : NvmSt := {}
  image  : ImageSt := {}
  fuse   : FuseSt := {}
  tap    : TapSt := {}
  /-- The model's own: how many free values have been drawn (log 3). -/
  free   : Nat := 0
  /-- The commands waiting, first in, first out. -/
  pending : List Instr := []
  deriving DecidableEq, Repr

/-- Why a command stops. -/
inductive Fault where
  /-- A command whose operands no bus or packet can carry. No meaning raises it: every operand of every command has a
  reading, so the model never stops on one. Safe: nothing is claimed about a state after it. -/
  | malformedCommand
  deriving DecidableEq, Repr

/-- A command without a meaning in the model. -/
inductive Refusal where
  /-- Raised by no meaning: an arm of exec that is not written yet. Safe. -/
  | notModelled (mnemonic : String)
  deriving DecidableEq, Repr

/-- The device right after a power-on reset, before boot: every register at its reset value, every memory byte 0, no
Phrase, rendering stopped (R146, R416, R443). -/
def State.reset : State := {}

end Sys2Proof.Machine
end

