-- ==== Sys2Proof/Machine/Ops.lean ====
section
/-! DEFINITION. The named operations every meaning is written with: sparse maps in canonical form, bit fields, registers,
counters, refusals, bus errors, convergent rounding, stamps. -/

namespace Sys2Proof.Machine

/-! ### Bit fields -/

/-- Bits hi down to lo of a word. -/
def bits (w : Word) (hi lo : Nat) : Nat := (w.toNat / 2 ^ lo) % 2 ^ (hi - lo + 1)

/-- A word with bits hi down to lo replaced. -/
def setBits (w : Word) (hi lo x : Nat) : Word :=
  BitVec.ofNat 32 (w.toNat - bits w hi lo * 2 ^ lo + (x % 2 ^ (hi - lo + 1)) * 2 ^ lo)

/-- One bit of a word. -/
def bitOf (w : Word) (i : Nat) : Bool := (w.toNat / 2 ^ i) % 2 = 1

/-- A number as a word. -/
def w32 (n : Nat) : Word := BitVec.ofNat 32 n

/-- A number as a 64-bit word. -/
def w64 (n : Nat) : DWord := BitVec.ofNat 64 n

/-- 1 for true. -/
def b2n (b : Bool) : Nat := if b then 1 else 0

/-- An integer saturated to the signed 32-bit range. -/
def satS32 (x : Int) : Int := max (-2147483648) (min 2147483647 x)

/-- Division rounded convergently: to the nearest integer, ties to even. -/
def rne (n : Int) (d : Nat) : Int :=
  let q := n / d
  let r := n % d
  if 2 * r < d then q else if 2 * r > d then q + 1 else if q % 2 = 0 then q else q + 1

/-- Little-endian value of a byte list (R3). -/
def leNat : List Byte → Nat
  | [] => 0
  | b :: bs => b.toNat + 256 * leNat bs

/-- The n low bytes of a number, least significant first (R3). -/
def leBytes : Nat → Nat → List Byte
  | 0, _ => []
  | n + 1, v => BitVec.ofNat 8 v :: leBytes n (v / 256)

/-- n bytes of a list from an offset, as a little-endian number. -/
def fieldAt (bs : List Byte) (off n : Nat) : Nat := leNat ((bs.drop off).take n)

/-! ### Sparse maps: ascending keys, no entry equal to the default -/

/-- The entry at a key. -/
def mapGet {α : Type} (m : List (Nat × α)) (k : Nat) : Option α :=
  match m with
  | [] => none
  | (a, x) :: r => if k = a then some x else mapGet r k

/-- The map without a key. -/
def mapErase {α : Type} (m : List (Nat × α)) (k : Nat) : List (Nat × α) :=
  match m with
  | [] => []
  | (a, x) :: r => if k = a then mapErase r k else (a, x) :: mapErase r k

/-- The map with an entry put in its place. -/
def mapPut {α : Type} (m : List (Nat × α)) (k : Nat) (v : α) : List (Nat × α) :=
  match m with
  | [] => [(k, v)]
  | (a, x) :: r => if k < a then (k, v) :: (a, x) :: r else if k = a then (k, v) :: r else (a, x) :: mapPut r k v

/-- The map with a value written: writing the default removes the entry. -/
def mapSet {α : Type} [DecidableEq α] (m : List (Nat × α)) (d : α) (k : Nat) (v : α) : List (Nat × α) :=
  if v = d then mapErase m k else mapPut m k v

/-- Ascending keys. -/
def mapSorted {α : Type} : List (Nat × α) → Bool
  | [] => true
  | (a, _) :: r => (match r with | [] => true | (b, _) :: _ => a < b) && mapSorted r

/-- The element at an index, or a default. -/
def nth {α : Type} (l : List α) (i : Nat) (d : α) : α := l.getD i d

/-- Indices 0 to n - 1 that satisfy a test. -/
def idxs (n : Nat) (p : Nat → Bool) : List Nat := (List.range n).filter p

/-- The element of a list with the least key, the first on ties. -/
def leastBy {α : Type} (key : α → Nat) : List α → Option α
  | [] => none
  | x :: xs =>
    match leastBy key xs with
    | none => some x
    | some y => if key x ≤ key y then some x else some y

/-! ### Registers (R4 to R10) -/

/-- The value a register holds: a listed value, else its reset value. -/
def rd (s : State) (a : Nat) : Word := (mapGet s.regs a).getD (regReset a)

/-- A register takes a value. -/
def wr (s : State) (a : Nat) (v : Word) : State := { s with regs := mapSet s.regs (regReset a) a v }

/-- A field of a register. -/
def fld (s : State) (a hi lo : Nat) : Nat := bits (rd s a) hi lo

/-- One bit of a register. -/
def flag (s : State) (a i : Nat) : Bool := bitOf (rd s a) i

/-- A field of a register takes a value. -/
def wrFld (s : State) (a hi lo x : Nat) : State := wr s a (setBits (rd s a) hi lo x)

/-- A bit of a register is set. -/
def setFlag (s : State) (a i : Nat) : State := wrFld s a i i 1

/-- A bit of a register is cleared. -/
def clrFlag (s : State) (a i : Nat) : State := wrFld s a i i 0

/-- A counter of the layout of Table 14 of the Parser chapter counts one occurrence: SAT in bit 31 when it reaches
0xFF_FFFF, where it stays. -/
def countUp (s : State) (a : Nat) : State :=
  if flag s a 31 then s
  else if fld s a 23 0 + 1 = 0xFFFFFF then wr s a 0x80FFFFFF
  else wrFld s a 23 0 (fld s a 23 0 + 1)

/-- A counter counts several occurrences. -/
def countUpBy (s : State) (a n : Nat) : State := (List.range n).foldl (fun t _ => countUp t a) s

/-- An edge source of SYS.IRQSTAT is set (R32). -/
def raiseIrq (s : State) (b : Nat) : State := setFlag s R.sysIrqstat b

/-- The base address of the page of an address. -/
def pageOf (a : Nat) : Nat := a / 0x10000 * 0x10000

/-- A write is refused (R9, R10): the block's ERR register takes UNDEF (an encoding refusal) or LOCKW (a state refusal) and
the offset of the first one since the last clear; a later one sets MULTI and leaves OFFSET. -/
def refuse (s : State) (a : Nat) (encoding : Bool) : State :=
  let e := pageOf a + 0xFFFC
  let w := rd s e
  let again := bitOf w 31 || bitOf w 29
  let w := if encoding then setBits w 31 31 1 else setBits w 29 29 1
  let w := if again && !s.host.errOpen.contains (pageOf a) then w else setBits w 15 0 (a % 0x10000)
  let w := if again then setBits w 30 30 1 else w
  wr { s with host := { s.host with errOpen := s.host.errOpen.filter (· ≠ pageOf a) } } e w

/-- A bus error is recorded (R25): the first in BUSERR and BUSADDR, a later one as MULTI. -/
def busErr (s : State) (init cause : Nat) (isWrite : Bool) (a : Nat) : State :=
  if flag s R.sysBuserr 31 then setFlag s R.sysBuserr 30
  else wr (wr s R.sysBuserr (w32 (0x80000000 + b2n isWrite * 16 + init * 4 + cause))) R.sysBusaddr (w32 a)

/-- Domain PDd is on (R445, PWR.DOMSTAT.ON). -/
def domainOn (s : State) (d : Nat) : Bool := flag s R.pwrDomstat d

/-- The boot sequence has applied the image's DEVICE list (R418). -/
def deviceApplied (s : State) : Bool := s.boot.deviceApplied

/-- The boot sequence has applied the TENSE section (R261). -/
def tenseApplied (s : State) : Bool := s.boot.tenseApplied

/-! ### Time (R12, R17, R21, R258, R461) -/

/-- The render rate code of CLK.STAT.FS. -/
def fsCode (s : State) : Nat := fld s R.clkStat 2 0

/-- The render rate in hertz (R12). -/
def fsHz (s : State) : Nat :=
  match fsCode s with
  | 0 => 44100 | 1 => 48000 | 2 => 88200 | 3 => 96000 | 4 => 176400 | 5 => 192000 | _ => 48000

/-- 0 at the family's base rate, 1 at twice, 2 at four times. -/
def rateLog (s : State) : Nat := fsCode s / 2

/-- T_s: TCLK cycles per sample (R258). -/
def tclkPerSample (s : State) : Nat := 512 / 2 ^ rateLog s

/-- Y: Verb cycles per frame (Table 5 of the scope chapter): 16 samples of 32 Verb cycles per TCLK cycle. -/
def verbCyclesPerFrame (s : State) : Nat := 16 * tclkPerSample s * 32

/-- The stamp of an AOTIME instant: rnd((A - E) × 256 / T_s) (R258, R461). -/
def stampOf (s : State) (ao : DWord) : DWord :=
  BitVec.ofInt 64 (rne ((ao - s.time.epoch).toInt * 256) (tclkPerSample s))

/-- The stamp of this instant. -/
def nowStamp (s : State) : DWord := stampOf s s.time.aoTime

/-- TCLK cycles since an AOTIME; 0 where it has not come yet. -/
def cyclesSince (s : State) (t : DWord) : Nat := (s.time.aoTime - t).toInt.toNat

/-- The sample time of this instant, in whole samples from the epoch. -/
def nowSample (s : State) : Nat := (s.time.aoTime - s.time.epoch).toInt.toNat / tclkPerSample s

/-- A cause of Table 8 of the ordered-release chapter applies to a frame (R173). -/
def voidFrame (s : State) (n cause : Nat) : State :=
  let old := (mapGet s.time.voids n).getD 0
  { s with time := { s.time with voids := mapPut s.time.voids n (old ||| BitVec.ofNat 10 (2 ^ cause)) } }

/-- The frames from m up to the one before the open one, in which a Phrase sounds, are void with cause DIVERGED: their boundaries have
passed (R173). -/
def voidSince (s : State) (m : Nat) (ends : Option Nat) : State :=
  (List.range (s.time.frame - m)).foldl (fun t i => if ends.all (m + i ≤ ·) then voidFrame t (m + i) 2 else t) s

/-! ### The hold-up charger (R442) -/

/-- The charger starts, after boot step 3 or wake step W4, and VHOLD rises to 15 V; how long that takes is left out (R442, log 141). -/
def startCharger (s : State) : State := { s with power := { s.power with vhold := 15000 } }

/-- In SLEEP or OFF (R446). -/
def asleep (s : State) : Bool := 2 ≤ fld s R.pwrStat 2 0

/-- The charger runs: boot step 3 or wake step W4 has been passed, and the device is not in SLEEP or OFF (R442). -/
def chargerRuns (s : State) : Bool := s.boot.ready && !asleep s

/-- VHOLD lies within 2 % of 15 V (R442). -/
def vholdGood (s : State) : Bool := 14700 ≤ s.power.vhold && s.power.vhold ≤ 15300

/-- The current of the charger in microamperes: what PWR.HOLD.ILIM names, a tenth of it while VHOLD is shorted, none while it stands
(R442, R458). -/
def chargeCurrent (s : State) : Nat :=
  if !chargerRuns s then 0
  else 25000 * 2 ^ fld s R.pwrHold 1 0 / (if flag s R.pwrHold 9 then 10 else 1)

/-! ### Wake events (R453) -/

/-- Wake events are latched: those of the cycle that starts the wake, so that a later cycle's add nothing (R453, log 39). -/
def latchWake (s : State) (sources : BitVec 24) : State :=
  if sources = 0 then s
  else if s.power.wakeLatch = 0 then { s with power := { s.power with wakeLatch := sources, wakeAt := s.time.aoTime } }
  else if s.power.wakeAt = s.time.aoTime then
    { s with power := { s.power with wakeLatch := s.power.wakeLatch ||| sources } }
  else s

/-! ### Free values -/

/-- Draws a free word (log 3). -/
def drawFree (s : State) : State × Word := ({ s with free := s.free + 1 }, Config.freeWord s.free)

end Sys2Proof.Machine
end

