-- ==== Sys2Proof/Machine/Gloss.lean ====
section
/-! DEFINITION. The Gloss event recorder: raising a code (R460 to R468, R516). Every other file raises codes with
raiseGloss; the storing of entries is in Machine/GlossStore.lean. -/

namespace Sys2Proof.Machine

/-- The SRC byte of a code (R516, Table 1a). -/
def glossSrc (code : Nat) : Nat :=
  if code < 0x0140 then 0x01
  else if code = 0x0140 then 0x02
  else if code = 0x0150 then 0x00
  else if code = 0x1105 then 0x12
  else if code = 0x1230 then 0x05
  else if code = 0x1240 then 0x06
  else if code = 0x1250 then 0x07
  else if code < 0x2000 then 0x11
  else if code < 0x3000 then 0x0E
  else if code = 0x3110 ∨ code = 0x3111 ∨ code = 0x3120 ∨ code = 0x3130 ∨ code = 0x3131 then 0x10
  else if code < 0x4000 then 0x03
  else if code < 0x5000 then 0x04
  else if code < 0x5200 then 0x05
  else if code < 0x5300 then 0x0B
  else if code < 0x6000 then 0x0D
  else if code < 0x7000 then 0x0C
  else if code < 0x7120 then 0x08
  else if code < 0x7130 then 0x09
  else if code = 0x7130 then 0x0A
  else if code < 0x9000 then 0x06
  else 0xFF

/-- Pt, the period in TCLK-equivalent cycles (R466). -/
def glossPt (s : State) : Nat :=
  let period := fld s R.glossRate 25 16
  if flag s R.clkStat 3 then period * 225792 / 10 else period * 24576

/-- The burst that applies to a code (R466): that of the lowest enabled override that names it, else GLOSS.RATE's. -/
def glossBurst (s : State) (code : Nat) : Nat :=
  match (idxs 16 fun n => flag s (R.glossOvr + 4 * n) 31 && fld s (R.glossOvr + 4 * n) 15 0 = code) with
  | n :: _ => fld s (R.glossOvr + 4 * n) 23 16
  | [] => fld s R.glossRate 7 0

/-- The level of a code's bucket now (R466): full where no spending is recorded. -/
def glossLevel (s : State) (code : Nat) : Nat :=
  let full := glossBurst s code * glossPt s
  match mapGet s.gloss.buckets code with
  | none => full
  | some (lvl, since) => min full (lvl + glossBurst s code * (s.time.aoTime - since).toNat)

/-- The stamp of an entry raised now: all ones from a device reset or the entry into SLEEP or OFF until an epoch is set (R461); a reload
is neither. -/
def glossStamp (s : State) : DWord := if s.time.epochSet || s.time.stampOld then nowStamp s else 0xFFFFFFFFFFFFFFFF

/-- The entry of a code raised now (R460). -/
def glossEntry (s : State) (code supp : Nat) (d0 d1 d2 : Word) : GlossEntry :=
  { stamp := glossStamp s, aotime := s.time.aoTime, code := BitVec.ofNat 16 code,
    src := BitVec.ofNat 8 (glossSrc code), supp := BitVec.ofNat 8 supp, d0, d1, d2 }

/-- One more code joins a gap, or begins one (R464, R465, R468, R472). -/
def glossGapAdd (s : State) (g : Option GlossGap) (code cause : Nat) : Option GlossGap :=
  match g with
  | some g => some { g with count := g.count + 1 }
  | none => some { count := 1, first := BitVec.ofNat 16 code, cause, since := w32 s.time.aoTime.toNat }

/-- Can an entry go to the staging queue: the bank is reachable and PD3 is on (R464, R465). -/
def glossDirect (s : State) : Bool := s.gloss.reachable && domainOn s 3

/-- Is there room for one more entry where it has to go. -/
def glossRoom (s : State) : Bool :=
  if glossDirect s then s.gloss.staging.length < 64 else s.gloss.pd0.length < 16

/-- Does an entry go before another: it was raised in the same cycle and has the lower CODE, or SRC where they have one CODE (R464). None
goes before one of the recorder's own, so that a CLEARED entry keeps its place (R470). -/
def glossBefore (e x : GlossEntry) : Bool :=
  e.aotime = x.aotime && x.code.toNat < 0xF000 && (e.code.toNat < x.code.toNat || (e.code = x.code && e.src.toNat < x.src.toNat))

/-- An entry takes its place among those that wait, the latest last: behind all that it does not go before (R464). -/
def glossInsert (e : GlossEntry) (q : List GlossEntry) : List GlossEntry :=
  let after := (q.reverse.takeWhile (glossBefore e)).length
  q.take (q.length - after) ++ e :: q.drop (q.length - after)

/-- An entry joins the staging queue (R464) or the PD0 buffer (R465), in the order of the codes where several come in one cycle. -/
def glossEnqueue (s : State) (e : GlossEntry) : State :=
  if glossDirect s then { s with gloss := { s.gloss with staging := glossInsert e s.gloss.staging } }
  else { s with gloss := { s.gloss with pd0 := glossInsert e s.gloss.pd0 } }

/-- A code finds no room: it counts in GLOSS.LOST and joins the gap (R464, R465). -/
def glossLose (s : State) (code : Nat) : State :=
  let s := countUp s R.glossLost
  if glossDirect s then { s with gloss := { s.gloss with lost := glossGapAdd s s.gloss.lost code 1 } }
  else { s with gloss := { s.gloss with pd0Lost := glossGapAdd s s.gloss.pd0Lost code 1 } }

/-- A code outside class 0xF is raised (R464 to R468): counted while frozen, suppressed by its bucket, lost for want of
room, or staged with the pending count of its code. -/
def raiseGloss (s : State) (code : Nat) (d0 d1 d2 : Word) : State :=
  if s.gloss.frozen || s.gloss.storing then
    let s := countUp s R.glossFrzcnt
    { s with gloss := { s.gloss with gap := glossGapAdd s s.gloss.gap code (if s.gloss.storing then 2 else 0) } }
  else
    let burst := glossBurst s code
    let lvl := glossLevel s code
    if burst ≠ 0 ∧ lvl < glossPt s then
      let n := (mapGet s.gloss.pending code).getD 0
      countUp { s with gloss := { s.gloss with pending := mapPut s.gloss.pending code (min 255 (n + 1)) } } R.glossSupp
    else
      let s := if burst = 0 then s
        else { s with gloss := { s.gloss with
                buckets := mapPut s.gloss.buckets code (lvl - glossPt s, s.time.aoTime) } }
      if glossRoom s then
        let n := (mapGet s.gloss.pending code).getD 0
        let e := glossEntry s code n d0 d1 d2
        glossEnqueue { s with gloss := { s.gloss with pending := mapErase s.gloss.pending code } } e
      else glossLose s code

/-- The GAP entry of a gap (Table 3 of the Gloss chapter). -/
def glossGapEntry (s : State) (g : GlossGap) : GlossEntry :=
  glossEntry s 0xF000 0 (w32 g.count) (w32 (g.first.toNat + g.cause * 0x10000)) g.since

end Sys2Proof.Machine
end

