-- ==== Sys2Proof/Machine/Memory.lean ====
section
/-! DEFINITION. The three memories (R23, R392 to R398, R404, R405): bytes, the check code RS(11,8), reads that find errors,
partial writes as read-modify-write, the poison marker, and the logging of errors. -/

namespace Sys2Proof.Machine

/-! ### The check code (R395) -/

/-- Multiplication in GF(2^8) modulo x^8 + x^4 + x^3 + x^2 + 1. -/
def gfMulAux : Nat → Nat → Nat → Nat → Nat
  | 0, _, _, acc => acc
  | n + 1, a, b, acc =>
    gfMulAux n (if a < 128 then a * 2 else (a * 2) ^^^ 0x11D) (b / 2) (if b % 2 = 1 then acc ^^^ a else acc)

/-- Multiplication of two field elements. -/
def gfMul (a b : Nat) : Nat := gfMulAux 8 a b 0

/-- α^k. -/
def gfPow : Nat → Nat
  | 0 => 1
  | k + 1 => gfMul 2 (gfPow k)

/-- The check bytes (p2, p1, p0) of d0 to d7: the remainder of the data polynomial by g(x) = x³ + 7x² + 14x + 8. -/
def rsCheck (ds : List Byte) : Nat × Nat × Nat :=
  ds.foldl (fun (r : Nat × Nat × Nat) d =>
    let fb := d.toNat ^^^ r.1
    (r.2.1 ^^^ gfMul fb 7, r.2.2 ^^^ gfMul fb 14, gfMul fb 8)) (0, 0, 0)

/-- The eight bytes of a word, d0 least significant. -/
def wordBytes (d : DWord) : List Byte := leBytes 8 d.toNat

/-- The 88-bit codeword of a data word. -/
def rsEncode (d : DWord) : BitVec 88 :=
  let (p2, p1, p0) := rsCheck (wordBytes d)
  BitVec.ofNat 88 (d.toNat + p0 * 2 ^ 64 + p1 * 2 ^ 72 + p2 * 2 ^ 80)

/-- The symbols of a stored word from x^10 down to x^0. -/
def rsSymbols (w : BitVec 88) : List Nat :=
  let by8 := fun i => (w.toNat / 2 ^ (8 * i)) % 256
  [by8 0, by8 1, by8 2, by8 3, by8 4, by8 5, by8 6, by8 7, by8 10, by8 9, by8 8]

/-- The syndrome S_j = c(α^j). -/
def rsSyndrome (w : BitVec 88) (j : Nat) : Nat :=
  (rsSymbols w).foldl (fun acc x => gfMul acc (gfPow j) ^^^ x) 0

/-- What a read finds in a stored word. -/
inductive EccRead where
  | good (d : DWord)
  | corrected (d : DWord) (k : Nat)
  | bad (d : DWord)
  deriving DecidableEq, Repr

/-- The byte of the stored word that holds the symbol at x^k: d_i at 10 - i, p2, p1, p0 at 2, 1, 0. -/
def rsByteOf (k : Nat) : Nat := if k ≥ 3 then 10 - k else 8 + k

/-- The read of a stored word (R395). -/
def rsRead (w : BitVec 88) : EccRead :=
  let s0 := rsSyndrome w 0
  let s1 := rsSyndrome w 1
  let s2 := rsSyndrome w 2
  let data := BitVec.ofNat 64 w.toNat
  if s0 = 0 ∧ s1 = 0 ∧ s2 = 0 then .good data
  else if s0 ≠ 0 ∧ gfMul s1 s1 = gfMul s0 s2 then
    match (idxs 11 fun k => gfMul s0 (gfPow k) = s1) with
    | k :: _ => .corrected (BitVec.ofNat 64 (w ^^^ BitVec.ofNat 88 (s0 * 2 ^ (8 * rsByteOf k))).toNat) k
    | [] => .bad data
  else .bad data

/-- The poison marker: p1 and p2 inverted (R398). -/
def poisonMark : BitVec 88 := BitVec.ofNat 88 (0xFFFF * 2 ^ 72)

/-! ### Bytes and words -/

/-- The canonical form of memory: addresses strictly rising, and no entry equal to the 0 an unlisted address reads as. -/
def Memory.wf (m : List Host.Cell) : Bool := mapSorted m && m.all fun c => c.2 ≠ 0

/-- The canonical form of the register file: addresses strictly rising, and no entry equal to its reset value. -/
def regsWf (m : List (Nat × Word)) : Bool := mapSorted m && m.all fun r => r.2 ≠ regReset r.1

/-- One byte as stored by its last write. -/
def memByte (s : State) (a : Nat) : Byte := (mapGet s.mem a).getD 0

/-- A byte takes a value. -/
def putByte (s : State) (a : Nat) (b : Byte) : State := { s with mem := mapSet s.mem 0 a b }

/-- Bytes in ascending addresses. -/
def putBytes (s : State) (a : Nat) : List Byte → State
  | [] => s
  | b :: bs => putBytes (putByte s a b) (a + 1) bs

/-- n bytes from an address. -/
def memBytes (s : State) (a n : Nat) : List Byte := (List.range n).map fun i => memByte s (a + i)

/-- The data of the aligned word at an address. -/
def memWord (s : State) (a : Nat) : DWord := w64 (leNat (memBytes s a 8))

/-- The bank number of a device address (R392, Table 1). -/
def bankOf (a : Nat) : Nat :=
  if a < 0x01000000 then a / 8 % 16
  else if a < 0x01400000 then
    let n := a / 0x40000 % 16
    let l := a % 0x40000
    if l < 0x10000 then 24 + 3 * n else if l < 0x28000 then 25 + 3 * n else 26 + 3 * n
  else 16 + a / 0x40000 % 8

/-- What a read of the aligned word finds: an error-free word is good (R395). -/
def readWord (s : State) (a : Nat) : EccRead :=
  match mapGet s.ecc a with
  | none => .good (memWord s a)
  | some e => rsRead (rsEncode (memWord s a) ^^^ e)

/-- A word is written whole with new check bytes (R398). -/
def putWord (s : State) (a : Nat) (d : DWord) : State :=
  putBytes { s with ecc := mapErase s.ecc a } a (wordBytes d)

/-- A word is written with the poison marker (R398). -/
def putPoison (s : State) (a : Nat) (d : DWord) : State :=
  let s := putWord s a d
  { s with ecc := mapPut s.ecc a poisonMark }

/-- A corrected read is counted and logged, and its write-back is scheduled (R396). -/
def logCorrected (s : State) (a k : Nat) : State :=
  let s := countUp s (if a < 0x01000000 then R.memCelex else if a < 0x01400000 then R.memCevloc else R.memCeshr)
  let s := setFlag s R.memStat 0
  let s := if s.memint.scrub.contains a then s
    else { s with memint := { s.memint with scrub := s.memint.scrub ++ [a] } }
  raiseGloss s 0x2100 (w32 (bankOf a)) (w32 a) (w32 k)

/-- An uncorrectable read is counted and logged (R397); the requester is coded as MEM.UELOG.REQ. -/
def logBad (s : State) (req a : Nat) : State :=
  let s := countUp s R.memUecnt
  let s := if flag s R.memStat 1 then s else raiseIrq (setFlag s R.memStat 1) 13
  let s := if flag s R.memUelog 31 then setFlag s R.memUelog 30
    else wr (wr s R.memUelog (w32 (0x80000000 + req * 256 + bankOf a))) R.memUeaddr (w32 a)
  raiseGloss s 0x2110 (w32 (bankOf a + req * 256)) (w32 a) (w32 s.time.frame)

/-- A read of the aligned word by a requester, with its logging: the data and whether it is poisoned, and whether it was
corrected (R396, R397). -/
def fetchWord (s : State) (req a : Nat) : State × DWord × Bool × Bool :=
  match readWord s a with
  | .good d => (s, d, false, false)
  | .corrected d k => (logCorrected s a k, d, false, true)
  | .bad d => (logBad s req a, d, true, false)

/-- A write of a few bytes inside one word is a read-modify-write (R398). -/
def mergeWord (s : State) (req a : Nat) (off : Nat) (bs : List Byte) : State :=
  match mapGet s.ecc a with
  | none => putBytes s (a + off) bs
  | some _ =>
    let (s, d, bad, _) := fetchWord s req a
    let old := wordBytes d
    let d' := w64 (leNat (old.take off ++ bs ++ old.drop (off + bs.length)))
    if bad then putPoison s a d' else putWord s a d'

/-- A load of size bytes at any address (R404): one access, or two where it crosses a 64-bit word. The data, whether any
part is poisoned, how many parts were corrected. -/
def memLoad (s : State) (req a size : Nat) : State × DWord × Bool × Nat :=
  let base := a / 8 * 8
  let off := a % 8
  let (s, d, bad, cor) := fetchWord s req base
  let lo := ((wordBytes d).drop off).take size
  if off + size ≤ 8 then (s, w64 (leNat lo), bad, b2n cor)
  else
    let (s, d2, bad2, cor2) := fetchWord s req (base + 8)
    let hi := (wordBytes d2).take (off + size - 8)
    (s, w64 (leNat (lo ++ hi)), bad || bad2, b2n cor + b2n cor2)

/-- A store of size bytes at any address (R398, R404). The read within a partial store costs the Verb no cycle when it is corrected (DESIGN
CHOICE, log 150: R105 speaks of reads). -/
def memStore (s : State) (req a size : Nat) (v : DWord) : State :=
  let base := a / 8 * 8
  let off := a % 8
  let bs := leBytes size v.toNat
  if size = 8 ∧ off = 0 then putWord s base v
  else if off + size ≤ 8 then mergeWord s req base off bs
  else mergeWord (mergeWord s req base off (bs.take (8 - off))) req (base + 8) 0 (bs.drop (8 - off))

/-- The atomic ADD of the mix port and Concord: modulo 2^64, leaving a poisoned word poisoned (R398, R405). -/
def memAdd (s : State) (req a : Nat) (v : DWord) : State :=
  match mapGet s.ecc a with
  | none => putWord s a (memWord s a + v)
  | some _ =>
    let (s, d, bad, _) := fetchWord s req a
    if bad then putPoison s a (d + v) else putWord s a (d + v)

/-- The atomic SWAP of the Parser and the allocator: the new value is stored clean, the previous one returned, poisoned where it could not be
corrected (R405). -/
def memSwap (s : State) (req a : Nat) (v : DWord) : State × DWord × Bool :=
  let (s, d, bad, _) := fetchWord s req a
  (putWord s a v, d, bad)

/-- The width of the next access of a transfer of n bytes at an address: a whole aligned word, or 32, 16 or 8 bits within one (R404). -/
def accessWidth (a n : Nat) : Nat :=
  if a % 8 = 0 ∧ 8 ≤ n then 8 else if a % 4 = 0 ∧ 4 ≤ n then 4 else if a % 2 = 0 ∧ 2 ≤ n then 2 else 1

/-- A transfer of bytes, in at most as many accesses as the fuel. -/
def storeRun (s : State) (req : Nat) : Nat → Nat → List Byte → State
  | 0, _, _ => s
  | n + 1, a, bs =>
    let w := accessWidth a bs.length
    storeRun (if w = 8 then putWord s a (w64 (leNat (bs.take 8))) else mergeWord s req (a / 8 * 8) (a % 8) (bs.take w)) req n (a + w)
      (bs.drop w)

/-- Bytes written by the device's own engines, each access as wide as its alignment lets it be (R398, R400, R404). -/
def storeBytes (s : State) (req a : Nat) (bs : List Byte) : State := storeRun s req bs.length a bs

/-- Whole words read by a requester from an aligned address, each with whether it is poisoned (R396, R397). -/
def readWords (s : State) (req : Nat) : Nat → Nat → State × List (DWord × Bool)
  | 0, _ => (s, [])
  | n + 1, a =>
    let (s, d, bad, _) := fetchWord s req a
    let (s, ds) := readWords s req n (a + 8)
    (s, (d, bad) :: ds)

/-- The bytes of whole words read by a requester, as they are stored where they cannot be corrected (R397). -/
def readBytes (s : State) (req a n : Nat) : State × List Byte :=
  let (s, ds) := readWords s req n a
  (s, (ds.map fun d => wordBytes d.1).flatten)

/-- Words written from an aligned address. -/
def storeWords (s : State) (a : Nat) : List DWord → State
  | [] => s
  | d :: ds => storeWords (putWord s a d) (a + 8) ds

/-- Bytes of a range cleared to zero, with valid check bytes (R410). -/
def clearRange (s : State) (lo hi : Nat) : State :=
  { s with mem := s.mem.filter fun c => c.1 < lo || hi ≤ c.1,
           ecc := s.ecc.filter fun c => c.1 < lo || hi ≤ c.1 }

/-- The device address range of a bank of shared memory or a Verb local memory (R392). -/
def sharedBase : Nat := 0x01400000

/-- The first device address of Verb n's local memory (R23). -/
def verbBase (n : Nat) : Nat := 0x01000000 + n * 0x40000

/-! ### Streamed waves (R74, R428) -/

/-- The streamed waves, by index. -/
def streamedWaves (s : State) : List (Nat × Wave) :=
  ((List.range s.image.waves.length).zip s.image.waves).filterMap fun (i, w) =>
    match w with
    | some w => if w.streamed then some (i, w) else none
    | none => none

/-- The bytes of one sample of every channel of a wave. -/
def Wave.unit (w : Wave) : Nat := (w.kind + 1) * (if w.wide then 4 else 2)

/-- The streamed wave that a point of a table request lies in, with the byte of its data: BASE lies in the wave's preloaded head, and the
point within the wave (DESIGN CHOICE, log 118). -/
def wavePoint (s : State) (base : Nat) (a : Int) : Option (Nat × Wave × Nat) :=
  (streamedWaves s).findSome? fun (i, w) =>
    let off := (a - w.lexAddr).toNat
    if w.lexAddr ≤ base ∧ base < max (w.lexAddr + w.unit * w.head) (w.lexAddr + 1) ∧ (w.lexAddr : Int) ≤ a ∧ off < w.unit * w.length then
      some (i, w, off)
    else none

/-- The streamed data that a point of a table request reads, behind the head (R74): wave, 4 KiB block of its data, byte within it. -/
def streamPoint (s : State) (base : Nat) (a : Int) : Option (Nat × Nat × Nat) :=
  match wavePoint s base a with
  | some (i, w, off) => if w.unit * w.head ≤ off then some (i, off / 4096, off % 4096) else none
  | none => none

/-- Where a block of a streamed wave is resident in the stream pool. -/
def residentAt (s : State) (w b : Nat) : Option Nat :=
  (s.image.pool.find? fun e => e.1 = w && e.2.1 = b).map fun e => s.image.strBase + 4096 * e.2.2

end Sys2Proof.Machine
end

