-- ==== Sys2Proof/Machine/Outlets.lean ====
section
/-! DEFINITION. The outlets other blocks write to: serial transmit queues (R333), link packet queues (R352), the rings in
shared memory (R154, R175, R228), and the 16 bytes of an event packet (R202). -/

namespace Sys2Proof.Machine

/-- The low 64 bits of a packet (Table 1 of the fabric chapter). -/
def pktLow (p : EvPacket) : Nat :=
  p.source.toNat * 2 ^ 58 + b2n p.late * 2 ^ 57 + b2n p.fence * 2 ^ 56 + p.kind.toNat * 2 ^ 48 +
    p.part.toNat * 2 ^ 44 + p.key.toNat * 2 ^ 32 + p.value.toNat

/-- The 16 bytes of a packet: the low half first, then STAMP (R202). -/
def pktBytes (p : EvPacket) : List Byte := leBytes 8 (pktLow p) ++ leBytes 8 p.stamp.toNat

/-- The packet of a low half and a stamp. -/
def pktOf (lo : Nat) (stamp : DWord) : EvPacket :=
  { stamp, source := BitVec.ofNat 6 (lo / 2 ^ 58), late := lo / 2 ^ 57 % 2 = 1, fence := lo / 2 ^ 56 % 2 = 1,
    kind := BitVec.ofNat 8 (lo / 2 ^ 48), part := BitVec.ofNat 4 (lo / 2 ^ 44), key := BitVec.ofNat 12 (lo / 2 ^ 32),
    value := BitVec.ofNat 32 lo }

/-- The packet of 16 bytes. -/
def pktOfBytes (bs : List Byte) : EvPacket := pktOf (fieldAt bs 0 8) (w64 (fieldAt bs 8 8))

/-- Serial port p changes. -/
def onSp (s : State) (p : Nat) (f : SpSt → SpSt) : State := { s with sp := s.sp.modify p f }

/-- Serial port p. -/
def spOf (s : State) (p : Nat) : SpSt := nth s.sp p {}

/-- Link l changes. -/
def onLink (s : State) (l : Nat) (f : LinkSt → LinkSt) : State := { s with links := s.links.modify l f }

/-- Link l. -/
def linkOf (s : State) (l : Nat) : LinkSt := nth s.links l {}

/-- The register r (an offset) of serial port p. -/
def spReg (p r : Nat) : Nat := R.spPage + p * 0x1000 + r

/-- After a reset a port's dividers are set for 31.25 kbit/s in the family measured (R341, Table 5): the setting of the 48 kHz family is
replaced in the other (log 45). -/
def familyPort (s : State) (p : Nat) : State :=
  if flag s R.clkStat 3 && rd s (spReg p 4) = 0x003126E9 then
    onSp (wr s (spReg p 4) 0x002D288D) p fun q => { q with rxBaud := 0x002D288D, txBaud := 0x002D288D }
  else s

/-- Every port. -/
def familyPorts (s : State) : State := (List.range 8).foldl familyPort s

/-- RTS follows the receive count between its thresholds while RTSEN is 1 (R335). -/
def rtsFollow (s : State) (p : Nat) : State :=
  let n := (spOf s p).rxq.length
  if !flag s (spReg p 8) 4 then s
  else if fld s (spReg p 0xC) 7 0 ≤ n then onSp s p fun q => { q with rts := false }
  else if n ≤ fld s (spReg p 0xC) 15 8 then onSp s p fun q => { q with rts := true }
  else s

/-- Characters join a transmit queue of 128 entries for a queue writer (TXUSE), if all of them find room and the port is
that writer's (R333). -/
def spPut (s : State) (p writer : Nat) (cs : List (BitVec 9)) (notBefore : Option DWord) : Option State :=
  if fld s (spReg p 0) 18 17 = writer ∧ (spOf s p).txq.length + cs.length ≤ 128 then
    let es := (cs.take 1).map (fun c => TxEntry.mk c notBefore) ++ (cs.drop 1).map (fun c => TxEntry.mk c none)
    some (onSp s p fun q => { q with txq := q.txq ++ es })
  else none

/-- Sixteen characters of a trace record or an exported packet join the queue of a port that trace and export write, with 8
or 9 data bits; the first is marked (R333, R341). -/
def spExport (s : State) (p : Nat) (bs : List Byte) : Option State :=
  if fld s (spReg p 0) 1 0 = 0 then none
  else
    let cs := (bs.take 1).map (fun b => b.setWidth 9 ||| 0x100) ++ (bs.drop 1).map (BitVec.setWidth 9)
    spPut s p 2 cs none

/-- TCLK cycles that n symbol times of 20 ns last, rounded up (R350): 50,000,000 symbols a second. -/
def symbolCycles (s : State) (n : Nat) : Nat := (n * (if flag s R.clkStat 3 then 7056 else 7680) + 15624) / 15625

/-- The symbols of a packet: SOP, header, payload in whole words, CRC, EOP (R352). -/
def packetSymbols (p : OutPkt) : Nat := 14 + (p.payload.length + 3) / 4 * 4

/-- The buffers of 64 bytes that a packet of so many payload bytes takes (R353): whole words, with the header and the CRC. -/
def buffersFor (bytes : Nat) : Nat := ((bytes + 3) / 4 * 4 + 12 + 63) / 64

/-- The buffers of a received packet have drained: CRED will return them (R353). -/
def bufferDrained (s : State) (l cls bytes : Nat) : State :=
  onLink s l fun k => { k with owed := k.owed.modify cls (· + buffersFor bytes) }

/-- An EVT packet whose events go to this device's fabric holds its buffers until the fabric has accepted them (R204, R353). -/
def holdEvt (s : State) (l events : Nat) : State :=
  if events = 0 then bufferDrained s l 1 0
  else onLink s l fun k => { k with evtHeld := k.evtHeld ++ [(events, buffersFor (16 * events))] }

/-- The fabric accepts one event of a link: the packet whose last event it is gives its buffers back (R353). -/
def creditEvent (s : State) (l : Nat) : State :=
  onLink s l fun k =>
    match k.evtHeld with
    | [] => k
    | (n, b) :: rest =>
      if 1 < n then { k with evtHeld := (n - 1, b) :: rest } else { k with evtHeld := rest, owed := k.owed.modify 1 (· + b) }

/-- A packet joins a link's queue (R352); its sequence number is given when it is sent. -/
def linkQueue (s : State) (l typ : Nat) (hd : LinkHeader) (payload : List Byte) : State :=
  onLink s l fun k => { k with outq := k.outq ++ [{ typ, hd, payload, seq := 0 }] }

/-- The header of a packet to the peer: this device's own address as source; the root is named by its flag alone (R349, R352). -/
def linkHd (s : State) (dest : Nat) : LinkHeader :=
  let root := flag s R.linkAddr 30
  { dest := BitVec.ofNat 14 dest, bcast := false, droot := false,
    srca := if root then 0 else BitVec.ofNat 14 (fld s R.linkAddr 13 0), sroot := root }

/-! ### Roles and directions (R347, R359, R360) -/

/-- LINK.CFG.T: the system's tiers (R359). -/
def tiersOf (s : State) : Nat := fld s R.linkCfg 5 4

/-- The role is decided and the device is a worker of an image with tiers (R347, R360). -/
def isWorker (s : State) : Bool :=
  tiersOf s ≠ 0 && flag s R.linkAddr 31 && !flag s R.linkAddr 30 && !s.sys.single

/-- The device is the root of an image with tiers (R347). -/
def isRoot (s : State) : Bool := tiersOf s ≠ 0 && !isWorker s

/-- LINK.LSTATn.STATE (R356). -/
def linkState (s : State) (l : Nat) : Nat := fld s (R.linkLstat + 0x40 * l) 2 0

/-- LINK.LCFGn.DIR: 0 off, 1 up, 2 segment, 3 tier, 4 capture. -/
def linkDir (s : State) (l : Nat) : Nat := fld s (R.linkLcfg + 0x40 * l) 2 0

/-- The upstream link of a worker. -/
def upLink (s : State) : Option Nat := (List.range 4).find? fun l => linkDir s l = 1

/-- Is a link downstream of this device: the root treats every link with DIR up, segment or tier so (R347). -/
def isDown (s : State) (l : Nat) : Bool :=
  linkDir s l = 2 || linkDir s l = 3 || (linkDir s l = 1 && flag s R.linkAddr 30)

/-- The downstream links that are ACTIVE. -/
def downLinks (s : State) : List Nat := (List.range 4).filter fun l => isDown s l && linkState s l = 6

/-- A packet to every device downstream (R352, R355). -/
def sendDown (s : State) (typ : Nat) (hd : LinkHeader) (payload : List Byte) : State :=
  (downLinks s).foldl (fun t l => linkQueue t l typ hd payload) s

/-- A packet towards the root on the upstream link. -/
def sendUp (s : State) (typ : Nat) (hd : LinkHeader) (payload : List Byte) : State :=
  match upLink s with
  | some l => linkQueue s l typ hd payload
  | none => s

/-- The header of a packet from this device to the root. -/
def rootHd (s : State) : LinkHeader := { linkHd s 0 with droot := true }

/-- The header of a packet from this device to every device downstream. -/
def castHd (s : State) : LinkHeader := { linkHd s 0 with bcast := true }

/-- The header of a packet passed on towards the root, or to every device downstream: it keeps its originator (R352, R355). -/
def passHd (a : Relayed) (down : Bool) : LinkHeader := { dest := 0, bcast := down, droot := !down, srca := a.srca, sroot := a.sroot }

/-- The room for trace traffic on a link: 32 packets of its class (R353). -/
def linkTrace (s : State) (l : Nat) (bs : List Byte) : Option State :=
  if l < 4 ∧ ((linkOf s l).outq.filter (·.typ = 0x0A)).length < 32 then some (linkQueue s l 0x0A (linkHd s 0) bs) else none

/-- A packet is written to the host ring: 256 packets, overwriting the oldest (R228, R233). -/
def hostRing (s : State) (p : EvPacket) : State :=
  let i := fld s R.evtRptr 7 0
  let s := storeBytes s 3 (0x0148C000 + 16 * i) (pktBytes p)
  let s := if s.evt.ringFull then setFlag s R.evtRptr 31 else s
  let s := if i = 255 then { s with evt := { s.evt with ringFull := true } } else s
  raiseIrq (wrFld s R.evtRptr 7 0 (i + 1)) 15

/-- An accepted event is exported (R175): to the ring of 1,024 packets, a serial port or a link; a packet without room is
dropped and counted. -/
def exportEvent (s : State) (p : EvPacket) : State :=
  if !flag s R.evtXctl 0 then s
  else
    let port := fld s R.evtXctl 5 3
    match fld s R.evtXctl 2 1 with
    | 0 =>
      let i := fld s R.evtXptr 9 0
      wrFld (storeBytes s 3 (0x01488000 + 16 * i) (pktBytes p)) R.evtXptr 9 0 (i + 1)
    | 1 =>
      match spExport s port (pktBytes p) with
      | some t => t
      | none => countUp s R.evtXdrop
    | _ =>
      match linkTrace s port (pktBytes p) with
      | some t => t
      | none => countUp s R.evtXdrop

end Sys2Proof.Machine
end

