-- ==== Sys2Proof/Machine/Fabric.lean ====
section
/-! DEFINITION. The event fabric (R202 to R211) and the Period fences (R166 to R169): what makes an event bad, where it
takes effect, how it is accepted, held, released, re-stamped and ordered. -/

namespace Sys2Proof.Machine

/-! ### Positions (R21, R207) -/

/-- H + A_ev in samples (R21, EVT.CFG). -/
def eventOffset (s : State) : Nat := fld s R.evtCfg 12 0 + fld s R.evtCfg 23 16

/-- The effective position of an event (R207): its stamp plus the offset, or the stamp itself for a Word-emitted event. -/
def effPos (s : State) (p : EvPacket) : DWord :=
  if p.source = 15 then p.stamp else p.stamp + w64 (256 * eventOffset s)

/-- The stamp that gives an effective position (R209). -/
def stampFor (s : State) (src : BitVec 6) (pos : DWord) : DWord :=
  if src = 15 then pos else pos - w64 (256 * eventOffset s)

/-- The frame a position falls in (R50). -/
def frameOf (pos : DWord) : Nat := pos.toNat / 4096

/-- The frame whose step 2 is the next to begin (R208, R209). -/
def nextTake (s : State) : Nat := s.time.step2 + 1

/-! ### Bad events (R205) -/

/-- Is an event's kind or one of its fields outside Table 2 of the fabric chapter (R205). -/
def eventBad (p : EvPacket) : Bool :=
  let key := p.key.toNat
  let v := p.value.toNat
  match p.kind.toNat with
  | 0x01 | 0x02 | 0x03 | 0x04 | 0x05 => false
  | 0x06 => key ≥ 128 || (v / 2 ^ 14) % 2 ^ 17 ≠ 0
  | 0x08 => key ≠ 0 || v ≠ 0
  | 0x09 => key < 1 || key > 4 || (key < 4 && v ≠ 0) || (key = 4 && v ≥ 2 ^ 14)
  | 0x0A => false
  | 0x0B => key ≥ 32
  | 0x0C => key ≥ 16 || v ≥ 64 || v % 16 < 1 || v % 16 > 5
  | 0x0F => key ≥ 64 || key % 8 < 1 || key % 8 > 4
  | _ => true

/-! ### Quotas (R204, R210, R211) -/

/-- The events a source holds in the queue. -/
def srcCount (s : State) (src : Nat) : Nat := (s.evt.queue.filter fun q => q.pkt.source.toNat = src).length

/-- A source is at its quota: it accepts nothing more (R210, R211). -/
def atQuota (s : State) (src : Nat) : Bool := fld s (R.evtQuota + 4 * src) 10 0 ≤ srcCount s src

/-- An event that the fabric accepts as a Period: it takes no place in the queue and holds none in a quota (R166). -/
def eventIsPeriod (p : EvPacket) : Bool := p.kind = 0x0A

/-- A source has its quota's worth of events in the queue and on their way into it: it hands over nothing more (R204, R233; log 124). -/
def sourceBlocked (s : State) (src : Nat) : Bool :=
  fld s (R.evtQuota + 4 * src) 10 0 ≤
    srcCount s src + ((nth s.evt.ready src []).filter fun e => !eventIsPeriod e.pkt).length

/-- EVT.STAT.HBUSY: the host source is at its quota (R233). -/
def hostBusy (s : State) : Bool := sourceBlocked s 12

/-! ### Fences (R166 to R169) -/

/-- The mask of a fence group, 64 bits (R166). -/
def fenceMask (s : State) (g : Nat) : Nat :=
  (rd s (R.evtPmask + 8 * g)).toNat + (rd s (R.evtPmask + 8 * g + 4)).toNat * 2 ^ 32

/-- Is a source in a group's mask. -/
def inMask (s : State) (g src : Nat) : Bool := flag s (R.evtPmask + 8 * g + 4 * (src / 32)) (src % 32)

/-- Serial-number order (R166): a is below b when (b - a) mod 2^32 lies from 1 to 2^31 - 1. -/
def serialBelow (a b : Word) : Bool := a ≠ b && !(b - a).msb

/-- D(g, s) (R167). -/
def delivered (s : State) (g src : Nat) : Word := (mapGet s.evt.delivered (64 * g + src)).getD 0

/-- C(g) as kept (R167). -/
def completeOf (s : State) (g : Nat) : Word := nth s.evt.complete g 0

/-- The sources of a group's mask. -/
def maskSources (s : State) (g : Nat) : List Nat := idxs 64 fun src => inMask s g src

/-- The extreme number, by an order, of those that some sources delivered: c where there are no sources. -/
def extremeOf (better : Word → Word → Bool) (c : Word) (d : Nat → Word) : List Nat → Word
  | [] => c
  | x :: xs => xs.foldl (fun m y => if better (d y) m then d y else m) (d x)

/-- The serial minimum of D(g, s) over the mask; C(g) itself where the mask is empty (R167). -/
def serialMin (s : State) (g : Nat) : Word := extremeOf serialBelow (completeOf s g) (delivered s g) (maskSources s g)

/-- The serial maximum of D(g, s) over the mask (R168). -/
def serialMax (s : State) (g : Nat) : Word :=
  extremeOf (fun a b => serialBelow b a) (completeOf s g) (delivered s g) (maskSources s g)

/-- The Periods an event of a source has to wait for (R167): for every group of the source, the number the source has
delivered, where C(g) is below it. -/
def fenceWaits (s : State) (src : Nat) : List (Nat × Word) :=
  ((List.range 4).filter fun g => inMask s g src && serialBelow (completeOf s g) (delivered s g src)).map
    fun g => (g, delivered s g src)

/-- A group still holds an event: the source is in the mask and C(g) is below the Period (R167, R168). -/
def stillHeld (s : State) (q : QueuedEv) : List (Nat × Word) :=
  q.waits.filter fun w => inMask s w.1 q.pkt.source.toNat && serialBelow (completeOf s w.1) w.2

/-! ### Event order (R164, R165) -/

/-- The rank of a source (R165). -/
def rankOf (s : State) (src : Nat) : Nat :=
  bits (rd s (R.evtSrank + 4 * (src / 4))) (8 * (src % 4) + 5) (8 * (src % 4))

/-- Event order (R164): position, then rank, then source code, then arrival sequence; among the detectors' events of one position their
number (R316). -/
def evBefore (s : State) (a b : QueuedEv) : Bool :=
  let pa := (effPos s a.pkt).toNat
  let pb := (effPos s b.pkt).toNat
  let sa := a.pkt.source.toNat
  let sb := b.pkt.source.toNat
  if pa ≠ pb then pa < pb
  else if rankOf s sa ≠ rankOf s sb then rankOf s sa < rankOf s sb
  else if sa ≠ sb then sa < sb
  else if sa = 13 ∧ a.pkt.key ≠ b.pkt.key then a.pkt.key.toNat < b.pkt.key.toNat
  else a.seq ≤ b.seq

/-- An event put in its place in a list in event order. -/
def evInsert (s : State) (e : QueuedEv) : List QueuedEv → List QueuedEv
  | [] => [e]
  | x :: xs => if evBefore s e x then e :: x :: xs else x :: evInsert s e xs

/-- A list in event order. -/
def evSort (s : State) (l : List QueuedEv) : List QueuedEv := l.foldr (evInsert s) []

/-! ### Lateness (R208, R209) -/

/-- An event that becomes available after step 2 of its frame has begun is late (R208): it is re-stamped to the first
sample of the frame whose step 2 is next, carries LATE, is counted and logged, and that frame is void (R209). -/
def restampLate (s : State) (q : QueuedEv) : State × QueuedEv :=
  let p := effPos s q.pkt
  let m := nextTake s
  if frameOf p < m then
    let q' := { q with pkt := { q.pkt with stamp := stampFor s q.pkt.source (w64 (4096 * m)), late := true } }
    let s := countUp s R.evtLate
    let s := raiseGloss s 0x5100 (w32 (q.pkt.source.toNat + q.pkt.kind.toNat * 256)) (w32 (frameOf p)) (w32 m)
    (voidFrame s m 5, q')
  else (s, q)

/-- An event becomes available (R208, R209); the root of a system then forwards it to every device downstream (R360). -/
def makeAvailable (s : State) (q : QueuedEv) : State × QueuedEv :=
  let (s, q) := restampLate s q
  (if isRoot s then sendDown s 0x04 (castHd s) (pktBytes q.pkt) else s, q)

/-- The held events that no group holds any longer are released in event order; those that are late are re-stamped
(R167, R209). -/
def releaseHeld (s : State) : State :=
  let freed := evSort s (s.evt.queue.filter fun q => q.waits ≠ [] && stillHeld s q = [])
  freed.foldl (fun t q =>
    let (t, q') := makeAvailable t { q with waits := [] }
    { t with evt := { t.evt with queue := t.evt.queue.map fun x =>
        if x.pkt.source = q.pkt.source ∧ x.seq = q.seq then q' else x } }) s

/-- C(g) takes a new value, and the events it frees are released (R167). -/
def setComplete (s : State) (g : Nat) (c : Word) : State :=
  releaseHeld { s with evt := { s.evt with complete := s.evt.complete.set g c } }

/-- EVT.PSTAT.STALE or BADP counts, saturating at 0xFFF with SAT (R166, R168). -/
def pstatCount (s : State) (hi lo : Nat) : State :=
  let n := fld s R.evtPstat hi lo
  if n = 0xFFF then s
  else
    let s := wrFld s R.evtPstat hi lo (n + 1)
    if n + 1 = 0xFFF then setFlag s R.evtPstat 31 else s

/-- A malformed PERIOD packet is discarded, so it is no event that the fabric accepts (R166, R175). -/
def periodBad (p : EvPacket) : Bool := !p.fence || p.key.toNat ≥ 4

/-- A PERIOD event is accepted (R166, R167): malformed, outside the mask, stale, or it raises D(g, s). -/
def acceptPeriod (s : State) (src : Nat) (p : EvPacket) : State :=
  if periodBad p then pstatCount s 15 4
  else
    let g := p.key.toNat
    if !inMask s g src then s
    else if !serialBelow (completeOf s g) p.value then pstatCount s 27 16
    else
      let s := if serialBelow (delivered s g src) p.value then
          { s with evt := { s.evt with delivered := mapSet s.evt.delivered 0 (64 * g + src) p.value } }
        else s
      setComplete s g (serialMin s g)

/-! ### Acceptance (R205, R209, R210, R175) -/

/-- Does an event of a timer or a detector come after one generated at the same instant: that of a higher number (R164). -/
def laterNumber (e r : ReadyEv) : Bool :=
  e.instant = r.instant && e.pkt.kind = r.pkt.kind && (e.pkt.kind = 0x0B || e.pkt.kind = 0x0C) && decide (e.pkt.key.toNat < r.pkt.key.toNat)

/-- An event joins those of its source (R164). -/
def joinReady (e : ReadyEv) (l : List ReadyEv) : List ReadyEv :=
  l.takeWhile (fun r => !laterNumber e r) ++ e :: l.dropWhile (fun r => !laterNumber e r)

/-- An event handed over by a source waits to be accepted (R208), in the order of its source: those of the detectors (13) and of the
timers (14) by their number where they are of one instant (R164). -/
def offerEvent (s : State) (src : Nat) (p : EvPacket) (instant : DWord) : State :=
  { s with evt := { s.evt with ready := s.evt.ready.modify src fun l =>
      if src = 13 ∨ src = 14 then joinReady { pkt := p, instant } l else l ++ [{ pkt := p, instant }] } }

/-- A discarded input is counted and logged (R205, R212): the source, its first byte or word, the reason. -/
def badMessage (s : State) (src first reason : Nat) : State :=
  raiseGloss (countUp s R.evtBadmsg) 0x5110 (w32 src) (w32 first) (w32 reason)

/-- An event that passed the checks joins the queue: it waits for the fences of its source, or is available now (R167,
R208, R209); then it is exported as it stands (R175). -/
def enqueueEvent (s : State) (src : Nat) (p : EvPacket) : State :=
  let q : QueuedEv := { pkt := p, seq := s.evt.seq, waits := fenceWaits s src }
  let s := { s with evt := { s.evt with seq := s.evt.seq + 1 } }
  let r := if q.waits = [] then makeAvailable s q else (s, q)
  let q := r.2
  let s := r.1
  let s := { s with evt := { s.evt with queue := s.evt.queue ++ [q] } }
  if src = 15 then s else exportEvent s q.pkt

/-- The fabric accepts one event of a source (R205): SOURCE is written, LATE cleared, FENCE cleared but for a PERIOD. -/
def acceptEvent (s : State) (src : Nat) (p : EvPacket) : State :=
  let keep := p.kind = 0x0A
  let p := { p with source := BitVec.ofNat 6 src, late := false, fence := p.fence && keep }
  if keep then
    let s := acceptPeriod s src p
    if src = 15 || periodBad p then s else exportEvent s p
  else if eventBad p then badMessage s src p.value.toNat 0
  else enqueueEvent s src p

/-- Can the fabric take the event at the head of a source now: below its quota, or a PERIOD, which holds no place, or a
detector or timer event, which is dropped at the quota (R166, R204, R210). -/
def canTake (s : State) (src : Nat) : Bool :=
  match nth s.evt.ready src [] with
  | [] => false
  | e :: _ => !atQuota s src || e.pkt.kind = 0x0A || src = 13 || src = 14

/-- The source the fabric takes next: round-robin from the source after the one it last accepted (R210). -/
def nextSource (s : State) : Option Nat :=
  ((List.range 16).map fun i => (s.evt.lastSrc + 1 + i) % 16).find? (canTake s)

/-- An event from upstream joins a worker's queue as it stands and is exported (R175, R360). -/
def takeForwarded (s : State) (p : EvPacket) : State :=
  let q : QueuedEv := { pkt := p, seq := s.evt.seq, waits := [] }
  let s := { s with evt := { s.evt with seq := s.evt.seq + 1, queue := s.evt.queue ++ [q] } }
  if p.source = 15 then s else exportEvent s p

/-- The event at the head of a source is taken: dropped at a full quota of a detector or timer (R204), or accepted; a worker
forwards it up towards the root (R360). A link's credit comes back with it (R353). -/
def takeFrom (s : State) (src : Nat) : State :=
  match nth s.evt.ready src [] with
  | [] => s
  | e :: _ =>
    let s := { s with evt := { s.evt with ready := s.evt.ready.modify src (·.drop 1), lastSrc := src } }
    let s := if 8 ≤ src ∧ src < 12 then creditEvent s (src - 8) else s
    if isWorker s then sendUp s 0x04 (rootHd s) (pktBytes e.pkt)
    else if atQuota s src && e.pkt.kind ≠ 0x0A then
      raiseGloss (countUp s R.evtQdrop) 0x5101 (w32 src) (w32 e.pkt.kind.toNat) (w32 e.pkt.key.toNat)
    else acceptEvent s src e.pkt

/-- EVENT_ACCEPT: the fabric accepts one event from the ready sources in round-robin (R210). -/
def execEventAccept (s : State) : Host.Outcome State Fault Refusal :=
  match nextSource s with
  | none => .next s
  | some src => .next (takeFrom s src)

/-- Every source of a group's mask is taken to have delivered a number, and its time-out ends (R168). -/
def deliverAll (s : State) (g : Nat) (top : Word) : State :=
  { s with evt := { s.evt with
      delivered := (maskSources s g).foldl (fun d src => mapSet d 0 (64 * g + src) top) s.evt.delivered,
      timers := s.evt.timers.set g none } }

/-- The sources of a group's mask that have not delivered a number, as the low and the high half of a mask (R168). -/
def missingMask (s : State) (g : Nat) (top : Word) : Word × Word :=
  let missing := (maskSources s g).filter fun src => serialBelow (delivered s g src) top
  (w32 ((missing.filter (· < 32)).foldl (fun m b => m + 2 ^ b) 0),
    w32 ((missing.filter (32 ≤ ·)).foldl (fun m b => m + 2 ^ (b - 32)) 0))

/-- A fence is abandoned (R168): every source of the mask is taken to have delivered the largest number, the group's
events are released, the abandonment is logged and counted, and the first frame whose step 2 follows is void. -/
def abandonFence (s : State) (g : Nat) : State :=
  let top := serialMax s g
  let m := missingMask s g top
  let t := setComplete (deliverAll s g top) g top
  let t := countUp (raiseGloss t (0x5150 + g) top m.1 m.2) R.evtPabandon
  voidFrame t (nextTake t) 6

/-- FENCE_TIMEOUT: the time-out of a group has run its boundaries without C(g) reaching the watched number (R168). -/
def execFenceTimeout (g : Fin 4) (s : State) : Host.Outcome State Fault Refusal :=
  match nth s.evt.timers g none with
  | some (n, 0) => if serialBelow (completeOf s g) n then .next (abandonFence s g) else .next s
  | _ => .next s

/-- The fence time-outs at a frame boundary (R168): one that runs counts the boundary; one whose number has been reached
ends; a group with a D(g, s) above C(g) and none running starts one. -/
def fenceBoundary (s : State) : State :=
  (List.range 4).foldl (fun s g =>
    let top := serialMax s g
    let start := if serialBelow (completeOf s g) top then some (top, fld s R.evtPtimeout 15 0) else none
    let t := match nth s.evt.timers g none with
      | some (n, k) => if serialBelow (completeOf s g) n then some (n, k - 1) else start
      | none => start
    { s with evt := { s.evt with timers := s.evt.timers.set g t } }) s

/-- A change of a mask (R168): a source added enters with D(g, s) = C(g); then the group is evaluated under the new mask. -/
def maskChanged (s : State) (g oldMask : Nat) : State :=
  let added := (maskSources s g).filter fun src => oldMask / 2 ^ src % 2 = 0
  let c := completeOf s g
  let s := { s with evt := { s.evt with delivered := added.foldl (fun d src => mapSet d 0 (64 * g + src) c) s.evt.delivered } }
  let m := serialMin s g
  if serialBelow c m then setComplete s g m else releaseHeld s

end Sys2Proof.Machine
end

