-- ==== Sys2Proof/Machine/Midi.lean ====
section
/-! DEFINITION. MIDI 1.0 byte streams (R212 to R216), Universal MIDI Packets (R217 to R219), native packets (R233, R341) and
the host's event window. A parser answers the new parse state, the events it hands over and the inputs it discards. -/

namespace Sys2Proof.Machine

/-- What a parser answers: its state, events with their stamps, discarded inputs (first byte or word, reason). -/
structure Parsed where
  ps   : ParseSt
  evs  : List EvPacket := []
  bads : List (Nat × Nat) := []
  deriving DecidableEq, Repr

/-- A packet before acceptance. -/
def mkEvent (stamp : DWord) (kind part key value : Nat) : EvPacket :=
  { stamp, source := 0, late := false, fence := false, kind := BitVec.ofNat 8 kind, part := BitVec.ofNat 4 part,
    key := BitVec.ofNat 12 key, value := w32 value }

/-- Upscaling from n to w bits by Min-Center-Max (R214): the repeated low bits that fill k vacated places. -/
def upFill (n r : Nat) : Nat → Nat → Nat
  | 0, _ => 0
  | fuel + 1, k =>
    if k = 0 then 0
    else if k ≥ n - 1 then r * 2 ^ (k - (n - 1)) + upFill n r fuel (k - (n - 1))
    else r / 2 ^ ((n - 1) - k)

/-- up(v, n, w) (R214). -/
def upScale (v n w : Nat) : Nat :=
  let sh := v * 2 ^ (w - n)
  if v ≤ 2 ^ (n - 1) then sh else sh + upFill n (v % 2 ^ (n - 1)) w (w - n)

/-- The part of a group and channel of a source (R222): none for 0xFF. -/
def chmapPart (s : State) (src gc : Nat) : Option Nat :=
  let b := (nth s.evt.map.chmap (256 * src + gc) 0xFF).toNat
  if b < 16 then some b else none

/-- A RAW event of a fragment (R203, R216). -/
def rawEvent (x : SysexSt) (fin aborted : Bool) : EvPacket :=
  mkEvent x.stamp 0x0F 0 (x.frag.length + b2n (!x.sent) * 8 + b2n fin * 16 + b2n aborted * 32) (leNat x.frag)

/-- A byte joins a system exclusive message: a full fragment is handed over first (R216). -/
def sysexByte (x : SysexSt) (b : Byte) (stamp : DWord) : SysexSt × List EvPacket :=
  if x.frag.length = 4 then ({ frag := [b], stamp, sent := true }, [rawEvent x false false])
  else ({ x with frag := x.frag ++ [b], stamp }, [])

/-- Bytes join a system exclusive message. -/
def sysexBytes (x : SysexSt) (bs : List Byte) (stamp : DWord) : SysexSt × List EvPacket :=
  bs.foldl (fun r b => let (y, e) := sysexByte r.1 b stamp; (y, r.2 ++ e)) (x, [])

/-- The last fragment, if the message carries a byte (R216). -/
def sysexEnd (x : SysexSt) (aborted : Bool) : List EvPacket := if x.frag = [] then [] else [rawEvent x true aborted]

/-! ### Parameter numbers and banks (R215) -/

/-- The latched value of a control of a channel. -/
def ctrlOf (ps : ParseSt) (c gc : Nat) : Option Nat := (mapGet ps.ctrls (256 * c + gc)).map BitVec.toNat

/-- The bank a PROGRAM event carries, with [31] once CC0 has been received (R215). -/
def bankValue (ps : ParseSt) (gc : Nat) : Nat :=
  match mapGet ps.bankMsb gc with
  | none => ((mapGet ps.bankLsb gc).getD 0).toNat
  | some m => 2 ^ 31 + 128 * m.toNat + ((mapGet ps.bankLsb gc).getD 0).toNat

/-- The PARAM index of the selected parameter number (R215, Table 3): none for the null selection, a half not received,
or a bank outside 0 to 6. -/
def rpnIndex (ps : ParseSt) (gc : Nat) : Option Nat :=
  let sel := fun hi lo base =>
    match ctrlOf ps hi gc, ctrlOf ps lo gc with
    | some b, some i => if b ≤ 6 then some (base + 128 * b + i) else none
    | _, _ => none
  match mapGet ps.registered gc with
  | some true => sel 101 100 0x100
  | some false => sel 99 98 0x480
  | none => none

/-- A control change (R213, R215): latched, and delivered as PARAM or as the data entry of a parameter number. -/
def controlChange (s : State) (src gc n v : Nat) (stamp : DWord) (ps : ParseSt) : Parsed :=
  let byte := BitVec.ofNat 8 v
  let ps := if n = 0 then { ps with bankMsb := mapPut ps.bankMsb gc byte }
    else if n = 32 then { ps with bankLsb := mapPut ps.bankLsb gc byte } else ps
  let part := chmapPart s src gc
  let emit := fun k val => match part with | some p => [mkEvent stamp 0x04 p k val] | none => []
  if bitOf (rd s (R.evtSrccfg + 4 * src)) 3 ∧ (n = 6 ∨ n = 38 ∨ (98 ≤ n ∧ n ≤ 101)) then
    let ps := { ps with ctrls := mapPut ps.ctrls (256 * n + gc) byte }
    if n = 6 ∨ n = 38 then
      match rpnIndex ps gc with
      | some i =>
        { ps, evs := emit i (upScale (128 * (ctrlOf ps 6 gc).getD 0 + (ctrlOf ps 38 gc).getD 0) 14 32) }
      | none => { ps }
    else { ps := { ps with registered := mapPut ps.registered gc (decide (100 ≤ n)) } }
  else { ps, evs := emit n (upScale v 7 32) }

/-- A complete MIDI 1.0 channel voice or system common message (R213, Table 6). -/
def midiMessage (s : State) (src gc st d1 d2 : Nat) (stamp : DWord) (ps : ParseSt) : Parsed :=
  let part := chmapPart s src gc
  let emit := fun kind key val => match part with | some p => [mkEvent stamp kind p key val] | none => []
  match st with
  | 0x8 => { ps, evs := emit 0x02 d1 (upScale d2 7 16 * 65536) }
  | 0x9 => { ps, evs := if d2 = 0 then emit 0x02 d1 (0x8000 * 65536) else emit 0x01 d1 (upScale d2 7 16 * 65536) }
  | 0xA => { ps, evs := emit 0x03 d1 (upScale d2 7 32) }
  | 0xB => controlChange s src gc d1 d2 stamp ps
  | 0xC => { ps, evs := emit 0x06 d1 (bankValue ps gc) }
  | 0xD => { ps, evs := emit 0x03 0xFFF (upScale d1 7 32) }
  | 0xE => { ps, evs := emit 0x04 0x080 (upScale (128 * d2 + d1) 14 32) }
  | _ => { ps }

/-- The event of a system real-time or song position message (R213, Table 6). -/
def systemEvent (b d1 d2 : Nat) (stamp : DWord) : List EvPacket :=
  match b with
  | 0xF2 => [mkEvent stamp 0x09 0 4 (128 * d2 + d1)]
  | 0xF8 => [mkEvent stamp 0x08 0 0 0]
  | 0xFA => [mkEvent stamp 0x09 0 1 0]
  | 0xFB => [mkEvent stamp 0x09 0 3 0]
  | 0xFC => [mkEvent stamp 0x09 0 2 0]
  | _ => []

/-- The data bytes a status byte calls for. -/
def midiLength (st : Nat) : Nat :=
  if st = 0xF1 ∨ st = 0xF3 then 1 else if st = 0xF2 then 2 else if st / 16 = 0xC ∨ st / 16 = 0xD then 1 else 2

/-- Is a message in progress incomplete, and counted when it is interrupted (R212: 0xF1 and 0xF3 are not). -/
def interrupted (ps : ParseSt) : List (Nat × Nat) :=
  match ps.status with
  | some st => if st = 0xF1 ∨ st = 0xF3 then [] else [(st.toNat, 2)]
  | none => []

/-- A status byte other than real-time (R212, R216). -/
def midiStatus (ps : ParseSt) (b : Byte) (stamp : DWord) : Parsed :=
  let (evs, bads) := match ps.sysex with
    | none => ([], interrupted ps)
    | some x =>
      if b = 0xF7 then
        let (y, e) := sysexByte x b stamp
        (e ++ sysexEnd y false, [])
      else (sysexEnd x true, [(0xF0, 2)])
  let ps := { ps with sysex := none, status := none, data := [] }
  if b.toNat < 0xF0 then { ps := { ps with running := some b, status := some b }, evs, bads }
  else
    let ps := { ps with running := none }
    if b = 0xF0 then { ps := { ps with sysex := some { frag := [b], stamp, sent := false } }, evs, bads }
    else if b = 0xF1 ∨ b = 0xF2 ∨ b = 0xF3 then { ps := { ps with status := some b }, evs, bads }
    else { ps, evs, bads }

/-- A data byte (R212): of a system exclusive message, of a message, or stray. -/
def midiData (s : State) (src : Nat) (ps : ParseSt) (b : Byte) (stamp : DWord) : Parsed :=
  match ps.sysex with
  | some x =>
    let (y, e) := sysexByte x b stamp
    { ps := { ps with sysex := some y }, evs := e }
  | none =>
    match ps.status.orElse fun _ => ps.running with
    | none => { ps, bads := [(b.toNat, 1)] }
    | some st =>
      let data := ps.data ++ [b]
      if data.length < midiLength st.toNat then { ps := { ps with status := some st, data } }
      else
        let ps := { ps with status := none, data := [] }
        let d1 := (nth data 0 0).toNat
        let d2 := (nth data 1 0).toNat
        if st.toNat < 0xF0 then midiMessage s src (st.toNat % 16) (st.toNat / 16) d1 d2 stamp ps
        else { ps, evs := systemEvent st.toNat d1 d2 stamp }

/-- One byte of a MIDI 1.0 stream (R212). -/
def midiByte (s : State) (src : Nat) (ps : ParseSt) (b : Byte) (stamp : DWord) : Parsed :=
  if b.toNat ≥ 0xF8 then { ps, evs := systemEvent b.toNat 0 0 stamp }
  else if b.toNat ≥ 0x80 then midiStatus ps b stamp
  else midiData s src ps b stamp

/-- The first byte of the MIDI 1.0 message in progress, else the byte at hand (R232). A message under running status counts its
status byte as its first (DEDUCED, log 152). -/
def firstByte (ps : ParseSt) (b : Byte) : Nat :=
  if ps.sysex.isSome then 0xF0 else (ps.status.getD b).toNat

/-- A framing error, parity error or overrun: the message in progress is discarded and counted (R212, R232). -/
def midiError (ps : ParseSt) (b : Byte) : Parsed :=
  { ps := { ps with status := none, data := [], sysex := none }, bads := [(firstByte ps b, 3)] }

/-! ### Universal MIDI Packets (R217 to R219) -/

/-- The words of a packet by its message type (R217). -/
def umpLength (mt : Nat) : Nat :=
  match mt with
  | 0x3 | 0x4 | 0x8 | 0x9 | 0xA => 2
  | 0xB | 0xC => 3
  | 0x5 | 0xD | 0xE | 0xF => 4
  | _ => 1

/-- The JR state of a group. -/
def jrOf (ps : ParseSt) (g : Nat) : JrSt := (mapGet ps.jr g).getD {}

/-- The stamp of a packet of a group (R219): by the JR Clock and Timestamp in force, else its arrival stamp. -/
def jrStamp (s : State) (src g : Nat) (arrival : DWord) (ps : ParseSt) : DWord :=
  match bitOf (rd s (R.evtSrccfg + 4 * src)) 2, (jrOf ps g).clock, (jrOf ps g).stamp with
  | true, some (tc, ac), some ts => ac + BitVec.ofInt 64 (rne ((ts - tc).toInt * (fsHz s * 256 : Nat)) 31250)
  | _, _, _ => arrival

/-- A 7-bit system exclusive packet of a group (R218, Table 7): complete, start, continue or end. -/
def umpSysex (ps : ParseSt) (g form : Nat) (bs : List Byte) (stamp : DWord) : Parsed :=
  let cur := mapGet ps.umpSysex g
  let fresh : SysexSt := { frag := [], stamp, sent := false }
  let begins := form = 0 || form = 1
  let (evs, bads) := match cur with
    | some x => if begins then (sysexEnd x true, [(0xF0, 2)]) else ([], [])
    | none => ([], [])
  match (if begins then some fresh else cur) with
  | none => { ps }
  | some x =>
    let (y, e) := sysexBytes x bs stamp
    if form = 0 ∨ form = 3 then
      { ps := { ps with umpSysex := mapErase ps.umpSysex g }, evs := evs ++ e ++ sysexEnd y false, bads }
    else { ps := { ps with umpSysex := mapPut ps.umpSysex g y }, evs := evs ++ e, bads }

/-- A MIDI 2.0 channel voice message (R218, Table 7). -/
def umpVoice (s : State) (src gc st w0 : Nat) (w1 : Word) (stamp : DWord) (ps : ParseSt) : Parsed :=
  let part := chmapPart s src gc
  let emit := fun kind key val => match part with | some p => [mkEvent stamp kind p key val] | none => []
  let d1 := w0 / 256 % 128
  let d2 := w0 % 128
  let v := w1.toNat
  match st with
  | 0x0 => { ps, evs := if w0 % 256 < 16 then emit 0x05 (d1 + 128 * (w0 % 256)) v else [] }
  | 0x1 => { ps, evs := if w0 % 256 < 15 then emit 0x05 (d1 + 128 * (16 + w0 % 256)) v else [] }
  | 0x2 => { ps, evs := if d1 ≤ 6 then emit 0x04 (0x100 + 128 * d1 + d2) v else [] }
  | 0x3 => { ps, evs := if d1 ≤ 6 then emit 0x04 (0x480 + 128 * d1 + d2) v else [] }
  | 0x6 => { ps, evs := emit 0x05 (d1 + 128 * 31) v }
  | 0x8 => { ps, evs := emit 0x02 d1 (v / 65536 * 65536) }
  | 0x9 => { ps, evs := emit 0x01 d1 (v / 65536 * 65536) }
  | 0xA => { ps, evs := emit 0x03 d1 v }
  | 0xB => { ps, evs := emit 0x04 d1 v }
  | 0xC =>
    let bank := v / 256 % 128 * 128 + v % 128
    { ps, evs := emit 0x06 (v / 2 ^ 24 % 128) (if w0 % 2 = 1 then 2 ^ 31 + bank else 0) }
  | 0xD => { ps, evs := emit 0x03 0xFFF v }
  | 0xE => { ps, evs := emit 0x04 0x080 v }
  | _ => { ps }

/-- A complete packet (R218). A JR message counts only with JR = 1, and a JR Timestamp only after a JR Clock of its group (R219). -/
def umpPacket (s : State) (src : Nat) (ps : ParseSt) (ws : List Word) (arrival : DWord) : Parsed :=
  let w0 := nth ws 0 0
  let w1 := nth ws 1 0
  let g := bits w0 27 24
  let st := bits w0 23 20
  let gc := 16 * g + bits w0 19 16
  let stamp := jrStamp s src g arrival ps
  match bits w0 31 28 with
  | 0x0 =>
    if !bitOf (rd s (R.evtSrccfg + 4 * src)) 2 then { ps }
    else if st = 1 then { ps := { ps with jr := mapPut ps.jr g { jrOf ps g with clock := some (BitVec.ofNat 16 w0.toNat, arrival) } } }
    else if st = 2 ∧ (jrOf ps g).clock.isSome then
      { ps := { ps with jr := mapPut ps.jr g { jrOf ps g with stamp := some (BitVec.ofNat 16 w0.toNat) } } }
    else { ps }
  | 0x1 => { ps, evs := systemEvent (bits w0 23 16) (bits w0 14 8) (bits w0 6 0) stamp }
  | 0x2 => if 8 ≤ st ∧ st ≤ 0xE then midiMessage s src gc st (bits w0 14 8) (bits w0 6 0) stamp ps else { ps }
  | 0x3 =>
    if st ≤ 3 then
      let bs := ([bits w0 14 8, bits w0 6 0, bits w1 30 24, bits w1 22 16, bits w1 14 8, bits w1 6 0].take
        (bits w0 19 16)).map (BitVec.ofNat 8)
      umpSysex ps g st bs stamp
    else { ps }
  | 0x4 => umpVoice s src gc st w0.toNat w1 stamp ps
  | _ => { ps }

/-- One word of a UMP stream (R217). -/
def umpWordParse (s : State) (src : Nat) (ps : ParseSt) (w : Word) (arrival : DWord) : Parsed :=
  let ws := ps.ump ++ [w]
  if ws.length < umpLength (bits (nth ws 0 0) 31 28) then { ps := { ps with ump := ws } }
  else umpPacket s src { ps with ump := [] } ws arrival

/-! ### The sources -/

/-- The parse state of a source. -/
def parseOf (s : State) (src : Nat) : ParseSt := nth s.evt.parse src {}

/-- The arrival stamp of a source's message (R206): its completion instant plus OFFSET. -/
def arrivalStamp (s : State) (src : Nat) (instant : DWord) : DWord :=
  instant + (BitVec.ofNat 16 (fld s (R.evtSrccfg + 4 * src) 27 12)).signExtend 64

/-- FORMAT of a source (R233). -/
def formatOf (s : State) (src : Nat) : Nat := fld s (R.evtSrccfg + 4 * src) 1 0

/-- What a parser answered takes effect: its state, its discards, its events handed over. -/
def applyParsed (s : State) (src : Nat) (r : Parsed) : State :=
  let s := { s with evt := { s.evt with parse := s.evt.parse.set src r.ps } }
  let s := r.bads.foldl (fun t b => badMessage t src b.1 b.2) s
  r.evs.foldl (fun t e => offerEvent t src e s.time.aoTime) s

/-- The entry at the head of a port's receive queue leaves it, and RTS follows the count (R330, R335). -/
def takeRx (s : State) (src : Nat) : State :=
  rtsFollow (onSp s src fun q => { q with rxq := q.rxq.drop 1 }) src

/-- The fabric takes nothing from a source of another format, at its quota, or from a port whose entries the host reads (R204,
R233, R330). -/
def sourceClosed (s : State) (src format : Nat) : Bool := formatOf s src ≠ format || sourceBlocked s src || flag s (spReg src 0) 16

/-- The entry that the fabric takes next from a port of a format, if it takes any (R330). -/
def headRx (s : State) (src format : Nat) : Option RxEntry :=
  if sourceClosed s src format then none else (spOf s src).rxq.head?

/-- An entry with FE, PE or LOSS is a port error (R330). -/
def RxEntry.portError (e : RxEntry) : Bool := e.fe || e.pe || e.loss

/-- The completion instant of a message whose last character an entry is, as a stamp (R206): its start edge and b + 0.5 bit times of the
setting that received it, rounded once. -/
def completionStamp (s : State) (e : RxEntry) : DWord :=
  let os : Nat := match bits e.baud 29 28 with | 0 => 16 | 1 => 8 | _ => 3
  let bit : Nat := (if bitOf e.baud 30 then 1 else 4) * os * bits e.baud 27 0
  let quarters : Int := 131072 * (e.start - 4 * s.time.epoch).toInt + ((2 * e.nbits + 1) * bit : Nat)
  BitVec.ofInt 64 (rne (quarters * 256) (4 * 131072 * tclkPerSample s))

/-- MIDI_BYTE_PARSE: the fabric takes the character at the head of a MIDI 1.0 port's receive queue (R212, R330). -/
def execMidiByteParse (src : Fin 8) (s : State) : Host.Outcome State Fault Refusal :=
  match headRx s src 0 with
  | none => .next s
  | some e =>
    let b := BitVec.ofNat 8 e.data.toNat
    let r := if e.portError then midiError (parseOf s src) b
      else midiByte s src (parseOf s src) b (arrivalStamp s src (completionStamp s e))
    .next (applyParsed (takeRx s src) src r)

/-- A port error in a stream of Universal MIDI Packets: the packet in progress is discarded, and the next character begins a new one
(R217). -/
def umpError (ps : ParseSt) (b : Byte) : Parsed :=
  let first := match ps.ump, ps.umpPart with | w :: _, _ => w.toNat | [], x :: _ => x.toNat | [], [] => b.toNat
  { ps := { ps with ump := [], umpPart := [] }, bads := [(first, 3)] }

/-- A character of a stream of Universal MIDI Packets: the fourth completes a word, of which the first is the most significant byte
(R217). -/
def umpChar (s : State) (src : Nat) (ps : ParseSt) (b : Byte) (arrival : DWord) : Parsed :=
  let part := ps.umpPart ++ [b]
  if part.length < 4 then { ps := { ps with umpPart := part } }
  else umpWordParse s src { ps with umpPart := [] } (w32 (leNat part.reverse)) arrival

/-- Characters are taken from the head of a port's receive queue until a word of a packet is complete or one is a port error. -/
def takeWord (src : Nat) : Nat → State → State
  | 0, s => s
  | n + 1, s =>
    match headRx s src 1 with
    | none => s
    | some e =>
      let ps := parseOf s src
      let b := BitVec.ofNat 8 e.data.toNat
      if e.portError then applyParsed (takeRx s src) src (umpError ps b)
      else
        let t := applyParsed (takeRx s src) src (umpChar s src ps b (arrivalStamp s src (completionStamp s e)))
        if ps.umpPart.length = 3 then t else takeWord src n t

/-- UMP_WORD: the fabric takes a word of a port's stream of Universal MIDI Packets, as far as its characters have come, or discards the
packet in progress at a port error (R217). -/
def execUmpWord (src : Fin 8) (s : State) : Host.Outcome State Fault Refusal := .next (takeWord src 4 s)

/-- What a write of the host's event window parses to (R233), by the host source's FORMAT. -/
def hwinParse (s : State) (value : Word) : Parsed × List Word :=
  let ps := parseOf s 12
  let now := arrivalStamp s 12 (nowStamp s)
  match formatOf s 12 with
  | 0 => (midiByte s 12 ps (BitVec.ofNat 8 value.toNat) now, s.evt.hwin)
  | 1 => (umpWordParse s 12 ps value now, s.evt.hwin)
  | _ =>
    let ws := s.evt.hwin ++ [value]
    if ws.length < 4 then ({ ps }, ws)
    else
      let n := fun i => (nth ws i 0).toNat
      ({ ps, evs := [pktOf (n 0 + n 1 * 2 ^ 32) (w64 (n 2 + n 3 * 2 ^ 32))] }, [])

/-- A write of EVT.HWIN (R233): refused, with the parse state unchanged, when it would hand an event to the queue, which a Period never
joins (R166), while the host source is at its quota. Answers whether it was taken. -/
def writeHwin (s : State) (value : Word) : State × Bool :=
  let (r, ws) := hwinParse s value
  if r.evs.any (fun e => !eventIsPeriod e) ∧ hostBusy s then (refuse s R.evtHwin false, false)
  else (applyParsed { s with evt := { s.evt with hwin := ws } } 12 r, true)

/-- A change of FORMAT takes effect (R233): the message in progress ends without a count, a system exclusive message with
its last fragment carrying END and ABORT; running status is cleared; latches, selections and JR state stay. -/
def formatChanged (s : State) (src : Nat) : State :=
  let ps := parseOf s src
  let evs := (match ps.sysex with | some x => sysexEnd x true | none => []) ++
    (ps.umpSysex.map fun x => sysexEnd x.2 true).flatten
  let ps := { ps with running := none, status := none, data := [], sysex := none, umpSysex := [], ump := [], umpPart := [],
                      native := [], stray := false }
  let s := if src = 12 then { s with evt := { s.evt with hwin := [] } } else s
  applyParsed s src { ps, evs }

end Sys2Proof.Machine
end

