-- ==== Sys2Proof/Machine/Numeric.lean ====
section
/-! DEFINITION. The exact real functions the spec rounds once: powers of two and logarithms (R39, R106), the cosine table of
the ramps (R188), sines (R278, R515). Each is computed in fixed point with 192 fraction bits and rounded at the end (log 9). -/

namespace Sys2Proof.Machine

/-- The number of fraction bits of the fixed-point reals below. -/
def fixBits : Nat := 192

/-- 1.0 in fixed point. -/
def fixOne : Nat := 2 ^ fixBits

/-- The product of two fixed-point reals, truncated. -/
def fixMul (a b : Nat) : Nat := a * b / fixOne

/-- Square root by bits, from bit n down: the largest r with r^2 ≤ x. -/
def sqrtBits : Nat → Nat → Nat → Nat
  | 0, _, r => r
  | n + 1, x, r => let c := r + 2 ^ n; if c * c ≤ x then sqrtBits n x c else sqrtBits n x r

/-- The square root of a fixed-point real below 4. -/
def fixSqrt (a : Nat) : Nat := sqrtBits (fixBits + 1) (a * fixOne) 0

/-- The product of 2^(2^-i) over the bits i of a binary fraction, most significant first; root is 2^(2^-i) of its first
bit. -/
def exp2Bits : List Bool → Nat → Nat → Nat
  | [], _, acc => acc
  | b :: bs, root, acc => exp2Bits bs (fixSqrt root) (if b then fixMul acc root else acc)

/-- n binary digits of the fraction num / den. -/
def fracBits : Nat → Nat → Nat → List Bool
  | 0, _, _ => []
  | n + 1, num, den => let d := 2 * num; if den ≤ d then true :: fracBits n (d - den) den else false :: fracBits n d den

/-- 2^(num / den) in fixed point, for 0 ≤ num < den. -/
def fixExp2 (num den : Nat) : Nat := exp2Bits (fracBits fixBits num den) (fixSqrt (2 * fixOne)) fixOne

/-- 2^(num / den) × 2^shift rounded to the nearest integer (ties to even), for an integer exponent num of any sign. -/
def exp2Round (num : Int) (den : Nat) (mul div : Nat) : Int :=
  let q := num / den
  let r := (num % den).toNat
  let m := fixExp2 r den * mul
  if 0 ≤ q then rne ((m * 2 ^ q.toNat : Nat) : Int) (fixOne * div)
  else rne (m : Int) (fixOne * div * 2 ^ (-q).toNat)

/-- The binary digits of log2 of a fixed-point real in [1, 2), n of them, as a number. -/
def log2Bits : Nat → Nat → Nat → Nat
  | 0, _, acc => acc
  | n + 1, x, acc =>
    let y := fixMul x x
    if 2 * fixOne ≤ y then log2Bits n (y / 2) (2 * acc + 1) else log2Bits n y (2 * acc)

/-- floor of log2 of a number below 2^n. -/
def log2Floor : Nat → Nat → Nat
  | 0, _ => 0
  | n + 1, x => if 2 ^ n ≤ x then n else log2Floor n x

/-- LOG2F of a positive Q1.31 value (R106): log2(y / 2^31) as Q8.24, rounded. 40 digits are formed; the power of two, whose
logarithm is exact, has none of them set. -/
def log2F (y : Nat) : Int :=
  let k := log2Floor 32 y
  let m := y * 2 ^ (fixBits - k)
  let digits := log2Bits 40 m 0
  ((k : Int) - 31) * 2 ^ 24 + rne (digits * 2 + (if m = fixOne then 0 else 1) : Int) (2 ^ 17)

/-- π in fixed point. -/
def fixPi : Nat := 19720096697726538562396133364228268891463450865190089732560

/-- The terms of the cosine series: term, x², the index of the next even power, the sum so far. -/
def cosTerms : Nat → Int → Nat → Nat → Int → Int
  | 0, _, _, _, sum => sum
  | n + 1, term, xx, k, sum =>
    let t := -(term * xx / (fixOne * ((k + 1) * (k + 2)) : Nat))
    cosTerms n t xx (k + 2) (sum + t)

/-- cos(π num / den) in fixed point, for 0 ≤ num ≤ den. -/
def fixCos (num den : Nat) : Int :=
  let x := fixPi * num / den
  cosTerms 60 fixOne (fixMul x x) 0 fixOne

/-- The integer c[k] of the ramp table (R188): c[0] is 2^31, c[4096] is 0. -/
def rampC (k : Nat) : Int :=
  if k = 0 then 2147483648 else if 4096 ≤ k then 0
  else rne (2147483648 * (fixOne + fixCos k 4096)) (2 * fixOne)

/-- T[i] of the quarter-wave sine table (R515): T[8192] is 2^31. -/
def sineT (i : Nat) : Int := if 8192 ≤ i then 2147483648 else min 2147483647 (rne (2147483648 * fixCos (8192 - i) 16384) fixOne)

/-- A PITCH value's phase increment round(2^48 f / FS), f = 440 × 2^(v / (1200 × 2^16)) (R39, R106). -/
def pitchInc (s : State) (v : Int) : Int := exp2Round v 78643200 (440 * 2 ^ 48) (fsHz s)

end Sys2Proof.Machine
end

