-- ==== Sys2Proof/Machine/Phrases.lean ====
section
/-! DEFINITION. Phrases (R43 to R51, R179): finding them, their header and state in local memory, their initial parameter
values, their event lists, the lane and Verb sums, homes and placing (R138, R139). -/

namespace Sys2Proof.Machine

/-! ### Syntaxes and Phrases -/

/-- The resident Syntax of a number (R60). -/
def synOf (s : State) (sid : Nat) : Option Syntax := s.syns.find? fun x => x.sid = sid

/-- The COST of a Syntax. -/
def costOf (s : State) (sid : Nat) : Nat := match synOf s sid with | some x => x.cost | none => 0

/-- The Phrase at a flow position. -/
def phraseAt (s : State) (pos : Nat) : Option Phrase := s.phrases.find? fun p => p.pos = pos

/-- The Phrase at a position changes. -/
def onPhrase (s : State) (pos : Nat) (f : Phrase → Phrase) : State :=
  { s with phrases := s.phrases.map fun p => if p.pos = pos then f p else p }

/-- A Phrase put in ascending position order. -/
def insertPhrase (x : Phrase) : List Phrase → List Phrase
  | [] => [x]
  | p :: ps => if x.pos ≤ p.pos then x :: p :: ps else p :: insertPhrase x ps

/-- A Phrase leaves its slot (R48). -/
def freePhrase (s : State) (pos : Nat) : State := { s with phrases := s.phrases.filter fun p => p.pos ≠ pos }

/-- A Phrase changes position, and the list stays in ascending order. -/
def movePos (s : State) (old new : Nat) (f : Phrase → Phrase) : State :=
  match phraseAt s old with
  | none => s
  | some p => { freePhrase s old with phrases := insertPhrase { f p with pos := new } (freePhrase s old).phrases }

/-- HELD, SUSTAINED or RELEASED: the Phrase counts in its pool and matches events (R180, R192). -/
def Phrase.sounds (p : Phrase) : Bool := !p.isGlobal && 1 ≤ p.state && p.state ≤ 3

/-! ### Lane and Verb sums (R134, R138, R155) -/

/-- N_L: cost of the lane's non-global Phrases in HELD, SUSTAINED or RELEASED. -/
def laneN (s : State) (l : Nat) : Nat :=
  ((s.phrases.filter fun p => p.sounds && p.lane = l).map fun p => costOf s p.sid).sum

/-- F_L: cost of the lane's FADING Phrases. -/
def laneF (s : State) (l : Nat) : Nat :=
  ((s.phrases.filter fun p => p.state = 4 && p.lane = l).map fun p => costOf s p.sid).sum

/-- G_L: cost of the global Phrases on the lane. -/
def laneG (s : State) (l : Nat) : Nat :=
  ((s.phrases.filter fun p => p.isGlobal && p.lane = l).map fun p => costOf s p.sid).sum

/-- The lanes of the image (PARSER.LANECFG.LANES). -/
def lanesOf (s : State) : Nat := fld s R.parserLanecfg 4 0

/-- G: the largest G_L (R134). -/
def globalReserve (s : State) : Nat := ((List.range 16).map (laneG s)).foldl max 0

/-- CAPL (R134). -/
def capl (s : State) : Nat := verbCyclesPerFrame s * fld s R.parserLanecfg 15 6 / 1000

/-- FCAPL (R134). -/
def fcapl (s : State) : Nat := verbCyclesPerFrame s * fld s R.parserLanecfg 25 16 / 1000

/-- W_v: cost of every Phrase homed on Verb v (R138). -/
def verbLoad (s : State) (v : Nat) : Nat :=
  ((s.phrases.filter fun p => p.home = some v).map fun p => costOf s p.sid).sum

/-! ### Local memory of a Phrase (R43, R85) -/

/-- Device address of a local address of Verb v. -/
def localAddr (v a : Nat) : Nat := verbBase v + a

/-- Device address of a Phrase's X part on its home. -/
def xAddr (p : Phrase) (v : Nat) : Nat := localAddr v p.xbase

/-- Device address of a Phrase's Y part on its home. -/
def yAddr (p : Phrase) (v : Nat) : Nat := localAddr v (0x28000 + p.ybase)

/-- The 64 header bytes of a Phrase for a frame (R45, Table 1 of the allocation chapter): evcount and first as given. -/
def headerBytes (p : Phrase) (frame evcount : Nat) (first : Bool) : List Byte :=
  let slot := if p.isGlobal then 0x700 + p.sid else p.pos
  leBytes 2 slot ++ leBytes 1 p.sid ++ leBytes 1 (b2n first * 128 + p.state) ++ leBytes 1 p.part ++ leBytes 1 evcount ++
  leBytes 2 p.key ++ leBytes 2 p.noteId ++ leBytes 2 p.vel ++ leBytes 2 p.relVel ++ leBytes 1 p.pool ++
  leBytes 1 (p.home.getD 0) ++ leBytes 8 p.start.toNat ++ leBytes 8 p.gateOff.toNat ++ leBytes 4 frame ++
  leBytes 4 p.age.toNat ++ leBytes 2 p.ybase ++ leBytes 2 p.fadeRem ++ leBytes 1 p.uni ++ leBytes 1 p.layer ++
  leBytes 2 0 ++ leBytes 4 p.aseq.toNat ++ List.replicate 12 0

/-- The 16 bytes of an event list entry (Table 7 of the Phrase chapter). -/
def entryBytes (e : EvEntry) : List Byte :=
  leBytes 2 e.pos ++ leBytes 1 e.kind ++ leBytes 1 e.word ++ leBytes 1 e.pidx ++
  leBytes 1 (b2n e.late + 2 * b2n e.deferred) ++ leBytes 2 e.smooth ++ leBytes 4 e.value.toNat ++ leBytes 4 0

/-- Bytes written as whole 64-bit words, a multiple of 8 of them, from an aligned address. -/
def putWordBytes (s : State) (a : Nat) : List Byte → State
  | b0 :: b1 :: b2 :: b3 :: b4 :: b5 :: b6 :: b7 :: rest =>
    putWordBytes (putWord s a (w64 (leNat [b0, b1, b2, b3, b4, b5, b6, b7]))) (a + 8) rest
  | _ => s

/-- A frame's header and event list are written into the X part (R45, R51, R132 step 4); HOME and YBASE are the present
ones. -/
def writeWork (s : State) (p : Phrase) (w : Work) : State :=
  match p.home with
  | none => s
  | some v =>
    let hdr := (w.hdr.set 0x0F (BitVec.ofNat 8 v)).take 0x28 ++ leBytes 2 p.ybase ++ w.hdr.drop 0x2A
    putWordBytes s (xAddr p v) (hdr ++ (w.evs.map entryBytes).flatten)

/-! ### Parameters (R47, R223) -/

/-- The default tuning (R223). -/
def defaultTuning : Tuning :=
  { p := 12, root := 69, base := 0, interval := 1200 * 65536, off := (List.range 12).map fun i => ((100 * i * 65536 : Nat) : Int) }

/-- The tuning of a part (R222, R229: a dropped record sends its parts to the default tuning). -/
def tuningOf (s : State) (part : Nat) : Tuning :=
  let i := (nth s.evt.map.parts part (0xFF, 0xFFFF)).1
  if i = 0xFF then defaultTuning else ((nth s.evt.map.tunings i none).getD defaultTuning)

/-- The tuning value of a key (R223). -/
def tuningValue (t : Tuning) (key : Nat) : Int :=
  let q := ((key : Int) - t.root) / (t.p : Int)
  let r := (((key : Int) - t.root) % (t.p : Int)).toNat
  satS32 (t.base + q * t.interval + nth t.off r 0)

/-- sat(DEFAULT + the part's tuning value for the key) (R47, R195). -/
def keyPitch (s : State) (part key : Nat) (dflt : Word) : Word :=
  BitVec.ofInt 32 (satS32 (dflt.toInt + tuningValue (tuningOf s part) key))

/-- VEL × 2^15 (R47). -/
def velValue (vel : Nat) : Word := w32 (vel * 32768)

/-- The initial value of a parameter by its binding (R47, Table 4). -/
def paramInit (s : State) (p : Phrase) (q : SynParam) : Word :=
  match q.bind with
  | 1 => keyPitch s p.part p.key q.dflt
  | 2 => velValue p.vel
  | _ => q.dflt

/-- The Word that owns a parameter of the table, with the index within it (R59 check 4: at most one). -/
def paramOwner (x : Syntax) (i : Nat) : Option (Nat × Nat) :=
  ((List.range x.words.length).zip x.words).findSome? fun (w, sw) =>
    if sw.pbase ≤ i ∧ i < sw.pbase + sw.npar then some (w, i - sw.pbase) else none

/-- The parameters of a Syntax with a binding: Word, index within it, the parameter. -/
def boundParams (x : Syntax) (bind : Nat) : List (Nat × Nat × SynParam) :=
  ((List.range x.params.length).zip x.params).filterMap fun (i, q) =>
    if q.bind = bind then (paramOwner x i).map fun o => (o.1, o.2, q) else none

/-- A parameter entry in its initial state: START, TARGET and PREV hold the value, REMAIN and SPAN 0 (R46, R47). PREV is the
value itself, since E before the first tick is taken to equal E (R40). -/
def paramEntry (v : Word) : List Byte := leBytes 4 v.toNat ++ leBytes 4 v.toNat ++ leBytes 4 v.toNat ++ leBytes 4 0

/-- A Phrase's state is cleared and its parameter block filled on its home (R47). -/
def initPhraseState (s : State) (p : Phrase) : State :=
  match p.home, synOf s p.sid with
  | some v, some x =>
    let s := clearRange s (xAddr p v) (xAddr p v + x.xsize)
    let s := clearRange s (yAddr p v) (yAddr p v + x.ysize)
    putWordBytes s (xAddr p v + 0x140) ((x.params.map fun q => paramEntry (paramInit s p q)).flatten)
  | _, _ => s

/-! ### Homes and places (R138, R139) -/

/-- Every Word-frame in a bank: loaded, running or frozen. -/
def bankFrames (s : State) : List WordFrame :=
  (s.verbs.map fun x => [x.bankA.wf, x.bankB.wf].filterMap id).flatten

/-- Is a Phrase's Word-frame of a frame in a bank. -/
def inBank (s : State) (frame pos : Nat) : Bool := (bankFrames s).any fun w => w.frame = frame && w.pos = pos

/-- A Phrase's parts stay where they are: a Word-frame of it is in a bank, which addresses them, or its state is being copied (R44). -/
def pinned (s : State) (p : Phrase) : Bool :=
  (p.works.any fun w => inBank s w.frame w.pos) || (match p.move with | some m => m.copying | none => false)

/-- The Verbs that are enabled, powered and not halted (E of R138), as of the latest boundary. -/
def activeVerbs (s : State) : List Nat := idxs 16 fun v => (nth s.verbs v {}).active

/-- Regions of one kind occupied on a Verb: base and size. X bases are local addresses, Y bases offsets from 0x28000; a
Phrase on the move holds a place on both Verbs until its copy is complete (R145). -/
def occupied (s : State) (v : Nat) (y : Bool) : List (Nat × Nat) :=
  (s.phrases.map fun p =>
    match synOf s p.sid with
    | none => []
    | some x =>
      let here := if p.home = some v then [(if y then (p.ybase, x.ysize) else (p.xbase, x.xsize))] else []
      let there := match p.move with
        | some m => if m.copying ∧ m.dest = v then [(if y then (m.ybase, x.ysize) else (m.xbase, x.xsize))] else []
        | none => []
      here ++ there).flatten

/-- The first and last-plus-one address of the Phrase areas (R85). -/
def areaOf (y : Bool) : Nat × Nat := if y then (0x80, 0x10000) else (0x14000, 0x28000)

/-- A list of regions in ascending base. -/
def sortRegions : List (Nat × Nat) → List (Nat × Nat)
  | [] => []
  | r :: rs => let rest := sortRegions rs
    (rest.filter fun x => x.1 < r.1) ++ r :: (rest.filter fun x => r.1 ≤ x.1)

/-- The lowest address from a cursor at which a part fits between the regions (R139). -/
def fitFrom (size hi : Nat) : List (Nat × Nat) → Nat → Option Nat
  | [], cur => if cur + size ≤ hi then some cur else none
  | (b, n) :: rs, cur => if cur + size ≤ b then some cur else fitFrom size hi rs (max cur (b + n))

/-- The lowest free address of one area of a Verb that holds a part. -/
def fitPart (s : State) (v size : Nat) (y : Bool) : Option Nat :=
  fitFrom size (areaOf y).2 (sortRegions (occupied s v y)) (areaOf y).1

/-- A Verb has the space in total. -/
def hasTotal (s : State) (v : Nat) (x : Syntax) : Bool :=
  ((occupied s v false).map (·.2)).sum + x.xsize ≤ 0x14000 && ((occupied s v true).map (·.2)).sum + x.ysize ≤ 0xFF80

/-- A DMA copy of whole words; a word that cannot be corrected is copied as poisoned (R398, R400). -/
def copyWords (s : State) : Nat → Nat → Nat → State
  | 0, _, _ => s
  | n + 1, src, dst =>
    let (s, d, bad, _) := fetchWord s 3 src
    copyWords (if bad then putPoison s dst d else putWord s dst d) n (src + 8) (dst + 8)

/-- A Phrase's parts move within its Verb (R139): both parts go to lower addresses, so ascending copies are safe. -/
def shiftPhrase (s : State) (v pos xb yb : Nat) : State :=
  match phraseAt s pos with
  | none => s
  | some p =>
    match synOf s p.sid with
    | none => s
    | some x =>
      let s := copyWords s (x.xsize / 8) (xAddr p v) (localAddr v xb)
      let s := copyWords s (x.ysize / 8) (yAddr p v) (localAddr v (0x28000 + yb))
      let s := onPhrase s pos fun q => { q with xbase := xb, ybase := yb }
      storeBytes s 0 (localAddr v xb + 0x28) (leBytes 2 yb)

/-- The positions of the Phrases on a Verb in ascending base of one part. -/
def byBase (s : State) (v : Nat) (y : Bool) : List Nat :=
  let mine := s.phrases.filter fun p => p.home = some v
  (sortRegions (mine.map fun p => (if y then p.ybase else p.xbase, p.pos))).map (·.2)

/-- One part of a Phrase moves down to the lowest free place of its Verb's area that holds it, clear of every other part and of the
places that moves have reserved there (R139). -/
def packPart (v : Nat) (y : Bool) (s : State) (pos : Nat) : State :=
  match phraseAt s pos with
  | none => s
  | some p =>
    match decide (pinned s p = true), synOf s p.sid with
    | false, some x =>
      let others := sortRegions (occupied (freePhrase s pos) v y)
      match fitFrom (if y then x.ysize else x.xsize) (areaOf y).2 others (areaOf y).1 with
      | some a =>
        if y then (if a < p.ybase then shiftPhrase s v pos p.xbase a else s)
        else (if a < p.xbase then shiftPhrase s v pos a p.ybase else s)
      | none => s
    | _, _ => s

/-- The Phrases on a Verb are moved together so that the free space of each area is in one piece (R139). -/
def compact (s : State) (v : Nat) : State :=
  let s := (byBase s v false).foldl (packPart v false) s
  (byBase s v true).foldl (packPart v true) s

/-- Places for both parts on a Verb as it stands. -/
def fitBoth (s : State) (v : Nat) (x : Syntax) : Option (Nat × Nat) :=
  match fitPart s v x.xsize false, fitPart s v x.ysize true with
  | some a, some b => some (a, b)
  | _, _ => none

/-- Phrases of a Verb are moved within it where a Syntax fits there in total but not in one piece (R139). -/
def makeRoom (s : State) (v : Nat) (x : Syntax) : State :=
  if (fitBoth s v x).isNone && hasTotal s v x then compact s v else s

/-- Both parts find a place on a Verb at a frame boundary, after moves within it where needed (R139). -/
def placeOn (s : State) (v : Nat) (x : Syntax) : State × Option (Nat × Nat) :=
  let s := makeRoom s v x
  (s, fitBoth s v x)

/-- The Verb the lane rule chooses (R138); a worker takes its own sixteen lanes (R372). -/
def homeFor (s : State) (lane : Nat) : Option Nat :=
  match activeVerbs s with
  | [] => none
  | vs =>
    let v := nth vs ((if isWorker s then lane % 16 else lane) % vs.length) 0
    if flag s R.parserVslow v then
      match leastBy (verbLoad s) (vs.filter fun d => !flag s R.parserVslow d) with
      | some d => some d
      | none => some v
    else some v

/-- The home and the places of a Phrase: the lane's Verb, or where it cannot hold the parts the Verb that can with the
smallest load; none where no Verb can (R138, R139). -/
def findHome (s : State) (lane : Nat) (x : Syntax) : State × Option (Nat × Nat × Nat) :=
  match homeFor s lane with
  | none => (s, none)
  | some v =>
    let pick := if hasTotal s v x then some v
      else leastBy (verbLoad s) ((activeVerbs s).filter fun d => hasTotal s d x)
    match pick with
    | none => (s, none)
    | some d =>
      match placeOn s d x with
      | (s, some (a, b)) => (s, some (d, a, b))
      | (s, none) => (s, none)

/-- A Phrase is placed on a Verb and its state set up there (R47, R139); an unplaced one stays so. -/
def placePhrase (s : State) (pos : Nat) : State :=
  match phraseAt s pos with
  | none => s
  | some p =>
    match p.home, p.dev, (if p.adrift then none else synOf s p.sid) with
    | none, none, some x =>
      match findHome s p.lane x with
      | (s, some (v, a, b)) =>
        let p := { p with home := some v, xbase := a, ybase := b }
        initPhraseState (onPhrase s pos fun _ => p) p
      | (s, none) => s
    | _, _, _ => s

/-! ### Diverged Phrases (R173) -/

/-- The Phrase at a position diverges in frame m: m and every later frame in which it sounds is void with cause DIVERGED, the open one
and those after it from their boundaries (DEDUCED, log 153: m itself as well). -/
def diverge (s : State) (pos m : Nat) : State :=
  match phraseAt s pos with
  | none => s
  | some p => onPhrase (voidSince s m p.ends) pos fun q => { q with diverged := true }

/-- The Phrase whose work of frame m is at a position diverges in m. -/
def divergeWork (s : State) (m pos : Nat) : State :=
  match phraseAt s pos with
  | none => s
  | some p => if p.works.any fun w => w.frame = m then diverge s pos m else s

/-! ### Mix buses (R264, R268) -/

/-- The address of sample j of bus b of frame m. -/
def busAddr (m b j : Nat) : Nat := 0x01440000 + 0x2000 * (m % 2) + 128 * b + 8 * j

/-- The address of sample j of feed n's accumulator of frame m. -/
def feedAddr (m n j : Nat) : Nat := 0x01444000 + 0x1000 * (m % 2) + 128 * n + 8 * j

/-- A value is added to a sample of a bus, and where it comes from a non-global Phrase to the accumulators of the bus's
feeds (R82, R266, R268). -/
def addFeeds (s : State) (m b j : Nat) (v : DWord) : State :=
  (idxs 32 fun n => flag s (R.mixFeed + 4 * n) 31 && Config.feedBus n % 64 = b).foldl
    (fun t n => memAdd t 2 (feedAddr m n j) v) s

/-- An aligned word takes data and what stands in its error bits. -/
def setWord (s : State) (a : Nat) (d : DWord) (e : Option (BitVec 88)) : State :=
  match e with
  | none => putWord s a d
  | some e => { putWord s a d with ecc := mapPut (putWord s a d).ecc a e }

/-- Two aligned words change places. -/
def swapWord (s : State) (a b : Nat) : State :=
  let (x, y) := (memWord s a, memWord s b)
  let (ex, ey) := (mapGet s.ecc a, mapGet s.ecc b)
  if x = y ∧ ex = ey then s else setWord (setWord s a y ey) b x ex

/-- A SYNC renumbers the open frame, of even number, to frame 1: what the mix port holds of it and of the frame before it changes places, so
that later sends, feeds and the clear of R265 meet the frames they belong to (DESIGN CHOICE, log 154). -/
def swapMix (s : State) : State :=
  let s := (List.range 0x400).foldl (fun t i => swapWord t (busAddr 0 0 0 + 8 * i) (busAddr 1 0 0 + 8 * i)) s
  (List.range 0x200).foldl (fun t i => swapWord t (feedAddr 0 0 0 + 8 * i) (feedAddr 1 0 0 + 8 * i)) s

end Sys2Proof.Machine
end

