-- ==== Sys2Proof/Machine/Dac.lean ====
section
/-! DEFINITION. Audio outputs (R264 to R281): the shift window over the latched bus buffer, self-tones, soft mute, park
switches, the monitor's offset correction. One call of dacSample is one sample of one channel. -/

namespace Sys2Proof.Machine

/-- Audio channel k. -/
def dacOf (s : State) (k : Nat) : DacSt := nth s.analog.dac k {}

/-- Audio channel k changes. -/
def onDac (s : State) (k : Nat) (f : DacSt → DacSt) : State :=
  { s with analog := { s.analog with dac := s.analog.dac.modify k f } }

/-! ### The shift window (R270) -/

/-- The hold frame of frame m at LINK.HBASE (R359): 12 KiB, T of them used in turn. -/
def holdBase (s : State) (m : Nat) : Nat := (rd s R.linkHbase).toNat + 0x3000 * (m % max 1 (tiersOf s))

/-- Where the outputs read sample j of a bus of frame m: the bus buffer, or with tiers the hold (R265, R359, R369). -/
def playAddr (s : State) (m bus j : Nat) : Nat :=
  if tiersOf s = 0 then busAddr m bus j else holdBase s m + 128 * bus + 8 * j

/-- A sample of the latched buffer of a frame: 0, with the frame void, where it cannot be read (R397). -/
def busSample (s : State) (m bus j : Nat) : State × Int :=
  let (s, d, bad, _) := memLoad s 2 (playAddr s m bus j) 8
  if bad then (voidFrame s m 4, 0) else (s, d.toInt)

/-- B[j] / 2^SHIFT rounded convergently. -/
def shifted (s : State) (m bus shift j : Nat) : State × Int :=
  let (s, b) := busSample s m bus j
  (s, rne b (2 ^ shift))

/-- The codes of channel k for frame m, and how many samples saturated. -/
def audioCodes (s : State) (m k : Nat) : State × List Word × Nat :=
  let r := R.mixAout + 4 * k
  (List.range 16).foldl (fun (acc : State × List Word × Nat) j =>
    let (s, codes, n) := acc
    let (s, x) := shifted s m (fld s r 5 0) (fld s r 12 8) j
    (s, codes ++ [BitVec.ofInt 32 (satS32 x)], n + b2n (satS32 x ≠ x))) (s, [], 0)

/-- Channel k takes frame m: its codes, CLIP and its counter, and the Gloss entry of the first saturated sample (R270). While PD5 is off
nothing is evaluated (R273), and nor is a frame that a SYNC makes silent (R18). -/
def latchAudio (s : State) (m k : Nat) : State :=
  if !domainOn s 5 || 0 < s.analog.syncHold then s
  else if !flag s (R.mixAout + 4 * k) 16 then onDac s k fun d => { d with codes := List.replicate 16 0 }
  else
    let (s, codes, n) := audioCodes s m k
    let s := onDac s k fun d => { d with codes }
    if n = 0 then s
    else raiseGloss (countUpBy (setFlag s R.dacStat (16 + k)) (R.dacClip + 4 * k) n) 0x7100 (w32 k) (w32 m) (w32 n)

/-! ### Self-tones (R277, R278) -/

/-- The sine of a 48-bit phase (R515). -/
def sine48 (p : Nat) : Int :=
  let q := p / 2 ^ 46 % 4
  let r := p % 2 ^ 46
  let x := if q % 2 = 0 then r else 2 ^ 46 - r
  let i := x / 2 ^ 33
  let f : Int := (x - 2 ^ 33 * i : Nat)
  let v := rne (2 ^ 33 * sineT i + f * (sineT (i + 1) - sineT i)) (2 ^ 33)
  satS32 (if 2 ≤ q then -v else v)

/-- The tone of this sample, and the generator after it. -/
def toneNext (t : ToneSt) : Int × ToneSt :=
  (rne (sine48 t.phase * t.amp) (2 ^ 31), { t with phase := (t.phase + min t.inc (2 ^ 47)) % 2 ^ 48 })

/-- A generator takes the values of its registers at the boundary at which a write to TCTL takes effect (R278); base is the
address of its TINCL register. -/
def toneApply (s : State) (base : Nat) (t : ToneSt) : ToneSt :=
  let c := base + 12
  { on := flag s c 0, add := flag s c 1, inc := (rd s base).toNat + fld s (base + 4) 15 0 * 2 ^ 32,
    amp := fld s (base + 8) 30 0, phase := if flag s c 0 && !t.on then fld s c 30 16 * 2 ^ 33 else t.phase }

/-! ### Mute and park (R274 to R276) -/

/-- PD5 is on and released. -/
def pd5Released (s : State) : Bool := domainOn s 5 && !flag s R.pwrDomstat 13

/-- A mute cause holds for channel k (R274, Table 4). -/
def muteCause (s : State) (k : Nat) : Bool :=
  flag s (R.dacCh + 4 * k) 0 || s.power.muted || 0 < s.analog.syncHold || s.power.offReq.getLsbD 5 || !s.boot.complete

/-- The target of κ. -/
def kappaTarget (s : State) (k : Nat) : Nat := if muteCause s k then 4096 else 0

/-- κ one sample later (R274). -/
def kappaNext (s : State) (k : Nat) : Nat :=
  let now := (dacOf s k).kappa
  let step := 4096 / 2 ^ fld s R.dacCfg 3 0
  if muteCause s k then min 4096 (now + (if 0 < s.analog.syncHold then 256 else step)) else now - step

/-- κ moves one step; the channel is PARKED with κ at 4,096 while its switch is closed (R275). -/
def kappaStep (s : State) (k : Nat) : State :=
  if !(dacOf s k).open? then s
  else
    let v := kappaNext s k
    onDac s k fun d => { d with kappa := v, stood := if v = 4096 ∧ d.kappa = 4096 then d.stood + 1 else 0 }

/-- DAC.CHSTATk.STATE: 0 PLAY, 1 DOWN, 2 MUTED, 3 UP, 4 PARKED (R275). -/
def dacState (s : State) (k : Nat) : Nat :=
  let d := dacOf s k
  if !d.open? then 4
  else if d.kappa = 4096 then 2
  else if muteCause s k then 1
  else if d.kappa = 0 then 0 else 3

/-- DAC.CHSTATk as it reads. -/
def dacChstat (s : State) (k : Nat) : Word := w32 ((dacOf s k).kappa * 65536 + dacState s k)

/-- MUTE_RAMP_END: the sample at which κ of channel k reaches 0 or 4,096, so that its state becomes PLAY or MUTED (R274,
R275). -/
def execMuteRampEnd (k : Fin 16) (s : State) : Host.Outcome State Fault Refusal :=
  if (dacOf s k).kappa ≠ kappaTarget s k ∧ kappaNext s k = kappaTarget s k then .next (kappaStep s k) else .next s

/-- The switch of channel k closes: κ has stood at 4,096 for 16 samples, with MUTESW set, the POWER cause (R276), or a reload, which parks
every output (R436). -/
def parkDue (s : State) (k : Nat) : Bool :=
  let d := dacOf s k
  d.open? && d.kappa = 4096 && 16 ≤ d.stood && (flag s (R.dacCh + 4 * k) 3 || s.power.offReq.getLsbD 5 || s.boot.reloading)

/-- A park switch closes; the monitor takes no result from a window in which its channel's does (R276, R280). -/
def closePark (s : State) (k : Nat) : State :=
  let s := onDac s k fun d => { d with open? := false, kappa := 4096, stood := 0 }
  if s.analog.monitor = k then { s with analog := { s.analog with spoilt := true } } else s

/-- A park switch opens with the gain at zero (R276). -/
def openPark (s : State) (k : Nat) : State := onDac s k fun d => { d with open? := true, kappa := 4096, stood := 0 }

/-- PARK_SWITCH_CLOSE: the sixteenth sample at κ = 4,096 closes the switch (R276). -/
def execParkSwitchClose (k : Fin 16) (s : State) : Host.Outcome State Fault Refusal :=
  if parkDue (kappaStep s k) k then .next (closePark (kappaStep s k) k) else .next s

/-- What a write to DAC.CHk does beyond its fields: MUTESW written 0 while PARKED opens the switch when PD5 is on and
released (R276). -/
def afterDacCh (s : State) (k : Nat) : State :=
  if !(dacOf s k).open? && !flag s (R.dacCh + 4 * k) 3 && pd5Released s then openPark s k else s

/-- Every switch opens where PD5 is on and released: at boot step 13, and when PADREL releases PD5 (R276). -/
def openAllParks (s : State) : State :=
  if pd5Released s then (List.range 16).foldl (fun s k => if (dacOf s k).open? then s else openPark s k) s else s

/-- Every switch closes at once, at a reset (R276). -/
def closeAllParks (s : State) : State := (List.range 16).foldl closePark s

/-! ### One sample -/

/-- T_fac for the present FSR (R279). -/
def tfacOf (s : State) (k : Nat) : Int := nth (dacOf s k).tfac (fld s (R.dacCh + 4 * k) 2 1) 0

/-- The stage-1 code of sample j: during the SYNC mute the latest one stands, from which the ramp goes to zero (R18). -/
def dacCode (s : State) (k j : Nat) : Word := if 0 < s.analog.syncHold then (dacOf s k).lastN else nth (dacOf s k).codes j 0

/-- Stage 2 of channel k for a code: its tone and the generator after it (R277, R278). -/
def dacToned (d : DacSt) (code : Int) : Int × ToneSt :=
  if !d.tone.on then (code, d.tone)
  else
    let (tone, gen) := toneNext d.tone
    (if d.tone.add then satS32 (code + tone) else tone, gen)

/-- Stage 3: the mute gain (R274). -/
def dacMuted (d : DacSt) (x : Int) : Int := if d.kappa = 0 then x else rne (x * rampC d.kappa) (2 ^ 31)

/-- Stages 2 to 5 of channel k for sample j, then its ramp and its switch (R274 to R279). The value of stage 4 at the sample instant is a
free value, for its filters are not given (R271, log 127); stage 5 adds T_fac + T_run, of 256 code steps each. -/
def dacSample (j : Nat) (s : State) (k : Nat) : State :=
  if !domainOn s 5 then s
  else
    let code := dacCode s k j
    let (x, gen) := dacToned (dacOf s k) code.toInt
    let out := dacMuted (dacOf s k) x
    let (s, f) := drawFree s
    let level := f.toInt + 256 * (tfacOf s k + (dacOf s k).trun)
    let s := kappaStep (onDac s k fun d => { d with lastN := code, tone := gen, out := BitVec.ofInt 32 out, level := level }) k
    if parkDue s k then closePark s k else s

/-! ### The monitor (R279 to R281, R295, R296) -/

/-- A signed 16-bit term that saturates at ±32,767. -/
def sat16 (x : Int) : Int := max (-32767) (min 32767 x)

/-- x held within ±lim. -/
def clampAbs (x lim : Int) : Int := max (-lim) (min lim x)

/-- DAC.OFSk as it reads. -/
def dacOfs (s : State) (k : Nat) : Word :=
  if !s.boot.calApplied then 0
  else w32 (((dacOf s k).trun % 65536).toNat * 65536 + (tfacOf s k % 65536).toNat)

/-- The monitor's result for an audio channel, from d = 1,024 × 256 × e: T_run takes its bounded step, and a drift beyond OFSLIM is
marked (R280, R281). -/
def audioWindow (s : State) (k : Nat) (d : Int) : State :=
  let t := sat16 ((dacOf s k).trun - clampAbs (rne d (2 * 1024 * 256)) 8)
  let s := onDac s k fun d => { d with trun := t }
  if (fld s R.dacCfg 31 16 : Int) < t.natAbs ∧ ¬ flag s R.dacStat k then
    raiseGloss (setFlag s R.dacStat k) 0x7110 (w32 k) (BitVec.ofInt 32 t) (BitVec.ofInt 32 (tfacOf s k))
  else s

end Sys2Proof.Machine
end

