-- ==== Sys2Proof/Machine/Cvo.lean ====
section
/-! DEFINITION. Control-voltage outputs (R285 to R296): codes, ramps and park switches, rails, DAC updates per sample or on a
timer, calibration terms, the monitor window. -/

namespace Sys2Proof.Machine

/-- Control-voltage channel k. -/
def cvOf (s : State) (k : Nat) : CvSt := nth s.analog.cv k {}

/-- Control-voltage channel k changes. -/
def onCv (s : State) (k : Nat) (f : CvSt → CvSt) : State :=
  { s with analog := { s.analog with cv := s.analog.cv.modify k f } }

/-! ### Spans and codes (R285, R286) -/

/-- W in volts (Table 1). -/
def spanVolts (span : Nat) : Nat := match span with | 0 => 5 | 1 => 10 | 2 => 10 | _ => 20

/-- N0: the code for 0 V. -/
def spanZero (span : Nat) : Nat := if span < 2 then 0 else 524288

/-- A code held within 0 to 1,048,575. -/
def sat20 (x : Int) : Nat := (max 0 (min 1048575 x)).toNat

/-- The code of a bus value before its clamp: volts or pitch (R286). -/
def cvCode (s : State) (k : Nat) (x : Int) : Int :=
  let span := (cvOf s k).span
  if flag s (R.cvoSrc + 4 * k) 16 then
    spanZero span + rne (x - (rd s (R.cvoPref + 4 * k)).toInt) (75 * spanVolts span)
  else if span < 2 then rne x (2 ^ 11) else 524288 + rne x (2 ^ 12)

/-- Channel k takes frame m from the latched buffer: its codes, with SAT for a clamp (R286); not in the frames after a SYNC in which it repeats
its last code (R292). -/
def latchCv (s : State) (m k : Nat) : State :=
  if !domainOn s 5 || 0 < s.analog.syncHold then s else
  let r := R.cvoSrc + 4 * k
  let (s, codes, sat) := (List.range 16).foldl (fun (acc : State × List Nat × Bool) j =>
    let (s, codes, sat) := acc
    let (s, x) := shifted s m (fld s r 5 0) (fld s r 12 8) j
    let n := cvCode s k (satS32 x)
    (s, codes ++ [sat20 n], sat || (sat20 n : Int) ≠ n)) (s, [], false)
  let s := onCv s k fun c => { c with codes }
  if sat then setFlag s R.cvoStat (16 + k) else s

/-! ### Park causes and ramps (R288, R289) -/

/-- CVO.STAT.RAILOK. -/
def railOk (s : State) : Bool := flag s R.cvoStat 31

/-- Channel k is enabled. -/
def cvEnabled (s : State) (k : Nat) : Bool := flag s (R.cvoCh + 4 * k) 0

/-- A park cause holds for channel k (R289, Table 3). -/
def parkCause (s : State) (k : Nat) : Bool :=
  !cvEnabled s k || !s.boot.complete || s.power.offReq.getLsbD 5 || !pd5Released s ||
    (s.power.muted && flag s (R.cvoCh + 4 * k) 3) || !railOk s

/-- 2^RAMP. -/
def rampTop (s : State) : Nat := 2 ^ fld s R.cvoCfg 3 0

/-- CVO.CHSTATk.STATE: 0 RUN, 1 DOWN, 2 PARKED, 3 UP, 4 WAITRAIL (R289, R291, R297). -/
def cvState (s : State) (k : Nat) : Nat :=
  let c := cvOf s k
  if cvEnabled s k && !railOk s then 4
  else if parkCause s k then (if c.closed then 2 else 1)
  else if !c.closed && rampTop s ≤ c.a then 0
  else if c.closed && c.settle = 0 then 2 else 3

/-- CVO.CHSTATk as it reads: STATE and the latest M applied. -/
def cvChstat (s : State) (k : Nat) : Word := w32 (cvState s k + (cvOf s k).held.1 * 256)

/-- A channel that leaves RUN during its window gives the monitor no result (R295). -/
def spoilCv (s : State) (k : Nat) : State :=
  if s.analog.monitor = 16 + k then { s with analog := { s.analog with spoilt := true } } else s

/-- D: stage 4 of M (R294). -/
def dacWordOf (c : CvSt) (m : Nat) : Nat :=
  let g := nth c.gfac c.span 0 + c.grun
  sat20 (m + nth c.ofac c.span 0 + c.orun + rne (g * ((m : Int) - spanZero c.span)) (2 ^ 22))

/-- A channel's DAC stands at N0 of its span, whatever its updates (R289). -/
def atZero (c : CvSt) : CvSt :=
  let zero := (spanZero c.span, dacWordOf c (spanZero c.span))
  { c with queue := [], due := zero, held := zero }

/-- Step 1 of the run sequence begins: the amplifier takes its span, with the DAC at N0 (R289, R290). -/
def runStepOne (s : State) (k : Nat) : State := onCv s k fun c => atZero { c with span := fld s (R.cvoCh + 4 * k) 2 1, settle := 1 }

/-- a falls or rises by one, or the 16 samples at N0 and the 64 of settling are counted; the amplifier takes its span at the
first of these (R288 to R290). -/
def cvRamp (s : State) (k : Nat) : State :=
  let c := cvOf s k
  if parkCause s k then
    if c.closed then onCv s k fun c => { c with settle := 0 }
    else if 0 < c.a then spoilCv (onCv s k fun c => { c with a := min c.a (rampTop s) - 1, hold := 0 }) k
    else onCv s k fun c => { c with hold := c.hold + 1 }
  else if c.closed then
    if c.settle = 0 then runStepOne s k else onCv s k fun c => { c with settle := c.settle + 1 }
  else onCv s k fun c => { c with a := min (c.a + 1) (rampTop s), hold := 0 }

/-- The switch of channel k closes: parking, with a at 0 and 16 samples held at N0 (R289). -/
def cvCloseDue (s : State) (k : Nat) : Bool :=
  let c := cvOf s k
  parkCause s k && !c.closed && c.a = 0 && 16 ≤ c.hold

/-- The switch closes. -/
def cvClose (s : State) (k : Nat) : State := onCv s k fun c => { c with closed := true, a := 0, hold := 0, settle := 0 }

/-- The switch of channel k opens: running, with 64 samples of settling (R289). -/
def cvOpenDue (s : State) (k : Nat) : Bool :=
  let c := cvOf s k
  !parkCause s k && c.closed && 64 ≤ c.settle

/-- The switch opens. -/
def cvOpen (s : State) (k : Nat) : State := onCv s k fun c => { c with closed := false, a := 0, hold := 0, settle := 0 }

/-- One sample of the park and run sequences. -/
def cvSequence (s : State) (k : Nat) : State :=
  let s := cvRamp s k
  if cvCloseDue s k then cvClose s k else if cvOpenDue s k then cvOpen s k else s

/-- CV_PARK_SWITCH_CLOSE: the sixteenth sample at N0 closes the switch (R289). -/
def execCvParkSwitchClose (k : Fin 8) (s : State) : Host.Outcome State Fault Refusal :=
  if cvCloseDue (cvRamp s k) k then .next (cvClose (cvRamp s k) k) else .next s

/-- CV_SWITCH_OPEN: the sixty-fourth sample of settling opens the switch (R289). -/
def execCvSwitchOpen (k : Fin 8) (s : State) : Host.Outcome State Fault Refusal :=
  if cvOpenDue (cvRamp s k) k then .next (cvOpen (cvRamp s k) k) else .next s

/-- CV_RAMP_END: the sample at which a of channel k reaches 0 or 2^RAMP (R288, R289). -/
def execCvRampEnd (k : Fin 8) (s : State) : Host.Outcome State Fault Refusal :=
  let c := cvOf s k
  let goal := if parkCause s k then 0 else rampTop s
  if ¬ c.closed ∧ c.a ≠ goal ∧ (cvOf (cvRamp s k) k).a = goal then .next (cvRamp s k) else .next s

/-! ### The DAC word and its updates (R287, R288, R294) -/

/-- M: stage 3 of a code (R288). -/
def cvRamped (s : State) (k : Nat) (n2 : Nat) : Nat :=
  let c := cvOf s k
  let zero : Int := spanZero c.span
  (zero + rne (((n2 : Int) - zero) * min c.a (rampTop s)) (rampTop s)).toNat

/-- D: stage 4 of M (R294). -/
def cvDacWord (s : State) (k m : Nat) : Nat := dacWordOf (cvOf s k) m

/-- D_out in TCLK cycles, to the nearest (R22, R287). -/
def dOutCycles (s : State) : Nat := match rateLog s with | 0 => 1741 | 1 => 1587 | _ => 794

/-- The DAC takes the latest code that is due (R287). -/
def cvUpdate (s : State) (k : Nat) : State := onCv s k fun c => { c with held := c.due }

/-- Codes fall due; without a timer the DAC takes each as it falls due (R287). -/
def cvDue (s : State) (k : Nat) : State :=
  let now := s.time.aoTime
  let c := cvOf s k
  match (c.queue.filter fun q => q.1 ≤ now).getLast? with
  | none => s
  | some q =>
    let s := onCv s k fun c => { c with queue := c.queue.filter fun q => now < q.1, due := q.2 }
    if flag s (R.cvoCh + 4 * k) 4 then s else cvUpdate s k

/-- A tick of timer n raised causes (bit 0 compare A, 1 compare B, 2 period end): every channel that names the timer and one
of them updates (R287). -/
def cvTimerUpdate (s : State) (n causes : Nat) : State :=
  (List.range 8).foldl (fun s k =>
    let r := R.cvoCh + 4 * k
    if flag s r 4 && fld s r 11 8 = n && (fld s r 7 5 &&& causes) ≠ 0 then cvUpdate s k else s) s

/-- Stages 2 to 4 of channel k for sample j, then its ramp and switch; after a SYNC the latest code repeats (R286 to R294). -/
def cvSample (j : Nat) (s : State) (k : Nat) : State :=
  if !domainOn s 5 then s
  else
    let c := cvOf s k
    let n := if 0 < s.analog.syncHold then c.lastN else nth c.codes j 0
    let (tone, gen) := if c.tone.on then toneNext c.tone else (0, c.tone)
    let t := rne tone (2 ^ 12)
    let n2 := if c.tone.on then (if c.tone.add then sat20 (n + t) else sat20 (524288 + t)) else n
    let s := onCv s k fun c => { c with tone := gen, lastN := n }
    let m := cvRamped s k n2
    let entry := (s.time.aoTime + w64 (dOutCycles s), m, cvDacWord s k m)
    let s := onCv s k fun c => { c with queue := c.queue ++ [entry] }
    cvSequence s k

/-- A channel's switch closes at once with its DAC at N0 (R289: a rail failure or a reset). -/
def cvDrop (s : State) (k : Nat) : State :=
  spoilCv (onCv s k fun c =>
    let zero := (spanZero c.span, spanZero c.span)
    { c with closed := true, a := 0, hold := 0, settle := 0, queue := [], due := zero, held := zero }) k

/-! ### Rails (R291) -/

/-- What a write to CVO.CHk does beyond its fields: a channel that is PARKED with EN 0 has left the run sequence (R289, R290). -/
def afterCvCh (s : State) (k : Nat) : State :=
  if (cvOf s k).closed && !cvEnabled s k then onCv s k fun c => { c with settle := 0 } else s

/-- The enabled channels as a mask. -/
def cvMask (s : State) : Nat := ((List.range 8).filter (cvEnabled s)).foldl (fun m k => m + 2 ^ k) 0

/-- CV_RAIL_LOSS: one rail or both leave their good thresholds: vcvp and vcvn say which of them lie outside now (R291, R298). The switch of
every channel closes at once, of one that is still ramping down too (R289). -/
def execCvRailLoss (vcvp vcvn : Bool) (s : State) : Host.Outcome State Fault Refusal :=
  if !vcvp && !vcvn then .next s
  else
    let s := { s with analog := { s.analog with railP := vcvp, railN := vcvn } }
    let s := setFlag (clrFlag s R.cvoStat 31) R.cvoStat 30
    let s := (List.range 8).foldl cvDrop s
    .next (raiseGloss s 0x7121 (w32 (b2n vcvp + 2 * b2n vcvn)) (w32 (cvMask s)) 0)

/-- CV_RAIL_GOOD: both rails have been good for 1,024 samples; waiting channels begin to run (R291). -/
def execCvRailGood (s : State) : Host.Outcome State Fault Refusal :=
  if railOk s then .next s
  else
    let s := { s with analog := { s.analog with railP := false, railN := false } }
    .next (raiseGloss (setFlag s R.cvoStat 31) 0x7122 (w32 (cvMask s)) 0 0)

/-! ### Registers -/

/-- A new value of CVO.CHk changes SPAN against R290. -/
def spanRefused (s : State) (k : Nat) (v : Word) : Bool :=
  bits v 2 1 ≠ fld s (R.cvoCh + 4 * k) 2 1 && (cvEnabled s k || cvState s k ≠ 2)

/-- A signed pair as CVO.OFSk and CVO.GAINk read. -/
def pairWord (hi lo : Int) : Word := w32 ((hi % 65536).toNat * 65536 + (lo % 65536).toNat)

/-- CVO.OFSk as it reads: the terms of the span the register names. -/
def cvOfs (s : State) (k : Nat) : Word :=
  let c := cvOf s k
  if s.boot.calApplied then pairWord c.orun (nth c.ofac (fld s (R.cvoCh + 4 * k) 2 1) 0) else 0

/-- CVO.GAINk as it reads. -/
def cvGain (s : State) (k : Nat) : Word :=
  let c := cvOf s k
  if s.boot.calApplied then pairWord c.grun (nth c.gfac (fld s (R.cvoCh + 4 * k) 2 1) 0) else 0

/-! ### The monitor window (R280, R295, R296) -/

/-- CAL_DRIFT is set for a channel, with its Gloss entry where the bit was 0 (R296). -/
def calDrift (s : State) (k : Nat) (e : Int) : State :=
  if flag s R.cvoStat k then s
  else
    let c := cvOf s k
    raiseGloss (setFlag s R.cvoStat k) 0x7120 (w32 k) (BitVec.ofInt 32 e) (pairWord c.orun c.grun)

/-- The runtime terms of channel k after a residual e at x (R295). -/
def loadCorrection (c : CvSt) (e x : Int) : CvSt :=
  if x.natAbs < 2 ^ 16 then { c with orun := sat16 (c.orun - clampAbs (rne e 2) 2) }
  else
    let g : Int := 2 ^ 23 / x.natAbs
    let r := if x < 0 then rne (-(e * 2 ^ 21)) x.natAbs else rne (e * 2 ^ 21) x.natAbs
    { c with grun := sat16 (c.grun - clampAbs r g) }

/-- The monitor's result for a control-voltage channel (R295, R296). -/
def cvWindow (s : State) (k : Nat) (e x : Int) : State :=
  let s := if flag s R.cvoCfg 8 then onCv s k fun c => loadCorrection c e x else s
  let beyond := fld s R.cvoCfg 31 16 < e.natAbs
  let s := onCv s k fun c => { c with drift := if beyond then c.drift + 1 else 0 }
  let c := cvOf s k
  if 32 ≤ c.drift ∨ c.orun.natAbs = 32767 ∨ c.grun.natAbs = 32767 then calDrift s k e else s

/-- Is a channel of the rotation enabled: audio channels that take a bus, control-voltage channels with EN. -/
def monitored (s : State) (i : Nat) : Bool :=
  if i < 16 then flag s (R.mixAout + 4 * i) 16 else cvEnabled s (i - 16)

/-- The next channel of the rotation: ascending, audio first. -/
def monitorNext (s : State) : Nat :=
  let now := s.analog.monitor
  (((List.range 24).map fun i => (now + 1 + i) % 24).find? (monitored s)).getD now

/-- A window of channel i begins with the next sample. -/
def startWindow (s : State) (i : Nat) : State :=
  { s with analog := { s.analog with monitor := i, spoilt := false, monCount := 0, monSum := 0 } }

/-- What the monitor's present channel puts out at this sample: the stage-3 output, or the M that the DAC holds (R280, R295). -/
def monitorValue (s : State) (i : Nat) : Int := if i < 16 then (dacOf s i).out.toInt else (cvOf s (i - 16)).held.1

/-- The monitor takes one sample of its window: of an enabled channel; a control voltage that does not read RUN spoils it (R280, R295). With
OFSEN = 0 or PD5 off nothing is measured, and the window begins anew. -/
def monitorSample (s : State) : State :=
  let i := s.analog.monitor
  if !flag s R.dacCfg 8 || !domainOn s 5 then startWindow s i
  else if !monitored s i then startWindow s (monitorNext s)
  else if 1024 ≤ s.analog.monCount then s
  else
    { s with analog := { s.analog with
        monCount := s.analog.monCount + 1, monSum := s.analog.monSum + monitorValue s i,
        spoilt := s.analog.spoilt || (16 ≤ i && cvState s (i - 16) ≠ 0) } }

/-- The result of a window of channel i: e from the measured sum less the device's own, and of a control voltage x, the mean of M - N0
(R280, R295). -/
def windowResult (s : State) (i : Nat) (measured : Int) : State :=
  let d := measured - s.analog.monSum
  if i < 16 then audioWindow s i d
  else cvWindow s (i - 16) (rne d 1024) (rne (s.analog.monSum - 1024 * (spanZero (cvOf s (i - 16)).span : Int)) 1024)

/-- The window of the monitor's present channel has a result: 1,024 samples, none of them spoilt, of an enabled channel whose switch is
open, or that reads RUN (R280, R295). -/
def windowGood (s : State) : Bool :=
  let i := s.analog.monitor
  !s.analog.spoilt && monitored s i && (if i < 16 then (dacOf s i).open? else cvState s (i - 16) = 0)

/-- MONITOR_WINDOW: the window of the monitor's present channel ends, after its 1,024 samples, with what was measured; a spoilt one gives no
result, and the monitor goes on to the next enabled channel (R280, R295). With OFSEN = 0 nothing is measured. -/
def execMonitorWindow (m : Measurement) (s : State) : Host.Outcome State Fault Refusal :=
  if !flag s R.dacCfg 8 || !domainOn s 5 || s.analog.monCount < 1024 then .next s
  else
    let t := if windowGood s then windowResult s s.analog.monitor m.sum.toInt else s
    .next (startWindow t (monitorNext s))

end Sys2Proof.Machine
end

