-- ==== Sys2Proof/Machine/Adc.lean ====
section
/-! DEFINITION. Inputs (R299 to R319): chains that run, settle and stop, the decimation of the modulators' codes, the trims of a delivered
value, the input frame ring, threshold detectors, the custom coefficient set, overloads. The signal at the balls is outside the device: the
modulators' codes are free values (log 15), and a command may give a channel's next sample (log 129). -/

namespace Sys2Proof.Machine

/-- Input channel n. -/
def adcOf (s : State) (n : Nat) : AdcSt := nth s.analog.adc n {}

/-- Input channel n changes. -/
def onAdc (s : State) (n : Nat) (f : AdcSt → AdcSt) : State :=
  { s with analog := { s.analog with adc := s.analog.adc.modify n f } }

/-- Detector x. -/
def detOf (s : State) (x : Nat) : DetectorSt := nth s.analog.det x {}

/-- Detector x changes. -/
def onDet (s : State) (x : Nat) (f : DetectorSt → DetectorSt) : State :=
  { s with analog := { s.analog with det := s.analog.det.modify x f } }

/-- The address of ADC.CHn. -/
def adcChReg (n : Nat) : Nat := R.adcCh + 4 * n

/-- ADC.CHn.SET. -/
def adcSet (s : State) (n : Nat) : Nat := fld s (adcChReg n) 2 1

/-! ### Delays (R303, R306) -/

/-- P in samples (R306). -/
def scsPeriod (s : State) (n : Nat) : Nat := 4 * 2 ^ fld s (adcChReg n) 4 3 * 2 ^ rateLog s

/-- A in samples (R303, Table 3). -/
def groupDelay (s : State) (n : Nat) : Nat :=
  match adcSet s n, rateLog s with
  | 0, 0 => 15 | 0, 1 => 18 | 0, _ => 24
  | 1, 0 => 3 | 1, _ => 5
  | 2, 0 => fld s R.adcCdelay 7 0 | 2, 1 => fld s R.adcCdelay 15 8 | 2, _ => fld s R.adcCdelay 23 16
  | _, _ => scsPeriod s n / 2

/-- Δ: samples from one value to the next (R315). -/
def valueStep (s : State) (n : Nat) : Nat := if adcSet s n = 3 then scsPeriod s n else 1

/-- S: samples delivered before a channel that starts at sample time u has settled; in single-cycle settling, up to the delivery of the
first whole period (R303, R306, R311). -/
def settleSamples (s : State) (n u : Nat) : Nat :=
  match adcSet s n, rateLog s with
  | 0, 0 => 31 | 0, 1 => 37 | 0, _ => 49
  | 1, 0 => 13 | 1, _ => 21
  | 2, _ => 2 * groupDelay s n + 1
  | _, _ => let p := scsPeriod s n
    ((u + p - 1) / p + 1) * p - u + 1

/-- ADC.CHSTATn as it reads: A and P (R319). -/
def adcChstat (s : State) (n : Nat) : Word :=
  if deviceApplied s then w32 (groupDelay s n % 256 + valueStep s n % 256 * 256) else 0

/-- ADC.TRIMn as it reads: the terms of the present range (R307, R319). -/
def adcTrim (s : State) (n : Nat) : Word :=
  let c := adcOf s n
  let r := fld s (adcChReg n) 5 5
  if s.boot.calApplied then pairWord (nth c.ofac r 0) (nth c.gfac r 0) else 0

/-! ### Starting, settling, stopping (R309, R311, R312) -/

/-- A detector begins afresh: no previous value, its windows discarded (R314, R316). -/
def freshDetector (s : State) (x : Nat) : State := onDet s x fun d => { d with last := none, windows := [] }

/-- A detector is enabled: the first value it evaluates sets its state; a window that is still open goes on, for only a stop of the chain or
a SYNC discards its event (R314, R316). -/
def enableDetector (s : State) (x : Nat) : State := onDet s x fun d => { d with last := none }

/-- Both detectors of a channel begin afresh. -/
def freshDetectors (s : State) (n : Nat) : State := freshDetector (freshDetector s (2 * n)) (2 * n + 1)

/-- A channel with cleared stages and sums (R309, R312). -/
def clearedAdc (c : AdcSt) : AdcSt := { c with fresh := true, cut := false, stages := [], sum := 0, held := 0, settle := 0, given := none }

/-- A channel starts at a sample time from cleared state: the stages up to the tap run, and SETTLE is set (R301, R309, R311). -/
def startChannel (s : State) (n u : Nat) : State :=
  let k := settleSamples s n u
  let stages := List.replicate (8 - rateLog s) ({} : StageSt)
  freshDetectors (setFlag (onAdc s n fun c => { clearedAdc c with running := true, settle := k, stages := stages }) R.adcStat n) n

/-- A channel stops and loses its state (R309). -/
def stopChannel (s : State) (n : Nat) : State :=
  freshDetectors (clrFlag (onAdc s n fun c => { clearedAdc c with running := false }) R.adcStat n) n

/-- A channel is to run: PD6 on, RUN and EN. -/
def channelWanted (s : State) (n : Nat) : Bool := domainOn s 6 && flag s R.adcCtrl 0 && flag s (adcChReg n) 0

/-- At the boundary of sample time u each channel follows RUN and EN: a chain for which either has been 0 loses its state there, and starts
afresh where both are 1 again (R309). -/
def followRun (u : Nat) (s : State) (n : Nat) : State :=
  let c := adcOf s n
  if channelWanted s n = c.running ∧ ¬ (c.running ∧ c.cut) then s
  else if channelWanted s n then startChannel s n u else stopChannel s n

/-- RUN or a channel's EN is written 0: the chains of those channels stop at the next sample boundary (R309). -/
def cutChannels (s : State) (on : Nat → Bool) : State :=
  { s with analog := { s.analog with adc := ((List.range 16).zip s.analog.adc).map fun (n, c) =>
      { c with cut := c.cut || (on n && c.running) } } }

/-- A SYNC clears every decimator, and running channels restart; the frames count anew for overloads (R312, R313). -/
def syncInputs (s : State) : State :=
  (List.range 16).foldl (fun s n =>
    let s := onAdc s n fun c => { c with ovlFrame := none, given := none }
    if (adcOf s n).running then startChannel s n 0 else s) s

/-- A channel has settled: its detectors take their state from the next value (R311, R314). -/
def settled (s : State) (n : Nat) : State :=
  freshDetectors (clrFlag (onAdc s n fun c => { c with settle := 0 }) R.adcStat n) n

/-! ### The decimation chain (R300 to R306, R313) -/

/-- Modulator clocks in a sample: 256, 128 or 64 (R271, R306). -/
def clocksPerSample (s : State) : Nat := 256 / 2 ^ rateLog s

/-- The AOTIME of the i-th modulator clock edge from the epoch (R312). -/
def clockTime (s : State) (i : Nat) : Nat := (s.time.epoch + w64 (2 * i)).toNat

/-- The modulator code of channel n at a clock edge: −4 to +4 (R300). -/
def modulatorCodeAt (n t : Nat) : Int := ((Config.modulatorCode n t).val : Int) - 4

/-- What stage 1 takes at a clock edge, as a code: for the 16 clocks of a reset of the modulator's loop the value it holds (R313). -/
def stageOneCode (c : AdcSt) (n t : Nat) : Int :=
  match c.holds.find? fun h => h.1.toNat ≤ t && t < h.1.toNat + 32 with
  | some h => h.2
  | none => modulatorCodeAt n t

/-- The custom coefficient at an address. -/
def customCoef (s : State) (a : Nat) : Word := (mapGet s.analog.coefs a).getD (Config.linearPhaseCoefficient a)

/-- Coefficient i of stage k of channel n's set, signed Q2.30 (R301 to R304). -/
def stageCoef (s : State) (n k i : Nat) : Int :=
  let a := 128 * (k - 5) + i
  if k ≤ 4 then (Config.fixedCoefficient k i).toInt
  else match adcSet s n with
    | 0 => (Config.linearPhaseCoefficient a).toInt
    | 1 => if k ≤ 6 then (Config.linearPhaseCoefficient a).toInt else (Config.lowLatencyCoefficient a).toInt
    | _ => (customCoef s a).toInt

/-- How many coefficients stage k has (R301, Table 2). -/
def stageTaps (k : Nat) : Nat :=
  match k with
  | 1 => 7 | 2 => 11 | 3 => 15 | 4 => 23 | _ => 128

/-- A word of 40 bits (R302). -/
def narrow40 (x : Int) : BitVec 40 := if -(2 ^ 39) ≤ x ∧ x < 2 ^ 39 then BitVec.ofInt 40 x else Config.beyond40 x

/-- y[j]: the sum of a stage over its inputs, the newest first, rounded convergently (R302). -/
def stageSum (h : Nat → Int) (line : List (BitVec 40)) : BitVec 40 :=
  narrow40 (rne (((List.range line.length).zip line).map fun x => h x.1 * x.2.toInt).sum (2 ^ 30))

/-- A word enters stage k: an input of even index gives an output, which enters the stage after it; the output of the last is the tap's
(R301, R302). -/
def feedStages (h : Nat → Nat → Int) : Nat → List StageSt → BitVec 40 → List StageSt × Option (BitVec 40)
  | _, [], x => ([], some x)
  | k, st :: rest, x =>
    let line := (x :: st.line).take (stageTaps k)
    if st.odd then ({ line, odd := false } :: rest, none)
    else
      let (rest, y) := feedStages h (k + 1) rest (stageSum (h k) line)
      ({ line, odd := true } :: rest, y)

/-- The stages after the modulator clocks up to sample time u, and the latest tap word (R302, R309). -/
def chainSample (s : State) (n u : Nat) : List StageSt × BitVec 40 :=
  let c := adcOf s n
  let d := clocksPerSample s
  let clocks := if c.fresh then [d * u] else (List.range d).map fun i => d * (u - 1) + 1 + i
  clocks.foldl (fun acc i =>
    let (st, y) := feedStages (stageCoef s n) 1 acc.1 (BitVec.ofInt 40 (5 * 2 ^ 27 * stageOneCode c n (clockTime s i)))
    (st, y.getD acc.2)) (c.stages, 0)

/-- The sum of the modulator codes of the sample period that ends at sample time u (R306). -/
def periodSum (s : State) (n u : Nat) : Int :=
  let d := clocksPerSample s
  if (adcOf s n).fresh then 0
  else ((List.range d).map fun i => modulatorCodeAt n (clockTime s (d * (u - 1) + i))).sum

/-- The chain of a running channel takes the modulator codes up to sample time u: its tap value, or at a period boundary the exact value
of the period (R302, R306). Resets of the loop that are over are forgotten. -/
def chainTick (s : State) (n u : Nat) : State × Int :=
  let passed := clockTime s (clocksPerSample s * u)
  let keep := fun (c : AdcSt) => { c with fresh := false, holds := c.holds.filter fun h => passed < h.1.toNat + 32 }
  if adcSet s n = 3 then
    let sum := (adcOf s n).sum + periodSum s n u
    let done := u % scsPeriod s n = 0
    (onAdc s n fun c => { keep c with sum := if done then 0 else sum }, sum * 5 * 2 ^ (17 - fld s (adcChReg n) 4 3))
  else
    let (stages, y) := chainSample s n u
    (onAdc s n fun c => { keep c with stages := stages }, y.toInt)

/-! ### Threshold detectors (R314 to R317) -/

/-- The value a detector compares (R314). -/
def detValue (s : State) (x : Nat) (v : Int) : Int :=
  if flag s (R.adcTctl + 16 * x) 3 then satS32 (v.natAbs : Int) else v

/-- The stamp of a crossing of level lam between w0 at ball time b0 and w1, step later (R315). -/
def crossingStamp (b0 : DWord) (step : Nat) (w0 w1 lam : Int) : DWord :=
  let num := 256 * (step : Int) * (lam - w0)
  let den := w1 - w0
  let part := if den < 0 then rne (-num) den.natAbs else rne num den.natAbs
  w64 (256 * b0.toNat) + w64 (max 1 part).toNat

/-- A detector evaluates one value: its state, and the level crossed with whether it rose (R314). -/
def evaluate (s : State) (x : Nat) (w : Int) : State × Option (Bool × Int) :=
  let level := (rd s (R.adcTlevel + 16 * x)).toInt
  let low := level - (rd s (R.adcThyst + 16 * x)).toNat
  let high := flag s (R.adcTctl + 16 * x) 31
  let first := (detOf s x).last.isNone
  let s := onDet s x fun d => { d with last := some w }
  let put := fun b => wrFld s (R.adcTctl + 16 * x) 31 31 (b2n b)
  if first then (put (decide (level ≤ w)), none)
  else if !high && decide (level ≤ w) then (put true, some (true, level))
  else if high && decide (w < low) then (put false, some (false, low))
  else (s, none)

/-- EDGE selects a crossing (R314). -/
def edgeSelected (s : State) (x : Nat) (rising : Bool) : Bool :=
  match fld s (R.adcTctl + 16 * x) 2 1 with
  | 0 => rising
  | 1 => !rising
  | _ => true

/-- A THRESH event goes to the fabric (R316). -/
def threshEvent (s : State) (x : Nat) (stamp : DWord) (value : Int) : State :=
  offerEvent s 13 { mkEvent stamp 0x0B 0 x 0 with value := BitVec.ofInt 32 value } s.time.aoTime

/-- A crossing that EDGE selects outside the hold-off begins an event: at once with PEAKW = 0, else when its window closes
(R316, R317). -/
def beginEvent (s : State) (x : Nat) (stamp : DWord) (w : Int) : State :=
  let s := onDet s x fun d => { d with hold := fld s (R.adcTctl + 16 * x) 23 8 }
  if fld s (R.adcTctl + 16 * x) 7 4 = 0 then threshEvent s x stamp w
  else onDet s x fun d => { d with windows := d.windows ++ [(stamp, w, fld s (R.adcTctl + 16 * x) 7 4)] }

/-- The value of larger magnitude, the earlier among equals (R316). -/
def peakOf (best w : Int) : Int := if best.natAbs < w.natAbs then w else best

/-- The open windows of a detector take the next value; those it closes hand their events over, the oldest first (R316). -/
def runWindows (s : State) (x : Nat) (w : Int) : State :=
  let all := (detOf s x).windows.map fun v => (v.1, peakOf v.2.1 w, v.2.2 - 1)
  let s := onDet s x fun d => { d with windows := all.filter fun v => v.2.2 ≠ 0 }
  (all.filter fun v => v.2.2 = 0).foldl (fun t v => threshEvent t x v.1 v.2.1) s

/-- Detector x evaluates the value w that stands for ball time b: a crossing that EDGE selects begins an event where HOLD samples have been
delivered since the last (R314 to R317). -/
def detect (s : State) (x : Nat) (w : Int) (b : DWord) : State :=
  let d := detOf s x
  let step := valueStep s (x / 2)
  match evaluate s x w, d.last with
  | (s, some (rising, lam)), some w0 =>
    if edgeSelected s x rising && d.hold = 0 then beginEvent s x (crossingStamp (b - w64 step) step w0 w lam) w
    else s
  | (s, _), _ => s

/-- A detector's windows take values: its channel runs and has settled. -/
def watching (s : State) (x : Nat) : Bool := (adcOf s (x / 2)).running && (adcOf s (x / 2)).settle = 0

/-- A detector of a channel takes the channel's sample: its open windows whether or not it is enabled, and while it is, its evaluation
(R314, R316). -/
def detectSample (s : State) (x : Nat) (v : Int) (b : DWord) : State :=
  if !watching s x then s
  else
    let w := detValue s x v
    let s := runWindows s x w
    if flag s (R.adcTctl + 16 * x) 0 then detect s x w b else s

/-! ### Samples and the input ring (R308 to R311) -/

/-- x′ of a tap value, and whether it saturated (R308). -/
def trimmed (s : State) (n : Nat) (x : Int) : Int × Bool :=
  let c := adcOf s n
  let r := fld s (adcChReg n) 5 5
  let v := x + rne (x * nth c.gfac r 0) (2 ^ 24) + 256 * nth c.ofac r 0
  (satS32 v, satS32 v ≠ v)

/-- The ring address of channel n's sample at sample time u (R310). -/
def inputAddr (s : State) (n u : Nat) : Nat :=
  (rd s R.adcIbase).toNat + 0x400 * (u / 16 % 4) + 64 * n + 4 * (u % 16)

/-- A sample is written into the ring. -/
def writeInput (s : State) (n u : Nat) (v : Word) : State := memStore s 3 (inputAddr s n u) 4 (v.setWidth 64)

/-- The hold-offs of a channel's detectors count a delivered sample (R317). -/
def holdCount (s : State) (n : Nat) : State :=
  let down := fun (d : DetectorSt) => { d with hold := d.hold - 1 }
  onDet (onDet s (2 * n) down) (2 * n + 1) down

/-- A value becomes the channel's sample of sample time u: trimmed, written into the ring, and, where the channel had settled before, taken
by both detectors as standing for ball time u − A (R308, R309, R314 to R316). -/
def deliverValue (s : State) (n u : Nat) (x : Int) (watched : Bool) : State :=
  let (v, sat) := trimmed s n x
  let s := if sat then setFlag s R.adcFlag n else s
  let word := BitVec.ofInt 32 v
  let s := writeInput (onAdc s n fun c => { c with held := word }) n u word
  let b := w64 u - w64 (groupDelay s n)
  if watched then detectSample (detectSample s (2 * n) v b) (2 * n + 1) v b else s

/-- In single-cycle settling a sample time that is no period boundary repeats the value (R306). -/
def repeatsValue (s : State) (n u : Nat) : Bool := adcSet s n = 3 && u % scsPeriod s n ≠ 0

/-- A running channel delivers its sample of sample time u: S of them settle it; in single-cycle settling 0 until its first whole period
(R306, R309 to R311). -/
def deliverSample (s : State) (n u : Nat) (x : Int) : State :=
  let left := (adcOf s n).settle
  let s := holdCount (if left = 1 then settled s n else onAdc s n fun c => { c with settle := c.settle - 1 }) n
  if adcSet s n = 3 ∧ 1 < left then writeInput s n u 0
  else if repeatsValue s n u then writeInput s n u (adcOf s n).held
  else deliverValue s n u x (left = 0)

/-- One sample time of channel n: its chain takes the modulator codes, and its sample is delivered unless a command has delivered it
(log 129); a stopped channel delivers 0 (R309, R310). -/
def adcSample (u : Nat) (s : State) (n : Nat) : State :=
  let s := followRun u s n
  if !(adcOf s n).running then writeInput (holdCount s n) n u 0
  else
    let (s, x) := chainTick s n u
    if (adcOf s n).given = some u then s else deliverSample s n u x

/-- Every channel delivers one sample; while PD6 is off no frame is written (R310). -/
def adcTick (s : State) : State :=
  if !domainOn s 6 || !s.time.epochSet then s else (List.range 16).foldl (adcSample (nowSample s)) s

/-- The sample time whose samples have not been delivered yet (log 129). -/
def nextSample (s : State) : Nat := if s.time.ticked = some (nowSample s) then nowSample s + 1 else nowSample s

/-- A command can deliver the next sample of a channel: it runs and goes on at that boundary (R309), no command has delivered it, and a new
value is due. -/
def canDeliver (s : State) (n : Nat) : Bool :=
  (adcOf s n).running && channelWanted s n && !(adcOf s n).cut && (adcOf s n).given ≠ some (nextSample s) && !repeatsValue s n (nextSample s)

/-- A command delivers the next sample of a channel, in place of what the chain makes of the model's own codes (DESIGN CHOICE, log 129). -/
def giveSample (s : State) (n : Nat) (x : Int) : State :=
  let u := nextSample s
  deliverSample (onAdc s n fun c => { c with given := some u }) n u x

/-- SETTLE_DONE: the channel delivers the last of its S samples, with its tap value (R311). -/
def execSettleDone (n : Fin 16) (tap : BitVec 40) (s : State) : Host.Outcome State Fault Refusal :=
  if canDeliver s n && (adcOf s n).settle = 1 then .next (giveSample s n tap.toInt) else .next s

/-- THRESHOLD_CROSSING: the channel of detector x delivers a tap value: it is trimmed and written into the ring, and both detectors of the
channel evaluate it (R308, R310, R314 to R316). -/
def execThresholdCrossing (x : Fin 32) (tap : BitVec 40) (s : State) : Host.Outcome State Fault Refusal :=
  if canDeliver s (x.val / 2) then .next (giveSample s (x.val / 2) tap.toInt) else .next s

/-- A peak window of detector x closes with the next value. -/
def windowCloses (s : State) (x : Nat) : Bool := watching s x && (detOf s x).windows.any fun v => v.2.2 = 1

/-- THRESHOLD_EVENT: the channel delivers the last value of a peak window of detector x, and the event goes to the fabric with the peak
(R316). -/
def execThresholdEvent (x : Fin 32) (tap : BitVec 40) (s : State) : Host.Outcome State Fault Refusal :=
  if windowCloses s x && canDeliver s (x.val / 2) then .next (giveSample s (x.val / 2) tap.toInt) else .next s

/-- HOLDOFF_END: the last sample of a detector's hold-off is delivered (R317). -/
def execHoldoffEnd (x : Fin 32) (s : State) : Host.Outcome State Fault Refusal :=
  if (detOf s x).hold = 1 then .next (onDet s x fun d => { d with hold := 0 }) else .next s

/-! ### Overloads (R313) -/

/-- The loop of a channel's modulator is reset: for 16 modulator clocks stage 1 takes the sign of the last code times 4 (R313). -/
def resetLoop (s : State) (n : Nat) : State :=
  let now := s.time.aoTime + (s.time.aoTime - s.time.epoch) % 2
  onAdc s n fun c => { c with holds := c.holds ++ [(now, 4 * (stageOneCode c n (now - 2).toNat).sign)] }

/-- MODULATOR_OVERLOAD: the modulator of a channel left its stable range and its loop is reset; resets is how many times in the frame, which
is that of the samples under way (R17, R313). While PD6 is off the modulators do not run. -/
def execModulatorOverload (n : Fin 16) (resets : Word) (s : State) : Host.Outcome State Fault Refusal :=
  if !domainOn s 6 then .next s
  else
    let s := setFlag (resetLoop s n) R.adcFlag (16 + n.val)
    let frame := nowSample s / 16
    if (adcOf s n).ovlFrame = some frame then .next s
    else .next (raiseGloss (onAdc s n fun c => { c with ovlFrame := some frame }) 0x7130 (w32 n) (w32 frame) resets)

/-! ### The custom set (R304, R305) -/

/-- A custom-set write while RUN reads 1 is ignored (R305). -/
def customIgnored (s : State) : State := setFlag s R.adcStat 31

/-- A write to ADC.CDATA (R304, R305). -/
def writeCdata (s : State) (v : Word) : State :=
  if flag s R.adcCtrl 0 then customIgnored s
  else
    let a := fld s R.adcCaddr 8 0
    wrFld { s with analog := { s.analog with coefs := mapPut s.analog.coefs a v } } R.adcCaddr 8 0 (a + 1)

/-- A write to ADC.CDELAY: ignored while RUN reads 1, whatever its fields hold, and otherwise undefined above 64 (R305, R319). -/
def writeCdelay (s : State) (v : Word) : State :=
  if flag s R.adcCtrl 0 then customIgnored s
  else if 64 < bits v 23 16 ∨ 64 < bits v 15 8 ∨ 64 < bits v 7 0 then refuse s R.adcCdelay true
  else wrFld s R.adcCdelay 23 0 v.toNat

/-- PD6 comes on: the inputs are as after reset, the custom table that of the linear-phase set (R305, R310). -/
def resetInputs (s : State) : State :=
  let s := { s with regs := s.regs.filter fun r => pageOf r.1 ≠ R.adcPage }
  { s with analog := { s.analog with
      coefs := [], det := List.replicate 32 {},
      adc := s.analog.adc.map fun c => { ({} : AdcSt) with ofac := c.ofac, gfac := c.gfac } } }

end Sys2Proof.Machine
end

