-- ==== Sys2Proof/Machine/Alloc.lean ====
section
/-! DEFINITION. The allocator (R177 to R201) and admission (R136): slots, stealing, fades and cuts, note-offs, note stacks,
retriggers, pedals, part controls. Each operation acts on the open frame's step 3. -/

namespace Sys2Proof.Machine

/-! ### Settings and counts (R180, R181) -/

/-- ALLOC.SLOTS. -/
def slotCount (s : State) : Nat := fld s R.allocSlots 10 0

/-- MIN_p. -/
def poolMin (s : State) (p : Nat) : Nat := fld s (R.allocPool + 4 * p) 21 11

/-- MAX_p; above ALLOC.SLOTS it acts as ALLOC.SLOTS. -/
def poolMax (s : State) (p : Nat) : Nat := min (fld s (R.allocPool + 4 * p) 10 0) (slotCount s)

/-- PRIO_p. -/
def poolPrio (s : State) (p : Nat) : Nat := fld s (R.allocPool + 4 * p) 25 22

/-- n_p. -/
def poolCount (s : State) (p : Nat) : Nat := (s.phrases.filter fun q => q.sounds && q.pool = p).length

/-- Is a slot or fade slot FREE. -/
def slotFree (s : State) (k : Nat) : Bool := (phraseAt s k).isNone

/-- The free logical slots, ascending. -/
def freeSlots (s : State) : List Nat := idxs (slotCount s) (slotFree s)

/-- The free fade slots, ascending. -/
def freeFades (s : State) : List Nat := ((List.range 32).map (1024 + ·)).filter (slotFree s)

/-- Res_p (R181). -/
def reserveOwed (s : State) (p : Nat) : Nat :=
  (((List.range 16).filter (· ≠ p)).map fun q => poolMin s q - poolCount s q).sum

/-- The slot a Phrase of pool p takes, if it may take one (R181). -/
def takeSlot (s : State) (p : Nat) : Option Nat :=
  match freeSlots s with
  | [] => none
  | k :: rest => if poolCount s p < poolMax s p ∧ reserveOwed s p < rest.length + 1 then some k else none

/-! ### The steal order (R184 to R187) -/

/-- The attenuation code of a level (R185). -/
def slOf (level : Word) : Nat :=
  if level.toInt ≤ 0 then 16383
  else (min 16383 (rne (-(log2F level.toNat) * 25252226) (2 ^ 40))).toNat

/-- The attenuation code of a Phrase: on the root of a system, that of its latest report (R366); a worker, which chooses no victim, has
the level of a Phrase of its own. -/
def phraseSl (s : State) (p : Phrase) : Nat :=
  if tiersOf s = 0 || (isWorker s && p.dev.isNone) then slOf p.level else p.rsl.getD (slOf 0x7FFFFFFF)

/-- Stamp a is older than stamp b (R178). -/
def older (a b : Word) : Bool := serialBelow a b

/-- A candidate comes before another in the steal order (R186). -/
def stealsBefore (s : State) (a b : Phrase) : Bool :=
  let held := fun p : Phrase => p.state = 1
  if held a ≠ held b then !held a
  else if phraseSl s a ≠ phraseSl s b then phraseSl s b < phraseSl s a
  else if older a.aseq b.aseq then true
  else if older b.aseq a.aseq then false
  else if poolPrio s a.pool ≠ poolPrio s b.pool then poolPrio s a.pool < poolPrio s b.pool
  else a.pos < b.pos

/-- The victim among candidates taken in turn (R186). -/
def chooseVictim (s : State) : List Phrase → Option Phrase → Option Phrase
  | [], best => best
  | p :: ps, none => chooseVictim s ps (some p)
  | p :: ps, some b => chooseVictim s ps (some (if stealsBefore s p b then p else b))

/-- The Phrases that may be stolen at all: sounding, not global, not created or retriggered in this step (R187). -/
def stealable (s : State) : List Phrase := s.phrases.filter fun p => p.sounds && p.touched ≠ s.time.frame

/-- The candidates of the second case of R182 for pool p: pool p, and every pool above its reserve. -/
def sharedCandidates (s : State) (p extra : Nat) : List Phrase :=
  (stealable s).filter fun q =>
    q.pool = p || poolMin s q.pool < poolCount s q.pool + (if q.pool = p then extra else 0)

/-- The candidates for a slot of pool p (R182). -/
def slotCandidates (s : State) (p : Nat) : List Phrase :=
  if flag s (R.allocPool + 4 * p) 26 then []
  else if poolCount s p = poolMax s p then (stealable s).filter fun q => q.pool = p
  else sharedCandidates s p 0

/-- The victim for a slot of pool p (R182). -/
def slotVictim (s : State) (p : Nat) : Option Phrase := chooseVictim s (slotCandidates s p) none

/-- A steal decided among candidates whose level was lost makes the allocation state of a system diverged (R367). -/
def lostLevels (s : State) (cands : List Phrase) : State := if cands.any (·.rlost) then setFlag s R.linkStat 1 else s

/-! ### Records of step 3 (R363) -/

/-- An empty record. -/
def noRecord : FrmRecord :=
  { op := 0, flags := 0, slot := 0, dev := 0, lane := 0, aseq := 0, keypart := 0, noteId := 0, vel := 0, sid := 0, pool := 0,
    uni := 0, pos := 0, aux := 0 }

/-- A key and a part in one word: key below, part above (KEYPART of Table 7 of the link chapter). -/
def keyPart (key part : Nat) : Nat := key % 4096 + 4096 * part

/-- A record joins those of the open frame. -/
def addRecord (s : State) (r : FrmRecord) : State :=
  { s with alloc := { s.alloc with recs := s.alloc.recs ++ [r] } }

/-- RMAX (R364). -/
def recordMax (s : State) : Nat := 24 / 2 ^ rateLog s

/-! ### Fades and cuts (R188, R190) -/

/-- The 16 values of a cut tail for a held value. -/
def tailValues (v : Word) : List DWord :=
  (List.range 16).map fun j => BitVec.ofInt 64 (rne (v.toInt * rampC (256 * (j + 1))) (2 ^ 31))

/-- A tail is added to a bus of the open frame; a bus outside 0 to 63 receives none. -/
def addTail (s : State) (bus : Int) (v : Word) : State :=
  if 0 ≤ bus ∧ bus ≤ 63 then
    ((List.range 16).zip (tailValues v)).foldl (fun t (j, x) => memAdd t 2 (busAddr t.time.frame bus.toNat j) x) s
  else s

/-- A 32-bit value the mix port reads from local memory. -/
def readLocal32 (s : State) (a : Nat) : State × Word :=
  let (s, d, _, _) := memLoad s 2 a 4
  (s, BitVec.ofNat 32 d.toNat)

/-- The tails of the SEND Words of a cut Phrase (R190). -/
def cutTails (s : State) (p : Phrase) : State :=
  match p.home, synOf s p.sid with
  | some v, some x =>
    (x.words.filter fun w => w.typ = 0x0602).foldl (fun s w =>
      let v0 := readLocal32 s (xAddr p v + w.xoff)
      let v1 := readLocal32 v0.1 (xAddr p v + w.xoff + 4)
      let bus := if w.npar = 0 then (v1.1, (0 : Word)) else readLocal32 v1.1 (xAddr p v + 0x140 + 16 * w.pbase + 8)
      addTail (addTail bus.1 bus.2.toInt v0.2) (bus.2.toInt + 1) v1.2) s
  | _, _ => s

/-- A victim is cut: it is FREE at once, its SENDs leave tails, and the cut is counted and logged (R188, R190). -/
def cutPhrase (s : State) (p : Phrase) (key part : Nat) : State :=
  let s := cutTails s p
  let s := raiseGloss (countUp s R.allocCut) 0x4101 (w32 p.pos) 0xFFFF (w32 (keyPart key part))
  addRecord (freePhrase s p.pos) { noRecord with op := 5, slot := BitVec.ofNat 16 p.pos, aux := 0xFFFF }

/-- A Phrase becomes FADING in a fade slot: no further event reaches it (R188, R189). -/
def toFading (s : State) (old fade : Nat) : State :=
  movePos s old fade fun p => { p with state := 4, fadeRem := fld s R.allocFade 9 0, evs := [], deferred := [], ends := none }

/-- A victim fades: it moves to the lowest free fade slot, counted and logged (R188). -/
def fadePhrase (s : State) (p : Phrase) (fade key part : Nat) : State :=
  let s := raiseGloss (countUp s R.allocSteal) 0x4100 (w32 p.pos) (w32 fade) (w32 (keyPart key part))
  addRecord (toFading s p.pos fade) { noRecord with op := 5, slot := BitVec.ofNat 16 p.pos, aux := w32 fade }

/-- A victim leaves its slot: it fades where a fade slot is free and admission does not require a cut (R136, R188). -/
def stealPhrase (s : State) (p : Phrase) (mustCut : Bool) (key part : Nat) : State :=
  match mustCut, freeFades s with
  | false, f :: _ => fadePhrase s p f key part
  | _, _ => cutPhrase s p key part

/-! ### Admission (R136) -/

/-- The lanes a Phrase may be admitted on: the device's, or in an image with tiers the system's (R373). -/
def admissionLanes (s : State) : List Nat :=
  if tiersOf s = 0 then List.range (lanesOf s)
  else ((List.range (fld s R.linkCfg 25 19)).map fun g => (List.range (lanesOf s)).map fun i => 16 * g + i).flatten

/-- The lane cap test for cost c. -/
def passesCapl (s : State) (l c : Nat) : Bool := laneN s l + c + globalReserve s ≤ capl s

/-- The fade cap test for cost c. -/
def passesFcapl (s : State) (l c : Nat) : Bool := laneN s l + laneF s l + c + globalReserve s ≤ fcapl s

/-- The lane that takes cost c, if any: the smallest N + F, then the lowest number. -/
def admissionLane (s : State) (c : Nat) : Option Nat :=
  leastBy (fun l => laneN s l + laneF s l) ((admissionLanes s).filter fun l => passesCapl s l c && passesFcapl s l c)

/-! ### Devices of a system (R372) -/

/-- W_d of a worker, or of the root (none): the cost placed on it, counting FADING Phrases. -/
def deviceLoad (s : State) (d : Option Nat) : Nat :=
  ((s.phrases.filter fun p => !p.isGlobal && !p.adrift && p.dev = d).map fun p => costOf s p.sid).sum

/-- A device by its PLAN entry: present, and not marked late; the root is always both. -/
def devicePresent (s : State) (d : Option Nat) : Bool :=
  match d with
  | none => true
  | some a => s.sys.devices.any fun x => x.addr = a && x.present && x.late = 0

/-- The Verbs of a device. -/
def deviceVerbs (s : State) (d : Option Nat) : Nat :=
  match d with
  | none => (activeVerbs s).length
  | some a => match s.sys.devices.find? fun x => x.addr = a with | some x => x.verbs | none => 0

/-- The device a new Phrase of cost c goes to on lane l (R372): answers none when it is unplaced. -/
def deviceFor (s : State) (l c : Nat) : Option (Option Nat) :=
  if tiersOf s = 0 then some none
  else
    let e := R.linkPlan + 4 * (l / 16)
    let named := if flag s e 15 then none else some (fld s e 13 0)
    if devicePresent s named then some named
    else
      let all := none :: (s.sys.devices.map fun x => some x.addr)
      leastBy (fun d => deviceLoad s d * 32768 + (match d with | none => 0 | some a => a + 1))
        (all.filter fun d => devicePresent s d &&
          deviceLoad s d + c ≤ deviceVerbs s d * verbCyclesPerFrame s * fld s R.parserDlim 9 0 / 1000)

/-! ### Event-list entries -/

/-- A position within its frame (R50). -/
def posIn (pos : DWord) : Nat := pos.toNat % 4096

/-- An entry joins a Phrase's list for the open frame (R51). -/
def pushEntry (p : Phrase) (e : EvEntry) : Phrase := { p with evs := p.evs ++ [e] }

/-- A GATE_ON or GATE_OFF entry. -/
def gateEntry (kind : Nat) (pos : DWord) (late : Bool) (vel noteId : Nat) : EvEntry :=
  { pos := posIn pos, kind, word := 0xFF, pidx := 0, late, deferred := false, smooth := 0, value := w32 (vel * 65536 + noteId) }

/-- A PARAM entry. -/
def paramEvent (pos : DWord) (late : Bool) (word pidx smooth : Nat) (value : Word) : EvEntry :=
  { pos := posIn pos, kind := 5, word, pidx, late, deferred := false, smooth, value }

/-- PARAM entries to every parameter with a binding. -/
def boundEntries (s : State) (p : Phrase) (bind : Nat) (pos : DWord) (late : Bool) (smooth : Nat) (val : SynParam → Word) :
    List EvEntry :=
  match synOf s p.sid with
  | none => []
  | some x => (boundParams x bind).map fun (w, i, q) => paramEvent pos late w i smooth (val q)

/-- The value t of a control record for an event value u, in the signedness given (R225). -/
def controlValue (c : Control) (unsignedFmt : Bool) (u : Nat) : Int :=
  let rdw := fun w : Word => if unsignedFmt then (w.toNat : Int) else w.toInt
  rdw c.lo + rne ((rdw c.hi - rdw c.lo) * u) (2 ^ 32 - 1)

/-- The smoothing length of a PARAM event (R42): 0xFFFF stands for the parameter's default, and a length above 4,096 for 4,096 (DEDUCED,
log 117: the entry holds the length in force). -/
def smoothLength (q : Option SynParam) (n : Nat) : Nat :=
  min 4096 (if n = 0xFFFF then (match q with | some q => q.smooth | none => 0) else n)

/-- The PARAM entry a control record of TTYPE 0 or 1 makes in a Phrase (R225, R226): none where the Syntax lacks the Word or
the parameter. -/
def controlEntry (s : State) (c : Control) (p : Phrase) (u smooth : Nat) (pos : DWord) (late : Bool) : Option EvEntry :=
  match synOf s p.sid with
  | none => none
  | some x =>
    let word := c.target % 256
    let pidx := c.target / 256 % 256
    match x.words[word]? with
    | none => none
    | some w =>
      if w.npar ≤ pidx then none
      else
        let fmt := match x.params[w.pbase + pidx]? with | some q => q.fmt | none => 6
        let smooth := smoothLength x.params[w.pbase + pidx]? smooth
        let t := controlValue c (fmt = 2 || fmt = 4 || fmt = 5) u
        some (paramEvent pos late word pidx smooth (BitVec.ofInt 32 t))

/-- Does a control record's SID name the Syntax. -/
def controlSid (c : Control) (sid : Nat) : Bool := c.target / 65536 % 256 = 0xFF || c.target / 65536 % 256 = sid

/-! ### Creating a Phrase (R47, R177 to R179, R227) -/

/-- The Phrase of a request in a slot on a lane. -/
def newPhrase (s : State) (r : NoteReq) (t : Todo) (slot lane : Nat) (aseq : Word) (dev : Option Nat) : Phrase :=
  { pos := slot, sid := t.layer.sid, isGlobal := false, state := 1, first := true, part := r.part, pool := t.layer.pool,
    key := r.key, noteId := r.noteId, vel := r.vel, relVel := 0, offVel := 0, uni := t.uni + 16 * (t.layer.uni - 1),
    layer := t.lidx, aseq, start := r.pos, gateOff := 0xFFFFFFFFFFFFFFFF, age := 0, lane, home := none, xbase := 0,
    ybase := 0, level := 0x7FFFFFFF, fadeRem := 0, latched := false, diverged := false, created := s.time.frame,
    touched := s.time.frame, ends := none, evs := [], deferred := [], works := [], move := none, moved := false,
    farea := none, dev, rsl := none, rend := false, rlost := false }

/-- Its first event list: GATE_ON at START, then the held values of its part in record order (R48, R227). -/
def firstEntries (s : State) (r : NoteReq) (p : Phrase) : List EvEntry :=
  gateEntry 1 r.pos r.late r.vel r.noteId ::
    r.held.filterMap fun (k, u) =>
      match nth s.evt.map.controls k none with
      | some c => if controlSid c p.sid then controlEntry s c p u.toNat 0 r.pos r.late else none
      | none => none

/-- A Phrase is put in its slot with its event list, and placed if it is this device's (R47, R138). -/
def putPhrase (s : State) (r : NoteReq) (p : Phrase) : State :=
  let p := { p with evs := firstEntries s r p }
  placePhrase { s with phrases := insertPhrase p s.phrases } p.pos

/-- The CREATE record of a Phrase. -/
def createRecord (r : NoteReq) (p : Phrase) : FrmRecord :=
  { noRecord with
    op := 1, slot := BitVec.ofNat 16 p.pos,
    dev := (match p.dev with | none => 0x8000 | some a => BitVec.ofNat 16 a),
    lane := BitVec.ofNat 16 p.lane, aseq := p.aseq, keypart := BitVec.ofNat 16 (keyPart r.key r.part),
    noteId := BitVec.ofNat 16 r.noteId, vel := BitVec.ofNat 16 r.vel, sid := BitVec.ofNat 8 p.sid,
    pool := BitVec.ofNat 8 (p.pool + 16 * p.layer), uni := BitVec.ofNat 8 p.uni, pos := BitVec.ofNat 16 (posIn r.pos) }

/-- The device of a new Phrase, and whether no device can take it, so that it stays unplaced (R139, R372). -/
def unplacedDev (s : State) (l c : Nat) : Option Nat × Bool :=
  match deviceFor s l c with
  | some d => (d, false)
  | none => (none, true)

/-- A Phrase of pool p is refused at the slot stage (R182). -/
def refuseSlot (s : State) (r : NoteReq) (t : Todo) : State :=
  raiseGloss (countUp s R.allocRefuse) 0x4110 (w32 (keyPart r.key r.part)) (w32 t.layer.pool) (w32 (t.lidx + 256 * t.uni))

/-- A Phrase is created in its slot on its lane, with its CREATE record (R47, R363, R372). -/
def createOn (s : State) (r : NoteReq) (t : Todo) (x : Syntax) (slot lane : Nat) (aseq : Word) : State :=
  let (dev, adrift) := unplacedDev s lane x.cost
  let p := { newPhrase s r t slot lane aseq dev with adrift }
  addRecord (putPhrase s r p) (createRecord r p)

/-- The slot stage of a Phrase of a request (R181, R182): what of it is to be done next. A steal that makes room is one record. -/
def slotStage (s : State) (r : NoteReq) (t : Todo) (ts : List Todo) (aseq : Word) (made : Bool) : State × List AllocOp :=
  match synOf s t.layer.sid with
  | none => (s, [.create r ts aseq made])
  | some _ =>
    match takeSlot s t.layer.pool with
    | some k => (s, [.place r (t :: ts) aseq made k 4])
    | none =>
      match slotVictim s t.layer.pool with
      | none => (refuseSlot s r t, [.create r ts aseq made])
      | some v =>
        let s := stealPhrase (lostLevels s (slotCandidates s t.layer.pool)) v false r.key r.part
        match takeSlot s t.layer.pool with
        | some k => (s, [.place r (t :: ts) aseq made k 4])
        | none => (refuseSlot s r t, [.create r ts aseq made])

/-- The admission of a Phrase that has its slot, with so many steals still allowed (R136, R183): it is created, one Phrase is stolen, or
it is refused. Each of the first two is one record. -/
def placeStage (s : State) (r : NoteReq) (t : Todo) (ts : List Todo) (aseq : Word) (made : Bool) (slot steals : Nat) :
    State × List AllocOp :=
  match synOf s t.layer.sid with
  | none => (s, [.create r ts aseq made])
  | some x =>
    match admissionLane s x.cost with
    | some l => (createOn s r t x slot l aseq, [.create r ts aseq true])
    | none =>
      let shared := sharedCandidates s t.layer.pool 1
      match (if steals = 0 then none else chooseVictim s shared none) with
      | none => (countUp s R.parserRefuse, [.create r ts aseq made])
      | some v =>
        let cut := passesCapl s v.lane x.cost && !passesFcapl s v.lane x.cost
        (stealPhrase (lostLevels s shared) v cut r.key r.part, [.place r (t :: ts) aseq made slot (steals - 1)])

/-! ### Releasing (R192, R196, R197) -/

/-- PART.SUS and PART.SOST. -/
def pedalDown (s : State) (part bit : Nat) : Bool := flag s (R.allocPart + 4 * part) bit

/-- The gate goes off at a position: GATE_OFF, then the parameters bound to the release velocity (R47, R48). -/
def gateOff (s : State) (p : Phrase) (pos : DWord) (late : Bool) : Phrase :=
  let p := { p with state := 3, relVel := p.offVel, gateOff := pos }
  let es := gateEntry 2 pos late p.relVel p.noteId ::
    boundEntries s p 3 pos late 0 (fun _ => velValue p.relVel)
  { p with evs := p.evs ++ es }

/-- A HELD Phrase takes a note-off: RELEASED, or SUSTAINED where a pedal holds it (R192, R196, R197). -/
def releasePhrase (s : State) (p : Phrase) (vel : Nat) (pos : DWord) (late : Bool) : Phrase :=
  let p := { p with offVel := vel }
  if pedalDown s p.part 8 || (p.latched && pedalDown s p.part 9) then { p with state := 2 } else gateOff s p pos late

/-- The stamp that no other of a list is older than. -/
def oldestStamp : List Word → Option Word → Option Word
  | [], b => b
  | a :: as, none => oldestStamp as (some a)
  | a :: as, some b => oldestStamp as (some (if older a b then a else b))

/-- The stamp that no other of a list is younger than. -/
def youngestStamp : List Word → Option Word → Option Word
  | [], b => b
  | a :: as, none => youngestStamp as (some a)
  | a :: as, some b => youngestStamp as (some (if older b a then a else b))

/-- The HELD Phrases of a group. -/
def heldOf (s : State) (part : Nat) (aseq : Word) : List Phrase :=
  s.phrases.filter fun p => p.sounds && p.part = part && p.aseq = aseq && p.state = 1

/-- HELD Phrases of a group take a note-off: those that a pedal holds, or where there is none the rest, with the GATE record of their new
state (R192, R363). -/
def releaseGroup (s : State) (part : Nat) (aseq : Word) (vel : Nat) (pos : DWord) (late : Bool) : State :=
  match heldOf s part aseq with
  | [] => s
  | p :: ps =>
    let st := if (p :: ps).any fun q => (releasePhrase s q vel pos late).state = 2 then 2 else 3
    let give := fun (q : Phrase) =>
      let r := releasePhrase s q vel pos late
      if q.sounds && q.part = part && q.aseq = aseq && q.state = 1 && r.state = st then r else q
    addRecord { s with phrases := s.phrases.map give }
      { noRecord with op := 2, flags := BitVec.ofNat 8 st, aseq, keypart := BitVec.ofNat 16 (keyPart p.key part),
                      pos := BitVec.ofNat 16 (posIn pos) }

/-- A note-off in a poly part (R192): the group that it releases. -/
def polyOff (s : State) (part key noteId vel : Nat) (pos : DWord) (late : Bool) : State × List AllocOp :=
  let held := s.phrases.filter fun p => p.sounds && p.part = part && p.key = key && p.noteId = noteId && p.state = 1
  match oldestStamp (held.map (·.aseq)) none with
  | none => (countUp s R.allocOrphoff, [])
  | some a => (s, [.release part a vel pos late])

/-! ### Retriggers and moves (R193 to R195) -/

/-- A group takes the next stamp (R178). -/
def nextAseq (s : State) : State × Word := ({ s with alloc := { s.alloc with aseq := s.alloc.aseq + 1 } }, s.alloc.aseq)

/-- A Phrase moves to an entry or is reused (R195): KEY and NOTEID; GATE_ON unless legato; the pitch parameters at
PART.GLIDE; on a retrigger the velocity and its parameters. -/
def retrigPhrase (s : State) (p : Phrase) (e : NoteEnt) (legato : Bool) (aseq : Word) (pos : DWord) (late : Bool) : Phrase :=
  let glide := fld s (R.allocPart + 4 * p.part) 27 16
  let p := { p with key := e.key, noteId := e.noteId }
  let pitch := fun p : Phrase => boundEntries s p 1 pos late glide (fun q => keyPitch s p.part p.key q.dflt)
  if legato then { p with evs := p.evs ++ pitch p }
  else
    let p := { p with vel := e.vel, aseq, state := 1, gateOff := 0xFFFFFFFFFFFFFFFF, touched := s.time.frame, ends := none }
    { p with evs := p.evs ++ gateEntry 1 pos late e.vel e.noteId :: (pitch p ++
        boundEntries s p 2 pos late 0 (fun _ => velValue p.vel)) }

/-- A group moves to an entry or is reused, with its record. -/
def retrigGroup (s : State) (part : Nat) (aseq : Word) (e : NoteEnt) (legato : Bool) (pos : DWord) (late : Bool) : State :=
  let (s, stamp) := if legato then (s, aseq) else nextAseq s
  let s := { s with phrases := s.phrases.map fun p =>
    if p.sounds && p.part = part && p.aseq = aseq then retrigPhrase s p e legato stamp pos late else p }
  addRecord s { noRecord with
    op := 3, flags := BitVec.ofNat 8 (b2n legato), aseq, keypart := BitVec.ofNat 16 (keyPart e.key part),
    noteId := BitVec.ofNat 16 e.noteId, vel := BitVec.ofNat 16 e.vel, pos := BitVec.ofNat 16 (posIn pos), aux := stamp }

/-- A part's mode: 0 poly, 1 mono, 2 legato. -/
def partMode (s : State) (part : Nat) : Nat := fld s (R.allocPart + 4 * part) 1 0

/-- A part's note stack, oldest first. -/
def stackOf (s : State) (part : Nat) : List NoteEnt := nth s.alloc.noteStacks part []

/-- A part's note stack takes a new content. -/
def setStack (s : State) (part : Nat) (st : List NoteEnt) : State :=
  { s with alloc := { s.alloc with noteStacks := s.alloc.noteStacks.set part st } }

/-- The entry of a stack that sounds (R194): the last, the lowest or the highest, the later pushed first among equal keys. -/
def soundingEntry (npri : Nat) : List NoteEnt → Option NoteEnt
  | [] => none
  | e :: es =>
    match soundingEntry npri es with
    | none => some e
    | some f =>
      match npri with
      | 1 => if e.key < f.key then some e else some f
      | 2 => if f.key < e.key then some e else some f
      | _ => some f

/-- The stamp of a part's mono voice: its youngest group with a Phrase outside FADING and FREE (R194). -/
def monoVoice (s : State) (part : Nat) : Option Word :=
  youngestStamp ((s.phrases.filter fun p => p.sounds && p.part = part).map (·.aseq)) none

/-- The mono voice moves to an entry (R194): legato only in legato mode and while the voice is HELD. -/
def moveVoice (s : State) (part : Nat) (aseq : Word) (e : NoteEnt) (pos : DWord) (late : Bool) : State :=
  let held := s.phrases.any fun p => p.sounds && p.part = part && p.aseq = aseq && p.state = 1
  retrigGroup s part aseq e (partMode s part = 2 && held) pos late

/-- NPRI of a part. -/
def partNpri (s : State) (part : Nat) : Nat := fld s (R.allocPart + 4 * part) 3 2

/-- A note is pushed on a part's stack: an entry with its key is removed, a full stack drops its oldest (R194). -/
def pushNote (s : State) (part : Nat) (e : NoteEnt) : State :=
  let st := (stackOf s part).filter fun x => x.key ≠ e.key
  if 16 ≤ st.length then
    let (s, d0) := drawFree s
    let (s, d1) := drawFree s
    let (s, d2) := drawFree s
    setStack (raiseGloss (countUp s R.allocStkdrop) 0x4120 d0 d1 d2) part (st.drop 1 ++ [e])
  else setStack s part (st ++ [e])

/-- A note-off in a mono or legato part (R194): the voice moves, or is the group that is released. -/
def monoOff (s : State) (part key noteId vel : Nat) (pos : DWord) (late : Bool) : State × List AllocOp :=
  let st := stackOf s part
  match st.find? fun e => e.key = key && e.noteId = noteId with
  | none => (countUp s R.allocOrphoff, [])
  | some e =>
    let wasSounding := soundingEntry (partNpri s part) st = some e
    let rest := st.filter fun x => x ≠ e
    let s := setStack s part rest
    match monoVoice s part, soundingEntry (partNpri s part) rest with
    | none, _ => (s, [])
    | some a, none => (s, [.release part a vel pos late])
    | some a, some f => (if wasSounding then moveVoice s part a f pos late else s, [])

/-! ### Pedals and part controls (R196 to R198) -/

/-- The sustain pedal comes up: each SUSTAINED Phrase of the part is released, but for one latched under sostenuto. -/
def sustainUp (s : State) (part : Nat) (pos : DWord) (late : Bool) : State :=
  { s with phrases := s.phrases.map fun p =>
      if p.sounds && p.part = part && p.state = 2 && !(p.latched && pedalDown s part 9) then gateOff s p pos late else p }

/-- The sostenuto pedal goes down: every HELD Phrase of the part is latched. -/
def sostenutoDown (s : State) (part : Nat) : State :=
  { s with phrases := s.phrases.map fun p => if p.sounds && p.part = part && p.state = 1 then { p with latched := true } else p }

/-- The sostenuto pedal comes up: every latched Phrase is unlatched, and released where it is SUSTAINED and the sustain pedal
is not down. -/
def sostenutoUp (s : State) (part : Nat) (pos : DWord) (late : Bool) : State :=
  { s with phrases := s.phrases.map fun p =>
      if p.part = part && p.latched then
        let p := { p with latched := false }
        if p.sounds && p.state = 2 && !pedalDown s part 8 then gateOff s p pos late else p
      else p }

/-- A pedal takes a position (R196, R197): bit 8 sustain, bit 9 sostenuto. A repeat has no effect. -/
def setPedal (s : State) (part bit : Nat) (down : Bool) (pos : DWord) (late : Bool) : State :=
  if pedalDown s part bit = down then s
  else
    let s := wrFld s (R.allocPart + 4 * part) bit bit (b2n down)
    let s := addRecord s { noRecord with op := 4, flags := BitVec.ofNat 8 (b2n (bit = 9) + 2 * b2n down),
                                         keypart := BitVec.ofNat 16 (keyPart 0 part), pos := BitVec.ofNat 16 (posIn pos) }
    if bit = 8 then (if down then s else sustainUp s part pos late)
    else if down then sostenutoDown s part else sostenutoUp s part pos late

/-- A value out of range is ignored, counted and logged (R198, R226). -/
def outOfRange (s : State) (part index : Nat) (value : Int) : State :=
  raiseGloss (countUp s R.evtMaprange) 0x5121 (w32 part) (w32 index) (BitVec.ofInt 32 value)

/-- A part control (R198, Table 4). -/
def partControl (s : State) (part index : Nat) (value : Int) (pos : DWord) (late : Bool) : State :=
  let reg := R.allocPart + 4 * part
  match index with
  | 0 =>
    if 0 ≤ value ∧ value ≤ 2 then
      let old := partMode s part
      let s := wrFld s reg 1 0 value.toNat
      if (old = 0) = (value = 0) then s else setStack s part []
    else outOfRange s part index value
  | 1 => if 0 ≤ value ∧ value ≤ 2 then wrFld s reg 3 2 value.toNat else outOfRange s part index value
  | 2 => if 0 ≤ value ∧ value ≤ 1 then wrFld s reg 4 4 value.toNat else outOfRange s part index value
  | 3 => if 0 ≤ value ∧ value ≤ 4095 then wrFld s reg 27 16 value.toNat else outOfRange s part index value
  | 4 => setPedal s part 8 (0x40000000 ≤ value) pos late
  | _ => setPedal s part 9 (0x40000000 ≤ value) pos late

/-! ### Operations in order (R199, R364) -/

/-- The Phrases a request creates, in layer order and ascending unison index (R177). -/
def todoOf (r : NoteReq) : List Todo :=
  (r.layers.map fun (i, l) => (List.range l.uni).map fun u => ({ lidx := i, layer := l, uni := u } : Todo)).flatten

/-- Every Syntax that a request names is resident, and none is a global one, which has its own instance alone (R60, R135): a layer that names
a global one fails the whole request (DESIGN CHOICE, log 149). -/
def creatable (s : State) (r : NoteReq) : Bool :=
  r.layers.all fun (_, l) => match synOf s l.sid with | some x => !x.isGlobal | none => false

/-- A request begins to create its Phrases; one that names a Syntax that is not resident is refused whole and counted once (R60). -/
def beginRequest (s : State) (r : NoteReq) : State × List AllocOp :=
  if creatable s r then (s, [.create r (todoOf r) s.alloc.aseq false]) else (countUp s R.allocSynref, [])

/-- The Phrase of a removal is freed, with no fade and no tail, and its slot appears in ENDMAP (R376, R378). -/
def removePhrase (s : State) (slot : Nat) : State :=
  match phraseAt s slot with
  | some p => if p.isGlobal then s else
      let s := addRecord (freePhrase s slot) { noRecord with op := 6, slot := BitVec.ofNat 16 slot }
      { s with sys := { s.sys with endmap := s.sys.endmap ++ [slot] } }
  | none => s

/-- One operation of step 3, as far as its next record: the state after it, and what of it remains to be done next (R364). -/
def allocOp (s : State) (op : AllocOp) : State × List AllocOp :=
  match op with
  | .control part index value pos late => (partControl s part index value pos late, [])
  | .off part key noteId vel pos late =>
    if partMode s part = 0 then polyOff s part key noteId vel pos late else monoOff s part key noteId vel pos late
  | .release part aseq vel pos late =>
    if (heldOf s part aseq).isEmpty then (s, []) else (releaseGroup s part aseq vel pos late, [.release part aseq vel pos late])
  | .remove slot => (removePhrase s slot, [])
  | .place r [] aseq made _ _ => (s, [.create r [] aseq made])
  | .place r (t :: ts) aseq made slot steals => placeStage s r t ts aseq made slot steals
  | .create _ [] _ made => (if made then (nextAseq s).1 else s, [])
  | .create r (t :: ts) aseq made => slotStage s r t ts aseq made
  | .request r =>
    let e : NoteEnt := { key := r.key, noteId := r.noteId, vel := r.vel }
    if partMode s r.part = 0 then
      if flag s (R.allocPart + 4 * r.part) 4 then
        match youngestStamp ((s.phrases.filter fun p => p.sounds && p.part = r.part && p.key = r.key).map (·.aseq)) none with
        | some a => (retrigGroup s r.part a e false r.pos r.late, [])
        | none => beginRequest s r
      else beginRequest s r
    else
      let before := soundingEntry (partNpri s r.part) (stackOf s r.part)
      let s := pushNote s r.part e
      let after := soundingEntry (partNpri s r.part) (stackOf s r.part)
      match monoVoice s r.part with
      | none => beginRequest s r
      | some a =>
        match after with
        | some f => if f = e ∨ before ≠ after then (moveVoice s r.part a f r.pos r.late, []) else (s, [])
        | none => (s, [])

/-- The position of an operation moved to the next frame: POS 0 of that frame (R364). -/
def moveOp (pos : DWord) (op : AllocOp) : AllocOp :=
  match op with
  | .request r => .request { r with pos }
  | .create r t a m => .create { r with pos } t a m
  | .off p k n v _ l => .off p k n v pos l
  | .control p i v _ l => .control p i v pos l
  | .place r t a m k n => .place { r with pos } t a m k n
  | .release p a v _ l => .release p a v pos l
  | .remove k => .remove k

/-- An operation moves to step 3 of the next frame and is counted (R364). -/
def deferOp (s : State) (op : AllocOp) : State :=
  let op := moveOp (w64 (4096 * (s.time.frame + 1))) op
  countUp { s with alloc := { s.alloc with ops := s.alloc.ops ++ [op] } } R.linkDefer

/-- Operations in order, each with what remains of it, with a bound on the number of steps; in an image with tiers the
operations that do not fit the frame's records move on, and of one that has started what is left of it (R364). -/
def runOps : Nat → State → List AllocOp → State
  | 0, s, _ => s
  | _, s, [] => s
  | n + 1, s, op :: rest =>
    if tiersOf s ≠ 0 ∧ s.alloc.ops ≠ [] then runOps n (deferOp s op) rest
    else
      let (t, more) := allocOp s op
      if tiersOf s ≠ 0 ∧ recordMax s < t.alloc.recs.length then runOps n (deferOp s op) rest
      else runOps n t (more ++ rest)

/-- One operation runs to its end: at most 4 layers of 8 Phrases, each with its slot, up to 4 steals and its creation (R177, R183). -/
def runOp (s : State) (op : AllocOp) : State := runOps 512 s [op]

/-! ### What the registers show after step 3 (R155, R201) -/

/-- ALLOC.QLANE: the lane, and in an image with tiers DEV and ROOT; a Phrase on this device is on the root there, and on a worker at the
worker's own address. -/
def qlaneOf (s : State) (p : Phrase) : Word :=
  let place := match p.dev, isWorker s with
    | some a, _ => if a = 0x3FFF then 2 ^ 31 + a * 65536 else a * 65536
    | none, true => fld s R.linkAddr 13 0 * 65536
    | none, false => 2 ^ 31 + 0x3FFF * 65536
  w32 (p.lane + (if tiersOf s = 0 then 0 else place))

/-- The query registers of a slot (Tables 11 and 12 of the allocation chapter). -/
def querySlot (s : State) (p : Phrase) : Nat × Word × Word × Word × Word :=
  (p.pos, w32 (b2n p.latched * 2 ^ 30 + phraseSl s p * 2 ^ 16 + p.lane % 16 * 2 ^ 12 + p.part * 256 + p.pool * 16 + p.state),
    w32 (p.noteId * 65536 + p.key), p.aseq, qlaneOf s p)

/-- ALLOC.STAT takes its values: at the end of each step 3, and as rendering starts (R201). -/
def showFree (s : State) : State :=
  wrFld (wrFld s R.allocStat 10 0 (freeSlots s).length) R.allocStat 21 16 (freeFades s).length

/-- The end of step 3: ALLOC.STAT, ALLOC.POOLCNTp, the query registers and the lane sums take their values. -/
def endStep3 (s : State) : State :=
  let s := showFree s
  let s := (List.range 16).foldl (fun t p => wrFld t (R.allocPoolcnt + 4 * p) 10 0 (poolCount t p)) s
  let lanes := (List.range 1024).filterMap fun l =>
    let n := laneN s l
    let f := laneF s l
    if n = 0 ∧ f = 0 then none else some (l, n, f)
  { s with alloc := { s.alloc with snap := (s.phrases.filter fun p => !p.isGlobal).map (querySlot s), lanes } }

end Sys2Proof.Machine
end

