-- ==== Sys2Proof/Machine/Tense.lean ====
section
/-! DEFINITION. Tense (R234 to R249): the piecewise-linear model of the musical position, the transport, tempo sources, the
loss of a source, the frame record, and the musical queue. The timers are in Machine/Timers.lean. -/

namespace Sys2Proof.Machine

/-- The tracker changes. -/
def onTense (s : State) (f : TenseSt → TenseSt) : State := { s with tense := f s.tense }

/-- U_q: musical units of a quarter note (R234). -/
def quarterU : Nat := 1006632960

/-- A piece of the model: p_a, M_a and Q_run (R235). -/
abbrev Piece := DWord × DWord × Nat

/-- M(p) on one piece: its M_a where the position holds (R235). -/
def pieceAt (p : DWord) (c : Piece) : DWord :=
  if c.2.2 = 0 then c.2.1 else c.2.1 + w64 ((p - c.1).toNat * quarterU / c.2.2)

/-- The pieces of the model, the newest first. -/
def pieces (s : State) : List Piece := (s.tense.pa, s.tense.ma, s.tense.qrun) :: s.tense.older

/-- M(p): on the newest piece that has begun at p; before every piece the position is that of the oldest one's anchor (R235). -/
def musicalAt (s : State) (p : DWord) : DWord :=
  match (pieces s).find? fun c => c.1.toInt ≤ p.toInt with
  | some c => pieceAt p c
  | none => ((pieces s).getLastD (0, 0, 0)).2.1

/-- A new piece begins at p with position m and a running quarter length (R235). -/
def newPiece (s : State) (p m : DWord) (q : Nat) : State :=
  onTense s fun t => { t with pa := p, ma := m, qrun := q, older := pieces s }

/-- The pieces that no position from p onward needs are dropped. -/
def dropPieces (s : State) (p : DWord) : State :=
  let ps := pieces s
  let n := ps.findIdx fun c => c.1.toInt ≤ p.toInt
  onTense s fun t => { t with older := t.older.take n }

/-- Q_min (R236). -/
def qMin (s : State) : Nat := 60 * fsHz s * 256 / 999

/-- Q_max (R236). -/
def qMax (s : State) : Nat := 60 * fsHz s * 256 / 10

/-- A quarter length held within its range (R236). -/
def qClamp (s : State) (q : Int) : Nat := (max (qMin s : Int) (min (qMax s) q)).toNat

/-- Q_f of a tempo in Q16.16 (R240). -/
def tempoQ (s : State) (tempo : Word) : Nat := qClamp s (rne (60 * fsHz s * 256 * 65536) tempo.toNat)

/-- TENSE.STAT.TRANS: 0 STOPPED, 1 ARMED, 2 RUNNING (R237). -/
def transport (s : State) : Nat := fld s R.tenseStat 1 0

/-- The transport changes state. -/
def setTransport (s : State) (t : Nat) : State := wrFld s R.tenseStat 1 0 t

/-- The tempo source (R240). -/
def tempoSource (s : State) : Nat := fld s R.tenseCfg 2 0

/-- Δ of the selected source in ticks (R240, Table 3). -/
def pulseTicks (s : State) : Nat :=
  match tempoSource s with
  | 1 => 640
  | 4 => 15360
  | _ => match fld s R.tenseCfg 5 3 with
    | 0 => 15360 | 1 => 7680 | 2 => 3840 | 3 => 640 | _ => 320

/-! ### Jumps (R248) -/

/-- Position a lies below b in serial-number order (R234). -/
def musBelow (a b : DWord) : Bool := 1 ≤ (b - a).toNat && (b - a).toNat < 2 ^ 63

/-- TENSE.MSTAT shows the queue (R262). -/
def refreshMstat (s : State) : State :=
  let n := s.tense.queue.length
  wr s R.tenseMstat (w32 (n % 512 + b2n (256 ≤ n) * 2 ^ 31))

/-- Uncommitted entries below a jump's target are discarded unless CHASE is 1; a backward jump discards none (R248). -/
def chasePassed (s : State) (old j : DWord) : State :=
  let passed := s.tense.queue.filter fun e => musBelow e.1 j
  if flag s R.tenseCfg 18 || !musBelow old j || passed = [] then s
  else
    let s := onTense s fun t => { t with queue := t.queue.filter fun e => !musBelow e.1 j }
    let s := countUpBy (refreshMstat s) R.tenseMskip passed.length
    raiseGloss s 0x8120 (w32 passed.length) (w32 (j.toNat / 65536)) 0

/-- A jump to a position at p, with a running quarter length: cause 0 transport, 1 locate, 2 phase (R248). -/
def jumpTo (s : State) (p j : DWord) (q cause : Nat) : State :=
  let old := musicalAt s p
  let s := onTense (newPiece s p j q) fun t => { t with jumped := true }
  chasePassed (raiseGloss s 0x8112 (w32 (old.toNat / 65536)) (w32 (j.toNat / 65536)) (w32 cause)) old j

/-! ### Transport (R237, Table 1) -/

/-- The transport starts from STOPPED at a position: RUNNING under the internal source, else ARMED. -/
def startFrom (s : State) (p j : DWord) : State :=
  let s := onTense s fun t => { t with ps := j }
  if tempoSource s = 0 then newPiece (setTransport s 2) p j s.tense.qf
  else onTense (newPiece (setTransport s 1) p j 0) fun t => { t with acquire := 1 }

/-- The position is set: held while STOPPED, P_s while ARMED, a jump while RUNNING. -/
def setPosition (s : State) (p j : DWord) (cause : Nat) : State :=
  match transport s with
  | 0 => newPiece s p j 0
  | 1 => newPiece (onTense s fun t => { t with ps := j }) p j 0
  | _ => jumpTo s p j s.tense.qrun cause

/-- A TRANSPORT event: 1 start, 2 stop, 3 continue, 4 song position (R237, Table 1). -/
def transportEvent (s : State) (op : Nat) (value : Nat) (p : DWord) : State :=
  match op, transport s with
  | 1, 0 => startFrom s p 0
  | 1, _ => setPosition s p 0 0
  | 3, 0 => startFrom s p (musicalAt s p)
  | 2, 0 => s
  | 2, _ => newPiece (setTransport s 0) p (musicalAt s p) 0
  | 4, _ => setPosition s p (w64 (3840 * value * 65536)) 0
  | _, _ => s

/-! ### Sources and control events (R238, R240) -/

/-- A source is selected at a position (R240). LOST falls only with the internal source: under another external one the next pulse
clears it (R243). -/
def selectSource (s : State) (src : Nat) (p : DWord) : State :=
  let s := wrFld s R.tenseCfg 2 0 src
  let s := onTense s fun t => { t with lastP := none, nout := 0, taps := [], acquire := (if src = 0 then 0 else 2) }
  let s := wrFld s R.tenseStat 3 3 (b2n (src ≠ 0))
  if src ≠ 0 then s
  else
    let s := clrFlag s R.tenseStat 2
    let q := tempoQ s (rd s R.tenseTempo)
    let m := musicalAt s p
    let s := onTense s fun t => { t with qf := q }
    if transport s = 2 then newPiece s p m q else s

/-- The stored internal tempo changes (R240). -/
def internalTempo (s : State) (tempo : Word) (p : DWord) : State :=
  let s := wr s R.tenseTempo tempo
  if tempoSource s ≠ 0 then s
  else
    let q := tempoQ s tempo
    let m := musicalAt s p
    let s := onTense s fun t => { t with qf := q }
    if transport s = 2 then newPiece s p m q else s

/-! ### Pulses (R241, R242, R244) -/

/-- The nearest multiple of d, halves up. -/
def roundMul (m : DWord) (d : Nat) : DWord := w64 ((m.toNat + d / 2) / d * d)

/-- A measured quarter length updates Q_f; PGLITCH counts a rejection (R241, R244). -/
def measure (s : State) (qm : Nat) : State :=
  let t := s.tense
  if tempoSource s = 4 then
    if qm < qMin s then countUp s R.tensePglitch
    else
      let taps := (t.taps ++ [qm]).drop (t.taps.length + 1 - 4)
      clrFlag (onTense s fun t => { t with taps, qf := qClamp s (taps.sum / taps.length : Nat) }) R.tenseStat 3
  else if qm < qMin s ∨ qMax s < qm then countUp s R.tensePglitch
  else if flag s R.tenseStat 3 then clrFlag (onTense s fun t => { t with qf := qm, nout := 0 }) R.tenseStat 3
  else if t.qf < (qm - t.qf + (t.qf - qm)) * 4 then
    if t.nout = 3 then onTense s fun t => { t with qf := qm, nout := 0 }
    else countUp (onTense s fun t => { t with nout := t.nout + 1 }) R.tensePglitch
  else
    let step := rne ((qm : Int) - t.qf) (2 ^ fld s R.tensePll 3 0)
    onTense s fun t => { t with qf := qClamp s (t.qf + step), nout := 0 }

/-- The phase correction of a pulse at p with its target (R241). -/
def correctPhase (s : State) (p target : DWord) : State :=
  let m := musicalAt s p
  let e := (target - m).toInt
  let dl : Int := pulseTicks s * 65536
  if fld s R.tensePll 23 8 * 65536 < e.natAbs then jumpTo s p target s.tense.qf 2
  else
    let ec := max (-(dl / 8)) (min (dl / 8) (rne e (2 ^ fld s R.tensePll 7 4)))
    newPiece s p m (qClamp s ((s.tense.qf : Int) * dl / (dl + ec)))

/-- The first pulse of an acquisition: anchored at its target while RUNNING (R241). -/
def firstPulse (s : State) (p : DWord) (acquire : Nat) : State :=
  let target := if acquire = 1 then s.tense.ps else roundMul (musicalAt s p) (pulseTicks s * 65536)
  let s := setFlag s R.tenseStat 3
  let s := onTense s fun t => { t with lastP := some p, lastT := target, acquire := 0, nout := 0, taps := [] }
  if transport s = 2 then newPiece s p target s.tense.qf else s

/-- A pulse of the selected external source at p (R241, R243, R244, Table 1). -/
def tempoPulse (s : State) (p : DWord) : State :=
  let s := onTense s fun t => { t with pulsed := true }
  let s := if flag s R.tenseStat 2 then
      onTense (raiseGloss (clrFlag s R.tenseStat 2) 0x8111 (w32 (tempoSource s)) (w32 p.toNat) (w32 s.tense.qf))
        fun t => { t with acquire := 2 }
    else s
  let s := match transport s with
    | 0 => if flag s R.tenseCfg 19 then
        let held := musicalAt s p
        onTense (setTransport s 2) fun t => { t with ps := held, acquire := 1 }
      else s
    | 1 => onTense (setTransport s 2) fun t => { t with acquire := 1 }
    | _ => s
  match (if s.tense.acquire = 0 then s.tense.lastP else none) with
  | some last =>
    let qm := (p - last).toNat * (15360 / pulseTicks s)
    if tempoSource s = 4 ∧ qMax s < qm then firstPulse s p 2
    else
      let s := measure s qm
      if transport s ≠ 2 then onTense s fun t => { t with lastP := some p }
      else
        let target := if tempoSource s = 4 then roundMul (musicalAt s p) quarterU
          else s.tense.lastT + w64 (pulseTicks s * 65536)
        correctPhase (onTense s fun t => { t with lastP := some p, lastT := target }) p target
  | none => firstPulse s p (if s.tense.acquire = 0 then 2 else s.tense.acquire)

/-- Is an event a pulse of the selected source (R240, R244). -/
def isPulse (s : State) (e : EvPacket) : Bool :=
  let tsel := fld s R.tenseCfg 16 12
  let capture := e.kind = 0x0C && e.key.toNat = tsel && e.value.toNat % 16 = 5
  let thresh := e.kind = 0x0B && e.key.toNat = tsel
  match tempoSource s with
  | 1 => e.kind = 0x08 && e.source.toNat = fld s R.tenseCfg 11 6
  | 2 => capture
  | 3 => thresh
  | 4 => (e.kind = 0x04 && e.key = 0xF01) || (if flag s R.tenseCfg 20 then thresh else capture)
  | _ => false

/-- A control event with a value out of range (R238). -/
def controlBad (s : State) (e : EvPacket) : State :=
  raiseGloss (countUp s R.tenseCtlbad) 0x8130 (w32 e.source.toNat) (w32 e.key.toNat) e.value

/-- Tense takes one event at its effective position (R237 to R241, R244). -/
def tenseEvent (s : State) (e : EvPacket) : State :=
  let p := effPos s e
  if e.kind = 0x09 then
    if e.source.toNat = fld s R.tenseCfg 11 6 ∨ e.source.toNat = 12 then transportEvent s e.key.toNat e.value.toNat p else s
  else if e.kind = 0x04 ∧ e.key = 0xF00 then
    if 0x000A0000 ≤ e.value.toNat ∧ e.value.toNat ≤ 0x03E70000 then internalTempo s e.value p else controlBad s e
  else if e.kind = 0x04 ∧ e.key = 0xF02 then setPosition s p (w64 (e.value.toNat * 65536)) 1
  else if e.kind = 0x04 ∧ e.key = 0xF03 then
    if 4 < e.value.toNat then controlBad s e
    else if e.value.toNat = tempoSource s then s else selectSource s e.value.toNat p
  else if isPulse s e then tempoPulse s p else s

/-! ### The loss of a source (R243) -/

/-- Is the source lost at step 2 of a frame. -/
def lossDue (s : State) (m : Nat) : Bool :=
  match s.tense.lastP with
  | none => false
  | some p =>
    tempoSource s ≠ 0 && !flag s R.tenseStat 2 && !s.tense.pulsed &&
      p.toInt * 15360 + (fld s R.tensePll 31 24 * s.tense.qf * pulseTicks s : Nat) ≤ (4096 * m * 15360 : Nat)

/-- The source is lost (R243). -/
def tempoLoss (s : State) (m : Nat) : State :=
  let s := countUp (setFlag s R.tenseStat 2) R.tenseLosscnt
  let s := raiseGloss s 0x8110 (w32 (tempoSource s)) (w32 ((s.tense.lastP.getD 0).toNat)) (w32 s.tense.qf)
  let at' := BitVec.ofInt 64 (max (4096 * m : Nat) s.tense.pa.toInt)
  if transport s ≠ 2 then s
  else
    let held := musicalAt s at'
    if flag s R.tenseCfg 17 then newPiece s at' held s.tense.qf else newPiece (setTransport s 0) at' held 0

/-- Step 2 of the open frame has taken the frame's events, so that the loss test is of them (R239). -/
def stepTwoTaken (s : State) : Bool := s.time.rendering && decide (s.time.step2 = s.time.frame)

/-- TEMPO_SOURCE_LOSS: the test of step 2 of the open frame, after the frame's pulses have been taken, finds the external source lost
(R239, R243). Before that step the loss is not yet tested for. -/
def execTempoSourceLoss (s : State) : Host.Outcome State Fault Refusal :=
  if stepTwoTaken s && lossDue s s.time.frame then .next (tempoLoss s s.time.frame) else .next s

/-! ### The frame record (R245) -/

/-- The device address of the frame records (TENSE.FRBASE). -/
def frameRecordBase (s : State) : Nat := (rd s R.tenseFrbase).toNat

/-- The 64 bytes of a frame's record (Table 5). -/
def frameRecord (s : State) (n : Nat) : List Byte :=
  leBytes 4 n ++ leBytes 4 (fld s R.tenseStat 3 0 + 16 * b2n s.tense.jumped) ++ leBytes 4 s.tense.qf ++
    leBytes 4 s.tense.qrun ++ ((List.range 4).map fun t => leBytes 8 (musicalAt s (w64 (256 * (16 * n + 4 * t)))).toNat).flatten ++
    List.replicate 16 0

/-- BPM in Q16.16 of Q_f, rounded convergently (R235, R262). -/
def bpmOf (s : State) (q : Nat) : Word := BitVec.ofInt 32 (rne (60 * fsHz s * 256 * 65536) q)

/-- POSL and POSH show POS0 of the latest frame record (R262). -/
def showPosition (s : State) (pos : Nat) : State :=
  wr (wr s R.tensePosl (w32 pos)) R.tensePosh (w32 (pos / 2 ^ 32))

/-- A worker's tracker follows the record of frame n that its root sent (R249): POS0, QF and QRUN (DEDUCED, log 126). -/
def followRecord (s : State) (n : Nat) (bs : List Byte) : State :=
  let pos := leNat ((bs.drop 0x10).take 8)
  showPosition (onTense s fun t =>
    { t with qf := leNat ((bs.drop 0x08).take 4), qrun := leNat ((bs.drop 0x0C).take 4), pa := w64 (4096 * n), ma := w64 pos,
             older := [] }) pos

/-- The record of a frame is written into shared memory: from the tracker, or on a worker of a system from the bytes its
root sent. -/
def writeFrameRecord (s : State) (n : Nat) (bs : List Byte) : State :=
  storeBytes s 3 (frameRecordBase s + 64 * (n % 4)) bs

/-! ### Musical events (R246, R247) -/

/-- The predicted position of a musical position on the model's last piece (R247). -/
def predicted (s : State) (mu : DWord) : Int :=
  s.tense.pa.toInt - (-((mu - s.tense.ma).toInt * s.tense.qrun)) / quarterU

/-- One entry is committed where it is due and source 14 has room (R247). -/
def commitEntry (s : State) (m : Nat) (e : DWord × EvPacket) : State :=
  let at' := predicted s e.1
  if at' < 256 * (16 * (m + 1) + fld s R.evtCfg 12 0) ∧ ¬ sourceBlocked s 14 then
    let low := 4096 * (m + 1)
    let s := if at' < low then countUp s R.tenseMlate else s
    let pos := w64 (max (low : Int) at').toNat
    let s := onTense s fun t => { t with queue := t.queue.erase e }
    offerEvent s 14 { e.2 with stamp := pos - w64 (256 * eventOffset s) } s.time.aoTime
  else s

/-- Due entries are committed in queue order while the transport is RUNNING (R247). -/
def commitMusical (s : State) (m : Nat) : State :=
  if transport s = 2 then refreshMstat (s.tense.queue.foldl (fun s e => commitEntry s m e) s) else s

/-- The Tense part of step 2 of a frame: its events in order, the loss test, the frame record, the musical queue (R239). -/
def tenseStep (s : State) (m : Nat) (events : List EvPacket) : State :=
  let s := onTense (dropPieces s (w64 (4096 * m))) fun t => { t with jumped := false, pulsed := false }
  let s := events.foldl tenseEvent s
  let s := if lossDue s m then tempoLoss s m else s
  let s := showPosition (writeFrameRecord s m (frameRecord s m)) (musicalAt s (w64 (4096 * m))).toNat
  commitMusical s m

/-- An entry joins the musical queue in order of μ, then of completion (R246). -/
def musInsert (e : DWord × EvPacket) : List (DWord × EvPacket) → List (DWord × EvPacket)
  | [] => [e]
  | x :: xs => if musBelow e.1 x.1 then e :: x :: xs else x :: musInsert e xs

/-- A completed entry: discarded and counted where its kind is none of the six or it fails R205, else queued (R246). -/
def queueMusical (s : State) (e : EvPacket) : State :=
  let ok := [0x01, 0x02, 0x03, 0x04, 0x05, 0x06].contains e.kind.toNat
  if !ok || eventBad e then countUp s R.tenseMbad
  else refreshMstat (onTense s fun t => { t with queue := musInsert (e.stamp, { e with stamp := 0 }) t.queue })

/-- A word written to TENSE.MWIN (R246): the fourth completes an entry, and is refused alone while the queue is full. -/
def writeMwin (s : State) (value : Word) : State :=
  match s.tense.mwin with
  | [w0, w1, w2] =>
    if 256 ≤ s.tense.queue.length then refuse s R.tenseMwin false
    else
      let s := onTense s fun t => { t with mwin := [] }
      queueMusical s (pktOf (w0.toNat + w1.toNat * 2 ^ 32) (w64 (w2.toNat + value.toNat * 2 ^ 32)))
  | ws => onTense s fun t => { t with mwin := ws ++ [value] }

/-! ### Rendering stops (R249) -/

/-- The transport goes to STOPPED and the musical queue is emptied, its entries counted (R249). -/
def tenseStop (s : State) : State :=
  let p := nowStamp s
  let s := if transport s = 0 then s else newPiece (setTransport s 0) p (musicalAt s p) 0
  refreshMstat (onTense (countUpBy s R.tenseMskip s.tense.queue.length) fun t => { t with queue := [] })

/-- A new epoch while rendering is stopped: the position the model holds is anchored in it, and the latest pulse re-based (R249). -/
def holdPosition (s : State) (instant : DWord) : State :=
  let delta := stampOf s instant
  onTense s fun t => { t with pa := 0, older := [], lastP := t.lastP.map (· - delta) }

end Sys2Proof.Machine
end

