-- ==== Sys2Proof/Machine/EventTake.lean ====
section
/-! DEFINITION. Steps 2 to 4 of a computing window (R132, R208): which events are taken, the map (R224 to R228), the
allocator's operations, and the arming of Phrases (R45, R51). -/

namespace Sys2Proof.Machine

/-! ### Which events step 2 takes (R208, R449) -/

/-- PWR.STAT.WARN: note requests are held (R449). -/
def warnHold (s : State) : Bool := flag s R.pwrStat 5

/-- The index a control record is compared with (R225). -/
def controlIndex (p : EvPacket) : Nat := if p.kind = 0x05 then p.key.toNat / 128 else p.key.toNat

/-- Does a control record match an event (R225). -/
def controlMatches (c : Control) (p : EvPacket) : Bool :=
  c.kind = p.kind.toNat && c.parts / 2 ^ p.part.toNat % 2 = 1 && (c.index = 0xFFFF || c.index = controlIndex p)

/-- The matching control records of an event, with their index (R225). -/
def matchingControls (s : State) (p : EvPacket) : List (Nat × Control) :=
  if [0x03, 0x04, 0x05, 0x0B, 0x0C].contains p.kind.toNat then
    ((List.range s.evt.map.controls.length).zip s.evt.map.controls).filterMap fun (i, c) =>
      match c with
      | some c => if controlMatches c p then some (i, c) else none
      | none => none
  else []

/-- An event that the hold of a supply warning keeps in the queue: a NOTE_ON, an event of a control record with TTYPE 3 or 4,
or a NOTE_OFF of a held NOTE_ON before it (R449). -/
def heldByWarning (s : State) (before : List QueuedEv) (q : QueuedEv) : Bool :=
  let p := q.pkt
  p.kind = 0x01 || ((matchingControls s p).any fun x => x.2.ttype = 3 || x.2.ttype = 4) ||
    (p.kind = 0x02 && before.any fun r =>
      r.pkt.kind = 0x01 && r.pkt.part = p.part && r.pkt.key = p.key && r.pkt.value.toNat % 65536 = p.value.toNat % 65536)

/-- The events of frame m in event order: available, at a position in the frame, and not held by a warning (R208, R449). -/
def takenEvents (s : State) (m : Nat) : List QueuedEv :=
  let due := evSort s (s.evt.queue.filter fun q => q.waits = [] && frameOf (effPos s q.pkt) ≤ m)
  if warnHold s then due.filter fun q => !heldByWarning s (due.takeWhile fun r => r ≠ q) q else due

/-- The events leave the queue. -/
def leaveQueue (s : State) (es : List QueuedEv) : State :=
  { s with evt := { s.evt with queue := s.evt.queue.filter fun q => !es.contains q } }

/-! ### The map (R224 to R228) -/

/-- A note that no layer takes (R224). -/
def mapMiss (s : State) (part why what : Nat) : State :=
  raiseGloss (countUp s R.evtMapmiss) 0x5120 (w32 part) (w32 why) (w32 what)

/-- A PROGRAM event (R224). -/
def programEvent (s : State) (p : EvPacket) : State :=
  let part := p.part.toNat
  let (active, last) := nth s.evt.progs part (0xFFFF, 0)
  let bank := if bitOf p.value 31 then p.value.toNat % 2 ^ 14 else last
  let hit := (idxs s.evt.map.programs.length fun i =>
    match nth s.evt.map.programs i none with
    | some r => r.part = part && r.program = p.key.toNat && (r.anyBank || r.bank = bank)
    | none => false).head?
  let s := { s with evt := { s.evt with progs := s.evt.progs.set part (hit.getD active, bank) } }
  if hit.isSome then s else mapMiss s part 1 (p.key.toNat * 65536 + bank)

/-- The layers of a program that accept a key and a velocity, with their index in the note request they make (R177, R179, R224). -/
def acceptingLayers (g : Program) (key vel : Nat) : List (Nat × Layer) :=
  let ls := g.layers.filter fun l => l.vello ≤ vel / 256 && vel / 256 ≤ l.velhi && l.keylo ≤ key && key ≤ l.keyhi
  (List.range ls.length).zip ls

/-- The held values of a part that stand now, in record order (R227). -/
def heldValues (s : State) (part : Nat) : List (Nat × Word) :=
  s.evt.held.filterMap fun (k, u) => if k % 16 = part then some (k / 16, u) else none

/-- The note request of a note-on: none, with the miss counted, where the part has no active program or no layer accepts it
(R224). -/
def noteRequest (s : State) (part key noteId vel : Nat) (pos : DWord) (late : Bool) : State × Option NoteReq :=
  match (nth s.evt.progs part (0xFFFF, 0)).1 with
  | 0xFFFF => (mapMiss s part 0 key, none)
  | i =>
    match nth s.evt.map.programs i none with
    | none => (mapMiss s part 2 key, none)
    | some g =>
      match acceptingLayers g key vel with
      | [] => (mapMiss s part 2 key, none)
      | ls => (s, some { part, key, noteId, vel, pos, late, layers := ls, held := heldValues s part })

/-- A note-on acts at step 3 (R177, R199, R224). -/
def noteOn (s : State) (part key noteId vel : Nat) (pos : DWord) (late : Bool) : State :=
  match noteRequest s part key noteId vel pos late with
  | (s, some r) => runOp s (.request r)
  | (s, none) => s

/-- With PERNOTE set, a Phrase's KEY must equal the event's key (R226). -/
def noteMatches (c : Control) (e : EvPacket) (p : Phrase) : Bool :=
  !c.perNote || p.key = (if e.kind = 0x05 then e.key.toNat % 128 else e.key.toNat)

/-- Does a Phrase of the part receive a parameter event of a record (R226, TTYPE 0). -/
def receives (c : Control) (e : EvPacket) (p : Phrase) : Bool :=
  p.sounds && p.part = e.part.toNat && controlSid c p.sid && noteMatches c e p

/-- Does a global Phrase receive a parameter event of a record (R135, R226, TTYPE 1). -/
def globalReceives (c : Control) (e : EvPacket) (p : Phrase) : Bool :=
  p.isGlobal && p.sid = c.target / 65536 % 256 && noteMatches c e p

/-- The value of an event for a record (R225): for THRESH the doubled magnitude of its level. -/
def controlInput (e : EvPacket) : Nat :=
  if e.kind = 0x0B then min (2 * e.value.toInt.natAbs) (2 ^ 32 - 1) else e.value.toNat

/-- One matching record acts (R225 to R227, Table 11). -/
def controlAct (s : State) (e : EvPacket) (pos : DWord) (i : Nat) (c : Control) : State :=
  let u := controlInput e
  let s := if c.hold then
      { s with evt := { s.evt with held := mapPut s.evt.held (16 * i + e.part.toNat) (w32 u) } }
    else s
  let give := fun (p : Phrase) =>
    match controlEntry s c p u c.smooth pos e.late with
    | some x => pushEntry p x
    | none => p
  match c.ttype with
  | 0 => { s with phrases := s.phrases.map fun p => if receives c e p then give p else p }
  | 1 => { s with phrases := s.phrases.map fun p => if globalReceives c e p then give p else p }
  | 2 => runOp s (.control e.part.toNat (c.target % 8) (controlValue c false u) pos e.late)
  | t =>
    let part := c.target / 4096 % 16
    let key := c.target % 4096
    let vel := (max 0 (min 65535 (controlValue c false u))).toNat
    if t = 3 then noteOn s part key 0 vel pos e.late else runOp s (.off part key 0 vel pos e.late)

/-- PARAM 0xF10 of a link source frees the Phrase in slot VALUE at once (R378). -/
def isRemoval (e : EvPacket) : Bool := e.kind = 0x04 && e.key = 0xF10 && 8 ≤ e.source.toNat && e.source.toNat ≤ 11

/-- One taken event acts at step 3 (R192, R224 to R228). -/
def eventActs (s : State) (e : EvPacket) : State :=
  let pos := effPos s e
  let part := e.part.toNat
  match e.kind.toNat with
  | 0x01 => noteOn s part e.key.toNat (e.value.toNat % 65536) (e.value.toNat / 65536) pos e.late
  | 0x02 => runOp s (.off part e.key.toNat (e.value.toNat % 65536) (e.value.toNat / 65536) pos e.late)
  | 0x06 => programEvent s e
  | 0x0F => hostRing s e
  | _ =>
    let s := if isRemoval e then runOp s (.remove e.value.toNat) else s
    (matchingControls s e).foldl (fun s (i, c) => controlAct s e pos i c) s

/-! ### Arming (R45, R51, R132) -/

/-- An entry put behind those at or before its position. -/
def entryInsert (e : EvEntry) : List EvEntry → List EvEntry
  | [] => [e]
  | x :: xs => if e.pos < x.pos then e :: x :: xs else x :: entryInsert e xs

/-- Entries by ascending position, in their order at equal positions (R51). -/
def sortEntries (l : List EvEntry) : List EvEntry := l.foldl (fun acc e => entryInsert e acc) []

/-- Entries deferred to the next frame (R51). -/
def deferEntry (e : EvEntry) : EvEntry := { e with pos := 0, deferred := true }

/-- More than 16 entries fall in one frame: each one deferred is counted, and the deferral logged; the spec gives the data words of 0x3102 no content, so they
are free (log 16). -/
def logDeferral (s : State) (n : Nat) : State :=
  let (s, a) := drawFree s
  let (s, b) := drawFree s
  let (s, c) := drawFree s
  raiseGloss (countUpBy s R.parserDefer n) 0x3102 a b c

/-- The work of a Phrase for a frame: FIRST is 1 until a frame of it has been armed that is to run (R45, R150). -/
def newWork (p : Phrase) (m : Nat) (es : List EvEntry) : Work :=
  let first := p.first && p.works.isEmpty
  { frame := m, pos := p.pos, next := 0, first, hdr := headerBytes p m es.length first, evs := es, written := false,
    done := [], carry := false, aborted := [] }

/-- The header and list are written at once unless an earlier frame of the Phrase is still in work (R45, R132). -/
def queueWork (s : State) (p : Phrase) (w : Work) : State :=
  let fresh := p.works.isEmpty
  let s := if fresh then writeWork s p w else s
  onPhrase s p.pos fun q => { q with works := q.works ++ [{ w with written := fresh }] }

/-- A Phrase is armed for frame m (R51, R132): one that is placed gets its work; one that is not diverges (R173); one on
another device of the system is armed there. -/
def armPhrase (m : Nat) (s : State) (pos : Nat) : State :=
  match phraseAt s pos with
  | none => s
  | some p =>
    let all := p.deferred ++ sortEntries p.evs
    let now := all.take 16
    let later := (all.drop 16).map deferEntry
    let s := if later.isEmpty then s else logDeferral s later.length
    let s := onPhrase s pos fun q => { q with evs := [], deferred := later, age := w32 m - w32 q.created }
    match phraseAt s pos with
    | none => s
    | some p =>
      if p.dev.isSome then s
      else if p.home.isNone then diverge s pos m
      else queueWork s p (newWork p m now)

/-- Step 4: every Phrase in ascending slot order (R132). -/
def armAll (s : State) (m : Nat) : State := (s.phrases.map (·.pos)).foldl (armPhrase m) s

/-! ### Step 3 -/

/-- The operations that earlier frames moved here run first (R364). -/
def runDeferred (s : State) : State :=
  let ops := s.alloc.ops
  runOps (512 * ops.length) { s with alloc := { s.alloc with ops := [] } } ops

/-- Steps 2 and 3 for the events taken: Tense, then the allocator and the map in event order (R132, R199, R239). -/
def takeAndAllocate (s : State) (m : Nat) (es : List QueuedEv) : State :=
  let s := leaveQueue s es
  let s := { s with time := { s.time with step2 := m }, alloc := { s.alloc with recs := [] } }
  let s := tenseStep s m (es.map (·.pkt))
  let s := (es.map (·.pkt)).foldl eventActs (runDeferred s)
  endStep3 s

end Sys2Proof.Machine
end

