-- ==== Sys2Proof/Machine/Catalogue.lean ====
section
/-! DEFINITION. The Word types (R61, R70): the catalogue of Table 1 with the ports, parameters, state sizes and costs it
gives, and the types the image declares (R130). -/

namespace Sys2Proof.Machine

/-- A Word type: its code; its input and output ports in order, 0 audio, 1 control, 2 sync; its X and Y state in bytes; the
constant parameter LEN whose value adds 4 bytes each to the Y state; its cost; defined only in a global Syntax; the formats
of its parameters. -/
structure WordType where
  typ    : Nat
  ins    : List Nat
  outs   : List Nat
  xs     : Nat
  ys     : Nat
  lenPar : Option Nat
  cost   : Nat
  globalOnly : Bool
  fmts   : List Nat
  deriving DecidableEq, Repr

/-- The catalogue (R70, Table 1; the parameter formats from the tables of each Word). -/
def catalogue : List WordType :=
  [
   -- PHASE
   ⟨0x0101, [2], [0, 2], 16, 0, none, 90, false, [1, 0]⟩,
   -- BLWAVE
   ⟨0x0102, [2], [0, 2], 16, 16, none, 280, false, [1, 3, 0, 6, 0]⟩,
   -- SINE
   ⟨0x0103, [2], [0, 2], 16, 0, none, 110, false, [1, 3, 0]⟩,
   -- WTABLE
   ⟨0x0104, [2], [0, 2], 16, 16, none, 360, false, [1, 3, 0, 6, 0]⟩,
   -- SAMPLE4
   ⟨0x0105, [], [0, 0], 32, 32, none, 340, false, [1, 3, 6, 6, 6, 6, 6]⟩,
   -- SAMPLE8
   ⟨0x0106, [], [0, 0], 32, 64, none, 520, false, [1, 3, 6, 6, 6, 6, 6]⟩,
   -- PMOP
   ⟨0x0107, [0, 2], [0, 2], 16, 16, none, 160, false, [1, 3, 3, 0, 0]⟩,
   -- NOISE
   ⟨0x0108, [], [0], 16, 0, none, 70, false, [3, 6]⟩,
   -- PLUCK
   ⟨0x0109, [0], [0], 32, 32, some 5, 380, false, [1, 4, 0, 3, 6, 6]⟩,
   -- SVF
   ⟨0x0201, [0], [0, 0, 0, 0], 0, 64, none, 300, false, [1, 0]⟩,
   -- LADDER
   ⟨0x0202, [0], [0, 0], 0, 128, none, 420, false, [1, 0, 3]⟩,
   -- COMB
   ⟨0x0203, [0], [0], 16, 16, some 4, 200, false, [1, 0, 0, 3, 6]⟩,
   -- ALLPASS
   ⟨0x0204, [0], [0], 0, 32, none, 150, false, [1, 6, 3]⟩,
   -- BIQUAD
   ⟨0x0205, [0], [0], 0, 48, none, 180, false, [1, 3, 3, 6]⟩,
   -- FORMANT
   ⟨0x0206, [0], [0], 0, 192, none, 520, false, [1, 1, 1, 1, 3, 3, 3, 3, 3, 3, 3, 3, 1]⟩,
   -- AMP
   ⟨0x0301, [0, 0], [0], 0, 0, none, 60, false, [3]⟩,
   -- PAN
   ⟨0x0302, [0, 0], [0, 0], 0, 0, none, 120, false, [0, 3]⟩,
   -- SHAPER
   ⟨0x0303, [0], [0], 0, 16, none, 140, false, [3, 6, 6, 0]⟩,
   -- FOLDER
   ⟨0x0304, [0], [0], 0, 0, none, 130, false, [3, 0]⟩,
   -- DRIVE
   ⟨0x0305, [0], [0], 0, 32, none, 150, false, [3, 0, 3]⟩,
   -- ENV
   ⟨0x0401, [], [0, 1], 16, 32, none, 90, false, [6, 4, 0, 4, 0, 4, 0, 4, 0, 4, 0, 4, 0, 4, 0, 4]⟩,
   -- ENVT
   ⟨0x0402, [], [0, 1], 16, 32, none, 100, false, [6, 5, 0, 5, 0, 5, 0, 5, 0, 5, 0, 5, 0, 5, 0, 5]⟩,
   -- FOLLOW
   ⟨0x0403, [0], [0, 1], 16, 16, none, 120, false, [4, 4, 6, 3]⟩,
   -- LFO
   ⟨0x0501, [], [1], 0, 32, none, 60, false, [2, 6, 0, 6, 5, 4]⟩,
   -- ROUTE_T
   ⟨0x0502, [1, 1], [1], 0, 0, none, 20, false, [6, 6, 6]⟩,
   -- ROUTE_S
   ⟨0x0503, [0, 0], [0], 0, 0, none, 60, false, [6, 6, 6]⟩,
   -- SLEW
   ⟨0x0504, [1], [1], 0, 16, none, 50, false, [4, 4]⟩,
   -- SAH
   ⟨0x0505, [1, 1], [1], 0, 16, none, 40, false, []⟩,
   -- MATH
   ⟨0x0506, [1, 1], [1], 0, 0, none, 50, false, [6, 6]⟩,
   -- INPUT
   ⟨0x0601, [], [0], 0, 0, none, 70, false, [6, 3]⟩,
   -- SEND
   ⟨0x0602, [0, 0], [], 8, 0, none, 100, false, [6, 3]⟩,
   -- DELAY
   ⟨0x0603, [0], [0], 16, 16, some 3, 260, false, [4, 0, 3, 6]⟩,
   -- DELAYL
   ⟨0x0604, [0], [0], 16, 16, none, 300, true, [4, 0, 3, 6, 6]⟩]

/-- The port kinds of a custom type from its kind mask (R130): bit p 0 audio, 1 control. -/
def kindList (n mask : Nat) : List Nat := (List.range n).map fun p => mask / 2 ^ p % 2

/-- The type a declaration declares. -/
def declType (d : WordDecl) : WordType :=
  { typ := d.typ, ins := kindList d.nin d.inkind, outs := kindList d.nout d.outkind, xs := d.xstate, ys := d.ystate,
    lenPar := none, cost := d.cost, globalOnly := d.isGlobal, fmts := d.params.map (· % 16) }

/-- The type of a code (R61): the catalogue's, or a declared one. -/
def wordType (decls : List WordDecl) (typ : Nat) : Option WordType :=
  if typ < 0x8000 then catalogue.find? fun t => t.typ = typ
  else (decls.find? fun d => d.typ = typ).map declType

/-- The Y state of a Word, with its buffer of LEN samples, rounded up to 8 bytes (R70). -/
def yState (t : WordType) (params : List SynParam) (w : SynWord) : Nat :=
  match t.lenPar with
  | none => t.ys
  | some k =>
    let len := if w.npar ≤ k then 0 else match params[w.pbase + k]? with | some q => q.dflt.toNat | none => 0
    (t.ys + 4 * len + 7) / 8 * 8

end Sys2Proof.Machine
end

