-- ==== Sys2Proof/Machine/Flags.lean ====
section
/-! DEFINITION. Verb arithmetic and its flags (R91 to R93, R112): each operation is formed exactly in the integers, then
wrapped to 80 or 32 bits; overflow and carry compare the two. -/

namespace Sys2Proof.Machine

/-- What an arithmetic operation gives: a new accumulator, or a new D register, and the flags Z, N, V and C (C none where the
operation leaves it). -/
structure ArithOut where
  acc : Option Acc := none
  d   : Option Word := none
  z   : Bool := false
  n   : Bool := false
  v   : Bool := false
  c   : Option Bool := none
  deriving DecidableEq, Repr

/-- An exact accumulator result: wrapped to 80 bits, V where it left the range (R91). -/
def accOut (x : Int) : ArithOut :=
  let r := BitVec.ofInt 80 x
  { acc := some r, z := r = 0, n := r.msb, v := r.toInt ≠ x }

/-- The flags of an exact accumulator difference, with no register written (CMP, R93). -/
def cmpOut (x : Int) : ArithOut := { accOut x with acc := none }

/-- A 32-bit logical result. -/
def logicOut (r : Word) : ArithOut := { d := some r, z := r = 0, n := r.msb }

/-- A 32-bit sum or difference: V from the signed result, C as the carry out of bit 31 of a + b + cin (R93). -/
def addOut (a b : Word) (sub : Bool) : ArithOut :=
  let r := if sub then a - b else a + b
  let exact := if sub then a.toInt - b.toInt else a.toInt + b.toInt
  let carry := if sub then decide (b.toNat ≤ a.toNat) else decide (2 ^ 32 ≤ a.toNat + b.toNat)
  { d := some r, z := r = 0, n := r.msb, v := r.toInt ≠ exact, c := some carry }

/-- A D operand placed at [62:31] (R91). -/
def placed (x : Word) : Int := x.toInt * 2 ^ 31

/-- The arithmetic operation of an opcode on an accumulator, the operands SA and SB, the shift count less one and the second
accumulator (R112, Table 12): none for no operation and for an undefined code. -/
def arith (opc : Nat) (acc : Acc) (sa sb : Word) (count : Nat) (acc2 : Acc) : Option ArithOut :=
  let a := acc.toInt
  match opc with
  | 0x01 => some (accOut (sa.toInt * sb.toInt))
  | 0x02 => some (accOut (a + sa.toInt * sb.toInt))
  | 0x03 => some (accOut (a - sa.toInt * sb.toInt))
  | 0x04 => some (accOut (sa.toNat * sb.toInt))
  | 0x05 => some (accOut (a + sa.toNat * sb.toInt))
  | 0x06 => some (accOut (a + placed sa))
  | 0x07 => some (accOut (a - placed sa))
  | 0x08 => some (accOut (a + sa.toInt))
  | 0x09 => some (accOut (placed sa))
  | 0x0A => some (accOut sa.toInt)
  | 0x0B => some (accOut 0)
  | 0x0C => some (accOut (-a))
  | 0x0D => some (accOut a.natAbs)
  | 0x0E => some (accOut (a * 2 ^ (count + 1)))
  | 0x0F => some (accOut (a / 2 ^ (count + 1)))
  | 0x10 => some (cmpOut (a - placed sa))
  | 0x11 => some (accOut (max a (placed sa)))
  | 0x12 => some (accOut (min a (placed sa)))
  | 0x13 => some (logicOut (sa &&& sb))
  | 0x14 => some (logicOut (sa ||| sb))
  | 0x15 => some (logicOut (sa ^^^ sb))
  | 0x16 => some (addOut sa sb false)
  | 0x17 => some (addOut sa sb true)
  | 0x18 => some (accOut (a + acc2.toInt))
  | 0x19 => some (accOut (a - acc2.toInt))
  | _ => none

/-- VSR with the flags of a slot-A operation (R90, R93): C 11, V 10, N 9, Z 8. -/
def setFlags (vsr : Word) (o : ArithOut) : Word :=
  let w := setBits (setBits (setBits vsr 10 10 (b2n o.v)) 9 9 (b2n o.n)) 8 8 (b2n o.z)
  match o.c with
  | some c => setBits w 11 11 (b2n c)
  | none => w

/-- The condition of JMP and CALL on VSR (R115, Table 14): none for an undefined code. -/
def condHolds (vsr : Word) (cond : Nat) : Option Bool :=
  let z := bitOf vsr 8
  let n := bitOf vsr 9
  let v := bitOf vsr 10
  match cond with
  | 0 => some true
  | 1 => some z
  | 2 => some !z
  | 3 => some n
  | 4 => some !n
  | 5 => some (!z && !n)
  | 6 => some (z || n)
  | 7 => some v
  | 8 => some !v
  | _ => none

/-! ### Storing an accumulator (R92) -/

/-- v / 2^k rounded: 0 convergent, 1 truncated, 2 half up. -/
def roundTo (v : Int) (k rnd : Nat) : Int :=
  match rnd with
  | 1 => v / 2 ^ k
  | 2 => (v + 2 ^ (k - 1)) / 2 ^ k
  | _ => rne v (2 ^ k)

/-- An accumulator stored in n bits, its units at bit k: the value, and whether it left the range (SV). -/
def accNarrow (v : Int) (k n rnd : Nat) (sat : Bool) : Nat × Bool :=
  let r := roundTo v k rnd
  let hi : Int := 2 ^ (n - 1) - 1
  let lo : Int := -2 ^ (n - 1)
  if lo ≤ r ∧ r ≤ hi then ((r % 2 ^ n).toNat, false)
  else (((if sat then (if hi < r then hi else lo) else r) % 2 ^ n).toNat, true)

/-- An accumulator stored as 64 bits: SV where it does not fit, with saturation where SAT is set. -/
def accWide (v : Int) (sat : Bool) : Nat × Bool :=
  let hi : Int := 2 ^ 63 - 1
  let lo : Int := -2 ^ 63
  if lo ≤ v ∧ v ≤ hi then ((v % 2 ^ 64).toNat, false)
  else (((if sat then (if hi < v then hi else lo) else v) % 2 ^ 64).toNat, true)

end Sys2Proof.Machine
end

