-- ==== Sys2Proof/Machine/VerbDecode.lean ====
section
/-! DEFINITION. The Verb's instruction words (R111 to R116): what a 64-bit word spells, for the commands that fetch from
program memory themselves (STEP). The commands PAR to EVPOST name the instruction directly. -/

namespace Sys2Proof.Machine

/-- One Verb instruction. A UNIT word with operation none is par with empty arithmetic. -/
inductive VInstr where
  | par (a b : ArithField) (x y : MoveField)
  | imm (dst : BitVec 6) (value : Word)
  | alui (a : ArithField) (value : Word)
  | regmove (dst src : BitVec 6) (x y : MoveField)
  | ctrlNone
  | jmp (cond : BitVec 4) (target : BitVec 13)
  | call (cond : BitVec 4) (target : BitVec 13)
  | ret
  | rep (counter : BitVec 2) (count : BitVec 16) (last : BitVec 13)
  | repd (counter : BitVec 2) (dreg : BitVec 4) (last : BitVec 13)
  | yield
  | exp2f (dst src : BitVec 4) (x y : MoveField)
  | log2f (dst src : BitVec 4) (x y : MoveField)
  | pinc (dst src : BitVec 4) (x y : MoveField)
  | tip (posPair cfg : BitVec 4) (x y : MoveField)
  | tget (dst : BitVec 4) (x y : MoveField)
  | mixadd (val busIdx : BitVec 4) (x y : MoveField)
  | mixadd2 (valPair busIdx : BitVec 4) (x y : MoveField)
  | evpost (src : BitVec 4) (x y : MoveField)
  | illegal
  deriving DecidableEq, Repr

/-- An arithmetic field of 15 bits (R112). -/
def arithOf (w : Nat) : ArithField :=
  { opc := BitVec.ofNat 5 (w / 2 ^ 10), acc := BitVec.ofNat 2 (w / 2 ^ 8), sa := BitVec.ofNat 4 (w / 16),
    sb := BitVec.ofNat 4 w }

/-- A move field of 15 bits (R113). -/
def moveOf (w : Nat) : MoveField :=
  { store := w / 2 ^ 14 % 2 = 1, reg := BitVec.ofNat 5 (w / 2 ^ 9), ptr := BitVec.ofNat 3 (w / 2 ^ 6),
    mode := BitVec.ofNat 3 (w / 8), size := BitVec.ofNat 2 (w / 2), trunc := w % 2 = 1 }

/-- No arithmetic. -/
def noArith : ArithField := { opc := 0, acc := 0, sa := 0, sb := 0 }

/-- No move. -/
def noMove : MoveField := { store := false, reg := 0, ptr := 0, mode := 0, size := 0, trunc := false }

/-- Bits hi to lo of a 64-bit word. -/
def bits64 (w : DWord) (hi lo : Nat) : Nat := w.toNat / 2 ^ lo % 2 ^ (hi - lo + 1)

/-- A CTRL word (R111, R115); the counter and count fields that an operation does not take are not looked at (log 12). -/
def decodeCtrl (w : DWord) : VInstr :=
  let op := bits64 w 60 56
  let cond := bits64 w 55 52
  let ctr := bits64 w 51 48
  let count := bits64 w 47 32
  let target := bits64 w 12 0
  let t := BitVec.ofNat 13 target
  if bits64 w 31 13 ≠ 0 then .illegal
  else match op with
    | 0 => if cond ≤ 8 ∧ target = 0 then .ctrlNone else .illegal
    | 1 => if cond ≤ 8 then .jmp (BitVec.ofNat 4 cond) t else .illegal
    | 2 => if cond ≤ 8 then .call (BitVec.ofNat 4 cond) t else .illegal
    | 3 => if cond = 0 ∧ target = 0 then .ret else .illegal
    | 4 => if cond = 0 ∧ ctr < 4 then .rep (BitVec.ofNat 2 ctr) (BitVec.ofNat 16 count) t else .illegal
    | 5 => if cond = 0 ∧ ctr < 4 ∧ count < 16 then .repd (BitVec.ofNat 2 ctr) (BitVec.ofNat 4 count) t else .illegal
    | 6 => if cond = 0 ∧ target = 0 then .yield else .illegal
    | _ => .illegal

/-- A UNIT word (R111, R116): fields an operation does not use must be 0. -/
def decodeUnit (w : DWord) : VInstr :=
  let d := bits64 w 55 52
  let a := bits64 w 51 48
  let b := bits64 w 47 44
  let d4 := BitVec.ofNat 4 d
  let a4 := BitVec.ofNat 4 a
  let b4 := BitVec.ofNat 4 b
  let x := moveOf (bits64 w 30 16)
  let y := moveOf (bits64 w 15 1)
  if bits64 w 43 31 ≠ 0 ∨ bits64 w 0 0 ≠ 0 then .illegal
  else match bits64 w 60 56 with
    | 0 => if d = 0 ∧ a = 0 ∧ b = 0 then .par noArith noArith x y else .illegal
    | 1 => if b = 0 then .exp2f d4 a4 x y else .illegal
    | 2 => if b = 0 then .log2f d4 a4 x y else .illegal
    | 3 => if b = 0 then .pinc d4 a4 x y else .illegal
    | 4 => if d = 0 then .tip a4 b4 x y else .illegal
    | 5 => if a = 0 ∧ b = 0 then .tget d4 x y else .illegal
    | 6 => if d = 0 then .mixadd a4 b4 x y else .illegal
    | 7 => if d = 0 then .mixadd2 a4 b4 x y else .illegal
    | 8 => if d = 0 ∧ b = 0 then .evpost a4 x y else .illegal
    | _ => .illegal

/-- The instruction a 64-bit word spells (R111). -/
def decodeVerb (w : DWord) : VInstr :=
  match bits64 w 63 61 with
  | 0 => if bits64 w 0 0 ≠ 0 then .illegal
    else .par (arithOf (bits64 w 60 46)) (arithOf (bits64 w 45 31)) (moveOf (bits64 w 30 16)) (moveOf (bits64 w 15 1))
  | 1 => if bits64 w 54 32 ≠ 0 then .illegal else .imm (BitVec.ofNat 6 (bits64 w 60 55)) (BitVec.ofNat 32 w.toNat)
  | 2 => decodeCtrl w
  | 3 => decodeUnit w
  | 4 => if bits64 w 45 32 ≠ 0 then .illegal
    else .alui (arithOf (bits64 w 60 46)) (BitVec.ofNat 32 w.toNat)
  | 5 => if bits64 w 48 31 ≠ 0 ∨ bits64 w 0 0 ≠ 0 then .illegal
    else .regmove (BitVec.ofNat 6 (bits64 w 60 55)) (BitVec.ofNat 6 (bits64 w 54 49)) (moveOf (bits64 w 30 16))
      (moveOf (bits64 w 15 1))
  | _ => .illegal

end Sys2Proof.Machine
end

