-- ==== Sys2Proof/Machine/Operands.lean ====
section
/-! DEFINITION. Verb registers and operand forms (R89, R90, R94 to R98, R112 to R117): reading and writing registers by
code, addressing modes, what an instruction reads and writes, which instructions are illegal. -/

namespace Sys2Proof.Machine

/-! ### Registers -/

/-- D register k. -/
def VerbBank.dOf (b : VerbBank) (k : Nat) : Word := nth b.d k 0

/-- Accumulator k. -/
def VerbBank.accOf (b : VerbBank) (k : Nat) : Acc := nth b.acc k 0

/-- Pair k. -/
def VerbBank.pairOf (b : VerbBank) (k : Nat) : DWord := b.dOf (2 * k + 1) ++ b.dOf (2 * k)

/-- D register k takes a value. -/
def VerbBank.setD (b : VerbBank) (k : Nat) (v : Word) : VerbBank :=
  { b with d := b.d.set k v, poison := b.poison.filter (· ≠ k) }

/-- Accumulator k takes a value. -/
def VerbBank.setAcc (b : VerbBank) (k : Nat) (v : Acc) : VerbBank :=
  { b with acc := b.acc.set k v, poison := b.poison.filter (· ≠ 16 + k) }

/-- Pair k takes a value. -/
def VerbBank.setPair (b : VerbBank) (k : Nat) (v : DWord) : VerbBank :=
  (b.setD (2 * k) (BitVec.ofNat 32 v.toNat)).setD (2 * k + 1) (BitVec.ofNat 32 (v.toNat / 2 ^ 32))

/-- A part of an accumulator: 0 [31:0], 1 [63:32], 2 [79:64]. -/
def accPart (a : Acc) (part : Nat) : Word := BitVec.ofNat 32 (a.toNat / 2 ^ (32 * part))

/-- A part of an accumulator takes a value: .G takes the low 16 bits (R114). -/
def setAccPart (a : Acc) (part : Nat) (v : Word) : Acc :=
  let x := if part = 2 then v.toNat % 2 ^ 16 else v.toNat
  BitVec.ofNat 80 (a.toNat - (accPart a part).toNat * 2 ^ (32 * part) + x * 2 ^ (32 * part))

/-- VSR after a write (R90): bits 13 and 14 are read only; RND 0b11 leaves RND and sets UERR. -/
def writeVsr (old v : Word) : Word :=
  let w := BitVec.ofNat 32 (bits old 14 13 * 2 ^ 13 + bits v 12 8 * 2 ^ 8 + bits v 6 0)
  if bits v 1 0 = 3 then setBits (setBits w 1 0 (bits old 1 0)) 6 6 1 else w

/-- The value of a register by its 6-bit code (Table 13); a 16-bit register reads with its upper half 0. -/
def VerbBank.readReg (b : VerbBank) (code : Nat) : Word :=
  if code < 0x10 then b.dOf code
  else if code < 0x18 then nth b.p (code - 0x10) 0
  else if code < 0x20 then nth b.b (code - 0x18) 0
  else if code < 0x28 then nth b.l (code - 0x20) 0
  else if code < 0x2C then nth b.m (code - 0x28) 0
  else if code < 0x30 then (nth b.lc (code - 0x2C) 0).setWidth 32
  else if code = 0x30 then b.vsr
  else accPart (b.accOf ((code - 0x31) % 4)) ((code - 0x31) / 4)

/-- A register by its 6-bit code takes a value (R90, R98, R114). -/
def VerbBank.writeReg (b : VerbBank) (code : Nat) (v : Word) : VerbBank :=
  if code < 0x10 then b.setD code v
  else if code < 0x18 then { b with p := b.p.set (code - 0x10) v }
  else if code < 0x20 then { b with b := b.b.set (code - 0x18) v }
  else if code < 0x28 then
    if 0x18000 < v.toNat then { b with vsr := setBits b.vsr 5 5 1 } else { b with l := b.l.set (code - 0x20) v }
  else if code < 0x2C then { b with m := b.m.set (code - 0x28) v }
  else if code < 0x30 then { b with lc := b.lc.set (code - 0x2C) (BitVec.ofNat 16 v.toNat) }
  else if code = 0x30 then { b with vsr := writeVsr b.vsr v }
  else
    let k := (code - 0x31) % 4
    { b with acc := b.acc.set k (setAccPart (b.accOf k) ((code - 0x31) / 4) v) }

/-! ### Resources: D 0 to 15, ACC 16 to 19, P 20, B 28, L 36, M 44, LC 48, VSR 52, flags 53 -/

/-- The resource of a 6-bit register code (Table 13). -/
def resOfCode (code : Nat) : Nat :=
  if code < 0x10 then code
  else if code < 0x30 then code + 4
  else if code = 0x30 then 52
  else 16 + (code - 0x31) % 4

/-- The resources a move's REG code names (R113). -/
def resOfMoveReg (r : Nat) : List Nat :=
  if r < 16 then [r] else if r < 20 then [r] else if r < 24 then [r - 4] else [2 * (r - 24), 2 * (r - 24) + 1]

/-- Is a move present. -/
def mvActive (m : MoveField) : Bool := m.mode ≠ 0

/-- The access size of a move in bytes (R113). -/
def mvBytes (m : MoveField) : Nat := match m.size.toNat with | 0 => 4 | 1 => 2 | _ => 8

/-- A move field is well formed (R113): mode 0 stands alone, modes 6 and 7 and size 3 are undefined, the register fits the
size, TRUNC stands on an accumulator store. -/
def mvLegal (m : MoveField) : Bool :=
  if m.mode = 0 then !m.store && m.reg = 0 && m.ptr = 0 && m.size = 0 && !m.trunc
  else m.mode.toNat ≤ 5 && m.size ≠ 3 && ((20 ≤ m.reg.toNat) = (m.size = 2)) &&
    (!m.trunc || (m.store && 16 ≤ m.reg.toNat && m.reg.toNat < 24))

/-- Does a mode change the pointer. -/
def mvPost (m : MoveField) : Bool := m.mode = 2 || m.mode = 3 || m.mode = 4

/-- Does an operation of the arithmetic table read SA, SB, its accumulator (R112). -/
def arithReadsSa (o : Nat) : Bool :=
  (1 ≤ o && o ≤ 0x0A) || (0x10 ≤ o && o ≤ 0x17)
/-- SB is read as a D register. -/
def arithReadsSb (o : Nat) : Bool := (1 ≤ o && o ≤ 5) || (0x13 ≤ o && o ≤ 0x17)
/-- The accumulator is read. -/
def arithReadsAcc (o : Nat) : Bool :=
  o = 2 || o = 3 || (5 ≤ o && o ≤ 8) || (0x0C ≤ o && o ≤ 0x12) || o = 0x18 || o = 0x19
/-- The result goes to SA, a D register. -/
def arithToD (o : Nat) : Bool := 0x13 ≤ o && o ≤ 0x17
/-- A second accumulator is read. -/
def arithReadsAcc2 (o : Nat) : Bool := o = 0x18 || o = 0x19

/-- An arithmetic field is legal (R112): a defined code, and ACC 0 for the D operations. -/
def arLegal (a : ArithField) : Bool :=
  a.opc.toNat ≤ 0x19 && (!arithToD a.opc.toNat || a.acc = 0)

/-- Consumer kinds of Table 7. -/
inductive Use where
  | arith | unit | store | regmove | addr | branch | rep
  deriving DecidableEq, Repr

/-- What an arithmetic field reads; in ALUI the immediate stands for SB, and names the second accumulator of ADDA and SUBA (R117). -/
def arithReads (a : ArithField) (imm : Option Word) : List (Nat × Use) :=
  let o := a.opc.toNat
  let sb := match imm with | some x => x.toNat | none => a.sb.toNat
  (if arithReadsSa o then [(a.sa.toNat, Use.arith)] else []) ++
  (if arithReadsSb o && imm.isNone then [(sb, Use.arith)] else []) ++
  (if arithReadsAcc o then [(16 + a.acc.toNat, Use.arith)] else []) ++
  (if arithReadsAcc2 o then [(16 + sb % 4, Use.arith)] else [])

/-- The register an arithmetic field writes. -/
def arithWrites (a : ArithField) : List Nat :=
  let o := a.opc.toNat
  if o = 0 ∨ o = 0x10 then [] else if arithToD o then [a.sa.toNat] else [16 + a.acc.toNat]

/-- What a move reads: its pointer, modifier, base and length, and a store its register and VSR. -/
def moveReads (m : MoveField) : List (Nat × Use) :=
  if !mvActive m then []
  else
    let p := m.ptr.toNat
    [(20 + p, Use.addr)] ++
    (if m.mode.toNat = 4 ∨ m.mode.toNat = 5 then [(44 + p % 4, Use.addr)] else []) ++
    (if 2 ≤ m.mode.toNat then [(28 + p, Use.addr), (36 + p, Use.addr)] else []) ++
    (if m.store then (52, Use.store) :: (resOfMoveReg m.reg.toNat).map fun r => (r, Use.store) else [])

/-- What a move writes: a load its register, a post-modify its pointer. -/
def moveWrites (m : MoveField) : List Nat :=
  if !mvActive m then []
  else (if m.store then [] else resOfMoveReg m.reg.toNat) ++ (if mvPost m then [20 + m.ptr.toNat] else [])

/-- What an instruction reads (R104). -/
def VInstr.reads : VInstr → List (Nat × Use)
  | .par a b x y => arithReads a none ++ arithReads b none ++ moveReads x ++ moveReads y
  | .imm _ _ => []
  | .alui a x => arithReads a (some x)
  | .regmove _ src x y => (resOfCode src.toNat, Use.regmove) :: (moveReads x ++ moveReads y)
  | .ctrlNone => []
  | .jmp cond _ => if cond = 0 then [] else [(53, Use.branch), (52, Use.branch)]
  | .call cond _ => if cond = 0 then [] else [(53, Use.branch), (52, Use.branch)]
  | .ret => []
  | .rep k _ _ => [(48 + k.toNat, Use.rep)]
  | .repd k d _ => [(48 + k.toNat, Use.rep), (d.toNat, Use.rep)]
  | .yield => []
  | .exp2f _ a x y => (a.toNat, Use.unit) :: (moveReads x ++ moveReads y)
  | .log2f _ a x y => (a.toNat, Use.unit) :: (moveReads x ++ moveReads y)
  | .pinc _ a x y => (a.toNat, Use.unit) :: (moveReads x ++ moveReads y)
  | .tip p c x y => (p.toNat, Use.unit) :: (p.toNat + 1, Use.unit) :: (c.toNat, Use.unit) :: (moveReads x ++ moveReads y)
  | .tget _ x y => moveReads x ++ moveReads y
  | .mixadd v b x y => (v.toNat, Use.unit) :: (b.toNat, Use.unit) :: (moveReads x ++ moveReads y)
  | .mixadd2 v b x y => (v.toNat, Use.unit) :: (v.toNat + 1, Use.unit) :: (b.toNat, Use.unit) :: (moveReads x ++ moveReads y)
  | .evpost a x y => (a.toNat, Use.unit) :: (moveReads x ++ moveReads y)
  | .illegal => []

/-- What an instruction writes: registers and pointers (R117). -/
def VInstr.writes : VInstr → List Nat
  | .par a b x y => arithWrites a ++ arithWrites b ++ moveWrites x ++ moveWrites y
  | .imm dst _ => [resOfCode dst.toNat]
  | .alui a _ => arithWrites a
  | .regmove dst _ x y => resOfCode dst.toNat :: (moveWrites x ++ moveWrites y)
  | .exp2f d _ x y => d.toNat :: (moveWrites x ++ moveWrites y)
  | .log2f d _ x y => d.toNat :: (moveWrites x ++ moveWrites y)
  | .pinc d _ x y => d.toNat :: (d.toNat + 1) :: (moveWrites x ++ moveWrites y)
  | .tget d x y => d.toNat :: (moveWrites x ++ moveWrites y)
  | .tip _ _ x y => moveWrites x ++ moveWrites y
  | .mixadd _ _ x y => moveWrites x ++ moveWrites y
  | .mixadd2 _ _ x y => moveWrites x ++ moveWrites y
  | .evpost _ x y => moveWrites x ++ moveWrites y
  | _ => []

/-- The two moves of an instruction. -/
def VInstr.moves : VInstr → MoveField × MoveField
  | .par _ _ x y => (x, y)
  | .regmove _ _ x y => (x, y)
  | .exp2f _ _ x y => (x, y)
  | .log2f _ _ x y => (x, y)
  | .pinc _ _ x y => (x, y)
  | .tip _ _ x y => (x, y)
  | .tget _ x y => (x, y)
  | .mixadd _ _ x y => (x, y)
  | .mixadd2 _ _ x y => (x, y)
  | .evpost _ x y => (x, y)
  | _ => (noMove, noMove)

/-- Is the instruction of format CTRL (R100, R102). -/
def VInstr.isCtrl : VInstr → Bool
  | .ctrlNone | .jmp _ _ | .call _ _ | .ret | .rep _ _ _ | .repd _ _ _ | .yield => true
  | _ => false

/-- No register stands twice. -/
def noDouble : List Nat → Bool
  | [] => true
  | x :: xs => !xs.contains x && noDouble xs

/-- The fields of an instruction are legal by themselves (R112 to R117). -/
def VInstr.fieldsLegal : VInstr → Bool
  | .par a b x y => arLegal a && arLegal b && mvLegal x && mvLegal y
  | .imm dst _ => dst.toNat < 0x3D
  | .alui a _ => arLegal a && a.sb = 0
  | .regmove dst src x y => dst.toNat < 0x3D && src.toNat < 0x3D && mvLegal x && mvLegal y
  | .jmp cond _ => cond.toNat ≤ 8
  | .call cond _ => cond.toNat ≤ 8
  | .exp2f _ _ x y => mvLegal x && mvLegal y
  | .log2f _ _ x y => mvLegal x && mvLegal y
  | .pinc d _ x y => d.toNat % 2 = 0 && mvLegal x && mvLegal y
  | .tip p _ x y => p.toNat % 2 = 0 && mvLegal x && mvLegal y
  | .tget _ x y => mvLegal x && mvLegal y
  | .mixadd _ _ x y => mvLegal x && mvLegal y
  | .mixadd2 v _ x y => v.toNat % 2 = 0 && mvLegal x && mvLegal y
  | .evpost _ x y => mvLegal x && mvLegal y
  | .illegal => false
  | _ => true

/-- An instruction is legal at a place (R100, R102, R112 to R117): no double write, no CTRL in a delay slot or at the last
position of an active body, no fifth repeat and none on a counter in use, whatever its count (DESIGN CHOICE for a count of 0, log 150). -/
def VInstr.legal (i : VInstr) (b : VerbBank) : Bool :=
  i.fieldsLegal && noDouble i.writes &&
  (!i.isCtrl || (b.delay.isNone && !b.reps.any fun r => r.last = b.pc)) &&
  (match i with
   | .rep k _ _ => b.reps.length < 4 && !b.reps.any fun r => r.counter = k.toNat
   | .repd k _ _ => b.reps.length < 4 && !b.reps.any fun r => r.counter = k.toNat
   | _ => true)

/-! ### Addresses (R94 to R97) -/

/-- The circular rule (R95): q inside the buffer stays, else it wraps to Bn plus its offset modulo Ln; linear when Ln is 0. -/
def wrapPtr (base len : Word) (q : Int) : Word :=
  if len = 0 then BitVec.ofInt 32 q
  else if (base.toNat : Int) ≤ q ∧ q < base.toNat + len.toNat then BitVec.ofInt 32 q
  else BitVec.ofInt 32 (base.toNat + (q - base.toNat) % len.toNat)

/-- The step of a mode: the access size up or down, or Mn. -/
def moveStep (b : VerbBank) (m : MoveField) : Int :=
  match m.mode.toNat with
  | 2 => (mvBytes m : Int)
  | 3 => -(mvBytes m : Int)
  | 4 | 5 => (nth b.m (m.ptr.toNat % 4) 0).toInt
  | _ => 0

/-- The address a move uses, before any modify: bits [24:0] (Table 3, Table 6). -/
def moveAddr (b : VerbBank) (m : MoveField) : Nat :=
  let p := m.ptr.toNat
  let pn := nth b.p p 0
  let a := if m.mode = 5 then wrapPtr (nth b.b p 0) (nth b.l p 0) (pn.toNat + moveStep b m) else pn
  a.toNat % 2 ^ 25

/-- The pointer after a move, with CWRAP where it lay outside its buffer (R95, R97); pointer, base, length and modifier are those of
b0, the registers from before the instruction (R99). -/
def VerbBank.postModify (b b0 : VerbBank) (m : MoveField) : VerbBank :=
  if !mvPost m then b
  else
    let p := m.ptr.toNat
    let pn := nth b0.p p 0
    let base := nth b0.b p 0
    let len := nth b0.l p 0
    let outside := len ≠ 0 ∧ ¬ (base.toNat ≤ pn.toNat ∧ pn.toNat < base.toNat + len.toNat)
    let b := { b with p := b.p.set p (wrapPtr base len (pn.toNat + moveStep b0 m)) }
    if outside then { b with vsr := setBits b.vsr 4 4 1 } else b

/-- Where an address lies for a data move (R85, R86): X memory, Y memory, shared memory, or nowhere. -/
inductive Place where
  | x | y | shared | fault
  deriving DecidableEq, Repr

/-- The place of an address. -/
def placeOf (a : Nat) : Place :=
  if a < 0x10000 then .fault else if a < 0x28000 then .x else if a < 0x40000 then .y
  else if a < 0x01400000 then .fault else if a < 0x01600000 then .shared else .fault

/-- The place of an access: a fault where its last byte lies nowhere, or a 64-bit access is not aligned (R86). -/
def placeOfAccess (a size : Nat) : Place :=
  if size = 8 ∧ a % 8 ≠ 0 then .fault
  else if placeOf (a + size - 1) = .fault then .fault else placeOf a

/-! ### Loading into and storing from registers (R113, R92) -/

/-- A loaded value goes into its register. -/
def VerbBank.loadReg (b : VerbBank) (reg size : Nat) (v : DWord) (poisoned : Bool) : VerbBank :=
  let n := v.toNat
  let mark := fun (b : VerbBank) (rs : List Nat) => if poisoned then { b with poison := b.poison ++ rs } else b
  if reg < 16 then mark (b.setD reg (if size = 2 then w32 (n % 65536 * 65536) else w32 n)) [reg]
  else if reg < 20 then
    let k := reg - 16
    let x : Int := if size = 2 then (BitVec.ofNat 16 n).toInt * 2 ^ 47 else (BitVec.ofNat 32 n).toInt * 2 ^ 31
    mark (b.setAcc k (BitVec.ofInt 80 x)) [reg]
  else if reg < 24 then mark (b.setAcc (reg - 20) (BitVec.ofInt 80 v.toInt)) [reg - 4]
  else mark (b.setPair (reg - 24) v) [2 * (reg - 24), 2 * (reg - 24) + 1]

/-- The value a store writes, and whether it sets SV. -/
def VerbBank.storeVal (b : VerbBank) (m : MoveField) : Nat × Bool :=
  let reg := m.reg.toNat
  let rnd := if m.trunc then 1 else bits b.vsr 1 0
  let sat := bitOf b.vsr 2
  if reg < 16 then (if mvBytes m = 2 then (b.dOf reg).toNat / 65536 else (b.dOf reg).toNat, false)
  else if reg < 20 then
    let v := (b.accOf (reg - 16)).toInt
    if mvBytes m = 2 then accNarrow v 47 16 rnd sat else accNarrow v 31 32 rnd sat
  else if reg < 24 then accWide (b.accOf (reg - 20)).toInt sat
  else ((b.pairOf (reg - 24)).toNat, false)

end Sys2Proof.Machine
end

