-- ==== Sys2Proof/Machine/Concord.lean ====
section
/-! DEFINITION. Ordered release (R147, R156 to R163, R230, R231): flow order, the release cursor, delivery of stores and
events to their outlets, allocator updates, trace staging (R152 to R154), the in-flight window. -/

namespace Sys2Proof.Machine

/-! ### Verbs and banks -/

/-- Verb v. -/
def verbOf (s : State) (v : Nat) : VerbSt := nth s.verbs v {}

/-- Verb v changes. -/
def onVerb (s : State) (v : Nat) (f : VerbSt → VerbSt) : State := { s with verbs := s.verbs.modify v f }

/-- The bank in use. -/
def VerbSt.cur (x : VerbSt) : VerbBank := if x.useB then x.bankB else x.bankA

/-- The bank in use changes. -/
def VerbSt.setCur (x : VerbSt) (b : VerbBank) : VerbSt := if x.useB then { x with bankB := b } else { x with bankA := b }

/-- The other bank. -/
def VerbSt.other (x : VerbSt) : VerbBank := if x.useB then x.bankA else x.bankB

/-- The other bank changes. -/
def VerbSt.setOther (x : VerbSt) (b : VerbBank) : VerbSt := if x.useB then { x with bankA := b } else { x with bankB := b }

/-! ### Flow order (R156) -/

/-- A Word-frame's key. -/
abbrev FlowKey := Nat × Nat × Nat

/-- One key is older than another. -/
def keyLt (a b : FlowKey) : Bool :=
  if a.1 ≠ b.1 then a.1 < b.1 else if a.2.1 ≠ b.2.1 then a.2.1 < b.2.1 else a.2.2 < b.2.2

/-- The key of a Word-frame. -/
def WordFrame.key (w : WordFrame) : FlowKey := (w.frame, w.pos, w.widx)

/-- The key of an ended Word-frame. -/
def EndedWf.key (e : EndedWf) : FlowKey := (e.frame, e.pos, e.widx)

/-- The oldest Word-frame of each frame's work that has not ended (R158), and every Word-frame in a bank. -/
def openKeys (s : State) : List FlowKey :=
  (s.phrases.map fun p => p.works.map fun w => (w.frame, w.pos, w.next)).flatten ++ (bankFrames s).map WordFrame.key

/-- The cursor has reached a key: every Phrase of its frame is armed, and every Word-frame before it has ended (R158). -/
def reached (s : State) (k : FlowKey) : Bool := k.1 ≤ s.time.step2 && (openKeys s).all fun u => !keyLt u k

/-- The least key of a list. -/
def leastKey : List FlowKey → Option FlowKey
  | [] => none
  | k :: ks => match leastKey ks with
    | none => some k
    | some m => if keyLt m k then some m else some k

/-- The Word-frame with a key, in a bank or ended, changes. -/
def onFlow (s : State) (k : FlowKey) (f : WordFrame → WordFrame) (g : EndedWf → EndedWf) : State :=
  let fb := fun b : VerbBank => { b with wf := b.wf.map fun w => if w.key = k then f w else w }
  { s with verbs := s.verbs.map fun x => { x with bankA := fb x.bankA, bankB := fb x.bankB },
           ended := s.ended.map fun e => if e.key = k then g e else e }

/-- Every effect of an ended Word-frame has been delivered. -/
def EndedWf.settled (e : EndedWf) : Bool := e.stores.isEmpty && e.events.isEmpty && e.alloc.isNone

/-- The cursors of the STORE, ALLOC and EVENT flows have passed an ended Word-frame (R158). -/
def passedAll (s : State) (k : FlowKey) : Bool := reached s k && s.ended.all fun e => keyLt k e.key || e.settled

/-- Ended Word-frames with nothing left to release leave; those in flight once the three cursors have passed them (R147, R158). -/
def dropReleased (s : State) : State :=
  { s with ended := s.ended.filter fun e => !e.settled || (e.inWindow && !passedAll s e.key) }

/-! ### The in-flight window (R147) -/

/-- PARSER.WIN.NOW. -/
def inFlight (s : State) : Nat := (bankFrames s).length + (s.ended.filter (·.inWindow)).length

/-- PARSER.WIN shows the window and its largest value. -/
def refreshWin (s : State) : State :=
  let s := wrFld s R.parserWin 6 0 (inFlight s)
  if fld s R.parserWin 14 8 < inFlight s then wrFld s R.parserWin 14 8 (inFlight s) else s

/-! ### The ALLOC flow (R157, R184) -/

/-- An allocator update reaches the slot table: the end condition and the level (R49, R184). -/
def applyAlloc (s : State) (frame pos : Nat) (u : Bool × Bool × Option Word) : State :=
  let (meets, carry, level) := u
  let p0 := s.phrases.find? fun p => p.pos = pos
  match p0 with
  | none => s
  | some p =>
    let s := match level with | some l => onPhrase s pos fun q => { q with level := l } | none => s
    if meets ∧ ¬ carry ∧ p.ends.isNone then onPhrase s pos fun q => { q with ends := some frame } else s

/-- Allocator updates are delivered in flow order as far as the cursor has come; the outlet never refuses (R157). -/
def drainAlloc : Nat → State → State
  | 0, s => s
  | n + 1, s =>
    match leastKey ((s.ended.filter fun e => e.alloc.isSome).map EndedWf.key) with
    | none => s
    | some k =>
      if !reached s k then s
      else
        match s.ended.find? fun e => e.key = k with
        | some e =>
          let s := { s with ended := s.ended.map fun x => if x.key = k then { x with alloc := none } else x }
          let s := match e.alloc with | some u => applyAlloc s e.frame e.pos u | none => s
          drainAlloc n (dropReleased s)
        | none => s

/-! ### Trace staging (R152 to R154) -/

/-- A trace record is posted; none while tracing is off or its ring has stopped, or outside what is traced (R154). -/
def stageTrace (s : State) (key : FlowKey) (verbs : List Nat) (slot reason : Nat) (bits128 : BitVec 128) : State :=
  let on := flag s R.parserTrctl 0 && !flag s R.parserTrptr 31 &&
    (verbs.any fun v => flag s R.parserTrverb v) &&
    fld s R.parserTrslot 10 0 ≤ slot && slot ≤ fld s R.parserTrslot 26 16 && flag s R.parserTrctl (8 + reason)
  if !on then s
  else { s with parser := { s.parser with trace := s.parser.trace ++ [{ key, bits := bits128 }] } }

/-- A record goes to its destination (R154): the ring, a serial port or a link; none where the destination has no room. A port that does
not export takes none, nor does one without room for the record, and the record is dropped and counted (R333). -/
def emitTrace (s : State) (bs : List Byte) : Option State :=
  let port := fld s R.parserTrctl 5 3
  match fld s R.parserTrctl 2 1 with
  | 0 =>
    if flag s R.parserTrptr 31 then some s
    else
      let i := fld s R.parserTrptr 10 0
      let s := storeBytes s 0 (0x01480000 + 16 * i) bs
      if i = 2047 then
        if flag s R.parserTrctl 6 then some (setFlag s R.parserTrptr 31)
        else some (setFlag (wrFld s R.parserTrptr 10 0 0) R.parserTrptr 30)
      else some (wrFld s R.parserTrptr 10 0 (i + 1))
  | 1 => some ((spExport s port bs).getD (countUp s R.parserTrdrop))
  | _ => linkTrace s port bs

/-- A record that the cursor has reached is staged, or dropped and counted where 256 are (R153, R157). -/
def putStaged (s : State) (r : BitVec 128) : State :=
  if 256 ≤ s.parser.staged.length then countUp s R.parserTrdrop
  else { s with parser := { s.parser with staged := s.parser.staged ++ [r] } }

/-- The TRACE cursor goes on in flow order as far as it can (R153, R158). -/
def passTrace : Nat → State → State
  | 0, s => s
  | n + 1, s =>
    match leastKey (s.parser.trace.map (·.key)) with
    | none => s
    | some k =>
      if !reached s k then s
      else
        match s.parser.trace.find? fun r => r.key = k with
        | none => s
        | some r =>
          passTrace n (putStaged { s with parser := { s.parser with
            trace := (s.parser.trace.takeWhile fun x => x ≠ r) ++ (s.parser.trace.dropWhile fun x => x ≠ r).drop 1 } } r.bits)

/-- Staged records leave, oldest first, as far as the destination takes them (R154). -/
def drainStaged : Nat → State → State
  | 0, s => s
  | n + 1, s =>
    match s.parser.staged with
    | [] => s
    | r :: _ =>
      match emitTrace s (leBytes 16 r.toNat) with
      | none => s
      | some t => drainStaged n { t with parser := { t.parser with staged := t.parser.staged.drop 1 } }

/-- The TRACE flow moves on: cursor, staging, destination. -/
def drainTrace (s : State) : State := drainStaged 256 (passTrace s.parser.trace.length s)

/-- Whatever ended or was delivered lets the flows that never refuse move on. -/
def settleFlows (s : State) : State := refreshWin (dropReleased (drainTrace (drainAlloc 3000 (dropReleased s))))

/-! ### The STORE flow (R157, R160) -/

/-- The oldest Word-frame with a store to deliver, if the cursor has reached it. -/
def nextStore (s : State) : Option (FlowKey × PostedStore) :=
  let fromBanks := (bankFrames s).filterMap fun w => match w.stores with | x :: _ => some (w.key, x) | [] => none
  let fromEnded := s.ended.filterMap fun e => match e.stores with | x :: _ => some (e.key, x) | [] => none
  let all := fromBanks ++ fromEnded
  match leastKey (all.map (·.1)) with
  | none => none
  | some k => if reached s k then all.find? fun x => x.1 = k else none

/-! ### The EVENT flow: routing of Word-emitted events (R207, R230, R231) -/

/-- The MIDI 1.0 bytes of an event on a channel (R231): none where the format cannot carry it. -/
def midiOut (c : Nat) (p : EvPacket) : Option (List Byte) :=
  let key := p.key.toNat
  let v := p.value.toNat
  let b := fun n : Nat => BitVec.ofNat 8 n
  match p.kind.toNat with
  | 0x01 => if key < 128 then some [b (0x90 + c), b key, b (max 1 (v / 2 ^ 25))] else none
  | 0x02 => if key < 128 then some [b (0x80 + c), b key, b (v / 2 ^ 25)] else none
  | 0x03 =>
    if key = 0xFFF then some [b (0xD0 + c), b (v / 2 ^ 25)]
    else if key < 128 then some [b (0xA0 + c), b key, b (v / 2 ^ 25)] else none
  | 0x04 =>
    if key < 128 then some [b (0xB0 + c), b key, b (v / 2 ^ 25)]
    else if key = 0x080 then some [b (0xE0 + c), b (v / 2 ^ 18 % 128), b (v / 2 ^ 25)] else none
  | 0x06 =>
    let bank := v % 2 ^ 14
    let sel := if 2 ^ 31 ≤ v then [b (0xB0 + c), 0x00, b (bank / 128), b (0xB0 + c), 0x20, b (bank % 128)] else []
    if key < 128 then some (sel ++ [b (0xC0 + c), b key]) else none
  | 0x08 => some [0xF8]
  | 0x09 =>
    match key with
    | 1 => some [0xFA]
    | 2 => some [0xFC]
    | 3 => some [0xFB]
    | 4 => some [0xF2, b (v % 128), b (v / 128 % 128)]
    | _ => none
  | 0x0F => if 1 ≤ key % 8 ∧ key % 8 ≤ 4 then some (leBytes (key % 8) v) else none
  | _ => none

/-- The Universal MIDI Packet of an event on a group and channel (R231), its words most significant byte first: types 0x4,
0x1 and 0x3 at full resolution; type 0x3 leaves out the bytes 0xF0 and 0xF7 and carries no other of 128 and above (Table 7). -/
def umpOut (g c : Nat) (p : EvPacket) : Option (List Byte) :=
  let key := p.key.toNat
  let v := p.value.toNat
  let be := fun w : Nat => [BitVec.ofNat 8 (w / 2 ^ 24), BitVec.ofNat 8 (w / 2 ^ 16), BitVec.ofNat 8 (w / 256), BitVec.ofNat 8 w]
  let voice := fun (st d1 d2 w1 : Nat) =>
    some (be (0x40000000 + g * 2 ^ 24 + st * 2 ^ 20 + c * 2 ^ 16 + d1 * 256 + d2) ++ be w1)
  let system := fun (st d1 d2 : Nat) => some (be (0x10000000 + g * 2 ^ 24 + st * 2 ^ 16 + d1 * 256 + d2))
  match p.kind.toNat with
  | 0x01 => if key < 128 then voice 0x9 key 0 (v / 65536 * 65536) else none
  | 0x02 => if key < 128 then voice 0x8 key 0 (v / 65536 * 65536) else none
  | 0x03 => if key = 0xFFF then voice 0xD 0 0 v else if key < 128 then voice 0xA key 0 v else none
  | 0x04 =>
    if key < 128 then voice 0xB key 0 v
    else if key = 0x080 then voice 0xE 0 0 v
    else if 0x100 ≤ key ∧ key < 0x480 then voice 0x2 ((key - 0x100) / 128) ((key - 0x100) % 128) v
    else if 0x480 ≤ key ∧ key < 0x800 then voice 0x3 ((key - 0x480) / 128) ((key - 0x480) % 128) v
    else none
  | 0x05 =>
    let k := key % 128
    let ctl := key / 128
    if ctl = 31 then voice 0x6 k 0 v else if ctl < 16 then voice 0x0 k ctl v else voice 0x1 k (ctl - 16) v
  | 0x06 =>
    let bank := v % 2 ^ 14
    if key < 128 then voice 0xC 0 (v / 2 ^ 31) (key * 2 ^ 24 + bank / 128 * 256 + bank % 128) else none
  | 0x08 => system 0xF8 0 0
  | 0x09 =>
    match key with
    | 1 => system 0xFA 0 0
    | 2 => system 0xFC 0 0
    | 3 => system 0xFB 0 0
    | 4 => system 0xF2 (v % 128) (v / 128 % 128)
    | _ => none
  | 0x0F =>
    let form := if key / 8 % 2 = 1 then (if key / 16 % 2 = 1 then 0 else 1) else if key / 16 % 2 = 1 then 3 else 2
    let bs := ((leBytes (key % 8) v).map BitVec.toNat).filter fun x => x ≠ 0xF0 && x ≠ 0xF7
    let d := fun i : Nat => nth bs i 0
    if 1 ≤ key % 8 ∧ key % 8 ≤ 4 ∧ bs.all (· < 128) then
      some (be (0x30000000 + g * 2 ^ 24 + form * 2 ^ 20 + bs.length * 2 ^ 16 + d 0 * 256 + d 1) ++ be (d 2 * 2 ^ 24 + d 3 * 2 ^ 16))
    else none
  | _ => none

/-- The OUT entry of a part (R230); without one every event is discarded (R229). -/
def outOf (s : State) (part : Nat) : OutEntry := nth s.evt.map.outs part { dest := 0xF, port := 0, format := 0, chan := 0 }

/-- A Word event that cannot be sent is discarded, counted and logged (R231). -/
def outDrop (s : State) (p : EvPacket) (o : OutEntry) : State :=
  raiseGloss (countUp s R.evtOutdrop) 0x5130 (w32 p.part.toNat) (w32 p.kind.toNat) (w32 (o.dest + 16 * o.port))

/-- The characters of an event in an entry's format: none where the format cannot carry it. -/
def outChars (o : OutEntry) (p : EvPacket) : Option (List (BitVec 9)) :=
  match o.format with
  | 0 => (midiOut (o.chan % 16) p).map (·.map (BitVec.setWidth 9))
  | 1 => (umpOut (o.chan / 16) (o.chan % 16) p).map (·.map (BitVec.setWidth 9))
  | _ => some (match pktBytes p with | [] => [] | b :: bs => (b.setWidth 9 ||| 0x100) :: bs.map (BitVec.setWidth 9))

/-- STATE of a link is ACTIVE and it carries events (R362, R379). -/
def linkCarries (s : State) (l : Nat) : Bool :=
  l < 4 && fld s (R.linkLstat + 0x40 * l) 2 0 = 6 && fld s (R.linkLcfg + 0x40 * l) 2 0 ≠ 0 && fld s (R.linkLcfg + 0x40 * l) 2 0 ≠ 4

/-- The event goes to its outlet: none while the outlet cannot take it, so that the flow waits (R157, R159, R230, R231,
R362). -/
def routeEvent (s : State) (p : EvPacket) : Option State :=
  let o := outOf s p.part.toNat
  match o.dest with
  | 0 =>
    if !sourceBlocked s 15 || eventIsPeriod p then
      some (offerEvent s 15 p s.time.aoTime)
    else none
  | 1 =>
    match outChars o p with
    | none => some (outDrop s p o)
    | some cs =>
      if fld s (spReg o.port 0) 18 17 ≠ 0 then some (outDrop s p o) else spPut s o.port 0 cs (some (effPos s p))
  | 2 => some (hostRing s p)
  | 3 =>
    if !linkCarries s o.port then some (outDrop s p o)
    else
      let hd := linkHd s (fld s (R.linkLstat + 0x40 * o.port) 29 16)
      let hd := { hd with droot := flag s (R.linkLstat + 0x40 * o.port) 30 }
      if ((linkOf s o.port).outq.filter (·.typ = 0x04)).length < 64 then some (linkQueue s o.port 0x04 hd (pktBytes p))
      else none
  | _ => some s

/-- The position floor of a Word-emitted event (R207, R361): 256 × 16 (n + 2 + T). -/
def floorEvent (s : State) (frame : Nat) (p : EvPacket) : EvPacket :=
  let least := w64 (4096 * (frame + 2 + tiersOf s))
  { p with stamp := if p.stamp.toNat < least.toNat then least else p.stamp, source := 15, late := false }

/-- The oldest Word-frame with an event to deliver, if the cursor has reached it. -/
def nextEvent (s : State) : Option (FlowKey × EvPacket) :=
  let fromBanks := (bankFrames s).filterMap fun w => match w.events with | x :: _ => some (w.key, x) | [] => none
  let fromEnded := s.ended.filterMap fun e => match e.events with | x :: _ => some (e.key, x) | [] => none
  let all := fromBanks ++ fromEnded
  match leastKey (all.map (·.1)) with
  | none => none
  | some k => if reached s k then all.find? fun x => x.1 = k else none

/-- A worker's Word event waits for the WEV packet of its frame (R361): frame, slot, Word, packet as WEV entries. -/
def keepWev (s : State) (k : FlowKey) (p : EvPacket) : State :=
  { s with sys := { s.sys with wev := s.sys.wev ++ [(k.1, { slot := BitVec.ofNat 16 k.2.1, widx := BitVec.ofNat 16 k.2.2, pkt := p })] } }

/-- The oldest Word event of a system whose frame's blocks have arrived goes to its outlet (R361). -/
def deliverSystem (s : State) : Option State :=
  match s.sys.wevReady with
  | [] => none
  | p :: rest => (routeEvent s p).map fun t => { t with sys := { t.sys with wevReady := rest } }

/-- The oldest posted event the cursor has reached goes to its outlet; the flow waits while the outlet is full (R157 to R159,
R230). In an image with tiers every Word event goes to the root with its frame (R361). -/
def deliverEvent (s : State) : State :=
  match nextEvent s with
  | none => s
  | some (k, p) =>
    let p := floorEvent s k.1 p
    let taken := fun t => settleFlows (onFlow t k (fun w => { w with events := w.events.drop 1, eventsOut := w.eventsOut + 1 })
      (fun e => { e with events := e.events.drop 1 }))
    if tiersOf s ≠ 0 then taken (keepWev s k p)
    else match routeEvent s p with
      | none => s
      | some t => taken t

/-- EVENT_DELIVER: Concord hands the oldest posted event to the fabric, a port, the host ring or a link; on the root of a system
the Word events of frames whose blocks have arrived go first (R157, R230, R361). -/
def execEventDeliver (s : State) : Host.Outcome State Fault Refusal :=
  match deliverSystem s with
  | some t => .next t
  | none => .next (deliverEvent s)

end Sys2Proof.Machine
end

