-- ==== Sys2Proof/Machine/VerbEnd.lean ====
section
/-! DEFINITION. How a Word-frame ends (R118, R119, R123, R125, R128, R129, R152, R157): its exit status, its effects handed to
Concord, its Phrase's next Word or the end of the Phrase's frame, the bank handover, and faults. -/

namespace Sys2Proof.Machine

/-- The Phrase and the work of a frame that has a flow position. -/
def findWork (s : State) (frame pos : Nat) : Option (Phrase × Work) :=
  s.phrases.findSome? fun p => (p.works.find? fun w => w.frame = frame && w.pos = pos).map fun w => (p, w)

/-- The work of a frame at a flow position changes, with its Phrase. -/
def onWork (s : State) (frame pos : Nat) (f : Phrase → Phrase) (g : Work → Work) : State :=
  { s with phrases := s.phrases.map fun p =>
      if p.works.any fun w => w.frame = frame && w.pos = pos then
        let p := f p
        { p with works := p.works.map fun w => if w.frame = frame ∧ w.pos = pos then g w else w }
      else p }

/-- The Verb cycle of this instant from the start of the computing window of a frame (R152). -/
def windowCycle (s : State) (frame : Nat) : Nat :=
  32 * ((s.time.aoTime - s.time.epoch).toInt.toNat - 16 * (frame - 1) * tclkPerSample s)

/-- The slot number a position is traced with (R152): 0x700 + SID for a global Phrase. -/
def traceSlot (pos : Nat) : Nat := if 2048 ≤ pos then 0x700 + (pos - 2048) else pos

/-- The dispatch record of a Word-frame (Table 5 of the Parser chapter). -/
def dispatchRecord (s : State) (v : Nat) (w : WordFrame) (aborted : Bool) : BitVec 128 :=
  let late := 16 * w.frame * tclkPerSample s < (s.time.aoTime - s.time.epoch).toInt.toNat
  let id := traceSlot w.pos + w.widx * 2 ^ 11 + v * 2 ^ 17 + w.reason * 2 ^ 21 + b2n w.resumed * 2 ^ 24 +
    b2n aborted * 2 ^ 25 + b2n late * 2 ^ 26
  BitVec.ofNat 128 (w.frame % 2 ^ 32 + id * 2 ^ 32 + w.start % 2 ^ 32 * 2 ^ 64 + windowCycle s w.frame % 2 ^ 32 * 2 ^ 96)

/-- The frame-area address of output port q of Word w (R121, R123). -/
def frameArea (p : Phrase) (x : Syntax) (w q : Nat) : Nat :=
  0x38000 + 64 * (p.farea.getD 0 + (mapGet x.slots (8 * w + q)).getD 0)

/-- The frame of a delayed edge's source is copied to its held frame: zeros where the Word was aborted (R37, R123, R128). -/
def copyHeld (s : State) (p : Phrase) (x : Syntax) (w : Work) (v : Nat) (e : SynEdge) : State :=
  let dst := yAddr p v + e.doff
  if w.aborted.contains e.srcw then putWordBytes s dst (List.replicate 64 0)
  else copyWords s 8 (localAddr v (frameArea p x e.srcw e.srcp)) dst

/-- The delayed edges of a Syntax whose source Word ran, one for each held frame (R37); those of a Word dropped by abandonment
do not advance (R150). -/
def heldEdges (x : Syntax) (ran : Nat) : List SynEdge :=
  (x.edges.filter fun e => 8 ≤ e.kind && e.srcw < ran).foldl (fun acc e =>
    if acc.any fun f => f.srcw = e.srcw && f.srcp = e.srcp && f.doff = e.doff then acc else acc ++ [e]) []

/-- The steal level a Phrase's frame leaves (R184): none where its Syntax names no level Word, that Word was aborted or did not run, or the
Phrase has not yet completed a frame. -/
def levelOf (s : State) (p : Phrase) (x : Syntax) (w : Work) (v : Nat) : State × Option Word :=
  match x.ends with
  | [] => (s, none)
  | e :: _ =>
    match x.words[e]? with
    | none => (s, none)
    | some sw =>
      let levelled := sw.typ = 0x0401 || sw.typ = 0x0402 ||
        (0x8000 ≤ sw.typ && (match wordType s.decls sw.typ with | some t => 4 ≤ t.xs | none => false))
      if levelled ∧ ¬ w.aborted.contains e ∧ e < w.next ∧ ¬ (w.cut ∧ ¬ p.completed) then
        let (s, d, _, _) := memLoad s 1 (xAddr p v + sw.xoff) 4
        (s, some (BitVec.ofNat 32 d.toNat))
      else (s, none)

/-- Has the Phrase met its end in this frame (R49): RELEASED at the end of it, no GATE_ON in it, every end-detect Word DONE,
or with none the 16 samples after GATEOFF over. -/
def meetsEnd (p : Phrase) (x : Syntax) (w : Work) : Bool :=
  let gateOff := fieldAt w.hdr 0x18 8
  (nth w.hdr 3 0).toNat % 8 = 3 && !(w.evs.any fun e => e.kind = 1) &&
  (if x.ends.isEmpty then gateOff ≠ 0xFFFFFFFFFFFFFFFF && gateOff + 4096 ≤ 4096 * (w.frame + 1)
   else x.ends.all fun e => w.done.contains e)

/-- A Phrase none of whose Word-frames ran in a frame keeps FIRST for its next one, which may be armed already (R150). -/
def handFirst (lost : Bool) : List Work → List Work
  | [] => []
  | k :: ks => if lost then { k with first := true, hdr := k.hdr.set 3 (nth k.hdr 3 0 ||| 0x80) } :: ks else k :: ks

/-- The last Word of a Phrase's frame has ended: held frames are copied, the slots released, and the allocator update of the
frame is posted at that Word's place in flow order (R123, R157). It stays in flight with it where it has run to its YIELD (R147). -/
def endPhraseFrame (s : State) (p : Phrase) (w : Work) (last : Nat) (yielded : Bool) : State :=
  match synOf s p.sid with
  | none => s
  | some x =>
    let (s, level) := match p.home with
      | some v =>
        let s := if p.farea.isNone then s else (heldEdges x w.next).foldl (fun t e => copyHeld t p x w v e) s
        levelOf s p x w v
      | none => (s, none)
    let upd := (meetsEnd p x w, w.carry && !x.ends.isEmpty, level)
    let key : FlowKey := (w.frame, w.pos, last)
    let s := if s.ended.any fun e => e.key = key then
        { s with ended := s.ended.map fun e => if e.key = key then { e with alloc := some upd } else e }
      else
        let e : EndedWf :=
          { frame := w.frame, pos := w.pos, widx := last, stores := [], events := [], alloc := some upd, inWindow := yielded }
        { s with ended := s.ended ++ [e] }
    { s with phrases := s.phrases.map fun q =>
        if q.works.any fun u => u.frame = w.frame && u.pos = w.pos then
          { q with works := handFirst (w.first && w.next = 0) (q.works.filter fun u => !(u.frame = w.frame && u.pos = w.pos)),
                   farea := none, first := q.first && w.next = 0, completed := q.completed || !w.cut }
        else q }

/-- A Word of a Phrase's frame has ended with an exit status: the next Word's turn, or the end of the Phrase's frame (R125,
R140). -/
def wordEnded (s : State) (frame pos widx : Nat) (done carry aborted : Bool) : State :=
  let s := onWork s frame pos (fun p => { p with first := false, moved := false }) fun w =>
    { w with next := widx + 1, done := (if done then w.done ++ [widx] else w.done), carry := w.carry || carry,
             aborted := (if aborted then w.aborted ++ [widx] else w.aborted) }
  match findWork s frame pos with
  | none => s
  | some (p, w) =>
    match synOf s p.sid with
    | some x => if x.words.length ≤ widx + 1 ∨ w.cut then endPhraseFrame s p w widx (!aborted) else s
    | none => s

/-- A register that a load, a table result or a unit has written: what wrote it before no longer counts (R104). -/
def VerbBank.arrived (b : VerbBank) (rs : List Nat) : VerbBank := { b with produced := b.produced.filter fun p => !rs.contains p.res }

/-- The result of the exponential and logarithm unit goes into its registers (R106). -/
def deliverUnit (b : VerbBank) (u : UnitResult) : VerbBank :=
  (((List.range u.vals.length).zip u.vals).foldl (fun (acc : VerbBank) (ix : Nat × Word) => acc.setD (u.dst + ix.1) ix.2)
    { b with units := b.units.filter (· ≠ u) }).arrived ((List.range u.vals.length).map (u.dst + ·))

/-- A bank that has stood frozen for n cycles, 12 or more, resumes (R119): its count goes on where it stopped, unit results have arrived
and every operand of Table 7 is available, and what loads and table requests have still to wait is shorter by n. -/
def VerbBank.thaw (b : VerbBank) (n : Nat) : VerbBank :=
  let b := b.units.foldl deliverUnit b
  { b with wf := b.wf.map fun w => { w with resumed := true }, produced := [],
           loads := b.loads.map fun l => { l with paused := l.paused + n },
           table := b.table.map fun r => { r with paused := r.paused + n } }

/-- The other bank of a Verb has a Word-frame to run: one frozen by a pre-emption, or one that is loaded. -/
def VerbSt.waits (x : VerbSt) : Bool := x.frozen || x.other.wf.isSome

/-- A Verb whose Word-frame has ended turns to its other bank (R118, R119): the frozen one resumes, a loaded one starts, or the Verb idles
with that bank in use, which takes the next Word-frame. While it is halted it starts nothing (R479). -/
def turnBank (s : State) (x : VerbSt) : VerbSt :=
  if !x.waits then { x with useB := !x.useB, running := false }
  else if x.halted then { x with running := false }
  else if x.frozen then
    let n := x.cur.cycles
    let x := { x with useB := !x.useB, frozen := false, running := true }
    x.setCur (x.cur.thaw n)
  else
    let x := { x with useB := !x.useB, running := true }
    x.setCur { x.cur with wf := x.cur.wf.map fun w => { w with start := windowCycle s w.frame } }

/-- COST of the Word-frames of a frame homed on a Verb that have not ended; a running one counts what is left of it (R143). -/
def workLeft (s : State) (v : Nat) (sel : Nat → Bool) : Nat :=
  (s.phrases.map fun p =>
    match decide (p.home = some v), synOf s p.sid with
    | true, some x => ((p.works.filter fun w => sel w.frame).map fun w => ((x.words.drop w.next).map (·.cost)).sum).sum
    | _, _ => 0).sum

/-- q of a Verb for a frame (R143): a running Word-frame counts max(0, COST - cycles spent). -/
def verbQ (s : State) (v frame : Nat) : Nat :=
  let q := workLeft s v (· = frame)
  let x := verbOf s v
  match x.running, x.cur.wf with
  | true, some w => if w.frame = frame then q - w.cost + (w.cost - x.cur.cycles) else q
  | _, _ => q

/-- The first Word-frame of the open frame that starts on a Verb fixes q₀ and its cycle, the first of its entry switch, at which none of its
COST is spent (R126, R143, R144). -/
def noteFirst (s : State) (v : Nat) : State :=
  let x := verbOf s v
  match x.running, x.q0, x.cur.wf with
  | true, none, some w =>
    if w.frame = s.time.frame then
      let q := if w.resumed then verbQ s v w.frame else workLeft s v (· = w.frame)
      onVerb s v fun y => { y with q0 := some (q, windowCycle s w.frame) }
    else s
  | _, _, _ => s

/-- The bank in use empties and the Verb turns to its other one; a halt that waits for the end of the Word-frame takes effect
(R479). -/
def handover (s : State) (v : Nat) : State :=
  onVerb s v fun x =>
    let empty := { x.cur with wf := none, units := [], loads := [], table := [], produced := [], poison := [], delay := none }
    let x := x.setCur empty
    let x := if x.haltPending then { x with halted := true, haltCause := 1, haltPending := false } else x
    turnBank s x

/-- The Word-frame in use on Verb v ends: traced, its effects handed to Concord unless it was aborted, its Phrase goes on, the
Verb turns to its other bank. -/
def endWordFrame (s : State) (v : Nat) (done carry aborted : Bool) : State :=
  match (verbOf s v).cur.wf with
  | none => s
  | some w =>
    let s := if w.dropped = 0 then s else raiseGloss s 0x3131 (w32 (traceSlot w.pos)) (w32 w.widx) (w32 w.dropped)
    let s := stageTrace s w.key [v] (traceSlot w.pos) w.reason (dispatchRecord s v w aborted)
    let s := handover s v
    let posted := w.storesOut + w.stores.length + w.eventsOut + w.events.length
    let s := if aborted ∨ posted = 0 then s
      else { s with ended := s.ended ++ [{ frame := w.frame, pos := w.pos, widx := w.widx, stores := w.stores, events := w.events,
                                           alloc := none, inWindow := true }] }
    settleFlows (noteFirst (wordEnded s w.frame w.pos w.widx done carry aborted) v)

/-! ### Faults (R128, R129) -/

/-- VFAULT and VSLOT record the first fault of a Verb (R129). -/
def recordFault (s : State) (v code : Nat) (w : WordFrame) (pc : Nat) : State :=
  let a := R.vdbgVfault + 4 * v
  if flag s a 31 then setFlag s a 30
  else wr (wr s a (w32 (2 ^ 31 + code * 2 ^ 27 + w.widx * 2 ^ 21 + pc))) (R.vdbgVslot + 4 * v) (w32 (traceSlot w.pos))

/-- A recovery trigger for some Verbs (R146): slot mode from the next frame, and for the Verbs that enter recovery by it the
Gloss entry of that (the spec gives its trigger word no coding: a free value, log 8). -/
def triggerRecovery (s : State) (mask : Nat) : State :=
  let frames := fld s R.parserCfg 15 8
  let fresh := ((List.range 16).filter fun v => mask / 2 ^ v % 2 = 1 && (verbOf s v).recover = 0).foldl (fun m v => m + 2 ^ v) 0
  let s := { s with verbs := ((List.range s.verbs.length).zip s.verbs).map fun (v, x) =>
    if mask / 2 ^ v % 2 = 1 then { x with recover := frames + 1 } else x }
  if fresh = 0 then s
  else
    let (s, trigger) := drawFree s
    raiseGloss s 0x3141 (w32 fresh) trigger (w32 frames)

/-- The Gloss entry of an abort (R128). The spec gives three items that share the first two data words with a fourth and fifth no bit
places: Verb + 256 × fault code, then slot + 65,536 × Word index, then the instruction (DESIGN CHOICE, log 121). -/
def logAbort (s : State) (v code : Nat) (w : WordFrame) (pc : Nat) : State :=
  raiseGloss s 0x3130 (w32 (v + 256 * code)) (w32 (traceSlot w.pos + 65536 * w.widx)) (w32 pc)

/-- The bank of Verb v takes a new content. -/
def setBank (s : State) (v : Nat) (b : VerbBank) : State := onVerb s v fun x => x.setCur b

/-- The bank in use on Verb v. -/
def bankOfVerb (s : State) (v : Nat) : VerbBank := (verbOf s v).cur

/-- A bank of Verb v: the one in use, or the other one. -/
def bankAt (s : State) (v : Nat) (other : Bool) : VerbBank := if other then (verbOf s v).other else bankOfVerb s v

/-- A bank of Verb v takes a new content. -/
def setBankAt (s : State) (v : Nat) (other : Bool) (b : VerbBank) : State :=
  if other then onVerb s v fun x => x.setOther b else setBank s v b

/-- The count of the Word-frame in a bank of Verb v has reached COST + 1: VOVER counts it once, and its Gloss entry is raised (R127). -/
def overCheckAt (s : State) (v : Nat) (other : Bool) : State :=
  match (bankAt s v other).wf with
  | none => s
  | some w =>
    if w.overReported || (bankAt s v other).cycles ≤ w.cost then s
    else
      let s := setBankAt s v other { bankAt s v other with wf := some { w with overReported := true } }
      raiseGloss (countUp s (R.vdbgVover + 4 * v)) 0x3120 (w32 (traceSlot w.pos)) (w32 w.widx) (w32 w.cost)

/-- The same of the bank in use. -/
def overCheck (s : State) (v : Nat) : State := overCheckAt s v false

/-- A fault aborts the Word-frame in use on Verb v at its instruction (R128): DONE = 1 and CARRY = 0, its frame void; a
watchdog fault or a poisoned read diverges its Phrase (R173); a poisoned read is a recovery trigger of its Verb and has no
entry of its own (R128, R146). A count past COST that is not yet reported is (R127). -/
def abortFrame (s : State) (v code : Nat) : State :=
  let s := overCheck s v
  match (verbOf s v).cur.wf with
  | none => s
  | some w =>
    let pc := (verbOf s v).cur.pc
    let s := recordFault s v code w pc
    let s := if code = 7 then triggerRecovery s (2 ^ v)
      else logAbort s v code w pc
    let s := voidFrame s w.frame (if code = 7 then 4 else 3)
    let s := if code = 5 ∨ code = 7 then divergeWork s w.frame w.pos else s
    endWordFrame s v true false true

end Sys2Proof.Machine
end

