-- ==== Sys2Proof/Machine/VerbCore.lean ====
section
/-! DEFINITION. Issuing one Verb instruction (R84 to R117): stalls, results under way, moves, arithmetic, the units, program
flow, faults. Every instruction command runs through issue. -/

namespace Sys2Proof.Machine

/-! ### Results under way (R88, R104, R106, R107) -/

/-- A latency in cycles: a free value within the spec's bound (R88: 30, R107: 40; log 7). -/
def drawLatency (s : State) (bound : Nat) : State × Nat :=
  ({ s with free := s.free + 1 }, min bound (1 + Config.freeLatency s.free))

/-- Which bank of Verb v the next result of a kind goes to: the frozen one while it awaits one, since it asked earlier (R119). -/
def awaiting (s : State) (v : Nat) (waits : VerbBank → Bool) : Bool := (verbOf s v).frozen && waits (verbOf s v).other

/-- The bytes of a shared address as a Word-frame sees them (R160): the latest store in flow order among its own first ones
and every older Word-frame's, else memory. -/
def forwarded (s : State) (key : FlowKey) (own : List PostedStore) (a : Nat) : Option Byte :=
  let olderEnded := (s.ended.filter fun e => keyLt e.key key).map fun e => (e.key, e.stores)
  let olderBanks := ((bankFrames s).filter fun w => keyLt w.key key).map fun w => (w.key, w.stores)
  let hit := fun (xs : List PostedStore) => (xs.filter fun x => x.addr ≤ a && a < x.addr + x.size).getLast?
  let byteIn := fun (x : PostedStore) => BitVec.ofNat 8 (x.val.toNat / 256 ^ (a - x.addr))
  match hit own with
  | some x => some (byteIn x)
  | none =>
    let best := (olderEnded ++ olderBanks).foldl (fun (acc : Option (FlowKey × PostedStore)) (k, xs) =>
      match hit xs, acc with
      | none, _ => acc
      | some x, none => some (k, x)
      | some x, some (m, _) => if keyLt m k then some (k, x) else acc) none
    best.map fun (_, x) => byteIn x

/-- The stores that a Word-frame had posted before a load and that Concord has not yet released (R160). -/
def postedBefore (w : WordFrame) (l : SharedLoad) : List PostedStore := w.stores.take (l.posted - w.storesOut)

/-- A shared load of Word-frame w on Verb v takes its value (R88, R160). -/
def sharedValue (s : State) (v : Nat) (w : WordFrame) (l : SharedLoad) : State × DWord × Bool :=
  match l.val with
  | some (d, bad) => (s, d, bad)
  | none =>
    let (s, d, bad, _) := memLoad s (16 + v) l.addr l.size
    let hit := fun i => forwarded s w.key (postedBefore w l) (l.addr + i)
    let bs := (List.range l.size).map fun i => (hit i).getD (BitVec.ofNat 8 (d.toNat / 256 ^ i))
    (s, w64 (leNat bs), bad && !(List.range l.size).all fun i => (hit i).isSome)

/-- The oldest shared load of a bank arrives (R104). -/
def deliverLoad (s : State) (v : Nat) (other : Bool) : State :=
  match (bankAt s v other).loads, (bankAt s v other).wf with
  | l :: rest, some w =>
    let (s, d, bad) := sharedValue s v w l
    let b := { bankAt s v other with loads := rest }
    setBankAt s v other ((b.loadReg l.reg l.size d bad).arrived (resOfMoveReg l.reg))
  | _, _ => s

/-- The registers a load under way will write. -/
def SharedLoad.res (l : SharedLoad) : List Nat := resOfMoveReg l.reg

/-- Loads under way are waited for as long as one of them writes a register of a list: the state and the cycle at which the
last has arrived. -/
def awaitLoads (v : Nat) (regs : List Nat) : Nat → State → Nat → State × Nat
  | 0, s, t => (s, t)
  | n + 1, s, t =>
    match (bankOfVerb s v).loads with
    | [] => (s, t)
    | l :: _ =>
      if (bankOfVerb s v).loads.any fun l => l.res.any regs.contains then
        let (s, lat) := drawLatency s 30
        awaitLoads v regs n (deliverLoad s v false) (max t (l.issued + (lat - l.paused)))
      else (s, t)

/-- Unit results whose register an instruction touches are waited for (R104: 6 cycles). -/
def awaitUnits (b : VerbBank) (regs : List Nat) (t : Nat) : VerbBank × Nat :=
  b.units.foldl (fun (acc : VerbBank × Nat) u =>
    if (List.range u.vals.length).any fun i => regs.contains (u.dst + i) then
      (deliverUnit acc.1 u, max acc.2 (u.issued + 6))
    else acc) (b, t)

/-! ### Stalls (R104, Table 7) -/

/-- How long after its producer a value is available to a consumer. A pair that Table 7 does not list is available after 1 cycle, and
arithmetic into the D of a REPD after 3 (DESIGN CHOICE, log 109). -/
def availableAfter (prod : Nat) (use : Use) : Nat :=
  match prod, use with
  | 1, .store => 3
  | 1, .regmove => 3
  | 1, .rep => 3
  | 2, .addr => 3
  | 2, .branch => 3
  | 2, .rep => 3
  | 3, .branch => 6
  | _, _ => 1

/-- An immediate or a move into VSR takes effect 3 cycles later, whatever reads VSR (R89); into a D register it is available to a store
after 1 (Table 7). -/
def availOf (p : Produced) (use : Use) : Nat := if p.prod = 2 ∧ p.res = 52 then 3 else availableAfter p.prod use

/-- The earliest cycle at which an instruction that reads these may issue. -/
def readyAt (b : VerbBank) (reads : List (Nat × Use)) (t : Nat) : Nat :=
  b.produced.foldl (fun t p =>
    reads.foldl (fun t r => if r.1 = p.res then max t (p.issued + availOf p r.2) else t) t) t

/-- A producer is noted, in place of the register's earlier one. -/
def note (b : VerbBank) (res prod : Nat) (t : Nat) : VerbBank :=
  { b with produced := b.produced.filter (fun p => p.res ≠ res) ++ [{ res, prod, issued := t }] }

/-- IMM or REGMOVE into a register is noted. A part of an accumulator leaves what produced its other parts counting (R114). -/
def noteCode (b : VerbBank) (code : Nat) (t : Nat) : VerbBank :=
  let res := resOfCode code
  if 0x31 ≤ code then { b with produced := b.produced.filter (fun p => !(p.res = res && p.prod = 2)) ++ [{ res, prod := 2, issued := t }] }
  else note b res 2 t

/-! ### Moves (R84 to R88, R124) -/

/-- The bank area of the bank in use, a local address (R85, Table 2). -/
def bankArea (useB : Bool) : Nat := if useB then 0x12000 else 0x10000

/-- Does a range lie within a window. -/
def within (a size : Nat) (w : Nat × Nat) : Bool := w.1 ≤ a && a + size ≤ w.1 + w.2

/-- The Word scratch of the bank in use (R120, R124). -/
def scratchOf (useB : Bool) : Nat × Nat := (bankArea useB + 0x1100, 3840)

/-- The discard frame (R85). -/
def discardFrame : Nat × Nat := (0x28040, 64)

/-- May a Word-frame store there (R124): every byte lies in one of its places, which may be two that adjoin. -/
def storeAllowed (useB : Bool) (w : WordFrame) (a size : Nat) : Bool :=
  (List.range size).all fun i =>
    within (a + i) 1 (scratchOf useB) || within (a + i) 1 discardFrame || w.windows.any (within (a + i) 1)

/-- The shared delay area (R394). -/
def delayArea (s : State) : Nat × Nat := (0x014C0000, fld s R.memDly 4 0 * 0x10000)

/-- The fault of a move, if any (R86, R88, R124): 2 address, 3 window. -/
def moveFault (s : State) (useB : Bool) (w : WordFrame) (b : VerbBank) (m : MoveField) (posted : Nat) : Option Nat :=
  if !mvActive m then none
  else
    let a := moveAddr b m
    let size := mvBytes m
    match placeOfAccess a size with
    | .fault => some 2
    | .shared => if !m.store then none
      else if within a size (delayArea s) ∧ posted < 256 then none else some 3
    | _ => if !m.store ∨ storeAllowed useB w a size then none else some 3

/-- Bytes of a local load that nothing defines: the discard frame, and Word scratch not stored since entry (R85, R120). -/
def undefinedByte (useB : Bool) (w : WordFrame) (a : Nat) : Bool :=
  within a 1 discardFrame || (within a 1 (scratchOf useB) && !w.scratch.any (within a 1))

/-- A local load: the data with undefined bytes taken from a free value (log 3), poison, and cycles for corrected parts. -/
def localLoad (s : State) (v : Nat) (useB : Bool) (w : WordFrame) (a size : Nat) : State × DWord × Bool × Nat :=
  let r := memLoad s (16 + v) (localAddr v a) size
  if (List.range size).any fun i => undefinedByte useB w (a + i) then
    let f0 := drawFree r.1
    let f1 := drawFree f0.1
    let f := f0.2.toNat + f1.2.toNat * 2 ^ 32
    let bs := (List.range size).map fun i =>
      BitVec.ofNat 8 ((if undefinedByte useB w (a + i) then f else r.2.1.toNat) / 256 ^ i)
    (f1.1, w64 (leNat bs), r.2.2)
  else r

/-- What a move leaves for after the arithmetic: a loaded register. -/
structure Loaded where
  reg  : Nat
  size : Nat
  val  : DWord
  bad  : Bool

/-- One move's memory access (R88, R92, R113), with the registers as before the instruction: the state, a local load's
result, extra cycles. A store marks SV in the bank; a shared store is posted; a shared load is queued. -/
def doMove (s : State) (v : Nat) (b0 : VerbBank) (m : MoveField) (t : Nat) : State × Option Loaded × Nat :=
  if !mvActive m then (s, none, 0)
  else
    let useB := (verbOf s v).useB
    let a := moveAddr b0 m
    let size := mvBytes m
    let cross := if a % 8 + size ≤ 8 then 0 else 1
    match b0.wf with
    | none => (s, none, 0)
    | some w =>
      let shared := placeOf a = .shared
      if m.store then
        let (val, sv) := b0.storeVal m
        let b := bankOfVerb s v
        let b := if sv then { b with vsr := setBits b.vsr 3 3 1 } else b
        if shared then
          let post : PostedStore := { addr := a, size, val := w64 val }
          (setBank s v { b with wf := b.wf.map fun x => { x with stores := x.stores ++ [post] } }, none, cross)
        else
          let b := if within a size (scratchOf useB) then
              { b with wf := b.wf.map fun x => { x with scratch := x.scratch ++ [(a, size)] } } else b
          (memStore (setBank s v b) (16 + v) (localAddr v a) size (w64 val), none, cross)
      else if shared then
        let b := bankOfVerb s v
        let l : SharedLoad := { reg := m.reg.toNat, size, addr := a, posted := w.storesOut + w.stores.length, issued := t }
        (setBank s v { b with loads := b.loads ++ [l] }, none, cross)
      else
        let (s, d, bad, cor) := localLoad s v useB w a size
        (s, some { reg := m.reg.toNat, size, val := d, bad }, cross + cor)

/-- Both moves address the same local memory: one cycle more (R84). -/
def moveConflict (b : VerbBank) (x y : MoveField) : Nat :=
  if mvActive x && mvActive y && placeOf (moveAddr b x) = placeOf (moveAddr b y) && placeOf (moveAddr b x) ≠ .shared then 1
  else 0

/-- Both moves address shared memory: an illegal instruction (R117). -/
def bothShared (b : VerbBank) (x y : MoveField) : Bool :=
  mvActive x && mvActive y && placeOf (moveAddr b x) = .shared && placeOf (moveAddr b y) = .shared

/-! ### Arithmetic slots -/

/-- An arithmetic slot: its result with the registers as before the instruction; slot A sets the flags (R93). An immediate shift takes the
low 4 bits of ALUI's immediate (DESIGN CHOICE, log 150). -/
def doArith (b0 b : VerbBank) (a : ArithField) (imm : Option Word) (slotA : Bool) (t : Nat) : VerbBank :=
  let sb := match imm with | some x => x | none => b0.dOf a.sb.toNat
  let low := match imm with | some x => x.toNat | none => a.sb.toNat
  match arith a.opc.toNat (b0.accOf a.acc.toNat) (b0.dOf a.sa.toNat) sb (low % 16) (b0.accOf (low % 4)) with
  | none => b
  | some o =>
    let b := match o.acc with | some x => note (b.setAcc a.acc.toNat x) (16 + a.acc.toNat) 1 t | none => b
    let b := match o.d with | some x => note (b.setD a.sa.toNat x) a.sa.toNat 1 t | none => b
    if slotA then note { b with vsr := setFlags b.vsr o } 53 3 t else b

/-! ### Units (R106 to R110) -/

/-- EXP2F (R106): the result and whether EXPR is set. -/
def exp2Unit (x : Word) : Word × Bool :=
  let v := x.toInt
  if v = 0 then (0x7FFFFFFF, false)
  else if 0 < v then (0x7FFFFFFF, true)
  else if v < -31 * 2 ^ 24 then (0, false)
  else (BitVec.ofInt 32 (min 2147483647 (exp2Round v (2 ^ 24) (2 ^ 31) 1)), false)

/-- LOG2F (R106). -/
def log2Unit (y : Word) : Word × Bool := if y.toInt ≤ 0 then (0x80000000, true) else (BitVec.ofInt 32 (log2F y.toNat), false)

/-- PINC (R106). -/
def pincUnit (s : State) (x : Word) : DWord × Bool :=
  let r := pitchInc s x.toInt
  if 2 ^ 48 - 1 < r then (w64 (2 ^ 48 - 1), true) else (BitVec.ofInt 64 r, false)

/-- A unit operation starts: its result arrives 6 cycles later; EXPR is set at once. -/
def startUnit (b : VerbBank) (dst : Nat) (vals : List Word) (expr : Bool) (t : Nat) : VerbBank :=
  let b := { b with units := b.units ++ [{ dst, vals, issued := t }] }
  if expr then { b with vsr := setBits b.vsr 12 12 1 } else b

/-- The points of a table request (R107, Table 10): sample indices relative to the position's, by mode. -/
def tableOffsets (mode : Nat) : List Int :=
  match mode with
  | 0 => [0]
  | 1 => [0, 1]
  | 2 => [-1, 0, 1, 2]
  | _ => [0, 1, 2, 3]

/-- The byte address of a point: the index wraps modulo 2,048 with WRAP (R107). -/
def pointAddr (pos : DWord) (cfg : Word) (off : Int) : Int :=
  let i : Int := (pos.toNat / 2 ^ 32 : Nat) + off
  let i := if bitOf cfg 28 then i % 2048 else i
  let size : Int := if bits cfg 27 26 = 0 then 2 else 4
  (bits cfg 23 0 : Int) + size * i

/-- Is a request a table fault (R107, R108): an undefined format, bits [31:29], or a point beyond the Lexicon, be it by one of its bytes
(DESIGN CHOICE, log 147: R108 speaks of the point's address). -/
def tableFault (pos : DWord) (cfg : Word) : Bool :=
  2 ≤ bits cfg 27 26 || bits cfg 31 29 ≠ 0 ||
    (tableOffsets (bits cfg 25 24)).any fun o =>
      let a := pointAddr pos cfg o
      let size : Int := if bits cfg 27 26 = 0 then 2 else 4
      a < 0 || 0x00FFFFFF < a + size - 1

/-- One sample of the Lexicon as Q1.31 (R107), with its poison. -/
def lexSample (s : State) (v : Nat) (a fmt : Nat) : State × Int × Bool :=
  if fmt = 0 then
    let (s, d, bad, _) := memLoad s (16 + v) a 2
    (s, (BitVec.ofNat 16 d.toNat).toInt * 65536, bad)
  else
    let (s, d, bad, _) := memLoad s (16 + v) a 4
    (s, (BitVec.ofNat 32 d.toNat).toInt, bad)

/-- A streamed block is missing in a frame, which counts as a render overrun (R74). -/
def missBlock (s : State) (frame : Nat) : State :=
  if s.time.streamMiss.contains frame then s else { s with time := { s.time with streamMiss := s.time.streamMiss ++ [frame] } }

/-- One point of a request of a Word-frame of a frame (R74, R107): a streamed block that is not resident reads as 0. -/
def tableSample (s : State) (v frame base : Nat) (a : Int) (fmt : Nat) : State × Int × Bool :=
  match streamPoint s base a with
  | none => lexSample s v a.toNat fmt
  | some (w, b, off) =>
    match residentAt s w b with
    | some at' => lexSample s v (at' + off) fmt
    | none => (missBlock s frame, 0, false)

/-- The four-point cubic Hermite of y0 to y3 at a fraction f / 2^32 between y1 and y2, exact over 2^97 (R108). Its tangents are half the
difference of the neighbours, the usual ones: R107 gives none (PRESUMED, log 151). -/
def hermite (y0 y1 y2 y3 : Int) (f : Nat) : Int :=
  let o : Int := 2 ^ 32
  let c1 := y2 - y0
  let c2 := 2 * y0 - 5 * y1 + 4 * y2 - y3
  let c3 := y3 - y0 + 3 * (y1 - y2)
  rne (2 * y1 * o ^ 3 + c1 * (f : Int) * o ^ 2 + c2 * (f : Int) ^ 2 * o + c3 * (f : Int) ^ 3) (2 * 2 ^ 96)

/-- A result rounded to Q1.31; one outside its range is a free value (R108, log 108). -/
def tableWord (x : Int) : Word := if satS32 x = x then BitVec.ofInt 32 x else Config.beyondQ31 x

/-- The results of a table request of a Word-frame of a frame (R107, R108). -/
def tableResults (s : State) (v frame : Nat) (r : TableReq) : State × List (Word × Bool) :=
  let fmt := bits r.cfg 27 26
  let mode := bits r.cfg 25 24
  let (s, ys) := (tableOffsets mode).foldl (fun (acc : State × List (Int × Bool)) o =>
    let (s, y, bad) := tableSample acc.1 v frame (bits r.cfg 23 0) (pointAddr r.pos r.cfg o) fmt
    (s, acc.2 ++ [(y, bad)])) (s, [])
  let f : Nat := r.pos.toNat % 2 ^ 32
  let y := fun i => (nth ys i (0, false)).1
  let bad := ys.any (·.2)
  match mode with
  | 0 => (s, [(tableWord (y 0), bad)])
  | 1 => (s, [(tableWord (rne (y 0 * 2 ^ 32 + (y 1 - y 0) * (f : Int)) (2 ^ 32)), bad)])
  | 2 => (s, [(tableWord (hermite (y 0) (y 1) (y 2) (y 3) f), bad)])
  | _ => (s, ys.map fun p => (tableWord p.1, p.2))

/-- The number of results queued and awaited by a bank: a gather counts as one request, and its four results are not bounded (DESIGN CHOICE,
log 151). -/
def requestsOut (b : VerbBank) : Nat := b.table.length

/-- A request of a Word-frame has come to a block of a streamed wave (R428). -/
def noteStream (s : State) (wf : Option WordFrame) (r : TableReq) : State :=
  match wf, wavePoint s (bits r.cfg 23 0) (pointAddr r.pos r.cfg 0) with
  | some w, some (i, _, off) =>
    let others := s.image.streams.filter fun e => e.1 ≠ w.pos || e.2.1 ≠ w.widx
    { s with image := { s.image with streams := others ++ [(w.pos, w.widx, i, off / 4096)] } }
  | _, _ => s

/-- The oldest request of a bank that has no results yet gets them. -/
def deliverTable (s : State) (v : Nat) (other : Bool) : State :=
  match (bankAt s v other).table.find? fun r => r.results.isNone with
  | none => s
  | some r =>
    let wf := (bankAt s v other).wf
    let frame := match wf with | some w => w.frame | none => s.time.frame
    let (s, rs) := tableResults (noteStream s wf r) v frame r
    let b := bankAt s v other
    let before := b.table.takeWhile fun x => x.results.isSome
    let after := (b.table.dropWhile fun x => x.results.isSome).drop 1
    setBankAt s v other { b with table := before ++ [{ r with results := some rs }] ++ after }

/-- A global Word-frame still in a bank keeps account of what it has added to the buses, which its deadline may take back (R149). -/
def noteSent (s : State) (m : MixItem) : State :=
  if m.pos < 2048 then s
  else onFlow s (m.frame, m.pos, m.widx) (fun w => { w with sent := w.sent ++ [(m.bus, m.idx, m.val)] }) id

/-- The mix port adds one queued send (R109, R149, R268): discarded and counted from the bus once its frame's deadline has
passed; a non-global send reaches the accumulators of the bus's feeds in every case. -/
def mixApply (s : State) (m : MixItem) : State :=
  let v : DWord := m.val.signExtend 64
  let late := m.frame < s.time.frame
  let s := if late then countUp s R.parserLatesend else noteSent (memAdd s 2 (busAddr m.frame m.bus m.idx) v) m
  if m.feeds then addFeeds s m.frame m.bus m.idx v else s

/-- The oldest send of Verb v's mix queue reaches the mix port. -/
def drainMixOne (s : State) (v : Nat) : State :=
  match (verbOf s v).mixq with
  | [] => s
  | m :: rest => mixApply (onVerb s v fun x => { x with mixq := rest }) m

/-- A send is queued. -/
def queueSend (s : State) (v : Nat) (m : MixItem) : State := onVerb s v fun x => { x with mixq := x.mixq ++ [m] }

/-- The entries of the mix queue that an instruction takes: MIXADD2 takes two, and one where the bus is 63 (R109; DESIGN CHOICE, log 151). -/
def mixEntries (b0 : VerbBank) (i : VInstr) : Nat :=
  match i with
  | .mixadd _ _ _ _ => 1
  | .mixadd2 _ c _ _ => if (b0.dOf c.toNat).toNat % 64 = 63 then 1 else 2
  | _ => 0

/-- A mix queue that has no room for an instruction's sends drains first, a stall of a free number of cycles of at most 3 (R109, log 7). -/
def awaitMix (s : State) (v n t : Nat) : State × Nat :=
  let excess := (verbOf s v).mixq.length + n - 32
  if n = 0 ∨ excess = 0 then (s, t)
  else
    let (s, lat) := drawLatency ((List.range excess).foldl (fun u _ => drainMixOne u v) s) 3
    (s, t + lat)

/-- MIXADD's item of a Word-frame: value, bus, sample index. -/
def mixItem (w : WordFrame) (val : Word) (bus idx : Nat) : MixItem :=
  { frame := w.frame, bus, idx, val, feeds := w.pos < 2048, pos := w.pos, widx := w.widx }

/-- A Word-frame has posted its 8 events (R110). -/
def WordFrame.full (w : WordFrame) : Bool := 8 ≤ w.eventsOut + w.events.length

/-- The packet that EVPOST takes from local X memory (R110): the packet, its poison, the cycles of corrected reads (R105). -/
def packetAt (s : State) (v : Nat) (w : WordFrame) (addr : Word) : State × EvPacket × Bool × Nat :=
  let a := addr.toNat % 2 ^ 18
  let useB := (verbOf s v).useB
  let lo := localLoad s v useB w a 8
  let hi := localLoad lo.1 v useB w (a + 8) 8
  (hi.1, { pktOf lo.2.1.toNat hi.2.1 with source := 15 }, lo.2.2.1 || hi.2.2.1, lo.2.2.2 + hi.2.2.2)

/-- EVPOST (R110): the packet joins the Word-frame's events; a ninth is discarded. The cycles it costs beyond one. -/
def postEvent (s : State) (v : Nat) (addr : Word) : State × Nat :=
  match (bankOfVerb s v).wf with
  | none => (s, 0)
  | some w =>
    if w.full then (setBank s v { bankOfVerb s v with wf := some { w with dropped := w.dropped + 1 } }, 0)
    else
      let (s, p, _, n) := packetAt s v w addr
      (setBank s v { bankOfVerb s v with wf := some { w with events := w.events ++ [p] } }, 3 + n)

/-- The packet of an EVPOST is poisoned: the state after its read (R397, log 110). -/
def poisonedPacket (s : State) (v : Nat) (w : WordFrame) (b0 : VerbBank) (i : VInstr) : Option State :=
  match i with
  | .evpost a _ _ =>
    if w.full then none
    else
      let (t, _, bad, _) := packetAt s v w (b0.dOf a.toNat)
      if bad then some t else none
  | _ => none

/-! ### Program flow (R100 to R102) -/

/-- The passage after an instruction at the end of a body: back to its first instruction while iterations remain, else the
repeat ends, and an outer one that ends there follows (R102). -/
def passBody : Nat → VerbBank → VerbBank
  | 0, b => b
  | n + 1, b =>
    match b.reps with
    | r :: rs =>
      if b.pc = r.last then
        let left := nth b.lc r.counter 0 - 1
        let b := { b with lc := b.lc.set r.counter left }
        if left ≠ 0 then { b with pc := r.first } else passBody n { b with reps := rs }
      else { b with pc := (b.pc + 1) % 8192 }
    | [] => { b with pc := (b.pc + 1) % 8192 }

/-- A taken branch goes to its target; the repeats whose bodies do not hold it end (R102). -/
def goTo (b : VerbBank) (t : Nat) : VerbBank :=
  { b with pc := t % 8192, reps := b.reps.dropWhile fun r => !(r.first ≤ t && t ≤ r.last) }

/-- The bank after an instruction that is no control instruction, or one without a jump: a delay slot passes, and after the
second the branch is taken. Answers whether the Word-frame ends. -/
def advance (b : VerbBank) : VerbBank × Bool :=
  match b.delay with
  | none => (passBody 5 b, false)
  | some (2, d) => ({ passBody 5 b with delay := some (1, d) }, false)
  | some (_, .ends) => ({ b with delay := none }, true)
  | some (_, .goto t) => (goTo { b with delay := none } t, false)
  | some (_, .fall) => (passBody 5 { b with delay := none }, false)

/-- A control instruction with delay slots has issued. -/
def startDelay (b : VerbBank) (d : Delay) : VerbBank := { passBody 5 b with delay := some (2, d) }

/-- REP and REPD (R102): the body runs, or with a count of 0 is skipped, and a body around it that ends with it passes. The cycles
beyond one. -/
def startRep (b : VerbBank) (k n last : Nat) : VerbBank × Nat :=
  let b := { b with lc := b.lc.set k (BitVec.ofNat 16 n) }
  if n = 0 then (passBody 5 { b with pc := last }, 2)
  else ({ b with reps := { counter := k, first := (b.pc + 1) % 8192, last } :: b.reps, pc := (b.pc + 1) % 8192 }, 0)

/-! ### Issue -/

/-- The cycles a Word-frame's count gains. -/
def spend (s : State) (v t : Nat) : State := setBank s v { bankOfVerb s v with cycles := t }

/-- What an instruction's operation part does after its moves have accessed memory, with the registers b0 from before it: the
state and extra cycles. -/
def operate (s : State) (v : Nat) (b0 : VerbBank) (i : VInstr) (t : Nat) : State × Nat :=
  let b := bankOfVerb s v
  let put := fun b => (setBank s v b, 0)
  match i, b0.wf with
  | .par x y _ _, _ => put (doArith b0 (doArith b0 b x none true t) y none false t)
  | .alui x imm, _ => put (doArith b0 b x (some imm) true t)
  | .imm dst val, _ => put (noteCode (b.writeReg dst.toNat val) dst.toNat t)
  | .regmove dst src _ _, _ => put (noteCode (b.writeReg dst.toNat (b0.readReg src.toNat)) dst.toNat t)
  | .exp2f d a _ _, _ => let r := exp2Unit (b0.dOf a.toNat); put (startUnit b d.toNat [r.1] r.2 t)
  | .log2f d a _ _, _ => let r := log2Unit (b0.dOf a.toNat); put (startUnit b d.toNat [r.1] r.2 t)
  | .pinc d a _ _, _ =>
    let r := pincUnit s (b0.dOf a.toNat)
    put (startUnit b d.toNat [BitVec.ofNat 32 r.1.toNat, BitVec.ofNat 32 (r.1.toNat / 2 ^ 32)] r.2 t)
  | .tip p c _ _, _ =>
    let r : TableReq := { pos := b0.pairOf (p.toNat / 2), cfg := b0.dOf c.toNat, issued := t, results := none }
    put { b with table := b.table ++ [r] }
  | .tget d _ _, _ =>
    match b.table with
    | r :: rest =>
      match r.results with
      | some ((x, bad) :: more) =>
        let b := { b with table := if more.isEmpty then rest else { r with results := some more } :: rest }
        let b := (b.setD d.toNat x).arrived [d.toNat]
        put (if bad then { b with poison := b.poison ++ [d.toNat] } else b)
      | _ => put b
    | [] => put b
  | .mixadd x c _ _, some w =>
    let k := (b0.dOf c.toNat).toNat
    (queueSend s v (mixItem w (b0.dOf x.toNat) (k % 64) (k / 64 % 16)), 0)
  | .mixadd2 x c _ _, some w =>
    let k := (b0.dOf c.toNat).toNat
    let s := queueSend s v (mixItem w (b0.dOf x.toNat) (k % 64) (k / 64 % 16))
    (if k % 64 = 63 then s else queueSend s v (mixItem w (b0.dOf (x.toNat + 1)) (k % 64 + 1) (k / 64 % 16)), 0)
  | .evpost a _ _, some _ => postEvent s v (b0.dOf a.toNat)
  | _, _ => (s, 0)

/-- The program counter moves on (R100 to R102), with the cycles a repeat of 0 adds. Answers whether the Word-frame ends. -/
def flow (b0 b : VerbBank) (i : VInstr) : VerbBank × Nat × Bool :=
  match i with
  | .jmp c t => (startDelay b (if condHolds b0.vsr c.toNat = some true then .goto t.toNat else .fall), 0, false)
  | .call c t =>
    if condHolds b0.vsr c.toNat = some true then
      (startDelay { b with rstack := (b0.pc + 3) % 8192 :: b.rstack } (.goto t.toNat), 0, false)
    else (startDelay b .fall, 0, false)
  | .ret =>
    match b.rstack with
    | t :: rest => (startDelay { b with rstack := rest } (.goto t), 0, false)
    | [] => (b, 0, false)
  | .yield => (startDelay b .ends, 0, false)
  | .rep k n last => let (b, c) := startRep b k.toNat n.toNat last.toNat; (b, c, false)
  | .repd k d last =>
    let (b, c) := startRep b k.toNat ((b0.dOf d.toNat).toNat % 65536) last.toNat
    (b, c, false)
  | _ => let (b, e) := advance b; (b, 0, e)

/-- The fault of an instruction at its place, if any, in the order fields, flow, tables, addresses (R86, R88, R100 to R102,
R107, R108, R117, R124). A CALL whose condition does not hold pushes nothing and does not fault (DESIGN CHOICE, log 111). -/
def instrFault (s : State) (v : Nat) (b : VerbBank) (w : WordFrame) (i : VInstr) : Option Nat :=
  let (x, y) := i.moves
  let useB := (verbOf s v).useB
  if !i.legal b || bothShared b x y then some 1
  else if (match i with
    | .call c _ => condHolds b.vsr c.toNat = some true && 8 ≤ b.rstack.length
    | .ret => b.rstack.isEmpty
    | _ => false) then some 6
  else if (match i with
    | .tip p c _ _ => tableFault (b.pairOf (p.toNat / 2)) (b.dOf c.toNat)
    | .tget _ _ _ => b.table.isEmpty
    | _ => false) then some 4
  else match moveFault s useB w b x (w.storesOut + w.stores.length) with
    | some f => some f
    | none => moveFault s useB w b y (w.storesOut + w.stores.length + b2n (mvActive x && x.store && placeOf (moveAddr b x) = .shared))

/-- Are two shared loads and their destination at the bound of 8 outstanding (R88): the ninth waits for the oldest. -/
def awaitRoom (s : State) (v : Nat) (loads t : Nat) : State × Nat :=
  match (bankOfVerb s v).loads with
  | l :: _ =>
    if 8 < (bankOfVerb s v).loads.length + loads then
      let (s, lat) := drawLatency s 30
      (deliverLoad s v false, max t (l.issued + (lat - l.paused)))
    else (s, t)
  | [] => (s, t)

/-- The result a TGET pops is waited for (R107: at most 40 cycles after its request). -/
def awaitTable (s : State) (v : Nat) (i : VInstr) (t : Nat) : State × Nat :=
  match i, (bankOfVerb s v).table with
  | .tget _ _ _, r :: _ =>
    if r.results.isSome then (s, t)
    else
      let (s, lat) := drawLatency s 40
      (deliverTable s v false, max t (r.issued + (lat - r.paused)))
  | _, _ => (s, t)

/-- A TIP with 8 requests outstanding stalls until a TGET pops a result; no later instruction issues, so the count runs to the
watchdog (R107, R127). -/
def tipStalls (b : VerbBank) (i : VInstr) : Bool :=
  match i with
  | .tip _ _ _ _ => 8 ≤ requestsOut b
  | _ => false

/-- The count of the Word-frame in use has reached 2 × COST + 1,024 (R127). -/
def watchdogDue (s : State) (v : Nat) : Bool :=
  match (bankOfVerb s v).wf with
  | none => false
  | some w => 2 * w.cost + 1024 ≤ (bankOfVerb s v).cycles

/-- The Word-frame ends by YIELD: D0, once what is under way to it has arrived, is the exit status (R125). Its count ends with the second
delay slot (R126), and is checked (R127). -/
def exitFrame (s : State) (v : Nat) : State :=
  let (b, _) := awaitUnits (bankOfVerb s v) [0] (bankOfVerb s v).cycles
  let (s, _) := awaitLoads v [0] 9 (setBank s v b) b.cycles
  let s := overCheck s v
  if watchdogDue s v then abortFrame s v 5
  else
    let d0 := (bankOfVerb s v).dOf 0
    endWordFrame s v (bitOf d0 0) (bitOf d0 1) false

/-- ISSUE: the Verb issues one instruction in its bank once what it waits for has arrived (R99, R104, R105), unless its count has then
reached the watchdog's limit (R127). An instruction waits too for a result under way to a register that it only writes (DESIGN CHOICE,
log 109). -/
def issueAlways (s : State) (v : Nat) (i : VInstr) : State :=
  match (bankOfVerb s v).wf with
  | none => s
  | some w0 =>
    let touched := i.reads.map (·.1) ++ i.writes
    let b := bankOfVerb s v
    let (b, t) := awaitUnits b touched b.cycles
    let (s, t) := awaitLoads v touched 9 (setBank s v b) t
    if tipStalls (bankOfVerb s v) i then spend s v (2 * w0.cost + 1024)
    else
      let (x, y) := i.moves
      let isLoad := fun m : MoveField => mvActive m && !m.store && placeOf (moveAddr (bankOfVerb s v) m) = .shared
      let (s, t) := awaitRoom s v (b2n (isLoad x) + b2n (isLoad y)) t
      let (s, t) := awaitTable s v i t
      let b0 := bankOfVerb s v
      match b0.wf with
      | none => s
      | some w =>
        let (s, t) := awaitMix s v (mixEntries b0 i) (readyAt b0 i.reads t)
        let s := overCheck (spend s v t) v
        if watchdogDue s v then abortFrame s v 5
        else match instrFault s v b0 w i, poisonedPacket s v w b0 i with
        | some f, _ => abortFrame s v f
        | none, some u => abortFrame u v 7
        | none, none =>
          if i.reads.any fun r => b0.poison.contains r.1 then abortFrame s v 7
          else
            let (s, lx, cx) := doMove s v b0 x t
            let (s, ly, cy) := doMove s v b0 y t
            let (s, extra) := operate s v b0 i t
            let b := bankOfVerb s v
            let load := fun (b : VerbBank) (l : Option Loaded) =>
              match l with | some l => (b.loadReg l.reg l.size l.val l.bad).arrived (resOfMoveReg l.reg) | none => b
            let b := ((load (load b lx) ly).postModify b0 x).postModify b0 y
            let (b, rep, ends) := flow b0 b i
            let s := setBank s v { b with cycles := t + 1 + cx + cy + moveConflict b0 x y + extra + rep }
            if ends then exitFrame s v else s

/-- One instruction of a running Verb, its count checked first (R127). -/
def issue (s : State) (v : Nat) (i : VInstr) : State :=
  if (verbOf s v).running && !(verbOf s v).halted then
    let s := overCheck s v
    if watchdogDue s v then abortFrame s v 5 else issueAlways s v i
  else s

/-! ### The STORE flow (R157, R160) -/

/-- A load of Word-frame w under way that lies under store x, which w posts after it, takes its value while memory still holds the earlier
one (R160). -/
def readEarlier (v : Nat) (other : Bool) (w : WordFrame) (x : PostedStore) (s : State) (i : Nat) : State :=
  match (bankAt s v other).loads[i]? with
  | none => s
  | some l =>
    if l.val.isSome ∨ w.storesOut < l.posted ∨ l.addr + l.size ≤ x.addr ∨ x.addr + x.size ≤ l.addr then s
    else
      let (s, d, bad) := sharedValue s v w l
      let b := bankAt s v other
      setBankAt s v other { b with loads := b.loads.set i { l with val := some (d, bad) } }

/-- The loads of one bank that store x of the Word-frame with a key would overtake. -/
def readBank (k : FlowKey) (x : PostedStore) (s : State) (v : Nat) (other : Bool) : State :=
  match (bankAt s v other).wf with
  | some w => if w.key = k then (List.range (bankAt s v other).loads.length).foldl (readEarlier v other w x) s else s
  | none => s

/-- The loads that a store about to be written would overtake take their values first. -/
def readLoads (s : State) (k : FlowKey) (x : PostedStore) : State :=
  (List.range 16).foldl (fun t v => readBank k x (readBank k x t v false) v true) s

/-- STORE_DELIVER: Concord writes the oldest posted store the cursor has reached to the shared delay area (R157, R158). -/
def execStoreDeliver (s : State) : Host.Outcome State Fault Refusal :=
  match nextStore s with
  | none => .next s
  | some (k, x) =>
    let s := memStore (readLoads s k x) 0 x.addr x.size x.val
    .next (settleFlows (onFlow s k (fun w => { w with stores := w.stores.drop 1, storesOut := w.storesOut + 1 })
      (fun e => { e with stores := e.stores.drop 1 })))

end Sys2Proof.Machine
end

