-- ==== Sys2Proof/Machine/Parser.lean ====
section
/-! DEFINITION. The Parser's dispatch (R118 to R124, R138 to R147): ready lists, entry state, descriptors, pre-emption, the
migration check, moves, the send barrier and the feeds. -/

namespace Sys2Proof.Machine

/-! ### Frame-area slots (R123) -/

/-- The slots reserved on a Verb: first and number. -/
def slotsReserved (s : State) (v : Nat) : List (Nat × Nat) :=
  s.phrases.filterMap fun p =>
    match p.farea, decide (p.home = some v), synOf s p.sid with
    | some f, true, some x => some (f, x.nslots)
    | _, _, _ => none

/-- The lowest run of free slots that holds a Syntax's (log 13). -/
def findSlots (s : State) (v n : Nat) : Option Nat := fitFrom n 512 (sortRegions (slotsReserved s v)) 0

/-! ### Ready Word-frames (R140, R141) -/

/-- Has the send barrier of a frame passed. -/
def barrierPassed (s : State) (frame : Nat) : Bool := match s.parser.barrier with | some m => frame ≤ m | none => false

/-- The Word-frame of a Phrase that is ready on a Verb, if any (R140). -/
def readyWork (s : State) (v : Nat) (p : Phrase) : Option Work :=
  match p.works, synOf s p.sid with
  | w :: _, some x =>
    let copying : Bool := match p.move with | some m => m.copying | none => false
    if p.home = some v ∧ p.dev.isNone ∧ ¬ copying ∧ ¬ inBank s w.frame w.pos ∧
        (p.farea.isSome ∨ (findSlots s v x.nslots).isSome) ∧ (¬ p.isGlobal ∨ barrierPassed s w.frame) then some w else none
  | _, _ => none

/-- The ready list of a Verb: keys. -/
def readyKeys (s : State) (v : Nat) : List FlowKey :=
  s.phrases.filterMap fun p => (readyWork s v p).map fun w => (w.frame, w.pos, w.next)

/-! ### Entry state (R120 to R122) -/

/-- A descriptor's 8 bytes (R121). -/
def descriptor (addr kind : Nat) : List Byte := leBytes 4 addr ++ leBytes 1 kind ++ leBytes 3 0

/-- The feed that feeds an input port of a global Phrase's Word (R267). -/
def feedOf (s : State) (p : Phrase) (w q : Nat) : Option Nat :=
  if !p.isGlobal then none
  else (List.range 32).find? fun n =>
    let a := R.mixFeed + 4 * n
    flag s a 31 && fld s a 23 16 = p.sid && fld s a 13 8 = w && fld s a 7 5 = q

/-- The local address of a feed's frame-area slot (R269). -/
def feedSlotAddr (p : Phrase) (x : Syntax) (n : Nat) : Nat :=
  0x38000 + 64 * (p.farea.getD 0 + (mapGet x.slots (512 + n)).getD 0)

/-- The descriptor of input port q of Word w (R121). -/
def inputDesc (s : State) (p : Phrase) (x : Syntax) (k : Work) (w q nin : Nat) : List Byte :=
  if nin ≤ q then descriptor 0x28000 0x0E
  else
    match x.edges.find? fun e => e.dstw = w && e.dstp = q with
    | some e =>
      if 8 ≤ e.kind then descriptor (0x28000 + p.ybase + e.doff) e.kind
      else if k.aborted.contains e.srcw then descriptor 0x28000 e.kind
      else descriptor (frameArea p x e.srcw e.srcp) e.kind
    | none =>
      match feedOf s p w q with
      | some n => descriptor (feedSlotAddr p x n) 0
      | none => descriptor 0x28000 0x0F

/-- The descriptor of output port q of Word w (R121). Where its edges have several kinds, the spec does not say which one
KIND holds: a free value (log 14). -/
def outputDesc (s : State) (p : Phrase) (x : Syntax) (w q nout : Nat) : State × List Byte :=
  if nout ≤ q then (s, descriptor 0x28040 0x0E)
  else
    match x.edges.filter fun e => e.srcw = w && e.srcp = q with
    | [] => (s, descriptor 0x28040 0x0F)
    | e :: es =>
      if es.all fun f => f.kind = e.kind then (s, descriptor (frameArea p x w q) e.kind)
      else
        let (s, f) := drawFree s
        (s, descriptor (frameArea p x w q) (f.toNat % 256))

/-- The eight output descriptors. -/
def outputDescs (p : Phrase) (x : Syntax) (w nout : Nat) (s : State) : State × List Byte :=
  (List.range 8).foldl (fun (acc : State × List Byte) q =>
    let (s, d) := outputDesc acc.1 p x w q nout
    (s, acc.2 ++ d)) (s, [])

/-- The modulation entries of Word w (R122); a source that was aborted contributes nothing (R128). -/
def modEntries (p : Phrase) (x : Syntax) (k : Work) (w : Nat) : List Nat :=
  (x.edges.filter fun e => e.dstw = w && (e.kind = 2 || e.kind = 3) && !k.aborted.contains e.srcw).map fun e =>
    p.farea.getD 0 + (mapGet x.slots (8 * e.srcw + e.srcp)).getD 0 + (e.dstp - 0x10) * 2 ^ 9 + b2n (e.kind = 3) * 2 ^ 13

/-- Where a Word-frame may store (R124). -/
def storeWindows (s : State) (p : Phrase) (x : Syntax) (w : Nat) (sw : SynWord) : List (Nat × Nat) :=
  match wordType s.decls sw.typ with
  | none => []
  | some t =>
    let outs := (List.range sw.nout).filterMap fun q =>
      if x.edges.any fun e => e.srcw = w && e.srcp = q then
        some (frameArea p x w q, if nth t.outs q 0 = 2 then 128 else 64) else none
    (p.xbase + sw.xoff, t.xs) :: (0x28000 + p.ybase + sw.yoff, yState t x.params sw) ::
      (p.xbase + 0x140 + 16 * sw.pbase, 16 * sw.npar) :: outs

/-- The bank a Word-frame starts with (R120): the registers of Table 15, everything else at its reset. -/
def entryBank (s : State) (p : Phrase) (sw : SynWord) (w nmod area : Nat) (useB isPre : Bool) (wf : WordFrame) : VerbBank :=
  let d0 := w + sw.nin * 2 ^ 8 + sw.nout * 2 ^ 12 + sw.npar * 2 ^ 16 + nmod * 2 ^ 21
  let entry := if sw.typ < 0x8000 then (Config.libraryEntry sw.typ).toNat
    else match s.decls.find? fun d => d.typ = sw.typ with | some d => d.entry / 8 | none => 0
  { wf := some wf, pc := entry, cycles := (if isPre then 12 else 6),
    d := ([w32 d0, w32 (fsCode s)] ++ List.replicate 14 0),
    p := [w32 p.xbase, w32 area, w32 (area + 0x40), w32 (p.xbase + sw.xoff), w32 (0x28000 + p.ybase + sw.yoff),
          w32 (p.xbase + 0x140 + 16 * sw.pbase), w32 (area + 0x100), w32 (area + 0x1100)],
    vsr := w32 (4 + b2n useB * 2 ^ 13 + b2n isPre * 2 ^ 14) }

/-! ### Feeds (R268, R269) -/

/-- One feed's frame is written into its slot on the Phrase's home: shifted, rounded, saturated; a sample that cannot be read
is 0, its frame void and the Phrase diverged (R269, R397). -/
def writeFeed (s : State) (p : Phrase) (x : Syntax) (frame v n : Nat) : State :=
  let sh := fld s (R.mixFeed + 4 * n) 28 24
  (List.range 16).foldl (fun s j =>
    let (s, d, bad, _) := memLoad s 2 (feedAddr frame n j) 8
    let r := rne d.toInt (2 ^ sh)
    let s := if !bad && satS32 r ≠ r then setFlag s R.mixFstat n else s
    let s := if bad then diverge (voidFrame s frame 4) p.pos frame else s
    memStore s 2 (localAddr v (feedSlotAddr p x n + 4 * j)) 4 (BitVec.ofInt 64 (if bad then 0 else satS32 r))) s

/-- The feeds of a global Phrase. -/
def feedsOf (s : State) (p : Phrase) : List Nat :=
  idxs 32 fun n => flag s (R.mixFeed + 4 * n) 31 && fld s (R.mixFeed + 4 * n) 23 16 = p.sid

/-- A Phrase's slots are reserved where they are not yet, and for a global Phrase its feeds' frames written (R123, R269). -/
def reserveSlots (s : State) (p : Phrase) (x : Syntax) (frame v : Nat) : State :=
  match p.farea, findSlots s v x.nslots with
  | some _, _ => s
  | none, none => s
  | none, some f =>
    let q := { p with farea := some f }
    let s := onPhrase s p.pos fun r => { r with farea := some f }
    if p.isGlobal then (feedsOf s p).foldl (fun t n => writeFeed t q x frame v n) s else s

/-! ### Dispatch (R118, R141, R147) -/

/-- Is a Verb in slot mode (R146). -/
def slotMode (s : State) (v : Nat) : Bool := flag s R.parserVstat (16 + v)

/-! ### References to waves and to the delay area (R69, R83) -/

/-- The parameter of a Word that names a wave, whether it is read at each gate, and the kinds of wave that suit the Word (R69, Table 3 and
the tables of SHAPER in the catalogue). -/
def waveParam (typ : Nat) : Option (Nat × Bool × List Nat) :=
  match typ with
  | 0x0104 => some (3, false, [2])
  | 0x0105 => some (2, true, [0, 1])
  | 0x0106 => some (2, true, [0, 1])
  | 0x0303 => some (2, false, [3])
  | _ => none

/-- The value of an INT parameter of Word w at a tick of a frame (R40, R41, R65): the target of the last PARAM entry up to that tick, else
the one in its parameter entry, with the control outputs that modulate it. -/
def intParam (s : State) (v : Nat) (p : Phrase) (x : Syntax) (k : Work) (w i tick : Nat) : Int :=
  match x.words[w]? with
  | none => 0
  | some sw =>
    if sw.npar ≤ i then 0
    else
      let word := fun a : Nat => (w32 (leNat (memBytes s a 4))).toInt
      let now := (k.evs.filter fun e => e.kind = 5 && e.word = w && e.pidx = i && e.pos / 1024 ≤ tick).getLast?
      let base := match now with | some e => e.value.toInt | none => word (xAddr p v + 0x140 + 16 * (sw.pbase + i) + 4)
      let mods := (x.edges.filter fun e => e.kind = 2 && e.dstw = w && e.dstp = 0x10 + i && !k.aborted.contains e.srcw).map fun e =>
        word (localAddr v (frameArea p x e.srcw e.srcp + 4 * tick))
      satS32 (base + mods.sum)

/-- The wave numbers that Word w refers to in a frame, in order: read at tick 0, or for a sample at the tick of each GATE_ON and of FIRST;
none where it takes up no reference in the frame or the Word uses none. -/
def waveRefs (s : State) (v : Nat) (p : Phrase) (x : Syntax) (k : Work) (w typ : Nat) : List Int :=
  match waveParam typ with
  | none => []
  | some (i, gated, _) =>
    let gates := (k.evs.filter (·.kind = 1)).map (·.pos / 1024)
    let ticks := if !gated then [0] else if gates.isEmpty && k.first then [0] else gates
    if typ = 0x0303 ∧ intParam s v p x k w 1 0 ≠ 3 then [] else ticks.map (intParam s v p x k w i)

/-- A wave suits a Word of a type: it is in the directory, with one of the Word's kinds (R69). -/
def waveSuits (s : State) (typ : Nat) (z : Int) : Bool :=
  match waveParam typ with
  | none => true
  | some (_, _, kinds) =>
    0 ≤ z && (match s.image.waves[z.toNat]? with | some (some w) => kinds.contains w.kind | _ => false)

/-- A reference of Word w stands from now on, or none unsuitable does. -/
def setStand (s : State) (pos w : Nat) (z : Option Int) : State :=
  onPhrase s pos fun p =>
    let rest := p.stands.filter fun e => e.1 ≠ w
    { p with stands := match z with | some n => rest ++ [(w, n)] | none => rest }

/-- Word w takes up a reference: on the first frame of the stand of an unsuitable one the device logs it (R69). -/
def takeRef (pos w typ : Nat) (s : State) (z : Int) : State :=
  let standing := match phraseAt s pos with | some p => p.stands.any fun e => e = (w, z) | none => false
  if waveSuits s typ z then setStand s pos w none
  else if standing then s
  else raiseGloss (setStand s pos w (some z)) 0x3110 (w32 (traceSlot pos)) (w32 w) (BitVec.ofInt 32 z)

/-- DEFAULT of a constant parameter of a Word, 0 where it is not in the table (R65). -/
def constParam (x : Syntax) (sw : SynWord) (i : Nat) : Int :=
  if sw.npar ≤ i then 0 else match x.params[sw.pbase + i]? with | some q => q.dflt.toInt | none => 0

/-- The buffer of a DELAYL reaches past the shared delay area (R83). -/
def delayPast (s : State) (x : Syntax) (sw : SynWord) : Bool :=
  sw.typ = 0x0604 && decide (((fld s R.memDly 4 0 * 0x4000 : Nat) : Int) < constParam x sw 4 + constParam x sw 3)

/-- The first frame of a DELAYL past the delay area is logged (R83); the spec gives the data words of 0x3111 no content, so they are free
(log 16). -/
def takeDelay (s : State) (pos w : Nat) (past : Bool) : State :=
  let standing := match phraseAt s pos with | some p => p.stands.any fun e => e.1 = w | none => false
  if !past || standing then s
  else
    let (s, a) := drawFree (setStand s pos w (some (2 ^ 32)))
    let (s, b) := drawFree s
    let (s, c) := drawFree s
    raiseGloss s 0x3111 a b c

/-- What a Word refers to when its Word-frame of a frame is loaded (R69, R83). -/
def takeRefs (s : State) (v : Nat) (p : Phrase) (x : Syntax) (k : Work) (w : Nat) (sw : SynWord) : State :=
  let refs := waveRefs s v p x k w sw.typ
  let s := if sw.typ = 0x0303 ∧ refs = [] then setStand s p.pos w none else s
  takeDelay (refs.foldl (takeRef p.pos w sw.typ) s) p.pos w (delayPast s x sw)

/-- A Word-frame is loaded into a bank of its Verb (R118, R120): its header and event list where it is the first of its
frame, its slots, descriptors, modulation list and entry registers. -/
def loadBank (s : State) (v : Nat) (p0 : Phrase) (k : Work) (useB isPre : Bool) (reason : Nat) : State :=
  match synOf s p0.sid with
  | none => s
  | some x =>
    match x.words[k.next]? with
    | none => s
    | some sw =>
      let s := if k.written then s
        else onWork (writeWork s p0 k) k.frame k.pos id fun w => { w with written := true }
      let s := reserveSlots s p0 x k.frame v
      match phraseAt s p0.pos with
      | none => s
      | some p =>
        let s := takeRefs s v p x k k.next sw
        let area := bankArea useB
        let ins := ((List.range 8).map fun q => inputDesc s p x k k.next q sw.nin).flatten
        let (s, outs) := outputDescs p x k.next sw.nout s
        let mods := modEntries p x k k.next
        let s := putWordBytes s (localAddr v area) (ins ++ outs)
        let s := storeBytes s 0 (localAddr v (area + 0x100)) ((mods.map (leBytes 4)).flatten)
        let wf : WordFrame :=
          { frame := k.frame, pos := k.pos, widx := k.next, cost := sw.cost, windows := storeWindows s p x k.next sw, isPre,
            reason, resumed := false, start := windowCycle s k.frame, stores := [], events := [], dropped := 0,
            overReported := false, scratch := [] }
        let b := entryBank s p sw k.next mods.length area useB isPre wf
        onVerb s v fun y => if useB then { y with bankB := b } else { y with bankA := b }

/-- The Phrase and work of a ready key. -/
def readyOf (s : State) (v : Nat) (k : FlowKey) : Option (Phrase × Work) :=
  s.phrases.findSome? fun p => match readyWork s v p with
    | some w => if (w.frame, w.pos, w.next) = k then some (p, w) else none
    | none => none

/-- The reason in the trace record of a dispatch (R152). -/
def dispatchReason (s : State) (v : Nat) (p : Phrase) : Nat := if slotMode s v then 3 else if p.moved then 1 else 0

/-- Is there a place in the window for a Word-frame (R147): fewer than 64, or the reserve entry for one older than every
Word-frame in flight. -/
def windowRoom (s : State) (k : FlowKey) : Bool :=
  inFlight s < 64 || (inFlight s = 64 &&
    ((bankFrames s).map WordFrame.key ++ (s.ended.filter (·.inWindow)).map EndedWf.key).all fun u => keyLt k u)

/-- Dispatch stalls on a full window: the frame counts once (R147). -/
def countStall (s : State) : State :=
  if s.parser.stalledFrame = some s.time.frame then s
  else countUp { s with parser := { s.parser with stalledFrame := some s.time.frame } } R.parserWstall

/-- The head of a Verb's ready list is loaded into its free bank, and starts where the Verb is idle; a loaded Word-frame that
has not started gives way to an older one (R118, R141, R147). -/
def dispatch (s : State) (v : Nat) : State :=
  let x := verbOf s v
  if !x.active || x.halted || x.absent then s
  else
    match leastKey (readyKeys s v) with
    | none => s
    | some k =>
      match readyOf s v k with
      | none => s
      | some (p, w) =>
        let replace := match x.other.wf with
          | some o => x.running && !x.frozen && keyLt k o.key
          | none => false
        let free := !x.running || (!x.frozen && x.other.wf.isNone)
        if free then
          if windowRoom s k then
            let useB := if x.running then !x.useB else x.useB
            let s := loadBank s v p w useB false (dispatchReason s v p)
            refreshWin (if x.running then s else noteFirst (onVerb s v fun y => { y with running := true }) v)
          else countStall s
        else if replace then
          let s := onVerb s v fun y => y.setOther { y.other with wf := none }
          refreshWin (loadBank s v p w (!x.useB) false (dispatchReason s v p))
        else s

/-! ### Pre-emption (R119, R142) -/

/-- Verb cycles left before the deadline of a frame, from the elapsed cycles of the open window. -/
def cyclesLeft (s : State) (frame elapsed : Nat) : Int :=
  (verbCyclesPerFrame s : Int) * ((frame : Int) - s.time.frame + 1) - elapsed

/-- The Parser pre-empts the running Word-frame of a Verb for the head of its ready list, when every condition of R142 holds
and the Verb is not between a control instruction and its delay slots (R119). -/
def preempt (s : State) (v elapsed : Nat) : State :=
  let x := verbOf s v
  match x.running, x.cur.wf, leastKey (readyKeys s v) with
  | true, some r, some k =>
    match readyOf s v k with
    | none => s
    | some (p, w) =>
      let rem := r.cost - x.cur.cycles
      let older := workLeft s v (· ≤ w.frame) - (if r.frame ≤ w.frame then r.cost else 0)
      if !slotMode s v && flag s R.parserCfg 24 && keyLt k r.key && !r.isPre && !x.frozen && x.cur.delay.isNone &&
          decide (cyclesLeft s w.frame elapsed < (older + rem : Nat)) && x.active && !x.halted then
        if !windowRoom s k then countStall s
        else
        let s := onVerb s v fun y => y.setOther { y.other with wf := none }
        let s := loadBank s v p w (!x.useB) true 2
        let s := onVerb s v fun y => { y with useB := !y.useB, frozen := true, running := true }
        refreshWin (countUp s R.parserPreempt)
      else s
  | _, _, _ => s

/-! ### The migration check and moves (R143 to R145) -/

/-- One Verb's check (R143, R144). -/
def checkVerb (s : State) (elapsed v : Nat) : State :=
  let x := verbOf s v
  let n := s.time.frame
  let q := verbQ s v n
  let r := (cyclesLeft s n elapsed).toNat
  match x.q0 with
  | some (q0, c0) =>
    if x.active ∧ x.running ∧ x.flagged.isNone ∧ workLeft s v (· < n) = 0 ∧ 4096 ≤ elapsed - c0 ∧
        fld s R.parserCfg 7 0 * r < q * 64 then
      let rate := min 256 (256 * (q0 - q) / (elapsed - c0))
      let s := raiseGloss (setFlag s R.parserVslow v) 0x3140 (w32 v) (w32 q) (w32 r)
      onVerb s v fun y => { y with flagged := some (q, r, rate, rate * capl s / 256) }
    else s
  | none => s

/-- A Phrase is marked for a move at the boundary of the open frame (R144). -/
def markMove (s : State) (pos d q rate : Nat) (forced : Bool) : State :=
  onPhrase s pos fun p =>
    { p with move := some { dest := d, xbase := 0, ybase := 0, q, rate, forced, copying := false, since := s.time.frame } }

/-- W_v as the marks so far leave it (R144). -/
def markedLoad (s : State) (v : Nat) : Nat :=
  let base := verbLoad s v
  let away := ((s.phrases.filter fun p => p.home = some v && p.move.isSome).map fun p => costOf s p.sid).sum
  let here := ((s.phrases.filter fun p => p.home ≠ some v && (p.move.map (·.dest)) = some v).map fun p => costOf s p.sid).sum
  base - away + here

/-- The room a Verb has for a Syntax, counting the Phrases marked for it (R139, R144). -/
def roomFor (s : State) (d : Nat) (x : Syntax) : Bool :=
  let coming := s.phrases.filter fun p => p.home ≠ some d && (p.move.map fun m => (m.dest, m.copying)) = some (d, false)
  let sizes := coming.filterMap fun p => synOf s p.sid
  ((occupied s d false).map (·.2)).sum + (sizes.map (·.xsize)).sum + x.xsize ≤ 0x14000 &&
    ((occupied s d true).map (·.2)).sum + (sizes.map (·.ysize)).sum + x.ysize ≤ 0xFF80

/-- The Verb a Phrase moves to (R144), or for a forced move the Verb with the smallest load that has room (R145). -/
def moveTarget (s : State) (v : Nat) (x : Syntax) (forced : Bool) : Option Nat :=
  leastBy (markedLoad s) ((activeVerbs s).filter fun d => d ≠ v && roomFor s d x &&
    (forced || (!flag s R.parserVslow d &&
      markedLoad s d + x.cost ≤ verbCyclesPerFrame s * fld s R.parserDlim 9 0 / 1000)))

/-- The Phrases of a flagged Verb are marked, highest slot first, until its load is at the target (R144). -/
def markFlagged (v target q rate : Nat) : Nat → State → State
  | 0, s => s
  | n + 1, s =>
    if markedLoad s v ≤ target then s
    else
      match (s.phrases.filter fun p => p.home = some v && !p.isGlobal && p.move.isNone).getLast? with
      | none => s
      | some p =>
        match synOf s p.sid with
        | none => s
        | some x =>
          match moveTarget s v x false with
          | none => s
          | some d => markFlagged v target q rate n (markMove s p.pos d q rate false)

/-- The marks of every flagged Verb, in ascending number (R144); the flags end. -/
def markMoves (s : State) : State :=
  (List.range 16).foldl (fun s v =>
    match (verbOf s v).flagged with
    | none => s
    | some (q, _, rate, target) =>
      onVerb (markFlagged v target q rate (fld s R.parserCfg 20 16) s) v fun x => { x with flagged := none }) s

/-- A mark is taken back. -/
def unmark (s : State) (pos : Nat) : State := onPhrase s pos fun p => { p with move := none }

/-- The mark of one Phrase at a boundary (R138, R145). On a Verb that is no longer active it is marked for a forced move, whatever mark it
bore; on an active one, a mark for a Verb that has become inactive is set for another by the rule of R144, or falls (DESIGN CHOICE,
log 122). A copy that has begun goes on. -/
def forceMove (s : State) (pos : Nat) : State :=
  match phraseAt s pos with
  | none => s
  | some p =>
    let act := fun d : Nat => (activeVerbs s).contains d
    match p.home, p.move, synOf s p.sid with
    | some v, none, some x =>
      if act v then s else match moveTarget s v x true with | some d => markMove s pos d 0 0 true | none => s
    | some v, some m, some x =>
      if m.copying || (act m.dest && (act v || m.forced)) then s
      else if act v then
        let t := unmark s pos
        match moveTarget t v x m.forced with
        | some d => markMove t pos d m.q m.rate m.forced
        | none => t
      else
        let t := unmark s pos
        match moveTarget t v x true with
        | some d => markMove t pos d 0 0 true
        | none => t
    | _, _, _ => s

/-- Every Phrase on a Verb that is no longer active is marked for a forced move (R138, R145). -/
def forceMoves (s : State) : State := (s.phrases.map (·.pos)).foldl forceMove s

/-- Room is made at a boundary, by moves within a Verb, for the Phrases that are marked for it (R139). -/
def roomForMoves (s : State) : State :=
  s.phrases.foldl (fun t p =>
    match p.move, synOf s p.sid with
    | some m, some x => if m.copying || !(activeVerbs s).contains m.dest then t else makeRoom t m.dest x
    | _, _ => t) s

/-- The rate that a migration record shows in its 8 bits: 256 does not fit them, and the spec does not say what stands there then, a free
value (log 119). -/
def shownRate (s : State) (rate : Nat) : State × Nat :=
  if rate < 256 then (s, rate)
  else
    let (s, f) := drawFree s
    (s, f.toNat % 256)

/-- The migration record of a move (Table 6 of the Parser chapter). -/
def migrationRecord (p : Phrase) (m : Move) (old frame rate : Nat) : BitVec 128 :=
  let id := traceSlot p.pos + old * 2 ^ 17 + 4 * 2 ^ 21
  let dest := m.dest + b2n m.forced * 16 + rate % 256 * 256
  BitVec.ofNat 128 (frame % 2 ^ 32 + id * 2 ^ 32 + m.q % 2 ^ 32 * 2 ^ 64 + dest * 2 ^ 96)

/-- A marked Phrase begins to move, once its Word-frames of the frames before the mark have ended and none of its Word-frames has been
dispatched for its present frame (R145): its new places are reserved, the move is counted and traced. -/
def startMove (s : State) (pos : Nat) : State :=
  match phraseAt s pos with
  | none => s
  | some p =>
    match p.move, p.home, synOf s p.sid with
    | some m, some old, some x =>
      let begun : Bool := match p.works with
        | w :: _ => w.frame < m.since || w.next ≠ 0 || inBank s w.frame w.pos
        | [] => false
      if m.copying ∨ begun ∨ ¬ (activeVerbs s).contains m.dest then s
      else
        match fitBoth s m.dest x with
        | none => s
        | some (a, b) =>
          let frame := match p.works with | w :: _ => w.frame | [] => s.time.step2 + 1
          let (s, rate) := shownRate s m.rate
          let s := onPhrase s pos fun q => { q with move := some { m with xbase := a, ybase := b, copying := true } }
          let s := stageTrace s (frame, p.pos, 0) [old, m.dest] (traceSlot p.pos) 4 (migrationRecord p m old frame rate)
          countUp s R.parserMig
    | _, _, _ => s

/-- The copy of a moving Phrase's state is complete (R44, R145): both parts stand on the new home, with YBASE and HOME
rewritten. -/
def finishMove (s : State) (pos : Nat) : State :=
  match phraseAt s pos with
  | none => s
  | some p =>
    match p.move, p.home, synOf s p.sid with
    | some m, some old, some x =>
      if !m.copying then s
      else
        let s := copyWords s (x.xsize / 8) (xAddr p old) (localAddr m.dest m.xbase)
        let s := copyWords s (x.ysize / 8) (yAddr p old) (localAddr m.dest (0x28000 + m.ybase))
        let s := storeBytes s 0 (localAddr m.dest m.xbase + 0x28) (leBytes 2 m.ybase)
        let s := storeBytes s 0 (localAddr m.dest m.xbase + 0x0F) (leBytes 1 m.dest)
        onPhrase s pos fun q =>
          { q with home := some m.dest, xbase := m.xbase, ybase := m.ybase, move := none, moved := true, farea := none }
    | _, _, _ => s

/-! ### The send barrier (R135, R269) -/

/-- The frame whose barrier is next: that of the oldest work of a global Phrase before its barrier, else the open frame. -/
def barrierFrame (s : State) : Nat :=
  let fs := (s.phrases.map fun p => if p.isGlobal then (p.works.map (·.frame)).filter fun f => !barrierPassed s f else []).flatten
  fs.foldl min s.time.frame

/-- Has every non-global Word-frame of a frame and earlier ended, and every mix queue drained. -/
def barrierReady (s : State) (f : Nat) : Bool :=
  (s.phrases.all fun p => p.isGlobal || p.works.all fun w => f < w.frame) &&
    ((bankFrames s).all fun w => 2048 ≤ w.pos || f < w.frame) && s.verbs.all fun x => x.mixq.isEmpty

/-- The send barrier of a frame passes: the slots of the global Phrases that are fed are reserved and their feeds written. One that still
owes an older frame a Word-frame has its feeds written when its first Word-frame of this frame is dispatched (R123, R269). -/
def passBarrier (s : State) (f : Nat) : State :=
  let s := { s with parser := { s.parser with barrier := some f } }
  (s.phrases.filter fun p => p.isGlobal).foldl (fun s p =>
    match p.home, synOf s p.sid with
    | some v, some x => if (p.works.any fun w => w.frame = f) ∧ (p.works.all fun w => f ≤ w.frame) ∧ feedsOf s p ≠ [] then reserveSlots s p x f v else s
    | _, _ => s) s

/-- The barrier passes where its conditions hold and the open frame has been armed. -/
def trySendBarrier (s : State) : State :=
  let f := barrierFrame s
  if f ≤ s.time.step2 && !barrierPassed s f && barrierReady s f then passBarrier s f else s

end Sys2Proof.Machine
end

