-- ==== Sys2Proof/Machine/Boundary.lean ====
section
/-! DEFINITION. What happens at a frame boundary, part by part: render overrun, abandonment and the last abort (R149, R150),
void frames (R173, R174), Phrase and fade ends (R49, R162, R189, R366), the hold frames of a system (R359, R367), the active
Verbs and slot mode (R132, R146). -/

namespace Sys2Proof.Machine

/-! ### The ALLOC cursor (R158, R162) -/

/-- Has every Word-frame of a frame and earlier ended, and every allocator update of them been delivered. -/
def cursorPassed (s : State) (m : Nat) : Bool :=
  (s.phrases.all fun p => p.works.all fun w => m < w.frame) && (bankFrames s).all (fun w => m < w.frame) &&
    s.ended.all fun e => e.alloc.isNone || m < e.frame

/-! ### Render overrun (R149) -/

/-- The Word-frames of a work that have not yielded. -/
def wordsLeft (s : State) (p : Phrase) (w : Work) : Nat :=
  match synOf s p.sid with
  | some x => x.words.length - w.next
  | none => 0

/-- A Phrase of this device that could not be placed (R139). -/
def unplaced (p : Phrase) : Bool := p.home.isNone && p.dev.isNone

/-- Frame m at its deadline: how many of its Word-frames have not yielded, and the mask of the Verbs that hold them. -/
def overrunCount (s : State) (m : Nat) : Nat :=
  (s.phrases.map fun p => ((p.works.filter fun w => w.frame = m).map (wordsLeft s p)).sum).sum

/-- The Verbs that hold Word-frames of frame m that have not yielded. -/
def overrunMask (s : State) (m : Nat) : Nat :=
  ((List.range 16).filter fun v => s.phrases.any fun p => p.home = some v && p.works.any fun w => w.frame = m).foldl
    (fun a v => a + 2 ^ v) 0

/-- Frame m overran (R149): a Word-frame has not yielded, or was not even armed, or a Phrase is unplaced, or a streamed block
was missing (R74). -/
def overran (s : State) (m : Nat) : Bool :=
  overrunCount s m ≠ 0 || (s.time.step2 < m && !s.phrases.isEmpty && !isWorker s) || s.phrases.any unplaced ||
    s.time.streamMiss.contains m

/-- A render overrun is counted, numbered, logged and void, and every Verb recovers (R146, R149). -/
def checkOverrun (s : State) (m : Nat) : State :=
  if !overran s m then s
  else
    let s := wr (countUp s R.parserOvr) R.parserOvrfrm (w32 m)
    let s := raiseGloss s 0x3100 (w32 m) (w32 (overrunCount s m)) (w32 (overrunMask s m))
    triggerRecovery (voidFrame { s with time := { s.time with streamMiss := s.time.streamMiss.filter (m < ·) } } m 0) 0xFFFF

/-! ### Abandonment (R150) -/

/-- How many Word-frames of a work are dropped: those after the one in a bank, or all that are left. -/
def wordsDropped (s : State) (p : Phrase) (w : Work) : Nat := wordsLeft s p w - b2n (inBank s w.frame w.pos)

/-- The works of frame m that lose a Word-frame. -/
def losers (s : State) (m : Nat) : List (Phrase × Work) :=
  (s.phrases.map fun p => (p.works.filter fun w => w.frame = m && 0 < wordsDropped s p w).map fun w => (p, w)).flatten

/-- The undispatched Word-frames of a work are dropped: the Phrase diverges, each reports DONE = 0 and CARRY = 0, and its frame ends at
once or when the Word-frame in a bank ends (R150, R162). -/
def dropWork (s : State) (w : Work) : State :=
  let s := onWork (divergeWork s w.frame w.pos) w.frame w.pos id fun k => { k with cut := true }
  if inBank s w.frame w.pos then s
  else match findWork s w.frame w.pos with
    | some (p, k) => endPhraseFrame s p k k.next false
    | none => s

/-- Frame m is abandoned where any of its Word-frames has not been dispatched (R150). -/
def abandonFrame (s : State) (m : Nat) : State :=
  match losers s m with
  | [] => s
  | ls =>
    let dropped := (ls.map fun (p, w) => wordsDropped s p w).sum
    let s := raiseGloss (countUp s R.parserAbandon) 0x3101 (w32 m) (w32 dropped) (w32 ls.length)
    settleFlows (ls.foldl (fun t (_, w) => dropWork t w) (voidFrame s m 1))

/-- A Word-frame in the bank that is not in use is aborted with the watchdog fault; one frozen by a pre-emption will not
resume, and one that was loaded does not start (R128, R150). -/
def abortOther (s : State) (v : Nat) : State :=
  let s := overCheckAt s v true
  match (verbOf s v).other.wf with
  | none => s
  | some w =>
    let pc := (verbOf s v).other.pc
    let s := recordFault s v 5 w pc
    let s := logAbort s v 5 w pc
    let s := divergeWork (voidFrame s w.frame 3) w.frame w.pos
    let s := stageTrace s w.key [v] (traceSlot w.pos) w.reason (dispatchRecord s v { w with resumed := (verbOf s v).frozen || w.resumed } true)
    let s := onVerb s v fun x => { x.setOther { x.other with wf := none, units := [], loads := [], table := [],
                                                             produced := [], poison := [], delay := none } with
                                   frozen := false, abandoned := x.abandoned || x.halted }
    settleFlows (wordEnded s w.frame w.pos w.widx true false true)

/-- Word-frames of frame m that were dispatched and have not ended are aborted (R150). -/
def abortLate (s : State) (m : Nat) : State :=
  (List.range 16).foldl (fun s v =>
    let s := match (verbOf s v).other.wf with
      | some w => if w.frame ≤ m then abortOther s v else s
      | none => s
    match (verbOf s v).cur.wf with
    | some w =>
      if w.frame ≤ m then
        abortFrame (onVerb s v fun x => { x with abandoned := x.abandoned || x.halted }) v 5
      else s
    | none => s) s

/-- What a global Word-frame of frame m has added to the buses is taken back where it has not completed by the deadline (R149). -/
def withdrawGlobals (s : State) (m : Nat) : State :=
  ((bankFrames s).filter fun w => w.frame = m && 2048 ≤ w.pos).foldl (fun t w =>
    w.sent.foldl (fun u x => memAdd u 2 (busAddr m x.1 x.2.1) (0 - x.2.2.signExtend 64)) t) s

/-! ### Void frames (R173, R174) -/

/-- The number of diverged Phrases that are not global. -/
def divergedCount (s : State) : Nat := (s.phrases.filter fun p => p.diverged && !p.isGlobal).length

/-- Frame m is void with cause DIVERGED while a diverged Phrase sounds, the tables or the allocation state have diverged, or a
program has been written through the test port (R173, R366, R399, R481). -/
def voidDiverged (s : State) (m : Nat) : State :=
  if (s.phrases.any (·.diverged)) ∨ s.memint.tablesDiverged ∨ s.boot.programWritten ∨ flag s R.linkStat 1 then voidFrame s m 2 else s

/-- A cause that arises once its frame has been recorded joins the registers, and the frame is not counted again (R174: DEDUCED,
log 153). -/
def amendVoid (s : State) (m : Nat) (causes : BitVec 10) : State :=
  let s := wrFld s R.parserVoid 25 16 (fld s R.parserVoid 25 16 ||| causes.toNat)
  if rd s R.parserVoidfrm = w32 m then wrFld s R.parserVoid 9 0 (fld s R.parserVoid 9 0 ||| causes.toNat) else s

/-- One void frame is recorded and logged (R174). -/
def reportVoid (s : State) (m : Nat) (causes : BitVec 10) : State :=
  let s := { s with time := { s.time with reported := (m :: s.time.reported).take 8 } }
  let s := wrFld s R.parserVoid 9 0 causes.toNat
  let s := wrFld s R.parserVoid 25 16 ((fld s R.parserVoid 25 16) ||| causes.toNat)
  let s := raiseIrq (countUp (wr s R.parserVoidfrm (w32 m)) R.parserVoidcnt) 12
  raiseGloss s 0x3150 (w32 m) (w32 causes.toNat) (w32 (s.phrases.filter (·.diverged)).length)

/-- Every void frame up to m is recorded (R174). -/
def reportVoids (s : State) (m : Nat) : State :=
  let due := s.time.voids.filter fun v => v.1 ≤ m
  let s := { s with time := { s.time with voids := s.time.voids.filter fun v => m < v.1 } }
  due.foldl (fun t v => if t.time.reported.contains v.1 then amendVoid t v.1 v.2 else reportVoid t v.1 v.2) s

/-! ### Phrase ends and fade ends (R49, R162, R189, R366) -/

/-- FADEREM falls by the samples of frame m; where it reaches 0 the fade has ended in that frame (R189). -/
def stepFades (s : State) (m : Nat) : State :=
  { s with phrases := s.phrases.map fun p =>
      if p.state = 4 then
        { p with fadeRem := p.fadeRem - 16, ends := if p.fadeRem ≤ 16 ∧ p.ends.isNone then some m else p.ends }
      else p }

/-- The slots that are FREE from the boundary before frame n: RELEASED Phrases that met their end and fades that have run out
(R48, R49), in a system T frames later and from the reports (R366). -/
def endedSlots (s : State) (n : Nat) : List Nat :=
  (s.phrases.filter fun p => !p.isGlobal && (p.state = 3 || p.state = 4) &&
    (match p.ends with
      | some e => e + 1 + tiersOf s ≤ n && (tiersOf s = 0 || p.state = 4 || p.rend || p.dev.isNone)
      | none => p.rend && p.dev.isSome)).map (·.pos)

/-- The Phrase ends of the boundary before frame n: a worker frees only what ENDMAP announces (R366). -/
def phraseEnds (s : State) (n : Nat) : State :=
  if isWorker s then stepFades s (n - 1)
  else
    let s := stepFades s (n - 1)
    let gone := endedSlots s n
    { s with phrases := s.phrases.filter fun p => !gone.contains p.pos, sys := { s.sys with endmap := gone } }

/-! ### Verbs (R132, R138, R146) -/

/-- Is Verb v enabled, powered and not halted (R138). -/
def verbActive (s : State) (v : Nat) : Bool :=
  let x := verbOf s v
  flag s R.parserVen v && domainOn s (if v < 8 then 1 else 2) && !x.absent && !x.halted

/-- The Verbs' activity and slot mode are fixed for the frame; the counts of a recovery run down (R132, R146). -/
def refreshVerbs (s : State) : State :=
  let s := { s with verbs := ((List.range s.verbs.length).zip s.verbs).map fun (v, x) =>
    { x with active := verbActive s v, recover := x.recover - 1, q0 := none } }
  let mask := fun f : Nat → Bool => ((List.range 16).filter f).foldl (fun a v => a + 2 ^ v) 0
  let s := wrFld s R.parserVstat 15 0 (mask fun v => (verbOf s v).active)
  wrFld s R.parserVstat 31 16 (mask fun v =>
    !s.boot.interruptMode || 0 < (verbOf s v).recover || s.memint.held.any fun h => h.1 = v)

/-- A Phrase that no device could take is this device's once its own Verbs can hold it (R139, R372; DESIGN CHOICE, log 157: only here, for a
worker creates a Phrase by its CREATE record). -/
def takeAdrift (s : State) (p : Phrase) : State :=
  if p.adrift && deviceFor s p.lane (costOf s p.sid) = some none then onPhrase s p.pos fun q => { q with adrift := false } else s

/-- The unplaced Phrases of this device are placed where space exists (R139). -/
def placeAll (s : State) : State := (s.phrases.filter unplaced).foldl (fun t p => placePhrase (takeAdrift t p) p.pos) s

/-! ### The hold of a system (R359, R367, R368) -/

/-- A device's report entry for a slot of a frame (R367). -/
def reportEntry (s : State) (slot : Nat) : Nat :=
  let pos := if slot < slotCount s then slot else 1024 + (slot - slotCount s)
  match s.phrases.find? fun p => p.pos = pos && p.dev.isNone && !p.adrift && !p.isGlobal with
  | some p => slOf p.level + 2 ^ 14 * b2n p.ends.isSome + 2 ^ 15
  | none => 0

/-- A device's report of the frame that ends (R367). -/
def reportOf (s : State) : List Nat := (List.range (slotCount s + 32)).map (reportEntry s)

/-- The frame m goes into its hold: the sums of all 64 buses, the report, the void causes (R359). -/
def holdFrame (s : State) (m : Nat) : State :=
  let base := holdBase s m
  let s := copyWords s 1024 (busAddr m 0 0) base
  let s := storeBytes s 3 (base + 0x2000) ((reportOf s).map (leBytes 2)).flatten
  let causes := ((mapGet s.time.voids m).getD 0).toNat
  let s := storeBytes s 3 (base + 0x2900) (leBytes 16 causes)
  { s with sys := { s.sys with holdVoid := (s.sys.holdVoid.filter fun v => m < v.1 + 3) ++ [(m, BitVec.ofNat 10 causes)] } }

/-- The report of a frame in the hold. -/
def heldReport (s : State) (m : Nat) : State × List Nat :=
  let n := slotCount s + 32
  let (s, ws) := readWords s 4 ((n + 3) / 4) (holdBase s m + 0x2000)
  (if ws.any (·.2) then voidFrame s m 4 else s, (List.range n).map fun i =>
    match ws[i / 4]? with
    | some (d, false) => d.toNat / 2 ^ (16 * (i % 4)) % 65536
    | _ => 0)

end Sys2Proof.Machine
end

