-- ==== Sys2Proof/Machine/Dai.lean ====
section
/-! DEFINITION. Digital audio ports (R383 to R391): received frames and the samples they deliver, the words sent, slips, a lost
clock, SYNC. -/

namespace Sys2Proof.Machine

/-- Port p. -/
def daiOf (s : State) (p : Nat) : DaiSt := nth s.dai p {}

/-- Port p changes. -/
def onDai (s : State) (p : Nat) (f : DaiSt → DaiSt) : State := { s with dai := s.dai.modify p f }

/-- A register of port p. -/
def daiReg (base p : Nat) : Nat := base + 0x1000 * p

/-- NSLOT of a port. -/
def daiSlots (s : State) (p : Nat) : Nat := 2 ^ (fld s (daiReg R.daiCfg p) 3 2 + 1)

/-- WL of a port. -/
def daiWidth (s : State) (p : Nat) : Nat := match fld s (daiReg R.daiCfg p) 5 4 with | 0 => 16 | 1 => 24 | _ => 32

/-- MODE = 1: the port drives BCK and FS (R384). -/
def daiController (s : State) (p : Nat) : Bool := flag s (daiReg R.daiCfg p) 6

/-- RXEN and TXEN, as in force. -/
def daiRx (s : State) (p : Nat) : Bool := flag s (daiReg R.daiCtl p) 0

/-- TXEN, as in force. -/
def daiTx (s : State) (p : Nat) : Bool := flag s (daiReg R.daiCtl p) 1

/-- The NOCLK bit of a port (R388). -/
def daiNoClk (s : State) (p : Nat) : Bool := flag s (daiReg R.daiStat p) 2

/-! ### Slips (R387) -/

/-- The frame that covers the present sample time (R17). -/
def frameNow (s : State) : Nat := nowSample s / 16

/-- A slip is marked and counted; the first one of a frame is logged: kind 0 input, 1 output. -/
def daiSlip (s : State) (p kind : Nat) : State :=
  let s := countUp (setFlag s (daiReg R.daiStat p) (1 - kind)) (daiReg R.daiSlip p)
  if (daiOf s p).slipFrame = some (frameNow s) then s
  else
    let s := onDai s p fun d => { d with slipFrame := some (frameNow s) }
    raiseGloss s 0x5300 (w32 p) (w32 kind) (w32 (frameNow s))

/-! ### Input (R385) -/

/-- The ring address of slot k of port p at sample time u (R385). -/
def daiAddr (s : State) (p k u : Nat) : Nat :=
  (rd s R.daiIbase).toNat + 0x1000 * (u / 16 % 4) + 0x400 * p + 64 * k + 4 * (u % 16)

/-- The sample of a slot: its first WL bits in the upper bits of the word, 0 where the slot is not sent or IMASK clears it. -/
def daiSample (s : State) (p : Nat) (slots : List Word) (k : Nat) : Word :=
  if k < daiSlots s p ∧ flag s (daiReg R.daiImask p) k then
    let cut := 2 ^ (32 - daiWidth s p)
    w32 ((nth slots k 0).toNat / cut * cut)
  else 0

/-- The 16 samples of a port at sample time u go into the ring, and are what the port delivered last. -/
def daiDeliver (s : State) (p u : Nat) (ws : List Word) : State :=
  (List.range 16).foldl (fun t k => memStore t 3 (daiAddr t p k u) 4 ((nth ws k 0).setWidth 64)) s

/-- A frame shows that the clock has returned: NOCLK clears, and the frame's assignment will be no slip (R388). -/
def clockBack (s : State) (p : Nat) : State :=
  if daiNoClk s p then onDai (clrFlag s (daiReg R.daiStat p) 2) p fun d => { d with lastU := none } else s

/-- The first data bit of a frame comes one BCK after the FS edge: I2S, and TDM with FSDLY (R383, Table 1). -/
def daiDelayed (s : State) (p : Nat) : Bool :=
  match fld s (daiReg R.daiCfg p) 1 0 with
  | 0 => true
  | 2 => flag s (daiReg R.daiCfg p) 9
  | _ => false

/-- The sample time of a frame whose last bit is sampled at c, in 1/256 samples: floor(c) + 1; for a controller the one after the time at
which its frame began, which its last bit may lie one BCK beyond (R383, R385). -/
def daiTime (s : State) (p : Nat) (c : Int) : Nat :=
  ((if daiController s p && daiDelayed s p then (2 * c - 16 / daiSlots s p) / 512 else c / 256) + 1).toNat

/-- The words that a frame's slots deliver at sample time u, under the IMASK in force at it (R385). -/
def daiTake (s : State) (p u : Nat) (slots : List Word) : State :=
  let ws := (List.range 16).map (daiSample s p slots)
  daiDeliver (onDai s p fun d => { d with lastU := some u, words := ws }) p u ws

/-- Does a port have a frame for a sample time already: one that waits, or one delivered (R387). -/
def daiTaken (s : State) (p u : Nat) : Bool :=
  ((daiOf s p).due.any fun f => daiTime s p f.1 = u) || (match (daiOf s p).lastU with | some last => decide (u ≤ last) | none => false)

/-- A port frame of 32-bit slot contents, whose last bit is sampled at c, is assigned to its sample time, at which it will be delivered
(R385). The later of two frames for one time replaces the earlier, a slip of a target (R387); a frame after a lost clock is no slip (R388).
One whose sample time has come is delivered at once. -/
def daiAssign (s : State) (p : Nat) (c : Int) (slots : List Word) : State :=
  let s := clockBack s p
  let u := daiTime s p c
  let s := if daiTaken s p u && !daiController s p then daiSlip s p 0 else s
  if u ≤ nowSample s then daiTake s p u slots
  else onDai s p fun d => { d with due := (d.due.filter fun f => daiTime s p f.1 ≠ u) ++ [(c, slots)] }

/-- A frame on a port, whose start was an FS edge (R388). -/
def edgeSeen (s : State) (p : Nat) : State := onDai s p fun d => { d with edgeAt := s.time.aoTime }

/-- PORT_FRAME_IN: a port frame has been received, its last bit sampled at the sample time given in 1/256 samples, and is assigned to its
sample time (R385). Nothing is received while PD7 is off, RXEN is 0, or with a slot count that is not the port's; a frame that RXEN keeps
out still shows that the clock has returned (R388). -/
def execPortFrameIn (p : Fin 4) (slots : List Word) (lastBit : DWord) (s : State) : Host.Outcome State Fault Refusal :=
  if ¬ domainOn s 7 ∨ slots.length ≠ daiSlots s p then .next s
  else if daiRx s p then .next (daiAssign (edgeSeen s p) p lastBit.toNat slots)
  else .next (clockBack (edgeSeen s p) p)

/-- Frames whose sample time has come wait no longer. -/
def daiPast (s : State) (p u : Nat) : State := onDai s p fun d => { d with due := d.due.filter fun f => u < daiTime s p f.1 }

/-- What a port delivers at a sample time without a frame: 0, or for a target whose frames are arriving the previous samples again
(R385, R387, R388, R390). -/
def daiNone (u : Nat) (s : State) (p : Nat) : State :=
  if domainOn s 7 && daiRx s p && !daiController s p && !daiNoClk s p && (daiOf s p).lastU.isSome then
    let s := daiSlip s p 0
    daiDeliver (onDai s p fun d => { d with lastU := some u }) p u (daiOf s p).words
  else daiDeliver s p u (List.replicate 16 0)

/-- What a sample tick delivers from a port: the frame assigned to it (R385). -/
def daiTick (u : Nat) (s : State) (p : Nat) : State :=
  if (daiOf s p).lastU = some u ∧ daiRx s p then s
  else
    let t := daiPast s p u
    match (daiOf s p).due.find? fun f => daiTime s p f.1 = u with
    | some f => if daiRx s p then daiTake t p u f.2 else daiNone u t p
    | none => daiNone u t p

/-- DAI_NO_CLOCK: a target port has seen no FS edge for 2 sample periods (R388). -/
def execDaiNoClock (p : Fin 4) (s : State) : Host.Outcome State Fault Refusal :=
  if domainOn s 7 ∧ ¬ daiController s p ∧ ¬ daiNoClk s p ∧ 2 * tclkPerSample s ≤ cyclesSince s (daiOf s p).edgeAt then
    let s := setFlag s (daiReg R.daiStat p) 2
    let s := onDai s p fun d => { d with words := List.replicate 16 0 }
    .next (raiseGloss s 0x5301 (w32 p) (w32 (frameNow s)) 0)
  else .next s

/-! ### Output (R386) -/

/-- OSLOTs of a port. -/
def oslot (s : State) (p k : Nat) : Word := rd s (daiReg R.daiOslot0 p + 4 * k)

/-- The bus words of a slot for the frame that is played from now: all 16 samples (R270, R386). -/
def slotCodes (s : State) (m p k : Nat) : State × List Int :=
  let o := oslot s p k
  if bits o 25 24 ≠ 1 then (s, [])
  else (List.range 16).foldl (fun (acc : State × List Int) j =>
    let (s, x) := shifted acc.1 m (bits o 5 0) (bits o 12 8) j
    (s, acc.2 ++ [x])) (s, [])

/-- The ports latch the buses of frame m, played in frame n of sample time. -/
def latchDai (s : State) (m n p : Nat) : State :=
  let (s, cs) := (List.range 16).foldl (fun (acc : State × List (List Int)) k =>
    let (s, c) := slotCodes acc.1 m p k
    (s, acc.2 ++ [c])) (s, [])
  onDai s p fun d => { d with bus := (d.bus.filter fun b => b.1 + 1 = n) ++ [(n, cs)] }

/-- A 32-bit word of a ring in shared memory. -/
def ringWord (s : State) (a : Nat) : State × Int :=
  let (s, d, bad, _) := memLoad s 2 a 4
  (s, if bad then 0 else (BitVec.ofNat 32 d.toNat).toInt)

/-- The OSLOT by which slot k takes its source for position v: that of the frame of v, whose last position is sent when the next frame has
begun (R386, R391). -/
def oslotAt (s : State) (p k v : Nat) : Word :=
  if v % 16 = 15 ∧ v < nowSample s then nth (daiOf s p).before k (oslot s p k) else oslot s p k

/-- The OSLOTs of a frame are kept at its last sample time for its last position. -/
def keepSlots (u : Nat) (s : State) (p : Nat) : State :=
  if u % 16 = 15 then onDai s p fun d => { d with before := (List.range 16).map (oslot s p) } else s

/-- The source of slot k for position v: none where SRC is off. -/
def slotSource (s : State) (p k v : Nat) : State × Option Int :=
  let o := oslotAt s p k v
  let idx := bits o 6 0
  match bits o 25 24 with
  | 1 =>
    let codes := match (daiOf s p).bus.find? fun b => b.1 = v / 16 with | some b => nth b.2 k [] | none => []
    (s, some (nth codes (v % 16) 0))
  | 2 => let (s, x) := ringWord s (inputAddr s (idx % 16) v); (s, some x)
  | 3 => let (s, x) := ringWord s (daiAddr s (idx / 16 % 4) (idx % 16) v); (s, some x)
  | _ => (s, none)

/-- A value saturated to 32 bits, rounded convergently to WL bits and saturated, in the top bits of its slot, and whether it saturated
(R386). -/
def narrowWord (x : Int) (wl : Nat) : Word × Bool :=
  let r := rne (satS32 x) (2 ^ (32 - wl))
  let top : Int := 2 ^ (wl - 1) - 1
  (BitVec.ofInt 32 (min top r * 2 ^ (32 - wl)), decide (top < r) || decide (satS32 x ≠ x))

/-- The word of slot k for position v, with SAT where it saturates; a slot whose SRC is off sends 0, or with TRI leaves SDO at
high impedance. -/
def slotWord (v p : Nat) (acc : State × List (Option Word)) (k : Nat) : State × List (Option Word) :=
  match slotSource acc.1 p k v with
  | (s, none) => (s, acc.2 ++ [if flag s (daiReg R.daiCfg p) 11 then none else some 0])
  | (s, some x) =>
    let (w, sat) := narrowWord x (daiWidth s p)
    (if sat then setFlag s (daiReg R.daiStat p) 3 else s, acc.2 ++ [some w])

/-- A port frame sends the words of position v; a target that repeats or skips a position slips (R386, R387). -/
def daiSend (s : State) (p v : Nat) : State :=
  let d := daiOf s p
  let s := match d.lastV with
    | some last => if daiController s p ∨ v = last + 1 then s else daiSlip s p 1
    | none => s
  let (s, ws) := (List.range (daiSlots s p)).foldl (slotWord v p) (s, [])
  onDai s p fun d => { d with lastV := some v, sdo := ws }

/-- The port frame of a controller that begins with sample time u (R384, R386): from the first position on it sends a word. -/
def daiBegin (u : Nat) (s : State) (p : Nat) : State :=
  if domainOn s 7 ∧ daiController s p ∧ daiTx s p ∧ 1 ≤ u ∧ (daiOf s p).lastV ≠ some (u - 1) then daiSend s p (u - 1) else s

/-- PORT_FRAME_OUT: a port frame begins at the sample time given in 1/256 samples, and sends the words of position
floor(b) - 1 (R386). Nothing is sent while PD7 is off or TXEN is 0, or before the first position; the frame shows that the clock is
there (R388). A controller begins its frames itself, at whole sample times (R384): a command for one that it has begun adds nothing. -/
def execPortFrameOut (p : Fin 4) (begins : DWord) (s : State) : Host.Outcome State Fault Refusal :=
  if ¬ domainOn s 7 then .next s
  else
    let s := clockBack (edgeSeen s p) p
    if daiController s p then (if begins.toNat % 256 = 0 then .next (daiBegin (begins.toNat / 256) s p) else .next s)
    else if daiTx s p ∧ 256 ≤ begins.toNat then .next (daiSend s p (begins.toNat / 256 - 1)) else .next s

/-! ### SYNC and the domain (R389, R390) -/

/-- The frames that wait when a SYNC moves the epoch by so many cycles: those of a target are assigned against the new epoch; of a
controller the frame in progress at the instant is discarded (R389). -/
def daiRebase (s : State) (delta p : Nat) (f : Int × List Word) : Option (Int × List Word) :=
  let c := f.1 - (delta * 256 / tclkPerSample s : Nat)
  if c < -256 ∨ (daiController s p ∧ (daiDelayed s p ∨ delta % tclkPerSample s ≠ 0)) then none else some (c, f.2)

/-- A SYNC instant: positions restart; a controller cuts its frame short and begins a new one, in which it sends 0 as no position comes
before it (R389, log 159). The epoch before it is given where one was set. -/
def daiSync (before : Option DWord) (s : State) : State :=
  { s with dai := ((List.range s.dai.length).zip s.dai).map fun (p, d) =>
      { d with lastU := none, lastV := none, bus := [], slipFrame := none, before := [],
               due := match before with
                 | some e => d.due.filterMap (daiRebase s (s.time.epoch - e).toNat p)
                 | none => [],
               sdo := if daiController s p then d.sdo.map fun w => w.map fun _ => 0 else d.sdo } }

/-- The ports as they stand after reset or while PD7 is off. -/
def resetDai (s : State) : State := { s with dai := List.replicate 4 {} }

end Sys2Proof.Machine
end

