-- ==== Sys2Proof/Machine/Digest.lean ====
section
/-! DEFINITION. The CRC-32 of IEEE 802.3 (R352, R420, R431), SHA-256 (R422, R424) and the SHA-512 of RFC 8032 (R424),
which the spec names and does not restate (log 17). -/

namespace Sys2Proof.Machine

/-! ### CRC-32 -/

/-- Eight steps of the reflected CRC. -/
def crcBits : Nat → Nat → Nat
  | 0, c => c
  | n + 1, c => crcBits n (if c % 2 = 1 then (c / 2) ^^^ 0xEDB88320 else c / 2)

/-- CRC-32 of IEEE 802.3. -/
def crc32 (bs : List Byte) : Nat := (bs.foldl (fun c b => crcBits 8 (c ^^^ b.toNat)) 0xFFFFFFFF) ^^^ 0xFFFFFFFF

/-! ### SHA-2

The tables of constants are not written out: they are formed as the standard defines them, from the fractional parts of roots of the
first primes. -/

/-- A hash of the SHA-2 family: its word width, its rounds, the rotations and the shift of the two functions of its schedule, the rotations
of the two of a round. -/
structure ShaForm where
  width  : Nat
  rounds : Nat
  early  : List Nat × Nat
  late   : List Nat × Nat
  first  : List Nat
  second : List Nat

/-- SHA-256. -/
@[reducible] def sha256Form : ShaForm := ⟨32, 64, ([7, 18], 3), ([17, 19], 10), [2, 13, 22], [6, 11, 25]⟩

/-- SHA-512. -/
@[reducible] def sha512Form : ShaForm := ⟨64, 80, ([1, 8], 7), ([19, 61], 6), [28, 34, 39], [14, 18, 41]⟩

/-- The largest r with r^k ≤ n, from below bit j downwards, given the part of it already found. -/
def rootFrom (k n : Nat) : Nat → Nat → Nat
  | 0, r => r
  | j + 1, r => rootFrom k n j (if (r + 2 ^ j) ^ k ≤ n then r + 2 ^ j else r)

/-- The first bits behind the binary point of the k-th root of p, for p below 512: as many as a word has. -/
def rootFraction (w k p : Nat) : BitVec w := BitVec.ofNat w (rootFrom k (p * 2 ^ (w * k)) (w + 8) 0)

/-- The first 80 primes: all those up to 409. -/
def shaPrimes : List Nat := (List.range 410).filter fun n => 2 ≤ n && (List.range 21).all fun d => d < 2 || n ≤ d || n % d ≠ 0

/-- The first hash value. -/
def shaStart (f : ShaForm) : List (BitVec f.width) := (shaPrimes.take 8).map (rootFraction f.width 2)

/-- The exclusive or of a word's rotations to the right. -/
def turned {w : Nat} (x : BitVec w) (ns : List Nat) : BitVec w := ns.foldl (fun acc n => acc ^^^ x.rotateRight n) 0

/-- A function of the schedule: rotations and a shift. -/
def smeared {w : Nat} (x : BitVec w) (g : List Nat × Nat) : BitVec w := turned x g.1 ^^^ x >>> g.2

/-- The message schedule: the sixteen latest words, oldest first, and as many further ones as are asked for. -/
def shaSchedule (f : ShaForm) : Nat → List (BitVec f.width) → List (BitVec f.width)
  | 0, win => win
  | n + 1, win =>
    let next := nth win 0 0 + nth win 9 0 + smeared (nth win 1 0) f.early + smeared (nth win 14 0) f.late
    win.head?.toList ++ shaSchedule f n (win.drop 1 ++ [next])

/-- One round: the eight words are two chains of four, each of which shifts by one place and takes a new word at its front. -/
def shaRound (f : ShaForm) (st : List (BitVec f.width) × List (BitVec f.width)) (c : Nat × BitVec f.width) :
    List (BitVec f.width) × List (BitVec f.width) :=
  let u := fun i => nth st.1 i 0
  let v := fun i => nth st.2 i 0
  let chosen := v 2 ^^^ (v 0 &&& (v 1 ^^^ v 2))
  let agreed := (u 0 &&& u 1) ||| (u 2 &&& (u 0 ||| u 1))
  let mixed := v 3 + turned (v 0) f.second + chosen + rootFraction f.width 3 c.1 + c.2
  ((mixed + turned (u 0) f.first + agreed) :: st.1.take 3, (u 3 + mixed) :: st.2.take 3)

/-- The big-endian words of a block. -/
def shaWords (w : Nat) (bs : List Byte) : List (BitVec w) :=
  (List.range (bs.length / (w / 8))).map fun i => BitVec.ofNat w (leNat ((bs.drop (w / 8 * i)).take (w / 8)).reverse)

/-- One block joins the hash value. -/
def shaBlock (f : ShaForm) (h : List (BitVec f.width)) (bs : List Byte) : List (BitVec f.width) :=
  let st := (shaPrimes.zip (shaSchedule f (f.rounds - 16) (shaWords f.width bs))).foldl (shaRound f) (h.take 4, h.drop 4)
  List.zipWith (· + ·) h (st.1 ++ st.2)

/-- The first blocks of a list of bytes join the hash value. -/
def shaBlocks (f : ShaForm) (n : Nat) (bs : List Byte) (h : List (BitVec f.width)) : List (BitVec f.width) :=
  (List.range n).foldl (fun acc i => shaBlock f acc ((bs.drop (2 * f.width * i)).take (2 * f.width))) h

/-- The bytes that complete the last block of a message: a 1 bit, zeros, and its length in bits. -/
def shaPad (f : ShaForm) (len : Nat) : List Byte :=
  let size := 2 * f.width
  let tail := f.width / 4
  0x80 :: List.replicate ((2 * size - 1 - tail - len % size) % size) 0 ++ (leBytes tail (8 * len)).reverse

/-- The bytes of a hash value. -/
def shaOut (f : ShaForm) (h : List (BitVec f.width)) : List Byte := h.flatMap fun w => (leBytes (f.width / 8) w.toNat).reverse

/-- The hash of a message. -/
def sha2 (f : ShaForm) (bs : List Byte) : List Byte :=
  let m := bs ++ shaPad f bs.length
  shaOut f (shaBlocks f (m.length / (2 * f.width)) m (shaStart f))

/-- SHA-256 of a message. -/
def sha256 (bs : List Byte) : List Byte := sha2 sha256Form bs

end Sys2Proof.Machine
end

