-- ==== Sys2Proof/Machine/GlossStore.lean ====
section
/-! DEFINITION. The recorder's storing of entries (R463 to R471): the kept and circulating areas, freeze and resume, clears, rates and
overrides. Raising a code is in Machine/Gloss.lean, the Gloss store to flash in Machine/Nvm.lean. -/

namespace Sys2Proof.Machine

/-- GLOSS.BASE (R463). -/
def glossBase : Nat := 0x015C0000

/-- The recorder's state changes. -/
def onGloss (s : State) (f : GlossSt → GlossSt) : State := { s with gloss := f s.gloss }

/-- The four words of an entry (Table 1). -/
def glossWords (e : GlossEntry) : List DWord :=
  [e.stamp, e.aotime,
   w64 (e.code.toNat + e.src.toNat * 2 ^ 16 + e.supp.toNat * 2 ^ 24 + e.d0.toNat * 2 ^ 32), w64 (e.d1.toNat + e.d2.toNat * 2 ^ 32)]

/-- The place the next entry goes to: a kept place, or the circulating place RHEAD names (R463). -/
def glossPlace (s : State) : Nat :=
  if s.gloss.kcount < 256 then glossBase + 32 * s.gloss.kcount else glossBase + 0x2000 + 32 * s.gloss.rhead

/-- An entry is stored and the pointers advance (R463, R474). -/
def storeEntry (s : State) (e : GlossEntry) : State :=
  let s := storeWords s (glossPlace s) (glossWords e)
  let s := onGloss s fun g =>
    if g.kcount < 256 then { g with kcount := g.kcount + 1, valid := true }
    else { g with rhead := (g.rhead + 1) % 768, wrap := g.wrap || g.rhead = 767, valid := true }
  raiseIrq s 14

/-- A code of class 0xF. -/
def isRecorder (e : GlossEntry) : Bool := e.code.toNat / 4096 = 15

/-- The staged entry that is stored next: the oldest, or while the recorder is frozen the oldest of class 0xF (R464, R468). -/
def nextEntry (s : State) : Option GlossEntry :=
  if s.gloss.frozen || s.gloss.storing then s.gloss.staging.find? isRecorder else s.gloss.staging.head?

/-- One staged entry is stored; once the queue has had room after codes were lost, the GAP entry of them comes first (R464). -/
def storeNext (s : State) : State :=
  match nextEntry s with
  | none => s
  | some e =>
    match s.gloss.lost, s.gloss.room with
    | some g, true => storeEntry (onGloss s fun x => { x with lost := none, room := false }) (glossGapEntry s g)
    | _, _ => storeEntry (onGloss s fun x => { x with staging := x.staging.erase e, room := x.lost.isSome }) e

/-- GLOSS_ENTRY_STORE: the recorder stores one staged entry (R464). -/
def execGlossEntryStore (s : State) : Host.Outcome State Fault Refusal := .next (if glossDirect s then storeNext s else s)

/-! ### Freeze and resume (R468) -/

/-- GLOSS.CTL.FREEZE is written 1. -/
def glossFreeze (s : State) : State := onGloss (setFlag s R.glossCtl 0) fun g => { g with frozen := true }

/-- The codes counted since a freeze or a Gloss store began are recorded by a GAP entry (R468, R472). -/
def closeGap (s : State) : State :=
  match s.gloss.gap with
  | none => s
  | some g =>
    let s := onGloss s fun x => { x with gap := none }
    if glossRoom s then glossEnqueue s (glossGapEntry s g) else glossLose s 0xF000

/-- GLOSS.CTL.FREEZE is written 0. -/
def glossResume (s : State) : State :=
  let s := clrFlag s R.glossCtl 0
  if !s.gloss.frozen then s
  else
    let s := onGloss s fun g => { g with frozen := false }
    if s.gloss.storing then s else closeGap s

/-- GLOSS_FREEZE: FREEZE is written 1 (R468). -/
def execGlossFreeze (s : State) : Host.Outcome State Fault Refusal := .next (glossFreeze s)

/-- GLOSS_RESUME: FREEZE is written 0 (R468). -/
def execGlossResume (s : State) : Host.Outcome State Fault Refusal := .next (glossResume s)

/-- The Gloss store under way ends: recording goes on, after a GAP entry with cause 2 (R472). -/
def endStoring (s : State) : State :=
  if !s.gloss.storing then s
  else
    let s := onGloss s fun g => { g with storing := false }
    if s.gloss.frozen then s else closeGap s

/-! ### Clears (R470) -/

/-- The entries of the circulating area. -/
def circulating (g : GlossSt) : Nat := if g.wrap then 768 else g.rhead

/-- The kept area is emptied. -/
def clearKeptArea (s : State) : State :=
  onGloss (clearRange s glossBase (glossBase + 0x2000)) fun g => { g with kcount := 0 }

/-- The circulating area is emptied. -/
def clearCircArea (s : State) : State :=
  onGloss (clearRange s (glossBase + 0x2000) (glossBase + 0x8000)) fun g => { g with rhead := 0, wrap := false }

/-- GLOSS.CMD is written (R470): 1 the kept area, 2 the circulating one, 3 both; the CLEARED entry is the first one stored after it.
A wrong key or OP 0 is refused. -/
def glossCommand (s : State) (key op : Nat) : State :=
  if key ≠ 0x6C35 ∨ op % 4 = 0 then refuse s R.glossCmd true
  else
    let kept := if op % 2 = 1 then s.gloss.kcount else 0
    let circ := if 2 ≤ op % 4 then circulating s.gloss else 0
    let s := if op % 2 = 1 then clearKeptArea s else s
    let s := if 2 ≤ op % 4 then clearCircArea s else s
    let e := glossEntry s 0xF001 0 (w32 (op % 4)) (w32 kept) (w32 circ)
    onGloss s fun g => if glossDirect s then { g with staging := e :: g.staging } else { g with pd0 := e :: g.pd0 }

/-! ### Rates and overrides (R466) -/

/-- GLOSS.RATE is written: undefined limits are refused, others take effect and refill every bucket (R466, Table 8). -/
def glossRate (s : State) (v : Word) : State :=
  if bits v 25 16 = 0 ∨ 1000 < bits v 25 16 ∨ bits v 7 0 = 0 then refuse s R.glossRate true
  else onGloss (wr s R.glossRate (v &&& 0x03FF00FF)) fun g => { g with buckets := [] }

/-- GLOSS.OVRn is written: a code of class 0xF is refused, any other code's bucket is refilled (R466, R474). -/
def glossOverride (s : State) (n : Nat) (v : Word) : State :=
  let a := R.glossOvr + 4 * n
  if bits v 15 12 = 15 then refuse s a true
  else onGloss (wr s a (v &&& 0x80FFFFFF)) fun g => { g with buckets := mapErase g.buckets (bits v 15 0) }

/-! ### Registers (R474) -/

/-- GLOSS.STAT. -/
def glossStat (s : State) : Word :=
  let g := s.gloss
  w32 (b2n (g.frozen || g.storing) + 2 * b2n (g.kcount = 256) + 4 * b2n g.wrap + 8 * b2n g.storing + 16 * g.origin.toNat)

/-- GLOSS.PTR. -/
def glossPtr (s : State) : Word :=
  let g := s.gloss
  w32 (g.kcount + 65536 * g.rhead + 2 ^ 31 * b2n g.valid)

/-! ### The bank at boot and at a wake (R465, R471) -/

/-- The bank is emptied, with its pointers (R471). -/
def emptyBank (s : State) : State :=
  onGloss (clearRange s glossBase (glossBase + 0x40000)) fun g => { g with kcount := 0, rhead := 0, wrap := false, valid := false }

/-- A kept bank: the place that the next entry would take is zeroed (R471). -/
def clearTorn (s : State) : State := clearRange s (glossPlace s) (glossPlace s + 32)

/-- The bank can be reached again: the RESTART entry of origin o and AOTIME t where one is asked for, what the PD0 buffer holds, and a
GAP entry of what it could not hold (R465, R471). -/
def reachBank (s : State) (restart : Option (Nat × DWord)) : State :=
  let first := match restart with
    | none => []
    | some (o, t) =>
      [{ glossEntry s 0xF002 0 (w32 o) (w32 s.gloss.kcount) (w32 s.gloss.rhead) with stamp := 0xFFFFFFFFFFFFFFFF, aotime := t }]
  let gap := match s.gloss.pd0Lost with | some g => [glossGapEntry s g] | none => []
  let held := s.gloss.pd0
  let s := onGloss s fun g => { g with reachable := true, staging := g.staging ++ first ++ held ++ gap, pd0 := [], pd0Lost := none }
  match restart with
  | some (o, _) => onGloss s fun g => { g with origin := BitVec.ofNat 2 o }
  | none => s

end Sys2Proof.Machine
end

