-- ==== Sys2Proof/Machine/Nvm.lean ====
section
/-! DEFINITION. The flash port (R414 to R439): flash bytes, store records, stores with their hold-up energy, direct access,
streaming. -/

namespace Sys2Proof.Machine

/-! ### Flash bytes -/

/-- A byte of the flash; blank flash reads 0xFF. -/
def flashByte (s : State) (a : Nat) : Byte := (mapGet s.flash.bytes a).getD 0xFF

/-- Bytes of the flash. -/
def flashBytes (s : State) (a n : Nat) : List Byte := (List.range n).map fun i => flashByte s (a + i)

/-- The capacity in bytes: 16 MiB without SFDP (R415). -/
def flashSize (s : State) : Nat := if s.flash.sfdp then 2 ^ s.flash.sizeLog else 2 ^ 24

/-- Bytes are programmed: a bit once cleared stays clear until it is erased (log 18). -/
def flashProg (s : State) (a : Nat) : List Byte → State
  | [] => s
  | b :: bs =>
    flashProg { s with flash := { s.flash with bytes := mapSet s.flash.bytes 0xFF a (flashByte s a &&& b) } } (a + 1) bs

/-- A range of the flash is erased. -/
def flashEraseRange (s : State) (a n : Nat) : State :=
  { s with flash := { s.flash with bytes := s.flash.bytes.filter fun c => c.1 < a || a + n ≤ c.1 } }

/-! ### Store records (R430 to R432) -/

/-- The first byte of slot k (0 A, 1 B) of a kind, and the slot's size. -/
def slotPlace (d : StoreDesc) (kind k : Nat) : Option (Nat × Nat) :=
  let before := ((d.kinds.takeWhile fun e => e.1 ≠ kind).map fun e => 2 * 4096 * e.2).sum
  (d.kinds.find? fun e => e.1 = kind).map fun e => (d.base + before + k * 4096 * e.2, 4096 * e.2)

/-- A record: its header and payload (R431). -/
def recordBytes (kind seq : Nat) (payload : List Byte) : List Byte :=
  let head := leBytes 4 0x52534A43 ++ leBytes 4 kind ++ leBytes 4 seq ++ leBytes 4 payload.length ++ List.replicate 12 0
  head ++ leBytes 4 (crc32 (head ++ payload)) ++ payload

/-- The valid record of a slot: its sequence number and payload (R431). -/
def slotRecord (s : State) (kind k : Nat) : Option (Nat × List Byte) :=
  match s.nvm.desc with
  | none => none
  | some d =>
    match slotPlace d kind k with
    | none => none
    | some (a, size) =>
      let h := flashBytes s a 32
      let len := fieldAt h 12 4
      if fieldAt h 0 4 ≠ 0x52534A43 ∨ fieldAt h 4 1 ≠ kind ∨ size < 32 + len then none
      else
        let payload := flashBytes s (a + 32) len
        if crc32 (h.take 28 ++ payload) = fieldAt h 28 4 then some (fieldAt h 8 4, payload) else none

/-- Sequence a is later than b, in serial-number arithmetic. -/
def seqLater (a b : Nat) : Bool := let d := (a + 2 ^ 32 - b) % 2 ^ 32; 1 ≤ d && d < 2 ^ 31

/-- The slot of the newest valid record of a kind, its sequence number and payload (R431). -/
def newestRecord (s : State) (kind : Nat) : Option (Nat × Nat × List Byte) :=
  match slotRecord s kind 0, slotRecord s kind 1 with
  | some (q, p), some (q2, p2) => if seqLater q2 q then some (1, q2, p2) else some (0, q, p)
  | some (q, p), none => some (0, q, p)
  | none, some (q, p) => some (1, q, p)
  | none, none => none

/-! ### Energy (R433) -/

/-- E of VHOLD = v millivolts, in microjoules. -/
def holdupEnergy (d : StoreDesc) (v : Nat) : Nat := if v ≤ d.vmin then 0 else d.hcap * (v * v - d.vmin * d.vmin) / 2000000

/-- S of a payload of len bytes. -/
def storeEnergy (d : StoreDesc) (len : Nat) : Nat := (32 + len + 255) / 256 * d.epage + d.ecommit

/-! ### Streaming (R74, R428) -/

/-- Does a live Phrase have a SAMPLE4 or SAMPLE8 Word at a flow position and Word index. -/
def samplePlays (s : State) (pos widx : Nat) : Bool :=
  match s.phrases.find? fun p => p.pos = pos with
  | none => false
  | some p => match s.syns.find? fun x => x.sid = p.sid with
    | none => false
    | some x => match x.words[widx]? with
      | some w => w.typ = 0x0105 || w.typ = 0x0106
      | none => false

/-- The blocks that a SAMPLE Word needs of a wave and that are not resident, from its position's block: that one and the eight ahead of it, as
far as they lie behind the head and within the wave (R428, log 19). -/
def blocksWanted (s : State) (i b : Nat) : List Nat :=
  match s.image.waves[i]? with
  | some (some w) =>
    ((List.range 9).map (b + ·)).filter fun k =>
      w.unit * w.head < 4096 * (k + 1) && 4096 * k < w.unit * w.length && !s.image.pool.any fun e => e.1 = i && e.2.1 = k
  | _ => []

/-- The streams that lack a block: wave, position's block, blocks (R428). None do without a stream pool or a flash. -/
def streamsWanting (s : State) : List (Nat × Nat × List Nat) :=
  if s.image.strSize < 4096 ∨ ¬ s.flash.responds then []
  else (s.image.streams.filter fun e => samplePlays s e.1 e.2.1).filterMap fun (_, _, i, b) =>
    match blocksWanted s i b with
    | [] => none
    | ks => some (i, b, ks)

/-- The stream whose missing block has the earliest deadline, taken as the one the fewest blocks ahead of its position (R428, log 19). -/
def nextStream (s : State) : Option (Nat × Nat × List Nat) :=
  leastBy (fun e : Nat × Nat × List Nat => e.2.2.headD 0 - e.2.1) (streamsWanting s)

/-- A block of a streamed wave waits to be fetched: it goes ahead of stores and of direct access (R428, R437). -/
def streamDue (s : State) : Bool := !(streamsWanting s).isEmpty

/-- One 4 KiB block of a wave is read from the flash into the next place of the stream pool, in turn. -/
def fetchBlock (w : Nat) (x : Wave) (s : State) (b : Nat) : State :=
  let places := s.image.strSize / 4096
  let place := match s.image.pool.getLast? with | some e => (e.2.2 + 1) % places | none => 0
  let s := storeBytes s 3 (s.image.strBase + 4096 * place) (flashBytes s (x.dataOff + 4096 * b) 4096)
  { s with image := { s.image with pool := (s.image.pool.filter fun e => e.2.2 ≠ place) ++ [(w, b, place)] } }

/-- STREAM_FETCH: the flash port fetches the blocks that the most urgent stream lacks (R428). -/
def execStreamFetch (s : State) : Host.Outcome State Fault Refusal :=
  match nextStream s with
  | none => .next s
  | some (i, _, ks) => match s.image.waves[i]? with
    | some (some x) => .next (ks.foldl (fetchBlock i x) s)
    | _ => .next s

/-! ### Stores (R432, R435) -/

/-- SSTAT takes a result: DONE, and NVM in IRQSTAT where DONE rises (R32). -/
def storeResult (s : State) (r : Nat) : State :=
  let s := wrFld s R.nvmSstat 23 20 r
  if flag s R.nvmSstat 31 then s else raiseIrq (setFlag s R.nvmSstat 31) 10

/-- A store is refused (R435): logged with the kind, the result and E; the result of a host store stands in SSTAT. -/
def refuseStore (s : State) (kind r : Nat) (host : Bool) : State :=
  let s := if host then storeResult s r else s
  raiseGloss s 0x1310 (w32 kind) (w32 r) (w32 (match s.nvm.desc with | some d => holdupEnergy d s.power.vhold | none => 0))

/-- NVM.HOLDUP shows the check (R433). -/
def showHoldup (s : State) (d : StoreDesc) : State :=
  wr s R.nvmHoldup (w32 (s.power.vhold % 65536 + 65536 * min 0xFFFF (holdupEnergy d s.power.vhold / 16)))

/-- A store is asked for (R432 to R435). Under a warning every new store has the result LOWVIN, whatever runs (R449); DONE clears as a
host's store is taken, for the latest command has no result yet (R438). -/
def startStore (s : State) (kind : Nat) (payload : List Byte) (host : Bool) : State :=
  let lowVin := flag s R.pwrStat 5 && kind ≠ 0x11
  match lowVin, decide (s.nvm.op.isSome), s.nvm.desc with
  | true, _, _ => refuseStore s kind 2 host
  | _, true, _ => refuseStore s kind 1 host
  | _, _, none => refuseStore s kind 3 host
  | _, _, some d =>
    match slotPlace d kind 0 with
    | none => refuseStore s kind 3 host
    | some (_, size) =>
      if size < 32 + payload.length ∨ (kind < 0x10 ∧ 4096 < payload.length) then refuseStore s kind 4 host
      else
        let s := showHoldup s d
        if 2 * holdupEnergy d s.power.vhold < 3 * storeEnergy d payload.length then refuseStore s kind 5 host
        else
          let (slot, seq) := match newestRecord s kind with
            | some (k, q, _) => (1 - k, (q + 1) % 2 ^ 32)
            | none => (0, 1)
          let s := if host then clrFlag s R.nvmSstat 31 else s
          setFlag { s with nvm := { s.nvm with op := some (.store kind slot seq (recordBytes kind seq payload) host) } }
            R.nvmSstat 30

/-- The bytes of NVM.SBUF (R435). -/
def sbufBytes (s : State) (n : Nat) : List Byte :=
  ((List.range ((n + 3) / 4)).map fun i => leBytes 4 (rd s (R.nvmSbuf + 4 * i)).toNat).flatten.take n

/-- NVM.SBUF takes bytes from its start. -/
def fillSbuf (s : State) (bs : List Byte) : State :=
  (List.range ((bs.length + 3) / 4)).foldl (fun t i =>
    let old := leBytes 4 (rd t (R.nvmSbuf + 4 * i)).toNat
    let new := (bs.drop (4 * i)).take 4
    wr t (R.nvmSbuf + 4 * i) (w32 (leNat (new ++ old.drop new.length)))) s

/-- NVM.SBUF is closed: a host store has been accepted and has no result yet (R435). -/
def sbufClosed (s : State) : Bool := match s.nvm.op with | some (.store _ _ _ _ true) => true | _ => false

/-- The store under way ends: the record is programmed and read back; if it is valid the other slot is erased ahead, but on hold-up, where
the boot scan does it (R434), and if not its own slot is erased and the previous record stays newest (R432). -/
def finishStore (s : State) (kind slot seq : Nat) (record : List Byte) (host ahead : Bool) : State :=
  let s := { clrFlag s R.nvmSstat 30 with nvm := { s.nvm with op := none } }
  match s.nvm.desc with
  | none => s
  | some d =>
    match slotPlace d kind slot, slotPlace d kind (1 - slot) with
    | some (a, size), some (b, _) =>
      let s := flashProg s a record
      let good : Bool := match slotRecord s kind slot with | some (q, _) => q = seq | none => false
      let s := if !good then flashEraseRange s a size else if ahead then flashEraseRange s b size else s
      let s := if kind = 0x10 then { s with memint := { s.memint with unstored := !good } } else s
      let s := if kind = 0x11 then endStoring s else s
      if host then storeResult s (if good then 0 else 6) else s
    | _, _ => s

/-! ### The Gloss store (R472) -/

/-- The payload of a Gloss store: the pointers, AOTIME, and the 32,768 bytes of the entries, which the DMA engine reads. -/
def glossPayload (s : State) : State × List Byte :=
  let r := readBytes s 3 glossBase 4096
  (r.1, leBytes 2 s.gloss.kcount ++ leBytes 2 s.gloss.rhead ++ leBytes 1 (b2n s.gloss.wrap) ++ leBytes 3 0 ++
    leBytes 8 s.time.aoTime.toNat ++ leBytes 16 0 ++ r.2)

/-- Is a Gloss store wanted: FLASHEN, and a STORE descriptor entry for kind 0x11 (R472). -/
def glossStoreOn (s : State) : Bool :=
  flag s R.glossCtl 1 && (match s.nvm.desc with | some d => (slotPlace d 0x11 0).isSome | none => false)

/-- The Gloss store of a warning starts, or waits for the store that runs; there is at most one for each warning (R472). -/
def startGlossStore (s : State) : State :=
  if !glossStoreOn s || s.gloss.storedThisWarning then s
  else if s.nvm.op.isSome then onGloss s fun g => { g with storeWaits := true }
  else
    let r := glossPayload s
    let t := startStore r.1 0x11 r.2 false
    if t.nvm.op.isSome then onGloss t fun g => { g with storing := true, storedThisWarning := true, storeWaits := false }
    else onGloss t fun g => { g with storeWaits := false }

/-- A store has ended: a Gloss store that waits for it starts, provided WARN still holds (R472). -/
def afterStore (s : State) : State :=
  if !s.gloss.storeWaits then s
  else if flag s R.pwrStat 5 then startGlossStore (onGloss s fun g => { g with storeWaits := false })
  else onGloss s fun g => { g with storeWaits := false }

/-- A store's pages are programmed, its record read back and checked, and the other slot erased (R432), once no streamed block waits
(R428). -/
def storeCommit (s : State) : State :=
  match s.nvm.op with
  | some (.store kind slot seq record host) =>
    if s.power.vinLow || streamDue s then s else afterStore (finishStore s kind slot seq record host true)
  | none => s

/-! ### Direct access (R437) -/

/-- Does a range of the flash touch the store area. -/
def inStoreArea (s : State) (a n : Nat) : Bool :=
  match s.nvm.desc with
  | none => false
  | some d => a < d.base + (d.kinds.map fun e => 2 * 4096 * e.2).sum && d.base < a + n

/-- An operation on the flash at NVM.FADDR is refused where it is misaligned, in the store area, or while SBUF is closed, a store or
another operation runs (R437). -/
def flashRefused (s : State) (op : Nat) : Bool :=
  let a := (rd s R.nvmFaddr).toNat
  let size := if op = 3 then 4096 else 256
  a % size ≠ 0 || inStoreArea s a size || sbufClosed s || s.nvm.op.isSome || s.nvm.direct.isSome

/-- An operation on the flash starts: 1 READ, 2 PROGRAM, 3 ERASE (R437). -/
def startFlash (s : State) (op : Nat) : State :=
  { s with nvm := { s.nvm with direct := some (op, (rd s R.nvmFaddr).toNat) } }

/-- A direct operation is performed; an address beyond the capacity reads blank and is not written. -/
def finishFlash (s : State) (op a : Nat) : State :=
  let s := { s with nvm := { s.nvm with direct := none } }
  let s := match op with
    | 1 => fillSbuf s (flashBytes s a 256)
    | 2 => if a < flashSize s then flashProg s a (sbufBytes s 256) else s
    | _ => flashEraseRange s a 4096
  if flag s R.nvmFcmd 31 then s else raiseIrq (setFlag s R.nvmFcmd 31) 10

/-- FLASH_OPERATION_DONE: the direct operation under way completes, and DONE is set; it waits while a store runs or a
streamed block is wanted (R428, R437). -/
def execFlashOperationDone (s : State) : Host.Outcome State Fault Refusal :=
  match s.nvm.op, s.nvm.direct with
  | none, some (op, a) => .next (if streamDue s then s else finishFlash s op a)
  | _, _ => .next s

end Sys2Proof.Machine
end

