-- ==== Sys2Proof/Machine/Serial.lean ====
section
/-! DEFINITION. Start-stop serial ports (R321 to R345): the dividers and settings, the sampling grid and what is decided on it, received
characters and their errors, address marks and mute, transmission and the line it drives, flow control, collisions, flushes. The
environment says how the line moves; the port decides everything from that. -/

namespace Sys2Proof.Machine

/-- PD7 is on. -/
def portsOn (s : State) : Bool := domainOn s 7

/-- A field of SPn.CFG. -/
def spCfgF (s : State) (p hi lo : Nat) : Nat := fld s (spReg p 0) hi lo

/-- Single-wire half duplex (R336). -/
def singleWire (s : State) (p : Nat) : Bool := flag s (spReg p 0) 10

/-- Data bits of a character (R323). -/
def dataBits (s : State) (p : Nat) : Nat := 7 + min 2 (spCfgF s p 1 0)

/-- 1 where parity is used. -/
def parityBits (s : State) (p : Nat) : Nat := if spCfgF s p 3 2 = 0 then 0 else 1

/-! ### Dividers (R321) -/

/-- Quarters of a TCLK cycle in one source clock cycle: the reference, or four times it (R321). -/
def srcQuarters (baud : Word) : Nat := if bitOf baud 30 then 1 else 4

/-- OS of a setting. -/
def oversampling (baud : Word) : Nat := match bits baud 29 28 with | 0 => 16 | 1 => 8 | _ => 3

/-- D of a setting: the mean tick interval in 1/65,536 source clock cycles, DIVI and DIVF together (R321). -/
def divider (baud : Word) : Nat := bits baud 27 0

/-- The quarter of this instant. -/
def nowQuarter (s : State) : Nat := 4 * s.time.aoTime.toNat

/-- The instant of the k-th tick after a tick of the transmit divider, given with the accumulator at it. -/
def gridTick (baud : Word) (g : Nat × Nat) (k : Nat) : Nat := g.1 + srcQuarters baud * ((g.2 + k * divider baud) / 65536)

/-- How many ticks after a given tick of the transmit divider the first one at or after instant t comes. -/
def ticksUntil (baud : Word) (g : Nat × Nat) (t : Nat) : Nat :=
  let m := (t - g.1 + srcQuarters baud - 1) / srcQuarters baud
  (65536 * m - g.2 + divider baud - 1) / divider baud

/-- The first tick of the transmit divider at or after instant t, with the accumulator at it. -/
def gridFrom (baud : Word) (g : Nat × Nat) (t : Nat) : Nat × Nat :=
  let k := ticksUntil baud g t
  (gridTick baud g k, (g.2 + k * divider baud) % 65536)

/-! ### Settings (R322) -/

/-- SPn.BAUD without PEND. -/
def stagedBaud (s : State) (p : Nat) : Word := setBits (rd s (spReg p 4)) 31 31 0

/-- PEND: a side has still to apply the setting (R322). -/
def baudPending (s : State) (p : Nat) : Bool := (spOf s p).rxPend.isSome || (spOf s p).txPend

/-- The receiver applies the setting. -/
def applyRxBaud (s : State) (p : Nat) : State :=
  let b := stagedBaud s p
  onSp s p fun q => { q with rxBaud := b, rxPend := none }

/-- The transmitter applies the setting: its divider goes on from the tick at which the character in the shifter ends, or from its next
one, on the source clock of the new setting (R322; log 123). -/
def applyTxBaud (s : State) (p : Nat) : State :=
  let b := stagedBaud s p
  let now := nowQuarter s
  onSp s p fun q =>
    let g := gridFrom q.txBaud q.txGrid (match q.txBusy with | some t => t.toNat | none => now)
    let c := srcQuarters b
    { q with txBaud := b, txPend := false, txGrid := ((g.1 + c - 1) / c * c, g.2) }

/-- The receiver is idle or disabled. -/
def rxIdle (s : State) (p : Nat) : Bool := (spOf s p).rxBusy.isNone || !flag s (spReg p 8) 0

/-- The transmitter is idle: no character, or its last stop bit ends within this cycle. -/
def txIdle (s : State) (p : Nat) : Bool :=
  match (spOf s p).txBusy with | none => true | some t => t.toNat < nowQuarter s + 4

/-- What a write to SPn.BAUD does beyond its fields (R322): the setting is pending on both sides. A disabled receiver applies it at once, an
idle one by the end of the cycle, so that a start edge in the cycle of the write keeps the old setting; an idle transmitter at its next
source clock cycle. -/
def afterBaud (s : State) (p : Nat) : State :=
  let now := s.time.aoTime
  let s := onSp s p fun q => { q with rxPend := some now, txPend := true }
  if flag s (spReg p 8) 0 then s else applyRxBaud s p

/-- BAUD_APPLY: one side reaches the point at which it applies a staged setting: the transmitter at a character boundary, the
receiver while idle (R322). -/
def execBaudApply (p : Fin 8) (transmit : Bool) (s : State) : Host.Outcome State Fault Refusal :=
  if transmit then (if txIdle s p ∨ ¬ flag s (spReg p 8) 1 then .next (applyTxBaud s p) else .next s)
  else if rxIdle s p then .next (applyRxBaud s p) else .next s

/-! ### The sampling grid (R325, R326, Table 1)

Instants are source clock cycles from the start edge. A grid is the instant of its anchoring edge and the bit that edge anchors. -/

/-- The j-th tick of the receive divider from an anchor: it restarts there with acc = 0 (R321). -/
def rxTick (baud : Word) (j : Nat) : Nat := j * divider baud / 65536

/-- Sample s of bit k; at 3× the first interval is half as long (R325). -/
def sampleAt (baud : Word) (g : Nat × Nat) (k i : Nat) : Nat :=
  let j := (k - g.2) * oversampling baud + i
  if oversampling baud = 3 then g.1 + rxTick baud 1 / 2 + (rxTick baud (j + 1) - rxTick baud 1) else g.1 + rxTick baud j

/-- The start of the window of bit k. -/
def windowAt (baud : Word) (g : Nat × Nat) (k : Nat) : Nat := g.1 + rxTick baud ((k - g.2) * oversampling baud)

/-- The first, mid and deciding samples of a bit (Table 1). -/
def bitSamples (baud : Word) (edgeMode : Bool) : Nat × Nat × Nat :=
  match oversampling baud, edgeMode with
  | 16, true => (7, 8, 9)
  | 16, false => (8, 8, 8)
  | 8, true => (3, 4, 5)
  | 8, false => (4, 4, 4)
  | _, _ => (1, 1, 1)

/-- The mid sample of bit k. -/
def midAt (baud : Word) (g : Nat × Nat) (k : Nat) : Nat := sampleAt baud g k (bitSamples baud true).2.1

/-- The instant at which bit k is decided. -/
def decidedAt (baud : Word) (edgeMode : Bool) (g : Nat × Nat) (k : Nat) : Nat := sampleAt baud g k (bitSamples baud edgeMode).2.2

/-- The middle of the window of bit k, d = OS / 2 ticks into it. -/
def halfAt (baud : Word) (g : Nat × Nat) (k : Nat) : Nat :=
  if oversampling baud = 3 then sampleAt baud g k 1 else g.1 + rxTick baud ((k - g.2) * oversampling baud + oversampling baud / 2)

/-- The line after a start edge: the instants at which it changes, the first one a rise. Its level at an instant, an edge there included. -/
def levelAt (line : List Nat) (t : Nat) : Bool := decide ((line.filter (· ≤ t)).length % 2 = 1)

/-- The falling edges of a line after the start edge. -/
def fallsOf : List Nat → List Nat
  | _ :: f :: rest => f :: fallsOf rest
  | _ => []

/-- A bit's decision and whether its samples disagree (R325, Table 1; with pulse shaping a bit is 0 where an edge was latched in its window
by the mid sample, R340). -/
def decideBit (baud : Word) (edgeMode rz : Bool) (line : List Nat) (g : Nat × Nat) (k : Nat) : Bool × Bool :=
  if rz then (!((0 :: fallsOf line).any fun e => windowAt baud g k ≤ e && e ≤ midAt baud g k), false)
  else
    let (a, m, z) := bitSamples baud edgeMode
    let n := ([a, m, z].filter fun i => levelAt line (sampleAt baud g k i)).length
    (decide (2 ≤ n), n ≠ 0 && n ≠ 3)

/-- Falling edges in the first half of the window of bit k re-anchor it, one after the other (R326). -/
def anchorBit (baud : Word) (k : Nat) : List Nat → Nat × Nat → (Nat × Nat) × List Nat
  | [], g => (g, [])
  | e :: es, g => if e < halfAt baud g k then anchorBit baud k es (e, k) else (g, e :: es)

/-- A falling edge later in the window of bit k anchors bit k + 1 (R326). -/
def anchorNext (baud : Word) (k : Nat) (g : Nat × Nat) : List Nat → (Nat × Nat) × List Nat
  | e :: es => if e < windowAt baud g (k + 1) then ((e, k + 1), es) else (g, e :: es)
  | [] => (g, [])

/-- The decisions of n bits from bit k on, and the grid and the falling edges that are left for the bit after them. With RXMODE = MID the
grid keeps its anchor; the edges by the decision of bit 0 do not count (R326). -/
def readBits (baud : Word) (edgeMode rz : Bool) (line : List Nat) :
    Nat → Nat → Nat × Nat → List Nat → List (Bool × Bool) × (Nat × Nat) × List Nat
  | 0, _, g, es => ([], g, es)
  | n + 1, k, g, es =>
    let (g, es) := if edgeMode && k ≠ 0 then anchorBit baud k es g else (g, es)
    let d := decideBit baud edgeMode rz line g k
    let es := if k = 0 then es.filter fun e => decidedAt baud edgeMode g 0 < e else es
    let (h, es) := if edgeMode then anchorNext baud k g es else (g, es)
    let r := readBits baud edgeMode rz line n (k + 1) h es
    (d :: r.1, r.2)

/-- What the receiver makes of a line: the decisions of the bits before the stop bit, the stop bit, whether its samples disagree, the
instant of the last decision, the start edge of the next character that fell within the stop bit (R325 to R328, R340). -/
structure Received where
  bits : List (Bool × Bool)
  stop : Bool
  noise : Bool
  done : Nat
  next : Option Nat

/-- A character with n bits before its stop bit is read (R325 to R328): an edge from the start of the stop bit's window on starts the next
character, and at or before the stop bit's mid-point makes it read 0. -/
def readCharacter (baud : Word) (edgeMode rz : Bool) (n : Nat) (line : List Nat) : Received :=
  let (bs, g, es) := readBits baud edgeMode rz line n 0 (0, 0) (fallsOf line)
  let d := decideBit baud edgeMode rz line g n
  let done := decidedAt baud edgeMode g n
  let next := es.find? fun e => windowAt baud g n ≤ e && e ≤ done
  let cut := match next with | some e => decide (e ≤ midAt baud g n) | none => false
  { bits := bs, stop := d.1 && !cut, noise := d.2, done, next }

/-! ### Receiving (R324 to R332, R339, R340) -/

/-- The low 32 bits of a start edge: the arrival time of an entry (R324). -/
def RxEntry.time (e : RxEntry) : Word := e.start.setWidth 32

/-- A start edge: the receiver applies a setting that was written before its cycle, and receives the character (R322, R324). -/
def beginReceive (s : State) (p : Nat) (at' : DWord) : State :=
  let s := match (spOf s p).rxPend with
    | some w => if w.toNat < at'.toNat / 4 then applyRxBaud s p else s
    | none => s
  onSp s p fun x => { x with rxBusy := some at' }

/-- START_EDGE: the start detector sees a falling edge while the receiver is idle: it starts a character. quarter is the edge's place in
its TCLK cycle, 0 with SRC = 0 (R324). An edge within a character is part of the line that CHARACTER_RECEIVED reads. -/
def execStartEdge (p : Fin 8) (quarter : BitVec 2) (s : State) : Host.Outcome State Fault Refusal :=
  if !portsOn s || !flag s (spReg p 8) 0 || (spOf s p).rxBusy.isSome then .next s
  else
    let b := match (spOf s p).rxPend with
      | some w => if w.toNat < s.time.aoTime.toNat then stagedBaud s p else (spOf s p).rxBaud
      | none => (spOf s p).rxBaud
    .next (beginReceive s p (w64 (nowQuarter s + (if bitOf b 30 then quarter.toNat else 0))))

/-- Does an address character match (R331). -/
def addressMatch (s : State) (p data : Nat) : Bool :=
  let a := rd s (spReg p 0x10)
  (data % 256 ^^^ bits a 7 0) &&& bits a 15 8 = 0 || (bitOf a 24 && data % 256 = bits a 23 16)

/-- A character finds the receive queue full (R330). -/
def overrun (s : State) (p : Nat) (time : Word) : State :=
  let first := !flag s (spReg p 0x1C) 0
  let s := countUp (setFlag s (spReg p 0x1C) 0) (spReg p 0x40)
  let s := onSp s p fun q => { q with loss := true }
  if first then raiseGloss s 0x5200 (w32 p) (rd s (spReg p 0x40)) time else s

/-- A character enters the queue, with its status (R329, Table 3). One that completes in the cycle of a flush is lost (R342). -/
def queueRx (s : State) (p : Nat) (e : RxEntry) : State :=
  if (spOf s p).flushed = some s.time.aoTime then onSp s p fun q => { q with loss := true }
  else if 128 ≤ (spOf s p).rxq.length then overrun s p e.time
  else
    let e := { e with loss := (spOf s p).loss }
    let st := spReg p 0x1C
    let s := if e.fe then countUp (setFlag s st 1) (spReg p 0x44) else s
    let s := if e.pe then countUp (setFlag s st 2) (spReg p 0x48) else s
    let s := if e.nf then setFlag s st 3 else s
    let s := if e.brk then setFlag s st 4 else s
    rtsFollow (onSp s p fun q => { q with rxq := q.rxq ++ [e], loss := false }) p

/-- A character of the port's own that is not to be queued (R339). -/
def ownDropped (s : State) (p : Nat) : Bool := singleWire s p && (spOf s p).own && !flag s (spReg p 0) 14

/-- A completed character: an address character, which sets or clears mute, a muted one, an own one, or one for the queue (R329 to R332,
R339). -/
def completeCharacter (s : State) (p : Nat) (e : RxEntry) : State :=
  if flag s (spReg p 0) 13 && decide (256 ≤ e.data.toNat) then
    let hit := addressMatch s p e.data.toNat && !e.fe && !e.pe
    let s := onSp s p fun q => { q with muted := !hit }
    if hit && flag s (spReg p 0x10) 25 && !ownDropped s p then queueRx s p { e with addr := true } else s
  else if (spOf s p).muted || ownDropped s p then s
  else queueRx s p e

/-- The entry that the decisions of a character make (R323, R329, Table 3). -/
def entryOfBits (s : State) (p : Nat) (start : DWord) (r : Received) : RxEntry :=
  let one := fun i => (nth r.bits i (true, false)).1
  let nd := dataBits s p
  let np := parityBits s p
  let ones := ((List.range (nd + np)).filter fun i => one (1 + i)).length
  { data := BitVec.ofNat 9 ((List.range nd).foldl (fun d i => d + b2n (one (1 + i)) * 2 ^ i) 0),
    fe := !r.stop, pe := decide (np = 1) && decide (ones % 2 ≠ (if spCfgF s p 3 2 = 1 then 0 else 1)),
    nf := r.bits.any (·.2) || r.noise, brk := !r.stop && decide (ones = 0), addr := false, loss := false,
    start, baud := (spOf s p).rxBaud, nbits := 1 + nd + np }

/-- The receiver goes idle, or on to the character whose start edge fell within the stop bit; a setting written before the cycle of that
edge takes effect there (R322, R328). -/
def nextCharacter (s : State) (p : Nat) (next : Option DWord) : State :=
  let s := onSp s p fun q => { q with rxBusy := next, own := false, echo := none }
  match next, (spOf s p).rxPend with
  | some e, some w => if w.toNat < e.toNat / 4 then applyRxBaud s p else s
  | none, some _ => applyRxBaud s p
  | _, none => s

/-- What the receiver makes of the line since the start edge of the character it receives (R325 to R328, R340). -/
def receivedOf (s : State) (p : Nat) (line : List Nat) : Received :=
  readCharacter (spOf s p).rxBaud (!flag s (spReg p 0) 8) (spCfgF s p 12 11 ≠ 0) (1 + dataBits s p + parityBits s p) line

/-- The instant, in quarters, that lies n source clock cycles after the start edge. -/
def afterStart (s : State) (p : Nat) (start : DWord) (n : Nat) : DWord := start + w64 (srcQuarters (spOf s p).rxBaud * n)

/-- From which instant the line is high: its latest rise, or where it is low at the decision its next one; none where it does not rise
(R328, R337). -/
def highFrom (line : List Nat) (done : Nat) : Option Nat :=
  if levelAt line done then (line.filter (· ≤ done)).getLast? else (line.filter (done < ·)).head?

/-- What the line is known to do after a character: high from an instant on, or low (R337). -/
def lineAfter (q : SpSt) (high : Option DWord) : SpSt := { q with lineFrom := high.getD q.lineFrom, lineLow := high.isNone }

/-- CHARACTER_RECEIVED: the character being received has been decided. line says how the line moved from its start edge on: the source clock
cycles at which it rose and fell in turn. A start bit decided 1 is a false start. Before the deciding instant has come nothing happens
(R325 to R332, R339, R340). -/
def execCharacterReceived (p : Fin 8) (line : List Nat) (s : State) : Host.Outcome State Fault Refusal :=
  match (spOf s p).rxBusy with
  | none => .next s
  | some start =>
    let r := receivedOf s p line
    let baud := (spOf s p).rxBaud
    let falseStart := (nth r.bits 0 (true, false)).1
    let done := if falseStart then decidedAt baud (!flag s (spReg p 0) 8) (0, 0) 0 else r.done
    if nowQuarter s + 4 ≤ (afterStart s p start done).toNat then .next s
    else
      let high := (highFrom line done).map (afterStart s p start)
      if falseStart then
        .next (nextCharacter (onSp (setFlag s (spReg p 0x1C) 5) p fun q => lineAfter q high) p none)
      else
        let next := r.next.map (afterStart s p start)
        let s := completeCharacter s p (entryOfBits s p start r)
        .next (nextCharacter (onSp s p fun q => lineAfter q high) p next)

/-! ### Transmitting (R333 to R340) -/

/-- Bits of a character as sent, start and stop bits included (R323). -/
def sentBits (s : State) (p data : Nat) : List Bool :=
  let nd := dataBits s p
  let bs := (List.range nd).map fun i => decide (data / 2 ^ i % 2 = 1)
  let ones := (bs.filter id).length
  let par := if spCfgF s p 3 2 = 0 then [] else [decide (ones % 2 = (if spCfgF s p 3 2 = 1 then 1 else 0))]
  (false :: bs) ++ par ++ List.replicate (1 + spCfgF s p 4 4) true

/-- The length of a 0 bit's pulse in quarters of a TCLK cycle (R340): 3/16 or 1/4 of a bit, rounded to source clock cycles. -/
def pulseQuarters (s : State) (p : Nat) (baud : Word) : Nat :=
  let w := if spCfgF s p 12 11 = 1 then 3 else 4
  srcQuarters baud * (rne ((w * oversampling baud * divider baud : Nat) : Int) (16 * 65536)).toNat

/-- The levels of the line while bits are sent from a tick on: each lasts OS ticks, and with pulse shaping a 0 is a low pulse at its start;
the line is high again after the last (R323, R333, R340). -/
def lineOf (s : State) (p : Nat) (baud : Word) (g : Nat × Nat) (bs : List Bool) : List (Nat × Bool) :=
  let at' := fun i : Nat => gridTick baud g (i * oversampling baud)
  let bit := fun (i : Nat) (b : Bool) =>
    if spCfgF s p 12 11 = 0 then [(at' i, b)]
    else if b then [(at' i, true)] else [(at' i, false), (at' i + pulseQuarters s p baud, true)]
  (((List.range bs.length).zip bs).map fun (i, b) => bit i b).flatten ++ [(at' bs.length, true)]

/-- The level of ball SPnTX at an instant: the line's, high while nothing is sent, inverted at the pad where INV is 1 (R323). -/
def txBall (s : State) (p t : Nat) : Bool :=
  let l := match ((spOf s p).line.filter fun e => e.1 ≤ t).getLast? with | some e => e.2 | none => true
  l != flag s (spReg p 0) 9

/-- How many bit times the line must have been high in single-wire mode: one, or after the r-th collision 11 + BACKOFF × r (R337, R338). -/
def highBits (s : State) (p : Nat) : Nat :=
  if (spOf s p).colls = 0 then 1 else (spOf s p).backoff

/-- The instant from which the line allows a character: in single-wire mode once it has been high for long enough (R337, R338). -/
def lineFree (s : State) (p : Nat) : Nat :=
  if !singleWire s p then 0
  else
    let b := (spOf s p).txBaud
    (spOf s p).lineFrom.toNat + srcQuarters b * ((highBits s p * oversampling b * divider b + 65535) / 65536)

/-- The transmit tick at which the character at the head starts, the first at which the conditions hold (R333): the transmitter is free, and
the line. -/
def startTick (s : State) (p : Nat) : Nat × Nat :=
  let q := spOf s p
  let free := match q.txBusy with | some t => t.toNat | none => 0
  gridFrom q.txBaud q.txGrid (max (max (nowQuarter s) free) (lineFree s p))

/-- A stamp's instant lies at or before an instant in quarters of a TCLK cycle (R231). -/
def stampReached (s : State) (t : DWord) (quarter : Nat) : Bool :=
  decide (4 * (tclkPerSample s : Int) * t.toInt ≤ 256 * ((quarter : Int) - 4 * s.time.epoch.toNat))

/-- The tick at which the character at the head would start lies in this TCLK cycle, and its time has come by then (R231, R333). -/
def tickHere (s : State) (p : Nat) : Bool :=
  let t := (startTick s p).1
  decide (t < nowQuarter s + 4) &&
    match (spOf s p).txq with
    | [] => false
    | e :: _ => match e.notBefore with
      | none => true
      | some b => stampReached s b t

/-- CTS allows a character (R334). -/
def ctsAllows (s : State) (p : Nat) : Bool := !flag s (spReg p 8) 5 || Config.ctsLevel p s.time.aoTime.toNat

/-- In single-wire mode the receiver is idle and the line is not low (R337). -/
def wireIdle (s : State) (p : Nat) : Bool := !singleWire s p || ((spOf s p).rxBusy.isNone && !(spOf s p).lineLow)

/-- A character may start: TXEN, an entry, no character in the shifter, a transmit tick in this cycle, CTS, the line (R231, R333, R334,
R337). -/
def txReady (s : State) (p : Nat) : Bool :=
  portsOn s && flag s (spReg p 8) 1 && txIdle s p && wireIdle s p && tickHere s p && ctsAllows s p

/-- The port hears what it sends: in single-wire mode, with the receiver enabled (R336). -/
def hearsItself (s : State) (p : Nat) : Bool := singleWire s p && flag s (spReg p 8) 0

/-- The first bit in which what the receiver read of the character differs from what was sent (R338); with pulse shaping only a pulse in a
bit sent as 1 does (R340). A receiver that is disabled decides nothing (DEDUCED, log 155). -/
def collisionBit (s : State) (p data : Nat) (echo : List Bool) : Option Nat :=
  if !hearsItself s p then none
  else
    let bs := (sentBits s p data).zip echo
    (List.range bs.length).find? fun i =>
      let b := nth bs i (true, true)
      if spCfgF s p 12 11 = 0 then b.1 ≠ b.2 else b.1 && !b.2

/-- A collision on the character at the head (R338): the line is released at the tick after the decision of bit i; the character stays for
another try, or after the last retry is abandoned. -/
def collision (s : State) (p data i : Nat) (g : Nat × Nat) : State :=
  let b := (spOf s p).txBaud
  let k := i * oversampling b + (bitSamples b (!flag s (spReg p 0) 8)).2.2
  let seen := w64 (gridTick b g k)
  let free := gridTick b g (k + 1)
  let sent := (lineOf s p b g ((sentBits s p data).take (i + 1))).filter fun e => e.1 < free
  let n := (spOf s p).colls + 1
  let wait := 11 + fld s (spReg p 0x14) 7 0 * n
  let s := countUp (setFlag s (spReg p 0x1C) 6) (spReg p 0x4C)
  let s := onSp s p fun q => { q with txGrid := g, txBusy := some (w64 free), line := sent ++ [(free, true)],
                                      lineFrom := if q.lineFrom.toNat < seen.toNat then seen else q.lineFrom }
  if fld s (spReg p 0x14) 11 8 < n then
    let s := setFlag (onSp s p fun q => { q with colls := 0, txq := q.txq.drop 1 }) (spReg p 0x1C) 7
    raiseGloss s 0x5210 (w32 p) (w32 data) (w32 n)
  else onSp s p fun q => { q with colls := n, backoff := wait }

/-- The instants, in source clock cycles from its start edge, at which a line that is sent changes, the first one a rise. -/
def edgesOf (baud : Word) (start : Nat) (line : List (Nat × Bool)) : List Nat :=
  (line.foldl (fun (acc : Bool × List Nat) e => if e.2 = acc.1 then acc else (e.2, acc.2 ++ [(e.1 - start) / srcQuarters baud]))
    (false, [])).2

/-- What the receiver makes of the port's own character, whose start edge it has seen (R336, R339). -/
def ownEcho (s : State) (p : Nat) (start : DWord) (line : List (Nat × Bool)) : RxEntry × DWord × DWord :=
  let es := edgesOf (spOf s p).rxBaud start.toNat line
  let r := receivedOf s p es
  (entryOfBits s p start r, afterStart s p start r.done, afterStart s p start ((highFrom es r.done).getD r.done))

/-- The character at the head is sent from its tick on, or collides; in single-wire mode the receiver follows it from its start edge on
(R333, R336, R338, R339). -/
def sendHead (s : State) (p : Nat) (echo : List Bool) : State :=
  match (spOf s p).txq with
  | [] => s
  | e :: _ =>
    let data := e.char.toNat
    let g := startTick s p
    let start := w64 g.1
    let hears := hearsItself s p
    match collisionBit s p data echo with
    | some i => beginReceive (collision s p data i g) p start
    | none =>
      let bs := sentBits s p data
      let b := (spOf s p).txBaud
      let line := lineOf s p b g bs
      let done := w64 (gridTick b g (bs.length * oversampling b))
      let s := onSp s p fun q => { q with txq := q.txq.drop 1, txBusy := some done, txGrid := g, line, colls := 0 }
      if !hears then s
      else
        let s := beginReceive s p start
        let heard := ownEcho s p start line
        onSp s p fun q => { q with own := true, echo := some heard }

/-- A transmitter that idles has applied a staged setting before its next character (R322). -/
def readyBaud (s : State) (p : Nat) : State := if (spOf s p).txPend then applyTxBaud s p else s

/-- A character is sent where its conditions hold at a transmit tick of this cycle; with CTSEN the tick samples CTS (R333, R334). -/
def trySend (s : State) (p : Nat) (echo : List Bool) : State :=
  let t := readyBaud s p
  if !txReady t p then s
  else sendHead (if flag t (spReg p 8) 5 then onSp t p fun q => { q with cts := true } else t) p echo

/-- CHARACTER_TRANSMIT: a queued character starts at a transmit tick; echo is what the receiver decides of its bits in
single-wire mode (R333, R334, R337, R338). -/
def execCharacterTransmit (p : Fin 8) (echo : List Bool) (s : State) : Host.Outcome State Fault Refusal :=
  if (spOf s p).colls = 0 then .next (trySend s p echo) else .next s

/-- COLLISION_RETRY: after the back-off the character that collided is sent again (R338). -/
def execCollisionRetry (p : Fin 8) (echo : List Bool) (s : State) : Host.Outcome State Fault Refusal :=
  if (spOf s p).colls ≠ 0 then .next (trySend s p echo) else .next s

/-- The transmitter's character has ended, or it idles: a staged setting is applied (R322). -/
def txEnd (s : State) (p : Nat) : State :=
  if !txIdle s p then s
  else
    let s := if (spOf s p).txPend then applyTxBaud s p else s
    match (spOf s p).txBusy with
    | some t => onSp s p fun q => { q with txGrid := gridFrom q.txBaud q.txGrid t.toNat, txBusy := none }
    | none => s

/-- An idle receiver applies a staged setting (R322). -/
def rxApply (s : State) (p : Nat) : State := if (spOf s p).rxPend.isSome && rxIdle s p then applyRxBaud s p else s

/-- The receiver has decided the stop bit of the port's own character (R336, R339). -/
def echoEnd (s : State) (p : Nat) : State :=
  match (spOf s p).echo with
  | none => s
  | some (e, done, high) =>
    if nowQuarter s + 4 ≤ done.toNat then s
    else nextCharacter (onSp (completeCharacter s p e) p fun q => lineAfter q (some high)) p none

/-- STAT.CTS takes the level of the ball at every transmit tick (R334). -/
def ctsTick (s : State) (p : Nat) : State :=
  let q := spOf s p
  if portsOn s ∧ (gridFrom q.txBaud q.txGrid (nowQuarter s)).1 < nowQuarter s + 4 then
    let level := Config.ctsLevel p s.time.aoTime.toNat
    onSp s p fun q => { q with cts := level }
  else s

/-- What a port does in one TCLK cycle. -/
def serialTick (s : State) (p : Nat) : State := ctsTick (rxApply (echoEnd (txEnd s p) p) p) p

/-! ### Enables and commands (R335, R342) -/

/-- What a write to SPn.CTL does beyond its fields, given the value before (R335, R342). -/
def afterSpCtl (s : State) (p : Nat) (old : Word) : State :=
  let now := rd s (spReg p 8)
  let s := if !bitOf old 0 && bitOf now 0 then onSp s p fun q => { q with rxBusy := none, own := false, echo := none }
    else if bitOf old 0 && !bitOf now 0 then
      applyRxBaud (onSp s p fun q => { q with rxBusy := none, own := false, echo := none, loss := q.loss || q.rxBusy.isSome }) p
    else s
  if !bitOf old 4 && bitOf now 4 then
    let below := decide ((spOf s p).rxq.length < fld s (spReg p 0xC) 7 0)
    onSp s p fun q => { q with rts := below }
  else s

/-- The receive queue is emptied (R342). -/
def rxFlush (s : State) (p : Nat) : State :=
  let now := s.time.aoTime
  rtsFollow (onSp s p fun q => { q with rxq := [], loss := true, flushed := some now }) p

/-- The transmit queue is emptied; a character in the shifter finishes (R342). -/
def txFlush (s : State) (p : Nat) : State := onSp s p fun q => { q with txq := [], colls := 0 }

/-- Mute is set (R332). -/
def setMute (s : State) (p : Nat) : State := onSp s p fun q => { q with muted := true }

/-- A write to SPn.CMD: the flushes before MUTE (R342). -/
def writeSpCmd (s : State) (p : Nat) (v : Word) : State :=
  let s := if bitOf v 0 then rxFlush s p else s
  let s := if bitOf v 1 then txFlush s p else s
  if bitOf v 2 then setMute s p else s

/-- What a write to SPn.CFG does beyond its fields: mute follows ADDREN (R332). -/
def afterSpCfg (s : State) (p : Nat) (old : Word) : State :=
  let now := flag s (spReg p 0) 13
  if bitOf old 13 = now then s else onSp s p fun q => { q with muted := now }

/-- A write to SPn.TXD (R333, R345): ignored, with TXOVR, unless the host writes the queue and it has room. -/
def writeTxd (s : State) (p : Nat) (v : Word) : State :=
  match spPut s p 1 [BitVec.ofNat 9 v.toNat] none with
  | some t => t
  | none => setFlag s (spReg p 0x1C) 8

/-- What SPn.RXD reads of an entry (Table 10). -/
def rxdWord (e : RxEntry) : Word :=
  w32 (2 ^ 15 + b2n e.loss * 2 ^ 14 + b2n e.addr * 2 ^ 13 + b2n e.brk * 2 ^ 12 + b2n e.nf * 2 ^ 11 + b2n e.pe * 2 ^ 10 +
    b2n e.fe * 2 ^ 9 + e.data.toNat)

/-- A read of SPn.RXD removes an entry where the host reads the queue (R345). -/
def readRxd (s : State) (p : Nat) : State × Word :=
  match (spOf s p).rxq with
  | [] => (s, 0)
  | e :: rest =>
    if !flag s (spReg p 0) 16 then (s, 0)
    else
      let s := rtsFollow (onSp s p fun q => { q with rxq := rest }) p
      (wr s (spReg p 0x34) e.time, rxdWord e)

/-! ### Status (R344, R345) -/

/-- RTS is asserted: by the thresholds, or where RTSEN is 0 by the level RTSLVL drives (low is asserted, R335). -/
def rtsAsserted (s : State) (p : Nat) : Bool := if flag s (spReg p 8) 4 then (spOf s p).rts else !flag s (spReg p 8) 6

/-- RXREQ (R344). -/
def rxReq (s : State) (p : Nat) : Bool := fld s (spReg p 0xC) 22 16 ≤ (spOf s p).rxq.length

/-- TXREQ (R344). -/
def txReq (s : State) (p : Nat) : Bool := fld s (spReg p 0xC) 30 24 + (spOf s p).txq.length ≤ 128

/-- Port p's bit of SYS.IRQSTAT (R344). -/
def spRequest (s : State) (p : Nat) : Bool :=
  let e := rd s (spReg p 0x24)
  (bitOf e 0 && rxReq s p) || (bitOf e 1 && txReq s p) || (bitOf e 2 && fld s (spReg p 0x1C) 8 0 ≠ 0)

/-- SPn.STAT as it reads (Table 9). -/
def spStat (s : State) (p : Nat) : Word :=
  let q := spOf s p
  w32 (fld s (spReg p 0x1C) 8 0 + b2n q.muted * 2 ^ 16 + b2n q.rxBusy.isSome * 2 ^ 17 + b2n (!txIdle s p) * 2 ^ 18 +
    b2n q.cts * 2 ^ 19 + b2n (rtsAsserted s p) * 2 ^ 20 + b2n (rxReq s p) * 2 ^ 21 + b2n (txReq s p) * 2 ^ 22)

/-- SPn.LEVEL as it reads. -/
def spLevelWord (s : State) (p : Nat) : Word := w32 ((spOf s p).rxq.length + (spOf s p).txq.length * 65536)

/-! ### Native packets (R341) -/

/-- One character of a native source: a marked one begins a packet, an unmarked one goes on with it or is stray (R341). A discard names
the first byte of what it discards (R232). -/
def nativeChar (ps : ParseSt) (c : BitVec 9) (err : Bool) : Parsed :=
  let first := (ps.native.headD c).toNat % 256
  if err then { ps := { ps with native := [] }, bads := [(first, 3)] }
  else if 256 ≤ c.toNat then
    { ps := { ps with native := [c], stray := false }, bads := if ps.native = [] then [] else [(first, 2)] }
  else if ps.native = [] then { ps := { ps with stray := true }, bads := if ps.stray then [] else [(first, 1)] }
  else
    let cs := ps.native ++ [c]
    if cs.length < 16 then { ps := { ps with native := cs } }
    else { ps := { ps with native := [] }, evs := [pktOfBytes (cs.map fun x => BitVec.ofNat 8 x.toNat)] }

/-- NATIVE_PACKET_CHARACTER: the fabric takes a character of a native source, which needs 9 data bits and ADDREN = 0 for a
mark (R341). -/
def execNativePacketCharacter (src : Fin 8) (s : State) : Host.Outcome State Fault Refusal :=
  match headRx s src 2 with
  | none => .next s
  | some e =>
    let c := if dataBits s src = 9 ∧ ¬ flag s (spReg src 0) 13 then e.data else e.data &&& 0xFF
    .next (applyParsed (takeRx s src) src (nativeChar (parseOf s src) c e.portError))

end Sys2Proof.Machine
end

