-- ==== Sys2Proof/Machine/Timers.lean ====
section
/-! DEFINITION. The timers (R250 to R260): one tick of a channel, its causes, balls, events and captures, and the clock
switch-over. A command of a timer row is the tick of that channel at which the row's event happens; on the empty queue every
channel ticks (log 1). -/

namespace Sys2Proof.Machine

/-- Timer channel n. -/
def timerOf (s : State) (n : Nat) : TimerSt := nth s.timers n {}

/-- Timer channel n changes. -/
def onTimer (s : State) (n : Nat) (f : TimerSt → TimerSt) : State := { s with timers := s.timers.modify n f }

/-- The address of register r of channel n. -/
def timerReg (n r : Nat) : Nat := 0x40061000 + 0x40 * n + r

/-- TENSE.TnCTL field. -/
def timerCtl (s : State) (n hi lo : Nat) : Nat := fld s (timerReg n 0) hi lo

/-- The synchronised level of an input: TP0 to TP7, WAKE or SYNC by the code of CSEL (R252, R256). A ball set to output is at the level
that it had two TCLK cycles ago, which its synchroniser shows; an edge on an input comes synchronised with its command (log 56). -/
def pinLevel (s : State) (code : Nat) : Bool :=
  if 1 ≤ code ∧ code ≤ 8 then
    if flag s R.tenseTpctl (code - 1) then s.pins.ballB.getLsbD (code - 1) else flag s R.tenseTpctl (16 + (code - 1))
  else if code = 9 then s.pins.wake
  else if code = 10 then s.pins.sync
  else false

/-- The levels of the timer balls: of an output what TPCTL.OUT gives, of an input its own. -/
def ballLevels (s : State) : BitVec 8 :=
  let dir := BitVec.ofNat 8 (fld s R.tenseTpctl 7 0)
  (dir &&& BitVec.ofNat 8 (fld s R.tenseTpctl 15 8)) ||| (~~~dir &&& BitVec.ofNat 8 (fld s R.tenseTpctl 23 16))

/-- The synchroniser of the balls takes one TCLK cycle (R252). -/
def syncBalls (s : State) : State := { s with pins := { s.pins with ballA := ballLevels s, ballB := s.pins.ballA } }

/-- An input's synchronised level changes. -/
def setPin (s : State) (code : Nat) (v : Bool) : State :=
  if 1 ≤ code ∧ code ≤ 8 then wrFld s R.tenseTpctl (16 + (code - 1)) (16 + (code - 1)) (b2n v)
  else if code = 9 then { s with pins := { s.pins with wake := v } }
  else if code = 10 then { s with pins := { s.pins with sync := v } }
  else s

/-- A channel ticks: it is released and its gate condition holds (R250, R252). -/
def timerTicks (s : State) (n : Nat) : Bool :=
  (timerOf s n).released && (timerCtl s n 3 0 = 0 || pinLevel s (timerCtl s n 3 0) = flag s (timerReg n 0) 4)

/-! ### A tick (R250, R253 to R255) -/

/-- Causes of a tick: compare A, compare B, period end, truncated, wrap. -/
structure Causes where
  a : Bool := false
  b : Bool := false
  p : Bool := false
  t : Bool := false
  w : Bool := false
  deriving DecidableEq, Repr

/-- One count of a channel with its period and compares: the count and lap after it, and its causes. -/
def countOnce (per a b : Word) (c : Word × BitVec 16) : (Word × BitVec 16) × Causes :=
  let pend := per ≠ 0 && decide (per.toNat ≤ c.1.toNat)
  let wrap := c.1 = 0xFFFFFFFF
  let next : Word := if pend || wrap then 0 else c.1 + 1
  ((next, if pend || wrap then c.2 + 1 else c.2),
    { a := next = a, b := next = b, p := pend, t := pend && decide (per.toNat < c.1.toNat), w := wrap })

/-- The modulus that the steps of a tick from a count run in: P + 1 where a period end lies among them, else the 32-bit wrap (R260). -/
def stepModulus (per count k : Nat) : Nat := if per ≠ 0 ∧ per < count + k then per + 1 else 2 ^ 32

/-- One AO tick of k steps as a single step (R260): the count is (count + k) mod (P + 1) where a period end lies among the steps, which is
raised once, and (count + k) mod 2^32 otherwise; a compare matches where it lies among the values stepped onto; the lap counts the
returns to 0, and a truncated period end is one (DESIGN CHOICE, log 125). -/
def countSteps (per a b : Word) (k : Nat) (c : Word × BitVec 16) : (Word × BitVec 16) × Causes :=
  let m := stepModulus per.toNat c.1.toNat k
  let onto := (List.range k).map fun i => (c.1.toNat + i + 1) % m
  let pend := per ≠ 0 && decide (per.toNat < c.1.toNat + k)
  let trunc := pend && decide (per.toNat < c.1.toNat)
  let laps := max (b2n trunc) ((onto.filter (· = 0)).length)
  ((w32 ((c.1.toNat + k) % m), c.2 + BitVec.ofNat 16 laps),
    { a := onto.contains a.toNat, b := onto.contains b.toNat, p := pend, t := trunc,
      w := (m = 2 ^ 32 && decide (2 ^ 32 ≤ c.1.toNat + k)) || c.1 = 0xFFFFFFFF })

/-- The steps of the k-th AO tick, with the remainder in eightieths that carries it: 6 in the 48 kHz family, 5.5125 on average
in the 44.1 kHz family (R260). -/
def aoSteps (s : State) : Nat × Nat :=
  if flag s R.clkStat 3 then ((s.time.aoAcc + 441) / 80, (s.time.aoAcc + 441) % 80) else (6, 0)

/-- The steps of the next tick: one on TCLK, those of the next AO tick on the AO oscillator (R250, R260). -/
def tickSteps (s : State) : Nat := if s.time.onAo then (aoSteps s).1 else 1

/-- The next tick of a channel: its count and lap, and its causes. -/
def timerNext (s : State) (n : Nat) : (Word × BitVec 16) × Causes :=
  let t := timerOf s n
  let per := rd s (timerReg n 0x0C)
  let a := rd s (timerReg n 0x10)
  let b := rd s (timerReg n 0x14)
  if s.time.onAo then countSteps per a b (tickSteps s) (t.count, t.lap) else countOnce per a b (t.count, t.lap)

/-- The status bits of causes (Table 12). -/
def statusBits (c : Causes) : Nat := b2n c.a + 2 * b2n c.b + 4 * b2n c.p + 8 * b2n c.t + 16 * b2n c.w

/-! ### Balls and events (R257, R258) -/

/-- The action that a channel's causes put on its ball: period end before compare B before compare A; 0 for none (R257). -/
def ballAction (s : State) (n : Nat) (c : Causes) : Nat :=
  let p := if c.p then timerCtl s n 19 18 else 0
  let b := if c.b then timerCtl s n 17 16 else 0
  let a := if c.a then timerCtl s n 15 14 else 0
  if p ≠ 0 then p else if b ≠ 0 then b else a

/-- A ball's output level takes an action: 1 set, 2 clear, 3 toggle. -/
def actOnBall (s : State) (ball action : Nat) : State :=
  let bit := 8 + ball
  match action with
  | 1 => setFlag s R.tenseTpctl bit
  | 2 => clrFlag s R.tenseTpctl bit
  | 3 => wrFld s R.tenseTpctl bit bit (1 - fld s R.tenseTpctl bit bit)
  | _ => s

/-- A TIMER event of a cause, while PD3 is on and an epoch is set (R258). -/
def timerEvent (s : State) (n cause : Nat) (trunc : Bool) : State :=
  if domainOn s 3 && s.time.epochSet then
    offerEvent s 14 (mkEvent (nowStamp s) 0x0C 0 n (cause + 16 * b2n trunc + 32 * b2n s.time.onAo)) s.time.aoTime
  else s

/-- The events of a tick's causes in ascending CAUSE (R258). -/
def causeEvents (s : State) (n : Nat) (c : Causes) : State :=
  let s := if c.a && flag s (timerReg n 0) 20 then timerEvent s n 1 false else s
  let s := if c.b && flag s (timerReg n 0) 21 then timerEvent s n 2 false else s
  let s := if c.p && flag s (timerReg n 0) 22 then timerEvent s n 3 c.t else s
  if c.w && flag s (timerReg n 0) 23 then timerEvent s n 4 false else s

/-- Causes whose event bit and WAKEEN are set are a wake source: it is latched where SLEEP or OFF is entered or has been (R258, R453). -/
def timerWake (s : State) (n : Nat) (enabled : Bool) : State :=
  if enabled && flag s (timerReg n 0) 25 && flag s R.pwrWakeen 23 && (decide (2 ≤ fld s R.pwrStat 2 0) || s.power.entry.isSome) then
    latchWake s 0x800000
  else s

/-- The enabled causes of a tick. -/
def wakeCause (s : State) (n : Nat) (c : Causes) : Bool :=
  let on := fun b => flag s (timerReg n 0) b
  (c.a && on 20) || (c.b && on 21) || (c.p && on 22) || (c.w && on 23)

/-- A channel takes its next tick: count, lap, status bits, events, control-voltage updates; the ball is for the caller, which
knows the other channels of the cycle (R250 to R258, R287). -/
def timerCount (s : State) (n : Nat) : State × Causes :=
  let (c, o) := timerNext s n
  let s := onTimer s n fun t => { t with count := c.1, lap := c.2, prev1 := (t.count, t.lap), prev2 := t.prev1 }
  let s := wr s (timerReg n 0x20) (w32 ((rd s (timerReg n 0x20)).toNat ||| statusBits o))
  let s := timerWake (causeEvents s n o) n (wakeCause s n o)
  (cvTimerUpdate s n (b2n o.a + 2 * b2n o.b + 4 * b2n o.p), o)

/-- One channel's tick alone, with its ball. -/
def timerTick (s : State) (n : Nat) : State :=
  let (s, o) := timerCount s n
  actOnBall s (timerCtl s n 13 11) (ballAction s n o)

/-- A channel that does not tick keeps its count; what it was a cycle ago moves on (R256). -/
def timerIdle (s : State) (n : Nat) : State :=
  onTimer s n fun t => { t with prev1 := (t.count, t.lap), prev2 := t.prev1 }

/-- Every channel's cycle: counts first, then the balls, where the lowest-numbered channel's action applies; the synchroniser takes the
levels that the balls had before (R250, R252, R257). -/
def timersTick (s : State) : State :=
  let (s, acts) := (List.range 16).foldl (fun (acc : State × List (Nat × Nat)) n =>
    let (s, acts) := acc
    if !timerTicks s n then (timerIdle s n, acts)
    else
      let (s, o) := timerCount s n
      let act := ballAction s n o
      let ball := timerCtl s n 13 11
      (s, if act = 0 ∨ acts.any (fun x => x.1 = ball) then acts else acts ++ [(ball, act)])) (s, [])
  acts.foldl (fun s x => actOnBall s x.1 x.2) (syncBalls s)

/-- COMPARE_MATCH: a tick of channel n that changes the count to a compare value (R255). -/
def execCompareMatch (n : Fin 16) (s : State) : Host.Outcome State Fault Refusal :=
  let o := (timerNext s n).2
  if timerTicks s n && (o.a || o.b) then .next (timerTick s n) else .next s

/-- PERIOD_END: a tick of channel n from its period, or from above it (R253). -/
def execPeriodEnd (n : Fin 16) (s : State) : Host.Outcome State Fault Refusal :=
  if timerTicks s n && (timerNext s n).2.p then .next (timerTick s n) else .next s

/-- TIMER_WRAP: a tick of channel n from 0xFFFF_FFFF (R254). -/
def execTimerWrap (n : Fin 16) (s : State) : Host.Outcome State Fault Refusal :=
  if timerTicks s n && (timerNext s n).2.w then .next (timerTick s n) else .next s

/-! ### GO and captures (R251, R256) -/

/-- A write to TENSE.GO: the named channels restart from 0, released, all in one cycle (R251). -/
def timerGo (s : State) (mask : Nat) : State :=
  (idxs 16 fun n => mask / 2 ^ n % 2 = 1).foldl (fun s n => onTimer s n fun t => { t with count := 0, lap := 0, released := true }) s

/-- CEDGE of a channel takes an edge: 0 rising, 1 falling, 2 both (R256). -/
def edgeTaken (cedge : Nat) (falling : Bool) : Bool :=
  match cedge with
  | 0 => !falling
  | 1 => falling
  | _ => true

/-- A capture: the count and lap as they stood two cycles earlier (R256); its event carries cause 5 (R258). -/
def capture (s : State) (n : Nat) : State :=
  let t := timerOf s n
  let st := timerReg n 0x20
  let s := if flag s st 5 then setFlag s st 6 else s
  let s := wr (wr (setFlag s st 5) (timerReg n 0x18) t.prev2.1) (timerReg n 0x1C) (w32 t.prev2.2.toNat)
  if flag s (timerReg n 0) 24 then timerWake (timerEvent s n 5 false) n true else s

/-- TIMER_CAPTURE: an edge on the capture input of channel n, through its synchroniser (R256). -/
def execTimerCapture (n : Fin 16) (falling : Bool) (s : State) : Host.Outcome State Fault Refusal :=
  let csel := timerCtl s n 8 5
  if csel = 0 then .next s
  else
    let s := setPin s csel (!falling)
    if edgeTaken (timerCtl s n 10 9) falling then .next (capture s n) else .next s

/-! ### The clock switch-over (R260) -/

/-- The timers and AOTIME change to the AO oscillator or back, with the cause: 0 SLEEP, 1 XFAIL, 2 crystal restored (R260). -/
def switchClock (s : State) (ao : Bool) (cause : Nat) : State :=
  let now := s.time.aoTime.toNat
  let s := { s with time := { s.time with onAo := ao, aoAcc := 0 } }
  let s := wrFld s R.tenseStat 4 4 (b2n ao)
  raiseGloss s (if ao then 0x8100 else 0x8101) (w32 now) (w32 (now / 2 ^ 32)) (w32 cause)

end Sys2Proof.Machine
end

