-- ==== Sys2Proof/Machine/Staged.lean ====
section
/-! DEFINITION. Staged RWS values and what their taking effect does (R7), and the selection of the clock reference (R13 to R16). -/

namespace Sys2Proof.Machine

/-! ### The reference (R13 to R15) -/

/-- The crystal is fitted and has not stopped. -/
def crystalRuns (s : State) : Bool :=
  flag s R.clkCtrl 4 && !s.time.onAo && (match s.time.clockDue with | some (true, _) => false | _ => true)

/-- The code of the reference that is not WCLK: the crystal, or the AO oscillator. -/
def ownReference (s : State) : Nat := if crystalRuns s then 0 else 2

/-- CLK.STAT.ACTIVE. -/
def activeRef (s : State) : Nat := fld s R.clkStat 5 4

/-- The reference at a frame boundary (R13, R15): the one SRC selects; WCLK once the PLL is locked to it, with a Gloss entry where
it returns after a loss. -/
def clkSelect (s : State) : State :=
  match fld s R.clkCtrl 1 0 with
  | 1 =>
    if !flag s R.clkStat 6 then (if activeRef s = 1 then s else wrFld s R.clkStat 5 4 (ownReference s))
    else if activeRef s = 1 then s
    else
      let s := wrFld s R.clkStat 5 4 1
      if s.time.wclkLost then
        raiseGloss { s with time := { s.time with wclkLost := false } } 0x0140 2 (w32 s.time.frame) 0
      else s
  | src =>
    let s := clrFlag { s with time := { s.time with wclkLost := false } } R.clkStat 6
    wrFld s R.clkStat 5 4 (if src = 0 then ownReference s else 2)

/-! ### What a staged value does when it takes effect (R7) -/

/-- The registers of DEST, PORT and EN of the trace whose EN goes to 1 restart the ring (R155). -/
def restartTrace (s : State) (old : Word) : State :=
  if flag s R.parserTrctl 0 && !bitOf old 0 then wr s R.parserTrptr 0 else s

/-- EVT.XCTL.EN going to 1 restarts the export ring (R175). -/
def restartExport (s : State) (old : Word) : State := if flag s R.evtXctl 0 && !bitOf old 0 then wr s R.evtXptr 0 else s

/-- Output of a digital audio port that goes on begins with the next port frame, and input that goes on starts afresh (R389). -/
def daiRestart (s : State) (p : Nat) (old : Word) : State :=
  let ctl := rd s (daiReg R.daiCtl p)
  let s := if bitOf ctl 0 && !bitOf old 0 then onDai s p fun d => { d with lastU := none } else s
  if bitOf ctl 1 && !bitOf old 1 then onDai s p fun d => { d with lastV := none } else s

/-- The channel of an address in an array of count registers at a stride, if it lies there. -/
def chanOf (base stride count a : Nat) : Option Nat :=
  if base ≤ a ∧ (a - base) % stride = 0 ∧ (a - base) / stride < count then some ((a - base) / stride) else none

/-- A register whose value has just changed from old by a staged write acts on it. -/
def stagedActs (s : State) (a : Nat) (old : Word) : State :=
  if a = R.clkCtrl then clkSelect s
  else if a = R.parserTrctl then restartTrace s old
  else if a = R.evtXctl then restartExport s old
  else match chanOf R.evtSrccfg 4 13 a, chanOf R.dacTctl 16 16 a, chanOf R.cvoTctl 16 8 a, chanOf R.daiCtl 0x1000 4 a with
    | some n, _, _, _ => if bits old 1 0 = fld s a 1 0 then s else formatChanged s n
    | _, some k, _, _ => onDac s k fun d => { d with tone := toneApply s (R.dacTincl + 16 * k) d.tone }
    | _, _, some k, _ => onCv s k fun c => { c with tone := toneApply s (R.cvoTincl + 16 * k) c.tone }
    | _, _, _, some p => daiRestart s p old
    | _, _, _, _ => s

/-- The RWS bits of a register. -/
def rwsMask (a : Nat) : Word := match regDesc a with | some d => w32 d.rws | none => 0

/-- A staged value takes effect in the RWS fields of its register. -/
def applyOne (s : State) (a : Nat) (v : Word) : State :=
  let old := rd s a
  stagedActs (wr s a ((old &&& ~~~(rwsMask a)) ||| (v &&& rwsMask a))) a old

/-- The fence masks of every group, before and after which maskChanged compares (R168). -/
def fenceMasks (s : State) : List Nat := (List.range 4).map (fenceMask s)

/-- The groups whose mask has changed are evaluated under their new masks (R168). -/
def masksChanged (s : State) (old : List Nat) : State :=
  (List.range 4).foldl (fun t g => if nth old g 0 = fenceMask t g then t else maskChanged t g (nth old g 0)) s

/-- Every staged value takes effect and PEND clears (R7). -/
def applyStaged (s : State) : State :=
  let old := fenceMasks s
  let due := s.staged
  let s := { s with staged := [] }
  masksChanged (due.foldl (fun t (a, v) => applyOne t a v) s) old

end Sys2Proof.Machine
end

