-- ==== Sys2Proof/Machine/Power.lean ====
section
/-! DEFINITION. Supply, power domains, resets and device states (R440 to R453): the warning and its hold, domains on and off, pad
latches, QUIET, SLEEP and OFF. -/

namespace Sys2Proof.Machine

/-! ### Rendering stops and starts (R135, R249, R447) -/

/-- Every bank of every Verb is empty. -/
def emptyBanks (s : State) : State :=
  let e := fun b : VerbBank =>
    { b with wf := none, units := [], loads := [], table := [], produced := [], poison := [], delay := none }
  let f := fun x : VerbSt =>
    { x with bankA := e x.bankA, bankB := e x.bankB, running := false, frozen := false, mixq := [], flagged := none, q0 := none }
  { s with verbs := s.verbs.map f, ended := [] }

/-- Rendering stops: every Phrase is freed with no fade and no tail, and the transport stops (R249, R447). What is staged takes effect
now, since PEND stays 0 while rendering is stopped (R7, log 112), and the void frames so far are recorded (R174, log 153). -/
def stopRendering (s : State) : State :=
  if !s.time.rendering then s
  else
    let s := tenseStop (reportVoids (applyStaged s) s.time.frame)
    let s := emptyBanks { s with phrases := [], time := { s.time with rendering := false } }
    { s with alloc := { s.alloc with recs := [], ops := [], noteStacks := List.replicate 16 [] }, parser := {} }

/-- The lane of a new global Phrase: the smallest G_L, then the lowest number (R135). -/
def globalLane (s : State) : Nat := (leastBy (laneG s) (List.range (max 1 (lanesOf s)))).getD 0

/-- A global Phrase of a Syntax, HELD, with its one GATE_ON (R135). -/
def globalPhrase (s : State) (x : Syntax) : Phrase :=
  { pos := 2048 + x.sid, sid := x.sid, isGlobal := true, state := 1, first := true, part := 0, pool := 0, key := 69, noteId := 0,
    vel := 65535, relVel := 0, offVel := 0, uni := 0, layer := 0, aseq := 0, start := w64 (4096 * (s.time.frame + 1)),
    gateOff := 0xFFFFFFFFFFFFFFFF, age := 0, lane := globalLane s, home := none, xbase := 0, ybase := 0, level := 0x7FFFFFFF,
    fadeRem := 0, latched := false, diverged := false, created := s.time.frame + 1, touched := s.time.frame + 1, ends := none,
    evs := [gateEntry 1 0 false 65535 0], deferred := [], works := [], move := none, moved := false, farea := none, dev := none,
    rsl := none, rend := false, rlost := false }

/-- One global Phrase for each accepted global Syntax, in ascending SID (R135). -/
def createGlobals (s : State) : State :=
  (List.range 256).foldl (fun s sid =>
    match s.syns.find? fun x => x.sid = sid && x.isGlobal with
    | some x =>
      let p := globalPhrase s x
      placePhrase { s with phrases := insertPhrase p s.phrases } p.pos
    | none => s) s

/-- The frame whose computing window sample time lies in: the window of frame n opens at 16 (n - 1) (R19); 0 while no epoch is set. -/
def windowNow (s : State) : Nat := if s.time.epochSet then nowSample s / 16 + 1 else 0

/-- Rendering starts after frame n, whose window it does not compute; frame numbers go on from the epoch (R17, R135, R447). -/
def startRendering (s : State) (n : Nat) : State :=
  let s := { s with time := { s.time with rendering := true, frame := n, step1 := n, step2 := n, take := n, voids := [], reported := [] } }
  createGlobals (refreshVerbs (showFree s))

/-- PWR.STAT.STATE. -/
def devState (s : State) : Nat := fld s R.pwrStat 2 0

/-! ### Domains (R28, R445, R452) -/

/-- The registers of a page take their reset values. -/
def clearPage (s : State) (page : Nat) : State :=
  { s with regs := s.regs.filter fun r => pageOf r.1 ≠ page, staged := s.staged.filter fun r => pageOf r.1 ≠ page }

/-- The outputs after their domain has gone: every channel parked, its factory terms kept (R276, R289, R429). -/
def resetOutputs (s : State) : State :=
  { s with analog := { s.analog with
      dac := s.analog.dac.map fun d => { tfac := d.tfac },
      cv := s.analog.cv.map fun c => { ofac := c.ofac, gfac := c.gfac },
      monitor := 0, spoilt := false, monCount := 0, monSum := 0, syncHold := 0 } }

/-- The level of SDO of a port at this instant: at high impedance where no slot is driven, else that of the bit being sent, which the
spec gives no instant for here: a free value (R386, R452, log 142). -/
def sdoLevel (s : State) (p : Nat) : State × Option Bool :=
  if (daiOf s p).sdo.all (·.isNone) then (s, none)
  else
    let (s, f) := drawFree s
    (s, some (bitOf f 0))

/-- The levels of SDO of every port. -/
def sdoLevels (s : State) : State × List (Option Bool) :=
  (List.range 4).foldl (fun acc p =>
    let (t, x) := sdoLevel acc.1 p
    (t, acc.2 ++ [x])) (s, [])

/-- What ball SPnTX is driven to at an instant: in single-wire mode it is released for a 1 (R336). -/
def txDrive (s : State) (p t : Nat) : Option Bool := if singleWire s p && txBall s p t then none else some (txBall s p t)

/-- The levels of the balls of PD7 that the device drives, as they are at this instant (R452). -/
def padLevels (s : State) : State :=
  let (s, sdo) := sdoLevels s
  { s with power := { s.power with pads :=
      { tx := (List.range 8).map fun p => txDrive s p (nowQuarter s),
        rts := (List.range 8).map fun p => !rtsAsserted s p, sdo } } }

/-- The digital balls of domains 3, 5 and 7 latch when the domain turns off (R452, R511): those of PD7 at the level and drive they
had. The balls of the flash port, of PD3, are idle then: no operation runs without PD3. -/
def latchPads (s : State) (d : Nat) : State :=
  if d = 3 ∨ d = 5 then setFlag s R.pwrDomstat (8 + d)
  else if d = 7 then (if flag s R.pwrDomstat 15 then s else setFlag (padLevels s) R.pwrDomstat 15)
  else s

/-- What ball SPnTX is driven to, by its hold cell while PD7 is latched (R323, R343, R452). -/
def txPad (s : State) (p t : Nat) : Option Bool :=
  if flag s R.pwrDomstat 15 then nth s.power.pads.tx p (some true) else txDrive s p t

/-- The level of ball SPnRTS, from its hold cell while PD7 is latched (R335, R343, R452). -/
def rtsPad (s : State) (p : Nat) : Bool := if flag s R.pwrDomstat 15 then nth s.power.pads.rts p true else !rtsAsserted s p

/-- What a domain loses when it turns off: its registers read their reset values when it comes on again (R310, R343, R390,
R445); the memories of PD3 and PD4 keep what SLEEP retains, named by the caller, and the local memories of a Verb domain what the forced moves
of R145 copy from them, until turning the domain on clears them (DEDUCED, log 160). A link that PD7 takes down is no change of its STATE
that IRQSTAT.LINK shows (DESIGN CHOICE, log 144). -/
def loseDomain (s : State) (d : Nat) : State :=
  match d with
  | 1 | 2 => { s with verbs := ((List.range s.verbs.length).zip s.verbs).map fun (v, x) =>
      if v / 8 = d - 1 then { ({} : VerbSt) with absent := true } else x }
  | 3 => { [R.parserPage, R.allocPage, R.evtPage, R.memPage, R.vdbgPage, R.nvmPage].foldl clearPage s with
           evt := {}, alloc := {}, parser := {}, syns := [], decls := [], phrases := [], ended := [], nvm := {},
           memint := { aoMap := s.memint.aoMap, used := s.memint.used, unstored := s.memint.unstored } }
  | 5 => resetOutputs ([R.mixPage, R.dacPage, R.cvoPage].foldl clearPage s)
  | 6 => resetInputs (clearPage s R.adcPage)
  | 7 => familyPorts (resetDai { clearPage (clearPage (clearPage s R.spPage) R.linkPage) R.daiPage with
                    sp := List.replicate 8 { txGrid := (nowQuarter s, 0) }, links := List.replicate 4 {}, sys := {} })
  | _ => s

/-- A domain turns off. -/
def domainOff (s : State) (d : Nat) : State :=
  if !domainOn s d then s else clrFlag (loseDomain (latchPads s d) d) R.pwrDomstat d

/-- A domain turns on: a Verb domain's local memories are cleared and its Verbs wait for their programs (R445). -/
def domainUp (s : State) (d : Nat) : State :=
  if domainOn s d then s
  else
    let s := setFlag s R.pwrDomstat d
    if d = 1 ∨ d = 2 then clearRange s (verbBase (8 * (d - 1))) (verbBase (8 * d)) else s

/-- Every output channel is parked (R275, R289). -/
def allParked (s : State) : Bool := s.analog.dac.all (fun d => !d.open?) && s.analog.cv.all fun c => c.closed

/-- The domain changes of a frame boundary (R445): PD5 turns off only once every channel is parked. -/
def applyDomains (s : State) : State :=
  [1, 2, 5, 6, 7].foldl (fun s d =>
    let want := flag s R.pwrDomen d
    if want then
      { domainUp s d with power := { s.power with offReq := if d = 5 ∧ s.power.entry.isNone then 0 else s.power.offReq } }
    else if d = 5 then
      let s := { s with power := { s.power with offReq := s.power.offReq ||| 0x20 } }
      if allParked s then { domainOff s 5 with power := { s.power with offReq := 0 } } else s
    else domainOff s d) s

/-- Does a value of PWR.DOMEN break R28 or R445: it clears PD3 or PD4 in RUN or QUIET, keeps a domain without PD3, which every other
domain requires, or turns one on while PD3 is off. -/
def domenRefused (s : State) (v : Word) : Bool :=
  (devState s < 2 && (!bitOf v 3 || !bitOf v 4)) ||
    (!(bitOf v 3 && domainOn s 3) && [1, 2, 4, 5, 6, 7].any fun d => bitOf v d && !(bitOf v 3 && domainOn s d))

/-- PWR.DOMEN is written (R28, R445): the change waits for the frame boundary, in QUIET as in RUN, and takes effect at once while the device
boots; a request to turn PD5 off begins its POWER cause at once, and one under SLEEP or OFF goes on (R274, R289, R448). -/
def writeDomen (s : State) (v : Word) : State :=
  if domenRefused s v then refuse s R.pwrDomen false
  else
    let s := wrFld s R.pwrDomen 7 1 (bits v 7 1)
    let req := if s.power.entry.isSome then s.power.offReq else if bitOf v 5 || !domainOn s 5 then 0 else 0x20
    let s := { s with power := { s.power with offReq := req } }
    if s.boot.complete || s.boot.reloading || asleep s then s else applyDomains s

/-- PWR.PADREL is written (R452): latched domains that are on are released; a release of any other is refused. -/
def writePadrel (s : State) (v : Word) : State :=
  let asked := [3, 5, 7].filter fun d => bitOf v d
  if asked.any fun d => !domainOn s d || !flag s R.pwrDomstat (8 + d) then refuse s R.pwrPadrel false
  else
    let s := asked.foldl (fun t d => clrFlag t R.pwrDomstat (8 + d)) s
    if asked.contains 5 then openAllParks s else s

/-! ### The supply monitor (R441, R449 to R451, R457) -/

/-- The latest sample of VIN, which a crossing needs beside the present one (R441). -/
def lastVin (s : State) : Nat := fld s R.pwrVin 15 0

/-- Two consecutive samples lie below a threshold (R441). -/
def fallsBelow (s : State) (vin level : Nat) : Bool := lastVin s < level && vin < level

/-- Two consecutive samples lie above a threshold (R441). -/
def risesAbove (s : State) (vin level : Nat) : Bool := level < lastVin s && level < vin

/-- VIN is followed from where it is found above 4.45 V until it is found at or below it, each by two samples (R441, R457). -/
def noteSupply (s : State) (vin : Nat) : State :=
  let since := if risesAbove s vin 4450 then (if s.power.vinGood.isSome then s.power.vinGood else some s.time.aoTime)
    else if fallsBelow s vin 4451 then none else s.power.vinGood
  { s with power := { s.power with vinGood := since } }

/-- A sample of VIN is shown (R441); while WARN is 1 the lowest since it was set is kept (R450). -/
def showVin (s : State) (vin : Nat) : State :=
  let s := wrFld (noteSupply s vin) R.pwrVin 15 0 vin
  let s := { s with power := { s.power with warnLow := (if flag s R.pwrStat 5 then min s.power.warnLow vin else s.power.warnLow) } }
  if vin < fld s R.pwrVinmin 15 0 then wrFld s R.pwrVinmin 15 0 vin else s

/-- BROWNOUT_WARNING: the monitor samples VIN, and finds it below the warning threshold of 4.35 V (R441, R449, R451). A sample that
the one before does not agree with is shown alone. -/
def execBrownoutWarning (vin : BitVec 16) (s : State) : Host.Outcome State Fault Refusal :=
  let low := fallsBelow s vin.toNat 4350
  let s := showVin s vin.toNat
  if !low ∨ flag s R.pwrStat 5 then .next s
  else
    let s := setFlag { s with power := { s.power with warnAt := some s.time.aoTime, warnFrame := s.time.frame,
                                                      warnLow := vin.toNat } } R.pwrStat 5
    let s := raiseIrq { s with gloss := { s.gloss with storedThisWarning := false } } 9
    if asleep s then .next s
    else .next (startGlossStore (raiseGloss s 0x0100 (w32 vin.toNat) (w32 s.time.frame) 0))

/-- The events a warning holds at its end. -/
def heldCount (s : State) : Nat :=
  let q := evSort s s.evt.queue
  (q.filter fun e => heldByWarning s (q.takeWhile fun r => r ≠ e) e).length

/-- Events in the queue whose position has passed become late (R209, R450). -/
def releaseWarned (s : State) : State :=
  let due := evSort s (s.evt.queue.filter fun q => q.waits = [] && frameOf (effPos s q.pkt) < nextTake s)
  due.foldl (fun t q =>
    let (t, q') := makeAvailable t q
    { t with evt := { t.evt with queue := t.evt.queue.map fun x =>
        if x.pkt.source = q.pkt.source ∧ x.seq = q.seq then q' else x } }) s

/-- VIN is sampled, and found above the recovery threshold of 4.45 V (R441, R450, R451). -/
def warningRecovery (s : State) (vin : BitVec 16) : State :=
  let high := risesAbove s vin.toNat 4450
  let s := showVin s vin.toNat
  if !high ∨ ¬ flag s R.pwrStat 5 then s
  else
    let held := heldCount s
    let s := clrFlag (clrFlag s R.pwrStat 5) R.pwrStat 6
    let low := w32 s.power.warnLow
    let frames := w32 (s.time.frame - s.power.warnFrame)
    let s := raiseIrq { s with power := { s.power with muted := false, warnAt := none } } 9
    if asleep s then s else raiseGloss (releaseWarned s) 0x0101 low frames (w32 held)

/-- TCLK cycles in n milliseconds: 24,576 each in the 48 kHz family, 22,579.2 in the other. -/
def msCycles (s : State) (n : Nat) : Nat := if flag s R.clkStat 3 then n * 225792 / 10 else n * 24576

/-- Boot step 1 is complete: VIN has stayed above 4.45 V for 1 ms (R457). -/
def supplyGood (s : State) : Bool :=
  match s.power.vinGood with
  | some t => t.toNat + msCycles s 1 ≤ s.time.aoTime.toNat
  | none => false

/-- The warning has lasted BOWAIT (R451). -/
def muteDue (s : State) : Bool :=
  match s.power.warnAt with
  | some t => !s.power.muted && !asleep s && t.toNat + msCycles s (fld s R.pwrBowait 9 0) ≤ s.time.aoTime.toNat
  | none => false

/-- The BROWNOUT cause begins (R451). -/
def brownoutMute (s : State) : State :=
  let s := setFlag { s with power := { s.power with muted := true } } R.pwrStat 6
  raiseGloss s 0x0102 (w32 s.time.frame) (w32 (fld s R.pwrVin 15 0)) 0

/-- BROWNOUT_MUTE: WARN has lasted PWR.BOWAIT milliseconds (R451). -/
def execBrownoutMute (s : State) : Host.Outcome State Fault Refusal := if muteDue s then .next (brownoutMute s) else .next s

/-- VHOLD_SHORT: the charger, while it runs, measures VHOLD and finds it shorted: it folds back (R442, R444). A voltage within 2 % of
15 V is no short: the one there was has gone (DESIGN CHOICE, log 141). -/
def execVholdShort (millivolts : BitVec 16) (s : State) : Host.Outcome State Fault Refusal :=
  if !chargerRuns s then .next s
  else
    let s := { s with power := { s.power with vhold := millivolts.toNat } }
    if vholdGood s then .next (clrFlag s R.pwrHold 9)
    else .next (raiseGloss (setFlag s R.pwrHold 9) 0x0103 (w32 millivolts.toNat) 0 0)

/-- PWR.VINMIN takes the present sample (R458). -/
def clearVinmin (s : State) : State := wrFld s R.pwrVinmin 15 0 (fld s R.pwrVin 15 0)

/-- FAULT is asserted (R444). -/
def faultPin (s : State) : Bool := flag s R.nvmBoot 31 || s.power.failed || flag s R.pwrHold 9

/-! ### Resets (R443) -/

/-- The first and last-plus-one byte of bank 23, the Gloss bank (R392). -/
def glossBank : Nat × Nat := (0x015C0000, 0x01600000)

/-- Is the number of set bits of a word odd. -/
def oddOnes (w : Word) : Bool := (idxs 32 fun i => bitOf w i).length % 2 = 1

/-- A reset while a fuse word is being programmed leaves it with some of its fuses blown, which the spec does not name: free values
(R484, R485, log 33). -/
def interruptFuse (s : State) : State :=
  match s.fuse.prog with
  | none => s
  | some (w, d) =>
    let (s, f) := drawFree s
    let (s, p) := drawFree s
    let old := nth s.fuse.blown w (0, false)
    { s with fuse := { blown := s.fuse.blown.set w (old.1 ||| (f &&& d), old.2 || (bitOf p 0 && oddOnes d)), prog := none } }

/-- A device reset: every register and all volatile state at its reset value; the flash, the fuses, the commands waiting, and for
the causes that keep them the AO repair map, the Gloss bank and PWR.VINMIN remain (Table 3). Boot step 1 waits its millisecond anew
(R457, log 116). -/
def deviceReset (s : State) (cause : Nat) : State :=
  let s := interruptFuse s
  let keep := cause ≠ 0
  let fresh : State := { pending := s.pending, free := s.free, flash := s.flash, fuse := s.fuse,
                          tap := if keep then s.tap else {}, power := { vinGood := s.power.vinGood.map fun _ => 0 } }
  let inBank := fun a : Nat => glossBank.1 ≤ a && a < glossBank.2
  let fresh := if !keep then fresh else
    { fresh with mem := s.mem.filter fun c => inBank c.1, ecc := s.ecc.filter fun c => inBank c.1,
                 memint := { aoMap := s.memint.aoMap, used := s.memint.used, unstored := s.memint.unstored },
                 gloss := { kcount := s.gloss.kcount, rhead := s.gloss.rhead, wrap := s.gloss.wrap, valid := s.gloss.valid,
                            pd0 := s.gloss.pd0, pd0Lost := s.gloss.pd0Lost } }
  let fresh := if keep then wrFld fresh R.pwrVinmin 15 0 (fld s R.pwrVinmin 15 0) else fresh
  let fresh := wrFld fresh R.pwrVin 15 0 (fld s R.pwrVin 15 0)
  let fresh := wrFld fresh R.pwrRstcause 1 0 cause
  if cause = 1 then wrFld fresh R.pwrRstcause 31 16 (fld s R.pwrVinmin 15 0) else fresh

/-- POWER_ON_RESET: VIN has been below 2.70 V, or power is applied for the first time (R443). The monitor starts with the present
sample; boot step 1 needs the next to agree with it (R441, R457). -/
def powerOnReset (s : State) (vin : Nat) : State :=
  let s := deviceReset s 0
  wrFld (wrFld { s with power := {} } R.pwrVin 15 0 vin) R.pwrVinmin 15 0 vin

/-- POWER_ON_RESET: PD0 has lost its state (R441, R443). -/
def execPowerOnReset (vin : BitVec 16) (s : State) : Host.Outcome State Fault Refusal := .next (powerOnReset s vin.toNat)

/-- A store is being programmed (R434). -/
def storeRunning (s : State) : Bool := s.nvm.op.isSome

/-- The reset is deferred for the store under way: every domain but PD0 and PD3 turns off, and the outputs park at once through
their switches, without a ramp (R434). -/
def deferReset (s : State) : State :=
  let s := emptyBanks { s with phrases := [], time := { s.time with rendering := false } }
  let s := closeAllParks s
  let s := (List.range 8).foldl cvClose s
  [1, 2, 4, 5, 6, 7].foldl domainOff { s with power := { s.power with vinLow := true } }

/-- BROWNOUT_RESET: VIN is sampled, and found below the reset threshold of 3.90 V (R434, R441, R443); below 2.70 V it is a power-on
reset. -/
def execBrownoutReset (vin : BitVec 16) (s : State) : Host.Outcome State Fault Refusal :=
  if !fallsBelow s vin.toNat 3900 then .next (showVin s vin.toNat)
  else if fallsBelow s vin.toNat 2700 then .next (powerOnReset s vin.toNat)
  else
    let s := showVin s vin.toNat
    if storeRunning s then .next (deferReset s) else .next (deviceReset s 1)

/-- PIN_RESET: RESETN is held low for at least 1 µs, and rises again: the row is the whole pulse, while which the device stays in reset
(R443, log 143). -/
def execPinReset (s : State) : Host.Outcome State Fault Refusal := .next (deviceReset s 2)

/-- The hold-up ends before the store does: what was programmed of its record, from page 1 onwards, stays without a header
(R432, R434). -/
def tornStore (s : State) (kind slot : Nat) (record : List Byte) : State :=
  match s.nvm.desc with
  | none => s
  | some d => match slotPlace d kind slot with
    | some (a, _) => flashProg s (a + 256) (record.drop 256)
    | none => s

/-- What is staged goes to the Gloss bank before the device turns off or resets (R464: one entry a cycle). -/
def flushGloss : Nat → State → State
  | 0, s => s
  | n + 1, s => if glossDirect s && !s.gloss.staging.isEmpty then flushGloss n (storeNext s) else s

/-- STORE_ON_HOLDUP: a store deferred the reset; it is finished, logged and followed by the reset, or VHOLD reaches VMIN first and
the reset comes at once (R434). -/
def execStoreOnHoldup (vhold : BitVec 16) (reachesVmin : Bool) (s : State) : Host.Outcome State Fault Refusal :=
  match s.power.vinLow, s.nvm.op with
  | true, some (.store kind slot seq record host) =>
    let s := { s with power := { s.power with vhold := vhold.toNat } }
    if reachesVmin then .next (deviceReset (tornStore s kind slot record) 1)
    else
      let s := raiseGloss (finishStore s kind slot seq record host false) 0x1320 (w32 kind) (w32 seq) (w32 vhold.toNat)
      .next (deviceReset (flushGloss 80 s) 1)
  | _, _ => .next s

/-! ### Device states (R446 to R448) -/

/-- QUIET may be entered: every audio channel is MUTED or PARKED and every control-voltage channel PARKED (R447). -/
def quietReady (s : State) : Bool :=
  ((List.range 16).all fun k => dacState s k = 2 || dacState s k = 4) && (List.range 8).all fun k => cvState s k = 2

/-- A request for a device state, its key being right (R446 to R448): 0 RUN, or a host wake; 1 QUIET, 2 SLEEP, 3 OFF, 4 a software reset.
Table 4 lists changes of a device that has booted: during a boot or a reload, and in the boot-failure state, the others are refused. -/
def pwrRequest (s : State) (req : Nat) : State :=
  let st := devState s
  let busy := setFlag s R.pwrStat 3
  if 4 < req then refuse s R.pwrCmd true
  else if flag s R.pwrStat 3 then refuse s R.pwrCmd false
  else match req with
    | 0 =>
      if st = 1 ∧ s.boot.complete then { busy with power := { s.power with want := 2 } }
      else if asleep s ∧ flag s R.pwrWakeen 0 then latchWake s 1
      else refuse s R.pwrCmd false
    | 1 =>
      if st ≠ 0 ∨ ¬ s.boot.complete then refuse s R.pwrCmd false
      else if quietReady s then { busy with power := { s.power with want := 1 } }
      else refuse (setFlag s R.pwrStat 8) R.pwrCmd false
    | 4 => deviceReset s 3
    | r =>
      if (r = 2 ∨ r = 3) ∧ st < 2 ∧ s.boot.complete then
        { busy with power := { s.power with entry := some r, offReq := s.power.offReq ||| 0x20 } }
      else refuse s R.pwrCmd false

/-- A state is reached: STATE, BUSY and the interrupt (R32, R448). -/
def reachState (s : State) (st : Nat) : State := raiseIrq (clrFlag (wrFld s R.pwrStat 2 0 st) R.pwrStat 3) 9

/-- A change between RUN and QUIET takes effect at a frame boundary (R447). -/
def applyWant (s : State) : State :=
  match s.power.want with
  | 1 => reachState (stopRendering { s with power := { s.power with want := 0 } }) 1
  | 2 => reachState (startRendering { s with power := { s.power with want := 0 } } (windowNow s - 1)) 0
  | _ => s

/-- On the way into SLEEP or OFF rendering stops at the first frame boundary at which every output is parked (R448, Table 5). -/
def stopForEntry (s : State) : State := if s.power.entry.isSome && allParked s then stopRendering s else s

/-- Memory that SLEEP keeps: the shared banks that PWR.RET.SHR names, and the Lexicon with RET.LEX (R448). -/
def retain (s : State) (target : Nat) : State :=
  let ret := if target = 2 then (rd s R.pwrRet).toNat else 0
  let gone := (List.range 8).filter fun b => ret / 2 ^ b % 2 = 0
  let s := gone.foldl (fun t b => clearRange t (sharedBase + 0x40000 * b) (sharedBase + 0x40000 * (b + 1))) s
  if ret / 256 % 2 = 1 then s else clearRange s 0 0x01000000

/-- SLEEP or OFF is reached, once every output is parked and rendering has stopped (R448, Table 5): pads are latched, every domain but PD0
is off, the timers count on the AO oscillator; the PLL is no longer locked (R15). The charger stops, and what VHOLD then falls to is a
free value (R442, log 141). -/
def entryComplete (s : State) : State :=
  match s.power.entry with
  | none => s
  | some target =>
    if !allParked s ∨ s.time.rendering then s
    else
      let on := fld s R.pwrDomen 7 0
      let s := flushGloss 80 s
      let s := [7, 6, 5, 2, 1].foldl domainOff s
      let s := domainOff (domainOff (retain s target) 4) 3
      let s := clrFlag (if s.time.onAo then s else switchClock s true 0) R.clkStat 6
      let keepGloss := decide (target = 2) && flag s R.pwrRet 7
      let s := { s with power := { s.power with entry := none, offReq := 0, domains := BitVec.ofNat 8 on },
                        boot := { s.boot with complete := false, interruptMode := false, deviceApplied := false, reloading := false },
                        time := { s.time with epochSet := false, stampOld := false, synced := false },
                        gloss := if keepGloss then { s.gloss with reachable := false, staging := [] }
                                 else { s.gloss with kcount := 0, rhead := 0, wrap := false, valid := false, reachable := false, staging := [] } }
      let (s, v) := drawFree (clrFlag s R.pwrHold 9)
      reachState { s with power := { s.power with vhold := v.toNat % 15301 } } target

end Sys2Proof.Machine
end

