-- ==== Sys2Proof/Machine/System.lean ====
section
/-! DEFINITION. A system of devices over its frames (R359 to R374): the bytes of FRM, WEV and UPB payloads, what the root takes from
the returned blocks, reports, late marks. -/

namespace Sys2Proof.Machine

/-! ### Payloads (R363, R368) -/

/-- The 32 bytes of a record (Table 7). -/
def recordBytesOf (r : FrmRecord) : List Byte :=
  leBytes 1 r.op.toNat ++ leBytes 1 r.flags.toNat ++ leBytes 2 r.slot.toNat ++ leBytes 2 r.dev.toNat ++ leBytes 2 r.lane.toNat ++
    leBytes 4 r.aseq.toNat ++ leBytes 2 r.keypart.toNat ++ leBytes 2 r.noteId.toNat ++ leBytes 2 r.vel.toNat ++
    leBytes 1 r.sid.toNat ++ leBytes 1 r.pool.toNat ++ leBytes 1 r.uni.toNat ++ leBytes 1 0 ++ leBytes 2 r.pos.toNat ++
    leBytes 4 r.aux.toNat ++ leBytes 4 0

/-- The index of a position in a report: a logical slot, or a fade slot from ALLOC.SLOTS onwards (R367). -/
def reportIndex (s : State) (pos : Nat) : Nat := if pos < 1024 then pos else slotCount s + (pos - 1024)

/-- The 132 bytes of an end map (Table 6): bit s of slot s, 0 to 1,055. -/
def endmapBytes (slots : List Nat) : List Byte :=
  (List.range 132).map fun i =>
    BitVec.ofNat 8 (((List.range 8).filter fun b => slots.contains (8 * i + b)).foldl (fun a b => a + 2 ^ b) 0)

/-- The slots an end map names. -/
def endmapSlots (bs : List Byte) : List Nat :=
  (List.range 1056).filter fun i => (bs.getD (i / 8) 0).toNat / 2 ^ (i % 8) % 2 = 1

/-- The bytes of an FRM payload (Table 6). -/
def frmBytes (p : FrmPayload) : List Byte :=
  leBytes 4 p.frame.toNat ++ leBytes 2 p.nevt.toNat ++ leBytes 1 p.records.length ++ List.replicate 9 0 ++ p.tense ++ p.endmap ++
    (p.records.map recordBytesOf).flatten

/-- The FRM payload of the root's frame m, of which its step 2 took nevt events (R363). -/
def frmPayload (s : State) (m nevt : Nat) : State × FrmPayload :=
  let (s, tense) := readBytes s 4 (frameRecordBase s + 64 * (m % 4)) 8
  (s, { frame := w32 m, nevt := BitVec.ofNat 16 nevt, tense, endmap := endmapBytes s.sys.endmap, records := s.alloc.recs })

/-- The root broadcasts FRM m after its step 3 (R363); nothing is sent by a device that is no root. -/
def sendFrm (s : State) (m nevt : Nat) : State :=
  if isRoot s then
    let (s, p) := frmPayload s m nevt
    sendDown s 0x06 (castHd s) (frmBytes p)
  else s

/-- The bytes of an up-block (R368). -/
def upbBytes (b : UpBlock) : List Byte :=
  let lost := (b.lost.take 4) ++ List.replicate (4 - min 4 b.lost.length) 0
  leBytes 4 b.frame.toNat ++ leBytes 2 b.void.toNat ++ leBytes 2 b.nlost.toNat ++ (lost.map fun x => leBytes 2 x.toNat).flatten ++
    (b.sums.map fun x => leBytes 8 x.toNat).flatten ++ (b.report.map fun x => leBytes 2 x.toNat).flatten ++
    (if b.report.length % 2 = 1 then [0, 0] else [])

/-- The bytes of an entry of a WEV payload (Table 3). -/
def wevBytes (e : WevEntry) : List Byte := leBytes 2 e.slot.toNat ++ leBytes 2 e.widx.toNat ++ pktBytes e.pkt

/-! ### The export set (R368) -/

/-- LINK.CFG.XB and XE. -/
def exportFirst (s : State) : Nat := fld s R.linkCfg 11 6
def exportCount (s : State) : Nat := fld s R.linkCfg 18 12

/-- The device address of sample j of bus b in the hold of frame k. -/
def holdAddr (s : State) (k b j : Nat) : Nat := holdBase s k + 128 * b + 8 * j

/-- A word of a hold frame, as the link port or the output stage of a manager reads it: 0 where it is poisoned, and the frame is
then void (R397). -/
def holdWord (s : State) (k b j : Nat) : State × DWord :=
  let (s, d, bad, _) := fetchWord s 4 (holdAddr s k b j)
  if bad then (voidFrame s k 4, 0) else (s, d)

/-- The exported samples of a frame's hold, bus by bus. -/
def heldSums (s : State) (k : Nat) : State × List DWord :=
  (List.range (exportCount s * 16)).foldl (fun acc i =>
    let (s, d) := holdWord acc.1 k (exportFirst s + i / 16) (i % 16)
    (s, acc.2 ++ [d])) (s, [])

/-- The void causes that a frame's hold carries. -/
def heldVoid (s : State) (k : Nat) : BitVec 10 := (mapGet s.sys.holdVoid k).getD 0

/-! ### Blocks (R368, R369) -/

/-- Sums exact element by element; a missing element counts as 0. -/
def addLists (a b : List DWord) : List DWord :=
  (List.range (max a.length b.length)).map fun i => a.getD i 0 + b.getD i 0

/-- Report entries add exactly. -/
def addReports (a b : List (BitVec 16)) : List (BitVec 16) :=
  (List.range (max a.length b.length)).map fun i => a.getD i 0 + b.getD i 0

/-- Two blocks of one frame added: sums, report, VOID and LOST; past four names, further names count in NLOST alone. -/
def addBlocks (a b : UpBlock) : UpBlock :=
  { frame := a.frame, void := a.void ||| b.void, nlost := a.nlost + b.nlost, lost := (a.lost ++ b.lost).take 4,
    sums := addLists a.sums b.sums, report := addReports a.report b.report }

/-- A device is named in LOST: its address and the valid bit. -/
def nameLost (b : UpBlock) (addr : Nat) : UpBlock :=
  { b with nlost := b.nlost + 1, lost := (b.lost ++ [BitVec.ofNat 16 (addr + 0x8000)]).take 4 }

/-- The address of the device at the other end of a link (LINK.LSTATn.PEER). -/
def peerAddr (s : State) (l : Nat) : Nat := fld s (R.linkLstat + 0x40 * l) 29 16

/-- TCLK cycles that hold a microsecond. -/
def microsecond (s : State) : Nat := if flag s R.clkStat 3 then 23 else 25

/-- A block whose EOP arrived at this AOTIME is in time for a manager now: at least 1 µs before (R369). A block of a segment that this
device is part of passes through it as it arrives (R368). -/
def blockInTime (s : State) (l : Nat) (eop : DWord) : Bool :=
  (linkDir s l = 2 && !flag s R.linkAddr 30) || decide (microsecond s ≤ (s.time.aoTime - eop).toNat)

/-- What a manager finds on a downstream link for frame k: a block in time whose CRC holds, or the cause of a zeroed contribution (0 late,
1 CRC, 2 missing) (R368, R369). -/
def segmentBlock (s : State) (l k : Nat) : UpBlock ⊕ Nat :=
  match (linkOf s l).block with
  | some (b, ok, eop) => if b.frame ≠ w32 k || !blockInTime s l eop then .inr 0 else if ok then .inl b else .inr 1
  | none => .inr 2

/-- The segments of a manager: its downstream links that carry workers. -/
def segments (s : State) : List Nat := downLinks s

/-- A segment's block is taken up. -/
def clearBlock (s : State) (l : Nat) : State := onLink s l fun x => { x with block := none }

/-! ### Late marks (R374) -/

/-- A device is named in LOST at the root: counted and marked late for 64 frames (R374). -/
def markLate (s : State) (addr : Nat) : State :=
  let s := countUp s R.linkLatewk
  { s with sys := { s.sys with devices := s.sys.devices.map fun d => if d.addr = addr then { d with late := 64 } else d } }

/-- The late marks run down by one frame (R374). -/
def ageLate (s : State) : State :=
  { s with sys := { s.sys with devices := s.sys.devices.map fun d => { d with late := d.late - 1 } } }

/-- The addresses that a block names in LOST. -/
def lostNames (b : UpBlock) : List Nat := (b.lost.filter fun x => bitOf (x.setWidth 32) 15).map fun x => x.toNat % 16384

/-- A contribution zeroed further down, as the block's naming tells it: marked and logged; the block does not carry the cause, which is a
free value (R369, R374, log 158). -/
def takeNaming (k : Nat) (s : State) (a : Nat) : State :=
  let (s, f) := drawFree s
  raiseGloss (markLate s a) 0x6120 (w32 k) (w32 a) (w32 (f.toNat % 3))

/-- The namings of a block at the root: each of the entries marks its device, and those past four count only. -/
def takeNamings (s : State) (k : Nat) (b : UpBlock) : State :=
  countUpBy ((lostNames b).foldl (takeNaming k) s) R.linkLatewk (b.nlost.toNat - 4)

/-- A block includes a worker: neither it nor a device that it lies behind is named in LOST (R368, R375; DEDUCED, log 81). -/
def blockIncludes (b : UpBlock) (a : Nat) : Bool :=
  decide (b.nlost.toNat ≤ 4) && (lostNames b).all fun n => n ≠ a && !(n % 128 = 0 && decide (n ≤ a))

/-- A worker on a link whose join request has come and whose first block is in. -/
def firstReport (l : Nat) (b : UpBlock) (d : DeviceSt) : Bool := d.link = l && d.joinReq && blockIncludes b d.addr

/-- A first block marks its worker. -/
def markFirst (l : Nat) (b : UpBlock) (d : DeviceSt) : DeviceSt := if firstReport l b d then { d with report := true } else d

/-! ### The root's outputs and reports (R366, R367, R369) -/

/-- A segment's sums are added to the hold of frame k, by the mix port (R369, R405). -/
def addReturned (s : State) (k : Nat) (sums : List DWord) : State :=
  ((List.range sums.length).zip sums).foldl (fun t (i, v) =>
    memAdd t 2 (holdAddr t k (exportFirst t + i / 16) (i % 16)) v) s

/-- One segment's contribution to frame k: taken, or zeroed, named and logged (R369). Answers the report it brought. -/
def takeSegment (k : Nat) (acc : State × List (Nat × List (BitVec 16))) (l : Nat) : State × List (Nat × List (BitVec 16)) :=
  let (s, reps) := acc
  match segmentBlock s l k with
  | .inl b =>
    let s := takeNamings (addReturned s k b.sums) k b
    let s := (List.range 10).foldl (fun t c => if b.void.toNat / 2 ^ c % 2 = 1 then voidFrame t k c else t) s
    let s := if b.nlost = 0 then s else voidFrame s k 7
    let s := if s.sys.devices.any fun d => firstReport l b d && !d.report then voidFrame s k 8 else s
    let s := { s with sys := { s.sys with devices := s.sys.devices.map (markFirst l b) } }
    (clearBlock s l, reps ++ [(l, b.report)])
  | .inr cause =>
    let a := peerAddr s l
    let s := raiseGloss (voidFrame (markLate s a) k 7) 0x6120 (w32 k) (w32 a) (w32 cause)
    (clearBlock s l, reps)

/-- The link of the root on which a worker lies. -/
def deviceLink (s : State) (addr : Nat) : Option Nat := (s.sys.devices.find? fun d => d.addr = addr).map (·.link)

/-- The report entry of a Phrase for the frame: its device's, none where that was lost. -/
def entryOf (s : State) (own : List Nat) (reps : List (Nat × List (BitVec 16))) (p : Phrase) : Option Nat :=
  let i := reportIndex s p.pos
  match p.dev with
  | none => some (own.getD i 0)
  | some a =>
    match deviceLink s a with
    | none => none
    | some l => (reps.find? fun r => r.1 = l).map fun r => (r.2.getD i 0).toNat

/-- A Phrase takes its report entry (R366, R367): the level and END. Where its device's block was lost, or was zeroed on its way, which
leaves VALID 0, it keeps the last ones. -/
def takeEntry (p : Phrase) (e : Option Nat) : Phrase :=
  match e with
  | none => { p with rlost := p.dev.isSome }
  | some v => if v / 2 ^ 15 % 2 = 0 then { p with rlost := p.dev.isSome } else { p with rsl := some (v % 2 ^ 14), rend := v / 2 ^ 14 % 2 = 1, rlost := false }

/-- Does a report show END for a Phrase whose previous report was lost (R367). -/
def endAfterLoss (p : Phrase) (e : Option Nat) : Bool :=
  match e with
  | some v => p.rlost && 3 ≤ v / 2 ^ 14
  | none => false

/-- Is a Phrase in the report of frame k: it is not global, and was created in k or before it (R184, R366). The count of frames is that of
32 bits. -/
def Phrase.reportedIn (p : Phrase) (k : Nat) : Bool :=
  !p.isGlobal && decide ((k + 2 ^ 32 - p.created % 2 ^ 32) % 2 ^ 32 < 2 ^ 31)

/-- The reports of frame k reach the slot table of the root. A Phrase created after frame k has none there: its slot then held another
(R184). -/
def takeReports (s : State) (k : Nat) (reps : List (Nat × List (BitVec 16))) : State :=
  let (s, own) := heldReport s k
  let s := if s.phrases.any fun p => p.reportedIn k && endAfterLoss p (entryOf s own reps p) then setFlag s R.linkStat 1 else s
  { s with phrases := s.phrases.map fun p => if p.reportedIn k then takeEntry p (entryOf s own reps p) else p }

/-- At 16(k + T) the root adds what its segments returned to its hold of frame k and reads the reports (R369). -/
def rootReturns (s : State) (k : Nat) : State :=
  let (s, reps) := (segments s).foldl (takeSegment k) (ageLate s, [])
  takeReports s k reps

/-- Word events wait on the root until the blocks of their frame have arrived: those of frame k are routed from now, in flow order
(R361). -/
def releaseWev (s : State) (k : Nat) : State :=
  let due := s.sys.wev.filter fun e => e.1 ≤ k
  let before := fun (a b : Nat × WevEntry) => keyLt (a.1, a.2.slot.toNat, a.2.widx.toNat) (b.1, b.2.slot.toNat, b.2.widx.toNat)
  let insert := fun (acc : List (Nat × WevEntry)) (e : Nat × WevEntry) =>
    acc.takeWhile (fun x => !before e x) ++ [e] ++ acc.dropWhile fun x => !before e x
  let sorted := due.foldl insert []
  { s with sys := { s.sys with wev := s.sys.wev.filter fun e => k < e.1, wevReady := s.sys.wevReady ++ sorted.map (·.2.pkt) } }

end Sys2Proof.Machine
end

