-- ==== Sys2Proof/Machine/LinkState.lean ====
section
/-! DEFINITION. The training state of a link and what its loss does (R356, R376, R377). -/

namespace Sys2Proof.Machine

/-- LINK.LSTATn. -/
def lstatReg (l : Nat) : Nat := R.linkLstat + 0x40 * l

/-- A link's training step changes (R32, R356): a link that reaches ACTIVE is logged. -/
def setLinkState (s : State) (l st : Nat) : State :=
  if linkState s l = st then s
  else
    let s := onLink s l fun k => { k with since := s.time.aoTime }
    let s := raiseIrq (wrFld s (lstatReg l) 2 0 st) 11
    if st = 6 then raiseGloss s 0x6100 (w32 l) (w32 (peerAddr s l)) (w32 (fld s (lstatReg l) 15 8)) else s

/-- A link returns to step 1 of its training: what it had to send, its credits and its measurement are gone (R353, R356). -/
def retrainLink (s : State) (l : Nat) : State :=
  let s := onLink s l fun _ => { since := s.time.aoTime }
  let s := wr s (lstatReg l) (rd s (lstatReg l) &&& 7)
  setLinkState s l (if linkDir s l = 0 then 0 else 1)

/-- A training step refused by this device (Gloss 0x6150): the link returns to step 1. -/
def refuseLink (s : State) (l reason : Nat) : State :=
  retrainLink (raiseGloss s 0x6150 (w32 l) (w32 reason) (w32 (peerAddr s l))) l

/-- A worker's upstream link is down (R377): it stops rendering, mutes every audio channel, disables every control-voltage channel,
and drops its downstream links. -/
def upstreamLoss (s : State) : State :=
  let s := stopRendering s
  let s := (List.range 16).foldl (fun t k => setFlag t (R.dacCh + 4 * k) 0) s
  let s := (List.range 8).foldl (fun t k => clrFlag t (R.cvoCh + 4 * k) 0) s
  ((List.range 4).filter fun l => linkDir s l = 1 || linkDir s l = 2 || linkDir s l = 3).foldl retrainLink s

end Sys2Proof.Machine
end

