-- ==== Sys2Proof/Machine/MemTest.lean ====
section
/-! DEFINITION. The scrub write-back (R396), the background row test with its repairs (R406 to R409), and the table errors of
bank 16 (R399). -/

namespace Sys2Proof.Machine

/-! ### Scrub (R396) -/

/-- SCRUB_WRITEBACK: the oldest corrected word that waits is written back, unless it has been written since (R396); it waits until the
memories have been cleared (R410). -/
def execScrubWriteback (s : State) : Host.Outcome State Fault Refusal :=
  match s.memint.scrub with
  | [] => .next s
  | a :: rest =>
    if !s.boot.cleared then .next s else
    let s := { s with memint := { s.memint with scrub := rest } }
    match readWord s a with
    | .corrected d _ => .next (putWord s a d)
    | _ => .next s

/-! ### Rows (R392) -/

/-- The number of rows of a bank. -/
def bankRows (b : Nat) : Nat :=
  if b < 16 then 4096 else if b < 24 then 1024 else if (b - 24) % 3 = 0 then 256 else 384

/-- The device address of word i of a row. -/
def rowWord (b r i : Nat) : Nat :=
  if b < 16 then r * 4096 + i * 128 + b * 8
  else if b < 24 then sharedBase + (b - 16) * 0x40000 + r * 256 + 8 * i
  else
    let n := (b - 24) / 3
    let base := match (b - 24) % 3 with | 0 => 0 | 1 => 0x10000 | _ => 0x28000
    verbBase n + base + r * 256 + 8 * i

/-- The Verb a bank is local memory of. -/
def bankVerb (b : Nat) : Option Nat := if b < 24 then none else some ((b - 24) / 3)

/-- The domain of a bank (Table 11 of the architecture chapter). -/
def bankDomain (b : Nat) : Nat := if b < 16 then 4 else if b < 24 then 3 else if (b - 24) / 3 < 8 then 1 else 2

/-- Does the test visit a bank: EN and its memory's bit in MEM.BTCTL, and its domain on (R406); it waits for the clear (R410). -/
def bankTested (s : State) (b : Nat) : Bool :=
  s.boot.cleared && flag s R.memBtctl 0 && flag s R.memBtctl (if b < 16 then 1 else if b < 24 then 2 else 3) && domainOn s (bankDomain b)

/-- The row at a place in the test's order, or the next one it visits after it; a row without a spare left is skipped (R406,
R408). The search takes at most n places. -/
def nextRow (s : State) : Nat → Nat × Nat → Option (Nat × Nat)
  | 0, _ => none
  | n + 1, (b, r) =>
    if bankRows b ≤ r then nextRow s n ((b + 1) % 72, 0)
    else if !bankTested s b then nextRow s n ((b + 1) % 72, 0)
    else if s.memint.skip.contains (b, r) then nextRow s n (b, r + 1)
    else some (b, r)

/-- The row the test begins next: each bank, and each skipped row, is passed at most twice. -/
def dueRow (s : State) : Option (Nat × Nat) := nextRow s (150 + 2 * s.memint.skip.length) (s.memint.nextBank, s.memint.nextRow)

/-! ### Spares and the repair map (R408, R409) -/

/-- The half of MEM.RMAPb_i that shows spare k of bank b. -/
def spareHalf (s : State) (b k : Nat) : Nat := fld s (R.memRmap + 16 * b + 4 * (k / 2)) (15 + 16 * (k % 2)) (16 * (k % 2))

/-- That half takes a value. -/
def setSpare (s : State) (b k v : Nat) : State := wrFld s (R.memRmap + 16 * b + 4 * (k / 2)) (15 + 16 * (k % 2)) (16 * (k % 2)) v

/-- The free spares of a bank, lowest first: neither mapped nor marked used. -/
def freeSpares (s : State) (b : Nat) : List Nat := (List.range 8).filter fun k => spareHalf s b k < 0x4000

/-- A spare is marked used, in the map that is held: it is never mapped again (R408). -/
def retireSpare (s : State) (b k : Nat) : State :=
  let s := setSpare s b k 0x4000
  { s with memint := { s.memint with used := (s.memint.used.filter (· ≠ (b, k))) ++ [(b, k)] } }

/-- The free spares are tried in turn: one that fails its own test is marked used (R408). -/
def trySpares (b : Nat) : List Nat → List Bool → State → State × Option Nat
  | [], _, s => (s, none)
  | k :: ks, fails, s =>
    if fails.headD false then trySpares b ks fails.tail (retireSpare s b k) else (s, some k)

/-- The payload of a repair record: four bytes for each entry of the AO map and, with bit 14 of the row set, for each used spare (the spec
gives the record's payload no layout, log 21). -/
def repairPayload (s : State) : List Byte :=
  let entries : List (Nat × Nat × Nat) := s.memint.aoMap ++ s.memint.used.map fun u => (u.1, 0x4000, u.2)
  (entries.map fun e => leBytes 1 e.1 ++ leBytes 2 e.2.1 ++ leBytes 1 e.2.2).flatten

/-- What a repair record holds, used spares among it. -/
def repairEntries : List Byte → List (Nat × Nat × Nat)
  | b :: r0 :: r1 :: k :: rest => (b.toNat, leNat [r0, r1], k.toNat) :: repairEntries rest
  | _ => []

/-- The AO map is written to the store area; a refused store stays pending (R409). -/
def storeRepairs (s : State) : State :=
  let t := startStore s 0x10 (repairPayload s) false
  if t.nvm.op.isSome ∧ s.nvm.op.isNone then t
  else { t with memint := { t.memint with unstored := true } }

/-- A pending repair record is tried again at a frame at which VIN is above the warning (R409). -/
def retryRepairs (s : State) : State := if s.memint.unstored && !flag s R.pwrStat 5 then storeRepairs s else s

/-- A failing row is mapped to a tested spare, or finds none (R408). -/
def repairRow (s : State) (b r : Nat) (spareFails : List Bool) : State :=
  match trySpares b (freeSpares s b) spareFails s with
  | (s, some k) =>
    let s := ((List.range 8).filter fun j => spareHalf s b j = 0x8000 + r).foldl (fun t j => retireSpare t b j) s
    let s := countUp (setSpare s b k (0x8000 + r)) R.memRepairs
    let s := raiseGloss s 0x2120 (w32 b) (w32 r) (w32 k)
    let others := s.memint.aoMap.filter fun e => !(e.1 = b && e.2.1 = r)
    storeRepairs { s with memint := { s.memint with aoMap := others ++ [(b, r, k)] } }
  | (s, none) =>
    let s := { s with memint := { s.memint with skip := s.memint.skip ++ [(b, r)] } }
    raiseGloss (setFlag s R.memStat 3) 0x2121 (w32 b) (w32 r) 0

/-- One word of the row through the save buffer: a corrected word is written back correct, an uncorrectable one with the poison
marker (R397, R406). -/
def testWord (b r : Nat) (s : State) (i : Nat) : State :=
  let a := rowWord b r i
  match fetchWord s 6 a with
  | (s, _, false, false) => s
  | (s, d, true, _) => putPoison s a d
  | (s, d, false, true) => putWord s a d

/-- The domain of a bank is requested off: the test of its row is abandoned at step 2, and the row released as it was (R407). -/
def rowAbandoned (s : State) (b : Nat) : Bool := !flag s R.pwrDomen (bankDomain b)

/-- One row is held, tested and released, and repaired where it failed (R406 to R408). -/
def testRow (s : State) (b r : Nat) (rowFails : Bool) (spareFails : List Bool) : State :=
  let s := (List.range 32).foldl (testWord b r) s
  let s := wr s R.memBtpos (w32 (b * 2 ^ 24 + r))
  let s := { s with memint := { s.memint with nextBank := b, nextRow := r + 1, begun := s.memint.begun + 1, held := [] } }
  if rowFails && !rowAbandoned s b then repairRow s b r spareFails else s

/-- Is the Verb of a bank, if it has one, in slot mode, so that a row of it can be held (R406). -/
def rowHoldable (s : State) (b : Nat) : Bool :=
  match bankVerb b with
  | none => true
  | some v => flag s R.parserVstat (16 + v)

/-- BACKGROUND_ROW_TEST: the next row is held, tested and written back (R406). A row of a Verb that is not in slot mode is only
asked for: the Verb enters slot mode at the next boundary, and the row is tested then (R146). -/
def execBackgroundRowTest (rowFails : Bool) (spareFails : List Bool) (s : State) : Host.Outcome State Fault Refusal :=
  if fld s R.memBtctl 15 8 ≤ s.memint.begun then .next s
  else
    match dueRow s with
    | none => .next s
    | some (b, r) =>
      if rowHoldable s b then .next (testRow s b r rowFails spareFails)
      else
        let v := (bankVerb b).getD 0
        .next { wr s R.memBtpos (w32 (b * 2 ^ 24 + r)) with
                memint := { s.memint with nextBank := b, nextRow := r, held := [(v, rowWord b r 0)] } }

/-! ### Table errors (R399) -/

/-- The addresses of a range whose words have an error. -/
def errorsIn (s : State) (lo hi : Nat) : List Nat := (s.ecc.filter fun e => lo ≤ e.1 && e.1 < hi).map (·.1)

/-- The Parser and the allocator take the words of bank 16 that have an error, up to the first that cannot be corrected, each by a SWAP,
which leaves it clean (R396, R397, R405; what the tables hold is State's own lists: log 22). -/
def readTableWords (s : State) : List Nat → State × Option Nat
  | [] => (s, none)
  | a :: rest =>
    let (s, _, bad) := memSwap s 0 a (memWord s a)
    if bad then (s, some a) else readTableWords s rest

/-- The Parser and the allocator read their tables: an uncorrectable word of them is a table error, logged with the Phrases that its
recovery at the next boundary will free (R397, R399; that every step 2 reads every word of bank 16 is a choice of the model, log 22). -/
def readTables (s : State) : State :=
  if s.memint.tableErr.isSome then s
  else
    match readTableWords s (errorsIn s sharedBase (sharedBase + 0x40000)) with
    | (s, none) => s
    | (s, some a) =>
      let s := if flag s R.memStat 4 then s else raiseIrq (setFlag s R.memStat 4) 13
      let s := raiseGloss s 0x2111 (w32 a) (w32 (s.phrases.filter fun p => !p.isGlobal).length) (w32 s.time.frame)
      { s with memint := { s.memint with tableErr := some a } }

/-- The tables are rebuilt: each damaged word of bank 16 that is left is written clean (R398, R399). -/
def rebuildTables (s : State) : State := (errorsIn s sharedBase (sharedBase + 0x40000)).foldl (fun t a => putWord t a 0) s

end Sys2Proof.Machine
end

