-- ==== Sys2Proof/Machine/Frame.lean ====
section
/-! DEFINITION. A frame boundary and the steps of a computing window (R132, R149, R150, R162, R208, R265, R359, R399). -/

namespace Sys2Proof.Machine

/-! ### The epoch (R17, R261) -/

/-- GOMASK and START of the TENSE payload act at the epoch (R261). -/
def applyAtEpoch (s : State) : State :=
  let (mask, start) := s.tense.atEpoch
  let s := onTense s fun t => { t with atEpoch := (0, false) }
  let s := timerGo s mask
  if start && !isWorker s then transportEvent s 1 0 0 else s

/-- The epoch is set at an instant of AOTIME (R17, R259). -/
def setEpoch (s : State) (at' : DWord) : State :=
  { s with time := { s.time with epoch := at', epochSet := true, stampOld := false, ticked := none } }

/-- No SYNC has been taken: the device sets the epoch itself, at the boundary that opens the window of frame 1 (R17). -/
def selfEpoch (s : State) : State :=
  if s.time.epochSet then s
  else
    let s := setEpoch (holdPosition s s.time.aoTime) s.time.aoTime
    applyAtEpoch { s with time := { s.time with frame := 0, step1 := 0, step2 := 0, take := 0 } }

/-! ### The steps of a window (R132, R162, R208) -/

/-- A step of frame k runs with k as the open frame. -/
def atFrame (s : State) (k : Nat) (f : State → State) : State :=
  let t := f { s with time := { s.time with frame := k } }
  { t with time := { t.time with frame := s.time.frame } }

/-- Step 1 of frame k beyond the staged values, which the boundary itself applies: Phrase and fade ends of frame k - 1, Verbs, moves
(R132, R138, R139, R144). -/
def stepOne (s : State) (k : Nat) : State :=
  let s := refreshVerbs (phraseEnds s k)
  let s := placeAll (roomForMoves (forceMoves (markMoves s)))
  { s with time := { s.time with step1 := k } }

/-- Steps 2 to 4 of frame k, and the FRM packet of a root (R132, R363). -/
def stepsTwo (s : State) (k : Nat) : State :=
  let s := readTables s
  let es := takenEvents s k
  let s := takeAndAllocate s k es
  sendFrm (armAll s k) k es.length

/-- Step 1 of the next frame runs where its window is open, the steps of the frame before are done, and the ALLOC cursor has
passed that frame (R162); a worker's runs with its FRM (R363). -/
def tryStepOne (s : State) : State :=
  let k := s.time.step1 + 1
  if k ≤ s.time.frame && s.time.step2 = s.time.step1 && !isWorker s && (tiersOf s ≠ 0 || cursorPassed s (k - 1)) then
    atFrame s k fun t => stepOne t k
  else s

/-- Steps 2 to 4 run once they are due and step 1 has run. -/
def tryStepTwo (s : State) : State :=
  let k := s.time.step1
  if s.time.step2 < k && k ≤ s.time.take && !isWorker s then atFrame s k fun t => stepsTwo t k else s

/-- The steps that can run now run, in order. -/
def catchUp (s : State) : State :=
  if !s.time.rendering then s else tryStepTwo (tryStepOne (tryStepTwo (tryStepOne s)))

/-- EVENT_TAKE: step 2 of the open frame is due, and steps 3 and 4 follow it (R208). -/
def execEventTake (s : State) : Host.Outcome State Fault Refusal :=
  if !s.time.rendering then .next s
  else .next (catchUp { s with time := { s.time with take := max s.time.take s.time.frame } })

/-! ### At the deadline (R149, R150, R363, R480) -/

/-- A worker that lacks FRM m at its deadline abandons frame m (R150, R363): none of its Phrases runs, so each has diverged. -/
def frmMissing (s : State) (m : Nat) : State :=
  if !isWorker s || m ≤ s.time.step2 then s
  else
    let s := raiseGloss s 0x6130 (w32 m) 0 0
    let here := s.phrases.filter fun p => p.dev.isNone
    let s := raiseGloss (countUp s R.parserAbandon) 0x3101 (w32 m)
      (w32 (here.map fun p => match synOf s p.sid with | some x => x.words.length | none => 0).sum) (w32 here.length)
    let s := voidFrame { s with phrases := s.phrases.map fun p => if p.dev.isNone then { p with diverged := true } else p } m 1
    { s with time := { s.time with step1 := m, step2 := m } }

/-- The Word-frame that a halted Verb holds of frame m or an earlier one (R480). -/
def haltedFrame (x : VerbSt) (m : Nat) : Option WordFrame :=
  if x.halted && x.running then x.cur.wf.filter fun w => w.frame ≤ m else none

/-- The trace records of the Word-frames that dropHalted drops: one for each dispatched (R152), with END at the drop and ABORTED 0, since
R128 did not abort it (DESIGN CHOICE, log 119). -/
def traceHalted (s : State) (m : Nat) : State :=
  (List.range 16).foldl (fun t v =>
    let t := if (haltedFrame (verbOf t v) m).isSome then overCheck t v else t
    match haltedFrame (verbOf t v) m with
    | some w => stageTrace (onPhrase t w.pos fun p => { p with moved := false }) w.key [v] (traceSlot w.pos) w.reason
        (dispatchRecord t v w false)
    | none => t) s

/-- A Word-frame of frame m or earlier that a halted Verb holds is dropped at the frame's abandonment: it leaves the bank, whose
registers stay readable, and its posted effects are discarded (R480). -/
def dropHalted (s : State) (m : Nat) : State :=
  let s := traceHalted s m
  { s with verbs := s.verbs.map fun x =>
      if (haltedFrame x m).isSome then
        { x.setCur { x.cur with wf := none } with abandoned := true }
      else x }

/-- The deadlines of a boundary that opens the window of frame n: frame n - 1 overruns, frame n - 2 is abandoned, what is left of
frame n - 3 is aborted (R149, R150). -/
def deadlines (s : State) (n : Nat) : State :=
  let s := if 2 ≤ n then withdrawGlobals (checkOverrun (frmMissing s (n - 1)) (n - 1)) (n - 1) else s
  let s := if 3 ≤ n then abandonFrame (dropHalted s (n - 2)) (n - 2) else s
  let s := if 4 ≤ n then abortLate s (n - 3) else s
  voidDiverged s (n - 1)

/-! ### The output stage and the mix port (R265, R268, R359) -/

/-- Every output takes the codes of frame m, played in frame n of sample time. -/
def latchOutputs (s : State) (m n : Nat) : State :=
  let s := (List.range 16).foldl (fun t k => latchAudio t m k) s
  let s := (List.range 8).foldl (fun t k => latchCv t m k) s
  (List.range 4).foldl (fun t p => latchDai t m n p) s

/-- The outputs of a boundary that opens the window of frame n: with T = 0 frame n - 1 is latched; with T tiers frame n - 1 - T is
played from its hold, after which frame n - 1 takes its place (R265, R359, R369). -/
def playFrame (s : State) (n : Nat) : State :=
  match tiersOf s with
  | 0 => reportVoids (latchOutputs s (n - 1) (n - 1)) (n - 2)
  | t + 1 =>
    let k := n - 1 - (t + 1)
    let s := if t + 2 < n then
        let s := if isRoot s then releaseWev (rootReturns s k) k else s
        reportVoids (latchOutputs s k (n - 1)) k
      else s
    holdFrame s (n - 1)

/-- The bus buffer and the feed accumulators of frame n are cleared before arming begins (R265, R268). -/
def clearMix (s : State) (n : Nat) : State :=
  let b := busAddr n 0 0
  let f := feedAddr n 0 0
  clearRange (clearRange s b (b + 0x2000)) f (f + 0x1000)

/-! ### Table errors (R399) -/

/-- The recovery from a table error at a boundary: every Phrase that is not global is freed, the
tables start empty, global Phrases have diverged; a root's allocation state has too, and a worker leaves its system. -/
def tableRecovery (s : State) : State :=
  match s.memint.tableErr with
  | none => s
  | some _ =>
    let s := rebuildTables s
    let keep := (s.phrases.filter (·.isGlobal)).map fun p => { p with diverged := true }
    let held := fun (f pos : Nat) => keep.any fun p => p.works.any fun w => w.frame = f && w.pos = pos
    let drop := fun (b : VerbBank) => match b.wf with
      | some w => if held w.frame w.pos then b else { b with wf := none, delay := none }
      | none => b
    let s := { s with phrases := keep, ended := s.ended.filter (fun e => held e.frame e.pos),
                      alloc := { s.alloc with ops := [], noteStacks := List.replicate 16 [] },
                      memint := { s.memint with tableErr := none, tablesDiverged := true } }
    let s := { s with verbs := s.verbs.map fun x =>
      let y := { x with bankA := drop x.bankA, bankB := drop x.bankB }
      { y with running := y.running && y.cur.wf.isSome, frozen := y.frozen && y.other.wf.isSome } }
    let s := if isRoot s then setFlag s R.linkStat 1 else s
    if isWorker s then upstreamLoss s else s

/-! ### The boundary -/

/-- The window of frame n opens: its steps run as soon as they can. -/
def beginFrame (s : State) (n : Nat) : State :=
  catchUp (retryRepairs { s with time := { s.time with frame := n }, memint := { s.memint with begun := 0 } })

/-- A boundary while rendering is stopped: staged values (none is left, R7), the reference, the fences' time-outs, the changes of domains
and of state; where RUN takes effect, the window of the next frame opens (R13, R19, R168, R445, R447). -/
def idleBoundary (s : State) : State :=
  let s := applyDomains (applyWant (fenceBoundary (clkSelect (applyStaged { s with memint := { s.memint with begun := 0 } }))))
  if s.time.rendering then beginFrame (clearMix s (s.time.frame + 1)) (s.time.frame + 1) else retryRepairs s

/-- The boundary that opens the window of frame n while rendering. The staged values take effect before the outputs take the frame they
play and before the time-outs are looked at (R7, R168, R270). -/
def openWindow (s : State) (n : Nat) : State :=
  let s := catchUp { s with time := { s.time with take := max s.time.take (n - 1) } }
  let s := clkSelect (applyStaged s)
  let s := playFrame (deadlines s n) n
  let s := fenceBoundary (clearMix s n)
  let s := tableRecovery s
  let s := applyDomains (applyWant (stopForEntry s))
  if s.time.rendering then beginFrame s n else s

/-- FRAME_BOUNDARY: a frame boundary is reached (R132). There is none before a boot has ended or in SLEEP and OFF. -/
def execFrameBoundary (s : State) : Host.Outcome State Fault Refusal :=
  if !s.time.rendering then .next (if s.boot.complete && !asleep s then idleBoundary s else s)
  else
    let s := selfEpoch s
    .next (openWindow s (s.time.frame + 1))

end Sys2Proof.Machine
end

