-- ==== Sys2Proof/Machine/Ed25519.lean ====
section
/-! DEFINITION. The check of an Ed25519 signature (R424), which the spec leaves to RFC 8032 (log 6). -/

namespace Sys2Proof.Machine

/-- The prime of the field. -/
def edPrime : Nat := 2 ^ 255 - 19

/-- The order of the base point. -/
def edOrder : Nat := 2 ^ 252 + 27742317777372353535851937790883648493

/-- A difference in the field. -/
def edSub (a b : Nat) : Nat := (a + edPrime - b % edPrime) % edPrime

/-- The lowest n bits of an exponent, as powers in the field: base^e. -/
def edPow : Nat → Nat → Nat → Nat
  | 0, _, _ => 1
  | n + 1, b, e => (if e % 2 = 1 then b else 1) * edPow n (b * b % edPrime) (e / 2) % edPrime

/-- The inverse in the field. -/
def edInv (a : Nat) : Nat := edPow 255 (a % edPrime) (edPrime - 2)

/-- The constant d of the curve -x² + y² = 1 + d x² y²: -121665 / 121666. -/
def edD : Nat := edSub 0 (121665 * edInv 121666)

/-- A point in projective coordinates x = X / Z, y = Y / Z. -/
structure EdPoint where
  x : Nat
  y : Nat
  z : Nat

/-- The neutral point. -/
def edZero : EdPoint := ⟨0, 1, 1⟩

/-- The sum of two points, by the law of the curve, which holds for every pair of them. -/
def edAdd (p q : EdPoint) : EdPoint :=
  let c := p.x * q.x % edPrime
  let e := p.y * q.y % edPrime
  let a := p.z * q.z % edPrime
  let k := edD * (c * e % edPrime) % edPrime
  let b := a * a % edPrime
  let cross := edSub ((p.x + p.y) * (q.x + q.y) % edPrime) (c + e)
  ⟨a * (edSub b k * cross % edPrime) % edPrime, a * ((b + k) * (e + c) % edPrime) % edPrime, edSub b k * (b + k) % edPrime⟩

/-- A multiple of a point, by the lowest n bits of the factor. -/
def edMul : Nat → Nat → EdPoint → EdPoint
  | 0, _, _ => edZero
  | n + 1, k, p =>
    let rest := edMul n (k / 2) (edAdd p p)
    if k % 2 = 1 then edAdd p rest else rest

/-- Are two points the same. -/
def edSame (p q : EdPoint) : Bool :=
  p.x * q.z % edPrime = q.x * p.z % edPrime && p.y * q.z % edPrime = q.y * p.z % edPrime

/-- A root of u / v in the field, where there is one. -/
def edRoot (u v : Nat) : Option Nat :=
  let r := u * v ^ 3 % edPrime * edPow 255 (u * v ^ 7 % edPrime) ((edPrime - 5) / 8) % edPrime
  if v * r ^ 2 % edPrime = u then some r
  else if v * r ^ 2 % edPrime = edSub 0 u then some (r * edPow 255 2 ((edPrime - 1) / 4) % edPrime)
  else none

/-- The point that 32 bytes encode: y, and in the top bit the lowest bit of x. -/
def edDecode (bs : List Byte) : Option EdPoint :=
  let n := leNat bs
  let y := n % 2 ^ 255
  let odd := n / 2 ^ 255
  if edPrime ≤ y then none
  else match edRoot (edSub (y * y) 1) ((edD * (y * y) + 1) % edPrime) with
    | none => none
    | some x =>
      if x = 0 ∧ odd = 1 then none else some ⟨if x % 2 = odd then x else edSub 0 x, y, 1⟩

/-- The base point: y = 4 / 5, with x even. -/
def edBase : Option EdPoint := edDecode (leBytes 32 (4 * edInv 5 % edPrime))

/-- Is a signature valid for a message under a public key: [8][S]B = [8]R + [8][k]A (RFC 8032, 5.1.7). -/
def ed25519Valid (key message signature : List Byte) : Bool :=
  let r := signature.take 32
  let s := leNat (signature.drop 32)
  let k := leNat (sha2 sha512Form (r ++ key ++ message)) % edOrder
  match edBase, edDecode key, edDecode r with
  | some b, some a, some q => s < edOrder && edSame (edMul 256 (8 * s) b) (edAdd (edMul 4 8 q) (edMul 256 (8 * k) a))
  | _, _, _ => false

end Sys2Proof.Machine
end

