-- ==== Sys2Proof/Machine/VerbExec.lean ====
section
/-! DEFINITION. The commands of the Verbs and the Parser: the instructions a Verb issues (R84 to R117), results that arrive, cost and
watchdog (R127), halts and breakpoints (R479 to R481), dispatch, pre-emption, migration and the send barrier (R118, R135, R141 to
R145). -/

namespace Sys2Proof.Machine

/-! ### Halts (R479) -/

/-- The debug functions are closed for good: DBG_LOCK is blown (R482, R484). -/
def dbgLocked (s : State) : Bool := rd s R.fuseWord ≠ 0

/-- VDBG.VWFn describes the Word-frame in the bank of a Verb that halts (R479). -/
def showFrozen (s : State) (v : Nat) : State :=
  match (bankOfVerb s v).wf with
  | some w => wr s (R.vdbgVwf + 0x40 * v) (w32 (traceSlot w.pos + w.widx * 65536))
  | none => wr s (R.vdbgVwf + 0x40 * v) 0

/-- A Verb halts with a cause: 1 request, 2 step, 3 breakpoint k. -/
def haltVerb (s : State) (v cause k : Nat) : State :=
  let s := setFlag s (R.vdbgVctl + 0x40 * v) 0
  showFrozen (onVerb s v fun x => { x with halted := true, haltCause := cause, haltBp := k, haltPending := false }) v

/-- The enabled breakpoint that matches the instruction about to issue on a Verb (R479). -/
def matchingBp (s : State) (v : Nat) : Option Nat :=
  let x := verbOf s v
  match x.cur.wf with
  | none => none
  | some w =>
    if x.bpSkip || dbgLocked s then none
    else (List.range 4).find? fun k =>
      let b := rd s (R.vdbgVbp0 + 0x40 * v + 4 * k)
      bitOf b 31 && bits b 12 0 = x.cur.pc && (!bitOf b 30 || bits b 26 16 = traceSlot w.pos)

/-! ### Issue -/

/-- A running Verb issues one instruction, or halts before it at a breakpoint (R479); a Word-frame that ends may let the Parser's steps
go on (R162). -/
def runInstr (s : State) (v : Nat) (i : VInstr) : State :=
  if !(verbOf s v).running || (verbOf s v).halted then s
  else match matchingBp s v with
    | some k => haltVerb s v 3 k
    | none => catchUp (issue (onVerb s v fun x => { x with bpSkip := false }) v i)

/-- PAR: two arithmetic fields and two moves (R111, R112). -/
def execPar (v : Fin 16) (a b : ArithField) (x y : MoveField) (s : State) : Host.Outcome State Fault Refusal :=
  .next (runInstr s v (.par a b x y))

/-- IMM: a register takes a 32-bit value (R111). -/
def execImm (v : Fin 16) (dst : BitVec 6) (value : Word) (s : State) : Host.Outcome State Fault Refusal :=
  .next (runInstr s v (.imm dst value))

/-- ALUI: one arithmetic field with an immediate operand (R111). -/
def execAlui (v : Fin 16) (a : ArithField) (value : Word) (s : State) : Host.Outcome State Fault Refusal :=
  .next (runInstr s v (.alui a value))

/-- REGMOVE: a register takes the value of another (R111, R114). -/
def execRegmove (v : Fin 16) (dst src : BitVec 6) (x y : MoveField) (s : State) : Host.Outcome State Fault Refusal :=
  .next (runInstr s v (.regmove dst src x y))

/-- CTRL_NONE: a control word with operation none (R115). -/
def execCtrlNone (v : Fin 16) (s : State) : Host.Outcome State Fault Refusal := .next (runInstr s v .ctrlNone)

/-- JMP (R100, R115). -/
def execJmp (v : Fin 16) (cond : BitVec 4) (target : BitVec 13) (s : State) : Host.Outcome State Fault Refusal :=
  .next (runInstr s v (.jmp cond target))

/-- CALL (R100, R101, R115). -/
def execCall (v : Fin 16) (cond : BitVec 4) (target : BitVec 13) (s : State) : Host.Outcome State Fault Refusal :=
  .next (runInstr s v (.call cond target))

/-- RET (R100, R101, R115). -/
def execRet (v : Fin 16) (s : State) : Host.Outcome State Fault Refusal := .next (runInstr s v .ret)

/-- REP (R102, R115). -/
def execRep (v : Fin 16) (counter : BitVec 2) (count : BitVec 16) (last : BitVec 13) (s : State) : Host.Outcome State Fault Refusal :=
  .next (runInstr s v (.rep counter count last))

/-- REPD (R102, R115). -/
def execRepd (v : Fin 16) (counter : BitVec 2) (dreg : BitVec 4) (last : BitVec 13) (s : State) : Host.Outcome State Fault Refusal :=
  .next (runInstr s v (.repd counter dreg last))

/-- YIELD: after its two delay slots the Word-frame ends (R100, R125). -/
def execYield (v : Fin 16) (s : State) : Host.Outcome State Fault Refusal := .next (runInstr s v .yield)

/-- EXP2F (R106, R116). -/
def execExp2f (v : Fin 16) (dst src : BitVec 4) (x y : MoveField) (s : State) : Host.Outcome State Fault Refusal :=
  .next (runInstr s v (.exp2f dst src x y))

/-- LOG2F (R106, R116). -/
def execLog2f (v : Fin 16) (dst src : BitVec 4) (x y : MoveField) (s : State) : Host.Outcome State Fault Refusal :=
  .next (runInstr s v (.log2f dst src x y))

/-- PINC (R106, R116). -/
def execPinc (v : Fin 16) (dst src : BitVec 4) (x y : MoveField) (s : State) : Host.Outcome State Fault Refusal :=
  .next (runInstr s v (.pinc dst src x y))

/-- TIP: a table-interpolation request (R107, R116). -/
def execTip (v : Fin 16) (posPair cfg : BitVec 4) (x y : MoveField) (s : State) : Host.Outcome State Fault Refusal :=
  .next (runInstr s v (.tip posPair cfg x y))

/-- TGET: the oldest table result is popped (R107, R116). -/
def execTget (v : Fin 16) (dst : BitVec 4) (x y : MoveField) (s : State) : Host.Outcome State Fault Refusal :=
  .next (runInstr s v (.tget dst x y))

/-- MIXADD: a send to a bus (R109, R116). -/
def execMixadd (v : Fin 16) (val busIdx : BitVec 4) (x y : MoveField) (s : State) : Host.Outcome State Fault Refusal :=
  .next (runInstr s v (.mixadd val busIdx x y))

/-- MIXADD2: a send of a pair to two buses (R109, R116). -/
def execMixadd2 (v : Fin 16) (valPair busIdx : BitVec 4) (x y : MoveField) (s : State) : Host.Outcome State Fault Refusal :=
  .next (runInstr s v (.mixadd2 valPair busIdx x y))

/-- EVPOST: an event packet is posted (R110, R116). -/
def execEvpost (v : Fin 16) (src : BitVec 4) (x y : MoveField) (s : State) : Host.Outcome State Fault Refusal :=
  .next (runInstr s v (.evpost src x y))

/-! ### Results that arrive -/

/-- EXPLOG_RESULT: the oldest result of the exponential and logarithm unit goes into its registers, 6 cycles after its operation issued and
no earlier (R104, R106). -/
def execExplogResult (v : Fin 16) (s : State) : Host.Outcome State Fault Refusal :=
  let o := awaiting s v fun b => !b.units.isEmpty
  match (bankAt s v o).units with
  | u :: _ =>
    if u.issued + 6 ≤ (bankAt s v o).cycles then .next (setBankAt s v o (deliverUnit (bankAt s v o) u)) else .next s
  | [] => .next s

/-- TABLE_RESULT: the oldest table request still awaited gets its results (R107, R108). -/
def execTableResult (v : Fin 16) (s : State) : Host.Outcome State Fault Refusal :=
  .next (deliverTable s v (awaiting s v fun b => b.table.any fun r => r.results.isNone))

/-- SHARED_LOAD_RESULT: the oldest shared load under way arrives (R88, R160). -/
def execSharedLoadResult (v : Fin 16) (s : State) : Host.Outcome State Fault Refusal :=
  .next (deliverLoad s v (awaiting s v fun b => !b.loads.isEmpty))

/-! ### Cost and watchdog (R127) -/

/-- Does Verb v run a Word-frame. -/
def runsFrame (s : State) (v : Nat) : Bool := (verbOf s v).running && !(verbOf s v).halted

/-- COST_EXCEEDED: the count of the Word-frame on a Verb has reached COST + 1 (R127). -/
def execCostExceeded (v : Fin 16) (s : State) : Host.Outcome State Fault Refusal :=
  .next (if runsFrame s v then overCheck s v else s)

/-- WATCHDOG_FAULT: the count of the Word-frame on a Verb has reached 2 × COST + 1,024 (R127, R128). -/
def execWatchdogFault (v : Fin 16) (s : State) : Host.Outcome State Fault Refusal :=
  if runsFrame s v && watchdogDue s v then .next (catchUp (abortFrame (overCheck s v) v 5)) else .next s

/-! ### The Parser -/

/-- WORD_FRAME_DISPATCH: the head of a Verb's ready list is loaded into its free bank (R118, R141, R147). -/
def execWordFrameDispatch (v : Fin 16) (s : State) : Host.Outcome State Fault Refusal :=
  .next (if s.time.rendering then dispatch s v else s)

/-- PREEMPTION: the running Word-frame of a Verb gives way to an older one that has just become ready (R119, R142); elapsed is the
number of Verb cycles of the open window so far. -/
def execPreemption (v : Fin 16) (elapsed : BitVec 20) (s : State) : Host.Outcome State Fault Refusal :=
  .next (if s.time.rendering then preempt s v elapsed.toNat else s)

/-- MIGRATION_CHECK: the Parser tests every enabled Verb, every 4,096 Verb cycles of the window (R143, R144). -/
def execMigrationCheck (elapsed : BitVec 20) (s : State) : Host.Outcome State Fault Refusal :=
  .next (if s.time.rendering ∧ elapsed.toNat % 4096 = 0 then (List.range 16).foldl (fun t v => checkVerb t elapsed.toNat v) s else s)

/-- PHRASE_MIGRATE: a marked Phrase begins to move (R145). -/
def execPhraseMigrate (pos : BitVec 12) (s : State) : Host.Outcome State Fault Refusal := .next (startMove s pos.toNat)

/-- STATE_COPY_DONE: the copy of a moving Phrase's state is complete (R44, R145). -/
def execStateCopyDone (pos : BitVec 12) (s : State) : Host.Outcome State Fault Refusal := .next (finishMove s pos.toNat)

/-- SEND_BARRIER: every non-global Word-frame of the frame has yielded and every mix queue has drained (R135, R269). -/
def execSendBarrier (s : State) : Host.Outcome State Fault Refusal := .next (if s.time.rendering then trySendBarrier s else s)

/-! ### Halt, resume, step (R479 to R482) -/

/-- A halt is requested: at once, or with HMODE 1 once the Word-frame that runs has ended (R479). -/
def requestHalt (s : State) (v : Nat) (atYield : Bool) : State :=
  let s := setFlag s (R.vdbgVctl + 0x40 * v) 0
  if (verbOf s v).halted then s
  else if atYield && (verbOf s v).running then onVerb s v fun x => { x with haltPending := true }
  else haltVerb s v 1 0

/-- A halt ends (R479, R480): an abandoned Word-frame is discarded and the Verb turns to its other bank; the instruction at a
breakpoint issues without matching again. -/
def resumeVerb (s : State) (v : Nat) : State :=
  let s := clrFlag s (R.vdbgVctl + 0x40 * v) 0
  let x := verbOf s v
  if !x.halted then onVerb s v fun y => { y with haltPending := false }
  else
    let s := onVerb s v fun y =>
      let z := { y with halted := false, haltCause := 0, haltBp := 0, abandoned := false, bpSkip := decide (y.haltCause = 3) }
      if z.running && z.cur.wf.isSome then z else if z.running || z.waits then turnBank s z else z
    let s := noteFirst s v
    clrFlag s (R.vdbgVwf + 0x40 * v) 31

/-- The instruction a Verb is about to issue, from its program memory (R111), and whether the word is poisoned; a corrected fetch takes a
cycle more (R105). -/
def fetchInstr (s : State) (v : Nat) : State × VInstr × Bool :=
  let (s, d, bad, n) := memLoad s (16 + v) (localAddr v (8 * (bankOfVerb s v).pc)) 8
  (spend s v ((bankOfVerb s v).cycles + n), decodeVerb d, bad)

/-- One instruction of a halted Verb issues, and it halts again with cause 2 (R479). -/
def stepVerb (s : State) (v : Nat) : State :=
  let x := verbOf s v
  if !x.halted || !x.running then refuse s (R.vdbgVctl + 0x40 * v) false
  else if x.abandoned then s
  else
    let r := fetchInstr s v
    let s := overCheck r.1 v
    let s := if watchdogDue s v then abortFrame s v 5 else if r.2.2 then abortFrame s v 7 else issueAlways s v r.2.1
    catchUp (haltVerb s v 2 0)

/-- Every halt, step and breakpoint ends, on a reset, a reload and a wake (R482). -/
def clearDebug (s : State) : State :=
  let s := { s with regs := s.regs.filter fun r => !(R.vdbgPage ≤ r.1 && r.1 < R.vdbgPage + 0x400 && r.1 % 0x40 ≠ 0x20) }
  { s with verbs := s.verbs.map fun x =>
      { x with halted := false, haltCause := 0, haltBp := 0, haltPending := false, abandoned := false, bpSkip := false } }

end Sys2Proof.Machine
end

