-- ==== Sys2Proof/Machine/Fuse.lean ====
section
/-! DEFINITION. The fuses (R484 to R486): the shadow, programming a word, verification and the locks. -/

namespace Sys2Proof.Machine

/-- FUSE.WORDw: the shadow. -/
def fuseWord (s : State) (w : Nat) : Word := rd s (R.fuseWord + 4 * w)

/-- FUSE.PERR of a word. -/
def fuseErr (s : State) (w : Nat) : Bool := flag s R.fusePerr w

/-- IMG_AUTH and TRACE_LOCK (Table 4). -/
def imgAuth (s : State) : Bool := fuseWord s 1 ≠ 0
def traceLocked (s : State) : Bool := fuseWord s 2 ≠ 0

/-- One word is copied into the shadow; where its parity fails it reads as blown, with its bit in PERR (R484). -/
def readFuse (s : State) (w : Nat) : State :=
  let (d, p) := nth s.fuse.blown w (0, false)
  if oddOnes d = p then wr s (R.fuseWord + 4 * w) d
  else raiseGloss (setFlag (wr s (R.fuseWord + 4 * w) 0xFFFFFFFF) R.fusePerr w) 0x1105 (w32 w) 0 0

/-- Boot step 4: every word (R416, R484). -/
def readFuses (s : State) : State := (List.range 16).foldl readFuse (wrFld s R.fusePerr 15 0 0)

/-! ### Programming (R485) -/

/-- FUSE.PSTAT takes a result: DONE, and FUSE in IRQSTAT where DONE rises (R32). -/
def fuseResult (s : State) (r : Nat) : State :=
  let s := wrFld s R.fusePstat 3 0 r
  if flag s R.fusePstat 31 then s else raiseIrq (setFlag s R.fusePstat 31) 16

/-- Why a word cannot be programmed now: results 1 to 4 of R485. -/
def fuseObstacle (s : State) (w : Nat) : Option Nat :=
  let keys := (List.range 8).map (· + 6)
  if devState s ≠ 1 ∧ ¬ flag s R.nvmBoot 31 then some 1
  else if flag s R.pwrStat 5 ∨ fld s R.pwrVin 15 0 < 5000 then some 2
  else if fuseWord s w ≠ 0 ∨ fuseErr s w ∨ w = 3 ∨ 14 ≤ w ∨ w = 4 ∨ w = 5 ∨ (keys.contains w ∧ imgAuth s) then some 3
  else if w = 1 ∧ ((keys.all fun k => fuseWord s k = 0) ∨ keys.any (fuseErr s)) then some 4
  else none

/-- FUSE.PCTL is written with its key (R485): a result, or the word is being programmed and BUSY reads 1. -/
def fuseProgram (s : State) (w : Nat) : State :=
  match fuseObstacle s w with
  | some r => fuseResult s r
  | none =>
    let s := setFlag (setFlag (clrFlag s R.fusePstat 31) R.fusePstat 30) R.pwrStat 3
    { s with fuse := { s.fuse with prog := some (w, rd s R.fusePdata) } }

/-- Every halted Verb resumes, as DBG_LOCK is blown (R482). -/
def resumeAll (s : State) : State :=
  (List.range 16).foldl (fun t v => if (verbOf t v).halted ∨ (verbOf t v).haltPending then resumeVerb t v else t) s

/-- FUSE_VERIFY: programming has ended and the word, with what is now blown of it, is verified: the fuses that were meant to be blown,
parity included, and no other; a fuse that was blown stays blown (R486). -/
def execFuseVerify (blown : BitVec 32) (parity : Bool) (s : State) : Host.Outcome State Fault Refusal :=
  match s.fuse.prog with
  | none => .next s
  | some (w, d) =>
    let old := nth s.fuse.blown w (0, false)
    let s := { s with fuse := { blown := s.fuse.blown.set w (old.1 ||| blown, old.2 || parity), prog := none } }
    let s := clrFlag (clrFlag s R.fusePstat 30) R.pwrStat 3
    if blown = d ∧ parity = oddOnes d then
      let s := wr s (R.fuseWord + 4 * w) d
      .next (fuseResult (if w = 0 then resumeAll s else s) 0)
    else .next (fuseResult s 5)

end Sys2Proof.Machine
end

