-- ==== Sys2Proof/Machine/ImageSyntax.lean ====
section
/-! DEFINITION. What boot makes of the VERB and SYNTAX sections (R58, R59, R123, R130, R131) and of the feeds (R267). -/

namespace Sys2Proof.Machine

/-! ### Custom Word declarations (R130, R131) -/

/-- A list of field checks, in order of offset: the offset, the end of the field, whether it holds. The answer is the first that
fails, or that reaches beyond the bytes present. -/
def firstFailing (len : Nat) : List (Nat × Nat × Bool) → Option Nat
  | [] => none
  | (off, size, ok) :: rest => if len < off + size ∨ !ok then some off else firstFailing len rest

/-- The checks of one declaration record (R131), given the types accepted so far. -/
def declChecks (bs : List Byte) (taken : List Nat) : List (Nat × Nat × Bool) :=
  let f := fieldAt bs
  [(0, 2, 0x8000 ≤ f 0 2 && !taken.contains (f 0 2)), (2, 1, f 2 1 ≤ 16), (3, 1, f 3 1 ≤ 8), (4, 1, f 4 1 ≤ 8),
   (5, 1, f 5 1 < 2), (6, 2, f 6 2 % 8 = 0), (8, 2, f 8 2 % 8 = 0), (0xA, 1, true), (0xB, 1, true),
   (0xC, 4, f 0xC 4 % 8 = 0 && f 0xC 4 < 0x10000), (0x10, 4, 6 ≤ f 0x10 4), (0x14, 12, f 0x14 12 = 0)] ++
  (List.range (min 16 (f 2 1))).map fun i =>
    let d := f (0x20 + 2 * i) 2
    (0x20 + 2 * i, 2, decide (d % 16 ≤ 6) && decide (d / 16 % 8 ≤ 4) && decide (d < 256))

/-- A declaration of its bytes. -/
def declOf (bs : List Byte) : WordDecl :=
  let f := fieldAt bs
  { typ := f 0 2, npar := f 2 1, nin := f 3 1, nout := f 4 1, isGlobal := f 5 1 % 2 = 1, xstate := f 6 2, ystate := f 8 2,
    inkind := f 0xA 1, outkind := f 0xB 1, entry := f 0xC 4, cost := f 0x10 4,
    params := (List.range (f 2 1)).map fun i => f (0x20 + 2 * i) 2 }

/-- The declarations of a VERB payload in order (R131): one that fails is dropped and logged; one that reaches past the payload
ends the reading. -/
def readDecls : Nat → List Byte → State → State
  | 0, _, s => s
  | n + 1, bs, s =>
    let size := 32 + 2 * fieldAt bs 2 1
    match firstFailing bs.length (declChecks bs (s.decls.map (·.typ))) with
    | none => readDecls n (bs.drop size) { s with decls := s.decls ++ [declOf bs] }
    | some off =>
      let typ := if bs.length < 2 then 0xFFFFFFFF else fieldAt bs 0 2
      let s := raiseGloss s 0x1220 (w32 typ) (w32 off) 0
      if bs.length < size ∨ bs.length < 32 then s else readDecls n (bs.drop size) s

/-- The declarations of the VERB section (R426). -/
def applyDecls (s : State) (verb : List Byte) : State :=
  readDecls (fieldAt verb 4 2) (verb.drop (8 + fieldAt verb 0 4)) { s with decls := [] }

/-! ### Syntax records (R58, R59) -/

/-- A record of its bytes: header, Words, edges, parameters. -/
def synRecord (bs : List Byte) : Syntax :=
  let f := fieldAt bs
  let nw := f 1 1
  let ne := f 2 2
  let w := fun i off n => f (64 + 16 * i + off) n
  let e := fun i off n => f (64 + 16 * nw + 8 * i + off) n
  let q := fun i off n => f (64 + 16 * nw + 8 * ne + 8 * i + off) n
  { sid := f 0 1, isGlobal := f 6 2 % 2 = 1, cost := f 8 4, xsize := f 0xC 2, ysize := f 0xE 2,
    ends := (List.range 4).filterMap fun i => if f (0x10 + i) 1 = 0xFF then none else some (f (0x10 + i) 1),
    words := (List.range nw).map fun i =>
      { typ := w i 0 2, xoff := w i 2 2, yoff := w i 4 2, pbase := w i 6 2, npar := w i 8 1, nin := w i 9 1, nout := w i 0xA 1,
        cost := w i 0xC 4 },
    edges := (List.range ne).map fun i =>
      { srcw := e i 0 1, srcp := e i 1 1, dstw := e i 2 1, dstp := e i 3 1, kind := e i 4 1 % 16, doff := e i 6 2 },
    params := (List.range (f 4 2)).map fun i =>
      { dflt := w32 (q i 0 4), fmt := q i 4 1 % 16, bind := q i 4 1 / 16 % 4, psample := q i 5 1 % 2 = 1, smooth := q i 6 2 },
    slots := [], nslots := 0 }

/-- The first index of a list that fails a test. -/
def firstBad {α : Type} (l : List α) (ok : Nat → α → Bool) : Option Nat :=
  ((List.range l.length).zip l).findSome? fun (i, x) => if ok i x then none else some i

/-- The type of a Word in a Syntax: a type for global Syntaxes alone is undefined elsewhere (R61, R130). -/
def synType (s : State) (x : Syntax) (w : SynWord) : Option WordType :=
  match wordType s.decls w.typ with
  | some t => if t.globalOnly && !x.isGlobal then none else some t
  | none => none

/-- Check 4 of a Word: type, counts, its place in the parameter table, no parameter shared with a lower Word. -/
def wordOk (s : State) (x : Syntax) (i : Nat) (w : SynWord) : Bool :=
  match synType s x w with
  | none => false
  | some t =>
    w.npar ≤ t.fmts.length && w.nin ≤ t.ins.length && w.nout ≤ t.outs.length && w.pbase + w.npar ≤ x.params.length &&
      (x.words.take i).all fun v => w.npar = 0 || v.npar = 0 || v.pbase + v.npar ≤ w.pbase || w.pbase + w.npar ≤ v.pbase

/-- The port kind of an output: 0 audio, 1 control, 2 sync. -/
def outKind (s : State) (x : Syntax) (w p : Nat) : Option Nat :=
  match x.words[w]? with
  | none => none
  | some sw => if p < sw.nout then (synType s x sw).bind fun t => t.outs[p]? else none

/-- The port kind of an input. -/
def inKind (s : State) (x : Syntax) (w p : Nat) : Option Nat :=
  match x.words[w]? with
  | none => none
  | some sw => if p < sw.nin then (synType s x sw).bind fun t => t.ins[p]? else none

/-- Does a Word have a parameter. -/
def hasParam (x : Syntax) (w i : Nat) : Bool := match x.words[w]? with | some sw => i < sw.npar | none => false

/-- Check 7 of an edge (R34, Table 1). -/
def edgeOk (s : State) (x : Syntax) (e : SynEdge) : Bool :=
  let src := outKind s x e.srcw e.srcp
  let toIn := fun k => src = some k && e.dstp < 8 && inKind s x e.dstw e.dstp = some k
  let toPar := fun k => src = some k && 0x10 ≤ e.dstp && e.dstp < 0x20 && hasParam x e.dstw (e.dstp - 0x10)
  match e.kind with
  | 0 => toIn 0 && e.doff = 0
  | 1 => toIn 1 && e.doff = 0
  | 2 => toPar 1 && e.doff = 0
  | 3 => toPar 0 && e.doff = 0
  | 4 => toIn 2 && e.doff = 0
  | 8 => toIn 0
  | 9 => toIn 1
  | _ => false

/-- Check 10 of an edge: the parameter of a MOD_SAMPLE edge takes samples and is interpolated. -/
def modOk (x : Syntax) (e : SynEdge) : Bool :=
  e.kind ≠ 3 || match x.words[e.dstw]? with
    | none => false
    | some w => match x.params[w.pbase + (e.dstp - 0x10)]? with
      | some q => q.psample && q.fmt < 4
      | none => false

/-- Check 11 of a parameter: its format is its type's, and its binding is allowed (Table 4). One that no Word owns with an undefined format
fails check 11 too (DESIGN CHOICE, log 148: Table 15 names only the type's definition). -/
def paramOk (s : State) (x : Syntax) (i : Nat) (q : SynParam) : Bool :=
  let bindOk := match q.bind with | 0 => true | 1 => q.fmt = 1 | _ => q.fmt = 0
  let fmtOk := match paramOwner x i with
    | none => q.fmt ≤ 6
    | some (w, k) => match x.words[w]? with
      | some sw => (match synType s x sw with | some t => t.fmts[k]? = some q.fmt | none => false)
      | none => false
  bindOk && fmtOk

/-- The regions of the X part: the Words' state. -/
def xRegions (s : State) (x : Syntax) : List (Nat × Nat) :=
  x.words.map fun w => (w.xoff, match synType s x w with | some t => t.xs | none => 0)

/-- The regions of the Y part: the Words' state. -/
def yRegions (s : State) (x : Syntax) : List (Nat × Nat) :=
  x.words.map fun w => (w.yoff, match synType s x w with | some t => yState t x.params w | none => 0)

/-- Two regions overlap. -/
def regionsMeet (a b : Nat × Nat) : Bool := a.2 ≠ 0 && b.2 ≠ 0 && a.1 < b.1 + b.2 && b.1 < a.1 + a.2

/-- Check 12 of a Word: its state lies in the parts, behind the parameter block, apart from the lower Words'. State over the header or the
event list, which lie before that block, fails it too (DESIGN CHOICE, log 148). -/
def stateOk (s : State) (x : Syntax) (i : Nat) : Bool :=
  let xr := nth (xRegions s x) i (0, 0)
  let yr := nth (yRegions s x) i (0, 0)
  (xr.2 = 0 || (0x140 + 16 * x.params.length ≤ xr.1 && xr.1 + xr.2 ≤ x.xsize)) && (yr.2 = 0 || yr.1 + yr.2 ≤ x.ysize) &&
    ((xRegions s x).take i).all (fun r => !regionsMeet r xr) && ((yRegions s x).take i).all fun r => !regionsMeet r yr

/-- Check 12 of an edge: its held frame lies in the Y part, apart from every Word's state and from the held frames of the lower
edges, but for those of the same port and offset. -/
def heldOk (s : State) (x : Syntax) (i : Nat) (e : SynEdge) : Bool :=
  e.kind < 8 ||
    (e.doff + 64 ≤ x.ysize && (yRegions s x).all (fun r => !regionsMeet r (e.doff, 64)) &&
      (x.edges.take i).all fun f => f.kind < 8 || (f.srcw = e.srcw && f.srcp = e.srcp && f.doff = e.doff) ||
        !regionsMeet (f.doff, 64) (e.doff, 64))

/-- Check 13: every reserved field of the record's bytes is 0. -/
def reservedZero (bs : List Byte) : Bool :=
  let f := fieldAt bs
  let nw := f 1 1
  let ne := f 2 2
  f 6 2 < 2 && f 0x14 12 = 0 && f 0x30 16 = 0 &&
    (List.range nw).all (fun i => f (64 + 16 * i + 0xB) 1 = 0) &&
    (List.range ne).all (fun i => f (64 + 16 * nw + 8 * i + 4) 1 < 16 && f (64 + 16 * nw + 8 * i + 5) 1 = 0) &&
    (List.range (f 4 2)).all fun i =>
      f (64 + 16 * nw + 8 * ne + 8 * i + 4) 1 < 64 && f (64 + 16 * nw + 8 * ne + 8 * i + 5) 1 < 2

/-- The first failed check of a record past its directory entry: reason and offending index (Table 15). -/
def recordCheck (s : State) (dir : Nat) (bs : List Byte) : Option (Nat × Nat) :=
  let x := synRecord bs
  let f := fieldAt bs
  let sizes := 1 ≤ f 1 1 && f 1 1 ≤ 64 && f 2 2 ≤ 1024 && f 4 2 ≤ 1024 && x.xsize % 64 = 0 && x.ysize % 64 = 0 &&
    0x140 + 16 * f 4 2 ≤ x.xsize && x.xsize + x.ysize ≤ 16384
  let e := fun (r : Nat) (o : Option Nat) => o.map fun i => (r, i)
  (if s.syns.any fun y => y.sid = x.sid then some (2, dir) else none) <|>
  (if sizes then none else some (3, 0)) <|>
  e 4 (firstBad x.words (wordOk s x)) <|>
  e 5 (firstBad x.words fun _ w => match synType s x w with | some t => t.cost ≤ w.cost | none => false) <|>
  (if x.cost = (x.words.map (·.cost)).sum then none else some (5, 0xFFFF)) <|>
  (if x.ends.all (· < x.words.length) then none else some (6, 0)) <|>
  e 7 (firstBad x.edges fun _ d => edgeOk s x d) <|>
  e 8 (firstBad x.edges fun i d => 0x10 ≤ d.dstp || (x.edges.take i).all fun g => g.dstw ≠ d.dstw || g.dstp ≠ d.dstp) <|>
  e 9 (firstBad x.edges fun _ d => 8 ≤ d.kind || d.srcw < d.dstw) <|>
  e 10 (firstBad x.edges fun _ d => modOk x d) <|>
  e 11 (firstBad x.params (paramOk s x)) <|>
  e 12 (firstBad x.words fun i _ => stateOk s x i) <|>
  e 12 (firstBad x.edges (heldOk s x)) <|>
  (if reservedZero bs then none else some (13, 0))

/-! ### Frame-area slots (R123) -/

/-- The Word after which the slot of output q of Word w is free: the end of the frame where a delayed edge takes it. -/
def slotUntil (x : Syntax) (w q : Nat) : Nat :=
  (x.edges.filter fun e => e.srcw = w && e.srcp = q).foldl
    (fun m e => if 8 ≤ e.kind then x.words.length else max m e.dstw) w

/-- The lowest of n adjacent slots that no output in use holds. -/
def lowestSlot (busy : List (Nat × Nat)) (n : Nat) : Nat :=
  ((List.range 512).find? fun k => busy.all fun b => b.1 < k || k + n ≤ b.1).getD 511

/-- How many slots the place of an entry takes: a SYNC output two adjacent ones, any other output and a feed one (R121). -/
def slotsOf (wide : Nat → Bool) (entry : Nat) : Nat := if entry < 512 && wide entry then 2 else 1

/-- Slots for the outputs of a Word, entry 8 w + q for output q of Word w: those in use (slot, last Word), the places so far. -/
def slotWords (x : Syntax) (wide : Nat → Bool) : List Nat → List (Nat × Nat) → List (Nat × Nat) → List (Nat × Nat)
  | [], _, places => places
  | w :: ws, busy, places =>
    let busy := busy.filter fun b => w ≤ b.2
    let nout := match x.words[w]? with | some sw => sw.nout | none => 0
    let (busy, places) := (List.range nout).foldl (fun (acc : List (Nat × Nat) × List (Nat × Nat)) q =>
      let n := slotsOf wide (8 * w + q)
      let k := lowestSlot acc.1 n
      (acc.1 ++ (List.range n).map (fun i => (k + i, slotUntil x w q)), acc.2 ++ [(8 * w + q, k)])) (busy, places)
    slotWords x wide ws busy places

/-- Is entry 8 w + q a SYNC output (R121). -/
def wideEntry (s : State) (x : Syntax) (entry : Nat) : Bool := outKind s x (entry / 8) (entry % 8) = some 2

/-- A Syntax with its slots, feeds held from the start of the frame until the fed Word has yielded (R123, R269): wide tells the SYNC
outputs, fed is the list of feeds, number and Word. -/
def withSlots (x : Syntax) (wide : Nat → Bool) (fed : List (Nat × Nat)) : Syntax :=
  let base := (List.range fed.length).zip fed
  let busy := base.map fun (i, _, w) => (i, w)
  let places := slotWords x wide (List.range x.words.length) busy []
  let all := places ++ base.map fun (i, n, _) => (512 + n, i)
  { x with slots := all.foldl (fun m (k, v) => mapPut m k v) [], nslots := (all.map fun p => p.2 + slotsOf wide p.1).foldl max 0 }

/-! ### The SYNTAX section (R58 to R60) -/

/-- A record is rejected: logged, and shown in ALLOC.SYNINV unless its number is resident. -/
def rejectRecord (s : State) (sid reason index : Nat) : State :=
  let s := raiseGloss s 0x1210 (w32 sid) (w32 reason) (w32 index)
  if sid < 256 ∧ ¬ (s.syns.any fun x => x.sid = sid) then setFlag s (R.allocSyninv + 4 * (sid / 32)) (sid % 32) else s

/-- One directory entry: the record is accepted, or rejected for its first failing reason. -/
def readRecord (payload : List Byte) (s : State) (dir : Nat) : State :=
  let off := fieldAt payload (4 + 8 * dir) 4
  let len := fieldAt payload (8 + 8 * dir) 4
  let bs := (payload.drop off).take len
  let f := fieldAt bs
  if off % 8 ≠ 0 ∨ payload.length < off + len ∨ len < 64 ∨ len ≠ 64 + 16 * f 1 1 + 8 * f 2 2 + 8 * f 4 2 then
    rejectRecord s 0xFFFFFFFF 1 dir
  else match recordCheck s dir bs with
    | some (reason, index) => rejectRecord s (f 0 1) reason index
    | none =>
      let x := withSlots (synRecord bs) (wideEntry s (synRecord bs)) []
      let s := clrFlag (setFlag s (R.allocSynres + 4 * (x.sid / 32)) (x.sid % 32)) (R.allocSyninv + 4 * (x.sid / 32)) (x.sid % 32)
      { s with syns := s.syns ++ [x] }

/-- The SYNTAX section (R59). -/
def applySyntaxes (s : State) (payload : List Byte) : State :=
  let s := (List.range 8).foldl (fun t i => wr (wr t (R.allocSynres + 4 * i) 0) (R.allocSyninv + 4 * i) 0) { s with syns := [] }
  let n := fieldAt payload 0 2
  if n = 0 ∨ 256 < n ∨ payload.length < 4 + 8 * n ∨ payload.length < 4 then
    raiseGloss s 0x1210 0xFFFFFFFF 1 0xFFFF
  else (List.range n).foldl (readRecord payload) s

/-! ### Feeds (R267) -/

/-- WORD and PORT of a feed register (Table 6 of the mixing chapter). -/
def feedTarget (r : Word) : Nat × Nat := (bits r 13 8, bits r 7 5)

/-- The first failing check of feed n, given the feeds that passed: SID, Word, port. -/
def feedCheck (s : State) (n : Nat) (passed : List (Nat × Nat × Nat)) : Option Nat :=
  let r := rd s (R.mixFeed + 4 * n)
  let sid := bits r 23 16
  match (s.syns.find? fun x => x.sid = sid && x.isGlobal) with
  | none => some 1
  | some x =>
    let w := (feedTarget r).1
    let q := (feedTarget r).2
    if x.words.length ≤ w then some 2
    else if inKind s x w q ≠ some 0 then some 3
    else if x.edges.any fun e => e.dstw = w && e.dstp = q then some 4
    else if passed.contains (sid, w, q) then some 5
    else none

/-- The feeds are checked in ascending number (R267). -/
def checkFeeds (s : State) : State :=
  let (s, _) := (List.range 32).foldl (fun (acc : State × List (Nat × Nat × Nat)) n =>
    let (s, passed) := acc
    let r := rd s (R.mixFeed + 4 * n)
    if !bitOf r 31 then acc
    else match feedCheck s n passed with
      | none => (s, passed ++ [(bits r 23 16, (feedTarget r).1, (feedTarget r).2)])
      | some reason =>
        (raiseGloss (clrFlag s (R.mixFeed + 4 * n) 31) 0x1250 (w32 n) (w32 reason) (w32 (bits r 23 16)), passed)) (s, [])
  { s with syns := s.syns.map fun x =>
      if x.isGlobal then
        withSlots x (wideEntry s x) ((idxs 32 fun n => flag s (R.mixFeed + 4 * n) 31 && fld s (R.mixFeed + 4 * n) 23 16 = x.sid).map fun n =>
          (n, (feedTarget (rd s (R.mixFeed + 4 * n))).1))
      else x }

end Sys2Proof.Machine
end

