-- ==== Sys2Proof/Machine/ImageMaps.lean ====
section
/-! DEFINITION. What boot makes of the EVMAP (R221 to R230), WAVE (R427), CAL (R429) and STORE (R430) sections, of a list
section's entries (R425), and of the header (R420, R423). -/

namespace Sys2Proof.Machine

/-- A signed 32-bit field. -/
def sfield (bs : List Byte) (off : Nat) : Int := (w32 (fieldAt bs off 4)).toInt

/-- A signed 16-bit field. -/
def sfield16 (bs : List Byte) (off : Nat) : Int := (BitVec.ofNat 16 (fieldAt bs off 2)).toInt

/-! ### The event map (R221 to R230) -/

/-- Sizes of n tuning records from an offset (R221). -/
def tuningSizes (bs : List Byte) : Nat → Nat → List (Nat × Nat)
  | 0, _ => []
  | n + 1, off =>
    let size := (12 + 4 * fieldAt bs off 1 + 7) / 8 * 8
    (off, size) :: tuningSizes bs n (off + size)

/-- The tables of a map that occupy anything: the field that places each, its start and its size. -/
def mapTables (bs : List Byte) : List (Nat × Nat × Nat) :=
  let f := fieldAt bs
  let tune := ((tuningSizes bs (min 17 (f 0 2)) (f 8 4)).map (·.2)).sum
  (if f 0 2 = 0 then [] else [(8, f 8 4, tune)]) ++ (if f 2 2 = 0 then [] else [(0xC, f 0xC 4, 40 * f 2 2)]) ++
    (if f 4 2 = 0 then [] else [(0x10, f 0x10 4, 24 * f 4 2)]) ++ [(0x20, 0x20, 3328), (0xD20, 0xD20, 64), (0xD60, 0xD60, 128)]

/-- The first table that is misplaced: misaligned, past the payload, or over another one. -/
def badTable (bs : List Byte) : Option Nat :=
  ((mapTables bs).find? fun t =>
    t.2.1 % 8 ≠ 0 || bs.length < t.2.1 + t.2.2 ||
      (mapTables bs).any fun u => u.1 ≠ t.1 && t.2.1 < u.2.1 + u.2.2 && u.2.1 < t.2.1 + t.2.2).map (·.1)

/-- A failure of the whole map (R229, R230): the entry index and the byte offset. -/
def mapFailure (bs : List Byte) : Option (Nat × Nat) :=
  let f := fieldAt bs
  let z := fun o : Option Nat => o.map fun off => ((0 : Nat), off)
  z (if f 0 2 ≤ 16 then none else some 0) <|> z (if f 2 2 ≤ 1024 then none else some 2) <|>
  z (if f 4 2 ≤ 1024 then none else some 4) <|> z (if f 6 2 = 0 then none else some 6) <|>
  z (if bs.length < 32 then some 8 else badTable bs) <|> z (if f 0x14 12 = 0 then none else some 0x14) <|>
  ((List.range 3328).findSome? fun i => let b := f (0x20 + i) 1; if 0x10 ≤ b ∧ b ≠ 0xFF then some (i, 0x20 + i) else none) <|>
  ((List.range 16).findSome? fun i =>
    let at0 := 0xD20 + 4 * i
    if f at0 1 ≠ 0xFF ∧ f 0 2 ≤ f at0 1 then some (i, at0)
    else if f (at0 + 1) 1 ≠ 0 then some (i, at0 + 1)
    else if f (at0 + 2) 2 ≠ 0xFFFF ∧ f 2 2 ≤ f (at0 + 2) 2 then some (i, at0 + 2) else none) <|>
  ((List.range 16).findSome? fun i =>
    let at0 := 0xD60 + 8 * i
    let dest := f at0 1 % 16
    let port := f at0 1 / 16
    if (3 < dest ∧ dest ≠ 15) ∨ (dest = 1 ∧ 7 < port) ∨ (dest = 3 ∧ 3 < port) then some (i, at0)
    else if 2 < f (at0 + 1) 1 then some (i, at0 + 1)
    else if f (at0 + 3) 5 ≠ 0 then some (i, at0 + 3) else none)

/-- A tuning record: its failing field, and what it says (R223, R229). -/
def tuningOfBytes (bs : List Byte) : Option Nat × Tuning :=
  let f := fieldAt bs
  (if f 0 1 = 0 ∨ 128 < f 0 1 then some 0 else if f 1 1 ≠ 0 then some 1 else none,
   { p := f 0 1, root := f 2 2, base := sfield bs 4, interval := sfield bs 8,
     off := (List.range (f 0 1)).map fun i => sfield bs (12 + 4 * i) })

/-- A layer of a program record, and its failing field (R224, R229). -/
def layerOf (bs : List Byte) (j : Nat) (used : Bool) : Option Nat × Layer :=
  let o := 8 + 8 * j
  let f := fun i n => fieldAt bs (o + i) n
  let bad := if !used then ([(0, 1), (1, 1), (2, 1), (3, 1), (4, 2), (6, 2)].find? fun x => f x.1 x.2 ≠ 0).map (o + ·.1)
    else if 128 ≤ f 1 1 then some (o + 1) else if f 3 1 < f 2 1 then some (o + 2) else if f 6 2 < f 4 2 then some (o + 4) else none
  (bad, { sid := f 0 1, pool := f 1 1 % 16, uni := f 1 1 / 16 % 8 + 1, vello := f 2 1, velhi := f 3 1, keylo := f 4 2,
          keyhi := f 6 2 })

/-- A program record (R224, R229). -/
def programOf (bs : List Byte) : Option Nat × Program :=
  let f := fieldAt bs
  let n := f 4 1
  let layers := (List.range 4).map fun j => layerOf bs j (decide (j < n))
  let bad := if 15 < f 0 1 then some 0 else if 127 < f 1 1 then some 1 else if f 2 2 / 0x4000 % 2 = 1 then some 2
    else if n = 0 ∨ 4 < n then some 4 else if f 5 3 ≠ 0 then some 5 else layers.findSome? (·.1)
  (bad, { part := f 0 1, program := f 1 1, bank := f 2 2 % 0x4000, anyBank := 0x8000 ≤ f 2 2,
          layers := (layers.take n).map (·.2) })

/-- Is TARGET within Table 11 for its TTYPE. -/
def targetOk (ttype target : Nat) : Bool :=
  match ttype with
  | 0 | 1 => target < 2 ^ 24
  | 2 => target ≤ 5
  | _ => target < 2 ^ 16

/-- A control record, and its failing field given how many records with HOLD have passed (R225, R229). -/
def controlOf (bs : List Byte) (holds : Nat) : Option Nat × Control :=
  let f := fieldAt bs
  let c : Control :=
    { parts := f 0 2, kind := f 2 1, hold := f 3 1 % 2 = 1, perNote := f 3 1 / 2 % 2 = 1, index := f 4 2, ttype := f 6 1,
      target := f 8 4, lo := w32 (f 0xC 4), hi := w32 (f 0x10 4), smooth := f 0x14 2 }
  let bad := if ¬ [0x03, 0x04, 0x05, 0x0B, 0x0C].contains c.kind then some 2
    else if 4 ≤ f 3 1 ∨ (c.hold ∧ c.perNote) ∨ (c.hold ∧ c.ttype ≠ 0) then some 3
    else if 4 < c.ttype then some 6 else if f 7 1 ≠ 0 then some 7
    else if !targetOk c.ttype c.target then some 8
    else if 4096 < c.smooth ∧ c.smooth ≠ 0xFFFF then some 0x14 else if f 0x16 2 ≠ 0 then some 0x16
    else if c.hold ∧ 64 ≤ holds then some 3 else none
  (bad, c)

/-- A record that fails is dropped and logged (R229). -/
def logMap (s : State) (table index off : Nat) : State := raiseGloss s 0x1230 (w32 table) (w32 index) (w32 off)

/-- The records of a table of fixed size, dropped ones as none. -/
def mapRecords {α : Type} (s : State) (table : Nat) (recs : List (Option Nat × α)) : State × List (Option α) :=
  ((List.range recs.length).zip recs).foldl (fun (acc : State × List (Option α)) (i, bad, x) =>
    match bad with
    | some off => (logMap acc.1 table i off, acc.2 ++ [none])
    | none => (acc.1, acc.2 ++ [some x])) (s, [])

/-- The control records in order, counting those with HOLD that pass. -/
def controlRecords (s : State) (bs : List Byte) (off n : Nat) : State × List (Option Control) :=
  let (s, cs, _) := (List.range n).foldl (fun (acc : State × List (Option Control) × Nat) i =>
    let (s, cs, holds) := acc
    match controlOf ((bs.drop (off + 24 * i)).take 24) holds with
    | (some o, _) => (logMap s 3 i o, cs ++ [none], holds)
    | (none, c) => (s, cs ++ [some c], holds + b2n c.hold)) (s, [], 0)
  (s, cs)

/-- The EVMAP payload (R221 to R230); where it fails as a whole, the empty map of R229. The programs, note stacks and held
values of R224 and R227 start from it. -/
def applyEvmap (s : State) (bs : List Byte) : State :=
  let f := fieldAt bs
  let put := fun (s : State) (m : EvMap) =>
    { s with evt := { s.evt with map := m, held := [],
                                 progs := (List.range 16).map fun i => ((nth m.parts i (0xFF, 0xFFFF)).2, 0) } }
  match mapFailure bs with
  | some (i, off) => put (logMap s 0 i off) {}
  | none =>
    let (s, tunings) := mapRecords s 1 ((tuningSizes bs (f 0 2) (f 8 4)).map fun (o, n) => tuningOfBytes ((bs.drop o).take n))
    let (s, programs) := mapRecords s 2 ((List.range (f 2 2)).map fun i => programOf ((bs.drop (f 0xC 4 + 40 * i)).take 40))
    let (s, controls) := controlRecords s bs (f 0x10 4) (f 4 2)
    put s { chmap := (bs.drop 0x20).take 3328,
            parts := (List.range 16).map fun i => (f (0xD20 + 4 * i) 1, f (0xD22 + 4 * i) 2),
            outs := (List.range 16).map fun i =>
              { dest := f (0xD60 + 8 * i) 1 % 16, port := f (0xD60 + 8 * i) 1 / 16, format := f (0xD61 + 8 * i) 1,
                chan := f (0xD62 + 8 * i) 1 },
            tunings, programs, controls }

/-! ### Waves (R427) -/

/-- A WAVE entry as its fields give it. -/
def waveOf (bs : List Byte) : Wave :=
  let f := fieldAt bs
  { kind := f 0 1, streamed := f 1 1 % 2 = 1, wide := f 1 1 / 2 % 2 = 1, levels := f 2 1, frames := f 4 2, length := f 8 4, rate := f 0xC 4,
    root := w32 (f 0x10 4), lexAddr := f 0x14 4, dataOff := f 0x18 4, head := f 0x1C 4 }

/-- The first field of a WAVE entry, of those before DATAOFF, that is out of range on its own. -/
def waveField (bs : List Byte) : Option Nat :=
  let f := fieldAt bs
  let w := waveOf bs
  if 3 < w.kind then some 0 else if 4 ≤ f 1 1 ∨ (w.streamed ∧ 1 < w.kind) then some 1
  else if (w.kind = 2 ∧ (w.levels = 0 ∨ 8 < w.levels)) ∨ (w.kind ≠ 2 ∧ w.levels ≠ 1) then some 2
  else if f 3 1 ≠ 0 then some 3
  else if (w.kind = 2 ∧ (w.frames = 0 ∨ 256 < w.frames)) ∨ (w.kind ≠ 2 ∧ w.frames ≠ 1) then some 4
  else if f 6 2 ≠ 0 then some 6
  else if (w.kind = 3 ∧ w.length ≠ 1025) ∨ (w.kind = 2 ∧ w.length ≠ 2048) then some 8
  else if w.lexAddr % (if w.wide then 4 else 2) ≠ 0 then some 0x14 else none

/-- HEAD is out of range. -/
def headBad (w : Wave) : Bool := (!w.streamed && w.head ≠ 0) || (w.streamed && w.length < w.head)

/-- The bytes of all the data of a wave. -/
def fullBytes (w : Wave) : Nat := (if w.kind = 2 then 2048 * w.frames * w.levels else w.length) * w.unit

/-- The bytes of a wave that lie in the Lexicon: all of them, or its head (R427). -/
def waveBytes (w : Wave) : Nat := if w.streamed then w.head * w.unit else fullBytes w

/-- Does a wave's data run past the Lexicon, into the stream pool or over another entry's data. -/
def waveMisplaced (w : Wave) (strBase strSize : Nat) (others : List Wave) : Bool :=
  let n := waveBytes w
  0x01000000 < w.lexAddr + n || regionsMeet (w.lexAddr, n) (strBase, strSize) ||
    others.any fun o => regionsMeet (w.lexAddr, n) (o.lexAddr, waveBytes o)

/-- The entry of index i in a WAVE payload. -/
def waveEntry (bs : List Byte) (i : Nat) : List Byte := (bs.drop (12 + 32 * i)).take 32

/-- The entries other than one whose own fields are in range: two that overlap are each dropped (R427, log 146). -/
def otherWaves (bs : List Byte) (n i : Nat) : List Wave :=
  ((List.range n).filter fun j => j ≠ i && (waveField (waveEntry bs j)).isNone && !headBad (waveOf (waveEntry bs j))).map fun j =>
    waveOf (waveEntry bs j)

/-- The first failing field of entry i of a payload of n, in a flash of a capacity. The data of a wave lies behind the directory in the
payload; that of a streamed one in the flash. -/
def waveFailure (bs : List Byte) (capacity n i : Nat) : Option Nat :=
  let e := waveEntry bs i
  let w := waveOf e
  match waveField e with
  | some off => some off
  | none =>
    if waveMisplaced w (fieldAt bs 4 4) (fieldAt bs 8 4) (otherWaves bs n i) then some 0x14
    else if (if w.streamed then capacity < w.dataOff + fullBytes w
        else w.dataOff < 12 + 32 * n ∨ bs.length < w.dataOff + fullBytes w) then some 0x18
    else if headBad w then some 0x1C else none

/-- The WAVE directory: its entries, dropped ones as none; the wave data goes into the Lexicon where load asks for it (R427, R454). -/
def applyWaves (s : State) (bs : List Byte) (load : Bool) : State :=
  let n := min 4096 (fieldAt bs 0 2)
  let (s, ws) := (List.range n).foldl (fun (acc : State × List (Option Wave)) i =>
    let (s, ws) := acc
    let w := waveOf (waveEntry bs i)
    match waveFailure bs (flashSize s) n i with
    | some off => (raiseGloss s 0x1280 (w32 i) (w32 off) 0, ws ++ [none])
    | none => (putBytes s w.lexAddr ((bs.drop w.dataOff).take (if w.streamed || !load then 0 else waveBytes w)), ws ++ [some w])) (s, [])
  { s with image := { s.image with waves := ws, strBase := fieldAt bs 4 4, strSize := fieldAt bs 8 4, pool := [], streams := [] } }

/-- The heads of the streamed waves come from the full data at their flash address (R74, R427). -/
def loadHeads (s : State) : State :=
  (s.image.waves.filterMap id).foldl (fun t w =>
    if w.streamed then putBytes t w.lexAddr (flashBytes t w.dataOff (waveBytes w)) else t) s

/-! ### Calibration (R429) -/

/-- The CAL block for a serial number: the one that names it, else the first that names every device. -/
def calBlock (bs : List Byte) (serial : Nat) : Option (List Byte) :=
  let blocks := (List.range (min (fieldAt bs 0 4) (bs.length / 336))).map fun i => (bs.drop (8 + 336 * i)).take 336
  (blocks.find? fun b => fieldAt b 0 8 = serial) <|> (blocks.find? fun b => fieldAt b 0 8 = 2 ^ 64 - 1)

/-- The factory terms of a block (R279, R294, R307). -/
def calTerms (s : State) (b : List Byte) : State :=
  let dac := ((List.range 16).zip s.analog.dac).map fun (k, d) =>
    { d with tfac := (List.range 3).map fun i => sfield16 b (0x10 + 6 * k + 2 * i), trun := 0 }
  let cv := ((List.range 8).zip s.analog.cv).map fun (k, c) =>
    { c with ofac := (List.range 4).map fun i => sfield16 b (0x70 + 16 * k + 4 * i),
             gfac := (List.range 4).map fun i => sfield16 b (0x72 + 16 * k + 4 * i), orun := 0, grun := 0 }
  let adc := ((List.range 16).zip s.analog.adc).map fun (n, a) =>
    let at0 := fun r => if n < 8 then 0xF0 + 4 * n else 0x110 + 8 * (n - 8) + 4 * r
    { a with ofac := (List.range 2).map fun r => sfield16 b (at0 r), gfac := (List.range 2).map fun r => sfield16 b (at0 r + 2) }
  { s with analog := { s.analog with dac, cv, adc } }

/-- The CAL block is applied (R429), and NOCAL reads 0; without one, as in an image without a CAL section (R421), every term is 0 and NOCAL is set. -/
def applyCal (s : State) (bs : Option (List Byte)) (serial : Nat) : State :=
  let s := { s with boot := { s.boot with calApplied := true } }
  match bs.bind fun b => calBlock b serial with
  | some b => clrFlag (calTerms s b) R.nvmStat 0
  | none => raiseGloss (setFlag (calTerms s []) R.nvmStat 0) 0x1270 (w32 serial) (w32 (serial / 2 ^ 32)) 0

/-! ### The store area (R430) -/

/-- The STORE payload's failing field, given the image's length: without slots nothing reaches past the flash or overlaps the image, and a
flash without SFDP declares no 4 KiB erase (R415, R430). -/
def storeFailure (s : State) (bs : List Byte) (ilen : Nat) : Option Nat :=
  let f := fieldAt bs
  let n := f 0xE 1
  let ks := (List.range n).map fun i => (f (0x20 + 4 * i) 1, f (0x21 + 4 * i) 1)
  let size := (ks.map fun k => 2 * 4096 * k.2).sum
  if f 0 4 % 4096 ≠ 0 ∨ (size ≠ 0 ∧ (f 0 4 < ilen ∨ flashSize s < f 0 4 + size)) then some 0
  else if f 4 4 ≠ 4096 ∨ ¬ (s.flash.sfdp ∧ s.flash.erase4k) then some 4
  else if 17 < n ∨ bs.length < 32 + 4 * n then some 0xE
  else if f 0xF 1 ≠ 0 then some 0xF else if f 0x18 8 ≠ 0 then some 0x18
  else (List.range n).findSome? fun i =>
    let k := nth ks i (0, 0)
    if k.1 = 0 ∨ 0x11 < k.1 ∨ ((ks.take i).any fun j => j.1 = k.1) then some (0x20 + 4 * i)
    else if k.2 = 0 then some (0x21 + 4 * i)
    else if f (0x22 + 4 * i) 2 ≠ 0 then some (0x22 + 4 * i) else none

/-- The STORE section (R430): absent or rejected, as every one is without SFDP (R415), it disables the store area. -/
def applyStore (s : State) (bs : Option (List Byte)) (ilen : Nat) : State :=
  let s := clrFlag { s with nvm := { s.nvm with desc := none } } R.nvmStat 1
  match bs with
  | none => s
  | some bs =>
    let f := fieldAt bs
    match storeFailure s bs ilen with
    | some off => raiseGloss s 0x1290 (w32 off) 0 0
    | none =>
      let d : StoreDesc :=
        { base := f 0 4, hcap := f 8 4, vmin := f 0xC 2, epage := f 0x10 4, ecommit := f 0x14 4,
          kinds := (List.range (f 0xE 1)).map fun i => (f (0x20 + 4 * i) 1, f (0x21 + 4 * i) 1) }
      setFlag { s with nvm := { s.nvm with desc := some d } } R.nvmStat 1

/-! ### Lists (R425) -/

/-- The entries of a DEVICE or WAKE list up to its end entry: none where it has no end, or the end is not the last. -/
def listEntries (bs : List Byte) : Option (List (Nat × Nat × Nat)) :=
  let all := (List.range (bs.length / 12)).map fun i => (fieldAt bs (12 * i) 4, fieldAt bs (12 * i + 4) 4, fieldAt bs (12 * i + 8) 4)
  match all.getLast? with
  | some e => if e.1 % 4 = 3 ∧ all.dropLast.all (fun x => x.1 % 4 ≠ 3) then some all.dropLast else none
  | none => none

/-! ### The header (R420, R423) -/

/-- The section entries: type, offset, length, CRC. -/
def sectionTable (h : List Byte) : List (Nat × Nat × Nat × Nat) :=
  (List.range (fieldAt h 0xD 1)).map fun i =>
    let at0 := 0x40 + 16 * i
    (fieldAt h at0 1, fieldAt h (at0 + 4) 4, fieldAt h (at0 + 8) 4, fieldAt h (at0 + 12) 4)

/-- The first failing field of the section table: its offset. -/
def sectionFailure (h : List Byte) (ilen : Nat) : Option Nat :=
  let es := sectionTable h
  let n := es.length
  if n = 0 ∨ 16 < n then some 0xD
  else
    ((List.range n).findSome? fun i =>
      let at0 := 0x40 + 16 * i
      let (typ, off, len, _) := nth es i (0, 0, 0, 0)
      let prev := if i = 0 then 0x200 else match es[i - 1]? with | some e => e.2.1 + e.2.2.1 | none => 0x200
      if typ = 0 ∨ 9 < typ ∨ ((es.take i).any fun e => e.1 = typ) then some at0
      else if fieldAt h (at0 + 1) 3 ≠ 0 then some (at0 + 1)
      else if off % 8 ≠ 0 ∨ off < prev ∨ ilen < off then some (at0 + 4)
      else if ilen < off + len then some (at0 + 8) else none) <|>
    ((List.range (16 - n)).findSome? fun i => if fieldAt h (0x40 + 16 * (n + i)) 16 = 0 then none else some (0x40 + 16 * (n + i))) <|>
    (if es.any (fun e => e.1 = 2) ∧ es.any (fun e => e.1 = 3) then none else some 0x40)

/-- The header's failure (R423), given the capacity of where the image lies: the reason and the offset, in ascending offset of the
fields. Where no family was measured it is the image's own (R16). -/
def headFailure (s : State) (h : List Byte) (capacity : Nat) : Option (Nat × Nat) :=
  let f := fieldAt h
  let fs := f 0xC 1
  if f 0 4 ≠ 0x49514A43 then some (1, 0) else if f 4 2 ≠ 1 then some (1, 4) else if f 6 2 ≠ 0x8512 then some (2, 6)
  else if f 8 4 < 0x200 ∨ capacity < f 8 4 then some (3, 8)
  else if 5 < fs then some (4, 0xC)
  else if !s.time.familyOpen ∧ decide (fs % 2 = 0) ≠ flag s R.clkStat 3 then some (5, 0xC)
  else if f 0xD 1 = 0 ∨ 16 < f 0xD 1 then some (6, 0xD)
  else if 1 < f 0xE 2 then some (1, 0xE) else if f 0x14 12 ≠ 0 then some (1, 0x14)
  else match sectionFailure h (f 8 4) with
    | some off => some (6, off)
    | none => if f 0x1A0 96 ≠ 0 then some (1, 0x1A0) else none

end Sys2Proof.Machine
end

