-- ==== Sys2Proof/Machine/ImageCheck.lean ====
section
/-! DEFINITION. The check of an image (R415, R419 to R424, R454): flash discovery, header, section CRCs, digest and signature, and
what PD0 holds of the image that was accepted. -/

namespace Sys2Proof.Machine

/-! ### SHA-256 part way (R454) -/

/-- The digest's state at its start. -/
def shaInit : ShaSt := { chain := shaStart sha256Form, count := 0, tail := [] }

/-- The digest's state after more bytes. -/
def shaMore (st : ShaSt) (bs : List Byte) : ShaSt :=
  let m := st.tail ++ bs
  let n := m.length / 64
  { chain := shaBlocks sha256Form n m st.chain, count := st.count + bs.length, tail := m.drop (64 * n) }

/-- The digest of the bytes taken so far. -/
def shaDone (st : ShaSt) : List Byte :=
  shaOut sha256Form (shaMore st (shaPad sha256Form st.count)).chain

/-! ### Where the image lies (R358, R415) -/

/-- Bytes of the image: from the flash, or as a link has carried it (R358). -/
def imageBytes (s : State) (link : Bool) (a n : Nat) : List Byte :=
  if link then (List.range n).map fun i => (mapGet s.image.link (a + i)).getD 0 else flashBytes s a n

/-- The capacity of what the image is read from; a link sets none (log 34). -/
def imageCapacity (s : State) (link : Bool) : Nat := if link then 2 ^ 32 else flashSize s

/-- The fastest protocol, in the order of R414, that the tables of a flash declare; 1S-1S-1S, in which discovery begins, is always there
(R415). -/
def fastestProtocol (x : FlashSt) : Nat := (x.basic ++ x.xspi.getD []).foldl min 4

/-- Flash discovery (R415): NVM.FLASH shows the protocol, the SFDP signature and the capacity. -/
def discoverFlash (s : State) : State :=
  let (proto, log) := if s.flash.sfdp then (fastestProtocol s.flash, s.flash.sizeLog) else (4, 24)
  wr s R.nvmFlash (w32 (proto % 8 + 8 * b2n s.flash.sfdp + 256 * (log % 32)))

/-! ### Sections -/

/-- The index, offset and length of the section of a type. -/
def sectionPlace (img : List Byte) (typ : Nat) : Option (Nat × Nat × Nat) :=
  let es := sectionTable img
  ((List.range es.length).zip es).findSome? fun (i, e) => if e.1 = typ then some (i, e.2.1, e.2.2.1) else none

/-- The payload of the section of a type (R421). -/
def sectionBytes (img : List Byte) (typ : Nat) : Option (List Byte) :=
  (sectionPlace img typ).map fun (_, off, len) => (img.drop off).take len

/-- The first section whose CRC fails: its index, the CRC expected and the one computed; skipWave leaves the WAVE section unread. -/
def badSection (img : List Byte) (skipWave : Bool) : Option (Nat × Nat × Nat) :=
  let es := sectionTable img
  ((List.range es.length).zip es).findSome? fun (i, e) =>
    let c := crc32 ((img.drop e.2.1).take e.2.2.1)
    if (skipWave && e.1 = 4) || c = e.2.2.2 then none else some (i, e.2.2.2, c)

/-! ### Digest (R422, R454) -/

/-- The digest's state after the HEAD bytes it takes and the image bytes up to an offset. -/
def digestTo (img : List Byte) (off : Nat) : ShaSt :=
  shaMore (shaMore shaInit (img.take 0x20 ++ (img.drop 0x40).take 0x100)) ((img.take off).drop 0x200)

/-- The end of the WAVE directory and of the WAVE payload (R427). -/
def waveEnds (img : List Byte) : Option (Nat × Nat) :=
  (sectionPlace img 4).map fun (_, off, len) => (off + min len (12 + 32 * min 4096 (fieldAt img off 2)), off + len)

/-- What PD0 holds of an image that is accepted (R445, R454). -/
def acceptOf (img : List Byte) : AcceptedSt :=
  { hash := (img.drop 0x20).take 32,
    dirEnd := (waveEnds img).map fun e => digestTo img e.1,
    waveEnd := (waveEnds img).map fun e => digestTo img e.2,
    verbSha := sha256 ((sectionBytes img 3).getD []) }

/-- The wave data need not be read (R454): the header names the accepted build, and the digest has come to the held state at the end
of the WAVE directory. -/
def waveHeld (s : State) (img : List Byte) : Bool :=
  match s.power.accepted, waveEnds img with
  | some a, some e => a.hash = (img.drop 0x20).take 32 && a.waveEnd.isSome && a.dirEnd = some (digestTo img e.1)
  | _, _ => false

/-- The digest of the image; where the wave data is skipped, it goes on from the state held for the end of the WAVE payload. -/
def imageDigest (s : State) (img : List Byte) (skipWave : Bool) : List Byte :=
  match skipWave, s.power.accepted, waveEnds img with
  | true, some a, some e => shaDone (shaMore (a.waveEnd.getD shaInit) (img.drop e.2))
  | _, _, _ => shaDone (digestTo img img.length)

/-! ### The check (R416, R422 to R424) -/

/-- Why an image with IMG_AUTH blown fails its signature check (R424). -/
def signatureFault (s : State) (img : List Byte) : Option Nat :=
  let key := (img.drop 0x180).take 32
  let keyHash := ((List.range 8).map fun i => leBytes 4 (fuseWord s (6 + i)).toNat).flatten
  if !imgAuth s then none
  else if fieldAt img 0xE 2 % 2 = 0 then some 1
  else if sha256 key ≠ keyHash then some 2
  else if ed25519Valid key ((img.drop 0x20).take 32) ((img.drop 0x140).take 64) then none else some 3

/-- A failure of boot step 6 or 8: the Gloss code, its data words, and the step. -/
def imageFault (s : State) (img : List Byte) (capacity : Nat) (skipWave : Bool) : Option (Nat × Nat × Nat × Nat × Nat) :=
  match headFailure s img capacity with
  | some (reason, off) => some (0x1120, reason, off, 0, 6)
  | none =>
    match badSection img skipWave with
    | some (i, expected, computed) => some (0x1131, i, expected, computed, 8)
    | none =>
      let digest := imageDigest s img skipWave
      let hash := (img.drop 0x20).take 32
      if digest ≠ hash then some (0x1131, 0xFF, fieldAt hash 0 4, fieldAt digest 0 4, 8)
      else (signatureFault s img).map fun r => (0x1132, r, 0, 0, 8)

/-- The image: its HEAD, and as many bytes as ILEN says where the HEAD holds. -/
def readImage (s : State) (link : Bool) : List Byte :=
  let head := imageBytes s link 0 0x200
  match headFailure s head (imageCapacity s link) with
  | some _ => head
  | none => imageBytes s link 0 (fieldAt head 8 4)

end Sys2Proof.Machine
end

