-- ==== Sys2Proof/Machine/Clock.lean ====
section
/-! DEFINITION. Clocks and the sample epoch (R12 to R18, R254, R260, R312): WCLK, the crystal, the AO oscillator, SYNC. -/

namespace Sys2Proof.Machine

/-! ### WCLK (R15) -/

/-- The PLL has locked to WCLK; the reference hands over at the next frame boundary. -/
def lockWclk (s : State) : State := if fld s R.clkCtrl 1 0 = 1 then setFlag s R.clkStat 6 else s

/-- WCLK_LOCK: the PLL has tracked WCLK for 64 periods within tolerance (R15). -/
def execWclkLock (s : State) : Host.Outcome State Fault Refusal := .next (if s.time.wclkLost then s else lockWclk s)

/-- WCLK is lost: the reference passes to the crystal or the AO oscillator at once, where WCLK was being followed (R15). -/
def loseWclk (s : State) : State :=
  let followed := decide (activeRef s = 1)
  let s := clrFlag s R.clkStat 6
  if !followed then s
  else
    let own := ownReference s
    let s := setFlag (wrFld s R.clkStat 5 4 own) R.clkStat 7
    raiseGloss { s with time := { s.time with wclkLost := true } } 0x0140 (w32 (own / 2)) (w32 s.time.frame) 0

/-- WCLK_LOST: no edge of WCLK for 4 periods, or its rate is out of tolerance (R15). -/
def execWclkLost (s : State) : Host.Outcome State Fault Refusal := .next (loseWclk s)

/-- WCLK_RESUMED: WCLK has returned after a loss and meets the lock condition (R15). -/
def execWclkResumed (s : State) : Host.Outcome State Fault Refusal := .next (if s.time.wclkLost then lockWclk s else s)

/-! ### The crystal and the AO oscillator (R14, R16, R260) -/

/-- The timers are to change to the AO oscillator, or back, at its next edge. -/
def clockDue (s : State) (ao : Bool) (cause : Nat) : State :=
  if s.time.onAo = ao then { s with time := { s.time with clockDue := none } }
  else { s with time := { s.time with clockDue := some (ao, cause) } }

/-- CRYSTAL_FAIL: the crystal stops while it is the reference (R14, R260). -/
def execCrystalFail (s : State) : Host.Outcome State Fault Refusal :=
  if !flag s R.clkCtrl 4 ∨ activeRef s ≠ 0 then .next s
  else .next (clockDue (setFlag (wrFld s R.clkStat 5 4 2) R.clkStat 8) true 1)

/-- The change that is due takes place. -/
def applyClockDue (s : State) : State :=
  match s.time.clockDue with
  | none => s
  | some (ao, cause) => switchClock { s with time := { s.time with clockDue := none } } ao cause

/-- AO_CLOCK_SWITCH: the AO oscillator's next edge after a change became due (R260). -/
def execAoClockSwitch (s : State) : Host.Outcome State Fault Refusal := .next (applyClockDue s)

/-- Boot step 3 ends on a board without a crystal (R16): WCLK's measured rate, or none. -/
def crystalAbsent (s : State) (wclk : Option WclkRate) : State :=
  let s := clrFlag (wrFld (startCharger { s with boot := { s.boot with ready := true } }) R.nvmBoot 7 4 3) R.clkCtrl 4
  match wclk with
  | some r =>
    let s := wrFld (wrFld { s with time := { s.time with familyOpen := false } } R.clkCtrl 7 6 r.multiple.val) R.clkCtrl 1 0 1
    setFlag (wrFld (familyPorts (wrFld s R.clkStat 3 3 (b2n r.family44))) R.clkStat 5 4 1) R.clkStat 6
  | none =>
    switchClock (setFlag (wrFld { s with time := { s.time with familyOpen := true } } R.clkStat 5 4 2) R.clkStat 8) true 1

/-- CRYSTAL_START_TIMEOUT: the crystal has not started 30 ms after boot step 3 began (R16). -/
def execCrystalStartTimeout (wclk : Option WclkRate) (s : State) : Host.Outcome State Fault Refusal :=
  if s.boot.ready ∨ ¬ supplyGood s then .next s else .next (crystalAbsent s wclk)

/-! ### AO time (R259, R260) -/

/-- AO time goes on, by one TCLK cycle or by one tick of the AO oscillator (R259, R260); the codes whose instant is reached fall due before
the timers tick (R287). -/
def timeTick (s : State) : State :=
  let acc := if s.time.onAo then (aoSteps s).2 else s.time.aoAcc
  let s := { s with time := { s.time with aoTime := s.time.aoTime + w64 (tickSteps s) } }
  let s := timersTick ((List.range 8).foldl cvDue s)
  { s with time := { s.time with aoAcc := acc } }

/-! ### Latched counts (R254, R259, R262) -/

/-- The address of the upper register of a count and its value now. -/
def upperHalf (s : State) : CountReg → Nat × Word
  | .timerCount n => (timerReg n 0x08, w32 (timerOf s n).lap.toNat)
  | .timerCapture n => (timerReg n 0x1C, rd s (timerReg n 0x1C))
  | .aoTime => (R.tenseAotimeh, w32 (s.time.aoTime.toNat / 2 ^ 32))
  | .epoch => (R.tenseEpochh, w32 (s.time.epoch.toNat / 2 ^ 32))
  | .position => (R.tensePosh, rd s R.tensePosh)

/-- A read of the lower register latches the upper one (R254). -/
def latchUpper (s : State) (c : CountReg) : State :=
  let (a, v) := upperHalf s c
  { s with time := { s.time with latches := mapPut s.time.latches a v } }

/-- COUNT_READ_LATCH: a read of TnCNT, TnCAP, AOTIMEL, EPOCHL or POSL (R254, R259, R262). -/
def execCountReadLatch (reg : CountReg) (s : State) : Host.Outcome State Fault Refusal := .next (latchUpper s reg)

/-! ### Sample times (R270 to R276, R286 to R292, R309 to R311, R385) -/

/-- What a sample period does once an epoch is set (R270 to R276, R286 to R289, R309 to R311, R317, R385). -/
def sampleTick (s : State) : State :=
  let u := nowSample s
  let j := u % 16
  let s := adcTick s
  let s := (List.range 4).foldl (daiTick u) s
  let s := (List.range 4).foldl (daiBegin u) s
  let s := (List.range 4).foldl (keepSlots u) s
  let s := (List.range 16).foldl (dacSample j) s
  let s := monitorSample ((List.range 8).foldl (cvSample j) s)
  { s with analog := { s.analog with syncHold := s.analog.syncHold - 1 } }

/-- A sample time of the epoch has come at which the converters and ports have not acted yet (R17, R18). -/
def sampleDue (s : State) : Bool :=
  s.time.epochSet && decide (0 ≤ (s.time.aoTime - s.time.epoch).toInt) && s.time.ticked ≠ some (nowSample s)

/-- The sample of this cycle, where one begins with it. -/
def sampleStep (s : State) : State :=
  if sampleDue s then sampleTick { s with time := { s.time with ticked := some (nowSample s) } } else s

/-- A sample of the old epoch that falls due before the instant of a SYNC is taken first (R18, R292). -/
def sampleBefore (s : State) (instant : DWord) : State :=
  let now := s.time.aoTime
  let late : State := { s with time := { s.time with aoTime := instant - 1 } }
  let u := nowSample late
  if 0 < (instant - now).toInt ∧ sampleDue late ∧ s.time.ticked.all (· < u) then
    let t := sampleStep { s with time := { s.time with aoTime := s.time.epoch + w64 (u * tclkPerSample s) } }
    { t with time := { t.time with aoTime := now } }
  else s

/-! ### SYNC (R17, R18, R312) -/

/-- A frame number of the old epoch in the new one: the open frame becomes frame 1. -/
def newFrame (open' m : Nat) : Nat := m + 1 - open'

/-- What is in work is renumbered: the frames that Word-frames, sends, ended Word-frames and trace records belong to. -/
def renumberWork (s : State) : State :=
  let f := newFrame s.time.frame
  let wf := fun (b : VerbBank) => { b with wf := b.wf.map fun w => { w with frame := f w.frame } }
  let verb := fun (x : VerbSt) =>
    { x with bankA := wf x.bankA, bankB := wf x.bankB, mixq := x.mixq.map fun m => { m with frame := f m.frame } }
  let phrase := fun (p : Phrase) =>
    { p with works := p.works.map (fun w => { w with frame := f w.frame }), move := p.move.map (fun m => { m with since := f m.since }), ends := p.ends.map f, touched := 0,
             created := (p.created + 2 ^ 32 + 1 - s.time.frame % 2 ^ 32) % 2 ^ 32 }
  { s with verbs := s.verbs.map verb, phrases := s.phrases.map phrase, ended := s.ended.map fun e => { e with frame := f e.frame },
           parser := { barrier := s.parser.barrier.map f, stalledFrame := none, staged := s.parser.staged,
                       trace := s.parser.trace.map fun t => { t with key := (f t.key.1, t.key.2) } },
           sys := { s.sys with wev := s.sys.wev.map fun e => (f e.1, e.2) } }

/-- A queued event is re-based by the old-epoch sample time of the SYNC instant; one whose new position falls before frame 2 is late,
with frame 2 as the frame whose step 2 is next (R18, R209). -/
def rebaseEvent (delta : DWord) (s : State) (q : QueuedEv) : State × QueuedEv :=
  let q := { q with pkt := { q.pkt with stamp := q.pkt.stamp - delta } }
  let p := (effPos s q.pkt).toInt
  if p < 8192 then
    let q' := { q with pkt := { q.pkt with stamp := stampFor s q.pkt.source 8192, late := true } }
    let s := countUp s R.evtLate
    let s := raiseGloss s 0x5100 (w32 (q.pkt.source.toNat + q.pkt.kind.toNat * 256)) (BitVec.ofInt 32 (p / 4096)) 2
    (voidFrame s 2 5, q')
  else (s, q)

/-- Every queued event is re-based, and exported again as it then stands (R18, R175); an event its source has completed and the fabric
not yet accepted is re-based with them. -/
def rebaseEvents (s : State) (delta : DWord) : State :=
  let (s, qs) := s.evt.queue.foldl (fun acc q =>
    let (s, q) := rebaseEvent delta acc.1 q
    (s, acc.2 ++ [q])) (s, [])
  let ready := s.evt.ready.map fun l => l.map fun e => { e with pkt := { e.pkt with stamp := e.pkt.stamp - delta } }
  let s := { s with evt := { s.evt with queue := qs, ready } }
  qs.foldl (fun t q => if q.pkt.source = 15 then t else exportEvent t q.pkt) s

/-- The anchors of the position model are sample positions: they are re-based with the events. -/
def rebaseTense (s : State) (delta : DWord) : State :=
  onTense s fun t => { t with pa := t.pa - delta, lastP := t.lastP.map (· - delta),
                                   older := t.older.map fun c => (c.1 - delta, c.2) }

/-- The inputs and the ports restart on the instant, the epoch before it given where one was set (R309, R312, R389). -/
def restartGrid (before : Option DWord) (s : State) : State := daiSync before (syncInputs s)

/-- The SYNC is logged at its instant, which is sample time 0 of the new epoch (R460, R461). -/
def logSync (s : State) (instant delta : DWord) : State :=
  let now := s.time.aoTime
  let s := raiseGloss { s with time := { s.time with aoTime := instant } } 0x0150 (w32 delta.toNat) (w32 (delta.toNat / 2 ^ 32)) 0
  { s with time := { s.time with aoTime := now } }

/-- A SYNC taken while rendering (R18). -/
def syncRendering (s : State) (instant : DWord) : State :=
  let delta := stampOf s instant
  let old := s.time.epoch
  let n := s.time.frame
  let s := if 2 ≤ n then abortLate s (n - 2) else s
  let s := reportVoids s n
  let s := if n % 2 = 0 then swapMix s else s
  let s := logSync (setEpoch (renumberWork s) instant) instant delta
  let s := { s with time := { s.time with frame := 1, step1 := 1, step2 := 1, take := 1, voids := [], reported := [], synced := true },
                    analog := { s.analog with syncHold := 32 + 16 * tiersOf s },
                    memint := { s.memint with tablesDiverged := false },
                    sys := { s.sys with exported := none, holdVoid := [] } }
  let s := clrFlag (voidFrame (voidFrame s 0 9) 1 9) R.linkStat 1
  restartGrid (some old) (rebaseTense (rebaseEvents s delta) delta)

/-- A SYNC is taken at an instant (R17, R18): the epoch alone while rendering is stopped. -/
def takeSync (s : State) (instant : DWord) : State :=
  let s := sampleBefore s instant
  if s.time.rendering && s.time.epochSet then syncRendering s instant
  else
    let old := if s.time.epochSet then some s.time.epoch else none
    let s := setEpoch (holdPosition s instant) instant
    let s := { s with time := { s.time with synced := true, frame := 0, step1 := 0, step2 := 0, take := 0 } }
    restartGrid old (applyAtEpoch (clrFlag s R.linkStat 1))

/-- A SYNC packet's payload (R357): the cycles from this device's epoch, and NEW. -/
def syncBytes (s : State) (new : Bool) : List Byte := leBytes 8 (s.time.aoTime - s.time.epoch).toNat ++ leBytes 4 (b2n new)

/-- A SYNC packet goes down every tier and segment link (R357). -/
def sendSync (s : State) (new : Bool) : State := sendDown s 0x08 (castHd s) (syncBytes s new)

/-- A SYNC of the device's own, from its ball or its register (R312, R357): a worker that takes its epoch from its link ignores it;
nothing is taken before the boot sequence has reached interrupt mode (R17: "after boot"). -/
def ownSync (s : State) (instant : DWord) : State :=
  if !s.boot.interruptMode || (isWorker s && !flag s R.linkCfg 3) then s
  else
    let s := takeSync s instant
    if isRoot s then sendSync s true else s

/-- The first modulator clock edge after a synchronised edge that comes so many cycles beyond two: the edges lie at even distances from the
epoch in force, 2 to 4 TCLK cycles after the ball's edge (R312, log 71). -/
def syncEdge (s : State) (delay : Nat) : DWord :=
  let t := s.time.aoTime + 2 + w64 delay
  if (t - s.time.epoch) % 2 = 0 then t else if delay = 2 then t - 1 else t + 1

/-- SYNC_BALL_EDGE: a rising edge on the SYNC ball; the instant is the first modulator clock edge after the synchronised edge (R312).
In SLEEP and OFF, and on the way there, it is a wake event where WAKEEN.SYNC is 1 (R453). -/
def execSyncBallEdge (delay : SyncDelay) (s : State) : Host.Outcome State Fault Refusal :=
  let s := { s with pins := { s.pins with sync := true } }
  let s := if (asleep s || s.power.entry.isSome) && flag s R.pwrWakeen 2 then latchWake s 4 else s
  .next (ownSync s (syncEdge s delay.val))

/-- The sync command: its instant is the first modulator clock edge after the write, and a modulator clock period is two TCLK cycles
(R312). -/
def syncCommand (s : State) : State := ownSync s (s.time.aoTime + 2 - (s.time.aoTime - s.time.epoch) % 2)

end Sys2Proof.Machine
end

