-- ==== Sys2Proof/Machine/RegRead.lean ====
section
/-! DEFINITION. What a register reads (R4 to R7, R25, R27): the registers whose value the device computes, staged values with PEND, and the
reads that have a side effect. -/

namespace Sys2Proof.Machine

/-! ### Pages and their domains (R27, R28) -/

/-- The power domain of a page, by its place in Table 10 of the architecture chapter (R28, R30; log 31). -/
def pageDomain (a : Nat) : Nat :=
  match a / 0x10000 with
  | 0x4003 => 3 | 0x4004 => 3 | 0x4005 => 3 | 0x4007 => 5 | 0x4008 => 5 | 0x4009 => 5 | 0x400A => 6 | 0x400B => 7 | 0x400C => 7 | 0x400D => 7 | 0x400E => 3 | 0x4010 => 3 | 0x4011 => 3
  | _ => 0

/-- An address of a register page. -/
def inPages (a : Nat) : Bool := 0x40000000 ≤ a && a < 0x40130000

/-! ### Computed registers -/

/-- SYS.IRQSTAT: the serial ports' level sources under the edge sources (R32). -/
def irqStat (s : State) : Word :=
  let sp := ((List.range 8).filter fun p => domainOn s 7 && spRequest s p).foldl (fun m p => m + 2 ^ p) 0
  setBits (rd s R.sysIrqstat) 7 0 sp

/-- HIRQ is asserted (R32). -/
def hirq (s : State) : Bool := (irqStat s &&& rd s R.sysIrqen &&& 0x1FFFF) ≠ 0

/-- The sums of a lane as they stood at the end of the latest step 3: N and F (R155). -/
def laneSums (s : State) (l : Nat) : Nat × Nat :=
  match s.alloc.lanes.find? fun e => e.1 = l with
  | some e => e.2
  | none => (0, 0)

/-- The PARSER page: sums, G and the diverged Phrases (R155, R174). -/
def readParser (s : State) (a : Nat) : Option Word :=
  if a = R.parserGlob then some (w32 (globalReserve s))
  else if a = R.parserLsum then some (w32 (laneSums s (fld s R.parserLsel 9 0)).1)
  else if a = R.parserLfsum then some (w32 (laneSums s (fld s R.parserLsel 9 0)).2)
  else if a = R.parserDiverge then
    some (w32 (divergedCount s + 65536 * b2n (s.phrases.any fun p => p.isGlobal && p.diverged)))
  else match chanOf R.parserLane 4 16 a, chanOf R.parserLfade 4 16 a, chanOf R.parserVload 4 16 a with
    | some l, _, _ => some (w32 (laneN s l))
    | _, some l, _ => some (w32 (laneF s l))
    | _, _, some v => some (w32 (verbLoad s v))
    | _, _, _ => none

/-- The query of the slot ALLOC.QSEL selects: QSTATE, QNOTE, QSEQ, QLANE (R201). -/
def querySel (s : State) : Word × Word × Word × Word :=
  match s.alloc.snap.find? fun e => e.1 = fld s R.allocQsel 10 0 with
  | some e => e.2
  | none => (0, 0, 0, 0)

/-- The ALLOC page (R201). -/
def readAlloc (s : State) (a : Nat) : Option Word :=
  let q := querySel s
  if a = R.allocQstate then some q.1
  else if a = R.allocQnote then some q.2.1
  else if a = R.allocQseq then some q.2.2.1
  else if a = R.allocQlane then some q.2.2.2
  else none

/-- Groups that hold an event (EVT.PSTAT.HELD). -/
def heldGroups (s : State) : Nat :=
  ((List.range 4).filter fun g => s.evt.queue.any fun q => (stillHeld s q).any fun w => w.1 = g).foldl (fun m g => m + 2 ^ g) 0

/-- The EVT page (R169, R233). -/
def readEvt (s : State) (a : Nat) : Option Word :=
  if a = R.evtStat then some (w32 (s.evt.queue.length % 2048 + 2 ^ 31 * b2n (hostBusy s)))
  else if a = R.evtPstat then some (setBits (rd s a) 3 0 (heldGroups s))
  else match chanOf R.evtQuota 4 16 a, chanOf R.evtPartprog 4 16 a with
    | some n, _ => some (setBits (rd s a) 26 16 (srcCount s n))
    | _, some n => let p := nth s.evt.progs n (0xFFFF, 0); some (w32 (p.1 % 65536 + p.2 % 16384 * 65536))
    | _, _ => none

/-- A latched upper half (R254): 0 before its first latch (log 32). -/
def latchOf (s : State) (a : Nat) : Word := (mapGet s.time.latches a).getD 0

/-- The TENSE page (R251, R254, R256, R259, R262). -/
def readTense (s : State) (a : Nat) : Option Word :=
  if a = R.tenseAotimel then some (w32 s.time.aoTime.toNat)
  else if a = R.tenseEpochl then some (w32 s.time.epoch.toNat)
  else if a = R.tenseAotimeh ∨ a = R.tenseEpochh ∨ a = R.tensePosh then some (latchOf s a)
  else if a = R.tenseQf then some (w32 s.tense.qf)
  else if a = R.tenseQrun then some (w32 s.tense.qrun)
  else if a = R.tenseBpm then some (bpmOf s s.tense.qf)
  else if a = R.tenseTpctl then
    some (setBits (rd s a) 23 16 (((List.range 8).filter fun n => pinLevel s (n + 1)).foldl (fun m n => m + 2 ^ n) 0))
  else if a = R.tenseRun then some (w32 ((idxs 16 fun n => (timerOf s n).released).foldl (fun m n => m + 2 ^ n) 0))
  else match chanOf R.tenseTcnt 0x40 16 a, chanOf R.tenseTlap 0x40 16 a, chanOf R.tenseTcaplap 0x40 16 a with
    | some n, _, _ => some (timerOf s n).count
    | _, some _, _ => some (latchOf s a)
    | _, _, some _ => some (latchOf s a)
    | _, _, _ => none

/-- The DAC page (R283). -/
def readDac (s : State) (a : Nat) : Option Word :=
  match chanOf R.dacChstat 4 16 a, chanOf R.dacOfs 4 16 a with
  | some k, _ => some (dacChstat s k)
  | _, some k => some (dacOfs s k)
  | _, _ => none

/-- The CVO page (R297). -/
def readCvo (s : State) (a : Nat) : Option Word :=
  match chanOf R.cvoChstat 4 8 a, chanOf R.cvoOfs 4 8 a, chanOf R.cvoGain 4 8 a with
  | some k, _, _ => some (cvChstat s k)
  | _, some k, _ => some (cvOfs s k)
  | _, _, some k => some (cvGain s k)
  | _, _, _ => none

/-- The ADC page (R304, R319). -/
def readAdc (s : State) (a : Nat) : Option Word :=
  if a = R.adcCdata then some (customCoef s (fld s R.adcCaddr 8 0))
  else match chanOf R.adcChstat 4 16 a, chanOf R.adcTrim 4 16 a with
    | some n, _ => some (adcChstat s n)
    | _, some n => some (adcTrim s n)
    | _, _ => none

/-- The SP page (R345). -/
def readSp (s : State) (a : Nat) : Option Word :=
  let p := a % 0x10000 / 0x1000
  if 8 ≤ p then none
  else match a % 0x1000 with
    | 0x04 => some (setBits (rd s a) 31 31 (b2n (baudPending s p)))
    | 0x1C => some (spStat s p)
    | 0x20 => some (spLevelWord s p)
    | _ => none

/-- Is a device of the system late or absent, as this device knows it: presence, LATE, Verbs and depth (R379). -/
def queryDevice (s : State) : Word :=
  let own := (activeVerbs s).length
  if flag s R.linkQaddr 15 then w32 (1 + own * 256)
  else match s.sys.devices.find? fun d => d.addr = fld s R.linkQaddr 13 0 with
    | some d => w32 (b2n d.present + 2 * b2n (d.late ≠ 0) + d.verbs % 256 * 256 + d.depth % 4 * 65536)
    | none => 0

/-- The LINK page (R379). -/
def readLink (s : State) (a : Nat) : Option Word :=
  if a = R.linkQstat then some (queryDevice s)
  else if a = R.linkQload then
    some (w32 (deviceLoad s (if flag s R.linkQaddr 15 then none else some (fld s R.linkQaddr 13 0))))
  else none

/-- VDBG.VSTATn (R479, Table 3). -/
def verbStat (s : State) (n : Nat) : Word :=
  let x := verbOf s n
  w32 (b2n x.halted * 2 ^ 31 + b2n (x.halted && x.running) * 2 ^ 30 + x.haltCause % 8 * 2 ^ 27 + x.haltBp % 4 * 2 ^ 16 + x.cur.pc % 8192)

/-- The codes of Table 13 of the Verb chapter (R114) that name a register. -/
def verbCode (c : Nat) : Bool := c < 0x3D

/-- The VDBG page (R479 to R482): VRDATA reads the selected register of a halted bank, 0 while DBG_LOCK is blown. -/
def readVdbg (s : State) (a : Nat) : Option Word :=
  match chanOf R.vdbgVstat 0x40 16 a, chanOf R.vdbgVwf 0x40 16 a, chanOf R.vdbgVrdata 0x40 16 a with
  | some n, _, _ => some (verbStat s n)
  | _, some n, _ => some (setBits (rd s a) 31 31 (b2n (verbOf s n).abandoned))
  | _, _, some n =>
    if dbgLocked s || !(verbOf s n).halted then some 0
    else some ((bankOfVerb s n).readReg (fld s (R.vdbgVrsel + 0x40 * n) 5 0))
  | _, _, _ => none

/-- The registers whose value the device computes when they are read. -/
def liveReg (s : State) (a : Nat) : Option Word :=
  match a / 0x10000 with
  | 0x4000 => if a = R.sysIrqstat then some (irqStat s) else none
  | 0x4001 =>
    if a = R.pwrHold then some (setBits (rd s a) 8 8 (b2n (vholdGood s))) else none
  | 0x4003 => readParser s a
  | 0x4004 => readAlloc s a
  | 0x4005 => readEvt s a
  | 0x4006 => readTense s a
  | 0x4008 => readDac s a
  | 0x4009 => readCvo s a
  | 0x400A => readAdc s a
  | 0x400B => readSp s a
  | 0x400C => readLink s a
  | 0x400E => if a = R.memStat then some (setBits (rd s a) 2 2 (b2n s.memint.unstored)) else none
  | 0x400F => if a = R.glossStat then some (glossStat s) else if a = R.glossPtr then some (glossPtr s) else none
  | 0x4010 => readVdbg s a
  | _ => none

/-- An RWS register reads its staged value, with PEND where it has that bit (R5, R7, R169). -/
def stagedView (s : State) (d : RegDesc) (a : Nat) : Word :=
  match mapGet s.staged a with
  | none => rd s a
  | some v =>
    let w := (rd s a &&& ~~~(w32 d.rws)) ||| (v &&& w32 d.rws)
    if d.rws ≠ 0 ∧ d.ro / 2 ^ 31 % 2 = 1 then w ||| 0x80000000 else w

/-- The value of a register as it reads (R5): reserved offsets read 0 (R27). -/
def readReg (s : State) (a : Nat) : Word :=
  match regDesc a with
  | none => 0
  | some d => match liveReg s a with | some v => v | none => stagedView s d a

/-! ### Reads with a side effect (R31, R254, R345) -/

/-- The count whose upper half a read of a register latches. -/
def latchedBy (a : Nat) : Option CountReg :=
  if a = R.tenseAotimel then some .aoTime
  else if a = R.tenseEpochl then some .epoch
  else if a = R.tensePosl then some .position
  else
    let n := a % 0x1000 / 0x40
    if h : n < 16 then
      if a = 0x40061004 + 0x40 * n then some (.timerCount ⟨n, h⟩)
      else if a = 0x40061018 + 0x40 * n then some (.timerCapture ⟨n, h⟩)
      else none
    else none

/-- The port whose SPn.RXD an address is. -/
def rxdPort (a : Nat) : Option Nat := chanOf (R.spPage + 0x30) 0x1000 8 a

/-- The instance of VDBG.VRDATA an address is. -/
def vrdataVerb (a : Nat) : Option Nat := chanOf R.vdbgVrdata 0x40 16 a

/-- A register is read: its value, after its side effect; a VRDATA of a Verb that is not halted is refused (R481). -/
def accessReg (s : State) (a : Nat) : State × Word :=
  match rxdPort a, latchedBy a, vrdataVerb a with
  | some p, _, _ => readRxd s p
  | _, some c, _ => let v := readReg s a; (latchUpper s c, v)
  | _, _, some n => if (verbOf s n).halted then (s, readReg s a) else (refuse s a false, 0)
  | _, _, _ => (s, readReg s a)

/-! ### The device map (R23 to R25) -/

/-- What lies at an address of the device map (R23). -/
inductive Region where
  | lexicon | verb (n : Nat) | shared | page | none
  deriving DecidableEq, Repr

/-- The region of an address (R23, Table 7 of the architecture chapter). -/
def regionOf (a : Nat) : Region :=
  if a < 0x01000000 then .lexicon
  else if a < 0x01400000 then .verb (a / 0x40000 % 16)
  else if a < 0x01600000 then .shared
  else if inPages a then .page
  else .none

/-- The domain a region's memory lies in. -/
def regionDomain (a : Nat) : Nat :=
  match regionOf a with
  | .lexicon => 4
  | .verb n => if n < 8 then 1 else 2
  | .shared => 3
  | .page => pageDomain a
  | .none => 0

/-- The memory of a region can be reached: its domain is on, and it has been cleared since the reset (R25, R410). -/
def memoryOpen (s : State) (a : Nat) : Bool := domainOn s (regionDomain a) && (regionOf a = .page || s.boot.cleared)

/-- A discard frame, whose content is not defined (R85, Table 1): a read of it by a requester gives a free value (log 3). -/
def inDiscard (a : Nat) : Bool := (List.range 16).any fun v => verbBase v + 0x28040 ≤ a && a < verbBase v + 0x28080

/-- One word is read by a requester (0 host, 2 link) under R25: the value, and whether it was a bus error or refused; the requester
code of an uncorrectable error is that of MEM.UELOG. -/
def readWord32 (s : State) (req a : Nat) : State × Word × Bool :=
  if regionOf a = .none then (busErr s req 0 false a, 0, true)
  else if !memoryOpen s a then (busErr s req 2 false a, 0, true)
  else if regionOf a = .page then
    let (t, v) := accessReg s a
    (t, v, match vrdataVerb a with | some n => !(verbOf s n).halted | none => false)
  else
    let (s, d, _, _) := memLoad s (if req = 2 then 4 else 5) a 4
    if inDiscard a then
      let (s, f) := drawFree s
      (s, f, false)
    else (s, w32 d.toNat, false)

end Sys2Proof.Machine
end

