-- ==== Sys2Proof/Machine/RegWrite.lean ====
section
/-! DEFINITION. Writing a register (R4 to R10, R25): the access types, the refusals every register's description gives, staging, and
the registers whose write is an operation. -/

namespace Sys2Proof.Machine

/-! ### Access types (R5 to R8) -/

/-- Is a register's RWL part closed now (R9). -/
def isClosed (s : State) (c : Close) (a : Nat) : Bool :=
  match c with
  | .none => false
  | .device => deviceApplied s
  | .tense => tenseApplied s
  | .adcRun => flag s R.adcCtrl 0
  | .spEnabled => let p := a % 0x10000 / 0x1000; flag s (spReg p 8) 0 || flag s (spReg p 8) 1
  | .daiEnabled => let p := a % 0x10000 / 0x1000; fld s (daiReg R.daiCtl p) 1 0 ≠ 0
  | .dbgLock => dbgLocked s

/-- A write places an undefined encoding in a field (R9). -/
def undefinedField (d : RegDesc) (v : Word) : Bool :=
  d.ranges.any fun (hi, lo, least, most) => bits v hi lo < least || most < bits v hi lo

/-- A write gives a closed field another value (R9). -/
def changesClosed (s : State) (d : RegDesc) (a : Nat) (v : Word) : Bool :=
  isClosed s d.close a && ((rd s a ^^^ v) &&& w32 d.rwl) ≠ 0

/-- Is a register one of the counters of Table 14 of the Parser chapter. -/
def isCounter (d : RegDesc) : Bool := d.w1c = 0x80000000 && d.ro = 0xFFFFFF

/-- The RW and RWL bits take the written value, and the W1C bits written 1 clear (R5, R6). -/
def plainValue (d : RegDesc) (old v : Word) : Word :=
  let m := w32 (d.rw ||| d.rwl)
  ((old &&& ~~~m) ||| (v &&& m)) &&& ~~~(v &&& w32 d.w1c)

/-- The RWS bits are staged while rendering, and take effect at once while it is stopped (R7). -/
def stageValue (s : State) (d : RegDesc) (a : Nat) (v : Word) : State :=
  if d.rws = 0 then s
  else if s.time.rendering then { s with staged := mapPut s.staged a (v &&& w32 d.rws) }
  else
    let old := fenceMasks s
    masksChanged (applyOne { s with staged := mapErase s.staged a } a v) old

/-- A register takes a write that is not refused. -/
def plainWrite (s : State) (d : RegDesc) (a : Nat) (v : Word) : State :=
  if isCounter d then (if bitOf v 31 then wr s a 0 else s)
  else stageValue (wr s a (plainValue d (rd s a) v)) d a v

/-! ### Clearing a record (R9, R25, R129, R397, R458) -/

/-- BLOCK.ERR is written (R9, Table 7). A clear of LOCKW that leaves UNDEF set opens OFFSET for the next refusal (R10). -/
def clearErr (s : State) (a : Nat) (v : Word) : State :=
  let others := s.host.errOpen.filter (· ≠ pageOf a)
  if bitOf v 31 then wr { s with host := { s.host with errOpen := others } } a 0
  else if bitOf v 29 then
    let left := rd s a &&& 0x80000000
    wr { s with host := { s.host with errOpen := if left = 0 then others else pageOf a :: others } } a left
  else if bitOf v 30 then clrFlag s a 30 else s

/-- A record with VALID in [31] and MULTI in [30], and the register beside it, is cleared. -/
def clearRecord (s : State) (a beside : Nat) (v : Word) : State :=
  if bitOf v 31 then wr (wr s a 0) beside 0 else if bitOf v 30 then clrFlag s a 30 else s

/-! ### What a register's description refuses: some true an encoding, some false a state (R9) -/

/-- The sum of a 4-byte array's field, with one register's new value in it. -/
def sumWith (s : State) (base count hi lo a : Nat) (v : Word) : Nat :=
  ((List.range count).map fun i => if base + 4 * i = a then bits v hi lo else fld s (base + 4 * i) hi lo).sum

/-- Trace and export control: DEST 2 takes a link 0 to 3; TRACE_LOCK closes the trace's way out (R155, R175, R483). -/
def checkTrace (s : State) (a : Nat) (v : Word) : Option Bool :=
  if bits v 2 1 = 2 ∧ 4 ≤ bits v 5 3 then some true
  else if a = R.parserTrctl ∧ traceLocked s ∧ bits v 2 1 ≠ 0 then some false
  else none

/-- The PARSER page (R155). -/
def checkParser (s : State) (a : Nat) (v : Word) : Option Bool :=
  if a = R.parserLanecfg then
    (if bits v 4 0 = 0 ∨ 16 < bits v 4 0 ∨ bits v 15 6 < 500 ∨ 950 < bits v 15 6 ∨ bits v 25 16 < bits v 15 6 ∨ 1000 < bits v 25 16
     then some true else none)
  else if a = R.parserTrctl then checkTrace s a v
  else if a = R.parserTrslot then (if bits v 26 16 < bits v 10 0 then some true else none)
  else if a = R.parserLsel then (if 16 * fld s R.linkCfg 25 19 ≤ bits v 9 0 then some false else none)
  else none

/-- The ALLOC page (R180, R201). -/
def checkAlloc (s : State) (a : Nat) (v : Word) : Option Bool :=
  if a = R.allocSlots then (if bits v 10 0 < sumWith s R.allocPool 16 21 11 0 0 then some false else none)
  else if a = R.allocQsel then (if 1055 < bits v 10 0 then some true else none)
  else match chanOf R.allocPool 4 16 a with
    | some _ =>
      if bits v 10 0 < bits v 21 11 then some true
      else if fld s R.allocSlots 10 0 < sumWith s R.allocPool 16 21 11 a v then some false else none
    | none => none

/-- The EVT page (R169, R175, R211, R233). -/
def checkEvt (s : State) (a : Nat) (v : Word) : Option Bool :=
  if a = R.evtXctl then checkTrace s a v
  else match chanOf R.evtSrccfg 4 13 a, chanOf R.evtQuota 4 16 a, chanOf R.evtPmask 8 4 a with
    | some n, _, _ => if 8 ≤ n ∧ n < 12 ∧ bits v 1 0 ≠ 2 then some true else none
    | _, some _, _ => if 1024 < sumWith s R.evtQuota 16 10 0 a v then some false else none
    | _, _, some _ => if bitOf v 15 then some true else none
    | _, _, _ => none

/-- TSEL names a timer: SRC 2, or SRC 4 with TKIND 0 (R240, R244). -/
def tapsTimer (v : Word) : Bool := bits v 2 0 = 2 || (bits v 2 0 = 4 && !bitOf v 20)

/-- The TENSE page: where TSEL names a timer it is 0 to 15; the tempo lies in 10 to 999 BPM (R262). -/
def checkTense (a : Nat) (v : Word) : Option Bool :=
  if a = R.tenseCfg then (if tapsTimer v ∧ 15 < bits v 16 12 then some true else none)
  else if a = R.tenseTempo then (if v.toNat < 0xA0000 ∨ 0x3E70000 < v.toNat then some true else none)
  else none

/-- The output pages: FSR changes only while the switch is closed (R272); UPD with no cause is undefined, and SPAN changes only while
parked and disabled (R290, R297). -/
def checkOutputs (s : State) (a : Nat) (v : Word) : Option Bool :=
  match chanOf R.dacCh 4 16 a, chanOf R.cvoCh 4 8 a with
  | some k, _ => if bits v 2 1 ≠ fld s a 2 1 ∧ (dacOf s k).open? then some false else none
  | _, some k =>
    if bitOf v 4 ∧ bits v 7 5 = 0 then some true else if spanRefused s k v then some false else none
  | _, _ => none

/-- The SP page: ADDREN needs 9 data bits; RTSON lies below RTSOFF; CFG is closed while the port is enabled (R342, R345). -/
def checkSp (s : State) (a : Nat) (v : Word) : Option Bool :=
  if R.spPage + 0x8000 ≤ a then none
  else match a % 0x1000 with
    | 0x00 => if bitOf v 13 ∧ bits v 1 0 ≠ 2 then some true
        else if isClosed s .spEnabled a ∧ ((rd s a ^^^ v) &&& 0x77F1F) ≠ 0 then some false else none
    | 0x0C => if bits v 7 0 ≤ bits v 15 8 then some true else none
    | _ => none

/-- The most buses an up-block may export at the render rate (R368). -/
def exportLimit (s : State) : Nat := match rateLog s with | 0 => 64 | 1 => 32 | _ => 16

/-- The LINK page (R379). Its fields together may forbid a LINK.CFG; the render rate's limit on XE is a matter of state. A second link
set up is refused as one of state (DESIGN CHOICE, log 115: R379 says only that at most one may be up). -/
def checkLink (s : State) (a : Nat) (v : Word) : Option Bool :=
  if a = R.linkCfg then
    (if 64 < bits v 11 6 + bits v 18 12 then some true else if exportLimit s < bits v 18 12 then some false else none)
  else match chanOf R.linkLcfg 0x40 4 a with
    | some l =>
      if bits v 2 0 = 1 ∧ (List.range 4).any (fun m => m ≠ l && linkDir s m = 1) then some false else none
    | none => none

/-- The DAI page: what an output slot may name; CFG is closed while the port is enabled (R390, R391). -/
def checkDai (s : State) (a : Nat) (v : Word) : Option Bool :=
  let off := a % 0x1000
  if R.daiPage + 0x4000 ≤ a then none
  else if off = 0 then
    (if bits v 1 0 < 2 ∧ bits v 3 2 ≠ 0 then some true
     else if isClosed s .daiEnabled a ∧ ((rd s a ^^^ v) &&& 0xFFF) ≠ 0 then some false else none)
  else if 0x40 ≤ off ∧ off < 0x80 then
    (match bits v 25 24 with
     | 1 => if 63 < bits v 6 0 then some true else none
     | 2 => if 15 < bits v 6 0 then some true else none
     | 3 => if 63 < bits v 6 0 then some true else none
     | _ => none)
  else none

/-- What the description of a register refuses beyond its encodings and its closed fields. -/
def checkWrite (s : State) (a : Nat) (v : Word) : Option Bool :=
  match a / 0x10000 with
  | 0x4003 => checkParser s a v
  | 0x4004 => checkAlloc s a v
  | 0x4005 => checkEvt s a v
  | 0x4006 => checkTense a v
  | 0x4008 => checkOutputs s a v
  | 0x4009 => checkOutputs s a v
  | 0x400B => checkSp s a v
  | 0x400C => checkLink s a v
  | 0x400D => checkDai s a v
  | 0x4010 => (match chanOf R.vdbgVrsel 0x40 16 a with
    | some _ => if verbCode (bits v 5 0) then none else some true
    | none => none)
  | _ => none

/-! ### What a taken write does beyond its fields -/

/-- After a write of a register whose old value is given. -/
def afterWrite (s : State) (a : Nat) (old v : Word) : State :=
  if a = R.tenseCfg then (if bits old 2 0 ≠ bits v 2 0 then selectSource s (bits v 2 0) (nowStamp s) else s)
  else if a = R.tenseTempo then internalTempo s v (nowStamp s)
  else if pageOf a = R.spPage ∧ a % 0x10000 < 0x8000 then
    let p := a % 0x10000 / 0x1000
    if a % 0x1000 = 0x00 then afterSpCfg s p old
    else if a % 0x1000 = 0x04 then afterBaud s p
    else if a % 0x1000 = 0x08 then afterSpCtl s p old
    else s
  else match chanOf R.dacCh 4 16 a, chanOf R.cvoCh 4 8 a, chanOf R.adcTctl 16 32 a, chanOf R.adcCh 4 16 a with
    | some k, _, _, _ => afterDacCh s k
    | _, some k, _, _ => afterCvCh s k
    | _, _, some x, _ => if bitOf v 0 && !bitOf old 0 then enableDetector s x else s
    | _, _, _, some n => if bitOf v 0 then s else cutChannels s fun m => m = n
    | _, _, _, _ => s

/-! ### Registers whose write is an operation -/

/-- PARSER.WIN.CLRMAX: MAX takes NOW (R155). -/
def clrMax (s : State) : State := wrFld s R.parserWin 14 8 (fld s R.parserWin 6 0)

/-- PARSER.TRPTR.FULL is cleared: a ring that stop mode has filled records again from its start (R155). -/
def resumeRing (s : State) : State := wr s R.parserTrptr 0

/-- VDBG.VCTLn is written (R479, R482). With HALT = 0 the Verb resumes; STEP needs a frozen Word-frame. -/
def writeVctl (s : State) (n : Nat) (v : Word) : State :=
  let a := R.vdbgVctl + 0x40 * n
  if dbgLocked s then (if bitOf v 2 ∨ ((rd s a ^^^ v) &&& 3) ≠ 0 then refuse s a false else s)
  else if bitOf v 2 ∧ ¬ ((verbOf s n).halted ∧ (verbOf s n).running) then refuse s a false
  else
    let s := wrFld s a 1 1 (bits v 1 1)
    if !bitOf v 0 then resumeVerb s n
    else if bitOf v 2 then stepVerb s n
    else if (verbOf s n).halted then s
    else requestHalt s n (bitOf v 1)

/-- The Phrase of the Word-frame frozen on a Verb diverges (R481). -/
def divergeFrozen (s : State) (n : Nat) : State :=
  match (bankOfVerb s n).wf with
  | some w => divergeWork s w.frame w.pos
  | none => s

/-- VDBG.VRDATAn is written: the selected register of the halted bank takes the value (R481). -/
def writeVrdata (s : State) (n : Nat) (v : Word) : State :=
  if !(verbOf s n).halted then refuse s (R.vdbgVrdata + 0x40 * n) false
  else
    let code := fld s (R.vdbgVrsel + 0x40 * n) 5 0
    divergeFrozen (setBank s n ((bankOfVerb s n).writeReg code v)) n

/-- NVM.SCMD is written (R432, R435, R438). -/
def writeScmd (s : State) (v : Word) : State :=
  let kind := bits v 23 16
  if bits v 31 30 = 1 ∧ 1 ≤ kind ∧ kind ≤ 15 then startStore s kind (sbufBytes s (bits v 12 0)) true
  else if bits v 31 30 = 2 ∧ 1 ≤ kind ∧ kind ≤ 15 then
    (match s.nvm.op, newestRecord s kind with
     | some _, _ => storeResult s 1
     | none, none => storeResult s 7
     | none, some (_, _, p) => storeResult (wrFld (fillSbuf s (p.take 4096)) R.nvmSstat 12 0 p.length) 0)
  else refuse s R.nvmScmd true

/-- NVM.FCMD is written: DONE clears where it is written 1, and an operation starts; a refused write changes nothing (R9, R437, R438). -/
def writeFcmd (s : State) (v : Word) : State :=
  if bits v 1 0 ≠ 0 ∧ flashRefused s (bits v 1 0) then refuse s R.nvmFcmd false
  else
    let s := if bitOf v 31 then clrFlag s R.nvmFcmd 31 else s
    if bits v 1 0 = 0 then s else startFlash s (bits v 1 0)

/-- NVM.RELOAD is written: a wrong value is refused (R436). What the reload then runs is in Machine/Boot.lean. -/
def writeReload (s : State) (v : Word) : State := if v = 0xA5C3 then s else refuse s R.nvmReload true

/-- LINK.RCTL's fields WRITE and DONE are written; GO is refused while a request is outstanding (R380). What GO sends is in
Machine/Link.lean. -/
def writeRctl (s : State) (v : Word) : State :=
  let a := R.linkRctl
  if bitOf v 0 ∧ flag s a 2 then refuse s a false
  else
    let s := wrFld s a 1 1 (bits v 1 1)
    if bitOf v 3 then clrFlag s a 3 else s

/-- PWR.CMD is written (R446, R458). -/
def writePwrCmd (s : State) (v : Word) : State :=
  if bits v 31 24 ≠ 0x5A then refuse s R.pwrCmd true else pwrRequest s (bits v 2 0)

/-- PWR.FAIL is cleared, with the wake failure it holds (R458). -/
def clearFail (s : State) (v : Word) : State :=
  if bitOf v 31 then clrFlag { wr s R.pwrFail 0 with power := { s.power with failed := false } } R.pwrStat 7 else s

/-- FUSE.PCTL is written (R485): a wrong key, a link mailbox or a word being programmed refuses it. -/
def writePctl (s : State) (fromLink : Bool) (v : Word) : State :=
  if bits v 31 16 ≠ 0x3C96 then refuse s R.fusePctl true
  else if fromLink ∨ flag s R.fusePstat 30 then refuse s R.fusePctl false
  else fuseProgram s (bits v 3 0)

/-- GLOSS.CTL is written: FREEZE and FLASHEN (R468, R472, R474). -/
def writeGlossCtl (s : State) (v : Word) : State :=
  let was := flag s R.glossCtl 0
  let s := wrFld s R.glossCtl 1 1 (bits v 1 1)
  if bitOf v 0 && !was then glossFreeze s else if !bitOf v 0 && was then glossResume s else s

/-- ADC.CTRL is written: the chains follow RUN at the next sample boundary; SYNC issues the sync command (R309, R312). -/
def writeAdcCtrl (s : State) (v : Word) : State :=
  let s := wrFld (if bitOf v 0 then s else cutChannels s fun _ => true) R.adcCtrl 0 0 (bits v 0 0)
  if bitOf v 1 then syncCommand s else s

/-- The PWR and NVM registers whose write is an operation. -/
def powerCommand (s : State) (a : Nat) (v : Word) : Option State :=
  if a = R.pwrCmd then some (writePwrCmd s v)
  else if a = R.pwrDomen then some (writeDomen s v)
  else if a = R.pwrPadrel then some (writePadrel s v)
  else if a = R.pwrVinmin then some (if bitOf v 31 then clearVinmin s else s)
  else if a = R.pwrFail then some (clearFail s v)
  else if a = R.nvmScmd then some (writeScmd s v)
  else if a = R.nvmFcmd then some (writeFcmd s v)
  else if a = R.nvmReload then some (writeReload s v)
  else match chanOf R.nvmSbuf 4 1024 a with
    | some _ => if sbufClosed s then some (refuse s a false) else none
    | none => none

/-- The records that a write clears whole. -/
def recordCommand (s : State) (a : Nat) (v : Word) : Option State :=
  if a % 0x10000 = 0xFFFC then some (clearErr s a v)
  else if a = R.sysBuserr then some (clearRecord s a R.sysBusaddr v)
  else if a = R.memUelog then some (clearRecord s a R.memUeaddr v)
  else if a = R.parserTrptr then some (if bitOf v 31 then resumeRing s else s)
  else if a = R.evtPstat then some (if bitOf v 31 then wr s a (rd s a &&& 0xF) else s)
  else match chanOf R.vdbgVfault 4 16 a with
    | some n => some (clearRecord s a (R.vdbgVslot + 4 * n) v)
    | none => none

/-- The SP registers whose write is an operation (R342, R345). -/
def serialCommand (s : State) (a : Nat) (v : Word) : Option State :=
  let p := a % 0x10000 / 0x1000
  if pageOf a ≠ R.spPage ∨ 8 ≤ p then none
  else match a % 0x1000 with
    | 0x18 => some (writeSpCmd s p v)
    | 0x38 => some (writeTxd s p v)
    | _ => none

/-- A register whose write is an operation rather than a value kept. -/
def commandReg (s : State) (fromLink : Bool) (a : Nat) (v : Word) : Option State :=
  if a = R.evtHwin then some (writeHwin s v).1
  else if a = R.tenseMwin then some (writeMwin s v)
  else if a = R.tenseGo then some (timerGo s (bits v 15 0))
  else if a = R.parserWin then some (if bitOf v 31 then clrMax s else s)
  else if a = R.adcCtrl then some (writeAdcCtrl s v)
  else if a = R.adcCdata then some (writeCdata s v)
  else if a = R.adcCdelay then some (writeCdelay s v)
  else if a = R.linkRctl then some (writeRctl s v)
  else if a = R.glossCtl then some (writeGlossCtl s v)
  else if a = R.glossCmd then some (glossCommand s (bits v 31 16) (bits v 1 0))
  else if a = R.glossRate then some (glossRate s v)
  else if a = R.fusePctl then some (writePctl s fromLink v)
  else match chanOf R.glossOvr 4 16 a, chanOf R.vdbgVctl 0x40 16 a, chanOf R.vdbgVrdata 0x40 16 a with
    | some n, _, _ => some (glossOverride s n v)
    | _, some n, _ => some (writeVctl s n v)
    | _, _, some n => some (writeVrdata s n v)
    | _, _, _ =>
      match powerCommand s a v, recordCommand s a v, serialCommand s a v with
      | some t, _, _ => some t
      | _, some t, _ => some t
      | _, _, t => t

/-! ### A register write -/

/-- A refused SPAN change also sets SPANREF (R290). -/
def noteRefusal (s : State) (a : Nat) (v : Word) : State :=
  match chanOf R.cvoCh 4 8 a with
  | some k => if spanRefused s k v then setFlag s R.cvoStat (8 + k) else s
  | none => s

/-- A register whose write keeps a value is written: what R9 refuses first, then the fields taken and what they act on. -/
def plainOn (s : State) (d : RegDesc) (a : Nat) (v : Word) : State :=
  if undefinedField d v then refuse s a true
  else match checkWrite s a v with
    | some enc => noteRefusal (refuse s a enc) a v
    | none => if changesClosed s d a v then refuse s a false else afterWrite (plainWrite s d a v) a (rd s a) v

/-- A register of a page that is on is written. -/
def writeOn (s : State) (fromLink : Bool) (d : RegDesc) (a : Nat) (v : Word) : State :=
  (commandReg s fromLink a v).getD (plainOn s d a v)

/-- The ERR register after a refusal, from what it held before, whether OFFSET had been cleared on its own, and what the refusal alone
left (R9, R10). -/
def mergeErr (old : Word) (opened : Bool) (new : Word) : Word :=
  if (old &&& 0xA0000000) = 0 then new
  else old ||| (new &&& 0xA0000000) ||| 0x40000000 ||| (if opened then new &&& 0xFFFF else 0)

/-- A write with whether it was refused: the page's ERR register is looked at from 0, and what it held is merged in after. -/
def judged (s : State) (e : Nat) (f : State → State) : State × Bool :=
  let old := rd s e
  let opened := s.host.errOpen.contains (pageOf e)
  let t := f (wr s e 0)
  let new := rd t e
  if new = 0 then (wr t e old, false) else (wr t e (mergeErr old opened new), true)

/-- A word is written to a register (R4 to R10, R25, R27): the state after it, and whether it was refused or a bus error. An offset
without a register ignores it. The requester is 0 the host, 2 the link. -/
def writeReg (s : State) (req a : Nat) (v : Word) : State × Bool :=
  if !domainOn s (pageDomain a) then (busErr s req 2 true a, true)
  else match regDesc a with
    | none => (s, false)
    | some d =>
      if a % 0x10000 = 0xFFFC then (clearErr s a v, false)
      else if a = R.pwrCmd ∧ bits v 31 24 = 0x5A ∧ bits v 2 0 = 4 ∧ ¬ flag s R.pwrStat 3 then (deviceReset s 3, false)
      else judged s (pageOf a + 0xFFFC) fun t => writeOn t (decide (req = 2)) d a v

/-! ### Memory writes (R24, R25, R481) -/

/-- A write to a halted Verb's memory diverges: of program memory every frame until the next boot or reload, of X or Y memory every
Phrase that lies on the Verb (R481). -/
def markWritten (s : State) (n off : Nat) : State :=
  if off < 0x10000 then { s with boot := { s.boot with programWritten := true } }
  else { s with phrases := s.phrases.map fun p => if p.home = some n then { p with diverged := true } else p }

/-- An address that reads 0 whatever is written to it: what Table 2 of the memory chapter assigns to no area of shared memory (R393), and
in a Verb's local memory the zero frame and the reserved words of the two bank areas (R85). No write of the device reaches one. -/
def readsZero (s : State) (a : Nat) : Bool :=
  match regionOf a with
  | .verb _ =>
    let l := a % 0x40000
    (0x28000 ≤ l && l < 0x28040) || (0x10080 ≤ l && l < 0x10100) || (0x12080 ≤ l && l < 0x12100)
  | .shared =>
    (0x0144B100 ≤ a && a < 0x0144C000) || (0x01452000 ≤ a && a < 0x01480000) || (0x0148D000 ≤ a && a < 0x014C0000) ||
      (0x014C0000 + fld s R.memDly 4 0 * 0x10000 ≤ a && a < 0x015C0000) || 0x015C8000 ≤ a
  | _ => false

/-- A word of memory is written by the host, or by a link's mailbox under the host's rules (R24): closed while rendering, except the
local memory of a halted Verb. Where memory reads 0 whatever is written, nothing is stored (R85, R393). -/
def writeMemory (s : State) (req a : Nat) (v : Word) : State × Bool :=
  if !memoryOpen s a then (busErr s req 2 true a, true)
  else
    let put := fun t : State => if readsZero s a then t else memStore t (if req = 2 then 4 else 5) a 4 (v.setWidth 64)
    match regionOf a with
    | .verb n =>
      if (verbOf s n).halted then (markWritten (put s) n (a % 0x40000), false)
      else if s.time.rendering then (busErr s req 1 true a, true) else (put s, false)
    | _ => if s.time.rendering then (busErr s req 1 true a, true) else (put s, false)

/-- A word is written to the device map (R23 to R25): the state after it, and whether it was a bus error or refused. -/
def writeWord32 (s : State) (req a : Nat) (v : Word) : State × Bool :=
  match regionOf a with
  | .none => (busErr s req 0 true a, true)
  | .page => writeReg s req a v
  | _ => writeMemory s req a v

end Sys2Proof.Machine
end

