-- ==== Sys2Proof/Machine/Boot.lean ====
section
/-! DEFINITION. The boot sequence, the reload and the wake (R416 to R419, R425, R432, R436, R445, R453 to R455): lists, the
configuration, the memories, the Gloss bank, the boot-failure state, and the roles that LINK.CFG fixes (R347, R371). -/

namespace Sys2Proof.Machine

/-- The test port holds the device in reset (R476, R477). -/
def tapHolds (s : State) : Bool :=
  match s.tap.ir with
  | .extest => true | .clamp => true | .highz => true
  | _ => false

/-! ### Lists (R425) -/

/-- An entry of a list is logged: the list (0 DEVICE, 1 WAKE), the entry, the cause (log 35). -/
def logEntry (s : State) (list i cause : Nat) : State := raiseGloss s 0x1260 (w32 list) (w32 i) (Config.listCause cause)

/-- A list's entry writes a register: a bus error has cause 1, a refusal cause 0. -/
def listWrite (s : State) (list i a : Nat) (v : Word) : State :=
  let closed := !domainOn s (pageDomain a)
  let r := writeReg s 1 a v
  if r.2 then logEntry r.1 list i (b2n closed) else r.1

/-- TCLK cycles pass while a list waits: AO time and the timers go on (R454, log 36). -/
def passTime : Nat → State → State
  | 0, s => s
  | n + 1, s => passTime n (applyClockDue (timeTick s))

/-- A register is read once a TCLK cycle until it has a value under a mask, for as many cycles as are given: whether it came to that, and
whether the read was a bus error (R425, log 36). -/
def waitReg (a : Nat) (m v : Word) : Nat → State → State × Bool × Bool
  | n, s =>
    let (t, old, bad) := readWord32 s 1 a
    if bad then (t, false, true)
    else if old &&& m = v then (t, true, false)
    else match n with
      | 0 => (t, false, false)
      | k + 1 => waitReg a m v k (applyClockDue (timeTick t))

/-- One entry of a list: a write under a mask, a wait of up to 1 ms, or a delay of up to 100,000 µs. An address that is no register's is
a bus error, of CAUSE 0 whatever lies there (DESIGN CHOICE, log 144: R425 gives an entry a register's address). -/
def listEntry (list : Nat) (s : State) (e : Nat × Nat × Nat × Nat) : State :=
  let (i, addr, m, v) := e
  let a := addr - addr % 4
  if addr % 4 = 2 then passTime (msCycles s (min v 100000) / 1000) s
  else if regionOf a ≠ .page then logEntry (busErr s 1 0 (decide (addr % 4 = 0)) a) list i 1
  else if addr % 4 = 0 ∧ m = 0xFFFFFFFF then listWrite s list i a (w32 v)
  else if addr % 4 = 0 then
    let (s, old, bad) := readWord32 s 1 a
    if bad then logEntry s list i 1 else listWrite s list i a ((old &&& ~~~(w32 m)) ||| (w32 v &&& w32 m))
  else
    let (s, met, bad) := waitReg a (w32 m) (w32 v) (msCycles s 1) s
    if bad then logEntry s list i 1 else if met then s else logEntry s list i 2

/-- A list runs to its end entry; one without an end entry is not run (R425). -/
def runList (s : State) (list : Nat) (bs : List Byte) : State :=
  match listEntries bs with
  | none => logEntry s list 0xFFFF 3
  | some es => ((List.range es.length).zip es).foldl (listEntry list) s

/-! ### The TENSE section (R261) -/

/-- Would a TENSE register take a value (R9). -/
def tenseTakes (a v : Nat) : Bool :=
  (match regDesc a with | some d => !undefinedField d (w32 v) | none => true) && (checkTense a (w32 v)).isNone

/-- The checks of a TENSE payload in the order of its fields (R261, Table 8). -/
def tenseChecks (bs : List Byte) : List (Nat × Nat × Bool) :=
  let f := fieldAt bs
  [(0, 4, tenseTakes R.tenseCfg (f 0 4)), (4, 4, tenseTakes R.tensePll (f 4 4)), (8, 4, tenseTakes R.tenseTempo (f 8 4)),
   (0xC, 4, tenseTakes R.tenseTpctl (f 0xC 4)), (0x10, 2, true), (0x12, 1, decide (f 0x12 1 ≤ 1)), (0x13, 1, decide (f 0x13 1 ≤ 16)),
   (0x14, 12, decide (f 0x14 12 = 0))] ++
    ((List.range (min 16 (f 0x13 1))).map fun i =>
      let o := 0x20 + 20 * i
      let n := f o 1
      [(o, 1, decide (n ≤ 15) && (List.range i).all fun j => f (0x20 + 20 * j) 1 ≠ n), (o + 1, 3, decide (f (o + 1) 3 = 0)),
       (o + 4, 4, tenseTakes (timerReg n 0) (f (o + 4) 4)), (o + 8, 4, tenseTakes (timerReg n 0xC) (f (o + 8) 4)),
       (o + 12, 4, tenseTakes (timerReg n 0x10) (f (o + 12) 4)), (o + 16, 4, tenseTakes (timerReg n 0x14) (f (o + 16) 4))]).flatten

/-- The first failing field of a TENSE payload, or the end of one that is too long. -/
def tenseFailure (bs : List Byte) : Option Nat :=
  match firstFailing bs.length (tenseChecks bs) with
  | some o => some o
  | none => let n := 32 + 20 * fieldAt bs 0x13 1; if n < bs.length then some n else none

/-- The TENSE payload is written into the registers; GOMASK and START wait for the epoch (R261). -/
def writeTense (s : State) (bs : List Byte) : State :=
  let f := fieldAt bs
  let put := fun (s : State) (e : Nat × Nat) => (writeReg s 1 e.1 (w32 (f e.2 4))).1
  let s := [(R.tenseCfg, 0), (R.tensePll, 4), (R.tenseTempo, 8), (R.tenseTpctl, 0xC)].foldl put s
  let s := (List.range (f 0x13 1)).foldl (fun s i =>
    let o := 0x20 + 20 * i
    let n := f o 1
    [(timerReg n 0xC, o + 8), (timerReg n 0x10, o + 12), (timerReg n 0x14, o + 16), (timerReg n 0, o + 4)].foldl put s) s
  onTense s fun t => { t with atEpoch := (f 0x10 2, f 0x12 1 = 1) }

/-- The TENSE section is applied (R261): an absent one leaves the reset values (R421), a rejected one is logged. Q_f begins at the
stored tempo whatever the source, since no pulse has been measured (DEDUCED from R240, log 44). -/
def applyTense (s : State) (bs : Option (List Byte)) : State :=
  let s := match bs with
    | none => s
    | some bs => (match tenseFailure bs with
      | some o => raiseGloss s 0x1240 (w32 o) 0 0
      | none => writeTense s bs)
  let s := onTense s fun t => { t with qf := tempoQ s (rd s R.tenseTempo) }
  { s with boot := { s.boot with tenseApplied := true } }

/-! ### The configuration (R418) -/

/-- The device's serial number (Table 4 of the debug chapter). -/
def serialNumber (s : State) : Nat := (fuseWord s 4).toNat + 2 ^ 32 * (fuseWord s 5).toNat

/-- The configuration is applied in the order of R418; global Phrases are created as rendering starts, at step 11. -/
def configure (s : State) (img : List Byte) : State :=
  let s := { s with boot := { s.boot with deviceApplied := false, tenseApplied := false } }
  let s := match sectionBytes img 1 with | some bs => runList s 0 bs | none => s
  let s := { s with boot := { s.boot with deviceApplied := true } }
  let s := applyDecls s ((sectionBytes img 3).getD [])
  let s := checkFeeds (applySyntaxes s ((sectionBytes img 2).getD []))
  let s := match sectionBytes img 5 with
    | some bs => applyEvmap s bs
    | none => { s with evt := { s.evt with map := {}, held := [], progs := List.replicate 16 (0xFFFF, 0) } }
  applyCal (applyTense s (sectionBytes img 6)) (sectionBytes img 8) (serialNumber s)

/-! ### Memories and what they hold (R409 to R411, R417, R426, R427) -/

/-- Every bank but the Gloss bank is cleared, and the tests of its rows start afresh (R408, R410, R417). -/
def clearMemories (s : State) : State :=
  let kept := fun a : Nat => glossBank.1 ≤ a && a < glossBank.2
  { s with mem := s.mem.filter fun c => kept c.1, ecc := s.ecc.filter fun c => kept c.1,
           memint := { s.memint with skip := [], scrub := [], held := [], tableErr := none },
           boot := { s.boot with cleared := true } }

/-- Each bank's map shows the used spares and the entries of the AO map. -/
def showRepairs (s : State) : State :=
  let s := { s with regs := s.regs.filter fun r => !(R.memRmap ≤ r.1 && r.1 < R.memRmap + 16 * 72) }
  let s := s.memint.used.foldl (fun t u => setSpare t u.1 u.2 0x4000) s
  s.memint.aoMap.foldl (fun t e => setSpare t e.1 e.2.2 (0x8000 + e.2.1)) s

/-- The map is the union of the store record and the AO map (R409). -/
def uniteRepairs (s : State) : State :=
  let record := match newestRecord s 0x10 with | some (_, _, p) => repairEntries p | none => []
  let stored := record.filter fun e => e.2.1 < 0x4000
  let gone := (record.filter fun e => 0x4000 ≤ e.2.1).map fun e => (e.1, e.2.2)
  let ao := s.memint.aoMap
  let both := ao ++ stored.filter fun e => !ao.contains e
  let used := s.memint.used ++ gone.filter fun u => !s.memint.used.contains u
  let s := showRepairs { s with memint := { s.memint with aoMap := both, used } }
  raiseGloss s 0x2122 (w32 stored.length) (w32 ao.length) (w32 both.length)

/-- The Verbs whose domain is on. -/
def poweredVerbs (s : State) : List Nat := (List.range 16).filter fun v => domainOn s (if v < 8 then 1 else 2)

/-- The program of a VERB payload is written into program memories, the rest of which is cleared (R426). -/
def loadPrograms (s : State) (verb : List Byte) (vs : List Nat) : State :=
  let prog := (verb.drop 8).take (min 65536 (fieldAt verb 0 4))
  vs.foldl (fun t v => putBytes (clearRange t (verbBase v) (verbBase v + 65536)) (verbBase v) prog) s

/-- What the accepted image holds goes to the memories (R417, R426, R427): skip leaves the wave data as the Lexicon kept it. -/
def loadContent (s : State) (img : List Byte) (skip : Bool) : State :=
  let s := match sectionBytes img 4 with
    | some bs => let t := applyWaves s bs (!skip); if skip then t else loadHeads t
    | none => { s with image := { s.image with waves := [], strBase := 0, strSize := 0, pool := [] } }
  loadPrograms s ((sectionBytes img 3).getD []) (poweredVerbs s)

/-! ### The Gloss bank at boot (R471, R473) -/

/-- The record image of a Gloss store is put back (R473). -/
def restoreGloss (s : State) (p : List Byte) : State :=
  let s := putBytes (emptyBank s) glossBase ((p.drop 32).take 32768)
  onGloss s fun g => { g with kcount := fieldAt p 0 2, rhead := fieldAt p 2 2, wrap := fieldAt p 4 1 = 1, valid := true }

/-- Boot step 9 for the Gloss bank: kept with origin 1, loaded from flash with origin 2, or empty with origin 0. -/
def bootGloss (s : State) : State :=
  if fld s R.pwrRstcause 1 0 ≠ 0 ∧ s.gloss.valid then reachBank (clearTorn s) (some (1, 0))
  else match decide (flag s R.glossCtl 1), newestRecord s 0x11 with
    | true, some (_, _, p) => reachBank (restoreGloss s p) (some (2, 0))
    | _, _ => reachBank (emptyBank s) (some (0, 0))

/-! ### Roles that the configuration fixes (R347, R371) -/

/-- Does the largest up-block fit its frame (R371): 20 ns × (B + 14) + 5.12 µs + 2 µs, in nanoseconds. -/
def blockFits (s : State) : Bool :=
  let b := 16 + 128 * fld s R.linkCfg 18 12 + 2 * (slotCount s + 32 + (slotCount s + 32) % 2)
  (20 * (b + 14) + 7120) * fsHz s ≤ 16000000000

/-- The device runs alone: its links are off (R347). -/
def becomeSingle (s : State) : State :=
  let s := wr { s with sys := { s.sys with single := true } } R.linkAddr 0x80000000
  (List.range 4).foldl (fun t l => if linkState t l = 0 then t else setLinkState (onLink t l fun _ => {}) l 0) s

/-- The device becomes the root (R347, R349), or single where its up-blocks do not fit a frame (R371): that entry names no link and no
peer, so those words are free values (log 37). -/
def becomeRoot (s : State) : State :=
  if blockFits s then wr { s with sys := { s.sys with single := false } } R.linkAddr 0xC0003FFF
  else
    let (s, l) := drawFree s
    let (s, p) := drawFree s
    becomeSingle (raiseGloss s 0x6150 l 6 p)

/-- The device becomes a worker, without an address yet (R347). -/
def becomeWorker (s : State) : State := wr { s with sys := { s.sys with single := false } } R.linkAddr 0x80000000

/-- Step 11 fixes a role that LINK.CFG names, or that a boot over a link gives; auto waits (R347). The links that are not off begin
their training (R356). -/
def startLinks (s : State) (link : Bool) : State :=
  let s := { s with sys := { s.sys with roleFrom := s.time.aoTime } }
  let s := match link, fld s R.linkCfg 1 0 with
    | true, _ => if flag s R.linkAddr 31 then s else becomeWorker s
    | _, 0 => becomeSingle s
    | _, 1 => becomeRoot s
    | _, 2 => if flag s R.linkAddr 31 && !flag s R.linkAddr 30 then s else becomeWorker s
    | _, _ => s
  if s.sys.single then s
  else (List.range 4).foldl (fun t l => if linkDir t l ≠ 0 ∧ linkState t l = 0 then setLinkState t l 1 else t) s

/-! ### Steps 5 to 8, and failure (R416, R419) -/

/-- A domain is off without its balls being latched. -/
def dropDomain (s : State) (d : Nat) : State := if domainOn s d then clrFlag (loseDomain s d) R.pwrDomstat d else s

/-- The boot-failure state (R419): the step, and the reason of the Gloss entry (a free value where that entry has none, log 38). PD0
and PD3 stay on; with LBOOT, PD7 too, and LK0 becomes the upstream link. -/
def bootFailure (s : State) (step : Nat) (reason : Option Nat) : State :=
  let lboot := flag s R.linkCfg 2
  let (s, r) := match reason with | some r => (s, w32 r) | none => drawFree s
  let s := (if lboot then [1, 2, 4, 5, 6] else [1, 2, 4, 5, 6, 7]).foldl dropDomain s
  let s := raiseIrq (wr s R.nvmBoot (w32 (0x80000000 + r.toNat % 256 * 65536 + step * 16))) 8
  let s := clrFlag (wrFld s R.pwrStat 2 0 0) R.pwrStat 3
  let s := { s with boot := { s.boot with ready := true, complete := false, interruptMode := false, reloading := false } }
  if !lboot then s
  else
    let s := wrFld (setFlag s R.pwrDomstat 7) R.linkLcfg 2 0 1
    if linkState s 0 = 0 then setLinkState s 0 1 else s

/-- The image is accepted (R12, R16, R240, R445, R454): FS, the family too where none was measured, Q_f at that rate, and what PD0
holds of it. -/
def acceptImage (s : State) (img : List Byte) (link : Bool) : State :=
  let fs := fieldAt img 0xC 1
  let s := if s.time.familyOpen then familyPorts (wrFld s R.clkStat 3 3 (b2n (fs % 2 = 0))) else s
  let changed := decide (fsCode s ≠ fs)
  let s := wr (wrFld s R.clkStat 2 0 fs) R.nvmBoot (w32 (0x80 + 0x40000000 * b2n link))
  let s := if changed ∨ tempoSource s = 0 then onTense s fun t => { t with qf := tempoQ s (rd s R.tenseTempo) } else s
  { s with power := { s.power with accepted := some (acceptOf img) } }

/-- Steps 5 to 8 up to the check: the accepted image and whether its wave data is skipped; none where the device is in the boot-failure
state. -/
def checkedImage (s : State) (link retained : Bool) : State × Option (List Byte × Bool) :=
  let s := if s.flash.responds then discoverFlash s else s
  if !link ∧ !s.flash.responds then (bootFailure (raiseGloss s 0x1110 0 0 0) 5 (some 0), none)
  else
    let img := readImage s link
    let skip := retained && waveHeld s img
    match imageFault s img (imageCapacity s link) skip with
    | some (code, a, b, c, step) =>
      (bootFailure (raiseGloss s code (w32 a) (w32 b) (w32 c)) step (if code = 0x1131 then none else some a), none)
    | none => (acceptImage s img link, some (img, skip))

/-! ### The end of a boot (R416, R432) -/

/-- Step 10: a Verb that fails its self-test is absent (R416). -/
def selfTests (s : State) (fails : Nat) : State :=
  (poweredVerbs s).foldl (fun t v =>
    let bad := decide (fails / 2 ^ v % 2 = 1)
    let t := onVerb t v fun x => { x with absent := bad }
    if bad then raiseGloss t 0x1150 (w32 v) 0 0 else t) s

/-- Has a range of the flash anything programmed. -/
def flashUsed (s : State) (a n : Nat) : Bool := s.flash.bytes.any fun c => a ≤ c.1 && c.1 < a + n

/-- One slot in the scan after step 13: it is kept where it holds the newest record, and else erased unless blank (R432). -/
def scanSlot (d : StoreDesc) (kind : Nat) (s : State) (k : Nat) : State :=
  match slotPlace d kind k, newestRecord s kind with
  | some (a, size), newest =>
    let isNewest : Bool := match newest with | some (n, _, _) => n = k | none => false
    if isNewest || !flashUsed s a size then s
    else
      let t := flashEraseRange s a size
      if (slotRecord s kind k).isSome then t else raiseGloss t 0x1330 (w32 kind) (w32 k) 0
  | none, _ => s

/-- The store area is scanned (R432). -/
def scanStore (s : State) : State :=
  match s.nvm.desc with
  | none => s
  | some d => d.kinds.foldl (fun t k => [0, 1].foldl (scanSlot d k.1) t) s

/-- Interrupt mode: the Verbs leave slot mode and rendering starts; the epoch is set at the next boundary unless a SYNC comes first
(R17, R146, R416, R458). -/
def enterInterruptMode (s : State) (link : Bool) : State :=
  let s := { s with boot := { s.boot with interruptMode := true, complete := true, programWritten := false } }
  let s := { s with time := { s.time with stampOld := s.time.epochSet || s.time.stampOld, epochSet := false, synced := false } }
  let s := wr s R.nvmBoot (w32 (0xD0 + 0x40000000 * b2n link))
  startLinks (startRendering (wrFld s R.pwrStat 2 0 0) 0) link

/-- Steps 10 to 13: self-test, interrupt mode, pads released, outputs unmuted; then the store area is scanned. -/
def finishBoot (s : State) (link : Bool) (fails : Nat) : State :=
  let s := enterInterruptMode (selfTests s fails) link
  let s := [11, 13, 15].foldl (fun t b => clrFlag t R.pwrDomstat b) s
  scanStore (raiseIrq (openAllParks s) 8)

/-- Steps 5 to 13 (R416). The repair map is united before any memory is cleared (R409, R417); the Gloss bank and the cause of the reset
are seen to once for each reset, so that a reload, which is none, leaves them (R436, R443). -/
def bootFromFive (s : State) (link : Bool) (fails : Nat) : State :=
  match checkedImage s link false with
  | (s, none) => s
  | (s, some (img, _)) =>
    let s := uniteRepairs (applyStore s (sectionBytes img 9) (fieldAt img 8 4))
    let s := configure (loadContent (clearMemories s) img false) img
    if !s.boot.ready then s
    else
      let s := if s.boot.causeDue then
          raiseGloss (bootGloss { s with boot := { s.boot with causeDue := false } }) 0x0110 (w32 (fld s R.pwrRstcause 1 0))
            (w32 (fld s R.pwrRstcause 31 16)) 0
        else s
      finishBoot s link fails

/-- The Verbs that a step's time-out holds absent, and those whose self-test fails (R416). -/
def timedOut (out : List BootStep) (fails : Nat) : Nat :=
  out.foldl (fun f x => match x with | .selfTest v => f ||| 2 ^ v.val | _ => f) fails

/-- Steps 4 to 13 (R416), of which some time out: a fuse read that does is logged and boot continues; which word it had come to is a free
value (log 38). -/
def bootFromFour (s : State) (link : Bool) (fails : Nat) (out : List BootStep) : State :=
  let s := readFuses s
  let s := if out.contains .fuses then
      let (s, w) := drawFree s
      raiseGloss s 0x1105 w 0 0
    else s
  if out.contains .discovery then bootFailure (raiseGloss s 0x1110 1 0 0) 5 (some 1)
  else if out.contains .load then
    let (s, n) := drawFree (if s.flash.responds then discoverFlash s else s)
    bootFailure (raiseGloss s 0x1130 n 0 0) 7 none
  else bootFromFive s link (timedOut out fails)

/-- Boot step 3 is complete: the host is heard and the charger starts; the crystal is the reference where it runs, and its family has been
measured against the AO oscillator (R12, R13, R14, R31, R442). -/
def stepThree (s : State) (crystal44 : Bool) : State :=
  if s.boot.ready then s
  else
    let s := familyPorts (wrFld s R.clkStat 3 3 (b2n crystal44))
    let s := wrFld (wrFld s R.clkStat 5 4 0) R.nvmBoot 7 4 3
    startCharger { s with boot := { s.boot with ready := true }, time := { s.time with familyOpen := false } }

/-- The device is in its boot sequence with step 1 complete (R457): no boot has ended, well or badly, no reload waits, and nothing holds
it. -/
def bootPending (s : State) : Bool :=
  supplyGood s && !s.boot.complete && !flag s R.nvmBoot 31 && !s.boot.reloading && !asleep s && !tapHolds s

/-- BOOT_SEQUENCE: the supply is good and the device performs the steps of Table 1 (R416). The operands: bit v is set where Verb v fails
its self-test; the crystal fitted is one of the 44.1 kHz family. -/
def execBootSequence (selfTestFails : BitVec 16) (crystal44 : Bool) (s : State) : Host.Outcome State Fault Refusal :=
  if bootPending s then .next (bootFromFour (stepThree s crystal44) false selfTestFails.toNat []) else .next s

/-- A failure at boot steps 2 or 3, or wake steps W2 or W4, after its retries (R444, R455). -/
def supplyFailure (s : State) (step sources : Nat) : State :=
  let s := wr s R.pwrFail (w32 (0x80000000 + step * 16 + 4))
  let s := setFlag { s with power := { s.power with failed := true } } R.pwrStat 7
  raiseGloss (raiseIrq s 9) 0x0121 (w32 step) 4 (w32 sources)

/-- Boot step 2 or 3 fails for good: the device is in OFF with FAULT asserted, and a WAKE edge, a host command or a reset tries again
(R455). -/
def bootSupplyFailure (s : State) (step : Nat) : State :=
  let s := supplyFailure ([1, 2, 3, 4, 5, 6, 7].foldl dropDomain s) step 0
  wrFld { s with power := { s.power with domains := 0xFF }, boot := { s.boot with ready := true, supplyFailed := true } } R.pwrStat 2 0 3

/-- BOOT_TIMEOUT: a boot step does not end in time, steps 2 and 3 after their retries (R416, R455). A step of a reload that waits is to
time out when the reload comes to it. -/
def execBootTimeout (step : BootStep) (crystal44 : Bool) (s : State) : Host.Outcome State Fault Refusal :=
  if s.boot.reloading then .next { s with boot := { s.boot with reloadOut := step :: s.boot.reloadOut } }
  else if !bootPending s then .next s
  else match step with
    | .alwaysOn => .next (if s.boot.ready then s else bootSupplyFailure s 2)
    | .regulators => .next (if s.boot.ready then s else bootSupplyFailure s 3)
    | x => .next (bootFromFour (stepThree s crystal44) false 0 [x])

/-! ### Reload (R436) -/

/-- The domains that PWR.DOMEN names turn on again. -/
def domainsOn (s : State) (want : Nat) : State :=
  [3, 4, 1, 2, 5, 6, 7].foldl (fun t d => if want / 2 ^ d % 2 = 1 then domainUp t d else t) s

/-- The transport and rendering stop, and steps 4 to 13 of a reload run. -/
def runReload (s : State) : State :=
  let out := s.boot.reloadOut
  let s := stopRendering { s with boot := { s.boot with reloading := false, reloadOut := [] } }
  let s := wr (clearDebug s) R.nvmBoot 0
  bootFromFour (domainsOn s (fld s R.pwrDomen 7 0 ||| 0x18)) false 0 out

/-- NVM.RELOAD has been written with its value (R435, R436): the BOOT cause begins on every output, and the rest waits until all are parked
and no store runs. -/
def startReload (s : State) : State :=
  if !s.boot.ready ∨ s.boot.reloading then s
  else { s with boot := { s.boot with complete := false, reloading := true, reloadOut := [] } }

/-- A reload that waits goes on. -/
def reloadDue (s : State) : Bool := s.boot.reloading && allParked s && !storeRunning s

/-- The reload that is due runs. -/
def continueReload (s : State) : State := if reloadDue s then runReload s else s

/-- STORE_COMMIT: the store under way commits or fails (R432, R435). -/
def execStoreCommit (s : State) : Host.Outcome State Fault Refusal := .next (storeCommit s)

/-! ### Wake (R411, R453 to R455) -/

/-- W3 and W4 (R14, R260, R442, R454): the crystal, where XTAL asks for it, or the AO oscillator with XFAIL; the charger starts. -/
def wakeClock (s : State) (crystal : Bool) : State :=
  let s := startCharger s
  if !flag s R.clkCtrl 4 then wrFld s R.clkStat 5 4 2
  else if crystal then switchClock (wrFld s R.clkStat 5 4 0) false 2
  else
    let now := s.time.aoTime.toNat
    raiseGloss (setFlag (wrFld s R.clkStat 5 4 2) R.clkStat 8) 0x8100 (w32 now) (w32 (now / 2 ^ 32)) 1

/-- W6 for the Gloss bank: a bank that was not retained is empty (R471). -/
def wakeGloss (s : State) (retained : Bool) (w1 : DWord) : State :=
  if retained then reachBank s none else reachBank (emptyBank s) (some (0, w1))

/-- W9 to W11. The microseconds from W1 to W11 are a free value (log 38). FAULT is released; WFAIL stands while PWR.FAIL holds its record
(R444, R458). -/
def finishWake (s : State) (img : List Byte) (sources retries fails : Nat) : State :=
  let s := selfTests s fails
  let s := match sectionBytes img 7 with | some bs => runList s 1 bs | none => s
  if !s.boot.ready then s
  else
    let s := { s with power := { s.power with failed := false } }
    let (s, us) := drawFree (raiseIrq (reachState (enterInterruptMode s false) 0) 8)
    raiseGloss s 0x0120 (w32 sources) us (w32 retries)

/-- W1: the events that start the wake are shown, and the latch is empty. -/
def wakeTaken (s : State) : State :=
  let src := s.power.wakeLatch.toNat
  wr { s with power := { s.power with wakeLatch := 0, waking := false, retries := (0, 0, 0) } } R.pwrWakesrc (w32 src)

/-- The retries of W2, W3 and W4: of four time-outs the last is none (R454). -/
def retriesOf (r : Nat × Nat × Nat) : Nat := min 3 r.1 + min 3 r.2.1 + min 3 r.2.2

/-- W2 to W7 up to the image (R454): the clock, the domains, the Gloss bank. -/
def wakeDomains (s : State) (crystal : Bool) : State :=
  let slept := decide (devState s = 2)
  let w1 := s.time.aoTime
  let s := wakeTaken { s with boot := { s.boot with ready := true } }
  let s := domainsOn (wakeClock s crystal) s.power.domains.toNat
  wakeGloss (showRepairs (clearDebug s)) (slept && flag s R.pwrRet 7) w1

/-- A wake from SLEEP or OFF (R454): whether the crystal starts, the Verbs that fail their self-test. -/
def wake (s : State) (crystal : Bool) (fails : Nat) : State :=
  let slept := decide (devState s = 2)
  let sources := s.power.wakeLatch.toNat
  let retries := retriesOf s.power.retries
  match checkedImage (wakeDomains s crystal) false (slept && flag s R.pwrRet 8) with
  | (s, none) => s
  | (s, some (img, skip)) =>
    let s := if skip then s else clearRange s 0 0x01000000
    let s := configure (loadContent (applyStore s (sectionBytes img 9) (fieldAt img 8 4)) img skip) img
    if !s.boot.ready then s else finishWake s img sources retries fails

/-- The wake sources that PWR.WAKEEN enables. -/
def enabledSources (s : State) (sources : BitVec 24) : BitVec 24 := sources &&& BitVec.ofNat 24 (fld s R.pwrWakeen 23 0)

/-- The device waits in OFF after boot step 2 or 3 has failed, and what would start a wake tries the boot again (R455). -/
def retryBoot (s : State) : State :=
  let s := domainsOn (wakeTaken s) 0xFE
  wrFld { s with boot := { s.boot with ready := false, supplyFailed := false } } R.pwrStat 2 0 0

/-- A latched wake event starts the wake: in SLEEP or OFF, without a warning (R448, R453); after a failed boot, an edge on WAKE or a host
command does (R455). A wake whose step is being retried goes on (R454). -/
def wakeDue (s : State) : Bool :=
  asleep s && !tapHolds s &&
    (s.power.waking || (!flag s R.pwrStat 5 &&
      (if s.boot.supplyFailed then s.power.wakeLatch &&& 3 else s.power.wakeLatch) ≠ 0))

/-- The wake that is due starts. -/
def startWake (s : State) (fails : Nat) : State :=
  if !wakeDue s then s else if s.boot.supplyFailed then retryBoot s else wake s true fails

/-- An edge on the WAKE ball brings it to the other level; it is a wake event where it has the polarity of WAKEEN.WPOL: 0 rising, 1 falling
(R453, R458, log 145). -/
def wakeEdge (s : State) (sources : BitVec 24) : State × BitVec 24 :=
  if !sources.getLsbD 1 then (s, sources)
  else
    let level := !s.pins.wake
    ({ s with pins := { s.pins with wake := level } }, if level = flag s R.pwrWakeen 24 then sources &&& ~~~2 else sources)

/-- WAKE_EVENT: the edges and commands of R453 occur in one cycle. Those that are enabled start the wake, or are latched while SLEEP or OFF
is being entered or WARN is 1; in RUN and QUIET they do nothing. -/
def execWakeEvent (sources : BitVec 24) (selfTestFails : BitVec 16) (s : State) : Host.Outcome State Fault Refusal :=
  let (s, sources) := wakeEdge s sources
  if asleep s ∨ s.power.entry.isSome then .next (startWake (latchWake s (enabledSources s sources)) selfTestFails.toNat)
  else .next s

/-- A time-out of W2, W3 or W4 is counted: the step is retried, and the wake goes on, until the fourth (R454). -/
def wakeRetry (s : State) (r : Nat × Nat × Nat) (n : Nat) (exhausted : State → State) : State :=
  let s := { s with power := { s.power with waking := true, retries := r } }
  if n < 4 then s else exhausted s

/-- A wake failure at W2 or W4: the device stays in the state it was in (R455). -/
def wakeFailure (s : State) (step : Nat) : State :=
  let src := s.power.wakeLatch.toNat
  supplyFailure (wakeTaken s) step src

/-- WAKE_STEP_TIMEOUT: a step of a wake does not end in time. It is retried, falls back or fails the wake (R454, R455). A device in SLEEP or
OFF without a latched event has begun a wake whose sources the row does not name (log 39). -/
def execWakeStepTimeout (step : WakeStep) (s : State) : Host.Outcome State Fault Refusal :=
  let r := s.power.retries
  if !asleep s ∨ tapHolds s ∨ s.boot.supplyFailed ∨ (flag s R.pwrStat 5 ∧ ¬ s.power.waking) then .next s
  else match step with
    | .bucks => .next (wakeRetry s (r.1 + 1, r.2.1, r.2.2) (r.1 + 1) fun t => wakeFailure t 2)
    | .crystal =>
      if !flag s R.clkCtrl 4 then .next s
      else .next (wakeRetry s (r.1, r.2.1 + 1, r.2.2) (r.2.1 + 1) fun t => wake t false 0)
    | .pll => .next (wakeRetry s (r.1, r.2.1, r.2.2 + 1) (r.2.2 + 1) fun t => wakeFailure t 4)
    | .image =>
      let (t, n) := drawFree (wakeDomains s true)
      .next (bootFailure (raiseGloss t 0x1130 n 0 0) 7 none)
    | .selfTest v => .next (wake s true (2 ^ v.val))

/-- ENTRY_COMPLETE: SLEEP or OFF is reached; a wake that was latched meanwhile begins (R448). -/
def execEntryComplete (s : State) : Host.Outcome State Fault Refusal := .next (startWake (entryComplete s) 0)

/-- WARNING_RECOVERY: VIN rises above the recovery threshold; a wake that was latched meanwhile begins (R450, R451, R453). -/
def execWarningRecovery (vin : BitVec 16) (s : State) : Host.Outcome State Fault Refusal :=
  .next (startWake (warningRecovery s vin) 0)

/-! ### The program of a Verb domain (R445) -/

/-- The Verbs of a domain, and of the other Verb domain. -/
def domainVerbs (d : Nat) : List Nat := (List.range 8).map (· + 8 * (d - 1))

/-- A Verb domain that has been turned on takes its programs: from the lowest Verb of the other domain, or from the flash, whose VERB
section must be the one that was accepted. -/
def loadDomain (s : State) (d : Nat) : State :=
  let vs := domainVerbs d
  let present := fun s : State => vs.foldl (fun t v => onVerb t v fun x => { x with absent := false }) s
  if domainOn s (3 - d) then
    present (vs.foldl (fun t v => copyWords t 8192 (verbBase (8 * (2 - d))) (verbBase v)) s)
  else
    let head := flashBytes s 0 0x200
    match sectionPlace head 3 with
    | none => s
    | some (i, off, len) =>
      let verb := flashBytes s off len
      let want := match (sectionTable head)[i]? with | some e => e.2.2.2 | none => 0
      let held := match s.power.accepted with | some a => a.verbSha | none => []
      if crc32 verb ≠ want then raiseGloss s 0x1131 (w32 i) (w32 want) (w32 (crc32 verb))
      else if sha256 verb ≠ held then raiseGloss s 0x1131 (w32 i) (w32 (fieldAt held 0 4)) (w32 (fieldAt (sha256 verb) 0 4))
      else present (loadPrograms s verb vs)

/-- VERB_PROGRAM_LOAD: the program load of a Verb domain that has been turned on ends (R445); its Verbs become active at the next
boundary. -/
def execVerbProgramLoad (verbB : Bool) (s : State) : Host.Outcome State Fault Refusal :=
  let d := if verbB then 2 else 1
  if domainOn s d ∧ (domainVerbs d).all (fun v => (verbOf s v).absent) ∧ s.boot.complete then .next (loadDomain s d) else .next s

end Sys2Proof.Machine
end

