-- ==== Sys2Proof/Machine/Link.lean ====
section
/-! DEFINITION. Chain links (R346 to R382): what a link sends and its credits and replays (R352 to R354), training (R356), SYNC (R357),
booting over a link (R358), events and frames between devices (R360 to R369), joins, losses and removals (R374 to R378). -/

namespace Sys2Proof.Machine

/-! ### Sending (R352 to R354) -/

/-- The types that are sent again until they are acknowledged (Table 3). -/
def isRetried (typ : Nat) : Bool := [0x02, 0x03, 0x04, 0x05, 0x06, 0x09, 0x0B].contains typ

/-- The credited class of a type: 0 CTL, 1 EVT, 2 BOOT, 3 TRC; dedicated types have none. -/
def creditClass (typ : Nat) : Option Nat :=
  match typ with
  | 0x02 | 0x03 | 0x0B => some 0
  | 0x04 | 0x05 => some 1
  | 0x09 => some 2
  | 0x0A => some 3
  | _ => none

/-- The buffers a packet takes (R353). -/
def packetBuffers (p : OutPkt) : Nat := buffersFor p.payload.length

/-- May a packet be sent: the credits of its class, and room among the last 32 retried packets. -/
def sendable (k : LinkSt) (p : OutPkt) : Bool :=
  (match creditClass p.typ with | some c => packetBuffers p ≤ nth k.credits c 0 | none => true) &&
    (!isRetried p.typ || k.sent.length < 32)

/-- A packet leaves with the payload it has at its SOP, its EOP at an AOTIME: its credits are spent, and a retried one takes the next
sequence number and is kept. -/
def sendPacket (k : LinkSt) (p : OutPkt) (payload : List Byte) (eop : DWord) : LinkSt :=
  let credits := match creditClass p.typ with
    | some c => k.credits.modify c (· - packetBuffers p)
    | none => k.credits
  let out := { p with payload, seq := if isRetried p.typ then k.seq else 0, eop }
  let k := { k with outq := k.outq.erase p, credits, wireFree := eop, wire := some out }
  if isRetried p.typ then { k with sent := k.sent ++ [out], seq := (k.seq + 1) % 256 } else k

/-- The AOTIME at which the EOP of a packet leaves that begins now. -/
def eopOf (s : State) (p : OutPkt) : DWord := s.time.aoTime + w64 (symbolCycles s (packetSymbols p))


/-- CRED: buffers of a class are returned (R351, R353). -/
def execCred (l : Fin 4) (cls : BitVec 2) (count : Byte) (s : State) : Host.Outcome State Fault Refusal :=
  .next (onLink s l fun k => { k with credits := k.credits.modify cls.toNat (· + count.toNat) })

/-- The kept packets after an acknowledgement up to a sequence number. -/
def ackUpTo (seq : Nat) (k : LinkSt) : LinkSt :=
  let rest := k.sent.filter fun p => (seq + 256 - p.seq) % 256 ≥ 128
  if rest.length = k.sent.length then k else { k with sent := rest, replays := 0 }

/-- ACK: every retried packet up to a sequence number has been received (R351, R354). -/
def execAck (l : Fin 4) (seq : Byte) (s : State) : Host.Outcome State Fault Refusal := .next (onLink s l (ackUpTo seq.toNat))

/-! ### Roles (R347 to R349) -/

/-- This end of a link manages what lies beyond it. -/
def manages (s : State) (l : Nat) : Bool := isDown s l

/-- FS and FAMILY as HELLO carries them (Table 5). -/
def helloRate (s : State) : Nat := fsCode s + 8 * b2n (flag s R.clkStat 3)

/-- The first eight bytes of the accepted image's build hash; 0 if none. -/
def ownHash (s : State) : DWord := match s.power.accepted with | some a => w64 (fieldAt a.hash 0 8) | none => 0

/-- The role of an auto device is still open 20 ms after boot step 11 (R347). -/
def roleDue (s : State) : Bool :=
  s.boot.interruptMode && !flag s R.linkAddr 31 && fld s R.linkCfg 1 0 = 3 && domainOn s 7 &&
    decide (msCycles s 20 ≤ cyclesSince s s.sys.roleFrom)

/-- ROLE_DECISION: 20 ms after boot step 11 a device whose role is still open becomes the root (R347). -/
def execRoleDecision (s : State) : Host.Outcome State Fault Refusal :=
  if roleDue s then .next (becomeRoot s) else .next s

/-! ### Training (R356) -/

/-- COMMA_ALIGNMENT: step 1 of the training is done (R356). -/
def execCommaAlignment (l : Fin 4) (s : State) : Host.Outcome State Fault Refusal :=
  if linkState s l = 1 ∧ ¬ s.sys.single ∧ domainOn s 7 then .next (setLinkState s l 2) else .next s

/-- A HELLO payload of this device on a link (Table 5). -/
def helloBytes (s : State) (l : Nat) : List Byte :=
  let (techo, thold) := match (linkOf s l).peer with
    | some (h, at') => (h.tsend.toNat, (w32 s.time.aoTime.toNat - at').toNat)
    | none => (0, 0)
  let valid := s.power.accepted.isSome && !flag s R.nvmBoot 30
  let depth := if flag s R.linkAddr 30 then 0 else if flag s R.linkAddr 31 && fld s R.linkAddr 21 16 ≠ 0 then fld s R.linkAddr 29 28 else 0xFF
  leBytes 4 (readReg s R.sysId).toNat ++ leBytes 1 (b2n (manages s l) + 2 * b2n valid + 4 * b2n (flag s R.linkCfg 2)) ++
    leBytes 1 (activeVerbs s).length ++ leBytes 1 depth ++ leBytes 1 (helloRate s) ++ leBytes 8 (ownHash s).toNat ++
    leBytes 4 (w32 s.time.aoTime.toNat).toNat ++ leBytes 4 techo ++ leBytes 4 thold ++ leBytes 4 0

/-- The payload of a packet whose SOP leaves now: HELLO and SYNC carry the instant at which they leave (R356, R357). -/
def leavingPayload (s : State) (l : Nat) (p : OutPkt) : List Byte :=
  match p.typ with
  | 0x01 => helloBytes s l
  | 0x08 => syncBytes s (decide (p.payload[8]? = some 1))
  | _ => p.payload

/-- One packet of a link that is aligned begins to leave once the wire is free: the first that may (R350, R353). -/
def pumpLink (s : State) (l : Nat) : State :=
  if linkState s l < 2 ∨ s.sys.single ∨ s.time.aoTime < (linkOf s l).wireFree then s
  else match (linkOf s l).outq.find? (sendable (linkOf s l)) with
    | some p => onLink s l fun k => sendPacket k p (leavingPayload s l p) (eopOf s p)
    | none => s

/-! ### Receiving (R351, R352, R354) -/

/-- An ACK or a NAK is to be sent, with the number up to which packets are received (R351). -/
def answerLink (s : State) (l : Nat) (nak : Bool) : State :=
  onLink s l fun k => { k with answer := some (nak, (k.expect + 255) % 256) }

/-- A packet whose CRC fails is discarded and counted, and answered with NAK (R352, R354). -/
def badPacket (s : State) (l : Nat) : State :=
  answerLink (countUp (countUp s (R.linkCrcerr + 0x40 * l)) R.linkBadpkt) l true

/-- A packet arrives on a link that is aligned, and acts where it is to: a retried one in sequence order alone. A gap is answered with NAK,
and a packet received before is acknowledged again (R351, R352, R354). -/
def onArrival (s : State) (a : Arrival) (retried : Bool) (f : State → State) : State :=
  let l := a.link.val
  if linkState s l < 2 ∨ s.sys.single then s
  else if !a.crcOk then badPacket s l
  else if !retried then f s
  else
    let ahead := (a.seq.toNat + 256 - (linkOf s l).expect) % 256
    if ahead = 0 then f (answerLink (onLink s l fun k => { k with expect := (k.expect + 1) % 256 }) l false)
    else answerLink s l (decide (ahead < 128))

/-- A link in HELLO or MEASURE has sent no HELLO for 10 µs, 500 symbol times (R356). -/
def helloDue (s : State) (l : Nat) : Bool :=
  (linkState s l = 2 || linkState s l = 3) && !s.sys.single &&
    (match (linkOf s l).helloAt with | some t => decide (symbolCycles s 500 ≤ cyclesSince s t) | none => true)

/-- HELLO_INTERVAL: 10 µs have passed on a link in HELLO or MEASURE, and it sends HELLO (R356). -/
def execHelloInterval (l : Fin 4) (s : State) : Host.Outcome State Fault Refusal :=
  if !helloDue s l then .next s
  else .next (linkQueue (onLink s l fun k => { k with helloAt := some s.time.aoTime }) l 0x01 (linkHd s 0) (helloBytes s l))

/-- The largest P: 80 ns in 1/16 TCLK. -/
def delayLimit (s : State) : Nat := if flag s R.clkStat 3 then 28 else 31

/-- The addresses of a worker's tier that it does not know to be taken, ascending (R349). -/
def freeAddresses (s : State) : List Nat :=
  let own := fld s R.linkAddr 13 0
  ((List.range 127).map fun i => own / 128 * 128 + 1 + i).filter fun a =>
    a ≤ 0x3FFE && a ≠ own && !(s.sys.devices.any fun d => d.addr = a)

/-- The depth, the position and the address of the worker at the other end of a link (R348, R349). A depth-2 worker does not know what
its tier's manager has given out: the address it passes on is a free value among those it does not know to be taken (log 40). -/
def workerPlace (s : State) (l : Nat) : State × Option (Nat × Nat × Nat) :=
  let depth := fld s R.linkAddr 29 28
  let pos := fld s R.linkAddr 21 16
  let own := fld s R.linkAddr 13 0
  if flag s R.linkAddr 30 then (s, some (1, 1, 4096 * l))
  else match depth, linkDir s l with
    | 1, 2 => (s, some (1, pos + 1, own + 128))
    | 1, _ => (s, (freeAddresses s).head?.map fun a => (2, 1, a))
    | 2, 2 =>
      let (s, f) := drawFree s
      let free := freeAddresses s
      (s, (free[f.toNat % free.length]?).map fun a => (2, pos + 1, a))
    | d, _ => (s, some (d + 1, 1, own))

/-- The Verbs of a worker as the root hears of them: those its own neighbours show; of the others it has no word (log 40). -/
def peerVerbs (s : State) (l addr : Nat) : State × Nat :=
  match (linkOf s l).peer with
  | some (h, _) => if peerAddr s l = addr then (s, h.verbs.toNat) else let (s, f) := drawFree s; (s, f.toNat % 17)
  | none => let (s, f) := drawFree s; (s, f.toNat % 17)

/-- A worker is known by its address. -/
def noteDevice (s : State) (l addr depth : Nat) (join : Bool) : State :=
  let (s, v) := peerVerbs s l addr
  let d : DeviceSt := { addr, verbs := v, depth, link := l, present := false, late := 0, joinReq := join, report := false }
  { s with sys := { s.sys with devices := s.sys.devices.filter (fun x => x.addr ≠ addr) ++ [d] } }

/-- Step 4 at the manager's end: ADDR is sent, or the worker is refused for its depth or its address (R348, R349). -/
def assignWorker (s : State) (l : Nat) : State :=
  if !flag s R.linkAddr 31 ∨ (!flag s R.linkAddr 30 ∧ fld s R.linkAddr 21 16 = 0) then s
  else match workerPlace s l with
    | (s, some (d, p, a)) =>
      if tiersOf s < d ∨ 2 < d ∨ 32 < p ∨ 0x3FFE < a then refuseLink s l 3
      else
        let s := wrFld s (lstatReg l) 29 16 a
        let s := if isRoot s then s else noteDevice s l a d false
        linkQueue s l 0x02 (linkHd s a) (leBytes 4 (a + p * 2 ^ 16 + d * 2 ^ 24 + tiersOf s * 2 ^ 26))
    | (s, none) => refuseLink s l 3

/-- Step 3 has its eight exchanges: P, and step 4 (R355, R356). -/
def measured (s : State) (l : Nat) : State :=
  let p := (linkOf s l).psum
  if (delayLimit s : Int) < p then refuseLink s l 2
  else
    let s := setLinkState (wrFld s (lstatReg l) 15 8 p.toNat) l 4
    if manages s l then assignWorker s l else s

/-- A HELLO received in step 2: an open role is decided, and rate, family and role must agree (R347, R356). -/
def helloFirst (s : State) (l : Nat) (h : HelloPayload) (arrival : Word) : State :=
  let s := if !flag s R.linkAddr 31 && fld s R.linkCfg 1 0 = 3 && linkDir s l = 1 && h.mgr then becomeWorker s else s
  if h.fs.toNat = helloRate s ∧ h.mgr ≠ manages s l then
    setLinkState (onLink s l fun k => { k with peer := some (h, arrival), exch := 0, psum := 0 }) l 3
  else if manages s l then refuseLink (onLink s l fun k => { k with peer := some (h, arrival) }) l 1 else s

/-- A HELLO in the state of the link's training. -/
def takeHello (l : Nat) (h : HelloPayload) (arrival : Word) (s : State) : State :=
  match linkState s l with
  | 2 => helloFirst s l h arrival
  | 3 =>
    let s := onLink s l fun k =>
      { k with peer := some (h, arrival), exch := k.exch + 1, psum := k.psum + (arrival - h.techo - h.thold).toInt }
    if (linkOf s l).exch = 8 then measured s l else s
  | _ => s

/-- HELLO: a HELLO packet arrives (R356). -/
def execHello (l : Arrival) (h : HelloPayload) (arrival : Word) (s : State) : Host.Outcome State Fault Refusal :=
  .next (onArrival s l false (takeHello l.link h arrival))

/-- A STAT packet from this device to the root (Table 3). -/
def sendStat (s : State) (kind address : Nat) : State := sendUp s 0x0B (rootHd s) (leBytes 4 (kind + 256 * address))

/-- The address of the neighbour upstream, and whether it is the root, for an address, position and depth of one's own (R349); of a
depth-2 worker's neighbour beyond the first the address is not known here (log 40). -/
def upstreamPeer (s : State) (address position depth : Nat) : State × Nat × Bool :=
  match depth, position with
  | 1, 1 => (s, 0, true)
  | 1, _ => (s, address - 128, false)
  | _, 1 => (s, address / 128 * 128, false)
  | _, _ => let (s, f) := drawFree s; (s, address / 128 * 128 + 1 + f.toNat % 126, false)

/-- This worker takes its address, unless its depth would pass the tiers that the packet names, or 2 (R348, R349): a worker without an
image has no LINK.CFG.T of its own. -/
def takeAddr (l address position depth tiers : Nat) (s : State) : State :=
  if linkState s l ≠ 4 ∨ manages s l then s
  else if tiers < depth ∨ 2 < depth then refuseLink s l 3
  else
    let s := bufferDrained s l 0 4
    let s := wr s R.linkAddr (w32 (2 ^ 31 + depth * 2 ^ 28 + position * 2 ^ 16 + address))
    let (s, a, root) := upstreamPeer s address position depth
    let s := wrFld (wrFld s (lstatReg l) 29 16 a) (lstatReg l) 30 30 (b2n root)
    sendStat (setLinkState s l 5) 2 address

/-- ADDR: the manager gives this worker its address (R349, R356). -/
def execAddr (l : Arrival) (address : BitVec 14) (position : BitVec 6) (depth tiers : BitVec 2) (s : State) :
    Host.Outcome State Fault Refusal :=
  .next (onArrival s l true (takeAddr l.link address.toNat position.toNat depth.toNat tiers.toNat))

/-- A worker's link is ACTIVE at its manager, which sends it SYNC (R356, R357). -/
def activateWorker (s : State) (l : Nat) : State :=
  linkQueue (setLinkState s l 6) l 0x08 (castHd s) (syncBytes s false)

/-- Step 5 at the manager's end, as the join request of a worker comes: the image agrees, or is streamed, or the link is refused
(R356). -/
def compareImage (s : State) (l : Nat) : State :=
  match (linkOf s l).peer with
  | none => s
  | some (h, _) =>
    if h.hash = ownHash s then activateWorker s l
    else if h.lboot && flag s R.linkCfg 2 then setLinkState (onLink s l fun k => { k with stream := some 0 }) l 5
    else refuseLink s l 4

/-- Bytes of the image that this device runs, which it holds for its workers: as a link has carried it, else from its flash (R356, R358). -/
def heldBytes (s : State) (a n : Nat) : List Byte :=
  if s.image.carried = [] then flashBytes s a n else (List.range n).map fun i => (mapGet s.image.carried (a + i)).getD 0

/-- The length of that image. -/
def streamLength (s : State) : Nat := fieldAt (heldBytes s 8 4) 0 4

/-- The next BOOT packet of a stream (R358): 48 image bytes, one buffer; a stream that is complete waits for the worker's join
request. -/
def pumpStream (s : State) (l : Nat) : State :=
  match (linkOf s l).stream with
  | none => s
  | some off =>
    if streamLength s ≤ off ∨ ((linkOf s l).outq.any fun p => p.typ = 0x09) then s
    else
      let n := min 48 (streamLength s - off)
      linkQueue (onLink s l fun k => { k with stream := some (off + n) }) l 0x09 (castHd s) (leBytes 4 off ++ heldBytes s off n)

/-- A join request reaches the manager of a link it came in on: step 4 goes on to step 5, and one that follows a streamed boot ends
step 5 (R356, R358, log 41). -/
def joinOnLink (s : State) (l address : Nat) : State :=
  if peerAddr s l ≠ address ∨ ¬ manages s l then s
  else match linkState s l, (linkOf s l).stream with
    | 4, _ => compareImage s l
    | 5, some off => if streamLength s ≤ off then activateWorker (onLink s l fun k => { k with stream := none }) l else s
    | _, _ => s

/-- The first frame whose block lacks what a link has lost: the one that the next boundary takes (R376). -/
def firstLacking (s : State) : Nat := s.time.frame - tiersOf s

/-- The root hears that a device is lost (R376). -/
def noteLoss (s : State) (address l : Nat) : State :=
  { s with sys := { s.sys with lost := s.sys.lost ++ [(address, l)],
                               lossFrame := match s.sys.lossFrame with | some f => some f | none => some (firstLacking s) } }

/-- Is a device lost with a neighbour beyond a break (R376): the neighbour, and beyond a tier-one worker whatever lies behind or below it.
What lies behind a tier-two worker is reported with it (log 42). -/
def lostWith (d : DeviceSt) (a l : Nat) : Bool := d.link = l && (if a % 128 = 0 then decide (a ≤ d.addr) else decide (d.addr = a))

/-- A device hears of a join or a loss on one of its downstream links: each on the way to the root learns what lies behind which link. -/
def noteReport (s : State) (l kind a : Nat) : State :=
  if kind = 2 then noteDevice s l a (if a % 128 = 0 then 1 else 2) (flag s R.linkAddr 30)
  else if kind ≠ 1 then s
  else if flag s R.linkAddr 30 then noteLoss s a l
  else { s with sys := { s.sys with devices := s.sys.devices.filter fun d => !lostWith d a l } }

/-- A report towards the root (Table 3, R375, R376): a worker notes it and passes it on. -/
def takeStat (hd : Relayed) (kind address : Nat) (s : State) : State :=
  let l := hd.link.val
  let a := address % 16384
  if !manages s l then s
  else
    let s := bufferDrained s l 0 4
    let t := noteReport (if kind = 2 then joinOnLink s l a else s) l kind a
    if flag s R.linkAddr 30 then t else sendUp t 0x0B (passHd hd false) (leBytes 4 (kind + 256 * address))

/-- STAT: a report towards the root arrives (Table 3, R375, R376). -/
def execStat (l : Relayed) (kind : Byte) (address : BitVec 16) (s : State) : Host.Outcome State Fault Refusal :=
  .next (onArrival s l.toArrival true (takeStat l kind.toNat address.toNat))

/-- The time-out of a training step in milliseconds (Table 4): that of step 5 is the one of boot step 7. -/
def trainingLimit (st : Nat) : Nat := match st with | 2 => 10 | 5 => 2000 | _ => 1

/-- A training step has timed out and 100 ms have passed since (R356, log 140). -/
def trainingLate (s : State) (l : Nat) : Bool :=
  linkState s l ≠ 0 && linkState s l ≠ 6 && decide (msCycles s (trainingLimit (linkState s l) + 100) ≤ cyclesSince s (linkOf s l).since)

/-- LINK_TRAINING_TIMEOUT: a training step has taken too long, and the link returns to step 1 (R356); a worker that was being booted has
failed (R358). -/
def execLinkTrainingTimeout (l : Fin 4) (s : State) : Host.Outcome State Fault Refusal :=
  let st := linkState s l
  if !trainingLate s l then .next s
  else if st = 5 ∧ manages s l ∧ (linkOf s l).stream.isSome then .next (refuseLink s l 5)
  else .next (retrainLink s l)

/-! ### SYNC (R357) -/

/-- A worker that joins takes the epoch without R18: its frames are numbered from it, and its global Phrases start afresh (log 41). One
that had lost its upstream link renders again (R377). -/
def joinEpoch (s : State) (instant : DWord) : State :=
  let was := s.time.rendering || (decide (devState s = 0) && s.boot.complete)
  let s := setEpoch (holdPosition (stopRendering s) instant) instant
  let s := { s with time := { s.time with synced := true } }
  if was then startRendering s (windowNow s) else s

/-- A link SYNC that only compares (R357). -/
def compareSync (s : State) (l : Nat) (instant : DWord) : State :=
  let d := (instant - s.time.epoch).toInt
  if d.natAbs ≤ 1 then s else raiseGloss (setFlag s R.linkStat 0) 0x6140 (BitVec.ofInt 32 d) (w32 l) 0

/-- A link SYNC, and this device's own on every downstream link (R357). -/
def takeLinkSync (l : Nat) (elapsed : DWord) (new : Bool) (arrival : DWord) (s : State) : State :=
  if manages s l ∨ linkState s l < 5 then s
  else
    let p := rne (fld s (lstatReg l) 15 8) 16
    let instant := arrival - BitVec.ofInt 64 p - elapsed
    let joins := decide (linkState s l = 5)
    let s := if joins then setLinkState s l 6 else s
    let s := if flag s R.linkCfg 3 then compareSync s l instant
      else if joins then joinEpoch s instant
      else if new then takeSync s instant
      else compareSync s l instant
    sendSync s new

/-- SYNC_PACKET: a SYNC packet arrives on the upstream link (R357). -/
def execSyncPacket (l : Arrival) (elapsed : DWord) (new : Bool) (arrival : DWord) (s : State) : Host.Outcome State Fault Refusal :=
  .next (onArrival s l false (takeLinkSync l.link elapsed new arrival))

/-- PERIODIC_SYNC: 4,096 frames have passed, and the root sends SYNC (R357). -/
def execPeriodicSync (s : State) : Host.Outcome State Fault Refusal :=
  if isRoot s ∧ s.time.epochSet then .next (sendSync s false) else .next s

/-! ### Booting over a link (R358) -/

/-- The whole image has come: its HEAD, and as many bytes as ILEN says. -/
def imageComplete (s : State) : Bool :=
  let n := fieldAt (imageBytes s true 8 4) 0 4
  0x200 ≤ n && ((List.range 0x200).all fun i => (mapGet s.image.link i).isSome) &&
    (s.image.link.filter fun c => c.1 < n).length = n

/-- The device boots from the image its link has carried (R358): a join request follows a boot that ends well. -/
def bootOverLink (s : State) : State :=
  let s := stopRendering { s with boot := { s.boot with complete := false, reloading := false } }
  let s := (List.range 8).foldl cvClose (closeAllParks s)
  let s := domainsOn (wr (clearDebug s) R.nvmBoot 0) (fld s R.pwrDomen 7 0 ||| 0x98)
  let s := bootFromFour s true 0 []
  let carried := if s.boot.complete then s.image.link else []
  let s := { s with image := { s.image with link := [], carried } }
  if s.boot.complete then sendStat s 2 (fld s R.linkAddr 13 0) else s

/-- A part of an image on the upstream link, which goes on down; with its last part the device boots (R358). -/
def takeImagePart (hd : Relayed) (offset : Word) (bytes : List Byte) (s : State) : State :=
  let l := hd.link.val
  if manages s l ∨ linkState s l ≠ 5 ∨ ¬ flag s R.linkCfg 2 then s
  else
    let cells := (List.range bytes.length).zip bytes
    let s := bufferDrained s l 2 (4 + bytes.length)
    let s := { s with image := { s.image with
      link := cells.foldl (fun m (i, b) => mapPut m (offset.toNat + i) b) s.image.link } }
    let s := ((List.range 4).filter fun k => isDown s k && 5 ≤ linkState s k).foldl (fun t k =>
      linkQueue t k 0x09 (passHd hd true) (leBytes 4 offset.toNat ++ bytes)) s
    if imageComplete s then bootOverLink s else s

/-- BOOT_PACKET: a part of an image arrives on the upstream link (R358). -/
def execBootPacket (l : Relayed) (offset : Word) (bytes : List Byte) (s : State) : Host.Outcome State Fault Refusal :=
  .next (onArrival s l.toArrival true (takeImagePart l offset bytes))

/-! ### Routes (R355) -/

/-- The link a packet for an address goes out on from here: up for the root and for whatever does not lie below; else the segment or
the tier link that leads to it (R349, R355). -/
def routeTo (s : State) (hd : LinkHeader) : Option Nat :=
  let t := hd.dest.toNat / 128
  let own := fld s R.linkAddr 13 0
  if flag s R.linkAddr 30 then (if hd.droot then none else some (t / 32 % 4))
  else if hd.droot then upLink s
  else if t = own / 128 then
    (match s.sys.devices.find? fun d => d.addr = hd.dest.toNat with
     | some d => some d.link
     | none => upLink s)
  else if own / 128 < t ∧ t / 32 = own / 4096 ∧ fld s R.linkAddr 29 28 = 1 then (List.range 4).find? fun l => linkDir s l = 2
  else upLink s

/-- A packet goes on towards its destination. -/
def forward (s : State) (typ : Nat) (hd : LinkHeader) (payload : List Byte) : State :=
  match routeTo s hd with
  | some l => linkQueue s l typ hd payload
  | none => s

/-- Is a packet addressed to this device. -/
def forMe (s : State) (hd : LinkHeader) : Bool :=
  if flag s R.linkAddr 30 then hd.droot else !hd.droot && hd.dest.toNat = fld s R.linkAddr 13 0

/-! ### Events (R360 to R362) -/

/-- An event packet that stays: the root, or a device whose image has no tiers, takes it as source 8 + l with the stamp it carries
(R360, R362). -/
def takeLinkEvent (s : State) (l : Nat) (p : EvPacket) : State :=
  offerEvent s (8 + l) { p with source := BitVec.ofNat 6 (8 + l) } s.time.aoTime

/-- Event packets on an ACTIVE link: they stay, go on towards the root or down, or towards the device they are for (R360, R362). -/
def takeEvents (l : Nat) (hd : LinkHeader) (events : List EvPacket) (s : State) : State :=
  if linkState s l ≠ 6 then s
  else if !isWorker s then events.foldl (fun t p => takeLinkEvent t l p) (holdEvt s l events.length)
  else
    let bytes := (events.map pktBytes).flatten
    let s := bufferDrained s l 1 bytes.length
    if hd.bcast ∧ ¬ manages s l then sendDown (events.foldl takeForwarded s) 0x04 hd bytes
    else if hd.droot ∨ forMe s hd then sendUp s 0x04 { hd with droot := true } bytes
    else forward s 0x04 hd bytes

/-- EVT: event packets arrive (R360, R362). -/
def execEvt (l : Arrival) (hd : LinkHeader) (events : List EvPacket) (s : State) : Host.Outcome State Fault Refusal :=
  .next (onArrival s l true (takeEvents l.link hd events))

/-- A worker's Word events of a frame: the root keeps them until the blocks of the frame have come (R361). -/
def takeWev (hd : Relayed) (frame : Word) (entries : List WevEntry) (s : State) : State :=
  let l := hd.link.val
  if linkState s l ≠ 6 ∨ ¬ manages s l then s
  else
    let s := bufferDrained s l 1 (4 + 20 * entries.length)
    if isRoot s then { s with sys := { s.sys with wev := s.sys.wev ++ entries.map fun e => (frame.toNat, e) } }
    else sendUp s 0x05 (passHd hd false) (leBytes 4 frame.toNat ++ (entries.map wevBytes).flatten)

/-- WEV: a worker's Word events of a frame arrive (R361). -/
def execWev (l : Relayed) (frame : Word) (entries : List WevEntry) (s : State) : Host.Outcome State Fault Refusal :=
  .next (onArrival s l.toArrival true (takeWev l frame entries))

/-! ### FRM at a worker (R363 to R366) -/

/-- The part, key and position of a record. -/
def recPart (r : FrmRecord) : Nat := r.keypart.toNat / 4096
def recKey (r : FrmRecord) : Nat := r.keypart.toNat % 4096

/-- The release velocity of a GATE record, from the forwarded event that caused it: a NOTE_OFF, or one mapped to a note-off. -/
def gateVelocity (s : State) (es : List EvPacket) (r : FrmRecord) : Nat × Bool :=
  (es.findSome? fun e =>
    if posIn (effPos s e) ≠ r.pos.toNat ∨ e.part.toNat ≠ recPart r ∧ e.kind = 0x02 then none
    else if e.kind = 0x02 then (if e.key.toNat = recKey r then some (e.value.toNat / 65536, e.late) else none)
    else (matchingControls s e).findSome? fun (_, c) =>
      if c.ttype = 4 ∧ c.target / 4096 % 16 = recPart r ∧ c.target % 4096 = recKey r
        then some ((max 0 (min 65535 (controlValue c false (controlInput e)))).toNat, e.late) else none).getD (0, false)

/-- The event of a CREATE or RETRIG record is late. -/
def recLate (s : State) (es : List EvPacket) (r : FrmRecord) : Bool :=
  es.any fun e => e.late && posIn (effPos s e) = r.pos.toNat && e.part.toNat = recPart r

/-- A CREATE record for this worker (R363, R372): its Phrase, placed on the lane modulo 16. -/
def createHere (s : State) (r : FrmRecord) (pos : DWord) (late : Bool) : State :=
  let layer : Layer := { sid := r.sid.toNat, pool := r.pool.toNat % 16, uni := r.uni.toNat / 16 + 1, vello := 0, velhi := 255, keylo := 0,
                         keyhi := 4095 }
  let req : NoteReq := { part := recPart r, key := recKey r, noteId := r.noteId.toNat, vel := r.vel.toNat, pos, late, layers := [],
                         held := heldValues s (recPart r) }
  let t : Todo := { lidx := r.pool.toNat / 16 % 4, layer, uni := r.uni.toNat % 16 }
  putPhrase s req (newPhrase s req t r.slot.toNat (r.lane.toNat % 16) r.aseq none)

/-- The Phrases of a group change. -/
def onGroup (s : State) (part : Nat) (aseq : Word) (f : Phrase → Phrase) : State :=
  { s with phrases := s.phrases.map fun p => if p.sounds && p.part = part && p.aseq = aseq then f p else p }

/-- One record acts on the Phrases this worker holds (R363, Table 7). -/
def recordActs (m : Nat) (es : List EvPacket) (s : State) (r : FrmRecord) : State :=
  let pos := w64 (4096 * m + r.pos.toNat)
  match r.op.toNat with
  | 1 => if r.dev.toNat / 2 ^ 15 = 0 ∧ r.dev.toNat % 2 ^ 14 = fld s R.linkAddr 13 0 then createHere s r pos (recLate s es r) else s
  | 2 =>
    let (vel, late) := gateVelocity s es r
    onGroup s (recPart r) r.aseq fun p =>
      let q := releasePhrase s p vel pos late
      if p.state = 1 && q.state = r.flags.toNat % 8 then q else p
  | 3 =>
    let legato := r.flags.toNat % 2 = 1
    let e : NoteEnt := { key := recKey r, noteId := r.noteId.toNat, vel := r.vel.toNat }
    onGroup s (recPart r) r.aseq fun p => retrigPhrase s p e legato (if legato then p.aseq else r.aux) pos (recLate s es r)
  | 4 => setPedal s (recPart r) (if r.flags.toNat % 2 = 1 then 9 else 8) (decide (r.flags.toNat / 2 % 2 = 1)) pos (recLate s es r)
  | 5 =>
    (match phraseAt s r.slot.toNat with
     | none => s
     | some p => if r.aux.toNat % 65536 = 0xFFFF then freePhrase (cutTails s p) p.pos else toFading s p.pos (r.aux.toNat % 65536))
  | 6 => freePhrase s r.slot.toNat
  | _ => s

/-- A forwarded event acts on the Phrases of a worker: its control records and its part controls but for the pedals, which come as
records; notes, programs and removals are the root's (R360, R363). -/
def forwardedActs (s : State) (e : EvPacket) : State :=
  let pos := effPos s e
  if e.kind = 0x0F then hostRing s e
  else (matchingControls s e).foldl (fun s (i, c) =>
    if c.ttype < 2 ∨ (c.ttype = 2 ∧ c.target % 8 < 4) then controlAct s e pos i c else s) s

/-- Can an event have caused a record of its position (R363): a note the record of its part and key, a pedal those of its part, a removal
that of its slot. -/
def causes (s : State) (e : EvPacket) (r : FrmRecord) : Bool :=
  let mine := e.part.toNat = recPart r
  let note := fun (kind tt : Nat) =>
    (mine && e.kind = kind && e.key.toNat = recKey r) ||
      (matchingControls s e).any fun c => c.2.ttype = tt && c.2.target / 4096 % 16 = recPart r && c.2.target % 4096 = recKey r
  let pedal := mine && (matchingControls s e).any fun c => c.2.ttype = 2 && 4 ≤ c.2.target % 8
  match r.op.toNat with
  | 1 | 3 => note 0x01 3
  | 2 => note 0x02 4 || pedal
  | 4 => pedal
  | 6 => isRemoval e && e.value = r.slot.setWidth 32
  | _ => false

/-- At one position an event acts before the next record where a later event of the position has caused it, so that the order of events is the
root's (R164, R360, R363). A STEAL belongs to the record after it. -/
def eventFirst (s : State) (rs : List FrmRecord) (e : EvPacket) (es : List EvPacket) : Bool :=
  match rs.find? fun r => r.op ≠ 5 with
  | none => false
  | some r => !causes s e r && es.any fun x => posIn (effPos s x) = posIn (effPos s e) && causes s x r

/-- Records and forwarded events in the order of their positions, at one position each record where the event that caused it stands; all is
every event of the frame. -/
def mergeActs (m : Nat) (all : List EvPacket) : Nat → State → List FrmRecord → List EvPacket → State
  | 0, s, _, _ => s
  | _, s, [], [] => s
  | n + 1, s, r :: rs, [] => mergeActs m all n (recordActs m all s r) rs []
  | n + 1, s, [], e :: es => mergeActs m all n (forwardedActs s e) [] es
  | n + 1, s, r :: rs, e :: es =>
    if r.pos.toNat < posIn (effPos s e) ∨ (r.pos.toNat = posIn (effPos s e) ∧ ¬ eventFirst s (r :: rs) e es) then mergeActs m all n (recordActs m all s r) rs (e :: es)
    else mergeActs m all n (forwardedActs s e) (r :: rs) es

/-- The slots of an end map are FREE (R366, R367). -/
def freeSlotsOf (s : State) (slots : List Nat) : State := { s with phrases := s.phrases.filter fun p => !slots.contains p.pos }

/-- Steps 1 to 4 of frame m at a worker (R363). -/
def workerFrame (s : State) (m : Nat) (f : FrmPayload) : State :=
  let s := stepOne (freeSlotsOf s (endmapSlots f.endmap)) m
  let s := followRecord (writeFrameRecord s m (f.tense.take 64)) m (f.tense.take 64)
  let es := takenEvents s m
  let s := leaveQueue s es
  let s := { s with time := { s.time with step2 := m } }
  let ps := es.map (·.pkt)
  let s := mergeActs m ps (f.records.length + ps.length + 1) s f.records ps
  armAll (endStep3 { s with alloc := { s.alloc with recs := [] } }) m

/-- The root's frame control goes on down, and a worker performs steps 1 to 4 of its frame (R363). -/
def takeFrm (hd : Relayed) (payload : FrmPayload) (s : State) : State :=
  let l := hd.link.val
  if manages s l ∨ linkState s l ≠ 6 ∨ ¬ isWorker s then s
  else
    let s := sendDown s 0x06 (passHd hd true) (frmBytes payload)
    let m := payload.frame.toNat
    if !s.time.rendering ∨ m ≤ s.time.step2 ∨ s.time.frame < m then s
    else atFrame s m fun t => workerFrame t m payload

/-- FRM: the root's frame control arrives (R363). -/
def execFrm (l : Relayed) (payload : FrmPayload) (s : State) : Host.Outcome State Fault Refusal :=
  .next (onArrival s l.toArrival true (takeFrm l payload))

/-! ### Up-blocks at a worker (R359, R368, R369) -/

/-- UPB: a block arrives on a downstream link; one to be discarded is, and one whose CRC fails is counted and answered with NAK; its sender is
named as the block is looked for (R352, R354, R368, R369). -/
def execUpb (l : Fin 4) (block : UpBlock) (crcOk : Bool) (s : State) : Host.Outcome State Fault Refusal :=
  if !manages s l ∨ linkState s l ≠ 6 then .next s
  else if (linkOf s l).skip = some block.frame.toNat then .next (onLink s l fun k => { k with skip := none })
  else
    let s := onLink s l fun k => { k with block := some (block, crcOk, s.time.aoTime) }
    .next (if crcOk then s else badPacket s l)

/-- The system frame whose block this worker exports in the open window (R359). -/
def exportFrameOf (s : State) : Nat := s.time.frame - 1 - tiersOf s + fld s R.linkAddr 29 28

/-- What one downstream link adds to the block of frame k: a segment's block as it passes through, or the total of a tier; a neighbour
without one is named, and its block, if it still comes, discarded (R368, R369). -/
def addLinkBlock (k : Nat) (acc : State × UpBlock) (l : Nat) : State × UpBlock :=
  let (s, b) := acc
  let b := if (linkOf s l).nameNext then nameLost b (peerAddr s l) else b
  let s := onLink s l fun x => { x with nameNext := false }
  match segmentBlock s l k with
  | .inl c => (clearBlock s l, addBlocks b c)
  | .inr 1 =>
    if linkDir s l = 2 then (onLink (clearBlock s l) l fun x => { x with nameNext := true }, b)
    else (clearBlock s l, nameLost b (peerAddr s l))
  | .inr _ => (onLink (clearBlock s l) l fun x => { x with skip := some k }, nameLost b (peerAddr s l))

/-- A list in parts of so many entries. -/
def inParts {α : Type} (n : Nat) : Nat → List α → List (List α)
  | 0, _ => []
  | _, [] => []
  | k + 1, x :: xs => (x :: xs).take n :: inParts n k ((x :: xs).drop n)

/-- The Word events of frame k go up ahead of the block, in flow order (R361), in packets of at most 204 entries, which the 64 buffers of their
class hold (R353; DEDUCED, log 156). -/
def exportWev (s : State) (k : Nat) : State :=
  let due := s.sys.wev.filter fun e => e.1 = k
  let s := { s with sys := { s.sys with wev := s.sys.wev.filter fun e => e.1 ≠ k } }
  (inParts 204 due.length due).foldl (fun t part =>
    sendUp t 0x05 (rootHd t) (leBytes 4 k ++ (part.map fun e => wevBytes e.2).flatten)) s

/-- The block of frame k leaves (R368): the device's own sums, report and causes with what came from below. -/
def exportBlock (s : State) (k : Nat) : State :=
  let s := exportWev s k
  let (s, sums) := heldSums s k
  let (s, report) := heldReport s k
  let own : UpBlock := { frame := w32 k, void := (heldVoid s k).setWidth 16, nlost := 0, lost := [], sums,
                         report := report.map (BitVec.ofNat 16) }
  let (s, b) := (downLinks s).foldl (addLinkBlock k) (s, own)
  let s := sendUp s 0x07 (rootHd s) (upbBytes b)
  { s with sys := { s.sys with exported := some k } }

/-- Is this worker's block of the open window's frame still to be exported. -/
def exportDue (s : State) : Bool :=
  isWorker s && s.time.rendering && fld s R.linkAddr 21 16 ≠ 0 && (match upLink s with | some l => linkState s l = 6 | none => false) &&
    tiersOf s < s.time.frame + fld s R.linkAddr 29 28 && s.sys.exported ≠ some (exportFrameOf s)

/-- S_p, less some symbol times, in TCLK cycles from the epoch: X_d of the open window's frame, 128 fabric clock cycles after the window has
opened, and 8 symbol times for each of the 33 - p places behind (R359, R368). -/
def exportInstant (s : State) (early : Nat) : Nat :=
  tclkPerSample s * 16 * (s.time.frame - 1) + 8 + symbolCycles s (8 * (33 - fld s R.linkAddr 21 16) - early)

/-- The instant S_p, less some symbol times, of the open window has come. -/
def exportNow (s : State) (early : Nat) : Bool := decide (exportInstant s early ≤ cyclesSince s s.time.epoch)

/-- UPB_EXPORT: S_p has come, and the worker transmits its block (R359, R368). -/
def execUpbExport (s : State) : Host.Outcome State Fault Refusal :=
  if exportDue s ∧ exportNow s 0 then .next (exportBlock s (exportFrameOf s)) else .next s

/-- UPB_SOP_TIMEOUT: by S_p − 40 ns no block has begun to arrive on a downstream link: the worker sends without it (R368). -/
def execUpbSopTimeout (l : Fin 4) (s : State) : Host.Outcome State Fault Refusal :=
  if exportDue s ∧ exportNow s 2 ∧ manages s l ∧ (linkOf s l).block.isNone then .next (exportBlock s (exportFrameOf s)) else .next s

/-- LATE_MARK_CLEAR: the 64th consecutive frame without a naming clears a late mark (R374). -/
def execLateMarkClear (address : BitVec 14) (s : State) : Host.Outcome State Fault Refusal :=
  .next { s with sys := { s.sys with devices := s.sys.devices.map fun d =>
    if d.addr = address.toNat ∧ d.late = 1 then { d with late := 0 } else d } }

/-- WORKER_JOIN: at the first boundary after the join request and a valid report of a worker the root admits it (R375). -/
def execWorkerJoin (address : BitVec 14) (s : State) : Host.Outcome State Fault Refusal :=
  match s.sys.devices.find? fun d => d.addr = address.toNat && d.joinReq && d.report && !d.present with
  | none => .next s
  | some d =>
    if !isRoot s then .next s
    else
      let s := { s with sys := { s.sys with devices := s.sys.devices.map fun x => if x.addr = d.addr then { x with present := true } else x } }
      .next (raiseGloss (countUp s R.linkJoin) 0x6110 (w32 d.addr) (w32 d.link) (w32 s.time.frame))

/-! ### Losses (R354, R376 to R378) -/

/-- A link is down (R376, R377): cause 0 silence, 1 replays. Beyond a break in a tier, the device at its upstream end reports each worker
that it has heard of there, for the root does not see how a tier branches (DESIGN CHOICE, log 42). -/
def linkLoss (s : State) (l cause : Nat) : State :=
  if linkState s l < 2 then s
  else if manages s l then
    let a := peerAddr s l
    let trained := decide (5 ≤ linkState s l)
    let s := raiseGloss s 0x6101 (w32 l) (w32 cause) (w32 s.time.frame)
    let s := retrainLink s l
    if !trained then s
    else if flag s R.linkAddr 30 then noteLoss s a l
    else
      let behind := if a % 128 = 0 then [] else (s.sys.devices.filter fun d => d.link = l && d.addr ≠ a).map (·.addr)
      let s := { s with sys := { s.sys with devices := s.sys.devices.filter fun d => d.link ≠ l } }
      (a :: behind).foldl (fun t x => sendStat t 1 x) s
  else
    let s := retrainLink s l
    let s := if fld s R.linkAddr 21 16 = 0 then s else upstreamLoss s
    if isWorker s then becomeWorker s else s

/-- LINK_DOWN: 64 symbol times without a valid symbol (R376). -/
def execLinkDown (l : Fin 4) (s : State) : Host.Outcome State Fault Refusal := .next (linkLoss s l 0)

/-- Packets sent one after the other from an AOTIME on, each with the instant of its EOP. -/
def resent (s : State) : List OutPkt → DWord → List OutPkt
  | [], _ => []
  | p :: ps, t =>
    let e := t + w64 (symbolCycles s (packetSymbols p))
    { p with eop := e } :: resent s ps e

/-- The kept packets of a link leave again from the oldest, once the wire is free. -/
def resendKept (s : State) (k : LinkSt) : LinkSt :=
  let sent := resent s k.sent (if s.time.aoTime < k.wireFree then k.wireFree else s.time.aoTime)
  { k with sent, wireFree := match sent.getLast? with | some p => p.eop | none => k.wireFree }

/-- The kept packets are sent again from the oldest (R354): counted, and after 8 replays of one packet the link is down. -/
def replay (s : State) (l : Nat) : State :=
  if (linkOf s l).sent.isEmpty then s
  else
    let s := onLink s l fun k => resendKept s { k with replays := k.replays + 1 }
    let s := countUp s (R.linkReplay + 0x40 * l)
    if 8 ≤ (linkOf s l).replays then linkLoss s l 1 else s

/-- NAK: packets up to a sequence number are received, and the next failed (R351, R354). -/
def execNak (l : Fin 4) (seq : Byte) (s : State) : Host.Outcome State Fault Refusal := .next (replay (onLink s l (ackUpTo seq.toNat)) l)

/-- No ACK has come 4,096 symbol times after the EOP of the oldest kept packet (R354). -/
def replayDue (s : State) (l : Nat) : Bool :=
  match (linkOf s l).sent with
  | p :: _ => decide (symbolCycles s 4096 ≤ cyclesSince s p.eop)
  | [] => false

/-- REPLAY_TIMEOUT: no ACK for 4,096 symbol times after the oldest kept packet (R354). -/
def execReplayTimeout (l : Fin 4) (s : State) : Host.Outcome State Fault Refusal :=
  if replayDue s l then .next (replay s l) else .next s

/-- The event that removes the Phrase of a slot at the first sample of the next frame to be taken (R376, R378). -/
def removalEvent (s : State) (l slot : Nat) : EvPacket :=
  let src := BitVec.ofNat 6 (8 + l)
  { stamp := stampFor s src (w64 (4096 * nextTake s)), source := src, late := false, fence := false, kind := 0x04, part := 0,
    key := 0xF10, value := w32 slot }

/-- DEVICE_REMOVAL: the first boundary after a loss was reported to the root (R376): the devices go, an event for each of their Phrases
frees it, and the frames that lacked them are void. -/
def execDeviceRemoval (s : State) : Host.Outcome State Fault Refusal :=
  if !isRoot s ∨ s.sys.lost.isEmpty then .next s
  else
    let gone := s.sys.devices.filter fun d => s.sys.lost.any fun e => lostWith d e.1 e.2
    let mine := s.phrases.filter fun p => match p.dev with | some a => gone.any fun d => d.addr = a | none => false
    let low := (gone.map (·.addr)).foldl min 0x3FFF
    let first := s.sys.lossFrame.getD s.time.frame
    let s := mine.foldl (fun t p =>
      let l := match p.dev with | some a => ((gone.find? fun d => d.addr = a).map (·.link)).getD 0 | none => 0
      enqueueEvent t (8 + l) (removalEvent t l p.pos)) s
    let s := (List.range (nextTake s + 1 - first)).foldl (fun t i => voidFrame t (first + i) 8) s
    let s := { s with sys := { s.sys with devices := s.sys.devices.filter fun d => !gone.contains d, lost := [], lossFrame := none } }
    .next (raiseGloss (countUp s R.linkRemove) 0x6111 (w32 (low + gone.length * 65536)) (w32 mine.length) (w32 s.time.frame))

/-! ### Trace packets (R155, R379, R483) -/

/-- Trace records or exported events: the root passes them to its capture links, but for scheduling records where TRACE_LOCK is blown; a
worker passes them up. -/
def takeTrc (hd : Relayed) (words : List Word) (scheduling : Bool) (s : State) : State :=
  let l := hd.link.val
  let bytes := (words.map fun w => leBytes 4 w.toNat).flatten
  if linkState s l ≠ 6 then s
  else
    let s := bufferDrained s l 3 bytes.length
    if isWorker s then sendUp s 0x0A (passHd hd false) bytes
    else if scheduling ∧ traceLocked s then s
    else ((List.range 4).filter fun k => linkDir s k = 4).foldl (fun t k => (linkTrace t k bytes).getD t) s

/-- TRC: trace records or exported events arrive (R155, R379, R483). -/
def execTrc (l : Relayed) (words : List Word) (scheduling : Bool) (s : State) : Host.Outcome State Fault Refusal :=
  .next (onArrival s l.toArrival false (takeTrc l words scheduling))

/-- CRED is sent for the buffers that have drained, and the ACK or NAK that is due (R351, R353, R354). -/
def sendSets (s : State) (l : Nat) : State :=
  if linkState s l < 2 ∨ s.sys.single then s
  else onLink s l fun k => { k with owed := [0, 0, 0, 0], answer := none, answered := k.answer.orElse fun _ => k.answered }

/-- Every link's share of a TCLK cycle: a stream goes on, one packet leaves, and the ordered sets that are due. -/
def linksTick (s : State) : State := (List.range 4).foldl (fun t l => sendSets (pumpLink (pumpStream t l) l) l) s

end Sys2Proof.Machine
end

