-- ==== Sys2Proof/Machine/Host.lean ====
section
/-! DEFINITION. Access from outside: the host SPI target (R31), the mailbox over a link (R380, R381), the test port and Verb debug
(R475 to R483), and every command that is a write or a read of one register. -/

namespace Sys2Proof.Machine

/-! ### A write or a read by a requester (R24, R25) -/

/-- A packet of the mailbox (R381): operation, ERR, offset, data. -/
def ctlBytes (op err : Nat) (offset data : Word) : List Byte :=
  leBytes 4 (op + 16 * err) ++ leBytes 4 offset.toNat ++ leBytes 4 data.toNat

/-- LINK.RCTL takes an outcome: ERR, DONE, and LINK in IRQSTAT where DONE rises (R32, R380). -/
def mailboxDone (s : State) (err : Nat) : State :=
  let s := wrFld (clrFlag s R.linkRctl 2) R.linkRctl 5 4 err
  if flag s R.linkRctl 3 then s else raiseIrq (setFlag s R.linkRctl 3) 11

/-- GO: a request leaves for a device that the root knows (R380). -/
def mailboxGo (s : State) : State :=
  let dest := fld s R.linkRdest 13 0
  if isRoot s && s.sys.devices.any fun d => d.addr = dest then
    let s := wrFld (setFlag { s with sys := { s.sys with mailAt := s.time.aoTime } } R.linkRctl 2) R.linkRctl 5 4 0
    forward s 0x03 (linkHd s dest) (ctlBytes (b2n (flag s R.linkRctl 1)) 0 (rd s R.linkRoff) (rd s R.linkRdata))
  else mailboxDone s 3

/-- What follows a write that was taken: a reload (R436), a mailbox request (R380), or a wake (R453). -/
def afterHost (s : State) (a : Nat) (v : Word) : State :=
  if a = R.nvmReload then startReload s
  else if a = R.linkRctl ∧ bitOf v 0 then mailboxGo s
  else startWake s 0

/-- A word is written by the host or the test port (requester 0) or for a manager (2): the state, and whether it was refused or a bus
error. Nothing is written while the test port holds the device in reset (R477). -/
def hostWrite (s : State) (req a : Nat) (v : Word) : State × Bool :=
  if tapHolds s then (s, false)
  else match writeWord32 s req a v with
    | (t, true) => (t, true)
    | (t, false) => (afterHost t a v, false)

/-- A register is written. -/
def regWrite (s : State) (a : Nat) (v : Word) : State := (hostWrite s 0 a v).1

/-- A word is read. -/
def hostRead (s : State) (req a : Nat) : State × Word × Bool :=
  if tapHolds s then (s, 0, false) else readWord32 s req a

/-- REGISTER_WRITE: a word is written to a register without a row of its own (R5 to R10). An address that is no multiple of 4 is taken as
the multiple below it (DESIGN CHOICE, log 114: R31 and R478 speak of the SPI target and the test port alone). -/
def execRegisterWrite (addr value : Word) (s : State) : Host.Outcome State Fault Refusal :=
  .next (regWrite s (addr.toNat - addr.toNat % 4) value)

/-! ### The host SPI target (R31) -/

/-- Boot step 3 is complete and the device is not in reset: commands are taken. -/
def hostReady (s : State) : Bool := s.boot.ready && !tapHolds s

/-- The status byte of Table 15. -/
def statusByte (s : State) : Byte :=
  if !hostReady s then 0
  else BitVec.ofNat 8 (0x80 + 64 * b2n (hostBusy s) + 32 * b2n s.host.lastErr + 16 * b2n (hirq s) + 8 * b2n (flag s R.nvmBoot 31))

/-- LASTERR. -/
def setLastErr (s : State) : State := { s with host := { s.host with lastErr := true } }

/-- A refused transaction is still open: HMOSI is ignored until HCS rises. -/
def hostIgnores (s : State) : Bool := s.host.open? && s.host.refused

/-- A transaction begins: HMISO carries the status byte with the command, and what an earlier one returned is gone. -/
def openHost (s : State) : State :=
  { s with host := { s.host with open? := true, refused := false, out := [], statusOut := [statusByte s] } }

/-- A transaction is refused until HCS rises. -/
def refuseHost (s : State) : State := setLastErr { s with host := { s.host with refused := true } }

/-- A transaction with an address: refused where that is no multiple of 4, ignored behind a refusal. -/
def withAddress (s : State) (addr : Word) (f : State → State) : State :=
  if hostIgnores s then s
  else
    let s := openHost s
    if !hostReady s then s else if addr.toNat % 4 ≠ 0 then refuseHost s else f s

/-- One data word of a WRITE. -/
def writeOne (s : State) (a : Nat) (v : Word) : State :=
  match hostWrite s 0 a v with
  | (t, true) => setLastErr t
  | (t, false) => t

/-- One data word of a READ. -/
def readOne (s : State) (a : Nat) : State :=
  let (t, v, bad) := hostRead s 0 a
  let t := if bad then setLastErr t else t
  { t with host := { t.host with out := t.host.out ++ [v] } }

/-- The address of the i-th word of a transaction. -/
def wordAddr (addr : Word) (i : Nat) : Nat := (addr.toNat + 4 * i) % 2 ^ 32

/-- WRITE: data words go to ascending addresses; the bits of a last word that is not complete are discarded. -/
def execWrite (addr : Word) (words : List Word) (_rest : BitVec 5) (s : State) : Host.Outcome State Fault Refusal :=
  .next (withAddress s addr fun s =>
    ((List.range words.length).zip words).foldl (fun t (i, v) => writeOne t (wordAddr addr i) v) s)

/-- WRITE FIXED: data words go to one address. -/
def execWriteFixed (addr : Word) (words : List Word) (_rest : BitVec 5) (s : State) : Host.Outcome State Fault Refusal :=
  .next (withAddress s addr fun s => words.foldl (fun t v => writeOne t addr.toNat v) s)

/-- READ: words of ascending addresses are returned. A word that the device would fetch ahead and the host never clocks is not accessed
(DESIGN CHOICE, log 113). -/
def execRead (addr : Word) (count : Nat) (s : State) : Host.Outcome State Fault Refusal :=
  .next (withAddress s addr fun s => (List.range count).foldl (fun t i => readOne t (wordAddr addr i)) s)

/-- READ FIXED: one address is read for every word. -/
def execReadFixed (addr : Word) (count : Nat) (s : State) : Host.Outcome State Fault Refusal :=
  .next (withAddress s addr fun s => (List.range count).foldl (fun t _ => readOne t addr.toNat) s)

/-- STATUS: the status byte with the command and for each further byte clocked, and LASTERR clears. -/
def execStatus (count : Nat) (s : State) : Host.Outcome State Fault Refusal :=
  let b := statusByte s
  let t := openHost s
  .next (if hostIgnores s then s else if !hostReady s then t
    else { t with host := { t.host with statusOut := List.replicate (count + 1) b, lastErr := false } })

/-- Is a command byte one of Table 14, with an address or without. -/
def addressed (code : Byte) : Bool := code = 0x02 || code = 0x03 || code = 0x0B || code = 0x0C

/-- UNDEFINED_HOST_COMMAND: an undefined command byte, or a misaligned address, refuses the transaction. -/
def execUndefinedHostCommand (code : Byte) (addr : Word) (s : State) : Host.Outcome State Fault Refusal :=
  let t := openHost s
  .next (if hostIgnores s then s else if !hostReady s then t
    else if (!addressed code && code ≠ 0x05) || (addressed code && addr.toNat % 4 ≠ 0) then refuseHost t else t)

/-- HOST_TRANSACTION_END: HCS rises. -/
def execHostTransactionEnd (s : State) : Host.Outcome State Fault Refusal :=
  .next { s with host := { s.host with open? := false, refused := false } }

/-! ### Commands that are a write of one register -/

/-- EVENT_WINDOW_WRITE: EVT.HWIN (R233). -/
def execEventWindowWrite (value : Word) (s : State) : Host.Outcome State Fault Refusal := .next (regWrite s R.evtHwin value)

/-- MUSICAL_WINDOW_WRITE: TENSE.MWIN (R246). -/
def execMusicalWindowWrite (value : Word) (s : State) : Host.Outcome State Fault Refusal := .next (regWrite s R.tenseMwin value)

/-- TIMER_GO: TENSE.GO (R251). -/
def execTimerGo (mask : BitVec 16) (s : State) : Host.Outcome State Fault Refusal := .next (regWrite s R.tenseGo (mask.setWidth 32))

/-- DAC_CHANNEL_WRITE: DAC.CHk (R272 to R276). -/
def execDacChannelWrite (k : Fin 16) (value : Word) (s : State) : Host.Outcome State Fault Refusal :=
  .next (regWrite s (R.dacCh + 4 * k) value)

/-- CV_CHANNEL_WRITE: CVO.CHk (R288 to R290). -/
def execCvChannelWrite (k : Fin 8) (value : Word) (s : State) : Host.Outcome State Fault Refusal :=
  .next (regWrite s (R.cvoCh + 4 * k) value)

/-- ADC_RUN: ADC.CTRL.RUN (R309). -/
def execAdcRun (run : Bool) (s : State) : Host.Outcome State Fault Refusal := .next (regWrite s R.adcCtrl (w32 (b2n run)))

/-- SYNC_COMMAND: ADC.CTRL.SYNC, RUN as it stands (R312). -/
def execSyncCommand (s : State) : Host.Outcome State Fault Refusal :=
  .next (regWrite s R.adcCtrl (w32 (b2n (flag s R.adcCtrl 0) + 2)))

/-- ADC_CHANNEL_WRITE: ADC.CHn (R319). -/
def execAdcChannelWrite (n : Fin 16) (value : Word) (s : State) : Host.Outcome State Fault Refusal :=
  .next (regWrite s (R.adcCh + 4 * n) value)

/-- CUSTOM_COEFFICIENT_WRITE: ADC.CDATA (R304). -/
def execCustomCoefficientWrite (value : Word) (s : State) : Host.Outcome State Fault Refusal := .next (regWrite s R.adcCdata value)

/-- CUSTOM_DELAY_WRITE: ADC.CDELAY (R305). -/
def execCustomDelayWrite (value : Word) (s : State) : Host.Outcome State Fault Refusal := .next (regWrite s R.adcCdelay value)

/-- BAUD_WRITE: SPn.BAUD (R322). -/
def execBaudWrite (p : Fin 8) (value : Word) (s : State) : Host.Outcome State Fault Refusal := .next (regWrite s (spReg p 0x04) value)

/-- SERIAL_CONTROL_WRITE: SPn.CTL (R342). -/
def execSerialControlWrite (p : Fin 8) (value : Word) (s : State) : Host.Outcome State Fault Refusal :=
  .next (regWrite s (spReg p 0x08) value)

/-- RXFLUSH, TXFLUSH, MUTE: SPn.CMD (R332, R342). -/
def execRxflush (p : Fin 8) (s : State) : Host.Outcome State Fault Refusal := .next (regWrite s (spReg p 0x18) 1)
/-- TXFLUSH. -/
def execTxflush (p : Fin 8) (s : State) : Host.Outcome State Fault Refusal := .next (regWrite s (spReg p 0x18) 2)
/-- MUTE. -/
def execMute (p : Fin 8) (s : State) : Host.Outcome State Fault Refusal := .next (regWrite s (spReg p 0x18) 4)

/-- TRANSMIT_DATA: SPn.TXD (R333). -/
def execTransmitData (p : Fin 8) (value : Word) (s : State) : Host.Outcome State Fault Refusal :=
  .next (regWrite s (spReg p 0x38) value)

/-- RECEIVE_DATA_READ: SPn.RXD is read (R345). -/
def execReceiveDataRead (p : Fin 8) (s : State) : Host.Outcome State Fault Refusal := .next (readOne s (spReg p 0x30))

/-- STORE: NVM.SCMD with OP 1 (R432). -/
def execStore (kind : Byte) (len : BitVec 13) (s : State) : Host.Outcome State Fault Refusal :=
  .next (regWrite s R.nvmScmd (w32 (2 ^ 30 + kind.toNat * 2 ^ 16 + len.toNat)))

/-- NEWEST_RECORD_READ: NVM.SCMD with OP 2 (R438). -/
def execNewestRecordRead (kind : Byte) (s : State) : Host.Outcome State Fault Refusal :=
  .next (regWrite s R.nvmScmd (w32 (2 * 2 ^ 30 + kind.toNat * 2 ^ 16)))

/-- FLASH_READ: NVM.FCMD with OP 1 (R437). -/
def execFlashRead (s : State) : Host.Outcome State Fault Refusal := .next (regWrite s R.nvmFcmd 1)
/-- FLASH_PROGRAM: OP 2. -/
def execFlashProgram (s : State) : Host.Outcome State Fault Refusal := .next (regWrite s R.nvmFcmd 2)
/-- FLASH_ERASE: OP 3. -/
def execFlashErase (s : State) : Host.Outcome State Fault Refusal := .next (regWrite s R.nvmFcmd 3)

/-- RELOAD: NVM.RELOAD (R436). -/
def execReload (value : Word) (s : State) : Host.Outcome State Fault Refusal := .next (regWrite s R.nvmReload value)

/-- PWR.CMD with its key and a request (R446). -/
def powerWrite (s : State) (req : Nat) : State := regWrite s R.pwrCmd (w32 (0x5A000000 + req))

/-- RUN: request 0 (R446). -/
def execRun (s : State) : Host.Outcome State Fault Refusal := .next (powerWrite s 0)
/-- QUIET: request 1 (R447). -/
def execQuiet (s : State) : Host.Outcome State Fault Refusal := .next (powerWrite s 1)
/-- SLEEP: request 2 (R448). -/
def execSleep (s : State) : Host.Outcome State Fault Refusal := .next (powerWrite s 2)
/-- OFF: request 3 (R448). -/
def execOff (s : State) : Host.Outcome State Fault Refusal := .next (powerWrite s 3)
/-- SOFTWARE_RESET: request 4 (R443, R446). -/
def execSoftwareReset (s : State) : Host.Outcome State Fault Refusal := .next (powerWrite s 4)

/-- DOMAIN_ENABLE: PWR.DOMEN (R445). -/
def execDomainEnable (value : Word) (s : State) : Host.Outcome State Fault Refusal := .next (regWrite s R.pwrDomen value)

/-- PAD_RELEASE: PWR.PADREL (R452). -/
def execPadRelease (value : Word) (s : State) : Host.Outcome State Fault Refusal := .next (regWrite s R.pwrPadrel value)

/-- VINMIN_CLEAR: PWR.VINMIN.CLR (R458). -/
def execVinminClear (s : State) : Host.Outcome State Fault Refusal := .next (regWrite s R.pwrVinmin 0x80000000)

/-- CLEAR_KEPT: GLOSS.CMD with OP 1 and a key (R470). -/
def execClearKept (key : BitVec 16) (s : State) : Host.Outcome State Fault Refusal :=
  .next (regWrite s R.glossCmd (w32 (key.toNat * 65536 + 1)))
/-- CLEAR_CIRCULATING: OP 2. -/
def execClearCirculating (key : BitVec 16) (s : State) : Host.Outcome State Fault Refusal :=
  .next (regWrite s R.glossCmd (w32 (key.toNat * 65536 + 2)))
/-- CLEAR_BOTH: OP 3. -/
def execClearBoth (key : BitVec 16) (s : State) : Host.Outcome State Fault Refusal :=
  .next (regWrite s R.glossCmd (w32 (key.toNat * 65536 + 3)))

/-- RATE_WRITE: GLOSS.RATE (R466). -/
def execRateWrite (value : Word) (s : State) : Host.Outcome State Fault Refusal := .next (regWrite s R.glossRate value)

/-- OVERRIDE_WRITE: GLOSS.OVRn (R466). -/
def execOverrideWrite (n : Fin 16) (value : Word) (s : State) : Host.Outcome State Fault Refusal :=
  .next (regWrite s (R.glossOvr + 4 * n) value)

/-- TRACE_RING_RESUME: PARSER.TRPTR.FULL (R155). -/
def execTraceRingResume (s : State) : Host.Outcome State Fault Refusal := .next (regWrite s R.parserTrptr 0x80000000)

/-- CLRMAX: PARSER.WIN.CLRMAX (R155). -/
def execClrmax (s : State) : Host.Outcome State Fault Refusal := .next (regWrite s R.parserWin 0x80000000)

/-- FUSE_PROGRAM: FUSE.PCTL (R485). -/
def execFuseProgram (value : Word) (s : State) : Host.Outcome State Fault Refusal := .next (regWrite s R.fusePctl value)

/-! ### The mailbox (R380, R381) -/

/-- MAILBOX_REQUEST: LINK.RCTL is written. -/
def execMailboxRequest (value : Word) (s : State) : Host.Outcome State Fault Refusal := .next (regWrite s R.linkRctl value)

/-- MAILBOX_TIMEOUT: 1 ms has passed without an answer. -/
def execMailboxTimeout (s : State) : Host.Outcome State Fault Refusal :=
  .next (if flag s R.linkRctl 2 && decide (msCycles s 1 ≤ cyclesSince s s.sys.mailAt) then mailboxDone s 2 else s)

/-- Would an access for a manager be a bus error (R25): unmapped, its domain off, or a write that Table 8 closes. -/
def busFault (s : State) (a : Nat) (isWrite : Bool) : Bool :=
  match regionOf a with
  | .none => true
  | .page => !domainOn s (pageDomain a)
  | .verb n => !memoryOpen s a || (isWrite && s.time.rendering && !(verbOf s n).halted)
  | _ => !memoryOpen s a || (isWrite && s.time.rendering)

/-- The trace ring range, closed to the link where TRACE_LOCK is blown (R155, R483). -/
def ringHidden (s : State) (a : Nat) : Bool := traceLocked s && decide (0x01480000 ≤ a ∧ a < 0x01488000)

/-- A worker applies a request under the host rules: the state and the data of its response; ERR is a bus error alone (R380). -/
def serveMailbox (s : State) (isWrite : Bool) (a : Nat) (data : Word) : State × Word × Bool :=
  let fault := busFault s a isWrite
  if isWrite then ((hostWrite s 2 a data).1, 0, fault)
  else
    let (t, v, _) := hostRead s 2 a
    (t, if ringHidden s a then 0 else v, fault)

/-- A request or a response: it goes on, is served and answered, or ends the mailbox's request (R355, R380, R381). -/
def takeCtl (l : Nat) (hd : LinkHeader) (op err : BitVec 2) (offset data : Word) (s : State) : State :=
  if linkState s l < 5 then s
  else
    let s := bufferDrained s l 0 12
    if !forMe s hd then forward s 0x03 hd (ctlBytes op.toNat err.toNat offset data)
    else if op = 2 then
      if isRoot s ∧ flag s R.linkRctl 2 then mailboxDone (if flag s R.linkRctl 1 then s else wr s R.linkRdata data) err.toNat
      else s
    else if op = 3 then s
    else
      let a := offset.toNat - offset.toNat % 4
      let (t, v, fault) := serveMailbox s (decide (op = 1)) a data
      let back := { linkHd t 0 with dest := hd.srca, droot := hd.sroot }
      forward t 0x03 back (ctlBytes 2 (b2n fault) offset (if op = 1 then data else v))

/-- CTL: a request or a response arrives on a link (R355, R380, R381). -/
def execCtl (l : Arrival) (hd : LinkHeader) (op err : BitVec 2) (offset data : Word) (s : State) : Host.Outcome State Fault Refusal :=
  .next (onArrival s l true (takeCtl l.link hd op err offset data))

/-! ### Verb debug (R479 to R482) -/

/-- HALT: VDBG.VCTLn.HALT is written 1 with HMODE. -/
def execHalt (n : Fin 16) (atYield : Bool) (s : State) : Host.Outcome State Fault Refusal :=
  .next (regWrite s (R.vdbgVctl + 0x40 * n) (w32 (1 + 2 * b2n atYield)))

/-- RESUME: HALT is written 0, HMODE as it stands. -/
def execResume (n : Fin 16) (s : State) : Host.Outcome State Fault Refusal :=
  .next (regWrite s (R.vdbgVctl + 0x40 * n) (w32 (2 * fld s (R.vdbgVctl + 0x40 * n) 1 1)))

/-- STEP: STEP is written 1 with HALT 1, HMODE as it stands. -/
def execStep (n : Fin 16) (s : State) : Host.Outcome State Fault Refusal :=
  .next (regWrite s (R.vdbgVctl + 0x40 * n) (w32 (5 + 2 * fld s (R.vdbgVctl + 0x40 * n) 1 1)))

/-- BREAKPOINT_HIT: the instruction about to issue on a running Verb matches a breakpoint: the Verb halts before it. -/
def execBreakpointHit (n : Fin 16) (s : State) : Host.Outcome State Fault Refusal :=
  if (verbOf s n).running && !(verbOf s n).halted then
    match matchingBp s n with
    | some k => .next (haltVerb s n 3 k)
    | none => .next s
  else .next s

/-- VERB_REGISTER_ACCESS: VDBG.VRDATAn is written, or read where no value is given. -/
def execVerbRegisterAccess (n : Fin 16) (value : Option Word) (s : State) : Host.Outcome State Fault Refusal :=
  let a := R.vdbgVrdata + 0x40 * n
  match value with
  | some v => .next (regWrite s a v)
  | none => .next (readOne s a)

/-! ### The test port (R475 to R478) -/

/-- An instruction that leaves the device running is updated: a reset that the port held ends with cause PIN, and whatever came while
it stood had no effect (R443, R477). -/
def tapRun (s : State) (ir : TapIr) : State :=
  let s := if tapHolds s then deviceReset s 2 else s
  { s with tap := { s.tap with ir } }

/-- An instruction that holds the device in reset is updated (R477). -/
def tapHold (s : State) (ir : TapIr) : State :=
  let s := deviceReset s 2
  { s with tap := { s.tap with ir } }

/-- The identity register (R476): part number 0x8512, manufacturer 0x1A6, stepping A1. -/
def idcodeValue : Word := 0x1851234D

/-- IDCODE is selected, and its register captured. -/
def selectIdcode (s : State) : State :=
  let s := tapRun s .idcode
  { s with tap := { s.tap with data := idcodeValue } }

/-- TEST_LOGIC_RESET: TRSTN is low, and IDCODE is selected (R475). -/
def execTestLogicReset (s : State) : Host.Outcome State Fault Refusal := .next (selectIdcode s)

/-- EXTEST (R477). -/
def execExtest (s : State) : Host.Outcome State Fault Refusal := .next (tapHold s .extest)

/-- SAMPLE/PRELOAD: the cells capture the balls and take what is shifted in (R475, R477). -/
def execSamplePreload (pins preload : List Bool) (s : State) : Host.Outcome State Fault Refusal :=
  let s := tapRun s .sample
  .next { s with tap := { s.tap with pins, preload } }

/-- IDCODE (R476). -/
def execIdcode (s : State) : Host.Outcome State Fault Refusal := .next (selectIdcode s)

/-- CLAMP (R477). -/
def execClamp (s : State) : Host.Outcome State Fault Refusal := .next (tapHold s .clamp)

/-- HIGHZ (R477). -/
def execHighz (s : State) : Host.Outcome State Fault Refusal := .next (tapHold s .highz)

/-- DBGACC: the access register, or bypass where DBG_LOCK is blown (R478). -/
def execDbgacc (s : State) : Host.Outcome State Fault Refusal :=
  let s := tapRun s .dbgacc
  .next (if dbgLocked s then { s with tap := { s.tap with ir := .bypass } } else s)

/-- BYPASS, and every code that is none of Table 1 (R475). -/
def execBypass (s : State) : Host.Outcome State Fault Refusal := .next (tapRun s .bypass)

/-- The test port has its access register selected. -/
def tapOpen (s : State) : Bool := s.tap.ir = .dbgacc && !dbgLocked s

/-- The outcome of an access: 0 done, 2 a bus error, 3 refused (R478). -/
def tapOutcome (s : State) (a : Nat) (isWrite bad : Bool) : BitVec 2 := if busFault s a isWrite then 2 else if bad then 3 else 0

/-- DEBUG_READ: Update-DR with OP read (R478). -/
def execDebugRead (address : Word) (s : State) : Host.Outcome State Fault Refusal :=
  let a := address.toNat
  if !tapOpen s then .next s
  else if a % 4 ≠ 0 then .next { s with tap := { s.tap with outcome := 3, data := 0 } }
  else
    let (t, v, bad) := readWord32 s 0 a
    .next { t with tap := { t.tap with outcome := tapOutcome s a false bad, data := v } }

/-- DEBUG_WRITE: Update-DR with OP write (R478). -/
def execDebugWrite (address value : Word) (s : State) : Host.Outcome State Fault Refusal :=
  let a := address.toNat
  if !tapOpen s then .next s
  else if a % 4 ≠ 0 then .next { s with tap := { s.tap with outcome := 3 } }
  else
    let (t, bad) := hostWrite s 0 a value
    .next { t with tap := { t.tap with outcome := tapOutcome s a true bad } }

end Sys2Proof.Machine
end

