-- ==== Sys2Proof/Machine/Dispatch.lean ====
section
/-! DEFINITION. One arm per command: a direct call of its meaning. -/

namespace Sys2Proof.Machine

/-- The effect of a command on everything but the queue, by the rules its meaning cites. -/
def exec (i : Instr) (s : State) : Host.Outcome State Fault Refusal :=
  match i with
  | .registerWrite addr value => Sys2Proof.Machine.execRegisterWrite addr value s
  | .write addr words rest => Sys2Proof.Machine.execWrite addr words rest s
  | .writeFixed addr words rest => Sys2Proof.Machine.execWriteFixed addr words rest s
  | .read addr count => Sys2Proof.Machine.execRead addr count s
  | .readFixed addr count => Sys2Proof.Machine.execReadFixed addr count s
  | .status count => Sys2Proof.Machine.execStatus count s
  | .undefinedHostCommand code addr => Sys2Proof.Machine.execUndefinedHostCommand code addr s
  | .hostTransactionEnd => Sys2Proof.Machine.execHostTransactionEnd s
  | .countReadLatch reg => Sys2Proof.Machine.execCountReadLatch reg s
  | .wclkLock => Sys2Proof.Machine.execWclkLock s
  | .wclkLost => Sys2Proof.Machine.execWclkLost s
  | .wclkResumed => Sys2Proof.Machine.execWclkResumed s
  | .crystalFail => Sys2Proof.Machine.execCrystalFail s
  | .crystalStartTimeout wclk => Sys2Proof.Machine.execCrystalStartTimeout wclk s
  | .aoClockSwitch => Sys2Proof.Machine.execAoClockSwitch s
  | .syncBallEdge delay => Sys2Proof.Machine.execSyncBallEdge delay s
  | .syncCommand => Sys2Proof.Machine.execSyncCommand s
  | .frameBoundary => Sys2Proof.Machine.execFrameBoundary s
  | .eventTake => Sys2Proof.Machine.execEventTake s
  | .tempoSourceLoss => Sys2Proof.Machine.execTempoSourceLoss s
  | .wordFrameDispatch v => Sys2Proof.Machine.execWordFrameDispatch v s
  | .preemption v elapsed => Sys2Proof.Machine.execPreemption v elapsed s
  | .migrationCheck elapsed => Sys2Proof.Machine.execMigrationCheck elapsed s
  | .phraseMigrate pos => Sys2Proof.Machine.execPhraseMigrate pos s
  | .stateCopyDone pos => Sys2Proof.Machine.execStateCopyDone pos s
  | .sendBarrier => Sys2Proof.Machine.execSendBarrier s
  | .par v a b x y => Sys2Proof.Machine.execPar v a b x y s
  | .imm v dst value => Sys2Proof.Machine.execImm v dst value s
  | .alui v a value => Sys2Proof.Machine.execAlui v a value s
  | .regmove v dst src x y => Sys2Proof.Machine.execRegmove v dst src x y s
  | .ctrlNone v => Sys2Proof.Machine.execCtrlNone v s
  | .jmp v cond target => Sys2Proof.Machine.execJmp v cond target s
  | .call v cond target => Sys2Proof.Machine.execCall v cond target s
  | .ret v => Sys2Proof.Machine.execRet v s
  | .rep v counter count last => Sys2Proof.Machine.execRep v counter count last s
  | .repd v counter dreg last => Sys2Proof.Machine.execRepd v counter dreg last s
  | .yield v => Sys2Proof.Machine.execYield v s
  | .exp2f v dst src x y => Sys2Proof.Machine.execExp2f v dst src x y s
  | .log2f v dst src x y => Sys2Proof.Machine.execLog2f v dst src x y s
  | .pinc v dst src x y => Sys2Proof.Machine.execPinc v dst src x y s
  | .explogResult v => Sys2Proof.Machine.execExplogResult v s
  | .tip v posPair cfg x y => Sys2Proof.Machine.execTip v posPair cfg x y s
  | .tableResult v => Sys2Proof.Machine.execTableResult v s
  | .tget v dst x y => Sys2Proof.Machine.execTget v dst x y s
  | .sharedLoadResult v => Sys2Proof.Machine.execSharedLoadResult v s
  | .mixadd v val busIdx x y => Sys2Proof.Machine.execMixadd v val busIdx x y s
  | .mixadd2 v valPair busIdx x y => Sys2Proof.Machine.execMixadd2 v valPair busIdx x y s
  | .evpost v src x y => Sys2Proof.Machine.execEvpost v src x y s
  | .costExceeded v => Sys2Proof.Machine.execCostExceeded v s
  | .watchdogFault v => Sys2Proof.Machine.execWatchdogFault v s
  | .storeDeliver => Sys2Proof.Machine.execStoreDeliver s
  | .eventDeliver => Sys2Proof.Machine.execEventDeliver s
  | .eventAccept => Sys2Proof.Machine.execEventAccept s
  | .fenceTimeout g => Sys2Proof.Machine.execFenceTimeout g s
  | .midiByteParse src => Sys2Proof.Machine.execMidiByteParse src s
  | .umpWord src => Sys2Proof.Machine.execUmpWord src s
  | .nativePacketCharacter src => Sys2Proof.Machine.execNativePacketCharacter src s
  | .eventWindowWrite value => Sys2Proof.Machine.execEventWindowWrite value s
  | .timerGo mask => Sys2Proof.Machine.execTimerGo mask s
  | .compareMatch n => Sys2Proof.Machine.execCompareMatch n s
  | .periodEnd n => Sys2Proof.Machine.execPeriodEnd n s
  | .timerWrap n => Sys2Proof.Machine.execTimerWrap n s
  | .timerCapture n falling => Sys2Proof.Machine.execTimerCapture n falling s
  | .musicalWindowWrite value => Sys2Proof.Machine.execMusicalWindowWrite value s
  | .dacChannelWrite k value => Sys2Proof.Machine.execDacChannelWrite k value s
  | .parkSwitchClose k => Sys2Proof.Machine.execParkSwitchClose k s
  | .monitorWindow m => Sys2Proof.Machine.execMonitorWindow m s
  | .cvChannelWrite k value => Sys2Proof.Machine.execCvChannelWrite k value s
  | .cvParkSwitchClose k => Sys2Proof.Machine.execCvParkSwitchClose k s
  | .cvSwitchOpen k => Sys2Proof.Machine.execCvSwitchOpen k s
  | .cvRailLoss vcvp vcvn => Sys2Proof.Machine.execCvRailLoss vcvp vcvn s
  | .cvRailGood => Sys2Proof.Machine.execCvRailGood s
  | .adcRun run => Sys2Proof.Machine.execAdcRun run s
  | .adcChannelWrite n value => Sys2Proof.Machine.execAdcChannelWrite n value s
  | .customCoefficientWrite value => Sys2Proof.Machine.execCustomCoefficientWrite value s
  | .customDelayWrite value => Sys2Proof.Machine.execCustomDelayWrite value s
  | .settleDone n tap => Sys2Proof.Machine.execSettleDone n tap s
  | .modulatorOverload n resets => Sys2Proof.Machine.execModulatorOverload n resets s
  | .thresholdCrossing x tap => Sys2Proof.Machine.execThresholdCrossing x tap s
  | .thresholdEvent x tap => Sys2Proof.Machine.execThresholdEvent x tap s
  | .holdoffEnd x => Sys2Proof.Machine.execHoldoffEnd x s
  | .startEdge p quarter => Sys2Proof.Machine.execStartEdge p quarter s
  | .characterReceived p line => Sys2Proof.Machine.execCharacterReceived p line s
  | .characterTransmit p echo => Sys2Proof.Machine.execCharacterTransmit p echo s
  | .collisionRetry p echo => Sys2Proof.Machine.execCollisionRetry p echo s
  | .baudWrite p value => Sys2Proof.Machine.execBaudWrite p value s
  | .baudApply p transmit => Sys2Proof.Machine.execBaudApply p transmit s
  | .serialControlWrite p value => Sys2Proof.Machine.execSerialControlWrite p value s
  | .rxflush p => Sys2Proof.Machine.execRxflush p s
  | .txflush p => Sys2Proof.Machine.execTxflush p s
  | .mute p => Sys2Proof.Machine.execMute p s
  | .transmitData p value => Sys2Proof.Machine.execTransmitData p value s
  | .receiveDataRead p => Sys2Proof.Machine.execReceiveDataRead p s
  | .roleDecision => Sys2Proof.Machine.execRoleDecision s
  | .hello l h arrival => Sys2Proof.Machine.execHello l h arrival s
  | .linkTrainingTimeout l => Sys2Proof.Machine.execLinkTrainingTimeout l s
  | .addr l address position depth tiers => Sys2Proof.Machine.execAddr l address position depth tiers s
  | .ctl l hd op err offset data => Sys2Proof.Machine.execCtl l hd op err offset data s
  | .evt l hd events => Sys2Proof.Machine.execEvt l hd events s
  | .wev l frame entries => Sys2Proof.Machine.execWev l frame entries s
  | .frm l payload => Sys2Proof.Machine.execFrm l payload s
  | .upb l block crcOk => Sys2Proof.Machine.execUpb l block crcOk s
  | .upbExport => Sys2Proof.Machine.execUpbExport s
  | .upbSopTimeout l => Sys2Proof.Machine.execUpbSopTimeout l s
  | .syncPacket l elapsed new arrival => Sys2Proof.Machine.execSyncPacket l elapsed new arrival s
  | .periodicSync => Sys2Proof.Machine.execPeriodicSync s
  | .bootPacket l offset bytes => Sys2Proof.Machine.execBootPacket l offset bytes s
  | .trc l words scheduling => Sys2Proof.Machine.execTrc l words scheduling s
  | .stat l kind address => Sys2Proof.Machine.execStat l kind address s
  | .cred l cls count => Sys2Proof.Machine.execCred l cls count s
  | .ack l seq => Sys2Proof.Machine.execAck l seq s
  | .nak l seq => Sys2Proof.Machine.execNak l seq s
  | .replayTimeout l => Sys2Proof.Machine.execReplayTimeout l s
  | .linkDown l => Sys2Proof.Machine.execLinkDown l s
  | .deviceRemoval => Sys2Proof.Machine.execDeviceRemoval s
  | .workerJoin address => Sys2Proof.Machine.execWorkerJoin address s
  | .lateMarkClear address => Sys2Proof.Machine.execLateMarkClear address s
  | .mailboxRequest value => Sys2Proof.Machine.execMailboxRequest value s
  | .mailboxTimeout => Sys2Proof.Machine.execMailboxTimeout s
  | .portFrameIn p slots lastBit => Sys2Proof.Machine.execPortFrameIn p slots lastBit s
  | .portFrameOut p begins => Sys2Proof.Machine.execPortFrameOut p begins s
  | .daiNoClock p => Sys2Proof.Machine.execDaiNoClock p s
  | .scrubWriteback => Sys2Proof.Machine.execScrubWriteback s
  | .backgroundRowTest rowFails spareFails => Sys2Proof.Machine.execBackgroundRowTest rowFails spareFails s
  | .powerOnReset vin => Sys2Proof.Machine.execPowerOnReset vin s
  | .brownoutReset vin => Sys2Proof.Machine.execBrownoutReset vin s
  | .pinReset => Sys2Proof.Machine.execPinReset s
  | .softwareReset => Sys2Proof.Machine.execSoftwareReset s
  | .bootSequence selfTestFails crystal44 => Sys2Proof.Machine.execBootSequence selfTestFails crystal44 s
  | .bootTimeout step crystal44 => Sys2Proof.Machine.execBootTimeout step crystal44 s
  | .store kind len => Sys2Proof.Machine.execStore kind len s
  | .newestRecordRead kind => Sys2Proof.Machine.execNewestRecordRead kind s
  | .storeCommit => Sys2Proof.Machine.execStoreCommit s
  | .storeOnHoldup vhold reachesVmin => Sys2Proof.Machine.execStoreOnHoldup vhold reachesVmin s
  | .streamFetch => Sys2Proof.Machine.execStreamFetch s
  | .reload value => Sys2Proof.Machine.execReload value s
  | .flashRead => Sys2Proof.Machine.execFlashRead s
  | .flashProgram => Sys2Proof.Machine.execFlashProgram s
  | .flashErase => Sys2Proof.Machine.execFlashErase s
  | .flashOperationDone => Sys2Proof.Machine.execFlashOperationDone s
  | .run => Sys2Proof.Machine.execRun s
  | .quiet => Sys2Proof.Machine.execQuiet s
  | .sleep => Sys2Proof.Machine.execSleep s
  | .off => Sys2Proof.Machine.execOff s
  | .entryComplete => Sys2Proof.Machine.execEntryComplete s
  | .domainEnable value => Sys2Proof.Machine.execDomainEnable value s
  | .verbProgramLoad verbB => Sys2Proof.Machine.execVerbProgramLoad verbB s
  | .padRelease value => Sys2Proof.Machine.execPadRelease value s
  | .brownoutWarning vin => Sys2Proof.Machine.execBrownoutWarning vin s
  | .warningRecovery vin => Sys2Proof.Machine.execWarningRecovery vin s
  | .brownoutMute => Sys2Proof.Machine.execBrownoutMute s
  | .vholdShort millivolts => Sys2Proof.Machine.execVholdShort millivolts s
  | .vinminClear => Sys2Proof.Machine.execVinminClear s
  | .wakeEvent sources selfTestFails => Sys2Proof.Machine.execWakeEvent sources selfTestFails s
  | .wakeStepTimeout step => Sys2Proof.Machine.execWakeStepTimeout step s
  | .glossEntryStore => Sys2Proof.Machine.execGlossEntryStore s
  | .clearKept key => Sys2Proof.Machine.execClearKept key s
  | .clearCirculating key => Sys2Proof.Machine.execClearCirculating key s
  | .clearBoth key => Sys2Proof.Machine.execClearBoth key s
  | .glossFreeze => Sys2Proof.Machine.execGlossFreeze s
  | .glossResume => Sys2Proof.Machine.execGlossResume s
  | .rateWrite value => Sys2Proof.Machine.execRateWrite value s
  | .overrideWrite n value => Sys2Proof.Machine.execOverrideWrite n value s
  | .traceRingResume => Sys2Proof.Machine.execTraceRingResume s
  | .clrmax => Sys2Proof.Machine.execClrmax s
  | .testLogicReset => Sys2Proof.Machine.execTestLogicReset s
  | .extest => Sys2Proof.Machine.execExtest s
  | .samplePreload pins preload => Sys2Proof.Machine.execSamplePreload pins preload s
  | .idcode => Sys2Proof.Machine.execIdcode s
  | .clamp => Sys2Proof.Machine.execClamp s
  | .highz => Sys2Proof.Machine.execHighz s
  | .dbgacc => Sys2Proof.Machine.execDbgacc s
  | .bypass => Sys2Proof.Machine.execBypass s
  | .debugRead address => Sys2Proof.Machine.execDebugRead address s
  | .debugWrite address value => Sys2Proof.Machine.execDebugWrite address value s
  | .halt n atYield => Sys2Proof.Machine.execHalt n atYield s
  | .resume n => Sys2Proof.Machine.execResume n s
  | .step n => Sys2Proof.Machine.execStep n s
  | .breakpointHit n => Sys2Proof.Machine.execBreakpointHit n s
  | .verbRegisterAccess n value => Sys2Proof.Machine.execVerbRegisterAccess n value s
  | .fuseProgram value => Sys2Proof.Machine.execFuseProgram value s
  | .fuseVerify blown parity => Sys2Proof.Machine.execFuseVerify blown parity s
  | .commaAlignment l => Sys2Proof.Machine.execCommaAlignment l s
  | .helloInterval l => Sys2Proof.Machine.execHelloInterval l s
  | .muteRampEnd k => Sys2Proof.Machine.execMuteRampEnd k s
  | .cvRampEnd k => Sys2Proof.Machine.execCvRampEnd k s

end Sys2Proof.Machine
end

