-- ==== Sys2Proof/Machine/Tick.lean ====
section
/-! DEFINITION. What passes in one TCLK cycle while no command waits (log 1): AO time and the timers, the samples of the converters and
ports, the serial settings, the links, one send of each Verb, one Gloss entry, the mute of a long warning and a wake that is due. -/

namespace Sys2Proof.Machine

/-- The parts of a cycle that do not wait for a sample. -/
def cycleTail (s : State) : State :=
  let s := (List.range 8).foldl serialTick s
  let s := linksTick s
  let s := (List.range 16).foldl drainMixOne s
  let s := drainStaged 256 s
  let s := if glossDirect s then storeNext s else s
  let s := if muteDue s then brownoutMute s else s
  startWake (continueReload s) 0

/-- One TCLK cycle: the sample that begins with it, and AO time goes on. While the test port holds the device in reset nothing moves
(R477). -/
def tickAll (s : State) : State := if tapHolds s then s else cycleTail (applyClockDue (timeTick (sampleStep s)))

end Sys2Proof.Machine
end

