-- ==== Sys2Proof/Safety.lean ====
section
/-! DEFINITION. What counts as a safe step of the block, and the invariants of its state. -/

namespace Sys2Proof
open Sys2Proof.Machine

/-- A state is safe to step when the step neither faults nor refuses. -/
def SafeStep (s : State) : Prop := ∃ t, step s = .next t

/-- The registers and the memory are in canonical form: ascending addresses, and no entry equal to what an unlisted address
reads as. -/
abbrev Canonical (s : State) : Prop := regsWf s.regs = true ∧ Memory.wf s.mem = true

/-- Every group of like things has the number of them the device has: 8 serial ports, 4 links, 16 Verbs, 16 timer
channels, 4 digital audio ports, 16 audio outputs, 8 control-voltage outputs (R297), 16 inputs and 32 threshold detectors, 16 event
sources of which 13 may carry MIDI (R204), 4 fence groups (R166), 16 parts (R194), 16 fuse words (R484). -/
abbrev Shaped (s : State) : Prop :=
  s.sp.length = 8 ∧ s.links.length = 4 ∧ s.verbs.length = 16 ∧ s.timers.length = 16 ∧ s.dai.length = 4 ∧
  s.analog.dac.length = 16 ∧ s.analog.cv.length = 8 ∧ s.analog.adc.length = 16 ∧ s.analog.det.length = 32 ∧
  s.evt.ready.length = 16 ∧ s.evt.parse.length = 13 ∧ s.evt.timers.length = 4 ∧ s.evt.complete.length = 4 ∧
  s.alloc.noteStacks.length = 16 ∧ s.fuse.blown.length = 16

/-! ### Frames -/

/-- The parts of the state. -/
inductive Part where
  | time | host | regs | staged | mem | ecc | memint | gloss | evt | syns | decls | phrases | alloc | verbs | parser | ended
  | boot | tense | timers | analog | pins | power | sp | sys | links | dai | flash | nvm | image | fuse | tap | free | pending
  deriving DecidableEq, Repr

/-- From s to t no part of the state differs but the named ones. -/
structure Changes (ps : List Part) (s t : State) : Prop where
  time : Part.time ∉ ps → t.time = s.time
  host : Part.host ∉ ps → t.host = s.host
  regs : Part.regs ∉ ps → t.regs = s.regs
  staged : Part.staged ∉ ps → t.staged = s.staged
  mem : Part.mem ∉ ps → t.mem = s.mem
  ecc : Part.ecc ∉ ps → t.ecc = s.ecc
  memint : Part.memint ∉ ps → t.memint = s.memint
  gloss : Part.gloss ∉ ps → t.gloss = s.gloss
  evt : Part.evt ∉ ps → t.evt = s.evt
  syns : Part.syns ∉ ps → t.syns = s.syns
  decls : Part.decls ∉ ps → t.decls = s.decls
  phrases : Part.phrases ∉ ps → t.phrases = s.phrases
  alloc : Part.alloc ∉ ps → t.alloc = s.alloc
  verbs : Part.verbs ∉ ps → t.verbs = s.verbs
  parser : Part.parser ∉ ps → t.parser = s.parser
  ended : Part.ended ∉ ps → t.ended = s.ended
  boot : Part.boot ∉ ps → t.boot = s.boot
  tense : Part.tense ∉ ps → t.tense = s.tense
  timers : Part.timers ∉ ps → t.timers = s.timers
  analog : Part.analog ∉ ps → t.analog = s.analog
  pins : Part.pins ∉ ps → t.pins = s.pins
  power : Part.power ∉ ps → t.power = s.power
  sp : Part.sp ∉ ps → t.sp = s.sp
  sys : Part.sys ∉ ps → t.sys = s.sys
  links : Part.links ∉ ps → t.links = s.links
  dai : Part.dai ∉ ps → t.dai = s.dai
  flash : Part.flash ∉ ps → t.flash = s.flash
  nvm : Part.nvm ∉ ps → t.nvm = s.nvm
  image : Part.image ∉ ps → t.image = s.image
  fuse : Part.fuse ∉ ps → t.fuse = s.fuse
  tap : Part.tap ∉ ps → t.tap = s.tap
  free : Part.free ∉ ps → t.free = s.free
  pending : Part.pending ∉ ps → t.pending = s.pending

/-- From s to t no part of the state differs but the registers and the named parts, and no register but the named ones. -/
structure Touches (ps : List Part) (rs : List Nat) (s t : State) : Prop where
  parts : Changes (.regs :: ps) s t
  regs : ∀ a, a ∉ rs → rd t a = rd s a

/-- The host may write the register at an address: the test port does not hold the device in reset (R477), the domain of the register's
page is on (R25), and the device is in RUN or QUIET (R446). -/
structure HostMayWrite (s : State) (a : Nat) : Prop where
  tap : tapHolds s = false
  domain : domainOn s (pageDomain a) = true
  awake : asleep s = false

/-- The registers a raised Gloss code may count in (R464, R467, R468). -/
def glossRegs : List Nat := [R.glossFrzcnt, R.glossSupp, R.glossLost]

/-- The registers that decide how the recorder takes a code: its rates, its overrides, the clock, the domains (R464 to R466). -/
def recorderInputs : List Nat := [R.glossRate, R.clkStat, R.pwrDomstat] ++ (List.range 16).map (R.glossOvr + 4 * ·)

/-- The ERR register of a page once a write to address a in it has been refused, for its encoding or for the state (R9, R10, Table 7): UNDEF
or LOCKW, and OFFSET of the first refusal; a later one adds its flag and MULTI, and gives OFFSET only where that was cleared on its own. -/
def errAfter (s : State) (a : Nat) (encoding : Bool) : Word :=
  let old := rd s (pageOf a + 0xFFFC)
  let bit : Word := if encoding then 0x80000000 else 0x20000000
  if old &&& 0xA0000000 = 0 then bit ||| w32 (a % 0x10000)
  else old ||| bit ||| 0x40000000 ||| (if s.host.errOpen.contains (pageOf a) then w32 (a % 0x10000) else 0)

/-- From s to t a write to address a has been refused, and nothing else has happened (R9, R10). -/
structure Refused (s t : State) (a : Nat) (encoding : Bool) : Prop where
  err   : rd t (pageOf a + 0xFFFC) = errAfter s a encoding
  given : t.host = { s.host with errOpen := s.host.errOpen.filter (· ≠ pageOf a) }
  frame : Touches [.host] [pageOf a + 0xFFFC] s t

/-- Two states have the same AOTIME, epoch and sample clock to stamp an entry with (R461). -/
structure SameStamp (u s : State) : Prop where
  aoTime : u.time.aoTime = s.time.aoTime
  epoch : u.time.epoch = s.time.epoch
  epochSet : u.time.epochSet = s.time.epochSet
  stampOld : u.time.stampOld = s.time.stampOld

/-- From s to t the one Gloss code raised is the given one, with these data words (R464 to R468): the recorder takes it as raiseGloss
does, at the time and under the rates of s, or of t where the command changes them. -/
def Logged (code : Nat) (d0 d1 d2 : Word) (s t : State) : Prop :=
  ∃ u : State, u.gloss = s.gloss ∧ (SameStamp u s ∨ SameStamp u t) ∧ (∀ a ∈ recorderInputs, rd u a = rd s a ∨ rd u a = rd t a) ∧
    t.gloss = (raiseGloss u code d0 d1 d2).gloss

/-- The 32-bit word that the four bytes from an address hold (R3). -/
def word32At (s : State) (a : Nat) : Word := w32 (leNat (memBytes s a 4))

/-- The host reaches the memory word at an address of the device map, and its codeword has no error: a region of memory whose domain is
on and that has been cleared since the reset (R23, R25, R395, R410). -/
structure CleanWord (s : State) (a : Nat) : Prop where
  region : regionOf a = .lexicon ∨ regionOf a = .shared ∨ ∃ n, regionOf a = .verb n
  opened : memoryOpen s a = true
  clean : mapGet s.ecc (a / 8 * 8) = none

/-- From when VIN has stayed above 4.45 V, once a sample of it has been taken: each side of a crossing is shown by two samples that follow
each other (R441, R457). -/
def vinSince (s : State) (vin : Nat) : Option DWord :=
  let before := lastVin s
  if 4450 < vin ∧ 4450 < before then (if s.power.vinGood.isSome then s.power.vinGood else some s.time.aoTime)
  else if vin ≤ 4450 ∧ before ≤ 4450 then none
  else s.power.vinGood

/-- The wake sources that an event names, once WAKEEN has been applied: an edge on the WAKE ball brings it to the other level, and counts
where it has the polarity of WPOL (R453, R458; the level at reset is log 145's). -/
def wokenBy (s : State) (sources : BitVec 24) : BitVec 24 :=
  (if sources.getLsbD 1 && decide ((!s.pins.wake) = flag s R.pwrWakeen 24) then sources &&& ~~~2 else sources) &&&
    BitVec.ofNat 24 (fld s R.pwrWakeen 23 0)

/-- The power state once wake sources have been latched: the first cycle's alone (R453, log 39). -/
def latched (s : State) (sources : BitVec 24) : PowerSt :=
  if sources ≠ 0 ∧ s.power.wakeLatch = 0 then { s.power with wakeLatch := sources, wakeAt := s.time.aoTime }
  else if sources ≠ 0 ∧ s.power.wakeAt = s.time.aoTime then { s.power with wakeLatch := s.power.wakeLatch ||| sources }
  else s.power

/-- No wake is due or under way (R448, R453). -/
abbrev NoWake (s : State) : Prop := s.power.wakeLatch = 0 ∧ s.power.waking = false

/-- The supply monitor's state once a sample of VIN has been taken: while WARN is 1 the lowest is kept (R441, R450). -/
def sampled (s : State) (vin : Nat) : PowerSt :=
  { s.power with
    vinGood := vinSince s vin, warnLow := if flag s R.pwrStat 5 then min s.power.warnLow vin else s.power.warnLow }

/-- What a boot ends in: interrupt mode, in RUN with rendering on and boot step 13 shown; the boot-failure state; or a reset that a list of
the image asked for (R416, R419, R425, R454). -/
def BootOutcome (t : State) : Prop :=
  t.boot.ready = false ∨ (flag t R.nvmBoot 31 = true ∧ t.boot.complete = false) ∨
    (t.boot.complete = true ∧ t.boot.interruptMode = true ∧ t.time.rendering = true ∧ fld t R.nvmBoot 7 4 = 13 ∧ devState t = 0)

/-! ### Verbs -/

/-- The steps of the computing window that could go on once a Word-frame ends have all run, or rendering is stopped (R132, R162). -/
abbrev StepsDone (s : State) : Prop := s.time.rendering = true → s.time.step1 = s.time.frame ∧ s.time.step2 = s.time.frame

/-- An instruction comes to issue on Verb v as the next of its Word-frame w (R99, R104): the Verb runs and matches no breakpoint (R479);
the frame is within its COST once its operands are available (R104, R127); nothing under way goes to a register the instruction touches (R88, R106), and no more than six
shared loads are outstanding (R88), and the mix queue has room for what it sends (R109). -/
structure Comes (s : State) (v : Fin 16) (w : WordFrame) (i : VInstr) : Prop where
  verbs   : s.verbs.length = 16
  running : (verbOf s v).running = true
  halted  : (verbOf s v).halted = false
  bp      : matchingBp s v = none
  frame   : (bankOfVerb s v).wf = some w
  count   : readyAt (bankOfVerb s v) i.reads (bankOfVerb s v).cycles ≤ w.cost
  units   : ∀ u ∈ (bankOfVerb s v).units, ∀ k, k < u.vals.length → u.dst + k ∉ i.reads.map (·.1) ++ i.writes
  loads   : ∀ l ∈ (bankOfVerb s v).loads, ∀ r ∈ l.res, r ∉ i.reads.map (·.1) ++ i.writes
  room    : (bankOfVerb s v).loads.length ≤ 6
  mix     : mixEntries (bankOfVerb s v) i ≠ 0 → (verbOf s v).mixq.length + mixEntries (bankOfVerb s v) i ≤ 32
  steps   : StepsDone s

/-- It issues without a fault: no field, address or place makes it fault (R86, R100 to R102, R107, R117, R124), and it reads no poisoned
register or packet (R397). -/
structure Issues (s : State) (v : Fin 16) (w : WordFrame) (i : VInstr) : Prop extends Comes s v w i where
  fault   : instrFault s v (bankOfVerb s v) w i = none
  poison  : ∀ r ∈ i.reads, r.1 ∉ (bankOfVerb s v).poison
  packet  : poisonedPacket s v w (bankOfVerb s v) i = none

/-- The command of a Verb instruction: none stands for an illegal word. -/
def verbCommand (v : Fin 16) : VInstr → Option Instr
  | .par a b x y => some (.par v a b x y)
  | .imm dst value => some (.imm v dst value)
  | .alui a value => some (.alui v a value)
  | .regmove dst src x y => some (.regmove v dst src x y)
  | .ctrlNone => some (.ctrlNone v)
  | .jmp cond target => some (.jmp v cond target)
  | .call cond target => some (.call v cond target)
  | .ret => some (.ret v)
  | .rep k n last => some (.rep v k n last)
  | .repd k d last => some (.repd v k d last)
  | .yield => some (.yield v)
  | .exp2f d a x y => some (.exp2f v d a x y)
  | .log2f d a x y => some (.log2f v d a x y)
  | .pinc d a x y => some (.pinc v d a x y)
  | .tip p c x y => some (.tip v p c x y)
  | .tget d x y => some (.tget v d x y)
  | .mixadd a k x y => some (.mixadd v a k x y)
  | .mixadd2 a k x y => some (.mixadd2 v a k x y)
  | .evpost a x y => some (.evpost v a x y)
  | .illegal => none

/-- Nothing waits for its release in flow order but what the Verbs hold, no Phrase sounds, and tracing is off (R147, R152, R156): what the
end of a Word-frame does is then its own effect alone. -/
structure QuietFlows (s : State) : Prop where
  phrases : s.phrases = []
  ended   : s.ended = []
  trace   : s.parser.trace = []
  staged  : s.parser.staged = []
  off     : flag s R.parserTrctl 0 = false

/-- Verb v drops its Word-frame and idles: no other of its Word-frames waits (R118, R128). -/
structure Idles (s t : State) (v : Fin 16) : Prop where
  empty : (bankOfVerb t v).wf = none
  idle  : (verbOf t v).running = false
  other : ∀ u, u ≠ v.val → verbOf t u = verbOf s u

/-- The instruction Verb v issues is not the second delay slot of a YIELD (R100, R125). -/
abbrev GoesOn (s : State) (v : Fin 16) : Prop := (advance (bankOfVerb s v)).2 = false

/-- A move field that is absent (R113). -/
abbrev NoMoves (x y : MoveField) : Prop := mvActive x = false ∧ mvActive y = false

/-- From s to t Verb v has issued one instruction: its bank in use is b but for the count of cycles, which has grown, and the record of
which cycle produced which register (R104); its mix queue is q; no other Verb and no other part of the state but the named ones
differs. -/
structure Issued (ps : List Part) (s t : State) (v : Fin 16) (b : VerbBank) (q : List MixItem) : Prop where
  bank  : ∃ n made, (bankOfVerb s v).cycles < n ∧ bankOfVerb t v = { b with cycles := n, produced := made }
  verb  : verbOf t v = { (verbOf s v).setCur (bankOfVerb t v) with bpSkip := false, mixq := q }
  other : ∀ u, u ≠ v.val → verbOf t u = verbOf s u
  parts : Touches (.verbs :: ps) [] s t

/-- The bank in use of Verb v holds Word w.next of Phrase p as at its entry (R120): its Word-frame with nothing posted, the header word
in D0, the render rate in D1 and zeros, the areas of the bank and the Phrase in the pointers, the accumulators 0, no repeat, no return
address, and the bank and the mode of entry in VSR. -/
structure Entered (t : State) (v : Fin 16) (p : Phrase) (w : Work) (sw : SynWord) (pre : Bool) : Prop where
  frame : ∃ f, (bankOfVerb t v).wf = some f ∧ f.frame = w.frame ∧ f.pos = w.pos ∧ f.widx = w.next ∧ f.cost = sw.cost ∧ f.isPre = pre ∧
    f.stores = [] ∧ f.events = [] ∧ f.storesOut = 0 ∧ f.eventsOut = 0
  rate  : (bankOfVerb t v).dOf 1 = w32 (fsCode t)
  zeros : ∀ k, 2 ≤ k → k < 16 → (bankOfVerb t v).dOf k = 0
  areas : nth (bankOfVerb t v).p 0 0 = w32 p.xbase ∧ nth (bankOfVerb t v).p 1 0 = w32 (bankArea (verbOf t v).useB)
  accs  : (bankOfVerb t v).acc = List.replicate 4 0
  flow  : (bankOfVerb t v).reps = [] ∧ (bankOfVerb t v).rstack = [] ∧ (bankOfVerb t v).delay = none
  vsr   : (bankOfVerb t v).vsr = w32 (4 + b2n (verbOf t v).useB * 2 ^ 13 + b2n pre * 2 ^ 14)

/-! ### Timers -/

/-- From s to t timer channel n has ticked (R250, R253, R254): its count and lap are the given ones, what they were moves on, the status
bits of the causes are set (R255), and no other channel differs. -/
structure Ticked (s t : State) (n : Fin 16) (count : Word) (lap : BitVec 16) (causes : Nat) : Prop where
  here   : timerOf t n = { timerOf s n with count, lap, prev1 := ((timerOf s n).count, (timerOf s n).lap), prev2 := (timerOf s n).prev1 }
  status : rd t (timerReg n 0x20) = w32 ((rd s (timerReg n 0x20)).toNat ||| causes)
  other  : ∀ m, m ≠ n.val → timerOf t m = timerOf s m

/-- The output level of ball TPb after an action on it: 1 set, 2 clear, 3 toggle (R257). -/
def ballAfter (s : State) (ball action : Nat) : Bool :=
  if action = 1 then true else if action = 2 then false else if action = 3 then !flag s R.tenseTpctl (8 + ball) else
    flag s R.tenseTpctl (8 + ball)

/-! ### Inputs -/

/-- From s to t input channel n has delivered the sample v of sample time u: it lies in the ring, SAT shows whether it saturated, no other
byte of memory has changed, no other channel, and of the detectors at most those of the channel (R308 to R311). -/
structure InputDelivered (s t : State) (n u : Nat) (v : Int) (sat : Bool) : Prop where
  word  : word32At t (inputAddr s n u) = BitVec.ofInt 32 v
  bytes : ∀ b, b < inputAddr s n u ∨ inputAddr s n u + 4 ≤ b → memByte t b = memByte s b
  sat   : flag t R.adcFlag n = (flag s R.adcFlag n || sat)
  here  : adcOf t n = { adcOf s n with held := BitVec.ofInt 32 v, given := some u, settle := (adcOf s n).settle - 1 }
  other : ∀ m, m ≠ n → adcOf t m = adcOf s m
  rest  : ∀ y, y / 2 ≠ n → detOf t y = detOf s y

/-- Detector x evaluates the value its channel delivers next: it is enabled, and its channel runs and has settled (R311, R314). -/
def evaluates (s : State) (x : Nat) : Bool := watching s x && flag s (R.adcTctl + 16 * x) 0

/-- Detector x does nothing with the value its channel delivers next: it is not to evaluate it, and no window of it takes it (R316). -/
def Still (s : State) (x : Nat) : Prop := evaluates s x = false ∧ (watching s x = true → (detOf s x).windows = [])

/-- The event of detector x with a stamp and a value (R202, R316). -/
def thresholdPacket (x : Nat) (stamp : DWord) (v : Int) : EvPacket := { mkEvent stamp 0x0B 0 x 0 with value := BitVec.ofInt 32 v }

/-! ### Serial ports -/

/-- Port p has received a character with this start edge, and what its line says is decided by now: r (R325 to R328). -/
def Heard (s : State) (p : Nat) (line : List Nat) (start : DWord) (r : Received) : Prop :=
  (spOf s p).rxBusy = some start ∧ r = receivedOf s p line ∧ (nth r.bits 0 (true, false)).1 = false ∧
    (afterStart s p start r.done).toNat < nowQuarter s + 4

/-- Port p once a received character has been dealt with: idle, or on to the next one; the line is high from the instant that the
character's line gives, or low while it gives none (R328, R337). -/
def Awaits (q : SpSt) (s : State) (p : Nat) (line : List Nat) (start : DWord) (r : Received) : SpSt :=
  { q with rxBusy := r.next.map (afterStart s p start), own := false, echo := none,
           lineFrom := ((highFrom line r.done).map (afterStart s p start)).getD q.lineFrom, lineLow := (highFrom line r.done).isNone }

/-! ### Links -/

/-- A packet that acts by its order or its CRC arrives with this command: how, and whether it is of a retried type (R352, R354). -/
def arrivalOf : Instr → Option (Arrival × Bool)
  | .hello a _ _ | .syncPacket a _ _ _ => some (a, false)
  | .addr a _ _ _ _ | .ctl a _ _ _ _ _ | .evt a _ _ => some (a, true)
  | .wev a _ _ | .frm a _ | .bootPacket a _ _ | .stat a _ _ => some (a.toArrival, true)
  | .trc a _ _ => some (a.toArrival, false)
  | _ => none

/-- A packet arrives on an aligned link, and its CRC holds (R351, R352). -/
structure Sound (s : State) (a : Arrival) : Prop where
  single  : s.sys.single = false
  aligned : 2 ≤ linkState s a.link
  crc     : a.crcOk = true

/-- A packet of a retried type does so in sequence (R354). -/
structure InOrder (s : State) (a : Arrival) : Prop extends Sound s a where
  seq : a.seq.toNat = (linkOf s a.link).expect

/-- A link once a retried packet has arrived in sequence: the next number is due, and an ACK up to this one (R351, R354). -/
def acked (k : LinkSt) : LinkSt :=
  { k with expect := (k.expect + 1) % 256, answer := some (false, ((k.expect + 1) % 256 + 255) % 256) }

/-- The state once a retried packet has arrived in sequence, before it acts. -/
def tookPacket (s : State) (l : Nat) : State := answerLink (onLink s l fun k => { k with expect := (k.expect + 1) % 256 }) l false

/-! ### Digital audio ports -/

/-- From s to t digital audio port p has delivered the words of its 16 slots for sample time u: they lie in the ring, no other byte of
memory has changed, and no other port (R385); f is the frame whose slip it has logged last. -/
structure PortDelivered (s t : State) (p u : Nat) (ws : List Word) (f : Option Nat) : Prop where
  words : ∀ k, k < 16 → word32At t (daiAddr s p k u) = nth ws k 0
  bytes : ∀ b, (∀ k, k < 16 → b < daiAddr s p k u ∨ daiAddr s p k u + 4 ≤ b) → memByte t b = memByte s b
  here  : daiOf t p = { daiOf s p with lastU := some u, words := ws, slipFrame := f, edgeAt := s.time.aoTime }
  other : ∀ q, q ≠ p → daiOf t q = daiOf s q

/-- The value that output slot k of port p takes for position v, by the OSLOT of the frame of v: a bus of the frame played, a sample of an
input channel or of a port input, or none (R386, R391). -/
def portValue (s : State) (p v k : Nat) : Option Int :=
  let o := oslotAt s p k v
  let idx := bits o 6 0
  match bits o 25 24 with
  | 1 =>
    let codes := match (daiOf s p).bus.find? fun b => b.1 = v / 16 with | some b => nth b.2 k [] | none => []
    some (nth codes (v % 16) 0)
  | 2 => some (word32At s (inputAddr s (idx % 16) v)).toInt
  | 3 => some (word32At s (daiAddr s (idx / 16 % 4) (idx % 16) v)).toInt
  | _ => none

/-- The word that it sends: rounded to WL bits and saturated; without a value 0, or with TRI nothing (R386). -/
def portWord (s : State) (p v k : Nat) : Option Word :=
  match portValue s p v k with
  | none => if flag s (daiReg R.daiCfg p) 11 then none else some 0
  | some x => some (narrowWord x (daiWidth s p)).1

/-- Does it saturate. -/
def portSaturates (s : State) (p v k : Nat) : Bool :=
  match portValue s p v k with
  | none => false
  | some x => (narrowWord x (daiWidth s p)).2

/-! ### Fuses -/

/-- Bit b of data fuse word w is blown; bit 32 stands for the word's parity fuse (R484). -/
def fuseBlown (s : State) (w b : Nat) : Bool :=
  if b = 32 then (nth s.fuse.blown w (0, false)).2 else (nth s.fuse.blown w (0, false)).1.getLsbD b

/-- Every fuse blown in s is blown in t. -/
abbrev KeepsFuses (s t : State) : Prop := ∀ w b, fuseBlown s w b = true → fuseBlown t w b = true

end Sys2Proof
end

