-- ==== Sys2Proof/Certificates/Slice0/Obligations.lean ====
section
/-! DEFINITION. The statements for the provers. -/

open Sys2Proof Sys2Proof.Machine

/-! ### The host SPI target and the registers (R5 to R10, R23 to R27, R31) -/

/-- READ and READ_FIXED of memory words without errors return them, in order, on HMISO (R23, R31, R395); nothing but the transaction's
own state changes. A word of a discard frame, whose content is not defined (R85), is a free value. READ and READ_FIXED of a register
without a side effect return its value (R5, R31). -/
def Obligations.HostReadsMemory : Prop :=
  (∀ (s : State) (addr : Word) (count : Nat), hostReady s = true → hostIgnores s = false → addr.toNat % 4 = 0 →
    (∀ i, i < count → CleanWord s (wordAddr addr i) ∧ inDiscard (wordAddr addr i) = false) →
    ∃ t, exec (.read addr count) s = .next t ∧ t.host.out = (List.range count).map (fun i => word32At s (wordAddr addr i)) ∧
      t.host.lastErr = s.host.lastErr ∧ Touches [.host] [] s t) ∧
  (∀ (s : State) (addr : Word) (count : Nat), hostReady s = true → hostIgnores s = false → addr.toNat % 4 = 0 → CleanWord s addr.toNat →
    inDiscard addr.toNat = false →
    ∃ t, exec (.readFixed addr count) s = .next t ∧ t.host.out = List.replicate count (word32At s addr.toNat) ∧
      t.host.lastErr = s.host.lastErr ∧ Touches [.host] [] s t) ∧
  (∀ (s : State) (addr : Word), hostReady s = true → hostIgnores s = false → addr.toNat % 4 = 0 → CleanWord s addr.toNat →
    inDiscard addr.toNat = true →
    ∃ t, exec (.read addr 1) s = .next t ∧ t.host.out.length = 1 ∧ t.host.lastErr = s.host.lastErr ∧ Touches [.host, .free] [] s t) ∧
  (∀ (s : State) (addr : Word) (count : Nat), hostReady s = true → hostIgnores s = false → addr.toNat % 4 = 0 →
    addr.toNat + 4 * count ≤ 2 ^ 32 →
    (∀ i, i < count → regionOf (addr.toNat + 4 * i) = .page ∧ domainOn s (pageDomain (addr.toNat + 4 * i)) = true ∧
      rxdPort (addr.toNat + 4 * i) = none ∧ latchedBy (addr.toNat + 4 * i) = none ∧ vrdataVerb (addr.toNat + 4 * i) = none) →
    ∃ t, exec (.read addr count) s = .next t ∧ t.host.out = (List.range count).map (fun i => readReg s (addr.toNat + 4 * i)) ∧
      t.host.lastErr = s.host.lastErr ∧ Touches [.host] [] s t)

/-- WRITE puts its words at ascending addresses of the Lexicon, shared memory and the local memory of a Verb that is not halted while
rendering is stopped, WRITE_FIXED the last of them at its address (R23, R24, R31); no other byte changes, and nothing but memory and the
transaction's own state. Words written where memory reads 0 (R85, R393) are not stored. -/
def Obligations.HostWritesMemory : Prop :=
  (∀ (s : State) (addr : Word) (words : List Word) (rest : BitVec 5), hostReady s = true → hostIgnores s = false → asleep s = false →
    s.time.rendering = false → addr.toNat % 4 = 0 → addr.toNat + 4 * words.length ≤ 0x01600000 →
    (∀ i, i < words.length → CleanWord s (addr.toNat + 4 * i) ∧ readsZero s (addr.toNat + 4 * i) = false ∧
      ∀ n, regionOf (addr.toNat + 4 * i) = .verb n → (verbOf s n).halted = false) →
    ∃ t, exec (.write addr words rest) s = .next t ∧
      (∀ i, i < words.length → word32At t (addr.toNat + 4 * i) = nth words i 0) ∧
      (∀ a, a < addr.toNat ∨ addr.toNat + 4 * words.length ≤ a → memByte t a = memByte s a) ∧
      t.host.lastErr = s.host.lastErr ∧ Touches [.host, .mem] [] s t) ∧
  (∀ (s : State) (addr : Word) (words : List Word) (rest : BitVec 5), hostReady s = true → hostIgnores s = false → asleep s = false →
    s.time.rendering = false → addr.toNat % 4 = 0 → words ≠ [] → CleanWord s addr.toNat → readsZero s addr.toNat = false →
    (∀ n, regionOf addr.toNat = .verb n → (verbOf s n).halted = false) →
    ∃ t, exec (.writeFixed addr words rest) s = .next t ∧
      word32At t addr.toNat = words.getLastD 0 ∧
      (∀ a, a < addr.toNat ∨ addr.toNat + 4 ≤ a → memByte t a = memByte s a) ∧
      t.host.lastErr = s.host.lastErr ∧ Touches [.host, .mem] [] s t) ∧
  (∀ (s : State) (addr : Word) (words : List Word) (rest : BitVec 5), hostReady s = true → hostIgnores s = false → asleep s = false →
    s.time.rendering = false → addr.toNat % 4 = 0 → addr.toNat + 4 * words.length ≤ 0x01600000 →
    (∀ i, i < words.length → memoryOpen s (addr.toNat + 4 * i) = true ∧ readsZero s (addr.toNat + 4 * i) = true ∧
      ∀ n, regionOf (addr.toNat + 4 * i) = .verb n → (verbOf s n).halted = false) →
    ∃ t, exec (.write addr words rest) s = .next t ∧ t.host.lastErr = s.host.lastErr ∧ Touches [.host] [] s t)

/-- A READ of SYS.ID returns 0x8512_1010 for every word (R26, R31). -/
def Obligations.IdentityReads : Prop :=
  ∀ (s : State) (count : Nat), hostReady s = true → hostIgnores s = false → domainOn s 0 = true → rd s R.sysId = regReset R.sysId →
    mapGet s.staged R.sysId = none →
    (∃ t, exec (.readFixed (w32 R.sysId) count) s = .next t ∧ t.host.out = List.replicate count 0x85121010 ∧
      Touches [.host] [] s t) ∧
    ∃ t, exec (.read (w32 R.sysId) 1) s = .next t ∧ t.host.out = [0x85121010] ∧ Touches [.host] [] s t

/-- STATUS returns the status byte with the command and once for each further byte clocked, and clears LASTERR; an undefined command
byte, or a misaligned address, refuses the transaction and sets LASTERR; behind the refusal every command is ignored until the
transaction's end clears it (R31). Before boot step 3, STATUS returns 0 alone. -/
def Obligations.HostTransactions : Prop :=
  (∀ (s : State) (count : Nat), hostReady s = true → hostIgnores s = false →
    ∃ t, exec (.status count) s = .next t ∧ t.host.statusOut = List.replicate (count + 1) (statusByte s) ∧
      t.host.lastErr = false ∧ t.host.out = [] ∧ Touches [.host] [] s t) ∧
  (∀ (s : State) (count : Nat), hostReady s = false → hostIgnores s = false →
    ∃ t, exec (.status count) s = .next t ∧ t.host.statusOut = [0] ∧ t.host.lastErr = s.host.lastErr ∧ Touches [.host] [] s t) ∧
  (∀ (s : State) (code : Byte) (addr : Word), hostReady s = true → hostIgnores s = false →
    (code ∉ [0x02, 0x03, 0x05, 0x0B, 0x0C] ∨ (code ∈ [0x02, 0x03, 0x0B, 0x0C] ∧ addr.toNat % 4 ≠ 0)) →
    ∃ t, exec (.undefinedHostCommand code addr) s = .next t ∧ t.host.refused = true ∧ t.host.lastErr = true ∧ t.host.out = [] ∧
      Touches [.host] [] s t) ∧
  (∀ (s : State) (addr : Word) (words : List Word) (rest : BitVec 5) (count : Nat) (code : Byte), hostIgnores s = true →
    exec (.write addr words rest) s = .next s ∧ exec (.writeFixed addr words rest) s = .next s ∧ exec (.read addr count) s = .next s ∧
    exec (.readFixed addr count) s = .next s ∧ exec (.status count) s = .next s ∧ exec (.undefinedHostCommand code addr) s = .next s) ∧
  (∀ s : State, exec .hostTransactionEnd s = .next { s with host := { s.host with open? := false, refused := false } })

/-- REGISTER_WRITE by access type (R5, R6, R9, R27): IRQEN takes the written value in its defined bits; a W1C source of IRQSTAT written 1
clears, and one written 0 stays; an offset without a register ignores the write; an undefined encoding (TENSE.TEMPO out of its range) is
refused: UNDEF with its OFFSET, or MULTI behind an earlier refusal, and the register unchanged. -/
def Obligations.RegisterWriteByType : Prop :=
  (∀ (s : State) (v : Word), HostMayWrite s R.sysIrqen →
    ∃ t, exec (.registerWrite (w32 R.sysIrqen) v) s = .next t ∧ rd t R.sysIrqen = (rd s R.sysIrqen &&& ~~~0x1FFFF) ||| (v &&& 0x1FFFF) ∧
      (∀ a, a ≠ R.sysIrqen → rd t a = rd s a) ∧ Changes [.regs] s t) ∧
  (∀ (s : State) (v : Word), HostMayWrite s R.sysIrqstat →
    ∃ t, exec (.registerWrite (w32 R.sysIrqstat) v) s = .next t ∧ rd t R.sysIrqstat = rd s R.sysIrqstat &&& ~~~(v &&& 0x1FF00) ∧
      (∀ a, a ≠ R.sysIrqstat → rd t a = rd s a) ∧ Changes [.regs] s t) ∧
  (∀ (s : State) (a v : Word), HostMayWrite s a.toNat → 0x40000000 ≤ a.toNat → a.toNat < 0x40130000 → a.toNat % 4 = 0 →
    regDesc a.toNat = none → exec (.registerWrite a v) s = .next s) ∧
  (∀ (s : State) (v : Word), HostMayWrite s R.tenseTempo → v.toNat < 0xA0000 ∨ 0x3E70000 < v.toNat →
    ∃ t, exec (.registerWrite (w32 R.tenseTempo) v) s = .next t ∧ Refused s t R.tenseTempo true)

/-- COUNT_READ_LATCH: a read of the lower half of a 64-bit count latches the upper half, and nothing else changes (R254, R259, R262). -/
def Obligations.CountReadLatches : Prop :=
  ∀ (s : State) (c : CountReg), ∃ t, exec (.countReadLatch c) s = .next t ∧
    mapGet t.time.latches (upperHalf s c).1 = some (upperHalf s c).2 ∧
    (∀ a, a ≠ (upperHalf s c).1 → mapGet t.time.latches a = mapGet s.time.latches a) ∧
    t = { s with time := { s.time with latches := t.time.latches } }


/-! ### Clocks, the sample epoch and frames (R12 to R18, R132, R208, R243, R260, R312) -/

/-- The reference clock (R14 to R16, R260). WCLK_LOCK and WCLK_RESUMED set WLOCK while SRC selects WCLK; WCLK_LOST, while WCLK is followed,
clears WLOCK, sets WLOST, hands over to the crystal or the AO oscillator and raises Gloss code 0x0140; CRYSTAL_FAIL of the crystal in use
sets XFAIL, hands over to the AO oscillator and leaves the timers' change due. CRYSTAL_START_TIMEOUT on a board without a crystal, once the
supply is good, clears XTAL and boot goes on behind its step 3, with the hold-up charger started (R442): with a WCLK rate found, its
multiple and its family are set, SRC selects WCLK and WLOCK and ACTIVE show it, and in the 44.1 kHz family a port still at the reset
setting of BAUD takes that family's (R341; that such a port follows is the model's reading, log 45); with none the AO oscillator runs and
XFAIL is set. AO_CLOCK_SWITCH makes a change of the timers' clock that is due, shows it in AOCLK and raises Gloss code 0x8100 or 0x8101. -/
def Obligations.ReferenceClock : Prop :=
  (∀ s : State, s.time.wclkLost = false → fld s R.clkCtrl 1 0 = 1 →
    ∃ t, exec .wclkLock s = .next t ∧ flag t R.clkStat 6 = true ∧ Touches [] [R.clkStat] s t) ∧
  (∀ s : State, s.time.wclkLost = true → fld s R.clkCtrl 1 0 = 1 →
    ∃ t, exec .wclkResumed s = .next t ∧ flag t R.clkStat 6 = true ∧ Touches [] [R.clkStat] s t) ∧
  (∀ s : State, activeRef s = 1 →
    ∃ t, exec .wclkLost s = .next t ∧ flag t R.clkStat 6 = false ∧ flag t R.clkStat 7 = true ∧
      activeRef t = (if crystalRuns s then 0 else 2) ∧ t.time = { s.time with wclkLost := true } ∧
      Logged 0x0140 (w32 (if crystalRuns s then 0 else 1)) (w32 s.time.frame) 0 s t ∧
      Touches [.time, .gloss] (R.clkStat :: glossRegs) s t) ∧
  (∀ s : State, flag s R.clkCtrl 4 = true → activeRef s = 0 → s.time.onAo = false →
    ∃ t, exec .crystalFail s = .next t ∧ flag t R.clkStat 8 = true ∧ activeRef t = 2 ∧
      t.time = { s.time with clockDue := some (true, 1) } ∧ Touches [.time] [R.clkStat] s t) ∧
  (∀ (s : State) (r : WclkRate), s.boot.ready = false → supplyGood s = true →
    ∃ t, exec (.crystalStartTimeout (some r)) s = .next t ∧ t.boot = { s.boot with ready := true } ∧
      t.power = { s.power with vhold := 15000 } ∧ fld t R.nvmBoot 7 4 = 3 ∧ t.time = { s.time with familyOpen := false } ∧
      flag t R.clkCtrl 4 = false ∧ fld t R.clkCtrl 7 6 = r.multiple.val ∧ fld t R.clkCtrl 1 0 = 1 ∧
      flag t R.clkStat 3 = r.family44 ∧ activeRef t = 1 ∧ flag t R.clkStat 6 = true ∧
      (∀ p, p < 8 → rd t (spReg p 4) =
        if r.family44 = true ∧ rd s (spReg p 4) = 0x003126E9 then 0x002D288D else rd s (spReg p 4)) ∧
      Touches [.boot, .power, .time, .sp] (R.clkCtrl :: R.clkStat :: R.nvmBoot :: (List.range 8).map (spReg · 4)) s t) ∧
  (∀ s : State, s.boot.ready = false → supplyGood s = true →
    ∃ t, exec (.crystalStartTimeout none) s = .next t ∧ t.boot = { s.boot with ready := true } ∧ flag t R.clkCtrl 4 = false ∧
      t.power = { s.power with vhold := 15000 } ∧ fld t R.nvmBoot 7 4 = 3 ∧
      flag t R.clkStat 8 = true ∧ activeRef t = 2 ∧ flag t R.tenseStat 4 = true ∧
      t.time = { s.time with onAo := true, aoAcc := 0, familyOpen := true } ∧
      Logged 0x8100 (w32 s.time.aoTime.toNat) (w32 (s.time.aoTime.toNat / 2 ^ 32)) 1 s t ∧
      Touches [.boot, .power, .time, .gloss] (R.clkCtrl :: R.clkStat :: R.nvmBoot :: R.tenseStat :: glossRegs) s t) ∧
  (∀ (s : State) (ao : Bool) (cause : Nat), s.time.clockDue = some (ao, cause) →
    ∃ t, exec .aoClockSwitch s = .next t ∧ t.time = { s.time with onAo := ao, aoAcc := 0, clockDue := none } ∧
      flag t R.tenseStat 4 = ao ∧
      Logged (if ao then 0x8100 else 0x8101) (w32 s.time.aoTime.toNat) (w32 (s.time.aoTime.toNat / 2 ^ 32)) (w32 cause) s t ∧
      Touches [.time, .gloss] (R.tenseStat :: glossRegs) s t)

/-- A SYNC on the ball or by the sync command, taken after boot while rendering is stopped, sets the epoch to its instant, the first
modulator clock edge after the synchronised edge, 2 to 4 TCLK cycles after the ball's edge, or after the write (R17, R312; that those edges
lie at even distances from the epoch in force is the model's choice, log 71). A device that follows its link's epoch ignores it. Asleep,
an edge on the ball is a wake event where WAKEEN.SYNC is 1 (R453). -/
def Obligations.SyncSetsEpoch : Prop :=
  (∀ (s : State) (d : SyncDelay), s.boot.interruptMode = true → s.time.rendering = false → s.tense.atEpoch = (0, false) →
    isWorker s = false → isRoot s = false →
    ∃ t, exec (.syncBallEdge d) s = .next t ∧ t.time.epoch = syncEdge s d.val ∧ (t.time.epoch - s.time.epoch) % 2 = 0 ∧
      2 ≤ (t.time.epoch - s.time.aoTime).toNat ∧ (t.time.epoch - s.time.aoTime).toNat ≤ 4 ∧ t.time.epochSet = true ∧
      t.time.frame = 0 ∧ t.time.aoTime = s.time.aoTime ∧ t.pins.sync = true ∧ t.phrases = s.phrases ∧
      (s.time.epochSet = false → t.evt = s.evt)) ∧
  (∀ (s : State), HostMayWrite s R.adcCtrl → s.boot.interruptMode = true → s.time.rendering = false → s.tense.atEpoch = (0, false) →
    isWorker s = false → isRoot s = false →
    ∃ t, exec .syncCommand s = .next t ∧
      t.time.epoch = s.time.aoTime + 2 - (s.time.aoTime - s.time.epoch) % 2 ∧ t.time.epochSet = true ∧
      t.time.frame = 0 ∧ t.time.aoTime = s.time.aoTime ∧ t.phrases = s.phrases ∧ (s.time.epochSet = false → t.evt = s.evt)) ∧
  (∀ (s : State) (d : SyncDelay), isWorker s = true → flag s R.linkCfg 3 = false → asleep s = false → s.power.entry = none →
    exec (.syncBallEdge d) s = .next { s with pins := { s.pins with sync := true } }) ∧
  (∀ (s : State) (d : SyncDelay), s.boot.interruptMode = false → asleep s = true → flag s R.pwrWakeen 2 = true →
    s.power.wakeLatch = 0 →
    exec (.syncBallEdge d) s = .next { s with pins := { s.pins with sync := true },
                                              power := { s.power with wakeLatch := 4, wakeAt := s.time.aoTime } })

/-- FRAME_BOUNDARY. While rendering with no change to QUIET due it opens the window of the next frame, frame 1 where no SYNC has set the
epoch (R17, R132), where no table error takes a worker out of its system (R399); with that change due rendering stops, the device is in
QUIET and no Phrase is left (R447). While rendering is stopped, a change to RUN that is due starts it, with the frame whose window sample
time lies in (R17, R19, R447); before a boot has ended, and asleep, there is no boundary. -/
def Obligations.BoundaryOpensWindow : Prop :=
  (∀ s : State, s.time.rendering = true → s.power.want ≠ 1 → s.power.want ≠ 2 → s.power.entry = none →
    (isWorker s = false ∨ (s.memint.tableErr = none ∧ s.ecc = [])) →
    ∃ t, exec .frameBoundary s = .next t ∧ t.time.rendering = true ∧ t.time.epochSet = true ∧
      t.time.frame = (if s.time.epochSet then s.time.frame else 0) + 1) ∧
  (∀ s : State, s.time.rendering = true → s.power.want = 1 → s.power.entry = none →
    ∃ t, exec .frameBoundary s = .next t ∧ t.time.rendering = false ∧ t.power.want = 0 ∧ devState t = 1 ∧ t.phrases = []) ∧
  (∀ s : State, s.time.rendering = false → s.boot.complete = true → asleep s = false → s.power.want = 2 →
    ∃ t, exec .frameBoundary s = .next t ∧ t.time.rendering = true ∧ t.power.want = 0 ∧ devState t = 0 ∧
      t.time.frame = windowNow s - 1 + 1) ∧
  (∀ s : State, s.time.rendering = false → (s.boot.complete = false ∨ asleep s = true) → exec .frameBoundary s = .next s)

/-- EVENT_TAKE (R132, R208): while rendering, once step 1 of the open frame has run, step 2 of it runs, and the events whose position lies
in it leave the queue. Where the rest is still, no other event leaves; control events that no record matches (R225) do nothing else. -/
def Obligations.EventTakeTakes : Prop :=
  (∀ s : State, s.time.rendering = true → isWorker s = false → s.time.step1 = s.time.frame → s.time.step2 < s.time.frame →
    ∃ t, exec .eventTake s = .next t ∧ t.time.step2 = s.time.frame) ∧
  ∀ s : State, s.time.rendering = true → isWorker s = false → isRoot s = false → s.time.step1 = s.time.frame →
    s.time.step2 < s.time.frame → s.phrases = [] → s.alloc.ops = [] → s.evt.map.controls = [] → transport s = 0 → s.tense.lastP = none →
    tempoSource s = 0 → s.memint.tableErr = none → s.ecc = [] →
    (∀ q ∈ takenEvents s s.time.frame, q.pkt.kind = 0x03) →
    ∃ t, exec .eventTake s = .next t ∧ t.time.step2 = s.time.frame ∧
      t.evt.queue = s.evt.queue.filter (fun q => !(takenEvents s s.time.frame).contains q)

/-- TEMPO_SOURCE_LOSS (R243): where the test, once step 2 of the open frame has taken its pulses, finds the external source lost, LOST is
set, the loss counts and Gloss code 0x8110 is raised; while the transport does not run, neither it nor the model changes. -/
def Obligations.TempoSourceLost : Prop :=
  ∀ s : State, stepTwoTaken s = true → lossDue s s.time.frame = true → transport s ≠ 2 →
    ∃ t, exec .tempoSourceLoss s = .next t ∧ flag t R.tenseStat 2 = true ∧
      rd t R.tenseLosscnt = rd (countUp s R.tenseLosscnt) R.tenseLosscnt ∧
      Logged 0x8110 (w32 (tempoSource s)) (w32 (s.tense.lastP.getD 0).toNat) (w32 s.tense.qf) s t ∧
      Touches [.gloss] (R.tenseStat :: R.tenseLosscnt :: glossRegs) s t


/-! ### The Verbs (R84 to R129) -/

/-- PAR and ALUI without moves: slot A and slot B work on the registers from before the instruction, slot A sets the flags (R93, R111,
R112), and the program counter moves on (R100, R102). Spelled out for a multiply-accumulate in slot A: its accumulator takes the sum with
the product, wrapped to 80 bits, and V says whether the exact sum left that range (R91). -/
def Obligations.VerbArithmetic : Prop :=
  (∀ (s : State) (v : Fin 16) (w : WordFrame) (a b : ArithField) (x y : MoveField), Issues s v w (.par a b x y) → GoesOn s v →
    NoMoves x y →
    ∃ t, exec (.par v a b x y) s = .next t ∧ Issued [] s t v
      (advance (doArith (bankOfVerb s v) (doArith (bankOfVerb s v) (bankOfVerb s v) a none true 0) b none false 0)).1 (verbOf s v).mixq) ∧
  (∀ (s : State) (v : Fin 16) (w : WordFrame) (a : ArithField) (imm : Word), Issues s v w (.alui a imm) → GoesOn s v →
    ∃ t, exec (.alui v a imm) s = .next t ∧ Issued [] s t v
      (advance (doArith (bankOfVerb s v) (bankOfVerb s v) a (some imm) true 0)).1 (verbOf s v).mixq) ∧
  (∀ (s : State) (v : Fin 16) (w : WordFrame) (a b : ArithField) (x y : MoveField), Issues s v w (.par a b x y) → GoesOn s v →
    NoMoves x y → a.opc = 2 → b.opc = 0 → (bankOfVerb s v).acc.length = 4 →
    ∃ t, exec (.par v a b x y) s = .next t ∧
      (bankOfVerb t v).accOf a.acc.toNat = BitVec.ofInt 80 (((bankOfVerb s v).accOf a.acc.toNat).toInt +
        ((bankOfVerb s v).dOf a.sa.toNat).toInt * ((bankOfVerb s v).dOf a.sb.toNat).toInt) ∧
      (∀ k, k ≠ a.acc.toNat → (bankOfVerb t v).accOf k = (bankOfVerb s v).accOf k) ∧
      (bankOfVerb t v).d = (bankOfVerb s v).d ∧ (bankOfVerb t v).p = (bankOfVerb s v).p ∧
      (bitOf (bankOfVerb t v).vsr 10 = true ↔ ((bankOfVerb t v).accOf a.acc.toNat).toInt ≠
        ((bankOfVerb s v).accOf a.acc.toNat).toInt +
          ((bankOfVerb s v).dOf a.sa.toNat).toInt * ((bankOfVerb s v).dOf a.sb.toNat).toInt))

/-- IMM and REGMOVE write their register as its code says (R90, R98, R111, R114); a CTRL word with operation none only moves the program
counter on (R115). -/
def Obligations.VerbRegisters : Prop :=
  (∀ (s : State) (v : Fin 16) (w : WordFrame) (dst : BitVec 6) (value : Word), Issues s v w (.imm dst value) → GoesOn s v →
    ∃ t, exec (.imm v dst value) s = .next t ∧ Issued [] s t v (advance ((bankOfVerb s v).writeReg dst.toNat value)).1 (verbOf s v).mixq) ∧
  (∀ (s : State) (v : Fin 16) (w : WordFrame) (dst src : BitVec 6) (x y : MoveField), Issues s v w (.regmove dst src x y) → GoesOn s v →
    NoMoves x y →
    ∃ t, exec (.regmove v dst src x y) s = .next t ∧ Issued [] s t v
      (advance ((bankOfVerb s v).writeReg dst.toNat ((bankOfVerb s v).readReg src.toNat))).1 (verbOf s v).mixq) ∧
  (∀ (s : State) (v : Fin 16) (w : WordFrame), Issues s v w .ctrlNone →
    ∃ t, exec (.ctrlNone v) s = .next t ∧
      Issued [] s t v { bankOfVerb s v with pc := ((bankOfVerb s v).pc + 1) % 8192 } (verbOf s v).mixq) ∧
  (∀ (b : VerbBank) (code : Nat) (value : Word), code < 0x18 → b.d.length = 16 → b.p.length = 8 →
    (b.writeReg code value).readReg code = value ∧ ∀ k, k ≠ code → k < 0x31 → (b.writeReg code value).readReg k = b.readReg k)

/-- JMP, CALL, RET and YIELD take effect after two delay slots, CALL with the address behind them on the return stack; REP and REPD
set their counter and enter the body, or on a count of 0 pass its last instruction (R100 to R102, R115). -/
def Obligations.VerbProgramFlow : Prop :=
  ∀ (s : State) (v : Fin 16) (w : WordFrame) (b : VerbBank), b = bankOfVerb s v →
  (∀ (cond : BitVec 4) (target : BitVec 13), Issues s v w (.jmp cond target) →
    ∃ t, exec (.jmp v cond target) s = .next t ∧ Issued [] s t v { b with
      pc := (b.pc + 1) % 8192, delay := some (2, if condHolds b.vsr cond.toNat = some true then .goto target.toNat else .fall) }
      (verbOf s v).mixq) ∧
  (∀ (cond : BitVec 4) (target : BitVec 13), Issues s v w (.call cond target) →
    ∃ t, exec (.call v cond target) s = .next t ∧ Issued [] s t v
      (if condHolds b.vsr cond.toNat = some true then
        { b with pc := (b.pc + 1) % 8192, rstack := (b.pc + 3) % 8192 :: b.rstack, delay := some (2, .goto target.toNat) }
      else { b with pc := (b.pc + 1) % 8192, delay := some (2, .fall) }) (verbOf s v).mixq) ∧
  (Issues s v w .ret → ∀ r rest, b.rstack = r :: rest →
    ∃ t, exec (.ret v) s = .next t ∧ Issued [] s t v
      { b with pc := (b.pc + 1) % 8192, rstack := rest, delay := some (2, .goto r) } (verbOf s v).mixq) ∧
  (Issues s v w .yield →
    ∃ t, exec (.yield v) s = .next t ∧ Issued [] s t v { b with pc := (b.pc + 1) % 8192, delay := some (2, .ends) } (verbOf s v).mixq) ∧
  (∀ (k : BitVec 2) (n : BitVec 16) (last : BitVec 13), Issues s v w (.rep k n last) →
    ∃ t, exec (.rep v k n last) s = .next t ∧ Issued [] s t v
      (if n = 0 then passBody 5 { b with lc := b.lc.set k.toNat n, pc := last.toNat }
      else { b with
        lc := b.lc.set k.toNat n, pc := (b.pc + 1) % 8192,
        reps := { counter := k.toNat, first := (b.pc + 1) % 8192, last := last.toNat } :: b.reps }) (verbOf s v).mixq) ∧
  (∀ (k : BitVec 2) (d : BitVec 4) (last : BitVec 13) (n : BitVec 16), Issues s v w (.repd k d last) →
    n = BitVec.ofNat 16 (b.dOf d.toNat).toNat →
    ∃ t, exec (.repd v k d last) s = .next t ∧ Issued [] s t v
      (if n = 0 then passBody 5 { b with lc := b.lc.set k.toNat n, pc := last.toNat }
      else { b with
        lc := b.lc.set k.toNat n, pc := (b.pc + 1) % 8192,
        reps := { counter := k.toNat, first := (b.pc + 1) % 8192, last := last.toNat } :: b.reps }) (verbOf s v).mixq)

/-- The delay slots and the end of a body, shown on IMM (R100, R102): the first slot passes; the second goes to the branch's target; at
the last instruction of a body with iterations left the counter falls by 1 and the body begins again, else the repeat ends. -/
def Obligations.VerbDelayAndBody : Prop :=
  ∀ (s : State) (v : Fin 16) (w : WordFrame) (b : VerbBank) (dst : BitVec 6) (value : Word), b = bankOfVerb s v → dst.toNat < 16 →
  Issues s v w (.imm dst value) →
  (∀ d, b.delay = some (2, d) → b.reps = [] →
    ∃ t, exec (.imm v dst value) s = .next t ∧ Issued [] s t v
      { b.setD dst.toNat value with pc := (b.pc + 1) % 8192, delay := some (1, d) } (verbOf s v).mixq) ∧
  (∀ target, b.delay = some (1, .goto target) → b.reps = [] →
    ∃ t, exec (.imm v dst value) s = .next t ∧ Issued [] s t v
      { b.setD dst.toNat value with pc := target % 8192, delay := none } (verbOf s v).mixq) ∧
  (∀ r, b.delay = none → b.reps = [r] → b.pc = r.last →
    ∃ t, exec (.imm v dst value) s = .next t ∧ Issued [] s t v
      (if nth b.lc r.counter 0 = 1 then
        { b.setD dst.toNat value with lc := b.lc.set r.counter 0, reps := [], pc := (b.pc + 1) % 8192 }
      else { b.setD dst.toNat value with lc := b.lc.set r.counter (nth b.lc r.counter 0 - 1), pc := r.first }) (verbOf s v).mixq)

/-- EXP2F, LOG2F and PINC start an operation of the exponential and logarithm unit at the cycle they issue and set EXPR on an operand
out of range (R106, R116); EXPLOG_RESULT puts the oldest result into its registers once six cycles have passed from its issue, and does
nothing before. -/
def Obligations.VerbUnits : Prop :=
  (∀ (s : State) (v : Fin 16) (w : WordFrame) (dst src : BitVec 4) (x y : MoveField), Issues s v w (.exp2f dst src x y) → GoesOn s v →
    NoMoves x y → ∃ t n, exec (.exp2f v dst src x y) s = .next t ∧ (bankOfVerb s v).cycles ≤ n ∧ Issued [] s t v
      (advance (startUnit (bankOfVerb s v) dst.toNat [(exp2Unit ((bankOfVerb s v).dOf src.toNat)).1]
        (exp2Unit ((bankOfVerb s v).dOf src.toNat)).2 n)).1 (verbOf s v).mixq) ∧
  (∀ (s : State) (v : Fin 16) (w : WordFrame) (dst src : BitVec 4) (x y : MoveField), Issues s v w (.log2f dst src x y) → GoesOn s v →
    NoMoves x y → ∃ t n, exec (.log2f v dst src x y) s = .next t ∧ (bankOfVerb s v).cycles ≤ n ∧ Issued [] s t v
      (advance (startUnit (bankOfVerb s v) dst.toNat [(log2Unit ((bankOfVerb s v).dOf src.toNat)).1]
        (log2Unit ((bankOfVerb s v).dOf src.toNat)).2 n)).1 (verbOf s v).mixq) ∧
  (∀ (s : State) (v : Fin 16) (w : WordFrame) (dst src : BitVec 4) (x y : MoveField), Issues s v w (.pinc dst src x y) → GoesOn s v →
    NoMoves x y → ∃ t n, exec (.pinc v dst src x y) s = .next t ∧ (bankOfVerb s v).cycles ≤ n ∧ Issued [] s t v
      (advance (startUnit (bankOfVerb s v) dst.toNat
        [BitVec.ofNat 32 (pincUnit s ((bankOfVerb s v).dOf src.toNat)).1.toNat,
         BitVec.ofNat 32 ((pincUnit s ((bankOfVerb s v).dOf src.toNat)).1.toNat / 2 ^ 32)]
        (pincUnit s ((bankOfVerb s v).dOf src.toNat)).2 n)).1 (verbOf s v).mixq) ∧
  (∀ (s : State) (v : Fin 16) (dst issued : Nat) (x : Word) (rest : List UnitResult), s.verbs.length = 16 →
    (verbOf s v).frozen = false → (bankOfVerb s v).units = { dst, vals := [x], issued } :: rest → issued + 6 ≤ (bankOfVerb s v).cycles → dst < 16 → (bankOfVerb s v).d.length = 16 →
    ∃ t, exec (.explogResult v) s = .next t ∧ (bankOfVerb t v).dOf dst = x ∧
      (∀ k, k ≠ dst → (bankOfVerb t v).dOf k = (bankOfVerb s v).dOf k) ∧
      (bankOfVerb t v).units = rest.filter (· ≠ { dst, vals := [x], issued }) ∧ (∀ u, u ≠ v.val → verbOf t u = verbOf s u) ∧
      Touches [.verbs] [] s t) ∧
  (∀ (s : State) (v : Fin 16) (r : UnitResult) (rest : List UnitResult), (verbOf s v).frozen = false →
    (bankOfVerb s v).units = r :: rest → (bankOfVerb s v).cycles < r.issued + 6 → exec (.explogResult v) s = .next s)

/-- TIP queues a request with the pair and the configuration it names (R107, R116); TABLE_RESULT gives the oldest request that waits its
results, four of a gather and one of any other mode, here the sample itself in mode 0 with 32-bit samples, and notes where a streamed wave
plays (R428); TGET pops the oldest result into its register, and a gather's others stay. -/
def Obligations.VerbTables : Prop :=
  (∀ (s : State) (v : Fin 16) (w : WordFrame) (p c : BitVec 4) (x y : MoveField), Issues s v w (.tip p c x y) → GoesOn s v →
    NoMoves x y → (bankOfVerb s v).table.length < 8 →
    ∃ t n, exec (.tip v p c x y) s = .next t ∧ (bankOfVerb s v).cycles ≤ n ∧ Issued [] s t v
      (advance { bankOfVerb s v with table := (bankOfVerb s v).table ++
        [{ pos := (bankOfVerb s v).pairOf (p.toNat / 2), cfg := (bankOfVerb s v).dOf c.toNat, issued := n, results := none }] }).1
      (verbOf s v).mixq) ∧
  (∀ (s : State) (v : Fin 16) (r : TableReq) (rest : List TableReq) (a : Nat), s.verbs.length = 16 →
    (verbOf s v).frozen = false → (bankOfVerb s v).table = r :: rest → r.results = none → bits r.cfg 27 24 = 4 →
    (a : Int) = pointAddr r.pos r.cfg 0 → streamPoint s (bits r.cfg 23 0) a = none → a % 4 = 0 → CleanWord s a →
    ∃ t, exec (.tableResult v) s = .next t ∧
      (bankOfVerb t v) = { bankOfVerb s v with table := { r with results := some [(word32At s a, false)] } :: rest } ∧
      (∀ u, u ≠ v.val → verbOf t u = verbOf s u) ∧ Touches [.verbs, .image] [] s t) ∧
  (∀ (s : State) (v : Fin 16) (w : WordFrame) (dst : BitVec 4) (x y : MoveField) (r : TableReq) (rest : List TableReq) (d : Word),
    Issues s v w (.tget dst x y) → GoesOn s v → NoMoves x y → (bankOfVerb s v).table = r :: rest → r.results = some [(d, false)] →
    ∃ t, exec (.tget v dst x y) s = .next t ∧ Issued [] s t v
      (advance ({ bankOfVerb s v with table := rest }.setD dst.toNat d)).1 (verbOf s v).mixq) ∧
  (∀ (s : State) (v : Fin 16) (w : WordFrame) (dst : BitVec 4) (x y : MoveField) (r : TableReq) (rest : List TableReq) (d : Word)
      (e : Word × Bool) (more : List (Word × Bool)),
    Issues s v w (.tget dst x y) → GoesOn s v → NoMoves x y → (bankOfVerb s v).table = r :: rest →
    r.results = some ((d, false) :: e :: more) →
    ∃ t, exec (.tget v dst x y) s = .next t ∧ Issued [] s t v
      (advance ({ bankOfVerb s v with table := { r with results := some (e :: more) } :: rest }.setD dst.toNat d)).1 (verbOf s v).mixq) ∧
  (∀ (s : State) (v : Fin 16) (r : TableReq) (rest : List TableReq), s.verbs.length = 16 → (verbOf s v).frozen = false →
    (bankOfVerb s v).table = r :: rest → r.results = none →
    ∃ t rs, exec (.tableResult v) s = .next t ∧ (bankOfVerb t v).table = { r with results := some rs } :: rest ∧
      rs.length = if bits r.cfg 25 24 = 3 then 4 else 1)

/-- MIXADD queues a send of its value to its bus and sample, MIXADD2 one for each half of its pair, with the upper half of bus 63
discarded (R109, R116); EVPOST adds the packet it points to, under source code 15, to the events of its Word-frame, and the ninth
that it posts, delivered or not, is discarded (R110, R204). -/
def Obligations.VerbSends : Prop :=
  (∀ (s : State) (v : Fin 16) (w : WordFrame) (val k : BitVec 4) (x y : MoveField) (n : Nat), Issues s v w (.mixadd val k x y) →
    GoesOn s v → NoMoves x y → (verbOf s v).mixq.length < 32 → n = ((bankOfVerb s v).dOf k.toNat).toNat →
    ∃ t, exec (.mixadd v val k x y) s = .next t ∧ Issued [] s t v (advance (bankOfVerb s v)).1 ((verbOf s v).mixq ++
      [{ frame := w.frame, bus := n % 64, idx := n / 64 % 16, val := (bankOfVerb s v).dOf val.toNat, feeds := decide (w.pos < 2048),
         pos := w.pos, widx := w.widx }])) ∧
  (∀ (s : State) (v : Fin 16) (w : WordFrame) (val k : BitVec 4) (x y : MoveField) (n : Nat), Issues s v w (.mixadd2 val k x y) →
    GoesOn s v → NoMoves x y → (verbOf s v).mixq.length < 31 → n = ((bankOfVerb s v).dOf k.toNat).toNat →
    ∃ t, exec (.mixadd2 v val k x y) s = .next t ∧ Issued [] s t v (advance (bankOfVerb s v)).1 ((verbOf s v).mixq ++
      { frame := w.frame, bus := n % 64, idx := n / 64 % 16, val := (bankOfVerb s v).dOf val.toNat, feeds := decide (w.pos < 2048),
        pos := w.pos, widx := w.widx } ::
      (if n % 64 = 63 then [] else [{ frame := w.frame, bus := n % 64 + 1, idx := n / 64 % 16,
                                      val := (bankOfVerb s v).dOf (val.toNat + 1), feeds := decide (w.pos < 2048),
                                      pos := w.pos, widx := w.widx }]))) ∧
  (∀ (s : State) (v : Fin 16) (w : WordFrame) (src : BitVec 4) (x y : MoveField) (a : Nat), Issues s v w (.evpost src x y) → GoesOn s v →
    NoMoves x y → w.eventsOut + w.events.length < 8 → a = ((bankOfVerb s v).dOf src.toNat).toNat → a % 16 = 0 → 0x10000 ≤ a → a + 16 ≤ 0x28000 →
    (∀ i, i < 16 → undefinedByte (verbOf s v).useB w (a + i) = false) → CleanWord s (localAddr v a) → CleanWord s (localAddr v a + 8) →
    ∃ t, exec (.evpost v src x y) s = .next t ∧ Issued [] s t v (advance { bankOfVerb s v with wf := some { w with
      events := w.events ++ [{ pktOf (memWord s (localAddr v a)).toNat (memWord s (localAddr v a + 8)) with source := 15 }] } }).1
      (verbOf s v).mixq) ∧
  (∀ (s : State) (v : Fin 16) (w : WordFrame) (src : BitVec 4) (x y : MoveField), Issues s v w (.evpost src x y) → GoesOn s v →
    NoMoves x y → 8 ≤ w.eventsOut + w.events.length →
    ∃ t, exec (.evpost v src x y) s = .next t ∧ Issued [] s t v
      (advance { bankOfVerb s v with wf := some { w with dropped := w.dropped + 1 } }).1 (verbOf s v).mixq)


/-- The count of a Word-frame and its faults (R127 to R129). At COST + 1 the overrun is counted once in VOVER, with Gloss code 0x3120; at 2
× COST + 1,024 the watchdog ends the Word-frame with fault 5, and VFAULT shows a fault, whatever else waits; an instruction with a fault of
its own ends it likewise: VFAULT and VSLOT take the first fault, Gloss code 0x3130 names it, its frame is void, and the Verb idles where
nothing else waits for it. -/
def Obligations.VerbFaults : Prop :=
  (∀ (s : State) (v : Fin 16) (w : WordFrame), s.verbs.length = 16 → runsFrame s v = true → (bankOfVerb s v).wf = some w →
    w.overReported = false → w.cost < (bankOfVerb s v).cycles →
    ∃ t, exec (.costExceeded v) s = .next t ∧ bankOfVerb t v = { bankOfVerb s v with wf := some { w with overReported := true } } ∧
      rd t (R.vdbgVover + 4 * v.val) = rd (countUp s (R.vdbgVover + 4 * v.val)) (R.vdbgVover + 4 * v.val) ∧
      Logged 0x3120 (w32 (traceSlot w.pos)) (w32 w.widx) (w32 w.cost) s t ∧ (∀ u, u ≠ v.val → verbOf t u = verbOf s u) ∧
      Touches [.verbs, .gloss] ((R.vdbgVover + 4 * v.val) :: glossRegs) s t) ∧
  (∀ (s : State) (v : Fin 16) (w : WordFrame), s.verbs.length = 16 → runsFrame s v = true → (bankOfVerb s v).wf = some w →
    w.overReported = true → 2 * w.cost + 1024 ≤ (bankOfVerb s v).cycles → w.dropped = 0 → QuietFlows s → StepsDone s →
    (verbOf s v).frozen = false → (verbOf s v).other.wf = none → flag s (R.vdbgVfault + 4 * v.val) 31 = false →
    ∃ t, exec (.watchdogFault v) s = .next t ∧
      rd t (R.vdbgVfault + 4 * v.val) = w32 (2 ^ 31 + 5 * 2 ^ 27 + w.widx * 2 ^ 21 + (bankOfVerb s v).pc) ∧
      rd t (R.vdbgVslot + 4 * v.val) = w32 (traceSlot w.pos) ∧
      Logged 0x3130 (w32 (v.val + 256 * 5)) (w32 (traceSlot w.pos + 65536 * w.widx)) (w32 (bankOfVerb s v).pc) s t ∧
      t.time = (voidFrame s w.frame 3).time ∧ Idles s t v ∧
      Touches [.time, .verbs, .gloss]
        ((R.vdbgVfault + 4 * v.val) :: (R.vdbgVslot + 4 * v.val) :: R.parserWin :: glossRegs) s t) ∧
  (∀ (s : State) (v : Fin 16) (w : WordFrame), s.verbs.length = 16 → runsFrame s v = true → (bankOfVerb s v).wf = some w →
    2 * w.cost + 1024 ≤ (bankOfVerb s v).cycles →
    ∃ t, exec (.watchdogFault v) s = .next t ∧ flag t (R.vdbgVfault + 4 * v.val) 31 = true) ∧
  (∀ (s : State) (v : Fin 16) (w : WordFrame) (i : VInstr) (c : Instr) (code : Nat), Comes s v w i → verbCommand v i = some c →
    tipStalls (bankOfVerb s v) i = false → (∀ r ∈ (bankOfVerb s v).table, r.results.isSome = true) →
    instrFault s v (bankOfVerb s v) w i = some code → w.dropped = 0 → QuietFlows s →
    (verbOf s v).frozen = false → (verbOf s v).other.wf = none → flag s (R.vdbgVfault + 4 * v.val) 31 = false →
    ∃ t, exec c s = .next t ∧
      rd t (R.vdbgVfault + 4 * v.val) = w32 (2 ^ 31 + code * 2 ^ 27 + w.widx * 2 ^ 21 + (bankOfVerb s v).pc) ∧
      rd t (R.vdbgVslot + 4 * v.val) = w32 (traceSlot w.pos) ∧
      Logged 0x3130 (w32 (v.val + 256 * code)) (w32 (traceSlot w.pos + 65536 * w.widx)) (w32 (bankOfVerb s v).pc) s t ∧
      t.time = (voidFrame s w.frame 3).time ∧ Idles s t v ∧
      Touches [.time, .verbs, .gloss]
        ((R.vdbgVfault + 4 * v.val) :: (R.vdbgVslot + 4 * v.val) :: R.parserWin :: glossRegs) s t)

/-- A move of a PAR without arithmetic (R84 to R88, R92, R113, R157, R160): a 32-bit store from a D register to local memory puts its four
bytes; a load from there brings them; a store to shared memory is posted with its Word-frame; a load from there is under way until
SHARED_LOAD_RESULT brings memory's word, where no posted store lies over it, or the value it took before a later store was written. The
pointer is then modified (R94, R95). -/
def Obligations.VerbMoves : Prop :=
  (∀ (s : State) (v : Fin 16) (w : WordFrame) (a b : ArithField) (x y : MoveField) (p : Nat), Issues s v w (.par a b x y) → GoesOn s v →
    a.opc = 0 → b.opc = 0 → mvActive x = true → mvActive y = false → p = moveAddr (bankOfVerb s v) x →
    x.store = true → x.size = 0 → x.reg.toNat < 16 → placeOf p ≠ .shared → p % 4 = 0 → CleanWord s (localAddr v p) →
    ∃ t, exec (.par v a b x y) s = .next t ∧ word32At t (localAddr v p) = (bankOfVerb s v).dOf x.reg.toNat ∧
      (∀ k, k < localAddr v p ∨ localAddr v p + 4 ≤ k → memByte t k = memByte s k) ∧
      Issued [.mem] s t v (advance ((if within p 4 (scratchOf (verbOf s v).useB) then
        { bankOfVerb s v with wf := some { w with scratch := w.scratch ++ [(p, 4)] } } else bankOfVerb s v).postModify (bankOfVerb s v) x)).1
        (verbOf s v).mixq) ∧
  (∀ (s : State) (v : Fin 16) (w : WordFrame) (a b : ArithField) (x y : MoveField) (p : Nat), Issues s v w (.par a b x y) → GoesOn s v →
    a.opc = 0 → b.opc = 0 → mvActive x = true → mvActive y = false → p = moveAddr (bankOfVerb s v) x →
    x.store = false → x.size = 0 → x.reg.toNat < 16 → placeOf p ≠ .shared → p % 4 = 0 → CleanWord s (localAddr v p) →
    (∀ i, i < 4 → undefinedByte (verbOf s v).useB w (p + i) = false) →
    ∃ t, exec (.par v a b x y) s = .next t ∧ Issued [] s t v
      (advance (((bankOfVerb s v).setD x.reg.toNat (word32At s (localAddr v p))).postModify (bankOfVerb s v) x)).1 (verbOf s v).mixq) ∧
  (∀ (s : State) (v : Fin 16) (w : WordFrame) (a b : ArithField) (x y : MoveField) (p : Nat), Issues s v w (.par a b x y) → GoesOn s v →
    a.opc = 0 → b.opc = 0 → mvActive x = true → mvActive y = false → p = moveAddr (bankOfVerb s v) x →
    x.store = true → x.size = 0 → x.reg.toNat < 16 → placeOf p = .shared →
    ∃ t, exec (.par v a b x y) s = .next t ∧ Issued [] s t v
      (advance (({ bankOfVerb s v with wf := some { w with
        stores := w.stores ++ [{ addr := p, size := 4, val := w64 ((bankOfVerb s v).dOf x.reg.toNat).toNat }] } } : VerbBank).postModify
        (bankOfVerb s v) x)).1 (verbOf s v).mixq) ∧
  (∀ (s : State) (v : Fin 16) (w : WordFrame) (a b : ArithField) (x y : MoveField) (p : Nat), Issues s v w (.par a b x y) → GoesOn s v →
    a.opc = 0 → b.opc = 0 → mvActive x = true → mvActive y = false → p = moveAddr (bankOfVerb s v) x →
    x.store = false → x.size = 0 → x.reg.toNat < 16 → placeOf p = .shared →
    ∃ t n, exec (.par v a b x y) s = .next t ∧ (bankOfVerb s v).cycles ≤ n ∧ Issued [] s t v
      (advance (({ bankOfVerb s v with loads := (bankOfVerb s v).loads ++
        [{ reg := x.reg.toNat, size := 4, addr := p, posted := w.storesOut + w.stores.length, issued := n }] } : VerbBank).postModify
        (bankOfVerb s v) x)).1 (verbOf s v).mixq) ∧
  (∀ (s : State) (v : Fin 16) (w : WordFrame) (l : SharedLoad) (rest : List SharedLoad), s.verbs.length = 16 →
    (verbOf s v).frozen = false → (bankOfVerb s v).wf = some w → (bankOfVerb s v).loads = l :: rest → l.size = 4 → l.reg < 16 →
    l.val = none → l.addr % 4 = 0 → CleanWord s l.addr →
    (∀ i, i < 4 → forwarded s w.key (postedBefore w l) (l.addr + i) = none) →
    ∃ t, exec (.sharedLoadResult v) s = .next t ∧
      bankOfVerb t v = ({ bankOfVerb s v with loads := rest }.setD l.reg (word32At s l.addr)).arrived [l.reg] ∧
      (∀ u, u ≠ v.val → verbOf t u = verbOf s u) ∧ Touches [.verbs] [] s t) ∧
  (∀ (s : State) (v : Fin 16) (w : WordFrame) (l : SharedLoad) (rest : List SharedLoad) (d : DWord), s.verbs.length = 16 →
    (verbOf s v).frozen = false → (bankOfVerb s v).wf = some w → (bankOfVerb s v).loads = l :: rest → l.size = 4 → l.reg < 16 →
    l.val = some (d, false) →
    ∃ t, exec (.sharedLoadResult v) s = .next t ∧
      bankOfVerb t v = ({ bankOfVerb s v with loads := rest }.setD l.reg (w32 d.toNat)).arrived [l.reg] ∧
      (∀ u, u ≠ v.val → verbOf t u = verbOf s u) ∧ Touches [.verbs] [] s t)


/-! ### The Parser and Concord (R118 to R160, R230) -/

/-- WORD_FRAME_DISPATCH loads the head of an idle Verb's ready list into its bank with the entry state of R120, and starts it (R118, R140,
R141, R147). PREEMPTION freezes the running Word-frame for an older one that has just become ready, in the Verb's other bank, and counts it
(R119, R142). Only the Verb, its Phrase's header, descriptors, slots and standing references, and PARSER.WIN change with it, and the Gloss
takes a reference that does not suit (R69, R83), where memory holds no error and the Phrase is not global. Whatever it holds, and for a
global Phrase too, the Word-frame is loaded: into the other bank of a Verb that runs. -/
def Obligations.ParserDispatches : Prop :=
  (∀ (s : State) (v : Fin 16) (k : FlowKey) (p : Phrase) (w : Work) (x : Syntax) (sw : SynWord), s.time.rendering = true →
    s.verbs.length = 16 → s.ecc = [] → (verbOf s v).active = true → (verbOf s v).halted = false → (verbOf s v).absent = false →
    (verbOf s v).running = false → leastKey (readyKeys s v) = some k → readyOf s v k = some (p, w) → phraseAt s p.pos = some p →
    windowRoom s k = true → p.isGlobal = false → synOf s p.sid = some x → x.words[w.next]? = some sw →
    ∃ t, exec (.wordFrameDispatch v) s = .next t ∧ (verbOf t v).running = true ∧ (verbOf t v).useB = (verbOf s v).useB ∧
      (verbOf t v).other = (verbOf s v).other ∧ Entered t v p w sw false ∧ (∀ u, u ≠ v.val → verbOf t u = verbOf s u) ∧
      Touches [.verbs, .phrases, .mem, .free, .gloss] (R.parserWin :: glossRegs) s t) ∧
  (∀ (s : State) (v : Fin 16) (k : FlowKey) (p : Phrase) (w : Work) (x : Syntax) (sw : SynWord) (r : WordFrame) (elapsed : BitVec 20),
    s.time.rendering = true → s.verbs.length = 16 → s.ecc = [] → (verbOf s v).active = true → (verbOf s v).halted = false →
    (verbOf s v).running = true → (bankOfVerb s v).wf = some r → (bankOfVerb s v).delay = none → (verbOf s v).frozen = false →
    leastKey (readyKeys s v) = some k → readyOf s v k = some (p, w) → phraseAt s p.pos = some p → p.isGlobal = false → synOf s p.sid = some x →
    x.words[w.next]? = some sw → windowRoom s k = true → slotMode s v = false → flag s R.parserCfg 24 = true → keyLt k r.key = true → r.isPre = false →
    cyclesLeft s w.frame elapsed.toNat <
      (workLeft s v (· ≤ w.frame) - (if r.frame ≤ w.frame then r.cost else 0) + (r.cost - (bankOfVerb s v).cycles) : Nat) →
    ∃ t, exec (.preemption v elapsed) s = .next t ∧ (verbOf t v).running = true ∧ (verbOf t v).frozen = true ∧
      (verbOf t v).useB = (!(verbOf s v).useB) ∧ (verbOf t v).other = bankOfVerb s v ∧ Entered t v p w sw true ∧
      rd t R.parserPreempt = rd (countUp s R.parserPreempt) R.parserPreempt ∧ (∀ u, u ≠ v.val → verbOf t u = verbOf s u) ∧
      Touches [.verbs, .phrases, .mem, .free, .gloss] (R.parserWin :: R.parserPreempt :: glossRegs) s t) ∧
  (∀ (s : State) (v : Fin 16) (k : FlowKey) (p : Phrase) (w : Work) (x : Syntax) (sw : SynWord), s.time.rendering = true →
    s.verbs.length = 16 → (verbOf s v).active = true → (verbOf s v).halted = false → (verbOf s v).absent = false →
    ((verbOf s v).running = false ∨ ((verbOf s v).frozen = false ∧ (verbOf s v).other.wf = none)) →
    leastKey (readyKeys s v) = some k → readyOf s v k = some (p, w) → phraseAt s p.pos = some p → windowRoom s k = true →
    synOf s p.sid = some x → x.words[w.next]? = some sw →
    ∃ t f, exec (.wordFrameDispatch v) s = .next t ∧ (verbOf t v).running = true ∧
      (if (verbOf s v).running then (verbOf t v).other else bankOfVerb t v).wf = some f ∧
      f.frame = w.frame ∧ f.pos = w.pos ∧ f.widx = w.next ∧ f.isPre = false) ∧
  (∀ (s : State) (v : Fin 16) (k : FlowKey) (p : Phrase) (w : Work) (x : Syntax) (sw : SynWord) (r : WordFrame) (elapsed : BitVec 20),
    s.time.rendering = true → s.verbs.length = 16 → (verbOf s v).active = true → (verbOf s v).halted = false →
    (verbOf s v).running = true → (bankOfVerb s v).wf = some r → (bankOfVerb s v).delay = none → (verbOf s v).frozen = false →
    leastKey (readyKeys s v) = some k → readyOf s v k = some (p, w) → phraseAt s p.pos = some p → synOf s p.sid = some x →
    x.words[w.next]? = some sw → windowRoom s k = true → slotMode s v = false → flag s R.parserCfg 24 = true → keyLt k r.key = true → r.isPre = false →
    cyclesLeft s w.frame elapsed.toNat <
      (workLeft s v (· ≤ w.frame) - (if r.frame ≤ w.frame then r.cost else 0) + (r.cost - (bankOfVerb s v).cycles) : Nat) →
    ∃ t f, exec (.preemption v elapsed) s = .next t ∧ (verbOf t v).running = true ∧ (verbOf t v).frozen = true ∧
      (verbOf t v).other = bankOfVerb s v ∧ (bankOfVerb t v).wf = some f ∧ f.frame = w.frame ∧ f.pos = w.pos ∧ f.widx = w.next ∧
      f.isPre = true)

/-- MIGRATION_CHECK flags a Verb that has fallen behind, sets its bit of VSLOW and raises Gloss code 0x3140 (R143, R144);
PHRASE_MIGRATE reserves the new places of a marked Phrase and counts the move (R145); STATE_COPY_DONE moves it to its new home, its X
part there byte for byte but for HOME and YBASE in its header (R44, R45, R145). -/
def Obligations.ParserMoves : Prop :=
  (∀ (s : State) (v : Fin 16) (elapsed : BitVec 20) (q0 c0 : Nat), s.time.rendering = true → s.verbs.length = 16 →
    elapsed.toNat % 4096 = 0 → (verbOf s v).active = true → (verbOf s v).running = true → (verbOf s v).flagged = none →
    (verbOf s v).q0 = some (q0, c0) → (∀ u, u ≠ v.val → (verbOf s u).q0 = none) → workLeft s v (· < s.time.frame) = 0 →
    4096 ≤ elapsed.toNat - c0 →
    fld s R.parserCfg 7 0 * (cyclesLeft s s.time.frame elapsed.toNat).toNat < verbQ s v s.time.frame * 64 →
    ∃ t, exec (.migrationCheck elapsed) s = .next t ∧ flag t R.parserVslow v = true ∧
      verbOf t v = { verbOf s v with
        flagged := some (verbQ s v s.time.frame, (cyclesLeft s s.time.frame elapsed.toNat).toNat,
          min 256 (256 * (q0 - verbQ s v s.time.frame) / (elapsed.toNat - c0)),
          min 256 (256 * (q0 - verbQ s v s.time.frame) / (elapsed.toNat - c0)) * capl s / 256) } ∧
      Logged 0x3140 (w32 v) (w32 (verbQ s v s.time.frame)) (w32 (cyclesLeft s s.time.frame elapsed.toNat).toNat) s t ∧
      (∀ u, u ≠ v.val → verbOf t u = verbOf s u) ∧ Touches [.verbs, .gloss] (R.parserVslow :: glossRegs) s t) ∧
  (∀ (s : State) (pos : BitVec 12) (p : Phrase) (x : Syntax) (m : Move) (old a b : Nat), phraseAt s pos.toNat = some p →
    p.move = some m → p.home = some old → synOf s p.sid = some x → m.copying = false → m.rate < 256 → p.works = [] →
    m.dest ∈ activeVerbs s → fitPart s m.dest x.xsize false = some a → fitPart s m.dest x.ysize true = some b →
    flag s R.parserTrctl 0 = false →
    ∃ t, exec (.phraseMigrate pos) s = .next t ∧
      t.phrases = s.phrases.map (fun q => if q.pos = pos.toNat then
        { q with move := some { m with xbase := a, ybase := b, copying := true } } else q) ∧
      rd t R.parserMig = rd (countUp s R.parserMig) R.parserMig ∧ Touches [.phrases] [R.parserMig] s t) ∧
  (∀ (s : State) (pos : BitVec 12) (p : Phrase) (x : Syntax) (m : Move) (old : Nat), phraseAt s pos.toNat = some p →
    p.move = some m → p.home = some old → synOf s p.sid = some x → m.copying = true → s.ecc = [] → old ≠ m.dest →
    p.xbase + x.xsize ≤ 0x28000 → m.xbase + x.xsize ≤ 0x28000 → x.xsize % 8 = 0 → m.ybase + x.ysize ≤ 0x10000 → 0x30 ≤ x.xsize →
    ∃ t, exec (.stateCopyDone pos) s = .next t ∧
      t.phrases = s.phrases.map (fun q => if q.pos = pos.toNat then
        { q with home := some m.dest, xbase := m.xbase, ybase := m.ybase, move := none, moved := true, farea := none } else q) ∧
      (∀ j, j < x.xsize → j ∉ [0x0F, 0x28, 0x29] → memByte t (localAddr m.dest m.xbase + j) = memByte s (xAddr p old + j)) ∧
      memByte t (localAddr m.dest m.xbase + 0x0F) = BitVec.ofNat 8 m.dest ∧
      memByte t (localAddr m.dest m.xbase + 0x28) = BitVec.ofNat 8 m.ybase ∧
      memByte t (localAddr m.dest m.xbase + 0x29) = BitVec.ofNat 8 (m.ybase / 256) ∧ Touches [.phrases, .mem] [] s t)

/-- SEND_BARRIER passes once every non-global Word-frame of the frame has ended and the mix queues are empty (R135). STORE_DELIVER writes
the oldest posted store that the cursor has reached, and EVENT_DELIVER hands the oldest posted event, at its floor position, to the fabric
(R157, R158, R207, R230); each leaves its Word-frame's list. Where feeds are written at the barrier it passes too (R269). Errors in memory,
tiers, and other Word-frames that have ended and wait are absent from the rest. -/
def Obligations.ConcordDelivers : Prop :=
  (∀ s : State, s.time.rendering = true → barrierFrame s ≤ s.time.step2 → barrierPassed s (barrierFrame s) = false →
    barrierReady s (barrierFrame s) = true → (∀ p ∈ s.phrases, p.isGlobal = true → feedsOf s p = []) →
    exec .sendBarrier s = .next { s with parser := { s.parser with barrier := some (barrierFrame s) } }) ∧
  (∀ s : State, s.time.rendering = true → barrierFrame s ≤ s.time.step2 → barrierPassed s (barrierFrame s) = false →
    barrierReady s (barrierFrame s) = true →
    ∃ t, exec .sendBarrier s = .next t ∧ t.parser.barrier = some (barrierFrame s)) ∧
  (∀ (s : State) (k : FlowKey) (x : PostedStore), nextStore s = some (k, x) → s.ecc = [] → s.ended = [] → s.parser.trace = [] →
    s.parser.staged = [] → 0 < x.size → x.size ≤ 8 →
    ∃ t, exec .storeDeliver s = .next t ∧
      (∀ i, i < x.size → memByte t (x.addr + i) = BitVec.ofNat 8 (x.val.toNat / 256 ^ i)) ∧
      (∀ a, a < x.addr ∨ x.addr + x.size ≤ a → memByte t a = memByte s a) ∧
      bankFrames t = (bankFrames s).map (fun w =>
        if w.key = k then { w with stores := w.stores.drop 1, storesOut := w.storesOut + 1 } else w) ∧
      Touches [.mem, .verbs] [R.parserWin] s t) ∧
  (∀ (s : State) (k : FlowKey) (p : EvPacket), nextEvent s = some (k, p) → s.ended = [] → s.parser.trace = [] →
    s.parser.staged = [] → tiersOf s = 0 → s.sys.wevReady = [] → (outOf s p.part.toNat).dest = 0 → sourceBlocked s 15 = false →
    ∃ t, exec .eventDeliver s = .next t ∧
      t.evt = { s.evt with ready := s.evt.ready.modify 15 (· ++ [{ pkt := floorEvent s k.1 p, instant := s.time.aoTime }]) } ∧
      bankFrames t = (bankFrames s).map (fun w =>
        if w.key = k then { w with events := w.events.drop 1, eventsOut := w.eventsOut + 1 } else w) ∧
      Touches [.evt, .verbs] [R.parserWin] s t)


/-! ### The event fabric, MIDI and the host's window (R166 to R168, R204 to R219, R233, R341) -/

/-- EVENT_ACCEPT (R205, R207, R208, R210): the head of the source whose turn it is joins the queue with its SOURCE written and LATE and
FENCE clear, in arrival order, where no fence holds it and it is not late; a malformed event is discarded, counted in BADMSG and recorded
with Gloss code 0x5110; a detector or timer at its quota loses its event, counted in QDROP with code 0x5101 (R204); a PERIOD raises
D(g, s), and C(g) becomes their minimum (R166, R167); with no source ready nothing changes. What is taken from a link counts towards its
credit (R353). The device is single and exports nothing. -/
def Obligations.FabricAccepts : Prop :=
  (∀ (s : State) (src : Nat) (e : ReadyEv) (rest : List ReadyEv) (p : EvPacket), isWorker s = false → isRoot s = false →
    flag s R.evtXctl 0 = false → nextSource s = some src → nth s.evt.ready src [] = e :: rest → e.pkt.kind ≠ 0x0A →
    atQuota s src = false → p = { e.pkt with source := BitVec.ofNat 6 src, late := false, fence := false } → eventBad p = false →
    fenceWaits s src = [] → nextTake s ≤ frameOf (effPos s p) →
    exec .eventAccept s = .next { s with
      links := (if 8 ≤ src ∧ src < 12 then creditEvent s (src - 8) else s).links,
      evt := { s.evt with
        ready := s.evt.ready.set src rest, lastSrc := src, seq := s.evt.seq + 1,
        queue := s.evt.queue ++ [{ pkt := p, seq := s.evt.seq, waits := [] }] } }) ∧
  (∀ (s : State) (src : Nat) (e : ReadyEv) (rest : List ReadyEv), isWorker s = false → nextSource s = some src →
    nth s.evt.ready src [] = e :: rest → e.pkt.kind ≠ 0x0A → atQuota s src = false → eventBad e.pkt = true →
    ∃ t, exec .eventAccept s = .next t ∧ rd t R.evtBadmsg = rd (countUp s R.evtBadmsg) R.evtBadmsg ∧
      Logged 0x5110 (w32 src) (w32 e.pkt.value.toNat) (w32 0) s t ∧
      t.links = (if 8 ≤ src ∧ src < 12 then creditEvent s (src - 8) else s).links ∧
      t.evt = { s.evt with ready := s.evt.ready.set src rest, lastSrc := src } ∧
      Touches [.evt, .links, .gloss] (R.evtBadmsg :: glossRegs) s t) ∧
  (∀ (s : State) (src : Nat) (e : ReadyEv) (rest : List ReadyEv), isWorker s = false → nextSource s = some src →
    nth s.evt.ready src [] = e :: rest → e.pkt.kind ≠ 0x0A → atQuota s src = true →
    ∃ t, exec .eventAccept s = .next t ∧ rd t R.evtQdrop = rd (countUp s R.evtQdrop) R.evtQdrop ∧
      Logged 0x5101 (w32 src) (w32 e.pkt.kind.toNat) (w32 e.pkt.key.toNat) s t ∧ (src = 13 ∨ src = 14) ∧
      t.evt = { s.evt with ready := s.evt.ready.set src rest, lastSrc := src } ∧ Touches [.evt, .gloss] (R.evtQdrop :: glossRegs) s t) ∧
  (∀ (s : State) (src g : Nat) (e : ReadyEv) (rest : List ReadyEv), isWorker s = false → flag s R.evtXctl 0 = false → s.evt.queue = [] →
    nextSource s = some src → nth s.evt.ready src [] = e :: rest → e.pkt.kind = 0x0A → e.pkt.fence = true → g = e.pkt.key.toNat → g < 4 →
    s.evt.complete.length = 4 → inMask s g src = true → serialBelow (completeOf s g) e.pkt.value = true →
    serialBelow (delivered s g src) e.pkt.value = true →
    ∃ t, exec .eventAccept s = .next t ∧ delivered t g src = e.pkt.value ∧ completeOf t g = serialMin t g ∧
      (∀ h x, h ≠ g ∨ x ≠ src → h < 4 → x < 64 → delivered t h x = delivered s h x) ∧ t.evt.queue = [] ∧
      t.links = (if 8 ≤ src ∧ src < 12 then creditEvent s (src - 8) else s).links ∧ Touches [.evt, .links] [] s t) ∧
  (∀ s : State, nextSource s = none → exec .eventAccept s = .next s)

/-- FENCE_TIMEOUT (R168): where C(g) has not reached the number watched when its boundaries have run, the fence is abandoned: every
source of the mask is taken to have delivered the largest number, which C(g) becomes; the abandonment is counted in PABANDON and recorded
with Gloss code 0x5150 + g, and the frame whose step 2 follows is void. While boundaries remain nothing changes. No event is held here. -/
def Obligations.FenceAbandoned : Prop :=
  (∀ (s : State) (g : Fin 4) (n : Word), s.evt.queue = [] → s.evt.complete.length = 4 → nth s.evt.timers g none = some (n, 0) →
    serialBelow (completeOf s g) n = true →
    ∃ t low high, exec (.fenceTimeout g) s = .next t ∧ completeOf t g = serialMax s g ∧
      (∀ src, src < 64 → inMask s g src = true → delivered t g src = serialMax s g) ∧ nth t.evt.timers g none = none ∧
      rd t R.evtPabandon = rd (countUp s R.evtPabandon) R.evtPabandon ∧ Logged (0x5150 + g) (serialMax s g) low high s t ∧
      t.time = (voidFrame s (nextTake s) 6).time ∧ Touches [.evt, .gloss, .time] (R.evtPabandon :: glossRegs) s t) ∧
  (∀ (s : State) (g : Fin 4) (n : Word) (k : Nat), nth s.evt.timers g none = some (n, k) → k ≠ 0 ∨ serialBelow (completeOf s g) n = false →
    exec (.fenceTimeout g) s = .next s)

/-- MIDI_BYTE_PARSE, UMP_WORD and NATIVE_PACKET_CHARACTER: the fabric takes the character at the head of a port's receive queue, where the
port's FORMAT is the command's and its source is below its quota, and nothing otherwise (R204, R330). The velocity byte of a MIDI 1.0
NOTE ON hands over a NOTE_ON of the part of its channel with the velocity upscaled (R212 to R214); the character that completes the second
word of a MIDI 2.0 NOTE ON, most significant first, does so with its 16-bit velocity (R217, R218); the sixteenth character of a native
packet hands it over as it stands (R341). The stamp is the completion instant of the last character (R206). A port error discards the
message in progress, counted in BADMSG with Gloss code 0x5110 that names the first byte of it (R212, R232). -/
def Obligations.MessagesArrive : Prop :=
  (∀ (s : State) (src : Fin 8) (x : RxEntry) (byte key st : Byte) (ps : ParseSt) (part : Nat) (e : EvPacket),
    headRx s src 0 = some x → x.portError = false → byte = BitVec.ofNat 8 x.data.toNat → ps = parseOf s src →
    e = mkEvent (arrivalStamp s src (completionStamp s x)) 0x01 part key.toNat (upScale byte.toNat 7 16 * 65536) → ps.sysex = none →
    ps.status = some st → st.toNat / 16 = 9 → ps.data = [key] → byte.toNat < 128 → byte ≠ 0 →
    chmapPart s src (st.toNat % 16) = some part →
    ∃ t, exec (.midiByteParse src) s = .next t ∧
      t.evt = { s.evt with
        parse := s.evt.parse.set src { ps with status := none, data := [] },
        ready := s.evt.ready.modify src (· ++ [⟨e, s.time.aoTime⟩]) } ∧
      (spOf t src).rxq = (spOf s src).rxq.drop 1 ∧ Touches [.evt, .sp] [] s t) ∧
  (∀ (s : State) (src : Fin 8) (x : RxEntry) (byte : Byte), headRx s src 0 = some x → x.portError = true →
    byte = BitVec.ofNat 8 x.data.toNat →
    ∃ t, exec (.midiByteParse src) s = .next t ∧
      t.evt = { s.evt with
        parse := s.evt.parse.set src { parseOf s src with status := none, data := [], sysex := none } } ∧
      rd t R.evtBadmsg = rd (countUp s R.evtBadmsg) R.evtBadmsg ∧ Logged 0x5110 (w32 src) (w32 (firstByte (parseOf s src) byte)) (w32 3) s t ∧
      (spOf t src).rxq = (spOf s src).rxq.drop 1 ∧ Touches [.evt, .sp, .gloss] (R.evtBadmsg :: glossRegs) s t) ∧
  (∀ (s : State) (src : Fin 8) (x : RxEntry) (b0 b1 b2 b3 : Byte) (w0 : Word) (ps : ParseSt) (part : Nat) (e : EvPacket),
    headRx s src 1 = some x → x.portError = false → b3 = BitVec.ofNat 8 x.data.toNat → ps = parseOf s src →
    e = mkEvent (jrStamp s src (bits w0 27 24) (arrivalStamp s src (completionStamp s x)) ps) 0x01 part (w0.toNat / 256 % 128)
      ((256 * b0.toNat + b1.toNat) * 65536) → ps.umpPart = [b0, b1, b2] → ps.ump = [w0] → bits w0 31 28 = 4 → bits w0 23 20 = 9 →
    chmapPart s src (16 * bits w0 27 24 + bits w0 19 16) = some part →
    ∃ t, exec (.umpWord src) s = .next t ∧
      t.evt = { s.evt with
        parse := s.evt.parse.set src { ps with ump := [], umpPart := [] },
        ready := s.evt.ready.modify src (· ++ [⟨e, s.time.aoTime⟩]) } ∧
      (spOf t src).rxq = (spOf s src).rxq.drop 1 ∧ Touches [.evt, .sp] [] s t) ∧
  (∀ (s : State) (src : Fin 8) (x : RxEntry) (char : BitVec 9) (ps : ParseSt) (e : EvPacket), headRx s src 2 = some x →
    x.portError = false → ps = parseOf s src →
    char = (if dataBits s src = 9 ∧ ¬ flag s (spReg src 0) 13 then x.data else x.data &&& 0xFF) → char.toNat < 256 →
    e = pktOfBytes ((ps.native ++ [char]).map fun c => BitVec.ofNat 8 c.toNat) → ps.native.length = 15 →
    ∃ t, exec (.nativePacketCharacter src) s = .next t ∧
      t.evt = { s.evt with
        parse := s.evt.parse.set src { ps with native := [] },
        ready := s.evt.ready.modify src (· ++ [⟨e, s.time.aoTime⟩]) } ∧
      (spOf t src).rxq = (spOf s src).rxq.drop 1 ∧ Touches [.evt, .sp] [] s t) ∧
  (∀ (s : State) (src : Fin 8), (headRx s src 0 = none → exec (.midiByteParse src) s = .next s) ∧
    (headRx s src 1 = none → exec (.umpWord src) s = .next s) ∧ (headRx s src 2 = none → exec (.nativePacketCharacter src) s = .next s))

/-- The windows of the host. EVENT_WINDOW_WRITE of a native packet (R233): three words wait, the fourth hands the packet over, and is
refused alone, with LOCKW of EVT.ERR, while source 12 is at its quota, unless it is a PERIOD, which takes no place (R166).
MUSICAL_WINDOW_WRITE (R246): the fourth word completes an entry, which joins the musical queue in its order, and is refused alone while the
queue is full. -/
def Obligations.HostWindows : Prop :=
  (∀ (s : State) (v : Word), HostMayWrite s R.evtHwin → formatOf s 12 = 2 → s.evt.hwin.length < 3 →
    ∃ t, exec (.eventWindowWrite v) s = .next t ∧ t.evt = { s.evt with hwin := s.evt.hwin ++ [v] } ∧ Touches [.evt] [] s t) ∧
  (∀ (s : State) (v a b c : Word) (e : EvPacket), HostMayWrite s R.evtHwin → formatOf s 12 = 2 → s.evt.hwin = [a, b, c] →
    e = pktOf (a.toNat + b.toNat * 2 ^ 32) (w64 (c.toNat + v.toNat * 2 ^ 32)) → (sourceBlocked s 12 = false ∨ eventIsPeriod e = true) →
    ∃ t, exec (.eventWindowWrite v) s = .next t ∧
      t.evt = { s.evt with
        hwin := [], ready := s.evt.ready.modify 12 (· ++ [⟨e, s.time.aoTime⟩]) } ∧
      Touches [.evt] [] s t) ∧
  (∀ (s : State) (v a b c : Word) (e : EvPacket), HostMayWrite s R.evtHwin → formatOf s 12 = 2 → s.evt.hwin = [a, b, c] →
    e = pktOf (a.toNat + b.toNat * 2 ^ 32) (w64 (c.toNat + v.toNat * 2 ^ 32)) → sourceBlocked s 12 = true → eventIsPeriod e = false →
    ∃ t, exec (.eventWindowWrite v) s = .next t ∧ Refused s t R.evtHwin false) ∧
  (∀ (s : State) (v a b c : Word) (e : EvPacket), HostMayWrite s R.tenseMwin → s.tense.mwin = [a, b, c] → s.tense.queue.length < 256 →
    e = pktOf (a.toNat + b.toNat * 2 ^ 32) (w64 (c.toNat + v.toNat * 2 ^ 32)) → 1 ≤ e.kind.toNat → e.kind.toNat ≤ 6 → eventBad e = false →
    ∃ t, exec (.musicalWindowWrite v) s = .next t ∧
      t.tense = { s.tense with mwin := [], queue := musInsert (e.stamp, { e with stamp := 0 }) s.tense.queue } ∧
      fld t R.tenseMstat 8 0 = t.tense.queue.length ∧ (flag t R.tenseMstat 31 = true ↔ 256 ≤ t.tense.queue.length) ∧
      Touches [.tense] [R.tenseMstat] s t) ∧
  (∀ (s : State) (v a b c : Word), HostMayWrite s R.tenseMwin → s.tense.mwin = [a, b, c] → 256 ≤ s.tense.queue.length →
    ∃ t, exec (.musicalWindowWrite v) s = .next t ∧ Refused s t R.tenseMwin false)

/-! ### The timers (R250 to R258) -/

/-- TIMER_GO: the channels of the mask restart from count and lap 0, released; no other changes (R251). TIMER_CAPTURE: on the selected
edge of the channel's input the count and lap of two cycles before are captured and CAP is set, with CAPOVR where it was set already, and
the enabled event of cause 5 waits for the fabric (R256, R258). -/
def Obligations.TimersGoAndCapture : Prop :=
  (∀ (s : State) (mask : BitVec 16), HostMayWrite s R.tenseGo → s.timers.length = 16 →
    ∃ t, exec (.timerGo mask) s = .next t ∧
      (∀ n, n < 16 → timerOf t n = if mask.getLsbD n then { timerOf s n with count := 0, lap := 0, released := true } else timerOf s n) ∧
      Touches [.timers] [] s t) ∧
  (∀ (s : State) (n : Fin 16) (falling : Bool), timerCtl s n 8 5 ≠ 0 → edgeTaken (timerCtl s n 10 9) falling = true →
    flag s (timerReg n 0) 25 = false →
    ∃ t, exec (.timerCapture n falling) s = .next t ∧ rd t (timerReg n 0x18) = (timerOf s n).prev2.1 ∧
      rd t (timerReg n 0x1C) = w32 (timerOf s n).prev2.2.toNat ∧ flag t (timerReg n 0x20) 5 = true ∧
      (flag s (timerReg n 0x20) 5 = true → flag t (timerReg n 0x20) 6 = true) ∧ t.timers = s.timers ∧
      t.evt = (if flag s (timerReg n 0) 24 && domainOn s 3 && s.time.epochSet then
        offerEvent s 14 (mkEvent (nowStamp s) 0x0C 0 n (5 + 32 * b2n s.time.onAo)) s.time.aoTime else s).evt ∧
      Touches [.evt, .pins] [timerReg n 0x18, timerReg n 0x1C, timerReg n 0x20, R.tenseTpctl] s t)

/-- A tick of a channel on TCLK. COMPARE_MATCH: the count goes up by one and reaches a compare value; its status bit is set, its enabled
event waits for the fabric with its cause, its ball takes the action (R255, R257, R258). PERIOD_END: from its period the count returns to 0,
and from above it too, with TRUNC (R253). TIMER_WRAP: from 0xFFFF_FFFF the count returns to 0 and the lap goes up (R254). On the AO
oscillator a tick takes the k counts of tickSteps at once, and the same follows where a compare value, the period's end or the wrap lies
among them (R260). The channel names no wake source, and no control-voltage output waits for it. -/
def Obligations.TimersTick : Prop :=
  (∀ (s : State) (n : Fin 16) (c : Word), s.timers.length = 16 → timerTicks s n = true → s.time.onAo = false → c = (timerOf s n).count →
    flag s (timerReg n 0) 25 = false → (∀ k, k < 8 → flag s (R.cvoCh + 4 * k) 4 = false) →
    (rd s (timerReg n 0x0C) = 0 ∨ c.toNat < (rd s (timerReg n 0x0C)).toNat) → c ≠ 0xFFFFFFFF →
    rd s (timerReg n 0x10) = c + 1 → rd s (timerReg n 0x14) ≠ c + 1 →
    ∃ t, exec (.compareMatch n) s = .next t ∧ Ticked s t n (c + 1) (timerOf s n).lap 1 ∧
      t.evt = (if flag s (timerReg n 0) 20 && domainOn s 3 && s.time.epochSet then
        offerEvent s 14 (mkEvent (nowStamp s) 0x0C 0 n (1)) s.time.aoTime else s).evt ∧
      flag t R.tenseTpctl (8 + timerCtl s n 13 11) = ballAfter s (timerCtl s n 13 11) (timerCtl s n 15 14) ∧
      Touches [.timers, .evt] [timerReg n 0x20, R.tenseTpctl] s t) ∧
  (∀ (s : State) (n : Fin 16) (c : Word) (lap : BitVec 16), s.timers.length = 16 → timerTicks s n = true → s.time.onAo = false →
    c = (timerOf s n).count → lap = (timerOf s n).lap → flag s (timerReg n 0) 25 = false →
    (∀ k, k < 8 → flag s (R.cvoCh + 4 * k) 4 = false) →
    rd s (timerReg n 0x0C) ≠ 0 → (rd s (timerReg n 0x0C)).toNat ≤ c.toNat → c ≠ 0xFFFFFFFF →
    rd s (timerReg n 0x10) ≠ 0 → rd s (timerReg n 0x14) ≠ 0 →
    ∃ t, exec (.periodEnd n) s = .next t ∧
      Ticked s t n 0 (lap + 1) (4 + 8 * b2n (decide ((rd s (timerReg n 0x0C)).toNat < c.toNat))) ∧
      t.evt = (if flag s (timerReg n 0) 22 && domainOn s 3 && s.time.epochSet then
        offerEvent s 14 (mkEvent (nowStamp s) 0x0C 0 n (3 + 16 * b2n (decide ((rd s (timerReg n 0x0C)).toNat < c.toNat)))) s.time.aoTime else s).evt ∧
      flag t R.tenseTpctl (8 + timerCtl s n 13 11) = ballAfter s (timerCtl s n 13 11) (timerCtl s n 19 18) ∧
      Touches [.timers, .evt] [timerReg n 0x20, R.tenseTpctl] s t) ∧
  (∀ (s : State) (n : Fin 16), s.timers.length = 16 → timerTicks s n = true → s.time.onAo = false → (timerOf s n).count = 0xFFFFFFFF →
    flag s (timerReg n 0) 25 = false → (∀ k, k < 8 → flag s (R.cvoCh + 4 * k) 4 = false) →
    rd s (timerReg n 0x0C) = 0 → rd s (timerReg n 0x10) ≠ 0 → rd s (timerReg n 0x14) ≠ 0 →
    ∃ t, exec (.timerWrap n) s = .next t ∧ Ticked s t n 0 ((timerOf s n).lap + 1) 16 ∧
      t.evt = (if flag s (timerReg n 0) 23 && domainOn s 3 && s.time.epochSet then
        offerEvent s 14 (mkEvent (nowStamp s) 0x0C 0 n (4)) s.time.aoTime else s).evt ∧
      Touches [.timers, .evt] [timerReg n 0x20] s t) ∧
  (∀ (s : State) (n : Fin 16) (c k i : Nat), s.timers.length = 16 → timerTicks s n = true → s.time.onAo = true →
    c = (timerOf s n).count.toNat → k = tickSteps s → 1 ≤ i → i ≤ k → flag s (timerReg n 0) 25 = false →
    (∀ k, k < 8 → flag s (R.cvoCh + 4 * k) 4 = false) →
    (rd s (timerReg n 0x0C) = 0 ∨ c + k ≤ (rd s (timerReg n 0x0C)).toNat) → c + k < 2 ^ 32 →
    (rd s (timerReg n 0x10)).toNat = c + i → ((rd s (timerReg n 0x14)).toNat ≤ c ∨ c + k < (rd s (timerReg n 0x14)).toNat) →
    ∃ t, exec (.compareMatch n) s = .next t ∧ Ticked s t n (w32 (c + k)) (timerOf s n).lap 1 ∧
      t.evt = (if flag s (timerReg n 0) 20 && domainOn s 3 && s.time.epochSet then
        offerEvent s 14 (mkEvent (nowStamp s) 0x0C 0 n (1 + 32)) s.time.aoTime else s).evt ∧
      flag t R.tenseTpctl (8 + timerCtl s n 13 11) = ballAfter s (timerCtl s n 13 11) (timerCtl s n 15 14) ∧
      Touches [.timers, .evt] [timerReg n 0x20, R.tenseTpctl] s t) ∧
  (∀ (s : State) (n : Fin 16) (c k per : Nat), s.timers.length = 16 → timerTicks s n = true → s.time.onAo = true →
    c = (timerOf s n).count.toNat → k = tickSteps s → per = (rd s (timerReg n 0x0C)).toNat → flag s (timerReg n 0) 25 = false →
    (∀ k, k < 8 → flag s (R.cvoCh + 4 * k) 4 = false) → per ≠ 0 → c ≤ per → per < c + k → k ≤ per + 1 → per + 1 < 2 ^ 32 →
    (∀ i, 1 ≤ i → i ≤ k → (rd s (timerReg n 0x10)).toNat ≠ (c + i) % (per + 1) ∧ (rd s (timerReg n 0x14)).toNat ≠ (c + i) % (per + 1)) →
    ∃ t, exec (.periodEnd n) s = .next t ∧ Ticked s t n (w32 (c + k - (per + 1))) ((timerOf s n).lap + 1) 4 ∧
      t.evt = (if flag s (timerReg n 0) 22 && domainOn s 3 && s.time.epochSet then
        offerEvent s 14 (mkEvent (nowStamp s) 0x0C 0 n (3 + 32)) s.time.aoTime else s).evt ∧
      flag t R.tenseTpctl (8 + timerCtl s n 13 11) = ballAfter s (timerCtl s n 13 11) (timerCtl s n 19 18) ∧
      Touches [.timers, .evt] [timerReg n 0x20, R.tenseTpctl] s t) ∧
  (∀ (s : State) (n : Fin 16) (c k : Nat), s.timers.length = 16 → timerTicks s n = true → s.time.onAo = true →
    c = (timerOf s n).count.toNat → k = tickSteps s → flag s (timerReg n 0) 25 = false →
    (∀ k, k < 8 → flag s (R.cvoCh + 4 * k) 4 = false) → rd s (timerReg n 0x0C) = 0 → 2 ^ 32 ≤ c + k → k < 2 ^ 32 →
    (∀ i, 1 ≤ i → i ≤ k → (rd s (timerReg n 0x10)).toNat ≠ (c + i) % 2 ^ 32 ∧ (rd s (timerReg n 0x14)).toNat ≠ (c + i) % 2 ^ 32) →
    ∃ t, exec (.timerWrap n) s = .next t ∧ Ticked s t n (w32 (c + k - 2 ^ 32)) ((timerOf s n).lap + 1) 16 ∧
      t.evt = (if flag s (timerReg n 0) 23 && domainOn s 3 && s.time.epochSet then
        offerEvent s 14 (mkEvent (nowStamp s) 0x0C 0 n (4 + 32)) s.time.aoTime else s).evt ∧
      Touches [.timers, .evt] [timerReg n 0x20] s t)


/-! ### Outputs (R272 to R296) -/

/-- DAC_CHANNEL_WRITE (R272, R276): the fields of DAC.CHk take the value written, and a parked channel whose MUTESW is written 0 opens its
switch, gain at zero, where PD5 is on and released. A change of FSR while the switch is open is refused, and so is the undefined FSR
code (R9). -/
def Obligations.AudioChannelWrite : Prop :=
  (∀ (s : State) (k : Fin 16) (v : Word), HostMayWrite s (R.dacCh + 4 * k) → s.analog.dac.length = 16 → bits v 2 1 ≤ 2 →
    (dacOf s k).open? = false ∨ bits v 2 1 = fld s (R.dacCh + 4 * k) 2 1 →
    ∃ t, exec (.dacChannelWrite k v) s = .next t ∧
      rd t (R.dacCh + 4 * k) = (rd s (R.dacCh + 4 * k) &&& ~~~0xF) ||| (v &&& 0xF) ∧
      dacOf t k = (if (dacOf s k).open? = false ∧ bitOf v 3 = false ∧ pd5Released s = true then
        { dacOf s k with open? := true, kappa := 4096, stood := 0 } else dacOf s k) ∧
      (∀ j, j ≠ k.val → dacOf t j = dacOf s j) ∧ Touches [.analog] [R.dacCh + 4 * k] s t) ∧
  (∀ (s : State) (k : Fin 16) (v : Word), HostMayWrite s (R.dacCh + 4 * k) → bits v 2 1 ≤ 2 →
    (dacOf s k).open? = true → bits v 2 1 ≠ fld s (R.dacCh + 4 * k) 2 1 →
    ∃ t, exec (.dacChannelWrite k v) s = .next t ∧ Refused s t (R.dacCh + 4 * k) false) ∧
  (∀ (s : State) (k : Fin 16) (v : Word), HostMayWrite s (R.dacCh + 4 * k) → bits v 2 1 = 3 →
    ∃ t, exec (.dacChannelWrite k v) s = .next t ∧ Refused s t (R.dacCh + 4 * k) true)

/-- Muting and parking an audio output (R274 to R276). MUTE_RAMP_END: the last step of a ramp brings κ to its target, and STATE shows
MUTED or PLAY. PARK_SWITCH_CLOSE: the sixteenth sample at κ = 4,096 with MUTESW set closes the switch, and STATE shows PARKED; the
monitor's window on that channel is spoilt (R280). -/
def Obligations.AudioMuteAndPark : Prop :=
  (∀ (s : State) (k : Fin 16), s.analog.dac.length = 16 → (dacOf s k).open? = true → (dacOf s k).kappa ≠ kappaTarget s k →
    kappaNext s k = kappaTarget s k →
    ∃ t, exec (.muteRampEnd k) s = .next t ∧ dacOf t k = { dacOf s k with kappa := kappaTarget s k, stood := 0 } ∧
      dacState t k = (if muteCause s k then 2 else 0) ∧ (∀ j, j ≠ k.val → dacOf t j = dacOf s j) ∧ Touches [.analog] [] s t) ∧
  (∀ (s : State) (k : Fin 16), s.analog.dac.length = 16 → (dacOf s k).open? = true → (dacOf s k).kappa = 4096 →
    15 ≤ (dacOf s k).stood → flag s (R.dacCh + 4 * k) 3 = true → muteCause s k = true →
    ∃ t, exec (.parkSwitchClose k) s = .next t ∧ dacOf t k = { dacOf s k with open? := false, kappa := 4096, stood := 0 } ∧
      dacState t k = 4 ∧ (s.analog.monitor = k.val → t.analog.spoilt = true) ∧
      (∀ j, j ≠ k.val → dacOf t j = dacOf s j) ∧ Touches [.analog] [] s t)

/-- MONITOR_WINDOW (R280, R281, R295, R296), once the monitor has taken its 1,024 samples. A window on an audio channel moves T_run by half
the residual e, rounded, at most 8 units, and sets OFSDRIFT with Gloss code 0x7110 where it has just passed OFSLIM; one on a
control-voltage channel in RUN corrects its runtime terms where CORREN is set, for the mean x of M - N0, and counts its drift, here below
the 32 visits and the limits of CAL_DRIFT. The monitor goes on to the next enabled channel with a new window. A spoilt window gives no
result, and before its 1,024 samples nothing ends. -/
def Obligations.MonitorCorrects : Prop :=
  (∀ (s : State) (m : Measurement) (k : Nat) (T : Int), flag s R.dacCfg 8 = true → domainOn s 5 = true → 1024 ≤ s.analog.monCount →
    s.analog.monitor = k → k < 16 → s.analog.dac.length = 16 → s.analog.spoilt = false → monitored s k = true → (dacOf s k).open? = true →
    T = max (-32767) (min 32767 ((dacOf s k).trun - max (-8) (min 8 (rne (m.sum.toInt - s.analog.monSum) (2 * 1024 * 256))))) →
    ∃ t, exec (.monitorWindow m) s = .next t ∧ dacOf t k = { dacOf s k with trun := T } ∧
      (∀ j, j ≠ k → dacOf t j = dacOf s j) ∧ t.analog.cv = s.analog.cv ∧ t.analog.monitor = monitorNext s ∧ t.analog.spoilt = false ∧
      t.analog.monCount = 0 ∧ t.analog.monSum = 0 ∧
      (fld s R.dacCfg 31 16 < T.natAbs → flag t R.dacStat k = true) ∧
      (fld s R.dacCfg 31 16 < T.natAbs → flag s R.dacStat k = false →
        Logged 0x7110 (w32 k) (BitVec.ofInt 32 T) (BitVec.ofInt 32 (tfacOf s k)) s t) ∧
      (T.natAbs ≤ fld s R.dacCfg 31 16 → t.gloss = s.gloss ∧ rd t R.dacStat = rd s R.dacStat) ∧
      Touches [.analog, .gloss] (R.dacStat :: glossRegs) s t) ∧
  (∀ (s : State) (m : Measurement) (k : Nat) (c : CvSt) (e x : Int), flag s R.dacCfg 8 = true → domainOn s 5 = true →
    1024 ≤ s.analog.monCount → s.analog.monitor = 16 + k → k < 8 →
    s.analog.cv.length = 8 → s.analog.spoilt = false → monitored s (16 + k) = true → cvState s k = 0 →
    e = rne (m.sum.toInt - s.analog.monSum) 1024 → x = rne (s.analog.monSum - 1024 * (spanZero (cvOf s k).span : Int)) 1024 →
    c = (if flag s R.cvoCfg 8 then loadCorrection (cvOf s k) e x else cvOf s k) →
    (cvOf s k).drift < 31 → c.orun.natAbs < 32767 → c.grun.natAbs < 32767 →
    ∃ t, exec (.monitorWindow m) s = .next t ∧
      cvOf t k = { c with drift := if fld s R.cvoCfg 31 16 < e.natAbs then c.drift + 1 else 0 } ∧
      (∀ j, j ≠ k → cvOf t j = cvOf s j) ∧ t.analog.dac = s.analog.dac ∧ t.analog.monitor = monitorNext s ∧ t.analog.spoilt = false ∧
      t.analog.monCount = 0 ∧ t.analog.monSum = 0 ∧ Touches [.analog] [] s t) ∧
  (∀ (s : State) (m : Measurement), flag s R.dacCfg 8 = true → domainOn s 5 = true → 1024 ≤ s.analog.monCount → s.analog.spoilt = true →
    exec (.monitorWindow m) s = .next { s with analog := { s.analog with
      monitor := monitorNext s, spoilt := false, monCount := 0, monSum := 0 } }) ∧
  (∀ (s : State) (m : Measurement), s.analog.monCount < 1024 → exec (.monitorWindow m) s = .next s)

/-- CV_CHANNEL_WRITE (R288, R290): the fields of CVO.CHk take the value written, and a parked channel that is not enabled has left the run
sequence; a change of SPAN that R290 does not allow is refused and sets SPANREF; UPD without a cause is an undefined encoding (R9). -/
def Obligations.ControlVoltageWrite : Prop :=
  (∀ (s : State) (k : Fin 8) (v : Word), HostMayWrite s (R.cvoCh + 4 * k) → (bitOf v 4 = true → bits v 7 5 ≠ 0) →
    (bits v 2 1 = fld s (R.cvoCh + 4 * k) 2 1 ∨ (cvEnabled s k = false ∧ cvState s k = 2)) → s.analog.cv.length = 8 →
    ∃ t, exec (.cvChannelWrite k v) s = .next t ∧
      rd t (R.cvoCh + 4 * k) = (rd s (R.cvoCh + 4 * k) &&& ~~~0xFFF) ||| (v &&& 0xFFF) ∧
      cvOf t k = (if (cvOf s k).closed = true ∧ bitOf v 0 = false then { cvOf s k with settle := 0 } else cvOf s k) ∧
      (∀ j, j ≠ k.val → cvOf t j = cvOf s j) ∧ t.analog.dac = s.analog.dac ∧ Touches [.analog] [R.cvoCh + 4 * k] s t) ∧
  (∀ (s : State) (k : Fin 8) (v : Word), HostMayWrite s (R.cvoCh + 4 * k) → (bitOf v 4 = true → bits v 7 5 ≠ 0) →
    bits v 2 1 ≠ fld s (R.cvoCh + 4 * k) 2 1 → (cvEnabled s k = true ∨ cvState s k ≠ 2) →
    ∃ t, exec (.cvChannelWrite k v) s = .next t ∧ rd t R.cvoErr = errAfter s (R.cvoCh + 4 * k) false ∧
      rd t R.cvoStat = setBits (rd s R.cvoStat) (8 + k) (8 + k) 1 ∧ Touches [.host] [R.cvoErr, R.cvoStat] s t) ∧
  (∀ (s : State) (k : Fin 8) (v : Word), HostMayWrite s (R.cvoCh + 4 * k) → bitOf v 4 = true → bits v 7 5 = 0 →
    (bits v 2 1 = fld s (R.cvoCh + 4 * k) 2 1 ∨ (cvEnabled s k = false ∧ cvState s k = 2)) →
    ∃ t, exec (.cvChannelWrite k v) s = .next t ∧ Refused s t (R.cvoCh + 4 * k) true)

/-- A control-voltage output parks and runs (R288, R289). CV_RAMP_END: the factor a reaches 0 while a park cause holds, and 2^RAMP while
none does. CV_PARK_SWITCH_CLOSE: the sixteenth sample at N0 closes the switch. CV_SWITCH_OPEN: the sixty-fourth sample of settling opens
it. -/
def Obligations.ControlVoltageRamps : Prop :=
  (∀ (s : State) (k : Fin 8), s.analog.cv.length = 8 → parkCause s k = true → (cvOf s k).closed = false →
    min (cvOf s k).a (rampTop s) = 1 →
    ∃ t, exec (.cvRampEnd k) s = .next t ∧ cvOf t k = { cvOf s k with a := 0, hold := 0 } ∧
      (s.analog.monitor = 16 + k.val → t.analog.spoilt = true) ∧ (∀ j, j ≠ k.val → cvOf t j = cvOf s j) ∧ Touches [.analog] [] s t) ∧
  (∀ (s : State) (k : Fin 8), s.analog.cv.length = 8 → parkCause s k = false → (cvOf s k).closed = false →
    rampTop s ≤ (cvOf s k).a + 1 → (cvOf s k).a ≠ rampTop s →
    ∃ t, exec (.cvRampEnd k) s = .next t ∧ cvOf t k = { cvOf s k with a := rampTop s, hold := 0 } ∧
      (∀ j, j ≠ k.val → cvOf t j = cvOf s j) ∧ Touches [.analog] [] s t) ∧
  (∀ (s : State) (k : Fin 8), s.analog.cv.length = 8 → parkCause s k = true → (cvOf s k).closed = false → (cvOf s k).a = 0 →
    15 ≤ (cvOf s k).hold →
    ∃ t, exec (.cvParkSwitchClose k) s = .next t ∧ cvOf t k = { cvOf s k with closed := true, a := 0, hold := 0, settle := 0 } ∧
      (∀ j, j ≠ k.val → cvOf t j = cvOf s j) ∧ Touches [.analog] [] s t) ∧
  (∀ (s : State) (k : Fin 8), s.analog.cv.length = 8 → parkCause s k = false → (cvOf s k).closed = true → 63 ≤ (cvOf s k).settle →
    ∃ t, exec (.cvSwitchOpen k) s = .next t ∧ cvOf t k = { cvOf s k with closed := false, a := 0, hold := 0, settle := 0 } ∧
      (∀ j, j ≠ k.val → cvOf t j = cvOf s j) ∧ Touches [.analog] [] s t)

/-- The rails (R289, R291). CV_RAIL_LOSS: RAILOK clears and RAILLOSS sets, every channel's switch closes at once with its DAC at N0, an
enabled one waits, and Gloss code 0x7121 is written with the rails that lie outside their thresholds. CV_RAIL_GOOD: RAILOK sets, with
Gloss code 0x7122. -/
def Obligations.ControlVoltageRails : Prop :=
  (∀ (s : State) (p n : Bool), s.analog.cv.length = 8 → (p || n) = true →
    ∃ t, exec (.cvRailLoss p n) s = .next t ∧ flag t R.cvoStat 31 = false ∧ flag t R.cvoStat 30 = true ∧
      (∀ k, k < 8 → (cvOf t k).closed = true ∧ (cvOf t k).a = 0 ∧ (cvOf t k).queue = [] ∧
        (cvOf t k).held = (spanZero (cvOf s k).span, spanZero (cvOf s k).span)) ∧
      (∀ k, k < 8 → cvEnabled s k = true → cvState t k = 4) ∧ t.analog.railP = p ∧ t.analog.railN = n ∧ t.analog.dac = s.analog.dac ∧
      Logged 0x7121 (w32 (b2n p + 2 * b2n n)) (w32 (cvMask s)) 0 s t ∧
      Touches [.analog, .gloss] (R.cvoStat :: glossRegs) s t) ∧
  (∀ s : State, railOk s = false →
    ∃ t, exec .cvRailGood s = .next t ∧ railOk t = true ∧ t.analog = { s.analog with railP := false, railN := false } ∧
      Logged 0x7122 (w32 (cvMask s)) 0 0 s t ∧ Touches [.analog, .gloss] (R.cvoStat :: glossRegs) s t)


/-! ### Inputs (R304 to R319) -/

/-- Writes of the input registers. ADC_RUN sets RUN (R309, R319). ADC_CHANNEL_WRITE: the fields take the value. RUN or EN written 0 lets the
chains that run stop at the next sample boundary, even if it is 1 again by then (R309). A channel write that changes SET,
SCSRATE or RANGE while RUN reads 1 is refused (R9, R319). CUSTOM_COEFFICIENT_WRITE stores at CADDR, which advances modulo 512 (R304).
CUSTOM_DELAY_WRITE gives the delays; above 64 they are an undefined encoding (R319). While RUN reads 1 every custom-set write sets CWERR
alone (R305). -/
def Obligations.InputRegisters : Prop :=
  (∀ (s : State) (run : Bool), HostMayWrite s R.adcCtrl → s.analog.adc.length = 16 →
    ∃ t, exec (.adcRun run) s = .next t ∧ flag t R.adcCtrl 0 = run ∧ t.analog = { s.analog with adc := t.analog.adc } ∧
      (∀ n, n < 16 → adcOf t n = { adcOf s n with cut := (adcOf s n).cut || (!run && (adcOf s n).running) }) ∧
      Touches [.analog] [R.adcCtrl] s t) ∧
  (∀ (s : State) (n : Fin 16) (v m : Word), HostMayWrite s (adcChReg n) → s.analog.adc.length = 16 →
    m = (if n.val < 8 then 0x1E else 0x3E) → flag s R.adcCtrl 0 = false ∨ v &&& m = rd s (adcChReg n) &&& m →
    ∃ t, exec (.adcChannelWrite n v) s = .next t ∧ rd t (adcChReg n) = (rd s (adcChReg n) &&& ~~~(m ||| 1)) ||| (v &&& (m ||| 1)) ∧
      t.analog = { s.analog with adc := t.analog.adc } ∧
      (∀ k, k < 16 → adcOf t k = { adcOf s k with cut := (adcOf s k).cut || (decide (k = n.val) && !bitOf v 0 && (adcOf s k).running) }) ∧
      Touches [.analog] [adcChReg n] s t) ∧
  (∀ (s : State) (n : Fin 16) (v m : Word), HostMayWrite s (adcChReg n) → m = (if n.val < 8 then 0x1E else 0x3E) →
    flag s R.adcCtrl 0 = true → v &&& m ≠ rd s (adcChReg n) &&& m →
    ∃ t, exec (.adcChannelWrite n v) s = .next t ∧ Refused s t (adcChReg n) false) ∧
  (∀ (s : State) (v : Word) (a : Nat), HostMayWrite s R.adcCdata → flag s R.adcCtrl 0 = false → a = fld s R.adcCaddr 8 0 →
    ∃ t, exec (.customCoefficientWrite v) s = .next t ∧ customCoef t a = v ∧ (∀ b, b ≠ a → customCoef t b = customCoef s b) ∧
      fld t R.adcCaddr 8 0 = (a + 1) % 512 ∧ t.analog = { s.analog with coefs := t.analog.coefs } ∧ Touches [.analog] [R.adcCaddr] s t) ∧
  (∀ (s : State) (v : Word), HostMayWrite s R.adcCdata → flag s R.adcCtrl 0 = true →
    ∃ t, exec (.customCoefficientWrite v) s = .next t ∧ flag t R.adcStat 31 = true ∧ Touches [] [R.adcStat] s t) ∧
  (∀ (s : State) (v : Word), HostMayWrite s R.adcCdelay → flag s R.adcCtrl 0 = false → bits v 23 16 ≤ 64 → bits v 15 8 ≤ 64 →
    bits v 7 0 ≤ 64 →
    ∃ t, exec (.customDelayWrite v) s = .next t ∧ fld t R.adcCdelay 23 0 = bits v 23 0 ∧ Touches [] [R.adcCdelay] s t) ∧
  (∀ (s : State) (v : Word), HostMayWrite s R.adcCdelay → flag s R.adcCtrl 0 = true →
    ∃ t, exec (.customDelayWrite v) s = .next t ∧ flag t R.adcStat 31 = true ∧ Touches [] [R.adcStat] s t) ∧
  (∀ (s : State) (v : Word), HostMayWrite s R.adcCdelay → flag s R.adcCtrl 0 = false →
    64 < bits v 23 16 ∨ 64 < bits v 15 8 ∨ 64 < bits v 7 0 →
    ∃ t, exec (.customDelayWrite v) s = .next t ∧ Refused s t R.adcCdelay true)

/-- THRESHOLD_CROSSING (R308 to R310, R314 to R317): a running channel delivers its next sample, the trimmed tap value, into the ring, with
SAT where it saturated; it stands for ball time u - A, and counts down the hold-off of both its detectors. The first value a detector
evaluates sets its state without a crossing. A rise through the level, or a fall below the level less the hysteresis, that EDGE selects
once the hold-off's samples are delivered starts a hold-off and begins an event stamped by interpolation: at once where PEAKW is 0, else
when its window closes, beside the windows that are open. A channel whose detectors take no values changes none of their states. That the
command gives the sample in place of the chain's, once for each sample, is the model's choice (log 129). -/
def Obligations.ThresholdsCross : Prop :=
  (∀ (s : State) (x : Fin 32) (tap : BitVec 40) (n u : Nat) (r : Int × Bool), n = x.val / 2 → u = nextSample s →
    r = trimmed s n tap.toInt → s.analog.adc.length = 16 → s.analog.det.length = 32 → (rd s R.adcIbase).toNat % 4 = 0 → s.ecc = [] →
    canDeliver s n = true → (adcOf s n).settle ≠ 1 → adcSet s n ≠ 3 ∨ (adcOf s n).settle = 0 →
    (∀ y, y / 2 = n → Still s y) →
    ∃ t, exec (.thresholdCrossing x tap) s = .next t ∧ InputDelivered s t n u r.1 r.2 ∧
      (∀ y, y / 2 = n → detOf t y = { detOf s y with hold := (detOf s y).hold - 1 }) ∧ Touches [.analog, .mem] [R.adcFlag] s t) ∧
  (∀ (s : State) (x : Fin 32) (tap : BitVec 40) (n u : Nat) (r : Int × Bool), n = x.val / 2 → u = nextSample s →
    r = trimmed s n tap.toInt → s.analog.adc.length = 16 → s.analog.det.length = 32 → (rd s R.adcIbase).toNat % 4 = 0 → s.ecc = [] →
    canDeliver s n = true → evaluates s x = true →
    (∀ y, y / 2 = n → (detOf s y).windows = [] ∧ (evaluates s y = true → (detOf s y).last = none)) →
    ∃ t, exec (.thresholdCrossing x tap) s = .next t ∧ InputDelivered s t n u r.1 r.2 ∧
      (∀ y, y / 2 = n → evaluates s y = true →
        flag t (R.adcTctl + 16 * y) 31 = decide ((rd s (R.adcTlevel + 16 * y)).toInt ≤ detValue s y r.1) ∧
        detOf t y = ⟨some (detValue s y r.1), [], (detOf s y).hold - 1⟩) ∧
      (∀ y, y / 2 = n → evaluates s y = false → detOf t y = { detOf s y with hold := (detOf s y).hold - 1 }) ∧
      Touches [.analog, .mem] [R.adcFlag, R.adcTctl + 16 * (2 * n), R.adcTctl + 16 * (2 * n + 1)] s t) ∧
  (∀ (s : State) (x : Fin 32) (tap : BitVec 40) (n u a : Nat) (r : Int × Bool) (w w0 level : Int) (stamp : DWord), n = x.val / 2 →
    u = nextSample s → r = trimmed s n tap.toInt → w = detValue s x r.1 → a = R.adcTctl + 16 * x →
    level = (rd s (R.adcTlevel + 16 * x)).toInt →
    stamp = crossingStamp (w64 u - w64 (groupDelay s n) - w64 (valueStep s n)) (valueStep s n) w0 w level →
    s.analog.adc.length = 16 → s.analog.det.length = 32 → (rd s R.adcIbase).toNat % 4 = 0 → s.ecc = [] → canDeliver s n = true →
    evaluates s x = true → (∀ y, y / 2 = n → y ≠ x.val → Still s y) → (∀ v ∈ (detOf s x).windows, 1 < v.2.2) →
    (detOf s x).last = some w0 → flag s a 31 = false → level ≤ w → edgeSelected s x true = true → (detOf s x).hold ≤ 1 →
    fld s a 7 4 ≠ 0 →
    ∃ t, exec (.thresholdCrossing x tap) s = .next t ∧ InputDelivered s t n u r.1 r.2 ∧ flag t a 31 = true ∧
      detOf t x = ⟨some w, ((detOf s x).windows.map fun v => (v.1, peakOf v.2.1 w, v.2.2 - 1)) ++ [(stamp, w, fld s a 7 4)],
        fld s a 23 8⟩ ∧
      (∀ y, y / 2 = n → y ≠ x.val → detOf t y = { detOf s y with hold := (detOf s y).hold - 1 }) ∧
      Touches [.analog, .mem] [R.adcFlag, a] s t) ∧
  (∀ (s : State) (x : Fin 32) (tap : BitVec 40) (n u a : Nat) (r : Int × Bool) (w w0 low : Int) (stamp : DWord), n = x.val / 2 →
    u = nextSample s → r = trimmed s n tap.toInt → w = detValue s x r.1 → a = R.adcTctl + 16 * x →
    low = (rd s (R.adcTlevel + 16 * x)).toInt - (rd s (R.adcThyst + 16 * x)).toNat →
    stamp = crossingStamp (w64 u - w64 (groupDelay s n) - w64 (valueStep s n)) (valueStep s n) w0 w low →
    s.analog.adc.length = 16 → s.analog.det.length = 32 → (rd s R.adcIbase).toNat % 4 = 0 → s.ecc = [] → canDeliver s n = true →
    evaluates s x = true → (∀ y, y / 2 = n → y ≠ x.val → Still s y) → (detOf s x).windows = [] →
    (detOf s x).last = some w0 → flag s a 31 = true → w < low → edgeSelected s x false = true → (detOf s x).hold ≤ 1 →
    fld s a 7 4 = 0 →
    ∃ t, exec (.thresholdCrossing x tap) s = .next t ∧ InputDelivered s t n u r.1 r.2 ∧ flag t a 31 = false ∧
      detOf t x = ⟨some w, [], fld s a 23 8⟩ ∧
      t.evt = (offerEvent s 13 (thresholdPacket x stamp w) s.time.aoTime).evt ∧
      (∀ y, y / 2 = n → y ≠ x.val → detOf t y = { detOf s y with hold := (detOf s y).hold - 1 }) ∧
      Touches [.analog, .mem, .evt] [R.adcFlag, a] s t)

/-- SETTLE_DONE: the last of the S samples is delivered and clears SETTLE, and the channel's detectors begin afresh (R311, R314).
MODULATOR_OVERLOAD: the loop is reset, which holds stage 1's input for 16 modulator clocks at the sign of the last code times 4, and OVL is
set, with Gloss code 0x7130 for the first in a frame (R313). THRESHOLD_EVENT: the last value of a peak window is delivered, and the event
goes to the fabric with the value of largest magnitude, the earliest among equals, whether or not the detector is still enabled (R316).
HOLDOFF_END: the last sample of the hold-off ends it (R317). That a command gives the sample in place of the chain's is the model's choice
(log 129). -/
def Obligations.InputEvents : Prop :=
  (∀ (s : State) (n : Fin 16) (tap : BitVec 40) (u : Nat) (r : Int × Bool), u = nextSample s → r = trimmed s n tap.toInt →
    s.analog.adc.length = 16 → s.analog.det.length = 32 → (rd s R.adcIbase).toNat % 4 = 0 → s.ecc = [] →
    canDeliver s n = true → (adcOf s n).settle = 1 →
    ∃ t, exec (.settleDone n tap) s = .next t ∧ InputDelivered s t n u r.1 r.2 ∧ flag t R.adcStat n = false ∧
      (∀ y, y / 2 = n.val → y < 32 → detOf t y = ⟨none, [], (detOf s y).hold - 1⟩) ∧ Touches [.analog, .mem] [R.adcStat, R.adcFlag] s t) ∧
  (∀ (s : State) (n : Fin 16) (tap : BitVec 40), canDeliver s n = false ∨ (adcOf s n).settle ≠ 1 → exec (.settleDone n tap) s = .next s) ∧
  (∀ (s : State) (n : Fin 16) (resets : Word) (now : DWord) (c : AdcSt), s.analog.adc.length = 16 → domainOn s 6 = true →
    now = s.time.aoTime + (s.time.aoTime - s.time.epoch) % 2 →
    c = { adcOf s n with holds := (adcOf s n).holds ++ [(now, 4 * (stageOneCode (adcOf s n) n (now - 2).toNat).sign)] } →
    ∃ t, exec (.modulatorOverload n resets) s = .next t ∧ flag t R.adcFlag (16 + n) = true ∧
      adcOf t n = { c with ovlFrame := some (nowSample s / 16) } ∧ (∀ m, m ≠ n.val → adcOf t m = adcOf s m) ∧
      ((adcOf s n).ovlFrame = some (nowSample s / 16) → t.gloss = s.gloss) ∧
      ((adcOf s n).ovlFrame ≠ some (nowSample s / 16) → Logged 0x7130 (w32 n) (w32 (nowSample s / 16)) resets s t) ∧
      Touches [.analog, .gloss] (R.adcFlag :: glossRegs) s t) ∧
  (∀ (s : State) (n : Fin 16) (resets : Word), domainOn s 6 = false → exec (.modulatorOverload n resets) s = .next s) ∧
  (∀ (s : State) (x : Fin 32) (tap : BitVec 40) (n u a : Nat) (r : Int × Bool) (w w0 best : Int) (stamp : DWord)
      (rest : List (DWord × Int × Nat)), n = x.val / 2 → u = nextSample s → r = trimmed s n tap.toInt → w = detValue s x r.1 →
    a = R.adcTctl + 16 * x → s.analog.adc.length = 16 → s.analog.det.length = 32 → (rd s R.adcIbase).toNat % 4 = 0 → s.ecc = [] →
    canDeliver s n = true → watching s x = true → (∀ y, y / 2 = n → y ≠ x.val → Still s y) →
    (detOf s x).windows = (stamp, best, 1) :: rest → (∀ v ∈ rest, 1 < v.2.2) →
    (evaluates s x = true → (detOf s x).last = some w0 ∧
      (if flag s a 31 then (rd s (R.adcTlevel + 16 * x)).toInt - (rd s (R.adcThyst + 16 * x)).toNat ≤ w
        else w < (rd s (R.adcTlevel + 16 * x)).toInt)) →
    ∃ t, exec (.thresholdEvent x tap) s = .next t ∧ InputDelivered s t n u r.1 r.2 ∧
      detOf t x = ⟨if evaluates s x then some w else (detOf s x).last, rest.map fun v => (v.1, peakOf v.2.1 w, v.2.2 - 1), (detOf s x).hold - 1⟩ ∧
      t.evt = (offerEvent s 13 (thresholdPacket x stamp (peakOf best w)) s.time.aoTime).evt ∧
      (∀ y, y / 2 = n → y ≠ x.val → detOf t y = { detOf s y with hold := (detOf s y).hold - 1 }) ∧
      Touches [.analog, .mem, .evt] [R.adcFlag] s t) ∧
  (∀ (s : State) (x : Fin 32) (tap : BitVec 40), windowCloses s x = false ∨ canDeliver s (x.val / 2) = false →
    exec (.thresholdEvent x tap) s = .next s) ∧
  (∀ (s : State) (x : Fin 32), s.analog.det.length = 32 → (detOf s x).hold = 1 →
    ∃ t, exec (.holdoffEnd x) s = .next t ∧ detOf t x = { detOf s x with hold := 0 } ∧ (∀ y, y ≠ x.val → detOf t y = detOf s y) ∧
      Touches [.analog] [] s t) ∧
  (∀ (s : State) (x : Fin 32), (detOf s x).hold ≠ 1 → exec (.holdoffEnd x) s = .next s)


/-! ### Serial ports (R321 to R345) -/

/-- START_EDGE and CHARACTER_RECEIVED (R322, R324 to R332). A start edge seen while the receiver is idle begins a character, stamped in
quarters of a TCLK cycle, under a setting staged before its cycle; one that falls within a character is part of its line. Once what the
line says is decided: a start bit decided 1 is a false start. A character whose decisions are the bits of its data as sent, with its stop
bit 1, enters the queue without error; one that is all 0 enters it as a break with a framing error, which STAT and FERRS show. One that
finds 128 entries is dropped: OVR, DROP, LOSS for the next, Gloss code 0x5200 for the first. While muted a data character is discarded,
whatever ADDREN is. A start edge within the stop bit begins the next character, under a setting staged before it; with none the receiver is
idle and takes the setting staged. What the port itself sends, and a character that completes in the cycle of a flush, are not among these.
-/
def Obligations.SerialReceives : Prop :=
  (∀ (s : State) (p : Fin 8) (q : BitVec 2) (b : Word), s.sp.length = 8 → portsOn s = true → flag s (spReg p 8) 0 = true →
    (spOf s p).rxBusy = none → s.time.aoTime.toNat < 2 ^ 62 →
    b = (if (spOf s p).rxPend.any (·.toNat < s.time.aoTime.toNat) then stagedBaud s p else (spOf s p).rxBaud) →
    ∃ t, exec (.startEdge p q) s = .next t ∧
      spOf t p = { spOf s p with
        rxBaud := b, rxPend := (spOf s p).rxPend.filter (s.time.aoTime.toNat ≤ ·.toNat),
        rxBusy := some (w64 (4 * s.time.aoTime.toNat + if bitOf b 30 then q.toNat else 0)) } ∧
      (∀ r, r ≠ p.val → spOf t r = spOf s r) ∧ Touches [.sp] [] s t) ∧
  (∀ (s : State) (p : Fin 8) (q : BitVec 2), (spOf s p).rxBusy.isSome = true → exec (.startEdge p q) s = .next s) ∧
  (∀ (s : State) (p : Fin 8) (line : List Nat) (start : DWord) (n : Nat), s.sp.length = 8 → (spOf s p).rxBusy = some start →
    (spOf s p).rxPend = none → (nth (receivedOf s p line).bits 0 (true, false)).1 = true →
    n = decidedAt (spOf s p).rxBaud (!flag s (spReg p 0) 8) (0, 0) 0 → (afterStart s p start n).toNat < nowQuarter s + 4 →
    ∃ t, exec (.characterReceived p line) s = .next t ∧ flag t (spReg p 0x1C) 5 = true ∧
      spOf t p = { lineAfter (spOf s p) ((highFrom line n).map (afterStart s p start)) with
        rxBusy := none, own := false, echo := none } ∧
      (∀ r, r ≠ p.val → spOf t r = spOf s r) ∧ Touches [.sp] [spReg p 0x1C] s t) ∧
  (∀ (s : State) (p : Fin 8) (line : List Nat) (start : DWord) (r : Received) (data : Nat), s.sp.length = 8 → Heard s p line start r →
    (spOf s p).rxPend = none → data < 2 ^ dataBits s p →
    r.bits.map (·.1) = (sentBits s p data).take (1 + dataBits s p + parityBits s p) → r.stop = true →
    r.bits.any (·.2) = false → r.noise = false → ownDropped s p = false → (spOf s p).muted = false →
    (flag s (spReg p 0) 13 = true → data < 256) → (spOf s p).flushed ≠ some s.time.aoTime → flag s (spReg p 8) 4 = false →
    (spOf s p).rxq.length < 128 →
    ∃ t, exec (.characterReceived p line) s = .next t ∧
      spOf t p = Awaits { spOf s p with
        rxq := (spOf s p).rxq ++ [⟨BitVec.ofNat 9 data, false, false, false, false, false, (spOf s p).loss, start, (spOf s p).rxBaud,
          1 + dataBits s p + parityBits s p⟩], loss := false } s p line start r ∧
      (∀ r, r ≠ p.val → spOf t r = spOf s r) ∧ Touches [.sp] [] s t) ∧
  (∀ (s : State) (p : Fin 8) (line : List Nat) (start : DWord) (r : Received), s.sp.length = 8 → Heard s p line start r →
    (spOf s p).rxPend = none → parityBits s p = 0 → (∀ d ∈ r.bits, d = (false, false)) → r.stop = false → r.noise = false →
    ownDropped s p = false → (spOf s p).muted = false → (spOf s p).flushed ≠ some s.time.aoTime → flag s (spReg p 8) 4 = false →
    (spOf s p).rxq.length < 128 →
    ∃ t, exec (.characterReceived p line) s = .next t ∧ flag t (spReg p 0x1C) 1 = true ∧ flag t (spReg p 0x1C) 4 = true ∧
      rd t (spReg p 0x44) = rd (countUp s (spReg p 0x44)) (spReg p 0x44) ∧
      spOf t p = Awaits { spOf s p with
        rxq := (spOf s p).rxq ++ [⟨0, true, false, false, true, false, (spOf s p).loss, start, (spOf s p).rxBaud, 1 + dataBits s p⟩],
        loss := false } s p line start r ∧
      (∀ r, r ≠ p.val → spOf t r = spOf s r) ∧ Touches [.sp] [spReg p 0x1C, spReg p 0x44] s t) ∧
  (∀ (s : State) (p : Fin 8) (line : List Nat) (start : DWord) (r : Received), s.sp.length = 8 → Heard s p line start r →
    (spOf s p).rxPend = none → ownDropped s p = false → (spOf s p).muted = false →
    (flag s (spReg p 0) 13 = true → (nth r.bits 9 (true, false)).1 = false) → (spOf s p).flushed ≠ some s.time.aoTime →
    128 ≤ (spOf s p).rxq.length → flag s (spReg p 0x1C) 0 = false →
    ∃ t, exec (.characterReceived p line) s = .next t ∧ flag t (spReg p 0x1C) 0 = true ∧
      rd t (spReg p 0x40) = rd (countUp s (spReg p 0x40)) (spReg p 0x40) ∧
      spOf t p = Awaits { spOf s p with loss := true } s p line start r ∧
      (∀ r, r ≠ p.val → spOf t r = spOf s r) ∧ Logged 0x5200 (w32 p) (rd t (spReg p 0x40)) (start.setWidth 32) s t ∧
      Touches [.sp, .gloss] (spReg p 0x1C :: spReg p 0x40 :: glossRegs) s t) ∧
  (∀ (s : State) (p : Fin 8) (line : List Nat) (start : DWord) (r : Received), s.sp.length = 8 → Heard s p line start r →
    (spOf s p).rxPend = none → (spOf s p).muted = true → (flag s (spReg p 0) 13 = true → (nth r.bits 9 (true, false)).1 = false) →
    ∃ t, exec (.characterReceived p line) s = .next t ∧ spOf t p = Awaits (spOf s p) s p line start r ∧
      (∀ r, r ≠ p.val → spOf t r = spOf s r) ∧ Touches [.sp] [] s t) ∧
  (∀ (s : State) (p : Fin 8) (line : List Nat) (start w : DWord) (r : Received), s.sp.length = 8 → Heard s p line start r →
    (spOf s p).rxPend = some w → (∀ e, r.next = some e → w.toNat < (afterStart s p start e).toNat / 4) → (spOf s p).muted = true →
    (flag s (spReg p 0) 13 = true → (nth r.bits 9 (true, false)).1 = false) →
    ∃ t, exec (.characterReceived p line) s = .next t ∧
      spOf t p = Awaits { spOf s p with rxBaud := stagedBaud s p, rxPend := none } s p line start r ∧
      (∀ r, r ≠ p.val → spOf t r = spOf s r) ∧ Touches [.sp] [] s t) ∧
  (∀ (s : State) (p : Fin 8) (line : List Nat) (start : DWord), (spOf s p).rxBusy = some start →
    (nth (receivedOf s p line).bits 0 (true, false)).1 = false →
    nowQuarter s + 4 ≤ (afterStart s p start (receivedOf s p line).done).toNat → exec (.characterReceived p line) s = .next s)

/-- CHARACTER_TRANSMIT and COLLISION_RETRY (R321 to R323, R333, R334, R336 to R339). At a transmit tick at which it may start the character
at the head leaves the queue and occupies the shifter for its bits under the setting staged, OS ticks of the free-running divider a bit;
the line takes its levels, and in single-wire mode the receiver follows them. A collision releases the line one tick after the bit that
shows it is decided, keeps the character at the head and is counted; the collision after the last retry abandons it, with TXABORT and Gloss
code 0x5210. Where it may not start nothing is sent. -/
def Obligations.SerialTransmits : Prop :=
  (∀ (s u : State) (p : Fin 8) (echo : List Bool) (c : Instr) (e : TxEntry) (rest : List TxEntry) (b : Word) (g : Nat × Nat)
      (bs : List Bool), s.sp.length = 8 → u = readyBaud s p → txReady u p = true →
    c = (if (spOf s p).colls = 0 then .characterTransmit p echo else .collisionRetry p echo) →
    (spOf s p).txq = e :: rest → collisionBit s p e.char.toNat echo = none → b = (spOf u p).txBaud → g = startTick u p →
    bs = sentBits s p e.char.toNat → (hearsItself s p = true → (spOf s p).rxPend = none) →
    ∃ t, exec c s = .next t ∧
      spOf t p = { spOf u p with
        txq := rest, txBusy := some (w64 (gridTick b g (bs.length * oversampling b))), txGrid := g, line := lineOf s p b g bs, colls := 0,
        cts := flag s (spReg p 8) 5 || (spOf s p).cts, own := hearsItself s p || (spOf s p).own,
        rxBusy := if hearsItself s p then some (w64 g.1) else (spOf s p).rxBusy,
        echo := if hearsItself s p then some (ownEcho s p (w64 g.1) (lineOf s p b g bs)) else (spOf s p).echo } ∧
      (divider b ≠ 0 → nowQuarter s ≤ g.1) ∧ g.1 < nowQuarter s + 4 ∧
      (∀ r, r ≠ p.val → spOf t r = spOf s r) ∧ Touches [.sp] [] s t) ∧
  (∀ (s u : State) (p : Fin 8) (echo : List Bool) (c : Instr) (e : TxEntry) (rest : List TxEntry) (b : Word) (g : Nat × Nat) (i k : Nat),
    s.sp.length = 8 → u = readyBaud s p → txReady u p = true →
    c = (if (spOf s p).colls = 0 then .characterTransmit p echo else .collisionRetry p echo) →
    (spOf s p).txq = e :: rest → collisionBit s p e.char.toNat echo = some i → (spOf s p).rxPend = none → b = (spOf u p).txBaud →
    g = startTick u p → k = i * oversampling b + (bitSamples b (!flag s (spReg p 0) 8)).2.2 →
    ∃ t, exec c s = .next t ∧
      spOf t p = { spOf u p with
        txGrid := g, txBusy := some (w64 (gridTick b g (k + 1))), line := (spOf t p).line, lineFrom := (spOf t p).lineFrom,
        cts := flag s (spReg p 8) 5 || (spOf s p).cts, rxBusy := some (w64 g.1),
        colls := if fld s (spReg p 0x14) 11 8 ≤ (spOf s p).colls then 0 else (spOf s p).colls + 1,
        backoff := if fld s (spReg p 0x14) 11 8 ≤ (spOf s p).colls then (spOf s p).backoff
          else 11 + fld s (spReg p 0x14) 7 0 * ((spOf s p).colls + 1),
        txq := if fld s (spReg p 0x14) 11 8 ≤ (spOf s p).colls then rest else e :: rest } ∧
      (spOf t p).line = ((lineOf s p b g ((sentBits s p e.char.toNat).take (i + 1))).filter fun x => x.1 < gridTick b g (k + 1)) ++
        [(gridTick b g (k + 1), true)] ∧
      (spOf t p).lineFrom = (if (spOf s p).lineFrom.toNat < (w64 (gridTick b g k)).toNat then w64 (gridTick b g k)
        else (spOf s p).lineFrom) ∧
      flag t (spReg p 0x1C) 6 = true ∧ rd t (spReg p 0x4C) = rd (countUp s (spReg p 0x4C)) (spReg p 0x4C) ∧
      (fld s (spReg p 0x14) 11 8 ≤ (spOf s p).colls → flag t (spReg p 0x1C) 7 = true ∧
        Logged 0x5210 (w32 p) (w32 e.char.toNat) (w32 ((spOf s p).colls + 1)) s t) ∧
      ((spOf s p).colls < fld s (spReg p 0x14) 11 8 → t.gloss = s.gloss ∧ flag t (spReg p 0x1C) 7 = flag s (spReg p 0x1C) 7) ∧
      (∀ r, r ≠ p.val → spOf t r = spOf s r) ∧ Touches [.sp, .gloss] (spReg p 0x1C :: spReg p 0x4C :: glossRegs) s t) ∧
  (∀ (s : State) (p : Fin 8) (echo : List Bool) (c : Instr), c = .characterTransmit p echo ∨ c = .collisionRetry p echo →
    txReady (readyBaud s p) p = false →
    ∃ t, exec c s = .next t ∧ (spOf t p).txq = (spOf s p).txq ∧ (spOf t p).txBusy = (spOf s p).txBusy ∧
      (spOf t p).line = (spOf s p).line ∧ (∀ r, r ≠ p.val → spOf t r = spOf s r) ∧ Touches [.sp] [] s t)

/-- Host access to a serial port (R322, R332, R333, R342, R345). BAUD_WRITE stages a setting, pending on both sides, which a disabled
receiver applies at once; BAUD_APPLY has the receiver apply it while idle, and the transmitter at a character boundary, from where its
divider goes on. SERIAL_CONTROL_WRITE: RXEN going to 1 makes the receiver idle; going to 0 it discards the character being received, and
LOSS marks the next entry. RXFLUSH, TXFLUSH and MUTE. TRANSMIT_DATA queues a character where the host writes the queue and it has room,
else sets TXOVR. RECEIVE_DATA_READ answers and removes the oldest entry, whose arrival time RXT then holds. -/
def Obligations.SerialRegisters : Prop :=
  (∀ (s : State) (p : Fin 8) (v b : Word), HostMayWrite s (spReg p 4) → s.sp.length = 8 → bits v 29 28 ≤ 2 → bits v 27 16 ≠ 0 →
    b = v &&& 0x7FFFFFFF →
    ∃ t, exec (.baudWrite p v) s = .next t ∧ stagedBaud t p = b ∧
      spOf t p = (if flag s (spReg p 8) 0 then { spOf s p with rxPend := some s.time.aoTime, txPend := true }
        else { spOf s p with rxBaud := b, rxPend := none, txPend := true }) ∧
      baudPending t p = true ∧ (∀ r, r ≠ p.val → spOf t r = spOf s r) ∧ Touches [.sp] [spReg p 4] s t) ∧
  (∀ (s : State) (p : Fin 8) (v : Word), HostMayWrite s (spReg p 4) → bits v 29 28 = 3 ∨ bits v 27 16 = 0 →
    ∃ t, exec (.baudWrite p v) s = .next t ∧ Refused s t (spReg p 4) true) ∧
  (∀ (s : State) (p : Fin 8) (g : Nat × Nat) (c : Nat), s.sp.length = 8 → txIdle s p = true ∨ flag s (spReg p 8) 1 = false →
    g = gridFrom (spOf s p).txBaud (spOf s p).txGrid (match (spOf s p).txBusy with | some t => t.toNat | none => nowQuarter s) →
    c = srcQuarters (stagedBaud s p) →
    ∃ t, exec (.baudApply p true) s = .next t ∧
      spOf t p = { spOf s p with txBaud := stagedBaud s p, txPend := false, txGrid := ((g.1 + c - 1) / c * c, g.2) } ∧
      (∀ r, r ≠ p.val → spOf t r = spOf s r) ∧ Touches [.sp] [] s t) ∧
  (∀ (s : State) (p : Fin 8), s.sp.length = 8 → rxIdle s p = true →
    ∃ t, exec (.baudApply p false) s = .next t ∧ spOf t p = { spOf s p with rxBaud := stagedBaud s p, rxPend := none } ∧
      (∀ r, r ≠ p.val → spOf t r = spOf s r) ∧ Touches [.sp] [] s t) ∧
  (∀ (s : State) (p : Fin 8), (txIdle s p = false ∧ flag s (spReg p 8) 1 = true → exec (.baudApply p true) s = .next s) ∧
    (rxIdle s p = false → exec (.baudApply p false) s = .next s)) ∧
  (∀ (s : State) (p : Fin 8) (v : Word), HostMayWrite s (spReg p 8) → s.sp.length = 8 → flag s (spReg p 8) 0 = false → bitOf v 0 = true →
    bitOf v 4 = flag s (spReg p 8) 4 →
    ∃ t, exec (.serialControlWrite p v) s = .next t ∧ rd t (spReg p 8) = (rd s (spReg p 8) &&& ~~~0x73) ||| (v &&& 0x73) ∧
      spOf t p = { spOf s p with rxBusy := none, own := false, echo := none } ∧ (∀ r, r ≠ p.val → spOf t r = spOf s r) ∧
      Touches [.sp] [spReg p 8] s t) ∧
  (∀ (s : State) (p : Fin 8) (v : Word), HostMayWrite s (spReg p 8) → s.sp.length = 8 → flag s (spReg p 8) 0 = true → bitOf v 0 = false →
    bitOf v 4 = flag s (spReg p 8) 4 →
    ∃ t, exec (.serialControlWrite p v) s = .next t ∧ rd t (spReg p 8) = (rd s (spReg p 8) &&& ~~~0x73) ||| (v &&& 0x73) ∧
      spOf t p = { spOf s p with
        rxBusy := none, own := false, echo := none, loss := (spOf s p).loss || (spOf s p).rxBusy.isSome, rxBaud := stagedBaud s p, rxPend := none } ∧
      (∀ r, r ≠ p.val → spOf t r = spOf s r) ∧ Touches [.sp] [spReg p 8] s t) ∧
  (∀ (s : State) (p : Fin 8), HostMayWrite s (spReg p 0x18) → s.sp.length = 8 → flag s (spReg p 8) 4 = false →
    ∃ t, exec (.rxflush p) s = .next t ∧ spOf t p = { spOf s p with rxq := [], loss := true, flushed := some s.time.aoTime } ∧
      (∀ r, r ≠ p.val → spOf t r = spOf s r) ∧ Touches [.sp] [] s t) ∧
  (∀ (s : State) (p : Fin 8), HostMayWrite s (spReg p 0x18) → s.sp.length = 8 →
    ∃ t, exec (.txflush p) s = .next t ∧ spOf t p = { spOf s p with txq := [], colls := 0 } ∧
      (∀ r, r ≠ p.val → spOf t r = spOf s r) ∧ Touches [.sp] [] s t) ∧
  (∀ (s : State) (p : Fin 8), HostMayWrite s (spReg p 0x18) → s.sp.length = 8 →
    ∃ t, exec (.mute p) s = .next t ∧ spOf t p = { spOf s p with muted := true } ∧
      (∀ r, r ≠ p.val → spOf t r = spOf s r) ∧ Touches [.sp] [] s t) ∧
  (∀ (s : State) (p : Fin 8) (v : Word), HostMayWrite s (spReg p 0x38) → s.sp.length = 8 → fld s (spReg p 0) 18 17 = 1 →
    (spOf s p).txq.length < 128 →
    ∃ t, exec (.transmitData p v) s = .next t ∧
      spOf t p = { spOf s p with txq := (spOf s p).txq ++ [⟨BitVec.ofNat 9 v.toNat, none⟩] } ∧
      (∀ r, r ≠ p.val → spOf t r = spOf s r) ∧ Touches [.sp] [] s t) ∧
  (∀ (s : State) (p : Fin 8) (v : Word), HostMayWrite s (spReg p 0x38) → fld s (spReg p 0) 18 17 ≠ 1 ∨ 128 ≤ (spOf s p).txq.length →
    ∃ t, exec (.transmitData p v) s = .next t ∧ flag t (spReg p 0x1C) 8 = true ∧ Touches [] [spReg p 0x1C] s t) ∧
  (∀ (s : State) (p : Fin 8) (e : RxEntry) (rest : List RxEntry), HostMayWrite s (spReg p 0x30) → s.sp.length = 8 →
    flag s (spReg p 0) 16 = true → flag s (spReg p 8) 4 = false → (spOf s p).rxq = e :: rest →
    ∃ t, exec (.receiveDataRead p) s = .next t ∧ t.host = { s.host with out := s.host.out ++ [rxdWord e] } ∧
      rd t (spReg p 0x34) = e.time ∧ spOf t p = { spOf s p with rxq := rest } ∧ (∀ r, r ≠ p.val → spOf t r = spOf s r) ∧
      Touches [.sp, .host] [spReg p 0x34] s t) ∧
  (∀ (s : State) (p : Fin 8), HostMayWrite s (spReg p 0x30) → (spOf s p).rxq = [] ∨ flag s (spReg p 0) 16 = false →
    exec (.receiveDataRead p) s = .next { s with host := { s.host with out := s.host.out ++ [0] } })


/-! ### Chain links (R346 to R382) -/

/-- A link trains (R347, R349, R356, R357). ROLE_DECISION, 20 ms after boot step 11: an open role becomes the root. COMMA_ALIGNMENT ends
step 1. HELLO_INTERVAL, 500 symbol times after the latest HELLO, queues one. HELLO: one that agrees in rate and role ends step 2; each in
step 3 adds an exchange; the eighth gives P, which ends step 3 or, above 80 ns, has the link refused with Gloss code 0x6150, reason 2; a
disagreement has it refused by the manager, reason 1. LINK_TRAINING_TIMEOUT returns the link to step 1, 100 ms after the step's time-out
(log 140), with Gloss code 0x6150, reason 5, where an image was streamed (R358). ADDR gives a worker its address, and its join request goes
up. STAT: a join request whose image agrees makes the link ACTIVE at the root, with a SYNC and Gloss code 0x6100; a link-down report names
the device lost. -/
def Obligations.LinkTrains : Prop :=
  (∀ s : State, s.boot.interruptMode = true → flag s R.linkAddr 31 = false → fld s R.linkCfg 1 0 = 3 → domainOn s 7 = true →
    blockFits s = true → msCycles s 20 ≤ cyclesSince s s.sys.roleFrom →
    ∃ t, exec .roleDecision s = .next t ∧ rd t R.linkAddr = 0xC0003FFF ∧ t.sys = { s.sys with single := false } ∧
      Touches [.sys] [R.linkAddr] s t) ∧
  (∀ (s : State) (l : Fin 4), s.links.length = 4 → linkState s l = 1 → s.sys.single = false → domainOn s 7 = true →
    ∃ t, exec (.commaAlignment l) s = .next t ∧ linkState t l = 2 ∧ flag t R.sysIrqstat 11 = true ∧
      linkOf t l = { linkOf s l with since := s.time.aoTime } ∧ (∀ m, m ≠ l.val → linkOf t m = linkOf s m) ∧
      Touches [.links] [lstatReg l, R.sysIrqstat] s t) ∧
  (∀ (s : State) (l : Fin 4), s.links.length = 4 → linkState s l = 2 ∨ linkState s l = 3 → s.sys.single = false →
    (∀ t, (linkOf s l).helloAt = some t → symbolCycles s 500 ≤ cyclesSince s t) →
    ∃ t, exec (.helloInterval l) s = .next t ∧
      linkOf t l = { linkOf s l with
        outq := (linkOf s l).outq ++ [⟨0x01, linkHd s 0, helloBytes s l, 0, 0⟩], helloAt := some s.time.aoTime } ∧
      (∀ m, m ≠ l.val → linkOf t m = linkOf s m) ∧ Touches [.links] [] s t) ∧
  (∀ (s : State) (l : Fin 4) (t : DWord), (linkOf s l).helloAt = some t → cyclesSince s t < symbolCycles s 500 →
    exec (.helloInterval l) s = .next s) ∧
  (∀ (s : State) (a : Arrival) (l : Fin 4) (h : HelloPayload) (arrival : Word), s.links.length = 4 → a.link = l → Sound s a →
    linkState s l = 2 →
    flag s R.linkAddr 31 = true → h.fs.toNat = helloRate s → h.mgr ≠ manages s l →
    ∃ t, exec (.hello a h arrival) s = .next t ∧ linkState t l = 3 ∧
      linkOf t l = { linkOf s l with peer := some (h, arrival), exch := 0, psum := 0, since := s.time.aoTime } ∧
      (∀ m, m ≠ l.val → linkOf t m = linkOf s m) ∧ Touches [.links] [lstatReg l, R.sysIrqstat] s t) ∧
  (∀ (s : State) (a : Arrival) (l : Fin 4) (h : HelloPayload) (arrival : Word), s.links.length = 4 → a.link = l → Sound s a →
    linkState s l = 2 →
    flag s R.linkAddr 31 = true → h.fs.toNat ≠ helloRate s → manages s l = true →
    ∃ t, exec (.hello a h arrival) s = .next t ∧ rd t (lstatReg l) = 1 ∧ linkOf t l = { since := s.time.aoTime } ∧
      Logged 0x6150 (w32 l) 1 (w32 (peerAddr s l)) s t ∧ (∀ m, m ≠ l.val → linkOf t m = linkOf s m) ∧
      Touches [.links, .gloss] (lstatReg l :: R.sysIrqstat :: glossRegs) s t) ∧
  (∀ (s : State) (a : Arrival) (l : Fin 4) (h : HelloPayload) (arrival : Word), s.links.length = 4 → a.link = l → Sound s a →
    linkState s l = 3 →
    (linkOf s l).exch ≠ 7 →
    ∃ t, exec (.hello a h arrival) s = .next t ∧
      linkOf t l = { linkOf s l with
        peer := some (h, arrival), exch := (linkOf s l).exch + 1,
        psum := (linkOf s l).psum + (arrival - h.techo - h.thold).toInt } ∧
      (∀ m, m ≠ l.val → linkOf t m = linkOf s m) ∧ Touches [.links] [] s t) ∧
  (∀ (s : State) (a : Arrival) (l : Fin 4) (h : HelloPayload) (arrival : Word) (p : Int), s.links.length = 4 → a.link = l → Sound s a →
    linkState s l = 3 → (linkOf s l).exch = 7 → manages s l = false → p = (linkOf s l).psum + (arrival - h.techo - h.thold).toInt →
    0 ≤ p → p ≤ delayLimit s →
    ∃ t, exec (.hello a h arrival) s = .next t ∧ linkState t l = 4 ∧ fld t (lstatReg l) 15 8 = p.toNat ∧
      linkOf t l = { linkOf s l with peer := some (h, arrival), exch := 8, psum := p, since := s.time.aoTime } ∧
      (∀ m, m ≠ l.val → linkOf t m = linkOf s m) ∧ Touches [.links] [lstatReg l, R.sysIrqstat] s t) ∧
  (∀ (s : State) (a : Arrival) (l : Fin 4) (h : HelloPayload) (arrival : Word) (p : Int), s.links.length = 4 → a.link = l → Sound s a →
    linkState s l = 3 → linkDir s l ≠ 0 → (linkOf s l).exch = 7 → p = (linkOf s l).psum + (arrival - h.techo - h.thold).toInt →
    (delayLimit s : Int) < p →
    ∃ t, exec (.hello a h arrival) s = .next t ∧ rd t (lstatReg l) = 1 ∧ linkOf t l = { since := s.time.aoTime } ∧
      Logged 0x6150 (w32 l) 2 (w32 (peerAddr s l)) s t ∧ (∀ m, m ≠ l.val → linkOf t m = linkOf s m) ∧
      Touches [.links, .gloss] (lstatReg l :: R.sysIrqstat :: glossRegs) s t) ∧
  (∀ (s : State) (l : Fin 4), s.links.length = 4 → linkState s l ≠ 0 → linkState s l ≠ 6 → linkDir s l ≠ 0 →
    linkState s l ≠ 5 ∨ manages s l = false ∨ (linkOf s l).stream = none →
    msCycles s (trainingLimit (linkState s l) + 100) ≤ cyclesSince s (linkOf s l).since →
    ∃ t, exec (.linkTrainingTimeout l) s = .next t ∧ rd t (lstatReg l) = 1 ∧ linkOf t l = { since := s.time.aoTime } ∧
      (∀ m, m ≠ l.val → linkOf t m = linkOf s m) ∧ Touches [.links] [lstatReg l, R.sysIrqstat] s t) ∧
  (∀ (s : State) (l : Fin 4), s.links.length = 4 → linkState s l = 5 → manages s l = true → (linkOf s l).stream.isSome = true →
    msCycles s (trainingLimit 5 + 100) ≤ cyclesSince s (linkOf s l).since →
    ∃ t, exec (.linkTrainingTimeout l) s = .next t ∧ rd t (lstatReg l) = 1 ∧ linkOf t l = { since := s.time.aoTime } ∧
      Logged 0x6150 (w32 l) 5 (w32 (peerAddr s l)) s t ∧ (∀ m, m ≠ l.val → linkOf t m = linkOf s m) ∧
      Touches [.links, .gloss] (lstatReg l :: R.sysIrqstat :: glossRegs) s t) ∧
  (∀ (s : State) (l : Fin 4), cyclesSince s (linkOf s l).since < msCycles s (trainingLimit (linkState s l) + 100) →
    exec (.linkTrainingTimeout l) s = .next s) ∧
  (∀ (s : State) (i : Arrival) (l : Fin 4) (a : BitVec 14) (p : BitVec 6) (d tiers : BitVec 2), s.links.length = 4 → i.link = l →
    InOrder s i → linkState s l = 4 → manages s l = false → upLink s = some l.val → d = 1 → p = 1 → tiers ≠ 0 →
    ∃ t, exec (.addr i a p d tiers) s = .next t ∧ rd t R.linkAddr = w32 (2 ^ 31 + 2 ^ 28 + 2 ^ 16 + a.toNat) ∧ linkState t l = 5 ∧
      flag t (lstatReg l) 30 = true ∧
      linkOf t l = { acked (linkOf s l) with
        outq := (linkOf s l).outq ++ [⟨0x0B, ⟨0, false, true, a, false⟩, leBytes 4 (2 + 256 * a.toNat), 0, 0⟩],
        owed := (linkOf s l).owed.modify 0 (· + 1), since := s.time.aoTime } ∧
      (∀ m, m ≠ l.val → linkOf t m = linkOf s m) ∧ Touches [.links] [R.linkAddr, lstatReg l, R.sysIrqstat] s t) ∧
  (∀ (s : State) (i : Relayed) (l : Fin 4) (address : BitVec 16) (a : Nat) (h : HelloPayload) (at' : Word), s.links.length = 4 →
    i.link = l → InOrder s i.toArrival → manages s l = true → flag s R.linkAddr 30 = true → a = address.toNat % 16384 → peerAddr s l = a → linkState s l = 4 →
    (linkOf s l).peer = some (h, at') → h.hash = ownHash s →
    ∃ t, exec (.stat i 2 address) s = .next t ∧ linkState t l = 6 ∧
      linkOf t l = { acked (linkOf s l) with
        outq := (linkOf s l).outq ++ [⟨0x08, castHd s, syncBytes s false, 0, 0⟩], owed := (linkOf s l).owed.modify 0 (· + 1),
        since := s.time.aoTime } ∧
      (∀ m, m ≠ l.val → linkOf t m = linkOf s m) ∧ Logged 0x6100 (w32 l) (w32 a) (w32 (fld s (lstatReg l) 15 8)) s t ∧
      t.sys = { s.sys with
        devices := s.sys.devices.filter (fun x => x.addr ≠ a) ++
          [{ addr := a, verbs := h.verbs.toNat, depth := if a % 128 = 0 then 1 else 2, link := l, present := false, late := 0,
             joinReq := true, report := false }] } ∧
      Touches [.links, .gloss, .sys] (lstatReg l :: R.sysIrqstat :: glossRegs) s t) ∧
  (∀ (s : State) (i : Relayed) (l : Fin 4) (address : BitVec 16), s.links.length = 4 → i.link = l → InOrder s i.toArrival →
    manages s l = true → flag s R.linkAddr 30 = true → s.sys.lossFrame = none →
    ∃ t, exec (.stat i 1 address) s = .next t ∧
      t.sys = { s.sys with
        lost := s.sys.lost ++ [(address.toNat % 16384, l.val)], lossFrame := some (s.time.frame - tiersOf s) } ∧
      linkOf t l = { acked (linkOf s l) with owed := (linkOf s l).owed.modify 0 (· + 1) } ∧
      (∀ m, m ≠ l.val → linkOf t m = linkOf s m) ∧ Touches [.links, .sys] [] s t)

/-- Packets on a link (R351, R353, R354, R360 to R362, R376, R379 to R381). CRED returns buffers. ACK drops the kept packets up to its
number; NAK does so and has the rest sent again, as does REPLAY_TIMEOUT 4,096 symbol times after the EOP of the oldest, counted; after 8
replays, or by LINK_DOWN, the root's link is down: Gloss code 0x6101, and the device beyond is lost. EVT: a device that is no worker takes
the events as source 8 + l, and their buffers are held until the fabric has accepted them; a worker passes them up. WEV goes up, and stays
at the root. TRC: a worker passes it up; the root drops scheduling records where TRACE_LOCK is blown. The buffers of what is dealt with are
owed to the sender. A packet of any of these types that arrives before the link is aligned does nothing; one whose CRC fails is discarded,
counted and answered with NAK; a retried one out of sequence is discarded, and answered with NAK before a gap, with ACK where it came
before; one in sequence is answered with ACK. The mailbox: GO sends one request to a known device, for another DONE and ERR answer at once,
and GO is refused while BUSY; no answer within 1 ms sets ERR to timeout; a response gives DATA and ERR. -/
def Obligations.LinkPackets : Prop :=
  (∀ (s : State) (l : Fin 4) (c : BitVec 2) (n : Byte), s.links.length = 4 →
    ∃ t, exec (.cred l c n) s = .next t ∧
      linkOf t l = { linkOf s l with credits := (linkOf s l).credits.modify c.toNat (· + n.toNat) } ∧
      (∀ m, m ≠ l.val → linkOf t m = linkOf s m) ∧ Touches [.links] [] s t) ∧
  (∀ (s : State) (l : Fin 4) (q : Byte) (p : OutPkt) (rest : List OutPkt), s.links.length = 4 → (linkOf s l).sent = p :: rest →
    p.seq = q.toNat → (∀ r ∈ rest, 128 ≤ (q.toNat + 256 - r.seq) % 256) →
    ∃ t, exec (.ack l q) s = .next t ∧ linkOf t l = { linkOf s l with sent := rest, replays := 0 } ∧
      (∀ m, m ≠ l.val → linkOf t m = linkOf s m) ∧ Touches [.links] [] s t) ∧
  (∀ (s : State) (l : Fin 4) (q : Byte) (c : Instr), s.links.length = 4 → (linkOf s l).sent ≠ [] → (linkOf s l).replays < 7 →
    (∀ r ∈ (linkOf s l).sent, 128 ≤ (q.toNat + 256 - r.seq) % 256) → c = .nak l q ∨ (c = .replayTimeout l ∧ replayDue s l = true) →
    ∃ t, exec c s = .next t ∧ linkOf t l = resendKept s { linkOf s l with replays := (linkOf s l).replays + 1 } ∧
      rd t (R.linkReplay + 0x40 * l) = rd (countUp s (R.linkReplay + 0x40 * l)) (R.linkReplay + 0x40 * l) ∧
      (∀ m, m ≠ l.val → linkOf t m = linkOf s m) ∧ Touches [.links] [R.linkReplay + 0x40 * l] s t) ∧
  (∀ (s : State) (l : Fin 4) (c : Instr) (cause : Word), s.links.length = 4 → 5 ≤ linkState s l → manages s l = true →
    flag s R.linkAddr 30 = true → s.sys.lossFrame = none →
    (c = .linkDown l ∧ cause = 0) ∨ (c = .replayTimeout l ∧ cause = 1 ∧ replayDue s l = true ∧ (linkOf s l).replays = 7) →
    ∃ t, exec c s = .next t ∧ rd t (lstatReg l) = 1 ∧ linkOf t l = { since := s.time.aoTime } ∧ (∀ m, m ≠ l.val → linkOf t m = linkOf s m) ∧
      t.sys = { s.sys with
        lost := s.sys.lost ++ [(peerAddr s l, l.val)], lossFrame := some (s.time.frame - tiersOf s) } ∧
      Logged 0x6101 (w32 l) cause (w32 s.time.frame) s t ∧
      Touches [.links, .gloss, .sys] ((R.linkReplay + 0x40 * l) :: lstatReg l :: R.sysIrqstat :: glossRegs) s t) ∧
  (∀ (s : State) (i : Arrival) (l : Fin 4) (hd : LinkHeader) (ps : List EvPacket), s.links.length = 4 → i.link = l → InOrder s i →
    linkState s l = 6 → isWorker s = false →
    ps ≠ [] →
    ∃ t, exec (.evt i hd ps) s = .next t ∧
      t.evt = (ps.foldl (fun u p => offerEvent u (8 + l) { p with source := BitVec.ofNat 6 (8 + l) } s.time.aoTime) s).evt ∧
      linkOf t l = { acked (linkOf s l) with evtHeld := (linkOf s l).evtHeld ++ [(ps.length, buffersFor (16 * ps.length))] } ∧
      (∀ m, m ≠ l.val → linkOf t m = linkOf s m) ∧ Touches [.evt, .links] [] s t) ∧
  (∀ (s : State) (i : Arrival) (l u : Fin 4) (hd : LinkHeader) (ps : List EvPacket) (bs : List Byte), s.links.length = 4 → i.link = l →
    InOrder s i → linkState s l = 6 →
    isWorker s = true → hd.bcast = false → hd.droot = true → upLink s = some u.val → l ≠ u → bs = (ps.map pktBytes).flatten →
    ∃ t, exec (.evt i hd ps) s = .next t ∧
      linkOf t u = { linkOf s u with outq := (linkOf s u).outq ++ [⟨0x04, hd, bs, 0, 0⟩] } ∧
      linkOf t l = { acked (linkOf s l) with owed := (linkOf s l).owed.modify 1 (· + buffersFor bs.length) } ∧
      (∀ m, m ≠ u.val → m ≠ l.val → linkOf t m = linkOf s m) ∧ Touches [.links] [] s t) ∧
  (∀ (s : State) (i : Relayed) (l : Fin 4) (frame : Word) (es : List WevEntry), s.links.length = 4 → i.link = l →
    InOrder s i.toArrival → linkState s l = 6 → manages s l = true →
    isRoot s = true →
    ∃ t, exec (.wev i frame es) s = .next t ∧ t.sys = { s.sys with wev := s.sys.wev ++ es.map fun e => (frame.toNat, e) } ∧
      linkOf t l = { acked (linkOf s l) with owed := (linkOf s l).owed.modify 1 (· + buffersFor (4 + 20 * es.length)) } ∧
      (∀ m, m ≠ l.val → linkOf t m = linkOf s m) ∧ Touches [.sys, .links] [] s t) ∧
  (∀ (s : State) (i : Relayed) (l u : Fin 4) (frame : Word) (es : List WevEntry), s.links.length = 4 → i.link = l →
    InOrder s i.toArrival → linkState s l = 6 → manages s l = true →
    isRoot s = false → upLink s = some u.val → l ≠ u →
    ∃ t, exec (.wev i frame es) s = .next t ∧
      linkOf t u = { linkOf s u with
        outq := (linkOf s u).outq ++ [⟨0x05, passHd i false, leBytes 4 frame.toNat ++ (es.map wevBytes).flatten, 0, 0⟩] } ∧
      linkOf t l = { acked (linkOf s l) with owed := (linkOf s l).owed.modify 1 (· + buffersFor (4 + 20 * es.length)) } ∧
      (∀ m, m ≠ u.val → m ≠ l.val → linkOf t m = linkOf s m) ∧ Touches [.links] [] s t) ∧
  (∀ (s : State) (i : Relayed) (l u : Fin 4) (words : List Word) (b : Bool) (bs : List Byte), s.links.length = 4 → i.link = l →
    Sound s i.toArrival → linkState s l = 6 →
    isWorker s = true → upLink s = some u.val → l ≠ u → bs = (words.map fun w => leBytes 4 w.toNat).flatten →
    ∃ t, exec (.trc i words b) s = .next t ∧
      linkOf t u = { linkOf s u with outq := (linkOf s u).outq ++ [⟨0x0A, passHd i false, bs, 0, 0⟩] } ∧
      linkOf t l = { linkOf s l with owed := (linkOf s l).owed.modify 3 (· + buffersFor bs.length) } ∧
      (∀ m, m ≠ u.val → m ≠ l.val → linkOf t m = linkOf s m) ∧ Touches [.links] [] s t) ∧
  (∀ (s : State) (i : Relayed) (l : Fin 4) (words : List Word), s.links.length = 4 → i.link = l → Sound s i.toArrival → linkState s l = 6 → isWorker s = false → traceLocked s = true →
    ∃ t, exec (.trc i words true) s = .next t ∧
      linkOf t l = { linkOf s l with
        owed := (linkOf s l).owed.modify 3 (· + buffersFor ((words.map fun w => leBytes 4 w.toNat).flatten).length) } ∧
      (∀ m, m ≠ l.val → linkOf t m = linkOf s m) ∧ Touches [.links] [] s t) ∧
  (∀ (s : State) (v : Word) (dest u : Nat), HostMayWrite s R.linkRctl → s.links.length = 4 → bitOf v 0 = true →
    bitOf v 1 = false → bitOf v 3 = false → flag s R.linkRctl 2 = false → dest = fld s R.linkRdest 13 0 → isRoot s = true →
    flag s R.linkAddr 30 = true → (s.sys.devices.any fun d => d.addr = dest) = true → u = dest / 128 / 32 % 4 →
    ∃ t, exec (.mailboxRequest v) s = .next t ∧ flag t R.linkRctl 2 = true ∧ fld t R.linkRctl 5 4 = 0 ∧
      linkOf t u = { linkOf s u with
        outq := (linkOf s u).outq ++ [⟨0x03, linkHd s dest, ctlBytes 0 0 (rd s R.linkRoff) (rd s R.linkRdata), 0, 0⟩] } ∧
      (∀ m, m ≠ u → linkOf t m = linkOf s m) ∧ t.sys = { s.sys with mailAt := s.time.aoTime } ∧
      Touches [.links, .sys] [R.linkRctl] s t) ∧
  (∀ (s : State) (v : Word), HostMayWrite s R.linkRctl → bitOf v 0 = true → bitOf v 3 = false → flag s R.linkRctl 2 = false →
    flag s R.linkRctl 3 = false → isRoot s = false →
    ∃ t, exec (.mailboxRequest v) s = .next t ∧ flag t R.linkRctl 2 = false ∧ flag t R.linkRctl 3 = true ∧
      fld t R.linkRctl 5 4 = 3 ∧ flag t R.sysIrqstat 11 = true ∧ Touches [] [R.linkRctl, R.sysIrqstat] s t) ∧
  (∀ (s : State) (v : Word), HostMayWrite s R.linkRctl → bitOf v 0 = true → flag s R.linkRctl 2 = true →
    ∃ t, exec (.mailboxRequest v) s = .next t ∧ Refused s t R.linkRctl false) ∧
  (∀ s : State, cyclesSince s s.sys.mailAt < msCycles s 1 → exec .mailboxTimeout s = .next s) ∧
  (∀ s : State, flag s R.linkRctl 2 = true → flag s R.linkRctl 3 = false → msCycles s 1 ≤ cyclesSince s s.sys.mailAt →
    ∃ t, exec .mailboxTimeout s = .next t ∧ flag t R.linkRctl 2 = false ∧ flag t R.linkRctl 3 = true ∧ fld t R.linkRctl 5 4 = 2 ∧
      flag t R.sysIrqstat 11 = true ∧ Touches [] [R.linkRctl, R.sysIrqstat] s t) ∧
  (∀ (s : State) (i : Arrival) (l : Fin 4) (hd : LinkHeader) (err : BitVec 2) (offset data : Word), s.links.length = 4 → i.link = l →
    InOrder s i → 5 ≤ linkState s l →
    forMe s hd = true → isRoot s = true → flag s R.linkRctl 1 = false → flag s R.linkRctl 2 = true → flag s R.linkRctl 3 = false →
    ∃ t, exec (.ctl i hd 2 err offset data) s = .next t ∧ rd t R.linkRdata = data ∧ flag t R.linkRctl 2 = false ∧
      flag t R.linkRctl 3 = true ∧ fld t R.linkRctl 5 4 = err.toNat ∧ flag t R.sysIrqstat 11 = true ∧
      linkOf t l = { acked (linkOf s l) with owed := (linkOf s l).owed.modify 0 (· + 1) } ∧
      (∀ m, m ≠ l.val → linkOf t m = linkOf s m) ∧ Touches [.links] [R.linkRdata, R.linkRctl, R.sysIrqstat] s t) ∧
  (∀ (s : State) (c : Instr) (i : Arrival) (retried : Bool), arrivalOf c = some (i, retried) →
    linkState s i.link < 2 ∨ s.sys.single = true → exec c s = .next s) ∧
  (∀ (s : State) (c : Instr) (i : Arrival) (retried : Bool) (l : Fin 4), s.links.length = 4 → arrivalOf c = some (i, retried) →
    i.link = l → 2 ≤ linkState s l → s.sys.single = false → i.crcOk = false →
    ∃ t, exec c s = .next t ∧ linkOf t l = { linkOf s l with answer := some (true, ((linkOf s l).expect + 255) % 256) } ∧
      rd t (R.linkCrcerr + 0x40 * l) = rd (countUp s (R.linkCrcerr + 0x40 * l)) (R.linkCrcerr + 0x40 * l) ∧
      rd t R.linkBadpkt = rd (countUp s R.linkBadpkt) R.linkBadpkt ∧ (∀ m, m ≠ l.val → linkOf t m = linkOf s m) ∧
      Touches [.links] [R.linkCrcerr + 0x40 * l, R.linkBadpkt] s t) ∧
  (∀ (s : State) (c : Instr) (i : Arrival) (l : Fin 4) (ahead : Nat), s.links.length = 4 → arrivalOf c = some (i, true) → i.link = l →
    Sound s i → ahead = (i.seq.toNat + 256 - (linkOf s l).expect) % 256 → ahead ≠ 0 →
    ∃ t, exec c s = .next t ∧
      linkOf t l = { linkOf s l with answer := some (decide (ahead < 128), ((linkOf s l).expect + 255) % 256) } ∧
      (∀ m, m ≠ l.val → linkOf t m = linkOf s m) ∧ Touches [.links] [] s t)

/-- Frames over links (R357 to R359, R363, R368, R374 to R376). SYNC_PACKET: the first makes the link ACTIVE and sets the epoch to the
manager's instant; one that is not new only compares, and a difference above one cycle sets ALIGNERR with Gloss code 0x6140. PERIODIC_SYNC
queues SYNC on every ACTIVE downstream link. BOOT_PACKET: its bytes join the image, and with the last the device boots from it. FRM: a
worker passes the packet on down under its originator's header and runs steps 1 to 4 of the frame. UPB: a block is kept, or discarded as
announced; one whose CRC fails is counted and answered with NAK. UPB_EXPORT at S_p sends this worker's block; UPB_SOP_TIMEOUT, 40 ns before
it, sends it without the neighbour's, whom it names. WORKER_JOIN admits a worker, counted, with Gloss code 0x6110; LATE_MARK_CLEAR clears a
late mark; DEVICE_REMOVAL removes what is lost, counted, with Gloss code 0x6111, and the frames that lacked it are void. -/
def Obligations.LinkFrames : Prop :=
  (∀ (s : State) (i : Arrival) (l : Fin 4) (elapsed arrival : DWord) (new : Bool), s.links.length = 4 → i.link = l → Sound s i →
    manages s l = false → linkState s l = 5 → flag s R.linkCfg 3 = false →
    ∃ t, exec (.syncPacket i elapsed new arrival) s = .next t ∧ linkState t l = 6 ∧ t.time.epochSet = true ∧
      t.time.epoch = arrival - BitVec.ofInt 64 (rne (fld s (lstatReg l) 15 8) 16) - elapsed) ∧
  (∀ (s : State) (i : Relayed) (l : Fin 4) (offset : Word) (bytes : List Byte), s.links.length = 4 → i.link = l →
    InOrder s i.toArrival → manages s l = false → linkState s l = 5 → flag s R.linkCfg 2 = true →
    imageComplete { s with image := { s.image with
      link := ((List.range bytes.length).zip bytes).foldl (fun m e => mapPut m (offset.toNat + e.1) e.2) s.image.link } } = true →
    ∃ t, exec (.bootPacket i offset bytes) s = .next t ∧ t.image.link = [] ∧ BootOutcome t) ∧
  (∀ s : State, s.links.length = 4 → exportDue s = true → exportInstant s 0 ≤ cyclesSince s s.time.epoch →
    ∃ t, exec .upbExport s = .next t ∧ t.sys.exported = some (exportFrameOf s)) ∧
  (∀ (s : State) (l : Fin 4), s.links.length = 4 → exportDue s = true → manages s l = true → (linkOf s l).block = none →
    exportInstant s 2 ≤ cyclesSince s s.time.epoch →
    ∃ t, exec (.upbSopTimeout l) s = .next t ∧ t.sys.exported = some (exportFrameOf s)) ∧
  (∀ s : State, isRoot s = true → s.sys.lost ≠ [] →
    ∃ t, exec .deviceRemoval s = .next t ∧ t.sys.lost = [] ∧ t.sys.lossFrame = none ∧
      (∀ d ∈ t.sys.devices, ∀ e ∈ s.sys.lost, lostWith d e.1 e.2 = false)) ∧
  (∀ (s : State) (i : Arrival) (l : Fin 4) (elapsed arrival d : DWord), i.link = l → Sound s i → manages s l = false → linkState s l = 6 → flag s R.linkCfg 3 = false →
    downLinks s = [] → d = arrival - BitVec.ofInt 64 (rne (fld s (lstatReg l) 15 8) 16) - elapsed - s.time.epoch →
    1 < d.toInt.natAbs →
    ∃ t, exec (.syncPacket i elapsed false arrival) s = .next t ∧ flag t R.linkStat 0 = true ∧
      Logged 0x6140 (BitVec.ofInt 32 d.toInt) (w32 l) 0 s t ∧ Touches [.gloss] (R.linkStat :: glossRegs) s t) ∧
  (∀ (s : State) (i : Arrival) (l : Fin 4) (elapsed arrival d : DWord), i.link = l → Sound s i → manages s l = false → linkState s l = 6 → flag s R.linkCfg 3 = false →
    downLinks s = [] → d = arrival - BitVec.ofInt 64 (rne (fld s (lstatReg l) 15 8) 16) - elapsed - s.time.epoch →
    d.toInt.natAbs ≤ 1 →
    exec (.syncPacket i elapsed false arrival) s = .next s) ∧
  (∀ s : State, s.links.length = 4 → isRoot s = true → s.time.epochSet = true →
    ∃ t, exec .periodicSync s = .next t ∧
      (∀ l ∈ downLinks s, linkOf t l = { linkOf s l with
        outq := (linkOf s l).outq ++ [⟨0x08, castHd s, syncBytes s false, 0, 0⟩] }) ∧
      (∀ l, l ∉ downLinks s → linkOf t l = linkOf s l) ∧ Touches [.links] [] s t) ∧
  (∀ (s : State) (i : Relayed) (l : Fin 4) (offset : Word) (b : Byte) (img : List (Nat × Byte)), s.links.length = 4 → i.link = l →
    InOrder s i.toArrival → manages s l = false → linkState s l = 5 → flag s R.linkCfg 2 = true → (∀ k, k < 4 → isDown s k = false) → img = mapPut s.image.link offset.toNat b →
    imageComplete { s with image := { s.image with link := img } } = false →
    ∃ t, exec (.bootPacket i offset [b]) s = .next t ∧ t.image = { s.image with link := img } ∧
      linkOf t l = { acked (linkOf s l) with owed := (linkOf s l).owed.modify 2 (· + 1) } ∧ (∀ m, m ≠ l.val → linkOf t m = linkOf s m) ∧
      Touches [.image, .links] [] s t) ∧
  (∀ (s : State) (i : Relayed) (l : Fin 4) (f : FrmPayload), i.link = l → InOrder s i.toArrival → manages s l = false →
    linkState s l = 6 → isWorker s = true → s.time.rendering = true → s.time.step2 < f.frame.toNat → f.frame.toNat ≤ s.time.frame →
    ∃ t u, exec (.frm i f) s = .next t ∧ u = sendDown (tookPacket s l) 0x06 (passHd i true) (frmBytes f) ∧
      t = atFrame u f.frame.toNat (fun v => workerFrame v f.frame.toNat f) ∧ t.time.frame = s.time.frame) ∧
  (∀ (s : State) (l : Fin 4) (b : UpBlock), s.links.length = 4 → manages s l = true → linkState s l = 6 →
    (linkOf s l).skip ≠ some b.frame.toNat →
    ∃ t, exec (.upb l b true) s = .next t ∧ linkOf t l = { linkOf s l with block := some (b, true, s.time.aoTime) } ∧
      (∀ m, m ≠ l.val → linkOf t m = linkOf s m) ∧ Touches [.links] [] s t) ∧
  (∀ (s : State) (l : Fin 4) (b : UpBlock), s.links.length = 4 → manages s l = true → linkState s l = 6 →
    (linkOf s l).skip ≠ some b.frame.toNat →
    ∃ t, exec (.upb l b false) s = .next t ∧
      linkOf t l = { linkOf s l with
        block := some (b, false, s.time.aoTime), answer := some (true, ((linkOf s l).expect + 255) % 256) } ∧
      rd t (R.linkCrcerr + 0x40 * l) = rd (countUp s (R.linkCrcerr + 0x40 * l)) (R.linkCrcerr + 0x40 * l) ∧
      rd t R.linkBadpkt = rd (countUp s R.linkBadpkt) R.linkBadpkt ∧
      (∀ m, m ≠ l.val → linkOf t m = linkOf s m) ∧ Touches [.links] [R.linkCrcerr + 0x40 * l, R.linkBadpkt] s t) ∧
  (∀ (s : State) (l : Fin 4) (b : UpBlock) (ok : Bool), s.links.length = 4 → manages s l = true → linkState s l = 6 →
    (linkOf s l).skip = some b.frame.toNat →
    ∃ t, exec (.upb l b ok) s = .next t ∧ linkOf t l = { linkOf s l with skip := none } ∧
      (∀ m, m ≠ l.val → linkOf t m = linkOf s m) ∧ Touches [.links] [] s t) ∧
  (∀ (s : State) (u : Fin 4) (k : Nat), s.links.length = 4 → exportDue s = true → k = exportFrameOf s → exportCount s = 0 → s.ecc = [] →
    s.sys.wev = [] → upLink s = some u.val → downLinks s = [] → exportInstant s 0 ≤ cyclesSince s s.time.epoch →
    ∃ t, exec .upbExport s = .next t ∧ t.sys = { s.sys with exported := some k } ∧
      linkOf t u = { linkOf s u with
        outq := (linkOf s u).outq ++
          [⟨0x07, rootHd s, upbBytes ⟨w32 k, (heldVoid s k).setWidth 16, 0, [], [],
            (heldReport s k).2.map (BitVec.ofNat 16)⟩, 0, 0⟩] } ∧
      (∀ m, m ≠ u.val → linkOf t m = linkOf s m) ∧ Touches [.links, .sys] [] s t) ∧
  (∀ (s : State) (u l : Fin 4) (k : Nat), s.links.length = 4 → exportDue s = true → k = exportFrameOf s → exportCount s = 0 → s.ecc = [] →
    s.sys.wev = [] → upLink s = some u.val → downLinks s = [l.val] → l ≠ u →
    (linkOf s l).block = none → (linkOf s l).nameNext = false → exportInstant s 2 ≤ cyclesSince s s.time.epoch →
    ∃ t, exec (.upbSopTimeout l) s = .next t ∧ t.sys = { s.sys with exported := some k } ∧
      linkOf t u = { linkOf s u with
        outq := (linkOf s u).outq ++
          [⟨0x07, rootHd s, upbBytes ⟨w32 k, (heldVoid s k).setWidth 16, 1, [BitVec.ofNat 16 (peerAddr s l + 0x8000)], [],
            (heldReport s k).2.map (BitVec.ofNat 16)⟩, 0, 0⟩] } ∧
      linkOf t l = { linkOf s l with skip := some k } ∧ (∀ m, m ≠ u.val → m ≠ l.val → linkOf t m = linkOf s m) ∧
      Touches [.links, .sys] [] s t) ∧
  (∀ (s : State) (a : BitVec 14) (d : DeviceSt), isRoot s = true →
    (s.sys.devices.find? fun d => d.addr = a.toNat && d.joinReq && d.report && !d.present) = some d →
    ∃ t, exec (.workerJoin a) s = .next t ∧
      t.sys = { s.sys with devices := s.sys.devices.map fun x => if x.addr = d.addr then { x with present := true } else x } ∧
      rd t R.linkJoin = rd (countUp s R.linkJoin) R.linkJoin ∧ Logged 0x6110 (w32 d.addr) (w32 d.link) (w32 s.time.frame) s t ∧
      Touches [.sys, .gloss] (R.linkJoin :: glossRegs) s t) ∧
  (∀ (s : State) (a : BitVec 14), exec (.lateMarkClear a) s = .next { s with
    sys := { s.sys with
      devices := s.sys.devices.map fun d => if d.addr = a.toNat ∧ d.late = 1 then { d with late := 0 } else d } }) ∧
  (∀ (s : State) (gone : List DeviceSt), isRoot s = true → s.sys.lost ≠ [] → s.phrases = [] →
    s.sys.lossFrame = some (nextTake s) →
    gone = s.sys.devices.filter (fun d => s.sys.lost.any fun e => lostWith d e.1 e.2) →
    ∃ t, exec .deviceRemoval s = .next t ∧ rd t R.linkRemove = rd (countUp s R.linkRemove) R.linkRemove ∧
      t.sys = { s.sys with devices := s.sys.devices.filter (fun d => !gone.contains d), lost := [], lossFrame := none } ∧
      t.time = (voidFrame s (nextTake s) 8).time ∧
      Logged 0x6111 (w32 ((gone.map (·.addr)).foldl min 0x3FFF + gone.length * 65536)) 0 (w32 s.time.frame) s t ∧
      Touches [.sys, .gloss, .time] (R.linkRemove :: glossRegs) s t)


/-! ### Digital audio ports (R383 to R391) and the upkeep of the memories (R392 to R409) -/

/-- Digital audio ports (R384 to R388). PORT_FRAME_IN: a frame waits for its sample time, and one whose time has come is delivered, slot by
slot (that it is at once is the model's choice, log 159); NOCLK clears. One for a time that has its frame already replaces it, and on a
target is a slip: marked, counted, and for the first of a frame Gloss code 0x5300. PORT_FRAME_OUT: the port sends the words of position v,
with SAT where one saturated; a target that repeats or skips a position slips, and a controller's frames begin at whole sample times alone.
DAI_NO_CLOCK: a target port that has seen no frame begin for 2 sample periods sets NOCLK and delivers 0, with Gloss code 0x5301. A port
that is not enabled delivers and sends nothing; a frame on it still shows that the clock is back. The frame named is the one that covers
the sample time (log 130). -/
def Obligations.AudioPorts : Prop :=
  (∀ (s : State) (p : Fin 4) (slots ws : List Word) (lastBit : DWord) (u : Nat), s.dai.length = 4 → s.ecc = [] →
    (rd s R.daiIbase).toNat % 4 = 0 → domainOn s 7 = true → daiRx s p = true → slots.length = daiSlots s p →
    u = daiTime s p lastBit.toNat → u ≤ nowSample s → ws = (List.range 16).map (daiSample s p slots) →
    daiController s p = true ∨ daiTaken s p u = false ∨
      (daiNoClk s p = true ∧ ((daiOf s p).due.any fun f => daiTime s p f.1 = u) = false) →
    ∃ t, exec (.portFrameIn p slots lastBit) s = .next t ∧ PortDelivered s t p u ws (daiOf s p).slipFrame ∧
      flag t (daiReg R.daiStat p) 2 = false ∧ Touches [.dai, .mem] [daiReg R.daiStat p] s t) ∧
  (∀ (s : State) (p : Fin 4) (slots ws : List Word) (lastBit : DWord) (u : Nat), s.dai.length = 4 → s.ecc = [] →
    (rd s R.daiIbase).toNat % 4 = 0 → domainOn s 7 = true → daiRx s p = true → slots.length = daiSlots s p →
    u = daiTime s p lastBit.toNat → u ≤ nowSample s → ws = (List.range 16).map (daiSample s p slots) →
    daiController s p = false → daiNoClk s p = false → daiTaken s p u = true → (daiOf s p).slipFrame ≠ some (frameNow s) →
    ∃ t, exec (.portFrameIn p slots lastBit) s = .next t ∧ PortDelivered s t p u ws (some (frameNow s)) ∧
      flag t (daiReg R.daiStat p) 1 = true ∧
      rd t (daiReg R.daiSlip p) = rd (countUp s (daiReg R.daiSlip p)) (daiReg R.daiSlip p) ∧
      Logged 0x5300 (w32 p) 0 (w32 (frameNow s)) s t ∧
      Touches [.dai, .mem, .gloss] (daiReg R.daiStat p :: daiReg R.daiSlip p :: glossRegs) s t) ∧
  (∀ (s : State) (p : Fin 4) (slots : List Word) (lastBit : DWord) (u : Nat), s.dai.length = 4 → domainOn s 7 = true → daiRx s p = true →
    slots.length = daiSlots s p → u = daiTime s p lastBit.toNat → nowSample s < u → daiController s p = true ∨ daiTaken s p u = false →
    ∃ t, exec (.portFrameIn p slots lastBit) s = .next t ∧
      daiOf t p = { daiOf s p with
        due := ((daiOf s p).due.filter fun f => daiTime s p f.1 ≠ u) ++ [((lastBit.toNat : Int), slots)],
        lastU := if daiNoClk s p then none else (daiOf s p).lastU, edgeAt := s.time.aoTime } ∧
      flag t (daiReg R.daiStat p) 2 = false ∧ (∀ q, q ≠ p.val → daiOf t q = daiOf s q) ∧ Touches [.dai] [daiReg R.daiStat p] s t) ∧
  (∀ (s : State) (p : Fin 4) (slots : List Word) (lastBit : DWord) (u : Nat), s.dai.length = 4 → domainOn s 7 = true → daiRx s p = true →
    slots.length = daiSlots s p → u = daiTime s p lastBit.toNat → nowSample s < u → daiController s p = false → daiNoClk s p = false →
    daiTaken s p u = true → (daiOf s p).slipFrame ≠ some (frameNow s) →
    ∃ t, exec (.portFrameIn p slots lastBit) s = .next t ∧
      daiOf t p = { daiOf s p with
        due := ((daiOf s p).due.filter fun f => daiTime s p f.1 ≠ u) ++ [((lastBit.toNat : Int), slots)],
        slipFrame := some (frameNow s), edgeAt := s.time.aoTime } ∧
      flag t (daiReg R.daiStat p) 1 = true ∧
      rd t (daiReg R.daiSlip p) = rd (countUp s (daiReg R.daiSlip p)) (daiReg R.daiSlip p) ∧
      Logged 0x5300 (w32 p) 0 (w32 (frameNow s)) s t ∧ (∀ q, q ≠ p.val → daiOf t q = daiOf s q) ∧
      Touches [.dai, .gloss] (daiReg R.daiStat p :: daiReg R.daiSlip p :: glossRegs) s t) ∧
  (∀ (s : State) (p : Fin 4) (slots : List Word) (lastBit : DWord), domainOn s 7 = false ∨ slots.length ≠ daiSlots s p →
    exec (.portFrameIn p slots lastBit) s = .next s) ∧
  (∀ (s : State) (p : Fin 4) (slots : List Word) (lastBit begins : DWord) (c : Instr), s.dai.length = 4 → domainOn s 7 = true →
    daiNoClk s p = false →
    (c = .portFrameIn p slots lastBit ∧ slots.length = daiSlots s p ∧ daiRx s p = false) ∨
      (c = .portFrameOut p begins ∧ (daiTx s p = false ∨ begins.toNat < 256 ∨ (daiController s p = true ∧
        (begins.toNat % 256 ≠ 0 ∨ (daiOf s p).lastV = some (begins.toNat / 256 - 1))))) →
    ∃ t, exec c s = .next t ∧ daiOf t p = { daiOf s p with edgeAt := s.time.aoTime } ∧
      (∀ q, q ≠ p.val → daiOf t q = daiOf s q) ∧ Touches [.dai] [] s t) ∧
  (∀ (s : State) (p : Fin 4) (slots : List Word) (lastBit : DWord), s.dai.length = 4 → domainOn s 7 = true → daiRx s p = false →
    slots.length = daiSlots s p → daiNoClk s p = true →
    ∃ t, exec (.portFrameIn p slots lastBit) s = .next t ∧ flag t (daiReg R.daiStat p) 2 = false ∧
      daiOf t p = { daiOf s p with lastU := none, edgeAt := s.time.aoTime } ∧ (∀ q, q ≠ p.val → daiOf t q = daiOf s q) ∧
      Touches [.dai] [daiReg R.daiStat p] s t) ∧
  (∀ (s : State) (p : Fin 4) (begins : DWord) (v : Nat), s.dai.length = 4 → s.ecc = [] → (rd s R.daiIbase).toNat % 4 = 0 →
    (rd s R.adcIbase).toNat % 4 = 0 → domainOn s 7 = true → daiTx s p = true → begins.toNat / 256 = v + 1 → daiNoClk s p = false →
    (daiController s p = true ∧ begins.toNat % 256 = 0 ∧ (daiOf s p).lastV ≠ some v) ∨
      (daiController s p = false ∧ ∀ last, (daiOf s p).lastV = some last → v = last + 1) →
    ∃ t, exec (.portFrameOut p begins) s = .next t ∧
      daiOf t p = { daiOf s p with
        lastV := some v, sdo := (List.range (daiSlots s p)).map (portWord s p v), edgeAt := s.time.aoTime } ∧
      (∀ q, q ≠ p.val → daiOf t q = daiOf s q) ∧
      flag t (daiReg R.daiStat p) 3 = (flag s (daiReg R.daiStat p) 3 || (List.range (daiSlots s p)).any (portSaturates s p v)) ∧
      Touches [.dai] [daiReg R.daiStat p] s t) ∧
  (∀ (s : State) (p : Fin 4) (begins : DWord) (v last : Nat), s.dai.length = 4 → s.ecc = [] → (rd s R.daiIbase).toNat % 4 = 0 →
    (rd s R.adcIbase).toNat % 4 = 0 → domainOn s 7 = true → daiTx s p = true → begins.toNat / 256 = v + 1 → daiNoClk s p = false →
    daiController s p = false → (daiOf s p).lastV = some last → v ≠ last + 1 → (daiOf s p).slipFrame ≠ some (frameNow s) →
    ∃ t, exec (.portFrameOut p begins) s = .next t ∧
      daiOf t p = { daiOf s p with
        lastV := some v, sdo := (List.range (daiSlots s p)).map (portWord s p v), slipFrame := some (frameNow s),
        edgeAt := s.time.aoTime } ∧
      (∀ q, q ≠ p.val → daiOf t q = daiOf s q) ∧ flag t (daiReg R.daiStat p) 0 = true ∧
      rd t (daiReg R.daiSlip p) = rd (countUp s (daiReg R.daiSlip p)) (daiReg R.daiSlip p) ∧
      Logged 0x5300 (w32 p) 1 (w32 (frameNow s)) s t ∧
      Touches [.dai, .gloss] (daiReg R.daiStat p :: daiReg R.daiSlip p :: glossRegs) s t) ∧
  (∀ (s : State) (p : Fin 4) (begins : DWord), domainOn s 7 = false → exec (.portFrameOut p begins) s = .next s) ∧
  (∀ (s : State) (p : Fin 4), s.dai.length = 4 → domainOn s 7 = true → daiController s p = false → daiNoClk s p = false →
    2 * tclkPerSample s ≤ cyclesSince s (daiOf s p).edgeAt →
    ∃ t, exec (.daiNoClock p) s = .next t ∧ flag t (daiReg R.daiStat p) 2 = true ∧
      daiOf t p = { daiOf s p with words := List.replicate 16 0 } ∧ (∀ q, q ≠ p.val → daiOf t q = daiOf s q) ∧
      Logged 0x5301 (w32 p) (w32 (frameNow s)) 0 s t ∧ Touches [.dai, .gloss] (daiReg R.daiStat p :: glossRegs) s t) ∧
  (∀ (s : State) (p : Fin 4), domainOn s 7 = false ∨ daiController s p = true ∨ daiNoClk s p = true ∨
      cyclesSince s (daiOf s p).edgeAt < 2 * tclkPerSample s →
    exec (.daiNoClock p) s = .next s)

/-- SCRUB_WRITEBACK: the oldest corrected word that waits is written back correct, unless it has been written since (R396).
BACKGROUND_ROW_TEST: within RATE rows a frame the next row is tested; a good row keeps its words. A row that fails is mapped to the
lowest free spare, counted, with Gloss code 0x2120; without a STORE descriptor its repair record stays pending, shown by RPEND, with code
0x1310. With no spare left the row is skipped from now, with NOSPARE and code 0x2121. A row whose domain is requested off is released as
it was, and one of a Verb that is not in slot mode is asked for (R406 to R409). Neither acts before the memories have been cleared. -/
def Obligations.MemoryUpkeep : Prop :=
  (∀ (s : State) (a k : Nat) (rest : List Nat) (d : DWord), s.boot.cleared = true → s.memint.scrub = a :: rest → a % 8 = 0 →
    readWord s a = .corrected d k →
    ∃ t, exec .scrubWriteback s = .next t ∧ readWord t a = .good d ∧ (∀ b, b % 8 = 0 → b ≠ a → readWord t b = readWord s b) ∧
      t.memint = { s.memint with scrub := rest } ∧ Touches [.memint, .mem, .ecc] [] s t) ∧
  (∀ (s : State) (a : Nat) (rest : List Nat) (d : DWord), s.boot.cleared = true → s.memint.scrub = a :: rest →
    readWord s a = .good d →
    exec .scrubWriteback s = .next { s with memint := { s.memint with scrub := rest } }) ∧
  (∀ s : State, s.memint.scrub = [] ∨ s.boot.cleared = false → exec .scrubWriteback s = .next s) ∧
  (∀ (s : State) (fails : Bool) (sf : List Bool),
    fld s R.memBtctl 15 8 ≤ s.memint.begun ∨ dueRow s = none →
    exec (.backgroundRowTest fails sf) s = .next s) ∧
  (∀ (s : State) (b r : Nat) (fails : Bool) (sf : List Bool), s.memint.begun < fld s R.memBtctl 15 8 → s.ecc = [] →
    dueRow s = some (b, r) → rowHoldable s b = true → fails = false ∨ flag s R.pwrDomen (bankDomain b) = false →
    exec (.backgroundRowTest fails sf) s = .next { wr s R.memBtpos (w32 (b * 2 ^ 24 + r)) with
      memint := { s.memint with nextBank := b, nextRow := r + 1, begun := s.memint.begun + 1, held := [] } }) ∧
  (∀ (s : State) (b r v : Nat) (fails : Bool) (sf : List Bool), s.memint.begun < fld s R.memBtctl 15 8 →
    dueRow s = some (b, r) → bankVerb b = some v →
    flag s R.parserVstat (16 + v) = false →
    exec (.backgroundRowTest fails sf) s = .next { wr s R.memBtpos (w32 (b * 2 ^ 24 + r)) with
      memint := { s.memint with nextBank := b, nextRow := r, held := [(v, rowWord b r 0)] } }) ∧
  (∀ (s : State) (b r k : Nat) (spares : List Nat), s.memint.begun < fld s R.memBtctl 15 8 → s.ecc = [] → b < 72 → r < 4096 →
    dueRow s = some (b, r) → rowHoldable s b = true → flag s R.pwrDomen (bankDomain b) = true →
    freeSpares s b = k :: spares → (∀ j, j < 8 → spareHalf s b j ≠ 0x8000 + r) →
    s.nvm.desc = none → s.nvm.op = none → flag s R.pwrStat 5 = false →
    ∃ t u, exec (.backgroundRowTest true []) s = .next t ∧ rd t R.memBtpos = w32 (b * 2 ^ 24 + r) ∧ spareHalf t b k = 0x8000 + r ∧
      (∀ j, j < 8 → j ≠ k → spareHalf t b j = spareHalf s b j) ∧ rd t R.memRepairs = rd (countUp s R.memRepairs) R.memRepairs ∧
      (∃ w, liveReg t R.memStat = some w ∧ bitOf w 2 = true) ∧
      t.memint = { s.memint with
        nextBank := b, nextRow := r + 1, begun := s.memint.begun + 1, held := [], unstored := true,
        aoMap := s.memint.aoMap.filter (fun e => !(e.1 = b && e.2.1 = r)) ++ [(b, r, k)] } ∧
      Logged 0x2120 (w32 b) (w32 r) (w32 k) s u ∧ Logged 0x1310 0x10 3 0 u t ∧
      Touches [.memint, .gloss]
        (R.memBtpos :: (R.memRmap + 16 * b + 4 * (k / 2)) :: R.memRepairs :: glossRegs) s t) ∧
  (∀ (s : State) (b r : Nat), s.memint.begun < fld s R.memBtctl 15 8 → s.ecc = [] →
    dueRow s = some (b, r) → rowHoldable s b = true → flag s R.pwrDomen (bankDomain b) = true → freeSpares s b = [] →
    ∃ t, exec (.backgroundRowTest true []) s = .next t ∧ rd t R.memBtpos = w32 (b * 2 ^ 24 + r) ∧ flag t R.memStat 3 = true ∧
      t.memint = { s.memint with
        nextBank := b, nextRow := r + 1, begun := s.memint.begun + 1, held := [], skip := s.memint.skip ++ [(b, r)] } ∧
      Logged 0x2121 (w32 b) (w32 r) 0 s t ∧ Touches [.memint, .gloss] (R.memBtpos :: R.memStat :: glossRegs) s t)


/-! ### Supply, resets and device states (R440 to R458) -/

/-- Resets (R434, R443, R444). POWER_ON_RESET leaves every register and every part of the state at its reset value, but the commands
waiting, the flash, the fuses, and VIN as measured, which VINMIN takes. PIN_RESET, SOFTWARE_RESET and BROWNOUT_RESET do so too with their
cause, and keep the Gloss bank with its pointers, the AO repair map, the test port and VINMIN; below 2.70 V BROWNOUT_RESET is the power-on
reset. Two samples show each crossing (R441): one alone only shows. BROWNOUT_RESET while a store is being programmed turns off every domain
but PD0 and PD3 and defers the reset; STORE_ON_HOLDUP ends it in the reset of cause 1, which forgets the store, and leaves the other slot's
erase to the boot. How long VIN has been good for boot step 1 is counted anew from the reset (the model's choice, log 116). -/
def Obligations.ResetsRestart : Prop :=
  (∀ (s : State) (vin : BitVec 16), s.fuse.prog = none →
    ∃ t, exec (.powerOnReset vin) s = .next t ∧ fld t R.pwrVin 15 0 = vin.toNat ∧ fld t R.pwrVinmin 15 0 = vin.toNat ∧
      (∀ a, a ≠ R.pwrVin → a ≠ R.pwrVinmin → rd t a = regReset a) ∧ t.pending = s.pending ∧ t.flash = s.flash ∧ t.fuse = s.fuse ∧
      Changes [.regs, .pending, .flash, .fuse, .free] State.reset t) ∧
  (∀ (s : State) (c : Instr) (cause : Nat), s.fuse.prog = none →
    (c = .pinReset ∧ cause = 2) ∨ (c = .softwareReset ∧ cause = 3 ∧ HostMayWrite s R.pwrCmd ∧ flag s R.pwrStat 3 = false) →
    ∃ t, exec c s = .next t ∧ fld t R.pwrRstcause 1 0 = cause ∧ fld t R.pwrVin 15 0 = fld s R.pwrVin 15 0 ∧
      fld t R.pwrVinmin 15 0 = fld s R.pwrVinmin 15 0 ∧
      (∀ a, a ∉ [R.pwrVin, R.pwrVinmin, R.pwrRstcause] → rd t a = regReset a) ∧ t.pending = s.pending ∧ t.flash = s.flash ∧
      t.fuse = s.fuse ∧ t.tap = s.tap ∧
      t.memint = { aoMap := s.memint.aoMap, used := s.memint.used, unstored := s.memint.unstored } ∧
      (t.gloss.kcount = s.gloss.kcount ∧ t.gloss.rhead = s.gloss.rhead ∧ t.gloss.wrap = s.gloss.wrap ∧ t.gloss.valid = s.gloss.valid) ∧
      (∀ b, 0x015C0000 ≤ b → b < 0x01600000 → memByte t b = memByte s b) ∧
      (∀ b, b < 0x015C0000 ∨ 0x01600000 ≤ b → memByte t b = 0) ∧
      t.power = { vinGood := s.power.vinGood.map fun _ => 0 } ∧
      Changes [.regs, .mem, .ecc, .memint, .gloss, .pending, .flash, .fuse, .free, .tap, .power] State.reset t) ∧
  (∀ (s : State) (vin : BitVec 16), s.fuse.prog = none → 2700 ≤ vin.toNat ∨ 2700 ≤ lastVin s → vin.toNat < 3900 → lastVin s < 3900 →
    storeRunning s = false →
    ∃ t, exec (.brownoutReset vin) s = .next t ∧ fld t R.pwrRstcause 1 0 = 1 ∧ fld t R.pwrVin 15 0 = vin.toNat ∧
      fld t R.pwrVinmin 15 0 = min vin.toNat (fld s R.pwrVinmin 15 0) ∧ fld t R.pwrRstcause 31 16 = fld t R.pwrVinmin 15 0 ∧
      (∀ a, a ∉ [R.pwrVin, R.pwrVinmin, R.pwrRstcause] → rd t a = regReset a) ∧ t.pending = s.pending ∧ t.flash = s.flash ∧
      t.fuse = s.fuse ∧ (∀ b, 0x015C0000 ≤ b → b < 0x01600000 → memByte t b = memByte s b) ∧
      Changes [.regs, .mem, .ecc, .memint, .gloss, .pending, .flash, .fuse, .free, .tap] State.reset t) ∧
  (∀ (s : State) (vin : BitVec 16), 2700 ≤ vin.toNat ∨ 2700 ≤ lastVin s → vin.toNat < 3900 → lastVin s < 3900 → storeRunning s = true →
    ∃ t, exec (.brownoutReset vin) s = .next t ∧ t.power.vinLow = true ∧ t.nvm = s.nvm ∧ t.time.rendering = false ∧ t.phrases = [] ∧
      (∀ d ∈ [1, 2, 4, 5, 6, 7], domainOn t d = false) ∧ domainOn t 3 = domainOn s 3 ∧ t.pending = s.pending) ∧
  (∀ (s : State) (vin : BitVec 16), vin.toNat < 2700 → lastVin s < 2700 →
    ∃ t, exec (.powerOnReset vin) s = .next t ∧ exec (.brownoutReset vin) s = .next t) ∧
  (∀ (s : State) (vin : BitVec 16), 3900 ≤ vin.toNat ∨ 3900 ≤ lastVin s →
    ∃ t, exec (.brownoutReset vin) s = .next t ∧ fld t R.pwrVin 15 0 = vin.toNat ∧
      fld t R.pwrVinmin 15 0 = min vin.toNat (fld s R.pwrVinmin 15 0) ∧ t.power = sampled s vin.toNat ∧ Touches [.power] [R.pwrVin, R.pwrVinmin] s t) ∧
  (∀ (s : State) (vhold : BitVec 16) (ended : Bool) (kind slot seq : Nat) (record : List Byte) (host : Bool), s.power.vinLow = true →
    s.nvm.op = some (.store kind slot seq record host) → s.fuse.prog = none →
    ∃ t, exec (.storeOnHoldup vhold ended) s = .next t ∧ fld t R.pwrRstcause 1 0 = 1 ∧
      (∀ a, a ∉ [R.pwrVin, R.pwrVinmin, R.pwrRstcause] → rd t a = regReset a) ∧ t.nvm = {} ∧
      t.power = { vinGood := s.power.vinGood.map fun _ => 0 } ∧
      t.flash = (if ended then tornStore s kind slot record else finishStore s kind slot seq record host false).flash) ∧
  (∀ (s : State) (vhold : BitVec 16) (ended : Bool), s.power.vinLow = false ∨ storeRunning s = false →
    exec (.storeOnHoldup vhold ended) s = .next s)

/-- Supply monitoring and domains (R441, R442, R445, R449 to R452, R458). BROWNOUT_WARNING at the second sample below 4.35 V sets WARN with
Gloss code 0x0100; WARNING_RECOVERY at the second above 4.45 V clears it with code 0x0101; both raise the interrupt, asleep too, where no
code is written. BROWNOUT_MUTE, once WARN has lasted BOWAIT milliseconds, sets MUTED with code 0x0102. VHOLD_SHORT while the charger runs
sets VHOLDF with code 0x0103, and OK reads 0; at a voltage within 2 % of 15 V VHOLDF clears (the model's choice, log 141).
VINMIN_CLEAR: VINMIN takes VIN. DOMAIN_ENABLE: the request stands for the next boundary; one that clears PD3 or PD4, or that needs PD3
while it is off, is refused. PAD_RELEASE releases the domains asked for; one that is off or not latched is refused. -/
def Obligations.SupplyMonitored : Prop :=
  (∀ (s : State) (vin : BitVec 16), vin.toNat < 4350 → lastVin s < 4350 → flag s R.pwrStat 5 = false → asleep s = false →
    glossStoreOn s = false →
    ∃ t, exec (.brownoutWarning vin) s = .next t ∧ flag t R.pwrStat 5 = true ∧ flag t R.sysIrqstat 9 = true ∧
      fld t R.pwrVin 15 0 = vin.toNat ∧ fld t R.pwrVinmin 15 0 = min vin.toNat (fld s R.pwrVinmin 15 0) ∧
      t.power = { s.power with warnAt := some s.time.aoTime, warnFrame := s.time.frame, warnLow := vin.toNat, vinGood := none } ∧
      Logged 0x0100 (w32 vin.toNat) (w32 s.time.frame) 0 { s with gloss := { s.gloss with storedThisWarning := false } } t ∧
      Touches [.power, .gloss] (R.pwrVin :: R.pwrVinmin :: R.pwrStat :: R.sysIrqstat :: glossRegs) s t) ∧
  (∀ (s : State) (vin : BitVec 16), vin.toNat < 4350 → lastVin s < 4350 → flag s R.pwrStat 5 = false → asleep s = true →
    ∃ t, exec (.brownoutWarning vin) s = .next t ∧ flag t R.pwrStat 5 = true ∧ flag t R.sysIrqstat 9 = true ∧
      t.power = { s.power with warnAt := some s.time.aoTime, warnFrame := s.time.frame, warnLow := vin.toNat, vinGood := none } ∧
      t.gloss = { s.gloss with storedThisWarning := false } ∧
      Touches [.power, .gloss] [R.pwrVin, R.pwrVinmin, R.pwrStat, R.sysIrqstat] s t) ∧
  (∀ (s : State) (vin : BitVec 16), 4350 ≤ vin.toNat ∨ 4350 ≤ lastVin s ∨ flag s R.pwrStat 5 = true →
    ∃ t, exec (.brownoutWarning vin) s = .next t ∧ fld t R.pwrVin 15 0 = vin.toNat ∧
      fld t R.pwrVinmin 15 0 = min vin.toNat (fld s R.pwrVinmin 15 0) ∧ t.power = sampled s vin.toNat ∧ Touches [.power] [R.pwrVin, R.pwrVinmin] s t) ∧
  (∀ (s : State) (vin : BitVec 16), 4450 < vin.toNat → 4450 < lastVin s → flag s R.pwrStat 5 = true → asleep s = false →
    s.evt.queue = [] →
    ∃ t, exec (.warningRecovery vin) s = .next t ∧ flag t R.pwrStat 5 = false ∧ flag t R.pwrStat 6 = false ∧
      flag t R.sysIrqstat 9 = true ∧ t.power = { sampled s vin.toNat with muted := false, warnAt := none } ∧
      Logged 0x0101 (w32 (min s.power.warnLow vin.toNat)) (w32 (s.time.frame - s.power.warnFrame)) 0 s t ∧
      Touches [.power, .gloss] (R.pwrVin :: R.pwrVinmin :: R.pwrStat :: R.sysIrqstat :: glossRegs) s t) ∧
  (∀ (s : State) (vin : BitVec 16), vin.toNat ≤ 4450 ∨ lastVin s ≤ 4450 ∨ flag s R.pwrStat 5 = false → asleep s = false →
    ∃ t, exec (.warningRecovery vin) s = .next t ∧ fld t R.pwrVin 15 0 = vin.toNat ∧
      t.power = sampled s vin.toNat ∧ Touches [.power] [R.pwrVin, R.pwrVinmin] s t) ∧
  (∀ (s : State) (vin : BitVec 16), 4450 < vin.toNat → 4450 < lastVin s → flag s R.pwrStat 5 = true → asleep s = true →
    NoWake s →
    ∃ t, exec (.warningRecovery vin) s = .next t ∧ flag t R.pwrStat 5 = false ∧ flag t R.sysIrqstat 9 = true ∧
      t.power = { sampled s vin.toNat with muted := false, warnAt := none } ∧
      Touches [.power] [R.pwrVin, R.pwrVinmin, R.pwrStat, R.sysIrqstat] s t) ∧
  (∀ (s : State) (t0 : DWord), s.power.warnAt = some t0 → s.power.muted = false → asleep s = false →
    t0.toNat + msCycles s (fld s R.pwrBowait 9 0) ≤ s.time.aoTime.toNat →
    ∃ t, exec .brownoutMute s = .next t ∧ flag t R.pwrStat 6 = true ∧ t.power = { s.power with muted := true } ∧
      Logged 0x0102 (w32 s.time.frame) (w32 (fld s R.pwrVin 15 0)) 0 s t ∧ Touches [.power, .gloss] (R.pwrStat :: glossRegs) s t) ∧
  (∀ s : State, s.power.warnAt = none ∨ s.power.muted = true ∨ asleep s = true ∨
      (∃ t0, s.power.warnAt = some t0 ∧ s.time.aoTime.toNat < t0.toNat + msCycles s (fld s R.pwrBowait 9 0)) →
    exec .brownoutMute s = .next s) ∧
  (∀ (s : State) (mv : BitVec 16), s.boot.ready = true → asleep s = false → 14700 ≤ mv.toNat → mv.toNat ≤ 15300 →
    ∃ t, exec (.vholdShort mv) s = .next t ∧ flag t R.pwrHold 9 = false ∧
      t.power = { s.power with vhold := mv.toNat } ∧ Touches [.power] [R.pwrHold] s t) ∧
  (∀ (s : State) (mv : BitVec 16), s.boot.ready = false ∨ asleep s = true → exec (.vholdShort mv) s = .next s) ∧
  (∀ (s : State) (mv : BitVec 16), s.boot.ready = true → asleep s = false → mv.toNat < 14700 ∨ 15300 < mv.toNat →
    ∃ t, exec (.vholdShort mv) s = .next t ∧ flag t R.pwrHold 9 = true ∧
      (∃ w, liveReg t R.pwrHold = some w ∧ bitOf w 8 = false) ∧
      t.power = { s.power with vhold := mv.toNat } ∧ Logged 0x0103 (w32 mv.toNat) 0 0 s t ∧
      Touches [.power, .gloss] (R.pwrHold :: glossRegs) s t) ∧
  (∀ s : State, HostMayWrite s R.pwrVinmin →
    ∃ t, exec .vinminClear s = .next t ∧ fld t R.pwrVinmin 15 0 = fld s R.pwrVin 15 0 ∧ Touches [] [R.pwrVinmin] s t) ∧
  (∀ (s : State) (v : Word), HostMayWrite s R.pwrDomen → bitOf v 3 = true → bitOf v 4 = true → s.boot.complete = true →
    s.power.entry = none → domainOn s 3 = true →
    ∃ t, exec (.domainEnable v) s = .next t ∧ fld t R.pwrDomen 7 1 = bits v 7 1 ∧
      t.power = { s.power with offReq := if bitOf v 5 || !domainOn s 5 then 0 else 0x20 } ∧ Touches [.power] [R.pwrDomen] s t) ∧
  (∀ (s : State) (v : Word), HostMayWrite s R.pwrDomen →
    bitOf v 3 = false ∨ bitOf v 4 = false ∨ (domainOn s 3 = false ∧ ∃ d ∈ [1, 2, 4, 5, 6, 7], bitOf v d = true ∧ domainOn s d = false) →
    ∃ t, exec (.domainEnable v) s = .next t ∧ Refused s t R.pwrDomen false) ∧
  (∀ (s : State) (v : Word), HostMayWrite s R.pwrPadrel → bitOf v 5 = false →
    (∀ d ∈ [3, 7], bitOf v d = true → domainOn s d = true ∧ flag s R.pwrDomstat (8 + d) = true) →
    ∃ t, exec (.padRelease v) s = .next t ∧
      (∀ i, i < 32 → flag t R.pwrDomstat i = (flag s R.pwrDomstat i && !((i = 11 && bitOf v 3) || (i = 15 && bitOf v 7)))) ∧
      Touches [] [R.pwrDomstat] s t) ∧
  (∀ (s : State) (v : Word) (d : Nat), HostMayWrite s R.pwrPadrel → d ∈ [3, 5, 7] → bitOf v d = true →
    domainOn s d = false ∨ flag s R.pwrDomstat (8 + d) = false →
    ∃ t, exec (.padRelease v) s = .next t ∧ Refused s t R.pwrPadrel false)

/-- Device states (R446 to R448, R453 to R455), of a device that has booted. RUN from QUIET, QUIET from RUN with every output quiet, and
SLEEP and OFF set BUSY and wait; another request, or one while BUSY or before the boot has ended, is refused, and QUIET with an output that
is not quiet sets NQUIET. ENTRY_COMPLETE, once every output is parked, reaches SLEEP or OFF: every domain but PD0 off, on the AO
oscillator, with the interrupt. WAKE_EVENT in RUN and QUIET does nothing but follow the ball; the enabled sources of one cycle are latched
while the entry lasts or WARN is 1, and start the wake in SLEEP and OFF, which ends as a boot does; behind a failed boot step 2 or 3 they
have the boot tried again (R455). WAKE_STEP_TIMEOUT at W2, W3 or W4 is retried three times; the fourth at W2 or W4 sets FAIL with Gloss
code 0x0121. -/
def Obligations.DeviceStates : Prop :=
  (∀ s : State, HostMayWrite s R.pwrCmd → flag s R.pwrStat 3 = false → devState s = 1 → s.boot.complete = true →
    ∃ t, exec .run s = .next t ∧ flag t R.pwrStat 3 = true ∧ t.power = { s.power with want := 2 } ∧ Touches [.power] [R.pwrStat] s t) ∧
  (∀ s : State, tapHolds s = false → domainOn s (pageDomain R.pwrCmd) = true → flag s R.pwrStat 3 = false → asleep s = true →
    flag s R.pwrWakeen 0 = true → flag s R.pwrStat 5 = true → s.power.waking = false →
    ∃ t, exec .run s = .next t ∧ t.power = latched s 1 ∧ Touches [.power] [] s t) ∧
  (∀ s : State, HostMayWrite s R.pwrCmd → flag s R.pwrStat 3 = false → devState s = 0 → s.boot.complete = true → quietReady s = true →
    ∃ t, exec .quiet s = .next t ∧ flag t R.pwrStat 3 = true ∧ t.power = { s.power with want := 1 } ∧ Touches [.power] [R.pwrStat] s t) ∧
  (∀ s : State, HostMayWrite s R.pwrCmd → flag s R.pwrStat 3 = false → devState s = 0 → s.boot.complete = true → quietReady s = false →
    ∃ t, exec .quiet s = .next t ∧ rd t R.pwrStat = setBits (rd s R.pwrStat) 8 8 1 ∧ rd t R.pwrErr = errAfter s R.pwrCmd false ∧
      Touches [.host] [R.pwrStat, R.pwrErr] s t) ∧
  (∀ (s : State) (c : Instr) (r : Nat), HostMayWrite s R.pwrCmd → flag s R.pwrStat 3 = false → s.boot.complete = true →
    (c = .sleep ∧ r = 2) ∨ (c = .off ∧ r = 3) →
    ∃ t, exec c s = .next t ∧ flag t R.pwrStat 3 = true ∧
      t.power = { s.power with entry := some r, offReq := s.power.offReq ||| 0x20 } ∧ Touches [.power] [R.pwrStat] s t) ∧
  (∀ (s : State) (c : Instr), HostMayWrite s R.pwrCmd →
    (c = .run ∧ devState s = 0) ∨ (c = .quiet ∧ devState s = 1) ∨
      (s.boot.complete = false ∧ (c = .run ∨ c = .quiet ∨ c = .sleep ∨ c = .off)) ∨
      (flag s R.pwrStat 3 = true ∧ (c = .run ∨ c = .quiet ∨ c = .sleep ∨ c = .off ∨ c = .softwareReset)) →
    ∃ t, exec c s = .next t ∧ Refused s t R.pwrCmd false) ∧
  (∀ (s : State) (target : Nat), s.power.entry = some target → target = 2 ∨ target = 3 → allParked s = true →
    s.time.rendering = false → NoWake s →
    ∃ t, exec .entryComplete s = .next t ∧ devState t = target ∧ flag t R.pwrStat 3 = false ∧ flag t R.sysIrqstat 9 = true ∧
      (∀ d, 1 ≤ d → d ≤ 7 → domainOn t d = false) ∧
      t.power.entry = none ∧ t.power.offReq = 0 ∧ t.power.domains = BitVec.ofNat 8 (fld s R.pwrDomen 7 0) ∧ flag t R.pwrHold 9 = false ∧
      t.time.onAo = true ∧ flag t R.clkStat 6 = false ∧ t.time.epochSet = false ∧ t.boot.complete = false ∧ t.flash = s.flash ∧ t.fuse = s.fuse) ∧
  (∀ s : State, s.power.entry = none ∨ allParked s = false ∨ s.time.rendering = true → NoWake s → exec .entryComplete s = .next s) ∧
  (∀ (s : State) (sources : BitVec 24) (fails : BitVec 16), asleep s = false → s.power.entry = none →
    exec (.wakeEvent sources fails) s = .next { s with pins := { s.pins with wake := s.pins.wake ^^ sources.getLsbD 1 } }) ∧
  (∀ (s : State) (sources : BitVec 24) (fails : BitVec 16), (asleep s = false ∧ s.power.entry.isSome = true) ∨
      (asleep s = true ∧ flag s R.pwrStat 5 = true ∧ s.power.waking = false) →
    exec (.wakeEvent sources fails) s = .next { s with
      pins := { s.pins with wake := s.pins.wake ^^ sources.getLsbD 1 }, power := latched s (wokenBy s sources) }) ∧
  (∀ (s : State) (sources : BitVec 24) (fails : BitVec 16), asleep s = true → tapHolds s = false → flag s R.pwrStat 5 = false →
    s.boot.supplyFailed = false → NoWake s → wokenBy s sources ≠ 0 →
    ∃ t, exec (.wakeEvent sources fails) s = .next t ∧ BootOutcome t) ∧
  (∀ (s : State) (sources : BitVec 24) (fails : BitVec 16), asleep s = true → tapHolds s = false → flag s R.pwrStat 5 = false →
    s.boot.supplyFailed = true → NoWake s → wokenBy s sources &&& 3 ≠ 0 →
    ∃ t, exec (.wakeEvent sources fails) s = .next t ∧ t.boot.ready = false ∧ t.boot.supplyFailed = false ∧ devState t = 0 ∧ NoWake t ∧
      rd t R.pwrWakesrc = w32 (wokenBy s sources).toNat) ∧
  (∀ (s : State) (step : WakeStep) (a b c : Nat), asleep s = true → tapHolds s = false → s.boot.supplyFailed = false →
    flag s R.pwrStat 5 = false ∨ s.power.waking = true →
    (step = .bucks ∧ s.power.retries = (a - 1, b, c) ∧ 1 ≤ a ∧ a ≤ 3) ∨
      (step = .crystal ∧ flag s R.clkCtrl 4 = true ∧ s.power.retries = (a, b - 1, c) ∧ 1 ≤ b ∧ b ≤ 3) ∨
      (step = .pll ∧ s.power.retries = (a, b, c - 1) ∧ 1 ≤ c ∧ c ≤ 3) →
    exec (.wakeStepTimeout step) s = .next { s with power := { s.power with waking := true, retries := (a, b, c) } }) ∧
  (∀ (s : State) (step : WakeStep) (n : Nat), asleep s = true → tapHolds s = false → s.boot.supplyFailed = false →
    flag s R.pwrStat 5 = false ∨ s.power.waking = true →
    (step = .bucks ∧ n = 2 ∧ 3 ≤ s.power.retries.1) ∨ (step = .pll ∧ n = 4 ∧ 3 ≤ s.power.retries.2.2) →
    ∃ t, exec (.wakeStepTimeout step) s = .next t ∧ rd t R.pwrFail = w32 (0x80000004 + 16 * n) ∧
      rd t R.pwrWakesrc = w32 s.power.wakeLatch.toNat ∧ flag t R.pwrStat 7 = true ∧ flag t R.sysIrqstat 9 = true ∧
      t.power = { s.power with wakeLatch := 0, failed := true, waking := false, retries := (0, 0, 0) } ∧ Logged 0x0121 (w32 n) 4 (w32 s.power.wakeLatch.toNat) s t ∧
      Touches [.power, .gloss] (R.pwrFail :: R.pwrWakesrc :: R.pwrStat :: R.sysIrqstat :: glossRegs) s t) ∧
  (∀ (s : State) (step : WakeStep), asleep s = false ∨ tapHolds s = true ∨ s.boot.supplyFailed = true ∨
      (flag s R.pwrStat 5 = true ∧ s.power.waking = false) ∨ (step = .crystal ∧ flag s R.clkCtrl 4 = false) →
    exec (.wakeStepTimeout step) s = .next s)


/-! ### Boot, reload and the program of a Verb domain (R416 to R445, R455) -/

/-- The boot sequence and what runs it again. BOOT_SEQUENCE, and BOOT_TIMEOUT of a step behind step 3: the device ends in step 13 with
rendering on and the interrupt, or in the boot-failure state, unless its DEVICE or WAKE list resets it (R416, R419). A flash that does not
answer, or not in time, leaves it in the boot-failure state with the step and the reason in NVM.BOOT (R415). BOOT_TIMEOUT of step 2 or 3
leaves it in OFF with FAIL set and the step (R455). Neither does anything once a boot has ended. RELOAD with a wrong value is refused; the
right one begins the BOOT cause and waits until the outputs are parked and no store runs, and a time-out then is its step's (R435,
R436). VERB_PROGRAM_LOAD: each Verb of a domain that has come on takes the program of the other domain's lowest Verb and is present
(R445). -/
def Obligations.BootRuns : Prop :=
  (∀ (s : State) (c : Instr), bootPending s = true →
    (∃ fails x44, c = .bootSequence fails x44) ∨ (∃ step x44, c = .bootTimeout step x44 ∧ step ≠ .alwaysOn ∧ step ≠ .regulators) →
    ∃ t, exec c s = .next t ∧ BootOutcome t ∧ (t.boot.complete = true → t.time.epochSet = false ∧ flag t R.sysIrqstat 8 = true)) ∧
  (∀ (s : State) (fails : BitVec 16) (x44 : Bool), bootPending s = true → s.flash.responds = false → flag s R.linkCfg 2 = false →
    ∃ t, exec (.bootSequence fails x44) s = .next t ∧ rd t R.nvmBoot = 0x80000050 ∧
      (s.boot.ready = false → flag t R.clkStat 3 = x44) ∧ (∀ d ∈ [1, 2, 4, 5, 6, 7], domainOn t d = false) ∧
      t.boot = { s.boot with ready := true, complete := false, interruptMode := false } ∧ flag t R.sysIrqstat 8 = true ∧
      t.time = { s.time with familyOpen := s.boot.ready && s.time.familyOpen } ∧ t.flash = s.flash ∧ t.fuse = s.fuse) ∧
  (∀ (s : State) (x44 : Bool), bootPending s = true → flag s R.linkCfg 2 = false →
    ∃ t, exec (.bootTimeout .discovery x44) s = .next t ∧ rd t R.nvmBoot = 0x80010050 ∧
      (∀ d ∈ [1, 2, 4, 5, 6, 7], domainOn t d = false) ∧
      t.boot = { s.boot with ready := true, complete := false, interruptMode := false } ∧ flag t R.sysIrqstat 8 = true ∧
      t.time = { s.time with familyOpen := s.boot.ready && s.time.familyOpen } ∧ t.flash = s.flash ∧ t.fuse = s.fuse) ∧
  (∀ (s : State) (step : BootStep) (n : Nat) (x44 : Bool), bootPending s = true → s.boot.ready = false →
    (step = .alwaysOn ∧ n = 2) ∨ (step = .regulators ∧ n = 3) →
    ∃ t, exec (.bootTimeout step x44) s = .next t ∧ devState t = 3 ∧ rd t R.pwrFail = w32 (0x80000004 + 16 * n) ∧ flag t R.pwrStat 7 = true ∧
      (∀ d, 1 ≤ d → d ≤ 7 → domainOn t d = false) ∧ t.power = { s.power with failed := true, domains := 0xFF } ∧
      flag t R.sysIrqstat 9 = true ∧ t.boot = { s.boot with ready := true, supplyFailed := true } ∧ t.time = s.time ∧
      t.flash = s.flash ∧ t.fuse = s.fuse) ∧
  (∀ (s : State) (step : BootStep) (x44 : Bool), s.boot.ready = true → s.boot.reloading = false → step = .alwaysOn ∨ step = .regulators →
    exec (.bootTimeout step x44) s = .next s) ∧
  (∀ (s : State) (fails : BitVec 16) (step : BootStep) (x44 : Bool), bootPending s = false →
    exec (.bootSequence fails x44) s = .next s ∧
      exec (.bootTimeout step x44) s = .next (if s.boot.reloading then
        { s with boot := { s.boot with reloadOut := step :: s.boot.reloadOut } } else s)) ∧
  (∀ (s : State) (v : Word), HostMayWrite s R.nvmReload → v ≠ 0xA5C3 →
    ∃ t, exec (.reload v) s = .next t ∧ Refused s t R.nvmReload true) ∧
  (∀ s : State, HostMayWrite s R.nvmReload → s.boot.ready = true → s.boot.reloading = false →
    ∃ t, exec (.reload 0xA5C3) s = .next t ∧ t.boot = { s.boot with complete := false, reloading := true, reloadOut := [] } ∧
      Touches [.boot] [] s t) ∧
  (∀ s : State, HostMayWrite s R.nvmReload → s.boot.reloading = true →
    ∃ t, exec (.reload 0xA5C3) s = .next t ∧ Touches [] [] s t) ∧
  (∀ (s : State) (verbB : Bool) (d : Nat), d = (if verbB then 2 else 1) → domainOn s 1 = true → domainOn s 2 = true →
    (∀ v ∈ domainVerbs d, (verbOf s v).absent = true) → s.boot.complete = true → s.verbs.length = 16 → s.ecc = [] →
    ∃ t, exec (.verbProgramLoad verbB) s = .next t ∧
      (∀ v ∈ domainVerbs d, verbOf t v = { verbOf s v with absent := false }) ∧ (∀ v, v ∉ domainVerbs d → verbOf t v = verbOf s v) ∧
      (∀ v ∈ domainVerbs d, ∀ i, i < 65536 → memByte t (verbBase v + i) = memByte s (verbBase (8 * (2 - d)) + i)) ∧
      (∀ b, (∀ v ∈ domainVerbs d, b < verbBase v ∨ verbBase v + 65536 ≤ b) → memByte t b = memByte s b) ∧
      Touches [.verbs, .mem] [] s t) ∧
  (∀ (s : State) (verbB : Bool) (d : Nat), d = (if verbB then 2 else 1) →
    domainOn s d = false ∨ (∃ v ∈ domainVerbs d, (verbOf s v).absent = false) ∨ s.boot.complete = false →
    exec (.verbProgramLoad verbB) s = .next s)

/-! ### Non-volatile store (R430 to R438) -/

/-- Stores and the flash. STORE (R432 to R435): a store that passes its checks is accepted, for the slot that does not hold the newest
record, with the next sequence number, and DONE clears; a refused one gives its result in SSTAT (LOWVIN under a warning, whatever runs:
R449), DONE, the interrupt and Gloss code 0x1310, and shows HOLDUP where the energy was checked; a kind outside 1 to 15 is an undefined
encoding. NEWEST_RECORD_READ (R438) puts the newest record into SBUF, with its length, or gives result 7 or 1. STORE_COMMIT (R432): the
record stands in its slot and is valid, the other slot is erased, and no other byte of the flash changes. -/
def Obligations.StoreRecords : Prop :=
  (∀ (s : State) (kind : Byte) (len : BitVec 13) (d : StoreDesc) (a size slot seq : Nat), HostMayWrite s R.nvmScmd →
    1 ≤ kind.toNat → kind.toNat ≤ 15 → s.nvm.op = none → flag s R.pwrStat 5 = false → s.nvm.desc = some d →
    slotPlace d kind.toNat 0 = some (a, size) → 32 + len.toNat ≤ size → len.toNat ≤ 4096 →
    3 * storeEnergy d len.toNat ≤ 2 * holdupEnergy d s.power.vhold →
    (slot, seq) = (match newestRecord s kind.toNat with | some (k, q, _) => (1 - k, (q + 1) % 2 ^ 32) | none => (0, 1)) →
    ∃ t, exec (.store kind len) s = .next t ∧ flag t R.nvmSstat 30 = true ∧ flag t R.nvmSstat 31 = false ∧
      t.nvm = { s.nvm with op := some (.store kind.toNat slot seq (recordBytes kind.toNat seq (sbufBytes s len.toNat)) true) } ∧
      fld t R.nvmHoldup 15 0 = s.power.vhold % 65536 ∧ Touches [.nvm] [R.nvmSstat, R.nvmHoldup] s t) ∧
  (∀ (s : State) (kind : Byte) (len : BitVec 13) (r : Nat) (e : Word), HostMayWrite s R.nvmScmd → 1 ≤ kind.toNat → kind.toNat ≤ 15 →
    (r = 1 ∧ s.nvm.op.isSome = true ∧ flag s R.pwrStat 5 = false) ∨ (r = 2 ∧ flag s R.pwrStat 5 = true) ∨
      (r = 3 ∧ s.nvm.op = none ∧ flag s R.pwrStat 5 = false ∧ ∀ d, s.nvm.desc = some d → slotPlace d kind.toNat 0 = none) ∨
      (r = 4 ∧ s.nvm.op = none ∧ flag s R.pwrStat 5 = false ∧ ∃ d a size, s.nvm.desc = some d ∧
        slotPlace d kind.toNat 0 = some (a, size) ∧ (size < 32 + len.toNat ∨ 4096 < len.toNat)) →
    e = w32 (match s.nvm.desc with | some d => holdupEnergy d s.power.vhold | none => 0) → flag s R.nvmSstat 31 = false →
    ∃ t, exec (.store kind len) s = .next t ∧ fld t R.nvmSstat 23 20 = r ∧ flag t R.nvmSstat 31 = true ∧
      flag t R.sysIrqstat 10 = true ∧ Logged 0x1310 (w32 kind.toNat) (w32 r) e s t ∧
      Touches [.gloss] (R.nvmSstat :: R.sysIrqstat :: glossRegs) s t) ∧
  (∀ (s : State) (kind : Byte) (len : BitVec 13) (d : StoreDesc) (a size : Nat), HostMayWrite s R.nvmScmd →
    1 ≤ kind.toNat → kind.toNat ≤ 15 → s.nvm.op = none → flag s R.pwrStat 5 = false → s.nvm.desc = some d →
    slotPlace d kind.toNat 0 = some (a, size) → 32 + len.toNat ≤ size → len.toNat ≤ 4096 →
    2 * holdupEnergy d s.power.vhold < 3 * storeEnergy d len.toNat → flag s R.nvmSstat 31 = false →
    ∃ t, exec (.store kind len) s = .next t ∧ fld t R.nvmSstat 23 20 = 5 ∧ flag t R.nvmSstat 31 = true ∧
      fld t R.nvmHoldup 15 0 = s.power.vhold % 65536 ∧ flag t R.sysIrqstat 10 = true ∧
      Logged 0x1310 (w32 kind.toNat) 5 (w32 (holdupEnergy d s.power.vhold)) s t ∧
      Touches [.gloss] (R.nvmSstat :: R.nvmHoldup :: R.sysIrqstat :: glossRegs) s t) ∧
  (∀ (s : State) (kind : Byte) (len : BitVec 13) (c : Instr), HostMayWrite s R.nvmScmd → kind.toNat = 0 ∨ 15 < kind.toNat →
    c = .store kind len ∨ c = .newestRecordRead kind →
    ∃ t, exec c s = .next t ∧ Refused s t R.nvmScmd true) ∧
  (∀ (s : State) (kind : Byte) (k q : Nat) (p : List Byte), HostMayWrite s R.nvmScmd → 1 ≤ kind.toNat → kind.toNat ≤ 15 →
    s.nvm.op = none → newestRecord s kind.toNat = some (k, q, p) → p.length ≤ 4096 → flag s R.nvmSstat 31 = false →
    ∃ t, exec (.newestRecordRead kind) s = .next t ∧ sbufBytes t p.length = p ∧ fld t R.nvmSstat 12 0 = p.length ∧
      fld t R.nvmSstat 23 20 = 0 ∧ flag t R.nvmSstat 31 = true ∧ flag t R.sysIrqstat 10 = true ∧
      Touches [] (R.nvmSstat :: R.sysIrqstat :: (List.range 1024).map (R.nvmSbuf + 4 * ·)) s t) ∧
  (∀ (s : State) (kind : Byte) (r : Nat), HostMayWrite s R.nvmScmd → 1 ≤ kind.toNat → kind.toNat ≤ 15 →
    (r = 1 ∧ s.nvm.op.isSome = true) ∨ (r = 7 ∧ s.nvm.op = none ∧ newestRecord s kind.toNat = none) →
    ∃ t, exec (.newestRecordRead kind) s = .next t ∧ fld t R.nvmSstat 23 20 = r ∧ flag t R.nvmSstat 31 = true ∧
      Touches [] [R.nvmSstat, R.sysIrqstat] s t) ∧
  (∀ (s : State) (kind slot seq : Nat) (payload : List Byte) (d : StoreDesc) (a b size : Nat),
    s.nvm.op = some (.store kind slot seq (recordBytes kind seq payload) true) → s.power.vinLow = false → s.gloss.storeWaits = false →
    streamDue s = false → s.nvm.desc = some d → slotPlace d kind slot = some (a, size) → slotPlace d kind (1 - slot) = some (b, size) →
    slot ≤ 1 → a + size ≤ b ∨ b + size ≤ a → kind ≤ 15 → seq < 2 ^ 32 → 32 + payload.length ≤ size → payload.length < 2 ^ 32 →
    (∀ i, i < size → flashByte s (a + i) = 0xFF) → flag s R.nvmSstat 31 = false →
    ∃ t, exec .storeCommit s = .next t ∧ slotRecord t kind slot = some (seq, payload) ∧ (∀ i, i < size → flashByte t (b + i) = 0xFF) ∧
      (∀ x, (x < a ∨ a + size ≤ x) → (x < b ∨ b + size ≤ x) → flashByte t x = flashByte s x) ∧ t.nvm = { s.nvm with op := none } ∧
      flag t R.nvmSstat 30 = false ∧ fld t R.nvmSstat 23 20 = 0 ∧ flag t R.nvmSstat 31 = true ∧ flag t R.sysIrqstat 10 = true ∧
      Touches [.nvm, .flash] [R.nvmSstat, R.sysIrqstat] s t) ∧
  (∀ s : State, storeRunning s = false ∨ s.power.vinLow = true ∨ streamDue s = true → exec .storeCommit s = .next s)

/-- Direct access and streaming. FLASH_READ, FLASH_PROGRAM and FLASH_ERASE (R437) start at FADDR; a misaligned address, one in the store
area, or a store or operation under way refuses them. FLASH_OPERATION_DONE: a read fills SBUF; a program clears the bits that SBUF has
clear (log 18) and an erase leaves the block blank, and nothing else of the flash changes; DONE is set with the interrupt; it waits behind a
store and a streamed block. STREAM_FETCH (R428): the blocks that the most urgent stream lacks come into the pool, as many as it has
places, each in its place of memory as the flash holds it (which stream is most urgent: log 19). -/
def Obligations.FlashAccess : Prop :=
  (∀ (s : State) (c : Instr) (op size : Nat), HostMayWrite s R.nvmFcmd →
    (c = .flashRead ∧ op = 1 ∧ size = 256) ∨ (c = .flashProgram ∧ op = 2 ∧ size = 256) ∨ (c = .flashErase ∧ op = 3 ∧ size = 4096) →
    (rd s R.nvmFaddr).toNat % size = 0 → inStoreArea s (rd s R.nvmFaddr).toNat size = false → s.nvm.op = none →
    s.nvm.direct = none →
    ∃ t, exec c s = .next t ∧ t.nvm = { s.nvm with direct := some (op, (rd s R.nvmFaddr).toNat) } ∧ Touches [.nvm] [] s t) ∧
  (∀ (s : State) (c : Instr) (size : Nat), HostMayWrite s R.nvmFcmd →
    (c = .flashRead ∧ size = 256) ∨ (c = .flashProgram ∧ size = 256) ∨ (c = .flashErase ∧ size = 4096) →
    (rd s R.nvmFaddr).toNat % size ≠ 0 ∨ inStoreArea s (rd s R.nvmFaddr).toNat size = true ∨ s.nvm.op.isSome = true ∨
      s.nvm.direct.isSome = true →
    ∃ t, exec c s = .next t ∧ Refused s t R.nvmFcmd false) ∧
  (∀ (s : State) (a : Nat), s.nvm.op = none → s.nvm.direct = some (1, a) → streamDue s = false → flag s R.nvmFcmd 31 = false →
    ∃ t, exec .flashOperationDone s = .next t ∧ sbufBytes t 256 = flashBytes s a 256 ∧ t.nvm = { s.nvm with direct := none } ∧
      flag t R.nvmFcmd 31 = true ∧ flag t R.sysIrqstat 10 = true ∧
      Touches [.nvm] (R.nvmFcmd :: R.sysIrqstat :: (List.range 64).map (R.nvmSbuf + 4 * ·)) s t) ∧
  (∀ (s : State) (a : Nat), s.nvm.op = none → s.nvm.direct = some (2, a) → streamDue s = false → a < flashSize s →
    flag s R.nvmFcmd 31 = false →
    ∃ t, exec .flashOperationDone s = .next t ∧
      (∀ i, i < 256 → flashByte t (a + i) = flashByte s (a + i) &&& nth (sbufBytes s 256) i 0) ∧
      (∀ x, x < a ∨ a + 256 ≤ x → flashByte t x = flashByte s x) ∧ t.nvm = { s.nvm with direct := none } ∧
      flag t R.nvmFcmd 31 = true ∧ flag t R.sysIrqstat 10 = true ∧ Touches [.nvm, .flash] [R.nvmFcmd, R.sysIrqstat] s t) ∧
  (∀ (s : State) (a : Nat), s.nvm.op = none → s.nvm.direct = some (3, a) → streamDue s = false → flag s R.nvmFcmd 31 = false →
    ∃ t, exec .flashOperationDone s = .next t ∧ (∀ i, i < 4096 → flashByte t (a + i) = 0xFF) ∧
      (∀ x, x < a ∨ a + 4096 ≤ x → flashByte t x = flashByte s x) ∧ t.nvm = { s.nvm with direct := none } ∧
      flag t R.nvmFcmd 31 = true ∧ flag t R.sysIrqstat 10 = true ∧ Touches [.nvm, .flash] [R.nvmFcmd, R.sysIrqstat] s t) ∧
  (∀ s : State, s.nvm.op.isSome = true ∨ s.nvm.direct = none ∨ streamDue s = true → exec .flashOperationDone s = .next s) ∧
  (∀ s : State, streamDue s = false → exec .streamFetch s = .next s) ∧
  (∀ (s : State) (i b : Nat) (ks : List Nat) (x : Wave), nextStream s = some (i, b, ks) → s.image.waves[i]? = some (some x) → s.ecc = [] →
    ∃ t, exec .streamFetch s = .next t ∧
      (∀ k ∈ ks.reverse.take (s.image.strSize / 4096), ∃ p, (i, k, p) ∈ t.image.pool ∧ p < s.image.strSize / 4096 ∧
        memBytes t (s.image.strBase + 4096 * p) 4096 = flashBytes s (x.dataOff + 4096 * k) 4096) ∧
      (∀ e ∈ t.image.pool, e ∈ s.image.pool ∨ (e.1 = i ∧ e.2.1 ∈ ks)) ∧ t.flash = s.flash ∧ Touches [.image, .mem] [] s t)


/-! ### The event recorder (R460 to R474) and two windows of the Parser (R155) -/

/-- The recorder's commands. GLOSS_ENTRY_STORE (R463, R464): the oldest staged entry goes to the next kept place, or the next circulating
one, and the pointers advance, with the interrupt. CLEAR_KEPT, CLEAR_CIRCULATING and CLEAR_BOTH (R470) empty their areas, and the CLEARED
entry is stored next; a wrong key is refused. GLOSS_FREEZE and GLOSS_RESUME (R468): a resume after codes were counted records them by a
GAP entry. RATE_WRITE and OVERRIDE_WRITE (R466) take the limits and refill the buckets they govern; undefined limits are refused.
TRACE_RING_RESUME and CLRMAX (R155). -/
def Obligations.GlossCommands : Prop :=
  (∀ (s : State) (e : GlossEntry) (rest : List GlossEntry) (place : Nat), glossDirect s = true → s.gloss.frozen = false →
    s.gloss.storing = false → s.gloss.staging = e :: rest → s.gloss.lost = none →
    place = (if s.gloss.kcount < 256 then 0x015C0000 + 32 * s.gloss.kcount else 0x015C2000 + 32 * s.gloss.rhead) →
    ∃ t, exec .glossEntryStore s = .next t ∧ (∀ i, i < 4 → memWord t (place + 8 * i) = nth (glossWords e) i 0) ∧
      (∀ b, b < place ∨ place + 32 ≤ b → memByte t b = memByte s b) ∧
      t.gloss = (if s.gloss.kcount < 256 then
        { s.gloss with staging := rest, room := false, kcount := s.gloss.kcount + 1, valid := true }
      else
        { s.gloss with
          staging := rest, room := false, rhead := (s.gloss.rhead + 1) % 768, wrap := s.gloss.wrap || s.gloss.rhead = 767,
          valid := true }) ∧
      flag t R.sysIrqstat 14 = true ∧ Touches [.gloss, .mem, .ecc] [R.sysIrqstat] s t) ∧
  (∀ s : State, glossDirect s = false ∨ s.gloss.staging = [] → exec .glossEntryStore s = .next s) ∧
  (∀ (s : State) (c : Instr) (op : Nat), HostMayWrite s R.glossCmd → glossDirect s = true →
    (c = .clearKept 0x6C35 ∧ op = 1) ∨ (c = .clearCirculating 0x6C35 ∧ op = 2) ∨ (c = .clearBoth 0x6C35 ∧ op = 3) →
    ∃ t, exec c s = .next t ∧
      t.gloss = { s.gloss with
        kcount := if op = 2 then s.gloss.kcount else 0,
        rhead := if op = 1 then s.gloss.rhead else 0,
        wrap := if op = 1 then s.gloss.wrap else false,
        staging := glossEntry s 0xF001 0 (w32 op) (w32 (if op = 2 then 0 else s.gloss.kcount))
          (w32 (if op = 1 then 0 else if s.gloss.wrap then 768 else s.gloss.rhead)) :: s.gloss.staging } ∧
      (∀ b, memByte t b = if op ≠ 2 ∧ 0x015C0000 ≤ b ∧ b < 0x015C2000 ∨ op ≠ 1 ∧ 0x015C2000 ≤ b ∧ b < 0x015C8000 then 0
        else memByte s b) ∧ Touches [.gloss, .mem, .ecc] [] s t) ∧
  (∀ (s : State) (c : Instr) (key : BitVec 16), HostMayWrite s R.glossCmd → key ≠ 0x6C35 →
    c = .clearKept key ∨ c = .clearCirculating key ∨ c = .clearBoth key →
    ∃ t, exec c s = .next t ∧ Refused s t R.glossCmd true) ∧
  (∀ s : State,
    ∃ t, exec .glossFreeze s = .next t ∧ flag t R.glossCtl 0 = true ∧ t.gloss = { s.gloss with frozen := true } ∧
      Touches [.gloss] [R.glossCtl] s t) ∧
  (∀ s : State, s.gloss.frozen = true → s.gloss.storing = false → s.gloss.gap = none →
    ∃ t, exec .glossResume s = .next t ∧ flag t R.glossCtl 0 = false ∧ t.gloss = { s.gloss with frozen := false } ∧
      Touches [.gloss] [R.glossCtl] s t) ∧
  (∀ (s : State) (g : GlossGap), s.gloss.frozen = true → s.gloss.storing = false → s.gloss.gap = some g → glossDirect s = true →
    s.gloss.staging.length < 64 →
    ∃ t, exec .glossResume s = .next t ∧ flag t R.glossCtl 0 = false ∧
      t.gloss = { s.gloss with
        frozen := false, gap := none,
        staging := s.gloss.staging ++
          [glossEntry s 0xF000 0 (w32 g.count) (w32 (g.first.toNat + g.cause * 0x10000)) g.since] } ∧
      Touches [.gloss] [R.glossCtl] s t) ∧
  (∀ (s : State) (v : Word), HostMayWrite s R.glossRate → 1 ≤ bits v 25 16 → bits v 25 16 ≤ 1000 → bits v 7 0 ≠ 0 →
    ∃ t, exec (.rateWrite v) s = .next t ∧ rd t R.glossRate = v &&& 0x03FF00FF ∧
      (∀ code, glossLevel t code = glossBurst t code * glossPt t) ∧ t.gloss = { s.gloss with buckets := [] } ∧
      Touches [.gloss] [R.glossRate] s t) ∧
  (∀ (s : State) (v : Word), HostMayWrite s R.glossRate → bits v 25 16 = 0 ∨ 1000 < bits v 25 16 ∨ bits v 7 0 = 0 →
    ∃ t, exec (.rateWrite v) s = .next t ∧ Refused s t R.glossRate true) ∧
  (∀ (s : State) (n : Fin 16) (v : Word), HostMayWrite s (R.glossOvr + 4 * n) → bits v 15 12 ≠ 15 →
    ∃ t, exec (.overrideWrite n v) s = .next t ∧ rd t (R.glossOvr + 4 * n) = v &&& 0x80FFFFFF ∧
      glossLevel t (bits v 15 0) = glossBurst t (bits v 15 0) * glossPt t ∧
      (∀ code, code ≠ bits v 15 0 → mapGet t.gloss.buckets code = mapGet s.gloss.buckets code) ∧
      Touches [.gloss] [R.glossOvr + 4 * n] s t) ∧
  (∀ (s : State) (n : Fin 16) (v : Word), HostMayWrite s (R.glossOvr + 4 * n) → bits v 15 12 = 15 →
    ∃ t, exec (.overrideWrite n v) s = .next t ∧ Refused s t (R.glossOvr + 4 * n) true) ∧
  (∀ s : State, HostMayWrite s R.parserTrptr →
    ∃ t, exec .traceRingResume s = .next t ∧ rd t R.parserTrptr = 0 ∧ Touches [] [R.parserTrptr] s t) ∧
  (∀ s : State, HostMayWrite s R.parserWin →
    ∃ t, exec .clrmax s = .next t ∧ fld t R.parserWin 14 8 = fld s R.parserWin 6 0 ∧ fld t R.parserWin 6 0 = fld s R.parserWin 6 0 ∧
      Touches [] [R.parserWin] s t)


/-! ### Test port, Verb debug and fuses (R475 to R486) -/

/-- The test port (R475 to R478). IDCODE, which TEST_LOGIC_RESET selects, captures the identity. EXTEST, CLAMP and HIGHZ hold the device
in the reset that PIN_RESET performs. SAMPLE_PRELOAD, DBGACC and BYPASS leave it running; with DBG_LOCK blown DBGACC is bypass; from a
hold, an instruction that leaves it running ends the reset. DEBUG_READ and DEBUG_WRITE act while the access register is selected: a word
of memory is read or written, a misaligned address is refused, an unmapped one is a bus error. -/
def Obligations.TestPort : Prop :=
  (∀ (s : State) (c : Instr), c = .idcode ∨ c = .testLogicReset → tapHolds s = false →
    exec c s = .next { s with tap := { s.tap with ir := .idcode, data := 0x1851234D } }) ∧
  (∀ (s : State) (c : Instr) (ir : TapIr), (c = .extest ∧ ir = .extest) ∨ (c = .clamp ∧ ir = .clamp) ∨ (c = .highz ∧ ir = .highz) →
    ∃ u t, exec .pinReset s = .next u ∧ exec c s = .next t ∧ t = { u with tap := { s.tap with ir } } ∧ tapHolds t = true) ∧
  (∀ (s : State) (pins preload : List Bool), tapHolds s = false →
    exec (.samplePreload pins preload) s = .next { s with tap := { s.tap with ir := .sample, pins, preload } }) ∧
  (∀ s : State, tapHolds s = false →
    exec .dbgacc s = .next { s with tap := { s.tap with ir := if dbgLocked s then .bypass else .dbgacc } }) ∧
  (∀ s : State, tapHolds s = false → exec .bypass s = .next { s with tap := { s.tap with ir := .bypass } }) ∧
  (∀ s : State, tapHolds s = true →
    ∃ u, exec .pinReset s = .next u ∧ exec .bypass s = .next { u with tap := { s.tap with ir := .bypass } }) ∧
  (∀ (s : State) (a : Word), tapOpen s = true → a.toNat % 4 = 0 → CleanWord s a.toNat → inDiscard a.toNat = false →
    exec (.debugRead a) s = .next { s with tap := { s.tap with outcome := 0, data := word32At s a.toNat } }) ∧
  (∀ (s : State) (a v : Word), tapOpen s = true → tapHolds s = false → asleep s = false → s.time.rendering = false → a.toNat % 4 = 0 →
    CleanWord s a.toNat → readsZero s a.toNat = false → (∀ n, regionOf a.toNat = .verb n → (verbOf s n).halted = false) →
    ∃ t, exec (.debugWrite a v) s = .next t ∧ word32At t a.toNat = v ∧
      (∀ b, b < a.toNat ∨ a.toNat + 4 ≤ b → memByte t b = memByte s b) ∧ t.tap = { s.tap with outcome := 0 } ∧
      Touches [.mem, .ecc, .tap] [] s t) ∧
  (∀ (s : State) (a v : Word), tapOpen s = true → a.toNat % 4 ≠ 0 →
    exec (.debugRead a) s = .next { s with tap := { s.tap with outcome := 3, data := 0 } } ∧
    exec (.debugWrite a v) s = .next { s with tap := { s.tap with outcome := 3 } }) ∧
  (∀ (s : State) (a v : Word), tapOpen s = true → tapHolds s = false → a.toNat % 4 = 0 → regionOf a.toNat = .none →
    (∃ t, exec (.debugRead a) s = .next t ∧ t.tap = { s.tap with outcome := 2, data := 0 } ∧ flag t R.sysBuserr 31 = true ∧
      Touches [.tap] [R.sysBuserr, R.sysBusaddr] s t) ∧
    (∃ t, exec (.debugWrite a v) s = .next t ∧ t.tap = { s.tap with outcome := 2 } ∧ flag t R.sysBuserr 31 = true ∧
      Touches [.tap] [R.sysBuserr, R.sysBusaddr] s t)) ∧
  (∀ (s : State) (a v : Word), tapOpen s = false → exec (.debugRead a) s = .next s ∧ exec (.debugWrite a v) s = .next s)

/-- Verb debug (R479 to R482). HALT halts a Verb at once with cause 1, or with HMODE 1 once its Word-frame ends; RESUME lets a halted Verb
go on, cause 0; a STEP has one instruction issue, and the Verb halts again with cause 2; a STEP of a Verb without a frozen Word-frame is
refused; with DBG_LOCK blown these are refused. BREAKPOINT_HIT halts the Verb before the instruction, with cause 3 and the breakpoint.
VERB_REGISTER_ACCESS reads and writes a register of a halted Verb, and is refused on any other. -/
def Obligations.VerbDebug : Prop :=
  (∀ (s : State) (n : Fin 16) (atYield : Bool), HostMayWrite s (R.vdbgVctl + 0x40 * n) → dbgLocked s = false → s.verbs.length = 16 →
    (verbOf s n).halted = false → atYield = false ∨ (verbOf s n).running = false →
    ∃ t, exec (.halt n atYield) s = .next t ∧ flag t (R.vdbgVctl + 0x40 * n) 0 = true ∧
      flag t (R.vdbgVctl + 0x40 * n) 1 = atYield ∧
      verbOf t n = { verbOf s n with halted := true, haltCause := 1, haltBp := 0, haltPending := false } ∧
      (∀ m, m ≠ n.val → verbOf t m = verbOf s m) ∧
      rd t (R.vdbgVwf + 0x40 * n) = (match (bankOfVerb s n).wf with | some w => w32 (traceSlot w.pos + w.widx * 65536) | none => 0) ∧
      Touches [.verbs] [R.vdbgVctl + 0x40 * n, R.vdbgVwf + 0x40 * n] s t) ∧
  (∀ (s : State) (n : Fin 16), HostMayWrite s (R.vdbgVctl + 0x40 * n) → dbgLocked s = false → s.verbs.length = 16 →
    (verbOf s n).halted = false → (verbOf s n).running = true →
    ∃ t, exec (.halt n true) s = .next t ∧ flag t (R.vdbgVctl + 0x40 * n) 0 = true ∧ flag t (R.vdbgVctl + 0x40 * n) 1 = true ∧
      verbOf t n = { verbOf s n with haltPending := true } ∧ (∀ m, m ≠ n.val → verbOf t m = verbOf s m) ∧
      Touches [.verbs] [R.vdbgVctl + 0x40 * n] s t) ∧
  (∀ (s : State) (n : Fin 16), HostMayWrite s (R.vdbgVctl + 0x40 * n) → dbgLocked s = false → s.verbs.length = 16 →
    (verbOf s n).halted = true → (verbOf s n).running = true → (bankOfVerb s n).wf.isSome = true →
    ∃ t, exec (.resume n) s = .next t ∧ flag t (R.vdbgVctl + 0x40 * n) 0 = false ∧
      verbOf t n = { verbOf s n with
        halted := false, haltCause := 0, haltBp := 0, abandoned := false, bpSkip := decide ((verbOf s n).haltCause = 3) } ∧
      (∀ m, m ≠ n.val → verbOf t m = verbOf s m) ∧
      Touches [.verbs] [R.vdbgVctl + 0x40 * n, R.vdbgVwf + 0x40 * n] s t) ∧
  (∀ (s : State) (n : Fin 16), HostMayWrite s (R.vdbgVctl + 0x40 * n) → dbgLocked s = false → s.verbs.length = 16 →
    (verbOf s n).abandoned = false → (verbOf s n).halted = true → (verbOf s n).running = true → StepsDone s →
    ∃ t, exec (.step n) s = .next t ∧ (verbOf t n).halted = true ∧ (verbOf t n).haltCause = 2) ∧
  (∀ (s : State) (n : Fin 16), HostMayWrite s (R.vdbgVctl + 0x40 * n) → dbgLocked s = false → (verbOf s n).abandoned = true →
    (verbOf s n).halted = true → (verbOf s n).running = true →
    ∃ t, exec (.step n) s = .next t ∧ Touches [] [R.vdbgVctl + 0x40 * n] s t) ∧
  (∀ (s : State) (n : Fin 16), HostMayWrite s (R.vdbgVctl + 0x40 * n) →
    dbgLocked s = true ∨ (verbOf s n).halted = false ∨ (verbOf s n).running = false →
    ∃ t, exec (.step n) s = .next t ∧ Refused s t (R.vdbgVctl + 0x40 * n) false) ∧
  (∀ (s : State) (n : Fin 16) (c : Instr), HostMayWrite s (R.vdbgVctl + 0x40 * n) → dbgLocked s = true →
    (c = .halt n false ∧ flag s (R.vdbgVctl + 0x40 * n) 0 = false) ∨ (c = .resume n ∧ flag s (R.vdbgVctl + 0x40 * n) 0 = true) →
    ∃ t, exec c s = .next t ∧ Refused s t (R.vdbgVctl + 0x40 * n) false) ∧
  (∀ (s : State) (n : Fin 16) (k : Nat), s.verbs.length = 16 → (verbOf s n).running = true → (verbOf s n).halted = false →
    matchingBp s n = some k →
    ∃ t, exec (.breakpointHit n) s = .next t ∧ flag t (R.vdbgVctl + 0x40 * n) 0 = true ∧
      verbOf t n = { verbOf s n with halted := true, haltCause := 3, haltBp := k, haltPending := false } ∧
      (∀ m, m ≠ n.val → verbOf t m = verbOf s m) ∧ Touches [.verbs] [R.vdbgVctl + 0x40 * n, R.vdbgVwf + 0x40 * n] s t) ∧
  (∀ (s : State) (n : Fin 16), (verbOf s n).running = false ∨ (verbOf s n).halted = true ∨ matchingBp s n = none →
    exec (.breakpointHit n) s = .next s) ∧
  (∀ (s : State) (n : Fin 16) (v : Word), HostMayWrite s (R.vdbgVrdata + 0x40 * n) → (verbOf s n).halted = true →
    dbgLocked s = false → s.verbs.length = 16 → (bankOfVerb s n).wf = none →
    ∃ t, exec (.verbRegisterAccess n (some v)) s = .next t ∧
      bankOfVerb t n = (bankOfVerb s n).writeReg (fld s (R.vdbgVrsel + 0x40 * n) 5 0) v ∧
      (∀ m, m ≠ n.val → verbOf t m = verbOf s m) ∧ Touches [.verbs] [] s t) ∧
  (∀ (s : State) (n : Fin 16), HostMayWrite s (R.vdbgVrdata + 0x40 * n) → (verbOf s n).halted = true → dbgLocked s = false →
    exec (.verbRegisterAccess n none) s = .next { s with
      host := { s.host with out := s.host.out ++ [(bankOfVerb s n).readReg (fld s (R.vdbgVrsel + 0x40 * n) 5 0)] } }) ∧
  (∀ (s : State) (n : Fin 16) (v : Word), HostMayWrite s (R.vdbgVrdata + 0x40 * n) → (verbOf s n).halted = false →
    ∃ t, exec (.verbRegisterAccess n (some v)) s = .next t ∧ Refused s t (R.vdbgVrdata + 0x40 * n) false)

/-- Fuses (R484 to R486). FUSE_PROGRAM with its key starts programming the word, or gives the result that its checks name; a wrong key is
refused. FUSE_VERIFY: the fuses reported stay blown beside those that were; the right ones give result 0 and the shadow, others result
5; BUSY clears and DONE is set with the interrupt. -/
def Obligations.FusesBlown : Prop :=
  (∀ (s : State) (v : Word) (w : Nat), HostMayWrite s R.fusePctl → bits v 31 16 = 0x3C96 → w = bits v 3 0 → flag s R.fusePstat 30 = false →
    devState s = 1 → flag s R.pwrStat 5 = false → 5000 ≤ fld s R.pwrVin 15 0 → fuseWord s w = 0 → fuseErr s w = false →
    w = 0 ∨ w = 2 →
    ∃ t, exec (.fuseProgram v) s = .next t ∧ flag t R.fusePstat 30 = true ∧ flag t R.fusePstat 31 = false ∧
      flag t R.pwrStat 3 = true ∧ t.fuse = { s.fuse with prog := some (w, rd s R.fusePdata) } ∧
      Touches [.fuse] [R.fusePstat, R.pwrStat] s t) ∧
  (∀ (s : State) (v : Word) (w r : Nat), HostMayWrite s R.fusePctl → bits v 31 16 = 0x3C96 → w = bits v 3 0 →
    flag s R.fusePstat 30 = false → flag s R.fusePstat 31 = false →
    (r = 1 ∧ devState s ≠ 1 ∧ flag s R.nvmBoot 31 = false) ∨
      (r = 2 ∧ devState s = 1 ∧ (flag s R.pwrStat 5 = true ∨ fld s R.pwrVin 15 0 < 5000)) ∨
      (r = 3 ∧ devState s = 1 ∧ flag s R.pwrStat 5 = false ∧ 5000 ≤ fld s R.pwrVin 15 0 ∧
        (fuseWord s w ≠ 0 ∨ fuseErr s w = true ∨ w ∈ [3, 4, 5, 14, 15])) →
    ∃ t, exec (.fuseProgram v) s = .next t ∧ fld t R.fusePstat 3 0 = r ∧ flag t R.fusePstat 31 = true ∧
      flag t R.sysIrqstat 16 = true ∧ Touches [] [R.fusePstat, R.sysIrqstat] s t) ∧
  (∀ (s : State) (v : Word), HostMayWrite s R.fusePctl → bits v 31 16 ≠ 0x3C96 →
    ∃ t, exec (.fuseProgram v) s = .next t ∧ Refused s t R.fusePctl true) ∧
  (∀ (s : State) (w : Nat) (d : Word), s.fuse.prog = some (w, d) → w ≠ 0 → w < 16 → flag s R.fusePstat 31 = false →
    ∃ t, exec (.fuseVerify d (oddOnes d)) s = .next t ∧ fuseWord t w = d ∧ fld t R.fusePstat 3 0 = 0 ∧
      flag t R.fusePstat 30 = false ∧ flag t R.fusePstat 31 = true ∧ flag t R.pwrStat 3 = false ∧ flag t R.sysIrqstat 16 = true ∧
      t.fuse.prog = none ∧
      t.fuse.blown = s.fuse.blown.set w ((nth s.fuse.blown w (0, false)).1 ||| d, (nth s.fuse.blown w (0, false)).2 || oddOnes d) ∧
      Touches [.fuse] [R.fuseWord + 4 * w, R.fusePstat, R.pwrStat, R.sysIrqstat] s t) ∧
  (∀ (s : State) (w : Nat) (d : Word) (blown : BitVec 32) (parity : Bool), s.fuse.prog = some (w, d) → flag s R.fusePstat 31 = false →
    blown ≠ d ∨ parity ≠ oddOnes d →
    ∃ t, exec (.fuseVerify blown parity) s = .next t ∧ fld t R.fusePstat 3 0 = 5 ∧ flag t R.fusePstat 30 = false ∧
      flag t R.fusePstat 31 = true ∧ flag t R.pwrStat 3 = false ∧ flag t R.sysIrqstat 16 = true ∧
      t.fuse.prog = none ∧
      t.fuse.blown = s.fuse.blown.set w ((nth s.fuse.blown w (0, false)).1 ||| blown, (nth s.fuse.blown w (0, false)).2 || parity) ∧
      Touches [.fuse] [R.fusePstat, R.pwrStat, R.sysIrqstat] s t) ∧
  (∀ (s : State) (blown : BitVec 32) (parity : Bool), s.fuse.prog = none → exec (.fuseVerify blown parity) s = .next s)


/-! ### The machine -/

/-- A step takes the command at the front of the queue: it is exec of that command on the state with the rest of the queue. -/
def Obligations.StepRunsFront : Prop :=
  ∀ (s : State) (c : Instr) (rest : List Instr), step { s with pending := c :: rest } = exec c { s with pending := rest }

/-- The device after reset (R5, R32, R276, R289): its registers have their reset values, its memory lists nothing, its queue is empty, and
its registers and memory are in canonical form, with every group of its full size. -/
def Obligations.ResetState : Prop :=
  (∀ a, rd State.reset a = regReset a) ∧ (∀ b, memByte State.reset b = 0) ∧ State.reset.pending = [] ∧ State.reset.phrases = [] ∧
  State.reset.time.rendering = false ∧ State.reset.time.epochSet = false ∧ (∀ k, k < 16 → (dacOf State.reset k).open? = false) ∧
  (∀ k, k < 8 → (cvOf State.reset k).closed = true) ∧ (∀ n, n < 16 → (timerOf State.reset n).released = false) ∧
  Canonical State.reset ∧ Shaped State.reset

/-- Every step keeps the registers and the memory in canonical form, and every group of its full size; and a blown fuse stays blown,
whatever the device does (R484). -/
def Obligations.StepKeepsForm : Prop :=
  (∀ s t : State, Canonical s → step s = .next t → Canonical t) ∧ (∀ s t : State, Shaped s → step s = .next t → Shaped t) ∧
  (∀ s t : State, step s = .next t → KeepsFuses s t)

/-- No command ends in a fault or a refusal: exec answers a next state for every command in every state, and no command changes the queue
of those that wait. -/
def Obligations.CommandsComplete : Prop :=
  ∀ (c : Instr) (s : State), ∃ t, exec c s = .next t ∧ t.pending = s.pending
end

