-- ==== Sys2Proof/Laws/Bits.lean ====
section
/-! SUPPORT. Bit fields of a word: a field reads back what was put into it, and every field apart from it reads as before. -/

namespace Sys2Proof.Laws
open Sys2Proof.Machine

/-- A number is made of the part above a field, the field, and the part below it. -/
theorem split_field (n lo k : Nat) : n = n / 2 ^ (lo + k) * 2 ^ (lo + k) + n / 2 ^ lo % 2 ^ k * 2 ^ lo + n % 2 ^ lo := by
  have h1 := Nat.div_add_mod n (2 ^ lo)
  have h2 := Nat.div_add_mod (n / 2 ^ lo) (2 ^ k)
  rw [Nat.div_div_eq_div_mul, ← Nat.pow_add] at h2
  have h3 : 2 ^ (lo + k) = 2 ^ lo * 2 ^ k := Nat.pow_add ..
  calc n = 2 ^ lo * (n / 2 ^ lo) + n % 2 ^ lo := h1.symm
    _ = 2 ^ lo * (2 ^ k * (n / 2 ^ (lo + k)) + n / 2 ^ lo % 2 ^ k) + n % 2 ^ lo := by rw [h2]
    _ = _ := by rw [h3, Nat.mul_add, ← Nat.mul_assoc, Nat.mul_comm (2 ^ lo * 2 ^ k), Nat.mul_comm (2 ^ lo) (_ % _)]

/-- The number that setBits makes. -/
def putField (n lo k x : Nat) : Nat := n - n / 2 ^ lo % 2 ^ k * 2 ^ lo + x % 2 ^ k * 2 ^ lo

theorem putField_eq (n lo k x : Nat) :
    putField n lo k x = n / 2 ^ (lo + k) * 2 ^ (lo + k) + x % 2 ^ k * 2 ^ lo + n % 2 ^ lo := by
  have := split_field n lo k
  unfold putField
  omega

theorem putField_low (n lo k x : Nat) : putField n lo k x % 2 ^ lo = n % 2 ^ lo := by
  rw [putField_eq, Nat.pow_add, Nat.add_assoc, ← Nat.mul_assoc, Nat.mul_right_comm, Nat.mul_add_mod_self_right, Nat.mul_add_mod_self_right,
    Nat.mod_mod]

theorem putField_div (n lo k x : Nat) : putField n lo k x / 2 ^ lo = n / 2 ^ (lo + k) * 2 ^ k + x % 2 ^ k := by
  rw [putField_eq]
  have h : n / 2 ^ (lo + k) * 2 ^ (lo + k) + x % 2 ^ k * 2 ^ lo + n % 2 ^ lo =
      n % 2 ^ lo + 2 ^ lo * (n / 2 ^ (lo + k) * 2 ^ k + x % 2 ^ k) := by
    have e : n / 2 ^ (lo + k) * 2 ^ (lo + k) = 2 ^ lo * (n / 2 ^ (lo + k) * 2 ^ k) := by
      rw [Nat.pow_add, Nat.mul_comm (2 ^ lo) (2 ^ k), ← Nat.mul_assoc, Nat.mul_comm _ (2 ^ lo)]
    rw [e, Nat.mul_add, Nat.mul_comm (2 ^ lo) (x % 2 ^ k)]
    omega
  rw [h, Nat.add_mul_div_left _ _ (Nat.two_pow_pos lo), Nat.div_eq_of_lt (Nat.mod_lt _ (Nat.two_pow_pos lo)), Nat.zero_add]

theorem putField_field (n lo k x : Nat) : putField n lo k x / 2 ^ lo % 2 ^ k = x % 2 ^ k := by
  rw [putField_div, Nat.mul_add_mod_self_right, Nat.mod_mod]

theorem putField_high (n lo k x : Nat) : putField n lo k x / 2 ^ (lo + k) = n / 2 ^ (lo + k) := by
  rw [Nat.pow_add, ← Nat.div_div_eq_div_mul, putField_div, Nat.add_comm, Nat.add_mul_div_right _ _ (Nat.two_pow_pos k),
    Nat.div_eq_of_lt (Nat.mod_lt _ (Nat.two_pow_pos k)), Nat.zero_add, Nat.pow_add]

theorem putField_lt (n lo k x w : Nat) (hn : n < 2 ^ w) (hk : lo + k ≤ w) : putField n lo k x < 2 ^ w := by
  have h1 := Nat.div_add_mod (putField n lo k x) (2 ^ (lo + k))
  rw [putField_high] at h1
  have h2 : n / 2 ^ (lo + k) < 2 ^ (w - (lo + k)) := by
    rw [Nat.div_lt_iff_lt_mul (Nat.two_pow_pos _), ← Nat.pow_add, Nat.sub_add_cancel hk]; exact hn
  have h3 : putField n lo k x % 2 ^ (lo + k) < 2 ^ (lo + k) := Nat.mod_lt _ (Nat.two_pow_pos _)
  have h4 : 2 ^ w = 2 ^ (lo + k) * 2 ^ (w - (lo + k)) := by rw [← Nat.pow_add, Nat.add_sub_cancel' hk]
  have h5 : 2 ^ (lo + k) * (n / 2 ^ (lo + k) + 1) ≤ 2 ^ (lo + k) * 2 ^ (w - (lo + k)) := Nat.mul_le_mul_left _ h2
  rw [Nat.mul_add] at h5
  omega

theorem setBits_toNat (w : Word) (hi lo x : Nat) (h : lo ≤ hi) (hh : hi < 32) :
    (setBits w hi lo x).toNat = putField w.toNat lo (hi - lo + 1) x := by
  have := putField_lt w.toNat lo (hi - lo + 1) x 32 w.isLt (by omega)
  unfold putField at this ⊢
  simp only [setBits, bits, BitVec.toNat_ofNat]
  exact Nat.mod_eq_of_lt this

/-- A field reads back what was put into it. -/
theorem bits_setBits (w : Word) (hi lo x : Nat) (h : lo ≤ hi) (hh : hi < 32) :
    bits (setBits w hi lo x) hi lo = x % 2 ^ (hi - lo + 1) := by
  unfold bits
  rw [setBits_toNat w hi lo x h hh, putField_field]

/-- A field above another does not see it. -/
theorem bits_setBits_above (w : Word) (hi lo x hi' lo' : Nat) (h : lo ≤ hi) (hh : hi < 32) (hd : hi < lo') :
    bits (setBits w hi lo x) hi' lo' = bits w hi' lo' := by
  unfold bits
  rw [setBits_toNat w hi lo x h hh]
  have e : 2 ^ lo' = 2 ^ (lo + (hi - lo + 1)) * 2 ^ (lo' - (hi + 1)) := by rw [← Nat.pow_add]; congr 1; omega
  rw [e, ← Nat.div_div_eq_div_mul, ← Nat.div_div_eq_div_mul, putField_high]

/-- A field below another does not see it. -/
theorem bits_setBits_below (w : Word) (hi lo x hi' lo' : Nat) (h : lo ≤ hi) (hh : hi < 32) (h' : lo' ≤ hi') (hd : hi' < lo) :
    bits (setBits w hi lo x) hi' lo' = bits w hi' lo' := by
  unfold bits
  rw [setBits_toNat w hi lo x h hh]
  have e : ∀ n : Nat, n / 2 ^ lo' % 2 ^ (hi' - lo' + 1) = n % 2 ^ lo / 2 ^ lo' % 2 ^ (hi' - lo' + 1) := by
    intro n
    have e1 : 2 ^ lo = 2 ^ lo' * 2 ^ (lo - lo') := by rw [← Nat.pow_add]; congr 1; omega
    rw [e1, Nat.mod_mul_right_div_self, Nat.mod_mod_of_dvd]
    exact Nat.pow_dvd_pow 2 (by omega)
  rw [e, putField_low, ← e]

theorem bitOf_getLsbD (w : Word) (i : Nat) : bitOf w i = w.getLsbD i := by
  unfold bitOf BitVec.getLsbD
  rw [Nat.testBit_eq_decide_div_mod_eq]

theorem bitOf_eq (w : Word) (i : Nat) : bitOf w i = decide (bits w i i = 1) := by
  simp [bitOf, bits, Nat.sub_self]

/-- A bit reads back what was put into it. -/
theorem bitOf_setBits (w : Word) (i x : Nat) (hh : i < 32) : bitOf (setBits w i i x) i = decide (x % 2 = 1) := by
  rw [bitOf_eq, bits_setBits w i i x (Nat.le_refl i) hh]
  simp [Nat.sub_self]

/-- A bit outside a field does not see it. -/
theorem bitOf_setBits_ne (w : Word) (hi lo x i : Nat) (h : lo ≤ hi) (hh : hi < 32) (hd : i < lo ∨ hi < i) :
    bitOf (setBits w hi lo x) i = bitOf w i := by
  rw [bitOf_eq, bitOf_eq]
  rcases hd with hd | hd
  · rw [bits_setBits_below w hi lo x i i h hh (Nat.le_refl i) hd]
  · rw [bits_setBits_above w hi lo x i i h hh hd]

end Sys2Proof.Laws
end

