-- ==== Sys2Proof/Laws/Stable.lean ====
section
/-! SUPPORT. What a command can do to the registers, the memory, the fuses and the queue, said once for every function of the model:
a Stable predicate is one that every elementary update keeps, and every function of the model keeps it. -/

namespace Sys2Proof.Laws
open Sys2Proof.Machine

/-- Every array of the state that has a fixed number of like things keeps that number. -/
abbrev sameShape (s t : State) : Prop :=
  (s.sp.length = 8 → t.sp.length = 8) ∧
  (s.links.length = 4 → t.links.length = 4) ∧
  (s.verbs.length = 16 → t.verbs.length = 16) ∧
  (s.timers.length = 16 → t.timers.length = 16) ∧
  (s.dai.length = 4 → t.dai.length = 4) ∧
  (s.analog.dac.length = 16 → t.analog.dac.length = 16) ∧
  (s.analog.cv.length = 8 → t.analog.cv.length = 8) ∧
  (s.analog.adc.length = 16 → t.analog.adc.length = 16) ∧
  (s.analog.det.length = 32 → t.analog.det.length = 32) ∧
  (s.evt.ready.length = 16 → t.evt.ready.length = 16) ∧
  (s.evt.parse.length = 13 → t.evt.parse.length = 13) ∧
  (s.evt.timers.length = 4 → t.evt.timers.length = 4) ∧
  (s.evt.complete.length = 4 → t.evt.complete.length = 4) ∧
  (s.alloc.noteStacks.length = 16 → t.alloc.noteStacks.length = 16)

theorem sameShape_rfl (s : State) : sameShape s s := ⟨id, id, id, id, id, ⟨id, id, id, id, id, ⟨id, id, id, id⟩⟩⟩

/-- A predicate of the state that depends on the registers, the memory, the fuses, the queue and the lengths of the fixed arrays
alone, and that the updates the model makes of them keep: a register written or dropped, a byte written or dropped, fuses blown. -/
structure Stable where
  holds : State → Prop
  plain : ∀ s t, holds s → t.regs = s.regs → t.mem = s.mem → t.fuse.blown = s.fuse.blown → t.pending = s.pending → sameShape s t → holds t
  wr : ∀ s a v, holds s → holds (Machine.wr s a v)
  dropRegs : ∀ s p, holds s → holds { s with regs := s.regs.filter p }
  putByte : ∀ s a b, holds s → holds (Machine.putByte s a b)
  dropMem : ∀ s p, holds s → holds { s with mem := s.mem.filter p }
  blow : ∀ s w (x : Word) (y : Bool), holds s →
    holds { s with fuse := ⟨s.fuse.blown.set w ((nth s.fuse.blown w (0, false)).1 ||| x, (nth s.fuse.blown w (0, false)).2 || y), s.fuse.prog⟩ }

variable (P : Stable)

theorem Stable.mk_plain (s : State) (time host staged ecc memint gloss syns decls phrases parser ended boot tense pins power sys flash nvm image tap free)
    (h : P.holds s) :
    P.holds ⟨time, host, s.regs, staged, s.mem, ecc, memint, gloss, s.evt, syns, decls, phrases, s.alloc, s.verbs, parser, ended, boot,
      tense, s.timers, s.analog, pins, power, s.sp, sys, s.links, s.dai, flash, nvm, image, s.fuse, tap, free, s.pending⟩ :=
  P.plain s _ h rfl rfl rfl rfl (sameShape_rfl s)
theorem Stable.mk_evt (s : State) (time host staged ecc memint gloss syns decls phrases parser ended boot tense pins power sys flash nvm image tap free
    lastSrc queue seq map progs held delivered hwin ringFull)
    (h : P.holds s) :
    P.holds ⟨time, host, s.regs, staged, s.mem, ecc, memint, gloss, ⟨s.evt.ready, lastSrc, queue, seq, s.evt.parse, map, progs, held,
      delivered, s.evt.complete, s.evt.timers, hwin, ringFull⟩, syns, decls, phrases, s.alloc, s.verbs, parser, ended, boot, tense,
      s.timers, s.analog, pins, power, s.sp, sys, s.links, s.dai, flash, nvm, image, s.fuse, tap, free, s.pending⟩ :=
  P.plain s _ h rfl rfl rfl rfl (sameShape_rfl s)
theorem Stable.mk_alloc (s : State) (time host staged ecc memint gloss syns decls phrases parser ended boot tense pins power sys flash nvm image tap free
    recs ops aseq snap lanes)
    (h : P.holds s) :
    P.holds ⟨time, host, s.regs, staged, s.mem, ecc, memint, gloss, s.evt, syns, decls, phrases, ⟨recs, ops, aseq, s.alloc.noteStacks,
      snap, lanes⟩, s.verbs, parser, ended, boot, tense, s.timers, s.analog, pins, power, s.sp, sys, s.links, s.dai, flash, nvm,
      image, s.fuse, tap, free, s.pending⟩ :=
  P.plain s _ h rfl rfl rfl rfl (sameShape_rfl s)
theorem Stable.mk_analog (s : State) (time host staged ecc memint gloss syns decls phrases parser ended boot tense pins power sys flash nvm image tap free
    monitor spoilt monCount monSum railP railN syncHold coefs)
    (h : P.holds s) :
    P.holds ⟨time, host, s.regs, staged, s.mem, ecc, memint, gloss, s.evt, syns, decls, phrases, s.alloc, s.verbs, parser, ended, boot,
      tense, s.timers, ⟨s.analog.dac, s.analog.cv, s.analog.adc, s.analog.det, monitor, spoilt, monCount, monSum, railP, railN, syncHold, coefs⟩,
      pins, power, s.sp, sys, s.links, s.dai, flash, nvm, image, s.fuse, tap, free, s.pending⟩ :=
  P.plain s _ h rfl rfl rfl rfl (sameShape_rfl s)
theorem Stable.mk_any (s : State) (time host staged ecc memint gloss syns decls phrases verbs parser ended boot tense timers pins power sp sys links dai
    flash nvm image tap free ready lastSrc queue seq parse map progs held delivered complete fences hwin ringFull recs ops
    aseq notes snap lanes dac cv adc det monitor spoilt monCount monSum railP railN syncHold coefs)
    (h : P.holds s)
    (hs : (s.sp.length = 8 → sp.length = 8) ∧ (s.links.length = 4 → links.length = 4) ∧
      (s.verbs.length = 16 → verbs.length = 16) ∧ (s.timers.length = 16 → timers.length = 16) ∧
      (s.dai.length = 4 → dai.length = 4) ∧ (s.analog.dac.length = 16 → dac.length = 16) ∧
      (s.analog.cv.length = 8 → cv.length = 8) ∧ (s.analog.adc.length = 16 → adc.length = 16) ∧
      (s.analog.det.length = 32 → det.length = 32) ∧ (s.evt.ready.length = 16 → ready.length = 16) ∧
      (s.evt.parse.length = 13 → parse.length = 13) ∧ (s.evt.timers.length = 4 → fences.length = 4) ∧
      (s.evt.complete.length = 4 → complete.length = 4) ∧ (s.alloc.noteStacks.length = 16 → notes.length = 16)) :
    P.holds ⟨time, host, s.regs, staged, s.mem, ecc, memint, gloss, ⟨ready, lastSrc, queue, seq, parse, map, progs, held, delivered,
      complete, fences, hwin, ringFull⟩, syns, decls, phrases, ⟨recs, ops, aseq, notes, snap, lanes⟩, verbs, parser, ended, boot,
      tense, timers, ⟨dac, cv, adc, det, monitor, spoilt, monCount, monSum, railP, railN, syncHold, coefs⟩, pins, power, sp, sys, links, dai, flash,
      nvm, image, s.fuse, tap, free, s.pending⟩ :=
  P.plain s _ h rfl rfl rfl rfl hs
theorem Stable.mk_fuse (s : State) (time host staged ecc memint gloss evt syns decls phrases alloc verbs parser ended boot tense
    timers analog pins power sp sys links dai flash nvm image prog tap free) (h : P.holds s)
    (hs : sameShape s ⟨time, host, s.regs, staged, s.mem, ecc, memint, gloss, evt, syns, decls, phrases, alloc, verbs, parser, ended, boot, tense,
      timers, analog, pins, power, sp, sys, links, dai, flash, nvm, image, ⟨s.fuse.blown, prog⟩, tap, free, s.pending⟩) :
    P.holds ⟨time, host, s.regs, staged, s.mem, ecc, memint, gloss, evt, syns, decls, phrases, alloc, verbs, parser, ended, boot, tense,
      timers, analog, pins, power, sp, sys, links, dai, flash, nvm, image, ⟨s.fuse.blown, prog⟩, tap, free, s.pending⟩ :=
  P.plain s _ h rfl rfl rfl rfl hs
theorem Stable.mk_regs (s : State) (p time host staged ecc memint gloss evt syns decls phrases alloc verbs parser ended boot tense
    timers analog pins power sp sys links dai flash nvm image tap free) (h : P.holds s)
    (hs : sameShape s ⟨time, host, s.regs.filter p, staged, s.mem, ecc, memint, gloss, evt, syns, decls, phrases, alloc, verbs, parser, ended, boot, tense,
      timers, analog, pins, power, sp, sys, links, dai, flash, nvm, image, s.fuse, tap, free, s.pending⟩) :
    P.holds ⟨time, host, s.regs.filter p, staged, s.mem, ecc, memint, gloss, evt, syns, decls, phrases, alloc, verbs, parser, ended, boot, tense,
      timers, analog, pins, power, sp, sys, links, dai, flash, nvm, image, s.fuse, tap, free, s.pending⟩ :=
  P.plain _ _ (P.dropRegs s p h) rfl rfl rfl rfl hs
theorem Stable.mk_mem (s : State) (p time host staged ecc memint gloss evt syns decls phrases alloc verbs parser ended boot tense
    timers analog pins power sp sys links dai flash nvm image tap free) (h : P.holds s)
    (hs : sameShape s ⟨time, host, s.regs, staged, s.mem.filter p, ecc, memint, gloss, evt, syns, decls, phrases, alloc, verbs, parser, ended, boot, tense,
      timers, analog, pins, power, sp, sys, links, dai, flash, nvm, image, s.fuse, tap, free, s.pending⟩) :
    P.holds ⟨time, host, s.regs, staged, s.mem.filter p, ecc, memint, gloss, evt, syns, decls, phrases, alloc, verbs, parser, ended, boot, tense,
      timers, analog, pins, power, sp, sys, links, dai, flash, nvm, image, s.fuse, tap, free, s.pending⟩ :=
  P.plain _ _ (P.dropMem s p h) rfl rfl rfl rfl hs

theorem Stable.mk_both (s : State) (p q time host staged ecc memint gloss evt syns decls phrases alloc verbs parser ended boot tense
    timers analog pins power sp sys links dai flash nvm image tap free) (h : P.holds s)
    (hs : sameShape s ⟨time, host, s.regs.filter p, staged, s.mem.filter q, ecc, memint, gloss, evt, syns, decls, phrases, alloc, verbs, parser, ended, boot, tense,
      timers, analog, pins, power, sp, sys, links, dai, flash, nvm, image, s.fuse, tap, free, s.pending⟩) :
    P.holds ⟨time, host, s.regs.filter p, staged, s.mem.filter q, ecc, memint, gloss, evt, syns, decls, phrases, alloc, verbs, parser, ended, boot, tense,
      timers, analog, pins, power, sp, sys, links, dai, flash, nvm, image, s.fuse, tap, free, s.pending⟩ :=
  P.plain _ _ (P.dropMem _ q (P.dropRegs s p h)) rfl rfl rfl rfl hs

def Stable.fst {β : Type} (x : State × β) : Prop := P.holds x.1
def Stable.opt (x : Option State) : Prop := ∀ t, x = some t → P.holds t
def Stable.out (x : Host.Outcome State Fault Refusal) : Prop := ∀ t, x = .next t → P.holds t

theorem st_wr (s : State) (a : Nat) (v : Word) (h : P.holds s) : P.holds (wr s a v) := P.wr s a v h
theorem st_putByte (s : State) (a : Nat) (v : Byte) (h : P.holds s) : P.holds (putByte s a v) := P.putByte s a v h
theorem st_cut {p q : Prop} (h : p) (k : p → q) : q := k h
theorem st_pair {β : Type} (s : State) (b : β) (h : P.holds s) : P.fst (s, b) := h
theorem st_proj {β : Type} (x : State × β) (h : P.fst x) : P.holds x.1 := h
theorem st_left {β : Type} {x : State × β} {s : State} {b : β} (e : x = (s, b)) (h : P.fst x) : P.holds s := by
  subst e; exact h
theorem st_ofPair {β : Type} {s : State} {b : β} (h : P.fst (s, b)) : P.holds s := h
theorem st_some (s : State) (h : P.holds s) : P.opt (some s) := fun _ e => Option.some.inj e ▸ h
theorem st_none : P.opt none := fun _ e => nomatch e
theorem st_optElim {x : Option State} {s : State} (e : x = some s) (h : P.opt x) : P.holds s := h s e
theorem st_getD (x : Option State) (s : State) (h : P.opt x) (hs : P.holds s) : P.holds (x.getD s) := by
  cases x with
  | none => exact hs
  | some t => exact h t rfl
theorem st_next (s : State) (h : P.holds s) : P.out (.next s) := fun _ e => by cases e; exact h
theorem st_outElim {x : Host.Outcome State Fault Refusal} {s : State} (e : x = .next s) (h : P.out x) : P.holds s := h s e
theorem st_ite {c : Prop} [Decidable c] (a b : State) (ha : P.holds a) (hb : P.holds b) : P.holds (if c then a else b) := by
  split <;> assumption
theorem st_iteFst {β : Type} {c : Prop} [Decidable c] (a b : State × β) (ha : P.fst a) (hb : P.fst b) : P.fst (if c then a else b) := by
  split <;> assumption
theorem st_iteOpt {c : Prop} [Decidable c] (a b : Option State) (ha : P.opt a) (hb : P.opt b) : P.opt (if c then a else b) := by
  split <;> assumption
theorem st_iteOut {c : Prop} [Decidable c] (a b : Host.Outcome State Fault Refusal) (ha : P.out a) (hb : P.out b) :
    P.out (if c then a else b) := by
  split <;> assumption
theorem st_foldl {α : Type} (f : State → α → State) (hf : ∀ s x, P.holds s → P.holds (f s x)) (l : List α) (s : State)
    (h : P.holds s) : P.holds (l.foldl f s) := by
  induction l generalizing s with
  | nil => exact h
  | cons x l ih => exact ih _ (hf s x h)
theorem st_foldlFst {α β : Type} (f : State × β → α → State × β) (hf : ∀ s x, P.fst s → P.fst (f s x)) (l : List α)
    (s : State × β) (h : P.fst s) : P.fst (l.foldl f s) := by
  induction l generalizing s with
  | nil => exact h
  | cons x l ih => exact ih _ (hf s x h)

end Sys2Proof.Laws
end

