-- ==== Sys2Proof/Laws/StableOps.lean ====
section
/-! SUPPORT. Every function of the modules Ops, Gloss, Memory, Outlets, Fabric, Midi, Phrases, Dac, Cvo, Adc keeps a Stable predicate. -/

namespace Sys2Proof.Laws
open Sys2Proof.Machine
variable (P : Stable)

theorem st_wrFld (s : State) (a hi lo x : Nat) (hP : P.holds s) : P.holds (wrFld s a hi lo x) := by
  unfold wrFld
  with_reducible repeat' first | assumption | apply st_wr

theorem st_setFlag (s : State) (a i : Nat) (hP : P.holds s) : P.holds (setFlag s a i) := by
  unfold setFlag
  with_reducible repeat' first | assumption | apply st_wrFld

theorem st_clrFlag (s : State) (a i : Nat) (hP : P.holds s) : P.holds (clrFlag s a i) := by
  unfold clrFlag
  with_reducible repeat' first | assumption | apply st_wrFld

theorem st_countUp (s : State) (a : Nat) (hP : P.holds s) : P.holds (countUp s a) := by
  unfold countUp
  with_reducible repeat' first | assumption | apply st_ite | apply st_wr | apply st_wrFld

theorem st_countUpBy (s : State) (a n : Nat) (hP : P.holds s) : P.holds (countUpBy s a n) := by
  unfold countUpBy
  with_reducible repeat' first | assumption | apply st_countUp | refine st_foldl P _ ?_ _ _ ?_ | intro t x ht

theorem st_raiseIrq (s : State) (b : Nat) (hP : P.holds s) : P.holds (raiseIrq s b) := by
  unfold raiseIrq
  with_reducible repeat' first | assumption | apply st_setFlag

theorem st_refuse (s : State) (a : Nat) (encoding : Bool) (hP : P.holds s) : P.holds (refuse s a encoding) := by
  unfold refuse
  with_reducible repeat' first
    | assumption
    | (extract_lets +onlyGivenNames z; refine st_cut (p := P.holds z) ?_ ?_; subst z; rotate_left; intro hz; clear_value z)
    | (extract_lets +onlyGivenNames z; refine st_cut (p := P.fst z) ?_ ?_; subst z; rotate_left; intro hz; clear_value z)
    | (extract_lets +onlyGivenNames z; subst z) | apply st_ite | apply st_wr | split | apply Stable.mk_plain

theorem st_busErr (s : State) (init cause : Nat) (isWrite : Bool) (a : Nat) (hP : P.holds s) :
    P.holds (busErr s init cause isWrite a) := by
  unfold busErr
  with_reducible repeat' first | assumption | apply st_ite | apply st_setFlag | apply st_wr

theorem st_voidFrame (s : State) (n cause : Nat) (hP : P.holds s) : P.holds (voidFrame s n cause) := by
  unfold voidFrame
  with_reducible repeat' first | assumption | (extract_lets +onlyGivenNames z; subst z) | apply Stable.mk_plain

theorem st_voidSince (s : State) (m : Nat) (ends : Option Nat) (hP : P.holds s) : P.holds (voidSince s m ends) := by
  unfold voidSince
  with_reducible repeat' first
    | assumption | apply st_ite | apply st_voidFrame | refine st_foldl P _ ?_ _ _ ?_ | refine st_foldlFst P _ ?_ _ _ ?_
    | intro t x ht | split

theorem st_startCharger (s : State) (hP : P.holds s) : P.holds (startCharger s) := by
  unfold startCharger
  with_reducible repeat' first | assumption | apply Stable.mk_plain

theorem st_latchWake (s : State) (sources : BitVec 24) (hP : P.holds s) : P.holds (latchWake s sources) := by
  unfold latchWake
  with_reducible repeat' first
    | assumption
    | (extract_lets +onlyGivenNames z; refine st_cut (p := P.holds z) ?_ ?_; subst z; rotate_left; intro hz; clear_value z)
    | (extract_lets +onlyGivenNames z; refine st_cut (p := P.fst z) ?_ ?_; subst z; rotate_left; intro hz; clear_value z)
    | (extract_lets +onlyGivenNames z; subst z) | apply st_ite | split | apply Stable.mk_plain

theorem st_drawFree (s : State) (hP : P.holds s) : P.fst (drawFree s) := by
  unfold drawFree
  with_reducible repeat' first | assumption | apply st_pair | apply Stable.mk_plain

theorem st_glossEnqueue (s : State) (e : GlossEntry) (hP : P.holds s) : P.holds (glossEnqueue s e) := by
  unfold glossEnqueue
  with_reducible repeat' first | assumption | apply st_ite | split | apply Stable.mk_plain

theorem st_glossLose (s : State) (code : Nat) (hP : P.holds s) : P.holds (glossLose s code) := by
  unfold glossLose
  with_reducible repeat' first
    | assumption | (extract_lets +onlyGivenNames z; refine st_cut (p := P.holds z) ?_ ?_; subst z; rotate_left; intro hz; clear_value z)
    | (extract_lets +onlyGivenNames z; subst z) | apply st_ite | apply st_countUp | apply Stable.mk_plain

theorem st_raiseGloss (s : State) (code : Nat) (d0 d1 d2 : Word) (hP : P.holds s) : P.holds (raiseGloss s code d0 d1 d2) := by
  unfold raiseGloss
  with_reducible repeat' first
    | assumption | (extract_lets +onlyGivenNames z; refine st_cut (p := P.holds z) ?_ ?_; subst z; rotate_left; intro hz; clear_value z)
    | (extract_lets +onlyGivenNames z; subst z) | apply st_ite | apply st_countUp | apply st_glossEnqueue | apply st_glossLose
    | apply Stable.mk_plain

theorem st_putBytes (s : State) (a : Nat) (y0 : List Byte) (hP : P.holds s) : P.holds (putBytes s a y0) := by
  induction y0 generalizing s a <;>
  unfold putBytes
  with_reducible repeat' first | assumption | apply st_putByte | apply_assumption

theorem st_putWord (s : State) (a : Nat) (d : DWord) (hP : P.holds s) : P.holds (putWord s a d) := by
  unfold putWord
  with_reducible repeat' first | assumption | apply st_putBytes | apply Stable.mk_plain

theorem st_putPoison (s : State) (a : Nat) (d : DWord) (hP : P.holds s) : P.holds (putPoison s a d) := by
  unfold putPoison
  with_reducible repeat' first
    | assumption | (extract_lets +onlyGivenNames z; refine st_cut (p := P.holds z) ?_ ?_; subst z; rotate_left; intro hz; clear_value z)
    | apply st_putWord | apply Stable.mk_plain

theorem st_logCorrected (s : State) (a k : Nat) (hP : P.holds s) : P.holds (logCorrected s a k) := by
  unfold logCorrected
  with_reducible repeat' first
    | assumption | (extract_lets +onlyGivenNames z; refine st_cut (p := P.holds z) ?_ ?_; subst z; rotate_left; intro hz; clear_value z)
    | (extract_lets +onlyGivenNames z; subst z) | apply st_ite | apply st_countUp | apply st_setFlag | apply st_raiseGloss
    | apply Stable.mk_plain

theorem st_logBad (s : State) (req a : Nat) (hP : P.holds s) : P.holds (logBad s req a) := by
  unfold logBad
  with_reducible repeat' first
    | assumption | (extract_lets +onlyGivenNames z; refine st_cut (p := P.holds z) ?_ ?_; subst z; rotate_left; intro hz; clear_value z)
    | apply st_ite | apply st_countUp | apply st_raiseIrq | apply st_setFlag | apply st_wr | apply st_raiseGloss

theorem st_fetchWord (s : State) (req a : Nat) (hP : P.holds s) : P.fst (fetchWord s req a) := by
  unfold fetchWord
  with_reducible repeat' first | assumption | apply st_logCorrected | apply st_logBad | split | apply st_pair

theorem st_mergeWord (s : State) (req a : Nat) (off : Nat) (bs : List Byte) (hP : P.holds s) : P.holds (mergeWord s req a off bs) := by
  unfold mergeWord
  with_reducible repeat' first
    | assumption | apply st_ite | apply st_putBytes | apply st_fetchWord | apply st_putPoison | apply st_putWord | split | apply st_proj

theorem st_memLoad (s : State) (req a size : Nat) (hP : P.holds s) : P.fst (memLoad s req a size) := by
  unfold memLoad
  with_reducible repeat' first
    | assumption | (extract_lets +onlyGivenNames z; subst z) | apply st_iteFst | apply st_fetchWord
    | (refine st_left P (by assumption) ?_) | split | apply st_pair | apply st_proj

theorem st_memStore (s : State) (req a size : Nat) (v : DWord) (hP : P.holds s) : P.holds (memStore s req a size v) := by
  unfold memStore
  with_reducible repeat' first
    | assumption | (extract_lets +onlyGivenNames z; subst z) | apply st_ite | apply st_putWord | apply st_mergeWord

theorem st_memAdd (s : State) (req a : Nat) (v : DWord) (hP : P.holds s) : P.holds (memAdd s req a v) := by
  unfold memAdd
  with_reducible repeat' first
    | assumption | apply st_ite | apply st_putWord | apply st_fetchWord | apply st_putPoison | split | apply st_proj

theorem st_memSwap (s : State) (req a : Nat) (v : DWord) (hP : P.holds s) : P.fst (memSwap s req a v) := by
  unfold memSwap
  with_reducible repeat' first
    | assumption
    | (extract_lets +onlyGivenNames z; refine st_cut (p := P.holds z) ?_ ?_; subst z; rotate_left; intro hz; clear_value z)
    | (extract_lets +onlyGivenNames z; refine st_cut (p := P.fst z) ?_ ?_; subst z; rotate_left; intro hz; clear_value z)
    | (extract_lets +onlyGivenNames z; subst z) | apply st_fetchWord | apply st_putWord | (refine st_ofPair P (by assumption))
    | (refine st_left P (by assumption) ?_) | split | apply st_iteFst | apply st_pair | apply st_proj

theorem st_storeRun (s : State) (req : Nat) (y0 : Nat) (y1 : Nat) (y2 : List Byte) (hP : P.holds s) :
    P.holds (storeRun s req y0 y1 y2) := by
  induction y0 generalizing s req y1 y2 <;>
  unfold storeRun
  with_reducible repeat' first
    | assumption
    | (extract_lets +onlyGivenNames z; refine st_cut (p := P.holds z) ?_ ?_; subst z; rotate_left; intro hz; clear_value z)
    | (extract_lets +onlyGivenNames z; refine st_cut (p := P.fst z) ?_ ?_; subst z; rotate_left; intro hz; clear_value z)
    | (extract_lets +onlyGivenNames z; subst z) | apply st_ite | apply st_putWord | apply st_mergeWord | split | apply_assumption

theorem st_storeBytes (s : State) (req a : Nat) (bs : List Byte) (hP : P.holds s) : P.holds (storeBytes s req a bs) := by
  unfold storeBytes
  with_reducible repeat' first | assumption | apply st_storeRun

theorem st_readWords (s : State) (req : Nat) (y0 : Nat) (y1 : Nat) (hP : P.holds s) : P.fst (readWords s req y0 y1) := by
  induction y0 generalizing s y1 with
  | zero => exact hP
  | succ n ih => exact ih _ _ (st_fetchWord P s req y1 hP)

theorem st_readBytes (s : State) (req a n : Nat) (hP : P.holds s) : P.fst (readBytes s req a n) := by
  unfold readBytes
  with_reducible repeat' first
    | assumption
    | (extract_lets +onlyGivenNames z; refine st_cut (p := P.holds z) ?_ ?_; subst z; rotate_left; intro hz; clear_value z)
    | (extract_lets +onlyGivenNames z; refine st_cut (p := P.fst z) ?_ ?_; subst z; rotate_left; intro hz; clear_value z)
    | (extract_lets +onlyGivenNames z; subst z) | apply st_readWords | (refine st_ofPair P (by assumption))
    | (refine st_left P (by assumption) ?_) | split | apply st_iteFst | apply st_pair | apply st_proj

theorem st_storeWords (s : State) (a : Nat) (y0 : List DWord) (hP : P.holds s) : P.holds (storeWords s a y0) := by
  induction y0 generalizing s a <;>
  unfold storeWords
  with_reducible repeat' first | assumption | apply st_putWord | apply_assumption

theorem st_clearRange (s : State) (lo hi : Nat) (hP : P.holds s) : P.holds (clearRange s lo hi) := by
  unfold clearRange
  with_reducible repeat' first | assumption | apply Stable.mk_mem | exact ⟨id, id, id, id, id, ⟨id, id, id, id, id, ⟨id, id, id, id⟩⟩⟩

theorem st_onSp (s : State) (p : Nat) (f : SpSt → SpSt) (hP : P.holds s) : P.holds (onSp s p f) := by
  unfold onSp
  with_reducible repeat' first
    | assumption | apply Stable.mk_any
    | (refine ⟨?_, ?_, ?_, ?_, ?_, ⟨?_, ?_, ?_, ?_, ?_, ⟨?_, ?_, ?_, ?_⟩⟩⟩ <;> intro hn <;> first | exact hn | (simp; done) | simp [hn])

theorem st_onLink (s : State) (l : Nat) (f : LinkSt → LinkSt) (hP : P.holds s) : P.holds (onLink s l f) := by
  unfold onLink
  with_reducible repeat' first
    | assumption | apply Stable.mk_any
    | (refine ⟨?_, ?_, ?_, ?_, ?_, ⟨?_, ?_, ?_, ?_, ?_, ⟨?_, ?_, ?_, ?_⟩⟩⟩ <;> intro hn <;> first | exact hn | (simp; done) | simp [hn])

theorem st_familyPort (s : State) (p : Nat) (hP : P.holds s) : P.holds (familyPort s p) := by
  unfold familyPort
  with_reducible repeat' first | assumption | apply st_ite | apply st_onSp | apply st_wr

theorem st_familyPorts (s : State) (hP : P.holds s) : P.holds (familyPorts s) := by
  unfold familyPorts
  with_reducible repeat' first | assumption | apply st_familyPort | refine st_foldl P _ ?_ _ _ ?_ | intro t x ht

theorem st_rtsFollow (s : State) (p : Nat) (hP : P.holds s) : P.holds (rtsFollow s p) := by
  unfold rtsFollow
  with_reducible repeat' first | assumption | (extract_lets +onlyGivenNames z; subst z) | apply st_ite | apply st_onSp

theorem st_spPut (s : State) (p writer : Nat) (cs : List (BitVec 9)) (notBefore : Option DWord) (hP : P.holds s) :
    P.opt (spPut s p writer cs notBefore) := by
  unfold spPut
  with_reducible repeat' first
    | assumption | (extract_lets +onlyGivenNames z; subst z) | apply st_iteOpt | apply st_onSp | apply st_some | exact st_none P

theorem st_spExport (s : State) (p : Nat) (bs : List Byte) (hP : P.holds s) : P.opt (spExport s p bs) := by
  unfold spExport
  with_reducible repeat' first
    | assumption | (extract_lets +onlyGivenNames z; subst z) | apply st_iteOpt | apply st_spPut | exact st_none P

theorem st_bufferDrained (s : State) (l cls bytes : Nat) (hP : P.holds s) : P.holds (bufferDrained s l cls bytes) := by
  unfold bufferDrained
  with_reducible repeat' first | assumption | apply st_onLink

theorem st_holdEvt (s : State) (l events : Nat) (hP : P.holds s) : P.holds (holdEvt s l events) := by
  unfold holdEvt
  with_reducible repeat' first | assumption | apply st_ite | apply st_bufferDrained | apply st_onLink | split

theorem st_creditEvent (s : State) (l : Nat) (hP : P.holds s) : P.holds (creditEvent s l) := by
  unfold creditEvent
  with_reducible repeat' first | assumption | apply st_ite | apply st_onLink | split

theorem st_linkQueue (s : State) (l typ : Nat) (hd : LinkHeader) (payload : List Byte) (hP : P.holds s) :
    P.holds (linkQueue s l typ hd payload) := by
  unfold linkQueue
  with_reducible repeat' first | assumption | apply st_onLink

theorem st_sendDown (s : State) (typ : Nat) (hd : LinkHeader) (payload : List Byte) (hP : P.holds s) :
    P.holds (sendDown s typ hd payload) := by
  unfold sendDown
  with_reducible repeat' first | assumption | apply st_linkQueue | refine st_foldl P _ ?_ _ _ ?_ | intro t x ht

theorem st_sendUp (s : State) (typ : Nat) (hd : LinkHeader) (payload : List Byte) (hP : P.holds s) :
    P.holds (sendUp s typ hd payload) := by
  unfold sendUp
  with_reducible repeat' first | assumption | apply st_linkQueue | split

theorem st_linkTrace (s : State) (l : Nat) (bs : List Byte) (hP : P.holds s) : P.opt (linkTrace s l bs) := by
  unfold linkTrace
  with_reducible repeat' first | assumption | apply st_iteOpt | apply st_linkQueue | apply st_some | exact st_none P

theorem st_hostRing (s : State) (p : EvPacket) (hP : P.holds s) : P.holds (hostRing s p) := by
  unfold hostRing
  with_reducible repeat' first
    | assumption | (extract_lets +onlyGivenNames z; refine st_cut (p := P.holds z) ?_ ?_; subst z; rotate_left; intro hz; clear_value z)
    | (extract_lets +onlyGivenNames z; subst z) | apply st_ite | apply st_storeBytes | apply st_setFlag | apply st_raiseIrq
    | apply st_wrFld | apply Stable.mk_evt

theorem st_exportEvent (s : State) (p : EvPacket) (hP : P.holds s) : P.holds (exportEvent s p) := by
  unfold exportEvent
  with_reducible repeat' first
    | assumption | (extract_lets +onlyGivenNames z; subst z) | apply st_ite | apply st_wrFld | apply st_storeBytes | apply st_spExport
    | apply st_countUp | apply st_linkTrace | (refine st_optElim P (by assumption) ?_) | split

theorem st_restampLate (s : State) (q : QueuedEv) (hP : P.holds s) : P.fst (restampLate s q) := by
  unfold restampLate
  with_reducible repeat' first
    | assumption | (extract_lets +onlyGivenNames z; refine st_cut (p := P.holds z) ?_ ?_; subst z; rotate_left; intro hz; clear_value z)
    | (extract_lets +onlyGivenNames z; subst z) | apply st_iteFst | apply st_countUp | apply st_raiseGloss | apply st_voidFrame
    | apply st_pair

theorem st_makeAvailable (s : State) (q : QueuedEv) (hP : P.holds s) : P.fst (makeAvailable s q) := by
  unfold makeAvailable
  with_reducible repeat' first
    | assumption | apply st_restampLate | apply st_sendDown | (refine st_left P (by assumption) ?_) | split | apply st_pair

theorem st_releaseHeld (s : State) (hP : P.holds s) : P.holds (releaseHeld s) := by
  unfold releaseHeld
  with_reducible repeat' first
    | assumption | (extract_lets +onlyGivenNames z; subst z) | apply st_makeAvailable | refine st_foldl P _ ?_ _ _ ?_ | intro t x ht
    | (refine st_left P (by assumption) ?_) | split | apply Stable.mk_evt

theorem st_setComplete (s : State) (g : Nat) (c : Word) (hP : P.holds s) : P.holds (setComplete s g c) := by
  unfold setComplete
  with_reducible repeat' first
    | assumption | (extract_lets +onlyGivenNames z; subst z) | apply st_releaseHeld | apply Stable.mk_any
    | (refine ⟨?_, ?_, ?_, ?_, ?_, ⟨?_, ?_, ?_, ?_, ?_, ⟨?_, ?_, ?_, ?_⟩⟩⟩ <;> intro hn <;> first | exact hn | (simp; done) | simp [hn])

theorem st_pstatCount (s : State) (hi lo : Nat) (hP : P.holds s) : P.holds (pstatCount s hi lo) := by
  unfold pstatCount
  with_reducible repeat' first
    | assumption | (extract_lets +onlyGivenNames z; refine st_cut (p := P.holds z) ?_ ?_; subst z; rotate_left; intro hz; clear_value z)
    | (extract_lets +onlyGivenNames z; subst z) | apply st_ite | apply st_wrFld | apply st_setFlag

theorem st_acceptPeriod (s : State) (src : Nat) (p : EvPacket) (hP : P.holds s) : P.holds (acceptPeriod s src p) := by
  unfold acceptPeriod
  with_reducible repeat' first
    | assumption
    | (extract_lets +onlyGivenNames z; refine st_cut (p := P.holds z) ?_ ?_; subst z; rotate_left; intro hz; clear_value z)
    | (extract_lets +onlyGivenNames z; refine st_cut (p := P.fst z) ?_ ?_; subst z; rotate_left; intro hz; clear_value z)
    | (extract_lets +onlyGivenNames z; subst z) | apply st_ite | apply st_pstatCount | apply st_setComplete | split
    | apply Stable.mk_plain | apply Stable.mk_evt | apply Stable.mk_any
    | (refine ⟨?_, ?_, ?_, ?_, ?_, ⟨?_, ?_, ?_, ?_, ?_, ⟨?_, ?_, ?_, ?_⟩⟩⟩ <;> intro hn <;> first | exact hn | (simp; done) | simp [hn])

theorem st_offerEvent (s : State) (src : Nat) (p : EvPacket) (instant : DWord) (hP : P.holds s) :
    P.holds (offerEvent s src p instant) := by
  unfold offerEvent
  with_reducible repeat' first
    | assumption
    | (extract_lets +onlyGivenNames z; refine st_cut (p := P.holds z) ?_ ?_; subst z; rotate_left; intro hz; clear_value z)
    | (extract_lets +onlyGivenNames z; refine st_cut (p := P.fst z) ?_ ?_; subst z; rotate_left; intro hz; clear_value z)
    | (extract_lets +onlyGivenNames z; subst z) | apply st_ite | split | apply Stable.mk_plain | apply Stable.mk_evt
    | apply Stable.mk_any
    | (refine ⟨?_, ?_, ?_, ?_, ?_, ⟨?_, ?_, ?_, ?_, ?_, ⟨?_, ?_, ?_, ?_⟩⟩⟩ <;> intro hn <;> first | exact hn | (simp; done) | simp [hn])

theorem st_badMessage (s : State) (src first reason : Nat) (hP : P.holds s) : P.holds (badMessage s src first reason) := by
  unfold badMessage
  with_reducible repeat' first | assumption | apply st_raiseGloss | apply st_countUp

theorem st_enqueueEvent (s : State) (src : Nat) (p : EvPacket) (hP : P.holds s) : P.holds (enqueueEvent s src p) := by
  unfold enqueueEvent
  with_reducible repeat' first
    | assumption | (extract_lets +onlyGivenNames z; refine st_cut (p := P.holds z) ?_ ?_; subst z; rotate_left; intro hz; clear_value z)
    | (extract_lets +onlyGivenNames z; refine st_cut (p := P.fst z) ?_ ?_; subst z; rotate_left; intro hz; clear_value z)
    | (extract_lets +onlyGivenNames z; subst z) | apply st_ite | apply st_iteFst | apply st_makeAvailable | apply st_exportEvent
    | apply st_pair | apply st_proj | apply Stable.mk_evt

theorem st_acceptEvent (s : State) (src : Nat) (p : EvPacket) (hP : P.holds s) : P.holds (acceptEvent s src p) := by
  unfold acceptEvent
  with_reducible repeat' first
    | assumption
    | (extract_lets +onlyGivenNames z; refine st_cut (p := P.holds z) ?_ ?_; subst z; rotate_left; intro hz; clear_value z)
    | (extract_lets +onlyGivenNames z; refine st_cut (p := P.fst z) ?_ ?_; subst z; rotate_left; intro hz; clear_value z)
    | (extract_lets +onlyGivenNames z; subst z) | apply st_ite | apply st_acceptPeriod | apply st_exportEvent | apply st_badMessage
    | apply st_enqueueEvent | split

theorem st_takeForwarded (s : State) (p : EvPacket) (hP : P.holds s) : P.holds (takeForwarded s p) := by
  unfold takeForwarded
  with_reducible repeat' first
    | assumption | (extract_lets +onlyGivenNames z; refine st_cut (p := P.holds z) ?_ ?_; subst z; rotate_left; intro hz; clear_value z)
    | (extract_lets +onlyGivenNames z; subst z) | apply st_ite | apply st_exportEvent | apply Stable.mk_evt

theorem st_takeFrom (s : State) (src : Nat) (hP : P.holds s) : P.holds (takeFrom s src) := by
  unfold takeFrom
  with_reducible repeat' first
    | assumption
    | (extract_lets +onlyGivenNames z; refine st_cut (p := P.holds z) ?_ ?_; subst z; rotate_left; intro hz; clear_value z)
    | (extract_lets +onlyGivenNames z; refine st_cut (p := P.fst z) ?_ ?_; subst z; rotate_left; intro hz; clear_value z)
    | (extract_lets +onlyGivenNames z; subst z) | apply st_ite | apply st_creditEvent | apply st_sendUp | apply st_raiseGloss
    | apply st_countUp | apply st_acceptEvent | split | apply Stable.mk_plain | apply Stable.mk_evt | apply Stable.mk_any
    | (refine ⟨?_, ?_, ?_, ?_, ?_, ⟨?_, ?_, ?_, ?_, ?_, ⟨?_, ?_, ?_, ?_⟩⟩⟩ <;> intro hn <;> first | exact hn | (simp; done) | simp [hn])

theorem st_execEventAccept (s : State) (hP : P.holds s) : P.out (execEventAccept s) := by
  unfold execEventAccept
  with_reducible repeat' first | assumption | apply st_takeFrom | apply st_next | split

theorem st_deliverAll (s : State) (g : Nat) (top : Word) (hP : P.holds s) : P.holds (deliverAll s g top) := by
  unfold deliverAll
  with_reducible repeat' first
    | assumption | apply Stable.mk_evt | apply Stable.mk_any
    | (refine ⟨?_, ?_, ?_, ?_, ?_, ⟨?_, ?_, ?_, ?_, ?_, ⟨?_, ?_, ?_, ?_⟩⟩⟩ <;> intro hn <;> first | exact hn | (simp; done) | simp [hn])

theorem st_abandonFence (s : State) (g : Nat) (hP : P.holds s) : P.holds (abandonFence s g) :=
  st_voidFrame _ _ _ _ (st_countUp _ _ _ (st_raiseGloss _ _ _ _ _ _ (st_setComplete _ _ _ _ (st_deliverAll _ s g _ hP))))

theorem st_execFenceTimeout (g : Fin 4) (s : State) (hP : P.holds s) : P.out (execFenceTimeout g s) := by
  unfold execFenceTimeout
  with_reducible repeat' first | assumption | apply st_iteOut | apply st_abandonFence | apply st_next | split

theorem st_fenceBoundary (s : State) (hP : P.holds s) : P.holds (fenceBoundary s) := by
  unfold fenceBoundary
  with_reducible repeat' first
    | assumption | (extract_lets +onlyGivenNames z; subst z) | refine st_foldl P _ ?_ _ _ ?_ | intro t x ht | split | apply Stable.mk_any
    | (refine ⟨?_, ?_, ?_, ?_, ?_, ⟨?_, ?_, ?_, ?_, ?_, ⟨?_, ?_, ?_, ?_⟩⟩⟩ <;> intro hn <;> first | exact hn | (simp; done) | simp [hn])

theorem st_maskChanged (s : State) (g oldMask : Nat) (hP : P.holds s) : P.holds (maskChanged s g oldMask) := by
  unfold maskChanged
  with_reducible repeat' first
    | assumption | (extract_lets +onlyGivenNames z; refine st_cut (p := P.holds z) ?_ ?_; subst z; rotate_left; intro hz; clear_value z)
    | (extract_lets +onlyGivenNames z; subst z) | apply st_ite | apply st_setComplete | apply st_releaseHeld | apply Stable.mk_evt

theorem st_applyParsed (s : State) (src : Nat) (r : Parsed) (hP : P.holds s) : P.holds (applyParsed s src r) := by
  unfold applyParsed
  with_reducible repeat' first
    | assumption
    | (extract_lets +onlyGivenNames z; refine st_cut (p := P.holds z) ?_ ?_; subst z; rotate_left; intro hz; clear_value z)
    | (extract_lets +onlyGivenNames z; refine st_cut (p := P.fst z) ?_ ?_; subst z; rotate_left; intro hz; clear_value z)
    | (extract_lets +onlyGivenNames z; subst z) | apply st_badMessage | apply st_offerEvent | refine st_foldl P _ ?_ _ _ ?_
    | refine st_foldlFst P _ ?_ _ _ ?_ | intro t x ht | apply st_proj | apply Stable.mk_plain | apply Stable.mk_evt
    | apply Stable.mk_any
    | (refine ⟨?_, ?_, ?_, ?_, ?_, ⟨?_, ?_, ?_, ?_, ?_, ⟨?_, ?_, ?_, ?_⟩⟩⟩ <;> intro hn <;> first | exact hn | (simp; done) | simp [hn])

theorem st_takeRx (s : State) (src : Nat) (hP : P.holds s) : P.holds (takeRx s src) := by
  unfold takeRx
  with_reducible repeat' first | assumption | apply st_rtsFollow | apply st_onSp

theorem st_execMidiByteParse (src : Fin 8) (s : State) (hP : P.holds s) : P.out (execMidiByteParse src s) := by
  unfold execMidiByteParse
  with_reducible repeat' first
    | assumption
    | (extract_lets +onlyGivenNames z; refine st_cut (p := P.holds z) ?_ ?_; subst z; rotate_left; intro hz; clear_value z)
    | (extract_lets +onlyGivenNames z; refine st_cut (p := P.fst z) ?_ ?_; subst z; rotate_left; intro hz; clear_value z)
    | (extract_lets +onlyGivenNames z; subst z) | apply st_ite | apply st_iteOut | apply st_applyParsed | apply st_takeRx | split
    | apply st_next

theorem st_takeWord (src : Nat) (y0 : Nat) (y1 : State) (hP : P.holds y1) : P.holds (takeWord src y0 y1) := by
  induction y0 generalizing src y1 <;>
  unfold takeWord
  with_reducible repeat' first
    | assumption
    | (extract_lets +onlyGivenNames z; refine st_cut (p := P.holds z) ?_ ?_; subst z; rotate_left; intro hz; clear_value z)
    | (extract_lets +onlyGivenNames z; refine st_cut (p := P.fst z) ?_ ?_; subst z; rotate_left; intro hz; clear_value z)
    | (extract_lets +onlyGivenNames z; subst z) | apply st_ite | apply st_applyParsed | apply st_takeRx | split | apply_assumption

theorem st_execUmpWord (src : Fin 8) (s : State) (hP : P.holds s) : P.out (execUmpWord src s) := by
  unfold execUmpWord
  with_reducible repeat' first | assumption | apply st_takeWord | apply st_next

theorem st_writeHwin (s : State) (value : Word) (hP : P.holds s) : P.fst (writeHwin s value) := by
  unfold writeHwin
  with_reducible repeat' first
    | assumption
    | (extract_lets +onlyGivenNames z; refine st_cut (p := P.holds z) ?_ ?_; subst z; rotate_left; intro hz; clear_value z)
    | (extract_lets +onlyGivenNames z; refine st_cut (p := P.fst z) ?_ ?_; subst z; rotate_left; intro hz; clear_value z)
    | (extract_lets +onlyGivenNames z; subst z) | apply st_ite | apply st_iteFst | apply st_refuse | apply st_applyParsed
    | (refine st_ofPair P (by assumption)) | (refine st_left P (by assumption) ?_) | split | apply st_iteFst | apply st_pair
    | apply st_proj | apply Stable.mk_plain | apply Stable.mk_evt | apply Stable.mk_any
    | (refine ⟨?_, ?_, ?_, ?_, ?_, ⟨?_, ?_, ?_, ?_, ?_, ⟨?_, ?_, ?_, ?_⟩⟩⟩ <;> intro hn <;> first | exact hn | (simp; done) | simp [hn])

theorem st_formatChanged (s : State) (src : Nat) (hP : P.holds s) : P.holds (formatChanged s src) := by
  unfold formatChanged
  with_reducible repeat' first
    | assumption
    | (extract_lets +onlyGivenNames z; refine st_cut (p := P.holds z) ?_ ?_; subst z; rotate_left; intro hz; clear_value z)
    | (extract_lets +onlyGivenNames z; refine st_cut (p := P.fst z) ?_ ?_; subst z; rotate_left; intro hz; clear_value z)
    | (extract_lets +onlyGivenNames z; subst z) | apply st_ite | apply st_applyParsed | split | apply Stable.mk_plain
    | apply Stable.mk_evt | apply Stable.mk_any
    | (refine ⟨?_, ?_, ?_, ?_, ?_, ⟨?_, ?_, ?_, ?_, ?_, ⟨?_, ?_, ?_, ?_⟩⟩⟩ <;> intro hn <;> first | exact hn | (simp; done) | simp [hn])

theorem st_onPhrase (s : State) (pos : Nat) (f : Phrase → Phrase) (hP : P.holds s) : P.holds (onPhrase s pos f) := by
  unfold onPhrase
  with_reducible repeat' first | assumption | apply Stable.mk_plain

theorem st_freePhrase (s : State) (pos : Nat) (hP : P.holds s) : P.holds (freePhrase s pos) := by
  unfold freePhrase
  with_reducible repeat' first | assumption | apply Stable.mk_plain

theorem st_movePos (s : State) (old new : Nat) (f : Phrase → Phrase) (hP : P.holds s) : P.holds (movePos s old new f) := by
  unfold movePos
  with_reducible repeat' first
    | assumption | (extract_lets +onlyGivenNames z; refine st_cut (p := P.holds z) ?_ ?_; subst z; rotate_left; intro hz; clear_value z)
    | (extract_lets +onlyGivenNames z; subst z) | apply st_freePhrase | split | apply Stable.mk_plain

theorem st_putWordBytes (s : State) (a : Nat) (y0 : List Byte) (hP : P.holds s) : P.holds (putWordBytes s a y0) := by
  fun_induction putWordBytes s a y0 with
  | case1 s a b0 b1 b2 b3 b4 b5 b6 b7 rest ih => exact ih (st_putWord P _ _ _ hP)
  | case2 => exact hP

theorem st_writeWork (s : State) (p : Phrase) (w : Work) (hP : P.holds s) : P.holds (writeWork s p w) := by
  unfold writeWork
  with_reducible repeat' first | assumption | (extract_lets +onlyGivenNames z; subst z) | apply st_putWordBytes | split

theorem st_initPhraseState (s : State) (p : Phrase) (hP : P.holds s) : P.holds (initPhraseState s p) := by
  unfold initPhraseState
  with_reducible repeat' first
    | assumption | (extract_lets +onlyGivenNames z; refine st_cut (p := P.holds z) ?_ ?_; subst z; rotate_left; intro hz; clear_value z)
    | apply st_clearRange | apply st_putWordBytes | split

theorem st_copyWords (s : State) (y0 : Nat) (y1 : Nat) (y2 : Nat) (hP : P.holds s) : P.holds (copyWords s y0 y1 y2) := by
  induction y0 generalizing s y1 y2 <;>
  unfold copyWords
  with_reducible repeat' first
    | assumption | apply st_fetchWord | apply st_putPoison | apply st_putWord | (refine st_left P (by assumption) ?_) | split
    | apply_assumption

theorem st_shiftPhrase (s : State) (v pos xb yb : Nat) (hP : P.holds s) : P.holds (shiftPhrase s v pos xb yb) := by
  unfold shiftPhrase
  with_reducible repeat' first
    | assumption | (extract_lets +onlyGivenNames z; refine st_cut (p := P.holds z) ?_ ?_; subst z; rotate_left; intro hz; clear_value z)
    | apply st_copyWords | apply st_onPhrase | apply st_storeBytes | split

theorem st_packPart (v : Nat) (y : Bool) (s : State) (pos : Nat) (hP : P.holds s) : P.holds (packPart v y s pos) := by
  unfold packPart
  with_reducible repeat' first
    | assumption
    | (extract_lets +onlyGivenNames z; refine st_cut (p := P.holds z) ?_ ?_; subst z; rotate_left; intro hz; clear_value z)
    | (extract_lets +onlyGivenNames z; refine st_cut (p := P.fst z) ?_ ?_; subst z; rotate_left; intro hz; clear_value z)
    | (extract_lets +onlyGivenNames z; subst z) | apply st_ite | apply st_freePhrase | apply st_shiftPhrase | split | apply st_proj

theorem st_compact (s : State) (v : Nat) (hP : P.holds s) : P.holds (compact s v) := by
  unfold compact
  with_reducible repeat' first
    | assumption
    | (extract_lets +onlyGivenNames z; refine st_cut (p := P.holds z) ?_ ?_; subst z; rotate_left; intro hz; clear_value z)
    | (extract_lets +onlyGivenNames z; refine st_cut (p := P.fst z) ?_ ?_; subst z; rotate_left; intro hz; clear_value z)
    | (extract_lets +onlyGivenNames z; subst z) | apply st_packPart | refine st_foldl P _ ?_ _ _ ?_
    | refine st_foldlFst P _ ?_ _ _ ?_ | intro t x ht

theorem st_makeRoom (s : State) (v : Nat) (x : Syntax) (hP : P.holds s) : P.holds (makeRoom s v x) := by
  unfold makeRoom
  with_reducible repeat' first | assumption | apply st_ite | apply st_compact | split

theorem st_placeOn (s : State) (v : Nat) (x : Syntax) (hP : P.holds s) : P.fst (placeOn s v x) := by
  unfold placeOn
  with_reducible repeat' first
    | assumption
    | (extract_lets +onlyGivenNames z; refine st_cut (p := P.holds z) ?_ ?_; subst z; rotate_left; intro hz; clear_value z)
    | (extract_lets +onlyGivenNames z; refine st_cut (p := P.fst z) ?_ ?_; subst z; rotate_left; intro hz; clear_value z)
    | (extract_lets +onlyGivenNames z; subst z) | apply st_makeRoom | (refine st_ofPair P (by assumption))
    | (refine st_left P (by assumption) ?_) | apply st_iteFst | apply st_pair

theorem st_findHome (s : State) (lane : Nat) (x : Syntax) (hP : P.holds s) : P.fst (findHome s lane x) := by
  unfold findHome
  with_reducible repeat' first
    | assumption | (extract_lets +onlyGivenNames z; subst z) | apply st_placeOn | (refine st_left P (by assumption) ?_) | split
    | apply st_pair

theorem st_placePhrase (s : State) (pos : Nat) (hP : P.holds s) : P.holds (placePhrase s pos) := by
  unfold placePhrase
  with_reducible repeat' first
    | assumption
    | (extract_lets +onlyGivenNames z; refine st_cut (p := P.holds z) ?_ ?_; subst z; rotate_left; intro hz; clear_value z)
    | (extract_lets +onlyGivenNames z; refine st_cut (p := P.fst z) ?_ ?_; subst z; rotate_left; intro hz; clear_value z)
    | (extract_lets +onlyGivenNames z; subst z) | apply st_ite | apply st_findHome | apply st_initPhraseState | apply st_onPhrase
    | (refine st_ofPair P (by assumption)) | (refine st_left P (by assumption) ?_) | split | apply st_iteFst | apply st_pair

theorem st_diverge (s : State) (pos m : Nat) (hP : P.holds s) : P.holds (diverge s pos m) := by
  unfold diverge
  with_reducible repeat' first | assumption | apply st_onPhrase | apply st_voidSince | split

theorem st_divergeWork (s : State) (m pos : Nat) (hP : P.holds s) : P.holds (divergeWork s m pos) := by
  unfold divergeWork
  with_reducible repeat' first | assumption | apply st_ite | apply st_diverge | split

theorem st_addFeeds (s : State) (m b j : Nat) (v : DWord) (hP : P.holds s) : P.holds (addFeeds s m b j v) := by
  unfold addFeeds
  with_reducible repeat' first | assumption | apply st_memAdd | refine st_foldl P _ ?_ _ _ ?_ | intro t x ht

theorem st_setWord (s : State) (a : Nat) (d : DWord) (e : Option (BitVec 88)) (hP : P.holds s) : P.holds (setWord s a d e) := by
  unfold setWord
  with_reducible repeat' first | assumption | apply st_putWord | split | apply Stable.mk_plain

theorem st_swapWord (s : State) (a b : Nat) (hP : P.holds s) : P.holds (swapWord s a b) := by
  unfold swapWord
  with_reducible repeat' first
    | assumption
    | (extract_lets +onlyGivenNames z; refine st_cut (p := P.holds z) ?_ ?_; subst z; rotate_left; intro hz; clear_value z)
    | (extract_lets +onlyGivenNames z; refine st_cut (p := P.fst z) ?_ ?_; subst z; rotate_left; intro hz; clear_value z)
    | (extract_lets +onlyGivenNames z; subst z) | apply st_ite | apply st_setWord | (refine st_ofPair P (by assumption))
    | (refine st_left P (by assumption) ?_) | split | apply st_iteFst | apply st_pair | apply st_proj

theorem st_swapMix (s : State) (hP : P.holds s) : P.holds (swapMix s) := by
  unfold swapMix
  with_reducible repeat' first
    | assumption
    | (extract_lets +onlyGivenNames z; refine st_cut (p := P.holds z) ?_ ?_; subst z; rotate_left; intro hz; clear_value z)
    | (extract_lets +onlyGivenNames z; refine st_cut (p := P.fst z) ?_ ?_; subst z; rotate_left; intro hz; clear_value z)
    | (extract_lets +onlyGivenNames z; subst z) | apply st_swapWord | refine st_foldl P _ ?_ _ _ ?_
    | refine st_foldlFst P _ ?_ _ _ ?_ | intro t x ht

theorem st_onDac (s : State) (k : Nat) (f : DacSt → DacSt) (hP : P.holds s) : P.holds (onDac s k f) := by
  unfold onDac
  with_reducible repeat' first
    | assumption | (extract_lets +onlyGivenNames z; subst z) | apply Stable.mk_any
    | (refine ⟨?_, ?_, ?_, ?_, ?_, ⟨?_, ?_, ?_, ?_, ?_, ⟨?_, ?_, ?_, ?_⟩⟩⟩ <;> intro hn <;> first | exact hn | (simp; done) | simp [hn])

theorem st_busSample (s : State) (m bus j : Nat) (hP : P.holds s) : P.fst (busSample s m bus j) := by
  unfold busSample
  with_reducible repeat' first
    | assumption | apply st_iteFst | apply st_memLoad | apply st_voidFrame | apply st_pair | apply st_proj

theorem st_shifted (s : State) (m bus shift j : Nat) (hP : P.holds s) : P.fst (shifted s m bus shift j) := by
  unfold shifted
  with_reducible repeat' first | assumption | apply st_busSample | (refine st_left P (by assumption) ?_) | split | apply st_pair

theorem st_audioCodes (s : State) (m k : Nat) (hP : P.holds s) : P.fst (audioCodes s m k) := by
  unfold audioCodes
  with_reducible repeat' first
    | assumption | (extract_lets +onlyGivenNames z; subst z) | apply st_shifted | refine st_foldlFst P _ ?_ _ _ ?_ | intro t x ht
    | (refine st_ofPair P (by assumption)) | (refine st_left P (by assumption) ?_) | split | apply st_pair

theorem st_latchAudio (s : State) (m k : Nat) (hP : P.holds s) : P.holds (latchAudio s m k) := by
  unfold latchAudio
  with_reducible repeat' first
    | assumption
    | (extract_lets +onlyGivenNames z; refine st_cut (p := P.holds z) ?_ ?_; subst z; rotate_left; intro hz; clear_value z)
    | (extract_lets +onlyGivenNames z; refine st_cut (p := P.fst z) ?_ ?_; subst z; rotate_left; intro hz; clear_value z)
    | (extract_lets +onlyGivenNames z; subst z) | apply st_ite | apply st_onDac | apply st_audioCodes | apply st_raiseGloss
    | apply st_countUpBy | apply st_setFlag | (refine st_ofPair P (by assumption)) | (refine st_left P (by assumption) ?_) | split
    | apply st_iteFst | apply st_pair | apply st_proj

theorem st_kappaStep (s : State) (k : Nat) (hP : P.holds s) : P.holds (kappaStep s k) := by
  unfold kappaStep
  with_reducible repeat' first | assumption | (extract_lets +onlyGivenNames z; subst z) | apply st_ite | apply st_onDac

theorem st_execMuteRampEnd (k : Fin 16) (s : State) (hP : P.holds s) : P.out (execMuteRampEnd k s) := by
  unfold execMuteRampEnd
  with_reducible repeat' first | assumption | apply st_iteOut | apply st_kappaStep | apply st_next

theorem st_closePark (s : State) (k : Nat) (hP : P.holds s) : P.holds (closePark s k) := by
  unfold closePark
  with_reducible repeat' first
    | assumption | (extract_lets +onlyGivenNames z; refine st_cut (p := P.holds z) ?_ ?_; subst z; rotate_left; intro hz; clear_value z)
    | (extract_lets +onlyGivenNames z; subst z) | apply st_ite | apply st_onDac | apply Stable.mk_analog

theorem st_openPark (s : State) (k : Nat) (hP : P.holds s) : P.holds (openPark s k) := by
  unfold openPark
  with_reducible repeat' first | assumption | apply st_onDac

theorem st_execParkSwitchClose (k : Fin 16) (s : State) (hP : P.holds s) : P.out (execParkSwitchClose k s) := by
  unfold execParkSwitchClose
  with_reducible repeat' first | assumption | apply st_iteOut | apply st_kappaStep | apply st_closePark | apply st_next

theorem st_afterDacCh (s : State) (k : Nat) (hP : P.holds s) : P.holds (afterDacCh s k) := by
  unfold afterDacCh
  with_reducible repeat' first | assumption | apply st_ite | apply st_openPark

theorem st_openAllParks (s : State) (hP : P.holds s) : P.holds (openAllParks s) := by
  unfold openAllParks
  with_reducible repeat' first
    | assumption | apply st_ite | apply st_openPark | refine st_foldl P _ ?_ _ _ ?_ | refine st_foldlFst P _ ?_ _ _ ?_ | intro t x ht
    | split

theorem st_closeAllParks (s : State) (hP : P.holds s) : P.holds (closeAllParks s) := by
  unfold closeAllParks
  with_reducible repeat' first | assumption | apply st_closePark | refine st_foldl P _ ?_ _ _ ?_

theorem st_dacSample (j : Nat) (s : State) (k : Nat) (hP : P.holds s) : P.holds (dacSample j s k) := by
  unfold dacSample
  with_reducible repeat' first
    | assumption
    | (extract_lets +onlyGivenNames z; refine st_cut (p := P.holds z) ?_ ?_; subst z; rotate_left; intro hz; clear_value z)
    | (extract_lets +onlyGivenNames z; refine st_cut (p := P.fst z) ?_ ?_; subst z; rotate_left; intro hz; clear_value z)
    | (extract_lets +onlyGivenNames z; subst z) | apply st_ite | apply st_drawFree | apply st_kappaStep | apply st_onDac
    | apply st_closePark | (refine st_ofPair P (by assumption)) | (refine st_left P (by assumption) ?_) | split | apply st_iteFst
    | apply st_pair | apply st_proj

theorem st_audioWindow (s : State) (k : Nat) (d : Int) (hP : P.holds s) : P.holds (audioWindow s k d) := by
  unfold audioWindow
  with_reducible repeat' first
    | assumption
    | (extract_lets +onlyGivenNames z; refine st_cut (p := P.holds z) ?_ ?_; subst z; rotate_left; intro hz; clear_value z)
    | (extract_lets +onlyGivenNames z; refine st_cut (p := P.fst z) ?_ ?_; subst z; rotate_left; intro hz; clear_value z)
    | (extract_lets +onlyGivenNames z; subst z) | apply st_ite | apply st_onDac | apply st_raiseGloss | apply st_setFlag | split

theorem st_onCv (s : State) (k : Nat) (f : CvSt → CvSt) (hP : P.holds s) : P.holds (onCv s k f) := by
  unfold onCv
  with_reducible repeat' first
    | assumption | (extract_lets +onlyGivenNames z; subst z) | apply Stable.mk_any
    | (refine ⟨?_, ?_, ?_, ?_, ?_, ⟨?_, ?_, ?_, ?_, ?_, ⟨?_, ?_, ?_, ?_⟩⟩⟩ <;> intro hn <;> first | exact hn | (simp; done) | simp [hn])

theorem st_latchCv (s : State) (m k : Nat) (hP : P.holds s) : P.holds (latchCv s m k) := by
  unfold latchCv
  with_reducible repeat' first
    | assumption
    | (extract_lets +onlyGivenNames z; refine st_cut (p := P.holds z) ?_ ?_; subst z; rotate_left; intro hz; clear_value z)
    | (extract_lets +onlyGivenNames z; refine st_cut (p := P.fst z) ?_ ?_; subst z; rotate_left; intro hz; clear_value z)
    | (extract_lets +onlyGivenNames z; subst z) | apply st_ite | apply st_shifted | apply st_onCv | apply st_setFlag
    | refine st_foldl P _ ?_ _ _ ?_ | refine st_foldlFst P _ ?_ _ _ ?_ | intro t x ht | (refine st_ofPair P (by assumption))
    | (refine st_left P (by assumption) ?_) | split | apply st_iteFst | apply st_pair | apply st_proj

theorem st_spoilCv (s : State) (k : Nat) (hP : P.holds s) : P.holds (spoilCv s k) := by
  unfold spoilCv
  with_reducible repeat' first | assumption | (extract_lets +onlyGivenNames z; subst z) | apply st_ite | apply Stable.mk_analog

theorem st_runStepOne (s : State) (k : Nat) (hP : P.holds s) : P.holds (runStepOne s k) := by
  unfold runStepOne
  with_reducible repeat' first | assumption | apply st_onCv

theorem st_cvRamp (s : State) (k : Nat) (hP : P.holds s) : P.holds (cvRamp s k) := by
  unfold cvRamp
  with_reducible repeat' first
    | assumption
    | (extract_lets +onlyGivenNames z; refine st_cut (p := P.holds z) ?_ ?_; subst z; rotate_left; intro hz; clear_value z)
    | (extract_lets +onlyGivenNames z; refine st_cut (p := P.fst z) ?_ ?_; subst z; rotate_left; intro hz; clear_value z)
    | (extract_lets +onlyGivenNames z; subst z) | apply st_ite | apply st_onCv | apply st_spoilCv | apply st_runStepOne | split

theorem st_cvClose (s : State) (k : Nat) (hP : P.holds s) : P.holds (cvClose s k) := by
  unfold cvClose
  with_reducible repeat' first | assumption | apply st_onCv

theorem st_cvOpen (s : State) (k : Nat) (hP : P.holds s) : P.holds (cvOpen s k) := by
  unfold cvOpen
  with_reducible repeat' first | assumption | apply st_onCv

theorem st_cvSequence (s : State) (k : Nat) (hP : P.holds s) : P.holds (cvSequence s k) := by
  unfold cvSequence
  with_reducible repeat' first
    | assumption | (extract_lets +onlyGivenNames z; refine st_cut (p := P.holds z) ?_ ?_; subst z; rotate_left; intro hz; clear_value z)
    | apply st_ite | apply st_cvRamp | apply st_cvClose | apply st_cvOpen

theorem st_execCvParkSwitchClose (k : Fin 8) (s : State) (hP : P.holds s) : P.out (execCvParkSwitchClose k s) := by
  unfold execCvParkSwitchClose
  with_reducible repeat' first | assumption | apply st_iteOut | apply st_cvRamp | apply st_cvClose | apply st_next

theorem st_execCvSwitchOpen (k : Fin 8) (s : State) (hP : P.holds s) : P.out (execCvSwitchOpen k s) := by
  unfold execCvSwitchOpen
  with_reducible repeat' first | assumption | apply st_iteOut | apply st_cvRamp | apply st_cvOpen | apply st_next

theorem st_execCvRampEnd (k : Fin 8) (s : State) (hP : P.holds s) : P.out (execCvRampEnd k s) := by
  unfold execCvRampEnd
  with_reducible repeat' first
    | assumption | (extract_lets +onlyGivenNames z; subst z) | apply st_iteOut | apply st_cvRamp | apply st_next

theorem st_cvUpdate (s : State) (k : Nat) (hP : P.holds s) : P.holds (cvUpdate s k) := by
  unfold cvUpdate
  with_reducible repeat' first | assumption | apply st_onCv

theorem st_cvDue (s : State) (k : Nat) (hP : P.holds s) : P.holds (cvDue s k) := by
  unfold cvDue
  with_reducible repeat' first
    | assumption | (extract_lets +onlyGivenNames z; refine st_cut (p := P.holds z) ?_ ?_; subst z; rotate_left; intro hz; clear_value z)
    | (extract_lets +onlyGivenNames z; subst z) | apply st_ite | apply st_onCv | apply st_cvUpdate | split

theorem st_cvTimerUpdate (s : State) (n causes : Nat) (hP : P.holds s) : P.holds (cvTimerUpdate s n causes) := by
  unfold cvTimerUpdate
  with_reducible repeat' first
    | assumption | (extract_lets +onlyGivenNames z; subst z) | apply st_ite | apply st_cvUpdate | refine st_foldl P _ ?_ _ _ ?_
    | intro t x ht

theorem st_cvSample (j : Nat) (s : State) (k : Nat) (hP : P.holds s) : P.holds (cvSample j s k) := by
  unfold cvSample
  with_reducible repeat' first
    | assumption | (extract_lets +onlyGivenNames z; subst z) | apply st_ite | apply st_onCv | apply st_cvSequence

theorem st_cvDrop (s : State) (k : Nat) (hP : P.holds s) : P.holds (cvDrop s k) := by
  unfold cvDrop
  with_reducible repeat' first | assumption | apply st_spoilCv | apply st_onCv

theorem st_afterCvCh (s : State) (k : Nat) (hP : P.holds s) : P.holds (afterCvCh s k) := by
  unfold afterCvCh
  with_reducible repeat' first | assumption | apply st_ite | apply st_onCv | split

theorem st_execCvRailLoss (vcvp vcvn : Bool) (s : State) (hP : P.holds s) : P.out (execCvRailLoss vcvp vcvn s) := by
  unfold execCvRailLoss
  with_reducible repeat' first
    | assumption
    | (extract_lets +onlyGivenNames z; refine st_cut (p := P.holds z) ?_ ?_; subst z; rotate_left; intro hz; clear_value z)
    | (extract_lets +onlyGivenNames z; refine st_cut (p := P.fst z) ?_ ?_; subst z; rotate_left; intro hz; clear_value z)
    | (extract_lets +onlyGivenNames z; subst z) | apply st_ite | apply st_iteOut | apply st_setFlag | apply st_clrFlag
    | apply st_cvDrop | apply st_raiseGloss | refine st_foldl P _ ?_ _ _ ?_ | refine st_foldlFst P _ ?_ _ _ ?_ | intro t x ht | split
    | apply st_next | apply Stable.mk_plain | apply Stable.mk_analog | apply Stable.mk_any
    | (refine ⟨?_, ?_, ?_, ?_, ?_, ⟨?_, ?_, ?_, ?_, ?_, ⟨?_, ?_, ?_, ?_⟩⟩⟩ <;> intro hn <;> first | exact hn | (simp; done) | simp [hn])

theorem st_execCvRailGood (s : State) (hP : P.holds s) : P.out (execCvRailGood s) := by
  unfold execCvRailGood
  with_reducible repeat' first
    | assumption | (extract_lets +onlyGivenNames z; refine st_cut (p := P.holds z) ?_ ?_; subst z; rotate_left; intro hz; clear_value z)
    | (extract_lets +onlyGivenNames z; subst z) | apply st_iteOut | apply st_raiseGloss | apply st_setFlag | apply st_next
    | apply Stable.mk_analog

theorem st_calDrift (s : State) (k : Nat) (e : Int) (hP : P.holds s) : P.holds (calDrift s k e) := by
  unfold calDrift
  with_reducible repeat' first
    | assumption | (extract_lets +onlyGivenNames z; subst z) | apply st_ite | apply st_raiseGloss | apply st_setFlag

theorem st_cvWindow (s : State) (k : Nat) (e x : Int) (hP : P.holds s) : P.holds (cvWindow s k e x) := by
  unfold cvWindow
  with_reducible repeat' first
    | assumption | (extract_lets +onlyGivenNames z; refine st_cut (p := P.holds z) ?_ ?_; subst z; rotate_left; intro hz; clear_value z)
    | (extract_lets +onlyGivenNames z; subst z) | apply st_ite | apply st_onCv | apply st_calDrift

theorem st_startWindow (s : State) (i : Nat) (hP : P.holds s) : P.holds (startWindow s i) := by
  unfold startWindow
  with_reducible repeat' first
    | assumption | apply Stable.mk_plain | apply Stable.mk_analog | apply Stable.mk_any
    | (refine ⟨?_, ?_, ?_, ?_, ?_, ⟨?_, ?_, ?_, ?_, ?_, ⟨?_, ?_, ?_, ?_⟩⟩⟩ <;> intro hn <;> first | exact hn | (simp; done) | simp [hn])

theorem st_monitorSample (s : State) (hP : P.holds s) : P.holds (monitorSample s) := by
  unfold monitorSample
  with_reducible repeat' first
    | assumption
    | (extract_lets +onlyGivenNames z; refine st_cut (p := P.holds z) ?_ ?_; subst z; rotate_left; intro hz; clear_value z)
    | (extract_lets +onlyGivenNames z; refine st_cut (p := P.fst z) ?_ ?_; subst z; rotate_left; intro hz; clear_value z)
    | (extract_lets +onlyGivenNames z; subst z) | apply st_ite | apply st_startWindow | split | apply Stable.mk_plain
    | apply Stable.mk_analog | apply Stable.mk_any
    | (refine ⟨?_, ?_, ?_, ?_, ?_, ⟨?_, ?_, ?_, ?_, ?_, ⟨?_, ?_, ?_, ?_⟩⟩⟩ <;> intro hn <;> first | exact hn | (simp; done) | simp [hn])

theorem st_windowResult (s : State) (i : Nat) (measured : Int) (hP : P.holds s) : P.holds (windowResult s i measured) := by
  unfold windowResult
  with_reducible repeat' first
    | assumption
    | (extract_lets +onlyGivenNames z; refine st_cut (p := P.holds z) ?_ ?_; subst z; rotate_left; intro hz; clear_value z)
    | (extract_lets +onlyGivenNames z; refine st_cut (p := P.fst z) ?_ ?_; subst z; rotate_left; intro hz; clear_value z)
    | (extract_lets +onlyGivenNames z; subst z) | apply st_ite | apply st_measured | apply st_audioWindow | apply st_cvWindow | split

theorem st_execMonitorWindow (m : Measurement) (s : State) (hP : P.holds s) : P.out (execMonitorWindow m s) := by
  unfold execMonitorWindow
  with_reducible repeat' first
    | assumption
    | (extract_lets +onlyGivenNames z; refine st_cut (p := P.holds z) ?_ ?_; subst z; rotate_left; intro hz; clear_value z)
    | (extract_lets +onlyGivenNames z; refine st_cut (p := P.fst z) ?_ ?_; subst z; rotate_left; intro hz; clear_value z)
    | (extract_lets +onlyGivenNames z; subst z) | apply st_ite | apply st_iteOut | apply st_windowResult | apply st_startWindow
    | split | apply st_next

theorem st_onAdc (s : State) (n : Nat) (f : AdcSt → AdcSt) (hP : P.holds s) : P.holds (onAdc s n f) := by
  unfold onAdc
  with_reducible repeat' first
    | assumption | (extract_lets +onlyGivenNames z; subst z) | apply Stable.mk_any
    | (refine ⟨?_, ?_, ?_, ?_, ?_, ⟨?_, ?_, ?_, ?_, ?_, ⟨?_, ?_, ?_, ?_⟩⟩⟩ <;> intro hn <;> first | exact hn | (simp; done) | simp [hn])

theorem st_onDet (s : State) (x : Nat) (f : DetectorSt → DetectorSt) (hP : P.holds s) : P.holds (onDet s x f) := by
  unfold onDet
  with_reducible repeat' first
    | assumption | (extract_lets +onlyGivenNames z; subst z) | apply Stable.mk_any
    | (refine ⟨?_, ?_, ?_, ?_, ?_, ⟨?_, ?_, ?_, ?_, ?_, ⟨?_, ?_, ?_, ?_⟩⟩⟩ <;> intro hn <;> first | exact hn | (simp; done) | simp [hn])

theorem st_freshDetector (s : State) (x : Nat) (hP : P.holds s) : P.holds (freshDetector s x) := by
  unfold freshDetector
  with_reducible repeat' first | assumption | apply st_onDet

theorem st_enableDetector (s : State) (x : Nat) (hP : P.holds s) : P.holds (enableDetector s x) := by
  unfold enableDetector
  with_reducible repeat' first | assumption | apply st_onDet

theorem st_freshDetectors (s : State) (n : Nat) (hP : P.holds s) : P.holds (freshDetectors s n) := by
  unfold freshDetectors
  with_reducible repeat' first | assumption | apply st_freshDetector

theorem st_startChannel (s : State) (n u : Nat) (hP : P.holds s) : P.holds (startChannel s n u) := by
  unfold startChannel
  with_reducible repeat' first
    | assumption
    | (extract_lets +onlyGivenNames z; refine st_cut (p := P.holds z) ?_ ?_; subst z; rotate_left; intro hz; clear_value z)
    | (extract_lets +onlyGivenNames z; refine st_cut (p := P.fst z) ?_ ?_; subst z; rotate_left; intro hz; clear_value z)
    | (extract_lets +onlyGivenNames z; subst z) | apply st_freshDetectors | apply st_setFlag | apply st_onAdc

theorem st_stopChannel (s : State) (n : Nat) (hP : P.holds s) : P.holds (stopChannel s n) := by
  unfold stopChannel
  with_reducible repeat' first | assumption | apply st_freshDetectors | apply st_clrFlag | apply st_onAdc

theorem st_followRun (u : Nat) (s : State) (n : Nat) (hP : P.holds s) : P.holds (followRun u s n) := by
  unfold followRun
  with_reducible repeat' first
    | assumption
    | (extract_lets +onlyGivenNames z; refine st_cut (p := P.holds z) ?_ ?_; subst z; rotate_left; intro hz; clear_value z)
    | (extract_lets +onlyGivenNames z; refine st_cut (p := P.fst z) ?_ ?_; subst z; rotate_left; intro hz; clear_value z)
    | (extract_lets +onlyGivenNames z; subst z) | apply st_ite | apply st_startChannel | apply st_stopChannel | split

theorem st_cutChannels (s : State) (on : Nat → Bool) (hP : P.holds s) : P.holds (cutChannels s on) := by
  unfold cutChannels
  with_reducible repeat' first
    | assumption | apply Stable.mk_plain | apply Stable.mk_analog | apply Stable.mk_any
    | (refine ⟨?_, ?_, ?_, ?_, ?_, ⟨?_, ?_, ?_, ?_, ?_, ⟨?_, ?_, ?_, ?_⟩⟩⟩ <;> intro hn <;> first | exact hn | (simp; done) | simp [hn])

theorem st_syncInputs (s : State) (hP : P.holds s) : P.holds (syncInputs s) := by
  unfold syncInputs
  with_reducible repeat' first
    | assumption
    | (extract_lets +onlyGivenNames z; refine st_cut (p := P.holds z) ?_ ?_; subst z; rotate_left; intro hz; clear_value z)
    | (extract_lets +onlyGivenNames z; refine st_cut (p := P.fst z) ?_ ?_; subst z; rotate_left; intro hz; clear_value z)
    | (extract_lets +onlyGivenNames z; subst z) | apply st_ite | apply st_onAdc | apply st_startChannel
    | refine st_foldl P _ ?_ _ _ ?_ | refine st_foldlFst P _ ?_ _ _ ?_ | intro t x ht | split

theorem st_settled (s : State) (n : Nat) (hP : P.holds s) : P.holds (settled s n) := by
  unfold settled
  with_reducible repeat' first | assumption | apply st_freshDetectors | apply st_clrFlag | apply st_onAdc

theorem st_chainTick (s : State) (n u : Nat) (hP : P.holds s) : P.fst (chainTick s n u) := by
  unfold chainTick
  with_reducible repeat' first
    | assumption
    | (extract_lets +onlyGivenNames z; refine st_cut (p := P.holds z) ?_ ?_; subst z; rotate_left; intro hz; clear_value z)
    | (extract_lets +onlyGivenNames z; refine st_cut (p := P.fst z) ?_ ?_; subst z; rotate_left; intro hz; clear_value z)
    | (extract_lets +onlyGivenNames z; subst z) | apply st_ite | apply st_iteFst | apply st_onAdc
    | (refine st_ofPair P (by assumption)) | (refine st_left P (by assumption) ?_) | split | apply st_iteFst | apply st_pair
    | apply st_proj

theorem st_evaluate (s : State) (x : Nat) (w : Int) (hP : P.holds s) : P.fst (evaluate s x w) := by
  unfold evaluate
  with_reducible repeat' first
    | assumption | (extract_lets +onlyGivenNames z; refine st_cut (p := P.holds z) ?_ ?_; subst z; rotate_left; intro hz; clear_value z)
    | (extract_lets +onlyGivenNames z; subst z) | apply st_iteFst | apply st_onDet | apply st_wrFld | apply st_pair

theorem st_threshEvent (s : State) (x : Nat) (stamp : DWord) (value : Int) (hP : P.holds s) : P.holds (threshEvent s x stamp value) := by
  unfold threshEvent
  with_reducible repeat' first | assumption | (extract_lets +onlyGivenNames z; subst z) | apply st_offerEvent

theorem st_beginEvent (s : State) (x : Nat) (stamp : DWord) (w : Int) (hP : P.holds s) : P.holds (beginEvent s x stamp w) := by
  unfold beginEvent
  with_reducible repeat' first
    | assumption
    | (extract_lets +onlyGivenNames z; refine st_cut (p := P.holds z) ?_ ?_; subst z; rotate_left; intro hz; clear_value z)
    | (extract_lets +onlyGivenNames z; refine st_cut (p := P.fst z) ?_ ?_; subst z; rotate_left; intro hz; clear_value z)
    | (extract_lets +onlyGivenNames z; subst z) | apply st_ite | apply st_onDet | apply st_threshEvent | split

theorem st_runWindows (s : State) (x : Nat) (w : Int) (hP : P.holds s) : P.holds (runWindows s x w) := by
  unfold runWindows
  with_reducible repeat' first
    | assumption
    | (extract_lets +onlyGivenNames z; refine st_cut (p := P.holds z) ?_ ?_; subst z; rotate_left; intro hz; clear_value z)
    | (extract_lets +onlyGivenNames z; refine st_cut (p := P.fst z) ?_ ?_; subst z; rotate_left; intro hz; clear_value z)
    | (extract_lets +onlyGivenNames z; subst z) | apply st_onDet | apply st_threshEvent | refine st_foldl P _ ?_ _ _ ?_
    | refine st_foldlFst P _ ?_ _ _ ?_ | intro t x ht | apply st_proj

theorem st_detect (s : State) (x : Nat) (w : Int) (b : DWord) (hP : P.holds s) : P.holds (detect s x w b) := by
  unfold detect
  with_reducible repeat' first
    | assumption
    | (extract_lets +onlyGivenNames z; refine st_cut (p := P.holds z) ?_ ?_; subst z; rotate_left; intro hz; clear_value z)
    | (extract_lets +onlyGivenNames z; refine st_cut (p := P.fst z) ?_ ?_; subst z; rotate_left; intro hz; clear_value z)
    | (extract_lets +onlyGivenNames z; subst z) | apply st_ite | apply st_step | apply st_evaluate | apply st_beginEvent
    | (refine st_ofPair P (by assumption)) | (refine st_left P (by assumption) ?_) | split | apply st_iteFst | apply st_pair

theorem st_detectSample (s : State) (x : Nat) (v : Int) (b : DWord) (hP : P.holds s) : P.holds (detectSample s x v b) := by
  unfold detectSample
  with_reducible repeat' first
    | assumption
    | (extract_lets +onlyGivenNames z; refine st_cut (p := P.holds z) ?_ ?_; subst z; rotate_left; intro hz; clear_value z)
    | (extract_lets +onlyGivenNames z; refine st_cut (p := P.fst z) ?_ ?_; subst z; rotate_left; intro hz; clear_value z)
    | (extract_lets +onlyGivenNames z; subst z) | apply st_ite | apply st_runWindows | apply st_detect | split

theorem st_writeInput (s : State) (n u : Nat) (v : Word) (hP : P.holds s) : P.holds (writeInput s n u v) := by
  unfold writeInput
  with_reducible repeat' first | assumption | apply st_memStore

theorem st_holdCount (s : State) (n : Nat) (hP : P.holds s) : P.holds (holdCount s n) := by
  unfold holdCount
  with_reducible repeat' first
    | assumption
    | (extract_lets +onlyGivenNames z; refine st_cut (p := P.holds z) ?_ ?_; subst z; rotate_left; intro hz; clear_value z)
    | (extract_lets +onlyGivenNames z; refine st_cut (p := P.fst z) ?_ ?_; subst z; rotate_left; intro hz; clear_value z)
    | (extract_lets +onlyGivenNames z; subst z) | apply st_onDet

theorem st_deliverValue (s : State) (n u : Nat) (x : Int) (watched : Bool) (hP : P.holds s) :
    P.holds (deliverValue s n u x watched) := by
  unfold deliverValue
  with_reducible repeat' first
    | assumption
    | (extract_lets +onlyGivenNames z; refine st_cut (p := P.holds z) ?_ ?_; subst z; rotate_left; intro hz; clear_value z)
    | (extract_lets +onlyGivenNames z; refine st_cut (p := P.fst z) ?_ ?_; subst z; rotate_left; intro hz; clear_value z)
    | (extract_lets +onlyGivenNames z; subst z) | apply st_ite | apply st_setFlag | apply st_writeInput | apply st_onAdc
    | apply st_detectSample | (refine st_ofPair P (by assumption)) | (refine st_left P (by assumption) ?_) | split | apply st_iteFst
    | apply st_pair | apply st_proj

theorem st_deliverSample (s : State) (n u : Nat) (x : Int) (hP : P.holds s) : P.holds (deliverSample s n u x) := by
  unfold deliverSample
  with_reducible repeat' first
    | assumption
    | (extract_lets +onlyGivenNames z; refine st_cut (p := P.holds z) ?_ ?_; subst z; rotate_left; intro hz; clear_value z)
    | (extract_lets +onlyGivenNames z; refine st_cut (p := P.fst z) ?_ ?_; subst z; rotate_left; intro hz; clear_value z)
    | (extract_lets +onlyGivenNames z; subst z) | apply st_ite | apply st_holdCount | apply st_settled | apply st_onAdc
    | apply st_writeInput | apply st_deliverValue | split

theorem st_adcSample (u : Nat) (s : State) (n : Nat) (hP : P.holds s) : P.holds (adcSample u s n) := by
  unfold adcSample
  with_reducible repeat' first
    | assumption
    | (extract_lets +onlyGivenNames z; refine st_cut (p := P.holds z) ?_ ?_; subst z; rotate_left; intro hz; clear_value z)
    | (extract_lets +onlyGivenNames z; refine st_cut (p := P.fst z) ?_ ?_; subst z; rotate_left; intro hz; clear_value z)
    | (extract_lets +onlyGivenNames z; subst z) | apply st_ite | apply st_followRun | apply st_writeInput | apply st_holdCount
    | apply st_chainTick | apply st_deliverSample | (refine st_ofPair P (by assumption)) | (refine st_left P (by assumption) ?_)
    | split | apply st_iteFst | apply st_pair | apply st_proj

theorem st_adcTick (s : State) (hP : P.holds s) : P.holds (adcTick s) := by
  unfold adcTick
  with_reducible repeat' first | assumption | apply st_ite | apply st_adcSample | refine st_foldl P _ ?_ _ _ ?_

theorem st_giveSample (s : State) (n : Nat) (x : Int) (hP : P.holds s) : P.holds (giveSample s n x) := by
  unfold giveSample
  with_reducible repeat' first
    | assumption
    | (extract_lets +onlyGivenNames z; refine st_cut (p := P.holds z) ?_ ?_; subst z; rotate_left; intro hz; clear_value z)
    | (extract_lets +onlyGivenNames z; refine st_cut (p := P.fst z) ?_ ?_; subst z; rotate_left; intro hz; clear_value z)
    | (extract_lets +onlyGivenNames z; subst z) | apply st_deliverSample | apply st_onAdc

theorem st_execSettleDone (n : Fin 16) (tap : BitVec 40) (s : State) (hP : P.holds s) : P.out (execSettleDone n tap s) := by
  unfold execSettleDone
  with_reducible repeat' first | assumption | apply st_ite | apply st_iteOut | apply st_giveSample | split | apply st_next

theorem st_execThresholdCrossing (x : Fin 32) (tap : BitVec 40) (s : State) (hP : P.holds s) :
    P.out (execThresholdCrossing x tap s) := by
  unfold execThresholdCrossing
  with_reducible repeat' first | assumption | apply st_ite | apply st_iteOut | apply st_giveSample | split | apply st_next

theorem st_execThresholdEvent (x : Fin 32) (tap : BitVec 40) (s : State) (hP : P.holds s) :
    P.out (execThresholdEvent x tap s) := by
  unfold execThresholdEvent
  with_reducible repeat' first | assumption | apply st_ite | apply st_iteOut | apply st_giveSample | split | apply st_next

theorem st_execHoldoffEnd (x : Fin 32) (s : State) (hP : P.holds s) : P.out (execHoldoffEnd x s) := by
  unfold execHoldoffEnd
  with_reducible repeat' first | assumption | apply st_iteOut | apply st_onDet | apply st_next

theorem st_resetLoop (s : State) (n : Nat) (hP : P.holds s) : P.holds (resetLoop s n) := by
  unfold resetLoop
  with_reducible repeat' first
    | assumption
    | (extract_lets +onlyGivenNames z; refine st_cut (p := P.holds z) ?_ ?_; subst z; rotate_left; intro hz; clear_value z)
    | (extract_lets +onlyGivenNames z; refine st_cut (p := P.fst z) ?_ ?_; subst z; rotate_left; intro hz; clear_value z)
    | (extract_lets +onlyGivenNames z; subst z) | apply st_onAdc

theorem st_execModulatorOverload (n : Fin 16) (resets : Word) (s : State) (hP : P.holds s) :
    P.out (execModulatorOverload n resets s) := by
  unfold execModulatorOverload
  with_reducible repeat' first
    | assumption
    | (extract_lets +onlyGivenNames z; refine st_cut (p := P.holds z) ?_ ?_; subst z; rotate_left; intro hz; clear_value z)
    | (extract_lets +onlyGivenNames z; refine st_cut (p := P.fst z) ?_ ?_; subst z; rotate_left; intro hz; clear_value z)
    | (extract_lets +onlyGivenNames z; subst z) | apply st_ite | apply st_iteOut | apply st_setFlag | apply st_resetLoop
    | apply st_raiseGloss | apply st_onAdc | split | apply st_next

theorem st_customIgnored (s : State) (hP : P.holds s) : P.holds (customIgnored s) := by
  unfold customIgnored
  with_reducible repeat' first | assumption | apply st_setFlag

theorem st_writeCdata (s : State) (v : Word) (hP : P.holds s) : P.holds (writeCdata s v) := by
  unfold writeCdata
  with_reducible repeat' first
    | assumption | (extract_lets +onlyGivenNames z; subst z) | apply st_ite | apply st_customIgnored | apply st_wrFld
    | apply Stable.mk_analog

theorem st_writeCdelay (s : State) (v : Word) (hP : P.holds s) : P.holds (writeCdelay s v) := by
  unfold writeCdelay
  with_reducible repeat' first | assumption | apply st_ite | apply st_customIgnored | apply st_refuse | apply st_wrFld | split

theorem st_resetInputs (s : State) (hP : P.holds s) : P.holds (resetInputs s) := by
  unfold resetInputs
  with_reducible repeat' first
    | assumption
    | (extract_lets +onlyGivenNames z; refine st_cut (p := P.holds z) ?_ ?_; subst z; rotate_left; intro hz; clear_value z)
    | (extract_lets +onlyGivenNames z; refine st_cut (p := P.fst z) ?_ ?_; subst z; rotate_left; intro hz; clear_value z)
    | (extract_lets +onlyGivenNames z; subst z) | apply st_proj | apply Stable.mk_plain | apply Stable.mk_analog
    | apply Stable.mk_any | apply Stable.mk_regs | exact ⟨id, id, id, id, id, ⟨id, id, id, id, id, ⟨id, id, id, id⟩⟩⟩
    | (refine ⟨?_, ?_, ?_, ?_, ?_, ⟨?_, ?_, ?_, ?_, ?_, ⟨?_, ?_, ?_, ?_⟩⟩⟩ <;> intro hn <;> first | exact hn | (simp; done) | simp [hn])

end Sys2Proof.Laws
end

