-- ==== Sys2Proof/Laws/Regs.lean ====
section
/-! SUPPORT. Sparse maps, registers and bytes: a read after a write to the same place gives the value written, a write leaves every
other place alone, and a write keeps the canonical form. -/

namespace Sys2Proof.Laws
open Sys2Proof.Machine

/-! ### Sparse maps -/

section Maps
variable {α : Type}

theorem mapGet_mapErase_self (m : List (Nat × α)) (k : Nat) : mapGet (mapErase m k) k = none := by
  induction m with
  | nil => rfl
  | cons e r ih =>
    unfold mapErase
    split
    · exact ih
    · rename_i h
      rw [mapGet, if_neg h, ih]

theorem mapGet_mapErase_ne (m : List (Nat × α)) (k j : Nat) (h : j ≠ k) : mapGet (mapErase m k) j = mapGet m j := by
  induction m with
  | nil => rfl
  | cons e r ih =>
    unfold mapErase
    split
    · rename_i hk
      rw [ih, mapGet, if_neg (hk ▸ h)]
    · rw [mapGet, ih, mapGet]

theorem mapGet_mapPut_self (m : List (Nat × α)) (k : Nat) (v : α) : mapGet (mapPut m k v) k = some v := by
  induction m with
  | nil => simp [mapPut, mapGet]
  | cons e r ih =>
    unfold mapPut
    split
    · simp [mapGet]
    · split
      · simp [mapGet]
      · rename_i h
        rw [mapGet, if_neg h, ih]

theorem mapGet_mapPut_ne (m : List (Nat × α)) (k j : Nat) (v : α) (h : j ≠ k) : mapGet (mapPut m k v) j = mapGet m j := by
  induction m with
  | nil => simp [mapPut, mapGet, h]
  | cons e r ih =>
    unfold mapPut
    split
    · rw [mapGet, if_neg h]
    · split
      · rename_i hk
        rw [mapGet, if_neg h, mapGet, if_neg (hk ▸ h)]
      · rw [mapGet, ih, mapGet]

theorem mapGet_mapSet_self [DecidableEq α] (m : List (Nat × α)) (d v : α) (k : Nat) : (mapGet (mapSet m d k v) k).getD d = v := by
  unfold mapSet
  split
  · rename_i h
    rw [mapGet_mapErase_self, h]; rfl
  · rw [mapGet_mapPut_self]; rfl

theorem mapGet_mapSet_ne [DecidableEq α] (m : List (Nat × α)) (d v : α) (k j : Nat) (h : j ≠ k) :
    mapGet (mapSet m d k v) j = mapGet m j := by
  unfold mapSet
  split
  · exact mapGet_mapErase_ne m k j h
  · exact mapGet_mapPut_ne m k j v h

/-- Every key of a map is above a bound. -/
def above (b : Nat) (m : List (Nat × α)) : Prop := ∀ e ∈ m, b < e.1

theorem mapSorted_cons (a : Nat) (x : α) (r : List (Nat × α)) :
    mapSorted ((a, x) :: r) = true ↔ above a r ∧ mapSorted r = true := by
  induction r generalizing a x with
  | nil => simp [mapSorted, above]
  | cons e r ih =>
    obtain ⟨b, y⟩ := e
    rw [mapSorted, Bool.and_eq_true, decide_eq_true_eq]
    constructor
    · rintro ⟨h1, h2⟩
      refine ⟨fun e he => ?_, h2⟩
      rcases List.mem_cons.1 he with rfl | he
      · exact h1
      · exact Nat.lt_trans h1 (((ih b y).1 h2).1 e he)
    · rintro ⟨h1, h2⟩
      exact ⟨h1 (b, y) List.mem_cons_self, h2⟩

theorem mem_mapErase (m : List (Nat × α)) (k : Nat) (e : Nat × α) (h : e ∈ mapErase m k) : e ∈ m := by
  induction m with
  | nil => exact h
  | cons x r ih =>
    unfold mapErase at h
    split at h
    · exact List.mem_cons_of_mem _ (ih h)
    · rcases List.mem_cons.1 h with rfl | h
      · exact List.mem_cons_self
      · exact List.mem_cons_of_mem _ (ih h)

theorem mem_mapPut (m : List (Nat × α)) (k : Nat) (v : α) (e : Nat × α) (h : e ∈ mapPut m k v) : e = (k, v) ∨ e ∈ m := by
  induction m with
  | nil => exact Or.inl (List.mem_singleton.1 h)
  | cons x r ih =>
    unfold mapPut at h
    split at h
    · rcases List.mem_cons.1 h with rfl | h
      · exact Or.inl rfl
      · exact Or.inr h
    · split at h
      · rcases List.mem_cons.1 h with rfl | h
        · exact Or.inl rfl
        · exact Or.inr (List.mem_cons_of_mem _ h)
      · rcases List.mem_cons.1 h with rfl | h
        · exact Or.inr List.mem_cons_self
        · exact (ih h).imp id (List.mem_cons_of_mem _)

theorem mapSorted_mapErase (m : List (Nat × α)) (k : Nat) (h : mapSorted m = true) : mapSorted (mapErase m k) = true := by
  induction m with
  | nil => rfl
  | cons x r ih =>
    obtain ⟨a, y⟩ := x
    rw [mapSorted_cons] at h
    unfold mapErase
    split
    · exact ih h.2
    · exact (mapSorted_cons a y _).2 ⟨fun e he => h.1 e (mem_mapErase r k e he), ih h.2⟩

theorem mapSorted_mapPut (m : List (Nat × α)) (k : Nat) (v : α) (h : mapSorted m = true) : mapSorted (mapPut m k v) = true := by
  induction m with
  | nil => rfl
  | cons x r ih =>
    obtain ⟨a, y⟩ := x
    have h' := (mapSorted_cons a y r).1 h
    unfold mapPut
    split
    · rename_i hk
      refine (mapSorted_cons k v _).2 ⟨fun e he => ?_, h⟩
      rcases List.mem_cons.1 he with rfl | he
      · exact hk
      · exact Nat.lt_trans hk (h'.1 e he)
    · split
      · rename_i hk
        subst hk
        exact (mapSorted_cons k v r).2 h'
      · rename_i h1 h2
        refine (mapSorted_cons a y _).2 ⟨fun e he => ?_, ih h'.2⟩
        rcases mem_mapPut r k v e he with rfl | he
        · show a < k
          omega
        · exact h'.1 e he

theorem mapSorted_filter (m : List (Nat × α)) (p : Nat × α → Bool) (h : mapSorted m = true) : mapSorted (m.filter p) = true := by
  induction m with
  | nil => rfl
  | cons x r ih =>
    obtain ⟨a, y⟩ := x
    rw [mapSorted_cons] at h
    rw [List.filter_cons]
    split
    · exact (mapSorted_cons a y _).2 ⟨fun e he => h.1 e ((List.mem_filter.1 he).1), ih h.2⟩
    · exact ih h.2

end Maps

/-! ### Registers -/

/-- A register reads what was written to it. -/
@[simp] theorem rd_wr (s : State) (a : Nat) (v : Word) : rd (wr s a v) a = v := mapGet_mapSet_self _ _ _ _

/-- A write leaves every other register as it was. -/
theorem rd_wr_ne (s : State) (a b : Nat) (v : Word) (h : b ≠ a) : rd (wr s a v) b = rd s b := by
  show (mapGet (mapSet s.regs (regReset a) a v) b).getD _ = _
  rw [mapGet_mapSet_ne _ _ _ _ _ h]; rfl

theorem regsWf_mapSet (m : List (Nat × Word)) (a : Nat) (v : Word) (h : regsWf m = true) :
    regsWf (mapSet m (regReset a) a v) = true := by
  simp only [regsWf, Bool.and_eq_true, List.all_eq_true, decide_eq_true_eq] at h ⊢
  unfold mapSet
  split
  · exact ⟨mapSorted_mapErase m a h.1, fun e he => h.2 e (mem_mapErase m a e he)⟩
  · rename_i hv
    refine ⟨mapSorted_mapPut m a v h.1, fun e he => ?_⟩
    rcases mem_mapPut m a v e he with rfl | he
    · exact hv
    · exact h.2 e he

/-! ### Memory -/

/-- A byte reads what was written to it. -/
@[simp] theorem memByte_putByte (s : State) (a : Nat) (b : Byte) : memByte (putByte s a b) a = b := mapGet_mapSet_self _ _ _ _

/-- A byte written leaves every other byte as it was. -/
theorem memByte_putByte_ne (s : State) (a c : Nat) (b : Byte) (h : c ≠ a) : memByte (putByte s a b) c = memByte s c := by
  show (mapGet (mapSet s.mem 0 a b) c).getD 0 = _
  rw [mapGet_mapSet_ne _ _ _ _ _ h]; rfl

theorem memoryWf_mapSet (m : List Host.Cell) (a : Nat) (b : Byte) (h : Memory.wf m = true) : Memory.wf (mapSet m 0 a b) = true := by
  simp only [Memory.wf, Bool.and_eq_true, List.all_eq_true, decide_eq_true_eq] at h ⊢
  unfold mapSet
  split
  · exact ⟨mapSorted_mapErase m a h.1, fun e he => h.2 e (mem_mapErase m a e he)⟩
  · rename_i hv
    refine ⟨mapSorted_mapPut m a b h.1, fun e he => ?_⟩
    rcases mem_mapPut m a b e he with rfl | he
    · exact hv
    · exact h.2 e he

theorem regsWf_filter (m : List (Nat × Word)) (p : Nat × Word → Bool) (h : regsWf m = true) : regsWf (m.filter p) = true := by
  simp only [regsWf, Bool.and_eq_true, List.all_eq_true] at h ⊢
  exact ⟨mapSorted_filter m p h.1, fun e he => h.2 e ((List.mem_filter.1 he).1)⟩

theorem memoryWf_filter (m : List Host.Cell) (p : Host.Cell → Bool) (h : Memory.wf m = true) : Memory.wf (m.filter p) = true := by
  simp only [Memory.wf, Bool.and_eq_true, List.all_eq_true] at h ⊢
  exact ⟨mapSorted_filter m p h.1, fun e he => h.2 e ((List.mem_filter.1 he).1)⟩

end Sys2Proof.Laws
end

