-- ==== Sys2Proof/Laws/Touch.lean ====
section
/-! SUPPORT. What each elementary operation touches, said once, so that the frame of a command is put together from them. -/

namespace Sys2Proof.Laws
open Sys2Proof.Machine

variable {ps : List Part} {rs : List Nat} {s t u : State}

theorem changes_rfl : Changes ps s s := by constructor <;> intro _ <;> rfl

theorem changes_trans (h : Changes ps s t) (k : Changes ps t u) : Changes ps s u := by
  constructor <;> intro hp
  · exact (k.time hp).trans (h.time hp)
  · exact (k.host hp).trans (h.host hp)
  · exact (k.regs hp).trans (h.regs hp)
  · exact (k.staged hp).trans (h.staged hp)
  · exact (k.mem hp).trans (h.mem hp)
  · exact (k.ecc hp).trans (h.ecc hp)
  · exact (k.memint hp).trans (h.memint hp)
  · exact (k.gloss hp).trans (h.gloss hp)
  · exact (k.evt hp).trans (h.evt hp)
  · exact (k.syns hp).trans (h.syns hp)
  · exact (k.decls hp).trans (h.decls hp)
  · exact (k.phrases hp).trans (h.phrases hp)
  · exact (k.alloc hp).trans (h.alloc hp)
  · exact (k.verbs hp).trans (h.verbs hp)
  · exact (k.parser hp).trans (h.parser hp)
  · exact (k.ended hp).trans (h.ended hp)
  · exact (k.boot hp).trans (h.boot hp)
  · exact (k.tense hp).trans (h.tense hp)
  · exact (k.timers hp).trans (h.timers hp)
  · exact (k.analog hp).trans (h.analog hp)
  · exact (k.pins hp).trans (h.pins hp)
  · exact (k.power hp).trans (h.power hp)
  · exact (k.sp hp).trans (h.sp hp)
  · exact (k.sys hp).trans (h.sys hp)
  · exact (k.links hp).trans (h.links hp)
  · exact (k.dai hp).trans (h.dai hp)
  · exact (k.flash hp).trans (h.flash hp)
  · exact (k.nvm hp).trans (h.nvm hp)
  · exact (k.image hp).trans (h.image hp)
  · exact (k.fuse hp).trans (h.fuse hp)
  · exact (k.tap hp).trans (h.tap hp)
  · exact (k.free hp).trans (h.free hp)
  · exact (k.pending hp).trans (h.pending hp)

theorem touches_rfl : Touches ps rs s s := ⟨changes_rfl, fun _ _ => rfl⟩

theorem touches_trans (h : Touches ps rs s t) (k : Touches ps rs t u) : Touches ps rs s u :=
  ⟨changes_trans h.parts k.parts, fun a ha => (k.regs a ha).trans (h.regs a ha)⟩

theorem touches_mono {qs : List Part} {ss : List Nat} (h : Touches qs ss s t) (hq : qs ⊆ ps) (hr : ss ⊆ rs) : Touches ps rs s t := by
  have hc : ∀ p, p ∉ Part.regs :: ps → p ∉ Part.regs :: qs := fun p hp hm => hp (by
    cases hm with
    | head => exact List.mem_cons_self
    | tail _ h => exact List.mem_cons_of_mem _ (hq h))
  refine ⟨?_, fun a ha => h.regs a (fun hm => ha (hr hm))⟩
  constructor <;> intro hp
  · exact h.parts.time (hc _ hp)
  · exact h.parts.host (hc _ hp)
  · exact h.parts.regs (hc _ hp)
  · exact h.parts.staged (hc _ hp)
  · exact h.parts.mem (hc _ hp)
  · exact h.parts.ecc (hc _ hp)
  · exact h.parts.memint (hc _ hp)
  · exact h.parts.gloss (hc _ hp)
  · exact h.parts.evt (hc _ hp)
  · exact h.parts.syns (hc _ hp)
  · exact h.parts.decls (hc _ hp)
  · exact h.parts.phrases (hc _ hp)
  · exact h.parts.alloc (hc _ hp)
  · exact h.parts.verbs (hc _ hp)
  · exact h.parts.parser (hc _ hp)
  · exact h.parts.ended (hc _ hp)
  · exact h.parts.boot (hc _ hp)
  · exact h.parts.tense (hc _ hp)
  · exact h.parts.timers (hc _ hp)
  · exact h.parts.analog (hc _ hp)
  · exact h.parts.pins (hc _ hp)
  · exact h.parts.power (hc _ hp)
  · exact h.parts.sp (hc _ hp)
  · exact h.parts.sys (hc _ hp)
  · exact h.parts.links (hc _ hp)
  · exact h.parts.dai (hc _ hp)
  · exact h.parts.flash (hc _ hp)
  · exact h.parts.nvm (hc _ hp)
  · exact h.parts.image (hc _ hp)
  · exact h.parts.fuse (hc _ hp)
  · exact h.parts.tap (hc _ hp)
  · exact h.parts.free (hc _ hp)
  · exact h.parts.pending (hc _ hp)

/-- A state literal that leaves the registers as they are. -/
theorem touches_lit (h : Touches ps rs s t) (k : Changes (.regs :: ps) t u) (hr : u.regs = t.regs) : Touches ps rs s u :=
  touches_trans h ⟨k, fun a _ => by unfold rd; rw [hr]⟩

theorem touches_wr (h : Touches ps rs s t) {a : Nat} (v : Word) (ha : a ∈ rs) : Touches ps rs s (wr t a v) := by
  refine touches_trans h ⟨?_, fun b hb => rd_wr_ne _ _ _ _ fun e => hb (e ▸ ha)⟩
  constructor <;> intro hp <;> first | rfl | exact absurd List.mem_cons_self hp

theorem touches_wrFld (h : Touches ps rs s t) {a : Nat} (hi lo x : Nat) (ha : a ∈ rs) : Touches ps rs s (wrFld t a hi lo x) :=
  touches_wr h _ ha

theorem touches_setFlag (h : Touches ps rs s t) {a : Nat} (i : Nat) (ha : a ∈ rs) : Touches ps rs s (setFlag t a i) := touches_wr h _ ha

theorem touches_clrFlag (h : Touches ps rs s t) {a : Nat} (i : Nat) (ha : a ∈ rs) : Touches ps rs s (clrFlag t a i) := touches_wr h _ ha

theorem touches_raiseIrq (h : Touches ps rs s t) (i : Nat) (ha : R.sysIrqstat ∈ rs) : Touches ps rs s (raiseIrq t i) := touches_wr h _ ha

theorem touches_countUp (h : Touches ps rs s t) {a : Nat} (ha : a ∈ rs) : Touches ps rs s (countUp t a) := by
  unfold countUp
  split
  · exact h
  · split
    · exact touches_wr h _ ha
    · exact touches_wr h _ ha

theorem touches_refuse (h : Touches ps rs s t) {a : Nat} (e : Bool) (hh : Part.host ∈ Part.regs :: ps) (ha : pageOf a + 0xFFFC ∈ rs) :
    Touches ps rs s (refuse t a e) := by
  have hc : Changes (.regs :: ps) t { t with host := { t.host with errOpen := t.host.errOpen.filter (· ≠ pageOf a) } } := by
    constructor <;> intro hp <;> first | rfl | exact absurd hh hp
  exact touches_wr (touches_lit h hc rfl) _ ha

theorem touches_ite {c : Prop} [Decidable c] {a b : State} (ha : Touches ps rs s a) (hb : Touches ps rs s b) :
    Touches ps rs s (if c then a else b) := by
  split <;> assumption

theorem touches_countUpBy (h : Touches ps rs s t) {a : Nat} (n : Nat) (ha : a ∈ rs) : Touches ps rs s (countUpBy t a n) := by
  unfold countUpBy
  generalize List.range n = l
  induction l generalizing t with
  | nil => exact h
  | cons _ _ ih => exact ih (touches_countUp h ha)

/-- Only the recorder's own state differs. -/
theorem touches_gloss (h : Touches ps rs s t) (g : GlossSt) (hg : Part.gloss ∈ Part.regs :: ps) :
    Touches ps rs s { t with gloss := g } := by
  refine touches_lit h ?_ rfl
  constructor <;> intro hp <;> first | rfl | exact absurd hg hp

theorem touches_glossEnqueue (h : Touches ps rs s t) (e : GlossEntry) (hg : Part.gloss ∈ Part.regs :: ps) :
    Touches ps rs s (glossEnqueue t e) := by
  unfold glossEnqueue
  split <;> exact touches_gloss h _ hg

theorem touches_glossLose (h : Touches ps rs s t) (code : Nat) (hg : Part.gloss ∈ Part.regs :: ps) (hr : R.glossLost ∈ rs) :
    Touches ps rs s (glossLose t code) := by
  unfold glossLose
  dsimp only
  split <;> exact touches_gloss (touches_countUp h hr) _ hg

theorem touches_raiseGloss (h : Touches ps rs s t) (code : Nat) (d0 d1 d2 : Word) (hg : Part.gloss ∈ Part.regs :: ps)
    (hr : glossRegs ⊆ rs) : Touches ps rs s (raiseGloss t code d0 d1 d2) := by
  have m1 : R.glossFrzcnt ∈ rs := hr (by decide)
  have m2 : R.glossSupp ∈ rs := hr (by decide)
  have m3 : R.glossLost ∈ rs := hr (by decide)
  unfold raiseGloss
  split
  · exact touches_gloss (touches_countUp h m1) _ hg
  · extract_lets +onlyGivenNames burst lvl
    split
    · exact touches_countUp (touches_gloss h _ hg) m2
    · extract_lets +onlyGivenNames g u
      have hu : Touches ps rs s u := touches_ite h (touches_gloss h _ hg)
      split
      · exact touches_glossEnqueue (touches_gloss hu _ hg) _ hg
      · exact touches_glossLose hu _ hg m3

end Sys2Proof.Laws
end

