-- ==== Sys2Proof/Laws/Bytes.lean ====
section
/-! SUPPORT. Little-endian bytes, and loads and stores of memory words without errors (R3, R395, R398, R404). -/

namespace Sys2Proof.Laws
open Sys2Proof.Machine

@[simp] theorem length_leBytes (n v : Nat) : (leBytes n v).length = n := by
  induction n generalizing v with
  | zero => rfl
  | succ n ih => simp [leBytes, ih]

theorem leBytes_leNat (l : List Byte) : leBytes l.length (leNat l) = l := by
  induction l with
  | nil => rfl
  | cons b bs ih =>
    have h1 : BitVec.ofNat 8 (b.toNat + 256 * leNat bs) = b := by
      apply BitVec.eq_of_toNat_eq
      have := b.isLt
      simp only [BitVec.toNat_ofNat]
      omega
    have h2 : (b.toNat + 256 * leNat bs) / 256 = leNat bs := by
      have := b.isLt
      omega
    simp only [leNat, List.length_cons, leBytes, h1, h2, ih]

theorem leNat_leBytes (n v : Nat) : leNat (leBytes n v) = v % 256 ^ n := by
  induction n generalizing v with
  | zero => simp [leBytes, leNat, Nat.mod_one]
  | succ n ih =>
    have h : v % 256 ^ (n + 1) = v % 256 + 256 * (v / 256 % 256 ^ n) := by
      rw [Nat.pow_succ, Nat.mul_comm, Nat.mod_mul]
    simp only [leBytes, leNat, ih, BitVec.toNat_ofNat]
    exact h.symm

theorem leNat_lt (l : List Byte) : leNat l < 256 ^ l.length := by
  induction l with
  | nil => simp [leNat]
  | cons b bs ih =>
    have := b.isLt
    simp only [leNat, List.length_cons, Nat.pow_succ]
    omega

@[simp] theorem length_memBytes (s : State) (a n : Nat) : (memBytes s a n).length = n := by simp [memBytes]

theorem memBytes_succ (s : State) (a n : Nat) : memBytes s a (n + 1) = memByte s a :: memBytes s (a + 1) n := by
  simp only [memBytes, List.range_succ_eq_map, List.map_cons, List.map_map, Nat.add_zero, List.cons.injEq, true_and]
  apply List.map_congr_left
  intro i _
  simp [Nat.add_comm 1 i, Nat.add_assoc, Nat.succ_eq_add_one]

theorem memBytes_drop_take (s : State) (a k n : Nat) (m : Nat) (h : k + n ≤ m) :
    ((memBytes s a m).drop k).take n = memBytes s (a + k) n := by
  apply List.ext_getElem
  · simp
    omega
  · intro i h1 h2
    simp [memBytes, Nat.add_assoc]

/-- A word's bytes are the bytes it was formed from. -/
theorem wordBytes_memWord (s : State) (a : Nat) : wordBytes (memWord s a) = memBytes s a 8 := by
  have h := leNat_lt (memBytes s a 8)
  rw [length_memBytes] at h
  have e : (memWord s a).toNat = leNat (memBytes s a 8) := by
    unfold memWord w64
    rw [BitVec.toNat_ofNat]
    exact Nat.mod_eq_of_lt h
  have k := leBytes_leNat (memBytes s a 8)
  rw [length_memBytes] at k
  unfold wordBytes
  rw [e, k]

/-! ### Words of memory without errors -/

theorem fetchWord_clean (s : State) (req a : Nat) (h : mapGet s.ecc a = none) : fetchWord s req a = (s, memWord s a, false, false) := by
  unfold fetchWord readWord
  simp only [h]

/-- A load of 4 bytes from a word boundary of 32 bits finds them, and changes nothing. -/
theorem memLoad4_clean (s : State) (req a : Nat) (ha : a % 4 = 0) (h : mapGet s.ecc (a / 8 * 8) = none) :
    memLoad s req a 4 = (s, w64 (leNat (memBytes s a 4)), false, 0) := by
  have hk : a % 8 + 4 ≤ 8 := by omega
  have e : a / 8 * 8 + a % 8 = a := by omega
  unfold memLoad
  simp only [fetchWord_clean s req _ h, wordBytes_memWord, if_pos hk]
  rw [memBytes_drop_take s _ _ _ 8 hk, e]
  rfl

theorem word_of_bytes (s : State) (a : Nat) : w32 (w64 (leNat (memBytes s a 4))).toNat = word32At s a := by
  have h := leNat_lt (memBytes s a 4)
  rw [length_memBytes] at h
  unfold word32At w64
  rw [BitVec.toNat_ofNat, Nat.mod_eq_of_lt (by omega)]

/-- A store of 4 bytes at a word boundary of 32 bits puts them, and changes nothing else. -/
theorem memStore4_clean (s : State) (req a : Nat) (v : DWord) (ha : a % 4 = 0) (h : mapGet s.ecc (a / 8 * 8) = none) :
    memStore s req a 4 v = putBytes s a (leBytes 4 v.toNat) := by
  have hk : a % 8 + 4 ≤ 8 := by omega
  have e : a / 8 * 8 + a % 8 = a := by omega
  unfold memStore
  rw [if_neg (by omega), if_pos hk]
  unfold mergeWord
  simp only [h, e]

theorem memByte_putBytes (l : List Byte) (s : State) (a b : Nat) :
    memByte (putBytes s a l) b = if a ≤ b ∧ b < a + l.length then nth l (b - a) 0 else memByte s b := by
  induction l generalizing s a with
  | nil =>
    rw [if_neg (by simp)]
    rfl
  | cons x xs ih =>
    unfold putBytes
    rw [ih]
    by_cases h0 : b = a
    · subst h0
      rw [if_neg (by omega), memByte_putByte, if_pos (by simp)]
      simp [nth]
    · rw [memByte_putByte_ne _ _ _ _ h0]
      by_cases h1 : a ≤ b ∧ b < a + (x :: xs).length
      · rw [if_pos h1, if_pos (by simp at h1; omega)]
        obtain ⟨k, hk⟩ : ∃ k, b = a + (k + 1) := ⟨b - a - 1, by omega⟩
        subst hk
        simp [nth, show a + (k + 1) - (a + 1) = k by omega]
      · rw [if_neg h1, if_neg (by simp at h1; omega)]

theorem changes_putBytes (l : List Byte) (s : State) (a : Nat) : putBytes s a l = { s with mem := (putBytes s a l).mem } := by
  induction l generalizing s a with
  | nil => rfl
  | cons x xs ih =>
    unfold putBytes
    rw [ih]
    rfl

/-! ### Memory without errors -/

theorem putBytes_parts (l : List Byte) (s : State) (a : Nat) : (putBytes s a l).ecc = s.ecc ∧ (putBytes s a l).regs = s.regs := by
  rw [changes_putBytes]
  exact ⟨rfl, rfl⟩

theorem touches_putBytes {ps : List Part} {rs : List Nat} {s t : State} (h : Touches ps rs s t) (a : Nat) (l : List Byte)
    (hp : Part.mem ∈ Part.regs :: ps) : Touches ps rs s (putBytes t a l) := by
  rw [changes_putBytes]
  refine touches_lit h ?_ rfl
  constructor <;> intro hq <;> first | rfl | exact absurd hp hq

theorem putBytes_append (l m : List Byte) (s : State) (a : Nat) : putBytes s a (l ++ m) = putBytes (putBytes s a l) (a + l.length) m := by
  induction l generalizing s a with
  | nil => rfl
  | cons x xs ih =>
    rw [List.cons_append, putBytes.eq_2, putBytes.eq_2, ih]
    congr 1
    simp
    omega

theorem putWord_noError {s : State} (h : s.ecc = []) (a : Nat) (d : DWord) : putWord s a d = putBytes s a (wordBytes d) := by
  unfold putWord
  congr 1
  have : mapErase s.ecc a = s.ecc := by rw [h]; rfl
  rw [this]

theorem mergeWord_noError {s : State} (h : s.ecc = []) (req a off : Nat) (l : List Byte) :
    mergeWord s req a off l = putBytes s (a + off) l := by
  unfold mergeWord
  rw [h]
  rfl

theorem wordBytes_leNat (l : List Byte) (h : l.length = 8) : wordBytes (w64 (leNat l)) = l := by
  have hl : leNat l < 2 ^ 64 := by
    have h8 := leNat_lt l
    rw [h] at h8
    exact Nat.lt_of_lt_of_eq h8 (by decide)
  unfold wordBytes w64
  rw [BitVec.toNat_ofNat, Nat.mod_eq_of_lt hl, ← h, leBytes_leNat]

theorem accessWidth_fits (a n : Nat) : 1 ≤ accessWidth a n ∧ (accessWidth a n = 8 → 8 ≤ n) ∧
    (1 ≤ n → accessWidth a n ≤ n) := by
  unfold accessWidth
  split
  · omega
  · split
    · omega
    · split <;> omega

theorem storeRun_noError (n : Nat) (l : List Byte) {s : State} (h : s.ecc = []) (req a : Nat) (hn : l.length ≤ n) :
    storeRun s req n a l = putBytes s a l := by
  induction n generalizing s a l with
  | zero =>
    have : l = [] := List.length_eq_zero_iff.mp (by omega)
    subst this; rfl
  | succ n ih =>
    obtain ⟨h1, h8, hle⟩ := accessWidth_fits a l.length
    rw [storeRun.eq_2]
    have step : (if accessWidth a l.length = 8 then putWord s a (w64 (leNat (l.take 8)))
        else mergeWord s req (a / 8 * 8) (a % 8) (l.take (accessWidth a l.length))) =
        putBytes s a (l.take (accessWidth a l.length)) := by
      split
      · rename_i e
        rw [putWord_noError h, wordBytes_leNat _ (by rw [List.length_take]; omega), e]
      · rw [mergeWord_noError h, show a / 8 * 8 + a % 8 = a by omega]
    rw [step, ih _ (by rw [(putBytes_parts _ _ _).1]; exact h) _ (by rw [List.length_drop]; omega)]
    rcases Nat.eq_zero_or_pos l.length with e | e
    · have : l = [] := List.length_eq_zero_iff.mp e
      subst this; simp only [List.take_nil, List.drop_nil, putBytes]
    · conv => rhs; rw [← List.take_append_drop (accessWidth a l.length) l, putBytes_append, List.length_take,
        Nat.min_eq_left (hle e)]

theorem storeBytes_noError (l : List Byte) {s : State} (h : s.ecc = []) (req a : Nat) : storeBytes s req a l = putBytes s a l :=
  storeRun_noError _ _ h _ _ (Nat.le_refl _)

theorem memStore_noError {s : State} (h : s.ecc = []) (req a size : Nat) (v : DWord) :
    memStore s req a size v = putBytes s a (leBytes size v.toNat) := by
  have e : a / 8 * 8 + a % 8 = a := by omega
  unfold memStore
  dsimp only
  split
  · rename_i h8
    rw [putWord_noError h, h8.1, show a / 8 * 8 = a from by omega]
    rfl
  · split
    · rw [mergeWord_noError h, e]
    · rw [mergeWord_noError h, mergeWord_noError (by rw [(putBytes_parts _ _ _).1]; exact h), e]
      have k := putBytes_append ((leBytes size v.toNat).take (8 - a % 8)) ((leBytes size v.toNat).drop (8 - a % 8)) s a
      rw [List.take_append_drop] at k
      rw [k]
      congr 1
      rw [List.length_take, length_leBytes]
      omega

theorem putWordBytes_noError (l : List Byte) {s : State} (h : s.ecc = []) (a : Nat) :
    putWordBytes s a l = putBytes s a (l.take (l.length / 8 * 8)) := by
  fun_induction putWordBytes s a l with
  | case1 s a b0 b1 b2 b3 b4 b5 b6 b7 rest ih =>
    have hw : wordBytes (w64 (leNat [b0, b1, b2, b3, b4, b5, b6, b7])) = [b0, b1, b2, b3, b4, b5, b6, b7] := by
      have h := leNat_lt [b0, b1, b2, b3, b4, b5, b6, b7]
      unfold wordBytes w64
      have e : 256 ^ [b0, b1, b2, b3, b4, b5, b6, b7].length = 2 ^ 64 := by simp
      rw [e] at h
      rw [BitVec.toNat_ofNat, Nat.mod_eq_of_lt h]
      exact leBytes_leNat [b0, b1, b2, b3, b4, b5, b6, b7]
    rw [putWord_noError h, hw] at ih ⊢
    rw [ih (by rw [(putBytes_parts _ _ _).1]; exact h)]
    refine (putBytes_append [b0, b1, b2, b3, b4, b5, b6, b7] _ s a).symm.trans ?_
    congr 1
    have : (b0 :: b1 :: b2 :: b3 :: b4 :: b5 :: b6 :: b7 :: rest).length / 8 * 8 = rest.length / 8 * 8 + 8 := by
      simp only [List.length_cons]
      omega
    rw [this]
    rfl
  | case2 bs s a hl =>
    have : bs.length / 8 = 0 := by
      rcases bs with _ | ⟨b0, _ | ⟨b1, _ | ⟨b2, _ | ⟨b3, _ | ⟨b4, _ | ⟨b5, _ | ⟨b6, _ | ⟨b7, r⟩⟩⟩⟩⟩⟩⟩⟩ <;> first | exact (hl _ _ _ _ _ _ _ _ _ rfl).elim | simp
    rw [this]
    rfl

/-- A copy of whole words without errors changes memory alone, and no byte outside its destination. -/
theorem copyWords_noError (n : Nat) {s : State} (h : s.ecc = []) (src dst : Nat) :
    copyWords s n src dst = { s with mem := (copyWords s n src dst).mem } ∧
      (∀ b, b < dst ∨ dst + 8 * n ≤ b → memByte (copyWords s n src dst) b = memByte s b) ∧
      (src + 8 * n ≤ dst ∨ dst + 8 * n ≤ src → ∀ j, j < 8 * n → memByte (copyWords s n src dst) (dst + j) = memByte s (src + j)) := by
  induction n generalizing s src dst with
  | zero => exact ⟨rfl, fun _ _ => rfl, fun _ j hj => absurd hj (by omega)⟩
  | succ n ih =>
    have hstep : copyWords s (n + 1) src dst = copyWords (putBytes s dst (memBytes s src 8)) n (src + 8) (dst + 8) := by
      rw [copyWords]
      rw [fetchWord_clean s 3 src (by rw [h]; rfl)]
      simp only [Bool.false_eq_true, if_false]
      rw [putWord_noError h, wordBytes_memWord]
    have hl : (memBytes s src 8).length = 8 := length_memBytes ..
    obtain ⟨i1, i2, i3⟩ := ih (s := putBytes s dst (memBytes s src 8)) (by rw [(putBytes_parts _ _ _).1]; exact h) (src + 8) (dst + 8)
    rw [hstep]
    refine ⟨?_, ?_, ?_⟩
    · rw [i1, changes_putBytes]
    · intro b hb
      rw [i2 b (by omega), memByte_putBytes, hl, if_neg (by omega)]
    · intro hd j hj
      by_cases hj8 : j < 8
      · rw [i2 _ (by omega), memByte_putBytes, hl, if_pos (by omega), Nat.add_sub_cancel_left]
        unfold memBytes nth
        simp [List.getD_eq_getElem?_getD, hj8]
      · have e1 : dst + j = dst + 8 + (j - 8) := by omega
        rw [e1, i3 (by omega) (j - 8) (by omega), memByte_putBytes, hl, if_neg (by omega)]
        congr 1
        omega

end Sys2Proof.Laws
end

