-- ==== Sys2Proof/Laws/Family.lean ====
section
/-! SUPPORT. What the family measured after a reset does to the serial ports' dividers (R341). -/

namespace Sys2Proof.Laws
open Sys2Proof Sys2Proof.Machine

/-- The BAUD registers of the eight ports. -/
def baudRegs : List Nat := (List.range 8).map (spReg · 4)

/-- What the divider of a port becomes. -/
def familyBaud (s : State) (p : Nat) : Word :=
  if flag s R.clkStat 3 = true ∧ rd s (spReg p 4) = 0x003126E9 then 0x002D288D else rd s (spReg p 4)

theorem touches_familyPort (s : State) (p : Nat) (hp : p < 8) : Touches [.sp] baudRegs s (familyPort s p) := by
  have hm : spReg p 4 ∈ baudRegs := List.mem_map.2 ⟨p, List.mem_range.2 hp, rfl⟩
  unfold familyPort
  split
  · refine touches_lit (touches_wr touches_rfl _ hm) ?_ rfl
    constructor <;> intro h <;> first | rfl | simp at h
  · exact touches_rfl

theorem rd_familyPort (s : State) (p : Nat) : rd (familyPort s p) (spReg p 4) = familyBaud s p := by
  unfold familyPort familyBaud
  by_cases h : flag s R.clkStat 3 = true ∧ rd s (spReg p 4) = 0x003126E9
  · rw [if_pos (by simp [h.1, h.2]), if_pos h]
    show rd (wr s (spReg p 4) _) _ = _
    rw [rd_wr]
  · rw [if_neg h, if_neg]
    intro k
    simp at k
    exact h k

theorem rd_familyPort_ne (s : State) (p a : Nat) (h : a ≠ spReg p 4) : rd (familyPort s p) a = rd s a := by
  unfold familyPort
  split
  · show rd (wr s (spReg p 4) _) _ = _
    rw [rd_wr_ne _ _ _ _ h]
  · rfl

theorem familyBaud_congr {s t : State} (p : Nat) (h : rd t R.clkStat = rd s R.clkStat) (k : rd t (spReg p 4) = rd s (spReg p 4)) :
    familyBaud t p = familyBaud s p := by
  unfold familyBaud flag
  rw [h, k]

theorem spReg_ne {p q : Nat} (h : p ≠ q) : spReg p 4 ≠ spReg q 4 := by unfold spReg R.spPage; omega

theorem clkStat_ne_baud (p : Nat) : R.clkStat ≠ spReg p 4 := by unfold spReg R.spPage R.clkStat; omega

theorem familyFold (l : List Nat) (hl : ∀ p ∈ l, p < 8) (hd : l.Nodup) (s : State) :
    Touches [.sp] baudRegs s (l.foldl familyPort s) ∧ (∀ p ∈ l, rd (l.foldl familyPort s) (spReg p 4) = familyBaud s p) := by
  induction l generalizing s with
  | nil => exact ⟨touches_rfl, by simp⟩
  | cons q l ih =>
    obtain ⟨hq, hd⟩ := List.nodup_cons.1 hd
    obtain ⟨a, b⟩ := ih (fun p hp => hl p (List.mem_cons_of_mem _ hp)) hd (familyPort s q)
    refine ⟨touches_trans (touches_familyPort s q (hl q List.mem_cons_self)) a, ?_⟩
    intro p hp
    have out : ∀ (l : List Nat) (u : State) (a : Nat), (∀ r ∈ l, a ≠ spReg r 4) → rd (l.foldl familyPort u) a = rd u a := by
      intro l
      induction l with
      | nil => intro _ _ _; rfl
      | cons r l ih =>
        intro u a h
        rw [List.foldl_cons, ih _ _ fun r' hr' => h r' (List.mem_cons_of_mem _ hr'), rd_familyPort_ne _ _ _ (h r List.mem_cons_self)]
    rcases List.mem_cons.1 hp with rfl | hp
    · have hn : ∀ r ∈ l, spReg p 4 ≠ spReg r 4 := fun r hr => spReg_ne fun e => hq (by rw [e]; exact hr)
      rw [List.foldl_cons, out _ _ _ hn, rd_familyPort]
    · rw [List.foldl_cons, b p hp]
      exact familyBaud_congr p (rd_familyPort_ne _ _ _ (clkStat_ne_baud q))
        (rd_familyPort_ne _ _ _ (spReg_ne fun e => hq (e ▸ hp)))

/-- The dividers follow the family, and nothing else changes but what the ports hold of them. -/
theorem familyPorts_facts (s : State) :
    Touches [.sp] baudRegs s (familyPorts s) ∧ ∀ p, p < 8 → rd (familyPorts s) (spReg p 4) = familyBaud s p := by
  obtain ⟨a, b⟩ := familyFold (List.range 8) (fun p hp => List.mem_range.1 hp) List.nodup_range s
  exact ⟨a, fun p hp => b p (List.mem_range.2 hp)⟩

end Sys2Proof.Laws
end

