-- ==== Sys2Proof/Laws/HostWrite.lean ====
section
/-! SUPPORT. What a host write of a register comes to, once what the write itself does is known: the ERR register of the page is looked
at from 0 and put back, and nothing else is added. -/

namespace Sys2Proof.Laws
open Sys2Proof.Machine

variable {ps : List Part} {rs : List Nat} {s t u : State} {a : Nat} {v : Word} {d : RegDesc}

/-- PWR.STAT is no ERR register. -/
theorem err_ne_stat (a : Nat) : pageOf a + 0xFFFC ≠ R.pwrStat := by
  unfold pageOf R.pwrStat
  omega

theorem asleep_wr (s : State) (e : Nat) (v : Word) (h : e ≠ R.pwrStat) : asleep (wr s e v) = asleep s := by
  unfold asleep fld
  rw [rd_wr_ne _ _ _ _ (Ne.symm h)]

theorem asleep_touches (h : Touches ps rs s t) (hp : R.pwrStat ∉ rs) : asleep t = asleep s := by
  unfold asleep fld
  rw [h.regs _ hp]

theorem startWake_awake (s : State) (n : Nat) (h : asleep s = false) : startWake s n = s := by
  unfold startWake wakeDue
  rw [h]
  rfl

theorem pageOf_err (a : Nat) : pageOf (pageOf a + 0xFFFC) = pageOf a := by
  unfold pageOf
  omega

/-- The pages of Table 10 are the register region. -/
theorem regionOf_page (h1 : 0x40000000 ≤ a) (h2 : a < 0x40130000) : regionOf a = .page := by
  unfold regionOf inPages
  rw [if_neg (by omega), if_neg (by omega), if_neg (by omega), if_pos]
  simp [h1, h2]

/-- A write judged by its page's ERR register, which holds nothing after it: not refused, and the register holds what it held. -/
theorem judged_taken (s : State) (e : Nat) (f : State → State) (h : rd (f (wr s e 0)) e = 0) :
    judged s e f = (wr (f (wr s e 0)) e (rd s e), false) := by
  unfold judged
  simp only [h, if_true]

theorem judged_refused (s : State) (e : Nat) (f : State → State) (h : rd (f (wr s e 0)) e ≠ 0) :
    judged s e f =
      (wr (f (wr s e 0)) e (mergeErr (rd s e) (s.host.errOpen.contains (pageOf e)) (rd (f (wr s e 0)) e)), true) := by
  unfold judged
  simp only [if_neg h]

/-- A register that lies in a page, is no ERR register, PWR.CMD, NVM.RELOAD or LINK.RCTL. -/
structure Writable (a : Nat) (d : RegDesc) : Prop where
  low : 0x40000000 ≤ a
  high : a < 0x40130000
  desc : regDesc a = some d
  err : a % 0x10000 ≠ 0xFFFC
  cmd : a ≠ R.pwrCmd
  reload : a ≠ R.nvmReload
  mailbox : a ≠ R.linkRctl

theorem writeWord32_judged (h : HostMayWrite s a) (hw : Writable a d) :
    writeWord32 s 0 a v = judged s (pageOf a + 0xFFFC) fun t => writeOn t false d a v := by
  unfold writeWord32 writeReg
  simp only [regionOf_page hw.low hw.high, h.domain, hw.desc, if_neg hw.err, hw.cmd, false_and, if_false, Bool.not_true]
  rfl

/-- A write that is taken. -/
theorem regWrite_taken (h : HostMayWrite s a) (hw : Writable a d)
    (ht : Touches ps rs (wr s (pageOf a + 0xFFFC) 0) (writeOn (wr s (pageOf a + 0xFFFC) 0) false d a v))
    (he : pageOf a + 0xFFFC ∉ rs) (hp : R.pwrStat ∉ rs) :
    regWrite s a v = wr (writeOn (wr s (pageOf a + 0xFFFC) 0) false d a v) (pageOf a + 0xFFFC) (rd s (pageOf a + 0xFFFC)) := by
  have h0 : rd (writeOn (wr s (pageOf a + 0xFFFC) 0) false d a v) (pageOf a + 0xFFFC) = 0 := by
    rw [ht.regs _ he, rd_wr]
  have hs : asleep (wr (writeOn (wr s (pageOf a + 0xFFFC) 0) false d a v) (pageOf a + 0xFFFC) (rd s (pageOf a + 0xFFFC))) = false := by
    rw [asleep_wr _ _ _ (err_ne_stat a), asleep_touches ht hp, asleep_wr _ _ _ (err_ne_stat a)]
    exact h.awake
  unfold regWrite hostWrite
  rw [writeWord32_judged h hw, judged_taken _ _ _ h0]
  simp only [h.tap]
  rw [if_neg Bool.false_ne_true]
  unfold afterHost
  rw [if_neg hw.reload, if_neg (fun k => hw.mailbox k.1), startWake_awake _ _ hs]

/-- What a write that is taken touches. -/
theorem touches_taken (e : Nat) (ht : Touches ps rs (wr s e 0) u) : Touches ps rs s (wr u e (rd s e)) := by
  refine ⟨?_, fun b hb => ?_⟩
  · constructor <;> intro hp
    all_goals first | exact absurd List.mem_cons_self hp | skip
    · exact ht.parts.time hp
    · exact ht.parts.host hp
    · exact ht.parts.staged hp
    · exact ht.parts.mem hp
    · exact ht.parts.ecc hp
    · exact ht.parts.memint hp
    · exact ht.parts.gloss hp
    · exact ht.parts.evt hp
    · exact ht.parts.syns hp
    · exact ht.parts.decls hp
    · exact ht.parts.phrases hp
    · exact ht.parts.alloc hp
    · exact ht.parts.verbs hp
    · exact ht.parts.parser hp
    · exact ht.parts.ended hp
    · exact ht.parts.boot hp
    · exact ht.parts.tense hp
    · exact ht.parts.timers hp
    · exact ht.parts.analog hp
    · exact ht.parts.pins hp
    · exact ht.parts.power hp
    · exact ht.parts.sp hp
    · exact ht.parts.sys hp
    · exact ht.parts.links hp
    · exact ht.parts.dai hp
    · exact ht.parts.flash hp
    · exact ht.parts.nvm hp
    · exact ht.parts.image hp
    · exact ht.parts.fuse hp
    · exact ht.parts.tap hp
    · exact ht.parts.free hp
    · exact ht.parts.pending hp
  · by_cases h : b = e
    · rw [h, rd_wr]
    · rw [rd_wr_ne _ _ _ _ h, ht.regs b hb, rd_wr_ne _ _ _ _ h]

/-- A write that is refused: ERR takes the refusal, and nothing else happens. -/
theorem regWrite_refused (h : HostMayWrite s a) (hw : Writable a d)
    (h0 : rd (writeOn (wr s (pageOf a + 0xFFFC) 0) false d a v) (pageOf a + 0xFFFC) ≠ 0) :
    regWrite s a v = wr (writeOn (wr s (pageOf a + 0xFFFC) 0) false d a v) (pageOf a + 0xFFFC)
      (mergeErr (rd s (pageOf a + 0xFFFC)) (s.host.errOpen.contains (pageOf a))
        (rd (writeOn (wr s (pageOf a + 0xFFFC) 0) false d a v) (pageOf a + 0xFFFC))) := by
  unfold regWrite hostWrite
  rw [writeWord32_judged h hw, judged_refused _ _ _ h0, pageOf_err]
  simp only [h.tap]
  rfl

/-- A write of a register whose write is an operation, where the operation refuses nothing: the operation, with the page's ERR register
looked at from 0 and put back. -/
theorem command_done {f : State → State} (h : HostMayWrite s a) (hw : Writable a d)
    (hc : commandReg (wr s (pageOf a + 0xFFFC) 0) false a v = some (f (wr s (pageOf a + 0xFFFC) 0)))
    (ht : Touches ps rs (wr s (pageOf a + 0xFFFC) 0) (f (wr s (pageOf a + 0xFFFC) 0)))
    (he : pageOf a + 0xFFFC ∉ rs) (hp : R.pwrStat ∉ rs) :
    regWrite s a v = wr (f (wr s (pageOf a + 0xFFFC) 0)) (pageOf a + 0xFFFC) (rd s (pageOf a + 0xFFFC)) ∧
      Touches ps rs s (regWrite s a v) := by
  have key : writeOn (wr s (pageOf a + 0xFFFC) 0) false d a v = f (wr s (pageOf a + 0xFFFC) 0) := by
    unfold writeOn
    rw [hc]
    rfl
  have e := regWrite_taken (v := v) h hw (by rw [key]; exact ht) he hp
  rw [key] at e
  exact ⟨e, by rw [e]; exact touches_taken _ ht⟩

/-- A write of a register that keeps a value, where nothing refuses it: the fields take theirs, and what follows from them follows. -/
theorem plain_after (h : HostMayWrite s a) (hw : Writable a d) (hc : ∀ s', commandReg s' false a v = none)
    (hu : undefinedField d v = false) (hk : checkWrite (wr s (pageOf a + 0xFFFC) 0) a v = none)
    (hcl : changesClosed (wr s (pageOf a + 0xFFFC) 0) d a v = false) (hcnt : isCounter d = false) (hr : d.rws = 0)
    (ht : Touches ps rs (wr s (pageOf a + 0xFFFC) 0)
      (afterWrite (wr (wr s (pageOf a + 0xFFFC) 0) a (plainValue d (rd s a) v)) a (rd s a) v))
    (he : pageOf a + 0xFFFC ∉ rs) (hp : R.pwrStat ∉ rs) :
    regWrite s a v = wr (afterWrite (wr (wr s (pageOf a + 0xFFFC) 0) a (plainValue d (rd s a) v)) a (rd s a) v)
        (pageOf a + 0xFFFC) (rd s (pageOf a + 0xFFFC)) ∧
      Touches ps rs s (regWrite s a v) := by
  have hea : a ≠ pageOf a + 0xFFFC := by
    have := hw.err
    unfold pageOf
    omega
  have key : writeOn (wr s (pageOf a + 0xFFFC) 0) false d a v =
      afterWrite (wr (wr s (pageOf a + 0xFFFC) 0) a (plainValue d (rd s a) v)) a (rd s a) v := by
    unfold writeOn plainOn
    simp only [hc, hu, hk, hcl, plainWrite, hcnt, stageValue, hr]
    simp [rd_wr_ne _ _ _ _ hea]
  have e := regWrite_taken (v := v) h hw (by rw [key]; exact ht) he hp
  rw [key] at e
  exact ⟨e, by rw [e]; exact touches_taken _ ht⟩

/-! ### What a refusal leaves in ERR (R9, R10) -/

/-- The bit of ERR that a refusal sets: UNDEF for an encoding, LOCKW for the state. -/
abbrev errBit (encoding : Bool) : Word := if encoding then 0x80000000 else 0x20000000

theorem first_refusal (encoding : Bool) (o : Nat) (h : o < 65536) :
    setBits (if encoding then setBits 0 31 31 1 else setBits 0 29 29 1) 15 0 o = errBit encoding ||| w32 o := by
  have key : ∀ n : Nat, n < 65536 → setBits (BitVec.ofNat 32 (65536 * n)) 15 0 o = BitVec.ofNat 32 (65536 * n) ||| w32 o := by
    intro n hn
    apply BitVec.eq_of_toNat_eq
    have := Nat.two_pow_add_eq_or_of_lt (i := 16) h n
    simp only [setBits, bits, w32, BitVec.toNat_or, BitVec.toNat_ofNat, Nat.reducePow, Nat.reduceSub, Nat.reduceAdd] at this ⊢
    rw [Nat.mod_eq_of_lt (a := 65536 * n) (by omega), Nat.mod_eq_of_lt (a := o) (b := 4294967296) (by omega), ← this]
    omega
  cases encoding
  · exact key 0x2000 (by decide)
  · exact key 0x8000 (by decide)

theorem errBit_parts (encoding : Bool) (y : BitVec 16) :
    ((errBit encoding ||| y.setWidth 32) &&& 0xA0000000 = errBit encoding) ∧
      ((errBit encoding ||| y.setWidth 32) &&& 0xFFFF = y.setWidth 32) := by
  have low : ∀ i : Fin 32, 16 ≤ i.val ∨ (0xA0000000 : Word)[i.val] = false := by decide
  have high : ∀ i : Fin 32, (i.val < 16 ∧ (0xFFFF : Word)[i.val] = true) ∨ (16 ≤ i.val ∧ (0xFFFF : Word)[i.val] = false) := by decide
  have e1 : y.setWidth 32 &&& (0xA0000000 : Word) = 0 := by
    ext i hi
    rcases low ⟨i, hi⟩ with h | h
    · simp [BitVec.getLsbD_of_ge y i h]
    · simp only [BitVec.getElem_and, h, Bool.and_false]
      exact (BitVec.getElem_zero hi).symm
  have e2 : y.setWidth 32 &&& (0xFFFF : Word) = y.setWidth 32 := by
    ext i hi
    rcases high ⟨i, hi⟩ with h | h
    · simp only [BitVec.getElem_and, h.2, Bool.and_true]
    · simp [BitVec.getLsbD_of_ge y i h.1]
  refine ⟨?_, ?_⟩
  · rw [BitVec.and_or_distrib_right, e1]
    cases encoding <;> rfl
  · rw [BitVec.and_or_distrib_right, e2]
    cases encoding <;> simp [errBit]

theorem refused_word (s : State) (encoding : Bool) :
    mergeErr (rd s (pageOf a + 0xFFFC)) (s.host.errOpen.contains (pageOf a)) (errBit encoding ||| w32 (a % 0x10000)) =
      errAfter s a encoding := by
  have e : w32 (a % 0x10000) = (BitVec.ofNat 16 a).setWidth 32 := by
    apply BitVec.eq_of_toNat_eq
    simp [w32, Nat.mod_mod_of_dvd]
  obtain ⟨h1, h2⟩ := errBit_parts encoding (BitVec.ofNat 16 a)
  rw [← e] at h1 h2
  unfold mergeErr errAfter
  rw [h1, h2]

theorem refuse_rd (t : State) (encoding : Bool) (h : rd t (pageOf a + 0xFFFC) = 0) :
    rd (refuse t a encoding) (pageOf a + 0xFFFC) = errBit encoding ||| w32 (a % 0x10000) := by
  unfold refuse
  simp only [h, rd_wr]
  rw [← first_refusal encoding _ (Nat.mod_lt _ (by decide))]
  rfl

theorem touches_refused {encoding : Bool} {e : Nat} {x : Word} (he : pageOf a + 0xFFFC = e) :
    Touches [.host] [e] s (wr (refuse (wr s e 0) a encoding) e x) :=
  touches_wr (touches_refuse (touches_wr touches_rfl _ List.mem_cons_self) _ (by simp) (he ▸ List.mem_cons_self)) _ List.mem_cons_self

/-- A write of a register that is refused sets UNDEF or LOCKW of its page's ERR register, and changes nothing else (R9, R10). -/
theorem command_refused (encoding : Bool) (h : HostMayWrite s a) (hw : Writable a d)
    (hc : writeOn (wr s (pageOf a + 0xFFFC) 0) false d a v = refuse (wr s (pageOf a + 0xFFFC) 0) a encoding) :
    Refused s (regWrite s a v) a encoding := by
  have hr := refuse_rd (a := a) (wr s (pageOf a + 0xFFFC) 0) encoding (rd_wr _ _ _)
  have e := regWrite_refused (v := v) h hw (by
    rw [hc, hr]
    intro k
    have := (errBit_parts encoding 0).1
    have hb := congrArg (fun w => w &&& 0xA0000000) k
    rw [show w32 (a % 0x10000) = (BitVec.ofNat 16 a).setWidth 32 from by
      apply BitVec.eq_of_toNat_eq
      simp [w32, Nat.mod_mod_of_dvd]] at hb
    simp only [(errBit_parts encoding _).1] at hb
    cases encoding <;> exact absurd hb (by decide))
  rw [hc, hr, refused_word] at e
  rw [e]
  exact ⟨rd_wr _ _ _, rfl, touches_refused rfl⟩

end Sys2Proof.Laws
end

