-- ==== Sys2Proof/Laws/State.lean ====
section
/-! SUPPORT. What each elementary update of the state leaves as it was, one lemma a field, so that no proof unfolds a record update; and what
a register reads after an update. -/

namespace Sys2Proof.Laws
open Sys2Proof.Machine

@[simp] theorem wr_time (s : State) (a : Nat) (v : Word) : (wr s a v).time = s.time := rfl
@[simp] theorem wr_host (s : State) (a : Nat) (v : Word) : (wr s a v).host = s.host := rfl
@[simp] theorem wr_staged (s : State) (a : Nat) (v : Word) : (wr s a v).staged = s.staged := rfl
@[simp] theorem wr_mem (s : State) (a : Nat) (v : Word) : (wr s a v).mem = s.mem := rfl
@[simp] theorem wr_ecc (s : State) (a : Nat) (v : Word) : (wr s a v).ecc = s.ecc := rfl
@[simp] theorem wr_memint (s : State) (a : Nat) (v : Word) : (wr s a v).memint = s.memint := rfl
@[simp] theorem wr_gloss (s : State) (a : Nat) (v : Word) : (wr s a v).gloss = s.gloss := rfl
@[simp] theorem wr_evt (s : State) (a : Nat) (v : Word) : (wr s a v).evt = s.evt := rfl
@[simp] theorem wr_syns (s : State) (a : Nat) (v : Word) : (wr s a v).syns = s.syns := rfl
@[simp] theorem wr_decls (s : State) (a : Nat) (v : Word) : (wr s a v).decls = s.decls := rfl
@[simp] theorem wr_phrases (s : State) (a : Nat) (v : Word) : (wr s a v).phrases = s.phrases := rfl
@[simp] theorem wr_alloc (s : State) (a : Nat) (v : Word) : (wr s a v).alloc = s.alloc := rfl
@[simp] theorem wr_verbs (s : State) (a : Nat) (v : Word) : (wr s a v).verbs = s.verbs := rfl
@[simp] theorem wr_parser (s : State) (a : Nat) (v : Word) : (wr s a v).parser = s.parser := rfl
@[simp] theorem wr_ended (s : State) (a : Nat) (v : Word) : (wr s a v).ended = s.ended := rfl
@[simp] theorem wr_boot (s : State) (a : Nat) (v : Word) : (wr s a v).boot = s.boot := rfl
@[simp] theorem wr_tense (s : State) (a : Nat) (v : Word) : (wr s a v).tense = s.tense := rfl
@[simp] theorem wr_timers (s : State) (a : Nat) (v : Word) : (wr s a v).timers = s.timers := rfl
@[simp] theorem wr_analog (s : State) (a : Nat) (v : Word) : (wr s a v).analog = s.analog := rfl
@[simp] theorem wr_pins (s : State) (a : Nat) (v : Word) : (wr s a v).pins = s.pins := rfl
@[simp] theorem wr_power (s : State) (a : Nat) (v : Word) : (wr s a v).power = s.power := rfl
@[simp] theorem wr_sp (s : State) (a : Nat) (v : Word) : (wr s a v).sp = s.sp := rfl
@[simp] theorem wr_sys (s : State) (a : Nat) (v : Word) : (wr s a v).sys = s.sys := rfl
@[simp] theorem wr_links (s : State) (a : Nat) (v : Word) : (wr s a v).links = s.links := rfl
@[simp] theorem wr_dai (s : State) (a : Nat) (v : Word) : (wr s a v).dai = s.dai := rfl
@[simp] theorem wr_flash (s : State) (a : Nat) (v : Word) : (wr s a v).flash = s.flash := rfl
@[simp] theorem wr_nvm (s : State) (a : Nat) (v : Word) : (wr s a v).nvm = s.nvm := rfl
@[simp] theorem wr_image (s : State) (a : Nat) (v : Word) : (wr s a v).image = s.image := rfl
@[simp] theorem wr_fuse (s : State) (a : Nat) (v : Word) : (wr s a v).fuse = s.fuse := rfl
@[simp] theorem wr_tap (s : State) (a : Nat) (v : Word) : (wr s a v).tap = s.tap := rfl
@[simp] theorem wr_free (s : State) (a : Nat) (v : Word) : (wr s a v).free = s.free := rfl
@[simp] theorem wr_pending (s : State) (a : Nat) (v : Word) : (wr s a v).pending = s.pending := rfl

@[simp] theorem wrFld_time (s : State) (a hi lo x : Nat) : (wrFld s a hi lo x).time = s.time := rfl
@[simp] theorem wrFld_host (s : State) (a hi lo x : Nat) : (wrFld s a hi lo x).host = s.host := rfl
@[simp] theorem wrFld_staged (s : State) (a hi lo x : Nat) : (wrFld s a hi lo x).staged = s.staged := rfl
@[simp] theorem wrFld_mem (s : State) (a hi lo x : Nat) : (wrFld s a hi lo x).mem = s.mem := rfl
@[simp] theorem wrFld_ecc (s : State) (a hi lo x : Nat) : (wrFld s a hi lo x).ecc = s.ecc := rfl
@[simp] theorem wrFld_memint (s : State) (a hi lo x : Nat) : (wrFld s a hi lo x).memint = s.memint := rfl
@[simp] theorem wrFld_gloss (s : State) (a hi lo x : Nat) : (wrFld s a hi lo x).gloss = s.gloss := rfl
@[simp] theorem wrFld_evt (s : State) (a hi lo x : Nat) : (wrFld s a hi lo x).evt = s.evt := rfl
@[simp] theorem wrFld_syns (s : State) (a hi lo x : Nat) : (wrFld s a hi lo x).syns = s.syns := rfl
@[simp] theorem wrFld_decls (s : State) (a hi lo x : Nat) : (wrFld s a hi lo x).decls = s.decls := rfl
@[simp] theorem wrFld_phrases (s : State) (a hi lo x : Nat) : (wrFld s a hi lo x).phrases = s.phrases := rfl
@[simp] theorem wrFld_alloc (s : State) (a hi lo x : Nat) : (wrFld s a hi lo x).alloc = s.alloc := rfl
@[simp] theorem wrFld_verbs (s : State) (a hi lo x : Nat) : (wrFld s a hi lo x).verbs = s.verbs := rfl
@[simp] theorem wrFld_parser (s : State) (a hi lo x : Nat) : (wrFld s a hi lo x).parser = s.parser := rfl
@[simp] theorem wrFld_ended (s : State) (a hi lo x : Nat) : (wrFld s a hi lo x).ended = s.ended := rfl
@[simp] theorem wrFld_boot (s : State) (a hi lo x : Nat) : (wrFld s a hi lo x).boot = s.boot := rfl
@[simp] theorem wrFld_tense (s : State) (a hi lo x : Nat) : (wrFld s a hi lo x).tense = s.tense := rfl
@[simp] theorem wrFld_timers (s : State) (a hi lo x : Nat) : (wrFld s a hi lo x).timers = s.timers := rfl
@[simp] theorem wrFld_analog (s : State) (a hi lo x : Nat) : (wrFld s a hi lo x).analog = s.analog := rfl
@[simp] theorem wrFld_pins (s : State) (a hi lo x : Nat) : (wrFld s a hi lo x).pins = s.pins := rfl
@[simp] theorem wrFld_power (s : State) (a hi lo x : Nat) : (wrFld s a hi lo x).power = s.power := rfl
@[simp] theorem wrFld_sp (s : State) (a hi lo x : Nat) : (wrFld s a hi lo x).sp = s.sp := rfl
@[simp] theorem wrFld_sys (s : State) (a hi lo x : Nat) : (wrFld s a hi lo x).sys = s.sys := rfl
@[simp] theorem wrFld_links (s : State) (a hi lo x : Nat) : (wrFld s a hi lo x).links = s.links := rfl
@[simp] theorem wrFld_dai (s : State) (a hi lo x : Nat) : (wrFld s a hi lo x).dai = s.dai := rfl
@[simp] theorem wrFld_flash (s : State) (a hi lo x : Nat) : (wrFld s a hi lo x).flash = s.flash := rfl
@[simp] theorem wrFld_nvm (s : State) (a hi lo x : Nat) : (wrFld s a hi lo x).nvm = s.nvm := rfl
@[simp] theorem wrFld_image (s : State) (a hi lo x : Nat) : (wrFld s a hi lo x).image = s.image := rfl
@[simp] theorem wrFld_fuse (s : State) (a hi lo x : Nat) : (wrFld s a hi lo x).fuse = s.fuse := rfl
@[simp] theorem wrFld_tap (s : State) (a hi lo x : Nat) : (wrFld s a hi lo x).tap = s.tap := rfl
@[simp] theorem wrFld_free (s : State) (a hi lo x : Nat) : (wrFld s a hi lo x).free = s.free := rfl
@[simp] theorem wrFld_pending (s : State) (a hi lo x : Nat) : (wrFld s a hi lo x).pending = s.pending := rfl

@[simp] theorem setFlag_time (s : State) (a i : Nat) : (setFlag s a i).time = s.time := rfl
@[simp] theorem setFlag_host (s : State) (a i : Nat) : (setFlag s a i).host = s.host := rfl
@[simp] theorem setFlag_staged (s : State) (a i : Nat) : (setFlag s a i).staged = s.staged := rfl
@[simp] theorem setFlag_mem (s : State) (a i : Nat) : (setFlag s a i).mem = s.mem := rfl
@[simp] theorem setFlag_ecc (s : State) (a i : Nat) : (setFlag s a i).ecc = s.ecc := rfl
@[simp] theorem setFlag_memint (s : State) (a i : Nat) : (setFlag s a i).memint = s.memint := rfl
@[simp] theorem setFlag_gloss (s : State) (a i : Nat) : (setFlag s a i).gloss = s.gloss := rfl
@[simp] theorem setFlag_evt (s : State) (a i : Nat) : (setFlag s a i).evt = s.evt := rfl
@[simp] theorem setFlag_syns (s : State) (a i : Nat) : (setFlag s a i).syns = s.syns := rfl
@[simp] theorem setFlag_decls (s : State) (a i : Nat) : (setFlag s a i).decls = s.decls := rfl
@[simp] theorem setFlag_phrases (s : State) (a i : Nat) : (setFlag s a i).phrases = s.phrases := rfl
@[simp] theorem setFlag_alloc (s : State) (a i : Nat) : (setFlag s a i).alloc = s.alloc := rfl
@[simp] theorem setFlag_verbs (s : State) (a i : Nat) : (setFlag s a i).verbs = s.verbs := rfl
@[simp] theorem setFlag_parser (s : State) (a i : Nat) : (setFlag s a i).parser = s.parser := rfl
@[simp] theorem setFlag_ended (s : State) (a i : Nat) : (setFlag s a i).ended = s.ended := rfl
@[simp] theorem setFlag_boot (s : State) (a i : Nat) : (setFlag s a i).boot = s.boot := rfl
@[simp] theorem setFlag_tense (s : State) (a i : Nat) : (setFlag s a i).tense = s.tense := rfl
@[simp] theorem setFlag_timers (s : State) (a i : Nat) : (setFlag s a i).timers = s.timers := rfl
@[simp] theorem setFlag_analog (s : State) (a i : Nat) : (setFlag s a i).analog = s.analog := rfl
@[simp] theorem setFlag_pins (s : State) (a i : Nat) : (setFlag s a i).pins = s.pins := rfl
@[simp] theorem setFlag_power (s : State) (a i : Nat) : (setFlag s a i).power = s.power := rfl
@[simp] theorem setFlag_sp (s : State) (a i : Nat) : (setFlag s a i).sp = s.sp := rfl
@[simp] theorem setFlag_sys (s : State) (a i : Nat) : (setFlag s a i).sys = s.sys := rfl
@[simp] theorem setFlag_links (s : State) (a i : Nat) : (setFlag s a i).links = s.links := rfl
@[simp] theorem setFlag_dai (s : State) (a i : Nat) : (setFlag s a i).dai = s.dai := rfl
@[simp] theorem setFlag_flash (s : State) (a i : Nat) : (setFlag s a i).flash = s.flash := rfl
@[simp] theorem setFlag_nvm (s : State) (a i : Nat) : (setFlag s a i).nvm = s.nvm := rfl
@[simp] theorem setFlag_image (s : State) (a i : Nat) : (setFlag s a i).image = s.image := rfl
@[simp] theorem setFlag_fuse (s : State) (a i : Nat) : (setFlag s a i).fuse = s.fuse := rfl
@[simp] theorem setFlag_tap (s : State) (a i : Nat) : (setFlag s a i).tap = s.tap := rfl
@[simp] theorem setFlag_free (s : State) (a i : Nat) : (setFlag s a i).free = s.free := rfl
@[simp] theorem setFlag_pending (s : State) (a i : Nat) : (setFlag s a i).pending = s.pending := rfl

@[simp] theorem clrFlag_time (s : State) (a i : Nat) : (clrFlag s a i).time = s.time := rfl
@[simp] theorem clrFlag_host (s : State) (a i : Nat) : (clrFlag s a i).host = s.host := rfl
@[simp] theorem clrFlag_staged (s : State) (a i : Nat) : (clrFlag s a i).staged = s.staged := rfl
@[simp] theorem clrFlag_mem (s : State) (a i : Nat) : (clrFlag s a i).mem = s.mem := rfl
@[simp] theorem clrFlag_ecc (s : State) (a i : Nat) : (clrFlag s a i).ecc = s.ecc := rfl
@[simp] theorem clrFlag_memint (s : State) (a i : Nat) : (clrFlag s a i).memint = s.memint := rfl
@[simp] theorem clrFlag_gloss (s : State) (a i : Nat) : (clrFlag s a i).gloss = s.gloss := rfl
@[simp] theorem clrFlag_evt (s : State) (a i : Nat) : (clrFlag s a i).evt = s.evt := rfl
@[simp] theorem clrFlag_syns (s : State) (a i : Nat) : (clrFlag s a i).syns = s.syns := rfl
@[simp] theorem clrFlag_decls (s : State) (a i : Nat) : (clrFlag s a i).decls = s.decls := rfl
@[simp] theorem clrFlag_phrases (s : State) (a i : Nat) : (clrFlag s a i).phrases = s.phrases := rfl
@[simp] theorem clrFlag_alloc (s : State) (a i : Nat) : (clrFlag s a i).alloc = s.alloc := rfl
@[simp] theorem clrFlag_verbs (s : State) (a i : Nat) : (clrFlag s a i).verbs = s.verbs := rfl
@[simp] theorem clrFlag_parser (s : State) (a i : Nat) : (clrFlag s a i).parser = s.parser := rfl
@[simp] theorem clrFlag_ended (s : State) (a i : Nat) : (clrFlag s a i).ended = s.ended := rfl
@[simp] theorem clrFlag_boot (s : State) (a i : Nat) : (clrFlag s a i).boot = s.boot := rfl
@[simp] theorem clrFlag_tense (s : State) (a i : Nat) : (clrFlag s a i).tense = s.tense := rfl
@[simp] theorem clrFlag_timers (s : State) (a i : Nat) : (clrFlag s a i).timers = s.timers := rfl
@[simp] theorem clrFlag_analog (s : State) (a i : Nat) : (clrFlag s a i).analog = s.analog := rfl
@[simp] theorem clrFlag_pins (s : State) (a i : Nat) : (clrFlag s a i).pins = s.pins := rfl
@[simp] theorem clrFlag_power (s : State) (a i : Nat) : (clrFlag s a i).power = s.power := rfl
@[simp] theorem clrFlag_sp (s : State) (a i : Nat) : (clrFlag s a i).sp = s.sp := rfl
@[simp] theorem clrFlag_sys (s : State) (a i : Nat) : (clrFlag s a i).sys = s.sys := rfl
@[simp] theorem clrFlag_links (s : State) (a i : Nat) : (clrFlag s a i).links = s.links := rfl
@[simp] theorem clrFlag_dai (s : State) (a i : Nat) : (clrFlag s a i).dai = s.dai := rfl
@[simp] theorem clrFlag_flash (s : State) (a i : Nat) : (clrFlag s a i).flash = s.flash := rfl
@[simp] theorem clrFlag_nvm (s : State) (a i : Nat) : (clrFlag s a i).nvm = s.nvm := rfl
@[simp] theorem clrFlag_image (s : State) (a i : Nat) : (clrFlag s a i).image = s.image := rfl
@[simp] theorem clrFlag_fuse (s : State) (a i : Nat) : (clrFlag s a i).fuse = s.fuse := rfl
@[simp] theorem clrFlag_tap (s : State) (a i : Nat) : (clrFlag s a i).tap = s.tap := rfl
@[simp] theorem clrFlag_free (s : State) (a i : Nat) : (clrFlag s a i).free = s.free := rfl
@[simp] theorem clrFlag_pending (s : State) (a i : Nat) : (clrFlag s a i).pending = s.pending := rfl

@[simp] theorem raiseIrq_time (s : State) (b : Nat) : (raiseIrq s b).time = s.time := rfl
@[simp] theorem raiseIrq_host (s : State) (b : Nat) : (raiseIrq s b).host = s.host := rfl
@[simp] theorem raiseIrq_staged (s : State) (b : Nat) : (raiseIrq s b).staged = s.staged := rfl
@[simp] theorem raiseIrq_mem (s : State) (b : Nat) : (raiseIrq s b).mem = s.mem := rfl
@[simp] theorem raiseIrq_ecc (s : State) (b : Nat) : (raiseIrq s b).ecc = s.ecc := rfl
@[simp] theorem raiseIrq_memint (s : State) (b : Nat) : (raiseIrq s b).memint = s.memint := rfl
@[simp] theorem raiseIrq_gloss (s : State) (b : Nat) : (raiseIrq s b).gloss = s.gloss := rfl
@[simp] theorem raiseIrq_evt (s : State) (b : Nat) : (raiseIrq s b).evt = s.evt := rfl
@[simp] theorem raiseIrq_syns (s : State) (b : Nat) : (raiseIrq s b).syns = s.syns := rfl
@[simp] theorem raiseIrq_decls (s : State) (b : Nat) : (raiseIrq s b).decls = s.decls := rfl
@[simp] theorem raiseIrq_phrases (s : State) (b : Nat) : (raiseIrq s b).phrases = s.phrases := rfl
@[simp] theorem raiseIrq_alloc (s : State) (b : Nat) : (raiseIrq s b).alloc = s.alloc := rfl
@[simp] theorem raiseIrq_verbs (s : State) (b : Nat) : (raiseIrq s b).verbs = s.verbs := rfl
@[simp] theorem raiseIrq_parser (s : State) (b : Nat) : (raiseIrq s b).parser = s.parser := rfl
@[simp] theorem raiseIrq_ended (s : State) (b : Nat) : (raiseIrq s b).ended = s.ended := rfl
@[simp] theorem raiseIrq_boot (s : State) (b : Nat) : (raiseIrq s b).boot = s.boot := rfl
@[simp] theorem raiseIrq_tense (s : State) (b : Nat) : (raiseIrq s b).tense = s.tense := rfl
@[simp] theorem raiseIrq_timers (s : State) (b : Nat) : (raiseIrq s b).timers = s.timers := rfl
@[simp] theorem raiseIrq_analog (s : State) (b : Nat) : (raiseIrq s b).analog = s.analog := rfl
@[simp] theorem raiseIrq_pins (s : State) (b : Nat) : (raiseIrq s b).pins = s.pins := rfl
@[simp] theorem raiseIrq_power (s : State) (b : Nat) : (raiseIrq s b).power = s.power := rfl
@[simp] theorem raiseIrq_sp (s : State) (b : Nat) : (raiseIrq s b).sp = s.sp := rfl
@[simp] theorem raiseIrq_sys (s : State) (b : Nat) : (raiseIrq s b).sys = s.sys := rfl
@[simp] theorem raiseIrq_links (s : State) (b : Nat) : (raiseIrq s b).links = s.links := rfl
@[simp] theorem raiseIrq_dai (s : State) (b : Nat) : (raiseIrq s b).dai = s.dai := rfl
@[simp] theorem raiseIrq_flash (s : State) (b : Nat) : (raiseIrq s b).flash = s.flash := rfl
@[simp] theorem raiseIrq_nvm (s : State) (b : Nat) : (raiseIrq s b).nvm = s.nvm := rfl
@[simp] theorem raiseIrq_image (s : State) (b : Nat) : (raiseIrq s b).image = s.image := rfl
@[simp] theorem raiseIrq_fuse (s : State) (b : Nat) : (raiseIrq s b).fuse = s.fuse := rfl
@[simp] theorem raiseIrq_tap (s : State) (b : Nat) : (raiseIrq s b).tap = s.tap := rfl
@[simp] theorem raiseIrq_free (s : State) (b : Nat) : (raiseIrq s b).free = s.free := rfl
@[simp] theorem raiseIrq_pending (s : State) (b : Nat) : (raiseIrq s b).pending = s.pending := rfl

@[simp] theorem countUp_time (s : State) (a : Nat) : (countUp s a).time = s.time := (touches_countUp (ps := []) (rs := [a]) touches_rfl (by simp)).parts.time (by simp)
@[simp] theorem countUp_host (s : State) (a : Nat) : (countUp s a).host = s.host := (touches_countUp (ps := []) (rs := [a]) touches_rfl (by simp)).parts.host (by simp)
@[simp] theorem countUp_staged (s : State) (a : Nat) : (countUp s a).staged = s.staged := (touches_countUp (ps := []) (rs := [a]) touches_rfl (by simp)).parts.staged (by simp)
@[simp] theorem countUp_mem (s : State) (a : Nat) : (countUp s a).mem = s.mem := (touches_countUp (ps := []) (rs := [a]) touches_rfl (by simp)).parts.mem (by simp)
@[simp] theorem countUp_ecc (s : State) (a : Nat) : (countUp s a).ecc = s.ecc := (touches_countUp (ps := []) (rs := [a]) touches_rfl (by simp)).parts.ecc (by simp)
@[simp] theorem countUp_memint (s : State) (a : Nat) : (countUp s a).memint = s.memint := (touches_countUp (ps := []) (rs := [a]) touches_rfl (by simp)).parts.memint (by simp)
@[simp] theorem countUp_gloss (s : State) (a : Nat) : (countUp s a).gloss = s.gloss := (touches_countUp (ps := []) (rs := [a]) touches_rfl (by simp)).parts.gloss (by simp)
@[simp] theorem countUp_evt (s : State) (a : Nat) : (countUp s a).evt = s.evt := (touches_countUp (ps := []) (rs := [a]) touches_rfl (by simp)).parts.evt (by simp)
@[simp] theorem countUp_syns (s : State) (a : Nat) : (countUp s a).syns = s.syns := (touches_countUp (ps := []) (rs := [a]) touches_rfl (by simp)).parts.syns (by simp)
@[simp] theorem countUp_decls (s : State) (a : Nat) : (countUp s a).decls = s.decls := (touches_countUp (ps := []) (rs := [a]) touches_rfl (by simp)).parts.decls (by simp)
@[simp] theorem countUp_phrases (s : State) (a : Nat) : (countUp s a).phrases = s.phrases := (touches_countUp (ps := []) (rs := [a]) touches_rfl (by simp)).parts.phrases (by simp)
@[simp] theorem countUp_alloc (s : State) (a : Nat) : (countUp s a).alloc = s.alloc := (touches_countUp (ps := []) (rs := [a]) touches_rfl (by simp)).parts.alloc (by simp)
@[simp] theorem countUp_verbs (s : State) (a : Nat) : (countUp s a).verbs = s.verbs := (touches_countUp (ps := []) (rs := [a]) touches_rfl (by simp)).parts.verbs (by simp)
@[simp] theorem countUp_parser (s : State) (a : Nat) : (countUp s a).parser = s.parser := (touches_countUp (ps := []) (rs := [a]) touches_rfl (by simp)).parts.parser (by simp)
@[simp] theorem countUp_ended (s : State) (a : Nat) : (countUp s a).ended = s.ended := (touches_countUp (ps := []) (rs := [a]) touches_rfl (by simp)).parts.ended (by simp)
@[simp] theorem countUp_boot (s : State) (a : Nat) : (countUp s a).boot = s.boot := (touches_countUp (ps := []) (rs := [a]) touches_rfl (by simp)).parts.boot (by simp)
@[simp] theorem countUp_tense (s : State) (a : Nat) : (countUp s a).tense = s.tense := (touches_countUp (ps := []) (rs := [a]) touches_rfl (by simp)).parts.tense (by simp)
@[simp] theorem countUp_timers (s : State) (a : Nat) : (countUp s a).timers = s.timers := (touches_countUp (ps := []) (rs := [a]) touches_rfl (by simp)).parts.timers (by simp)
@[simp] theorem countUp_analog (s : State) (a : Nat) : (countUp s a).analog = s.analog := (touches_countUp (ps := []) (rs := [a]) touches_rfl (by simp)).parts.analog (by simp)
@[simp] theorem countUp_pins (s : State) (a : Nat) : (countUp s a).pins = s.pins := (touches_countUp (ps := []) (rs := [a]) touches_rfl (by simp)).parts.pins (by simp)
@[simp] theorem countUp_power (s : State) (a : Nat) : (countUp s a).power = s.power := (touches_countUp (ps := []) (rs := [a]) touches_rfl (by simp)).parts.power (by simp)
@[simp] theorem countUp_sp (s : State) (a : Nat) : (countUp s a).sp = s.sp := (touches_countUp (ps := []) (rs := [a]) touches_rfl (by simp)).parts.sp (by simp)
@[simp] theorem countUp_sys (s : State) (a : Nat) : (countUp s a).sys = s.sys := (touches_countUp (ps := []) (rs := [a]) touches_rfl (by simp)).parts.sys (by simp)
@[simp] theorem countUp_links (s : State) (a : Nat) : (countUp s a).links = s.links := (touches_countUp (ps := []) (rs := [a]) touches_rfl (by simp)).parts.links (by simp)
@[simp] theorem countUp_dai (s : State) (a : Nat) : (countUp s a).dai = s.dai := (touches_countUp (ps := []) (rs := [a]) touches_rfl (by simp)).parts.dai (by simp)
@[simp] theorem countUp_flash (s : State) (a : Nat) : (countUp s a).flash = s.flash := (touches_countUp (ps := []) (rs := [a]) touches_rfl (by simp)).parts.flash (by simp)
@[simp] theorem countUp_nvm (s : State) (a : Nat) : (countUp s a).nvm = s.nvm := (touches_countUp (ps := []) (rs := [a]) touches_rfl (by simp)).parts.nvm (by simp)
@[simp] theorem countUp_image (s : State) (a : Nat) : (countUp s a).image = s.image := (touches_countUp (ps := []) (rs := [a]) touches_rfl (by simp)).parts.image (by simp)
@[simp] theorem countUp_fuse (s : State) (a : Nat) : (countUp s a).fuse = s.fuse := (touches_countUp (ps := []) (rs := [a]) touches_rfl (by simp)).parts.fuse (by simp)
@[simp] theorem countUp_tap (s : State) (a : Nat) : (countUp s a).tap = s.tap := (touches_countUp (ps := []) (rs := [a]) touches_rfl (by simp)).parts.tap (by simp)
@[simp] theorem countUp_free (s : State) (a : Nat) : (countUp s a).free = s.free := (touches_countUp (ps := []) (rs := [a]) touches_rfl (by simp)).parts.free (by simp)
@[simp] theorem countUp_pending (s : State) (a : Nat) : (countUp s a).pending = s.pending := (touches_countUp (ps := []) (rs := [a]) touches_rfl (by simp)).parts.pending (by simp)

@[simp] theorem refuse_time (s : State) (a : Nat) (e : Bool) : (refuse s a e).time = s.time := (touches_refuse (ps := [.host]) (rs := [pageOf a + 0xFFFC]) touches_rfl e (by simp) (by simp)).parts.time (by simp)
@[simp] theorem refuse_host (s : State) (a : Nat) (e : Bool) :
    (refuse s a e).host = { s.host with errOpen := s.host.errOpen.filter (· ≠ pageOf a) } := rfl
@[simp] theorem refuse_staged (s : State) (a : Nat) (e : Bool) : (refuse s a e).staged = s.staged := (touches_refuse (ps := [.host]) (rs := [pageOf a + 0xFFFC]) touches_rfl e (by simp) (by simp)).parts.staged (by simp)
@[simp] theorem refuse_mem (s : State) (a : Nat) (e : Bool) : (refuse s a e).mem = s.mem := (touches_refuse (ps := [.host]) (rs := [pageOf a + 0xFFFC]) touches_rfl e (by simp) (by simp)).parts.mem (by simp)
@[simp] theorem refuse_ecc (s : State) (a : Nat) (e : Bool) : (refuse s a e).ecc = s.ecc := (touches_refuse (ps := [.host]) (rs := [pageOf a + 0xFFFC]) touches_rfl e (by simp) (by simp)).parts.ecc (by simp)
@[simp] theorem refuse_memint (s : State) (a : Nat) (e : Bool) : (refuse s a e).memint = s.memint := (touches_refuse (ps := [.host]) (rs := [pageOf a + 0xFFFC]) touches_rfl e (by simp) (by simp)).parts.memint (by simp)
@[simp] theorem refuse_gloss (s : State) (a : Nat) (e : Bool) : (refuse s a e).gloss = s.gloss := (touches_refuse (ps := [.host]) (rs := [pageOf a + 0xFFFC]) touches_rfl e (by simp) (by simp)).parts.gloss (by simp)
@[simp] theorem refuse_evt (s : State) (a : Nat) (e : Bool) : (refuse s a e).evt = s.evt := (touches_refuse (ps := [.host]) (rs := [pageOf a + 0xFFFC]) touches_rfl e (by simp) (by simp)).parts.evt (by simp)
@[simp] theorem refuse_syns (s : State) (a : Nat) (e : Bool) : (refuse s a e).syns = s.syns := (touches_refuse (ps := [.host]) (rs := [pageOf a + 0xFFFC]) touches_rfl e (by simp) (by simp)).parts.syns (by simp)
@[simp] theorem refuse_decls (s : State) (a : Nat) (e : Bool) : (refuse s a e).decls = s.decls := (touches_refuse (ps := [.host]) (rs := [pageOf a + 0xFFFC]) touches_rfl e (by simp) (by simp)).parts.decls (by simp)
@[simp] theorem refuse_phrases (s : State) (a : Nat) (e : Bool) : (refuse s a e).phrases = s.phrases := (touches_refuse (ps := [.host]) (rs := [pageOf a + 0xFFFC]) touches_rfl e (by simp) (by simp)).parts.phrases (by simp)
@[simp] theorem refuse_alloc (s : State) (a : Nat) (e : Bool) : (refuse s a e).alloc = s.alloc := (touches_refuse (ps := [.host]) (rs := [pageOf a + 0xFFFC]) touches_rfl e (by simp) (by simp)).parts.alloc (by simp)
@[simp] theorem refuse_verbs (s : State) (a : Nat) (e : Bool) : (refuse s a e).verbs = s.verbs := (touches_refuse (ps := [.host]) (rs := [pageOf a + 0xFFFC]) touches_rfl e (by simp) (by simp)).parts.verbs (by simp)
@[simp] theorem refuse_parser (s : State) (a : Nat) (e : Bool) : (refuse s a e).parser = s.parser := (touches_refuse (ps := [.host]) (rs := [pageOf a + 0xFFFC]) touches_rfl e (by simp) (by simp)).parts.parser (by simp)
@[simp] theorem refuse_ended (s : State) (a : Nat) (e : Bool) : (refuse s a e).ended = s.ended := (touches_refuse (ps := [.host]) (rs := [pageOf a + 0xFFFC]) touches_rfl e (by simp) (by simp)).parts.ended (by simp)
@[simp] theorem refuse_boot (s : State) (a : Nat) (e : Bool) : (refuse s a e).boot = s.boot := (touches_refuse (ps := [.host]) (rs := [pageOf a + 0xFFFC]) touches_rfl e (by simp) (by simp)).parts.boot (by simp)
@[simp] theorem refuse_tense (s : State) (a : Nat) (e : Bool) : (refuse s a e).tense = s.tense := (touches_refuse (ps := [.host]) (rs := [pageOf a + 0xFFFC]) touches_rfl e (by simp) (by simp)).parts.tense (by simp)
@[simp] theorem refuse_timers (s : State) (a : Nat) (e : Bool) : (refuse s a e).timers = s.timers := (touches_refuse (ps := [.host]) (rs := [pageOf a + 0xFFFC]) touches_rfl e (by simp) (by simp)).parts.timers (by simp)
@[simp] theorem refuse_analog (s : State) (a : Nat) (e : Bool) : (refuse s a e).analog = s.analog := (touches_refuse (ps := [.host]) (rs := [pageOf a + 0xFFFC]) touches_rfl e (by simp) (by simp)).parts.analog (by simp)
@[simp] theorem refuse_pins (s : State) (a : Nat) (e : Bool) : (refuse s a e).pins = s.pins := (touches_refuse (ps := [.host]) (rs := [pageOf a + 0xFFFC]) touches_rfl e (by simp) (by simp)).parts.pins (by simp)
@[simp] theorem refuse_power (s : State) (a : Nat) (e : Bool) : (refuse s a e).power = s.power := (touches_refuse (ps := [.host]) (rs := [pageOf a + 0xFFFC]) touches_rfl e (by simp) (by simp)).parts.power (by simp)
@[simp] theorem refuse_sp (s : State) (a : Nat) (e : Bool) : (refuse s a e).sp = s.sp := (touches_refuse (ps := [.host]) (rs := [pageOf a + 0xFFFC]) touches_rfl e (by simp) (by simp)).parts.sp (by simp)
@[simp] theorem refuse_sys (s : State) (a : Nat) (e : Bool) : (refuse s a e).sys = s.sys := (touches_refuse (ps := [.host]) (rs := [pageOf a + 0xFFFC]) touches_rfl e (by simp) (by simp)).parts.sys (by simp)
@[simp] theorem refuse_links (s : State) (a : Nat) (e : Bool) : (refuse s a e).links = s.links := (touches_refuse (ps := [.host]) (rs := [pageOf a + 0xFFFC]) touches_rfl e (by simp) (by simp)).parts.links (by simp)
@[simp] theorem refuse_dai (s : State) (a : Nat) (e : Bool) : (refuse s a e).dai = s.dai := (touches_refuse (ps := [.host]) (rs := [pageOf a + 0xFFFC]) touches_rfl e (by simp) (by simp)).parts.dai (by simp)
@[simp] theorem refuse_flash (s : State) (a : Nat) (e : Bool) : (refuse s a e).flash = s.flash := (touches_refuse (ps := [.host]) (rs := [pageOf a + 0xFFFC]) touches_rfl e (by simp) (by simp)).parts.flash (by simp)
@[simp] theorem refuse_nvm (s : State) (a : Nat) (e : Bool) : (refuse s a e).nvm = s.nvm := (touches_refuse (ps := [.host]) (rs := [pageOf a + 0xFFFC]) touches_rfl e (by simp) (by simp)).parts.nvm (by simp)
@[simp] theorem refuse_image (s : State) (a : Nat) (e : Bool) : (refuse s a e).image = s.image := (touches_refuse (ps := [.host]) (rs := [pageOf a + 0xFFFC]) touches_rfl e (by simp) (by simp)).parts.image (by simp)
@[simp] theorem refuse_fuse (s : State) (a : Nat) (e : Bool) : (refuse s a e).fuse = s.fuse := (touches_refuse (ps := [.host]) (rs := [pageOf a + 0xFFFC]) touches_rfl e (by simp) (by simp)).parts.fuse (by simp)
@[simp] theorem refuse_tap (s : State) (a : Nat) (e : Bool) : (refuse s a e).tap = s.tap := (touches_refuse (ps := [.host]) (rs := [pageOf a + 0xFFFC]) touches_rfl e (by simp) (by simp)).parts.tap (by simp)
@[simp] theorem refuse_free (s : State) (a : Nat) (e : Bool) : (refuse s a e).free = s.free := (touches_refuse (ps := [.host]) (rs := [pageOf a + 0xFFFC]) touches_rfl e (by simp) (by simp)).parts.free (by simp)
@[simp] theorem refuse_pending (s : State) (a : Nat) (e : Bool) : (refuse s a e).pending = s.pending := (touches_refuse (ps := [.host]) (rs := [pageOf a + 0xFFFC]) touches_rfl e (by simp) (by simp)).parts.pending (by simp)

@[simp] theorem raiseGloss_time (s : State) (c : Nat) (d0 d1 d2 : Word) : (raiseGloss s c d0 d1 d2).time = s.time := (touches_raiseGloss (ps := [.gloss]) (rs := glossRegs) touches_rfl c d0 d1 d2 (by simp) (fun _ h => h)).parts.time (by simp)
@[simp] theorem raiseGloss_host (s : State) (c : Nat) (d0 d1 d2 : Word) : (raiseGloss s c d0 d1 d2).host = s.host := (touches_raiseGloss (ps := [.gloss]) (rs := glossRegs) touches_rfl c d0 d1 d2 (by simp) (fun _ h => h)).parts.host (by simp)
@[simp] theorem raiseGloss_staged (s : State) (c : Nat) (d0 d1 d2 : Word) : (raiseGloss s c d0 d1 d2).staged = s.staged := (touches_raiseGloss (ps := [.gloss]) (rs := glossRegs) touches_rfl c d0 d1 d2 (by simp) (fun _ h => h)).parts.staged (by simp)
@[simp] theorem raiseGloss_mem (s : State) (c : Nat) (d0 d1 d2 : Word) : (raiseGloss s c d0 d1 d2).mem = s.mem := (touches_raiseGloss (ps := [.gloss]) (rs := glossRegs) touches_rfl c d0 d1 d2 (by simp) (fun _ h => h)).parts.mem (by simp)
@[simp] theorem raiseGloss_ecc (s : State) (c : Nat) (d0 d1 d2 : Word) : (raiseGloss s c d0 d1 d2).ecc = s.ecc := (touches_raiseGloss (ps := [.gloss]) (rs := glossRegs) touches_rfl c d0 d1 d2 (by simp) (fun _ h => h)).parts.ecc (by simp)
@[simp] theorem raiseGloss_memint (s : State) (c : Nat) (d0 d1 d2 : Word) : (raiseGloss s c d0 d1 d2).memint = s.memint := (touches_raiseGloss (ps := [.gloss]) (rs := glossRegs) touches_rfl c d0 d1 d2 (by simp) (fun _ h => h)).parts.memint (by simp)
@[simp] theorem raiseGloss_evt (s : State) (c : Nat) (d0 d1 d2 : Word) : (raiseGloss s c d0 d1 d2).evt = s.evt := (touches_raiseGloss (ps := [.gloss]) (rs := glossRegs) touches_rfl c d0 d1 d2 (by simp) (fun _ h => h)).parts.evt (by simp)
@[simp] theorem raiseGloss_syns (s : State) (c : Nat) (d0 d1 d2 : Word) : (raiseGloss s c d0 d1 d2).syns = s.syns := (touches_raiseGloss (ps := [.gloss]) (rs := glossRegs) touches_rfl c d0 d1 d2 (by simp) (fun _ h => h)).parts.syns (by simp)
@[simp] theorem raiseGloss_decls (s : State) (c : Nat) (d0 d1 d2 : Word) : (raiseGloss s c d0 d1 d2).decls = s.decls := (touches_raiseGloss (ps := [.gloss]) (rs := glossRegs) touches_rfl c d0 d1 d2 (by simp) (fun _ h => h)).parts.decls (by simp)
@[simp] theorem raiseGloss_phrases (s : State) (c : Nat) (d0 d1 d2 : Word) : (raiseGloss s c d0 d1 d2).phrases = s.phrases := (touches_raiseGloss (ps := [.gloss]) (rs := glossRegs) touches_rfl c d0 d1 d2 (by simp) (fun _ h => h)).parts.phrases (by simp)
@[simp] theorem raiseGloss_alloc (s : State) (c : Nat) (d0 d1 d2 : Word) : (raiseGloss s c d0 d1 d2).alloc = s.alloc := (touches_raiseGloss (ps := [.gloss]) (rs := glossRegs) touches_rfl c d0 d1 d2 (by simp) (fun _ h => h)).parts.alloc (by simp)
@[simp] theorem raiseGloss_verbs (s : State) (c : Nat) (d0 d1 d2 : Word) : (raiseGloss s c d0 d1 d2).verbs = s.verbs := (touches_raiseGloss (ps := [.gloss]) (rs := glossRegs) touches_rfl c d0 d1 d2 (by simp) (fun _ h => h)).parts.verbs (by simp)
@[simp] theorem raiseGloss_parser (s : State) (c : Nat) (d0 d1 d2 : Word) : (raiseGloss s c d0 d1 d2).parser = s.parser := (touches_raiseGloss (ps := [.gloss]) (rs := glossRegs) touches_rfl c d0 d1 d2 (by simp) (fun _ h => h)).parts.parser (by simp)
@[simp] theorem raiseGloss_ended (s : State) (c : Nat) (d0 d1 d2 : Word) : (raiseGloss s c d0 d1 d2).ended = s.ended := (touches_raiseGloss (ps := [.gloss]) (rs := glossRegs) touches_rfl c d0 d1 d2 (by simp) (fun _ h => h)).parts.ended (by simp)
@[simp] theorem raiseGloss_boot (s : State) (c : Nat) (d0 d1 d2 : Word) : (raiseGloss s c d0 d1 d2).boot = s.boot := (touches_raiseGloss (ps := [.gloss]) (rs := glossRegs) touches_rfl c d0 d1 d2 (by simp) (fun _ h => h)).parts.boot (by simp)
@[simp] theorem raiseGloss_tense (s : State) (c : Nat) (d0 d1 d2 : Word) : (raiseGloss s c d0 d1 d2).tense = s.tense := (touches_raiseGloss (ps := [.gloss]) (rs := glossRegs) touches_rfl c d0 d1 d2 (by simp) (fun _ h => h)).parts.tense (by simp)
@[simp] theorem raiseGloss_timers (s : State) (c : Nat) (d0 d1 d2 : Word) : (raiseGloss s c d0 d1 d2).timers = s.timers := (touches_raiseGloss (ps := [.gloss]) (rs := glossRegs) touches_rfl c d0 d1 d2 (by simp) (fun _ h => h)).parts.timers (by simp)
@[simp] theorem raiseGloss_analog (s : State) (c : Nat) (d0 d1 d2 : Word) : (raiseGloss s c d0 d1 d2).analog = s.analog := (touches_raiseGloss (ps := [.gloss]) (rs := glossRegs) touches_rfl c d0 d1 d2 (by simp) (fun _ h => h)).parts.analog (by simp)
@[simp] theorem raiseGloss_pins (s : State) (c : Nat) (d0 d1 d2 : Word) : (raiseGloss s c d0 d1 d2).pins = s.pins := (touches_raiseGloss (ps := [.gloss]) (rs := glossRegs) touches_rfl c d0 d1 d2 (by simp) (fun _ h => h)).parts.pins (by simp)
@[simp] theorem raiseGloss_power (s : State) (c : Nat) (d0 d1 d2 : Word) : (raiseGloss s c d0 d1 d2).power = s.power := (touches_raiseGloss (ps := [.gloss]) (rs := glossRegs) touches_rfl c d0 d1 d2 (by simp) (fun _ h => h)).parts.power (by simp)
@[simp] theorem raiseGloss_sp (s : State) (c : Nat) (d0 d1 d2 : Word) : (raiseGloss s c d0 d1 d2).sp = s.sp := (touches_raiseGloss (ps := [.gloss]) (rs := glossRegs) touches_rfl c d0 d1 d2 (by simp) (fun _ h => h)).parts.sp (by simp)
@[simp] theorem raiseGloss_sys (s : State) (c : Nat) (d0 d1 d2 : Word) : (raiseGloss s c d0 d1 d2).sys = s.sys := (touches_raiseGloss (ps := [.gloss]) (rs := glossRegs) touches_rfl c d0 d1 d2 (by simp) (fun _ h => h)).parts.sys (by simp)
@[simp] theorem raiseGloss_links (s : State) (c : Nat) (d0 d1 d2 : Word) : (raiseGloss s c d0 d1 d2).links = s.links := (touches_raiseGloss (ps := [.gloss]) (rs := glossRegs) touches_rfl c d0 d1 d2 (by simp) (fun _ h => h)).parts.links (by simp)
@[simp] theorem raiseGloss_dai (s : State) (c : Nat) (d0 d1 d2 : Word) : (raiseGloss s c d0 d1 d2).dai = s.dai := (touches_raiseGloss (ps := [.gloss]) (rs := glossRegs) touches_rfl c d0 d1 d2 (by simp) (fun _ h => h)).parts.dai (by simp)
@[simp] theorem raiseGloss_flash (s : State) (c : Nat) (d0 d1 d2 : Word) : (raiseGloss s c d0 d1 d2).flash = s.flash := (touches_raiseGloss (ps := [.gloss]) (rs := glossRegs) touches_rfl c d0 d1 d2 (by simp) (fun _ h => h)).parts.flash (by simp)
@[simp] theorem raiseGloss_nvm (s : State) (c : Nat) (d0 d1 d2 : Word) : (raiseGloss s c d0 d1 d2).nvm = s.nvm := (touches_raiseGloss (ps := [.gloss]) (rs := glossRegs) touches_rfl c d0 d1 d2 (by simp) (fun _ h => h)).parts.nvm (by simp)
@[simp] theorem raiseGloss_image (s : State) (c : Nat) (d0 d1 d2 : Word) : (raiseGloss s c d0 d1 d2).image = s.image := (touches_raiseGloss (ps := [.gloss]) (rs := glossRegs) touches_rfl c d0 d1 d2 (by simp) (fun _ h => h)).parts.image (by simp)
@[simp] theorem raiseGloss_fuse (s : State) (c : Nat) (d0 d1 d2 : Word) : (raiseGloss s c d0 d1 d2).fuse = s.fuse := (touches_raiseGloss (ps := [.gloss]) (rs := glossRegs) touches_rfl c d0 d1 d2 (by simp) (fun _ h => h)).parts.fuse (by simp)
@[simp] theorem raiseGloss_tap (s : State) (c : Nat) (d0 d1 d2 : Word) : (raiseGloss s c d0 d1 d2).tap = s.tap := (touches_raiseGloss (ps := [.gloss]) (rs := glossRegs) touches_rfl c d0 d1 d2 (by simp) (fun _ h => h)).parts.tap (by simp)
@[simp] theorem raiseGloss_free (s : State) (c : Nat) (d0 d1 d2 : Word) : (raiseGloss s c d0 d1 d2).free = s.free := (touches_raiseGloss (ps := [.gloss]) (rs := glossRegs) touches_rfl c d0 d1 d2 (by simp) (fun _ h => h)).parts.free (by simp)
@[simp] theorem raiseGloss_pending (s : State) (c : Nat) (d0 d1 d2 : Word) : (raiseGloss s c d0 d1 d2).pending = s.pending := (touches_raiseGloss (ps := [.gloss]) (rs := glossRegs) touches_rfl c d0 d1 d2 (by simp) (fun _ h => h)).parts.pending (by simp)

@[simp] theorem onSp_time (s : State) (p : Nat) (f : SpSt → SpSt) : (onSp s p f).time = s.time := rfl
@[simp] theorem onSp_host (s : State) (p : Nat) (f : SpSt → SpSt) : (onSp s p f).host = s.host := rfl
@[simp] theorem onSp_regs (s : State) (p : Nat) (f : SpSt → SpSt) : (onSp s p f).regs = s.regs := rfl
@[simp] theorem onSp_staged (s : State) (p : Nat) (f : SpSt → SpSt) : (onSp s p f).staged = s.staged := rfl
@[simp] theorem onSp_mem (s : State) (p : Nat) (f : SpSt → SpSt) : (onSp s p f).mem = s.mem := rfl
@[simp] theorem onSp_ecc (s : State) (p : Nat) (f : SpSt → SpSt) : (onSp s p f).ecc = s.ecc := rfl
@[simp] theorem onSp_memint (s : State) (p : Nat) (f : SpSt → SpSt) : (onSp s p f).memint = s.memint := rfl
@[simp] theorem onSp_gloss (s : State) (p : Nat) (f : SpSt → SpSt) : (onSp s p f).gloss = s.gloss := rfl
@[simp] theorem onSp_evt (s : State) (p : Nat) (f : SpSt → SpSt) : (onSp s p f).evt = s.evt := rfl
@[simp] theorem onSp_syns (s : State) (p : Nat) (f : SpSt → SpSt) : (onSp s p f).syns = s.syns := rfl
@[simp] theorem onSp_decls (s : State) (p : Nat) (f : SpSt → SpSt) : (onSp s p f).decls = s.decls := rfl
@[simp] theorem onSp_phrases (s : State) (p : Nat) (f : SpSt → SpSt) : (onSp s p f).phrases = s.phrases := rfl
@[simp] theorem onSp_alloc (s : State) (p : Nat) (f : SpSt → SpSt) : (onSp s p f).alloc = s.alloc := rfl
@[simp] theorem onSp_verbs (s : State) (p : Nat) (f : SpSt → SpSt) : (onSp s p f).verbs = s.verbs := rfl
@[simp] theorem onSp_parser (s : State) (p : Nat) (f : SpSt → SpSt) : (onSp s p f).parser = s.parser := rfl
@[simp] theorem onSp_ended (s : State) (p : Nat) (f : SpSt → SpSt) : (onSp s p f).ended = s.ended := rfl
@[simp] theorem onSp_boot (s : State) (p : Nat) (f : SpSt → SpSt) : (onSp s p f).boot = s.boot := rfl
@[simp] theorem onSp_tense (s : State) (p : Nat) (f : SpSt → SpSt) : (onSp s p f).tense = s.tense := rfl
@[simp] theorem onSp_timers (s : State) (p : Nat) (f : SpSt → SpSt) : (onSp s p f).timers = s.timers := rfl
@[simp] theorem onSp_analog (s : State) (p : Nat) (f : SpSt → SpSt) : (onSp s p f).analog = s.analog := rfl
@[simp] theorem onSp_pins (s : State) (p : Nat) (f : SpSt → SpSt) : (onSp s p f).pins = s.pins := rfl
@[simp] theorem onSp_power (s : State) (p : Nat) (f : SpSt → SpSt) : (onSp s p f).power = s.power := rfl
@[simp] theorem onSp_sys (s : State) (p : Nat) (f : SpSt → SpSt) : (onSp s p f).sys = s.sys := rfl
@[simp] theorem onSp_links (s : State) (p : Nat) (f : SpSt → SpSt) : (onSp s p f).links = s.links := rfl
@[simp] theorem onSp_dai (s : State) (p : Nat) (f : SpSt → SpSt) : (onSp s p f).dai = s.dai := rfl
@[simp] theorem onSp_flash (s : State) (p : Nat) (f : SpSt → SpSt) : (onSp s p f).flash = s.flash := rfl
@[simp] theorem onSp_nvm (s : State) (p : Nat) (f : SpSt → SpSt) : (onSp s p f).nvm = s.nvm := rfl
@[simp] theorem onSp_image (s : State) (p : Nat) (f : SpSt → SpSt) : (onSp s p f).image = s.image := rfl
@[simp] theorem onSp_fuse (s : State) (p : Nat) (f : SpSt → SpSt) : (onSp s p f).fuse = s.fuse := rfl
@[simp] theorem onSp_tap (s : State) (p : Nat) (f : SpSt → SpSt) : (onSp s p f).tap = s.tap := rfl
@[simp] theorem onSp_free (s : State) (p : Nat) (f : SpSt → SpSt) : (onSp s p f).free = s.free := rfl
@[simp] theorem onSp_pending (s : State) (p : Nat) (f : SpSt → SpSt) : (onSp s p f).pending = s.pending := rfl

@[simp] theorem onLink_time (s : State) (l : Nat) (f : LinkSt → LinkSt) : (onLink s l f).time = s.time := rfl
@[simp] theorem onLink_host (s : State) (l : Nat) (f : LinkSt → LinkSt) : (onLink s l f).host = s.host := rfl
@[simp] theorem onLink_regs (s : State) (l : Nat) (f : LinkSt → LinkSt) : (onLink s l f).regs = s.regs := rfl
@[simp] theorem onLink_staged (s : State) (l : Nat) (f : LinkSt → LinkSt) : (onLink s l f).staged = s.staged := rfl
@[simp] theorem onLink_mem (s : State) (l : Nat) (f : LinkSt → LinkSt) : (onLink s l f).mem = s.mem := rfl
@[simp] theorem onLink_ecc (s : State) (l : Nat) (f : LinkSt → LinkSt) : (onLink s l f).ecc = s.ecc := rfl
@[simp] theorem onLink_memint (s : State) (l : Nat) (f : LinkSt → LinkSt) : (onLink s l f).memint = s.memint := rfl
@[simp] theorem onLink_gloss (s : State) (l : Nat) (f : LinkSt → LinkSt) : (onLink s l f).gloss = s.gloss := rfl
@[simp] theorem onLink_evt (s : State) (l : Nat) (f : LinkSt → LinkSt) : (onLink s l f).evt = s.evt := rfl
@[simp] theorem onLink_syns (s : State) (l : Nat) (f : LinkSt → LinkSt) : (onLink s l f).syns = s.syns := rfl
@[simp] theorem onLink_decls (s : State) (l : Nat) (f : LinkSt → LinkSt) : (onLink s l f).decls = s.decls := rfl
@[simp] theorem onLink_phrases (s : State) (l : Nat) (f : LinkSt → LinkSt) : (onLink s l f).phrases = s.phrases := rfl
@[simp] theorem onLink_alloc (s : State) (l : Nat) (f : LinkSt → LinkSt) : (onLink s l f).alloc = s.alloc := rfl
@[simp] theorem onLink_verbs (s : State) (l : Nat) (f : LinkSt → LinkSt) : (onLink s l f).verbs = s.verbs := rfl
@[simp] theorem onLink_parser (s : State) (l : Nat) (f : LinkSt → LinkSt) : (onLink s l f).parser = s.parser := rfl
@[simp] theorem onLink_ended (s : State) (l : Nat) (f : LinkSt → LinkSt) : (onLink s l f).ended = s.ended := rfl
@[simp] theorem onLink_boot (s : State) (l : Nat) (f : LinkSt → LinkSt) : (onLink s l f).boot = s.boot := rfl
@[simp] theorem onLink_tense (s : State) (l : Nat) (f : LinkSt → LinkSt) : (onLink s l f).tense = s.tense := rfl
@[simp] theorem onLink_timers (s : State) (l : Nat) (f : LinkSt → LinkSt) : (onLink s l f).timers = s.timers := rfl
@[simp] theorem onLink_analog (s : State) (l : Nat) (f : LinkSt → LinkSt) : (onLink s l f).analog = s.analog := rfl
@[simp] theorem onLink_pins (s : State) (l : Nat) (f : LinkSt → LinkSt) : (onLink s l f).pins = s.pins := rfl
@[simp] theorem onLink_power (s : State) (l : Nat) (f : LinkSt → LinkSt) : (onLink s l f).power = s.power := rfl
@[simp] theorem onLink_sp (s : State) (l : Nat) (f : LinkSt → LinkSt) : (onLink s l f).sp = s.sp := rfl
@[simp] theorem onLink_sys (s : State) (l : Nat) (f : LinkSt → LinkSt) : (onLink s l f).sys = s.sys := rfl
@[simp] theorem onLink_dai (s : State) (l : Nat) (f : LinkSt → LinkSt) : (onLink s l f).dai = s.dai := rfl
@[simp] theorem onLink_flash (s : State) (l : Nat) (f : LinkSt → LinkSt) : (onLink s l f).flash = s.flash := rfl
@[simp] theorem onLink_nvm (s : State) (l : Nat) (f : LinkSt → LinkSt) : (onLink s l f).nvm = s.nvm := rfl
@[simp] theorem onLink_image (s : State) (l : Nat) (f : LinkSt → LinkSt) : (onLink s l f).image = s.image := rfl
@[simp] theorem onLink_fuse (s : State) (l : Nat) (f : LinkSt → LinkSt) : (onLink s l f).fuse = s.fuse := rfl
@[simp] theorem onLink_tap (s : State) (l : Nat) (f : LinkSt → LinkSt) : (onLink s l f).tap = s.tap := rfl
@[simp] theorem onLink_free (s : State) (l : Nat) (f : LinkSt → LinkSt) : (onLink s l f).free = s.free := rfl
@[simp] theorem onLink_pending (s : State) (l : Nat) (f : LinkSt → LinkSt) : (onLink s l f).pending = s.pending := rfl

@[simp] theorem onVerb_time (s : State) (v : Nat) (f : VerbSt → VerbSt) : (onVerb s v f).time = s.time := rfl
@[simp] theorem onVerb_host (s : State) (v : Nat) (f : VerbSt → VerbSt) : (onVerb s v f).host = s.host := rfl
@[simp] theorem onVerb_regs (s : State) (v : Nat) (f : VerbSt → VerbSt) : (onVerb s v f).regs = s.regs := rfl
@[simp] theorem onVerb_staged (s : State) (v : Nat) (f : VerbSt → VerbSt) : (onVerb s v f).staged = s.staged := rfl
@[simp] theorem onVerb_mem (s : State) (v : Nat) (f : VerbSt → VerbSt) : (onVerb s v f).mem = s.mem := rfl
@[simp] theorem onVerb_ecc (s : State) (v : Nat) (f : VerbSt → VerbSt) : (onVerb s v f).ecc = s.ecc := rfl
@[simp] theorem onVerb_memint (s : State) (v : Nat) (f : VerbSt → VerbSt) : (onVerb s v f).memint = s.memint := rfl
@[simp] theorem onVerb_gloss (s : State) (v : Nat) (f : VerbSt → VerbSt) : (onVerb s v f).gloss = s.gloss := rfl
@[simp] theorem onVerb_evt (s : State) (v : Nat) (f : VerbSt → VerbSt) : (onVerb s v f).evt = s.evt := rfl
@[simp] theorem onVerb_syns (s : State) (v : Nat) (f : VerbSt → VerbSt) : (onVerb s v f).syns = s.syns := rfl
@[simp] theorem onVerb_decls (s : State) (v : Nat) (f : VerbSt → VerbSt) : (onVerb s v f).decls = s.decls := rfl
@[simp] theorem onVerb_phrases (s : State) (v : Nat) (f : VerbSt → VerbSt) : (onVerb s v f).phrases = s.phrases := rfl
@[simp] theorem onVerb_alloc (s : State) (v : Nat) (f : VerbSt → VerbSt) : (onVerb s v f).alloc = s.alloc := rfl
@[simp] theorem onVerb_parser (s : State) (v : Nat) (f : VerbSt → VerbSt) : (onVerb s v f).parser = s.parser := rfl
@[simp] theorem onVerb_ended (s : State) (v : Nat) (f : VerbSt → VerbSt) : (onVerb s v f).ended = s.ended := rfl
@[simp] theorem onVerb_boot (s : State) (v : Nat) (f : VerbSt → VerbSt) : (onVerb s v f).boot = s.boot := rfl
@[simp] theorem onVerb_tense (s : State) (v : Nat) (f : VerbSt → VerbSt) : (onVerb s v f).tense = s.tense := rfl
@[simp] theorem onVerb_timers (s : State) (v : Nat) (f : VerbSt → VerbSt) : (onVerb s v f).timers = s.timers := rfl
@[simp] theorem onVerb_analog (s : State) (v : Nat) (f : VerbSt → VerbSt) : (onVerb s v f).analog = s.analog := rfl
@[simp] theorem onVerb_pins (s : State) (v : Nat) (f : VerbSt → VerbSt) : (onVerb s v f).pins = s.pins := rfl
@[simp] theorem onVerb_power (s : State) (v : Nat) (f : VerbSt → VerbSt) : (onVerb s v f).power = s.power := rfl
@[simp] theorem onVerb_sp (s : State) (v : Nat) (f : VerbSt → VerbSt) : (onVerb s v f).sp = s.sp := rfl
@[simp] theorem onVerb_sys (s : State) (v : Nat) (f : VerbSt → VerbSt) : (onVerb s v f).sys = s.sys := rfl
@[simp] theorem onVerb_links (s : State) (v : Nat) (f : VerbSt → VerbSt) : (onVerb s v f).links = s.links := rfl
@[simp] theorem onVerb_dai (s : State) (v : Nat) (f : VerbSt → VerbSt) : (onVerb s v f).dai = s.dai := rfl
@[simp] theorem onVerb_flash (s : State) (v : Nat) (f : VerbSt → VerbSt) : (onVerb s v f).flash = s.flash := rfl
@[simp] theorem onVerb_nvm (s : State) (v : Nat) (f : VerbSt → VerbSt) : (onVerb s v f).nvm = s.nvm := rfl
@[simp] theorem onVerb_image (s : State) (v : Nat) (f : VerbSt → VerbSt) : (onVerb s v f).image = s.image := rfl
@[simp] theorem onVerb_fuse (s : State) (v : Nat) (f : VerbSt → VerbSt) : (onVerb s v f).fuse = s.fuse := rfl
@[simp] theorem onVerb_tap (s : State) (v : Nat) (f : VerbSt → VerbSt) : (onVerb s v f).tap = s.tap := rfl
@[simp] theorem onVerb_free (s : State) (v : Nat) (f : VerbSt → VerbSt) : (onVerb s v f).free = s.free := rfl
@[simp] theorem onVerb_pending (s : State) (v : Nat) (f : VerbSt → VerbSt) : (onVerb s v f).pending = s.pending := rfl

@[simp] theorem onTimer_time (s : State) (n : Nat) (f : TimerSt → TimerSt) : (onTimer s n f).time = s.time := rfl
@[simp] theorem onTimer_host (s : State) (n : Nat) (f : TimerSt → TimerSt) : (onTimer s n f).host = s.host := rfl
@[simp] theorem onTimer_regs (s : State) (n : Nat) (f : TimerSt → TimerSt) : (onTimer s n f).regs = s.regs := rfl
@[simp] theorem onTimer_staged (s : State) (n : Nat) (f : TimerSt → TimerSt) : (onTimer s n f).staged = s.staged := rfl
@[simp] theorem onTimer_mem (s : State) (n : Nat) (f : TimerSt → TimerSt) : (onTimer s n f).mem = s.mem := rfl
@[simp] theorem onTimer_ecc (s : State) (n : Nat) (f : TimerSt → TimerSt) : (onTimer s n f).ecc = s.ecc := rfl
@[simp] theorem onTimer_memint (s : State) (n : Nat) (f : TimerSt → TimerSt) : (onTimer s n f).memint = s.memint := rfl
@[simp] theorem onTimer_gloss (s : State) (n : Nat) (f : TimerSt → TimerSt) : (onTimer s n f).gloss = s.gloss := rfl
@[simp] theorem onTimer_evt (s : State) (n : Nat) (f : TimerSt → TimerSt) : (onTimer s n f).evt = s.evt := rfl
@[simp] theorem onTimer_syns (s : State) (n : Nat) (f : TimerSt → TimerSt) : (onTimer s n f).syns = s.syns := rfl
@[simp] theorem onTimer_decls (s : State) (n : Nat) (f : TimerSt → TimerSt) : (onTimer s n f).decls = s.decls := rfl
@[simp] theorem onTimer_phrases (s : State) (n : Nat) (f : TimerSt → TimerSt) : (onTimer s n f).phrases = s.phrases := rfl
@[simp] theorem onTimer_alloc (s : State) (n : Nat) (f : TimerSt → TimerSt) : (onTimer s n f).alloc = s.alloc := rfl
@[simp] theorem onTimer_verbs (s : State) (n : Nat) (f : TimerSt → TimerSt) : (onTimer s n f).verbs = s.verbs := rfl
@[simp] theorem onTimer_parser (s : State) (n : Nat) (f : TimerSt → TimerSt) : (onTimer s n f).parser = s.parser := rfl
@[simp] theorem onTimer_ended (s : State) (n : Nat) (f : TimerSt → TimerSt) : (onTimer s n f).ended = s.ended := rfl
@[simp] theorem onTimer_boot (s : State) (n : Nat) (f : TimerSt → TimerSt) : (onTimer s n f).boot = s.boot := rfl
@[simp] theorem onTimer_tense (s : State) (n : Nat) (f : TimerSt → TimerSt) : (onTimer s n f).tense = s.tense := rfl
@[simp] theorem onTimer_analog (s : State) (n : Nat) (f : TimerSt → TimerSt) : (onTimer s n f).analog = s.analog := rfl
@[simp] theorem onTimer_pins (s : State) (n : Nat) (f : TimerSt → TimerSt) : (onTimer s n f).pins = s.pins := rfl
@[simp] theorem onTimer_power (s : State) (n : Nat) (f : TimerSt → TimerSt) : (onTimer s n f).power = s.power := rfl
@[simp] theorem onTimer_sp (s : State) (n : Nat) (f : TimerSt → TimerSt) : (onTimer s n f).sp = s.sp := rfl
@[simp] theorem onTimer_sys (s : State) (n : Nat) (f : TimerSt → TimerSt) : (onTimer s n f).sys = s.sys := rfl
@[simp] theorem onTimer_links (s : State) (n : Nat) (f : TimerSt → TimerSt) : (onTimer s n f).links = s.links := rfl
@[simp] theorem onTimer_dai (s : State) (n : Nat) (f : TimerSt → TimerSt) : (onTimer s n f).dai = s.dai := rfl
@[simp] theorem onTimer_flash (s : State) (n : Nat) (f : TimerSt → TimerSt) : (onTimer s n f).flash = s.flash := rfl
@[simp] theorem onTimer_nvm (s : State) (n : Nat) (f : TimerSt → TimerSt) : (onTimer s n f).nvm = s.nvm := rfl
@[simp] theorem onTimer_image (s : State) (n : Nat) (f : TimerSt → TimerSt) : (onTimer s n f).image = s.image := rfl
@[simp] theorem onTimer_fuse (s : State) (n : Nat) (f : TimerSt → TimerSt) : (onTimer s n f).fuse = s.fuse := rfl
@[simp] theorem onTimer_tap (s : State) (n : Nat) (f : TimerSt → TimerSt) : (onTimer s n f).tap = s.tap := rfl
@[simp] theorem onTimer_free (s : State) (n : Nat) (f : TimerSt → TimerSt) : (onTimer s n f).free = s.free := rfl
@[simp] theorem onTimer_pending (s : State) (n : Nat) (f : TimerSt → TimerSt) : (onTimer s n f).pending = s.pending := rfl

@[simp] theorem onDai_time (s : State) (p : Nat) (f : DaiSt → DaiSt) : (onDai s p f).time = s.time := rfl
@[simp] theorem onDai_host (s : State) (p : Nat) (f : DaiSt → DaiSt) : (onDai s p f).host = s.host := rfl
@[simp] theorem onDai_regs (s : State) (p : Nat) (f : DaiSt → DaiSt) : (onDai s p f).regs = s.regs := rfl
@[simp] theorem onDai_staged (s : State) (p : Nat) (f : DaiSt → DaiSt) : (onDai s p f).staged = s.staged := rfl
@[simp] theorem onDai_mem (s : State) (p : Nat) (f : DaiSt → DaiSt) : (onDai s p f).mem = s.mem := rfl
@[simp] theorem onDai_ecc (s : State) (p : Nat) (f : DaiSt → DaiSt) : (onDai s p f).ecc = s.ecc := rfl
@[simp] theorem onDai_memint (s : State) (p : Nat) (f : DaiSt → DaiSt) : (onDai s p f).memint = s.memint := rfl
@[simp] theorem onDai_gloss (s : State) (p : Nat) (f : DaiSt → DaiSt) : (onDai s p f).gloss = s.gloss := rfl
@[simp] theorem onDai_evt (s : State) (p : Nat) (f : DaiSt → DaiSt) : (onDai s p f).evt = s.evt := rfl
@[simp] theorem onDai_syns (s : State) (p : Nat) (f : DaiSt → DaiSt) : (onDai s p f).syns = s.syns := rfl
@[simp] theorem onDai_decls (s : State) (p : Nat) (f : DaiSt → DaiSt) : (onDai s p f).decls = s.decls := rfl
@[simp] theorem onDai_phrases (s : State) (p : Nat) (f : DaiSt → DaiSt) : (onDai s p f).phrases = s.phrases := rfl
@[simp] theorem onDai_alloc (s : State) (p : Nat) (f : DaiSt → DaiSt) : (onDai s p f).alloc = s.alloc := rfl
@[simp] theorem onDai_verbs (s : State) (p : Nat) (f : DaiSt → DaiSt) : (onDai s p f).verbs = s.verbs := rfl
@[simp] theorem onDai_parser (s : State) (p : Nat) (f : DaiSt → DaiSt) : (onDai s p f).parser = s.parser := rfl
@[simp] theorem onDai_ended (s : State) (p : Nat) (f : DaiSt → DaiSt) : (onDai s p f).ended = s.ended := rfl
@[simp] theorem onDai_boot (s : State) (p : Nat) (f : DaiSt → DaiSt) : (onDai s p f).boot = s.boot := rfl
@[simp] theorem onDai_tense (s : State) (p : Nat) (f : DaiSt → DaiSt) : (onDai s p f).tense = s.tense := rfl
@[simp] theorem onDai_timers (s : State) (p : Nat) (f : DaiSt → DaiSt) : (onDai s p f).timers = s.timers := rfl
@[simp] theorem onDai_analog (s : State) (p : Nat) (f : DaiSt → DaiSt) : (onDai s p f).analog = s.analog := rfl
@[simp] theorem onDai_pins (s : State) (p : Nat) (f : DaiSt → DaiSt) : (onDai s p f).pins = s.pins := rfl
@[simp] theorem onDai_power (s : State) (p : Nat) (f : DaiSt → DaiSt) : (onDai s p f).power = s.power := rfl
@[simp] theorem onDai_sp (s : State) (p : Nat) (f : DaiSt → DaiSt) : (onDai s p f).sp = s.sp := rfl
@[simp] theorem onDai_sys (s : State) (p : Nat) (f : DaiSt → DaiSt) : (onDai s p f).sys = s.sys := rfl
@[simp] theorem onDai_links (s : State) (p : Nat) (f : DaiSt → DaiSt) : (onDai s p f).links = s.links := rfl
@[simp] theorem onDai_flash (s : State) (p : Nat) (f : DaiSt → DaiSt) : (onDai s p f).flash = s.flash := rfl
@[simp] theorem onDai_nvm (s : State) (p : Nat) (f : DaiSt → DaiSt) : (onDai s p f).nvm = s.nvm := rfl
@[simp] theorem onDai_image (s : State) (p : Nat) (f : DaiSt → DaiSt) : (onDai s p f).image = s.image := rfl
@[simp] theorem onDai_fuse (s : State) (p : Nat) (f : DaiSt → DaiSt) : (onDai s p f).fuse = s.fuse := rfl
@[simp] theorem onDai_tap (s : State) (p : Nat) (f : DaiSt → DaiSt) : (onDai s p f).tap = s.tap := rfl
@[simp] theorem onDai_free (s : State) (p : Nat) (f : DaiSt → DaiSt) : (onDai s p f).free = s.free := rfl
@[simp] theorem onDai_pending (s : State) (p : Nat) (f : DaiSt → DaiSt) : (onDai s p f).pending = s.pending := rfl

@[simp] theorem onDac_time (s : State) (k : Nat) (f : DacSt → DacSt) : (onDac s k f).time = s.time := rfl
@[simp] theorem onDac_host (s : State) (k : Nat) (f : DacSt → DacSt) : (onDac s k f).host = s.host := rfl
@[simp] theorem onDac_regs (s : State) (k : Nat) (f : DacSt → DacSt) : (onDac s k f).regs = s.regs := rfl
@[simp] theorem onDac_staged (s : State) (k : Nat) (f : DacSt → DacSt) : (onDac s k f).staged = s.staged := rfl
@[simp] theorem onDac_mem (s : State) (k : Nat) (f : DacSt → DacSt) : (onDac s k f).mem = s.mem := rfl
@[simp] theorem onDac_ecc (s : State) (k : Nat) (f : DacSt → DacSt) : (onDac s k f).ecc = s.ecc := rfl
@[simp] theorem onDac_memint (s : State) (k : Nat) (f : DacSt → DacSt) : (onDac s k f).memint = s.memint := rfl
@[simp] theorem onDac_gloss (s : State) (k : Nat) (f : DacSt → DacSt) : (onDac s k f).gloss = s.gloss := rfl
@[simp] theorem onDac_evt (s : State) (k : Nat) (f : DacSt → DacSt) : (onDac s k f).evt = s.evt := rfl
@[simp] theorem onDac_syns (s : State) (k : Nat) (f : DacSt → DacSt) : (onDac s k f).syns = s.syns := rfl
@[simp] theorem onDac_decls (s : State) (k : Nat) (f : DacSt → DacSt) : (onDac s k f).decls = s.decls := rfl
@[simp] theorem onDac_phrases (s : State) (k : Nat) (f : DacSt → DacSt) : (onDac s k f).phrases = s.phrases := rfl
@[simp] theorem onDac_alloc (s : State) (k : Nat) (f : DacSt → DacSt) : (onDac s k f).alloc = s.alloc := rfl
@[simp] theorem onDac_verbs (s : State) (k : Nat) (f : DacSt → DacSt) : (onDac s k f).verbs = s.verbs := rfl
@[simp] theorem onDac_parser (s : State) (k : Nat) (f : DacSt → DacSt) : (onDac s k f).parser = s.parser := rfl
@[simp] theorem onDac_ended (s : State) (k : Nat) (f : DacSt → DacSt) : (onDac s k f).ended = s.ended := rfl
@[simp] theorem onDac_boot (s : State) (k : Nat) (f : DacSt → DacSt) : (onDac s k f).boot = s.boot := rfl
@[simp] theorem onDac_tense (s : State) (k : Nat) (f : DacSt → DacSt) : (onDac s k f).tense = s.tense := rfl
@[simp] theorem onDac_timers (s : State) (k : Nat) (f : DacSt → DacSt) : (onDac s k f).timers = s.timers := rfl
@[simp] theorem onDac_pins (s : State) (k : Nat) (f : DacSt → DacSt) : (onDac s k f).pins = s.pins := rfl
@[simp] theorem onDac_power (s : State) (k : Nat) (f : DacSt → DacSt) : (onDac s k f).power = s.power := rfl
@[simp] theorem onDac_sp (s : State) (k : Nat) (f : DacSt → DacSt) : (onDac s k f).sp = s.sp := rfl
@[simp] theorem onDac_sys (s : State) (k : Nat) (f : DacSt → DacSt) : (onDac s k f).sys = s.sys := rfl
@[simp] theorem onDac_links (s : State) (k : Nat) (f : DacSt → DacSt) : (onDac s k f).links = s.links := rfl
@[simp] theorem onDac_dai (s : State) (k : Nat) (f : DacSt → DacSt) : (onDac s k f).dai = s.dai := rfl
@[simp] theorem onDac_flash (s : State) (k : Nat) (f : DacSt → DacSt) : (onDac s k f).flash = s.flash := rfl
@[simp] theorem onDac_nvm (s : State) (k : Nat) (f : DacSt → DacSt) : (onDac s k f).nvm = s.nvm := rfl
@[simp] theorem onDac_image (s : State) (k : Nat) (f : DacSt → DacSt) : (onDac s k f).image = s.image := rfl
@[simp] theorem onDac_fuse (s : State) (k : Nat) (f : DacSt → DacSt) : (onDac s k f).fuse = s.fuse := rfl
@[simp] theorem onDac_tap (s : State) (k : Nat) (f : DacSt → DacSt) : (onDac s k f).tap = s.tap := rfl
@[simp] theorem onDac_free (s : State) (k : Nat) (f : DacSt → DacSt) : (onDac s k f).free = s.free := rfl
@[simp] theorem onDac_pending (s : State) (k : Nat) (f : DacSt → DacSt) : (onDac s k f).pending = s.pending := rfl

@[simp] theorem onCv_time (s : State) (k : Nat) (f : CvSt → CvSt) : (onCv s k f).time = s.time := rfl
@[simp] theorem onCv_host (s : State) (k : Nat) (f : CvSt → CvSt) : (onCv s k f).host = s.host := rfl
@[simp] theorem onCv_regs (s : State) (k : Nat) (f : CvSt → CvSt) : (onCv s k f).regs = s.regs := rfl
@[simp] theorem onCv_staged (s : State) (k : Nat) (f : CvSt → CvSt) : (onCv s k f).staged = s.staged := rfl
@[simp] theorem onCv_mem (s : State) (k : Nat) (f : CvSt → CvSt) : (onCv s k f).mem = s.mem := rfl
@[simp] theorem onCv_ecc (s : State) (k : Nat) (f : CvSt → CvSt) : (onCv s k f).ecc = s.ecc := rfl
@[simp] theorem onCv_memint (s : State) (k : Nat) (f : CvSt → CvSt) : (onCv s k f).memint = s.memint := rfl
@[simp] theorem onCv_gloss (s : State) (k : Nat) (f : CvSt → CvSt) : (onCv s k f).gloss = s.gloss := rfl
@[simp] theorem onCv_evt (s : State) (k : Nat) (f : CvSt → CvSt) : (onCv s k f).evt = s.evt := rfl
@[simp] theorem onCv_syns (s : State) (k : Nat) (f : CvSt → CvSt) : (onCv s k f).syns = s.syns := rfl
@[simp] theorem onCv_decls (s : State) (k : Nat) (f : CvSt → CvSt) : (onCv s k f).decls = s.decls := rfl
@[simp] theorem onCv_phrases (s : State) (k : Nat) (f : CvSt → CvSt) : (onCv s k f).phrases = s.phrases := rfl
@[simp] theorem onCv_alloc (s : State) (k : Nat) (f : CvSt → CvSt) : (onCv s k f).alloc = s.alloc := rfl
@[simp] theorem onCv_verbs (s : State) (k : Nat) (f : CvSt → CvSt) : (onCv s k f).verbs = s.verbs := rfl
@[simp] theorem onCv_parser (s : State) (k : Nat) (f : CvSt → CvSt) : (onCv s k f).parser = s.parser := rfl
@[simp] theorem onCv_ended (s : State) (k : Nat) (f : CvSt → CvSt) : (onCv s k f).ended = s.ended := rfl
@[simp] theorem onCv_boot (s : State) (k : Nat) (f : CvSt → CvSt) : (onCv s k f).boot = s.boot := rfl
@[simp] theorem onCv_tense (s : State) (k : Nat) (f : CvSt → CvSt) : (onCv s k f).tense = s.tense := rfl
@[simp] theorem onCv_timers (s : State) (k : Nat) (f : CvSt → CvSt) : (onCv s k f).timers = s.timers := rfl
@[simp] theorem onCv_pins (s : State) (k : Nat) (f : CvSt → CvSt) : (onCv s k f).pins = s.pins := rfl
@[simp] theorem onCv_power (s : State) (k : Nat) (f : CvSt → CvSt) : (onCv s k f).power = s.power := rfl
@[simp] theorem onCv_sp (s : State) (k : Nat) (f : CvSt → CvSt) : (onCv s k f).sp = s.sp := rfl
@[simp] theorem onCv_sys (s : State) (k : Nat) (f : CvSt → CvSt) : (onCv s k f).sys = s.sys := rfl
@[simp] theorem onCv_links (s : State) (k : Nat) (f : CvSt → CvSt) : (onCv s k f).links = s.links := rfl
@[simp] theorem onCv_dai (s : State) (k : Nat) (f : CvSt → CvSt) : (onCv s k f).dai = s.dai := rfl
@[simp] theorem onCv_flash (s : State) (k : Nat) (f : CvSt → CvSt) : (onCv s k f).flash = s.flash := rfl
@[simp] theorem onCv_nvm (s : State) (k : Nat) (f : CvSt → CvSt) : (onCv s k f).nvm = s.nvm := rfl
@[simp] theorem onCv_image (s : State) (k : Nat) (f : CvSt → CvSt) : (onCv s k f).image = s.image := rfl
@[simp] theorem onCv_fuse (s : State) (k : Nat) (f : CvSt → CvSt) : (onCv s k f).fuse = s.fuse := rfl
@[simp] theorem onCv_tap (s : State) (k : Nat) (f : CvSt → CvSt) : (onCv s k f).tap = s.tap := rfl
@[simp] theorem onCv_free (s : State) (k : Nat) (f : CvSt → CvSt) : (onCv s k f).free = s.free := rfl
@[simp] theorem onCv_pending (s : State) (k : Nat) (f : CvSt → CvSt) : (onCv s k f).pending = s.pending := rfl

@[simp] theorem onAdc_time (s : State) (n : Nat) (f : AdcSt → AdcSt) : (onAdc s n f).time = s.time := rfl
@[simp] theorem onAdc_host (s : State) (n : Nat) (f : AdcSt → AdcSt) : (onAdc s n f).host = s.host := rfl
@[simp] theorem onAdc_regs (s : State) (n : Nat) (f : AdcSt → AdcSt) : (onAdc s n f).regs = s.regs := rfl
@[simp] theorem onAdc_staged (s : State) (n : Nat) (f : AdcSt → AdcSt) : (onAdc s n f).staged = s.staged := rfl
@[simp] theorem onAdc_mem (s : State) (n : Nat) (f : AdcSt → AdcSt) : (onAdc s n f).mem = s.mem := rfl
@[simp] theorem onAdc_ecc (s : State) (n : Nat) (f : AdcSt → AdcSt) : (onAdc s n f).ecc = s.ecc := rfl
@[simp] theorem onAdc_memint (s : State) (n : Nat) (f : AdcSt → AdcSt) : (onAdc s n f).memint = s.memint := rfl
@[simp] theorem onAdc_gloss (s : State) (n : Nat) (f : AdcSt → AdcSt) : (onAdc s n f).gloss = s.gloss := rfl
@[simp] theorem onAdc_evt (s : State) (n : Nat) (f : AdcSt → AdcSt) : (onAdc s n f).evt = s.evt := rfl
@[simp] theorem onAdc_syns (s : State) (n : Nat) (f : AdcSt → AdcSt) : (onAdc s n f).syns = s.syns := rfl
@[simp] theorem onAdc_decls (s : State) (n : Nat) (f : AdcSt → AdcSt) : (onAdc s n f).decls = s.decls := rfl
@[simp] theorem onAdc_phrases (s : State) (n : Nat) (f : AdcSt → AdcSt) : (onAdc s n f).phrases = s.phrases := rfl
@[simp] theorem onAdc_alloc (s : State) (n : Nat) (f : AdcSt → AdcSt) : (onAdc s n f).alloc = s.alloc := rfl
@[simp] theorem onAdc_verbs (s : State) (n : Nat) (f : AdcSt → AdcSt) : (onAdc s n f).verbs = s.verbs := rfl
@[simp] theorem onAdc_parser (s : State) (n : Nat) (f : AdcSt → AdcSt) : (onAdc s n f).parser = s.parser := rfl
@[simp] theorem onAdc_ended (s : State) (n : Nat) (f : AdcSt → AdcSt) : (onAdc s n f).ended = s.ended := rfl
@[simp] theorem onAdc_boot (s : State) (n : Nat) (f : AdcSt → AdcSt) : (onAdc s n f).boot = s.boot := rfl
@[simp] theorem onAdc_tense (s : State) (n : Nat) (f : AdcSt → AdcSt) : (onAdc s n f).tense = s.tense := rfl
@[simp] theorem onAdc_timers (s : State) (n : Nat) (f : AdcSt → AdcSt) : (onAdc s n f).timers = s.timers := rfl
@[simp] theorem onAdc_pins (s : State) (n : Nat) (f : AdcSt → AdcSt) : (onAdc s n f).pins = s.pins := rfl
@[simp] theorem onAdc_power (s : State) (n : Nat) (f : AdcSt → AdcSt) : (onAdc s n f).power = s.power := rfl
@[simp] theorem onAdc_sp (s : State) (n : Nat) (f : AdcSt → AdcSt) : (onAdc s n f).sp = s.sp := rfl
@[simp] theorem onAdc_sys (s : State) (n : Nat) (f : AdcSt → AdcSt) : (onAdc s n f).sys = s.sys := rfl
@[simp] theorem onAdc_links (s : State) (n : Nat) (f : AdcSt → AdcSt) : (onAdc s n f).links = s.links := rfl
@[simp] theorem onAdc_dai (s : State) (n : Nat) (f : AdcSt → AdcSt) : (onAdc s n f).dai = s.dai := rfl
@[simp] theorem onAdc_flash (s : State) (n : Nat) (f : AdcSt → AdcSt) : (onAdc s n f).flash = s.flash := rfl
@[simp] theorem onAdc_nvm (s : State) (n : Nat) (f : AdcSt → AdcSt) : (onAdc s n f).nvm = s.nvm := rfl
@[simp] theorem onAdc_image (s : State) (n : Nat) (f : AdcSt → AdcSt) : (onAdc s n f).image = s.image := rfl
@[simp] theorem onAdc_fuse (s : State) (n : Nat) (f : AdcSt → AdcSt) : (onAdc s n f).fuse = s.fuse := rfl
@[simp] theorem onAdc_tap (s : State) (n : Nat) (f : AdcSt → AdcSt) : (onAdc s n f).tap = s.tap := rfl
@[simp] theorem onAdc_free (s : State) (n : Nat) (f : AdcSt → AdcSt) : (onAdc s n f).free = s.free := rfl
@[simp] theorem onAdc_pending (s : State) (n : Nat) (f : AdcSt → AdcSt) : (onAdc s n f).pending = s.pending := rfl

@[simp] theorem onDet_time (s : State) (x : Nat) (f : DetectorSt → DetectorSt) : (onDet s x f).time = s.time := rfl
@[simp] theorem onDet_host (s : State) (x : Nat) (f : DetectorSt → DetectorSt) : (onDet s x f).host = s.host := rfl
@[simp] theorem onDet_regs (s : State) (x : Nat) (f : DetectorSt → DetectorSt) : (onDet s x f).regs = s.regs := rfl
@[simp] theorem onDet_staged (s : State) (x : Nat) (f : DetectorSt → DetectorSt) : (onDet s x f).staged = s.staged := rfl
@[simp] theorem onDet_mem (s : State) (x : Nat) (f : DetectorSt → DetectorSt) : (onDet s x f).mem = s.mem := rfl
@[simp] theorem onDet_ecc (s : State) (x : Nat) (f : DetectorSt → DetectorSt) : (onDet s x f).ecc = s.ecc := rfl
@[simp] theorem onDet_memint (s : State) (x : Nat) (f : DetectorSt → DetectorSt) : (onDet s x f).memint = s.memint := rfl
@[simp] theorem onDet_gloss (s : State) (x : Nat) (f : DetectorSt → DetectorSt) : (onDet s x f).gloss = s.gloss := rfl
@[simp] theorem onDet_evt (s : State) (x : Nat) (f : DetectorSt → DetectorSt) : (onDet s x f).evt = s.evt := rfl
@[simp] theorem onDet_syns (s : State) (x : Nat) (f : DetectorSt → DetectorSt) : (onDet s x f).syns = s.syns := rfl
@[simp] theorem onDet_decls (s : State) (x : Nat) (f : DetectorSt → DetectorSt) : (onDet s x f).decls = s.decls := rfl
@[simp] theorem onDet_phrases (s : State) (x : Nat) (f : DetectorSt → DetectorSt) : (onDet s x f).phrases = s.phrases := rfl
@[simp] theorem onDet_alloc (s : State) (x : Nat) (f : DetectorSt → DetectorSt) : (onDet s x f).alloc = s.alloc := rfl
@[simp] theorem onDet_verbs (s : State) (x : Nat) (f : DetectorSt → DetectorSt) : (onDet s x f).verbs = s.verbs := rfl
@[simp] theorem onDet_parser (s : State) (x : Nat) (f : DetectorSt → DetectorSt) : (onDet s x f).parser = s.parser := rfl
@[simp] theorem onDet_ended (s : State) (x : Nat) (f : DetectorSt → DetectorSt) : (onDet s x f).ended = s.ended := rfl
@[simp] theorem onDet_boot (s : State) (x : Nat) (f : DetectorSt → DetectorSt) : (onDet s x f).boot = s.boot := rfl
@[simp] theorem onDet_tense (s : State) (x : Nat) (f : DetectorSt → DetectorSt) : (onDet s x f).tense = s.tense := rfl
@[simp] theorem onDet_timers (s : State) (x : Nat) (f : DetectorSt → DetectorSt) : (onDet s x f).timers = s.timers := rfl
@[simp] theorem onDet_pins (s : State) (x : Nat) (f : DetectorSt → DetectorSt) : (onDet s x f).pins = s.pins := rfl
@[simp] theorem onDet_power (s : State) (x : Nat) (f : DetectorSt → DetectorSt) : (onDet s x f).power = s.power := rfl
@[simp] theorem onDet_sp (s : State) (x : Nat) (f : DetectorSt → DetectorSt) : (onDet s x f).sp = s.sp := rfl
@[simp] theorem onDet_sys (s : State) (x : Nat) (f : DetectorSt → DetectorSt) : (onDet s x f).sys = s.sys := rfl
@[simp] theorem onDet_links (s : State) (x : Nat) (f : DetectorSt → DetectorSt) : (onDet s x f).links = s.links := rfl
@[simp] theorem onDet_dai (s : State) (x : Nat) (f : DetectorSt → DetectorSt) : (onDet s x f).dai = s.dai := rfl
@[simp] theorem onDet_flash (s : State) (x : Nat) (f : DetectorSt → DetectorSt) : (onDet s x f).flash = s.flash := rfl
@[simp] theorem onDet_nvm (s : State) (x : Nat) (f : DetectorSt → DetectorSt) : (onDet s x f).nvm = s.nvm := rfl
@[simp] theorem onDet_image (s : State) (x : Nat) (f : DetectorSt → DetectorSt) : (onDet s x f).image = s.image := rfl
@[simp] theorem onDet_fuse (s : State) (x : Nat) (f : DetectorSt → DetectorSt) : (onDet s x f).fuse = s.fuse := rfl
@[simp] theorem onDet_tap (s : State) (x : Nat) (f : DetectorSt → DetectorSt) : (onDet s x f).tap = s.tap := rfl
@[simp] theorem onDet_free (s : State) (x : Nat) (f : DetectorSt → DetectorSt) : (onDet s x f).free = s.free := rfl
@[simp] theorem onDet_pending (s : State) (x : Nat) (f : DetectorSt → DetectorSt) : (onDet s x f).pending = s.pending := rfl

@[simp] theorem onTense_time (s : State) (f : TenseSt → TenseSt) : (onTense s f).time = s.time := rfl
@[simp] theorem onTense_host (s : State) (f : TenseSt → TenseSt) : (onTense s f).host = s.host := rfl
@[simp] theorem onTense_regs (s : State) (f : TenseSt → TenseSt) : (onTense s f).regs = s.regs := rfl
@[simp] theorem onTense_staged (s : State) (f : TenseSt → TenseSt) : (onTense s f).staged = s.staged := rfl
@[simp] theorem onTense_mem (s : State) (f : TenseSt → TenseSt) : (onTense s f).mem = s.mem := rfl
@[simp] theorem onTense_ecc (s : State) (f : TenseSt → TenseSt) : (onTense s f).ecc = s.ecc := rfl
@[simp] theorem onTense_memint (s : State) (f : TenseSt → TenseSt) : (onTense s f).memint = s.memint := rfl
@[simp] theorem onTense_gloss (s : State) (f : TenseSt → TenseSt) : (onTense s f).gloss = s.gloss := rfl
@[simp] theorem onTense_evt (s : State) (f : TenseSt → TenseSt) : (onTense s f).evt = s.evt := rfl
@[simp] theorem onTense_syns (s : State) (f : TenseSt → TenseSt) : (onTense s f).syns = s.syns := rfl
@[simp] theorem onTense_decls (s : State) (f : TenseSt → TenseSt) : (onTense s f).decls = s.decls := rfl
@[simp] theorem onTense_phrases (s : State) (f : TenseSt → TenseSt) : (onTense s f).phrases = s.phrases := rfl
@[simp] theorem onTense_alloc (s : State) (f : TenseSt → TenseSt) : (onTense s f).alloc = s.alloc := rfl
@[simp] theorem onTense_verbs (s : State) (f : TenseSt → TenseSt) : (onTense s f).verbs = s.verbs := rfl
@[simp] theorem onTense_parser (s : State) (f : TenseSt → TenseSt) : (onTense s f).parser = s.parser := rfl
@[simp] theorem onTense_ended (s : State) (f : TenseSt → TenseSt) : (onTense s f).ended = s.ended := rfl
@[simp] theorem onTense_boot (s : State) (f : TenseSt → TenseSt) : (onTense s f).boot = s.boot := rfl
@[simp] theorem onTense_timers (s : State) (f : TenseSt → TenseSt) : (onTense s f).timers = s.timers := rfl
@[simp] theorem onTense_analog (s : State) (f : TenseSt → TenseSt) : (onTense s f).analog = s.analog := rfl
@[simp] theorem onTense_pins (s : State) (f : TenseSt → TenseSt) : (onTense s f).pins = s.pins := rfl
@[simp] theorem onTense_power (s : State) (f : TenseSt → TenseSt) : (onTense s f).power = s.power := rfl
@[simp] theorem onTense_sp (s : State) (f : TenseSt → TenseSt) : (onTense s f).sp = s.sp := rfl
@[simp] theorem onTense_sys (s : State) (f : TenseSt → TenseSt) : (onTense s f).sys = s.sys := rfl
@[simp] theorem onTense_links (s : State) (f : TenseSt → TenseSt) : (onTense s f).links = s.links := rfl
@[simp] theorem onTense_dai (s : State) (f : TenseSt → TenseSt) : (onTense s f).dai = s.dai := rfl
@[simp] theorem onTense_flash (s : State) (f : TenseSt → TenseSt) : (onTense s f).flash = s.flash := rfl
@[simp] theorem onTense_nvm (s : State) (f : TenseSt → TenseSt) : (onTense s f).nvm = s.nvm := rfl
@[simp] theorem onTense_image (s : State) (f : TenseSt → TenseSt) : (onTense s f).image = s.image := rfl
@[simp] theorem onTense_fuse (s : State) (f : TenseSt → TenseSt) : (onTense s f).fuse = s.fuse := rfl
@[simp] theorem onTense_tap (s : State) (f : TenseSt → TenseSt) : (onTense s f).tap = s.tap := rfl
@[simp] theorem onTense_free (s : State) (f : TenseSt → TenseSt) : (onTense s f).free = s.free := rfl
@[simp] theorem onTense_pending (s : State) (f : TenseSt → TenseSt) : (onTense s f).pending = s.pending := rfl

@[simp] theorem onGloss_time (s : State) (f : GlossSt → GlossSt) : (onGloss s f).time = s.time := rfl
@[simp] theorem onGloss_host (s : State) (f : GlossSt → GlossSt) : (onGloss s f).host = s.host := rfl
@[simp] theorem onGloss_regs (s : State) (f : GlossSt → GlossSt) : (onGloss s f).regs = s.regs := rfl
@[simp] theorem onGloss_staged (s : State) (f : GlossSt → GlossSt) : (onGloss s f).staged = s.staged := rfl
@[simp] theorem onGloss_mem (s : State) (f : GlossSt → GlossSt) : (onGloss s f).mem = s.mem := rfl
@[simp] theorem onGloss_ecc (s : State) (f : GlossSt → GlossSt) : (onGloss s f).ecc = s.ecc := rfl
@[simp] theorem onGloss_memint (s : State) (f : GlossSt → GlossSt) : (onGloss s f).memint = s.memint := rfl
@[simp] theorem onGloss_evt (s : State) (f : GlossSt → GlossSt) : (onGloss s f).evt = s.evt := rfl
@[simp] theorem onGloss_syns (s : State) (f : GlossSt → GlossSt) : (onGloss s f).syns = s.syns := rfl
@[simp] theorem onGloss_decls (s : State) (f : GlossSt → GlossSt) : (onGloss s f).decls = s.decls := rfl
@[simp] theorem onGloss_phrases (s : State) (f : GlossSt → GlossSt) : (onGloss s f).phrases = s.phrases := rfl
@[simp] theorem onGloss_alloc (s : State) (f : GlossSt → GlossSt) : (onGloss s f).alloc = s.alloc := rfl
@[simp] theorem onGloss_verbs (s : State) (f : GlossSt → GlossSt) : (onGloss s f).verbs = s.verbs := rfl
@[simp] theorem onGloss_parser (s : State) (f : GlossSt → GlossSt) : (onGloss s f).parser = s.parser := rfl
@[simp] theorem onGloss_ended (s : State) (f : GlossSt → GlossSt) : (onGloss s f).ended = s.ended := rfl
@[simp] theorem onGloss_boot (s : State) (f : GlossSt → GlossSt) : (onGloss s f).boot = s.boot := rfl
@[simp] theorem onGloss_tense (s : State) (f : GlossSt → GlossSt) : (onGloss s f).tense = s.tense := rfl
@[simp] theorem onGloss_timers (s : State) (f : GlossSt → GlossSt) : (onGloss s f).timers = s.timers := rfl
@[simp] theorem onGloss_analog (s : State) (f : GlossSt → GlossSt) : (onGloss s f).analog = s.analog := rfl
@[simp] theorem onGloss_pins (s : State) (f : GlossSt → GlossSt) : (onGloss s f).pins = s.pins := rfl
@[simp] theorem onGloss_power (s : State) (f : GlossSt → GlossSt) : (onGloss s f).power = s.power := rfl
@[simp] theorem onGloss_sp (s : State) (f : GlossSt → GlossSt) : (onGloss s f).sp = s.sp := rfl
@[simp] theorem onGloss_sys (s : State) (f : GlossSt → GlossSt) : (onGloss s f).sys = s.sys := rfl
@[simp] theorem onGloss_links (s : State) (f : GlossSt → GlossSt) : (onGloss s f).links = s.links := rfl
@[simp] theorem onGloss_dai (s : State) (f : GlossSt → GlossSt) : (onGloss s f).dai = s.dai := rfl
@[simp] theorem onGloss_flash (s : State) (f : GlossSt → GlossSt) : (onGloss s f).flash = s.flash := rfl
@[simp] theorem onGloss_nvm (s : State) (f : GlossSt → GlossSt) : (onGloss s f).nvm = s.nvm := rfl
@[simp] theorem onGloss_image (s : State) (f : GlossSt → GlossSt) : (onGloss s f).image = s.image := rfl
@[simp] theorem onGloss_fuse (s : State) (f : GlossSt → GlossSt) : (onGloss s f).fuse = s.fuse := rfl
@[simp] theorem onGloss_tap (s : State) (f : GlossSt → GlossSt) : (onGloss s f).tap = s.tap := rfl
@[simp] theorem onGloss_free (s : State) (f : GlossSt → GlossSt) : (onGloss s f).free = s.free := rfl
@[simp] theorem onGloss_pending (s : State) (f : GlossSt → GlossSt) : (onGloss s f).pending = s.pending := rfl

variable {ps : List Part} {rs : List Nat} {s t : State}

theorem touches_time (h : Touches ps rs s t) (x) (hp : Part.time ∈ Part.regs :: ps) : Touches ps rs s { t with time := x } :=
  touches_lit h (by constructor <;> intro hq <;> first | rfl | exact absurd hp hq) rfl
theorem touches_host (h : Touches ps rs s t) (x) (hp : Part.host ∈ Part.regs :: ps) : Touches ps rs s { t with host := x } :=
  touches_lit h (by constructor <;> intro hq <;> first | rfl | exact absurd hp hq) rfl
theorem touches_staged (h : Touches ps rs s t) (x) (hp : Part.staged ∈ Part.regs :: ps) : Touches ps rs s { t with staged := x } :=
  touches_lit h (by constructor <;> intro hq <;> first | rfl | exact absurd hp hq) rfl
theorem touches_mem (h : Touches ps rs s t) (x) (hp : Part.mem ∈ Part.regs :: ps) : Touches ps rs s { t with mem := x } :=
  touches_lit h (by constructor <;> intro hq <;> first | rfl | exact absurd hp hq) rfl
theorem touches_ecc (h : Touches ps rs s t) (x) (hp : Part.ecc ∈ Part.regs :: ps) : Touches ps rs s { t with ecc := x } :=
  touches_lit h (by constructor <;> intro hq <;> first | rfl | exact absurd hp hq) rfl
theorem touches_memint (h : Touches ps rs s t) (x) (hp : Part.memint ∈ Part.regs :: ps) : Touches ps rs s { t with memint := x } :=
  touches_lit h (by constructor <;> intro hq <;> first | rfl | exact absurd hp hq) rfl
theorem touches_evt (h : Touches ps rs s t) (x) (hp : Part.evt ∈ Part.regs :: ps) : Touches ps rs s { t with evt := x } :=
  touches_lit h (by constructor <;> intro hq <;> first | rfl | exact absurd hp hq) rfl
theorem touches_syns (h : Touches ps rs s t) (x) (hp : Part.syns ∈ Part.regs :: ps) : Touches ps rs s { t with syns := x } :=
  touches_lit h (by constructor <;> intro hq <;> first | rfl | exact absurd hp hq) rfl
theorem touches_decls (h : Touches ps rs s t) (x) (hp : Part.decls ∈ Part.regs :: ps) : Touches ps rs s { t with decls := x } :=
  touches_lit h (by constructor <;> intro hq <;> first | rfl | exact absurd hp hq) rfl
theorem touches_phrases (h : Touches ps rs s t) (x) (hp : Part.phrases ∈ Part.regs :: ps) : Touches ps rs s { t with phrases := x } :=
  touches_lit h (by constructor <;> intro hq <;> first | rfl | exact absurd hp hq) rfl
theorem touches_alloc (h : Touches ps rs s t) (x) (hp : Part.alloc ∈ Part.regs :: ps) : Touches ps rs s { t with alloc := x } :=
  touches_lit h (by constructor <;> intro hq <;> first | rfl | exact absurd hp hq) rfl
theorem touches_verbs (h : Touches ps rs s t) (x) (hp : Part.verbs ∈ Part.regs :: ps) : Touches ps rs s { t with verbs := x } :=
  touches_lit h (by constructor <;> intro hq <;> first | rfl | exact absurd hp hq) rfl
theorem touches_parser (h : Touches ps rs s t) (x) (hp : Part.parser ∈ Part.regs :: ps) : Touches ps rs s { t with parser := x } :=
  touches_lit h (by constructor <;> intro hq <;> first | rfl | exact absurd hp hq) rfl
theorem touches_ended (h : Touches ps rs s t) (x) (hp : Part.ended ∈ Part.regs :: ps) : Touches ps rs s { t with ended := x } :=
  touches_lit h (by constructor <;> intro hq <;> first | rfl | exact absurd hp hq) rfl
theorem touches_boot (h : Touches ps rs s t) (x) (hp : Part.boot ∈ Part.regs :: ps) : Touches ps rs s { t with boot := x } :=
  touches_lit h (by constructor <;> intro hq <;> first | rfl | exact absurd hp hq) rfl
theorem touches_tense (h : Touches ps rs s t) (x) (hp : Part.tense ∈ Part.regs :: ps) : Touches ps rs s { t with tense := x } :=
  touches_lit h (by constructor <;> intro hq <;> first | rfl | exact absurd hp hq) rfl
theorem touches_timers (h : Touches ps rs s t) (x) (hp : Part.timers ∈ Part.regs :: ps) : Touches ps rs s { t with timers := x } :=
  touches_lit h (by constructor <;> intro hq <;> first | rfl | exact absurd hp hq) rfl
theorem touches_analog (h : Touches ps rs s t) (x) (hp : Part.analog ∈ Part.regs :: ps) : Touches ps rs s { t with analog := x } :=
  touches_lit h (by constructor <;> intro hq <;> first | rfl | exact absurd hp hq) rfl
theorem touches_pins (h : Touches ps rs s t) (x) (hp : Part.pins ∈ Part.regs :: ps) : Touches ps rs s { t with pins := x } :=
  touches_lit h (by constructor <;> intro hq <;> first | rfl | exact absurd hp hq) rfl
theorem touches_power (h : Touches ps rs s t) (x) (hp : Part.power ∈ Part.regs :: ps) : Touches ps rs s { t with power := x } :=
  touches_lit h (by constructor <;> intro hq <;> first | rfl | exact absurd hp hq) rfl
theorem touches_sp (h : Touches ps rs s t) (x) (hp : Part.sp ∈ Part.regs :: ps) : Touches ps rs s { t with sp := x } :=
  touches_lit h (by constructor <;> intro hq <;> first | rfl | exact absurd hp hq) rfl
theorem touches_sys (h : Touches ps rs s t) (x) (hp : Part.sys ∈ Part.regs :: ps) : Touches ps rs s { t with sys := x } :=
  touches_lit h (by constructor <;> intro hq <;> first | rfl | exact absurd hp hq) rfl
theorem touches_links (h : Touches ps rs s t) (x) (hp : Part.links ∈ Part.regs :: ps) : Touches ps rs s { t with links := x } :=
  touches_lit h (by constructor <;> intro hq <;> first | rfl | exact absurd hp hq) rfl
theorem touches_dai (h : Touches ps rs s t) (x) (hp : Part.dai ∈ Part.regs :: ps) : Touches ps rs s { t with dai := x } :=
  touches_lit h (by constructor <;> intro hq <;> first | rfl | exact absurd hp hq) rfl
theorem touches_flash (h : Touches ps rs s t) (x) (hp : Part.flash ∈ Part.regs :: ps) : Touches ps rs s { t with flash := x } :=
  touches_lit h (by constructor <;> intro hq <;> first | rfl | exact absurd hp hq) rfl
theorem touches_nvm (h : Touches ps rs s t) (x) (hp : Part.nvm ∈ Part.regs :: ps) : Touches ps rs s { t with nvm := x } :=
  touches_lit h (by constructor <;> intro hq <;> first | rfl | exact absurd hp hq) rfl
theorem touches_image (h : Touches ps rs s t) (x) (hp : Part.image ∈ Part.regs :: ps) : Touches ps rs s { t with image := x } :=
  touches_lit h (by constructor <;> intro hq <;> first | rfl | exact absurd hp hq) rfl
theorem touches_fuse (h : Touches ps rs s t) (x) (hp : Part.fuse ∈ Part.regs :: ps) : Touches ps rs s { t with fuse := x } :=
  touches_lit h (by constructor <;> intro hq <;> first | rfl | exact absurd hp hq) rfl
theorem touches_tap (h : Touches ps rs s t) (x) (hp : Part.tap ∈ Part.regs :: ps) : Touches ps rs s { t with tap := x } :=
  touches_lit h (by constructor <;> intro hq <;> first | rfl | exact absurd hp hq) rfl
theorem touches_free (h : Touches ps rs s t) (x) (hp : Part.free ∈ Part.regs :: ps) : Touches ps rs s { t with free := x } :=
  touches_lit h (by constructor <;> intro hq <;> first | rfl | exact absurd hp hq) rfl
theorem touches_pending (h : Touches ps rs s t) (x) (hp : Part.pending ∈ Part.regs :: ps) : Touches ps rs s { t with pending := x } :=
  touches_lit h (by constructor <;> intro hq <;> first | rfl | exact absurd hp hq) rfl

/-! ### Reading a register after an update -/

theorem rd_wr_if (s : State) (a b : Nat) (v : Word) : rd (wr s a v) b = if b = a then v else rd s b := by
  split
  · rename_i h
    rw [h, rd_wr]
  · rename_i h
    exact rd_wr_ne _ _ _ _ h

/-- A register of a state is read from its register list alone. -/
theorem rd_congr {s t : State} (h : s.regs = t.regs) (a : Nat) : rd s a = rd t a := by
  unfold rd
  rw [h]

theorem rd_raiseGloss (s : State) (c : Nat) (d0 d1 d2 : Word) (a : Nat) (h : a ∉ glossRegs) : rd (raiseGloss s c d0 d1 d2) a = rd s a :=
  (touches_raiseGloss (ps := [.gloss]) (rs := glossRegs) touches_rfl c d0 d1 d2 (by simp) (fun _ h => h)).regs a h

theorem rd_countUp_ne (s : State) (a b : Nat) (h : b ≠ a) : rd (countUp s a) b = rd s b :=
  (touches_countUp (ps := []) (rs := [a]) touches_rfl (by simp)).regs b (by simpa using h)

theorem rd_refuse_ne (s : State) (a b : Nat) (e : Bool) (h : b ≠ pageOf a + 0xFFFC) : rd (refuse s a e) b = rd s b :=
  (touches_refuse (ps := [.host]) (rs := [pageOf a + 0xFFFC]) touches_rfl e (by simp) (by simp)).regs b (by simpa using h)

theorem flag_setFlag (s : State) (a i : Nat) (h : i < 32) : flag (setFlag s a i) a i = true := by
  unfold flag setFlag wrFld
  rw [rd_wr, bitOf_setBits _ _ _ h]
  rfl

theorem flag_clrFlag (s : State) (a i : Nat) (h : i < 32) : flag (clrFlag s a i) a i = false := by
  unfold flag clrFlag wrFld
  rw [rd_wr, bitOf_setBits _ _ _ h]
  rfl

theorem fld_wrFld (s : State) (a hi lo x : Nat) (h : lo ≤ hi) (hh : hi < 32) : fld (wrFld s a hi lo x) a hi lo = x % 2 ^ (hi - lo + 1) := by
  unfold fld wrFld
  rw [rd_wr, bits_setBits _ _ _ _ h hh]

end Sys2Proof.Laws
end

