-- ==== Sys2Proof/Laws/Issue.lean ====
section
/-! SUPPORT. What the issue of one Verb instruction comes to where nothing is waited for and nothing faults. -/

namespace Sys2Proof.Laws
open Sys2Proof.Machine

variable {s t : State} {v : Fin 16} {w : WordFrame} {i : VInstr}

theorem setCur_cur (x : VerbSt) (b : VerbBank) : (x.setCur b).cur = b := by
  unfold VerbSt.setCur VerbSt.cur
  split <;> simp_all

theorem setCur_setCur (x : VerbSt) (b c : VerbBank) : (x.setCur b).setCur c = x.setCur c := by
  unfold VerbSt.setCur
  split <;> simp_all

theorem setCur_self (x : VerbSt) : x.setCur x.cur = x := by
  unfold VerbSt.setCur VerbSt.cur
  split <;> rfl

theorem setCur_useB (x : VerbSt) (b : VerbBank) : (x.setCur b).useB = x.useB := by
  unfold VerbSt.setCur
  split <;> rfl

theorem setCur_bpSkip (x : VerbSt) (b : VerbBank) (f : Bool) :
    ({ x.setCur b with bpSkip := f } : VerbSt) = ({ x with bpSkip := f } : VerbSt).setCur b := by
  unfold VerbSt.setCur
  dsimp only
  split <;> rfl

theorem setCur_mixq (x : VerbSt) (b : VerbBank) (q : List MixItem) :
    ({ x.setCur b with mixq := q } : VerbSt) = ({ x with mixq := q } : VerbSt).setCur b := by
  unfold VerbSt.setCur
  dsimp only
  split <;> rfl

theorem cur_bpSkip (x : VerbSt) (f : Bool) : ({ x with bpSkip := f } : VerbSt).cur = x.cur := by
  unfold VerbSt.cur
  rfl

theorem cur_mixq (x : VerbSt) (q : List MixItem) : ({ x with mixq := q } : VerbSt).cur = x.cur := by
  unfold VerbSt.cur
  rfl

theorem nth_modify {α : Type} (l : List α) (i : Nat) (f : α → α) (d : α) (h : i < l.length) : nth (l.modify i f) i d = f (nth l i d) := by
  unfold nth
  simp [List.getD_eq_getElem?_getD, List.getElem?_eq_getElem h]

theorem nth_modify_ne {α : Type} (l : List α) (i j : Nat) (f : α → α) (d : α) (h : j ≠ i) : nth (l.modify i f) j d = nth l j d := by
  unfold nth
  simp [List.getD_eq_getElem?_getD, Ne.symm h]

theorem modify_self {α : Type} (l : List α) (i : Nat) (f : α → α) (d : α) (h : f (nth l i d) = nth l i d) : l.modify i f = l := by
  apply List.ext_getElem?
  intro k
  rw [List.getElem?_modify]
  by_cases e : i = k
  · subst e
    rcases hk : l[i]? with _ | x
    · simp
    · have : nth l i d = x := by unfold nth; simp [List.getD_eq_getElem?_getD, hk]
      rw [this] at h
      simp [h]
  · simp [e]

theorem verbOf_onVerb {u : Nat} (f : VerbSt → VerbSt) (h : u < s.verbs.length) : verbOf (onVerb s u f) u = f (verbOf s u) :=
  nth_modify _ _ _ _ h

theorem verbOf_onVerb_ne {u k : Nat} (f : VerbSt → VerbSt) (h : k ≠ u) : verbOf (onVerb s u f) k = verbOf s k :=
  nth_modify_ne _ _ _ _ _ h

theorem onVerb_onVerb (u : Nat) (f g : VerbSt → VerbSt) : onVerb (onVerb s u f) u g = onVerb s u (g ∘ f) := by
  unfold onVerb
  simp only
  congr 1
  apply List.ext_getElem?
  intro k
  simp only [List.getElem?_modify]
  split <;> simp [Function.comp_def, Option.map_map]

theorem setBank_self (u : Nat) : setBank s u (bankOfVerb s u) = s := by
  unfold setBank onVerb
  rw [modify_self _ _ _ {}]
  show (verbOf s u).setCur (bankOfVerb s u) = verbOf s u
  exact setCur_self _

theorem bankOfVerb_setBank {u : Nat} (b : VerbBank) (h : u < s.verbs.length) : bankOfVerb (setBank s u b) u = b := by
  unfold bankOfVerb setBank
  rw [verbOf_onVerb _ h, setCur_cur]

theorem setBank_setBank (u : Nat) (b c : VerbBank) : setBank (setBank s u b) u c = setBank s u c := by
  unfold setBank
  rw [onVerb_onVerb]
  congr 1
  funext x
  exact setCur_setCur _ _ _

/-! ### The count and the record of producers do not steer the program counter -/

theorem passBody_with (k n : Nat) (made : List Produced) (b : VerbBank) :
    passBody k { b with cycles := n, produced := made } = { passBody k b with cycles := n, produced := made } := by
  induction k generalizing b with
  | zero => rfl
  | succ k ih =>
    unfold passBody
    dsimp only
    split
    · split
      · split
        · rfl
        · rename_i r rs _ _ _
          exact ih { b with lc := b.lc.set r.counter (nth b.lc r.counter 0 - 1), reps := rs }
      · rfl
    · rfl

theorem advance_with (n : Nat) (made : List Produced) (b : VerbBank) :
    advance { b with cycles := n, produced := made } =
      ({ (advance b).1 with cycles := n, produced := made }, (advance b).2) := by
  unfold advance
  dsimp only
  split
  · rw [passBody_with]
  · rw [passBody_with]
  · rfl
  · rfl
  · exact congrArg (·, false) (passBody_with 5 n made { b with delay := none })

theorem startDelay_with (n : Nat) (made : List Produced) (b : VerbBank) (d : Delay) :
    startDelay { b with cycles := n, produced := made } d = { startDelay b d with cycles := n, produced := made } := by
  unfold startDelay
  rw [passBody_with]

/-! ### Nothing is waited for -/

theorem awaitUnits_none (b : VerbBank) (rs : List Nat) (t : Nat)
    (h : ∀ u ∈ b.units, ∀ k, k < u.vals.length → u.dst + k ∉ rs) : awaitUnits b rs t = (b, t) := by
  unfold awaitUnits
  suffices g : ∀ (l : List UnitResult), (∀ u ∈ l, ∀ k, k < u.vals.length → u.dst + k ∉ rs) →
      l.foldl (fun (acc : VerbBank × Nat) u =>
        if (List.range u.vals.length).any fun i => rs.contains (u.dst + i) then (deliverUnit acc.1 u, max acc.2 (u.issued + 6)) else acc) (b, t) = (b, t) by
    exact g _ h
  intro l
  induction l with
  | nil => intro _; rfl
  | cons u l ih =>
    intro hl
    have hu : ((List.range u.vals.length).any fun i => rs.contains (u.dst + i)) = false := by
      rw [List.any_eq_false]
      intro k hk
      have := hl u List.mem_cons_self k (List.mem_range.mp hk)
      simpa using this
    rw [List.foldl_cons, hu]
    exact ih fun x hx => hl x (List.mem_cons_of_mem _ hx)

theorem awaitLoads_none (u : Nat) (rs : List Nat) (n t : Nat)
    (h : ∀ l ∈ (bankOfVerb s u).loads, ∀ r ∈ l.res, r ∉ rs) : awaitLoads u rs n s t = (s, t) := by
  have hb : ((bankOfVerb s u).loads.any fun l => l.res.any rs.contains) = false := by
    rw [List.any_eq_false]
    intro l hl
    have := h l hl
    simpa using this
  cases n with
  | zero => rfl
  | succ n =>
    unfold awaitLoads
    split
    · rfl
    · rw [hb]; rfl

theorem moves_le : b2n b ≤ 1 := by cases b <;> decide

theorem awaitRoom_none (u : Nat) (n t : Nat) (h : (bankOfVerb s u).loads.length + n ≤ 8) : awaitRoom s u n t = (s, t) := by
  unfold awaitRoom
  split
  · rw [if_neg (by omega)]
  · rfl

theorem awaitMix_none (u n t : Nat) (h : n ≠ 0 → (verbOf s u).mixq.length + n ≤ 32) : awaitMix s u n t = (s, t) := by
  unfold awaitMix
  dsimp only
  rw [if_pos (by omega)]

theorem readyAt_ge (b : VerbBank) (reads : List (Nat × Use)) (t : Nat) : t ≤ readyAt b reads t := by
  unfold readyAt
  generalize b.produced = ps
  induction ps generalizing t with
  | nil => exact Nat.le_refl _
  | cons p ps ih =>
    rw [List.foldl_cons]
    refine Nat.le_trans ?_ (ih _)
    generalize reads = rs
    induction rs generalizing t with
    | nil => exact Nat.le_refl _
    | cons r rs ih2 =>
      rw [List.foldl_cons]
      refine Nat.le_trans ?_ (ih2 _)
      split
      · exact Nat.le_max_left _ _
      · exact Nat.le_refl _

theorem overCheck_within {u : Nat} (hw : (bankOfVerb s u).wf = some w) (h : (bankOfVerb s u).cycles ≤ w.cost) : overCheck s u = s := by
  unfold overCheck overCheckAt bankAt
  simp [hw, h]

theorem watchdogDue_within {u : Nat} (hw : (bankOfVerb s u).wf = some w) (h : (bankOfVerb s u).cycles ≤ w.cost) : watchdogDue s u = false := by
  unfold watchdogDue
  rw [hw]
  simp
  omega

theorem catchUp_done (h : StepsDone s) : catchUp s = s := by
  unfold catchUp
  by_cases hr : s.time.rendering = true
  · obtain ⟨h1, h2⟩ := h hr
    have e1 : tryStepOne s = s := by
      unfold tryStepOne
      simp only [h1, h2]
      rw [if_neg]
      simp only [Bool.and_eq_true, decide_eq_true_eq]
      omega
    have e2 : tryStepTwo s = s := by
      unfold tryStepTwo
      simp [h1, h2]
    rw [e1, e2, e1, e2]
    simp
  · simp [hr]

/-! ### Issue -/

/-- The state in which an instruction issues: the breakpoint is behind it. -/
abbrev unskipped (s : State) (v : Nat) : State := onVerb s v fun x => { x with bpSkip := false }

theorem verbOf_unskipped (h : v.val < s.verbs.length) : verbOf (unskipped s v) v = { verbOf s v with bpSkip := false } :=
  verbOf_onVerb _ h

theorem bankOfVerb_unskipped (h : v.val < s.verbs.length) : bankOfVerb (unskipped s v) v = bankOfVerb s v := by
  unfold bankOfVerb
  rw [verbOf_unskipped h, cur_bpSkip]

theorem instrFault_unskipped (h : v.val < s.verbs.length) (b : VerbBank) :
    instrFault (unskipped s v) v b w i = instrFault s v b w i := by
  have e : (verbOf (unskipped s v) v).useB = (verbOf s v).useB := by rw [verbOf_unskipped h]
  unfold instrFault
  rw [e]
  rfl

/-- What a loaded register of a move does to a bank. -/
def loadInto (b : VerbBank) (l : Option Loaded) : VerbBank :=
  match l with
  | some l => (b.loadReg l.reg l.size l.val l.bad).arrived (resOfMoveReg l.reg)
  | none => b

/-- A running Verb that nothing stops issues the instruction. -/
theorem runInstr_issue (h : Issues s v w i) : runInstr s v i = catchUp (issueAlways (unskipped s v) v i) := by
  have hv : v.val < s.verbs.length := by rw [h.verbs]; exact v.isLt
  unfold runInstr
  rw [h.running, h.halted, h.bp]
  simp only [Bool.not_true, Bool.or_self, Bool.false_eq_true, if_false]
  unfold issue
  rw [show (onVerb s v fun x => { x with bpSkip := false }) = unskipped s v from rfl, verbOf_unskipped hv]
  have hw : (bankOfVerb (unskipped s v) v).wf = some w := by rw [bankOfVerb_unskipped hv, h.frame]
  have hc : (bankOfVerb (unskipped s v) v).cycles ≤ w.cost := by
    rw [bankOfVerb_unskipped hv]
    exact Nat.le_trans (readyAt_ge _ _ _) h.count
  simp only [h.running, h.halted]
  rw [overCheck_within hw hc, watchdogDue_within hw hc]
  simp

/-- The state after the moves and the operation part, with the cycles these add: the loaded registers of the two moves. -/
def moved (s : State) (v : Nat) (b : VerbBank) (i : VInstr) (t : Nat) : State × Option Loaded × Option Loaded × Nat :=
  let x := doMove s v b i.moves.1 t
  let y := doMove x.1 v b i.moves.2 t
  let o := operate y.1 v b i t
  (o.1, x.2.1, y.2.1, x.2.2 + y.2.2 + moveConflict b i.moves.1 i.moves.2 + o.2)

/-- The state in which an instruction takes effect at cycle n: the breakpoint is behind it, and the count has reached its issue. -/
abbrev ready (s : State) (v : Nat) (n : Nat) : State := spend (unskipped s v) v n

theorem bankOfVerb_ready (h : v.val < s.verbs.length) (n : Nat) : bankOfVerb (ready s v n) v = { bankOfVerb s v with cycles := n } := by
  have hu : v.val < (unskipped s v).verbs.length := by simpa [onVerb] using h
  show bankOfVerb (setBank (unskipped s v) v _) v = _
  rw [bankOfVerb_setBank _ hu, bankOfVerb_unskipped h]

theorem setBank_ready (b : VerbBank) (n : Nat) : setBank (ready s v n) v b = setBank (unskipped s v) v b := setBank_setBank _ _ _

theorem instrFault_ready (h : v.val < s.verbs.length) (b : VerbBank) (n : Nat) :
    instrFault (ready s v n) v b w i = instrFault s v b w i := by
  have hu : v.val < (unskipped s v).verbs.length := by simpa [onVerb] using h
  rw [← instrFault_unskipped h b]
  have e : (verbOf (ready s v n) v).useB = (verbOf (unskipped s v) v).useB := by
    show (verbOf (onVerb (unskipped s v) v _) v).useB = _
    rw [verbOf_onVerb _ hu, setCur_useB]
  unfold instrFault
  rw [e]
  rfl

theorem issueAlways_eq (h : Issues s v w i) (hs : tipStalls (bankOfVerb s v) i = false)
    (ht : ∀ t, awaitTable (unskipped s v) v i t = (unskipped s v, t))
    (hk : ∀ n, poisonedPacket (ready s v n) v w (bankOfVerb s v) i = none) :
    ∃ n, (bankOfVerb s v).cycles ≤ n ∧ n ≤ w.cost ∧
      let r := moved (ready s v n) v (bankOfVerb s v) i n
      let b := ((loadInto (loadInto (bankOfVerb r.1 v) r.2.1) r.2.2.1).postModify (bankOfVerb s v) i.moves.1).postModify (bankOfVerb s v) i.moves.2
      let f := flow (bankOfVerb s v) b i
      let u := setBank r.1 v { f.1 with cycles := n + 1 + r.2.2.2 + f.2.1 }
      issueAlways (unskipped s v) v i = if f.2.2 then exitFrame u v else u := by
  have hv : v.val < s.verbs.length := by rw [h.verbs]; exact v.isLt
  have hb := bankOfVerb_unskipped (s := s) hv
  refine ⟨readyAt (bankOfVerb s v) i.reads (bankOfVerb s v).cycles, readyAt_ge _ _ _, h.count, ?_⟩
  unfold issueAlways
  rw [hb]
  simp only [h.frame, awaitUnits_none _ _ _ h.units]
  rw [show setBank (unskipped s v) v (bankOfVerb s v) = unskipped s v from by rw [← hb]; exact setBank_self _]
  have hl : ∀ l ∈ (bankOfVerb (unskipped s v) v).loads, ∀ r ∈ l.res, r ∉ i.reads.map (·.1) ++ i.writes := by rw [hb]; exact h.loads
  simp only [awaitLoads_none _ _ _ _ hl, hb, hs]
  have hr : ∀ a c : Bool, ∀ t, awaitRoom (unskipped s v) v (b2n a + b2n c) t = (unskipped s v, t) := by
    intro a c t
    refine awaitRoom_none _ _ _ ?_
    rw [hb]
    have := h.room
    have := @moves_le a
    have := @moves_le c
    omega
  have hp : (i.reads.any fun r => (bankOfVerb s v).poison.contains r.1) = false := by
    rw [List.any_eq_false]
    intro r hr
    have := h.poison r hr
    simpa using this
  have hm : ∀ t, awaitMix (unskipped s v) v (mixEntries (bankOfVerb s v) i) t = (unskipped s v, t) := fun t =>
    awaitMix_none _ _ _ (by rw [verbOf_unskipped hv]; exact h.mix)
  simp only [hr, ht, hb, hm, h.frame, Bool.false_eq_true, if_false]
  generalize hn : readyAt (bankOfVerb s v) i.reads (bankOfVerb s v).cycles = n
  have hc : n ≤ w.cost := hn ▸ h.count
  have hw : (bankOfVerb (spend (unskipped s v) v n) v).wf = some w := by rw [bankOfVerb_ready hv]; exact h.frame
  have hi : (bankOfVerb (spend (unskipped s v) v n) v).cycles ≤ w.cost := by rw [bankOfVerb_ready hv]; exact hc
  simp only [overCheck_within hw hi, watchdogDue_within hw hi, instrFault_ready hv, h.fault, hk, hp, Bool.false_eq_true, if_false]
  unfold moved loadInto
  have e : ∀ a b c d e f : Nat, a + 1 + b + c + d + e + f = a + 1 + (b + c + d + e) + f := by intros; omega
  simp only [e]
  try rfl

/-! ### One instruction, issued -/

theorem doMove_none (s : State) (v : Nat) (b : VerbBank) (m : MoveField) (t : Nat) (h : mvActive m = false) :
    doMove s v b m t = (s, none, 0) := by
  unfold doMove
  rw [h]
  rfl

theorem postModify_none (b b0 : VerbBank) (m : MoveField) (h : mvActive m = false) : b.postModify b0 m = b := by
  have : m.mode = 0 := by simpa [mvActive] using h
  unfold VerbBank.postModify mvPost
  rw [this]
  rfl

theorem onVerb_congr {u : Nat} {f g : VerbSt → VerbSt} (h : u < s.verbs.length) (e : f (verbOf s u) = g (verbOf s u)) :
    onVerb s u f = onVerb s u g := by
  unfold onVerb
  congr 1
  apply List.ext_getElem?
  intro k
  simp only [List.getElem?_modify]
  by_cases hk : u = k
  · subst hk
    have hx : verbOf s u = s.verbs[u] := by unfold verbOf nth; simp [List.getD_eq_getElem?_getD, List.getElem?_eq_getElem h]
    rw [List.getElem?_eq_getElem h]
    simp [← hx, e]
  · simp [hk]

theorem touches_onVerb {ps : List Part} {rs : List Nat} {s0 : State} (h : Touches ps rs s0 s) (u : Nat) (f : VerbSt → VerbSt)
    (hp : Part.verbs ∈ Part.regs :: ps) : Touches ps rs s0 (onVerb s u f) := touches_verbs h _ hp

/-- Only Verb v differs: its bank in use is b, its mix queue q. -/
theorem issued_of {b : VerbBank} {q : List MixItem} (h : Issues s v w i) (n : Nat) (made : List Produced)
    (hn : (bankOfVerb s v).cycles < n) :
    Issued [] s (onVerb s v fun x => { x.setCur { b with cycles := n, produced := made } with bpSkip := false, mixq := q }) v b q := by
  have hv : v.val < s.verbs.length := by rw [h.verbs]; exact v.isLt
  have hb : bankOfVerb (onVerb s v fun x => { x.setCur { b with cycles := n, produced := made } with bpSkip := false, mixq := q }) v
      = { b with cycles := n, produced := made } := by
    unfold bankOfVerb
    rw [verbOf_onVerb _ hv]
    exact setCur_cur (verbOf s v) { b with cycles := n, produced := made }
  refine ⟨⟨n, made, hn, hb⟩, ?_, fun u hu => verbOf_onVerb_ne _ hu, touches_onVerb touches_rfl _ _ (by simp)⟩
  rw [hb, verbOf_onVerb _ hv]

theorem stepsDone_onVerb (u : Nat) (f : VerbSt → VerbSt) (h : StepsDone s) : StepsDone (onVerb s u f) := h

/-- An instruction without moves whose operation part leaves bank b' and mix queue q, and after which the bank is f,
whatever the cycle n at which it issues. -/
theorem issued_still {b' f : Nat → VerbBank} {q : List MixItem} (h : Issues s v w i) (hs : tipStalls (bankOfVerb s v) i = false)
    (ht : ∀ t, awaitTable (unskipped s v) v i t = (unskipped s v, t)) (m1 : mvActive i.moves.1 = false) (m2 : mvActive i.moves.2 = false)
    (hk : ∀ n, poisonedPacket (ready s v n) v w (bankOfVerb s v) i = none)
    (ho : ∀ n, ∃ made c k, operate (ready s v n) v (bankOfVerb s v) i n =
      (onVerb (unskipped s v) v fun x => { x.setCur { b' n with cycles := k, produced := made } with mixq := q }, c))
    (hf : ∀ n k made, ∃ extra, flow (bankOfVerb s v) { b' n with cycles := k, produced := made } i =
      ({ f n with cycles := k, produced := made }, extra, false)) :
    ∃ n t, (bankOfVerb s v).cycles ≤ n ∧ runInstr s v i = t ∧ Issued [] s t v (f n) q := by
  have hv : v.val < s.verbs.length := by rw [h.verbs]; exact v.isLt
  obtain ⟨n, hn, _, e⟩ := issueAlways_eq h hs ht hk
  obtain ⟨made, c, k, ho⟩ := ho n
  obtain ⟨extra, hf⟩ := hf n k made
  have hm : moved (ready s v n) v (bankOfVerb s v) i n = (onVerb (unskipped s v) v fun x => { x.setCur { b' n with cycles := k, produced := made } with mixq := q }, none, none,
      0 + 0 + moveConflict (bankOfVerb s v) i.moves.1 i.moves.2 + c) := by
    unfold moved
    simp only [doMove_none _ _ _ _ _ m1, doMove_none _ _ _ _ _ m2, ho]
  simp only [hm, loadInto, postModify_none _ _ _ m1, postModify_none _ _ _ m2] at e
  have hb : bankOfVerb (onVerb (unskipped s v) v fun x => { x.setCur { b' n with cycles := k, produced := made } with mixq := q }) v
      = { b' n with cycles := k, produced := made } := by
    have hv' : v.val < (unskipped s v).verbs.length := by simpa [onVerb] using hv
    unfold bankOfVerb
    rw [verbOf_onVerb _ hv', cur_mixq, setCur_cur]
  rw [hb, hf] at e
  simp only [Bool.false_eq_true, if_false] at e
  refine ⟨n, _, hn, rfl, ?_⟩
  rw [runInstr_issue h, e]
  have key : ∀ N, setBank (onVerb (unskipped s v) v fun x => { x.setCur { b' n with cycles := k, produced := made } with mixq := q }) v
      { f n with cycles := N, produced := made } =
      onVerb s v fun x => { x.setCur { f n with cycles := N, produced := made } with bpSkip := false, mixq := q } := by
    intro N
    unfold setBank
    rw [onVerb_onVerb, onVerb_onVerb]
    congr 1
    funext x
    simp only [Function.comp_def]
    unfold VerbSt.setCur
    dsimp only
    split <;> rfl
  rw [key, catchUp_done (stepsDone_onVerb _ _ h.steps)]
  exact issued_of h _ _ (by omega)

/-! ### Operation parts that change only the bank -/

theorem setBank_unskipped {s : State} {v : Fin 16} (hv : s.verbs.length = 16) (b : VerbBank) :
    setBank (unskipped s v) v b = onVerb (unskipped s v) v fun x => { x.setCur { b with cycles := b.cycles, produced := b.produced } with mixq := (verbOf s v).mixq } := by
  have hv' : v.val < (unskipped s v).verbs.length := by simp [onVerb, hv]
  have hv2 : v.val < s.verbs.length := by rw [hv]; exact v.isLt
  unfold setBank
  apply onVerb_congr hv'
  rw [verbOf_unskipped hv2]
  unfold VerbSt.setCur
  dsimp only
  split <;> rfl

theorem adv_ends (b : VerbBank) : (advance b).2 = match b.delay with | some (n, .ends) => decide (n ≠ 2) | _ => false := by
  unfold advance
  rcases b.delay with _ | ⟨k, d⟩
  · rfl
  · rcases d with _ | _ | _ <;> by_cases hk : k = 2 <;> simp [hk]

theorem adv_flow {b : VerbBank} {i : VInstr} (h : (advance b).2 = false) (c : VerbBank) (hd : c.delay = b.delay)
   (hi : ∀ c, flow b c i = ((advance c).1, 0, (advance c).2)) (k made) :
   flow b { c with cycles := k, produced := made } i = ({ (advance c).1 with cycles := k, produced := made }, 0, false) := by
  rw [hi, advance_with]
  have : (advance c).2 = (advance b).2 := by
    rw [adv_ends, adv_ends, hd]
  simp [this, h]

/-- A bank without its record of producers. -/
def sans (b : VerbBank) : VerbBank := { b with produced := [] }
theorem sans_note (b c : VerbBank) (r p t r' p' t') (h : sans b = sans c) : sans (note b r p t) = sans (note c r' p' t') := by
  cases b; cases c; simp [sans, note] at h ⊢; simp_all

theorem sans_doArith (b0 b c : VerbBank) (a imm sl t t') (h : sans b = sans c) : sans (doArith b0 b a imm sl t) = sans (doArith b0 c a imm sl t') := by
  unfold doArith
  dsimp only
  split
  · exact h
  · have e1 : ∀ k x, sans (b.setAcc k x) = sans (c.setAcc k x) := by
      intro k x; cases b; cases c; simp [sans, VerbBank.setAcc] at h ⊢; simp_all
    rename_i o ho
    rcases o with ⟨acc, d, z, n, v, cc⟩
    cases b; cases c
    cases acc <;> cases d <;> cases sl <;> simp [sans, note, VerbBank.setAcc, VerbBank.setD] at h ⊢ <;> simp_all

theorem doArith_delay (b0 b : VerbBank) (a imm sl t) : (doArith b0 b a imm sl t).delay = b.delay := by
  unfold doArith
  dsimp only
  split
  · rfl
  · rename_i o ho
    rcases o with ⟨acc, d, z, n, v, cc⟩
    cases acc <;> cases d <;> cases sl <;> rfl

theorem put_op {s : State} {v : Fin 16} (hv : s.verbs.length = 16) {i : VInstr} {b c : VerbBank} {n : Nat}
   (h : operate (ready s v n) v (bankOfVerb s v) i n = (setBank (ready s v n) v b, 0)) (e : sans b = sans c) :
   ∃ made cc k, operate (ready s v n) v (bankOfVerb s v) i n =
      (onVerb (unskipped s v) v fun x => { x.setCur { c with cycles := k, produced := made } with mixq := (verbOf s v).mixq }, cc) := by
  refine ⟨b.produced, 0, b.cycles, ?_⟩
  rw [h, setBank_ready, setBank_unskipped hv]
  congr 3
  funext x
  congr 2
  cases b; cases c; simp [sans] at e ⊢; simp_all

theorem bank_uns {s : State} {v : Fin 16} (hv : s.verbs.length = 16) : bankOfVerb (unskipped s v) v = bankOfVerb s v :=
  bankOfVerb_unskipped (by rw [hv]; exact v.isLt)

end Sys2Proof.Laws
end

