-- ==== Sys2Proof/WellFormed.lean ====
section
/-! DEFINITION. Which commands are well formed: the bounds that the spec's tables give their operands. Every command has a meaning
whatever its operands; an ill-formed one is one that no sender of the spec's kind produces. -/

namespace Sys2Proof

/-- The name of a command's row in the opcode table. -/
def Instr.mnemonic : Instr → String
  | .registerWrite _ _ => "REGISTER_WRITE"
  | .write _ _ _ => "WRITE"
  | .writeFixed _ _ _ => "WRITE_FIXED"
  | .read _ _ => "READ"
  | .readFixed _ _ => "READ_FIXED"
  | .status _ => "STATUS"
  | .undefinedHostCommand _ _ => "UNDEFINED_HOST_COMMAND"
  | .hostTransactionEnd => "HOST_TRANSACTION_END"
  | .countReadLatch _ => "COUNT_READ_LATCH"
  | .wclkLock => "WCLK_LOCK"
  | .wclkLost => "WCLK_LOST"
  | .wclkResumed => "WCLK_RESUMED"
  | .crystalFail => "CRYSTAL_FAIL"
  | .crystalStartTimeout _ => "CRYSTAL_START_TIMEOUT"
  | .aoClockSwitch => "AO_CLOCK_SWITCH"
  | .syncBallEdge _ => "SYNC_BALL_EDGE"
  | .syncCommand => "SYNC_COMMAND"
  | .frameBoundary => "FRAME_BOUNDARY"
  | .eventTake => "EVENT_TAKE"
  | .tempoSourceLoss => "TEMPO_SOURCE_LOSS"
  | .wordFrameDispatch _ => "WORD_FRAME_DISPATCH"
  | .preemption _ _ => "PREEMPTION"
  | .migrationCheck _ => "MIGRATION_CHECK"
  | .phraseMigrate _ => "PHRASE_MIGRATE"
  | .stateCopyDone _ => "STATE_COPY_DONE"
  | .sendBarrier => "SEND_BARRIER"
  | .par _ _ _ _ _ => "PAR"
  | .imm _ _ _ => "IMM"
  | .alui _ _ _ => "ALUI"
  | .regmove _ _ _ _ _ => "REGMOVE"
  | .ctrlNone _ => "CTRL_NONE"
  | .jmp _ _ _ => "JMP"
  | .call _ _ _ => "CALL"
  | .ret _ => "RET"
  | .rep _ _ _ _ => "REP"
  | .repd _ _ _ _ => "REPD"
  | .yield _ => "YIELD"
  | .exp2f _ _ _ _ _ => "EXP2F"
  | .log2f _ _ _ _ _ => "LOG2F"
  | .pinc _ _ _ _ _ => "PINC"
  | .explogResult _ => "EXPLOG_RESULT"
  | .tip _ _ _ _ _ => "TIP"
  | .tableResult _ => "TABLE_RESULT"
  | .tget _ _ _ _ => "TGET"
  | .sharedLoadResult _ => "SHARED_LOAD_RESULT"
  | .mixadd _ _ _ _ _ => "MIXADD"
  | .mixadd2 _ _ _ _ _ => "MIXADD2"
  | .evpost _ _ _ _ => "EVPOST"
  | .costExceeded _ => "COST_EXCEEDED"
  | .watchdogFault _ => "WATCHDOG_FAULT"
  | .storeDeliver => "STORE_DELIVER"
  | .eventDeliver => "EVENT_DELIVER"
  | .eventAccept => "EVENT_ACCEPT"
  | .fenceTimeout _ => "FENCE_TIMEOUT"
  | .midiByteParse _ => "MIDI_BYTE_PARSE"
  | .umpWord _ => "UMP_WORD"
  | .nativePacketCharacter _ => "NATIVE_PACKET_CHARACTER"
  | .eventWindowWrite _ => "EVENT_WINDOW_WRITE"
  | .timerGo _ => "TIMER_GO"
  | .compareMatch _ => "COMPARE_MATCH"
  | .periodEnd _ => "PERIOD_END"
  | .timerWrap _ => "TIMER_WRAP"
  | .timerCapture _ _ => "TIMER_CAPTURE"
  | .musicalWindowWrite _ => "MUSICAL_WINDOW_WRITE"
  | .dacChannelWrite _ _ => "DAC_CHANNEL_WRITE"
  | .parkSwitchClose _ => "PARK_SWITCH_CLOSE"
  | .monitorWindow _ => "MONITOR_WINDOW"
  | .cvChannelWrite _ _ => "CV_CHANNEL_WRITE"
  | .cvParkSwitchClose _ => "CV_PARK_SWITCH_CLOSE"
  | .cvSwitchOpen _ => "CV_SWITCH_OPEN"
  | .cvRailLoss _ _ => "CV_RAIL_LOSS"
  | .cvRailGood => "CV_RAIL_GOOD"
  | .adcRun _ => "ADC_RUN"
  | .adcChannelWrite _ _ => "ADC_CHANNEL_WRITE"
  | .customCoefficientWrite _ => "CUSTOM_COEFFICIENT_WRITE"
  | .customDelayWrite _ => "CUSTOM_DELAY_WRITE"
  | .settleDone _ _ => "SETTLE_DONE"
  | .modulatorOverload _ _ => "MODULATOR_OVERLOAD"
  | .thresholdCrossing _ _ => "THRESHOLD_CROSSING"
  | .thresholdEvent _ _ => "THRESHOLD_EVENT"
  | .holdoffEnd _ => "HOLDOFF_END"
  | .startEdge _ _ => "START_EDGE"
  | .characterReceived _ _ => "CHARACTER_RECEIVED"
  | .characterTransmit _ _ => "CHARACTER_TRANSMIT"
  | .collisionRetry _ _ => "COLLISION_RETRY"
  | .baudWrite _ _ => "BAUD_WRITE"
  | .baudApply _ _ => "BAUD_APPLY"
  | .serialControlWrite _ _ => "SERIAL_CONTROL_WRITE"
  | .rxflush _ => "RXFLUSH"
  | .txflush _ => "TXFLUSH"
  | .mute _ => "MUTE"
  | .transmitData _ _ => "TRANSMIT_DATA"
  | .receiveDataRead _ => "RECEIVE_DATA_READ"
  | .roleDecision => "ROLE_DECISION"
  | .hello _ _ _ => "HELLO"
  | .linkTrainingTimeout _ => "LINK_TRAINING_TIMEOUT"
  | .addr _ _ _ _ _ => "ADDR"
  | .ctl _ _ _ _ _ _ => "CTL"
  | .evt _ _ _ => "EVT"
  | .wev _ _ _ => "WEV"
  | .frm _ _ => "FRM"
  | .upb _ _ _ => "UPB"
  | .upbExport => "UPB_EXPORT"
  | .upbSopTimeout _ => "UPB_SOP_TIMEOUT"
  | .syncPacket _ _ _ _ => "SYNC_PACKET"
  | .periodicSync => "PERIODIC_SYNC"
  | .bootPacket _ _ _ => "BOOT_PACKET"
  | .trc _ _ _ => "TRC"
  | .stat _ _ _ => "STAT"
  | .cred _ _ _ => "CRED"
  | .ack _ _ => "ACK"
  | .nak _ _ => "NAK"
  | .replayTimeout _ => "REPLAY_TIMEOUT"
  | .linkDown _ => "LINK_DOWN"
  | .deviceRemoval => "DEVICE_REMOVAL"
  | .workerJoin _ => "WORKER_JOIN"
  | .lateMarkClear _ => "LATE_MARK_CLEAR"
  | .mailboxRequest _ => "MAILBOX_REQUEST"
  | .mailboxTimeout => "MAILBOX_TIMEOUT"
  | .portFrameIn _ _ _ => "PORT_FRAME_IN"
  | .portFrameOut _ _ => "PORT_FRAME_OUT"
  | .daiNoClock _ => "DAI_NO_CLOCK"
  | .scrubWriteback => "SCRUB_WRITEBACK"
  | .backgroundRowTest _ _ => "BACKGROUND_ROW_TEST"
  | .powerOnReset _ => "POWER_ON_RESET"
  | .brownoutReset _ => "BROWNOUT_RESET"
  | .pinReset => "PIN_RESET"
  | .softwareReset => "SOFTWARE_RESET"
  | .bootSequence _ _ => "BOOT_SEQUENCE"
  | .bootTimeout _ _ => "BOOT_TIMEOUT"
  | .store _ _ => "STORE"
  | .newestRecordRead _ => "NEWEST_RECORD_READ"
  | .storeCommit => "STORE_COMMIT"
  | .storeOnHoldup _ _ => "STORE_ON_HOLDUP"
  | .streamFetch => "STREAM_FETCH"
  | .reload _ => "RELOAD"
  | .flashRead => "FLASH_READ"
  | .flashProgram => "FLASH_PROGRAM"
  | .flashErase => "FLASH_ERASE"
  | .flashOperationDone => "FLASH_OPERATION_DONE"
  | .run => "RUN"
  | .quiet => "QUIET"
  | .sleep => "SLEEP"
  | .off => "OFF"
  | .entryComplete => "ENTRY_COMPLETE"
  | .domainEnable _ => "DOMAIN_ENABLE"
  | .verbProgramLoad _ => "VERB_PROGRAM_LOAD"
  | .padRelease _ => "PAD_RELEASE"
  | .brownoutWarning _ => "BROWNOUT_WARNING"
  | .warningRecovery _ => "WARNING_RECOVERY"
  | .brownoutMute => "BROWNOUT_MUTE"
  | .vholdShort _ => "VHOLD_SHORT"
  | .vinminClear => "VINMIN_CLEAR"
  | .wakeEvent _ _ => "WAKE_EVENT"
  | .wakeStepTimeout _ => "WAKE_STEP_TIMEOUT"
  | .glossEntryStore => "GLOSS_ENTRY_STORE"
  | .clearKept _ => "CLEAR_KEPT"
  | .clearCirculating _ => "CLEAR_CIRCULATING"
  | .clearBoth _ => "CLEAR_BOTH"
  | .glossFreeze => "GLOSS_FREEZE"
  | .glossResume => "GLOSS_RESUME"
  | .rateWrite _ => "RATE_WRITE"
  | .overrideWrite _ _ => "OVERRIDE_WRITE"
  | .traceRingResume => "TRACE_RING_RESUME"
  | .clrmax => "CLRMAX"
  | .testLogicReset => "TEST_LOGIC_RESET"
  | .extest => "EXTEST"
  | .samplePreload _ _ => "SAMPLE_PRELOAD"
  | .idcode => "IDCODE"
  | .clamp => "CLAMP"
  | .highz => "HIGHZ"
  | .dbgacc => "DBGACC"
  | .bypass => "BYPASS"
  | .debugRead _ => "DEBUG_READ"
  | .debugWrite _ _ => "DEBUG_WRITE"
  | .halt _ _ => "HALT"
  | .resume _ => "RESUME"
  | .step _ => "STEP"
  | .breakpointHit _ => "BREAKPOINT_HIT"
  | .verbRegisterAccess _ _ => "VERB_REGISTER_ACCESS"
  | .fuseProgram _ => "FUSE_PROGRAM"
  | .fuseVerify _ _ => "FUSE_VERIFY"
  | .commaAlignment _ => "COMMA_ALIGNMENT"
  | .helloInterval _ => "HELLO_INTERVAL"
  | .muteRampEnd _ => "MUTE_RAMP_END"
  | .cvRampEnd _ => "CV_RAMP_END"

/-- The bounds of a command's operands: an undefined host command is undefined or misaligned (R31); the edges of a received character rise
(R325); a character has 9 to 13 bits (R323); an address, a depth, a register request, events, records and entries keep to the packets that
carry them (R352, R357, R363, R368, R381); a port frame has 2, 4, 8 or 16 slots (R383); a bank has 8 spare rows (R392); a host store has a
kind of 1 to 15 and at most 4,096 bytes (R430, R435). -/
def Instr.wellFormed : Instr → Bool
  | .registerWrite _ _ => true
  | .write _ _ _ => true
  | .writeFixed _ _ _ => true
  | .read _ _ => true
  | .readFixed _ _ => true
  | .status _ => true
  | .undefinedHostCommand code a => (!(code = 0x02 || code = 0x03 || code = 0x0B || code = 0x0C || code = 0x05)) || a.toNat % 4 != 0
  | .hostTransactionEnd => true
  | .countReadLatch _ => true
  | .wclkLock => true
  | .wclkLost => true
  | .wclkResumed => true
  | .crystalFail => true
  | .crystalStartTimeout _ => true
  | .aoClockSwitch => true
  | .syncBallEdge _ => true
  | .syncCommand => true
  | .frameBoundary => true
  | .eventTake => true
  | .tempoSourceLoss => true
  | .wordFrameDispatch _ => true
  | .preemption _ _ => true
  | .migrationCheck _ => true
  | .phraseMigrate _ => true
  | .stateCopyDone _ => true
  | .sendBarrier => true
  | .par _ _ _ _ _ => true
  | .imm _ _ _ => true
  | .alui _ _ _ => true
  | .regmove _ _ _ _ _ => true
  | .ctrlNone _ => true
  | .jmp _ _ _ => true
  | .call _ _ _ => true
  | .ret _ => true
  | .rep _ _ _ _ => true
  | .repd _ _ _ _ => true
  | .yield _ => true
  | .exp2f _ _ _ _ _ => true
  | .log2f _ _ _ _ _ => true
  | .pinc _ _ _ _ _ => true
  | .explogResult _ => true
  | .tip _ _ _ _ _ => true
  | .tableResult _ => true
  | .tget _ _ _ _ => true
  | .sharedLoadResult _ => true
  | .mixadd _ _ _ _ _ => true
  | .mixadd2 _ _ _ _ _ => true
  | .evpost _ _ _ _ => true
  | .costExceeded _ => true
  | .watchdogFault _ => true
  | .storeDeliver => true
  | .eventDeliver => true
  | .eventAccept => true
  | .fenceTimeout _ => true
  | .midiByteParse _ => true
  | .umpWord _ => true
  | .nativePacketCharacter _ => true
  | .eventWindowWrite _ => true
  | .timerGo _ => true
  | .compareMatch _ => true
  | .periodEnd _ => true
  | .timerWrap _ => true
  | .timerCapture _ _ => true
  | .musicalWindowWrite _ => true
  | .dacChannelWrite _ _ => true
  | .parkSwitchClose _ => true
  | .monitorWindow _ => true
  | .cvChannelWrite _ _ => true
  | .cvParkSwitchClose _ => true
  | .cvSwitchOpen _ => true
  | .cvRailLoss _ _ => true
  | .cvRailGood => true
  | .adcRun _ => true
  | .adcChannelWrite _ _ => true
  | .customCoefficientWrite _ => true
  | .customDelayWrite _ => true
  | .settleDone _ _ => true
  | .modulatorOverload _ _ => true
  | .thresholdCrossing _ _ => true
  | .thresholdEvent _ _ => true
  | .holdoffEnd _ => true
  | .startEdge _ _ => true
  | .characterReceived _ line => ((0 :: line).zip line).all fun e => e.1 < e.2
  | .characterTransmit _ echo => echo.length ≤ 13
  | .collisionRetry _ echo => echo.length ≤ 13
  | .baudWrite _ _ => true
  | .baudApply _ _ => true
  | .serialControlWrite _ _ => true
  | .rxflush _ => true
  | .txflush _ => true
  | .mute _ => true
  | .transmitData _ _ => true
  | .receiveDataRead _ => true
  | .roleDecision => true
  | .hello _ _ _ => true
  | .linkTrainingTimeout _ => true
  | .addr _ _ position depth _ => 1 ≤ position.toNat && position.toNat ≤ 32 && 1 ≤ depth.toNat && depth.toNat ≤ 2
  | .ctl _ _ op _ _ _ => op.toNat ≤ 2
  | .evt _ _ events => 1 ≤ events.length && events.length ≤ 4
  | .wev _ _ entries => entries.length ≤ 819
  | .frm _ f => f.tense.length = 64 && f.endmap.length = 132 && f.records.length ≤ 255
  | .upb _ b _ => b.lost.length ≤ 4 && b.sums.length % 16 = 0 && b.sums.length ≤ 1024 && b.report.length ≤ 1057
  | .upbExport => true
  | .upbSopTimeout _ => true
  | .syncPacket _ _ _ _ => true
  | .periodicSync => true
  | .bootPacket _ _ bytes => bytes.length ≤ 16380
  | .trc _ words _ => words.length ≤ 4096
  | .stat _ kind _ => kind = 1 || kind = 2
  | .cred _ _ _ => true
  | .ack _ _ => true
  | .nak _ _ => true
  | .replayTimeout _ => true
  | .linkDown _ => true
  | .deviceRemoval => true
  | .workerJoin _ => true
  | .lateMarkClear _ => true
  | .mailboxRequest _ => true
  | .mailboxTimeout => true
  | .portFrameIn _ slots _ => slots.length = 2 || slots.length = 4 || slots.length = 8 || slots.length = 16
  | .portFrameOut _ _ => true
  | .daiNoClock _ => true
  | .scrubWriteback => true
  | .backgroundRowTest _ spareFails => spareFails.length ≤ 8
  | .powerOnReset _ => true
  | .brownoutReset _ => true
  | .pinReset => true
  | .softwareReset => true
  | .bootSequence _ _ => true
  | .bootTimeout _ _ => true
  | .store kind len => 1 ≤ kind.toNat && kind.toNat ≤ 15 && len.toNat ≤ 4096
  | .newestRecordRead kind => 1 ≤ kind.toNat && kind.toNat ≤ 15
  | .storeCommit => true
  | .storeOnHoldup _ _ => true
  | .streamFetch => true
  | .reload _ => true
  | .flashRead => true
  | .flashProgram => true
  | .flashErase => true
  | .flashOperationDone => true
  | .run => true
  | .quiet => true
  | .sleep => true
  | .off => true
  | .entryComplete => true
  | .domainEnable _ => true
  | .verbProgramLoad _ => true
  | .padRelease _ => true
  | .brownoutWarning _ => true
  | .warningRecovery _ => true
  | .brownoutMute => true
  | .vholdShort _ => true
  | .vinminClear => true
  | .wakeEvent _ _ => true
  | .wakeStepTimeout _ => true
  | .glossEntryStore => true
  | .clearKept _ => true
  | .clearCirculating _ => true
  | .clearBoth _ => true
  | .glossFreeze => true
  | .glossResume => true
  | .rateWrite _ => true
  | .overrideWrite _ _ => true
  | .traceRingResume => true
  | .clrmax => true
  | .testLogicReset => true
  | .extest => true
  | .samplePreload _ _ => true
  | .idcode => true
  | .clamp => true
  | .highz => true
  | .dbgacc => true
  | .bypass => true
  | .debugRead _ => true
  | .debugWrite _ _ => true
  | .halt _ _ => true
  | .resume _ => true
  | .step _ => true
  | .breakpointHit _ => true
  | .verbRegisterAccess _ _ => true
  | .fuseProgram _ => true
  | .fuseVerify _ _ => true
  | .commaAlignment _ => true
  | .helloInterval _ => true
  | .muteRampEnd _ => true
  | .cvRampEnd _ => true

end Sys2Proof
end

