-- ==== Sys2Proof/Laws/PerInstr.lean ====
section
/-! SUPPORT. One lemma per command: its row can be spelled within the bounds of its operands. -/

namespace Sys2Proof.Laws.Spelled

/-- The row of a command has a well-formed command. -/
def Statement (i : Instr) : Prop := ∃ j : Instr, j.mnemonic = i.mnemonic ∧ j.wellFormed = true

theorem registerWrite (addr : Word) (value : Word) : Statement (.registerWrite addr value) := ⟨.registerWrite addr value, rfl, rfl⟩
theorem write (addr : Word) (words : List Word) (rest : BitVec 5) : Statement (.write addr words rest) :=
  ⟨.write addr words rest, rfl, rfl⟩
theorem writeFixed (addr : Word) (words : List Word) (rest : BitVec 5) : Statement (.writeFixed addr words rest) :=
  ⟨.writeFixed addr words rest, rfl, rfl⟩
theorem read (addr : Word) (count : Nat) : Statement (.read addr count) := ⟨.read addr count, rfl, rfl⟩
theorem readFixed (addr : Word) (count : Nat) : Statement (.readFixed addr count) := ⟨.readFixed addr count, rfl, rfl⟩
theorem status (count : Nat) : Statement (.status count) := ⟨.status count, rfl, rfl⟩
theorem undefinedHostCommand (code : Byte) (addr : Word) : Statement (.undefinedHostCommand code addr) :=
  ⟨.undefinedHostCommand 0 0, rfl, rfl⟩
theorem hostTransactionEnd : Statement (.hostTransactionEnd) := ⟨.hostTransactionEnd, rfl, rfl⟩
theorem countReadLatch (reg : CountReg) : Statement (.countReadLatch reg) := ⟨.countReadLatch reg, rfl, rfl⟩
theorem wclkLock : Statement (.wclkLock) := ⟨.wclkLock, rfl, rfl⟩
theorem wclkLost : Statement (.wclkLost) := ⟨.wclkLost, rfl, rfl⟩
theorem wclkResumed : Statement (.wclkResumed) := ⟨.wclkResumed, rfl, rfl⟩
theorem crystalFail : Statement (.crystalFail) := ⟨.crystalFail, rfl, rfl⟩
theorem crystalStartTimeout (wclk : Option WclkRate) : Statement (.crystalStartTimeout wclk) := ⟨.crystalStartTimeout wclk, rfl, rfl⟩
theorem aoClockSwitch : Statement (.aoClockSwitch) := ⟨.aoClockSwitch, rfl, rfl⟩
theorem syncBallEdge (delay : SyncDelay) : Statement (.syncBallEdge delay) := ⟨.syncBallEdge delay, rfl, rfl⟩
theorem syncCommand : Statement (.syncCommand) := ⟨.syncCommand, rfl, rfl⟩
theorem frameBoundary : Statement (.frameBoundary) := ⟨.frameBoundary, rfl, rfl⟩
theorem eventTake : Statement (.eventTake) := ⟨.eventTake, rfl, rfl⟩
theorem tempoSourceLoss : Statement (.tempoSourceLoss) := ⟨.tempoSourceLoss, rfl, rfl⟩
theorem wordFrameDispatch (v : Fin 16) : Statement (.wordFrameDispatch v) := ⟨.wordFrameDispatch v, rfl, rfl⟩
theorem preemption (v : Fin 16) (elapsed : BitVec 20) : Statement (.preemption v elapsed) := ⟨.preemption v elapsed, rfl, rfl⟩
theorem migrationCheck (elapsed : BitVec 20) : Statement (.migrationCheck elapsed) := ⟨.migrationCheck elapsed, rfl, rfl⟩
theorem phraseMigrate (pos : BitVec 12) : Statement (.phraseMigrate pos) := ⟨.phraseMigrate pos, rfl, rfl⟩
theorem stateCopyDone (pos : BitVec 12) : Statement (.stateCopyDone pos) := ⟨.stateCopyDone pos, rfl, rfl⟩
theorem sendBarrier : Statement (.sendBarrier) := ⟨.sendBarrier, rfl, rfl⟩
theorem par (v : Fin 16) (a : ArithField) (b : ArithField) (x : MoveField) (y : MoveField) : Statement (.par v a b x y) :=
  ⟨.par v a b x y, rfl, rfl⟩
theorem imm (v : Fin 16) (dst : BitVec 6) (value : Word) : Statement (.imm v dst value) := ⟨.imm v dst value, rfl, rfl⟩
theorem alui (v : Fin 16) (a : ArithField) (value : Word) : Statement (.alui v a value) := ⟨.alui v a value, rfl, rfl⟩
theorem regmove (v : Fin 16) (dst : BitVec 6) (src : BitVec 6) (x : MoveField) (y : MoveField) : Statement (.regmove v dst src x y) :=
  ⟨.regmove v dst src x y, rfl, rfl⟩
theorem ctrlNone (v : Fin 16) : Statement (.ctrlNone v) := ⟨.ctrlNone v, rfl, rfl⟩
theorem jmp (v : Fin 16) (cond : BitVec 4) (target : BitVec 13) : Statement (.jmp v cond target) := ⟨.jmp v cond target, rfl, rfl⟩
theorem call (v : Fin 16) (cond : BitVec 4) (target : BitVec 13) : Statement (.call v cond target) := ⟨.call v cond target, rfl, rfl⟩
theorem ret (v : Fin 16) : Statement (.ret v) := ⟨.ret v, rfl, rfl⟩
theorem rep (v : Fin 16) (counter : BitVec 2) (count : BitVec 16) (last : BitVec 13) : Statement (.rep v counter count last) :=
  ⟨.rep v counter count last, rfl, rfl⟩
theorem repd (v : Fin 16) (counter : BitVec 2) (dreg : BitVec 4) (last : BitVec 13) : Statement (.repd v counter dreg last) :=
  ⟨.repd v counter dreg last, rfl, rfl⟩
theorem yield (v : Fin 16) : Statement (.yield v) := ⟨.yield v, rfl, rfl⟩
theorem exp2f (v : Fin 16) (dst : BitVec 4) (src : BitVec 4) (x : MoveField) (y : MoveField) : Statement (.exp2f v dst src x y) :=
  ⟨.exp2f v dst src x y, rfl, rfl⟩
theorem log2f (v : Fin 16) (dst : BitVec 4) (src : BitVec 4) (x : MoveField) (y : MoveField) : Statement (.log2f v dst src x y) :=
  ⟨.log2f v dst src x y, rfl, rfl⟩
theorem pinc (v : Fin 16) (dst : BitVec 4) (src : BitVec 4) (x : MoveField) (y : MoveField) : Statement (.pinc v dst src x y) :=
  ⟨.pinc v dst src x y, rfl, rfl⟩
theorem explogResult (v : Fin 16) : Statement (.explogResult v) := ⟨.explogResult v, rfl, rfl⟩
theorem tip (v : Fin 16) (posPair : BitVec 4) (cfg : BitVec 4) (x : MoveField) (y : MoveField) : Statement (.tip v posPair cfg x y) :=
  ⟨.tip v posPair cfg x y, rfl, rfl⟩
theorem tableResult (v : Fin 16) : Statement (.tableResult v) := ⟨.tableResult v, rfl, rfl⟩
theorem tget (v : Fin 16) (dst : BitVec 4) (x : MoveField) (y : MoveField) : Statement (.tget v dst x y) := ⟨.tget v dst x y, rfl, rfl⟩
theorem sharedLoadResult (v : Fin 16) : Statement (.sharedLoadResult v) := ⟨.sharedLoadResult v, rfl, rfl⟩
theorem mixadd (v : Fin 16) (val : BitVec 4) (busIdx : BitVec 4) (x : MoveField) (y : MoveField) : Statement (.mixadd v val busIdx x y) :=
  ⟨.mixadd v val busIdx x y, rfl, rfl⟩
theorem mixadd2 (v : Fin 16) (valPair : BitVec 4) (busIdx : BitVec 4) (x : MoveField) (y : MoveField) : Statement (.mixadd2 v valPair busIdx x y) :=
  ⟨.mixadd2 v valPair busIdx x y, rfl, rfl⟩
theorem evpost (v : Fin 16) (src : BitVec 4) (x : MoveField) (y : MoveField) : Statement (.evpost v src x y) :=
  ⟨.evpost v src x y, rfl, rfl⟩
theorem costExceeded (v : Fin 16) : Statement (.costExceeded v) := ⟨.costExceeded v, rfl, rfl⟩
theorem watchdogFault (v : Fin 16) : Statement (.watchdogFault v) := ⟨.watchdogFault v, rfl, rfl⟩
theorem storeDeliver : Statement (.storeDeliver) := ⟨.storeDeliver, rfl, rfl⟩
theorem eventDeliver : Statement (.eventDeliver) := ⟨.eventDeliver, rfl, rfl⟩
theorem eventAccept : Statement (.eventAccept) := ⟨.eventAccept, rfl, rfl⟩
theorem fenceTimeout (g : Fin 4) : Statement (.fenceTimeout g) := ⟨.fenceTimeout g, rfl, rfl⟩
theorem midiByteParse (src : Fin 8) : Statement (.midiByteParse src) := ⟨.midiByteParse src, rfl, rfl⟩
theorem umpWord (src : Fin 8) : Statement (.umpWord src) := ⟨.umpWord src, rfl, rfl⟩
theorem nativePacketCharacter (src : Fin 8) : Statement (.nativePacketCharacter src) := ⟨.nativePacketCharacter src, rfl, rfl⟩
theorem eventWindowWrite (value : Word) : Statement (.eventWindowWrite value) := ⟨.eventWindowWrite value, rfl, rfl⟩
theorem timerGo (mask : BitVec 16) : Statement (.timerGo mask) := ⟨.timerGo mask, rfl, rfl⟩
theorem compareMatch (n : Fin 16) : Statement (.compareMatch n) := ⟨.compareMatch n, rfl, rfl⟩
theorem periodEnd (n : Fin 16) : Statement (.periodEnd n) := ⟨.periodEnd n, rfl, rfl⟩
theorem timerWrap (n : Fin 16) : Statement (.timerWrap n) := ⟨.timerWrap n, rfl, rfl⟩
theorem timerCapture (n : Fin 16) (falling : Bool) : Statement (.timerCapture n falling) := ⟨.timerCapture n falling, rfl, rfl⟩
theorem musicalWindowWrite (value : Word) : Statement (.musicalWindowWrite value) := ⟨.musicalWindowWrite value, rfl, rfl⟩
theorem dacChannelWrite (k : Fin 16) (value : Word) : Statement (.dacChannelWrite k value) := ⟨.dacChannelWrite k value, rfl, rfl⟩
theorem parkSwitchClose (k : Fin 16) : Statement (.parkSwitchClose k) := ⟨.parkSwitchClose k, rfl, rfl⟩
theorem monitorWindow (m : Measurement) : Statement (.monitorWindow m) := ⟨.monitorWindow m, rfl, rfl⟩
theorem cvChannelWrite (k : Fin 8) (value : Word) : Statement (.cvChannelWrite k value) := ⟨.cvChannelWrite k value, rfl, rfl⟩
theorem cvParkSwitchClose (k : Fin 8) : Statement (.cvParkSwitchClose k) := ⟨.cvParkSwitchClose k, rfl, rfl⟩
theorem cvSwitchOpen (k : Fin 8) : Statement (.cvSwitchOpen k) := ⟨.cvSwitchOpen k, rfl, rfl⟩
theorem cvRailLoss (vcvp : Bool) (vcvn : Bool) : Statement (.cvRailLoss vcvp vcvn) := ⟨.cvRailLoss vcvp vcvn, rfl, rfl⟩
theorem cvRailGood : Statement (.cvRailGood) := ⟨.cvRailGood, rfl, rfl⟩
theorem adcRun (run : Bool) : Statement (.adcRun run) := ⟨.adcRun run, rfl, rfl⟩
theorem adcChannelWrite (n : Fin 16) (value : Word) : Statement (.adcChannelWrite n value) := ⟨.adcChannelWrite n value, rfl, rfl⟩
theorem customCoefficientWrite (value : Word) : Statement (.customCoefficientWrite value) := ⟨.customCoefficientWrite value, rfl, rfl⟩
theorem customDelayWrite (value : Word) : Statement (.customDelayWrite value) := ⟨.customDelayWrite value, rfl, rfl⟩
theorem settleDone (n : Fin 16) (tap : BitVec 40) : Statement (.settleDone n tap) := ⟨.settleDone n tap, rfl, rfl⟩
theorem modulatorOverload (n : Fin 16) (resets : Word) : Statement (.modulatorOverload n resets) :=
  ⟨.modulatorOverload n resets, rfl, rfl⟩
theorem thresholdCrossing (x : Fin 32) (tap : BitVec 40) : Statement (.thresholdCrossing x tap) := ⟨.thresholdCrossing x tap, rfl, rfl⟩
theorem thresholdEvent (x : Fin 32) (tap : BitVec 40) : Statement (.thresholdEvent x tap) := ⟨.thresholdEvent x tap, rfl, rfl⟩
theorem holdoffEnd (x : Fin 32) : Statement (.holdoffEnd x) := ⟨.holdoffEnd x, rfl, rfl⟩
theorem startEdge (p : Fin 8) (quarter : BitVec 2) : Statement (.startEdge p quarter) := ⟨.startEdge p quarter, rfl, rfl⟩
theorem characterReceived (p : Fin 8) (line : List Nat) : Statement (.characterReceived p line) := ⟨.characterReceived p [], rfl, rfl⟩
theorem characterTransmit (p : Fin 8) (echo : List Bool) : Statement (.characterTransmit p echo) := ⟨.characterTransmit p [], rfl, rfl⟩
theorem collisionRetry (p : Fin 8) (echo : List Bool) : Statement (.collisionRetry p echo) := ⟨.collisionRetry p [], rfl, rfl⟩
theorem baudWrite (p : Fin 8) (value : Word) : Statement (.baudWrite p value) := ⟨.baudWrite p value, rfl, rfl⟩
theorem baudApply (p : Fin 8) (transmit : Bool) : Statement (.baudApply p transmit) := ⟨.baudApply p transmit, rfl, rfl⟩
theorem serialControlWrite (p : Fin 8) (value : Word) : Statement (.serialControlWrite p value) := ⟨.serialControlWrite p value, rfl, rfl⟩
theorem rxflush (p : Fin 8) : Statement (.rxflush p) := ⟨.rxflush p, rfl, rfl⟩
theorem txflush (p : Fin 8) : Statement (.txflush p) := ⟨.txflush p, rfl, rfl⟩
theorem mute (p : Fin 8) : Statement (.mute p) := ⟨.mute p, rfl, rfl⟩
theorem transmitData (p : Fin 8) (value : Word) : Statement (.transmitData p value) := ⟨.transmitData p value, rfl, rfl⟩
theorem receiveDataRead (p : Fin 8) : Statement (.receiveDataRead p) := ⟨.receiveDataRead p, rfl, rfl⟩
theorem roleDecision : Statement (.roleDecision) := ⟨.roleDecision, rfl, rfl⟩
theorem hello (l : Arrival) (h : HelloPayload) (arrival : Word) : Statement (.hello l h arrival) := ⟨.hello l h arrival, rfl, rfl⟩
theorem linkTrainingTimeout (l : Fin 4) : Statement (.linkTrainingTimeout l) := ⟨.linkTrainingTimeout l, rfl, rfl⟩
theorem addr (l : Arrival) (address : BitVec 14) (position : BitVec 6) (depth : BitVec 2) (tiers : BitVec 2) : Statement (.addr l address position depth tiers) :=
  ⟨.addr l 1 1 1 1, rfl, rfl⟩
theorem ctl (l : Arrival) (hd : LinkHeader) (op : BitVec 2) (err : BitVec 2) (offset : Word) (data : Word) : Statement (.ctl l hd op err offset data) :=
  ⟨.ctl l hd 0 err offset data, rfl, rfl⟩
theorem evt (l : Arrival) (hd : LinkHeader) (events : List EvPacket) : Statement (.evt l hd events) :=
  ⟨.evt l hd [⟨0, 0, false, false, 1, 0, 0, 0⟩], rfl, rfl⟩
theorem wev (l : Relayed) (frame : Word) (entries : List WevEntry) : Statement (.wev l frame entries) := ⟨.wev l frame [], rfl, rfl⟩
theorem frm (l : Relayed) (payload : FrmPayload) : Statement (.frm l payload) :=
  ⟨.frm l ⟨0, 0, List.replicate 64 0, List.replicate 132 0, []⟩, rfl, rfl⟩
theorem upb (l : Fin 4) (block : UpBlock) (crcOk : Bool) : Statement (.upb l block crcOk) :=
  ⟨.upb l ⟨0, 0, 0, [], [], []⟩ crcOk, rfl, rfl⟩
theorem upbExport : Statement (.upbExport) := ⟨.upbExport, rfl, rfl⟩
theorem upbSopTimeout (l : Fin 4) : Statement (.upbSopTimeout l) := ⟨.upbSopTimeout l, rfl, rfl⟩
theorem syncPacket (l : Arrival) (elapsed : DWord) (new : Bool) (arrival : DWord) : Statement (.syncPacket l elapsed new arrival) :=
  ⟨.syncPacket l elapsed new arrival, rfl, rfl⟩
theorem periodicSync : Statement (.periodicSync) := ⟨.periodicSync, rfl, rfl⟩
theorem bootPacket (l : Relayed) (offset : Word) (bytes : List Byte) : Statement (.bootPacket l offset bytes) :=
  ⟨.bootPacket l offset [], rfl, rfl⟩
theorem trc (l : Relayed) (words : List Word) (scheduling : Bool) : Statement (.trc l words scheduling) := ⟨.trc l [] scheduling, rfl, rfl⟩
theorem stat (l : Relayed) (kind : Byte) (address : BitVec 16) : Statement (.stat l kind address) := ⟨.stat l 1 address, rfl, rfl⟩
theorem cred (l : Fin 4) (cls : BitVec 2) (count : Byte) : Statement (.cred l cls count) := ⟨.cred l cls count, rfl, rfl⟩
theorem ack (l : Fin 4) (seq : Byte) : Statement (.ack l seq) := ⟨.ack l seq, rfl, rfl⟩
theorem nak (l : Fin 4) (seq : Byte) : Statement (.nak l seq) := ⟨.nak l seq, rfl, rfl⟩
theorem replayTimeout (l : Fin 4) : Statement (.replayTimeout l) := ⟨.replayTimeout l, rfl, rfl⟩
theorem linkDown (l : Fin 4) : Statement (.linkDown l) := ⟨.linkDown l, rfl, rfl⟩
theorem deviceRemoval : Statement (.deviceRemoval) := ⟨.deviceRemoval, rfl, rfl⟩
theorem workerJoin (address : BitVec 14) : Statement (.workerJoin address) := ⟨.workerJoin address, rfl, rfl⟩
theorem lateMarkClear (address : BitVec 14) : Statement (.lateMarkClear address) := ⟨.lateMarkClear address, rfl, rfl⟩
theorem mailboxRequest (value : Word) : Statement (.mailboxRequest value) := ⟨.mailboxRequest value, rfl, rfl⟩
theorem mailboxTimeout : Statement (.mailboxTimeout) := ⟨.mailboxTimeout, rfl, rfl⟩
theorem portFrameIn (p : Fin 4) (slots : List Word) (lastBit : DWord) : Statement (.portFrameIn p slots lastBit) :=
  ⟨.portFrameIn p [0, 0] lastBit, rfl, rfl⟩
theorem portFrameOut (p : Fin 4) (begins : DWord) : Statement (.portFrameOut p begins) := ⟨.portFrameOut p begins, rfl, rfl⟩
theorem daiNoClock (p : Fin 4) : Statement (.daiNoClock p) := ⟨.daiNoClock p, rfl, rfl⟩
theorem scrubWriteback : Statement (.scrubWriteback) := ⟨.scrubWriteback, rfl, rfl⟩
theorem backgroundRowTest (rowFails : Bool) (spareFails : List Bool) : Statement (.backgroundRowTest rowFails spareFails) :=
  ⟨.backgroundRowTest rowFails [], rfl, rfl⟩
theorem powerOnReset (vin : BitVec 16) : Statement (.powerOnReset vin) := ⟨.powerOnReset vin, rfl, rfl⟩
theorem brownoutReset (vin : BitVec 16) : Statement (.brownoutReset vin) := ⟨.brownoutReset vin, rfl, rfl⟩
theorem pinReset : Statement (.pinReset) := ⟨.pinReset, rfl, rfl⟩
theorem softwareReset : Statement (.softwareReset) := ⟨.softwareReset, rfl, rfl⟩
theorem bootSequence (selfTestFails : BitVec 16) (crystal44 : Bool) : Statement (.bootSequence selfTestFails crystal44) :=
  ⟨.bootSequence selfTestFails crystal44, rfl, rfl⟩
theorem bootTimeout (step : BootStep) (crystal44 : Bool) : Statement (.bootTimeout step crystal44) :=
  ⟨.bootTimeout step crystal44, rfl, rfl⟩
theorem store (kind : Byte) (len : BitVec 13) : Statement (.store kind len) := ⟨.store 1 0, rfl, rfl⟩
theorem newestRecordRead (kind : Byte) : Statement (.newestRecordRead kind) := ⟨.newestRecordRead 1, rfl, rfl⟩
theorem storeCommit : Statement (.storeCommit) := ⟨.storeCommit, rfl, rfl⟩
theorem storeOnHoldup (vhold : BitVec 16) (reachesVmin : Bool) : Statement (.storeOnHoldup vhold reachesVmin) :=
  ⟨.storeOnHoldup vhold reachesVmin, rfl, rfl⟩
theorem streamFetch : Statement (.streamFetch) := ⟨.streamFetch, rfl, rfl⟩
theorem reload (value : Word) : Statement (.reload value) := ⟨.reload value, rfl, rfl⟩
theorem flashRead : Statement (.flashRead) := ⟨.flashRead, rfl, rfl⟩
theorem flashProgram : Statement (.flashProgram) := ⟨.flashProgram, rfl, rfl⟩
theorem flashErase : Statement (.flashErase) := ⟨.flashErase, rfl, rfl⟩
theorem flashOperationDone : Statement (.flashOperationDone) := ⟨.flashOperationDone, rfl, rfl⟩
theorem run : Statement (.run) := ⟨.run, rfl, rfl⟩
theorem quiet : Statement (.quiet) := ⟨.quiet, rfl, rfl⟩
theorem sleep : Statement (.sleep) := ⟨.sleep, rfl, rfl⟩
theorem off : Statement (.off) := ⟨.off, rfl, rfl⟩
theorem entryComplete : Statement (.entryComplete) := ⟨.entryComplete, rfl, rfl⟩
theorem domainEnable (value : Word) : Statement (.domainEnable value) := ⟨.domainEnable value, rfl, rfl⟩
theorem verbProgramLoad (verbB : Bool) : Statement (.verbProgramLoad verbB) := ⟨.verbProgramLoad verbB, rfl, rfl⟩
theorem padRelease (value : Word) : Statement (.padRelease value) := ⟨.padRelease value, rfl, rfl⟩
theorem brownoutWarning (vin : BitVec 16) : Statement (.brownoutWarning vin) := ⟨.brownoutWarning vin, rfl, rfl⟩
theorem warningRecovery (vin : BitVec 16) : Statement (.warningRecovery vin) := ⟨.warningRecovery vin, rfl, rfl⟩
theorem brownoutMute : Statement (.brownoutMute) := ⟨.brownoutMute, rfl, rfl⟩
theorem vholdShort (millivolts : BitVec 16) : Statement (.vholdShort millivolts) := ⟨.vholdShort millivolts, rfl, rfl⟩
theorem vinminClear : Statement (.vinminClear) := ⟨.vinminClear, rfl, rfl⟩
theorem wakeEvent (sources : BitVec 24) (selfTestFails : BitVec 16) : Statement (.wakeEvent sources selfTestFails) :=
  ⟨.wakeEvent sources selfTestFails, rfl, rfl⟩
theorem wakeStepTimeout (step : WakeStep) : Statement (.wakeStepTimeout step) := ⟨.wakeStepTimeout step, rfl, rfl⟩
theorem glossEntryStore : Statement (.glossEntryStore) := ⟨.glossEntryStore, rfl, rfl⟩
theorem clearKept (key : BitVec 16) : Statement (.clearKept key) := ⟨.clearKept key, rfl, rfl⟩
theorem clearCirculating (key : BitVec 16) : Statement (.clearCirculating key) := ⟨.clearCirculating key, rfl, rfl⟩
theorem clearBoth (key : BitVec 16) : Statement (.clearBoth key) := ⟨.clearBoth key, rfl, rfl⟩
theorem glossFreeze : Statement (.glossFreeze) := ⟨.glossFreeze, rfl, rfl⟩
theorem glossResume : Statement (.glossResume) := ⟨.glossResume, rfl, rfl⟩
theorem rateWrite (value : Word) : Statement (.rateWrite value) := ⟨.rateWrite value, rfl, rfl⟩
theorem overrideWrite (n : Fin 16) (value : Word) : Statement (.overrideWrite n value) := ⟨.overrideWrite n value, rfl, rfl⟩
theorem traceRingResume : Statement (.traceRingResume) := ⟨.traceRingResume, rfl, rfl⟩
theorem clrmax : Statement (.clrmax) := ⟨.clrmax, rfl, rfl⟩
theorem testLogicReset : Statement (.testLogicReset) := ⟨.testLogicReset, rfl, rfl⟩
theorem extest : Statement (.extest) := ⟨.extest, rfl, rfl⟩
theorem samplePreload (pins : List Bool) (preload : List Bool) : Statement (.samplePreload pins preload) :=
  ⟨.samplePreload pins preload, rfl, rfl⟩
theorem idcode : Statement (.idcode) := ⟨.idcode, rfl, rfl⟩
theorem clamp : Statement (.clamp) := ⟨.clamp, rfl, rfl⟩
theorem highz : Statement (.highz) := ⟨.highz, rfl, rfl⟩
theorem dbgacc : Statement (.dbgacc) := ⟨.dbgacc, rfl, rfl⟩
theorem bypass : Statement (.bypass) := ⟨.bypass, rfl, rfl⟩
theorem debugRead (address : Word) : Statement (.debugRead address) := ⟨.debugRead address, rfl, rfl⟩
theorem debugWrite (address : Word) (value : Word) : Statement (.debugWrite address value) := ⟨.debugWrite address value, rfl, rfl⟩
theorem halt (n : Fin 16) (atYield : Bool) : Statement (.halt n atYield) := ⟨.halt n atYield, rfl, rfl⟩
theorem resume (n : Fin 16) : Statement (.resume n) := ⟨.resume n, rfl, rfl⟩
theorem step (n : Fin 16) : Statement (.step n) := ⟨.step n, rfl, rfl⟩
theorem breakpointHit (n : Fin 16) : Statement (.breakpointHit n) := ⟨.breakpointHit n, rfl, rfl⟩
theorem verbRegisterAccess (n : Fin 16) (value : Option Word) : Statement (.verbRegisterAccess n value) :=
  ⟨.verbRegisterAccess n value, rfl, rfl⟩
theorem fuseProgram (value : Word) : Statement (.fuseProgram value) := ⟨.fuseProgram value, rfl, rfl⟩
theorem fuseVerify (blown : BitVec 32) (parity : Bool) : Statement (.fuseVerify blown parity) := ⟨.fuseVerify blown parity, rfl, rfl⟩
theorem commaAlignment (l : Fin 4) : Statement (.commaAlignment l) := ⟨.commaAlignment l, rfl, rfl⟩
theorem helloInterval (l : Fin 4) : Statement (.helloInterval l) := ⟨.helloInterval l, rfl, rfl⟩
theorem muteRampEnd (k : Fin 16) : Statement (.muteRampEnd k) := ⟨.muteRampEnd k, rfl, rfl⟩
theorem cvRampEnd (k : Fin 8) : Statement (.cvRampEnd k) := ⟨.cvRampEnd k, rfl, rfl⟩

end Sys2Proof.Laws.Spelled
end

