-- ==== Sys2Proof/Laws/StableAudio.lean ====
section
/-! SUPPORT. Every function of the modules Alloc, Concord, VerbEnd, VerbCore, Parser, Tense, EventTake, Boundary keeps a Stable predicate. -/

namespace Sys2Proof.Laws
open Sys2Proof.Machine
variable (P : Stable)

theorem st_lostLevels (s : State) (cands : List Phrase) (hP : P.holds s) : P.holds (lostLevels s cands) := by
  unfold lostLevels
  with_reducible repeat' first | assumption | apply st_ite | apply st_setFlag

theorem st_addRecord (s : State) (r : FrmRecord) (hP : P.holds s) : P.holds (addRecord s r) := by
  unfold addRecord
  with_reducible repeat' first | assumption | (extract_lets +onlyGivenNames z; subst z) | apply Stable.mk_alloc

theorem st_addTail (s : State) (bus : Int) (v : Word) (hP : P.holds s) : P.holds (addTail s bus v) := by
  unfold addTail
  with_reducible repeat' first | assumption | apply st_ite | apply st_memAdd | refine st_foldl P _ ?_ _ _ ?_ | intro t x ht

theorem st_readLocal32 (s : State) (a : Nat) (hP : P.holds s) : P.fst (readLocal32 s a) := by
  unfold readLocal32
  with_reducible repeat' first | assumption | apply st_memLoad | (refine st_left P (by assumption) ?_) | split | apply st_pair

theorem st_cutTails (s : State) (p : Phrase) (hP : P.holds s) : P.holds (cutTails s p) := by
  rw [cutTails.eq_1]
  split
  · rename_i v _ _ _
    refine st_foldl P _ ?_ _ _ hP
    intro s w hs
    have h0 := st_readLocal32 P s (xAddr p v + w.xoff) hs
    dsimp only
    have h1 := st_readLocal32 P _ (xAddr p v + w.xoff + 4) h0
    refine st_addTail P _ _ _ (st_addTail P _ _ _ ?_)
    exact st_iteFst P _ _ (st_pair P _ _ (st_proj P _ h1)) (st_readLocal32 P _ _ h1)
  · exact hP

theorem st_cutPhrase (s : State) (p : Phrase) (key part : Nat) (hP : P.holds s) : P.holds (cutPhrase s p key part) := by
  unfold cutPhrase
  with_reducible repeat' first
    | assumption | (extract_lets +onlyGivenNames z; refine st_cut (p := P.holds z) ?_ ?_; subst z; rotate_left; intro hz; clear_value z)
    | (extract_lets +onlyGivenNames z; subst z) | apply st_cutTails | apply st_raiseGloss | apply st_countUp | apply st_addRecord
    | apply st_freePhrase

theorem st_toFading (s : State) (old fade : Nat) (hP : P.holds s) : P.holds (toFading s old fade) := by
  unfold toFading
  with_reducible repeat' first | assumption | apply st_movePos

theorem st_fadePhrase (s : State) (p : Phrase) (fade key part : Nat) (hP : P.holds s) : P.holds (fadePhrase s p fade key part) := by
  unfold fadePhrase
  with_reducible repeat' first
    | assumption | (extract_lets +onlyGivenNames z; refine st_cut (p := P.holds z) ?_ ?_; subst z; rotate_left; intro hz; clear_value z)
    | (extract_lets +onlyGivenNames z; subst z) | apply st_raiseGloss | apply st_countUp | apply st_addRecord | apply st_toFading

theorem st_stealPhrase (s : State) (p : Phrase) (mustCut : Bool) (key part : Nat) (hP : P.holds s) :
    P.holds (stealPhrase s p mustCut key part) := by
  unfold stealPhrase
  with_reducible repeat' first | assumption | apply st_fadePhrase | apply st_cutPhrase | split

theorem st_putPhrase (s : State) (r : NoteReq) (p : Phrase) (hP : P.holds s) : P.holds (putPhrase s r p) := by
  unfold putPhrase
  with_reducible repeat' first
    | assumption | (extract_lets +onlyGivenNames z; subst z) | apply st_placePhrase | apply Stable.mk_plain

theorem st_refuseSlot (s : State) (r : NoteReq) (t : Todo) (hP : P.holds s) : P.holds (refuseSlot s r t) := by
  unfold refuseSlot
  with_reducible repeat' first | assumption | apply st_raiseGloss | apply st_countUp

theorem st_createOn (s : State) (r : NoteReq) (t : Todo) (x : Syntax) (slot lane : Nat) (aseq : Word) (hP : P.holds s) :
    P.holds (createOn s r t x slot lane aseq) := by
  unfold createOn
  with_reducible repeat' first
    | assumption
    | (extract_lets +onlyGivenNames z; refine st_cut (p := P.holds z) ?_ ?_; subst z; rotate_left; intro hz; clear_value z)
    | (extract_lets +onlyGivenNames z; refine st_cut (p := P.fst z) ?_ ?_; subst z; rotate_left; intro hz; clear_value z)
    | (extract_lets +onlyGivenNames z; subst z) | apply st_addRecord | apply st_putPhrase | (refine st_ofPair P (by assumption))
    | (refine st_left P (by assumption) ?_) | split | apply st_iteFst | apply st_pair | apply st_proj

theorem st_slotStage (s : State) (r : NoteReq) (t : Todo) (ts : List Todo) (aseq : Word) (made : Bool) (hP : P.holds s) :
    P.fst (slotStage s r t ts aseq made) := by
  unfold slotStage
  with_reducible repeat' first
    | assumption
    | (extract_lets +onlyGivenNames z; refine st_cut (p := P.holds z) ?_ ?_; subst z; rotate_left; intro hz; clear_value z)
    | (extract_lets +onlyGivenNames z; refine st_cut (p := P.fst z) ?_ ?_; subst z; rotate_left; intro hz; clear_value z)
    | (extract_lets +onlyGivenNames z; subst z) | apply st_refuseSlot | apply st_stealPhrase | apply st_lostLevels
    | (refine st_ofPair P (by assumption)) | (refine st_left P (by assumption) ?_) | split | apply st_iteFst | apply st_pair

theorem st_placeStage (s : State) (r : NoteReq) (t : Todo) (ts : List Todo) (aseq : Word) (made : Bool) (slot steals : Nat) (hP : P.holds s) :
    P.fst (placeStage s r t ts aseq made slot steals) := by
  unfold placeStage
  with_reducible repeat' first
    | assumption
    | (extract_lets +onlyGivenNames z; refine st_cut (p := P.holds z) ?_ ?_; subst z; rotate_left; intro hz; clear_value z)
    | (extract_lets +onlyGivenNames z; refine st_cut (p := P.fst z) ?_ ?_; subst z; rotate_left; intro hz; clear_value z)
    | (extract_lets +onlyGivenNames z; subst z) | apply st_ite | apply st_iteFst | apply st_createOn | apply st_countUp
    | apply st_stealPhrase | apply st_lostLevels | (refine st_ofPair P (by assumption)) | (refine st_left P (by assumption) ?_)
    | split | apply st_iteFst | apply st_pair

theorem st_releaseGroup (s : State) (part : Nat) (aseq : Word) (vel : Nat) (pos : DWord) (late : Bool) (hP : P.holds s) :
    P.holds (releaseGroup s part aseq vel pos late) := by
  unfold releaseGroup
  with_reducible repeat' first
    | assumption
    | (extract_lets +onlyGivenNames z; refine st_cut (p := P.holds z) ?_ ?_; subst z; rotate_left; intro hz; clear_value z)
    | (extract_lets +onlyGivenNames z; refine st_cut (p := P.fst z) ?_ ?_; subst z; rotate_left; intro hz; clear_value z)
    | (extract_lets +onlyGivenNames z; subst z) | apply st_ite | apply st_addRecord | split | apply Stable.mk_plain

theorem st_polyOff (s : State) (part key noteId vel : Nat) (pos : DWord) (late : Bool) (hP : P.holds s) :
    P.fst (polyOff s part key noteId vel pos late) := by
  unfold polyOff
  with_reducible repeat' first
    | assumption
    | (extract_lets +onlyGivenNames z; refine st_cut (p := P.holds z) ?_ ?_; subst z; rotate_left; intro hz; clear_value z)
    | (extract_lets +onlyGivenNames z; refine st_cut (p := P.fst z) ?_ ?_; subst z; rotate_left; intro hz; clear_value z)
    | (extract_lets +onlyGivenNames z; subst z) | apply st_countUp | (refine st_ofPair P (by assumption))
    | (refine st_left P (by assumption) ?_) | split | apply st_iteFst | apply st_pair

theorem st_nextAseq (s : State) (hP : P.holds s) : P.fst (nextAseq s) := by
  unfold nextAseq
  with_reducible repeat' first | assumption | (extract_lets +onlyGivenNames z; subst z) | apply st_pair | apply Stable.mk_alloc

theorem st_retrigGroup (s : State) (part : Nat) (aseq : Word) (e : NoteEnt) (legato : Bool) (pos : DWord) (late : Bool) (hP : P.holds s) :
    P.holds (retrigGroup s part aseq e legato pos late) := by
  unfold retrigGroup
  with_reducible repeat' first
    | assumption | (extract_lets +onlyGivenNames z; subst z) | apply st_nextAseq | apply st_addRecord | split | apply st_proj
    | apply Stable.mk_plain

theorem st_setStack (s : State) (part : Nat) (st : List NoteEnt) (hP : P.holds s) : P.holds (setStack s part st) := by
  unfold setStack
  with_reducible repeat' first
    | assumption | (extract_lets +onlyGivenNames z; subst z) | apply Stable.mk_any
    | (refine ⟨?_, ?_, ?_, ?_, ?_, ⟨?_, ?_, ?_, ?_, ?_, ⟨?_, ?_, ?_, ?_⟩⟩⟩ <;> intro hn <;> first | exact hn | (simp; done) | simp [hn])

theorem st_moveVoice (s : State) (part : Nat) (aseq : Word) (e : NoteEnt) (pos : DWord) (late : Bool) (hP : P.holds s) :
    P.holds (moveVoice s part aseq e pos late) := by
  unfold moveVoice
  with_reducible repeat' first | assumption | (extract_lets +onlyGivenNames z; subst z) | apply st_retrigGroup

theorem st_pushNote (s : State) (part : Nat) (e : NoteEnt) (hP : P.holds s) : P.holds (pushNote s part e) := by
  unfold pushNote
  with_reducible repeat' first
    | assumption | (extract_lets +onlyGivenNames z; subst z) | apply st_ite | apply st_drawFree | apply st_setStack | apply st_raiseGloss
    | apply st_countUp | apply st_proj

theorem st_monoOff (s : State) (part key noteId vel : Nat) (pos : DWord) (late : Bool) (hP : P.holds s) :
    P.fst (monoOff s part key noteId vel pos late) := by
  unfold monoOff
  with_reducible repeat' first
    | assumption
    | (extract_lets +onlyGivenNames z; refine st_cut (p := P.holds z) ?_ ?_; subst z; rotate_left; intro hz; clear_value z)
    | (extract_lets +onlyGivenNames z; refine st_cut (p := P.fst z) ?_ ?_; subst z; rotate_left; intro hz; clear_value z)
    | (extract_lets +onlyGivenNames z; subst z) | apply st_ite | apply st_iteFst | apply st_countUp | apply st_setStack
    | apply st_moveVoice | (refine st_ofPair P (by assumption)) | (refine st_left P (by assumption) ?_) | split | apply st_iteFst
    | apply st_pair

theorem st_sustainUp (s : State) (part : Nat) (pos : DWord) (late : Bool) (hP : P.holds s) : P.holds (sustainUp s part pos late) := by
  unfold sustainUp
  with_reducible repeat' first | assumption | apply Stable.mk_plain

theorem st_sostenutoDown (s : State) (part : Nat) (hP : P.holds s) : P.holds (sostenutoDown s part) := by
  unfold sostenutoDown
  with_reducible repeat' first | assumption | apply Stable.mk_plain

theorem st_sostenutoUp (s : State) (part : Nat) (pos : DWord) (late : Bool) (hP : P.holds s) : P.holds (sostenutoUp s part pos late) := by
  unfold sostenutoUp
  with_reducible repeat' first | assumption | apply Stable.mk_plain

theorem st_setPedal (s : State) (part bit : Nat) (down : Bool) (pos : DWord) (late : Bool) (hP : P.holds s) :
    P.holds (setPedal s part bit down pos late) := by
  unfold setPedal
  with_reducible repeat' first
    | assumption | (extract_lets +onlyGivenNames z; refine st_cut (p := P.holds z) ?_ ?_; subst z; rotate_left; intro hz; clear_value z)
    | (extract_lets +onlyGivenNames z; subst z) | apply st_ite | apply st_wrFld | apply st_addRecord | apply st_sustainUp
    | apply st_sostenutoDown | apply st_sostenutoUp

theorem st_outOfRange (s : State) (part index : Nat) (value : Int) (hP : P.holds s) : P.holds (outOfRange s part index value) := by
  unfold outOfRange
  with_reducible repeat' first | assumption | apply st_raiseGloss | apply st_countUp

theorem st_partControl (s : State) (part index : Nat) (value : Int) (pos : DWord) (late : Bool) (hP : P.holds s) :
    P.holds (partControl s part index value pos late) := by
  unfold partControl
  with_reducible repeat' first
    | assumption | (extract_lets +onlyGivenNames z; refine st_cut (p := P.holds z) ?_ ?_; subst z; rotate_left; intro hz; clear_value z)
    | (extract_lets +onlyGivenNames z; subst z) | apply st_ite | apply st_wrFld | apply st_setStack | apply st_outOfRange
    | apply st_setPedal | split

theorem st_beginRequest (s : State) (r : NoteReq) (hP : P.holds s) : P.fst (beginRequest s r) := by
  unfold beginRequest
  with_reducible repeat' first
    | assumption | apply st_ite | apply st_iteFst | apply st_countUp | (refine st_ofPair P (by assumption))
    | (refine st_left P (by assumption) ?_) | split | apply st_iteFst | apply st_pair

theorem st_removePhrase (s : State) (slot : Nat) (hP : P.holds s) : P.holds (removePhrase s slot) := by
  unfold removePhrase
  with_reducible repeat' first
    | assumption | (extract_lets +onlyGivenNames z; refine st_cut (p := P.holds z) ?_ ?_; subst z; rotate_left; intro hz; clear_value z)
    | (extract_lets +onlyGivenNames z; subst z) | apply st_ite | apply st_addRecord | apply st_freePhrase | split | apply Stable.mk_plain

theorem st_allocOp (s : State) (op : AllocOp) (hP : P.holds s) : P.fst (allocOp s op) := by
  unfold allocOp
  with_reducible repeat' first
    | assumption
    | (extract_lets +onlyGivenNames z; refine st_cut (p := P.holds z) ?_ ?_; subst z; rotate_left; intro hz; clear_value z)
    | (extract_lets +onlyGivenNames z; refine st_cut (p := P.fst z) ?_ ?_; subst z; rotate_left; intro hz; clear_value z)
    | (extract_lets +onlyGivenNames z; subst z) | apply st_ite | apply st_iteFst | apply st_partControl | apply st_polyOff
    | apply st_monoOff | apply st_releaseGroup | apply st_removePhrase | apply st_placeStage | apply st_nextAseq | apply st_slotStage
    | apply st_retrigGroup | apply st_beginRequest | apply st_pushNote | apply st_moveVoice | (refine st_ofPair P (by assumption))
    | (refine st_left P (by assumption) ?_) | split | apply st_iteFst | apply st_pair | apply st_proj

theorem st_deferOp (s : State) (op : AllocOp) (hP : P.holds s) : P.holds (deferOp s op) := by
  unfold deferOp
  with_reducible repeat' first | assumption | (extract_lets +onlyGivenNames z; subst z) | apply st_countUp | apply Stable.mk_alloc

theorem st_runOps  (y0 : Nat) (y1 : State) (y2 : List AllocOp) (hP : P.holds y1) : P.holds (runOps  y0 y1 y2) := by
  fun_induction runOps y0 y1 y2 with
  | case1 => exact hP
  | case2 => exact hP
  | case3 n s op rest _ ih => exact ih (st_deferOp P _ _ hP)
  | case4 n s op rest _ t more e _ ih => exact ih (st_deferOp P _ _ hP)
  | case5 n s op rest _ t more e _ ih => exact ih (st_left P e (st_allocOp P s op hP))

theorem st_runOp (s : State) (op : AllocOp) (hP : P.holds s) : P.holds (runOp s op) := by
  unfold runOp
  with_reducible repeat' first | assumption | apply st_runOps

theorem st_showFree (s : State) (hP : P.holds s) : P.holds (showFree s) := by
  unfold showFree
  with_reducible repeat' first | assumption | apply st_wrFld

theorem st_endStep3 (s : State) (hP : P.holds s) : P.holds (endStep3 s) := by
  unfold endStep3
  with_reducible repeat' first
    | assumption
    | (extract_lets +onlyGivenNames z; refine st_cut (p := P.holds z) ?_ ?_; subst z; rotate_left; intro hz; clear_value z)
    | (extract_lets +onlyGivenNames z; refine st_cut (p := P.fst z) ?_ ?_; subst z; rotate_left; intro hz; clear_value z)
    | (extract_lets +onlyGivenNames z; subst z) | apply st_ite | apply st_showFree | apply st_wrFld | refine st_foldl P _ ?_ _ _ ?_
    | refine st_foldlFst P _ ?_ _ _ ?_ | intro t x ht | split | apply Stable.mk_plain | apply Stable.mk_alloc | apply Stable.mk_any
    | (refine ⟨?_, ?_, ?_, ?_, ?_, ⟨?_, ?_, ?_, ?_, ?_, ⟨?_, ?_, ?_, ?_⟩⟩⟩ <;> intro hn <;> first | exact hn | (simp; done) | simp [hn])

theorem st_onVerb (s : State) (v : Nat) (f : VerbSt → VerbSt) (hP : P.holds s) : P.holds (onVerb s v f) := by
  unfold onVerb
  with_reducible repeat' first
    | assumption | apply Stable.mk_any
    | (refine ⟨?_, ?_, ?_, ?_, ?_, ⟨?_, ?_, ?_, ?_, ?_, ⟨?_, ?_, ?_, ?_⟩⟩⟩ <;> intro hn <;> first | exact hn | (simp; done) | simp [hn])

theorem st_onFlow (s : State) (k : FlowKey) (f : WordFrame → WordFrame) (g : EndedWf → EndedWf) (hP : P.holds s) :
    P.holds (onFlow s k f g) := by
  unfold onFlow
  with_reducible repeat' first
    | assumption | (extract_lets +onlyGivenNames z; subst z) | apply Stable.mk_any
    | (refine ⟨?_, ?_, ?_, ?_, ?_, ⟨?_, ?_, ?_, ?_, ?_, ⟨?_, ?_, ?_, ?_⟩⟩⟩ <;> intro hn <;> first | exact hn | (simp; done) | simp [hn])

theorem st_dropReleased (s : State) (hP : P.holds s) : P.holds (dropReleased s) := by
  unfold dropReleased
  with_reducible repeat' first
    | assumption
    | (extract_lets +onlyGivenNames z; refine st_cut (p := P.holds z) ?_ ?_; subst z; rotate_left; intro hz; clear_value z)
    | (extract_lets +onlyGivenNames z; refine st_cut (p := P.fst z) ?_ ?_; subst z; rotate_left; intro hz; clear_value z)
    | (extract_lets +onlyGivenNames z; subst z) | apply st_settled | apply Stable.mk_plain

theorem st_refreshWin (s : State) (hP : P.holds s) : P.holds (refreshWin s) := by
  unfold refreshWin
  with_reducible repeat' first
    | assumption | (extract_lets +onlyGivenNames z; refine st_cut (p := P.holds z) ?_ ?_; subst z; rotate_left; intro hz; clear_value z)
    | apply st_ite | apply st_wrFld

theorem st_applyAlloc (s : State) (frame pos : Nat) (u : Bool × Bool × Option Word) (hP : P.holds s) :
    P.holds (applyAlloc s frame pos u) := by
  unfold applyAlloc
  with_reducible repeat' first
    | assumption | (extract_lets +onlyGivenNames z; refine st_cut (p := P.holds z) ?_ ?_; subst z; rotate_left; intro hz; clear_value z)
    | (extract_lets +onlyGivenNames z; subst z) | apply st_ite | apply st_onPhrase | split

theorem st_drainAlloc  (y0 : Nat) (y1 : State) (hP : P.holds y1) : P.holds (drainAlloc  y0 y1) := by
  induction y0 generalizing y1 with
  | zero => exact hP
  | succ n ih =>
    unfold drainAlloc
    repeat' first
      | with_reducible assumption
      | (extract_lets +onlyGivenNames z; refine st_cut (p := P.holds z) ?_ ?_; subst z; rotate_left; intro hz; clear_value z)
      | (extract_lets +onlyGivenNames z; subst z)
      | with_reducible apply ih
      | with_reducible apply st_ite
      | with_reducible apply st_dropReleased
      | with_reducible apply st_applyAlloc
      | split
      | with_reducible apply Stable.mk_plain
      | exact ⟨id, id, id, id, id, ⟨id, id, id, id, id, ⟨id, id, id, id⟩⟩⟩

theorem st_stageTrace (s : State) (key : FlowKey) (verbs : List Nat) (slot reason : Nat) (bits128 : BitVec 128) (hP : P.holds s) :
    P.holds (stageTrace s key verbs slot reason bits128) := by
  unfold stageTrace
  with_reducible repeat' first
    | assumption
    | (extract_lets +onlyGivenNames z; refine st_cut (p := P.holds z) ?_ ?_; subst z; rotate_left; intro hz; clear_value z)
    | (extract_lets +onlyGivenNames z; refine st_cut (p := P.fst z) ?_ ?_; subst z; rotate_left; intro hz; clear_value z)
    | (extract_lets +onlyGivenNames z; subst z) | apply st_ite | split | apply Stable.mk_plain

theorem st_emitTrace (s : State) (bs : List Byte) (hP : P.holds s) : P.opt (emitTrace s bs) := by
  unfold emitTrace
  with_reducible repeat' first
    | assumption
    | (extract_lets +onlyGivenNames z; refine st_cut (p := P.holds z) ?_ ?_; subst z; rotate_left; intro hz; clear_value z)
    | (extract_lets +onlyGivenNames z; refine st_cut (p := P.fst z) ?_ ?_; subst z; rotate_left; intro hz; clear_value z)
    | (extract_lets +onlyGivenNames z; subst z) | apply st_ite | apply st_iteOpt | apply st_storeBytes | apply st_setFlag
    | apply st_wrFld | apply st_spExport | apply st_countUp | apply st_linkTrace | apply st_getD
    | (refine st_optElim P (by assumption) ?_) | split | apply st_some | exact st_none P

theorem st_putStaged (s : State) (r : BitVec 128) (hP : P.holds s) : P.holds (putStaged s r) := by
  unfold putStaged
  with_reducible repeat' first
    | assumption
    | (extract_lets +onlyGivenNames z; refine st_cut (p := P.holds z) ?_ ?_; subst z; rotate_left; intro hz; clear_value z)
    | (extract_lets +onlyGivenNames z; refine st_cut (p := P.fst z) ?_ ?_; subst z; rotate_left; intro hz; clear_value z)
    | (extract_lets +onlyGivenNames z; subst z) | apply st_ite | apply st_countUp | split | apply Stable.mk_plain

theorem st_passTrace (y0 : Nat) (y1 : State) (hP : P.holds y1) : P.holds (passTrace y0 y1) := by
  induction y0 generalizing y1 with
  | zero => exact hP
  | succ n ih =>
    rw [passTrace.eq_2]
    repeat' first
      | with_reducible assumption | with_reducible apply ih | with_reducible apply st_ite | with_reducible apply st_putStaged | split
      | with_reducible apply Stable.mk_plain

theorem st_drainStaged (y0 : Nat) (y1 : State) (hP : P.holds y1) : P.holds (drainStaged y0 y1) := by
  induction y0 generalizing y1 with
  | zero => exact hP
  | succ n ih =>
    rw [drainStaged.eq_2]
    split
    · exact hP
    · split
      · exact hP
      · rename_i t e
        apply ih
        with_reducible apply Stable.mk_plain
        exact st_emitTrace P _ _ hP _ e

theorem st_drainTrace (s : State) (hP : P.holds s) : P.holds (drainTrace s) := by
  unfold drainTrace
  with_reducible repeat' first | assumption | apply st_drainStaged | apply st_passTrace

theorem st_settleFlows (s : State) (hP : P.holds s) : P.holds (settleFlows s) := by
  unfold settleFlows
  with_reducible repeat' first
    | assumption | apply st_refreshWin | apply st_dropReleased | apply st_drainTrace | apply st_drainAlloc

theorem st_outDrop (s : State) (p : EvPacket) (o : OutEntry) (hP : P.holds s) : P.holds (outDrop s p o) := by
  unfold outDrop
  with_reducible repeat' first | assumption | apply st_raiseGloss | apply st_countUp

theorem st_routeEvent (s : State) (p : EvPacket) (hP : P.holds s) : P.opt (routeEvent s p) := by
  unfold routeEvent
  with_reducible repeat' first
    | assumption
    | (extract_lets +onlyGivenNames z; refine st_cut (p := P.holds z) ?_ ?_; subst z; rotate_left; intro hz; clear_value z)
    | (extract_lets +onlyGivenNames z; refine st_cut (p := P.fst z) ?_ ?_; subst z; rotate_left; intro hz; clear_value z)
    | (extract_lets +onlyGivenNames z; subst z) | apply st_ite | apply st_iteOpt | apply st_offerEvent | apply st_outDrop
    | apply st_spPut | apply st_hostRing | apply st_linkQueue | apply st_getD | (refine st_optElim P (by assumption) ?_) | split
    | apply st_some | exact st_none P

theorem st_keepWev (s : State) (k : FlowKey) (p : EvPacket) (hP : P.holds s) : P.holds (keepWev s k p) := by
  unfold keepWev
  with_reducible repeat' first | assumption | (extract_lets +onlyGivenNames z; subst z) | apply Stable.mk_plain

theorem st_deliverSystem (s : State) (hP : P.holds s) : P.opt (deliverSystem s) := by
  unfold deliverSystem
  split
  · exact st_none P
  · intro t ht
    obtain ⟨u, hu, rfl⟩ := Option.map_eq_some_iff.1 ht
    exact Stable.mk_plain P u _ _ _ _ _ _ _ _ _ _ _ _ _ _ _ _ _ _ _ _ _ (st_routeEvent P _ _ hP u hu)

theorem st_deliverEvent (s : State) (hP : P.holds s) : P.holds (deliverEvent s) := by
  unfold deliverEvent
  with_reducible repeat' first
    | assumption
    | (extract_lets +onlyGivenNames z; refine st_cut (p := P.holds z) ?_ ?_; subst z; rotate_left; intro hz; clear_value z)
    | (extract_lets +onlyGivenNames z; refine st_cut (p := P.fst z) ?_ ?_; subst z; rotate_left; intro hz; clear_value z)
    | (extract_lets +onlyGivenNames z; subst z) | apply st_ite | apply st_settleFlows | apply st_onFlow | apply st_keepWev
    | apply st_routeEvent | apply st_getD | (refine st_optElim P (by assumption) ?_) | split | apply st_proj

theorem st_execEventDeliver (s : State) (hP : P.holds s) : P.out (execEventDeliver s) := by
  unfold execEventDeliver
  with_reducible repeat' first
    | assumption | apply st_deliverSystem | apply st_deliverEvent | apply st_next | (refine st_optElim P (by assumption) ?_) | split

theorem st_onWork (s : State) (frame pos : Nat) (f : Phrase → Phrase) (g : Work → Work) (hP : P.holds s) :
    P.holds (onWork s frame pos f g) := by
  unfold onWork
  with_reducible repeat' first | assumption | apply Stable.mk_plain

theorem st_copyHeld (s : State) (p : Phrase) (x : Syntax) (w : Work) (v : Nat) (e : SynEdge) (hP : P.holds s) :
    P.holds (copyHeld s p x w v e) := by
  unfold copyHeld
  with_reducible repeat' first
    | assumption | (extract_lets +onlyGivenNames z; subst z) | apply st_ite | apply st_putWordBytes | apply st_copyWords

theorem st_levelOf (s : State) (p : Phrase) (x : Syntax) (w : Work) (v : Nat) (hP : P.holds s) : P.fst (levelOf s p x w v) := by
  unfold levelOf
  with_reducible repeat' first
    | assumption
    | (extract_lets +onlyGivenNames z; refine st_cut (p := P.holds z) ?_ ?_; subst z; rotate_left; intro hz; clear_value z)
    | (extract_lets +onlyGivenNames z; refine st_cut (p := P.fst z) ?_ ?_; subst z; rotate_left; intro hz; clear_value z)
    | (extract_lets +onlyGivenNames z; subst z) | apply st_ite | apply st_iteFst | apply st_memLoad
    | (refine st_ofPair P (by assumption)) | (refine st_left P (by assumption) ?_) | split | apply st_iteFst | apply st_pair
    | apply st_proj

theorem st_endPhraseFrame (s : State) (p : Phrase) (w : Work) (last : Nat) (yielded : Bool) (hP : P.holds s) :
    P.holds (endPhraseFrame s p w last yielded) := by
  unfold endPhraseFrame
  with_reducible repeat' first
    | assumption
    | (extract_lets +onlyGivenNames z; refine st_cut (p := P.holds z) ?_ ?_; subst z; rotate_left; intro hz; clear_value z)
    | (extract_lets +onlyGivenNames z; refine st_cut (p := P.fst z) ?_ ?_; subst z; rotate_left; intro hz; clear_value z)
    | (extract_lets +onlyGivenNames z; subst z) | apply st_ite | apply st_copyHeld | apply st_levelOf | refine st_foldl P _ ?_ _ _ ?_
    | refine st_foldlFst P _ ?_ _ _ ?_ | intro t x ht | (refine st_ofPair P (by assumption)) | (refine st_left P (by assumption) ?_)
    | split | apply st_iteFst | apply st_pair | apply st_proj | apply Stable.mk_plain | apply Stable.mk_alloc | apply Stable.mk_any
    | (refine ⟨?_, ?_, ?_, ?_, ?_, ⟨?_, ?_, ?_, ?_, ?_, ⟨?_, ?_, ?_, ?_⟩⟩⟩ <;> intro hn <;> first | exact hn | (simp; done) | simp [hn])

theorem st_wordEnded (s : State) (frame pos widx : Nat) (done carry aborted : Bool) (hP : P.holds s) :
    P.holds (wordEnded s frame pos widx done carry aborted) := by
  unfold wordEnded
  with_reducible repeat' first
    | assumption
    | (extract_lets +onlyGivenNames z; refine st_cut (p := P.holds z) ?_ ?_; subst z; rotate_left; intro hz; clear_value z)
    | (extract_lets +onlyGivenNames z; refine st_cut (p := P.fst z) ?_ ?_; subst z; rotate_left; intro hz; clear_value z)
    | (extract_lets +onlyGivenNames z; subst z) | apply st_ite | apply st_onWork | apply st_endPhraseFrame | split

theorem st_noteFirst (s : State) (v : Nat) (hP : P.holds s) : P.holds (noteFirst s v) := by
  unfold noteFirst
  with_reducible repeat' first
    | assumption
    | (extract_lets +onlyGivenNames z; refine st_cut (p := P.holds z) ?_ ?_; subst z; rotate_left; intro hz; clear_value z)
    | (extract_lets +onlyGivenNames z; refine st_cut (p := P.fst z) ?_ ?_; subst z; rotate_left; intro hz; clear_value z)
    | (extract_lets +onlyGivenNames z; subst z) | apply st_ite | apply st_onVerb | split

theorem st_handover (s : State) (v : Nat) (hP : P.holds s) : P.holds (handover s v) := by
  unfold handover
  with_reducible repeat' first | assumption | apply st_onVerb

theorem st_endWordFrame (s : State) (v : Nat) (done carry aborted : Bool) (hP : P.holds s) :
    P.holds (endWordFrame s v done carry aborted) := by
  unfold endWordFrame
  with_reducible repeat' first
    | assumption
    | (extract_lets +onlyGivenNames z; refine st_cut (p := P.holds z) ?_ ?_; subst z; rotate_left; intro hz; clear_value z)
    | (extract_lets +onlyGivenNames z; refine st_cut (p := P.fst z) ?_ ?_; subst z; rotate_left; intro hz; clear_value z)
    | (extract_lets +onlyGivenNames z; subst z) | apply st_ite | apply st_raiseGloss | apply st_stageTrace | apply st_handover
    | apply st_settleFlows | apply st_noteFirst | apply st_wordEnded | split | apply Stable.mk_plain | apply Stable.mk_alloc
    | apply Stable.mk_any
    | (refine ⟨?_, ?_, ?_, ?_, ?_, ⟨?_, ?_, ?_, ?_, ?_, ⟨?_, ?_, ?_, ?_⟩⟩⟩ <;> intro hn <;> first | exact hn | (simp; done) | simp [hn])

theorem st_recordFault (s : State) (v code : Nat) (w : WordFrame) (pc : Nat) (hP : P.holds s) : P.holds (recordFault s v code w pc) := by
  unfold recordFault
  with_reducible repeat' first
    | assumption | (extract_lets +onlyGivenNames z; subst z) | apply st_ite | apply st_setFlag | apply st_wr

theorem st_triggerRecovery (s : State) (mask : Nat) (hP : P.holds s) : P.holds (triggerRecovery s mask) := by
  unfold triggerRecovery
  with_reducible repeat' first
    | assumption | (extract_lets +onlyGivenNames z; refine st_cut (p := P.holds z) ?_ ?_; subst z; rotate_left; intro hz; clear_value z)
    | (extract_lets +onlyGivenNames z; subst z) | apply st_ite | apply st_drawFree | apply st_raiseGloss | apply st_proj
    | apply Stable.mk_any
    | (refine ⟨?_, ?_, ?_, ?_, ?_, ⟨?_, ?_, ?_, ?_, ?_, ⟨?_, ?_, ?_, ?_⟩⟩⟩ <;> intro hn <;> first | exact hn | (simp; done) | simp [hn])

theorem st_logAbort (s : State) (v code : Nat) (w : WordFrame) (pc : Nat) (hP : P.holds s) :
    P.holds (logAbort s v code w pc) := by
  unfold logAbort
  with_reducible repeat' first | assumption | apply st_raiseGloss

theorem st_setBank (s : State) (v : Nat) (b : VerbBank) (hP : P.holds s) : P.holds (setBank s v b) := by
  unfold setBank
  with_reducible repeat' first | assumption | apply st_onVerb

theorem st_setBankAt (s : State) (v : Nat) (other : Bool) (b : VerbBank) (hP : P.holds s) : P.holds (setBankAt s v other b) := by
  unfold setBankAt
  with_reducible repeat' first | assumption | apply st_ite | apply st_onVerb | apply st_setBank | split

theorem st_overCheckAt (s : State) (v : Nat) (other : Bool) (hP : P.holds s) : P.holds (overCheckAt s v other) := by
  unfold overCheckAt
  with_reducible repeat' first
    | assumption
    | (extract_lets +onlyGivenNames z; refine st_cut (p := P.holds z) ?_ ?_; subst z; rotate_left; intro hz; clear_value z)
    | (extract_lets +onlyGivenNames z; refine st_cut (p := P.fst z) ?_ ?_; subst z; rotate_left; intro hz; clear_value z)
    | (extract_lets +onlyGivenNames z; subst z) | apply st_ite | apply st_setBankAt | apply st_raiseGloss | apply st_countUp | split

theorem st_overCheck (s : State) (v : Nat) (hP : P.holds s) : P.holds (overCheck s v) := by
  unfold overCheck
  with_reducible repeat' first | assumption | apply st_overCheckAt

theorem st_abortFrame (s : State) (v code : Nat) (hP : P.holds s) : P.holds (abortFrame s v code) := by
  unfold abortFrame
  with_reducible repeat' first
    | assumption
    | (extract_lets +onlyGivenNames z; refine st_cut (p := P.holds z) ?_ ?_; subst z; rotate_left; intro hz; clear_value z)
    | (extract_lets +onlyGivenNames z; refine st_cut (p := P.fst z) ?_ ?_; subst z; rotate_left; intro hz; clear_value z)
    | (extract_lets +onlyGivenNames z; subst z) | apply st_ite | apply st_overCheck | apply st_recordFault | apply st_triggerRecovery
    | apply st_logAbort | apply st_voidFrame | apply st_divergeWork | apply st_endWordFrame | split

theorem st_drawLatency (s : State) (bound : Nat) (hP : P.holds s) : P.fst (drawLatency s bound) := by
  unfold drawLatency
  with_reducible repeat' first | assumption | apply st_pair | apply Stable.mk_plain

theorem st_sharedValue (s : State) (v : Nat) (w : WordFrame) (l : SharedLoad) (hP : P.holds s) : P.fst (sharedValue s v w l) := by
  unfold sharedValue
  with_reducible repeat' first
    | assumption
    | (extract_lets +onlyGivenNames z; refine st_cut (p := P.holds z) ?_ ?_; subst z; rotate_left; intro hz; clear_value z)
    | (extract_lets +onlyGivenNames z; refine st_cut (p := P.fst z) ?_ ?_; subst z; rotate_left; intro hz; clear_value z)
    | (extract_lets +onlyGivenNames z; subst z) | apply st_memLoad | (refine st_ofPair P (by assumption))
    | (refine st_left P (by assumption) ?_) | split | apply st_iteFst | apply st_pair | apply st_proj

theorem st_deliverLoad (s : State) (v : Nat) (other : Bool) (hP : P.holds s) : P.holds (deliverLoad s v other) := by
  unfold deliverLoad
  with_reducible repeat' first
    | assumption
    | (extract_lets +onlyGivenNames z; refine st_cut (p := P.holds z) ?_ ?_; subst z; rotate_left; intro hz; clear_value z)
    | (extract_lets +onlyGivenNames z; refine st_cut (p := P.fst z) ?_ ?_; subst z; rotate_left; intro hz; clear_value z)
    | (extract_lets +onlyGivenNames z; subst z) | apply st_sharedValue | apply st_setBankAt | (refine st_ofPair P (by assumption))
    | (refine st_left P (by assumption) ?_) | split | apply st_iteFst | apply st_pair | apply st_proj

theorem st_awaitLoads (v : Nat) (regs : List Nat) (y0 : Nat) (y1 : State) (y2 : Nat) (hP : P.holds y1) :
    P.fst (awaitLoads v regs y0 y1 y2) := by
  induction y0 generalizing y1 y2 with
  | zero => exact hP
  | succ n ih =>
    rw [awaitLoads.eq_2]
    split
    · exact hP
    · split
      · exact ih _ _ (st_deliverLoad P _ _ _ (st_drawLatency P _ 30 hP))
      · exact hP

theorem st_localLoad (s : State) (v : Nat) (useB : Bool) (w : WordFrame) (a size : Nat) (hP : P.holds s) :
    P.fst (localLoad s v useB w a size) := by
  rw [localLoad.eq_1]
  have h := st_memLoad P s (16 + v) (localAddr v a) size hP
  generalize memLoad s (16 + v) (localAddr v a) size = r at h
  with_reducible apply st_iteFst
  · exact st_drawFree P _ (st_drawFree P _ h)
  · exact h

theorem st_doMove (s : State) (v : Nat) (b0 : VerbBank) (m : MoveField) (t : Nat) (hP : P.holds s) :
    P.fst (doMove s v b0 m t) := by
  unfold doMove
  with_reducible repeat' first
    | assumption
    | (extract_lets +onlyGivenNames z; refine st_cut (p := P.holds z) ?_ ?_; subst z; rotate_left; intro hz; clear_value z)
    | (extract_lets +onlyGivenNames z; refine st_cut (p := P.fst z) ?_ ?_; subst z; rotate_left; intro hz; clear_value z)
    | (extract_lets +onlyGivenNames z; subst z) | apply st_ite | apply st_iteFst | apply st_setBank | apply st_memStore
    | apply st_localLoad | (refine st_ofPair P (by assumption)) | (refine st_left P (by assumption) ?_) | split | apply st_iteFst
    | apply st_pair | apply st_proj

theorem st_lexSample (s : State) (v : Nat) (a fmt : Nat) (hP : P.holds s) : P.fst (lexSample s v a fmt) := by
  unfold lexSample
  with_reducible repeat' first
    | assumption
    | (extract_lets +onlyGivenNames z; refine st_cut (p := P.holds z) ?_ ?_; subst z; rotate_left; intro hz; clear_value z)
    | (extract_lets +onlyGivenNames z; refine st_cut (p := P.fst z) ?_ ?_; subst z; rotate_left; intro hz; clear_value z)
    | (extract_lets +onlyGivenNames z; subst z) | apply st_ite | apply st_iteFst | apply st_memLoad
    | (refine st_ofPair P (by assumption)) | (refine st_left P (by assumption) ?_) | split | apply st_iteFst | apply st_pair
    | apply st_proj

theorem st_missBlock (s : State) (frame : Nat) (hP : P.holds s) : P.holds (missBlock s frame) := by
  unfold missBlock
  with_reducible repeat' first
    | assumption
    | (extract_lets +onlyGivenNames z; refine st_cut (p := P.holds z) ?_ ?_; subst z; rotate_left; intro hz; clear_value z)
    | (extract_lets +onlyGivenNames z; refine st_cut (p := P.fst z) ?_ ?_; subst z; rotate_left; intro hz; clear_value z)
    | (extract_lets +onlyGivenNames z; subst z) | apply st_ite | split | apply Stable.mk_plain

theorem st_tableSample (s : State) (v frame base : Nat) (a : Int) (fmt : Nat) (hP : P.holds s) :
    P.fst (tableSample s v frame base a fmt) := by
  unfold tableSample
  with_reducible repeat' first
    | assumption | apply st_lexSample | apply st_missBlock | (refine st_ofPair P (by assumption))
    | (refine st_left P (by assumption) ?_) | split | apply st_iteFst | apply st_pair

theorem st_tableResults (s : State) (v frame : Nat) (r : TableReq) (hP : P.holds s) : P.fst (tableResults s v frame r) := by
  unfold tableResults
  with_reducible repeat' first
    | assumption
    | (extract_lets +onlyGivenNames z; refine st_cut (p := P.holds z) ?_ ?_; subst z; rotate_left; intro hz; clear_value z)
    | (extract_lets +onlyGivenNames z; refine st_cut (p := P.fst z) ?_ ?_; subst z; rotate_left; intro hz; clear_value z)
    | (extract_lets +onlyGivenNames z; subst z) | apply st_tableSample | refine st_foldl P _ ?_ _ _ ?_
    | refine st_foldlFst P _ ?_ _ _ ?_ | intro t x ht | (refine st_ofPair P (by assumption)) | (refine st_left P (by assumption) ?_)
    | split | apply st_iteFst | apply st_pair | apply st_proj

theorem st_noteStream (s : State) (wf : Option WordFrame) (r : TableReq) (hP : P.holds s) : P.holds (noteStream s wf r) := by
  unfold noteStream
  with_reducible repeat' first
    | assumption
    | (extract_lets +onlyGivenNames z; refine st_cut (p := P.holds z) ?_ ?_; subst z; rotate_left; intro hz; clear_value z)
    | (extract_lets +onlyGivenNames z; refine st_cut (p := P.fst z) ?_ ?_; subst z; rotate_left; intro hz; clear_value z)
    | (extract_lets +onlyGivenNames z; subst z) | split | apply st_proj | apply Stable.mk_plain

theorem st_deliverTable (s : State) (v : Nat) (other : Bool) (hP : P.holds s) : P.holds (deliverTable s v other) := by
  unfold deliverTable
  with_reducible repeat' first
    | assumption
    | (extract_lets +onlyGivenNames z; refine st_cut (p := P.holds z) ?_ ?_; subst z; rotate_left; intro hz; clear_value z)
    | (extract_lets +onlyGivenNames z; refine st_cut (p := P.fst z) ?_ ?_; subst z; rotate_left; intro hz; clear_value z)
    | (extract_lets +onlyGivenNames z; subst z) | apply st_tableResults | apply st_noteStream | apply st_setBankAt
    | (refine st_ofPair P (by assumption)) | (refine st_left P (by assumption) ?_) | split | apply st_iteFst | apply st_pair
    | apply st_proj

theorem st_noteSent (s : State) (m : MixItem) (hP : P.holds s) : P.holds (noteSent s m) := by
  unfold noteSent
  with_reducible repeat' first | assumption | apply st_ite | apply st_onFlow | split

theorem st_mixApply (s : State) (m : MixItem) (hP : P.holds s) : P.holds (mixApply s m) := by
  unfold mixApply
  with_reducible repeat' first
    | assumption
    | (extract_lets +onlyGivenNames z; refine st_cut (p := P.holds z) ?_ ?_; subst z; rotate_left; intro hz; clear_value z)
    | (extract_lets +onlyGivenNames z; refine st_cut (p := P.fst z) ?_ ?_; subst z; rotate_left; intro hz; clear_value z)
    | (extract_lets +onlyGivenNames z; subst z) | apply st_ite | apply st_countUp | apply st_noteSent | apply st_memAdd
    | apply st_addFeeds | split

theorem st_drainMixOne (s : State) (v : Nat) (hP : P.holds s) : P.holds (drainMixOne s v) := by
  unfold drainMixOne
  with_reducible repeat' first | assumption | apply st_mixApply | apply st_onVerb | split

theorem st_queueSend (s : State) (v : Nat) (m : MixItem) (hP : P.holds s) : P.holds (queueSend s v m) := by
  unfold queueSend
  with_reducible repeat' first | assumption | apply st_onVerb

theorem st_awaitMix (s : State) (v n t : Nat) (hP : P.holds s) : P.fst (awaitMix s v n t) := by
  unfold awaitMix
  with_reducible repeat' first
    | assumption
    | (extract_lets +onlyGivenNames z; refine st_cut (p := P.holds z) ?_ ?_; subst z; rotate_left; intro hz; clear_value z)
    | (extract_lets +onlyGivenNames z; refine st_cut (p := P.fst z) ?_ ?_; subst z; rotate_left; intro hz; clear_value z)
    | (extract_lets +onlyGivenNames z; subst z) | apply st_ite | apply st_iteFst | apply st_drawLatency | apply st_drainMixOne
    | refine st_foldl P _ ?_ _ _ ?_ | refine st_foldlFst P _ ?_ _ _ ?_ | intro t x ht | (refine st_ofPair P (by assumption))
    | (refine st_left P (by assumption) ?_) | split | apply st_iteFst | apply st_pair | apply st_proj

theorem st_packetAt (s : State) (v : Nat) (w : WordFrame) (addr : Word) (hP : P.holds s) : P.fst (packetAt s v w addr) := by
  unfold packetAt
  with_reducible repeat' first
    | assumption
    | (extract_lets +onlyGivenNames z; refine st_cut (p := P.holds z) ?_ ?_; subst z; rotate_left; intro hz; clear_value z)
    | (extract_lets +onlyGivenNames z; refine st_cut (p := P.fst z) ?_ ?_; subst z; rotate_left; intro hz; clear_value z)
    | (extract_lets +onlyGivenNames z; subst z) | apply st_localLoad | (refine st_ofPair P (by assumption))
    | (refine st_left P (by assumption) ?_) | apply st_iteFst | apply st_pair | apply st_proj

theorem st_postEvent (s : State) (v : Nat) (addr : Word) (hP : P.holds s) : P.fst (postEvent s v addr) := by
  unfold postEvent
  with_reducible repeat' first
    | assumption
    | (extract_lets +onlyGivenNames z; refine st_cut (p := P.holds z) ?_ ?_; subst z; rotate_left; intro hz; clear_value z)
    | (extract_lets +onlyGivenNames z; refine st_cut (p := P.fst z) ?_ ?_; subst z; rotate_left; intro hz; clear_value z)
    | (extract_lets +onlyGivenNames z; subst z) | apply st_ite | apply st_iteFst | apply st_setBank | apply st_packetAt
    | (refine st_ofPair P (by assumption)) | (refine st_left P (by assumption) ?_) | split | apply st_iteFst | apply st_pair
    | apply st_proj

theorem st_poisonedPacket (s : State) (v : Nat) (w : WordFrame) (b0 : VerbBank) (i : VInstr) (hP : P.holds s) :
    P.opt (poisonedPacket s v w b0 i) := by
  unfold poisonedPacket
  with_reducible repeat' first
    | assumption
    | (extract_lets +onlyGivenNames z; refine st_cut (p := P.holds z) ?_ ?_; subst z; rotate_left; intro hz; clear_value z)
    | (extract_lets +onlyGivenNames z; refine st_cut (p := P.fst z) ?_ ?_; subst z; rotate_left; intro hz; clear_value z)
    | (extract_lets +onlyGivenNames z; subst z) | apply st_ite | apply st_iteOpt | apply st_packetAt
    | (refine st_ofPair P (by assumption)) | (refine st_left P (by assumption) ?_) | split | apply st_iteFst | apply st_pair
    | apply st_some | exact st_none P | apply st_proj

theorem st_spend (s : State) (v t : Nat) (hP : P.holds s) : P.holds (spend s v t) := by
  unfold spend
  with_reducible repeat' first | assumption | (extract_lets +onlyGivenNames z; subst z) | apply st_setBank

theorem st_operate (s : State) (v : Nat) (b0 : VerbBank) (i : VInstr) (t : Nat) (hP : P.holds s) :
    P.fst (operate s v b0 i t) := by
  unfold operate
  with_reducible repeat' first
    | assumption
    | (extract_lets +onlyGivenNames z; refine st_cut (p := P.holds z) ?_ ?_; subst z; rotate_left; intro hz; clear_value z)
    | (extract_lets +onlyGivenNames z; refine st_cut (p := P.fst z) ?_ ?_; subst z; rotate_left; intro hz; clear_value z)
    | (extract_lets +onlyGivenNames z; subst z) | apply st_ite | apply st_iteFst | apply st_setBank | apply st_writeReg
    | apply st_queueSend | apply st_postEvent | (refine st_ofPair P (by assumption)) | (refine st_left P (by assumption) ?_) | split
    | apply st_iteFst | apply st_pair | apply st_proj

theorem st_awaitRoom (s : State) (v : Nat) (loads t : Nat) (hP : P.holds s) : P.fst (awaitRoom s v loads t) := by
  unfold awaitRoom
  with_reducible repeat' first
    | assumption
    | (extract_lets +onlyGivenNames z; refine st_cut (p := P.holds z) ?_ ?_; subst z; rotate_left; intro hz; clear_value z)
    | (extract_lets +onlyGivenNames z; refine st_cut (p := P.fst z) ?_ ?_; subst z; rotate_left; intro hz; clear_value z)
    | (extract_lets +onlyGivenNames z; subst z) | apply st_ite | apply st_iteFst | apply st_drawLatency | apply st_deliverLoad
    | (refine st_ofPair P (by assumption)) | (refine st_left P (by assumption) ?_) | split | apply st_iteFst | apply st_pair
    | apply st_proj

theorem st_awaitTable (s : State) (v : Nat) (i : VInstr) (t : Nat) (hP : P.holds s) : P.fst (awaitTable s v i t) := by
  unfold awaitTable
  with_reducible repeat' first
    | assumption
    | (extract_lets +onlyGivenNames z; refine st_cut (p := P.holds z) ?_ ?_; subst z; rotate_left; intro hz; clear_value z)
    | (extract_lets +onlyGivenNames z; refine st_cut (p := P.fst z) ?_ ?_; subst z; rotate_left; intro hz; clear_value z)
    | (extract_lets +onlyGivenNames z; subst z) | apply st_ite | apply st_iteFst | apply st_drawLatency | apply st_deliverTable
    | (refine st_ofPair P (by assumption)) | (refine st_left P (by assumption) ?_) | split | apply st_iteFst | apply st_pair
    | apply st_proj

theorem st_exitFrame (s : State) (v : Nat) (hP : P.holds s) : P.holds (exitFrame s v) := by
  unfold exitFrame
  with_reducible repeat' first
    | assumption
    | (extract_lets +onlyGivenNames z; refine st_cut (p := P.holds z) ?_ ?_; subst z; rotate_left; intro hz; clear_value z)
    | (extract_lets +onlyGivenNames z; refine st_cut (p := P.fst z) ?_ ?_; subst z; rotate_left; intro hz; clear_value z)
    | (extract_lets +onlyGivenNames z; subst z) | apply st_ite | apply st_awaitLoads | apply st_setBank | apply st_overCheck
    | apply st_abortFrame | apply st_endWordFrame | (refine st_ofPair P (by assumption)) | (refine st_left P (by assumption) ?_)
    | split | apply st_iteFst | apply st_pair | apply st_proj

theorem st_issueAlways (s : State) (v : Nat) (i : VInstr) (hP : P.holds s) : P.holds (issueAlways s v i) := by
  unfold issueAlways
  with_reducible repeat' first
    | assumption
    | (extract_lets +onlyGivenNames z; refine st_cut (p := P.holds z) ?_ ?_; subst z; rotate_left; intro hz; clear_value z)
    | (extract_lets +onlyGivenNames z; refine st_cut (p := P.fst z) ?_ ?_; subst z; rotate_left; intro hz; clear_value z)
    | (extract_lets +onlyGivenNames z; subst z) | apply st_ite | apply st_awaitLoads | apply st_setBank | apply st_spend
    | apply st_awaitRoom | apply st_awaitTable | apply st_awaitMix | apply st_overCheck | apply st_abortFrame
    | apply st_poisonedPacket | apply st_doMove | apply st_operate | apply st_exitFrame | (refine st_ofPair P (by assumption))
    | (refine st_left P (by assumption) ?_) | apply st_getD | (refine st_optElim P (by assumption) ?_) | split | apply st_iteFst
    | apply st_pair | apply st_proj

theorem st_issue (s : State) (v : Nat) (i : VInstr) (hP : P.holds s) : P.holds (issue s v i) := by
  unfold issue
  with_reducible repeat' first
    | assumption | (extract_lets +onlyGivenNames z; refine st_cut (p := P.holds z) ?_ ?_; subst z; rotate_left; intro hz; clear_value z)
    | apply st_ite | apply st_overCheck | apply st_abortFrame | apply st_issueAlways

theorem st_readEarlier (v : Nat) (other : Bool) (w : WordFrame) (x : PostedStore) (s : State) (i : Nat) (hP : P.holds s) :
    P.holds (readEarlier v other w x s i) := by
  unfold readEarlier
  with_reducible repeat' first
    | assumption
    | (extract_lets +onlyGivenNames z; refine st_cut (p := P.holds z) ?_ ?_; subst z; rotate_left; intro hz; clear_value z)
    | (extract_lets +onlyGivenNames z; refine st_cut (p := P.fst z) ?_ ?_; subst z; rotate_left; intro hz; clear_value z)
    | (extract_lets +onlyGivenNames z; subst z) | apply st_ite | apply st_sharedValue | apply st_setBankAt
    | (refine st_ofPair P (by assumption)) | (refine st_left P (by assumption) ?_) | split | apply st_iteFst | apply st_pair
    | apply st_proj

theorem st_readBank (k : FlowKey) (x : PostedStore) (s : State) (v : Nat) (other : Bool) (hP : P.holds s) :
    P.holds (readBank k x s v other) := by
  unfold readBank
  with_reducible repeat' first
    | assumption | apply st_ite | apply st_readEarlier | refine st_foldl P _ ?_ _ _ ?_ | refine st_foldlFst P _ ?_ _ _ ?_
    | intro t x ht | split

theorem st_readLoads (s : State) (k : FlowKey) (x : PostedStore) (hP : P.holds s) : P.holds (readLoads s k x) := by
  unfold readLoads
  with_reducible repeat' first
    | assumption | apply st_readBank | refine st_foldl P _ ?_ _ _ ?_ | refine st_foldlFst P _ ?_ _ _ ?_ | intro t x ht

theorem st_execStoreDeliver (s : State) (hP : P.holds s) : P.out (execStoreDeliver s) := by
  unfold execStoreDeliver
  with_reducible repeat' first
    | assumption
    | (extract_lets +onlyGivenNames z; refine st_cut (p := P.holds z) ?_ ?_; subst z; rotate_left; intro hz; clear_value z)
    | (extract_lets +onlyGivenNames z; refine st_cut (p := P.fst z) ?_ ?_; subst z; rotate_left; intro hz; clear_value z)
    | (extract_lets +onlyGivenNames z; subst z) | apply st_memStore | apply st_readLoads | apply st_settleFlows | apply st_onFlow
    | split | apply st_next

theorem st_outputDesc (s : State) (p : Phrase) (x : Syntax) (w q nout : Nat) (hP : P.holds s) : P.fst (outputDesc s p x w q nout) := by
  unfold outputDesc
  with_reducible repeat' first
    | assumption | apply st_iteFst | apply st_drawFree | (refine st_left P (by assumption) ?_) | split | apply st_pair

theorem st_outputDescs (p : Phrase) (x : Syntax) (w nout : Nat) (s : State) (hP : P.holds s) : P.fst (outputDescs p x w nout s) := by
  unfold outputDescs
  with_reducible repeat' first
    | assumption | apply st_outputDesc | refine st_foldlFst P _ ?_ _ _ ?_ | intro t x ht | (refine st_ofPair P (by assumption))
    | (refine st_left P (by assumption) ?_) | split | apply st_pair

theorem st_writeFeed (s : State) (p : Phrase) (x : Syntax) (frame v n : Nat) (hP : P.holds s) :
    P.holds (writeFeed s p x frame v n) := by
  unfold writeFeed
  with_reducible repeat' first
    | assumption
    | (extract_lets +onlyGivenNames z; refine st_cut (p := P.holds z) ?_ ?_; subst z; rotate_left; intro hz; clear_value z)
    | (extract_lets +onlyGivenNames z; refine st_cut (p := P.fst z) ?_ ?_; subst z; rotate_left; intro hz; clear_value z)
    | (extract_lets +onlyGivenNames z; subst z) | apply st_ite | apply st_memLoad | apply st_setFlag | apply st_diverge
    | apply st_voidFrame | apply st_memStore | refine st_foldl P _ ?_ _ _ ?_ | refine st_foldlFst P _ ?_ _ _ ?_ | intro t x ht
    | (refine st_ofPair P (by assumption)) | (refine st_left P (by assumption) ?_) | split | apply st_iteFst | apply st_pair
    | apply st_proj

theorem st_reserveSlots (s : State) (p : Phrase) (x : Syntax) (frame v : Nat) (hP : P.holds s) :
    P.holds (reserveSlots s p x frame v) := by
  unfold reserveSlots
  with_reducible repeat' first
    | assumption | (extract_lets +onlyGivenNames z; refine st_cut (p := P.holds z) ?_ ?_; subst z; rotate_left; intro hz; clear_value z)
    | (extract_lets +onlyGivenNames z; subst z) | apply st_ite | apply st_onPhrase | apply st_writeFeed | refine st_foldl P _ ?_ _ _ ?_
    | intro t x ht | split

theorem st_setStand (s : State) (pos w : Nat) (z : Option Int) (hP : P.holds s) : P.holds (setStand s pos w z) := by
  unfold setStand
  with_reducible repeat' first
    | assumption
    | (extract_lets +onlyGivenNames z; refine st_cut (p := P.holds z) ?_ ?_; subst z; rotate_left; intro hz; clear_value z)
    | (extract_lets +onlyGivenNames z; refine st_cut (p := P.fst z) ?_ ?_; subst z; rotate_left; intro hz; clear_value z)
    | (extract_lets +onlyGivenNames z; subst z) | apply st_onPhrase | split | apply st_proj

theorem st_takeRef (pos w typ : Nat) (s : State) (z : Int) (hP : P.holds s) : P.holds (takeRef pos w typ s z) := by
  unfold takeRef
  with_reducible repeat' first
    | assumption
    | (extract_lets +onlyGivenNames z; refine st_cut (p := P.holds z) ?_ ?_; subst z; rotate_left; intro hz; clear_value z)
    | (extract_lets +onlyGivenNames z; refine st_cut (p := P.fst z) ?_ ?_; subst z; rotate_left; intro hz; clear_value z)
    | (extract_lets +onlyGivenNames z; subst z) | apply st_ite | apply st_setStand | apply st_raiseGloss | split

theorem st_takeDelay (s : State) (pos w : Nat) (past : Bool) (hP : P.holds s) : P.holds (takeDelay s pos w past) := by
  unfold takeDelay
  with_reducible repeat' first
    | assumption
    | (extract_lets +onlyGivenNames z; refine st_cut (p := P.holds z) ?_ ?_; subst z; rotate_left; intro hz; clear_value z)
    | (extract_lets +onlyGivenNames z; refine st_cut (p := P.fst z) ?_ ?_; subst z; rotate_left; intro hz; clear_value z)
    | (extract_lets +onlyGivenNames z; subst z) | apply st_ite | apply st_drawFree | apply st_setStand | apply st_raiseGloss
    | (refine st_ofPair P (by assumption)) | (refine st_left P (by assumption) ?_) | split | apply st_iteFst | apply st_pair
    | apply st_proj

theorem st_takeRefs (s : State) (v : Nat) (p : Phrase) (x : Syntax) (k : Work) (w : Nat) (sw : SynWord) (hP : P.holds s) :
    P.holds (takeRefs s v p x k w sw) := by
  unfold takeRefs
  with_reducible repeat' first
    | assumption
    | (extract_lets +onlyGivenNames z; refine st_cut (p := P.holds z) ?_ ?_; subst z; rotate_left; intro hz; clear_value z)
    | (extract_lets +onlyGivenNames z; refine st_cut (p := P.fst z) ?_ ?_; subst z; rotate_left; intro hz; clear_value z)
    | (extract_lets +onlyGivenNames z; subst z) | apply st_ite | apply st_setStand | apply st_takeDelay | apply st_takeRef
    | refine st_foldl P _ ?_ _ _ ?_ | refine st_foldlFst P _ ?_ _ _ ?_ | intro t x ht | split

theorem st_loadBank (s : State) (v : Nat) (p0 : Phrase) (k : Work) (useB isPre : Bool) (reason : Nat) (hP : P.holds s) :
    P.holds (loadBank s v p0 k useB isPre reason) := by
  unfold loadBank
  with_reducible repeat' first
    | assumption
    | (extract_lets +onlyGivenNames z; refine st_cut (p := P.holds z) ?_ ?_; subst z; rotate_left; intro hz; clear_value z)
    | (extract_lets +onlyGivenNames z; refine st_cut (p := P.fst z) ?_ ?_; subst z; rotate_left; intro hz; clear_value z)
    | (extract_lets +onlyGivenNames z; subst z) | apply st_ite | apply st_onWork | apply st_writeWork | apply st_reserveSlots
    | apply st_takeRefs | apply st_outputDescs | apply st_putWordBytes | apply st_storeBytes | apply st_onVerb
    | (refine st_ofPair P (by assumption)) | (refine st_left P (by assumption) ?_) | split | apply st_iteFst | apply st_pair
    | apply st_proj

theorem st_countStall (s : State) (hP : P.holds s) : P.holds (countStall s) := by
  unfold countStall
  with_reducible repeat' first
    | assumption | (extract_lets +onlyGivenNames z; subst z) | apply st_ite | apply st_countUp | apply Stable.mk_plain

theorem st_dispatch (s : State) (v : Nat) (hP : P.holds s) : P.holds (dispatch s v) := by
  unfold dispatch
  with_reducible repeat' first
    | assumption
    | (extract_lets +onlyGivenNames z; refine st_cut (p := P.holds z) ?_ ?_; subst z; rotate_left; intro hz; clear_value z)
    | (extract_lets +onlyGivenNames z; refine st_cut (p := P.fst z) ?_ ?_; subst z; rotate_left; intro hz; clear_value z)
    | (extract_lets +onlyGivenNames z; subst z) | apply st_ite | apply st_loadBank | apply st_refreshWin | apply st_noteFirst
    | apply st_onVerb | apply st_countStall | split | apply Stable.mk_plain

theorem st_preempt (s : State) (v elapsed : Nat) (hP : P.holds s) : P.holds (preempt s v elapsed) := by
  unfold preempt
  with_reducible repeat' first
    | assumption
    | (extract_lets +onlyGivenNames z; refine st_cut (p := P.holds z) ?_ ?_; subst z; rotate_left; intro hz; clear_value z)
    | (extract_lets +onlyGivenNames z; refine st_cut (p := P.fst z) ?_ ?_; subst z; rotate_left; intro hz; clear_value z)
    | (extract_lets +onlyGivenNames z; subst z) | apply st_ite | apply st_countStall | apply st_onVerb | apply st_loadBank
    | apply st_refreshWin | apply st_countUp | split

theorem st_checkVerb (s : State) (elapsed v : Nat) (hP : P.holds s) : P.holds (checkVerb s elapsed v) := by
  unfold checkVerb
  with_reducible repeat' first
    | assumption | (extract_lets +onlyGivenNames z; refine st_cut (p := P.holds z) ?_ ?_; subst z; rotate_left; intro hz; clear_value z)
    | (extract_lets +onlyGivenNames z; subst z) | apply st_ite | apply st_raiseGloss | apply st_setFlag | apply st_onVerb | split

theorem st_markMove (s : State) (pos d q rate : Nat) (forced : Bool) (hP : P.holds s) :
    P.holds (markMove s pos d q rate forced) := by
  unfold markMove
  with_reducible repeat' first
    | assumption
    | (extract_lets +onlyGivenNames z; refine st_cut (p := P.holds z) ?_ ?_; subst z; rotate_left; intro hz; clear_value z)
    | (extract_lets +onlyGivenNames z; refine st_cut (p := P.fst z) ?_ ?_; subst z; rotate_left; intro hz; clear_value z)
    | (extract_lets +onlyGivenNames z; subst z) | apply st_onPhrase

theorem st_markFlagged (v target q rate : Nat) (y0 : Nat) (y1 : State) (hP : P.holds y1) :
    P.holds (markFlagged v target q rate y0 y1) := by
  induction y0 generalizing v target q rate y1 <;>
  unfold markFlagged
  with_reducible repeat' first | assumption | apply st_ite | apply st_markMove | split | apply_assumption

theorem st_markMoves (s : State) (hP : P.holds s) : P.holds (markMoves s) := by
  unfold markMoves
  with_reducible repeat' first
    | assumption | apply st_onVerb | apply st_markFlagged | refine st_foldl P _ ?_ _ _ ?_ | intro t x ht | split

theorem st_unmark (s : State) (pos : Nat) (hP : P.holds s) : P.holds (unmark s pos) := by
  unfold unmark
  with_reducible repeat' first | assumption | apply st_onPhrase

theorem st_forceMove (s : State) (pos : Nat) (hP : P.holds s) : P.holds (forceMove s pos) := by
  unfold forceMove
  with_reducible repeat' first
    | assumption
    | (extract_lets +onlyGivenNames z; refine st_cut (p := P.holds z) ?_ ?_; subst z; rotate_left; intro hz; clear_value z)
    | (extract_lets +onlyGivenNames z; refine st_cut (p := P.fst z) ?_ ?_; subst z; rotate_left; intro hz; clear_value z)
    | (extract_lets +onlyGivenNames z; subst z) | apply st_ite | apply st_markMove | apply st_unmark | split

theorem st_forceMoves (s : State) (hP : P.holds s) : P.holds (forceMoves s) := by
  unfold forceMoves
  with_reducible repeat' first
    | assumption | apply st_forceMove | refine st_foldl P _ ?_ _ _ ?_ | refine st_foldlFst P _ ?_ _ _ ?_ | intro t x ht

theorem st_roomForMoves (s : State) (hP : P.holds s) : P.holds (roomForMoves s) := by
  unfold roomForMoves
  with_reducible repeat' first
    | assumption | apply st_ite | apply st_makeRoom | refine st_foldl P _ ?_ _ _ ?_ | refine st_foldlFst P _ ?_ _ _ ?_ | intro t x ht
    | split

theorem st_shownRate (s : State) (rate : Nat) (hP : P.holds s) : P.fst (shownRate s rate) := by
  unfold shownRate
  with_reducible repeat' first
    | assumption
    | (extract_lets +onlyGivenNames z; refine st_cut (p := P.holds z) ?_ ?_; subst z; rotate_left; intro hz; clear_value z)
    | (extract_lets +onlyGivenNames z; refine st_cut (p := P.fst z) ?_ ?_; subst z; rotate_left; intro hz; clear_value z)
    | (extract_lets +onlyGivenNames z; subst z) | apply st_ite | apply st_iteFst | apply st_drawFree
    | (refine st_ofPair P (by assumption)) | (refine st_left P (by assumption) ?_) | split | apply st_iteFst | apply st_pair
    | apply st_proj

theorem st_startMove (s : State) (pos : Nat) (hP : P.holds s) : P.holds (startMove s pos) := by
  unfold startMove
  with_reducible repeat' first
    | assumption
    | (extract_lets +onlyGivenNames z; refine st_cut (p := P.holds z) ?_ ?_; subst z; rotate_left; intro hz; clear_value z)
    | (extract_lets +onlyGivenNames z; refine st_cut (p := P.fst z) ?_ ?_; subst z; rotate_left; intro hz; clear_value z)
    | (extract_lets +onlyGivenNames z; subst z) | apply st_ite | apply st_shownRate | apply st_onPhrase | apply st_stageTrace
    | apply st_countUp | (refine st_ofPair P (by assumption)) | (refine st_left P (by assumption) ?_) | split | apply st_iteFst
    | apply st_pair | apply st_proj

theorem st_finishMove (s : State) (pos : Nat) (hP : P.holds s) : P.holds (finishMove s pos) := by
  unfold finishMove
  with_reducible repeat' first
    | assumption | (extract_lets +onlyGivenNames z; refine st_cut (p := P.holds z) ?_ ?_; subst z; rotate_left; intro hz; clear_value z)
    | apply st_ite | apply st_copyWords | apply st_storeBytes | apply st_onPhrase | split

theorem st_passBarrier (s : State) (f : Nat) (hP : P.holds s) : P.holds (passBarrier s f) := by
  unfold passBarrier
  with_reducible repeat' first
    | assumption
    | (extract_lets +onlyGivenNames z; refine st_cut (p := P.holds z) ?_ ?_; subst z; rotate_left; intro hz; clear_value z)
    | (extract_lets +onlyGivenNames z; refine st_cut (p := P.fst z) ?_ ?_; subst z; rotate_left; intro hz; clear_value z)
    | (extract_lets +onlyGivenNames z; subst z) | apply st_ite | apply st_reserveSlots | refine st_foldl P _ ?_ _ _ ?_
    | refine st_foldlFst P _ ?_ _ _ ?_ | intro t x ht | split | apply Stable.mk_plain

theorem st_trySendBarrier (s : State) (hP : P.holds s) : P.holds (trySendBarrier s) := by
  unfold trySendBarrier
  with_reducible repeat' first | assumption | (extract_lets +onlyGivenNames z; subst z) | apply st_ite | apply st_passBarrier

theorem st_onTense (s : State) (f : TenseSt → TenseSt) (hP : P.holds s) : P.holds (onTense s f) := by
  unfold onTense
  with_reducible repeat' first | assumption | apply Stable.mk_plain

theorem st_newPiece (s : State) (p m : DWord) (q : Nat) (hP : P.holds s) : P.holds (newPiece s p m q) := by
  unfold newPiece
  with_reducible repeat' first | assumption | apply st_onTense

theorem st_dropPieces (s : State) (p : DWord) (hP : P.holds s) : P.holds (dropPieces s p) := by
  unfold dropPieces
  with_reducible repeat' first | assumption | (extract_lets +onlyGivenNames z; subst z) | apply st_onTense

theorem st_setTransport (s : State) (t : Nat) (hP : P.holds s) : P.holds (setTransport s t) := by
  unfold setTransport
  with_reducible repeat' first | assumption | apply st_wrFld

theorem st_refreshMstat (s : State) (hP : P.holds s) : P.holds (refreshMstat s) := by
  unfold refreshMstat
  with_reducible repeat' first | assumption | (extract_lets +onlyGivenNames z; subst z) | apply st_wr

theorem st_chasePassed (s : State) (old j : DWord) (hP : P.holds s) : P.holds (chasePassed s old j) := by
  unfold chasePassed
  with_reducible repeat' first
    | assumption | (extract_lets +onlyGivenNames z; refine st_cut (p := P.holds z) ?_ ?_; subst z; rotate_left; intro hz; clear_value z)
    | (extract_lets +onlyGivenNames z; subst z) | apply st_ite | apply st_onTense | apply st_countUpBy | apply st_refreshMstat
    | apply st_raiseGloss

theorem st_jumpTo (s : State) (p j : DWord) (q cause : Nat) (hP : P.holds s) : P.holds (jumpTo s p j q cause) := by
  unfold jumpTo
  with_reducible repeat' first
    | assumption | (extract_lets +onlyGivenNames z; refine st_cut (p := P.holds z) ?_ ?_; subst z; rotate_left; intro hz; clear_value z)
    | (extract_lets +onlyGivenNames z; subst z) | apply st_onTense | apply st_newPiece | apply st_chasePassed | apply st_raiseGloss

theorem st_startFrom (s : State) (p j : DWord) (hP : P.holds s) : P.holds (startFrom s p j) := by
  unfold startFrom
  with_reducible repeat' first
    | assumption | (extract_lets +onlyGivenNames z; refine st_cut (p := P.holds z) ?_ ?_; subst z; rotate_left; intro hz; clear_value z)
    | apply st_ite | apply st_onTense | apply st_newPiece | apply st_setTransport

theorem st_setPosition (s : State) (p j : DWord) (cause : Nat) (hP : P.holds s) : P.holds (setPosition s p j cause) := by
  unfold setPosition
  with_reducible repeat' first | assumption | apply st_newPiece | apply st_onTense | apply st_jumpTo | split

theorem st_transportEvent (s : State) (op : Nat) (value : Nat) (p : DWord) (hP : P.holds s) : P.holds (transportEvent s op value p) := by
  unfold transportEvent
  with_reducible repeat' first
    | assumption | apply st_startFrom | apply st_setPosition | apply st_newPiece | apply st_setTransport | split

theorem st_selectSource (s : State) (src : Nat) (p : DWord) (hP : P.holds s) : P.holds (selectSource s src p) := by
  unfold selectSource
  with_reducible repeat' first
    | assumption
    | (extract_lets +onlyGivenNames z; refine st_cut (p := P.holds z) ?_ ?_; subst z; rotate_left; intro hz; clear_value z)
    | (extract_lets +onlyGivenNames z; refine st_cut (p := P.fst z) ?_ ?_; subst z; rotate_left; intro hz; clear_value z)
    | (extract_lets +onlyGivenNames z; subst z) | apply st_ite | apply st_wrFld | apply st_onTense | apply st_clrFlag
    | apply st_newPiece | split

theorem st_internalTempo (s : State) (tempo : Word) (p : DWord) (hP : P.holds s) : P.holds (internalTempo s tempo p) := by
  unfold internalTempo
  with_reducible repeat' first
    | assumption | (extract_lets +onlyGivenNames z; refine st_cut (p := P.holds z) ?_ ?_; subst z; rotate_left; intro hz; clear_value z)
    | (extract_lets +onlyGivenNames z; subst z) | apply st_ite | apply st_wr | apply st_onTense | apply st_newPiece

theorem st_measure (s : State) (qm : Nat) (hP : P.holds s) : P.holds (Machine.measure s qm) := by
  unfold Machine.measure
  with_reducible repeat' first
    | assumption | (extract_lets +onlyGivenNames z; subst z) | apply st_ite | apply st_countUp | apply st_clrFlag | apply st_onTense

theorem st_correctPhase (s : State) (p target : DWord) (hP : P.holds s) : P.holds (correctPhase s p target) := by
  unfold correctPhase
  with_reducible repeat' first
    | assumption | (extract_lets +onlyGivenNames z; subst z) | apply st_ite | apply st_jumpTo | apply st_newPiece

theorem st_firstPulse (s : State) (p : DWord) (acquire : Nat) (hP : P.holds s) : P.holds (firstPulse s p acquire) := by
  unfold firstPulse
  with_reducible repeat' first
    | assumption | (extract_lets +onlyGivenNames z; refine st_cut (p := P.holds z) ?_ ?_; subst z; rotate_left; intro hz; clear_value z)
    | (extract_lets +onlyGivenNames z; subst z) | apply st_ite | apply st_setFlag | apply st_onTense | apply st_newPiece

theorem st_tempoPulse (s : State) (p : DWord) (hP : P.holds s) : P.holds (tempoPulse s p) := by
  unfold tempoPulse
  with_reducible repeat' first
    | assumption | (extract_lets +onlyGivenNames z; refine st_cut (p := P.holds z) ?_ ?_; subst z; rotate_left; intro hz; clear_value z)
    | (extract_lets +onlyGivenNames z; subst z) | apply st_ite | apply st_onTense | apply st_raiseGloss | apply st_clrFlag
    | apply st_setTransport | apply st_firstPulse | apply st_measure | apply st_correctPhase | split

theorem st_controlBad (s : State) (e : EvPacket) (hP : P.holds s) : P.holds (controlBad s e) := by
  unfold controlBad
  with_reducible repeat' first | assumption | apply st_raiseGloss | apply st_countUp

theorem st_tenseEvent (s : State) (e : EvPacket) (hP : P.holds s) : P.holds (tenseEvent s e) := by
  unfold tenseEvent
  with_reducible repeat' first
    | assumption | (extract_lets +onlyGivenNames z; subst z) | apply st_ite | apply st_transportEvent | apply st_internalTempo
    | apply st_controlBad | apply st_setPosition | apply st_selectSource | apply st_tempoPulse

theorem st_tempoLoss (s : State) (m : Nat) (hP : P.holds s) : P.holds (tempoLoss s m) := by
  unfold tempoLoss
  with_reducible repeat' first
    | assumption | (extract_lets +onlyGivenNames z; refine st_cut (p := P.holds z) ?_ ?_; subst z; rotate_left; intro hz; clear_value z)
    | (extract_lets +onlyGivenNames z; subst z) | apply st_ite | apply st_countUp | apply st_setFlag | apply st_raiseGloss
    | apply st_newPiece | apply st_setTransport

theorem st_execTempoSourceLoss (s : State) (hP : P.holds s) : P.out (execTempoSourceLoss s) := by
  unfold execTempoSourceLoss
  with_reducible repeat' first | assumption | apply st_ite | apply st_iteOut | apply st_tempoLoss | split | apply st_next

theorem st_showPosition (s : State) (pos : Nat) (hP : P.holds s) : P.holds (showPosition s pos) := by
  unfold showPosition
  with_reducible repeat' first | assumption | apply st_wr

theorem st_followRecord (s : State) (n : Nat) (bs : List Byte) (hP : P.holds s) : P.holds (followRecord s n bs) := by
  unfold followRecord
  with_reducible repeat' first
    | assumption
    | (extract_lets +onlyGivenNames z; refine st_cut (p := P.holds z) ?_ ?_; subst z; rotate_left; intro hz; clear_value z)
    | (extract_lets +onlyGivenNames z; refine st_cut (p := P.fst z) ?_ ?_; subst z; rotate_left; intro hz; clear_value z)
    | (extract_lets +onlyGivenNames z; subst z) | apply st_showPosition | apply st_onTense

theorem st_writeFrameRecord (s : State) (n : Nat) (bs : List Byte) (hP : P.holds s) : P.holds (writeFrameRecord s n bs) := by
  unfold writeFrameRecord
  with_reducible repeat' first | assumption | apply st_storeBytes

theorem st_commitEntry (s : State) (m : Nat) (e : DWord × EvPacket) (hP : P.holds s) : P.holds (commitEntry s m e) := by
  unfold commitEntry
  with_reducible repeat' first
    | assumption
    | (extract_lets +onlyGivenNames z; refine st_cut (p := P.holds z) ?_ ?_; subst z; rotate_left; intro hz; clear_value z)
    | (extract_lets +onlyGivenNames z; refine st_cut (p := P.fst z) ?_ ?_; subst z; rotate_left; intro hz; clear_value z)
    | (extract_lets +onlyGivenNames z; subst z) | apply st_ite | apply st_countUp | apply st_onTense | apply st_offerEvent | split
    | apply st_proj

theorem st_commitMusical (s : State) (m : Nat) (hP : P.holds s) : P.holds (commitMusical s m) := by
  unfold commitMusical
  with_reducible repeat' first
    | assumption | apply st_ite | apply st_refreshMstat | apply st_commitEntry | refine st_foldl P _ ?_ _ _ ?_ | intro t x ht

theorem st_tenseStep (s : State) (m : Nat) (events : List EvPacket) (hP : P.holds s) : P.holds (tenseStep s m events) := by
  unfold tenseStep
  with_reducible repeat' first
    | assumption
    | (extract_lets +onlyGivenNames z; refine st_cut (p := P.holds z) ?_ ?_; subst z; rotate_left; intro hz; clear_value z)
    | (extract_lets +onlyGivenNames z; refine st_cut (p := P.fst z) ?_ ?_; subst z; rotate_left; intro hz; clear_value z)
    | (extract_lets +onlyGivenNames z; subst z) | apply st_ite | apply st_onTense | apply st_dropPieces | apply st_tenseEvent
    | apply st_tempoLoss | apply st_showPosition | apply st_writeFrameRecord | apply st_commitMusical | refine st_foldl P _ ?_ _ _ ?_
    | refine st_foldlFst P _ ?_ _ _ ?_ | intro t x ht | split

theorem st_queueMusical (s : State) (e : EvPacket) (hP : P.holds s) : P.holds (queueMusical s e) := by
  unfold queueMusical
  with_reducible repeat' first
    | assumption | (extract_lets +onlyGivenNames z; subst z) | apply st_ite | apply st_countUp | apply st_refreshMstat | apply st_onTense

theorem st_writeMwin (s : State) (value : Word) (hP : P.holds s) : P.holds (writeMwin s value) := by
  unfold writeMwin
  with_reducible repeat' first
    | assumption | (extract_lets +onlyGivenNames z; refine st_cut (p := P.holds z) ?_ ?_; subst z; rotate_left; intro hz; clear_value z)
    | apply st_ite | apply st_refuse | apply st_onTense | apply st_queueMusical | split

theorem st_tenseStop (s : State) (hP : P.holds s) : P.holds (tenseStop s) := by
  unfold tenseStop
  with_reducible repeat' first
    | assumption | (extract_lets +onlyGivenNames z; refine st_cut (p := P.holds z) ?_ ?_; subst z; rotate_left; intro hz; clear_value z)
    | (extract_lets +onlyGivenNames z; subst z) | apply st_ite | apply st_newPiece | apply st_setTransport | apply st_refreshMstat
    | apply st_onTense | apply st_countUpBy

theorem st_holdPosition (s : State) (instant : DWord) (hP : P.holds s) : P.holds (holdPosition s instant) := by
  unfold holdPosition
  with_reducible repeat' first
    | assumption
    | (extract_lets +onlyGivenNames z; refine st_cut (p := P.holds z) ?_ ?_; subst z; rotate_left; intro hz; clear_value z)
    | (extract_lets +onlyGivenNames z; refine st_cut (p := P.fst z) ?_ ?_; subst z; rotate_left; intro hz; clear_value z)
    | (extract_lets +onlyGivenNames z; subst z) | apply st_onTense

theorem st_leaveQueue (s : State) (es : List QueuedEv) (hP : P.holds s) : P.holds (leaveQueue s es) := by
  unfold leaveQueue
  with_reducible repeat' first | assumption | (extract_lets +onlyGivenNames z; subst z) | apply Stable.mk_evt

theorem st_mapMiss (s : State) (part why what : Nat) (hP : P.holds s) : P.holds (mapMiss s part why what) := by
  unfold mapMiss
  with_reducible repeat' first | assumption | apply st_raiseGloss | apply st_countUp

theorem st_programEvent (s : State) (p : EvPacket) (hP : P.holds s) : P.holds (programEvent s p) := by
  unfold programEvent
  with_reducible repeat' first
    | assumption | (extract_lets +onlyGivenNames z; subst z) | apply st_ite | apply st_mapMiss | split | apply Stable.mk_evt

theorem st_noteRequest (s : State) (part key noteId vel : Nat) (pos : DWord) (late : Bool) (hP : P.holds s) :
    P.fst (noteRequest s part key noteId vel pos late) := by
  unfold noteRequest
  with_reducible repeat' first | assumption | apply st_mapMiss | split | apply st_pair

theorem st_noteOn (s : State) (part key noteId vel : Nat) (pos : DWord) (late : Bool) (hP : P.holds s) :
    P.holds (noteOn s part key noteId vel pos late) := by
  unfold noteOn
  with_reducible repeat' first | assumption | apply st_noteRequest | apply st_runOp | (refine st_left P (by assumption) ?_) | split

theorem st_controlAct (s : State) (e : EvPacket) (pos : DWord) (i : Nat) (c : Control) (hP : P.holds s) :
    P.holds (controlAct s e pos i c) := by
  unfold controlAct
  with_reducible repeat' first
    | assumption
    | (extract_lets +onlyGivenNames z; refine st_cut (p := P.holds z) ?_ ?_; subst z; rotate_left; intro hz; clear_value z)
    | (extract_lets +onlyGivenNames z; refine st_cut (p := P.fst z) ?_ ?_; subst z; rotate_left; intro hz; clear_value z)
    | (extract_lets +onlyGivenNames z; subst z) | apply st_ite | apply st_runOp | apply st_noteOn | split | apply Stable.mk_plain
    | apply Stable.mk_evt | apply Stable.mk_any
    | (refine ⟨?_, ?_, ?_, ?_, ?_, ⟨?_, ?_, ?_, ?_, ?_, ⟨?_, ?_, ?_, ?_⟩⟩⟩ <;> intro hn <;> first | exact hn | (simp; done) | simp [hn])

theorem st_eventActs (s : State) (e : EvPacket) (hP : P.holds s) : P.holds (eventActs s e) := by
  unfold eventActs
  with_reducible repeat' first
    | assumption
    | (extract_lets +onlyGivenNames z; refine st_cut (p := P.holds z) ?_ ?_; subst z; rotate_left; intro hz; clear_value z)
    | (extract_lets +onlyGivenNames z; refine st_cut (p := P.fst z) ?_ ?_; subst z; rotate_left; intro hz; clear_value z)
    | (extract_lets +onlyGivenNames z; subst z) | apply st_ite | apply st_noteOn | apply st_runOp | apply st_programEvent
    | apply st_hostRing | apply st_controlAct | refine st_foldl P _ ?_ _ _ ?_ | refine st_foldlFst P _ ?_ _ _ ?_ | intro t x ht
    | split

theorem st_logDeferral (s : State) (n : Nat) (hP : P.holds s) : P.holds (logDeferral s n) := by
  unfold logDeferral
  with_reducible repeat' first | assumption | apply st_drawFree | apply st_raiseGloss | apply st_countUpBy | apply st_proj

theorem st_queueWork (s : State) (p : Phrase) (w : Work) (hP : P.holds s) : P.holds (queueWork s p w) := by
  unfold queueWork
  with_reducible repeat' first
    | assumption | (extract_lets +onlyGivenNames z; refine st_cut (p := P.holds z) ?_ ?_; subst z; rotate_left; intro hz; clear_value z)
    | (extract_lets +onlyGivenNames z; subst z) | apply st_ite | apply st_writeWork | apply st_onPhrase

theorem st_armPhrase (m : Nat) (s : State) (pos : Nat) (hP : P.holds s) : P.holds (armPhrase m s pos) := by
  unfold armPhrase
  with_reducible repeat' first
    | assumption
    | (extract_lets +onlyGivenNames z; refine st_cut (p := P.holds z) ?_ ?_; subst z; rotate_left; intro hz; clear_value z)
    | (extract_lets +onlyGivenNames z; refine st_cut (p := P.fst z) ?_ ?_; subst z; rotate_left; intro hz; clear_value z)
    | (extract_lets +onlyGivenNames z; subst z) | apply st_ite | apply st_logDeferral | apply st_onPhrase | apply st_diverge
    | apply st_queueWork | split

theorem st_armAll (s : State) (m : Nat) (hP : P.holds s) : P.holds (armAll s m) := by
  unfold armAll
  with_reducible repeat' first | assumption | apply st_armPhrase | refine st_foldl P _ ?_ _ _ ?_

theorem st_runDeferred (s : State) (hP : P.holds s) : P.holds (runDeferred s) := by
  unfold runDeferred
  with_reducible repeat' first
    | assumption
    | (extract_lets +onlyGivenNames z; refine st_cut (p := P.holds z) ?_ ?_; subst z; rotate_left; intro hz; clear_value z)
    | (extract_lets +onlyGivenNames z; refine st_cut (p := P.fst z) ?_ ?_; subst z; rotate_left; intro hz; clear_value z)
    | (extract_lets +onlyGivenNames z; subst z) | apply st_runOps | apply Stable.mk_plain | apply Stable.mk_alloc
    | apply Stable.mk_any
    | (refine ⟨?_, ?_, ?_, ?_, ?_, ⟨?_, ?_, ?_, ?_, ?_, ⟨?_, ?_, ?_, ?_⟩⟩⟩ <;> intro hn <;> first | exact hn | (simp; done) | simp [hn])

theorem st_takeAndAllocate (s : State) (m : Nat) (es : List QueuedEv) (hP : P.holds s) : P.holds (takeAndAllocate s m es) := by
  unfold takeAndAllocate
  with_reducible repeat' first
    | assumption | (extract_lets +onlyGivenNames z; refine st_cut (p := P.holds z) ?_ ?_; subst z; rotate_left; intro hz; clear_value z)
    | (extract_lets +onlyGivenNames z; subst z) | apply st_leaveQueue | apply st_tenseStep | apply st_eventActs | apply st_runDeferred
    | apply st_endStep3 | refine st_foldl P _ ?_ _ _ ?_ | apply Stable.mk_alloc

theorem st_checkOverrun (s : State) (m : Nat) (hP : P.holds s) : P.holds (checkOverrun s m) := by
  unfold checkOverrun
  with_reducible repeat' first
    | assumption
    | (extract_lets +onlyGivenNames z; refine st_cut (p := P.holds z) ?_ ?_; subst z; rotate_left; intro hz; clear_value z)
    | (extract_lets +onlyGivenNames z; refine st_cut (p := P.fst z) ?_ ?_; subst z; rotate_left; intro hz; clear_value z)
    | (extract_lets +onlyGivenNames z; subst z) | apply st_ite | apply st_wr | apply st_countUp | apply st_raiseGloss
    | apply st_triggerRecovery | apply st_voidFrame | split | apply Stable.mk_plain

theorem st_dropWork (s : State) (w : Work) (hP : P.holds s) : P.holds (dropWork s w) := by
  unfold dropWork
  with_reducible repeat' first
    | assumption
    | (extract_lets +onlyGivenNames z; refine st_cut (p := P.holds z) ?_ ?_; subst z; rotate_left; intro hz; clear_value z)
    | (extract_lets +onlyGivenNames z; refine st_cut (p := P.fst z) ?_ ?_; subst z; rotate_left; intro hz; clear_value z)
    | (extract_lets +onlyGivenNames z; subst z) | apply st_ite | apply st_onWork | apply st_divergeWork | apply st_endPhraseFrame
    | split

theorem st_abandonFrame (s : State) (m : Nat) (hP : P.holds s) : P.holds (abandonFrame s m) := by
  unfold abandonFrame
  with_reducible repeat' first
    | assumption | (extract_lets +onlyGivenNames z; refine st_cut (p := P.holds z) ?_ ?_; subst z; rotate_left; intro hz; clear_value z)
    | (extract_lets +onlyGivenNames z; subst z) | apply st_raiseGloss | apply st_countUp | apply st_settleFlows | apply st_dropWork
    | apply st_voidFrame | refine st_foldl P _ ?_ _ _ ?_ | intro t x ht | split

theorem st_abortOther (s : State) (v : Nat) (hP : P.holds s) : P.holds (abortOther s v) := by
  unfold abortOther
  with_reducible repeat' first
    | assumption
    | (extract_lets +onlyGivenNames z; refine st_cut (p := P.holds z) ?_ ?_; subst z; rotate_left; intro hz; clear_value z)
    | (extract_lets +onlyGivenNames z; refine st_cut (p := P.fst z) ?_ ?_; subst z; rotate_left; intro hz; clear_value z)
    | (extract_lets +onlyGivenNames z; subst z) | apply st_overCheckAt | apply st_recordFault | apply st_logAbort
    | apply st_divergeWork | apply st_voidFrame | apply st_stageTrace | apply st_onVerb | apply st_settleFlows | apply st_wordEnded
    | split

theorem st_abortLate (s : State) (m : Nat) (hP : P.holds s) : P.holds (abortLate s m) := by
  unfold abortLate
  with_reducible repeat' first
    | assumption | (extract_lets +onlyGivenNames z; refine st_cut (p := P.holds z) ?_ ?_; subst z; rotate_left; intro hz; clear_value z)
    | apply st_ite | apply st_abortOther | apply st_abortFrame | apply st_onVerb | refine st_foldl P _ ?_ _ _ ?_ | intro t x ht | split

theorem st_withdrawGlobals (s : State) (m : Nat) (hP : P.holds s) : P.holds (withdrawGlobals s m) := by
  unfold withdrawGlobals
  with_reducible repeat' first
    | assumption | apply st_memAdd | refine st_foldl P _ ?_ _ _ ?_ | refine st_foldlFst P _ ?_ _ _ ?_ | intro t x ht | apply st_proj

theorem st_voidDiverged (s : State) (m : Nat) (hP : P.holds s) : P.holds (voidDiverged s m) := by
  unfold voidDiverged
  with_reducible repeat' first | assumption | apply st_ite | apply st_voidFrame

theorem st_amendVoid (s : State) (m : Nat) (causes : BitVec 10) (hP : P.holds s) : P.holds (amendVoid s m causes) := by
  unfold amendVoid
  with_reducible repeat' first
    | assumption
    | (extract_lets +onlyGivenNames z; refine st_cut (p := P.holds z) ?_ ?_; subst z; rotate_left; intro hz; clear_value z)
    | (extract_lets +onlyGivenNames z; refine st_cut (p := P.fst z) ?_ ?_; subst z; rotate_left; intro hz; clear_value z)
    | (extract_lets +onlyGivenNames z; subst z) | apply st_ite | apply st_wrFld | split

theorem st_reportVoid (s : State) (m : Nat) (causes : BitVec 10) (hP : P.holds s) : P.holds (reportVoid s m causes) := by
  unfold reportVoid
  with_reducible repeat' first
    | assumption
    | (extract_lets +onlyGivenNames z; refine st_cut (p := P.holds z) ?_ ?_; subst z; rotate_left; intro hz; clear_value z)
    | (extract_lets +onlyGivenNames z; refine st_cut (p := P.fst z) ?_ ?_; subst z; rotate_left; intro hz; clear_value z)
    | (extract_lets +onlyGivenNames z; subst z) | apply st_wrFld | apply st_raiseIrq | apply st_countUp | apply st_wr
    | apply st_raiseGloss | apply Stable.mk_plain

theorem st_reportVoids (s : State) (m : Nat) (hP : P.holds s) : P.holds (reportVoids s m) := by
  unfold reportVoids
  with_reducible repeat' first
    | assumption
    | (extract_lets +onlyGivenNames z; refine st_cut (p := P.holds z) ?_ ?_; subst z; rotate_left; intro hz; clear_value z)
    | (extract_lets +onlyGivenNames z; refine st_cut (p := P.fst z) ?_ ?_; subst z; rotate_left; intro hz; clear_value z)
    | (extract_lets +onlyGivenNames z; subst z) | apply st_ite | apply st_amendVoid | apply st_reportVoid
    | refine st_foldl P _ ?_ _ _ ?_ | refine st_foldlFst P _ ?_ _ _ ?_ | intro t x ht | split | apply st_proj | apply Stable.mk_plain

theorem st_stepFades (s : State) (m : Nat) (hP : P.holds s) : P.holds (stepFades s m) := by
  unfold stepFades
  with_reducible repeat' first | assumption | apply Stable.mk_plain

theorem st_phraseEnds (s : State) (n : Nat) (hP : P.holds s) : P.holds (phraseEnds s n) := by
  unfold phraseEnds
  with_reducible repeat' first
    | assumption | (extract_lets +onlyGivenNames z; refine st_cut (p := P.holds z) ?_ ?_; subst z; rotate_left; intro hz; clear_value z)
    | (extract_lets +onlyGivenNames z; subst z) | apply st_ite | apply st_stepFades | apply Stable.mk_plain

theorem st_refreshVerbs (s : State) (hP : P.holds s) : P.holds (refreshVerbs s) := by
  unfold refreshVerbs
  with_reducible repeat' first
    | assumption | (extract_lets +onlyGivenNames z; refine st_cut (p := P.holds z) ?_ ?_; subst z; rotate_left; intro hz; clear_value z)
    | (extract_lets +onlyGivenNames z; subst z) | apply st_wrFld | apply Stable.mk_any
    | (refine ⟨?_, ?_, ?_, ?_, ?_, ⟨?_, ?_, ?_, ?_, ?_, ⟨?_, ?_, ?_, ?_⟩⟩⟩ <;> intro hn <;> first | exact hn | (simp; done) | simp [hn])

theorem st_takeAdrift (s : State) (p : Phrase) (hP : P.holds s) : P.holds (takeAdrift s p) := by
  unfold takeAdrift
  with_reducible repeat' first | assumption | apply st_ite | apply st_onPhrase | split

theorem st_placeAll (s : State) (hP : P.holds s) : P.holds (placeAll s) := by
  unfold placeAll
  with_reducible repeat' first
    | assumption | apply st_placePhrase | apply st_takeAdrift | refine st_foldl P _ ?_ _ _ ?_ | refine st_foldlFst P _ ?_ _ _ ?_
    | intro t x ht

theorem st_holdFrame (s : State) (m : Nat) (hP : P.holds s) : P.holds (holdFrame s m) := by
  unfold holdFrame
  with_reducible repeat' first
    | assumption | (extract_lets +onlyGivenNames z; refine st_cut (p := P.holds z) ?_ ?_; subst z; rotate_left; intro hz; clear_value z)
    | (extract_lets +onlyGivenNames z; subst z) | apply st_copyWords | apply st_storeBytes | apply Stable.mk_plain

theorem st_heldReport (s : State) (m : Nat) (hP : P.holds s) : P.fst (heldReport s m) := by
  unfold heldReport
  with_reducible repeat' first
    | assumption
    | (extract_lets +onlyGivenNames z; refine st_cut (p := P.holds z) ?_ ?_; subst z; rotate_left; intro hz; clear_value z)
    | (extract_lets +onlyGivenNames z; refine st_cut (p := P.fst z) ?_ ?_; subst z; rotate_left; intro hz; clear_value z)
    | (extract_lets +onlyGivenNames z; subst z) | apply st_ite | apply st_iteFst | apply st_readWords | apply st_voidFrame
    | (refine st_ofPair P (by assumption)) | (refine st_left P (by assumption) ?_) | split | apply st_iteFst | apply st_pair
    | apply st_proj

end Sys2Proof.Laws
end

