-- ==== Sys2Proof/Laws/StableVerb.lean ====
section
/-! SUPPORT. Every function of the modules Dai, Timers, Staged, Serial, GlossStore, Nvm, Power, System, LinkState, MemTest keeps a Stable predicate. -/

namespace Sys2Proof.Laws
open Sys2Proof.Machine
variable (P : Stable)

theorem st_onDai (s : State) (p : Nat) (f : DaiSt → DaiSt) (hP : P.holds s) : P.holds (onDai s p f) := by
  unfold onDai
  with_reducible repeat' first
    | assumption | apply Stable.mk_any
    | (refine ⟨?_, ?_, ?_, ?_, ?_, ⟨?_, ?_, ?_, ?_, ?_, ⟨?_, ?_, ?_, ?_⟩⟩⟩ <;> intro hn <;> first | exact hn | (simp; done) | simp [hn])

theorem st_daiSlip (s : State) (p kind : Nat) (hP : P.holds s) : P.holds (daiSlip s p kind) := by
  unfold daiSlip
  with_reducible repeat' first
    | assumption
    | (extract_lets +onlyGivenNames z; refine st_cut (p := P.holds z) ?_ ?_; subst z; rotate_left; intro hz; clear_value z)
    | (extract_lets +onlyGivenNames z; refine st_cut (p := P.fst z) ?_ ?_; subst z; rotate_left; intro hz; clear_value z)
    | (extract_lets +onlyGivenNames z; subst z) | apply st_ite | apply st_countUp | apply st_setFlag | apply st_onDai
    | apply st_raiseGloss | split

theorem st_daiDeliver (s : State) (p u : Nat) (ws : List Word) (hP : P.holds s) : P.holds (daiDeliver s p u ws) := by
  unfold daiDeliver
  with_reducible repeat' first | assumption | apply st_memStore | refine st_foldl P _ ?_ _ _ ?_ | intro t x ht

theorem st_clockBack (s : State) (p : Nat) (hP : P.holds s) : P.holds (clockBack s p) := by
  unfold clockBack
  with_reducible repeat' first | assumption | apply st_ite | apply st_onDai | apply st_clrFlag | split

theorem st_daiTake (s : State) (p u : Nat) (slots : List Word) (hP : P.holds s) : P.holds (daiTake s p u slots) := by
  unfold daiTake
  with_reducible repeat' first
    | assumption
    | (extract_lets +onlyGivenNames z; refine st_cut (p := P.holds z) ?_ ?_; subst z; rotate_left; intro hz; clear_value z)
    | (extract_lets +onlyGivenNames z; refine st_cut (p := P.fst z) ?_ ?_; subst z; rotate_left; intro hz; clear_value z)
    | (extract_lets +onlyGivenNames z; subst z) | apply st_daiDeliver | apply st_onDai

theorem st_daiAssign (s : State) (p : Nat) (c : Int) (slots : List Word) (hP : P.holds s) : P.holds (daiAssign s p c slots) := by
  unfold daiAssign
  with_reducible repeat' first
    | assumption
    | (extract_lets +onlyGivenNames z; refine st_cut (p := P.holds z) ?_ ?_; subst z; rotate_left; intro hz; clear_value z)
    | (extract_lets +onlyGivenNames z; refine st_cut (p := P.fst z) ?_ ?_; subst z; rotate_left; intro hz; clear_value z)
    | (extract_lets +onlyGivenNames z; subst z) | apply st_ite | apply st_clockBack | apply st_daiSlip | apply st_daiTake
    | apply st_onDai | split | apply st_proj

theorem st_edgeSeen (s : State) (p : Nat) (hP : P.holds s) : P.holds (edgeSeen s p) := by
  unfold edgeSeen
  with_reducible repeat' first | assumption | apply st_onDai

theorem st_execPortFrameIn (p : Fin 4) (slots : List Word) (lastBit : DWord) (s : State) (hP : P.holds s) :
    P.out (execPortFrameIn p slots lastBit s) := by
  unfold execPortFrameIn
  with_reducible repeat' first
    | assumption | apply st_ite | apply st_iteOut | apply st_daiAssign | apply st_edgeSeen | apply st_clockBack | split
    | apply st_next

theorem st_daiPast (s : State) (p u : Nat) (hP : P.holds s) : P.holds (daiPast s p u) := by
  unfold daiPast
  with_reducible repeat' first | assumption | apply st_onDai | apply st_proj

theorem st_daiNone (u : Nat) (s : State) (p : Nat) (hP : P.holds s) : P.holds (daiNone u s p) := by
  unfold daiNone
  with_reducible repeat' first
    | assumption
    | (extract_lets +onlyGivenNames z; refine st_cut (p := P.holds z) ?_ ?_; subst z; rotate_left; intro hz; clear_value z)
    | (extract_lets +onlyGivenNames z; refine st_cut (p := P.fst z) ?_ ?_; subst z; rotate_left; intro hz; clear_value z)
    | (extract_lets +onlyGivenNames z; subst z) | apply st_ite | apply st_daiSlip | apply st_daiDeliver | apply st_onDai | split

theorem st_daiTick (u : Nat) (s : State) (p : Nat) (hP : P.holds s) : P.holds (daiTick u s p) := by
  unfold daiTick
  with_reducible repeat' first
    | assumption
    | (extract_lets +onlyGivenNames z; refine st_cut (p := P.holds z) ?_ ?_; subst z; rotate_left; intro hz; clear_value z)
    | (extract_lets +onlyGivenNames z; refine st_cut (p := P.fst z) ?_ ?_; subst z; rotate_left; intro hz; clear_value z)
    | (extract_lets +onlyGivenNames z; subst z) | apply st_ite | apply st_daiPast | apply st_daiTake | apply st_daiNone | split
    | apply st_proj

theorem st_execDaiNoClock (p : Fin 4) (s : State) (hP : P.holds s) : P.out (execDaiNoClock p s) := by
  unfold execDaiNoClock
  with_reducible repeat' first
    | assumption
    | (extract_lets +onlyGivenNames z; refine st_cut (p := P.holds z) ?_ ?_; subst z; rotate_left; intro hz; clear_value z)
    | (extract_lets +onlyGivenNames z; refine st_cut (p := P.fst z) ?_ ?_; subst z; rotate_left; intro hz; clear_value z)
    | (extract_lets +onlyGivenNames z; subst z) | apply st_ite | apply st_iteOut | apply st_setFlag | apply st_onDai
    | apply st_raiseGloss | split | apply st_next

theorem st_slotCodes (s : State) (m p k : Nat) (hP : P.holds s) : P.fst (slotCodes s m p k) := by
  unfold slotCodes
  with_reducible repeat' first
    | assumption
    | (extract_lets +onlyGivenNames z; refine st_cut (p := P.holds z) ?_ ?_; subst z; rotate_left; intro hz; clear_value z)
    | (extract_lets +onlyGivenNames z; refine st_cut (p := P.fst z) ?_ ?_; subst z; rotate_left; intro hz; clear_value z)
    | (extract_lets +onlyGivenNames z; subst z) | apply st_ite | apply st_iteFst | apply st_shifted | refine st_foldl P _ ?_ _ _ ?_
    | refine st_foldlFst P _ ?_ _ _ ?_ | intro t x ht | (refine st_ofPair P (by assumption)) | (refine st_left P (by assumption) ?_)
    | split | apply st_iteFst | apply st_pair | apply st_proj

theorem st_latchDai (s : State) (m n p : Nat) (hP : P.holds s) : P.holds (latchDai s m n p) := by
  unfold latchDai
  with_reducible repeat' first
    | assumption
    | (extract_lets +onlyGivenNames z; refine st_cut (p := P.holds z) ?_ ?_; subst z; rotate_left; intro hz; clear_value z)
    | (extract_lets +onlyGivenNames z; refine st_cut (p := P.fst z) ?_ ?_; subst z; rotate_left; intro hz; clear_value z)
    | (extract_lets +onlyGivenNames z; subst z) | apply st_slotCodes | apply st_onDai | refine st_foldl P _ ?_ _ _ ?_
    | refine st_foldlFst P _ ?_ _ _ ?_ | intro t x ht | (refine st_ofPair P (by assumption)) | (refine st_left P (by assumption) ?_)
    | split | apply st_iteFst | apply st_pair | apply st_proj

theorem st_ringWord (s : State) (a : Nat) (hP : P.holds s) : P.fst (ringWord s a) := by
  unfold ringWord
  with_reducible repeat' first | assumption | apply st_memLoad | (refine st_left P (by assumption) ?_) | split | apply st_pair

theorem st_keepSlots (u : Nat) (s : State) (p : Nat) (hP : P.holds s) : P.holds (keepSlots u s p) := by
  unfold keepSlots
  with_reducible repeat' first | assumption | apply st_ite | apply st_onDai | split

theorem st_slotSource (s : State) (p k v : Nat) (hP : P.holds s) : P.fst (slotSource s p k v) := by
  unfold slotSource
  with_reducible repeat' first
    | assumption
    | (extract_lets +onlyGivenNames z; refine st_cut (p := P.holds z) ?_ ?_; subst z; rotate_left; intro hz; clear_value z)
    | (extract_lets +onlyGivenNames z; refine st_cut (p := P.fst z) ?_ ?_; subst z; rotate_left; intro hz; clear_value z)
    | (extract_lets +onlyGivenNames z; subst z) | apply st_ringWord | (refine st_ofPair P (by assumption))
    | (refine st_left P (by assumption) ?_) | split | apply st_iteFst | apply st_pair | apply st_proj

theorem st_slotWord (v p : Nat) (acc : State × List (Option Word)) (k : Nat) (hP : P.fst acc) : P.fst (slotWord v p acc k) := by
  unfold slotWord
  with_reducible repeat' first
    | apply st_slotSource | apply st_setFlag | (refine st_ofPair P (by assumption)) | (refine st_left P (by assumption) ?_) | split
    | apply st_pair

theorem st_daiSend (s : State) (p v : Nat) (hP : P.holds s) : P.holds (daiSend s p v) := by
  unfold daiSend
  with_reducible repeat' first
    | assumption | (extract_lets +onlyGivenNames z; refine st_cut (p := P.holds z) ?_ ?_; subst z; rotate_left; intro hz; clear_value z)
    | (extract_lets +onlyGivenNames z; subst z) | apply st_ite | apply st_daiSlip | apply st_slotWord | apply st_onDai
    | refine st_foldlFst P _ ?_ _ _ ?_ | split | apply st_pair | apply st_proj

theorem st_daiBegin (u : Nat) (s : State) (p : Nat) (hP : P.holds s) : P.holds (daiBegin u s p) := by
  unfold daiBegin
  with_reducible repeat' first | assumption | apply st_ite | apply st_daiSend | split

theorem st_execPortFrameOut (p : Fin 4) (begins : DWord) (s : State) (hP : P.holds s) : P.out (execPortFrameOut p begins s) := by
  unfold execPortFrameOut
  with_reducible repeat' first
    | assumption
    | (extract_lets +onlyGivenNames z; refine st_cut (p := P.holds z) ?_ ?_; subst z; rotate_left; intro hz; clear_value z)
    | (extract_lets +onlyGivenNames z; refine st_cut (p := P.fst z) ?_ ?_; subst z; rotate_left; intro hz; clear_value z)
    | (extract_lets +onlyGivenNames z; subst z) | apply st_ite | apply st_iteOut | apply st_clockBack | apply st_edgeSeen
    | apply st_daiBegin | apply st_daiSend | split | apply st_next

theorem st_daiSync (before : Option DWord) (s : State) (hP : P.holds s) : P.holds (daiSync before s) := by
  unfold daiSync
  with_reducible repeat' first
    | assumption | apply st_ite | split | apply Stable.mk_plain | apply Stable.mk_any
    | (refine ⟨?_, ?_, ?_, ?_, ?_, ⟨?_, ?_, ?_, ?_, ?_, ⟨?_, ?_, ?_, ?_⟩⟩⟩ <;> intro hn <;> first | exact hn | (simp; done) | simp [hn])

theorem st_resetDai (s : State) (hP : P.holds s) : P.holds (resetDai s) := by
  unfold resetDai
  with_reducible repeat' first
    | assumption | apply Stable.mk_any
    | (refine ⟨?_, ?_, ?_, ?_, ?_, ⟨?_, ?_, ?_, ?_, ?_, ⟨?_, ?_, ?_, ?_⟩⟩⟩ <;> intro hn <;> first | exact hn | (simp; done) | simp [hn])

theorem st_onTimer (s : State) (n : Nat) (f : TimerSt → TimerSt) (hP : P.holds s) : P.holds (onTimer s n f) := by
  unfold onTimer
  with_reducible repeat' first
    | assumption | apply Stable.mk_any
    | (refine ⟨?_, ?_, ?_, ?_, ?_, ⟨?_, ?_, ?_, ?_, ?_, ⟨?_, ?_, ?_, ?_⟩⟩⟩ <;> intro hn <;> first | exact hn | (simp; done) | simp [hn])

theorem st_syncBalls (s : State) (hP : P.holds s) : P.holds (syncBalls s) := by
  unfold syncBalls
  with_reducible repeat' first
    | assumption
    | (extract_lets +onlyGivenNames z; refine st_cut (p := P.holds z) ?_ ?_; subst z; rotate_left; intro hz; clear_value z)
    | (extract_lets +onlyGivenNames z; refine st_cut (p := P.fst z) ?_ ?_; subst z; rotate_left; intro hz; clear_value z)
    | (extract_lets +onlyGivenNames z; subst z) | apply Stable.mk_plain

theorem st_setPin (s : State) (code : Nat) (v : Bool) (hP : P.holds s) : P.holds (setPin s code v) := by
  unfold setPin
  with_reducible repeat' first
    | assumption | (extract_lets +onlyGivenNames z; subst z) | apply st_ite | apply st_wrFld | apply Stable.mk_plain

theorem st_actOnBall (s : State) (ball action : Nat) (hP : P.holds s) : P.holds (actOnBall s ball action) := by
  unfold actOnBall
  with_reducible repeat' first
    | assumption | (extract_lets +onlyGivenNames z; subst z) | apply st_setFlag | apply st_clrFlag | apply st_wrFld | split

theorem st_timerEvent (s : State) (n cause : Nat) (trunc : Bool) (hP : P.holds s) : P.holds (timerEvent s n cause trunc) := by
  unfold timerEvent
  with_reducible repeat' first | assumption | apply st_ite | apply st_offerEvent

theorem st_causeEvents (s : State) (n : Nat) (c : Causes) (hP : P.holds s) : P.holds (causeEvents s n c) := by
  unfold causeEvents
  with_reducible repeat' first
    | assumption | (extract_lets +onlyGivenNames z; refine st_cut (p := P.holds z) ?_ ?_; subst z; rotate_left; intro hz; clear_value z)
    | apply st_ite | apply st_timerEvent

theorem st_timerWake (s : State) (n : Nat) (enabled : Bool) (hP : P.holds s) : P.holds (timerWake s n enabled) := by
  unfold timerWake
  with_reducible repeat' first | assumption | apply st_ite | apply st_latchWake | split

theorem st_timerCount (s : State) (n : Nat) (hP : P.holds s) : P.fst (timerCount s n) := by
  unfold timerCount
  with_reducible repeat' first
    | assumption
    | (extract_lets +onlyGivenNames z; refine st_cut (p := P.holds z) ?_ ?_; subst z; rotate_left; intro hz; clear_value z)
    | (extract_lets +onlyGivenNames z; refine st_cut (p := P.fst z) ?_ ?_; subst z; rotate_left; intro hz; clear_value z)
    | (extract_lets +onlyGivenNames z; subst z) | apply st_onTimer | apply st_wr | apply st_timerWake | apply st_causeEvents
    | apply st_cvTimerUpdate | (refine st_ofPair P (by assumption)) | (refine st_left P (by assumption) ?_) | split | apply st_iteFst
    | apply st_pair | apply st_proj

theorem st_timerTick (s : State) (n : Nat) (hP : P.holds s) : P.holds (timerTick s n) := by
  unfold timerTick
  with_reducible repeat' first
    | assumption
    | (extract_lets +onlyGivenNames z; refine st_cut (p := P.holds z) ?_ ?_; subst z; rotate_left; intro hz; clear_value z)
    | (extract_lets +onlyGivenNames z; refine st_cut (p := P.fst z) ?_ ?_; subst z; rotate_left; intro hz; clear_value z)
    | (extract_lets +onlyGivenNames z; subst z) | apply st_timerCount | apply st_actOnBall | (refine st_ofPair P (by assumption))
    | (refine st_left P (by assumption) ?_) | split | apply st_iteFst | apply st_pair | apply st_proj

theorem st_timerIdle (s : State) (n : Nat) (hP : P.holds s) : P.holds (timerIdle s n) := by
  unfold timerIdle
  with_reducible repeat' first | assumption | apply st_onTimer

theorem st_timersTick (s : State) (hP : P.holds s) : P.holds (timersTick s) := by
  unfold timersTick
  with_reducible repeat' first
    | assumption
    | (extract_lets +onlyGivenNames z; refine st_cut (p := P.holds z) ?_ ?_; subst z; rotate_left; intro hz; clear_value z)
    | (extract_lets +onlyGivenNames z; refine st_cut (p := P.fst z) ?_ ?_; subst z; rotate_left; intro hz; clear_value z)
    | (extract_lets +onlyGivenNames z; subst z) | apply st_ite | apply st_timerIdle | apply st_timerCount | apply st_actOnBall
    | apply st_syncBalls | refine st_foldl P _ ?_ _ _ ?_ | refine st_foldlFst P _ ?_ _ _ ?_ | intro t x ht
    | (refine st_ofPair P (by assumption)) | (refine st_left P (by assumption) ?_) | split | apply st_iteFst | apply st_pair
    | apply st_proj

theorem st_execCompareMatch (n : Fin 16) (s : State) (hP : P.holds s) : P.out (execCompareMatch n s) := by
  unfold execCompareMatch
  with_reducible repeat' first
    | assumption
    | (extract_lets +onlyGivenNames z; refine st_cut (p := P.holds z) ?_ ?_; subst z; rotate_left; intro hz; clear_value z)
    | (extract_lets +onlyGivenNames z; refine st_cut (p := P.fst z) ?_ ?_; subst z; rotate_left; intro hz; clear_value z)
    | (extract_lets +onlyGivenNames z; subst z) | apply st_ite | apply st_iteOut | apply st_timerTick | split | apply st_next

theorem st_execPeriodEnd (n : Fin 16) (s : State) (hP : P.holds s) : P.out (execPeriodEnd n s) := by
  unfold execPeriodEnd
  with_reducible repeat' first | assumption | apply st_ite | apply st_iteOut | apply st_timerTick | split | apply st_next

theorem st_execTimerWrap (n : Fin 16) (s : State) (hP : P.holds s) : P.out (execTimerWrap n s) := by
  unfold execTimerWrap
  with_reducible repeat' first | assumption | apply st_ite | apply st_iteOut | apply st_timerTick | split | apply st_next

theorem st_timerGo (s : State) (mask : Nat) (hP : P.holds s) : P.holds (timerGo s mask) := by
  unfold timerGo
  with_reducible repeat' first | assumption | apply st_onTimer | refine st_foldl P _ ?_ _ _ ?_ | intro t x ht

theorem st_capture (s : State) (n : Nat) (hP : P.holds s) : P.holds (capture s n) := by
  unfold capture
  with_reducible repeat' first
    | assumption | (extract_lets +onlyGivenNames z; refine st_cut (p := P.holds z) ?_ ?_; subst z; rotate_left; intro hz; clear_value z)
    | (extract_lets +onlyGivenNames z; subst z) | apply st_ite | apply st_setFlag | apply st_wr | apply st_timerWake | apply st_timerEvent

theorem st_execTimerCapture (n : Fin 16) (falling : Bool) (s : State) (hP : P.holds s) : P.out (execTimerCapture n falling s) := by
  unfold execTimerCapture
  with_reducible repeat' first
    | assumption | (extract_lets +onlyGivenNames z; refine st_cut (p := P.holds z) ?_ ?_; subst z; rotate_left; intro hz; clear_value z)
    | (extract_lets +onlyGivenNames z; subst z) | apply st_iteOut | apply st_setPin | apply st_capture | apply st_next

theorem st_switchClock (s : State) (ao : Bool) (cause : Nat) (hP : P.holds s) : P.holds (switchClock s ao cause) := by
  unfold switchClock
  with_reducible repeat' first
    | assumption | (extract_lets +onlyGivenNames z; refine st_cut (p := P.holds z) ?_ ?_; subst z; rotate_left; intro hz; clear_value z)
    | (extract_lets +onlyGivenNames z; subst z) | apply st_wrFld | apply st_raiseGloss | apply Stable.mk_plain

theorem st_clkSelect (s : State) (hP : P.holds s) : P.holds (clkSelect s) := by
  unfold clkSelect
  with_reducible repeat' first
    | assumption | (extract_lets +onlyGivenNames z; refine st_cut (p := P.holds z) ?_ ?_; subst z; rotate_left; intro hz; clear_value z)
    | (extract_lets +onlyGivenNames z; subst z) | apply st_ite | apply st_wrFld | apply st_raiseGloss | apply st_clrFlag | split
    | apply Stable.mk_plain

theorem st_restartTrace (s : State) (old : Word) (hP : P.holds s) : P.holds (restartTrace s old) := by
  unfold restartTrace
  with_reducible repeat' first | assumption | apply st_ite | apply st_wr

theorem st_restartExport (s : State) (old : Word) (hP : P.holds s) : P.holds (restartExport s old) := by
  unfold restartExport
  with_reducible repeat' first | assumption | apply st_ite | apply st_wr

theorem st_daiRestart (s : State) (p : Nat) (old : Word) (hP : P.holds s) : P.holds (daiRestart s p old) := by
  unfold daiRestart
  with_reducible repeat' first
    | assumption | (extract_lets +onlyGivenNames z; refine st_cut (p := P.holds z) ?_ ?_; subst z; rotate_left; intro hz; clear_value z)
    | (extract_lets +onlyGivenNames z; subst z) | apply st_ite | apply st_onDai

theorem st_stagedActs (s : State) (a : Nat) (old : Word) (hP : P.holds s) : P.holds (stagedActs s a old) := by
  unfold stagedActs
  with_reducible repeat' first
    | assumption | apply st_ite | apply st_clkSelect | apply st_restartTrace | apply st_restartExport | apply st_formatChanged
    | apply st_onDac | apply st_onCv | apply st_daiRestart | split

theorem st_applyOne (s : State) (a : Nat) (v : Word) (hP : P.holds s) : P.holds (applyOne s a v) := by
  unfold applyOne
  with_reducible repeat' first | assumption | (extract_lets +onlyGivenNames z; subst z) | apply st_stagedActs | apply st_wr

theorem st_masksChanged (s : State) (old : List Nat) (hP : P.holds s) : P.holds (masksChanged s old) := by
  unfold masksChanged
  with_reducible repeat' first | assumption | apply st_ite | apply st_maskChanged | refine st_foldl P _ ?_ _ _ ?_ | intro t x ht

theorem st_applyStaged (s : State) (hP : P.holds s) : P.holds (applyStaged s) := by
  unfold applyStaged
  with_reducible repeat' first
    | assumption | (extract_lets +onlyGivenNames z; refine st_cut (p := P.holds z) ?_ ?_; subst z; rotate_left; intro hz; clear_value z)
    | (extract_lets +onlyGivenNames z; subst z) | apply st_masksChanged | apply st_applyOne | refine st_foldl P _ ?_ _ _ ?_ | intro t x ht
    | apply Stable.mk_plain

theorem st_applyRxBaud (s : State) (p : Nat) (hP : P.holds s) : P.holds (applyRxBaud s p) := by
  unfold applyRxBaud
  with_reducible repeat' first
    | assumption
    | (extract_lets +onlyGivenNames z; refine st_cut (p := P.holds z) ?_ ?_; subst z; rotate_left; intro hz; clear_value z)
    | (extract_lets +onlyGivenNames z; refine st_cut (p := P.fst z) ?_ ?_; subst z; rotate_left; intro hz; clear_value z)
    | (extract_lets +onlyGivenNames z; subst z) | apply st_onSp

theorem st_applyTxBaud (s : State) (p : Nat) (hP : P.holds s) : P.holds (applyTxBaud s p) := by
  unfold applyTxBaud
  with_reducible repeat' first
    | assumption
    | (extract_lets +onlyGivenNames z; refine st_cut (p := P.holds z) ?_ ?_; subst z; rotate_left; intro hz; clear_value z)
    | (extract_lets +onlyGivenNames z; refine st_cut (p := P.fst z) ?_ ?_; subst z; rotate_left; intro hz; clear_value z)
    | (extract_lets +onlyGivenNames z; subst z) | apply st_onSp | split | apply st_proj

theorem st_afterBaud (s : State) (p : Nat) (hP : P.holds s) : P.holds (afterBaud s p) := by
  unfold afterBaud
  with_reducible repeat' first
    | assumption
    | (extract_lets +onlyGivenNames z; refine st_cut (p := P.holds z) ?_ ?_; subst z; rotate_left; intro hz; clear_value z)
    | (extract_lets +onlyGivenNames z; refine st_cut (p := P.fst z) ?_ ?_; subst z; rotate_left; intro hz; clear_value z)
    | (extract_lets +onlyGivenNames z; subst z) | apply st_ite | apply st_onSp | apply st_applyRxBaud | split

theorem st_execBaudApply (p : Fin 8) (transmit : Bool) (s : State) (hP : P.holds s) : P.out (execBaudApply p transmit s) := by
  unfold execBaudApply
  with_reducible repeat' first | assumption | apply st_iteOut | apply st_applyTxBaud | apply st_applyRxBaud | apply st_next

theorem st_beginReceive (s : State) (p : Nat) (at' : DWord) (hP : P.holds s) : P.holds (beginReceive s p at') := by
  unfold beginReceive
  with_reducible repeat' first
    | assumption
    | (extract_lets +onlyGivenNames z; refine st_cut (p := P.holds z) ?_ ?_; subst z; rotate_left; intro hz; clear_value z)
    | (extract_lets +onlyGivenNames z; refine st_cut (p := P.fst z) ?_ ?_; subst z; rotate_left; intro hz; clear_value z)
    | (extract_lets +onlyGivenNames z; subst z) | apply st_ite | apply st_applyRxBaud | apply st_onSp | split

theorem st_execStartEdge (p : Fin 8) (quarter : BitVec 2) (s : State) (hP : P.holds s) : P.out (execStartEdge p quarter s) := by
  unfold execStartEdge
  with_reducible repeat' first
    | assumption
    | (extract_lets +onlyGivenNames z; refine st_cut (p := P.holds z) ?_ ?_; subst z; rotate_left; intro hz; clear_value z)
    | (extract_lets +onlyGivenNames z; refine st_cut (p := P.fst z) ?_ ?_; subst z; rotate_left; intro hz; clear_value z)
    | (extract_lets +onlyGivenNames z; subst z) | apply st_ite | apply st_iteOut | apply st_beginReceive | split | apply st_next

theorem st_overrun (s : State) (p : Nat) (time : Word) (hP : P.holds s) : P.holds (overrun s p time) := by
  unfold overrun
  with_reducible repeat' first
    | assumption | (extract_lets +onlyGivenNames z; refine st_cut (p := P.holds z) ?_ ?_; subst z; rotate_left; intro hz; clear_value z)
    | (extract_lets +onlyGivenNames z; subst z) | apply st_ite | apply st_countUp | apply st_setFlag | apply st_onSp | apply st_raiseGloss

theorem st_queueRx (s : State) (p : Nat) (e : RxEntry) (hP : P.holds s) : P.holds (queueRx s p e) := by
  unfold queueRx
  with_reducible repeat' first
    | assumption
    | (extract_lets +onlyGivenNames z; refine st_cut (p := P.holds z) ?_ ?_; subst z; rotate_left; intro hz; clear_value z)
    | (extract_lets +onlyGivenNames z; refine st_cut (p := P.fst z) ?_ ?_; subst z; rotate_left; intro hz; clear_value z)
    | (extract_lets +onlyGivenNames z; subst z) | apply st_ite | apply st_onSp | apply st_overrun | apply st_countUp
    | apply st_setFlag | apply st_rtsFollow | split

theorem st_completeCharacter (s : State) (p : Nat) (e : RxEntry) (hP : P.holds s) : P.holds (completeCharacter s p e) := by
  unfold completeCharacter
  with_reducible repeat' first
    | assumption
    | (extract_lets +onlyGivenNames z; refine st_cut (p := P.holds z) ?_ ?_; subst z; rotate_left; intro hz; clear_value z)
    | (extract_lets +onlyGivenNames z; refine st_cut (p := P.fst z) ?_ ?_; subst z; rotate_left; intro hz; clear_value z)
    | (extract_lets +onlyGivenNames z; subst z) | apply st_ite | apply st_onSp | apply st_queueRx | split

theorem st_nextCharacter (s : State) (p : Nat) (next : Option DWord) (hP : P.holds s) : P.holds (nextCharacter s p next) := by
  unfold nextCharacter
  with_reducible repeat' first
    | assumption
    | (extract_lets +onlyGivenNames z; refine st_cut (p := P.holds z) ?_ ?_; subst z; rotate_left; intro hz; clear_value z)
    | (extract_lets +onlyGivenNames z; refine st_cut (p := P.fst z) ?_ ?_; subst z; rotate_left; intro hz; clear_value z)
    | (extract_lets +onlyGivenNames z; subst z) | apply st_ite | apply st_onSp | apply st_applyRxBaud | split

theorem st_execCharacterReceived (p : Fin 8) (line : List Nat) (s : State) (hP : P.holds s) :
    P.out (execCharacterReceived p line s) := by
  unfold execCharacterReceived
  with_reducible repeat' first
    | assumption
    | (extract_lets +onlyGivenNames z; refine st_cut (p := P.holds z) ?_ ?_; subst z; rotate_left; intro hz; clear_value z)
    | (extract_lets +onlyGivenNames z; refine st_cut (p := P.fst z) ?_ ?_; subst z; rotate_left; intro hz; clear_value z)
    | (extract_lets +onlyGivenNames z; subst z) | apply st_ite | apply st_iteOut | apply st_nextCharacter | apply st_onSp
    | apply st_setFlag | apply st_completeCharacter | split | apply st_next | apply st_proj

theorem st_collision (s : State) (p data i : Nat) (g : Nat × Nat) (hP : P.holds s) : P.holds (collision s p data i g) := by
  unfold collision
  with_reducible repeat' first
    | assumption
    | (extract_lets +onlyGivenNames z; refine st_cut (p := P.holds z) ?_ ?_; subst z; rotate_left; intro hz; clear_value z)
    | (extract_lets +onlyGivenNames z; refine st_cut (p := P.fst z) ?_ ?_; subst z; rotate_left; intro hz; clear_value z)
    | (extract_lets +onlyGivenNames z; subst z) | apply st_ite | apply st_countUp | apply st_setFlag | apply st_onSp
    | apply st_raiseGloss | split | apply st_proj | apply Stable.mk_plain

theorem st_sendHead (s : State) (p : Nat) (echo : List Bool) (hP : P.holds s) : P.holds (sendHead s p echo) := by
  unfold sendHead
  with_reducible repeat' first
    | assumption
    | (extract_lets +onlyGivenNames z; refine st_cut (p := P.holds z) ?_ ?_; subst z; rotate_left; intro hz; clear_value z)
    | (extract_lets +onlyGivenNames z; refine st_cut (p := P.fst z) ?_ ?_; subst z; rotate_left; intro hz; clear_value z)
    | (extract_lets +onlyGivenNames z; subst z) | apply st_ite | apply st_beginReceive | apply st_collision | apply st_onSp | split
    | apply st_proj

theorem st_readyBaud (s : State) (p : Nat) (hP : P.holds s) : P.holds (readyBaud s p) := by
  unfold readyBaud
  with_reducible repeat' first | assumption | apply st_ite | apply st_applyTxBaud | split

theorem st_trySend (s : State) (p : Nat) (echo : List Bool) (hP : P.holds s) : P.holds (trySend s p echo) := by
  unfold trySend
  with_reducible repeat' first
    | assumption
    | (extract_lets +onlyGivenNames z; refine st_cut (p := P.holds z) ?_ ?_; subst z; rotate_left; intro hz; clear_value z)
    | (extract_lets +onlyGivenNames z; refine st_cut (p := P.fst z) ?_ ?_; subst z; rotate_left; intro hz; clear_value z)
    | (extract_lets +onlyGivenNames z; subst z) | apply st_ite | apply st_readyBaud | apply st_sendHead | apply st_onSp | split

theorem st_execCharacterTransmit (p : Fin 8) (echo : List Bool) (s : State) (hP : P.holds s) :
    P.out (execCharacterTransmit p echo s) := by
  unfold execCharacterTransmit
  with_reducible repeat' first | assumption | apply st_ite | apply st_iteOut | apply st_trySend | split | apply st_next

theorem st_execCollisionRetry (p : Fin 8) (echo : List Bool) (s : State) (hP : P.holds s) :
    P.out (execCollisionRetry p echo s) := by
  unfold execCollisionRetry
  with_reducible repeat' first | assumption | apply st_ite | apply st_iteOut | apply st_trySend | split | apply st_next

theorem st_txEnd (s : State) (p : Nat) (hP : P.holds s) : P.holds (txEnd s p) := by
  unfold txEnd
  with_reducible repeat' first
    | assumption
    | (extract_lets +onlyGivenNames z; refine st_cut (p := P.holds z) ?_ ?_; subst z; rotate_left; intro hz; clear_value z)
    | (extract_lets +onlyGivenNames z; refine st_cut (p := P.fst z) ?_ ?_; subst z; rotate_left; intro hz; clear_value z)
    | (extract_lets +onlyGivenNames z; subst z) | apply st_ite | apply st_applyTxBaud | apply st_onSp | split

theorem st_rxApply (s : State) (p : Nat) (hP : P.holds s) : P.holds (rxApply s p) := by
  unfold rxApply
  with_reducible repeat' first | assumption | apply st_ite | apply st_applyRxBaud | split

theorem st_echoEnd (s : State) (p : Nat) (hP : P.holds s) : P.holds (echoEnd s p) := by
  unfold echoEnd
  with_reducible repeat' first
    | assumption | apply st_ite | apply st_nextCharacter | apply st_onSp | apply st_completeCharacter | split

theorem st_ctsTick (s : State) (p : Nat) (hP : P.holds s) : P.holds (ctsTick s p) := by
  unfold ctsTick
  with_reducible repeat' first
    | assumption
    | (extract_lets +onlyGivenNames z; refine st_cut (p := P.holds z) ?_ ?_; subst z; rotate_left; intro hz; clear_value z)
    | (extract_lets +onlyGivenNames z; refine st_cut (p := P.fst z) ?_ ?_; subst z; rotate_left; intro hz; clear_value z)
    | (extract_lets +onlyGivenNames z; subst z) | apply st_ite | apply st_onSp | split | apply st_proj

theorem st_serialTick (s : State) (p : Nat) (hP : P.holds s) : P.holds (serialTick s p) := by
  unfold serialTick
  with_reducible repeat' first | assumption | apply st_ctsTick | apply st_rxApply | apply st_echoEnd | apply st_txEnd

theorem st_afterSpCtl (s : State) (p : Nat) (old : Word) (hP : P.holds s) : P.holds (afterSpCtl s p old) := by
  unfold afterSpCtl
  with_reducible repeat' first
    | assumption
    | (extract_lets +onlyGivenNames z; refine st_cut (p := P.holds z) ?_ ?_; subst z; rotate_left; intro hz; clear_value z)
    | (extract_lets +onlyGivenNames z; refine st_cut (p := P.fst z) ?_ ?_; subst z; rotate_left; intro hz; clear_value z)
    | (extract_lets +onlyGivenNames z; subst z) | apply st_ite | apply st_onSp | apply st_applyRxBaud | split

theorem st_rxFlush (s : State) (p : Nat) (hP : P.holds s) : P.holds (rxFlush s p) := by
  unfold rxFlush
  with_reducible repeat' first
    | assumption
    | (extract_lets +onlyGivenNames z; refine st_cut (p := P.holds z) ?_ ?_; subst z; rotate_left; intro hz; clear_value z)
    | (extract_lets +onlyGivenNames z; refine st_cut (p := P.fst z) ?_ ?_; subst z; rotate_left; intro hz; clear_value z)
    | (extract_lets +onlyGivenNames z; subst z) | apply st_rtsFollow | apply st_onSp

theorem st_txFlush (s : State) (p : Nat) (hP : P.holds s) : P.holds (txFlush s p) := by
  unfold txFlush
  with_reducible repeat' first | assumption | apply st_onSp

theorem st_setMute (s : State) (p : Nat) (hP : P.holds s) : P.holds (setMute s p) := by
  unfold setMute
  with_reducible repeat' first | assumption | apply st_onSp

theorem st_writeSpCmd (s : State) (p : Nat) (v : Word) (hP : P.holds s) : P.holds (writeSpCmd s p v) := by
  unfold writeSpCmd
  with_reducible repeat' first
    | assumption | (extract_lets +onlyGivenNames z; refine st_cut (p := P.holds z) ?_ ?_; subst z; rotate_left; intro hz; clear_value z)
    | apply st_ite | apply st_rxFlush | apply st_txFlush | apply st_setMute

theorem st_afterSpCfg (s : State) (p : Nat) (old : Word) (hP : P.holds s) : P.holds (afterSpCfg s p old) := by
  unfold afterSpCfg
  with_reducible repeat' first | assumption | (extract_lets +onlyGivenNames z; subst z) | apply st_ite | apply st_onSp

theorem st_writeTxd (s : State) (p : Nat) (v : Word) (hP : P.holds s) : P.holds (writeTxd s p v) := by
  unfold writeTxd
  with_reducible repeat' first | assumption | apply st_spPut | apply st_setFlag | (refine st_optElim P (by assumption) ?_) | split

theorem st_readRxd (s : State) (p : Nat) (hP : P.holds s) : P.fst (readRxd s p) := by
  unfold readRxd
  with_reducible repeat' first
    | assumption | (extract_lets +onlyGivenNames z; refine st_cut (p := P.holds z) ?_ ?_; subst z; rotate_left; intro hz; clear_value z)
    | apply st_iteFst | apply st_rtsFollow | apply st_onSp | apply st_wr | split | apply st_pair

theorem st_execNativePacketCharacter (src : Fin 8) (s : State) (hP : P.holds s) : P.out (execNativePacketCharacter src s) := by
  unfold execNativePacketCharacter
  with_reducible repeat' first
    | assumption
    | (extract_lets +onlyGivenNames z; refine st_cut (p := P.holds z) ?_ ?_; subst z; rotate_left; intro hz; clear_value z)
    | (extract_lets +onlyGivenNames z; refine st_cut (p := P.fst z) ?_ ?_; subst z; rotate_left; intro hz; clear_value z)
    | (extract_lets +onlyGivenNames z; subst z) | apply st_ite | apply st_iteOut | apply st_applyParsed | apply st_takeRx | split
    | apply st_next

theorem st_onGloss (s : State) (f : GlossSt → GlossSt) (hP : P.holds s) : P.holds (onGloss s f) := by
  unfold onGloss
  with_reducible repeat' first | assumption | apply Stable.mk_plain

theorem st_storeEntry (s : State) (e : GlossEntry) (hP : P.holds s) : P.holds (storeEntry s e) := by
  unfold storeEntry
  with_reducible repeat' first
    | assumption | (extract_lets +onlyGivenNames z; refine st_cut (p := P.holds z) ?_ ?_; subst z; rotate_left; intro hz; clear_value z)
    | apply st_storeWords | apply st_onGloss | apply st_raiseIrq

theorem st_storeNext (s : State) (hP : P.holds s) : P.holds (storeNext s) := by
  unfold storeNext
  with_reducible repeat' first | assumption | apply st_storeEntry | apply st_onGloss | split

theorem st_execGlossEntryStore (s : State) (hP : P.holds s) : P.out (execGlossEntryStore s) := by
  unfold execGlossEntryStore
  with_reducible repeat' first | assumption | apply st_ite | apply st_storeNext | apply st_next

theorem st_glossFreeze (s : State) (hP : P.holds s) : P.holds (glossFreeze s) := by
  unfold glossFreeze
  with_reducible repeat' first | assumption | apply st_onGloss | apply st_setFlag

theorem st_closeGap (s : State) (hP : P.holds s) : P.holds (closeGap s) := by
  unfold closeGap
  with_reducible repeat' first
    | assumption | (extract_lets +onlyGivenNames z; refine st_cut (p := P.holds z) ?_ ?_; subst z; rotate_left; intro hz; clear_value z)
    | apply st_ite | apply st_onGloss | apply st_glossEnqueue | apply st_glossLose | split

theorem st_glossResume (s : State) (hP : P.holds s) : P.holds (glossResume s) := by
  unfold glossResume
  with_reducible repeat' first
    | assumption | (extract_lets +onlyGivenNames z; refine st_cut (p := P.holds z) ?_ ?_; subst z; rotate_left; intro hz; clear_value z)
    | apply st_ite | apply st_clrFlag | apply st_onGloss | apply st_closeGap

theorem st_execGlossFreeze (s : State) (hP : P.holds s) : P.out (execGlossFreeze s) := by
  unfold execGlossFreeze
  with_reducible repeat' first | assumption | apply st_glossFreeze | apply st_next

theorem st_execGlossResume (s : State) (hP : P.holds s) : P.out (execGlossResume s) := by
  unfold execGlossResume
  with_reducible repeat' first | assumption | apply st_glossResume | apply st_next

theorem st_endStoring (s : State) (hP : P.holds s) : P.holds (endStoring s) := by
  unfold endStoring
  with_reducible repeat' first
    | assumption | (extract_lets +onlyGivenNames z; refine st_cut (p := P.holds z) ?_ ?_; subst z; rotate_left; intro hz; clear_value z)
    | apply st_ite | apply st_onGloss | apply st_closeGap

theorem st_clearKeptArea (s : State) (hP : P.holds s) : P.holds (clearKeptArea s) := by
  unfold clearKeptArea
  with_reducible repeat' first | assumption | apply st_onGloss | apply st_clearRange

theorem st_clearCircArea (s : State) (hP : P.holds s) : P.holds (clearCircArea s) := by
  unfold clearCircArea
  with_reducible repeat' first | assumption | apply st_onGloss | apply st_clearRange

theorem st_glossCommand (s : State) (key op : Nat) (hP : P.holds s) : P.holds (glossCommand s key op) := by
  unfold glossCommand
  with_reducible repeat' first
    | assumption | (extract_lets +onlyGivenNames z; refine st_cut (p := P.holds z) ?_ ?_; subst z; rotate_left; intro hz; clear_value z)
    | (extract_lets +onlyGivenNames z; subst z) | apply st_ite | apply st_refuse | apply st_clearKeptArea | apply st_clearCircArea
    | apply st_onGloss

theorem st_glossRate (s : State) (v : Word) (hP : P.holds s) : P.holds (glossRate s v) := by
  unfold glossRate
  with_reducible repeat' first | assumption | apply st_ite | apply st_refuse | apply st_onGloss | apply st_wr

theorem st_glossOverride (s : State) (n : Nat) (v : Word) (hP : P.holds s) : P.holds (glossOverride s n v) := by
  unfold glossOverride
  with_reducible repeat' first
    | assumption | (extract_lets +onlyGivenNames z; subst z) | apply st_ite | apply st_refuse | apply st_onGloss | apply st_wr

theorem st_emptyBank (s : State) (hP : P.holds s) : P.holds (emptyBank s) := by
  unfold emptyBank
  with_reducible repeat' first | assumption | apply st_onGloss | apply st_clearRange

theorem st_clearTorn (s : State) (hP : P.holds s) : P.holds (clearTorn s) := by
  unfold clearTorn
  with_reducible repeat' first | assumption | apply st_clearRange

theorem st_reachBank (s : State) (restart : Option (Nat × DWord)) (hP : P.holds s) : P.holds (reachBank s restart) := by
  unfold reachBank
  with_reducible repeat' first
    | assumption | (extract_lets +onlyGivenNames z; refine st_cut (p := P.holds z) ?_ ?_; subst z; rotate_left; intro hz; clear_value z)
    | (extract_lets +onlyGivenNames z; subst z) | apply st_onGloss | split

theorem st_flashProg (s : State) (a : Nat) (y0 : List Byte) (hP : P.holds s) : P.holds (flashProg s a y0) := by
  induction y0 generalizing s a with
  | nil => exact hP
  | cons b bs ih => exact ih _ _ (Stable.mk_plain P s _ _ _ _ _ _ _ _ _ _ _ _ _ _ _ _ _ _ _ _ _ hP)

theorem st_flashEraseRange (s : State) (a n : Nat) (hP : P.holds s) : P.holds (flashEraseRange s a n) := by
  unfold flashEraseRange
  with_reducible repeat' first | assumption | (extract_lets +onlyGivenNames z; subst z) | apply Stable.mk_plain

theorem st_fetchBlock (w : Nat) (x : Wave) (s : State) (b : Nat) (hP : P.holds s) : P.holds (fetchBlock w x s b) := by
  unfold fetchBlock
  with_reducible repeat' first
    | assumption
    | (extract_lets +onlyGivenNames z; refine st_cut (p := P.holds z) ?_ ?_; subst z; rotate_left; intro hz; clear_value z)
    | (extract_lets +onlyGivenNames z; refine st_cut (p := P.fst z) ?_ ?_; subst z; rotate_left; intro hz; clear_value z)
    | (extract_lets +onlyGivenNames z; subst z) | apply st_storeBytes | split | apply Stable.mk_plain

theorem st_execStreamFetch (s : State) (hP : P.holds s) : P.out (execStreamFetch s) := by
  unfold execStreamFetch
  with_reducible repeat' first
    | assumption | apply st_fetchBlock | refine st_foldl P _ ?_ _ _ ?_ | refine st_foldlFst P _ ?_ _ _ ?_ | intro t x ht | split
    | apply st_next

theorem st_storeResult (s : State) (r : Nat) (hP : P.holds s) : P.holds (storeResult s r) := by
  unfold storeResult
  with_reducible repeat' first
    | assumption | (extract_lets +onlyGivenNames z; refine st_cut (p := P.holds z) ?_ ?_; subst z; rotate_left; intro hz; clear_value z)
    | apply st_ite | apply st_wrFld | apply st_raiseIrq | apply st_setFlag

theorem st_refuseStore (s : State) (kind r : Nat) (host : Bool) (hP : P.holds s) : P.holds (refuseStore s kind r host) := by
  unfold refuseStore
  with_reducible repeat' first
    | assumption | (extract_lets +onlyGivenNames z; refine st_cut (p := P.holds z) ?_ ?_; subst z; rotate_left; intro hz; clear_value z)
    | apply st_ite | apply st_storeResult | apply st_raiseGloss

theorem st_showHoldup (s : State) (d : StoreDesc) (hP : P.holds s) : P.holds (showHoldup s d) := by
  unfold showHoldup
  with_reducible repeat' first | assumption | apply st_wr

theorem st_startStore (s : State) (kind : Nat) (payload : List Byte) (host : Bool) (hP : P.holds s) :
    P.holds (startStore s kind payload host) := by
  unfold startStore
  with_reducible repeat' first
    | assumption
    | (extract_lets +onlyGivenNames z; refine st_cut (p := P.holds z) ?_ ?_; subst z; rotate_left; intro hz; clear_value z)
    | (extract_lets +onlyGivenNames z; refine st_cut (p := P.fst z) ?_ ?_; subst z; rotate_left; intro hz; clear_value z)
    | (extract_lets +onlyGivenNames z; subst z) | apply st_ite | apply st_refuseStore | apply st_showHoldup | apply st_clrFlag
    | apply st_setFlag | (refine st_ofPair P (by assumption)) | (refine st_left P (by assumption) ?_) | split | apply st_iteFst
    | apply st_pair | apply st_proj | apply Stable.mk_plain

theorem st_fillSbuf (s : State) (bs : List Byte) (hP : P.holds s) : P.holds (fillSbuf s bs) := by
  unfold fillSbuf
  with_reducible repeat' first
    | assumption | (extract_lets +onlyGivenNames z; subst z) | apply st_wr | refine st_foldl P _ ?_ _ _ ?_ | intro t x ht

theorem st_finishStore (s : State) (kind slot seq : Nat) (record : List Byte) (host ahead : Bool) (hP : P.holds s) :
    P.holds (finishStore s kind slot seq record host ahead) := by
  unfold finishStore
  with_reducible repeat' first
    | assumption
    | (extract_lets +onlyGivenNames z; refine st_cut (p := P.holds z) ?_ ?_; subst z; rotate_left; intro hz; clear_value z)
    | (extract_lets +onlyGivenNames z; refine st_cut (p := P.fst z) ?_ ?_; subst z; rotate_left; intro hz; clear_value z)
    | (extract_lets +onlyGivenNames z; subst z) | apply st_ite | apply st_clrFlag | apply st_flashProg | apply st_flashEraseRange
    | apply st_endStoring | apply st_storeResult | split | apply Stable.mk_plain

theorem st_glossPayload (s : State) (hP : P.holds s) : P.fst (glossPayload s) := by
  unfold glossPayload
  exact st_pair P _ _ (st_readBytes P s 3 glossBase 4096 hP)

theorem st_startGlossStore (s : State) (hP : P.holds s) : P.holds (startGlossStore s) := by
  unfold startGlossStore
  have h : P.holds (glossPayload s).1 := st_glossPayload P s hP
  generalize glossPayload s = r at h ⊢
  with_reducible repeat' first
    | assumption | (extract_lets +onlyGivenNames z; refine st_cut (p := P.holds z) ?_ ?_; subst z; rotate_left; intro hz; clear_value z)
    | (extract_lets +onlyGivenNames z; subst z) | apply st_ite | apply st_onGloss | apply st_startStore | split

theorem st_afterStore (s : State) (hP : P.holds s) : P.holds (afterStore s) := by
  unfold afterStore
  with_reducible repeat' first | assumption | apply st_ite | apply st_startGlossStore | apply st_onGloss

theorem st_storeCommit (s : State) (hP : P.holds s) : P.holds (storeCommit s) := by
  unfold storeCommit
  with_reducible repeat' first | assumption | apply st_ite | apply st_afterStore | apply st_finishStore | split

theorem st_startFlash (s : State) (op : Nat) (hP : P.holds s) : P.holds (startFlash s op) := by
  unfold startFlash
  with_reducible repeat' first | assumption | apply Stable.mk_plain

theorem st_finishFlash (s : State) (op a : Nat) (hP : P.holds s) : P.holds (finishFlash s op a) := by
  unfold finishFlash
  with_reducible repeat' first
    | assumption
    | (extract_lets +onlyGivenNames z; refine st_cut (p := P.holds z) ?_ ?_; subst z; rotate_left; intro hz; clear_value z)
    | (extract_lets +onlyGivenNames z; refine st_cut (p := P.fst z) ?_ ?_; subst z; rotate_left; intro hz; clear_value z)
    | (extract_lets +onlyGivenNames z; subst z) | apply st_ite | apply st_fillSbuf | apply st_flashProg | apply st_flashEraseRange
    | apply st_raiseIrq | apply st_setFlag | split | apply Stable.mk_plain

theorem st_execFlashOperationDone (s : State) (hP : P.holds s) : P.out (execFlashOperationDone s) := by
  unfold execFlashOperationDone
  with_reducible repeat' first | assumption | apply st_ite | apply st_iteOut | apply st_finishFlash | split | apply st_next

theorem st_emptyBanks (s : State) (hP : P.holds s) : P.holds (emptyBanks s) := by
  unfold emptyBanks
  with_reducible repeat' first
    | assumption | (extract_lets +onlyGivenNames z; subst z) | apply Stable.mk_any
    | (refine ⟨?_, ?_, ?_, ?_, ?_, ⟨?_, ?_, ?_, ?_, ?_, ⟨?_, ?_, ?_, ?_⟩⟩⟩ <;> intro hn <;> first | exact hn | (simp; done) | simp [hn])

theorem st_noPhrases (t : State) (h : P.holds t) :
    P.holds (emptyBanks { t with phrases := [], time := { t.time with rendering := false } }) := by
  with_reducible exact st_emptyBanks P _ (Stable.mk_plain P t _ _ _ _ _ _ _ _ _ _ _ _ _ _ _ _ _ _ _ _ _ h)

theorem st_noRecords (t : State) (h : P.holds t) :
    P.holds { t with alloc := { t.alloc with recs := [], ops := [], noteStacks := List.replicate 16 [] }, parser := {} } := by
  with_reducible apply Stable.mk_any P t <;> first
    | exact h | exact ⟨id, id, id, id, id, ⟨id, id, id, id, id, ⟨id, id, id, fun _ => List.length_replicate⟩⟩⟩

theorem st_stopRendering (s : State) (hP : P.holds s) : P.holds (stopRendering s) := by
  rw [stopRendering.eq_1]
  split
  · exact hP
  · exact st_noRecords P _ (st_noPhrases P _ (st_tenseStop P _ (st_reportVoids P _ _ (st_applyStaged P s hP))))

theorem st_createGlobals (s : State) (hP : P.holds s) : P.holds (createGlobals s) := by
  unfold createGlobals
  with_reducible repeat' first
    | assumption | (extract_lets +onlyGivenNames z; subst z) | apply st_placePhrase | refine st_foldl P _ ?_ _ _ ?_ | intro t x ht | split
    | apply Stable.mk_plain

theorem st_startRendering (s : State) (n : Nat) (hP : P.holds s) : P.holds (startRendering s n) := by
  unfold startRendering
  with_reducible repeat' first
    | assumption
    | (extract_lets +onlyGivenNames z; refine st_cut (p := P.holds z) ?_ ?_; subst z; rotate_left; intro hz; clear_value z)
    | (extract_lets +onlyGivenNames z; refine st_cut (p := P.fst z) ?_ ?_; subst z; rotate_left; intro hz; clear_value z)
    | (extract_lets +onlyGivenNames z; subst z) | apply st_createGlobals | apply st_refreshVerbs | apply st_showFree
    | apply Stable.mk_plain

theorem st_clearPage (s : State) (page : Nat) (hP : P.holds s) : P.holds (clearPage s page) := by
  unfold clearPage
  with_reducible repeat' first | assumption | apply Stable.mk_regs | exact ⟨id, id, id, id, id, ⟨id, id, id, id, id, ⟨id, id, id, id⟩⟩⟩

theorem st_resetOutputs (s : State) (hP : P.holds s) : P.holds (resetOutputs s) := by
  unfold resetOutputs
  with_reducible repeat' first
    | assumption
    | (extract_lets +onlyGivenNames z; refine st_cut (p := P.holds z) ?_ ?_; subst z; rotate_left; intro hz; clear_value z)
    | (extract_lets +onlyGivenNames z; refine st_cut (p := P.fst z) ?_ ?_; subst z; rotate_left; intro hz; clear_value z)
    | (extract_lets +onlyGivenNames z; subst z) | apply Stable.mk_plain | apply Stable.mk_analog | apply Stable.mk_any
    | (refine ⟨?_, ?_, ?_, ?_, ?_, ⟨?_, ?_, ?_, ?_, ?_, ⟨?_, ?_, ?_, ?_⟩⟩⟩ <;> intro hn <;> first | exact hn | (simp; done) | simp [hn])

theorem st_sdoLevel (s : State) (p : Nat) (hP : P.holds s) : P.fst (sdoLevel s p) := by
  unfold sdoLevel
  with_reducible repeat' first
    | assumption
    | (extract_lets +onlyGivenNames z; refine st_cut (p := P.holds z) ?_ ?_; subst z; rotate_left; intro hz; clear_value z)
    | (extract_lets +onlyGivenNames z; refine st_cut (p := P.fst z) ?_ ?_; subst z; rotate_left; intro hz; clear_value z)
    | (extract_lets +onlyGivenNames z; subst z) | apply st_ite | apply st_iteFst | apply st_drawFree
    | (refine st_ofPair P (by assumption)) | (refine st_left P (by assumption) ?_) | split | apply st_iteFst | apply st_pair
    | apply st_proj

theorem st_sdoLevels (s : State) (hP : P.holds s) : P.fst (sdoLevels s) := by
  unfold sdoLevels
  with_reducible repeat' first
    | assumption
    | (extract_lets +onlyGivenNames z; refine st_cut (p := P.holds z) ?_ ?_; subst z; rotate_left; intro hz; clear_value z)
    | (extract_lets +onlyGivenNames z; refine st_cut (p := P.fst z) ?_ ?_; subst z; rotate_left; intro hz; clear_value z)
    | (extract_lets +onlyGivenNames z; subst z) | apply st_sdoLevel | refine st_foldl P _ ?_ _ _ ?_
    | refine st_foldlFst P _ ?_ _ _ ?_ | intro t x ht | (refine st_ofPair P (by assumption)) | (refine st_left P (by assumption) ?_)
    | split | apply st_iteFst | apply st_pair | apply st_proj

theorem st_padLevels (s : State) (hP : P.holds s) : P.holds (padLevels s) := by
  unfold padLevels
  with_reducible repeat' first
    | assumption
    | (extract_lets +onlyGivenNames z; refine st_cut (p := P.holds z) ?_ ?_; subst z; rotate_left; intro hz; clear_value z)
    | (extract_lets +onlyGivenNames z; refine st_cut (p := P.fst z) ?_ ?_; subst z; rotate_left; intro hz; clear_value z)
    | (extract_lets +onlyGivenNames z; subst z) | apply st_sdoLevels | (refine st_ofPair P (by assumption))
    | (refine st_left P (by assumption) ?_) | split | apply st_iteFst | apply st_pair | apply st_proj | apply Stable.mk_plain

theorem st_latchPads (s : State) (d : Nat) (hP : P.holds s) : P.holds (latchPads s d) := by
  unfold latchPads
  with_reducible repeat' first | assumption | apply st_ite | apply st_setFlag | apply st_padLevels | split

theorem st_loseDomain (s : State) (d : Nat) (hP : P.holds s) : P.holds (loseDomain s d) := by
  unfold loseDomain
  with_reducible repeat' first
    | assumption
    | (extract_lets +onlyGivenNames z; refine st_cut (p := P.holds z) ?_ ?_; subst z; rotate_left; intro hz; clear_value z)
    | (extract_lets +onlyGivenNames z; refine st_cut (p := P.fst z) ?_ ?_; subst z; rotate_left; intro hz; clear_value z)
    | (extract_lets +onlyGivenNames z; subst z) | apply st_ite | apply st_clearPage | apply st_resetOutputs | apply st_resetInputs
    | apply st_familyPorts | apply st_resetDai | refine st_foldl P _ ?_ _ _ ?_ | refine st_foldlFst P _ ?_ _ _ ?_ | intro t x ht
    | split | apply Stable.mk_plain | apply Stable.mk_evt | apply Stable.mk_alloc | apply Stable.mk_any
    | (refine ⟨?_, ?_, ?_, ?_, ?_, ⟨?_, ?_, ?_, ?_, ?_, ⟨?_, ?_, ?_, ?_⟩⟩⟩ <;> intro hn <;> first | exact hn | (simp; done) | simp [hn])

theorem st_domainOff (s : State) (d : Nat) (hP : P.holds s) : P.holds (domainOff s d) := by
  unfold domainOff
  with_reducible repeat' first | assumption | apply st_ite | apply st_clrFlag | apply st_loseDomain | apply st_latchPads

theorem st_domainUp (s : State) (d : Nat) (hP : P.holds s) : P.holds (domainUp s d) := by
  unfold domainUp
  with_reducible repeat' first
    | assumption
    | (extract_lets +onlyGivenNames z; refine st_cut (p := P.holds z) ?_ ?_; subst z; rotate_left; intro hz; clear_value z)
    | (extract_lets +onlyGivenNames z; refine st_cut (p := P.fst z) ?_ ?_; subst z; rotate_left; intro hz; clear_value z)
    | (extract_lets +onlyGivenNames z; subst z) | apply st_ite | apply st_setFlag | apply st_clearRange | split

theorem st_applyDomains (s : State) (hP : P.holds s) : P.holds (applyDomains s) := by
  unfold applyDomains
  with_reducible repeat' first
    | assumption | (extract_lets +onlyGivenNames z; refine st_cut (p := P.holds z) ?_ ?_; subst z; rotate_left; intro hz; clear_value z)
    | (extract_lets +onlyGivenNames z; subst z) | apply st_ite | apply st_domainUp | apply st_domainOff | refine st_foldl P _ ?_ _ _ ?_
    | intro t x ht | apply Stable.mk_plain

theorem st_writeDomen (s : State) (v : Word) (hP : P.holds s) : P.holds (writeDomen s v) := by
  unfold writeDomen
  with_reducible repeat' first
    | assumption
    | (extract_lets +onlyGivenNames z; refine st_cut (p := P.holds z) ?_ ?_; subst z; rotate_left; intro hz; clear_value z)
    | (extract_lets +onlyGivenNames z; refine st_cut (p := P.fst z) ?_ ?_; subst z; rotate_left; intro hz; clear_value z)
    | (extract_lets +onlyGivenNames z; subst z) | apply st_ite | apply st_refuse | apply st_wrFld | apply st_applyDomains | split
    | apply Stable.mk_plain

theorem st_writePadrel (s : State) (v : Word) (hP : P.holds s) : P.holds (writePadrel s v) := by
  unfold writePadrel
  with_reducible repeat' first
    | assumption | (extract_lets +onlyGivenNames z; refine st_cut (p := P.holds z) ?_ ?_; subst z; rotate_left; intro hz; clear_value z)
    | (extract_lets +onlyGivenNames z; subst z) | apply st_ite | apply st_refuse | apply st_clrFlag | apply st_openAllParks
    | refine st_foldl P _ ?_ _ _ ?_ | intro t x ht

theorem st_noteSupply (s : State) (vin : Nat) (hP : P.holds s) : P.holds (noteSupply s vin) := by
  unfold noteSupply
  with_reducible repeat' first
    | assumption
    | (extract_lets +onlyGivenNames z; refine st_cut (p := P.holds z) ?_ ?_; subst z; rotate_left; intro hz; clear_value z)
    | (extract_lets +onlyGivenNames z; refine st_cut (p := P.fst z) ?_ ?_; subst z; rotate_left; intro hz; clear_value z)
    | (extract_lets +onlyGivenNames z; subst z) | apply st_ite | split | apply Stable.mk_plain

theorem st_showVin (s : State) (vin : Nat) (hP : P.holds s) : P.holds (showVin s vin) := by
  unfold showVin
  with_reducible repeat' first
    | assumption
    | (extract_lets +onlyGivenNames z; refine st_cut (p := P.holds z) ?_ ?_; subst z; rotate_left; intro hz; clear_value z)
    | (extract_lets +onlyGivenNames z; refine st_cut (p := P.fst z) ?_ ?_; subst z; rotate_left; intro hz; clear_value z)
    | (extract_lets +onlyGivenNames z; subst z) | apply st_ite | apply st_wrFld | apply st_noteSupply | split | apply Stable.mk_plain

theorem st_execBrownoutWarning (vin : BitVec 16) (s : State) (hP : P.holds s) : P.out (execBrownoutWarning vin s) := by
  unfold execBrownoutWarning
  with_reducible repeat' first
    | assumption
    | (extract_lets +onlyGivenNames z; refine st_cut (p := P.holds z) ?_ ?_; subst z; rotate_left; intro hz; clear_value z)
    | (extract_lets +onlyGivenNames z; refine st_cut (p := P.fst z) ?_ ?_; subst z; rotate_left; intro hz; clear_value z)
    | (extract_lets +onlyGivenNames z; subst z) | apply st_ite | apply st_iteOut | apply st_showVin | apply st_setFlag
    | apply st_raiseIrq | apply st_startGlossStore | apply st_raiseGloss | split | apply st_next | apply Stable.mk_plain

theorem st_releaseWarned (s : State) (hP : P.holds s) : P.holds (releaseWarned s) := by
  unfold releaseWarned
  with_reducible repeat' first
    | assumption | (extract_lets +onlyGivenNames z; subst z) | apply st_makeAvailable | refine st_foldl P _ ?_ _ _ ?_ | intro t x ht
    | (refine st_left P (by assumption) ?_) | split | apply Stable.mk_evt

theorem st_warningRecovery (s : State) (vin : BitVec 16) (hP : P.holds s) : P.holds (warningRecovery s vin) := by
  unfold warningRecovery
  with_reducible repeat' first
    | assumption
    | (extract_lets +onlyGivenNames z; refine st_cut (p := P.holds z) ?_ ?_; subst z; rotate_left; intro hz; clear_value z)
    | (extract_lets +onlyGivenNames z; refine st_cut (p := P.fst z) ?_ ?_; subst z; rotate_left; intro hz; clear_value z)
    | (extract_lets +onlyGivenNames z; subst z) | apply st_ite | apply st_showVin | apply st_clrFlag | apply st_raiseIrq
    | apply st_raiseGloss | apply st_releaseWarned | split | apply Stable.mk_plain

theorem st_brownoutMute (s : State) (hP : P.holds s) : P.holds (brownoutMute s) := by
  unfold brownoutMute
  with_reducible repeat' first
    | assumption | (extract_lets +onlyGivenNames z; refine st_cut (p := P.holds z) ?_ ?_; subst z; rotate_left; intro hz; clear_value z)
    | (extract_lets +onlyGivenNames z; subst z) | apply st_setFlag | apply st_raiseGloss | apply Stable.mk_plain

theorem st_execBrownoutMute (s : State) (hP : P.holds s) : P.out (execBrownoutMute s) := by
  unfold execBrownoutMute
  with_reducible repeat' first | assumption | apply st_iteOut | apply st_brownoutMute | apply st_next

theorem st_execVholdShort (millivolts : BitVec 16) (s : State) (hP : P.holds s) : P.out (execVholdShort millivolts s) := by
  unfold execVholdShort
  with_reducible repeat' first
    | assumption
    | (extract_lets +onlyGivenNames z; refine st_cut (p := P.holds z) ?_ ?_; subst z; rotate_left; intro hz; clear_value z)
    | (extract_lets +onlyGivenNames z; refine st_cut (p := P.fst z) ?_ ?_; subst z; rotate_left; intro hz; clear_value z)
    | (extract_lets +onlyGivenNames z; subst z) | apply st_ite | apply st_iteOut | apply st_clrFlag | apply st_raiseGloss
    | apply st_setFlag | split | apply st_next | apply Stable.mk_plain

theorem st_clearVinmin (s : State) (hP : P.holds s) : P.holds (clearVinmin s) := by
  unfold clearVinmin
  with_reducible repeat' first | assumption | apply st_wrFld

theorem st_interruptFuse (s : State) (hP : P.holds s) : P.holds (interruptFuse s) := by
  unfold interruptFuse
  split
  · exact hP
  · have h1 := st_drawFree P s hP
    have h2 := st_drawFree P (drawFree s).1 h1
    exact P.plain _ _ (P.blow _ _ _ _ h2) rfl rfl rfl rfl ⟨id, id, id, id, id, ⟨id, id, id, id, id, ⟨id, id, id, id⟩⟩⟩

theorem st_deviceReset (s : State) (cause : Nat) (hP : P.holds s) : P.holds (deviceReset s cause) := by
  unfold deviceReset
  extract_lets +onlyGivenNames t
  have ht : P.holds t := st_interruptFuse P s hP
  clear_value t
  have h0 : ∀ tap power, P.holds { pending := t.pending, free := t.free, flash := t.flash, fuse := t.fuse, tap, power } := fun tap power =>
    P.plain _ _ (P.dropMem _ (fun _ => false) (P.dropRegs t (fun _ => false) ht)) (by simp) (by simp) rfl rfl ⟨fun _ => rfl, fun _ => rfl, fun _ => rfl, ⟨fun _ => rfl, fun _ => rfl, fun _ => rfl, ⟨fun _ => rfl, fun _ => rfl, fun _ => rfl, ⟨fun _ => rfl, fun _ => rfl, fun _ => rfl, ⟨fun _ => rfl, fun _ => rfl⟩⟩⟩⟩⟩
  have h1 : ∀ q e m g tap power, P.holds { pending := t.pending, free := t.free, flash := t.flash, fuse := t.fuse, tap, power, mem := t.mem.filter q, ecc := e, memint := m, gloss := g } := fun q e m g tap power =>
    P.plain _ _ (P.dropMem _ q (P.dropRegs t (fun _ => false) ht)) (by simp) rfl rfl rfl ⟨fun _ => rfl, fun _ => rfl, fun _ => rfl, ⟨fun _ => rfl, fun _ => rfl, fun _ => rfl, ⟨fun _ => rfl, fun _ => rfl, fun _ => rfl, ⟨fun _ => rfl, fun _ => rfl, fun _ => rfl, ⟨fun _ => rfl, fun _ => rfl⟩⟩⟩⟩⟩
  extract_lets +onlyGivenNames keep fr inBank f1
  have hf : P.holds f1 := st_ite P _ _ (h0 _ _) (h1 _ _ _ _ _ _)
  clear_value f1
  repeat' first
    | with_reducible assumption
    | (extract_lets +onlyGivenNames z; refine st_cut (p := P.holds z) ?_ ?_; subst z; rotate_left; intro hz; clear_value z)
    | (extract_lets +onlyGivenNames z; subst z)
    | with_reducible apply st_ite
    | with_reducible apply st_wrFld

theorem st_powerOnReset (s : State) (vin : Nat) (hP : P.holds s) : P.holds (powerOnReset s vin) := by
  unfold powerOnReset
  with_reducible repeat' first
    | assumption
    | (extract_lets +onlyGivenNames z; refine st_cut (p := P.holds z) ?_ ?_; subst z; rotate_left; intro hz; clear_value z)
    | (extract_lets +onlyGivenNames z; refine st_cut (p := P.fst z) ?_ ?_; subst z; rotate_left; intro hz; clear_value z)
    | (extract_lets +onlyGivenNames z; subst z) | apply st_deviceReset | apply st_wrFld | apply Stable.mk_plain

theorem st_execPowerOnReset (vin : BitVec 16) (s : State) (hP : P.holds s) : P.out (execPowerOnReset vin s) := by
  unfold execPowerOnReset
  with_reducible repeat' first | assumption | apply st_powerOnReset | apply st_next

theorem st_deferReset (s : State) (hP : P.holds s) : P.holds (deferReset s) := by
  unfold deferReset
  with_reducible repeat' first
    | assumption | (extract_lets +onlyGivenNames z; refine st_cut (p := P.holds z) ?_ ?_; subst z; rotate_left; intro hz; clear_value z)
    | (extract_lets +onlyGivenNames z; subst z) | apply st_emptyBanks | apply st_closeAllParks | apply st_cvClose | apply st_domainOff
    | refine st_foldl P _ ?_ _ _ ?_ | apply Stable.mk_plain

theorem st_execBrownoutReset (vin : BitVec 16) (s : State) (hP : P.holds s) : P.out (execBrownoutReset vin s) := by
  unfold execBrownoutReset
  with_reducible repeat' first
    | assumption
    | (extract_lets +onlyGivenNames z; refine st_cut (p := P.holds z) ?_ ?_; subst z; rotate_left; intro hz; clear_value z)
    | (extract_lets +onlyGivenNames z; refine st_cut (p := P.fst z) ?_ ?_; subst z; rotate_left; intro hz; clear_value z)
    | (extract_lets +onlyGivenNames z; subst z) | apply st_ite | apply st_iteOut | apply st_showVin | apply st_powerOnReset
    | apply st_deferReset | apply st_deviceReset | split | apply st_next

theorem st_execPinReset (s : State) (hP : P.holds s) : P.out (execPinReset s) := by
  unfold execPinReset
  with_reducible repeat' first | assumption | apply st_deviceReset | apply st_next

theorem st_tornStore (s : State) (kind slot : Nat) (record : List Byte) (hP : P.holds s) : P.holds (tornStore s kind slot record) := by
  unfold tornStore
  with_reducible repeat' first | assumption | apply st_flashProg | split

theorem st_flushGloss  (y0 : Nat) (y1 : State) (hP : P.holds y1) : P.holds (flushGloss  y0 y1) := by
  induction y0 generalizing y1 <;>
  unfold flushGloss
  with_reducible repeat' first | assumption | apply st_ite | apply st_storeNext | apply_assumption

theorem st_execStoreOnHoldup (vhold : BitVec 16) (reachesVmin : Bool) (s : State) (hP : P.holds s) :
    P.out (execStoreOnHoldup vhold reachesVmin s) := by
  unfold execStoreOnHoldup
  with_reducible repeat' first
    | assumption
    | (extract_lets +onlyGivenNames z; refine st_cut (p := P.holds z) ?_ ?_; subst z; rotate_left; intro hz; clear_value z)
    | (extract_lets +onlyGivenNames z; refine st_cut (p := P.fst z) ?_ ?_; subst z; rotate_left; intro hz; clear_value z)
    | (extract_lets +onlyGivenNames z; subst z) | apply st_ite | apply st_iteOut | apply st_deviceReset | apply st_tornStore
    | apply st_raiseGloss | apply st_finishStore | apply st_flushGloss | split | apply st_next | apply Stable.mk_plain

theorem st_pwrRequest (s : State) (req : Nat) (hP : P.holds s) : P.holds (pwrRequest s req) := by
  unfold pwrRequest
  with_reducible repeat' first
    | assumption
    | (extract_lets +onlyGivenNames z; refine st_cut (p := P.holds z) ?_ ?_; subst z; rotate_left; intro hz; clear_value z)
    | (extract_lets +onlyGivenNames z; refine st_cut (p := P.fst z) ?_ ?_; subst z; rotate_left; intro hz; clear_value z)
    | (extract_lets +onlyGivenNames z; subst z) | apply st_ite | apply st_setFlag | apply st_refuse | apply st_latchWake
    | apply st_deviceReset | split | apply Stable.mk_plain

theorem st_reachState (s : State) (st : Nat) (hP : P.holds s) : P.holds (reachState s st) := by
  unfold reachState
  with_reducible repeat' first | assumption | apply st_raiseIrq | apply st_clrFlag | apply st_wrFld

theorem st_applyWant (s : State) (hP : P.holds s) : P.holds (applyWant s) := by
  unfold applyWant
  with_reducible repeat' first
    | assumption | apply st_reachState | apply st_stopRendering | apply st_startRendering | split | apply Stable.mk_plain

theorem st_stopForEntry (s : State) (hP : P.holds s) : P.holds (stopForEntry s) := by
  unfold stopForEntry
  with_reducible repeat' first | assumption | apply st_ite | apply st_stopRendering | split

theorem st_retain (s : State) (target : Nat) (hP : P.holds s) : P.holds (retain s target) := by
  unfold retain
  with_reducible repeat' first
    | assumption | (extract_lets +onlyGivenNames z; refine st_cut (p := P.holds z) ?_ ?_; subst z; rotate_left; intro hz; clear_value z)
    | (extract_lets +onlyGivenNames z; subst z) | apply st_ite | apply st_clearRange | refine st_foldl P _ ?_ _ _ ?_ | intro t x ht

theorem st_entryComplete (s : State) (hP : P.holds s) : P.holds (entryComplete s) := by
  unfold entryComplete
  with_reducible repeat' first
    | assumption
    | (extract_lets +onlyGivenNames z; refine st_cut (p := P.holds z) ?_ ?_; subst z; rotate_left; intro hz; clear_value z)
    | (extract_lets +onlyGivenNames z; refine st_cut (p := P.fst z) ?_ ?_; subst z; rotate_left; intro hz; clear_value z)
    | (extract_lets +onlyGivenNames z; subst z) | apply st_ite | apply st_flushGloss | apply st_domainOff | apply st_retain
    | apply st_clrFlag | apply st_switchClock | apply st_drawFree | apply st_reachState | refine st_foldl P _ ?_ _ _ ?_
    | refine st_foldlFst P _ ?_ _ _ ?_ | intro t x ht | (refine st_ofPair P (by assumption)) | (refine st_left P (by assumption) ?_)
    | split | apply st_iteFst | apply st_pair | apply st_proj | apply Stable.mk_plain

theorem st_frmPayload (s : State) (m nevt : Nat) (hP : P.holds s) : P.fst (frmPayload s m nevt) := by
  unfold frmPayload
  with_reducible repeat' first
    | assumption
    | (extract_lets +onlyGivenNames z; refine st_cut (p := P.holds z) ?_ ?_; subst z; rotate_left; intro hz; clear_value z)
    | (extract_lets +onlyGivenNames z; refine st_cut (p := P.fst z) ?_ ?_; subst z; rotate_left; intro hz; clear_value z)
    | (extract_lets +onlyGivenNames z; subst z) | apply st_readBytes | (refine st_ofPair P (by assumption))
    | (refine st_left P (by assumption) ?_) | split | apply st_iteFst | apply st_pair | apply st_proj

theorem st_sendFrm (s : State) (m nevt : Nat) (hP : P.holds s) : P.holds (sendFrm s m nevt) := by
  unfold sendFrm
  with_reducible repeat' first
    | assumption
    | (extract_lets +onlyGivenNames z; refine st_cut (p := P.holds z) ?_ ?_; subst z; rotate_left; intro hz; clear_value z)
    | (extract_lets +onlyGivenNames z; refine st_cut (p := P.fst z) ?_ ?_; subst z; rotate_left; intro hz; clear_value z)
    | (extract_lets +onlyGivenNames z; subst z) | apply st_ite | apply st_frmPayload | apply st_sendDown
    | (refine st_ofPair P (by assumption)) | (refine st_left P (by assumption) ?_) | split | apply st_iteFst | apply st_pair
    | apply st_proj

theorem st_holdWord (s : State) (k b j : Nat) (hP : P.holds s) : P.fst (holdWord s k b j) := by
  unfold holdWord
  with_reducible repeat' first
    | assumption | apply st_iteFst | apply st_fetchWord | apply st_voidFrame | apply st_pair | apply st_proj

theorem st_heldSums (s : State) (k : Nat) (hP : P.holds s) : P.fst (heldSums s k) := by
  unfold heldSums
  with_reducible repeat' first
    | assumption | apply st_holdWord | refine st_foldlFst P _ ?_ _ _ ?_ | intro t x ht | (refine st_ofPair P (by assumption))
    | (refine st_left P (by assumption) ?_) | split | apply st_pair

theorem st_clearBlock (s : State) (l : Nat) (hP : P.holds s) : P.holds (clearBlock s l) := by
  unfold clearBlock
  with_reducible repeat' first | assumption | apply st_onLink

theorem st_markLate (s : State) (addr : Nat) (hP : P.holds s) : P.holds (markLate s addr) := by
  unfold markLate
  with_reducible repeat' first
    | assumption | (extract_lets +onlyGivenNames z; refine st_cut (p := P.holds z) ?_ ?_; subst z; rotate_left; intro hz; clear_value z)
    | (extract_lets +onlyGivenNames z; subst z) | apply st_countUp | apply Stable.mk_plain

theorem st_ageLate (s : State) (hP : P.holds s) : P.holds (ageLate s) := by
  unfold ageLate
  with_reducible repeat' first | assumption | (extract_lets +onlyGivenNames z; subst z) | apply Stable.mk_plain

theorem st_takeNaming (k : Nat) (s : State) (a : Nat) (hP : P.holds s) : P.holds (takeNaming k s a) := by
  unfold takeNaming
  with_reducible repeat' first
    | assumption
    | (extract_lets +onlyGivenNames z; refine st_cut (p := P.holds z) ?_ ?_; subst z; rotate_left; intro hz; clear_value z)
    | (extract_lets +onlyGivenNames z; refine st_cut (p := P.fst z) ?_ ?_; subst z; rotate_left; intro hz; clear_value z)
    | (extract_lets +onlyGivenNames z; subst z) | apply st_drawFree | apply st_raiseGloss | apply st_markLate
    | (refine st_ofPair P (by assumption)) | (refine st_left P (by assumption) ?_) | split | apply st_iteFst | apply st_pair
    | apply st_proj

theorem st_takeNamings (s : State) (k : Nat) (b : UpBlock) (hP : P.holds s) : P.holds (takeNamings s k b) := by
  unfold takeNamings
  with_reducible repeat' first
    | assumption | apply st_countUpBy | apply st_takeNaming | refine st_foldl P _ ?_ _ _ ?_ | refine st_foldlFst P _ ?_ _ _ ?_
    | intro t x ht

theorem st_addReturned (s : State) (k : Nat) (sums : List DWord) (hP : P.holds s) : P.holds (addReturned s k sums) := by
  unfold addReturned
  with_reducible repeat' first
    | assumption | apply st_memAdd | refine st_foldl P _ ?_ _ _ ?_ | refine st_foldlFst P _ ?_ _ _ ?_ | intro t x ht

theorem st_takeSegment (k : Nat) (acc : State × List (Nat × List (BitVec 16))) (l : Nat) (hP : P.fst acc) :
    P.fst (takeSegment k acc l) := by
  unfold takeSegment
  with_reducible repeat' first
    | assumption
    | (extract_lets +onlyGivenNames z; refine st_cut (p := P.holds z) ?_ ?_; subst z; rotate_left; intro hz; clear_value z)
    | (extract_lets +onlyGivenNames z; refine st_cut (p := P.fst z) ?_ ?_; subst z; rotate_left; intro hz; clear_value z)
    | (extract_lets +onlyGivenNames z; subst z) | apply st_ite | apply st_iteFst | apply st_takeNamings | apply st_addReturned
    | apply st_voidFrame | apply st_clearBlock | apply st_raiseGloss | apply st_markLate | refine st_foldl P _ ?_ _ _ ?_
    | refine st_foldlFst P _ ?_ _ _ ?_ | intro t x ht | (refine st_ofPair P (by assumption)) | (refine st_left P (by assumption) ?_)
    | split | apply st_iteFst | apply st_pair | apply st_proj | apply Stable.mk_plain

theorem st_takeReports (s : State) (k : Nat) (reps : List (Nat × List (BitVec 16))) (hP : P.holds s) :
    P.holds (takeReports s k reps) := by
  unfold takeReports
  with_reducible repeat' first
    | assumption
    | (extract_lets +onlyGivenNames z; refine st_cut (p := P.holds z) ?_ ?_; subst z; rotate_left; intro hz; clear_value z)
    | (extract_lets +onlyGivenNames z; refine st_cut (p := P.fst z) ?_ ?_; subst z; rotate_left; intro hz; clear_value z)
    | (extract_lets +onlyGivenNames z; subst z) | apply st_ite | apply st_heldReport | apply st_setFlag
    | (refine st_ofPair P (by assumption)) | (refine st_left P (by assumption) ?_) | split | apply st_iteFst | apply st_pair
    | apply st_proj | apply Stable.mk_plain

theorem st_rootReturns (s : State) (k : Nat) (hP : P.holds s) : P.holds (rootReturns s k) := by
  unfold rootReturns
  with_reducible repeat' first
    | assumption | apply st_takeSegment | apply st_ageLate | apply st_takeReports | refine st_foldlFst P _ ?_ _ _ ?_ | apply st_pair
    | apply st_proj

theorem st_releaseWev (s : State) (k : Nat) (hP : P.holds s) : P.holds (releaseWev s k) := by
  unfold releaseWev
  with_reducible repeat' first | assumption | (extract_lets +onlyGivenNames z; subst z) | apply Stable.mk_plain

theorem st_setLinkState (s : State) (l st : Nat) (hP : P.holds s) : P.holds (setLinkState s l st) := by
  unfold setLinkState
  with_reducible repeat' first
    | assumption | (extract_lets +onlyGivenNames z; refine st_cut (p := P.holds z) ?_ ?_; subst z; rotate_left; intro hz; clear_value z)
    | apply st_ite | apply st_onLink | apply st_raiseIrq | apply st_wrFld | apply st_raiseGloss

theorem st_retrainLink (s : State) (l : Nat) (hP : P.holds s) : P.holds (retrainLink s l) := by
  unfold retrainLink
  with_reducible repeat' first
    | assumption | (extract_lets +onlyGivenNames z; refine st_cut (p := P.holds z) ?_ ?_; subst z; rotate_left; intro hz; clear_value z)
    | apply st_onLink | apply st_wr | apply st_setLinkState

theorem st_refuseLink (s : State) (l reason : Nat) (hP : P.holds s) : P.holds (refuseLink s l reason) := by
  unfold refuseLink
  with_reducible repeat' first | assumption | apply st_retrainLink | apply st_raiseGloss

theorem st_upstreamLoss (s : State) (hP : P.holds s) : P.holds (upstreamLoss s) := by
  unfold upstreamLoss
  with_reducible repeat' first
    | assumption | (extract_lets +onlyGivenNames z; refine st_cut (p := P.holds z) ?_ ?_; subst z; rotate_left; intro hz; clear_value z)
    | apply st_stopRendering | apply st_setFlag | apply st_clrFlag | apply st_retrainLink | refine st_foldl P _ ?_ _ _ ?_ | intro t x ht

theorem st_execScrubWriteback (s : State) (hP : P.holds s) : P.out (execScrubWriteback s) := by
  unfold execScrubWriteback
  with_reducible repeat' first
    | assumption
    | (extract_lets +onlyGivenNames z; refine st_cut (p := P.holds z) ?_ ?_; subst z; rotate_left; intro hz; clear_value z)
    | (extract_lets +onlyGivenNames z; refine st_cut (p := P.fst z) ?_ ?_; subst z; rotate_left; intro hz; clear_value z)
    | (extract_lets +onlyGivenNames z; subst z) | apply st_ite | apply st_iteOut | apply st_putWord | split | apply st_next
    | apply Stable.mk_plain

theorem st_setSpare (s : State) (b k v : Nat) (hP : P.holds s) : P.holds (setSpare s b k v) := by
  unfold setSpare
  with_reducible repeat' first | assumption | apply st_wrFld

theorem st_retireSpare (s : State) (b k : Nat) (hP : P.holds s) : P.holds (retireSpare s b k) := by
  unfold retireSpare
  with_reducible repeat' first
    | assumption
    | (extract_lets +onlyGivenNames z; refine st_cut (p := P.holds z) ?_ ?_; subst z; rotate_left; intro hz; clear_value z)
    | (extract_lets +onlyGivenNames z; refine st_cut (p := P.fst z) ?_ ?_; subst z; rotate_left; intro hz; clear_value z)
    | (extract_lets +onlyGivenNames z; subst z) | apply st_setSpare | apply Stable.mk_plain

theorem st_trySpares (b : Nat) (y0 : List Nat) (y1 : List Bool) (y2 : State) (hP : P.holds y2) :
    P.fst (trySpares b y0 y1 y2) := by
  induction y0 generalizing b y1 y2 <;>
  unfold trySpares
  with_reducible repeat' first
    | assumption | apply st_ite | apply st_iteFst | apply st_retireSpare | (refine st_ofPair P (by assumption))
    | (refine st_left P (by assumption) ?_) | split | apply st_iteFst | apply st_pair | apply_assumption

theorem st_storeRepairs (s : State) (hP : P.holds s) : P.holds (storeRepairs s) := by
  unfold storeRepairs
  with_reducible repeat' first
    | assumption
    | (extract_lets +onlyGivenNames z; refine st_cut (p := P.holds z) ?_ ?_; subst z; rotate_left; intro hz; clear_value z)
    | (extract_lets +onlyGivenNames z; refine st_cut (p := P.fst z) ?_ ?_; subst z; rotate_left; intro hz; clear_value z)
    | (extract_lets +onlyGivenNames z; subst z) | apply st_ite | apply st_startStore | split | apply Stable.mk_plain

theorem st_retryRepairs (s : State) (hP : P.holds s) : P.holds (retryRepairs s) := by
  unfold retryRepairs
  with_reducible repeat' first | assumption | apply st_ite | apply st_storeRepairs

theorem st_repairRow (s : State) (b r : Nat) (spareFails : List Bool) (hP : P.holds s) :
    P.holds (repairRow s b r spareFails) := by
  unfold repairRow
  with_reducible repeat' first
    | assumption
    | (extract_lets +onlyGivenNames z; refine st_cut (p := P.holds z) ?_ ?_; subst z; rotate_left; intro hz; clear_value z)
    | (extract_lets +onlyGivenNames z; refine st_cut (p := P.fst z) ?_ ?_; subst z; rotate_left; intro hz; clear_value z)
    | (extract_lets +onlyGivenNames z; subst z) | apply st_trySpares | apply st_retireSpare | apply st_countUp | apply st_setSpare
    | apply st_raiseGloss | apply st_storeRepairs | apply st_setFlag | refine st_foldl P _ ?_ _ _ ?_
    | refine st_foldlFst P _ ?_ _ _ ?_ | intro t x ht | (refine st_ofPair P (by assumption)) | (refine st_left P (by assumption) ?_)
    | split | apply st_iteFst | apply st_pair | apply st_proj | apply Stable.mk_plain

theorem st_testWord (b r : Nat) (s : State) (i : Nat) (hP : P.holds s) : P.holds (testWord b r s i) := by
  unfold testWord
  with_reducible repeat' first
    | assumption | (extract_lets +onlyGivenNames z; subst z) | apply st_fetchWord | apply st_putPoison | apply st_putWord
    | (refine st_left P (by assumption) ?_) | split

theorem st_testRow (s : State) (b r : Nat) (rowFails : Bool) (spareFails : List Bool) (hP : P.holds s) :
    P.holds (testRow s b r rowFails spareFails) := by
  unfold testRow
  with_reducible repeat' first
    | assumption
    | (extract_lets +onlyGivenNames z; refine st_cut (p := P.holds z) ?_ ?_; subst z; rotate_left; intro hz; clear_value z)
    | (extract_lets +onlyGivenNames z; refine st_cut (p := P.fst z) ?_ ?_; subst z; rotate_left; intro hz; clear_value z)
    | (extract_lets +onlyGivenNames z; subst z) | apply st_ite | apply st_testWord | apply st_wr | apply st_repairRow
    | refine st_foldl P _ ?_ _ _ ?_ | refine st_foldlFst P _ ?_ _ _ ?_ | intro t x ht | split | apply Stable.mk_plain

theorem st_execBackgroundRowTest (rowFails : Bool) (spareFails : List Bool) (s : State) (hP : P.holds s) :
    P.out (execBackgroundRowTest rowFails spareFails s) := by
  unfold execBackgroundRowTest
  with_reducible repeat' first
    | assumption
    | (extract_lets +onlyGivenNames z; refine st_cut (p := P.holds z) ?_ ?_; subst z; rotate_left; intro hz; clear_value z)
    | (extract_lets +onlyGivenNames z; refine st_cut (p := P.fst z) ?_ ?_; subst z; rotate_left; intro hz; clear_value z)
    | (extract_lets +onlyGivenNames z; subst z) | apply st_ite | apply st_iteOut | apply st_testRow | apply st_wr | split
    | apply st_next | apply Stable.mk_plain

theorem st_readTableWords (s : State) (y0 : List Nat) (hP : P.holds s) : P.fst (readTableWords s y0) := by
  induction y0 generalizing s with
  | nil => exact hP
  | cons a rest ih =>
    rw [readTableWords.eq_2]
    have h : P.fst (memSwap s 0 a (memWord s a)) := st_memSwap P s 0 a _ hP
    split
    rename_i t d bad e
    have ht : P.holds t := st_left P e h
    split
    · exact ht
    · exact ih t ht

theorem st_readTables (s : State) (hP : P.holds s) : P.holds (readTables s) := by
  unfold readTables
  with_reducible repeat' first
    | assumption
    | (extract_lets +onlyGivenNames z; refine st_cut (p := P.holds z) ?_ ?_; subst z; rotate_left; intro hz; clear_value z)
    | (extract_lets +onlyGivenNames z; refine st_cut (p := P.fst z) ?_ ?_; subst z; rotate_left; intro hz; clear_value z)
    | (extract_lets +onlyGivenNames z; subst z) | apply st_ite | apply st_readTableWords | apply st_raiseIrq | apply st_setFlag
    | apply st_raiseGloss | (refine st_ofPair P (by assumption)) | (refine st_left P (by assumption) ?_) | split | apply st_iteFst
    | apply st_pair | apply Stable.mk_plain

theorem st_rebuildTables (s : State) (hP : P.holds s) : P.holds (rebuildTables s) := by
  unfold rebuildTables
  with_reducible repeat' first
    | assumption | apply st_putWord | refine st_foldl P _ ?_ _ _ ?_ | refine st_foldlFst P _ ?_ _ _ ?_ | intro t x ht

end Sys2Proof.Laws
end

