-- ==== Sys2Proof/Laws/StableTime.lean ====
section
/-! SUPPORT. Every function of the modules Frame, Clock, VerbExec, RegRead, Fuse, RegWrite, ImageSyntax, ImageMaps, ImageCheck keeps a Stable predicate. -/

namespace Sys2Proof.Laws
open Sys2Proof.Machine
variable (P : Stable)

theorem st_applyAtEpoch (s : State) (hP : P.holds s) : P.holds (applyAtEpoch s) := by
  unfold applyAtEpoch
  with_reducible repeat' first
    | assumption | (extract_lets +onlyGivenNames z; refine st_cut (p := P.holds z) ?_ ?_; subst z; rotate_left; intro hz; clear_value z)
    | apply st_ite | apply st_onTense | apply st_timerGo | apply st_transportEvent

theorem st_setEpoch (s : State) (at' : DWord) (hP : P.holds s) : P.holds (setEpoch s at') := by
  unfold setEpoch
  with_reducible repeat' first | assumption | apply Stable.mk_plain

theorem st_selfEpoch (s : State) (hP : P.holds s) : P.holds (selfEpoch s) := by
  unfold selfEpoch
  with_reducible repeat' first
    | assumption
    | (extract_lets +onlyGivenNames z; refine st_cut (p := P.holds z) ?_ ?_; subst z; rotate_left; intro hz; clear_value z)
    | (extract_lets +onlyGivenNames z; refine st_cut (p := P.fst z) ?_ ?_; subst z; rotate_left; intro hz; clear_value z)
    | (extract_lets +onlyGivenNames z; subst z) | apply st_ite | apply st_setEpoch | apply st_holdPosition | apply st_applyAtEpoch
    | split | apply Stable.mk_plain

theorem st_atFrame (s : State) (k : Nat) (f : State → State) (hf : ∀ t, P.holds t → P.holds (f t)) (hP : P.holds s) :
    P.holds (atFrame s k f) := by
  exact Stable.mk_plain P _ _ _ _ _ _ _ _ _ _ _ _ _ _ _ _ _ _ _ _ _ _ (hf _ (Stable.mk_plain P s _ _ _ _ _ _ _ _ _ _ _ _ _ _ _ _ _ _ _ _ _ hP))

theorem st_stepOne (s : State) (k : Nat) (hP : P.holds s) : P.holds (stepOne s k) := by
  unfold stepOne
  with_reducible repeat' first
    | assumption
    | (extract_lets +onlyGivenNames z; refine st_cut (p := P.holds z) ?_ ?_; subst z; rotate_left; intro hz; clear_value z)
    | (extract_lets +onlyGivenNames z; refine st_cut (p := P.fst z) ?_ ?_; subst z; rotate_left; intro hz; clear_value z)
    | (extract_lets +onlyGivenNames z; subst z) | apply st_refreshVerbs | apply st_phraseEnds | apply st_placeAll
    | apply st_roomForMoves | apply st_forceMoves | apply st_markMoves | apply Stable.mk_plain

theorem st_stepsTwo (s : State) (k : Nat) (hP : P.holds s) : P.holds (stepsTwo s k) := by
  unfold stepsTwo
  with_reducible repeat' first
    | assumption | (extract_lets +onlyGivenNames z; refine st_cut (p := P.holds z) ?_ ?_; subst z; rotate_left; intro hz; clear_value z)
    | (extract_lets +onlyGivenNames z; subst z) | apply st_readTables | apply st_takeAndAllocate | apply st_sendFrm | apply st_armAll

theorem st_tryStepOne (s : State) (hP : P.holds s) : P.holds (tryStepOne s) := by
  unfold tryStepOne
  with_reducible repeat' first
    | assumption | (extract_lets +onlyGivenNames z; subst z) | apply st_ite | apply st_atFrame | apply st_stepOne | intro u hu

theorem st_tryStepTwo (s : State) (hP : P.holds s) : P.holds (tryStepTwo s) := by
  unfold tryStepTwo
  with_reducible repeat' first
    | assumption | (extract_lets +onlyGivenNames z; subst z) | apply st_ite | apply st_atFrame | apply st_stepsTwo | intro u hu

theorem st_catchUp (s : State) (hP : P.holds s) : P.holds (catchUp s) := by
  unfold catchUp
  with_reducible repeat' first | assumption | apply st_ite | apply st_tryStepTwo | apply st_tryStepOne

theorem st_execEventTake (s : State) (hP : P.holds s) : P.out (execEventTake s) := by
  unfold execEventTake
  with_reducible repeat' first
    | assumption | (extract_lets +onlyGivenNames z; subst z) | apply st_iteOut | apply st_catchUp | apply st_next | apply Stable.mk_plain

theorem st_frmMissing (s : State) (m : Nat) (hP : P.holds s) : P.holds (frmMissing s m) := by
  unfold frmMissing
  with_reducible repeat' first
    | assumption | (extract_lets +onlyGivenNames z; refine st_cut (p := P.holds z) ?_ ?_; subst z; rotate_left; intro hz; clear_value z)
    | (extract_lets +onlyGivenNames z; subst z) | apply st_ite | apply st_raiseGloss | apply st_countUp | apply st_voidFrame
    | apply Stable.mk_plain

theorem st_traceHalted (s : State) (m : Nat) (hP : P.holds s) : P.holds (traceHalted s m) := by
  unfold traceHalted
  with_reducible repeat' first
    | assumption
    | (extract_lets +onlyGivenNames z; refine st_cut (p := P.holds z) ?_ ?_; subst z; rotate_left; intro hz; clear_value z)
    | (extract_lets +onlyGivenNames z; refine st_cut (p := P.fst z) ?_ ?_; subst z; rotate_left; intro hz; clear_value z)
    | (extract_lets +onlyGivenNames z; subst z) | apply st_ite | apply st_overCheck | apply st_stageTrace | apply st_onPhrase
    | refine st_foldl P _ ?_ _ _ ?_ | refine st_foldlFst P _ ?_ _ _ ?_ | intro t x ht | split

theorem st_dropHalted (s : State) (m : Nat) (hP : P.holds s) : P.holds (dropHalted s m) := by
  unfold dropHalted
  with_reducible repeat' first
    | assumption
    | (extract_lets +onlyGivenNames z; refine st_cut (p := P.holds z) ?_ ?_; subst z; rotate_left; intro hz; clear_value z)
    | (extract_lets +onlyGivenNames z; refine st_cut (p := P.fst z) ?_ ?_; subst z; rotate_left; intro hz; clear_value z)
    | (extract_lets +onlyGivenNames z; subst z) | apply st_ite | apply st_traceHalted | split | apply Stable.mk_plain
    | apply Stable.mk_any
    | (refine ⟨?_, ?_, ?_, ?_, ?_, ⟨?_, ?_, ?_, ?_, ?_, ⟨?_, ?_, ?_, ?_⟩⟩⟩ <;> intro hn <;> first | exact hn | (simp; done) | simp [hn])

theorem st_deadlines (s : State) (n : Nat) (hP : P.holds s) : P.holds (deadlines s n) := by
  unfold deadlines
  with_reducible repeat' first
    | assumption
    | (extract_lets +onlyGivenNames z; refine st_cut (p := P.holds z) ?_ ?_; subst z; rotate_left; intro hz; clear_value z)
    | (extract_lets +onlyGivenNames z; refine st_cut (p := P.fst z) ?_ ?_; subst z; rotate_left; intro hz; clear_value z)
    | (extract_lets +onlyGivenNames z; subst z) | apply st_ite | apply st_withdrawGlobals | apply st_checkOverrun
    | apply st_frmMissing | apply st_abandonFrame | apply st_dropHalted | apply st_abortLate | apply st_voidDiverged | split

theorem st_latchOutputs (s : State) (m n : Nat) (hP : P.holds s) : P.holds (latchOutputs s m n) := by
  unfold latchOutputs
  with_reducible repeat' first
    | assumption | (extract_lets +onlyGivenNames z; refine st_cut (p := P.holds z) ?_ ?_; subst z; rotate_left; intro hz; clear_value z)
    | apply st_latchAudio | apply st_latchCv | apply st_latchDai | refine st_foldl P _ ?_ _ _ ?_ | intro t x ht

theorem st_playFrame (s : State) (n : Nat) (hP : P.holds s) : P.holds (playFrame s n) := by
  unfold playFrame
  with_reducible repeat' first
    | assumption | (extract_lets +onlyGivenNames z; refine st_cut (p := P.holds z) ?_ ?_; subst z; rotate_left; intro hz; clear_value z)
    | (extract_lets +onlyGivenNames z; subst z) | apply st_ite | apply st_reportVoids | apply st_latchOutputs | apply st_releaseWev
    | apply st_rootReturns | apply st_holdFrame | split

theorem st_clearMix (s : State) (n : Nat) (hP : P.holds s) : P.holds (clearMix s n) := by
  unfold clearMix
  with_reducible repeat' first | assumption | (extract_lets +onlyGivenNames z; subst z) | apply st_clearRange

theorem st_tableRecovery (s : State) (hP : P.holds s) : P.holds (tableRecovery s) := by
  unfold tableRecovery
  with_reducible repeat' first
    | assumption
    | (extract_lets +onlyGivenNames z; refine st_cut (p := P.holds z) ?_ ?_; subst z; rotate_left; intro hz; clear_value z)
    | (extract_lets +onlyGivenNames z; refine st_cut (p := P.fst z) ?_ ?_; subst z; rotate_left; intro hz; clear_value z)
    | (extract_lets +onlyGivenNames z; subst z) | apply st_ite | apply st_rebuildTables | apply st_setFlag | apply st_upstreamLoss
    | split | apply Stable.mk_plain | apply Stable.mk_alloc | apply Stable.mk_any
    | (refine ⟨?_, ?_, ?_, ?_, ?_, ⟨?_, ?_, ?_, ?_, ?_, ⟨?_, ?_, ?_, ?_⟩⟩⟩ <;> intro hn <;> first | exact hn | (simp; done) | simp [hn])

theorem st_beginFrame (s : State) (n : Nat) (hP : P.holds s) : P.holds (beginFrame s n) := by
  unfold beginFrame
  with_reducible repeat' first | assumption | apply st_catchUp | apply st_retryRepairs | apply Stable.mk_plain

theorem st_idleBoundary (s : State) (hP : P.holds s) : P.holds (idleBoundary s) := by
  unfold idleBoundary
  with_reducible repeat' first
    | assumption
    | (extract_lets +onlyGivenNames z; refine st_cut (p := P.holds z) ?_ ?_; subst z; rotate_left; intro hz; clear_value z)
    | (extract_lets +onlyGivenNames z; refine st_cut (p := P.fst z) ?_ ?_; subst z; rotate_left; intro hz; clear_value z)
    | (extract_lets +onlyGivenNames z; subst z) | apply st_ite | apply st_applyDomains | apply st_applyWant | apply st_fenceBoundary
    | apply st_clkSelect | apply st_applyStaged | apply st_beginFrame | apply st_clearMix | apply st_retryRepairs | split
    | apply Stable.mk_plain

theorem st_openWindow (s : State) (n : Nat) (hP : P.holds s) : P.holds (openWindow s n) := by
  unfold openWindow
  with_reducible repeat' first
    | assumption
    | (extract_lets +onlyGivenNames z; refine st_cut (p := P.holds z) ?_ ?_; subst z; rotate_left; intro hz; clear_value z)
    | (extract_lets +onlyGivenNames z; refine st_cut (p := P.fst z) ?_ ?_; subst z; rotate_left; intro hz; clear_value z)
    | (extract_lets +onlyGivenNames z; subst z) | apply st_ite | apply st_catchUp | apply st_clkSelect | apply st_applyStaged
    | apply st_playFrame | apply st_deadlines | apply st_fenceBoundary | apply st_clearMix | apply st_tableRecovery
    | apply st_applyDomains | apply st_applyWant | apply st_stopForEntry | apply st_beginFrame | split | apply Stable.mk_plain

theorem st_execFrameBoundary (s : State) (hP : P.holds s) : P.out (execFrameBoundary s) := by
  unfold execFrameBoundary
  with_reducible repeat' first
    | assumption
    | (extract_lets +onlyGivenNames z; refine st_cut (p := P.holds z) ?_ ?_; subst z; rotate_left; intro hz; clear_value z)
    | (extract_lets +onlyGivenNames z; refine st_cut (p := P.fst z) ?_ ?_; subst z; rotate_left; intro hz; clear_value z)
    | (extract_lets +onlyGivenNames z; subst z) | apply st_ite | apply st_iteOut | apply st_idleBoundary | apply st_selfEpoch
    | apply st_openWindow | split | apply st_next

theorem st_lockWclk (s : State) (hP : P.holds s) : P.holds (lockWclk s) := by
  unfold lockWclk
  with_reducible repeat' first | assumption | apply st_ite | apply st_setFlag

theorem st_execWclkLock (s : State) (hP : P.holds s) : P.out (execWclkLock s) := by
  unfold execWclkLock
  with_reducible repeat' first | assumption | apply st_ite | apply st_lockWclk | apply st_next

theorem st_loseWclk (s : State) (hP : P.holds s) : P.holds (loseWclk s) := by
  unfold loseWclk
  with_reducible repeat' first
    | assumption | (extract_lets +onlyGivenNames z; refine st_cut (p := P.holds z) ?_ ?_; subst z; rotate_left; intro hz; clear_value z)
    | (extract_lets +onlyGivenNames z; subst z) | apply st_ite | apply st_clrFlag | apply st_setFlag | apply st_wrFld
    | apply st_raiseGloss | apply Stable.mk_plain

theorem st_execWclkLost (s : State) (hP : P.holds s) : P.out (execWclkLost s) := by
  unfold execWclkLost
  with_reducible repeat' first | assumption | apply st_loseWclk | apply st_next

theorem st_execWclkResumed (s : State) (hP : P.holds s) : P.out (execWclkResumed s) := by
  unfold execWclkResumed
  with_reducible repeat' first | assumption | apply st_ite | apply st_lockWclk | apply st_next

theorem st_clockDue (s : State) (ao : Bool) (cause : Nat) (hP : P.holds s) : P.holds (clockDue s ao cause) := by
  unfold clockDue
  with_reducible repeat' first | assumption | (extract_lets +onlyGivenNames z; subst z) | apply st_ite | apply Stable.mk_plain

theorem st_execCrystalFail (s : State) (hP : P.holds s) : P.out (execCrystalFail s) := by
  unfold execCrystalFail
  with_reducible repeat' first
    | assumption | apply st_iteOut | apply st_clockDue | apply st_setFlag | apply st_wrFld | apply st_next

theorem st_applyClockDue (s : State) (hP : P.holds s) : P.holds (applyClockDue s) := by
  unfold applyClockDue
  with_reducible repeat' first
    | assumption | (extract_lets +onlyGivenNames z; subst z) | apply st_switchClock | split | apply Stable.mk_plain

theorem st_execAoClockSwitch (s : State) (hP : P.holds s) : P.out (execAoClockSwitch s) := by
  unfold execAoClockSwitch
  with_reducible repeat' first | assumption | apply st_applyClockDue | apply st_next

theorem st_crystalAbsent (s : State) (wclk : Option WclkRate) (hP : P.holds s) : P.holds (crystalAbsent s wclk) := by
  unfold crystalAbsent
  with_reducible repeat' first
    | assumption
    | (extract_lets +onlyGivenNames z; refine st_cut (p := P.holds z) ?_ ?_; subst z; rotate_left; intro hz; clear_value z)
    | (extract_lets +onlyGivenNames z; refine st_cut (p := P.fst z) ?_ ?_; subst z; rotate_left; intro hz; clear_value z)
    | (extract_lets +onlyGivenNames z; subst z) | apply st_clrFlag | apply st_wrFld | apply st_startCharger | apply st_setFlag
    | apply st_familyPorts | apply st_switchClock | split | apply Stable.mk_plain

theorem st_execCrystalStartTimeout (wclk : Option WclkRate) (s : State) (hP : P.holds s) :
    P.out (execCrystalStartTimeout wclk s) := by
  unfold execCrystalStartTimeout
  with_reducible repeat' first | assumption | apply st_ite | apply st_iteOut | apply st_crystalAbsent | split | apply st_next

theorem st_timeTick (s : State) (hP : P.holds s) : P.holds (timeTick s) := by
  unfold timeTick
  with_reducible repeat' first
    | assumption
    | (extract_lets +onlyGivenNames z; refine st_cut (p := P.holds z) ?_ ?_; subst z; rotate_left; intro hz; clear_value z)
    | (extract_lets +onlyGivenNames z; refine st_cut (p := P.fst z) ?_ ?_; subst z; rotate_left; intro hz; clear_value z)
    | (extract_lets +onlyGivenNames z; subst z) | apply st_ite | apply st_timersTick | apply st_cvDue | refine st_foldl P _ ?_ _ _ ?_
    | refine st_foldlFst P _ ?_ _ _ ?_ | intro t x ht | split | apply Stable.mk_plain

theorem st_latchUpper (s : State) (c : CountReg) (hP : P.holds s) : P.holds (latchUpper s c) := by
  unfold latchUpper
  with_reducible repeat' first | assumption | (extract_lets +onlyGivenNames z; subst z) | split | apply Stable.mk_plain

theorem st_execCountReadLatch (reg : CountReg) (s : State) (hP : P.holds s) : P.out (execCountReadLatch reg s) := by
  unfold execCountReadLatch
  with_reducible repeat' first | assumption | apply st_latchUpper | apply st_next

theorem st_sampleTick (s : State) (hP : P.holds s) : P.holds (sampleTick s) := by
  unfold sampleTick
  with_reducible repeat' first
    | assumption
    | (extract_lets +onlyGivenNames z; refine st_cut (p := P.holds z) ?_ ?_; subst z; rotate_left; intro hz; clear_value z)
    | (extract_lets +onlyGivenNames z; refine st_cut (p := P.fst z) ?_ ?_; subst z; rotate_left; intro hz; clear_value z)
    | (extract_lets +onlyGivenNames z; subst z) | apply st_adcTick | apply st_daiTick | apply st_daiBegin | apply st_keepSlots
    | apply st_dacSample | apply st_monitorSample | apply st_cvSample | refine st_foldl P _ ?_ _ _ ?_
    | refine st_foldlFst P _ ?_ _ _ ?_ | intro t x ht | apply Stable.mk_plain | apply Stable.mk_analog | apply Stable.mk_any
    | (refine ⟨?_, ?_, ?_, ?_, ?_, ⟨?_, ?_, ?_, ?_, ?_, ⟨?_, ?_, ?_, ?_⟩⟩⟩ <;> intro hn <;> first | exact hn | (simp; done) | simp [hn])

theorem st_sampleStep (s : State) (hP : P.holds s) : P.holds (sampleStep s) := by
  unfold sampleStep
  with_reducible repeat' first | assumption | apply st_ite | apply st_sampleTick | split | apply Stable.mk_plain

theorem st_sampleBefore (s : State) (instant : DWord) (hP : P.holds s) : P.holds (sampleBefore s instant) := by
  unfold sampleBefore
  with_reducible repeat' first
    | assumption
    | (extract_lets +onlyGivenNames z; refine st_cut (p := P.holds z) ?_ ?_; subst z; rotate_left; intro hz; clear_value z)
    | (extract_lets +onlyGivenNames z; refine st_cut (p := P.fst z) ?_ ?_; subst z; rotate_left; intro hz; clear_value z)
    | (extract_lets +onlyGivenNames z; subst z) | apply st_ite | apply st_sampleStep | split | apply Stable.mk_plain

theorem st_renumberWork (s : State) (hP : P.holds s) : P.holds (renumberWork s) := by
  unfold renumberWork
  with_reducible repeat' first
    | assumption
    | (extract_lets +onlyGivenNames z; refine st_cut (p := P.holds z) ?_ ?_; subst z; rotate_left; intro hz; clear_value z)
    | (extract_lets +onlyGivenNames z; refine st_cut (p := P.fst z) ?_ ?_; subst z; rotate_left; intro hz; clear_value z)
    | (extract_lets +onlyGivenNames z; subst z) | apply st_proj | apply Stable.mk_plain | apply Stable.mk_any
    | (refine ⟨?_, ?_, ?_, ?_, ?_, ⟨?_, ?_, ?_, ?_, ?_, ⟨?_, ?_, ?_, ?_⟩⟩⟩ <;> intro hn <;> first | exact hn | (simp; done) | simp [hn])

theorem st_rebaseEvent (delta : DWord) (s : State) (q : QueuedEv) (hP : P.holds s) : P.fst (rebaseEvent delta s q) := by
  unfold rebaseEvent
  with_reducible repeat' first
    | assumption | (extract_lets +onlyGivenNames z; refine st_cut (p := P.holds z) ?_ ?_; subst z; rotate_left; intro hz; clear_value z)
    | (extract_lets +onlyGivenNames z; subst z) | apply st_iteFst | apply st_countUp | apply st_raiseGloss | apply st_voidFrame
    | apply st_pair

theorem st_rebaseEvents (s : State) (delta : DWord) (hP : P.holds s) : P.holds (rebaseEvents s delta) := by
  unfold rebaseEvents
  with_reducible repeat' first
    | assumption | (extract_lets +onlyGivenNames z; subst z) | apply st_ite | apply st_rebaseEvent | apply st_exportEvent
    | refine st_foldl P _ ?_ _ _ ?_ | refine st_foldlFst P _ ?_ _ _ ?_ | intro t x ht | (refine st_ofPair P (by assumption))
    | (refine st_left P (by assumption) ?_) | split | apply st_pair | apply st_proj | apply Stable.mk_any
    | (refine ⟨?_, ?_, ?_, ?_, ?_, ⟨?_, ?_, ?_, ?_, ?_, ⟨?_, ?_, ?_, ?_⟩⟩⟩ <;> intro hn <;> first | exact hn | (simp; done) | simp [hn])

theorem st_rebaseTense (s : State) (delta : DWord) (hP : P.holds s) : P.holds (rebaseTense s delta) := by
  unfold rebaseTense
  with_reducible repeat' first | assumption | apply st_onTense

theorem st_restartGrid (before : Option DWord) (s : State) (hP : P.holds s) : P.holds (restartGrid before s) := by
  unfold restartGrid
  with_reducible repeat' first | assumption | apply st_daiSync | apply st_syncInputs

theorem st_logSync (s : State) (instant delta : DWord) (hP : P.holds s) : P.holds (logSync s instant delta) := by
  unfold logSync
  with_reducible repeat' first
    | assumption | (extract_lets +onlyGivenNames z; refine st_cut (p := P.holds z) ?_ ?_; subst z; rotate_left; intro hz; clear_value z)
    | (extract_lets +onlyGivenNames z; subst z) | apply st_raiseGloss | apply Stable.mk_plain

theorem st_syncRendering (s : State) (instant : DWord) (hP : P.holds s) : P.holds (syncRendering s instant) := by
  unfold syncRendering
  with_reducible repeat' first
    | assumption
    | (extract_lets +onlyGivenNames z; refine st_cut (p := P.holds z) ?_ ?_; subst z; rotate_left; intro hz; clear_value z)
    | (extract_lets +onlyGivenNames z; refine st_cut (p := P.fst z) ?_ ?_; subst z; rotate_left; intro hz; clear_value z)
    | (extract_lets +onlyGivenNames z; subst z) | apply st_ite | apply st_abortLate | apply st_reportVoids | apply st_swapMix
    | apply st_logSync | apply st_setEpoch | apply st_renumberWork | apply st_clrFlag | apply st_voidFrame | apply st_restartGrid
    | apply st_rebaseTense | apply st_rebaseEvents | split | apply Stable.mk_plain | apply Stable.mk_analog | apply Stable.mk_any
    | (refine ⟨?_, ?_, ?_, ?_, ?_, ⟨?_, ?_, ?_, ?_, ?_, ⟨?_, ?_, ?_, ?_⟩⟩⟩ <;> intro hn <;> first | exact hn | (simp; done) | simp [hn])

theorem st_takeSync (s : State) (instant : DWord) (hP : P.holds s) : P.holds (takeSync s instant) := by
  unfold takeSync
  with_reducible repeat' first
    | assumption
    | (extract_lets +onlyGivenNames z; refine st_cut (p := P.holds z) ?_ ?_; subst z; rotate_left; intro hz; clear_value z)
    | (extract_lets +onlyGivenNames z; refine st_cut (p := P.fst z) ?_ ?_; subst z; rotate_left; intro hz; clear_value z)
    | (extract_lets +onlyGivenNames z; subst z) | apply st_ite | apply st_sampleBefore | apply st_syncRendering | apply st_setEpoch
    | apply st_holdPosition | apply st_restartGrid | apply st_applyAtEpoch | apply st_clrFlag | split | apply Stable.mk_plain

theorem st_sendSync (s : State) (new : Bool) (hP : P.holds s) : P.holds (sendSync s new) := by
  unfold sendSync
  with_reducible repeat' first | assumption | apply st_sendDown

theorem st_ownSync (s : State) (instant : DWord) (hP : P.holds s) : P.holds (ownSync s instant) := by
  unfold ownSync
  with_reducible repeat' first
    | assumption | (extract_lets +onlyGivenNames z; refine st_cut (p := P.holds z) ?_ ?_; subst z; rotate_left; intro hz; clear_value z)
    | apply st_ite | apply st_takeSync | apply st_sendSync

theorem st_execSyncBallEdge (delay : SyncDelay) (s : State) (hP : P.holds s) : P.out (execSyncBallEdge delay s) := by
  unfold execSyncBallEdge
  with_reducible repeat' first
    | assumption
    | (extract_lets +onlyGivenNames z; refine st_cut (p := P.holds z) ?_ ?_; subst z; rotate_left; intro hz; clear_value z)
    | (extract_lets +onlyGivenNames z; refine st_cut (p := P.fst z) ?_ ?_; subst z; rotate_left; intro hz; clear_value z)
    | (extract_lets +onlyGivenNames z; subst z) | apply st_ite | apply st_iteOut | apply st_latchWake | apply st_ownSync | split
    | apply st_next | apply Stable.mk_plain

theorem st_syncCommand (s : State) (hP : P.holds s) : P.holds (syncCommand s) := by
  unfold syncCommand
  with_reducible repeat' first | assumption | apply st_ownSync

theorem st_showFrozen (s : State) (v : Nat) (hP : P.holds s) : P.holds (showFrozen s v) := by
  unfold showFrozen
  with_reducible repeat' first | assumption | apply st_wr | split

theorem st_haltVerb (s : State) (v cause k : Nat) (hP : P.holds s) : P.holds (haltVerb s v cause k) := by
  unfold haltVerb
  with_reducible repeat' first
    | assumption | (extract_lets +onlyGivenNames z; refine st_cut (p := P.holds z) ?_ ?_; subst z; rotate_left; intro hz; clear_value z)
    | apply st_setFlag | apply st_showFrozen | apply st_onVerb

theorem st_runInstr (s : State) (v : Nat) (i : VInstr) (hP : P.holds s) : P.holds (runInstr s v i) := by
  unfold runInstr
  with_reducible repeat' first
    | assumption | apply st_ite | apply st_haltVerb | apply st_catchUp | apply st_issue | apply st_onVerb | split

theorem st_execPar (v : Fin 16) (a b : ArithField) (x y : MoveField) (s : State) (hP : P.holds s) : P.out (execPar v a b x y s) := by
  unfold execPar
  with_reducible repeat' first | assumption | apply st_runInstr | apply st_next

theorem st_execImm (v : Fin 16) (dst : BitVec 6) (value : Word) (s : State) (hP : P.holds s) : P.out (execImm v dst value s) := by
  unfold execImm
  with_reducible repeat' first | assumption | apply st_runInstr | apply st_next

theorem st_execAlui (v : Fin 16) (a : ArithField) (value : Word) (s : State) (hP : P.holds s) : P.out (execAlui v a value s) := by
  unfold execAlui
  with_reducible repeat' first | assumption | apply st_runInstr | apply st_next

theorem st_execRegmove (v : Fin 16) (dst src : BitVec 6) (x y : MoveField) (s : State) (hP : P.holds s) :
    P.out (execRegmove v dst src x y s) := by
  unfold execRegmove
  with_reducible repeat' first | assumption | apply st_runInstr | apply st_next

theorem st_execCtrlNone (v : Fin 16) (s : State) (hP : P.holds s) : P.out (execCtrlNone v s) := by
  unfold execCtrlNone
  with_reducible repeat' first | assumption | apply st_runInstr | apply st_next

theorem st_execJmp (v : Fin 16) (cond : BitVec 4) (target : BitVec 13) (s : State) (hP : P.holds s) :
    P.out (execJmp v cond target s) := by
  unfold execJmp
  with_reducible repeat' first | assumption | apply st_runInstr | apply st_next

theorem st_execCall (v : Fin 16) (cond : BitVec 4) (target : BitVec 13) (s : State) (hP : P.holds s) :
    P.out (execCall v cond target s) := by
  unfold execCall
  with_reducible repeat' first | assumption | apply st_runInstr | apply st_next

theorem st_execRet (v : Fin 16) (s : State) (hP : P.holds s) : P.out (execRet v s) := by
  unfold execRet
  with_reducible repeat' first | assumption | apply st_runInstr | apply st_next

theorem st_execRep (v : Fin 16) (counter : BitVec 2) (count : BitVec 16) (last : BitVec 13) (s : State) (hP : P.holds s) :
    P.out (execRep v counter count last s) := by
  unfold execRep
  with_reducible repeat' first | assumption | apply st_runInstr | apply st_next

theorem st_execRepd (v : Fin 16) (counter : BitVec 2) (dreg : BitVec 4) (last : BitVec 13) (s : State) (hP : P.holds s) :
    P.out (execRepd v counter dreg last s) := by
  unfold execRepd
  with_reducible repeat' first | assumption | apply st_runInstr | apply st_next

theorem st_execYield (v : Fin 16) (s : State) (hP : P.holds s) : P.out (execYield v s) := by
  unfold execYield
  with_reducible repeat' first | assumption | apply st_runInstr | apply st_next

theorem st_execExp2f (v : Fin 16) (dst src : BitVec 4) (x y : MoveField) (s : State) (hP : P.holds s) :
    P.out (execExp2f v dst src x y s) := by
  unfold execExp2f
  with_reducible repeat' first | assumption | apply st_runInstr | apply st_next

theorem st_execLog2f (v : Fin 16) (dst src : BitVec 4) (x y : MoveField) (s : State) (hP : P.holds s) :
    P.out (execLog2f v dst src x y s) := by
  unfold execLog2f
  with_reducible repeat' first | assumption | apply st_runInstr | apply st_next

theorem st_execPinc (v : Fin 16) (dst src : BitVec 4) (x y : MoveField) (s : State) (hP : P.holds s) :
    P.out (execPinc v dst src x y s) := by
  unfold execPinc
  with_reducible repeat' first | assumption | apply st_runInstr | apply st_next

theorem st_execTip (v : Fin 16) (posPair cfg : BitVec 4) (x y : MoveField) (s : State) (hP : P.holds s) :
    P.out (execTip v posPair cfg x y s) := by
  unfold execTip
  with_reducible repeat' first | assumption | apply st_runInstr | apply st_next

theorem st_execTget (v : Fin 16) (dst : BitVec 4) (x y : MoveField) (s : State) (hP : P.holds s) : P.out (execTget v dst x y s) := by
  unfold execTget
  with_reducible repeat' first | assumption | apply st_runInstr | apply st_next

theorem st_execMixadd (v : Fin 16) (val busIdx : BitVec 4) (x y : MoveField) (s : State) (hP : P.holds s) :
    P.out (execMixadd v val busIdx x y s) := by
  unfold execMixadd
  with_reducible repeat' first | assumption | apply st_runInstr | apply st_next

theorem st_execMixadd2 (v : Fin 16) (valPair busIdx : BitVec 4) (x y : MoveField) (s : State) (hP : P.holds s) :
    P.out (execMixadd2 v valPair busIdx x y s) := by
  unfold execMixadd2
  with_reducible repeat' first | assumption | apply st_runInstr | apply st_next

theorem st_execEvpost (v : Fin 16) (src : BitVec 4) (x y : MoveField) (s : State) (hP : P.holds s) : P.out (execEvpost v src x y s) := by
  unfold execEvpost
  with_reducible repeat' first | assumption | apply st_runInstr | apply st_next

theorem st_execExplogResult (v : Fin 16) (s : State) (hP : P.holds s) : P.out (execExplogResult v s) := by
  unfold execExplogResult
  with_reducible repeat' first
    | assumption
    | (extract_lets +onlyGivenNames z; refine st_cut (p := P.holds z) ?_ ?_; subst z; rotate_left; intro hz; clear_value z)
    | (extract_lets +onlyGivenNames z; refine st_cut (p := P.fst z) ?_ ?_; subst z; rotate_left; intro hz; clear_value z)
    | (extract_lets +onlyGivenNames z; subst z) | apply st_ite | apply st_iteOut | apply st_setBankAt | split | apply st_next

theorem st_execTableResult (v : Fin 16) (s : State) (hP : P.holds s) : P.out (execTableResult v s) := by
  unfold execTableResult
  with_reducible repeat' first | assumption | apply st_deliverTable | apply st_next

theorem st_execSharedLoadResult (v : Fin 16) (s : State) (hP : P.holds s) : P.out (execSharedLoadResult v s) := by
  unfold execSharedLoadResult
  with_reducible repeat' first | assumption | apply st_deliverLoad | apply st_next

theorem st_execCostExceeded (v : Fin 16) (s : State) (hP : P.holds s) : P.out (execCostExceeded v s) := by
  unfold execCostExceeded
  with_reducible repeat' first | assumption | apply st_ite | apply st_overCheck | apply st_next

theorem st_execWatchdogFault (v : Fin 16) (s : State) (hP : P.holds s) : P.out (execWatchdogFault v s) := by
  unfold execWatchdogFault
  with_reducible repeat' first
    | assumption | apply st_iteOut | apply st_catchUp | apply st_abortFrame | apply st_overCheck | apply st_next

theorem st_execWordFrameDispatch (v : Fin 16) (s : State) (hP : P.holds s) : P.out (execWordFrameDispatch v s) := by
  unfold execWordFrameDispatch
  with_reducible repeat' first | assumption | apply st_ite | apply st_dispatch | apply st_next

theorem st_execPreemption (v : Fin 16) (elapsed : BitVec 20) (s : State) (hP : P.holds s) : P.out (execPreemption v elapsed s) := by
  unfold execPreemption
  with_reducible repeat' first | assumption | apply st_ite | apply st_preempt | apply st_next

theorem st_execMigrationCheck (elapsed : BitVec 20) (s : State) (hP : P.holds s) : P.out (execMigrationCheck elapsed s) := by
  unfold execMigrationCheck
  with_reducible repeat' first
    | assumption | apply st_ite | apply st_checkVerb | apply st_next | refine st_foldl P _ ?_ _ _ ?_ | intro t x ht

theorem st_execPhraseMigrate (pos : BitVec 12) (s : State) (hP : P.holds s) : P.out (execPhraseMigrate pos s) := by
  unfold execPhraseMigrate
  with_reducible repeat' first | assumption | apply st_startMove | apply st_next

theorem st_execStateCopyDone (pos : BitVec 12) (s : State) (hP : P.holds s) : P.out (execStateCopyDone pos s) := by
  unfold execStateCopyDone
  with_reducible repeat' first | assumption | apply st_finishMove | apply st_next

theorem st_execSendBarrier (s : State) (hP : P.holds s) : P.out (execSendBarrier s) := by
  unfold execSendBarrier
  with_reducible repeat' first | assumption | apply st_ite | apply st_trySendBarrier | apply st_next

theorem st_requestHalt (s : State) (v : Nat) (atYield : Bool) (hP : P.holds s) : P.holds (requestHalt s v atYield) := by
  unfold requestHalt
  with_reducible repeat' first
    | assumption | (extract_lets +onlyGivenNames z; refine st_cut (p := P.holds z) ?_ ?_; subst z; rotate_left; intro hz; clear_value z)
    | apply st_ite | apply st_setFlag | apply st_onVerb | apply st_haltVerb

theorem st_resumeVerb (s : State) (v : Nat) (hP : P.holds s) : P.holds (resumeVerb s v) := by
  unfold resumeVerb
  with_reducible repeat' first
    | assumption
    | (extract_lets +onlyGivenNames z; refine st_cut (p := P.holds z) ?_ ?_; subst z; rotate_left; intro hz; clear_value z)
    | (extract_lets +onlyGivenNames z; refine st_cut (p := P.fst z) ?_ ?_; subst z; rotate_left; intro hz; clear_value z)
    | (extract_lets +onlyGivenNames z; subst z) | apply st_ite | apply st_clrFlag | apply st_onVerb | apply st_noteFirst | split

theorem st_fetchInstr (s : State) (v : Nat) (hP : P.holds s) : P.fst (fetchInstr s v) := by
  unfold fetchInstr
  with_reducible repeat' first
    | assumption
    | (extract_lets +onlyGivenNames z; refine st_cut (p := P.holds z) ?_ ?_; subst z; rotate_left; intro hz; clear_value z)
    | (extract_lets +onlyGivenNames z; refine st_cut (p := P.fst z) ?_ ?_; subst z; rotate_left; intro hz; clear_value z)
    | (extract_lets +onlyGivenNames z; subst z) | apply st_memLoad | apply st_spend | (refine st_ofPair P (by assumption))
    | (refine st_left P (by assumption) ?_) | split | apply st_iteFst | apply st_pair | apply st_proj

theorem st_stepVerb (s : State) (v : Nat) (hP : P.holds s) : P.holds (stepVerb s v) := by
  rw [stepVerb.eq_1]
  have h := st_fetchInstr P s v hP
  generalize fetchInstr s v = r at h
  have ho := st_overCheck P _ v h
  with_reducible repeat' first
    | assumption | apply st_ite | apply st_refuse | apply st_abortFrame | apply st_issueAlways | apply st_catchUp | apply st_haltVerb

theorem st_clearDebug (s : State) (hP : P.holds s) : P.holds (clearDebug s) := by
  unfold clearDebug
  with_reducible repeat' first
    | assumption | (extract_lets +onlyGivenNames z; refine st_cut (p := P.holds z) ?_ ?_; subst z; rotate_left; intro hz; clear_value z)
    | apply Stable.mk_any | apply Stable.mk_regs | exact ⟨id, id, id, id, id, ⟨id, id, id, id, id, ⟨id, id, id, id⟩⟩⟩
    | (refine ⟨?_, ?_, ?_, ?_, ?_, ⟨?_, ?_, ?_, ?_, ?_, ⟨?_, ?_, ?_, ?_⟩⟩⟩ <;> intro hn <;> first | exact hn | (simp; done) | simp [hn])

theorem st_accessReg (s : State) (a : Nat) (hP : P.holds s) : P.fst (accessReg s a) := by
  unfold accessReg
  with_reducible repeat' first
    | assumption | (extract_lets +onlyGivenNames z; subst z) | apply st_iteFst | apply st_readRxd | apply st_latchUpper | apply st_refuse
    | split | apply st_pair

theorem st_readWord32 (s : State) (req a : Nat) (hP : P.holds s) : P.fst (readWord32 s req a) := by
  unfold readWord32
  with_reducible repeat' first
    | assumption
    | (extract_lets +onlyGivenNames z; refine st_cut (p := P.holds z) ?_ ?_; subst z; rotate_left; intro hz; clear_value z)
    | (extract_lets +onlyGivenNames z; refine st_cut (p := P.fst z) ?_ ?_; subst z; rotate_left; intro hz; clear_value z)
    | (extract_lets +onlyGivenNames z; subst z) | apply st_ite | apply st_iteFst | apply st_busErr | apply st_accessReg
    | apply st_memLoad | apply st_drawFree | (refine st_ofPair P (by assumption)) | (refine st_left P (by assumption) ?_) | split
    | apply st_iteFst | apply st_pair | apply st_proj

theorem st_readFuse (s : State) (w : Nat) (hP : P.holds s) : P.holds (readFuse s w) := by
  unfold readFuse
  with_reducible repeat' first | assumption | apply st_ite | apply st_wr | apply st_raiseGloss | apply st_setFlag

theorem st_readFuses (s : State) (hP : P.holds s) : P.holds (readFuses s) := by
  unfold readFuses
  with_reducible repeat' first | assumption | apply st_readFuse | apply st_wrFld | refine st_foldl P _ ?_ _ _ ?_

theorem st_fuseResult (s : State) (r : Nat) (hP : P.holds s) : P.holds (fuseResult s r) := by
  unfold fuseResult
  with_reducible repeat' first
    | assumption | (extract_lets +onlyGivenNames z; refine st_cut (p := P.holds z) ?_ ?_; subst z; rotate_left; intro hz; clear_value z)
    | apply st_ite | apply st_wrFld | apply st_raiseIrq | apply st_setFlag

theorem st_fuseProgram (s : State) (w : Nat) (hP : P.holds s) : P.holds (fuseProgram s w) := by
  unfold fuseProgram
  with_reducible repeat' first
    | assumption | (extract_lets +onlyGivenNames z; refine st_cut (p := P.holds z) ?_ ?_; subst z; rotate_left; intro hz; clear_value z)
    | (extract_lets +onlyGivenNames z; subst z) | apply st_fuseResult | apply st_setFlag | apply st_clrFlag | split | apply Stable.mk_fuse
    | exact ⟨id, id, id, id, id, ⟨id, id, id, id, id, ⟨id, id, id, id⟩⟩⟩

theorem st_resumeAll (s : State) (hP : P.holds s) : P.holds (resumeAll s) := by
  unfold resumeAll
  with_reducible repeat' first | assumption | apply st_ite | apply st_resumeVerb | refine st_foldl P _ ?_ _ _ ?_ | intro t x ht

theorem st_execFuseVerify (blown : BitVec 32) (parity : Bool) (s : State) (hP : P.holds s) : P.out (execFuseVerify blown parity s) := by
  unfold execFuseVerify
  split
  · exact st_next P _ hP
  · rename_i w d e
    have h1 := P.plain _ { s with fuse := ⟨s.fuse.blown.set w ((nth s.fuse.blown w (0, false)).1 ||| blown, (nth s.fuse.blown w (0, false)).2 || parity), none⟩ }
      (P.blow s w blown parity hP) rfl rfl rfl rfl ⟨id, id, id, id, id, ⟨id, id, id, id, id, ⟨id, id, id, id⟩⟩⟩
    have h2 := st_clrFlag P _ R.pwrStat 3 (st_clrFlag P _ R.fusePstat 30 h1)
    refine st_iteOut P _ _ (st_next P _ (st_fuseResult P _ _ (st_ite P _ _ (st_resumeAll P _ (st_wr P _ _ _ h2)) (st_wr P _ _ _ h2)))) (st_next P _ (st_fuseResult P _ _ h2))

theorem st_stageValue (s : State) (d : RegDesc) (a : Nat) (v : Word) (hP : P.holds s) : P.holds (stageValue s d a v) := by
  unfold stageValue
  with_reducible repeat' first
    | assumption
    | (extract_lets +onlyGivenNames z; refine st_cut (p := P.holds z) ?_ ?_; subst z; rotate_left; intro hz; clear_value z)
    | (extract_lets +onlyGivenNames z; refine st_cut (p := P.fst z) ?_ ?_; subst z; rotate_left; intro hz; clear_value z)
    | (extract_lets +onlyGivenNames z; subst z) | apply st_ite | apply st_masksChanged | apply st_applyOne | split
    | apply Stable.mk_plain

theorem st_plainWrite (s : State) (d : RegDesc) (a : Nat) (v : Word) (hP : P.holds s) : P.holds (plainWrite s d a v) := by
  unfold plainWrite
  with_reducible repeat' first | assumption | apply st_ite | apply st_wr | apply st_stageValue

theorem st_clearErr (s : State) (a : Nat) (v : Word) (hP : P.holds s) : P.holds (clearErr s a v) := by
  unfold clearErr
  with_reducible repeat' first
    | assumption
    | (extract_lets +onlyGivenNames z; refine st_cut (p := P.holds z) ?_ ?_; subst z; rotate_left; intro hz; clear_value z)
    | (extract_lets +onlyGivenNames z; refine st_cut (p := P.fst z) ?_ ?_; subst z; rotate_left; intro hz; clear_value z)
    | (extract_lets +onlyGivenNames z; subst z) | apply st_ite | apply st_wr | apply st_clrFlag | split | apply Stable.mk_plain

theorem st_clearRecord (s : State) (a beside : Nat) (v : Word) (hP : P.holds s) : P.holds (clearRecord s a beside v) := by
  unfold clearRecord
  with_reducible repeat' first | assumption | apply st_ite | apply st_wr | apply st_clrFlag

theorem st_afterWrite (s : State) (a : Nat) (old v : Word) (hP : P.holds s) : P.holds (afterWrite s a old v) := by
  unfold afterWrite
  with_reducible repeat' first
    | assumption
    | (extract_lets +onlyGivenNames z; refine st_cut (p := P.holds z) ?_ ?_; subst z; rotate_left; intro hz; clear_value z)
    | (extract_lets +onlyGivenNames z; refine st_cut (p := P.fst z) ?_ ?_; subst z; rotate_left; intro hz; clear_value z)
    | (extract_lets +onlyGivenNames z; subst z) | apply st_ite | apply st_selectSource | apply st_internalTempo | apply st_afterSpCfg
    | apply st_afterBaud | apply st_afterSpCtl | apply st_afterDacCh | apply st_afterCvCh | apply st_enableDetector
    | apply st_cutChannels | split

theorem st_clrMax (s : State) (hP : P.holds s) : P.holds (clrMax s) := by
  unfold clrMax
  with_reducible repeat' first | assumption | apply st_wrFld

theorem st_resumeRing (s : State) (hP : P.holds s) : P.holds (resumeRing s) := by
  unfold resumeRing
  with_reducible repeat' first | assumption | apply st_wr

theorem st_writeVctl (s : State) (n : Nat) (v : Word) (hP : P.holds s) : P.holds (writeVctl s n v) := by
  unfold writeVctl
  with_reducible repeat' first
    | assumption | (extract_lets +onlyGivenNames z; refine st_cut (p := P.holds z) ?_ ?_; subst z; rotate_left; intro hz; clear_value z)
    | (extract_lets +onlyGivenNames z; subst z) | apply st_ite | apply st_refuse | apply st_wrFld | apply st_resumeVerb
    | apply st_stepVerb | apply st_requestHalt

theorem st_divergeFrozen (s : State) (n : Nat) (hP : P.holds s) : P.holds (divergeFrozen s n) := by
  unfold divergeFrozen
  with_reducible repeat' first | assumption | apply st_divergeWork | split

theorem st_writeVrdata (s : State) (n : Nat) (v : Word) (hP : P.holds s) : P.holds (writeVrdata s n v) := by
  unfold writeVrdata
  with_reducible repeat' first
    | assumption | (extract_lets +onlyGivenNames z; subst z) | apply st_ite | apply st_refuse | apply st_divergeFrozen | apply st_setBank

theorem st_writeScmd (s : State) (v : Word) (hP : P.holds s) : P.holds (writeScmd s v) := by
  unfold writeScmd
  with_reducible repeat' first
    | assumption | (extract_lets +onlyGivenNames z; subst z) | apply st_ite | apply st_startStore | apply st_storeResult | apply st_wrFld
    | apply st_fillSbuf | apply st_refuse | split

theorem st_writeFcmd (s : State) (v : Word) (hP : P.holds s) : P.holds (writeFcmd s v) := by
  unfold writeFcmd
  with_reducible repeat' first
    | assumption
    | (extract_lets +onlyGivenNames z; refine st_cut (p := P.holds z) ?_ ?_; subst z; rotate_left; intro hz; clear_value z)
    | (extract_lets +onlyGivenNames z; refine st_cut (p := P.fst z) ?_ ?_; subst z; rotate_left; intro hz; clear_value z)
    | (extract_lets +onlyGivenNames z; subst z) | apply st_ite | apply st_refuse | apply st_clrFlag | apply st_startFlash | split

theorem st_writeReload (s : State) (v : Word) (hP : P.holds s) : P.holds (writeReload s v) := by
  unfold writeReload
  with_reducible repeat' first | assumption | apply st_ite | apply st_refuse

theorem st_writeRctl (s : State) (v : Word) (hP : P.holds s) : P.holds (writeRctl s v) := by
  unfold writeRctl
  with_reducible repeat' first
    | assumption | (extract_lets +onlyGivenNames z; refine st_cut (p := P.holds z) ?_ ?_; subst z; rotate_left; intro hz; clear_value z)
    | (extract_lets +onlyGivenNames z; subst z) | apply st_ite | apply st_refuse | apply st_wrFld | apply st_clrFlag

theorem st_writePwrCmd (s : State) (v : Word) (hP : P.holds s) : P.holds (writePwrCmd s v) := by
  unfold writePwrCmd
  with_reducible repeat' first | assumption | apply st_ite | apply st_refuse | apply st_pwrRequest

theorem st_clearFail (s : State) (v : Word) (hP : P.holds s) : P.holds (clearFail s v) := by
  unfold clearFail
  with_reducible repeat' first
    | assumption | (extract_lets +onlyGivenNames z; refine st_cut (p := P.holds z) ?_ ?_; subst z; rotate_left; intro hz; clear_value z)
    | (extract_lets +onlyGivenNames z; subst z) | apply st_ite | apply st_clrFlag | apply st_wr | apply Stable.mk_plain

theorem st_writePctl (s : State) (fromLink : Bool) (v : Word) (hP : P.holds s) : P.holds (writePctl s fromLink v) := by
  unfold writePctl
  with_reducible repeat' first | assumption | apply st_ite | apply st_refuse | apply st_fuseProgram

theorem st_writeGlossCtl (s : State) (v : Word) (hP : P.holds s) : P.holds (writeGlossCtl s v) := by
  unfold writeGlossCtl
  with_reducible repeat' first
    | assumption | (extract_lets +onlyGivenNames z; refine st_cut (p := P.holds z) ?_ ?_; subst z; rotate_left; intro hz; clear_value z)
    | (extract_lets +onlyGivenNames z; subst z) | apply st_ite | apply st_wrFld | apply st_glossFreeze | apply st_glossResume

theorem st_writeAdcCtrl (s : State) (v : Word) (hP : P.holds s) : P.holds (writeAdcCtrl s v) := by
  unfold writeAdcCtrl
  with_reducible repeat' first
    | assumption
    | (extract_lets +onlyGivenNames z; refine st_cut (p := P.holds z) ?_ ?_; subst z; rotate_left; intro hz; clear_value z)
    | (extract_lets +onlyGivenNames z; refine st_cut (p := P.fst z) ?_ ?_; subst z; rotate_left; intro hz; clear_value z)
    | (extract_lets +onlyGivenNames z; subst z) | apply st_ite | apply st_wrFld | apply st_cutChannels | apply st_syncCommand | split

theorem st_powerCommand (s : State) (a : Nat) (v : Word) (hP : P.holds s) : P.opt (powerCommand s a v) := by
  unfold powerCommand
  with_reducible repeat' first
    | assumption | apply st_ite | apply st_iteOpt | apply st_writePwrCmd | apply st_writeDomen | apply st_writePadrel
    | apply st_clearVinmin | apply st_clearFail | apply st_writeScmd | apply st_writeFcmd | apply st_writeReload | apply st_refuse
    | apply st_some | exact st_none P | split

theorem st_recordCommand (s : State) (a : Nat) (v : Word) (hP : P.holds s) : P.opt (recordCommand s a v) := by
  unfold recordCommand
  with_reducible repeat' first
    | assumption | apply st_ite | apply st_iteOpt | apply st_clearErr | apply st_clearRecord | apply st_resumeRing | apply st_wr
    | apply st_some | exact st_none P | split

theorem st_serialCommand (s : State) (a : Nat) (v : Word) (hP : P.holds s) : P.opt (serialCommand s a v) := by
  unfold serialCommand
  with_reducible repeat' first
    | assumption | (extract_lets +onlyGivenNames z; subst z) | apply st_iteOpt | apply st_writeSpCmd | apply st_writeTxd | apply st_some
    | exact st_none P | split

theorem st_commandReg (s : State) (fromLink : Bool) (a : Nat) (v : Word) (hP : P.holds s) :
    P.opt (commandReg s fromLink a v) := by
  unfold commandReg
  with_reducible repeat' first
    | assumption | apply st_ite | apply st_iteOpt | apply st_writeHwin | apply st_writeMwin | apply st_timerGo | apply st_clrMax
    | apply st_writeAdcCtrl | apply st_writeCdata | apply st_writeCdelay | apply st_writeRctl | apply st_writeGlossCtl
    | apply st_glossCommand | apply st_glossRate | apply st_writePctl | apply st_glossOverride | apply st_writeVctl
    | apply st_writeVrdata | apply st_powerCommand | apply st_recordCommand | apply st_serialCommand
    | (refine st_ofPair P (by assumption)) | (refine st_left P (by assumption) ?_) | apply st_getD
    | (refine st_optElim P (by assumption) ?_) | split | apply st_iteFst | apply st_pair | apply st_some | exact st_none P
    | apply st_proj

theorem st_noteRefusal (s : State) (a : Nat) (v : Word) (hP : P.holds s) : P.holds (noteRefusal s a v) := by
  unfold noteRefusal
  with_reducible repeat' first | assumption | apply st_ite | apply st_setFlag | split

theorem st_plainOn (s : State) (d : RegDesc) (a : Nat) (v : Word) (hP : P.holds s) : P.holds (plainOn s d a v) := by
  unfold plainOn
  with_reducible repeat' first
    | assumption | apply st_ite | apply st_refuse | apply st_noteRefusal | apply st_afterWrite | apply st_plainWrite | split

theorem st_writeOn (s : State) (fromLink : Bool) (d : RegDesc) (a : Nat) (v : Word) (hP : P.holds s) :
    P.holds (writeOn s fromLink d a v) := by
  unfold writeOn
  with_reducible repeat' first | assumption | apply st_commandReg | apply st_plainOn | apply st_getD

theorem st_judged (s : State) (e : Nat) (f : State → State) (hf : ∀ t, P.holds t → P.holds (f t)) (hP : P.holds s) :
    P.fst (judged s e f) := by
  unfold judged
  with_reducible repeat' first
    | assumption
    | (extract_lets +onlyGivenNames z; refine st_cut (p := P.holds z) ?_ ?_; subst z; rotate_left; intro hz; clear_value z)
    | (extract_lets +onlyGivenNames z; refine st_cut (p := P.fst z) ?_ ?_; subst z; rotate_left; intro hz; clear_value z)
    | (extract_lets +onlyGivenNames z; subst z) | apply st_ite | apply st_iteFst | apply st_wr | apply hf | intro t ht
    | (refine st_ofPair P (by assumption)) | (refine st_left P (by assumption) ?_) | split | apply st_iteFst | apply st_pair

theorem st_writeReg (s : State) (req a : Nat) (v : Word) (hP : P.holds s) : P.fst (writeReg s req a v) := by
  unfold writeReg
  with_reducible repeat' first
    | assumption | apply st_iteFst | apply st_busErr | apply st_clearErr | apply st_deviceReset | apply st_judged | apply st_writeOn
    | intro u hu | split | apply st_pair

theorem st_markWritten (s : State) (n off : Nat) (hP : P.holds s) : P.holds (markWritten s n off) := by
  unfold markWritten
  with_reducible repeat' first | assumption | (extract_lets +onlyGivenNames z; subst z) | apply st_ite | apply Stable.mk_plain

theorem st_writeMemory (s : State) (req a : Nat) (v : Word) (hP : P.holds s) : P.fst (writeMemory s req a v) := by
  unfold writeMemory
  with_reducible repeat' first
    | assumption
    | (extract_lets +onlyGivenNames z; refine st_cut (p := P.holds z) ?_ ?_; subst z; rotate_left; intro hz; clear_value z)
    | (extract_lets +onlyGivenNames z; refine st_cut (p := P.fst z) ?_ ?_; subst z; rotate_left; intro hz; clear_value z)
    | (extract_lets +onlyGivenNames z; subst z) | apply st_ite | apply st_iteFst | apply st_busErr | apply st_memStore
    | apply st_markWritten | (refine st_ofPair P (by assumption)) | (refine st_left P (by assumption) ?_) | split | apply st_iteFst
    | apply st_pair

theorem st_writeWord32 (s : State) (req a : Nat) (v : Word) (hP : P.holds s) : P.fst (writeWord32 s req a v) := by
  unfold writeWord32
  with_reducible repeat' first | assumption | apply st_busErr | apply st_writeReg | apply st_writeMemory | split | apply st_pair

theorem st_readDecls  (y0 : Nat) (y1 : List Byte) (y2 : State) (hP : P.holds y2) : P.holds (readDecls  y0 y1 y2) := by
  induction y0 generalizing y1 y2 with
  | zero => exact hP
  | succ n ih =>
    unfold readDecls
    split
    · exact ih _ _ (Stable.mk_plain P y2 _ _ _ _ _ _ _ _ _ _ _ _ _ _ _ _ _ _ _ _ _ hP)
    · exact st_ite P _ _ (st_raiseGloss P _ _ _ _ _ hP) (ih _ _ (st_raiseGloss P _ _ _ _ _ hP))

theorem st_applyDecls (s : State) (verb : List Byte) (hP : P.holds s) : P.holds (applyDecls s verb) := by
  unfold applyDecls
  with_reducible repeat' first | assumption | apply st_readDecls | apply Stable.mk_plain

theorem st_rejectRecord (s : State) (sid reason index : Nat) (hP : P.holds s) : P.holds (rejectRecord s sid reason index) := by
  unfold rejectRecord
  with_reducible repeat' first
    | assumption | (extract_lets +onlyGivenNames z; refine st_cut (p := P.holds z) ?_ ?_; subst z; rotate_left; intro hz; clear_value z)
    | apply st_ite | apply st_raiseGloss | apply st_setFlag

theorem st_readRecord (payload : List Byte) (s : State) (dir : Nat) (hP : P.holds s) : P.holds (readRecord payload s dir) := by
  unfold readRecord
  with_reducible repeat' first
    | assumption
    | (extract_lets +onlyGivenNames z; refine st_cut (p := P.holds z) ?_ ?_; subst z; rotate_left; intro hz; clear_value z)
    | (extract_lets +onlyGivenNames z; refine st_cut (p := P.fst z) ?_ ?_; subst z; rotate_left; intro hz; clear_value z)
    | (extract_lets +onlyGivenNames z; subst z) | apply st_ite | apply st_rejectRecord | apply st_clrFlag | apply st_setFlag | split
    | apply Stable.mk_plain

theorem st_applySyntaxes (s : State) (payload : List Byte) (hP : P.holds s) : P.holds (applySyntaxes s payload) := by
  unfold applySyntaxes
  with_reducible repeat' first
    | assumption
    | (extract_lets +onlyGivenNames z; refine st_cut (p := P.holds z) ?_ ?_; subst z; rotate_left; intro hz; clear_value z)
    | (extract_lets +onlyGivenNames z; refine st_cut (p := P.fst z) ?_ ?_; subst z; rotate_left; intro hz; clear_value z)
    | (extract_lets +onlyGivenNames z; subst z) | apply st_ite | apply st_wr | apply st_raiseGloss | apply st_readRecord
    | refine st_foldl P _ ?_ _ _ ?_ | refine st_foldlFst P _ ?_ _ _ ?_ | intro t x ht | split | apply Stable.mk_plain

theorem st_checkFeeds (s : State) (hP : P.holds s) : P.holds (checkFeeds s) := by
  unfold checkFeeds
  with_reducible repeat' first
    | assumption
    | (extract_lets +onlyGivenNames z; refine st_cut (p := P.holds z) ?_ ?_; subst z; rotate_left; intro hz; clear_value z)
    | (extract_lets +onlyGivenNames z; refine st_cut (p := P.fst z) ?_ ?_; subst z; rotate_left; intro hz; clear_value z)
    | (extract_lets +onlyGivenNames z; subst z) | apply st_ite | apply st_raiseGloss | apply st_clrFlag
    | refine st_foldl P _ ?_ _ _ ?_ | refine st_foldlFst P _ ?_ _ _ ?_ | intro t x ht | (refine st_ofPair P (by assumption))
    | (refine st_left P (by assumption) ?_) | split | apply st_iteFst | apply st_pair | apply st_proj | apply Stable.mk_plain

theorem st_logMap (s : State) (table index off : Nat) (hP : P.holds s) : P.holds (logMap s table index off) := by
  unfold logMap
  with_reducible repeat' first | assumption | apply st_raiseGloss

theorem st_mapRecords {α : Type} (s : State) (table : Nat) (recs : List (Option Nat × α)) (hP : P.holds s) :
    P.fst (mapRecords s table recs) := by
  unfold mapRecords
  with_reducible repeat' first
    | assumption | apply st_logMap | refine st_foldlFst P _ ?_ _ _ ?_ | intro t x ht | (refine st_ofPair P (by assumption)) | split
    | apply st_pair

theorem st_controlRecords (s : State) (bs : List Byte) (off n : Nat) (hP : P.holds s) : P.fst (controlRecords s bs off n) := by
  unfold controlRecords
  with_reducible repeat' first
    | assumption | apply st_logMap | refine st_foldlFst P _ ?_ _ _ ?_ | intro t x ht | (refine st_ofPair P (by assumption))
    | (refine st_left P (by assumption) ?_) | split | apply st_pair

theorem st_applyEvmap (s : State) (bs : List Byte) (hP : P.holds s) : P.holds (applyEvmap s bs) := by
  unfold applyEvmap
  with_reducible repeat' first
    | assumption | (extract_lets +onlyGivenNames z; subst z) | apply st_logMap | apply st_mapRecords | apply st_controlRecords
    | (refine st_left P (by assumption) ?_) | split | apply Stable.mk_evt

theorem st_applyWaves (s : State) (bs : List Byte) (load : Bool) (hP : P.holds s) : P.holds (applyWaves s bs load) := by
  unfold applyWaves
  with_reducible repeat' first
    | assumption
    | (extract_lets +onlyGivenNames z; refine st_cut (p := P.holds z) ?_ ?_; subst z; rotate_left; intro hz; clear_value z)
    | (extract_lets +onlyGivenNames z; refine st_cut (p := P.fst z) ?_ ?_; subst z; rotate_left; intro hz; clear_value z)
    | (extract_lets +onlyGivenNames z; subst z) | apply st_ite | apply st_raiseGloss | apply st_putBytes
    | refine st_foldl P _ ?_ _ _ ?_ | refine st_foldlFst P _ ?_ _ _ ?_ | intro t x ht | (refine st_ofPair P (by assumption))
    | (refine st_left P (by assumption) ?_) | split | apply st_iteFst | apply st_pair | apply st_proj | apply Stable.mk_plain

theorem st_loadHeads (s : State) (hP : P.holds s) : P.holds (loadHeads s) := by
  unfold loadHeads
  with_reducible repeat' first | assumption | apply st_ite | apply st_putBytes | refine st_foldl P _ ?_ _ _ ?_ | intro t x ht

theorem st_calTerms (s : State) (b : List Byte) (hP : P.holds s) : P.holds (calTerms s b) := by
  unfold calTerms
  with_reducible repeat' first
    | assumption | (extract_lets +onlyGivenNames z; subst z) | apply Stable.mk_any
    | (refine ⟨?_, ?_, ?_, ?_, ?_, ⟨?_, ?_, ?_, ?_, ?_, ⟨?_, ?_, ?_, ?_⟩⟩⟩ <;> intro hn <;> first | exact hn | (simp; done) | simp [hn])

theorem st_applyCal (s : State) (bs : Option (List Byte)) (serial : Nat) (hP : P.holds s) : P.holds (applyCal s bs serial) := by
  unfold applyCal
  with_reducible repeat' first
    | assumption
    | (extract_lets +onlyGivenNames z; refine st_cut (p := P.holds z) ?_ ?_; subst z; rotate_left; intro hz; clear_value z)
    | (extract_lets +onlyGivenNames z; refine st_cut (p := P.fst z) ?_ ?_; subst z; rotate_left; intro hz; clear_value z)
    | (extract_lets +onlyGivenNames z; subst z) | apply st_clrFlag | apply st_calTerms | apply st_raiseGloss | apply st_setFlag
    | split | apply Stable.mk_plain

theorem st_applyStore (s : State) (bs : Option (List Byte)) (ilen : Nat) (hP : P.holds s) : P.holds (applyStore s bs ilen) := by
  unfold applyStore
  with_reducible repeat' first
    | assumption
    | (extract_lets +onlyGivenNames z; refine st_cut (p := P.holds z) ?_ ?_; subst z; rotate_left; intro hz; clear_value z)
    | (extract_lets +onlyGivenNames z; refine st_cut (p := P.fst z) ?_ ?_; subst z; rotate_left; intro hz; clear_value z)
    | (extract_lets +onlyGivenNames z; subst z) | apply st_clrFlag | apply st_raiseGloss | apply st_setFlag | split
    | apply Stable.mk_plain

theorem st_discoverFlash (s : State) (hP : P.holds s) : P.holds (discoverFlash s) := by
  unfold discoverFlash
  with_reducible repeat' first
    | assumption
    | (extract_lets +onlyGivenNames z; refine st_cut (p := P.holds z) ?_ ?_; subst z; rotate_left; intro hz; clear_value z)
    | (extract_lets +onlyGivenNames z; refine st_cut (p := P.fst z) ?_ ?_; subst z; rotate_left; intro hz; clear_value z)
    | (extract_lets +onlyGivenNames z; subst z) | apply st_ite | apply st_wr | (refine st_ofPair P (by assumption))
    | (refine st_left P (by assumption) ?_) | split | apply st_iteFst | apply st_pair | apply st_proj

end Sys2Proof.Laws
end

