-- ==== Sys2Proof/Laws/StableFrame.lean ====
section
/-! SUPPORT. Every function of the modules Boot, Link keeps a Stable predicate. -/

namespace Sys2Proof.Laws
open Sys2Proof.Machine
variable (P : Stable)

theorem st_logEntry (s : State) (list i cause : Nat) (hP : P.holds s) : P.holds (logEntry s list i cause) := by
  unfold logEntry
  with_reducible repeat' first | assumption | apply st_raiseGloss

theorem st_listWrite (s : State) (list i a : Nat) (v : Word) (hP : P.holds s) : P.holds (listWrite s list i a v) := by
  unfold listWrite
  with_reducible repeat' first
    | assumption | (extract_lets +onlyGivenNames z; refine st_cut (p := P.fst z) ?_ ?_; subst z; rotate_left; intro hz; clear_value z)
    | (extract_lets +onlyGivenNames z; subst z) | apply st_ite | apply st_writeReg | apply st_logEntry | apply st_proj

theorem st_passTime  (y0 : Nat) (y1 : State) (hP : P.holds y1) : P.holds (passTime  y0 y1) := by
  induction y0 generalizing y1 <;>
  unfold passTime
  with_reducible repeat' first | assumption | apply st_applyClockDue | apply st_timeTick | apply_assumption

theorem st_waitReg (a : Nat) (m v : Word) (y0 : Nat) (y1 : State) (hP : P.holds y1) : P.fst (waitReg a m v y0 y1) := by
  induction y0 generalizing y1 with
  | zero =>
    unfold waitReg
    have h : P.fst (readWord32 y1 1 a) := st_readWord32 P y1 1 a hP
    split
    rename_i t old bad e
    have ht : P.holds t := st_left P e h
    split
    · exact ht
    · split <;> exact ht
  | succ n ih =>
    unfold waitReg
    have h : P.fst (readWord32 y1 1 a) := st_readWord32 P y1 1 a hP
    split
    rename_i t old bad e
    have ht : P.holds t := st_left P e h
    split
    · exact ht
    · split
      · exact ht
      · exact ih _ (st_applyClockDue P _ (st_timeTick P t ht))

theorem st_listEntry (list : Nat) (s : State) (e : Nat × Nat × Nat × Nat) (hP : P.holds s) : P.holds (listEntry list s e) := by
  unfold listEntry
  with_reducible repeat' first
    | assumption
    | (extract_lets +onlyGivenNames z; refine st_cut (p := P.holds z) ?_ ?_; subst z; rotate_left; intro hz; clear_value z)
    | (extract_lets +onlyGivenNames z; refine st_cut (p := P.fst z) ?_ ?_; subst z; rotate_left; intro hz; clear_value z)
    | (extract_lets +onlyGivenNames z; subst z) | apply st_ite | apply st_passTime | apply st_logEntry | apply st_busErr
    | apply st_listWrite | apply st_readWord32 | apply st_waitReg | (refine st_ofPair P (by assumption))
    | (refine st_left P (by assumption) ?_) | split | apply st_iteFst | apply st_pair | apply st_proj

theorem st_runList (s : State) (list : Nat) (bs : List Byte) (hP : P.holds s) : P.holds (runList s list bs) := by
  unfold runList
  with_reducible repeat' first | assumption | apply st_logEntry | apply st_listEntry | refine st_foldl P _ ?_ _ _ ?_ | split

theorem st_writeTense (s : State) (bs : List Byte) (hP : P.holds s) : P.holds (writeTense s bs) := by
  unfold writeTense
  with_reducible repeat' first
    | assumption | (extract_lets +onlyGivenNames z; refine st_cut (p := P.holds z) ?_ ?_; subst z; rotate_left; intro hz; clear_value z)
    | (extract_lets +onlyGivenNames z; subst z) | apply st_writeReg | apply st_onTense | refine st_foldl P _ ?_ _ _ ?_ | intro t x ht
    | apply st_proj

theorem st_applyTense (s : State) (bs : Option (List Byte)) (hP : P.holds s) : P.holds (applyTense s bs) := by
  unfold applyTense
  with_reducible repeat' first
    | assumption | (extract_lets +onlyGivenNames z; refine st_cut (p := P.holds z) ?_ ?_; subst z; rotate_left; intro hz; clear_value z)
    | (extract_lets +onlyGivenNames z; subst z) | apply st_raiseGloss | apply st_writeTense | apply st_onTense | split
    | apply Stable.mk_plain

theorem st_configure (s : State) (img : List Byte) (hP : P.holds s) : P.holds (configure s img) := by
  unfold configure
  with_reducible repeat' first
    | assumption | (extract_lets +onlyGivenNames z; refine st_cut (p := P.holds z) ?_ ?_; subst z; rotate_left; intro hz; clear_value z)
    | (extract_lets +onlyGivenNames z; subst z) | apply st_runList | apply st_applyDecls | apply st_checkFeeds | apply st_applySyntaxes
    | apply st_applyEvmap | apply st_applyCal | apply st_applyTense | split | apply Stable.mk_plain | apply Stable.mk_evt

theorem st_clearMemories (s : State) (hP : P.holds s) : P.holds (clearMemories s) := by
  unfold clearMemories
  with_reducible repeat' first
    | assumption
    | (extract_lets +onlyGivenNames z; refine st_cut (p := P.holds z) ?_ ?_; subst z; rotate_left; intro hz; clear_value z)
    | (extract_lets +onlyGivenNames z; refine st_cut (p := P.fst z) ?_ ?_; subst z; rotate_left; intro hz; clear_value z)
    | (extract_lets +onlyGivenNames z; subst z) | apply st_proj | apply Stable.mk_plain | apply Stable.mk_mem
    | exact ⟨id, id, id, id, id, ⟨id, id, id, id, id, ⟨id, id, id, id⟩⟩⟩

theorem st_showRepairs (s : State) (hP : P.holds s) : P.holds (showRepairs s) := by
  unfold showRepairs
  with_reducible repeat' first
    | assumption
    | (extract_lets +onlyGivenNames z; refine st_cut (p := P.holds z) ?_ ?_; subst z; rotate_left; intro hz; clear_value z)
    | (extract_lets +onlyGivenNames z; refine st_cut (p := P.fst z) ?_ ?_; subst z; rotate_left; intro hz; clear_value z)
    | (extract_lets +onlyGivenNames z; subst z) | apply st_setSpare | refine st_foldl P _ ?_ _ _ ?_
    | refine st_foldlFst P _ ?_ _ _ ?_ | intro t x ht | apply st_proj | apply Stable.mk_plain | apply Stable.mk_regs
    | exact ⟨id, id, id, id, id, ⟨id, id, id, id, id, ⟨id, id, id, id⟩⟩⟩

theorem st_uniteRepairs (s : State) (hP : P.holds s) : P.holds (uniteRepairs s) := by
  unfold uniteRepairs
  with_reducible repeat' first
    | assumption
    | (extract_lets +onlyGivenNames z; refine st_cut (p := P.holds z) ?_ ?_; subst z; rotate_left; intro hz; clear_value z)
    | (extract_lets +onlyGivenNames z; refine st_cut (p := P.fst z) ?_ ?_; subst z; rotate_left; intro hz; clear_value z)
    | (extract_lets +onlyGivenNames z; subst z) | apply st_showRepairs | apply st_raiseGloss | split | apply st_proj
    | apply Stable.mk_plain

theorem st_loadPrograms (s : State) (verb : List Byte) (vs : List Nat) (hP : P.holds s) : P.holds (loadPrograms s verb vs) := by
  unfold loadPrograms
  with_reducible repeat' first
    | assumption | (extract_lets +onlyGivenNames z; subst z) | apply st_putBytes | apply st_clearRange | refine st_foldl P _ ?_ _ _ ?_
    | intro t x ht

theorem st_loadContent (s : State) (img : List Byte) (skip : Bool) (hP : P.holds s) : P.holds (loadContent s img skip) := by
  unfold loadContent
  with_reducible repeat' first
    | assumption
    | (extract_lets +onlyGivenNames z; refine st_cut (p := P.holds z) ?_ ?_; subst z; rotate_left; intro hz; clear_value z)
    | (extract_lets +onlyGivenNames z; refine st_cut (p := P.fst z) ?_ ?_; subst z; rotate_left; intro hz; clear_value z)
    | (extract_lets +onlyGivenNames z; subst z) | apply st_ite | apply st_applyWaves | apply st_loadHeads | apply st_loadPrograms
    | split | apply Stable.mk_plain

theorem st_restoreGloss (s : State) (p : List Byte) (hP : P.holds s) : P.holds (restoreGloss s p) := by
  unfold restoreGloss
  with_reducible repeat' first
    | assumption | (extract_lets +onlyGivenNames z; refine st_cut (p := P.holds z) ?_ ?_; subst z; rotate_left; intro hz; clear_value z)
    | apply st_putBytes | apply st_emptyBank | apply st_onGloss

theorem st_bootGloss (s : State) (hP : P.holds s) : P.holds (bootGloss s) := by
  unfold bootGloss
  with_reducible repeat' first
    | assumption | apply st_ite | apply st_reachBank | apply st_clearTorn | apply st_restoreGloss | apply st_emptyBank | split

theorem st_becomeSingle (s : State) (hP : P.holds s) : P.holds (becomeSingle s) := by
  unfold becomeSingle
  with_reducible repeat' first
    | assumption | (extract_lets +onlyGivenNames z; refine st_cut (p := P.holds z) ?_ ?_; subst z; rotate_left; intro hz; clear_value z)
    | (extract_lets +onlyGivenNames z; subst z) | apply st_ite | apply st_wr | apply st_setLinkState | apply st_onLink
    | refine st_foldl P _ ?_ _ _ ?_ | intro t x ht | apply Stable.mk_plain

theorem st_becomeRoot (s : State) (hP : P.holds s) : P.holds (becomeRoot s) := by
  unfold becomeRoot
  with_reducible repeat' first
    | assumption | (extract_lets +onlyGivenNames z; subst z) | apply st_ite | apply st_wr | apply st_drawFree | apply st_becomeSingle
    | apply st_raiseGloss | apply st_proj | apply Stable.mk_plain

theorem st_becomeWorker (s : State) (hP : P.holds s) : P.holds (becomeWorker s) := by
  unfold becomeWorker
  with_reducible repeat' first | assumption | (extract_lets +onlyGivenNames z; subst z) | apply st_wr | apply Stable.mk_plain

theorem st_startLinks (s : State) (link : Bool) (hP : P.holds s) : P.holds (startLinks s link) := by
  unfold startLinks
  with_reducible repeat' first
    | assumption | (extract_lets +onlyGivenNames z; refine st_cut (p := P.holds z) ?_ ?_; subst z; rotate_left; intro hz; clear_value z)
    | apply st_ite | apply st_becomeWorker | apply st_becomeSingle | apply st_becomeRoot | apply st_setLinkState
    | refine st_foldl P _ ?_ _ _ ?_ | intro t x ht | split | apply Stable.mk_plain

theorem st_dropDomain (s : State) (d : Nat) (hP : P.holds s) : P.holds (dropDomain s d) := by
  unfold dropDomain
  with_reducible repeat' first | assumption | apply st_ite | apply st_clrFlag | apply st_loseDomain

theorem st_bootFailure (s : State) (step : Nat) (reason : Option Nat) (hP : P.holds s) : P.holds (bootFailure s step reason) := by
  unfold bootFailure
  with_reducible repeat' first
    | assumption
    | (extract_lets +onlyGivenNames z; refine st_cut (p := P.holds z) ?_ ?_; subst z; rotate_left; intro hz; clear_value z)
    | (extract_lets +onlyGivenNames z; refine st_cut (p := P.fst z) ?_ ?_; subst z; rotate_left; intro hz; clear_value z)
    | (extract_lets +onlyGivenNames z; subst z) | apply st_ite | apply st_drawFree | apply st_dropDomain | apply st_raiseIrq
    | apply st_wr | apply st_step | apply st_clrFlag | apply st_wrFld | apply st_setFlag | apply st_setLinkState
    | refine st_foldl P _ ?_ _ _ ?_ | refine st_foldlFst P _ ?_ _ _ ?_ | intro t x ht | (refine st_ofPair P (by assumption))
    | (refine st_left P (by assumption) ?_) | split | apply st_iteFst | apply st_pair | apply st_proj | apply Stable.mk_plain

theorem st_acceptImage (s : State) (img : List Byte) (link : Bool) (hP : P.holds s) : P.holds (acceptImage s img link) := by
  unfold acceptImage
  with_reducible repeat' first
    | assumption
    | (extract_lets +onlyGivenNames z; refine st_cut (p := P.holds z) ?_ ?_; subst z; rotate_left; intro hz; clear_value z)
    | (extract_lets +onlyGivenNames z; refine st_cut (p := P.fst z) ?_ ?_; subst z; rotate_left; intro hz; clear_value z)
    | (extract_lets +onlyGivenNames z; subst z) | apply st_ite | apply st_familyPorts | apply st_wrFld | apply st_wr
    | apply st_onTense | split | apply Stable.mk_plain

theorem st_checkedImage (s : State) (link retained : Bool) (hP : P.holds s) : P.fst (checkedImage s link retained) := by
  unfold checkedImage
  with_reducible repeat' first
    | assumption | (extract_lets +onlyGivenNames z; refine st_cut (p := P.holds z) ?_ ?_; subst z; rotate_left; intro hz; clear_value z)
    | (extract_lets +onlyGivenNames z; subst z) | apply st_ite | apply st_iteFst | apply st_discoverFlash | apply st_bootFailure
    | apply st_raiseGloss | apply st_acceptImage | split | apply st_pair

theorem st_selfTests (s : State) (fails : Nat) (hP : P.holds s) : P.holds (selfTests s fails) := by
  unfold selfTests
  with_reducible repeat' first
    | assumption | (extract_lets +onlyGivenNames z; refine st_cut (p := P.holds z) ?_ ?_; subst z; rotate_left; intro hz; clear_value z)
    | (extract_lets +onlyGivenNames z; subst z) | apply st_ite | apply st_onVerb | apply st_raiseGloss | refine st_foldl P _ ?_ _ _ ?_
    | intro t x ht

theorem st_scanSlot (d : StoreDesc) (kind : Nat) (s : State) (k : Nat) (hP : P.holds s) : P.holds (scanSlot d kind s k) := by
  unfold scanSlot
  with_reducible repeat' first
    | assumption | (extract_lets +onlyGivenNames z; refine st_cut (p := P.holds z) ?_ ?_; subst z; rotate_left; intro hz; clear_value z)
    | (extract_lets +onlyGivenNames z; subst z) | apply st_ite | apply st_flashEraseRange | apply st_raiseGloss | split

theorem st_scanStore (s : State) (hP : P.holds s) : P.holds (scanStore s) := by
  unfold scanStore
  with_reducible repeat' first | assumption | apply st_scanSlot | refine st_foldl P _ ?_ _ _ ?_ | intro t x ht | split

theorem st_enterInterruptMode (s : State) (link : Bool) (hP : P.holds s) : P.holds (enterInterruptMode s link) := by
  unfold enterInterruptMode
  with_reducible repeat' first
    | assumption
    | (extract_lets +onlyGivenNames z; refine st_cut (p := P.holds z) ?_ ?_; subst z; rotate_left; intro hz; clear_value z)
    | (extract_lets +onlyGivenNames z; refine st_cut (p := P.fst z) ?_ ?_; subst z; rotate_left; intro hz; clear_value z)
    | (extract_lets +onlyGivenNames z; subst z) | apply st_wr | apply st_startLinks | apply st_startRendering | apply st_wrFld
    | apply Stable.mk_plain

theorem st_finishBoot (s : State) (link : Bool) (fails : Nat) (hP : P.holds s) : P.holds (finishBoot s link fails) := by
  unfold finishBoot
  with_reducible repeat' first
    | assumption | (extract_lets +onlyGivenNames z; refine st_cut (p := P.holds z) ?_ ?_; subst z; rotate_left; intro hz; clear_value z)
    | apply st_enterInterruptMode | apply st_selfTests | apply st_clrFlag | apply st_scanStore | apply st_raiseIrq | apply st_openAllParks
    | refine st_foldl P _ ?_ _ _ ?_ | intro t x ht

theorem st_bootFromFive (s : State) (link : Bool) (fails : Nat) (hP : P.holds s) : P.holds (bootFromFive s link fails) := by
  unfold bootFromFive
  with_reducible repeat' first
    | assumption
    | (extract_lets +onlyGivenNames z; refine st_cut (p := P.holds z) ?_ ?_; subst z; rotate_left; intro hz; clear_value z)
    | (extract_lets +onlyGivenNames z; refine st_cut (p := P.fst z) ?_ ?_; subst z; rotate_left; intro hz; clear_value z)
    | (extract_lets +onlyGivenNames z; subst z) | apply st_ite | apply st_checkedImage | apply st_uniteRepairs | apply st_applyStore
    | apply st_configure | apply st_loadContent | apply st_clearMemories | apply st_raiseGloss | apply st_bootGloss
    | apply st_finishBoot | (refine st_ofPair P (by assumption)) | (refine st_left P (by assumption) ?_) | split | apply st_iteFst
    | apply st_pair | apply Stable.mk_plain

theorem st_bootFromFour (s : State) (link : Bool) (fails : Nat) (out : List BootStep) (hP : P.holds s) :
    P.holds (bootFromFour s link fails out) := by
  unfold bootFromFour
  with_reducible repeat' first
    | assumption
    | (extract_lets +onlyGivenNames z; refine st_cut (p := P.holds z) ?_ ?_; subst z; rotate_left; intro hz; clear_value z)
    | (extract_lets +onlyGivenNames z; refine st_cut (p := P.fst z) ?_ ?_; subst z; rotate_left; intro hz; clear_value z)
    | (extract_lets +onlyGivenNames z; subst z) | apply st_ite | apply st_readFuses | apply st_drawFree | apply st_raiseGloss
    | apply st_bootFailure | apply st_discoverFlash | apply st_bootFromFive | (refine st_ofPair P (by assumption))
    | (refine st_left P (by assumption) ?_) | split | apply st_iteFst | apply st_pair | apply st_proj

theorem st_stepThree (s : State) (crystal44 : Bool) (hP : P.holds s) : P.holds (stepThree s crystal44) := by
  unfold stepThree
  with_reducible repeat' first
    | assumption
    | (extract_lets +onlyGivenNames z; refine st_cut (p := P.holds z) ?_ ?_; subst z; rotate_left; intro hz; clear_value z)
    | (extract_lets +onlyGivenNames z; refine st_cut (p := P.fst z) ?_ ?_; subst z; rotate_left; intro hz; clear_value z)
    | (extract_lets +onlyGivenNames z; subst z) | apply st_ite | apply st_familyPorts | apply st_wrFld | apply st_startCharger
    | split | apply Stable.mk_plain

theorem st_execBootSequence (selfTestFails : BitVec 16) (crystal44 : Bool) (s : State) (hP : P.holds s) :
    P.out (execBootSequence selfTestFails crystal44 s) := by
  unfold execBootSequence
  with_reducible repeat' first
    | assumption | apply st_ite | apply st_iteOut | apply st_bootFromFour | apply st_stepThree | split | apply st_next

theorem st_supplyFailure (s : State) (step sources : Nat) (hP : P.holds s) : P.holds (supplyFailure s step sources) := by
  unfold supplyFailure
  with_reducible repeat' first
    | assumption | (extract_lets +onlyGivenNames z; refine st_cut (p := P.holds z) ?_ ?_; subst z; rotate_left; intro hz; clear_value z)
    | (extract_lets +onlyGivenNames z; subst z) | apply st_wr | apply st_setFlag | apply st_raiseGloss | apply st_raiseIrq
    | apply Stable.mk_plain

theorem st_bootSupplyFailure (s : State) (step : Nat) (hP : P.holds s) : P.holds (bootSupplyFailure s step) := by
  unfold bootSupplyFailure
  with_reducible repeat' first
    | assumption
    | (extract_lets +onlyGivenNames z; refine st_cut (p := P.holds z) ?_ ?_; subst z; rotate_left; intro hz; clear_value z)
    | (extract_lets +onlyGivenNames z; refine st_cut (p := P.fst z) ?_ ?_; subst z; rotate_left; intro hz; clear_value z)
    | (extract_lets +onlyGivenNames z; subst z) | apply st_supplyFailure | apply st_dropDomain | apply st_step | apply st_wrFld
    | refine st_foldl P _ ?_ _ _ ?_ | refine st_foldlFst P _ ?_ _ _ ?_ | intro t x ht | apply Stable.mk_plain

theorem st_execBootTimeout (step : BootStep) (crystal44 : Bool) (s : State) (hP : P.holds s) :
    P.out (execBootTimeout step crystal44 s) := by
  unfold execBootTimeout
  with_reducible repeat' first
    | assumption | apply st_ite | apply st_iteOut | apply st_step | apply st_bootSupplyFailure | apply st_bootFromFour
    | apply st_stepThree | split | apply st_next | apply Stable.mk_plain

theorem st_domainsOn (s : State) (want : Nat) (hP : P.holds s) : P.holds (domainsOn s want) := by
  unfold domainsOn
  with_reducible repeat' first | assumption | apply st_ite | apply st_domainUp | refine st_foldl P _ ?_ _ _ ?_ | intro t x ht

theorem st_runReload (s : State) (hP : P.holds s) : P.holds (runReload s) := by
  unfold runReload
  with_reducible repeat' first
    | assumption
    | (extract_lets +onlyGivenNames z; refine st_cut (p := P.holds z) ?_ ?_; subst z; rotate_left; intro hz; clear_value z)
    | (extract_lets +onlyGivenNames z; refine st_cut (p := P.fst z) ?_ ?_; subst z; rotate_left; intro hz; clear_value z)
    | (extract_lets +onlyGivenNames z; subst z) | apply st_stopRendering | apply st_wr | apply st_clearDebug | apply st_bootFromFour
    | apply st_domainsOn | apply Stable.mk_plain

theorem st_startReload (s : State) (hP : P.holds s) : P.holds (startReload s) := by
  unfold startReload
  with_reducible repeat' first | assumption | apply st_ite | split | apply Stable.mk_plain

theorem st_continueReload (s : State) (hP : P.holds s) : P.holds (continueReload s) := by
  unfold continueReload
  with_reducible repeat' first | assumption | apply st_ite | apply st_runReload | split

theorem st_execStoreCommit (s : State) (hP : P.holds s) : P.out (execStoreCommit s) := by
  unfold execStoreCommit
  with_reducible repeat' first | assumption | apply st_storeCommit | apply st_next

theorem st_wakeClock (s : State) (crystal : Bool) (hP : P.holds s) : P.holds (wakeClock s crystal) := by
  unfold wakeClock
  with_reducible repeat' first
    | assumption
    | (extract_lets +onlyGivenNames z; refine st_cut (p := P.holds z) ?_ ?_; subst z; rotate_left; intro hz; clear_value z)
    | (extract_lets +onlyGivenNames z; refine st_cut (p := P.fst z) ?_ ?_; subst z; rotate_left; intro hz; clear_value z)
    | (extract_lets +onlyGivenNames z; subst z) | apply st_ite | apply st_startCharger | apply st_wrFld | apply st_switchClock
    | apply st_raiseGloss | apply st_setFlag | split

theorem st_wakeGloss (s : State) (retained : Bool) (w1 : DWord) (hP : P.holds s) : P.holds (wakeGloss s retained w1) := by
  unfold wakeGloss
  with_reducible repeat' first | assumption | apply st_ite | apply st_reachBank | apply st_emptyBank

theorem st_finishWake (s : State) (img : List Byte) (sources retries fails : Nat) (hP : P.holds s) :
    P.holds (finishWake s img sources retries fails) := by
  unfold finishWake
  with_reducible repeat' first
    | assumption
    | (extract_lets +onlyGivenNames z; refine st_cut (p := P.holds z) ?_ ?_; subst z; rotate_left; intro hz; clear_value z)
    | (extract_lets +onlyGivenNames z; refine st_cut (p := P.fst z) ?_ ?_; subst z; rotate_left; intro hz; clear_value z)
    | (extract_lets +onlyGivenNames z; subst z) | apply st_ite | apply st_selfTests | apply st_runList | apply st_drawFree
    | apply st_raiseIrq | apply st_reachState | apply st_enterInterruptMode | apply st_raiseGloss
    | (refine st_ofPair P (by assumption)) | (refine st_left P (by assumption) ?_) | split | apply st_iteFst | apply st_pair
    | apply st_proj | apply Stable.mk_plain

theorem st_wakeTaken (s : State) (hP : P.holds s) : P.holds (wakeTaken s) := by
  unfold wakeTaken
  with_reducible repeat' first
    | assumption
    | (extract_lets +onlyGivenNames z; refine st_cut (p := P.holds z) ?_ ?_; subst z; rotate_left; intro hz; clear_value z)
    | (extract_lets +onlyGivenNames z; refine st_cut (p := P.fst z) ?_ ?_; subst z; rotate_left; intro hz; clear_value z)
    | (extract_lets +onlyGivenNames z; subst z) | apply st_wr | apply Stable.mk_plain

theorem st_wakeDomains (s : State) (crystal : Bool) (hP : P.holds s) : P.holds (wakeDomains s crystal) := by
  unfold wakeDomains
  with_reducible repeat' first
    | assumption
    | (extract_lets +onlyGivenNames z; refine st_cut (p := P.holds z) ?_ ?_; subst z; rotate_left; intro hz; clear_value z)
    | (extract_lets +onlyGivenNames z; refine st_cut (p := P.fst z) ?_ ?_; subst z; rotate_left; intro hz; clear_value z)
    | (extract_lets +onlyGivenNames z; subst z) | apply st_wakeTaken | apply st_domainsOn | apply st_wakeClock | apply st_wakeGloss
    | apply st_showRepairs | apply st_clearDebug | apply Stable.mk_plain

theorem st_wake (s : State) (crystal : Bool) (fails : Nat) (hP : P.holds s) : P.holds (wake s crystal fails) := by
  unfold wake
  with_reducible repeat' first
    | assumption
    | (extract_lets +onlyGivenNames z; refine st_cut (p := P.holds z) ?_ ?_; subst z; rotate_left; intro hz; clear_value z)
    | (extract_lets +onlyGivenNames z; refine st_cut (p := P.fst z) ?_ ?_; subst z; rotate_left; intro hz; clear_value z)
    | (extract_lets +onlyGivenNames z; subst z) | apply st_ite | apply st_checkedImage | apply st_wakeDomains | apply st_clearRange
    | apply st_configure | apply st_loadContent | apply st_applyStore | apply st_finishWake | (refine st_ofPair P (by assumption))
    | (refine st_left P (by assumption) ?_) | split | apply st_iteFst | apply st_pair

theorem st_retryBoot (s : State) (hP : P.holds s) : P.holds (retryBoot s) := by
  unfold retryBoot
  with_reducible repeat' first
    | assumption
    | (extract_lets +onlyGivenNames z; refine st_cut (p := P.holds z) ?_ ?_; subst z; rotate_left; intro hz; clear_value z)
    | (extract_lets +onlyGivenNames z; refine st_cut (p := P.fst z) ?_ ?_; subst z; rotate_left; intro hz; clear_value z)
    | (extract_lets +onlyGivenNames z; subst z) | apply st_domainsOn | apply st_wakeTaken | apply st_wrFld | apply Stable.mk_plain

theorem st_startWake (s : State) (fails : Nat) (hP : P.holds s) : P.holds (startWake s fails) := by
  unfold startWake
  with_reducible repeat' first | assumption | apply st_ite | apply st_retryBoot | apply st_wake | split

theorem st_wakeEdge (s : State) (sources : BitVec 24) (hP : P.holds s) : P.fst (wakeEdge s sources) := by
  unfold wakeEdge
  with_reducible repeat' first
    | assumption
    | (extract_lets +onlyGivenNames z; refine st_cut (p := P.holds z) ?_ ?_; subst z; rotate_left; intro hz; clear_value z)
    | (extract_lets +onlyGivenNames z; refine st_cut (p := P.fst z) ?_ ?_; subst z; rotate_left; intro hz; clear_value z)
    | (extract_lets +onlyGivenNames z; subst z) | apply st_ite | apply st_iteFst | apply st_wake
    | (refine st_ofPair P (by assumption)) | (refine st_left P (by assumption) ?_) | split | apply st_iteFst | apply st_pair
    | apply Stable.mk_plain

theorem st_execWakeEvent (sources : BitVec 24) (selfTestFails : BitVec 16) (s : State) (hP : P.holds s) :
    P.out (execWakeEvent sources selfTestFails s) := by
  unfold execWakeEvent
  with_reducible repeat' first
    | assumption
    | (extract_lets +onlyGivenNames z; refine st_cut (p := P.holds z) ?_ ?_; subst z; rotate_left; intro hz; clear_value z)
    | (extract_lets +onlyGivenNames z; refine st_cut (p := P.fst z) ?_ ?_; subst z; rotate_left; intro hz; clear_value z)
    | (extract_lets +onlyGivenNames z; subst z) | apply st_ite | apply st_iteOut | apply st_wakeEdge | apply st_startWake
    | apply st_latchWake | (refine st_ofPair P (by assumption)) | (refine st_left P (by assumption) ?_) | split | apply st_iteFst
    | apply st_pair | apply st_next | apply st_proj

theorem st_wakeRetry (s : State) (r : Nat × Nat × Nat) (n : Nat) (exhausted : State → State) (hexhausted : ∀ t, P.holds t → P.holds (exhausted t)) (hP : P.holds s) :
    P.holds (wakeRetry s r n exhausted) := by
  unfold wakeRetry
  with_reducible repeat' first
    | assumption
    | (extract_lets +onlyGivenNames z; refine st_cut (p := P.holds z) ?_ ?_; subst z; rotate_left; intro hz; clear_value z)
    | (extract_lets +onlyGivenNames z; refine st_cut (p := P.fst z) ?_ ?_; subst z; rotate_left; intro hz; clear_value z)
    | (extract_lets +onlyGivenNames z; subst z) | apply st_ite | apply hexhausted | intro t ht | split | apply Stable.mk_plain

theorem st_wakeFailure (s : State) (step : Nat) (hP : P.holds s) : P.holds (wakeFailure s step) := by
  unfold wakeFailure
  with_reducible repeat' first
    | assumption
    | (extract_lets +onlyGivenNames z; refine st_cut (p := P.holds z) ?_ ?_; subst z; rotate_left; intro hz; clear_value z)
    | (extract_lets +onlyGivenNames z; refine st_cut (p := P.fst z) ?_ ?_; subst z; rotate_left; intro hz; clear_value z)
    | (extract_lets +onlyGivenNames z; subst z) | apply st_supplyFailure | apply st_wakeTaken | apply st_step

theorem st_execWakeStepTimeout (step : WakeStep) (s : State) (hP : P.holds s) : P.out (execWakeStepTimeout step s) := by
  unfold execWakeStepTimeout
  with_reducible repeat' first
    | intro t ht
    | assumption
    | (extract_lets +onlyGivenNames z; refine st_cut (p := P.holds z) ?_ ?_; subst z; rotate_left; intro hz; clear_value z)
    | (extract_lets +onlyGivenNames z; refine st_cut (p := P.fst z) ?_ ?_; subst z; rotate_left; intro hz; clear_value z)
    | (extract_lets +onlyGivenNames z; subst z) | apply st_ite | apply st_iteOut | apply st_step | apply st_wakeRetry
    | apply st_wakeFailure | apply st_wake | apply st_drawFree | apply st_wakeDomains | apply st_bootFailure | apply st_raiseGloss
    | (refine st_ofPair P (by assumption)) | (refine st_left P (by assumption) ?_) | split | apply st_iteFst | apply st_pair
    | apply st_next | apply st_proj

theorem st_execEntryComplete (s : State) (hP : P.holds s) : P.out (execEntryComplete s) := by
  unfold execEntryComplete
  with_reducible repeat' first | assumption | apply st_startWake | apply st_entryComplete | apply st_next

theorem st_execWarningRecovery (vin : BitVec 16) (s : State) (hP : P.holds s) : P.out (execWarningRecovery vin s) := by
  unfold execWarningRecovery
  with_reducible repeat' first | assumption | apply st_startWake | apply st_warningRecovery | apply st_next

theorem st_loadDomain (s : State) (d : Nat) (hP : P.holds s) : P.holds (loadDomain s d) := by
  unfold loadDomain
  with_reducible repeat' first
    | assumption
    | (extract_lets +onlyGivenNames z; refine st_cut (p := P.holds z) ?_ ?_; subst z; rotate_left; intro hz; clear_value z)
    | (extract_lets +onlyGivenNames z; refine st_cut (p := P.fst z) ?_ ?_; subst z; rotate_left; intro hz; clear_value z)
    | (extract_lets +onlyGivenNames z; subst z) | apply st_ite | apply st_onVerb | apply st_copyWords | apply st_raiseGloss
    | apply st_loadPrograms | refine st_foldl P _ ?_ _ _ ?_ | refine st_foldlFst P _ ?_ _ _ ?_ | intro t x ht | split

theorem st_execVerbProgramLoad (verbB : Bool) (s : State) (hP : P.holds s) : P.out (execVerbProgramLoad verbB s) := by
  unfold execVerbProgramLoad
  with_reducible repeat' first
    | assumption | (extract_lets +onlyGivenNames z; subst z) | apply st_iteOut | apply st_loadDomain | apply st_next

theorem st_execCred (l : Fin 4) (cls : BitVec 2) (count : Byte) (s : State) (hP : P.holds s) : P.out (execCred l cls count s) := by
  unfold execCred
  with_reducible repeat' first | assumption | apply st_onLink | apply st_next

theorem st_execAck (l : Fin 4) (seq : Byte) (s : State) (hP : P.holds s) : P.out (execAck l seq s) := by
  unfold execAck
  with_reducible repeat' first | assumption | apply st_onLink | apply st_next

theorem st_execRoleDecision (s : State) (hP : P.holds s) : P.out (execRoleDecision s) := by
  unfold execRoleDecision
  with_reducible repeat' first | assumption | apply st_iteOut | apply st_becomeRoot | apply st_next

theorem st_execCommaAlignment (l : Fin 4) (s : State) (hP : P.holds s) : P.out (execCommaAlignment l s) := by
  unfold execCommaAlignment
  with_reducible repeat' first | assumption | apply st_iteOut | apply st_setLinkState | apply st_next

theorem st_pumpLink (s : State) (l : Nat) (hP : P.holds s) : P.holds (pumpLink s l) := by
  unfold pumpLink
  with_reducible repeat' first | assumption | apply st_ite | apply st_onLink | split

theorem st_answerLink (s : State) (l : Nat) (nak : Bool) (hP : P.holds s) : P.holds (answerLink s l nak) := by
  unfold answerLink
  with_reducible repeat' first | assumption | apply st_onLink

theorem st_badPacket (s : State) (l : Nat) (hP : P.holds s) : P.holds (badPacket s l) := by
  unfold badPacket
  with_reducible repeat' first | assumption | apply st_answerLink | apply st_countUp

theorem st_onArrival (s : State) (a : Arrival) (retried : Bool) (f : State → State) (hf : ∀ t, P.holds t → P.holds (f t)) (hP : P.holds s) :
    P.holds (onArrival s a retried f) := by
  unfold onArrival
  with_reducible repeat' first
    | assumption
    | (extract_lets +onlyGivenNames z; refine st_cut (p := P.holds z) ?_ ?_; subst z; rotate_left; intro hz; clear_value z)
    | (extract_lets +onlyGivenNames z; refine st_cut (p := P.fst z) ?_ ?_; subst z; rotate_left; intro hz; clear_value z)
    | (extract_lets +onlyGivenNames z; subst z) | apply st_ite | apply st_badPacket | apply st_answerLink | apply st_onLink
    | apply hf | intro t ht | split

theorem st_execHelloInterval (l : Fin 4) (s : State) (hP : P.holds s) : P.out (execHelloInterval l s) := by
  unfold execHelloInterval
  with_reducible repeat' first | assumption | apply st_iteOut | apply st_linkQueue | apply st_onLink | apply st_next

theorem st_workerPlace (s : State) (l : Nat) (hP : P.holds s) : P.fst (workerPlace s l) := by
  unfold workerPlace
  with_reducible repeat' first
    | assumption
    | (extract_lets +onlyGivenNames z; refine st_cut (p := P.holds z) ?_ ?_; subst z; rotate_left; intro hz; clear_value z)
    | (extract_lets +onlyGivenNames z; refine st_cut (p := P.fst z) ?_ ?_; subst z; rotate_left; intro hz; clear_value z)
    | (extract_lets +onlyGivenNames z; subst z) | apply st_ite | apply st_iteFst | apply st_drawFree
    | (refine st_ofPair P (by assumption)) | (refine st_left P (by assumption) ?_) | split | apply st_iteFst | apply st_pair
    | apply st_proj | apply Stable.mk_plain

theorem st_peerVerbs (s : State) (l addr : Nat) (hP : P.holds s) : P.fst (peerVerbs s l addr) := by
  unfold peerVerbs
  with_reducible repeat' first
    | assumption | apply st_iteFst | apply st_drawFree | (refine st_left P (by assumption) ?_) | split | apply st_pair

theorem st_noteDevice (s : State) (l addr depth : Nat) (join : Bool) (hP : P.holds s) : P.holds (noteDevice s l addr depth join) := by
  unfold noteDevice
  with_reducible repeat' first
    | assumption | (extract_lets +onlyGivenNames z; subst z) | apply st_peerVerbs | (refine st_left P (by assumption) ?_) | split
    | apply Stable.mk_plain

theorem st_assignWorker (s : State) (l : Nat) (hP : P.holds s) : P.holds (assignWorker s l) := by
  unfold assignWorker
  with_reducible repeat' first
    | assumption | (extract_lets +onlyGivenNames z; refine st_cut (p := P.holds z) ?_ ?_; subst z; rotate_left; intro hz; clear_value z)
    | apply st_ite | apply st_workerPlace | apply st_refuseLink | apply st_wrFld | apply st_noteDevice | apply st_linkQueue
    | (refine st_left P (by assumption) ?_) | split

theorem st_measured (s : State) (l : Nat) (hP : P.holds s) : P.holds (measured s l) := by
  unfold measured
  with_reducible repeat' first
    | assumption | (extract_lets +onlyGivenNames z; refine st_cut (p := P.holds z) ?_ ?_; subst z; rotate_left; intro hz; clear_value z)
    | (extract_lets +onlyGivenNames z; subst z) | apply st_ite | apply st_refuseLink | apply st_setLinkState | apply st_wrFld
    | apply st_assignWorker

theorem st_helloFirst (s : State) (l : Nat) (h : HelloPayload) (arrival : Word) (hP : P.holds s) :
    P.holds (helloFirst s l h arrival) := by
  unfold helloFirst
  with_reducible repeat' first
    | assumption | (extract_lets +onlyGivenNames z; refine st_cut (p := P.holds z) ?_ ?_; subst z; rotate_left; intro hz; clear_value z)
    | apply st_ite | apply st_becomeWorker | apply st_setLinkState | apply st_onLink | apply st_refuseLink

theorem st_takeHello (l : Nat) (h : HelloPayload) (arrival : Word) (s : State) (hP : P.holds s) :
    P.holds (takeHello l h arrival s) := by
  unfold takeHello
  with_reducible repeat' first
    | assumption
    | (extract_lets +onlyGivenNames z; refine st_cut (p := P.holds z) ?_ ?_; subst z; rotate_left; intro hz; clear_value z)
    | (extract_lets +onlyGivenNames z; refine st_cut (p := P.fst z) ?_ ?_; subst z; rotate_left; intro hz; clear_value z)
    | (extract_lets +onlyGivenNames z; subst z) | apply st_ite | apply st_helloFirst | apply st_onLink | apply st_measured | split

theorem st_execHello (l : Arrival) (h : HelloPayload) (arrival : Word) (s : State) (hP : P.holds s) :
    P.out (execHello l h arrival s) := by
  unfold execHello
  with_reducible repeat' first | assumption | apply st_onArrival | apply st_takeHello | apply st_next

theorem st_sendStat (s : State) (kind address : Nat) (hP : P.holds s) : P.holds (sendStat s kind address) := by
  unfold sendStat
  with_reducible repeat' first | assumption | apply st_sendUp

theorem st_upstreamPeer (s : State) (address position depth : Nat) (hP : P.holds s) : P.fst (upstreamPeer s address position depth) := by
  unfold upstreamPeer
  with_reducible repeat' first | assumption | apply st_drawFree | (refine st_left P (by assumption) ?_) | split | apply st_pair

theorem st_takeAddr (l address position depth tiers : Nat) (s : State) (hP : P.holds s) :
    P.holds (takeAddr l address position depth tiers s) := by
  unfold takeAddr
  with_reducible repeat' first
    | assumption
    | (extract_lets +onlyGivenNames z; refine st_cut (p := P.holds z) ?_ ?_; subst z; rotate_left; intro hz; clear_value z)
    | (extract_lets +onlyGivenNames z; refine st_cut (p := P.fst z) ?_ ?_; subst z; rotate_left; intro hz; clear_value z)
    | (extract_lets +onlyGivenNames z; subst z) | apply st_ite | apply st_refuseLink | apply st_bufferDrained | apply st_wr
    | apply st_upstreamPeer | apply st_wrFld | apply st_sendStat | apply st_setLinkState | (refine st_ofPair P (by assumption))
    | (refine st_left P (by assumption) ?_) | split | apply st_iteFst | apply st_pair | apply st_proj

theorem st_execAddr (l : Arrival) (address : BitVec 14) (position : BitVec 6) (depth tiers : BitVec 2) (s : State) (hP : P.holds s) :
    P.out (execAddr l address position depth tiers s) := by
  unfold execAddr
  with_reducible repeat' first | assumption | apply st_onArrival | apply st_takeAddr | apply st_next

theorem st_activateWorker (s : State) (l : Nat) (hP : P.holds s) : P.holds (activateWorker s l) := by
  unfold activateWorker
  with_reducible repeat' first | assumption | apply st_linkQueue | apply st_setLinkState

theorem st_compareImage (s : State) (l : Nat) (hP : P.holds s) : P.holds (compareImage s l) := by
  unfold compareImage
  with_reducible repeat' first
    | assumption | apply st_ite | apply st_activateWorker | apply st_setLinkState | apply st_onLink | apply st_refuseLink | split

theorem st_pumpStream (s : State) (l : Nat) (hP : P.holds s) : P.holds (pumpStream s l) := by
  unfold pumpStream
  with_reducible repeat' first
    | assumption
    | (extract_lets +onlyGivenNames z; refine st_cut (p := P.holds z) ?_ ?_; subst z; rotate_left; intro hz; clear_value z)
    | (extract_lets +onlyGivenNames z; refine st_cut (p := P.fst z) ?_ ?_; subst z; rotate_left; intro hz; clear_value z)
    | (extract_lets +onlyGivenNames z; subst z) | apply st_ite | apply st_linkQueue | apply st_onLink | split

theorem st_joinOnLink (s : State) (l address : Nat) (hP : P.holds s) : P.holds (joinOnLink s l address) := by
  unfold joinOnLink
  with_reducible repeat' first
    | assumption | apply st_ite | apply st_compareImage | apply st_activateWorker | apply st_onLink | split

theorem st_noteLoss (s : State) (address l : Nat) (hP : P.holds s) : P.holds (noteLoss s address l) := by
  unfold noteLoss
  with_reducible repeat' first | assumption | (extract_lets +onlyGivenNames z; subst z) | split | apply Stable.mk_plain

theorem st_noteReport (s : State) (l kind a : Nat) (hP : P.holds s) : P.holds (noteReport s l kind a) := by
  unfold noteReport
  with_reducible repeat' first
    | assumption
    | (extract_lets +onlyGivenNames z; refine st_cut (p := P.holds z) ?_ ?_; subst z; rotate_left; intro hz; clear_value z)
    | (extract_lets +onlyGivenNames z; refine st_cut (p := P.fst z) ?_ ?_; subst z; rotate_left; intro hz; clear_value z)
    | (extract_lets +onlyGivenNames z; subst z) | apply st_ite | apply st_noteDevice | apply st_noteLoss | split
    | apply Stable.mk_plain

theorem st_takeStat (hd : Relayed) (kind address : Nat) (s : State) (hP : P.holds s) : P.holds (takeStat hd kind address s) := by
  unfold takeStat
  with_reducible repeat' first
    | assumption
    | (extract_lets +onlyGivenNames z; refine st_cut (p := P.holds z) ?_ ?_; subst z; rotate_left; intro hz; clear_value z)
    | (extract_lets +onlyGivenNames z; refine st_cut (p := P.fst z) ?_ ?_; subst z; rotate_left; intro hz; clear_value z)
    | (extract_lets +onlyGivenNames z; subst z) | apply st_ite | apply st_bufferDrained | apply st_noteReport | apply st_joinOnLink
    | apply st_sendUp | split

theorem st_execStat (l : Relayed) (kind : Byte) (address : BitVec 16) (s : State) (hP : P.holds s) :
    P.out (execStat l kind address s) := by
  unfold execStat
  with_reducible repeat' first | assumption | apply st_onArrival | apply st_takeStat | apply st_next

theorem st_execLinkTrainingTimeout (l : Fin 4) (s : State) (hP : P.holds s) : P.out (execLinkTrainingTimeout l s) := by
  unfold execLinkTrainingTimeout
  with_reducible repeat' first
    | assumption | (extract_lets +onlyGivenNames z; subst z) | apply st_iteOut | apply st_refuseLink | apply st_retrainLink
    | apply st_next

theorem st_joinEpoch (s : State) (instant : DWord) (hP : P.holds s) : P.holds (joinEpoch s instant) := by
  unfold joinEpoch
  with_reducible repeat' first
    | assumption
    | (extract_lets +onlyGivenNames z; refine st_cut (p := P.holds z) ?_ ?_; subst z; rotate_left; intro hz; clear_value z)
    | (extract_lets +onlyGivenNames z; refine st_cut (p := P.fst z) ?_ ?_; subst z; rotate_left; intro hz; clear_value z)
    | (extract_lets +onlyGivenNames z; subst z) | apply st_ite | apply st_setEpoch | apply st_holdPosition | apply st_stopRendering
    | apply st_startRendering | split | apply Stable.mk_plain

theorem st_compareSync (s : State) (l : Nat) (instant : DWord) (hP : P.holds s) : P.holds (compareSync s l instant) := by
  unfold compareSync
  with_reducible repeat' first
    | assumption | (extract_lets +onlyGivenNames z; subst z) | apply st_ite | apply st_raiseGloss | apply st_setFlag

theorem st_takeLinkSync (l : Nat) (elapsed : DWord) (new : Bool) (arrival : DWord) (s : State) (hP : P.holds s) :
    P.holds (takeLinkSync l elapsed new arrival s) := by
  unfold takeLinkSync
  with_reducible repeat' first
    | assumption
    | (extract_lets +onlyGivenNames z; refine st_cut (p := P.holds z) ?_ ?_; subst z; rotate_left; intro hz; clear_value z)
    | (extract_lets +onlyGivenNames z; refine st_cut (p := P.fst z) ?_ ?_; subst z; rotate_left; intro hz; clear_value z)
    | (extract_lets +onlyGivenNames z; subst z) | apply st_ite | apply st_setLinkState | apply st_compareSync | apply st_joinEpoch
    | apply st_takeSync | apply st_sendSync | split

theorem st_execSyncPacket (l : Arrival) (elapsed : DWord) (new : Bool) (arrival : DWord) (s : State) (hP : P.holds s) :
    P.out (execSyncPacket l elapsed new arrival s) := by
  unfold execSyncPacket
  with_reducible repeat' first | assumption | apply st_onArrival | apply st_takeLinkSync | apply st_next

theorem st_execPeriodicSync (s : State) (hP : P.holds s) : P.out (execPeriodicSync s) := by
  unfold execPeriodicSync
  with_reducible repeat' first | assumption | apply st_iteOut | apply st_sendSync | apply st_next

theorem st_bootOverLink (s : State) (hP : P.holds s) : P.holds (bootOverLink s) := by
  unfold bootOverLink
  with_reducible repeat' first
    | assumption
    | (extract_lets +onlyGivenNames z; refine st_cut (p := P.holds z) ?_ ?_; subst z; rotate_left; intro hz; clear_value z)
    | (extract_lets +onlyGivenNames z; refine st_cut (p := P.fst z) ?_ ?_; subst z; rotate_left; intro hz; clear_value z)
    | (extract_lets +onlyGivenNames z; subst z) | apply st_ite | apply st_stopRendering | apply st_cvClose | apply st_closeAllParks
    | apply st_domainsOn | apply st_wr | apply st_clearDebug | apply st_bootFromFour | apply st_sendStat
    | refine st_foldl P _ ?_ _ _ ?_ | refine st_foldlFst P _ ?_ _ _ ?_ | intro t x ht | split | apply Stable.mk_plain

theorem st_takeImagePart (hd : Relayed) (offset : Word) (bytes : List Byte) (s : State) (hP : P.holds s) :
    P.holds (takeImagePart hd offset bytes s) := by
  unfold takeImagePart
  with_reducible repeat' first
    | assumption
    | (extract_lets +onlyGivenNames z; refine st_cut (p := P.holds z) ?_ ?_; subst z; rotate_left; intro hz; clear_value z)
    | (extract_lets +onlyGivenNames z; refine st_cut (p := P.fst z) ?_ ?_; subst z; rotate_left; intro hz; clear_value z)
    | (extract_lets +onlyGivenNames z; subst z) | apply st_ite | apply st_bufferDrained | apply st_linkQueue | apply st_bootOverLink
    | refine st_foldl P _ ?_ _ _ ?_ | refine st_foldlFst P _ ?_ _ _ ?_ | intro t x ht | split | apply Stable.mk_plain

theorem st_execBootPacket (l : Relayed) (offset : Word) (bytes : List Byte) (s : State) (hP : P.holds s) :
    P.out (execBootPacket l offset bytes s) := by
  unfold execBootPacket
  with_reducible repeat' first | assumption | apply st_onArrival | apply st_takeImagePart | apply st_next

theorem st_forward (s : State) (typ : Nat) (hd : LinkHeader) (payload : List Byte) (hP : P.holds s) :
    P.holds (forward s typ hd payload) := by
  unfold forward
  with_reducible repeat' first | assumption | apply st_linkQueue | split

theorem st_takeLinkEvent (s : State) (l : Nat) (p : EvPacket) (hP : P.holds s) : P.holds (takeLinkEvent s l p) := by
  unfold takeLinkEvent
  with_reducible repeat' first | assumption | apply st_offerEvent

theorem st_takeEvents (l : Nat) (hd : LinkHeader) (events : List EvPacket) (s : State) (hP : P.holds s) :
    P.holds (takeEvents l hd events s) := by
  unfold takeEvents
  with_reducible repeat' first
    | assumption
    | (extract_lets +onlyGivenNames z; refine st_cut (p := P.holds z) ?_ ?_; subst z; rotate_left; intro hz; clear_value z)
    | (extract_lets +onlyGivenNames z; refine st_cut (p := P.fst z) ?_ ?_; subst z; rotate_left; intro hz; clear_value z)
    | (extract_lets +onlyGivenNames z; subst z) | apply st_ite | apply st_takeLinkEvent | apply st_holdEvt | apply st_bufferDrained
    | apply st_sendDown | apply st_takeForwarded | apply st_sendUp | apply st_forward | refine st_foldl P _ ?_ _ _ ?_
    | refine st_foldlFst P _ ?_ _ _ ?_ | intro t x ht | split

theorem st_execEvt (l : Arrival) (hd : LinkHeader) (events : List EvPacket) (s : State) (hP : P.holds s) :
    P.out (execEvt l hd events s) := by
  unfold execEvt
  with_reducible repeat' first | assumption | apply st_onArrival | apply st_takeEvents | apply st_next

theorem st_takeWev (hd : Relayed) (frame : Word) (entries : List WevEntry) (s : State) (hP : P.holds s) :
    P.holds (takeWev hd frame entries s) := by
  unfold takeWev
  with_reducible repeat' first
    | assumption
    | (extract_lets +onlyGivenNames z; refine st_cut (p := P.holds z) ?_ ?_; subst z; rotate_left; intro hz; clear_value z)
    | (extract_lets +onlyGivenNames z; refine st_cut (p := P.fst z) ?_ ?_; subst z; rotate_left; intro hz; clear_value z)
    | (extract_lets +onlyGivenNames z; subst z) | apply st_ite | apply st_bufferDrained | apply st_sendUp | split
    | apply Stable.mk_plain

theorem st_execWev (l : Relayed) (frame : Word) (entries : List WevEntry) (s : State) (hP : P.holds s) :
    P.out (execWev l frame entries s) := by
  unfold execWev
  with_reducible repeat' first | assumption | apply st_onArrival | apply st_takeWev | apply st_next

theorem st_createHere (s : State) (r : FrmRecord) (pos : DWord) (late : Bool) (hP : P.holds s) : P.holds (createHere s r pos late) := by
  unfold createHere
  with_reducible repeat' first | assumption | (extract_lets +onlyGivenNames z; subst z) | apply st_putPhrase

theorem st_onGroup (s : State) (part : Nat) (aseq : Word) (f : Phrase → Phrase) (hP : P.holds s) : P.holds (onGroup s part aseq f) := by
  unfold onGroup
  with_reducible repeat' first | assumption | apply Stable.mk_plain

theorem st_recordActs (m : Nat) (es : List EvPacket) (s : State) (r : FrmRecord) (hP : P.holds s) : P.holds (recordActs m es s r) := by
  unfold recordActs
  with_reducible repeat' first
    | assumption | (extract_lets +onlyGivenNames z; subst z) | apply st_ite | apply st_createHere | apply st_onGroup | apply st_setPedal
    | apply st_freePhrase | apply st_cutTails | apply st_toFading | split

theorem st_forwardedActs (s : State) (e : EvPacket) (hP : P.holds s) : P.holds (forwardedActs s e) := by
  unfold forwardedActs
  with_reducible repeat' first
    | assumption | (extract_lets +onlyGivenNames z; subst z) | apply st_ite | apply st_hostRing | apply st_controlAct
    | refine st_foldl P _ ?_ _ _ ?_ | intro t x ht

theorem st_mergeActs (m : Nat) (all : List EvPacket) (y0 : Nat) (y1 : State) (y2 : List FrmRecord) (y3 : List EvPacket) (hP : P.holds y1) :
    P.holds (mergeActs m all y0 y1 y2 y3) := by
  fun_induction mergeActs m all y0 y1 y2 y3 with
  | case1 => exact hP
  | case2 => exact hP
  | case3 n s r rs ih => exact ih (st_recordActs P _ _ _ _ hP)
  | case4 n s e es ih => exact ih (st_forwardedActs P _ _ hP)
  | case5 n s r rs e es _ ih => exact ih (st_recordActs P _ _ _ _ hP)
  | case6 n s r rs e es _ ih => exact ih (st_forwardedActs P _ _ hP)

theorem st_freeSlotsOf (s : State) (slots : List Nat) (hP : P.holds s) : P.holds (freeSlotsOf s slots) := by
  unfold freeSlotsOf
  with_reducible repeat' first | assumption | apply Stable.mk_plain

theorem st_workerFrame (s : State) (m : Nat) (f : FrmPayload) (hP : P.holds s) : P.holds (workerFrame s m f) := by
  unfold workerFrame
  with_reducible repeat' first
    | assumption
    | (extract_lets +onlyGivenNames z; refine st_cut (p := P.holds z) ?_ ?_; subst z; rotate_left; intro hz; clear_value z)
    | (extract_lets +onlyGivenNames z; refine st_cut (p := P.fst z) ?_ ?_; subst z; rotate_left; intro hz; clear_value z)
    | (extract_lets +onlyGivenNames z; subst z) | apply st_stepOne | apply st_freeSlotsOf | apply st_followRecord
    | apply st_writeFrameRecord | apply st_leaveQueue | apply st_mergeActs | apply st_armAll | apply st_endStep3
    | apply Stable.mk_plain | apply Stable.mk_alloc | apply Stable.mk_any
    | (refine ⟨?_, ?_, ?_, ?_, ?_, ⟨?_, ?_, ?_, ?_, ?_, ⟨?_, ?_, ?_, ?_⟩⟩⟩ <;> intro hn <;> first | exact hn | (simp; done) | simp [hn])

theorem st_takeFrm (hd : Relayed) (payload : FrmPayload) (s : State) (hP : P.holds s) : P.holds (takeFrm hd payload s) := by
  unfold takeFrm
  with_reducible repeat' first
    | intro t ht
    | assumption
    | (extract_lets +onlyGivenNames z; refine st_cut (p := P.holds z) ?_ ?_; subst z; rotate_left; intro hz; clear_value z)
    | (extract_lets +onlyGivenNames z; refine st_cut (p := P.fst z) ?_ ?_; subst z; rotate_left; intro hz; clear_value z)
    | (extract_lets +onlyGivenNames z; subst z) | apply st_ite | apply st_sendDown | apply st_atFrame | apply st_workerFrame | split

theorem st_execFrm (l : Relayed) (payload : FrmPayload) (s : State) (hP : P.holds s) : P.out (execFrm l payload s) := by
  unfold execFrm
  with_reducible repeat' first | assumption | apply st_onArrival | apply st_takeFrm | apply st_next

theorem st_execUpb (l : Fin 4) (block : UpBlock) (crcOk : Bool) (s : State) (hP : P.holds s) :
    P.out (execUpb l block crcOk s) := by
  unfold execUpb
  with_reducible repeat' first
    | assumption
    | (extract_lets +onlyGivenNames z; refine st_cut (p := P.holds z) ?_ ?_; subst z; rotate_left; intro hz; clear_value z)
    | (extract_lets +onlyGivenNames z; refine st_cut (p := P.fst z) ?_ ?_; subst z; rotate_left; intro hz; clear_value z)
    | (extract_lets +onlyGivenNames z; subst z) | apply st_ite | apply st_iteOut | apply st_onLink | apply st_badPacket | split
    | apply st_next

theorem st_addLinkBlock (k : Nat) (acc : State × UpBlock) (l : Nat) (hP : P.fst acc) : P.fst (addLinkBlock k acc l) := by
  unfold addLinkBlock
  with_reducible repeat' first
    | assumption | (extract_lets +onlyGivenNames z; refine st_cut (p := P.holds z) ?_ ?_; subst z; rotate_left; intro hz; clear_value z)
    | (extract_lets +onlyGivenNames z; subst z) | apply st_iteFst | apply st_onLink | apply st_clearBlock
    | (refine st_ofPair P (by assumption)) | split | apply st_pair

theorem st_exportWev (s : State) (k : Nat) (hP : P.holds s) : P.holds (exportWev s k) := by
  unfold exportWev
  with_reducible repeat' first
    | assumption
    | (extract_lets +onlyGivenNames z; refine st_cut (p := P.holds z) ?_ ?_; subst z; rotate_left; intro hz; clear_value z)
    | (extract_lets +onlyGivenNames z; refine st_cut (p := P.fst z) ?_ ?_; subst z; rotate_left; intro hz; clear_value z)
    | (extract_lets +onlyGivenNames z; subst z) | apply st_sendUp | refine st_foldl P _ ?_ _ _ ?_ | refine st_foldlFst P _ ?_ _ _ ?_
    | intro t x ht | apply st_proj | apply Stable.mk_plain

theorem st_exportBlock (s : State) (k : Nat) (hP : P.holds s) : P.holds (exportBlock s k) := by
  unfold exportBlock
  with_reducible repeat' first
    | assumption
    | (extract_lets +onlyGivenNames z; refine st_cut (p := P.holds z) ?_ ?_; subst z; rotate_left; intro hz; clear_value z)
    | (extract_lets +onlyGivenNames z; refine st_cut (p := P.fst z) ?_ ?_; subst z; rotate_left; intro hz; clear_value z)
    | (extract_lets +onlyGivenNames z; subst z) | apply st_exportWev | apply st_heldSums | apply st_heldReport
    | apply st_addLinkBlock | apply st_sendUp | refine st_foldl P _ ?_ _ _ ?_ | refine st_foldlFst P _ ?_ _ _ ?_ | intro t x ht
    | (refine st_ofPair P (by assumption)) | (refine st_left P (by assumption) ?_) | split | apply st_iteFst | apply st_pair
    | apply st_proj | apply Stable.mk_plain

theorem st_execUpbExport (s : State) (hP : P.holds s) : P.out (execUpbExport s) := by
  unfold execUpbExport
  with_reducible repeat' first | assumption | apply st_iteOut | apply st_exportBlock | apply st_next

theorem st_execUpbSopTimeout (l : Fin 4) (s : State) (hP : P.holds s) : P.out (execUpbSopTimeout l s) := by
  unfold execUpbSopTimeout
  with_reducible repeat' first | assumption | apply st_iteOut | apply st_exportBlock | apply st_next

theorem st_execLateMarkClear (address : BitVec 14) (s : State) (hP : P.holds s) : P.out (execLateMarkClear address s) := by
  unfold execLateMarkClear
  with_reducible repeat' first | assumption | (extract_lets +onlyGivenNames z; subst z) | apply st_next | apply Stable.mk_plain

theorem st_execWorkerJoin (address : BitVec 14) (s : State) (hP : P.holds s) : P.out (execWorkerJoin address s) := by
  unfold execWorkerJoin
  with_reducible repeat' first
    | assumption | (extract_lets +onlyGivenNames z; refine st_cut (p := P.holds z) ?_ ?_; subst z; rotate_left; intro hz; clear_value z)
    | (extract_lets +onlyGivenNames z; subst z) | apply st_iteOut | apply st_raiseGloss | apply st_countUp | apply st_next | split
    | apply Stable.mk_plain

theorem st_linkLoss (s : State) (l cause : Nat) (hP : P.holds s) : P.holds (linkLoss s l cause) := by
  unfold linkLoss
  with_reducible repeat' first
    | assumption
    | (extract_lets +onlyGivenNames z; refine st_cut (p := P.holds z) ?_ ?_; subst z; rotate_left; intro hz; clear_value z)
    | (extract_lets +onlyGivenNames z; refine st_cut (p := P.fst z) ?_ ?_; subst z; rotate_left; intro hz; clear_value z)
    | (extract_lets +onlyGivenNames z; subst z) | apply st_ite | apply st_raiseGloss | apply st_retrainLink | apply st_noteLoss
    | apply st_sendStat | apply st_upstreamLoss | apply st_becomeWorker | refine st_foldl P _ ?_ _ _ ?_
    | refine st_foldlFst P _ ?_ _ _ ?_ | intro t x ht | split | apply Stable.mk_plain

theorem st_execLinkDown (l : Fin 4) (s : State) (hP : P.holds s) : P.out (execLinkDown l s) := by
  unfold execLinkDown
  with_reducible repeat' first | assumption | apply st_linkLoss | apply st_next

theorem st_replay (s : State) (l : Nat) (hP : P.holds s) : P.holds (replay s l) := by
  unfold replay
  with_reducible repeat' first
    | assumption | (extract_lets +onlyGivenNames z; refine st_cut (p := P.holds z) ?_ ?_; subst z; rotate_left; intro hz; clear_value z)
    | apply st_ite | apply st_countUp | apply st_onLink | apply st_linkLoss

theorem st_execNak (l : Fin 4) (seq : Byte) (s : State) (hP : P.holds s) : P.out (execNak l seq s) := by
  unfold execNak
  with_reducible repeat' first | assumption | apply st_replay | apply st_onLink | apply st_next

theorem st_execReplayTimeout (l : Fin 4) (s : State) (hP : P.holds s) : P.out (execReplayTimeout l s) := by
  unfold execReplayTimeout
  with_reducible repeat' first | assumption | apply st_iteOut | apply st_replay | apply st_next

theorem st_execDeviceRemoval (s : State) (hP : P.holds s) : P.out (execDeviceRemoval s) := by
  unfold execDeviceRemoval
  with_reducible repeat' first
    | assumption | (extract_lets +onlyGivenNames z; refine st_cut (p := P.holds z) ?_ ?_; subst z; rotate_left; intro hz; clear_value z)
    | (extract_lets +onlyGivenNames z; subst z) | apply st_iteOut | apply st_enqueueEvent | apply st_voidFrame | apply st_raiseGloss
    | apply st_countUp | apply st_next | refine st_foldl P _ ?_ _ _ ?_ | intro t x ht | apply Stable.mk_plain

theorem st_takeTrc (hd : Relayed) (words : List Word) (scheduling : Bool) (s : State) (hP : P.holds s) :
    P.holds (takeTrc hd words scheduling s) := by
  unfold takeTrc
  with_reducible repeat' first
    | assumption
    | (extract_lets +onlyGivenNames z; refine st_cut (p := P.holds z) ?_ ?_; subst z; rotate_left; intro hz; clear_value z)
    | (extract_lets +onlyGivenNames z; refine st_cut (p := P.fst z) ?_ ?_; subst z; rotate_left; intro hz; clear_value z)
    | (extract_lets +onlyGivenNames z; subst z) | apply st_ite | apply st_bufferDrained | apply st_sendUp | apply st_linkTrace
    | refine st_foldl P _ ?_ _ _ ?_ | refine st_foldlFst P _ ?_ _ _ ?_ | intro t x ht | apply st_getD
    | (refine st_optElim P (by assumption) ?_) | split

theorem st_execTrc (l : Relayed) (words : List Word) (scheduling : Bool) (s : State) (hP : P.holds s) :
    P.out (execTrc l words scheduling s) := by
  unfold execTrc
  with_reducible repeat' first | assumption | apply st_onArrival | apply st_takeTrc | apply st_next

theorem st_sendSets (s : State) (l : Nat) (hP : P.holds s) : P.holds (sendSets s l) := by
  unfold sendSets
  with_reducible repeat' first | assumption | apply st_ite | apply st_onLink | split

theorem st_linksTick (s : State) (hP : P.holds s) : P.holds (linksTick s) := by
  unfold linksTick
  with_reducible repeat' first
    | assumption | apply st_sendSets | apply st_pumpLink | apply st_pumpStream | refine st_foldl P _ ?_ _ _ ?_
    | refine st_foldlFst P _ ?_ _ _ ?_ | intro t x ht

end Sys2Proof.Laws
end

