-- ==== Sys2Proof/Laws/StableBoot.lean ====
section
/-! SUPPORT. Every function of the modules Host, Dispatch, Tick keeps a Stable predicate. -/

namespace Sys2Proof.Laws
open Sys2Proof.Machine
variable (P : Stable)

theorem st_mailboxDone (s : State) (err : Nat) (hP : P.holds s) : P.holds (mailboxDone s err) := by
  unfold mailboxDone
  with_reducible repeat' first
    | assumption | (extract_lets +onlyGivenNames z; refine st_cut (p := P.holds z) ?_ ?_; subst z; rotate_left; intro hz; clear_value z)
    | apply st_ite | apply st_wrFld | apply st_clrFlag | apply st_raiseIrq | apply st_setFlag

theorem st_mailboxGo (s : State) (hP : P.holds s) : P.holds (mailboxGo s) := by
  unfold mailboxGo
  with_reducible repeat' first
    | assumption | (extract_lets +onlyGivenNames z; refine st_cut (p := P.holds z) ?_ ?_; subst z; rotate_left; intro hz; clear_value z)
    | (extract_lets +onlyGivenNames z; subst z) | apply st_ite | apply st_wrFld | apply st_setFlag | apply st_forward
    | apply st_mailboxDone | apply Stable.mk_plain

theorem st_afterHost (s : State) (a : Nat) (v : Word) (hP : P.holds s) : P.holds (afterHost s a v) := by
  unfold afterHost
  with_reducible repeat' first | assumption | apply st_ite | apply st_startReload | apply st_mailboxGo | apply st_startWake

theorem st_hostWrite (s : State) (req a : Nat) (v : Word) (hP : P.holds s) : P.fst (hostWrite s req a v) := by
  unfold hostWrite
  with_reducible repeat' first
    | assumption | apply st_iteFst | apply st_writeWord32 | apply st_afterHost | (refine st_left P (by assumption) ?_) | split
    | apply st_pair

theorem st_regWrite (s : State) (a : Nat) (v : Word) (hP : P.holds s) : P.holds (regWrite s a v) := by
  unfold regWrite
  with_reducible repeat' first | assumption | apply st_hostWrite | apply st_proj

theorem st_hostRead (s : State) (req a : Nat) (hP : P.holds s) : P.fst (hostRead s req a) := by
  unfold hostRead
  with_reducible repeat' first | assumption | apply st_iteFst | apply st_readWord32 | apply st_pair

theorem st_execRegisterWrite (addr value : Word) (s : State) (hP : P.holds s) : P.out (execRegisterWrite addr value s) := by
  unfold execRegisterWrite
  with_reducible repeat' first | assumption | apply st_regWrite | apply st_next

theorem st_setLastErr (s : State) (hP : P.holds s) : P.holds (setLastErr s) := by
  unfold setLastErr
  with_reducible repeat' first | assumption | (extract_lets +onlyGivenNames z; subst z) | apply Stable.mk_plain

theorem st_openHost (s : State) (hP : P.holds s) : P.holds (openHost s) := by
  unfold openHost
  with_reducible repeat' first | assumption | (extract_lets +onlyGivenNames z; subst z) | apply Stable.mk_plain

theorem st_refuseHost (s : State) (hP : P.holds s) : P.holds (refuseHost s) := by
  unfold refuseHost
  with_reducible repeat' first
    | assumption | (extract_lets +onlyGivenNames z; subst z) | apply st_setLastErr | apply Stable.mk_plain

theorem st_withAddress (s : State) (addr : Word) (f : State → State) (hf : ∀ t, P.holds t → P.holds (f t)) (hP : P.holds s) :
    P.holds (withAddress s addr f) := by
  unfold withAddress
  with_reducible repeat' first
    | assumption
    | (extract_lets +onlyGivenNames z; refine st_cut (p := P.holds z) ?_ ?_; subst z; rotate_left; intro hz; clear_value z)
    | (extract_lets +onlyGivenNames z; refine st_cut (p := P.fst z) ?_ ?_; subst z; rotate_left; intro hz; clear_value z)
    | (extract_lets +onlyGivenNames z; subst z) | apply st_ite | apply st_openHost | apply st_refuseHost | apply hf | intro t ht
    | split

theorem st_writeOne (s : State) (a : Nat) (v : Word) (hP : P.holds s) : P.holds (writeOne s a v) := by
  unfold writeOne
  with_reducible repeat' first
    | assumption | apply st_hostWrite | apply st_setLastErr | (refine st_left P (by assumption) ?_) | split

theorem st_readOne (s : State) (a : Nat) (hP : P.holds s) : P.holds (readOne s a) := by
  unfold readOne
  with_reducible repeat' first
    | assumption | (extract_lets +onlyGivenNames z; refine st_cut (p := P.holds z) ?_ ?_; subst z; rotate_left; intro hz; clear_value z)
    | (extract_lets +onlyGivenNames z; subst z) | apply st_ite | apply st_hostRead | apply st_setLastErr
    | (refine st_left P (by assumption) ?_) | split | apply Stable.mk_plain

theorem st_execWrite (addr : Word) (words : List Word) (rest : BitVec 5) (s : State) (hP : P.holds s) :
    P.out (execWrite addr words rest s) := by
  unfold execWrite
  with_reducible repeat' first
    | assumption | apply st_withAddress | apply st_writeOne | apply st_next | intro u hu | refine st_foldl P _ ?_ _ _ ?_

theorem st_execWriteFixed (addr : Word) (words : List Word) (rest : BitVec 5) (s : State) (hP : P.holds s) :
    P.out (execWriteFixed addr words rest s) := by
  unfold execWriteFixed
  with_reducible repeat' first
    | assumption | apply st_withAddress | apply st_writeOne | apply st_next | intro u hu | refine st_foldl P _ ?_ _ _ ?_

theorem st_execRead (addr : Word) (count : Nat) (s : State) (hP : P.holds s) : P.out (execRead addr count s) := by
  unfold execRead
  with_reducible repeat' first
    | assumption | apply st_withAddress | apply st_readOne | apply st_next | intro u hu | refine st_foldl P _ ?_ _ _ ?_

theorem st_execReadFixed (addr : Word) (count : Nat) (s : State) (hP : P.holds s) : P.out (execReadFixed addr count s) := by
  unfold execReadFixed
  with_reducible repeat' first
    | assumption | apply st_withAddress | apply st_readOne | apply st_next | intro u hu | refine st_foldl P _ ?_ _ _ ?_

theorem st_execStatus (count : Nat) (s : State) (hP : P.holds s) : P.out (execStatus count s) := by
  unfold execStatus
  with_reducible repeat' first
    | assumption
    | (extract_lets +onlyGivenNames z; refine st_cut (p := P.holds z) ?_ ?_; subst z; rotate_left; intro hz; clear_value z)
    | (extract_lets +onlyGivenNames z; refine st_cut (p := P.fst z) ?_ ?_; subst z; rotate_left; intro hz; clear_value z)
    | (extract_lets +onlyGivenNames z; subst z) | apply st_ite | apply st_iteOut | apply st_openHost | split | apply st_next
    | apply Stable.mk_plain

theorem st_execUndefinedHostCommand (code : Byte) (addr : Word) (s : State) (hP : P.holds s) :
    P.out (execUndefinedHostCommand code addr s) := by
  unfold execUndefinedHostCommand
  with_reducible repeat' first
    | assumption
    | (extract_lets +onlyGivenNames z; refine st_cut (p := P.holds z) ?_ ?_; subst z; rotate_left; intro hz; clear_value z)
    | (extract_lets +onlyGivenNames z; refine st_cut (p := P.fst z) ?_ ?_; subst z; rotate_left; intro hz; clear_value z)
    | (extract_lets +onlyGivenNames z; subst z) | apply st_ite | apply st_iteOut | apply st_openHost | apply st_refuseHost | split
    | apply st_next

theorem st_execHostTransactionEnd (s : State) (hP : P.holds s) : P.out (execHostTransactionEnd s) := by
  unfold execHostTransactionEnd
  with_reducible repeat' first | assumption | (extract_lets +onlyGivenNames z; subst z) | apply st_next | apply Stable.mk_plain

theorem st_execEventWindowWrite (value : Word) (s : State) (hP : P.holds s) : P.out (execEventWindowWrite value s) := by
  unfold execEventWindowWrite
  with_reducible repeat' first | assumption | apply st_regWrite | apply st_next

theorem st_execMusicalWindowWrite (value : Word) (s : State) (hP : P.holds s) : P.out (execMusicalWindowWrite value s) := by
  unfold execMusicalWindowWrite
  with_reducible repeat' first | assumption | apply st_regWrite | apply st_next

theorem st_execTimerGo (mask : BitVec 16) (s : State) (hP : P.holds s) : P.out (execTimerGo mask s) := by
  unfold execTimerGo
  with_reducible repeat' first | assumption | apply st_regWrite | apply st_next

theorem st_execDacChannelWrite (k : Fin 16) (value : Word) (s : State) (hP : P.holds s) : P.out (execDacChannelWrite k value s) := by
  unfold execDacChannelWrite
  with_reducible repeat' first | assumption | apply st_regWrite | apply st_next

theorem st_execCvChannelWrite (k : Fin 8) (value : Word) (s : State) (hP : P.holds s) : P.out (execCvChannelWrite k value s) := by
  unfold execCvChannelWrite
  with_reducible repeat' first | assumption | apply st_regWrite | apply st_next

theorem st_execAdcRun (run : Bool) (s : State) (hP : P.holds s) : P.out (execAdcRun run s) := by
  unfold execAdcRun
  with_reducible repeat' first | assumption | apply st_regWrite | apply st_next

theorem st_execSyncCommand (s : State) (hP : P.holds s) : P.out (execSyncCommand s) := by
  unfold execSyncCommand
  with_reducible repeat' first | assumption | apply st_regWrite | apply st_next

theorem st_execAdcChannelWrite (n : Fin 16) (value : Word) (s : State) (hP : P.holds s) : P.out (execAdcChannelWrite n value s) := by
  unfold execAdcChannelWrite
  with_reducible repeat' first | assumption | apply st_regWrite | apply st_next

theorem st_execCustomCoefficientWrite (value : Word) (s : State) (hP : P.holds s) : P.out (execCustomCoefficientWrite value s) := by
  unfold execCustomCoefficientWrite
  with_reducible repeat' first | assumption | apply st_regWrite | apply st_next

theorem st_execCustomDelayWrite (value : Word) (s : State) (hP : P.holds s) : P.out (execCustomDelayWrite value s) := by
  unfold execCustomDelayWrite
  with_reducible repeat' first | assumption | apply st_regWrite | apply st_next

theorem st_execBaudWrite (p : Fin 8) (value : Word) (s : State) (hP : P.holds s) : P.out (execBaudWrite p value s) := by
  unfold execBaudWrite
  with_reducible repeat' first | assumption | apply st_regWrite | apply st_next

theorem st_execSerialControlWrite (p : Fin 8) (value : Word) (s : State) (hP : P.holds s) : P.out (execSerialControlWrite p value s) := by
  unfold execSerialControlWrite
  with_reducible repeat' first | assumption | apply st_regWrite | apply st_next

theorem st_execRxflush (p : Fin 8) (s : State) (hP : P.holds s) : P.out (execRxflush p s) := by
  unfold execRxflush
  with_reducible repeat' first | assumption | apply st_regWrite | apply st_next

theorem st_execTxflush (p : Fin 8) (s : State) (hP : P.holds s) : P.out (execTxflush p s) := by
  unfold execTxflush
  with_reducible repeat' first | assumption | apply st_regWrite | apply st_next

theorem st_execMute (p : Fin 8) (s : State) (hP : P.holds s) : P.out (execMute p s) := by
  unfold execMute
  with_reducible repeat' first | assumption | apply st_regWrite | apply st_next

theorem st_execTransmitData (p : Fin 8) (value : Word) (s : State) (hP : P.holds s) : P.out (execTransmitData p value s) := by
  unfold execTransmitData
  with_reducible repeat' first | assumption | apply st_regWrite | apply st_next

theorem st_execReceiveDataRead (p : Fin 8) (s : State) (hP : P.holds s) : P.out (execReceiveDataRead p s) := by
  unfold execReceiveDataRead
  with_reducible repeat' first | assumption | apply st_readOne | apply st_next

theorem st_execStore (kind : Byte) (len : BitVec 13) (s : State) (hP : P.holds s) : P.out (execStore kind len s) := by
  unfold execStore
  with_reducible repeat' first | assumption | apply st_regWrite | apply st_next

theorem st_execNewestRecordRead (kind : Byte) (s : State) (hP : P.holds s) : P.out (execNewestRecordRead kind s) := by
  unfold execNewestRecordRead
  with_reducible repeat' first | assumption | apply st_regWrite | apply st_next

theorem st_execFlashRead (s : State) (hP : P.holds s) : P.out (execFlashRead s) := by
  unfold execFlashRead
  with_reducible repeat' first | assumption | apply st_regWrite | apply st_next

theorem st_execFlashProgram (s : State) (hP : P.holds s) : P.out (execFlashProgram s) := by
  unfold execFlashProgram
  with_reducible repeat' first | assumption | apply st_regWrite | apply st_next

theorem st_execFlashErase (s : State) (hP : P.holds s) : P.out (execFlashErase s) := by
  unfold execFlashErase
  with_reducible repeat' first | assumption | apply st_regWrite | apply st_next

theorem st_execReload (value : Word) (s : State) (hP : P.holds s) : P.out (execReload value s) := by
  unfold execReload
  with_reducible repeat' first | assumption | apply st_regWrite | apply st_next

theorem st_powerWrite (s : State) (req : Nat) (hP : P.holds s) : P.holds (powerWrite s req) := by
  unfold powerWrite
  with_reducible repeat' first | assumption | apply st_regWrite

theorem st_execRun (s : State) (hP : P.holds s) : P.out (execRun s) := by
  unfold execRun
  with_reducible repeat' first | assumption | apply st_powerWrite | apply st_next

theorem st_execQuiet (s : State) (hP : P.holds s) : P.out (execQuiet s) := by
  unfold execQuiet
  with_reducible repeat' first | assumption | apply st_powerWrite | apply st_next

theorem st_execSleep (s : State) (hP : P.holds s) : P.out (execSleep s) := by
  unfold execSleep
  with_reducible repeat' first | assumption | apply st_powerWrite | apply st_next

theorem st_execOff (s : State) (hP : P.holds s) : P.out (execOff s) := by
  unfold execOff
  with_reducible repeat' first | assumption | apply st_powerWrite | apply st_next

theorem st_execSoftwareReset (s : State) (hP : P.holds s) : P.out (execSoftwareReset s) := by
  unfold execSoftwareReset
  with_reducible repeat' first | assumption | apply st_powerWrite | apply st_next

theorem st_execDomainEnable (value : Word) (s : State) (hP : P.holds s) : P.out (execDomainEnable value s) := by
  unfold execDomainEnable
  with_reducible repeat' first | assumption | apply st_regWrite | apply st_next

theorem st_execPadRelease (value : Word) (s : State) (hP : P.holds s) : P.out (execPadRelease value s) := by
  unfold execPadRelease
  with_reducible repeat' first | assumption | apply st_regWrite | apply st_next

theorem st_execVinminClear (s : State) (hP : P.holds s) : P.out (execVinminClear s) := by
  unfold execVinminClear
  with_reducible repeat' first | assumption | apply st_regWrite | apply st_next

theorem st_execClearKept (key : BitVec 16) (s : State) (hP : P.holds s) : P.out (execClearKept key s) := by
  unfold execClearKept
  with_reducible repeat' first | assumption | apply st_regWrite | apply st_next

theorem st_execClearCirculating (key : BitVec 16) (s : State) (hP : P.holds s) : P.out (execClearCirculating key s) := by
  unfold execClearCirculating
  with_reducible repeat' first | assumption | apply st_regWrite | apply st_next

theorem st_execClearBoth (key : BitVec 16) (s : State) (hP : P.holds s) : P.out (execClearBoth key s) := by
  unfold execClearBoth
  with_reducible repeat' first | assumption | apply st_regWrite | apply st_next

theorem st_execRateWrite (value : Word) (s : State) (hP : P.holds s) : P.out (execRateWrite value s) := by
  unfold execRateWrite
  with_reducible repeat' first | assumption | apply st_regWrite | apply st_next

theorem st_execOverrideWrite (n : Fin 16) (value : Word) (s : State) (hP : P.holds s) : P.out (execOverrideWrite n value s) := by
  unfold execOverrideWrite
  with_reducible repeat' first | assumption | apply st_regWrite | apply st_next

theorem st_execTraceRingResume (s : State) (hP : P.holds s) : P.out (execTraceRingResume s) := by
  unfold execTraceRingResume
  with_reducible repeat' first | assumption | apply st_regWrite | apply st_next

theorem st_execClrmax (s : State) (hP : P.holds s) : P.out (execClrmax s) := by
  unfold execClrmax
  with_reducible repeat' first | assumption | apply st_regWrite | apply st_next

theorem st_execFuseProgram (value : Word) (s : State) (hP : P.holds s) : P.out (execFuseProgram value s) := by
  unfold execFuseProgram
  with_reducible repeat' first | assumption | apply st_regWrite | apply st_next

theorem st_execMailboxRequest (value : Word) (s : State) (hP : P.holds s) : P.out (execMailboxRequest value s) := by
  unfold execMailboxRequest
  with_reducible repeat' first | assumption | apply st_regWrite | apply st_next

theorem st_execMailboxTimeout (s : State) (hP : P.holds s) : P.out (execMailboxTimeout s) := by
  unfold execMailboxTimeout
  with_reducible repeat' first | assumption | apply st_ite | apply st_mailboxDone | apply st_next

theorem st_serveMailbox (s : State) (isWrite : Bool) (a : Nat) (data : Word) (hP : P.holds s) :
    P.fst (serveMailbox s isWrite a data) := by
  unfold serveMailbox
  with_reducible repeat' first
    | assumption | (extract_lets +onlyGivenNames z; subst z) | apply st_iteFst | apply st_hostWrite | apply st_hostRead
    | (refine st_left P (by assumption) ?_) | split | apply st_pair | apply st_proj

theorem st_takeCtl (l : Nat) (hd : LinkHeader) (op err : BitVec 2) (offset data : Word) (s : State) (hP : P.holds s) :
    P.holds (takeCtl l hd op err offset data s) := by
  unfold takeCtl
  with_reducible repeat' first
    | assumption
    | (extract_lets +onlyGivenNames z; refine st_cut (p := P.holds z) ?_ ?_; subst z; rotate_left; intro hz; clear_value z)
    | (extract_lets +onlyGivenNames z; refine st_cut (p := P.fst z) ?_ ?_; subst z; rotate_left; intro hz; clear_value z)
    | (extract_lets +onlyGivenNames z; subst z) | apply st_ite | apply st_bufferDrained | apply st_forward | apply st_mailboxDone
    | apply st_wr | apply st_serveMailbox | (refine st_ofPair P (by assumption)) | (refine st_left P (by assumption) ?_) | split
    | apply st_iteFst | apply st_pair | apply st_proj

theorem st_execCtl (l : Arrival) (hd : LinkHeader) (op err : BitVec 2) (offset data : Word) (s : State) (hP : P.holds s) :
    P.out (execCtl l hd op err offset data s) := by
  unfold execCtl
  with_reducible repeat' first | assumption | apply st_onArrival | apply st_takeCtl | apply st_next

theorem st_execHalt (n : Fin 16) (atYield : Bool) (s : State) (hP : P.holds s) : P.out (execHalt n atYield s) := by
  unfold execHalt
  with_reducible repeat' first | assumption | apply st_regWrite | apply st_next

theorem st_execResume (n : Fin 16) (s : State) (hP : P.holds s) : P.out (execResume n s) := by
  unfold execResume
  with_reducible repeat' first | assumption | apply st_regWrite | apply st_next

theorem st_execStep (n : Fin 16) (s : State) (hP : P.holds s) : P.out (execStep n s) := by
  unfold execStep
  with_reducible repeat' first | assumption | apply st_regWrite | apply st_next

theorem st_execBreakpointHit (n : Fin 16) (s : State) (hP : P.holds s) : P.out (execBreakpointHit n s) := by
  unfold execBreakpointHit
  with_reducible repeat' first | assumption | apply st_iteOut | apply st_haltVerb | apply st_next | split

theorem st_execVerbRegisterAccess (n : Fin 16) (value : Option Word) (s : State) (hP : P.holds s) :
    P.out (execVerbRegisterAccess n value s) := by
  unfold execVerbRegisterAccess
  with_reducible repeat' first
    | assumption | (extract_lets +onlyGivenNames z; subst z) | apply st_regWrite | apply st_readOne | apply st_next | split

theorem st_tapRun (s : State) (ir : TapIr) (hP : P.holds s) : P.holds (tapRun s ir) := by
  unfold tapRun
  with_reducible repeat' first
    | assumption | (extract_lets +onlyGivenNames z; refine st_cut (p := P.holds z) ?_ ?_; subst z; rotate_left; intro hz; clear_value z)
    | (extract_lets +onlyGivenNames z; subst z) | apply st_ite | apply st_deviceReset | apply Stable.mk_plain

theorem st_tapHold (s : State) (ir : TapIr) (hP : P.holds s) : P.holds (tapHold s ir) := by
  unfold tapHold
  with_reducible repeat' first
    | assumption | (extract_lets +onlyGivenNames z; refine st_cut (p := P.holds z) ?_ ?_; subst z; rotate_left; intro hz; clear_value z)
    | (extract_lets +onlyGivenNames z; subst z) | apply st_deviceReset | apply Stable.mk_plain

theorem st_selectIdcode (s : State) (hP : P.holds s) : P.holds (selectIdcode s) := by
  unfold selectIdcode
  with_reducible repeat' first
    | assumption | (extract_lets +onlyGivenNames z; refine st_cut (p := P.holds z) ?_ ?_; subst z; rotate_left; intro hz; clear_value z)
    | (extract_lets +onlyGivenNames z; subst z) | apply st_tapRun | apply Stable.mk_plain

theorem st_execTestLogicReset (s : State) (hP : P.holds s) : P.out (execTestLogicReset s) := by
  unfold execTestLogicReset
  with_reducible repeat' first | assumption | apply st_selectIdcode | apply st_next

theorem st_execExtest (s : State) (hP : P.holds s) : P.out (execExtest s) := by
  unfold execExtest
  with_reducible repeat' first | assumption | apply st_tapHold | apply st_next

theorem st_execSamplePreload (pins preload : List Bool) (s : State) (hP : P.holds s) : P.out (execSamplePreload pins preload s) := by
  unfold execSamplePreload
  with_reducible repeat' first
    | assumption | (extract_lets +onlyGivenNames z; refine st_cut (p := P.holds z) ?_ ?_; subst z; rotate_left; intro hz; clear_value z)
    | (extract_lets +onlyGivenNames z; subst z) | apply st_tapRun | apply st_next | apply Stable.mk_plain

theorem st_execIdcode (s : State) (hP : P.holds s) : P.out (execIdcode s) := by
  unfold execIdcode
  with_reducible repeat' first | assumption | apply st_selectIdcode | apply st_next

theorem st_execClamp (s : State) (hP : P.holds s) : P.out (execClamp s) := by
  unfold execClamp
  with_reducible repeat' first | assumption | apply st_tapHold | apply st_next

theorem st_execHighz (s : State) (hP : P.holds s) : P.out (execHighz s) := by
  unfold execHighz
  with_reducible repeat' first | assumption | apply st_tapHold | apply st_next

theorem st_execDbgacc (s : State) (hP : P.holds s) : P.out (execDbgacc s) := by
  unfold execDbgacc
  with_reducible repeat' first
    | assumption | (extract_lets +onlyGivenNames z; refine st_cut (p := P.holds z) ?_ ?_; subst z; rotate_left; intro hz; clear_value z)
    | (extract_lets +onlyGivenNames z; subst z) | apply st_ite | apply st_tapRun | apply st_next | apply Stable.mk_plain

theorem st_execBypass (s : State) (hP : P.holds s) : P.out (execBypass s) := by
  unfold execBypass
  with_reducible repeat' first | assumption | apply st_tapRun | apply st_next

theorem st_execDebugRead (address : Word) (s : State) (hP : P.holds s) : P.out (execDebugRead address s) := by
  unfold execDebugRead
  with_reducible repeat' first
    | assumption | (extract_lets +onlyGivenNames z; subst z) | apply st_iteOut | apply st_readWord32 | apply st_next | apply st_proj
    | apply Stable.mk_plain

theorem st_execDebugWrite (address value : Word) (s : State) (hP : P.holds s) : P.out (execDebugWrite address value s) := by
  unfold execDebugWrite
  with_reducible repeat' first
    | assumption | (extract_lets +onlyGivenNames z; subst z) | apply st_iteOut | apply st_hostWrite | apply st_next | apply st_proj
    | apply Stable.mk_plain

theorem st_cycleTail (s : State) (hP : P.holds s) : P.holds (cycleTail s) := by
  unfold cycleTail
  with_reducible repeat' first
    | assumption
    | (extract_lets +onlyGivenNames z; refine st_cut (p := P.holds z) ?_ ?_; subst z; rotate_left; intro hz; clear_value z)
    | (extract_lets +onlyGivenNames z; refine st_cut (p := P.fst z) ?_ ?_; subst z; rotate_left; intro hz; clear_value z)
    | (extract_lets +onlyGivenNames z; subst z) | apply st_ite | apply st_serialTick | apply st_linksTick | apply st_drainMixOne
    | apply st_drainStaged | apply st_storeNext | apply st_brownoutMute | apply st_startWake | apply st_continueReload
    | refine st_foldl P _ ?_ _ _ ?_ | refine st_foldlFst P _ ?_ _ _ ?_ | intro t x ht | split

theorem st_tickAll (s : State) (hP : P.holds s) : P.holds (tickAll s) := by
  unfold tickAll
  with_reducible repeat' first
    | assumption | apply st_ite | apply st_cycleTail | apply st_applyClockDue | apply st_timeTick | apply st_sampleStep | split

end Sys2Proof.Laws
end

