-- ==== Sys2Proof/Laws/Step.lean ====
section
/-! SUPPORT. Every command and every step keeps a Stable predicate, and its instances: the canonical forms, the queue, the array
lengths, the fuses that are blown. -/

namespace Sys2Proof.Laws
open Sys2Proof.Machine
variable (P : Stable)

/-- Every command keeps a Stable predicate. -/
theorem st_exec (c : Instr) (s : State) (hP : P.holds s) : P.out (exec c s) := by
  cases c with
  | registerWrite addr value => exact st_execRegisterWrite P addr value s hP
  | write addr words rest => exact st_execWrite P addr words rest s hP
  | writeFixed addr words rest => exact st_execWriteFixed P addr words rest s hP
  | read addr count => exact st_execRead P addr count s hP
  | readFixed addr count => exact st_execReadFixed P addr count s hP
  | status count => exact st_execStatus P count s hP
  | undefinedHostCommand code addr => exact st_execUndefinedHostCommand P code addr s hP
  | hostTransactionEnd => exact st_execHostTransactionEnd P s hP
  | countReadLatch reg => exact st_execCountReadLatch P reg s hP
  | wclkLock => exact st_execWclkLock P s hP
  | wclkLost => exact st_execWclkLost P s hP
  | wclkResumed => exact st_execWclkResumed P s hP
  | crystalFail => exact st_execCrystalFail P s hP
  | crystalStartTimeout wclk => exact st_execCrystalStartTimeout P wclk s hP
  | aoClockSwitch => exact st_execAoClockSwitch P s hP
  | syncBallEdge delay => exact st_execSyncBallEdge P delay s hP
  | syncCommand => exact st_execSyncCommand P s hP
  | frameBoundary => exact st_execFrameBoundary P s hP
  | eventTake => exact st_execEventTake P s hP
  | tempoSourceLoss => exact st_execTempoSourceLoss P s hP
  | wordFrameDispatch v => exact st_execWordFrameDispatch P v s hP
  | preemption v elapsed => exact st_execPreemption P v elapsed s hP
  | migrationCheck elapsed => exact st_execMigrationCheck P elapsed s hP
  | phraseMigrate pos => exact st_execPhraseMigrate P pos s hP
  | stateCopyDone pos => exact st_execStateCopyDone P pos s hP
  | sendBarrier => exact st_execSendBarrier P s hP
  | par v a b x y => exact st_execPar P v a b x y s hP
  | imm v dst value => exact st_execImm P v dst value s hP
  | alui v a value => exact st_execAlui P v a value s hP
  | regmove v dst src x y => exact st_execRegmove P v dst src x y s hP
  | ctrlNone v => exact st_execCtrlNone P v s hP
  | jmp v cond target => exact st_execJmp P v cond target s hP
  | call v cond target => exact st_execCall P v cond target s hP
  | ret v => exact st_execRet P v s hP
  | rep v counter count last => exact st_execRep P v counter count last s hP
  | repd v counter dreg last => exact st_execRepd P v counter dreg last s hP
  | yield v => exact st_execYield P v s hP
  | exp2f v dst src x y => exact st_execExp2f P v dst src x y s hP
  | log2f v dst src x y => exact st_execLog2f P v dst src x y s hP
  | pinc v dst src x y => exact st_execPinc P v dst src x y s hP
  | explogResult v => exact st_execExplogResult P v s hP
  | tip v posPair cfg x y => exact st_execTip P v posPair cfg x y s hP
  | tableResult v => exact st_execTableResult P v s hP
  | tget v dst x y => exact st_execTget P v dst x y s hP
  | sharedLoadResult v => exact st_execSharedLoadResult P v s hP
  | mixadd v val busIdx x y => exact st_execMixadd P v val busIdx x y s hP
  | mixadd2 v valPair busIdx x y => exact st_execMixadd2 P v valPair busIdx x y s hP
  | evpost v src x y => exact st_execEvpost P v src x y s hP
  | costExceeded v => exact st_execCostExceeded P v s hP
  | watchdogFault v => exact st_execWatchdogFault P v s hP
  | storeDeliver => exact st_execStoreDeliver P s hP
  | eventDeliver => exact st_execEventDeliver P s hP
  | eventAccept => exact st_execEventAccept P s hP
  | fenceTimeout g => exact st_execFenceTimeout P g s hP
  | midiByteParse src => exact st_execMidiByteParse P src s hP
  | umpWord src => exact st_execUmpWord P src s hP
  | nativePacketCharacter src => exact st_execNativePacketCharacter P src s hP
  | eventWindowWrite value => exact st_execEventWindowWrite P value s hP
  | timerGo mask => exact st_execTimerGo P mask s hP
  | compareMatch n => exact st_execCompareMatch P n s hP
  | periodEnd n => exact st_execPeriodEnd P n s hP
  | timerWrap n => exact st_execTimerWrap P n s hP
  | timerCapture n falling => exact st_execTimerCapture P n falling s hP
  | musicalWindowWrite value => exact st_execMusicalWindowWrite P value s hP
  | dacChannelWrite k value => exact st_execDacChannelWrite P k value s hP
  | parkSwitchClose k => exact st_execParkSwitchClose P k s hP
  | monitorWindow m => exact st_execMonitorWindow P m s hP
  | cvChannelWrite k value => exact st_execCvChannelWrite P k value s hP
  | cvParkSwitchClose k => exact st_execCvParkSwitchClose P k s hP
  | cvSwitchOpen k => exact st_execCvSwitchOpen P k s hP
  | cvRailLoss vcvp vcvn => exact st_execCvRailLoss P vcvp vcvn s hP
  | cvRailGood => exact st_execCvRailGood P s hP
  | adcRun run => exact st_execAdcRun P run s hP
  | adcChannelWrite n value => exact st_execAdcChannelWrite P n value s hP
  | customCoefficientWrite value => exact st_execCustomCoefficientWrite P value s hP
  | customDelayWrite value => exact st_execCustomDelayWrite P value s hP
  | settleDone n tap => exact st_execSettleDone P n tap s hP
  | modulatorOverload n resets => exact st_execModulatorOverload P n resets s hP
  | thresholdCrossing x tap => exact st_execThresholdCrossing P x tap s hP
  | thresholdEvent x tap => exact st_execThresholdEvent P x tap s hP
  | holdoffEnd x => exact st_execHoldoffEnd P x s hP
  | startEdge p quarter => exact st_execStartEdge P p quarter s hP
  | characterReceived p line => exact st_execCharacterReceived P p line s hP
  | characterTransmit p echo => exact st_execCharacterTransmit P p echo s hP
  | collisionRetry p echo => exact st_execCollisionRetry P p echo s hP
  | baudWrite p value => exact st_execBaudWrite P p value s hP
  | baudApply p transmit => exact st_execBaudApply P p transmit s hP
  | serialControlWrite p value => exact st_execSerialControlWrite P p value s hP
  | rxflush p => exact st_execRxflush P p s hP
  | txflush p => exact st_execTxflush P p s hP
  | mute p => exact st_execMute P p s hP
  | transmitData p value => exact st_execTransmitData P p value s hP
  | receiveDataRead p => exact st_execReceiveDataRead P p s hP
  | roleDecision => exact st_execRoleDecision P s hP
  | hello l h arrival => exact st_execHello P l h arrival s hP
  | linkTrainingTimeout l => exact st_execLinkTrainingTimeout P l s hP
  | addr l address position depth tiers => exact st_execAddr P l address position depth tiers s hP
  | ctl l hd op err offset data => exact st_execCtl P l hd op err offset data s hP
  | evt l hd events => exact st_execEvt P l hd events s hP
  | wev l frame entries => exact st_execWev P l frame entries s hP
  | frm l payload => exact st_execFrm P l payload s hP
  | upb l block crcOk => exact st_execUpb P l block crcOk s hP
  | upbExport => exact st_execUpbExport P s hP
  | upbSopTimeout l => exact st_execUpbSopTimeout P l s hP
  | syncPacket l elapsed new arrival => exact st_execSyncPacket P l elapsed new arrival s hP
  | periodicSync => exact st_execPeriodicSync P s hP
  | bootPacket l offset bytes => exact st_execBootPacket P l offset bytes s hP
  | trc l words scheduling => exact st_execTrc P l words scheduling s hP
  | stat l kind address => exact st_execStat P l kind address s hP
  | cred l cls count => exact st_execCred P l cls count s hP
  | ack l seq => exact st_execAck P l seq s hP
  | nak l seq => exact st_execNak P l seq s hP
  | replayTimeout l => exact st_execReplayTimeout P l s hP
  | linkDown l => exact st_execLinkDown P l s hP
  | deviceRemoval => exact st_execDeviceRemoval P s hP
  | workerJoin address => exact st_execWorkerJoin P address s hP
  | lateMarkClear address => exact st_execLateMarkClear P address s hP
  | mailboxRequest value => exact st_execMailboxRequest P value s hP
  | mailboxTimeout => exact st_execMailboxTimeout P s hP
  | portFrameIn p slots lastBit => exact st_execPortFrameIn P p slots lastBit s hP
  | portFrameOut p begins => exact st_execPortFrameOut P p begins s hP
  | daiNoClock p => exact st_execDaiNoClock P p s hP
  | scrubWriteback => exact st_execScrubWriteback P s hP
  | backgroundRowTest rowFails spareFails => exact st_execBackgroundRowTest P rowFails spareFails s hP
  | powerOnReset vin => exact st_execPowerOnReset P vin s hP
  | brownoutReset vin => exact st_execBrownoutReset P vin s hP
  | pinReset => exact st_execPinReset P s hP
  | softwareReset => exact st_execSoftwareReset P s hP
  | bootSequence selfTestFails crystal44 => exact st_execBootSequence P selfTestFails crystal44 s hP
  | bootTimeout step crystal44 => exact st_execBootTimeout P step crystal44 s hP
  | store kind len => exact st_execStore P kind len s hP
  | newestRecordRead kind => exact st_execNewestRecordRead P kind s hP
  | storeCommit => exact st_execStoreCommit P s hP
  | storeOnHoldup vhold reachesVmin => exact st_execStoreOnHoldup P vhold reachesVmin s hP
  | streamFetch => exact st_execStreamFetch P s hP
  | reload value => exact st_execReload P value s hP
  | flashRead => exact st_execFlashRead P s hP
  | flashProgram => exact st_execFlashProgram P s hP
  | flashErase => exact st_execFlashErase P s hP
  | flashOperationDone => exact st_execFlashOperationDone P s hP
  | run => exact st_execRun P s hP
  | quiet => exact st_execQuiet P s hP
  | sleep => exact st_execSleep P s hP
  | off => exact st_execOff P s hP
  | entryComplete => exact st_execEntryComplete P s hP
  | domainEnable value => exact st_execDomainEnable P value s hP
  | verbProgramLoad verbB => exact st_execVerbProgramLoad P verbB s hP
  | padRelease value => exact st_execPadRelease P value s hP
  | brownoutWarning vin => exact st_execBrownoutWarning P vin s hP
  | warningRecovery vin => exact st_execWarningRecovery P vin s hP
  | brownoutMute => exact st_execBrownoutMute P s hP
  | vholdShort millivolts => exact st_execVholdShort P millivolts s hP
  | vinminClear => exact st_execVinminClear P s hP
  | wakeEvent sources selfTestFails => exact st_execWakeEvent P sources selfTestFails s hP
  | wakeStepTimeout step => exact st_execWakeStepTimeout P step s hP
  | glossEntryStore => exact st_execGlossEntryStore P s hP
  | clearKept key => exact st_execClearKept P key s hP
  | clearCirculating key => exact st_execClearCirculating P key s hP
  | clearBoth key => exact st_execClearBoth P key s hP
  | glossFreeze => exact st_execGlossFreeze P s hP
  | glossResume => exact st_execGlossResume P s hP
  | rateWrite value => exact st_execRateWrite P value s hP
  | overrideWrite n value => exact st_execOverrideWrite P n value s hP
  | traceRingResume => exact st_execTraceRingResume P s hP
  | clrmax => exact st_execClrmax P s hP
  | testLogicReset => exact st_execTestLogicReset P s hP
  | extest => exact st_execExtest P s hP
  | samplePreload pins preload => exact st_execSamplePreload P pins preload s hP
  | idcode => exact st_execIdcode P s hP
  | clamp => exact st_execClamp P s hP
  | highz => exact st_execHighz P s hP
  | dbgacc => exact st_execDbgacc P s hP
  | bypass => exact st_execBypass P s hP
  | debugRead address => exact st_execDebugRead P address s hP
  | debugWrite address value => exact st_execDebugWrite P address value s hP
  | halt n atYield => exact st_execHalt P n atYield s hP
  | resume n => exact st_execResume P n s hP
  | step n => exact st_execStep P n s hP
  | breakpointHit n => exact st_execBreakpointHit P n s hP
  | verbRegisterAccess n value => exact st_execVerbRegisterAccess P n value s hP
  | fuseProgram value => exact st_execFuseProgram P value s hP
  | fuseVerify blown parity => exact st_execFuseVerify P blown parity s hP
  | commaAlignment l => exact st_execCommaAlignment P l s hP
  | helloInterval l => exact st_execHelloInterval P l s hP
  | muteRampEnd k => exact st_execMuteRampEnd P k s hP
  | cvRampEnd k => exact st_execCvRampEnd P k s hP

/-- Every step keeps a Stable predicate that holds of the state with the rest of its queue. -/
theorem st_step (s : State) (hP : P.holds { s with pending := s.pending.drop 1 }) : P.out (step s) := by
  unfold step
  split
  · rename_i h
    exact st_next P _ (st_tickAll P _ (P.plain _ s hP rfl rfl rfl (by simp [h]) (sameShape_rfl _)))
  · rename_i c rest h
    rw [h] at hP
    exact st_exec P c _ hP

/-! ### Instances -/

/-- The registers and the memory are in canonical form. -/
def canonical : Stable where
  holds s := regsWf s.regs = true ∧ Memory.wf s.mem = true
  plain _ _ h hr hm _ _ _ := by rw [hr, hm]; exact h
  wr _ _ _ h := ⟨regsWf_mapSet _ _ _ h.1, h.2⟩
  dropRegs _ p h := ⟨regsWf_filter _ p h.1, h.2⟩
  putByte _ _ _ h := ⟨h.1, memoryWf_mapSet _ _ _ h.2⟩
  dropMem _ p h := ⟨h.1, memoryWf_filter _ p h.2⟩
  blow _ _ _ _ h := h

/-- The queue is a given one. -/
def queueIs (q : List Instr) : Stable where
  holds s := s.pending = q
  plain _ _ h _ _ _ hp _ := hp.trans h
  wr _ _ _ h := h
  dropRegs _ _ h := h
  putByte _ _ _ h := h
  dropMem _ _ h := h
  blow _ _ _ _ h := h

/-- Every fixed array has its length. -/
def shaped : Stable where
  holds s := Shaped s
  plain _ _ h _ _ hb _ hs := by
    obtain ⟨i1, i2, i3, i4, i5, ⟨i6, i7, i8, i9, i10, ⟨i11, i12, i13, i14⟩⟩⟩ := hs
    obtain ⟨h1, h2, h3, h4, h5, ⟨h6, h7, h8, h9, h10, ⟨h11, h12, h13, h14, h15⟩⟩⟩ := h
    exact ⟨i1 h1, i2 h2, i3 h3, i4 h4, i5 h5, ⟨i6 h6, i7 h7, i8 h8, i9 h9, i10 h10,
      ⟨i11 h11, i12 h12, i13 h13, i14 h14, hb ▸ h15⟩⟩⟩
  wr _ _ _ h := h
  dropRegs _ _ h := h
  putByte _ _ _ h := h
  dropMem _ _ h := h
  blow s w x y h := by simpa [Shaped] using h

/-- Every fuse blown in r is blown. -/
def keepsFuses (r : State) : Stable where
  holds s := KeepsFuses r s
  plain s t h _ _ hb _ _ := by
    intro w b hw
    have := h w b hw
    unfold fuseBlown at this ⊢
    rw [hb]
    exact this
  wr _ _ _ h := h
  dropRegs _ _ h := h
  putByte _ _ _ h := h
  dropMem _ _ h := h
  blow s w x y h := by
    intro v b hv
    have := h v b hv
    unfold fuseBlown nth at this ⊢
    by_cases hwv : w = v
    · subst hwv
      by_cases hl : w < s.fuse.blown.length
      · simp only [List.getD_eq_getElem?_getD, List.getElem?_set_self hl, Option.getD_some] at this ⊢
        split <;> rename_i hb <;> simp_all
      · simp only [List.set_eq_of_length_le (Nat.le_of_not_lt hl)]
        exact this
    · simp only [List.getD_eq_getElem?_getD, List.getElem?_set_ne hwv] at this ⊢
      exact this

end Sys2Proof.Laws
end

