-- ==== Sys2Proof/Tests/Slice0.lean ====
section
/-! SUPPORT. The tests: for each statement with hypotheses a state and operands that meet them, clause by clause (witness_<name>); an
ill-formed command for each check of well-formedness; a few single steps with the values the spec states. -/

namespace Sys2Proof.Tests
open Sys2Proof.Machine

/-! ### The states the tests start from -/

/-- The device after boot, in RUN, with rendering stopped and these registers written. -/
def up (l : List (Nat × Word)) : State :=
  l.foldl (fun s p => wr s p.1 p.2) { State.reset with boot := { ready := true, complete := true, interruptMode := true, cleared := true } }

/-- The same, rendering frame 1 with its steps done. -/
def live (l : List (Nat × Word)) : State :=
  { up l with time := { rendering := true, epochSet := true, frame := 1, step1 := 1, step2 := 1 } }

/-- A Word-frame of COST 100 that may store to all local data memory. -/
def wf0 : WordFrame :=
  { frame := 0, pos := 0, widx := 0, cost := 100, windows := [(0x10000, 0x30000)], isPre := false, reason := 0, resumed := false, start := 0,
    stores := [], events := [], dropped := 0, overReported := false, scratch := [] }

/-- A bank that runs it, and the same with P0 at a word of a Phrase's X part. -/
def bank0 : VerbBank := { wf := some wf0 }
def bankX : VerbBank := { bank0 with p := [0x14000, 0, 0, 0, 0, 0, 0, 0] }

/-- Verb 0 runs a bank. -/
def onVerb (l : List (Nat × Word)) (b : VerbBank) : State :=
  { up l with verbs := (List.replicate 16 {}).set 0 { bankA := b, running := true, active := true } }

/-- No move, and no arithmetic. -/
def no : MoveField := ⟨false, 0, 0, 0, 0, false⟩
def nop : ArithField := ⟨0, 0, 0, 0⟩

/-- A Syntax of one Word, and a Phrase of it on Verb 0, armed for frame 1. -/
def sw0 : SynWord := { typ := 0x0101, xoff := 0x30, yoff := 0, pbase := 0, npar := 0, nin := 0, nout := 0, cost := 50 }
def syn0 : Syntax :=
  { sid := 1, isGlobal := false, cost := 50, xsize := 0x140, ysize := 0x40, ends := [0], words := [sw0], edges := [], params := [],
    slots := [], nslots := 0 }
def work0 : Work :=
  { frame := 1, pos := 0, next := 0, first := true, hdr := List.replicate 48 0, evs := [], written := false, done := [], carry := false,
    aborted := [] }
def phr0 : Phrase :=
  { pos := 0, sid := 1, isGlobal := false, state := 1, first := true, part := 0, pool := 0, key := 60, noteId := 0, vel := 100, relVel := 0,
    offVel := 0, uni := 0, layer := 0, aseq := 0, start := 0, gateOff := 0, age := 0, lane := 0, home := some 0, xbase := 0x14000,
    ybase := 0x80, level := 0, fadeRem := 0, latched := false, diverged := false, created := 0, touched := 0, ends := none, evs := [],
    deferred := [], works := [work0], move := none, moved := false, farea := none, dev := none, rsl := none, rend := false, rlost := false }

/-- A header to worker 5, a HELLO of a manager, a store area with one kind. -/
def hd0 : LinkHeader := ⟨5, false, false, 0, true⟩
def hello0 : HelloPayload :=
  { id := 0, mgr := true, flash := false, lboot := false, verbs := 16, depth := 0, fs := 0, hash := 0, tsend := 0, techo := 0, thold := 0 }
def desc0 : StoreDesc := { base := 0x100000, hcap := 1000, vmin := 5000, epage := 1, ecommit := 1, kinds := [(15, 1)] }

/-- A streamed wave of one block. -/
def wave0 : Wave :=
  { kind := 0, streamed := true, wide := false, levels := 1, frames := 0, length := 2048, rate := 0, root := 0, lexAddr := 0, dataOff := 0,
    head := 0 }

/-! ### How a check on numerals gives a hypothesis -/

theorem may {s : State} {a : Nat} (h : tapHolds s = false ∧ domainOn s (pageDomain a) = true ∧ asleep s = false) : HostMayWrite s a :=
  ⟨h.1, h.2.1, h.2.2⟩

def cleanB (s : State) (a : Nat) : Bool :=
  (match regionOf a with
    | .lexicon => true | .shared => true | .verb _ => true
    | _ => false) && memoryOpen s a && (mapGet s.ecc (a / 8 * 8)).isNone

theorem clean {s : State} {a : Nat} (h : cleanB s a = true) : CleanWord s a := by
  simp only [cleanB, Bool.and_eq_true, Option.isNone_iff_eq_none] at h
  refine ⟨?_, h.1.2, h.2⟩
  cases e : regionOf a <;> simp [e] at h ⊢

/-- What Comes asks, as one check. -/
abbrev comesB (s : State) (v : Fin 16) (w : WordFrame) (i : VInstr) : Prop :=
  (s.verbs.length = 16 ∧ (verbOf s v).running = true ∧ (verbOf s v).halted = false ∧ matchingBp s v = none) ∧
    ((bankOfVerb s v).wf = some w ∧ readyAt (bankOfVerb s v) i.reads (bankOfVerb s v).cycles ≤ w.cost) ∧
    (∀ u ∈ (bankOfVerb s v).units, ∀ k, k < u.vals.length → u.dst + k ∉ i.reads.map (·.1) ++ i.writes) ∧
    ((∀ l ∈ (bankOfVerb s v).loads, ∀ r ∈ l.res, r ∉ i.reads.map (·.1) ++ i.writes) ∧ (bankOfVerb s v).loads.length ≤ 6) ∧
    (mixEntries (bankOfVerb s v) i ≠ 0 → (verbOf s v).mixq.length + mixEntries (bankOfVerb s v) i ≤ 32) ∧ StepsDone s

theorem comes {s : State} {v : Fin 16} {w : WordFrame} {i : VInstr} (h : comesB s v w i) : Comes s v w i := by
  obtain ⟨⟨h1, h2, h3, h4⟩, ⟨h5, h6⟩, h7, ⟨h8, h9⟩, h10, h11⟩ := h
  constructor <;> assumption

theorem issues {s : State} {v : Fin 16} {w : WordFrame} {i : VInstr}
    (h : comesB s v w i ∧ instrFault s v (bankOfVerb s v) w i = none ∧
      (∀ r ∈ i.reads, r.1 ∉ (bankOfVerb s v).poison) ∧ (poisonedPacket s v w (bankOfVerb s v) i).isNone = true) : Issues s v w i :=
  ⟨comes h.1, h.2.1, h.2.2.1, by simpa using h.2.2.2⟩

theorem quiet {s : State} (h : (s.phrases = [] ∧ s.ended = []) ∧ (s.parser.trace = [] ∧ s.parser.staged = []) ∧
    flag s R.parserTrctl 0 = false) : QuietFlows s := ⟨h.1.1, h.1.2, h.2.1.1, h.2.1.2, h.2.2⟩

theorem sound {s : State} {a : Arrival} (h : s.sys.single = false ∧ 2 ≤ linkState s a.link ∧ a.crcOk = true) : Sound s a :=
  ⟨h.1, h.2.1, h.2.2⟩

theorem inOrder {s : State} {a : Arrival}
    (h : (s.sys.single = false ∧ 2 ≤ linkState s a.link ∧ a.crcOk = true) ∧ a.seq.toNat = (linkOf s a.link).expect) : InOrder s a :=
  ⟨sound h.1, h.2⟩

/-- What Still asks, as one check. -/
abbrev stillB (s : State) (y : Nat) : Prop := evaluates s y = false ∧ (watching s y = true → (detOf s y).windows = [])

theorem beyondVerbs {s : State} {n : Nat} (h : s.verbs.length ≤ n) : verbOf s n = {} := by
  simp [verbOf, nth, List.getElem?_eq_none h]

theorem awakeVerbs {s : State} (h : s.verbs.all (fun x => !x.halted) = true) (n : Nat) : (verbOf s n).halted = false := by
  rcases Nat.lt_or_ge n s.verbs.length with hn | hn
  · have := List.all_eq_true.mp h (s.verbs[n]) (List.getElem_mem hn)
    simpa [verbOf, nth, hn] using this
  · rw [beyondVerbs hn]

theorem bothOf {P : Nat → Prop} {n : Nat} (h : P (2 * n) ∧ P (2 * n + 1)) (y : Nat) (hy : y / 2 = n) : P y := by
  rcases (by omega : y = 2 * n ∨ y = 2 * n + 1) with e | e
  · exact e ▸ h.1
  · exact e ▸ h.2

theorem still {s : State} {n : Nat} (h : stillB s (2 * n) ∧ stillB s (2 * n + 1)) (y : Nat) (hy : y / 2 = n) : Still s y :=
  bothOf (P := Still s) h y hy

theorem stillBut {s : State} {n x : Nat} (h : (2 * n ≠ x → stillB s (2 * n)) ∧ (2 * n + 1 ≠ x → stillB s (2 * n + 1))) (y : Nat)
    (hy : y / 2 = n) (hx : y ≠ x) : Still s y :=
  bothOf (P := fun y => y ≠ x → Still s y) h y hy hx

theorem upTo {P : Nat → Prop} {k : Nat} (h : ∀ i, i < k + 1 → 1 ≤ i → P i) (i : Nat) (h1 : 1 ≤ i) (hk : i ≤ k) : P i :=
  h i (by omega) h1

theorem restVerbs {s : State} {v : Nat} {P : VerbSt → Prop} (h0 : P {}) (h : ∀ u, u < 16 → u ≠ v → P (verbOf s u))
    (hl : s.verbs.length = 16) (u : Nat) (hu : u ≠ v) : P (verbOf s u) := by
  rcases Nat.lt_or_ge u 16 with hn | hn
  · exact h u hn hu
  · rw [beyondVerbs (by omega)]; exact h0

theorem witness_HostReadsMemory :
    (∃ (s : State) (addr : Word) (count : Nat), (∀ i, i < count → CleanWord s (wordAddr addr i) ∧ inDiscard (wordAddr addr i) = false) ∧
      hostReady s = true ∧ hostIgnores s = false ∧ addr.toNat % 4 = 0) ∧
    (∃ (s : State) (addr : Word) (count : Nat), CleanWord s addr.toNat ∧ hostReady s = true ∧ hostIgnores s = false ∧ addr.toNat % 4 = 0
      ∧ inDiscard addr.toNat = false) ∧
    (∃ (s : State) (addr : Word), CleanWord s addr.toNat ∧ hostReady s = true ∧ hostIgnores s = false ∧ addr.toNat % 4 = 0 ∧ inDiscard
      addr.toNat = true) ∧
    (∃ (s : State) (addr : Word) (count : Nat), hostReady s = true ∧ hostIgnores s = false ∧ addr.toNat % 4 = 0 ∧ addr.toNat + 4 * count
      ≤ 2 ^ 32 ∧ (∀ i, i < count → regionOf (addr.toNat + 4 * i) = .page ∧ domainOn s (pageDomain (addr.toNat + 4 * i)) = true ∧ rxdPort
      (addr.toNat + 4 * i) = none ∧ latchedBy (addr.toNat + 4 * i) = none ∧ vrdataVerb (addr.toNat + 4 * i) = none)) :=
  ⟨
   ⟨up [], 0x013FFFFC, 2, fun i h => ⟨clean (by revert i; decide), by revert i; decide⟩, by decide⟩,
   ⟨up [], 0x015FFFFC, 1, clean (by decide), by decide⟩,
   ⟨up [], 0x01028040, clean (by decide), by decide⟩,
   ⟨up [], 0x40000000, 2, by decide⟩⟩

theorem witness_HostWritesMemory :
    (∃ (s : State) (addr : Word) (words : List Word) (rest : BitVec 5), (∀ i, i < words.length → CleanWord s (addr.toNat + 4 * i) ∧
      readsZero s (addr.toNat + 4 * i) = false ∧ ∀ n, regionOf (addr.toNat + 4 * i) = .verb n → (verbOf s n).halted = false) ∧ hostReady
      s = true ∧ hostIgnores s = false ∧ asleep s = false ∧ s.time.rendering = false ∧ addr.toNat % 4 = 0 ∧ addr.toNat + 4 *
      words.length ≤ 0x01600000) ∧
    (∃ (s : State) (addr : Word) (words : List Word) (rest : BitVec 5), CleanWord s addr.toNat ∧ (∀ n, regionOf addr.toNat = .verb n →
      (verbOf s n).halted = false) ∧ hostReady s = true ∧ hostIgnores s = false ∧ asleep s = false ∧ s.time.rendering = false ∧
      addr.toNat % 4 = 0 ∧ words ≠ [] ∧ readsZero s addr.toNat = false) ∧
    (∃ (s : State) (addr : Word) (words : List Word) (rest : BitVec 5), (∀ i, i < words.length → memoryOpen s (addr.toNat + 4 * i) =
      true ∧ readsZero s (addr.toNat + 4 * i) = true ∧ ∀ n, regionOf (addr.toNat + 4 * i) = .verb n → (verbOf s n).halted = false) ∧
      hostReady s = true ∧ hostIgnores s = false ∧ asleep s = false ∧ s.time.rendering = false ∧ addr.toNat % 4 = 0 ∧ addr.toNat + 4 *
      words.length ≤ 0x01600000) :=
  ⟨
   ⟨up [], 0x013FFFFC, [1, 2], 31, fun i h => ⟨clean (by revert i; decide), by revert i; decide, fun n _ => awakeVerbs (by decide) n⟩,
     by decide⟩,
   ⟨up [], 0x00FFFFFC, [7], 0, clean (by decide), fun n _ => awakeVerbs (by decide) n, by decide⟩,
   ⟨up [], 0x01028000, [1], 0, fun i h => ⟨by revert i; decide, by revert i; decide, fun n _ => awakeVerbs (by decide) n⟩, by decide⟩⟩

theorem witness_IdentityReads :
    ∃ (s : State) (count : Nat), hostReady s = true ∧ hostIgnores s = false ∧ domainOn s 0 = true ∧ rd s R.sysId = regReset R.sysId ∧
      mapGet s.staged R.sysId = none :=
  ⟨up [], 3, by decide⟩

theorem witness_HostTransactions :
    (∃ (s : State) (count : Nat), hostReady s = true ∧ hostIgnores s = false) ∧
    (∃ (s : State) (count : Nat), hostReady s = false ∧ hostIgnores s = false) ∧
    (∃ (s : State) (code : Byte) (addr : Word), hostReady s = true ∧ hostIgnores s = false ∧ (code ∉ [0x02, 0x03, 0x05, 0x0B, 0x0C] ∨
      (code ∈ [0x02, 0x03, 0x0B, 0x0C] ∧ addr.toNat % 4 ≠ 0))) ∧
    (∃ (s : State) (addr : Word) (words : List Word) (rest : BitVec 5) (count : Nat) (code : Byte), hostIgnores s = true) :=
  ⟨
   ⟨up [], 0, by decide⟩,
   ⟨State.reset, 0, by decide⟩,
   ⟨up [], 0x0B, 1, by decide⟩,
   ⟨{ up [] with host := { open? := true, refused := true } }, 0, [1], 0, 1, 2, by decide⟩⟩

theorem witness_RegisterWriteByType :
    (∃ (s : State) (v : Word), HostMayWrite s R.sysIrqen) ∧
    (∃ (s : State) (v : Word), HostMayWrite s R.sysIrqstat) ∧
    (∃ (s : State) (a v : Word), HostMayWrite s a.toNat ∧ 0x40000000 ≤ a.toNat ∧ a.toNat < 0x40130000 ∧ a.toNat % 4 = 0 ∧ regDesc
      a.toNat = none) ∧
    (∃ (s : State) (v : Word), HostMayWrite s R.tenseTempo ∧ (v.toNat < 0xA0000 ∨ 0x3E70000 < v.toNat)) :=
  ⟨
   ⟨up [], 0xFFFFFFFF, may (by decide)⟩,
   ⟨up [(R.sysIrqstat, 0x100)], 0x100, may (by decide)⟩,
   ⟨up [], 0x4012FFF8, 0, may (by decide), by decide⟩,
   ⟨up [], 0x3E70001, may (by decide), by decide⟩⟩

theorem witness_ReferenceClock :
    (∃ (s : State), s.time.wclkLost = false ∧ fld s R.clkCtrl 1 0 = 1) ∧
    (∃ (s : State), s.time.wclkLost = true ∧ fld s R.clkCtrl 1 0 = 1) ∧
    (∃ (s : State), activeRef s = 1) ∧
    (∃ (s : State), flag s R.clkCtrl 4 = true ∧ activeRef s = 0 ∧ s.time.onAo = false) ∧
    (∃ (s : State) (r : WclkRate), s.boot.ready = false ∧ supplyGood s = true) ∧
    (∃ (s : State), s.boot.ready = false ∧ supplyGood s = true) ∧
    (∃ (s : State) (ao : Bool) (cause : Nat), s.time.clockDue = some (ao, cause)) :=
  ⟨
   ⟨up [(R.clkCtrl, 0x11)], by decide⟩,
   ⟨{ up [(R.clkCtrl, 0x11)] with time := { wclkLost := true } }, by decide⟩,
   ⟨up [(R.clkStat, 0x10)], by decide⟩,
   ⟨up [(R.clkCtrl, 0x10)], by decide⟩,
   ⟨{ State.reset with power := { vinGood := some 0 }, time := { aoTime := 0x10000000 } }, ⟨true, 2⟩, by decide⟩,
   ⟨{ State.reset with power := { vinGood := some 0 }, time := { aoTime := 0x10000000 } }, by decide⟩,
   ⟨{ up [] with time := { clockDue := some (true, 1) } }, true, 1, by decide⟩⟩

theorem witness_SyncSetsEpoch :
    (∃ (s : State) (d : SyncDelay), s.boot.interruptMode = true ∧ s.time.rendering = false ∧ s.tense.atEpoch = (0, false) ∧ isWorker s =
      false ∧ isRoot s = false) ∧
    (∃ (s : State), HostMayWrite s R.adcCtrl ∧ s.boot.interruptMode = true ∧ s.time.rendering = false ∧ s.tense.atEpoch = (0, false) ∧
      isWorker s = false ∧ isRoot s = false) ∧
    (∃ (s : State) (d : SyncDelay), isWorker s = true ∧ flag s R.linkCfg 3 = false ∧ asleep s = false ∧ s.power.entry = none) ∧
    (∃ (s : State) (d : SyncDelay), s.boot.interruptMode = false ∧ asleep s = true ∧ flag s R.pwrWakeen 2 = true ∧ s.power.wakeLatch =
      0) :=
  ⟨
   ⟨up [], 2, by decide⟩,
   ⟨up [], may (by decide), by decide⟩,
   ⟨up [(R.linkCfg, 0x00080017), (R.linkAddr, 0x80000001)], 0, by decide⟩,
   ⟨wr (wr State.reset R.pwrStat 2) R.pwrWakeen 4, 0, by decide⟩⟩

theorem witness_BoundaryOpensWindow :
    (∃ (s : State), s.time.rendering = true ∧ s.power.want ≠ 1 ∧ s.power.want ≠ 2 ∧ s.power.entry = none ∧ (isWorker s = false ∨
      (s.memint.tableErr = none ∧ s.ecc = []))) ∧
    (∃ (s : State), s.time.rendering = true ∧ s.power.want = 1 ∧ s.power.entry = none) ∧
    (∃ (s : State), s.time.rendering = false ∧ s.boot.complete = true ∧ asleep s = false ∧ s.power.want = 2) ∧
    (∃ (s : State), s.time.rendering = false ∧ (s.boot.complete = false ∨ asleep s = true)) :=
  ⟨
   ⟨live [], by decide⟩,
   ⟨{ live [] with power := { want := 1 } }, by decide⟩,
   ⟨{ up [] with power := { want := 2 } }, by decide⟩,
   ⟨State.reset, by decide⟩⟩

theorem witness_EventTakeTakes :
    (∃ (s : State), s.time.rendering = true ∧ isWorker s = false ∧ s.time.step1 = s.time.frame ∧ s.time.step2 < s.time.frame) ∧
    (∃ (s : State), s.time.rendering = true ∧ isWorker s = false ∧ isRoot s = false ∧ s.time.step1 = s.time.frame ∧ s.time.step2 <
      s.time.frame ∧ s.phrases = [] ∧ s.alloc.ops = [] ∧ s.evt.map.controls = [] ∧ transport s = 0 ∧ s.tense.lastP = none ∧ tempoSource
      s = 0 ∧ s.memint.tableErr = none ∧ s.ecc = [] ∧ (∀ q ∈ takenEvents s s.time.frame, q.pkt.kind = 0x03)) :=
  ⟨
   ⟨{ up [] with time := { rendering := true, frame := 1, step1 := 1 } }, by decide⟩,
   ⟨{ up [] with time := { rendering := true, frame := 1, step1 := 1 }, evt := { queue := [⟨mkEvent 0 0x03 0 0 0, 0, []⟩] } },
     by decide⟩⟩

theorem witness_TempoSourceLost :
    ∃ (s : State), stepTwoTaken s = true ∧ lossDue s s.time.frame = true ∧ transport s ≠ 2 :=
  ⟨{ up [(R.tenseCfg, 1)] with time := { rendering := true, frame := 0x10000000, step2 := 0x10000000 }, tense := { lastP := some 0 } },
    by decide⟩

theorem witness_VerbArithmetic :
    (∃ (s : State) (v : Fin 16) (w : WordFrame) (a b : ArithField) (x y : MoveField), Issues s v w (.par a b x y) ∧ GoesOn s v ∧ NoMoves
      x y) ∧
    (∃ (s : State) (v : Fin 16) (w : WordFrame) (a : ArithField) (imm : Word), Issues s v w (.alui a imm) ∧ GoesOn s v) ∧
    (∃ (s : State) (v : Fin 16) (w : WordFrame) (a b : ArithField) (x y : MoveField), Issues s v w (.par a b x y) ∧ GoesOn s v ∧ NoMoves
      x y ∧ a.opc = 2 ∧ b.opc = 0 ∧ (bankOfVerb s v).acc.length = 4) :=
  ⟨
   ⟨onVerb [] bank0, 0, wf0, ⟨2, 0, 0, 1⟩, nop, no, no, issues (by decide), by decide⟩,
   ⟨onVerb [] bank0, 0, wf0, ⟨2, 0, 0, 0⟩, 5, issues (by decide), by decide⟩,
   ⟨onVerb [] bank0, 0, wf0, ⟨2, 3, 15, 15⟩, nop, no, no, issues (by decide), by decide⟩⟩

theorem witness_VerbRegisters :
    (∃ (s : State) (v : Fin 16) (w : WordFrame) (dst : BitVec 6) (value : Word), Issues s v w (.imm dst value) ∧ GoesOn s v) ∧
    (∃ (s : State) (v : Fin 16) (w : WordFrame) (dst src : BitVec 6) (x y : MoveField), Issues s v w (.regmove dst src x y) ∧ GoesOn s v
      ∧ NoMoves x y) ∧
    (∃ (s : State) (v : Fin 16) (w : WordFrame), Issues s v w .ctrlNone) ∧
    (∃ (b : VerbBank) (code : Nat) (value : Word), code < 0x18 ∧ b.d.length = 16 ∧ b.p.length = 8) :=
  ⟨
   ⟨onVerb [] bank0, 0, wf0, 5, 9, issues (by decide), by decide⟩,
   ⟨onVerb [] bank0, 0, wf0, 1, 2, no, no, issues (by decide), by decide⟩,
   ⟨onVerb [] bank0, 0, wf0, issues (by decide)⟩,
   ⟨{}, 0x17, 1, by decide⟩⟩

theorem witness_VerbUnits :
    (∃ (s : State) (v : Fin 16) (w : WordFrame) (dst src : BitVec 4) (x y : MoveField), Issues s v w (.exp2f dst src x y) ∧ GoesOn s v ∧
      NoMoves x y) ∧
    (∃ (s : State) (v : Fin 16) (w : WordFrame) (dst src : BitVec 4) (x y : MoveField), Issues s v w (.log2f dst src x y) ∧ GoesOn s v ∧
      NoMoves x y) ∧
    (∃ (s : State) (v : Fin 16) (w : WordFrame) (dst src : BitVec 4) (x y : MoveField), Issues s v w (.pinc dst src x y) ∧ GoesOn s v ∧
      NoMoves x y) ∧
    (∃ (s : State) (v : Fin 16) (dst issued : Nat) (x : Word) (rest : List UnitResult), s.verbs.length = 16 ∧ (verbOf s v).frozen =
      false ∧ (bankOfVerb s v).units = { dst, vals := [x], issued } :: rest ∧ issued + 6 ≤ (bankOfVerb s v).cycles ∧ dst < 16 ∧
      (bankOfVerb s v).d.length = 16) ∧
    (∃ (s : State) (v : Fin 16) (r : UnitResult) (rest : List UnitResult), (verbOf s v).frozen = false ∧ (bankOfVerb s v).units = r ::
      rest ∧ (bankOfVerb s v).cycles < r.issued + 6) :=
  ⟨
   ⟨onVerb [] bank0, 0, wf0, 2, 4, no, no, issues (by decide), by decide⟩,
   ⟨onVerb [] bank0, 0, wf0, 2, 4, no, no, issues (by decide), by decide⟩,
   ⟨onVerb [] bank0, 0, wf0, 2, 4, no, no, issues (by decide), by decide⟩,
   ⟨onVerb [] { bank0 with units := [{ dst := 15, vals := [5], issued := 0 }], cycles := 6 }, 0, 15, 0, 5, [], by decide⟩,
   ⟨onVerb [] { bank0 with units := [{ dst := 15, vals := [5], issued := 0 }], cycles := 5 }, 0,
     { dst := 15, vals := [5], issued := 0 }, [], by decide⟩⟩

theorem witness_VerbTables :
    (∃ (s : State) (v : Fin 16) (w : WordFrame) (p c : BitVec 4) (x y : MoveField), Issues s v w (.tip p c x y) ∧ GoesOn s v ∧ NoMoves x
      y ∧ (bankOfVerb s v).table.length < 8) ∧
    (∃ (s : State) (v : Fin 16) (r : TableReq) (rest : List TableReq) (a : Nat), CleanWord s a ∧ s.verbs.length = 16 ∧ (verbOf s
      v).frozen = false ∧ (bankOfVerb s v).table = r :: rest ∧ r.results = none ∧ bits r.cfg 27 24 = 4 ∧ (a : Int) = pointAddr r.pos
      r.cfg 0 ∧ streamPoint s (bits r.cfg 23 0) a = none ∧ a % 4 = 0) ∧
    (∃ (s : State) (v : Fin 16) (w : WordFrame) (dst : BitVec 4) (x y : MoveField) (r : TableReq) (rest : List TableReq) (d : Word),
      Issues s v w (.tget dst x y) ∧ GoesOn s v ∧ NoMoves x y ∧ (bankOfVerb s v).table = r :: rest ∧ r.results = some [(d, false)]) ∧
    (∃ (s : State) (v : Fin 16) (w : WordFrame) (dst : BitVec 4) (x y : MoveField) (r : TableReq) (rest : List TableReq) (d : Word) (e :
      Word × Bool) (more : List (Word × Bool)), Issues s v w (.tget dst x y) ∧ GoesOn s v ∧ NoMoves x y ∧ (bankOfVerb s v).table = r ::
      rest ∧ r.results = some ((d, false) :: e :: more)) ∧
    (∃ (s : State) (v : Fin 16) (r : TableReq) (rest : List TableReq), s.verbs.length = 16 ∧ (verbOf s v).frozen = false ∧ (bankOfVerb s
      v).table = r :: rest ∧ r.results = none) :=
  ⟨
   ⟨onVerb [] { bank0 with d := (List.replicate 16 0).set 4 0x04000000 }, 0, wf0, 0, 4, no, no, issues (by decide), by decide⟩,
   ⟨onVerb [] { bank0 with table := [⟨0, 0x04000000, 0, 0, none⟩] }, 0, ⟨0, 0x04000000, 0, 0, none⟩, [], 0, clean (by decide),
     by decide⟩,
   ⟨onVerb [] { bank0 with table := [⟨0, 0x04000000, 0, 0, some [(7, false)]⟩] }, 0, wf0, 3, no, no, ⟨0, 0x04000000, 0, 0, some [(7,
     false)]⟩, [], 7, issues (by decide), by decide⟩,
   ⟨onVerb [] { bank0 with table := [⟨0, 0x04000000, 0, 0, some [(7, false), (8, false)]⟩] }, 0, wf0, 3, no, no, ⟨0, 0x04000000, 0, 0,
     some [(7, false), (8, false)]⟩, [], 7, (8, false), [], issues (by decide), by decide⟩,
   ⟨onVerb [] { bank0 with table := [⟨0, 0x04000000, 0, 0, none⟩] }, 0, ⟨0, 0x04000000, 0, 0, none⟩, [], by decide⟩⟩

theorem witness_VerbSends :
    (∃ (s : State) (v : Fin 16) (w : WordFrame) (val k : BitVec 4) (x y : MoveField) (n : Nat), Issues s v w (.mixadd val k x y) ∧
      GoesOn s v ∧ NoMoves x y ∧ (verbOf s v).mixq.length < 32 ∧ n = ((bankOfVerb s v).dOf k.toNat).toNat) ∧
    (∃ (s : State) (v : Fin 16) (w : WordFrame) (val k : BitVec 4) (x y : MoveField) (n : Nat), Issues s v w (.mixadd2 val k x y) ∧
      GoesOn s v ∧ NoMoves x y ∧ (verbOf s v).mixq.length < 31 ∧ n = ((bankOfVerb s v).dOf k.toNat).toNat) ∧
    (∃ (s : State) (v : Fin 16) (w : WordFrame) (src : BitVec 4) (x y : MoveField) (a : Nat), Issues s v w (.evpost src x y) ∧ CleanWord
      s (localAddr v a) ∧ CleanWord s (localAddr v a + 8) ∧ GoesOn s v ∧ NoMoves x y ∧ w.eventsOut + w.events.length < 8 ∧ a =
      ((bankOfVerb s v).dOf src.toNat).toNat ∧ a % 16 = 0 ∧ 0x10000 ≤ a ∧ a + 16 ≤ 0x28000 ∧ (∀ i, i < 16 → undefinedByte (verbOf s
      v).useB w (a + i) = false)) ∧
    (∃ (s : State) (v : Fin 16) (w : WordFrame) (src : BitVec 4) (x y : MoveField), Issues s v w (.evpost src x y) ∧ GoesOn s v ∧
      NoMoves x y ∧ 8 ≤ w.eventsOut + w.events.length) :=
  ⟨
   ⟨onVerb [] bank0, 0, wf0, 0, 1, no, no, 0, issues (by decide), by decide⟩,
   ⟨onVerb [] bank0, 0, wf0, 0, 2, no, no, 0, issues (by decide), by decide⟩,
   ⟨onVerb [] { bank0 with d := (List.replicate 16 0).set 3 0x14000 }, 0, wf0, 3, no, no, 0x14000, issues (by decide), clean
     (by decide), clean (by decide), by decide⟩,
   ⟨onVerb [] { bank0 with wf := some { wf0 with events := List.replicate 8 (mkEvent 0 0x03 0 0 0) } }, 0,
     { wf0 with events := List.replicate 8 (mkEvent 0 0x03 0 0 0) }, 3, no, no, issues (by decide), by decide⟩⟩

theorem witness_VerbFaults :
    (∃ (s : State) (v : Fin 16) (w : WordFrame), s.verbs.length = 16 ∧ runsFrame s v = true ∧ (bankOfVerb s v).wf = some w ∧
      w.overReported = false ∧ w.cost < (bankOfVerb s v).cycles) ∧
    (∃ (s : State) (v : Fin 16) (w : WordFrame), QuietFlows s ∧ s.verbs.length = 16 ∧ runsFrame s v = true ∧ (bankOfVerb s v).wf = some
      w ∧ w.overReported = true ∧ 2 * w.cost + 1024 ≤ (bankOfVerb s v).cycles ∧ w.dropped = 0 ∧ StepsDone s ∧ (verbOf s v).frozen =
      false ∧ (verbOf s v).other.wf = none ∧ flag s (R.vdbgVfault + 4 * v.val) 31 = false) ∧
    (∃ (s : State) (v : Fin 16) (w : WordFrame), s.verbs.length = 16 ∧ runsFrame s v = true ∧ (bankOfVerb s v).wf = some w ∧ 2 * w.cost
      + 1024 ≤ (bankOfVerb s v).cycles) ∧
    (∃ (s : State) (v : Fin 16) (w : WordFrame) (i : VInstr) (c : Instr) (code : Nat), Comes s v w i ∧ QuietFlows s ∧ verbCommand v i =
      some c ∧ tipStalls (bankOfVerb s v) i = false ∧ (∀ r ∈ (bankOfVerb s v).table, r.results.isSome = true) ∧ instrFault s v
      (bankOfVerb s v) w i = some code ∧ w.dropped = 0 ∧ (verbOf s v).frozen = false ∧ (verbOf s v).other.wf = none ∧ flag s
      (R.vdbgVfault + 4 * v.val) 31 = false) :=
  ⟨
   ⟨onVerb [] { bank0 with cycles := 101 }, 0, wf0, by decide⟩,
   ⟨onVerb [] { bank0 with wf := some { wf0 with overReported := true }, cycles := 1224 }, 0, { wf0 with overReported := true }, quiet
     (by decide), by decide⟩,
   ⟨onVerb [] { bank0 with cycles := 1224 }, 0, wf0, by decide⟩,
   ⟨onVerb [] bank0, 0, wf0, .ret, .ret 0, 6, comes (by decide), quiet (by decide), by decide⟩⟩

theorem witness_VerbMoves :
    (∃ (s : State) (v : Fin 16) (w : WordFrame) (a b : ArithField) (x y : MoveField) (p : Nat), Issues s v w (.par a b x y) ∧ CleanWord
      s (localAddr v p) ∧ GoesOn s v ∧ a.opc = 0 ∧ b.opc = 0 ∧ mvActive x = true ∧ mvActive y = false ∧ p = moveAddr (bankOfVerb s v) x
      ∧ x.store = true ∧ x.size = 0 ∧ x.reg.toNat < 16 ∧ placeOf p ≠ .shared ∧ p % 4 = 0) ∧
    (∃ (s : State) (v : Fin 16) (w : WordFrame) (a b : ArithField) (x y : MoveField) (p : Nat), Issues s v w (.par a b x y) ∧ CleanWord
      s (localAddr v p) ∧ GoesOn s v ∧ a.opc = 0 ∧ b.opc = 0 ∧ mvActive x = true ∧ mvActive y = false ∧ p = moveAddr (bankOfVerb s v) x
      ∧ x.store = false ∧ x.size = 0 ∧ x.reg.toNat < 16 ∧ placeOf p ≠ .shared ∧ p % 4 = 0 ∧ (∀ i, i < 4 → undefinedByte (verbOf s
      v).useB w (p + i) = false)) ∧
    (∃ (s : State) (v : Fin 16) (w : WordFrame) (a b : ArithField) (x y : MoveField) (p : Nat), Issues s v w (.par a b x y) ∧ GoesOn s v
      ∧ a.opc = 0 ∧ b.opc = 0 ∧ mvActive x = true ∧ mvActive y = false ∧ p = moveAddr (bankOfVerb s v) x ∧ x.store = true ∧ x.size = 0 ∧
      x.reg.toNat < 16 ∧ placeOf p = .shared) ∧
    (∃ (s : State) (v : Fin 16) (w : WordFrame) (a b : ArithField) (x y : MoveField) (p : Nat), Issues s v w (.par a b x y) ∧ GoesOn s v
      ∧ a.opc = 0 ∧ b.opc = 0 ∧ mvActive x = true ∧ mvActive y = false ∧ p = moveAddr (bankOfVerb s v) x ∧ x.store = false ∧ x.size = 0
      ∧ x.reg.toNat < 16 ∧ placeOf p = .shared) ∧
    (∃ (s : State) (v : Fin 16) (w : WordFrame) (l : SharedLoad) (rest : List SharedLoad), CleanWord s l.addr ∧ s.verbs.length = 16 ∧
      (verbOf s v).frozen = false ∧ (bankOfVerb s v).wf = some w ∧ (bankOfVerb s v).loads = l :: rest ∧ l.size = 4 ∧ l.reg < 16 ∧ l.val
      = none ∧ l.addr % 4 = 0 ∧ (∀ i, i < 4 → forwarded s w.key (postedBefore w l) (l.addr + i) = none)) ∧
    (∃ (s : State) (v : Fin 16) (w : WordFrame) (l : SharedLoad) (rest : List SharedLoad) (d : DWord), s.verbs.length = 16 ∧ (verbOf s
      v).frozen = false ∧ (bankOfVerb s v).wf = some w ∧ (bankOfVerb s v).loads = l :: rest ∧ l.size = 4 ∧ l.reg < 16 ∧ l.val = some (d,
      false)) :=
  ⟨
   ⟨onVerb [] bankX, 0, wf0, nop, nop, ⟨true, 3, 0, 1, 0, false⟩, no, 0x14000, issues (by decide), clean (by decide), by decide⟩,
   ⟨onVerb [] bankX, 0, wf0, nop, nop, ⟨false, 3, 0, 1, 0, false⟩, no, 0x14000, issues (by decide), clean (by decide), by decide⟩,
   ⟨onVerb [(R.memDly, 1)] { bank0 with p := [0x014C0000, 0, 0, 0, 0, 0, 0, 0] }, 0, wf0, nop, nop, ⟨true, 3, 0, 1, 0, false⟩, no,
     0x014C0000, issues (by decide), by decide⟩,
   ⟨onVerb [] { bank0 with p := [0x01440000, 0, 0, 0, 0, 0, 0, 0] }, 0, wf0, nop, nop, ⟨false, 3, 0, 1, 0, false⟩, no, 0x01440000,
     issues (by decide), by decide⟩,
   ⟨onVerb [] { bank0 with loads := [⟨3, 4, 0x01440000, 0, 0, 0, none⟩] }, 0, wf0, ⟨3, 4, 0x01440000, 0, 0, 0, none⟩, [], clean
     (by decide), by decide⟩,
   ⟨onVerb [] { bank0 with loads := [⟨3, 4, 0x01440000, 0, 0, 0, some (5, false)⟩] }, 0, wf0, ⟨3, 4, 0x01440000, 0, 0, 0, some (5,
     false)⟩, [], 5, by decide⟩⟩

theorem witness_ParserDispatches :
    (∃ (s : State) (v : Fin 16) (k : FlowKey) (p : Phrase) (w : Work) (x : Syntax) (sw : SynWord), s.time.rendering = true ∧
      s.verbs.length = 16 ∧ s.ecc = [] ∧ (verbOf s v).active = true ∧ (verbOf s v).halted = false ∧ (verbOf s v).absent = false ∧
      (verbOf s v).running = false ∧ leastKey (readyKeys s v) = some k ∧ readyOf s v k = some (p, w) ∧ phraseAt s p.pos = some p ∧
      windowRoom s k = true ∧ p.isGlobal = false ∧ synOf s p.sid = some x ∧ x.words[w.next]? = some sw) ∧
    (∃ (s : State) (v : Fin 16) (k : FlowKey) (p : Phrase) (w : Work) (x : Syntax) (sw : SynWord) (r : WordFrame) (elapsed : BitVec 20),
      s.time.rendering = true ∧ s.verbs.length = 16 ∧ s.ecc = [] ∧ (verbOf s v).active = true ∧ (verbOf s v).halted = false ∧ (verbOf s
      v).running = true ∧ (bankOfVerb s v).wf = some r ∧ (bankOfVerb s v).delay = none ∧ (verbOf s v).frozen = false ∧ leastKey
      (readyKeys s v) = some k ∧ readyOf s v k = some (p, w) ∧ phraseAt s p.pos = some p ∧ p.isGlobal = false ∧ synOf s p.sid = some x ∧
      x.words[w.next]? = some sw ∧ windowRoom s k = true ∧ slotMode s v = false ∧ flag s R.parserCfg 24 = true ∧ keyLt k r.key = true ∧
      r.isPre = false ∧ cyclesLeft s w.frame elapsed.toNat < (workLeft s v (· ≤ w.frame) - (if r.frame ≤ w.frame then r.cost else 0) +
      (r.cost - (bankOfVerb s v).cycles) : Nat)) ∧
    (∃ (s : State) (v : Fin 16) (k : FlowKey) (p : Phrase) (w : Work) (x : Syntax) (sw : SynWord), s.time.rendering = true ∧
      s.verbs.length = 16 ∧ (verbOf s v).active = true ∧ (verbOf s v).halted = false ∧ (verbOf s v).absent = false ∧ ((verbOf s
      v).running = false ∨ ((verbOf s v).frozen = false ∧ (verbOf s v).other.wf = none)) ∧ leastKey (readyKeys s v) = some k ∧ readyOf s
      v k = some (p, w) ∧ phraseAt s p.pos = some p ∧ windowRoom s k = true ∧ synOf s p.sid = some x ∧ x.words[w.next]? = some sw) ∧
    (∃ (s : State) (v : Fin 16) (k : FlowKey) (p : Phrase) (w : Work) (x : Syntax) (sw : SynWord) (r : WordFrame) (elapsed : BitVec 20),
      s.time.rendering = true ∧ s.verbs.length = 16 ∧ (verbOf s v).active = true ∧ (verbOf s v).halted = false ∧ (verbOf s v).running =
      true ∧ (bankOfVerb s v).wf = some r ∧ (bankOfVerb s v).delay = none ∧ (verbOf s v).frozen = false ∧ leastKey (readyKeys s v) =
      some k ∧ readyOf s v k = some (p, w) ∧ phraseAt s p.pos = some p ∧ synOf s p.sid = some x ∧ x.words[w.next]? = some sw ∧
      windowRoom s k = true ∧ slotMode s v = false ∧ flag s R.parserCfg 24 = true ∧ keyLt k r.key = true ∧ r.isPre = false ∧ cyclesLeft
      s w.frame elapsed.toNat < (workLeft s v (· ≤ w.frame) - (if r.frame ≤ w.frame then r.cost else 0) + (r.cost - (bankOfVerb s
      v).cycles) : Nat)) :=
  ⟨
   ⟨{ live [] with verbs := (List.replicate 16 {}).set 0 { active := true }, syns := [syn0], phrases := [phr0] }, 0, (1, 0, 0), phr0,
     work0, syn0, sw0, by decide⟩,
   ⟨{ live [(R.parserCfg, 0x01000000), (R.parserVstat, 0)] with verbs := (List.replicate 16 {}).set 0 { bankA := { bank0 with wf := some { wf0 with frame := 2 } }, running := true, active := true }, syns := [syn0], phrases := [phr0] },
     0, (1, 0, 0), phr0, work0, syn0, sw0, { wf0 with frame := 2 }, 0xFFFFF, by decide⟩,
   ⟨{ live [] with verbs := (List.replicate 16 {}).set 0 { active := true }, syns := [syn0], phrases := [phr0] }, 0, (1, 0, 0), phr0,
     work0, syn0, sw0, by decide⟩,
   ⟨{ live [(R.parserCfg, 0x01000000), (R.parserVstat, 0)] with verbs := (List.replicate 16 {}).set 0 { bankA := { bank0 with wf := some { wf0 with frame := 2 } }, running := true, active := true }, syns := [syn0], phrases := [phr0] },
     0, (1, 0, 0), phr0, work0, syn0, sw0, { wf0 with frame := 2 }, 0xFFFFF, by decide⟩⟩

theorem witness_ParserMoves :
    (∃ (s : State) (v : Fin 16) (elapsed : BitVec 20) (q0 c0 : Nat), (∀ u, u ≠ v.val → (verbOf s u).q0 = none) ∧ s.time.rendering = true
      ∧ s.verbs.length = 16 ∧ elapsed.toNat % 4096 = 0 ∧ (verbOf s v).active = true ∧ (verbOf s v).running = true ∧ (verbOf s v).flagged
      = none ∧ (verbOf s v).q0 = some (q0, c0) ∧ workLeft s v (· < s.time.frame) = 0 ∧ 4096 ≤ elapsed.toNat - c0 ∧ fld s R.parserCfg 7 0
      * (cyclesLeft s s.time.frame elapsed.toNat).toNat < verbQ s v s.time.frame * 64) ∧
    (∃ (s : State) (pos : BitVec 12) (p : Phrase) (x : Syntax) (m : Move) (old a b : Nat), phraseAt s pos.toNat = some p ∧ p.move = some
      m ∧ p.home = some old ∧ synOf s p.sid = some x ∧ m.copying = false ∧ m.rate < 256 ∧ p.works = [] ∧ m.dest ∈ activeVerbs s ∧
      fitPart s m.dest x.xsize false = some a ∧ fitPart s m.dest x.ysize true = some b ∧ flag s R.parserTrctl 0 = false) ∧
    (∃ (s : State) (pos : BitVec 12) (p : Phrase) (x : Syntax) (m : Move) (old : Nat), phraseAt s pos.toNat = some p ∧ p.move = some m ∧
      p.home = some old ∧ synOf s p.sid = some x ∧ m.copying = true ∧ s.ecc = [] ∧ old ≠ m.dest ∧ p.xbase + x.xsize ≤ 0x28000 ∧ m.xbase
      + x.xsize ≤ 0x28000 ∧ x.xsize % 8 = 0 ∧ m.ybase + x.ysize ≤ 0x10000 ∧ 0x30 ≤ x.xsize) :=
  ⟨
   ⟨{ live [] with verbs := (List.replicate 16 {}).set 0 { bankA := bank0, running := true, active := true, q0 := some (1, 0) }, syns := [syn0], phrases := [phr0] },
     0, 0xFF000, 1, 0, restVerbs (P := fun x => x.q0 = none) rfl (by decide) (by decide), by decide⟩,
   ⟨{ live [] with verbs := (List.replicate 16 {}).set 1 { active := true }, syns := [syn0], phrases := [{ phr0 with works := [], move := some { dest := 1, xbase := 0x14000, ybase := 0x80, q := 0, rate := 0, forced := false, copying := false, since := 1 } }] },
     0,
     { phr0 with works := [], move := some { dest := 1, xbase := 0x14000, ybase := 0x80, q := 0, rate := 0, forced := false, copying := false, since := 1 } },
     syn0, { dest := 1, xbase := 0x14000, ybase := 0x80, q := 0, rate := 0, forced := false, copying := false, since := 1 }, 0, 0x14000,
     0x80, by decide⟩,
   ⟨{ live [] with syns := [syn0], phrases := [{ phr0 with works := [], move := some { dest := 1, xbase := 0x14000, ybase := 0x80, q := 0, rate := 0, forced := false, copying := true, since := 1 } }] },
     0,
     { phr0 with works := [], move := some { dest := 1, xbase := 0x14000, ybase := 0x80, q := 0, rate := 0, forced := false, copying := true, since := 1 } },
     syn0, { dest := 1, xbase := 0x14000, ybase := 0x80, q := 0, rate := 0, forced := false, copying := true, since := 1 }, 0,
     by decide⟩⟩

theorem witness_ConcordDelivers :
    (∃ (s : State), s.time.rendering = true ∧ barrierFrame s ≤ s.time.step2 ∧ barrierPassed s (barrierFrame s) = false ∧ barrierReady s
      (barrierFrame s) = true ∧ (∀ p ∈ s.phrases, p.isGlobal = true → feedsOf s p = [])) ∧
    (∃ (s : State), s.time.rendering = true ∧ barrierFrame s ≤ s.time.step2 ∧ barrierPassed s (barrierFrame s) = false ∧ barrierReady s
      (barrierFrame s) = true) ∧
    (∃ (s : State) (k : FlowKey) (x : PostedStore), nextStore s = some (k, x) ∧ s.ecc = [] ∧ s.ended = [] ∧ s.parser.trace = [] ∧
      s.parser.staged = [] ∧ 0 < x.size ∧ x.size ≤ 8) ∧
    (∃ (s : State) (k : FlowKey) (p : EvPacket), nextEvent s = some (k, p) ∧ s.ended = [] ∧ s.parser.trace = [] ∧ s.parser.staged = [] ∧
      tiersOf s = 0 ∧ s.sys.wevReady = [] ∧ (outOf s p.part.toNat).dest = 0 ∧ sourceBlocked s 15 = false) :=
  ⟨
   ⟨live [], by decide⟩,
   ⟨live [], by decide⟩,
   ⟨onVerb [] { bank0 with wf := some { wf0 with stores := [⟨0x014C0000, 8, 5⟩] } }, (0, 0, 0), ⟨0x014C0000, 8, 5⟩, by decide⟩,
   ⟨{ onVerb [] { bank0 with wf := some { wf0 with events := [mkEvent 0 0x03 0 0 0] } } with evt := { map := { outs := [⟨0, 0, 0, 0⟩] } } },
     (0, 0, 0), mkEvent 0 0x03 0 0 0, by decide⟩⟩

theorem witness_FabricAccepts :
    (∃ (s : State) (src : Nat) (e : ReadyEv) (rest : List ReadyEv) (p : EvPacket), isWorker s = false ∧ isRoot s = false ∧ flag s
      R.evtXctl 0 = false ∧ nextSource s = some src ∧ nth s.evt.ready src [] = e :: rest ∧ e.pkt.kind ≠ 0x0A ∧ atQuota s src = false ∧ p
      = { e.pkt with source := BitVec.ofNat 6 src, late := false, fence := false } ∧ eventBad p = false ∧ fenceWaits s src = [] ∧
      nextTake s ≤ frameOf (effPos s p)) ∧
    (∃ (s : State) (src : Nat) (e : ReadyEv) (rest : List ReadyEv), isWorker s = false ∧ nextSource s = some src ∧ nth s.evt.ready src
      [] = e :: rest ∧ e.pkt.kind ≠ 0x0A ∧ atQuota s src = false ∧ eventBad e.pkt = true) ∧
    (∃ (s : State) (src : Nat) (e : ReadyEv) (rest : List ReadyEv), isWorker s = false ∧ nextSource s = some src ∧ nth s.evt.ready src
      [] = e :: rest ∧ e.pkt.kind ≠ 0x0A ∧ atQuota s src = true) ∧
    (∃ (s : State) (src g : Nat) (e : ReadyEv) (rest : List ReadyEv), isWorker s = false ∧ flag s R.evtXctl 0 = false ∧ s.evt.queue = []
      ∧ nextSource s = some src ∧ nth s.evt.ready src [] = e :: rest ∧ e.pkt.kind = 0x0A ∧ e.pkt.fence = true ∧ g = e.pkt.key.toNat ∧ g
      < 4 ∧ s.evt.complete.length = 4 ∧ inMask s g src = true ∧ serialBelow (completeOf s g) e.pkt.value = true ∧ serialBelow (delivered
      s g src) e.pkt.value = true) ∧
    (∃ (s : State), nextSource s = none) :=
  ⟨
   ⟨{ up [] with evt := { ready := (List.replicate 16 []).set 12 [⟨mkEvent 0x2000 0x03 0 0 0, 0⟩] } }, 12, ⟨mkEvent 0x2000 0x03 0 0 0,
     0⟩, [], { mkEvent 0x2000 0x03 0 0 0 with source := 12 }, by decide⟩,
   ⟨{ up [] with evt := { ready := (List.replicate 16 []).set 12 [⟨mkEvent 0x2000 0x07 0 0 0, 0⟩] } }, 12, ⟨mkEvent 0x2000 0x07 0 0 0,
     0⟩, [], by decide⟩,
   ⟨{ up [(R.evtQuota + 52, 0)] with evt := { ready := (List.replicate 16 []).set 13 [⟨mkEvent 0x2000 0x0B 0 31 0, 0⟩] } }, 13, ⟨mkEvent
     0x2000 0x0B 0 31 0, 0⟩, [], by decide⟩,
   ⟨{ up [(R.evtPmask, 0x1000)] with evt := { ready := (List.replicate 16 []).set 12 [⟨{ mkEvent 0 0x0A 0 0 1 with fence := true }, 0⟩] } },
     12, 0, ⟨{ mkEvent 0 0x0A 0 0 1 with fence := true }, 0⟩, [], by decide⟩,
   ⟨up [], by decide⟩⟩

theorem witness_FenceAbandoned :
    (∃ (s : State) (g : Fin 4) (n : Word), s.evt.queue = [] ∧ s.evt.complete.length = 4 ∧ nth s.evt.timers g none = some (n, 0) ∧
      serialBelow (completeOf s g) n = true) ∧
    (∃ (s : State) (g : Fin 4) (n : Word) (k : Nat), nth s.evt.timers g none = some (n, k) ∧ (k ≠ 0 ∨ serialBelow (completeOf s g) n =
      false)) :=
  ⟨
   ⟨{ up [] with evt := { timers := [some (1, 0), none, none, none] } }, 0, 1, by decide⟩,
   ⟨{ up [] with evt := { timers := [some (1, 1), none, none, none] } }, 0, 1, 1, by decide⟩⟩

theorem witness_MessagesArrive :
    (∃ (s : State) (src : Fin 8) (x : RxEntry) (byte key st : Byte) (ps : ParseSt) (part : Nat) (e : EvPacket), ps = parseOf s src ∧ e =
      mkEvent (arrivalStamp s src (completionStamp s x)) 0x01 part key.toNat (upScale byte.toNat 7 16 * 65536) ∧ headRx s src 0 = some x
      ∧ x.portError = false ∧ byte = BitVec.ofNat 8 x.data.toNat ∧ ps.sysex = none ∧ ps.status = some st ∧ st.toNat / 16 = 9 ∧ ps.data =
      [key] ∧ byte.toNat < 128 ∧ byte ≠ 0 ∧ chmapPart s src (st.toNat % 16) = some part) ∧
    (∃ (s : State) (src : Fin 8) (x : RxEntry) (byte : Byte), headRx s src 0 = some x ∧ x.portError = true ∧ byte = BitVec.ofNat 8
      x.data.toNat) ∧
    (∃ (s : State) (src : Fin 8) (x : RxEntry) (b0 b1 b2 b3 : Byte) (w0 : Word) (ps : ParseSt) (part : Nat) (e : EvPacket), ps = parseOf
      s src ∧ e = mkEvent (jrStamp s src (bits w0 27 24) (arrivalStamp s src (completionStamp s x)) ps) 0x01 part (w0.toNat / 256 % 128)
      ((256 * b0.toNat + b1.toNat) * 65536) ∧ headRx s src 1 = some x ∧ x.portError = false ∧ b3 = BitVec.ofNat 8 x.data.toNat ∧
      ps.umpPart = [b0, b1, b2] ∧ ps.ump = [w0] ∧ bits w0 31 28 = 4 ∧ bits w0 23 20 = 9 ∧ chmapPart s src (16 * bits w0 27 24 + bits w0
      19 16) = some part) ∧
    (∃ (s : State) (src : Fin 8) (x : RxEntry) (char : BitVec 9) (ps : ParseSt) (e : EvPacket), ps = parseOf s src ∧ e = pktOfBytes
      ((ps.native ++ [char]).map fun c => BitVec.ofNat 8 c.toNat) ∧ headRx s src 2 = some x ∧ x.portError = false ∧ char = (if dataBits
      s src = 9 ∧ ¬ flag s (spReg src 0) 13 then x.data else x.data &&& 0xFF) ∧ char.toNat < 256 ∧ ps.native.length = 15) :=
  ⟨
   ⟨{ up [] with evt := { parse := (List.replicate 13 {}).set 0 { status := some 0x90, data := [60] }, map := { chmap := [0] } }, sp := (List.replicate 8 {}).set 0 { rxq := [⟨100, false, false, false, false, false, false, 0, 0x003126E9, 9⟩] } },
     0, ⟨100, false, false, false, false, false, false, 0, 0x003126E9, 9⟩, 100, 60, 0x90, _, 0, _, rfl, rfl, by decide⟩,
   ⟨{ up [] with evt := { parse := (List.replicate 13 {}).set 0 {}, map := { chmap := [0] } }, sp := (List.replicate 8 {}).set 0 { rxq := [⟨100, true, false, false, false, false, false, 0, 0x003126E9, 9⟩] } },
     0, ⟨100, true, false, false, false, false, false, 0, 0x003126E9, 9⟩, 100, by decide⟩,
   ⟨{ up [(R.evtSrccfg, 1)] with evt := { parse := (List.replicate 13 {}).set 0 { ump := [0x40903C00], umpPart := [128, 1, 2] }, map := { chmap := [0] } }, sp := (List.replicate 8 {}).set 0 { rxq := [⟨0, false, false, false, false, false, false, 0, 0x003126E9, 9⟩] } },
     0, ⟨0, false, false, false, false, false, false, 0, 0x003126E9, 9⟩, 128, 1, 2, 0, 0x40903C00, _, 0, _, rfl, rfl, by decide +kernel⟩,
   ⟨{ up [(R.evtSrccfg, 2)] with evt := { parse := (List.replicate 13 {}).set 0 { native := List.replicate 15 0 }, map := { chmap := [0] } }, sp := (List.replicate 8 {}).set 0 { rxq := [⟨255, false, false, false, false, false, false, 0, 0x003126E9, 9⟩] } },
     0, ⟨255, false, false, false, false, false, false, 0, 0x003126E9, 9⟩, 255, _, _, rfl, rfl, by decide⟩⟩

theorem witness_HostWindows :
    (∃ (s : State) (v : Word), HostMayWrite s R.evtHwin ∧ formatOf s 12 = 2 ∧ s.evt.hwin.length < 3) ∧
    (∃ (s : State) (v a b c : Word) (e : EvPacket), HostMayWrite s R.evtHwin ∧ e = pktOf (a.toNat + b.toNat * 2 ^ 32) (w64 (c.toNat +
      v.toNat * 2 ^ 32)) ∧ formatOf s 12 = 2 ∧ s.evt.hwin = [a, b, c] ∧ (sourceBlocked s 12 = false ∨ eventIsPeriod e = true)) ∧
    (∃ (s : State) (v a b c : Word) (e : EvPacket), HostMayWrite s R.evtHwin ∧ e = pktOf (a.toNat + b.toNat * 2 ^ 32) (w64 (c.toNat +
      v.toNat * 2 ^ 32)) ∧ formatOf s 12 = 2 ∧ s.evt.hwin = [a, b, c] ∧ sourceBlocked s 12 = true ∧ eventIsPeriod e = false) ∧
    (∃ (s : State) (v a b c : Word) (e : EvPacket), HostMayWrite s R.tenseMwin ∧ e = pktOf (a.toNat + b.toNat * 2 ^ 32) (w64 (c.toNat +
      v.toNat * 2 ^ 32)) ∧ s.tense.mwin = [a, b, c] ∧ s.tense.queue.length < 256 ∧ 1 ≤ e.kind.toNat ∧ e.kind.toNat ≤ 6 ∧ eventBad e =
      false) ∧
    (∃ (s : State) (v a b c : Word), HostMayWrite s R.tenseMwin ∧ s.tense.mwin = [a, b, c] ∧ 256 ≤ s.tense.queue.length) :=
  ⟨
   ⟨up [], 5, may (by decide), by decide⟩,
   ⟨{ up [] with evt := { hwin := [1, 2, 3] } }, 4, 1, 2, 3, _, may (by decide), rfl, by decide⟩,
   ⟨{ up [(R.evtQuota + 48, 0)] with evt := { hwin := [1, 2, 3] } }, 4, 1, 2, 3, _, may (by decide), rfl, by decide⟩,
   ⟨{ up [] with tense := { mwin := [0, 0x00060000, 0] } }, 0, 0, 0x00060000, 0, _, may (by decide), rfl, by decide⟩,
   ⟨{ up [] with tense := { mwin := [1, 2, 3], queue := List.replicate 256 (0, mkEvent 0 0x03 0 0 0) } }, 4, 1, 2, 3, may
     (by decide +kernel), by decide +kernel⟩⟩

theorem witness_TimersGoAndCapture :
    (∃ (s : State) (mask : BitVec 16), HostMayWrite s R.tenseGo ∧ s.timers.length = 16) ∧
    (∃ (s : State) (n : Fin 16) (falling : Bool), timerCtl s n 8 5 ≠ 0 ∧ edgeTaken (timerCtl s n 10 9) falling = true ∧ flag s (timerReg
      n 0) 25 = false) :=
  ⟨
   ⟨up [], 0xFFFF, may (by decide), by decide⟩,
   ⟨up [(timerReg 15 0, 0x220)], 15, true, by decide⟩⟩

theorem witness_TimersTick :
    (∃ (s : State) (n : Fin 16) (c : Word), s.timers.length = 16 ∧ timerTicks s n = true ∧ s.time.onAo = false ∧ c = (timerOf s n).count
      ∧ flag s (timerReg n 0) 25 = false ∧ (∀ k, k < 8 → flag s (R.cvoCh + 4 * k) 4 = false) ∧ (rd s (timerReg n 0x0C) = 0 ∨ c.toNat <
      (rd s (timerReg n 0x0C)).toNat) ∧ c ≠ 0xFFFFFFFF ∧ rd s (timerReg n 0x10) = c + 1 ∧ rd s (timerReg n 0x14) ≠ c + 1) ∧
    (∃ (s : State) (n : Fin 16) (c : Word) (lap : BitVec 16), s.timers.length = 16 ∧ timerTicks s n = true ∧ s.time.onAo = false ∧ c =
      (timerOf s n).count ∧ lap = (timerOf s n).lap ∧ flag s (timerReg n 0) 25 = false ∧ (∀ k, k < 8 → flag s (R.cvoCh + 4 * k) 4 =
      false) ∧ rd s (timerReg n 0x0C) ≠ 0 ∧ (rd s (timerReg n 0x0C)).toNat ≤ c.toNat ∧ c ≠ 0xFFFFFFFF ∧ rd s (timerReg n 0x10) ≠ 0 ∧ rd
      s (timerReg n 0x14) ≠ 0) ∧
    (∃ (s : State) (n : Fin 16), s.timers.length = 16 ∧ timerTicks s n = true ∧ s.time.onAo = false ∧ (timerOf s n).count = 0xFFFFFFFF ∧
      flag s (timerReg n 0) 25 = false ∧ (∀ k, k < 8 → flag s (R.cvoCh + 4 * k) 4 = false) ∧ rd s (timerReg n 0x0C) = 0 ∧ rd s (timerReg
      n 0x10) ≠ 0 ∧ rd s (timerReg n 0x14) ≠ 0) ∧
    (∃ (s : State) (n : Fin 16) (c k i : Nat), s.timers.length = 16 ∧ timerTicks s n = true ∧ s.time.onAo = true ∧ c = (timerOf s
      n).count.toNat ∧ k = tickSteps s ∧ 1 ≤ i ∧ i ≤ k ∧ flag s (timerReg n 0) 25 = false ∧ (∀ k, k < 8 → flag s (R.cvoCh + 4 * k) 4 =
      false) ∧ (rd s (timerReg n 0x0C) = 0 ∨ c + k ≤ (rd s (timerReg n 0x0C)).toNat) ∧ c + k < 2 ^ 32 ∧ (rd s (timerReg n 0x10)).toNat =
      c + i ∧ ((rd s (timerReg n 0x14)).toNat ≤ c ∨ c + k < (rd s (timerReg n 0x14)).toNat)) ∧
    (∃ (s : State) (n : Fin 16) (c k per : Nat), (∀ i, 1 ≤ i → i ≤ k → (rd s (timerReg n 0x10)).toNat ≠ (c + i) % (per + 1) ∧ (rd s
      (timerReg n 0x14)).toNat ≠ (c + i) % (per + 1)) ∧ s.timers.length = 16 ∧ timerTicks s n = true ∧ s.time.onAo = true ∧ c = (timerOf
      s n).count.toNat ∧ k = tickSteps s ∧ per = (rd s (timerReg n 0x0C)).toNat ∧ flag s (timerReg n 0) 25 = false ∧ (∀ k, k < 8 → flag
      s (R.cvoCh + 4 * k) 4 = false) ∧ per ≠ 0 ∧ c ≤ per ∧ per < c + k ∧ k ≤ per + 1 ∧ per + 1 < 2 ^ 32) ∧
    (∃ (s : State) (n : Fin 16) (c k : Nat), (∀ i, 1 ≤ i → i ≤ k → (rd s (timerReg n 0x10)).toNat ≠ (c + i) % 2 ^ 32 ∧ (rd s (timerReg n
      0x14)).toNat ≠ (c + i) % 2 ^ 32) ∧ s.timers.length = 16 ∧ timerTicks s n = true ∧ s.time.onAo = true ∧ c = (timerOf s
      n).count.toNat ∧ k = tickSteps s ∧ flag s (timerReg n 0) 25 = false ∧ (∀ k, k < 8 → flag s (R.cvoCh + 4 * k) 4 = false) ∧ rd s
      (timerReg n 0x0C) = 0 ∧ 2 ^ 32 ≤ c + k ∧ k < 2 ^ 32) :=
  ⟨
   ⟨{ up [(timerReg 0 0x10, 5)] with timers := (List.replicate 16 {}).set 0 { count := 4, released := true }, time := {} }, 0, 4,
     by decide⟩,
   ⟨{ up [(timerReg 15 0x0C, 9), (timerReg 15 0x10, 5), (timerReg 15 0x14, 5)] with timers := (List.replicate 16 {}).set 15 { count := 9, released := true }, time := {} },
     15, 9, 0, by decide⟩,
   ⟨{ up [(timerReg 0 0x10, 5), (timerReg 0 0x14, 5)] with timers := (List.replicate 16 {}).set 0 { count := 0xFFFFFFFF, released := true }, time := {} },
     0, by decide⟩,
   ⟨{ up [(timerReg 0 0x10, 10)] with timers := (List.replicate 16 {}).set 0 { count := 4, released := true }, time := { onAo := true } },
     0, 4, 6, 6, by decide⟩,
   ⟨{ up [(timerReg 0 0x0C, 7), (timerReg 0 0x10, 9), (timerReg 0 0x14, 9)] with timers := (List.replicate 16 {}).set 0 { count := 4, released := true }, time := { onAo := true } },
     0, 4, 6, 7, upTo (by decide), by decide⟩,
   ⟨{ up [(timerReg 15 0x10, 9), (timerReg 15 0x14, 9)] with timers := (List.replicate 16 {}).set 15 { count := 0xFFFFFFFC, released := true }, time := { onAo := true } },
     15, 0xFFFFFFFC, 6, upTo (by decide), by decide⟩⟩

theorem witness_AudioChannelWrite :
    (∃ (s : State) (k : Fin 16) (v : Word), HostMayWrite s (R.dacCh + 4 * k) ∧ s.analog.dac.length = 16 ∧ bits v 2 1 ≤ 2 ∧ ((dacOf s
      k).open? = false ∨ bits v 2 1 = fld s (R.dacCh + 4 * k) 2 1)) ∧
    (∃ (s : State) (k : Fin 16) (v : Word), HostMayWrite s (R.dacCh + 4 * k) ∧ bits v 2 1 ≤ 2 ∧ (dacOf s k).open? = true ∧ bits v 2 1 ≠
      fld s (R.dacCh + 4 * k) 2 1) ∧
    (∃ (s : State) (k : Fin 16) (v : Word), HostMayWrite s (R.dacCh + 4 * k) ∧ bits v 2 1 = 3) :=
  ⟨
   ⟨up [], 15, 5, may (by decide), by decide⟩,
   ⟨{ up [] with analog := { dac := (List.replicate 16 {}).set 0 { open? := true } } }, 0, 2, may (by decide), by decide⟩,
   ⟨up [], 0, 6, may (by decide), by decide⟩⟩

theorem witness_AudioMuteAndPark :
    (∃ (s : State) (k : Fin 16), s.analog.dac.length = 16 ∧ (dacOf s k).open? = true ∧ (dacOf s k).kappa ≠ kappaTarget s k ∧ kappaNext s
      k = kappaTarget s k) ∧
    (∃ (s : State) (k : Fin 16), s.analog.dac.length = 16 ∧ (dacOf s k).open? = true ∧ (dacOf s k).kappa = 4096 ∧ 15 ≤ (dacOf s k).stood
      ∧ flag s (R.dacCh + 4 * k) 3 = true ∧ muteCause s k = true) :=
  ⟨
   ⟨{ up [] with analog := { dac := (List.replicate 16 {}).set 15 { open? := true, kappa := 1 } } }, 15, by decide⟩,
   ⟨{ up [(R.dacCh, 9)] with analog := { dac := (List.replicate 16 {}).set 0 { open? := true, kappa := 4096, stood := 15 } } }, 0,
     by decide⟩⟩

theorem witness_MonitorCorrects :
    (∃ (s : State) (m : Measurement) (k : Nat) (T : Int), T = max (-32767) (min 32767 ((dacOf s k).trun - max (-8) (min 8 (rne
      (m.sum.toInt - s.analog.monSum) (2 * 1024 * 256))))) ∧ flag s R.dacCfg 8 = true ∧ domainOn s 5 = true ∧ 1024 ≤ s.analog.monCount ∧
      s.analog.monitor = k ∧ k < 16 ∧ s.analog.dac.length = 16 ∧ s.analog.spoilt = false ∧ monitored s k = true ∧ (dacOf s k).open? =
      true) ∧
    (∃ (s : State) (m : Measurement) (k : Nat) (c : CvSt) (e x : Int), e = rne (m.sum.toInt - s.analog.monSum) 1024 ∧ x = rne
      (s.analog.monSum - 1024 * (spanZero (cvOf s k).span : Int)) 1024 ∧ c = (if flag s R.cvoCfg 8 then loadCorrection (cvOf s k) e x
      else cvOf s k) ∧ flag s R.dacCfg 8 = true ∧ domainOn s 5 = true ∧ 1024 ≤ s.analog.monCount ∧ s.analog.monitor = 16 + k ∧ k < 8 ∧
      s.analog.cv.length = 8 ∧ s.analog.spoilt = false ∧ monitored s (16 + k) = true ∧ cvState s k = 0 ∧ (cvOf s k).drift < 31 ∧
      c.orun.natAbs < 32767 ∧ c.grun.natAbs < 32767) ∧
    (∃ (s : State) (m : Measurement), flag s R.dacCfg 8 = true ∧ domainOn s 5 = true ∧ 1024 ≤ s.analog.monCount ∧ s.analog.spoilt =
      true) ∧
    (∃ (s : State) (m : Measurement), s.analog.monCount < 1024) :=
  ⟨
   ⟨{ up [(R.mixAout, 0x10000), (R.dacCfg, 0x100)] with analog := { dac := (List.replicate 16 {}).set 0 { open? := true }, monCount := 1024, monSum := 7 } },
     ⟨5⟩, 0, _, rfl, by decide⟩,
   ⟨{ up [(R.dacCfg, 0x100), (R.cvoCh, 1), (R.cvoStat, 0x80000000)] with analog := { monitor := 16, monCount := 1024, cv := (List.replicate 8 {}).set 0 { closed := false, a := 64 } } },
     ⟨5⟩, 0, _, _, _, rfl, rfl, rfl, by decide⟩,
   ⟨{ up [(R.dacCfg, 0x100)] with analog := { spoilt := true, monCount := 1024 } }, ⟨5⟩, by decide⟩,
   ⟨up [], ⟨5⟩, by decide⟩⟩

theorem witness_ControlVoltageWrite :
    (∃ (s : State) (k : Fin 8) (v : Word), HostMayWrite s (R.cvoCh + 4 * k) ∧ (bitOf v 4 = true → bits v 7 5 ≠ 0) ∧ (bits v 2 1 = fld s
      (R.cvoCh + 4 * k) 2 1 ∨ (cvEnabled s k = false ∧ cvState s k = 2)) ∧ s.analog.cv.length = 8) ∧
    (∃ (s : State) (k : Fin 8) (v : Word), HostMayWrite s (R.cvoCh + 4 * k) ∧ (bitOf v 4 = true → bits v 7 5 ≠ 0) ∧ bits v 2 1 ≠ fld s
      (R.cvoCh + 4 * k) 2 1 ∧ (cvEnabled s k = true ∨ cvState s k ≠ 2)) ∧
    (∃ (s : State) (k : Fin 8) (v : Word), HostMayWrite s (R.cvoCh + 4 * k) ∧ bitOf v 4 = true ∧ bits v 7 5 = 0 ∧ (bits v 2 1 = fld s
      (R.cvoCh + 4 * k) 2 1 ∨ (cvEnabled s k = false ∧ cvState s k = 2))) :=
  ⟨
   ⟨up [], 7, 1, may (by decide), by decide⟩,
   ⟨up [(R.cvoCh, 1)], 0, 3, may (by decide), by decide⟩,
   ⟨up [], 0, 0x10, may (by decide), by decide⟩⟩

theorem witness_ControlVoltageRamps :
    (∃ (s : State) (k : Fin 8), s.analog.cv.length = 8 ∧ parkCause s k = true ∧ (cvOf s k).closed = false ∧ min (cvOf s k).a (rampTop s)
      = 1) ∧
    (∃ (s : State) (k : Fin 8), s.analog.cv.length = 8 ∧ parkCause s k = false ∧ (cvOf s k).closed = false ∧ rampTop s ≤ (cvOf s k).a +
      1 ∧ (cvOf s k).a ≠ rampTop s) ∧
    (∃ (s : State) (k : Fin 8), s.analog.cv.length = 8 ∧ parkCause s k = true ∧ (cvOf s k).closed = false ∧ (cvOf s k).a = 0 ∧ 15 ≤
      (cvOf s k).hold) ∧
    (∃ (s : State) (k : Fin 8), s.analog.cv.length = 8 ∧ parkCause s k = false ∧ (cvOf s k).closed = true ∧ 63 ≤ (cvOf s k).settle) :=
  ⟨
   ⟨{ up [] with analog := { cv := (List.replicate 8 {}).set 7 { closed := false, a := 1 } } }, 7, by decide⟩,
   ⟨{ up [(R.cvoCh, 1), (R.cvoStat, 0x80000000)] with analog := { cv := (List.replicate 8 {}).set 0 { closed := false, a := 63 } } }, 0,
     by decide⟩,
   ⟨{ up [] with analog := { cv := (List.replicate 8 {}).set 7 { closed := false, hold := 15 } } }, 7, by decide⟩,
   ⟨{ up [(R.cvoCh, 1), (R.cvoStat, 0x80000000)] with analog := { cv := (List.replicate 8 {}).set 0 { settle := 63 } } }, 0, by decide⟩⟩

theorem witness_ControlVoltageRails :
    (∃ (s : State) (p n : Bool), s.analog.cv.length = 8 ∧ (p || n) = true) ∧
    (∃ (s : State), railOk s = false) :=
  ⟨
   ⟨up [], true, false, by decide⟩,
   ⟨up [], by decide⟩⟩

theorem witness_InputRegisters :
    (∃ (s : State) (run : Bool), HostMayWrite s R.adcCtrl ∧ s.analog.adc.length = 16) ∧
    (∃ (s : State) (n : Fin 16) (v m : Word), HostMayWrite s (adcChReg n) ∧ m = (if n.val < 8 then 0x1E else 0x3E) ∧ s.analog.adc.length
      = 16 ∧ (flag s R.adcCtrl 0 = false ∨ v &&& m = rd s (adcChReg n) &&& m)) ∧
    (∃ (s : State) (n : Fin 16) (v m : Word), HostMayWrite s (adcChReg n) ∧ m = (if n.val < 8 then 0x1E else 0x3E) ∧ flag s R.adcCtrl 0
      = true ∧ v &&& m ≠ rd s (adcChReg n) &&& m) ∧
    (∃ (s : State) (v : Word) (a : Nat), HostMayWrite s R.adcCdata ∧ flag s R.adcCtrl 0 = false ∧ a = fld s R.adcCaddr 8 0) ∧
    (∃ (s : State) (v : Word), HostMayWrite s R.adcCdata ∧ flag s R.adcCtrl 0 = true) ∧
    (∃ (s : State) (v : Word), HostMayWrite s R.adcCdelay ∧ flag s R.adcCtrl 0 = false ∧ bits v 23 16 ≤ 64 ∧ bits v 15 8 ≤ 64 ∧ bits v 7
      0 ≤ 64) ∧
    (∃ (s : State) (v : Word), HostMayWrite s R.adcCdelay ∧ flag s R.adcCtrl 0 = true) ∧
    (∃ (s : State) (v : Word), HostMayWrite s R.adcCdelay ∧ flag s R.adcCtrl 0 = false ∧ (64 < bits v 23 16 ∨ 64 < bits v 15 8 ∨ 64 <
      bits v 7 0)) :=
  ⟨
   ⟨up [], true, may (by decide), by decide⟩,
   ⟨up [], 8, 0x3F, _, may (by decide), rfl, by decide⟩,
   ⟨up [(R.adcCtrl, 1)], 0, 0x1C, _, may (by decide), rfl, by decide⟩,
   ⟨up [(R.adcCaddr, 511)], 5, 511, may (by decide), by decide⟩,
   ⟨up [(R.adcCtrl, 1)], 5, may (by decide), by decide⟩,
   ⟨up [], 0x404040, may (by decide), by decide⟩,
   ⟨up [(R.adcCtrl, 1)], 0x404040, may (by decide), by decide⟩,
   ⟨up [], 0x410000, may (by decide), by decide⟩⟩

theorem witness_ThresholdsCross :
    (∃ (s : State) (x : Fin 32) (tap : BitVec 40) (n u : Nat) (r : Int × Bool), u = nextSample s ∧ r = trimmed s n tap.toInt ∧ (∀ y, y /
      2 = n → Still s y) ∧ n = x.val / 2 ∧ s.analog.adc.length = 16 ∧ s.analog.det.length = 32 ∧ (rd s R.adcIbase).toNat % 4 = 0 ∧ s.ecc
      = [] ∧ canDeliver s n = true ∧ (adcOf s n).settle ≠ 1 ∧ (adcSet s n ≠ 3 ∨ (adcOf s n).settle = 0)) ∧
    (∃ (s : State) (x : Fin 32) (tap : BitVec 40) (n u : Nat) (r : Int × Bool), u = nextSample s ∧ r = trimmed s n tap.toInt ∧ (∀ y, y /
      2 = n → (detOf s y).windows = [] ∧ (evaluates s y = true → (detOf s y).last = none)) ∧ n = x.val / 2 ∧ s.analog.adc.length = 16 ∧
      s.analog.det.length = 32 ∧ (rd s R.adcIbase).toNat % 4 = 0 ∧ s.ecc = [] ∧ canDeliver s n = true ∧ evaluates s x = true) ∧
    (∃ (s : State) (x : Fin 32) (tap : BitVec 40) (n u a : Nat) (r : Int × Bool) (w w0 level : Int) (stamp : DWord), u = nextSample s ∧
      r = trimmed s n tap.toInt ∧ w = detValue s x r.1 ∧ a = R.adcTctl + 16 * x ∧ level = (rd s (R.adcTlevel + 16 * x)).toInt ∧ stamp =
      crossingStamp (w64 u - w64 (groupDelay s n) - w64 (valueStep s n)) (valueStep s n) w0 w level ∧ (∀ y, y / 2 = n → y ≠ x.val →
      Still s y) ∧ n = x.val / 2 ∧ s.analog.adc.length = 16 ∧ s.analog.det.length = 32 ∧ (rd s R.adcIbase).toNat % 4 = 0 ∧ s.ecc = [] ∧
      canDeliver s n = true ∧ evaluates s x = true ∧ (∀ v ∈ (detOf s x).windows, 1 < v.2.2) ∧ (detOf s x).last = some w0 ∧ flag s a 31 =
      false ∧ level ≤ w ∧ edgeSelected s x true = true ∧ (detOf s x).hold ≤ 1 ∧ fld s a 7 4 ≠ 0) ∧
    (∃ (s : State) (x : Fin 32) (tap : BitVec 40) (n u a : Nat) (r : Int × Bool) (w w0 low : Int) (stamp : DWord), u = nextSample s ∧ r
      = trimmed s n tap.toInt ∧ w = detValue s x r.1 ∧ a = R.adcTctl + 16 * x ∧ low = (rd s (R.adcTlevel + 16 * x)).toInt - (rd s
      (R.adcThyst + 16 * x)).toNat ∧ stamp = crossingStamp (w64 u - w64 (groupDelay s n) - w64 (valueStep s n)) (valueStep s n) w0 w low
      ∧ (∀ y, y / 2 = n → y ≠ x.val → Still s y) ∧ n = x.val / 2 ∧ s.analog.adc.length = 16 ∧ s.analog.det.length = 32 ∧ (rd s
      R.adcIbase).toNat % 4 = 0 ∧ s.ecc = [] ∧ canDeliver s n = true ∧ evaluates s x = true ∧ (detOf s x).windows = [] ∧ (detOf s
      x).last = some w0 ∧ flag s a 31 = true ∧ w < low ∧ edgeSelected s x false = true ∧ (detOf s x).hold ≤ 1 ∧ fld s a 7 4 = 0) :=
  ⟨
   ⟨{ up [(R.adcCtrl, 1), (adcChReg 15, 1)] with analog := { adc := (List.replicate 16 {}).set 15 { running := true } } }, 31, 0, 15, _,
     _, rfl, rfl, still (by decide), by decide⟩,
   ⟨{ up [(R.adcCtrl, 1), (adcChReg 0, 1), (R.adcTctl, 1)] with analog := { adc := (List.replicate 16 {}).set 0 { running := true }, det := (List.replicate 32 {}).set 0 {} } },
     0, 0, 0, _, _, rfl, rfl, bothOf (by decide), by decide⟩,
   ⟨{ up [(R.adcCtrl, 1), (adcChReg 0, 1), (R.adcTctl, 0x11)] with analog := { adc := (List.replicate 16 {}).set 0 { running := true }, det := (List.replicate 32 {}).set 0 { last := some (-1) } } },
     0, 0, 0, _, _, _, _, -1, _, _, rfl, rfl, rfl, rfl, rfl, rfl, stillBut (by decide), by decide⟩,
   ⟨{ up [(R.adcCtrl, 1), (adcChReg 0, 1), (R.adcTctl, 0x80000003), (R.adcTlevel, 10)] with analog := { adc := (List.replicate 16 {}).set 0 { running := true }, det := (List.replicate 32 {}).set 0 { last := some 10 } } },
     0, 0, 0, _, _, _, _, 10, _, _, rfl, rfl, rfl, rfl, rfl, rfl, stillBut (by decide), by decide⟩⟩

theorem witness_InputEvents :
    (∃ (s : State) (n : Fin 16) (tap : BitVec 40) (u : Nat) (r : Int × Bool), u = nextSample s ∧ r = trimmed s n tap.toInt ∧
      s.analog.adc.length = 16 ∧ s.analog.det.length = 32 ∧ (rd s R.adcIbase).toNat % 4 = 0 ∧ s.ecc = [] ∧ canDeliver s n = true ∧
      (adcOf s n).settle = 1) ∧
    (∃ (s : State) (n : Fin 16) (tap : BitVec 40), (canDeliver s n = false ∨ (adcOf s n).settle ≠ 1)) ∧
    (∃ (s : State) (n : Fin 16) (resets : Word) (now : DWord) (c : AdcSt), now = s.time.aoTime + (s.time.aoTime - s.time.epoch) % 2 ∧ c
      = { adcOf s n with holds := (adcOf s n).holds ++ [(now, 4 * (stageOneCode (adcOf s n) n (now - 2).toNat).sign)] } ∧
      s.analog.adc.length = 16 ∧ domainOn s 6 = true) ∧
    (∃ (s : State) (n : Fin 16) (resets : Word), domainOn s 6 = false) ∧
    (∃ (s : State) (x : Fin 32) (tap : BitVec 40) (n u a : Nat) (r : Int × Bool) (w w0 best : Int) (stamp : DWord) (rest : List (DWord ×
      Int × Nat)), u = nextSample s ∧ r = trimmed s n tap.toInt ∧ w = detValue s x r.1 ∧ a = R.adcTctl + 16 * x ∧ (∀ y, y / 2 = n → y ≠
      x.val → Still s y) ∧ n = x.val / 2 ∧ s.analog.adc.length = 16 ∧ s.analog.det.length = 32 ∧ (rd s R.adcIbase).toNat % 4 = 0 ∧ s.ecc
      = [] ∧ canDeliver s n = true ∧ watching s x = true ∧ (detOf s x).windows = (stamp, best, 1) :: rest ∧ (∀ v ∈ rest, 1 < v.2.2) ∧
      (evaluates s x = true → (detOf s x).last = some w0 ∧ (if flag s a 31 then (rd s (R.adcTlevel + 16 * x)).toInt - (rd s (R.adcThyst
      + 16 * x)).toNat ≤ w else w < (rd s (R.adcTlevel + 16 * x)).toInt))) ∧
    (∃ (s : State) (x : Fin 32) (tap : BitVec 40), (windowCloses s x = false ∨ canDeliver s (x.val / 2) = false)) ∧
    (∃ (s : State) (x : Fin 32), s.analog.det.length = 32 ∧ (detOf s x).hold = 1) ∧
    (∃ (s : State) (x : Fin 32), (detOf s x).hold ≠ 1) :=
  ⟨
   ⟨{ up [(R.adcCtrl, 1), (adcChReg 15, 1)] with analog := { adc := (List.replicate 16 {}).set 15 { running := true, settle := 1 } } },
     15, 0, _, _, rfl, rfl, by decide⟩,
   ⟨up [], 0, 0, by decide⟩,
   ⟨up [], 15, 5, _, _, rfl, rfl, by decide⟩,
   ⟨up [(R.pwrDomstat, 0xFFBF)], 0, 5, by decide⟩,
   ⟨{ up [(R.adcCtrl, 1), (adcChReg 0, 1), (R.adcTctl, 0x80000011)] with analog := { adc := (List.replicate 16 {}).set 0 { running := true }, det := (List.replicate 32 {}).set 0 { last := some (-1), windows := [(0, 0, 1)] } } },
     0, 0, 0, _, _, _, _, -1, 0, 0, [], rfl, rfl, rfl, rfl, stillBut (by decide), by decide⟩,
   ⟨up [], 31, 0, by decide⟩,
   ⟨{ up [] with analog := { adc := (List.replicate 16 {}).set 0 { running := true }, det := (List.replicate 32 {}).set 0 { hold := 1 } } },
     0, by decide⟩,
   ⟨up [], 31, by decide⟩⟩

theorem witness_SerialReceives :
    (∃ (s : State) (p : Fin 8) (q : BitVec 2) (b : Word), b = (if (spOf s p).rxPend.any (·.toNat < s.time.aoTime.toNat) then stagedBaud
      s p else (spOf s p).rxBaud) ∧ s.sp.length = 8 ∧ portsOn s = true ∧ flag s (spReg p 8) 0 = true ∧ (spOf s p).rxBusy = none ∧
      s.time.aoTime.toNat < 2 ^ 62) ∧
    (∃ (s : State) (p : Fin 8) (q : BitVec 2), (spOf s p).rxBusy.isSome = true) ∧
    (∃ (s : State) (p : Fin 8) (line : List Nat) (start : DWord) (n : Nat), n = decidedAt (spOf s p).rxBaud (!flag s (spReg p 0) 8) (0,
      0) 0 ∧ s.sp.length = 8 ∧ (spOf s p).rxBusy = some start ∧ (spOf s p).rxPend = none ∧ (nth (receivedOf s p line).bits 0 (true,
      false)).1 = true ∧ (afterStart s p start n).toNat < nowQuarter s + 4) ∧
    (∃ (s : State) (p : Fin 8) (line : List Nat) (start : DWord) (r : Received) (data : Nat), Heard s p line start r ∧ s.sp.length = 8 ∧
      (spOf s p).rxPend = none ∧ data < 2 ^ dataBits s p ∧ r.bits.map (·.1) = (sentBits s p data).take (1 + dataBits s p + parityBits s
      p) ∧ r.stop = true ∧ r.bits.any (·.2) = false ∧ r.noise = false ∧ ownDropped s p = false ∧ (spOf s p).muted = false ∧ (flag s
      (spReg p 0) 13 = true → data < 256) ∧ (spOf s p).flushed ≠ some s.time.aoTime ∧ flag s (spReg p 8) 4 = false ∧ (spOf s
      p).rxq.length < 128) ∧
    (∃ (s : State) (p : Fin 8) (line : List Nat) (start : DWord) (r : Received), Heard s p line start r ∧ s.sp.length = 8 ∧ (spOf s
      p).rxPend = none ∧ parityBits s p = 0 ∧ (∀ d ∈ r.bits, d = (false, false)) ∧ r.stop = false ∧ r.noise = false ∧ ownDropped s p =
      false ∧ (spOf s p).muted = false ∧ (spOf s p).flushed ≠ some s.time.aoTime ∧ flag s (spReg p 8) 4 = false ∧ (spOf s p).rxq.length
      < 128) ∧
    (∃ (s : State) (p : Fin 8) (line : List Nat) (start : DWord) (r : Received), Heard s p line start r ∧ s.sp.length = 8 ∧ (spOf s
      p).rxPend = none ∧ ownDropped s p = false ∧ (spOf s p).muted = false ∧ (flag s (spReg p 0) 13 = true → (nth r.bits 9 (true,
      false)).1 = false) ∧ (spOf s p).flushed ≠ some s.time.aoTime ∧ 128 ≤ (spOf s p).rxq.length ∧ flag s (spReg p 0x1C) 0 = false) ∧
    (∃ (s : State) (p : Fin 8) (line : List Nat) (start : DWord) (r : Received), Heard s p line start r ∧ s.sp.length = 8 ∧ (spOf s
      p).rxPend = none ∧ (spOf s p).muted = true ∧ (flag s (spReg p 0) 13 = true → (nth r.bits 9 (true, false)).1 = false)) ∧
    (∃ (s : State) (p : Fin 8) (line : List Nat) (start w : DWord) (r : Received), Heard s p line start r ∧ (∀ e, r.next = some e →
      w.toNat < (afterStart s p start e).toNat / 4) ∧ s.sp.length = 8 ∧ (spOf s p).rxPend = some w ∧ (spOf s p).muted = true ∧ (flag s
      (spReg p 0) 13 = true → (nth r.bits 9 (true, false)).1 = false)) ∧
    (∃ (s : State) (p : Fin 8) (line : List Nat) (start : DWord), (spOf s p).rxBusy = some start ∧ (nth (receivedOf s p line).bits 0
      (true, false)).1 = false ∧ nowQuarter s + 4 ≤ (afterStart s p start (receivedOf s p line).done).toNat) :=
  ⟨
   ⟨up [(spReg 7 8, 0x41)], 7, 3, _, rfl, by decide⟩,
   ⟨{ up [(spReg 0 8, 0x41)] with sp := (List.replicate 8 {}).set 0 { rxBusy := some 7 }, time := { aoTime := 0x1000000 } }, 0, 3,
     by decide⟩,
   ⟨{ up [] with sp := (List.replicate 8 {}).set 0 { rxBusy := some 7 }, time := { aoTime := 0x1000000 } }, 0, [0], 7, _, rfl,
     by decide⟩,
   ⟨{ up [] with sp := (List.replicate 8 {}).set 0 { rxBusy := some 7 }, time := { aoTime := 0x1000000 } }, 0, [786, 1573, 2359, 3146,
     3932, 4719, 5505, 6291, 7078], 7, _, 0x55, ⟨rfl, rfl, by decide, by decide⟩, by decide⟩,
   ⟨{ up [] with sp := (List.replicate 8 {}).set 0 { rxBusy := some 7 }, time := { aoTime := 0x1000000 } }, 0, [], 7, _, ⟨rfl, rfl,
     by decide, by decide⟩, by decide⟩,
   ⟨{ up [] with sp := (List.replicate 8 {}).set 0 { rxBusy := some 7, rxq := List.replicate 128 ⟨0, false, false, false, false, false, false, 0, 0x003126E9, 9⟩ }, time := { aoTime := 0x1000000 } },
     0, [], 7, _, ⟨rfl, rfl, by decide +kernel, by decide +kernel⟩, by decide +kernel⟩,
   ⟨{ up [(spReg 7 0, 0x2002)] with sp := (List.replicate 8 {}).set 7 { rxBusy := some 7, muted := true }, time := { aoTime := 0x1000000 } },
     7, [], 7, _, ⟨rfl, rfl, by decide, by decide⟩, by decide⟩,
   ⟨{ up [(spReg 7 0, 0x2002)] with sp := (List.replicate 8 {}).set 7 { rxBusy := some 7, muted := true, rxPend := some 3 }, time := { aoTime := 0x1000000 } },
     7, [], 7, 3, _, ⟨rfl, rfl, by decide, by decide⟩, fun e h => absurd (h.symm.trans (by decide)) (Option.some_ne_none e), by decide⟩,
   ⟨{ up [] with sp := (List.replicate 8 {}).set 0 { rxBusy := some 7 } }, 0, [], 7, by decide⟩⟩

theorem witness_SerialTransmits :
    (∃ (s u : State) (p : Fin 8) (echo : List Bool) (c : Instr) (e : TxEntry) (rest : List TxEntry) (b : Word) (g : Nat × Nat) (bs :
      List Bool), u = readyBaud s p ∧ c = (if (spOf s p).colls = 0 then .characterTransmit p echo else .collisionRetry p echo) ∧ b =
      (spOf u p).txBaud ∧ g = startTick u p ∧ bs = sentBits s p e.char.toNat ∧ s.sp.length = 8 ∧ txReady u p = true ∧ (spOf s p).txq = e
      :: rest ∧ collisionBit s p e.char.toNat echo = none ∧ (hearsItself s p = true → (spOf s p).rxPend = none)) ∧
    (∃ (s u : State) (p : Fin 8) (echo : List Bool) (c : Instr) (e : TxEntry) (rest : List TxEntry) (b : Word) (g : Nat × Nat) (i k :
      Nat), u = readyBaud s p ∧ c = (if (spOf s p).colls = 0 then .characterTransmit p echo else .collisionRetry p echo) ∧ b = (spOf u
      p).txBaud ∧ g = startTick u p ∧ k = i * oversampling b + (bitSamples b (!flag s (spReg p 0) 8)).2.2 ∧ s.sp.length = 8 ∧ txReady u
      p = true ∧ (spOf s p).txq = e :: rest ∧ collisionBit s p e.char.toNat echo = some i ∧ (spOf s p).rxPend = none) ∧
    (∃ (s : State) (p : Fin 8) (echo : List Bool) (c : Instr), (c = .characterTransmit p echo ∨ c = .collisionRetry p echo) ∧ txReady
      (readyBaud s p) p = false) :=
  ⟨
   ⟨{ up [(spReg 0 8, 0x42)] with sp := (List.replicate 8 {}).set 0 { txq := [⟨0x55, none⟩], txGrid := (0x4000000, 0) }, time := { aoTime := 0x1000000 } },
     _, 0, [], _, ⟨0x55, none⟩, [], _, _, _, rfl, rfl, rfl, rfl, rfl, by decide +kernel⟩,
   ⟨{ up [(spReg 0 0, 0x401), (spReg 0 8, 0x43)] with sp := (List.replicate 8 {}).set 0 { txq := [⟨0x55, none⟩], txGrid := (0x4000000, 0) }, time := { aoTime := 0x1000000 } },
     _, 0, [true], _, ⟨0x55, none⟩, [], _, _, 0, _, rfl, rfl, rfl, rfl, rfl, by decide +kernel⟩,
   ⟨up [], 0, [], .characterTransmit 0 [], Or.inl rfl, by decide⟩⟩

theorem witness_SerialRegisters :
    (∃ (s : State) (p : Fin 8) (v b : Word), HostMayWrite s (spReg p 4) ∧ b = v &&& 0x7FFFFFFF ∧ s.sp.length = 8 ∧ bits v 29 28 ≤ 2 ∧
      bits v 27 16 ≠ 0) ∧
    (∃ (s : State) (p : Fin 8) (v : Word), HostMayWrite s (spReg p 4) ∧ (bits v 29 28 = 3 ∨ bits v 27 16 = 0)) ∧
    (∃ (s : State) (p : Fin 8) (g : Nat × Nat) (c : Nat), g = gridFrom (spOf s p).txBaud (spOf s p).txGrid (match (spOf s p).txBusy with
      | some t => t.toNat | none => nowQuarter s) ∧ c = srcQuarters (stagedBaud s p) ∧ s.sp.length = 8 ∧ (txIdle s p = true ∨ flag s
      (spReg p 8) 1 = false)) ∧
    (∃ (s : State) (p : Fin 8), s.sp.length = 8 ∧ rxIdle s p = true) ∧
    (∃ (s : State) (p : Fin 8) (v : Word), HostMayWrite s (spReg p 8) ∧ s.sp.length = 8 ∧ flag s (spReg p 8) 0 = false ∧ bitOf v 0 =
      true ∧ bitOf v 4 = flag s (spReg p 8) 4) ∧
    (∃ (s : State) (p : Fin 8) (v : Word), HostMayWrite s (spReg p 8) ∧ s.sp.length = 8 ∧ flag s (spReg p 8) 0 = true ∧ bitOf v 0 =
      false ∧ bitOf v 4 = flag s (spReg p 8) 4) ∧
    (∃ (s : State) (p : Fin 8), HostMayWrite s (spReg p 0x18) ∧ s.sp.length = 8 ∧ flag s (spReg p 8) 4 = false) ∧
    (∃ (s : State) (p : Fin 8), HostMayWrite s (spReg p 0x18) ∧ s.sp.length = 8) ∧
    (∃ (s : State) (p : Fin 8), HostMayWrite s (spReg p 0x18) ∧ s.sp.length = 8) ∧
    (∃ (s : State) (p : Fin 8) (v : Word), HostMayWrite s (spReg p 0x38) ∧ s.sp.length = 8 ∧ fld s (spReg p 0) 18 17 = 1 ∧ (spOf s
      p).txq.length < 128) ∧
    (∃ (s : State) (p : Fin 8) (v : Word), HostMayWrite s (spReg p 0x38) ∧ (fld s (spReg p 0) 18 17 ≠ 1 ∨ 128 ≤ (spOf s p).txq.length)) ∧
    (∃ (s : State) (p : Fin 8) (e : RxEntry) (rest : List RxEntry), HostMayWrite s (spReg p 0x30) ∧ s.sp.length = 8 ∧ flag s (spReg p 0)
      16 = true ∧ flag s (spReg p 8) 4 = false ∧ (spOf s p).rxq = e :: rest) ∧
    (∃ (s : State) (p : Fin 8), HostMayWrite s (spReg p 0x30) ∧ ((spOf s p).rxq = [] ∨ flag s (spReg p 0) 16 = false)) :=
  ⟨
   ⟨up [], 7, 0x203126E9, _, may (by decide), rfl, by decide⟩,
   ⟨up [], 0, 0x303126E9, may (by decide), by decide⟩,
   ⟨up [], 0, _, _, rfl, rfl, by decide⟩,
   ⟨up [], 0, by decide⟩,
   ⟨up [], 0, 0x41, may (by decide), by decide⟩,
   ⟨up [(spReg 0 8, 0x41)], 0, 0x40, may (by decide), by decide⟩,
   ⟨up [], 7, may (by decide), by decide⟩,
   ⟨up [], 7, may (by decide), by decide⟩,
   ⟨up [], 7, may (by decide), by decide⟩,
   ⟨up [(spReg 0 0, 0x20001)], 0, 5, may (by decide), by decide⟩,
   ⟨up [], 0, 5, may (by decide), by decide⟩,
   ⟨{ up [(spReg 0 0, 0x10001)] with sp := (List.replicate 8 {}).set 0 { rxq := [⟨5, false, false, false, false, false, false, 0, 0x003126E9, 9⟩] }, time := { aoTime := 0x1000000 } },
     0, ⟨5, false, false, false, false, false, false, 0, 0x003126E9, 9⟩, [], may (by decide), by decide⟩,
   ⟨up [], 0, may (by decide), by decide⟩⟩

theorem witness_LinkTrains :
    (∃ (s : State), s.boot.interruptMode = true ∧ flag s R.linkAddr 31 = false ∧ fld s R.linkCfg 1 0 = 3 ∧ domainOn s 7 = true ∧
      blockFits s = true ∧ msCycles s 20 ≤ cyclesSince s s.sys.roleFrom) ∧
    (∃ (s : State) (l : Fin 4), s.links.length = 4 ∧ linkState s l = 1 ∧ s.sys.single = false ∧ domainOn s 7 = true) ∧
    (∃ (s : State) (l : Fin 4), (∀ t, (linkOf s l).helloAt = some t → symbolCycles s 500 ≤ cyclesSince s t) ∧ s.links.length = 4 ∧
      (linkState s l = 2 ∨ linkState s l = 3) ∧ s.sys.single = false) ∧
    (∃ (s : State) (l : Fin 4) (t : DWord), (linkOf s l).helloAt = some t ∧ cyclesSince s t < symbolCycles s 500) ∧
    (∃ (s : State) (a : Arrival) (l : Fin 4) (h : HelloPayload) (arrival : Word), Sound s a ∧ s.links.length = 4 ∧ a.link = l ∧
      linkState s l = 2 ∧ flag s R.linkAddr 31 = true ∧ h.fs.toNat = helloRate s ∧ h.mgr ≠ manages s l) ∧
    (∃ (s : State) (a : Arrival) (l : Fin 4) (h : HelloPayload) (arrival : Word), Sound s a ∧ s.links.length = 4 ∧ a.link = l ∧
      linkState s l = 2 ∧ flag s R.linkAddr 31 = true ∧ h.fs.toNat ≠ helloRate s ∧ manages s l = true) ∧
    (∃ (s : State) (a : Arrival) (l : Fin 4) (h : HelloPayload) (arrival : Word), Sound s a ∧ s.links.length = 4 ∧ a.link = l ∧
      linkState s l = 3 ∧ (linkOf s l).exch ≠ 7) ∧
    (∃ (s : State) (a : Arrival) (l : Fin 4) (h : HelloPayload) (arrival : Word) (p : Int), Sound s a ∧ s.links.length = 4 ∧ a.link = l
      ∧ linkState s l = 3 ∧ (linkOf s l).exch = 7 ∧ manages s l = false ∧ p = (linkOf s l).psum + (arrival - h.techo - h.thold).toInt ∧
      0 ≤ p ∧ p ≤ delayLimit s) ∧
    (∃ (s : State) (a : Arrival) (l : Fin 4) (h : HelloPayload) (arrival : Word) (p : Int), Sound s a ∧ s.links.length = 4 ∧ a.link = l
      ∧ linkState s l = 3 ∧ linkDir s l ≠ 0 ∧ (linkOf s l).exch = 7 ∧ p = (linkOf s l).psum + (arrival - h.techo - h.thold).toInt ∧
      (delayLimit s : Int) < p) ∧
    (∃ (s : State) (l : Fin 4), s.links.length = 4 ∧ linkState s l ≠ 0 ∧ linkState s l ≠ 6 ∧ linkDir s l ≠ 0 ∧ (linkState s l ≠ 5 ∨
      manages s l = false ∨ (linkOf s l).stream = none) ∧ msCycles s (trainingLimit (linkState s l) + 100) ≤ cyclesSince s (linkOf s
      l).since) ∧
    (∃ (s : State) (l : Fin 4), s.links.length = 4 ∧ linkState s l = 5 ∧ manages s l = true ∧ (linkOf s l).stream.isSome = true ∧
      msCycles s (trainingLimit 5 + 100) ≤ cyclesSince s (linkOf s l).since) ∧
    (∃ (s : State) (l : Fin 4), cyclesSince s (linkOf s l).since < msCycles s (trainingLimit (linkState s l) + 100)) ∧
    (∃ (s : State) (i : Arrival) (l : Fin 4) (a : BitVec 14) (p : BitVec 6) (d tiers : BitVec 2), InOrder s i ∧ s.links.length = 4 ∧
      i.link = l ∧ linkState s l = 4 ∧ manages s l = false ∧ upLink s = some l.val ∧ d = 1 ∧ p = 1 ∧ tiers ≠ 0) ∧
    (∃ (s : State) (i : Relayed) (l : Fin 4) (address : BitVec 16) (a : Nat) (h : HelloPayload) (at' : Word), InOrder s i.toArrival ∧ a
      = address.toNat % 16384 ∧ s.links.length = 4 ∧ i.link = l ∧ manages s l = true ∧ flag s R.linkAddr 30 = true ∧ peerAddr s l = a ∧
      linkState s l = 4 ∧ (linkOf s l).peer = some (h, at') ∧ h.hash = ownHash s) ∧
    (∃ (s : State) (i : Relayed) (l : Fin 4) (address : BitVec 16), InOrder s i.toArrival ∧ s.links.length = 4 ∧ i.link = l ∧ manages s
      l = true ∧ flag s R.linkAddr 30 = true ∧ s.sys.lossFrame = none) :=
  ⟨
   ⟨{ up [] with time := { aoTime := 491520 } }, by decide⟩,
   ⟨up [(lstatReg 3, 1)], 3, by decide⟩,
   ⟨{ up [(lstatReg 3, 2)] with time := { aoTime := 246 }, links := [{}, {}, {}, { helloAt := some 0 }] }, 3, fun _ h => Option.some.inj
     h ▸ (by decide), by decide⟩,
   ⟨{ up [(lstatReg 3, 2)] with time := { aoTime := 245 }, links := [{}, {}, {}, { helloAt := some 0 }] }, 3, 0, by decide⟩,
   ⟨up [(R.linkAddr, 0x80000001), (lstatReg 0, 2)], ⟨0, 0, true⟩, 0, { hello0 with fs := 1 }, 0, sound (by decide), by decide⟩,
   ⟨up [(R.linkAddr, 0x80000001), (R.linkLcfg, 2), (lstatReg 0, 2)], ⟨0, 0, true⟩, 0, { hello0 with fs := 15 }, 0, sound (by decide),
     by decide⟩,
   ⟨up [(lstatReg 0, 3)], ⟨0, 0, true⟩, 0, hello0, 0, sound (by decide), by decide⟩,
   ⟨{ up [(lstatReg 0, 3)] with links := [{ exch := 7 }, {}, {}, {}] }, ⟨0, 0, true⟩, 0, hello0, 31, 31, sound (by decide), by decide⟩,
   ⟨{ up [(R.linkLcfg, 1), (lstatReg 0, 3)] with links := [{ exch := 7 }, {}, {}, {}] }, ⟨0, 0, true⟩, 0, hello0, 32, 32, sound
     (by decide), by decide⟩,
   ⟨{ up [(R.linkLcfg, 1), (lstatReg 0, 4)] with time := { aoTime := 2482176 } }, 0, by decide⟩,
   ⟨{ up [(R.linkLcfg, 2), (lstatReg 0, 5)] with time := { aoTime := 0x8000000 }, links := [{ stream := some 0 }, {}, {}, {}] }, 0,
     by decide⟩,
   ⟨{ up [(R.linkLcfg, 1), (lstatReg 0, 4)] with time := { aoTime := 2482175 } }, 0, by decide⟩,
   ⟨up [(R.linkCfg, 0x00080017), (R.linkLcfg, 1), (lstatReg 0, 4)], ⟨0, 0, true⟩, 0, 5, 1, 1, 1, inOrder (by decide), by decide⟩,
   ⟨{ up [(R.linkAddr, 0xC0003FFF), (R.linkLcfg, 2), (lstatReg 0, 0x00050004)] with links := [{ peer := some (hello0, 0) }, {}, {}, {}] },
     ⟨⟨0, 0, true⟩, 5, false⟩, 0, 5, _, hello0, 0, inOrder (by decide), rfl, by decide⟩,
   ⟨up [(R.linkAddr, 0xC0003FFF), (R.linkLcfg, 2), (lstatReg 0, 6)], ⟨⟨0, 0, true⟩, 5, false⟩, 0, 5, inOrder (by decide), by decide⟩⟩

theorem witness_LinkPackets :
    (∃ (s : State) (l : Fin 4) (c : BitVec 2) (n : Byte), s.links.length = 4) ∧
    (∃ (s : State) (l : Fin 4) (q : Byte) (p : OutPkt) (rest : List OutPkt), s.links.length = 4 ∧ (linkOf s l).sent = p :: rest ∧ p.seq
      = q.toNat ∧ (∀ r ∈ rest, 128 ≤ (q.toNat + 256 - r.seq) % 256)) ∧
    (∃ (s : State) (l : Fin 4) (q : Byte) (c : Instr), (c = .nak l q ∨ (c = .replayTimeout l ∧ replayDue s l = true)) ∧ s.links.length =
      4 ∧ (linkOf s l).sent ≠ [] ∧ (linkOf s l).replays < 7 ∧ (∀ r ∈ (linkOf s l).sent, 128 ≤ (q.toNat + 256 - r.seq) % 256)) ∧
    (∃ (s : State) (l : Fin 4) (c : Instr) (cause : Word), ((c = .linkDown l ∧ cause = 0) ∨ (c = .replayTimeout l ∧ cause = 1 ∧
      replayDue s l = true ∧ (linkOf s l).replays = 7)) ∧ s.links.length = 4 ∧ 5 ≤ linkState s l ∧ manages s l = true ∧ flag s
      R.linkAddr 30 = true ∧ s.sys.lossFrame = none) ∧
    (∃ (s : State) (i : Arrival) (l : Fin 4) (hd : LinkHeader) (ps : List EvPacket), InOrder s i ∧ s.links.length = 4 ∧ i.link = l ∧
      linkState s l = 6 ∧ isWorker s = false ∧ ps ≠ []) ∧
    (∃ (s : State) (i : Arrival) (l u : Fin 4) (hd : LinkHeader) (ps : List EvPacket) (bs : List Byte), InOrder s i ∧ bs = (ps.map
      pktBytes).flatten ∧ s.links.length = 4 ∧ i.link = l ∧ linkState s l = 6 ∧ isWorker s = true ∧ hd.bcast = false ∧ hd.droot = true ∧
      upLink s = some u.val ∧ l ≠ u) ∧
    (∃ (s : State) (i : Relayed) (l : Fin 4) (frame : Word) (es : List WevEntry), InOrder s i.toArrival ∧ s.links.length = 4 ∧ i.link =
      l ∧ linkState s l = 6 ∧ manages s l = true ∧ isRoot s = true) ∧
    (∃ (s : State) (i : Relayed) (l u : Fin 4) (frame : Word) (es : List WevEntry), InOrder s i.toArrival ∧ s.links.length = 4 ∧ i.link
      = l ∧ linkState s l = 6 ∧ manages s l = true ∧ isRoot s = false ∧ upLink s = some u.val ∧ l ≠ u) ∧
    (∃ (s : State) (i : Relayed) (l u : Fin 4) (words : List Word) (b : Bool) (bs : List Byte), Sound s i.toArrival ∧ bs = (words.map
      fun w => leBytes 4 w.toNat).flatten ∧ s.links.length = 4 ∧ i.link = l ∧ linkState s l = 6 ∧ isWorker s = true ∧ upLink s = some
      u.val ∧ l ≠ u) ∧
    (∃ (s : State) (i : Relayed) (l : Fin 4) (words : List Word), Sound s i.toArrival ∧ s.links.length = 4 ∧ i.link = l ∧ linkState s l
      = 6 ∧ isWorker s = false ∧ traceLocked s = true) ∧
    (∃ (s : State) (v : Word) (dest u : Nat), HostMayWrite s R.linkRctl ∧ s.links.length = 4 ∧ bitOf v 0 = true ∧ bitOf v 1 = false ∧
      bitOf v 3 = false ∧ flag s R.linkRctl 2 = false ∧ dest = fld s R.linkRdest 13 0 ∧ isRoot s = true ∧ flag s R.linkAddr 30 = true ∧
      (s.sys.devices.any fun d => d.addr = dest) = true ∧ u = dest / 128 / 32 % 4) ∧
    (∃ (s : State) (v : Word), HostMayWrite s R.linkRctl ∧ bitOf v 0 = true ∧ bitOf v 3 = false ∧ flag s R.linkRctl 2 = false ∧ flag s
      R.linkRctl 3 = false ∧ isRoot s = false) ∧
    (∃ (s : State) (v : Word), HostMayWrite s R.linkRctl ∧ bitOf v 0 = true ∧ flag s R.linkRctl 2 = true) ∧
    (∃ (s : State), cyclesSince s s.sys.mailAt < msCycles s 1) ∧
    (∃ (s : State), flag s R.linkRctl 2 = true ∧ flag s R.linkRctl 3 = false ∧ msCycles s 1 ≤ cyclesSince s s.sys.mailAt) ∧
    (∃ (s : State) (i : Arrival) (l : Fin 4) (hd : LinkHeader) (err : BitVec 2) (offset data : Word), InOrder s i ∧ s.links.length = 4 ∧
      i.link = l ∧ 5 ≤ linkState s l ∧ forMe s hd = true ∧ isRoot s = true ∧ flag s R.linkRctl 1 = false ∧ flag s R.linkRctl 2 = true ∧
      flag s R.linkRctl 3 = false) ∧
    (∃ (s : State) (c : Instr) (i : Arrival) (retried : Bool), (linkState s i.link < 2 ∨ s.sys.single = true) ∧ arrivalOf c = some (i,
      retried)) ∧
    (∃ (s : State) (c : Instr) (i : Arrival) (retried : Bool) (l : Fin 4), s.links.length = 4 ∧ arrivalOf c = some (i, retried) ∧ i.link
      = l ∧ 2 ≤ linkState s l ∧ s.sys.single = false ∧ i.crcOk = false) ∧
    (∃ (s : State) (c : Instr) (i : Arrival) (l : Fin 4) (ahead : Nat), Sound s i ∧ ahead = (i.seq.toNat + 256 - (linkOf s l).expect) %
      256 ∧ s.links.length = 4 ∧ arrivalOf c = some (i, true) ∧ i.link = l ∧ ahead ≠ 0) :=
  ⟨
   ⟨up [], 0, 3, 7, by decide⟩,
   ⟨{ up [] with links := [{ sent := [⟨0x04, hd0, [], 5, 0⟩] }, {}, {}, {}] }, 0, 5, ⟨0x04, hd0, [], 5, 0⟩, [], by decide⟩,
   ⟨{ up [] with time := { aoTime := 2014 }, links := [{ sent := [⟨0x04, hd0, [], 5, 0⟩] }, {}, {}, {}] }, 0, 4, .replayTimeout 0,
     Or.inr ⟨rfl, by decide⟩, by decide⟩,
   ⟨{ up [(R.linkCfg, 0x00080017), (R.linkAddr, 0xC0003FFF), (R.linkLcfg, 2), (lstatReg 0, 6)] with time := { aoTime := 2014 }, links := [{ sent := [⟨0x04, hd0, [], 5, 0⟩], replays := 7 }, {}, {}, {}] },
     0, .replayTimeout 0, 1, Or.inr ⟨rfl, rfl, by decide, by decide⟩, by decide⟩,
   ⟨up [(lstatReg 0, 6)], ⟨0, 0, true⟩, 0, hd0, [mkEvent 0 0x03 0 0 0], inOrder (by decide), by decide⟩,
   ⟨up [(R.linkCfg, 0x00080017), (R.linkAddr, 0x80000001), (R.linkLcfg, 2), (R.linkLcfg + 0x40, 1), (lstatReg 0, 6), (lstatReg 1, 6)],
     ⟨0, 0, true⟩, 0, 1, { hd0 with droot := true }, [mkEvent 0 0x03 0 0 0], _, inOrder (by decide), rfl, by decide⟩,
   ⟨up [(R.linkCfg, 0x00080017), (R.linkAddr, 0xC0003FFF), (R.linkLcfg, 2), (lstatReg 0, 6)], ⟨⟨0, 0, true⟩, 5, false⟩, 0, 1, [],
     inOrder (by decide), by decide⟩,
   ⟨up [(R.linkCfg, 0x00080017), (R.linkAddr, 0x80000001), (R.linkLcfg, 2), (R.linkLcfg + 0x40, 1), (lstatReg 0, 6), (lstatReg 1, 6),
     (R.linkLcfg, 1), (R.linkLcfg + 0x40, 2)], ⟨⟨1, 0, true⟩, 5, false⟩, 1, 0, 1, [], inOrder (by decide), by decide⟩,
   ⟨up [(R.linkCfg, 0x00080017), (R.linkAddr, 0x80000001), (R.linkLcfg, 2), (R.linkLcfg + 0x40, 1), (lstatReg 0, 6), (lstatReg 1, 6)],
     ⟨⟨0, 0, true⟩, 5, false⟩, 0, 1, [1], true, _, sound (by decide), rfl, by decide⟩,
   ⟨up [(lstatReg 0, 6), (R.fuseWord + 8, 1)], ⟨⟨0, 0, true⟩, 5, false⟩, 0, [1], sound (by decide), by decide⟩,
   ⟨{ up [(R.linkCfg, 0x00080017), (R.linkAddr, 0xC0003FFF), (R.linkLcfg, 2), (lstatReg 0, 6), (R.linkRdest, 128)] with sys := { devices := [{ addr := 128, verbs := 0, depth := 1, link := 0, present := true, late := 0, joinReq := false, report := true }] } },
     1, 128, 0, may (by decide), by decide⟩,
   ⟨up [], 1, may (by decide), by decide⟩,
   ⟨up [(R.linkRctl, 4)], 1, may (by decide), by decide⟩,
   ⟨{ up [(R.linkRctl, 4)] with time := { aoTime := 24575 } }, by decide⟩,
   ⟨{ up [(R.linkRctl, 4)] with time := { aoTime := 24576 } }, by decide⟩,
   ⟨up [(R.linkCfg, 0x00080017), (R.linkAddr, 0xC0003FFF), (R.linkLcfg, 2), (lstatReg 0, 6), (R.linkRctl, 4)], ⟨0, 0, true⟩, 0,
     { hd0 with droot := true }, 0, 0, 7, inOrder (by decide), by decide⟩,
   ⟨up [], .hello ⟨0, 0, true⟩ hello0 0, ⟨0, 0, true⟩, false, Or.inl (by decide), by decide⟩,
   ⟨up [(lstatReg 0, 2)], .hello ⟨0, 0, false⟩ hello0 0, ⟨0, 0, false⟩, false, 0, by decide⟩,
   ⟨up [(lstatReg 0, 6)], .evt ⟨0, 1, true⟩ hd0 [], ⟨0, 1, true⟩, 0, _, sound (by decide), rfl, by decide⟩⟩

theorem witness_LinkFrames :
    (∃ (s : State) (i : Arrival) (l : Fin 4) (elapsed arrival : DWord) (new : Bool), Sound s i ∧ s.links.length = 4 ∧ i.link = l ∧
      manages s l = false ∧ linkState s l = 5 ∧ flag s R.linkCfg 3 = false) ∧
    (∃ (s : State) (i : Relayed) (l : Fin 4) (offset : Word) (bytes : List Byte), InOrder s i.toArrival ∧ s.links.length = 4 ∧ i.link =
      l ∧ manages s l = false ∧ linkState s l = 5 ∧ flag s R.linkCfg 2 = true ∧ imageComplete
      { s with image := { s.image with link := ((List.range bytes.length).zip bytes).foldl (fun m e => mapPut m (offset.toNat + e.1) e.2) s.image.link } }
      = true) ∧
    (∃ (s : State), s.links.length = 4 ∧ exportDue s = true ∧ exportInstant s 0 ≤ cyclesSince s s.time.epoch) ∧
    (∃ (s : State) (l : Fin 4), s.links.length = 4 ∧ exportDue s = true ∧ manages s l = true ∧ (linkOf s l).block = none ∧ exportInstant
      s 2 ≤ cyclesSince s s.time.epoch) ∧
    (∃ (s : State), isRoot s = true ∧ s.sys.lost ≠ []) ∧
    (∃ (s : State) (i : Arrival) (l : Fin 4) (elapsed arrival d : DWord), Sound s i ∧ d = arrival - BitVec.ofInt 64 (rne (fld s
      (lstatReg l) 15 8) 16) - elapsed - s.time.epoch ∧ i.link = l ∧ manages s l = false ∧ linkState s l = 6 ∧ flag s R.linkCfg 3 =
      false ∧ downLinks s = [] ∧ 1 < d.toInt.natAbs) ∧
    (∃ (s : State) (i : Arrival) (l : Fin 4) (elapsed arrival d : DWord), Sound s i ∧ d = arrival - BitVec.ofInt 64 (rne (fld s
      (lstatReg l) 15 8) 16) - elapsed - s.time.epoch ∧ i.link = l ∧ manages s l = false ∧ linkState s l = 6 ∧ flag s R.linkCfg 3 =
      false ∧ downLinks s = [] ∧ d.toInt.natAbs ≤ 1) ∧
    (∃ (s : State), s.links.length = 4 ∧ isRoot s = true ∧ s.time.epochSet = true) ∧
    (∃ (s : State) (i : Relayed) (l : Fin 4) (offset : Word) (b : Byte) (img : List (Nat × Byte)), InOrder s i.toArrival ∧ img = mapPut
      s.image.link offset.toNat b ∧ s.links.length = 4 ∧ i.link = l ∧ manages s l = false ∧ linkState s l = 5 ∧ flag s R.linkCfg 2 =
      true ∧ (∀ k, k < 4 → isDown s k = false) ∧ imageComplete { s with image := { s.image with link := img } } = false) ∧
    (∃ (s : State) (i : Relayed) (l : Fin 4) (f : FrmPayload), InOrder s i.toArrival ∧ i.link = l ∧ manages s l = false ∧ linkState s l
      = 6 ∧ isWorker s = true ∧ s.time.rendering = true ∧ s.time.step2 < f.frame.toNat ∧ f.frame.toNat ≤ s.time.frame) ∧
    (∃ (s : State) (l : Fin 4) (b : UpBlock), s.links.length = 4 ∧ manages s l = true ∧ linkState s l = 6 ∧ (linkOf s l).skip ≠ some
      b.frame.toNat) ∧
    (∃ (s : State) (l : Fin 4) (b : UpBlock), s.links.length = 4 ∧ manages s l = true ∧ linkState s l = 6 ∧ (linkOf s l).skip ≠ some
      b.frame.toNat) ∧
    (∃ (s : State) (l : Fin 4) (b : UpBlock) (ok : Bool), s.links.length = 4 ∧ manages s l = true ∧ linkState s l = 6 ∧ (linkOf s
      l).skip = some b.frame.toNat) ∧
    (∃ (s : State) (u : Fin 4) (k : Nat), k = exportFrameOf s ∧ s.links.length = 4 ∧ exportDue s = true ∧ exportCount s = 0 ∧ s.ecc = []
      ∧ s.sys.wev = [] ∧ upLink s = some u.val ∧ downLinks s = [] ∧ exportInstant s 0 ≤ cyclesSince s s.time.epoch) ∧
    (∃ (s : State) (u l : Fin 4) (k : Nat), k = exportFrameOf s ∧ s.links.length = 4 ∧ exportDue s = true ∧ exportCount s = 0 ∧ s.ecc =
      [] ∧ s.sys.wev = [] ∧ upLink s = some u.val ∧ downLinks s = [l.val] ∧ l ≠ u ∧ (linkOf s l).block = none ∧ (linkOf s l).nameNext =
      false ∧ exportInstant s 2 ≤ cyclesSince s s.time.epoch) ∧
    (∃ (s : State) (a : BitVec 14) (d : DeviceSt), isRoot s = true ∧ (s.sys.devices.find? fun d => d.addr = a.toNat && d.joinReq &&
      d.report && !d.present) = some d) ∧
    (∃ (s : State) (gone : List DeviceSt), gone = s.sys.devices.filter (fun d => s.sys.lost.any fun e => lostWith d e.1 e.2) ∧ isRoot s
      = true ∧ s.sys.lost ≠ [] ∧ s.phrases = [] ∧ s.sys.lossFrame = some (nextTake s)) :=
  ⟨
   ⟨up [(lstatReg 0, 5)], ⟨0, 0, true⟩, 0, 0, 1, true, sound (by decide), by decide⟩,
   ⟨{ up [(lstatReg 0, 5), (R.linkCfg, 4)] with image := { link := (List.range 512).map fun i => (i, if i = 9 then 2 else 0) } }, ⟨⟨0,
     0, true⟩, 5, false⟩, 0, 0, [0], inOrder (by decide +kernel), by decide +kernel⟩,
   ⟨{ up [(R.linkCfg, 0x17), (R.linkAddr, 0x90010001), (R.linkLcfg + 0x40, 1), (lstatReg 1, 6)] with time := { rendering := true, epochSet := true, frame := 1, step1 := 1, step2 := 1, aoTime := 134 } },
     by decide⟩,
   ⟨{ up [(R.linkCfg, 0x17), (R.linkAddr, 0x90010001), (R.linkLcfg + 0x40, 1), (lstatReg 1, 6), (R.linkLcfg, 2), (lstatReg 0, 6)] with time := { rendering := true, epochSet := true, frame := 1, step1 := 1, step2 := 1, aoTime := 133 } },
     0, by decide⟩,
   ⟨{ up [(R.linkCfg, 0x00080017), (R.linkAddr, 0xC0003FFF), (R.linkLcfg, 2), (lstatReg 0, 6)] with sys := { lost := [(5, 0)] } },
     by decide⟩,
   ⟨up [(lstatReg 0, 6)], ⟨0, 0, true⟩, 0, 0, 2, _, sound (by decide), rfl, by decide⟩,
   ⟨up [(lstatReg 0, 6)], ⟨0, 0, true⟩, 0, 0, 1, _, sound (by decide), rfl, by decide⟩,
   ⟨{ up [(R.linkCfg, 0x00080017), (R.linkAddr, 0xC0003FFF), (R.linkLcfg, 2), (lstatReg 0, 6)] with time := { epochSet := true } },
     by decide⟩,
   ⟨up [(lstatReg 0, 5), (R.linkCfg, 4)], ⟨⟨0, 0, true⟩, 5, false⟩, 0, 0, 1, _, inOrder (by decide), rfl, by decide⟩,
   ⟨{ up [(R.linkCfg, 0x00080017), (R.linkAddr, 0x80000001), (R.linkLcfg, 2), (R.linkLcfg + 0x40, 1), (lstatReg 0, 6), (lstatReg 1, 6)] with time := { rendering := true, epochSet := true, frame := 1, step1 := 1 } },
     ⟨⟨1, 0, true⟩, 5, false⟩, 1, ⟨1, 0, [], [], []⟩, inOrder (by decide), by decide⟩,
   ⟨up [(R.linkCfg, 0x00080017), (R.linkAddr, 0xC0003FFF), (R.linkLcfg, 2), (lstatReg 0, 6)], 0, ⟨0, 0, 0, [], [], []⟩, by decide⟩,
   ⟨up [(R.linkCfg, 0x00080017), (R.linkAddr, 0xC0003FFF), (R.linkLcfg, 2), (lstatReg 0, 6)], 0, ⟨0, 0, 0, [], [], []⟩, by decide⟩,
   ⟨{ up [(R.linkCfg, 0x00080017), (R.linkAddr, 0xC0003FFF), (R.linkLcfg, 2), (lstatReg 0, 6)] with links := [{ skip := some 0 }, {}, {}, {}] },
     0, ⟨0, 0, 0, [], [], []⟩, true, by decide⟩,
   ⟨{ up [(R.linkCfg, 0x17), (R.linkAddr, 0x90010001), (R.linkLcfg + 0x40, 1), (lstatReg 1, 6)] with time := { rendering := true, epochSet := true, frame := 1, step1 := 1, step2 := 1, aoTime := 134 } },
     1, _, rfl, by decide⟩,
   ⟨{ up [(R.linkCfg, 0x17), (R.linkAddr, 0x90010001), (R.linkLcfg + 0x40, 1), (lstatReg 1, 6), (R.linkLcfg, 2), (lstatReg 0, 6)] with time := { rendering := true, epochSet := true, frame := 1, step1 := 1, step2 := 1, aoTime := 133 } },
     1, 0, _, rfl, by decide⟩,
   ⟨{ up [(R.linkCfg, 0x00080017), (R.linkAddr, 0xC0003FFF), (R.linkLcfg, 2), (lstatReg 0, 6)] with sys := { devices := [{ addr := 5, verbs := 0, depth := 1, link := 0, present := false, late := 0, joinReq := true, report := true }] } },
     5, { addr := 5, verbs := 0, depth := 1, link := 0, present := false, late := 0, joinReq := true, report := true }, by decide⟩,
   ⟨{ up [(R.linkCfg, 0x00080017), (R.linkAddr, 0xC0003FFF), (R.linkLcfg, 2), (lstatReg 0, 6)] with sys := { lost := [(5, 0)], lossFrame := some 1 } },
     _, rfl, by decide⟩⟩

theorem witness_AudioPorts :
    (∃ (s : State) (p : Fin 4) (slots ws : List Word) (lastBit : DWord) (u : Nat), u = daiTime s p lastBit.toNat ∧ ws = (List.range
      16).map (daiSample s p slots) ∧ (daiController s p = true ∨ daiTaken s p u = false ∨ (daiNoClk s p = true ∧ ((daiOf s p).due.any
      fun f => daiTime s p f.1 = u) = false)) ∧ s.dai.length = 4 ∧ s.ecc = [] ∧ (rd s R.daiIbase).toNat % 4 = 0 ∧ domainOn s 7 = true ∧
      daiRx s p = true ∧ slots.length = daiSlots s p ∧ u ≤ nowSample s) ∧
    (∃ (s : State) (p : Fin 4) (slots ws : List Word) (lastBit : DWord) (u : Nat), u = daiTime s p lastBit.toNat ∧ ws = (List.range
      16).map (daiSample s p slots) ∧ s.dai.length = 4 ∧ s.ecc = [] ∧ (rd s R.daiIbase).toNat % 4 = 0 ∧ domainOn s 7 = true ∧ daiRx s p
      = true ∧ slots.length = daiSlots s p ∧ u ≤ nowSample s ∧ daiController s p = false ∧ daiNoClk s p = false ∧ daiTaken s p u = true
      ∧ (daiOf s p).slipFrame ≠ some (frameNow s)) ∧
    (∃ (s : State) (p : Fin 4) (slots : List Word) (lastBit : DWord) (u : Nat), u = daiTime s p lastBit.toNat ∧ s.dai.length = 4 ∧
      domainOn s 7 = true ∧ daiRx s p = true ∧ slots.length = daiSlots s p ∧ nowSample s < u ∧ (daiController s p = true ∨ daiTaken s p
      u = false)) ∧
    (∃ (s : State) (p : Fin 4) (slots : List Word) (lastBit : DWord) (u : Nat), u = daiTime s p lastBit.toNat ∧ s.dai.length = 4 ∧
      domainOn s 7 = true ∧ daiRx s p = true ∧ slots.length = daiSlots s p ∧ nowSample s < u ∧ daiController s p = false ∧ daiNoClk s p
      = false ∧ daiTaken s p u = true ∧ (daiOf s p).slipFrame ≠ some (frameNow s)) ∧
    (∃ (s : State) (p : Fin 4) (slots : List Word) (lastBit : DWord), (domainOn s 7 = false ∨ slots.length ≠ daiSlots s p)) ∧
    (∃ (s : State) (p : Fin 4) (slots : List Word) (lastBit begins : DWord) (c : Instr), ((c = .portFrameIn p slots lastBit ∧
      slots.length = daiSlots s p ∧ daiRx s p = false) ∨ (c = .portFrameOut p begins ∧ (daiTx s p = false ∨ begins.toNat < 256 ∨
      (daiController s p = true ∧ (begins.toNat % 256 ≠ 0 ∨ (daiOf s p).lastV = some (begins.toNat / 256 - 1)))))) ∧ s.dai.length = 4 ∧
      domainOn s 7 = true ∧ daiNoClk s p = false) ∧
    (∃ (s : State) (p : Fin 4) (slots : List Word) (lastBit : DWord), s.dai.length = 4 ∧ domainOn s 7 = true ∧ daiRx s p = false ∧
      slots.length = daiSlots s p ∧ daiNoClk s p = true) ∧
    (∃ (s : State) (p : Fin 4) (begins : DWord) (v : Nat), ((daiController s p = true ∧ begins.toNat % 256 = 0 ∧ (daiOf s p).lastV ≠
      some v) ∨ (daiController s p = false ∧ ∀ last, (daiOf s p).lastV = some last → v = last + 1)) ∧ s.dai.length = 4 ∧ s.ecc = [] ∧
      (rd s R.daiIbase).toNat % 4 = 0 ∧ (rd s R.adcIbase).toNat % 4 = 0 ∧ domainOn s 7 = true ∧ daiTx s p = true ∧ begins.toNat / 256 =
      v + 1 ∧ daiNoClk s p = false) ∧
    (∃ (s : State) (p : Fin 4) (begins : DWord) (v last : Nat), s.dai.length = 4 ∧ s.ecc = [] ∧ (rd s R.daiIbase).toNat % 4 = 0 ∧ (rd s
      R.adcIbase).toNat % 4 = 0 ∧ domainOn s 7 = true ∧ daiTx s p = true ∧ begins.toNat / 256 = v + 1 ∧ daiNoClk s p = false ∧
      daiController s p = false ∧ (daiOf s p).lastV = some last ∧ v ≠ last + 1 ∧ (daiOf s p).slipFrame ≠ some (frameNow s)) ∧
    (∃ (s : State) (p : Fin 4) (begins : DWord), domainOn s 7 = false) ∧
    (∃ (s : State) (p : Fin 4), s.dai.length = 4 ∧ domainOn s 7 = true ∧ daiController s p = false ∧ daiNoClk s p = false ∧ 2 *
      tclkPerSample s ≤ cyclesSince s (daiOf s p).edgeAt) ∧
    (∃ (s : State) (p : Fin 4), (domainOn s 7 = false ∨ daiController s p = true ∨ daiNoClk s p = true ∨ cyclesSince s (daiOf s
      p).edgeAt < 2 * tclkPerSample s)) :=
  ⟨
   ⟨{ up [(daiReg R.daiCtl 0, 1)] with dai := [{}, {}, {}, {}], time := { aoTime := 1024 } }, 0, [1, 2], _, 0, _, rfl, rfl, Or.inr
     (Or.inl (by decide)), by decide⟩,
   ⟨{ up [(daiReg R.daiCtl 0, 1)] with dai := [{ lastU := some 1 }, {}, {}, {}], time := { aoTime := 1024 } }, 0, [1, 2], _, 0, _, rfl,
     rfl, by decide⟩,
   ⟨{ up [(daiReg R.daiCtl 0, 1)] with dai := [{}, {}, {}, {}] }, 0, [1, 2], 0, _, rfl, by decide⟩,
   ⟨{ up [(daiReg R.daiCtl 0, 1)] with dai := [{ lastU := some 1 }, {}, {}, {}] }, 0, [1, 2], 0, _, rfl, by decide⟩,
   ⟨up [], 0, [], 0, by decide⟩,
   ⟨{ up [] with dai := [{}, {}, {}, {}] }, 0, [], 0, 255, .portFrameOut 0 255, Or.inr ⟨rfl, Or.inr (Or.inl (by decide))⟩, by decide⟩,
   ⟨{ up [(daiReg R.daiCtl 0, 0), (daiReg R.daiStat 0, 4)] with dai := [{}, {}, {}, {}] }, 0, [1, 2], 0, by decide⟩,
   ⟨{ up [(daiReg R.daiCfg 0, 0x50), (daiReg R.daiCtl 0, 2)] with dai := [{}, {}, {}, {}] }, 0, 256, 0, Or.inl (by decide), by decide⟩,
   ⟨{ up [(daiReg R.daiCtl 0, 2)] with dai := [{ lastV := some 5 }, {}, {}, {}] }, 0, 256, 0, 5, by decide⟩,
   ⟨up [(R.pwrDomstat, 0xFF7F)], 3, 0, by decide⟩,
   ⟨{ up [] with time := { aoTime := 1024 } }, 3, by decide⟩,
   ⟨up [(daiReg R.daiCfg 0, 0x50)], 0, by decide⟩⟩

theorem witness_MemoryUpkeep :
    (∃ (s : State) (a k : Nat) (rest : List Nat) (d : DWord), s.boot.cleared = true ∧ s.memint.scrub = a :: rest ∧ a % 8 = 0 ∧ readWord
      s a = .corrected d k) ∧
    (∃ (s : State) (a : Nat) (rest : List Nat) (d : DWord), s.boot.cleared = true ∧ s.memint.scrub = a :: rest ∧ readWord s a = .good d) ∧
    (∃ (s : State), (s.memint.scrub = [] ∨ s.boot.cleared = false)) ∧
    (∃ (s : State) (fails : Bool) (sf : List Bool), (fld s R.memBtctl 15 8 ≤ s.memint.begun ∨ dueRow s = none)) ∧
    (∃ (s : State) (b r : Nat) (fails : Bool) (sf : List Bool), s.memint.begun < fld s R.memBtctl 15 8 ∧ s.ecc = [] ∧ dueRow s = some
      (b, r) ∧ rowHoldable s b = true ∧ (fails = false ∨ flag s R.pwrDomen (bankDomain b) = false)) ∧
    (∃ (s : State) (b r v : Nat) (fails : Bool) (sf : List Bool), s.memint.begun < fld s R.memBtctl 15 8 ∧ dueRow s = some (b, r) ∧
      bankVerb b = some v ∧ flag s R.parserVstat (16 + v) = false) ∧
    (∃ (s : State) (b r k : Nat) (spares : List Nat), s.memint.begun < fld s R.memBtctl 15 8 ∧ s.ecc = [] ∧ b < 72 ∧ r < 4096 ∧ dueRow s
      = some (b, r) ∧ rowHoldable s b = true ∧ flag s R.pwrDomen (bankDomain b) = true ∧ freeSpares s b = k :: spares ∧ (∀ j, j < 8 →
      spareHalf s b j ≠ 0x8000 + r) ∧ s.nvm.desc = none ∧ s.nvm.op = none ∧ flag s R.pwrStat 5 = false) ∧
    (∃ (s : State) (b r : Nat), s.memint.begun < fld s R.memBtctl 15 8 ∧ s.ecc = [] ∧ dueRow s = some (b, r) ∧ rowHoldable s b = true ∧
      flag s R.pwrDomen (bankDomain b) = true ∧ freeSpares s b = []) :=
  ⟨
   ⟨{ up [] with ecc := [(0x01440000, 1)], memint := { scrub := [0x01440000] } }, 0x01440000, 10, [], 0, by decide +kernel⟩,
   ⟨{ up [] with memint := { scrub := [0x01440000] } }, 0x01440000, [], 0, by decide⟩,
   ⟨up [], by decide⟩,
   ⟨{ up [] with memint := { begun := 4 } }, true, [], by decide⟩,
   ⟨up [], 0, 0, false, [], by decide⟩,
   ⟨{ up [(R.parserVstat, 0)] with memint := { nextBank := 24 } }, 24, 0, 0, true, [], by decide⟩,
   ⟨up [], 0, 0, 0, [1, 2, 3, 4, 5, 6, 7], by decide⟩,
   ⟨up [(R.memRmap, 0x80018002), (R.memRmap + 4, 0x80038004), (R.memRmap + 8, 0x80058006), (R.memRmap + 12, 0x80078008)], 0, 0,
     by decide⟩⟩

theorem witness_ResetsRestart :
    (∃ (s : State) (vin : BitVec 16), s.fuse.prog = none) ∧
    (∃ (s : State) (c : Instr) (cause : Nat), ((c = .pinReset ∧ cause = 2) ∨ (c = .softwareReset ∧ cause = 3 ∧ HostMayWrite s R.pwrCmd ∧
      flag s R.pwrStat 3 = false)) ∧ s.fuse.prog = none) ∧
    (∃ (s : State) (vin : BitVec 16), s.fuse.prog = none ∧ (2700 ≤ vin.toNat ∨ 2700 ≤ lastVin s) ∧ vin.toNat < 3900 ∧ lastVin s < 3900 ∧
      storeRunning s = false) ∧
    (∃ (s : State) (vin : BitVec 16), (2700 ≤ vin.toNat ∨ 2700 ≤ lastVin s) ∧ vin.toNat < 3900 ∧ lastVin s < 3900 ∧ storeRunning s =
      true) ∧
    (∃ (s : State) (vin : BitVec 16), vin.toNat < 2700 ∧ lastVin s < 2700) ∧
    (∃ (s : State) (vin : BitVec 16), (3900 ≤ vin.toNat ∨ 3900 ≤ lastVin s)) ∧
    (∃ (s : State) (vhold : BitVec 16) (ended : Bool) (kind slot seq : Nat) (record : List Byte) (host : Bool), s.power.vinLow = true ∧
      s.nvm.op = some (.store kind slot seq record host) ∧ s.fuse.prog = none) ∧
    (∃ (s : State) (vhold : BitVec 16) (ended : Bool), (s.power.vinLow = false ∨ storeRunning s = false)) :=
  ⟨
   ⟨up [], 5000, by decide⟩,
   ⟨up [], .softwareReset, 3, Or.inr ⟨rfl, rfl, may (by decide), by decide⟩, by decide⟩,
   ⟨up [], 3899, by decide⟩,
   ⟨{ up [] with nvm := { op := some (.store 1 0 1 [] true) } }, 2700, by decide⟩,
   ⟨up [(R.pwrVin, 2699)], 2699, by decide⟩,
   ⟨up [], 3900, by decide⟩,
   ⟨{ up [] with power := { vinLow := true }, nvm := { op := some (.store 1 0 1 [] true) } }, 9000, true, 1, 0, 1, [], true, by decide⟩,
   ⟨up [], 9000, true, by decide⟩⟩

theorem witness_SupplyMonitored :
    (∃ (s : State) (vin : BitVec 16), vin.toNat < 4350 ∧ lastVin s < 4350 ∧ flag s R.pwrStat 5 = false ∧ asleep s = false ∧ glossStoreOn
      s = false) ∧
    (∃ (s : State) (vin : BitVec 16), vin.toNat < 4350 ∧ lastVin s < 4350 ∧ flag s R.pwrStat 5 = false ∧ asleep s = true) ∧
    (∃ (s : State) (vin : BitVec 16), (4350 ≤ vin.toNat ∨ 4350 ≤ lastVin s ∨ flag s R.pwrStat 5 = true)) ∧
    (∃ (s : State) (vin : BitVec 16), 4450 < vin.toNat ∧ 4450 < lastVin s ∧ flag s R.pwrStat 5 = true ∧ asleep s = false ∧ s.evt.queue =
      []) ∧
    (∃ (s : State) (vin : BitVec 16), (vin.toNat ≤ 4450 ∨ lastVin s ≤ 4450 ∨ flag s R.pwrStat 5 = false) ∧ asleep s = false) ∧
    (∃ (s : State) (vin : BitVec 16), 4450 < vin.toNat ∧ 4450 < lastVin s ∧ flag s R.pwrStat 5 = true ∧ asleep s = true ∧ NoWake s) ∧
    (∃ (s : State) (t0 : DWord), s.power.warnAt = some t0 ∧ s.power.muted = false ∧ asleep s = false ∧ t0.toNat + msCycles s (fld s
      R.pwrBowait 9 0) ≤ s.time.aoTime.toNat) ∧
    (∃ (s : State), (s.power.warnAt = none ∨ s.power.muted = true ∨ asleep s = true ∨ (∃ t0, s.power.warnAt = some t0 ∧
      s.time.aoTime.toNat < t0.toNat + msCycles s (fld s R.pwrBowait 9 0)))) ∧
    (∃ (s : State) (mv : BitVec 16), s.boot.ready = true ∧ asleep s = false ∧ 14700 ≤ mv.toNat ∧ mv.toNat ≤ 15300) ∧
    (∃ (s : State) (mv : BitVec 16), (s.boot.ready = false ∨ asleep s = true)) ∧
    (∃ (s : State) (mv : BitVec 16), s.boot.ready = true ∧ asleep s = false ∧ (mv.toNat < 14700 ∨ 15300 < mv.toNat)) ∧
    (∃ (s : State), HostMayWrite s R.pwrVinmin) ∧
    (∃ (s : State) (v : Word), HostMayWrite s R.pwrDomen ∧ bitOf v 3 = true ∧ bitOf v 4 = true ∧ s.boot.complete = true ∧ s.power.entry
      = none ∧ domainOn s 3 = true) ∧
    (∃ (s : State) (v : Word), HostMayWrite s R.pwrDomen ∧ (bitOf v 3 = false ∨ bitOf v 4 = false ∨ (domainOn s 3 = false ∧ ∃ d ∈ [1, 2,
      4, 5, 6, 7], bitOf v d = true ∧ domainOn s d = false))) ∧
    (∃ (s : State) (v : Word), HostMayWrite s R.pwrPadrel ∧ bitOf v 5 = false ∧ (∀ d ∈ [3, 7], bitOf v d = true → domainOn s d = true ∧
      flag s R.pwrDomstat (8 + d) = true)) ∧
    (∃ (s : State) (v : Word) (d : Nat), HostMayWrite s R.pwrPadrel ∧ d ∈ [3, 5, 7] ∧ bitOf v d = true ∧ (domainOn s d = false ∨ flag s
      R.pwrDomstat (8 + d) = false)) :=
  ⟨
   ⟨up [], 4349, by decide⟩,
   ⟨up [(R.pwrStat, 2)], 4349, by decide⟩,
   ⟨up [], 4350, by decide⟩,
   ⟨up [(R.pwrStat, 0x20), (R.pwrVin, 4451)], 4451, by decide⟩,
   ⟨up [(R.pwrStat, 0x20)], 4450, by decide⟩,
   ⟨up [(R.pwrStat, 0x22), (R.pwrVin, 4451)], 4451, by decide⟩,
   ⟨{ up [] with power := { warnAt := some 0 }, time := { aoTime := 0x10000000 } }, 0, by decide⟩,
   ⟨up [], Or.inl rfl⟩,
   ⟨up [], 14700, by decide⟩,
   ⟨State.reset, 0, by decide⟩,
   ⟨up [], 14699, by decide⟩,
   ⟨up [], may (by decide)⟩,
   ⟨up [], 0xFF, may (by decide), by decide⟩,
   ⟨up [], 0xF7, may (by decide), by decide⟩,
   ⟨up [(R.pwrDomstat, 0x8FF)], 8, may (by decide), by decide⟩,
   ⟨up [], 8, 3, may (by decide), by decide⟩⟩

theorem witness_DeviceStates :
    (∃ (s : State), HostMayWrite s R.pwrCmd ∧ flag s R.pwrStat 3 = false ∧ devState s = 1 ∧ s.boot.complete = true) ∧
    (∃ (s : State), tapHolds s = false ∧ domainOn s (pageDomain R.pwrCmd) = true ∧ flag s R.pwrStat 3 = false ∧ asleep s = true ∧ flag s
      R.pwrWakeen 0 = true ∧ flag s R.pwrStat 5 = true ∧ s.power.waking = false) ∧
    (∃ (s : State), HostMayWrite s R.pwrCmd ∧ flag s R.pwrStat 3 = false ∧ devState s = 0 ∧ s.boot.complete = true ∧ quietReady s =
      true) ∧
    (∃ (s : State), HostMayWrite s R.pwrCmd ∧ flag s R.pwrStat 3 = false ∧ devState s = 0 ∧ s.boot.complete = true ∧ quietReady s =
      false) ∧
    (∃ (s : State) (c : Instr) (r : Nat), HostMayWrite s R.pwrCmd ∧ flag s R.pwrStat 3 = false ∧ s.boot.complete = true ∧ ((c = .sleep ∧
      r = 2) ∨ (c = .off ∧ r = 3))) ∧
    (∃ (s : State) (c : Instr), HostMayWrite s R.pwrCmd ∧ ((c = .run ∧ devState s = 0) ∨ (c = .quiet ∧ devState s = 1) ∨
      (s.boot.complete = false ∧ (c = .run ∨ c = .quiet ∨ c = .sleep ∨ c = .off)) ∨ (flag s R.pwrStat 3 = true ∧ (c = .run ∨ c = .quiet
      ∨ c = .sleep ∨ c = .off ∨ c = .softwareReset)))) ∧
    (∃ (s : State) (target : Nat), s.power.entry = some target ∧ (target = 2 ∨ target = 3) ∧ allParked s = true ∧ s.time.rendering =
      false ∧ NoWake s) ∧
    (∃ (s : State), (s.power.entry = none ∨ allParked s = false ∨ s.time.rendering = true) ∧ NoWake s) ∧
    (∃ (s : State) (sources : BitVec 24) (fails : BitVec 16), asleep s = false ∧ s.power.entry = none) ∧
    (∃ (s : State) (sources : BitVec 24) (fails : BitVec 16), ((asleep s = false ∧ s.power.entry.isSome = true) ∨ (asleep s = true ∧
      flag s R.pwrStat 5 = true ∧ s.power.waking = false))) ∧
    (∃ (s : State) (sources : BitVec 24) (fails : BitVec 16), asleep s = true ∧ tapHolds s = false ∧ flag s R.pwrStat 5 = false ∧
      s.boot.supplyFailed = false ∧ NoWake s ∧ wokenBy s sources ≠ 0) ∧
    (∃ (s : State) (sources : BitVec 24) (fails : BitVec 16), asleep s = true ∧ tapHolds s = false ∧ flag s R.pwrStat 5 = false ∧
      s.boot.supplyFailed = true ∧ NoWake s ∧ wokenBy s sources &&& 3 ≠ 0) ∧
    (∃ (s : State) (step : WakeStep) (a b c : Nat), asleep s = true ∧ tapHolds s = false ∧ s.boot.supplyFailed = false ∧ (flag s
      R.pwrStat 5 = false ∨ s.power.waking = true) ∧ ((step = .bucks ∧ s.power.retries = (a - 1, b, c) ∧ 1 ≤ a ∧ a ≤ 3) ∨ (step =
      .crystal ∧ flag s R.clkCtrl 4 = true ∧ s.power.retries = (a, b - 1, c) ∧ 1 ≤ b ∧ b ≤ 3) ∨ (step = .pll ∧ s.power.retries = (a, b,
      c - 1) ∧ 1 ≤ c ∧ c ≤ 3))) ∧
    (∃ (s : State) (step : WakeStep) (n : Nat), asleep s = true ∧ tapHolds s = false ∧ s.boot.supplyFailed = false ∧ (flag s R.pwrStat 5
      = false ∨ s.power.waking = true) ∧ ((step = .bucks ∧ n = 2 ∧ 3 ≤ s.power.retries.1) ∨ (step = .pll ∧ n = 4 ∧ 3 ≤
      s.power.retries.2.2))) ∧
    (∃ (s : State) (step : WakeStep), (asleep s = false ∨ tapHolds s = true ∨ s.boot.supplyFailed = true ∨ (flag s R.pwrStat 5 = true ∧
      s.power.waking = false) ∨ (step = .crystal ∧ flag s R.clkCtrl 4 = false))) :=
  ⟨
   ⟨up [(R.pwrStat, 1)], may (by decide), by decide⟩,
   ⟨up [(R.pwrStat, 0x22), (R.pwrWakeen, 1)], by decide⟩,
   ⟨up [], may (by decide), by decide⟩,
   ⟨{ up [] with analog := { cv := (List.replicate 8 {}).set 0 { closed := false } } }, may (by decide), by decide⟩,
   ⟨up [], .off, 3, may (by decide), by decide⟩,
   ⟨up [(R.pwrStat, 8)], .softwareReset, may (by decide), by decide⟩,
   ⟨{ up [] with power := { entry := some 3 } }, 3, by decide⟩,
   ⟨up [], by decide⟩,
   ⟨up [], 1, 0, by decide⟩,
   ⟨{ up [] with power := { entry := some 2 } }, 1, 0, by decide⟩,
   ⟨up [(R.pwrStat, 2), (R.pwrWakeen, 4)], 4, 0, by decide⟩,
   ⟨{ up [(R.pwrStat, 3), (R.pwrWakeen, 1)] with boot := { supplyFailed := true } }, 1, 0, by decide⟩,
   ⟨up [(R.pwrStat, 2)], .bucks, 1, 0, 0, by decide⟩,
   ⟨{ up [(R.pwrStat, 2)] with power := { retries := (0, 0, 3) } }, .pll, 4, by decide⟩,
   ⟨up [], .pll, by decide⟩⟩

theorem witness_BootRuns :
    (∃ (s : State) (c : Instr), ((∃ fails x44, c = .bootSequence fails x44) ∨ (∃ step x44, c = .bootTimeout step x44 ∧ step ≠ .alwaysOn
      ∧ step ≠ .regulators)) ∧ bootPending s = true) ∧
    (∃ (s : State) (fails : BitVec 16) (x44 : Bool), bootPending s = true ∧ s.flash.responds = false ∧ flag s R.linkCfg 2 = false) ∧
    (∃ (s : State) (x44 : Bool), bootPending s = true ∧ flag s R.linkCfg 2 = false) ∧
    (∃ (s : State) (step : BootStep) (n : Nat) (x44 : Bool), bootPending s = true ∧ s.boot.ready = false ∧ ((step = .alwaysOn ∧ n = 2) ∨
      (step = .regulators ∧ n = 3))) ∧
    (∃ (s : State) (step : BootStep) (x44 : Bool), s.boot.ready = true ∧ s.boot.reloading = false ∧ (step = .alwaysOn ∨ step =
      .regulators)) ∧
    (∃ (s : State) (fails : BitVec 16) (step : BootStep) (x44 : Bool), bootPending s = false) ∧
    (∃ (s : State) (v : Word), HostMayWrite s R.nvmReload ∧ v ≠ 0xA5C3) ∧
    (∃ (s : State), HostMayWrite s R.nvmReload ∧ s.boot.ready = true ∧ s.boot.reloading = false) ∧
    (∃ (s : State), HostMayWrite s R.nvmReload ∧ s.boot.reloading = true) ∧
    (∃ (s : State) (verbB : Bool) (d : Nat), d = (if verbB then 2 else 1) ∧ domainOn s 1 = true ∧ domainOn s 2 = true ∧ (∀ v ∈
      domainVerbs d, (verbOf s v).absent = true) ∧ s.boot.complete = true ∧ s.verbs.length = 16 ∧ s.ecc = []) ∧
    (∃ (s : State) (verbB : Bool) (d : Nat), d = (if verbB then 2 else 1) ∧ (domainOn s d = false ∨ (∃ v ∈ domainVerbs d, (verbOf s
      v).absent = false) ∨ s.boot.complete = false)) :=
  ⟨
   ⟨{ State.reset with power := { vinGood := some 0 }, time := { aoTime := 0x10000000 } }, .bootSequence 0 false, Or.inl ⟨0, false,
     rfl⟩, by decide⟩,
   ⟨{ wr State.reset R.linkCfg 3 with flash := { responds := false }, power := { vinGood := some 0 }, time := { aoTime := 0x10000000 } },
     0, false, by decide⟩,
   ⟨{ wr State.reset R.linkCfg 3 with power := { vinGood := some 0 }, time := { aoTime := 0x10000000 } }, true, by decide⟩,
   ⟨{ State.reset with power := { vinGood := some 0 }, time := { aoTime := 0x10000000 } }, .regulators, 3, true, by decide⟩,
   ⟨up [], .alwaysOn, false, by decide⟩,
   ⟨up [], 0, .discovery, false, by decide⟩,
   ⟨up [], 0xA5C2, may (by decide), by decide⟩,
   ⟨up [], may (by decide), by decide⟩,
   ⟨{ up [] with boot := { ready := true, reloading := true } }, may (by decide), by decide⟩,
   ⟨{ up [] with verbs := List.replicate 16 { absent := true } }, true, _, rfl, by decide⟩,
   ⟨up [], false, _, rfl, Or.inr (Or.inl ⟨0, by decide⟩)⟩⟩

theorem witness_StoreRecords :
    (∃ (s : State) (kind : Byte) (len : BitVec 13) (d : StoreDesc) (a size slot seq : Nat), HostMayWrite s R.nvmScmd ∧ 1 ≤ kind.toNat ∧
      kind.toNat ≤ 15 ∧ s.nvm.op = none ∧ flag s R.pwrStat 5 = false ∧ s.nvm.desc = some d ∧ slotPlace d kind.toNat 0 = some (a, size) ∧
      32 + len.toNat ≤ size ∧ len.toNat ≤ 4096 ∧ 3 * storeEnergy d len.toNat ≤ 2 * holdupEnergy d s.power.vhold ∧ (slot, seq) = (match
      newestRecord s kind.toNat with | some (k, q, _) => (1 - k, (q + 1) % 2 ^ 32) | none => (0, 1))) ∧
    (∃ (s : State) (kind : Byte) (len : BitVec 13) (r : Nat) (e : Word), HostMayWrite s R.nvmScmd ∧ ((r = 1 ∧ s.nvm.op.isSome = true ∧
      flag s R.pwrStat 5 = false) ∨ (r = 2 ∧ flag s R.pwrStat 5 = true) ∨ (r = 3 ∧ s.nvm.op = none ∧ flag s R.pwrStat 5 = false ∧ ∀ d,
      s.nvm.desc = some d → slotPlace d kind.toNat 0 = none) ∨ (r = 4 ∧ s.nvm.op = none ∧ flag s R.pwrStat 5 = false ∧ ∃ d a size,
      s.nvm.desc = some d ∧ slotPlace d kind.toNat 0 = some (a, size) ∧ (size < 32 + len.toNat ∨ 4096 < len.toNat))) ∧ e = w32 (match
      s.nvm.desc with | some d => holdupEnergy d s.power.vhold | none => 0) ∧ 1 ≤ kind.toNat ∧ kind.toNat ≤ 15 ∧ flag s R.nvmSstat 31 =
      false) ∧
    (∃ (s : State) (kind : Byte) (len : BitVec 13) (d : StoreDesc) (a size : Nat), HostMayWrite s R.nvmScmd ∧ 1 ≤ kind.toNat ∧
      kind.toNat ≤ 15 ∧ s.nvm.op = none ∧ flag s R.pwrStat 5 = false ∧ s.nvm.desc = some d ∧ slotPlace d kind.toNat 0 = some (a, size) ∧
      32 + len.toNat ≤ size ∧ len.toNat ≤ 4096 ∧ 2 * holdupEnergy d s.power.vhold < 3 * storeEnergy d len.toNat ∧ flag s R.nvmSstat 31 =
      false) ∧
    (∃ (s : State) (kind : Byte) (len : BitVec 13) (c : Instr), HostMayWrite s R.nvmScmd ∧ (kind.toNat = 0 ∨ 15 < kind.toNat) ∧ (c =
      .store kind len ∨ c = .newestRecordRead kind)) ∧
    (∃ (s : State) (kind : Byte) (k q : Nat) (p : List Byte), HostMayWrite s R.nvmScmd ∧ 1 ≤ kind.toNat ∧ kind.toNat ≤ 15 ∧ s.nvm.op =
      none ∧ newestRecord s kind.toNat = some (k, q, p) ∧ p.length ≤ 4096 ∧ flag s R.nvmSstat 31 = false) ∧
    (∃ (s : State) (kind : Byte) (r : Nat), HostMayWrite s R.nvmScmd ∧ 1 ≤ kind.toNat ∧ kind.toNat ≤ 15 ∧ ((r = 1 ∧ s.nvm.op.isSome =
      true) ∨ (r = 7 ∧ s.nvm.op = none ∧ newestRecord s kind.toNat = none))) ∧
    (∃ (s : State) (kind slot seq : Nat) (payload : List Byte) (d : StoreDesc) (a b size : Nat), (∀ i, i < size → flashByte s (a + i) =
      0xFF) ∧ s.nvm.op = some (.store kind slot seq (recordBytes kind seq payload) true) ∧ s.power.vinLow = false ∧ s.gloss.storeWaits =
      false ∧ streamDue s = false ∧ s.nvm.desc = some d ∧ slotPlace d kind slot = some (a, size) ∧ slotPlace d kind (1 - slot) = some
      (b, size) ∧ slot ≤ 1 ∧ (a + size ≤ b ∨ b + size ≤ a) ∧ kind ≤ 15 ∧ seq < 2 ^ 32 ∧ 32 + payload.length ≤ size ∧ payload.length < 2
      ^ 32 ∧ flag s R.nvmSstat 31 = false) ∧
    (∃ (s : State), (storeRunning s = false ∨ s.power.vinLow = true ∨ streamDue s = true)) :=
  ⟨
   ⟨{ up [] with nvm := { desc := some desc0 }, power := { vhold := 15000 } }, 15, 0, desc0, 0x100000, 4096, 0, 1, may (by decide),
     by decide⟩,
   ⟨up [], 1, 0, 3, _, may (by decide), Or.inr (Or.inr (Or.inl ⟨rfl, by decide, by decide, fun d h => nomatch h⟩)), rfl, by decide⟩,
   ⟨{ up [] with nvm := { desc := some desc0 } }, 15, 0, desc0, 0x100000, 4096, may (by decide), by decide⟩,
   ⟨up [], 16, 0, .store 16 0, may (by decide), by decide⟩,
   ⟨{ up [] with nvm := { desc := some desc0 }, flash := { bytes := (List.range 33).map (fun i ↦ (0x100000 + i, nth (recordBytes 15 1 [9]) i 0)) } },
     15, 0, 1, [9], may (by decide +kernel), by decide +kernel⟩,
   ⟨up [], 1, 7, may (by decide), by decide⟩,
   ⟨{ up [] with nvm := { op := some (.store 15 0 1 (recordBytes 15 1 [9]) true), desc := some desc0 } }, 15, 0, 1, [9], desc0,
     0x100000, 0x101000, 4096, fun i _ => rfl, by decide +kernel⟩,
   ⟨up [], by decide⟩⟩

theorem witness_FlashAccess :
    (∃ (s : State) (c : Instr) (op size : Nat), HostMayWrite s R.nvmFcmd ∧ ((c = .flashRead ∧ op = 1 ∧ size = 256) ∨ (c = .flashProgram
      ∧ op = 2 ∧ size = 256) ∨ (c = .flashErase ∧ op = 3 ∧ size = 4096)) ∧ (rd s R.nvmFaddr).toNat % size = 0 ∧ inStoreArea s (rd s
      R.nvmFaddr).toNat size = false ∧ s.nvm.op = none ∧ s.nvm.direct = none) ∧
    (∃ (s : State) (c : Instr) (size : Nat), HostMayWrite s R.nvmFcmd ∧ ((c = .flashRead ∧ size = 256) ∨ (c = .flashProgram ∧ size =
      256) ∨ (c = .flashErase ∧ size = 4096)) ∧ ((rd s R.nvmFaddr).toNat % size ≠ 0 ∨ inStoreArea s (rd s R.nvmFaddr).toNat size = true
      ∨ s.nvm.op.isSome = true ∨ s.nvm.direct.isSome = true)) ∧
    (∃ (s : State) (a : Nat), s.nvm.op = none ∧ s.nvm.direct = some (1, a) ∧ streamDue s = false ∧ flag s R.nvmFcmd 31 = false) ∧
    (∃ (s : State) (a : Nat), s.nvm.op = none ∧ s.nvm.direct = some (2, a) ∧ streamDue s = false ∧ a < flashSize s ∧ flag s R.nvmFcmd 31
      = false) ∧
    (∃ (s : State) (a : Nat), s.nvm.op = none ∧ s.nvm.direct = some (3, a) ∧ streamDue s = false ∧ flag s R.nvmFcmd 31 = false) ∧
    (∃ (s : State), (s.nvm.op.isSome = true ∨ s.nvm.direct = none ∨ streamDue s = true)) ∧
    (∃ (s : State), streamDue s = false) ∧
    (∃ (s : State) (i b : Nat) (ks : List Nat) (x : Wave), nextStream s = some (i, b, ks) ∧ s.image.waves[i]? = some (some x) ∧ s.ecc =
      []) :=
  ⟨
   ⟨up [(R.nvmFaddr, 0x1000)], .flashErase, 3, 4096, may (by decide), by decide⟩,
   ⟨up [(R.nvmFaddr, 0x100)], .flashErase, 4096, may (by decide), by decide⟩,
   ⟨{ up [] with nvm := { direct := some (1, 0) } }, 0, by decide⟩,
   ⟨{ up [] with nvm := { direct := some (2, 0xFFFF00) } }, 0xFFFF00, by decide⟩,
   ⟨{ up [] with nvm := { direct := some (3, 0xFFF000) } }, 0xFFF000, by decide⟩,
   ⟨up [], by decide⟩,
   ⟨up [], by decide⟩,
   ⟨{ up [] with phrases := [phr0], syns := [{ syn0 with words := [{ sw0 with typ := 0x0105 }] }], image := { waves := [some wave0], strSize := 4096, streams := [(0, 0, 0, 0)] } },
     0, 0, [0], wave0, by decide⟩⟩

theorem witness_GlossCommands :
    (∃ (s : State) (e : GlossEntry) (rest : List GlossEntry) (place : Nat), place = (if s.gloss.kcount < 256 then 0x015C0000 + 32 *
      s.gloss.kcount else 0x015C2000 + 32 * s.gloss.rhead) ∧ glossDirect s = true ∧ s.gloss.frozen = false ∧ s.gloss.storing = false ∧
      s.gloss.staging = e :: rest ∧ s.gloss.lost = none) ∧
    (∃ (s : State), (glossDirect s = false ∨ s.gloss.staging = [])) ∧
    (∃ (s : State) (c : Instr) (op : Nat), HostMayWrite s R.glossCmd ∧ glossDirect s = true ∧ ((c = .clearKept 0x6C35 ∧ op = 1) ∨ (c =
      .clearCirculating 0x6C35 ∧ op = 2) ∨ (c = .clearBoth 0x6C35 ∧ op = 3))) ∧
    (∃ (s : State) (c : Instr) (key : BitVec 16), HostMayWrite s R.glossCmd ∧ key ≠ 0x6C35 ∧ (c = .clearKept key ∨ c = .clearCirculating
      key ∨ c = .clearBoth key)) ∧
    (∃ (s : State), s.gloss.frozen = true ∧ s.gloss.storing = false ∧ s.gloss.gap = none) ∧
    (∃ (s : State) (g : GlossGap), s.gloss.frozen = true ∧ s.gloss.storing = false ∧ s.gloss.gap = some g ∧ glossDirect s = true ∧
      s.gloss.staging.length < 64) ∧
    (∃ (s : State) (v : Word), HostMayWrite s R.glossRate ∧ 1 ≤ bits v 25 16 ∧ bits v 25 16 ≤ 1000 ∧ bits v 7 0 ≠ 0) ∧
    (∃ (s : State) (v : Word), HostMayWrite s R.glossRate ∧ (bits v 25 16 = 0 ∨ 1000 < bits v 25 16 ∨ bits v 7 0 = 0)) ∧
    (∃ (s : State) (n : Fin 16) (v : Word), HostMayWrite s (R.glossOvr + 4 * n) ∧ bits v 15 12 ≠ 15) ∧
    (∃ (s : State) (n : Fin 16) (v : Word), HostMayWrite s (R.glossOvr + 4 * n) ∧ bits v 15 12 = 15) ∧
    (∃ (s : State), HostMayWrite s R.parserTrptr) ∧
    (∃ (s : State), HostMayWrite s R.parserWin) :=
  ⟨
   ⟨{ up [] with gloss := { reachable := true, staging := [⟨0, 0, 0x0100, 0, 0, 1, 2, 3⟩], kcount := 256 } }, ⟨0, 0, 0x0100, 0, 0, 1, 2,
     3⟩, [], _, rfl, by decide⟩,
   ⟨up [], by decide⟩,
   ⟨{ up [] with gloss := { reachable := true } }, .clearBoth 0x6C35, 3, may (by decide), by decide⟩,
   ⟨up [], .clearKept 0, 0, may (by decide), by decide⟩,
   ⟨{ up [] with gloss := { frozen := true } }, by decide⟩,
   ⟨{ up [] with gloss := { frozen := true, gap := some ⟨1, 0x0100, 0, 0⟩, reachable := true } }, ⟨1, 0x0100, 0, 0⟩, by decide⟩,
   ⟨up [], 0x03E80001, may (by decide), by decide⟩,
   ⟨up [], 0x03E90001, may (by decide), by decide⟩,
   ⟨up [], 15, 0xEFFF, may (by decide), by decide⟩,
   ⟨up [], 15, 0xF000, may (by decide), by decide⟩,
   ⟨up [], may (by decide)⟩,
   ⟨up [], may (by decide)⟩⟩

theorem witness_TestPort :
    (∃ (s : State) (c : Instr), (c = .idcode ∨ c = .testLogicReset) ∧ tapHolds s = false) ∧
    (∃ (s : State) (c : Instr) (ir : TapIr), ((c = .extest ∧ ir = .extest) ∨ (c = .clamp ∧ ir = .clamp) ∨ (c = .highz ∧ ir = .highz))) ∧
    (∃ (s : State) (pins preload : List Bool), tapHolds s = false) ∧
    (∃ (s : State), tapHolds s = false) ∧
    (∃ (s : State), tapHolds s = false) ∧
    (∃ (s : State), tapHolds s = true) ∧
    (∃ (s : State) (a : Word), CleanWord s a.toNat ∧ tapOpen s = true ∧ a.toNat % 4 = 0 ∧ inDiscard a.toNat = false) ∧
    (∃ (s : State) (a v : Word), CleanWord s a.toNat ∧ (∀ n, regionOf a.toNat = .verb n → (verbOf s n).halted = false) ∧ tapOpen s =
      true ∧ tapHolds s = false ∧ asleep s = false ∧ s.time.rendering = false ∧ a.toNat % 4 = 0 ∧ readsZero s a.toNat = false) ∧
    (∃ (s : State) (a v : Word), tapOpen s = true ∧ a.toNat % 4 ≠ 0) ∧
    (∃ (s : State) (a v : Word), tapOpen s = true ∧ tapHolds s = false ∧ a.toNat % 4 = 0 ∧ regionOf a.toNat = .none) ∧
    (∃ (s : State) (a v : Word), tapOpen s = false) :=
  ⟨
   ⟨up [], .idcode, by decide⟩,
   ⟨up [], .highz, .highz, by decide⟩,
   ⟨up [], [true], [false], by decide⟩,
   ⟨up [], by decide⟩,
   ⟨up [], by decide⟩,
   ⟨{ up [] with tap := { ir := .clamp } }, by decide⟩,
   ⟨{ up [] with tap := { ir := .dbgacc } }, 0x015FFFFC, clean (by decide), by decide⟩,
   ⟨{ up [] with tap := { ir := .dbgacc } }, 0x013FFFFC, 7, clean (by decide), fun n _ => awakeVerbs (by decide) n, by decide⟩,
   ⟨{ up [] with tap := { ir := .dbgacc } }, 3, 7, by decide⟩,
   ⟨{ up [] with tap := { ir := .dbgacc } }, 0x01600000, 7, by decide⟩,
   ⟨up [], 0, 7, by decide⟩⟩

theorem witness_VerbDebug :
    (∃ (s : State) (n : Fin 16) (atYield : Bool), HostMayWrite s (R.vdbgVctl + 0x40 * n) ∧ dbgLocked s = false ∧ s.verbs.length = 16 ∧
      (verbOf s n).halted = false ∧ (atYield = false ∨ (verbOf s n).running = false)) ∧
    (∃ (s : State) (n : Fin 16), HostMayWrite s (R.vdbgVctl + 0x40 * n) ∧ dbgLocked s = false ∧ s.verbs.length = 16 ∧ (verbOf s
      n).halted = false ∧ (verbOf s n).running = true) ∧
    (∃ (s : State) (n : Fin 16), HostMayWrite s (R.vdbgVctl + 0x40 * n) ∧ dbgLocked s = false ∧ s.verbs.length = 16 ∧ (verbOf s
      n).halted = true ∧ (verbOf s n).running = true ∧ (bankOfVerb s n).wf.isSome = true) ∧
    (∃ (s : State) (n : Fin 16), HostMayWrite s (R.vdbgVctl + 0x40 * n) ∧ dbgLocked s = false ∧ s.verbs.length = 16 ∧ (verbOf s
      n).abandoned = false ∧ (verbOf s n).halted = true ∧ (verbOf s n).running = true ∧ StepsDone s) ∧
    (∃ (s : State) (n : Fin 16), HostMayWrite s (R.vdbgVctl + 0x40 * n) ∧ dbgLocked s = false ∧ (verbOf s n).abandoned = true ∧ (verbOf
      s n).halted = true ∧ (verbOf s n).running = true) ∧
    (∃ (s : State) (n : Fin 16), HostMayWrite s (R.vdbgVctl + 0x40 * n) ∧ (dbgLocked s = true ∨ (verbOf s n).halted = false ∨ (verbOf s
      n).running = false)) ∧
    (∃ (s : State) (n : Fin 16) (c : Instr), HostMayWrite s (R.vdbgVctl + 0x40 * n) ∧ dbgLocked s = true ∧ ((c = .halt n false ∧ flag s
      (R.vdbgVctl + 0x40 * n) 0 = false) ∨ (c = .resume n ∧ flag s (R.vdbgVctl + 0x40 * n) 0 = true))) ∧
    (∃ (s : State) (n : Fin 16) (k : Nat), s.verbs.length = 16 ∧ (verbOf s n).running = true ∧ (verbOf s n).halted = false ∧ matchingBp
      s n = some k) ∧
    (∃ (s : State) (n : Fin 16), ((verbOf s n).running = false ∨ (verbOf s n).halted = true ∨ matchingBp s n = none)) ∧
    (∃ (s : State) (n : Fin 16) (v : Word), HostMayWrite s (R.vdbgVrdata + 0x40 * n) ∧ (verbOf s n).halted = true ∧ dbgLocked s = false
      ∧ s.verbs.length = 16 ∧ (bankOfVerb s n).wf = none) ∧
    (∃ (s : State) (n : Fin 16), HostMayWrite s (R.vdbgVrdata + 0x40 * n) ∧ (verbOf s n).halted = true ∧ dbgLocked s = false) ∧
    (∃ (s : State) (n : Fin 16) (v : Word), HostMayWrite s (R.vdbgVrdata + 0x40 * n) ∧ (verbOf s n).halted = false) :=
  ⟨
   ⟨up [], 15, true, may (by decide), by decide⟩,
   ⟨onVerb [] bank0, 0, may (by decide), by decide⟩,
   ⟨{ up [] with verbs := (List.replicate 16 {}).set 0 { bankA := bank0, running := true, halted := true } }, 0, may (by decide),
     by decide⟩,
   ⟨{ up [] with verbs := (List.replicate 16 {}).set 0 { bankA := bank0, running := true, halted := true } }, 0, may (by decide),
     by decide⟩,
   ⟨{ up [] with verbs := (List.replicate 16 {}).set 0 { bankA := bank0, running := true, halted := true, abandoned := true } }, 0, may
     (by decide), by decide⟩,
   ⟨up [], 15, may (by decide), by decide⟩,
   ⟨up [(R.fuseWord, 1)], 15, .halt 15 false, may (by decide), by decide⟩,
   ⟨onVerb [(R.vdbgVbp0 + 12, 0x80000000)] bank0, 0, 3, by decide⟩,
   ⟨up [], 15, by decide⟩,
   ⟨{ up [] with verbs := (List.replicate 16 {}).set 0 { bankA := {}, running := true, halted := true } }, 0, 7, may (by decide),
     by decide⟩,
   ⟨{ up [] with verbs := (List.replicate 16 {}).set 0 { bankA := bank0, running := true, halted := true } }, 0, may (by decide),
     by decide⟩,
   ⟨up [], 15, 7, may (by decide), by decide⟩⟩

theorem witness_FusesBlown :
    (∃ (s : State) (v : Word) (w : Nat), HostMayWrite s R.fusePctl ∧ bits v 31 16 = 0x3C96 ∧ w = bits v 3 0 ∧ flag s R.fusePstat 30 =
      false ∧ devState s = 1 ∧ flag s R.pwrStat 5 = false ∧ 5000 ≤ fld s R.pwrVin 15 0 ∧ fuseWord s w = 0 ∧ fuseErr s w = false ∧ (w = 0
      ∨ w = 2)) ∧
    (∃ (s : State) (v : Word) (w r : Nat), HostMayWrite s R.fusePctl ∧ bits v 31 16 = 0x3C96 ∧ w = bits v 3 0 ∧ flag s R.fusePstat 30 =
      false ∧ flag s R.fusePstat 31 = false ∧ ((r = 1 ∧ devState s ≠ 1 ∧ flag s R.nvmBoot 31 = false) ∨ (r = 2 ∧ devState s = 1 ∧ (flag
      s R.pwrStat 5 = true ∨ fld s R.pwrVin 15 0 < 5000)) ∨ (r = 3 ∧ devState s = 1 ∧ flag s R.pwrStat 5 = false ∧ 5000 ≤ fld s R.pwrVin
      15 0 ∧ (fuseWord s w ≠ 0 ∨ fuseErr s w = true ∨ w ∈ [3, 4, 5, 14, 15])))) ∧
    (∃ (s : State) (v : Word), HostMayWrite s R.fusePctl ∧ bits v 31 16 ≠ 0x3C96) ∧
    (∃ (s : State) (w : Nat) (d : Word), s.fuse.prog = some (w, d) ∧ w ≠ 0 ∧ w < 16 ∧ flag s R.fusePstat 31 = false) ∧
    (∃ (s : State) (w : Nat) (d : Word) (blown : BitVec 32) (parity : Bool), s.fuse.prog = some (w, d) ∧ flag s R.fusePstat 31 = false ∧
      (blown ≠ d ∨ parity ≠ oddOnes d)) ∧
    (∃ (s : State) (blown : BitVec 32) (parity : Bool), s.fuse.prog = none) :=
  ⟨
   ⟨up [(R.pwrStat, 1), (R.pwrVin, 5000)], 0x3C960002, 2, may (by decide), by decide⟩,
   ⟨up [(R.pwrStat, 1), (R.pwrVin, 4999)], 0x3C960002, 2, 2, may (by decide), by decide⟩,
   ⟨up [], 0x3C970002, may (by decide), by decide⟩,
   ⟨{ up [] with fuse := { prog := some (15, 3) } }, 15, 3, by decide⟩,
   ⟨{ up [] with fuse := { prog := some (2, 1) } }, 2, 1, 0, false, by decide⟩,
   ⟨up [], 1, true, by decide⟩⟩

theorem witness_ResetState :
    (∃ (k : Nat), k < 16) ∧
    (∃ (k : Nat), k < 8) ∧
    (∃ (n : Nat), n < 16) :=
  ⟨
   ⟨15, by decide⟩,
   ⟨7, by decide⟩,
   ⟨15, by decide⟩⟩

/-- A control field of a Verb runs on the states below: each is Verb 0 about to issue. -/
def retBank : VerbBank := { bank0 with rstack := [9] }
def delayBank (n : Nat) (d : Delay) : VerbBank := { bank0 with delay := some (n, d) }
def bodyBank : VerbBank := { bank0 with pc := 7, reps := [⟨0, 5, 7⟩] }

theorem witness_VerbProgramFlow :
    (∃ (s : State) (v : Fin 16) (w : WordFrame) (b : VerbBank), b = bankOfVerb s v ∧
      (∃ (cond : BitVec 4) (target : BitVec 13), Issues s v w (.jmp cond target)) ∧
      (∃ (cond : BitVec 4) (target : BitVec 13), Issues s v w (.call cond target)) ∧
      (Issues s v w .ret ∧ ∃ r rest, b.rstack = r :: rest) ∧ Issues s v w .yield ∧
      (∃ (k : BitVec 2) (n : BitVec 16) (last : BitVec 13), Issues s v w (.rep k n last)) ∧
      (∃ (k : BitVec 2) (d : BitVec 4) (last : BitVec 13) (n : BitVec 16), Issues s v w (.repd k d last) ∧
        n = BitVec.ofNat 16 (b.dOf d.toNat).toNat)) :=
  ⟨onVerb [] retBank, 0, wf0, _, rfl, ⟨0, 8191, issues (by decide)⟩, ⟨0, 8191, issues (by decide)⟩,
    ⟨issues (by decide), 9, [], by decide⟩, issues (by decide), ⟨3, 0, 5, issues (by decide)⟩,
    ⟨3, 15, 5, _, issues (by decide), rfl⟩⟩

theorem witness_VerbDelayAndBody :
    (∃ (s : State) (d : Delay), Issues s 0 wf0 (.imm 15 7) ∧ (bankOfVerb s 0).delay = some (2, d) ∧ (bankOfVerb s 0).reps = []) ∧
    (∃ (s : State) (target : Nat), Issues s 0 wf0 (.imm 15 7) ∧ (bankOfVerb s 0).delay = some (1, .goto target) ∧
      (bankOfVerb s 0).reps = []) ∧
    (∃ (s : State) (r : Repeat), Issues s 0 wf0 (.imm 0 7) ∧ (bankOfVerb s 0).delay = none ∧ (bankOfVerb s 0).reps = [r] ∧
      (bankOfVerb s 0).pc = r.last) :=
  ⟨⟨onVerb [] (delayBank 2 .ends), .ends, issues (by decide), by decide, by decide⟩,
    ⟨onVerb [] (delayBank 1 (.goto 8191)), 8191, issues (by decide), by decide, by decide⟩,
    ⟨onVerb [] bodyBank, ⟨0, 5, 7⟩, issues (by decide), by decide, by decide, by decide⟩⟩

theorem witness_StepKeepsForm :
    ∃ s t : State, Canonical s ∧ Shaped s ∧ step s = .next t :=
  ⟨{ State.reset with pending := [.bypass] }, _, by decide, by decide, rfl⟩

/-! ### Well-formedness refuses an ill-formed command of each check -/

/-- A packet arrives on link 0; one that is passed on, from device 5. -/
def arr0 : Arrival := ⟨0, 0, true⟩
def rel0 : Relayed := ⟨arr0, 5, false⟩

theorem test_wellFormed_refuses :
    [.undefinedHostCommand 0x02 4, .characterReceived 0 [0], .characterReceived 0 [3, 3], .characterTransmit 0 (List.replicate 14 true),
      .collisionRetry 0 (List.replicate 14 true), .addr arr0 1 0 1 1, .addr arr0 1 33 1 1, .addr arr0 1 1 0 1, .addr arr0 1 1 3 1,
      .ctl arr0 hd0 3 0 0 0, .evt arr0 hd0 [], .evt arr0 hd0 (List.replicate 5 (mkEvent 0 3 0 0 0)),
      .wev rel0 0 (List.replicate 820 ⟨0, 0, mkEvent 0 3 0 0 0⟩), .frm rel0 ⟨1, 0, [], [], []⟩,
      .upb 0 ⟨0, 0, 0, [1, 2, 3, 4, 5], [], []⟩ true, .upb 0 ⟨0, 0, 0, [], [1], []⟩ true, .stat rel0 3 5,
      .portFrameIn 0 [1, 2, 3] 0, .backgroundRowTest true (List.replicate 9 false), .store 0 1, .store 16 1, .store 1 4097,
      .newestRecordRead 0, .newestRecordRead 16].all (fun i : Instr => !i.wellFormed) = true := by decide +kernel

theorem test_wellFormed_accepts :
    [.undefinedHostCommand 0x02 1, .undefinedHostCommand 0x07 4, .characterReceived 0 [1, 2], .addr arr0 1 32 2 2, .ctl arr0 hd0 2 0 0 0, .evt arr0 hd0 [mkEvent 0 3 0 0 0], .stat rel0 2 5,
      .portFrameIn 0 [1, 2] 0, .store 15 4096].all (fun i : Instr => i.wellFormed) = true := by decide

theorem test_no_word_spells_a_command : decodeTableWord 32 0x40000000 = none := rfl

/-! ### Single steps, with the values the spec states -/

/-- The state after an outcome. -/
def after : Host.Outcome State Fault Refusal → State
  | .next t => t
  | _ => State.reset

/-- SYS.ID (R26). -/
theorem test_read_identity : (after (exec (.read 0x40000000 1) (up []))).host.out = [0x85121010] := by decide

/-- Little-endian bytes (R3). -/
theorem test_write_byte_order :
    memBytes (after (exec (.write 0x01440000 [0x11223344] 0) (up []))) 0x01440000 4 = [0x44, 0x33, 0x22, 0x11] := by decide

/-- The zero frame takes no write (R85), nor does an address that Table 2 of the memory chapter assigns to nothing (R393). -/
theorem test_zero_frame_write : (after (exec (.write 0x01028000 [7] 0) (up []))).mem = [] := by decide
theorem test_unassigned_write : (after (exec (.write 0x015FFFFC [7] 0) (up []))).mem = [] := by decide

/-- An unmapped address: no effect, reads 0, BUSERR valid with the address (R25). -/
theorem test_unmapped_read :
    ((after (exec (.read 0x01600000 1) (up []))).host.out, rd (after (exec (.read 0x01600000 1) (up []))) R.sysBusaddr) =
      ([0], 0x01600000) := by decide

/-- The identity of the test port (R476). -/
theorem test_idcode : (after (exec .idcode (up []))).tap.data = 0x1851234D := by decide

/-- A wrong key of a Gloss clear is an undefined encoding (R9, R470). -/
theorem test_clear_wrong_key : flag (after (exec (.clearKept 0x6C34) (up []))) R.glossErr 31 = true := by decide

/-- A multiply-accumulate adds the exact product (R91): 3 times -2 on 10. -/
theorem test_mac :
    (bankOfVerb (after (exec (.par 0 ⟨2, 1, 2, 3⟩ nop no no)
      (onVerb [] { bank0 with d := [0, 0, 3, 0xFFFFFFFE, 0, 0, 0, 0, 0, 0, 0, 0, 0, 0, 0, 0], acc := [0, 10, 0, 0] }))) 0).accOf 1 = 4 := by
  decide

/-- CRC-32 of its standard's check string "123456789" (log 17). -/
theorem test_crc32 : crc32 [0x31, 0x32, 0x33, 0x34, 0x35, 0x36, 0x37, 0x38, 0x39] = 0xCBF43926 := by decide +kernel

/-- The signature of the empty message in the standard that R424 names (RFC 8032, section 7.1, TEST 1). -/
theorem test_ed25519 :
    ed25519Valid (leBytes 32 0x1a5107f7681a02af2523a6daf372e10e3a0764c9d3fe4bd5b70ab18201985ad7) []
      (leBytes 64 (0xb107a8e4341516524be5b59f0f55bd26bb4f91c70391ec6ac3ba3901582b85f * 2 ^ 256 +
        0x5501492265e073d874d9e5b81e7f87848a826e80cce2869072ac60c3004356e5)) = true := by decide +kernel

/-- A word with one wrong symbol reads corrected (R395, R396). -/
theorem test_corrected : (match readWord { up [] with ecc := [(0x01440000, 0x80)] } 0x01440000 with
    | .corrected d _ => decide (d = 0)
    | _ => false) = true := by decide +kernel

/-- A step on an empty queue passes one TCLK cycle (log 1); with a command in front it runs it. -/
theorem test_step_tick : (after (step (up []))).time.aoTime = 1 := by decide +kernel
theorem test_step_front :
    ((after (step { up [] with pending := [.hostTransactionEnd, .bypass] })).pending,
      (after (step { up [] with pending := [.hostTransactionEnd, .bypass] })).time.aoTime) = ([.bypass], 0) := by decide

/-- The first even AOTIME after the write sets the epoch (R17, R312). -/
theorem test_sync_command : (after (exec .syncCommand (up []))).time.epoch = 2 := by decide +kernel

/-- A raised interrupt source clears by writing 1 and not by writing 0 (R5, R32). -/
theorem test_irq_w1c :
    (rd (after (exec (.registerWrite 0x40000020 0x200) (up [(R.sysIrqstat, 0x300)]))) R.sysIrqstat) = 0x100 := by decide

end Sys2Proof.Tests
end

/-! PROOFS. The scope chapter's statements: the state after reset, the form every step keeps, and the effect of a register write
by its access type. -/

namespace Sys2Proof.Scope
open Sys2Proof.Machine Sys2Proof.Laws

/-! ### What every step keeps (R4, R392, R484) -/

/-- Neither form speaks of the queue, so what holds of the state holds of it without its front command. -/
theorem canonical_step {s t : State} (h : Canonical s) (e : step s = .next t) : Canonical t :=
  st_step canonical s h t e

theorem shaped_step {s t : State} (h : Shaped s) (e : step s = .next t) : Shaped t :=
  st_step shaped s h t e

/-- The fuses blown in s are the reference: s itself keeps them, and so does every update a step is made of. -/
theorem keepsFuses_step {s t : State} (e : step s = .next t) : KeepsFuses s t :=
  have self : KeepsFuses s { s with pending := s.pending.drop 1 } := fun _ _ blown => blown
  st_step (keepsFuses s) s self t e

/-- Settles O59: the canonical form, the group sizes and the blown fuses are Stable predicates, which every command and every
TCLK cycle keeps. -/
theorem stepKeepsForm : Obligations.StepKeepsForm :=
  ⟨fun _ _ => canonical_step, fun _ _ => shaped_step, fun _ _ => keepsFuses_step⟩

/-! ### The state after reset (R5, R32, R276, R289) -/

/-- A group of like things that are all in their default state has that state at every index. -/
theorem nth_replicate_default {α : Type} (n k : Nat) (d : α) : nth (List.replicate n d) k d = d := by
  unfold nth
  rw [List.getD_eq_getElem?_getD, List.getElem?_replicate]
  split <;> rfl

theorem rd_reset (a : Nat) : rd State.reset a = regReset a := rfl

theorem memByte_reset (b : Nat) : memByte State.reset b = 0 := rfl

theorem dacOf_reset (k : Nat) : dacOf State.reset k = {} := nth_replicate_default 16 k ({} : DacSt)

theorem cvOf_reset (k : Nat) : cvOf State.reset k = {} := nth_replicate_default 8 k ({} : CvSt)

theorem timerOf_reset (n : Nat) : timerOf State.reset n = {} := nth_replicate_default 16 n ({} : TimerSt)

/-- Empty lists are in canonical form. -/
theorem canonical_reset : Canonical State.reset := ⟨rfl, rfl⟩

theorem shaped_reset : Shaped State.reset := by decide

/-- Settles O58: the registers and the memory list nothing, and every group is made of default states. -/
theorem resetState : Obligations.ResetState :=
  ⟨rd_reset, memByte_reset, rfl, rfl, rfl, rfl, fun k _ => by rw [dacOf_reset], fun k _ => by rw [cvOf_reset],
    fun n _ => by rw [timerOf_reset], canonical_reset, shaped_reset⟩

/-! ### Registers whose write keeps a value (R5) -/

/-- An address below an array is none of its registers. -/
theorem chanOf_below {base stride count a : Nat} (h : a < base) : chanOf base stride count a = none :=
  if_neg fun k => absurd k.1 (Nat.not_le.2 h)

/-- The single registers below the ADC page whose write is an operation, or clears a record whole. -/
def operationRegs : List Nat :=
  [R.evtHwin, R.tenseMwin, R.tenseGo, R.parserWin, R.pwrCmd, R.pwrDomen, R.pwrPadrel, R.pwrVinmin, R.pwrFail, R.sysBuserr,
    R.parserTrptr, R.evtPstat]

section BelowAdc
variable {s : State} {a : Nat} {v : Word} (low : a < R.adcPage) (hop : a ∉ operationRegs)
include low

/-- An address below the ADC page is none above it. -/
theorem ne_of_above {b : Nat} (hb : R.adcPage ≤ b) : a ≠ b := Nat.ne_of_lt (Nat.lt_of_lt_of_le low hb)

theorem serialCommand_none : serialCommand s a v = none := by
  have hpage : pageOf a ≠ R.spPage :=
    Nat.ne_of_lt (Nat.lt_of_le_of_lt (Nat.div_mul_le_self a 0x10000) (Nat.lt_trans low (by decide)))
  simp [serialCommand, hpage]

include hop

theorem powerCommand_none : powerCommand s a v = none := by
  simp only [operationRegs, List.mem_cons, not_or] at hop
  simp [powerCommand, hop, ne_of_above low (b := R.nvmScmd) (by decide), ne_of_above low (b := R.nvmFcmd) (by decide),
    ne_of_above low (b := R.nvmReload) (by decide), chanOf_below (Nat.lt_of_lt_of_le low (by decide : R.adcPage ≤ R.nvmSbuf))]

theorem recordCommand_none (herr : a % 0x10000 ≠ 0xFFFC) : recordCommand s a v = none := by
  simp only [operationRegs, List.mem_cons, not_or] at hop
  simp [recordCommand, hop, herr, ne_of_above low (b := R.memUelog) (by decide),
    chanOf_below (Nat.lt_of_lt_of_le low (by decide : R.adcPage ≤ R.vdbgVfault))]

/-- Below the ADC page every register but those of operationRegs and ERR keeps the value written. -/
theorem commandReg_none {fromLink : Bool} (herr : a % 0x10000 ≠ 0xFFFC) : commandReg s fromLink a v = none := by
  have hpow := powerCommand_none (s := s) (v := v) low hop
  have hrec := recordCommand_none (s := s) (v := v) low hop herr
  have hser := serialCommand_none (s := s) (v := v) low
  simp only [operationRegs, List.mem_cons, not_or] at hop
  have above : ∀ b ∈ [R.adcCtrl, R.adcCdata, R.adcCdelay, R.linkRctl, R.glossCtl, R.glossCmd, R.glossRate, R.fusePctl], a ≠ b :=
    fun b hb => ne_of_above low (by revert b; decide)
  simp only [List.mem_cons, forall_eq_or_imp] at above
  have below : ∀ {base stride count : Nat}, R.adcPage ≤ base → chanOf base stride count a = none :=
    fun h => chanOf_below (Nat.lt_of_lt_of_le low h)
  simp [commandReg, hop, above, below (by decide : R.adcPage ≤ R.glossOvr), below (by decide : R.adcPage ≤ R.vdbgVctl),
    below (by decide : R.adcPage ≤ R.vdbgVrdata), hpow, hrec, hser]

end BelowAdc

/-! ### A write of a SYS register that keeps its value -/

/-- A register's fields take any value at any time, and what it takes it takes at once: no undefined encoding, nothing that
closes it, nothing staged, and no counter. -/
structure FreelyWritten (d : RegDesc) : Prop where
  ranges : d.ranges = []
  close : d.close = .none
  rws : d.rws = 0
  counter : isCounter d = false

section SysPage
variable {s : State} {a : Nat} {v : Word} {d : RegDesc}

/-- A write in the SYS page has no effect beyond its fields. -/
theorem afterWrite_sys (old : Word) (high : a < 0x40010000) : afterWrite s a old v = s := by
  have below : ∀ {base stride count : Nat}, 0x40010000 ≤ base → chanOf base stride count a = none :=
    fun h => chanOf_below (Nat.lt_of_lt_of_le high h)
  have hcfg : a ≠ R.tenseCfg := Nat.ne_of_lt (Nat.lt_trans high (by decide))
  have htempo : a ≠ R.tenseTempo := Nat.ne_of_lt (Nat.lt_trans high (by decide))
  have hpage : pageOf a ≠ R.spPage :=
    Nat.ne_of_lt (Nat.lt_of_le_of_lt (Nat.div_mul_le_self a 0x10000) (Nat.lt_trans high (by decide)))
  simp [afterWrite, hcfg, htempo, hpage, below (by decide : 0x40010000 ≤ R.dacCh), below (by decide : 0x40010000 ≤ R.cvoCh),
    below (by decide : 0x40010000 ≤ R.adcTctl), below (by decide : 0x40010000 ≤ R.adcCh)]

/-- No description of a SYS register refuses more than its encodings. -/
theorem checkWrite_sys (low : 0x40000000 ≤ a) (high : a < 0x40010000) : checkWrite s a v = none := by
  have page : a / 0x10000 = 0x4000 := by omega
  simp [checkWrite, page]

/-- A host write of such a register puts its fields in place (R5, R6) and touches no other register. -/
theorem regWrite_sys (h : HostMayWrite s a) (hw : Writable a d) (high : a < 0x40010000) (hop : a ≠ R.sysBuserr)
    (hd : FreelyWritten d) : rd (regWrite s a v) a = plainValue d (rd s a) v ∧ Touches [] [a] s (regWrite s a v) := by
  have hcmd : ∀ s', commandReg s' false a v = none := fun s' =>
    commandReg_none (Nat.lt_trans high (by decide)) (by
      have above : ∀ b ∈ operationRegs, b = R.sysBuserr ∨ 0x40010000 ≤ b := by decide
      exact fun hm => (above a hm).elim hop (Nat.not_le.2 high)) hw.err
  have hundef : undefinedField d v = false := by simp [undefinedField, hd.ranges]
  have hclosed : ∀ s', changesClosed s' d a v = false := fun s' => by simp [changesClosed, isClosed, hd.close]
  have herr : a ≠ pageOf a + 0xFFFC := by
    have := hw.err
    unfold pageOf
    omega
  have hstat : R.pwrStat ∉ [a] := fun hm => Nat.ne_of_lt (Nat.lt_trans high (by decide)) (List.mem_singleton.1 hm).symm
  obtain ⟨value, touches⟩ := plain_after (ps := []) (rs := [a]) h hw hcmd hundef (checkWrite_sys hw.low high) (hclosed _)
    hd.counter hd.rws
    (by rw [afterWrite_sys _ high]; exact touches_wr touches_rfl _ (List.mem_singleton.2 rfl))
    (fun hm => herr (List.mem_singleton.1 hm).symm) hstat
  refine ⟨?_, touches⟩
  rw [value, afterWrite_sys _ high, rd_wr_ne _ _ _ _ herr, rd_wr]

end SysPage

/-- The row of SYS.IRQEN (R32). -/
def irqenDesc : RegDesc := ⟨R.sysIrqen, 0, 1, 0x1FF, 0x1FFFF, 0, 0, 0, 0, 0, .none, []⟩

/-- The row of SYS.IRQSTAT (R32). -/
def irqstatDesc : RegDesc := ⟨R.sysIrqstat, 0, 1, 0x0, 0, 0, 0x1FF00, 0, 0, 0xFF, .none, []⟩

theorem writable_irqen : Writable R.sysIrqen irqenDesc := by constructor <;> decide

theorem writable_irqstat : Writable R.sysIrqstat irqstatDesc := by constructor <;> decide

theorem freelyWritten_irqen : FreelyWritten irqenDesc := by constructor <;> decide

theorem freelyWritten_irqstat : FreelyWritten irqstatDesc := by constructor <;> decide

/-- Its defined bits are RW: they take the written value, and the reserved ones stay (R5, R6). -/
theorem plainValue_irqen (old v : Word) : plainValue irqenDesc old v = (old &&& ~~~0x1FFFF) ||| (v &&& 0x1FFFF) := by
  show ((old &&& ~~~0x1FFFF) ||| (v &&& 0x1FFFF)) &&& ~~~(v &&& 0#32) = _
  rw [BitVec.and_zero, BitVec.not_zero, BitVec.and_allOnes]

/-- Its edge sources are W1C: those written 1 clear, and nothing else changes (R5, R32). -/
theorem plainValue_irqstat (old v : Word) : plainValue irqstatDesc old v = old &&& ~~~(v &&& 0x1FF00) := by
  show ((old &&& ~~~0#32) ||| (v &&& 0#32)) &&& ~~~(v &&& 0x1FF00) = _
  rw [BitVec.and_zero, BitVec.not_zero, BitVec.and_allOnes, BitVec.or_zero]

/-! ### REGISTER_WRITE (R5, R6, R9, R27) -/

/-- At a multiple of 4 the command is the write of the register at its address. -/
theorem exec_registerWrite_aligned (s : State) (a v : Word) (h : a.toNat % 4 = 0) :
    exec (.registerWrite a v) s = .next (regWrite s a.toNat v) := by
  show Host.Outcome.next (regWrite s (a.toNat - a.toNat % 4) v) = _
  rw [h, Nat.sub_zero]

/-- An offset without a register ignores the write (R27). -/
theorem regWrite_reserved {s : State} {a : Nat} {v : Word} (h : HostMayWrite s a) (low : 0x40000000 ≤ a) (high : a < 0x40130000)
    (hd : regDesc a = none) : regWrite s a v = s := by
  have ne : ∀ b, (regDesc b).isSome → a ≠ b := fun b hb e => by simp [← e, hd] at hb
  have ignored : writeWord32 s 0 a v = (s, false) := by
    simp [writeWord32, writeReg, regionOf_page low high, h.domain, hd]
  have hreload := ne R.nvmReload (by decide)
  have hmailbox := ne R.linkRctl (by decide)
  simp [regWrite, hostWrite, h.tap, ignored, afterHost, hreload, hmailbox, startWake_awake _ _ h.awake]

/-- The row of TENSE.TEMPO (R262). -/
def tempoDesc : RegDesc := ⟨R.tenseTempo, 0, 1, 0x780000, 0, 0, 0, 0, 0xFFFFFFFF, 0, .tense, [(31, 0, 655360, 65470464)]⟩

theorem writable_tempo : Writable R.tenseTempo tempoDesc := by constructor <;> decide

/-- A tempo below 10 or above 999 BPM is an undefined encoding (R9, R262). -/
theorem undefinedField_tempo {v : Word} (hv : v.toNat < 0xA0000 ∨ 0x3E70000 < v.toNat) : undefinedField tempoDesc v = true := by
  have whole : bits v 31 0 = v.toNat := by
    have := v.isLt
    simp [bits]
    omega
  simpa [undefinedField, tempoDesc, whole] using hv

/-- An undefined encoding is refused whatever else the description says, where the write is no operation. -/
theorem writeOn_undefined {s : State} {fromLink : Bool} {d : RegDesc} {a : Nat} {v : Word} (hc : commandReg s fromLink a v = none)
    (hu : undefinedField d v = true) : writeOn s fromLink d a v = refuse s a true := by
  simp [writeOn, hc, plainOn, hu]

/-- A tempo out of its range is refused, and nothing else happens. -/
theorem regWrite_tempo_refused {s : State} {v : Word} (h : HostMayWrite s R.tenseTempo)
    (hv : v.toNat < 0xA0000 ∨ 0x3E70000 < v.toNat) : Refused s (regWrite s R.tenseTempo v) R.tenseTempo true :=
  command_refused true h writable_tempo
    (writeOn_undefined (commandReg_none (by decide) (by decide) (by decide)) (undefinedField_tempo hv))

/-- The command on such a SYS register: its fields take the value (R5, R6), and nothing else changes. -/
theorem exec_registerWrite_sys {a : Nat} {d : RegDesc} {s : State} {v : Word} (h : HostMayWrite s a) (hw : Writable a d)
    (high : a < 0x40010000) (aligned : a % 4 = 0) (hop : a ≠ R.sysBuserr) (hd : FreelyWritten d) :
    ∃ t, exec (.registerWrite (w32 a) v) s = .next t ∧ rd t a = plainValue d (rd s a) v ∧ (∀ b, b ≠ a → rd t b = rd s b) ∧
      Changes [.regs] s t := by
  have address : (w32 a).toNat = a := by simp only [w32, BitVec.toNat_ofNat]; omega
  obtain ⟨value, touches⟩ := regWrite_sys (v := v) h hw high hop hd
  refine ⟨regWrite s a v, ?_, value, fun b hb => touches.regs b (by simpa using hb), touches.parts⟩
  rw [exec_registerWrite_aligned s (w32 a) v (by rw [address, aligned]), address]

/-- Settles O5: what a write does by type is the plain value of the row, an address without a row is ignored, and an undefined
encoding is refused before any field is taken. -/
theorem registerWriteByType : Obligations.RegisterWriteByType := by
  refine ⟨fun s v h => ?_, fun s v h => ?_, fun s a v h low high aligned hd => ?_, fun s v h hv => ?_⟩
  · rw [← plainValue_irqen]
    exact exec_registerWrite_sys h writable_irqen (by decide) (by decide) (by decide) freelyWritten_irqen
  · rw [← plainValue_irqstat]
    exact exec_registerWrite_sys h writable_irqstat (by decide) (by decide) (by decide) freelyWritten_irqstat
  · rw [exec_registerWrite_aligned s a v aligned, regWrite_reserved h low high hd]
  · exact ⟨_, exec_registerWrite_aligned s _ v (by decide), regWrite_tempo_refused h hv⟩

end Sys2Proof.Scope

/-! PROOFS. The architecture chapter's statements: the host's transactions, the reference clock, SYNC, and the step itself. -/

namespace Sys2Proof.Architecture
open Sys2Proof.Machine Sys2Proof.Laws

/-! ### The step -/

/-- Settles O57: it is how step is defined on a queue with a front. -/
theorem stepRunsFront : Obligations.StepRunsFront := fun _ _ _ => rfl

/-! ### Transactions of the host SPI target (R31) -/

section Transactions
variable {s : State} {addr : Word}

/-- Outside a refusal a transaction with an aligned address runs on the state in which it has begun. -/
theorem withAddress_aligned (ready : hostReady s = true) (taken : hostIgnores s = false) (aligned : addr.toNat % 4 = 0)
    (f : State → State) : withAddress s addr f = f (openHost s) := by
  have ready' : hostReady (openHost s) = true := ready
  simp [withAddress, taken, ready', aligned]

/-- Behind a refusal it is ignored. -/
theorem withAddress_ignored (h : hostIgnores s = true) (f : State → State) : withAddress s addr f = s := if_pos h

theorem tapHolds_of_ready (ready : hostReady s = true) : tapHolds s = false := by
  simp only [hostReady, Bool.and_eq_true, Bool.not_eq_true'] at ready
  exact ready.2

/-- Whatever is put in the place of the transaction's own state, nothing else is touched. -/
theorem touches_transaction (h : HostSt) : Touches [.host] [] s { s with host := h } :=
  touches_host touches_rfl h (by decide)

end Transactions

/-- Settles O4: each command writes the transaction's own state alone, and an open refusal decides before any of them looks further. -/
theorem hostTransactions : Obligations.HostTransactions := by
  refine ⟨fun s count ready taken => ?_, fun s count unready taken => ?_, fun s code addr ready taken bad => ?_,
    fun s addr words rest count code ignored => ?_, fun _ => rfl⟩
  · exact ⟨_, congrArg Host.Outcome.next ((if_neg (by simp [taken])).trans (if_neg (by simp [ready]))), rfl, rfl, rfl,
      touches_transaction _⟩
  · exact ⟨_, congrArg Host.Outcome.next ((if_neg (by simp [taken])).trans (if_pos (by simp [unready]))),
      by simp [openHost, statusByte, unready], rfl, touches_transaction _⟩
  · have undefined : ((!addressed code && code ≠ 0x05) || (addressed code && addr.toNat % 4 ≠ 0)) = true := by
      simp only [List.mem_cons, List.not_mem_nil, or_false, not_or] at bad
      rcases bad with ⟨h1, h2, h3, h4, h5⟩ | ⟨(h | h | h | h), misaligned⟩ <;> simp_all [addressed]
    exact ⟨_, congrArg Host.Outcome.next ((if_neg (by simp [taken])).trans ((if_neg (by simp [ready])).trans (if_pos undefined))),
      rfl, rfl, rfl, touches_transaction _⟩
  · have stays := fun f => withAddress_ignored (addr := addr) ignored f
    refine ⟨congrArg _ (stays _), congrArg _ (stays _), congrArg _ (stays _), congrArg _ (stays _), ?_, ?_⟩
    · exact congrArg Host.Outcome.next (if_pos ignored)
    · exact congrArg Host.Outcome.next (if_pos ignored)

/-! ### What a READ returns (R5, R23, R31, R395) -/

/-- The host reads a word as v, whatever the transaction has returned so far, and the read changes nothing. -/
def ReadsAs (s : State) (a : Nat) (v : Word) : Prop :=
  ∀ h : HostSt, hostRead { s with host := h } 0 a = ({ s with host := h }, v, false)

/-- The transaction has returned more words. -/
def returned (s : State) (ws : List Word) : State := { s with host := { s.host with out := s.host.out ++ ws } }

section Reads
variable {s : State} {a : Nat} {v : Word} {addr : Word}

theorem readOne_returned (h : ReadsAs s a v) : readOne s a = returned s [v] := by
  have read : hostRead s 0 a = (s, v, false) := h s.host
  simp [readOne, read, returned]

/-- Words read one after the other are returned in order. -/
theorem foldl_readOne {ι : Type} (place : ι → Nat) (value : ι → Word) (l : List ι)
    (h : ∀ i ∈ l, ReadsAs s (place i) (value i)) : l.foldl (fun t i => readOne t (place i)) s = returned s (l.map value) := by
  induction l generalizing s with
  | nil => simp [returned]
  | cons i l ih =>
    have rest : ∀ j ∈ l, ReadsAs (returned s [value i]) (place j) (value j) := fun j hj _ => h j (List.mem_cons_of_mem _ hj) _
    rw [List.foldl_cons, readOne_returned (h i List.mem_cons_self), ih rest]
    simp [returned]

/-- A READ of words that read as given returns them and touches the transaction alone. -/
theorem exec_read {count : Nat} {value : Nat → Word} (ready : hostReady s = true) (taken : hostIgnores s = false)
    (aligned : addr.toNat % 4 = 0) (h : ∀ i, i < count → ReadsAs s (wordAddr addr i) (value i)) :
    ∃ t, exec (.read addr count) s = .next t ∧ t.host.out = (List.range count).map value ∧ t.host.lastErr = s.host.lastErr ∧
      Touches [.host] [] s t := by
  refine ⟨returned (openHost s) ((List.range count).map value), congrArg Host.Outcome.next ?_, rfl, rfl, touches_transaction _⟩
  rw [withAddress_aligned ready taken aligned]
  exact foldl_readOne _ value _ fun i hi => h i (List.mem_range.1 hi)

/-- A READ FIXED of a word returns it for every word clocked. -/
theorem exec_readFixed {count : Nat} (ready : hostReady s = true) (taken : hostIgnores s = false) (aligned : addr.toNat % 4 = 0)
    (h : ReadsAs s addr.toNat v) :
    ∃ t, exec (.readFixed addr count) s = .next t ∧ t.host.out = List.replicate count v ∧ t.host.lastErr = s.host.lastErr ∧
      Touches [.host] [] s t := by
  refine ⟨returned (openHost s) ((List.range count).map fun _ => v), congrArg Host.Outcome.next ?_, ?_, rfl, touches_transaction _⟩
  · rw [withAddress_aligned ready taken aligned]
    exact foldl_readOne (fun _ => addr.toNat) (fun _ => v) _ fun _ _ => h
  · show List.map (fun _ => v) (List.range count) = _
    rw [List.map_const', List.length_range]

/-- A word of memory lies in no page, and in a region. -/
theorem region_of_clean (h : CleanWord s a) : regionOf a ≠ .none ∧ regionOf a ≠ .page := by
  rcases h.region with e | e | ⟨n, e⟩ <;> simp [e]

/-- What a read of a word of memory without errors comes to (R85, R395). -/
theorem readWord32_clean (h : CleanWord s a) (aligned : a % 4 = 0) :
    readWord32 s 0 a = if inDiscard a then ({ s with free := s.free + 1 }, Config.freeWord s.free, false)
      else (s, word32At s a, false) := by
  obtain ⟨mapped, memory⟩ := region_of_clean h
  simp only [readWord32, mapped, memory, h.opened, if_false, Bool.not_true, Bool.false_eq_true, memLoad4_clean s _ a aligned h.clean,
    drawFree, word_of_bytes]

/-- The transaction's own state has no part in what makes a word clean. -/
theorem clean_host (h : CleanWord s a) (x : HostSt) : CleanWord { s with host := x } a := ⟨h.region, h.opened, h.clean⟩

/-- A word of memory without errors reads as its bytes (R395). -/
theorem readsAs_memory (free : tapHolds s = false) (h : CleanWord s a) (aligned : a % 4 = 0) (kept : inDiscard a = false) :
    ReadsAs s a (word32At s a) := fun x => by
  have free' : tapHolds { s with host := x } = false := free
  simp only [hostRead, free', readWord32_clean (clean_host h x) aligned, kept, Bool.false_eq_true, if_false]
  rfl

/-- A register without a side effect reads as its value (R5). -/
theorem readsAs_register (free : tapHolds s = false) (page : regionOf a = .page) (on : domainOn s (pageDomain a) = true)
    (noRxd : rxdPort a = none) (noLatch : latchedBy a = none) (noVrdata : vrdataVerb a = none) : ReadsAs s a (readReg s a) := fun x => by
  have free' : tapHolds { s with host := x } = false := free
  have on' : domainOn { s with host := x } (pageDomain a) = true := on
  have opened : memoryOpen { s with host := x } a = true := by simp [memoryOpen, regionDomain, page, on']
  have value : readReg { s with host := x } a = readReg s a := rfl
  simp [hostRead, free', readWord32, page, opened, accessReg, noRxd, noLatch, noVrdata, value]

theorem wordAddr_aligned (h : addr.toNat % 4 = 0) (i : Nat) : wordAddr addr i % 4 = 0 := by
  unfold wordAddr
  omega

theorem wordAddr_eq {count i : Nat} (hi : i < count) (h : addr.toNat + 4 * count ≤ 2 ^ 32) : wordAddr addr i = addr.toNat + 4 * i := by
  unfold wordAddr
  omega

theorem wordAddr_zero : wordAddr addr 0 = addr.toNat := by
  have := addr.isLt
  unfold wordAddr
  omega

end Reads

/-- Settles O1: the words of memory without errors, and the registers without a side effect, read as their values; a word of a discard frame
is drawn. -/
theorem hostReadsMemory : Obligations.HostReadsMemory := by
  refine ⟨fun s addr count ready taken aligned clean => ?_, fun s addr count ready taken aligned clean kept => ?_,
    fun s addr ready taken aligned clean discard => ?_, fun s addr count ready taken aligned fits regs => ?_⟩
  · exact exec_read ready taken aligned fun i hi =>
      readsAs_memory (tapHolds_of_ready ready) (clean i hi).1 (wordAddr_aligned aligned i) (clean i hi).2
  · exact exec_readFixed ready taken aligned (readsAs_memory (tapHolds_of_ready ready) clean aligned kept)
  · have free : tapHolds (openHost s) = false := tapHolds_of_ready ready
    have read := readWord32_clean (s := openHost s) (clean_host clean _) aligned
    rw [if_pos discard] at read
    refine ⟨readOne (openHost s) addr.toNat, congrArg Host.Outcome.next ?_, ?_⟩
    · rw [withAddress_aligned ready taken aligned]
      show readOne (openHost s) (wordAddr addr 0) = _
      rw [wordAddr_zero]
    · simp only [readOne, hostRead, free, read, Bool.false_eq_true, if_false]
      exact ⟨rfl, rfl, touches_host (touches_free touches_rfl _ (by decide)) _ (by decide)⟩
  · refine exec_read ready taken aligned fun i hi => ?_
    obtain ⟨page, on, noRxd, noLatch, noVrdata⟩ := regs i hi
    rw [wordAddr_eq hi fits]
    exact readsAs_register (tapHolds_of_ready ready) page on noRxd noLatch noVrdata

/-- SYS.ID is kept in its page as it was reset. -/
theorem readReg_sysId {s : State} (kept : rd s R.sysId = regReset R.sysId) (unstaged : mapGet s.staged R.sysId = none) :
    readReg s R.sysId = 0x85121010 := by
  show stagedView s _ R.sysId = _
  simp only [stagedView, unstaged, kept]
  decide

/-- Settles O3: SYS.ID is a register without a side effect that reads as its reset value. -/
theorem identityReads : Obligations.IdentityReads := by
  intro s count ready taken on kept unstaged
  have reads : ReadsAs s R.sysId 0x85121010 := readReg_sysId kept unstaged ▸
    readsAs_register (tapHolds_of_ready ready) (by decide) on (by decide) (by decide) (by decide)
  obtain ⟨t, run, out, -, touches⟩ := exec_readFixed (addr := w32 R.sysId) (count := count) ready taken (by decide) reads
  obtain ⟨u, run', out', -, touches'⟩ := exec_read (addr := w32 R.sysId) (count := 1) (value := fun _ => 0x85121010) ready taken
    (by decide) fun i hi => by rw [Nat.lt_one_iff.1 hi]; exact reads
  exact ⟨⟨t, run, out, touches⟩, u, run', out', touches'⟩

/-! ### What a WRITE stores (R23, R24, R31, R85, R393) -/

/-- The host may write memory: neither the test port nor sleep nor rendering closes it (R24, R446, R477). -/
structure MemoryWritable (s : State) : Prop where
  free : tapHolds s = false
  awake : asleep s = false
  stopped : s.time.rendering = false

/-- The local memory of a Verb that is not halted, or memory of no Verb: a write marks no Phrase diverged (R481). -/
def OffHaltedVerb (s : State) (a : Nat) : Prop := ∀ n, regionOf a = .verb n → (verbOf s n).halted = false

/-- A word the host writes is stored. -/
structure Stored (s : State) (a : Nat) : Prop extends MemoryWritable s where
  clean : CleanWord s a
  kept : readsZero s a = false
  running : OffHaltedVerb s a
  aligned : a % 4 = 0

/-- The bytes of words in ascending addresses (R3). -/
def bytesOf (ws : List Word) : List Byte := ws.flatMap fun v => leBytes 4 v.toNat

section Writes
variable {s : State} {a : Nat} {v : Word}

/-- No register lies at an address of memory. -/
theorem regionOf_memory_ne_page {b : Nat} (h : regionOf a ≠ .page) (hb : regionOf b = .page) : a ≠ b := fun e => h (e ▸ hb)

/-- What follows a write of memory is nothing: no register of an operation lies there, and an awake device has no wake to start. -/
theorem afterHost_memory (h : regionOf a ≠ .page) (awake : asleep s = false) : afterHost s a v = s := by
  have hreload := regionOf_memory_ne_page h (b := R.nvmReload) (by decide)
  have hmailbox := regionOf_memory_ne_page h (b := R.linkRctl) (by decide)
  simp [afterHost, hreload, hmailbox, startWake_awake _ _ awake]

/-- A write to a word of open memory puts it, or nothing where memory reads 0 (R24, R85, R393). -/
theorem writeWord32_open (stopped : s.time.rendering = false) (opened : memoryOpen s a = true) (running : OffHaltedVerb s a)
    (memory : regionOf a ≠ .page) (mapped : regionOf a ≠ .none) :
    writeWord32 s 0 a v = (if readsZero s a then s else memStore s 5 a 4 (v.setWidth 64), false) := by
  cases region : regionOf a with
  | page => exact absurd region memory
  | none => exact absurd region mapped
  | verb n => simp [writeWord32, writeMemory, region, opened, stopped, running n region]
  | lexicon => simp [writeWord32, writeMemory, region, opened, stopped]
  | shared => simp [writeWord32, writeMemory, region, opened, stopped]

/-- The bytes of a word that a store of 32 bits puts. -/
theorem leBytes_word (v : Word) : leBytes 4 (v.setWidth 64).toNat = leBytes 4 v.toNat := by
  rw [BitVec.toNat_setWidth, Nat.mod_eq_of_lt (Nat.lt_trans v.isLt (by decide))]

/-- One data word of a WRITE that is stored: its bytes, and nothing else. -/
theorem writeOne_stored (h : Stored s a) : writeOne s a v = putBytes s a (leBytes 4 v.toNat) := by
  obtain ⟨mapped, memory⟩ := region_of_clean h.clean
  have word := writeWord32_open (v := v) h.stopped h.clean.opened h.running memory mapped
  have awake : asleep (putBytes s a (leBytes 4 v.toNat)) = false := by rw [changes_putBytes]; exact h.awake
  rw [h.kept, memStore4_clean s _ _ _ h.aligned h.clean.clean, leBytes_word] at word
  simp [writeOne, hostWrite, h.free, word, afterHost_memory memory awake]

/-- A word written where memory reads 0 is not stored. -/
theorem writeOne_readsZero (h : MemoryWritable s) (opened : memoryOpen s a = true) (zero : readsZero s a = true)
    (running : OffHaltedVerb s a) : writeOne s a v = s := by
  have memory : regionOf a ≠ .page ∧ regionOf a ≠ .none := by
    constructor <;> intro e <;> simp [readsZero, e] at zero
  have word := writeWord32_open (v := v) h.stopped opened running memory.1 memory.2
  rw [zero, if_pos rfl] at word
  simp [writeOne, hostWrite, h.free, word, afterHost_memory memory.1 h.awake]

/-- What memory holds has no part in whether a word is stored. -/
theorem stored_mem (h : Stored s a) (b : Nat) (l : List Byte) : Stored (putBytes s b l) a := by
  rw [changes_putBytes]
  exact ⟨⟨h.free, h.awake, h.stopped⟩, ⟨h.clean.region, h.clean.opened, h.clean.clean⟩, h.kept, h.running, h.aligned⟩

theorem length_bytesOf (ws : List Word) : (bytesOf ws).length = 4 * ws.length := by
  induction ws with
  | nil => rfl
  | cons w ws ih =>
    rw [bytesOf, List.flatMap_cons, List.length_append, ← bytesOf, ih, length_leBytes, List.length_cons]
    omega

/-- The i-th word's bytes among those of all. -/
theorem bytesOf_word (ws : List Word) (i : Nat) (hi : i < ws.length) :
    ((bytesOf ws).drop (4 * i)).take 4 = leBytes 4 (nth ws i 0).toNat := by
  induction ws generalizing i with
  | nil => exact absurd hi (Nat.not_lt_zero i)
  | cons w ws ih =>
    have split : bytesOf (w :: ws) = leBytes 4 w.toNat ++ bytesOf ws := rfl
    cases i with
    | zero => rw [split, Nat.mul_zero, List.drop_zero, List.take_left' (length_leBytes ..)]; rfl
    | succ i =>
      rw [split, show 4 * (i + 1) = (leBytes 4 w.toNat).length + 4 * i by rw [length_leBytes]; omega, List.drop_length_add_append,
        ih i (Nat.lt_of_succ_lt_succ hi)]
      rfl

/-- Bytes read back from where they were put. -/
theorem memBytes_putBytes (s : State) (a : Nat) (l : List Byte) (k n : Nat) (h : k + n ≤ l.length) :
    memBytes (putBytes s a l) (a + k) n = (l.drop k).take n := by
  apply List.ext_getElem
  · simp
    omega
  · intro i hi _
    rw [length_memBytes] at hi
    simp only [memBytes, List.getElem_map, List.getElem_range, List.getElem_take, List.getElem_drop]
    rw [memByte_putBytes, if_pos (by omega), Nat.add_assoc, Nat.add_sub_cancel_left]
    simp [nth, show k + i < l.length by omega]

/-- A word reads back from where its bytes were put (R3). -/
theorem word32At_putBytes (s : State) (a : Nat) (l : List Byte) (k : Nat) (v : Word) (h : k + 4 ≤ l.length)
    (here : (l.drop k).take 4 = leBytes 4 v.toNat) : word32At (putBytes s a l) (a + k) = v := by
  rw [word32At, memBytes_putBytes s a l k 4 h, here, leNat_leBytes]
  apply BitVec.eq_of_toNat_eq
  have := v.isLt
  simp only [w32, BitVec.toNat_ofNat]
  omega

/-- The data words of a WRITE from the k-th on, where each is stored. -/
theorem foldl_writeOne {addr : Word} (words : List Word) (k : Nat) {s : State}
    (h : ∀ i, i < words.length → Stored s (addr.toNat + 4 * (k + i))) (fits : addr.toNat + 4 * (k + words.length) ≤ 2 ^ 32) :
    ((List.range' k words.length).zip words).foldl (fun t w => writeOne t (wordAddr addr w.1) w.2) s =
      putBytes s (addr.toNat + 4 * k) (bytesOf words) := by
  induction words generalizing k s with
  | nil => rfl
  | cons v words ih =>
    rw [List.length_cons] at h fits
    have here : wordAddr addr k = addr.toNat + 4 * k := wordAddr_eq (count := k + 1) (Nat.lt_succ_self k) (by omega)
    have tail : ∀ i, i < words.length → Stored (putBytes s (addr.toNat + 4 * k) (leBytes 4 v.toNat)) (addr.toNat + 4 * (k + 1 + i)) :=
      fun i hi => stored_mem (by rw [Nat.add_assoc, Nat.add_comm 1 i]; exact h (i + 1) (by omega)) _ _
    have first : Stored s (addr.toNat + 4 * k) := h 0 (by omega)
    rw [List.length_cons, List.range'_succ, List.zip_cons_cons, List.foldl_cons, here, writeOne_stored first,
      ih (k + 1) tail (by omega)]
    exact (putBytes_append _ _ _ _).symm

/-- The data words of a WRITE FIXED, where its word is stored: the last of them stands there, and no other byte changes. -/
theorem foldl_writeFixed (words : List Word) {s : State} (h : Stored s a) :
    word32At (words.foldl (fun t v => writeOne t a v) s) a = words.getLastD (word32At s a) ∧
      (∀ b, b < a ∨ a + 4 ≤ b → memByte (words.foldl (fun t v => writeOne t a v) s) b = memByte s b) ∧
      words.foldl (fun t v => writeOne t a v) s = { s with mem := (words.foldl (fun t v => writeOne t a v) s).mem } := by
  induction words generalizing s with
  | nil => exact ⟨rfl, fun _ _ => rfl, rfl⟩
  | cons v words ih =>
    obtain ⟨last, bytes, rest⟩ := ih (stored_mem h a (leBytes 4 v.toNat))
    have here : word32At (putBytes s a (leBytes 4 v.toNat)) a = v :=
      word32At_putBytes s a _ 0 v (by simp) (List.take_of_length_le (by simp))
    rw [here] at last
    rw [List.foldl_cons, writeOne_stored h]
    refine ⟨last.trans (List.getLastD_cons ..).symm, fun b hb => ?_, ?_⟩
    · rw [bytes b hb, memByte_putBytes, length_leBytes, if_neg (by omega)]
    · rw [rest, changes_putBytes]

end Writes

/-- Settles O2: a transaction stores its words' bytes one after the other, none of them where memory reads 0. -/
theorem hostWritesMemory : Obligations.HostWritesMemory := by
  refine ⟨fun s addr words rest ready taken awake stopped aligned fits clean => ?_,
    fun s addr words rest ready taken awake stopped aligned nonempty clean kept running => ?_,
    fun s addr words rest ready taken awake stopped aligned fits zero => ?_⟩
  all_goals have writable : MemoryWritable (openHost s) := ⟨tapHolds_of_ready ready, awake, stopped⟩
  · have stored : ∀ i, i < words.length → Stored (openHost s) (addr.toNat + 4 * (0 + i)) := fun i hi => by
      obtain ⟨word, kept, running⟩ := clean i hi
      rw [Nat.zero_add]
      exact ⟨writable, clean_host word _, kept, running, by omega⟩
    refine ⟨putBytes (openHost s) addr.toNat (bytesOf words), congrArg Host.Outcome.next ?_, fun i hi => ?_, fun b hb => ?_, ?_,
      touches_putBytes (touches_host touches_rfl _ (by decide)) _ _ (by decide)⟩
    · rw [withAddress_aligned ready taken aligned, List.range_eq_range']
      exact foldl_writeOne words 0 stored (by omega)
    · exact word32At_putBytes _ _ _ _ _ (by rw [length_bytesOf]; omega) (bytesOf_word words i hi)
    · rw [memByte_putBytes, length_bytesOf, if_neg (by omega)]
      rfl
    · rw [changes_putBytes]
      rfl
  · have stored : Stored (openHost s) addr.toNat := ⟨writable, clean_host clean _, kept, running, aligned⟩
    obtain ⟨last, bytes, rest⟩ := foldl_writeFixed words stored
    refine ⟨_, congrArg Host.Outcome.next (withAddress_aligned ready taken aligned _), ?_, bytes, ?_, ?_⟩
    · rw [last]
      cases words with
      | nil => exact absurd rfl nonempty
      | cons v words => rw [List.getLastD_cons, List.getLastD_cons]
    · rw [rest]
      rfl
    · rw [rest]
      exact touches_mem (touches_host touches_rfl _ (by decide)) _ (by decide)
  · refine ⟨openHost s, congrArg Host.Outcome.next ?_, rfl, touches_transaction _⟩
    rw [withAddress_aligned ready taken aligned]
    refine List.foldlRecOn (motive := fun t => t = openHost s) _ _ rfl fun t same (i, v) member => ?_
    have hi : i < words.length := List.mem_range.1 (List.of_mem_zip member).1
    obtain ⟨opened, reads, running⟩ := zero i hi
    show writeOne t (wordAddr addr i) v = _
    rw [same, wordAddr_eq hi (by omega)]
    exact writeOne_readsZero writable opened reads running

/-! ### Fields of registers after an update -/

section Fields
variable {s : State} {a b hi lo hi' lo' i x : Nat}

theorem fld_wrFld_ne (h : b ≠ a) : fld (wrFld s a hi lo x) b hi' lo' = fld s b hi' lo' := by
  unfold fld wrFld
  rw [rd_wr_ne _ _ _ _ h]

theorem flag_wrFld_ne (h : b ≠ a) : flag (wrFld s a hi lo x) b i = flag s b i := by
  unfold flag wrFld
  rw [rd_wr_ne _ _ _ _ h]

/-- A field takes a value that fits it. -/
theorem fld_wrFld_fits (h : lo ≤ hi) (hh : hi < 32) (hx : x < 2 ^ (hi - lo + 1)) : fld (wrFld s a hi lo x) a hi lo = x := by
  rw [fld_wrFld _ _ _ _ _ h hh, Nat.mod_eq_of_lt hx]

/-- A field does not see a write of another that lies apart from it. -/
theorem fld_wrFld_apart (h : lo ≤ hi) (hh : hi < 32) (h' : lo' ≤ hi') (apart : hi' < lo ∨ hi < lo') :
    fld (wrFld s a hi lo x) a hi' lo' = fld s a hi' lo' := by
  unfold fld wrFld
  rw [rd_wr]
  exact apart.elim (bits_setBits_below _ _ _ _ _ _ h hh h') (bits_setBits_above _ _ _ _ _ _ h hh)

theorem flag_wrFld_apart (h : lo ≤ hi) (hh : hi < 32) (apart : i < lo ∨ hi < i) : flag (wrFld s a hi lo x) a i = flag s a i := by
  unfold flag wrFld
  rw [rd_wr, bitOf_setBits_ne _ _ _ _ _ h hh apart]

theorem flag_wrFld (hh : i < 32) : flag (wrFld s a i i x) a i = decide (x % 2 = 1) := by
  unfold flag wrFld
  rw [rd_wr, bitOf_setBits _ _ _ hh]

theorem setFlag_eq : setFlag s a i = wrFld s a i i 1 := rfl

theorem clrFlag_eq : clrFlag s a i = wrFld s a i i 0 := rfl

theorem fld_raiseGloss {c : Nat} {d0 d1 d2 : Word} (h : a ∉ glossRegs) : fld (raiseGloss s c d0 d1 d2) a hi lo = fld s a hi lo := by
  unfold fld
  rw [rd_raiseGloss _ _ _ _ _ _ h]

theorem flag_raiseGloss {c : Nat} {d0 d1 d2 : Word} (h : a ∉ glossRegs) : flag (raiseGloss s c d0 d1 d2) a i = flag s a i := by
  unfold flag
  rw [rd_raiseGloss _ _ _ _ _ _ h]

theorem rd_familyPorts (h : a ∉ baudRegs) : rd (familyPorts s) a = rd s a := (familyPorts_facts s).1.regs a h

theorem fld_familyPorts (h : a ∉ baudRegs) : fld (familyPorts s) a hi lo = fld s a hi lo := by
  unfold fld
  rw [rd_familyPorts h]

theorem flag_familyPorts (h : a ∉ baudRegs) : flag (familyPorts s) a i = flag s a i := by
  unfold flag
  rw [rd_familyPorts h]

end Fields

/-- No register that the recorder looks at is one that it counts in (R464 to R468). -/
theorem recorderInputs_uncounted : ∀ a ∈ recorderInputs, a ∉ glossRegs := by decide

/-- A code raised on a state that has the recorder and the stamp of s is the one code logged since s. -/
theorem logged_raiseGloss {s u : State} {code : Nat} {d0 d1 d2 : Word} (recorder : u.gloss = s.gloss) (stamp : SameStamp u s) :
    Logged code d0 d1 d2 s (raiseGloss u code d0 d1 d2) :=
  ⟨u, recorder, .inl stamp, fun a ha => .inr (rd_raiseGloss _ _ _ _ _ _ (recorderInputs_uncounted a ha)).symm, rfl⟩

/-! ### WCLK (R15) -/

section Wclk
variable {s : State}

/-- WCLK locks: WLOCK is set where SRC selects it. -/
theorem lockWclk_selected (h : fld s R.clkCtrl 1 0 = 1) :
    flag (lockWclk s) R.clkStat 6 = true ∧ Touches [] [R.clkStat] s (lockWclk s) := by
  rw [lockWclk, if_pos h]
  exact ⟨flag_setFlag _ _ _ (by decide), touches_setFlag touches_rfl _ (List.mem_singleton.2 rfl)⟩

/-- The device once WCLK, which it followed, has been lost: WLOCK clear, WLOST set, its own reference in use. -/
def handedOver (s : State) : State :=
  let t := setFlag (wrFld (clrFlag s R.clkStat 6) R.clkStat 5 4 (ownReference s)) R.clkStat 7
  { t with time := { s.time with wclkLost := true } }

/-- The loss of WCLK while it is followed is the hand-over and its Gloss code. -/
theorem loseWclk_followed (h : activeRef s = 1) :
    loseWclk s = raiseGloss (handedOver s) 0x0140 (w32 (ownReference s / 2)) (w32 s.time.frame) 0 := by
  have own : ownReference (clrFlag s R.clkStat 6) = ownReference s := by
    simp only [ownReference, crystalRuns, clrFlag_eq, flag_wrFld_ne (show R.clkCtrl ≠ R.clkStat by decide)]
    rfl
  simp only [loseWclk, h, own, decide_true, Bool.not_true, Bool.false_eq_true, if_false]
  rfl

theorem activeRef_handedOver : activeRef (handedOver s) = ownReference s := by
  show fld (setFlag (wrFld (clrFlag s R.clkStat 6) R.clkStat 5 4 (ownReference s)) R.clkStat 7) R.clkStat 5 4 = _
  rw [setFlag_eq, fld_wrFld_apart (by decide) (by decide) (by decide) (by decide), fld_wrFld_fits (by decide) (by decide)]
  unfold ownReference
  split <;> decide

theorem flags_handedOver : flag (handedOver s) R.clkStat 6 = false ∧ flag (handedOver s) R.clkStat 7 = true := by
  refine ⟨?_, flag_setFlag _ _ _ (by decide)⟩
  show flag (setFlag (wrFld (clrFlag s R.clkStat 6) R.clkStat 5 4 (ownReference s)) R.clkStat 7) R.clkStat 6 = false
  rw [setFlag_eq, flag_wrFld_apart (by decide) (by decide) (by decide), flag_wrFld_apart (by decide) (by decide) (by decide),
    flag_clrFlag _ _ _ (by decide)]

theorem touches_handedOver : Touches [.time] [R.clkStat] s (handedOver s) :=
  touches_time (touches_setFlag (touches_wrFld (touches_clrFlag touches_rfl _ (by decide)) _ _ _ (by decide)) _ (by decide)) _
    (by decide)

/-- WCLK is lost while it is followed (R15). -/
theorem wclkLost_followed (s : State) (followed : activeRef s = 1) :
    ∃ t, exec .wclkLost s = .next t ∧ flag t R.clkStat 6 = false ∧ flag t R.clkStat 7 = true ∧
      activeRef t = (if crystalRuns s then 0 else 2) ∧ t.time = { s.time with wclkLost := true } ∧
      Logged 0x0140 (w32 (if crystalRuns s then 0 else 1)) (w32 s.time.frame) 0 s t ∧
      Touches [.time, .gloss] (R.clkStat :: glossRegs) s t := by
  obtain ⟨wlock, wlost⟩ := flags_handedOver (s := s)
  have word : ownReference s / 2 = if crystalRuns s then 0 else 1 := by unfold ownReference; split <;> rfl
  have code := logged_raiseGloss (s := s) (u := handedOver s) (code := 0x0140) (d0 := w32 (ownReference s / 2)) (d1 := w32 s.time.frame)
    (d2 := 0) rfl ⟨rfl, rfl, rfl, rfl⟩
  refine ⟨_, congrArg Host.Outcome.next (loseWclk_followed followed), ?_, ?_, ?_, raiseGloss_time .., word ▸ code, ?_⟩
  · rw [flag_raiseGloss (by decide), wlock]
  · rw [flag_raiseGloss (by decide), wlost]
  · rw [activeRef, fld_raiseGloss (by decide)]
    exact activeRef_handedOver
  · exact touches_raiseGloss (touches_mono touches_handedOver (by decide) (by decide)) _ _ _ _ (by decide) (by decide)

end Wclk

/-! ### The timers' clock (R260) -/

section TimersClock
variable {s : State} {ao : Bool} {cause : Nat}

/-- The device once the timers have changed their clock, before the change is logged. -/
def clocked (s : State) (ao : Bool) : State :=
  wrFld { s with time := { s.time with onAo := ao, aoAcc := 0 } } R.tenseStat 4 4 (b2n ao)

theorem switchClock_eq : switchClock s ao cause =
    raiseGloss (clocked s ao) (if ao then 0x8100 else 0x8101) (w32 s.time.aoTime.toNat) (w32 (s.time.aoTime.toNat / 2 ^ 32)) (w32 cause) :=
  rfl

theorem time_switchClock : (switchClock s ao cause).time = { s.time with onAo := ao, aoAcc := 0 } := by
  rw [switchClock_eq, raiseGloss_time]
  rfl

/-- AOCLK shows the clock. -/
theorem flag_switchClock : flag (switchClock s ao cause) R.tenseStat 4 = ao := by
  rw [switchClock_eq, flag_raiseGloss (by decide), clocked, flag_wrFld (by decide)]
  cases ao <;> rfl

theorem touches_switchClock : Touches [.time, .gloss] (R.tenseStat :: glossRegs) s (switchClock s ao cause) :=
  touches_raiseGloss (touches_wrFld (touches_time touches_rfl _ (by decide)) _ _ _ (by decide)) _ _ _ _ (by decide) (by decide)

/-- The change is the one code logged, on any state with the recorder and the stamp of an earlier one. -/
theorem logged_switchClock {r : State} (recorder : s.gloss = r.gloss) (stamp : SameStamp s r) :
    Logged (if ao then 0x8100 else 0x8101) (w32 s.time.aoTime.toNat) (w32 (s.time.aoTime.toNat / 2 ^ 32)) (w32 cause) r
      (switchClock s ao cause) :=
  logged_raiseGloss (u := clocked s ao) recorder ⟨stamp.aoTime, stamp.epoch, stamp.epochSet, stamp.stampOld⟩

/-- The crystal stops while it is the reference: the AO oscillator takes over, and the timers' change is due (R14, R260). -/
theorem crystalFail_used (s : State) (fitted : flag s R.clkCtrl 4 = true) (used : activeRef s = 0) (onCrystal : s.time.onAo = false) :
    ∃ t, exec .crystalFail s = .next t ∧ flag t R.clkStat 8 = true ∧ activeRef t = 2 ∧
      t.time = { s.time with clockDue := some (true, 1) } ∧ Touches [.time] [R.clkStat] s t := by
  have crystal : (setFlag (wrFld s R.clkStat 5 4 2) R.clkStat 8).time.onAo ≠ true := by simp [onCrystal]
  refine ⟨_, (if_neg (by simp [fitted, used])).trans (congrArg Host.Outcome.next (if_neg crystal)), flag_setFlag _ _ _ (by decide), ?_,
    rfl, touches_time (touches_setFlag (touches_wrFld touches_rfl _ _ _ (by decide)) _ (by decide)) _ (by decide)⟩
  show fld (setFlag (wrFld s R.clkStat 5 4 2) R.clkStat 8) R.clkStat 5 4 = 2
  rw [setFlag_eq, fld_wrFld_apart (by decide) (by decide) (by decide) (by decide), fld_wrFld_fits (by decide) (by decide) (by decide)]

/-- A change that is due is made, and is due no longer. -/
theorem applyClockDue_due (h : s.time.clockDue = some (ao, cause)) :
    applyClockDue s = switchClock { s with time := { s.time with clockDue := none } } ao cause := by
  simp only [applyClockDue, h]

end TimersClock

/-! ### A board without a crystal (R16, R341, R442) -/

section NoCrystal
variable {s : State} {r : WclkRate}

/-- Boot step 3 is behind the device, XTAL reads 0, and the charger runs. -/
def crystalCleared (s : State) (familyOpen : Bool) : State :=
  let t := clrFlag (wrFld (startCharger { s with boot := { s.boot with ready := true } }) R.nvmBoot 7 4 3) R.clkCtrl 4
  { t with time := { s.time with familyOpen } }

/-- WCLK is the source, with its multiple and its family. -/
def wclkSource (s : State) (r : WclkRate) : State :=
  wrFld (wrFld (wrFld (crystalCleared s false) R.clkCtrl 7 6 r.multiple.val) R.clkCtrl 1 0 1) R.clkStat 3 3 (b2n r.family44)

/-- The AO oscillator is the reference, and XFAIL is set. -/
def aoSource (s : State) : State := setFlag (wrFld (crystalCleared s true) R.clkStat 5 4 2) R.clkStat 8

theorem crystalAbsent_wclk : crystalAbsent s (some r) =
    setFlag (wrFld (familyPorts (wclkSource s r)) R.clkStat 5 4 1) R.clkStat 6 := rfl

theorem crystalAbsent_none : crystalAbsent s none = switchClock (aoSource s) true 1 := rfl

/-- The row acts until boot step 3 has been passed, once the supply is good. -/
theorem exec_crystalStartTimeout {wclk : Option WclkRate} (begun : s.boot.ready = false) (good : supplyGood s = true) :
    exec (.crystalStartTimeout wclk) s = .next (crystalAbsent s wclk) := by
  show execCrystalStartTimeout wclk s = _
  simp [execCrystalStartTimeout, begun, good]

theorem touches_crystalCleared {f : Bool} : Touches [.boot, .power, .time] [R.clkCtrl, R.nvmBoot] s (crystalCleared s f) :=
  touches_time (touches_clrFlag (touches_wrFld (touches_power (touches_boot touches_rfl _ (by decide)) _ (by decide)) _ _ _ (by decide))
    _ (by decide)) _ (by decide)

theorem touches_wclkSource : Touches [.boot, .power, .time] [R.clkCtrl, R.clkStat, R.nvmBoot] s (wclkSource s r) :=
  touches_wrFld (touches_wrFld (touches_wrFld (touches_mono touches_crystalCleared (List.Subset.refl _) (by decide)) _ _ _ (by decide))
    _ _ _ (by decide)) _ _ _ (by decide)

theorem touches_aoSource : Touches [.boot, .power, .time] [R.clkCtrl, R.clkStat, R.nvmBoot] s (aoSource s) :=
  touches_setFlag (touches_wrFld (touches_mono touches_crystalCleared (List.Subset.refl _) (by decide)) _ _ _ (by decide)) _ (by decide)

theorem fields_crystalCleared {f : Bool} :
    flag (crystalCleared s f) R.clkCtrl 4 = false ∧ fld (crystalCleared s f) R.nvmBoot 7 4 = 3 := by
  refine ⟨flag_clrFlag _ _ _ (by decide), ?_⟩
  show fld (clrFlag (wrFld (startCharger { s with boot := { s.boot with ready := true } }) R.nvmBoot 7 4 3) R.clkCtrl 4)
    R.nvmBoot 7 4 = 3
  rw [clrFlag_eq, fld_wrFld_ne (by decide), fld_wrFld_fits (by decide) (by decide) (by decide)]

/-- The fields of CLK.CTRL and NVM.BOOT, and the family, where WCLK is the source. -/
theorem fields_wclkSource : flag (wclkSource s r) R.clkCtrl 4 = false ∧ fld (wclkSource s r) R.clkCtrl 7 6 = r.multiple.val ∧
    fld (wclkSource s r) R.clkCtrl 1 0 = 1 ∧ flag (wclkSource s r) R.clkStat 3 = r.family44 ∧
    fld (wclkSource s r) R.nvmBoot 7 4 = 3 := by
  obtain ⟨xtal, step⟩ := fields_crystalCleared (s := s) (f := false)
  unfold wclkSource
  refine ⟨?_, ?_, ?_, ?_, ?_⟩
  · rw [flag_wrFld_ne (by decide), flag_wrFld_apart (by decide) (by decide) (by decide),
      flag_wrFld_apart (by decide) (by decide) (by decide), xtal]
  · rw [fld_wrFld_ne (by decide), fld_wrFld_apart (by decide) (by decide) (by decide) (by decide),
      fld_wrFld_fits (by decide) (by decide) (Nat.lt_trans r.multiple.isLt (by decide))]
  · rw [fld_wrFld_ne (by decide), fld_wrFld_fits (by decide) (by decide) (by decide)]
  · rw [flag_wrFld (by decide)]
    cases r.family44 <;> rfl
  · rw [fld_wrFld_ne (by decide), fld_wrFld_ne (by decide), fld_wrFld_ne (by decide), step]

end NoCrystal

/-- With a WCLK rate found the device follows WCLK, and the ports' dividers its family (R16, R341). -/
theorem crystalStartTimeout_wclk (s : State) (r : WclkRate) (begun : s.boot.ready = false) (good : supplyGood s = true) :
    ∃ t, exec (.crystalStartTimeout (some r)) s = .next t ∧ t.boot = { s.boot with ready := true } ∧
      t.power = { s.power with vhold := 15000 } ∧ fld t R.nvmBoot 7 4 = 3 ∧ t.time = { s.time with familyOpen := false } ∧
      flag t R.clkCtrl 4 = false ∧ fld t R.clkCtrl 7 6 = r.multiple.val ∧ fld t R.clkCtrl 1 0 = 1 ∧
      flag t R.clkStat 3 = r.family44 ∧ activeRef t = 1 ∧ flag t R.clkStat 6 = true ∧
      (∀ p, p < 8 → rd t (spReg p 4) =
        if r.family44 = true ∧ rd s (spReg p 4) = 0x003126E9 then 0x002D288D else rd s (spReg p 4)) ∧
      Touches [.boot, .power, .time, .sp] (R.clkCtrl :: R.clkStat :: R.nvmBoot :: (List.range 8).map (spReg · 4)) s t := by
  obtain ⟨xtal, multiple, source, family, step⟩ := fields_wclkSource (s := s) (r := r)
  obtain ⟨ports, dividers⟩ := familyPorts_facts (wclkSource s r)
  rw [exec_crystalStartTimeout begun good, crystalAbsent_wclk, setFlag_eq]
  refine ⟨_, rfl, ports.parts.boot (by decide), ports.parts.power (by decide), ?_, ports.parts.time (by decide), ?_, ?_, ?_, ?_, ?_, ?_,
    fun p hp => ?_, ?_⟩
  · rw [fld_wrFld_ne (by decide), fld_wrFld_ne (by decide), fld_familyPorts (by decide), step]
  · rw [flag_wrFld_ne (by decide), flag_wrFld_ne (by decide), flag_familyPorts (by decide), xtal]
  · rw [fld_wrFld_ne (by decide), fld_wrFld_ne (by decide), fld_familyPorts (by decide), multiple]
  · rw [fld_wrFld_ne (by decide), fld_wrFld_ne (by decide), fld_familyPorts (by decide), source]
  · rw [flag_wrFld_apart (by decide) (by decide) (by decide), flag_wrFld_apart (by decide) (by decide) (by decide),
      flag_familyPorts (by decide), family]
  · rw [activeRef, fld_wrFld_apart (by decide) (by decide) (by decide) (by decide), fld_wrFld_fits (by decide) (by decide) (by decide)]
  · exact flag_setFlag _ _ _ (by decide)
  · have apart : ∀ a ∈ [R.clkCtrl, R.clkStat, R.nvmBoot], ∀ p, p < 8 → spReg p 4 ≠ a := by decide
    rw [wrFld, rd_wr_ne _ _ _ _ (apart _ (by decide) p hp), wrFld, rd_wr_ne _ _ _ _ (apart _ (by decide) p hp), dividers p hp,
      familyBaud, family, touches_wclkSource.regs _ fun h => apart _ h p hp rfl]
  · exact touches_wrFld (touches_wrFld (touches_trans (touches_mono touches_wclkSource (by decide) (by decide))
      (touches_mono ports (by decide) (by decide))) _ _ _ (by decide)) _ _ _ (by decide)

/-- With none found the device runs on the AO oscillator (R16, R260). -/
theorem crystalStartTimeout_ao (s : State) (begun : s.boot.ready = false) (good : supplyGood s = true) :
    ∃ t, exec (.crystalStartTimeout none) s = .next t ∧ t.boot = { s.boot with ready := true } ∧ flag t R.clkCtrl 4 = false ∧
      t.power = { s.power with vhold := 15000 } ∧ fld t R.nvmBoot 7 4 = 3 ∧
      flag t R.clkStat 8 = true ∧ activeRef t = 2 ∧ flag t R.tenseStat 4 = true ∧
      t.time = { s.time with onAo := true, aoAcc := 0, familyOpen := true } ∧
      Logged 0x8100 (w32 s.time.aoTime.toNat) (w32 (s.time.aoTime.toNat / 2 ^ 32)) 1 s t ∧
      Touches [.boot, .power, .time, .gloss] (R.clkCtrl :: R.clkStat :: R.nvmBoot :: R.tenseStat :: glossRegs) s t := by
  obtain ⟨xtal, step⟩ := fields_crystalCleared (s := s) (f := true)
  have switch := touches_switchClock (s := aoSource s) (ao := true) (cause := 1)
  have sameFld : ∀ a hi lo, a ∉ R.tenseStat :: glossRegs → fld (switchClock (aoSource s) true 1) a hi lo = fld (aoSource s) a hi lo :=
    fun a hi lo h => by rw [fld, switch.regs a h]; rfl
  have sameFlag : ∀ a i, a ∉ R.tenseStat :: glossRegs → flag (switchClock (aoSource s) true 1) a i = flag (aoSource s) a i :=
    fun a i h => by rw [flag, switch.regs a h]; rfl
  rw [exec_crystalStartTimeout begun good, crystalAbsent_none]
  refine ⟨_, rfl, switch.parts.boot (by decide), ?_, switch.parts.power (by decide), ?_, ?_, ?_, flag_switchClock, time_switchClock,
    logged_switchClock rfl ⟨rfl, rfl, rfl, rfl⟩, ?_⟩
  · rw [sameFlag _ _ (by decide), aoSource, setFlag_eq, flag_wrFld_ne (by decide), flag_wrFld_ne (by decide), xtal]
  · rw [sameFld _ _ _ (by decide), aoSource, setFlag_eq, fld_wrFld_ne (by decide), fld_wrFld_ne (by decide), step]
  · rw [sameFlag _ _ (by decide), aoSource, flag_setFlag _ _ _ (by decide)]
  · rw [activeRef, sameFld _ _ _ (by decide), aoSource, setFlag_eq, fld_wrFld_apart (by decide) (by decide) (by decide) (by decide),
      fld_wrFld_fits (by decide) (by decide) (by decide)]
  · exact touches_trans (touches_mono touches_aoSource (by decide) (by decide)) (touches_mono switch (by decide) (by decide))

/-- Settles O7: each row is the update of CLK.STAT and of the time that its rule names, with the code that it raises. -/
theorem referenceClock : Obligations.ReferenceClock := by
  refine ⟨fun s known selected => ?_, fun s lost selected => ?_, wclkLost_followed, crystalFail_used, crystalStartTimeout_wclk,
    crystalStartTimeout_ao, fun s ao cause due => ?_⟩
  · exact ⟨lockWclk s, congrArg Host.Outcome.next (if_neg (by simp [known])), lockWclk_selected selected⟩
  · exact ⟨lockWclk s, congrArg Host.Outcome.next (if_pos lost), lockWclk_selected selected⟩
  · exact ⟨_, congrArg Host.Outcome.next (applyClockDue_due due), time_switchClock, flag_switchClock,
      logged_switchClock rfl ⟨rfl, rfl, rfl, rfl⟩, touches_trans (touches_time touches_rfl _ (by decide)) touches_switchClock⟩

/-! ### What accesses of memory touch (R395 to R398, R404) -/

/-- Beside the bytes and check bytes, an access that meets an error is counted and logged. -/
def memoryParts : List Part := [.mem, .ecc, .memint, .gloss]

/-- The registers that show the errors met (R396, R397), and those that a logged code counts in. -/
def memoryRegs : List Nat :=
  [R.memCelex, R.memCevloc, R.memCeshr, R.memStat, R.memUecnt, R.memUelog, R.memUeaddr, R.sysIrqstat] ++ glossRegs

section MemoryAccess
variable {s t : State}

theorem touches_logCorrected (h : Touches memoryParts memoryRegs s t) (a k : Nat) :
    Touches memoryParts memoryRegs s (logCorrected t a k) := by
  have counted : ∀ u, Touches memoryParts memoryRegs s u →
      Touches memoryParts memoryRegs s (if u.memint.scrub.contains a then u
        else { u with memint := { u.memint with scrub := u.memint.scrub ++ [a] } }) :=
    fun u hu => touches_ite hu (touches_memint hu _ (by decide))
  refine touches_raiseGloss (counted _ (touches_setFlag (touches_countUp h ?_) _ (by decide))) _ _ _ _ (by decide) (by decide)
  split
  · decide
  · split <;> decide

theorem touches_logBad (h : Touches memoryParts memoryRegs s t) (req a : Nat) : Touches memoryParts memoryRegs s (logBad t req a) := by
  have shown : ∀ u, Touches memoryParts memoryRegs s u →
      Touches memoryParts memoryRegs s (if flag u R.memStat 1 then u else raiseIrq (setFlag u R.memStat 1) 13) :=
    fun u hu => touches_ite hu (touches_raiseIrq (touches_setFlag hu _ (by decide)) _ (by decide))
  have logged : ∀ u, Touches memoryParts memoryRegs s u →
      Touches memoryParts memoryRegs s (if flag u R.memUelog 31 then setFlag u R.memUelog 30
        else wr (wr u R.memUelog (w32 (0x80000000 + req * 256 + bankOf a))) R.memUeaddr (w32 a)) :=
    fun u hu => touches_ite (touches_setFlag hu _ (by decide)) (touches_wr (touches_wr hu _ (by decide)) _ (by decide))
  exact touches_raiseGloss (logged _ (shown _ (touches_countUp h (by decide)))) _ _ _ _ (by decide) (by decide)

theorem touches_fetchWord (h : Touches memoryParts memoryRegs s t) (req a : Nat) :
    Touches memoryParts memoryRegs s (fetchWord t req a).1 := by
  unfold fetchWord
  split
  · exact h
  · exact touches_logCorrected h _ _
  · exact touches_logBad h _ _

theorem touches_memLoad (h : Touches memoryParts memoryRegs s t) (req a size : Nat) :
    Touches memoryParts memoryRegs s (memLoad t req a size).1 := by
  unfold memLoad
  dsimp only
  split
  · exact touches_fetchWord h _ _
  · exact touches_fetchWord (touches_fetchWord h _ _) _ _

theorem touches_putWord (h : Touches memoryParts memoryRegs s t) (a : Nat) (d : DWord) :
    Touches memoryParts memoryRegs s (putWord t a d) :=
  touches_putBytes (touches_ecc h _ (by decide)) _ _ (by decide)

theorem touches_putPoison (h : Touches memoryParts memoryRegs s t) (a : Nat) (d : DWord) :
    Touches memoryParts memoryRegs s (putPoison t a d) :=
  touches_ecc (touches_putWord h _ _) _ (by decide)

theorem touches_mergeWord (h : Touches memoryParts memoryRegs s t) (req a off : Nat) (bs : List Byte) :
    Touches memoryParts memoryRegs s (mergeWord t req a off bs) := by
  unfold mergeWord
  split
  · exact touches_putBytes h _ _ (by decide)
  · exact touches_ite (touches_putPoison (touches_fetchWord h _ _) _ _) (touches_putWord (touches_fetchWord h _ _) _ _)

theorem touches_memStore (h : Touches memoryParts memoryRegs s t) (req a size : Nat) (v : DWord) :
    Touches memoryParts memoryRegs s (memStore t req a size v) := by
  unfold memStore
  dsimp only
  split
  · exact touches_putWord h _ _
  · split
    · exact touches_mergeWord h _ _ _ _
    · exact touches_mergeWord (touches_mergeWord h _ _ _ _) _ _ _ _

end MemoryAccess

/-! ### What the samples of a sample time touch (R270 to R276, R286 to R294, R309 to R317, R385 to R387) -/

def sampleParts : List Part := [.evt, .analog, .dai, .free] ++ memoryParts

def sampleRegs : List Nat :=
  [R.adcStat, R.adcFlag] ++ (List.range 32).map (R.adcTctl + 16 * ·) ++ (List.range 4).map (daiReg R.daiStat) ++
    (List.range 4).map (daiReg R.daiSlip) ++ memoryRegs

/-- From s to t no more differs than what the samples of a sample time touch: the converters and ports, their rings in memory, the events
that they hand over. -/
abbrev Sampled (s t : State) : Prop := Touches sampleParts sampleRegs s t

theorem memoryParts_sampled : memoryParts ⊆ sampleParts := by decide

theorem memoryRegs_sampled : memoryRegs ⊆ sampleRegs := List.subset_append_right _ _

theorem adcTctl_sampled {x : Nat} (h : x < 32) : R.adcTctl + 16 * x ∈ sampleRegs := by
  have all : ∀ x, x < 32 → R.adcTctl + 16 * x ∈ sampleRegs := by decide
  exact all x h

theorem daiStat_sampled {p : Nat} (h : p < 4) : daiReg R.daiStat p ∈ sampleRegs := by
  have all : ∀ p, p < 4 → daiReg R.daiStat p ∈ sampleRegs := by decide
  exact all p h

theorem daiSlip_sampled {p : Nat} (h : p < 4) : daiReg R.daiSlip p ∈ sampleRegs := by
  have all : ∀ p, p < 4 → daiReg R.daiSlip p ∈ sampleRegs := by decide
  exact all p h

section Samples
variable {s t : State}

/-- A step made once for each of some things. -/
theorem touches_foldl {ps : List Part} {rs : List Nat} {α : Type} {f : State → α → State} {l : List α} (h : Touches ps rs s t)
    (hf : ∀ u x, x ∈ l → Touches ps rs s u → Touches ps rs s (f u x)) : Touches ps rs s (l.foldl f t) :=
  List.foldlRecOn (motive := Touches ps rs s) l f h fun u hu x hx => hf u x hx hu

/-- The same where the step gives a value beside the state. -/
theorem touches_foldl_fst {ps : List Part} {rs : List Nat} {α β : Type} {f : State × β → α → State × β} {l : List α} {b : β}
    (h : Touches ps rs s t) (hf : ∀ u x, x ∈ l → Touches ps rs s u.1 → Touches ps rs s (f u x).1) :
    Touches ps rs s (l.foldl f (t, b)).1 :=
  List.foldlRecOn (motive := fun u => Touches ps rs s u.1) l f h fun u hu x hx => hf u x hx hu

theorem sampled_analog (h : Sampled s t) (x : AnalogSt) : Sampled s { t with analog := x } := touches_analog h x (by decide)

theorem sampled_dai (h : Sampled s t) (x : List DaiSt) : Sampled s { t with dai := x } := touches_dai h x (by decide)

theorem sampled_memStore (h : Sampled s t) (req a size : Nat) (v : DWord) : Sampled s (memStore t req a size v) :=
  touches_trans h (touches_mono (touches_memStore touches_rfl _ _ _ _) memoryParts_sampled memoryRegs_sampled)

theorem sampled_memLoad (h : Sampled s t) (req a size : Nat) : Sampled s (memLoad t req a size).1 :=
  touches_trans h (touches_mono (touches_memLoad touches_rfl _ _ _) memoryParts_sampled memoryRegs_sampled)

/-! #### Inputs -/

section Inputs
variable {n x : Nat}

theorem sampled_freshDetectors (h : Sampled s t) : Sampled s (freshDetectors t n) := sampled_analog (sampled_analog h _) _

theorem sampled_startChannel (h : Sampled s t) (u : Nat) : Sampled s (startChannel t n u) :=
  sampled_freshDetectors (touches_setFlag (sampled_analog h _) _ (by decide))

theorem sampled_stopChannel (h : Sampled s t) : Sampled s (stopChannel t n) :=
  sampled_freshDetectors (touches_clrFlag (sampled_analog h _) _ (by decide))

theorem sampled_followRun (h : Sampled s t) (u : Nat) : Sampled s (followRun u t n) :=
  touches_ite h (touches_ite (sampled_startChannel h u) (sampled_stopChannel h))

theorem sampled_settled (h : Sampled s t) : Sampled s (settled t n) :=
  sampled_freshDetectors (touches_clrFlag (sampled_analog h _) _ (by decide))

theorem sampled_chainTick (h : Sampled s t) (u : Nat) : Sampled s (chainTick t n u).1 := by
  unfold chainTick
  dsimp only
  split <;> exact sampled_analog h _

theorem sampled_threshEvent (h : Sampled s t) (stamp : DWord) (v : Int) : Sampled s (threshEvent t x stamp v) :=
  touches_evt h _ (by decide)

theorem sampled_evaluate (h : Sampled s t) (hx : x < 32) (w : Int) : Sampled s (evaluate t x w).1 := by
  have put : ∀ b, Sampled s (wrFld (onDet t x fun d => { d with last := some w }) (R.adcTctl + 16 * x) 31 31 (b2n b)) :=
    fun b => touches_wrFld (sampled_analog h _) _ _ _ (adcTctl_sampled hx)
  unfold evaluate
  dsimp only
  split
  · exact put _
  · split
    · exact put _
    · split
      · exact put _
      · exact sampled_analog h _

theorem sampled_beginEvent (h : Sampled s t) (stamp : DWord) (w : Int) : Sampled s (beginEvent t x stamp w) :=
  touches_ite (sampled_threshEvent (sampled_analog h _) _ _) (sampled_analog (sampled_analog h _) _)

theorem sampled_runWindows (h : Sampled s t) (w : Int) : Sampled s (runWindows t x w) :=
  touches_foldl (sampled_analog h _) fun _ _ _ hu => sampled_threshEvent hu _ _

theorem sampled_detect (h : Sampled s t) (hx : x < 32) (w : Int) (b : DWord) : Sampled s (detect t x w b) := by
  have evaluated := sampled_evaluate h hx w
  unfold detect
  dsimp only
  split
  · rename_i e _
    rw [e] at evaluated
    exact touches_ite (sampled_beginEvent evaluated _ _) evaluated
  · rename_i e _
    rw [e] at evaluated
    exact evaluated

theorem sampled_detectSample (h : Sampled s t) (hx : x < 32) (v : Int) (b : DWord) : Sampled s (detectSample t x v b) :=
  touches_ite h (touches_ite (sampled_detect (sampled_runWindows h _) hx _ _) (sampled_runWindows h _))

theorem sampled_writeInput (h : Sampled s t) (u : Nat) (v : Word) : Sampled s (writeInput t n u v) := sampled_memStore h _ _ _ _

theorem sampled_holdCount (h : Sampled s t) : Sampled s (holdCount t n) := sampled_analog (sampled_analog h _) _

theorem sampled_deliverValue (h : Sampled s t) (hn : n < 16) (u : Nat) (x : Int) (watched : Bool) :
    Sampled s (deliverValue t n u x watched) := by
  have marked : ∀ c : Bool, Sampled s (if c then setFlag t R.adcFlag n else t) :=
    fun c => touches_ite (touches_setFlag h _ (by decide)) h
  have written : ∀ v c, Sampled s
      (writeInput (onAdc (if c = true then setFlag t R.adcFlag n else t) n fun d => { d with held := v }) n u v) :=
    fun v c => sampled_writeInput (sampled_analog (marked c) _) _ _
  exact touches_ite (sampled_detectSample (sampled_detectSample (written _ _) (by omega) _ _) (by omega) _ _) (written _ _)

theorem sampled_deliverSample (h : Sampled s t) (hn : n < 16) (u : Nat) (x : Int) : Sampled s (deliverSample t n u x) := by
  have counted : Sampled s (holdCount (if (adcOf t n).settle = 1 then settled t n
      else onAdc t n fun c => { c with settle := c.settle - 1 }) n) :=
    sampled_holdCount (touches_ite (sampled_settled h) (sampled_analog h _))
  exact touches_ite (sampled_writeInput counted _ _) (touches_ite (sampled_writeInput counted _ _) (sampled_deliverValue counted hn _ _ _))

theorem sampled_adcSample (h : Sampled s t) (hn : n < 16) (u : Nat) : Sampled s (adcSample u t n) := by
  have follow := sampled_followRun (n := n) h u
  have chain := sampled_chainTick (n := n) follow u
  exact touches_ite (sampled_writeInput (sampled_holdCount follow) _ _) (touches_ite chain (sampled_deliverSample chain hn _ _))

theorem sampled_adcTick (h : Sampled s t) : Sampled s (adcTick t) :=
  touches_ite h (touches_foldl h fun _ _ hx hu => sampled_adcSample hu (List.mem_range.1 hx) _)

end Inputs

/-! #### Digital audio ports -/

section Ports
variable {p : Nat}

theorem sampled_daiSlip (h : Sampled s t) (hp : p < 4) (kind : Nat) : Sampled s (daiSlip t p kind) := by
  have counted := touches_countUp (touches_setFlag h (1 - kind) (daiStat_sampled hp)) (daiSlip_sampled hp)
  exact touches_ite counted (touches_raiseGloss (sampled_dai counted _) _ _ _ _ (by decide) (by decide))

theorem sampled_daiDeliver (h : Sampled s t) (u : Nat) (ws : List Word) : Sampled s (daiDeliver t p u ws) :=
  touches_foldl h fun _ _ _ hv => sampled_memStore hv _ _ _ _

theorem sampled_daiTake (h : Sampled s t) (u : Nat) (slots : List Word) : Sampled s (daiTake t p u slots) :=
  sampled_daiDeliver (sampled_dai h _) _ _

theorem sampled_daiNone (h : Sampled s t) (hp : p < 4) (u : Nat) : Sampled s (daiNone u t p) :=
  touches_ite (sampled_daiDeliver (sampled_dai (sampled_daiSlip h hp _) _) _ _) (sampled_daiDeliver h _ _)

theorem sampled_daiTick (h : Sampled s t) (hp : p < 4) (u : Nat) : Sampled s (daiTick u t p) := by
  have past : Sampled s (daiPast t p u) := sampled_dai h _
  refine touches_ite h ?_
  split
  · exact touches_ite (sampled_daiTake past _ _) (sampled_daiNone past hp _)
  · exact sampled_daiNone past hp _

theorem sampled_keepSlots (h : Sampled s t) (u : Nat) : Sampled s (keepSlots u t p) := touches_ite (sampled_dai h _) h

theorem sampled_slotSource (h : Sampled s t) (k v : Nat) : Sampled s (slotSource t p k v).1 := by
  unfold slotSource
  dsimp only
  split
  · exact h
  · exact sampled_memLoad h _ _ _
  · exact sampled_memLoad h _ _ _
  · exact h

theorem sampled_slotWord {acc : State × List (Option Word)} (h : Sampled s acc.1) (hp : p < 4) (v k : Nat) :
    Sampled s (slotWord v p acc k).1 := by
  have source := sampled_slotSource (p := p) h k v
  unfold slotWord
  split
  · rename_i e
    rw [e] at source
    exact source
  · rename_i e
    rw [e] at source
    exact touches_ite (touches_setFlag source _ (daiStat_sampled hp)) source

theorem sampled_daiSend (h : Sampled s t) (hp : p < 4) (v : Nat) : Sampled s (daiSend t p v) := by
  have slipped : Sampled s (match (daiOf t p).lastV with
      | some last => if daiController t p ∨ v = last + 1 then t else daiSlip t p 1
      | none => t) := by
    split
    · exact touches_ite h (sampled_daiSlip h hp _)
    · exact h
  exact sampled_dai (touches_foldl_fst slipped fun _ _ _ hu => sampled_slotWord hu hp _ _) _

theorem sampled_daiBegin (h : Sampled s t) (hp : p < 4) (u : Nat) : Sampled s (daiBegin u t p) := touches_ite (sampled_daiSend h hp _) h

end Ports

/-! #### Outputs -/

section Outputs
variable {k : Nat}

theorem sampled_closePark (h : Sampled s t) : Sampled s (closePark t k) :=
  touches_ite (sampled_analog (sampled_analog h _) _) (sampled_analog h _)

theorem sampled_kappaStep (h : Sampled s t) : Sampled s (kappaStep t k) := touches_ite h (sampled_analog h _)

theorem sampled_dacSample (h : Sampled s t) (j : Nat) : Sampled s (dacSample j t k) := by
  have drawn : Sampled s (drawFree t).1 := touches_free h _ (by decide)
  have stepped : ∀ f, Sampled s (kappaStep (onDac (drawFree t).1 k f) k) := fun f => sampled_kappaStep (sampled_analog drawn _)
  exact touches_ite h (touches_ite (sampled_closePark (stepped _)) (stepped _))

theorem sampled_spoilCv (h : Sampled s t) : Sampled s (spoilCv t k) := touches_ite (sampled_analog h _) h

theorem sampled_cvRamp (h : Sampled s t) : Sampled s (cvRamp t k) :=
  touches_ite (touches_ite (sampled_analog h _) (touches_ite (sampled_spoilCv (sampled_analog h _)) (sampled_analog h _)))
    (touches_ite (touches_ite (sampled_analog h _) (sampled_analog h _)) (sampled_analog h _))

theorem sampled_cvSequence (h : Sampled s t) : Sampled s (cvSequence t k) :=
  touches_ite (sampled_analog (sampled_cvRamp h) _) (touches_ite (sampled_analog (sampled_cvRamp h) _) (sampled_cvRamp h))

theorem sampled_cvSample (h : Sampled s t) (j : Nat) : Sampled s (cvSample j t k) :=
  touches_ite h (sampled_cvSequence (sampled_analog (sampled_analog h _) _))

theorem sampled_monitorSample (h : Sampled s t) : Sampled s (monitorSample t) :=
  touches_ite (sampled_analog h _) (touches_ite (sampled_analog h _) (touches_ite h (sampled_analog h _)))

end Outputs

/-- A sample period of the inputs, the ports and the outputs. -/
theorem sampled_sampleTick (h : Sampled s t) : Sampled s (sampleTick t) := by
  have inputs := sampled_adcTick h
  have taken := touches_foldl (l := List.range 4) inputs fun v p hp hv => sampled_daiTick hv (List.mem_range.1 hp) (nowSample t)
  have begun := touches_foldl (l := List.range 4) taken fun v p hp hv => sampled_daiBegin hv (List.mem_range.1 hp) (nowSample t)
  have kept := touches_foldl (l := List.range 4) begun fun v p _ hv => sampled_keepSlots (p := p) hv (nowSample t)
  have audio := touches_foldl (l := List.range 16) kept fun v k _ hv => sampled_dacSample (k := k) hv (nowSample t % 16)
  have volts := touches_foldl (l := List.range 8) audio fun v k _ hv => sampled_cvSample (k := k) hv (nowSample t % 16)
  exact sampled_analog (sampled_monitorSample volts) _

end Samples

/-! ### A SYNC taken while rendering is stopped (R17, R249, R261, R312, R389) -/

section Roles
variable {s t : State} {ps : List Part} {rs : List Nat} (h : Touches ps rs s t) (cfg : R.linkCfg ∉ rs) (addr : R.linkAddr ∉ rs)
  (sys : Part.sys ∉ Part.regs :: ps)
include h cfg addr sys

/-- The role of the device is read from its link registers and from what its links told it (R347). -/
theorem isWorker_of_touches : isWorker t = isWorker s := by
  unfold isWorker tiersOf fld flag
  rw [h.regs _ cfg, h.regs _ addr, h.parts.sys sys]

theorem isRoot_of_touches : isRoot t = isRoot s := by
  unfold isRoot tiersOf fld
  rw [h.regs _ cfg, isWorker_of_touches h cfg addr sys]

end Roles

section Sync
variable {s : State} {instant : DWord}

theorem sampleStep_spec : Touches (.time :: sampleParts) sampleRegs s (sampleStep s) ∧
    (sampleStep s).time = { s.time with ticked := (sampleStep s).time.ticked } := by
  have ticks := sampled_sampleTick (s := { s with time := { s.time with ticked := some (nowSample s) } }) touches_rfl
  unfold sampleStep
  split
  · have time := ticks.parts.time (by decide)
    rw [time]
    exact ⟨touches_trans (touches_time touches_rfl _ (List.mem_cons_of_mem _ List.mem_cons_self))
      (touches_mono ticks (List.subset_cons_self ..) (List.Subset.refl _)), rfl⟩
  · exact ⟨touches_rfl, rfl⟩

/-- The sample due at an AOTIME is taken as at that time. -/
def sampleAt (s : State) (at' : DWord) : State :=
  let t := sampleStep { s with time := { s.time with aoTime := at' } }
  { t with time := { t.time with aoTime := s.time.aoTime } }

theorem sampleAt_spec (at' : DWord) : Touches (.time :: sampleParts) sampleRegs s (sampleAt s at') ∧
    (sampleAt s at').time = { s.time with ticked := (sampleAt s at').time.ticked } := by
  obtain ⟨touches, time⟩ := sampleStep_spec (s := { s with time := { s.time with aoTime := at' } })
  refine ⟨touches_time (touches_trans (touches_time touches_rfl _ ?_) touches) _ ?_, ?_⟩
  · exact List.mem_cons_of_mem _ List.mem_cons_self
  · exact List.mem_cons_of_mem _ List.mem_cons_self
  · exact congrArg (fun x : TimeSt => { x with aoTime := s.time.aoTime }) time

/-- A sample of the old epoch that falls due before the instant is taken; of the time it changes only which sample was the latest. -/
theorem sampleBefore_spec : Touches (.time :: sampleParts) sampleRegs s (sampleBefore s instant) ∧
    (sampleBefore s instant).time = { s.time with ticked := (sampleBefore s instant).time.ticked } := by
  unfold sampleBefore
  dsimp only
  split
  · exact sampleAt_spec _
  · exact ⟨touches_rfl, rfl⟩

/-- Before an epoch has been set no sample falls due. -/
theorem sampleBefore_unset (h : s.time.epochSet = false) : sampleBefore s instant = s := by
  simp [sampleBefore, sampleDue, h]

/-- Nothing waits for the epoch: GO names no channel, and there is no START (R261). -/
theorem applyAtEpoch_none (h : s.tense.atEpoch = (0, false)) : applyAtEpoch s = onTense s fun t => { t with atEpoch := (0, false) } := by
  have unnamed : idxs 16 (fun n => decide (0 / 2 ^ n % 2 = 1)) = [] := by decide
  unfold applyAtEpoch
  simp only [h, Bool.false_and, Bool.false_eq_true, if_false, timerGo, unnamed, List.foldl_nil]

/-- The inputs and ports restart. -/
theorem touches_restartGrid {t : State} {ps : List Part} {rs : List Nat} (h : Touches ps rs s t) (before : Option DWord)
    (analog : Part.analog ∈ Part.regs :: ps) (dai : Part.dai ∈ Part.regs :: ps) (stat : R.adcStat ∈ rs) :
    Touches ps rs s (restartGrid before t) := by
  refine touches_dai (touches_foldl h fun u n _ hu => ?_) _ dai
  have cleared : Touches ps rs s (onAdc u n fun c => { c with ovlFrame := none, given := none }) := touches_analog hu _ analog
  refine touches_ite ?_ cleared
  exact touches_analog (touches_analog (touches_setFlag (touches_analog cleared _ analog) _ stat) _ analog) _ analog

/-- The time once the epoch has been set at an instant while rendering is stopped (R17, R132). -/
def epochAt (x : TimeSt) (instant : DWord) : TimeSt :=
  { x with epoch := instant, epochSet := true, stampOld := false, ticked := none, synced := true, frame := 0, step1 := 0, step2 := 0,
           take := 0 }

/-- The device once the epoch lies at the instant, before its inputs and ports restart: the position is anchored in the new epoch, and
nothing waits for it any more. -/
def epochTaken (s : State) (instant : DWord) : State :=
  onTense (clrFlag { holdPosition s instant with time := epochAt s.time instant } R.linkStat 1) fun t => { t with atEpoch := (0, false) }

theorem touches_epochTaken : Touches [.time, .tense] [R.linkStat] s (epochTaken s instant) :=
  touches_tense (touches_clrFlag (touches_time (touches_tense touches_rfl _ (by decide)) _ (by decide)) _ (by decide)) _ (by decide)

/-- While rendering is stopped a SYNC takes the samples due before it, sets the epoch, and restarts the inputs and ports. -/
theorem takeSync_eq (stopped : s.time.rendering = false) (idle : s.tense.atEpoch = (0, false)) :
    ∃ old, takeSync s instant = restartGrid old (epochTaken (sampleBefore s instant) instant) := by
  obtain ⟨before, time⟩ := sampleBefore_spec (s := s) (instant := instant)
  have still : (sampleBefore s instant).time.rendering = false := by rw [time]; exact stopped
  have waits : (sampleBefore s instant).tense.atEpoch = (0, false) := by rw [before.parts.tense (by decide)]; exact idle
  refine ⟨if (sampleBefore s instant).time.epochSet then some (sampleBefore s instant).time.epoch else none, ?_⟩
  unfold takeSync
  simp only [still, Bool.false_and, Bool.false_eq_true, if_false]
  exact congrArg _ (applyAtEpoch_none waits)

/-- From s to t a SYNC has been taken while rendering was stopped: the epoch lies at its instant and frames count anew, and beside the
samples that were due before it no more than the position and the grid of the converters and ports has changed. -/
structure SyncTaken (s t : State) (instant : DWord) : Prop where
  time : ∃ ticked, t.time = epochAt { s.time with ticked } instant
  touches : Touches (.tense :: .time :: sampleParts) (R.linkStat :: sampleRegs) s t
  evt : s.time.epochSet = false → t.evt = s.evt

theorem takeSync_stopped (stopped : s.time.rendering = false) (idle : s.tense.atEpoch = (0, false)) :
    SyncTaken s (takeSync s instant) instant := by
  obtain ⟨before, time⟩ := sampleBefore_spec (s := s) (instant := instant)
  obtain ⟨old, taken⟩ := takeSync_eq (instant := instant) stopped idle
  have restart : Touches [.analog, .dai] [R.adcStat] (epochTaken (sampleBefore s instant) instant) (takeSync s instant) :=
    taken ▸ touches_restartGrid touches_rfl old (by decide) (by decide) (by decide)
  have set := touches_epochTaken (s := sampleBefore s instant) (instant := instant)
  refine ⟨⟨(sampleBefore s instant).time.ticked, ?_⟩, ?_, fun unset => ?_⟩
  · rw [restart.parts.time (by decide), ← time]
    rfl
  · exact touches_trans (touches_mono before (by decide) (by decide))
      (touches_trans (touches_mono set (by decide) (by decide)) (touches_mono restart (by decide) (by decide)))
  · rw [restart.parts.evt (by decide), set.parts.evt (by decide), sampleBefore_unset unset]

/-- A SYNC of the device's own is taken at its instant alone: after boot, while rendering is stopped, with nothing that waits for the epoch,
by a device without tiers (R17, R261, R347). -/
structure TakesSync (s : State) : Prop where
  booted : s.boot.interruptMode = true
  stopped : s.time.rendering = false
  idle : s.tense.atEpoch = (0, false)
  noWorker : isWorker s = false
  noRoot : isRoot s = false

/-- A device without tiers takes its own SYNC and sends none on (R357). -/
theorem ownSync_taken (h : TakesSync s) : SyncTaken s (ownSync s instant) instant := by
  have taken := takeSync_stopped (instant := instant) h.stopped h.idle
  have noRoot : isRoot (takeSync s instant) = false := by
    rw [isRoot_of_touches taken.touches (by decide) (by decide) (by decide), h.noRoot]
  simp only [ownSync, h.booted, h.noWorker, noRoot, Bool.not_true, Bool.false_and, Bool.or_self, Bool.false_eq_true, if_false]
  exact taken

end Sync

/-! ### The instants of a SYNC (R312) -/

/-- Two instants lie at an even distance when both are even or both odd. -/
theorem even_sub_iff (t e : DWord) : (t - e) % 2 = 0 ↔ t.toNat % 2 = e.toNat % 2 := by
  have h : ((t - e) % 2).toNat = (2 ^ 64 - e.toNat + t.toNat) % 2 ^ 64 % 2 := by rw [BitVec.toNat_umod, BitVec.toNat_sub]; rfl
  have zero : (0 : DWord).toNat = 0 := rfl
  have := e.isLt
  rw [← BitVec.toNat_inj, h, zero]
  omega

/-- The edge that a ball's SYNC takes lies at an even distance from the epoch, 2 to 4 cycles from now. -/
theorem syncEdge_spec (s : State) (d : SyncDelay) : (syncEdge s d.val - s.time.epoch) % 2 = 0 ∧
    2 ≤ (syncEdge s d.val - s.time.aoTime).toNat ∧ (syncEdge s d.val - s.time.aoTime).toNat ≤ 4 := by
  have delay := d.isLt
  unfold syncEdge w64
  generalize d.val = d at delay ⊢
  dsimp only
  split
  · rename_i even
    exact ⟨even, by bv_omega, by bv_omega⟩
  · rename_i odd
    rw [even_sub_iff] at odd
    split
    · exact ⟨(even_sub_iff _ _).2 (by bv_omega), by bv_omega, by bv_omega⟩
    · exact ⟨(even_sub_iff _ _).2 (by bv_omega), by bv_omega, by bv_omega⟩

/-! ### The rows of a SYNC -/

section Rows
variable {s : State}

theorem touches_latchWake (sources : BitVec 24) : Touches [.power] [] s (latchWake s sources) := by
  unfold latchWake
  split
  · exact touches_rfl
  · exact touches_ite (touches_power touches_rfl _ (by decide)) (touches_ite (touches_power touches_rfl _ (by decide)) touches_rfl)

/-- The ball has risen. -/
abbrev ballHigh (s : State) : State := { s with pins := { s.pins with sync := true } }

/-- An edge of the ball has been seen: asleep, and on the way there, it is a wake event where WAKEEN.SYNC is 1 (R453). -/
def ballSeen (s : State) : State :=
  if (asleep (ballHigh s) || s.power.entry.isSome) && flag (ballHigh s) R.pwrWakeen 2 then latchWake (ballHigh s) 4 else ballHigh s

theorem exec_syncBallEdge (d : SyncDelay) : exec (.syncBallEdge d) s = .next (ownSync (ballSeen s) (syncEdge (ballSeen s) d.val)) := rfl

theorem touches_ballSeen : Touches [.power] [] (ballHigh s) (ballSeen s) :=
  touches_ite (touches_latchWake _) touches_rfl

theorem writable_adcCtrl : Writable R.adcCtrl ((regDesc R.adcCtrl).get (by decide)) := by constructor <;> decide

/-- The ERR register of the ADC page. -/
abbrev adcErr : Nat := pageOf R.adcCtrl + 0xFFFC

/-- The word that the sync command writes: SYNC 1, and RUN as it stands (R312). -/
def syncWord (s : State) : Word := w32 (b2n (flag s R.adcCtrl 0) + 2)

/-- ADC.CTRL has been written by the sync command, and the page's ERR register is looked at from 0: the SYNC comes next. -/
def syncWritten (s : State) : State :=
  wrFld (if bitOf (syncWord s) 0 then wr s adcErr 0 else cutChannels (wr s adcErr 0) fun _ => true) R.adcCtrl 0 0 (bits (syncWord s) 0 0)

theorem touches_syncWritten_err : Touches [.analog] [R.adcCtrl] (wr s adcErr 0) (syncWritten s) :=
  touches_wrFld (touches_ite touches_rfl (touches_analog touches_rfl _ (by decide))) _ _ _ (by decide)

theorem touches_syncWritten : Touches [.analog] [R.adcCtrl, adcErr] s (syncWritten s) :=
  touches_trans (touches_wr touches_rfl _ (by decide)) (touches_mono touches_syncWritten_err (List.Subset.refl _) (by decide))

theorem writeAdcCtrl_sync : writeAdcCtrl (wr s adcErr 0) (syncWord s) = syncCommand (syncWritten s) := by
  have sync : bitOf (syncWord s) 1 = true := by unfold syncWord; cases flag s R.adcCtrl 0 <;> decide
  simp only [writeAdcCtrl, sync, if_true]
  rfl

/-- The sync command is the write of ADC.CTRL, with the page's ERR register put back. -/
theorem exec_syncCommand {ps : List Part} {rs : List Nat} (may : HostMayWrite s R.adcCtrl)
    (touches : Touches ps rs (wr s adcErr 0) (syncCommand (syncWritten s))) (err : adcErr ∉ rs) (stat : R.pwrStat ∉ rs) :
    exec .syncCommand s = .next (wr (syncCommand (syncWritten s)) adcErr (rd s adcErr)) := by
  rw [← writeAdcCtrl_sync] at touches ⊢
  exact congrArg Host.Outcome.next
    (command_done (f := fun u => writeAdcCtrl u (syncWord s)) may writable_adcCtrl rfl touches err stat).1

/-- What a row does before its SYNC does not keep the device from taking it. -/
theorem takesSync_touches {t : State} (h : Touches [.power, .analog] [R.adcCtrl, adcErr] s t) (takes : TakesSync s) : TakesSync t where
  booted := by rw [h.parts.boot (by decide), takes.booted]
  stopped := by rw [h.parts.time (by decide), takes.stopped]
  idle := by rw [h.parts.tense (by decide), takes.idle]
  noWorker := by rw [isWorker_of_touches h (by decide) (by decide) (by decide), takes.noWorker]
  noRoot := by rw [isRoot_of_touches h (by decide) (by decide) (by decide), takes.noRoot]

/-- A SYNC on the ball (R312). -/
theorem syncBallEdge_taken (d : SyncDelay) (takes : TakesSync s) :
    ∃ t, exec (.syncBallEdge d) s = .next t ∧ t.time.epoch = syncEdge s d.val ∧ (t.time.epoch - s.time.epoch) % 2 = 0 ∧
      2 ≤ (t.time.epoch - s.time.aoTime).toNat ∧ (t.time.epoch - s.time.aoTime).toNat ≤ 4 ∧ t.time.epochSet = true ∧
      t.time.frame = 0 ∧ t.time.aoTime = s.time.aoTime ∧ t.pins.sync = true ∧ t.phrases = s.phrases ∧
      (s.time.epochSet = false → t.evt = s.evt) := by
  have seen := touches_ballSeen (s := s)
  have time : (ballSeen s).time = s.time := seen.parts.time (by decide)
  have edge : syncEdge (ballSeen s) d.val = syncEdge s d.val := by unfold syncEdge; rw [time]
  have high : TakesSync (ballHigh s) := ⟨takes.booted, takes.stopped, takes.idle, takes.noWorker, takes.noRoot⟩
  have taken := ownSync_taken (instant := syncEdge s d.val) (takesSync_touches (touches_mono seen (by decide) (by decide)) high)
  obtain ⟨ticked, clock⟩ := taken.time
  obtain ⟨even, least, most⟩ := syncEdge_spec s d
  rw [exec_syncBallEdge, edge]
  rw [time] at clock
  refine ⟨_, rfl, ?_⟩
  rw [clock]
  refine ⟨rfl, even, least, most, rfl, rfl, rfl, ?_, ?_, fun unset => ?_⟩
  · rw [taken.touches.parts.pins (by decide), seen.parts.pins (by decide)]
  · rw [taken.touches.parts.phrases (by decide), seen.parts.phrases (by decide)]
  · rw [taken.evt (by rw [time]; exact unset), seen.parts.evt (by decide)]

/-- A SYNC by the sync command (R312). -/
theorem syncCommand_taken (may : HostMayWrite s R.adcCtrl) (takes : TakesSync s) :
    ∃ t, exec .syncCommand s = .next t ∧
      t.time.epoch = s.time.aoTime + 2 - (s.time.aoTime - s.time.epoch) % 2 ∧ t.time.epochSet = true ∧
      t.time.frame = 0 ∧ t.time.aoTime = s.time.aoTime ∧ t.phrases = s.phrases ∧ (s.time.epochSet = false → t.evt = s.evt) := by
  have written := touches_syncWritten (s := s)
  have time : (syncWritten s).time = s.time := written.parts.time (by decide)
  have taken : SyncTaken (syncWritten s) (syncCommand (syncWritten s)) (s.time.aoTime + 2 - (s.time.aoTime - s.time.epoch) % 2) := by
    rw [← time]
    exact ownSync_taken (takesSync_touches (touches_mono written (by decide) (List.Subset.refl _)) takes)
  have touches : Touches (.tense :: .time :: sampleParts) (R.adcCtrl :: R.linkStat :: sampleRegs) (wr s adcErr 0)
      (syncCommand (syncWritten s)) :=
    touches_trans (touches_mono touches_syncWritten_err (by decide) (by decide))
      (touches_mono taken.touches (List.Subset.refl _) (List.subset_cons_self ..))
  obtain ⟨ticked, clock⟩ := taken.time
  rw [time] at clock
  refine ⟨_, exec_syncCommand may touches (by decide) (by decide), ?_⟩
  rw [wr_time, wr_phrases, wr_evt, clock]
  exact ⟨rfl, rfl, rfl, rfl, touches.parts.phrases (by decide),
    fun unset => (taken.evt (by rw [time]; exact unset)).trans (written.parts.evt (by decide))⟩

/-- A device that follows the epoch of its link ignores the ball (R357). -/
theorem syncBallEdge_ignored (d : SyncDelay) (worker : isWorker s = true) (follows : flag s R.linkCfg 3 = false)
    (awake : asleep s = false) (staying : s.power.entry = none) : exec (.syncBallEdge d) s = .next (ballHigh s) := by
  have awake' : asleep (ballHigh s) = false := awake
  have seen : ballSeen s = ballHigh s := by simp [ballSeen, awake', staying]
  have worker' : isWorker (ballHigh s) = true := worker
  have follows' : flag (ballHigh s) R.linkCfg 3 = false := follows
  rw [exec_syncBallEdge, seen]
  simp [ownSync, worker', follows']

/-- Asleep the ball wakes the device, and no SYNC is taken (R17, R453). -/
theorem syncBallEdge_wakes (d : SyncDelay) (unbooted : s.boot.interruptMode = false) (sleeps : asleep s = true)
    (wakes : flag s R.pwrWakeen 2 = true) (unlatched : s.power.wakeLatch = 0) :
    exec (.syncBallEdge d) s =
      .next { ballHigh s with power := { s.power with wakeLatch := 4, wakeAt := s.time.aoTime } } := by
  have sleeps' : asleep (ballHigh s) = true := sleeps
  have wakes' : flag (ballHigh s) R.pwrWakeen 2 = true := wakes
  have seen : ballSeen s = { ballHigh s with power := { s.power with wakeLatch := 4, wakeAt := s.time.aoTime } } := by
    simp [ballSeen, sleeps', wakes', latchWake, unlatched]
  rw [exec_syncBallEdge, seen]
  simp [ownSync, unbooted]

end Rows

/-- Settles O8: without tiers a SYNC is taken at the instant its row gives; with them, and before interrupt mode, ownSync takes none. -/
theorem syncSetsEpoch : Obligations.SyncSetsEpoch :=
  ⟨fun _ d booted stopped idle noWorker noRoot => syncBallEdge_taken d ⟨booted, stopped, idle, noWorker, noRoot⟩,
    fun _ may booted stopped idle noWorker noRoot => syncCommand_taken may ⟨booted, stopped, idle, noWorker, noRoot⟩,
    fun _ d => syncBallEdge_ignored d, fun _ d => syncBallEdge_wakes d⟩

end Sys2Proof.Architecture

/-! PROOFS. The ordered-release chapter's statement: a fence that times out is abandoned. -/

namespace Sys2Proof.Concord
open Sys2Proof.Machine Sys2Proof.Laws

/-! ### Lists, maps and counters -/

theorem nth_set_self {α : Type} {l : List α} {i : Nat} (x d : α) (h : i < l.length) : nth (l.set i x) i d = x := by
  simp [nth, List.getD_eq_getElem?_getD, h]

/-- Where the list is too short to take the default, the default is read all the same. -/
theorem nth_set_default {α : Type} (l : List α) (i : Nat) (d : α) : nth (l.set i d) i d = d := by
  by_cases h : i < l.length
  · exact nth_set_self d d h
  · simp [nth, List.getD_eq_getElem?_getD, h]

/-- A map in which a value has been written at many keys holds it at each of them, and where it held it before. -/
theorem mapGet_foldl_mapSet {α ι : Type} [DecidableEq α] {m : List (Nat × α)} {d v : α} (key : ι → Nat) {l : List ι} {k : Nat}
    (h : (mapGet m k).getD d = v ∨ k ∈ l.map key) : (mapGet (l.foldl (fun m x => mapSet m d (key x) v) m) k).getD d = v := by
  induction l generalizing m with
  | nil => exact h.resolve_right List.not_mem_nil
  | cons x l ih =>
    rw [List.foldl_cons]
    refine ih ?_
    by_cases here : k = key x
    · exact .inl (here ▸ mapGet_mapSet_self m d v k)
    · rw [mapGet_mapSet_ne _ _ _ _ _ here]
      exact h.imp_right fun listed => (List.mem_cons.mp listed).resolve_left here

/-- What a counter shows once it has counted one more, from what it showed. -/
def countedUp (w : Word) : Word :=
  if bitOf w 31 then w else if bits w 23 0 + 1 = 0xFFFFFF then 0x80FFFFFF else setBits w 23 0 (bits w 23 0 + 1)

theorem rd_countUp (s : State) (a : Nat) : rd (countUp s a) a = countedUp (rd s a) := by
  unfold countUp countedUp flag fld wrFld
  split
  · rfl
  · split <;> exact rd_wr _ _ _

/-! ### Void frames (R173) -/

section VoidFrame
variable {s t : State} {n cause : Nat}

theorem time_voidFrame_congr (h : s.time = t.time) : (voidFrame s n cause).time = (voidFrame t n cause).time := by
  simp only [voidFrame, h]

theorem touches_voidFrame {ps : List Part} {rs : List Nat} (h : Touches ps rs s t) (timed : Part.time ∈ Part.regs :: ps) :
    Touches ps rs s (voidFrame t n cause) :=
  touches_time h _ timed

end VoidFrame

/-! ### Abandoning a fence (R168) -/

section Fence
variable {s : State} {g : Nat}

theorem mem_maskSources {src : Nat} : src ∈ maskSources s g ↔ src < 64 ∧ inMask s g src = true := by
  simp [maskSources, idxs]

theorem releaseHeld_unqueued (unqueued : s.evt.queue = []) : releaseHeld s = s := by
  simp [releaseHeld, unqueued, evSort]

/-- The fabric once every source of a group's mask is taken to have delivered a number and C(g) has become it. -/
def fenceClosed (s : State) (g : Nat) (top : Word) : State :=
  { s with evt := { (deliverAll s g top).evt with complete := s.evt.complete.set g top } }

theorem setComplete_deliverAll {top : Word} (unqueued : s.evt.queue = []) :
    setComplete (deliverAll s g top) g top = fenceClosed s g top :=
  releaseHeld_unqueued unqueued

theorem completeOf_fenceClosed {top : Word} (h : g < s.evt.complete.length) : completeOf (fenceClosed s g top) g = top :=
  nth_set_self top 0 h

theorem timer_fenceClosed {top : Word} : nth (fenceClosed s g top).evt.timers g none = none :=
  nth_set_default s.evt.timers g none

theorem delivered_fenceClosed {top : Word} {src : Nat} (masked : src ∈ maskSources s g) :
    delivered (fenceClosed s g top) g src = top :=
  mapGet_foldl_mapSet (64 * g + ·) (.inr (List.mem_map_of_mem masked))

/-- The fence is closed, and the abandonment recorded with the sources that have not delivered the number. -/
def fenceLogged (s : State) (g : Nat) : State :=
  let top := serialMax s g
  raiseGloss (fenceClosed s g top) (0x5150 + g) top (missingMask s g top).1 (missingMask s g top).2

theorem fenceLogged_evt : (fenceLogged s g).evt = (fenceClosed s g (serialMax s g)).evt := raiseGloss_evt ..

theorem fenceLogged_time : (fenceLogged s g).time = s.time := raiseGloss_time ..

theorem rd_fenceLogged {a : Nat} (h : a ∉ glossRegs) : rd (fenceLogged s g) a = rd s a := rd_raiseGloss _ _ _ _ _ _ h

theorem touches_fenceLogged : Touches [.evt, .gloss] glossRegs s (fenceLogged s g) :=
  touches_raiseGloss (touches_evt touches_rfl _ (by decide)) _ _ _ _ (by decide) (List.Subset.refl _)

/-- With no event held, what is left is to count the abandonment and to make the next frame taken void. -/
theorem abandonFence_unqueued (unqueued : s.evt.queue = []) :
    abandonFence s g = voidFrame (countUp (fenceLogged s g) R.evtPabandon) (nextTake s) 6 := by
  have take : nextTake (countUp (fenceLogged s g) R.evtPabandon) = nextTake s := by
    simp only [nextTake, countUp_time, fenceLogged_time]
  rw [← take]
  simp only [abandonFence, setComplete_deliverAll unqueued, fenceLogged]

/-- The one code logged is the abandonment's: closing the fence changes nothing that the recorder looks at. -/
theorem logged_abandonFence (unqueued : s.evt.queue = []) :
    Logged (0x5150 + g) (serialMax s g) (missingMask s g (serialMax s g)).1 (missingMask s g (serialMax s g)).2 s (abandonFence s g) := by
  refine ⟨fenceClosed s g (serialMax s g), rfl, .inl ⟨rfl, rfl, rfl, rfl⟩, fun _ _ => .inl rfl, ?_⟩
  rw [abandonFence_unqueued unqueued]
  exact countUp_gloss ..

theorem touches_abandonFence (unqueued : s.evt.queue = []) :
    Touches [.evt, .gloss, .time] (R.evtPabandon :: glossRegs) s (abandonFence s g) := by
  rw [abandonFence_unqueued unqueued]
  have logged := touches_mono (touches_fenceLogged (s := s) (g := g)) (ps := [.evt, .gloss, .time]) (by decide)
    (List.subset_cons_self R.evtPabandon glossRegs)
  exact touches_voidFrame (touches_countUp logged List.mem_cons_self) (by decide)

theorem evt_abandonFence (unqueued : s.evt.queue = []) : (abandonFence s g).evt = (fenceClosed s g (serialMax s g)).evt := by
  rw [abandonFence_unqueued unqueued]
  exact (countUp_evt ..).trans fenceLogged_evt

theorem time_abandonFence (unqueued : s.evt.queue = []) : (abandonFence s g).time = (voidFrame s (nextTake s) 6).time := by
  rw [abandonFence_unqueued unqueued]
  exact time_voidFrame_congr ((countUp_time ..).trans fenceLogged_time)

theorem pabandon_abandonFence (unqueued : s.evt.queue = []) :
    rd (abandonFence s g) R.evtPabandon = rd (countUp s R.evtPabandon) R.evtPabandon := by
  rw [abandonFence_unqueued unqueued]
  show rd (countUp (fenceLogged s g) R.evtPabandon) R.evtPabandon = _
  rw [rd_countUp, rd_fenceLogged (by decide), rd_countUp]

end Fence

/-! ### FENCE_TIMEOUT (R168) -/

section Timeout
variable {s : State} {g : Fin 4} {n : Word}

/-- The boundaries have run and C(g) has not reached the number. -/
theorem exec_fenceTimeout_due (timer : nth s.evt.timers g none = some (n, 0)) (below : serialBelow (completeOf s g) n = true) :
    exec (.fenceTimeout g) s = .next (abandonFence s g) := by
  show execFenceTimeout g s = _
  simp only [execFenceTimeout, timer, below, if_true]

/-- Boundaries remain, or C(g) has reached the number. -/
theorem exec_fenceTimeout_early {k : Nat} (timer : nth s.evt.timers g none = some (n, k))
    (early : k ≠ 0 ∨ serialBelow (completeOf s g) n = false) : exec (.fenceTimeout g) s = .next s := by
  show execFenceTimeout g s = _
  cases k with
  | zero =>
    have reached : serialBelow (completeOf s g) n = false := early.resolve_left (fun remain => remain rfl)
    simp [execFenceTimeout, timer, reached]
  | succ k => simp only [execFenceTimeout, timer]

end Timeout

/-- Settles O25: with no event held nothing is released, so an abandonment is the closed fence, its code, its count and its void frame. -/
theorem fenceAbandoned : Obligations.FenceAbandoned := by
  refine ⟨fun s g n unqueued four timer below => ?_, fun s g n k => exec_fenceTimeout_early⟩
  have closed := evt_abandonFence (g := g) unqueued
  refine ⟨abandonFence s g, _, _, exec_fenceTimeout_due timer below, ?_, fun src known masked => ?_, ?_, pabandon_abandonFence unqueued,
    logged_abandonFence unqueued, time_abandonFence unqueued, touches_abandonFence unqueued⟩
  · rw [completeOf, closed]
    exact completeOf_fenceClosed (Nat.lt_of_lt_of_eq g.isLt four.symm)
  · rw [delivered, closed]
    exact delivered_fenceClosed (mem_maskSources.mpr ⟨known, masked⟩)
  · rw [closed]
    exact timer_fenceClosed

end Sys2Proof.Concord

/-! PROOFS. The event-fabric chapter's statements: what the fabric accepts, the messages that arrive at the serial ports, and the two
windows of the host. -/

namespace Sys2Proof.EventFabric
open Sys2Proof.Machine Sys2Proof.Laws Sys2Proof.Architecture Sys2Proof.Concord

/-! ### An input that is counted and logged (R204, R205, R212) -/

section Counted
variable {s t : State} {ps : List Part} {a code : Nat} {d0 d1 d2 : Word}

/-- The counter shows one more than it did. -/
theorem rd_counted (h : Touches ps [] s t) (apart : a ∉ glossRegs) :
    rd (raiseGloss (countUp t a) code d0 d1 d2) a = rd (countUp s a) a := by
  rw [rd_raiseGloss _ _ _ _ _ _ apart, rd_countUp, rd_countUp, h.regs a List.not_mem_nil]

/-- The code is the one logged since a state with the same recorder and time. -/
theorem logged_counted (h : Touches ps [] s t) (recorder : Part.gloss ∉ Part.regs :: ps) (clock : Part.time ∉ Part.regs :: ps) :
    Logged code d0 d1 d2 s (raiseGloss (countUp t a) code d0 d1 d2) := by
  have time : (countUp t a).time = s.time := (countUp_time ..).trans (h.parts.time clock)
  exact logged_raiseGloss ((countUp_gloss ..).trans (h.parts.gloss recorder)) (by constructor <;> rw [time])

theorem touches_counted (h : Touches ps [] s t) :
    Touches (.gloss :: ps) (a :: glossRegs) s (raiseGloss (countUp t a) code d0 d1 d2) :=
  touches_raiseGloss (touches_countUp (touches_mono h (List.subset_cons_self ..) (List.nil_subset _)) List.mem_cons_self) _ _ _ _
    (List.mem_cons_of_mem _ List.mem_cons_self) (List.subset_cons_self ..)

end Counted

/-! ### The source whose turn it is (R210) -/

section Turn
variable {s : State} {src : Nat}

theorem canTake_nextSource (h : nextSource s = some src) : canTake s src = true := List.find?_some h

theorem nextSource_lt (h : nextSource s = some src) : src < 16 := by
  obtain ⟨i, -, rfl⟩ := List.mem_map.mp (List.mem_of_find?_eq_some h)
  exact Nat.mod_lt _ (by decide)

/-- Only a detector's or a timer's event has its turn at the quota, a PERIOD aside (R204). -/
theorem source_of_atQuota {e : ReadyEv} {rest : List ReadyEv} (turn : nextSource s = some src)
    (head : nth s.evt.ready src [] = e :: rest) (noPeriod : e.pkt.kind ≠ 0x0A) (quota : atQuota s src = true) :
    src = 13 ∨ src = 14 := by
  have takes := canTake_nextSource turn
  simp only [canTake, head, quota, decide_eq_false noPeriod, Bool.not_true, Bool.false_or, Bool.or_eq_true,
    decide_eq_true_eq] at takes
  exact takes

end Turn

/-! ### Taking the event at the head of a source (R210, R353) -/

/-- The head of a source no longer waits. -/
def headOut (s : State) (src : Nat) : State :=
  { s with evt := { s.evt with ready := s.evt.ready.modify src (·.drop 1), lastSrc := src } }

/-- The head of a source has been taken, the others wait on; a link's counts towards its credit. -/
def headTaken (s : State) (src : Nat) (rest : List ReadyEv) : State :=
  { s with
    links := (if 8 ≤ src ∧ src < 12 then creditEvent s (src - 8) else s).links,
    evt := { s.evt with ready := s.evt.ready.set src rest, lastSrc := src } }

section Taking
variable {s : State} {src : Nat} {e : ReadyEv} {rest : List ReadyEv}

/-- Dropping the head of a list of a group is putting its tail there. -/
theorem modify_drop_head {α : Type} {l : List (List α)} {i : Nat} {x : α} {xs : List α} (head : nth l i [] = x :: xs) :
    l.modify i (·.drop 1) = l.set i xs := by
  cases at_i : l[i]? with
  | none => simp [nth, List.getD_eq_getElem?_getD, at_i] at head
  | some y =>
    obtain rfl : y = x :: xs := by simpa only [nth, List.getD_eq_getElem?_getD, at_i, Option.getD_some] using head
    obtain ⟨known, -⟩ := List.getElem?_eq_some_iff.mp at_i
    refine List.ext_getElem? fun j => ?_
    by_cases here : i = j
    · subst here
      rw [List.getElem?_modify_eq, List.getElem?_set_self known, at_i]
      rfl
    · rw [List.getElem?_modify_ne _ _ here, List.getElem?_set_ne here]

theorem touches_headTaken : Touches [.evt, .links] [] s (headTaken s src rest) :=
  touches_evt (t := { s with links := (headTaken s src rest).links }) (touches_links touches_rfl _ (by decide)) (headTaken s src rest).evt
    (by decide)

theorem touches_headTaken_noLink (noLink : ¬(8 ≤ src ∧ src < 12)) : Touches [.evt] [] s (headTaken s src rest) := by
  unfold headTaken
  rw [if_neg noLink]
  exact touches_evt touches_rfl _ (by decide)

/-- The credit of a link's head stands in the links alone (R353). -/
theorem credited_eq_headTaken (head : nth s.evt.ready src [] = e :: rest) :
    (if 8 ≤ src ∧ src < 12 then creditEvent (headOut s src) (src - 8) else headOut s src) = headTaken s src rest := by
  unfold headOut headTaken
  rw [modify_drop_head head]
  split <;> rfl

/-- A device that is no worker drops the head at the quota, and accepts it otherwise. -/
theorem takeFrom_eq (single : isWorker s = false) (head : nth s.evt.ready src [] = e :: rest) :
    takeFrom s src = if atQuota s src && e.pkt.kind ≠ 0x0A then
        raiseGloss (countUp (headTaken s src rest) R.evtQdrop) 0x5101 (w32 src) (w32 e.pkt.kind.toNat) (w32 e.pkt.key.toNat)
      else acceptEvent (headTaken s src rest) src e.pkt := by
  have credited := credited_eq_headTaken head
  have worker : isWorker (headTaken s src rest) = false := single
  unfold headOut at credited
  simp only [takeFrom, head, credited, worker, Bool.false_eq_true, if_false]
  rfl

theorem exec_eventAccept (turn : nextSource s = some src) : exec .eventAccept s = .next (takeFrom s src) := by
  show execEventAccept s = _
  simp only [execEventAccept, turn]

theorem exec_eventAccept_idle (idle : nextSource s = none) : exec .eventAccept s = .next s := by
  show execEventAccept s = _
  simp only [execEventAccept, idle]

/-- The head is accepted: below the quota, or a PERIOD. -/
theorem exec_eventAccept_accepted (single : isWorker s = false) (turn : nextSource s = some src)
    (head : nth s.evt.ready src [] = e :: rest) (room : atQuota s src = false ∨ e.pkt.kind = 0x0A) :
    exec .eventAccept s = .next (acceptEvent (headTaken s src rest) src e.pkt) := by
  rw [exec_eventAccept turn, takeFrom_eq single head, if_neg]
  rcases room with below | period
  · simp [below]
  · simp [period]

/-- The head is dropped: at the quota. -/
theorem exec_eventAccept_dropped (single : isWorker s = false) (turn : nextSource s = some src)
    (head : nth s.evt.ready src [] = e :: rest) (noPeriod : e.pkt.kind ≠ 0x0A) (quota : atQuota s src = true) :
    exec .eventAccept s = .next (raiseGloss (countUp (headTaken s src rest) R.evtQdrop) 0x5101 (w32 src) (w32 e.pkt.kind.toNat)
      (w32 e.pkt.key.toNat)) := by
  rw [exec_eventAccept turn, takeFrom_eq single head, if_pos (Bool.and_eq_true_iff.mpr ⟨quota, decide_eq_true noPeriod⟩)]

end Taking

/-! ### Accepting an event (R205, R167, R208) -/

section Accepting
variable {s : State} {src : Nat} {p : EvPacket}

theorem acceptEvent_bad (noPeriod : p.kind ≠ 0x0A) (bad : eventBad p = true) :
    acceptEvent s src p = badMessage s src p.value.toNat 0 := by
  have bad' : ∀ source late fence, eventBad { p with source, late, fence } = true := fun _ _ _ => bad
  simp only [acceptEvent, if_neg noPeriod, bad', if_true]

/-- SOURCE is written, LATE and FENCE are cleared (R205). -/
theorem acceptEvent_queued (noPeriod : p.kind ≠ 0x0A)
    (good : eventBad { p with source := BitVec.ofNat 6 src, late := false, fence := false } = false) :
    acceptEvent s src p = enqueueEvent s src { p with source := BitVec.ofNat 6 src, late := false, fence := false } := by
  simp only [acceptEvent, if_neg noPeriod, decide_eq_false noPeriod, Bool.and_false, good, Bool.false_eq_true, if_false]

/-- With EVT.XCTL off an accepted event goes nowhere else (R175). -/
theorem exportEvent_off (off : flag s R.evtXctl 0 = false) : exportEvent s p = s := by
  simp [exportEvent, off]

/-- An event in time is left as it is, and a single device forwards nothing. -/
theorem makeAvailable_inTime {q : QueuedEv} (single : isRoot s = false) (inTime : nextTake s ≤ frameOf (effPos s q.pkt)) :
    makeAvailable s q = (s, q) := by
  simp [makeAvailable, restampLate, Nat.not_lt.mpr inTime, single]

/-- An event that no fence holds and that is in time joins the queue as it is. -/
theorem enqueueEvent_available (single : isRoot s = false) (off : flag s R.evtXctl 0 = false) (free : fenceWaits s src = [])
    (inTime : nextTake s ≤ frameOf (effPos s p)) :
    enqueueEvent s src p =
      { s with evt := { s.evt with seq := s.evt.seq + 1, queue := s.evt.queue ++ [{ pkt := p, seq := s.evt.seq, waits := [] }] } } := by
  have available : makeAvailable { s with evt := { s.evt with seq := s.evt.seq + 1 } } { pkt := p, seq := s.evt.seq, waits := [] } = _ :=
    makeAvailable_inTime single inTime
  have exported : ∀ evt, exportEvent { s with evt } p = { s with evt } := fun _ => exportEvent_off off
  simp only [enqueueEvent, free, available, exported, ite_self]

end Accepting

/-! ### A PERIOD (R166, R167) -/

section Period
variable {s : State} {src g : Nat} {p : EvPacket} {n : Word}

/-- A source has delivered a Period. -/
def periodDelivered (s : State) (g src : Nat) (n : Word) : State :=
  { s with evt := { s.evt with delivered := mapSet s.evt.delivered 0 (64 * g + src) n } }

/-- C(g) has become the minimum of what the sources of its mask delivered, with no event held. -/
def periodComplete (s : State) (g src : Nat) (n : Word) : State :=
  { s with evt := { (periodDelivered s g src n).evt with
      complete := s.evt.complete.set g (serialMin (periodDelivered s g src n) g) } }

theorem delivered_periodDelivered : delivered (periodDelivered s g src n) g src = n := mapGet_mapSet_self ..

/-- Groups of 64 sources do not meet. -/
theorem delivered_periodDelivered_ne {h x : Nat} (other : h ≠ g ∨ x ≠ src) (hx : x < 64) (hsrc : src < 64) :
    delivered (periodDelivered s g src n) h x = delivered s h x := by
  have apart : 64 * h + x ≠ 64 * g + src := by omega
  show (mapGet (mapSet s.evt.delivered 0 (64 * g + src) n) (64 * h + x)).getD 0 = _
  rw [mapGet_mapSet_ne _ _ _ _ _ apart]
  rfl

/-- The extreme of some sources does not see the number for none. -/
theorem extremeOf_congr {better : Word → Word → Bool} {c c' : Word} {d : Nat → Word} {l : List Nat} {x : Nat} (member : x ∈ l) :
    extremeOf better c d l = extremeOf better c' d l := by
  cases l with
  | nil => exact absurd member List.not_mem_nil
  | cons y ys => rfl

theorem completeOf_periodComplete (masked : inMask s g src = true) (hsrc : src < 64) (hg : g < s.evt.complete.length) :
    completeOf (periodComplete s g src n) g = serialMin (periodComplete s g src n) g := by
  have kept : completeOf (periodComplete s g src n) g = serialMin (periodDelivered s g src n) g := nth_set_self _ 0 hg
  rw [kept]
  exact extremeOf_congr (mem_maskSources.mpr ⟨hsrc, masked⟩)

/-- A PERIOD above what its source has delivered, in a group not complete up to it, raises D(g, s). -/
theorem acceptPeriod_raises (unqueued : s.evt.queue = []) (fence : p.fence = true) (group : p.key.toNat = g) (hg : g < 4)
    (masked : inMask s g src = true) (incomplete : serialBelow (completeOf s g) p.value = true)
    (raised : serialBelow (delivered s g src) p.value = true) : acceptPeriod s src p = periodComplete s g src p.value := by
  have good : periodBad p = false := by simp [periodBad, fence, group, hg]
  simp only [acceptPeriod, good, group, masked, incomplete, raised, Bool.not_true, Bool.false_eq_true, if_false, if_true]
  exact releaseHeld_unqueued unqueued

theorem acceptEvent_period (unqueued : s.evt.queue = []) (off : flag s R.evtXctl 0 = false) (period : p.kind = 0x0A)
    (fence : p.fence = true) (group : p.key.toNat = g) (hg : g < 4) (masked : inMask s g src = true)
    (incomplete : serialBelow (completeOf s g) p.value = true) (raised : serialBelow (delivered s g src) p.value = true) :
    acceptEvent s src p = periodComplete s g src p.value := by
  have accepted := acceptPeriod_raises (s := s) (src := src) (g := g)
    (p := { p with source := BitVec.ofNat 6 src, late := false, fence := true }) unqueued rfl group hg masked incomplete raised
  have exported : ∀ q, exportEvent (periodComplete s g src p.value) q = periodComplete s g src p.value := fun _ => exportEvent_off off
  simp only [acceptEvent, if_pos period, decide_eq_true period, fence, Bool.and_true, accepted, exported, ite_self]

theorem touches_periodComplete : Touches [.evt] [] s (periodComplete s g src n) := touches_evt touches_rfl _ (by decide)

end Period

/-- Settles O24: the head of the source whose turn it is is taken, and then queued, discarded, dropped or delivered as a PERIOD. -/
theorem fabricAccepts : Obligations.FabricAccepts := by
  refine ⟨fun s src e rest p single noRoot off turn head noPeriod room packet good free inTime => ?_,
    fun s src e rest single turn head noPeriod room bad => ?_, fun s src e rest single turn head noPeriod quota => ?_,
    fun s src g e rest single off unqueued turn head period fence group hg four masked incomplete raised => ?_, fun _ => exec_eventAccept_idle⟩
  · subst packet
    rw [exec_eventAccept_accepted single turn head (.inl room), acceptEvent_queued noPeriod good,
      enqueueEvent_available (s := headTaken s src rest) noRoot off free inTime]
    rfl
  · refine ⟨_, exec_eventAccept_accepted single turn head (.inl room), ?_⟩
    rw [acceptEvent_bad noPeriod bad]
    have taken := touches_headTaken (s := s) (src := src) (rest := rest)
    refine ⟨rd_counted taken (by decide), logged_counted taken (by decide) (by decide), (raiseGloss_links ..).trans (countUp_links ..),
      (raiseGloss_evt ..).trans (countUp_evt ..), touches_mono (touches_counted taken) (by decide) (List.Subset.refl _)⟩
  · have source := source_of_atQuota turn head noPeriod quota
    have taken := touches_headTaken_noLink (s := s) (src := src) (rest := rest) (by omega)
    exact ⟨_, exec_eventAccept_dropped single turn head noPeriod quota, rd_counted taken (by decide),
      logged_counted taken (by decide) (by decide), source, (raiseGloss_evt ..).trans (countUp_evt ..),
      touches_mono (touches_counted taken) (by decide) (List.Subset.refl _)⟩
  · have hsrc : src < 64 := Nat.lt_trans (nextSource_lt turn) (by decide)
    have accepted := acceptEvent_period (s := headTaken s src rest) (src := src) unqueued off period fence group.symm hg masked
      incomplete raised
    refine ⟨periodComplete (headTaken s src rest) g src e.pkt.value, ?_, delivered_periodDelivered,
      completeOf_periodComplete masked hsrc (Nat.lt_of_lt_of_eq hg four.symm),
      fun h x other _ hx => delivered_periodDelivered_ne other hx hsrc, unqueued, rfl, ?_⟩
    · rw [exec_eventAccept_accepted single turn head (.inr period), accepted]
    exact touches_trans touches_headTaken (touches_mono touches_periodComplete (by decide) (List.Subset.refl _))

/-! ### A character leaves a port's receive queue (R330, R335) -/

section Receive
variable {s : State} {p : Nat}

theorem touches_onSp (f : SpSt → SpSt) : Touches [.sp] [] s (onSp s p f) := touches_sp touches_rfl _ (by decide)

/-- A change of a port that acts on the receive queue in a way that leaves none where there is none. -/
theorem rxq_onSp {f : SpSt → SpSt} {g : List RxEntry → List RxEntry} (acts : ∀ q, (f q).rxq = g q.rxq) (empty : g [] = []) :
    (spOf (onSp s p f) p).rxq = g (spOf s p).rxq := by
  unfold spOf onSp nth
  simp only [List.getD_eq_getElem?_getD, List.getElem?_modify_eq]
  cases s.sp[p]? with
  | none => exact empty.symm
  | some q => exact acts q

theorem rxq_rtsFollow : (spOf (rtsFollow s p) p).rxq = (spOf s p).rxq := by
  have kept : ∀ level, (spOf (onSp s p fun q => { q with rts := level }) p).rxq = (spOf s p).rxq :=
    fun _ => rxq_onSp (g := id) (fun _ => rfl) rfl
  unfold rtsFollow
  dsimp only
  split
  · rfl
  · split
    · exact kept false
    · split
      · exact kept true
      · rfl

theorem touches_rtsFollow : Touches [.sp] [] s (rtsFollow s p) :=
  touches_ite touches_rfl (touches_ite (touches_onSp _) (touches_ite (touches_onSp _) touches_rfl))

theorem rxq_takeRx : (spOf (takeRx s p) p).rxq = (spOf s p).rxq.drop 1 :=
  rxq_rtsFollow.trans (rxq_onSp (g := List.drop 1) (fun _ => rfl) rfl)

theorem touches_takeRx : Touches [.sp] [] s (takeRx s p) := touches_trans (touches_onSp _) touches_rtsFollow

end Receive

/-! ### What a parser answers takes effect (R206, R208, R212) -/

section Parser
variable {s : State} {src : Nat} {ps : ParseSt} {e : EvPacket} {first reason : Nat}

/-- A source's parse state put where it stands. -/
theorem set_parseOf (src : Nat) : s.evt.parse.set src (parseOf s src) = s.evt.parse := by
  unfold parseOf nth
  by_cases known : src < s.evt.parse.length
  · simp [known]
  · exact List.set_eq_of_length_le (Nat.not_lt.mp known)

/-- The parser's state is kept, and an event that it hands over waits behind those of its source. -/
theorem applyParsed_event (noDetector : src ≠ 13) (noTimer : src ≠ 14) :
    applyParsed s src { ps, evs := [e] } = { s with evt := { s.evt with
      parse := s.evt.parse.set src ps, ready := s.evt.ready.modify src (· ++ [⟨e, s.time.aoTime⟩]) } } := by
  simp [applyParsed, offerEvent, noDetector, noTimer]

theorem applyParsed_discard :
    applyParsed s src { ps, bads := [(first, reason)] } =
      badMessage { s with evt := { s.evt with parse := s.evt.parse.set src ps } } src first reason := rfl

/-- The character at the head of a port's queue completes a message. -/
theorem message_handedOver {c : Instr} {r : Parsed} (port : src < 8) (row : exec c s = .next (applyParsed (takeRx s src) src r))
    (answer : r = { ps, evs := [e] }) :
    ∃ t, exec c s = .next t ∧
      t.evt = { s.evt with
        parse := s.evt.parse.set src ps, ready := s.evt.ready.modify src (· ++ [⟨e, s.time.aoTime⟩]) } ∧
      (spOf t src).rxq = (spOf s src).rxq.drop 1 ∧ Touches [.evt, .sp] [] s t := by
  have taken := touches_takeRx (s := s) (p := src)
  have evt := taken.parts.evt (by decide)
  have time := taken.parts.time (by decide)
  refine ⟨_, row, ?_⟩
  rw [answer, applyParsed_event (by omega) (by omega)]
  refine ⟨?_, rxq_takeRx, touches_evt (touches_mono taken (by decide) (List.Subset.refl _)) _ (by decide)⟩
  rw [evt, time]

/-- The character at the head of a port's queue ends a message that is discarded. -/
theorem message_discarded {c : Instr} {r : Parsed} (row : exec c s = .next (applyParsed (takeRx s src) src r))
    (answer : r = { ps, bads := [(first, reason)] }) :
    ∃ t, exec c s = .next t ∧ t.evt = { s.evt with parse := s.evt.parse.set src ps } ∧
      rd t R.evtBadmsg = rd (countUp s R.evtBadmsg) R.evtBadmsg ∧ Logged 0x5110 (w32 src) (w32 first) (w32 reason) s t ∧
      (spOf t src).rxq = (spOf s src).rxq.drop 1 ∧ Touches [.evt, .sp, .gloss] (R.evtBadmsg :: glossRegs) s t := by
  have taken := touches_takeRx (s := s) (p := src)
  have evt := taken.parts.evt (by decide)
  have parsed := touches_evt (ps := [.evt, .sp]) (touches_mono taken (by decide) (List.Subset.refl _))
    { s.evt with parse := s.evt.parse.set src ps } (by decide)
  refine ⟨_, row, ?_⟩
  rw [answer, applyParsed_discard, evt]
  refine ⟨(raiseGloss_evt ..).trans (countUp_evt ..), rd_counted parsed (by decide), logged_counted parsed (by decide) (by decide), ?_,
    touches_mono (touches_counted parsed) (by decide) (List.Subset.refl _)⟩
  have ports : ∀ u, (badMessage u src first reason).sp = u.sp := fun _ => (raiseGloss_sp ..).trans (countUp_sp ..)
  unfold spOf
  rw [ports]
  exact rxq_takeRx

end Parser

/-! ### The messages (R212 to R218, R341) -/

section Messages
variable {s : State} {src : Nat} {ps : ParseSt} {stamp : DWord} {part : Nat}

/-- The velocity byte of a NOTE ON (R213, R214). -/
theorem midiByte_noteOn {st key byte : Byte} (noSysex : ps.sysex = none) (status : ps.status = some st) (noteOn : st.toNat / 16 = 9)
    (data : ps.data = [key]) (low : byte.toNat < 128) (struck : byte ≠ 0) (mapped : chmapPart s src (st.toNat % 16) = some part) :
    midiByte s src ps byte stamp =
      { ps := { ps with status := none, data := [] },
        evs := [mkEvent stamp 0x01 part key.toNat (upScale byte.toNat 7 16 * 65536)] } := by
  have noRealTime : ¬ 0xF8 ≤ byte.toNat := by omega
  have noStatus : ¬ 0x80 ≤ byte.toNat := by omega
  have channel : st.toNat < 0xF0 := by omega
  have two : midiLength st.toNat = 2 := by
    have ne1 : st.toNat ≠ 0xF1 := by omega
    have ne2 : st.toNat ≠ 0xF2 := by omega
    have ne3 : st.toNat ≠ 0xF3 := by omega
    simp [midiLength, noteOn, ne1, ne2, ne3]
  have velocity : byte.toNat ≠ 0 := fun zero => struck (BitVec.eq_of_toNat_eq zero)
  simp [midiByte, noRealTime, noStatus, midiData, noSysex, status, data, two, channel, noteOn, midiMessage, mapped, nth, velocity]

/-- Four characters are a word, the first of them its most significant byte (R217). -/
theorem leNat_word (b0 b1 b2 b3 : Byte) :
    (w32 (leNat [b3, b2, b1, b0])).toNat / 65536 * 65536 = (256 * b0.toNat + b1.toNat) * 65536 := by
  have h0 := b0.isLt
  have h1 := b1.isLt
  have h2 := b2.isLt
  have h3 := b3.isLt
  simp only [leNat, w32, BitVec.toNat_ofNat]
  omega

/-- The character that completes the second word of a MIDI 2.0 NOTE ON (R218). -/
theorem umpChar_noteOn {b0 b1 b2 b3 : Byte} {w0 : Word} (characters : ps.umpPart = [b0, b1, b2]) (words : ps.ump = [w0])
    (voice : bits w0 31 28 = 4) (noteOn : bits w0 23 20 = 9)
    (mapped : chmapPart s src (16 * bits w0 27 24 + bits w0 19 16) = some part) :
    umpChar s src ps b3 stamp =
      { ps := { ps with ump := [], umpPart := [] },
        evs := [mkEvent (jrStamp s src (bits w0 27 24) stamp ps) 0x01 part (w0.toNat / 256 % 128)
          ((256 * b0.toNat + b1.toNat) * 65536)] } := by
  have velocity := leNat_word b0 b1 b2 b3
  have jr : jrStamp s src (bits w0 27 24) stamp { ps with ump := [], umpPart := [] } = jrStamp s src (bits w0 27 24) stamp ps := rfl
  simp [umpChar, characters, umpWordParse, words, nth, voice, umpLength, umpPacket, umpVoice, noteOn, mapped, velocity, jr]

/-- The sixteenth character of a native packet (R341). -/
theorem nativeChar_last {c : BitVec 9} (unmarked : c.toNat < 256) (fifteen : ps.native.length = 15) :
    nativeChar ps c false =
      { ps := { ps with native := [] },
        evs := [pktOfBytes ((ps.native ++ [c]).map fun x => BitVec.ofNat 8 x.toNat)] } := by
  have begun : ps.native ≠ [] := fun empty => by simp [empty] at fifteen
  simp [nativeChar, Nat.not_le.mpr unmarked, begun, fifteen]

end Messages

/-! ### The rows (R330) -/

section Rows
variable {s : State} {src : Fin 8} {x : RxEntry}

theorem exec_midiByteParse (head : headRx s src 0 = some x) :
    exec (.midiByteParse src) s = .next (applyParsed (takeRx s src) src
      (if x.portError then midiError (parseOf s src) (BitVec.ofNat 8 x.data.toNat)
        else midiByte s src (parseOf s src) (BitVec.ofNat 8 x.data.toNat) (arrivalStamp s src (completionStamp s x)))) := by
  show execMidiByteParse src s = _
  simp only [execMidiByteParse, head]

/-- The fourth character of a word is the last one taken. -/
theorem exec_umpWord_last (head : headRx s src 1 = some x) (sound : x.portError = false) (three : (parseOf s src).umpPart.length = 3) :
    exec (.umpWord src) s = .next (applyParsed (takeRx s src) src
      (umpChar s src (parseOf s src) (BitVec.ofNat 8 x.data.toNat) (arrivalStamp s src (completionStamp s x)))) := by
  show Host.Outcome.next (takeWord src 4 s) = _
  simp only [takeWord, head, sound, three, Bool.false_eq_true, if_false, if_true]

theorem exec_nativePacketCharacter (head : headRx s src 2 = some x) :
    exec (.nativePacketCharacter src) s = .next (applyParsed (takeRx s src) src
      (nativeChar (parseOf s src) (if dataBits s src = 9 ∧ ¬ flag s (spReg src 0) 13 then x.data else x.data &&& 0xFF) x.portError)) := by
  show execNativePacketCharacter src s = _
  simp only [execNativePacketCharacter, head]

/-- With nothing to take none of the rows does anything. -/
theorem exec_nothingReceived (src : Fin 8) : (headRx s src 0 = none → exec (.midiByteParse src) s = .next s) ∧
    (headRx s src 1 = none → exec (.umpWord src) s = .next s) ∧ (headRx s src 2 = none → exec (.nativePacketCharacter src) s = .next s) := by
  refine ⟨fun idle => ?_, fun idle => ?_, fun idle => ?_⟩
  · show execMidiByteParse src s = _
    simp only [execMidiByteParse, idle]
  · show Host.Outcome.next (takeWord src 4 s) = _
    simp only [takeWord, idle]
  · show execNativePacketCharacter src s = _
    simp only [execNativePacketCharacter, idle]

end Rows

/-- Settles O26: the character at the head is taken and parsed, and what its parser answers takes effect. -/
theorem messagesArrive : Obligations.MessagesArrive := by
  refine ⟨fun s src x byte key st ps part e head sound char parser event noSysex status noteOn data low struck mapped => ?_,
    fun s src x byte head bad char => ?_,
    fun s src x b0 b1 b2 b3 w0 ps part e head sound char parser event characters words voice noteOn mapped => ?_,
    fun s src x char ps e head sound parser taken unmarked event fifteen => ?_, fun s src => exec_nothingReceived src⟩
  · refine message_handedOver src.isLt (exec_midiByteParse head) ?_
    rw [sound, if_neg Bool.false_ne_true, ← char, ← parser, midiByte_noteOn noSysex status noteOn data low struck mapped, event]
  · refine message_discarded (exec_midiByteParse head) ?_
    rw [bad, if_pos rfl, ← char, midiError]
  · have three : (parseOf s src).umpPart.length = 3 := by rw [← parser, characters]; rfl
    refine message_handedOver src.isLt (exec_umpWord_last head sound three) ?_
    rw [← char, ← parser, umpChar_noteOn characters words voice noteOn mapped, event]
  · refine message_handedOver src.isLt (exec_nativePacketCharacter head) ?_
    rw [← taken, ← parser, sound, nativeChar_last unmarked fifteen, event]

/-! ### The event window of the host (R233) -/

section EventWindow
variable {s : State} {v : Word} {e : EvPacket}

theorem writable_evtHwin : Writable R.evtHwin ((regDesc R.evtHwin).get (by decide)) := by constructor <;> decide

/-- The ERR register of the EVT page. -/
abbrev evtErr : Nat := pageOf R.evtHwin + 0xFFFC

/-- Neither FORMAT nor the quota of the host's source lies in ERR. -/
theorem formatOf_wr_evtErr (w : Word) : formatOf (wr s evtErr w) 12 = formatOf s 12 := by
  unfold formatOf fld
  rw [rd_wr_ne _ _ _ _ (by decide)]

theorem hostBusy_wr_evtErr (w : Word) : hostBusy (wr s evtErr w) = sourceBlocked s 12 := by
  unfold hostBusy sourceBlocked fld
  rw [rd_wr_ne _ _ _ _ (by decide)]
  rfl

/-- Up to the third word of a native packet nothing is handed over. -/
theorem hwinParse_waits (native : formatOf s 12 = 2) (short : s.evt.hwin.length < 3) :
    hwinParse s v = ({ ps := parseOf s 12 }, s.evt.hwin ++ [v]) := by
  have waits : s.evt.hwin.length + 1 < 4 := by omega
  simp [hwinParse, native, waits]

/-- The fourth completes it. -/
theorem hwinParse_hands {a b c : Word} (native : formatOf s 12 = 2) (three : s.evt.hwin = [a, b, c])
    (packet : e = pktOf (a.toNat + b.toNat * 2 ^ 32) (w64 (c.toNat + v.toNat * 2 ^ 32))) :
    hwinParse s v = ({ ps := parseOf s 12, evs := [e] }, []) := by
  rw [packet]
  simp [hwinParse, native, three, nth]

theorem writeHwin_waits (native : formatOf s 12 = 2) (short : s.evt.hwin.length < 3) :
    (writeHwin s v).1 = { s with evt := { s.evt with hwin := s.evt.hwin ++ [v] } } := by
  have kept := set_parseOf (s := s) 12
  simp [writeHwin, hwinParse_waits native short, applyParsed, kept]

/-- A packet is handed over below the quota, and a PERIOD at it (R166). -/
theorem writeHwin_hands {a b c : Word} (native : formatOf s 12 = 2) (three : s.evt.hwin = [a, b, c])
    (packet : e = pktOf (a.toNat + b.toNat * 2 ^ 32) (w64 (c.toNat + v.toNat * 2 ^ 32)))
    (room : hostBusy s = false ∨ eventIsPeriod e = true) :
    (writeHwin s v).1 = { s with evt := { s.evt with
      hwin := [], ready := s.evt.ready.modify 12 (· ++ [⟨e, s.time.aoTime⟩]) } } := by
  have kept := set_parseOf (s := s) 12
  have taken : ¬((!eventIsPeriod e) = true ∧ hostBusy s = true) := by rcases room with h | h <;> simp [h]
  simp only [writeHwin, hwinParse_hands native three packet, List.any_cons, List.any_nil, Bool.or_false, if_neg taken]
  rw [applyParsed_event (by decide) (by decide)]
  simp only [kept]

theorem writeHwin_refused {a b c : Word} (native : formatOf s 12 = 2) (three : s.evt.hwin = [a, b, c])
    (packet : e = pktOf (a.toNat + b.toNat * 2 ^ 32) (w64 (c.toNat + v.toNat * 2 ^ 32)))
    (busy : hostBusy s = true) (place : eventIsPeriod e = false) : (writeHwin s v).1 = refuse s R.evtHwin false := by
  simp [writeHwin, hwinParse_hands native three packet, busy, place]

/-- A write of the window that is taken and changes the fabric alone. -/
theorem exec_eventWindowWrite_taken {evt : EvtSt} (may : HostMayWrite s R.evtHwin)
    (done : (writeHwin (wr s evtErr 0) v).1 = { wr s evtErr 0 with evt }) :
    ∃ t, exec (.eventWindowWrite v) s = .next t ∧ t.evt = evt ∧ Touches [.evt] [] s t := by
  have touches : Touches [.evt] [] (wr s evtErr 0) (writeHwin (wr s evtErr 0) v).1 := done ▸ touches_evt touches_rfl _ (by decide)
  obtain ⟨value, frame⟩ := command_done (f := fun u => (writeHwin u v).1) may writable_evtHwin rfl touches (by decide) (by decide)
  refine ⟨_, rfl, ?_, frame⟩
  rw [value, wr_evt, done]

end EventWindow

/-! ### The musical window of the host (R246) -/

section MusicalWindow
variable {s : State} {v a b c : Word} {e : EvPacket}

theorem writable_tenseMwin : Writable R.tenseMwin ((regDesc R.tenseMwin).get (by decide)) := by constructor <;> decide

/-- The ERR register of the TENSE page. -/
abbrev tenseErr : Nat := pageOf R.tenseMwin + 0xFFFC

/-- The musical queue once an entry has joined it, with no word of another waiting. -/
def entryQueued (s : State) (e : EvPacket) : TenseSt :=
  { s.tense with mwin := [], queue := musInsert (e.stamp, { e with stamp := 0 }) s.tense.queue }

theorem length_musInsert (e : DWord × EvPacket) (l : List (DWord × EvPacket)) : (musInsert e l).length = l.length + 1 := by
  induction l with
  | nil => rfl
  | cons x xs ih =>
    unfold musInsert
    split
    · rfl
    · rw [List.length_cons, ih, List.length_cons]

/-- An event of one of the six kinds that may be queued. -/
theorem queueMusical_queued (least : 1 ≤ e.kind.toNat) (most : e.kind.toNat ≤ 6) (good : eventBad e = false) :
    queueMusical s e = refreshMstat (onTense s fun t => { t with queue := musInsert (e.stamp, { e with stamp := 0 }) t.queue }) := by
  have kind : [0x01, 0x02, 0x03, 0x04, 0x05, 0x06].contains e.kind.toNat = true := by
    refine List.contains_iff_mem.mpr ?_
    simp only [List.mem_cons, List.not_mem_nil]
    omega
  simp only [queueMusical, kind, good, Bool.not_true, Bool.or_self, Bool.false_eq_true, if_false]

theorem writeMwin_queued (three : s.tense.mwin = [a, b, c]) (room : s.tense.queue.length < 256)
    (packet : e = pktOf (a.toNat + b.toNat * 2 ^ 32) (w64 (c.toNat + v.toNat * 2 ^ 32)))
    (least : 1 ≤ e.kind.toNat) (most : e.kind.toNat ≤ 6) (good : eventBad e = false) :
    writeMwin s v = refreshMstat { s with tense := entryQueued s e } := by
  simp only [writeMwin, three, if_neg (Nat.not_le.mpr room), ← packet]
  rw [queueMusical_queued least most good]
  rfl

theorem writeMwin_refused (three : s.tense.mwin = [a, b, c]) (full : 256 ≤ s.tense.queue.length) :
    writeMwin s v = refuse s R.tenseMwin false := by
  simp only [writeMwin, three, if_pos full]

/-- MSTAT shows how many entries are queued, and whether that is all there is room for. -/
theorem mstat_refreshMstat (fits : s.tense.queue.length ≤ 256) :
    fld (refreshMstat s) R.tenseMstat 8 0 = s.tense.queue.length ∧
      (flag (refreshMstat s) R.tenseMstat 31 = true ↔ 256 ≤ s.tense.queue.length) := by
  unfold refreshMstat fld flag
  generalize s.tense.queue.length = n at fits
  rw [rd_wr]
  simp only [bits, bitOf, w32, b2n, BitVec.toNat_ofNat, decide_eq_true_eq]
  constructor
  · split <;> omega
  · split <;> omega

theorem touches_refreshMstat : Touches [] [R.tenseMstat] s (refreshMstat s) := touches_wr touches_rfl _ (by decide)

/-- A write of the window that completes an entry which joins the queue. -/
theorem exec_musicalWindowWrite_queued (may : HostMayWrite s R.tenseMwin) (room : s.tense.queue.length < 256)
    (done : writeMwin (wr s tenseErr 0) v = refreshMstat { wr s tenseErr 0 with tense := entryQueued s e }) :
    ∃ t, exec (.musicalWindowWrite v) s = .next t ∧ t.tense = entryQueued s e ∧
      fld t R.tenseMstat 8 0 = t.tense.queue.length ∧ (flag t R.tenseMstat 31 = true ↔ 256 ≤ t.tense.queue.length) ∧
      Touches [.tense] [R.tenseMstat] s t := by
  have touches : Touches [.tense] [R.tenseMstat] (wr s tenseErr 0) (writeMwin (wr s tenseErr 0) v) :=
    done ▸ touches_trans (touches_tense touches_rfl _ (by decide)) (touches_mono touches_refreshMstat (by decide) (List.Subset.refl _))
  obtain ⟨value, frame⟩ := command_done (f := fun u => writeMwin u v) may writable_tenseMwin rfl touches (by decide) (by decide)
  have fits : (entryQueued s e).queue.length ≤ 256 := Nat.le_trans (Nat.le_of_eq (length_musInsert ..)) room
  have mstat := mstat_refreshMstat (s := { wr s tenseErr 0 with tense := entryQueued s e }) fits
  have tense : (regWrite s R.tenseMwin v).tense = entryQueued s e := by
    rw [value, wr_tense, done]
    rfl
  have shown : rd (regWrite s R.tenseMwin v) R.tenseMstat =
      rd (refreshMstat { wr s tenseErr 0 with tense := entryQueued s e }) R.tenseMstat := by
    rw [value, rd_wr_ne _ _ _ _ (by decide), done]
  refine ⟨regWrite s R.tenseMwin v, rfl, tense, ?_⟩
  unfold fld flag at mstat ⊢
  rw [tense, shown]
  exact ⟨mstat.1, mstat.2, frame⟩

end MusicalWindow

/-- Settles O27: each write is what its register's write does, with the page's ERR register put back, or a refusal. -/
theorem hostWindows : Obligations.HostWindows := by
  refine ⟨fun s v may native short => ?_, fun s v a b c e may native three packet room => ?_,
    fun s v a b c e may native three packet busy place => ?_, fun s v a b c e may three room packet least most good => ?_,
    fun s v a b c may three full => ?_⟩
  · exact exec_eventWindowWrite_taken may (writeHwin_waits ((formatOf_wr_evtErr 0).trans native) short)
  · exact exec_eventWindowWrite_taken may
      (writeHwin_hands ((formatOf_wr_evtErr 0).trans native) three packet (room.imp_left (hostBusy_wr_evtErr 0).trans))
  · exact ⟨_, rfl, command_refused false may writable_evtHwin
      (writeHwin_refused ((formatOf_wr_evtErr 0).trans native) three packet ((hostBusy_wr_evtErr 0).trans busy) place)⟩
  · exact exec_musicalWindowWrite_queued may room (writeMwin_queued (s := wr s tenseErr 0) three room packet least most good)
  · exact ⟨_, rfl, command_refused false may writable_tenseMwin (writeMwin_refused (s := wr s tenseErr 0) three full)⟩

end Sys2Proof.EventFabric

/-! PROOFS. The tense chapter's statements: the latched counts, the loss of the tempo source, and the timers. -/

namespace Sys2Proof.Tense
open Sys2Proof.Machine Sys2Proof.Laws Sys2Proof.Architecture Sys2Proof.Concord Sys2Proof.EventFabric

/-! ### Latched counts (R254, R259, R262) -/

theorem exec_countReadLatch (s : State) (c : CountReg) :
    exec (.countReadLatch c) s =
      .next { s with time := { s.time with latches := mapPut s.time.latches (upperHalf s c).1 (upperHalf s c).2 } } := rfl

/-- Settles O6: the latch is one entry put into the list of latched halves. -/
theorem countReadLatches : Obligations.CountReadLatches := fun s c =>
  ⟨_, exec_countReadLatch s c, mapGet_mapPut_self .., fun _ other => mapGet_mapPut_ne _ _ _ _ other, rfl⟩

/-! ### The loss of the tempo source (R243) -/

section Loss
variable {s : State}

/-- LOST is set, and the loss counts. -/
def lossCounted (s : State) : State := countUp (setFlag s R.tenseStat 2) R.tenseLosscnt

theorem touches_lossCounted : Touches [] [R.tenseStat, R.tenseLosscnt] s (lossCounted s) :=
  touches_countUp (touches_setFlag touches_rfl _ (by decide)) (by decide)

/-- The loss as it is logged: the source, its last pulse and the quarter length. -/
def lossLogged (s : State) : State :=
  raiseGloss (lossCounted s) 0x8110 (w32 (tempoSource s)) (w32 (s.tense.lastP.getD 0).toNat) (w32 s.tense.qf)

/-- The transport is apart from LOST in TENSE.STAT. -/
theorem transport_lossLogged : transport (lossLogged s) = transport s := by
  unfold transport lossLogged lossCounted
  rw [fld_raiseGloss (by decide), fld, rd_countUp_ne _ _ _ (by decide), setFlag_eq]
  exact fld_wrFld_apart (by decide) (by decide) (by decide) (by decide)

theorem tempoSource_lossCounted : tempoSource (lossCounted s) = tempoSource s := by
  unfold tempoSource fld
  rw [touches_lossCounted.regs _ (by decide)]

/-- While the transport does not run, a loss is its mark, its count and its code. -/
theorem tempoLoss_stopped (m : Nat) (stopped : transport s ≠ 2) : tempoLoss s m = lossLogged s := by
  have tense : (lossCounted s).tense = s.tense := touches_lossCounted.parts.tense (by decide)
  unfold tempoLoss
  extract_lets +onlyGivenNames counted logged
  have same : logged = lossLogged s := by
    show raiseGloss (lossCounted s) _ (w32 (tempoSource (lossCounted s))) (w32 ((lossCounted s).tense.lastP.getD 0).toNat)
      (w32 (lossCounted s).tense.qf) = _
    rw [tempoSource_lossCounted, tense, lossLogged]
  have halted : transport logged ≠ 2 := by rw [same, transport_lossLogged]; exact stopped
  rw [if_pos halted, same]

end Loss

/-- Settles O11: the loss is LOST, one count and one code. -/
theorem tempoSourceLost : Obligations.TempoSourceLost := by
  intro s taken lost stopped
  have counted := touches_lossCounted (s := s)
  have done : exec .tempoSourceLoss s = .next (lossLogged s) := by
    rw [← tempoLoss_stopped s.time.frame stopped]
    exact if_pos (Bool.and_eq_true_iff.mpr ⟨taken, lost⟩)
  refine ⟨lossLogged s, done, ?_, ?_, ?_, ?_⟩
  · rw [lossLogged, flag_raiseGloss (by decide), lossCounted, flag, rd_countUp_ne _ _ _ (by decide)]
    exact flag_setFlag _ _ _ (by decide)
  · rw [lossLogged, rd_raiseGloss _ _ _ _ _ _ (by decide), lossCounted, rd_countUp, rd_countUp, setFlag_eq, wrFld,
      rd_wr_ne _ _ _ _ (by decide)]
  · have time := counted.parts.time (by decide)
    exact logged_raiseGloss (counted.parts.gloss (by decide)) (by constructor <;> rw [time])
  · exact touches_raiseGloss (touches_mono counted (by decide) (by decide)) _ _ _ _ (by decide) (by decide)

/-! ### The registers of the timer channels -/

section TimerRegs
variable {n : Fin 16} {r r' a : Nat}

theorem timerReg_ne (h : r ≠ r') : timerReg n r ≠ timerReg n r' := by
  unfold timerReg
  omega

/-- The registers of the channels stand above the other TENSE registers. -/
theorem timerReg_ne_below (h : a < 0x40061000) : timerReg n r ≠ a := by
  unfold timerReg
  omega

/-- The registers behind their block stand above them. -/
theorem timerReg_ne_above (hr : r < 0x40) (h : 0x40062000 ≤ a) : timerReg n r ≠ a := by
  unfold timerReg
  omega

end TimerRegs

/-! ### TIMER_GO (R251) -/

section Go
variable {s : State}

/-- A channel restarted by TENSE.GO. -/
def restarted (t : TimerSt) : TimerSt := { t with count := 0, lap := 0, released := true }

theorem timerOf_onTimer {n : Nat} {f : TimerSt → TimerSt} (h : n < s.timers.length) : timerOf (onTimer s n f) n = f (timerOf s n) :=
  nth_modify _ _ _ _ h

theorem timerOf_onTimer_ne {n m : Nat} {f : TimerSt → TimerSt} (h : m ≠ n) : timerOf (onTimer s n f) m = timerOf s m :=
  nth_modify_ne _ _ _ _ _ h

theorem length_onTimer {n : Nat} {f : TimerSt → TimerSt} : (onTimer s n f).timers.length = s.timers.length := List.length_modify ..

/-- Restarting channels one after the other restarts those named and no other. -/
theorem timerOf_restarts (l : List Nat) (n : Nat) (known : n < s.timers.length) :
    timerOf (l.foldl (fun u k => onTimer u k restarted) s) n = if n ∈ l then restarted (timerOf s n) else timerOf s n := by
  induction l generalizing s with
  | nil => rfl
  | cons k l ih =>
    rw [List.foldl_cons, ih (length_onTimer.symm ▸ known)]
    by_cases here : n = k
    · subst here
      simp only [timerOf_onTimer known, List.mem_cons_self, if_true]
      exact ite_self _
    · simp only [timerOf_onTimer_ne here, List.mem_cons, here, false_or]

theorem touches_timerGo (mask : Nat) : Touches [.timers] [] s (timerGo s mask) :=
  touches_foldl touches_rfl fun _ _ _ h => touches_timers h _ (by decide)

theorem timerOf_timerGo (mask : BitVec 16) {n : Nat} (hn : n < 16) (sixteen : s.timers.length = 16) :
    timerOf (timerGo s mask.toNat) n = if mask.getLsbD n then restarted (timerOf s n) else timerOf s n := by
  have named : n ∈ idxs 16 (fun k => mask.toNat / 2 ^ k % 2 = 1) ↔ mask.getLsbD n = true := by
    rw [← BitVec.testBit_toNat, Nat.testBit_eq_decide_div_mod_eq]
    simp [idxs, hn]
  refine (timerOf_restarts _ n (sixteen.symm ▸ hn)).trans ?_
  simp only [named]

theorem writable_tenseGo : Writable R.tenseGo ((regDesc R.tenseGo).get (by decide)) := by constructor <;> decide

/-- The mask is the low half of the word written. -/
theorem bits_mask (mask : BitVec 16) : bits (mask.setWidth 32) 15 0 = mask.toNat := by
  have := mask.isLt
  simp only [bits, BitVec.toNat_setWidth]
  omega

/-- TENSE.GO restarts the channels that it names (R251). -/
theorem timerGo_restarts (mask : BitVec 16) (may : HostMayWrite s R.tenseGo) (sixteen : s.timers.length = 16) :
    ∃ t, exec (.timerGo mask) s = .next t ∧
      (∀ n, n < 16 → timerOf t n = if mask.getLsbD n then restarted (timerOf s n) else timerOf s n) ∧ Touches [.timers] [] s t := by
  have go : commandReg (wr s tenseErr 0) false R.tenseGo (mask.setWidth 32) = some (timerGo (wr s tenseErr 0) mask.toNat) := by
    rw [← bits_mask]
    rfl
  obtain ⟨value, frame⟩ := command_done (f := fun u => timerGo u mask.toNat) may writable_tenseGo go (touches_timerGo _) (by decide)
    (by decide)
  refine ⟨_, rfl, fun n hn => ?_, frame⟩
  rw [value]
  exact timerOf_timerGo (s := wr s tenseErr 0) mask hn sixteen

end Go

/-! ### The events of a channel (R258) -/

section Events
variable {s u : State} {n : Fin 16} {ps : List Part} {rs : List Nat} {cause bit : Nat} {trunc : Bool}

/-- A TIMER event as the fabric takes it, where the channel's control enables it by the given bit. -/
def timerOffered (s : State) (n : Fin 16) (bit value : Nat) : State :=
  if flag s (timerReg n 0) bit && domainOn s 3 && s.time.epochSet then
    offerEvent s 14 (mkEvent (nowStamp s) 0x0C 0 n value) s.time.aoTime else s

theorem touches_timerEvent : Touches [.evt] [] s (timerEvent s n cause trunc) :=
  touches_ite (touches_evt touches_rfl _ (by decide)) touches_rfl

/-- The registers that an event of channel n depends on. -/
def eventInputs (n : Fin 16) : List Nat := [timerReg n 0, R.pwrDomstat, R.clkStat]

/-- A tick and a capture write the ball register and registers of the channel other than its control alone. -/
theorem eventInputs_apart {l : List Nat} (control : 0 ∉ l) : ∀ a ∈ eventInputs n, a ∉ R.tenseTpctl :: l.map (timerReg n) := by
  intro a input written
  have low : a = timerReg n 0 ∨ a < 0x40060000 := by
    simp only [eventInputs, List.mem_cons, List.not_mem_nil, or_false] at input
    exact input.imp_right fun h => by rcases h with rfl | rfl <;> decide
  rcases List.mem_cons.mp written with rfl | listed
  · exact low.elim (timerReg_ne_below (by decide)).symm (by decide)
  · obtain ⟨r, member, rfl⟩ := List.mem_map.mp listed
    rcases low with same | low
    · exact timerReg_ne (n := n) (fun e : r = 0 => control (e ▸ member)) same
    · exact timerReg_ne_below (Nat.lt_trans low (by decide)) rfl

/-- What an enabled event adds to the fabric depends on the fabric, the time and those registers alone. -/
theorem evt_timerEvent (h : Touches ps rs s u) (fabric : Part.evt ∉ Part.regs :: ps) (clock : Part.time ∉ Part.regs :: ps)
    (inputs : ∀ a ∈ eventInputs n, a ∉ rs) {value : Nat} (hv : cause + 16 * b2n trunc + 32 * b2n s.time.onAo = value) :
    (if flag u (timerReg n 0) bit then timerEvent u n cause trunc else u).evt = (timerOffered s n bit value).evt := by
  have same : ∀ a ∈ eventInputs n, rd u a = rd s a := fun a ha => h.regs a (inputs a ha)
  have ctl := same (timerReg n 0) (by simp [eventInputs])
  have power := same R.pwrDomstat (by simp [eventInputs])
  have rate := same R.clkStat (by simp [eventInputs])
  have time := h.parts.time clock
  have evt := h.parts.evt fabric
  have stamp : nowStamp u = nowStamp s := by
    unfold nowStamp stampOf tclkPerSample rateLog fsCode fld
    rw [rate, time]
  have domain : domainOn u 3 = domainOn s 3 := by rw [domainOn, flag, power, domainOn, flag]
  have enabled : flag u (timerReg n 0) bit = flag s (timerReg n 0) bit := by rw [flag, ctl, flag]
  unfold timerOffered timerEvent
  rw [enabled, domain, stamp, time, hv]
  cases flag s (timerReg n 0) bit
  · exact evt
  · simp only [Bool.true_and, if_true]
    split
    · unfold offerEvent
      rw [evt]
    · exact evt

end Events

/-! ### TIMER_CAPTURE (R256, R258) -/

section Capture
variable {s : State} {n : Fin 16}

theorem timerWake_off {enabled : Bool} (off : flag s (timerReg n 0) 25 = false) : timerWake s n enabled = s := by
  simp [timerWake, off]

theorem touches_setPin (code : Nat) (v : Bool) : Touches [.pins] [R.tenseTpctl] s (setPin s code v) := by
  unfold setPin
  exact touches_ite (touches_wrFld touches_rfl _ _ _ (by decide)) (touches_ite (touches_pins touches_rfl _ (by decide))
    (touches_ite (touches_pins touches_rfl _ (by decide)) touches_rfl))

/-- CAP is set, with CAPOVR where it was set already. -/
def capMarked (s : State) (n : Fin 16) : State :=
  setFlag (if flag s (timerReg n 0x20) 5 then setFlag s (timerReg n 0x20) 6 else s) (timerReg n 0x20) 5

theorem flag_capMarked : flag (capMarked s n) (timerReg n 0x20) 5 = true := flag_setFlag _ _ _ (by decide)

theorem flag_capMarked_again (again : flag s (timerReg n 0x20) 5 = true) : flag (capMarked s n) (timerReg n 0x20) 6 = true := by
  rw [capMarked, if_pos again, setFlag_eq, flag_wrFld_apart (by decide) (by decide) (by decide)]
  exact flag_setFlag _ _ _ (by decide)

/-- CAP is set, and the capture registers show the count and lap. -/
def captureShown (s : State) (n : Fin 16) : State :=
  wr (wr (capMarked s n) (timerReg n 0x18) (timerOf s n).prev2.1) (timerReg n 0x1C) (w32 (timerOf s n).prev2.2.toNat)

/-- The registers of a capture. -/
def captureRegs (n : Fin 16) : List Nat := [0x18, 0x1C, 0x20].map (timerReg n)

theorem touches_captureShown : Touches [] (captureRegs n) s (captureShown s n) := by
  have value : timerReg n 0x18 ∈ captureRegs n := by simp [captureRegs]
  have lap : timerReg n 0x1C ∈ captureRegs n := by simp [captureRegs]
  have status : timerReg n 0x20 ∈ captureRegs n := by simp [captureRegs]
  exact touches_wr (touches_wr (touches_setFlag (touches_ite (touches_setFlag touches_rfl _ status) touches_rfl) _ status) _ value) _ lap

/-- A capture without wake is what its registers show, and its event. -/
theorem capture_eq (noWake : flag s (timerReg n 0) 25 = false) :
    capture s n =
      if flag (captureShown s n) (timerReg n 0) 24 then timerEvent (captureShown s n) n 5 false else captureShown s n := by
  have ctl : timerReg n 0 ∉ captureRegs n := by simp [captureRegs, timerReg]
  have off : flag (timerEvent (captureShown s n) n 5 false) (timerReg n 0) 25 = false := by
    rw [flag, touches_timerEvent.regs _ List.not_mem_nil, touches_captureShown.regs _ ctl]
    exact noWake
  rw [← timerWake_off (enabled := true) off]
  rfl

theorem touches_capture (noWake : flag s (timerReg n 0) 25 = false) : Touches [.evt] [] (captureShown s n) (capture s n) :=
  capture_eq noWake ▸ touches_ite touches_timerEvent touches_rfl

/-- What the registers of the channel read after a capture. -/
theorem rd_capture (noWake : flag s (timerReg n 0) 25 = false) :
    rd (capture s n) (timerReg n 0x18) = (timerOf s n).prev2.1 ∧
      rd (capture s n) (timerReg n 0x1C) = w32 (timerOf s n).prev2.2.toNat ∧
      rd (capture s n) (timerReg n 0x20) = rd (capMarked s n) (timerReg n 0x20) := by
  have shown : ∀ a, rd (capture s n) a = rd (captureShown s n) a := fun a => (touches_capture noWake).regs a List.not_mem_nil
  refine ⟨?_, ?_, ?_⟩ <;> rw [shown, captureShown]
  · rw [rd_wr_ne _ _ _ _ (timerReg_ne (by decide)), rd_wr]
  · rw [rd_wr]
  · rw [rd_wr_ne _ _ _ _ (timerReg_ne (by decide)), rd_wr_ne _ _ _ _ (timerReg_ne (by decide))]

/-- An edge that CEDGE selects captures the count and lap of two cycles before. -/
theorem exec_timerCapture {falling : Bool} (selected : timerCtl s n 8 5 ≠ 0) (edge : edgeTaken (timerCtl s n 10 9) falling = true) :
    exec (.timerCapture n falling) s = .next (capture (setPin s (timerCtl s n 8 5) (!falling)) n) := by
  have ctl : timerCtl (setPin s (timerCtl s n 8 5) (!falling)) n 10 9 = timerCtl s n 10 9 := by
    unfold timerCtl fld
    rw [(touches_setPin ..).regs _ (by simpa using timerReg_ne_below (by decide))]
  show execTimerCapture n falling s = _
  simp only [execTimerCapture, if_neg selected, ctl, edge, if_true]

theorem timerCapture_captures {falling : Bool} (selected : timerCtl s n 8 5 ≠ 0)
    (edge : edgeTaken (timerCtl s n 10 9) falling = true) (noWake : flag s (timerReg n 0) 25 = false) :
    ∃ t, exec (.timerCapture n falling) s = .next t ∧ rd t (timerReg n 0x18) = (timerOf s n).prev2.1 ∧
      rd t (timerReg n 0x1C) = w32 (timerOf s n).prev2.2.toNat ∧ flag t (timerReg n 0x20) 5 = true ∧
      (flag s (timerReg n 0x20) 5 = true → flag t (timerReg n 0x20) 6 = true) ∧ t.timers = s.timers ∧
      t.evt = (timerOffered s n 24 (5 + 32 * b2n s.time.onAo)).evt ∧
      Touches [.evt, .pins] [timerReg n 0x18, timerReg n 0x1C, timerReg n 0x20, R.tenseTpctl] s t := by
  have pin := touches_setPin (s := s) (timerCtl s n 8 5) (!falling)
  generalize hp : setPin s (timerCtl s n 8 5) (!falling) = p at pin
  have unpinned : ∀ r, rd p (timerReg n r) = rd s (timerReg n r) := fun r => pin.regs _ (by simpa using timerReg_ne_below (by decide))
  have timers : p.timers = s.timers := pin.parts.timers (by decide)
  have timer : timerOf p n = timerOf s n := by rw [timerOf, timers, timerOf]
  have off : flag p (timerReg n 0) 25 = false := by rw [flag, unpinned]; exact noWake
  have event := touches_capture off
  have frame : Touches [.pins] (R.tenseTpctl :: captureRegs n) s (captureShown p n) :=
    touches_trans (touches_mono pin (List.Subset.refl _) (by simp)) (touches_mono touches_captureShown (by simp) (by simp))
  obtain ⟨value, lap, status⟩ := rd_capture off
  refine ⟨capture p n, hp ▸ exec_timerCapture selected edge, timer ▸ value, timer ▸ lap, ?_, fun again => ?_, ?_, ?_, ?_⟩
  · rw [flag, status]
    exact flag_capMarked
  · rw [flag, status]
    exact flag_capMarked_again (by rw [flag, unpinned]; exact again)
  · rw [event.parts.timers (by decide), frame.parts.timers (by decide)]
  · rw [capture_eq off]
    exact evt_timerEvent frame (by decide) (by decide) (eventInputs_apart (by decide)) rfl
  · exact touches_trans (touches_mono frame (by simp) (by simp [captureRegs])) (touches_mono event (by simp) (by simp))

end Capture

/-- Settles O28: TENSE.GO restarts what it names, and a selected edge captures. -/
theorem timersGoAndCapture : Obligations.TimersGoAndCapture :=
  ⟨fun _ mask may sixteen => timerGo_restarts mask may sixteen,
    fun _ _ _ selected edge noWake => timerCapture_captures selected edge noWake⟩

/-! ### The counts of a tick (R253, R254, R255, R260) -/

section Counts
variable {per a b count : Word} {lap : BitVec 16} {c k m : Nat}

/-- A count below the last value is not the one that wraps. -/
theorem ne_last_of_lt (h : count.toNat < 2 ^ 32 - 1) : count ≠ 0xFFFFFFFF := by
  rintro rfl
  exact absurd h (by decide)

/-- Below the period a count steps onto a compare value. -/
theorem countOnce_match (below : per = 0 ∨ count.toNat < per.toNat) (unwrapped : count ≠ 0xFFFFFFFF) (reached : a = count + 1)
    (other : b ≠ count + 1) : countOnce per a b (count, lap) = ((count + 1, lap), { a := true }) := by
  have noEnd : (decide (per ≠ 0) && decide (per.toNat ≤ count.toNat)) = false := by
    rw [Bool.and_eq_false_iff, decide_eq_false_iff_not, decide_eq_false_iff_not]
    exact below.imp not_not_intro Nat.not_le.mpr
  simp only [countOnce, noEnd, unwrapped, reached, other.symm, decide_false, decide_true, Bool.or_self, Bool.false_and,
    Bool.false_eq_true, if_false]

/-- From its period or above it a count returns to 0. -/
theorem countOnce_period (periodic : per ≠ 0) (reached : per.toNat ≤ count.toNat) (unwrapped : count ≠ 0xFFFFFFFF) (ha : a ≠ 0)
    (hb : b ≠ 0) : countOnce per a b (count, lap) = ((0, lap + 1), { p := true, t := decide (per.toNat < count.toNat) }) := by
  simp only [countOnce, periodic, reached, unwrapped, ha.symm, hb.symm, ne_eq, not_false_eq_true, decide_false, decide_true, Bool.true_and,
    Bool.true_or, if_true]

/-- Without a period a count returns to 0 from its last value. -/
theorem countOnce_wrap (ha : a ≠ 0) (hb : b ≠ 0) : countOnce 0 a b (0xFFFFFFFF, lap) = ((0, lap + 1), { w := true }) := by
  simp only [countOnce, ha.symm, hb.symm, ne_eq, not_true_eq_false, decide_false, decide_true, Bool.false_and, Bool.false_or, if_true]

/-- The values that the steps of a tick lead onto. -/
def stepsOnto (m c k : Nat) : List Nat := (List.range k).map fun i => (c + i + 1) % m

theorem contains_stepsOnto {v : Nat} : (stepsOnto m c k).contains v = true ↔ ∃ i, 1 ≤ i ∧ i ≤ k ∧ (c + i) % m = v := by
  simp only [stepsOnto, List.contains_iff_mem, List.mem_map, List.mem_range]
  constructor
  · rintro ⟨i, hi, rfl⟩
    exact ⟨i + 1, Nat.le_add_left 1 i, hi, rfl⟩
  · rintro ⟨i, least, most, rfl⟩
    exact ⟨i - 1, by omega, by rw [show c + (i - 1) + 1 = c + i by omega]⟩

theorem not_contains_stepsOnto {v : Nat} (unmatched : ∀ i, 1 ≤ i → i ≤ k → v ≠ (c + i) % m) :
    (stepsOnto m c k).contains v = false := by
  rw [← Bool.not_eq_true, contains_stepsOnto]
  rintro ⟨i, least, most, h⟩
  exact unmatched i least most h.symm

/-- They return to 0 as often as the modulus has been passed. -/
theorem returns_stepsOnto (hc : c < m) : ((stepsOnto m c k).filter (· = 0)).length = (c + k) / m := by
  induction k with
  | zero => exact (Nat.div_eq_of_lt hc).symm
  | succ k ih =>
    have last : stepsOnto m c (k + 1) = stepsOnto m c k ++ [(c + k + 1) % m] := by simp [stepsOnto, List.range_succ]
    rw [last, List.filter_append, List.length_append, ih, ← Nat.add_assoc, Nat.succ_div]
    by_cases returns : (c + k + 1) % m = 0
    · simp [returns, Nat.dvd_of_mod_eq_zero returns]
    · simp [returns, mt Nat.mod_eq_zero_of_dvd returns]

/-- A modulus passed once is taken off once. -/
theorem div_passedOnce (passed : m ≤ c) (once : c < 2 * m) : c / m = 1 := Nat.div_eq_of_lt_le (by omega) (by omega)

theorem mod_passedOnce (passed : m ≤ c) (once : c < 2 * m) : c % m = c - m := by
  rw [Nat.mod_eq_sub_mod passed, Nat.mod_eq_of_lt (by omega)]

/-- A tick of k steps that do not start above the modulus minus 1, so that no period end is truncated. -/
theorem countSteps_eq (modulus : stepModulus per.toNat count.toNat k = m) (hc : count.toNat < m)
    (untruncated : per = 0 ∨ count.toNat ≤ per.toNat) :
    countSteps per a b k (count, lap) =
      ((w32 ((count.toNat + k) % m), lap + BitVec.ofNat 16 ((count.toNat + k) / m)),
        { a := (stepsOnto m count.toNat k).contains a.toNat, b := (stepsOnto m count.toNat k).contains b.toNat,
          p := decide (per ≠ 0) && decide (per.toNat < count.toNat + k),
          w := (decide (m = 2 ^ 32) && decide (2 ^ 32 ≤ count.toNat + k)) || decide (count = 0xFFFFFFFF) }) := by
  have trunc : (decide (per ≠ 0) && decide (per.toNat < count.toNat + k) && decide (per.toNat < count.toNat)) = false := by
    rcases untruncated with none | within
    · simp [none]
    · simp [Nat.not_lt.mpr within]
  unfold countSteps
  simp only [modulus, trunc]
  rw [show ((List.range k).map fun i => (count.toNat + i + 1) % m) = stepsOnto m count.toNat k from rfl, returns_stepsOnto hc]
  simp [b2n]

/-- Short of a period's end and of the wrap the steps pass a compare value. -/
theorem countSteps_match {i : Nat} (within : per = 0 ∨ count.toNat + k ≤ per.toNat) (fits : count.toNat + k < 2 ^ 32) (least : 1 ≤ i)
    (most : i ≤ k) (reached : a.toNat = count.toNat + i) (other : b.toNat ≤ count.toNat ∨ count.toNat + k < b.toNat) :
    countSteps per a b k (count, lap) = ((w32 (count.toNat + k), lap), { a := true }) := by
  have noEnd : ¬(per ≠ 0 ∧ per.toNat < count.toNat + k) := by
    rintro ⟨periodic, passed⟩
    exact within.elim periodic (Nat.not_le.mpr passed)
  have noEnd' : ¬(per.toNat ≠ 0 ∧ per.toNat < count.toNat + k) := fun h => noEnd ⟨fun e => h.1 (e ▸ rfl), h.2⟩
  have onA : (stepsOnto (2 ^ 32) count.toNat k).contains a.toNat = true :=
    contains_stepsOnto.mpr ⟨i, least, most, by rw [reached]; exact Nat.mod_eq_of_lt (by omega)⟩
  have onB : (stepsOnto (2 ^ 32) count.toNat k).contains b.toNat = false := by
    refine not_contains_stepsOnto fun j _ _ => ?_
    rw [Nat.mod_eq_of_lt (by omega)]
    omega
  have unwrapped : count ≠ 0xFFFFFFFF := ne_last_of_lt (by omega)
  rw [countSteps_eq (if_neg noEnd') count.isLt (within.imp_right fun h => by omega), onA, onB, Nat.mod_eq_of_lt fits,
    Nat.div_eq_of_lt fits, ← Bool.decide_and, decide_eq_false noEnd, decide_eq_false (Nat.not_le.mpr fits),
    decide_eq_false unwrapped]
  simp

/-- The steps pass the period once, so that the count runs modulo one more than it. -/
theorem countSteps_period (periodic : per.toNat ≠ 0) (within : count.toNat ≤ per.toNat) (passed : per.toNat < count.toNat + k)
    (once : k ≤ per.toNat + 1) (small : per.toNat + 1 < 2 ^ 32)
    (unmatched : ∀ i, 1 ≤ i → i ≤ k →
      a.toNat ≠ (count.toNat + i) % (per.toNat + 1) ∧ b.toNat ≠ (count.toNat + i) % (per.toNat + 1)) :
    countSteps per a b k (count, lap) = ((w32 (count.toNat + k - (per.toNat + 1)), lap + 1), { p := true }) := by
  have ends : per ≠ 0 := fun e => periodic (e ▸ rfl)
  have unwrapped : count ≠ 0xFFFFFFFF := ne_last_of_lt (by omega)
  have onA := not_contains_stepsOnto fun i least most => (unmatched i least most).1
  have onB := not_contains_stepsOnto fun i least most => (unmatched i least most).2
  rw [countSteps_eq (if_pos ⟨periodic, passed⟩) (Nat.lt_succ_of_le within) (.inr within), onA, onB, mod_passedOnce passed (by omega),
    div_passedOnce passed (by omega), decide_eq_true ends, decide_eq_true passed, decide_eq_false unwrapped,
    decide_eq_false (Nat.ne_of_lt small)]
  rfl

/-- Without a period the steps pass the wrap once. -/
theorem countSteps_wrap (wraps : 2 ^ 32 ≤ count.toNat + k) (once : k < 2 ^ 32)
    (unmatched : ∀ i, 1 ≤ i → i ≤ k → a.toNat ≠ (count.toNat + i) % 2 ^ 32 ∧ b.toNat ≠ (count.toNat + i) % 2 ^ 32) :
    countSteps 0 a b k (count, lap) = ((w32 (count.toNat + k - 2 ^ 32), lap + 1), { w := true }) := by
  have onA := not_contains_stepsOnto fun i least most => (unmatched i least most).1
  have onB := not_contains_stepsOnto fun i least most => (unmatched i least most).2
  rw [countSteps_eq (if_neg fun h => h.1 rfl) count.isLt (.inl rfl), onA, onB, mod_passedOnce wraps (by omega),
    div_passedOnce wraps (by omega), decide_eq_true wraps]
  rfl

end Counts

/-! ### A tick (R250, R255, R257, R258) -/

section Ball
variable {u : State} {ball action : Nat}

theorem touches_actOnBall : Touches [] [R.tenseTpctl] u (actOnBall u ball action) := by
  unfold actOnBall
  split
  · exact touches_setFlag touches_rfl _ (by decide)
  · exact touches_clrFlag touches_rfl _ (by decide)
  · exact touches_wrFld touches_rfl _ _ _ (by decide)
  · exact touches_rfl

/-- A bit is toggled by writing what it lacks to 1. -/
theorem flag_toggled {a i : Nat} (hi : i < 32) : flag (wrFld u a i i (1 - fld u a i i)) a i = !flag u a i := by
  rw [flag_wrFld hi]
  simp only [flag, fld, bitOf, bits, Nat.sub_self, Nat.zero_add, Nat.pow_one]
  rcases Nat.mod_two_eq_zero_or_one ((rd u a).toNat / 2 ^ i) with h | h <;> simp [h]

/-- The output level of the ball takes the action (R257). -/
theorem flag_actOnBall (hb : ball < 8) : flag (actOnBall u ball action) R.tenseTpctl (8 + ball) = ballAfter u ball action := by
  have inWord : 8 + ball < 32 := by omega
  unfold actOnBall ballAfter
  split
  · exact flag_setFlag _ _ _ inWord
  · exact flag_clrFlag _ _ _ inWord
  · exact flag_toggled inWord
  · next noSet noClear noToggle => rw [if_neg noSet, if_neg noClear, if_neg noToggle]

end Ball

section Tick
variable {s : State} {n : Fin 16} {count : Word} {lap : BitVec 16} {o : Causes}

/-- The channel has counted, and its status bits show the causes; its events, outputs and ball are still to come. -/
def channelCounted (s : State) (n : Fin 16) (count : Word) (lap : BitVec 16) (o : Causes) : State :=
  wr (onTimer s n fun t => { t with count, lap, prev1 := (t.count, t.lap), prev2 := t.prev1 }) (timerReg n 0x20)
    (w32 ((rd s (timerReg n 0x20)).toNat ||| statusBits o))

theorem touches_channelCounted : Touches [.timers] [timerReg n 0x20] s (channelCounted s n count lap o) :=
  touches_wr (touches_timers touches_rfl _ (by decide)) _ (by simp)

theorem ticked_channelCounted (sixteen : s.timers.length = 16) : Ticked s (channelCounted s n count lap o) n count lap (statusBits o) :=
  ⟨timerOf_onTimer (sixteen.symm ▸ n.isLt), rd_wr .., fun _ other => timerOf_onTimer_ne other⟩

/-- What touches neither the channels nor the status of this one leaves it ticked. -/
theorem ticked_of_touches {t u : State} {causes : Nat} {ps : List Part} {rs : List Nat} (h : Ticked s u n count lap causes)
    (frame : Touches ps rs u t) (channels : Part.timers ∉ Part.regs :: ps) (status : timerReg n 0x20 ∉ rs) :
    Ticked s t n count lap causes := by
  have same : ∀ m, timerOf t m = timerOf u m := fun m => by rw [timerOf, frame.parts.timers channels, timerOf]
  exact ⟨(same _).trans h.here, (frame.regs _ status).trans h.status, fun m other => (same m).trans (h.other m other)⟩

/-- The events of a tick's causes are offered in turn. -/
theorem touches_causeEvents : Touches [.evt] [] s (causeEvents s n o) := by
  have offer : ∀ (u : State) (p : Bool) (cause : Nat) (trunc : Bool), Touches [.evt] [] u (if p then timerEvent u n cause trunc else u) :=
    fun u p cause trunc => touches_ite touches_timerEvent touches_rfl
  exact touches_trans (touches_trans (touches_trans (offer ..) (offer ..)) (offer ..)) (offer ..)

/-- Compare A alone offers its event. -/
theorem causeEvents_match : causeEvents s n { a := true } = if flag s (timerReg n 0) 20 then timerEvent s n 1 false else s := by
  simp [causeEvents]

/-- So does a period's end alone, which says whether it is truncated. -/
theorem causeEvents_period {trunc : Bool} :
    causeEvents s n { p := true, t := trunc } = if flag s (timerReg n 0) 22 then timerEvent s n 3 trunc else s := by
  simp [causeEvents]

/-- And so does the wrap alone. -/
theorem causeEvents_wrap : causeEvents s n { w := true } = if flag s (timerReg n 0) 23 then timerEvent s n 4 false else s := by
  simp [causeEvents]

/-- No control-voltage output waits for a timer (R287). -/
theorem cvTimerUpdate_untimed {causes : Nat} (untimed : ∀ k, k < 8 → flag s (R.cvoCh + 4 * k) 4 = false) :
    cvTimerUpdate s n causes = s :=
  List.foldlRecOn (motive := fun t => t = s) _ _ rfl fun t same k member => by
    subst same
    simp [untimed k (List.mem_range.mp member)]

/-- The channel has counted, and its events are offered; its ball is still to come. -/
def eventful (s : State) (n : Fin 16) (count : Word) (lap : BitVec 16) (o : Causes) : State :=
  causeEvents (channelCounted s n count lap o) n o

theorem touches_eventful : Touches [.timers, .evt] [timerReg n 0x20] s (eventful s n count lap o) :=
  touches_trans (touches_mono touches_channelCounted (by decide) (List.Subset.refl _))
    (touches_mono touches_causeEvents (by decide) (List.nil_subset _))

/-- The control of the channel is as before. -/
theorem rd_eventful_control : rd (eventful s n count lap o) (timerReg n 0) = rd s (timerReg n 0) :=
  touches_eventful.regs _ (by simpa using timerReg_ne (by decide))

variable (next : timerNext s n = ((count, lap), o)) (noWake : flag s (timerReg n 0) 25 = false)
  (untimed : ∀ k, k < 8 → flag s (R.cvoCh + 4 * k) 4 = false)
include next noWake untimed

/-- A tick whose causes wake nothing and update no output counts and offers its events. -/
theorem timerCount_eq : timerCount s n = (eventful s n count lap o, o) := by
  have wake : ∀ enabled, timerWake (eventful s n count lap o) n enabled = eventful s n count lap o := fun _ =>
    timerWake_off (by rw [flag, rd_eventful_control]; exact noWake)
  have outputs : ∀ causes, cvTimerUpdate (eventful s n count lap o) n causes = eventful s n count lap o := fun _ =>
    cvTimerUpdate_untimed fun k hk => by
      have apart : R.cvoCh + 4 * k ∉ [timerReg n 0x20] := by
        simpa using (timerReg_ne_above (by decide) (Nat.le_add_right_of_le (by decide))).symm
      rw [flag, touches_eventful.regs _ apart]
      exact untimed k hk
  unfold timerCount
  rw [next]
  show (cvTimerUpdate (timerWake (eventful s n count lap o) n _) n _, o) = _
  rw [wake, outputs]

/-- Its ball then takes the action of the channel's control. -/
theorem timerTick_eq : timerTick s n = actOnBall (eventful s n count lap o) (timerCtl s n 13 11) (ballAction s n o) := by
  have action : ballAction (eventful s n count lap o) n o = ballAction s n o := by
    unfold ballAction timerCtl fld
    rw [rd_eventful_control]
  have ball : timerCtl (eventful s n count lap o) n 13 11 = timerCtl s n 13 11 := by
    rw [timerCtl, fld, rd_eventful_control, timerCtl, fld]
  unfold timerTick
  rw [timerCount_eq next noWake untimed]
  show actOnBall (eventful s n count lap o) (timerCtl (eventful s n count lap o) n 13 11) (ballAction _ n o) = _
  rw [ball, action]

theorem ticked_timerTick (sixteen : s.timers.length = 16) : Ticked s (timerTick s n) n count lap (statusBits o) := by
  rw [timerTick_eq next noWake untimed]
  exact ticked_of_touches (ticked_of_touches (ticked_channelCounted sixteen) touches_causeEvents (by decide) List.not_mem_nil)
    touches_actOnBall (by decide) (by simpa using timerReg_ne_below (by decide))

/-- Where the tick has one cause, the events are that cause's, if the control enables it by the given bit. -/
theorem evt_timerTick {cause bit value : Nat} {trunc : Bool}
    (only : ∀ u, causeEvents u n o = if flag u (timerReg n 0) bit then timerEvent u n cause trunc else u)
    (hv : cause + 16 * b2n trunc + 32 * b2n s.time.onAo = value) : (timerTick s n).evt = (timerOffered s n bit value).evt := by
  have frame : Touches [.timers] (R.tenseTpctl :: [0x20].map (timerReg n)) s (channelCounted s n count lap o) :=
    touches_mono touches_channelCounted (List.Subset.refl _) (List.subset_cons_self ..)
  rw [timerTick_eq next noWake untimed, touches_actOnBall.parts.evt (by decide), eventful, only]
  exact evt_timerEvent frame (by decide) (by decide) (eventInputs_apart (by decide)) hv

theorem flag_timerTick : flag (timerTick s n) R.tenseTpctl (8 + timerCtl s n 13 11) =
    ballAfter s (timerCtl s n 13 11) (ballAction s n o) := by
  have eight : timerCtl s n 13 11 < 8 := Nat.mod_lt _ (by decide)
  have before : ∀ i, flag (eventful s n count lap o) R.tenseTpctl i = flag s R.tenseTpctl i := fun i => by
    rw [flag, touches_eventful.regs _ (by simpa using (timerReg_ne_below (by decide)).symm), flag]
  rw [timerTick_eq next noWake untimed, flag_actOnBall eight, ballAfter, before, ballAfter]

theorem touches_timerTick : Touches [.timers, .evt] [timerReg n 0x20, R.tenseTpctl] s (timerTick s n) := by
  rw [timerTick_eq next noWake untimed]
  exact touches_trans (touches_mono touches_eventful (List.Subset.refl _) (by simp))
    (touches_mono touches_actOnBall (List.nil_subset _) (by simp))

/-- Without an action the ball register is left alone. -/
theorem touches_timerTick_noAction (still : ballAction s n o = 0) : Touches [.timers, .evt] [timerReg n 0x20] s (timerTick s n) := by
  rw [timerTick_eq next noWake untimed, still]
  exact touches_eventful

end Tick

/-! ### The timer commands (R253 to R255) -/

section TickRows
variable {s : State} {n : Fin 16} {count : Word} {lap : BitVec 16} {trunc : Bool} {value : Nat}

theorem timerNext_onTclk (tclk : s.time.onAo = false) : timerNext s n =
    countOnce (rd s (timerReg n 0x0C)) (rd s (timerReg n 0x10)) (rd s (timerReg n 0x14)) ((timerOf s n).count, (timerOf s n).lap) := by
  simp only [timerNext, tclk, Bool.false_eq_true, if_false]

theorem timerNext_onAo (ao : s.time.onAo = true) : timerNext s n =
    countSteps (rd s (timerReg n 0x0C)) (rd s (timerReg n 0x10)) (rd s (timerReg n 0x14)) (tickSteps s)
      ((timerOf s n).count, (timerOf s n).lap) := by
  simp only [timerNext, ao, if_true]

variable (sixteen : s.timers.length = 16) (ticks : timerTicks s n = true) (noWake : flag s (timerReg n 0) 25 = false)
  (untimed : ∀ k, k < 8 → flag s (R.cvoCh + 4 * k) 4 = false)
include sixteen ticks noWake untimed

/-- A tick whose one cause is compare A (R255, R257, R258). -/
theorem compareMatch_ticks (next : timerNext s n = ((count, lap), { a := true })) (hv : 1 + 32 * b2n s.time.onAo = value) :
    ∃ t, exec (.compareMatch n) s = .next t ∧ Ticked s t n count lap 1 ∧ t.evt = (timerOffered s n 20 value).evt ∧
      flag t R.tenseTpctl (8 + timerCtl s n 13 11) = ballAfter s (timerCtl s n 13 11) (timerCtl s n 15 14) ∧
      Touches [.timers, .evt] [timerReg n 0x20, R.tenseTpctl] s t := by
  have done : exec (.compareMatch n) s = .next (timerTick s n) := if_pos (by rw [ticks, next]; rfl)
  exact ⟨_, done, ticked_timerTick next noWake untimed sixteen, evt_timerTick next noWake untimed (fun _ => causeEvents_match) hv,
    flag_timerTick next noWake untimed, touches_timerTick next noWake untimed⟩

/-- A tick whose one cause is the period's end (R253, R257, R258). -/
theorem periodEnd_ticks (next : timerNext s n = ((count, lap), { p := true, t := trunc }))
    (hv : 3 + 16 * b2n trunc + 32 * b2n s.time.onAo = value) :
    ∃ t, exec (.periodEnd n) s = .next t ∧ Ticked s t n count lap (4 + 8 * b2n trunc) ∧ t.evt = (timerOffered s n 22 value).evt ∧
      flag t R.tenseTpctl (8 + timerCtl s n 13 11) = ballAfter s (timerCtl s n 13 11) (timerCtl s n 19 18) ∧
      Touches [.timers, .evt] [timerReg n 0x20, R.tenseTpctl] s t := by
  have done : exec (.periodEnd n) s = .next (timerTick s n) := if_pos (by rw [ticks, next]; rfl)
  have action : ballAction s n { p := true, t := trunc } = timerCtl s n 19 18 := by
    by_cases none : timerCtl s n 19 18 = 0 <;> simp [ballAction, none]
  have status : statusBits { p := true, t := trunc } = 4 + 8 * b2n trunc := by cases trunc <;> rfl
  exact ⟨_, done, status ▸ ticked_timerTick next noWake untimed sixteen,
    evt_timerTick next noWake untimed (fun _ => causeEvents_period) hv, action ▸ flag_timerTick next noWake untimed,
    touches_timerTick next noWake untimed⟩

/-- A tick whose one cause is the wrap, which acts on no ball (R254, R257, R258). -/
theorem timerWrap_ticks (next : timerNext s n = ((count, lap), { w := true })) (hv : 4 + 32 * b2n s.time.onAo = value) :
    ∃ t, exec (.timerWrap n) s = .next t ∧ Ticked s t n count lap 16 ∧ t.evt = (timerOffered s n 23 value).evt ∧
      Touches [.timers, .evt] [timerReg n 0x20] s t := by
  have done : exec (.timerWrap n) s = .next (timerTick s n) := if_pos (by rw [ticks, next]; rfl)
  exact ⟨_, done, ticked_timerTick next noWake untimed sixteen, evt_timerTick next noWake untimed (fun _ => causeEvents_wrap) hv,
    touches_timerTick_noAction next noWake untimed rfl⟩

end TickRows

/-- Settles O29: the next counts have the one cause that each clause names, on TCLK and over the steps of an AO tick. -/
theorem timersTick : Obligations.TimersTick := by
  refine ⟨fun s n c sixteen ticks tclk hc noWake untimed below unwrapped reached other => ?_,
    fun s n c lap sixteen ticks tclk hc hlap noWake untimed periodic reached unwrapped ha hb => ?_,
    fun s n sixteen ticks tclk last noWake untimed free ha hb => ?_,
    fun s n c k i sixteen ticks ao hc hk least most noWake untimed within fits reached other => ?_,
    fun s n c k per sixteen ticks ao hc hk hper noWake untimed periodic within passed once small unmatched => ?_,
    fun s n c k sixteen ticks ao hc hk noWake untimed free wraps once unmatched => ?_⟩
  · subst hc
    exact compareMatch_ticks sixteen ticks noWake untimed
      ((timerNext_onTclk tclk).trans (countOnce_match below unwrapped reached other)) (by rw [tclk]; rfl)
  · subst hc hlap
    exact periodEnd_ticks sixteen ticks noWake untimed
      ((timerNext_onTclk tclk).trans (countOnce_period periodic reached unwrapped ha hb)) (by rw [tclk]; rfl)
  · exact timerWrap_ticks sixteen ticks noWake untimed
      ((timerNext_onTclk tclk).trans (by rw [free, last]; exact countOnce_wrap ha hb)) (by rw [tclk]; rfl)
  · subst hc hk
    exact compareMatch_ticks sixteen ticks noWake untimed
      ((timerNext_onAo ao).trans (countSteps_match within fits least most reached other)) (by rw [ao]; rfl)
  · subst hc hk hper
    exact periodEnd_ticks sixteen ticks noWake untimed
      ((timerNext_onAo ao).trans (countSteps_period periodic within passed once small unmatched)) (by rw [ao]; rfl)
  · subst hc hk
    exact timerWrap_ticks sixteen ticks noWake untimed
      ((timerNext_onAo ao).trans (by rw [free]; exact countSteps_wrap wraps once unmatched)) (by rw [ao]; rfl)

end Sys2Proof.Tense

/-! PROOFS. The audio output chapter's statements: the writes of a channel, its mute and its park switch, and the monitor's windows. -/

namespace Sys2Proof.AudioOutputs
open Sys2Proof.Machine Sys2Proof.Laws Sys2Proof.Scope Sys2Proof.Architecture

/-! ### The channels after an update -/

section Channels
variable {s : State} {k j : Nat}

theorem dacOf_onDac {f : DacSt → DacSt} (h : k < s.analog.dac.length) : dacOf (onDac s k f) k = f (dacOf s k) := nth_modify _ _ _ _ h

theorem dacOf_onDac_ne {f : DacSt → DacSt} (h : j ≠ k) : dacOf (onDac s k f) j = dacOf s j := nth_modify_ne _ _ _ _ _ h

theorem touches_onDac (f : DacSt → DacSt) : Touches [.analog] [] s (onDac s k f) := touches_analog touches_rfl _ (by decide)

theorem length_onDac {f : DacSt → DacSt} : (onDac s k f).analog.dac.length = s.analog.dac.length := List.length_modify ..

theorem cvOf_onCv {f : CvSt → CvSt} (h : k < s.analog.cv.length) : cvOf (onCv s k f) k = f (cvOf s k) := nth_modify _ _ _ _ h

theorem cvOf_onCv_ne {f : CvSt → CvSt} (h : j ≠ k) : cvOf (onCv s k f) j = cvOf s j := nth_modify_ne _ _ _ _ _ h

theorem touches_onCv (f : CvSt → CvSt) : Touches [.analog] [] s (onCv s k f) := touches_analog touches_rfl _ (by decide)

theorem length_onCv {f : CvSt → CvSt} : (onCv s k f).analog.cv.length = s.analog.cv.length := List.length_modify ..

/-- The channels are read from the converters' part of the state alone. -/
theorem dacOf_congr {t : State} (h : t.analog = s.analog) : dacOf t j = dacOf s j := by rw [dacOf, h, dacOf]

theorem dacOf_wr {a : Nat} {v : Word} : dacOf (wr s a v) j = dacOf s j := dacOf_congr (wr_analog ..)

end Channels

/-! ### DAC_CHANNEL_WRITE (R9, R272, R276) -/

/-- The row of DAC.CHk (R272). -/
def dacChDesc : RegDesc := ⟨R.dacCh, 4, 16, 0x0, 0xF, 0, 0, 0, 0, 0, .none, [(2, 1, 0, 2)]⟩

section ChannelRegister
variable {s : State} {k : Fin 16} {v : Word}

theorem writable_dacCh (k : Fin 16) : Writable (R.dacCh + 4 * k) dacChDesc := by
  constructor <;> revert k <;> decide

/-- MUTE, FSR and MUTESW are RW, and nothing else is kept (R6, R272). -/
theorem plainValue_dacCh (old v : Word) : plainValue dacChDesc old v = (old &&& ~~~0xF) ||| (v &&& 0xF) := by
  show ((old &&& ~~~0xF) ||| (v &&& 0xF)) &&& ~~~(v &&& 0#32) = _
  rw [BitVec.and_zero, BitVec.not_zero, BitVec.and_allOnes]

/-- The FSR codes are 0 to 2. -/
theorem undefinedField_dacCh : undefinedField dacChDesc v = decide (2 < bits v 2 1) := by
  simp [undefinedField, dacChDesc]

theorem definedField_dacCh (defined : bits v 2 1 ≤ 2) : undefinedField dacChDesc v = false := by
  rw [undefinedField_dacCh, decide_eq_false (Nat.not_lt.mpr defined)]

theorem commandReg_dacCh : commandReg s false (R.dacCh + 4 * k) v = none :=
  commandReg_none (by revert k; decide) (by revert k; decide) (by revert k; decide)

theorem chanOf_dacCh : chanOf R.dacCh 4 16 (R.dacCh + 4 * k) = some k.val := by revert k; decide

/-- FSR keeps its value while the switch is open (R272). -/
theorem checkWrite_dacCh : checkWrite s (R.dacCh + 4 * k) v =
    if bits v 2 1 ≠ fld s (R.dacCh + 4 * k) 2 1 ∧ (dacOf s k).open? then some false else none := by
  have page : (R.dacCh + 4 * k) / 0x10000 = 0x4008 := by revert k; decide
  simp only [checkWrite, page, checkOutputs, chanOf_dacCh]

/-- No register of CVO lies there, so a refusal is no refused SPAN change. -/
theorem noteRefusal_dacCh : noteRefusal s (R.dacCh + 4 * k) v = s := by
  have apart : chanOf R.cvoCh 4 8 (R.dacCh + 4 * k) = none := by revert k; decide
  simp only [noteRefusal, apart]

theorem afterWrite_dacCh {old : Word} : afterWrite s (R.dacCh + 4 * k) old v = afterDacCh s k := by
  have cfg : R.dacCh + 4 * k ≠ R.tenseCfg := by revert k; decide
  have tempo : R.dacCh + 4 * k ≠ R.tenseTempo := by revert k; decide
  have port : pageOf (R.dacCh + 4 * k) ≠ R.spPage := by revert k; decide
  simp only [afterWrite, cfg, tempo, port, false_and, if_false, chanOf_dacCh]

end ChannelRegister

section ChannelWrite
variable {s : State} {k : Fin 16} {v : Word}

/-- The ERR register of the DAC page. -/
abbrev dacErr (k : Fin 16) : Nat := pageOf (R.dacCh + 4 * k) + 0xFFFC

theorem dacErr_ne (k : Fin 16) : R.dacCh + 4 * k ≠ dacErr k := by revert k; decide

/-- FSR does not lie in ERR. -/
theorem fsr_ignoresErr {w : Word} : fld (wr s (dacErr k) w) (R.dacCh + 4 * k) 2 1 = fld s (R.dacCh + 4 * k) 2 1 := by
  rw [fld, rd_wr_ne _ _ _ _ (dacErr_ne k), fld]

theorem pwrDomstat_ne (k : Fin 16) : R.pwrDomstat ≠ R.dacCh + 4 * k ∧ R.pwrDomstat ≠ dacErr k := by revert k; decide

theorem pwrStat_ne (k : Fin 16) : R.pwrStat ∉ [R.dacCh + 4 * k] := by revert k; decide

/-- The fields of DAC.CHk have taken the value written, and the page's ERR register is looked at from 0. -/
def fieldsTaken (s : State) (k : Fin 16) (v : Word) : State :=
  wr (wr s (dacErr k) 0) (R.dacCh + 4 * k) (plainValue dacChDesc (rd s (R.dacCh + 4 * k)) v)

theorem analog_fieldsTaken : (fieldsTaken s k v).analog = s.analog := by rw [fieldsTaken, wr_analog, wr_analog]

theorem dacOf_fieldsTaken {j : Nat} : dacOf (fieldsTaken s k v) j = dacOf s j := dacOf_congr analog_fieldsTaken

/-- MUTESW as it has been written. -/
theorem mutesw_fieldsTaken : flag (fieldsTaken s k v) (R.dacCh + 4 * k) 3 = bitOf v 3 := by
  rw [flag, fieldsTaken, rd_wr, plainValue_dacCh]
  simp [bitOf_getLsbD]

/-- The supply of PD5 is read from another page. -/
theorem pd5Released_fieldsTaken : pd5Released (fieldsTaken s k v) = pd5Released s := by
  have supply : rd (fieldsTaken s k v) R.pwrDomstat = rd s R.pwrDomstat := by
    obtain ⟨channel, err⟩ := pwrDomstat_ne k
    rw [fieldsTaken, rd_wr_ne _ _ _ _ channel, rd_wr_ne _ _ _ _ err]
  simp only [pd5Released, domainOn, flag, supply]

/-- A parked channel whose MUTESW has been written 0 opens its switch where PD5 is on and released (R276). -/
theorem afterDacCh_fieldsTaken : afterDacCh (fieldsTaken s k v) k =
    if (dacOf s k).open? = false ∧ bitOf v 3 = false ∧ pd5Released s = true then openPark (fieldsTaken s k v) k
    else fieldsTaken s k v := by
  simp only [afterDacCh, mutesw_fieldsTaken, pd5Released_fieldsTaken, dacOf_fieldsTaken, Bool.and_eq_true, Bool.not_eq_true', and_assoc]

theorem touches_fieldsTaken : Touches [] [R.dacCh + 4 * k] (wr s (dacErr k) 0) (fieldsTaken s k v) :=
  touches_wr touches_rfl _ (List.mem_singleton.2 rfl)

theorem touches_afterDacCh : Touches [.analog] [] s (afterDacCh s k) := touches_ite (touches_onDac _) touches_rfl

/-- A write that nothing refuses: the fields are taken, and the switch follows MUTESW (R272, R276). -/
theorem regWrite_dacCh (may : HostMayWrite s (R.dacCh + 4 * k)) (defined : bits v 2 1 ≤ 2)
    (settled : (dacOf s k).open? = false ∨ bits v 2 1 = fld s (R.dacCh + 4 * k) 2 1) :
    regWrite s (R.dacCh + 4 * k) v = wr (afterDacCh (fieldsTaken s k v) k) (dacErr k) (rd s (dacErr k)) ∧
      Touches [.analog] [R.dacCh + 4 * k] s (regWrite s (R.dacCh + 4 * k) v) := by
  have allowed : checkWrite (wr s (dacErr k) 0) (R.dacCh + 4 * k) v = none := by
    rw [checkWrite_dacCh, fsr_ignoresErr, dacOf_wr]
    exact if_neg fun ⟨other, opened⟩ => settled.elim (fun closed => by simp [closed] at opened) other
  have effect : Touches [.analog] [R.dacCh + 4 * k] (wr s (dacErr k) 0) (afterDacCh (fieldsTaken s k v) k) :=
    touches_trans (touches_mono touches_fieldsTaken (List.nil_subset _) (List.Subset.refl _))
      (touches_mono touches_afterDacCh (List.Subset.refl _) (List.nil_subset _))
  have done := plain_after may (writable_dacCh k) (fun _ => commandReg_dacCh) (definedField_dacCh defined) allowed rfl rfl rfl
    (by rw [afterWrite_dacCh]; exact effect) (by simpa using (dacErr_ne k).symm) (pwrStat_ne k)
  rwa [afterWrite_dacCh] at done

theorem dacChannelWrite_taken (may : HostMayWrite s (R.dacCh + 4 * k)) (sixteen : s.analog.dac.length = 16) (defined : bits v 2 1 ≤ 2)
    (settled : (dacOf s k).open? = false ∨ bits v 2 1 = fld s (R.dacCh + 4 * k) 2 1) :
    ∃ t, exec (.dacChannelWrite k v) s = .next t ∧
      rd t (R.dacCh + 4 * k) = (rd s (R.dacCh + 4 * k) &&& ~~~0xF) ||| (v &&& 0xF) ∧
      dacOf t k = (if (dacOf s k).open? = false ∧ bitOf v 3 = false ∧ pd5Released s = true then
        { dacOf s k with open? := true, kappa := 4096, stood := 0 } else dacOf s k) ∧
      (∀ j, j ≠ k.val → dacOf t j = dacOf s j) ∧ Touches [.analog] [R.dacCh + 4 * k] s t := by
  obtain ⟨value, frame⟩ := regWrite_dacCh may defined settled
  have channel : ∀ j, dacOf (regWrite s (R.dacCh + 4 * k) v) j = dacOf (afterDacCh (fieldsTaken s k v) k) j := fun j => by
    rw [value, dacOf_wr]
  refine ⟨_, rfl, ?_, ?_, fun j other => ?_, frame⟩
  · have kept := (touches_afterDacCh (s := fieldsTaken s k v) (k := k)).regs (R.dacCh + 4 * k) List.not_mem_nil
    rw [value, rd_wr_ne _ _ _ _ (dacErr_ne k), kept, fieldsTaken, rd_wr, plainValue_dacCh]
  · rw [channel, afterDacCh_fieldsTaken]
    split
    · rw [openPark, dacOf_onDac (by rw [analog_fieldsTaken, sixteen]; exact k.isLt), dacOf_fieldsTaken]
    · exact dacOf_fieldsTaken
  · rw [channel, afterDacCh_fieldsTaken]
    split
    · rw [openPark, dacOf_onDac_ne other, dacOf_fieldsTaken]
    · exact dacOf_fieldsTaken

/-- Another FSR while the switch is open is refused for the state (R272). -/
theorem writeOn_dacCh_open (defined : bits v 2 1 ≤ 2) (opened : (dacOf s k).open? = true)
    (other : bits v 2 1 ≠ fld s (R.dacCh + 4 * k) 2 1) :
    writeOn s false dacChDesc (R.dacCh + 4 * k) v = refuse s (R.dacCh + 4 * k) false := by
  have refused : checkWrite s (R.dacCh + 4 * k) v = some false := by rw [checkWrite_dacCh, if_pos ⟨other, opened⟩]
  simp [writeOn, commandReg_dacCh, plainOn, definedField_dacCh defined, refused, noteRefusal_dacCh]

end ChannelWrite

/-- Settles O30: a write of DAC.CHk is the plain value of its row and what follows from MUTESW, or one of its two refusals. -/
theorem audioChannelWrite : Obligations.AudioChannelWrite := by
  refine ⟨fun s k v may sixteen defined settled => dacChannelWrite_taken may sixteen defined settled,
    fun s k v may defined opened other => ⟨_, rfl, command_refused false may (writable_dacCh k) ?_⟩,
    fun s k v may undefined => ⟨_, rfl, command_refused true may (writable_dacCh k) (writeOn_undefined commandReg_dacCh ?_)⟩⟩
  · refine writeOn_dacCh_open (s := wr s (dacErr k) 0) defined ?_ ?_
    · rw [dacOf_wr, opened]
    · rw [fsr_ignoresErr]
      exact other
  · rw [undefinedField_dacCh, undefined]
    rfl

/-! ### Mute and park (R274 to R276, R280) -/

section Mute
variable {s : State} {k : Fin 16}

/-- With the switch open κ takes its step, and the samples it stands at 4,096 count. -/
theorem kappaStep_open (opened : (dacOf s k).open? = true) : kappaStep s k = onDac s k fun d =>
    { d with kappa := kappaNext s k, stood := if kappaNext s k = 4096 ∧ d.kappa = 4096 then d.stood + 1 else 0 } :=
  if_neg (by rw [opened]; decide)

theorem touches_kappaStep : Touches [.analog] [] s (kappaStep s k) := touches_ite touches_rfl (touches_onDac _)

theorem dacOf_kappaStep_ne {j : Nat} (other : j ≠ k) : dacOf (kappaStep s k) j = dacOf s j := by
  unfold kappaStep
  split
  · rfl
  · exact dacOf_onDac_ne other

theorem monitor_kappaStep : (kappaStep s k).analog.monitor = s.analog.monitor := by
  unfold kappaStep
  split <;> rfl

theorem length_kappaStep : (kappaStep s k).analog.dac.length = s.analog.dac.length := by
  unfold kappaStep
  split
  · rfl
  · exact length_onDac

/-- A κ that reaches its target from elsewhere has not stood at 4,096. -/
theorem dacOf_kappaStep_reached (sixteen : s.analog.dac.length = 16) (opened : (dacOf s k).open? = true)
    (elsewhere : (dacOf s k).kappa ≠ kappaTarget s k) (reached : kappaNext s k = kappaTarget s k) :
    dacOf (kappaStep s k) k = { dacOf s k with kappa := kappaTarget s k, stood := 0 } := by
  have moved : ¬(kappaTarget s k = 4096 ∧ (dacOf s k).kappa = 4096) := fun ⟨top, stood⟩ => elsewhere (stood.trans top.symm)
  rw [kappaStep_open opened, dacOf_onDac (sixteen.symm ▸ k.isLt), reached, if_neg moved]

/-- At its target an open channel shows MUTED or PLAY (R275). -/
theorem dacState_atTarget (opened : (dacOf s k).open? = true) (there : (dacOf s k).kappa = kappaTarget s k) :
    dacState s k = if muteCause s k then 2 else 0 := by
  cases cause : muteCause s k <;> simp [dacState, opened, there, kappaTarget, cause]

/-- The mute causes do not depend on the channels' own states. -/
theorem muteCause_onDac {j : Nat} {f : DacSt → DacSt} : muteCause (onDac s j f) k = muteCause s k := rfl

theorem muteRampEnd_reached (sixteen : s.analog.dac.length = 16) (opened : (dacOf s k).open? = true)
    (elsewhere : (dacOf s k).kappa ≠ kappaTarget s k) (reached : kappaNext s k = kappaTarget s k) :
    ∃ t, exec (.muteRampEnd k) s = .next t ∧ dacOf t k = { dacOf s k with kappa := kappaTarget s k, stood := 0 } ∧
      dacState t k = (if muteCause s k then 2 else 0) ∧ (∀ j, j ≠ k.val → dacOf t j = dacOf s j) ∧ Touches [.analog] [] s t := by
  have here := dacOf_kappaStep_reached sixteen opened elsewhere reached
  have cause : muteCause (kappaStep s k) k = muteCause s k := by rw [kappaStep_open opened, muteCause_onDac]
  have target : kappaTarget (kappaStep s k) k = kappaTarget s k := by rw [kappaTarget, cause, kappaTarget]
  refine ⟨_, if_pos ⟨elsewhere, reached⟩, here, ?_, fun j other => ?_, ?_⟩
  · rw [dacState_atTarget (by rw [here]; exact opened) (by rw [here, target]), cause]
  · exact dacOf_kappaStep_ne other
  · exact touches_kappaStep

end Mute

section Park
variable {s : State} {k : Fin 16}

/-- A mute cause holds κ at 4,096. -/
theorem kappaNext_held (muted : muteCause s k = true) (top : (dacOf s k).kappa = 4096) : kappaNext s k = 4096 := by
  simp [kappaNext, muted, top]

/-- A channel that stands at 4,096 counts the sample. -/
theorem dacOf_kappaStep_held (sixteen : s.analog.dac.length = 16) (opened : (dacOf s k).open? = true)
    (muted : muteCause s k = true) (top : (dacOf s k).kappa = 4096) :
    dacOf (kappaStep s k) k = { dacOf s k with stood := (dacOf s k).stood + 1 } := by
  rw [kappaStep_open opened, dacOf_onDac (sixteen.symm ▸ k.isLt), kappaNext_held muted top, if_pos ⟨rfl, top⟩, ← top]

/-- The sixteenth sample at 4,096 with MUTESW set closes the switch (R276). -/
theorem parkDue_sixteenth (sixteen : s.analog.dac.length = 16) (opened : (dacOf s k).open? = true) (top : (dacOf s k).kappa = 4096)
    (fifteen : 15 ≤ (dacOf s k).stood) (mutesw : flag s (R.dacCh + 4 * k) 3 = true) (muted : muteCause s k = true) :
    parkDue (kappaStep s k) k = true := by
  have switch : flag (kappaStep s k) (R.dacCh + 4 * k) 3 = true := by
    rw [flag, touches_kappaStep.regs _ List.not_mem_nil]
    exact mutesw
  simp only [parkDue, dacOf_kappaStep_held sixteen opened muted top, opened, top, switch, Bool.true_or, Bool.and_true, Bool.true_and,
    decide_true, decide_eq_true_eq]
  omega

/-- A channel with its switch closed and κ at 4,096 (R276). -/
def parked (d : DacSt) : DacSt := { d with open? := false, kappa := 4096, stood := 0 }

/-- Of the channels a switch that closes changes its own alone. -/
theorem dacOf_closePark {j : Nat} : dacOf (closePark s k) j = dacOf (onDac s k parked) j := by
  unfold closePark
  dsimp only
  split <;> rfl

/-- It spoils the monitor's window on its channel (R280). -/
theorem spoilt_closePark (monitored : s.analog.monitor = k.val) : (closePark s k).analog.spoilt = true := by
  have same : (onDac s k parked).analog.monitor = k.val := monitored
  exact congrArg (fun t : State => t.analog.spoilt) (if_pos same)

theorem touches_closePark : Touches [.analog] [] s (closePark s k) :=
  touches_ite (touches_analog (touches_onDac _) _ (by decide)) (touches_onDac _)

theorem dacState_parked (closed : (dacOf s k).open? = false) : dacState s k = 4 := by simp [dacState, closed]

theorem parkSwitchClose_sixteenth (sixteen : s.analog.dac.length = 16) (opened : (dacOf s k).open? = true)
    (top : (dacOf s k).kappa = 4096) (fifteen : 15 ≤ (dacOf s k).stood) (mutesw : flag s (R.dacCh + 4 * k) 3 = true)
    (muted : muteCause s k = true) :
    ∃ t, exec (.parkSwitchClose k) s = .next t ∧ dacOf t k = { dacOf s k with open? := false, kappa := 4096, stood := 0 } ∧
      dacState t k = 4 ∧ (s.analog.monitor = k.val → t.analog.spoilt = true) ∧
      (∀ j, j ≠ k.val → dacOf t j = dacOf s j) ∧ Touches [.analog] [] s t := by
  have due := parkDue_sixteenth sixteen opened top fifteen mutesw muted
  have here : dacOf (closePark (kappaStep s k) k) k = parked (dacOf s k) := by
    rw [dacOf_closePark, dacOf_onDac (by rw [length_kappaStep, sixteen]; exact k.isLt), dacOf_kappaStep_held sixteen opened muted top]
    rfl
  refine ⟨_, if_pos due, here, dacState_parked (by rw [here]; rfl), fun monitored => ?_, fun j other => ?_, ?_⟩
  · exact spoilt_closePark (monitor_kappaStep.trans monitored)
  · rw [dacOf_closePark, dacOf_onDac_ne other, dacOf_kappaStep_ne other]
  · exact touches_trans touches_kappaStep touches_closePark

end Park

/-- Settles O31: both rows are one step of κ, to the target, or on at 4,096 until the switch closes. -/
theorem audioMuteAndPark : Obligations.AudioMuteAndPark :=
  ⟨fun _ _ sixteen opened elsewhere reached => muteRampEnd_reached sixteen opened elsewhere reached,
    fun _ _ sixteen opened top fifteen mutesw muted => parkSwitchClose_sixteenth sixteen opened top fifteen mutesw muted⟩

/-! ### MONITOR_WINDOW (R280, R281, R295, R296) -/

section Window
variable {s t : State} {m : Measurement} {i j : Nat}

/-- Before its 1,024 samples a window does not end. -/
theorem exec_monitorWindow_short (short : s.analog.monCount < 1024) : exec (.monitorWindow m) s = .next s :=
  if_pos (by simp [short])

/-- After them it has its result, where it has one, and the monitor goes on (R280, R295). -/
theorem exec_monitorWindow_full (on : flag s R.dacCfg 8 = true) (powered : domainOn s 5 = true) (full : 1024 ≤ s.analog.monCount) :
    exec (.monitorWindow m) s =
      .next (startWindow (if windowGood s then windowResult s s.analog.monitor m.sum.toInt else s) (monitorNext s)) :=
  if_neg (by simp [on, powered, full])

/-- A new window is of the monitor alone. -/
theorem dacOf_startWindow : dacOf (startWindow t i) j = dacOf t j := rfl

theorem cvOf_startWindow : cvOf (startWindow t i) j = cvOf t j := rfl

theorem touches_startWindow : Touches [.analog] [] t (startWindow t i) := touches_analog touches_rfl _ (by decide)

theorem logged_startWindow {code : Nat} {d0 d1 d2 : Word} (h : Logged code d0 d1 d2 s t) :
    Logged code d0 d1 d2 s (startWindow t i) := by
  obtain ⟨u, recorder, stamp, inputs, raised⟩ := h
  exact ⟨u, recorder, stamp.imp_right fun ⟨now, epoch, set, old⟩ => ⟨now, epoch, set, old⟩, inputs, raised⟩

theorem monitorWindow_spoilt (on : flag s R.dacCfg 8 = true) (powered : domainOn s 5 = true) (full : 1024 ≤ s.analog.monCount)
    (spoilt : s.analog.spoilt = true) : exec (.monitorWindow m) s = .next (startWindow s (monitorNext s)) := by
  have bad : windowGood s = false := by simp [windowGood, spoilt]
  rw [exec_monitorWindow_full on powered full, bad]
  rfl

end Window

/-! #### A window on an audio channel (R280, R281) -/

section AudioWindow
variable {s : State} {k : Nat} {T : Int}

/-- T_run of channel k has taken its step. -/
def drifted (s : State) (k : Nat) (T : Int) : State := onDac s k fun d => { d with trun := T }

/-- The factory trim is apart from T_run. -/
theorem tfacOf_drifted (known : k < s.analog.dac.length) : tfacOf (drifted s k T) k = tfacOf s k := by
  rw [tfacOf, drifted, dacOf_onDac known]
  rfl

/-- A drift that has just passed OFSLIM is marked and logged (R281). -/
def driftMarked (s : State) (k : Nat) (T : Int) : State :=
  raiseGloss (setFlag (drifted s k T) R.dacStat k) 0x7110 (w32 k) (BitVec.ofInt 32 T) (BitVec.ofInt 32 (tfacOf s k))

/-- Is a drift to T one that has just passed OFSLIM (R281). -/
def passesLimit (s : State) (k : Nat) (T : Int) : Prop := fld s R.dacCfg 31 16 < T.natAbs ∧ flag s R.dacStat k = false

/-- The result of a window is the bounded step of T_run, and the mark of a drift that has just passed OFSLIM (R280, R281). -/
theorem audioWindow_eq {d : Int} (known : k < s.analog.dac.length)
    (hT : T = sat16 ((dacOf s k).trun - clampAbs (rne d (2 * 1024 * 256)) 8)) :
    (passesLimit s k T → audioWindow s k d = driftMarked s k T) ∧ (¬passesLimit s k T → audioWindow s k d = drifted s k T) := by
  have limit : ((fld (drifted s k T) R.dacCfg 31 16 : Int) < T.natAbs ∧ ¬flag (drifted s k T) R.dacStat k = true) ↔
      passesLimit s k T := by
    rw [Int.ofNat_lt, Bool.not_eq_true]
    rfl
  have unfolded : audioWindow s k d = if (fld (drifted s k T) R.dacCfg 31 16 : Int) < T.natAbs ∧
      ¬flag (drifted s k T) R.dacStat k = true then driftMarked s k T else drifted s k T := by
    rw [driftMarked, ← tfacOf_drifted (T := T) known, hT]
    rfl
  exact ⟨fun passes => unfolded.trans (if_pos (limit.mpr passes)), fun stays => unfolded.trans (if_neg (mt limit.mp stays))⟩

theorem touches_drifted : Touches [.analog] [] s (drifted s k T) := touches_onDac _

theorem touches_driftMarked : Touches [.gloss] (R.dacStat :: glossRegs) (drifted s k T) (driftMarked s k T) :=
  touches_raiseGloss (touches_setFlag touches_rfl _ List.mem_cons_self) _ _ _ _ (by decide) (by decide)

theorem flag_driftMarked (hk : k < 32) : flag (driftMarked s k T) R.dacStat k = true := by
  rw [driftMarked, flag_raiseGloss (by decide), flag_setFlag _ _ _ hk]

theorem logged_driftMarked :
    Logged 0x7110 (w32 k) (BitVec.ofInt 32 T) (BitVec.ofInt 32 (tfacOf s k)) s (driftMarked s k T) :=
  logged_raiseGloss rfl ⟨rfl, rfl, rfl, rfl⟩

/-- From s to t a window on channel k has moved T_run to T (R280, R281). -/
structure AudioResult (s t : State) (k : Nat) (T : Int) : Prop where
  analog : t.analog = (drifted s k T).analog
  marked : fld s R.dacCfg 31 16 < T.natAbs → flag t R.dacStat k = true
  logged : fld s R.dacCfg 31 16 < T.natAbs → flag s R.dacStat k = false →
    Logged 0x7110 (w32 k) (BitVec.ofInt 32 T) (BitVec.ofInt 32 (tfacOf s k)) s t
  within : T.natAbs ≤ fld s R.dacCfg 31 16 → t.gloss = s.gloss ∧ rd t R.dacStat = rd s R.dacStat
  frame : Touches [.analog, .gloss] (R.dacStat :: glossRegs) s t

theorem audioResult_driftMarked (hk : k < 32) (passes : passesLimit s k T) : AudioResult s (driftMarked s k T) k T where
  analog := touches_driftMarked.parts.analog (by decide)
  marked _ := flag_driftMarked hk
  logged _ _ := logged_driftMarked
  within below := absurd passes.1 (Nat.not_lt.mpr below)
  frame := touches_trans (touches_mono touches_drifted (by decide) (List.nil_subset _))
    (touches_mono touches_driftMarked (by decide) (List.Subset.refl _))

theorem audioResult_drifted (stays : ¬passesLimit s k T) : AudioResult s (drifted s k T) k T where
  analog := rfl
  marked beyond := (Bool.not_eq_false _).mp fun unset => stays ⟨beyond, unset⟩
  logged beyond unset := absurd ⟨beyond, unset⟩ stays
  within _ := ⟨rfl, rfl⟩
  frame := touches_mono touches_drifted (by decide) (List.nil_subset _)

theorem audioResult_audioWindow {d : Int} (sixteen : s.analog.dac.length = 16) (hk : k < 16)
    (hT : T = sat16 ((dacOf s k).trun - clampAbs (rne d (2 * 1024 * 256)) 8)) : AudioResult s (audioWindow s k d) k T := by
  obtain ⟨marks, moves⟩ := audioWindow_eq (d := d) (sixteen.symm ▸ hk) hT
  by_cases passes : passesLimit s k T
  · rw [marks passes]
    exact audioResult_driftMarked (by omega) passes
  · rw [moves passes]
    exact audioResult_drifted passes

theorem monitorWindow_audio {m : Measurement} (on : flag s R.dacCfg 8 = true) (powered : domainOn s 5 = true)
    (full : 1024 ≤ s.analog.monCount) (here : s.analog.monitor = k) (hk : k < 16) (sixteen : s.analog.dac.length = 16)
    (unspoilt : s.analog.spoilt = false) (enabled : monitored s k = true) (opened : (dacOf s k).open? = true)
    (hT : T = sat16 ((dacOf s k).trun - clampAbs (rne (m.sum.toInt - s.analog.monSum) (2 * 1024 * 256)) 8)) :
    ∃ u, AudioResult s u k T ∧ exec (.monitorWindow m) s = .next (startWindow u (monitorNext s)) := by
  have good : windowGood s = true := by simp [windowGood, here, hk, unspoilt, enabled, opened]
  have result : windowResult s k m.sum.toInt = audioWindow s k (m.sum.toInt - s.analog.monSum) := if_pos hk
  refine ⟨_, audioResult_audioWindow sixteen hk hT, ?_⟩
  rw [exec_monitorWindow_full on powered full, good, if_pos rfl, here, result]

end AudioWindow

/-! #### A window on a control-voltage channel (R295, R296) -/

section VoltageWindow
variable {s : State} {k : Nat} {c : CvSt} {e x : Int}

/-- The runtime terms of channel k have been corrected, where CORREN is set (R295). -/
def corrected (s : State) (k : Nat) (e x : Int) : State :=
  if flag s R.cvoCfg 8 then onCv s k fun c => loadCorrection c e x else s

/-- The drift of a channel counts a residual beyond DRIFTLIM, and begins anew at one within it (R296). -/
def driftCounted (limit : Nat) (e : Int) (c : CvSt) : CvSt := { c with drift := if limit < e.natAbs then c.drift + 1 else 0 }

theorem drift_loadCorrection : (loadCorrection c e x).drift = c.drift := by
  unfold loadCorrection
  split <;> rfl

theorem length_corrected : (corrected s k e x).analog.cv.length = s.analog.cv.length := by
  unfold corrected
  split
  · exact length_onCv
  · rfl

theorem cvOf_corrected (known : k < s.analog.cv.length) :
    cvOf (corrected s k e x) k = if flag s R.cvoCfg 8 then loadCorrection (cvOf s k) e x else cvOf s k := by
  unfold corrected
  split
  · exact cvOf_onCv known
  · rfl

theorem cvOf_corrected_ne {j : Nat} (other : j ≠ k) : cvOf (corrected s k e x) j = cvOf s j := by
  unfold corrected
  split
  · exact cvOf_onCv_ne other
  · rfl

theorem dac_corrected : (corrected s k e x).analog.dac = s.analog.dac := by
  unfold corrected
  split <;> rfl

theorem touches_corrected : Touches [.analog] [] s (corrected s k e x) := touches_ite (touches_onCv _) touches_rfl

/-- Channel k has been visited: its terms are corrected, and its drift is counted. -/
def visited (s : State) (k : Nat) (e x : Int) : State := onCv (corrected s k e x) k (driftCounted (fld s R.cvoCfg 31 16) e)

/-- CAL_DRIFT is due at 32 visits, or at a term that stands at its limit (R296). -/
def calDriftDue (c : CvSt) : Prop := 32 ≤ c.drift ∨ c.orun.natAbs = 32767 ∨ c.grun.natAbs = 32767

theorem cvWindow_undue (undue : ¬calDriftDue (cvOf (visited s k e x) k)) : cvWindow s k e x = visited s k e x := by
  have limit : fld (corrected s k e x) R.cvoCfg 31 16 = fld s R.cvoCfg 31 16 := by
    rw [fld, touches_corrected.regs _ List.not_mem_nil, fld]
  unfold visited at undue ⊢
  rw [← limit] at undue ⊢
  exact if_neg undue

theorem cvOf_visited (known : k < s.analog.cv.length)
    (hc : c = if flag s R.cvoCfg 8 then loadCorrection (cvOf s k) e x else cvOf s k) :
    cvOf (visited s k e x) k = driftCounted (fld s R.cvoCfg 31 16) e c := by
  rw [visited, cvOf_onCv (length_corrected.symm ▸ known), cvOf_corrected known, hc]

theorem touches_visited : Touches [.analog] [] s (visited s k e x) := touches_trans touches_corrected (touches_onCv _)

/-- Below the 32 visits and the limits of CAL_DRIFT a window corrects the terms and counts the drift, and marks nothing (R295, R296). -/
theorem cvWindow_unmarked (known : k < s.analog.cv.length)
    (hc : c = if flag s R.cvoCfg 8 then loadCorrection (cvOf s k) e x else cvOf s k)
    (visits : (cvOf s k).drift < 31) (offset : c.orun.natAbs < 32767) (gain : c.grun.natAbs < 32767) :
    cvWindow s k e x = visited s k e x := by
  have count : c.drift = (cvOf s k).drift := by
    rw [hc]
    split
    · exact drift_loadCorrection
    · rfl
  have few : (driftCounted (fld s R.cvoCfg 31 16) e c).drift < 32 := by
    simp only [driftCounted, count]
    split <;> omega
  refine cvWindow_undue ?_
  rw [cvOf_visited known hc]
  rintro (many | top | top)
  · exact absurd few (Nat.not_lt.mpr many)
  · exact absurd top (Nat.ne_of_lt offset)
  · exact absurd top (Nat.ne_of_lt gain)

theorem monitorWindow_voltage {m : Measurement} (on : flag s R.dacCfg 8 = true) (powered : domainOn s 5 = true)
    (full : 1024 ≤ s.analog.monCount) (here : s.analog.monitor = 16 + k) (unspoilt : s.analog.spoilt = false)
    (enabled : monitored s (16 + k) = true) (runs : cvState s k = 0) (he : e = rne (m.sum.toInt - s.analog.monSum) 1024)
    (hx : x = rne (s.analog.monSum - 1024 * (spanZero (cvOf s k).span : Int)) 1024) :
    exec (.monitorWindow m) s = .next (startWindow (cvWindow s k e x) (monitorNext s)) := by
  have voltage : ¬16 + k < 16 := Nat.not_lt.mpr (Nat.le_add_right 16 k)
  have own : 16 + k - 16 = k := Nat.add_sub_cancel_left 16 k
  have good : windowGood s = true := by
    simp only [windowGood, here, unspoilt, enabled, if_neg voltage, own, runs, Bool.not_false, Bool.and_self, decide_true]
  have result : windowResult s (16 + k) m.sum.toInt = cvWindow s k e x := by
    rw [he, hx]
    simp only [windowResult, if_neg voltage, own]
  rw [exec_monitorWindow_full on powered full, good, if_pos rfl, here, result]

end VoltageWindow

/-- Settles O32: the window of the monitor's channel ends in that channel's correction, or in none, and a new window begins. -/
theorem monitorCorrects : Obligations.MonitorCorrects := by
  refine ⟨fun s m k T on powered full here hk sixteen unspoilt enabled opened hT => ?_,
    fun s m k c e x on powered full here hk eight unspoilt enabled runs he hx hc visits offset gain => ?_,
    fun s m on powered full spoilt => monitorWindow_spoilt on powered full spoilt, fun s m short => exec_monitorWindow_short short⟩
  · obtain ⟨u, result, done⟩ := monitorWindow_audio on powered full here hk sixteen unspoilt enabled opened hT
    have voltages : u.analog.cv = (drifted s k T).analog.cv := by rw [result.analog]
    have channel : ∀ j, dacOf u j = dacOf (drifted s k T) j := fun j => dacOf_congr result.analog
    refine ⟨_, done, ?_, fun j other => ?_, voltages, rfl, rfl, rfl, rfl, result.marked,
      fun beyond unset => logged_startWindow (result.logged beyond unset), result.within,
      touches_trans result.frame (touches_mono touches_startWindow (by decide) (List.nil_subset _))⟩
    · rw [dacOf_startWindow, channel, drifted, dacOf_onDac (sixteen.symm ▸ hk)]
    · rw [dacOf_startWindow, channel, drifted, dacOf_onDac_ne other]
  · have known : k < s.analog.cv.length := eight.symm ▸ hk
    refine ⟨_, monitorWindow_voltage on powered full here unspoilt enabled runs he hx, ?_⟩
    rw [cvWindow_unmarked known hc visits offset gain]
    refine ⟨cvOf_visited known hc, fun j other => ?_, dac_corrected, rfl, rfl, rfl, rfl, touches_trans touches_visited touches_startWindow⟩
    rw [cvOf_startWindow, visited, cvOf_onCv_ne other, cvOf_corrected_ne other]

end Sys2Proof.AudioOutputs

/-! PROOFS. The control-voltage chapter's statements: the writes of a channel, its ramp and its park switch, and the loss and return of the
rails. -/

namespace Sys2Proof.VoltageOutputs
open Sys2Proof.Machine Sys2Proof.Laws Sys2Proof.Scope Sys2Proof.Architecture Sys2Proof.AudioOutputs

/-! ### What a channel's state is read from -/

section Reads
variable {s t : State} {j : Nat}

/-- The channels are read from the converters' part of the state alone. -/
theorem cvOf_congr (h : t.analog = s.analog) : cvOf t j = cvOf s j := by rw [cvOf, h, cvOf]

theorem cvOf_wr {a : Nat} {v : Word} : cvOf (wr s a v) j = cvOf s j := cvOf_congr (wr_analog ..)

variable {k : Fin 8} {v : Word}

theorem cvoCh_ne_cvoErr (k : Fin 8) : R.cvoCh + 4 * k ≠ R.cvoErr := by revert k; decide

/-- What changes no register but ERR keeps CVO.CHk. -/
theorem rd_cvoCh_err (h : Touches [.host] [R.cvoErr] s t) : rd t (R.cvoCh + 4 * k) = rd s (R.cvoCh + 4 * k) :=
  h.regs _ (mt List.mem_singleton.mp (cvoCh_ne_cvoErr k))

theorem cvEnabled_err (h : Touches [.host] [R.cvoErr] s t) : cvEnabled t k = cvEnabled s k := by
  rw [cvEnabled, flag, rd_cvoCh_err h, cvEnabled, flag]

/-- The ERR register of the page, and the record of its first refusal, are no park cause. -/
theorem parkCause_err (h : Touches [.host] [R.cvoErr] s t) : parkCause t k = parkCause s k := by
  have boot : t.boot = s.boot := h.parts.boot (by decide)
  have power : t.power = s.power := h.parts.power (by decide)
  have channel := rd_cvoCh_err (k := k) h
  have stat := h.regs R.cvoStat (by decide)
  have domains := h.regs R.pwrDomstat (by decide)
  simp only [parkCause, cvEnabled, railOk, pd5Released, domainOn, flag, boot, power, channel, stat, domains]

theorem cvState_err (h : Touches [.host] [R.cvoErr] s t) : cvState t k = cvState s k := by
  have own : cvOf t k = cvOf s k := cvOf_congr (h.parts.analog (by decide))
  have enabled := cvEnabled_err (k := k) h
  have rails : railOk t = railOk s := by rw [railOk, flag, h.regs _ (by decide), railOk, flag]
  have top : rampTop t = rampTop s := by rw [rampTop, fld, h.regs _ (by decide), rampTop, fld]
  rw [cvState, own, enabled, rails, parkCause_err h, top, cvState]

/-- Whether R290 allows a change of SPAN does not depend on ERR. -/
theorem spanRefused_err (h : Touches [.host] [R.cvoErr] s t) : spanRefused t k v = spanRefused s k v := by
  rw [spanRefused, cvEnabled_err h, cvState_err h, fld, rd_cvoCh_err h, spanRefused, fld]

theorem spanRefused_settled
    (settled : bits v 2 1 = fld s (R.cvoCh + 4 * k) 2 1 ∨ (cvEnabled s k = false ∧ cvState s k = 2)) : spanRefused s k v = false := by
  rcases settled with same | ⟨disabled, parked⟩
  · simp [spanRefused, same]
  · simp [spanRefused, disabled, parked]

theorem spanRefused_changed (other : bits v 2 1 ≠ fld s (R.cvoCh + 4 * k) 2 1) (active : cvEnabled s k = true ∨ cvState s k ≠ 2) :
    spanRefused s k v = true := by
  simpa [spanRefused, other] using active

end Reads

/-! ### CV_CHANNEL_WRITE (R9, R288, R290) -/

/-- The row of CVO.CHk (R297). -/
def cvoChDesc : RegDesc := ⟨R.cvoCh, 4, 8, 0x0, 0xFFF, 0, 0, 0, 0, 0, .none, []⟩

section ChannelRegister
variable {s : State} {k : Fin 8} {v : Word}

theorem writable_cvoCh (k : Fin 8) : Writable (R.cvoCh + 4 * k) cvoChDesc := by
  constructor <;> revert k <;> decide

/-- The fields of CVO.CHk are RW, and nothing else is kept (R6, R297). -/
theorem plainValue_cvoCh (old v : Word) : plainValue cvoChDesc old v = (old &&& ~~~0xFFF) ||| (v &&& 0xFFF) := by
  show ((old &&& ~~~0xFFF) ||| (v &&& 0xFFF)) &&& ~~~(v &&& 0#32) = _
  rw [BitVec.and_zero, BitVec.not_zero, BitVec.and_allOnes]

theorem errReg_cvoCh (k : Fin 8) : pageOf (R.cvoCh + 4 * k) + 0xFFFC = R.cvoErr := by revert k; decide

theorem pwrStat_ne_cvoCh (k : Fin 8) : R.pwrStat ∉ [R.cvoCh + 4 * k] := by revert k; decide

theorem commandReg_cvoCh : commandReg s false (R.cvoCh + 4 * k) v = none :=
  commandReg_none (by revert k; decide) (by revert k; decide) (by revert k; decide)

theorem chanOf_cvoCh (k : Fin 8) : chanOf R.cvoCh 4 8 (R.cvoCh + 4 * k) = some k.val := by revert k; decide

/-- No audio channel's register lies there. -/
theorem chanOf_dacCh_none (k : Fin 8) : chanOf R.dacCh 4 16 (R.cvoCh + 4 * k) = none := by revert k; decide

/-- UPD without a cause is an undefined encoding; a change of SPAN is a matter of state (R9, R290, R297). -/
theorem checkWrite_cvoCh : checkWrite s (R.cvoCh + 4 * k) v =
    if bitOf v 4 ∧ bits v 7 5 = 0 then some true else if spanRefused s k v then some false else none := by
  have page : (R.cvoCh + 4 * k) / 0x10000 = 0x4009 := by revert k; decide
  simp only [checkWrite, page, checkOutputs, chanOf_cvoCh, chanOf_dacCh_none]

/-- With a cause for UPD a change of SPAN alone is refused, which the ERR register looked at from 0 does not decide. -/
theorem checkWrite_cvoCh_caused (cause : bitOf v 4 = true → bits v 7 5 ≠ 0) :
    checkWrite (wr s R.cvoErr 0) (R.cvoCh + 4 * k) v = if spanRefused s k v then some false else none := by
  rw [checkWrite_cvoCh, if_neg fun ⟨upd, causeless⟩ => cause upd causeless,
    spanRefused_err (touches_wr touches_rfl _ List.mem_cons_self)]

theorem noteRefusal_cvoCh :
    noteRefusal s (R.cvoCh + 4 * k) v = if spanRefused s k v then setFlag s R.cvoStat (8 + k) else s := by
  simp only [noteRefusal, chanOf_cvoCh]

theorem afterWrite_cvoCh {old : Word} : afterWrite s (R.cvoCh + 4 * k) old v = afterCvCh s k := by
  have cfg : R.cvoCh + 4 * k ≠ R.tenseCfg := by revert k; decide
  have tempo : R.cvoCh + 4 * k ≠ R.tenseTempo := by revert k; decide
  have port : pageOf (R.cvoCh + 4 * k) ≠ R.spPage := by revert k; decide
  simp only [afterWrite, cfg, tempo, port, false_and, if_false, chanOf_cvoCh, chanOf_dacCh_none]

/-- What a refused write leaves: the refusal, and SPANREF where the SPAN it gives is refused (R290). -/
theorem writeOn_cvoCh_refused {encoding : Bool} (refused : checkWrite s (R.cvoCh + 4 * k) v = some encoding) :
    writeOn s false cvoChDesc (R.cvoCh + 4 * k) v = noteRefusal (refuse s (R.cvoCh + 4 * k) encoding) (R.cvoCh + 4 * k) v := by
  have defined : undefinedField cvoChDesc v = false := rfl
  simp [writeOn, commandReg_cvoCh, plainOn, defined, refused]

end ChannelRegister

section ChannelTaken
variable {s : State} {k : Fin 8} {v : Word}

/-- The fields of CVO.CHk have taken the value written, and the page's ERR register is looked at from 0. -/
def cvFieldsTaken (s : State) (k : Fin 8) (v : Word) : State :=
  wr (wr s R.cvoErr 0) (R.cvoCh + 4 * k) (plainValue cvoChDesc (rd s (R.cvoCh + 4 * k)) v)

theorem analog_cvFieldsTaken : (cvFieldsTaken s k v).analog = s.analog := by rw [cvFieldsTaken, wr_analog, wr_analog]

theorem cvOf_cvFieldsTaken {j : Nat} : cvOf (cvFieldsTaken s k v) j = cvOf s j := cvOf_congr analog_cvFieldsTaken

/-- EN as it has been written. -/
theorem cvEnabled_cvFieldsTaken : cvEnabled (cvFieldsTaken s k v) k = bitOf v 0 := by
  rw [cvEnabled, flag, cvFieldsTaken, rd_wr, plainValue_cvoCh]
  simp [bitOf_getLsbD]

/-- A parked channel that has been disabled has left the run sequence (R289, R290). -/
theorem afterCvCh_cvFieldsTaken : afterCvCh (cvFieldsTaken s k v) k =
    if (cvOf s k).closed = true ∧ bitOf v 0 = false then onCv (cvFieldsTaken s k v) k fun c => { c with settle := 0 }
    else cvFieldsTaken s k v := by
  simp only [afterCvCh, cvEnabled_cvFieldsTaken, cvOf_cvFieldsTaken, Bool.and_eq_true, Bool.not_eq_true']

theorem touches_afterCvCh : Touches [.analog] [] s (afterCvCh s k) := touches_ite (touches_onCv _) touches_rfl

theorem dac_afterCvCh : (afterCvCh s k).analog.dac = s.analog.dac := by
  unfold afterCvCh
  split <;> rfl

/-- A write that nothing refuses: the fields are taken, and a parked channel follows EN (R288 to R290). -/
theorem regWrite_cvoCh (may : HostMayWrite s (R.cvoCh + 4 * k)) (cause : bitOf v 4 = true → bits v 7 5 ≠ 0)
    (kept : spanRefused s k v = false) :
    regWrite s (R.cvoCh + 4 * k) v = wr (afterCvCh (cvFieldsTaken s k v) k) R.cvoErr (rd s R.cvoErr) ∧
      Touches [.analog] [R.cvoCh + 4 * k] s (regWrite s (R.cvoCh + 4 * k) v) := by
  have allowed : checkWrite (wr s R.cvoErr 0) (R.cvoCh + 4 * k) v = none := by
    rw [checkWrite_cvoCh_caused cause, kept]
    rfl
  have fields : Touches [.analog] [R.cvoCh + 4 * k] (wr s R.cvoErr 0) (cvFieldsTaken s k v) :=
    touches_wr touches_rfl _ List.mem_cons_self
  have effect : Touches [.analog] [R.cvoCh + 4 * k] (wr s R.cvoErr 0) (afterCvCh (cvFieldsTaken s k v) k) :=
    touches_trans fields (touches_mono touches_afterCvCh (List.Subset.refl _) (List.nil_subset _))
  have done := plain_after (v := v) (ps := [.analog]) (rs := [R.cvoCh + 4 * k]) may (writable_cvoCh k) (fun _ => commandReg_cvoCh) rfl
  rw [errReg_cvoCh, afterWrite_cvoCh] at done
  exact done allowed rfl rfl rfl effect (mt List.mem_singleton.mp (cvoCh_ne_cvoErr k).symm) (pwrStat_ne_cvoCh k)

theorem cvChannelWrite_taken (may : HostMayWrite s (R.cvoCh + 4 * k)) (cause : bitOf v 4 = true → bits v 7 5 ≠ 0)
    (kept : spanRefused s k v = false) (eight : s.analog.cv.length = 8) :
    ∃ t, exec (.cvChannelWrite k v) s = .next t ∧
      rd t (R.cvoCh + 4 * k) = (rd s (R.cvoCh + 4 * k) &&& ~~~0xFFF) ||| (v &&& 0xFFF) ∧
      cvOf t k = (if (cvOf s k).closed = true ∧ bitOf v 0 = false then { cvOf s k with settle := 0 } else cvOf s k) ∧
      (∀ j, j ≠ k.val → cvOf t j = cvOf s j) ∧ t.analog.dac = s.analog.dac ∧ Touches [.analog] [R.cvoCh + 4 * k] s t := by
  obtain ⟨value, frame⟩ := regWrite_cvoCh may cause kept
  refine ⟨_, rfl, ?_, ?_, fun j other => ?_, ?_, frame⟩
  · rw [value, rd_wr_ne _ _ _ _ (cvoCh_ne_cvoErr k), touches_afterCvCh.regs _ List.not_mem_nil, cvFieldsTaken, rd_wr, plainValue_cvoCh]
  · rw [value, cvOf_wr, afterCvCh_cvFieldsTaken]
    split
    · rw [cvOf_onCv (by rw [analog_cvFieldsTaken, eight]; exact k.isLt), cvOf_cvFieldsTaken]
    · exact cvOf_cvFieldsTaken
  · rw [value, cvOf_wr, afterCvCh_cvFieldsTaken]
    split
    · rw [cvOf_onCv_ne other, cvOf_cvFieldsTaken]
    · exact cvOf_cvFieldsTaken
  · rw [value, wr_analog, dac_afterCvCh, analog_cvFieldsTaken]

end ChannelTaken

section ChannelRefused
variable {s : State} {k : Fin 8} {v : Word}

/-- The word that a refusal leaves in an empty ERR register is not 0. -/
theorem errBit_or_ne_zero (encoding : Bool) (x : Word) : errBit encoding ||| x ≠ 0 := by
  intro empty
  obtain ⟨unset, _⟩ := BitVec.or_eq_zero_iff.mp empty
  cases encoding <;> exact absurd unset (by decide)

theorem touches_refusal (encoding : Bool) :
    Touches [.host] [R.cvoErr] s (refuse (wr s R.cvoErr 0) (R.cvoCh + 4 * k) encoding) :=
  touches_refuse (touches_wr touches_rfl _ List.mem_cons_self) _ (by decide) (by rw [errReg_cvoCh]; exact List.mem_cons_self)

/-- ERR has taken the refusal of a change of SPAN, and SPANREF is set (R9, R290). -/
def spanRefusal (s : State) (k : Fin 8) : State :=
  wr (setFlag (refuse (wr s R.cvoErr 0) (R.cvoCh + 4 * k) false) R.cvoStat (8 + k)) R.cvoErr (errAfter s (R.cvoCh + 4 * k) false)

/-- A change of SPAN that R290 does not allow is refused for the state, and marked. -/
theorem regWrite_cvoCh_spanRefused (may : HostMayWrite s (R.cvoCh + 4 * k)) (cause : bitOf v 4 = true → bits v 7 5 ≠ 0)
    (refused : spanRefused s k v = true) : regWrite s (R.cvoCh + 4 * k) v = spanRefusal s k := by
  have check : checkWrite (wr s R.cvoErr 0) (R.cvoCh + 4 * k) v = some false := by
    rw [checkWrite_cvoCh_caused cause, refused]
    rfl
  have written : writeOn (wr s R.cvoErr 0) false cvoChDesc (R.cvoCh + 4 * k) v =
      setFlag (refuse (wr s R.cvoErr 0) (R.cvoCh + 4 * k) false) R.cvoStat (8 + k) := by
    rw [writeOn_cvoCh_refused check, noteRefusal_cvoCh, spanRefused_err (touches_refusal false), refused]
    rfl
  have word := refuse_rd (a := R.cvoCh + 4 * k) (wr s R.cvoErr 0) false (by rw [errReg_cvoCh, rd_wr])
  have merged := refused_word (a := R.cvoCh + 4 * k) s false
  have done := regWrite_refused (v := v) may (writable_cvoCh k)
  rw [errReg_cvoCh] at word merged done
  have marked : rd (setFlag (refuse (wr s R.cvoErr 0) (R.cvoCh + 4 * k) false) R.cvoStat (8 + k)) R.cvoErr =
      errBit false ||| w32 ((R.cvoCh + 4 * k) % 0x10000) := (rd_wr_ne _ _ _ _ (by decide)).trans word
  rw [written, marked, merged] at done
  exact done (errBit_or_ne_zero _ _)

theorem cvChannelWrite_spanRefused (may : HostMayWrite s (R.cvoCh + 4 * k)) (cause : bitOf v 4 = true → bits v 7 5 ≠ 0)
    (refused : spanRefused s k v = true) :
    ∃ t, exec (.cvChannelWrite k v) s = .next t ∧ rd t R.cvoErr = errAfter s (R.cvoCh + 4 * k) false ∧
      rd t R.cvoStat = setBits (rd s R.cvoStat) (8 + k) (8 + k) 1 ∧ Touches [.host] [R.cvoErr, R.cvoStat] s t := by
  refine ⟨spanRefusal s k, congrArg Host.Outcome.next (regWrite_cvoCh_spanRefused may cause refused), rd_wr .., ?_, ?_⟩
  · rw [spanRefusal, rd_wr_ne _ _ _ _ (by decide), setFlag_eq, wrFld, rd_wr, (touches_refusal false).regs _ (by decide)]
  · have refusal : Touches [.host] [R.cvoErr, R.cvoStat] s (refuse (wr s R.cvoErr 0) (R.cvoCh + 4 * k) false) :=
      touches_mono (touches_refusal false) (List.Subset.refl _) (by decide)
    exact touches_wr (touches_setFlag refusal _ (by decide)) _ List.mem_cons_self

/-- UPD without a cause is refused for its encoding (R9, R297). -/
theorem cvChannelWrite_noCause (may : HostMayWrite s (R.cvoCh + 4 * k)) (upd : bitOf v 4 = true) (causeless : bits v 7 5 = 0)
    (kept : spanRefused s k v = false) : Refused s (regWrite s (R.cvoCh + 4 * k) v) (R.cvoCh + 4 * k) true := by
  refine command_refused true may (writable_cvoCh k) ?_
  rw [errReg_cvoCh, writeOn_cvoCh_refused (by rw [checkWrite_cvoCh, if_pos ⟨upd, causeless⟩]), noteRefusal_cvoCh,
    spanRefused_err (touches_refusal true), kept]
  rfl

end ChannelRefused

/-- Settles O33: a write of CVO.CHk is the plain value of its row and what follows from EN, or one of its two refusals. -/
theorem controlVoltageWrite : Obligations.ControlVoltageWrite :=
  ⟨fun _ _ _ may cause settled eight => cvChannelWrite_taken may cause (spanRefused_settled settled) eight,
    fun _ _ _ may cause other active => cvChannelWrite_spanRefused may cause (spanRefused_changed other active),
    fun _ _ _ may upd causeless settled => ⟨_, rfl, cvChannelWrite_noCause may upd causeless (spanRefused_settled settled)⟩⟩

/-! ### Ramps and switches (R288, R289) -/

section Ramp
variable {s : State} {k j : Nat}

theorem rampTop_pos : 0 < rampTop s := Nat.two_pow_pos _

/-- A monitor's window that is spoilt is of no channel's own state. -/
theorem cvOf_spoilCv : cvOf (spoilCv s k) j = cvOf s j := by
  unfold spoilCv
  split <;> rfl

theorem spoilt_spoilCv (here : s.analog.monitor = 16 + k) : (spoilCv s k).analog.spoilt = true := by
  rw [spoilCv, if_pos here]

theorem touches_spoilCv : Touches [.analog] [] s (spoilCv s k) := touches_ite (touches_analog touches_rfl _ (by decide)) touches_rfl

theorem cvRamp_falls (park : parkCause s k = true) (opened : (cvOf s k).closed = false) (up : 0 < (cvOf s k).a) :
    cvRamp s k = spoilCv (onCv s k fun c => { c with a := min c.a (rampTop s) - 1, hold := 0 }) k := by
  simp [cvRamp, park, opened, up]

theorem cvRamp_holds (park : parkCause s k = true) (opened : (cvOf s k).closed = false) (down : (cvOf s k).a = 0) :
    cvRamp s k = onCv s k fun c => { c with hold := c.hold + 1 } := by
  simp [cvRamp, park, opened, down]

theorem cvRamp_settles (run : parkCause s k = false) (closed : (cvOf s k).closed = true) (begun : (cvOf s k).settle ≠ 0) :
    cvRamp s k = onCv s k fun c => { c with settle := c.settle + 1 } := by
  simp [cvRamp, run, closed, begun]

theorem cvRamp_rises (run : parkCause s k = false) (opened : (cvOf s k).closed = false) :
    cvRamp s k = onCv s k fun c => { c with a := min (c.a + 1) (rampTop s), hold := 0 } := by
  simp [cvRamp, run, opened]

/-- The park causes do not depend on the channels' own states. -/
theorem parkCause_onCv {f : CvSt → CvSt} : parkCause (onCv s j f) k = parkCause s k := rfl

end Ramp

section RampEnd
variable {s : State} {k : Fin 8}

/-- With the switch open a sample that brings a to its goal ends the ramp. -/
theorem exec_cvRampEnd {goal : Nat} (opened : (cvOf s k).closed = false) (hgoal : (if parkCause s k then 0 else rampTop s) = goal)
    (elsewhere : (cvOf s k).a ≠ goal) (reached : (cvOf (cvRamp s k) k).a = goal) : exec (.cvRampEnd k) s = .next (cvRamp s k) := by
  subst hgoal
  exact if_pos ⟨by rw [opened]; decide, elsewhere, reached⟩

theorem cvRampEnd_parks (eight : s.analog.cv.length = 8) (park : parkCause s k = true) (opened : (cvOf s k).closed = false)
    (last : min (cvOf s k).a (rampTop s) = 1) :
    ∃ t, exec (.cvRampEnd k) s = .next t ∧ cvOf t k = { cvOf s k with a := 0, hold := 0 } ∧
      (s.analog.monitor = 16 + k.val → t.analog.spoilt = true) ∧ (∀ j, j ≠ k.val → cvOf t j = cvOf s j) ∧ Touches [.analog] [] s t := by
  have up : 0 < (cvOf s k).a := by omega
  have ramp := cvRamp_falls park opened up
  have here : cvOf (cvRamp s k) k = { cvOf s k with a := 0, hold := 0 } := by
    rw [ramp, cvOf_spoilCv, cvOf_onCv (eight.symm ▸ k.isLt), last]
  refine ⟨_, exec_cvRampEnd opened (if_pos park) (Nat.ne_of_gt up) (by rw [here]), here, fun monitored => ?_, fun j other => ?_, ?_⟩ <;> rw [ramp]
  · exact spoilt_spoilCv monitored
  · rw [cvOf_spoilCv, cvOf_onCv_ne other]
  · exact touches_trans (touches_onCv _) touches_spoilCv

theorem cvRampEnd_runs (eight : s.analog.cv.length = 8) (run : parkCause s k = false) (opened : (cvOf s k).closed = false)
    (last : rampTop s ≤ (cvOf s k).a + 1) (elsewhere : (cvOf s k).a ≠ rampTop s) :
    ∃ t, exec (.cvRampEnd k) s = .next t ∧ cvOf t k = { cvOf s k with a := rampTop s, hold := 0 } ∧
      (∀ j, j ≠ k.val → cvOf t j = cvOf s j) ∧ Touches [.analog] [] s t := by
  have ramp := cvRamp_rises run opened
  have here : cvOf (cvRamp s k) k = { cvOf s k with a := rampTop s, hold := 0 } := by
    rw [ramp, cvOf_onCv (eight.symm ▸ k.isLt), Nat.min_eq_right last]
  refine ⟨_, exec_cvRampEnd opened (if_neg (by rw [run]; decide)) elsewhere (by rw [here]), here, fun j other => ?_, ?_⟩ <;> rw [ramp]
  · exact cvOf_onCv_ne other
  · exact touches_onCv _

end RampEnd

section Switches
variable {s : State} {k : Fin 8}

/-- The sixteenth sample at N0 closes the switch (R289). -/
theorem cvParkSwitchClose_sixteenth (eight : s.analog.cv.length = 8) (park : parkCause s k = true)
    (opened : (cvOf s k).closed = false) (down : (cvOf s k).a = 0) (fifteen : 15 ≤ (cvOf s k).hold) :
    ∃ t, exec (.cvParkSwitchClose k) s = .next t ∧ cvOf t k = { cvOf s k with closed := true, a := 0, hold := 0, settle := 0 } ∧
      (∀ j, j ≠ k.val → cvOf t j = cvOf s j) ∧ Touches [.analog] [] s t := by
  have known : (k : Nat) < s.analog.cv.length := eight.symm ▸ k.isLt
  have ramp := cvRamp_holds park opened down
  have due : cvCloseDue (cvRamp s k) k = true := by
    simp [ramp, cvCloseDue, cvOf_onCv known, parkCause_onCv, park, opened, down, fifteen]
  refine ⟨_, if_pos due, ?_, fun j other => ?_, ?_⟩ <;> rw [ramp, cvClose]
  · rw [cvOf_onCv (length_onCv.symm ▸ known), cvOf_onCv known]
  · rw [cvOf_onCv_ne other, cvOf_onCv_ne other]
  · exact touches_trans (touches_onCv _) (touches_onCv _)

/-- The sixty-fourth sample of settling opens it (R289). -/
theorem cvSwitchOpen_sixtyFourth (eight : s.analog.cv.length = 8) (run : parkCause s k = false)
    (closed : (cvOf s k).closed = true) (settled : 63 ≤ (cvOf s k).settle) :
    ∃ t, exec (.cvSwitchOpen k) s = .next t ∧ cvOf t k = { cvOf s k with closed := false, a := 0, hold := 0, settle := 0 } ∧
      (∀ j, j ≠ k.val → cvOf t j = cvOf s j) ∧ Touches [.analog] [] s t := by
  have known : (k : Nat) < s.analog.cv.length := eight.symm ▸ k.isLt
  have ramp := cvRamp_settles run closed (by omega)
  have due : cvOpenDue (cvRamp s k) k = true := by
    simp [ramp, cvOpenDue, cvOf_onCv known, parkCause_onCv, run, closed, settled]
  refine ⟨_, if_pos due, ?_, fun j other => ?_, ?_⟩ <;> rw [ramp, cvOpen]
  · rw [cvOf_onCv (length_onCv.symm ▸ known), cvOf_onCv known]
  · rw [cvOf_onCv_ne other, cvOf_onCv_ne other]
  · exact touches_trans (touches_onCv _) (touches_onCv _)

end Switches

/-- Settles O34: each row is one step of a channel's ramp, which ends there or lets the switch close or open. -/
theorem controlVoltageRamps : Obligations.ControlVoltageRamps :=
  ⟨fun _ _ eight park opened last => cvRampEnd_parks eight park opened last,
    fun _ _ eight run opened last elsewhere => cvRampEnd_runs eight run opened last elsewhere,
    fun _ _ eight park opened down fifteen => cvParkSwitchClose_sixteenth eight park opened down fifteen,
    fun _ _ eight run closed settled => cvSwitchOpen_sixtyFourth eight run closed settled⟩

/-! ### Rails (R289, R291, R298) -/

section Drops
variable {s : State} {k j n : Nat}

/-- A channel whose switch is closed with its DAC at N0, whatever its ramp and its updates (R289). -/
def dropped (c : CvSt) : CvSt :=
  { c with closed := true, a := 0, hold := 0, settle := 0, queue := [], due := (spanZero c.span, spanZero c.span),
           held := (spanZero c.span, spanZero c.span) }

theorem cvDrop_eq : cvDrop s k = spoilCv (onCv s k dropped) k := rfl

/-- The first n channels are dropped. -/
def drops (s : State) (n : Nat) : State := (List.range n).foldl cvDrop s

theorem drops_succ : drops s (n + 1) = cvDrop (drops s n) n := by
  rw [drops, List.range_succ, List.foldl_append, ← drops, List.foldl_cons, List.foldl_nil]

theorem touches_drops : Touches [.analog] [] s (drops s n) :=
  touches_foldl touches_rfl fun _ _ _ h => touches_trans h (touches_trans (touches_onCv _) touches_spoilCv)

/-- Of the converters the drops change the control voltages and the monitor's window alone. -/
theorem analog_drops : ∃ cv spoilt, cv.length = s.analog.cv.length ∧ (drops s n).analog = { s.analog with cv, spoilt } := by
  induction n with
  | zero => exact ⟨_, _, rfl, rfl⟩
  | succ n ih =>
    obtain ⟨cv, spoilt, length, done⟩ := ih
    rw [drops_succ, cvDrop_eq, spoilCv]
    split
    · exact ⟨cv.modify n dropped, true, by rw [List.length_modify, length], by simp only [onCv, done]⟩
    · exact ⟨cv.modify n dropped, spoilt, by rw [List.length_modify, length], by simp only [onCv, done]⟩

theorem length_drops : (drops s n).analog.cv.length = s.analog.cv.length := by
  obtain ⟨_, _, length, done⟩ := analog_drops (s := s) (n := n)
  rw [done, length]

/-- Each of them is dropped once. -/
theorem cvOf_drops (known : n ≤ s.analog.cv.length) : cvOf (drops s n) j = if j < n then dropped (cvOf s j) else cvOf s j := by
  induction n with
  | zero => rfl
  | succ n ih =>
    rw [drops_succ, cvDrop_eq, cvOf_spoilCv]
    by_cases last : j = n
    · subst last
      rw [cvOf_onCv (by rw [length_drops]; omega), ih (by omega), if_neg (Nat.lt_irrefl j), if_pos (Nat.lt_succ_self j)]
    · have below : j < n + 1 ↔ j < n := by omega
      rw [cvOf_onCv_ne last, ih (by omega)]
      simp only [below]

end Drops

section Rails
variable {s t : State} {k : Nat}

theorem cvoCh_notMem_railRegs (hk : k < 8) : R.cvoCh + 4 * k ∉ R.cvoStat :: glossRegs := by
  have all : ∀ k < 8, R.cvoCh + 4 * k ∉ R.cvoStat :: glossRegs := by decide
  exact all k hk

/-- The rails' bits and the recorder's counts enable no channel. -/
theorem cvEnabled_rails {ps : List Part} (h : Touches ps (R.cvoStat :: glossRegs) s t) (hk : k < 8) : cvEnabled t k = cvEnabled s k := by
  rw [cvEnabled, flag, h.regs _ (cvoCh_notMem_railRegs hk), cvEnabled, flag]

theorem cvMask_rails {ps : List Part} (h : Touches ps (R.cvoStat :: glossRegs) s t) : cvMask t = cvMask s := by
  have same : (List.range 8).filter (cvEnabled t) = (List.range 8).filter (cvEnabled s) :=
    List.filter_congr fun k hk => cvEnabled_rails h (List.mem_range.mp hk)
  rw [cvMask, same, cvMask]

/-- An enabled channel waits while the rails are lost (R291). -/
theorem cvState_waits (enabled : cvEnabled s k = true) (lost : railOk s = false) : cvState s k = 4 := by
  simp [cvState, enabled, lost]

/-- A code raised on a state that differs in the converters and the rails' bits. -/
theorem logged_rails {rs : List Nat} {code : Nat} {d0 d1 d2 : Word} (h : Touches [.analog] rs s t) :
    Logged code d0 d1 d2 s (raiseGloss t code d0 d1 d2) := by
  have clock : t.time = s.time := h.parts.time (by decide)
  exact logged_raiseGloss (h.parts.gloss (by decide)) ⟨by rw [clock], by rw [clock], by rw [clock], by rw [clock]⟩

theorem touches_raised {code : Nat} {d0 d1 d2 : Word} (h : Touches [.analog] (R.cvoStat :: glossRegs) s t) :
    Touches [.analog, .gloss] (R.cvoStat :: glossRegs) s (raiseGloss t code d0 d1 d2) :=
  touches_raiseGloss (touches_mono h (by decide) (List.Subset.refl _)) _ _ _ _ (by decide) (List.subset_cons_self _ _)

end Rails

section RailLoss
variable {s : State} {p n : Bool} {k : Nat}

/-- The monitor of the rails shows which of them lie outside their thresholds. -/
def withRails (s : State) (p n : Bool) : State := { s with analog := { s.analog with railP := p, railN := n } }

/-- RAILOK has been cleared and RAILLOSS set, with the rails that lie outside. -/
def railsMarked (s : State) (p n : Bool) : State := setFlag (clrFlag (withRails s p n) R.cvoStat 31) R.cvoStat 30

/-- Every channel has been dropped with that. -/
def railsLost (s : State) (p n : Bool) : State := drops (railsMarked s p n) 8

theorem exec_cvRailLoss (lost : (p || n) = true) : exec (.cvRailLoss p n) s =
    .next (raiseGloss (railsLost s p n) 0x7121 (w32 (b2n p + 2 * b2n n)) (w32 (cvMask (railsLost s p n))) 0) :=
  if_neg (by revert lost; cases p <;> cases n <;> decide)

theorem touches_withRails : Touches [.analog] (R.cvoStat :: glossRegs) s (withRails s p n) := touches_analog touches_rfl _ (by decide)

theorem touches_railsLost : Touches [.analog] (R.cvoStat :: glossRegs) s (railsLost s p n) := by
  have marked : Touches [.analog] (R.cvoStat :: glossRegs) s (railsMarked s p n) :=
    touches_setFlag (touches_clrFlag touches_withRails _ List.mem_cons_self) _ List.mem_cons_self
  exact touches_trans marked (touches_mono touches_drops (List.Subset.refl _) (List.nil_subset _))

theorem railOk_railsLost : railOk (railsLost s p n) = false := by
  rw [railOk, flag, railsLost, touches_drops.regs _ List.not_mem_nil, ← flag, railsMarked, setFlag_eq,
    flag_wrFld_apart (by decide) (by decide) (by decide), flag_clrFlag _ _ _ (by decide)]

theorem railLoss_railsLost : flag (railsLost s p n) R.cvoStat 30 = true := by
  rw [flag, railsLost, touches_drops.regs _ List.not_mem_nil, ← flag, railsMarked, flag_setFlag _ _ _ (by decide)]

theorem analog_railsMarked : (railsMarked s p n).analog = { s.analog with railP := p, railN := n } := by
  rw [railsMarked, setFlag_analog, clrFlag_analog, withRails]

theorem cvOf_railsMarked : cvOf (railsMarked s p n) k = cvOf s k := by rw [cvOf, analog_railsMarked, cvOf]

theorem cvOf_railsLost (eight : s.analog.cv.length = 8) (hk : k < 8) : cvOf (railsLost s p n) k = dropped (cvOf s k) := by
  have length : (railsMarked s p n).analog.cv.length = 8 := by rw [analog_railsMarked, eight]
  rw [railsLost, cvOf_drops (Nat.le_of_eq length.symm), if_pos hk, cvOf_railsMarked]

/-- Of the converters the loss changes the rails, the control voltages and the monitor's window alone. -/
theorem analog_railsLost : ∃ cv spoilt, (railsLost s p n).analog = { s.analog with railP := p, railN := n, cv, spoilt } := by
  obtain ⟨cv, spoilt, _, done⟩ := analog_drops (s := railsMarked s p n) (n := 8)
  exact ⟨cv, spoilt, by rw [railsLost, done, analog_railsMarked]⟩

theorem cvRailLoss_lost (eight : s.analog.cv.length = 8) (lost : (p || n) = true) :
    ∃ t, exec (.cvRailLoss p n) s = .next t ∧ flag t R.cvoStat 31 = false ∧ flag t R.cvoStat 30 = true ∧
      (∀ k, k < 8 → (cvOf t k).closed = true ∧ (cvOf t k).a = 0 ∧ (cvOf t k).queue = [] ∧
        (cvOf t k).held = (spanZero (cvOf s k).span, spanZero (cvOf s k).span)) ∧
      (∀ k, k < 8 → cvEnabled s k = true → cvState t k = 4) ∧ t.analog.railP = p ∧ t.analog.railN = n ∧ t.analog.dac = s.analog.dac ∧
      Logged 0x7121 (w32 (b2n p + 2 * b2n n)) (w32 (cvMask s)) 0 s t ∧
      Touches [.analog, .gloss] (R.cvoStat :: glossRegs) s t := by
  have frame := touches_railsLost (s := s) (p := p) (n := n)
  have raised := exec_cvRailLoss (s := s) lost
  rw [cvMask_rails frame] at raised
  have ok : flag (raiseGloss (railsLost s p n) 0x7121 (w32 (b2n p + 2 * b2n n)) (w32 (cvMask s)) 0) R.cvoStat 31 = false :=
    (flag_raiseGloss (by decide)).trans railOk_railsLost
  obtain ⟨cv, spoilt, converters⟩ := analog_railsLost (s := s) (p := p) (n := n)
  refine ⟨_, raised, ok, (flag_raiseGloss (by decide)).trans railLoss_railsLost, fun k hk => ?_, fun k hk enabled => ?_, ?_, ?_, ?_,
    logged_rails frame, touches_raised frame⟩
  · rw [cvOf_congr (raiseGloss_analog ..), cvOf_railsLost eight hk]
    exact ⟨rfl, rfl, rfl, rfl⟩
  · exact cvState_waits ((cvEnabled_rails (touches_raised frame) hk).trans enabled) ok
  all_goals rw [raiseGloss_analog, converters]

/-- Rails that are good again are shown and logged (R291). -/
theorem cvRailGood_good (lost : railOk s = false) :
    ∃ t, exec .cvRailGood s = .next t ∧ railOk t = true ∧ t.analog = { s.analog with railP := false, railN := false } ∧
      Logged 0x7122 (w32 (cvMask s)) 0 0 s t ∧ Touches [.analog, .gloss] (R.cvoStat :: glossRegs) s t := by
  have frame : Touches [.analog] (R.cvoStat :: glossRegs) s (setFlag (withRails s false false) R.cvoStat 31) :=
    touches_setFlag touches_withRails _ List.mem_cons_self
  refine ⟨_, if_neg (by rw [lost]; decide), ?_, ?_, logged_rails frame, touches_raised frame⟩
  · rw [railOk, flag_raiseGloss (by decide), flag_setFlag _ _ _ (by decide)]
  · rw [raiseGloss_analog]
    rfl

end RailLoss

/-- Settles O35: the loss marks the rails, drops each channel once and logs both; the return marks and logs. -/
theorem controlVoltageRails : Obligations.ControlVoltageRails :=
  ⟨fun _ _ _ eight lost => cvRailLoss_lost eight lost, fun _ lost => cvRailGood_good lost⟩

end Sys2Proof.VoltageOutputs

/-! PROOFS. The inputs chapter's statements: the writes of its registers, the samples that commands deliver and what the threshold
detectors make of them, settling, overloads and hold-offs. -/

namespace Sys2Proof.Inputs
open Sys2Proof.Machine Sys2Proof.Laws Sys2Proof.Architecture

/-! ### The channels and the detectors after an update -/

section Parts
variable {s t : State} {n m x y : Nat}

theorem adcOf_onAdc {f : AdcSt → AdcSt} (h : n < s.analog.adc.length) : adcOf (onAdc s n f) n = f (adcOf s n) := nth_modify _ _ _ _ h

theorem adcOf_onAdc_ne {f : AdcSt → AdcSt} (h : m ≠ n) : adcOf (onAdc s n f) m = adcOf s m := nth_modify_ne _ _ _ _ _ h

theorem detOf_onDet {f : DetectorSt → DetectorSt} (h : x < s.analog.det.length) : detOf (onDet s x f) x = f (detOf s x) :=
  nth_modify _ _ _ _ h

theorem detOf_onDet_ne {f : DetectorSt → DetectorSt} (h : y ≠ x) : detOf (onDet s x f) y = detOf s y := nth_modify_ne _ _ _ _ _ h

/-- A detector whose update changes nothing of it leaves the state as it was. -/
theorem onDet_self {f : DetectorSt → DetectorSt} (h : f (detOf s x) = detOf s x) : onDet s x f = s := by
  rw [onDet, modify_self _ _ _ _ h]

@[simp] theorem length_onAdc {f : AdcSt → AdcSt} : (onAdc s n f).analog.adc.length = s.analog.adc.length := List.length_modify ..

@[simp] theorem length_onDet {f : DetectorSt → DetectorSt} : (onDet s x f).analog.det.length = s.analog.det.length := List.length_modify ..

theorem touches_onAdc (f : AdcSt → AdcSt) : Touches [.analog] [] s (onAdc s n f) := touches_analog touches_rfl _ (by decide)

theorem touches_onDet (f : DetectorSt → DetectorSt) : Touches [.analog] [] s (onDet s x f) := touches_analog touches_rfl _ (by decide)

/-- The channels and detectors are read from the converters' part of the state alone. -/
theorem adcOf_congr (h : t.analog = s.analog) : adcOf t n = adcOf s n := by rw [adcOf, h, adcOf]

theorem detOf_congr (h : t.analog = s.analog) : detOf t x = detOf s x := by rw [detOf, h, detOf]

end Parts

/-! ### ADC_RUN (R309, R319) -/

section Run
variable {s : State} {k : Nat} {on : Nat → Bool} {run : Bool}

/-- Chains that run and for which RUN or EN has been written 0 stop at the next sample boundary, whatever follows (R309). -/
theorem adcOf_cutChannels (sixteen : s.analog.adc.length = 16) (known : k < 16) :
    adcOf (cutChannels s on) k = { adcOf s k with cut := (adcOf s k).cut || (on k && (adcOf s k).running) } := by
  have place : k < s.analog.adc.length := sixteen.symm ▸ known
  have index : ((List.range 16).zip s.analog.adc)[k]? = some (k, s.analog.adc[k]) := by
    rw [List.getElem?_zip_eq_some]
    exact ⟨List.getElem?_range known, List.getElem?_eq_getElem place⟩
  simp only [cutChannels, adcOf, nth, List.getD_eq_getElem?_getD, List.getElem?_map, index, List.getElem?_eq_getElem place,
    Option.map_some, Option.getD_some]

theorem touches_cutChannels : Touches [.analog] [] s (cutChannels s on) := touches_analog touches_rfl _ (by decide)

/-- ADC.CTRL is written: RUN takes its value, and RUN written 0 cuts every chain. -/
theorem writeAdcCtrl_run :
    writeAdcCtrl s (w32 (b2n run)) = wrFld (if run then s else cutChannels s fun _ => true) R.adcCtrl 0 0 (b2n run) := by
  cases run <;> rfl

/-- Of the converters it changes which chains are cut. -/
theorem analog_writeAdcCtrl_run :
    (writeAdcCtrl s (w32 (b2n run))).analog = { s.analog with adc := (writeAdcCtrl s (w32 (b2n run))).analog.adc } := by
  rw [writeAdcCtrl_run, wrFld_analog]
  cases run <;> rfl

theorem adcOf_writeAdcCtrl_run (sixteen : s.analog.adc.length = 16) (known : k < 16) :
    adcOf (writeAdcCtrl s (w32 (b2n run))) k = { adcOf s k with cut := (adcOf s k).cut || (!run && (adcOf s k).running) } := by
  rw [writeAdcCtrl_run, adcOf_congr (wrFld_analog ..)]
  cases run with
  | true => simp only [if_true, Bool.not_true, Bool.false_and, Bool.or_false]
  | false =>
    rw [if_neg Bool.false_ne_true]
    exact adcOf_cutChannels (on := fun _ => true) sixteen known

theorem touches_writeAdcCtrl_run : Touches [.analog] [R.adcCtrl] s (writeAdcCtrl s (w32 (b2n run))) := by
  have cut : Touches [.analog] [R.adcCtrl] s (cutChannels s fun _ => true) :=
    touches_mono touches_cutChannels (List.Subset.refl _) (List.nil_subset _)
  rw [writeAdcCtrl_run]
  exact touches_wrFld (touches_ite touches_rfl cut) _ _ _ List.mem_cons_self

theorem adcRun_taken (may : HostMayWrite s R.adcCtrl) (sixteen : s.analog.adc.length = 16) :
    ∃ t, exec (.adcRun run) s = .next t ∧ flag t R.adcCtrl 0 = run ∧ t.analog = { s.analog with adc := t.analog.adc } ∧
      (∀ n, n < 16 → adcOf t n = { adcOf s n with cut := (adcOf s n).cut || (!run && (adcOf s n).running) }) ∧
      Touches [.analog] [R.adcCtrl] s t := by
  obtain ⟨value, frame⟩ := command_done (f := fun u => writeAdcCtrl u (w32 (b2n run))) may writable_adcCtrl rfl touches_writeAdcCtrl_run
    (by decide) (by decide)
  refine ⟨_, rfl, ?_, ?_, fun n known => ?_, frame⟩
  · rw [value, flag, rd_wr_ne _ _ _ _ (by decide), ← flag, writeAdcCtrl_run, flag_wrFld (by decide)]
    cases run <;> rfl
  · rw [value, wr_analog, analog_writeAdcCtrl_run, wr_analog]
  · rw [value, adcOf_congr (wr_analog ..), adcOf_writeAdcCtrl_run (by rw [wr_analog, sixteen]) known, adcOf_congr (wr_analog ..)]

end Run

/-! ### ADC_CHANNEL_WRITE (R9, R309, R319) -/

section Channel
variable {s : State} {n : Fin 16} {v : Word} {k : Nat}

/-- The row of ADC.CHn: RANGE is a field of the control inputs alone (R307, R319). -/
def adcChDesc (n : Fin 16) : RegDesc :=
  if n.val < 8 then ⟨R.adcCh, 4, 8, 0x2, 0x1, 0, 0, 0, 0x1E, 0, .adcRun, []⟩
  else ⟨R.adcChHi, 4, 8, 0x6, 0x1, 0, 0, 0, 0x3E, 0, .adcRun, []⟩

/-- The fields that are closed while RUN reads 1 (R319). -/
def closedFields (n : Fin 16) : Word := if n.val < 8 then 0x1E else 0x3E

theorem writable_adcCh (n : Fin 16) : Writable (adcChReg n) (adcChDesc n) := by
  constructor <;> revert n <;> decide

theorem adcChDesc_parts (n : Fin 16) : undefinedField (adcChDesc n) v = false ∧ isCounter (adcChDesc n) = false ∧ (adcChDesc n).rws = 0 ∧
    (adcChDesc n).close = .adcRun ∧ w32 (adcChDesc n).rwl = closedFields n := by
  unfold adcChDesc closedFields
  split <;> exact ⟨rfl, rfl, rfl, rfl, rfl⟩

/-- EN and the closed fields take the value, and nothing else is kept (R5, R319). -/
theorem plainValue_adcCh (old : Word) :
    plainValue (adcChDesc n) old v = (old &&& ~~~(closedFields n ||| 1)) ||| (v &&& (closedFields n ||| 1)) := by
  have fields : w32 ((adcChDesc n).rw ||| (adcChDesc n).rwl) = closedFields n ||| 1 ∧ w32 (adcChDesc n).w1c = 0#32 := by
    unfold adcChDesc closedFields
    split <;> exact ⟨rfl, rfl⟩
  rw [plainValue, fields.1, fields.2, BitVec.and_zero, BitVec.not_zero, BitVec.and_allOnes]

/-- The ERR register of the page is that of ADC.CTRL. -/
theorem errReg_adcCh (n : Fin 16) : pageOf (adcChReg n) + 0xFFFC = adcErr := by revert n; decide

theorem adcCh_ne (n : Fin 16) : adcChReg n ≠ adcErr ∧ R.adcCtrl ≠ adcChReg n ∧ R.pwrStat ≠ adcChReg n := by revert n; decide

/-- The single registers whose write is an operation or clears a record, on all pages. -/
def singleOperationRegs : List Nat :=
  [R.evtHwin, R.tenseMwin, R.tenseGo, R.parserWin, R.adcCtrl, R.adcCdata, R.adcCdelay, R.linkRctl, R.glossCtl, R.glossCmd, R.glossRate,
    R.fusePctl, R.pwrCmd, R.pwrDomen, R.pwrPadrel, R.pwrVinmin, R.pwrFail, R.nvmScmd, R.nvmFcmd, R.nvmReload, R.sysBuserr, R.memUelog,
    R.parserTrptr, R.evtPstat]

/-- ADC.CHn is none of them, nor a register of an array whose writes are operations. -/
theorem adcCh_noOperation (n : Fin 16) : (∀ b ∈ singleOperationRegs, adcChReg n ≠ b) ∧ adcChReg n % 0x10000 ≠ 0xFFFC ∧
    pageOf (adcChReg n) ≠ R.spPage ∧ chanOf R.glossOvr 4 16 (adcChReg n) = none ∧ chanOf R.vdbgVctl 0x40 16 (adcChReg n) = none ∧
    chanOf R.vdbgVrdata 0x40 16 (adcChReg n) = none ∧ chanOf R.nvmSbuf 4 1024 (adcChReg n) = none ∧
    chanOf R.vdbgVfault 4 16 (adcChReg n) = none := by
  revert n
  decide

/-- A write of it is no operation. -/
theorem commandReg_adcCh : commandReg s false (adcChReg n) v = none := by
  obtain ⟨single, noErr, noPort, override, control, word, buffer, fault⟩ := adcCh_noOperation n
  simp only [singleOperationRegs, List.mem_cons, List.not_mem_nil, or_false, forall_eq_or_imp, forall_eq] at single
  have power : powerCommand s (adcChReg n) v = none := by simp only [powerCommand, single, if_false, buffer]
  have record : recordCommand s (adcChReg n) v = none := by simp only [recordCommand, noErr, single, if_false, fault]
  have serial : serialCommand s (adcChReg n) v = none := by simp only [serialCommand, noPort, ne_eq, not_false_eq_true, true_or, if_true]
  simp only [commandReg, single, if_false, override, control, word, power, record, serial]

theorem checkWrite_adcCh : checkWrite s (adcChReg n) v = none := by
  have page : adcChReg n / 0x10000 = 0x400A := by revert n; decide
  simp only [checkWrite, page]

/-- EN written 0 cuts the channel's chain (R309). -/
theorem afterWrite_adcCh {old : Word} :
    afterWrite s (adcChReg n) old v = if bitOf v 0 then s else cutChannels s fun m => m = n.val := by
  have apart : adcChReg n ≠ R.tenseCfg ∧ adcChReg n ≠ R.tenseTempo ∧ pageOf (adcChReg n) ≠ R.spPage := by revert n; decide
  have others : chanOf R.dacCh 4 16 (adcChReg n) = none ∧ chanOf R.cvoCh 4 8 (adcChReg n) = none ∧
      chanOf R.adcTctl 16 32 (adcChReg n) = none ∧ chanOf R.adcCh 4 16 (adcChReg n) = some n.val := by revert n; decide
  obtain ⟨cfg, tempo, port⟩ := apart
  obtain ⟨dac, cv, detector, channel⟩ := others
  simp only [afterWrite, cfg, tempo, port, false_and, if_false, dac, cv, detector, channel]

theorem xor_and_distrib (x y m : Word) : (x ^^^ y) &&& m = (x &&& m) ^^^ (y &&& m) := by
  ext i
  simp only [BitVec.getElem_and, BitVec.getElem_xor, Bool.and_xor_distrib_right]

/-- A write that changes a closed field while RUN reads 1 (R9, R319). -/
theorem changesClosed_adcCh : changesClosed s (adcChDesc n) (adcChReg n) v =
    (flag s R.adcCtrl 0 && decide (v &&& closedFields n ≠ rd s (adcChReg n) &&& closedFields n)) := by
  obtain ⟨_, _, _, close, fields⟩ := adcChDesc_parts (v := v) n
  have differs : ((rd s (adcChReg n) ^^^ v) &&& closedFields n ≠ 0) ↔ v &&& closedFields n ≠ rd s (adcChReg n) &&& closedFields n := by
    rw [xor_and_distrib]
    exact not_congr (BitVec.xor_eq_zero_iff.trans eq_comm)
  rw [changesClosed, close, fields, isClosed, decide_eq_decide.mpr differs]

/-- The fields of ADC.CHn have taken the value written, and the page's ERR register is looked at from 0. -/
def adcFieldsTaken (s : State) (n : Fin 16) (v : Word) : State :=
  wr (wr s adcErr 0) (adcChReg n) (plainValue (adcChDesc n) (rd s (adcChReg n)) v)

/-- What follows from EN. -/
def enFollowed (s : State) (n : Fin 16) (v : Word) : State := if bitOf v 0 then s else cutChannels s fun m => m = n.val

theorem touches_enFollowed : Touches [.analog] [] s (enFollowed s n v) := touches_ite touches_rfl touches_cutChannels

theorem analog_enFollowed : (enFollowed s n v).analog = { s.analog with adc := (enFollowed s n v).analog.adc } := by
  unfold enFollowed
  split <;> rfl

theorem adcOf_enFollowed (sixteen : s.analog.adc.length = 16) (known : k < 16) :
    adcOf (enFollowed s n v) k =
      { adcOf s k with cut := (adcOf s k).cut || (decide (k = n.val) && !bitOf v 0 && (adcOf s k).running) } := by
  unfold enFollowed
  split
  · rename_i enabled
    rw [enabled]
    simp only [Bool.not_true, Bool.and_false, Bool.false_and, Bool.or_false]
  · rename_i disabled
    rw [adcOf_cutChannels sixteen known, (Bool.not_eq_true _).mp disabled]
    simp only [Bool.not_false, Bool.and_true]

theorem analog_adcFieldsTaken : (adcFieldsTaken s n v).analog = s.analog := by rw [adcFieldsTaken, wr_analog, wr_analog]

/-- A write that changes no closed field while RUN reads 1: the fields are taken, and the chain follows EN. -/
theorem regWrite_adcCh (may : HostMayWrite s (adcChReg n))
    (opened : flag s R.adcCtrl 0 = false ∨ v &&& closedFields n = rd s (adcChReg n) &&& closedFields n) :
    regWrite s (adcChReg n) v = wr (enFollowed (adcFieldsTaken s n v) n v) adcErr (rd s adcErr) ∧
      Touches [.analog] [adcChReg n] s (regWrite s (adcChReg n) v) := by
  obtain ⟨defined, noCounter, unstaged, _, _⟩ := adcChDesc_parts (v := v) n
  obtain ⟨noErr, noCtrl, noStat⟩ := adcCh_ne n
  have kept : changesClosed (wr s adcErr 0) (adcChDesc n) (adcChReg n) v = false := by
    rw [changesClosed_adcCh, flag, rd_wr_ne _ _ _ _ (by decide), ← flag, rd_wr_ne _ _ _ _ noErr]
    rcases opened with stopped | same
    · rw [stopped, Bool.false_and]
    · rw [same]
      simp only [ne_eq, not_true, decide_false, Bool.and_false]
  have fields : Touches [.analog] [adcChReg n] (wr s adcErr 0) (adcFieldsTaken s n v) := touches_wr touches_rfl _ List.mem_cons_self
  have effect : Touches [.analog] [adcChReg n] (wr s adcErr 0) (enFollowed (adcFieldsTaken s n v) n v) :=
    touches_trans fields (touches_mono touches_enFollowed (List.Subset.refl _) (List.nil_subset _))
  have done := plain_after (v := v) (ps := [.analog]) (rs := [adcChReg n]) may (writable_adcCh n) (fun _ => commandReg_adcCh) defined
    checkWrite_adcCh
  rw [errReg_adcCh, afterWrite_adcCh] at done
  exact done kept noCounter unstaged effect (mt List.mem_singleton.mp noErr.symm) (mt List.mem_singleton.mp noStat)

theorem adcChannelWrite_taken (may : HostMayWrite s (adcChReg n)) (sixteen : s.analog.adc.length = 16)
    (opened : flag s R.adcCtrl 0 = false ∨ v &&& closedFields n = rd s (adcChReg n) &&& closedFields n) :
    ∃ t, exec (.adcChannelWrite n v) s = .next t ∧
      rd t (adcChReg n) = (rd s (adcChReg n) &&& ~~~(closedFields n ||| 1)) ||| (v &&& (closedFields n ||| 1)) ∧
      t.analog = { s.analog with adc := t.analog.adc } ∧
      (∀ k, k < 16 → adcOf t k = { adcOf s k with cut := (adcOf s k).cut || (decide (k = n.val) && !bitOf v 0 && (adcOf s k).running) }) ∧
      Touches [.analog] [adcChReg n] s t := by
  obtain ⟨value, frame⟩ := regWrite_adcCh may opened
  have converters : (adcFieldsTaken s n v).analog = s.analog := analog_adcFieldsTaken
  refine ⟨regWrite s (adcChReg n) v, rfl, ?_, ?_, fun k known => ?_, frame⟩
  · rw [value, rd_wr_ne _ _ _ _ (adcCh_ne n).1, touches_enFollowed.regs _ List.not_mem_nil, adcFieldsTaken, rd_wr, plainValue_adcCh]
  · rw [value, wr_analog, analog_enFollowed, converters]
  · rw [value, adcOf_congr (wr_analog ..), adcOf_enFollowed (by rw [converters, sixteen]) known, adcOf_congr converters]

/-- A closed field is refused another value for the state (R9, R319). -/
theorem adcChannelWrite_closed (may : HostMayWrite s (adcChReg n)) (running : flag s R.adcCtrl 0 = true)
    (other : v &&& closedFields n ≠ rd s (adcChReg n) &&& closedFields n) :
    Refused s (regWrite s (adcChReg n) v) (adcChReg n) false := by
  obtain ⟨defined, _, _, _, _⟩ := adcChDesc_parts (v := v) n
  have closed : changesClosed (wr s adcErr 0) (adcChDesc n) (adcChReg n) v = true := by
    rw [changesClosed_adcCh, flag, rd_wr_ne _ _ _ _ (by decide), ← flag, running, rd_wr_ne _ _ _ _ (adcCh_ne n).1, Bool.true_and]
    exact decide_eq_true other
  refine command_refused false may (writable_adcCh n) ?_
  rw [errReg_adcCh]
  simp only [writeOn, commandReg_adcCh, Option.getD_none, plainOn, defined, checkWrite_adcCh, closed, Bool.false_eq_true, if_false, if_true]

end Channel

/-! ### The custom set (R304, R305, R319) -/

section Custom
variable {s : State} {v : Word}

theorem writable_adcCdata : Writable R.adcCdata ((regDesc R.adcCdata).get (by decide)) := by constructor <;> decide

theorem writable_adcCdelay : Writable R.adcCdelay ((regDesc R.adcCdelay).get (by decide)) := by constructor <;> decide

/-- RUN does not lie in ERR. -/
theorem run_ignoresErr {w : Word} : flag (wr s adcErr w) R.adcCtrl 0 = flag s R.adcCtrl 0 := by
  rw [flag, rd_wr_ne _ _ _ _ (by decide), flag]

theorem touches_customIgnored : Touches [] [R.adcStat] s (customIgnored s) := touches_setFlag touches_rfl _ List.mem_cons_self

/-- A custom-set write that is ignored sets CWERR (R305). -/
theorem cwerr_customIgnored {w : Word} : flag (wr (customIgnored s) adcErr w) R.adcStat 31 = true := by
  rw [flag, rd_wr_ne _ _ _ _ (by decide), ← flag, customIgnored, flag_setFlag _ _ _ (by decide)]

/-- The coefficient is stored at CADDR, which advances (R304). -/
def coefStored (s : State) (v : Word) : State :=
  wrFld { s with analog := { s.analog with coefs := mapPut s.analog.coefs (fld s R.adcCaddr 8 0) v } } R.adcCaddr 8 0
    (fld s R.adcCaddr 8 0 + 1)

theorem writeCdata_running (running : flag s R.adcCtrl 0 = true) : writeCdata s v = customIgnored s := if_pos running

theorem writeCdata_stopped (stopped : flag s R.adcCtrl 0 = false) : writeCdata s v = coefStored s v := if_neg (by rw [stopped]; decide)

theorem touches_coefStored : Touches [.analog] [R.adcCaddr] s (coefStored s v) :=
  touches_wrFld (touches_analog touches_rfl _ (by decide)) _ _ _ List.mem_cons_self

theorem analog_coefStored :
    (coefStored s v).analog = { s.analog with coefs := mapPut s.analog.coefs (fld s R.adcCaddr 8 0) v } := wrFld_analog ..

theorem customCoef_coefStored : customCoef (coefStored s v) (fld s R.adcCaddr 8 0) = v := by
  rw [customCoef, analog_coefStored, mapGet_mapPut_self, Option.getD_some]

theorem customCoef_coefStored_ne {b : Nat} (other : b ≠ fld s R.adcCaddr 8 0) : customCoef (coefStored s v) b = customCoef s b := by
  rw [customCoef, analog_coefStored, mapGet_mapPut_ne _ _ _ _ other, customCoef]

theorem fld_coefStored : fld (coefStored s v) R.adcCaddr 8 0 = (fld s R.adcCaddr 8 0 + 1) % 512 :=
  fld_wrFld _ _ _ _ _ (by decide) (by decide)

theorem customCoef_congr {t : State} {b : Nat} (h : t.analog = s.analog) : customCoef t b = customCoef s b := by
  rw [customCoef, h, customCoef]

theorem customCoefficientWrite_stored (may : HostMayWrite s R.adcCdata) (stopped : flag s R.adcCtrl 0 = false) :
    ∃ t, exec (.customCoefficientWrite v) s = .next t ∧ customCoef t (fld s R.adcCaddr 8 0) = v ∧
      (∀ b, b ≠ fld s R.adcCaddr 8 0 → customCoef t b = customCoef s b) ∧
      fld t R.adcCaddr 8 0 = (fld s R.adcCaddr 8 0 + 1) % 512 ∧ t.analog = { s.analog with coefs := t.analog.coefs } ∧
      Touches [.analog] [R.adcCaddr] s t := by
  have address : fld (wr s adcErr 0) R.adcCaddr 8 0 = fld s R.adcCaddr 8 0 := by rw [fld, rd_wr_ne _ _ _ _ (by decide), fld]
  obtain ⟨value, frame⟩ := command_done (f := fun u => coefStored u v) may writable_adcCdata
    (congrArg some (writeCdata_stopped (run_ignoresErr.trans stopped))) touches_coefStored (by decide) (by decide)
  refine ⟨_, rfl, ?_, fun b other => ?_, ?_, ?_, frame⟩
  · rw [value, customCoef_congr (wr_analog ..), ← address]
    exact customCoef_coefStored
  · rw [value, customCoef_congr (wr_analog ..), customCoef_coefStored_ne (by rw [← address] at other; exact other),
      customCoef_congr (wr_analog ..)]
  · rw [value, fld, rd_wr_ne _ _ _ _ (by decide), ← fld, ← address]
    exact fld_coefStored
  · rw [value, wr_analog, analog_coefStored, wr_analog]

theorem customCoefficientWrite_ignored (may : HostMayWrite s R.adcCdata) (running : flag s R.adcCtrl 0 = true) :
    ∃ t, exec (.customCoefficientWrite v) s = .next t ∧ flag t R.adcStat 31 = true ∧ Touches [] [R.adcStat] s t := by
  obtain ⟨value, frame⟩ := command_done (f := customIgnored) (v := v) may writable_adcCdata
    (congrArg some (writeCdata_running (run_ignoresErr.trans running))) touches_customIgnored (by decide) (by decide)
  exact ⟨_, rfl, by rw [value]; exact cwerr_customIgnored, frame⟩

/-- A delay of the custom set above 64 (R319). -/
def BeyondDelay (v : Word) : Prop := 64 < bits v 23 16 ∨ 64 < bits v 15 8 ∨ 64 < bits v 7 0

theorem writeCdelay_running (running : flag s R.adcCtrl 0 = true) : writeCdelay s v = customIgnored s := if_pos running

theorem writeCdelay_beyond (stopped : flag s R.adcCtrl 0 = false) (beyond : BeyondDelay v) :
    writeCdelay s v = refuse s R.adcCdelay true := (if_neg (by rw [stopped]; decide)).trans (if_pos beyond)

theorem writeCdelay_defined (stopped : flag s R.adcCtrl 0 = false) (defined : ¬BeyondDelay v) :
    writeCdelay s v = wrFld s R.adcCdelay 23 0 v.toNat := (if_neg (by rw [stopped]; decide)).trans (if_neg defined)

theorem customDelayWrite_taken (may : HostMayWrite s R.adcCdelay) (stopped : flag s R.adcCtrl 0 = false) (defined : ¬BeyondDelay v) :
    ∃ t, exec (.customDelayWrite v) s = .next t ∧ fld t R.adcCdelay 23 0 = bits v 23 0 ∧ Touches [] [R.adcCdelay] s t := by
  obtain ⟨value, frame⟩ := command_done (f := fun u => wrFld u R.adcCdelay 23 0 v.toNat) (v := v) (ps := []) (rs := [R.adcCdelay]) may
    writable_adcCdelay (congrArg some (writeCdelay_defined (run_ignoresErr.trans stopped) defined))
    (touches_wrFld touches_rfl _ _ _ List.mem_cons_self) (by decide) (by decide)
  refine ⟨_, rfl, ?_, frame⟩
  rw [value, fld, rd_wr_ne _ _ _ _ (by decide), ← fld, fld_wrFld _ _ _ _ _ (by decide) (by decide), bits, Nat.pow_zero, Nat.div_one]

theorem customDelayWrite_ignored (may : HostMayWrite s R.adcCdelay) (running : flag s R.adcCtrl 0 = true) :
    ∃ t, exec (.customDelayWrite v) s = .next t ∧ flag t R.adcStat 31 = true ∧ Touches [] [R.adcStat] s t := by
  obtain ⟨value, frame⟩ := command_done (f := customIgnored) (v := v) may writable_adcCdelay
    (congrArg some (writeCdelay_running (run_ignoresErr.trans running))) touches_customIgnored (by decide) (by decide)
  exact ⟨_, rfl, by rw [value]; exact cwerr_customIgnored, frame⟩

theorem customDelayWrite_beyond (may : HostMayWrite s R.adcCdelay) (stopped : flag s R.adcCtrl 0 = false) (beyond : BeyondDelay v) :
    Refused s (regWrite s R.adcCdelay v) R.adcCdelay true := by
  have refused : commandReg (wr s adcErr 0) false R.adcCdelay v = some (refuse (wr s adcErr 0) R.adcCdelay true) :=
    congrArg some (writeCdelay_beyond (run_ignoresErr.trans stopped) beyond)
  exact command_refused true may writable_adcCdelay (congrArg (Option.getD · _) refused)

end Custom

/-- Settles O36: RUN and the channels' registers are written and cut chains, a closed field and a delay beyond 64 are refused, and the
custom set takes its words while RUN reads 0. -/
theorem inputRegisters : Obligations.InputRegisters := by
  refine ⟨fun s run may sixteen => adcRun_taken may sixteen, fun s n v m may sixteen hm opened => ?_,
    fun s n v m may hm running other => ?_, fun s v a may stopped ha => ?_,
    fun s v may running => customCoefficientWrite_ignored may running,
    fun s v may stopped first second third => customDelayWrite_taken may stopped ?_,
    fun s v may running => customDelayWrite_ignored may running,
    fun s v may stopped beyond => ⟨_, rfl, customDelayWrite_beyond may stopped beyond⟩⟩
  · subst hm
    exact adcChannelWrite_taken may sixteen opened
  · subst hm
    exact ⟨_, rfl, adcChannelWrite_closed may running other⟩
  · subst ha
    exact customCoefficientWrite_stored may stopped
  · unfold BeyondDelay
    omega

/-! ### What a register's change leaves of the delays and the trims -/

section Settings
variable {s t : State} {n x u : Nat} {ps : List Part} {rs : List Nat}

/-- The registers that a channel's delays are read from (R303, R306). -/
def settingRegs (n : Nat) : List Nat := [adcChReg n, R.clkStat, R.adcCdelay]

/-- From s to t the settings of channel n are the same. -/
def SameSettings (s t : State) (n : Nat) : Prop := ∀ a ∈ settingRegs n, rd t a = rd s a

theorem sameSettings_touches (h : Touches ps rs s t) (apart : ∀ a ∈ settingRegs n, a ∉ rs) : SameSettings s t n :=
  fun a ha => h.regs a (apart a ha)

theorem rateLog_same (h : SameSettings s t n) : rateLog t = rateLog s := by
  rw [rateLog, fsCode, fld, h R.clkStat (by simp [settingRegs]), rateLog, fsCode, fld]

theorem fld_channel_same {hi lo : Nat} (h : SameSettings s t n) : fld t (adcChReg n) hi lo = fld s (adcChReg n) hi lo := by
  rw [fld, h (adcChReg n) (by simp [settingRegs]), fld]

theorem adcSet_same (h : SameSettings s t n) : adcSet t n = adcSet s n := fld_channel_same h

theorem scsPeriod_same (h : SameSettings s t n) : scsPeriod t n = scsPeriod s n := by
  rw [scsPeriod, fld_channel_same h, rateLog_same h, scsPeriod]

theorem valueStep_same (h : SameSettings s t n) : valueStep t n = valueStep s n := by
  rw [valueStep, adcSet_same h, scsPeriod_same h, valueStep]

theorem groupDelay_same (h : SameSettings s t n) : groupDelay t n = groupDelay s n := by
  have delay : ∀ hi lo, fld t R.adcCdelay hi lo = fld s R.adcCdelay hi lo := fun hi lo => by
    rw [fld, h R.adcCdelay (by simp [settingRegs]), fld]
  simp only [groupDelay, adcSet_same h, rateLog_same h, scsPeriod_same h, delay]

theorem repeatsValue_same (h : SameSettings s t n) : repeatsValue t n u = repeatsValue s n u := by
  rw [repeatsValue, adcSet_same h, scsPeriod_same h, repeatsValue]

/-- The trims are those of the channel's range (R307, R308). -/
theorem trimmed_same {v : Int} (h : SameSettings s t n) (gains : (adcOf t n).gfac = (adcOf s n).gfac)
    (offsets : (adcOf t n).ofac = (adcOf s n).ofac) : trimmed t n v = trimmed s n v := by
  simp only [trimmed, fld_channel_same h, gains, offsets]

end Settings

/-! ### A sample is counted (R311, R314, R317) -/

section Counting
variable {s : State} {n m y : Nat}

/-- Both detectors of a channel change alike. -/
def onBoth (s : State) (n : Nat) (f : DetectorSt → DetectorSt) : State := onDet (onDet s (2 * n) f) (2 * n + 1) f

theorem detOf_onBoth {f : DetectorSt → DetectorSt} (all : s.analog.det.length = 32) (known : n < 16) :
    detOf (onBoth s n f) y = if y / 2 = n then f (detOf s y) else detOf s y := by
  have own : y / 2 = n ↔ y = 2 * n ∨ y = 2 * n + 1 := by omega
  rw [onBoth]
  by_cases odd : y = 2 * n + 1
  · rw [if_pos (own.mpr (.inr odd)), odd, detOf_onDet (by rw [length_onDet]; omega), detOf_onDet_ne (by omega)]
  · rw [detOf_onDet_ne odd]
    by_cases even : y = 2 * n
    · rw [if_pos (own.mpr (.inl even)), even, detOf_onDet (by omega)]
    · rw [if_neg (mt own.mp (not_or.mpr ⟨even, odd⟩)), detOf_onDet_ne even]

theorem touches_onBoth (f : DetectorSt → DetectorSt) : Touches [.analog] [] s (onBoth s n f) :=
  touches_trans (touches_onDet _) (touches_onDet _)

/-- A command gives the next sample of a channel. -/
def given (s : State) (n : Nat) : State := onAdc s n fun c => { c with given := some (nextSample s) }

/-- One of the S samples less is to be delivered; the last of them settles the channel (R311). -/
def settleCounted (s : State) (n : Nat) : State :=
  if (adcOf s n).settle = 1 then settled (given s n) n else onAdc (given s n) n fun c => { c with settle := c.settle - 1 }

/-- The sample is counted towards S and towards the hold-offs (R311, R317). -/
def counted (s : State) (n : Nat) : State := holdCount (settleCounted s n) n

/-- What counting a sample makes of the channel. -/
def countedAdc (s : State) (n : Nat) : AdcSt :=
  { adcOf s n with given := some (nextSample s), settle := (adcOf s n).settle - 1 }

/-- A detector with its hold-off counted (R317). -/
def countedDet (d : DetectorSt) : DetectorSt := { d with hold := d.hold - 1 }

theorem settleCounted_last (last : (adcOf s n).settle = 1) :
    settleCounted s n =
      onBoth (clrFlag (onAdc (given s n) n fun c => { c with settle := 0 }) R.adcStat n) n fun d => { d with last := none, windows := [] } :=
  if_pos last

theorem settleCounted_more (more : (adcOf s n).settle ≠ 1) :
    settleCounted s n = onAdc (given s n) n fun c => { c with settle := c.settle - 1 } := if_neg more

theorem counted_eq : counted s n = onBoth (settleCounted s n) n countedDet := rfl

theorem adcOf_counted (sixteen : s.analog.adc.length = 16) (known : n < 16) : adcOf (counted s n) n = countedAdc s n := by
  have here : n < s.analog.adc.length := sixteen.symm ▸ known
  show adcOf (settleCounted s n) n = _
  by_cases last : (adcOf s n).settle = 1
  · rw [settleCounted_last last]
    show adcOf (onAdc (given s n) n _) n = _
    rw [adcOf_onAdc (by rw [given, length_onAdc]; exact here), given, adcOf_onAdc here, countedAdc, last]
  · rw [settleCounted_more last, adcOf_onAdc (by rw [given, length_onAdc]; exact here), given, adcOf_onAdc here, countedAdc]

theorem adcOf_counted_ne (other : m ≠ n) : adcOf (counted s n) m = adcOf s m := by
  show adcOf (settleCounted s n) m = _
  by_cases last : (adcOf s n).settle = 1
  · rw [settleCounted_last last]
    show adcOf (onAdc (given s n) n _) m = _
    rw [adcOf_onAdc_ne other, given, adcOf_onAdc_ne other]
  · rw [settleCounted_more last, adcOf_onAdc_ne other, given, adcOf_onAdc_ne other]

theorem length_adc_counted : (counted s n).analog.adc.length = s.analog.adc.length := by
  show (settleCounted s n).analog.adc.length = _
  by_cases last : (adcOf s n).settle = 1
  · rw [settleCounted_last last]
    exact length_onAdc.trans length_onAdc
  · rw [settleCounted_more last, length_onAdc, given, length_onAdc]

theorem length_det_counted : (counted s n).analog.det.length = s.analog.det.length := by
  rw [counted_eq, onBoth, length_onDet, length_onDet]
  by_cases last : (adcOf s n).settle = 1
  · rw [settleCounted_last last, onBoth, length_onDet, length_onDet]
    rfl
  · rw [settleCounted_more last]
    rfl

theorem detOf_counted_last (all : s.analog.det.length = 32) (known : n < 16) (last : (adcOf s n).settle = 1) :
    detOf (counted s n) y = if y / 2 = n then ⟨none, [], (detOf s y).hold - 1⟩ else detOf s y := by
  have all' : (settleCounted s n).analog.det.length = 32 := by
    rw [settleCounted_last last, onBoth, length_onDet, length_onDet]
    exact all
  rw [counted_eq, detOf_onBoth all' known, settleCounted_last last, detOf_onBoth (by exact all) known]
  split <;> rfl

theorem detOf_counted_more (all : s.analog.det.length = 32) (known : n < 16) (more : (adcOf s n).settle ≠ 1) :
    detOf (counted s n) y = if y / 2 = n then countedDet (detOf s y) else detOf s y := by
  rw [counted_eq, settleCounted_more more, detOf_onBoth (by exact all) known]
  rfl

theorem touches_counted_more (more : (adcOf s n).settle ≠ 1) : Touches [.analog] [] s (counted s n) := by
  rw [counted_eq, settleCounted_more more]
  exact touches_trans (touches_trans (touches_onAdc _) (touches_onAdc _)) (touches_onBoth _)

theorem touches_counted_last (last : (adcOf s n).settle = 1) : Touches [.analog] [R.adcStat] s (counted s n) := by
  have stopped : Touches [.analog] [] s (onAdc (given s n) n fun c => { c with settle := 0 }) :=
    touches_trans (touches_onAdc _) (touches_onAdc _)
  rw [counted_eq, settleCounted_last last]
  refine touches_trans (touches_clrFlag (touches_mono stopped (List.Subset.refl _) (List.nil_subset _)) n List.mem_cons_self) ?_
  exact touches_mono (touches_trans (touches_onBoth _) (touches_onBoth _)) (List.Subset.refl _) (List.nil_subset _)

/-- The last of the S samples clears SETTLE (R311). -/
theorem settle_counted_last (known : n < 16) (last : (adcOf s n).settle = 1) : flag (counted s n) R.adcStat n = false := by
  rw [counted_eq, settleCounted_last last, flag, (touches_onBoth _).regs _ List.not_mem_nil, (touches_onBoth _).regs _ List.not_mem_nil,
    ← flag, flag_clrFlag _ _ _ (by omega)]

end Counting

/-! ### A sample is written (R308 to R310) -/

section Writing
variable {s t : State} {n x y u : Nat} {r : Int × Bool} {ps : List Part} {rs : List Nat}

/-- SAT shows a sample that saturated, and the channel holds the value (R308). -/
def marked (s : State) (n : Nat) (r : Int × Bool) : State :=
  onAdc (if r.2 then setFlag s R.adcFlag n else s) n fun c => { c with held := BitVec.ofInt 32 r.1 }

/-- The value becomes the channel's sample of sample time u, in the ring (R308, R310). -/
def written (s : State) (n u : Nat) (r : Int × Bool) : State := writeInput (marked s n r) n u (BitVec.ofInt 32 r.1)

theorem touches_marked : Touches [.analog] [R.adcFlag] s (marked s n r) :=
  touches_analog (touches_ite (touches_setFlag touches_rfl _ List.mem_cons_self) touches_rfl) _ (by decide)

theorem analog_marked : (marked s n r).analog = (onAdc s n fun c => { c with held := BitVec.ofInt 32 r.1 }).analog := by
  unfold marked
  split <;> rfl

theorem flag_marked (known : n < 16) : flag (marked s n r) R.adcFlag n = (flag s R.adcFlag n || r.2) := by
  unfold marked
  rw [flag, (touches_onAdc _).regs _ List.not_mem_nil, ← flag]
  split
  · rename_i saturated
    rw [flag_setFlag _ _ _ (by omega), saturated, Bool.or_true]
  · rename_i unsaturated
    rw [(Bool.not_eq_true _).mp unsaturated, Bool.or_false]

theorem inputAddr_marked : inputAddr (marked s n r) n u = inputAddr s n u := by
  rw [inputAddr, touches_marked.regs _ (by decide), inputAddr]

/-- Without errors in memory the word's bytes are put in its place. -/
theorem written_eq (clean : s.ecc = []) :
    written s n u r = putBytes (marked s n r) (inputAddr s n u) (leBytes 4 (BitVec.ofInt 32 r.1 : Word).toNat) := by
  have clean' : (marked s n r).ecc = [] := by rw [touches_marked.parts.ecc (by decide), clean]
  rw [written, writeInput, memStore_noError clean', leBytes_word, inputAddr_marked]

theorem touches_written (clean : s.ecc = []) : Touches [.analog, .mem] [R.adcFlag] s (written s n u r) := by
  rw [written_eq clean]
  exact touches_putBytes (touches_mono touches_marked (by decide) (List.Subset.refl _)) _ _ (by decide)

theorem analog_written (clean : s.ecc = []) :
    (written s n u r).analog = (onAdc s n fun c => { c with held := BitVec.ofInt 32 r.1 }).analog := by
  rw [written_eq clean, changes_putBytes]
  exact analog_marked

theorem detOf_written (clean : s.ecc = []) : detOf (written s n u r) y = detOf s y := by
  rw [detOf, analog_written clean]
  rfl

end Writing

/-! ### A command delivers the next sample of a channel (R308 to R311, log 129) -/

section Delivery
variable {s t : State} {n x y : Nat} {tap : Int} {r : Int × Bool}

/-- A command can deliver the next sample of channel n, into a memory without errors. -/
structure Delivers (s : State) (n : Nat) : Prop where
  channels : s.analog.adc.length = 16
  detectors : s.analog.det.length = 32
  clean : s.ecc = []
  known : n < 16
  due : canDeliver s n = true

/-- The sample has been counted and written; the detectors come next. -/
def delivered (s : State) (n : Nat) (r : Int × Bool) : State := written (counted s n) n (nextSample s) r

/-- Both detectors of a channel take a value that stands for a ball time (R314). -/
def detectBoth (s : State) (n : Nat) (v : Int) (b : DWord) : State := detectSample (detectSample s (2 * n) v b) (2 * n + 1) v b

theorem deliverValue_eq {u : Nat} {watched : Bool} :
    deliverValue s n u tap watched =
      if watched = true then detectBoth (written s n u (trimmed s n tap)) n (trimmed s n tap).1
        (w64 u - w64 (groupDelay (written s n u (trimmed s n tap)) n))
      else written s n u (trimmed s n tap) := rfl

theorem settingRegs_bounds {a : Nat} (known : n < 16) (h : a ∈ settingRegs n) : a ≠ R.adcStat ∧ a ≠ R.adcFlag ∧ a < R.adcTlevel := by
  have channels : ∀ n, n < 16 → ∀ a ∈ settingRegs n, a ≠ R.adcStat ∧ a ≠ R.adcFlag ∧ a < R.adcTlevel := by decide
  exact channels n known a h

theorem touches_counted : Touches [.analog] [R.adcStat] s (counted s n) := by
  by_cases last : (adcOf s n).settle = 1
  · exact touches_counted_last last
  · exact touches_mono (touches_counted_more last) (List.Subset.refl _) (List.nil_subset _)

theorem sameSettings_counted (known : n < 16) : SameSettings s (counted s n) n :=
  sameSettings_touches touches_counted fun _ ha => mt List.mem_singleton.mp (settingRegs_bounds known ha).1

theorem touches_delivered (h : Delivers s n) : Touches [.analog, .mem] [R.adcFlag] (counted s n) (delivered s n r) :=
  touches_written (touches_counted.parts.ecc (by decide) |>.trans h.clean)

theorem sameSettings_delivered (h : Delivers s n) : SameSettings s (delivered s n r) n := fun a ha =>
  ((touches_delivered h).regs a (mt List.mem_singleton.mp (settingRegs_bounds h.known ha).2.1)).trans (sameSettings_counted h.known a ha)

theorem ecc_counted (h : Delivers s n) : (counted s n).ecc = [] := (touches_counted.parts.ecc (by decide)).trans h.clean

theorem detOf_delivered (h : Delivers s n) : detOf (delivered s n r) y = detOf (counted s n) y := detOf_written (ecc_counted h)

theorem length_delivered (h : Delivers s n) : (delivered s n r).analog.det.length = 32 := by
  rw [delivered, analog_written (ecc_counted h)]
  exact length_det_counted.trans h.detectors

theorem adcOf_delivered (h : Delivers s n) :
    adcOf (delivered s n r) n = { countedAdc s n with held := BitVec.ofInt 32 r.1 } := by
  rw [delivered, adcOf, analog_written (ecc_counted h)]
  show adcOf (onAdc (counted s n) n _) n = _
  rw [adcOf_onAdc (by rw [length_adc_counted, h.channels]; exact h.known), adcOf_counted h.channels h.known]

theorem adcOf_delivered_ne (h : Delivers s n) (other : y ≠ n) : adcOf (delivered s n r) y = adcOf s y := by
  rw [delivered, adcOf, analog_written (ecc_counted h)]
  show adcOf (onAdc (counted s n) n _) y = _
  rw [adcOf_onAdc_ne other, adcOf_counted_ne other]

theorem detOf_counted_ne (h : Delivers s n) (other : y / 2 ≠ n) : detOf (counted s n) y = detOf s y := by
  by_cases last : (adcOf s n).settle = 1
  · rw [detOf_counted_last h.detectors h.known last, if_neg other]
  · rw [detOf_counted_more h.detectors h.known last, if_neg other]

/-- Before its detectors act the sample is delivered (R308 to R311). -/
theorem inputDelivered_delivered (h : Delivers s n) : InputDelivered s (delivered s n r) n (nextSample s) r.1 r.2 := by
  have address : inputAddr (counted s n) n (nextSample s) = inputAddr s n (nextSample s) := by
    rw [inputAddr, touches_counted.regs _ (by decide), inputAddr]
  have bytes : delivered s n r = putBytes (marked (counted s n) n r) (inputAddr s n (nextSample s))
      (leBytes 4 (BitVec.ofInt 32 r.1 : Word).toNat) := by rw [delivered, written_eq (ecc_counted h), address]
  refine ⟨?_, fun b outside => ?_, ?_, adcOf_delivered h, fun m other => adcOf_delivered_ne h other, fun y other => ?_⟩
  · rw [bytes]
    exact word32At_putBytes _ _ _ 0 _ (by simp) (List.take_of_length_le (by simp))
  · rw [bytes, memByte_putBytes, length_leBytes, if_neg (by omega), memByte, touches_marked.parts.mem (by decide),
      touches_counted.parts.mem (by decide), memByte]
  · rw [bytes, flag, rd_congr (putBytes_parts _ _ _).2, ← flag, flag_marked h.known, flag, touches_counted.regs _ (by decide), flag]
  · rw [detOf_delivered h, detOf_counted_ne h other]

/-- In the ways a command delivers a sample it becomes the trimmed value, and the detectors take it where the channel had settled before
(R306, R308 to R311). -/
theorem giveSample_eq (h : Delivers s n) (value : adcSet s n ≠ 3 ∨ (adcOf s n).settle ≤ 1) (hr : r = trimmed s n tap) :
    giveSample s n tap =
      if (adcOf s n).settle = 0 then detectBoth (delivered s n r) n r.1 (w64 (nextSample s) - w64 (groupDelay s n))
      else delivered s n r := by
  have here : n < s.analog.adc.length := h.channels.symm ▸ h.known
  have same := sameSettings_counted (s := s) h.known
  have repeated : repeatsValue (counted s n) n (nextSample s) = false := by
    have due := h.due
    simp only [canDeliver, Bool.and_eq_true, Bool.not_eq_true'] at due
    rw [repeatsValue_same same]
    exact due.2
  have left : (adcOf (onAdc s n fun c => { c with given := some (nextSample s) }) n).settle = (adcOf s n).settle := by
    rw [adcOf_onAdc here]
  have own := adcOf_counted h.channels h.known
  have trims : trimmed (counted s n) n tap = r := by
    rw [hr, trimmed_same same (by rw [own, countedAdc]) (by rw [own, countedAdc])]
  have whole : ¬(adcSet (counted s n) n = 3 ∧ 1 < (adcOf s n).settle) := by
    rw [adcSet_same same]
    omega
  have unfolded : giveSample s n tap = if adcSet (counted s n) n = 3 ∧ 1 < (adcOf s n).settle then writeInput (counted s n) n (nextSample s) 0
      else if repeatsValue (counted s n) n (nextSample s) then writeInput (counted s n) n (nextSample s) (adcOf (counted s n) n).held
      else deliverValue (counted s n) n (nextSample s) tap ((adcOf s n).settle = 0) := by
    simp only [giveSample, deliverSample, left]
    rfl
  have delay : groupDelay (delivered s n r) n = groupDelay s n := groupDelay_same (sameSettings_delivered h)
  rw [unfolded, if_neg whole, repeated, if_neg Bool.false_ne_true, deliverValue_eq, trims, ← delivered, delay]
  simp only [decide_eq_true_eq]

end Delivery

/-! ### What a detector reads -/

section Reading
variable {s t : State} {n x y : Nat} {v : Int}

/-- The address of ADC.TCTLx. -/
abbrev tctl (x : Nat) : Nat := R.adcTctl + 16 * x

/-- The registers of detector x (R314). -/
def detectorRegs (x : Nat) : List Nat := [tctl x, R.adcTlevel + 16 * x, R.adcThyst + 16 * x]

/-- The level of detector x (R314). -/
def levelOf (s : State) (x : Nat) : Int := (rd s (R.adcTlevel + 16 * x)).toInt

/-- The level less the hysteresis (R314). -/
def lowOf (s : State) (x : Nat) : Int := (rd s (R.adcTlevel + 16 * x)).toInt - (rd s (R.adcThyst + 16 * x)).toNat

/-- From s to t what detector x reads is the same: its registers, its channel's delays, and whether it watches. -/
structure SameView (s t : State) (x : Nat) : Prop where
  regs : ∀ a ∈ detectorRegs x, rd t a = rd s a
  settings : SameSettings s t (x / 2)
  watching : watching t x = watching s x

theorem flag_same {i : Nat} (h : SameView s t x) : flag t (tctl x) i = flag s (tctl x) i := by
  rw [flag, h.regs _ (by simp [detectorRegs]), flag]

theorem fld_same {hi lo : Nat} (h : SameView s t x) : fld t (tctl x) hi lo = fld s (tctl x) hi lo := by
  rw [fld, h.regs _ (by simp [detectorRegs]), fld]

theorem level_same (h : SameView s t x) : rd t (R.adcTlevel + 16 * x) = rd s (R.adcTlevel + 16 * x) :=
  h.regs _ (by simp [detectorRegs])

theorem hysteresis_same (h : SameView s t x) : rd t (R.adcThyst + 16 * x) = rd s (R.adcThyst + 16 * x) :=
  h.regs _ (by simp [detectorRegs])

theorem evaluates_same (h : SameView s t x) : evaluates t x = evaluates s x := by
  rw [evaluates, h.watching, flag_same h, evaluates]

theorem detValue_same (h : SameView s t x) : detValue t x v = detValue s x v := by
  rw [detValue, flag_same h, detValue]

theorem edgeSelected_same {rising : Bool} (h : SameView s t x) : edgeSelected t x rising = edgeSelected s x rising := by
  rw [edgeSelected, fld_same h, edgeSelected]

theorem levelOf_same (h : SameView s t x) : levelOf t x = levelOf s x := by rw [levelOf, level_same h, levelOf]

theorem lowOf_same (h : SameView s t x) : lowOf t x = lowOf s x := by rw [lowOf, level_same h, hysteresis_same h, lowOf]

theorem still_same (h : SameView s t x) (windows : (detOf t x).windows = (detOf s x).windows) : Still s x → Still t x := by
  rw [Still, Still, evaluates_same h, h.watching, windows]
  exact id

theorem sameView_trans {u : State} (h : SameView s t x) (k : SameView t u x) : SameView s u x :=
  ⟨fun a ha => (k.regs a ha).trans (h.regs a ha), fun a ha => (k.settings a ha).trans (h.settings a ha), k.watching.trans h.watching⟩

/-- A detector whose channel had settled before the sample sees it delivered as it stood. -/
theorem sameView_delivered {r : Int × Bool} (h : Delivers s n) (own : x / 2 = n) (settled : (adcOf s n).settle = 0) :
    SameView s (delivered s n r) x where
  regs a ha := by
    have apart : a ≠ R.adcFlag ∧ a ≠ R.adcStat := by
      simp only [detectorRegs, List.mem_cons, List.not_mem_nil, or_false] at ha
      unfold tctl R.adcTctl R.adcTlevel R.adcThyst at ha
      unfold R.adcFlag R.adcStat
      omega
    rw [(touches_delivered h).regs a (mt List.mem_singleton.mp apart.1), touches_counted.regs a (mt List.mem_singleton.mp apart.2)]
  settings := by subst own; exact sameSettings_delivered h
  watching := by
    subst own
    simp only [watching, adcOf_delivered h, countedAdc, settled]

end Reading

/-! ### What a detector does changes that detector alone (R314 to R317) -/

section Steps
variable {s t u : State} {n x y : Nat} {ps : List Part} {rs : List Nat}

/-- From s to t no channel and no detector but x differs, and no more than what the frame names. -/
structure DetectorStep (ps : List Part) (rs : List Nat) (x : Nat) (s t : State) : Prop where
  frame : Touches ps rs s t
  channels : t.analog.adc = s.analog.adc
  length : t.analog.det.length = s.analog.det.length
  other : ∀ y, y ≠ x → detOf t y = detOf s y

theorem detectorStep_rfl : DetectorStep ps rs x s s := ⟨touches_rfl, rfl, rfl, fun _ _ => rfl⟩

theorem detectorStep_trans (h : DetectorStep ps rs x s t) (k : DetectorStep ps rs x t u) : DetectorStep ps rs x s u :=
  ⟨touches_trans h.frame k.frame, k.channels.trans h.channels, k.length.trans h.length,
    fun y other => (k.other y other).trans (h.other y other)⟩

theorem detectorStep_mono {qs : List Part} (h : DetectorStep qs rs x s t) (hq : qs ⊆ ps) : DetectorStep ps rs x s t :=
  ⟨touches_mono h.frame hq (List.Subset.refl _), h.channels, h.length, h.other⟩

theorem detectorStep_onDet (h : DetectorStep ps rs x s t) (f : DetectorSt → DetectorSt) (hp : Part.analog ∈ Part.regs :: ps) :
    DetectorStep ps rs x s (onDet t x f) :=
  ⟨touches_analog h.frame _ hp, h.channels, length_onDet.trans h.length, fun y other => (detOf_onDet_ne other).trans (h.other y other)⟩

theorem detectorStep_wrFld (h : DetectorStep ps rs x s t) (hi lo v : Nat) (hr : tctl x ∈ rs) :
    DetectorStep ps rs x s (wrFld t (tctl x) hi lo v) :=
  ⟨touches_wrFld h.frame _ _ _ hr, h.channels, h.length, h.other⟩

theorem detectorStep_threshEvent (h : DetectorStep ps rs x s t) (stamp : DWord) (v : Int) (hp : Part.evt ∈ Part.regs :: ps) :
    DetectorStep ps rs x s (threshEvent t x stamp v) :=
  ⟨touches_evt h.frame _ hp, h.channels, h.length, h.other⟩

theorem adcOf_step (h : DetectorStep ps rs x s t) : adcOf t n = adcOf s n := by rw [adcOf, h.channels, adcOf]

theorem adcFlag_notMem (own : rs ⊆ [tctl x]) : R.adcFlag ∉ rs := fun hm => by
  have flag := List.mem_singleton.mp (own hm)
  unfold R.adcFlag tctl R.adcTctl at flag
  omega

/-- What its detectors do leaves a delivered sample as it is. -/
theorem inputDelivered_step {v : Int} {sat : Bool} {k : Nat} (h : InputDelivered s t n k v sat) (step : DetectorStep ps rs x t u)
    (own : x / 2 = n) (memory : Part.mem ∉ Part.regs :: ps) (regs : rs ⊆ [tctl x]) : InputDelivered s u n k v sat := by
  have mem := step.frame.parts.mem memory
  have flags := step.frame.regs _ (adcFlag_notMem regs)
  have byte : ∀ b, memByte u b = memByte t b := fun b => by rw [memByte, mem, memByte]
  refine ⟨?_, fun b outside => (byte b).trans (h.bytes b outside), ?_, (adcOf_step step).trans h.here,
    fun m other => (adcOf_step step).trans (h.other m other), fun y other => (step.other y ?_).trans (h.rest y other)⟩
  · rw [word32At, memBytes, funext byte]
    exact h.word
  · rw [flag, flags]
    exact h.sat
  · rintro rfl
    exact other own

/-- The other detector of the channel sees no change. -/
theorem sameView_step (step : DetectorStep ps rs x s t) (regs : rs ⊆ [tctl x]) (other : y ≠ x) (known : y < 32) : SameView s t y where
  regs a ha := step.frame.regs a fun hm => by
    have at' := List.mem_singleton.mp (regs hm)
    simp only [detectorRegs, List.mem_cons, List.not_mem_nil, or_false] at ha
    unfold tctl R.adcTctl R.adcTlevel R.adcThyst at ha
    unfold tctl R.adcTctl at at'
    omega
  settings a ha := step.frame.regs a fun hm => by
    have at' := List.mem_singleton.mp (regs hm)
    obtain ⟨_, _, low⟩ := settingRegs_bounds (by omega) ha
    unfold tctl R.adcTctl at at'
    unfold R.adcTlevel at low
    omega
  watching := by simp only [watching, adcOf_step step]

end Steps

/-! ### Peak windows (R316) -/

section Windows
variable {s t : State} {x : Nat} {w : Int} {ws rest : List (DWord × Int × Nat)} {stamp : DWord} {best : Int}

/-- Open windows once they have taken a value. -/
def windowsTaken (w : Int) (ws : List (DWord × Int × Nat)) : List (DWord × Int × Nat) :=
  ws.map fun v => (v.1, peakOf v.2.1 w, v.2.2 - 1)

/-- A window that waits for more than this value stays open. -/
theorem open_windowsTaken (more : ∀ v ∈ ws, 1 < v.2.2) : ∀ v ∈ windowsTaken w ws, v.2.2 ≠ 0 := by
  intro v hv
  obtain ⟨u, hu, rfl⟩ := List.mem_map.mp hv
  have := more u hu
  show u.2.2 - 1 ≠ 0
  omega

theorem filter_open (more : ∀ v ∈ ws, 1 < v.2.2) : ((windowsTaken w ws).filter fun v => v.2.2 ≠ 0) = windowsTaken w ws :=
  List.filter_eq_self.mpr fun v hv => decide_eq_true (open_windowsTaken more v hv)

theorem filter_closed (more : ∀ v ∈ ws, 1 < v.2.2) : ((windowsTaken w ws).filter fun v => v.2.2 = 0) = [] :=
  List.filter_eq_nil_iff.mpr fun v hv => by simpa using open_windowsTaken more v hv

theorem runWindows_open (more : ∀ v ∈ (detOf s x).windows, 1 < v.2.2) :
    runWindows s x w = onDet s x fun d => { d with windows := windowsTaken w (detOf s x).windows } := by
  show ((windowsTaken w (detOf s x).windows).filter fun v => v.2.2 = 0).foldl _
    (onDet s x fun d => { d with windows := (windowsTaken w (detOf s x).windows).filter fun v => v.2.2 ≠ 0 }) = _
  rw [filter_closed more, filter_open more, List.foldl_nil]

/-- The oldest window closes with the value. -/
theorem runWindows_closes (windows : (detOf s x).windows = (stamp, best, 1) :: rest) (more : ∀ v ∈ rest, 1 < v.2.2) :
    runWindows s x w = threshEvent (onDet s x fun d => { d with windows := windowsTaken w rest }) x stamp (peakOf best w) := by
  have all : windowsTaken w (detOf s x).windows = (stamp, peakOf best w, 0) :: windowsTaken w rest := by rw [windows]; rfl
  show ((windowsTaken w (detOf s x).windows).filter fun v => v.2.2 = 0).foldl _
    (onDet s x fun d => { d with windows := (windowsTaken w (detOf s x).windows).filter fun v => v.2.2 ≠ 0 }) = _
  have closing : ((stamp, peakOf best w, 0) :: windowsTaken w rest).filter (fun v => v.2.2 = 0) = [(stamp, peakOf best w, 0)] :=
    congrArg (List.cons _) (filter_closed more)
  have staying : ((stamp, peakOf best w, 0) :: windowsTaken w rest).filter (fun v => v.2.2 ≠ 0) = windowsTaken w rest := by
    rw [List.filter_cons_of_neg (by simp), filter_open more]
  rw [all, closing, staying]
  rfl

/-- Without open windows nothing happens. -/
theorem runWindows_none (noWindows : (detOf s x).windows = []) : runWindows s x w = s := by
  have same : { detOf s x with windows := windowsTaken w (detOf s x).windows } = detOf s x := by
    rw [noWindows, windowsTaken, List.map_nil, ← noWindows]
  rw [runWindows_open (by rw [noWindows]; exact fun _ hv => absurd hv List.not_mem_nil), onDet_self same]

theorem touches_runWindows : Touches [.analog, .evt] [] s (runWindows s x w) :=
  touches_foldl (touches_analog touches_rfl _ (by decide)) fun _ _ _ h => touches_evt h _ (by decide)

end Windows

/-! ### Evaluation (R314, R315, R317) -/

section Evaluation
variable {s t : State} {x : Nat} {w w0 : Int} {b : DWord}

/-- The detector has the value as its latest. -/
def seen (s : State) (x : Nat) (w : Int) : State := onDet s x fun d => { d with last := some w }

/-- With it the detector's state is set. -/
def turned (s : State) (x : Nat) (w : Int) (high : Bool) : State := wrFld (seen s x w) (tctl x) 31 31 (b2n high)

/-- The first value sets the state without a crossing (R314). -/
theorem evaluate_first (first : (detOf s x).last = none) :
    evaluate s x w = (turned s x w (decide (levelOf s x ≤ w)), none) := by
  simp only [evaluate, first, Option.isNone_none, if_true]
  rfl

/-- A low detector rises at its level (R314). -/
theorem evaluate_rises (last : (detOf s x).last = some w0) (low : flag s (tctl x) 31 = false) (up : levelOf s x ≤ w) :
    evaluate s x w = (turned s x w true, some (true, levelOf s x)) := by
  have up' : (rd s (R.adcTlevel + 16 * x)).toInt ≤ w := up
  simp only [evaluate, last, Option.isNone_some, low, up', decide_true, Bool.not_false, Bool.and_true, Bool.false_eq_true, if_false,
    if_true]
  rfl

/-- A high detector falls below its level less the hysteresis (R314). -/
theorem evaluate_falls (last : (detOf s x).last = some w0) (high : flag s (tctl x) 31 = true) (down : w < lowOf s x) :
    evaluate s x w = (turned s x w false, some (false, lowOf s x)) := by
  have down' : w < (rd s (R.adcTlevel + 16 * x)).toInt - (rd s (R.adcThyst + 16 * x)).toNat := down
  simp only [evaluate, last, Option.isNone_some, high, down', decide_true, Bool.not_true, Bool.false_and, Bool.and_true,
    Bool.false_eq_true, if_false, if_true]
  rfl

/-- Between the two it stays as it is (R314). -/
theorem evaluate_stays (last : (detOf s x).last = some w0)
    (between : if flag s (tctl x) 31 then lowOf s x ≤ w else w < levelOf s x) : evaluate s x w = (seen s x w, none) := by
  cases state : flag s (tctl x) 31 with
  | false =>
    rw [state, if_neg Bool.false_ne_true] at between
    have below : ¬(rd s (R.adcTlevel + 16 * x)).toInt ≤ w := Int.not_le.mpr between
    simp only [evaluate, last, Option.isNone_some, state, below, decide_false, Bool.and_false, Bool.false_and, Bool.false_eq_true,
      if_false]
    rfl
  | true =>
    rw [state, if_pos rfl] at between
    have above : ¬w < (rd s (R.adcTlevel + 16 * x)).toInt - (rd s (R.adcThyst + 16 * x)).toNat := Int.not_lt.mpr between
    simp only [evaluate, last, Option.isNone_some, state, above, decide_false, Bool.not_true, Bool.and_false, Bool.false_and,
      Bool.false_eq_true, if_false]
    rfl

/-- Detector x crosses a level at the value w, rising or falling, in a way that EDGE selects, and no open window ends with the value (R314,
R316). -/
structure Crosses (s : State) (x : Nat) (w w0 : Int) (rising : Bool) : Prop where
  on : evaluates s x = true
  last : (detOf s x).last = some w0
  state : flag s (tctl x) 31 = !rising
  beyond : if rising then levelOf s x ≤ w else w < lowOf s x
  edge : edgeSelected s x rising = true
  more : ∀ u ∈ (detOf s x).windows, 1 < u.2.2

/-- The level that it crosses. -/
def crossedLevel (s : State) (x : Nat) (rising : Bool) : Int := if rising then levelOf s x else lowOf s x

theorem evaluate_crosses {rising : Bool} (last : (detOf s x).last = some w0) (state : flag s (tctl x) 31 = !rising)
    (beyond : if rising then levelOf s x ≤ w else w < lowOf s x) :
    evaluate s x w = (turned s x w rising, some (rising, crossedLevel s x rising)) := by
  cases rising with
  | true => exact evaluate_rises last state beyond
  | false => exact evaluate_falls last state beyond

/-- Without a crossing no event begins. -/
theorem detect_uncrossed (e : evaluate s x w = (t, none)) : detect s x w b = t := by
  simp only [detect, e]

/-- A crossing that EDGE selects outside the hold-off begins one, stamped between the two values (R315 to R317). -/
theorem detect_crossed {rising : Bool} {lam : Int} (e : evaluate s x w = (t, some (rising, lam))) (last : (detOf s x).last = some w0)
    (edge : edgeSelected t x rising = true) (ended : (detOf s x).hold = 0) :
    detect s x w b = beginEvent t x
      (crossingStamp (b - w64 (valueStep s (x / 2))) (valueStep s (x / 2)) w0 w lam) w := by
  simp only [detect, e, last, edge, ended, decide_true, Bool.and_self, if_true]

theorem detOf_turned {high : Bool} (known : x < s.analog.det.length) :
    detOf (turned s x w high) x = { detOf s x with last := some w } := (detOf_congr (wrFld_analog ..)).trans (detOf_onDet known)

theorem flag_turned {high : Bool} : flag (turned s x w high) (tctl x) 31 = high := by
  rw [turned, flag_wrFld (by decide)]
  cases high <;> rfl

theorem detectorStep_turned {high : Bool} : DetectorStep [.analog] [tctl x] x s (turned s x w high) :=
  detectorStep_wrFld (detectorStep_onDet detectorStep_rfl _ (by decide)) _ _ _ List.mem_cons_self

/-- Its other fields stay (R314). -/
theorem fld_turned {high : Bool} {hi lo : Nat} (order : lo ≤ hi) (below : hi < 31) :
    fld (turned s x w high) (tctl x) hi lo = fld s (tctl x) hi lo :=
  fld_wrFld_apart (by decide) (by decide) order (.inl below)

/-- EDGE does not lie in the detector's state. -/
theorem edgeSelected_turned {high rising : Bool} : edgeSelected (turned s x w high) x rising = edgeSelected s x rising := by
  rw [edgeSelected, fld_turned (by decide) (by decide), edgeSelected]

end Evaluation

/-! ### A detector takes its channel's sample (R314 to R317) -/

section Taking
variable {s t : State} {x : Nat} {v w w0 : Int} {b stamp : DWord} {rs : List Nat}

/-- One that is still does nothing. -/
theorem detectSample_still (still : Still s x) : detectSample s x v b = s := by
  obtain ⟨off, closed⟩ := still
  cases watched : watching s x with
  | false => simp only [detectSample, watched, Bool.not_false, if_true]
  | true =>
    have disabled : flag s (tctl x) 0 = false := by simpa only [evaluates, watched, Bool.true_and] using off
    simp only [detectSample, watched, Bool.not_true, Bool.false_eq_true, if_false, runWindows_none (closed watched), disabled]

/-- One that watches and is not enabled serves its windows alone (R316). -/
theorem detectSample_disabled (watched : watching s x = true) (off : evaluates s x = false) :
    detectSample s x v b = runWindows s x (detValue s x v) := by
  have disabled : flag (runWindows s x (detValue s x v)) (tctl x) 0 = false := by
    rw [flag, touches_runWindows.regs _ List.not_mem_nil, ← flag]
    simpa only [evaluates, watched, Bool.true_and] using off
  simp only [detectSample, watched, Bool.not_true, Bool.false_eq_true, if_false, disabled]

/-- One that evaluates serves its windows and then compares the value (R314, R316). -/
theorem detectSample_evaluates (on : evaluates s x = true) :
    detectSample s x v b = detect (runWindows s x (detValue s x v)) x (detValue s x v) b := by
  obtain ⟨watched, enabled⟩ := Bool.and_eq_true_iff.mp on
  have enabled' : flag (runWindows s x (detValue s x v)) (tctl x) 0 = true := by
    rw [flag, touches_runWindows.regs _ List.not_mem_nil, ← flag]
    exact enabled
  simp only [detectSample, watched, Bool.not_true, Bool.false_eq_true, if_false, enabled', if_true]

/-- The first value it evaluates sets its state (R314). -/
theorem detectSample_first (on : evaluates s x = true) (noWindows : (detOf s x).windows = []) (first : (detOf s x).last = none) :
    detectSample s x v b = turned s x (detValue s x v) (decide (levelOf s x ≤ detValue s x v)) := by
  rw [detectSample_evaluates on, runWindows_none noWindows, detect_uncrossed (evaluate_first first)]

/-- With a peak window the event waits for the window's last value, and its hold-off starts (R316, R317). -/
theorem beginEvent_waits (window : fld s (tctl x) 7 4 ≠ 0) :
    beginEvent s x stamp w = onDet (onDet s x fun d => { d with hold := fld s (tctl x) 23 8 }) x
      fun d => { d with windows := d.windows ++ [(stamp, w, fld s (tctl x) 7 4)] } := if_neg window

/-- Without one it goes to the fabric at once (R316). -/
theorem beginEvent_atOnce (noWindow : fld s (tctl x) 7 4 = 0) :
    beginEvent s x stamp w = threshEvent (onDet s x fun d => { d with hold := fld s (tctl x) 23 8 }) x stamp w := if_pos noWindow

/-- An event handed over after what the detector has changed goes to the fabric as it stood (R202, R316). -/
theorem evt_threshEvent (step : DetectorStep [.analog] rs x s t) :
    (threshEvent t x stamp w).evt = (offerEvent s 13 (thresholdPacket x stamp w) s.time.aoTime).evt := by
  have evt : t.evt = s.evt := step.frame.parts.evt (by decide)
  have time : t.time = s.time := step.frame.parts.time (by decide)
  have packet : thresholdPacket x stamp w = { mkEvent stamp 0x0B 0 x 0 with value := BitVec.ofInt 32 w } := rfl
  simp only [threshEvent, offerEvent, packet, evt, time]

theorem flag_threshEvent {a i : Nat} : flag (threshEvent s x stamp w) a i = flag s a i := rfl

theorem detOf_threshEvent {y : Nat} : detOf (threshEvent s x stamp w) y = detOf s y := rfl

theorem flag_onDet {f : DetectorSt → DetectorSt} {a i : Nat} : flag (onDet s x f) a i = flag s a i := rfl

/-- The windows of the detector have taken the value, and each stays open. -/
def windowsRun (s : State) (x : Nat) (w : Int) : State := onDet s x fun d => { d with windows := windowsTaken w (detOf s x).windows }

theorem detOf_windowsRun (known : x < s.analog.det.length) :
    detOf (windowsRun s x w) x = { detOf s x with windows := windowsTaken w (detOf s x).windows } := detOf_onDet known

/-- After them the detector has crossed its level. -/
def crossed (s : State) (x : Nat) (w : Int) (rising : Bool) : State := turned (windowsRun s x w) x w rising

theorem detectorStep_crossed {rising : Bool} : DetectorStep [.analog] [tctl x] x s (crossed s x w rising) :=
  detectorStep_trans (detectorStep_onDet detectorStep_rfl _ (by decide)) detectorStep_turned

theorem detOf_crossed {rising : Bool} (known : x < s.analog.det.length) :
    detOf (crossed s x w rising) x = ⟨some w, windowsTaken w (detOf s x).windows, (detOf s x).hold⟩ := by
  rw [crossed, detOf_turned (by rw [windowsRun, length_onDet]; exact known), detOf_windowsRun known]

theorem flag_crossed {rising : Bool} : flag (crossed s x w rising) (tctl x) 31 = rising := flag_turned

theorem fld_crossed {rising : Bool} {hi lo : Nat} (order : lo ≤ hi) (below : hi < 31) :
    fld (crossed s x w rising) (tctl x) hi lo = fld s (tctl x) hi lo := fld_turned order below

/-- A crossing outside the hold-off begins an event, stamped between the two values (R315 to R317). -/
theorem detectSample_crosses {rising : Bool} (known : x < s.analog.det.length) (crosses : Crosses s x w w0 rising)
    (ended : (detOf s x).hold = 0) (hw : w = detValue s x v)
    (hstamp : stamp = crossingStamp (b - w64 (valueStep s (x / 2))) (valueStep s (x / 2)) w0 w (crossedLevel s x rising)) :
    detectSample s x v b = beginEvent (crossed s x w rising) x stamp w := by
  have here := detOf_windowsRun (w := w) known
  have evaluated : evaluate (windowsRun s x w) x w = (crossed s x w rising, some (rising, crossedLevel s x rising)) :=
    evaluate_crosses (by rw [here]; exact crosses.last) crosses.state crosses.beyond
  rw [detectSample_evaluates crosses.on, ← hw, runWindows_open crosses.more, ← windowsRun,
    detect_crossed evaluated (by rw [here]; exact crosses.last) (edgeSelected_turned.trans crosses.edge) (by rw [here]; exact ended), hstamp]
  rfl

/-- With a peak window the event waits beside those that are open (R316). -/
theorem beginEvent_crossed_waits {rising : Bool} (known : x < s.analog.det.length) (window : fld s (tctl x) 7 4 ≠ 0) :
    DetectorStep [.analog] [tctl x] x s (beginEvent (crossed s x w rising) x stamp w) ∧
      flag (beginEvent (crossed s x w rising) x stamp w) (tctl x) 31 = rising ∧
      detOf (beginEvent (crossed s x w rising) x stamp w) x =
        ⟨some w, windowsTaken w (detOf s x).windows ++ [(stamp, w, fld s (tctl x) 7 4)], fld s (tctl x) 23 8⟩ := by
  have place : x < (crossed s x w rising).analog.det.length := detectorStep_crossed.length.symm ▸ known
  rw [beginEvent_waits (by rw [fld_crossed (by decide) (by decide)]; exact window), fld_crossed (by decide) (by decide),
    fld_crossed (by decide) (by decide)]
  refine ⟨detectorStep_onDet (detectorStep_onDet detectorStep_crossed _ (by decide)) _ (by decide), ?_, ?_⟩
  · rw [flag_onDet, flag_onDet, flag_crossed]
  · rw [detOf_onDet (by rw [length_onDet]; exact place), detOf_onDet place, detOf_crossed known]

/-- Without one it goes to the fabric at once (R316). -/
theorem beginEvent_crossed_atOnce {rising : Bool} (known : x < s.analog.det.length) (noWindow : fld s (tctl x) 7 4 = 0) :
    DetectorStep [.analog, .evt] [tctl x] x s (beginEvent (crossed s x w rising) x stamp w) ∧
      flag (beginEvent (crossed s x w rising) x stamp w) (tctl x) 31 = rising ∧
      detOf (beginEvent (crossed s x w rising) x stamp w) x =
        ⟨some w, windowsTaken w (detOf s x).windows, fld s (tctl x) 23 8⟩ ∧
      (beginEvent (crossed s x w rising) x stamp w).evt = (offerEvent s 13 (thresholdPacket x stamp w) s.time.aoTime).evt := by
  have place : x < (crossed s x w rising).analog.det.length := detectorStep_crossed.length.symm ▸ known
  have step : DetectorStep [.analog] [tctl x] x s (onDet (crossed s x w rising) x fun d => { d with hold := fld s (tctl x) 23 8 }) :=
    detectorStep_onDet detectorStep_crossed _ (by decide)
  rw [beginEvent_atOnce (by rw [fld_crossed (by decide) (by decide)]; exact noWindow), fld_crossed (by decide) (by decide)]
  refine ⟨detectorStep_threshEvent (detectorStep_mono step (by decide)) _ _ (by decide), ?_, ?_, evt_threshEvent step⟩
  · rw [flag_threshEvent, flag_onDet, flag_crossed]
  · rw [detOf_threshEvent, detOf_onDet place, detOf_crossed known]

/-- A value that closes the oldest window and crosses nothing (R314, R316). -/
theorem detectSample_closes {best : Int} {rest : List (DWord × Int × Nat)} (known : x < s.analog.det.length)
    (watched : watching s x = true) (windows : (detOf s x).windows = (stamp, best, 1) :: rest) (more : ∀ u ∈ rest, 1 < u.2.2)
    (hw : w = detValue s x v)
    (between : evaluates s x = true → (detOf s x).last = some w0 ∧
      if flag s (tctl x) 31 then lowOf s x ≤ w else w < levelOf s x) :
    DetectorStep [.analog, .evt] [] x s (detectSample s x v b) ∧
      detOf (detectSample s x v b) x =
        ⟨if evaluates s x then some w else (detOf s x).last, windowsTaken w rest, (detOf s x).hold⟩ ∧
      (detectSample s x v b).evt = (offerEvent s 13 (thresholdPacket x stamp (peakOf best w)) s.time.aoTime).evt := by
  have closed := runWindows_closes (w := w) windows more
  have here : detOf (runWindows s x w) x = { detOf s x with windows := windowsTaken w rest } := by
    rw [closed]
    exact detOf_onDet known
  have step : DetectorStep [.analog, .evt] [] x s (runWindows s x w) := by
    rw [closed]
    exact detectorStep_threshEvent (detectorStep_onDet detectorStep_rfl _ (by decide)) _ _ (by decide)
  have handed : (runWindows s x w).evt = (offerEvent s 13 (thresholdPacket x stamp (peakOf best w)) s.time.aoTime).evt := by
    rw [closed]
    exact evt_threshEvent (rs := []) (detectorStep_onDet detectorStep_rfl _ (by decide))
  cases on : evaluates s x with
  | false =>
    rw [detectSample_disabled watched on, ← hw]
    exact ⟨step, here, handed⟩
  | true =>
    obtain ⟨last, stays⟩ := between on
    have uncrossed : detectSample s x v b = seen (runWindows s x w) x w := by
      rw [detectSample_evaluates on, ← hw]
      refine detect_uncrossed (evaluate_stays (by rw [here]; exact last) ?_)
      rw [closed]
      exact stays
    rw [uncrossed]
    refine ⟨detectorStep_onDet step _ (by decide), ?_, handed⟩
    rw [seen, detOf_onDet (step.length.symm ▸ known), here]
    rfl

end Taking

/-! ### THRESHOLD_CROSSING (R308 to R310, R314 to R317) -/

section Crossing
variable {s t : State} {n x y : Nat} {v tap : Int} {b : DWord} {r : Int × Bool} {ps : List Part} {rs : List Nat}

/-- Where both detectors are still nothing happens. -/
theorem detectBoth_still (still : ∀ y, y / 2 = n → Still s y) : detectBoth s n v b = s := by
  rw [detectBoth, detectSample_still (still (2 * n) (by omega)), detectSample_still (still (2 * n + 1) (by omega))]

/-- Where the other detector of the channel is still, what happens is what one detector does. -/
theorem detectBoth_one (own : x / 2 = n) (known : x < 32) (still : ∀ y, y / 2 = n → y ≠ x → Still s y)
    (step : DetectorStep ps rs x s (detectSample s x v b)) (regs : rs ⊆ [tctl x]) : detectBoth s n v b = detectSample s x v b := by
  rw [detectBoth]
  obtain rfl | rfl : x = 2 * n ∨ x = 2 * n + 1 := by omega
  · have after : Still (detectSample s (2 * n) v b) (2 * n + 1) :=
      still_same (sameView_step step regs (by omega) (by omega)) (by rw [step.other _ (by omega)]) (still _ (by omega) (by omega))
    rw [detectSample_still after]
  · rw [detectSample_still (still (2 * n) (by omega) (by omega))]

theorem settled_of_watching (own : x / 2 = n) (watched : watching s x = true) : (adcOf s n).settle = 0 := by
  subst own
  exact of_decide_eq_true (Bool.and_eq_true_iff.mp watched).2

theorem watching_of_evaluates (on : evaluates s x = true) : watching s x = true := (Bool.and_eq_true_iff.mp on).1

/-- In a channel that had settled the sample leaves its detectors as they were, but for their hold-offs. -/
theorem detOf_delivered_settled (h : Delivers s n) (settled : (adcOf s n).settle = 0) (own : y / 2 = n) :
    detOf (delivered s n r) y = countedDet (detOf s y) := by
  rw [detOf_delivered h, detOf_counted_more h.detectors h.known (by rw [settled]; decide), if_pos own]

theorem still_delivered (h : Delivers s n) (settled : (adcOf s n).settle = 0) (own : y / 2 = n) (still : Still s y) :
    Still (delivered s n r) y :=
  still_same (sameView_delivered h own settled) (by rw [detOf_delivered_settled h settled own, countedDet]) still

theorem known_delivered (h : Delivers s n) (own : x / 2 = n) : x < (delivered s n r).analog.det.length := by
  have := h.known
  rw [length_delivered h]
  omega

/-- Away from the last of the S samples a delivery touches the converters, the ring and SAT alone. -/
theorem touches_delivery (h : Delivers s n) (more : (adcOf s n).settle ≠ 1) : Touches [.analog, .mem] [R.adcFlag] s (delivered s n r) :=
  touches_trans (touches_mono (touches_counted_more more) (by decide) (List.nil_subset _)) (touches_delivered h)

/-- The fabric takes what a detector offers after the delivery as before it. -/
theorem offered_delivered {p : EvPacket} (h : Delivers s n) (more : (adcOf s n).settle ≠ 1) :
    (offerEvent (delivered s n r) 13 p (delivered s n r).time.aoTime).evt = (offerEvent s 13 p s.time.aoTime).evt := by
  have frame := touches_delivery (r := r) h more
  have fabric : (delivered s n r).evt = s.evt := frame.parts.evt (by decide)
  have time : (delivered s n r).time = s.time := frame.parts.time (by decide)
  rw [offerEvent, offerEvent, fabric, time]

/-- The ball time that the next sample stands for (R309, R314). -/
def ballTime (s : State) (n : Nat) : DWord := w64 (nextSample s) - w64 (groupDelay s n)

/-- From s to t channel n has delivered its next sample, and of its detectors x alone has done more than count its hold-off. -/
structure TakenBy (ps : List Part) (rs : List Nat) (s t : State) (n x : Nat) (r : Int × Bool) : Prop where
  input : InputDelivered s t n (nextSample s) r.1 r.2
  other : ∀ y, y / 2 = n → y ≠ x → detOf t y = countedDet (detOf s y)
  frame : Touches (.analog :: .mem :: ps) (R.adcFlag :: rs) s t

/-- A sample that one detector of its channel takes. -/
theorem giveSample_one (h : Delivers s n) (own : x / 2 = n) (settled : (adcOf s n).settle = 0) (hr : r = trimmed s n tap)
    (still : ∀ y, y / 2 = n → y ≠ x → Still s y)
    (step : DetectorStep (.analog :: ps) rs x (delivered s n r) (detectSample (delivered s n r) x r.1 (ballTime s n)))
    (regs : rs ⊆ [tctl x]) (memory : Part.mem ∉ Part.regs :: .analog :: ps) :
    giveSample s n tap = detectSample (delivered s n r) x r.1 (ballTime s n) ∧ TakenBy ps rs s (giveSample s n tap) n x r := by
  have less : x < 32 := by
    have := h.known
    omega
  have given : giveSample s n tap = detectSample (delivered s n r) x r.1 (ballTime s n) := by
    rw [giveSample_eq h (.inr (by omega)) hr, if_pos settled, ← ballTime]
    exact detectBoth_one own less (fun y hy other => still_delivered h settled hy (still y hy other)) step regs
  rw [given]
  refine ⟨rfl, inputDelivered_step (inputDelivered_delivered h) step own memory regs, fun y hy other => ?_, ?_⟩
  · rw [step.other y other, detOf_delivered_settled h settled hy]
  · exact touches_trans (touches_mono (touches_delivery h (by omega)) (by simp) (by simp))
      (touches_mono step.frame (by simp) (List.subset_cons_self ..))

/-- A sample that no detector takes: the channel still settles, or both detectors are still. -/
theorem giveSample_still (h : Delivers s n) (value : adcSet s n ≠ 3 ∨ (adcOf s n).settle = 0)
    (hr : r = trimmed s n tap) (still : ∀ y, y / 2 = n → Still s y) : giveSample s n tap = delivered s n r := by
  rw [giveSample_eq h (value.imp_right fun settled => by omega) hr]
  split
  · rename_i settled
    exact detectBoth_still fun y hy => still_delivered h settled hy (still y hy)
  · rfl

theorem exec_thresholdCrossing {x : Fin 32} {tap : BitVec 40} (due : canDeliver s (x / 2) = true) :
    exec (.thresholdCrossing x tap) s = .next (giveSample s (x / 2) tap.toInt) := if_pos due

/-- A channel whose detectors take no values. -/
theorem crossing_still (h : Delivers s n) (more : (adcOf s n).settle ≠ 1) (value : adcSet s n ≠ 3 ∨ (adcOf s n).settle = 0)
    (hr : r = trimmed s n tap) (still : ∀ y, y / 2 = n → Still s y) :
    InputDelivered s (giveSample s n tap) n (nextSample s) r.1 r.2 ∧
      (∀ y, y / 2 = n → detOf (giveSample s n tap) y = countedDet (detOf s y)) ∧
      Touches [.analog, .mem] [R.adcFlag] s (giveSample s n tap) := by
  rw [giveSample_still h value hr still]
  refine ⟨inputDelivered_delivered h, fun y own => ?_, touches_delivery h more⟩
  rw [detOf_delivered h, detOf_counted_more h.detectors h.known more, if_pos own]

/-- The detector crosses after the delivery what it would have crossed before it. -/
theorem crosses_delivered {w w0 : Int} {rising : Bool} (h : Delivers s n) (own : x / 2 = n) (crosses : Crosses s x w w0 rising) :
    Crosses (delivered s n r) x w w0 rising ∧ crossedLevel (delivered s n r) x rising = crossedLevel s x rising := by
  have settled := settled_of_watching own (watching_of_evaluates crosses.on)
  have view := sameView_delivered (r := r) h own settled
  have here := detOf_delivered_settled (r := r) h settled own
  refine ⟨⟨(evaluates_same view).trans crosses.on, ?_, (flag_same view).trans crosses.state, ?_,
    (edgeSelected_same view).trans crosses.edge, ?_⟩, ?_⟩
  · rw [here]
    exact crosses.last
  · rw [levelOf_same view, lowOf_same view]
    exact crosses.beyond
  · rw [here]
    exact crosses.more
  · rw [crossedLevel, levelOf_same view, lowOf_same view, crossedLevel]

/-- A crossing that EDGE selects once the hold-off's samples are delivered: its event is stamped for the ball times of the two values
(R315, R317). -/
theorem detectSample_delivered_crosses {w w0 : Int} {rising : Bool} {stamp : DWord} (h : Delivers s n) (own : x / 2 = n)
    (crosses : Crosses s x w w0 rising) (ended : (detOf s x).hold ≤ 1) (hw : w = detValue s x r.1)
    (hstamp : stamp = crossingStamp (ballTime s n - w64 (valueStep s n)) (valueStep s n) w0 w (crossedLevel s x rising)) :
    detectSample (delivered s n r) x r.1 (ballTime s n) = beginEvent (crossed (delivered s n r) x w rising) x stamp w := by
  have settled := settled_of_watching own (watching_of_evaluates crosses.on)
  have view := sameView_delivered (r := r) h own settled
  obtain ⟨after, level⟩ := crosses_delivered (r := r) h own crosses
  refine detectSample_crosses (known_delivered h own) after ?_ (hw.trans (detValue_same view).symm) ?_
  · rw [detOf_delivered_settled h settled own]
    exact Nat.sub_eq_zero_of_le ended
  · rw [valueStep_same view.settings, level, own]
    exact hstamp

/-- A crossing that opens a peak window. -/
theorem crossing_waits {w w0 : Int} {rising : Bool} {stamp : DWord} (h : Delivers s n) (own : x / 2 = n) (hr : r = trimmed s n tap)
    (still : ∀ y, y / 2 = n → y ≠ x → Still s y) (crosses : Crosses s x w w0 rising) (ended : (detOf s x).hold ≤ 1)
    (hw : w = detValue s x r.1)
    (hstamp : stamp = crossingStamp (ballTime s n - w64 (valueStep s n)) (valueStep s n) w0 w (crossedLevel s x rising))
    (window : fld s (tctl x) 7 4 ≠ 0) :
    TakenBy [] [tctl x] s (giveSample s n tap) n x r ∧ flag (giveSample s n tap) (tctl x) 31 = rising ∧
      detOf (giveSample s n tap) x =
        ⟨some w, windowsTaken w (detOf s x).windows ++ [(stamp, w, fld s (tctl x) 7 4)], fld s (tctl x) 23 8⟩ := by
  have settled := settled_of_watching own (watching_of_evaluates crosses.on)
  have view := sameView_delivered (r := r) h own settled
  have taken := detectSample_delivered_crosses h own crosses ended hw hstamp
  obtain ⟨step, state, detector⟩ := beginEvent_crossed_waits (w := w) (stamp := stamp) (rising := rising) (known_delivered h own)
    (by rw [fld_same view]; exact window)
  obtain ⟨given, outcome⟩ := giveSample_one h own settled hr still (taken ▸ step) (List.Subset.refl _) (by decide)
  rw [taken] at given
  refine ⟨outcome, given ▸ state, ?_⟩
  rw [given, detector, detOf_delivered_settled h settled own, fld_same view, fld_same view, countedDet]

/-- A crossing whose event goes to the fabric at once. -/
theorem crossing_atOnce {w w0 : Int} {rising : Bool} {stamp : DWord} (h : Delivers s n) (own : x / 2 = n) (hr : r = trimmed s n tap)
    (still : ∀ y, y / 2 = n → y ≠ x → Still s y) (crosses : Crosses s x w w0 rising) (ended : (detOf s x).hold ≤ 1)
    (hw : w = detValue s x r.1)
    (hstamp : stamp = crossingStamp (ballTime s n - w64 (valueStep s n)) (valueStep s n) w0 w (crossedLevel s x rising))
    (noWindow : fld s (tctl x) 7 4 = 0) :
    TakenBy [.evt] [tctl x] s (giveSample s n tap) n x r ∧ flag (giveSample s n tap) (tctl x) 31 = rising ∧
      detOf (giveSample s n tap) x = ⟨some w, windowsTaken w (detOf s x).windows, fld s (tctl x) 23 8⟩ ∧
      (giveSample s n tap).evt = (offerEvent s 13 (thresholdPacket x stamp w) s.time.aoTime).evt := by
  have settled := settled_of_watching own (watching_of_evaluates crosses.on)
  have view := sameView_delivered (r := r) h own settled
  have taken := detectSample_delivered_crosses h own crosses ended hw hstamp
  obtain ⟨step, state, detector, handed⟩ := beginEvent_crossed_atOnce (w := w) (stamp := stamp) (rising := rising)
    (known_delivered h own) (by rw [fld_same view]; exact noWindow)
  obtain ⟨given, outcome⟩ := giveSample_one h own settled hr still (taken ▸ step) (List.Subset.refl _) (by decide)
  rw [taken] at given
  refine ⟨outcome, given ▸ state, ?_, ?_⟩
  · rw [given, detector, detOf_delivered_settled h settled own, fld_same view, countedDet]
  · rw [given, handed, offered_delivered h (by rw [settled]; decide)]

/-- The first value that a detector evaluates has set its state, and one that evaluates none has its hold-off counted (R314, R317). -/
structure FirstTaken (s t : State) (x : Nat) (v : Int) : Prop where
  set : evaluates s x = true → flag t (tctl x) 31 = decide (levelOf s x ≤ detValue s x v) ∧
    detOf t x = ⟨some (detValue s x v), [], (detOf s x).hold - 1⟩
  off : evaluates s x = false → detOf t x = countedDet (detOf s x)

/-- A detector without windows whose first value is due. -/
def FirstDue (s : State) (x : Nat) : Prop := (detOf s x).windows = [] ∧ (evaluates s x = true → (detOf s x).last = none)

theorem firstTaken_detectSample (view : SameView s t x) (here : detOf t x = countedDet (detOf s x)) (known : x < t.analog.det.length)
    (due : FirstDue s x) :
    DetectorStep [.analog] [tctl x] x t (detectSample t x v b) ∧ FirstTaken s (detectSample t x v b) x v := by
  obtain ⟨noWindows, first⟩ := due
  cases on : evaluates s x with
  | false =>
    rw [detectSample_still ⟨(evaluates_same view).trans on, fun _ => by rw [here]; exact noWindows⟩]
    exact ⟨detectorStep_rfl, fun set => absurd (on.symm.trans set) (by decide), fun _ => here⟩
  | true =>
    rw [detectSample_first ((evaluates_same view).trans on) (by rw [here]; exact noWindows) (by rw [here]; exact first on),
      levelOf_same view, detValue_same view]
    refine ⟨detectorStep_turned, fun _ => ⟨flag_turned, ?_⟩, fun off => absurd (on.symm.trans off) (by decide)⟩
    rw [detOf_turned known, here, countedDet, noWindows]

/-- The other detector leaves it so. -/
theorem firstTaken_step {u : State} (taken : FirstTaken s t x v) (step : DetectorStep ps rs y t u) (regs : rs ⊆ [tctl y])
    (other : x ≠ y) : FirstTaken s u x v := by
  have state : flag u (tctl x) 31 = flag t (tctl x) 31 := by
    rw [flag, step.frame.regs _ fun hm => ?_, flag]
    have at' := List.mem_singleton.mp (regs hm)
    unfold tctl at at'
    omega
  exact ⟨fun on => by rw [state, step.other x other]; exact taken.set on, fun off => (step.other x other).trans (taken.off off)⟩

/-- Detectors whose first value this is. -/
theorem crossing_first (h : Delivers s n) (settled : (adcOf s n).settle = 0) (hr : r = trimmed s n tap)
    (due : ∀ y, y / 2 = n → FirstDue s y) :
    InputDelivered s (giveSample s n tap) n (nextSample s) r.1 r.2 ∧ (∀ y, y / 2 = n → FirstTaken s (giveSample s n tap) y r.1) ∧
      Touches [.analog, .mem] [R.adcFlag, tctl (2 * n), tctl (2 * n + 1)] s (giveSample s n tap) := by
  have even : 2 * n / 2 = n := by omega
  have odd : (2 * n + 1) / 2 = n := by omega
  have less := h.known
  obtain ⟨step, taken⟩ := firstTaken_detectSample (v := r.1) (b := ballTime s n) (sameView_delivered (r := r) h even settled)
    (detOf_delivered_settled h settled even) (known_delivered h even) (due _ even)
  have view := sameView_trans (sameView_delivered (r := r) h odd settled)
    (sameView_step step (List.Subset.refl _) (by omega) (by omega))
  obtain ⟨step', taken'⟩ := firstTaken_detectSample (v := r.1) (b := ballTime s n) view
    ((step.other _ (by omega)).trans (detOf_delivered_settled h settled odd)) (step.length.symm ▸ known_delivered h odd) (due _ odd)
  rw [giveSample_eq h (.inr (by omega)) hr, if_pos settled, ← ballTime, detectBoth]
  refine ⟨?_, fun y own => ?_, ?_⟩
  · exact inputDelivered_step (inputDelivered_step (inputDelivered_delivered h) step even (by decide) (List.Subset.refl _)) step' odd
      (by decide) (List.Subset.refl _)
  · obtain rfl | rfl : y = 2 * n ∨ y = 2 * n + 1 := by omega
    · exact firstTaken_step taken step' (List.Subset.refl _) (by omega)
    · exact taken'
  · exact touches_trans (touches_mono (touches_delivery h (by omega)) (List.Subset.refl _) (by simp))
      (touches_trans (touches_mono step.frame (by decide) (by simp)) (touches_mono step'.frame (by decide) (by simp)))

end Crossing

/-- Settles O37: the channel's sample is counted and written, and its detectors then take it in turn; which of them does more than count its
hold-off is the case of each clause. -/
theorem thresholdsCross : Obligations.ThresholdsCross := by
  refine ⟨fun s x tap n u r hn hu hr sixteen all _ clean due more value still => ?_,
    fun s x tap n u r hn hu hr sixteen all _ clean due on firsts => ?_,
    fun s x tap n u a r w w0 level stamp hn hu hr hw ha hlevel hstamp sixteen all _ clean due on still more last low up edge ended
      window => ?_,
    fun s x tap n u a r w w0 low stamp hn hu hr hw ha hlow hstamp sixteen all _ clean due on still noWindows last high down edge ended
      noWindow => ?_⟩
  all_goals subst hn hu
  all_goals have delivers : Delivers s (x / 2) := ⟨sixteen, all, clean, by omega, due⟩
  · exact ⟨_, exec_thresholdCrossing due, crossing_still delivers more value hr still⟩
  · obtain ⟨input, taken, frame⟩ := crossing_first delivers (settled_of_watching rfl (watching_of_evaluates on)) hr firsts
    exact ⟨_, exec_thresholdCrossing due, input, fun y own => (taken y own).set, fun y own => (taken y own).off, frame⟩
  · subst ha hlevel
    obtain ⟨⟨input, other, frame⟩, state, detector⟩ := crossing_waits (rising := true) delivers rfl hr still
      ⟨on, last, low, up, edge, more⟩ ended hw hstamp window
    exact ⟨_, exec_thresholdCrossing due, input, state, detector, other, frame⟩
  · subst ha hlow
    have more : ∀ v ∈ (detOf s x).windows, 1 < v.2.2 := by simp [noWindows]
    obtain ⟨⟨input, other, frame⟩, state, detector, handed⟩ := crossing_atOnce (rising := false) delivers rfl hr still
      ⟨on, last, high, down, edge, more⟩ ended hw hstamp noWindow
    rw [noWindows] at detector
    exact ⟨_, exec_thresholdCrossing due, input, state, detector, handed, other, touches_mono frame (by simp) (List.Subset.refl _)⟩

/-! ### SETTLE_DONE and THRESHOLD_EVENT (R311, R314, R316) -/

section Settling
variable {s : State} {n x : Nat} {tap : Int} {r : Int × Bool}

theorem exec_settleDone {n : Fin 16} {tap : BitVec 40} (due : canDeliver s n = true) (last : (adcOf s n).settle = 1) :
    exec (.settleDone n tap) s = .next (giveSample s n tap.toInt) := if_pos (by simp [due, last])

theorem settleDone_ignored {n : Fin 16} {tap : BitVec 40} (h : canDeliver s n = false ∨ (adcOf s n).settle ≠ 1) :
    exec (.settleDone n tap) s = .next s := if_neg fun both => by
  obtain ⟨due, last⟩ := Bool.and_eq_true_iff.mp both
  exact h.elim (fun undue => absurd (due.symm.trans undue) (by decide)) fun more => more (of_decide_eq_true last)

/-- The last of the S samples is delivered, and no detector takes it (R311). -/
theorem giveSample_last (h : Delivers s n) (last : (adcOf s n).settle = 1) (hr : r = trimmed s n tap) :
    giveSample s n tap = delivered s n r := by
  rw [giveSample_eq h (.inr (by omega)) hr, if_neg (by omega)]

/-- It clears SETTLE, and the channel's detectors begin afresh (R311, R314). -/
theorem settleDone_last (h : Delivers s n) (last : (adcOf s n).settle = 1) :
    flag (delivered s n r) R.adcStat n = false ∧
      (∀ y, y / 2 = n → detOf (delivered s n r) y = ⟨none, [], (detOf s y).hold - 1⟩) ∧
      Touches [.analog, .mem] [R.adcStat, R.adcFlag] s (delivered s n r) := by
  refine ⟨?_, fun y own => ?_, ?_⟩
  · rw [flag, (touches_delivered h).regs _ (by decide), ← flag, settle_counted_last h.known last]
  · rw [detOf_delivered h, detOf_counted_last h.detectors h.known last, if_pos own]
  · exact touches_trans (touches_mono touches_counted (by decide) (by decide)) (touches_mono (touches_delivered h) (by decide) (by decide))

theorem exec_thresholdEvent {x : Fin 32} {tap : BitVec 40} (closes : windowCloses s x = true) (due : canDeliver s (x / 2) = true) :
    exec (.thresholdEvent x tap) s = .next (giveSample s (x / 2) tap.toInt) := if_pos (by simp [closes, due])

theorem thresholdEvent_ignored {x : Fin 32} {tap : BitVec 40} (h : windowCloses s x = false ∨ canDeliver s (x.val / 2) = false) :
    exec (.thresholdEvent x tap) s = .next s := if_neg fun both => by
  obtain ⟨closes, due⟩ := Bool.and_eq_true_iff.mp both
  exact h.elim (fun stays => absurd (closes.symm.trans stays) (by decide)) fun undue => absurd (due.symm.trans undue) (by decide)

/-- The last value of a peak window hands its event over, beside whatever the detector evaluates (R316). -/
theorem windowEnds {w w0 best : Int} {stamp : DWord} {rest : List (DWord × Int × Nat)} (h : Delivers s n) (own : x / 2 = n)
    (hr : r = trimmed s n tap) (hw : w = detValue s x r.1) (watched : watching s x = true)
    (still : ∀ y, y / 2 = n → y ≠ x → Still s y) (windows : (detOf s x).windows = (stamp, best, 1) :: rest)
    (more : ∀ u ∈ rest, 1 < u.2.2)
    (between : evaluates s x = true → (detOf s x).last = some w0 ∧ if flag s (tctl x) 31 then lowOf s x ≤ w else w < levelOf s x) :
    TakenBy [.evt] [] s (giveSample s n tap) n x r ∧
      detOf (giveSample s n tap) x =
        ⟨if evaluates s x then some w else (detOf s x).last, windowsTaken w rest, (detOf s x).hold - 1⟩ ∧
      (giveSample s n tap).evt = (offerEvent s 13 (thresholdPacket x stamp (peakOf best w)) s.time.aoTime).evt := by
  have settled := settled_of_watching own watched
  have view := sameView_delivered (r := r) h own settled
  have here := detOf_delivered_settled (r := r) h settled own
  obtain ⟨step, detector, handed⟩ := detectSample_closes (v := r.1) (b := ballTime s n) (w0 := w0) (known_delivered h own)
    (view.watching.trans watched) (by rw [here]; exact windows) more (hw.trans (detValue_same view).symm)
    (by rw [evaluates_same view, here, flag_same view, lowOf_same view, levelOf_same view]; exact between)
  obtain ⟨given, taken⟩ := giveSample_one h own settled hr still step (List.nil_subset _) (by decide)
  refine ⟨taken, by rw [given, detector, evaluates_same view, here]; rfl, ?_⟩
  rw [given, handed, offered_delivered h (by rw [settled]; decide)]

end Settling

/-! ### MODULATOR_OVERLOAD (R313) -/

section Overload
variable {s : State} {n : Fin 16} {resets : Word}

theorem modulatorOverload_off (off : domainOn s 6 = false) : exec (.modulatorOverload n resets) s = .next s :=
  if_pos (by rw [off]; rfl)

/-- The channel with one more reset of its loop, which holds stage 1's input (R313). -/
def loopReset (s : State) (n : Fin 16) : AdcSt :=
  let now := s.time.aoTime + (s.time.aoTime - s.time.epoch) % 2
  { adcOf s n with holds := (adcOf s n).holds ++ [(now, 4 * (stageOneCode (adcOf s n) n (now - 2).toNat).sign)] }

/-- The loop has been reset, and OVL is set. -/
def overloaded (s : State) (n : Fin 16) : State := setFlag (resetLoop s n) R.adcFlag (16 + n.val)

/-- The overload is the first of its frame, which is noted. -/
def overloadNoted (s : State) (n : Fin 16) : State := onAdc (overloaded s n) n fun c => { c with ovlFrame := some (nowSample s / 16) }

theorem adcOf_overloaded (sixteen : s.analog.adc.length = 16) : adcOf (overloaded s n) n = loopReset s n :=
  (adcOf_congr (setFlag_analog ..)).trans (adcOf_onAdc (sixteen.symm ▸ n.isLt))

theorem adcOf_overloaded_ne {m : Nat} (other : m ≠ n.val) : adcOf (overloaded s n) m = adcOf s m :=
  (adcOf_congr (setFlag_analog ..)).trans (adcOf_onAdc_ne other)

theorem adcOf_overloadNoted (sixteen : s.analog.adc.length = 16) :
    adcOf (overloadNoted s n) n = { loopReset s n with ovlFrame := some (nowSample s / 16) } := by
  have known : n.val < (overloaded s n).analog.adc.length := by
    rw [overloaded, setFlag_analog, resetLoop, length_onAdc, sixteen]
    exact n.isLt
  rw [overloadNoted, adcOf_onAdc known, adcOf_overloaded sixteen]

theorem adcOf_overloadNoted_ne {m : Nat} (other : m ≠ n.val) : adcOf (overloadNoted s n) m = adcOf s m :=
  (adcOf_onAdc_ne other).trans (adcOf_overloaded_ne other)

theorem touches_overloaded : Touches [.analog] (R.adcFlag :: glossRegs) s (overloaded s n) :=
  touches_setFlag (touches_mono (touches_onAdc _) (List.Subset.refl _) (List.nil_subset _)) _ List.mem_cons_self

theorem touches_overloadNoted : Touches [.analog] (R.adcFlag :: glossRegs) s (overloadNoted s n) :=
  touches_analog touches_overloaded _ (by decide)

theorem flag_overloaded : flag (overloaded s n) R.adcFlag (16 + n) = true := flag_setFlag _ _ _ (by omega)

theorem nowSample_overloaded : nowSample (overloaded s n) = nowSample s := by
  have clock : (overloaded s n).time = s.time := touches_overloaded.parts.time (by decide)
  have rate : rd (overloaded s n) R.clkStat = rd s R.clkStat := touches_overloaded.regs _ (by decide)
  simp only [nowSample, tclkPerSample, rateLog, fsCode, fld, clock, rate]

/-- The first overload of a frame is noted and logged. -/
theorem exec_modulatorOverload_on (sixteen : s.analog.adc.length = 16) (on : domainOn s 6 = true) :
    exec (.modulatorOverload n resets) s =
      if (adcOf s n).ovlFrame = some (nowSample s / 16) then .next (overloaded s n)
      else .next (raiseGloss (overloadNoted s n) 0x7130 (w32 n) (w32 (nowSample s / 16)) resets) := by
  have powered : exec (.modulatorOverload n resets) s =
      if (adcOf (overloaded s n) n).ovlFrame = some (nowSample (overloaded s n) / 16) then .next (overloaded s n)
      else .next (raiseGloss (onAdc (overloaded s n) n fun c => { c with ovlFrame := some (nowSample (overloaded s n) / 16) }) 0x7130
        (w32 n) (w32 (nowSample (overloaded s n) / 16)) resets) := if_neg (by rw [on]; decide)
  rw [powered, nowSample_overloaded, adcOf_overloaded sixteen]
  rfl

theorem logged_overload :
    Logged 0x7130 (w32 n) (w32 (nowSample s / 16)) resets s
      (raiseGloss (overloadNoted s n) 0x7130 (w32 n) (w32 (nowSample s / 16)) resets) := by
  have clock : (overloadNoted s n).time = s.time := touches_overloadNoted.parts.time (by decide)
  exact logged_raiseGloss (touches_overloadNoted.parts.gloss (by decide)) ⟨by rw [clock], by rw [clock], by rw [clock], by rw [clock]⟩

theorem modulatorOverload_on (sixteen : s.analog.adc.length = 16) (on : domainOn s 6 = true) :
    ∃ t, exec (.modulatorOverload n resets) s = .next t ∧ flag t R.adcFlag (16 + n) = true ∧
      adcOf t n = { loopReset s n with ovlFrame := some (nowSample s / 16) } ∧ (∀ m, m ≠ n.val → adcOf t m = adcOf s m) ∧
      ((adcOf s n).ovlFrame = some (nowSample s / 16) → t.gloss = s.gloss) ∧
      ((adcOf s n).ovlFrame ≠ some (nowSample s / 16) → Logged 0x7130 (w32 n) (w32 (nowSample s / 16)) resets s t) ∧
      Touches [.analog, .gloss] (R.adcFlag :: glossRegs) s t := by
  by_cases again : (adcOf s n).ovlFrame = some (nowSample s / 16)
  · refine ⟨_, (exec_modulatorOverload_on sixteen on).trans (if_pos again), flag_overloaded, ?_, fun m other => adcOf_overloaded_ne other,
      fun _ => touches_overloaded.parts.gloss (by decide), fun first => absurd again first,
      touches_mono touches_overloaded (by decide) (List.Subset.refl _)⟩
    have same : (loopReset s n).ovlFrame = some (nowSample s / 16) := again
    rw [adcOf_overloaded sixteen, ← same]
  · refine ⟨_, (exec_modulatorOverload_on sixteen on).trans (if_neg again), ?_, ?_, fun m other => ?_, fun first => absurd first again,
      fun _ => logged_overload,
      touches_raiseGloss (touches_mono touches_overloadNoted (by decide) (List.Subset.refl _)) _ _ _ _ (by decide)
        (List.subset_cons_self ..)⟩
    · rw [flag_raiseGloss (by decide), overloadNoted, flag, (touches_onAdc _).regs _ List.not_mem_nil, ← flag, flag_overloaded]
    · rw [adcOf_congr (raiseGloss_analog ..), adcOf_overloadNoted sixteen]
    · rw [adcOf_congr (raiseGloss_analog ..), adcOf_overloadNoted_ne other]

end Overload

/-! ### HOLDOFF_END (R317) -/

section Holdoff
variable {s : State} {x : Fin 32}

theorem holdoffEnd_last (all : s.analog.det.length = 32) (last : (detOf s x).hold = 1) :
    ∃ t, exec (.holdoffEnd x) s = .next t ∧ detOf t x = { detOf s x with hold := 0 } ∧ (∀ y, y ≠ x.val → detOf t y = detOf s y) ∧
      Touches [.analog] [] s t :=
  ⟨_, if_pos last, detOf_onDet (all.symm ▸ x.isLt), fun _ other => detOf_onDet_ne other, touches_onDet _⟩

theorem holdoffEnd_ignored (h : (detOf s x).hold ≠ 1) : exec (.holdoffEnd x) s = .next s := if_neg h

end Holdoff

/-- Settles O38: a settled channel and a closed window are deliveries of their sample; an overload and the end of a hold-off change one
channel or one detector. -/
theorem inputEvents : Obligations.InputEvents := by
  refine ⟨fun s n tap u r hu hr sixteen all _ clean due last => ?_, fun _ _ _ h => settleDone_ignored h,
    fun s n resets now c sixteen on hnow hc => ?_, fun _ _ _ off => modulatorOverload_off off,
    fun s x tap n u a r w w0 best stamp rest hn hu hr hw ha sixteen all _ clean due watched still windows more between => ?_,
    fun _ _ _ h => thresholdEvent_ignored h, fun _ _ all last => holdoffEnd_last all last, fun _ _ h => holdoffEnd_ignored h⟩
  · have delivers : Delivers s n := ⟨sixteen, all, clean, n.isLt, due⟩
    obtain ⟨state, detectors, frame⟩ := settleDone_last (r := r) delivers last
    subst hu
    refine ⟨_, exec_settleDone due last, ?_⟩
    rw [giveSample_last delivers last hr]
    exact ⟨inputDelivered_delivered delivers, state, fun y own _ => detectors y own, frame⟩
  · subst hnow hc
    exact modulatorOverload_on sixteen on
  · subst hn hu ha
    have delivers : Delivers s (x / 2) := ⟨sixteen, all, clean, by omega, due⟩
    have closes : windowCloses s x = true := by simp [windowCloses, watched, windows]
    obtain ⟨⟨input, other, frame⟩, detector, handed⟩ := windowEnds delivers rfl hr hw watched still windows more between
    exact ⟨_, exec_thresholdEvent closes due, input, detector, handed, other,
      touches_mono frame (by decide) (List.Subset.refl _)⟩

end Sys2Proof.Inputs

/-! PROOFS. The serial ports chapter's statements: the characters that a port receives, those that it sends, and the host's access to its
registers. -/

namespace Sys2Proof.SerialPorts
open Sys2Proof.Machine Sys2Proof.Laws Sys2Proof.Architecture Sys2Proof.Concord Sys2Proof.EventFabric

/-! ### One port changes -/

section Port
variable {s t u : State} {p r : Nat} {q : SpSt} {ps : List Part} {rs : List Nat}

theorem spOf_onSp {f : SpSt → SpSt} (known : p < s.sp.length) : spOf (onSp s p f) p = f (spOf s p) := nth_modify _ _ _ _ known

theorem spOf_onSp_ne {f : SpSt → SpSt} (other : r ≠ p) : spOf (onSp s p f) r = spOf s r := nth_modify_ne _ _ _ _ _ other

theorem onSp_onSp {f g : SpSt → SpSt} : onSp (onSp s p f) p g = onSp s p (g ∘ f) := by
  rw [onSp, onSp, List.modify_modify_eq, onSp]

/-- The ports are read from their part of the state alone. -/
theorem spOf_congr (h : t.sp = s.sp) : spOf t r = spOf s r := by rw [spOf, h, spOf]

/-- A flag is read from its register alone. -/
theorem flag_congr {a i : Nat} (h : rd t a = rd s a) : flag t a i = flag s a i := by rw [flag, h, flag]

theorem fld_congr {a hi lo : Nat} (h : rd t a = rd s a) : fld t a hi lo = fld s a hi lo := by rw [fld, h, fld]

/-- A port of the eight. -/
theorem port_known (eight : s.sp.length = 8) (p : Fin 8) : p.val < s.sp.length := eight.symm ▸ p.isLt

/-- From s to t port p has become q, and no other port differs; nor does anything else but the named parts and registers. -/
structure Becomes (ps : List Part) (rs : List Nat) (s t : State) (p : Nat) (q : SpSt) : Prop where
  known : p < t.sp.length
  here  : spOf t p = q
  other : ∀ r, r ≠ p → spOf t r = spOf s r
  frame : Touches (.sp :: ps) rs s t

theorem becomes_unchanged (known : p < s.sp.length) : Becomes ps rs s s p (spOf s p) := ⟨known, rfl, fun _ _ => rfl, touches_rfl⟩

/-- The port changes once more. -/
theorem Becomes.onSp (h : Becomes ps rs s t p q) (f : SpSt → SpSt) : Becomes ps rs s (onSp t p f) p (f q) where
  known := by rw [Machine.onSp, List.length_modify]; exact h.known
  here := by rw [spOf_onSp h.known, h.here]
  other r apart := (spOf_onSp_ne apart).trans (h.other r apart)
  frame := touches_sp h.frame _ (by simp)

/-- Something else changes, and no port. -/
theorem Becomes.rest (h : Becomes ps rs s t p q) (ports : u.sp = t.sp) (frame : Touches (.sp :: ps) rs t u) : Becomes ps rs s u p q where
  known := ports ▸ h.known
  here := (spOf_congr ports).trans h.here
  other r apart := (spOf_congr ports).trans (h.other r apart)
  frame := touches_trans h.frame frame

theorem Becomes.wr (h : Becomes ps rs s t p q) {a : Nat} (v : Word) (named : a ∈ rs) : Becomes ps rs s (wr t a v) p q :=
  h.rest (wr_sp ..) (touches_wr touches_rfl _ named)

theorem Becomes.setFlag (h : Becomes ps rs s t p q) {a : Nat} (i : Nat) (named : a ∈ rs) : Becomes ps rs s (setFlag t a i) p q :=
  h.rest (setFlag_sp ..) (touches_setFlag touches_rfl _ named)

theorem Becomes.countUp (h : Becomes ps rs s t p q) {a : Nat} (named : a ∈ rs) : Becomes ps rs s (countUp t a) p q :=
  h.rest (countUp_sp ..) (touches_countUp touches_rfl named)

theorem Becomes.raiseGloss (h : Becomes ps rs s t p q) (code : Nat) (d0 d1 d2 : Word) (gloss : Part.gloss ∈ ps) (named : glossRegs ⊆ rs) :
    Becomes ps rs s (raiseGloss t code d0 d1 d2) p q :=
  h.rest (raiseGloss_sp ..) (touches_raiseGloss touches_rfl _ _ _ _ (by simp [gloss]) named)

/-- One change of the port after another. -/
theorem Becomes.next {q' : SpSt} (h : Becomes [] [] s t p q) (k : Becomes ps rs t u p q') : Becomes ps rs s u p q' where
  known := k.known
  here := k.here
  other r apart := (k.other r apart).trans (h.other r apart)
  frame := touches_trans (touches_mono h.frame (by simp) (List.nil_subset _)) k.frame

/-- With RTSEN = 0 the receive count moves nothing (R335). -/
theorem rtsFollow_off {s : State} {p : Nat} (off : flag s (spReg p 8) 4 = false) : rtsFollow s p = s := by simp [rtsFollow, off]

end Port

/-! ### The registers of a port (R345) -/

section Registers
variable {s t : State} {p : Fin 8} {o : Nat} {v : Word}

/-- Two offsets in a port's page are two registers. -/
theorem spReg_apart {p a b : Nat} (h : a ≠ b) : spReg p a ≠ spReg p b := by unfold spReg; omega

theorem rd_setFlag_apart {p a b i : Nat} (h : a ≠ b) : rd (setFlag s (spReg p b) i) (spReg p a) = rd s (spReg p a) :=
  rd_wr_ne _ _ _ _ (spReg_apart h)

theorem rd_countUp_apart {p a b : Nat} (h : a ≠ b) : rd (countUp s (spReg p b)) (spReg p a) = rd s (spReg p a) :=
  rd_countUp_ne _ _ _ (spReg_apart h)

/-- The recorder counts in no register of a port. -/
theorem spReg_notGloss (p : Fin 8) (h : o < 0x1000) : spReg p o ∉ glossRegs := by
  intro member
  have above : ∀ a ∈ glossRegs, 0x400C0000 ≤ a := by decide
  have := above _ member
  have := p.isLt
  unfold spReg R.spPage at *
  omega

/-- Where a register of a port lies: its page, its port, its offset. -/
theorem spReg_place (p : Fin 8) (h : o < 0x1000) :
    pageOf (spReg p o) = R.spPage ∧ spReg p o % 0x10000 / 0x1000 = p.val ∧ spReg p o % 0x1000 = o := by
  have := p.isLt
  unfold pageOf spReg R.spPage
  omega

theorem errReg_sp (p : Fin 8) (h : o < 0x1000) : pageOf (spReg p o) + 0xFFFC = R.spErr := by rw [(spReg_place p h).1]; rfl

theorem spReg_ne_spErr (p : Fin 8) (h : o < 0x1000) : spReg p o ≠ R.spErr := by
  have := p.isLt
  unfold spReg R.spPage R.spErr
  omega

theorem pwrStat_ne_spReg (p : Fin 8) : R.pwrStat ≠ spReg p o := by unfold spReg R.spPage R.pwrStat; omega

/-- The offsets of the registers that the rows of this chapter write. -/
def writtenOffsets : List Nat := [0x04, 0x08, 0x18, 0x38]

/-- None of them is a register of another page whose write is an operation, or of the arrays of such registers. -/
theorem spReg_noOperation (p : Fin 8) : ∀ o ∈ writtenOffsets,
    (∀ b ∈ Inputs.singleOperationRegs, spReg p o ≠ b) ∧ spReg p o % 0x10000 ≠ 0xFFFC ∧ chanOf R.glossOvr 4 16 (spReg p o) = none ∧
    chanOf R.vdbgVctl 0x40 16 (spReg p o) = none ∧ chanOf R.vdbgVrdata 0x40 16 (spReg p o) = none ∧
    chanOf R.nvmSbuf 4 1024 (spReg p o) = none ∧ chanOf R.vdbgVfault 4 16 (spReg p o) = none := by
  revert p
  decide

/-- Their operations are those of the page alone. -/
theorem commandReg_sp (written : o ∈ writtenOffsets) : commandReg s false (spReg p o) v = serialCommand s (spReg p o) v := by
  obtain ⟨single, noErr, override, control, word, buffer, fault⟩ := spReg_noOperation p o written
  simp only [Inputs.singleOperationRegs, List.mem_cons, List.not_mem_nil, or_false, forall_eq_or_imp, forall_eq] at single
  have power : powerCommand s (spReg p o) v = none := by simp only [powerCommand, single, if_false, buffer]
  have record : recordCommand s (spReg p o) v = none := by simp only [recordCommand, noErr, single, if_false, fault]
  simp only [commandReg, single, if_false, override, control, word, power, record]

/-- What the page does with a write at an offset. -/
theorem serialCommand_sp (h : o < 0x1000) : serialCommand s (spReg p o) v =
    if o = 0x18 then some (writeSpCmd s p v) else if o = 0x38 then some (writeTxd s p v) else none := by
  obtain ⟨page, port, offset⟩ := spReg_place p h
  have few : ¬8 ≤ p.val := Nat.not_le.mpr p.isLt
  simp only [serialCommand, page, port, offset, few, ne_eq, not_true, or_self, if_false]
  split
  · rfl
  · rfl
  · rename_i noCmd noTxd
    rw [if_neg noCmd, if_neg noTxd]

/-- Only CFG and FLOW are refused beyond their encodings. -/
theorem checkWrite_sp (h : o < 0x1000) (noCfg : o ≠ 0x00) (noFlow : o ≠ 0x0C) : checkWrite s (spReg p o) v = none := by
  obtain ⟨-, -, offset⟩ := spReg_place p h
  have page : spReg p o / 0x10000 = 0x400B := by
    have := p.isLt
    unfold spReg R.spPage
    omega
  have port : checkSp s (spReg p o) v = none := by
    unfold checkSp
    rw [offset]
    split
    · rfl
    · split
      · exact absurd rfl noCfg
      · exact absurd rfl noFlow
      · rfl
  simp only [checkWrite, page, port]

/-- What a taken write does beyond its fields is the page's own. -/
theorem afterWrite_sp {old : Word} (h : o < 0x1000) : afterWrite s (spReg p o) old v =
    if o = 0x00 then afterSpCfg s p old else if o = 0x04 then afterBaud s p else if o = 0x08 then afterSpCtl s p old else s := by
  obtain ⟨page, port, offset⟩ := spReg_place p h
  have := p.isLt
  have cfg : spReg p o ≠ R.tenseCfg := by unfold spReg R.spPage R.tenseCfg; omega
  have tempo : spReg p o ≠ R.tenseTempo := by unfold spReg R.spPage R.tenseTempo; omega
  have inside : spReg p o % 0x10000 < 0x8000 := by unfold spReg R.spPage; omega
  simp only [afterWrite, cfg, tempo, if_false, page, inside, and_self, if_true, port, offset]

end Registers

/-! ### Writes of a port's registers (R5, R9, R345) -/

section Writing
variable {s t u : State} {p : Fin 8} {o : Nat} {v : Word} {q : SpSt} {ps : List Part} {rs : List Nat} {d : RegDesc}

/-- What a write does to a port while the page's ERR register is looked at from 0, it does when that is put back. -/
theorem Becomes.judged (h : Becomes ps rs (Machine.wr s R.spErr 0) u p q) :
    Becomes ps rs s (Machine.wr u R.spErr (rd s R.spErr)) p q where
  known := (wr_sp u _ _).symm ▸ h.known
  here := (spOf_congr (wr_sp ..)).trans h.here
  other r apart := (spOf_congr (wr_sp ..)).trans ((h.other r apart).trans (spOf_congr (wr_sp ..)))
  frame := touches_taken _ h.frame

/-- The page's ERR register is looked at from 0. -/
theorem becomes_looked (known : p.val < s.sp.length) : Becomes ps rs (wr s R.spErr 0) (wr s R.spErr 0) p (spOf s p) :=
  spOf_congr (wr_sp s R.spErr 0) ▸ becomes_unchanged ((wr_sp s R.spErr 0).symm ▸ known)

/-- A write that is an operation on the port. -/
theorem regWrite_operation {f : State → State} (may : HostMayWrite s (spReg p o)) (row : Writable (spReg p o) d) (h : o < 0x1000)
    (operation : ∀ u, commandReg u false (spReg p o) v = some (f u))
    (effect : Becomes ps [] (wr s R.spErr 0) (f (wr s R.spErr 0)) p q) : Becomes ps [] s (regWrite s (spReg p o) v) p q := by
  obtain ⟨value, -⟩ := command_done (ps := .sp :: ps) (rs := []) (f := f) may row (operation _)
    (by rw [errReg_sp p h]; exact effect.frame) List.not_mem_nil List.not_mem_nil
  rw [value, errReg_sp p h]
  exact effect.judged

/-- The fields of a register have taken the value written, and the page's ERR register is looked at from 0. -/
def spFieldsTaken (s : State) (p : Fin 8) (o : Nat) (d : RegDesc) (v : Word) : State :=
  wr (wr s R.spErr 0) (spReg p o) (plainValue d (rd s (spReg p o)) v)

theorem rd_spFieldsTaken : rd (spFieldsTaken s p o d v) (spReg p o) = plainValue d (rd s (spReg p o)) v := rd_wr ..

theorem rd_spFieldsTaken_apart {a : Nat} (other : a ≠ o) (h : a < 0x1000) :
    rd (spFieldsTaken s p o d v) (spReg p a) = rd s (spReg p a) :=
  (rd_wr_ne _ _ _ _ (spReg_apart other)).trans (rd_wr_ne _ _ _ _ (spReg_ne_spErr p h))

theorem becomes_spFieldsTaken (known : p.val < s.sp.length) :
    Becomes [] [spReg p o] (wr s R.spErr 0) (spFieldsTaken s p o d v) p (spOf s p) :=
  (becomes_looked known).wr _ List.mem_cons_self

/-- A write of a register that keeps a value: its fields take theirs, and the port follows. -/
theorem regWrite_fields {f : SpSt → SpSt} (may : HostMayWrite s (spReg p o)) (known : p.val < s.sp.length) (row : Writable (spReg p o) d)
    (h : o < 0x1000) (kept : ∀ u, commandReg u false (spReg p o) v = none) (allowed : ∀ u, checkWrite u (spReg p o) v = none)
    (defined : undefinedField d v = false) (closed : d.close = .none) (noCounter : isCounter d = false) (unstaged : d.rws = 0)
    (follows : afterWrite (spFieldsTaken s p o d v) (spReg p o) (rd s (spReg p o)) v = onSp (spFieldsTaken s p o d v) p f) :
    rd (regWrite s (spReg p o) v) (spReg p o) = plainValue d (rd s (spReg p o)) v ∧
      Becomes [] [spReg p o] s (regWrite s (spReg p o) v) p (f (spOf s p)) := by
  have effect := (becomes_spFieldsTaken (o := o) (d := d) (v := v) known).onSp f
  have frame : Touches [.sp] [spReg p o] (wr s R.spErr 0) (afterWrite (spFieldsTaken s p o d v) (spReg p o) (rd s (spReg p o)) v) := by
    rw [follows]
    exact effect.frame
  have done := plain_after (v := v) (ps := [.sp]) (rs := [spReg p o]) may row kept defined
  rw [errReg_sp p h] at done
  obtain ⟨value, -⟩ := done (allowed _) (by simp [changesClosed, isClosed, closed]) noCounter unstaged frame
    (mt List.mem_singleton.mp (spReg_ne_spErr p h).symm) (mt List.mem_singleton.mp (pwrStat_ne_spReg p))
  replace value := value.trans (congrArg (wr · R.spErr (rd s R.spErr)) follows)
  rw [value, rd_wr_ne _ _ _ _ (spReg_ne_spErr p h), rd_congr (onSp_regs ..), rd_spFieldsTaken]
  exact ⟨rfl, effect.judged⟩

end Writing

/-! ### BAUD_WRITE and BAUD_APPLY (R322) -/

/-- The row of SPn.BAUD (Table 5). -/
def spBaudDesc : RegDesc := ⟨R.spBaud, 4096, 8, 0x3126E9, 0x7FFFFFFF, 0, 0, 0, 0, 0x80000000, .none, [(29, 28, 0, 2), (27, 16, 1, 4095)]⟩

/-- The receiver has applied a setting. -/
def rxApplied (b : Word) (q : SpSt) : SpSt := { q with rxBaud := b, rxPend := none }

/-- A setting has been staged at an AOTIME, pending on both sides; a disabled receiver has applied it at once. -/
def baudStaged (enabled : Bool) (now : DWord) (b : Word) (q : SpSt) : SpSt :=
  if enabled then { q with rxPend := some now, txPend := true } else { q with rxBaud := b, rxPend := none, txPend := true }

section Baud
variable {s t : State} {p : Fin 8} {v b : Word} {q : SpSt} {ps : List Part} {rs : List Nat}

theorem writable_spBaud (p : Fin 8) : Writable (spReg p 0x04) spBaudDesc := by constructor <;> revert p <;> decide

theorem commandReg_spBaud (u : State) : commandReg u false (spReg p 0x04) v = none :=
  (commandReg_sp (by decide)).trans (serialCommand_sp (by decide))

/-- OS 3 and DIVI 0 are undefined (R322). -/
theorem undefinedField_spBaud : undefinedField spBaudDesc v = (decide (2 < bits v 29 28) || decide (bits v 27 16 < 1)) := by
  have divi : bits v 27 16 ≤ 4095 := Nat.le_of_lt_succ (Nat.mod_lt _ (by decide))
  simp [undefinedField, spBaudDesc, Nat.not_lt.mpr divi]

/-- SPn.BAUD without PEND (Table 5). -/
theorem setBits_pend (w : Word) : setBits w 31 31 0 = w &&& 0x7FFFFFFF := by
  have low : (w &&& 0x7FFFFFFF).toNat = w.toNat % 2 ^ 31 := by
    rw [BitVec.toNat_and]
    exact Nat.and_two_pow_sub_one_eq_mod w.toNat 31
  have := w.isLt
  apply BitVec.eq_of_toNat_eq
  rw [low]
  simp only [setBits, bits, BitVec.toNat_ofNat]
  omega

/-- The setting that a write of SPn.BAUD stages. -/
theorem staged_plainValue {old : Word} : setBits (plainValue spBaudDesc old v) 31 31 0 = v &&& 0x7FFFFFFF := by
  have fields : plainValue spBaudDesc old v = (old &&& ~~~0x7FFFFFFF) ||| (v &&& 0x7FFFFFFF) := by
    show ((old &&& ~~~0x7FFFFFFF) ||| (v &&& 0x7FFFFFFF)) &&& ~~~(v &&& 0#32) = _
    rw [BitVec.and_zero, BitVec.not_zero, BitVec.and_allOnes]
  rw [setBits_pend, fields, BitVec.and_or_distrib_right, BitVec.and_assoc, BitVec.and_assoc, BitVec.and_self]
  simp

theorem stagedBaud_congr (h : rd t (spReg p 4) = rd s (spReg p 4)) : stagedBaud t p = stagedBaud s p := by
  rw [stagedBaud, h, stagedBaud]

theorem applyRxBaud_eq : applyRxBaud s p = onSp s p (rxApplied (stagedBaud s p)) := rfl

theorem afterBaud_eq : afterBaud s p = onSp s p (baudStaged (flag s (spReg p 8) 0) s.time.aoTime (stagedBaud s p)) := by
  unfold baudStaged
  cases enabled : flag s (spReg p 8) 0 with
  | true => exact if_pos enabled
  | false => exact (if_neg (Bool.eq_false_iff.mp enabled)).trans onSp_onSp

theorem baudWrite_taken (may : HostMayWrite s (spReg p 4)) (eight : s.sp.length = 8) (os : bits v 29 28 ≤ 2)
    (divi : bits v 27 16 ≠ 0) (setting : b = v &&& 0x7FFFFFFF) :
    ∃ t, exec (.baudWrite p v) s = .next t ∧ stagedBaud t p = b ∧
      spOf t p = (if flag s (spReg p 8) 0 then { spOf s p with rxPend := some s.time.aoTime, txPend := true }
        else { spOf s p with rxBaud := b, rxPend := none, txPend := true }) ∧
      baudPending t p = true ∧ (∀ r, r ≠ p.val → spOf t r = spOf s r) ∧ Touches [.sp] [spReg p 4] s t := by
  have defined : undefinedField spBaudDesc v = false := by
    rw [undefinedField_spBaud, decide_eq_false (Nat.not_lt.mpr os), decide_eq_false (by omega)]
    rfl
  have staged : stagedBaud (spFieldsTaken s p 0x04 spBaudDesc v) p = b := by
    rw [stagedBaud, rd_spFieldsTaken, staged_plainValue, setting]
  have enable : flag (spFieldsTaken s p 0x04 spBaudDesc v) (spReg p 8) 0 = flag s (spReg p 8) 0 :=
    flag_congr (rd_spFieldsTaken_apart (by decide) (by decide))
  have clock : (spFieldsTaken s p 0x04 spBaudDesc v).time = s.time := (wr_time ..).trans (wr_time ..)
  have follows : afterWrite (spFieldsTaken s p 0x04 spBaudDesc v) (spReg p 0x04) (rd s (spReg p 0x04)) v =
      onSp (spFieldsTaken s p 0x04 spBaudDesc v) p (baudStaged (flag s (spReg p 8) 0) s.time.aoTime b) := by
    rw [← enable, ← clock, ← staged, ← afterBaud_eq]
    exact afterWrite_sp (by decide)
  obtain ⟨value, done⟩ := regWrite_fields may (port_known eight p) (writable_spBaud p) (by decide) commandReg_spBaud
    (fun _ => checkWrite_sp (by decide) (by decide) (by decide)) defined rfl rfl rfl follows
  refine ⟨_, rfl, ?_, done.here, ?_, done.other, done.frame⟩
  · rw [stagedBaud, value, staged_plainValue, setting]
  · rw [baudPending, done.here, baudStaged]
    cases flag s (spReg p 8) 0 <;> rfl

theorem baudWrite_refused (may : HostMayWrite s (spReg p 4)) (undefined : bits v 29 28 = 3 ∨ bits v 27 16 = 0) :
    Refused s (regWrite s (spReg p 4) v) (spReg p 4) true := by
  refine command_refused true may (writable_spBaud p) (Scope.writeOn_undefined (commandReg_spBaud _) ?_)
  rw [undefinedField_spBaud, Bool.or_eq_true, decide_eq_true_eq, decide_eq_true_eq]
  omega

/-- The transmitter has applied the setting staged: its divider goes on from where its character ends, or from its next tick. -/
theorem baudApply_transmit {g : Nat × Nat} {c : Nat} (eight : s.sp.length = 8) (boundary : txIdle s p = true ∨ flag s (spReg p 8) 1 = false)
    (tick : g = gridFrom (spOf s p).txBaud (spOf s p).txGrid (match (spOf s p).txBusy with | some t => t.toNat | none => nowQuarter s))
    (clock : c = srcQuarters (stagedBaud s p)) :
    ∃ t, exec (.baudApply p true) s = .next t ∧
      spOf t p = { spOf s p with txBaud := stagedBaud s p, txPend := false, txGrid := ((g.1 + c - 1) / c * c, g.2) } ∧
      (∀ r, r ≠ p.val → spOf t r = spOf s r) ∧ Touches [.sp] [] s t := by
  have applies : exec (.baudApply p true) s = .next (applyTxBaud s p) := if_pos (by simpa using boundary)
  have done : Becomes [] [] s (applyTxBaud s p) p _ := (becomes_unchanged (port_known eight p)).onSp _
  subst tick clock
  exact ⟨_, applies, done.here, done.other, done.frame⟩

theorem baudApply_receive (eight : s.sp.length = 8) (idle : rxIdle s p = true) :
    ∃ t, exec (.baudApply p false) s = .next t ∧ spOf t p = { spOf s p with rxBaud := stagedBaud s p, rxPend := none } ∧
      (∀ r, r ≠ p.val → spOf t r = spOf s r) ∧ Touches [.sp] [] s t := by
  have done : Becomes [] [] s (applyRxBaud s p) p _ := (becomes_unchanged (port_known eight p)).onSp _
  exact ⟨_, if_pos idle, done.here, done.other, done.frame⟩

theorem baudApply_transmit_later (busy : txIdle s p = false) (enabled : flag s (spReg p 8) 1 = true) :
    exec (.baudApply p true) s = .next s := if_neg (by simp [busy, enabled])

theorem baudApply_receive_later (busy : rxIdle s p = false) : exec (.baudApply p false) s = .next s := if_neg (by simp [busy])

end Baud

/-! ### SERIAL_CONTROL_WRITE (R335, R342) -/

/-- The row of SPn.CTL (Table 6). -/
def spCtlDesc : RegDesc := ⟨R.spCtl, 4096, 8, 0x40, 0x73, 0, 0, 0, 0, 0, .none, []⟩

/-- The receiver has been enabled: it is idle (R342). -/
def rxEnabled (q : SpSt) : SpSt := { q with rxBusy := none, own := false, echo := none }

/-- The receiver has been disabled: a character being received is lost, and a setting staged is applied (R322, R342). -/
def rxDisabled (b : Word) (q : SpSt) : SpSt :=
  { q with rxBusy := none, own := false, echo := none, loss := q.loss || q.rxBusy.isSome, rxBaud := b, rxPend := none }

section Control
variable {s : State} {p : Fin 8} {v old : Word}

theorem writable_spCtl (p : Fin 8) : Writable (spReg p 0x08) spCtlDesc := by constructor <;> revert p <;> decide

theorem commandReg_spCtl (u : State) : commandReg u false (spReg p 0x08) v = none :=
  (commandReg_sp (by decide)).trans (serialCommand_sp (by decide))

theorem plainValue_spCtl : plainValue spCtlDesc old v = (old &&& ~~~0x73) ||| (v &&& 0x73) := by
  show ((old &&& ~~~0x73) ||| (v &&& 0x73)) &&& ~~~(v &&& 0#32) = _
  rw [BitVec.and_zero, BitVec.not_zero, BitVec.and_allOnes]

/-- RXEN and RTSEN read as written. -/
theorem flag_ctlTaken {i : Nat} (field : i = 0 ∨ i = 4) : flag (spFieldsTaken s p 0x08 spCtlDesc v) (spReg p 8) i = bitOf v i := by
  rw [flag, rd_spFieldsTaken, plainValue_spCtl]
  rcases field with rfl | rfl <;> simp [bitOf_getLsbD]

/-- With RTSEN as it was, what follows a write is the receiver's. -/
theorem afterSpCtl_enabled (was : bitOf old 0 = false) (now : flag s (spReg p 8) 0 = true) (rts : flag s (spReg p 8) 4 = bitOf old 4) :
    afterSpCtl s p old = onSp s p rxEnabled := by
  have now' : bitOf (rd s (spReg p 8)) 0 = true := now
  have rts' : bitOf (rd s (spReg p 8)) 4 = bitOf old 4 := rts
  simp only [afterSpCtl, was, now', rts', Bool.not_false, Bool.and_self, Bool.not_and_self, if_true, Bool.false_eq_true, if_false]
  rfl

theorem afterSpCtl_disabled (was : bitOf old 0 = true) (now : flag s (spReg p 8) 0 = false) (rts : flag s (spReg p 8) 4 = bitOf old 4) :
    afterSpCtl s p old = onSp s p (rxDisabled (stagedBaud s p)) := by
  have now' : bitOf (rd s (spReg p 8)) 0 = false := now
  have rts' : bitOf (rd s (spReg p 8)) 4 = bitOf old 4 := rts
  simp only [afterSpCtl, was, now', rts', Bool.not_true, Bool.not_false, Bool.and_self, Bool.not_and_self, if_true,
    Bool.false_eq_true, if_false, applyRxBaud_eq, onSp_onSp]
  rfl

/-- A write of CTL that leaves RTSEN as it stands. -/
theorem serialControlWrite_taken {f : SpSt → SpSt} (may : HostMayWrite s (spReg p 8)) (eight : s.sp.length = 8)
    (follows : afterSpCtl (spFieldsTaken s p 0x08 spCtlDesc v) p (rd s (spReg p 8)) = onSp (spFieldsTaken s p 0x08 spCtlDesc v) p f) :
    ∃ t, exec (.serialControlWrite p v) s = .next t ∧ rd t (spReg p 8) = (rd s (spReg p 8) &&& ~~~0x73) ||| (v &&& 0x73) ∧
      spOf t p = f (spOf s p) ∧ (∀ r, r ≠ p.val → spOf t r = spOf s r) ∧ Touches [.sp] [spReg p 8] s t := by
  obtain ⟨value, done⟩ := regWrite_fields may (port_known eight p) (writable_spCtl p) (by decide) commandReg_spCtl
    (fun _ => checkWrite_sp (by decide) (by decide) (by decide)) rfl rfl rfl rfl ((afterWrite_sp (by decide)).trans follows)
  exact ⟨_, rfl, value.trans plainValue_spCtl, done.here, done.other, done.frame⟩

theorem serialControlWrite_enables (may : HostMayWrite s (spReg p 8)) (eight : s.sp.length = 8) (was : flag s (spReg p 8) 0 = false)
    (now : bitOf v 0 = true) (rts : bitOf v 4 = flag s (spReg p 8) 4) :
    ∃ t, exec (.serialControlWrite p v) s = .next t ∧ rd t (spReg p 8) = (rd s (spReg p 8) &&& ~~~0x73) ||| (v &&& 0x73) ∧
      spOf t p = rxEnabled (spOf s p) ∧ (∀ r, r ≠ p.val → spOf t r = spOf s r) ∧ Touches [.sp] [spReg p 8] s t :=
  serialControlWrite_taken may eight
    (afterSpCtl_enabled was ((flag_ctlTaken (.inl rfl)).trans now) ((flag_ctlTaken (.inr rfl)).trans rts))

theorem serialControlWrite_disables (may : HostMayWrite s (spReg p 8)) (eight : s.sp.length = 8) (was : flag s (spReg p 8) 0 = true)
    (now : bitOf v 0 = false) (rts : bitOf v 4 = flag s (spReg p 8) 4) :
    ∃ t, exec (.serialControlWrite p v) s = .next t ∧ rd t (spReg p 8) = (rd s (spReg p 8) &&& ~~~0x73) ||| (v &&& 0x73) ∧
      spOf t p = rxDisabled (stagedBaud s p) (spOf s p) ∧ (∀ r, r ≠ p.val → spOf t r = spOf s r) ∧ Touches [.sp] [spReg p 8] s t := by
  have staged : stagedBaud (spFieldsTaken s p 0x08 spCtlDesc v) p = stagedBaud s p :=
    stagedBaud_congr (rd_spFieldsTaken_apart (by decide) (by decide))
  rw [← staged]
  exact serialControlWrite_taken may eight
    (afterSpCtl_disabled was ((flag_ctlTaken (.inl rfl)).trans now) ((flag_ctlTaken (.inr rfl)).trans rts))

end Control

/-! ### RXFLUSH, TXFLUSH, MUTE, TRANSMIT_DATA (R332, R333, R342) -/

/-- The row of SPn.CMD. -/
def spCmdDesc : RegDesc := ⟨R.spCmd, 4096, 8, 0x0, 0, 0, 0, 0x7, 0, 0, .none, []⟩

/-- The row of SPn.TXD. -/
def spTxdDesc : RegDesc := ⟨R.spTxd, 4096, 8, 0x0, 0, 0, 0, 0x1FF, 0, 0, .none, []⟩

section Commands
variable {s : State} {p : Fin 8} {o : Nat} {v : Word}

theorem writable_spCmd (p : Fin 8) : Writable (spReg p 0x18) spCmdDesc := by constructor <;> revert p <;> decide

theorem writable_spTxd (p : Fin 8) : Writable (spReg p 0x38) spTxdDesc := by constructor <;> revert p <;> decide

theorem commandReg_spCmd (u : State) : commandReg u false (spReg p 0x18) v = some (writeSpCmd u p v) :=
  (commandReg_sp (by decide)).trans (serialCommand_sp (by decide))

theorem commandReg_spTxd (u : State) : commandReg u false (spReg p 0x38) v = some (writeTxd u p v) :=
  (commandReg_sp (by decide)).trans (serialCommand_sp (by decide))

/-- A port's register does not see the page's ERR register. -/
theorem rd_looked (h : o < 0x1000) : rd (wr s R.spErr 0) (spReg p o) = rd s (spReg p o) := rd_wr_ne _ _ _ _ (spReg_ne_spErr p h)

/-- A write of CMD that is one change of the port. -/
theorem spCmd_taken {f : SpSt → SpSt} (may : HostMayWrite s (spReg p 0x18)) (eight : s.sp.length = 8)
    (command : writeSpCmd (wr s R.spErr 0) p v = onSp (wr s R.spErr 0) p f) :
    spOf (regWrite s (spReg p 0x18) v) p = f (spOf s p) ∧ (∀ r, r ≠ p.val → spOf (regWrite s (spReg p 0x18) v) r = spOf s r) ∧
      Touches [.sp] [] s (regWrite s (spReg p 0x18) v) := by
  have effect := (becomes_looked (ps := []) (rs := []) (port_known eight p)).onSp f
  rw [← command] at effect
  obtain ⟨_, here, other, frame⟩ := regWrite_operation may (writable_spCmd p) (by decide) commandReg_spCmd effect
  exact ⟨here, other, frame⟩

theorem writeSpCmd_rxflush (u : State) : writeSpCmd u p 1 = rxFlush u p := rfl

theorem writeSpCmd_txflush (u : State) : writeSpCmd u p 2 = txFlush u p := rfl

theorem writeSpCmd_mute (u : State) : writeSpCmd u p 4 = setMute u p := rfl

theorem rxFlush_off (off : flag s (spReg p 8) 4 = false) :
    rxFlush s p = onSp s p fun q => { q with rxq := [], loss := true, flushed := some s.time.aoTime } := rtsFollow_off off

theorem rxflush_taken (may : HostMayWrite s (spReg p 0x18)) (eight : s.sp.length = 8) (off : flag s (spReg p 8) 4 = false) :
    ∃ t, exec (.rxflush p) s = .next t ∧ spOf t p = { spOf s p with rxq := [], loss := true, flushed := some s.time.aoTime } ∧
      (∀ r, r ≠ p.val → spOf t r = spOf s r) ∧ Touches [.sp] [] s t := by
  have off' : flag (wr s R.spErr 0) (spReg p 8) 4 = false := (flag_congr (rd_looked (by decide))).trans off
  have clock : (wr s R.spErr 0).time = s.time := wr_time ..
  exact ⟨_, rfl, spCmd_taken may eight (clock ▸ (writeSpCmd_rxflush _).trans (rxFlush_off off'))⟩

/-- A character for the transmit queue, which the host writes (R333). -/
theorem writeTxd_queued (host : fld s (spReg p 0) 18 17 = 1) (room : (spOf s p).txq.length < 128) :
    writeTxd s p v = onSp s p fun q => { q with txq := q.txq ++ [⟨BitVec.ofNat 9 v.toNat, none⟩] } := by
  have fits : fld s (spReg p 0) 18 17 = 1 ∧ (spOf s p).txq.length + [BitVec.ofNat 9 v.toNat].length ≤ 128 := ⟨host, room⟩
  rw [writeTxd, spPut, if_pos fits]
  rfl

theorem writeTxd_ignored (closed : fld s (spReg p 0) 18 17 ≠ 1 ∨ 128 ≤ (spOf s p).txq.length) :
    writeTxd s p v = setFlag s (spReg p 0x1C) 8 := by
  have full : ¬(fld s (spReg p 0) 18 17 = 1 ∧ (spOf s p).txq.length + [BitVec.ofNat 9 v.toNat].length ≤ 128) := by
    rw [List.length_singleton]
    omega
  rw [writeTxd, spPut, if_neg full]

theorem transmitData_queued (may : HostMayWrite s (spReg p 0x38)) (eight : s.sp.length = 8) (host : fld s (spReg p 0) 18 17 = 1)
    (room : (spOf s p).txq.length < 128) :
    ∃ t, exec (.transmitData p v) s = .next t ∧
      spOf t p = { spOf s p with txq := (spOf s p).txq ++ [⟨BitVec.ofNat 9 v.toNat, none⟩] } ∧
      (∀ r, r ≠ p.val → spOf t r = spOf s r) ∧ Touches [.sp] [] s t := by
  have queued := writeTxd_queued (s := wr s R.spErr 0) (p := p) (v := v) ((fld_congr (rd_looked (by decide))).trans host)
    (by rw [spOf_congr (wr_sp ..)]; exact room)
  have effect := (becomes_looked (ps := []) (rs := []) (port_known eight p)).onSp
    fun q => { q with txq := q.txq ++ [⟨BitVec.ofNat 9 v.toNat, none⟩] }
  rw [← queued] at effect
  obtain ⟨_, here, other, frame⟩ := regWrite_operation may (writable_spTxd p) (by decide) commandReg_spTxd effect
  exact ⟨_, rfl, here, other, frame⟩

theorem transmitData_ignored (may : HostMayWrite s (spReg p 0x38))
    (closed : fld s (spReg p 0) 18 17 ≠ 1 ∨ 128 ≤ (spOf s p).txq.length) :
    ∃ t, exec (.transmitData p v) s = .next t ∧ flag t (spReg p 0x1C) 8 = true ∧ Touches [] [spReg p 0x1C] s t := by
  have ignored := writeTxd_ignored (s := wr s R.spErr 0) (p := p) (v := v)
    (by rw [spOf_congr (wr_sp ..), fld_congr (rd_looked (by decide))]; exact closed)
  obtain ⟨value, frame⟩ := command_done (ps := []) (rs := [spReg p 0x1C]) (f := fun u => writeTxd u p v) may (writable_spTxd p)
    (commandReg_spTxd _)
    (by rw [errReg_sp p (by decide), ignored]; exact touches_setFlag touches_rfl _ List.mem_cons_self)
    (by rw [errReg_sp p (by decide)]; exact mt List.mem_singleton.mp (spReg_ne_spErr p (by decide)).symm)
    (mt List.mem_singleton.mp (pwrStat_ne_spReg p))
  refine ⟨_, rfl, ?_, frame⟩
  rw [value, errReg_sp p (by decide), ignored, flag_congr (rd_wr_ne _ _ _ _ (spReg_ne_spErr p (by decide)))]
  exact flag_setFlag _ _ _ (by decide)

end Commands

/-! ### RECEIVE_DATA_READ (R330, R345) -/

section Reading
variable {s : State} {p : Fin 8} {e : RxEntry} {rest : List RxEntry}

theorem rxd_place (p : Fin 8) :
    rxdPort (spReg p 0x30) = some p.val ∧ vrdataVerb (spReg p 0x30) = none ∧ regionOf (spReg p 0x30) = .page := by
  revert p
  decide

/-- SPn.RXD is read with its effect on the port. -/
theorem readOne_rxd (may : HostMayWrite s (spReg p 0x30)) :
    readOne s (spReg p 0x30) =
      { (readRxd s p).1 with host := { (readRxd s p).1.host with out := (readRxd s p).1.host.out ++ [(readRxd s p).2] } } := by
  obtain ⟨rxd, noVrdata, page⟩ := rxd_place p
  have opened : memoryOpen s (spReg p 0x30) = true := by simp [memoryOpen, regionDomain, page, may.domain]
  simp [readOne, hostRead, may.tap, readWord32, page, opened, accessReg, rxd, noVrdata]

theorem readRxd_none (noneLeft : (spOf s p).rxq = [] ∨ flag s (spReg p 0) 16 = false) : readRxd s p = (s, 0) := by
  unfold readRxd
  split
  · rfl
  · rename_i x xs head
    rcases noneLeft with empty | fabric
    · exact absurd (head.symm.trans empty) (List.cons_ne_nil _ _)
    · rw [fabric]
      rfl

/-- The oldest entry is removed, and RXT holds its arrival time. -/
theorem readRxd_oldest (host : flag s (spReg p 0) 16 = true) (off : flag s (spReg p 8) 4 = false) (head : (spOf s p).rxq = e :: rest) :
    readRxd s p = (wr (onSp s p fun q => { q with rxq := rest }) (spReg p 0x34) e.time, rxdWord e) := by
  simp only [readRxd, head, host, Bool.not_true, Bool.false_eq_true, if_false]
  rw [rtsFollow_off (show flag (onSp s p _) (spReg p 8) 4 = false from off)]

theorem receiveDataRead_oldest (may : HostMayWrite s (spReg p 0x30)) (eight : s.sp.length = 8) (host : flag s (spReg p 0) 16 = true)
    (off : flag s (spReg p 8) 4 = false) (head : (spOf s p).rxq = e :: rest) :
    ∃ t, exec (.receiveDataRead p) s = .next t ∧ t.host = { s.host with out := s.host.out ++ [rxdWord e] } ∧
      rd t (spReg p 0x34) = e.time ∧ spOf t p = { spOf s p with rxq := rest } ∧ (∀ r, r ≠ p.val → spOf t r = spOf s r) ∧
      Touches [.sp, .host] [spReg p 0x34] s t := by
  have taken := ((becomes_unchanged (ps := [.host]) (rs := [spReg p 0x34]) (port_known eight p)).onSp
    fun q => { q with rxq := rest }).wr e.time List.mem_cons_self
  have untouched : (wr (onSp s p fun q => { q with rxq := rest }) (spReg p 0x34) e.time).host = s.host := wr_host ..
  refine ⟨_, congrArg Host.Outcome.next (readOne_rxd may), ?_⟩
  rw [readRxd_oldest host off head]
  have answered := taken.rest (u := { wr (onSp s p fun q => { q with rxq := rest }) (spReg p 0x34) e.time with
    host := { s.host with out := s.host.out ++ [rxdWord e] } }) rfl (touches_host touches_rfl _ (by decide))
  rw [untouched]
  exact ⟨rfl, rd_wr .., answered.here, answered.other, answered.frame⟩

theorem receiveDataRead_none (may : HostMayWrite s (spReg p 0x30)) (noneLeft : (spOf s p).rxq = [] ∨ flag s (spReg p 0) 16 = false) :
    exec (.receiveDataRead p) s = .next { s with host := { s.host with out := s.host.out ++ [0] } } := by
  refine congrArg Host.Outcome.next ((readOne_rxd may).trans ?_)
  rw [readRxd_none noneLeft]

end Reading

/-- Settles O41: a write of BAUD or CTL is the plain value of its row and what follows for the port, a write of CMD or TXD and a read of RXD
are each one change of the port, and BAUD_APPLY acts where its side stands idle. -/
theorem serialRegisters : Obligations.SerialRegisters :=
  ⟨fun _ _ _ _ => baudWrite_taken,
    fun _ _ _ may undefined => ⟨_, rfl, baudWrite_refused may undefined⟩,
    fun _ _ _ _ => baudApply_transmit,
    fun _ _ => baudApply_receive,
    fun _ _ => ⟨fun ⟨busy, enabled⟩ => baudApply_transmit_later busy enabled, baudApply_receive_later⟩,
    fun _ _ _ => serialControlWrite_enables,
    fun _ _ _ => serialControlWrite_disables,
    fun _ _ => rxflush_taken,
    fun _ _ may eight => ⟨_, rfl, spCmd_taken may eight (writeSpCmd_txflush _)⟩,
    fun _ _ may eight => ⟨_, rfl, spCmd_taken may eight (writeSpCmd_mute _)⟩,
    fun _ _ _ => transmitData_queued,
    fun _ _ _ => transmitData_ignored,
    fun _ _ _ _ => receiveDataRead_oldest,
    fun _ _ => receiveDataRead_none⟩

/-! ### The bits of a character (R323, R325, R329) -/

/-- The number that bits make, the least significant first. -/
def numberOf (f : Nat → Bool) (n : Nat) : Nat := (List.range n).foldl (fun d i => d + b2n (f i) * 2 ^ i) 0

/-- Bit i of a character with its start bit; 1 beyond its end. -/
def bitAt (bs : List (Bool × Bool)) (i : Nat) : Bool := (nth bs i (true, false)).1

/-- How many of the n bits after the start bit are 1. -/
def onesOf (bs : List (Bool × Bool)) (n : Nat) : Nat := ((List.range n).filter fun i => bitAt bs (1 + i)).length

/-- The data bits of a character as sent. -/
def dataSent (s : State) (p data : Nat) : List Bool := (List.range (dataBits s p)).map fun i => decide (data / 2 ^ i % 2 = 1)

/-- Its parity bit, where it has one. -/
def paritySent (s : State) (p data : Nat) : List Bool :=
  if spCfgF s p 3 2 = 0 then [] else [decide (((dataSent s p data).filter id).length % 2 = (if spCfgF s p 3 2 = 1 then 1 else 0))]

section Bits
variable {s : State} {p data n k : Nat} {f g : Nat → Bool} {bs : List (Bool × Bool)} {l : List Bool}

theorem numberOf_succ : numberOf f (n + 1) = numberOf f n + b2n (f n) * 2 ^ n := by
  simp only [numberOf, List.range_succ, List.foldl_append, List.foldl_cons, List.foldl_nil]

theorem numberOf_congr (same : ∀ i, i < n → f i = g i) : numberOf f n = numberOf g n := by
  induction n with
  | zero => rfl
  | succ n ih => rw [numberOf_succ, numberOf_succ, ih fun i below => same i (by omega), same n (by omega)]

theorem numberOf_lt : numberOf f n < 2 ^ n := by
  induction n with
  | zero => exact Nat.one_pos
  | succ n ih =>
    have bit : b2n (f n) ≤ 1 := moves_le
    have := Nat.mul_le_mul_right (2 ^ n) bit
    rw [numberOf_succ, Nat.pow_succ]
    omega

/-- The bits of a number make it. -/
theorem numberOf_bits : numberOf (fun i => decide (data / 2 ^ i % 2 = 1)) n = data % 2 ^ n := by
  induction n with
  | zero => rw [Nat.pow_zero, Nat.mod_one]; rfl
  | succ n ih =>
    have bit : b2n (decide (data / 2 ^ n % 2 = 1)) = data / 2 ^ n % 2 := by
      rcases Nat.mod_two_eq_zero_or_one (data / 2 ^ n) with zero | one
      · rw [zero]; rfl
      · rw [one]; rfl
    rw [numberOf_succ, ih, bit, Nat.pow_succ, Nat.mod_mul, Nat.mul_comm]

theorem dataBits_le : dataBits s p ≤ 9 := by unfold dataBits; omega

theorem length_dataSent : (dataSent s p data).length = dataBits s p := by rw [dataSent, List.length_map, List.length_range]

theorem length_paritySent : (paritySent s p data).length = parityBits s p := by
  unfold paritySent parityBits
  split <;> rfl

/-- The bits before the stop bits, as sent. -/
theorem take_sentBits :
    (sentBits s p data).take (1 + dataBits s p + parityBits s p) = false :: (dataSent s p data ++ paritySent s p data) := by
  have length : (false :: (dataSent s p data ++ paritySent s p data)).length = 1 + dataBits s p + parityBits s p := by
    rw [List.length_cons, List.length_append, length_dataSent, length_paritySent]
    omega
  have sent : sentBits s p data = (false :: (dataSent s p data ++ paritySent s p data)) ++ List.replicate (1 + spCfgF s p 4 4) true := rfl
  rw [sent, ← length, List.take_left']
  rfl

/-- Parity makes the number of 1s even or odd (R323). -/
theorem ones_sent (parity : parityBits s p = 1) :
    ((dataSent s p data ++ paritySent s p data).filter id).length % 2 = (if spCfgF s p 3 2 = 1 then 0 else 1) := by
  have used : spCfgF s p 3 2 ≠ 0 := fun unused => by simp [parityBits, unused] at parity
  rw [List.filter_append, List.length_append, paritySent, if_neg used]
  generalize ((dataSent s p data).filter id).length = ones
  rcases Nat.mod_two_eq_zero_or_one ones with zero | one
  · by_cases even : spCfgF s p 3 2 = 1
    · simp [zero, even]
    · simp [zero, even, Nat.add_mod]
  · by_cases even : spCfgF s p 3 2 = 1
    · simp [one, even, Nat.add_mod]
    · simp [one, even]

/-- The 1s of a list, counted at its indices. -/
theorem ones_indices : ((List.range l.length).filter fun i => nth l i true).length = (l.filter id).length := by
  have indexed : (List.range l.length).map (fun i => nth l i true) = l := by
    apply List.ext_getElem (by simp)
    intro i _ below
    simp [nth, below]
  conv_rhs => rw [← indexed, List.filter_map, List.length_map]
  rfl

theorem bitAt_map {i : Nat} : bitAt bs i = nth (bs.map (·.1)) i true := by
  unfold bitAt nth
  rw [List.getD_eq_getElem?_getD, List.getD_eq_getElem?_getD, List.getElem?_map]
  cases bs[i]? <;> rfl

/-- A bit after the start bit of a character that reads as its data sent. -/
theorem bitAt_sent {i : Nat} (sent : bs.map (·.1) = (sentBits s p data).take (1 + dataBits s p + parityBits s p)) :
    bitAt bs (1 + i) = nth (dataSent s p data ++ paritySent s p data) i true := by
  rw [bitAt_map, sent, take_sentBits, Nat.add_comm]
  rfl

end Bits

/-! ### The entry of a character (R329, Table 3) -/

section Entry
variable {s : State} {p data : Nat} {start : DWord} {r : Received} {line : List Nat}

theorem length_readBits {baud : Word} {edgeMode rz : Bool} {n k : Nat} {g : Nat × Nat} {es : List Nat} :
    (readBits baud edgeMode rz line n k g es).1.length = n := by
  induction n generalizing k g es with
  | zero => rfl
  | succ n ih => exact congrArg Nat.succ ih

theorem length_receivedOf : (receivedOf s p line).bits.length = 1 + dataBits s p + parityBits s p := length_readBits

/-- The fields of an entry: the number that the data bits make, and what the bits and the stop bit say. -/
theorem entryOfBits_eq : entryOfBits s p start r =
    { data := BitVec.ofNat 9 (numberOf (fun i => bitAt r.bits (1 + i)) (dataBits s p)), fe := !r.stop,
      pe := decide (parityBits s p = 1) &&
        decide (onesOf r.bits (dataBits s p + parityBits s p) % 2 ≠ (if spCfgF s p 3 2 = 1 then 0 else 1)),
      nf := r.bits.any (·.2) || r.noise, brk := !r.stop && decide (onesOf r.bits (dataBits s p + parityBits s p) = 0), addr := false,
      loss := false, start, baud := (spOf s p).rxBaud, nbits := 1 + dataBits s p + parityBits s p } := rfl

/-- Without a ninth data bit of 1 the data lies below 256. -/
theorem entryOfBits_unmarked (unmarked : bitAt r.bits 9 = false) : (entryOfBits s p start r).data.toNat < 256 := by
  have eight : numberOf (fun i => bitAt r.bits (1 + i)) 8 < 2 ^ 8 := numberOf_lt
  have below : numberOf (fun i => bitAt r.bits (1 + i)) (dataBits s p) < 256 := by
    have upTo := dataBits_le (s := s) (p := p)
    rcases Nat.lt_or_ge (dataBits s p) 9 with fewer | nine
    · have least : 2 ^ dataBits s p ≤ 2 ^ 8 := Nat.pow_le_pow_right (by decide) (Nat.le_of_lt_succ fewer)
      exact Nat.lt_of_lt_of_le numberOf_lt least
    · rw [Nat.le_antisymm upTo nine, numberOf_succ, show bitAt r.bits (1 + 8) = false from unmarked]
      exact eight
  rw [entryOfBits_eq, BitVec.toNat_ofNat]
  exact Nat.lt_of_le_of_lt (Nat.mod_le ..) below

/-- A character whose decisions are the bits of its data as sent: the entry has the data, no parity error and no noise; it is a break
where every bit is 0 and the stop bit too. -/
theorem entryOfBits_sent (fits : data < 2 ^ dataBits s p)
    (sent : r.bits.map (·.1) = (sentBits s p data).take (1 + dataBits s p + parityBits s p)) (clear : r.bits.any (·.2) = false)
    (quiet : r.noise = false) :
    entryOfBits s p start r =
      { data := BitVec.ofNat 9 data, fe := !r.stop, pe := false, nf := false,
        brk := !r.stop && decide (((dataSent s p data ++ paritySent s p data).filter id).length = 0), addr := false, loss := false,
        start, baud := (spOf s p).rxBaud, nbits := 1 + dataBits s p + parityBits s p } := by
  have bit (i : Nat) : bitAt r.bits (1 + i) = nth (dataSent s p data ++ paritySent s p data) i true := bitAt_sent sent
  have number : numberOf (fun i => bitAt r.bits (1 + i)) (dataBits s p) = data := by
    rw [numberOf_congr (g := fun i => decide (data / 2 ^ i % 2 = 1)) fun i below => ?_, numberOf_bits, Nat.mod_eq_of_lt fits]
    rw [bit, nth, List.getD_append _ _ _ _ (length_dataSent.symm ▸ below)]
    simp [dataSent, below]
  have ones : onesOf r.bits (dataBits s p + parityBits s p) = ((dataSent s p data ++ paritySent s p data).filter id).length := by
    rw [← ones_indices, List.length_append, length_dataSent, length_paritySent]
    simp only [onesOf, bit]
  have even : (decide (parityBits s p = 1) &&
      decide (((dataSent s p data ++ paritySent s p data).filter id).length % 2 ≠ (if spCfgF s p 3 2 = 1 then 0 else 1))) = false := by
    by_cases parity : parityBits s p = 1
    · simp only [parity, ones_sent parity, ne_eq, not_true, decide_false, Bool.and_false]
    · simp only [parity, decide_false, Bool.false_and]
  rw [entryOfBits_eq, number, ones, even, clear, quiet]
  rfl

/-- Without parity the data 0 has no 1 among its bits. -/
theorem sent_zero (noParity : parityBits s p = 0) :
    dataSent s p 0 ++ paritySent s p 0 = List.replicate (dataBits s p) false := by
  have noneLeft : paritySent s p 0 = [] := List.eq_nil_of_length_eq_zero (length_paritySent.trans noParity)
  rw [noneLeft, List.append_nil, dataSent]
  simp [List.map_const']

/-- A character without parity whose bits are all 0 reads as the data 0. -/
theorem zeros_sent (noParity : parityBits s p = 0) (length : r.bits.length = 1 + dataBits s p + parityBits s p)
    (zeros : ∀ d ∈ r.bits, d = (false, false)) :
    r.bits.map (·.1) = (sentBits s p 0).take (1 + dataBits s p + parityBits s p) := by
  rw [take_sentBits, sent_zero noParity, List.eq_replicate_of_mem zeros, length, noParity, List.map_replicate, Nat.add_zero, Nat.add_comm,
    List.replicate_succ]

end Entry

/-! ### START_EDGE (R322, R324) -/

/-- The setting under which a start edge of a TCLK cycle is received: one staged before that cycle, or the one in force (R322). -/
def rxBaudAt (s : State) (p cycle : Nat) : Word := if (spOf s p).rxPend.any (·.toNat < cycle) then stagedBaud s p else (spOf s p).rxBaud

section StartEdge
variable {s : State} {p : Fin 8} {at' : DWord} {quarter : BitVec 2}

/-- A receiver without a setting staged begins to receive. -/
theorem beginReceive_settled {p : Nat} (settled : (spOf s p).rxPend = none) :
    beginReceive s p at' = onSp s p fun x => { x with rxBusy := some at' } := by simp only [beginReceive, settled]

/-- A setting staged before the edge's cycle takes effect at it (R322). -/
theorem beginReceive_pending {p : Nat} {w : DWord} (pending : (spOf s p).rxPend = some w) :
    beginReceive s p at' =
      if w.toNat < at'.toNat / 4 then onSp s p fun x => { rxApplied (stagedBaud s p) x with rxBusy := some at' }
      else onSp s p fun x => { x with rxBusy := some at' } := by
  simp only [beginReceive, pending]
  split
  · exact onSp_onSp
  · rfl

theorem becomes_beginReceive {p : Nat} (known : p < s.sp.length) :
    Becomes [] [] s (beginReceive s p at') p { spOf s p with
      rxBaud := rxBaudAt s p (at'.toNat / 4), rxPend := (spOf s p).rxPend.filter (at'.toNat / 4 ≤ ·.toNat), rxBusy := some at' } := by
  have change (f : SpSt → SpSt) : Becomes [] [] s (onSp s p f) p (f (spOf s p)) := (becomes_unchanged known).onSp f
  cases pending : (spOf s p).rxPend with
  | none =>
    have setting : rxBaudAt s p (at'.toNat / 4) = (spOf s p).rxBaud := by simp [rxBaudAt, pending]
    rw [beginReceive_settled pending, setting, Option.filter_none, ← pending]
    exact change _
  | some w =>
    rw [beginReceive_pending pending]
    by_cases before : w.toNat < at'.toNat / 4
    · have setting : rxBaudAt s p (at'.toNat / 4) = stagedBaud s p := by simp [rxBaudAt, pending, before]
      have none_left : (some w).filter (at'.toNat / 4 ≤ ·.toNat) = none := by simp [before]
      rw [if_pos before, setting, none_left]
      exact change _
    · have setting : rxBaudAt s p (at'.toNat / 4) = (spOf s p).rxBaud := by simp [rxBaudAt, pending, before]
      have one_left : (some w).filter (at'.toNat / 4 ≤ ·.toNat) = (spOf s p).rxPend := by simp [pending, Nat.not_lt.mp before]
      rw [if_neg before, setting, one_left]
      exact change _

theorem exec_startEdge (on : portsOn s = true) (enabled : flag s (spReg p 8) 0 = true) (idle : (spOf s p).rxBusy = none) :
    exec (.startEdge p quarter) s = .next (beginReceive s p
      (w64 (4 * s.time.aoTime.toNat + if bitOf (rxBaudAt s p s.time.aoTime.toNat) 30 then quarter.toNat else 0))) := by
  show execStartEdge p quarter s = _
  rcases Option.eq_none_or_eq_some (spOf s p).rxPend with settled | ⟨w, pending⟩
  · simp [execStartEdge, on, enabled, idle, nowQuarter, rxBaudAt, settled]
  · simp [execStartEdge, on, enabled, idle, nowQuarter, rxBaudAt, pending]

theorem startEdge_begins {b : Word} (eight : s.sp.length = 8) (on : portsOn s = true)
    (enabled : flag s (spReg p 8) 0 = true) (idle : (spOf s p).rxBusy = none) (early : s.time.aoTime.toNat < 2 ^ 62)
    (setting : b = rxBaudAt s p s.time.aoTime.toNat) :
    ∃ t, exec (.startEdge p quarter) s = .next t ∧
      spOf t p = { spOf s p with
        rxBaud := b, rxPend := (spOf s p).rxPend.filter (s.time.aoTime.toNat ≤ ·.toNat),
        rxBusy := some (w64 (4 * s.time.aoTime.toNat + if bitOf b 30 then quarter.toNat else 0)) } ∧
      (∀ r, r ≠ p.val → spOf t r = spOf s r) ∧ Touches [.sp] [] s t := by
  have begun := becomes_beginReceive (s := s) (port_known eight p)
    (at' := w64 (4 * s.time.aoTime.toNat + if bitOf b 30 then quarter.toNat else 0))
  have cycle : (w64 (4 * s.time.aoTime.toNat + if bitOf b 30 then quarter.toNat else 0)).toNat / 4 = s.time.aoTime.toNat := by
    have := quarter.isLt
    have place : (if bitOf b 30 then quarter.toNat else 0) < 4 := by split <;> omega
    rw [w64, BitVec.toNat_ofNat, Nat.mod_eq_of_lt (by omega)]
    omega
  rw [cycle, ← setting] at begun
  exact ⟨_, setting ▸ exec_startEdge on enabled idle, begun.here, begun.other, begun.frame⟩

theorem startEdge_within (busy : (spOf s p).rxBusy.isSome = true) : exec (.startEdge p quarter) s = .next s := if_pos (by simp [busy])

end StartEdge

/-! ### CHARACTER_RECEIVED: the receiver (R322, R325 to R328) -/

/-- The instant from which a received character's line is high. -/
def highAfter (s : State) (p : Nat) (line : List Nat) (start : DWord) (done : Nat) : Option DWord :=
  (highFrom line done).map (afterStart s p start)

/-- The receiver goes on: idle, or to a character whose start edge it has seen. -/
def rxGoesOn (next : Option DWord) (q : SpSt) : SpSt := { q with rxBusy := next, own := false, echo := none }

section Receiver
variable {s t u : State} {p : Fin 8} {q : SpSt} {ps : List Part} {rs : List Nat} {line : List Nat} {start : DWord} {r : Received}
  {next : Option DWord}

theorem nextCharacter_settled (h : Becomes ps rs s t p q) (settled : q.rxPend = none) :
    Becomes ps rs s (nextCharacter t p next) p (rxGoesOn next q) ∧ Touches [.sp] [] t (nextCharacter t p next) := by
  have value : nextCharacter t p next = onSp t p (rxGoesOn next) := by
    simp only [nextCharacter, spOf_onSp h.known, h.here, settled]
    cases next <;> rfl
  rw [value]
  exact ⟨h.onSp _, touches_onSp _⟩

/-- A setting staged before the cycle of the next start edge is applied there, or at once where there is none. -/
theorem nextCharacter_pending {w : DWord} (h : Becomes ps rs s t p q) (pending : q.rxPend = some w)
    (before : ∀ e, next = some e → w.toNat < e.toNat / 4) :
    Becomes ps rs s (nextCharacter t p next) p (rxGoesOn next (rxApplied (stagedBaud t p) q)) := by
  have value : nextCharacter t p next = onSp (onSp t p (rxGoesOn next)) p (rxApplied (stagedBaud t p)) := by
    simp only [nextCharacter, spOf_onSp h.known, h.here, pending]
    cases next with
    | none => rfl
    | some e => exact if_pos (before e rfl)
  rw [value]
  exact (h.onSp _).onSp _

/-- Once a character's decisions have been made it is completed, its line is known, and the receiver goes on. -/
theorem exec_characterReceived (heard : Heard s p line start r) :
    exec (.characterReceived p line) s = .next (nextCharacter
      (onSp (completeCharacter s p (entryOfBits s p start r)) p fun q => lineAfter q (highAfter s p line start r.done)) p
      (r.next.map (afterStart s p start))) := by
  obtain ⟨busy, rfl, begins, decided⟩ := heard
  have startBit : (nth (receivedOf s p line).bits 0 (true, false)).1 = false := begins
  show execCharacterReceived p line s = _
  simp only [execCharacterReceived, busy, startBit, Bool.false_eq_true, if_false, Nat.not_le.mpr decided]
  rfl

/-- The port's state in the statements is that of a receiver that goes on once its line is known. -/
theorem awaits_eq {p : Nat} :
    Awaits q s p line start r = rxGoesOn (r.next.map (afterStart s p start)) (lineAfter q (highAfter s p line start r.done)) := by
  rw [Awaits, rxGoesOn, lineAfter, highAfter, Option.isNone_map]

/-- What has completed the character, and where the port stands after. -/
theorem received (heard : Heard s p line start r) (completed : Becomes ps rs s (completeCharacter s p (entryOfBits s p start r)) p q)
    (settled : q.rxPend = none) :
    ∃ t, exec (.characterReceived p line) s = .next t ∧ Touches [.sp] [] (completeCharacter s p (entryOfBits s p start r)) t ∧
      Becomes ps rs s t p (Awaits q s p line start r) := by
  obtain ⟨done, rest⟩ := nextCharacter_settled (next := r.next.map (afterStart s p start))
    (completed.onSp fun q => lineAfter q (highAfter s p line start r.done)) settled
  exact ⟨_, exec_characterReceived heard, touches_trans (touches_onSp _) rest, awaits_eq ▸ done⟩

/-- A character not yet decided is left (R325). -/
theorem characterReceived_undecided (busy : (spOf s p).rxBusy = some start)
    (startBit : (nth (receivedOf s p line).bits 0 (true, false)).1 = false)
    (undecided : nowQuarter s + 4 ≤ (afterStart s p start (receivedOf s p line).done).toNat) :
    exec (.characterReceived p line) s = .next s := by
  show execCharacterReceived p line s = _
  simp only [execCharacterReceived, busy, startBit, Bool.false_eq_true, if_false, undecided, if_true]

/-- A start bit decided 1 is a false start (R327). -/
theorem characterReceived_falseStart {n : Nat} (eight : s.sp.length = 8) (busy : (spOf s p).rxBusy = some start)
    (settled : (spOf s p).rxPend = none) (startBit : (nth (receivedOf s p line).bits 0 (true, false)).1 = true)
    (sample : n = decidedAt (spOf s p).rxBaud (!flag s (spReg p 0) 8) (0, 0) 0)
    (decided : (afterStart s p start n).toNat < nowQuarter s + 4) :
    ∃ t, exec (.characterReceived p line) s = .next t ∧ flag t (spReg p 0x1C) 5 = true ∧
      spOf t p = { lineAfter (spOf s p) ((highFrom line n).map (afterStart s p start)) with
        rxBusy := none, own := false, echo := none } ∧
      (∀ r, r ≠ p.val → spOf t r = spOf s r) ∧ Touches [.sp] [spReg p 0x1C] s t := by
  subst sample
  have marked := ((becomes_unchanged (ps := []) (rs := [spReg p 0x1C]) (port_known eight p)).setFlag 5 List.mem_cons_self).onSp
    fun q => lineAfter q (highAfter s p line start (decidedAt (spOf s p).rxBaud (!flag s (spReg p 0) 8) (0, 0) 0))
  obtain ⟨done, rest⟩ := nextCharacter_settled (next := none) marked settled
  refine ⟨_, ?_, ?_, done.here, done.other, done.frame⟩
  · show execCharacterReceived p line s = _
    simp only [execCharacterReceived, busy, startBit, if_true, Nat.not_le.mpr decided, if_false]
    rfl
  · rw [flag_congr (rest.regs _ List.not_mem_nil), flag_congr (rd_congr (onSp_regs ..) _), flag_setFlag _ _ _ (by decide)]

end Receiver

/-! ### CHARACTER_RECEIVED: the receive queue (R329 to R332, R339, R342) -/

section Queue
variable {s : State} {p : Fin 8} {e : RxEntry} {start : DWord} {r : Received} {line : List Nat} {w : DWord}

/-- No address character: ADDREN is 0, or the ninth data bit is not 1 (R331). -/
theorem unmarked (plain : flag s (spReg p 0) 13 = true → e.data.toNat < 256) :
    (flag s (spReg p 0) 13 && decide (256 ≤ e.data.toNat)) = false := by
  cases addren : flag s (spReg p 0) 13 with
  | false => rfl
  | true => exact decide_eq_false (Nat.not_le.mpr (plain addren))

/-- While muted a data character is discarded (R332). -/
theorem completeCharacter_muted (plain : flag s (spReg p 0) 13 = true → e.data.toNat < 256) (muted : (spOf s p).muted = true) :
    completeCharacter s p e = s := by
  rw [completeCharacter, unmarked plain, if_neg Bool.false_ne_true, muted, Bool.true_or, if_pos rfl]

/-- A data character that is not discarded is for the queue. -/
theorem completeCharacter_data (plain : flag s (spReg p 0) 13 = true → e.data.toNat < 256) (unmuted : (spOf s p).muted = false)
    (noOwn : ownDropped s p = false) : completeCharacter s p e = queueRx s p e := by
  rw [completeCharacter, unmarked plain, if_neg Bool.false_ne_true, unmuted, noOwn, Bool.or_self, if_neg Bool.false_ne_true]

/-- A character enters the queue, with LOSS as it stands. -/
def entered (e : RxEntry) (q : SpSt) : SpSt := { q with rxq := q.rxq ++ [{ e with loss := q.loss }], loss := false }

/-- A character without error enters the queue (R329). -/
theorem queueRx_clean (known : p.val < s.sp.length) (unflushed : (spOf s p).flushed ≠ some s.time.aoTime)
    (room : (spOf s p).rxq.length < 128) (off : flag s (spReg p 8) 4 = false) (fe : e.fe = false) (pe : e.pe = false) (nf : e.nf = false)
    (brk : e.brk = false) : Becomes [] [] s (queueRx s p e) p (entered e (spOf s p)) := by
  have value : queueRx s p e = onSp s p fun q => { q with rxq := q.rxq ++ [{ e with loss := (spOf s p).loss }], loss := false } := by
    simp only [queueRx, unflushed, Nat.not_le.mpr room, fe, pe, nf, brk, if_false, Bool.false_eq_true]
    exact rtsFollow_off off
  rw [value]
  exact (becomes_unchanged known).onSp _

/-- STAT and FERRS show a break. -/
def breakMarked (s : State) (p : Nat) : State := setFlag (countUp (setFlag s (spReg p 0x1C) 1) (spReg p 0x44)) (spReg p 0x1C) 4

theorem rd_breakMarked {o : Nat} (noStat : o ≠ 0x1C) (noFerrs : o ≠ 0x44) : rd (breakMarked s p) (spReg p o) = rd s (spReg p o) := by
  rw [breakMarked, rd_setFlag_apart noStat, rd_countUp_apart noFerrs, rd_setFlag_apart noStat]

theorem marks_breakMarked : flag (breakMarked s p) (spReg p 0x1C) 1 = true ∧ flag (breakMarked s p) (spReg p 0x1C) 4 = true ∧
    rd (breakMarked s p) (spReg p 0x44) = rd (countUp s (spReg p 0x44)) (spReg p 0x44) := by
  refine ⟨?_, flag_setFlag _ _ _ (by decide), ?_⟩
  · rw [breakMarked, setFlag_eq, flag_wrFld_apart (by decide) (by decide) (by decide),
      flag_congr (rd_countUp_apart (by decide)), flag_setFlag _ _ _ (by decide)]
  · rw [breakMarked, rd_setFlag_apart (by decide), rd_countUp, rd_countUp, rd_setFlag_apart (by decide)]

/-- A break enters with a framing error (R329). -/
theorem queueRx_break (known : p.val < s.sp.length) (unflushed : (spOf s p).flushed ≠ some s.time.aoTime)
    (room : (spOf s p).rxq.length < 128) (off : flag s (spReg p 8) 4 = false) (fe : e.fe = true) (pe : e.pe = false) (nf : e.nf = false)
    (brk : e.brk = true) :
    Becomes [] [spReg p 0x1C, spReg p 0x44] s (queueRx s p e) p (entered e (spOf s p)) ∧
      Touches [.sp] [] (breakMarked s p) (queueRx s p e) := by
  have marked : Becomes [] [spReg p 0x1C, spReg p 0x44] s (breakMarked s p) p (spOf s p) :=
    (((becomes_unchanged known).setFlag 1 (by simp)).countUp (by simp)).setFlag 4 (by simp)
  have off' : flag (breakMarked s p) (spReg p 8) 4 = false := (flag_congr (rd_breakMarked (by decide) (by decide))).trans off
  have value : queueRx s p e =
      onSp (breakMarked s p) p fun q => { q with rxq := q.rxq ++ [{ e with loss := (spOf s p).loss }], loss := false } := by
    simp only [queueRx, unflushed, Nat.not_le.mpr room, fe, pe, nf, brk, if_false, if_true, Bool.false_eq_true]
    exact rtsFollow_off off'
  rw [value]
  exact ⟨marked.onSp _, touches_onSp _⟩

/-- OVR and DROP show that a character has been dropped. -/
def dropMarked (s : State) (p : Nat) : State := countUp (setFlag s (spReg p 0x1C) 0) (spReg p 0x40)

theorem marks_dropMarked : flag (dropMarked s p) (spReg p 0x1C) 0 = true ∧
    rd (dropMarked s p) (spReg p 0x40) = rd (countUp s (spReg p 0x40)) (spReg p 0x40) := by
  constructor
  · rw [dropMarked, flag_congr (rd_countUp_apart (by decide)), flag_setFlag _ _ _ (by decide)]
  · rw [dropMarked, rd_countUp, rd_countUp, rd_setFlag_apart (by decide)]

/-- The first character that finds the queue full since OVR was 0 is dropped, and logged (R330). -/
theorem queueRx_full (known : p.val < s.sp.length) (unflushed : (spOf s p).flushed ≠ some s.time.aoTime)
    (full : 128 ≤ (spOf s p).rxq.length) (first : flag s (spReg p 0x1C) 0 = false) :
    Becomes [.gloss] (spReg p 0x1C :: spReg p 0x40 :: glossRegs) s (queueRx s p e) p { spOf s p with loss := true } ∧
      Touches [.sp, .gloss] glossRegs (dropMarked s p) (queueRx s p e) ∧
      Logged 0x5200 (w32 p) (rd (dropMarked s p) (spReg p 0x40)) e.time s (queueRx s p e) := by
  have marked : Becomes [.gloss] (spReg p 0x1C :: spReg p 0x40 :: glossRegs) s (dropMarked s p) p (spOf s p) :=
    ((becomes_unchanged known).setFlag 0 (by simp)).countUp (by simp)
  have value : queueRx s p e = raiseGloss (onSp (dropMarked s p) p fun q => { q with loss := true }) 0x5200 (w32 p)
      (rd (dropMarked s p) (spReg p 0x40)) e.time := by
    simp only [queueRx, unflushed, full, overrun, first, if_false, if_true, Bool.not_false]
    rfl
  have recorder : (dropMarked s p).gloss = s.gloss := (countUp_gloss ..).trans (setFlag_gloss ..)
  have clock : (dropMarked s p).time = s.time := (countUp_time ..).trans (setFlag_time ..)
  rw [value]
  refine ⟨(marked.onSp _).raiseGloss _ _ _ _ (by simp) (List.Subset.trans (List.subset_cons_self ..) (List.subset_cons_self ..)), ?_, ?_⟩
  · exact touches_raiseGloss (touches_mono (touches_onSp _) (by simp) (by simp)) _ _ _ _ (by simp) (List.Subset.refl _)
  · exact logged_raiseGloss recorder (by constructor <;> rw [onSp_time, clock])

end Queue

/-- What the port does after a code has been raised takes nothing from it. -/
theorem logged_onward {s u t : State} {code : Nat} {d0 d1 d2 : Word} (h : Logged code d0 d1 d2 s u) (rest : Touches [.sp] [] u t) :
    Logged code d0 d1 d2 s t := by
  obtain ⟨v, recorder, stamp, inputs, raised⟩ := h
  have clock : u.time = t.time := (rest.parts.time (by decide)).symm
  exact ⟨v, recorder, stamp.imp_right fun ⟨aoTime, epoch, epochSet, stampOld⟩ =>
      ⟨clock ▸ aoTime, clock ▸ epoch, clock ▸ epochSet, clock ▸ stampOld⟩,
    fun a input => (inputs a input).imp_right (·.trans (rest.regs a List.not_mem_nil).symm), (rest.parts.gloss (by decide)).trans raised⟩

/-! ### CHARACTER_RECEIVED: the statements' cases (R325 to R332) -/

section Cases
variable {s : State} {p : Fin 8} {start : DWord} {r : Received} {line : List Nat}

/-- A character whose decisions are the bits of its data as sent enters the queue. -/
theorem characterReceived_data {data : Nat} (eight : s.sp.length = 8) (heard : Heard s p line start r) (settled : (spOf s p).rxPend = none)
    (fits : data < 2 ^ dataBits s p) (sent : r.bits.map (·.1) = (sentBits s p data).take (1 + dataBits s p + parityBits s p))
    (stop : r.stop = true) (clear : r.bits.any (·.2) = false) (quiet : r.noise = false) (noOwn : ownDropped s p = false)
    (unmuted : (spOf s p).muted = false) (plain : flag s (spReg p 0) 13 = true → data < 256)
    (unflushed : (spOf s p).flushed ≠ some s.time.aoTime) (off : flag s (spReg p 8) 4 = false) (room : (spOf s p).rxq.length < 128) :
    ∃ t, exec (.characterReceived p line) s = .next t ∧
      spOf t p = Awaits { spOf s p with
        rxq := (spOf s p).rxq ++ [⟨BitVec.ofNat 9 data, false, false, false, false, false, (spOf s p).loss, start, (spOf s p).rxBaud,
          1 + dataBits s p + parityBits s p⟩], loss := false } s p line start r ∧
      (∀ r, r ≠ p.val → spOf t r = spOf s r) ∧ Touches [.sp] [] s t := by
  have entry := entryOfBits_sent (start := start) fits sent clear quiet
  rw [stop] at entry
  have below : (BitVec.ofNat 9 data).toNat ≤ data := Nat.mod_le ..
  have completed := queueRx_clean (e := entryOfBits s p start r) (port_known eight p) unflushed room off (by rw [entry]; rfl) (by rw [entry])
    (by rw [entry]) (by rw [entry]; rfl)
  rw [← completeCharacter_data (by rw [entry]; exact fun addren => Nat.lt_of_le_of_lt below (plain addren)) unmuted noOwn] at completed
  obtain ⟨t, run, -, done⟩ := received heard completed settled
  refine ⟨t, run, done.here.trans ?_, done.other, done.frame⟩
  rw [entry]
  rfl

/-- A character without parity that is all 0, its stop bit too, enters as a break. -/
theorem characterReceived_break (eight : s.sp.length = 8) (heard : Heard s p line start r) (settled : (spOf s p).rxPend = none)
    (noParity : parityBits s p = 0) (zeros : ∀ d ∈ r.bits, d = (false, false)) (stop : r.stop = false) (quiet : r.noise = false)
    (noOwn : ownDropped s p = false) (unmuted : (spOf s p).muted = false) (unflushed : (spOf s p).flushed ≠ some s.time.aoTime)
    (off : flag s (spReg p 8) 4 = false) (room : (spOf s p).rxq.length < 128) :
    ∃ t, exec (.characterReceived p line) s = .next t ∧ flag t (spReg p 0x1C) 1 = true ∧ flag t (spReg p 0x1C) 4 = true ∧
      rd t (spReg p 0x44) = rd (countUp s (spReg p 0x44)) (spReg p 0x44) ∧
      spOf t p = Awaits { spOf s p with
        rxq := (spOf s p).rxq ++ [⟨0, true, false, false, true, false, (spOf s p).loss, start, (spOf s p).rxBaud, 1 + dataBits s p⟩],
        loss := false } s p line start r ∧
      (∀ r, r ≠ p.val → spOf t r = spOf s r) ∧ Touches [.sp] [spReg p 0x1C, spReg p 0x44] s t := by
  have length : r.bits.length = 1 + dataBits s p + parityBits s p := by
    obtain ⟨-, rfl, -, -⟩ := heard
    exact length_receivedOf
  have clear : r.bits.any (·.2) = false := List.any_eq_false.mpr fun d member => by rw [zeros d member]; exact Bool.false_ne_true
  have zero : (BitVec.ofNat 9 0).toNat < 256 := by decide
  have ones : ((dataSent s p 0 ++ paritySent s p 0).filter id).length = 0 := by rw [sent_zero noParity]; simp
  have entry := entryOfBits_sent (start := start) (Nat.two_pow_pos _) (zeros_sent noParity length zeros) clear quiet
  rw [stop, ones, noParity] at entry
  obtain ⟨completed, marked⟩ := queueRx_break (e := entryOfBits s p start r) (port_known eight p) unflushed room off (by rw [entry]; rfl)
    (by rw [entry]) (by rw [entry]) (by rw [entry]; rfl)
  rw [← completeCharacter_data (by rw [entry]; exact fun _ => zero) unmuted noOwn] at completed marked
  obtain ⟨t, run, rest, done⟩ := received heard completed settled
  have regs (a : Nat) : rd t a = rd (breakMarked s p) a := (touches_trans marked rest).regs a List.not_mem_nil
  obtain ⟨framing, breaks, count⟩ := marks_breakMarked (s := s) (p := p)
  refine ⟨t, run, (flag_congr (regs _)).trans framing, (flag_congr (regs _)).trans breaks, (regs _).trans count, done.here.trans ?_,
    done.other, done.frame⟩
  rw [entry]
  rfl

/-- A character that finds the queue full is dropped. -/
theorem characterReceived_full (eight : s.sp.length = 8) (heard : Heard s p line start r) (settled : (spOf s p).rxPend = none)
    (noOwn : ownDropped s p = false) (unmuted : (spOf s p).muted = false)
    (plain : flag s (spReg p 0) 13 = true → bitAt r.bits 9 = false) (unflushed : (spOf s p).flushed ≠ some s.time.aoTime)
    (full : 128 ≤ (spOf s p).rxq.length) (first : flag s (spReg p 0x1C) 0 = false) :
    ∃ t, exec (.characterReceived p line) s = .next t ∧ flag t (spReg p 0x1C) 0 = true ∧
      rd t (spReg p 0x40) = rd (countUp s (spReg p 0x40)) (spReg p 0x40) ∧
      spOf t p = Awaits { spOf s p with loss := true } s p line start r ∧
      (∀ r, r ≠ p.val → spOf t r = spOf s r) ∧ Logged 0x5200 (w32 p) (rd t (spReg p 0x40)) (start.setWidth 32) s t ∧
      Touches [.sp, .gloss] (spReg p 0x1C :: spReg p 0x40 :: glossRegs) s t := by
  obtain ⟨completed, marked, logged⟩ := queueRx_full (e := entryOfBits s p start r) (port_known eight p) unflushed full first
  rw [← completeCharacter_data (fun addren => entryOfBits_unmarked (plain addren)) unmuted noOwn] at completed marked logged
  obtain ⟨t, run, rest, done⟩ := received heard completed settled
  have regs {o : Nat} (h : o < 0x1000) : rd t (spReg p o) = rd (dropMarked s p) (spReg p o) :=
    (rest.regs _ List.not_mem_nil).trans (marked.regs _ (spReg_notGloss p h))
  obtain ⟨dropped, count⟩ := marks_dropMarked (s := s) (p := p)
  refine ⟨t, run, (flag_congr (regs (by decide))).trans dropped, (regs (by decide)).trans count, done.here, done.other, ?_, done.frame⟩
  rw [regs (by decide)]
  exact logged_onward logged rest

theorem characterReceived_muted (eight : s.sp.length = 8) (heard : Heard s p line start r) (settled : (spOf s p).rxPend = none)
    (muted : (spOf s p).muted = true) (plain : flag s (spReg p 0) 13 = true → bitAt r.bits 9 = false) :
    ∃ t, exec (.characterReceived p line) s = .next t ∧ spOf t p = Awaits (spOf s p) s p line start r ∧
      (∀ r, r ≠ p.val → spOf t r = spOf s r) ∧ Touches [.sp] [] s t := by
  have unchanged : Becomes [] [] s s p (spOf s p) := becomes_unchanged (port_known eight p)
  have kept := completeCharacter_muted (e := entryOfBits s p start r) (fun addren => entryOfBits_unmarked (plain addren)) muted
  obtain ⟨t, run, -, done⟩ := received heard (by rw [kept]; exact unchanged) settled
  exact ⟨t, run, done.here, done.other, done.frame⟩

/-- With a setting staged before the next start edge, the receiver applies it (R322). -/
theorem characterReceived_applies {w : DWord} (eight : s.sp.length = 8) (heard : Heard s p line start r)
    (pending : (spOf s p).rxPend = some w) (before : ∀ e, r.next = some e → w.toNat < (afterStart s p start e).toNat / 4)
    (muted : (spOf s p).muted = true) (plain : flag s (spReg p 0) 13 = true → bitAt r.bits 9 = false) :
    ∃ t, exec (.characterReceived p line) s = .next t ∧
      spOf t p = Awaits { spOf s p with rxBaud := stagedBaud s p, rxPend := none } s p line start r ∧
      (∀ r, r ≠ p.val → spOf t r = spOf s r) ∧ Touches [.sp] [] s t := by
  have kept := completeCharacter_muted (e := entryOfBits s p start r) (fun addren => entryOfBits_unmarked (plain addren)) muted
  have heardOut := (becomes_unchanged (ps := []) (rs := []) (port_known eight p)).onSp
    fun q => lineAfter q (highAfter s p line start r.done)
  have done := nextCharacter_pending (next := r.next.map (afterStart s p start)) heardOut pending fun e next => by
    obtain ⟨x, seen, rfl⟩ := Option.map_eq_some_iff.mp next
    exact before x seen
  have run := exec_characterReceived heard
  rw [kept] at run
  exact ⟨_, run, done.here.trans (awaits_eq (q := rxApplied (stagedBaud s p) (spOf s p))).symm, done.other, done.frame⟩

end Cases

/-- Settles O39: a start edge begins a character; what its decisions say is an entry for the queue, a drop or nothing, and the receiver then
goes on. -/
theorem serialReceives : Obligations.SerialReceives :=
  ⟨fun _ _ _ _ => startEdge_begins,
    fun _ _ _ => startEdge_within,
    fun _ _ _ _ _ => characterReceived_falseStart,
    fun _ _ _ _ _ _ => characterReceived_data,
    fun _ _ _ _ _ => characterReceived_break,
    fun _ _ _ _ _ => characterReceived_full,
    fun _ _ _ _ _ => characterReceived_muted,
    fun _ _ _ _ _ _ => characterReceived_applies,
    fun _ _ _ _ => characterReceived_undecided⟩

/-! ### The transmit divider (R321) -/

section Divider
variable {s : State} {p : Fin 8} {baud : Word} {g : Nat × Nat} {t : Nat}

theorem le_mul_ceil {n d : Nat} (pos : 0 < d) : n ≤ d * ((n + d - 1) / d) := by
  rw [← Nat.ceilDiv_eq_add_pred_div]
  exact le_smul_ceilDiv pos

theorem srcQuarters_pos : 0 < srcQuarters baud := by unfold srcQuarters; split <;> decide

/-- The tick that is to lie at or after an instant does, where the divider runs. -/
theorem gridFrom_reaches (runs : divider baud ≠ 0) : t ≤ (gridFrom baud g t).1 := by
  obtain ⟨m, cycles⟩ : ∃ m, m = (t - g.1 + srcQuarters baud - 1) / srcQuarters baud := ⟨_, rfl⟩
  have reach : t - g.1 ≤ srcQuarters baud * m := cycles ▸ le_mul_ceil srcQuarters_pos
  have ticks : 65536 * m - g.2 ≤ divider baud * ticksUntil baud g t := by
    unfold ticksUntil
    rw [cycles]
    exact le_mul_ceil (Nat.pos_of_ne_zero runs)
  rw [Nat.mul_comm (divider baud)] at ticks
  have passed : m ≤ (g.2 + ticksUntil baud g t * divider baud) / 65536 := by omega
  have := Nat.mul_le_mul_left (srcQuarters baud) passed
  show t ≤ g.1 + srcQuarters baud * ((g.2 + ticksUntil baud g t * divider baud) / 65536)
  omega

/-- No character starts before this instant. -/
theorem startTick_reaches (runs : divider (spOf s p).txBaud ≠ 0) : nowQuarter s ≤ (startTick s p).1 :=
  Nat.le_trans (Nat.le_trans (Nat.le_max_left ..) (Nat.le_max_left ..)) (gridFrom_reaches runs)

/-- A character that may start does so in this TCLK cycle. -/
theorem startTick_here (ready : txReady s p = true) : (startTick s p).1 < nowQuarter s + 4 := by
  simp only [txReady, tickHere, Bool.and_eq_true, decide_eq_true_eq] at ready
  obtain ⟨⟨-, within, -⟩, -⟩ := ready
  exact within

end Divider

/-! ### What a character is sent from is read from the registers (R323, R336, R338, R340) -/

section SameRegisters
variable {s t : State} {p data : Nat} {b : Word} {g : Nat × Nat} {bs : List Bool} {start : DWord} {line : List (Nat × Bool)} {echo : List Bool}

theorem sentBits_congr (regs : ∀ a, rd t a = rd s a) : sentBits t p data = sentBits s p data := by
  have same : rd t = rd s := funext regs
  unfold sentBits dataBits spCfgF fld
  rw [same]

theorem lineOf_congr (regs : ∀ a, rd t a = rd s a) : lineOf t p b g bs = lineOf s p b g bs := by
  have same : rd t = rd s := funext regs
  unfold lineOf pulseQuarters spCfgF fld
  rw [same]

theorem hearsItself_congr (regs : ∀ a, rd t a = rd s a) : hearsItself t p = hearsItself s p := by
  simp only [hearsItself, singleWire, flag, regs]

theorem collisionBit_congr (regs : ∀ a, rd t a = rd s a) : collisionBit t p data echo = collisionBit s p data echo := by
  have same : rd t = rd s := funext regs
  unfold collisionBit
  rw [hearsItself_congr regs, sentBits_congr regs]
  unfold spCfgF fld
  rw [same]

/-- What the receiver makes of the port's own character rests on its setting besides. -/
theorem ownEcho_congr (regs : ∀ a, rd t a = rd s a) (setting : (spOf t p).rxBaud = (spOf s p).rxBaud) :
    ownEcho t p start line = ownEcho s p start line := by
  have same : rd t = rd s := funext regs
  unfold ownEcho receivedOf entryOfBits afterStart dataBits parityBits spCfgF fld flag
  rw [same, setting]

/-- Only a port that hears itself sees a collision. -/
theorem hears_of_collision {i : Nat} (seen : collisionBit s p data echo = some i) : hearsItself s p = true := by
  cases hears : hearsItself s p with
  | true => rfl
  | false => simp [collisionBit, hears] at seen

end SameRegisters

/-! ### A port that is ready to send (R322, R333, R334) -/

/-- The port with the setting staged applied, and CTS sampled where CTSEN is 1. -/
def readyToSend (s : State) (p : Nat) : State :=
  if flag s (spReg p 8) 5 then onSp (readyBaud s p) p fun q => { q with cts := true } else readyBaud s p

section Ready
variable {s : State} {p : Fin 8} {echo : List Bool} {c : Instr}

/-- A staged setting changes the setting in force, and the divider. -/
theorem becomes_readyBaud (known : p.val < s.sp.length) : ∃ b pend g,
    Becomes [] [] s (readyBaud s p) p { spOf s p with txBaud := b, txPend := pend, txGrid := g } := by
  unfold readyBaud
  split
  · exact ⟨_, _, _, (becomes_unchanged known).onSp _⟩
  · exact ⟨_, _, _, becomes_unchanged known⟩

theorem rd_readyBaud {a : Nat} : rd (readyBaud s p) a = rd s a := by
  unfold readyBaud
  split
  · exact rd_congr (onSp_regs ..) a
  · rfl

theorem becomes_readyToSend (known : p.val < s.sp.length) :
    Becomes [] [] s (readyToSend s p) p { spOf (readyBaud s p) p with cts := flag s (spReg p 8) 5 || (spOf s p).cts } := by
  obtain ⟨b, pend, g, ready⟩ := becomes_readyBaud known
  rw [ready.here]
  unfold readyToSend
  cases flag s (spReg p 8) 5 with
  | true => exact ready.onSp _
  | false => exact ready

theorem rd_readyToSend {a : Nat} : rd (readyToSend s p) a = rd s a := by
  unfold readyToSend
  split
  · exact (rd_congr (onSp_regs ..) a).trans rd_readyBaud
  · exact rd_readyBaud

/-- Sampling CTS moves no tick. -/
theorem startTick_readyToSend (known : p.val < s.sp.length) : startTick (readyToSend s p) p = startTick (readyBaud s p) p := by
  obtain ⟨b, pend, g, ready⟩ := becomes_readyBaud known
  unfold readyToSend
  split
  · simp only [startTick, lineFree, singleWire, highBits, nowQuarter, spOf_onSp ready.known, onSp_time, flag, rd_congr (onSp_regs ..)]
    rfl
  · rfl

/-- Either row sends the character at the head where a character may start: the first time, or after a collision. -/
theorem exec_send (ready : txReady (readyBaud s p) p = true)
    (row : c = if (spOf s p).colls = 0 then .characterTransmit p echo else .collisionRetry p echo) :
    exec c s = .next (sendHead (readyToSend s p) p echo) := by
  have sends : trySend s p echo = sendHead (readyToSend s p) p echo := by
    have same : flag (readyBaud s p) (spReg p 8) 5 = flag s (spReg p 8) 5 := flag_congr rd_readyBaud
    simp only [trySend, ready, Bool.not_true, Bool.false_eq_true, if_false]
    rw [same]
    rfl
  subst row
  by_cases first : (spOf s p).colls = 0
  · rw [if_pos first, ← sends]
    exact if_pos first
  · rw [if_neg first, ← sends]
    exact if_pos first

/-- Where no character may start neither sends. -/
theorem exec_notReady (row : c = .characterTransmit p echo ∨ c = .collisionRetry p echo) (waits : txReady (readyBaud s p) p = false) :
    exec c s = .next s := by
  have stays : trySend s p echo = s := by simp only [trySend, waits, Bool.not_false, if_true]
  rcases row with rfl | rfl
  · show execCharacterTransmit p echo s = _
    rw [execCharacterTransmit, stays, ite_self]
  · show execCollisionRetry p echo s = _
    rw [execCollisionRetry, stays, ite_self]

end Ready

/-! ### CHARACTER_TRANSMIT without a collision (R333, R336) -/

/-- A character leaves the queue for the shifter. -/
def shifted (s : State) (p data : Nat) (b : Word) (g : Nat × Nat) (q : SpSt) : SpSt :=
  { q with
    txq := q.txq.drop 1, txBusy := some (w64 (gridTick b g ((sentBits s p data).length * oversampling b))), txGrid := g,
    line := lineOf s p b g (sentBits s p data), colls := 0 }

/-- A receiver without a setting staged begins to receive the character at its start edge. -/
def edgeSeen (s : State) (p data : Nat) (b : Word) (g : Nat × Nat) : State :=
  onSp (onSp s p (shifted s p data b g)) p fun x => { x with rxBusy := some (w64 g.1) }

/-- The receiver of a port that hears itself follows the character. -/
def followed (s : State) (p data : Nat) (b : Word) (g : Nat × Nat) (q : SpSt) : SpSt :=
  { q with
    own := hearsItself s p || q.own, rxBusy := if hearsItself s p then some (w64 g.1) else q.rxBusy,
    echo := if hearsItself s p then some (ownEcho s p (w64 g.1) (lineOf s p b g (sentBits s p data))) else q.echo }

section Sending
variable {s t : State} {p data : Nat} {b : Word} {g : Nat × Nat} {echo : List Bool} {e : TxEntry} {rest : List TxEntry} {q : SpSt}

theorem sendHead_deaf (head : (spOf s p).txq = e :: rest) (free : collisionBit s p e.char.toNat echo = none)
    (deaf : hearsItself s p = false) :
    sendHead s p echo = onSp s p (shifted s p e.char.toNat (spOf s p).txBaud (startTick s p)) := by
  simp only [sendHead, head, free, deaf, Bool.not_false, if_true]
  rfl

theorem becomes_edgeSeen (known : p < s.sp.length) :
    Becomes [] [] s (edgeSeen s p data b g) p { shifted s p data b g (spOf s p) with rxBusy := some (w64 g.1) } :=
  ((becomes_unchanged known).onSp _).onSp _

/-- The setting under which the receiver hears the character is the one before it. -/
theorem sendHead_heard (known : p < s.sp.length) (head : (spOf s p).txq = e :: rest) (free : collisionBit s p e.char.toNat echo = none)
    (hears : hearsItself s p = true) (settled : (spOf s p).rxPend = none) :
    sendHead s p echo = onSp (edgeSeen s p e.char.toNat (spOf s p).txBaud (startTick s p)) p fun q => { q with
      own := true
      echo := some (ownEcho s p (w64 (startTick s p).1) (lineOf s p (spOf s p).txBaud (startTick s p) (sentBits s p e.char.toNat))) } := by
  have settled' : (spOf (onSp s p (shifted s p e.char.toNat (spOf s p).txBaud (startTick s p))) p).rxPend = none := by
    rw [spOf_onSp known]
    exact settled
  have setting : (spOf (edgeSeen s p e.char.toNat (spOf s p).txBaud (startTick s p)) p).rxBaud = (spOf s p).rxBaud := by
    rw [(becomes_edgeSeen known).here]
    rfl
  rw [← ownEcho_congr (s := s) (t := edgeSeen s p e.char.toNat (spOf s p).txBaud (startTick s p)) (fun a => rfl) setting, edgeSeen,
    ← beginReceive_settled settled']
  simp only [sendHead, head, free, hears, Bool.not_true, Bool.false_eq_true, if_false]
  rfl

theorem becomes_sendHead (known : p < s.sp.length) (head : (spOf s p).txq = e :: rest) (free : collisionBit s p e.char.toNat echo = none)
    (settled : hearsItself s p = true → (spOf s p).rxPend = none) :
    Becomes [] [] s (sendHead s p echo) p (followed s p e.char.toNat (spOf s p).txBaud (startTick s p)
      (shifted s p e.char.toNat (spOf s p).txBaud (startTick s p) (spOf s p))) := by
  cases hears : hearsItself s p with
  | false =>
    rw [sendHead_deaf head free hears]
    simpa only [followed, hears, Bool.false_or, Bool.false_eq_true, if_false] using (becomes_unchanged known).onSp _
  | true =>
    rw [sendHead_heard known head free hears (settled hears)]
    simpa only [followed, hears, Bool.true_or, if_true] using (becomes_edgeSeen known).onSp _

theorem shifted_congr (regs : ∀ a, rd t a = rd s a) : shifted t p data b g q = shifted s p data b g q := by
  rw [shifted, lineOf_congr regs, sentBits_congr regs, shifted]

theorem followed_congr (regs : ∀ a, rd t a = rd s a) (setting : (spOf t p).rxBaud = (spOf s p).rxBaud) :
    followed t p data b g q = followed s p data b g q := by
  rw [followed, ownEcho_congr regs setting, lineOf_congr regs, sentBits_congr regs, hearsItself_congr regs, followed]

end Sending

/-! ### A collision (R337 to R339) -/

/-- A code raised after a change of the ports was raised after what stood before it as well. -/
theorem logged_before {s u t : State} {code : Nat} {d0 d1 d2 : Word} (before : Touches [.sp] [] s u) (h : Logged code d0 d1 d2 u t) :
    Logged code d0 d1 d2 s t := by
  obtain ⟨v, recorder, stamp, inputs, raised⟩ := h
  have clock : u.time = s.time := before.parts.time (by decide)
  exact ⟨v, recorder.trans (before.parts.gloss (by decide)), stamp.imp_left fun ⟨aoTime, epoch, epochSet, stampOld⟩ =>
      ⟨clock ▸ aoTime, clock ▸ epoch, clock ▸ epochSet, clock ▸ stampOld⟩,
    fun a input => (inputs a input).imp_left (·.trans (before.regs a List.not_mem_nil)), raised⟩

/-- A collision is shown and counted. -/
def collisionMarked (s : State) (p : Nat) : State := countUp (setFlag s (spReg p 0x1C) 6) (spReg p 0x4C)

/-- The tick, counted from the character's start, at which the bit that shows a collision is decided. -/
def decidedTick (s : State) (p i : Nat) (b : Word) : Nat := i * oversampling b + (bitSamples b (!flag s (spReg p 0) 8)).2.2

/-- The shifter stops, and the line is released one tick after tick k, from which it is high again. -/
def released (s : State) (p data i : Nat) (b : Word) (g : Nat × Nat) (k : Nat) (q : SpSt) : SpSt :=
  { q with
    txGrid := g, txBusy := some (w64 (gridTick b g (k + 1))),
    line := ((lineOf s p b g ((sentBits s p data).take (i + 1))).filter fun x => x.1 < gridTick b g (k + 1)) ++
      [(gridTick b g (k + 1), true)],
    lineFrom := if q.lineFrom.toNat < (w64 (gridTick b g k)).toNat then w64 (gridTick b g k) else q.lineFrom }

/-- A collision's marks, and the released line. -/
def afterCollision (s : State) (p data i : Nat) (g : Nat × Nat) : State :=
  onSp (collisionMarked s p) p
    (released s p data i (spOf s p).txBaud g (decidedTick s p i (spOf s p).txBaud))

/-- The character stays at the head for a retry after a longer wait, or is abandoned. -/
def retried (s : State) (p : Nat) (q : SpSt) : SpSt :=
  { q with
    colls := if fld s (spReg p 0x14) 11 8 ≤ q.colls then 0 else q.colls + 1,
    backoff := if fld s (spReg p 0x14) 11 8 ≤ q.colls then q.backoff else 11 + fld s (spReg p 0x14) 7 0 * (q.colls + 1),
    txq := if fld s (spReg p 0x14) 11 8 ≤ q.colls then q.txq.drop 1 else q.txq }

/-- What STAT, the counter of collisions and the recorder show of a collision. -/
structure CollisionShown (s t : State) (p data : Nat) : Prop where
  seen : flag t (spReg p 0x1C) 6 = true
  counted : rd t (spReg p 0x4C) = rd (countUp s (spReg p 0x4C)) (spReg p 0x4C)
  abandoned : fld s (spReg p 0x14) 11 8 ≤ (spOf s p).colls → flag t (spReg p 0x1C) 7 = true ∧
    Logged 0x5210 (w32 p) (w32 data) (w32 ((spOf s p).colls + 1)) s t
  kept : (spOf s p).colls < fld s (spReg p 0x14) 11 8 → t.gloss = s.gloss ∧ flag t (spReg p 0x1C) 7 = flag s (spReg p 0x1C) 7

section Shown
variable {s t u : State} {p data : Nat}

theorem CollisionShown.onward (h : CollisionShown s u p data) (rest : Touches [.sp] [] u t) : CollisionShown s t p data where
  seen := (flag_congr (rest.regs _ List.not_mem_nil)).trans h.seen
  counted := (rest.regs _ List.not_mem_nil).trans h.counted
  abandoned spent := (h.abandoned spent).imp (flag_congr (rest.regs _ List.not_mem_nil)).trans (logged_onward · rest)
  kept left := (h.kept left).imp (rest.parts.gloss (by decide)).trans (flag_congr (rest.regs _ List.not_mem_nil)).trans

theorem CollisionShown.before (earlier : Touches [.sp] [] s u) (colls : (spOf u p).colls = (spOf s p).colls) (h : CollisionShown u t p data) :
    CollisionShown s t p data := by
  have regs (a : Nat) : rd u a = rd s a := earlier.regs a List.not_mem_nil
  obtain ⟨seen, counted, abandoned, kept⟩ := h
  rw [colls, fld_congr (regs _)] at abandoned kept
  rw [rd_countUp, regs, ← rd_countUp] at counted
  exact ⟨seen, counted, fun spent => (abandoned spent).imp_right (logged_before earlier),
    fun left => (kept left).imp (·.trans (earlier.parts.gloss (by decide))) (·.trans (flag_congr (regs _)))⟩

end Shown

section Collision
variable {s t u : State} {p : Fin 8} {data i : Nat} {g : Nat × Nat}

theorem becomes_collisionMarked {rs : List Nat} (known : p.val < s.sp.length) :
    Becomes [.gloss] (spReg p 0x1C :: spReg p 0x4C :: rs) s (collisionMarked s p) p (spOf s p) :=
  ((becomes_unchanged known).setFlag _ (by simp)).countUp (by simp)

theorem seen_collisionMarked : flag (collisionMarked s p) (spReg p 0x1C) 6 = true := by
  rw [collisionMarked, flag_congr (rd_countUp_apart (by decide)), flag_setFlag _ _ _ (by decide)]

theorem counted_collisionMarked : rd (collisionMarked s p) (spReg p 0x4C) = rd (countUp s (spReg p 0x4C)) (spReg p 0x4C) := by
  rw [collisionMarked, rd_countUp, rd_countUp, rd_setFlag_apart (by decide)]

theorem aborted_collisionMarked : flag (collisionMarked s p) (spReg p 0x1C) 7 = flag s (spReg p 0x1C) 7 := by
  rw [collisionMarked, flag_congr (rd_countUp_apart (by decide)), setFlag_eq, flag_wrFld_apart (by decide) (by decide) (by decide)]

/-- BACKOFF and RETRIES are read as they stood. -/
theorem rd_collisionMarked : rd (collisionMarked s p) (spReg p 0x14) = rd s (spReg p 0x14) :=
  (rd_countUp_apart (by decide)).trans (rd_setFlag_apart (by decide))

theorem collision_abandons (spent : fld s (spReg p 0x14) 11 8 ≤ (spOf s p).colls) :
    collision s p data i g =
      raiseGloss (setFlag (onSp (afterCollision s p data i g) p fun q => { q with colls := 0, txq := q.txq.drop 1 }) (spReg p 0x1C) 7)
        0x5210 (w32 p) (w32 data) (w32 ((spOf s p).colls + 1)) := by
  have limit : fld (collisionMarked s p) (spReg p 0x14) 11 8 < (spOf s p).colls + 1 := by
    rw [fld_congr rd_collisionMarked]
    exact Nat.lt_succ_of_le spent
  exact if_pos limit

theorem collision_retries (left : (spOf s p).colls < fld s (spReg p 0x14) 11 8) :
    collision s p data i g = onSp (afterCollision s p data i g) p fun q =>
      { q with colls := (spOf s p).colls + 1, backoff := 11 + fld s (spReg p 0x14) 7 0 * ((spOf s p).colls + 1) } := by
  have limit : ¬fld (collisionMarked s p) (spReg p 0x14) 11 8 < (spOf s p).colls + 1 := by
    rw [fld_congr rd_collisionMarked]
    exact Nat.not_lt.mpr left
  exact if_neg limit

theorem becomes_afterCollision (known : p.val < s.sp.length) :
    Becomes [.gloss] (spReg p 0x1C :: spReg p 0x4C :: glossRegs) s (afterCollision s p data i g) p
      (released s p data i (spOf s p).txBaud g (decidedTick s p i (spOf s p).txBaud) (spOf s p)) :=
  (becomes_collisionMarked known).onSp _

theorem gloss_afterCollision : (afterCollision s p data i g).gloss = s.gloss := by
  rw [afterCollision, onSp_gloss, collisionMarked, countUp_gloss, setFlag_gloss]

theorem time_afterCollision : (afterCollision s p data i g).time = s.time := by
  rw [afterCollision, onSp_time, collisionMarked, countUp_time, setFlag_time]

/-- After a collision the line is released, and the character waits for a retry or is abandoned. -/
theorem becomes_collision (known : p.val < s.sp.length) :
    Becomes [.gloss] (spReg p 0x1C :: spReg p 0x4C :: glossRegs) s (collision s p data i g) p
      (retried s p (released s p data i (spOf s p).txBaud g (decidedTick s p i (spOf s p).txBaud) (spOf s p))) := by
  by_cases spent : fld s (spReg p 0x14) 11 8 ≤ (spOf s p).colls
  · have abandoned := (((becomes_afterCollision (data := data) (i := i) (g := g) known).onSp fun q =>
      { q with colls := 0, txq := q.txq.drop 1 }).setFlag (a := spReg p 0x1C) 7 (by simp)).raiseGloss 0x5210 (w32 p) (w32 data)
        (w32 ((spOf s p).colls + 1)) (by simp) (List.Subset.trans (List.subset_cons_self ..) (List.subset_cons_self ..))
    rw [← collision_abandons spent] at abandoned
    simpa only [retried, released, spent, if_true] using abandoned
  · have again := (becomes_afterCollision (data := data) (i := i) (g := g) known).onSp fun q =>
      { q with colls := (spOf s p).colls + 1, backoff := 11 + fld s (spReg p 0x14) 7 0 * ((spOf s p).colls + 1) }
    rw [← collision_retries (Nat.not_le.mp spent)] at again
    simpa only [retried, released, spent, if_false] using again

/-- The ports' state holds none of the marks. -/
theorem rd_afterCollision {f : SpSt → SpSt} {a : Nat} : rd (onSp (afterCollision s p data i g) p f) a = rd (collisionMarked s p) a :=
  (rd_congr (onSp_regs ..) a).trans (rd_congr (onSp_regs ..) a)

theorem shown_collision : CollisionShown s (collision s p data i g) p data := by
  have notGloss {o : Nat} (h : o < 0x1000) : spReg p o ∉ glossRegs := spReg_notGloss p h
  by_cases spent : fld s (spReg p 0x14) 11 8 ≤ (spOf s p).colls
  · rw [collision_abandons spent]
    refine ⟨?_, ?_, fun _ => ⟨?_, ?_⟩, fun left => absurd spent (Nat.not_le.mpr left)⟩
    · rw [flag_raiseGloss (notGloss (by decide)), setFlag_eq, flag_wrFld_apart (by decide) (by decide) (by decide)]
      exact (flag_congr rd_afterCollision).trans seen_collisionMarked
    · rw [rd_raiseGloss _ _ _ _ _ _ (notGloss (by decide)), rd_setFlag_apart (by decide)]
      exact rd_afterCollision.trans counted_collisionMarked
    · rw [flag_raiseGloss (notGloss (by decide)), flag_setFlag _ _ _ (by decide)]
    · exact logged_raiseGloss (by rw [setFlag_gloss, onSp_gloss, gloss_afterCollision])
        (by constructor <;> rw [setFlag_time, onSp_time, time_afterCollision])
  · rw [collision_retries (Nat.not_le.mp spent)]
    exact ⟨(flag_congr rd_afterCollision).trans seen_collisionMarked, rd_afterCollision.trans counted_collisionMarked,
      fun more => absurd more spent,
      fun _ => ⟨(onSp_gloss ..).trans gloss_afterCollision, (flag_congr rd_afterCollision).trans aborted_collisionMarked⟩⟩

theorem sendHead_collides {echo : List Bool} {e : TxEntry} {rest : List TxEntry} (known : p.val < s.sp.length)
    (head : (spOf s p).txq = e :: rest) (collides : collisionBit s p e.char.toNat echo = some i) (settled : (spOf s p).rxPend = none) :
    sendHead s p echo = onSp (collision s p e.char.toNat i (startTick s p)) p
      fun x => { x with rxBusy := some (w64 (startTick s p).1) } := by
  have settled' : (spOf (collision s p e.char.toNat i (startTick s p)) p).rxPend = none := by
    rw [(becomes_collision known).here]
    exact settled
  rw [← beginReceive_settled settled']
  simp only [sendHead, head, collides]

theorem released_congr {b : Word} {k : Nat} {q : SpSt} (regs : ∀ a, rd t a = rd s a) :
    released t p data i b g k q = released s p data i b g k q := by
  rw [released, lineOf_congr regs, sentBits_congr regs, released]

theorem decidedTick_congr {b : Word} (regs : ∀ a, rd t a = rd s a) : decidedTick t p i b = decidedTick s p i b := by
  rw [decidedTick, flag_congr (regs _), decidedTick]

theorem retried_congr {q : SpSt} (regs : ∀ a, rd t a = rd s a) : retried t p q = retried s p q := by
  unfold retried
  rw [fld_congr (regs _), fld_congr (regs _)]

end Collision

/-! ### The rows (R333, R336 to R339) -/

section Rows
variable {s u : State} {p : Fin 8} {echo : List Bool} {c : Instr} {e : TxEntry} {rest : List TxEntry} {b : Word} {g : Nat × Nat}
  {i k : Nat} {bs : List Bool}

/-- The character starts in this TCLK cycle, at a tick of the divider from where it runs. -/
theorem startTick_now (ready : txReady (readyBaud s p) p = true) :
    (divider (spOf (readyBaud s p) p).txBaud ≠ 0 → nowQuarter s ≤ (startTick (readyBaud s p) p).1) ∧
      (startTick (readyBaud s p) p).1 < nowQuarter s + 4 := by
  have now : nowQuarter (readyBaud s p) = nowQuarter s := by
    unfold readyBaud
    split <;> rfl
  rw [← now]
  exact ⟨startTick_reaches, startTick_here ready⟩

theorem sends_character (eight : s.sp.length = 8) (unit : u = readyBaud s p) (ready : txReady u p = true)
    (row : c = if (spOf s p).colls = 0 then .characterTransmit p echo else .collisionRetry p echo)
    (head : (spOf s p).txq = e :: rest) (free : collisionBit s p e.char.toNat echo = none) (setting : b = (spOf u p).txBaud)
    (tick : g = startTick u p) (settled : hearsItself s p = true → (spOf s p).rxPend = none) :
    ∃ t, exec c s = .next t ∧ Becomes [] [] s t p (followed s p e.char.toNat b g (shifted s p e.char.toNat b g
      { spOf u p with cts := flag s (spReg p 8) 5 || (spOf s p).cts })) := by
  subst unit
  have known := port_known eight p
  obtain ⟨b', pend, g', staged⟩ := becomes_readyBaud known
  have waiting := becomes_readyToSend known
  have regs (a : Nat) : rd (readyToSend s p) a = rd s a := rd_readyToSend
  have sent := becomes_sendHead (echo := echo) waiting.known (by rw [waiting.here, staged.here]; exact head)
    ((collisionBit_congr regs).trans free) fun hears => by
      rw [waiting.here, staged.here]
      exact settled ((hearsItself_congr regs).symm.trans hears)
  have baud : (spOf (readyToSend s p) p).txBaud = b := by rw [waiting.here, setting]
  rw [startTick_readyToSend known, ← tick, baud, shifted_congr regs, followed_congr regs (by rw [waiting.here, staged.here]),
    waiting.here] at sent
  exact ⟨_, exec_send ready row, waiting.next sent⟩

theorem meets_collision (eight : s.sp.length = 8) (unit : u = readyBaud s p) (ready : txReady u p = true)
    (row : c = if (spOf s p).colls = 0 then .characterTransmit p echo else .collisionRetry p echo)
    (head : (spOf s p).txq = e :: rest) (collides : collisionBit s p e.char.toNat echo = some i) (settled : (spOf s p).rxPend = none)
    (setting : b = (spOf u p).txBaud) (tick : g = startTick u p) :
    ∃ t, exec c s = .next t ∧ CollisionShown s t p e.char.toNat ∧
      Becomes [.gloss] (spReg p 0x1C :: spReg p 0x4C :: glossRegs) s t p
        { retried s p (released s p e.char.toNat i b g (decidedTick s p i b) { spOf u p with
            cts := flag s (spReg p 8) 5 || (spOf s p).cts }) with rxBusy := some (w64 g.1) } := by
  subst unit
  have known := port_known eight p
  obtain ⟨b', pend, g', staged⟩ := becomes_readyBaud known
  have waiting := becomes_readyToSend known
  have regs (a : Nat) : rd (readyToSend s p) a = rd s a := rd_readyToSend
  have value := sendHead_collides (echo := echo) waiting.known (by rw [waiting.here, staged.here]; exact head)
    ((collisionBit_congr regs).trans collides) (by rw [waiting.here, staged.here]; exact settled)
  have shown := (shown_collision (data := e.char.toNat) (i := i) (g := g)).before waiting.frame (by rw [waiting.here, staged.here])
  have collided := becomes_collision (data := e.char.toNat) (i := i) (g := g) waiting.known
  have baud : (spOf (readyToSend s p) p).txBaud = b := by rw [waiting.here, setting]
  rw [startTick_readyToSend known, ← tick] at value
  rw [baud, retried_congr regs, decidedTick_congr regs, released_congr regs, waiting.here] at collided
  refine ⟨_, exec_send ready row, ?_, ?_⟩
  · rw [value]
    exact shown.onward (touches_onSp _)
  · rw [value]
    exact (waiting.next collided).onSp _

end Rows

/-- Settles O40: the character's start, its line and what a port that hears itself makes of it, then a collision's marks and its effect on
the character at the head. -/
theorem serialTransmits : Obligations.SerialTransmits := by
  unfold Obligations.SerialTransmits
  refine ⟨?sends, ?collides, ?waits⟩
  case sends =>
    intro s u p echo c e rest b g bs eight unit ready row head free setting tick sentAs settled
    obtain ⟨t, run, sent⟩ := sends_character eight unit ready row head free setting tick settled
    obtain ⟨b', pend, g', staged⟩ := becomes_readyBaud (port_known eight p)
    subst unit sentAs
    obtain ⟨reached, within⟩ := startTick_now ready
    have tail : (spOf s p).txq.drop 1 = rest := congrArg (List.drop 1) head
    refine ⟨t, run, ?_, setting ▸ tick ▸ reached, tick ▸ within, sent.other, sent.frame⟩
    rw [sent.here, staged.here, ← tail]
    rfl
  case collides =>
    intro s u p echo c e rest b g i k eight unit ready row head collides settled setting tick decided
    obtain ⟨t, run, shown, collided⟩ := meets_collision eight unit ready row head collides settled setting tick
    obtain ⟨b', pend, g', staged⟩ := becomes_readyBaud (port_known eight p)
    subst unit decided
    have tail : (spOf s p).txq.drop 1 = rest := congrArg (List.drop 1) head
    rw [staged.here] at collided ⊢
    refine ⟨t, run, ?_, ?_, ?_, shown.seen, shown.counted, shown.abandoned, shown.kept, collided.other, collided.frame⟩
    · rw [collided.here, ← head, ← tail]
      rfl
    · rw [collided.here]
      rfl
    · rw [collided.here]
      rfl
  case waits =>
    intro s p echo c row waits
    exact ⟨s, exec_notReady row waits, rfl, rfl, rfl, fun _ _ => rfl, touches_rfl⟩

end Sys2Proof.SerialPorts

/-! PROOFS. The statement of every command: it completes, and leaves the queue. -/

namespace Sys2Proof.Completion
open Sys2Proof.Machine Sys2Proof.Laws

/-! ### Outcomes that are a next state -/

/-- The outcome is a next state. -/
def Completes (x : Host.Outcome State Fault Refusal) : Prop := ∃ t, x = .next t

theorem completes_next (s : State) : Completes (.next s) := ⟨s, rfl⟩

theorem completes_ite {c : Prop} [Decidable c] {x y : Host.Outcome State Fault Refusal} (hx : Completes x) (hy : Completes y) :
    Completes (if c then x else y) := by
  split <;> assumption

/-- A row that acts where its condition holds, and does something else, or nothing, where it does not. -/
theorem completes_either {c : Prop} [Decidable c] {s t : State} :
    Completes (if c then .next s else .next t) := completes_ite (completes_next s) (completes_next t)

/-! ### Rows whose outcome depends on what they find -/

section Rows
variable (s : State)

theorem completes_explogResult (v : Fin 16) : Completes (execExplogResult v s) := by
  unfold execExplogResult
  dsimp only
  split
  · exact completes_either
  · exact completes_next _

theorem completes_storeDeliver : Completes (execStoreDeliver s) := by
  unfold execStoreDeliver
  split <;> exact completes_next _

theorem completes_eventDeliver : Completes (execEventDeliver s) := by
  unfold execEventDeliver
  split <;> exact completes_next _

theorem completes_eventAccept : Completes (execEventAccept s) := by
  unfold execEventAccept
  split <;> exact completes_next _

theorem completes_fenceTimeout (g : Fin 4) : Completes (execFenceTimeout g s) := by
  unfold execFenceTimeout
  split
  · exact completes_either
  · exact completes_next _

theorem completes_midiByteParse (src : Fin 8) : Completes (execMidiByteParse src s) := by
  unfold execMidiByteParse
  split <;> exact completes_next _

theorem completes_nativePacketCharacter (src : Fin 8) : Completes (execNativePacketCharacter src s) := by
  unfold execNativePacketCharacter
  split <;> exact completes_next _

theorem completes_characterReceived (p : Fin 8) (line : List Nat) : Completes (execCharacterReceived p line s) := by
  unfold execCharacterReceived
  split
  · exact completes_next _
  · exact completes_ite (completes_next _) completes_either

theorem completes_workerJoin (address : BitVec 14) : Completes (execWorkerJoin address s) := by
  unfold execWorkerJoin
  split
  · exact completes_next _
  · exact completes_either

theorem completes_scrubWriteback : Completes (execScrubWriteback s) := by
  unfold execScrubWriteback
  split
  · exact completes_next _
  · refine completes_ite (completes_next _) ?_
    dsimp only
    split <;> exact completes_next _

theorem completes_backgroundRowTest (fails : Bool) (spares : List Bool) : Completes (execBackgroundRowTest fails spares s) := by
  refine completes_ite (completes_next _) ?_
  split
  · exact completes_next _
  · exact completes_either

theorem completes_bootTimeout (step : BootStep) (crystal44 : Bool) : Completes (execBootTimeout step crystal44 s) := by
  refine completes_ite (completes_next _) (completes_ite (completes_next _) ?_)
  split <;> exact completes_next _

theorem completes_storeOnHoldup (vhold : BitVec 16) (reachesVmin : Bool) : Completes (execStoreOnHoldup vhold reachesVmin s) := by
  unfold execStoreOnHoldup
  split
  · exact completes_either
  · exact completes_next _

theorem completes_streamFetch : Completes (execStreamFetch s) := by
  unfold execStreamFetch
  split
  · exact completes_next _
  · split <;> exact completes_next _

theorem completes_flashOperationDone : Completes (execFlashOperationDone s) := by
  unfold execFlashOperationDone
  split <;> exact completes_next _

theorem completes_wakeEvent (sources : BitVec 24) (fails : BitVec 16) : Completes (execWakeEvent sources fails s) := by
  unfold execWakeEvent
  exact completes_either

theorem completes_wakeStepTimeout (step : WakeStep) : Completes (execWakeStepTimeout step s) := by
  refine completes_ite (completes_next _) ?_
  cases step with
  | crystal => exact completes_either
  | bucks | pll | image | selfTest => exact completes_next _

theorem completes_breakpointHit (n : Fin 16) : Completes (execBreakpointHit n s) := by
  refine completes_ite ?_ (completes_next _)
  split <;> exact completes_next _

theorem completes_verbRegisterAccess (n : Fin 16) (value : Option Word) : Completes (execVerbRegisterAccess n value s) := by
  cases value <;> exact completes_next _

theorem completes_fuseVerify (blown : BitVec 32) (parity : Bool) : Completes (execFuseVerify blown parity s) := by
  unfold execFuseVerify
  split
  · exact completes_next _
  · exact completes_either

end Rows

/-- A command is a next state by its definition, or one in each of the cases that its row tells apart. -/
theorem completes_exec (c : Instr) (s : State) : Completes (exec c s) := by
  cases c
  case explogResult v => exact completes_explogResult s v
  case storeDeliver => exact completes_storeDeliver s
  case eventDeliver => exact completes_eventDeliver s
  case eventAccept => exact completes_eventAccept s
  case fenceTimeout g => exact completes_fenceTimeout s g
  case midiByteParse src => exact completes_midiByteParse s src
  case nativePacketCharacter src => exact completes_nativePacketCharacter s src
  case characterReceived p line => exact completes_characterReceived s p line
  case workerJoin address => exact completes_workerJoin s address
  case scrubWriteback => exact completes_scrubWriteback s
  case backgroundRowTest fails spares => exact completes_backgroundRowTest s fails spares
  case bootTimeout step crystal44 => exact completes_bootTimeout s step crystal44
  case storeOnHoldup vhold reachesVmin => exact completes_storeOnHoldup s vhold reachesVmin
  case streamFetch => exact completes_streamFetch s
  case flashOperationDone => exact completes_flashOperationDone s
  case wakeStepTimeout step => exact completes_wakeStepTimeout s step
  case breakpointHit n => exact completes_breakpointHit s n
  case verbRegisterAccess n value => exact completes_verbRegisterAccess s n value
  case fuseVerify blown parity => exact completes_fuseVerify s blown parity
  case wakeEvent sources fails => exact completes_wakeEvent s sources fails
  case timerCapture | modulatorOverload | linkTrainingTimeout | upb | portFrameIn | brownoutWarning | vholdShort | debugRead | debugWrite =>
    exact completes_ite (completes_next _) completes_either
  case baudApply => exact completes_ite completes_either completes_either
  case brownoutReset => exact completes_ite (completes_next _) (completes_ite (completes_next _) completes_either)
  case portFrameOut => exact completes_ite (completes_next _) (completes_ite completes_either completes_either)
  case crystalFail | crystalStartTimeout | frameBoundary | eventTake | tempoSourceLoss | watchdogFault | compareMatch | periodEnd |
      timerWrap | parkSwitchClose | monitorWindow | cvParkSwitchClose | cvSwitchOpen | cvRailLoss | cvRailGood | settleDone |
      thresholdCrossing | thresholdEvent | holdoffEnd | startEdge | characterTransmit | collisionRetry | roleDecision | upbExport |
      upbSopTimeout | periodicSync | replayTimeout | deviceRemoval | daiNoClock | bootSequence | verbProgramLoad | brownoutMute |
      commaAlignment | helloInterval | muteRampEnd | cvRampEnd =>
    exact completes_either
  all_goals exact completes_next _

/-- Settles O60: every command completes, and the queue is a Stable predicate, which every command keeps. -/
theorem commandsComplete : Obligations.CommandsComplete := fun c s =>
  have ⟨t, next⟩ := completes_exec c s
  ⟨t, next, st_exec (queueIs s.pending) c s rfl t next⟩

end Sys2Proof.Completion

/-! PROOFS. What the later chapters' statements share: a host write that is an operation, the registers after a series of updates, and
one member of an array that changes. -/

namespace Sys2Proof.Answers
open Sys2Proof.Machine Sys2Proof.Laws Sys2Proof.Architecture

/-! ### The registers of a state that differs elsewhere -/

section Literal
variable (s : State) (a i hi lo : Nat) {time host staged mem ecc memint gloss evt syns decls phrases alloc verbs parser ended boot tense timers
  analog pins power sp sys links dai flash nvm image fuse tap free pending}

/-- A state literal with the registers of s reads as s does. -/
theorem rd_lit : rd ⟨time, host, s.regs, staged, mem, ecc, memint, gloss, evt, syns, decls, phrases, alloc, verbs, parser, ended, boot, tense,
    timers, analog, pins, power, sp, sys, links, dai, flash, nvm, image, fuse, tap, free, pending⟩ a = rd s a := rfl

theorem flag_lit : flag ⟨time, host, s.regs, staged, mem, ecc, memint, gloss, evt, syns, decls, phrases, alloc, verbs, parser, ended, boot,
    tense, timers, analog, pins, power, sp, sys, links, dai, flash, nvm, image, fuse, tap, free, pending⟩ a i = flag s a i := rfl

theorem fld_lit : fld ⟨time, host, s.regs, staged, mem, ecc, memint, gloss, evt, syns, decls, phrases, alloc, verbs, parser, ended, boot,
    tense, timers, analog, pins, power, sp, sys, links, dai, flash, nvm, image, fuse, tap, free, pending⟩ a hi lo = fld s a hi lo := rfl

theorem asleep_lit : asleep ⟨time, host, s.regs, staged, mem, ecc, memint, gloss, evt, syns, decls, phrases, alloc, verbs, parser, ended, boot,
    tense, timers, analog, pins, power, sp, sys, links, dai, flash, nvm, image, fuse, tap, free, pending⟩ = asleep s := rfl

end Literal

section Reading
variable {s : State} {a b i hi lo : Nat} {v : Word}

theorem flag_wr_ne (h : b ≠ a) : flag (wr s a v) b i = flag s b i := by rw [flag, rd_wr_ne _ _ _ _ h, flag]

theorem fld_wr_ne (h : b ≠ a) : fld (wr s a v) b hi lo = fld s b hi lo := by rw [fld, rd_wr_ne _ _ _ _ h, fld]

theorem raiseIrq_eq : raiseIrq s i = wrFld s R.sysIrqstat i i 1 := rfl

end Reading

/-! ### A write that is an operation -/

section Operation
variable {ps : List Part} {rs : List Nat} {s u : State} {a e : Nat} {v : Word} {d : RegDesc}

/-- An operation that refuses nothing and leaves the device awake: the write is the operation, with the page's ERR register looked at from
0 and put back (R9). -/
theorem operation_done (he : pageOf a + 0xFFFC = e) (may : HostMayWrite s a) (row : Writable a d)
    (command : commandReg (wr s e 0) false a v = some u) (touched : Touches ps rs (wr s e 0) u) (apart : e ∉ rs) (awake : asleep u = false) :
    regWrite s a v = wr u e (rd s e) ∧ Touches ps rs s (regWrite s a v) := by
  subst he
  have operates : writeOn (wr s (pageOf a + 0xFFFC) 0) false d a v = u := by
    rw [writeOn, command]
    rfl
  have unrefused : rd u (pageOf a + 0xFFFC) = 0 := by rw [touched.regs _ apart, rd_wr]
  have stays : asleep (wr u (pageOf a + 0xFFFC) (rd s (pageOf a + 0xFFFC))) = false := by
    rw [asleep_wr _ _ _ (err_ne_stat a), awake]
  have value : regWrite s a v = wr u (pageOf a + 0xFFFC) (rd s (pageOf a + 0xFFFC)) := by
    unfold regWrite hostWrite
    rw [writeWord32_judged may row, judged_taken _ _ _ (operates.symm ▸ unrefused), operates]
    simp only [may.tap]
    rw [if_neg Bool.false_ne_true]
    unfold afterHost
    rw [if_neg row.reload, if_neg fun k => row.mailbox k.1, startWake_awake _ _ stays]
  exact ⟨value, value ▸ touches_taken _ touched⟩

/-- An operation that refuses itself. -/
theorem operation_refused {encoding : Bool} (he : pageOf a + 0xFFFC = e) (may : HostMayWrite s a) (row : Writable a d)
    (command : commandReg (wr s e 0) false a v = some (refuse (wr s e 0) a encoding)) : Refused s (regWrite s a v) a encoding := by
  subst he
  refine command_refused encoding may row ?_
  rw [writeOn, command]
  rfl

end Operation

/-! ### A code that is logged, and what comes before and after it -/

section Record
variable {s : State}

/-- A record stays of a code that was logged before what follows. -/
theorem logged_after {code : Nat} {d0 d1 d2 : Word} {t v : State} (h : Logged code d0 d1 d2 s t) (same : ∀ a ∈ recorderInputs, rd v a = rd t a)
    (time : v.time = t.time) (gloss : v.gloss = t.gloss) : Logged code d0 d1 d2 s v := by
  obtain ⟨u, recorder, stamp, inputs, value⟩ := h
  refine ⟨u, recorder, stamp.imp_right fun k => ?_, fun a ha => (inputs a ha).imp_right fun k => k.trans (same a ha).symm, gloss.trans value⟩
  exact ⟨by rw [time]; exact k.aoTime, by rw [time]; exact k.epoch, by rw [time]; exact k.epochSet, by rw [time]; exact k.stampOld⟩

/-- And of one raised in a state that differs from s in no input of the recorder. -/
theorem logged_before {code : Nat} {d0 d1 d2 : Word} {e v : State} (h : Logged code d0 d1 d2 e v) (same : ∀ a ∈ recorderInputs, rd e a = rd s a)
    (time : e.time = s.time) (gloss : e.gloss = s.gloss) : Logged code d0 d1 d2 s v := by
  obtain ⟨u, recorder, stamp, inputs, value⟩ := h
  refine ⟨u, recorder.trans gloss, stamp.imp_left fun k => ?_, fun a ha => (inputs a ha).imp_left fun k => k.trans (same a ha), value⟩
  exact ⟨by rw [← time]; exact k.aoTime, by rw [← time]; exact k.epoch, by rw [← time]; exact k.epochSet, by rw [← time]; exact k.stampOld⟩

end Record

end Sys2Proof.Answers

/-! PROOFS. The debug and security chapter's statement about the fuses. -/

namespace Sys2Proof.Fuses
open Sys2Proof.Machine Sys2Proof.Laws Sys2Proof.Architecture Sys2Proof.Answers

/-! ### FUSE_PROGRAM (R484, R485) -/

section Program
variable {s : State} {v : Word} {w r : Nat}

theorem writable_fusePctl : Writable R.fusePctl ((regDesc R.fusePctl).get (by decide)) := by constructor <;> decide

/-- The key is right and no word is being programmed: the write is the programming. -/
theorem writePctl_keyed (key : bits v 31 16 = 0x3C96) (idle : flag s R.fusePstat 30 = false) :
    writePctl s false v = fuseProgram s (bits v 3 0) := by
  simp [writePctl, key, idle]

/-- A shadow word does not lie in ERR. -/
theorem fuseWord_wr_fuseErr (x : Word) (hw : w < 16) : fuseWord (wr s R.fuseErr x) w = fuseWord s w :=
  rd_wr_ne _ _ _ _ (by unfold R.fuseWord R.fuseErr; omega)

/-- No check stands in the way. -/
theorem fuseObstacle_none (off : devState s = 1) (steady : flag s R.pwrStat 5 = false) (supplied : 5000 ≤ fld s R.pwrVin 15 0)
    (blank : fuseWord s w = 0) (sound : fuseErr s w = false) (plain : w = 0 ∨ w = 2) : fuseObstacle s w = none := by
  rcases plain with rfl | rfl <;> simp [fuseObstacle, off, steady, supplied, blank, sound]

/-- The first check that fails names the result. -/
def Obstructed (s : State) (w r : Nat) : Prop :=
  (r = 1 ∧ devState s ≠ 1 ∧ flag s R.nvmBoot 31 = false) ∨
    (r = 2 ∧ devState s = 1 ∧ (flag s R.pwrStat 5 = true ∨ fld s R.pwrVin 15 0 < 5000)) ∨
    (r = 3 ∧ devState s = 1 ∧ flag s R.pwrStat 5 = false ∧ 5000 ≤ fld s R.pwrVin 15 0 ∧
      (fuseWord s w ≠ 0 ∨ fuseErr s w = true ∨ w ∈ [3, 4, 5, 14, 15]))

theorem fuseObstacle_some (h : Obstructed s w r) : fuseObstacle s w = some r := by
  rcases h with ⟨rfl, state, booted⟩ | ⟨rfl, off, supply⟩ | ⟨rfl, off, steady, supplied, word⟩
  · exact if_pos ⟨state, by simp [booted]⟩
  · exact (if_neg fun k => k.1 off).trans (if_pos supply)
  · refine (if_neg fun k => k.1 off).trans ((if_neg (by simp [steady, supplied])).trans (if_pos ?_))
    simp only [List.mem_cons, List.not_mem_nil, or_false] at word
    rcases word with written | failed | rfl | rfl | rfl | rfl | rfl
    · exact .inl written
    · exact .inr (.inl failed)
    all_goals simp

theorem obstructed_wr_fuseErr (x : Word) (hw : w < 16) : Obstructed (wr s R.fuseErr x) w r ↔ Obstructed s w r := by
  unfold Obstructed devState fuseErr
  simp (disch := decide) only [flag_wr_ne, fld_wr_ne, fuseWord_wr_fuseErr x hw]

/-- BUSY reads 1. -/
def busyShown (s : State) : State := setFlag (setFlag (clrFlag s R.fusePstat 31) R.fusePstat 30) R.pwrStat 3

/-- The word is being programmed (R485). -/
def programming (s : State) (w : Nat) : State :=
  { busyShown s with fuse := { (busyShown s).fuse with prog := some (w, rd (busyShown s) R.fusePdata) } }

theorem fuseProgram_starts (clear : fuseObstacle s w = none) : fuseProgram s w = programming s w := by
  unfold fuseProgram programming busyShown
  rw [clear]

theorem fuseProgram_obstructed (h : Obstructed s w r) : fuseProgram s w = fuseResult s r := by
  simp only [fuseProgram, fuseObstacle_some h]

theorem touches_busyShown : Touches [] [R.fusePstat, R.pwrStat] s (busyShown s) :=
  touches_setFlag (touches_setFlag (touches_clrFlag touches_rfl _ (by decide)) _ (by decide)) _ (by decide)

theorem touches_programming : Touches [.fuse] [R.fusePstat, R.pwrStat] s (programming s w) :=
  touches_fuse (touches_mono touches_busyShown (by decide) (List.Subset.refl _)) _ (by decide)

theorem flags_busyShown : flag (busyShown s) R.fusePstat 30 = true ∧ flag (busyShown s) R.fusePstat 31 = false ∧
    flag (busyShown s) R.pwrStat 3 = true ∧ asleep (busyShown s) = asleep s := by
  simp (disch := decide) [busyShown, asleep, setFlag_eq, clrFlag_eq, flag_wrFld_ne, flag_wrFld, flag_wrFld_apart, fld_wrFld_ne, fld_wrFld_apart]

theorem touches_fuseResult : Touches [] [R.fusePstat, R.sysIrqstat] s (fuseResult s r) :=
  touches_ite (touches_wrFld touches_rfl _ _ _ (by decide))
    (touches_raiseIrq (touches_setFlag (touches_wrFld touches_rfl _ _ _ (by decide)) _ (by decide)) _ (by decide))

/-- DONE rises with the result, and FUSE in IRQSTAT (R32). -/
theorem fuseResult_rises (undone : flag s R.fusePstat 31 = false) (small : r < 16) :
    fld (fuseResult s r) R.fusePstat 3 0 = r ∧ flag (fuseResult s r) R.fusePstat 31 = true ∧
      flag (fuseResult s r) R.sysIrqstat 16 = true ∧ flag (fuseResult s r) R.fusePstat 30 = flag s R.fusePstat 30 := by
  have rises : fuseResult s r = raiseIrq (setFlag (wrFld s R.fusePstat 3 0 r) R.fusePstat 31) 16 :=
    if_neg (by rw [flag_wrFld_apart (by decide) (by decide) (by decide), undone]; decide)
  rw [rises, raiseIrq_eq]
  simp (disch := decide) only [setFlag_eq, flag_wrFld_ne, fld_wrFld_ne, flag_wrFld, flag_wrFld_apart, fld_wrFld_apart, and_true]
  exact ⟨fld_wrFld_fits (by decide) (by decide) small, rfl, rfl⟩

theorem fuseProgram_taken (may : HostMayWrite s R.fusePctl) (key : bits v 31 16 = 0x3C96) (hw : w = bits v 3 0)
    (idle : flag s R.fusePstat 30 = false) (off : devState s = 1) (steady : flag s R.pwrStat 5 = false)
    (supplied : 5000 ≤ fld s R.pwrVin 15 0) (blank : fuseWord s w = 0) (sound : fuseErr s w = false) (plain : w = 0 ∨ w = 2) :
    ∃ t, exec (.fuseProgram v) s = .next t ∧ flag t R.fusePstat 30 = true ∧ flag t R.fusePstat 31 = false ∧
      flag t R.pwrStat 3 = true ∧ t.fuse = { s.fuse with prog := some (w, rd s R.fusePdata) } ∧
      Touches [.fuse] [R.fusePstat, R.pwrStat] s t := by
  have clear : fuseObstacle (wr s R.fuseErr 0) w = none :=
    fuseObstacle_none ((fld_wr_ne (by decide)).trans off) ((flag_wr_ne (by decide)).trans steady)
      ((fld_wr_ne (s := s) (a := R.fuseErr) (v := 0) (b := R.pwrVin) (hi := 15) (lo := 0) (by decide)).symm ▸ supplied)
      ((fuseWord_wr_fuseErr 0 (by omega)).trans blank) ((flag_wr_ne (by decide)).trans sound) plain
  have starts : writePctl (wr s R.fuseErr 0) false v = programming (wr s R.fuseErr 0) w := by
    rw [writePctl_keyed key ((flag_wr_ne (by decide)).trans idle), ← hw, fuseProgram_starts clear]
  obtain ⟨busy, undone, shown, stays⟩ := flags_busyShown (s := wr s R.fuseErr 0)
  obtain ⟨value, frame⟩ := operation_done rfl may writable_fusePctl (congrArg some starts) touches_programming (by decide)
    (by rw [programming, asleep_lit, stays, asleep_wr _ _ _ (by decide), may.awake])
  refine ⟨_, rfl, ?_, ?_, ?_, ?_, frame⟩
  all_goals rw [value]
  · rw [flag_wr_ne (by decide), programming, flag_lit, busy]
  · rw [flag_wr_ne (by decide), programming, flag_lit, undone]
  · rw [flag_wr_ne (by decide), programming, flag_lit, shown]
  · rw [wr_fuse, programming, touches_busyShown.regs _ (by decide), rd_wr_ne _ _ _ _ (by decide),
      touches_busyShown.parts.fuse (by decide), wr_fuse]

/-- A check that fails: the result, DONE and the interrupt. -/
theorem fuseProgram_answers (may : HostMayWrite s R.fusePctl) (key : bits v 31 16 = 0x3C96) (hw : w = bits v 3 0)
    (idle : flag s R.fusePstat 30 = false) (undone : flag s R.fusePstat 31 = false) (obstructed : Obstructed s w r) :
    ∃ t, exec (.fuseProgram v) s = .next t ∧ fld t R.fusePstat 3 0 = r ∧ flag t R.fusePstat 31 = true ∧
      flag t R.sysIrqstat 16 = true ∧ Touches [] [R.fusePstat, R.sysIrqstat] s t := by
  have few : w < 16 := hw ▸ Nat.mod_lt _ (by decide)
  have small : r < 16 := by rcases obstructed with ⟨rfl, -⟩ | ⟨rfl, -⟩ | ⟨rfl, -⟩ <;> decide
  have answers : writePctl (wr s R.fuseErr 0) false v = fuseResult (wr s R.fuseErr 0) r := by
    rw [writePctl_keyed key ((flag_wr_ne (by decide)).trans idle), ← hw,
      fuseProgram_obstructed ((obstructed_wr_fuseErr 0 few).mpr obstructed)]
  have awake : asleep (fuseResult (wr s R.fuseErr 0) r) = false :=
    (asleep_touches touches_fuseResult (by decide)).trans ((asleep_wr _ _ _ (by decide)).trans may.awake)
  obtain ⟨value, frame⟩ := operation_done rfl may writable_fusePctl (congrArg some answers) touches_fuseResult (by decide) awake
  obtain ⟨result, done, raised, -⟩ := fuseResult_rises (s := wr s R.fuseErr 0) ((flag_wr_ne (by decide)).trans undone) small
  refine ⟨_, rfl, ?_, ?_, ?_, frame⟩
  all_goals rw [value]
  · exact (fld_wr_ne (by decide)).trans result
  · exact (flag_wr_ne (by decide)).trans done
  · exact (flag_wr_ne (by decide)).trans raised

theorem fuseProgram_wrongKey (may : HostMayWrite s R.fusePctl) (key : bits v 31 16 ≠ 0x3C96) :
    ∃ t, exec (.fuseProgram v) s = .next t ∧ Refused s t R.fusePctl true :=
  ⟨_, rfl, operation_refused rfl may writable_fusePctl (congrArg some (if_pos key))⟩

end Program

/-! ### FUSE_VERIFY (R484, R486) -/

section Verify
variable {s : State} {w : Nat} {d : Word} {blown : BitVec 32} {parity : Bool}

/-- The fuses reported are blown beside those that were, and BUSY clears. -/
def verified (s : State) (w : Nat) (blown : BitVec 32) (parity : Bool) : State :=
  clrFlag (clrFlag { s with fuse := { blown := s.fuse.blown.set w ((nth s.fuse.blown w (0, false)).1 ||| blown,
    (nth s.fuse.blown w (0, false)).2 || parity), prog := none } } R.fusePstat 30) R.pwrStat 3

theorem exec_fuseVerify (under : s.fuse.prog = some (w, d)) : exec (.fuseVerify blown parity) s =
    if blown = d ∧ parity = oddOnes d then
      .next (fuseResult (if w = 0 then resumeAll (wr (verified s w blown parity) (R.fuseWord + 4 * w) d)
        else wr (verified s w blown parity) (R.fuseWord + 4 * w) d) 0)
    else .next (fuseResult (verified s w blown parity) 5) := by
  show execFuseVerify blown parity s = _
  unfold execFuseVerify
  rw [under]
  rfl

theorem touches_verified : Touches [.fuse] [R.fusePstat, R.pwrStat] s (verified s w blown parity) :=
  touches_clrFlag (touches_clrFlag (touches_fuse touches_rfl _ (by decide)) _ (by decide)) _ (by decide)

theorem flags_verified : flag (verified s w blown parity) R.fusePstat 30 = false ∧ flag (verified s w blown parity) R.pwrStat 3 = false ∧
    flag (verified s w blown parity) R.fusePstat 31 = flag s R.fusePstat 31 := by
  simp (disch := decide) [verified, clrFlag_eq, flag_wrFld_ne, flag_wrFld, flag_wrFld_apart, flag_lit]

theorem fuse_verified : (verified s w blown parity).fuse =
    { blown := s.fuse.blown.set w ((nth s.fuse.blown w (0, false)).1 ||| blown, (nth s.fuse.blown w (0, false)).2 || parity),
      prog := none } := by
  rw [verified, clrFlag_fuse, clrFlag_fuse]

/-- What both results show. -/
theorem fuseResult_ends {t : State} {r : Nat} (busy : flag t R.fusePstat 30 = false) (undone : flag t R.fusePstat 31 = false)
    (small : r < 16) : fld (fuseResult t r) R.fusePstat 3 0 = r ∧ flag (fuseResult t r) R.fusePstat 30 = false ∧
      flag (fuseResult t r) R.fusePstat 31 = true ∧ flag (fuseResult t r) R.pwrStat 3 = flag t R.pwrStat 3 ∧
      flag (fuseResult t r) R.sysIrqstat 16 = true := by
  obtain ⟨result, done, raised, kept⟩ := fuseResult_rises undone small
  exact ⟨result, kept.trans busy, done, congrArg (bitOf · 3) (touches_fuseResult.regs _ (by decide)), raised⟩

theorem fuseVerify_right (under : s.fuse.prog = some (w, d)) (notDebug : w ≠ 0) (few : w < 16) (undone : flag s R.fusePstat 31 = false) :
    ∃ t, exec (.fuseVerify d (oddOnes d)) s = .next t ∧ fuseWord t w = d ∧ fld t R.fusePstat 3 0 = 0 ∧
      flag t R.fusePstat 30 = false ∧ flag t R.fusePstat 31 = true ∧ flag t R.pwrStat 3 = false ∧ flag t R.sysIrqstat 16 = true ∧
      t.fuse.prog = none ∧
      t.fuse.blown = s.fuse.blown.set w ((nth s.fuse.blown w (0, false)).1 ||| d, (nth s.fuse.blown w (0, false)).2 || oddOnes d) ∧
      Touches [.fuse] [R.fuseWord + 4 * w, R.fusePstat, R.pwrStat, R.sysIrqstat] s t := by
  have below : R.fuseWord + 4 * w < R.fusePerr := by unfold R.fuseWord R.fusePerr; omega
  have apart : ∀ a ∈ [R.fusePstat, R.sysIrqstat, R.pwrStat], a ≠ R.fuseWord + 4 * w := by
    have other : ∀ a ∈ [R.fusePstat, R.sysIrqstat, R.pwrStat], a < R.fuseWord ∨ R.fusePerr ≤ a := by decide
    intro a member
    have := other a member
    omega
  let shadowed := wr (verified s w d (oddOnes d)) (R.fuseWord + 4 * w) d
  obtain ⟨busy, idle, before⟩ := flags_verified (s := s) (w := w) (blown := d) (parity := oddOnes d)
  obtain ⟨result, ended, done, shown, raised⟩ := fuseResult_ends (t := shadowed) (r := 0)
    ((flag_wr_ne (apart _ (by decide))).trans busy) ((flag_wr_ne (apart _ (by decide))).trans (before.trans undone)) (by decide)
  have frame : Touches [.fuse] [R.fuseWord + 4 * w, R.fusePstat, R.pwrStat, R.sysIrqstat] s (fuseResult shadowed 0) :=
    touches_trans (touches_wr (touches_mono touches_verified (List.Subset.refl _) (by simp)) _ (by simp))
      (touches_mono touches_fuseResult (List.nil_subset _) (by simp))
  have fuses : (fuseResult shadowed 0).fuse = (verified s w d (oddOnes d)).fuse :=
    (touches_fuseResult.parts.fuse (by decide)).trans (wr_fuse ..)
  refine ⟨_, ((exec_fuseVerify under).trans (if_pos ⟨rfl, rfl⟩)).trans (by rw [if_neg notDebug]), ?_, result, ended, done,
    shown.trans ((flag_wr_ne (apart _ (by decide))).trans idle), raised, ?_, ?_, frame⟩
  · rw [fuseWord, touches_fuseResult.regs _ fun member => ?_, rd_wr]
    exact apart _ (by simp only [List.mem_cons, List.not_mem_nil, or_false] at member ⊢; tauto) rfl
  · rw [fuses, fuse_verified]
  · rw [fuses, fuse_verified]

theorem fuseVerify_wrong (under : s.fuse.prog = some (w, d)) (undone : flag s R.fusePstat 31 = false)
    (wrong : blown ≠ d ∨ parity ≠ oddOnes d) :
    ∃ t, exec (.fuseVerify blown parity) s = .next t ∧ fld t R.fusePstat 3 0 = 5 ∧ flag t R.fusePstat 30 = false ∧
      flag t R.fusePstat 31 = true ∧ flag t R.pwrStat 3 = false ∧ flag t R.sysIrqstat 16 = true ∧ t.fuse.prog = none ∧
      t.fuse.blown = s.fuse.blown.set w ((nth s.fuse.blown w (0, false)).1 ||| blown, (nth s.fuse.blown w (0, false)).2 || parity) ∧
      Touches [.fuse] [R.fusePstat, R.pwrStat, R.sysIrqstat] s t := by
  obtain ⟨busy, idle, before⟩ := flags_verified (s := s) (w := w) (blown := blown) (parity := parity)
  obtain ⟨result, ended, done, shown, raised⟩ := fuseResult_ends (r := 5) busy (before.trans undone) (by decide)
  have fuses : (fuseResult (verified s w blown parity) 5).fuse = (verified s w blown parity).fuse :=
    touches_fuseResult.parts.fuse (by decide)
  refine ⟨_, (exec_fuseVerify under).trans (if_neg (by tauto)), result, ended, done, shown.trans idle, raised, ?_, ?_,
    touches_trans (touches_mono touches_verified (List.Subset.refl _) (by decide))
      (touches_mono touches_fuseResult (List.nil_subset _) (by decide))⟩
  · rw [fuses, fuse_verified]
  · rw [fuses, fuse_verified]

theorem fuseVerify_idle (idle : s.fuse.prog = none) : exec (.fuseVerify blown parity) s = .next s := by
  show execFuseVerify blown parity s = _
  unfold execFuseVerify
  rw [idle]

end Verify

/-- Settles O56: the write of FUSE.PCTL is the programming of its word or the result that the first failing check names; verification adds
the fuses reported to those blown, and its result depends on the ones meant alone. -/
theorem fusesBlown : Obligations.FusesBlown :=
  ⟨fun _ _ _ => fuseProgram_taken, fun _ _ _ _ may key hw idle undone => fuseProgram_answers may key hw idle undone,
    fun _ _ => fuseProgram_wrongKey, fun _ _ _ => fuseVerify_right, fun _ _ _ _ _ => fuseVerify_wrong, fun _ _ _ => fuseVerify_idle⟩

end Sys2Proof.Fuses

/-! PROOFS. Verb debug (R479 to R482): the statement fails where the resumed Word-frame is the first of the open frame on its Verb. -/

namespace Sys2Proof.Debug
open Sys2Proof.Machine Sys2Proof.Laws Sys2Proof.Architecture

/-- A Word-frame of frame 0 that has spent nothing. -/
def firstFrame : WordFrame :=
  { frame := 0, pos := 0, widx := 0, cost := 0, windows := [], isPre := false, reason := 0, resumed := false, start := 0, stores := [],
    events := [], dropped := 0, overReported := false, scratch := [] }

/-- The reset state but for Verb 0, which is halted in a Word-frame of the open frame, with no q₀ noted for that frame yet (R144). -/
def haltedAtFirst : State :=
  { State.reset with
    verbs := { bankA := { wf := some firstFrame }, running := true, halted := true } :: List.replicate 15 {} }

theorem haltedAtFirst_mayWrite : HostMayWrite haltedAtFirst (R.vdbgVctl + 0x40 * (0 : Fin 16)) := by
  constructor <;> decide

/-- The resume notes q₀ (R126, R143): `noteFirst` finds a running Word-frame of the open frame and no q₀. -/
theorem resume_notes_first :
    (verbOf (regWrite haltedAtFirst (R.vdbgVctl + 0x40 * (0 : Fin 16)) (w32 (2 * fld haltedAtFirst (R.vdbgVctl + 0x40 * (0 : Fin 16)) 1 1)))
      0).q0 = some (0, 0) := by
  decide

/-- Refutes O55: its resume clause leaves q₀ of the Verb as it was, but the first Word-frame of the open frame that goes on with none noted
fixes it (R126, R143, R144). -/
theorem not_verbDebug : ¬ Obligations.VerbDebug := by
  unfold Obligations.VerbDebug
  rintro ⟨-, -, resumes, -⟩
  obtain ⟨t, runs, -, kept, -⟩ := resumes haltedAtFirst 0 haltedAtFirst_mayWrite (by decide) (by decide) (by decide) (by decide) (by decide)
  have ends : regWrite haltedAtFirst (R.vdbgVctl + 0x40 * (0 : Fin 16))
      (w32 (2 * fld haltedAtFirst (R.vdbgVctl + 0x40 * (0 : Fin 16)) 1 1)) = t := Host.Outcome.next.inj runs
  have unnoted : (verbOf t 0).q0 = none := congrArg VerbSt.q0 kept
  rw [← ends, resume_notes_first] at unnoted
  cases unnoted

end Sys2Proof.Debug

/-! PROOFS. Words and ranges of memory after a write: what the later chapters' statements read there. -/

namespace Sys2Proof.Answers
open Sys2Proof.Machine Sys2Proof.Laws Sys2Proof.Architecture

section Memory
variable {ps : List Part} {rs : List Nat} {s t : State} {a b lo hi : Nat} {d : DWord}

theorem length_wordBytes (d : DWord) : (wordBytes d).length = 8 := length_leBytes ..

theorem memByte_putWord : memByte (putWord s a d) b = if a ≤ b ∧ b < a + 8 then nth (wordBytes d) (b - a) 0 else memByte s b := by
  rw [putWord, memByte_putBytes, length_wordBytes]
  rfl

theorem memByte_putWord_apart (h : b < a ∨ a + 8 ≤ b) : memByte (putWord s a d) b = memByte s b := by
  rw [memByte_putWord, if_neg (by omega)]

/-- A word's bytes give the word again. -/
theorem memWord_putWord : memWord (putWord s a d) a = d := by
  have bytes := memBytes_putBytes { s with ecc := mapErase s.ecc a } a (wordBytes d) 0 8 (by rw [length_wordBytes])
  have whole : ((wordBytes d).drop 0).take 8 = wordBytes d := List.take_of_length_le (length_wordBytes d).le
  have fits := d.isLt
  rw [Nat.add_zero, whole] at bytes
  rw [memWord, putWord, bytes, wordBytes, leNat_leBytes, w64]
  exact BitVec.eq_of_toNat_eq (by rw [BitVec.toNat_ofNat]; omega)

/-- Words whose bytes agree are equal. -/
theorem memWord_congr (h : ∀ i, i < 8 → memByte t (b + i) = memByte s (b + i)) : memWord t b = memWord s b := by
  have bytes : memBytes t b 8 = memBytes s b 8 := List.map_congr_left fun i hi => h i (List.mem_range.1 hi)
  rw [memWord, bytes, memWord]

theorem memWord_putWord_apart (h : b + 8 ≤ a ∨ a + 8 ≤ b) : memWord (putWord s a d) b = memWord s b :=
  memWord_congr fun i hi => memByte_putWord_apart (by omega)

/-- Memory and its check bits change together. -/
theorem touches_stored (h : Touches ps rs s t) (m : List (Nat × Byte)) (e : List (Nat × BitVec 88)) (mem : Part.mem ∈ Part.regs :: ps)
    (ecc : Part.ecc ∈ Part.regs :: ps) : Touches ps rs s { t with mem := m, ecc := e } := by
  have kept := touches_ecc (touches_mem h m mem) e ecc
  exact kept

theorem touches_putWordAt (h : Touches ps rs s t) (a : Nat) (d : DWord) (mem : Part.mem ∈ Part.regs :: ps)
    (ecc : Part.ecc ∈ Part.regs :: ps) : Touches ps rs s (putWord t a d) := by
  unfold putWord
  exact touches_putBytes (touches_ecc h _ ecc) _ _ mem

theorem storeWords_nil : storeWords s a [] = s := rfl

theorem storeWords_cons {ds : List DWord} : storeWords s a (d :: ds) = storeWords (putWord s a d) (a + 8) ds := by
  conv => lhs; unfold storeWords

theorem touches_storeWords (h : Touches ps rs s t) (a : Nat) (ds : List DWord) (mem : Part.mem ∈ Part.regs :: ps)
    (ecc : Part.ecc ∈ Part.regs :: ps) : Touches ps rs s (storeWords t a ds) := by
  induction ds generalizing t a with
  | nil => rwa [storeWords_nil]
  | cons d ds ih =>
    rw [storeWords_cons]
    exact ih (touches_putWordAt h a d mem ecc) (a + 8)

theorem memByte_storeWords_apart {ds : List DWord} (h : b < a ∨ a + 8 * ds.length ≤ b) : memByte (storeWords s a ds) b = memByte s b := by
  induction ds generalizing s a with
  | nil => rw [storeWords_nil]
  | cons d ds ih =>
    rw [List.length_cons] at h
    rw [storeWords_cons, ih (by omega), memByte_putWord_apart (by omega)]

/-- Each word stored reads back. -/
theorem memWord_storeWords {ds : List DWord} {i : Nat} (hi : i < ds.length) : memWord (storeWords s a ds) (a + 8 * i) = nth ds i 0 := by
  induction ds generalizing s a i with
  | nil => exact absurd hi (Nat.not_lt_zero i)
  | cons d ds ih =>
    rw [storeWords_cons]
    cases i with
    | zero =>
      rw [memWord_congr fun k hk => memByte_storeWords_apart (by omega), Nat.mul_zero, Nat.add_zero, memWord_putWord]
      rfl
    | succ i =>
      rw [show a + 8 * (i + 1) = a + 8 + 8 * i by omega, ih (Nat.lt_of_succ_lt_succ hi)]
      rfl

/-- Memory is read from its own part alone. -/
theorem memByte_of_mem (h : t.mem = s.mem) : memByte t b = memByte s b := by rw [memByte, h, memByte]

theorem memWord_of_mem (h : t.mem = s.mem) : memWord t b = memWord s b := memWord_congr fun _ _ => memByte_of_mem h

theorem mapGet_filter {α : Type} (m : List (Nat × α)) (p : Nat → Bool) (k : Nat) :
    mapGet (m.filter fun c => p c.1) k = if p k then mapGet m k else none := by
  induction m with
  | nil => simp [mapGet]
  | cons c m ih =>
    obtain ⟨key, x⟩ := c
    by_cases same : k = key
    · subst same
      by_cases kept : p k <;> simp [mapGet, kept, ih]
    · by_cases kept : p key <;> simp [mapGet, kept, same, ih]

theorem memByte_clearRange : memByte (clearRange s lo hi) b = if lo ≤ b ∧ b < hi then 0 else memByte s b := by
  have found := mapGet_filter s.mem (fun c => c < lo || hi ≤ c) b
  unfold memByte clearRange
  simp only [found, Bool.or_eq_true, decide_eq_true_eq]
  by_cases inside : lo ≤ b ∧ b < hi
  · rw [if_neg (by omega), if_pos inside]
    rfl
  · rw [if_pos (by omega), if_neg inside]

theorem touches_clearRange (h : Touches ps rs s t) (lo hi : Nat) (mem : Part.mem ∈ Part.regs :: ps) (ecc : Part.ecc ∈ Part.regs :: ps) :
    Touches ps rs s (clearRange t lo hi) := by
  unfold clearRange
  exact touches_stored h _ _ mem ecc

end Memory

/-! ### The registers of a state whose recorder differs -/

section Recorder
variable {s : State} {f : GlossSt → GlossSt} {a i hi lo : Nat}

theorem rd_onGloss : rd (onGloss s f) a = rd s a := by rw [onGloss, rd_lit]

theorem flag_onGloss : flag (onGloss s f) a i = flag s a i := by rw [onGloss, flag_lit]

theorem fld_onGloss : fld (onGloss s f) a hi lo = fld s a hi lo := by rw [onGloss, fld_lit]

theorem onGloss_gloss : (onGloss s f).gloss = f s.gloss := by rw [onGloss]

theorem onGloss_time : (onGloss s f).time = s.time := by rw [onGloss]

theorem wr_onGloss {e : Nat} {x : Word} : wr (onGloss s f) e x = onGloss (wr s e x) f := by rw [wr, onGloss, onGloss, wr]

end Recorder

end Sys2Proof.Answers

/-! PROOFS. The event recorder's commands and two windows of the Parser (R155, R463 to R470). -/

namespace Sys2Proof.Recorder
open Sys2Proof.Machine Sys2Proof.Laws Sys2Proof.Architecture Sys2Proof.SerialPorts Sys2Proof.Answers

section State
variable {ps : List Part} {rs : List Nat} {s t : State} {f : GlossSt → GlossSt}

theorem touches_onGloss (h : Touches ps rs s t) (f : GlossSt → GlossSt) (gloss : Part.gloss ∈ Part.regs :: ps) :
    Touches ps rs s (onGloss t f) := touches_gloss h _ gloss

theorem glossDirect_of_touches (h : Touches ps rs s t) (reach : t.gloss.reachable = s.gloss.reachable) (kept : R.pwrDomstat ∉ rs) :
    glossDirect t = glossDirect s := by
  rw [glossDirect, glossDirect, reach, domainOn, domainOn, flag_congr (h.regs _ kept)]

/-- An entry takes its stamp from the time and the sample rate (R461). -/
theorem glossEntry_congr {code supp : Nat} {d0 d1 d2 : Word} (time : t.time = s.time) (clock : rd t R.clkStat = rd s R.clkStat) :
    glossEntry t code supp d0 d1 d2 = glossEntry s code supp d0 d1 d2 := by
  have rate : tclkPerSample t = tclkPerSample s := by
    rw [tclkPerSample, rateLog, fsCode, fld_congr clock, tclkPerSample, rateLog, fsCode]
  have stamp : glossStamp t = glossStamp s := by
    rw [glossStamp, nowStamp, stampOf, rate, time, glossStamp, nowStamp, stampOf]
  rw [glossEntry, stamp, time, glossEntry]

end State

/-! ### Entries are stored (R463, R464) -/

section Store
variable {s : State} {e : GlossEntry} {rest : List GlossEntry}

/-- The state once the oldest staged entry has left the queue. -/
def taken (s : State) (rest : List GlossEntry) : State := onGloss s fun g => { g with staging := rest, room := false }

/-- The oldest staged entry is stored as it is, where no codes were lost. -/
theorem storeNext_oldest (running : s.gloss.frozen = false) (idle : s.gloss.storing = false) (staged : s.gloss.staging = e :: rest)
    (complete : s.gloss.lost = none) : storeNext s = storeEntry (taken s rest) e := by
  have next : nextEntry s = some e := by simp [nextEntry, running, idle, staged]
  simp only [storeNext, next, complete]
  unfold taken onGloss
  simp [staged, complete]

/-- The pointers after an entry (R463, R474). -/
def advanced (g : GlossSt) : GlossSt :=
  if g.kcount < 256 then { g with kcount := g.kcount + 1, valid := true }
  else { g with rhead := (g.rhead + 1) % 768, wrap := g.wrap || g.rhead = 767, valid := true }

theorem storeEntry_eq : storeEntry s e = raiseIrq (onGloss (storeWords s (glossPlace s) (glossWords e)) advanced) 14 := rfl

theorem touches_storeEntry : Touches [.gloss, .mem, .ecc] [R.sysIrqstat] s (storeEntry s e) := by
  rw [storeEntry_eq]
  exact touches_raiseIrq (touches_onGloss (touches_storeWords touches_rfl _ _ (by decide) (by decide)) _ (by decide)) _ (by decide)

theorem storeEntry_gloss : (storeEntry s e).gloss = advanced s.gloss := by
  have kept : (storeWords s (glossPlace s) (glossWords e)).gloss = s.gloss :=
    (touches_storeWords (ps := [.mem, .ecc]) (rs := []) touches_rfl _ _ (by decide) (by decide)).parts.gloss (by decide)
  rw [storeEntry_eq, raiseIrq_gloss, onGloss_gloss, kept]

theorem storeEntry_mem : (storeEntry s e).mem = (storeWords s (glossPlace s) (glossWords e)).mem := by
  rw [storeEntry_eq, raiseIrq_mem, onGloss_mem]

theorem storeEntry_word {i : Nat} (hi : i < 4) : memWord (storeEntry s e) (glossPlace s + 8 * i) = nth (glossWords e) i 0 :=
  (memWord_of_mem storeEntry_mem).trans (memWord_storeWords (ds := glossWords e) hi)

theorem storeEntry_apart {b : Nat} (apart : b < glossPlace s ∨ glossPlace s + 32 ≤ b) : memByte (storeEntry s e) b = memByte s b :=
  (memByte_of_mem storeEntry_mem).trans (memByte_storeWords_apart (ds := glossWords e) apart)

theorem storeEntry_irq : flag (storeEntry s e) R.sysIrqstat 14 = true := by
  rw [storeEntry_eq, raiseIrq, flag_setFlag _ _ _ (by decide)]

/-- An entry is stored in the next kept place, or else the next circulating one (R463). -/
theorem glossEntryStore_stores {place : Nat} (direct : glossDirect s = true) (running : s.gloss.frozen = false)
    (idle : s.gloss.storing = false) (staged : s.gloss.staging = e :: rest) (complete : s.gloss.lost = none)
    (hp : place = (if s.gloss.kcount < 256 then 0x015C0000 + 32 * s.gloss.kcount else 0x015C2000 + 32 * s.gloss.rhead)) :
    ∃ t, exec .glossEntryStore s = .next t ∧ (∀ i, i < 4 → memWord t (place + 8 * i) = nth (glossWords e) i 0) ∧
      (∀ b, b < place ∨ place + 32 ≤ b → memByte t b = memByte s b) ∧
      t.gloss = (if s.gloss.kcount < 256 then
        { s.gloss with staging := rest, room := false, kcount := s.gloss.kcount + 1, valid := true }
      else
        { s.gloss with
          staging := rest, room := false, rhead := (s.gloss.rhead + 1) % 768, wrap := s.gloss.wrap || s.gloss.rhead = 767,
          valid := true }) ∧
      flag t R.sysIrqstat 14 = true ∧ Touches [.gloss, .mem, .ecc] [R.sysIrqstat] s t := by
  have here : glossPlace (taken s rest) = place := hp.symm
  have gone : Touches [.gloss, .mem, .ecc] [R.sysIrqstat] s (taken s rest) := touches_onGloss touches_rfl _ (by decide)
  refine ⟨storeEntry (taken s rest) e, ?_, ?_, ?_, storeEntry_gloss, ?_, touches_trans gone touches_storeEntry⟩
  · show Host.Outcome.next (if glossDirect s then storeNext s else s) = _
    rw [if_pos direct, storeNext_oldest running idle staged complete]
  · exact here ▸ fun i hi => storeEntry_word hi
  · exact here ▸ fun b hb => storeEntry_apart hb
  · exact storeEntry_irq

/-- Nothing is staged, or the bank is out of reach. -/
theorem glossEntryStore_idle (idle : glossDirect s = false ∨ s.gloss.staging = []) : exec .glossEntryStore s = .next s := by
  show Host.Outcome.next (if glossDirect s then storeNext s else s) = _
  by_cases direct : glossDirect s = true
  · have empty : s.gloss.staging = [] := idle.resolve_left (by simp [direct])
    have none : nextEntry s = none := by simp [nextEntry, empty]
    rw [if_pos direct, storeNext, none]
  · rw [if_neg direct]

end Store

/-! ### Freeze and resume (R468) -/

section Freeze
variable {s : State}

theorem glossFreeze_freezes : ∃ t, exec .glossFreeze s = .next t ∧ flag t R.glossCtl 0 = true ∧ t.gloss = { s.gloss with frozen := true } ∧
    Touches [.gloss] [R.glossCtl] s t :=
  ⟨glossFreeze s, rfl, flag_onGloss.trans (flag_setFlag _ _ _ (by decide)), onGloss_gloss.trans (by rw [setFlag_gloss]), touches_onGloss (touches_setFlag touches_rfl _ (by decide)) _ (by decide)⟩

/-- The recorder records again. -/
def resumed (s : State) : State := onGloss (clrFlag s R.glossCtl 0) fun g => { g with frozen := false }

theorem touches_resumed : Touches [.gloss] [R.glossCtl] s (resumed s) :=
  touches_onGloss (touches_clrFlag touches_rfl _ (by decide)) _ (by decide)

theorem flag_resumed : flag (resumed s) R.glossCtl 0 = false := by
  rw [resumed, flag_onGloss, flag_clrFlag _ _ _ (by decide)]

theorem resumed_gloss : (resumed s).gloss = { s.gloss with frozen := false } := by rw [resumed, onGloss_gloss, clrFlag_gloss]

theorem glossResume_frozen (frozen : s.gloss.frozen = true) (idle : s.gloss.storing = false) : glossResume s = closeGap (resumed s) := by
  unfold glossResume resumed onGloss
  simp [clrFlag, wrFld, wr, frozen, idle]

theorem glossResume_resumes (frozen : s.gloss.frozen = true) (idle : s.gloss.storing = false) (complete : s.gloss.gap = none) :
    ∃ t, exec .glossResume s = .next t ∧ flag t R.glossCtl 0 = false ∧ t.gloss = { s.gloss with frozen := false } ∧
      Touches [.gloss] [R.glossCtl] s t := by
  have closes : closeGap (resumed s) = resumed s := by
    have none : (resumed s).gloss.gap = none := by rw [resumed_gloss, complete]
    rw [closeGap, none]
  refine ⟨resumed s, ?_, flag_resumed, resumed_gloss, touches_resumed⟩
  show Host.Outcome.next (glossResume s) = _
  rw [glossResume_frozen frozen idle, closes]

/-- The GAP entry goes behind every entry that waits: its code is that of no other block (R464). -/
theorem glossInsert_gap (s : State) (g : GlossGap) (q : List GlossEntry) : glossInsert (glossGapEntry s g) q = q ++ [glossGapEntry s g] := by
  have last : ∀ x, glossBefore (glossGapEntry s g) x = false := by
    intro x
    have code : (glossGapEntry s g).code.toNat = 0xF000 := rfl
    rw [glossBefore, Bool.and_eq_false_iff, Bool.and_eq_false_iff]
    by_cases low : x.code.toNat < 0xF000
    · have other : (glossGapEntry s g).code ≠ x.code := fun same => absurd (same ▸ code) (by omega)
      exact .inr (by simp [other, code]; omega)
    · exact .inl (.inr (decide_eq_false low))
  have behind : (q.reverse.takeWhile (glossBefore (glossGapEntry s g))) = [] := by
    cases q.reverse with
    | nil => rfl
    | cons x xs => rw [List.takeWhile_cons, last, if_neg Bool.false_ne_true]
  rw [glossInsert, behind]
  simp

theorem glossResume_gap {g : GlossGap} (frozen : s.gloss.frozen = true) (idle : s.gloss.storing = false) (gap : s.gloss.gap = some g)
    (direct : glossDirect s = true) (room : s.gloss.staging.length < 64) :
    ∃ t, exec .glossResume s = .next t ∧ flag t R.glossCtl 0 = false ∧
      t.gloss = { s.gloss with
        frozen := false, gap := none,
        staging := s.gloss.staging ++ [glossEntry s 0xF000 0 (w32 g.count) (w32 (g.first.toNat + g.cause * 0x10000)) g.since] } ∧
      Touches [.gloss] [R.glossCtl] s t := by
  obtain ⟨u, hu⟩ : ∃ u, u = onGloss (resumed s) fun x => { x with gap := none } := ⟨_, rfl⟩
  have touched : Touches [.gloss] [R.glossCtl] s u := hu ▸ touches_onGloss touches_resumed _ (by decide)
  have recorder : u.gloss = { s.gloss with frozen := false, gap := none } := by rw [hu, onGloss_gloss, resumed_gloss]
  have reach : glossDirect u = true := (glossDirect_of_touches touched (by rw [recorder]) (by decide)).trans direct
  have fits : glossRoom u = true := by
    rw [glossRoom, if_pos reach]
    rw [recorder]
    exact decide_eq_true room
  have closes : closeGap (resumed s) = glossEnqueue u (glossGapEntry u g) := by
    have some : (resumed s).gloss.gap = some g := by rw [resumed_gloss, gap]
    rw [closeGap, some]
    simp only [← hu]
    rw [if_pos fits]
  have joins : glossEnqueue u (glossGapEntry u g) =
      onGloss u fun x => { x with staging := s.gloss.staging ++ [glossGapEntry u g] } := by
    rw [glossEnqueue, if_pos reach, glossInsert_gap, onGloss, recorder]
  refine ⟨_, ?_, ?_, ?_, touches_onGloss touched (fun x => { x with staging := s.gloss.staging ++ [glossGapEntry u g] }) (by decide)⟩
  · show Host.Outcome.next (glossResume s) = _
    rw [glossResume_frozen frozen idle, closes, joins]
  · rw [flag_onGloss, hu, flag_onGloss, flag_resumed]
  · rw [onGloss_gloss, recorder, glossGapEntry, glossEntry_congr (touched.parts.time (by decide)) (touched.regs _ (by decide))]

end Freeze

/-! ### Clears (R470) -/

section Clear
variable {s : State} {c : Instr} {op : Nat} {key : BitVec 16}

theorem writable_glossCmd : Writable R.glossCmd ((regDesc R.glossCmd).get (by decide)) := by constructor <;> decide

/-- The bytes of the areas that an operation empties. -/
def Emptied (op b : Nat) : Prop := op ≠ 2 ∧ 0x015C0000 ≤ b ∧ b < 0x015C2000 ∨ op ≠ 1 ∧ 0x015C2000 ≤ b ∧ b < 0x015C8000

/-- The state with the areas of an operation emptied. -/
def emptied (s : State) (op : Nat) : State :=
  let t := if op % 2 = 1 then clearKeptArea s else s
  if 2 ≤ op % 4 then clearCircArea t else t

/-- What the recorder holds then. -/
def emptiedGloss (g : GlossSt) (op : Nat) : GlossSt :=
  let g := if op % 2 = 1 then { g with kcount := 0 } else g
  if 2 ≤ op % 4 then { g with rhead := 0, wrap := false } else g

/-- The entry that records a clear. -/
def clearedEntry (s : State) (op : Nat) : GlossEntry :=
  glossEntry (emptied s op) 0xF001 0 (w32 (op % 4)) (w32 (if op % 2 = 1 then s.gloss.kcount else 0))
    (w32 (if 2 ≤ op % 4 then circulating s.gloss else 0))

theorem touches_clearKeptArea {t : State} (h : Touches [.gloss, .mem, .ecc] [] s t) : Touches [.gloss, .mem, .ecc] [] s (clearKeptArea t) :=
  touches_onGloss (touches_clearRange h _ _ (by decide) (by decide)) _ (by decide)

theorem touches_clearCircArea {t : State} (h : Touches [.gloss, .mem, .ecc] [] s t) : Touches [.gloss, .mem, .ecc] [] s (clearCircArea t) :=
  touches_onGloss (touches_clearRange h _ _ (by decide) (by decide)) _ (by decide)

theorem touches_emptied : Touches [.gloss, .mem, .ecc] [] s (emptied s op) := by
  have kept : Touches [.gloss, .mem, .ecc] [] s (if op % 2 = 1 then clearKeptArea s else s) :=
    touches_ite (touches_clearKeptArea touches_rfl) touches_rfl
  exact touches_ite (touches_clearCircArea kept) kept

theorem clearKeptArea_gloss : (clearKeptArea s).gloss = { s.gloss with kcount := 0 } := by rw [clearKeptArea, onGloss_gloss, clearRange]

theorem clearCircArea_gloss : (clearCircArea s).gloss = { s.gloss with rhead := 0, wrap := false } := by
  rw [clearCircArea, onGloss_gloss, clearRange]

theorem emptied_gloss : (emptied s op).gloss = emptiedGloss s.gloss op := by
  unfold emptied emptiedGloss
  by_cases kept : op % 2 = 1 <;> by_cases circ : 2 ≤ op % 4 <;> simp only [kept, circ, if_true, if_false, clearKeptArea_gloss, clearCircArea_gloss]

theorem memByte_clearKeptArea {b : Nat} : memByte (clearKeptArea s) b = if 0x015C0000 ≤ b ∧ b < 0x015C2000 then 0 else memByte s b := by
  rw [clearKeptArea, memByte_of_mem (onGloss_mem _ _), memByte_clearRange]
  rfl

theorem memByte_clearCircArea {b : Nat} : memByte (clearCircArea s) b = if 0x015C2000 ≤ b ∧ b < 0x015C8000 then 0 else memByte s b := by
  rw [clearCircArea, memByte_of_mem (onGloss_mem _ _), memByte_clearRange]
  rfl

theorem memByte_emptied {b : Nat} (known : op = 1 ∨ op = 2 ∨ op = 3) :
    memByte (emptied s op) b = if op ≠ 2 ∧ 0x015C0000 ≤ b ∧ b < 0x015C2000 ∨ op ≠ 1 ∧ 0x015C2000 ≤ b ∧ b < 0x015C8000 then 0
      else memByte s b := by
  unfold emptied
  rcases known with rfl | rfl | rfl
  · simp [memByte_clearKeptArea]
  · simp [memByte_clearCircArea]
  · simp only [Nat.reduceMod, if_true, Nat.reduceLeDiff, memByte_clearCircArea, memByte_clearKeptArea]
    by_cases circ : 0x015C2000 ≤ b ∧ b < 0x015C8000 <;> by_cases kept : 0x015C0000 ≤ b ∧ b < 0x015C2000 <;> simp [circ, kept]

theorem glossCommand_refuses (wrong : key ≠ 0x6C35) : glossCommand s key.toNat op = refuse s R.glossCmd true := by
  have other : key.toNat ≠ 0x6C35 := fun same => wrong (BitVec.eq_of_toNat_eq same)
  rw [glossCommand, if_pos (.inl other)]

theorem glossCommand_clears (known : op = 1 ∨ op = 2 ∨ op = 3) (direct : glossDirect s = true) :
    glossCommand s (0x6C35 : BitVec 16).toNat op = onGloss (emptied s op) fun g => { g with staging := clearedEntry s op :: g.staging } := by
  have taken : ¬ ((0x6C35 : BitVec 16).toNat ≠ 0x6C35 ∨ op % 4 = 0) := by simp; omega
  have reach : glossDirect (emptied s op) = true := by
    have same : (emptied s op).gloss.reachable = s.gloss.reachable := by
      rw [emptied_gloss]
      unfold emptiedGloss
      split_ifs <;> rfl
    exact (glossDirect_of_touches touches_emptied same (by decide)).trans direct
  rw [glossCommand, if_neg taken]
  show onGloss (emptied s op) (fun g => if glossDirect (emptied s op) then _ else _) = _
  simp only [reach, if_true]
  rfl

/-- The command of a clear is a write of its key and operation. -/
theorem exec_clear (h : (c = .clearKept key ∧ op = 1) ∨ (c = .clearCirculating key ∧ op = 2) ∨ (c = .clearBoth key ∧ op = 3)) :
    exec c s = .next (regWrite s R.glossCmd (w32 (key.toNat * 65536 + op))) := by
  rcases h with ⟨rfl, rfl⟩ | ⟨rfl, rfl⟩ | ⟨rfl, rfl⟩ <;> rfl

/-- What the write's key and operation are. -/
theorem commandReg_glossCmd {t : State} (small : op < 4) :
    commandReg t false R.glossCmd (w32 (key.toNat * 65536 + op)) = some (glossCommand t key.toNat op) := by
  have wide := key.isLt
  have fields : bits (w32 (key.toNat * 65536 + op)) 31 16 = key.toNat ∧ bits (w32 (key.toNat * 65536 + op)) 1 0 = op := by
    simp only [bits, w32, BitVec.toNat_ofNat]
    omega
  have command : ∀ v, commandReg t false R.glossCmd v = some (glossCommand t (bits v 31 16) (bits v 1 0)) := fun _ => rfl
  rw [command, fields.1, fields.2]

theorem clear_empties (may : HostMayWrite s R.glossCmd) (direct : glossDirect s = true)
    (h : (c = .clearKept 0x6C35 ∧ op = 1) ∨ (c = .clearCirculating 0x6C35 ∧ op = 2) ∨ (c = .clearBoth 0x6C35 ∧ op = 3)) :
    ∃ t, exec c s = .next t ∧
      t.gloss = { s.gloss with
        kcount := if op = 2 then s.gloss.kcount else 0,
        rhead := if op = 1 then s.gloss.rhead else 0,
        wrap := if op = 1 then s.gloss.wrap else false,
        staging := glossEntry s 0xF001 0 (w32 op) (w32 (if op = 2 then 0 else s.gloss.kcount))
          (w32 (if op = 1 then 0 else if s.gloss.wrap then 768 else s.gloss.rhead)) :: s.gloss.staging } ∧
      (∀ b, memByte t b = if op ≠ 2 ∧ 0x015C0000 ≤ b ∧ b < 0x015C2000 ∨ op ≠ 1 ∧ 0x015C2000 ≤ b ∧ b < 0x015C8000 then 0
        else memByte s b) ∧ Touches [.gloss, .mem, .ecc] [] s t := by
  have known : op = 1 ∨ op = 2 ∨ op = 3 := by rcases h with ⟨-, e⟩ | ⟨-, e⟩ | ⟨-, e⟩ <;> simp [e]
  obtain ⟨z, hz⟩ : ∃ z, z = wr s R.glossErr 0 := ⟨_, rfl⟩
  have early : Touches [] [R.glossErr] s z := hz ▸ touches_wr touches_rfl _ (by decide)
  have reach : glossDirect z = true := (glossDirect_of_touches early (by rw [early.parts.gloss (by decide)]) (by decide)).trans direct
  have empties : Touches [.gloss, .mem, .ecc] []
      z (onGloss (emptied z op) fun g => { g with staging := clearedEntry z op :: g.staging }) := touches_onGloss touches_emptied _ (by decide)
  have awake : asleep z = false := by rw [hz, asleep_wr _ _ _ (by decide), may.awake]
  have command := (commandReg_glossCmd (key := 0x6C35) (t := z) (by omega)).trans (congrArg some (glossCommand_clears known reach))
  rw [hz] at command empties awake
  obtain ⟨value, frame⟩ := operation_done (e := R.glossErr) rfl may writable_glossCmd command empties (by decide)
    (by rw [asleep_touches empties (by decide), awake])
  have entry : clearedEntry z op = glossEntry s 0xF001 0 (w32 op) (w32 (if op = 2 then 0 else s.gloss.kcount))
      (w32 (if op = 1 then 0 else if s.gloss.wrap then 768 else s.gloss.rhead)) := by
    have clean := touches_trans (touches_mono early (List.nil_subset _) (List.Subset.refl _))
      (touches_mono (touches_emptied (s := z) (op := op)) (List.Subset.refl _) (List.nil_subset _))
    rw [clearedEntry, glossEntry_congr (clean.parts.time (by decide)) (clean.regs _ (by decide)), early.parts.gloss (by decide)]
    rcases known with rfl | rfl | rfl <;> rfl
  refine ⟨_, exec_clear h, ?_, fun b => ?_, frame⟩
  all_goals rw [value, ← hz]
  · rw [wr_gloss, onGloss_gloss, emptied_gloss, entry, early.parts.gloss (by decide)]
    rcases known with rfl | rfl | rfl <;> rfl
  · rw [memByte_of_mem (wr_mem _ _ _), memByte_of_mem (onGloss_mem _ _), memByte_emptied known, memByte_of_mem (early.parts.mem (by decide))]

theorem clear_wrongKey (may : HostMayWrite s R.glossCmd) (wrong : key ≠ 0x6C35)
    (h : c = .clearKept key ∨ c = .clearCirculating key ∨ c = .clearBoth key) :
    ∃ t, exec c s = .next t ∧ Refused s t R.glossCmd true := by
  obtain ⟨op, small, command⟩ : ∃ op, op < 4 ∧ exec c s = .next (regWrite s R.glossCmd (w32 (key.toNat * 65536 + op))) := by
    rcases h with rfl | rfl | rfl
    · exact ⟨1, by decide, rfl⟩
    · exact ⟨2, by decide, rfl⟩
    · exact ⟨3, by decide, rfl⟩
  exact ⟨_, command, operation_refused rfl may writable_glossCmd
    ((commandReg_glossCmd small).trans (congrArg some (glossCommand_refuses wrong)))⟩

end Clear

/-! ### Rates and overrides (R466) -/

section Rates
variable {s : State} {v : Word} {n : Fin 16}

theorem writable_glossRate : Writable R.glossRate ((regDesc R.glossRate).get (by decide)) := by constructor <;> decide

theorem writable_glossOvr : Writable (R.glossOvr + 4 * n.val) ((regDesc (R.glossOvr + 4 * n.val)).get (by revert n; decide)) := by
  constructor <;> revert n <;> decide

/-- A code whose bucket has no record of spending has a full one. -/
theorem glossLevel_full {code : Nat} (unspent : mapGet s.gloss.buckets code = none) : glossLevel s code = glossBurst s code * glossPt s := by
  rw [glossLevel, unspent]

theorem glossRate_takes (least : 1 ≤ bits v 25 16) (most : bits v 25 16 ≤ 1000) (burst : bits v 7 0 ≠ 0) :
    glossRate s v = onGloss (wr s R.glossRate (v &&& 0x03FF00FF)) fun g => { g with buckets := [] } := by
  rw [glossRate, if_neg (by omega)]

theorem rateWrite_taken (may : HostMayWrite s R.glossRate) (least : 1 ≤ bits v 25 16) (most : bits v 25 16 ≤ 1000) (burst : bits v 7 0 ≠ 0) :
    ∃ t, exec (.rateWrite v) s = .next t ∧ rd t R.glossRate = v &&& 0x03FF00FF ∧
      (∀ code, glossLevel t code = glossBurst t code * glossPt t) ∧ t.gloss = { s.gloss with buckets := [] } ∧
      Touches [.gloss] [R.glossRate] s t := by
  have takes : Touches [.gloss] [R.glossRate] (wr s R.glossErr 0)
      (onGloss (wr (wr s R.glossErr 0) R.glossRate (v &&& 0x03FF00FF)) fun g => { g with buckets := [] }) :=
    touches_onGloss (touches_wr touches_rfl _ (by decide)) _ (by decide)
  obtain ⟨value, frame⟩ := operation_done (e := R.glossErr) rfl may writable_glossRate
    (congrArg some (glossRate_takes (s := wr s R.glossErr 0) least most burst)) takes (by decide)
    (by rw [asleep_touches takes (by decide), asleep_wr _ _ _ (by decide), may.awake])
  have recorder : (regWrite s R.glossRate v).gloss = { s.gloss with buckets := [] } := by
    rw [value, wr_gloss, onGloss_gloss, wr_gloss, wr_gloss]
  refine ⟨_, rfl, ?_, fun code => glossLevel_full (by rw [recorder]; rfl), recorder, frame⟩
  rw [value, rd_wr_ne _ _ _ _ (by decide), rd_onGloss, rd_wr]

theorem rateWrite_undefined (may : HostMayWrite s R.glossRate) (undefined : bits v 25 16 = 0 ∨ 1000 < bits v 25 16 ∨ bits v 7 0 = 0) :
    ∃ t, exec (.rateWrite v) s = .next t ∧ Refused s t R.glossRate true :=
  ⟨_, rfl, operation_refused rfl may writable_glossRate (congrArg some (if_pos undefined))⟩

theorem glossOvr_page : pageOf (R.glossOvr + 4 * n.val) + 0xFFFC = R.glossErr := by revert n; decide

theorem glossOvr_apart : R.glossErr ≠ R.glossOvr + 4 * n.val ∧ R.pwrStat ≠ R.glossOvr + 4 * n.val := by revert n; decide

/-- The overrides lie apart from the registers that are looked at before them. -/
theorem commandReg_glossOvr {t : State} : commandReg t false (R.glossOvr + 4 * n.val) v = some (glossOverride t n v) := by
  have here : chanOf R.glossOvr 4 16 (R.glossOvr + 4 * n.val) = some n.val := by revert n; decide
  have apart : ∀ a ∈ [R.evtHwin, R.tenseMwin, R.tenseGo, R.parserWin, R.adcCtrl, R.adcCdata, R.adcCdelay, R.linkRctl, R.glossCtl, R.glossCmd,
      R.glossRate, R.fusePctl], R.glossOvr + 4 * n.val ≠ a := by revert n; decide
  simp only [List.forall_mem_cons] at apart
  obtain ⟨h1, h2, h3, h4, h5, h6, h7, h8, h9, h10, h11, h12, -⟩ := apart
  rw [commandReg, if_neg h1, if_neg h2, if_neg h3, if_neg h4, if_neg h5, if_neg h6, if_neg h7, if_neg h8, if_neg h9, if_neg h10, if_neg h11,
    if_neg h12, here]

theorem glossOverride_takes {i : Nat} (other : bits v 15 12 ≠ 15) :
    glossOverride s i v = onGloss (wr s (R.glossOvr + 4 * i) (v &&& 0x80FFFFFF)) fun g => { g with buckets := mapErase g.buckets (bits v 15 0) } := by
  rw [glossOverride]
  exact if_neg other

theorem overrideWrite_taken (may : HostMayWrite s (R.glossOvr + 4 * n)) (other : bits v 15 12 ≠ 15) :
    ∃ t, exec (.overrideWrite n v) s = .next t ∧ rd t (R.glossOvr + 4 * n) = v &&& 0x80FFFFFF ∧
      glossLevel t (bits v 15 0) = glossBurst t (bits v 15 0) * glossPt t ∧
      (∀ code, code ≠ bits v 15 0 → mapGet t.gloss.buckets code = mapGet s.gloss.buckets code) ∧
      Touches [.gloss] [R.glossOvr + 4 * n] s t := by
  have takes : Touches [.gloss] [R.glossOvr + 4 * n.val] (wr s R.glossErr 0) (onGloss (wr (wr s R.glossErr 0) (R.glossOvr + 4 * n.val)
      (v &&& 0x80FFFFFF)) fun g => { g with buckets := mapErase g.buckets (bits v 15 0) }) :=
    touches_onGloss (touches_wr touches_rfl _ List.mem_cons_self) _ (by decide)
  obtain ⟨value, frame⟩ := operation_done glossOvr_page may writable_glossOvr
    (commandReg_glossOvr.trans (congrArg some (glossOverride_takes (s := wr s R.glossErr 0) other))) takes
    (List.mem_singleton.not.mpr glossOvr_apart.1)
    (by rw [asleep_touches takes (List.mem_singleton.not.mpr glossOvr_apart.2), asleep_wr _ _ _ (by decide), may.awake])
  have recorder : (regWrite s (R.glossOvr + 4 * n.val) v).gloss = { s.gloss with buckets := mapErase s.gloss.buckets (bits v 15 0) } := by
    rw [value, wr_gloss, onGloss_gloss, wr_gloss, wr_gloss]
  refine ⟨_, rfl, ?_, glossLevel_full (by rw [recorder, mapGet_mapErase_self]), fun code h => ?_, frame⟩
  · rw [value, rd_wr_ne _ _ _ _ (Ne.symm glossOvr_apart.1), rd_onGloss, rd_wr]
  · rw [recorder, mapGet_mapErase_ne _ _ _ h]

theorem overrideWrite_undefined (may : HostMayWrite s (R.glossOvr + 4 * n)) (undefined : bits v 15 12 = 15) :
    ∃ t, exec (.overrideWrite n v) s = .next t ∧ Refused s t (R.glossOvr + 4 * n) true :=
  ⟨_, rfl, operation_refused glossOvr_page may writable_glossOvr (commandReg_glossOvr.trans (congrArg some (if_pos undefined)))⟩

end Rates

/-! ### Two windows of the Parser (R155) -/

section Windows
variable {s : State}

theorem writable_parserTrptr : Writable R.parserTrptr ((regDesc R.parserTrptr).get (by decide)) := by constructor <;> decide

theorem writable_parserWin : Writable R.parserWin ((regDesc R.parserWin).get (by decide)) := by constructor <;> decide

theorem traceRingResume_clears (may : HostMayWrite s R.parserTrptr) :
    ∃ t, exec .traceRingResume s = .next t ∧ rd t R.parserTrptr = 0 ∧ Touches [] [R.parserTrptr] s t := by
  have clears : Touches [] [R.parserTrptr] (wr s R.parserErr 0) (resumeRing (wr s R.parserErr 0)) := touches_wr touches_rfl _ (by decide)
  obtain ⟨value, frame⟩ := operation_done (e := R.parserErr) (v := 0x80000000) (u := resumeRing (wr s R.parserErr 0)) rfl may writable_parserTrptr
    rfl clears (by decide) (by rw [asleep_touches clears (by decide), asleep_wr _ _ _ (by decide), may.awake])
  refine ⟨_, rfl, ?_, frame⟩
  rw [value, resumeRing, rd_wr_ne _ _ _ _ (by decide), rd_wr]

theorem clrmax_restarts (may : HostMayWrite s R.parserWin) :
    ∃ t, exec .clrmax s = .next t ∧ fld t R.parserWin 14 8 = fld s R.parserWin 6 0 ∧ fld t R.parserWin 6 0 = fld s R.parserWin 6 0 ∧
      Touches [] [R.parserWin] s t := by
  have clears : Touches [] [R.parserWin] (wr s R.parserErr 0) (clrMax (wr s R.parserErr 0)) := touches_wrFld touches_rfl _ _ _ (by decide)
  obtain ⟨value, frame⟩ := operation_done (e := R.parserErr) (v := 0x80000000) (u := clrMax (wr s R.parserErr 0)) rfl may writable_parserWin
    rfl clears (by decide) (by rw [asleep_touches clears (by decide), asleep_wr _ _ _ (by decide), may.awake])
  have same : fld (wr s R.parserErr 0) R.parserWin 6 0 = fld s R.parserWin 6 0 := fld_wr_ne (by decide)
  have small : fld s R.parserWin 6 0 < 2 ^ 7 := Nat.mod_lt _ (by decide)
  refine ⟨_, rfl, ?_, ?_, frame⟩ <;> rw [value, fld_wr_ne (by decide), clrMax, same]
  · exact fld_wrFld_fits (by decide) (by decide) small
  · rw [fld_wrFld_apart (by decide) (by decide) (by decide) (by decide), same]

end Windows

/-- Settles O53: a clause each of entries stored, clears, freeze and resume, limits, and the two windows. -/
theorem glossCommands : Obligations.GlossCommands := by
  unfold Obligations.GlossCommands
  exact ⟨fun _ _ _ _ direct running idle staged complete => glossEntryStore_stores direct running idle staged complete,
    fun _ => glossEntryStore_idle, fun _ _ _ may direct => clear_empties may direct, fun _ _ _ may wrong => clear_wrongKey may wrong,
    fun _ => glossFreeze_freezes, fun _ => glossResume_resumes, fun _ _ => glossResume_gap, fun _ _ may least most => rateWrite_taken may least most,
    fun _ _ => rateWrite_undefined, fun _ _ _ => overrideWrite_taken, fun _ _ _ => overrideWrite_undefined, fun _ => traceRingResume_clears,
    fun _ => clrmax_restarts⟩

end Sys2Proof.Recorder

/-! PROOFS. The test port (R475 to R478). -/

namespace Sys2Proof.TestPort
open Sys2Proof.Machine Sys2Proof.Laws Sys2Proof.Architecture Sys2Proof.Answers

/-! ### Instructions (R475 to R477) -/

section Instructions
variable {s : State} {c : Instr} {ir : TapIr}

/-- An instruction that leaves the device running is selected, and no reset ends. -/
theorem tapRun_running (free : tapHolds s = false) : tapRun s ir = { s with tap := { s.tap with ir } } := by simp [tapRun, free]

/-- From a hold it ends the reset (R477). -/
theorem tapRun_held (held : tapHolds s = true) : tapRun s ir = { deviceReset s 2 with tap := { (deviceReset s 2).tap with ir } } := by
  simp [tapRun, held]

/-- A reset of its own keeps the test port. -/
theorem deviceReset_tap (s : State) : (deviceReset s 2).tap = s.tap := by
  have kept : (interruptFuse s).tap = s.tap := by
    unfold interruptFuse drawFree
    split <;> rfl
  unfold deviceReset
  simp [kept]

theorem identity_selected (h : c = .idcode ∨ c = .testLogicReset) (free : tapHolds s = false) :
    exec c s = .next { s with tap := { s.tap with ir := .idcode, data := 0x1851234D } } := by
  have selects : exec c s = .next (selectIdcode s) := by rcases h with rfl | rfl <;> rfl
  rw [selects, selectIdcode, tapRun_running free]
  rfl

theorem hold_resets (h : (c = .extest ∧ ir = .extest) ∨ (c = .clamp ∧ ir = .clamp) ∨ (c = .highz ∧ ir = .highz)) :
    ∃ u t, exec .pinReset s = .next u ∧ exec c s = .next t ∧ t = { u with tap := { s.tap with ir } } ∧ tapHolds t = true := by
  refine ⟨deviceReset s 2, tapHold s ir, rfl, ?_, ?_, ?_⟩
  · rcases h with ⟨rfl, rfl⟩ | ⟨rfl, rfl⟩ | ⟨rfl, rfl⟩ <;> rfl
  · rw [tapHold, deviceReset_tap]
  · rcases h with ⟨-, rfl⟩ | ⟨-, rfl⟩ | ⟨-, rfl⟩ <;> rfl

theorem samplePreload_captures {pins preload : List Bool} (free : tapHolds s = false) :
    exec (.samplePreload pins preload) s = .next { s with tap := { s.tap with ir := .sample, pins, preload } } := by
  show Host.Outcome.next { tapRun s .sample with tap := { (tapRun s .sample).tap with pins, preload } } = _
  rw [tapRun_running free]

/-- With DBG_LOCK blown the access register is bypass (R478). -/
theorem dbgacc_selects (free : tapHolds s = false) :
    exec .dbgacc s = .next { s with tap := { s.tap with ir := if dbgLocked s then .bypass else .dbgacc } } := by
  show Host.Outcome.next (if dbgLocked (tapRun s .dbgacc) then { tapRun s .dbgacc with tap := { (tapRun s .dbgacc).tap with ir := .bypass } }
    else tapRun s .dbgacc) = _
  have lock : dbgLocked { s with tap := { s.tap with ir := .dbgacc } } = dbgLocked s := rfl
  rw [tapRun_running free, lock]
  cases dbgLocked s <;> rfl

theorem bypass_selects (free : tapHolds s = false) : exec .bypass s = .next { s with tap := { s.tap with ir := .bypass } } := by
  show Host.Outcome.next (tapRun s .bypass) = _
  rw [tapRun_running free]

theorem bypass_releases (held : tapHolds s = true) :
    ∃ u, exec .pinReset s = .next u ∧ exec .bypass s = .next { u with tap := { s.tap with ir := .bypass } } := by
  refine ⟨deviceReset s 2, rfl, ?_⟩
  show Host.Outcome.next (tapRun s .bypass) = _
  rw [tapRun_held held, deviceReset_tap]

end Instructions

/-! ### Accesses (R478) -/

section Accesses
variable {s : State} {a v : Word}

/-- A word of open memory that the host may write is no bus error. -/
theorem busFault_clean {isWrite : Bool} (clean : CleanWord s a.toNat) (open' : isWrite = true → s.time.rendering = false) :
    busFault s a.toNat isWrite = false := by
  have shut : (isWrite && s.time.rendering) = false := by cases isWrite <;> simp_all
  rcases clean.region with h | h | ⟨n, h⟩ <;> simp [busFault, h, clean.opened, shut]

theorem busFault_unmapped {isWrite : Bool} (unmapped : regionOf a.toNat = .none) : busFault s a.toNat isWrite = true := by
  rw [busFault, unmapped]

/-- An access of an aligned address while the access register is selected is performed. -/
theorem exec_debugRead (selected : tapOpen s = true) (aligned : a.toNat % 4 = 0) {t : State} {w : Word} {bad : Bool}
    (read : readWord32 s 0 a.toNat = (t, w, bad)) :
    exec (.debugRead a) s = .next { t with tap := { t.tap with outcome := tapOutcome s a.toNat false bad, data := w } } := by
  show execDebugRead a s = _
  simp [execDebugRead, selected, aligned, read]

theorem exec_debugWrite (selected : tapOpen s = true) (aligned : a.toNat % 4 = 0) {t : State} {bad : Bool}
    (write : hostWrite s 0 a.toNat v = (t, bad)) :
    exec (.debugWrite a v) s = .next { t with tap := { t.tap with outcome := tapOutcome s a.toNat true bad } } := by
  show execDebugWrite a v s = _
  simp [execDebugWrite, selected, aligned, write]

theorem debugRead_reads (selected : tapOpen s = true) (aligned : a.toNat % 4 = 0) (clean : CleanWord s a.toNat)
    (kept : inDiscard a.toNat = false) :
    exec (.debugRead a) s = .next { s with tap := { s.tap with outcome := 0, data := word32At s a.toNat } } := by
  have read := readWord32_clean clean aligned
  rw [kept, if_neg Bool.false_ne_true] at read
  have outcome : tapOutcome s a.toNat false false = 0 := by
    rw [tapOutcome, busFault_clean clean fun h => absurd h Bool.false_ne_true]
    rfl
  rw [exec_debugRead selected aligned read, outcome]

/-- The host's write of a word that is stored puts its bytes, and is not refused. -/
theorem hostWrite_stored (h : Stored s a.toNat) : hostWrite s 0 a.toNat v = (putBytes s a.toNat (leBytes 4 v.toNat), false) := by
  obtain ⟨mapped, memory⟩ := region_of_clean h.clean
  have word := writeWord32_open (v := v) h.stopped h.clean.opened h.running memory mapped
  have awake : asleep (putBytes s a.toNat (leBytes 4 v.toNat)) = false := by rw [changes_putBytes]; exact h.awake
  rw [h.kept, memStore4_clean s _ _ _ h.aligned h.clean.clean, leBytes_word] at word
  simp [hostWrite, h.free, word, afterHost_memory memory awake]

theorem debugWrite_writes (selected : tapOpen s = true) (h : Stored s a.toNat) :
    ∃ t, exec (.debugWrite a v) s = .next t ∧ word32At t a.toNat = v ∧
      (∀ b, b < a.toNat ∨ a.toNat + 4 ≤ b → memByte t b = memByte s b) ∧ t.tap = { s.tap with outcome := 0 } ∧
      Touches [.mem, .ecc, .tap] [] s t := by
  have outcome : tapOutcome s a.toNat true false = 0 := by
    rw [tapOutcome, busFault_clean h.clean fun _ => h.stopped]
    rfl
  have put : Touches [.mem, .ecc, .tap] [] s (putBytes s a.toNat (leBytes 4 v.toNat)) := touches_putBytes touches_rfl _ _ (by decide)
  have port : (putBytes s a.toNat (leBytes 4 v.toNat)).tap = s.tap :=
    (touches_putBytes (ps := [.mem]) (rs := []) touches_rfl _ _ (by decide)).parts.tap (by decide)
  refine ⟨_, exec_debugWrite selected h.aligned (hostWrite_stored h), ?_, fun b apart => ?_, ?_, touches_tap put _ (by decide)⟩
  · exact word32At_putBytes s a.toNat (leBytes 4 v.toNat) 0 v (by rw [length_leBytes]) (by
      rw [List.drop_zero]
      exact List.take_of_length_le (length_leBytes ..).le)
  · show memByte (putBytes s a.toNat (leBytes 4 v.toNat)) b = _
    rw [memByte_putBytes, length_leBytes, if_neg (by omega)]
  · rw [outcome, port]

theorem misaligned_refused (selected : tapOpen s = true) (misaligned : a.toNat % 4 ≠ 0) :
    exec (.debugRead a) s = .next { s with tap := { s.tap with outcome := 3, data := 0 } } ∧
      exec (.debugWrite a v) s = .next { s with tap := { s.tap with outcome := 3 } } := by
  constructor
  · show execDebugRead a s = _
    simp [execDebugRead, selected, misaligned]
  · show execDebugWrite a v s = _
    simp [execDebugWrite, selected, misaligned]

/-- A bus error is recorded: the first with what it was, a later one as such (R25). -/
theorem touches_busErr (init cause : Nat) (isWrite : Bool) (b : Nat) :
    Touches [] [R.sysBuserr, R.sysBusaddr] s (busErr s init cause isWrite b) :=
  touches_ite (touches_setFlag touches_rfl _ (by decide)) (touches_wr (touches_wr touches_rfl _ (by decide)) _ (by decide))

theorem flag_busErr {init cause b : Nat} {isWrite : Bool} (small : b2n isWrite * 16 + init * 4 + cause < 2 ^ 31) :
    flag (busErr s init cause isWrite b) R.sysBuserr 31 = true := by
  unfold busErr
  split
  · rename_i recorded
    rw [setFlag_eq, flag_wrFld_apart (by decide) (by decide) (by decide), recorded]
  · rw [flag_wr_ne (by decide), flag, rd_wr, bitOf, w32, BitVec.toNat_ofNat]
    exact decide_eq_true (by omega)

theorem debugRead_unmapped (selected : tapOpen s = true) (aligned : a.toNat % 4 = 0) (unmapped : regionOf a.toNat = .none) :
    ∃ t, exec (.debugRead a) s = .next t ∧ t.tap = { s.tap with outcome := 2, data := 0 } ∧ flag t R.sysBuserr 31 = true ∧
      Touches [.tap] [R.sysBuserr, R.sysBusaddr] s t := by
  have read : readWord32 s 0 a.toNat = (busErr s 0 0 false a.toNat, 0, true) := by rw [readWord32, if_pos unmapped]
  have outcome : tapOutcome s a.toNat false true = 2 := by rw [tapOutcome, busFault_unmapped unmapped, if_pos rfl]
  have recorded := touches_busErr (s := s) 0 0 false a.toNat
  refine ⟨_, exec_debugRead selected aligned read, ?_, ?_,
    touches_tap (touches_mono recorded (List.nil_subset _) (List.Subset.refl _)) _ (by decide)⟩
  · rw [outcome, recorded.parts.tap (by decide)]
  · rw [flag_lit, flag_busErr (by decide)]

theorem debugWrite_unmapped (selected : tapOpen s = true) (free : tapHolds s = false) (aligned : a.toNat % 4 = 0)
    (unmapped : regionOf a.toNat = .none) :
    ∃ t, exec (.debugWrite a v) s = .next t ∧ t.tap = { s.tap with outcome := 2 } ∧ flag t R.sysBuserr 31 = true ∧
      Touches [.tap] [R.sysBuserr, R.sysBusaddr] s t := by
  have write : hostWrite s 0 a.toNat v = (busErr s 0 0 true a.toNat, true) := by simp [hostWrite, free, writeWord32, unmapped]
  have outcome : tapOutcome s a.toNat true true = 2 := by rw [tapOutcome, busFault_unmapped unmapped, if_pos rfl]
  have recorded := touches_busErr (s := s) 0 0 true a.toNat
  refine ⟨_, exec_debugWrite selected aligned write, ?_, ?_,
    touches_tap (touches_mono recorded (List.nil_subset _) (List.Subset.refl _)) _ (by decide)⟩
  · rw [outcome, recorded.parts.tap (by decide)]
  · rw [flag_lit, flag_busErr (by decide)]

theorem unselected_idle (closed : tapOpen s = false) : exec (.debugRead a) s = .next s ∧ exec (.debugWrite a v) s = .next s := by
  constructor
  · show execDebugRead a s = _
    simp [execDebugRead, closed]
  · show execDebugWrite a v s = _
    simp [execDebugWrite, closed]

end Accesses

/-- Settles O54: a clause for each instruction and each outcome of an access. -/
theorem testPort : Obligations.TestPort := by
  unfold Obligations.TestPort
  exact ⟨fun _ _ => identity_selected, fun _ _ _ => hold_resets, fun _ _ _ => samplePreload_captures, fun _ => dbgacc_selects,
    fun _ => bypass_selects, fun _ => bypass_releases, fun _ _ => debugRead_reads,
    fun _ _ _ selected free awake stopped aligned clean kept running =>
      debugWrite_writes selected ⟨⟨free, awake, stopped⟩, clean, kept, running, aligned⟩,
    fun _ _ _ => misaligned_refused, fun _ _ _ selected free aligned unmapped =>
      ⟨debugRead_unmapped selected aligned unmapped, debugWrite_unmapped selected free aligned unmapped⟩, fun _ _ _ => unselected_idle⟩

end Sys2Proof.TestPort

/-! PROOFS. What a sample of VIN shows (R441, R450, R457). -/

namespace Sys2Proof.Supply
open Sys2Proof.Machine Sys2Proof.Laws Sys2Proof.Architecture Sys2Proof.SerialPorts Sys2Proof.Answers

section Sample
variable {s : State} {vin : Nat}

/-- VIN shows a sample, and the monitor's state follows it. -/
def seen (s : State) (vin : Nat) : State := { wrFld s R.pwrVin 15 0 vin with power := sampled s vin }

theorem noteSupply_eq : noteSupply s vin = { s with power := { s.power with vinGood := vinSince s vin } } := by
  have above : risesAbove s vin 4450 = decide (4450 < vin ∧ 4450 < lastVin s) := by
    rw [risesAbove, Bool.decide_and, Bool.and_comm]
  have below : fallsBelow s vin 4451 = decide (vin ≤ 4450 ∧ lastVin s ≤ 4450) := by
    rw [fallsBelow, Bool.decide_and, Bool.and_comm]
    congr 1 <;> exact decide_eq_decide.mpr (by omega)
  rw [noteSupply, above, below, vinSince]
  simp only [decide_eq_true_eq]

/-- VINMIN keeps the lowest sample. -/
theorem showVin_eq : showVin s vin = if vin < fld s R.pwrVinmin 15 0 then wrFld (seen s vin) R.pwrVinmin 15 0 vin else seen s vin := by
  have shown : { wrFld (noteSupply s vin) R.pwrVin 15 0 vin with
      power := { (wrFld (noteSupply s vin) R.pwrVin 15 0 vin).power with
        warnLow := if flag (wrFld (noteSupply s vin) R.pwrVin 15 0 vin) R.pwrStat 5 then
          min (wrFld (noteSupply s vin) R.pwrVin 15 0 vin).power.warnLow vin else (wrFld (noteSupply s vin) R.pwrVin 15 0 vin).power.warnLow } } =
      seen s vin := by
    rw [flag_wrFld_ne (by decide), noteSupply_eq, flag_lit]
    rfl
  have least : fld (seen s vin) R.pwrVinmin 15 0 = fld s R.pwrVinmin 15 0 := by rw [seen, fld_lit, fld_wrFld_ne (by decide)]
  unfold showVin
  simp only [shown, least]

theorem touches_showVin : Touches [.power] [R.pwrVin, R.pwrVinmin] s (showVin s vin) := by
  have first : Touches [.power] [R.pwrVin, R.pwrVinmin] s (seen s vin) := touches_power (touches_wrFld touches_rfl _ _ _ (by decide)) _ (by decide)
  rw [showVin_eq]
  exact touches_ite (touches_wrFld first _ _ _ (by decide)) first

theorem showVin_power : (showVin s vin).power = sampled s vin := by
  rw [showVin_eq]
  split
  · rw [wrFld_power, seen]
  · rw [seen]

theorem vin_showVin (fits : vin < 2 ^ 16) : fld (showVin s vin) R.pwrVin 15 0 = vin := by
  have here : fld (seen s vin) R.pwrVin 15 0 = vin := by rw [seen, fld_lit, fld_wrFld_fits (by decide) (by decide) fits]
  rw [showVin_eq]
  split
  · rw [fld_wrFld_ne (by decide), here]
  · exact here

theorem vinmin_showVin (fits : vin < 2 ^ 16) : fld (showVin s vin) R.pwrVinmin 15 0 = min vin (fld s R.pwrVinmin 15 0) := by
  rw [showVin_eq]
  split
  · rename_i lower
    rw [fld_wrFld_fits (by decide) (by decide) fits, Nat.min_eq_left lower.le]
  · rename_i higher
    rw [seen, fld_lit, fld_wrFld_ne (by decide), Nat.min_eq_right (Nat.not_lt.1 higher)]

theorem asleep_showVin : asleep (showVin s vin) = asleep s := asleep_touches touches_showVin (by decide)

theorem flag_showVin {a i : Nat} (h : a ∉ [R.pwrVin, R.pwrVinmin]) : flag (showVin s vin) a i = flag s a i :=
  flag_congr (touches_showVin.regs _ h)

theorem sampled_low (below : vin < 4350) (before : lastVin s < 4350) (clear : flag s R.pwrStat 5 = false) :
    sampled s vin = { s.power with vinGood := none } := by
  have none : vinSince s vin = none := by
    rw [vinSince, if_neg (by omega), if_pos (by omega)]
  rw [sampled, none, clear]
  rfl

end Sample

end Sys2Proof.Supply

/-! PROOFS. Supply warnings, mutes, domains and pads (R441, R442, R445, R449 to R452, R458). -/

namespace Sys2Proof.Supply
open Sys2Proof.Machine Sys2Proof.Laws Sys2Proof.Architecture Sys2Proof.SerialPorts Sys2Proof.Answers

/-! ### The warning (R449) -/

section Warning
variable {s : State} {vin : BitVec 16}

/-- The state once the warning has been set. -/
def warned (s : State) (vin : Nat) : State :=
  raiseIrq (onGloss (setFlag { showVin s vin with
    power := { (showVin s vin).power with warnAt := some (showVin s vin).time.aoTime, warnFrame := (showVin s vin).time.frame, warnLow := vin } }
    R.pwrStat 5) fun g => { g with storedThisWarning := false }) 9

theorem touches_warned {v : Nat} : Touches [.power, .gloss] [R.pwrVin, R.pwrVinmin, R.pwrStat, R.sysIrqstat] s (warned s v) := by
  have shown : Touches [.power, .gloss] [R.pwrVin, R.pwrVinmin, R.pwrStat, R.sysIrqstat] s (showVin s v) :=
    touches_mono touches_showVin (by decide) (by decide)
  exact touches_raiseIrq (touches_gloss (touches_setFlag (touches_power shown _ (by decide)) _ (by decide)) _ (by decide)) _ (by decide)

theorem warned_warn {v : Nat} : flag (warned s v) R.pwrStat 5 = true := by
  rw [warned, raiseIrq_eq, flag_wrFld_ne (by decide), flag_onGloss, flag_setFlag _ _ _ (by decide)]

theorem warned_irq {v : Nat} : flag (warned s v) R.sysIrqstat 9 = true := by
  rw [warned, raiseIrq, flag_setFlag _ _ _ (by decide)]

theorem asleep_warned {v : Nat} : asleep (warned s v) = asleep s := by
  rw [warned, asleep, raiseIrq_eq, fld_wrFld_ne (by decide), fld_onGloss, setFlag_eq,
    fld_wrFld_apart (by decide) (by decide) (by decide) (by decide), fld_lit, ← asleep_showVin (s := s) (vin := v), asleep]

theorem warned_gloss {v : Nat} : (warned s v).gloss = { s.gloss with storedThisWarning := false } := by
  rw [warned, raiseIrq_gloss, onGloss_gloss, setFlag_gloss, touches_showVin.parts.gloss (by decide)]

theorem warned_power (below : vin.toNat < 4350) (before : lastVin s < 4350) (clear : flag s R.pwrStat 5 = false) :
    (warned s vin.toNat).power = { s.power with warnAt := some s.time.aoTime, warnFrame := s.time.frame, warnLow := vin.toNat, vinGood := none } := by
  rw [warned, raiseIrq_power, onGloss_power, setFlag_power, showVin_power, sampled_low below before clear,
    touches_showVin.parts.time (by decide)]

/-- The sample, and at the second below the threshold the warning. -/
theorem exec_brownoutWarning : exec (.brownoutWarning vin) s =
    if (vin.toNat < 4350 ∧ lastVin s < 4350) ∧ flag s R.pwrStat 5 = false then
      (if asleep s then .next (warned s vin.toNat)
       else .next (startGlossStore (raiseGloss (warned s vin.toNat) 0x0100 (w32 vin.toNat) (w32 s.time.frame) 0)))
    else .next (showVin s vin.toNat) := by
  have second : fallsBelow s vin.toNat 4350 = decide (vin.toNat < 4350 ∧ lastVin s < 4350) := by
    rw [fallsBelow, Bool.decide_and, Bool.and_comm]
  have clear : flag (showVin s vin.toNat) R.pwrStat 5 = flag s R.pwrStat 5 := flag_showVin (by decide)
  have frame : (warned s vin.toNat).time = s.time := touches_warned.parts.time (by decide)
  show execBrownoutWarning vin s = _
  unfold execBrownoutWarning
  by_cases low : (vin.toNat < 4350 ∧ lastVin s < 4350) ∧ flag s R.pwrStat 5 = false
  · rw [if_pos low]
    simp only [second, clear, low.1, low.2]
    show (if asleep (warned s vin.toNat) then Host.Outcome.next (warned s vin.toNat) else
      Host.Outcome.next (startGlossStore (raiseGloss (warned s vin.toNat) 0x0100 (w32 vin.toNat) (w32 (warned s vin.toNat).time.frame) 0))) = _
    rw [asleep_warned, frame]
  · rw [if_neg low]
    simp only [second, clear]
    exact if_pos (by simpa [Decidable.or_iff_not_imp_left] using low)

theorem startGlossStore_off (off : glossStoreOn s = false) : startGlossStore s = s := by
  rw [startGlossStore, if_pos (by simp [off])]

theorem glossStoreOn_congr {t : State} (nvm : t.nvm = s.nvm) (ctl : rd t R.glossCtl = rd s R.glossCtl) : glossStoreOn t = glossStoreOn s := by
  rw [glossStoreOn, flag_congr ctl, nvm, glossStoreOn]

theorem brownoutWarning_warns (below : vin.toNat < 4350) (before : lastVin s < 4350) (clear : flag s R.pwrStat 5 = false)
    (awake : asleep s = false) (off : glossStoreOn s = false) :
    ∃ t, exec (.brownoutWarning vin) s = .next t ∧ flag t R.pwrStat 5 = true ∧ flag t R.sysIrqstat 9 = true ∧
      fld t R.pwrVin 15 0 = vin.toNat ∧ fld t R.pwrVinmin 15 0 = min vin.toNat (fld s R.pwrVinmin 15 0) ∧
      t.power = { s.power with warnAt := some s.time.aoTime, warnFrame := s.time.frame, warnLow := vin.toNat, vinGood := none } ∧
      Logged 0x0100 (w32 vin.toNat) (w32 s.time.frame) 0 { s with gloss := { s.gloss with storedThisWarning := false } } t ∧
      Touches [.power, .gloss] (R.pwrVin :: R.pwrVinmin :: R.pwrStat :: R.sysIrqstat :: glossRegs) s t := by
  obtain ⟨u, hu⟩ : ∃ u, u = warned s vin.toNat := ⟨_, rfl⟩
  have touched : Touches [.power, .gloss] [R.pwrVin, R.pwrVinmin, R.pwrStat, R.sysIrqstat] s u := hu ▸ touches_warned
  have value : exec (.brownoutWarning vin) s = .next (raiseGloss u 0x0100 (w32 vin.toNat) (w32 s.time.frame) 0) := by
    have same : glossStoreOn (raiseGloss u 0x0100 (w32 vin.toNat) (w32 s.time.frame) 0) = glossStoreOn s :=
      glossStoreOn_congr ((raiseGloss_nvm ..).trans (touched.parts.nvm (by decide)))
        ((rd_raiseGloss _ _ _ _ _ _ (by decide)).trans (touched.regs _ (by decide)))
    rw [exec_brownoutWarning, if_pos ⟨⟨below, before⟩, clear⟩, awake, if_neg Bool.false_ne_true, ← hu, startGlossStore_off (same.trans off)]
  have shown : fld u R.pwrVin 15 0 = fld (showVin s vin.toNat) R.pwrVin 15 0 ∧
      fld u R.pwrVinmin 15 0 = fld (showVin s vin.toNat) R.pwrVinmin 15 0 := by
    rw [hu]
    constructor <;> rw [warned, raiseIrq_eq, fld_wrFld_ne (by decide), fld_onGloss, setFlag_eq, fld_wrFld_ne (by decide), fld_lit]
  refine ⟨_, value, ?_, ?_, ?_, ?_, ?_, logged_raiseGloss (hu ▸ warned_gloss) ?_, ?_⟩
  · rw [flag_raiseGloss (by decide), hu, warned_warn]
  · rw [flag_raiseGloss (by decide), hu, warned_irq]
  · rw [fld_raiseGloss (by decide), shown.1, vin_showVin vin.isLt]
  · rw [fld_raiseGloss (by decide), shown.2, vinmin_showVin vin.isLt]
  · rw [raiseGloss_power, hu, warned_power below before clear]
  · have kept : u.time = s.time := touched.parts.time (by decide)
    exact ⟨by rw [kept], by rw [kept], by rw [kept], by rw [kept]⟩
  · exact touches_raiseGloss (touches_mono touched (by decide) (by decide)) _ _ _ _ (by decide) (by decide)

theorem brownoutWarning_asleep (below : vin.toNat < 4350) (before : lastVin s < 4350) (clear : flag s R.pwrStat 5 = false)
    (sleeps : asleep s = true) :
    ∃ t, exec (.brownoutWarning vin) s = .next t ∧ flag t R.pwrStat 5 = true ∧ flag t R.sysIrqstat 9 = true ∧
      t.power = { s.power with warnAt := some s.time.aoTime, warnFrame := s.time.frame, warnLow := vin.toNat, vinGood := none } ∧
      t.gloss = { s.gloss with storedThisWarning := false } ∧
      Touches [.power, .gloss] [R.pwrVin, R.pwrVinmin, R.pwrStat, R.sysIrqstat] s t := by
  refine ⟨warned s vin.toNat, ?_, warned_warn, warned_irq, warned_power below before clear, warned_gloss, touches_warned⟩
  rw [exec_brownoutWarning, if_pos ⟨⟨below, before⟩, clear⟩, if_pos sleeps]

theorem brownoutWarning_shows (h : 4350 ≤ vin.toNat ∨ 4350 ≤ lastVin s ∨ flag s R.pwrStat 5 = true) :
    ∃ t, exec (.brownoutWarning vin) s = .next t ∧ fld t R.pwrVin 15 0 = vin.toNat ∧
      fld t R.pwrVinmin 15 0 = min vin.toNat (fld s R.pwrVinmin 15 0) ∧ t.power = sampled s vin.toNat ∧
      Touches [.power] [R.pwrVin, R.pwrVinmin] s t := by
  refine ⟨showVin s vin.toNat, ?_, vin_showVin vin.isLt, vinmin_showVin vin.isLt, showVin_power, touches_showVin⟩
  rw [exec_brownoutWarning, if_neg]
  rintro ⟨⟨below, before⟩, clear⟩
  rcases h with h | h | h
  · omega
  · omega
  · simp [clear] at h

end Warning

/-! ### Its end (R450) -/

section Recovery
variable {s : State} {vin : BitVec 16}

/-- The state once the warning has been cleared. -/
def recovered (s : State) (vin : Nat) : State :=
  raiseIrq { clrFlag (clrFlag (showVin s vin) R.pwrStat 5) R.pwrStat 6 with
    power := { (clrFlag (clrFlag (showVin s vin) R.pwrStat 5) R.pwrStat 6).power with muted := false, warnAt := none } } 9

theorem touches_recovered {v : Nat} : Touches [.power] [R.pwrVin, R.pwrVinmin, R.pwrStat, R.sysIrqstat] s (recovered s v) := by
  have shown : Touches [.power] [R.pwrVin, R.pwrVinmin, R.pwrStat, R.sysIrqstat] s (showVin s v) :=
    touches_mono touches_showVin (by decide) (by decide)
  exact touches_raiseIrq (touches_power (touches_clrFlag (touches_clrFlag shown _ (by decide)) _ (by decide)) _ (by decide)) _ (by decide)

theorem recovered_warn {v : Nat} : flag (recovered s v) R.pwrStat 5 = false := by
  rw [recovered, raiseIrq_eq, flag_wrFld_ne (by decide), flag_lit, clrFlag_eq, flag_wrFld_apart (by decide) (by decide) (by decide),
    flag_clrFlag _ _ _ (by decide)]

theorem recovered_muted {v : Nat} : flag (recovered s v) R.pwrStat 6 = false := by
  rw [recovered, raiseIrq_eq, flag_wrFld_ne (by decide), flag_lit, flag_clrFlag _ _ _ (by decide)]

theorem recovered_irq {v : Nat} : flag (recovered s v) R.sysIrqstat 9 = true := by
  rw [recovered, raiseIrq, flag_setFlag _ _ _ (by decide)]

theorem recovered_power {v : Nat} : (recovered s v).power = { sampled s v with muted := false, warnAt := none } := by
  rw [recovered, raiseIrq_power, clrFlag_power, clrFlag_power, showVin_power]

theorem asleep_recovered {v : Nat} : asleep (recovered s v) = asleep s := by
  rw [recovered, asleep, raiseIrq_eq, fld_wrFld_ne (by decide), fld_lit, clrFlag_eq,
    fld_wrFld_apart (by decide) (by decide) (by decide) (by decide), clrFlag_eq,
    fld_wrFld_apart (by decide) (by decide) (by decide) (by decide), ← asleep_showVin (s := s) (vin := v), asleep]

/-- The sample, and at the second above the threshold the end of the warning. -/
theorem warningRecovery_eq : warningRecovery s vin =
    if (4450 < vin.toNat ∧ 4450 < lastVin s) ∧ flag s R.pwrStat 5 = true then
      (if asleep s then recovered s vin.toNat
       else raiseGloss (releaseWarned (recovered s vin.toNat)) 0x0101 (w32 (sampled s vin.toNat).warnLow)
        (w32 (s.time.frame - s.power.warnFrame)) (w32 (heldCount (showVin s vin.toNat))))
    else showVin s vin.toNat := by
  have second : risesAbove s vin.toNat 4450 = decide (4450 < vin.toNat ∧ 4450 < lastVin s) := by
    rw [risesAbove, Bool.decide_and, Bool.and_comm]
  have warn : flag (showVin s vin.toNat) R.pwrStat 5 = flag s R.pwrStat 5 := flag_showVin (by decide)
  have power : (clrFlag (clrFlag (showVin s vin.toNat) R.pwrStat 5) R.pwrStat 6).power = sampled s vin.toNat := by
    rw [clrFlag_power, clrFlag_power, showVin_power]
  have time : (clrFlag (clrFlag (showVin s vin.toNat) R.pwrStat 5) R.pwrStat 6).time = s.time := by
    rw [clrFlag_time, clrFlag_time, touches_showVin.parts.time (by decide)]
  unfold warningRecovery
  by_cases high : (4450 < vin.toNat ∧ 4450 < lastVin s) ∧ flag s R.pwrStat 5 = true
  · rw [if_pos high]
    simp only [second, warn, high.1, high.2]
    show (if asleep (recovered s vin.toNat) then recovered s vin.toNat else raiseGloss (releaseWarned (recovered s vin.toNat)) 0x0101
      (w32 (clrFlag (clrFlag (showVin s vin.toNat) R.pwrStat 5) R.pwrStat 6).power.warnLow)
      (w32 ((clrFlag (clrFlag (showVin s vin.toNat) R.pwrStat 5) R.pwrStat 6).time.frame -
        (clrFlag (clrFlag (showVin s vin.toNat) R.pwrStat 5) R.pwrStat 6).power.warnFrame)) (w32 (heldCount (showVin s vin.toNat)))) = _
    rw [asleep_recovered, power, time]
    rfl
  · rw [if_neg high]
    simp only [second, warn]
    exact if_pos (by simpa [Decidable.or_iff_not_imp_left] using high)

theorem exec_warningRecovery : exec (.warningRecovery vin) s = .next (startWake (warningRecovery s vin) 0) := rfl

theorem startWake_idle {n : Nat} (idle : wakeDue s = false) : startWake s n = s := by
  rw [startWake, if_pos (by rw [idle]; rfl)]

/-- Nothing latched and no wake under way: none is due. -/
theorem wakeDue_none (quiet : NoWake s) : wakeDue s = false := by
  obtain ⟨latch, waking⟩ := quiet
  have masked : (if s.boot.supplyFailed then s.power.wakeLatch &&& 3 else s.power.wakeLatch) = 0 := by
    rw [latch]
    exact ite_self _
  rw [wakeDue, waking, masked]
  simp

theorem releaseWarned_empty (empty : s.evt.queue = []) : releaseWarned s = s := by
  simp [releaseWarned, empty, evSort]

theorem heldCount_empty (empty : s.evt.queue = []) : heldCount s = 0 := by
  simp [heldCount, empty, evSort]

theorem warningRecovery_recovers (above : 4450 < vin.toNat) (before : 4450 < lastVin s) (warn : flag s R.pwrStat 5 = true)
    (awake : asleep s = false) (empty : s.evt.queue = []) :
    ∃ t, exec (.warningRecovery vin) s = .next t ∧ flag t R.pwrStat 5 = false ∧ flag t R.pwrStat 6 = false ∧
      flag t R.sysIrqstat 9 = true ∧ t.power = { sampled s vin.toNat with muted := false, warnAt := none } ∧
      Logged 0x0101 (w32 (min s.power.warnLow vin.toNat)) (w32 (s.time.frame - s.power.warnFrame)) 0 s t ∧
      Touches [.power, .gloss] (R.pwrVin :: R.pwrVinmin :: R.pwrStat :: R.sysIrqstat :: glossRegs) s t := by
  obtain ⟨u, hu⟩ : ∃ u, u = recovered s vin.toNat := ⟨_, rfl⟩
  have touched : Touches [.power] [R.pwrVin, R.pwrVinmin, R.pwrStat, R.sysIrqstat] s u := hu ▸ touches_recovered
  have lowest : (sampled s vin.toNat).warnLow = min s.power.warnLow vin.toNat := if_pos warn
  have value : warningRecovery s vin = raiseGloss u 0x0101 (w32 (min s.power.warnLow vin.toNat)) (w32 (s.time.frame - s.power.warnFrame)) 0 := by
    rw [warningRecovery_eq, if_pos ⟨⟨above, before⟩, warn⟩, awake, if_neg Bool.false_ne_true, ← hu,
      releaseWarned_empty (by rw [touched.parts.evt (by decide), empty]),
      heldCount_empty (by rw [touches_showVin.parts.evt (by decide), empty]), lowest]
    rfl
  have stays : asleep (raiseGloss u 0x0101 (w32 (min s.power.warnLow vin.toNat)) (w32 (s.time.frame - s.power.warnFrame)) 0) = false := by
    rw [asleep, fld_raiseGloss (by decide), ← asleep, hu, asleep_recovered, awake]
  refine ⟨_, by rw [exec_warningRecovery, value, startWake_awake _ _ stays], ?_, ?_, ?_, ?_, logged_raiseGloss (touched.parts.gloss (by decide)) ?_, ?_⟩
  · rw [flag_raiseGloss (by decide), hu, recovered_warn]
  · rw [flag_raiseGloss (by decide), hu, recovered_muted]
  · rw [flag_raiseGloss (by decide), hu, recovered_irq]
  · rw [raiseGloss_power, hu, recovered_power]
  · have kept : u.time = s.time := touched.parts.time (by decide)
    exact ⟨by rw [kept], by rw [kept], by rw [kept], by rw [kept]⟩
  · exact touches_raiseGloss (touches_mono touched (by decide) (by decide)) _ _ _ _ (by decide) (by decide)

theorem warningRecovery_shows (h : vin.toNat ≤ 4450 ∨ lastVin s ≤ 4450 ∨ flag s R.pwrStat 5 = false) (awake : asleep s = false) :
    ∃ t, exec (.warningRecovery vin) s = .next t ∧ fld t R.pwrVin 15 0 = vin.toNat ∧ t.power = sampled s vin.toNat ∧
      Touches [.power] [R.pwrVin, R.pwrVinmin] s t := by
  have value : warningRecovery s vin = showVin s vin.toNat := by
    rw [warningRecovery_eq, if_neg]
    rintro ⟨⟨above, before⟩, warn⟩
    rcases h with h | h | h
    · omega
    · omega
    · simp [warn] at h
  refine ⟨showVin s vin.toNat, ?_, vin_showVin vin.isLt, showVin_power, touches_showVin⟩
  rw [exec_warningRecovery, value, startWake_awake _ _ (asleep_showVin.trans awake)]

theorem warningRecovery_asleep (above : 4450 < vin.toNat) (before : 4450 < lastVin s) (warn : flag s R.pwrStat 5 = true)
    (sleeps : asleep s = true) (quiet : NoWake s) :
    ∃ t, exec (.warningRecovery vin) s = .next t ∧ flag t R.pwrStat 5 = false ∧ flag t R.sysIrqstat 9 = true ∧
      t.power = { sampled s vin.toNat with muted := false, warnAt := none } ∧
      Touches [.power] [R.pwrVin, R.pwrVinmin, R.pwrStat, R.sysIrqstat] s t := by
  refine ⟨recovered s vin.toNat, ?_, recovered_warn, recovered_irq, recovered_power, touches_recovered⟩
  have idle : NoWake (recovered s vin.toNat) := by
    rw [NoWake, recovered_power]
    exact quiet
  rw [exec_warningRecovery, warningRecovery_eq, if_pos ⟨⟨above, before⟩, warn⟩, if_pos sleeps, startWake_idle (wakeDue_none idle)]

end Recovery

/-! ### The mute and the hold capacitor (R442, R451) -/

section Mute
variable {s : State} {mv : BitVec 16}

theorem brownoutMute_mutes {t0 : DWord} (warned : s.power.warnAt = some t0) (unmuted : s.power.muted = false) (awake : asleep s = false)
    (due : t0.toNat + msCycles s (fld s R.pwrBowait 9 0) ≤ s.time.aoTime.toNat) :
    ∃ t, exec .brownoutMute s = .next t ∧ flag t R.pwrStat 6 = true ∧ t.power = { s.power with muted := true } ∧
      Logged 0x0102 (w32 s.time.frame) (w32 (fld s R.pwrVin 15 0)) 0 s t ∧ Touches [.power, .gloss] (R.pwrStat :: glossRegs) s t := by
  obtain ⟨u, hu⟩ : ∃ u, u = setFlag { s with power := { s.power with muted := true } } R.pwrStat 6 := ⟨_, rfl⟩
  have touched : Touches [.power] [R.pwrStat] s u := hu ▸ touches_setFlag (touches_power touches_rfl _ (by decide)) _ (by decide)
  have time : u.time = s.time := touched.parts.time (by decide)
  have vin : fld u R.pwrVin 15 0 = fld s R.pwrVin 15 0 := fld_congr (touched.regs _ (by decide))
  have value : brownoutMute s = raiseGloss u 0x0102 (w32 s.time.frame) (w32 (fld s R.pwrVin 15 0)) 0 := by
    simp only [brownoutMute, ← hu]
    rw [time, vin]
  have asked : muteDue s = true := by simp [muteDue, warned, unmuted, awake, due]
  refine ⟨_, ?_, ?_, ?_, logged_raiseGloss (touched.parts.gloss (by decide)) ⟨by rw [time], by rw [time], by rw [time], by rw [time]⟩,
    touches_raiseGloss (touches_mono touched (by decide) (by decide)) _ _ _ _ (by decide) (by decide)⟩
  · show execBrownoutMute s = _
    rw [execBrownoutMute, if_pos asked, value]
  · rw [flag_raiseGloss (by decide), hu, flag_setFlag _ _ _ (by decide)]
  · rw [raiseGloss_power, hu, setFlag_power]

theorem brownoutMute_idle (h : s.power.warnAt = none ∨ s.power.muted = true ∨ asleep s = true ∨
      (∃ t0, s.power.warnAt = some t0 ∧ s.time.aoTime.toNat < t0.toNat + msCycles s (fld s R.pwrBowait 9 0))) :
    exec .brownoutMute s = .next s := by
  have early : muteDue s = false := by
    unfold muteDue
    rcases h with h | h | h | ⟨t0, h, later⟩
    · rw [h]
    · cases s.power.warnAt <;> simp [h]
    · cases s.power.warnAt <;> simp [h]
    · simp [h, later]
  show execBrownoutMute s = _
  rw [execBrownoutMute, if_neg (by simp [early])]

/-- The state with the voltage measured. -/
def measured (s : State) (mv : Nat) : State := { s with power := { s.power with vhold := mv } }

theorem exec_vholdShort : exec (.vholdShort mv) s =
    if chargerRuns s then
      (if vholdGood (measured s mv.toNat) then .next (clrFlag (measured s mv.toNat) R.pwrHold 9)
       else .next (raiseGloss (setFlag (measured s mv.toNat) R.pwrHold 9) 0x0103 (w32 mv.toNat) 0 0))
    else .next s := by
  show execVholdShort mv s = _
  unfold execVholdShort
  cases chargerRuns s <;> rfl

theorem vholdShort_good (ready : s.boot.ready = true) (awake : asleep s = false) (least : 14700 ≤ mv.toNat) (most : mv.toNat ≤ 15300) :
    ∃ t, exec (.vholdShort mv) s = .next t ∧ flag t R.pwrHold 9 = false ∧ t.power = { s.power with vhold := mv.toNat } ∧
      Touches [.power] [R.pwrHold] s t := by
  have runs : chargerRuns s = true := by simp [chargerRuns, ready, awake]
  have good : vholdGood (measured s mv.toNat) = true := by simp [vholdGood, measured, least, most]
  refine ⟨_, by rw [exec_vholdShort, if_pos runs, if_pos good], flag_clrFlag _ _ _ (by decide), by rw [clrFlag_power, measured], ?_⟩
  exact touches_clrFlag (touches_power touches_rfl _ (by decide)) _ (by decide)

theorem vholdShort_idle (h : s.boot.ready = false ∨ asleep s = true) : exec (.vholdShort mv) s = .next s := by
  have stopped : chargerRuns s = false := by rcases h with h | h <;> simp [chargerRuns, h]
  rw [exec_vholdShort, if_neg (by simp [stopped])]

theorem vholdShort_shorted (ready : s.boot.ready = true) (awake : asleep s = false) (outside : mv.toNat < 14700 ∨ 15300 < mv.toNat) :
    ∃ t, exec (.vholdShort mv) s = .next t ∧ flag t R.pwrHold 9 = true ∧ (∃ w, liveReg t R.pwrHold = some w ∧ bitOf w 8 = false) ∧
      t.power = { s.power with vhold := mv.toNat } ∧ Logged 0x0103 (w32 mv.toNat) 0 0 s t ∧
      Touches [.power, .gloss] (R.pwrHold :: glossRegs) s t := by
  have runs : chargerRuns s = true := by simp [chargerRuns, ready, awake]
  have short : vholdGood (measured s mv.toNat) = false := by
    show (decide (14700 ≤ mv.toNat) && decide (mv.toNat ≤ 15300)) = false
    rw [Bool.and_eq_false_iff, decide_eq_false_iff_not, decide_eq_false_iff_not, Nat.not_le, Nat.not_le]
    exact outside
  obtain ⟨u, hu⟩ : ∃ u, u = setFlag (measured s mv.toNat) R.pwrHold 9 := ⟨_, rfl⟩
  have touched : Touches [.power] [R.pwrHold] s u := hu ▸ touches_setFlag (touches_power touches_rfl _ (by decide)) _ (by decide)
  have power : (raiseGloss u 0x0103 (w32 mv.toNat) 0 0).power = { s.power with vhold := mv.toNat } := by
    rw [raiseGloss_power, hu, setFlag_power, measured]
  have live : vholdGood (raiseGloss u 0x0103 (w32 mv.toNat) 0 0) = false := by
    rw [vholdGood, power]
    exact short
  have time : u.time = s.time := touched.parts.time (by decide)
  refine ⟨_, by rw [exec_vholdShort, if_pos runs, if_neg (by simp [short]), ← hu], ?_, ?_, power,
    logged_raiseGloss (touched.parts.gloss (by decide)) ⟨by rw [time], by rw [time], by rw [time], by rw [time]⟩,
    touches_raiseGloss (touches_mono touched (by decide) (by decide)) _ _ _ _ (by decide) (by decide)⟩
  · rw [flag_raiseGloss (by decide), hu, flag_setFlag _ _ _ (by decide)]
  · have shown : ∀ t : State, liveReg t R.pwrHold = some (setBits (rd t R.pwrHold) 8 8 (b2n (vholdGood t))) := fun _ => rfl
    refine ⟨_, shown _, ?_⟩
    rw [bitOf_setBits _ _ _ (by decide), live]
    rfl

end Mute

/-! ### Three operations of the PWR page (R28, R445, R452, R458) -/

section Commands
variable {s : State} {v : Word}

theorem writable_pwrVinmin : Writable R.pwrVinmin ((regDesc R.pwrVinmin).get (by decide)) := by constructor <;> decide
theorem writable_pwrDomen : Writable R.pwrDomen ((regDesc R.pwrDomen).get (by decide)) := by constructor <;> decide
theorem writable_pwrPadrel : Writable R.pwrPadrel ((regDesc R.pwrPadrel).get (by decide)) := by constructor <;> decide

theorem vinminClear_clears (may : HostMayWrite s R.pwrVinmin) :
    ∃ t, exec .vinminClear s = .next t ∧ fld t R.pwrVinmin 15 0 = fld s R.pwrVin 15 0 ∧ Touches [] [R.pwrVinmin] s t := by
  have clears : Touches [] [R.pwrVinmin] (wr s R.pwrErr 0) (clearVinmin (wr s R.pwrErr 0)) := touches_wrFld touches_rfl _ _ _ (by decide)
  obtain ⟨value, frame⟩ := operation_done (e := R.pwrErr) (v := 0x80000000) (u := clearVinmin (wr s R.pwrErr 0)) rfl may writable_pwrVinmin
    rfl clears (by decide) (by rw [asleep_touches clears (by decide), asleep_wr _ _ _ (by decide), may.awake])
  have fits : fld s R.pwrVin 15 0 < 2 ^ 16 := Nat.mod_lt _ (by decide)
  refine ⟨_, rfl, ?_, frame⟩
  rw [value, fld_wr_ne (by decide), clearVinmin, fld_wr_ne (by decide), fld_wrFld_fits (by decide) (by decide) fits]

theorem domainOn_wr {e d : Nat} {x : Word} (h : R.pwrDomstat ≠ e) : domainOn (wr s e x) d = domainOn s d := flag_wr_ne h

/-- An awake device's value breaks R28 where it clears PD3 or PD4, or has a domain on, or come on, without PD3. -/
theorem domenRefused_eq (awake : asleep s = false) : domenRefused s v = (!bitOf v 3 || !bitOf v 4 ||
    (!domainOn s 3 && [1, 2, 4, 5, 6, 7].any fun d => bitOf v d && !domainOn s d)) := by
  have state : decide (devState s < 2) = true := by
    have woken := of_decide_eq_false awake
    exact decide_eq_true (Nat.not_le.1 woken)
  rw [domenRefused, state]
  cases bitOf v 3 <;> simp

/-- The state once a request for domains stands: one that turns PD5 off begins its POWER cause. -/
def requested (s : State) (v : Word) : State :=
  { wrFld s R.pwrDomen 7 1 (bits v 7 1) with
    power := { (wrFld s R.pwrDomen 7 1 (bits v 7 1)).power with
      offReq := if bitOf v 5 || !domainOn (wrFld s R.pwrDomen 7 1 (bits v 7 1)) 5 then 0 else 0x20 } }

theorem touches_requested : Touches [.power] [R.pwrDomen] s (requested s v) :=
  touches_power (touches_wrFld touches_rfl _ _ _ (by decide)) _ (by decide)

theorem requested_power : (requested s v).power = { s.power with offReq := if bitOf v 5 || !domainOn s 5 then 0 else 0x20 } := by
  have same : domainOn (wrFld s R.pwrDomen 7 1 (bits v 7 1)) 5 = domainOn s 5 := flag_wrFld_ne (by decide)
  simp only [requested, same, wrFld_power]

/-- The change waits for the next boundary. -/
theorem writeDomen_waits (allowed : domenRefused s v = false) (complete : s.boot.complete = true) (staying : s.power.entry = none) :
    writeDomen s v = requested s v := by
  have here : (wrFld s R.pwrDomen 7 1 (bits v 7 1)).power.entry.isSome = false := by rw [wrFld_power, staying]; rfl
  have done : (wrFld s R.pwrDomen 7 1 (bits v 7 1)).boot.complete = true := by rw [wrFld_boot, complete]
  unfold writeDomen
  simp only [allowed, here, done]
  rfl

theorem domainEnable_taken (may : HostMayWrite s R.pwrDomen) (keeps3 : bitOf v 3 = true) (keeps4 : bitOf v 4 = true)
    (complete : s.boot.complete = true) (staying : s.power.entry = none) (on : domainOn s 3 = true) :
    ∃ t, exec (.domainEnable v) s = .next t ∧ fld t R.pwrDomen 7 1 = bits v 7 1 ∧
      t.power = { s.power with offReq := if bitOf v 5 || !domainOn s 5 then 0 else 0x20 } ∧ Touches [.power] [R.pwrDomen] s t := by
  obtain ⟨z, hz⟩ : ∃ z, z = wr s R.pwrErr 0 := ⟨_, rfl⟩
  have awake : asleep z = false := by rw [hz, asleep_wr _ _ _ (by decide), may.awake]
  have allowed : domenRefused z v = false := by
    rw [domenRefused_eq awake, hz, domainOn_wr (by decide), keeps3, keeps4, on]
    rfl
  have writes : writeDomen z v = requested z v :=
    writeDomen_waits allowed (by rw [hz, wr_boot, complete]) (by rw [hz, wr_power, staying])
  rw [hz] at writes awake
  obtain ⟨value, frame⟩ := operation_done (e := R.pwrErr) rfl may writable_pwrDomen (congrArg some writes)
    touches_requested (by decide) (by rw [asleep_touches touches_requested (by decide), awake])
  have fits : bits v 7 1 < 2 ^ 7 := Nat.mod_lt _ (by decide)
  refine ⟨_, rfl, ?_, ?_, frame⟩ <;> rw [value]
  · rw [fld_wr_ne (by decide), requested, fld_lit, fld_wrFld_fits (by decide) (by decide) fits]
  · rw [wr_power, requested_power, domainOn_wr (by decide), wr_power]

theorem domainEnable_refused (may : HostMayWrite s R.pwrDomen) (h : bitOf v 3 = false ∨ bitOf v 4 = false ∨
      (domainOn s 3 = false ∧ ∃ d ∈ [1, 2, 4, 5, 6, 7], bitOf v d = true ∧ domainOn s d = false)) :
    ∃ t, exec (.domainEnable v) s = .next t ∧ Refused s t R.pwrDomen false := by
  obtain ⟨z, hz⟩ : ∃ z, z = wr s R.pwrErr 0 := ⟨_, rfl⟩
  have awake : asleep z = false := by rw [hz, asleep_wr _ _ _ (by decide), may.awake]
  have domains : ∀ d, domainOn z d = domainOn s d := fun d => hz ▸ domainOn_wr (by decide)
  have breaks : domenRefused z v = true := by
    rw [domenRefused_eq awake]
    rcases h with h | h | ⟨off, d, known, asked, out⟩
    · rw [h]
      rfl
    · rw [h]
      simp
    · have some : ([1, 2, 4, 5, 6, 7].any fun d => bitOf v d && !domainOn z d) = true :=
        List.any_eq_true.2 ⟨d, known, by rw [asked, domains, out]; rfl⟩
      rw [domains, off, some]
      simp
  have writes : writeDomen z v = refuse z R.pwrDomen false := by
    rw [writeDomen, if_pos breaks]
  exact ⟨_, rfl, operation_refused rfl may writable_pwrDomen (congrArg some (hz ▸ writes))⟩

/-- The pads of these domains let go. -/
def letGo (s : State) (ds : List Nat) : State := ds.foldl (fun t d => clrFlag t R.pwrDomstat (8 + d)) s

theorem touches_letGo {t : State} {ds : List Nat} (h : Touches [] [R.pwrDomstat] s t) : Touches [] [R.pwrDomstat] s (letGo t ds) := by
  induction ds generalizing t with
  | nil => exact h
  | cons d ds ih => exact ih (touches_clrFlag h _ (by decide))

theorem flag_letGo {ds : List Nat} {i : Nat} (small : ∀ d ∈ ds, d < 24) :
    flag (letGo s ds) R.pwrDomstat i = (flag s R.pwrDomstat i && ds.all fun d => decide (i ≠ 8 + d)) := by
  induction ds generalizing s with
  | nil => simp [letGo]
  | cons d ds ih =>
    have fits := small d List.mem_cons_self
    have one : flag (clrFlag s R.pwrDomstat (8 + d)) R.pwrDomstat i = (flag s R.pwrDomstat i && decide (i ≠ 8 + d)) := by
      by_cases same : i = 8 + d
      · subst same
        rw [flag_clrFlag _ _ _ (by omega)]
        simp
      · rw [clrFlag_eq, flag_wrFld_apart (Nat.le_refl _) (by omega) (by omega)]
        simp [same]
    show flag (letGo (clrFlag s R.pwrDomstat (8 + d)) ds) R.pwrDomstat i = _
    rw [ih fun x hx => small x (List.mem_cons_of_mem _ hx), one, List.all_cons, Bool.and_assoc]

/-- The domains whose pads a value asks for. -/
def asked (v : Word) : List Nat := [3, 5, 7].filter fun d => bitOf v d

theorem padRelease_released (may : HostMayWrite s R.pwrPadrel) (apart : bitOf v 5 = false)
    (latched : ∀ d ∈ [3, 7], bitOf v d = true → domainOn s d = true ∧ flag s R.pwrDomstat (8 + d) = true) :
    ∃ t, exec (.padRelease v) s = .next t ∧
      (∀ i, i < 32 → flag t R.pwrDomstat i = (flag s R.pwrDomstat i && !((i = 11 && bitOf v 3) || (i = 15 && bitOf v 7)))) ∧
      Touches [] [R.pwrDomstat] s t := by
  obtain ⟨z, hz⟩ : ∃ z, z = wr s R.pwrErr 0 := ⟨_, rfl⟩
  have status : ∀ i, flag z R.pwrDomstat i = flag s R.pwrDomstat i := fun i => hz ▸ flag_wr_ne (by decide)
  have known : ∀ d ∈ asked v, (d = 3 ∨ d = 7) ∧ bitOf v d = true := by
    intro d hd
    obtain ⟨listed, set⟩ := List.mem_filter.1 hd
    simp only [List.mem_cons, List.not_mem_nil, or_false] at listed
    rcases listed with rfl | rfl | rfl
    · exact ⟨.inl rfl, set⟩
    · simp [apart] at set
    · exact ⟨.inr rfl, set⟩
  have held : ((asked v).any fun d => !domainOn z d || !flag z R.pwrDomstat (8 + d)) = false := by
    rw [List.any_eq_false]
    intro d hd
    obtain ⟨listed, set⟩ := known d hd
    obtain ⟨on, latch⟩ := latched d (by simpa using listed) set
    rw [domainOn, status, status, ← domainOn, on, latch]
    exact Bool.false_ne_true
  have without : (asked v).contains 5 = false := by
    have absent : 5 ∉ asked v := fun five => by simpa using (known 5 five).1
    simpa using absent
  have writes : writePadrel z v = letGo z (asked v) := by
    unfold writePadrel
    show (if ((asked v).any fun d => !domainOn z d || !flag z R.pwrDomstat (8 + d)) = true then _ else
      if (asked v).contains 5 = true then openAllParks (letGo z (asked v)) else letGo z (asked v)) = _
    rw [held, if_neg Bool.false_ne_true, without, if_neg Bool.false_ne_true]
  have touched : Touches [] [R.pwrDomstat] (wr s R.pwrErr 0) (letGo (wr s R.pwrErr 0) (asked v)) := touches_letGo touches_rfl
  obtain ⟨value, frame⟩ := operation_done (e := R.pwrErr) rfl may writable_pwrPadrel (congrArg some (hz ▸ writes)) touched (by decide)
    (by rw [asleep_touches touched (by decide), asleep_wr _ _ _ (by decide), may.awake])
  refine ⟨_, rfl, fun i _ => ?_, frame⟩
  have small : ∀ d ∈ asked v, d < 24 := fun d hd => by rcases (known d hd).1 with rfl | rfl <;> decide
  have cleared : (asked v).all (fun d => decide (i ≠ 8 + d)) = !((i = 11 && bitOf v 3) || (i = 15 && bitOf v 7)) := by
    cases three : bitOf v 3 <;> cases seven : bitOf v 7 <;> simp [asked, apart, three, seven]
  rw [value, flag_wr_ne (by decide), flag_letGo small, ← hz, status, cleared]

theorem padRelease_refused {d : Nat} (may : HostMayWrite s R.pwrPadrel) (known : d ∈ [3, 5, 7]) (asks : bitOf v d = true)
    (h : domainOn s d = false ∨ flag s R.pwrDomstat (8 + d) = false) :
    ∃ t, exec (.padRelease v) s = .next t ∧ Refused s t R.pwrPadrel false := by
  obtain ⟨z, hz⟩ : ∃ z, z = wr s R.pwrErr 0 := ⟨_, rfl⟩
  have status : ∀ i, flag z R.pwrDomstat i = flag s R.pwrDomstat i := fun i => hz ▸ flag_wr_ne (by decide)
  have breaks : ((asked v).any fun d => !domainOn z d || !flag z R.pwrDomstat (8 + d)) = true := by
    refine List.any_eq_true.2 ⟨d, List.mem_filter.2 ⟨known, asks⟩, ?_⟩
    rw [domainOn, status, status, ← domainOn]
    rcases h with h | h <;> simp [h]
  have writes : writePadrel z v = refuse z R.pwrPadrel false := by
    unfold writePadrel
    exact if_pos breaks
  exact ⟨_, rfl, operation_refused rfl may writable_pwrPadrel (congrArg some (hz ▸ writes))⟩

end Commands

/-- Settles O48: the warning and its end, the mute, the hold capacitor, and three operations of the PWR page. -/
theorem supplyMonitored : Obligations.SupplyMonitored := by
  unfold Obligations.SupplyMonitored
  exact ⟨fun _ _ => brownoutWarning_warns, fun _ _ => brownoutWarning_asleep, fun _ _ => brownoutWarning_shows,
    fun _ _ => warningRecovery_recovers, fun _ _ => warningRecovery_shows, fun _ _ => warningRecovery_asleep,
    fun _ _ => brownoutMute_mutes, fun _ => brownoutMute_idle, fun _ _ => vholdShort_good, fun _ _ => vholdShort_idle,
    fun _ _ => vholdShort_shorted, fun _ => vinminClear_clears, fun _ _ => domainEnable_taken, fun _ _ => domainEnable_refused,
    fun _ _ => padRelease_released, fun _ _ _ => padRelease_refused⟩

end Sys2Proof.Supply

/-! PROOFS. The scrub write-back and the background row test (R396, R406 to R409). -/

namespace Sys2Proof.Upkeep
open Sys2Proof.Machine Sys2Proof.Laws Sys2Proof.Architecture Sys2Proof.SerialPorts Sys2Proof.Answers

/-! ### Scrub (R396) -/

section Scrub
variable {s t : State} {a : Nat} {d : DWord}

theorem readWord_congr {b : Nat} (mem : t.mem = s.mem) (ecc : mapGet t.ecc b = mapGet s.ecc b) : readWord t b = readWord s b := by
  rw [readWord, ecc, memWord_of_mem mem, readWord]

theorem putWord_ecc : (putWord s a d).ecc = mapErase s.ecc a := by
  have kept : Touches [.mem] [] { s with ecc := mapErase s.ecc a } (putWord s a d) := touches_putBytes touches_rfl _ _ (by decide)
  rw [kept.parts.ecc (by decide)]

/-- A word written has its check bits. -/
theorem readWord_putWord : readWord (putWord s a d) a = .good d := by
  rw [readWord, putWord_ecc, mapGet_mapErase_self]
  simp only [memWord_putWord]

theorem readWord_putWord_apart {b : Nat} (h : b + 8 ≤ a ∨ a + 8 ≤ b) : readWord (putWord s a d) b = readWord s b := by
  rw [readWord, putWord_ecc, mapGet_mapErase_ne _ _ _ (by omega), memWord_putWord_apart h, readWord]

/-- The state once the oldest word that waits has been taken. -/
def taken (s : State) (rest : List Nat) : State := { s with memint := { s.memint with scrub := rest } }

theorem exec_scrubWriteback {rest : List Nat} (cleared : s.boot.cleared = true) (waits : s.memint.scrub = a :: rest) :
    exec .scrubWriteback s = (match readWord (taken s rest) a with
      | .corrected d _ => .next (putWord (taken s rest) a d)
      | _ => .next (taken s rest)) := by
  show execScrubWriteback s = _
  unfold execScrubWriteback
  simp only [waits, cleared]
  rfl

theorem readWord_taken {rest : List Nat} {b : Nat} : readWord (taken s rest) b = readWord s b := readWord_congr rfl rfl

theorem scrubWriteback_corrects {k : Nat} {rest : List Nat} (cleared : s.boot.cleared = true) (waits : s.memint.scrub = a :: rest)
    (aligned : a % 8 = 0) (read : readWord s a = .corrected d k) :
    ∃ t, exec .scrubWriteback s = .next t ∧ readWord t a = .good d ∧ (∀ b, b % 8 = 0 → b ≠ a → readWord t b = readWord s b) ∧
      t.memint = { s.memint with scrub := rest } ∧ Touches [.memint, .mem, .ecc] [] s t := by
  have gone : Touches [.memint, .mem, .ecc] [] s (taken s rest) := touches_memint touches_rfl _ (by decide)
  refine ⟨putWord (taken s rest) a d, ?_, readWord_putWord, fun b hb apart => ?_, ?_, touches_putWordAt gone _ _ (by decide) (by decide)⟩
  · rw [exec_scrubWriteback cleared waits, readWord_taken, read]
  · rw [readWord_putWord_apart (by omega), readWord_taken]
  · have kept : Touches [.mem, .ecc] [] (taken s rest) (putWord (taken s rest) a d) := touches_putWordAt touches_rfl _ _ (by decide) (by decide)
    rw [kept.parts.memint (by decide), taken]

theorem scrubWriteback_written {rest : List Nat} (cleared : s.boot.cleared = true) (waits : s.memint.scrub = a :: rest)
    (read : readWord s a = .good d) : exec .scrubWriteback s = .next { s with memint := { s.memint with scrub := rest } } := by
  rw [exec_scrubWriteback cleared waits, readWord_taken, read, taken]

theorem scrubWriteback_idle (h : s.memint.scrub = [] ∨ s.boot.cleared = false) : exec .scrubWriteback s = .next s := by
  show execScrubWriteback s = _
  unfold execScrubWriteback
  cases waits : s.memint.scrub with
  | nil => rfl
  | cons a rest =>
    have early : s.boot.cleared = false := h.resolve_left (by simp [waits])
    simp [early]

end Scrub

/-! ### The row test (R406, R407) -/

section Rows
variable {s : State} {b r : Nat} {fails : Bool} {sf : List Bool}

/-- The state once a row has been tested. -/
def tested (s : State) (b r : Nat) : State :=
  { wr s R.memBtpos (w32 (b * 2 ^ 24 + r)) with
    memint := { (wr s R.memBtpos (w32 (b * 2 ^ 24 + r))).memint with
      nextBank := b, nextRow := r + 1, begun := (wr s R.memBtpos (w32 (b * 2 ^ 24 + r))).memint.begun + 1, held := [] } }

theorem tested_memint : (tested s b r).memint =
    { s.memint with nextBank := b, nextRow := r + 1, begun := s.memint.begun + 1, held := [] } := by rw [tested, wr_memint]

theorem testWord_clean {i : Nat} (clean : s.ecc = []) : testWord b r s i = s := by
  have none : mapGet s.ecc (rowWord b r i) = none := by rw [clean, mapGet]
  simp only [testWord, fetchWord_clean _ _ _ none]

theorem testWords_clean (clean : s.ecc = []) (is : List Nat) : is.foldl (testWord b r) s = s := by
  induction is with
  | nil => rfl
  | cons i is ih => rw [List.foldl_cons, testWord_clean clean, ih]

/-- A row whose words have no error is tested, and repaired where it failed. -/
theorem testRow_clean (clean : s.ecc = []) :
    testRow s b r fails sf = if fails && flag s R.pwrDomen (bankDomain b) then repairRow (tested s b r) b r sf else tested s b r := by
  have wanted : rowAbandoned (tested s b r) b = !flag s R.pwrDomen (bankDomain b) := by
    rw [rowAbandoned, tested, flag_lit, flag_wr_ne (by decide)]
  have held : testRow s b r fails sf =
      if fails && !rowAbandoned (tested s b r) b then repairRow (tested s b r) b r sf else tested s b r := by
    unfold testRow
    simp only [testWords_clean clean]
    rfl
  rw [held, wanted, Bool.not_not]

theorem exec_rowTest (room : s.memint.begun < fld s R.memBtctl 15 8) (due : dueRow s = some (b, r)) :
    exec (.backgroundRowTest fails sf) s = .next (if rowHoldable s b then testRow s b r fails sf else
      { wr s R.memBtpos (w32 (b * 2 ^ 24 + r)) with
        memint := { s.memint with nextBank := b, nextRow := r, held := [((bankVerb b).getD 0, rowWord b r 0)] } }) := by
  show execBackgroundRowTest fails sf s = _
  unfold execBackgroundRowTest
  rw [if_neg (Nat.not_le.2 room)]
  simp only [due]
  by_cases held : rowHoldable s b = true
  · rw [if_pos held, if_pos held]
  · rw [if_neg held, if_neg held]

theorem rowTest_idle (h : fld s R.memBtctl 15 8 ≤ s.memint.begun ∨ dueRow s = none) : exec (.backgroundRowTest fails sf) s = .next s := by
  show execBackgroundRowTest fails sf s = _
  unfold execBackgroundRowTest
  by_cases full : fld s R.memBtctl 15 8 ≤ s.memint.begun
  · rw [if_pos full]
  · rw [if_neg full, h.resolve_left full]

theorem rowTest_passes (room : s.memint.begun < fld s R.memBtctl 15 8) (clean : s.ecc = []) (due : dueRow s = some (b, r))
    (holdable : rowHoldable s b = true) (passes : fails = false ∨ flag s R.pwrDomen (bankDomain b) = false) :
    exec (.backgroundRowTest fails sf) s = .next { wr s R.memBtpos (w32 (b * 2 ^ 24 + r)) with
      memint := { s.memint with nextBank := b, nextRow := r + 1, begun := s.memint.begun + 1, held := [] } } := by
  have kept : (fails && flag s R.pwrDomen (bankDomain b)) = false := by rcases passes with h | h <;> simp [h]
  rw [exec_rowTest room due, if_pos holdable, testRow_clean clean, kept, if_neg Bool.false_ne_true, tested, wr_memint]

theorem rowTest_asks {v : Nat} (room : s.memint.begun < fld s R.memBtctl 15 8) (due : dueRow s = some (b, r)) (verb : bankVerb b = some v)
    (busy : flag s R.parserVstat (16 + v) = false) :
    exec (.backgroundRowTest fails sf) s = .next { wr s R.memBtpos (w32 (b * 2 ^ 24 + r)) with
      memint := { s.memint with nextBank := b, nextRow := r, held := [(v, rowWord b r 0)] } } := by
  have unheld : rowHoldable s b = false := by
    rw [rowHoldable, verb]
    exact busy
  rw [exec_rowTest room due, unheld, if_neg Bool.false_ne_true, verb]
  rfl

end Rows

/-! ### The repair (R408, R409) -/

section Repair
variable {s : State} {b r k j : Nat}

/-- The registers of the repair map lie apart from every other. -/
theorem mapReg_ne {c : Nat} (h : c < 0x400E1000 ∨ 0x400E1480 ≤ c ∧ b < 72 ∧ k < 8) : c ≠ R.memRmap + 16 * b + 4 * (k / 2) := by
  have base : R.memRmap = 0x400E1000 := rfl
  omega

theorem spareHalf_of_rd {t : State} (same : rd t (R.memRmap + 16 * b + 4 * (k / 2)) = rd s (R.memRmap + 16 * b + 4 * (k / 2))) :
    spareHalf t b k = spareHalf s b k := fld_congr same

theorem spareHalf_setSpare {v : Nat} (fits : v < 2 ^ 16) : spareHalf (setSpare s b k v) b k = v := by
  rw [spareHalf, setSpare]
  rcases Nat.mod_two_eq_zero_or_one k with h | h <;> rw [h] <;> exact fld_wrFld_fits (by decide) (by decide) fits

theorem spareHalf_setSpare_ne {v : Nat} (other : j ≠ k) : spareHalf (setSpare s b k v) b j = spareHalf s b j := by
  unfold spareHalf setSpare
  by_cases same : j / 2 = k / 2
  · rw [same]
    exact fld_wrFld_apart (by omega) (by omega) (by omega) (by omega)
  · exact fld_wrFld_ne (by omega)

theorem spareHalf_tested : spareHalf (tested s b r) b j = spareHalf s b j :=
  spareHalf_of_rd (by rw [tested, rd_lit, rd_wr_ne _ _ _ _ (Ne.symm (mapReg_ne (.inl (by decide))))])

theorem freeSpares_tested : freeSpares (tested s b r) b = freeSpares s b := by
  simp only [freeSpares, spareHalf_tested]

theorem touches_tested {ps : List Part} {rs : List Nat} (memint : Part.memint ∈ Part.regs :: ps) (pos : R.memBtpos ∈ rs) :
    Touches ps rs s (tested s b r) := touches_memint (touches_wr touches_rfl _ pos) _ memint

/-! #### With a spare -/

/-- The state once the row has been mapped to a spare, before the code is written. -/
def mapped (s : State) (b r k : Nat) : State := countUp (setSpare (tested s b r) b k (0x8000 + r)) R.memRepairs

/-- The map that is stored takes the row. -/
def noted (s : State) (b r k : Nat) : State :=
  { s with memint := { s.memint with aoMap := s.memint.aoMap.filter (fun e => !(e.1 = b && e.2.1 = r)) ++ [(b, r, k)] } }

theorem noted_memint : (noted s b r k).memint =
    { s.memint with aoMap := s.memint.aoMap.filter (fun e => !(e.1 = b && e.2.1 = r)) ++ [(b, r, k)] } := rfl

theorem noted_gloss : (noted s b r k).gloss = s.gloss := rfl

theorem rd_noted {a : Nat} : rd (noted s b r k) a = rd s a := by rw [noted, rd_lit]

/-- The state once the code has been written too. -/
def recorded (s : State) (b r k : Nat) : State := noted (raiseGloss (mapped s b r k) 0x2120 (w32 b) (w32 r) (w32 k)) b r k

theorem touches_mapped :
    Touches [.memint, .gloss] (R.memBtpos :: (R.memRmap + 16 * b + 4 * (k / 2)) :: R.memRepairs :: glossRegs) s (mapped s b r k) :=
  touches_countUp (touches_wrFld (touches_tested (by decide) List.mem_cons_self) _ _ _ (List.mem_cons_of_mem _ List.mem_cons_self))
    (List.mem_cons_of_mem _ (List.mem_cons_of_mem _ List.mem_cons_self))

theorem touches_recorded :
    Touches [.memint, .gloss] (R.memBtpos :: (R.memRmap + 16 * b + 4 * (k / 2)) :: R.memRepairs :: glossRegs) s (recorded s b r k) :=
  touches_memint (touches_raiseGloss touches_mapped _ _ _ _ (by decide)
    fun _ h => List.mem_cons_of_mem _ (List.mem_cons_of_mem _ (List.mem_cons_of_mem _ h))) _ (by decide)

theorem rd_recorded {a : Nat} (h : a ∉ glossRegs) : rd (recorded s b r k) a = rd (mapped s b r k) a := by
  rw [recorded, rd_noted, rd_raiseGloss _ _ _ _ _ _ h]

theorem mapped_memint : (mapped s b r k).memint = (tested s b r).memint := by rw [mapped, countUp_memint, setSpare, wrFld_memint]

theorem recorded_memint : (recorded s b r k).memint = { s.memint with
    nextBank := b, nextRow := r + 1, begun := s.memint.begun + 1, held := [],
    aoMap := s.memint.aoMap.filter (fun e => !(e.1 = b && e.2.1 = r)) ++ [(b, r, k)] } := by
  rw [recorded, noted_memint, raiseGloss_memint, mapped_memint, tested_memint]

theorem mapped_gloss : (mapped s b r k).gloss = s.gloss := by
  rw [mapped, countUp_gloss, setSpare, wrFld_gloss, tested, wr_gloss]

theorem mapped_time : (mapped s b r k).time = s.time := touches_mapped.parts.time (by decide)

theorem logged_recorded : Logged 0x2120 (w32 b) (w32 r) (w32 k) s (recorded s b r k) :=
  ⟨mapped s b r k, mapped_gloss, .inl ⟨by rw [mapped_time], by rw [mapped_time], by rw [mapped_time], by rw [mapped_time]⟩,
    fun _ ha => .inr (rd_recorded (recorderInputs_uncounted _ ha)).symm, by rw [recorded, noted_gloss]⟩

/-- A row with a tested spare is mapped to it. -/
theorem repairRow_spare {t : State} {sf : List Bool} (found : trySpares b (freeSpares s b) sf s = (t, some k))
    (unmapped : ((List.range 8).filter fun j => spareHalf t b j = 0x8000 + r) = []) :
    repairRow s b r sf =
      storeRepairs (noted (raiseGloss (countUp (setSpare t b k (0x8000 + r)) R.memRepairs) 0x2120 (w32 b) (w32 r) (w32 k)) b r k) := by
  unfold repairRow
  simp only [found, unmapped, List.foldl_nil]
  rfl

/-- The row is mapped to the lowest free spare. -/
theorem repairRow_maps {spares : List Nat} (free : freeSpares s b = k :: spares) (first : ∀ j, j < 8 → spareHalf s b j ≠ 0x8000 + r) :
    repairRow (tested s b r) b r [] = storeRepairs (recorded s b r k) := by
  have tries : trySpares b (freeSpares (tested s b r) b) [] (tested s b r) = (tested s b r, some k) := by
    rw [freeSpares_tested, free, trySpares, List.headD_nil, if_neg Bool.false_ne_true]
  have unmapped : ((List.range 8).filter fun j => spareHalf (tested s b r) b j = 0x8000 + r) = [] := by
    rw [List.filter_eq_nil_iff]
    intro j hj
    rw [spareHalf_tested, decide_eq_true_eq]
    exact first j (List.mem_range.1 hj)
  rw [repairRow_spare tries unmapped, recorded, mapped]

/-- Without a STORE descriptor the repair record is refused, and stays pending. -/
theorem storeRepairs_pends (absent : s.nvm.desc = none) (idle : s.nvm.op = none) (supplied : flag s R.pwrStat 5 = false) :
    storeRepairs s = { raiseGloss s 0x1310 0x10 3 0 with memint := { s.memint with unstored := true } } := by
  have refuses : startStore s 0x10 (repairPayload s) false = raiseGloss s 0x1310 0x10 3 0 := by
    unfold startStore
    rw [supplied, idle, absent]
    show refuseStore s 0x10 3 false = _
    rw [refuseStore, if_neg Bool.false_ne_true, absent]
    rfl
  have still : (raiseGloss s 0x1310 0x10 3 0).nvm.op.isSome = false := by rw [raiseGloss_nvm, idle]; rfl
  unfold storeRepairs
  simp only [refuses, still, raiseGloss_memint]
  rfl

theorem rowTest_repairs {spares : List Nat} (room : s.memint.begun < fld s R.memBtctl 15 8) (clean : s.ecc = []) (bank : b < 72) (row : r < 4096)
    (due : dueRow s = some (b, r)) (holdable : rowHoldable s b = true) (on : flag s R.pwrDomen (bankDomain b) = true)
    (free : freeSpares s b = k :: spares) (first : ∀ j, j < 8 → spareHalf s b j ≠ 0x8000 + r)
    (absent : s.nvm.desc = none) (idle : s.nvm.op = none) (supplied : flag s R.pwrStat 5 = false) :
    ∃ t u, exec (.backgroundRowTest true []) s = .next t ∧ rd t R.memBtpos = w32 (b * 2 ^ 24 + r) ∧ spareHalf t b k = 0x8000 + r ∧
      (∀ j, j < 8 → j ≠ k → spareHalf t b j = spareHalf s b j) ∧ rd t R.memRepairs = rd (countUp s R.memRepairs) R.memRepairs ∧
      (∃ w, liveReg t R.memStat = some w ∧ bitOf w 2 = true) ∧
      t.memint = { s.memint with
        nextBank := b, nextRow := r + 1, begun := s.memint.begun + 1, held := [], unstored := true,
        aoMap := s.memint.aoMap.filter (fun e => !(e.1 = b && e.2.1 = r)) ++ [(b, r, k)] } ∧
      Logged 0x2120 (w32 b) (w32 r) (w32 k) s u ∧ Logged 0x1310 0x10 3 0 u t ∧
      Touches [.memint, .gloss]
        (R.memBtpos :: (R.memRmap + 16 * b + 4 * (k / 2)) :: R.memRepairs :: glossRegs) s t := by
  have spare : k < 8 := List.mem_range.1 (List.mem_of_mem_filter (free ▸ List.mem_cons_self))
  obtain ⟨u, hu⟩ : ∃ u, u = recorded s b r k := ⟨_, rfl⟩
  have touched : Touches [.memint, .gloss] (R.memBtpos :: (R.memRmap + 16 * b + 4 * (k / 2)) :: R.memRepairs :: glossRegs) s u :=
    hu ▸ touches_recorded
  obtain ⟨t, ht⟩ : ∃ t : State, t = { raiseGloss u 0x1310 0x10 3 0 with memint := { u.memint with unstored := true } } := ⟨_, rfl⟩
  have warn : flag u R.pwrStat 5 = false := by
    have apart : R.pwrStat ∉ (R.memBtpos :: (R.memRmap + 16 * b + 4 * (k / 2)) :: R.memRepairs :: glossRegs) := by
      rw [List.mem_cons, List.mem_cons, not_or, not_or]
      exact ⟨by decide, mapReg_ne (.inl (by decide)), by decide⟩
    rw [flag_congr (touched.regs _ apart), supplied]
  have nvm : u.nvm = s.nvm := touched.parts.nvm (by decide)
  have value : exec (.backgroundRowTest true []) s = .next t := by
    rw [exec_rowTest room due, if_pos holdable, testRow_clean clean, on, Bool.true_and, if_pos rfl, repairRow_maps free first, ← hu,
      storeRepairs_pends (by rw [nvm, absent]) (by rw [nvm, idle]) warn, ht]
  have reads : ∀ a, a ∉ glossRegs → rd t a = rd (mapped s b r k) a := by
    intro a ha
    rw [ht, rd_lit, rd_raiseGloss _ _ _ _ _ _ ha, hu, rd_recorded ha]
  have half : ∀ j, j < 8 → spareHalf t b j = spareHalf (setSpare (tested s b r) b k (0x8000 + r)) b j := by
    intro j hj
    have ours : R.memRmap + 16 * b + 4 * (j / 2) ∉ glossRegs := by
      intro member
      have above : ∀ a ∈ glossRegs, 0x400E1480 ≤ a := by decide
      exact mapReg_ne (.inr ⟨above _ member, bank, hj⟩) rfl
    refine spareHalf_of_rd ?_
    rw [reads _ ours, mapped, rd_countUp_ne _ _ _ (Ne.symm (mapReg_ne (.inl (by decide))))]
  have memint : t.memint = { u.memint with unstored := true } := by rw [ht]
  refine ⟨t, u, value, ?_, ?_, fun j hj other => ?_, ?_, ?_, ?_, hu ▸ logged_recorded, ?_, ?_⟩
  · rw [reads _ (by decide), mapped, rd_countUp_ne _ _ _ (by decide), setSpare, wrFld, rd_wr_ne _ _ _ _ (mapReg_ne (.inl (by decide))), tested,
      rd_lit, rd_wr]
  · rw [half k spare, spareHalf_setSpare (by omega)]
  · rw [half j hj, spareHalf_setSpare_ne other, spareHalf_tested]
  · rw [reads _ (by decide), mapped, Concord.rd_countUp, Concord.rd_countUp, setSpare, wrFld, rd_wr_ne _ _ _ _ (mapReg_ne (.inl (by decide))), tested, rd_lit,
      rd_wr_ne _ _ _ _ (by decide)]
  · have shown : ∀ x : State, liveReg x R.memStat = some (setBits (rd x R.memStat) 2 2 (b2n x.memint.unstored)) := fun _ => rfl
    refine ⟨_, shown _, ?_⟩
    rw [bitOf_setBits _ _ _ (by decide), memint]
    rfl
  · rw [memint, hu, recorded_memint]
  · exact ⟨u, rfl, .inl ⟨rfl, rfl, rfl, rfl⟩, fun _ _ => .inl rfl, by rw [ht]⟩
  · rw [ht]
    exact touches_memint (touches_raiseGloss touched _ _ _ _ (by decide)
      fun _ h => List.mem_cons_of_mem _ (List.mem_cons_of_mem _ (List.mem_cons_of_mem _ h))) _ (by decide)

/-! #### Without one -/

/-- The row is left out of the test. -/
def leftOut (s : State) (b r : Nat) : State := setFlag { s with memint := { s.memint with skip := s.memint.skip ++ [(b, r)] } } R.memStat 3

theorem leftOut_memint : (leftOut s b r).memint = { s.memint with skip := s.memint.skip ++ [(b, r)] } := by rw [leftOut, setFlag_memint]

theorem repairRow_none {sf : List Bool} (none : freeSpares s b = []) :
    repairRow s b r sf = raiseGloss (leftOut s b r) 0x2121 (w32 b) (w32 r) 0 := by
  unfold repairRow
  rw [none, trySpares]
  rfl

/-- The state once the tested row has been left out. -/
def skipped (s : State) (b r : Nat) : State := leftOut (tested s b r) b r

theorem touches_skipped : Touches [.memint, .gloss] (R.memBtpos :: R.memStat :: glossRegs) s (skipped s b r) :=
  touches_setFlag (touches_memint (touches_tested (by decide) (by decide)) _ (by decide)) _ (by decide)

theorem rowTest_skips (room : s.memint.begun < fld s R.memBtctl 15 8) (clean : s.ecc = []) (due : dueRow s = some (b, r))
    (holdable : rowHoldable s b = true) (on : flag s R.pwrDomen (bankDomain b) = true) (none : freeSpares s b = []) :
    ∃ t, exec (.backgroundRowTest true []) s = .next t ∧ rd t R.memBtpos = w32 (b * 2 ^ 24 + r) ∧ flag t R.memStat 3 = true ∧
      t.memint = { s.memint with
        nextBank := b, nextRow := r + 1, begun := s.memint.begun + 1, held := [], skip := s.memint.skip ++ [(b, r)] } ∧
      Logged 0x2121 (w32 b) (w32 r) 0 s t ∧ Touches [.memint, .gloss] (R.memBtpos :: R.memStat :: glossRegs) s t := by
  have time : (skipped s b r).time = s.time := touches_skipped.parts.time (by decide)
  have gloss : (skipped s b r).gloss = s.gloss := by rw [skipped, leftOut, setFlag_gloss, tested, wr_gloss]
  refine ⟨raiseGloss (skipped s b r) 0x2121 (w32 b) (w32 r) 0, ?_, ?_, ?_, ?_,
    logged_raiseGloss gloss ⟨by rw [time], by rw [time], by rw [time], by rw [time]⟩,
    touches_raiseGloss touches_skipped _ _ _ _ (by decide) (by decide)⟩
  · rw [exec_rowTest room due, if_pos holdable, testRow_clean clean, on, Bool.true_and, if_pos rfl, repairRow_none (freeSpares_tested.trans none), skipped]
  · rw [rd_raiseGloss _ _ _ _ _ _ (by decide), skipped, leftOut, setFlag_eq, wrFld, rd_wr_ne _ _ _ _ (by decide), rd_lit, tested, rd_lit, rd_wr]
  · rw [flag_raiseGloss (by decide), skipped, leftOut, flag_setFlag _ _ _ (by decide)]
  · rw [raiseGloss_memint, skipped, leftOut_memint, tested_memint]

end Repair

/-- Settles O46: a clause each of the write-back, and of a row that passes, is asked for, is repaired, or finds no spare. -/
theorem memoryUpkeep : Obligations.MemoryUpkeep := by
  unfold Obligations.MemoryUpkeep
  exact ⟨fun _ _ _ _ _ => scrubWriteback_corrects, fun _ _ _ _ => scrubWriteback_written, fun _ => scrubWriteback_idle,
    fun _ _ _ => rowTest_idle, fun _ _ _ _ _ => rowTest_passes, fun _ _ _ _ _ _ => rowTest_asks,
    fun _ _ _ _ _ => rowTest_repairs, fun _ _ _ => rowTest_skips⟩

end Sys2Proof.Upkeep

/-! PROOFS. The flash's bytes after they are programmed and erased, and NVM.SBUF (R431 to R438). -/

namespace Sys2Proof.Flash
open Sys2Proof.Machine Sys2Proof.Laws Sys2Proof.Architecture Sys2Proof.SerialPorts Sys2Proof.Answers

/-! ### Bytes of the flash -/

section Bytes
variable {ps : List Part} {rs : List Nat} {s t : State} {a n x : Nat} {bs : List Byte}

theorem flashByte_congr (h : t.flash = s.flash) : flashByte t x = flashByte s x := by rw [flashByte, h, flashByte]

theorem flashBytes_congr (h : ∀ i, i < n → flashByte t (a + i) = flashByte s (a + i)) : flashBytes t a n = flashBytes s a n :=
  List.map_congr_left fun i hi => h i (List.mem_range.1 hi)

theorem length_flashBytes : (flashBytes s a n).length = n := by simp [flashBytes]

theorem getElem_flashBytes {i : Nat} (h : i < (flashBytes s a n).length) : (flashBytes s a n)[i] = flashByte s (a + i) := by
  simp [flashBytes]

theorem flashProg_cons {b : Byte} : flashProg s a (b :: bs) =
    flashProg { s with flash := { s.flash with bytes := mapSet s.flash.bytes 0xFF a (flashByte s a &&& b) } } (a + 1) bs := by
  conv => lhs; unfold flashProg

theorem touches_flashProg (h : Touches ps rs s t) (a : Nat) (bs : List Byte) (flash : Part.flash ∈ Part.regs :: ps) :
    Touches ps rs s (flashProg t a bs) := by
  induction bs generalizing t a with
  | nil => exact h
  | cons b bs ih =>
    rw [flashProg_cons]
    exact ih (touches_flash h _ flash) (a + 1)

/-- Programming clears the bits that the bytes have clear (log 18). -/
theorem flashByte_flashProg : flashByte (flashProg s a bs) x =
    if a ≤ x ∧ x < a + bs.length then flashByte s x &&& nth bs (x - a) 0 else flashByte s x := by
  induction bs generalizing s a with
  | nil =>
    rw [if_neg (by simp)]
    rfl
  | cons b bs ih =>
    rw [flashProg_cons, ih, List.length_cons]
    by_cases first : x = a
    · subst first
      rw [if_neg (by omega), if_pos (by omega), Nat.sub_self]
      exact mapGet_mapSet_self ..
    · have other : flashByte { s with flash := { s.flash with bytes := mapSet s.flash.bytes 0xFF a (flashByte s a &&& b) } } x = flashByte s x := by
        show (mapGet (mapSet s.flash.bytes 0xFF a (flashByte s a &&& b)) x).getD 0xFF = _
        rw [mapGet_mapSet_ne _ _ _ _ _ first, flashByte]
      rw [other]
      by_cases within : a ≤ x ∧ x < a + (bs.length + 1)
      · rw [if_pos (by omega), if_pos within]
        obtain ⟨k, rfl⟩ : ∃ k, x = a + (k + 1) := ⟨x - a - 1, by omega⟩
        simp [nth, show a + (k + 1) - (a + 1) = k by omega]
      · rw [if_neg (by omega), if_neg within]

theorem flashByte_flashProg_apart (h : x < a ∨ a + bs.length ≤ x) : flashByte (flashProg s a bs) x = flashByte s x := by
  rw [flashByte_flashProg, if_neg (by omega)]

theorem and_blank (b : Byte) : (0xFF : Byte) &&& b = b := by
  have ones : (0xFF : Byte) = BitVec.allOnes 8 := rfl
  rw [ones, BitVec.allOnes_and]

/-- Blank flash takes the bytes as they are. -/
theorem flashBytes_flashProg {k : Nat} (blank : ∀ i, i < bs.length → flashByte s (a + i) = 0xFF) (fits : k + n ≤ bs.length) :
    flashBytes (flashProg s a bs) (a + k) n = (bs.drop k).take n := by
  apply List.ext_getElem
  · rw [length_flashBytes, List.length_take, List.length_drop]
    omega
  · intro i hi _
    rw [length_flashBytes] at hi
    rw [getElem_flashBytes, flashByte_flashProg, if_pos (by omega), Nat.add_assoc, blank _ (by omega), Nat.add_sub_cancel_left, and_blank]
    simp [nth, show k + i < bs.length by omega]

theorem touches_flashEraseRange (h : Touches ps rs s t) (a n : Nat) (flash : Part.flash ∈ Part.regs :: ps) :
    Touches ps rs s (flashEraseRange t a n) := touches_flash h _ flash

theorem flashByte_erased : flashByte (flashEraseRange s a n) x = if a ≤ x ∧ x < a + n then 0xFF else flashByte s x := by
  have found := mapGet_filter s.flash.bytes (fun c => c < a || a + n ≤ c) x
  unfold flashByte flashEraseRange
  simp only [found, Bool.or_eq_true, decide_eq_true_eq]
  by_cases inside : a ≤ x ∧ x < a + n
  · rw [if_neg (by omega), if_pos inside]
    rfl
  · rw [if_pos (by omega), if_neg inside]

end Bytes

/-! ### NVM.SBUF (R435) -/

section Buffer
variable {s t : State} {n m i j : Nat} {bs : List Byte}

theorem sbufBytes_congr (h : ∀ i, i < (n + 3) / 4 → rd t (R.nvmSbuf + 4 * i) = rd s (R.nvmSbuf + 4 * i)) : sbufBytes t n = sbufBytes s n := by
  have words : (List.range ((n + 3) / 4)).map (fun i => leBytes 4 (rd t (R.nvmSbuf + 4 * i)).toNat) =
      (List.range ((n + 3) / 4)).map (fun i => leBytes 4 (rd s (R.nvmSbuf + 4 * i)).toNat) :=
    List.map_congr_left fun i hi => by rw [h i (List.mem_range.1 hi)]
  rw [sbufBytes, words, sbufBytes]

/-- Pieces of four bytes, one after the other. -/
theorem length_pieces {f : Nat → List Byte} (four : ∀ i, (f i).length = 4) (m : Nat) : (((List.range m).map f).flatten).length = 4 * m := by
  induction m with
  | zero => rfl
  | succ m ih =>
    rw [List.range_succ, List.map_append, List.flatten_append, List.length_append, ih]
    simp [four]
    omega

theorem getElem_pieces {f : Nat → List Byte} (four : ∀ i, (f i).length = 4) (m : Nat) (h : j < 4 * m) :
    (((List.range m).map f).flatten)[j]? = (f (j / 4))[j % 4]? := by
  induction m with
  | zero => omega
  | succ m ih =>
    rw [List.range_succ, List.map_append, List.flatten_append]
    by_cases before : j < 4 * m
    · rw [List.getElem?_append_left (by rw [length_pieces four]; exact before), ih before]
    · rw [List.getElem?_append_right (by rw [length_pieces four]; omega), length_pieces four, show j - 4 * m = j % 4 by omega,
        show j / 4 = m by omega]
      simp

theorem length_sbufBytes : (sbufBytes s n).length = n := by
  rw [sbufBytes, List.length_take, length_pieces fun _ => length_leBytes ..]
  omega

theorem getElem_sbufBytes (h : j < n) : (sbufBytes s n)[j]? = (leBytes 4 (rd s (R.nvmSbuf + 4 * (j / 4))).toNat)[j % 4]? := by
  rw [sbufBytes, List.getElem?_take_of_lt h, getElem_pieces (fun _ => length_leBytes ..) _ (by omega)]

/-- The bytes of word i of SBUF once these bytes have been put into it. -/
def filledWord (s : State) (bs : List Byte) (i : Nat) : List Byte :=
  (bs.drop (4 * i)).take 4 ++ (leBytes 4 (rd s (R.nvmSbuf + 4 * i)).toNat).drop ((bs.drop (4 * i)).take 4).length

theorem length_filledWord : (filledWord s bs i).length = 4 := by
  rw [filledWord, List.length_append, List.length_drop, length_leBytes, List.length_take]
  omega

/-- The words filled one after the other. -/
def filling (s : State) (bs : List Byte) (m : Nat) : State :=
  (List.range m).foldl (fun t i => wr t (R.nvmSbuf + 4 * i) (w32 (leNat (filledWord t bs i)))) s

theorem fillSbuf_eq : fillSbuf s bs = filling s bs ((bs.length + 3) / 4) := rfl

theorem filling_succ : filling s bs (m + 1) = wr (filling s bs m) (R.nvmSbuf + 4 * m) (w32 (leNat (filledWord (filling s bs m) bs m))) := by
  rw [filling, List.range_succ, List.foldl_append, List.foldl_cons, List.foldl_nil, ← filling]

theorem rd_filling : rd (filling s bs m) (R.nvmSbuf + 4 * i) =
    if i < m then w32 (leNat (filledWord s bs i)) else rd s (R.nvmSbuf + 4 * i) := by
  induction m generalizing i with
  | zero => rw [if_neg (Nat.not_lt_zero i)]; rfl
  | succ m ih =>
    rw [filling_succ]
    by_cases here : i = m
    · subst here
      have old : filledWord (filling s bs i) bs i = filledWord s bs i := by
        rw [filledWord, ih, if_neg (Nat.lt_irrefl i), filledWord]
      rw [rd_wr, old, if_pos (Nat.lt_succ_self i)]
    · rw [rd_wr_ne _ _ _ _ (by omega), ih]
      by_cases before : i < m
      · rw [if_pos before, if_pos (by omega)]
      · rw [if_neg before, if_neg (by omega)]

theorem touches_filling (h : m ≤ n) : Touches [] ((List.range n).map (R.nvmSbuf + 4 * ·)) s (filling s bs m) := by
  induction m with
  | zero => exact touches_rfl
  | succ m ih =>
    rw [filling_succ]
    exact touches_wr (ih (by omega)) _ (List.mem_map_of_mem (List.mem_range.2 h))

theorem touches_fillSbuf (h : (bs.length + 3) / 4 ≤ n) : Touches [] ((List.range n).map (R.nvmSbuf + 4 * ·)) s (fillSbuf s bs) :=
  fillSbuf_eq ▸ touches_filling h

/-- Four bytes in a register read back. -/
theorem leBytes_word (l : List Byte) (four : l.length = 4) : leBytes 4 (w32 (leNat l)).toNat = l := by
  have small := leNat_lt l
  have kept : (w32 (leNat l)).toNat = leNat l := by
    rw [w32, BitVec.toNat_ofNat]
    rw [four] at small
    exact Nat.mod_eq_of_lt small
  have bytes := leBytes_leNat l
  rw [four] at bytes
  rw [kept, bytes]

/-- SBUF holds the bytes put into it. -/
theorem sbufBytes_fillSbuf : sbufBytes (fillSbuf s bs) bs.length = bs := by
  apply List.ext_getElem?
  intro j
  by_cases within : j < bs.length
  · have word : rd (fillSbuf s bs) (R.nvmSbuf + 4 * (j / 4)) = w32 (leNat (filledWord s bs (j / 4))) := by
      rw [fillSbuf_eq, rd_filling, if_pos (by omega)]
    rw [getElem_sbufBytes within, word, leBytes_word _ length_filledWord, filledWord,
      List.getElem?_append_left (by rw [List.length_take, List.length_drop]; omega), List.getElem?_take_of_lt (Nat.mod_lt _ (by decide)),
      List.getElem?_drop, Nat.div_add_mod]
  · rw [List.getElem?_eq_none (by rw [length_sbufBytes]; omega), List.getElem?_eq_none (by omega)]

end Buffer

end Sys2Proof.Flash

/-! PROOFS. Direct access to the flash, and streaming (R428, R437). -/

namespace Sys2Proof.Flash
open Sys2Proof.Machine Sys2Proof.Laws Sys2Proof.Architecture Sys2Proof.SerialPorts Sys2Proof.Answers

/-! ### An operation starts (R437) -/

section Start
variable {s t : State} {c : Instr} {op size : Nat} {v : Word}

theorem writable_nvmFcmd : Writable R.nvmFcmd ((regDesc R.nvmFcmd).get (by decide)) := by constructor <;> decide

theorem inStoreArea_congr {a n : Nat} (h : t.nvm = s.nvm) : inStoreArea t a n = inStoreArea s a n := by
  rw [inStoreArea, h, inStoreArea]

/-- What refuses an operation: SBUF is closed only where a store runs. -/
theorem flashRefused_iff (hs : size = if op = 3 then 4096 else 256) : flashRefused s op = true ↔
    (rd s R.nvmFaddr).toNat % size ≠ 0 ∨ inStoreArea s (rd s R.nvmFaddr).toNat size = true ∨ s.nvm.op.isSome = true ∨
      s.nvm.direct.isSome = true := by
  have closed : sbufClosed s = true → s.nvm.op.isSome = true := by
    unfold sbufClosed
    cases s.nvm.op with
    | none => exact fun h => absurd h Bool.false_ne_true
    | some o => exact fun _ => rfl
  unfold flashRefused
  rw [← hs]
  simp only [Bool.or_eq_true, decide_eq_true_eq]
  constructor
  · rintro ((((h | h) | h) | h) | h)
    · exact .inl h
    · exact .inr (.inl h)
    · exact .inr (.inr (.inl (closed h)))
    · exact .inr (.inr (.inl h))
    · exact .inr (.inr (.inr h))
  · rintro (h | h | h | h)
    · exact .inl (.inl (.inl (.inl h)))
    · exact .inl (.inl (.inl (.inr h)))
    · exact .inl (.inr h)
    · exact .inr h

/-- The three commands, with the operation and its size. -/
def Starts (c : Instr) (op size : Nat) : Prop :=
  (c = .flashRead ∧ op = 1 ∧ size = 256) ∨ (c = .flashProgram ∧ op = 2 ∧ size = 256) ∨ (c = .flashErase ∧ op = 3 ∧ size = 4096)

theorem Starts.size_eq (h : Starts c op size) : size = if op = 3 then 4096 else 256 := by
  rcases h with ⟨-, rfl, rfl⟩ | ⟨-, rfl, rfl⟩ | ⟨-, rfl, rfl⟩ <;> rfl

theorem Starts.exec_eq (h : Starts c op size) : exec c s = .next (regWrite s R.nvmFcmd (w32 op)) := by
  rcases h with ⟨rfl, rfl, -⟩ | ⟨rfl, rfl, -⟩ | ⟨rfl, rfl, -⟩ <;> rfl

theorem Starts.writes (h : Starts c op size) :
    writeFcmd s (w32 op) = if flashRefused s op then refuse s R.nvmFcmd false else startFlash s op := by
  have value : bits (w32 op) 1 0 = op ∧ bitOf (w32 op) 31 = false ∧ op ≠ 0 := by
    rcases h with ⟨-, rfl, -⟩ | ⟨-, rfl, -⟩ | ⟨-, rfl, -⟩ <;> decide
  obtain ⟨operation, keeps, real⟩ := value
  unfold writeFcmd
  rw [operation, keeps]
  simp only [ne_eq, real, not_false_eq_true, true_and, if_false, Bool.false_eq_true]

theorem flash_starts (h : Starts c op size) (may : HostMayWrite s R.nvmFcmd) (aligned : (rd s R.nvmFaddr).toNat % size = 0)
    (outside : inStoreArea s (rd s R.nvmFaddr).toNat size = false) (idle : s.nvm.op = none) (free : s.nvm.direct = none) :
    ∃ t, exec c s = .next t ∧ t.nvm = { s.nvm with direct := some (op, (rd s R.nvmFaddr).toNat) } ∧ Touches [.nvm] [] s t := by
  obtain ⟨z, hz⟩ : ∃ z, z = wr s R.nvmErr 0 := ⟨_, rfl⟩
  have nvm : z.nvm = s.nvm := by rw [hz, wr_nvm]
  have address : rd z R.nvmFaddr = rd s R.nvmFaddr := by rw [hz, rd_wr_ne _ _ _ _ (by decide)]
  have allowed : ¬ flashRefused z op = true := by
    rw [flashRefused_iff h.size_eq, address, inStoreArea_congr nvm, nvm]
    simp [aligned, outside, idle, free]
  have command : commandReg z false R.nvmFcmd (w32 op) = some (startFlash z op) :=
    congrArg some (h.writes.trans (if_neg allowed))
  have touched : Touches [.nvm] [] z (startFlash z op) := touches_nvm touches_rfl _ (by decide)
  rw [hz] at command touched
  obtain ⟨value, frame⟩ := operation_done (e := R.nvmErr) rfl may writable_nvmFcmd command touched (by decide)
    (by rw [asleep_touches touched (by decide), asleep_wr _ _ _ (by decide), may.awake])
  refine ⟨_, h.exec_eq, ?_, frame⟩
  rw [value, wr_nvm, startFlash, ← hz, nvm, address]

theorem flash_refused (h : Starts c op size) (may : HostMayWrite s R.nvmFcmd)
    (why : (rd s R.nvmFaddr).toNat % size ≠ 0 ∨ inStoreArea s (rd s R.nvmFaddr).toNat size = true ∨ s.nvm.op.isSome = true ∨
      s.nvm.direct.isSome = true) : ∃ t, exec c s = .next t ∧ Refused s t R.nvmFcmd false := by
  obtain ⟨z, hz⟩ : ∃ z, z = wr s R.nvmErr 0 := ⟨_, rfl⟩
  have nvm : z.nvm = s.nvm := by rw [hz, wr_nvm]
  have address : rd z R.nvmFaddr = rd s R.nvmFaddr := by rw [hz, rd_wr_ne _ _ _ _ (by decide)]
  have refuses : flashRefused z op = true := by
    rw [flashRefused_iff h.size_eq, address, inStoreArea_congr nvm, nvm]
    exact why
  have command : commandReg z false R.nvmFcmd (w32 op) = some (refuse z R.nvmFcmd false) :=
    congrArg some (h.writes.trans (if_pos refuses))
  exact ⟨_, h.exec_eq, operation_refused rfl may writable_nvmFcmd (hz ▸ command)⟩

end Start

/-! ### It completes (R437) -/

section Complete
variable {s u : State} {a op : Nat}

/-- No operation is under way. -/
def undirected (s : State) : State := { s with nvm := { s.nvm with direct := none } }

/-- DONE is set, with the interrupt. -/
def signalled (s : State) : State := if flag s R.nvmFcmd 31 then s else raiseIrq (setFlag s R.nvmFcmd 31) 10

theorem exec_operationDone (idle : s.nvm.op = none) (way : s.nvm.direct = some (op, a)) (alone : streamDue s = false) :
    exec .flashOperationDone s = .next (finishFlash s op a) := by
  show execFlashOperationDone s = _
  unfold execFlashOperationDone
  simp only [idle, way, alone]
  rfl

theorem finish_reads : finishFlash s 1 a = signalled (fillSbuf (undirected s) (flashBytes (undirected s) a 256)) := rfl

theorem finish_programs (within : a < flashSize s) : finishFlash s 2 a = signalled (flashProg (undirected s) a (sbufBytes (undirected s) 256)) :=
  congrArg signalled (if_pos within)

theorem finish_erases : finishFlash s 3 a = signalled (flashEraseRange (undirected s) a 4096) := rfl

theorem signalled_eq (clear : flag s R.nvmFcmd 31 = false) : signalled s = raiseIrq (setFlag s R.nvmFcmd 31) 10 := by
  rw [signalled, clear, if_neg Bool.false_ne_true]

theorem touches_done {ps : List Part} {rs : List Nat} (h : Touches ps rs s u) (fcmd : R.nvmFcmd ∈ rs) (irq : R.sysIrqstat ∈ rs) :
    Touches ps rs s (signalled u) := touches_ite h (touches_raiseIrq (touches_setFlag h _ fcmd) _ irq)

/-- Where DONE was clear, it and the interrupt are set, and nothing else happens. -/
theorem done_facts (clear : flag s R.nvmFcmd 31 = false) : flag (signalled s) R.nvmFcmd 31 = true ∧ flag (signalled s) R.sysIrqstat 10 = true ∧
    (signalled s).nvm = s.nvm ∧ (signalled s).flash = s.flash := by
  rw [signalled_eq clear]
  refine ⟨?_, ?_, ?_, ?_⟩
  · rw [raiseIrq_eq, flag_wrFld_ne (by decide), flag_setFlag _ _ _ (by decide)]
  · rw [raiseIrq, flag_setFlag _ _ _ (by decide)]
  · rw [raiseIrq_nvm, setFlag_nvm]
  · rw [raiseIrq_flash, setFlag_flash]

theorem rd_done {b : Nat} (h : b ≠ R.nvmFcmd ∧ b ≠ R.sysIrqstat) : rd (signalled s) b = rd s b :=
  (touches_done (ps := []) (rs := [R.nvmFcmd, R.sysIrqstat]) touches_rfl (by decide) (by decide)).regs b (by simp [h.1, h.2])

theorem sbuf_apart (i : Nat) : R.nvmSbuf + 4 * i ≠ R.nvmFcmd ∧ R.nvmSbuf + 4 * i ≠ R.sysIrqstat := by
  have base : R.nvmSbuf = 0x40111000 := rfl
  have done : R.nvmFcmd = 0x40110024 := rfl
  have irq : R.sysIrqstat < 0x40110000 := by decide
  omega

theorem undirected_flash : flashBytes (undirected s) a op = flashBytes s a op := flashBytes_congr fun _ _ => rfl

theorem operationDone_reads (idle : s.nvm.op = none) (way : s.nvm.direct = some (1, a)) (alone : streamDue s = false)
    (clear : flag s R.nvmFcmd 31 = false) :
    ∃ t, exec .flashOperationDone s = .next t ∧ sbufBytes t 256 = flashBytes s a 256 ∧ t.nvm = { s.nvm with direct := none } ∧
      flag t R.nvmFcmd 31 = true ∧ flag t R.sysIrqstat 10 = true ∧
      Touches [.nvm] (R.nvmFcmd :: R.sysIrqstat :: (List.range 64).map (R.nvmSbuf + 4 * ·)) s t := by
  obtain ⟨u, hu⟩ : ∃ u, u = fillSbuf (undirected s) (flashBytes s a 256) := ⟨_, rfl⟩
  have filled : Touches [] ((List.range 64).map (R.nvmSbuf + 4 * ·)) (undirected s) u :=
    hu ▸ touches_fillSbuf (by rw [length_flashBytes])
  have apart : R.nvmFcmd ∉ (List.range 64).map (R.nvmSbuf + 4 * ·) := by
    intro member
    obtain ⟨i, -, same⟩ := List.mem_map.1 member
    exact (sbuf_apart i).1 same
  have still : flag u R.nvmFcmd 31 = false := (flag_congr (filled.regs _ apart)).trans clear
  have round := sbufBytes_fillSbuf (s := undirected s) (bs := flashBytes s a 256)
  rw [length_flashBytes, ← hu] at round
  obtain ⟨done, irq, nvm, -⟩ := done_facts still
  refine ⟨signalled u, ?_, ?_, ?_, done, irq, touches_done ?_ (by simp) (by simp)⟩
  · rw [exec_operationDone idle way alone, finish_reads, undirected_flash, hu]
  · rw [sbufBytes_congr fun i _ => rd_done (sbuf_apart i), round]
  · rw [nvm, filled.parts.nvm (by decide), undirected]
  · have first : Touches [.nvm] (R.nvmFcmd :: R.sysIrqstat :: (List.range 64).map (R.nvmSbuf + 4 * ·)) s (undirected s) :=
      touches_nvm touches_rfl _ (by decide)
    exact touches_trans first (touches_mono filled (List.nil_subset _) fun _ h => List.mem_cons_of_mem _ (List.mem_cons_of_mem _ h))

/-- What an operation that changes the flash alone leaves. -/
theorem operationDone_changes (idle : s.nvm.op = none) (way : s.nvm.direct = some (op, a)) (alone : streamDue s = false)
    (clear : flag s R.nvmFcmd 31 = false) (value : finishFlash s op a = signalled u) (touched : Touches [.flash] [] (undirected s) u) :
    exec .flashOperationDone s = .next (signalled u) ∧ (∀ x, flashByte (signalled u) x = flashByte u x) ∧
      (signalled u).nvm = { s.nvm with direct := none } ∧ flag (signalled u) R.nvmFcmd 31 = true ∧ flag (signalled u) R.sysIrqstat 10 = true ∧
      Touches [.nvm, .flash] [R.nvmFcmd, R.sysIrqstat] s (signalled u) := by
  have still : flag u R.nvmFcmd 31 = false := (flag_congr (touched.regs _ (by decide))).trans clear
  obtain ⟨done, irq, nvm, flash⟩ := done_facts still
  have first : Touches [.nvm, .flash] [R.nvmFcmd, R.sysIrqstat] s (undirected s) := touches_nvm touches_rfl _ (by decide)
  refine ⟨by rw [exec_operationDone idle way alone, value], fun x => flashByte_congr flash, ?_, done, irq,
    touches_done (touches_trans first (touches_mono touched (by decide) (List.nil_subset _))) (by decide) (by decide)⟩
  rw [nvm, touched.parts.nvm (by decide), undirected]

theorem operationDone_programs (idle : s.nvm.op = none) (way : s.nvm.direct = some (2, a)) (alone : streamDue s = false)
    (within : a < flashSize s) (clear : flag s R.nvmFcmd 31 = false) :
    ∃ t, exec .flashOperationDone s = .next t ∧
      (∀ i, i < 256 → flashByte t (a + i) = flashByte s (a + i) &&& nth (sbufBytes s 256) i 0) ∧
      (∀ x, x < a ∨ a + 256 ≤ x → flashByte t x = flashByte s x) ∧ t.nvm = { s.nvm with direct := none } ∧
      flag t R.nvmFcmd 31 = true ∧ flag t R.sysIrqstat 10 = true ∧ Touches [.nvm, .flash] [R.nvmFcmd, R.sysIrqstat] s t := by
  have same : sbufBytes (undirected s) 256 = sbufBytes s 256 := sbufBytes_congr fun _ _ => rfl
  have kept : ∀ x, flashByte (undirected s) x = flashByte s x := fun _ => rfl
  obtain ⟨value, bytes, rest⟩ := operationDone_changes idle way alone clear (finish_programs within)
    (touches_flashProg touches_rfl a _ (by decide))
  refine ⟨_, value, fun i hi => ?_, fun x hx => ?_, rest⟩
  · rw [bytes, flashByte_flashProg, if_pos (by rw [length_sbufBytes]; omega), kept, same, Nat.add_sub_cancel_left]
  · rw [bytes, flashByte_flashProg_apart (by rw [length_sbufBytes]; exact hx), kept]

theorem operationDone_erases (idle : s.nvm.op = none) (way : s.nvm.direct = some (3, a)) (alone : streamDue s = false)
    (clear : flag s R.nvmFcmd 31 = false) :
    ∃ t, exec .flashOperationDone s = .next t ∧ (∀ i, i < 4096 → flashByte t (a + i) = 0xFF) ∧
      (∀ x, x < a ∨ a + 4096 ≤ x → flashByte t x = flashByte s x) ∧ t.nvm = { s.nvm with direct := none } ∧
      flag t R.nvmFcmd 31 = true ∧ flag t R.sysIrqstat 10 = true ∧ Touches [.nvm, .flash] [R.nvmFcmd, R.sysIrqstat] s t := by
  obtain ⟨value, bytes, rest⟩ := operationDone_changes idle way alone clear finish_erases
    (touches_flashEraseRange touches_rfl a 4096 (by decide))
  refine ⟨_, value, fun i hi => ?_, fun x hx => ?_, rest⟩
  · rw [bytes, flashByte_erased, if_pos (by omega)]
  · rw [bytes, flashByte_erased, if_neg (by omega)]
    rfl

theorem operationDone_idle (h : s.nvm.op.isSome = true ∨ s.nvm.direct = none ∨ streamDue s = true) : exec .flashOperationDone s = .next s := by
  show execFlashOperationDone s = _
  unfold execFlashOperationDone
  split
  · rename_i idle way
    have due : streamDue s = true := by simpa [idle, way] using h
    rw [if_pos due]
  · rfl

end Complete

/-! ### Streaming (R428) -/

section Stream
variable {s u : State} {i : Nat} {x : Wave}

theorem leastBy_mem {α : Type} {key : α → Nat} {l : List α} {e : α} (h : leastBy key l = some e) : e ∈ l := by
  induction l with
  | nil => simp [leastBy] at h
  | cons y ys ih =>
    rw [leastBy] at h
    split at h
    · rw [Option.some.inj h]
      exact List.mem_cons_self
    · rename_i z found
      split at h
      · rw [Option.some.inj h]
        exact List.mem_cons_self
      · exact List.mem_cons_of_mem _ (ih (found.trans h))

theorem streamFetch_idle (none : streamDue s = false) : exec .streamFetch s = .next s := by
  have empty : streamsWanting s = [] := by simpa [streamDue] using none
  show execStreamFetch s = _
  rw [execStreamFetch, nextStream, empty, leastBy]

/-- A stream lacks a block only where there is a pool. -/
theorem places_pos {e : Nat × Nat × List Nat} (next : nextStream s = some e) : 0 < s.image.strSize / 4096 := by
  have wanting := leastBy_mem next
  unfold streamsWanting at wanting
  split at wanting
  · exact absurd wanting List.not_mem_nil
  · omega

/-- The place of the pool that the next block takes. -/
def nextPlace (s : State) : Nat := match s.image.pool.getLast? with | some e => (e.2.2 + 1) % (s.image.strSize / 4096) | none => 0

/-- The block, read into memory. -/
def blockRead (s : State) (x : Wave) (k : Nat) : State :=
  putBytes s (s.image.strBase + 4096 * nextPlace s) (flashBytes s (x.dataOff + 4096 * k) 4096)

theorem putBytes_image {a : Nat} {bs : List Byte} : (putBytes s a bs).image = s.image :=
  (touches_putBytes (ps := [.mem]) (rs := []) touches_rfl _ _ (by decide)).parts.image (by decide)

theorem memByte_image {m : ImageSt} {b : Nat} : memByte { s with image := m } b = memByte s b := rfl

theorem fetchBlock_eq {k : Nat} (clean : s.ecc = []) : fetchBlock i x s k = { blockRead s x k with
    image := { s.image with pool := (s.image.pool.filter fun e => e.2.2 ≠ nextPlace s) ++ [(i, k, nextPlace s)] } } := by
  unfold fetchBlock blockRead nextPlace
  simp only [storeBytes_noError _ clean]
  generalize flashBytes s (x.dataOff + 4096 * k) 4096 = bs
  simp only [putBytes_image] <;> rfl

theorem touches_fetchBlock {k : Nat} (clean : s.ecc = []) : Touches [.image, .mem] [] s (fetchBlock i x s k) := by
  rw [fetchBlock_eq clean]
  exact touches_image (touches_putBytes touches_rfl _ _ (by decide)) _ (by decide)

theorem fetchBlock_pool {k : Nat} (clean : s.ecc = []) :
    (fetchBlock i x s k).image = { s.image with pool := (s.image.pool.filter fun e => e.2.2 ≠ nextPlace s) ++ [(i, k, nextPlace s)] } := by
  rw [fetchBlock_eq clean]

theorem memByte_fetchBlock {k b : Nat} (clean : s.ecc = []) : memByte (fetchBlock i x s k) b = memByte (blockRead s x k) b := by
  rw [fetchBlock_eq clean, memByte_image]

/-- After some blocks of a stream: the latest of them lie in the pool one place after the other, as many as it has, each as the flash
holds it. -/
structure Fetched (s t : State) (i : Nat) (x : Wave) (ks : List Nat) : Prop where
  frame : Touches [.image, .mem] [] s t
  base  : t.image.strBase = s.image.strBase
  size  : t.image.strSize = s.image.strSize
  known : ∀ e ∈ t.image.pool, e ∈ s.image.pool ∨ (e.1 = i ∧ e.2.1 ∈ ks)
  held  : ∀ j k, j < s.image.strSize / 4096 → ks.reverse[j]? = some k → ∃ p, (i, k, p) ∈ t.image.pool ∧ p < s.image.strSize / 4096 ∧
    (p + j + 1) % (s.image.strSize / 4096) = nextPlace t ∧
    memBytes t (s.image.strBase + 4096 * p) 4096 = flashBytes s (x.dataOff + 4096 * k) 4096

theorem fetched_nil : Fetched s s i x [] :=
  ⟨touches_rfl, rfl, rfl, fun _ h => .inl h, fun _ _ _ h => by simp at h⟩

theorem nextPlace_fetchBlock {k : Nat} (clean : u.ecc = []) :
    nextPlace (fetchBlock i x u k) = (nextPlace u + 1) % (u.image.strSize / 4096) := by
  rw [nextPlace, fetchBlock_pool clean]
  simp

theorem nextPlace_lt (pos : 0 < s.image.strSize / 4096) : nextPlace s < s.image.strSize / 4096 := by
  unfold nextPlace
  split
  · exact Nat.mod_lt _ pos
  · exact pos

/-- One more block: it takes the next place, which of the others only one that is no longer counted can have had. -/
theorem fetched_append {ks : List Nat} {k : Nat} (clean : s.ecc = []) (pos : 0 < s.image.strSize / 4096) (h : Fetched s u i x ks) :
    Fetched s (fetchBlock i x u k) i x (ks ++ [k]) := by
  have still : u.ecc = [] := by rw [h.frame.parts.ecc (by decide), clean]
  have image := fetchBlock_pool (i := i) (x := x) (k := k) still
  have next := nextPlace_lt (h.size.symm ▸ pos)
  have flash : u.flash = s.flash := h.frame.parts.flash (by decide)
  have read : flashBytes u (x.dataOff + 4096 * k) 4096 = flashBytes s (x.dataOff + 4096 * k) 4096 :=
    flashBytes_congr fun _ _ => flashByte_congr flash
  refine ⟨touches_trans h.frame (touches_fetchBlock still), ?_, ?_, fun e he => ?_, fun j c hj hc => ?_⟩
  · rw [image, h.base]
  · rw [image, h.size]
  · rw [image, List.mem_append, List.mem_singleton] at he
    rcases he with he | rfl
    · rcases h.known e (List.mem_of_mem_filter he) with old | ⟨wave, block⟩
      · exact .inl old
      · exact .inr ⟨wave, List.mem_append_left _ block⟩
    · exact .inr ⟨rfl, by simp⟩
  · rw [image, nextPlace_fetchBlock still, h.size]
    rw [h.size] at next
    rw [List.reverse_append, List.reverse_singleton, List.singleton_append] at hc
    cases j with
    | zero =>
      obtain rfl : k = c := by simpa using hc
      refine ⟨nextPlace u, by simp, next, by rw [Nat.add_zero], ?_⟩
      have put := memBytes_putBytes u (u.image.strBase + 4096 * nextPlace u) (flashBytes u (x.dataOff + 4096 * k) 4096) 0 4096
        (by rw [length_flashBytes])
      rw [Nat.add_zero, List.drop_zero, List.take_of_length_le (by rw [length_flashBytes]), read] at put
      rw [← put, ← h.base]
      exact List.map_congr_left fun b _ => by rw [memByte_fetchBlock still, blockRead, read]
    | succ j =>
      rw [List.getElem?_cons_succ] at hc
      obtain ⟨p, entry, small, turn, bytes⟩ := h.held j c (by omega) hc
      have other : p ≠ nextPlace u := by
        intro same
        rw [← same] at turn
        by_cases wraps : p + j + 1 < s.image.strSize / 4096
        · rw [Nat.mod_eq_of_lt wraps] at turn
          omega
        · rw [Nat.mod_eq_sub_mod (by omega), Nat.mod_eq_of_lt (by omega)] at turn
          omega
      refine ⟨p, ?_, small, ?_, ?_⟩
      · exact List.mem_append_left _ (List.mem_filter.2 ⟨entry, by simpa using other⟩)
      · rw [show p + (j + 1) + 1 = p + j + 1 + 1 by omega, Nat.add_mod, turn, Nat.add_mod (nextPlace u) 1, Nat.mod_eq_of_lt next]
      · rw [← bytes]
        refine List.map_congr_left fun b hb => ?_
        have within := List.mem_range.1 hb
        rw [memByte_fetchBlock still, blockRead, memByte_putBytes, length_flashBytes, h.base]
        exact if_neg (by omega)

theorem fetched_all (clean : s.ecc = []) (pos : 0 < s.image.strSize / 4096) (ks : List Nat) :
    Fetched s (ks.foldl (fetchBlock i x) s) i x ks := by
  induction ks using List.reverseRecOn with
  | nil => exact fetched_nil
  | append_singleton ks k ih =>
    rw [List.foldl_append, List.foldl_cons, List.foldl_nil]
    exact fetched_append clean pos ih

theorem streamFetch_fetches {b : Nat} {ks : List Nat} (next : nextStream s = some (i, b, ks)) (wave : s.image.waves[i]? = some (some x))
    (clean : s.ecc = []) :
    ∃ t, exec .streamFetch s = .next t ∧
      (∀ k ∈ ks.reverse.take (s.image.strSize / 4096), ∃ p, (i, k, p) ∈ t.image.pool ∧ p < s.image.strSize / 4096 ∧
        memBytes t (s.image.strBase + 4096 * p) 4096 = flashBytes s (x.dataOff + 4096 * k) 4096) ∧
      (∀ e ∈ t.image.pool, e ∈ s.image.pool ∨ (e.1 = i ∧ e.2.1 ∈ ks)) ∧ t.flash = s.flash ∧ Touches [.image, .mem] [] s t := by
  have all : Fetched s (ks.foldl (fetchBlock i x) s) i x ks := fetched_all clean (places_pos next) ks
  refine ⟨ks.foldl (fetchBlock i x) s, ?_, fun k hk => ?_, all.known, all.frame.parts.flash (by decide), all.frame⟩
  · show execStreamFetch s = _
    unfold execStreamFetch
    simp only [next, wave]
  · obtain ⟨j, hj, value⟩ := List.mem_iff_getElem.1 hk
    rw [List.length_take] at hj
    rw [List.getElem_take] at value
    obtain ⟨p, entry, small, -, bytes⟩ := all.held j k (by omega) (List.getElem?_eq_some_iff.2 ⟨by omega, value⟩)
    exact ⟨p, entry, small, bytes⟩

end Stream

/-- Settles O52: operations start or are refused, complete or wait, and streamed blocks come into their places. -/
theorem flashAccess : Obligations.FlashAccess := by
  unfold Obligations.FlashAccess
  refine ⟨fun _ _ _ _ may h => flash_starts h may, fun s c size may h => ?_, fun _ _ => operationDone_reads, fun _ _ => operationDone_programs,
    fun _ _ => operationDone_erases, fun _ => operationDone_idle, fun _ => streamFetch_idle, fun _ _ _ _ _ => streamFetch_fetches⟩
  obtain ⟨op, starts⟩ : ∃ op, Starts c op size := by
    rcases h with ⟨rfl, rfl⟩ | ⟨rfl, rfl⟩ | ⟨rfl, rfl⟩
    · exact ⟨1, .inl ⟨rfl, rfl, rfl⟩⟩
    · exact ⟨2, .inr (.inl ⟨rfl, rfl, rfl⟩)⟩
    · exact ⟨3, .inr (.inr ⟨rfl, rfl, rfl⟩)⟩
  exact flash_refused starts may

end Sys2Proof.Flash

/-! PROOFS. Stores: acceptance, refusal, the newest record, commitment (R431 to R438, R449). -/

namespace Sys2Proof.Store
open Sys2Proof.Machine Sys2Proof.Laws Sys2Proof.Architecture Sys2Proof.SerialPorts Sys2Proof.Answers Sys2Proof.Flash

/-! ### Records (R431) -/

section Record
variable {s t : State} {kind slot seq a size : Nat} {payload : List Byte} {d : StoreDesc}

theorem xor_fits {x y : Nat} (hx : x < 2 ^ 32) (hy : y < 2 ^ 32) : x ^^^ y < 2 ^ 32 := Nat.xor_lt_two_pow hx hy

theorem crcBits_fits (n : Nat) {c : Nat} (h : c < 2 ^ 32) : crcBits n c < 2 ^ 32 := by
  induction n generalizing c with
  | zero => exact h
  | succ n ih =>
    rw [crcBits]
    refine ih ?_
    split
    · exact xor_fits (by omega) (by decide)
    · omega

theorem crc32_fits (bs : List Byte) : crc32 bs < 2 ^ 32 := by
  have steps : ∀ c, c < 2 ^ 32 → bs.foldl (fun c b => crcBits 8 (c ^^^ b.toNat)) c < 2 ^ 32 := by
    induction bs with
    | nil => exact fun _ h => h
    | cons b bs ih =>
      intro c h
      have small := b.isLt
      exact ih _ (crcBits_fits 8 (xor_fits h (by omega)))
  exact xor_fits (steps _ (by decide)) (by decide)

/-- The header of a record, without its CRC. -/
def header (kind seq : Nat) (payload : List Byte) : List Byte :=
  leBytes 4 0x52534A43 ++ leBytes 4 kind ++ leBytes 4 seq ++ leBytes 4 payload.length ++ List.replicate 12 0

theorem recordBytes_eq : recordBytes kind seq payload =
    header kind seq payload ++ leBytes 4 (crc32 (header kind seq payload ++ payload)) ++ payload := rfl

theorem length_header : (header kind seq payload).length = 28 := by simp [header]

theorem length_recordBytes : (recordBytes kind seq payload).length = 32 + payload.length := by
  rw [recordBytes_eq, List.length_append, List.length_append, length_header, length_leBytes]

/-- The first 32 bytes of a record. -/
def recordHead (kind seq : Nat) (payload : List Byte) : List Byte :=
  header kind seq payload ++ leBytes 4 (crc32 (header kind seq payload ++ payload))

theorem length_recordHead : (recordHead kind seq payload).length = 32 := by
  rw [recordHead, List.length_append, length_header, length_leBytes]

theorem recordHead_fields (small : kind ≤ 15) (hs : seq < 2 ^ 32) (hp : payload.length < 2 ^ 32) :
    fieldAt (recordHead kind seq payload) 0 4 = 0x52534A43 ∧ fieldAt (recordHead kind seq payload) 4 1 = kind ∧
      fieldAt (recordHead kind seq payload) 8 4 = seq ∧ fieldAt (recordHead kind seq payload) 12 4 = payload.length := by
  have magic : fieldAt (recordHead kind seq payload) 0 4 = leNat (leBytes 4 0x52534A43) := rfl
  have first : fieldAt (recordHead kind seq payload) 4 1 = leNat (leBytes 1 kind) := rfl
  have second : fieldAt (recordHead kind seq payload) 8 4 = leNat (leBytes 4 seq) := rfl
  have third : fieldAt (recordHead kind seq payload) 12 4 = leNat (leBytes 4 payload.length) := rfl
  rw [magic, first, second, third, leNat_leBytes, leNat_leBytes, leNat_leBytes, leNat_leBytes]
  refine ⟨by decide, ?_, ?_, ?_⟩ <;> exact Nat.mod_eq_of_lt (by omega)

theorem recordHead_crc : (recordHead kind seq payload).take 28 = header kind seq payload ∧
    fieldAt (recordHead kind seq payload) 28 4 = crc32 (header kind seq payload ++ payload) := by
  have split : (recordHead kind seq payload).drop 28 = leBytes 4 (crc32 (header kind seq payload ++ payload)) :=
    List.drop_left' length_header
  refine ⟨List.take_left' length_header, ?_⟩
  rw [fieldAt, split, List.take_of_length_le (length_leBytes ..).le, leNat_leBytes]
  exact Nat.mod_eq_of_lt (crc32_fits _)

/-- A slot with a record in it reads as that record. -/
theorem slotRecord_recorded (desc : s.nvm.desc = some d) (place : slotPlace d kind slot = some (a, size)) (small : kind ≤ 15)
    (hs : seq < 2 ^ 32) (hp : payload.length < 2 ^ 32) (fits : 32 + payload.length ≤ size)
    (head : flashBytes s a 32 = recordHead kind seq payload) (tail : flashBytes s (a + 32) payload.length = payload) :
    slotRecord s kind slot = some (seq, payload) := by
  obtain ⟨magic, first, second, third⟩ := recordHead_fields small hs hp
  obtain ⟨start, crc⟩ := recordHead_crc (kind := kind) (seq := seq) (payload := payload)
  unfold slotRecord
  simp only [desc, place, head, magic, first, second, third, start, crc, tail]
  rw [if_neg (by simp; omega), if_pos trivial]

end Record

/-! ### Results (R432, R435, R438) -/

section Result
variable {ps : List Part} {rs : List Nat} {s t u : State} {r kind : Nat}

theorem touches_storeResult (h : Touches ps rs s t) (r : Nat) (sstat : R.nvmSstat ∈ rs) (irq : R.sysIrqstat ∈ rs) :
    Touches ps rs s (storeResult t r) := by
  have first : Touches ps rs s (wrFld t R.nvmSstat 23 20 r) := touches_wrFld h _ _ _ sstat
  exact touches_ite first (touches_raiseIrq (touches_setFlag first _ sstat) _ irq)

theorem storeResult_clear (clear : flag s R.nvmSstat 31 = false) :
    storeResult s r = raiseIrq (setFlag (wrFld s R.nvmSstat 23 20 r) R.nvmSstat 31) 10 := by
  have still : flag (wrFld s R.nvmSstat 23 20 r) R.nvmSstat 31 = false := by
    rw [flag_wrFld_apart (by decide) (by decide) (by decide), clear]
  simp only [storeResult, still]
  rfl

theorem fld_storeResult (small : r < 16) : fld (storeResult s r) R.nvmSstat 23 20 = r := by
  have first : fld (wrFld s R.nvmSstat 23 20 r) R.nvmSstat 23 20 = r := fld_wrFld_fits (by decide) (by decide) small
  unfold storeResult
  dsimp only
  split
  · exact first
  · rw [raiseIrq_eq, fld_wrFld_ne (by decide), setFlag_eq, fld_wrFld_apart (by decide) (by decide) (by decide) (by decide), first]

theorem done_storeResult : flag (storeResult s r) R.nvmSstat 31 = true := by
  unfold storeResult
  dsimp only
  split
  · assumption
  · rw [raiseIrq_eq, flag_wrFld_ne (by decide), flag_setFlag _ _ _ (by decide)]

theorem irq_storeResult (clear : flag s R.nvmSstat 31 = false) : flag (storeResult s r) R.sysIrqstat 10 = true := by
  rw [storeResult_clear clear, raiseIrq, flag_setFlag _ _ _ (by decide)]

/-- The other fields of SSTAT stand. -/
theorem fld_storeResult_apart {hi lo : Nat} (h : lo ≤ hi) (below : hi < 20) : fld (storeResult s r) R.nvmSstat hi lo = fld s R.nvmSstat hi lo := by
  have first : fld (wrFld s R.nvmSstat 23 20 r) R.nvmSstat hi lo = fld s R.nvmSstat hi lo :=
    fld_wrFld_apart (by decide) (by decide) h (by omega)
  unfold storeResult
  dsimp only
  split
  · exact first
  · rw [raiseIrq_eq, fld_wrFld_ne (by decide), setFlag_eq, fld_wrFld_apart (by decide) (by decide) h (by omega), first]

theorem running_storeResult : flag (storeResult s r) R.nvmSstat 30 = flag s R.nvmSstat 30 := by
  have first : flag (wrFld s R.nvmSstat 23 20 r) R.nvmSstat 30 = flag s R.nvmSstat 30 := flag_wrFld_apart (by decide) (by decide) (by decide)
  unfold storeResult
  dsimp only
  split
  · exact first
  · rw [raiseIrq_eq, flag_wrFld_ne (by decide), setFlag_eq, flag_wrFld_apart (by decide) (by decide) (by decide), first]

/-- E as a refusal logs it. -/
def energyNow (s : State) : Word := w32 (match s.nvm.desc with | some d => holdupEnergy d s.power.vhold | none => 0)

theorem refuseStore_eq : refuseStore s kind r true = raiseGloss (storeResult s r) 0x1310 (w32 kind) (w32 r) (energyNow s) := by
  have kept : Touches [] [R.nvmSstat, R.sysIrqstat] s (storeResult s r) := touches_storeResult touches_rfl r (by decide) (by decide)
  have same : energyNow (storeResult s r) = energyNow s := by
    rw [energyNow, kept.parts.nvm (by decide), kept.parts.power (by decide), energyNow]
  rw [refuseStore, if_pos rfl, ← same, energyNow] <;> rfl

end Result

/-! ### The write of NVM.SCMD -/

section Command
variable {ps : List Part} {rs : List Nat} {s u : State} {kind : Byte} {len : BitVec 13} {v : Word}

theorem writable_nvmScmd : Writable R.nvmScmd ((regDesc R.nvmScmd).get (by decide)) := by constructor <;> decide

theorem scmd_done (may : HostMayWrite s R.nvmScmd) (writes : writeScmd (wr s R.nvmErr 0) v = u) (touched : Touches ps rs (wr s R.nvmErr 0) u)
    (apart : R.nvmErr ∉ rs) (keeps : R.pwrStat ∉ rs) :
    regWrite s R.nvmScmd v = wr u R.nvmErr (rd s R.nvmErr) ∧ Touches ps rs s (regWrite s R.nvmScmd v) :=
  operation_done rfl may writable_nvmScmd (congrArg some writes) touched apart
    (by rw [asleep_touches touched keeps, asleep_wr _ _ _ (by decide), may.awake])

/-- The value that STORE writes. -/
def storeValue (kind : Byte) (len : BitVec 13) : Word := w32 (2 ^ 30 + kind.toNat * 2 ^ 16 + len.toNat)

theorem storeValue_fields : bits (storeValue kind len) 31 30 = 1 ∧ bits (storeValue kind len) 23 16 = kind.toNat ∧
    bits (storeValue kind len) 12 0 = len.toNat := by
  have hk := kind.isLt
  have hl := len.isLt
  simp only [bits, storeValue, w32, BitVec.toNat_ofNat]
  omega

/-- The value that NEWEST_RECORD_READ writes. -/
def newestValue (kind : Byte) : Word := w32 (2 * 2 ^ 30 + kind.toNat * 2 ^ 16)

theorem newestValue_fields : bits (newestValue kind) 31 30 = 2 ∧ bits (newestValue kind) 23 16 = kind.toNat := by
  have hk := kind.isLt
  simp only [bits, newestValue, w32, BitVec.toNat_ofNat]
  omega

theorem writeScmd_store (least : 1 ≤ kind.toNat) (most : kind.toNat ≤ 15) :
    writeScmd s (storeValue kind len) = startStore s kind.toNat (sbufBytes s len.toNat) true := by
  obtain ⟨op, kindField, length⟩ := storeValue_fields (kind := kind) (len := len)
  unfold writeScmd
  simp only [op, kindField, length]
  rw [if_pos ⟨trivial, least, most⟩]

theorem writeScmd_newest (least : 1 ≤ kind.toNat) (most : kind.toNat ≤ 15) : writeScmd s (newestValue kind) =
    (match s.nvm.op, newestRecord s kind.toNat with
     | some _, _ => storeResult s 1
     | none, none => storeResult s 7
     | none, some (_, _, p) => storeResult (wrFld (fillSbuf s (p.take 4096)) R.nvmSstat 12 0 p.length) 0) := by
  obtain ⟨op, kindField⟩ := newestValue_fields (kind := kind)
  unfold writeScmd
  simp only [op, kindField]
  rw [if_neg (by simp), if_pos ⟨trivial, least, most⟩] <;> rfl

theorem writeScmd_undefined (undefined : bits v 23 16 = 0 ∨ 15 < bits v 23 16) : writeScmd s v = refuse s R.nvmScmd true := by
  unfold writeScmd
  dsimp only
  rw [if_neg (by omega), if_neg (by omega)]

theorem scmd_undefined {c : Instr} (may : HostMayWrite s R.nvmScmd) (undefined : kind.toNat = 0 ∨ 15 < kind.toNat)
    (h : c = .store kind len ∨ c = .newestRecordRead kind) : ∃ t, exec c s = .next t ∧ Refused s t R.nvmScmd true := by
  obtain ⟨v, field, command⟩ : ∃ v, bits v 23 16 = kind.toNat ∧ exec c s = .next (regWrite s R.nvmScmd v) := by
    rcases h with rfl | rfl
    · exact ⟨storeValue kind len, storeValue_fields.2.1, rfl⟩
    · exact ⟨newestValue kind, newestValue_fields.2, rfl⟩
  exact ⟨_, command, operation_refused rfl may writable_nvmScmd (congrArg some (writeScmd_undefined (field ▸ undefined)))⟩

end Command

/-! ### A store that is accepted (R432, R433) -/

section Accept
variable {s t : State} {kind : Byte} {len : BitVec 13} {d : StoreDesc} {a size slot seq k : Nat} {payload : List Byte}

theorem slotRecord_congr {n : Nat} (nvm : t.nvm = s.nvm) (flash : t.flash = s.flash) : slotRecord t k n = slotRecord s k n := by
  have bytes : ∀ b m, flashBytes t b m = flashBytes s b m := fun b m => flashBytes_congr fun _ _ => flashByte_congr flash
  simp only [slotRecord, nvm, bytes]

theorem newestRecord_congr (nvm : t.nvm = s.nvm) (flash : t.flash = s.flash) : newestRecord t k = newestRecord s k := by
  rw [newestRecord, slotRecord_congr nvm flash, slotRecord_congr nvm flash, newestRecord]

theorem touches_showHoldup {ps : List Part} {rs : List Nat} (h : Touches ps rs s t) (d : StoreDesc) (holdup : R.nvmHoldup ∈ rs) :
    Touches ps rs s (showHoldup t d) := touches_wr h _ holdup

theorem fld_showHoldup : fld (showHoldup s d) R.nvmHoldup 15 0 = s.power.vhold % 65536 := by
  rw [fld, showHoldup, rd_wr]
  simp only [bits, w32, BitVec.toNat_ofNat]
  omega

/-- The slot and the number a new record gets. -/
def nextSlot (s : State) (k : Nat) : Nat × Nat := match newestRecord s k with | some (n, q, _) => (1 - n, (q + 1) % 2 ^ 32) | none => (0, 1)

/-- The host's store under way. -/
def began (s : State) (k slot seq : Nat) (payload : List Byte) : State :=
  setFlag { clrFlag s R.nvmSstat 31 with
    nvm := { (clrFlag s R.nvmSstat 31).nvm with op := some (.store k slot seq (recordBytes k seq payload) true) } } R.nvmSstat 30

/-- What startStore asks in turn, of a store of the host. -/
theorem startStore_checked (idle : s.nvm.op = none) (supplied : flag s R.pwrStat 5 = false) (desc : s.nvm.desc = some d)
    (place : slotPlace d k 0 = some (a, size)) (fits : 32 + payload.length ≤ size) (short : payload.length ≤ 4096) :
    startStore s k payload true =
      if 2 * holdupEnergy d s.power.vhold < 3 * storeEnergy d payload.length then refuseStore (showHoldup s d) k 5 true
      else began (showHoldup s d) k (nextSlot s k).1 (nextSlot s k).2 payload := by
  have same : newestRecord (showHoldup s d) k = newestRecord s k := newestRecord_congr (wr_nvm ..) (wr_flash ..)
  have power : (showHoldup s d).power = s.power := wr_power ..
  unfold startStore
  simp only [supplied, idle, desc, place, Bool.false_and, Option.isSome_none, decide_false, Bool.false_eq_true]
  rw [if_neg (by omega), power, same, nextSlot]
  split
  · rfl
  · cases newestRecord s k <;> rfl

theorem touches_began : Touches [.nvm] [R.nvmSstat, R.nvmHoldup] s (began (showHoldup s d) k slot seq payload) :=
  touches_setFlag (touches_nvm (touches_clrFlag (touches_showHoldup touches_rfl d (by decide)) _ (by decide)) _ (by decide)) _ (by decide)

theorem began_nvm : (began s k slot seq payload).nvm = { s.nvm with op := some (.store k slot seq (recordBytes k seq payload) true) } := by
  rw [began, setFlag_nvm, clrFlag_nvm]

theorem store_accepted (may : HostMayWrite s R.nvmScmd) (least : 1 ≤ kind.toNat) (most : kind.toNat ≤ 15) (idle : s.nvm.op = none)
    (supplied : flag s R.pwrStat 5 = false) (desc : s.nvm.desc = some d) (place : slotPlace d kind.toNat 0 = some (a, size))
    (fits : 32 + len.toNat ≤ size) (short : len.toNat ≤ 4096) (energy : 3 * storeEnergy d len.toNat ≤ 2 * holdupEnergy d s.power.vhold)
    (next : (slot, seq) = (match newestRecord s kind.toNat with | some (k, q, _) => (1 - k, (q + 1) % 2 ^ 32) | none => (0, 1))) :
    ∃ t, exec (.store kind len) s = .next t ∧ flag t R.nvmSstat 30 = true ∧ flag t R.nvmSstat 31 = false ∧
      t.nvm = { s.nvm with op := some (.store kind.toNat slot seq (recordBytes kind.toNat seq (sbufBytes s len.toNat)) true) } ∧
      fld t R.nvmHoldup 15 0 = s.power.vhold % 65536 ∧ Touches [.nvm] [R.nvmSstat, R.nvmHoldup] s t := by
  obtain ⟨z, hz⟩ : ∃ z, z = wr s R.nvmErr 0 := ⟨_, rfl⟩
  have nvm : z.nvm = s.nvm := by rw [hz, wr_nvm]
  have power : z.power = s.power := by rw [hz, wr_power]
  have buffer : sbufBytes z len.toNat = sbufBytes s len.toNat := by
    have base : R.nvmSbuf = 0x40111000 := rfl
    have err : R.nvmErr = 0x4011FFFC := rfl
    have hl := len.isLt
    exact sbufBytes_congr fun i hi => by rw [hz, rd_wr_ne _ _ _ _ (by omega)]
  have place' : nextSlot z kind.toNat = (slot, seq) := by
    rw [nextSlot, newestRecord_congr nvm (by rw [hz, wr_flash])]
    exact next.symm
  have writes : writeScmd z (storeValue kind len) = began (showHoldup z d) kind.toNat slot seq (sbufBytes s len.toNat) := by
    rw [writeScmd_store least most, buffer, startStore_checked (by rw [nvm, idle]) (by rw [hz, flag_wr_ne (by decide), supplied])
      (by rw [nvm, desc]) place (by rw [length_sbufBytes]; exact fits) (by rw [length_sbufBytes]; exact short), length_sbufBytes, power,
      if_neg (Nat.not_lt.2 energy), place']
  rw [hz] at writes
  obtain ⟨value, frame⟩ := scmd_done may writes touches_began (by decide) (by decide)
  refine ⟨_, rfl, ?_, ?_, ?_, ?_, frame⟩
  all_goals rw [show regWrite s R.nvmScmd (w32 (2 ^ 30 + kind.toNat * 2 ^ 16 + len.toNat)) = _ from value]
  · rw [flag_wr_ne (by decide), began, flag_setFlag _ _ _ (by decide)]
  · rw [flag_wr_ne (by decide), began, setFlag_eq, flag_wrFld_apart (by decide) (by decide) (by decide), flag_lit, flag_clrFlag _ _ _ (by decide)]
  · rw [wr_nvm, began_nvm, showHoldup, wr_nvm, ← hz, nvm]
  · rw [fld_wr_ne (by decide), began, setFlag_eq, fld_wrFld_ne (by decide), fld_lit, clrFlag_eq, fld_wrFld_ne (by decide), fld_showHoldup, ← hz, power]

end Accept

/-! ### A store that is refused (R435, R449) -/

section Refuse
variable {s z t : State} {kind : Byte} {len : BitVec 13} {d : StoreDesc} {a size r k : Nat} {payload : List Byte} {rs : List Nat}

/-- What a refusal leaves, from a state that differs from s in these registers alone. -/
theorem refuseStore_facts (apart : ∀ b ∈ recorderInputs, b ∉ R.nvmErr :: rs) (before : Touches [] (R.nvmErr :: rs) s z)
    (small : r < 16) (clear : flag z R.nvmSstat 31 = false) :
    fld (refuseStore z k r true) R.nvmSstat 23 20 = r ∧ flag (refuseStore z k r true) R.nvmSstat 31 = true ∧
      flag (refuseStore z k r true) R.sysIrqstat 10 = true ∧
      ∀ x, Logged 0x1310 (w32 k) (w32 r) (energyNow s) s (wr (refuseStore z k r true) R.nvmErr x) := by
  have same : energyNow z = energyNow s := by
    rw [energyNow, before.parts.nvm (by decide), before.parts.power (by decide), energyNow]
  obtain ⟨u, hu⟩ : ∃ u, u = storeResult z r := ⟨_, rfl⟩
  have result : Touches [] [R.nvmSstat, R.sysIrqstat] z u := hu ▸ touches_storeResult touches_rfl r (by decide) (by decide)
  have value : refuseStore z k r true = raiseGloss u 0x1310 (w32 k) (w32 r) (energyNow s) := by rw [refuseStore_eq, same, hu]
  have elsewhere : ∀ b ∈ recorderInputs, b ∉ [R.nvmSstat, R.sysIrqstat] := by decide
  have time : u.time = s.time := (result.parts.time (by decide)).trans (before.parts.time (by decide))
  rw [value]
  refine ⟨?_, ?_, ?_, fun x => ⟨u, ?_, .inl ?_, fun b hb => .inl ?_, wr_gloss ..⟩⟩
  · rw [fld_raiseGloss (by decide), hu, fld_storeResult small]
  · rw [flag_raiseGloss (by decide), hu, done_storeResult]
  · rw [flag_raiseGloss (by decide), hu, irq_storeResult clear]
  · exact (result.parts.gloss (by decide)).trans (before.parts.gloss (by decide))
  · exact ⟨by rw [time], by rw [time], by rw [time], by rw [time]⟩
  · rw [result.regs b (elsewhere b hb), before.regs b (apart b hb)]

theorem touches_refuseStore {ps : List Part} {ss : List Nat} (h : Touches ps ss s t) (gloss : Part.gloss ∈ Part.regs :: ps)
    (sstat : R.nvmSstat ∈ ss) (irq : R.sysIrqstat ∈ ss) (counted : glossRegs ⊆ ss) : Touches ps ss s (refuseStore t k r true) := by
  rw [refuseStore_eq]
  exact touches_raiseGloss (touches_storeResult h r sstat irq) _ _ _ _ gloss counted

/-- The refusals that come before the energy is looked at: LOWVIN first, whatever runs; then a store under way, no slot, too long. -/
theorem startStore_refused (normal : k ≤ 15) (why : (r = 1 ∧ s.nvm.op.isSome = true ∧ flag s R.pwrStat 5 = false) ∨
      (r = 2 ∧ flag s R.pwrStat 5 = true) ∨
      (r = 3 ∧ s.nvm.op = none ∧ flag s R.pwrStat 5 = false ∧ ∀ d, s.nvm.desc = some d → slotPlace d k 0 = none) ∨
      (r = 4 ∧ s.nvm.op = none ∧ flag s R.pwrStat 5 = false ∧ ∃ d a size, s.nvm.desc = some d ∧
        slotPlace d k 0 = some (a, size) ∧ (size < 32 + payload.length ∨ 4096 < payload.length))) :
    startStore s k payload true = refuseStore s k r true := by
  unfold startStore
  rcases why with ⟨rfl, busy, supplied⟩ | ⟨rfl, low⟩ | ⟨rfl, idle, supplied, none⟩ | ⟨rfl, idle, supplied, d, a, size, desc, place, long⟩
  · simp only [supplied, busy, Bool.false_and, decide_true]
  · have other : k ≠ 0x11 := by omega
    simp only [low, other, ne_eq, not_false_eq_true, decide_true, Bool.and_self]
  · simp only [supplied, idle, Bool.false_and, Option.isSome_none, decide_false, Bool.false_eq_true]
    cases desc : s.nvm.desc with
    | none => rfl
    | some d => simp only [none d desc]
  · simp only [supplied, idle, desc, place, Bool.false_and, Option.isSome_none, decide_false, Bool.false_eq_true]
    rw [if_pos (long.imp_right fun h => ⟨by omega, h⟩)]

theorem store_refused {e : Word} (may : HostMayWrite s R.nvmScmd) (least : 1 ≤ kind.toNat) (most : kind.toNat ≤ 15)
    (why : (r = 1 ∧ s.nvm.op.isSome = true ∧ flag s R.pwrStat 5 = false) ∨ (r = 2 ∧ flag s R.pwrStat 5 = true) ∨
      (r = 3 ∧ s.nvm.op = none ∧ flag s R.pwrStat 5 = false ∧ ∀ d, s.nvm.desc = some d → slotPlace d kind.toNat 0 = none) ∨
      (r = 4 ∧ s.nvm.op = none ∧ flag s R.pwrStat 5 = false ∧ ∃ d a size, s.nvm.desc = some d ∧
        slotPlace d kind.toNat 0 = some (a, size) ∧ (size < 32 + len.toNat ∨ 4096 < len.toNat)))
    (he : e = w32 (match s.nvm.desc with | some d => holdupEnergy d s.power.vhold | none => 0)) (clear : flag s R.nvmSstat 31 = false) :
    ∃ t, exec (.store kind len) s = .next t ∧ fld t R.nvmSstat 23 20 = r ∧ flag t R.nvmSstat 31 = true ∧
      flag t R.sysIrqstat 10 = true ∧ Logged 0x1310 (w32 kind.toNat) (w32 r) e s t ∧
      Touches [.gloss] (R.nvmSstat :: R.sysIrqstat :: glossRegs) s t := by
  obtain ⟨z, hz⟩ : ∃ z, z = wr s R.nvmErr 0 := ⟨_, rfl⟩
  have nvm : z.nvm = s.nvm := by rw [hz, wr_nvm]
  have warn : flag z R.pwrStat 5 = flag s R.pwrStat 5 := by rw [hz, flag_wr_ne (by decide)]
  have small : r < 16 := by rcases why with ⟨h, -⟩ | ⟨h, -⟩ | ⟨h, -⟩ | ⟨h, -⟩ <;> omega
  have writes : writeScmd z (storeValue kind len) = refuseStore z kind.toNat r true := by
    rw [writeScmd_store least most]
    refine startStore_refused most ?_
    rw [nvm, warn, length_sbufBytes]
    exact why
  have touched : Touches [.gloss] (R.nvmSstat :: R.sysIrqstat :: glossRegs) z (refuseStore z kind.toNat r true) :=
    touches_refuseStore touches_rfl (by decide) (by decide) (by decide) (by decide)
  have before : Touches [] [R.nvmErr] s z := hz ▸ touches_wr touches_rfl _ (by decide)
  obtain ⟨field, done, irq, logged⟩ := refuseStore_facts (k := kind.toNat) (by decide) before small
    (by rw [hz, flag_wr_ne (by decide), clear])
  obtain ⟨value, frame⟩ := scmd_done may (hz ▸ writes) (hz ▸ touched) (by decide) (by decide)
  rw [← hz] at value
  refine ⟨_, rfl, ?_, ?_, ?_, ?_, frame⟩
  all_goals rw [show regWrite s R.nvmScmd (w32 (2 ^ 30 + kind.toNat * 2 ^ 16 + len.toNat)) = _ from value]
  · rw [fld_wr_ne (by decide), field]
  · rw [flag_wr_ne (by decide), done]
  · rw [flag_wr_ne (by decide), irq]
  · rw [he]
    exact logged _

theorem store_weak (may : HostMayWrite s R.nvmScmd) (least : 1 ≤ kind.toNat) (most : kind.toNat ≤ 15) (idle : s.nvm.op = none)
    (supplied : flag s R.pwrStat 5 = false) (desc : s.nvm.desc = some d) (place : slotPlace d kind.toNat 0 = some (a, size))
    (fits : 32 + len.toNat ≤ size) (short : len.toNat ≤ 4096) (energy : 2 * holdupEnergy d s.power.vhold < 3 * storeEnergy d len.toNat)
    (clear : flag s R.nvmSstat 31 = false) :
    ∃ t, exec (.store kind len) s = .next t ∧ fld t R.nvmSstat 23 20 = 5 ∧ flag t R.nvmSstat 31 = true ∧
      fld t R.nvmHoldup 15 0 = s.power.vhold % 65536 ∧ flag t R.sysIrqstat 10 = true ∧
      Logged 0x1310 (w32 kind.toNat) 5 (w32 (holdupEnergy d s.power.vhold)) s t ∧
      Touches [.gloss] (R.nvmSstat :: R.nvmHoldup :: R.sysIrqstat :: glossRegs) s t := by
  obtain ⟨z, hz⟩ : ∃ z, z = wr s R.nvmErr 0 := ⟨_, rfl⟩
  have nvm : z.nvm = s.nvm := by rw [hz, wr_nvm]
  have power : z.power = s.power := by rw [hz, wr_power]
  have writes : writeScmd z (storeValue kind len) = refuseStore (showHoldup z d) kind.toNat 5 true := by
    rw [writeScmd_store least most, startStore_checked (by rw [nvm, idle]) (by rw [hz, flag_wr_ne (by decide), supplied])
      (by rw [nvm, desc]) place (by rw [length_sbufBytes]; exact fits) (by rw [length_sbufBytes]; exact short), length_sbufBytes, power,
      if_pos energy]
  have shown : Touches [.gloss] (R.nvmSstat :: R.nvmHoldup :: R.sysIrqstat :: glossRegs) z (showHoldup z d) :=
    touches_showHoldup touches_rfl d (by decide)
  have touched := touches_refuseStore (k := kind.toNat) (r := 5) shown (by decide) (by decide) (by decide) (by decide)
  have before : Touches [] [R.nvmErr, R.nvmHoldup] s (showHoldup z d) :=
    touches_showHoldup (hz ▸ touches_wr touches_rfl _ (by decide)) d (by decide)
  obtain ⟨field, done, irq, logged⟩ := refuseStore_facts (k := kind.toNat) (r := 5) (by decide) before (by decide)
    (by rw [flag_congr (before.regs _ (by decide)), clear])
  have holdup : fld (refuseStore (showHoldup z d) kind.toNat 5 true) R.nvmHoldup 15 0 = s.power.vhold % 65536 := by
    have kept : Touches [.gloss] (R.nvmSstat :: R.sysIrqstat :: glossRegs) (showHoldup z d) (refuseStore (showHoldup z d) kind.toNat 5 true) :=
      touches_refuseStore touches_rfl (by decide) (by decide) (by decide) (by decide)
    rw [fld_congr (kept.regs _ (by decide)), fld_showHoldup, power]
  have logs : energyNow s = w32 (holdupEnergy d s.power.vhold) := by rw [energyNow, desc]
  obtain ⟨value, frame⟩ := scmd_done may (hz ▸ writes) (hz ▸ touched) (by decide) (by decide)
  rw [← hz] at value
  refine ⟨_, rfl, ?_, ?_, ?_, ?_, ?_, frame⟩
  all_goals rw [show regWrite s R.nvmScmd (w32 (2 ^ 30 + kind.toNat * 2 ^ 16 + len.toNat)) = _ from value]
  · rw [fld_wr_ne (by decide), field]
  · rw [flag_wr_ne (by decide), done]
  · rw [fld_wr_ne (by decide), holdup]
  · rw [flag_wr_ne (by decide), irq]
  · exact logs ▸ logged _

end Refuse

/-! ### The newest record (R438) -/

section Newest
variable {s : State} {kind : Byte} {k q r : Nat} {p : List Byte}

/-- The registers of SBUF. -/
def sbufRegs : List Nat := (List.range 1024).map (R.nvmSbuf + 4 * ·)

theorem sbufRegs_above {b : Nat} (h : b ∈ sbufRegs) : 0x40111000 ≤ b ∧ b < 0x40112000 := by
  obtain ⟨i, hi, rfl⟩ := List.mem_map.1 h
  have small := List.mem_range.1 hi
  have base : R.nvmSbuf = 0x40111000 := rfl
  omega

theorem not_sbufRegs {b : Nat} (h : b < 0x40111000 ∨ 0x40112000 ≤ b) : b ∉ sbufRegs := fun member => by
  have := sbufRegs_above member
  omega

theorem newestRecordRead_reads (may : HostMayWrite s R.nvmScmd) (least : 1 ≤ kind.toNat) (most : kind.toNat ≤ 15) (idle : s.nvm.op = none)
    (newest : newestRecord s kind.toNat = some (k, q, p)) (short : p.length ≤ 4096) (clear : flag s R.nvmSstat 31 = false) :
    ∃ t, exec (.newestRecordRead kind) s = .next t ∧ sbufBytes t p.length = p ∧ fld t R.nvmSstat 12 0 = p.length ∧
      fld t R.nvmSstat 23 20 = 0 ∧ flag t R.nvmSstat 31 = true ∧ flag t R.sysIrqstat 10 = true ∧
      Touches [] (R.nvmSstat :: R.sysIrqstat :: (List.range 1024).map (R.nvmSbuf + 4 * ·)) s t := by
  obtain ⟨z, hz⟩ : ∃ z, z = wr s R.nvmErr 0 := ⟨_, rfl⟩
  obtain ⟨f, hf⟩ : ∃ f, f = fillSbuf z p := ⟨_, rfl⟩
  obtain ⟨u, hu⟩ : ∃ u, u = storeResult (wrFld f R.nvmSstat 12 0 p.length) 0 := ⟨_, rfl⟩
  have nvm : z.nvm = s.nvm := by rw [hz, wr_nvm]
  have writes : writeScmd z (newestValue kind) = u := by
    have same : newestRecord z kind.toNat = some (k, q, p) := (newestRecord_congr nvm (by rw [hz, wr_flash])).trans newest
    have none : z.nvm.op = none := by rw [nvm, idle]
    rw [writeScmd_newest least most, none, same, hu, hf]
    simp only [List.take_of_length_le short]
  have filled : Touches [] sbufRegs z f := hf ▸ touches_fillSbuf (by omega)
  have sized : Touches [] (R.nvmSstat :: R.sysIrqstat :: sbufRegs) z (wrFld f R.nvmSstat 12 0 p.length) :=
    touches_wrFld (touches_mono filled (List.Subset.refl _) fun _ h => List.mem_cons_of_mem _ (List.mem_cons_of_mem _ h)) _ _ _ List.mem_cons_self
  have touched : Touches [] (R.nvmSstat :: R.sysIrqstat :: sbufRegs) z u :=
    hu ▸ touches_storeResult sized 0 List.mem_cons_self (List.mem_cons_of_mem _ List.mem_cons_self)
  have outside : ∀ {b}, b ≠ R.nvmSstat → b ≠ R.sysIrqstat → (b < 0x40111000 ∨ 0x40112000 ≤ b) → b ∉ R.nvmSstat :: R.sysIrqstat :: sbufRegs := by
    intro b h1 h2 h3
    rw [List.mem_cons, List.mem_cons, not_or, not_or]
    exact ⟨h1, h2, not_sbufRegs h3⟩
  obtain ⟨value, frame⟩ := scmd_done may (hz ▸ writes) (hz ▸ touched) (outside (by decide) (by decide) (.inr (by decide)))
    (outside (by decide) (by decide) (.inl (by decide)))
  have still : flag (wrFld f R.nvmSstat 12 0 p.length) R.nvmSstat 31 = false := by
    rw [flag_wrFld_apart (by decide) (by decide) (by decide), flag_congr (filled.regs _ (not_sbufRegs (.inl (by decide)))), hz,
      flag_wr_ne (by decide), clear]
  have buffer : ∀ i, i < (p.length + 3) / 4 → rd (wr u R.nvmErr (rd s R.nvmErr)) (R.nvmSbuf + 4 * i) = rd f (R.nvmSbuf + 4 * i) := by
    intro i hi
    have err : R.nvmErr = 0x4011FFFC := rfl
    have base : R.nvmSbuf = 0x40111000 := rfl
    have sstat : R.nvmSstat = 0x40110014 := rfl
    have irq : R.sysIrqstat < 0x40110000 := by decide
    have result : Touches [] [R.nvmSstat, R.sysIrqstat] f u :=
      hu ▸ touches_storeResult (touches_wrFld touches_rfl _ _ _ (by decide)) 0 (by decide) (by decide)
    have apart : R.nvmSbuf + 4 * i ≠ R.nvmSstat ∧ R.nvmSbuf + 4 * i ≠ R.sysIrqstat := by omega
    rw [rd_wr_ne _ _ _ _ (by omega), result.regs _ (by simp [apart.1, apart.2])]
  refine ⟨_, rfl, ?_, ?_, ?_, ?_, ?_, frame⟩
  all_goals rw [show regWrite s R.nvmScmd (w32 (2 * 2 ^ 30 + kind.toNat * 2 ^ 16)) = _ from value]
  · rw [sbufBytes_congr buffer, hf, sbufBytes_fillSbuf]
  · rw [fld_wr_ne (by decide), hu, fld_storeResult_apart (by decide) (by decide), fld_wrFld_fits (by decide) (by decide) (by omega)]
  · rw [fld_wr_ne (by decide), hu, fld_storeResult (by decide)]
  · rw [flag_wr_ne (by decide), hu, done_storeResult]
  · rw [flag_wr_ne (by decide), hu, irq_storeResult still]

theorem newestRecordRead_fails (may : HostMayWrite s R.nvmScmd) (least : 1 ≤ kind.toNat) (most : kind.toNat ≤ 15)
    (why : (r = 1 ∧ s.nvm.op.isSome = true) ∨ (r = 7 ∧ s.nvm.op = none ∧ newestRecord s kind.toNat = none)) :
    ∃ t, exec (.newestRecordRead kind) s = .next t ∧ fld t R.nvmSstat 23 20 = r ∧ flag t R.nvmSstat 31 = true ∧
      Touches [] [R.nvmSstat, R.sysIrqstat] s t := by
  obtain ⟨z, hz⟩ : ∃ z, z = wr s R.nvmErr 0 := ⟨_, rfl⟩
  have nvm : z.nvm = s.nvm := by rw [hz, wr_nvm]
  have same : newestRecord z kind.toNat = newestRecord s kind.toNat := newestRecord_congr nvm (by rw [hz, wr_flash])
  have small : r < 16 := by rcases why with ⟨h, -⟩ | ⟨h, -⟩ <;> omega
  have writes : writeScmd z (newestValue kind) = storeResult z r := by
    rw [writeScmd_newest least most, nvm, same]
    rcases why with ⟨rfl, busy⟩ | ⟨rfl, idle, none⟩
    · obtain ⟨o, op⟩ := Option.isSome_iff_exists.1 busy
      rw [op]
    · rw [idle, none]
  have touched : Touches [] [R.nvmSstat, R.sysIrqstat] z (storeResult z r) := touches_storeResult touches_rfl r (by decide) (by decide)
  obtain ⟨value, frame⟩ := scmd_done may (hz ▸ writes) (hz ▸ touched) (by decide) (by decide)
  refine ⟨_, rfl, ?_, ?_, frame⟩
  all_goals rw [show regWrite s R.nvmScmd (w32 (2 * 2 ^ 30 + kind.toNat * 2 ^ 16)) = _ from value]
  · rw [fld_wr_ne (by decide), fld_storeResult small]
  · rw [flag_wr_ne (by decide), done_storeResult]

end Newest

/-! ### Commitment (R432) -/

section Commit
variable {s : State} {kind slot seq a b size : Nat} {payload : List Byte} {d : StoreDesc}

/-- The store is no longer under way. -/
def endedStore (s : State) : State := { clrFlag s R.nvmSstat 30 with nvm := { s.nvm with op := none } }

/-- The record stands in its slot, and the other is erased. -/
def committed (s : State) (a b size : Nat) (record : List Byte) : State := flashEraseRange (flashProg (endedStore s) a record) b size

theorem touches_endedStore : Touches [.nvm, .flash] [R.nvmSstat, R.sysIrqstat] s (endedStore s) :=
  touches_nvm (touches_clrFlag touches_rfl _ (by decide)) _ (by decide)

theorem touches_committed {record : List Byte} : Touches [.nvm, .flash] [R.nvmSstat, R.sysIrqstat] s (committed s a b size record) :=
  touches_flashEraseRange (touches_flashProg touches_endedStore _ _ (by decide)) _ _ (by decide)

theorem endedStore_nvm : (endedStore s).nvm = { s.nvm with op := none } := by rw [endedStore]

theorem programmed_nvm {record : List Byte} : (flashProg (endedStore s) a record).nvm = { s.nvm with op := none } := by
  have kept : Touches [.flash] [] (endedStore s) (flashProg (endedStore s) a record) := touches_flashProg touches_rfl _ _ (by decide)
  rw [kept.parts.nvm (by decide), endedStore_nvm]

theorem committed_nvm {record : List Byte} : (committed s a b size record).nvm = { s.nvm with op := none } := by
  have kept : Touches [.flash] [] (flashProg (endedStore s) a record) (committed s a b size record) :=
    touches_flashEraseRange touches_rfl _ _ (by decide)
  rw [kept.parts.nvm (by decide), programmed_nvm]

theorem flashByte_endedStore {x : Nat} : flashByte (endedStore s) x = flashByte s x :=
  flashByte_congr (by rw [endedStore, clrFlag_flash])

theorem recordBytes_parts : recordBytes kind seq payload = recordHead kind seq payload ++ payload := by rw [recordBytes_eq, recordHead]

/-- A record programmed into blank flash reads back. -/
theorem flashBytes_record (blank : ∀ i, i < 32 + payload.length → flashByte s (a + i) = 0xFF) :
    flashBytes (flashProg s a (recordBytes kind seq payload)) a 32 = recordHead kind seq payload ∧
      flashBytes (flashProg s a (recordBytes kind seq payload)) (a + 32) payload.length = payload := by
  rw [recordBytes_parts]
  generalize hh : recordHead kind seq payload = head
  have long : head.length = 32 := hh ▸ length_recordHead
  have clean : ∀ i, i < (head ++ payload).length → flashByte s (a + i) = 0xFF := by
    rw [List.length_append, long]
    exact blank
  have first := flashBytes_flashProg (k := 0) (n := 32) clean (by rw [List.length_append, long]; omega)
  have rest := flashBytes_flashProg (k := 32) (n := payload.length) clean (by rw [List.length_append, long])
  rw [List.drop_zero, List.take_left' long, Nat.add_zero] at first
  rw [List.drop_left' long, List.take_length] at rest
  exact ⟨first, rest⟩

theorem slotRecord_programmed (desc : s.nvm.desc = some d) (place : slotPlace d kind slot = some (a, size)) (small : kind ≤ 15)
    (hs : seq < 2 ^ 32) (hp : payload.length < 2 ^ 32) (fits : 32 + payload.length ≤ size)
    (blank : ∀ i, i < size → flashByte s (a + i) = 0xFF) :
    slotRecord (flashProg (endedStore s) a (recordBytes kind seq payload)) kind slot = some (seq, payload) := by
  obtain ⟨head, tail⟩ := flashBytes_record (s := endedStore s) (kind := kind) (seq := seq) (payload := payload) (a := a)
    fun i hi => flashByte_endedStore.trans (blank i (by omega))
  have here : (flashProg (endedStore s) a (recordBytes kind seq payload)).nvm.desc = some d := by rw [programmed_nvm, desc]
  exact slotRecord_recorded here place small hs hp fits head tail

/-- A slot's record lies in the slot. -/
theorem slotRecord_local {t : State} {k : Nat} (nvm : t.nvm = s.nvm) (desc : s.nvm.desc = some d) (place : slotPlace d kind k = some (a, size))
    (room : 32 ≤ size) (bytes : ∀ i, i < size → flashByte t (a + i) = flashByte s (a + i)) : slotRecord t kind k = slotRecord s kind k := by
  have head : flashBytes t a 32 = flashBytes s a 32 := flashBytes_congr fun i hi => bytes i (by omega)
  unfold slotRecord
  simp only [nvm, desc, place, head]
  by_cases bad : fieldAt (flashBytes s a 32) 0 4 ≠ 0x52534A43 ∨ fieldAt (flashBytes s a 32) 4 1 ≠ kind ∨
      size < 32 + fieldAt (flashBytes s a 32) 12 4
  · rw [if_pos bad, if_pos bad]
  · have tail : flashBytes t (a + 32) (fieldAt (flashBytes s a 32) 12 4) = flashBytes s (a + 32) (fieldAt (flashBytes s a 32) 12 4) :=
      flashBytes_congr fun i hi => by rw [Nat.add_assoc, bytes _ (by omega)]
    rw [if_neg bad, if_neg bad, tail]

theorem finishStore_good {record : List Byte} (desc : s.nvm.desc = some d) (place : slotPlace d kind slot = some (a, size))
    (other : slotPlace d kind (1 - slot) = some (b, size)) (small : kind ≤ 15)
    (good : slotRecord (flashProg (endedStore s) a record) kind slot = some (seq, payload)) :
    finishStore s kind slot seq record true true = storeResult (committed s a b size record) 0 := by
  have desc' : (endedStore s).nvm.desc = some d := by rw [endedStore_nvm]; exact desc
  have notGloss : kind ≠ 0x11 := by omega
  have notMap : kind ≠ 0x10 := by omega
  unfold finishStore
  extract_lets cleared store e
  have ended : e = endedStore s := rfl
  clear_value e
  subst ended
  simp only [desc', place, other, good, notGloss, notMap, decide_true, if_false, if_true, Bool.not_true, Bool.false_eq_true]
  rw [committed]

theorem afterStore_idle (idle : s.gloss.storeWaits = false) : afterStore s = s := by
  rw [afterStore, idle]
  exact if_pos rfl

theorem storeCommit_runs {record : List Byte} {host : Bool} (op : s.nvm.op = some (.store kind slot seq record host))
    (supplied : s.power.vinLow = false) (alone : streamDue s = false) :
    storeCommit s = afterStore (finishStore s kind slot seq record host true) := by
  rw [storeCommit, op]
  simp only [supplied, alone]
  rfl

theorem storeCommit_commits (op : s.nvm.op = some (.store kind slot seq (recordBytes kind seq payload) true)) (supplied : s.power.vinLow = false)
    (waits : s.gloss.storeWaits = false) (alone : streamDue s = false) (desc : s.nvm.desc = some d)
    (place : slotPlace d kind slot = some (a, size)) (other : slotPlace d kind (1 - slot) = some (b, size)) (_ : slot ≤ 1)
    (apart : a + size ≤ b ∨ b + size ≤ a) (small : kind ≤ 15) (hs : seq < 2 ^ 32) (fits : 32 + payload.length ≤ size)
    (hp : payload.length < 2 ^ 32) (blank : ∀ i, i < size → flashByte s (a + i) = 0xFF) (clear : flag s R.nvmSstat 31 = false) :
    ∃ t, exec .storeCommit s = .next t ∧ slotRecord t kind slot = some (seq, payload) ∧ (∀ i, i < size → flashByte t (b + i) = 0xFF) ∧
      (∀ x, (x < a ∨ a + size ≤ x) → (x < b ∨ b + size ≤ x) → flashByte t x = flashByte s x) ∧ t.nvm = { s.nvm with op := none } ∧
      flag t R.nvmSstat 30 = false ∧ fld t R.nvmSstat 23 20 = 0 ∧ flag t R.nvmSstat 31 = true ∧ flag t R.sysIrqstat 10 = true ∧
      Touches [.nvm, .flash] [R.nvmSstat, R.sysIrqstat] s t := by
  obtain ⟨c, hc⟩ : ∃ c, c = committed s a b size (recordBytes kind seq payload) := ⟨_, rfl⟩
  have touched : Touches [.nvm, .flash] [R.nvmSstat, R.sysIrqstat] s c := hc ▸ touches_committed
  have good := slotRecord_programmed desc place small hs hp fits blank
  have result : Touches [] [R.nvmSstat, R.sysIrqstat] c (storeResult c 0) := touches_storeResult touches_rfl 0 (by decide) (by decide)
  have finished : finishStore s kind slot seq (recordBytes kind seq payload) true true = storeResult c 0 := by
    rw [finishStore_good desc place other small good, hc]
  have unmoved : (storeResult c 0).gloss.storeWaits = false := by
    rw [result.parts.gloss (by decide), touched.parts.gloss (by decide), waits]
  have value : exec .storeCommit s = .next (storeResult c 0) := by
    show Host.Outcome.next (storeCommit s) = _
    rw [storeCommit_runs op supplied alone, finished, afterStore_idle unmoved]
  have bytes : ∀ x, flashByte (storeResult c 0) x = flashByte c x := fun x => flashByte_congr (result.parts.flash (by decide))
  have erased : ∀ x, flashByte c x = if b ≤ x ∧ x < b + size then 0xFF else flashByte (flashProg (endedStore s) a (recordBytes kind seq payload)) x :=
    fun x => by rw [hc, committed, flashByte_erased]
  have nvm : (storeResult c 0).nvm = { s.nvm with op := none } := by rw [result.parts.nvm (by decide), hc, committed_nvm]
  have statuses : flag c R.nvmSstat 30 = false ∧ flag c R.nvmSstat 31 = false := by
    have kept : Touches [.flash] [] (endedStore s) c :=
      hc ▸ touches_flashEraseRange (touches_flashProg touches_rfl _ _ (by decide)) _ _ (by decide)
    have flags : ∀ i, flag c R.nvmSstat i = flag (clrFlag s R.nvmSstat 30) R.nvmSstat i := fun i => by
      rw [flag_congr (kept.regs _ (by decide)), endedStore, flag_lit]
    rw [flags, flags]
    exact ⟨flag_clrFlag _ _ _ (by decide), by rw [clrFlag_eq, flag_wrFld_apart (by decide) (by decide) (by decide), clear]⟩
  refine ⟨storeResult c 0, value, ?_, fun i hi => ?_, fun x outside clearOf => ?_, nvm, ?_, fld_storeResult (by decide), done_storeResult,
    irq_storeResult statuses.2, touches_storeResult touched 0 (by decide) (by decide)⟩
  · rw [slotRecord_local (s := flashProg (endedStore s) a (recordBytes kind seq payload)) (nvm.trans programmed_nvm.symm)
      (by rw [programmed_nvm, desc]) place (by omega) fun i hi => by rw [bytes, erased, if_neg (by omega)], good]
  · rw [bytes, erased, if_pos (by omega)]
  · rw [bytes, erased, if_neg (by omega), flashByte_flashProg_apart (by rw [length_recordBytes]; omega), flashByte_endedStore]
  · rw [running_storeResult, statuses.1]

theorem storeCommit_waits (h : storeRunning s = false ∨ s.power.vinLow = true ∨ streamDue s = true) : exec .storeCommit s = .next s := by
  show Host.Outcome.next (storeCommit s) = _
  unfold storeCommit
  split
  · rename_i op
    have held : (s.power.vinLow || streamDue s) = true := by simpa [storeRunning, op] using h
    rw [if_pos held]
  · rfl

end Commit

/-- Settles O51: stores accepted and refused, the newest record, commitment. -/
theorem storeRecords : Obligations.StoreRecords := by
  unfold Obligations.StoreRecords
  exact ⟨fun _ _ _ _ _ _ _ _ => store_accepted, fun _ _ _ _ _ => store_refused, fun _ _ _ _ _ _ => store_weak,
    fun _ _ _ _ => scmd_undefined, fun _ _ _ _ _ => newestRecordRead_reads, fun _ _ _ => newestRecordRead_fails,
    fun _ _ _ _ _ _ _ _ _ => storeCommit_commits, fun _ => storeCommit_waits⟩

end Sys2Proof.Store

/-! PROOFS. What a device keeps while domains turn off (R28, R445, R452). -/

namespace Sys2Proof.Domains
open Sys2Proof.Machine Sys2Proof.Laws Sys2Proof.Architecture Sys2Proof.SerialPorts Sys2Proof.Answers

section Pages
variable {s t u : State} {p a : Nat}

/-- The pages of the domains that may turn off. -/
def lostPages : List Nat :=
  [R.parserPage, R.allocPage, R.evtPage, R.memPage, R.vdbgPage, R.nvmPage, R.mixPage, R.dacPage, R.cvoPage, R.adcPage, R.spPage, R.linkPage,
    R.daiPage]

/-- Registers without those of a page. -/
theorem rd_filtered {regs : List (Nat × Word)} (here : t.regs = regs.filter fun r => pageOf r.1 ≠ p) (before : s.regs = regs)
    (h : pageOf a ≠ p) : rd t a = rd s a := by
  have found := mapGet_filter regs (fun c => decide (pageOf c ≠ p)) a
  rw [rd, here, found, if_pos (decide_eq_true h), ← before, rd]

theorem rd_clearPage (h : pageOf a ≠ p) : rd (clearPage s p) a = rd s a := rd_filtered rfl rfl h

end Pages

/-- From s to t domains turn off, and what belongs to none of them stays: the registers of the other pages but PWR.DOMSTAT, time, the
power state but the pads, and the flash port and the Phrases unless PD3 is among them. -/
structure Shed (deep : Bool) (off : List Nat) (s t : State) : Prop where
  time    : t.time = s.time
  boot    : t.boot = s.boot
  gloss   : t.gloss = s.gloss
  tap     : t.tap = s.tap
  flash   : t.flash = s.flash
  fuse    : t.fuse = s.fuse
  image   : t.image = s.image
  pending : t.pending = s.pending
  power   : t.power = { s.power with pads := t.power.pads }
  nvm     : deep = false → t.nvm = s.nvm
  phrases : deep = false → t.phrases = s.phrases
  domain  : ∀ d, d < 8 → domainOn t d = (domainOn s d && !off.contains d)
  kept    : ∀ a, pageOf a ∉ lostPages → a ≠ R.pwrDomstat → rd t a = rd s a

section Relation
variable {deep : Bool} {off more : List Nat} {s t u : State}

theorem Shed.refl : Shed deep [] s s :=
  ⟨rfl, rfl, rfl, rfl, rfl, rfl, rfl, rfl, rfl, fun _ => rfl, fun _ => rfl, fun _ _ => by simp, fun _ _ _ => rfl⟩

theorem Shed.trans (h : Shed deep off s t) (k : Shed deep more t u) : Shed deep (off ++ more) s u where
  time := k.time.trans h.time
  boot := k.boot.trans h.boot
  gloss := k.gloss.trans h.gloss
  tap := k.tap.trans h.tap
  flash := k.flash.trans h.flash
  fuse := k.fuse.trans h.fuse
  image := k.image.trans h.image
  pending := k.pending.trans h.pending
  power := by rw [k.power, h.power]
  nvm shallow := (k.nvm shallow).trans (h.nvm shallow)
  phrases shallow := (k.phrases shallow).trans (h.phrases shallow)
  domain d hd := by rw [k.domain d hd, h.domain d hd, List.contains_append, Bool.not_or, Bool.and_assoc]
  kept a page other := (k.kept a page other).trans (h.kept a page other)

theorem Shed.deepen (h : Shed false off s t) : Shed deep off s t :=
  { h with nvm := fun _ => h.nvm rfl, phrases := fun _ => h.phrases rfl }

/-- Nothing of what is kept has changed but DOMSTAT above its domain bits. -/
theorem shed_of_touches {ps : List Part} (h : Touches ps [R.pwrDomstat] s t) (bits : ∀ d, d < 8 → domainOn t d = domainOn s d)
    (apart : ∀ p ∈ [Part.time, .boot, .gloss, .tap, .flash, .fuse, .image, .pending, .nvm, .phrases], p ∉ Part.regs :: ps)
    (power : t.power = { s.power with pads := t.power.pads }) : Shed deep [] s t where
  time := h.parts.time (apart _ (by decide))
  boot := h.parts.boot (apart _ (by decide))
  gloss := h.parts.gloss (apart _ (by decide))
  tap := h.parts.tap (apart _ (by decide))
  flash := h.parts.flash (apart _ (by decide))
  fuse := h.parts.fuse (apart _ (by decide))
  image := h.parts.image (apart _ (by decide))
  pending := h.parts.pending (apart _ (by decide))
  power := power
  nvm _ := h.parts.nvm (apart _ (by decide))
  phrases _ := h.parts.phrases (apart _ (by decide))
  domain d hd := by simp [bits d hd]
  kept a _ other := h.regs a (by simpa using other)

end Relation

section Steps
variable {s t : State} {d : Nat}

theorem domainOn_setFlag {i : Nat} (high : 8 ≤ i) (low : i < 32) (hd : d < 8) : domainOn (setFlag s R.pwrDomstat i) d = domainOn s d := by
  rw [domainOn, setFlag_eq, flag_wrFld_apart (Nat.le_refl _) low (by omega), domainOn]

/-- The balls of a domain latch. -/
theorem shed_setFlag {i : Nat} (high : 8 ≤ i) (low : i < 32) : Shed false [] s (setFlag s R.pwrDomstat i) :=
  shed_of_touches (ps := []) (touches_setFlag touches_rfl _ List.mem_cons_self) (fun _ hd => domainOn_setFlag high low hd) (by decide)
    (by rw [setFlag_power])

theorem touches_sdoLevels : Touches [.free] [] s (sdoLevels s).1 := by
  unfold sdoLevels
  refine touches_foldl_fst touches_rfl fun v p _ hv => ?_
  show Touches [.free] [] s (sdoLevel v.1 p).1
  unfold sdoLevel
  split
  · exact hv
  · exact touches_free hv _ (by decide)

theorem padLevels_eq : ∃ x, padLevels s = { (sdoLevels s).1 with power := { (sdoLevels s).1.power with pads := x } } := by
  unfold padLevels
  generalize sdoLevels s = levels
  obtain ⟨u, sdo⟩ := levels
  exact ⟨_, rfl⟩

theorem shed_padLevels : Shed false [] s (padLevels s) := by
  obtain ⟨x, value⟩ := padLevels_eq (s := s)
  have drawn : Touches [.free, .power] [] s (sdoLevels s).1 := touches_mono touches_sdoLevels (by decide) (List.nil_subset _)
  have touched : Touches [.free, .power] [] s (padLevels s) := value ▸ touches_power drawn _ (by decide)
  refine shed_of_touches (touches_mono touched (List.Subset.refl _) (List.nil_subset _))
    (fun _ _ => flag_congr (touched.regs _ List.not_mem_nil)) (by decide) ?_
  rw [value, touches_sdoLevels.parts.power (by decide)]

theorem shed_latchPads (known : d ∈ [1, 2, 3, 4, 5, 6, 7]) : Shed false [] s (latchPads s d) := by
  unfold latchPads
  split
  · rename_i h
    rcases h with rfl | rfl <;> exact shed_setFlag (by decide) (by decide)
  · split
    · split
      · exact Shed.refl
      · exact Shed.trans shed_padLevels (shed_setFlag (by decide) (by decide))
    · exact Shed.refl

theorem domstat_page : pageOf R.pwrDomstat ∉ lostPages := by decide

/-- A state whose registers have lost pages of the domains. -/
theorem rd_lostPage {p a : Nat} (lost : p ∈ lostPages) (h : pageOf a ∉ lostPages) : pageOf a ≠ p := fun same => h (same ▸ lost)

theorem rd_clearPages {ps : List Nat} (lost : ∀ p ∈ ps, p ∈ lostPages) {a : Nat} (h : pageOf a ∉ lostPages) :
    rd (ps.foldl clearPage s) a = rd s a := by
  induction ps generalizing s with
  | nil => rfl
  | cons p ps ih =>
    rw [List.foldl_cons, ih (fun q hq => lost q (List.mem_cons_of_mem _ hq)), rd_clearPage (rd_lostPage (lost p List.mem_cons_self) h)]

/-- What a domain loses, it alone. -/
theorem shed_of_kept {deep : Bool} (time : t.time = s.time) (boot : t.boot = s.boot) (gloss : t.gloss = s.gloss) (tap : t.tap = s.tap)
    (flash : t.flash = s.flash) (fuse : t.fuse = s.fuse) (image : t.image = s.image) (pending : t.pending = s.pending)
    (power : t.power = s.power) (nvm : deep = false → t.nvm = s.nvm) (phrases : deep = false → t.phrases = s.phrases)
    (kept : ∀ a, pageOf a ∉ lostPages → rd t a = rd s a) : Shed deep [] s t :=
  ⟨time, boot, gloss, tap, flash, fuse, image, pending, by rw [power], nvm, phrases,
    fun d _ => by rw [domainOn, flag_congr (kept _ domstat_page), domainOn]; simp, fun a page _ => kept a page⟩

theorem shed_verbs (f : List VerbSt) : Shed false [] s { s with verbs := f } :=
  shed_of_kept rfl rfl rfl rfl rfl rfl rfl rfl rfl (fun _ => rfl) (fun _ => rfl) fun _ _ => rfl

theorem shed_lose3 : Shed true [] s (loseDomain s 3) :=
  shed_of_kept rfl rfl rfl rfl rfl rfl rfl rfl rfl (fun h => absurd h (by decide)) (fun h => absurd h (by decide))
    fun _ h => rd_clearPages (ps := [R.parserPage, R.allocPage, R.evtPage, R.memPage, R.vdbgPage, R.nvmPage]) (by decide) h

theorem shed_lose5 : Shed false [] s (loseDomain s 5) :=
  shed_of_kept rfl rfl rfl rfl rfl rfl rfl rfl rfl (fun _ => rfl) (fun _ => rfl)
    fun _ h => rd_clearPages (ps := [R.mixPage, R.dacPage, R.cvoPage]) (by decide) h

theorem shed_lose6 : Shed false [] s (loseDomain s 6) :=
  shed_of_kept rfl rfl rfl rfl rfl rfl rfl rfl rfl (fun _ => rfl) (fun _ => rfl) fun a h =>
    (rd_filtered (t := loseDomain s 6) (s := clearPage s R.adcPage) rfl rfl (rd_lostPage (by decide) h)).trans
      (rd_clearPage (rd_lostPage (by decide) h))

/-- The ports, links and audio ports as they are at reset. -/
def portsCleared (s : State) : State :=
  resetDai { clearPage (clearPage (clearPage s R.spPage) R.linkPage) R.daiPage with
    sp := List.replicate 8 { txGrid := (nowQuarter s, 0) }, links := List.replicate 4 {}, sys := {} }

theorem shed_lose7 : Shed false [] s (loseDomain s 7) := by
  have value : loseDomain s 7 = familyPorts (portsCleared s) := rfl
  have family := (familyPorts_facts (portsCleared s)).1
  have pages : ∀ a ∈ baudRegs, pageOf a ∈ lostPages := by decide
  rw [value]
  refine shed_of_kept (family.parts.time (by decide)) (family.parts.boot (by decide)) (family.parts.gloss (by decide))
    (family.parts.tap (by decide)) (family.parts.flash (by decide)) (family.parts.fuse (by decide)) (family.parts.image (by decide))
    (family.parts.pending (by decide)) (family.parts.power (by decide)) (fun _ => family.parts.nvm (by decide))
    (fun _ => family.parts.phrases (by decide)) fun a h => ?_
  rw [family.regs a fun member => h (pages a member)]
  exact rd_clearPages (ps := [R.spPage, R.linkPage, R.daiPage]) (by decide) h

theorem shed_loseDomain (known : d ∈ [1, 2, 3, 4, 5, 6, 7]) : Shed (d = 3) [] s (loseDomain s d) := by
  simp only [List.mem_cons, List.not_mem_nil, or_false] at known
  rcases known with rfl | rfl | rfl | rfl | rfl | rfl | rfl
  · exact shed_verbs _
  · exact shed_verbs _
  · exact shed_lose3
  · exact Shed.refl
  · exact shed_lose5
  · exact shed_lose6
  · exact shed_lose7

/-- The domain's bit clears. -/
theorem shed_clrFlag {deep : Bool} (low : d < 8) : Shed deep [d] s (clrFlag s R.pwrDomstat d) := by
  have touched : Touches [] [R.pwrDomstat] s (clrFlag s R.pwrDomstat d) := touches_clrFlag touches_rfl _ List.mem_cons_self
  refine ⟨touched.parts.time (by decide), touched.parts.boot (by decide), touched.parts.gloss (by decide), touched.parts.tap (by decide),
    touched.parts.flash (by decide), touched.parts.fuse (by decide), touched.parts.image (by decide), touched.parts.pending (by decide),
    by rw [clrFlag_power], fun _ => touched.parts.nvm (by decide), fun _ => touched.parts.phrases (by decide), fun e he => ?_,
    fun a _ other => touched.regs a (by simpa using other)⟩
  by_cases same : e = d
  · subst same
    rw [domainOn, flag_clrFlag _ _ _ (by omega)]
    simp
  · rw [domainOn, clrFlag_eq, flag_wrFld_apart (Nat.le_refl _) (by omega) (by omega), domainOn]
    simp [same]

/-- A domain that is off already. -/
theorem shed_off {deep : Bool} (off : domainOn s d = false) : Shed deep [d] s s :=
  { Shed.refl (deep := deep) (s := s) with
    domain := fun e _ => by
      by_cases same : e = d
      · rw [same, off]
        rfl
      · simp [same] }

theorem shed_dropDomain {deep : Bool} (known : d ∈ [1, 2, 3, 4, 5, 6, 7]) (shallow : deep = true ∨ d ≠ 3) :
    Shed deep [d] s (dropDomain s d) := by
  have low : d < 8 := by simp at known; omega
  unfold dropDomain
  split
  · have lost : Shed deep [] s (loseDomain s d) := by
      by_cases three : d = 3
      · have yes : deep = true := shallow.resolve_right (not_not_intro three)
        have here := shed_loseDomain (s := s) known
        rw [decide_eq_true three] at here
        exact yes ▸ here
      · have here := shed_loseDomain (s := s) known
        rw [decide_eq_false three] at here
        exact here.deepen
    exact lost.trans (shed_clrFlag low)
  · exact shed_off (by simpa using ‹¬ domainOn s d = true›)

theorem domainOff_eq (on : domainOn s d = true) : domainOff s d = clrFlag (loseDomain (latchPads s d) d) R.pwrDomstat d := by
  rw [domainOff, on]
  rfl

theorem shed_domainOff {deep : Bool} (known : d ∈ [1, 2, 3, 4, 5, 6, 7]) (shallow : deep = true ∨ d ≠ 3) :
    Shed deep [d] s (domainOff s d) := by
  have low : d < 8 := by simp at known; omega
  by_cases on : domainOn s d = true
  · have latched : Shed deep [] s (latchPads s d) := (shed_latchPads known).deepen
    have still : domainOn (latchPads s d) d = true := by rw [latched.domain d low, on]; rfl
    have dropped : Shed deep [d] (latchPads s d) (clrFlag (loseDomain (latchPads s d) d) R.pwrDomstat d) := by
      have drop := shed_dropDomain (s := latchPads s d) known shallow
      rwa [dropDomain, if_pos still] at drop
    rw [domainOff_eq on]
    exact latched.trans dropped
  · rw [domainOff, if_pos (by simp [on])]
    exact shed_off (by simpa using on)

/-- Several domains turn off one after the other. -/
theorem shed_all {deep : Bool} {f : State → Nat → State} {ds : List Nat} (step : ∀ u d, d ∈ ds → Shed deep [d] u (f u d)) :
    Shed deep ds s (ds.foldl f s) := by
  induction ds generalizing s with
  | nil => exact Shed.refl
  | cons d ds ih =>
    exact (step s d List.mem_cons_self).trans (ih fun u e he => step u e (List.mem_cons_of_mem _ he))

end Steps

end Sys2Proof.Domains

/-! PROOFS. What each reset leaves (R434, R441, R443, R444). -/

namespace Sys2Proof.Resets
open Sys2Proof.Machine Sys2Proof.Laws Sys2Proof.Architecture Sys2Proof.SerialPorts Sys2Proof.Answers Sys2Proof.Supply Sys2Proof.Domains

/-! ### The state a reset leaves (R443) -/

section Left
variable {s t : State} {cause a b vin : Nat}

/-- What the power-on reset keeps. -/
def cold (s : State) : State :=
  { pending := s.pending, free := s.free, flash := s.flash, fuse := s.fuse, power := { vinGood := s.power.vinGood.map fun _ => 0 } }

/-- Is an address in the Gloss bank. -/
def inBank (a : Nat) : Bool := glossBank.1 ≤ a && a < glossBank.2

/-- What the other resets keep. -/
def warm (s : State) : State :=
  { pending := s.pending, free := s.free, flash := s.flash, fuse := s.fuse, tap := s.tap,
    power := { vinGood := s.power.vinGood.map fun _ => 0 },
    mem := s.mem.filter fun c => inBank c.1, ecc := s.ecc.filter fun c => inBank c.1,
    memint := { aoMap := s.memint.aoMap, used := s.memint.used, unstored := s.memint.unstored },
    gloss := { kcount := s.gloss.kcount, rhead := s.gloss.rhead, wrap := s.gloss.wrap, valid := s.gloss.valid, pd0 := s.gloss.pd0,
               pd0Lost := s.gloss.pd0Lost } }

/-- VIN and the cause are shown. -/
def shown (t : State) (vin cause : Nat) : State := wrFld (wrFld t R.pwrVin 15 0 vin) R.pwrRstcause 1 0 cause

theorem interruptFuse_none (idle : s.fuse.prog = none) : interruptFuse s = s := by rw [interruptFuse, idle]

theorem deviceReset_cold (idle : s.fuse.prog = none) : deviceReset s 0 = shown (cold s) (fld s R.pwrVin 15 0) 0 := by
  unfold deviceReset
  rw [interruptFuse_none idle]
  rfl

/-- The state before a brown-out notes the least VIN. -/
def warmed (s : State) (cause : Nat) : State :=
  shown (wrFld (warm s) R.pwrVinmin 15 0 (fld s R.pwrVinmin 15 0)) (fld s R.pwrVin 15 0) cause

theorem deviceReset_warm (idle : s.fuse.prog = none) (known : cause ≠ 0) : deviceReset s cause =
    if cause = 1 then wrFld (warmed s cause) R.pwrRstcause 31 16 (fld s R.pwrVinmin 15 0) else warmed s cause := by
  unfold deviceReset
  rw [interruptFuse_none idle]
  simp only [ne_eq, known, not_false_eq_true, decide_true, if_true, Bool.not_true, Bool.false_eq_true, if_false]
  rfl

/-- The registers of a fresh state. -/
theorem rd_fresh (fresh : s.regs = []) : rd s a = regReset a := by rw [rd, fresh, mapGet, Option.getD_none]

theorem touches_shown : Touches [] [R.pwrVin, R.pwrVinmin, R.pwrRstcause] s (shown s vin cause) :=
  touches_wrFld (touches_wrFld touches_rfl _ _ _ (by decide)) _ _ _ (by decide)

theorem touches_warmed : Touches [] [R.pwrVin, R.pwrVinmin, R.pwrRstcause] (warm s) (warmed s cause) :=
  touches_trans (touches_wrFld touches_rfl _ _ _ (by decide)) touches_shown

theorem touches_deviceReset (idle : s.fuse.prog = none) (known : cause ≠ 0) :
    Touches [] [R.pwrVin, R.pwrVinmin, R.pwrRstcause] (warm s) (deviceReset s cause) := by
  rw [deviceReset_warm idle known]
  exact touches_ite (touches_wrFld touches_warmed _ _ _ (by decide)) touches_warmed

theorem cause_deviceReset (idle : s.fuse.prog = none) (known : cause ≠ 0) (small : cause < 4) :
    fld (deviceReset s cause) R.pwrRstcause 1 0 = cause := by
  have here : fld (warmed s cause) R.pwrRstcause 1 0 = cause := fld_wrFld_fits (by decide) (by decide) small
  rw [deviceReset_warm idle known]
  split
  · rw [fld_wrFld_apart (by decide) (by decide) (by decide) (by decide), here]
  · exact here

theorem vin_deviceReset (idle : s.fuse.prog = none) (known : cause ≠ 0) : fld (deviceReset s cause) R.pwrVin 15 0 = fld s R.pwrVin 15 0 := by
  have fits : fld s R.pwrVin 15 0 < 2 ^ 16 := Nat.mod_lt _ (by decide)
  have here : fld (warmed s cause) R.pwrVin 15 0 = fld s R.pwrVin 15 0 := by
    rw [warmed, shown, fld_wrFld_ne (by decide), fld_wrFld_fits (by decide) (by decide) fits]
  rw [deviceReset_warm idle known]
  split
  · rw [fld_wrFld_ne (by decide), here]
  · exact here

theorem vinmin_deviceReset (idle : s.fuse.prog = none) (known : cause ≠ 0) :
    fld (deviceReset s cause) R.pwrVinmin 15 0 = fld s R.pwrVinmin 15 0 := by
  have fits : fld s R.pwrVinmin 15 0 < 2 ^ 16 := Nat.mod_lt _ (by decide)
  have here : fld (warmed s cause) R.pwrVinmin 15 0 = fld s R.pwrVinmin 15 0 := by
    rw [warmed, shown, fld_wrFld_ne (by decide), fld_wrFld_ne (by decide), fld_wrFld_fits (by decide) (by decide) fits]
  rw [deviceReset_warm idle known]
  split
  · rw [fld_wrFld_ne (by decide), here]
  · exact here

theorem least_deviceReset (idle : s.fuse.prog = none) : fld (deviceReset s 1) R.pwrRstcause 31 16 = fld s R.pwrVinmin 15 0 := by
  have fits : fld s R.pwrVinmin 15 0 < 2 ^ 16 := Nat.mod_lt _ (by decide)
  rw [deviceReset_warm idle (by decide), if_pos rfl, fld_wrFld_fits (by decide) (by decide) fits]

theorem regs_deviceReset (idle : s.fuse.prog = none) (known : cause ≠ 0) (h : a ∉ [R.pwrVin, R.pwrVinmin, R.pwrRstcause]) :
    rd (deviceReset s cause) a = regReset a := by
  rw [(touches_deviceReset idle known).regs a h]
  exact rd_fresh rfl

/-- Memory outside the Gloss bank reads 0 after a reset that keeps the bank (log 11). -/
theorem memByte_warm : memByte (warm s) b = if inBank b then memByte s b else 0 := by
  have found := mapGet_filter s.mem inBank b
  unfold memByte warm
  simp only [found]
  split <;> rfl

theorem memByte_deviceReset (idle : s.fuse.prog = none) (known : cause ≠ 0) :
    memByte (deviceReset s cause) b = if inBank b then memByte s b else 0 := by
  rw [memByte_of_mem ((touches_deviceReset idle known).parts.mem (by decide)), memByte_warm]

theorem inBank_iff : inBank b = true ↔ 0x015C0000 ≤ b ∧ b < 0x01600000 := by
  rw [inBank, glossBank, Bool.and_eq_true, decide_eq_true_eq, decide_eq_true_eq]

theorem touches_warm : Touches [.mem, .ecc, .memint, .gloss, .pending, .flash, .fuse, .free, .tap, .power] [] State.reset (warm s) := by
  have stores : Touches [.mem, .ecc, .memint, .gloss, .pending, .flash, .fuse, .free, .tap, .power] [] State.reset (cold s) :=
    touches_power (touches_fuse (touches_flash (touches_free (touches_pending touches_rfl s.pending (by decide)) s.free (by decide)) s.flash
      (by decide)) s.fuse (by decide)) _ (by decide)
  have memories := touches_stored (touches_tap stores s.tap (by decide)) (s.mem.filter fun c => inBank c.1) (s.ecc.filter fun c => inBank c.1)
    (by decide) (by decide)
  exact touches_gloss (touches_memint memories _ (by decide)) _ (by decide)

/-- A power-on reset measures how long VIN has been good anew. -/
def measured (s : State) : State := { cold s with power := {} }

theorem touches_measured : Touches [.pending, .flash, .fuse, .free] [] State.reset (measured s) :=
  touches_fuse (touches_flash (touches_free (touches_pending touches_rfl s.pending (by decide)) s.free (by decide)) s.flash (by decide)) s.fuse
    (by decide)

theorem shown_power {p : PowerSt} : { shown t vin cause with power := p } = shown { t with power := p } vin cause := rfl

end Left

/-! ### The resets of a pin, of software, and at power-on (R443) -/

section Reset
variable {s : State} {cause : Nat}

theorem powerOnReset_eq {vin : Nat} (idle : s.fuse.prog = none) : powerOnReset s vin =
    wrFld (wrFld (shown (measured s) (fld s R.pwrVin 15 0) 0) R.pwrVin 15 0 vin) R.pwrVinmin 15 0 vin := by
  rw [powerOnReset, deviceReset_cold idle, shown_power, measured]

theorem exec_powerOnReset {vin : BitVec 16} : exec (.powerOnReset vin) s = .next (powerOnReset s vin.toNat) := rfl

/-- The cause 0 is what the register holds at reset. -/
theorem rd_shown_zero {a vin : Nat} (fresh : s.regs = []) (h : a ≠ R.pwrVin) : rd (shown s vin 0) a = regReset a := by
  by_cases cause : a = R.pwrRstcause
  · rw [cause, shown, wrFld, rd_wr, wrFld, rd_wr_ne _ _ _ _ (by decide), rd_fresh fresh]
    decide
  · rw [shown, wrFld, rd_wr_ne _ _ _ _ cause, wrFld, rd_wr_ne _ _ _ _ h, rd_fresh fresh]

theorem powerOnReset_clears {vin : BitVec 16} (idle : s.fuse.prog = none) :
    ∃ t, exec (.powerOnReset vin) s = .next t ∧ fld t R.pwrVin 15 0 = vin.toNat ∧ fld t R.pwrVinmin 15 0 = vin.toNat ∧
      (∀ a, a ≠ R.pwrVin → a ≠ R.pwrVinmin → rd t a = regReset a) ∧ t.pending = s.pending ∧ t.flash = s.flash ∧ t.fuse = s.fuse ∧
      Changes [.regs, .pending, .flash, .fuse, .free] State.reset t := by
  obtain ⟨u, hu⟩ : ∃ u, u = shown (measured s) (fld s R.pwrVin 15 0) 0 := ⟨_, rfl⟩
  have shows : Touches [] [R.pwrVin, R.pwrVinmin, R.pwrRstcause] (measured s) (wrFld (wrFld u R.pwrVin 15 0 vin.toNat) R.pwrVinmin 15 0 vin.toNat) :=
    touches_wrFld (touches_wrFld (hu ▸ touches_shown) _ _ _ (by decide)) _ _ _ (by decide)
  have fits : vin.toNat < 2 ^ 16 := vin.isLt
  refine ⟨_, by rw [exec_powerOnReset, powerOnReset_eq idle, ← hu], ?_, ?_, fun a other least => ?_, ?_, ?_, ?_, ?_⟩
  · rw [fld_wrFld_ne (by decide), fld_wrFld_fits (by decide) (by decide) fits]
  · rw [fld_wrFld_fits (by decide) (by decide) fits]
  · rw [wrFld, rd_wr_ne _ _ _ _ least, wrFld, rd_wr_ne _ _ _ _ other, hu, rd_shown_zero rfl other]
  · exact shows.parts.pending (by decide)
  · exact shows.parts.flash (by decide)
  · exact shows.parts.fuse (by decide)
  · exact (touches_trans (rs := [R.pwrVin, R.pwrVinmin, R.pwrRstcause]) (touches_mono touches_measured (List.Subset.refl _) (List.nil_subset _))
      (touches_mono shows (List.nil_subset _) (List.Subset.refl _))).parts

/-- A device just reset is awake. -/
theorem asleep_deviceReset (idle : s.fuse.prog = none) (known : cause ≠ 0) : asleep (deviceReset s cause) = false := by
  have quiet : fld (warm s) R.pwrStat 2 0 = 0 := by
    rw [fld, rd_fresh rfl]
    decide
  rw [asleep_touches (touches_deviceReset idle known) (by decide), asleep, quiet]
  rfl

/-- SOFTWARE_RESET is the reset of cause 3. -/
theorem exec_softwareReset (idle : s.fuse.prog = none) (may : HostMayWrite s R.pwrCmd) (free : flag s R.pwrStat 3 = false) :
    exec .softwareReset s = .next (deviceReset s 3) := by
  have value : bits (w32 (0x5A000000 + 4)) 31 24 = 0x5A ∧ bits (w32 (0x5A000000 + 4)) 2 0 = 4 := by decide
  have desc : (regDesc R.pwrCmd).isSome = true := by decide
  obtain ⟨d, row⟩ := Option.isSome_iff_exists.1 desc
  have region : regionOf R.pwrCmd = .page := by decide
  have written : writeWord32 s 0 R.pwrCmd (w32 (0x5A000000 + 4)) = (deviceReset s 3, false) := by
    rw [writeWord32, region]
    unfold writeReg
    simp only [may.domain, row, free, value]
    rw [if_neg (by decide), if_neg (by decide), if_pos ⟨trivial, trivial, trivial, Bool.false_ne_true⟩]
  have stays : afterHost (deviceReset s 3) R.pwrCmd (w32 (0x5A000000 + 4)) = deviceReset s 3 := by
    unfold afterHost
    rw [if_neg (by decide), if_neg (by simp [R.pwrCmd, R.linkRctl]), startWake_awake _ _ (asleep_deviceReset idle (by decide))]
  have whole : regWrite s R.pwrCmd (w32 (0x5A000000 + 4)) = deviceReset s 3 := by
    rw [regWrite, hostWrite, may.tap, if_neg Bool.false_ne_true, written]
    exact stays
  show Host.Outcome.next (regWrite s R.pwrCmd (w32 (0x5A000000 + 4))) = _
  rw [whole]

theorem reset_keeps {c : Instr} (idle : s.fuse.prog = none) (h : (c = .pinReset ∧ cause = 2) ∨
      (c = .softwareReset ∧ cause = 3 ∧ HostMayWrite s R.pwrCmd ∧ flag s R.pwrStat 3 = false)) :
    ∃ t, exec c s = .next t ∧ fld t R.pwrRstcause 1 0 = cause ∧ fld t R.pwrVin 15 0 = fld s R.pwrVin 15 0 ∧
      fld t R.pwrVinmin 15 0 = fld s R.pwrVinmin 15 0 ∧
      (∀ a, a ∉ [R.pwrVin, R.pwrVinmin, R.pwrRstcause] → rd t a = regReset a) ∧ t.pending = s.pending ∧ t.flash = s.flash ∧
      t.fuse = s.fuse ∧ t.tap = s.tap ∧
      t.memint = { aoMap := s.memint.aoMap, used := s.memint.used, unstored := s.memint.unstored } ∧
      (t.gloss.kcount = s.gloss.kcount ∧ t.gloss.rhead = s.gloss.rhead ∧ t.gloss.wrap = s.gloss.wrap ∧ t.gloss.valid = s.gloss.valid) ∧
      (∀ b, 0x015C0000 ≤ b → b < 0x01600000 → memByte t b = memByte s b) ∧
      (∀ b, b < 0x015C0000 ∨ 0x01600000 ≤ b → memByte t b = 0) ∧
      t.power = { vinGood := s.power.vinGood.map fun _ => 0 } ∧
      Changes [.regs, .mem, .ecc, .memint, .gloss, .pending, .flash, .fuse, .free, .tap, .power] State.reset t := by
  have known : cause ≠ 0 ∧ cause < 4 := by rcases h with ⟨-, rfl⟩ | ⟨-, rfl, -⟩ <;> decide
  have value : exec c s = .next (deviceReset s cause) := by
    rcases h with ⟨rfl, rfl⟩ | ⟨rfl, rfl, may, free⟩
    · rfl
    · exact exec_softwareReset idle may free
  have kept := touches_deviceReset idle known.1
  have gloss : (deviceReset s cause).gloss = (warm s).gloss := kept.parts.gloss (by decide)
  refine ⟨_, value, cause_deviceReset idle known.1 known.2, vin_deviceReset idle known.1, vinmin_deviceReset idle known.1,
    fun a h => regs_deviceReset idle known.1 h, kept.parts.pending (by decide), kept.parts.flash (by decide), kept.parts.fuse (by decide),
    kept.parts.tap (by decide), kept.parts.memint (by decide), by rw [gloss]; exact ⟨rfl, rfl, rfl, rfl⟩, fun b low high => ?_, fun b out => ?_,
    kept.parts.power (by decide), ?_⟩
  · rw [memByte_deviceReset idle known.1, if_pos (inBank_iff.2 ⟨low, high⟩)]
  · rw [memByte_deviceReset idle known.1, if_neg (by rw [inBank_iff]; omega)]
  · exact (touches_trans (rs := [R.pwrVin, R.pwrVinmin, R.pwrRstcause]) (touches_mono touches_warm (List.Subset.refl _) (List.nil_subset _))
      (touches_mono kept (List.nil_subset _) (List.Subset.refl _))).parts

end Reset

/-! ### Brown-out (R434, R441) -/

/-- A part that is the same after all is no change. -/
theorem changes_without_power {ps : List Part} {s t : State} (h : Changes (ps ++ [.power]) s t) (same : t.power = s.power) : Changes ps s t := by
  have other : ∀ p, p ≠ Part.power → p ∉ ps → p ∉ ps ++ [.power] := by
    intro p apart absent member
    rcases List.mem_append.1 member with h | h
    · exact absent h
    · exact apart (List.mem_singleton.1 h)
  exact ⟨fun k => h.time (other _ (by decide) k), fun k => h.host (other _ (by decide) k), fun k => h.regs (other _ (by decide) k),
    fun k => h.staged (other _ (by decide) k), fun k => h.mem (other _ (by decide) k), fun k => h.ecc (other _ (by decide) k),
    fun k => h.memint (other _ (by decide) k), fun k => h.gloss (other _ (by decide) k), fun k => h.evt (other _ (by decide) k),
    fun k => h.syns (other _ (by decide) k), fun k => h.decls (other _ (by decide) k), fun k => h.phrases (other _ (by decide) k),
    fun k => h.alloc (other _ (by decide) k), fun k => h.verbs (other _ (by decide) k), fun k => h.parser (other _ (by decide) k),
    fun k => h.ended (other _ (by decide) k), fun k => h.boot (other _ (by decide) k), fun k => h.tense (other _ (by decide) k),
    fun k => h.timers (other _ (by decide) k), fun k => h.analog (other _ (by decide) k), fun k => h.pins (other _ (by decide) k),
    fun _ => same, fun k => h.sp (other _ (by decide) k), fun k => h.sys (other _ (by decide) k), fun k => h.links (other _ (by decide) k),
    fun k => h.dai (other _ (by decide) k), fun k => h.flash (other _ (by decide) k), fun k => h.nvm (other _ (by decide) k),
    fun k => h.image (other _ (by decide) k), fun k => h.fuse (other _ (by decide) k), fun k => h.tap (other _ (by decide) k),
    fun k => h.free (other _ (by decide) k), fun k => h.pending (other _ (by decide) k)⟩

section Brownout
variable {s : State} {vin : BitVec 16}

theorem fallsBelow_eq {v level : Nat} : fallsBelow s v level = decide (v < level ∧ lastVin s < level) := by
  rw [fallsBelow, Bool.decide_and, Bool.and_comm]

theorem exec_brownoutReset : exec (.brownoutReset vin) s =
    if ¬ (vin.toNat < 3900 ∧ lastVin s < 3900) then .next (showVin s vin.toNat)
    else if vin.toNat < 2700 ∧ lastVin s < 2700 then .next (powerOnReset s vin.toNat)
    else if storeRunning (showVin s vin.toNat) then .next (deferReset (showVin s vin.toNat)) else .next (deviceReset (showVin s vin.toNat) 1) := by
  show execBrownoutReset vin s = _
  unfold execBrownoutReset
  simp only [fallsBelow_eq, Bool.not_eq_true', decide_eq_false_iff_not, decide_eq_true_eq]

theorem storeRunning_showVin {v : Nat} : storeRunning (showVin s v) = storeRunning s := by
  rw [storeRunning, touches_showVin.parts.nvm (by decide), storeRunning]

theorem brownoutReset_resets (idle : s.fuse.prog = none) (above : 2700 ≤ vin.toNat ∨ 2700 ≤ lastVin s) (below : vin.toNat < 3900)
    (before : lastVin s < 3900) (still : storeRunning s = false) :
    ∃ t, exec (.brownoutReset vin) s = .next t ∧ fld t R.pwrRstcause 1 0 = 1 ∧ fld t R.pwrVin 15 0 = vin.toNat ∧
      fld t R.pwrVinmin 15 0 = min vin.toNat (fld s R.pwrVinmin 15 0) ∧ fld t R.pwrRstcause 31 16 = fld t R.pwrVinmin 15 0 ∧
      (∀ a, a ∉ [R.pwrVin, R.pwrVinmin, R.pwrRstcause] → rd t a = regReset a) ∧ t.pending = s.pending ∧ t.flash = s.flash ∧
      t.fuse = s.fuse ∧ (∀ b, 0x015C0000 ≤ b → b < 0x01600000 → memByte t b = memByte s b) ∧
      Changes [.regs, .mem, .ecc, .memint, .gloss, .pending, .flash, .fuse, .free, .tap] State.reset t := by
  obtain ⟨u, hu⟩ : ∃ u, u = showVin s vin.toNat := ⟨_, rfl⟩
  have sampledOnly : Touches [.power] [R.pwrVin, R.pwrVinmin] s u := hu ▸ touches_showVin
  have unprogrammed : u.fuse.prog = none := by rw [sampledOnly.parts.fuse (by decide), idle]
  have value : exec (.brownoutReset vin) s = .next (deviceReset u 1) := by
    rw [exec_brownoutReset, if_neg (not_not_intro ⟨below, before⟩), if_neg (by omega), storeRunning_showVin, still,
      if_neg Bool.false_ne_true, hu]
  have kept := touches_deviceReset (cause := 1) unprogrammed (by decide)
  have fresh : u.power.vinGood = none := by
    rw [hu, showVin_power, sampled, vinSince]
    dsimp only
    rw [if_neg (by omega), if_pos (by omega)]
  have least : fld u R.pwrVinmin 15 0 = min vin.toNat (fld s R.pwrVinmin 15 0) := by rw [hu, vinmin_showVin vin.isLt]
  refine ⟨_, value, cause_deviceReset unprogrammed (by decide) (by decide), ?_, ?_, ?_, fun a h => regs_deviceReset unprogrammed (by decide) h,
    (kept.parts.pending (by decide)).trans (sampledOnly.parts.pending (by decide)),
    (kept.parts.flash (by decide)).trans (sampledOnly.parts.flash (by decide)),
    (kept.parts.fuse (by decide)).trans (sampledOnly.parts.fuse (by decide)), fun b low high => ?_, ?_⟩
  · rw [vin_deviceReset unprogrammed (by decide), hu, vin_showVin vin.isLt]
  · rw [vinmin_deviceReset unprogrammed (by decide), least]
  · rw [least_deviceReset unprogrammed, vinmin_deviceReset unprogrammed (by decide)]
  · rw [memByte_deviceReset unprogrammed (by decide), if_pos (inBank_iff.2 ⟨low, high⟩), memByte_of_mem (sampledOnly.parts.mem (by decide))]
  · have empty : (warm u).power = State.reset.power := by
      unfold warm
      rw [fresh]
      rfl
    have whole : Touches [.mem, .ecc, .memint, .gloss, .pending, .flash, .fuse, .free, .tap, .power] [R.pwrVin, R.pwrVinmin, R.pwrRstcause]
        State.reset (deviceReset u 1) :=
      touches_trans (touches_mono touches_warm (List.Subset.refl _) (List.nil_subset _)) (touches_mono kept (List.nil_subset _) (List.Subset.refl _))
    have power : (deviceReset u 1).power = State.reset.power := (kept.parts.power (by decide)).trans empty
    exact changes_without_power whole.parts power

/-- Rendering ends. -/
def unrendered (s : State) : State := emptyBanks { s with phrases := [], time := { s.time with rendering := false } }

/-- The outputs park at once. -/
def parked (s : State) : State := (List.range 8).foldl cvClose (closeAllParks s)

/-- What a store that runs leaves of the device, before the domains turn off. -/
def darkened (s : State) : State := { parked (unrendered s) with power := { (parked (unrendered s)).power with vinLow := true } }

theorem deferReset_eq : deferReset s = [1, 2, 4, 5, 6, 7].foldl domainOff (darkened s) := by
  rw [deferReset, darkened, parked, unrendered]

theorem touches_emptyBanks {ps : List Part} {rs : List Nat} {t : State} (h : Touches ps rs s t) (verbs : Part.verbs ∈ Part.regs :: ps)
    (ended : Part.ended ∈ Part.regs :: ps) : Touches ps rs s (emptyBanks t) := by
  have value : emptyBanks t = { { t with verbs := (emptyBanks t).verbs } with ended := [] } := rfl
  rw [value]
  exact touches_ended (touches_verbs h _ verbs) _ ended

theorem touches_parked : Touches [.analog] [] s (parked s) := by
  have parks : Touches [.analog] [] s (closeAllParks s) :=
    touches_foldl touches_rfl fun _ _ _ hu => touches_ite (touches_analog (touches_analog hu _ (by decide)) _ (by decide)) (touches_analog hu _ (by decide))
  exact touches_foldl parks fun _ _ _ hu => touches_analog hu _ (by decide)

theorem touches_darkened : Touches [.phrases, .time, .verbs, .ended, .analog, .power] [] s (darkened s) := by
  have stopped : Touches [.phrases, .time, .verbs, .ended, .analog, .power] [] s { s with phrases := [], time := { s.time with rendering := false } } := by
    have freed : Touches [.phrases, .time, .verbs, .ended, .analog, .power] [] s { s with phrases := [] } := touches_phrases touches_rfl _ (by decide)
    have stopped := touches_time freed { s.time with rendering := false } (by decide)
    exact stopped
  have empty : Touches [.phrases, .time, .verbs, .ended, .analog, .power] [] s (unrendered s) :=
    touches_emptyBanks stopped (by decide) (by decide)
  exact touches_power (touches_trans empty (touches_mono touches_parked (by decide) (List.Subset.refl _))) _ (by decide)

theorem darkened_stops : (darkened s).time.rendering = false ∧ (darkened s).phrases = [] ∧ (darkened s).power.vinLow = true := by
  have still := touches_parked (s := unrendered s)
  have time : (darkened s).time = (unrendered s).time := by
    unfold darkened
    dsimp only
    exact still.parts.time (by decide)
  have phrases : (darkened s).phrases = (unrendered s).phrases := by
    unfold darkened
    dsimp only
    exact still.parts.phrases (by decide)
  have low : (darkened s).power.vinLow = true := by
    unfold darkened
    dsimp only
  exact ⟨by rw [time, unrendered, emptyBanks], by rw [phrases, unrendered, emptyBanks], low⟩

theorem brownoutReset_defers (above : 2700 ≤ vin.toNat ∨ 2700 ≤ lastVin s) (below : vin.toNat < 3900) (before : lastVin s < 3900)
    (running : storeRunning s = true) :
    ∃ t, exec (.brownoutReset vin) s = .next t ∧ t.power.vinLow = true ∧ t.nvm = s.nvm ∧ t.time.rendering = false ∧ t.phrases = [] ∧
      (∀ d ∈ [1, 2, 4, 5, 6, 7], domainOn t d = false) ∧ domainOn t 3 = domainOn s 3 ∧ t.pending = s.pending := by
  obtain ⟨u, hu⟩ : ∃ u, u = showVin s vin.toNat := ⟨_, rfl⟩
  have sampledOnly : Touches [.power] [R.pwrVin, R.pwrVinmin] s u := hu ▸ touches_showVin
  have value : exec (.brownoutReset vin) s = .next (deferReset u) := by
    rw [exec_brownoutReset, if_neg (not_not_intro ⟨below, before⟩), if_neg (by omega), storeRunning_showVin, running, if_pos rfl, hu]
  have off : Shed false [1, 2, 4, 5, 6, 7] (darkened u) (deferReset u) :=
    deferReset_eq ▸ shed_all fun _ _ hd => shed_domainOff (by revert hd; simp; omega) (.inr (by rintro rfl; simp at hd))
  obtain ⟨stopped, empty, low⟩ := darkened_stops (s := u)
  have dark := touches_darkened (s := u)
  refine ⟨_, value, ?_, ?_, ?_, ?_, fun d hd => ?_, ?_, ?_⟩
  · rw [off.power]
    exact low
  · rw [off.nvm rfl, dark.parts.nvm (by decide), sampledOnly.parts.nvm (by decide)]
  · rw [off.time, stopped]
  · rw [off.phrases rfl, empty]
  · rw [off.domain d (by simp at hd; omega), List.contains_iff_mem.2 hd]
    simp
  · have gone : ([1, 2, 4, 5, 6, 7] : List Nat).contains 3 = false := by decide
    rw [off.domain 3 (by decide), gone, domainOn, flag_congr (dark.regs _ List.not_mem_nil), flag_congr (sampledOnly.regs _ (by decide)), domainOn]
    simp
  · rw [off.pending, dark.parts.pending (by decide), sampledOnly.parts.pending (by decide)]

/-- Below 2.70 V it is the power-on reset. -/
theorem brownoutReset_powerOn (below : vin.toNat < 2700) (before : lastVin s < 2700) :
    ∃ t, exec (.powerOnReset vin) s = .next t ∧ exec (.brownoutReset vin) s = .next t := by
  refine ⟨powerOnReset s vin.toNat, rfl, ?_⟩
  rw [exec_brownoutReset, if_neg (by omega), if_pos ⟨below, before⟩]

theorem brownoutReset_shows (above : 3900 ≤ vin.toNat ∨ 3900 ≤ lastVin s) :
    ∃ t, exec (.brownoutReset vin) s = .next t ∧ fld t R.pwrVin 15 0 = vin.toNat ∧
      fld t R.pwrVinmin 15 0 = min vin.toNat (fld s R.pwrVinmin 15 0) ∧ t.power = sampled s vin.toNat ∧
      Touches [.power] [R.pwrVin, R.pwrVinmin] s t := by
  refine ⟨showVin s vin.toNat, ?_, vin_showVin vin.isLt, vinmin_showVin vin.isLt, showVin_power, touches_showVin⟩
  rw [exec_brownoutReset, if_pos (by omega)]

end Brownout

/-! ### A store on the hold-up (R434) -/

section Holdup
variable {ps : List Part} {rs : List Nat} {s t : State} {kind slot seq a size b : Nat} {record : List Byte} {host ahead : Bool}

theorem flashProg_congr (h : t.flash = s.flash) : (flashProg t a record).flash = (flashProg s a record).flash := by
  induction record generalizing s t a with
  | nil => exact h
  | cons x xs ih =>
    rw [Flash.flashProg_cons, Flash.flashProg_cons]
    refine ih ?_
    show { t.flash with bytes := mapSet t.flash.bytes 0xFF a (flashByte t a &&& x) } = _
    rw [h, Flash.flashByte_congr h]

/-- Does the record read back with its number. -/
def readsBack (s : State) (kind slot seq : Nat) : Bool := match slotRecord s kind slot with | some (q, _) => q = seq | none => false

/-- The record and the erase of a store that ends. -/
def stored (s : State) (kind slot seq a size b : Nat) (record : List Byte) (ahead : Bool) : State :=
  if !readsBack (flashProg s a record) kind slot seq then
    flashEraseRange (flashProg s a record) a size
  else if ahead then flashEraseRange (flashProg s a record) b size else flashProg s a record

theorem touches_stored (h : Touches ps rs s t) (flash : Part.flash ∈ Part.regs :: ps) : Touches ps rs s (stored t kind slot seq a size b record ahead) := by
  have programmed : Touches ps rs s (flashProg t a record) := Flash.touches_flashProg h a record flash
  exact touches_ite (Flash.touches_flashEraseRange programmed a size flash)
    (touches_ite (Flash.touches_flashEraseRange programmed b size flash) programmed)

theorem stored_flash (nvm : t.nvm = s.nvm) (flash : t.flash = s.flash) :
    (stored t kind slot seq a size b record ahead).flash = (stored s kind slot seq a size b record ahead).flash := by
  have bytes := flashProg_congr (a := a) (record := record) flash
  have programmed : ∀ u : State, (flashProg u a record).nvm = u.nvm := fun u =>
    (Flash.touches_flashProg (ps := [.flash]) (rs := []) touches_rfl a record (by decide)).parts.nvm (by decide)
  have same : slotRecord (flashProg t a record) kind slot = slotRecord (flashProg s a record) kind slot :=
    Store.slotRecord_congr (by rw [programmed, programmed, nvm]) bytes
  have erased : ∀ c n, (flashEraseRange (flashProg t a record) c n).flash = (flashEraseRange (flashProg s a record) c n).flash := by
    intro c n
    rw [flashEraseRange, flashEraseRange, bytes]
  rw [stored, stored, readsBack, same, ← readsBack]
  split
  · exact erased a size
  · split
    · exact erased b size
    · exact bytes

theorem touches_closeGap (h : Touches ps rs s t) (gloss : Part.gloss ∈ Part.regs :: ps) (counted : glossRegs ⊆ rs) :
    Touches ps rs s (closeGap t) := by
  unfold closeGap
  split
  · exact h
  · have closed : Touches ps rs s (onGloss t fun x => { x with gap := none }) := Recorder.touches_onGloss h _ gloss
    exact touches_ite (touches_glossEnqueue closed _ gloss) (touches_glossLose closed _ gloss (counted (by decide)))

theorem touches_endStoring (h : Touches ps rs s t) (gloss : Part.gloss ∈ Part.regs :: ps) (counted : glossRegs ⊆ rs) :
    Touches ps rs s (endStoring t) := by
  have ended : Touches ps rs s (onGloss t fun g => { g with storing := false }) := Recorder.touches_onGloss h _ gloss
  exact touches_ite h (touches_ite ended (touches_closeGap ended gloss counted))

/-- What a store that has ended reports. -/
def reported (v : State) (kind : Nat) (good host : Bool) : State :=
  let v := if kind = 0x10 then { v with memint := { v.memint with unstored := !good } } else v
  let v := if kind = 0x11 then endStoring v else v
  if host then storeResult v (if good then 0 else 6) else v

theorem touches_reported {good : Bool} (h : Touches ps rs s t) (memint : Part.memint ∈ Part.regs :: ps) (gloss : Part.gloss ∈ Part.regs :: ps)
    (counted : glossRegs ⊆ rs) (sstat : R.nvmSstat ∈ rs) (irq : R.sysIrqstat ∈ rs) : Touches ps rs s (reported t kind good host) := by
  have map : Touches ps rs s (if kind = 0x10 then { t with memint := { t.memint with unstored := !good } } else t) :=
    touches_ite (touches_memint h _ memint) h
  have bank := touches_ite (c := kind = 0x11) (touches_endStoring map gloss counted) map
  exact touches_ite (Store.touches_storeResult bank _ sstat irq) bank

/-- Without a slot for it a store leaves nothing. -/
theorem finishStore_none (absent : ∀ d, s.nvm.desc = some d → slotPlace d kind slot = none ∨ slotPlace d kind (1 - slot) = none) :
    finishStore s kind slot seq record host ahead = Store.endedStore s := by
  unfold finishStore
  extract_lets cleared store e
  have ended : e = Store.endedStore s := rfl
  clear_value e
  subst ended
  rw [Store.endedStore_nvm]
  cases desc : s.nvm.desc with
  | none => rfl
  | some d =>
    dsimp only
    split
    · rename_i here there
      rcases absent d desc with h | h <;> simp_all
    · rfl

theorem finishStore_some {d : StoreDesc} (desc : s.nvm.desc = some d) (place : slotPlace d kind slot = some (a, size))
    {m : Nat} (other : slotPlace d kind (1 - slot) = some (b, m)) : finishStore s kind slot seq record host ahead =
      reported (stored (Store.endedStore s) kind slot seq a size b record ahead) kind
        (readsBack (flashProg (Store.endedStore s) a record) kind slot seq) host := by
  have desc' : (Store.endedStore s).nvm.desc = some d := by rw [Store.endedStore_nvm]; exact desc
  unfold finishStore
  extract_lets cleared store e
  have ended : e = Store.endedStore s := rfl
  clear_value e
  subst ended
  simp only [desc', place, other]
  rfl

/-- A store has a slot, and another. -/
theorem places_or (d : Option StoreDesc) : (∃ d' a size b m, d = some d' ∧ slotPlace d' kind slot = some (a, size) ∧
      slotPlace d' kind (1 - slot) = some (b, m)) ∨
    ∀ d', d = some d' → slotPlace d' kind slot = none ∨ slotPlace d' kind (1 - slot) = none := by
  cases d with
  | none => exact .inr fun _ h => by simp at h
  | some d' =>
    cases here : slotPlace d' kind slot with
    | none => exact .inr fun e h => .inl (Option.some.inj h ▸ here)
    | some p =>
      cases there : slotPlace d' kind (1 - slot) with
      | none => exact .inr fun e h => .inr (Option.some.inj h ▸ there)
      | some q => exact .inl ⟨d', p.1, p.2, q.1, q.2, rfl, here, there⟩

/-- The parts and registers a store that ends may change. -/
def storeRegs : List Nat := R.nvmSstat :: R.sysIrqstat :: glossRegs

theorem touches_finishStore : Touches [.nvm, .flash, .memint, .gloss] storeRegs s (finishStore s kind slot seq record host ahead) := by
  have ended : Touches [.nvm, .flash, .memint, .gloss] storeRegs s (Store.endedStore s) :=
    touches_mono Store.touches_endedStore (by decide) (by decide)
  rcases places_or (kind := kind) (slot := slot) s.nvm.desc with ⟨d, a, size, b, m, desc, place, other⟩ | absent
  · rw [finishStore_some desc place other]
    exact touches_reported (touches_stored ended (by decide)) (by decide) (by decide) (by decide) (by decide) (by decide)
  · rw [finishStore_none absent]
    exact ended

theorem reported_flash {good : Bool} : (reported s kind good host).flash = s.flash :=
  (touches_reported (ps := [.memint, .gloss]) (rs := storeRegs) touches_rfl (by decide) (by decide) (by decide) (by decide) (by decide)).parts.flash
    (by decide)

theorem endedStore_flash : (Store.endedStore s).flash = s.flash := by rw [Store.endedStore, clrFlag_flash]

/-- What the flash holds then depends on the flash and the port alone. -/
theorem finishStore_flash (nvm : t.nvm = s.nvm) (flash : t.flash = s.flash) :
    (finishStore t kind slot seq record host ahead).flash = (finishStore s kind slot seq record host ahead).flash := by
  have ended : (Store.endedStore t).flash = (Store.endedStore s).flash := by rw [endedStore_flash, endedStore_flash, flash]
  rcases places_or (kind := kind) (slot := slot) s.nvm.desc with ⟨d, a, size, b, m, desc, place, other⟩ | absent
  · rw [finishStore_some desc place other, finishStore_some (nvm ▸ desc) place other, reported_flash, reported_flash]
    exact stored_flash (by rw [Store.endedStore_nvm, Store.endedStore_nvm, nvm]) ended
  · rw [finishStore_none absent, finishStore_none (nvm ▸ absent), ended]

theorem tornStore_flash (nvm : t.nvm = s.nvm) (flash : t.flash = s.flash) : (tornStore t kind slot record).flash = (tornStore s kind slot record).flash := by
  unfold tornStore
  rw [nvm]
  split
  · exact flash
  · split
    · exact flashProg_congr flash
    · exact flash

theorem touches_tornStore (h : Touches ps rs s t) (flash : Part.flash ∈ Part.regs :: ps) : Touches ps rs s (tornStore t kind slot record) := by
  unfold tornStore
  split
  · exact h
  · split
    · exact Flash.touches_flashProg h _ _ flash
    · exact h

/-- What is staged goes to the bank. -/
theorem touches_flushGloss (n : Nat) (h : Touches [.gloss, .mem, .ecc] [R.sysIrqstat] s t) :
    Touches [.gloss, .mem, .ecc] [R.sysIrqstat] s (flushGloss n t) := by
  induction n generalizing t with
  | zero => exact h
  | succ n ih =>
    rw [flushGloss]
    refine touches_ite (ih ?_) h
    have entry : ∀ (f : GlossSt → GlossSt) e, Touches [.gloss, .mem, .ecc] [R.sysIrqstat] s (storeEntry (onGloss t f) e) := fun f e =>
      touches_trans (Recorder.touches_onGloss h f (by decide)) Recorder.touches_storeEntry
    unfold storeNext
    split
    · exact h
    · split
      · exact entry _ _
      · exact entry _ _

theorem storeOnHoldup_ends {vhold : BitVec 16} {early : Bool} (low : s.power.vinLow = true) (op : s.nvm.op = some (.store kind slot seq record host))
    (idle : s.fuse.prog = none) :
    ∃ t, exec (.storeOnHoldup vhold early) s = .next t ∧ fld t R.pwrRstcause 1 0 = 1 ∧
      (∀ a, a ∉ [R.pwrVin, R.pwrVinmin, R.pwrRstcause] → rd t a = regReset a) ∧ t.nvm = {} ∧
      t.power = { vinGood := s.power.vinGood.map fun _ => 0 } ∧
      t.flash = (if early then tornStore s kind slot record else finishStore s kind slot seq record host false).flash := by
  obtain ⟨v, hv⟩ : ∃ v : State, v = { s with power := { s.power with vhold := vhold.toNat } } := ⟨_, rfl⟩
  have nvm : v.nvm = s.nvm := by rw [hv]
  have flash : v.flash = s.flash := by rw [hv]
  have fuse : v.fuse = s.fuse := by rw [hv]
  have good : v.power.vinGood = s.power.vinGood := by rw [hv]
  obtain ⟨u, value, programmed, supply, bytes⟩ : ∃ u, exec (.storeOnHoldup vhold early) s = .next (deviceReset u 1) ∧ u.fuse = v.fuse ∧
      u.power = v.power ∧ u.flash = (if early then tornStore s kind slot record else finishStore s kind slot seq record host false).flash := by
    have command : exec (.storeOnHoldup vhold early) s = (if early then .next (deviceReset (tornStore v kind slot record) 1) else
        .next (deviceReset (flushGloss 80 (raiseGloss (finishStore v kind slot seq record host false) 0x1320 (w32 kind) (w32 seq)
          (w32 vhold.toNat))) 1)) := by
      show execStoreOnHoldup vhold early s = _
      unfold execStoreOnHoldup
      simp only [low, op, hv]
    cases early with
    | true =>
      have torn : Touches [.flash] [] v (tornStore v kind slot record) := touches_tornStore touches_rfl (by decide)
      exact ⟨_, command.trans (if_pos rfl), torn.parts.fuse (by decide), torn.parts.power (by decide), tornStore_flash nvm flash⟩
    | false =>
      have finished := touches_finishStore (s := v) (kind := kind) (slot := slot) (seq := seq) (record := record) (host := host) (ahead := false)
      have logged := touches_raiseGloss finished 0x1320 (w32 kind) (w32 seq) (w32 vhold.toNat) (by decide) (by decide)
      have flushed := touches_flushGloss 80 (touches_rfl (s := raiseGloss (finishStore v kind slot seq record host false) 0x1320 (w32 kind) (w32 seq)
          (w32 vhold.toNat)))
      refine ⟨_, command.trans (if_neg Bool.false_ne_true), (flushed.parts.fuse (by decide)).trans (logged.parts.fuse (by decide)),
        (flushed.parts.power (by decide)).trans (logged.parts.power (by decide)), ?_⟩
      rw [flushed.parts.flash (by decide), raiseGloss_flash, finishStore_flash nvm flash]
      rfl
  have unprogrammed : u.fuse.prog = none := by rw [programmed, fuse, idle]
  have kept := touches_deviceReset (cause := 1) unprogrammed (by decide)
  refine ⟨_, value, cause_deviceReset unprogrammed (by decide) (by decide), fun a h => regs_deviceReset unprogrammed (by decide) h,
    kept.parts.nvm (by decide), ?_, (kept.parts.flash (by decide)).trans bytes⟩
  rw [kept.parts.power (by decide), ← good, ← supply]
  rfl

theorem storeOnHoldup_idle {vhold : BitVec 16} {early : Bool} (h : s.power.vinLow = false ∨ storeRunning s = false) :
    exec (.storeOnHoldup vhold early) s = .next s := by
  show execStoreOnHoldup vhold early s = _
  unfold execStoreOnHoldup
  split
  · rename_i low op
    simp [low, op, storeRunning] at h
  · rfl

end Holdup

/-- Settles O47: a clause each of the resets, of the brown-out by its samples, and of the store on the hold-up. -/
theorem resetsRestart : Obligations.ResetsRestart := by
  unfold Obligations.ResetsRestart
  exact ⟨fun _ _ => powerOnReset_clears, fun _ _ _ => reset_keeps, fun _ _ => brownoutReset_resets, fun _ _ => brownoutReset_defers,
    fun _ _ => brownoutReset_powerOn, fun _ _ => brownoutReset_shows, fun _ _ _ _ _ _ _ _ => storeOnHoldup_ends,
    fun _ _ _ => storeOnHoldup_idle⟩

end Sys2Proof.Resets

/-! PROOFS. Digital audio ports (R384 to R388). -/

namespace Sys2Proof.DigitalAudio
open Sys2Proof.Machine Sys2Proof.Laws Sys2Proof.Architecture Sys2Proof.Answers
open Sys2Proof.SerialPorts (flag_congr fld_congr)

/-! ### What a port's commands leave of its configuration -/

section Kept
variable {ps : List Part} {s t : State} {p : Fin 4}

/-- The registers a command of port p may change. -/
def portRegs (p : Nat) : List Nat := daiReg R.daiStat p :: daiReg R.daiSlip p :: glossRegs

/-- The registers that decide what a port does, but its OSLOTs. -/
def configRegs (p : Nat) : List Nat :=
  [daiReg R.daiCfg p, daiReg R.daiCtl p, daiReg R.daiImask p, R.daiIbase, R.adcIbase, R.clkStat, R.pwrDomstat]

theorem config_apart : ∀ a ∈ configRegs p, a ∉ portRegs p := by revert p; decide

theorem oslot_apart {k : Nat} (h : k < 16) : daiReg R.daiOslot0 p + 4 * k ∉ portRegs p := by
  have all : ∀ (p : Fin 4) (k : Fin 16), daiReg R.daiOslot0 p + 4 * k.val ∉ portRegs p := by decide
  exact all p ⟨k, h⟩

/-- From s to t the configuration of port p, the rings, the memory and the time are the same. -/
structure Sees (s t : State) (p : Fin 4) : Prop where
  frame  : Touches [.dai, .gloss] (portRegs p) s t
  bus    : (daiOf t p).bus = (daiOf s p).bus
  before : (daiOf t p).before = (daiOf s p).before

theorem Sees.rd (h : Sees s t p) {a : Nat} (ha : a ∈ configRegs p) : rd t a = rd s a := h.frame.regs a (config_apart a ha)

theorem Sees.time (h : Sees s t p) : t.time = s.time := h.frame.parts.time (by decide)

theorem Sees.slots (h : Sees s t p) : daiSlots t p = daiSlots s p := by
  rw [daiSlots, fld_congr (h.rd (by simp [configRegs])), daiSlots]

theorem Sees.controller (h : Sees s t p) : daiController t p = daiController s p := flag_congr (h.rd (by simp [configRegs]))

theorem Sees.rx (h : Sees s t p) : daiRx t p = daiRx s p := flag_congr (h.rd (by simp [configRegs]))

theorem Sees.tx (h : Sees s t p) : daiTx t p = daiTx s p := flag_congr (h.rd (by simp [configRegs]))

theorem Sees.width (h : Sees s t p) : daiWidth t p = daiWidth s p := by
  rw [daiWidth, fld_congr (h.rd (by simp [configRegs])), daiWidth]

theorem Sees.tri (h : Sees s t p) : flag t (daiReg R.daiCfg p) 11 = flag s (daiReg R.daiCfg p) 11 := flag_congr (h.rd (by simp [configRegs]))

theorem Sees.delayed (h : Sees s t p) : daiDelayed t p = daiDelayed s p := by
  rw [daiDelayed, fld_congr (h.rd (by simp [configRegs])), flag_congr (h.rd (by simp [configRegs])), daiDelayed]

theorem Sees.assigned (h : Sees s t p) (c : Int) : daiTime t p c = daiTime s p c := by
  rw [daiTime, h.controller, h.delayed, h.slots, daiTime]

theorem Sees.sample (h : Sees s t p) (slots : List Word) (k : Nat) : daiSample t p slots k = daiSample s p slots k := by
  rw [daiSample, h.slots, h.width, flag_congr (h.rd (by simp [configRegs])), daiSample]

theorem Sees.now (h : Sees s t p) : nowSample t = nowSample s := by
  rw [nowSample, h.time, tclkPerSample, rateLog, fsCode, fld_congr (h.rd (by simp [configRegs])), nowSample, tclkPerSample, rateLog, fsCode]

theorem Sees.frameNow (h : Sees s t p) : frameNow t = frameNow s := by rw [Machine.frameNow, h.now, Machine.frameNow]

theorem Sees.addr (h : Sees s t p) (q k u : Nat) : daiAddr t q k u = daiAddr s q k u := by
  rw [daiAddr, h.rd (by simp [configRegs]), daiAddr]

theorem Sees.input (h : Sees s t p) (n u : Nat) : inputAddr t n u = inputAddr s n u := by
  rw [inputAddr, h.rd (by simp [configRegs]), inputAddr]

theorem Sees.mem (h : Sees s t p) : t.mem = s.mem := h.frame.parts.mem (by decide)

theorem Sees.ecc (h : Sees s t p) : t.ecc = s.ecc := h.frame.parts.ecc (by decide)

theorem Sees.dai_on (h : Sees s t p) : domainOn t 7 = domainOn s 7 := flag_congr (h.rd (by simp [configRegs]))

theorem Sees.oslot (h : Sees s t p) {k : Nat} (hk : k < 16) (v : Nat) : oslotAt t p k v = oslotAt s p k v := by
  have same : Machine.oslot t p k = Machine.oslot s p k := h.frame.regs _ (oslot_apart hk)
  rw [oslotAt, h.now, h.before, same, oslotAt]

theorem Sees.refl : Sees s s p := ⟨touches_rfl, rfl, rfl⟩

theorem Sees.trans {u : State} (h : Sees s t p) (k : Sees t u p) : Sees s u p :=
  ⟨touches_trans h.frame k.frame, k.bus.trans h.bus, k.before.trans h.before⟩

end Kept

/-! ### One port changes -/

section Ports
variable {s t : State} {p : Fin 4} {f : DaiSt → DaiSt}

theorem daiOf_congr {q : Nat} (h : t.dai = s.dai) : daiOf t q = daiOf s q := by rw [daiOf, h, daiOf]

theorem daiOf_onDai (four : s.dai.length = 4) : daiOf (onDai s p f) p = f (daiOf s p) :=
  nth_modify _ _ _ _ (four.symm ▸ p.isLt)

theorem daiOf_onDai_ne {q : Nat} (h : q ≠ p.val) : daiOf (onDai s p f) q = daiOf s q := nth_modify_ne _ _ _ _ _ h

theorem length_onDai {q : Nat} : (onDai s q f).dai.length = s.dai.length := List.length_modify ..

theorem touches_onDai {ps : List Part} {rs : List Nat} {q : Nat} (h : Touches ps rs s t) (dai : Part.dai ∈ Part.regs :: ps) :
    Touches ps rs s (onDai t q f) := touches_dai h _ dai

theorem rd_onDai {a q : Nat} : rd (onDai s q f) a = rd s a := rfl

theorem flag_onDai {a i q : Nat} : flag (onDai s q f) a i = flag s a i := rfl

theorem sees_onDai (four : s.dai.length = 4) (bus : (f (daiOf s p)).bus = (daiOf s p).bus) (before : (f (daiOf s p)).before = (daiOf s p).before) :
    Sees s (onDai s p f) p :=
  ⟨touches_onDai touches_rfl (by decide), by rw [daiOf_onDai four, bus], by rw [daiOf_onDai four, before]⟩

theorem sees_of_touches (h : Touches [.gloss] (portRegs p) s t) : Sees s t p := by
  have same : daiOf t p = daiOf s p := daiOf_congr (h.parts.dai (by decide))
  exact ⟨touches_mono h (by decide) (List.Subset.refl _), by rw [same], by rw [same]⟩

end Ports

/-! ### A frame shows the clock (R388) -/

section Clock
variable {s : State} {p : Fin 4}

/-- The state once a frame has shown that the clock is there. -/
def shown (s : State) (p : Nat) : State := clockBack (edgeSeen s p) p

theorem noClk_edgeSeen {q : Nat} : daiNoClk (edgeSeen s q) q = daiNoClk s q := flag_onDai

theorem sees_edgeSeen (four : s.dai.length = 4) : Sees s (edgeSeen s p) p := sees_onDai four rfl rfl

theorem length_edgeSeen : (edgeSeen s p.val).dai.length = s.dai.length := length_onDai

theorem daiOf_edgeSeen (four : s.dai.length = 4) : daiOf (edgeSeen s p) p = { daiOf s p with edgeAt := s.time.aoTime } := daiOf_onDai four

theorem shown_present (clock : daiNoClk s p = false) : shown s p = edgeSeen s p := by
  rw [shown, clockBack, noClk_edgeSeen, clock, if_neg Bool.false_ne_true]

/-- The clock has returned. -/
def returned (s : State) (p : Nat) : State := onDai (clrFlag s (daiReg R.daiStat p) 2) p fun d => { d with lastU := none }

theorem shown_back (lost : daiNoClk s p = true) : shown s p = returned (edgeSeen s p) p := by
  rw [shown, clockBack, noClk_edgeSeen, lost, if_pos rfl, returned]

theorem sees_returned (four : s.dai.length = 4) : Sees s (returned s p) p :=
  (sees_of_touches (touches_clrFlag touches_rfl _ List.mem_cons_self)).trans (sees_onDai (by rw [clrFlag_dai, four]) rfl rfl)

theorem daiOf_returned (four : s.dai.length = 4) : daiOf (returned s p) p = { daiOf s p with lastU := none } := by
  rw [returned, daiOf_onDai (by rw [clrFlag_dai, four]), daiOf_congr (clrFlag_dai ..)]

theorem sees_shown (four : s.dai.length = 4) : Sees s (shown s p) p := by
  cases clock : daiNoClk s p with
  | false => exact shown_present clock ▸ sees_edgeSeen four
  | true => exact shown_back clock ▸ (sees_edgeSeen four).trans (sees_returned (length_edgeSeen.trans four))

theorem length_shown : (shown s p.val).dai.length = s.dai.length := by
  cases clock : daiNoClk s p with
  | false => rw [shown_present clock, length_edgeSeen]
  | true => rw [shown_back clock, returned, length_onDai, clrFlag_dai, length_edgeSeen]

theorem daiOf_shown (four : s.dai.length = 4) : daiOf (shown s p) p =
    { daiOf s p with lastU := if daiNoClk s p then none else (daiOf s p).lastU, edgeAt := s.time.aoTime } := by
  cases clock : daiNoClk s p with
  | false => rw [shown_present clock, daiOf_edgeSeen four]; rfl
  | true => rw [shown_back clock, daiOf_returned (length_edgeSeen.trans four), daiOf_edgeSeen four]; rfl

theorem daiOf_shown_ne {q : Nat} (h : q ≠ p.val) : daiOf (shown s p) q = daiOf s q := by
  cases clock : daiNoClk s p with
  | false => rw [shown_present clock, edgeSeen, daiOf_onDai_ne h]
  | true => rw [shown_back clock, returned, daiOf_onDai_ne h, daiOf_congr (clrFlag_dai ..), edgeSeen, daiOf_onDai_ne h]

/-- NOCLK is clear then. -/
theorem noClk_shown : flag (shown s p) (daiReg R.daiStat p) 2 = false := by
  cases clock : daiNoClk s p with
  | false => rw [shown_present clock, edgeSeen, flag_onDai]; exact clock
  | true => rw [shown_back clock, returned, flag_onDai, flag_clrFlag _ _ _ (by decide)]

theorem touches_shown : Touches [.dai] [daiReg R.daiStat p] s (shown s p) := by
  have edge : Touches [.dai] [daiReg R.daiStat p] s (edgeSeen s p) := touches_onDai touches_rfl (by decide)
  cases clock : daiNoClk s p with
  | false => exact shown_present clock ▸ edge
  | true => exact shown_back clock ▸ touches_onDai (touches_clrFlag edge _ List.mem_cons_self) (by decide)

theorem touches_edgeSeen : Touches [.dai] [] s (edgeSeen s p.val) := touches_onDai touches_rfl (by decide)

/-- Of a clock that was there a frame is taken already or not; of one that returns, only one that waits counts. -/
theorem daiTaken_shown (four : s.dai.length = 4) {u : Nat} : daiTaken (shown s p) p u =
    if daiNoClk s p then (daiOf s p).due.any (fun f => daiTime s p f.1 = u) else daiTaken s p u := by
  have seen := sees_shown (s := s) (p := p) four
  rw [daiTaken, daiOf_shown four]
  simp only [seen.assigned]
  cases daiNoClk s p <;> simp [daiTaken]

end Clock

/-! ### A slip (R387) -/

section Slip
variable {s : State} {p : Fin 4} {kind : Nat}

/-- The slip marked and counted. -/
def counted (s : State) (p kind : Nat) : State := countUp (setFlag s (daiReg R.daiStat p) (1 - kind)) (daiReg R.daiSlip p)

/-- The state in which its code is raised. -/
def noted (s : State) (p kind : Nat) : State := onDai (counted s p kind) p fun d => { d with slipFrame := some (frameNow s) }

theorem touches_counted : Touches [] [daiReg R.daiStat p, daiReg R.daiSlip p] s (counted s p kind) :=
  touches_countUp (touches_setFlag touches_rfl _ List.mem_cons_self) (List.mem_cons_of_mem _ List.mem_cons_self)

theorem sees_counted : Sees s (counted s p kind) p :=
  sees_of_touches (touches_mono touches_counted (List.nil_subset _) fun a h => by
    simp only [portRegs, List.mem_cons, List.not_mem_nil, or_false] at h ⊢
    exact h.imp_right .inl)

/-- The first slip of a frame. -/
theorem daiSlip_first (fresh : (daiOf s p).slipFrame ≠ some (frameNow s)) :
    daiSlip s p kind = raiseGloss (noted s p kind) 0x5300 (w32 p) (w32 kind) (w32 (frameNow s)) := by
  have frame : frameNow (counted s p kind) = frameNow s := sees_counted.frameNow
  have same : (daiOf (counted s p kind) p).slipFrame = (daiOf s p).slipFrame := by
    rw [daiOf_congr (touches_counted.parts.dai (by decide))]
  have after : frameNow (onDai (counted s p kind) p fun d => { d with slipFrame := some (frameNow s) }) = frameNow s := frame
  unfold daiSlip
  show (if (daiOf (counted s p kind) p).slipFrame = some (frameNow (counted s p kind)) then _ else
    raiseGloss (onDai (counted s p kind) p fun d => { d with slipFrame := some (frameNow (counted s p kind)) }) 0x5300 (w32 p) (w32 kind)
      (w32 (frameNow (onDai (counted s p kind) p fun d => { d with slipFrame := some (frameNow (counted s p kind)) })))) = _
  rw [frame, same, if_neg fresh, after, noted]

end Slip

/-! ### Delivery (R385) -/

section Delivery
variable {s t : State} {p : Fin 4} {u n k b : Nat} {ws : List Word}

theorem touches_slip (fresh : (daiOf s p).slipFrame ≠ some (frameNow s)) {kind : Nat} : Touches [.dai, .gloss] (portRegs p) s (daiSlip s p kind) := by
  rw [daiSlip_first fresh]
  exact touches_raiseGloss (touches_onDai (touches_mono sees_counted.frame (List.Subset.refl _) (List.Subset.refl _)) (by decide)) _ _ _ _
    (by decide) fun _ h => List.mem_cons_of_mem _ (List.mem_cons_of_mem _ h)

/-- The words of the first n slots lie in the ring. -/
structure Laid (s t : State) (p u : Nat) (ws : List Word) (n : Nat) : Prop where
  frame : Touches [.mem] [] s t
  words : ∀ k, k < n → word32At t (daiAddr s p k u) = nth ws k 0
  bytes : ∀ b, (∀ k, k < n → b < daiAddr s p k u ∨ daiAddr s p k u + 4 ≤ b) → memByte t b = memByte s b

/-- The slots of a frame lie 64 bytes apart (R385). -/
theorem daiAddr_eq : daiAddr s p k u = daiAddr s p 0 u + 64 * k := by
  unfold daiAddr
  omega

theorem word32At_congr {a : Nat} (h : ∀ i, i < 4 → memByte t (a + i) = memByte s (a + i)) : word32At t a = word32At s a := by
  have bytes : memBytes t a 4 = memBytes s a 4 := List.map_congr_left fun i hi => h i (List.mem_range.1 hi)
  rw [word32At, bytes, word32At]

theorem word32At_putWord {a : Nat} (w : Word) : word32At (putBytes s a (leBytes 4 (w.setWidth 64).toNat)) a = w := by
  have same : (w.setWidth 64).toNat = w.toNat := by
    rw [BitVec.toNat_setWidth]
    have small := w.isLt
    omega
  have here := word32At_putBytes s a (leBytes 4 w.toNat) 0 w (by rw [length_leBytes]) (List.take_of_length_le (length_leBytes ..).le)
  rwa [Nat.add_zero, ← same] at here

theorem laid_succ (clean : s.ecc = []) (h : Laid s t p u ws n) :
    Laid s (memStore t 3 (daiAddr t p n u) 4 ((nth ws n 0).setWidth 64)) p u ws (n + 1) := by
  have still : t.ecc = [] := by rw [h.frame.parts.ecc (by decide), clean]
  have addr : daiAddr t p n u = daiAddr s p n u := by rw [daiAddr, h.frame.regs _ List.not_mem_nil, daiAddr]
  rw [memStore_noError still, addr]
  have other : ∀ c, c < daiAddr s p n u ∨ daiAddr s p n u + 4 ≤ c →
      memByte (putBytes t (daiAddr s p n u) (leBytes 4 ((nth ws n 0).setWidth 64).toNat)) c = memByte t c := by
    intro c hc
    rw [memByte_putBytes, length_leBytes, if_neg (by omega)]
  refine ⟨touches_putBytes h.frame _ _ (by decide), fun k hk => ?_, fun c hc => ?_⟩
  · by_cases last : k = n
    · rw [last, word32At_putWord]
    · have before := daiAddr_eq (s := s) (p := p) (u := u) (k := k)
      have here := daiAddr_eq (s := s) (p := p) (u := u) (k := n)
      rw [word32At_congr fun i hi => other _ (by omega), h.words k (by omega)]
  · rw [other c (hc n (Nat.lt_succ_self n)), h.bytes c fun k hk => hc k (by omega)]

theorem laid_deliver (clean : s.ecc = []) : Laid s (daiDeliver s p u ws) p u ws 16 := by
  have all : ∀ n, Laid s ((List.range n).foldl (fun t k => memStore t 3 (daiAddr t p k u) 4 ((nth ws k 0).setWidth 64)) s) p u ws n := by
    intro n
    induction n with
    | zero => exact ⟨touches_rfl, fun k hk => absurd hk (Nat.not_lt_zero k), fun _ _ => rfl⟩
    | succ n ih =>
      rw [List.range_succ, List.foldl_append, List.foldl_cons, List.foldl_nil]
      exact laid_succ clean ih
  exact all 16

/-- The slots' samples, as s takes them. -/
def taken (s : State) (p : Nat) (slots : List Word) : List Word := (List.range 16).map (daiSample s p slots)

theorem taken_congr (seen : Sees s t p) (slots : List Word) : taken t p slots = taken s p slots :=
  List.map_congr_left fun k _ => seen.sample slots k

/-- A frame is delivered, from a state that differs from s in the port alone. -/
theorem delivered_take {e : State} {slots : List Word} (seen : Sees s e p) (four : e.dai.length = 4) (clean : s.ecc = []) :
    (∀ k, k < 16 → word32At (daiTake e p u slots) (daiAddr s p k u) = nth (taken s p slots) k 0) ∧
      (∀ b, (∀ k, k < 16 → b < daiAddr s p k u ∨ daiAddr s p k u + 4 ≤ b) → memByte (daiTake e p u slots) b = memByte s b) ∧
      daiOf (daiTake e p u slots) p = { daiOf e p with lastU := some u, words := taken s p slots } ∧
      (∀ q, q ≠ p.val → daiOf (daiTake e p u slots) q = daiOf e q) ∧
      Touches [.dai, .mem] [] e (daiTake e p u slots) := by
  obtain ⟨d, hd⟩ : ∃ d, d = onDai e p fun x => { x with lastU := some u, words := taken s p slots } := ⟨_, rfl⟩
  have port : daiOf d p = { daiOf e p with lastU := some u, words := taken s p slots } := hd ▸ daiOf_onDai four
  have here : Sees s d p := seen.trans (hd ▸ sees_onDai four rfl rfl)
  have laid := laid_deliver (s := d) (p := p) (u := u) (ws := taken s p slots) (by rw [here.ecc, clean])
  have value : daiTake e p u slots = daiDeliver d p u (taken s p slots) := by
    rw [hd, ← taken_congr seen slots]
    rfl
  have dai : ∀ q, daiOf (daiDeliver d p u (taken s p slots)) q = daiOf d q := fun q => daiOf_congr (laid.frame.parts.dai (by decide))
  have moved : Touches [.dai, .mem] [] e d := hd ▸ touches_onDai touches_rfl (by decide)
  rw [value]
  refine ⟨fun k hk => ?_, fun b hb => ?_, (dai p).trans port, fun q hq => ?_,
    touches_trans moved (touches_mono laid.frame (by decide) (List.Subset.refl _))⟩
  · rw [← here.addr, laid.words k hk]
  · rw [laid.bytes b fun k hk => by rw [here.addr]; exact hb k hk]
    exact memByte_of_mem here.mem
  · rw [dai, hd, daiOf_onDai_ne hq]

end Delivery

/-! ### Frames that come in (R385, R387, R388) -/

section In
variable {s : State} {p : Fin 4} {slots ws : List Word} {lastBit : DWord} {u : Nat}

/-- The frame is assigned, as a slip or not. -/
theorem exec_portFrameIn (on : domainOn s 7 = true) (rx : daiRx s p = true) (length : slots.length = daiSlots s p) :
    exec (.portFrameIn p slots lastBit) s = .next (daiAssign (edgeSeen s p) p lastBit.toNat slots) := by
  show execPortFrameIn p slots lastBit s = _
  unfold execPortFrameIn
  rw [if_neg (by simp [on, length]), if_pos rx]

/-- The port with the frame to assign, and whether the frame slips. -/
def slips (s : State) (p u : Nat) : Bool := daiTaken (shown s p) p u && !daiController s p

theorem daiAssign_eq (four : s.dai.length = 4) (hu : u = daiTime s p lastBit.toNat) : daiAssign (edgeSeen s p) p lastBit.toNat slots =
    (let e := if slips s p u then daiSlip (shown s p) p 0 else shown s p
     if u ≤ nowSample e then daiTake e p u slots
     else onDai e p fun d => { d with due := (d.due.filter fun f => daiTime e p f.1 ≠ u) ++ [((lastBit.toNat : Int), slots)] }) := by
  have seen := sees_shown (s := s) (p := p) four
  have time : daiTime (shown s p) p lastBit.toNat = u := by rw [seen.assigned, hu]
  unfold daiAssign
  show (let e := if daiTaken (shown s p) p (daiTime (shown s p) p lastBit.toNat) && !daiController (shown s p) p then daiSlip (shown s p) p 0
      else shown s p
    if daiTime (shown s p) p lastBit.toNat ≤ nowSample e then daiTake e p (daiTime (shown s p) p lastBit.toNat) slots
    else onDai e p fun d =>
      { d with due := (d.due.filter fun f => daiTime e p f.1 ≠ daiTime (shown s p) p lastBit.toNat) ++ [((lastBit.toNat : Int), slots)] }) = _
  rw [time, seen.controller, slips]

/-- No slip: the port drives its clock, or has no frame for the time. -/
theorem slips_not (four : s.dai.length = 4) (h : daiController s p = true ∨ daiTaken s p u = false ∨
      (daiNoClk s p = true ∧ ((daiOf s p).due.any fun f => daiTime s p f.1 = u) = false)) : slips s p u = false := by
  rw [slips, daiTaken_shown four]
  rcases h with h | h | ⟨lost, h⟩
  · simp [h]
  · have waits : ((daiOf s p).due.any fun f => daiTime s p f.1 = u) = false := by
      rw [daiTaken, Bool.or_eq_false_iff] at h
      exact h.1
    rw [h, waits, ite_self, Bool.false_and]
  · rw [lost, if_pos rfl, h, Bool.false_and]

theorem slips_yes (four : s.dai.length = 4) (target : daiController s p = false) (clock : daiNoClk s p = false) (taken : daiTaken s p u = true) :
    slips s p u = true := by
  rw [slips, daiTaken_shown four, clock, if_neg Bool.false_ne_true, taken, target]
  rfl

theorem portFrameIn_delivers (four : s.dai.length = 4) (clean : s.ecc = []) (on : domainOn s 7 = true) (rx : daiRx s p = true)
    (length : slots.length = daiSlots s p) (hu : u = daiTime s p lastBit.toNat) (now : u ≤ nowSample s)
    (hw : ws = (List.range 16).map (daiSample s p slots))
    (h : daiController s p = true ∨ daiTaken s p u = false ∨
      (daiNoClk s p = true ∧ ((daiOf s p).due.any fun f => daiTime s p f.1 = u) = false)) :
    ∃ t, exec (.portFrameIn p slots lastBit) s = .next t ∧ PortDelivered s t p u ws (daiOf s p).slipFrame ∧
      flag t (daiReg R.daiStat p) 2 = false ∧ Touches [.dai, .mem] [daiReg R.daiStat p] s t := by
  have seen := sees_shown (s := s) (p := p) four
  obtain ⟨words, bytes, here, other, frame⟩ := delivered_take (u := u) (slots := slots) seen (length_shown.trans four) clean
  refine ⟨daiTake (shown s p) p u slots, ?_, ⟨hw ▸ words, bytes, ?_, fun q hq => (other q hq).trans (daiOf_shown_ne hq)⟩, ?_, ?_⟩
  · rw [exec_portFrameIn on rx length, daiAssign_eq four hu, slips_not four h]
    simp only [Bool.false_eq_true, if_false]
    rw [if_pos (seen.now.symm ▸ now)]
  · rw [here, daiOf_shown four, hw, taken]
  · rw [flag_congr (frame.regs _ List.not_mem_nil), noClk_shown]
  · exact touches_trans (touches_mono touches_shown (by decide) (List.Subset.refl _)) (touches_mono frame (List.Subset.refl _) (List.nil_subset _))

theorem portRegs_uncounted (p : Fin 4) : ∀ a ∈ [daiReg R.daiStat p, daiReg R.daiSlip p], a ∉ glossRegs := by revert p; decide

theorem daiStat_ne_daiSlip (p : Fin 4) : daiReg R.daiStat p ≠ daiReg R.daiSlip p := by revert p; decide

theorem daiStat_unrecorded (p : Fin 4) : daiReg R.daiStat p ∉ recorderInputs := by revert p; decide

/-- The state of a port once a slip has been logged. -/
theorem slip_facts {e : State} {kind : Nat} (four : e.dai.length = 4) (fresh : (daiOf e p).slipFrame ≠ some (frameNow e)) :
    daiOf (daiSlip e p kind) p = { daiOf e p with slipFrame := some (frameNow e) } ∧
      (∀ q, q ≠ p.val → daiOf (daiSlip e p kind) q = daiOf e q) ∧ Sees e (daiSlip e p kind) p ∧ (daiSlip e p kind).dai.length = 4 ∧
      flag (daiSlip e p kind) (daiReg R.daiStat p) (1 - kind) = true ∧
      rd (daiSlip e p kind) (daiReg R.daiSlip p) = rd (countUp e (daiReg R.daiSlip p)) (daiReg R.daiSlip p) ∧
      Logged 0x5300 (w32 p) (w32 kind) (w32 (frameNow e)) e (daiSlip e p kind) := by
  have dai : (counted e p kind).dai = e.dai := touches_counted.parts.dai (by decide)
  have port : daiOf (noted e p kind) p = { daiOf e p with slipFrame := some (frameNow e) } := by
    rw [noted, daiOf_onDai (dai ▸ four), daiOf_congr dai]
  have logged : (daiSlip e p kind).dai = (noted e p kind).dai := by rw [daiSlip_first fresh, raiseGloss_dai]
  have uncounted := portRegs_uncounted p
  have apart := daiStat_ne_daiSlip p
  refine ⟨(daiOf_congr logged).trans port, fun q hq => ?_, ⟨touches_slip fresh, ?_, ?_⟩, ?_, ?_, ?_, ?_⟩
  · rw [daiOf_congr logged, noted, daiOf_onDai_ne hq, daiOf_congr dai]
  · rw [daiOf_congr logged, port]
  · rw [daiOf_congr logged, port]
  · rw [logged, noted, length_onDai, dai, four]
  · rw [daiSlip_first fresh, flag_raiseGloss (uncounted _ (by simp)), noted, flag_onDai, counted, flag_congr (rd_countUp_ne _ _ _ apart),
      flag_setFlag _ _ _ (by omega)]
  · rw [daiSlip_first fresh, rd_raiseGloss _ _ _ _ _ _ (uncounted _ (by simp)), noted, rd_onDai, counted, Concord.rd_countUp, Concord.rd_countUp,
      setFlag_eq, wrFld, rd_wr_ne _ _ _ _ (Ne.symm apart)]
  · rw [daiSlip_first fresh]
    have time : (noted e p kind).time = e.time := touches_counted.parts.time (by decide)
    exact logged_raiseGloss (by rw [noted, onDai_gloss, touches_counted.parts.gloss (by decide)])
      ⟨by rw [time], by rw [time], by rw [time], by rw [time]⟩

/-- The slip of a frame that comes, from the state in which its edge has been seen. -/
theorem slip_seen {kind : Nat} (four : s.dai.length = 4) (fresh : (daiOf s p).slipFrame ≠ some (frameNow s)) :
    daiOf (daiSlip (edgeSeen s p) p kind) p = { daiOf s p with slipFrame := some (frameNow s), edgeAt := s.time.aoTime } ∧
      (∀ q, q ≠ p.val → daiOf (daiSlip (edgeSeen s p) p kind) q = daiOf s q) ∧ Sees s (daiSlip (edgeSeen s p) p kind) p ∧
      (daiSlip (edgeSeen s p) p kind).dai.length = 4 ∧ flag (daiSlip (edgeSeen s p) p kind) (daiReg R.daiStat p) (1 - kind) = true ∧
      rd (daiSlip (edgeSeen s p) p kind) (daiReg R.daiSlip p) = rd (countUp s (daiReg R.daiSlip p)) (daiReg R.daiSlip p) ∧
      Logged 0x5300 (w32 p) (w32 kind) (w32 (frameNow s)) s (daiSlip (edgeSeen s p) p kind) := by
  have seen := sees_edgeSeen (s := s) (p := p) four
  have frame : frameNow (edgeSeen s p) = frameNow s := seen.frameNow
  have edge := daiOf_edgeSeen (p := p) four
  have first : (daiOf (edgeSeen s p) p).slipFrame ≠ some (frameNow (edgeSeen s p)) := by rw [edge, frame]; exact fresh
  obtain ⟨port, other, sees, length, marked, count, logged⟩ := slip_facts (kind := kind) (length_edgeSeen.trans four) first
  refine ⟨by rw [port, edge, frame], fun q hq => ?_, seen.trans sees, length, marked, ?_, ?_⟩
  · rw [other q hq, edgeSeen, daiOf_onDai_ne hq]
  · rw [count, Concord.rd_countUp, Concord.rd_countUp, edgeSeen, rd_onDai]
  · rw [frame] at logged
    exact logged_before logged (fun a _ => touches_edgeSeen.regs a List.not_mem_nil) (touches_edgeSeen.parts.time (by decide))
      (touches_edgeSeen.parts.gloss (by decide))

theorem portFrameIn_slips (four : s.dai.length = 4) (clean : s.ecc = []) (on : domainOn s 7 = true) (rx : daiRx s p = true)
    (length : slots.length = daiSlots s p) (hu : u = daiTime s p lastBit.toNat) (now : u ≤ nowSample s)
    (hw : ws = (List.range 16).map (daiSample s p slots)) (target : daiController s p = false) (clock : daiNoClk s p = false)
    (again : daiTaken s p u = true) (fresh : (daiOf s p).slipFrame ≠ some (frameNow s)) :
    ∃ t, exec (.portFrameIn p slots lastBit) s = .next t ∧ PortDelivered s t p u ws (some (frameNow s)) ∧
      flag t (daiReg R.daiStat p) 1 = true ∧
      rd t (daiReg R.daiSlip p) = rd (countUp s (daiReg R.daiSlip p)) (daiReg R.daiSlip p) ∧
      Logged 0x5300 (w32 p) 0 (w32 (frameNow s)) s t ∧
      Touches [.dai, .mem, .gloss] (daiReg R.daiStat p :: daiReg R.daiSlip p :: glossRegs) s t := by
  obtain ⟨port, others, sees, four', marked, count, logged⟩ := slip_seen (kind := 0) four fresh
  obtain ⟨e, he⟩ : ∃ e, e = daiSlip (edgeSeen s p) p 0 := ⟨_, rfl⟩
  rw [← he] at port others sees four' marked count logged
  obtain ⟨words, bytes, here, other, frame⟩ := delivered_take (u := u) (slots := slots) sees four' clean
  refine ⟨daiTake e p u slots, ?_, ⟨hw ▸ words, bytes, ?_, fun q hq => (other q hq).trans (others q hq)⟩, ?_, ?_,
    logged_after logged (fun a _ => frame.regs a List.not_mem_nil) (frame.parts.time (by decide)) (frame.parts.gloss (by decide)),
    touches_trans (touches_mono sees.frame (by decide) (List.Subset.refl _)) (touches_mono frame (by decide) (List.nil_subset _))⟩
  · rw [exec_portFrameIn on rx length, daiAssign_eq four hu, slips_yes four target clock again, shown_present clock, ← he]
    simp only [if_true]
    rw [if_pos (sees.now.symm ▸ now)]
  · rw [here, port, hw, taken]
  · rw [flag_congr (frame.regs _ List.not_mem_nil), marked]
  · rw [frame.regs _ List.not_mem_nil, count]

/-- A frame for a time to come waits, from a state that differs from s in the port alone. -/
theorem waits_facts {e : State} (seen : Sees s e p) (four : e.dai.length = 4) {c : Int} :
    (∀ d : DaiSt, daiOf e p = d →
      daiOf (onDai e p fun d => { d with due := (d.due.filter fun f => daiTime e p f.1 ≠ u) ++ [(c, slots)] }) p =
        { d with due := (d.due.filter fun f => daiTime s p f.1 ≠ u) ++ [(c, slots)] }) ∧
      Touches [.dai] [] e (onDai e p fun d => { d with due := (d.due.filter fun f => daiTime e p f.1 ≠ u) ++ [(c, slots)] }) := by
  refine ⟨fun d hd => ?_, touches_onDai touches_rfl (by decide)⟩
  rw [daiOf_onDai four, hd]
  simp only [seen.assigned]

theorem portFrameIn_waits (four : s.dai.length = 4) (on : domainOn s 7 = true) (rx : daiRx s p = true) (length : slots.length = daiSlots s p)
    (hu : u = daiTime s p lastBit.toNat) (later : nowSample s < u) (h : daiController s p = true ∨ daiTaken s p u = false) :
    ∃ t, exec (.portFrameIn p slots lastBit) s = .next t ∧
      daiOf t p = { daiOf s p with
        due := ((daiOf s p).due.filter fun f => daiTime s p f.1 ≠ u) ++ [((lastBit.toNat : Int), slots)],
        lastU := if daiNoClk s p then none else (daiOf s p).lastU, edgeAt := s.time.aoTime } ∧
      flag t (daiReg R.daiStat p) 2 = false ∧ (∀ q, q ≠ p.val → daiOf t q = daiOf s q) ∧ Touches [.dai] [daiReg R.daiStat p] s t := by
  have seen := sees_shown (s := s) (p := p) four
  obtain ⟨port, frame⟩ := waits_facts (u := u) (slots := slots) (c := lastBit.toNat) seen (length_shown.trans four)
  refine ⟨_, ?_, port _ (daiOf_shown four), ?_, fun q hq => (daiOf_onDai_ne hq).trans (daiOf_shown_ne hq),
    touches_trans touches_shown (touches_mono frame (List.Subset.refl _) (List.nil_subset _))⟩
  · rw [exec_portFrameIn on rx length, daiAssign_eq four hu, slips_not four (h.imp_right .inl)]
    simp only [Bool.false_eq_true, if_false]
    rw [if_neg (by rw [seen.now]; omega)]
  · rw [flag_onDai, noClk_shown]

theorem portFrameIn_waits_slipping (four : s.dai.length = 4) (on : domainOn s 7 = true) (rx : daiRx s p = true)
    (length : slots.length = daiSlots s p) (hu : u = daiTime s p lastBit.toNat) (later : nowSample s < u)
    (target : daiController s p = false) (clock : daiNoClk s p = false) (again : daiTaken s p u = true)
    (fresh : (daiOf s p).slipFrame ≠ some (frameNow s)) :
    ∃ t, exec (.portFrameIn p slots lastBit) s = .next t ∧
      daiOf t p = { daiOf s p with
        due := ((daiOf s p).due.filter fun f => daiTime s p f.1 ≠ u) ++ [((lastBit.toNat : Int), slots)],
        slipFrame := some (frameNow s), edgeAt := s.time.aoTime } ∧
      flag t (daiReg R.daiStat p) 1 = true ∧
      rd t (daiReg R.daiSlip p) = rd (countUp s (daiReg R.daiSlip p)) (daiReg R.daiSlip p) ∧
      Logged 0x5300 (w32 p) 0 (w32 (frameNow s)) s t ∧ (∀ q, q ≠ p.val → daiOf t q = daiOf s q) ∧
      Touches [.dai, .gloss] (daiReg R.daiStat p :: daiReg R.daiSlip p :: glossRegs) s t := by
  obtain ⟨port, others, sees, four', marked, count, logged⟩ := slip_seen (kind := 0) four fresh
  obtain ⟨e, he⟩ : ∃ e, e = daiSlip (edgeSeen s p) p 0 := ⟨_, rfl⟩
  rw [← he] at port others sees four' marked count logged
  obtain ⟨waiting, frame⟩ := waits_facts (u := u) (slots := slots) (c := lastBit.toNat) sees four'
  refine ⟨_, ?_, waiting _ port, ?_, ?_,
    logged_after logged (fun a _ => frame.regs a List.not_mem_nil) (frame.parts.time (by decide)) (frame.parts.gloss (by decide)),
    fun q hq => (daiOf_onDai_ne hq).trans (others q hq),
    touches_trans sees.frame (touches_mono frame (by decide) (List.nil_subset _))⟩
  · rw [exec_portFrameIn on rx length, daiAssign_eq four hu, slips_yes four target clock again, shown_present clock, ← he]
    simp only [if_true]
    rw [if_neg (by rw [sees.now]; omega)]
  · rw [flag_onDai, marked]
  · rw [rd_onDai, count]

theorem portFrameIn_none (h : domainOn s 7 = false ∨ slots.length ≠ daiSlots s p) : exec (.portFrameIn p slots lastBit) s = .next s := by
  show execPortFrameIn p slots lastBit s = _
  unfold execPortFrameIn
  rw [if_pos (h.imp_left fun off => by simp [off])]

/-- A frame that RXEN keeps out shows the clock. -/
theorem exec_portFrameIn_off (on : domainOn s 7 = true) (rx : daiRx s p = false) (length : slots.length = daiSlots s p) :
    exec (.portFrameIn p slots lastBit) s = .next (shown s p) := by
  show execPortFrameIn p slots lastBit s = _
  unfold execPortFrameIn
  rw [if_neg (by simp [on, length]), rx, if_neg Bool.false_ne_true]
  rfl

theorem portFrameIn_returns (four : s.dai.length = 4) (on : domainOn s 7 = true) (rx : daiRx s p = false) (length : slots.length = daiSlots s p)
    (lost : daiNoClk s p = true) :
    ∃ t, exec (.portFrameIn p slots lastBit) s = .next t ∧ flag t (daiReg R.daiStat p) 2 = false ∧
      daiOf t p = { daiOf s p with lastU := none, edgeAt := s.time.aoTime } ∧ (∀ q, q ≠ p.val → daiOf t q = daiOf s q) ∧
      Touches [.dai] [daiReg R.daiStat p] s t := by
  refine ⟨shown s p, exec_portFrameIn_off on rx length, noClk_shown, ?_, fun q hq => daiOf_shown_ne hq, touches_shown⟩
  rw [daiOf_shown four, lost, if_pos rfl]

end In

/-! ### The words of a position (R386) -/

section Words
variable {s e t : State} {p : Fin 4} {v k n : Nat} {ws : List (Option Word)}

theorem ringWord_clean {a : Nat} (clean : t.ecc = []) (aligned : a % 4 = 0) : ringWord t a = (t, (word32At t a).toInt) := by
  rw [ringWord, memLoad4_clean t 2 a aligned (by rw [clean]; rfl), ← word_of_bytes]
  rfl

theorem word32At_of_mem {a : Nat} (h : t.mem = s.mem) : word32At t a = word32At s a := word32At_congr fun _ _ => memByte_of_mem h

/-- Where a slot's rings lie, a word is aligned. -/
structure Aligned (s : State) : Prop where
  clean : s.ecc = []
  ports : (rd s R.daiIbase).toNat % 4 = 0
  inputs : (rd s R.adcIbase).toNat % 4 = 0

theorem inputAddr_aligned (h : Aligned s) (n u : Nat) : inputAddr s n u % 4 = 0 := by
  have base := h.inputs
  unfold inputAddr
  omega

theorem daiAddr_aligned (h : Aligned s) (q k u : Nat) : daiAddr s q k u % 4 = 0 := by
  have base := h.ports
  unfold daiAddr
  omega

/-- A ring's word as the port reads it. -/
theorem ringWord_seen (seen : Sees s t p) (h : Aligned s) {a : Nat} (aligned : a % 4 = 0) : ringWord t a = (t, (word32At s a).toInt) := by
  rw [ringWord_clean (by rw [seen.ecc, h.clean]) aligned, word32At_of_mem seen.mem]

/-- The source of a slot, in a state that differs from s in what a port's commands write. -/
theorem slotSource_seen (seen : Sees s t p) (h : Aligned s) (hk : k < 16) : slotSource t p k v = (t, portValue s p v k) := by
  unfold slotSource portValue
  simp only [seen.oslot hk, seen.bus, seen.input, seen.addr, ringWord_seen seen h (inputAddr_aligned h _ _),
    ringWord_seen seen h (daiAddr_aligned h _ _ _)]
  split <;> rfl

/-- A slot's word is sent, with SAT where it saturates. -/
theorem slotWord_seen (seen : Sees s t p) (h : Aligned s) (hk : k < 16) : slotWord v p (t, ws) k =
    (if portSaturates s p v k then setFlag t (daiReg R.daiStat p) 3 else t, ws ++ [portWord s p v k]) := by
  unfold slotWord
  simp only [slotSource_seen seen h hk]
  unfold portSaturates portWord
  cases portValue s p v k with
  | none => simp only [seen.tri, Bool.false_eq_true, if_false]
  | some x => simp only [seen.width]

/-- The words of the first n slots have been formed from state e. -/
structure Formed (s e : State) (p : Fin 4) (v n : Nat) (f : State × List (Option Word)) : Prop where
  frame : Touches [] [daiReg R.daiStat p] e f.1
  sat   : flag f.1 (daiReg R.daiStat p) 3 = (flag e (daiReg R.daiStat p) 3 || (List.range n).any (portSaturates s p v))
  slip  : flag f.1 (daiReg R.daiStat p) 0 = flag e (daiReg R.daiStat p) 0
  words : f.2 = (List.range n).map (portWord s p v)

theorem Formed.sees {f : State × List (Option Word)} (formed : Formed s e p v n f) (seen : Sees s e p) : Sees s f.1 p :=
  seen.trans (sees_of_touches (touches_mono formed.frame (List.nil_subset _) fun _ h => List.mem_cons.2 (.inl (List.mem_singleton.1 h))))

theorem formed_succ {f : State × List (Option Word)} (seen : Sees s e p) (h : Aligned s) (hn : n < 16) (formed : Formed s e p v n f) :
    Formed s e p v (n + 1) (slotWord v p f n) := by
  rw [show slotWord v p f n = slotWord v p (f.1, f.2) n from rfl, slotWord_seen (formed.sees seen) h hn]
  have words : f.2 ++ [portWord s p v n] = (List.range (n + 1)).map (portWord s p v) := by
    rw [formed.words, List.range_succ, List.map_append, List.map_singleton]
  have any : (List.range (n + 1)).any (portSaturates s p v) = ((List.range n).any (portSaturates s p v) || portSaturates s p v n) := by
    rw [List.range_succ, List.any_append, List.any_cons, List.any_nil, Bool.or_false]
  cases high : portSaturates s p v n with
  | false =>
    refine ⟨formed.frame, ?_, formed.slip, words⟩
    rw [any, high, Bool.or_false]
    exact formed.sat
  | true =>
    refine ⟨touches_setFlag formed.frame _ List.mem_cons_self, ?_, ?_, words⟩
    · rw [any, high, Bool.or_true, Bool.or_true, if_pos rfl, flag_setFlag _ _ _ (by decide)]
    · rw [if_pos rfl, setFlag_eq, flag_wrFld_apart (by decide) (by decide) (by decide), formed.slip]

theorem daiSlots_le : daiSlots s p ≤ 16 := by
  have three : fld s (daiReg R.daiCfg p) 3 2 + 1 ≤ 4 := Nat.succ_le_of_lt (Nat.mod_lt _ (by decide))
  exact Nat.pow_le_pow_right (by decide) three

theorem formed_all (seen : Sees s e p) (h : Aligned s) : Formed s e p v (daiSlots s p) ((List.range (daiSlots s p)).foldl (slotWord v p) (e, [])) := by
  have upTo : ∀ n, n ≤ 16 → Formed s e p v n ((List.range n).foldl (slotWord v p) (e, [])) := by
    intro n
    induction n with
    | zero => exact fun _ => ⟨touches_rfl, (Bool.or_false _).symm, rfl, rfl⟩
    | succ n ih =>
      intro fits
      rw [List.range_succ, List.foldl_append, List.foldl_cons, List.foldl_nil]
      exact formed_succ seen h fits (ih (Nat.le_of_lt fits))
  exact upTo _ daiSlots_le

end Words

/-! ### Frames that go out (R384, R386, R387) -/

section Out
variable {s e : State} {p : Fin 4} {begins : DWord} {v last : Nat}

/-- The words of position v go out. -/
def dispatch (s : State) (p v : Nat) : State :=
  let f := (List.range (daiSlots s p)).foldl (slotWord v p) (s, [])
  onDai f.1 p fun d => { d with lastV := some v, sdo := f.2 }

theorem dispatch_facts (seen : Sees s e p) (four : e.dai.length = 4) (h : Aligned s) :
    daiOf (dispatch e p v) p = { daiOf e p with lastV := some v, sdo := (List.range (daiSlots s p)).map (portWord s p v) } ∧
      (∀ q, q ≠ p.val → daiOf (dispatch e p v) q = daiOf e q) ∧
      flag (dispatch e p v) (daiReg R.daiStat p) 3 =
        (flag e (daiReg R.daiStat p) 3 || (List.range (daiSlots s p)).any (portSaturates s p v)) ∧
      flag (dispatch e p v) (daiReg R.daiStat p) 0 = flag e (daiReg R.daiStat p) 0 ∧
      Touches [.dai] [daiReg R.daiStat p] e (dispatch e p v) := by
  have formed := formed_all (v := v) seen h
  rw [dispatch, seen.slots]
  generalize (List.range (daiSlots s p)).foldl (slotWord v p) (e, []) = f at formed
  have dai : f.1.dai = e.dai := formed.frame.parts.dai (by decide)
  refine ⟨?_, fun q hq => ?_, formed.sat, formed.slip, touches_onDai (touches_mono formed.frame (List.nil_subset _) (List.Subset.refl _)) (by decide)⟩
  · rw [daiOf_onDai (dai ▸ four), daiOf_congr dai, formed.words]
  · rw [daiOf_onDai_ne hq, daiOf_congr dai]

theorem daiSend_first (last : (daiOf e p).lastV = none) : daiSend e p v = dispatch e p v := by
  unfold daiSend
  simp only [last]
  rfl

theorem daiSend_follows (h : (daiOf e p).lastV = some last) (next : daiController e p = true ∨ v = last + 1) :
    daiSend e p v = dispatch e p v := by
  unfold daiSend
  simp only [h]
  rw [if_pos next]
  rfl

theorem daiSend_slips (h : (daiOf e p).lastV = some last) (target : daiController e p = false) (skips : v ≠ last + 1) :
    daiSend e p v = dispatch (daiSlip e p 1) p v := by
  unfold daiSend
  simp only [h]
  rw [if_neg (by simp [target, skips])]
  rfl

/-- The controller's frame for a position, which it sends where it has not. -/
theorem daiBegin_sends (on : domainOn e 7 = true) (controller : daiController e p = true) (tx : daiTx e p = true)
    (new : (daiOf e p).lastV ≠ some v) : daiBegin (v + 1) e p = daiSend e p v := by
  rw [daiBegin, if_pos ⟨on, controller, tx, Nat.le_add_left .., new⟩, Nat.add_sub_cancel]

theorem daiBegin_none (h : daiTx e p = false ∨ v = 0 ∨ (daiOf e p).lastV = some (v - 1)) : daiBegin v e p = e := by
  rw [daiBegin, if_neg]
  rintro ⟨-, -, tx, least, new⟩
  rcases h with off | none | sent
  · exact Bool.false_ne_true (off.symm.trans tx)
  · omega
  · exact new sent

theorem exec_portFrameOut (on : domainOn s 7 = true) : exec (.portFrameOut p begins) s =
    (if daiController (shown s p) p then
      (if begins.toNat % 256 = 0 then .next (daiBegin (begins.toNat / 256) (shown s p) p) else .next (shown s p))
    else if daiTx (shown s p) p ∧ 256 ≤ begins.toNat then .next (daiSend (shown s p) p (begins.toNat / 256 - 1)) else .next (shown s p)) := by
  show execPortFrameOut p begins s = _
  unfold execPortFrameOut
  rw [if_neg (by simp [on])]
  rfl

/-- A frame that sends its position, of a controller or of a target. -/
theorem exec_sends (four : s.dai.length = 4) (on : domainOn s 7 = true) (tx : daiTx s p = true) (begun : begins.toNat / 256 = v + 1)
    (h : daiController s p = true → begins.toNat % 256 = 0 ∧ (daiOf s p).lastV ≠ some v) :
    exec (.portFrameOut p begins) s = .next (daiSend (shown s p) p v) := by
  have seen := sees_shown (s := s) (p := p) four
  have lastV : (daiOf (shown s p) p).lastV = (daiOf s p).lastV := by rw [daiOf_shown four]
  rw [exec_portFrameOut on, seen.controller, seen.tx, begun]
  cases controller : daiController s p with
  | true =>
    obtain ⟨whole, new⟩ := h controller
    rw [if_pos rfl, if_pos whole, daiBegin_sends (seen.dai_on.trans on) (seen.controller.trans controller) (seen.tx.trans tx)
      (lastV ▸ new)]
  | false => rw [if_neg Bool.false_ne_true, if_pos ⟨tx, by omega⟩, Nat.add_sub_cancel]

theorem portFrameOut_sends (four : s.dai.length = 4) (h : Aligned s) (on : domainOn s 7 = true) (tx : daiTx s p = true)
    (begun : begins.toNat / 256 = v + 1) (clock : daiNoClk s p = false)
    (way : (daiController s p = true ∧ begins.toNat % 256 = 0 ∧ (daiOf s p).lastV ≠ some v) ∨
      (daiController s p = false ∧ ∀ last, (daiOf s p).lastV = some last → v = last + 1)) :
    ∃ t, exec (.portFrameOut p begins) s = .next t ∧
      daiOf t p = { daiOf s p with
        lastV := some v, sdo := (List.range (daiSlots s p)).map (portWord s p v), edgeAt := s.time.aoTime } ∧
      (∀ q, q ≠ p.val → daiOf t q = daiOf s q) ∧
      flag t (daiReg R.daiStat p) 3 = (flag s (daiReg R.daiStat p) 3 || (List.range (daiSlots s p)).any (portSaturates s p v)) ∧
      Touches [.dai] [daiReg R.daiStat p] s t := by
  have seen := sees_edgeSeen (s := s) (p := p) four
  have edge := daiOf_edgeSeen (p := p) four
  have lastV : (daiOf (edgeSeen s p) p).lastV = (daiOf s p).lastV := by rw [edge]
  have sends : daiSend (edgeSeen s p) p v = dispatch (edgeSeen s p) p v := by
    cases before : (daiOf s p).lastV with
    | none => exact daiSend_first (lastV.trans before)
    | some last =>
      refine daiSend_follows (lastV.trans before) ?_
      rw [seen.controller]
      exact way.imp (fun k => k.1) fun k => k.2 last before
  have once : daiController s p = true → begins.toNat % 256 = 0 ∧ (daiOf s p).lastV ≠ some v := fun controller =>
    way.elim (fun k => k.2) fun k => absurd (controller.symm.trans k.1) (by decide)
  obtain ⟨port, other, sat, -, frame⟩ := dispatch_facts (v := v) seen (length_edgeSeen.trans four) h
  refine ⟨dispatch (edgeSeen s p) p v, ?_, by rw [port, edge], fun q hq => ?_, sat,
    touches_trans (touches_mono touches_edgeSeen (List.Subset.refl _) (List.nil_subset _)) frame⟩
  · rw [exec_sends four on tx begun once, shown_present clock, sends]
  · rw [other q hq, edgeSeen, daiOf_onDai_ne hq]

theorem portFrameOut_slips (four : s.dai.length = 4) (h : Aligned s) (on : domainOn s 7 = true) (tx : daiTx s p = true)
    (begun : begins.toNat / 256 = v + 1) (clock : daiNoClk s p = false) (target : daiController s p = false)
    (before : (daiOf s p).lastV = some last) (skips : v ≠ last + 1) (fresh : (daiOf s p).slipFrame ≠ some (frameNow s)) :
    ∃ t, exec (.portFrameOut p begins) s = .next t ∧
      daiOf t p = { daiOf s p with
        lastV := some v, sdo := (List.range (daiSlots s p)).map (portWord s p v), slipFrame := some (frameNow s),
        edgeAt := s.time.aoTime } ∧
      (∀ q, q ≠ p.val → daiOf t q = daiOf s q) ∧ flag t (daiReg R.daiStat p) 0 = true ∧
      rd t (daiReg R.daiSlip p) = rd (countUp s (daiReg R.daiSlip p)) (daiReg R.daiSlip p) ∧
      Logged 0x5300 (w32 p) 1 (w32 (frameNow s)) s t ∧
      Touches [.dai, .gloss] (daiReg R.daiStat p :: daiReg R.daiSlip p :: glossRegs) s t := by
  have edge := daiOf_edgeSeen (p := p) four
  have sends : daiSend (edgeSeen s p) p v = dispatch (daiSlip (edgeSeen s p) p 1) p v :=
    daiSend_slips (by rw [edge, before]) ((sees_edgeSeen four).controller.trans target) skips
  obtain ⟨port, others, sees, four', marked, count, logged⟩ := slip_seen (kind := 1) four fresh
  obtain ⟨e, he⟩ : ∃ e, e = daiSlip (edgeSeen s p) p 1 := ⟨_, rfl⟩
  rw [← he] at port others sees four' marked count logged sends
  obtain ⟨here, other, -, slip, frame⟩ := dispatch_facts (v := v) sees four' h
  have apart : ∀ a, a ≠ daiReg R.daiStat p → rd (dispatch e p v) a = rd e a := fun a ha => frame.regs a (by simpa using ha)
  refine ⟨dispatch e p v, ?_, by rw [here, port], fun q hq => (other q hq).trans (others q hq), slip.trans marked,
    (apart _ (daiStat_ne_daiSlip p).symm).trans count,
    logged_after logged (fun a ha => apart a fun same => daiStat_unrecorded p (same ▸ ha)) (frame.parts.time (by decide)) (frame.parts.gloss (by decide)),
    touches_trans sees.frame (touches_mono frame (by decide) fun _ ha => List.mem_cons.2 (.inl (List.mem_singleton.1 ha)))⟩
  rw [exec_sends four on tx begun (fun k => absurd (k.symm.trans target) (by decide)), shown_present clock, sends]

theorem portFrameOut_none (off : domainOn s 7 = false) : exec (.portFrameOut p begins) s = .next s := by
  show execPortFrameOut p begins s = _
  unfold execPortFrameOut
  rw [if_pos (by simp [off])]

/-- A frame that sends nothing shows the clock. -/
theorem exec_portFrameOut_quiet (four : s.dai.length = 4) (on : domainOn s 7 = true)
    (h : daiTx s p = false ∨ begins.toNat < 256 ∨ (daiController s p = true ∧
      (begins.toNat % 256 ≠ 0 ∨ (daiOf s p).lastV = some (begins.toNat / 256 - 1)))) :
    exec (.portFrameOut p begins) s = .next (shown s p) := by
  have seen := sees_shown (s := s) (p := p) four
  have lastV : (daiOf (shown s p) p).lastV = (daiOf s p).lastV := by rw [daiOf_shown four]
  rw [exec_portFrameOut on, seen.controller, seen.tx]
  cases controller : daiController s p with
  | true =>
    rw [if_pos rfl]
    by_cases whole : begins.toNat % 256 = 0
    · rw [if_pos whole, daiBegin_none]
      rw [seen.tx, lastV]
      refine h.imp_right (Or.imp (fun _ => by omega) fun k => k.2.resolve_left fun part => part whole)
    · rw [if_neg whole]
  | false =>
    rw [if_neg Bool.false_ne_true, if_neg]
    rintro ⟨tx, late⟩
    rcases h with off | early | ⟨drives, -⟩
    · exact Bool.false_ne_true (off.symm.trans tx)
    · omega
    · exact Bool.false_ne_true (controller.symm.trans drives)

theorem portFrame_quiet {slots : List Word} {lastBit : DWord} {c : Instr} (four : s.dai.length = 4) (on : domainOn s 7 = true)
    (clock : daiNoClk s p = false)
    (h : (c = .portFrameIn p slots lastBit ∧ slots.length = daiSlots s p ∧ daiRx s p = false) ∨
      (c = .portFrameOut p begins ∧ (daiTx s p = false ∨ begins.toNat < 256 ∨ (daiController s p = true ∧
        (begins.toNat % 256 ≠ 0 ∨ (daiOf s p).lastV = some (begins.toNat / 256 - 1)))))) :
    ∃ t, exec c s = .next t ∧ daiOf t p = { daiOf s p with edgeAt := s.time.aoTime } ∧
      (∀ q, q ≠ p.val → daiOf t q = daiOf s q) ∧ Touches [.dai] [] s t := by
  refine ⟨edgeSeen s p, ?_, daiOf_edgeSeen four, fun q hq => daiOf_onDai_ne hq, touches_edgeSeen⟩
  rw [← shown_present clock]
  rcases h with ⟨rfl, length, rx⟩ | ⟨rfl, quiet⟩
  · exact exec_portFrameIn_off on rx length
  · exact exec_portFrameOut_quiet four on quiet

end Out

/-! ### A lost clock (R388) -/

section Lost
variable {s : State} {p : Fin 4}

/-- NOCLK set, and the port delivers 0. -/
def lostClock (s : State) (p : Nat) : State :=
  onDai (setFlag s (daiReg R.daiStat p) 2) p fun d => { d with words := List.replicate 16 0 }

theorem sees_lostClock (four : s.dai.length = 4) : Sees s (lostClock s p) p :=
  (sees_of_touches (touches_setFlag touches_rfl _ List.mem_cons_self)).trans (sees_onDai (by rw [setFlag_dai, four]) rfl rfl)

theorem daiNoClock_lost (four : s.dai.length = 4) (on : domainOn s 7 = true) (target : daiController s p = false) (clock : daiNoClk s p = false)
    (long : 2 * tclkPerSample s ≤ cyclesSince s (daiOf s p).edgeAt) :
    ∃ t, exec (.daiNoClock p) s = .next t ∧ flag t (daiReg R.daiStat p) 2 = true ∧
      daiOf t p = { daiOf s p with words := List.replicate 16 0 } ∧ (∀ q, q ≠ p.val → daiOf t q = daiOf s q) ∧
      Logged 0x5301 (w32 p) (w32 (frameNow s)) 0 s t ∧ Touches [.dai, .gloss] (daiReg R.daiStat p :: glossRegs) s t := by
  have value : exec (.daiNoClock p) s = .next (raiseGloss (lostClock s p) 0x5301 (w32 p) (w32 (frameNow (lostClock s p))) 0) := by
    show execDaiNoClock p s = _
    unfold execDaiNoClock
    rw [if_pos ⟨on, by simp [target], by simp [clock], long⟩, lostClock]
  have uncounted := portRegs_uncounted p _ List.mem_cons_self
  have dai : ∀ q, daiOf (raiseGloss (lostClock s p) 0x5301 (w32 p) (w32 (frameNow s)) 0) q = daiOf (lostClock s p) q := fun q =>
    daiOf_congr (raiseGloss_dai ..)
  have marked : Touches [.dai] [daiReg R.daiStat p] s (lostClock s p) :=
    touches_onDai (touches_setFlag touches_rfl _ List.mem_cons_self) (by decide)
  have time := marked.parts.time (by decide)
  rw [(sees_lostClock four).frameNow] at value
  refine ⟨_, value, ?_, ?_, fun q hq => ?_, logged_raiseGloss (marked.parts.gloss (by decide)) ⟨by rw [time], by rw [time], by rw [time], by rw [time]⟩,
    touches_raiseGloss (touches_mono marked (by decide) fun _ ha => List.mem_cons.2 (.inl (List.mem_singleton.1 ha))) _ _ _ _ (by decide)
      fun _ ha => List.mem_cons_of_mem _ ha⟩
  · rw [flag_raiseGloss uncounted, lostClock, flag_onDai, flag_setFlag _ _ _ (by decide)]
  · rw [dai, lostClock, daiOf_onDai (by rw [setFlag_dai, four]), daiOf_congr (setFlag_dai ..)]
  · rw [dai, lostClock, daiOf_onDai_ne hq, daiOf_congr (setFlag_dai ..)]

theorem daiNoClock_none (h : domainOn s 7 = false ∨ daiController s p = true ∨ daiNoClk s p = true ∨
    cyclesSince s (daiOf s p).edgeAt < 2 * tclkPerSample s) : exec (.daiNoClock p) s = .next s := by
  show execDaiNoClock p s = _
  unfold execDaiNoClock
  rw [if_neg]
  rintro ⟨on, target, clock, long⟩
  rcases h with off | controller | lost | short
  · exact Bool.false_ne_true (off.symm.trans on)
  · exact target controller
  · exact clock lost
  · omega

end Lost

/-- Settles O45: each command first shows the clock, then delivers, keeps, sends or slips from a state that differs in the port alone. -/
theorem audioPorts : Obligations.AudioPorts := by
  unfold Obligations.AudioPorts
  exact ⟨fun _ _ _ _ _ _ four clean _ on rx length hu now hw h => portFrameIn_delivers four clean on rx length hu now hw h,
    fun _ _ _ _ _ _ four clean _ on rx length hu now hw target clock again fresh =>
      portFrameIn_slips four clean on rx length hu now hw target clock again fresh,
    fun _ _ _ _ _ four on rx length hu later h => portFrameIn_waits four on rx length hu later h,
    fun _ _ _ _ _ four on rx length hu later target clock again fresh =>
      portFrameIn_waits_slipping four on rx length hu later target clock again fresh,
    fun _ _ _ _ h => portFrameIn_none h,
    fun _ _ _ _ _ _ four on clock h => portFrame_quiet four on clock h,
    fun _ _ _ _ four on rx length lost => portFrameIn_returns four on rx length lost,
    fun _ _ _ _ four clean ports inputs on tx begun clock way => portFrameOut_sends four ⟨clean, ports, inputs⟩ on tx begun clock way,
    fun _ _ _ _ _ four clean ports inputs on tx begun clock target before skips fresh =>
      portFrameOut_slips four ⟨clean, ports, inputs⟩ on tx begun clock target before skips fresh,
    fun _ _ _ off => portFrameOut_none off,
    fun _ _ four on target clock long => daiNoClock_lost four on target clock long,
    fun _ _ h => daiNoClock_none h⟩

end Sys2Proof.DigitalAudio

/-! PROOFS. Writes of the registers after which something runs, or of which a value resets the device: PWR.CMD, NVM.RELOAD and LINK.RCTL
(R24, R380, R436, R446). -/

namespace Sys2Proof.Answers
open Sys2Proof.Machine Sys2Proof.Laws Sys2Proof.Architecture

section Row
variable {ps : List Part} {rs : List Nat} {s u w : State} {a e : Nat} {v : Word} {d : RegDesc}

/-- A register that lies in a page and is no ERR register. -/
structure Row (a : Nat) (d : RegDesc) : Prop where
  low  : 0x40000000 ≤ a
  high : a < 0x40130000
  desc : regDesc a = some d
  err  : a % 0x10000 ≠ 0xFFFC

/-- A write that resets the device by PWR.CMD (R446). -/
abbrev ResetWrite (s : State) (a : Nat) (v : Word) : Prop := a = R.pwrCmd ∧ bits v 31 24 = 0x5A ∧ bits v 2 0 = 4 ∧ ¬ flag s R.pwrStat 3

theorem writeWord32_row (domain : domainOn s (pageDomain a) = true) (row : Row a d) (stays : ¬ ResetWrite s a v) :
    writeWord32 s 0 a v = judged s (pageOf a + 0xFFFC) fun t => writeOn t false d a v := by
  unfold writeWord32 writeReg
  simp only [regionOf_page row.low row.high, domain, row.desc, if_neg row.err, if_neg stays, Bool.not_true, Bool.false_eq_true, if_false]
  rfl

/-- An operation that refuses nothing, with what runs after it. -/
theorem row_done (he : pageOf a + 0xFFFC = e) (tap : tapHolds s = false) (domain : domainOn s (pageDomain a) = true) (row : Row a d)
    (stays : ¬ ResetWrite s a v) (command : commandReg (wr s e 0) false a v = some u) (touched : Touches ps rs (wr s e 0) u) (apart : e ∉ rs) :
    regWrite s a v = afterHost (wr u e (rd s e)) a v ∧ Touches ps rs s (wr u e (rd s e)) := by
  subst he
  have operates : writeOn (wr s (pageOf a + 0xFFFC) 0) false d a v = u := by
    rw [writeOn, command]
    rfl
  have unrefused : rd u (pageOf a + 0xFFFC) = 0 := by rw [touched.regs _ apart, rd_wr]
  refine ⟨?_, touches_taken _ touched⟩
  rw [regWrite, hostWrite, tap, if_neg Bool.false_ne_true, writeWord32_row domain row stays, judged_taken _ _ _ (operates.symm ▸ unrefused),
    operates]

theorem errBit_ne_zero (encoding : Bool) (y : BitVec 16) : errBit encoding ||| y.setWidth 32 ≠ 0 := fun none => by
  have bit := (errBit_parts encoding y).1
  rw [none] at bit
  cases encoding <;> exact absurd bit (by decide)

/-- An operation that refuses itself, from a state w: nothing runs after it. -/
theorem regWrite_refuses {encoding : Bool} (he : pageOf a + 0xFFFC = e) (may : HostMayWrite s a) (row : Row a d) (stays : ¬ ResetWrite s a v)
    (command : commandReg (wr s e 0) false a v = some (refuse w a encoding)) (clear : rd w e = 0) :
    regWrite s a v = wr (refuse w a encoding) e (errAfter s a encoding) := by
  subst he
  have operates : writeOn (wr s (pageOf a + 0xFFFC) 0) false d a v = refuse w a encoding := by
    rw [writeOn, command]
    rfl
  have offset : w32 (a % 0x10000) = (BitVec.ofNat 16 a).setWidth 32 := by
    apply BitVec.eq_of_toNat_eq
    simp [w32]
  have left := refuse_rd (a := a) w encoding clear
  have some' : rd (writeOn (wr s (pageOf a + 0xFFFC) 0) false d a v) (pageOf a + 0xFFFC) ≠ 0 := by
    rw [operates, left, offset]
    exact errBit_ne_zero _ _
  have page : pageOf (pageOf a + 0xFFFC) = pageOf a := by
    unfold pageOf
    omega
  rw [regWrite, hostWrite, may.tap, if_neg Bool.false_ne_true, writeWord32_row may.domain row stays, judged_refused _ _ _ some', operates, left, page,
    refused_word]

theorem row_refused {encoding : Bool} (he : pageOf a + 0xFFFC = e) (may : HostMayWrite s a) (row : Row a d) (stays : ¬ ResetWrite s a v)
    (command : commandReg (wr s e 0) false a v = some (refuse (wr s e 0) a encoding)) : Refused s (regWrite s a v) a encoding := by
  rw [regWrite_refuses he may row stays command (rd_wr ..)]
  subst he
  exact ⟨rd_wr _ _ _, rfl, touches_refused rfl⟩

end Row

end Sys2Proof.Answers

/-! PROOFS. Chain links: one link changes, its training state, the packets that arrive and those that are queued (R351 to R356). -/

namespace Sys2Proof.Links
open Sys2Proof.Machine Sys2Proof.Laws Sys2Proof.Architecture Sys2Proof.Answers
open Sys2Proof.SerialPorts (flag_congr fld_congr)

/-! ### One link changes -/

section One
variable {s t u : State} {l : Fin 4} {k : LinkSt} {f : LinkSt → LinkSt} {ps : List Part} {rs : List Nat}

theorem linkOf_congr {m : Nat} (h : t.links = s.links) : linkOf t m = linkOf s m := by rw [linkOf, h, linkOf]

theorem linkOf_onLink (four : s.links.length = 4) : linkOf (onLink s l f) l = f (linkOf s l) :=
  nth_modify _ _ _ _ (four.symm ▸ l.isLt)

theorem linkOf_onLink_ne {i m : Nat} (h : m ≠ i) : linkOf (onLink s i f) m = linkOf s m := nth_modify_ne _ _ _ _ _ h

theorem length_onLink {i : Nat} : (onLink s i f).links.length = s.links.length := List.length_modify ..

theorem touches_onLink {i : Nat} (h : Touches ps rs s t) (links : Part.links ∈ Part.regs :: ps) : Touches ps rs s (onLink t i f) :=
  touches_links h _ links

/-- From s to t link l has become k, and no other link has changed. -/
structure Only (s t : State) (l : Fin 4) (k : LinkSt) : Prop where
  here  : linkOf t l = k
  other : ∀ m, m ≠ l.val → linkOf t m = linkOf s m
  four  : t.links.length = 4

theorem Only.refl (four : s.links.length = 4) : Only s s l (linkOf s l) := ⟨rfl, fun _ _ => rfl, four⟩

theorem Only.onLink (h : Only s t l k) (f : LinkSt → LinkSt) : Only s (onLink t l f) l (f k) :=
  ⟨by rw [linkOf_onLink h.four, h.here], fun m hm => (linkOf_onLink_ne hm).trans (h.other m hm), length_onLink.trans h.four⟩

theorem Only.congr (h : Only s t l k) (same : u.links = t.links) : Only s u l k :=
  ⟨(linkOf_congr same).trans h.here, fun m hm => (linkOf_congr same).trans (h.other m hm), same ▸ h.four⟩

end One

/-! ### What a link's commands read -/

section Reads
variable {s t : State} {l : Fin 4}

/-- The registers of the links' configuration and of this device's place, with those its rates come from. -/
def placeRegs : List Nat :=
  [R.linkAddr, R.linkCfg, R.linkStat, R.clkStat, R.linkLcfg, R.linkLcfg + 0x40, R.linkLcfg + 0x80, R.linkLcfg + 0xC0]

theorem lcfg_place {m : Nat} (h : m < 4) : R.linkLcfg + 0x40 * m ∈ placeRegs := by
  have all : ∀ m : Fin 4, R.linkLcfg + 0x40 * m.val ∈ placeRegs := by decide
  exact all ⟨m, h⟩

/-- The registers that a step of a link's training writes. -/
def stepRegs (l : Nat) : List Nat := [lstatReg l, R.sysIrqstat]

theorem place_apart (l : Fin 4) : ∀ a ∈ placeRegs, a ∉ lstatReg l :: R.sysIrqstat :: glossRegs := by revert l; decide

theorem lstat_uncounted (l : Fin 4) : lstatReg l ∉ glossRegs := by revert l; decide

theorem lstat_unrecorded (l : Fin 4) : ∀ a ∈ recorderInputs, a ∉ stepRegs l := by revert l; decide

theorem lstat_ne_irq (l : Fin 4) : lstatReg l ≠ R.sysIrqstat := by revert l; decide

/-- A link's configuration is none of what its training and its address write. -/
theorem lcfg_apart (l : Fin 4) {m : Nat} (h : m < 4) : R.linkLcfg + 0x40 * m ∉ [R.linkAddr, lstatReg l, R.sysIrqstat] := by
  have all : ∀ (l m : Fin 4), R.linkLcfg + 0x40 * m.val ∉ [R.linkAddr, lstatReg l, R.sysIrqstat] := by decide
  exact all l ⟨m, h⟩

theorem lcfg_ne_lstat (l : Fin 4) : R.linkLcfg + 0x40 * l.val ≠ lstatReg l := by revert l; decide

theorem lstat_ne_addr (l : Fin 4) : lstatReg l ≠ R.linkAddr := by revert l; decide

/-- The links of t are configured as those of s, and its place and its rates are the same. -/
abbrev SamePlace (s t : State) : Prop := ∀ a ∈ placeRegs, rd t a = rd s a

theorem samePlace_of_touches {ps : List Part} (h : Touches ps (lstatReg l :: R.sysIrqstat :: glossRegs) s t) : SamePlace s t := fun a ha =>
  h.regs a (place_apart l a ha)

theorem linkDir_congr (h : SamePlace s t) {m : Nat} (hm : m < 4) : linkDir t m = linkDir s m := fld_congr (h _ (lcfg_place hm))

theorem upLink_congr (h : SamePlace s t) : upLink t = upLink s := by
  have same : ∀ m ∈ List.range 4, decide (linkDir t m = 1) = decide (linkDir s m = 1) := fun m hm => by
    rw [linkDir_congr h (List.mem_range.1 hm)]
  exact List.find?_congr same

theorem manages_congr (h : SamePlace s t) : manages t l = manages s l := by
  rw [manages, isDown, linkDir_congr h l.isLt, flag_congr (h R.linkAddr (by simp [placeRegs])), manages, isDown]

theorem linkHd_congr (h : rd t R.linkAddr = rd s R.linkAddr) (dest : Nat) : linkHd t dest = linkHd s dest := by
  rw [linkHd, flag_congr h, fld_congr h, linkHd]

theorem castHd_congr (h : rd t R.linkAddr = rd s R.linkAddr) : castHd t = castHd s := by rw [castHd, linkHd_congr h, castHd]

theorem syncBytes_congr (h : t.time = s.time) (new : Bool) : syncBytes t new = syncBytes s new := by rw [syncBytes, h, syncBytes]

theorem linkDir_of_manages (h : manages s l = true) : linkDir s l ≠ 0 := fun off => by
  rw [manages, isDown, off] at h
  simp at h

end Reads

/-! ### The training state (R356) -/

section Training
variable {s t : State} {l : Fin 4} {k : LinkSt} {n : Nat}

/-- The step changes: the state a link's training is in then. -/
def stepped (s : State) (l st : Nat) : State :=
  raiseIrq (wrFld (onLink s l fun k => { k with since := s.time.aoTime }) (lstatReg l) 2 0 st) 11

theorem setLinkState_eq (moves : linkState s l ≠ n) (early : n ≠ 6) : setLinkState s l n = stepped s l n := by
  rw [setLinkState, if_neg moves]
  dsimp only
  rw [if_neg early, stepped]

theorem only_stepped (h : Only s t l k) : Only s (stepped t l n) l { k with since := t.time.aoTime } :=
  (h.onLink fun k => { k with since := t.time.aoTime }).congr (by rw [stepped, raiseIrq_links, wrFld_links])

theorem touches_stepped : Touches [.links] (stepRegs l) s (stepped s l n) :=
  touches_raiseIrq (touches_wrFld (touches_onLink touches_rfl (by decide)) _ _ _ List.mem_cons_self) _
    (List.mem_cons_of_mem _ List.mem_cons_self)

theorem state_stepped (fits : n < 8) : linkState (stepped s l n) l = n := by
  show fld _ (lstatReg l) 2 0 = n
  rw [stepped, raiseIrq_eq, fld_wrFld_ne (lstat_ne_irq l), fld_wrFld_fits (by decide) (by decide) fits]

theorem irq_stepped : flag (stepped s l n) R.sysIrqstat 11 = true := by
  rw [stepped, raiseIrq]
  exact flag_setFlag _ _ _ (by decide)

/-- The rest of LSTAT stays. -/
theorem fld_stepped {hi lo : Nat} (above : 2 < lo) (order : lo ≤ hi) : fld (stepped s l n) (lstatReg l) hi lo = fld s (lstatReg l) hi lo := by
  rw [stepped, raiseIrq_eq, fld_wrFld_ne (lstat_ne_irq l), fld_wrFld_apart (by decide) (by decide) order (.inr above)]
  rfl

theorem flag_stepped {i : Nat} (above : 2 < i) : flag (stepped s l n) (lstatReg l) i = flag s (lstatReg l) i := by
  rw [stepped, raiseIrq_eq, flag_wrFld_ne (lstat_ne_irq l), flag_wrFld_apart (by decide) (by decide) (.inr above)]
  rfl

/-- What step 1 leaves in LSTAT. -/
theorem setBits_step (w : Word) : setBits (w &&& 7) 2 0 1 = 1 := by
  have low : (w &&& 7).toNat < 8 := by
    rw [BitVec.toNat_and]
    exact Nat.lt_of_le_of_lt Nat.and_le_right (by decide)
  have gone : (w &&& 7).toNat - bits (w &&& 7) 2 0 * 2 ^ 0 = 0 := by
    unfold bits
    omega
  rw [setBits, gone]
  rfl

theorem step_eq_one {w : Word} (h : bits (w &&& 7) 2 0 = 1) : w &&& 7 = 1 := by
  have low : (w &&& 7).toNat < 8 := by
    rw [BitVec.toNat_and]
    exact Nat.lt_of_le_of_lt Nat.and_le_right (by decide)
  apply BitVec.eq_of_toNat_eq
  unfold bits at h
  show (w &&& 7).toNat = 1
  omega

/-- A link back in step 1. -/
structure Retrained (s t : State) (l : Fin 4) : Prop where
  lstat : rd t (lstatReg l) = 1
  here  : linkOf t l = { since := s.time.aoTime }
  other : ∀ m, m ≠ l.val → linkOf t m = linkOf s m
  frame : Touches [.links] (stepRegs l) s t

/-- The link before its step changes: all it held is gone. -/
def emptied (s : State) (l : Nat) : State :=
  wr (onLink s l fun _ => { since := s.time.aoTime }) (lstatReg l) (rd s (lstatReg l) &&& 7)

theorem retrainLink_eq (dir : linkDir s l ≠ 0) : retrainLink s l = setLinkState (emptied s l) l 1 := by
  have same : linkDir (emptied s l) l ≠ 0 := by
    rw [emptied, linkDir, fld_wr_ne (lcfg_ne_lstat l)]
    exact dir
  rw [retrainLink]
  show setLinkState (emptied s l) l (if linkDir (emptied s l) l = 0 then 0 else 1) = _
  rw [if_neg same]

theorem retrainLink_facts (four : s.links.length = 4) (dir : linkDir s l ≠ 0) : Retrained s (retrainLink s l) l := by
  have only : Only s (emptied s l) l { since := s.time.aoTime } :=
    ((Only.refl four).onLink fun _ => { since := s.time.aoTime }).congr (wr_links ..)
  have frame : Touches [.links] (stepRegs l) s (emptied s l) :=
    touches_wr (touches_onLink touches_rfl (by decide)) _ List.mem_cons_self
  have value : rd (emptied s l) (lstatReg l) = rd s (lstatReg l) &&& 7 := rd_wr ..
  have time : (emptied s l).time = s.time := frame.parts.time (by decide)
  rw [retrainLink_eq dir]
  by_cases first : linkState (emptied s l) l = 1
  · rw [setLinkState, if_pos first]
    refine ⟨?_, only.here, only.other, frame⟩
    rw [value]
    refine step_eq_one ?_
    rw [← value]
    exact first
  · rw [setLinkState_eq first (by decide)]
    have after := only_stepped (n := 1) only
    refine ⟨?_, ?_, after.other, touches_trans frame touches_stepped⟩
    · rw [stepped, raiseIrq_eq, wrFld, rd_wr_ne _ _ _ _ (lstat_ne_irq l), wrFld, rd_wr]
      show setBits (rd (emptied s l) (lstatReg l)) 2 0 1 = 1
      rw [value, setBits_step]
    · rw [after.here, time]

/-- A link refused for a reason. -/
structure RefusedLink (s t : State) (l : Fin 4) (reason : Nat) : Prop where
  lstat  : rd t (lstatReg l) = 1
  here   : linkOf t l = { since := s.time.aoTime }
  other  : ∀ m, m ≠ l.val → linkOf t m = linkOf s m
  logged : Logged 0x6150 (w32 l) (w32 reason) (w32 (peerAddr s l)) s t
  frame  : Touches [.links, .gloss] (lstatReg l :: R.sysIrqstat :: glossRegs) s t

theorem logged_retrained {code : Nat} {d0 d1 d2 : Word} {v : State} (h : Logged code d0 d1 d2 s t) (k : Retrained t v l) :
    Logged code d0 d1 d2 s v :=
  logged_after h (fun a ha => k.frame.regs a (lstat_unrecorded l a ha)) (k.frame.parts.time (by decide)) (k.frame.parts.gloss (by decide))

theorem step_subset {rs : List Nat} (h : lstatReg l ∈ rs) (k : R.sysIrqstat ∈ rs) : stepRegs l ⊆ rs := fun a ha => by
  rcases List.mem_cons.1 ha with rfl | ha
  · exact h
  · exact List.mem_singleton.1 ha ▸ k

theorem refuseLink_facts {reason : Nat} (four : s.links.length = 4) (dir : linkDir s l ≠ 0) : RefusedLink s (refuseLink s l reason) l reason := by
  obtain ⟨e, he⟩ : ∃ e, e = raiseGloss s 0x6150 (w32 l) (w32 reason) (w32 (peerAddr s l)) := ⟨_, rfl⟩
  have links : e.links = s.links := he ▸ raiseGloss_links ..
  have time : e.time = s.time := he ▸ raiseGloss_time ..
  have raised : Touches [.links, .gloss] (lstatReg l :: R.sysIrqstat :: glossRegs) s e :=
    he ▸ touches_raiseGloss touches_rfl _ _ _ _ (by decide) fun _ h => List.mem_cons_of_mem _ (List.mem_cons_of_mem _ h)
  have back : Retrained e (retrainLink e l) l :=
    retrainLink_facts (links ▸ four) ((linkDir_congr (samePlace_of_touches raised) l.isLt).symm ▸ dir)
  have logged : Logged 0x6150 (w32 l) (w32 reason) (w32 (peerAddr s l)) s e :=
    he ▸ logged_raiseGloss rfl ⟨rfl, rfl, rfl, rfl⟩
  rw [refuseLink, ← he]
  exact ⟨back.lstat, by rw [back.here, time], fun m hm => (back.other m hm).trans (linkOf_congr links), logged_retrained logged back,
    touches_trans raised (touches_mono back.frame (by decide)
      (step_subset List.mem_cons_self (List.mem_cons_of_mem _ List.mem_cons_self)))⟩

end Training

/-! ### Packets that arrive and packets that are queued (R351 to R354) -/

section Packets
variable {s t : State} {a : Arrival} {l : Fin 4} {k : LinkSt} {f : State → State}

theorem onArrival_sound (h : Sound s a) : onArrival s a false f = f s := by
  rw [onArrival]
  dsimp only
  rw [if_neg (not_or.2 ⟨Nat.not_lt.2 h.aligned, by simp [h.single]⟩), h.crc]
  rfl

theorem onArrival_inOrder (h : InOrder s a) : onArrival s a true f = f (tookPacket s a.link) := by
  have due : (a.seq.toNat + 256 - (linkOf s a.link).expect) % 256 = 0 := by
    rw [h.seq, Nat.add_sub_cancel_left]
  rw [onArrival]
  dsimp only
  rw [if_neg (not_or.2 ⟨Nat.not_lt.2 h.aligned, by simp [h.single]⟩), h.crc, due]
  rfl

theorem only_tookPacket (four : s.links.length = 4) : Only s (tookPacket s l) l (acked (linkOf s l)) := by
  have expects := (Only.refl (l := l) four).onLink fun k => { k with expect := (k.expect + 1) % 256 }
  exact expects.onLink fun k => { k with answer := some (false, (k.expect + 255) % 256) }

theorem touches_tookPacket : Touches [.links] [] s (tookPacket s l) :=
  touches_onLink (touches_onLink touches_rfl (by decide)) (by decide)

/-- A packet joins the queue of its link. -/
theorem Only.queue (h : Only s t l k) (typ : Nat) (hd : LinkHeader) (payload : List Byte) :
    Only s (linkQueue t l typ hd payload) l { k with outq := k.outq ++ [{ typ, hd, payload, seq := 0 }] } := h.onLink _

theorem touches_linkQueue {ps : List Part} {rs : List Nat} {i typ : Nat} {hd : LinkHeader} {payload : List Byte} (h : Touches ps rs s t)
    (links : Part.links ∈ Part.regs :: ps) : Touches ps rs s (linkQueue t i typ hd payload) := touches_onLink h links

/-- Its buffers are owed. -/
theorem Only.drained (h : Only s t l k) (cls bytes : Nat) :
    Only s (bufferDrained t l cls bytes) l { k with owed := k.owed.modify cls (· + buffersFor bytes) } := h.onLink _

theorem touches_bufferDrained {ps : List Part} {rs : List Nat} {i cls bytes : Nat} (h : Touches ps rs s t)
    (links : Part.links ∈ Part.regs :: ps) : Touches ps rs s (bufferDrained t i cls bytes) := touches_onLink h links

/-- A packet goes up on the upstream link. -/
theorem sendUp_eq {i typ : Nat} {hd : LinkHeader} {payload : List Byte} (h : upLink s = some i) :
    sendUp s typ hd payload = linkQueue s i typ hd payload := by rw [sendUp, h]

end Packets

end Sys2Proof.Links

/-! PROOFS. A chain link trains (R347, R349, R356, R357). -/

namespace Sys2Proof.Links
open Sys2Proof.Machine Sys2Proof.Laws Sys2Proof.Architecture Sys2Proof.Answers
open Sys2Proof.SerialPorts (flag_congr fld_congr)

/-! ### The role, and the first steps (R347, R356) -/

section First
variable {s : State} {l : Fin 4}

theorem roleDecision_root (interrupts : s.boot.interruptMode = true) (undecided : flag s R.linkAddr 31 = false) (auto : fld s R.linkCfg 1 0 = 3)
    (on : domainOn s 7 = true) (fits : blockFits s = true) (long : msCycles s 20 ≤ cyclesSince s s.sys.roleFrom) :
    ∃ t, exec .roleDecision s = .next t ∧ rd t R.linkAddr = 0xC0003FFF ∧ t.sys = { s.sys with single := false } ∧
      Touches [.sys] [R.linkAddr] s t := by
  have due : roleDue s = true := by
    rw [roleDue, interrupts, undecided, auto, on, decide_eq_true long]
    rfl
  refine ⟨wr { s with sys := { s.sys with single := false } } R.linkAddr 0xC0003FFF, ?_, rd_wr .., rfl,
    touches_wr (touches_sys touches_rfl _ (by decide)) _ List.mem_cons_self⟩
  show execRoleDecision s = _
  rw [execRoleDecision, if_pos due, becomeRoot, if_pos fits]

theorem commaAlignment_aligned (four : s.links.length = 4) (first : linkState s l = 1) (single : s.sys.single = false) (on : domainOn s 7 = true) :
    ∃ t, exec (.commaAlignment l) s = .next t ∧ linkState t l = 2 ∧ flag t R.sysIrqstat 11 = true ∧
      linkOf t l = { linkOf s l with since := s.time.aoTime } ∧ (∀ m, m ≠ l.val → linkOf t m = linkOf s m) ∧
      Touches [.links] [lstatReg l, R.sysIrqstat] s t := by
  have only := only_stepped (n := 2) (Only.refl (l := l) four)
  refine ⟨stepped s l 2, ?_, state_stepped (by decide), irq_stepped, only.here, only.other, touches_stepped⟩
  show execCommaAlignment l s = _
  rw [execCommaAlignment, if_pos ⟨first, by simp [single], on⟩, setLinkState_eq (by rw [first]; decide) (by decide)]

theorem helloInterval_due (four : s.links.length = 4) (training : linkState s l = 2 ∨ linkState s l = 3) (single : s.sys.single = false)
    (long : ∀ t, (linkOf s l).helloAt = some t → symbolCycles s 500 ≤ cyclesSince s t) :
    ∃ t, exec (.helloInterval l) s = .next t ∧
      linkOf t l = { linkOf s l with
        outq := (linkOf s l).outq ++ [⟨0x01, linkHd s 0, helloBytes s l, 0, 0⟩], helloAt := some s.time.aoTime } ∧
      (∀ m, m ≠ l.val → linkOf t m = linkOf s m) ∧ Touches [.links] [] s t := by
  have due : helloDue s l = true := by
    rw [helloDue, single]
    cases before : (linkOf s l).helloAt with
    | none => rcases training with h | h <;> simp [h]
    | some t => rcases training with h | h <;> simp [h, long t before]
  have only := ((Only.refl (l := l) four).onLink fun k => { k with helloAt := some s.time.aoTime }).queue 0x01 (linkHd s 0) (helloBytes s l)
  refine ⟨_, ?_, only.here, only.other, touches_linkQueue (touches_onLink touches_rfl (by decide)) (by decide)⟩
  show execHelloInterval l s = _
  rw [execHelloInterval, due]
  rfl

theorem helloInterval_early {t : DWord} (sent : (linkOf s l).helloAt = some t) (short : cyclesSince s t < symbolCycles s 500) :
    exec (.helloInterval l) s = .next s := by
  have early : helloDue s l = false := by
    rw [helloDue, sent]
    simp [Nat.not_le.2 short]
  show execHelloInterval l s = _
  rw [execHelloInterval, early]
  rfl

end First

/-! ### HELLO (R356) -/

section Hello
variable {s : State} {a : Arrival} {h : HelloPayload} {arrival : Word} {p : Int}

theorem exec_hello (sound : Sound s a) : exec (.hello a h arrival) s = .next (takeHello a.link h arrival s) := by
  show execHello a h arrival s = _
  rw [execHello, onArrival_sound sound]

/-- A link whose role is decided, in step 2. -/
theorem takeHello_second {l : Nat} (second : linkState s l = 2) (decided : flag s R.linkAddr 31 = true) : takeHello l h arrival s =
    (if h.fs.toNat = helloRate s ∧ h.mgr ≠ manages s l then
      setLinkState (onLink s l fun k => { k with peer := some (h, arrival), exch := 0, psum := 0 }) l 3
    else if manages s l then refuseLink (onLink s l fun k => { k with peer := some (h, arrival) }) l 1 else s) := by
  rw [takeHello, second]
  show helloFirst s l h arrival = _
  rw [helloFirst, decided]
  rfl

theorem hello_agrees (four : s.links.length = 4) (sound : Sound s a) (second : linkState s a.link = 2) (decided : flag s R.linkAddr 31 = true)
    (rate : h.fs.toNat = helloRate s) (role : h.mgr ≠ manages s a.link) :
    ∃ t, exec (.hello a h arrival) s = .next t ∧ linkState t a.link = 3 ∧
      linkOf t a.link = { linkOf s a.link with peer := some (h, arrival), exch := 0, psum := 0, since := s.time.aoTime } ∧
      (∀ m, m ≠ a.link.val → linkOf t m = linkOf s m) ∧ Touches [.links] [lstatReg a.link, R.sysIrqstat] s t := by
  have only := only_stepped (n := 3)
    ((Only.refl (l := a.link) four).onLink fun k => { k with peer := some (h, arrival), exch := 0, psum := 0 })
  refine ⟨_, ?_, state_stepped (by decide), only.here, only.other, touches_trans (touches_onLink touches_rfl (by decide))
    touches_stepped⟩
  rw [exec_hello sound, takeHello_second second decided, if_pos ⟨rate, role⟩, setLinkState_eq _ (by decide)]
  show linkState s a.link ≠ 3
  rw [second]
  decide

theorem hello_disagrees (four : s.links.length = 4) (sound : Sound s a) (second : linkState s a.link = 2) (decided : flag s R.linkAddr 31 = true)
    (rate : h.fs.toNat ≠ helloRate s) (managed : manages s a.link = true) :
    ∃ t, exec (.hello a h arrival) s = .next t ∧ rd t (lstatReg a.link) = 1 ∧ linkOf t a.link = { since := s.time.aoTime } ∧
      Logged 0x6150 (w32 a.link) 1 (w32 (peerAddr s a.link)) s t ∧ (∀ m, m ≠ a.link.val → linkOf t m = linkOf s m) ∧
      Touches [.links, .gloss] (lstatReg a.link :: R.sysIrqstat :: glossRegs) s t := by
  obtain ⟨e, he⟩ : ∃ e, e = onLink s a.link fun k => { k with peer := some (h, arrival) } := ⟨_, rfl⟩
  have only : Only s e a.link _ := he ▸ (Only.refl (l := a.link) four).onLink fun k => { k with peer := some (h, arrival) }
  have frame : Touches [.links] [] s e := he ▸ touches_onLink touches_rfl (by decide)
  have dir : linkDir e a.link ≠ 0 := he ▸ linkDir_of_manages managed
  have time : e.time = s.time := frame.parts.time (by decide)
  have back := refuseLink_facts (reason := 1) only.four dir
  have peer : peerAddr e a.link = peerAddr s a.link := he ▸ rfl
  refine ⟨refuseLink e a.link 1, ?_, back.lstat, by rw [back.here, time], ?_, fun m hm => (back.other m hm).trans (only.other m hm),
    touches_trans (touches_mono frame (by decide) (List.nil_subset _)) back.frame⟩
  · rw [exec_hello sound, takeHello_second second decided, if_neg fun k => rate k.1, if_pos managed, he]
  · have logged := back.logged
    rw [peer] at logged
    exact logged_before logged (fun b _ => frame.regs b List.not_mem_nil) time (frame.parts.gloss (by decide))

/-- The state of a link once an exchange has been added. -/
def exchanged (s : State) (l : Nat) (h : HelloPayload) (arrival : Word) : State :=
  onLink s l fun k => { k with peer := some (h, arrival), exch := k.exch + 1, psum := k.psum + (arrival - h.techo - h.thold).toInt }

theorem takeHello_third {l : Nat} (third : linkState s l = 3) : takeHello l h arrival s =
    (if (linkOf (exchanged s l h arrival) l).exch = 8 then measured (exchanged s l h arrival) l else exchanged s l h arrival) := by
  rw [takeHello, third]
  rfl

theorem only_exchanged {l : Fin 4} (four : s.links.length = 4) : Only s (exchanged s l h arrival) l { linkOf s l with
    peer := some (h, arrival), exch := (linkOf s l).exch + 1, psum := (linkOf s l).psum + (arrival - h.techo - h.thold).toInt } :=
  (Only.refl four).onLink _

theorem touches_exchanged {l : Nat} : Touches [.links] [] s (exchanged s l h arrival) := touches_onLink touches_rfl (by decide)

theorem hello_exchange (four : s.links.length = 4) (sound : Sound s a) (third : linkState s a.link = 3) (more : (linkOf s a.link).exch ≠ 7) :
    ∃ t, exec (.hello a h arrival) s = .next t ∧
      linkOf t a.link = { linkOf s a.link with
        peer := some (h, arrival), exch := (linkOf s a.link).exch + 1,
        psum := (linkOf s a.link).psum + (arrival - h.techo - h.thold).toInt } ∧
      (∀ m, m ≠ a.link.val → linkOf t m = linkOf s m) ∧ Touches [.links] [] s t := by
  have only := only_exchanged (h := h) (arrival := arrival) (l := a.link) four
  refine ⟨_, ?_, only.here, only.other, touches_exchanged⟩
  rw [exec_hello sound, takeHello_third third, if_neg]
  rw [only.here]
  show ¬ (linkOf s a.link).exch + 1 = 8
  omega

/-- The eighth exchange gives P. -/
theorem exec_hello_eighth (four : s.links.length = 4) (sound : Sound s a) (third : linkState s a.link = 3) (eighth : (linkOf s a.link).exch = 7) :
    exec (.hello a h arrival) s = .next (measured (exchanged s a.link h arrival) a.link) := by
  rw [exec_hello sound, takeHello_third third, if_pos]
  rw [(only_exchanged four).here]
  show (linkOf s a.link).exch + 1 = 8
  rw [eighth]

theorem delayLimit_le : delayLimit s ≤ 31 := by
  unfold delayLimit
  split <;> decide

theorem hello_measured (four : s.links.length = 4) (sound : Sound s a) (third : linkState s a.link = 3) (eighth : (linkOf s a.link).exch = 7)
    (worker : manages s a.link = false) (hp : p = (linkOf s a.link).psum + (arrival - h.techo - h.thold).toInt)
    (most : p ≤ delayLimit s) :
    ∃ t, exec (.hello a h arrival) s = .next t ∧ linkState t a.link = 4 ∧ fld t (lstatReg a.link) 15 8 = p.toNat ∧
      linkOf t a.link = { linkOf s a.link with peer := some (h, arrival), exch := 8, psum := p, since := s.time.aoTime } ∧
      (∀ m, m ≠ a.link.val → linkOf t m = linkOf s m) ∧ Touches [.links] [lstatReg a.link, R.sysIrqstat] s t := by
  obtain ⟨e, he⟩ : ∃ e, e = wrFld (exchanged s a.link h arrival) (lstatReg a.link) 15 8 p.toNat := ⟨_, rfl⟩
  have only : Only s e a.link _ := he ▸ (only_exchanged (h := h) (arrival := arrival) (l := a.link) four).congr (wrFld_links ..)
  have frame : Touches [.links] [lstatReg a.link] s e :=
    he ▸ touches_wrFld (touches_mono touches_exchanged (List.Subset.refl _) (List.nil_subset _)) _ _ _ List.mem_cons_self
  have after := only_stepped (n := 4) only
  have limit := delayLimit_le (s := s)
  have psum : (linkOf (exchanged s a.link h arrival) a.link).psum = p := by rw [(only_exchanged four).here, hp]
  have state : linkState e a.link = 3 := by
    show fld e (lstatReg a.link) 2 0 = 3
    rw [he, fld_wrFld_apart (by decide) (by decide) (by decide) (by decide)]
    exact third
  have stays : manages e a.link = false := by
    rw [manages_congr (samePlace_of_touches (l := a.link) (touches_mono frame (List.Subset.refl _)
      fun _ hb => List.mem_cons.2 (.inl (List.mem_singleton.1 hb)))), worker]
  have value : measured (exchanged s a.link h arrival) a.link = stepped e a.link 4 := by
    have same : manages (stepped e a.link 4) a.link = false := by
      rw [manages_congr (samePlace_of_touches (l := a.link) (touches_mono touches_stepped (List.Subset.refl _)
        (step_subset List.mem_cons_self (List.mem_cons_of_mem _ List.mem_cons_self)))), stays]
    rw [measured]
    simp only [psum]
    have within : ¬ ((delayLimit (exchanged s a.link h arrival) : Nat) : Int) < p := Int.not_lt.2 most
    rw [if_neg within, ← he, setLinkState_eq (by rw [state]; decide) (by decide), same, if_neg Bool.false_ne_true]
  refine ⟨stepped e a.link 4, ?_, state_stepped (by decide), ?_, ?_, after.other, touches_trans
    (touches_mono frame (List.Subset.refl _) fun _ hb => List.mem_cons.2 (.inl (List.mem_singleton.1 hb))) touches_stepped⟩
  · rw [exec_hello_eighth four sound third eighth, value]
  · rw [fld_stepped (by decide) (by decide), he, fld_wrFld_fits (by decide) (by decide) (by omega)]
  · rw [after.here, frame.parts.time (by decide), ← hp, eighth]

theorem hello_refused (four : s.links.length = 4) (sound : Sound s a) (third : linkState s a.link = 3) (dir : linkDir s a.link ≠ 0)
    (eighth : (linkOf s a.link).exch = 7) (hp : p = (linkOf s a.link).psum + (arrival - h.techo - h.thold).toInt)
    (long : (delayLimit s : Int) < p) :
    ∃ t, exec (.hello a h arrival) s = .next t ∧ rd t (lstatReg a.link) = 1 ∧ linkOf t a.link = { since := s.time.aoTime } ∧
      Logged 0x6150 (w32 a.link) 2 (w32 (peerAddr s a.link)) s t ∧ (∀ m, m ≠ a.link.val → linkOf t m = linkOf s m) ∧
      Touches [.links, .gloss] (lstatReg a.link :: R.sysIrqstat :: glossRegs) s t := by
  have only := only_exchanged (h := h) (arrival := arrival) (l := a.link) four
  have frame := touches_exchanged (s := s) (h := h) (arrival := arrival) (l := a.link)
  have psum : (linkOf (exchanged s a.link h arrival) a.link).psum = p := by rw [only.here, hp]
  have value : measured (exchanged s a.link h arrival) a.link = refuseLink (exchanged s a.link h arrival) a.link 2 := by
    rw [measured]
    simp only [psum]
    exact if_pos long
  have back := refuseLink_facts (s := exchanged s a.link h arrival) (l := a.link) (reason := 2) only.four dir
  have time := frame.parts.time (by decide)
  refine ⟨_, (exec_hello_eighth four sound third eighth).trans (congrArg _ value), back.lstat, by rw [back.here, time],
    logged_before back.logged (fun b _ => frame.regs b List.not_mem_nil) time (frame.parts.gloss (by decide)),
    fun m hm => (back.other m hm).trans (only.other m hm), touches_trans (touches_mono frame (by decide) (List.nil_subset _)) back.frame⟩

end Hello

/-! ### Time-outs of the training (R356, R358) -/

section Timeout
variable {s : State} {l : Fin 4}

theorem trainingLate_eq (training : linkState s l ≠ 0) (active : linkState s l ≠ 6)
    (long : msCycles s (trainingLimit (linkState s l) + 100) ≤ cyclesSince s (linkOf s l).since) : trainingLate s l = true := by
  rw [trainingLate, decide_eq_true long]
  simp [training, active]

theorem linkTrainingTimeout_retrains (four : s.links.length = 4) (training : linkState s l ≠ 0) (active : linkState s l ≠ 6)
    (dir : linkDir s l ≠ 0) (h : linkState s l ≠ 5 ∨ manages s l = false ∨ (linkOf s l).stream = none)
    (long : msCycles s (trainingLimit (linkState s l) + 100) ≤ cyclesSince s (linkOf s l).since) :
    ∃ t, exec (.linkTrainingTimeout l) s = .next t ∧ rd t (lstatReg l) = 1 ∧ linkOf t l = { since := s.time.aoTime } ∧
      (∀ m, m ≠ l.val → linkOf t m = linkOf s m) ∧ Touches [.links] [lstatReg l, R.sysIrqstat] s t := by
  have back := retrainLink_facts four dir
  refine ⟨retrainLink s l, ?_, back.lstat, back.here, back.other, back.frame⟩
  show execLinkTrainingTimeout l s = _
  rw [execLinkTrainingTimeout, trainingLate_eq training active long, if_neg (by simp), if_neg]
  rintro ⟨fifth, managed, streamed⟩
  rcases h with h | h | h
  · exact h fifth
  · exact Bool.false_ne_true (h.symm.trans managed)
  · rw [h] at streamed
    exact Bool.false_ne_true streamed

theorem linkTrainingTimeout_streamed (four : s.links.length = 4) (fifth : linkState s l = 5) (managed : manages s l = true)
    (streamed : (linkOf s l).stream.isSome = true) (long : msCycles s (trainingLimit 5 + 100) ≤ cyclesSince s (linkOf s l).since) :
    ∃ t, exec (.linkTrainingTimeout l) s = .next t ∧ rd t (lstatReg l) = 1 ∧ linkOf t l = { since := s.time.aoTime } ∧
      Logged 0x6150 (w32 l) 5 (w32 (peerAddr s l)) s t ∧ (∀ m, m ≠ l.val → linkOf t m = linkOf s m) ∧
      Touches [.links, .gloss] (lstatReg l :: R.sysIrqstat :: glossRegs) s t := by
  have back := refuseLink_facts (reason := 5) four (linkDir_of_manages managed)
  refine ⟨refuseLink s l 5, ?_, back.lstat, back.here, back.logged, back.other, back.frame⟩
  have late : trainingLate s l = true :=
    trainingLate_eq (by rw [fifth]; decide) (by rw [fifth]; decide) (by rw [fifth]; exact long)
  show execLinkTrainingTimeout l s = _
  rw [execLinkTrainingTimeout, late, if_neg (by simp), if_pos ⟨fifth, managed, streamed⟩]

theorem linkTrainingTimeout_early (short : cyclesSince s (linkOf s l).since < msCycles s (trainingLimit (linkState s l) + 100)) :
    exec (.linkTrainingTimeout l) s = .next s := by
  have early : trainingLate s l = false := by
    rw [trainingLate, decide_eq_false (Nat.not_le.2 short), Bool.and_false]
  show execLinkTrainingTimeout l s = _
  rw [execLinkTrainingTimeout, early]
  rfl

end Timeout

/-! ### ADDR at a worker (R349, R356) -/

section Addr
variable {s : State} {i : Arrival} {a : BitVec 14}

/-- The state of a worker of depth 1 and position 1 that has taken its address, before its step changes. -/
def addressed (s : State) (l : Nat) (a : Nat) : State :=
  wrFld (wrFld (wr (bufferDrained (tookPacket s l) l 0 4) R.linkAddr (w32 (2 ^ 31 + 2 ^ 28 + 2 ^ 16 + a))) (lstatReg l) 29 16 0) (lstatReg l) 30 30 1

theorem only_addressed {l : Fin 4} {a : Nat} (four : s.links.length = 4) :
    Only s (addressed s l a) l { acked (linkOf s l) with owed := (linkOf s l).owed.modify 0 (· + 1) } :=
  ((only_tookPacket four).drained 0 4).congr (by rw [addressed, wrFld_links, wrFld_links, wr_links])

theorem touches_addressed {l : Fin 4} {a : Nat} : Touches [.links] [R.linkAddr, lstatReg l] s (addressed s l a) :=
  touches_wrFld (touches_wrFld (touches_wr (touches_bufferDrained (touches_mono touches_tookPacket (List.Subset.refl _) (List.nil_subset _))
    (by decide)) _ (by simp)) _ _ _ (by simp)) _ _ _ (by simp)

theorem addr_addressed {l : Fin 4} {a : Nat} : rd (addressed s l a) R.linkAddr = w32 (2 ^ 31 + 2 ^ 28 + 2 ^ 16 + a) := by
  rw [addressed, wrFld, rd_wr_ne _ _ _ _ (lstat_ne_addr l).symm, wrFld, rd_wr_ne _ _ _ _ (lstat_ne_addr l).symm, rd_wr]

theorem root_addressed {l : Fin 4} {a : Nat} : flag (addressed s l a) (lstatReg l) 30 = true := by
  rw [addressed, flag_wrFld (by decide)]
  rfl

theorem state_addressed {l : Fin 4} {a : Nat} : linkState (addressed s l a) l = linkState s l := by
  show fld _ (lstatReg l) 2 0 = fld s (lstatReg l) 2 0
  rw [addressed, fld_wrFld_apart (by decide) (by decide) (by decide) (by decide), fld_wrFld_apart (by decide) (by decide) (by decide) (by decide),
    fld_wr_ne (lstat_ne_addr l)]
  rfl

/-- The address a worker has taken names it in what it sends. -/
theorem rootHd_addressed {t : State} (h : rd t R.linkAddr = w32 (2 ^ 31 + 2 ^ 28 + 2 ^ 16 + a.toNat)) : rootHd t = ⟨0, false, true, a, false⟩ := by
  have small := a.isLt
  have value : (w32 (2 ^ 31 + 2 ^ 28 + 2 ^ 16 + a.toNat)).toNat = 2 ^ 31 + 2 ^ 28 + 2 ^ 16 + a.toNat := Nat.mod_eq_of_lt (by omega)
  have worker : flag t R.linkAddr 30 = false := by
    rw [flag, h, bitOf, value]
    exact decide_eq_false (by omega)
  have own : BitVec.ofNat 14 (fld t R.linkAddr 13 0) = a := by
    rw [fld, h, bits, value]
    apply BitVec.eq_of_toNat_eq
    rw [BitVec.toNat_ofNat]
    omega
  rw [rootHd, linkHd, worker, own]
  rfl

theorem takeAddr_first {l : Nat} {tiers : BitVec 2} (fourth : linkState s l = 4) (worker : manages s l = false) (tiered : tiers ≠ 0) :
    takeAddr l a.toNat (1 : BitVec 6).toNat (1 : BitVec 2).toNat tiers.toNat (tookPacket s l) =
      sendStat (setLinkState (addressed s l a.toNat) l 5) 2 a.toNat := by
  have least : tiers.toNat ≠ 0 := fun none => tiered (BitVec.eq_of_toNat_eq none)
  rw [takeAddr, if_neg (not_or.2 ⟨fun k => k fourth, by rw [show manages (tookPacket s l) l = false from worker]; decide⟩),
    if_neg (not_or.2 ⟨by show ¬ tiers.toNat < 1; omega, by decide⟩)]
  rfl

theorem addr_taken {l : Fin 4} {p : BitVec 6} {d tiers : BitVec 2} (four : s.links.length = 4) (here : i.link = l) (order : InOrder s i)
    (fourth : linkState s l = 4) (worker : manages s l = false) (up : upLink s = some l.val) (depth : d = 1) (place : p = 1) (tiered : tiers ≠ 0) :
    ∃ t, exec (.addr i a p d tiers) s = .next t ∧ rd t R.linkAddr = w32 (2 ^ 31 + 2 ^ 28 + 2 ^ 16 + a.toNat) ∧ linkState t l = 5 ∧
      flag t (lstatReg l) 30 = true ∧
      linkOf t l = { acked (linkOf s l) with
        outq := (linkOf s l).outq ++ [⟨0x0B, ⟨0, false, true, a, false⟩, leBytes 4 (2 + 256 * a.toNat), 0, 0⟩],
        owed := (linkOf s l).owed.modify 0 (· + 1), since := s.time.aoTime } ∧
      (∀ m, m ≠ l.val → linkOf t m = linkOf s m) ∧ Touches [.links] [R.linkAddr, lstatReg l, R.sysIrqstat] s t := by
  subst here depth place
  have frame : Touches [.links] [R.linkAddr, lstatReg i.link, R.sysIrqstat] s (addressed s i.link a.toNat) :=
    touches_mono touches_addressed (List.Subset.refl _) (by simp)
  obtain ⟨e, he⟩ : ∃ e, e = stepped (addressed s i.link a.toNat) i.link 5 := ⟨_, rfl⟩
  have only : Only s e i.link _ := he ▸ only_stepped (n := 5) (only_addressed (a := a.toNat) (l := i.link) four)
  have steps : Touches [.links] [R.linkAddr, lstatReg i.link, R.sysIrqstat] s e :=
    he ▸ touches_trans frame (touches_mono touches_stepped (List.Subset.refl _) (step_subset (by simp) (by simp)))
  have address : rd e R.linkAddr = w32 (2 ^ 31 + 2 ^ 28 + 2 ^ 16 + a.toNat) := by
    rw [he, touches_stepped.regs R.linkAddr (by simp [stepRegs, (lstat_ne_addr i.link).symm]; decide), addr_addressed]
  have dirs : upLink e = some i.link.val := by
    have same : ∀ m ∈ List.range 4, decide (linkDir e m = 1) = decide (linkDir s m = 1) := fun m hm => by
      rw [linkDir, fld_congr (steps.regs _ (lcfg_apart i.link (List.mem_range.1 hm))), linkDir]
    rw [upLink, List.find?_congr same]
    exact up
  have queued := only.queue 0x0B (rootHd e) (leBytes 4 (2 + 256 * a.toNat))
  refine ⟨linkQueue e i.link 0x0B (rootHd e) (leBytes 4 (2 + 256 * a.toNat)), ?_, address, ?_, ?_, ?_, queued.other, touches_linkQueue steps (by decide)⟩
  · show execAddr i a 1 1 tiers s = _
    rw [execAddr, onArrival_inOrder order, takeAddr_first fourth worker tiered,
      setLinkState_eq (by rw [state_addressed, fourth]; decide) (by decide), ← he, sendStat, sendUp_eq dirs]
  · show linkState e i.link = 5
    rw [he, state_stepped (by decide)]
  · show flag e (lstatReg i.link) 30 = true
    rw [he, flag_stepped (by decide), root_addressed]
  · rw [queued.here, rootHd_addressed address, frame.parts.time (by decide)]
    rfl

end Addr

/-! ### STAT at the root (R356, R375, R376) -/

section Stat
variable {s : State} {i : Relayed} {l : Fin 4} {address : BitVec 16} {a : Nat} {h : HelloPayload} {at' : Word}

/-- The report as the root takes it: its buffers are owed. -/
def reported (s : State) (l : Nat) : State := bufferDrained (tookPacket s l) l 0 4

theorem only_reported (four : s.links.length = 4) :
    Only s (reported s l) l { acked (linkOf s l) with owed := (linkOf s l).owed.modify 0 (· + 1) } := (only_tookPacket four).drained 0 4

theorem touches_reported : Touches [.links] [] s (reported s l) := touches_bufferDrained touches_tookPacket (by decide)

/-- A report at the root, for which a join request acts on the link first. -/
theorem exec_stat {kind : Byte} {n : Nat} (hn : kind.toNat = n) (order : InOrder s i.toArrival) (managed : manages s i.link = true) (root : flag s R.linkAddr 30 = true) :
    exec (.stat i kind address) s = .next (noteReport
      (if n = 2 then joinOnLink (reported s i.link) i.link (address.toNat % 16384) else reported s i.link)
      i.link n (address.toNat % 16384)) := by
  have managed' : manages (tookPacket s i.link) i.link = true := managed
  have root' : flag (reported s i.link) R.linkAddr 30 = true := root
  subst hn
  show execStat i kind address s = _
  rw [execStat, onArrival_inOrder order, takeStat]
  dsimp only
  rw [managed', if_neg (by decide), ← reported, root', if_pos rfl]

/-- The link of a worker whose image agrees, ACTIVE: SYNC is queued, and its code is logged. -/
def joined (s : State) (l : Nat) : State := activateWorker (reported s l) l

theorem joinOnLink_agrees (four : s.links.length = 4) (managed : manages s l = true) (peer : peerAddr s l = a) (fourth : linkState s l = 4)
    (hello : (linkOf s l).peer = some (h, at')) (image : h.hash = ownHash s) : joinOnLink (reported s l) l a = joined s l := by
  have same : (linkOf (reported s l) l).peer = some (h, at') := by rw [(only_reported four).here]; exact hello
  have fourth' : linkState (reported s l) l = 4 := fourth
  rw [joinOnLink, if_neg (not_or.2 ⟨fun k => k peer, fun k => k managed⟩), fourth']
  show compareImage (reported s l) l = _
  rw [compareImage, same]
  exact if_pos image

/-- The step to ACTIVE, with its code. -/
theorem setLinkState_active {s : State} (moves : linkState s l ≠ 6) : setLinkState s l 6 =
    raiseGloss (stepped s l 6) 0x6100 (w32 l) (w32 (peerAddr s l)) (w32 (fld s (lstatReg l) 15 8)) := by
  have address : peerAddr (stepped s l 6) l = peerAddr s l := fld_stepped (by decide) (by decide)
  rw [setLinkState, if_neg moves]
  dsimp only
  rw [if_pos rfl, ← fld_stepped (s := s) (l := l) (n := 6) (by decide) (by decide), ← address, stepped]

/-- What the root has of the link then. -/
structure Joined (s t : State) (l : Fin 4) : Prop where
  state  : linkState t l = 6
  only   : Only s t l { acked (linkOf s l) with
    outq := (linkOf s l).outq ++ [⟨0x08, castHd s, syncBytes s false, 0, 0⟩], owed := (linkOf s l).owed.modify 0 (· + 1),
    since := s.time.aoTime }
  logged : Logged 0x6100 (w32 l) (w32 (peerAddr s l)) (w32 (fld s (lstatReg l) 15 8)) s t
  frame  : Touches [.links, .gloss] (lstatReg l :: R.sysIrqstat :: glossRegs) s t
  place  : peerAddr t l = peerAddr s l

theorem joined_facts (four : s.links.length = 4) (fourth : linkState s l = 4) : Joined s (joined s l) l := by
  have time : (reported s l).time = s.time := touches_reported.parts.time (by decide)
  have moves : linkState (reported s l) l ≠ 6 := by rw [show linkState (reported s l) l = 4 from fourth]; decide
  have only := (only_stepped (n := 6) (only_reported (l := l) four)).congr (raiseGloss_links _ 0x6100 (w32 l) (w32 (peerAddr s l)) (w32 (fld s (lstatReg l) 15 8)))
  have steps : Touches [.links] (stepRegs l) s (stepped (reported s l) l 6) :=
    touches_trans (touches_mono touches_reported (List.Subset.refl _) (List.nil_subset _)) touches_stepped
  have stepTime := steps.parts.time (by decide)
  have value : joined s l = linkQueue (raiseGloss (stepped (reported s l) l 6) 0x6100 (w32 l) (w32 (peerAddr s l)) (w32 (fld s (lstatReg l) 15 8))) l
      0x08 (castHd s) (syncBytes s false) := by
    rw [joined, activateWorker, setLinkState_active moves, castHd_congr (s := s) (touches_reported.regs _ List.not_mem_nil), syncBytes_congr time]
    rfl
  have queued := only.queue 0x08 (castHd s) (syncBytes s false)
  rw [value]
  refine ⟨?_, ?_, ?_, touches_linkQueue (touches_raiseGloss (touches_mono steps (by decide) (step_subset List.mem_cons_self
    (List.mem_cons_of_mem _ List.mem_cons_self))) _ _ _ _ (by decide) fun _ hb => List.mem_cons_of_mem _ (List.mem_cons_of_mem _ hb)) (by decide), ?_⟩
  · show fld (raiseGloss _ _ _ _ _) (lstatReg l) 2 0 = 6
    rw [fld_raiseGloss (lstat_uncounted l)]
    exact state_stepped (by decide)
  · rw [time] at queued
    exact queued
  · exact logged_after (logged_raiseGloss (steps.parts.gloss (by decide)) ⟨by rw [stepTime], by rw [stepTime], by rw [stepTime], by rw [stepTime]⟩)
      (fun _ _ => rfl) rfl rfl
  · show fld (raiseGloss _ _ _ _ _) (lstatReg l) 29 16 = _
    rw [fld_raiseGloss (lstat_uncounted l), fld_stepped (by decide) (by decide)]
    rfl

/-- The device that has joined is known by what its HELLO showed. -/
theorem noteDevice_peer {t : State} {depth : Nat} {join : Bool} (address : peerAddr t l = a) (hello : (linkOf t l).peer = some (h, at')) :
    noteDevice t l a depth join = { t with sys := { t.sys with devices := t.sys.devices.filter (fun x => x.addr ≠ a) ++
      [{ addr := a, verbs := h.verbs.toNat, depth, link := l, present := false, late := 0, joinReq := join, report := false }] } } := by
  have known : peerVerbs t l a = (t, h.verbs.toNat) := by
    rw [peerVerbs, hello]
    exact if_pos address
  rw [noteDevice, known]

theorem stat_joins (four : s.links.length = 4) (here : i.link = l) (order : InOrder s i.toArrival) (managed : manages s l = true)
    (root : flag s R.linkAddr 30 = true) (ha : a = address.toNat % 16384) (peer : peerAddr s l = a) (fourth : linkState s l = 4)
    (hello : (linkOf s l).peer = some (h, at')) (image : h.hash = ownHash s) :
    ∃ t, exec (.stat i 2 address) s = .next t ∧ linkState t l = 6 ∧
      linkOf t l = { acked (linkOf s l) with
        outq := (linkOf s l).outq ++ [⟨0x08, castHd s, syncBytes s false, 0, 0⟩], owed := (linkOf s l).owed.modify 0 (· + 1),
        since := s.time.aoTime } ∧
      (∀ m, m ≠ l.val → linkOf t m = linkOf s m) ∧ Logged 0x6100 (w32 l) (w32 a) (w32 (fld s (lstatReg l) 15 8)) s t ∧
      t.sys = { s.sys with
        devices := s.sys.devices.filter (fun x => x.addr ≠ a) ++
          [{ addr := a, verbs := h.verbs.toNat, depth := if a % 128 = 0 then 1 else 2, link := l, present := false, late := 0,
             joinReq := true, report := false }] } ∧
      Touches [.links, .gloss, .sys] (lstatReg l :: R.sysIrqstat :: glossRegs) s t := by
  subst here
  obtain ⟨state, only, logged, frame, place⟩ := joined_facts four fourth
  obtain ⟨u, hu⟩ : ∃ u, u = joined s i.link := ⟨_, rfl⟩
  rw [← hu] at state only logged frame place
  rw [peer] at logged
  have root' : flag u R.linkAddr 30 = true := (flag_congr (frame.regs _ (place_apart i.link _ (by simp [placeRegs])))).trans root
  have hello' : (linkOf u i.link).peer = some (h, at') := by rw [only.here]; exact hello
  have sys : u.sys = s.sys := frame.parts.sys (by decide)
  have value := exec_stat (kind := 2) (n := 2) (address := address) rfl order managed root
  rw [if_pos rfl, ← ha, joinOnLink_agrees four managed peer fourth hello image, ← hu, noteReport, if_pos rfl, root',
    noteDevice_peer (place.trans peer) hello', sys] at value
  exact ⟨_, value, state, only.here, only.other,
    logged_after logged (fun _ _ => rfl) rfl rfl, rfl, touches_sys (touches_mono frame (by decide) (List.Subset.refl _)) _ (by decide)⟩

theorem stat_loses (four : s.links.length = 4) (here : i.link = l) (order : InOrder s i.toArrival) (managed : manages s l = true)
    (root : flag s R.linkAddr 30 = true) (first : s.sys.lossFrame = none) :
    ∃ t, exec (.stat i 1 address) s = .next t ∧
      t.sys = { s.sys with
        lost := s.sys.lost ++ [(address.toNat % 16384, l.val)], lossFrame := some (s.time.frame - tiersOf s) } ∧
      linkOf t l = { acked (linkOf s l) with owed := (linkOf s l).owed.modify 0 (· + 1) } ∧
      (∀ m, m ≠ l.val → linkOf t m = linkOf s m) ∧ Touches [.links, .sys] [] s t := by
  subst here
  have only := only_reported (l := i.link) four
  have root' : flag (reported s i.link) R.linkAddr 30 = true := root
  have value := exec_stat (kind := 1) (n := 1) (address := address) rfl order managed root
  rw [if_neg (by decide), noteReport, if_neg (by decide), if_neg (by decide), root', if_pos rfl] at value
  refine ⟨noteLoss (reported s i.link) (address.toNat % 16384) i.link, value, ?_, only.here, only.other,
    touches_sys (touches_mono touches_reported (by decide) (List.Subset.refl _)) _ (by decide)⟩
  have first' : (reported s i.link).sys.lossFrame = none := first
  unfold noteLoss
  rw [first']
  rfl

end Stat

/-- Settles O42: a training command changes its link alone, by the step that the link's state and the packet name. -/
theorem linkTrains : Obligations.LinkTrains := by
  unfold Obligations.LinkTrains
  refine ⟨fun _ interrupts undecided auto on fits long => roleDecision_root interrupts undecided auto on fits long,
    fun _ _ four first single on => commaAlignment_aligned four first single on,
    fun _ _ four training single long => helloInterval_due four training single long,
    fun _ _ _ sent short => helloInterval_early sent short, ?_, ?_, ?_, ?_, ?_,
    fun _ _ four training active dir h long => linkTrainingTimeout_retrains four training active dir h long,
    fun _ _ four fifth managed streamed long => linkTrainingTimeout_streamed four fifth managed streamed long,
    fun _ _ short => linkTrainingTimeout_early short,
    fun _ _ _ _ _ _ _ four here order fourth worker up depth place tiered => addr_taken four here order fourth worker up depth place tiered,
    fun _ _ _ _ _ _ _ four here order managed root ha peer fourth hello image =>
      stat_joins four here order managed root ha peer fourth hello image,
    fun _ _ _ _ four here order managed root first => stat_loses four here order managed root first⟩
  · rintro s a _ h arrival four rfl sound second decided rate role
    exact hello_agrees four sound second decided rate role
  · rintro s a _ h arrival four rfl sound second decided rate managed
    exact hello_disagrees four sound second decided rate managed
  · rintro s a _ h arrival four rfl sound third more
    exact hello_exchange four sound third more
  · rintro s a _ h arrival p four rfl sound third eighth worker hp - most
    exact hello_measured four sound third eighth worker hp most
  · rintro s a _ h arrival p four rfl sound third dir eighth hp long
    exact hello_refused four sound third dir eighth hp long

end Sys2Proof.Links

/-! PROOFS. Packets, credits, replays and the mailbox of a link (R351, R353, R354, R360 to R362, R376, R379 to R381). -/

namespace Sys2Proof.Links
open Sys2Proof.Machine Sys2Proof.Laws Sys2Proof.Architecture Sys2Proof.Answers
open Sys2Proof.SerialPorts (flag_congr fld_congr)

/-! ### Credits and acknowledgements (R351, R353, R354) -/

section Credits
variable {s : State} {l : Fin 4} {q : Byte} {k : LinkSt} {p : OutPkt} {rest : List OutPkt}

theorem cred_returns {c : BitVec 2} {n : Byte} (four : s.links.length = 4) :
    ∃ t, exec (.cred l c n) s = .next t ∧
      linkOf t l = { linkOf s l with credits := (linkOf s l).credits.modify c.toNat (· + n.toNat) } ∧
      (∀ m, m ≠ l.val → linkOf t m = linkOf s m) ∧ Touches [.links] [] s t := by
  have only := (Only.refl (l := l) four).onLink fun k => { k with credits := k.credits.modify c.toNat (· + n.toNat) }
  exact ⟨_, rfl, only.here, only.other, touches_onLink touches_rfl (by decide)⟩

/-- Are all of some packets beyond an acknowledgement. -/
abbrev Beyond (q : Nat) (ps : List OutPkt) : Prop := ∀ r ∈ ps, 128 ≤ (q + 256 - r.seq) % 256

theorem filter_beyond {n : Nat} (h : Beyond n rest) : (rest.filter fun r => (n + 256 - r.seq) % 256 ≥ 128) = rest :=
  List.filter_eq_self.2 fun r hr => decide_eq_true (h r hr)

/-- An acknowledgement of the oldest packet alone. -/
theorem ackUpTo_first {n : Nat} (kept : k.sent = p :: rest) (first : p.seq = n) (beyond : Beyond n rest) :
    ackUpTo n k = { k with sent := rest, replays := 0 } := by
  have gone : ((p :: rest).filter fun r => (n + 256 - r.seq) % 256 ≥ 128) = rest := by
    rw [List.filter_cons_of_neg (by rw [first, Nat.add_sub_cancel_left]; decide), filter_beyond beyond]
  unfold ackUpTo
  rw [kept, gone, if_neg (by simp)]

/-- An acknowledgement of none of them. -/
theorem ackUpTo_none {n : Nat} (beyond : Beyond n k.sent) : ackUpTo n k = k := by
  unfold ackUpTo
  rw [filter_beyond beyond, if_pos rfl]

theorem ack_drops (four : s.links.length = 4) (kept : (linkOf s l).sent = p :: rest) (first : p.seq = q.toNat) (beyond : Beyond q.toNat rest) :
    ∃ t, exec (.ack l q) s = .next t ∧ linkOf t l = { linkOf s l with sent := rest, replays := 0 } ∧
      (∀ m, m ≠ l.val → linkOf t m = linkOf s m) ∧ Touches [.links] [] s t := by
  have only := (Only.refl (l := l) four).onLink (ackUpTo q.toNat)
  rw [ackUpTo_first kept first beyond] at only
  exact ⟨_, rfl, only.here, only.other, touches_onLink touches_rfl (by decide)⟩

end Credits

/-! ### Replays and losses at the root (R354, R376) -/

section Loss
variable {s t e : State} {l : Fin 4} {q : Byte} {cause : Nat}

theorem symbolCycles_congr (h : rd t R.clkStat = rd s R.clkStat) (n : Nat) : symbolCycles t n = symbolCycles s n := by
  rw [symbolCycles, flag_congr h, symbolCycles]

theorem resent_congr (h : rd t R.clkStat = rd s R.clkStat) (ps : List OutPkt) (from' : DWord) : resent t ps from' = resent s ps from' := by
  induction ps generalizing from' with
  | nil => rfl
  | cons p ps ih => rw [resent, symbolCycles_congr h, ih, resent]

theorem resendKept_congr (h : rd t R.clkStat = rd s R.clkStat) (time : t.time = s.time) (k : LinkSt) : resendKept t k = resendKept s k := by
  rw [resendKept, time, resent_congr h, resendKept]

theorem replay_apart (l : Fin 4) : ∀ a ∈ placeRegs ++ recorderInputs, a ≠ R.linkReplay + 0x40 * l.val := by revert l; decide

theorem lstat_ne_replay (l : Fin 4) : lstatReg l ≠ R.linkReplay + 0x40 * l.val := by revert l; decide

/-- The kept packets leave again, counted. -/
def replayed (s : State) (l : Nat) : State :=
  countUp (onLink s l fun k => resendKept s { k with replays := k.replays + 1 }) (R.linkReplay + 0x40 * l)

theorem only_replayed (only : Only s e l (linkOf s l)) (frame : Touches [.links] [] s e) :
    Only s (replayed e l) l (resendKept s { linkOf s l with replays := (linkOf s l).replays + 1 }) := by
  have sent := only.onLink fun k => resendKept e { k with replays := k.replays + 1 }
  rw [resendKept_congr (frame.regs _ List.not_mem_nil) (frame.parts.time (by decide))] at sent
  exact sent.congr (countUp_links ..)

theorem touches_replayed (frame : Touches [.links] [] s e) : Touches [.links] [R.linkReplay + 0x40 * l] s (replayed e l) :=
  touches_countUp (touches_onLink (touches_mono frame (List.Subset.refl _) (List.nil_subset _)) (by decide)) List.mem_cons_self

theorem count_replayed (frame : Touches [.links] [] s e) :
    rd (replayed e l) (R.linkReplay + 0x40 * l) = rd (countUp s (R.linkReplay + 0x40 * l)) (R.linkReplay + 0x40 * l) := by
  rw [replayed, Concord.rd_countUp, Concord.rd_countUp]
  exact congrArg _ (frame.regs _ List.not_mem_nil)

theorem replay_eq (only : Only s e l (linkOf s l)) (frame : Touches [.links] [] s e) (kept : (linkOf s l).sent ≠ []) : replay e l =
    (if 8 ≤ (linkOf s l).replays + 1 then linkLoss (replayed e l) l 1 else replayed e l) := by
  have some' : (linkOf e l).sent.isEmpty = false := by
    rw [only.here]
    exact List.isEmpty_eq_false_iff.2 kept
  have count : (linkOf (replayed e l) l).replays = (linkOf s l).replays + 1 := by rw [(only_replayed only frame).here]; rfl
  rw [replay, some', if_neg Bool.false_ne_true, ← count]
  rfl

theorem nak_resends {c : Instr} (four : s.links.length = 4) (kept : (linkOf s l).sent ≠ []) (few : (linkOf s l).replays < 7)
    (beyond : Beyond q.toNat (linkOf s l).sent) (h : c = .nak l q ∨ (c = .replayTimeout l ∧ replayDue s l = true)) :
    ∃ t, exec c s = .next t ∧ linkOf t l = resendKept s { linkOf s l with replays := (linkOf s l).replays + 1 } ∧
      rd t (R.linkReplay + 0x40 * l) = rd (countUp s (R.linkReplay + 0x40 * l)) (R.linkReplay + 0x40 * l) ∧
      (∀ m, m ≠ l.val → linkOf t m = linkOf s m) ∧ Touches [.links] [R.linkReplay + 0x40 * l] s t := by
  have again : ∀ e, Only s e l (linkOf s l) → Touches [.links] [] s e → exec c s = .next (replay e l) →
      ∃ t, exec c s = .next t ∧ linkOf t l = resendKept s { linkOf s l with replays := (linkOf s l).replays + 1 } ∧
        rd t (R.linkReplay + 0x40 * l) = rd (countUp s (R.linkReplay + 0x40 * l)) (R.linkReplay + 0x40 * l) ∧
        (∀ m, m ≠ l.val → linkOf t m = linkOf s m) ∧ Touches [.links] [R.linkReplay + 0x40 * l] s t := by
    intro e only frame value
    rw [replay_eq only frame kept, if_neg (by omega)] at value
    have after := only_replayed only frame
    exact ⟨_, value, after.here, count_replayed frame, after.other, touches_replayed frame⟩
  rcases h with rfl | ⟨rfl, due⟩
  · have only := (Only.refl (l := l) four).onLink (ackUpTo q.toNat)
    rw [ackUpTo_none beyond] at only
    exact again _ only (touches_onLink touches_rfl (by decide)) rfl
  · refine again s (Only.refl four) touches_rfl ?_
    show execReplayTimeout l s = _
    rw [execReplayTimeout, due, if_pos rfl]

/-- What the root has when a link that was aligned is down. -/
structure Lost (s t : State) (l : Fin 4) (cause : Word) : Prop where
  lstat  : rd t (lstatReg l) = 1
  here   : linkOf t l = { since := s.time.aoTime }
  other  : ∀ m, m ≠ l.val → linkOf t m = linkOf s m
  sys    : t.sys = { s.sys with lost := s.sys.lost ++ [(peerAddr s l, l.val)], lossFrame := some (s.time.frame - tiersOf s) }
  logged : Logged 0x6101 (w32 l) cause (w32 s.time.frame) s t
  frame  : Touches [.links, .gloss, .sys] (lstatReg l :: R.sysIrqstat :: glossRegs) s t

theorem linkLoss_root (four : s.links.length = 4) (trained : 5 ≤ linkState s l) (managed : manages s l = true)
    (root : flag s R.linkAddr 30 = true) (first : s.sys.lossFrame = none) : Lost s (linkLoss s l cause) l (w32 cause) := by
  obtain ⟨e, he⟩ : ∃ e, e = raiseGloss s 0x6101 (w32 l) (w32 cause) (w32 s.time.frame) := ⟨_, rfl⟩
  have links : e.links = s.links := he ▸ raiseGloss_links ..
  have time : e.time = s.time := he ▸ raiseGloss_time ..
  have logged : Logged 0x6101 (w32 l) (w32 cause) (w32 s.time.frame) s e := he ▸ logged_raiseGloss rfl ⟨rfl, rfl, rfl, rfl⟩
  have raised : Touches [.links, .gloss] (lstatReg l :: R.sysIrqstat :: glossRegs) s e :=
    he ▸ touches_raiseGloss touches_rfl _ _ _ _ (by decide) fun _ h => List.mem_cons_of_mem _ (List.mem_cons_of_mem _ h)
  have back : Retrained e (retrainLink e l) l :=
    retrainLink_facts (links ▸ four) ((linkDir_congr (samePlace_of_touches raised) l.isLt).symm ▸ linkDir_of_manages managed)
  have frame : Touches [.links, .gloss] (lstatReg l :: R.sysIrqstat :: glossRegs) s (retrainLink e l) :=
    touches_trans raised (touches_mono back.frame (by decide) (step_subset List.mem_cons_self (List.mem_cons_of_mem _ List.mem_cons_self)))
  have place := samePlace_of_touches frame
  have sys : (retrainLink e l).sys = s.sys := frame.parts.sys (by decide)
  have tiers : tiersOf (retrainLink e l) = tiersOf s := fld_congr (place _ (by simp [placeRegs]))
  have value : linkLoss s l cause = noteLoss (retrainLink e l) (peerAddr s l) l := by
    rw [linkLoss, if_neg (by omega), managed, if_pos rfl]
    dsimp only
    rw [← he, decide_eq_true trained, flag_congr (place R.linkAddr (by simp [placeRegs])), root]
    rfl
  rw [value]
  refine ⟨back.lstat, by rw [← time]; exact back.here, fun m hm => (back.other m hm).trans (linkOf_congr links), ?_,
    logged_after (logged_retrained logged back) (fun _ _ => rfl) rfl rfl,
    touches_sys (touches_mono frame (by decide) (List.Subset.refl _)) _ (by decide)⟩
  unfold noteLoss firstLacking
  rw [sys, first, tiers, frame.parts.time (by decide)]

theorem linkDown_loses {c : Instr} {cause : Word} (four : s.links.length = 4) (trained : 5 ≤ linkState s l) (managed : manages s l = true)
    (root : flag s R.linkAddr 30 = true) (first : s.sys.lossFrame = none)
    (h : (c = .linkDown l ∧ cause = 0) ∨ (c = .replayTimeout l ∧ cause = 1 ∧ replayDue s l = true ∧ (linkOf s l).replays = 7)) :
    ∃ t, exec c s = .next t ∧ rd t (lstatReg l) = 1 ∧ linkOf t l = { since := s.time.aoTime } ∧ (∀ m, m ≠ l.val → linkOf t m = linkOf s m) ∧
      t.sys = { s.sys with
        lost := s.sys.lost ++ [(peerAddr s l, l.val)], lossFrame := some (s.time.frame - tiersOf s) } ∧
      Logged 0x6101 (w32 l) cause (w32 s.time.frame) s t ∧
      Touches [.links, .gloss, .sys] ((R.linkReplay + 0x40 * l) :: lstatReg l :: R.sysIrqstat :: glossRegs) s t := by
  rcases h with ⟨rfl, rfl⟩ | ⟨rfl, rfl, due, seven⟩
  · have lost : Lost s _ l (w32 0) := linkLoss_root (cause := 0) four trained managed root first
    exact ⟨_, rfl, lost.lstat, lost.here, lost.other, lost.sys, lost.logged,
      touches_mono lost.frame (List.Subset.refl _) (List.subset_cons_self _ _)⟩
  · have only := Only.refl (l := l) four
    have kept : (linkOf s l).sent ≠ [] := fun none => by
      rw [replayDue, none] at due
      exact Bool.false_ne_true due
    have frame := touches_replayed (l := l) (touches_rfl (s := s) (ps := [.links]) (rs := []))
    have after := only_replayed only touches_rfl
    have place : ∀ a ∈ placeRegs ++ recorderInputs, rd (replayed s l) a = rd s a := fun a ha =>
      frame.regs a (by simpa using replay_apart l a ha)
    have same : SamePlace s (replayed s l) := fun a ha => place a (List.mem_append_left _ ha)
    have lstat := frame.regs (lstatReg l) (by simpa using lstat_ne_replay l)
    have time := frame.parts.time (by decide)
    have sys : (replayed s l).sys = s.sys := frame.parts.sys (by decide)
    have lost : Lost (replayed s l) _ l (w32 1) := linkLoss_root (cause := 1) after.four (trained.trans_eq (fld_congr lstat).symm)
      ((manages_congr same).trans managed) ((flag_congr (same R.linkAddr (by simp [placeRegs]))).trans root) (by rw [sys, first])
    have value : exec (.replayTimeout l) s = .next (linkLoss (replayed s l) l 1) := by
      show execReplayTimeout l s = _
      rw [execReplayTimeout, due, if_pos rfl, replay_eq only touches_rfl kept, if_pos (by omega)]
    have peer : peerAddr (replayed s l) l = peerAddr s l := fld_congr lstat
    have tiers : tiersOf (replayed s l) = tiersOf s := fld_congr (same _ (by simp [placeRegs]))
    refine ⟨_, value, lost.lstat, by rw [lost.here, time], fun m hm => (lost.other m hm).trans (after.other m hm), ?_, ?_, ?_⟩
    · rw [lost.sys, sys, peer, time, tiers]
    · have logged := lost.logged
      rw [time] at logged
      exact logged_before logged (fun a ha => place a (List.mem_append_right _ ha)) time (frame.parts.gloss (by decide))
    · exact touches_trans (touches_mono frame (by decide) fun _ hb => List.mem_cons.2 (.inl (List.mem_singleton.1 hb)))
        (touches_mono lost.frame (List.Subset.refl _) (List.subset_cons_self _ _))

end Loss

/-! ### Events, Word events and trace packets (R360 to R362, R379) -/

section Up
variable {s e t : State} {l u : Fin 4} {k : LinkSt}

/-- The state of a link whose packet goes up on another: the buffers here, the packet there. -/
theorem sent_up {typ : Nat} {hd : LinkHeader} {payload : List Byte} (only : Only s e l k) (frame : Touches [.links] [] s e)
    (up : upLink s = some u.val) (apart : l ≠ u) :
    linkOf (sendUp e typ hd payload) u = { linkOf s u with outq := (linkOf s u).outq ++ [⟨typ, hd, payload, 0, 0⟩] } ∧
      linkOf (sendUp e typ hd payload) l = k ∧
      (∀ m, m ≠ u.val → m ≠ l.val → linkOf (sendUp e typ hd payload) m = linkOf s m) ∧
      Touches [.links] [] s (sendUp e typ hd payload) := by
  have up' : upLink e = some u.val := (upLink_congr fun a _ => frame.regs a List.not_mem_nil).trans up
  have other : u.val ≠ l.val := fun same => apart (Fin.ext same.symm)
  rw [sendUp_eq up']
  refine ⟨?_, ?_, fun m here there => ?_, touches_linkQueue frame (by decide)⟩
  · rw [linkQueue, linkOf_onLink only.four, only.other u other]
  · rw [linkQueue, linkOf_onLink_ne (Ne.symm other), only.here]
  · rw [linkQueue, linkOf_onLink_ne here, only.other m there]

variable {i : Arrival} {ps : List EvPacket}

/-- The events of a packet are offered to the fabric, from a state that differs elsewhere. -/
theorem takeLinkEvent_fold (evt : e.evt = s.evt) (n : Nat) : ps.foldl (fun t p => takeLinkEvent t n p) e =
    { e with evt := (ps.foldl (fun u p => offerEvent u (8 + n) { p with source := BitVec.ofNat 6 (8 + n) } e.time.aoTime) s).evt } := by
  induction ps generalizing e s with
  | nil => rw [List.foldl_nil, List.foldl_nil, ← evt]
  | cons p ps ih =>
    have same : (takeLinkEvent e n p).evt = (offerEvent s (8 + n) { p with source := BitVec.ofNat 6 (8 + n) } e.time.aoTime).evt := by
      rw [takeLinkEvent, offerEvent, evt]
      rfl
    rw [List.foldl_cons, List.foldl_cons, ih same]
    rfl

theorem exec_evt {hd : LinkHeader} (order : InOrder s i) : exec (.evt i hd ps) s = .next (takeEvents i.link hd ps (tookPacket s i.link)) := by
  show execEvt i hd ps s = _
  rw [execEvt, onArrival_inOrder order]

theorem evt_offers {hd : LinkHeader} (four : s.links.length = 4) (here : i.link = l) (order : InOrder s i) (active : linkState s l = 6)
    (noWorker : isWorker s = false) (some' : ps ≠ []) :
    ∃ t, exec (.evt i hd ps) s = .next t ∧
      t.evt = (ps.foldl (fun u p => offerEvent u (8 + l) { p with source := BitVec.ofNat 6 (8 + l) } s.time.aoTime) s).evt ∧
      linkOf t l = { acked (linkOf s l) with evtHeld := (linkOf s l).evtHeld ++ [(ps.length, buffersFor (16 * ps.length))] } ∧
      (∀ m, m ≠ l.val → linkOf t m = linkOf s m) ∧ Touches [.evt, .links] [] s t := by
  subst here
  obtain ⟨e, he⟩ : ∃ e, e = onLink (tookPacket s i.link) i.link fun k =>
    { k with evtHeld := k.evtHeld ++ [(ps.length, buffersFor (16 * ps.length))] } := ⟨_, rfl⟩
  have only : Only s e i.link _ := he ▸ (only_tookPacket (l := i.link) four).onLink _
  have frame : Touches [.evt, .links] [] s e :=
    he ▸ touches_onLink (touches_mono touches_tookPacket (by decide) (List.Subset.refl _)) (by decide)
  have evt : e.evt = s.evt := he ▸ rfl
  have aoTime : e.time.aoTime = s.time.aoTime := he ▸ rfl
  have value : exec (.evt i hd ps) s = .next { e with
      evt := (ps.foldl (fun u p => offerEvent u (8 + i.link.val) { p with source := BitVec.ofNat 6 (8 + i.link.val) } s.time.aoTime) s).evt } := by
    have active' : linkState (tookPacket s i.link) i.link = 6 := active
    have noWorker' : isWorker (tookPacket s i.link) = false := noWorker
    have held : holdEvt (tookPacket s i.link) i.link ps.length = e := by
      rw [holdEvt, if_neg (fun none => some' (List.length_eq_zero_iff.1 none)), he]
    rw [exec_evt order, takeEvents, if_neg (fun k => k active'), noWorker', if_pos (by rfl), held, takeLinkEvent_fold evt, aoTime]
  exact ⟨_, value, rfl, (linkOf_congr rfl).trans only.here, fun m hm => (linkOf_congr rfl).trans (only.other m hm),
    touches_evt frame _ (by decide)⟩

theorem evt_passes_up {hd : LinkHeader} {bs : List Byte} (four : s.links.length = 4) (here : i.link = l) (order : InOrder s i)
    (active : linkState s l = 6) (worker : isWorker s = true) (single : hd.bcast = false) (rooted : hd.droot = true)
    (up : upLink s = some u.val) (apart : l ≠ u) (hbs : bs = (ps.map pktBytes).flatten) :
    ∃ t, exec (.evt i hd ps) s = .next t ∧
      linkOf t u = { linkOf s u with outq := (linkOf s u).outq ++ [⟨0x04, hd, bs, 0, 0⟩] } ∧
      linkOf t l = { acked (linkOf s l) with owed := (linkOf s l).owed.modify 1 (· + buffersFor bs.length) } ∧
      (∀ m, m ≠ u.val → m ≠ l.val → linkOf t m = linkOf s m) ∧ Touches [.links] [] s t := by
  subst here
  have active' : linkState (tookPacket s i.link) i.link = 6 := active
  have worker' : isWorker (tookPacket s i.link) = true := worker
  have whole : { hd with droot := true } = hd := by rw [← rooted]
  have value : exec (.evt i hd ps) s = .next (sendUp (bufferDrained (tookPacket s i.link) i.link 1 bs.length) 0x04 hd bs) := by
    rw [exec_evt order, takeEvents, if_neg (fun k => k active'), worker', if_neg (by decide), ← hbs]
    dsimp only
    rw [if_neg (by simp [single]), if_pos (.inl rooted), whole]
  obtain ⟨there, here, others, frame⟩ := sent_up (typ := 0x04) (hd := hd) (payload := bs)
    ((only_tookPacket (l := i.link) four).drained 1 bs.length) (touches_bufferDrained touches_tookPacket (by decide)) up apart
  exact ⟨_, value, there, here, others, frame⟩

variable {w : Relayed} {frame : Word} {es : List WevEntry}

/-- A worker's Word events as they come, with their buffers owed. -/
def wevCame (s : State) (l n : Nat) : State := bufferDrained (tookPacket s l) l 1 (4 + 20 * n)

theorem only_wevCame {n : Nat} (four : s.links.length = 4) :
    Only s (wevCame s l n) l { acked (linkOf s l) with owed := (linkOf s l).owed.modify 1 (· + buffersFor (4 + 20 * n)) } :=
  (only_tookPacket four).drained 1 (4 + 20 * n)

theorem touches_wevCame {n : Nat} : Touches [.links] [] s (wevCame s l n) := touches_bufferDrained touches_tookPacket (by decide)

theorem exec_wev (order : InOrder s w.toArrival) (active : linkState s w.link = 6) (managed : manages s w.link = true) :
    exec (.wev w frame es) s = .next (
      if isRoot s then { wevCame s w.link es.length with sys := { s.sys with wev := s.sys.wev ++ es.map fun e => (frame.toNat, e) } }
      else sendUp (wevCame s w.link es.length) 0x05 (passHd w false) (leBytes 4 frame.toNat ++ (es.map wevBytes).flatten)) := by
  show execWev w frame es s = _
  rw [execWev, onArrival_inOrder order, takeWev]
  dsimp only
  rw [if_neg (not_or.2 ⟨fun k => k active, fun k => k managed⟩)]
  rfl

theorem wev_stays (four : s.links.length = 4) (here : w.link = l) (order : InOrder s w.toArrival) (active : linkState s l = 6)
    (managed : manages s l = true) (root : isRoot s = true) :
    ∃ t, exec (.wev w frame es) s = .next t ∧ t.sys = { s.sys with wev := s.sys.wev ++ es.map fun e => (frame.toNat, e) } ∧
      linkOf t l = { acked (linkOf s l) with owed := (linkOf s l).owed.modify 1 (· + buffersFor (4 + 20 * es.length)) } ∧
      (∀ m, m ≠ l.val → linkOf t m = linkOf s m) ∧ Touches [.sys, .links] [] s t := by
  subst here
  have only := only_wevCame (l := w.link) (n := es.length) four
  have value := exec_wev (frame := frame) (es := es) order active managed
  rw [if_pos root] at value
  exact ⟨_, value, rfl, only.here, only.other, touches_sys (touches_mono touches_wevCame (by decide) (List.Subset.refl _)) _ (by decide)⟩

theorem wev_passes_up (four : s.links.length = 4) (here : w.link = l) (order : InOrder s w.toArrival) (active : linkState s l = 6)
    (managed : manages s l = true) (noRoot : isRoot s = false) (up : upLink s = some u.val) (apart : l ≠ u) :
    ∃ t, exec (.wev w frame es) s = .next t ∧
      linkOf t u = { linkOf s u with
        outq := (linkOf s u).outq ++ [⟨0x05, passHd w false, leBytes 4 frame.toNat ++ (es.map wevBytes).flatten, 0, 0⟩] } ∧
      linkOf t l = { acked (linkOf s l) with owed := (linkOf s l).owed.modify 1 (· + buffersFor (4 + 20 * es.length)) } ∧
      (∀ m, m ≠ u.val → m ≠ l.val → linkOf t m = linkOf s m) ∧ Touches [.links] [] s t := by
  subst here
  have value := exec_wev (frame := frame) (es := es) order active managed
  rw [noRoot, if_neg Bool.false_ne_true] at value
  obtain ⟨there, here, others, touched⟩ := sent_up (typ := 0x05) (hd := passHd w false)
    (payload := leBytes 4 frame.toNat ++ (es.map wevBytes).flatten) (only_wevCame (l := w.link) (n := es.length) four) touches_wevCame up apart
  exact ⟨_, value, there, here, others, touched⟩

variable {words : List Word} {scheduling : Bool}

theorem exec_trc (sound : Sound s w.toArrival) (active : linkState s w.link = 6) : exec (.trc w words scheduling) s = .next (
      let bytes := (words.map fun w => leBytes 4 w.toNat).flatten
      let e := bufferDrained s w.link 3 bytes.length
      if isWorker s then sendUp e 0x0A (passHd w false) bytes
      else if scheduling ∧ traceLocked s then e
      else ((List.range 4).filter fun k => linkDir e k = 4).foldl (fun t k => (linkTrace t k bytes).getD t) e) := by
  show execTrc w words scheduling s = _
  rw [execTrc, onArrival_sound sound, takeTrc]
  dsimp only
  rw [if_neg fun k => k active]
  rfl

theorem trc_passes_up {bs : List Byte} (four : s.links.length = 4) (here : w.link = l) (sound : Sound s w.toArrival) (active : linkState s l = 6)
    (worker : isWorker s = true) (up : upLink s = some u.val) (apart : l ≠ u) (hbs : bs = (words.map fun w => leBytes 4 w.toNat).flatten) :
    ∃ t, exec (.trc w words scheduling) s = .next t ∧
      linkOf t u = { linkOf s u with outq := (linkOf s u).outq ++ [⟨0x0A, passHd w false, bs, 0, 0⟩] } ∧
      linkOf t l = { linkOf s l with owed := (linkOf s l).owed.modify 3 (· + buffersFor bs.length) } ∧
      (∀ m, m ≠ u.val → m ≠ l.val → linkOf t m = linkOf s m) ∧ Touches [.links] [] s t := by
  subst here
  have value := exec_trc (words := words) (scheduling := scheduling) sound active
  dsimp only at value
  rw [if_pos worker, ← hbs] at value
  obtain ⟨there, here, others, touched⟩ := sent_up (typ := 0x0A) (hd := passHd w false) (payload := bs)
    ((Only.refl (l := w.link) four).drained 3 bs.length) (touches_bufferDrained touches_rfl (by decide)) up apart
  exact ⟨_, value, there, here, others, touched⟩

theorem trc_dropped (four : s.links.length = 4) (here : w.link = l) (sound : Sound s w.toArrival) (active : linkState s l = 6)
    (noWorker : isWorker s = false) (locked : traceLocked s = true) :
    ∃ t, exec (.trc w words true) s = .next t ∧
      linkOf t l = { linkOf s l with
        owed := (linkOf s l).owed.modify 3 (· + buffersFor ((words.map fun w => leBytes 4 w.toNat).flatten).length) } ∧
      (∀ m, m ≠ l.val → linkOf t m = linkOf s m) ∧ Touches [.links] [] s t := by
  subst here
  have value := exec_trc (words := words) (scheduling := true) sound active
  dsimp only at value
  rw [noWorker, if_neg Bool.false_ne_true, if_pos ⟨rfl, locked⟩] at value
  have only := (Only.refl (l := w.link) four).drained 3 ((words.map fun w => leBytes 4 w.toNat).flatten).length
  exact ⟨_, value, only.here, only.other, touches_bufferDrained touches_rfl (by decide)⟩

end Up

/-! ### Packets that do not act (R351, R352, R354) -/

section Arrivals
variable {s : State} {c : Instr} {i : Arrival} {l : Fin 4} {retried : Bool}

/-- Each of these packets acts by its order and its CRC. -/
theorem exec_arrival (h : arrivalOf c = some (i, retried)) : ∃ f, exec c s = .next (onArrival s i retried f) := by
  unfold arrivalOf at h
  split at h
  case h_11 => cases h
  all_goals
    cases h
    exact ⟨_, rfl⟩

theorem arrival_early (h : arrivalOf c = some (i, retried)) (early : linkState s i.link < 2 ∨ s.sys.single = true) : exec c s = .next s := by
  obtain ⟨f, value⟩ := exec_arrival (s := s) h
  rw [value, onArrival]
  dsimp only
  rw [if_pos early]

theorem crcerr_ne_badpkt (l : Fin 4) : R.linkCrcerr + 0x40 * l.val ≠ R.linkBadpkt := by revert l; decide

/-- What a packet whose CRC fails leaves. -/
theorem badPacket_facts {t : State} {k : LinkSt} (only : Only s t l k) :
    Only s (badPacket t l) l { k with answer := some (true, (k.expect + 255) % 256) } :=
  (only.congr (by rw [countUp_links, countUp_links])).onLink fun k => { k with answer := some (true, (k.expect + 255) % 256) }

theorem touches_badPacket : Touches [.links] [R.linkCrcerr + 0x40 * l, R.linkBadpkt] s (badPacket s l) :=
  touches_onLink (touches_countUp (touches_countUp touches_rfl (by simp)) (by simp)) (by decide)

theorem crcerr_badPacket : rd (badPacket s l) (R.linkCrcerr + 0x40 * l) = rd (countUp s (R.linkCrcerr + 0x40 * l)) (R.linkCrcerr + 0x40 * l) :=
  rd_countUp_ne _ _ _ (crcerr_ne_badpkt l)

theorem badpkt_badPacket : rd (badPacket s l) R.linkBadpkt = rd (countUp s R.linkBadpkt) R.linkBadpkt := by
  show rd (countUp (countUp s (R.linkCrcerr + 0x40 * l)) R.linkBadpkt) R.linkBadpkt = _
  rw [Concord.rd_countUp, Concord.rd_countUp, rd_countUp_ne _ _ _ (crcerr_ne_badpkt l).symm]

theorem arrival_bad (four : s.links.length = 4) (h : arrivalOf c = some (i, retried)) (here : i.link = l) (aligned : 2 ≤ linkState s l)
    (single : s.sys.single = false) (bad : i.crcOk = false) :
    ∃ t, exec c s = .next t ∧ linkOf t l = { linkOf s l with answer := some (true, ((linkOf s l).expect + 255) % 256) } ∧
      rd t (R.linkCrcerr + 0x40 * l) = rd (countUp s (R.linkCrcerr + 0x40 * l)) (R.linkCrcerr + 0x40 * l) ∧
      rd t R.linkBadpkt = rd (countUp s R.linkBadpkt) R.linkBadpkt ∧ (∀ m, m ≠ l.val → linkOf t m = linkOf s m) ∧
      Touches [.links] [R.linkCrcerr + 0x40 * l, R.linkBadpkt] s t := by
  subst here
  obtain ⟨f, value⟩ := exec_arrival (s := s) h
  have only := badPacket_facts (Only.refl (l := i.link) four)
  refine ⟨badPacket s i.link, ?_, only.here, crcerr_badPacket, badpkt_badPacket, only.other, touches_badPacket⟩
  rw [value, onArrival]
  dsimp only
  rw [if_neg (not_or.2 ⟨Nat.not_lt.2 aligned, by simp [single]⟩), bad]
  rfl

theorem arrival_gap {ahead : Nat} (four : s.links.length = 4) (h : arrivalOf c = some (i, true)) (here : i.link = l) (sound : Sound s i)
    (ha : ahead = (i.seq.toNat + 256 - (linkOf s l).expect) % 256) (gap : ahead ≠ 0) :
    ∃ t, exec c s = .next t ∧
      linkOf t l = { linkOf s l with answer := some (decide (ahead < 128), ((linkOf s l).expect + 255) % 256) } ∧
      (∀ m, m ≠ l.val → linkOf t m = linkOf s m) ∧ Touches [.links] [] s t := by
  subst here
  obtain ⟨f, value⟩ := exec_arrival (s := s) h
  have only := (Only.refl (l := i.link) four).onLink fun k => { k with answer := some (decide (ahead < 128), (k.expect + 255) % 256) }
  refine ⟨answerLink s i.link (decide (ahead < 128)), ?_, only.here, only.other, touches_onLink touches_rfl (by decide)⟩
  rw [value, onArrival]
  dsimp only
  rw [if_neg (not_or.2 ⟨Nat.not_lt.2 sound.aligned, by simp [sound.single]⟩), sound.crc, ← ha, if_neg gap]
  rfl

end Arrivals

/-! ### The mailbox (R380, R381) -/

section Mailbox
variable {s : State} {v : Word} {l : Fin 4}

/-- The outcome of a request. -/
structure MailDone (s t : State) (err : Nat) : Prop where
  idle  : flag t R.linkRctl 2 = false
  done  : flag t R.linkRctl 3 = true
  err   : fld t R.linkRctl 5 4 = err
  irq   : flag t R.sysIrqstat 11 = true
  frame : Touches [] [R.linkRctl, R.sysIrqstat] s t

theorem mailboxDone_facts {err : Nat} (open' : flag s R.linkRctl 3 = false) (fits : err < 4) : MailDone s (mailboxDone s err) err := by
  have still : flag (wrFld (clrFlag s R.linkRctl 2) R.linkRctl 5 4 err) R.linkRctl 3 = false := by
    rw [flag_wrFld_apart (by decide) (by decide) (by decide), clrFlag_eq, flag_wrFld_apart (by decide) (by decide) (by decide), open']
  have value : mailboxDone s err = raiseIrq (setFlag (wrFld (clrFlag s R.linkRctl 2) R.linkRctl 5 4 err) R.linkRctl 3) 11 := by
    rw [mailboxDone, still, if_neg Bool.false_ne_true]
  rw [value]
  refine ⟨?_, ?_, ?_, flag_setFlag _ _ _ (by decide), touches_raiseIrq (touches_setFlag (touches_wrFld (touches_clrFlag touches_rfl _ (by simp))
    _ _ _ (by simp)) _ (by simp)) _ (by simp)⟩
  · rw [raiseIrq_eq, flag_wrFld_ne (by decide), setFlag_eq, flag_wrFld_apart (by decide) (by decide) (by decide),
      flag_wrFld_apart (by decide) (by decide) (by decide), flag_clrFlag _ _ _ (by decide)]
  · rw [raiseIrq_eq, flag_wrFld_ne (by decide), flag_setFlag _ _ _ (by decide)]
  · rw [raiseIrq_eq, fld_wrFld_ne (by decide), setFlag_eq, fld_wrFld_apart (by decide) (by decide) (by decide) (by decide),
      fld_wrFld_fits (by decide) (by decide) fits]

theorem rctl_row : ∃ d, Row R.linkRctl d := by
  have desc : (regDesc R.linkRctl).isSome = true := by decide
  obtain ⟨d, row⟩ := Option.isSome_iff_exists.1 desc
  exact ⟨d, by decide, by decide, row, by decide⟩

theorem command_rctl {t : State} : commandReg t false R.linkRctl v = some (writeRctl t v) := by
  unfold commandReg
  rw [if_neg (by decide), if_neg (by decide), if_neg (by decide), if_neg (by decide), if_neg (by decide), if_neg (by decide), if_neg (by decide),
    if_pos rfl]

/-- The register once its fields WRITE and DONE are written. -/
def requesting (s : State) (v : Word) : State :=
  if bitOf v 3 then clrFlag (wrFld s R.linkRctl 1 1 (bits v 1 1)) R.linkRctl 3 else wrFld s R.linkRctl 1 1 (bits v 1 1)

theorem touches_requesting : Touches [] [R.linkRctl] s (requesting s v) := by
  unfold requesting
  split
  · exact touches_clrFlag (touches_wrFld touches_rfl _ _ _ (by simp)) _ (by simp)
  · exact touches_wrFld touches_rfl _ _ _ (by simp)

/-- GO runs the request behind the write. -/
theorem exec_mailboxGo (may : HostMayWrite s R.linkRctl) (go : bitOf v 0 = true) (idle : flag s R.linkRctl 2 = false) :
    ∃ w, exec (.mailboxRequest v) s = .next (mailboxGo w) ∧ rd w R.linkRctl = rd (requesting s v) R.linkRctl ∧ Touches [] [R.linkRctl] s w := by
  obtain ⟨d, row⟩ := rctl_row
  have page : pageOf R.linkRctl + 0xFFFC = 0x400CFFFC := by decide
  have idle' : flag (wr s 0x400CFFFC 0) R.linkRctl 2 = false := by rw [flag_wr_ne (by decide), idle]
  have command : commandReg (wr s 0x400CFFFC 0) false R.linkRctl v = some (requesting (wr s 0x400CFFFC 0) v) := by
    rw [command_rctl, writeRctl]
    dsimp only
    rw [if_neg (fun k => Bool.false_ne_true (idle'.symm.trans k.2)), requesting]
  obtain ⟨value, touched⟩ := row_done page may.tap may.domain row (fun k => absurd k.1 (by decide)) command touches_requesting (by decide)
  refine ⟨_, ?_, ?_, touched⟩
  · show Host.Outcome.next (regWrite s R.linkRctl v) = _
    rw [value, afterHost, if_neg (by decide), if_pos ⟨rfl, go⟩]
  · have same : rd (wr s 0x400CFFFC 0) R.linkRctl = rd s R.linkRctl := rd_wr_ne _ _ _ _ (by decide)
    rw [rd_wr_ne _ _ _ _ (by decide)]
    unfold requesting
    split
    · rw [clrFlag_eq, wrFld, rd_wr, wrFld, rd_wr, same, clrFlag_eq, wrFld, rd_wr, wrFld, rd_wr]
    · rw [wrFld, rd_wr, same, wrFld, rd_wr]

/-- A bit that a word has clear. -/
theorem reads_bit {w : Word} {i : Nat} (clear : bitOf w i = false) : decide (bits w i i % 2 = 1) = false := by
  rw [bitOf, decide_eq_false_iff_not] at clear
  rw [bits, Nat.sub_self, Nat.zero_add, Nat.pow_one, Nat.mod_mod]
  exact decide_eq_false clear

theorem requesting_kept (kept : bitOf v 3 = false) : requesting s v = wrFld s R.linkRctl 1 1 (bits v 1 1) := by
  rw [requesting, kept, if_neg Bool.false_ne_true]

theorem isRoot_congr {t : State} (h : ∀ a ∈ placeRegs, rd t a = rd s a) (sys : t.sys.single = s.sys.single) : isRoot t = isRoot s := by
  have tiers : tiersOf t = tiersOf s := fld_congr (h _ (by simp [placeRegs]))
  have addr : rd t R.linkAddr = rd s R.linkAddr := h _ (by simp [placeRegs])
  rw [isRoot, isWorker, tiers, flag_congr addr, flag_congr addr, sys, isRoot, isWorker]

theorem place_ne_rctl : ∀ a ∈ placeRegs, a ∉ [R.linkRctl] := by decide

/-- The request on its way. -/
def requested (s : State) : State :=
  wrFld (setFlag { s with sys := { s.sys with mailAt := s.time.aoTime } } R.linkRctl 2) R.linkRctl 5 4 0

theorem mailboxGo_known (root : isRoot s = true) (known : (s.sys.devices.any fun d => d.addr = fld s R.linkRdest 13 0) = true) :
    mailboxGo s = forward (requested s) 0x03 (linkHd (requested s) (fld s R.linkRdest 13 0))
      (ctlBytes (b2n (flag (requested s) R.linkRctl 1)) 0 (rd (requested s) R.linkRoff) (rd (requested s) R.linkRdata)) := by
  rw [mailboxGo]
  dsimp only
  rw [root, known, Bool.and_true, if_pos rfl, requested]

theorem touches_requested : Touches [.sys] [R.linkRctl] s (requested s) :=
  touches_wrFld (touches_setFlag (touches_sys touches_rfl _ (by decide)) _ (by simp)) _ _ _ (by simp)

/-- A packet from the root goes down the link of its address (R349, R355). -/
theorem forward_root {dest typ : Nat} {payload : List Byte} (root : flag s R.linkAddr 30 = true) (fits : dest < 2 ^ 14) :
    forward s typ (linkHd s dest) payload = linkQueue s (dest / 128 / 32 % 4) typ (linkHd s dest) payload := by
  have value : (BitVec.ofNat 14 dest).toNat = dest := Nat.mod_eq_of_lt fits
  have route : routeTo s (linkHd s dest) = some (dest / 128 / 32 % 4) := by
    have down : (linkHd s dest).droot = false := rfl
    have name : (linkHd s dest).dest = BitVec.ofNat 14 dest := rfl
    rw [routeTo, root, if_pos rfl, down, if_neg Bool.false_ne_true, name, value]
  rw [forward, route]

theorem mailboxRequest_sends {dest u : Nat} (may : HostMayWrite s R.linkRctl) (four : s.links.length = 4) (go : bitOf v 0 = true)
    (reads : bitOf v 1 = false) (kept : bitOf v 3 = false) (idle : flag s R.linkRctl 2 = false) (hd : dest = fld s R.linkRdest 13 0)
    (root : isRoot s = true) (top : flag s R.linkAddr 30 = true) (known : (s.sys.devices.any fun d => d.addr = dest) = true)
    (hu : u = dest / 128 / 32 % 4) :
    ∃ t, exec (.mailboxRequest v) s = .next t ∧ flag t R.linkRctl 2 = true ∧ fld t R.linkRctl 5 4 = 0 ∧
      linkOf t u = { linkOf s u with
        outq := (linkOf s u).outq ++ [⟨0x03, linkHd s dest, ctlBytes 0 0 (rd s R.linkRoff) (rd s R.linkRdata), 0, 0⟩] } ∧
      (∀ m, m ≠ u → linkOf t m = linkOf s m) ∧ t.sys = { s.sys with mailAt := s.time.aoTime } ∧
      Touches [.links, .sys] [R.linkRctl] s t := by
  obtain ⟨w, value, rctl, written⟩ := exec_mailboxGo may go idle
  have sys : w.sys = s.sys := written.parts.sys (by decide)
  have links : w.links = s.links := written.parts.links (by decide)
  have other : ∀ a, a ≠ R.linkRctl → rd w a = rd s a := fun a ha => written.regs a (by simpa using ha)
  have place : ∀ a ∈ placeRegs, rd w a = rd s a := fun a ha => written.regs a (place_ne_rctl a ha)
  have dest' : fld w R.linkRdest 13 0 = dest := by rw [hd, fld_congr (other _ (by decide))]
  obtain ⟨r, hr⟩ : ∃ r, r = requested w := ⟨_, rfl⟩
  have asked : Touches [.sys] [R.linkRctl] w r := hr ▸ touches_requested
  have whole : Touches [.links, .sys] [R.linkRctl] s r :=
    touches_trans (touches_mono written (by decide) (List.Subset.refl _)) (touches_mono asked (by decide) (List.Subset.refl _))
  have kept' : ∀ a, a ≠ R.linkRctl → rd r a = rd s a := fun a ha => whole.regs a (by simpa using ha)
  have write : flag r R.linkRctl 1 = false := by
    rw [hr, requested, flag_wrFld_apart (by decide) (by decide) (by decide), setFlag_eq, flag_wrFld_apart (by decide) (by decide) (by decide)]
    show flag w R.linkRctl 1 = false
    rw [flag_congr rctl, requesting_kept kept, flag_wrFld (by decide)]
    exact reads_bit reads
  have sent : forward r 0x03 (linkHd r dest) (ctlBytes (b2n (flag r R.linkRctl 1)) 0 (rd r R.linkRoff) (rd r R.linkRdata)) =
      linkQueue r u 0x03 (linkHd s dest) (ctlBytes 0 0 (rd s R.linkRoff) (rd s R.linkRdata)) := by
    rw [forward_root ((flag_congr (kept' _ (by decide))).trans top) (hd ▸ Nat.mod_lt _ (by decide)), linkHd_congr (kept' _ (by decide)), write,
      kept' _ (by decide), kept' _ (by decide), ← hu]
    rfl
  have last : u < 4 := hu ▸ Nat.mod_lt _ (by decide)
  have only : Only s r ⟨u, last⟩ _ := (Only.refl (l := ⟨u, last⟩) four).congr (by rw [← links, hr, requested, wrFld_links, setFlag_links])
  have queued := only.queue 0x03 (linkHd s dest) (ctlBytes 0 0 (rd s R.linkRoff) (rd s R.linkRdata))
  refine ⟨linkQueue r u 0x03 (linkHd s dest) (ctlBytes 0 0 (rd s R.linkRoff) (rd s R.linkRdata)), ?_, ?_, ?_, queued.here, queued.other, ?_,
    touches_linkQueue whole (by decide)⟩
  · rw [value, mailboxGo_known ((isRoot_congr place (by rw [sys])).trans root) (by rw [sys, dest', known]), dest', ← hr, sent]
  · show flag r R.linkRctl 2 = true
    rw [hr, requested, flag_wrFld_apart (by decide) (by decide) (by decide), flag_setFlag _ _ _ (by decide)]
  · show fld r R.linkRctl 5 4 = 0
    rw [hr, requested, fld_wrFld_fits (by decide) (by decide) (by decide)]
  · show r.sys = _
    rw [hr, requested, wrFld_sys, setFlag_sys, sys, written.parts.time (by decide)]

theorem mailboxRequest_unknown (may : HostMayWrite s R.linkRctl) (go : bitOf v 0 = true) (kept : bitOf v 3 = false)
    (idle : flag s R.linkRctl 2 = false) (open' : flag s R.linkRctl 3 = false) (noRoot : isRoot s = false) :
    ∃ t, exec (.mailboxRequest v) s = .next t ∧ flag t R.linkRctl 2 = false ∧ flag t R.linkRctl 3 = true ∧
      fld t R.linkRctl 5 4 = 3 ∧ flag t R.sysIrqstat 11 = true ∧ Touches [] [R.linkRctl, R.sysIrqstat] s t := by
  obtain ⟨w, value, rctl, written⟩ := exec_mailboxGo may go idle
  have noRoot' : isRoot w = false :=
    (isRoot_congr (fun a ha => written.regs a (place_ne_rctl a ha)) (by rw [written.parts.sys (by decide)])).trans noRoot
  have open'' : flag w R.linkRctl 3 = false := by
    rw [flag_congr rctl, requesting_kept kept, flag_wrFld_apart (by decide) (by decide) (by decide), open']
  have done := mailboxDone_facts (err := 3) open'' (by decide)
  refine ⟨mailboxDone w 3, ?_, done.idle, done.done, done.err, done.irq,
    touches_trans (touches_mono written (List.Subset.refl _) (by simp)) done.frame⟩
  rw [value, mailboxGo]
  dsimp only
  rw [noRoot', Bool.false_and, if_neg Bool.false_ne_true]

theorem mailboxRequest_refused (may : HostMayWrite s R.linkRctl) (go : bitOf v 0 = true) (busy : flag s R.linkRctl 2 = true) :
    ∃ t, exec (.mailboxRequest v) s = .next t ∧ Refused s t R.linkRctl false := by
  obtain ⟨d, row⟩ := rctl_row
  have page : pageOf R.linkRctl + 0xFFFC = 0x400CFFFC := by decide
  have busy' : flag (wr s 0x400CFFFC 0) R.linkRctl 2 = true := by rw [flag_wr_ne (by decide), busy]
  refine ⟨regWrite s R.linkRctl v, rfl, row_refused page may row (fun k => absurd k.1 (by decide)) ?_⟩
  rw [command_rctl, writeRctl]
  dsimp only
  rw [if_pos ⟨go, busy'⟩]

theorem mailboxTimeout_early (short : cyclesSince s s.sys.mailAt < msCycles s 1) : exec .mailboxTimeout s = .next s := by
  show execMailboxTimeout s = _
  rw [execMailboxTimeout, decide_eq_false (Nat.not_le.2 short), Bool.and_false, if_neg Bool.false_ne_true]

theorem mailboxTimeout_late (busy : flag s R.linkRctl 2 = true) (open' : flag s R.linkRctl 3 = false)
    (long : msCycles s 1 ≤ cyclesSince s s.sys.mailAt) :
    ∃ t, exec .mailboxTimeout s = .next t ∧ flag t R.linkRctl 2 = false ∧ flag t R.linkRctl 3 = true ∧ fld t R.linkRctl 5 4 = 2 ∧
      flag t R.sysIrqstat 11 = true ∧ Touches [] [R.linkRctl, R.sysIrqstat] s t := by
  have done := mailboxDone_facts (err := 2) open' (by decide)
  refine ⟨mailboxDone s 2, ?_, done.idle, done.done, done.err, done.irq, done.frame⟩
  show execMailboxTimeout s = _
  rw [execMailboxTimeout, decide_eq_true long, busy, Bool.and_true, if_pos rfl]

theorem ctl_answers {i : Arrival} {hd : LinkHeader} {err : BitVec 2} {offset data : Word} (four : s.links.length = 4) (here : i.link = l)
    (order : InOrder s i) (joined : 5 ≤ linkState s l) (mine : forMe s hd = true) (root : isRoot s = true) (reads : flag s R.linkRctl 1 = false)
    (busy : flag s R.linkRctl 2 = true) (open' : flag s R.linkRctl 3 = false) :
    ∃ t, exec (.ctl i hd 2 err offset data) s = .next t ∧ rd t R.linkRdata = data ∧ flag t R.linkRctl 2 = false ∧
      flag t R.linkRctl 3 = true ∧ fld t R.linkRctl 5 4 = err.toNat ∧ flag t R.sysIrqstat 11 = true ∧
      linkOf t l = { acked (linkOf s l) with owed := (linkOf s l).owed.modify 0 (· + 1) } ∧
      (∀ m, m ≠ l.val → linkOf t m = linkOf s m) ∧ Touches [.links] [R.linkRdata, R.linkRctl, R.sysIrqstat] s t := by
  subst here
  obtain ⟨e, he⟩ : ∃ e, e = wr (bufferDrained (tookPacket s i.link) i.link 0 12) R.linkRdata data := ⟨_, rfl⟩
  have only : Only s e i.link _ := he ▸ ((only_tookPacket (l := i.link) four).drained 0 12).congr (wr_links ..)
  have frame : Touches [.links] [R.linkRdata, R.linkRctl, R.sysIrqstat] s e :=
    he ▸ touches_wr (touches_bufferDrained (touches_mono touches_tookPacket (List.Subset.refl _) (List.nil_subset _)) (by decide)) _ (by simp)
  have open'' : flag e R.linkRctl 3 = false := by
    rw [he, flag_wr_ne (by decide)]
    exact open'
  have done := mailboxDone_facts (err := err.toNat) open'' err.isLt
  have links : (mailboxDone e err.toNat).links = e.links := done.frame.parts.links (by decide)
  have value : exec (.ctl i hd 2 err offset data) s = .next (mailboxDone e err.toNat) := by
    have joined' : ¬ linkState (tookPacket s i.link) i.link < 5 := Nat.not_lt.2 joined
    have mine' : forMe (bufferDrained (tookPacket s i.link) i.link 0 12) hd = true := mine
    have reads' : flag (bufferDrained (tookPacket s i.link) i.link 0 12) R.linkRctl 1 = false := reads
    show execCtl i hd 2 err offset data s = _
    rw [execCtl, onArrival_inOrder order, takeCtl, if_neg joined']
    dsimp only
    rw [mine', if_neg (by decide), if_pos rfl, if_pos ⟨root, busy⟩, reads', if_neg Bool.false_ne_true, ← he]
  have after := only.congr links
  refine ⟨_, value, ?_, done.idle, done.done, done.err, done.irq, after.here, after.other,
    touches_trans frame (touches_mono done.frame (List.nil_subset _) (by simp))⟩
  rw [done.frame.regs _ (by decide), he, rd_wr]

end Mailbox

/-- Settles O43: each packet and time-out acts on its link by the lemma of its kind, and the mailbox by what its register says. -/
theorem linkPackets : Obligations.LinkPackets := by
  unfold Obligations.LinkPackets
  exact ⟨fun _ _ _ _ four => cred_returns four,
    fun _ _ _ _ _ four kept first beyond => ack_drops four kept first beyond,
    fun _ _ _ _ four kept few beyond h => nak_resends four kept few beyond h,
    fun _ _ _ _ four trained managed root first h => linkDown_loses four trained managed root first h,
    fun _ _ _ _ _ four here order active noWorker some' => evt_offers four here order active noWorker some',
    fun _ _ _ _ _ _ _ four here order active worker single rooted up apart hbs =>
      evt_passes_up four here order active worker single rooted up apart hbs,
    fun _ _ _ _ _ four here order active managed root => wev_stays four here order active managed root,
    fun _ _ _ _ _ _ four here order active managed noRoot up apart => wev_passes_up four here order active managed noRoot up apart,
    fun _ _ _ _ _ _ _ four here sound active worker up apart hbs => trc_passes_up four here sound active worker up apart hbs,
    fun _ _ _ _ four here sound active noWorker locked => trc_dropped four here sound active noWorker locked,
    fun _ _ _ _ may four go reads kept idle hd root top known hu => mailboxRequest_sends may four go reads kept idle hd root top known hu,
    fun _ _ may go kept idle open' noRoot => mailboxRequest_unknown may go kept idle open' noRoot,
    fun _ _ may go busy => mailboxRequest_refused may go busy,
    fun _ short => mailboxTimeout_early short,
    fun _ busy open' long => mailboxTimeout_late busy open' long,
    fun _ _ _ _ _ _ _ four here order joined mine root reads busy open' => ctl_answers four here order joined mine root reads busy open',
    fun _ _ _ _ h early => arrival_early h early,
    fun _ _ _ _ _ four h here aligned single bad => arrival_bad four h here aligned single bad,
    fun _ _ _ _ _ four h here sound ha gap => arrival_gap four h here sound ha gap⟩

end Sys2Proof.Links

/-! PROOFS. What placing Phrases and starting rendering touch (R17, R135, R139, R447). -/

namespace Sys2Proof.Rendering
open Sys2Proof.Machine Sys2Proof.Laws Sys2Proof.Architecture Sys2Proof.Answers

/-- What the placing of a Phrase touches: Phrases, and memory. -/
def placingParts : List Part := .phrases :: memoryParts

/-- From s to t no more differs than what the placing of Phrases touches. -/
abbrev Placed (s t : State) : Prop := Touches placingParts memoryRegs s t

section Words
variable {s t u : State}

theorem Placed.memory (h : Placed s t) (k : Touches memoryParts memoryRegs t u) : Placed s u :=
  touches_trans h (touches_mono k (List.subset_cons_self _ _) (List.Subset.refl _))

theorem touches_putWordBytes (s : State) (a : Nat) (bs : List Byte) : Touches memoryParts memoryRegs s (putWordBytes s a bs) := by
  fun_induction putWordBytes s a bs with
  | case1 s a b0 b1 b2 b3 b4 b5 b6 b7 rest ih => exact touches_trans (touches_putWord touches_rfl _ _) ih
  | case2 => exact touches_rfl

theorem touches_storeRun (s : State) (req n a : Nat) (bs : List Byte) : Touches memoryParts memoryRegs s (storeRun s req n a bs) := by
  induction n generalizing s a bs with
  | zero => exact touches_rfl
  | succ n ih =>
    refine touches_trans ?_ (ih _ _ _)
    split
    · exact touches_putWord touches_rfl _ _
    · exact touches_mergeWord touches_rfl _ _ _ _

theorem touches_copyWords (s : State) (n src dst : Nat) : Touches memoryParts memoryRegs s (copyWords s n src dst) := by
  induction n generalizing s src dst with
  | zero => exact touches_rfl
  | succ n ih =>
    have fetched : Touches memoryParts memoryRegs s (fetchWord s 3 src).1 := touches_fetchWord touches_rfl _ _
    refine touches_trans fetched (touches_trans ?_ (ih _ _ _))
    exact touches_ite (touches_putPoison touches_rfl _ _) (touches_putWord touches_rfl _ _)

end Words

section Places
variable {s t : State}

theorem placed_onPhrase (pos : Nat) (f : Phrase → Phrase) : Placed s (onPhrase s pos f) := touches_phrases touches_rfl _ (by decide)

theorem placed_copyWords (n src dst : Nat) : Placed s (copyWords s n src dst) := Placed.memory touches_rfl (touches_copyWords s n src dst)

theorem placed_storeBytes (req a : Nat) (bs : List Byte) : Placed s (storeBytes s req a bs) := Placed.memory touches_rfl (touches_storeRun s _ _ _ _)

theorem placed_shiftPhrase (v pos xb yb : Nat) : Placed s (shiftPhrase s v pos xb yb) := by
  unfold shiftPhrase
  split
  · exact touches_rfl
  · split
    · exact touches_rfl
    · exact touches_trans (touches_trans (placed_copyWords _ _ _) (placed_copyWords _ _ _))
        (touches_trans (placed_onPhrase _ _) (placed_storeBytes _ _ _))

theorem placed_packPart (v : Nat) (y : Bool) (pos : Nat) : Placed s (packPart v y s pos) := by
  unfold packPart
  split
  · exact touches_rfl
  · split
    · dsimp only
      split
      · split <;> exact touches_ite (placed_shiftPhrase _ _ _ _) touches_rfl
      · exact touches_rfl
    · exact touches_rfl

theorem placed_compact (v : Nat) : Placed s (compact s v) :=
  touches_foldl (touches_foldl touches_rfl fun _ _ _ h => touches_trans h (placed_packPart _ _ _))
    fun _ _ _ h => touches_trans h (placed_packPart _ _ _)

theorem placed_makeRoom (v : Nat) (x : Syntax) : Placed s (makeRoom s v x) := touches_ite (placed_compact v) touches_rfl

theorem placed_findHome (lane : Nat) (x : Syntax) : Placed s (findHome s lane x).1 := by
  unfold findHome placeOn
  split
  · exact touches_rfl
  · dsimp only
    split
    · exact touches_rfl
    · next d _ =>
      cases fitBoth (makeRoom s d x) d x with
      | none => exact placed_makeRoom d x
      | some places => exact placed_makeRoom d x

theorem placed_initPhraseState (p : Phrase) : Placed s (initPhraseState s p) := by
  unfold initPhraseState
  split
  · exact Placed.memory (touches_clearRange (touches_clearRange touches_rfl _ _ (by decide) (by decide)) _ _ (by decide) (by decide))
      (touches_putWordBytes _ _ _)
  · exact touches_rfl

theorem placed_placePhrase (pos : Nat) : Placed s (placePhrase s pos) := by
  unfold placePhrase
  split
  · exact touches_rfl
  · next p _ =>
    split
    · rename_i x _ _ _
      have found := placed_findHome (s := s) p.lane x
      generalize findHome s p.lane x = r at found
      obtain ⟨t, place⟩ := r
      cases place with
      | none => exact found
      | some place =>
        obtain ⟨v, a, b⟩ := place
        exact touches_trans found (touches_trans (placed_onPhrase pos _) (placed_initPhraseState _))
    · exact touches_rfl

theorem placed_createGlobals : Placed s (createGlobals s) := by
  refine touches_foldl touches_rfl fun u sid _ h => touches_trans h ?_
  split
  · exact touches_trans (touches_phrases touches_rfl _ (by decide)) (placed_placePhrase _)
  · exact touches_rfl

end Places

/-! ### Rendering starts -/

section Start
variable {s : State}

theorem touches_showFree : Touches [] [R.allocStat] s (showFree s) :=
  touches_wrFld (touches_wrFld touches_rfl _ _ _ List.mem_cons_self) _ _ _ List.mem_cons_self

theorem touches_refreshVerbs : Touches [.verbs] [R.parserVstat] s (refreshVerbs s) :=
  touches_wrFld (touches_wrFld (touches_verbs touches_rfl _ (by decide)) _ _ _ List.mem_cons_self) _ _ _ List.mem_cons_self

/-- The device renders, after frame n. -/
def rendering (s : State) (n : Nat) : State :=
  { s with time := { s.time with rendering := true, frame := n, step1 := n, step2 := n, take := n, voids := [], reported := [] } }

theorem touches_rendering {n : Nat} :
    Touches (.verbs :: placingParts) (R.allocStat :: R.parserVstat :: memoryRegs) (rendering s n) (startRendering s n) := by
  have shown := touches_mono (touches_showFree (s := rendering s n)) (ps := .verbs :: placingParts)
    (rs := R.allocStat :: R.parserVstat :: memoryRegs) (List.nil_subset _) (by simp)
  have fixed := touches_mono (touches_refreshVerbs (s := showFree (rendering s n))) (ps := .verbs :: placingParts)
    (rs := R.allocStat :: R.parserVstat :: memoryRegs) (by simp) (by simp)
  have created := touches_mono (placed_createGlobals (s := refreshVerbs (showFree (rendering s n)))) (ps := .verbs :: placingParts)
    (rs := R.allocStat :: R.parserVstat :: memoryRegs) (List.subset_cons_self _ _)
    (List.subset_cons_of_subset _ (List.subset_cons_self _ _))
  exact touches_trans shown (touches_trans fixed created)

end Start

end Sys2Proof.Rendering

/-! PROOFS. What a boot and a wake end in (R416, R419, R425, R454). -/

namespace Sys2Proof.Booted
open Sys2Proof.Machine Sys2Proof.Laws Sys2Proof.Architecture Sys2Proof.Answers
open Sys2Proof.SerialPorts (flag_congr fld_congr)

/-! ### The boot-failure state (R419) -/

section Failure
variable {s : State}

/-- The domains that the boot-failure state turns off. -/
def failureDomains (s : State) : List Nat := if flag s R.linkCfg 2 then [1, 2, 4, 5, 6] else [1, 2, 4, 5, 6, 7]

/-- The state of a device whose boot has failed, but for its domains and its link. -/
def failureShown (s : State) (step : Nat) (r : Word) : State :=
  clrFlag (wrFld (raiseIrq (wr s R.nvmBoot (w32 (0x80000000 + r.toNat % 256 * 65536 + step * 16))) 8) R.pwrStat 2 0 0) R.pwrStat 3

/-- No boot has ended well, and none is under way. -/
def bootEnded (s : State) : State :=
  { s with boot := { s.boot with ready := true, complete := false, interruptMode := false, reloading := false } }

/-- The links of the boot-failure state: with LBOOT, PD7 stays on and LK0 becomes the upstream link. -/
def failureLink (s : State) : State :=
  let t := wrFld (setFlag s R.pwrDomstat 7) R.linkLcfg 2 0 1
  if linkState t 0 = 0 then setLinkState t 0 1 else t

/-- The state the boot-failure state starts from, and its reason. -/
def failureReason (s : State) (reason : Option Nat) : State × Word :=
  match reason with | some r => (s, w32 r) | none => drawFree s

theorem bootFailure_eq (step : Nat) (reason : Option Nat) : bootFailure s step reason =
    (if !flag s R.linkCfg 2 then bootEnded (failureShown ((failureDomains s).foldl dropDomain (failureReason s reason).1) step (failureReason s reason).2)
     else failureLink (bootEnded (failureShown ((failureDomains s).foldl dropDomain (failureReason s reason).1) step (failureReason s reason).2))) := by
  cases reason <;> rfl

theorem nvmBoot_failureShown {step : Nat} {r : Word} :
    rd (failureShown s step r) R.nvmBoot = w32 (0x80000000 + r.toNat % 256 * 65536 + step * 16) := by
  have shown : Touches [] [R.sysIrqstat, R.pwrStat] (wr s R.nvmBoot (w32 (0x80000000 + r.toNat % 256 * 65536 + step * 16)))
      (failureShown s step r) :=
    touches_clrFlag (touches_wrFld (touches_raiseIrq touches_rfl _ (by simp)) _ _ _ (by simp)) _ (by simp)
  rw [shown.regs _ (by decide), rd_wr]

theorem touches_setLinkState (l : Fin 4) {n : Nat} (early : n ≠ 6) : Touches [.links] (Links.stepRegs l) s (setLinkState s l n) := by
  by_cases stays : linkState s l = n
  · rw [setLinkState, if_pos stays]
    exact touches_rfl
  · rw [Links.setLinkState_eq stays early]
    exact Links.touches_stepped

theorem touches_failureLink : Touches [.links] [R.pwrDomstat, R.linkLcfg, lstatReg 0, R.sysIrqstat] s (failureLink s) := by
  have first : Touches [.links] [R.pwrDomstat, R.linkLcfg, lstatReg 0, R.sysIrqstat] s (wrFld (setFlag s R.pwrDomstat 7) R.linkLcfg 2 0 1) :=
    touches_wrFld (touches_setFlag touches_rfl _ (by simp)) _ _ _ (by simp)
  rw [failureLink]
  generalize wrFld (setFlag s R.pwrDomstat 7) R.linkLcfg 2 0 1 = u at first
  have steps := touches_setLinkState (s := u) 0 (n := 1) (by decide)
  refine touches_ite (touches_trans first (touches_mono steps (List.Subset.refl _) (by decide))) first

/-- The word that shows a boot failure has its top bit set. -/
theorem failure_bit {step : Nat} (r : Word) (early : step ≤ 8) : bitOf (w32 (0x80000000 + r.toNat % 256 * 65536 + step * 16)) 31 = true := by
  rw [bitOf, w32, BitVec.toNat_ofNat]
  have least := Nat.mod_lt r.toNat (show 256 > 0 by decide)
  generalize r.toNat % 256 = x at least
  simp only [decide_eq_true_eq]
  omega

/-- The device is in the boot-failure state. -/
theorem bootFailure_ends (step : Nat) (reason : Option Nat) (early : step ≤ 8) :
    flag (bootFailure s step reason) R.nvmBoot 31 = true ∧ (bootFailure s step reason).boot.complete = false := by
  rw [bootFailure_eq]
  obtain ⟨u, hu⟩ : ∃ u, u = failureShown ((failureDomains s).foldl dropDomain (failureReason s reason).1) step (failureReason s reason).2 := ⟨_, rfl⟩
  have shown : flag (bootEnded u) R.nvmBoot 31 = true := by
    rw [flag, bootEnded, rd_lit, hu, nvmBoot_failureShown, failure_bit _ early]
  rw [← hu]
  split
  · exact ⟨shown, rfl⟩
  · have link := touches_failureLink (s := bootEnded u)
    refine ⟨?_, ?_⟩
    · rw [flag_congr (link.regs _ (by decide)), shown]
    · rw [link.parts.boot (by decide), bootEnded]

theorem bootFailure_outcome (step : Nat) (reason : Option Nat) (early : step ≤ 8) : BootOutcome (bootFailure s step reason) :=
  .inr (.inl (bootFailure_ends step reason early))

/-- A faulty image fails a step of the boot. -/
theorem imageFault_step {img : List Byte} {capacity : Nat} {skip : Bool} {code a b c step : Nat}
    (h : imageFault s img capacity skip = some (code, a, b, c, step)) : step ≤ 8 := by
  unfold imageFault at h
  split at h
  · cases h
    decide
  · split at h
    · cases h
      decide
    · dsimp only at h
      split at h
      · cases h
        decide
      · obtain ⟨r, -, same⟩ := Option.map_eq_some_iff.1 h
        cases same
        decide

/-- The device after step 4: the flash, where one answers, is known. -/
def discovered (s : State) : State := if s.flash.responds then discoverFlash s else s

/-- The image of a device that has one, its wave data and the check of steps 6 and 8. -/
def imageChecked (s : State) (img : List Byte) (link skip : Bool) : State × Option (List Byte × Bool) :=
  match imageFault s img (imageCapacity s link) skip with
  | some (code, a, b, c, step) =>
    (bootFailure (raiseGloss s code (w32 a) (w32 b) (w32 c)) step (if code = 0x1131 then none else some a), none)
  | none => (acceptImage s img link, some (img, skip))

theorem checkedImage_eq (link retained : Bool) : checkedImage s link retained =
    if !link ∧ !(discovered s).flash.responds then (bootFailure (raiseGloss (discovered s) 0x1110 0 0 0) 5 (some 0), none)
    else imageChecked (discovered s) (readImage (discovered s) link) link (retained && waveHeld (discovered s) (readImage (discovered s) link)) := rfl

theorem imageChecked_fails {img : List Byte} {link skip : Bool} (fails : (imageChecked s img link skip).2 = none) :
    BootOutcome (imageChecked s img link skip).1 := by
  unfold imageChecked at fails ⊢
  cases fault : imageFault s img (imageCapacity s link) skip with
  | none => rw [fault] at fails; cases fails
  | some f =>
    obtain ⟨code, a, b, c, step⟩ := f
    exact bootFailure_outcome _ _ (imageFault_step fault)

/-- An image that cannot be read, or that fails a check, leaves the boot-failure state. -/
theorem checkedImage_fails {link retained : Bool} (fails : (checkedImage s link retained).2 = none) :
    BootOutcome (checkedImage s link retained).1 := by
  obtain ⟨d, hd⟩ : ∃ d, d = discovered s := ⟨_, rfl⟩
  have value := checkedImage_eq (s := s) link retained
  rw [← hd] at value
  by_cases unread : !link ∧ !d.flash.responds
  · rw [congrArg Prod.fst (value.trans (if_pos unread))]
    exact bootFailure_outcome 5 (some 0) (by decide)
  · have checked := value.trans (if_neg unread)
    rw [congrArg Prod.snd checked] at fails
    rw [congrArg Prod.fst checked]
    exact imageChecked_fails fails

end Failure
/-! ### The links at the end of a boot (R347) -/

section Links
variable {s t : State}

/-- The registers of the links at the end of a boot. -/
def linkStartRegs : List Nat := R.linkAddr :: R.sysIrqstat :: (List.range 4).map lstatReg ++ glossRegs

/-- From s to t no more differs than what the start of the links touches. -/
abbrev LinksStarted (s t : State) : Prop := Touches [.sys, .links, .gloss, .free] linkStartRegs s t

theorem linksStarted_step (l : Nat) (known : l ∈ List.range 4) {n : Nat} (early : n ≠ 6) : LinksStarted s (setLinkState s l n) := by
  have inside : ∀ l : Fin 4, Links.stepRegs l ⊆ linkStartRegs := by decide
  exact touches_mono (touches_setLinkState ⟨l, List.mem_range.1 known⟩ early) (by decide) (inside _)

theorem linksStarted_sys (x : SysSt) : LinksStarted s { s with sys := x } := touches_sys touches_rfl x (by decide)

theorem linksStarted_addr (x : Word) : LinksStarted s (wr s R.linkAddr x) := touches_wr touches_rfl x (by decide)

theorem linksStarted_becomeSingle : LinksStarted s (becomeSingle s) := by
  refine touches_foldl (touches_trans (linksStarted_sys _) (linksStarted_addr _)) fun u l known h => touches_trans h ?_
  split
  · exact touches_rfl
  · exact touches_trans (touches_links touches_rfl _ (by decide)) (linksStarted_step l known (by decide))

theorem linksStarted_becomeRoot : LinksStarted s (becomeRoot s) := by
  unfold becomeRoot
  split
  · exact touches_trans (linksStarted_sys _) (linksStarted_addr _)
  · exact touches_trans (touches_raiseGloss (touches_free (touches_free touches_rfl _ (by decide)) _ (by decide)) _ _ _ _ (by decide) (by decide))
      linksStarted_becomeSingle

theorem linksStarted_becomeWorker : LinksStarted s (becomeWorker s) := touches_trans (linksStarted_sys _) (linksStarted_addr _)

theorem linksStarted_startLinks (link : Bool) : LinksStarted s (startLinks s link) := by
  have training : ∀ u, LinksStarted u
      ((List.range 4).foldl (fun t l => if linkDir t l ≠ 0 ∧ linkState t l = 0 then setLinkState t l 1 else t) u) := fun u =>
    touches_foldl touches_rfl fun v l known h => touches_trans h (touches_ite (linksStarted_step l known (by decide)) touches_rfl)
  unfold startLinks
  dsimp only
  refine touches_trans (linksStarted_sys { s.sys with roleFrom := s.time.aoTime }) ?_
  generalize { s with sys := { s.sys with roleFrom := s.time.aoTime } } = a
  have role : LinksStarted a (match link, fld a R.linkCfg 1 0 with
    | true, _ => if flag a R.linkAddr 31 then a else becomeWorker a
    | _, 0 => becomeSingle a
    | _, 1 => becomeRoot a
    | _, 2 => if flag a R.linkAddr 31 && !flag a R.linkAddr 30 then a else becomeWorker a
    | _, _ => a) := by
    split
    · exact touches_ite touches_rfl linksStarted_becomeWorker
    · exact linksStarted_becomeSingle
    · exact linksStarted_becomeRoot
    · exact touches_ite touches_rfl linksStarted_becomeWorker
    · exact touches_rfl
  exact touches_ite role (touches_trans role (training _))

end Links

/-! ### Interrupt mode (R416) -/

section Ends
variable {s t : State} {target : Nat} {ps : List Part} {rs : List Nat}

/-- The device is in interrupt mode, in RUN with rendering on, and step 13 is shown. -/
structure BootDone (t : State) : Prop where
  complete  : t.boot.complete = true
  interrupt : t.boot.interruptMode = true
  rendering : t.time.rendering = true
  step      : fld t R.nvmBoot 7 4 = 13
  run       : devState t = 0

theorem BootDone.outcome (h : BootDone t) : BootOutcome t := .inr (.inr ⟨h.complete, h.interrupt, h.rendering, h.step, h.run⟩)

theorem BootDone.touched (h : BootDone s) (k : Touches ps rs s t) (boot : Part.boot ∉ Part.regs :: ps) (time : Part.time ∉ Part.regs :: ps)
    (shown : R.nvmBoot ∉ rs) (state : R.pwrStat ∉ rs) : BootDone t where
  complete := by rw [k.parts.boot boot, h.complete]
  interrupt := by rw [k.parts.boot boot, h.interrupt]
  rendering := by rw [k.parts.time time, h.rendering]
  step := by rw [fld_congr (k.regs _ shown), h.step]
  run := by rw [devState, fld_congr (k.regs _ state)]; exact h.run

/-- The state in which rendering starts at the end of a boot. -/
def interruptEntered (s : State) (link : Bool) : State :=
  wrFld (wr { s with boot := { s.boot with interruptMode := true, complete := true, programWritten := false },
                     time := { s.time with stampOld := s.time.epochSet || s.time.stampOld, epochSet := false, synced := false } }
    R.nvmBoot (w32 (0xD0 + 0x40000000 * b2n link))) R.pwrStat 2 0 0

theorem bootDone_interruptMode (link : Bool) : BootDone (enterInterruptMode s link) := by
  have value : enterInterruptMode s link = startLinks (startRendering (interruptEntered s link) 0) link := rfl
  obtain ⟨e, he⟩ : ∃ e, e = interruptEntered s link := ⟨_, rfl⟩
  have entered : e.boot.complete = true ∧ e.boot.interruptMode = true := by rw [he, interruptEntered, wrFld_boot, wr_boot]; exact ⟨rfl, rfl⟩
  have step : fld e R.nvmBoot 7 4 = 13 := by
    rw [he, interruptEntered, fld_wrFld_ne (by decide), fld, rd_wr]
    cases link <;> decide
  have run : devState e = 0 := by rw [he, interruptEntered, devState, fld_wrFld_fits (by decide) (by decide) (by decide)]
  have starts : BootDone (Rendering.rendering e 0) :=
    ⟨entered.1, entered.2, rfl, (by rw [Rendering.rendering, fld_lit, step]), (by rw [devState, Rendering.rendering, fld_lit]; exact run)⟩
  rw [value, ← he]
  exact (starts.touched Rendering.touches_rendering (by decide) (by decide) (by decide) (by decide)).touched
    (linksStarted_startLinks link) (by decide) (by decide) (by decide) (by decide)

theorem touches_openAllParks : Touches [.analog] [] s (openAllParks s) := by
  refine touches_ite (touches_foldl touches_rfl fun u k _ h => touches_ite h ?_) touches_rfl
  exact touches_analog h _ (by decide)

theorem touches_scanSlot (d : StoreDesc) (kind k : Nat) : Touches [.flash, .gloss] glossRegs s (scanSlot d kind s k) := by
  unfold scanSlot
  split
  · have erased : ∀ a n, Touches [.flash, .gloss] glossRegs s (flashEraseRange s a n) := fun a n => touches_flash touches_rfl _ (by decide)
    exact touches_ite touches_rfl (touches_ite (erased _ _) (touches_raiseGloss (erased _ _) _ _ _ _ (by decide) (List.Subset.refl _)))
  · exact touches_rfl

theorem touches_scanStore : Touches [.flash, .gloss] glossRegs s (scanStore s) := by
  unfold scanStore
  split
  · exact touches_rfl
  · exact touches_foldl touches_rfl fun _ _ _ h => touches_foldl h fun _ _ _ h => touches_trans h (touches_scanSlot _ _ _)

theorem bootDone_finishBoot (link : Bool) (fails : Nat) : BootDone (finishBoot s link fails) := by
  unfold finishBoot
  dsimp only
  have released : ∀ u : State, Touches [] [R.pwrDomstat] u ([11, 13, 15].foldl (fun t b => clrFlag t R.pwrDomstat b) u) := fun u =>
    touches_foldl touches_rfl fun _ _ _ h => touches_clrFlag h _ List.mem_cons_self
  have run := (bootDone_interruptMode (s := selfTests s fails) link).touched (released _) (by decide) (by decide) (by decide) (by decide)
  have opened := run.touched touches_openAllParks (by decide) (by decide) (by decide) (by decide)
  have raised := opened.touched (touches_raiseIrq touches_rfl 8 (ps := []) (rs := [R.sysIrqstat]) List.mem_cons_self) (by decide) (by decide)
    (by decide) (by decide)
  exact raised.touched touches_scanStore (by decide) (by decide) (by decide) (by decide)

theorem touches_reachState : Touches [] [R.pwrStat, R.sysIrqstat] s (reachState s target) :=
  touches_raiseIrq (touches_clrFlag (touches_wrFld touches_rfl _ _ _ (by simp)) _ (by simp)) _ (by simp)

theorem state_reachState (fits : target < 8) : devState (reachState s target) = target := by
  rw [devState, reachState, raiseIrq_eq, fld_wrFld_ne (by decide), clrFlag_eq, fld_wrFld_apart (by decide) (by decide) (by decide) (by decide),
    fld_wrFld_fits (by decide) (by decide) fits]

theorem busy_reachState : flag (reachState s target) R.pwrStat 3 = false := by
  rw [reachState, raiseIrq_eq, flag_wrFld_ne (by decide), flag_clrFlag _ _ _ (by decide)]

theorem irq_reachState : flag (reachState s target) R.sysIrqstat 9 = true := flag_setFlag _ _ _ (by decide)

theorem power_reachState : (reachState s target).power = s.power := by
  rw [reachState, raiseIrq_power, clrFlag_power, wrFld_power]

theorem bootDone_reachState (h : BootDone s) : BootDone (reachState s 0) where
  complete := by rw [touches_reachState.parts.boot (by decide), h.complete]
  interrupt := by rw [touches_reachState.parts.boot (by decide), h.interrupt]
  rendering := by rw [touches_reachState.parts.time (by decide), h.rendering]
  step := by rw [fld_congr (touches_reachState.regs _ (by decide)), h.step]
  run := state_reachState (by decide)

end Ends

/-- The outcome stays where neither the boot's record nor what it shows changes. -/
theorem outcome_touched {s t : State} {ps : List Part} {rs : List Nat} (h : BootOutcome s) (k : Touches ps rs s t) (boot : Part.boot ∉ Part.regs :: ps)
    (time : Part.time ∉ Part.regs :: ps) (shown : R.nvmBoot ∉ rs) (state : R.pwrStat ∉ rs) : BootOutcome t := by
  unfold BootOutcome at h ⊢
  rw [k.parts.boot boot, k.parts.time time, flag_congr (k.regs _ shown), fld_congr (k.regs _ shown), devState, fld_congr (k.regs _ state)]
  exact h

/-! ### What the boot and the wake end in (R416, R425, R454) -/

section Outcomes
variable {s : State}

/-- A list of the image may have reset the device; otherwise its boot goes on. -/
theorem outcome_unlessReset {t u : State} (h : BootOutcome t) : BootOutcome (if !u.boot.ready then u else t) := by
  cases ready : u.boot.ready with
  | true => exact h
  | false => exact .inl ready

theorem bootFromFive_outcome (link : Bool) (fails : Nat) : BootOutcome (bootFromFive s link fails) := by
  unfold bootFromFive
  have failed := checkedImage_fails (s := s) (link := link) (retained := false)
  generalize checkedImage s link false = r at failed
  obtain ⟨t, image⟩ := r
  cases image with
  | none => exact failed rfl
  | some image =>
    obtain ⟨img, skip⟩ := image
    dsimp only
    exact outcome_unlessReset (bootDone_finishBoot link fails).outcome

theorem bootFromFour_outcome (link : Bool) (fails : Nat) (out : List BootStep) : BootOutcome (bootFromFour s link fails out) := by
  unfold bootFromFour
  dsimp only
  split
  · exact bootFailure_outcome _ _ (by decide)
  · split
    · exact bootFailure_outcome _ _ (by decide)
    · exact bootFromFive_outcome _ _

/-- The device has woken: it is in interrupt mode, and in RUN (R454). -/
def wakeReached (s : State) (sources retries : Nat) : State :=
  raiseGloss (drawFree (raiseIrq (reachState (enterInterruptMode s false) 0) 8)).1 0x0120 (w32 sources)
    (drawFree (raiseIrq (reachState (enterInterruptMode s false) 0) 8)).2 (w32 retries)

theorem bootDone_wakeReached (sources retries : Nat) : BootDone (wakeReached s sources retries) := by
  have reached := bootDone_reachState (bootDone_interruptMode (s := s) false)
  unfold wakeReached
  generalize reachState (enterInterruptMode s false) 0 = u at reached
  have shown : Touches [.free] [R.sysIrqstat] u (drawFree (raiseIrq u 8)).1 :=
    touches_free (touches_raiseIrq touches_rfl _ List.mem_cons_self) _ (by decide)
  have drawn := reached.touched shown (by decide) (by decide) (by decide) (by decide)
  generalize drawFree (raiseIrq u 8) = d at drawn
  have logged : Touches [.gloss] glossRegs d.1 (raiseGloss d.1 0x0120 (w32 sources) d.2 (w32 retries)) :=
    touches_raiseGloss touches_rfl _ _ _ _ (by decide) (List.Subset.refl _)
  exact drawn.touched logged (by decide) (by decide) (by decide) (by decide)

theorem finishWake_outcome (img : List Byte) (sources retries fails : Nat) : BootOutcome (finishWake s img sources retries fails) := by
  unfold finishWake
  exact outcome_unlessReset (bootDone_wakeReached sources retries).outcome

theorem wake_outcome (crystal : Bool) (fails : Nat) : BootOutcome (wake s crystal fails) := by
  unfold wake
  dsimp only
  have failed := checkedImage_fails (s := wakeDomains s crystal) (link := false) (retained := decide (devState s = 2) && flag s R.pwrRet 8)
  generalize checkedImage (wakeDomains s crystal) false (decide (devState s = 2) && flag s R.pwrRet 8) = r at failed
  obtain ⟨t, image⟩ := r
  cases image with
  | none => exact failed rfl
  | some image =>
    obtain ⟨img, skip⟩ := image
    dsimp only
    exact outcome_unlessReset (finishWake_outcome _ _ _ _)

end Outcomes

end Sys2Proof.Booted

/-! PROOFS. RUN, QUIET, SLEEP, OFF and the wake (R446 to R448, R453 to R455). -/

namespace Sys2Proof.States
open Sys2Proof.Machine Sys2Proof.Laws Sys2Proof.Architecture Sys2Proof.Answers
open Sys2Proof.SerialPorts (flag_congr fld_congr)
open Sys2Proof.Supply (startWake_idle wakeDue_none)
open Sys2Proof.Booted

/-! ### PWR.CMD (R446 to R448) -/

section Commands
variable {s u : State} {req r : Nat}

theorem cmd_row : ∃ d, Row R.pwrCmd d := by
  have desc : (regDesc R.pwrCmd).isSome = true := by decide
  obtain ⟨d, row⟩ := Option.isSome_iff_exists.1 desc
  exact ⟨d, by decide, by decide, row, by decide⟩

/-- The value of a request, with its key. -/
theorem request_value (known : req < 5) : bits (w32 (0x5A000000 + req)) 31 24 = 0x5A ∧ bits (w32 (0x5A000000 + req)) 2 0 = req := by
  have all : ∀ r : Fin 5, bits (w32 (0x5A000000 + r.val)) 31 24 = 0x5A ∧ bits (w32 (0x5A000000 + r.val)) 2 0 = r.val := by decide
  exact all ⟨req, known⟩

theorem writePwrCmd_request (known : req < 5) : writePwrCmd s (w32 (0x5A000000 + req)) = pwrRequest s req := by
  obtain ⟨key, value⟩ := request_value known
  rw [writePwrCmd, key, value]
  rfl

/-- A request that does not reset the device. -/
theorem not_resetWrite (known : req < 5) (h : req ≠ 4 ∨ flag s R.pwrStat 3 = true) : ¬ ResetWrite s R.pwrCmd (w32 (0x5A000000 + req)) := by
  rintro ⟨-, -, four, free⟩
  rw [(request_value known).2] at four
  exact h.elim (fun k => k four) fun busy => free busy

/-- The device with its page's ERR register looked at from 0 (R9). -/
abbrev looked (s : State) : State := wr s R.pwrErr 0

theorem devState_wr {e : Nat} {x : Word} (h : R.pwrStat ≠ e) : devState (wr s e x) = devState s := fld_wr_ne h

/-- A request that is taken: a latched wake may begin behind it. -/
theorem powerWrite_runs {ps : List Part} {rs : List Nat} (tap : tapHolds s = false) (domain : domainOn s (pageDomain R.pwrCmd) = true)
    (known : req < 5) (h : req ≠ 4 ∨ flag s R.pwrStat 3 = true) (taken : pwrRequest (looked s) req = u) (touched : Touches ps rs (looked s) u)
    (apart : R.pwrErr ∉ rs) :
    powerWrite s req = startWake (wr u R.pwrErr (rd s R.pwrErr)) 0 ∧ Touches ps rs s (wr u R.pwrErr (rd s R.pwrErr)) := by
  obtain ⟨d, row⟩ := cmd_row
  have command : commandReg (looked s) false R.pwrCmd (w32 (0x5A000000 + req)) = some u :=
    congrArg some ((writePwrCmd_request known).trans taken)
  obtain ⟨value, frame⟩ := row_done (e := R.pwrErr) rfl tap domain row (not_resetWrite known h) command touched apart
  refine ⟨?_, frame⟩
  rw [powerWrite, value, afterHost, if_neg (by decide), if_neg (fun k => absurd k.1 (by decide))]

theorem powerWrite_taken {ps : List Part} {rs : List Nat} (may : HostMayWrite s R.pwrCmd) (known : req < 5)
    (h : req ≠ 4 ∨ flag s R.pwrStat 3 = true) (taken : pwrRequest (looked s) req = u) (touched : Touches ps rs (looked s) u)
    (apart : R.pwrErr ∉ rs) (awake : asleep u = false) :
    powerWrite s req = wr u R.pwrErr (rd s R.pwrErr) ∧ Touches ps rs s (powerWrite s req) := by
  obtain ⟨value, frame⟩ := powerWrite_runs may.tap may.domain known h taken touched apart
  have stays : asleep (wr u R.pwrErr (rd s R.pwrErr)) = false := by rw [asleep_wr _ _ _ (by decide), awake]
  rw [startWake_awake _ _ stays] at value
  exact ⟨value, value ▸ frame⟩

theorem powerWrite_refused (may : HostMayWrite s R.pwrCmd) (known : req < 5) (h : req ≠ 4 ∨ flag s R.pwrStat 3 = true)
    (refused : pwrRequest (looked s) req = refuse (looked s) R.pwrCmd false) : Refused s (powerWrite s req) R.pwrCmd false := by
  obtain ⟨d, row⟩ := cmd_row
  exact row_refused (e := R.pwrErr) rfl may row (not_resetWrite known h) (congrArg some ((writePwrCmd_request known).trans refused))

/-- The state once a request waits: BUSY, and what it asks for. -/
def waiting (s : State) (p : PowerSt) : State := { setFlag s R.pwrStat 3 with power := p }

theorem touches_waiting {p : PowerSt} : Touches [.power] [R.pwrStat] s (waiting s p) :=
  touches_power (touches_setFlag touches_rfl _ List.mem_cons_self) _ (by decide)

theorem busy_waiting {p : PowerSt} : flag (waiting s p) R.pwrStat 3 = true := by
  rw [waiting, flag_lit, flag_setFlag _ _ _ (by decide)]

theorem asleep_waiting {p : PowerSt} : asleep (waiting s p) = asleep s := by
  rw [waiting, asleep_lit, asleep, setFlag_eq, fld_wrFld_apart (by decide) (by decide) (by decide) (by decide), asleep]

theorem pwrRequest_run (free : flag s R.pwrStat 3 = false) : pwrRequest s 0 =
    if devState s = 1 ∧ s.boot.complete then waiting s { s.power with want := 2 }
    else if asleep s ∧ flag s R.pwrWakeen 0 then latchWake s 1 else refuse s R.pwrCmd false := by
  unfold pwrRequest
  dsimp only
  rw [if_neg (by decide), free, if_neg Bool.false_ne_true]
  rfl

theorem pwrRequest_quiet (free : flag s R.pwrStat 3 = false) : pwrRequest s 1 =
    if devState s ≠ 0 ∨ ¬ s.boot.complete then refuse s R.pwrCmd false
    else if quietReady s then waiting s { s.power with want := 1 } else refuse (setFlag s R.pwrStat 8) R.pwrCmd false := by
  unfold pwrRequest
  dsimp only
  rw [if_neg (by decide), free, if_neg Bool.false_ne_true]
  rfl

theorem pwrRequest_entry (entry : r = 2 ∨ r = 3) (free : flag s R.pwrStat 3 = false) : pwrRequest s r =
    if devState s < 2 ∧ s.boot.complete then waiting s { s.power with entry := some r, offReq := s.power.offReq ||| 0x20 }
    else refuse s R.pwrCmd false := by
  have named : (r = 2 ∨ r = 3) ∧ devState s < 2 ∧ s.boot.complete = true ↔ devState s < 2 ∧ s.boot.complete = true := and_iff_right entry
  rcases entry with rfl | rfl <;>
  · unfold pwrRequest
    dsimp only
    rw [if_neg (by decide), free, if_neg Bool.false_ne_true]
    exact if_congr named rfl rfl

theorem free_looked (free : flag s R.pwrStat 3 = false) : flag (looked s) R.pwrStat 3 = false := by rw [flag_wr_ne (by decide), free]

/-- A request that waits for the next boundary, or for the outputs. -/
theorem powerWrite_waits {p : PowerSt} (may : HostMayWrite s R.pwrCmd) (known : req < 5) (low : req ≠ 4)
    (taken : pwrRequest (looked s) req = waiting (looked s) p) :
    flag (powerWrite s req) R.pwrStat 3 = true ∧ (powerWrite s req).power = p ∧ Touches [.power] [R.pwrStat] s (powerWrite s req) := by
  have awake : asleep (waiting (looked s) p) = false := by rw [asleep_waiting, asleep_wr _ _ _ (by decide), may.awake]
  obtain ⟨value, frame⟩ := powerWrite_taken may known (.inl low) taken touches_waiting (by decide) awake
  refine ⟨?_, ?_, frame⟩
  · rw [value, flag_wr_ne (by decide), busy_waiting]
  · rw [value, wr_power]
    rfl

theorem run_waits (may : HostMayWrite s R.pwrCmd) (free : flag s R.pwrStat 3 = false) (quiet : devState s = 1) (booted : s.boot.complete = true) :
    ∃ t, exec .run s = .next t ∧ flag t R.pwrStat 3 = true ∧ t.power = { s.power with want := 2 } ∧ Touches [.power] [R.pwrStat] s t := by
  have taken : pwrRequest (looked s) 0 = waiting (looked s) { s.power with want := 2 } := by
    rw [pwrRequest_run (free_looked free)]
    exact if_pos ⟨(devState_wr (by decide)).trans quiet, booted⟩
  exact ⟨_, rfl, powerWrite_waits may (by decide) (by decide) taken⟩

/-- The registers that show whether the outputs are quiet are none of the PWR page's ERR register. -/
theorem quietReady_looked : quietReady (looked s) = quietReady s := by
  have dacs : ∀ k, (dacState (looked s) k = 2 || dacState (looked s) k = 4) = (dacState s k = 2 || dacState s k = 4) := by
    intro k
    have apart : R.dacCh + 4 * k ≠ R.pwrErr := by
      unfold R.dacCh R.pwrErr
      omega
    have cause : muteCause (looked s) k = muteCause s k := by
      unfold muteCause
      rw [flag_wr_ne apart]
      rfl
    have same : dacState (looked s) k = dacState s k := by
      unfold dacState
      rw [cause]
      rfl
    rw [same]
  have cvs : ∀ k, decide (cvState (looked s) k = 2) = decide (cvState s k = 2) := by
    intro k
    have apart : R.cvoCh + 4 * k ≠ R.pwrErr := by
      unfold R.cvoCh R.pwrErr
      omega
    have rails : railOk (looked s) = railOk s := flag_wr_ne (by decide)
    have enabled : cvEnabled (looked s) k = cvEnabled s k := flag_wr_ne apart
    have released : pd5Released (looked s) = pd5Released s := by
      unfold pd5Released domainOn
      rw [flag_wr_ne (by decide), flag_wr_ne (by decide)]
    have cause : parkCause (looked s) k = parkCause s k := by
      unfold parkCause
      rw [enabled, released, rails, flag_wr_ne apart]
      rfl
    have top : rampTop (looked s) = rampTop s := by
      unfold rampTop
      rw [fld_wr_ne (by decide)]
    have same : cvState (looked s) k = cvState s k := by
      unfold cvState
      rw [enabled, rails, cause, top]
      rfl
    rw [same]
  unfold quietReady
  rw [List.all_congr rfl dacs, List.all_congr rfl cvs]

theorem quiet_waits (may : HostMayWrite s R.pwrCmd) (free : flag s R.pwrStat 3 = false) (running : devState s = 0) (booted : s.boot.complete = true)
    (ready : quietReady s = true) :
    ∃ t, exec .quiet s = .next t ∧ flag t R.pwrStat 3 = true ∧ t.power = { s.power with want := 1 } ∧ Touches [.power] [R.pwrStat] s t := by
  have taken : pwrRequest (looked s) 1 = waiting (looked s) { s.power with want := 1 } := by
    have here : devState (looked s) = 0 := (devState_wr (by decide)).trans running
    rw [pwrRequest_quiet (free_looked free), if_neg (by simp [here, booted]), quietReady_looked, ready]
    rfl
  exact ⟨_, rfl, powerWrite_waits may (by decide) (by decide) taken⟩

theorem quiet_notQuiet (may : HostMayWrite s R.pwrCmd) (free : flag s R.pwrStat 3 = false) (running : devState s = 0)
    (booted : s.boot.complete = true) (sounding : quietReady s = false) :
    ∃ t, exec .quiet s = .next t ∧ rd t R.pwrStat = setBits (rd s R.pwrStat) 8 8 1 ∧ rd t R.pwrErr = errAfter s R.pwrCmd false ∧
      Touches [.host] [R.pwrStat, R.pwrErr] s t := by
  obtain ⟨d, row⟩ := cmd_row
  have here : devState (looked s) = 0 := (devState_wr (by decide)).trans running
  have refuses : pwrRequest (looked s) 1 = refuse (setFlag (looked s) R.pwrStat 8) R.pwrCmd false := by
    rw [pwrRequest_quiet (free_looked free), if_neg (by simp [here, booted]), quietReady_looked, sounding]
    rfl
  have clear : rd (setFlag (looked s) R.pwrStat 8) R.pwrErr = 0 := by
    rw [setFlag_eq, wrFld, rd_wr_ne _ _ _ _ (by decide), rd_wr]
  have value : powerWrite s 1 = wr (refuse (setFlag (looked s) R.pwrStat 8) R.pwrCmd false) R.pwrErr (errAfter s R.pwrCmd false) :=
    regWrite_refuses (e := R.pwrErr) rfl may row (not_resetWrite (by decide) (.inl (by decide)))
      (congrArg some ((writePwrCmd_request (by decide)).trans refuses)) clear
  refine ⟨_, rfl, ?_, ?_, ?_⟩ <;> rw [value]
  · rw [rd_wr_ne _ _ _ _ (by decide), rd_refuse_ne _ _ _ _ (by decide), setFlag_eq, wrFld, rd_wr, rd_wr_ne _ _ _ _ (by decide)]
  · rw [rd_wr]
  · exact touches_wr (touches_refuse (touches_setFlag (touches_wr touches_rfl _ (by simp)) _ (by simp)) _ (by decide) (by decide)) _ (by simp)

theorem entry_waits {c : Instr} (may : HostMayWrite s R.pwrCmd) (free : flag s R.pwrStat 3 = false) (booted : s.boot.complete = true)
    (h : (c = .sleep ∧ r = 2) ∨ (c = .off ∧ r = 3)) :
    ∃ t, exec c s = .next t ∧ flag t R.pwrStat 3 = true ∧
      t.power = { s.power with entry := some r, offReq := s.power.offReq ||| 0x20 } ∧ Touches [.power] [R.pwrStat] s t := by
  have low : devState (looked s) < 2 := by
    rw [devState_wr (by decide)]
    exact Nat.not_le.1 (of_decide_eq_false may.awake)
  have asks : ∀ r', r' = 2 ∨ r' = 3 → pwrRequest (looked s) r' =
      waiting (looked s) { s.power with entry := some r', offReq := s.power.offReq ||| 0x20 } := by
    intro r' known
    rw [pwrRequest_entry known (free_looked free)]
    exact if_pos ⟨low, booted⟩
  rcases h with ⟨rfl, rfl⟩ | ⟨rfl, rfl⟩
  · exact ⟨_, rfl, powerWrite_waits may (by decide) (by decide) (asks 2 (.inl rfl))⟩
  · exact ⟨_, rfl, powerWrite_waits may (by decide) (by decide) (asks 3 (.inr rfl))⟩

/-- A request that R446 refuses: BUSY, a state that is there already, or a boot that has not ended. -/
theorem pwrRequest_refuses (known : req < 5) (awake : asleep s = false)
    (h : flag s R.pwrStat 3 = true ∨ (req = 0 ∧ devState s ≠ 1) ∨ (req = 1 ∧ devState s ≠ 0) ∨ (req ≠ 4 ∧ s.boot.complete = false)) :
    pwrRequest s req = refuse s R.pwrCmd false := by
  cases busy : flag s R.pwrStat 3 with
  | true =>
    unfold pwrRequest
    dsimp only
    rw [if_neg (by omega), busy, if_pos rfl]
  | false =>
    rw [busy] at h
    rcases h with h | ⟨rfl, other⟩ | ⟨rfl, other⟩ | ⟨low, booting⟩
    · exact absurd h Bool.false_ne_true
    · rw [pwrRequest_run busy, if_neg (fun k => other k.1), if_neg (by simp [awake])]
    · rw [pwrRequest_quiet busy, if_pos (.inl other)]
    · have four : req = 0 ∨ req = 1 ∨ req = 2 ∨ req = 3 := by omega
      rcases four with rfl | rfl | entry
      · rw [pwrRequest_run busy, if_neg (by simp [booting]), if_neg (by simp [awake])]
      · rw [pwrRequest_quiet busy, if_pos (.inr (by simp [booting]))]
      · rw [pwrRequest_entry entry busy, if_neg (by simp [booting])]

/-- The request of a command. -/
def requestOf : Instr → Option Nat
  | .run => some 0
  | .quiet => some 1
  | .sleep => some 2
  | .off => some 3
  | .softwareReset => some 4
  | _ => none

theorem exec_request {c : Instr} (h : requestOf c = some req) : exec c s = .next (powerWrite s req) ∧ req < 5 := by
  unfold requestOf at h
  split at h
  case h_6 => cases h
  all_goals
    cases h
    exact ⟨rfl, by decide⟩

theorem request_refused {c : Instr} (may : HostMayWrite s R.pwrCmd)
    (h : (c = .run ∧ devState s = 0) ∨ (c = .quiet ∧ devState s = 1) ∨
      (s.boot.complete = false ∧ (c = .run ∨ c = .quiet ∨ c = .sleep ∨ c = .off)) ∨
      (flag s R.pwrStat 3 = true ∧ (c = .run ∨ c = .quiet ∨ c = .sleep ∨ c = .off ∨ c = .softwareReset))) :
    ∃ t, exec c s = .next t ∧ Refused s t R.pwrCmd false := by
  have named : ∃ req, requestOf c = some req ∧ (flag s R.pwrStat 3 = true ∨ (req = 0 ∧ devState s ≠ 1) ∨ (req = 1 ∧ devState s ≠ 0) ∨
      (req ≠ 4 ∧ s.boot.complete = false)) := by
    rcases h with ⟨rfl, state⟩ | ⟨rfl, state⟩ | ⟨booting, h⟩ | ⟨busy, h⟩
    · exact ⟨0, rfl, .inr (.inl ⟨rfl, by omega⟩)⟩
    · exact ⟨1, rfl, .inr (.inr (.inl ⟨rfl, by omega⟩))⟩
    · rcases h with rfl | rfl | rfl | rfl <;> exact ⟨_, rfl, .inr (.inr (.inr ⟨by decide, booting⟩))⟩
    · rcases h with rfl | rfl | rfl | rfl | rfl <;> exact ⟨_, rfl, .inl busy⟩
  obtain ⟨req, asks, why⟩ := named
  obtain ⟨value, known⟩ := exec_request (s := s) asks
  have four : req ≠ 4 ∨ flag s R.pwrStat 3 = true := by
    rcases why with busy | ⟨rfl, -⟩ | ⟨rfl, -⟩ | ⟨low, -⟩
    · exact .inr busy
    · exact .inl (by decide)
    · exact .inl (by decide)
    · exact .inl low
  have state : devState (looked s) = devState s := devState_wr (by decide)
  have busy : flag (looked s) R.pwrStat 3 = flag s R.pwrStat 3 := flag_wr_ne (by decide)
  refine ⟨_, value, powerWrite_refused may known four (pwrRequest_refuses known (by rw [asleep_wr _ _ _ (by decide), may.awake]) ?_)⟩
  rw [state, busy]
  exact why

end Commands

/-! ### Wake events (R453) -/

section Events
variable {s : State} {sources : BitVec 24} {fails : BitVec 16}

theorem latchWake_eq : latchWake s sources = { s with power := latched s sources } := by
  unfold latchWake latched
  by_cases none : sources = 0
  · rw [if_pos none, if_neg (fun k => k.1 none), if_neg (fun k => k.1 none)]
  · by_cases empty : s.power.wakeLatch = 0
    · rw [if_neg none, if_pos empty, if_pos ⟨none, empty⟩]
    · simp only [none, empty, ne_eq, not_false_eq_true, and_false, true_and, if_false]
      split <;> rfl

theorem latched_waking : (latched s sources).waking = s.power.waking := by
  unfold latched
  split
  · rfl
  · split <;> rfl

/-- The ball as an edge leaves it. -/
def balled (s : State) (sources : BitVec 24) : State := { s with pins := { s.pins with wake := s.pins.wake ^^ sources.getLsbD 1 } }

/-- The edge, and the sources that WAKEEN leaves of those of the cycle. -/
theorem wakeEdge_eq : (wakeEdge s sources).1 = balled s sources ∧
    enabledSources (wakeEdge s sources).1 (wakeEdge s sources).2 = wokenBy s sources := by
  unfold wakeEdge wokenBy balled
  cases edge : sources.getLsbD 1 with
  | false => exact ⟨by simp, rfl⟩
  | true =>
    refine ⟨by simp, ?_⟩
    simp only [Bool.not_true, Bool.false_eq_true, if_false, Bool.true_and, decide_eq_true_eq]
    rfl

theorem exec_wakeEvent : exec (.wakeEvent sources fails) s =
    (if asleep s ∨ s.power.entry.isSome then .next (startWake { balled s sources with power := latched s (wokenBy s sources) } fails.toNat)
    else .next (balled s sources)) := by
  obtain ⟨ball, enabled⟩ := wakeEdge_eq (s := s) (sources := sources)
  have latches : latchWake (balled s sources) (wokenBy s sources) = { balled s sources with power := latched s (wokenBy s sources) } := latchWake_eq
  show execWakeEvent sources fails s = _
  unfold execWakeEvent
  generalize wakeEdge s sources = edge at ball enabled ⊢
  obtain ⟨t, rest⟩ := edge
  dsimp only at ball enabled ⊢
  rw [enabled, ball, latches]
  rfl

theorem wakeEvent_awake (awake : asleep s = false) (staying : s.power.entry = none) :
    exec (.wakeEvent sources fails) s = .next { s with pins := { s.pins with wake := s.pins.wake ^^ sources.getLsbD 1 } } := by
  rw [exec_wakeEvent, if_neg (by simp [awake, staying])]
  rfl

theorem wakeEvent_latches (h : (asleep s = false ∧ s.power.entry.isSome = true) ∨
      (asleep s = true ∧ flag s R.pwrStat 5 = true ∧ s.power.waking = false)) :
    exec (.wakeEvent sources fails) s = .next { s with
      pins := { s.pins with wake := s.pins.wake ^^ sources.getLsbD 1 }, power := latched s (wokenBy s sources) } := by
  have due : wakeDue { balled s sources with power := latched s (wokenBy s sources) } = false := by
    rcases h with ⟨awake, -⟩ | ⟨-, warned, still⟩
    · rw [wakeDue, show asleep { balled s sources with power := latched s (wokenBy s sources) } = false from awake]
      rfl
    · rw [wakeDue, show flag { balled s sources with power := latched s (wokenBy s sources) } R.pwrStat 5 = true from warned,
        show ({ balled s sources with power := latched s (wokenBy s sources) } : State).power.waking = false from latched_waking.trans still]
      simp
  rw [exec_wakeEvent, if_pos (h.imp (fun k => k.2) fun k => k.1).symm, startWake_idle due]
  rfl

/-- No wake begins while WARN is 1, but one that is under way. -/
theorem wakeDue_warned (warned : flag s R.pwrStat 5 = true) (waking : s.power.waking = false) : wakeDue s = false := by
  rw [wakeDue, warned, waking]
  simp

/-- A host's wake while WARN is 1 is latched. -/
theorem run_latches (tap : tapHolds s = false) (domain : domainOn s (pageDomain R.pwrCmd) = true) (free : flag s R.pwrStat 3 = false)
    (slept : asleep s = true) (enabled : flag s R.pwrWakeen 0 = true) (warned : flag s R.pwrStat 5 = true) (waking : s.power.waking = false) :
    ∃ t, exec .run s = .next t ∧ t.power = latched s 1 ∧ Touches [.power] [] s t := by
  have slept' : asleep (looked s) = true := by rw [asleep_wr _ _ _ (by decide), slept]
  have low : devState (looked s) ≠ 1 := by
    have two : 2 ≤ devState (looked s) := of_decide_eq_true slept'
    omega
  obtain ⟨u, hu⟩ : ∃ u, u = { looked s with power := latched s 1 } := ⟨_, rfl⟩
  have taken : pwrRequest (looked s) 0 = u := by
    rw [pwrRequest_run (free_looked free), if_neg (fun k => low k.1), if_pos ⟨slept', (flag_wr_ne (by decide)).trans enabled⟩, latchWake_eq, hu]
    rfl
  have touched : Touches [.power] [] (looked s) u := hu ▸ touches_power touches_rfl _ (by decide)
  obtain ⟨value, frame⟩ := powerWrite_runs tap domain (by decide) (.inl (by decide)) taken touched (by decide)
  have power : (wr u R.pwrErr (rd s R.pwrErr)).power = latched s 1 := by rw [wr_power, hu]
  have still : (latched s 1).waking = s.power.waking := latched_waking
  have idle : wakeDue (wr u R.pwrErr (rd s R.pwrErr)) = false :=
    wakeDue_warned ((flag_congr (frame.regs _ List.not_mem_nil)).trans warned) (by rw [power, still, waking])
  refine ⟨wr u R.pwrErr (rd s R.pwrErr), ?_, power, frame⟩
  show Host.Outcome.next (powerWrite s 0) = _
  rw [value, startWake_idle idle]

end Events

/-! ### A boot tried again (R455) -/

section Retry
variable {s t : State} {d want : Nat} {sources : BitVec 24} {fails : BitVec 16}

theorem touches_domainUp {ps : List Part} {rs : List Nat} (h : Touches ps rs s t) (mem : Part.mem ∈ Part.regs :: ps) (ecc : Part.ecc ∈ Part.regs :: ps)
    (domstat : R.pwrDomstat ∈ rs) : Touches ps rs s (domainUp t d) := by
  unfold domainUp
  split
  · exact h
  · dsimp only
    split
    · exact touches_clearRange (touches_setFlag h _ domstat) _ _ mem ecc
    · exact touches_setFlag h _ domstat

theorem touches_domainsOn {ps : List Part} {rs : List Nat} (h : Touches ps rs s t) (mem : Part.mem ∈ Part.regs :: ps)
    (ecc : Part.ecc ∈ Part.regs :: ps) (domstat : R.pwrDomstat ∈ rs) : Touches ps rs s (domainsOn t want) := by
  unfold domainsOn
  refine touches_foldl h fun u d _ hu => ?_
  split
  · exact touches_domainUp hu mem ecc domstat
  · exact hu

theorem touches_wakeTaken : Touches [.power] [R.pwrWakesrc] s (wakeTaken s) :=
  touches_wr (touches_power touches_rfl _ (by decide)) _ List.mem_cons_self

theorem power_wakeTaken : (wakeTaken s).power = { s.power with wakeLatch := 0, waking := false, retries := (0, 0, 0) } := wr_power ..

theorem wakesrc_wakeTaken : rd (wakeTaken s) R.pwrWakesrc = w32 s.power.wakeLatch.toNat := rd_wr ..

theorem wakesrc_unrecorded : ∀ a ∈ recorderInputs, a ∉ [R.pwrWakesrc] := by decide

/-- The first cycle of sources is latched whole. -/
theorem latched_first (quiet : NoWake s) (some' : sources ≠ 0) :
    latched s sources = { s.power with wakeLatch := sources, wakeAt := s.time.aoTime } := if_pos ⟨some', quiet.1⟩

theorem wakeEvent_retries (slept : asleep s = true) (tap : tapHolds s = false) (good : flag s R.pwrStat 5 = false)
    (failed : s.boot.supplyFailed = true) (quiet : NoWake s) (woken : wokenBy s sources &&& 3 ≠ 0) :
    ∃ t, exec (.wakeEvent sources fails) s = .next t ∧ t.boot.ready = false ∧ t.boot.supplyFailed = false ∧ devState t = 0 ∧ NoWake t ∧
      rd t R.pwrWakesrc = w32 (wokenBy s sources).toNat := by
  have some' : wokenBy s sources ≠ 0 := fun none => woken (by rw [none]; decide)
  obtain ⟨e, he⟩ : ∃ e, e = { balled s sources with power := latched s (wokenBy s sources) } := ⟨_, rfl⟩
  have latch : e.power.wakeLatch = wokenBy s sources := by rw [he, latched_first quiet some']
  have failed' : e.boot.supplyFailed = true := he ▸ failed
  have due : wakeDue e = true := by
    have slept' : asleep e = true := he ▸ slept
    have tap' : tapHolds e = false := he ▸ tap
    have good' : flag e R.pwrStat 5 = false := he ▸ good
    rw [wakeDue, slept', tap', good', failed', if_pos rfl, latch, decide_eq_true woken]
    simp
  obtain ⟨v, hv⟩ : ∃ v, v = domainsOn (wakeTaken e) 0xFE := ⟨_, rfl⟩
  have up : Touches [.mem, .ecc] [R.pwrDomstat] (wakeTaken e) v := hv ▸ touches_domainsOn touches_rfl (by decide) (by decide) List.mem_cons_self
  have power : v.power = { e.power with wakeLatch := 0, waking := false, retries := (0, 0, 0) } :=
    (up.parts.power (by decide)).trans power_wakeTaken
  have source : rd v R.pwrWakesrc = w32 (wokenBy s sources).toNat := by rw [up.regs _ (by decide), wakesrc_wakeTaken, latch]
  have value : exec (.wakeEvent sources fails) s =
      .next (wrFld { v with boot := { v.boot with ready := false, supplyFailed := false } } R.pwrStat 2 0 0) := by
    rw [exec_wakeEvent, if_pos (.inl slept), ← he, startWake, due, failed', retryBoot, ← hv]
    rfl
  refine ⟨_, value, by rw [wrFld_boot], by rw [wrFld_boot], ?_, ?_, ?_⟩
  · exact fld_wrFld_fits (by decide) (by decide) (by decide)
  · rw [NoWake, wrFld_power, power]
    exact ⟨rfl, rfl⟩
  · rw [wrFld, rd_wr_ne _ _ _ _ (by decide)]
    exact source

theorem wakeEvent_wakes (slept : asleep s = true) (tap : tapHolds s = false) (good : flag s R.pwrStat 5 = false)
    (booted : s.boot.supplyFailed = false) (quiet : NoWake s) (woken : wokenBy s sources ≠ 0) :
    ∃ t, exec (.wakeEvent sources fails) s = .next t ∧ BootOutcome t := by
  obtain ⟨e, he⟩ : ∃ e, e = { balled s sources with power := latched s (wokenBy s sources) } := ⟨_, rfl⟩
  have latch : e.power.wakeLatch = wokenBy s sources := by rw [he, latched_first quiet woken]
  have booted' : e.boot.supplyFailed = false := he ▸ booted
  have due : wakeDue e = true := by
    have slept' : asleep e = true := he ▸ slept
    have tap' : tapHolds e = false := he ▸ tap
    have good' : flag e R.pwrStat 5 = false := he ▸ good
    rw [wakeDue, slept', tap', good', booted', if_neg (by decide), latch, decide_eq_true woken]
    simp
  have value : exec (.wakeEvent sources fails) s = .next (wake e true fails.toNat) := by
    rw [exec_wakeEvent, if_pos (.inl slept), ← he, startWake, due, booted']
    rfl
  exact ⟨_, value, wake_outcome true _⟩

end Retry

/-! ### Time-outs of a wake's steps (R454, R455) -/

section Timeouts
variable {s : State} {step : WakeStep} {n : Nat}

/-- The time-outs of a wake that may go on. -/
structure Waking (s : State) : Prop where
  slept : asleep s = true
  tap : tapHolds s = false
  powered : s.boot.supplyFailed = false
  way : flag s R.pwrStat 5 = false ∨ s.power.waking = true

theorem Waking.goes (h : Waking s) : ¬ (!asleep s ∨ tapHolds s ∨ s.boot.supplyFailed ∨ (flag s R.pwrStat 5 ∧ ¬ s.power.waking)) := by
  rw [h.slept, h.tap, h.powered]
  rintro (k | k | k | ⟨warned, still⟩)
  · exact Bool.false_ne_true k
  · exact Bool.false_ne_true k
  · exact Bool.false_ne_true k
  · exact h.way.elim (fun good => Bool.false_ne_true (good.symm.trans warned)) still

theorem timeout_bucks (h : Waking s) : exec (.wakeStepTimeout .bucks) s = .next (wakeRetry s
    (s.power.retries.1 + 1, s.power.retries.2.1, s.power.retries.2.2) (s.power.retries.1 + 1) fun t => wakeFailure t 2) := by
  show execWakeStepTimeout .bucks s = _
  unfold execWakeStepTimeout
  rw [if_neg h.goes]

theorem timeout_crystal (h : Waking s) (asked : flag s R.clkCtrl 4 = true) : exec (.wakeStepTimeout .crystal) s = .next (wakeRetry s
    (s.power.retries.1, s.power.retries.2.1 + 1, s.power.retries.2.2) (s.power.retries.2.1 + 1) fun t => wake t false 0) := by
  show execWakeStepTimeout .crystal s = _
  unfold execWakeStepTimeout
  rw [if_neg h.goes]
  exact if_neg (by simp [asked])

theorem timeout_pll (h : Waking s) : exec (.wakeStepTimeout .pll) s = .next (wakeRetry s
    (s.power.retries.1, s.power.retries.2.1, s.power.retries.2.2 + 1) (s.power.retries.2.2 + 1) fun t => wakeFailure t 4) := by
  show execWakeStepTimeout .pll s = _
  unfold execWakeStepTimeout
  rw [if_neg h.goes]

/-- The wake goes on, with its retries. -/
def retrying (s : State) (r : Nat × Nat × Nat) : State := { s with power := { s.power with waking := true, retries := r } }

theorem wakeRetry_few {r : Nat × Nat × Nat} {f : State → State} (few : n < 4) : wakeRetry s r n f = retrying s r := by
  rw [wakeRetry]
  exact if_pos few

theorem wakeRetry_last {r : Nat × Nat × Nat} {f : State → State} (last : 4 ≤ n) : wakeRetry s r n f = f (retrying s r) := by
  rw [wakeRetry]
  exact if_neg (Nat.not_lt.2 last)

theorem wakeStepTimeout_retries {a b c : Nat} (h : Waking s)
    (way : (step = .bucks ∧ s.power.retries = (a - 1, b, c) ∧ 1 ≤ a ∧ a ≤ 3) ∨
      (step = .crystal ∧ flag s R.clkCtrl 4 = true ∧ s.power.retries = (a, b - 1, c) ∧ 1 ≤ b ∧ b ≤ 3) ∨
      (step = .pll ∧ s.power.retries = (a, b, c - 1) ∧ 1 ≤ c ∧ c ≤ 3)) :
    exec (.wakeStepTimeout step) s = .next { s with power := { s.power with waking := true, retries := (a, b, c) } } := by
  rcases way with ⟨rfl, before, least, most⟩ | ⟨rfl, asked, before, least, most⟩ | ⟨rfl, before, least, most⟩
  · rw [timeout_bucks h, before, wakeRetry_few (by dsimp only; omega), Nat.sub_add_cancel least]
    rfl
  · rw [timeout_crystal h asked, before, wakeRetry_few (by dsimp only; omega), Nat.sub_add_cancel least]
    rfl
  · rw [timeout_pll h, before, wakeRetry_few (by dsimp only; omega), Nat.sub_add_cancel least]
    rfl

/-- The record of a supply failure, before its code. -/
def failing (s : State) (n : Nat) : State :=
  raiseIrq (setFlag { wr s R.pwrFail (w32 (0x80000000 + n * 16 + 4)) with power := { s.power with failed := true } } R.pwrStat 7) 9

theorem supplyFailure_eq {m : Nat} : supplyFailure s n m = raiseGloss (failing s n) 0x0121 (w32 n) 4 (w32 m) := rfl

theorem touches_failing : Touches [.power] [R.pwrFail, R.pwrStat, R.sysIrqstat] s (failing s n) :=
  touches_raiseIrq (touches_setFlag (touches_power (touches_wr touches_rfl _ (by simp)) _ (by decide)) _ (by simp)) _ (by simp)

/-- What a supply failure leaves (R455). -/
structure SupplyFailed (s t : State) (n sources : Nat) : Prop where
  fail   : rd t R.pwrFail = w32 (0x80000000 + n * 16 + 4)
  wfail  : flag t R.pwrStat 7 = true
  irq    : flag t R.sysIrqstat 9 = true
  power  : t.power = { s.power with failed := true }
  logged : Logged 0x0121 (w32 n) 4 (w32 sources) s t
  frame  : Touches [.power, .gloss] (R.pwrFail :: R.pwrStat :: R.sysIrqstat :: glossRegs) s t

theorem supplyFailure_facts {m : Nat} : SupplyFailed s (supplyFailure s n m) n m := by
  have time := (touches_failing (s := s) (n := n)).parts.time (by decide)
  rw [supplyFailure_eq]
  refine ⟨?_, ?_, ?_, ?_, logged_raiseGloss (touches_failing.parts.gloss (by decide)) ⟨by rw [time], by rw [time], by rw [time], by rw [time]⟩,
    touches_raiseGloss (touches_mono touches_failing (by decide) (by simp)) _ _ _ _ (by decide) fun _ ha =>
      List.mem_cons_of_mem _ (List.mem_cons_of_mem _ (List.mem_cons_of_mem _ ha))⟩
  · rw [rd_raiseGloss _ _ _ _ _ _ (by decide), failing, raiseIrq_eq, wrFld, rd_wr_ne _ _ _ _ (by decide), setFlag_eq, wrFld,
      rd_wr_ne _ _ _ _ (by decide)]
    exact rd_wr ..
  · rw [flag_raiseGloss (by decide), failing, raiseIrq_eq, flag_wrFld_ne (by decide), flag_setFlag _ _ _ (by decide)]
  · rw [flag_raiseGloss (by decide), failing]
    exact flag_setFlag _ _ _ (by decide)
  · rw [raiseGloss_power, failing, raiseIrq_power, setFlag_power]

theorem wakeStepTimeout_fails (h : Waking s) (way : (step = .bucks ∧ n = 2 ∧ 3 ≤ s.power.retries.1) ∨ (step = .pll ∧ n = 4 ∧ 3 ≤ s.power.retries.2.2)) :
    ∃ t, exec (.wakeStepTimeout step) s = .next t ∧ rd t R.pwrFail = w32 (0x80000004 + 16 * n) ∧
      rd t R.pwrWakesrc = w32 s.power.wakeLatch.toNat ∧ flag t R.pwrStat 7 = true ∧ flag t R.sysIrqstat 9 = true ∧
      t.power = { s.power with wakeLatch := 0, failed := true, waking := false, retries := (0, 0, 0) } ∧
      Logged 0x0121 (w32 n) 4 (w32 s.power.wakeLatch.toNat) s t ∧
      Touches [.power, .gloss] (R.pwrFail :: R.pwrWakesrc :: R.pwrStat :: R.sysIrqstat :: glossRegs) s t := by
  have value : ∃ r, exec (.wakeStepTimeout step) s = .next (wakeFailure (retrying s r) n) := by
    rcases way with ⟨rfl, rfl, last⟩ | ⟨rfl, rfl, last⟩
    · exact ⟨_, (timeout_bucks h).trans (congrArg _ (wakeRetry_last (by omega)))⟩
    · exact ⟨_, (timeout_pll h).trans (congrArg _ (wakeRetry_last (by omega)))⟩
  obtain ⟨r, value⟩ := value
  obtain ⟨w, hw⟩ : ∃ w, w = wakeTaken (retrying s r) := ⟨_, rfl⟩
  have taken : Touches [.power] [R.pwrWakesrc] s w := hw ▸ touches_trans (touches_power touches_rfl _ (by decide)) touches_wakeTaken
  have power : w.power = { s.power with wakeLatch := 0, waking := false, retries := (0, 0, 0) } := hw ▸ power_wakeTaken
  have fails : wakeFailure (retrying s r) n = supplyFailure w n s.power.wakeLatch.toNat := by rw [wakeFailure, hw]; rfl
  have facts := supplyFailure_facts (s := w) (n := n) (m := s.power.wakeLatch.toNat)
  rw [fails] at value
  refine ⟨_, value, ?_, ?_, facts.wfail, facts.irq, by rw [facts.power, power], ?_, ?_⟩
  · rw [facts.fail, Nat.mul_comm n 16, Nat.add_right_comm]
  · rw [facts.frame.regs _ (by decide), hw, wakesrc_wakeTaken]
    rfl
  · exact logged_before facts.logged (fun a ha => taken.regs a (wakesrc_unrecorded a ha)) (taken.parts.time (by decide)) (taken.parts.gloss (by decide))
  · exact touches_trans (touches_mono taken (by decide) (by simp)) (touches_mono facts.frame (List.Subset.refl _)
      (List.cons_subset_cons _ (List.subset_cons_self _ _)))

theorem wakeStepTimeout_none (h : asleep s = false ∨ tapHolds s = true ∨ s.boot.supplyFailed = true ∨
      (flag s R.pwrStat 5 = true ∧ s.power.waking = false) ∨ (step = .crystal ∧ flag s R.clkCtrl 4 = false)) :
    exec (.wakeStepTimeout step) s = .next s := by
  show execWakeStepTimeout step s = _
  unfold execWakeStepTimeout
  by_cases stops : !asleep s ∨ tapHolds s ∨ s.boot.supplyFailed ∨ (flag s R.pwrStat 5 ∧ ¬ s.power.waking)
  · exact if_pos stops
  · have crystal : step = .crystal ∧ flag s R.clkCtrl 4 = false := by
      simp only [not_or] at stops
      rcases h with h | h | h | ⟨warned, still⟩ | h
      · exact absurd (by rw [h]; rfl) stops.1
      · exact absurd h stops.2.1
      · exact absurd h stops.2.2.1
      · exact absurd ⟨warned, by simp [still]⟩ stops.2.2.2
      · exact h
    obtain ⟨rfl, unasked⟩ := crystal
    rw [if_neg stops]
    exact if_pos (by simp [unasked])

end Timeouts

/-! ### SLEEP and OFF are reached (R448) -/

section Entry
variable {s : State} {target : Nat}

/-- Every domain but PD0 is off, and memory is kept where SLEEP keeps it. -/
def dark (s : State) (target : Nat) : State :=
  domainOff (domainOff (retain ([7, 6, 5, 2, 1].foldl domainOff (flushGloss 80 s)) target) 4) 3

/-- Time goes on, on the AO oscillator. -/
def onOscillator (s : State) : State := clrFlag (if s.time.onAo then s else switchClock s true 0) R.clkStat 6

/-- What the device forgets as it falls asleep. -/
def fallen (s : State) (target on : Nat) : State :=
  { s with power := { s.power with entry := none, offReq := 0, domains := BitVec.ofNat 8 on },
           boot := { s.boot with complete := false, interruptMode := false, deviceApplied := false, reloading := false },
           time := { s.time with epochSet := false, stampOld := false, synced := false },
           gloss := if decide (target = 2) && flag s R.pwrRet 7 then { s.gloss with reachable := false, staging := [] }
                    else { s.gloss with kcount := 0, rhead := 0, wrap := false, valid := false, reachable := false, staging := [] } }

/-- The charger stops. -/
def uncharged (s : State) : State :=
  { (drawFree (clrFlag s R.pwrHold 9)).1 with
    power := { (drawFree (clrFlag s R.pwrHold 9)).1.power with vhold := (drawFree (clrFlag s R.pwrHold 9)).2.toNat % 15301 } }

theorem entryComplete_eq (waits : s.power.entry = some target) (parked : allParked s = true) (stopped : s.time.rendering = false) :
    entryComplete s = reachState (uncharged (fallen (onOscillator (dark s target)) target (fld s R.pwrDomen 7 0))) target := by
  unfold entryComplete
  rw [waits]
  dsimp only
  rw [parked, stopped, if_neg (by decide)]
  rfl

theorem entryComplete_none (h : s.power.entry = none ∨ allParked s = false ∨ s.time.rendering = true) : entryComplete s = s := by
  unfold entryComplete
  cases waits : s.power.entry with
  | none => rfl
  | some target =>
    refine if_pos ?_
    rcases h with h | h | h
    · rw [waits] at h
      cases h
    · exact .inl (by rw [h]; rfl)
    · exact .inr h

/-- The shared banks that a register does not keep are cleared. -/
def sharedGone (s : State) (ret : Nat) : State :=
  ((List.range 8).filter fun b => ret / 2 ^ b % 2 = 0).foldl
    (fun t b => clearRange t (sharedBase + 0x40000 * b) (sharedBase + 0x40000 * (b + 1))) s

theorem touches_sharedGone (ret : Nat) : Touches [.mem, .ecc] [] s (sharedGone s ret) := by
  unfold sharedGone
  exact touches_foldl touches_rfl fun u b _ hu => touches_clearRange hu _ _ (by decide) (by decide)

theorem retain_eq : ∃ ret : Nat, retain s target = if ret / 256 % 2 = 1 then sharedGone s ret else clearRange (sharedGone s ret) 0 0x01000000 :=
  ⟨if target = 2 then (rd s R.pwrRet).toNat else 0, rfl⟩

theorem touches_retain : Touches [.mem, .ecc] [] s (retain s target) := by
  obtain ⟨ret, value⟩ := retain_eq (s := s) (target := target)
  rw [value]
  split
  · exact touches_sharedGone ret
  · exact touches_clearRange (touches_sharedGone ret) _ _ (by decide) (by decide)

/-- From s to t every domain but PD0 has turned off, and the rest that decides how the entry ends is the same. -/
structure Darkened (s t : State) : Prop where
  onAo    : t.time.onAo = s.time.onAo
  latch   : t.power.wakeLatch = s.power.wakeLatch
  waking  : t.power.waking = s.power.waking
  flash   : t.flash = s.flash
  fuse    : t.fuse = s.fuse
  domains : ∀ d, 1 ≤ d → d ≤ 7 → domainOn t d = false

theorem darkened_dark : Darkened s (dark s target) := by
  have flush : Touches [.gloss, .mem, .ecc] [R.sysIrqstat] s (flushGloss 80 s) := Resets.touches_flushGloss 80 touches_rfl
  obtain ⟨a, ha⟩ : ∃ a, a = flushGloss 80 s := ⟨_, rfl⟩
  obtain ⟨b, hb⟩ : ∃ b, b = [7, 6, 5, 2, 1].foldl domainOff a := ⟨_, rfl⟩
  obtain ⟨c, hc⟩ : ∃ c, c = retain b target := ⟨_, rfl⟩
  rw [← ha] at flush
  have first : Domains.Shed true [7, 6, 5, 2, 1] a b :=
    hb ▸ Domains.shed_all fun _ d hd => Domains.shed_domainOff (by revert hd; simp; omega) (.inl rfl)
  have kept : Touches [.mem, .ecc] [] b c := hc ▸ touches_retain
  have last : Domains.Shed true ([4] ++ [3]) c (domainOff (domainOff c 4) 3) :=
    (Domains.shed_domainOff (by decide) (.inl rfl)).trans (Domains.shed_domainOff (by decide) (.inl rfl))
  have value : dark s target = domainOff (domainOff c 4) 3 := by rw [hc, hb, ha, dark]
  rw [value]
  have power : (domainOff (domainOff c 4) 3).power = { s.power with pads := (domainOff (domainOff c 4) 3).power.pads } := by
    rw [last.power, kept.parts.power (by decide), first.power, flush.parts.power (by decide)]
  refine ⟨?_, by rw [power], by rw [power], ?_, ?_, fun d least most => ?_⟩
  · rw [last.time, kept.parts.time (by decide), first.time, flush.parts.time (by decide)]
  · rw [last.flash, kept.parts.flash (by decide), first.flash, flush.parts.flash (by decide)]
  · rw [last.fuse, kept.parts.fuse (by decide), first.fuse, flush.parts.fuse (by decide)]
  · have low : d < 8 := by omega
    have same : domainOn c d = domainOn b d := flag_congr (kept.regs _ List.not_mem_nil)
    rw [last.domain d low, same, first.domain d low]
    have named : d = 1 ∨ d = 2 ∨ d = 3 ∨ d = 4 ∨ d = 5 ∨ d = 6 ∨ d = 7 := by omega
    rcases named with rfl | rfl | rfl | rfl | rfl | rfl | rfl <;> simp

theorem touches_onOscillator : Touches [.time, .gloss] (R.clkStat :: R.tenseStat :: glossRegs) s (onOscillator s) := by
  refine touches_clrFlag ?_ _ List.mem_cons_self
  split
  · exact touches_rfl
  · exact touches_mono touches_switchClock (List.Subset.refl _) (List.subset_cons_self _ _)

theorem onAo_onOscillator : (onOscillator s).time.onAo = true := by
  rw [onOscillator, clrFlag_time]
  split
  · assumption
  · rw [time_switchClock]

theorem touches_uncharged : Touches [.free, .power] [R.pwrHold] s (uncharged s) :=
  touches_power (touches_free (touches_clrFlag touches_rfl _ List.mem_cons_self) _ (by decide)) _ (by decide)

theorem power_uncharged : (uncharged s).power = { s.power with vhold := (uncharged s).power.vhold } := by
  obtain ⟨u, hu⟩ : ∃ u, u = clrFlag s R.pwrHold 9 := ⟨_, rfl⟩
  have free : (drawFree u).1.power = u.power := rfl
  rw [uncharged, ← hu]
  dsimp only
  rw [free, hu, clrFlag_power]

theorem hold_uncharged : flag (uncharged s) R.pwrHold 9 = false := by
  have shown : flag (uncharged s) R.pwrHold 9 = flag (clrFlag s R.pwrHold 9) R.pwrHold 9 := rfl
  rw [shown, flag_clrFlag _ _ _ (by decide)]

theorem locked_onOscillator : flag (onOscillator s) R.clkStat 6 = false := by
  rw [onOscillator, flag_clrFlag _ _ _ (by decide)]

theorem touches_fallen {on : Nat} : Touches [.power, .boot, .time, .gloss] [] s (fallen s target on) := by
  have forgets : ∀ g : GlossSt, Touches [.power, .boot, .time, .gloss] [] s
      { s with power := { s.power with entry := none, offReq := 0, domains := BitVec.ofNat 8 on },
               boot := { s.boot with complete := false, interruptMode := false, deviceApplied := false, reloading := false },
               time := { s.time with epochSet := false, stampOld := false, synced := false }, gloss := g } := fun g =>
    touches_gloss (touches_time (touches_boot (touches_power touches_rfl _ (by decide)) _ (by decide)) _ (by decide)) g (by decide)
  exact forgets _

theorem entryComplete_reaches (waits : s.power.entry = some target) (known : target = 2 ∨ target = 3) (parked : allParked s = true)
    (stopped : s.time.rendering = false) (quiet : NoWake s) :
    ∃ t, exec .entryComplete s = .next t ∧ devState t = target ∧ flag t R.pwrStat 3 = false ∧ flag t R.sysIrqstat 9 = true ∧
      (∀ d, 1 ≤ d → d ≤ 7 → domainOn t d = false) ∧
      t.power.entry = none ∧ t.power.offReq = 0 ∧ t.power.domains = BitVec.ofNat 8 (fld s R.pwrDomen 7 0) ∧ flag t R.pwrHold 9 = false ∧
      t.time.onAo = true ∧ flag t R.clkStat 6 = false ∧ t.time.epochSet = false ∧ t.boot.complete = false ∧ t.flash = s.flash ∧ t.fuse = s.fuse := by
  obtain ⟨e, he⟩ : ∃ e, e = onOscillator (dark s target) := ⟨_, rfl⟩
  obtain ⟨f, hf⟩ : ∃ f, f = fallen e target (fld s R.pwrDomen 7 0) := ⟨_, rfl⟩
  obtain ⟨t, ht⟩ : ∃ t, t = reachState (uncharged f) target := ⟨_, rfl⟩
  have dark' := darkened_dark (s := s) (target := target)
  have clock : Touches [.time, .gloss] (R.clkStat :: R.tenseStat :: glossRegs) (dark s target) e := he ▸ touches_onOscillator
  have stops : Touches [.free, .power] [R.pwrHold] f (uncharged f) := touches_uncharged
  have ends : Touches [] [R.pwrStat, R.sysIrqstat] (uncharged f) t := ht ▸ touches_reachState
  have onAo : f.time.onAo = true := by rw [hf, fallen, he, onAo_onOscillator]
  have power : t.power = { (dark s target).power with
      entry := none, offReq := 0, domains := BitVec.ofNat 8 (fld s R.pwrDomen 7 0), vhold := t.power.vhold } := by
    rw [ht, power_reachState, power_uncharged, hf, fallen, ← clock.parts.power (by decide)]
  have time : t.time = f.time := by rw [ends.parts.time (by decide), stops.parts.time (by decide)]
  have boot : t.boot = f.boot := by rw [ends.parts.boot (by decide), stops.parts.boot (by decide)]
  have flash : t.flash = s.flash := by
    rw [ends.parts.flash (by decide), stops.parts.flash (by decide), hf, fallen, clock.parts.flash (by decide), dark'.flash]
  have fuse : t.fuse = s.fuse := by
    rw [ends.parts.fuse (by decide), stops.parts.fuse (by decide), hf, fallen, clock.parts.fuse (by decide), dark'.fuse]
  have asleepStays : NoWake t := by rw [NoWake, power]; exact ⟨dark'.latch.trans quiet.1, dark'.waking.trans quiet.2⟩
  have value : entryComplete s = t := by rw [entryComplete_eq waits parked stopped, ht, hf, he]
  refine ⟨t, ?_, ?_, ?_, ?_, fun d least most => ?_, by rw [power], by rw [power], by rw [power], ?_, by rw [time, onAo], ?_,
    by rw [time, hf, fallen], by rw [boot, hf, fallen], flash, fuse⟩
  · exact congrArg Host.Outcome.next ((congrArg (startWake · 0) value).trans (startWake_idle (wakeDue_none asleepStays)))
  · rw [ht, state_reachState (by omega)]
  · rw [ht, busy_reachState]
  · rw [ht, irq_reachState]
  · rw [← dark'.domains d least most]
    exact flag_congr ((ends.regs _ (by decide)).trans ((stops.regs _ (by decide)).trans
      ((congrArg (fun u => rd u R.pwrDomstat) hf).trans (clock.regs _ (by decide)))))
  · rw [flag_congr (ends.regs _ (by decide)), hold_uncharged]
  · rw [flag_congr (ends.regs _ (by decide)), flag_congr (stops.regs _ (by decide)), hf]
    exact (congrArg (fun u => flag u R.clkStat 6) he).trans (locked_onOscillator)

theorem entryComplete_idle (h : s.power.entry = none ∨ allParked s = false ∨ s.time.rendering = true) (quiet : NoWake s) :
    exec .entryComplete s = .next s :=
  congrArg Host.Outcome.next ((congrArg (startWake · 0) (entryComplete_none h)).trans (startWake_idle (wakeDue_none quiet)))

end Entry

/-- Settles O49: a request is taken or refused at PWR.CMD, an entry that waits ends dark, and the wake, from the event to the boot's
outcome or the supply failure, goes by the sources latched and the retries counted. -/
theorem deviceStates : Obligations.DeviceStates := by
  unfold Obligations.DeviceStates
  exact ⟨@run_waits, @run_latches, @quiet_waits, @quiet_notQuiet, fun _ _ _ => entry_waits, fun _ _ => request_refused, @entryComplete_reaches,
    @entryComplete_idle, @wakeEvent_awake, @wakeEvent_latches, @wakeEvent_wakes, @wakeEvent_retries,
    fun _ _ _ _ _ slept tap booted goes => wakeStepTimeout_retries ⟨slept, tap, booted, goes⟩,
    fun _ _ _ slept tap booted goes => wakeStepTimeout_fails ⟨slept, tap, booted, goes⟩, @wakeStepTimeout_none⟩

end Sys2Proof.States

/-! PROOFS. What the end of rendering touches (R7, R249, R447): what is staged takes effect, the void frames are recorded, the transport stops. -/

namespace Sys2Proof.Stopping
open Sys2Proof.Machine Sys2Proof.Laws Sys2Proof.Architecture Sys2Proof.Answers

/-- The parts that a stop of rendering touches. -/
def stopParts : List Part :=
  [.evt, .gloss, .time, .links, .dai, .analog, .tense, .phrases, .alloc, .verbs, .ended, .parser, .staged]

/-- The registers that a stop of rendering writes, but for those that have a staged value. -/
def stopRegs : List Nat :=
  [R.evtLate, R.evtBadmsg, R.clkStat, R.parserTrptr, R.evtXptr, R.tenseStat, R.tenseMskip, R.tenseMstat, R.parserVoid, R.parserVoidfrm,
    R.parserVoidcnt, R.sysIrqstat] ++ glossRegs

theorem glossRegs_stop : glossRegs ⊆ stopRegs := by decide

/-- From s to t no more differs than what a stop of rendering touches. -/
abbrev Stops (s t : State) : Prop := Touches stopParts stopRegs s t

/-! ### Events that a change of the fences frees -/

section Events
variable {s t : State}

theorem stops_evt (x : EvtSt) : Stops s { s with evt := x } := touches_evt touches_rfl x (by decide)

theorem stops_time (x : TimeSt) : Stops s { s with time := x } := touches_time touches_rfl x (by decide)

theorem stops_gloss (code : Nat) (a b c : Word) : Stops s (raiseGloss s code a b c) :=
  touches_raiseGloss touches_rfl _ _ _ _ (by decide) glossRegs_stop

theorem stops_sendDown (typ : Nat) (hd : LinkHeader) (payload : List Byte) : Stops s (sendDown s typ hd payload) :=
  touches_foldl touches_rfl fun _ _ _ h => Links.touches_linkQueue h (by decide)

theorem stops_restampLate (q : QueuedEv) : Stops s (restampLate s q).1 := by
  unfold restampLate
  dsimp only
  split
  · exact touches_trans (touches_trans (touches_countUp touches_rfl (by decide)) (stops_gloss _ _ _ _)) (stops_time _)
  · exact touches_rfl

theorem stops_makeAvailable (q : QueuedEv) : Stops s (makeAvailable s q).1 :=
  touches_ite (touches_trans (stops_restampLate q) (stops_sendDown _ _ _)) (stops_restampLate q)

theorem stops_releaseHeld : Stops s (releaseHeld s) :=
  touches_foldl touches_rfl fun _ _ _ h => touches_trans (touches_trans h (stops_makeAvailable _)) (stops_evt _)

theorem stops_maskChanged (g old : Nat) : Stops s (maskChanged s g old) :=
  touches_ite (touches_trans (touches_trans (stops_evt _) (stops_evt _)) stops_releaseHeld) (touches_trans (stops_evt _) stops_releaseHeld)

theorem stops_masksChanged (old : List Nat) : Stops s (masksChanged s old) :=
  touches_foldl touches_rfl fun _ _ _ h => touches_ite h (touches_trans h (stops_maskChanged _ _))

end Events

/-! ### What a staged value does when it takes effect -/

section Acts
variable {s t : State}

theorem stops_clkSelect : Stops s (clkSelect s) := by
  have shown : ∀ x, Stops s (wrFld s R.clkStat 5 4 x) := fun x => touches_wrFld touches_rfl _ _ _ (by decide)
  unfold clkSelect
  split
  · exact touches_ite (touches_ite touches_rfl (shown _)) (touches_ite touches_rfl (touches_ite
      (touches_trans (touches_trans (shown _) (stops_time _)) (stops_gloss _ _ _ _)) (shown _)))
  · exact touches_wrFld (touches_clrFlag (stops_time _) _ (by decide)) _ _ _ (by decide)

theorem stops_applyParsed (src : Nat) (r : Parsed) : Stops s (applyParsed s src r) := by
  unfold applyParsed
  refine touches_foldl (touches_foldl (stops_evt _) fun _ _ _ h => ?_) fun _ _ _ h => touches_trans h (stops_evt _)
  exact touches_trans (touches_countUp h (by decide)) (stops_gloss _ _ _ _)

theorem stops_formatChanged (src : Nat) : Stops s (formatChanged s src) :=
  touches_trans (touches_ite (stops_evt _) touches_rfl) (stops_applyParsed _ _)

theorem stops_daiRestart (p : Nat) (old : Word) : Stops s (daiRestart s p old) := by
  have port : ∀ (u : State) (f : DaiSt → DaiSt), Stops u (onDai u p f) := fun u f => touches_dai touches_rfl _ (by decide)
  exact touches_ite (touches_trans (touches_ite (port _ _) touches_rfl) (port _ _)) (touches_ite (port _ _) touches_rfl)

theorem stops_stagedActs (a : Nat) (old : Word) : Stops s (stagedActs s a old) := by
  unfold stagedActs
  refine touches_ite stops_clkSelect (touches_ite (touches_ite (touches_wr touches_rfl _ (by decide)) touches_rfl)
    (touches_ite (touches_ite (touches_wr touches_rfl _ (by decide)) touches_rfl) ?_))
  split
  · exact touches_ite touches_rfl (stops_formatChanged _)
  · exact touches_analog touches_rfl _ (by decide)
  · exact touches_analog touches_rfl _ (by decide)
  · exact stops_daiRestart _ _
  · exact touches_rfl

end Acts

/-! ### Registers without staged bits -/

section Kept
variable {s : State} {b : Nat}

/-- A register without staged bits takes nothing of a staged value. -/
theorem unmasked (w v : Word) : (w &&& ~~~0) ||| (v &&& 0) = w := by
  have none : v &&& 0 = 0#32 := BitVec.and_zero
  rw [none, BitVec.or_zero]
  exact BitVec.and_allOnes

theorem rd_applyOne (fixed : rwsMask b = 0) (h : b ∉ stopRegs) (a : Nat) (v : Word) : rd (applyOne s a v) b = rd s b := by
  unfold applyOne
  dsimp only
  rw [(stops_stagedActs _ _).regs _ h]
  by_cases same : b = a
  · subst same
    rw [rd_wr, fixed, unmasked]
  · exact rd_wr_ne _ _ _ _ same

theorem rd_applyStaged (fixed : rwsMask b = 0) (h : b ∉ stopRegs) : rd (applyStaged s) b = rd s b := by
  unfold applyStaged
  dsimp only
  rw [(stops_masksChanged _).regs _ h]
  exact List.foldlRecOn (motive := fun t => rd t b = rd s b) _ _ rfl fun t ht v _ => (rd_applyOne fixed h v.1 v.2).trans ht

theorem stops_reportVoids (m : Nat) : Stops s (reportVoids s m) := by
  unfold reportVoids
  refine touches_foldl (stops_time _) fun t v _ h => touches_trans h (touches_ite ?_ ?_)
  · unfold amendVoid
    have amended : Stops t (wrFld t R.parserVoid 25 16 (fld t R.parserVoid 25 16 ||| v.2.toNat)) := touches_wrFld touches_rfl _ _ _ (by decide)
    exact touches_ite (touches_wrFld amended _ _ _ (by decide)) amended
  · unfold reportVoid
    exact touches_trans (touches_raiseIrq (touches_countUp (touches_wr (touches_wrFld (touches_wrFld (stops_time _) _ _ _ (by decide)) _ _ _
      (by decide)) _ (by decide)) (by decide)) _ (by decide)) (stops_gloss _ _ _ _)

theorem stops_tense (x : TenseSt) : Stops s { s with tense := x } := touches_tense touches_rfl x (by decide)

theorem stops_tenseStop : Stops s (tenseStop s) := by
  unfold tenseStop
  refine touches_wr (touches_trans (touches_countUpBy ?_ _ (by decide)) (stops_tense _)) _ (by decide)
  exact touches_ite touches_rfl (touches_trans (touches_wrFld touches_rfl _ _ _ (by decide)) (stops_tense _))

/-- What was left of a stopped rendering is gone. -/
def cleared (s : State) : State :=
  let t := emptyBanks { s with phrases := [], time := { s.time with rendering := false } }
  { t with alloc := { t.alloc with recs := [], ops := [], noteStacks := List.replicate 16 [] }, parser := {} }

theorem stopRendering_eq (on : s.time.rendering = true) :
    stopRendering s = cleared (tenseStop (reportVoids (applyStaged s) s.time.frame)) := by
  have value : stopRendering s = if !s.time.rendering then s else cleared (tenseStop (reportVoids (applyStaged s) s.time.frame)) := rfl
  rw [value, if_neg (by rw [on]; decide)]

theorem rd_cleared : rd (cleared s) b = rd s b := rfl

/-- A register that has no staged bits, and that no stop writes, is the same when rendering has stopped. -/
theorem rd_stopRendering (fixed : rwsMask b = 0) (h : b ∉ stopRegs) : rd (stopRendering s) b = rd s b := by
  cases on : s.time.rendering with
  | false =>
    rw [stopRendering, if_pos (by rw [on]; rfl)]
  | true => rw [stopRendering_eq on, rd_cleared, stops_tenseStop.regs _ h, (stops_reportVoids _).regs _ h, rd_applyStaged fixed h]

end Kept

end Sys2Proof.Stopping

/-! PROOFS. Frames, blocks, joins and removals over links (R357 to R359, R363, R368, R374 to R376). -/

namespace Sys2Proof.Frames
open Sys2Proof.Machine Sys2Proof.Laws Sys2Proof.Architecture Sys2Proof.Answers Sys2Proof.Links
open Sys2Proof.SerialPorts (flag_congr fld_congr)
open Sys2Proof.EventFabric (rd_counted logged_counted touches_counted)

/-! ### SYNC_PACKET (R357) -/

section Sync
variable {s u : State} {i : Arrival} {l : Fin 4} {elapsed arrival instant d : DWord} {new : Bool}

/-- The manager's instant, from the cycles it has counted and the arrival of its packet. -/
def managerInstant (s : State) (l : Nat) (elapsed arrival : DWord) : DWord :=
  arrival - BitVec.ofInt 64 (rne (fld s (lstatReg l) 15 8) 16) - elapsed

theorem touches_sendDown {ps : List Part} {rs : List Nat} {t : State} {typ : Nat} {hd : LinkHeader} {payload : List Byte} (h : Touches ps rs s t)
    (links : Part.links ∈ Part.regs :: ps) : Touches ps rs s (sendDown t typ hd payload) :=
  touches_foldl h fun _ _ _ k => touches_linkQueue k links

/-- The device as it takes an epoch without rendering. -/
def epochJoined (s : State) (instant : DWord) : State :=
  { setEpoch (holdPosition (stopRendering s) instant) instant with
    time := { (setEpoch (holdPosition (stopRendering s) instant) instant).time with synced := true } }

theorem joinEpoch_eq : joinEpoch s instant =
    if s.time.rendering || (decide (devState s = 0) && s.boot.complete) then startRendering (epochJoined s instant) (windowNow (epochJoined s instant))
    else epochJoined s instant := rfl

theorem time_joinEpoch : (joinEpoch s instant).time.epochSet = true ∧ (joinEpoch s instant).time.epoch = instant := by
  have joined : (epochJoined s instant).time.epochSet = true ∧ (epochJoined s instant).time.epoch = instant := ⟨rfl, rfl⟩
  rw [joinEpoch_eq]
  generalize epochJoined s instant = v at joined
  split
  · rw [Rendering.touches_rendering.parts.time (by decide)]
    exact joined
  · exact joined

theorem lstat_unstaged (l : Fin 4) : rwsMask (lstatReg l) = 0 := by revert l; decide

theorem lstat_unstopped (l : Fin 4) : lstatReg l ∉ Stopping.stopRegs := by revert l; decide

theorem lstat_unrendered (l : Fin 4) : lstatReg l ∉ R.allocStat :: R.parserVstat :: memoryRegs := by revert l; decide

theorem lstat_joinEpoch : linkState (joinEpoch s instant) l = linkState s l := by
  have joined : rd (epochJoined s instant) (lstatReg l) = rd s (lstatReg l) :=
    Stopping.rd_stopRendering (lstat_unstaged l) (lstat_unstopped l)
  have same : rd (joinEpoch s instant) (lstatReg l) = rd s (lstatReg l) := by
    rw [joinEpoch_eq]
    generalize epochJoined s instant = v at joined
    split
    · rw [Rendering.touches_rendering.regs _ (lstat_unrendered l)]
      exact joined
    · exact joined
  exact fld_congr same

theorem cfg_unstepped (l : Fin 4) : R.linkCfg ∉ stepRegs l := by revert l; decide

theorem takeLinkSync_joins {l : Nat} (worker : manages s l = false) (fifth : linkState s l = 5) (linked : flag (setLinkState s l 6) R.linkCfg 3 = false) :
    takeLinkSync l elapsed new arrival s = sendSync (joinEpoch (setLinkState s l 6) (managerInstant s l elapsed arrival)) new := by
  unfold takeLinkSync
  rw [if_neg (by rw [worker, fifth]; decide), decide_eq_true fifth]
  dsimp only
  rw [if_pos rfl, linked, if_neg (by decide), if_pos rfl]
  rfl

theorem syncPacket_joins (here : i.link = l) (sound : Sound s i) (worker : manages s l = false) (fifth : linkState s l = 5)
    (linked : flag s R.linkCfg 3 = false) :
    ∃ t, exec (.syncPacket i elapsed new arrival) s = .next t ∧ linkState t l = 6 ∧ t.time.epochSet = true ∧
      t.time.epoch = managerInstant s l elapsed arrival := by
  have moves : linkState s l ≠ 6 := by rw [fifth]; decide
  have steps := setLinkState_active moves
  have linked' : flag (setLinkState s l 6) R.linkCfg 3 = false := by
    rw [steps, flag_raiseGloss (by decide), flag_congr (touches_stepped.regs _ (cfg_unstepped l)), linked]
  have state : linkState (setLinkState s l 6) l = 6 := by
    rw [steps]
    exact (fld_raiseGloss (lstat_uncounted l)).trans (state_stepped (by decide))
  obtain ⟨v, hv⟩ : ∃ v, v = joinEpoch (setLinkState s l 6) (managerInstant s l elapsed arrival) := ⟨_, rfl⟩
  have time : v.time.epochSet = true ∧ v.time.epoch = managerInstant s l elapsed arrival := hv ▸ time_joinEpoch
  have active : linkState v l = 6 := by rw [hv, lstat_joinEpoch, state]
  have sent : Touches [.links] [] v (sendSync v new) := touches_sendDown touches_rfl (by decide)
  refine ⟨sendSync v new, ?_, ?_, ?_, ?_⟩
  · show Host.Outcome.next (onArrival s i false (takeLinkSync i.link elapsed new arrival)) = _
    rw [onArrival_sound sound, here, takeLinkSync_joins worker fifth linked', hv]
  · exact (fld_congr (sent.regs _ List.not_mem_nil)).trans active
  · rw [sent.parts.time (by decide), time.1]
  · rw [sent.parts.time (by decide), time.2]

/-- The registers that tell which links are downstream, and ACTIVE. -/
def downRegs : List Nat := R.linkAddr :: (List.range 4).map (R.linkLcfg + 0x40 * ·) ++ (List.range 4).map lstatReg

theorem downLinks_congr (h : ∀ a ∈ downRegs, rd u a = rd s a) : downLinks u = downLinks s := by
  refine List.filter_congr fun m hm => ?_
  have inside : ∀ m : Fin 4, R.linkLcfg + 0x40 * m.val ∈ downRegs ∧ lstatReg m.val ∈ downRegs := by decide
  obtain ⟨lcfg, lstat⟩ := inside ⟨m, List.mem_range.1 hm⟩
  have dir : linkDir u m = linkDir s m := fld_congr (h _ lcfg)
  have state : linkState u m = linkState s m := fld_congr (h _ lstat)
  rw [isDown, dir, flag_congr (h R.linkAddr List.mem_cons_self), state, isDown]

theorem sendDown_none {typ : Nat} {hd : LinkHeader} {payload : List Byte} (none' : downLinks s = []) : sendDown s typ hd payload = s := by
  rw [sendDown, none']
  rfl

theorem takeLinkSync_compares {l : Nat} (worker : manages s l = false) (sixth : linkState s l = 6) (linked : flag s R.linkCfg 3 = false) :
    takeLinkSync l elapsed false arrival s = sendSync (compareSync s l (managerInstant s l elapsed arrival)) false := by
  unfold takeLinkSync
  rw [if_neg (by rw [worker, sixth]; decide), decide_eq_false (by rw [sixth]; decide)]
  dsimp only
  have stays : (if false = true then setLinkState s l 6 else s) = s := if_neg (by decide)
  rw [stays, linked, if_neg (by decide), if_neg (by decide), if_neg (by decide)]
  rfl

theorem exec_syncPacket_compares (here : i.link = l) (sound : Sound s i) (worker : manages s l = false) (sixth : linkState s l = 6)
    (linked : flag s R.linkCfg 3 = false) :
    exec (.syncPacket i elapsed false arrival) s = .next (sendSync (compareSync s l (managerInstant s l elapsed arrival)) false) := by
  show Host.Outcome.next (onArrival s i false (takeLinkSync i.link elapsed false arrival)) = _
  rw [onArrival_sound sound, here, takeLinkSync_compares worker sixth linked]

theorem syncPacket_aligned (here : i.link = l) (sound : Sound s i) (worker : manages s l = false) (sixth : linkState s l = 6)
    (linked : flag s R.linkCfg 3 = false) (none' : downLinks s = []) (apart : d = managerInstant s l elapsed arrival - s.time.epoch)
    (close : d.toInt.natAbs ≤ 1) : exec (.syncPacket i elapsed false arrival) s = .next s := by
  rw [exec_syncPacket_compares here sound worker sixth linked, compareSync, ← apart, if_pos close, sendSync, sendDown_none none']

theorem syncPacket_misaligned (here : i.link = l) (sound : Sound s i) (worker : manages s l = false) (sixth : linkState s l = 6)
    (linked : flag s R.linkCfg 3 = false) (none' : downLinks s = []) (apart : d = managerInstant s l elapsed arrival - s.time.epoch)
    (far : 1 < d.toInt.natAbs) :
    ∃ t, exec (.syncPacket i elapsed false arrival) s = .next t ∧ flag t R.linkStat 0 = true ∧
      Logged 0x6140 (BitVec.ofInt 32 d.toInt) (w32 l) 0 s t ∧ Touches [.gloss] (R.linkStat :: glossRegs) s t := by
  obtain ⟨v, hv⟩ : ∃ v, v = raiseGloss (setFlag s R.linkStat 0) 0x6140 (BitVec.ofInt 32 d.toInt) (w32 l) 0 := ⟨_, rfl⟩
  have shown : Touches [.gloss] (R.linkStat :: glossRegs) s (setFlag s R.linkStat 0) := touches_setFlag touches_rfl _ List.mem_cons_self
  have frame : Touches [.gloss] (R.linkStat :: glossRegs) s v :=
    hv ▸ touches_raiseGloss shown _ _ _ _ (by decide) (List.subset_cons_self _ _)
  have still : downLinks v = [] := (downLinks_congr fun a ha => frame.regs a (by revert a; decide)).trans none'
  refine ⟨v, ?_, ?_, ?_, frame⟩
  · rw [exec_syncPacket_compares here sound worker sixth linked, compareSync, ← apart, if_neg (by omega), ← hv, sendSync, sendDown_none still]
  · rw [hv, flag_raiseGloss (by decide), flag_setFlag _ _ _ (by decide)]
  · rw [hv]
    exact logged_raiseGloss rfl ⟨rfl, rfl, rfl, rfl⟩

/-- A packet joins the queue of each link of a list without doubles. -/
theorem linkOf_queued {typ : Nat} {hd : LinkHeader} {payload : List Byte} {ls : List Nat} (distinct : ls.Nodup) (four : s.links.length = 4)
    (known : ∀ l ∈ ls, l < 4) (m : Nat) :
    linkOf (ls.foldl (fun t l => linkQueue t l typ hd payload) s) m =
      if m ∈ ls then { linkOf s m with outq := (linkOf s m).outq ++ [⟨typ, hd, payload, 0, 0⟩] } else linkOf s m := by
  induction ls generalizing s with
  | nil => rfl
  | cons l ls ih =>
    obtain ⟨fresh, distinct⟩ := List.nodup_cons.1 distinct
    rw [List.foldl_cons, ih (s := linkQueue s l typ hd payload) distinct (length_onLink.trans four) fun x hx => known x (List.mem_cons_of_mem _ hx)]
    by_cases here : m = l
    · subst here
      have queued := linkOf_onLink (l := ⟨m, known m List.mem_cons_self⟩)
        (f := fun k => { k with outq := k.outq ++ [{ typ, hd, payload, seq := 0 }] }) four
      rw [if_neg fresh, if_pos List.mem_cons_self]
      exact queued
    · have other : linkOf (linkQueue s l typ hd payload) m = linkOf s m := linkOf_onLink_ne here
      simp only [other, List.mem_cons, here, false_or]

theorem downLinks_nodup : (downLinks s).Nodup := List.nodup_range.filter _

theorem downLinks_lt {m : Nat} (h : m ∈ downLinks s) : m < 4 := List.mem_range.1 (List.mem_of_mem_filter h)

theorem periodicSync_sends (four : s.links.length = 4) (root : isRoot s = true) (set' : s.time.epochSet = true) :
    ∃ t, exec .periodicSync s = .next t ∧
      (∀ l ∈ downLinks s, linkOf t l = { linkOf s l with
        outq := (linkOf s l).outq ++ [⟨0x08, castHd s, syncBytes s false, 0, 0⟩] }) ∧
      (∀ l, l ∉ downLinks s → linkOf t l = linkOf s l) ∧ Touches [.links] [] s t := by
  have queued := linkOf_queued (s := s) (typ := 0x08) (hd := castHd s) (payload := syncBytes s false) (ls := downLinks s) downLinks_nodup four fun _ => downLinks_lt
  exact ⟨sendSync s false, if_pos ⟨root, set'⟩, fun l hl => (queued l).trans (if_pos hl), fun l hl => (queued l).trans (if_neg hl),
    touches_sendDown touches_rfl (by decide)⟩

end Sync

/-! ### BOOT_PACKET (R358) -/

section Boot
variable {s t : State} {i : Relayed} {l : Fin 4} {offset : Word} {bytes : List Byte}

theorem imageComplete_congr (h : t.image.link = s.image.link) : imageComplete t = imageComplete s := by
  have same : ∀ a n, imageBytes t true a n = imageBytes s true a n := fun a n => by rw [imageBytes, imageBytes, if_pos rfl, if_pos rfl, h]
  unfold imageComplete
  rw [same, h]

/-- The bytes of the image that the link has carried, with those of the packet. -/
def carriedWith (link : List (Nat × Byte)) (offset : Word) (bytes : List Byte) : List (Nat × Byte) :=
  ((List.range bytes.length).zip bytes).foldl (fun m e => mapPut m (offset.toNat + e.1) e.2) link

/-- The packet's buffers have drained, and its bytes have joined the image. -/
def imageTaken (s : State) (l n : Nat) (link : List (Nat × Byte)) : State :=
  { bufferDrained s l 2 n with image := { (bufferDrained s l 2 n).image with link := link } }

/-- The part goes on down the links that a device beyond is being booted over. -/
def imagePassed (s : State) (hd : LinkHeader) (payload : List Byte) : State :=
  ((List.range 4).filter fun k => isDown s k && 5 ≤ linkState s k).foldl (fun t k => linkQueue t k 0x09 hd payload) s

/-- The state with a part of the image taken and passed on. -/
def partTaken (s : State) (i : Relayed) (offset : Word) (bytes : List Byte) : State :=
  imagePassed (imageTaken s i.link (4 + bytes.length) (carriedWith s.image.link offset bytes)) (passHd i true) (leBytes 4 offset.toNat ++ bytes)

theorem takeImagePart_eq (worker : manages s i.link = false) (fifth : linkState s i.link = 5) (boots : flag s R.linkCfg 2 = true) :
    takeImagePart i offset bytes s = if imageComplete (partTaken s i offset bytes) then bootOverLink (partTaken s i offset bytes)
      else partTaken s i offset bytes := by
  unfold takeImagePart
  dsimp only
  rw [if_neg (by rw [worker, fifth, boots]; decide)]
  rfl

theorem image_partTaken : (partTaken s i offset bytes).image = { s.image with link := carriedWith s.image.link offset bytes } := by
  have taken : (imageTaken s i.link (4 + bytes.length) (carriedWith s.image.link offset bytes)).image =
      { s.image with link := carriedWith s.image.link offset bytes } := rfl
  have passed : ∀ (u : State) (hd : LinkHeader) (payload : List Byte), Touches [.links] [] u (imagePassed u hd payload) := fun u hd payload =>
    touches_foldl touches_rfl fun _ _ _ h => touches_linkQueue h (by decide)
  rw [partTaken, (passed _ _ _).parts.image (by decide), taken]

theorem exec_bootPacket (here : i.link = l) (order : InOrder s i.toArrival) (worker : manages s l = false) (fifth : linkState s l = 5)
    (boots : flag s R.linkCfg 2 = true) :
    exec (.bootPacket i offset bytes) s = .next (if imageComplete (partTaken (tookPacket s l) i offset bytes)
      then bootOverLink (partTaken (tookPacket s l) i offset bytes) else partTaken (tookPacket s l) i offset bytes) := by
  subst here
  show Host.Outcome.next (onArrival s i.toArrival true (takeImagePart i offset bytes)) = _
  rw [onArrival_inOrder order, takeImagePart_eq (s := tookPacket s i.link) worker fifth boots]

theorem touches_sendUp {typ : Nat} {hd : LinkHeader} {payload : List Byte} : Touches [.links] [] s (sendUp s typ hd payload) := by
  unfold sendUp
  split
  · exact touches_linkQueue touches_rfl (by decide)
  · exact touches_rfl

/-- The image that the link has carried is gone, or kept for the devices beyond. -/
def imageDropped (s : State) : State :=
  { s with image := { s.image with link := [], carried := if s.boot.complete then s.image.link else [] } }

/-- A boot that has ended well asks to join. -/
def bootTold (s : State) : State := if s.boot.complete then sendStat s 2 (fld s R.linkAddr 13 0) else s

theorem bootOverLink_outcome : (bootOverLink s).image.link = [] ∧ BootOutcome (bootOverLink s) := by
  unfold bootOverLink
  dsimp only
  generalize boots : bootFromFour _ true 0 [] = b
  have booted : BootOutcome b := boots ▸ Booted.bootFromFour_outcome true 0 []
  have dropped : Touches [.image] [] b (imageDropped b) := touches_image touches_rfl _ (by decide)
  have outcome := Booted.outcome_touched booted dropped (by decide) (by decide) (by decide) (by decide)
  have told : Touches [.links] [] (imageDropped b) (bootTold (imageDropped b)) := touches_ite touches_sendUp touches_rfl
  exact ⟨congrArg ImageSt.link (told.parts.image (by decide)), Booted.outcome_touched outcome told (by decide) (by decide) (by decide) (by decide)⟩

theorem bootPacket_boots (here : i.link = l) (order : InOrder s i.toArrival) (worker : manages s l = false) (fifth : linkState s l = 5)
    (boots : flag s R.linkCfg 2 = true)
    (whole : imageComplete { s with image := { s.image with link := carriedWith s.image.link offset bytes } } = true) :
    ∃ t, exec (.bootPacket i offset bytes) s = .next t ∧ t.image.link = [] ∧ BootOutcome t := by
  have image : (tookPacket s l).image = s.image := touches_tookPacket.parts.image (by decide)
  have complete : imageComplete (partTaken (tookPacket s l) i offset bytes) = true := by
    rw [← whole]
    exact imageComplete_congr (by rw [image_partTaken, image])
  exact ⟨_, (exec_bootPacket here order worker fifth boots).trans (congrArg _ (if_pos complete)), bootOverLink_outcome⟩

theorem isDown_congr {ps : List Part} (h : Touches ps [] s t) (k : Nat) : isDown t k = isDown s k := by
  have dir : linkDir t k = linkDir s k := fld_congr (h.regs _ List.not_mem_nil)
  rw [isDown, dir, flag_congr (h.regs R.linkAddr List.not_mem_nil), isDown]

theorem imagePassed_none {hd : LinkHeader} {payload : List Byte} (last : ∀ k, k < 4 → isDown s k = false) : imagePassed s hd payload = s := by
  have none' : ((List.range 4).filter fun k => isDown s k && decide (5 ≤ linkState s k)) = [] :=
    List.filter_eq_nil_iff.2 fun k hk => by simp [last k (List.mem_range.1 hk)]
  rw [imagePassed, none']
  rfl

/-- One byte of the image is taken, and goes no further. -/
theorem bootPacket_goes_on {b : Byte} {img : List (Nat × Byte)} (four : s.links.length = 4) (here : i.link = l) (order : InOrder s i.toArrival)
    (worker : manages s l = false) (fifth : linkState s l = 5) (boots : flag s R.linkCfg 2 = true) (last : ∀ k, k < 4 → isDown s k = false)
    (joined : img = mapPut s.image.link offset.toNat b) (part : imageComplete { s with image := { s.image with link := img } } = false) :
    ∃ t, exec (.bootPacket i offset [b]) s = .next t ∧ t.image = { s.image with link := img } ∧
      linkOf t l = { acked (linkOf s l) with owed := (linkOf s l).owed.modify 2 (· + 1) } ∧ (∀ m, m ≠ l.val → linkOf t m = linkOf s m) ∧
      Touches [.image, .links] [] s t := by
  have image : (tookPacket s l).image = s.image := touches_tookPacket.parts.image (by decide)
  have carried : carriedWith s.image.link offset [b] = img := joined.symm
  obtain ⟨t, ht⟩ : ∃ t, t = partTaken (tookPacket s l) i offset [b] := ⟨_, rfl⟩
  have image' : t.image = { s.image with link := img } := by rw [ht, image_partTaken, image, carried]
  have incomplete : imageComplete t = false := by
    rw [← part]
    exact imageComplete_congr (by rw [image'])
  have taken : Touches [.image, .links] [] s (imageTaken (tookPacket s l) l (4 + [b].length) img) :=
    touches_image (touches_bufferDrained (touches_mono touches_tookPacket (by decide) (List.Subset.refl _)) (by decide)) _ (by decide)
  have stays : t = imageTaken (tookPacket s l) l (4 + [b].length) img := by
    rw [ht, partTaken, here, image, carried]
    exact imagePassed_none fun k hk => (isDown_congr taken k).trans (last k hk)
  have only : Only s t l { acked (linkOf s l) with owed := (linkOf s l).owed.modify 2 (· + 1) } := by
    have drained := (only_tookPacket (l := l) four).drained 2 (4 + [b].length)
    have links : (imageTaken (tookPacket s l) l (4 + [b].length) img).links = (bufferDrained (tookPacket s l) l 2 (4 + [b].length)).links := rfl
    have one : buffersFor (4 + [b].length) = 1 := by rw [List.length_singleton]; decide
    rw [one] at drained
    rw [stays]
    exact drained.congr links
  refine ⟨t, ?_, image', only.here, only.other, ?_⟩
  · rw [exec_bootPacket here order worker fifth boots, ← ht, incomplete]
    rfl
  · rw [stays]
    exact taken

end Boot

/-! ### FRM at a worker (R363) -/

section Frame
variable {s : State} {i : Relayed} {l : Fin 4} {f : FrmPayload}

theorem takeFrm_runs (worker : manages s i.link = false) (sixth : linkState s i.link = 6) (isWorker' : isWorker s = true)
    (rendering : s.time.rendering = true) (next : s.time.step2 < f.frame.toNat) (begun : f.frame.toNat ≤ s.time.frame) :
    takeFrm i f s = atFrame (sendDown s 0x06 (passHd i true) (frmBytes f)) f.frame.toNat fun v => workerFrame v f.frame.toNat f := by
  have time : (sendDown s 0x06 (passHd i true) (frmBytes f)).time = s.time :=
    (touches_sendDown (ps := [.links]) (rs := []) touches_rfl (by decide)).parts.time (by decide)
  unfold takeFrm
  dsimp only
  rw [if_neg (by rw [worker, sixth, isWorker']; decide), time, if_neg (by rw [rendering]; simp; omega)]

theorem frm_runs (here : i.link = l) (order : InOrder s i.toArrival) (worker : manages s l = false) (sixth : linkState s l = 6)
    (isWorker' : isWorker s = true) (rendering : s.time.rendering = true) (next : s.time.step2 < f.frame.toNat)
    (begun : f.frame.toNat ≤ s.time.frame) :
    ∃ t u, exec (.frm i f) s = .next t ∧ u = sendDown (tookPacket s l) 0x06 (passHd i true) (frmBytes f) ∧
      t = atFrame u f.frame.toNat (fun v => workerFrame v f.frame.toNat f) ∧ t.time.frame = s.time.frame := by
  subst here
  refine ⟨_, _, ?_, rfl, rfl, ?_⟩
  · show Host.Outcome.next (onArrival s i.toArrival true (takeFrm i f)) = _
    rw [onArrival_inOrder order, takeFrm_runs (s := tookPacket s i.link) worker sixth isWorker' rendering next begun]
  · have time : (sendDown (tookPacket s i.link) 0x06 (passHd i true) (frmBytes f)).time = s.time :=
      (touches_sendDown touches_tookPacket (by decide)).parts.time (by decide)
    rw [atFrame, time]

end Frame

/-! ### UPB (R368, R369) -/

section Block
variable {s : State} {l : Fin 4} {b : UpBlock} {ok : Bool}

theorem upb_discarded (four : s.links.length = 4) (managed : manages s l = true) (sixth : linkState s l = 6)
    (skips : (linkOf s l).skip = some b.frame.toNat) :
    ∃ t, exec (.upb l b ok) s = .next t ∧ linkOf t l = { linkOf s l with skip := none } ∧
      (∀ m, m ≠ l.val → linkOf t m = linkOf s m) ∧ Touches [.links] [] s t := by
  have only := (Only.refl (l := l) four).onLink fun k => { k with skip := none }
  refine ⟨_, ?_, only.here, only.other, touches_onLink touches_rfl (by decide)⟩
  show execUpb l b ok s = _
  rw [execUpb, if_neg (by rw [managed, sixth]; decide), if_pos skips]

/-- The block of a downstream link is kept, with whether its CRC holds and when it ended. -/
def blockKept (s : State) (l : Nat) (b : UpBlock) (ok : Bool) : State := onLink s l fun k => { k with block := some (b, ok, s.time.aoTime) }

theorem exec_upb_kept (managed : manages s l = true) (sixth : linkState s l = 6) (takes : (linkOf s l).skip ≠ some b.frame.toNat) :
    exec (.upb l b ok) s = .next (if ok then blockKept s l b ok else badPacket (blockKept s l b ok) l) := by
  show execUpb l b ok s = _
  rw [execUpb, if_neg (by rw [managed, sixth]; decide), if_neg takes]
  rfl

theorem upb_kept (four : s.links.length = 4) (managed : manages s l = true) (sixth : linkState s l = 6)
    (takes : (linkOf s l).skip ≠ some b.frame.toNat) :
    ∃ t, exec (.upb l b true) s = .next t ∧ linkOf t l = { linkOf s l with block := some (b, true, s.time.aoTime) } ∧
      (∀ m, m ≠ l.val → linkOf t m = linkOf s m) ∧ Touches [.links] [] s t := by
  have only := (Only.refl (l := l) four).onLink fun k => { k with block := some (b, true, s.time.aoTime) }
  exact ⟨_, exec_upb_kept managed sixth takes, only.here, only.other, touches_onLink touches_rfl (by decide)⟩

theorem upb_bad (four : s.links.length = 4) (managed : manages s l = true) (sixth : linkState s l = 6)
    (takes : (linkOf s l).skip ≠ some b.frame.toNat) :
    ∃ t, exec (.upb l b false) s = .next t ∧
      linkOf t l = { linkOf s l with
        block := some (b, false, s.time.aoTime), answer := some (true, ((linkOf s l).expect + 255) % 256) } ∧
      rd t (R.linkCrcerr + 0x40 * l) = rd (countUp s (R.linkCrcerr + 0x40 * l)) (R.linkCrcerr + 0x40 * l) ∧
      rd t R.linkBadpkt = rd (countUp s R.linkBadpkt) R.linkBadpkt ∧
      (∀ m, m ≠ l.val → linkOf t m = linkOf s m) ∧ Touches [.links] [R.linkCrcerr + 0x40 * l, R.linkBadpkt] s t := by
  obtain ⟨u, hu⟩ : ∃ u, u = blockKept s l b false := ⟨_, rfl⟩
  have kept : Touches [.links] [] s u := hu ▸ touches_onLink touches_rfl (by decide)
  have only : Only s u l { linkOf s l with block := some (b, false, s.time.aoTime) } :=
    hu ▸ (Only.refl (l := l) four).onLink fun k => { k with block := some (b, false, s.time.aoTime) }
  have bad := badPacket_facts only
  refine ⟨badPacket u l, ?_, bad.here, ?_, ?_, bad.other, ?_⟩
  · rw [exec_upb_kept managed sixth takes, ← hu]
    rfl
  · rw [crcerr_badPacket, Concord.rd_countUp, Concord.rd_countUp, kept.regs _ List.not_mem_nil]
  · rw [badpkt_badPacket, Concord.rd_countUp, Concord.rd_countUp, kept.regs _ List.not_mem_nil]
  · exact touches_trans (touches_mono kept (List.Subset.refl _) (List.nil_subset _)) touches_badPacket

end Block

/-! ### WORKER_JOIN and LATE_MARK_CLEAR (R374, R375) -/

section Join
variable {s : State} {a : BitVec 14} {d : DeviceSt}

theorem workerJoin_admits (root : isRoot s = true)
    (asks : (s.sys.devices.find? fun d => d.addr = a.toNat && d.joinReq && d.report && !d.present) = some d) :
    ∃ t, exec (.workerJoin a) s = .next t ∧
      t.sys = { s.sys with devices := s.sys.devices.map fun x => if x.addr = d.addr then { x with present := true } else x } ∧
      rd t R.linkJoin = rd (countUp s R.linkJoin) R.linkJoin ∧ Logged 0x6110 (w32 d.addr) (w32 d.link) (w32 s.time.frame) s t ∧
      Touches [.sys, .gloss] (R.linkJoin :: glossRegs) s t := by
  obtain ⟨u, hu⟩ : ∃ u : State, u = { s with
    sys := { s.sys with devices := s.sys.devices.map fun x => if x.addr = d.addr then { x with present := true } else x } } := ⟨_, rfl⟩
  have admitted : Touches [.sys] [] s u := hu ▸ touches_sys touches_rfl _ (by decide)
  have value : exec (.workerJoin a) s = .next (raiseGloss (countUp u R.linkJoin) 0x6110 (w32 d.addr) (w32 d.link) (w32 s.time.frame)) := by
    show execWorkerJoin a s = _
    unfold execWorkerJoin
    rw [asks]
    dsimp only
    rw [root, if_neg (by decide), hu]
  refine ⟨_, value, ?_, rd_counted admitted (by decide), logged_counted admitted (by decide) (by decide),
    touches_mono (touches_counted admitted) (by decide) (List.Subset.refl _)⟩
  rw [raiseGloss_sys, countUp_sys, hu]

theorem lateMarkClear_clears : exec (.lateMarkClear a) s = .next { s with
    sys := { s.sys with
      devices := s.sys.devices.map fun d => if d.addr = a.toNat ∧ d.late = 1 then { d with late := 0 } else d } } := rfl

end Join

/-! ### DEVICE_REMOVAL (R376) -/

section Removal
variable {s t : State} {gone : List DeviceSt}

/-- What the export of an event touches. -/
def enqueueParts : List Part := [.evt, .sp, .links, .time] ++ memoryParts

def enqueueRegs : List Nat := [R.evtXptr, R.evtXdrop, R.evtLate] ++ memoryRegs

/-- From s to t no more differs than what an event that joins the queue touches. -/
abbrev Enqueues (s t : State) : Prop := Touches enqueueParts enqueueRegs s t

theorem enqueues_linkTrace {n : Nat} {bs : List Byte} (h : linkTrace s n bs = some t) : Enqueues s t := by
  unfold linkTrace at h
  split at h
  · exact Option.some.inj h ▸ touches_linkQueue touches_rfl (by decide)
  · cases h

theorem enqueues_spExport {n : Nat} {bs : List Byte} (h : spExport s n bs = some t) : Enqueues s t := by
  unfold spExport spPut at h
  split at h
  · cases h
  · dsimp only at h
    split at h
    · exact Option.some.inj h ▸ touches_sp touches_rfl _ (by decide)
    · cases h

theorem enqueues_exportEvent (p : EvPacket) : Enqueues s (exportEvent s p) := by
  have stored : ∀ a bs, Enqueues s (storeBytes s 3 a bs) := fun a bs =>
    touches_mono (Rendering.touches_storeRun s 3 bs.length a bs) (by decide) (by decide)
  have dropped : Enqueues s (countUp s R.evtXdrop) := touches_countUp touches_rfl (by decide)
  unfold exportEvent
  split
  · exact touches_rfl
  · dsimp only
    split
    · exact touches_wrFld (stored _ _) _ _ _ (by decide)
    · split
      · next sent => exact enqueues_spExport sent
      · exact dropped
    · split
      · next sent => exact enqueues_linkTrace sent
      · exact dropped

theorem enqueues_makeAvailable (q : QueuedEv) : Enqueues s (makeAvailable s q).1 := by
  have late : Enqueues s (restampLate s q).1 := by
    unfold restampLate
    dsimp only
    split
    · exact touches_time (touches_raiseGloss (touches_countUp touches_rfl (by decide)) _ _ _ _ (by decide) (by decide)) _ (by decide)
    · exact touches_rfl
  exact touches_ite (touches_sendDown late (by decide)) late

theorem enqueues_enqueueEvent (src : Nat) (p : EvPacket) : Enqueues s (enqueueEvent s src p) := by
  have numbered : ∀ (u : State) (x : EvtSt), Enqueues u { u with evt := x } := fun u x => touches_evt touches_rfl x (by decide)
  unfold enqueueEvent
  dsimp only
  generalize chosen : (ite (fenceWaits s src = []) _ _ : State × QueuedEv) = r
  have available : Enqueues s r.1 := by
    rw [← chosen]
    split
    · exact touches_trans (numbered s _) (enqueues_makeAvailable _)
    · exact numbered s _
  have queued : ∀ x : EvtSt, Enqueues s { r.1 with evt := x } := fun x => touches_trans available (numbered r.1 x)
  exact touches_ite (queued _) (touches_trans (queued _) (enqueues_exportEvent _))

/-- The devices that are lost with those reported. -/
def goneDevices (s : State) : List DeviceSt := s.sys.devices.filter fun d => s.sys.lost.any fun e => lostWith d e.1 e.2

/-- Their Phrases. -/
def lostPhrases (s : State) : List Phrase :=
  s.phrases.filter fun p => match p.dev with | some a => (goneDevices s).any fun d => d.addr = a | none => false

/-- The link that a lost Phrase's device lay behind. -/
def phraseLink (s : State) (p : Phrase) : Nat :=
  match p.dev with | some a => (((goneDevices s).find? fun d => d.addr = a).map (·.link)).getD 0 | none => 0

/-- An event has been sent for each lost Phrase. -/
def phrasesRemoved (s : State) : State :=
  (lostPhrases s).foldl (fun t p => enqueueEvent t (8 + phraseLink s p) (removalEvent t (phraseLink s p) p.pos)) s

/-- The frames that lacked the lost devices are void. -/
def framesVoided (s : State) (first : Nat) : State := (List.range (nextTake s + 1 - first)).foldl (fun t i => voidFrame t (first + i) 8) s

/-- Some devices have gone, and n Phrases with them. -/
def devicesGone (s : State) (gone : List DeviceSt) : State :=
  { s with sys := { s.sys with devices := s.sys.devices.filter fun d => !gone.contains d, lost := [], lossFrame := none } }

theorem deviceRemoval_eq (root : isRoot s = true) (some' : s.sys.lost ≠ []) : ∃ u v, u = framesVoided (phrasesRemoved s) (s.sys.lossFrame.getD s.time.frame) ∧
    v = devicesGone u (goneDevices s) ∧
    exec .deviceRemoval s = .next (raiseGloss (countUp v R.linkRemove) 0x6111
      (w32 (((goneDevices s).map (·.addr)).foldl min 0x3FFF + (goneDevices s).length * 65536)) (w32 (lostPhrases s).length) (w32 v.time.frame)) := by
  refine ⟨_, _, rfl, rfl, ?_⟩
  have value : exec .deviceRemoval s = if !isRoot s ∨ s.sys.lost.isEmpty then .next s else
    .next (raiseGloss (countUp (devicesGone (framesVoided (phrasesRemoved s) (s.sys.lossFrame.getD s.time.frame)) (goneDevices s)) R.linkRemove) 0x6111
      (w32 (((goneDevices s).map (·.addr)).foldl min 0x3FFF + (goneDevices s).length * 65536)) (w32 (lostPhrases s).length)
      (w32 (devicesGone (framesVoided (phrasesRemoved s) (s.sys.lossFrame.getD s.time.frame)) (goneDevices s)).time.frame)) := rfl
  rw [value, if_neg (by rw [root]; simp [some'])]

theorem sys_removed (first : Nat) : (framesVoided (phrasesRemoved s) first).sys = s.sys := by
  have removed : Enqueues s (phrasesRemoved s) := touches_foldl touches_rfl fun _ _ _ h => touches_trans h (enqueues_enqueueEvent _ _)
  have voided : Enqueues s (framesVoided (phrasesRemoved s) first) := touches_foldl removed fun _ _ _ h => touches_time h _ (by decide)
  exact voided.parts.sys (by decide)

theorem deviceRemoval_removes (root : isRoot s = true) (some' : s.sys.lost ≠ []) :
    ∃ t, exec .deviceRemoval s = .next t ∧ t.sys.lost = [] ∧ t.sys.lossFrame = none ∧
      (∀ d ∈ t.sys.devices, ∀ e ∈ s.sys.lost, lostWith d e.1 e.2 = false) := by
  obtain ⟨u, v, hu, hv, value⟩ := deviceRemoval_eq root some'
  have sys : u.sys = s.sys := hu ▸ sys_removed _
  refine ⟨_, value, ?_, ?_, fun d hd e he => ?_⟩
  · rw [raiseGloss_sys, countUp_sys, hv, devicesGone]
  · rw [raiseGloss_sys, countUp_sys, hv, devicesGone]
  · rw [raiseGloss_sys, countUp_sys, hv, devicesGone] at hd
    dsimp only at hd
    rw [sys] at hd
    obtain ⟨known, stays⟩ := List.mem_filter.1 hd
    refine eq_false_of_ne_true fun lost => ?_
    have inGone : d ∈ goneDevices s := List.mem_filter.2 ⟨known, List.any_eq_true.2 ⟨e, he, lost⟩⟩
    simp [inGone] at stays

theorem deviceRemoval_logged (root : isRoot s = true) (some' : s.sys.lost ≠ []) (silent : s.phrases = []) (now : s.sys.lossFrame = some (nextTake s))
    (named : gone = s.sys.devices.filter (fun d => s.sys.lost.any fun e => lostWith d e.1 e.2)) :
    ∃ t, exec .deviceRemoval s = .next t ∧ rd t R.linkRemove = rd (countUp s R.linkRemove) R.linkRemove ∧
      t.sys = { s.sys with devices := s.sys.devices.filter (fun d => !gone.contains d), lost := [], lossFrame := none } ∧
      t.time = (voidFrame s (nextTake s) 8).time ∧
      Logged 0x6111 (w32 ((gone.map (·.addr)).foldl min 0x3FFF + gone.length * 65536)) 0 (w32 s.time.frame) s t ∧
      Touches [.sys, .gloss, .time] (R.linkRemove :: glossRegs) s t := by
  obtain ⟨u, v, hu, hv, value⟩ := deviceRemoval_eq root some'
  have none' : lostPhrases s = [] := by rw [lostPhrases, silent]; rfl
  have voided : u = voidFrame s (nextTake s) 8 := by
    rw [hu, phrasesRemoved, none', now, framesVoided, List.foldl_nil, Option.getD_some, Nat.add_sub_cancel_left]
    rfl
  have goneNamed : goneDevices s = gone := named.symm
  rw [goneNamed, none', List.length_nil] at value
  rw [goneNamed] at hv
  have gone' : Touches [.time, .sys] [] s v := by
    rw [hv, voided]
    exact touches_sys (touches_time touches_rfl _ (by decide)) _ (by decide)
  have time : v.time = (voidFrame s (nextTake s) 8).time := by rw [hv, voided, devicesGone]
  have recorded : (countUp v R.linkRemove).gloss = s.gloss := (countUp_gloss ..).trans (gone'.parts.gloss (by decide))
  have clock : (countUp v R.linkRemove).time = (voidFrame s (nextTake s) 8).time := (countUp_time ..).trans time
  have frame : v.time.frame = s.time.frame := by rw [time, voidFrame]
  rw [frame] at value
  refine ⟨_, value, rd_counted gone' (by decide), ?_, ?_, logged_raiseGloss recorded (by constructor <;> rw [clock] <;> rfl),
    touches_mono (touches_counted gone') (by decide) (List.Subset.refl _)⟩
  · rw [raiseGloss_sys, countUp_sys, hv, voided]
    rfl
  · rw [raiseGloss_time, clock]

end Removal

/-! ### The block of a worker leaves (R359, R368, R369) -/

section Export
variable {s : State} {u l : Fin 4} {k : Nat}

theorem exported_exportBlock : (exportBlock s k).sys.exported = some k := rfl

theorem exec_upbExport (due : exportDue s = true) (now : exportInstant s 0 ≤ cyclesSince s s.time.epoch) :
    exec .upbExport s = .next (exportBlock s (exportFrameOf s)) := if_pos ⟨due, decide_eq_true now⟩

theorem exec_upbSopTimeout (due : exportDue s = true) (managed : manages s l = true) (missing : (linkOf s l).block = none)
    (now : exportInstant s 2 ≤ cyclesSince s s.time.epoch) :
    exec (.upbSopTimeout l) s = .next (exportBlock s (exportFrameOf s)) := by
  have early : exportNow s 2 = true := decide_eq_true now
  exact if_pos ⟨due, early, managed, by rw [missing]; rfl⟩

theorem upbExport_sends (due : exportDue s = true) (now : exportInstant s 0 ≤ cyclesSince s s.time.epoch) :
    ∃ t, exec .upbExport s = .next t ∧ t.sys.exported = some (exportFrameOf s) := ⟨_, exec_upbExport due now, exported_exportBlock⟩

theorem upbSopTimeout_sends (due : exportDue s = true) (managed : manages s l = true) (missing : (linkOf s l).block = none)
    (now : exportInstant s 2 ≤ cyclesSince s s.time.epoch) :
    ∃ t, exec (.upbSopTimeout l) s = .next t ∧ t.sys.exported = some (exportFrameOf s) :=
  ⟨_, exec_upbSopTimeout due managed missing now, exported_exportBlock⟩

/-- A worker that exports no bus reads a hold without an error, and has no Word events to send. -/
structure PlainExport (s : State) : Prop where
  count : exportCount s = 0
  clean : s.ecc = []
  quiet : s.sys.wev = []

theorem readWords_clean (clean : s.ecc = []) (req n a : Nat) :
    (readWords s req n a).1 = s ∧ ∀ w ∈ (readWords s req n a).2, w.2 = false := by
  induction n generalizing a with
  | zero => exact ⟨rfl, by simp [readWords]⟩
  | succ n ih =>
    obtain ⟨same, good⟩ := ih (a + 8)
    have word : fetchWord s req a = (s, memWord s a, false, false) := fetchWord_clean s req a (by rw [clean]; rfl)
    unfold readWords
    rw [word]
    refine ⟨same, fun w hw => ?_⟩
    rcases List.mem_cons.1 hw with rfl | hw
    · rfl
    · exact good w hw

theorem heldReport_state (clean : s.ecc = []) : (heldReport s k).1 = s := by
  obtain ⟨same, good⟩ := readWords_clean (s := s) clean 4 ((slotCount s + 32 + 3) / 4) (holdBase s k + 0x2000)
  unfold heldReport
  dsimp only
  generalize readWords s 4 ((slotCount s + 32 + 3) / 4) (holdBase s k + 0x2000) = r at same good
  obtain ⟨t, ws⟩ := r
  dsimp only at same good ⊢
  have whole : ¬ (ws.any fun w => w.2) = true := fun bad => by
    obtain ⟨w, hw, poisoned⟩ := List.any_eq_true.1 bad
    exact absurd (good w hw) (by simp [poisoned])
  rw [if_neg whole, same]

theorem exportWev_none (quiet : s.sys.wev = []) : exportWev s k = s := by
  have nothing : exportWev s k = { s with sys := { s.sys with wev := [] } } := by
    unfold exportWev
    rw [quiet]
    rfl
  rw [nothing, ← quiet]

/-- The device's own part of the block of frame k. -/
def ownBlock (s : State) (k : Nat) : UpBlock :=
  ⟨w32 k, (heldVoid s k).setWidth 16, 0, [], [], (heldReport s k).2.map (BitVec.ofNat 16)⟩

/-- A block has gone up. -/
def blockSent (s : State) (b : UpBlock) (k : Nat) : State :=
  let t := sendUp s 0x07 (rootHd s) (upbBytes b)
  { t with sys := { t.sys with exported := some k } }

theorem exportBlock_plain (plain : PlainExport s) : exportBlock s k =
    blockSent ((downLinks s).foldl (addLinkBlock k) (s, ownBlock s k)).1 ((downLinks s).foldl (addLinkBlock k) (s, ownBlock s k)).2 k := by
  have sums : heldSums s k = (s, []) := by
    rw [heldSums, plain.count]
    rfl
  have report : heldReport s k = (s, (heldReport s k).2) := Prod.ext (heldReport_state plain.clean) rfl
  unfold exportBlock
  dsimp only
  rw [exportWev_none plain.quiet, sums]
  dsimp only
  rw [report]
  rfl

theorem blockSent_facts {v : State} {b : UpBlock} (frame : Touches [.links] [] s v) (up : upLink s = some u.val) (four : v.links.length = 4) :
    (blockSent v b k).sys = { s.sys with exported := some k } ∧
      linkOf (blockSent v b k) u = { linkOf v u with outq := (linkOf v u).outq ++ [⟨0x07, rootHd s, upbBytes b, 0, 0⟩] } ∧
      (∀ m, m ≠ u.val → linkOf (blockSent v b k) m = linkOf v m) ∧ Touches [.links, .sys] [] s (blockSent v b k) := by
  have up' : upLink v = some u.val := (upLink_congr fun a _ => frame.regs a List.not_mem_nil).trans up
  have header : rootHd v = rootHd s := by rw [rootHd, linkHd_congr (frame.regs _ List.not_mem_nil), rootHd]
  have value : blockSent v b k = { linkQueue v u 0x07 (rootHd s) (upbBytes b) with sys := { v.sys with exported := some k } } := by
    unfold blockSent
    rw [sendUp_eq up', header]
    rfl
  have queued := ((Only.refl (l := u) four).queue 0x07 (rootHd s) (upbBytes b)).congr (u := blockSent v b k) (by rw [value])
  refine ⟨by rw [value, frame.parts.sys (by decide)], queued.here, queued.other, ?_⟩
  rw [value]
  exact touches_sys (touches_linkQueue (touches_mono frame (by decide) (List.Subset.refl _)) (by decide)) _ (by decide)

theorem upbExport_block (four : s.links.length = 4) (due : exportDue s = true) (named : k = exportFrameOf s) (count : exportCount s = 0)
    (clean : s.ecc = []) (quiet : s.sys.wev = []) (up : upLink s = some u.val) (last : downLinks s = [])
    (now : exportInstant s 0 ≤ cyclesSince s s.time.epoch) :
    ∃ t, exec .upbExport s = .next t ∧ t.sys = { s.sys with exported := some k } ∧
      linkOf t u = { linkOf s u with
        outq := (linkOf s u).outq ++
          [⟨0x07, rootHd s, upbBytes ⟨w32 k, (heldVoid s k).setWidth 16, 0, [], [],
            (heldReport s k).2.map (BitVec.ofNat 16)⟩, 0, 0⟩] } ∧
      (∀ m, m ≠ u.val → linkOf t m = linkOf s m) ∧ Touches [.links, .sys] [] s t := by
  refine ⟨blockSent s (ownBlock s k) k, ?_, blockSent_facts touches_rfl up four⟩
  rw [exec_upbExport due now, ← named, exportBlock_plain ⟨count, clean, quiet⟩, last]
  rfl

theorem skipping {x : LinkSt} (missing : x.block = none) (unnamed : x.nameNext = false) :
    { { { x with nameNext := false } with block := none } with skip := some k } = { x with skip := some k } := by
  cases x
  cases missing
  cases unnamed
  rfl

/-- The manager has looked for the block of frame k on a link and found none: it names the neighbour, and the block is dropped if it comes. -/
theorem addLinkBlock_missing {b : UpBlock} (four : s.links.length = 4) (missing : (linkOf s l).block = none) (unnamed : (linkOf s l).nameNext = false) :
    ∃ v, addLinkBlock k (s, b) l = (v, nameLost b (peerAddr s l)) ∧ Only s v l { linkOf s l with skip := some k } ∧ Touches [.links] [] s v := by
  obtain ⟨a, ha⟩ : ∃ a, a = onLink s l fun x => { x with nameNext := false } := ⟨_, rfl⟩
  have looked : Only s a l { linkOf s l with nameNext := false } := ha ▸ (Only.refl (l := l) four).onLink fun x => { x with nameNext := false }
  have frame : Touches [.links] [] s a := ha ▸ touches_onLink touches_rfl (by decide)
  have found : segmentBlock a l k = .inr 2 := by rw [segmentBlock, looked.here, missing]
  have peer : peerAddr a l = peerAddr s l := fld_congr (frame.regs _ List.not_mem_nil)
  have cleared := looked.onLink fun x => { x with block := none }
  have skips := cleared.onLink fun x => { x with skip := some k }
  refine ⟨onLink (clearBlock a l) l fun x => { x with skip := some k }, ?_, ?_, touches_onLink (touches_onLink frame (by decide)) (by decide)⟩
  · unfold addLinkBlock
    dsimp only
    rw [unnamed, ← ha, found, ← peer]
    rfl
  · rw [skipping missing unnamed] at skips
    exact skips

theorem upbSopTimeout_block (four : s.links.length = 4) (due : exportDue s = true) (named : k = exportFrameOf s) (count : exportCount s = 0)
    (clean : s.ecc = []) (quiet : s.sys.wev = []) (up : upLink s = some u.val) (one : downLinks s = [l.val]) (apart : l ≠ u)
    (missing : (linkOf s l).block = none) (unnamed : (linkOf s l).nameNext = false) (now : exportInstant s 2 ≤ cyclesSince s s.time.epoch) :
    ∃ t, exec (.upbSopTimeout l) s = .next t ∧ t.sys = { s.sys with exported := some k } ∧
      linkOf t u = { linkOf s u with
        outq := (linkOf s u).outq ++
          [⟨0x07, rootHd s, upbBytes ⟨w32 k, (heldVoid s k).setWidth 16, 1, [BitVec.ofNat 16 (peerAddr s l + 0x8000)], [],
            (heldReport s k).2.map (BitVec.ofNat 16)⟩, 0, 0⟩] } ∧
      linkOf t l = { linkOf s l with skip := some k } ∧ (∀ m, m ≠ u.val → m ≠ l.val → linkOf t m = linkOf s m) ∧
      Touches [.links, .sys] [] s t := by
  obtain ⟨v, added, only, frame⟩ := addLinkBlock_missing (k := k) (b := ownBlock s k) four missing unnamed
  obtain ⟨sys, here, other, touched⟩ := blockSent_facts (k := k) (b := nameLost (ownBlock s k) (peerAddr s l)) frame up only.four
  have distinct : l.val ≠ u.val := fun same => apart (Fin.ext same)
  have down : l.val ∈ downLinks s := by rw [one]; exact List.mem_cons_self
  have managed : manages s l = true := (Bool.and_eq_true_iff.1 (List.mem_filter.1 down).2).1
  refine ⟨blockSent v (nameLost (ownBlock s k) (peerAddr s l)) k, ?_, sys, ?_, (other _ distinct).trans only.here,
    fun m hu hl => (other m hu).trans (only.other m hl), touched⟩
  · rw [exec_upbSopTimeout due managed missing now, ← named, exportBlock_plain ⟨count, clean, quiet⟩, one, List.foldl_cons, List.foldl_nil, added]
  · rw [here, only.other u distinct.symm]
    rfl

end Export

/-- Settles O44: each packet and each instant acts on the link, the frame or the devices that it names, and a boot over a link ends as a
boot does. -/
theorem linkFrames : Obligations.LinkFrames := by
  unfold Obligations.LinkFrames
  exact ⟨fun _ _ _ _ _ _ _ => syncPacket_joins, fun _ _ _ _ _ _ => bootPacket_boots, fun _ _ => upbExport_sends,
    fun _ _ _ due managed missing => upbSopTimeout_sends due managed missing, @deviceRemoval_removes, @syncPacket_misaligned, @syncPacket_aligned,
    @periodicSync_sends, @bootPacket_goes_on, @frm_runs, @upb_kept, @upb_bad, fun _ _ _ _ => upb_discarded, @upbExport_block,
    @upbSopTimeout_block, @workerJoin_admits, @lateMarkClear_clears, @deviceRemoval_logged⟩

end Sys2Proof.Frames

/-! PROOFS. What a DEVICE list and the sections of an image can reach leaves the record of the boot as it is (R416, R425): no list ends a
boot. One rule per function of the model, in the order of its modules. -/

namespace Sys2Proof.BootKept
open Sys2Proof.Machine Sys2Proof.Laws Sys2Proof.Architecture Sys2Proof.Answers

section Folds
variable {α β : Type}

theorem foldl_boot {f : State → α → State} (h : ∀ s x, (f s x).boot = s.boot) (l : List α) (s : State) :
    (l.foldl f s).boot = s.boot := by
  induction l generalizing s with
  | nil => rfl
  | cons x l ih => exact (ih _).trans (h s x)

theorem foldl_pair_boot {f : State × β → α → State × β} (h : ∀ p x, (f p x).1.boot = p.1.boot) (l : List α) (p : State × β) :
    (l.foldl f p).1.boot = p.1.boot := by
  induction l generalizing p with
  | nil => rfl
  | cons x l ih => exact (ih _).trans (h p x)

end Folds

theorem getD_boot {s u : State} {x : Option State} (some : ∀ t, x = some t → t.boot = s.boot) (none : u.boot = s.boot) :
    (x.getD u).boot = s.boot := by
  cases x with
  | none => exact none
  | some t => exact some t rfl

/-! ### Registers and counters -/

@[simp] theorem countUpBy_boot (s : State) (a n : Nat) : (countUpBy s a n).boot = s.boot := by simp [countUpBy, foldl_boot]

@[simp] theorem busErr_boot (s : State) (init cause : Nat) (isWrite : Bool) (a : Nat) :
    (busErr s init cause isWrite a).boot = s.boot := by
  unfold busErr
  grind [setFlag_boot, wr_boot]

@[simp] theorem voidFrame_boot (s : State) (n cause : Nat) : (voidFrame s n cause).boot = s.boot := by simp [voidFrame]

@[simp] theorem voidSince_boot (s : State) (m : Nat) (ends : Option Nat) : (voidSince s m ends).boot = s.boot := by
  unfold voidSince
  exact foldl_boot (fun s x => by grind [voidFrame_boot]) _ _

@[simp] theorem latchWake_boot (s : State) (sources : BitVec 24) : (latchWake s sources).boot = s.boot := by
  unfold latchWake
  grind

@[simp] theorem drawFree_boot (s : State) : (drawFree s).1.boot = s.boot := by simp [drawFree]

/-! ### The event recorder -/

@[simp] theorem glossEnqueue_boot (s : State) (e : GlossEntry) : (glossEnqueue s e).boot = s.boot := by
  unfold glossEnqueue
  split <;> simp

@[simp] theorem glossLose_boot (s : State) (code : Nat) : (glossLose s code).boot = s.boot := by
  unfold glossLose
  grind [countUp_boot]

/-! ### Memory -/

@[simp] theorem putByte_boot (s : State) (a : Nat) (b : Byte) : (putByte s a b).boot = s.boot := by simp [putByte]

@[simp] theorem putBytes_boot (s : State) (a : Nat) (bs : List Byte) : (putBytes s a bs).boot = s.boot := by
  fun_induction putBytes s a bs <;> grind [putByte_boot]

@[simp] theorem putWord_boot (s : State) (a : Nat) (d : DWord) : (putWord s a d).boot = s.boot := by simp [putWord]

@[simp] theorem putPoison_boot (s : State) (a : Nat) (d : DWord) : (putPoison s a d).boot = s.boot := by simp [putPoison]

@[simp] theorem logCorrected_boot (s : State) (a k : Nat) : (logCorrected s a k).boot = s.boot := by
  unfold logCorrected
  grind [countUp_boot, setFlag_boot, raiseGloss_boot]

@[simp] theorem logBad_boot (s : State) (req a : Nat) : (logBad s req a).boot = s.boot := by
  unfold logBad
  grind [countUp_boot, raiseIrq_boot, setFlag_boot, wr_boot, raiseGloss_boot]

@[simp] theorem fetchWord_boot (s : State) (req a : Nat) : (fetchWord s req a).1.boot = s.boot := by
  unfold fetchWord
  split <;> simp

@[simp] theorem mergeWord_boot (s : State) (req a off : Nat) (bs : List Byte) : (mergeWord s req a off bs).boot = s.boot := by
  unfold mergeWord
  grind [putBytes_boot, fetchWord_boot, putPoison_boot, putWord_boot]

@[simp] theorem memLoad_boot (s : State) (req a size : Nat) : (memLoad s req a size).1.boot = s.boot := by
  unfold memLoad
  grind [fetchWord_boot]

@[simp] theorem memStore_boot (s : State) (req a size : Nat) (v : DWord) : (memStore s req a size v).boot = s.boot := by
  unfold memStore
  grind [putWord_boot, mergeWord_boot]

@[simp] theorem memAdd_boot (s : State) (req a : Nat) (v : DWord) : (memAdd s req a v).boot = s.boot := by
  unfold memAdd
  grind [putWord_boot, fetchWord_boot, putPoison_boot]

@[simp] theorem memSwap_boot (s : State) (req a : Nat) (v : DWord) : (memSwap s req a v).1.boot = s.boot := by simp [memSwap]

@[simp] theorem storeRun_boot (s : State) (req n m : Nat) (bs : List Byte) : (storeRun s req n m bs).boot = s.boot := by
  fun_induction storeRun s req n m bs <;> grind [putWord_boot, mergeWord_boot]

@[simp] theorem storeBytes_boot (s : State) (req a : Nat) (bs : List Byte) : (storeBytes s req a bs).boot = s.boot := by simp [storeBytes]

@[simp] theorem readWords_boot (s : State) (req n m : Nat) : (readWords s req n m).1.boot = s.boot := by
  fun_induction readWords s req n m <;> grind [fetchWord_boot]

@[simp] theorem readBytes_boot (s : State) (req a n : Nat) : (readBytes s req a n).1.boot = s.boot := by simp [readBytes]

@[simp] theorem clearRange_boot (s : State) (lo hi : Nat) : (clearRange s lo hi).boot = s.boot := by simp [clearRange]

/-! ### Ports and links -/

@[simp] theorem familyPort_boot (s : State) (p : Nat) : (familyPort s p).boot = s.boot := by
  unfold familyPort
  split <;> simp

@[simp] theorem familyPorts_boot (s : State) : (familyPorts s).boot = s.boot := by simp [familyPorts, foldl_boot]

@[simp] theorem rtsFollow_boot (s : State) (p : Nat) : (rtsFollow s p).boot = s.boot := by
  unfold rtsFollow
  grind [onSp_boot]

theorem spPut_boot (s : State) (p writer : Nat) (cs : List (BitVec 9)) (notBefore : Option DWord) :
    ∀ t, spPut s p writer cs notBefore = some t → t.boot = s.boot := by
  simp [spPut]

theorem spExport_boot (s : State) (p : Nat) (bs : List Byte) : ∀ t, spExport s p bs = some t → t.boot = s.boot := by
  unfold spExport
  grind [spPut_boot]

@[simp] theorem linkQueue_boot (s : State) (l typ : Nat) (hd : LinkHeader) (payload : List Byte) :
    (linkQueue s l typ hd payload).boot = s.boot := by
  simp [linkQueue]

@[simp] theorem sendDown_boot (s : State) (typ : Nat) (hd : LinkHeader) (payload : List Byte) :
    (sendDown s typ hd payload).boot = s.boot := by
  simp [sendDown, foldl_boot]

theorem linkTrace_boot (s : State) (l : Nat) (bs : List Byte) : ∀ t, linkTrace s l bs = some t → t.boot = s.boot := by simp [linkTrace]

@[simp] theorem hostRing_boot (s : State) (p : EvPacket) : (hostRing s p).boot = s.boot := by
  unfold hostRing
  extract_lets i t
  have stored : t.boot = s.boot := storeBytes_boot _ _ _ _
  clear_value t
  grind [setFlag_boot, raiseIrq_boot, wrFld_boot]

@[simp] theorem exportEvent_boot (s : State) (p : EvPacket) : (exportEvent s p).boot = s.boot := by
  unfold exportEvent
  grind [wrFld_boot, storeBytes_boot, spExport_boot, countUp_boot, linkTrace_boot]

/-! ### The event fabric -/

@[simp] theorem restampLate_boot (s : State) (q : QueuedEv) : (restampLate s q).1.boot = s.boot := by
  unfold restampLate
  grind [countUp_boot, raiseGloss_boot, voidFrame_boot]

@[simp] theorem makeAvailable_boot (s : State) (q : QueuedEv) : (makeAvailable s q).1.boot = s.boot := by
  unfold makeAvailable
  grind [restampLate_boot, sendDown_boot]

@[simp] theorem releaseHeld_boot (s : State) : (releaseHeld s).boot = s.boot := by simp [releaseHeld, foldl_boot]

@[simp] theorem setComplete_boot (s : State) (g : Nat) (c : Word) : (setComplete s g c).boot = s.boot := by simp [setComplete]

@[simp] theorem offerEvent_boot (s : State) (src : Nat) (p : EvPacket) (instant : DWord) :
    (offerEvent s src p instant).boot = s.boot := by
  simp [offerEvent]

@[simp] theorem badMessage_boot (s : State) (src first reason : Nat) : (badMessage s src first reason).boot = s.boot := by
  simp [badMessage]

@[simp] theorem maskChanged_boot (s : State) (g oldMask : Nat) : (maskChanged s g oldMask).boot = s.boot := by
  unfold maskChanged
  grind [setComplete_boot, releaseHeld_boot]

/-! ### MIDI -/

@[simp] theorem applyParsed_boot (s : State) (src : Nat) (r : Parsed) : (applyParsed s src r).boot = s.boot := by
  simp [applyParsed, foldl_boot]

@[simp] theorem writeHwin_boot (s : State) (value : Word) : (writeHwin s value).1.boot = s.boot := by
  unfold writeHwin
  grind [refuse_boot, applyParsed_boot]

@[simp] theorem formatChanged_boot (s : State) (src : Nat) : (formatChanged s src).boot = s.boot := by
  unfold formatChanged
  split <;> simp

/-! ### Phrases -/

@[simp] theorem onPhrase_boot (s : State) (pos : Nat) (f : Phrase → Phrase) : (onPhrase s pos f).boot = s.boot := by simp [onPhrase]

@[simp] theorem freePhrase_boot (s : State) (pos : Nat) : (freePhrase s pos).boot = s.boot := by simp [freePhrase]

@[simp] theorem movePos_boot (s : State) (old new : Nat) (f : Phrase → Phrase) : (movePos s old new f).boot = s.boot := by
  unfold movePos
  split <;> simp

@[simp] theorem putWordBytes_boot (s : State) (a : Nat) (bs : List Byte) : (putWordBytes s a bs).boot = s.boot := by
  fun_induction putWordBytes s a bs <;> grind [putWord_boot]

@[simp] theorem writeWork_boot (s : State) (p : Phrase) (w : Work) : (writeWork s p w).boot = s.boot := by
  unfold writeWork
  split <;> simp

@[simp] theorem initPhraseState_boot (s : State) (p : Phrase) : (initPhraseState s p).boot = s.boot := by
  unfold initPhraseState
  split <;> simp

@[simp] theorem copyWords_boot (s : State) (n m k : Nat) : (copyWords s n m k).boot = s.boot := by
  fun_induction copyWords s n m k <;> grind [fetchWord_boot, putPoison_boot, putWord_boot]

@[simp] theorem shiftPhrase_boot (s : State) (v pos xb yb : Nat) : (shiftPhrase s v pos xb yb).boot = s.boot := by
  unfold shiftPhrase
  grind [copyWords_boot, onPhrase_boot, storeBytes_boot]

@[simp] theorem packPart_boot (v : Nat) (y : Bool) (s : State) (pos : Nat) : (packPart v y s pos).boot = s.boot := by
  unfold packPart
  grind [freePhrase_boot, shiftPhrase_boot]

@[simp] theorem compact_boot (s : State) (v : Nat) : (compact s v).boot = s.boot := by simp [compact, foldl_boot]

@[simp] theorem makeRoom_boot (s : State) (v : Nat) (x : Syntax) : (makeRoom s v x).boot = s.boot := by
  unfold makeRoom
  split <;> simp

@[simp] theorem placeOn_boot (s : State) (v : Nat) (x : Syntax) : (placeOn s v x).1.boot = s.boot := by simp [placeOn]

@[simp] theorem findHome_boot (s : State) (lane : Nat) (x : Syntax) : (findHome s lane x).1.boot = s.boot := by
  unfold findHome
  grind [placeOn_boot]

@[simp] theorem placePhrase_boot (s : State) (pos : Nat) : (placePhrase s pos).boot = s.boot := by
  unfold placePhrase
  grind [findHome_boot, initPhraseState_boot, onPhrase_boot]

@[simp] theorem diverge_boot (s : State) (pos m : Nat) : (diverge s pos m).boot = s.boot := by
  unfold diverge
  split <;> simp

@[simp] theorem divergeWork_boot (s : State) (m pos : Nat) : (divergeWork s m pos).boot = s.boot := by
  unfold divergeWork
  grind [diverge_boot]

@[simp] theorem addFeeds_boot (s : State) (m b j : Nat) (v : DWord) : (addFeeds s m b j v).boot = s.boot := by simp [addFeeds, foldl_boot]

@[simp] theorem setWord_boot (s : State) (a : Nat) (d : DWord) (e : Option (BitVec 88)) : (setWord s a d e).boot = s.boot := by
  unfold setWord
  split <;> simp

@[simp] theorem swapWord_boot (s : State) (a b : Nat) : (swapWord s a b).boot = s.boot := by
  unfold swapWord
  grind [setWord_boot]

@[simp] theorem swapMix_boot (s : State) : (swapMix s).boot = s.boot := by simp [swapMix, foldl_boot]

/-! ### Audio outputs -/

@[simp] theorem kappaStep_boot (s : State) (k : Nat) : (kappaStep s k).boot = s.boot := by
  unfold kappaStep
  split <;> simp

@[simp] theorem closePark_boot (s : State) (k : Nat) : (closePark s k).boot = s.boot := by
  unfold closePark
  grind [onDac_boot]

@[simp] theorem openPark_boot (s : State) (k : Nat) : (openPark s k).boot = s.boot := by simp [openPark]

@[simp] theorem afterDacCh_boot (s : State) (k : Nat) : (afterDacCh s k).boot = s.boot := by
  unfold afterDacCh
  split <;> simp

@[simp] theorem openAllParks_boot (s : State) : (openAllParks s).boot = s.boot := by
  unfold openAllParks
  split
  · exact foldl_boot (fun s x => by grind [openPark_boot]) _ _
  · rfl

@[simp] theorem dacSample_boot (j : Nat) (s : State) (k : Nat) : (dacSample j s k).boot = s.boot := by
  unfold dacSample
  grind [drawFree_boot, kappaStep_boot, onDac_boot, closePark_boot]

/-! ### CV outputs -/

@[simp] theorem spoilCv_boot (s : State) (k : Nat) : (spoilCv s k).boot = s.boot := by
  unfold spoilCv
  split <;> simp

@[simp] theorem runStepOne_boot (s : State) (k : Nat) : (runStepOne s k).boot = s.boot := by simp [runStepOne]

@[simp] theorem cvRamp_boot (s : State) (k : Nat) : (cvRamp s k).boot = s.boot := by
  unfold cvRamp
  grind [onCv_boot, spoilCv_boot, runStepOne_boot]

@[simp] theorem cvClose_boot (s : State) (k : Nat) : (cvClose s k).boot = s.boot := by simp [cvClose]

@[simp] theorem cvOpen_boot (s : State) (k : Nat) : (cvOpen s k).boot = s.boot := by simp [cvOpen]

@[simp] theorem cvSequence_boot (s : State) (k : Nat) : (cvSequence s k).boot = s.boot := by
  unfold cvSequence
  grind [cvRamp_boot, cvClose_boot, cvOpen_boot]

@[simp] theorem cvUpdate_boot (s : State) (k : Nat) : (cvUpdate s k).boot = s.boot := by simp [cvUpdate]

@[simp] theorem cvDue_boot (s : State) (k : Nat) : (cvDue s k).boot = s.boot := by
  unfold cvDue
  grind [onCv_boot, cvUpdate_boot]

@[simp] theorem cvTimerUpdate_boot (s : State) (n causes : Nat) : (cvTimerUpdate s n causes).boot = s.boot := by
  unfold cvTimerUpdate
  exact foldl_boot (fun s x => by grind [cvUpdate_boot]) _ _

@[simp] theorem cvSample_boot (j : Nat) (s : State) (k : Nat) : (cvSample j s k).boot = s.boot := by
  unfold cvSample
  split <;> simp

@[simp] theorem afterCvCh_boot (s : State) (k : Nat) : (afterCvCh s k).boot = s.boot := by
  unfold afterCvCh
  split <;> simp

@[simp] theorem startWindow_boot (s : State) (i : Nat) : (startWindow s i).boot = s.boot := by simp [startWindow]

@[simp] theorem monitorSample_boot (s : State) : (monitorSample s).boot = s.boot := by
  unfold monitorSample
  grind [startWindow_boot]

/-! ### Inputs -/

@[simp] theorem freshDetector_boot (s : State) (x : Nat) : (freshDetector s x).boot = s.boot := by simp [freshDetector]

@[simp] theorem enableDetector_boot (s : State) (x : Nat) : (enableDetector s x).boot = s.boot := by simp [enableDetector]

@[simp] theorem freshDetectors_boot (s : State) (n : Nat) : (freshDetectors s n).boot = s.boot := by simp [freshDetectors]

@[simp] theorem startChannel_boot (s : State) (n u : Nat) : (startChannel s n u).boot = s.boot := by simp [startChannel]

@[simp] theorem stopChannel_boot (s : State) (n : Nat) : (stopChannel s n).boot = s.boot := by simp [stopChannel]

@[simp] theorem followRun_boot (u : Nat) (s : State) (n : Nat) : (followRun u s n).boot = s.boot := by
  unfold followRun
  grind [startChannel_boot, stopChannel_boot]

@[simp] theorem cutChannels_boot (s : State) (on : Nat → Bool) : (cutChannels s on).boot = s.boot := by simp [cutChannels]

@[simp] theorem syncInputs_boot (s : State) : (syncInputs s).boot = s.boot := by
  unfold syncInputs
  exact foldl_boot (fun s x => by grind [onAdc_boot, startChannel_boot]) _ _

@[simp] theorem settled_boot (s : State) (n : Nat) : (settled s n).boot = s.boot := by simp [settled]

@[simp] theorem chainTick_boot (s : State) (n u : Nat) : (chainTick s n u).1.boot = s.boot := by
  unfold chainTick
  split <;> simp

@[simp] theorem evaluate_boot (s : State) (x : Nat) (w : Int) : (evaluate s x w).1.boot = s.boot := by
  unfold evaluate
  grind [onDet_boot, wrFld_boot]

@[simp] theorem threshEvent_boot (s : State) (x : Nat) (stamp : DWord) (value : Int) : (threshEvent s x stamp value).boot = s.boot := by
  simp [threshEvent]

@[simp] theorem beginEvent_boot (s : State) (x : Nat) (stamp : DWord) (w : Int) : (beginEvent s x stamp w).boot = s.boot := by
  unfold beginEvent
  grind [onDet_boot, threshEvent_boot]

@[simp] theorem runWindows_boot (s : State) (x : Nat) (w : Int) : (runWindows s x w).boot = s.boot := by simp [runWindows, foldl_boot]

@[simp] theorem detect_boot (s : State) (x : Nat) (w : Int) (b : DWord) : (detect s x w b).boot = s.boot := by
  unfold detect
  grind [evaluate_boot, beginEvent_boot]

@[simp] theorem detectSample_boot (s : State) (x : Nat) (v : Int) (b : DWord) : (detectSample s x v b).boot = s.boot := by
  unfold detectSample
  grind [runWindows_boot, detect_boot]

@[simp] theorem writeInput_boot (s : State) (n u : Nat) (v : Word) : (writeInput s n u v).boot = s.boot := by simp [writeInput]

@[simp] theorem holdCount_boot (s : State) (n : Nat) : (holdCount s n).boot = s.boot := by simp [holdCount]

@[simp] theorem deliverValue_boot (s : State) (n u : Nat) (x : Int) (watched : Bool) : (deliverValue s n u x watched).boot = s.boot := by
  unfold deliverValue
  grind [setFlag_boot, writeInput_boot, onAdc_boot, detectSample_boot]

@[simp] theorem deliverSample_boot (s : State) (n u : Nat) (x : Int) : (deliverSample s n u x).boot = s.boot := by
  unfold deliverSample
  grind [holdCount_boot, settled_boot, onAdc_boot, writeInput_boot, deliverValue_boot]

@[simp] theorem adcSample_boot (u : Nat) (s : State) (n : Nat) : (adcSample u s n).boot = s.boot := by
  unfold adcSample
  grind [followRun_boot, writeInput_boot, holdCount_boot, chainTick_boot, deliverSample_boot]

@[simp] theorem adcTick_boot (s : State) : (adcTick s).boot = s.boot := by
  unfold adcTick
  split
  · rfl
  · exact foldl_boot (fun s x => by grind [adcSample_boot]) _ _

@[simp] theorem customIgnored_boot (s : State) : (customIgnored s).boot = s.boot := by
  unfold customIgnored
  grind [setFlag_boot]

@[simp] theorem writeCdata_boot (s : State) (v : Word) : (writeCdata s v).boot = s.boot := by
  unfold writeCdata
  split <;> simp

@[simp] theorem writeCdelay_boot (s : State) (v : Word) : (writeCdelay s v).boot = s.boot := by
  unfold writeCdelay
  grind [customIgnored_boot, refuse_boot, wrFld_boot]

@[simp] theorem resetInputs_boot (s : State) : (resetInputs s).boot = s.boot := by simp [resetInputs]

/-! ### The allocator -/

@[simp] theorem lostLevels_boot (s : State) (cands : List Phrase) : (lostLevels s cands).boot = s.boot := by
  unfold lostLevels
  split <;> simp

@[simp] theorem addRecord_boot (s : State) (r : FrmRecord) : (addRecord s r).boot = s.boot := by simp [addRecord]

@[simp] theorem addTail_boot (s : State) (bus : Int) (v : Word) : (addTail s bus v).boot = s.boot := by
  unfold addTail
  split
  · exact foldl_boot (fun s x => by grind [memAdd_boot]) _ _
  · rfl

@[simp] theorem readLocal32_boot (s : State) (a : Nat) : (readLocal32 s a).1.boot = s.boot := by simp [readLocal32]

@[simp] theorem cutTails_boot (s : State) (p : Phrase) : (cutTails s p).boot = s.boot := by
  unfold cutTails
  split
  · exact foldl_boot (fun s x => by grind [readLocal32_boot, addTail_boot]) _ _
  · rfl

@[simp] theorem cutPhrase_boot (s : State) (p : Phrase) (key part : Nat) : (cutPhrase s p key part).boot = s.boot := by simp [cutPhrase]

@[simp] theorem toFading_boot (s : State) (old fade : Nat) : (toFading s old fade).boot = s.boot := by simp [toFading]

@[simp] theorem fadePhrase_boot (s : State) (p : Phrase) (fade key part : Nat) : (fadePhrase s p fade key part).boot = s.boot := by
  simp [fadePhrase]

@[simp] theorem stealPhrase_boot (s : State) (p : Phrase) (mustCut : Bool) (key part : Nat) :
    (stealPhrase s p mustCut key part).boot = s.boot := by
  unfold stealPhrase
  split <;> simp

@[simp] theorem putPhrase_boot (s : State) (r : NoteReq) (p : Phrase) : (putPhrase s r p).boot = s.boot := by simp [putPhrase]

@[simp] theorem refuseSlot_boot (s : State) (r : NoteReq) (t : Todo) : (refuseSlot s r t).boot = s.boot := by simp [refuseSlot]

@[simp] theorem createOn_boot (s : State) (r : NoteReq) (t : Todo) (x : Syntax) (slot lane : Nat) (aseq : Word) :
    (createOn s r t x slot lane aseq).boot = s.boot := by
  simp [createOn]

@[simp] theorem slotStage_boot (s : State) (r : NoteReq) (t : Todo) (ts : List Todo) (aseq : Word) (made : Bool) :
    (slotStage s r t ts aseq made).1.boot = s.boot := by
  unfold slotStage
  grind [refuseSlot_boot, stealPhrase_boot, lostLevels_boot]

@[simp] theorem placeStage_boot (s : State) (r : NoteReq) (t : Todo) (ts : List Todo) (aseq : Word) (made : Bool) (slot steals : Nat) :
    (placeStage s r t ts aseq made slot steals).1.boot = s.boot := by
  unfold placeStage
  grind [createOn_boot, countUp_boot, stealPhrase_boot, lostLevels_boot]

@[simp] theorem releaseGroup_boot (s : State) (part : Nat) (aseq : Word) (vel : Nat) (pos : DWord) (late : Bool) :
    (releaseGroup s part aseq vel pos late).boot = s.boot := by
  unfold releaseGroup
  split <;> simp

@[simp] theorem polyOff_boot (s : State) (part key noteId vel : Nat) (pos : DWord) (late : Bool) :
    (polyOff s part key noteId vel pos late).1.boot = s.boot := by
  unfold polyOff
  grind [countUp_boot]

@[simp] theorem nextAseq_boot (s : State) : (nextAseq s).1.boot = s.boot := by simp [nextAseq]

@[simp] theorem retrigGroup_boot (s : State) (part : Nat) (aseq : Word) (e : NoteEnt) (legato : Bool) (pos : DWord) (late : Bool) :
    (retrigGroup s part aseq e legato pos late).boot = s.boot := by
  unfold retrigGroup
  grind [nextAseq_boot, addRecord_boot]

@[simp] theorem setStack_boot (s : State) (part : Nat) (st : List NoteEnt) : (setStack s part st).boot = s.boot := by simp [setStack]

@[simp] theorem moveVoice_boot (s : State) (part : Nat) (aseq : Word) (e : NoteEnt) (pos : DWord) (late : Bool) :
    (moveVoice s part aseq e pos late).boot = s.boot := by
  simp [moveVoice]

@[simp] theorem pushNote_boot (s : State) (part : Nat) (e : NoteEnt) : (pushNote s part e).boot = s.boot := by
  unfold pushNote
  grind [drawFree_boot, setStack_boot, raiseGloss_boot, countUp_boot]

@[simp] theorem monoOff_boot (s : State) (part key noteId vel : Nat) (pos : DWord) (late : Bool) :
    (monoOff s part key noteId vel pos late).1.boot = s.boot := by
  unfold monoOff
  grind [countUp_boot, setStack_boot, moveVoice_boot]

@[simp] theorem sustainUp_boot (s : State) (part : Nat) (pos : DWord) (late : Bool) : (sustainUp s part pos late).boot = s.boot := by
  simp [sustainUp]

@[simp] theorem sostenutoDown_boot (s : State) (part : Nat) : (sostenutoDown s part).boot = s.boot := by simp [sostenutoDown]

@[simp] theorem sostenutoUp_boot (s : State) (part : Nat) (pos : DWord) (late : Bool) : (sostenutoUp s part pos late).boot = s.boot := by
  simp [sostenutoUp]

@[simp] theorem setPedal_boot (s : State) (part bit : Nat) (down : Bool) (pos : DWord) (late : Bool) :
    (setPedal s part bit down pos late).boot = s.boot := by
  unfold setPedal
  grind [wrFld_boot, addRecord_boot, sustainUp_boot, sostenutoDown_boot, sostenutoUp_boot]

@[simp] theorem outOfRange_boot (s : State) (part index : Nat) (value : Int) : (outOfRange s part index value).boot = s.boot := by
  simp [outOfRange]

@[simp] theorem partControl_boot (s : State) (part index : Nat) (value : Int) (pos : DWord) (late : Bool) :
    (partControl s part index value pos late).boot = s.boot := by
  unfold partControl
  grind [wrFld_boot, setStack_boot, outOfRange_boot, setPedal_boot]

@[simp] theorem beginRequest_boot (s : State) (r : NoteReq) : (beginRequest s r).1.boot = s.boot := by
  unfold beginRequest
  split <;> simp

@[simp] theorem removePhrase_boot (s : State) (slot : Nat) : (removePhrase s slot).boot = s.boot := by
  unfold removePhrase
  grind [addRecord_boot, freePhrase_boot]

@[simp] theorem allocOp_boot (s : State) (op : AllocOp) : (allocOp s op).1.boot = s.boot := by
  unfold allocOp
  grind [partControl_boot, polyOff_boot, monoOff_boot, releaseGroup_boot, removePhrase_boot, placeStage_boot, nextAseq_boot,
    slotStage_boot, retrigGroup_boot, beginRequest_boot, pushNote_boot, moveVoice_boot]

@[simp] theorem deferOp_boot (s : State) (op : AllocOp) : (deferOp s op).boot = s.boot := by simp [deferOp]

@[simp] theorem runOps_boot (n : Nat) (s : State) (ops : List AllocOp) : (runOps n s ops).boot = s.boot := by
  fun_induction runOps n s ops <;> grind [deferOp_boot, allocOp_boot]

@[simp] theorem runOp_boot (s : State) (op : AllocOp) : (runOp s op).boot = s.boot := by simp [runOp]

@[simp] theorem showFree_boot (s : State) : (showFree s).boot = s.boot := by rw [showFree, wrFld_boot, wrFld_boot]

@[simp] theorem endStep3_boot (s : State) : (endStep3 s).boot = s.boot := by
  unfold endStep3
  dsimp only
  rw [foldl_boot (fun t p => wrFld_boot t _ _ _ _), showFree_boot]

/-! ### The tempo engine -/

@[simp] theorem newPiece_boot (s : State) (p m : DWord) (q : Nat) : (newPiece s p m q).boot = s.boot := by simp [newPiece]

@[simp] theorem dropPieces_boot (s : State) (p : DWord) : (dropPieces s p).boot = s.boot := by simp [dropPieces]

@[simp] theorem setTransport_boot (s : State) (t : Nat) : (setTransport s t).boot = s.boot := by simp [setTransport]

@[simp] theorem refreshMstat_boot (s : State) : (refreshMstat s).boot = s.boot := by
  unfold refreshMstat
  grind [wr_boot]

@[simp] theorem chasePassed_boot (s : State) (old j : DWord) : (chasePassed s old j).boot = s.boot := by
  unfold chasePassed
  grind [onTense_boot, countUpBy_boot, refreshMstat_boot, raiseGloss_boot]

@[simp] theorem jumpTo_boot (s : State) (p j : DWord) (q cause : Nat) : (jumpTo s p j q cause).boot = s.boot := by simp [jumpTo]

@[simp] theorem startFrom_boot (s : State) (p j : DWord) : (startFrom s p j).boot = s.boot := by
  unfold startFrom
  grind [onTense_boot, newPiece_boot, setTransport_boot]

@[simp] theorem setPosition_boot (s : State) (p j : DWord) (cause : Nat) : (setPosition s p j cause).boot = s.boot := by
  unfold setPosition
  split <;> simp

@[simp] theorem transportEvent_boot (s : State) (op value : Nat) (p : DWord) : (transportEvent s op value p).boot = s.boot := by
  unfold transportEvent
  split <;> simp

@[simp] theorem selectSource_boot (s : State) (src : Nat) (p : DWord) : (selectSource s src p).boot = s.boot := by
  unfold selectSource
  grind [wrFld_boot, onTense_boot, clrFlag_boot, newPiece_boot]

@[simp] theorem internalTempo_boot (s : State) (tempo : Word) (p : DWord) : (internalTempo s tempo p).boot = s.boot := by
  unfold internalTempo
  grind [wr_boot, onTense_boot, newPiece_boot]

@[simp] theorem measure_boot (s : State) (qm : Nat) : (Machine.measure s qm).boot = s.boot := by
  unfold Machine.measure
  extract_lets t taps
  grind [countUp_boot, clrFlag_boot, onTense_boot]

@[simp] theorem correctPhase_boot (s : State) (p target : DWord) : (correctPhase s p target).boot = s.boot := by
  unfold correctPhase
  extract_lets m e dl
  split
  · exact jumpTo_boot _ _ _ _ _
  · exact newPiece_boot _ _ _ _

@[simp] theorem firstPulse_boot (s : State) (p : DWord) (acquire : Nat) : (firstPulse s p acquire).boot = s.boot := by
  unfold firstPulse
  grind [setFlag_boot, onTense_boot, newPiece_boot]

@[simp] theorem tempoPulse_boot (s : State) (p : DWord) : (tempoPulse s p).boot = s.boot := by
  unfold tempoPulse
  grind [onTense_boot, raiseGloss_boot, clrFlag_boot, setTransport_boot, firstPulse_boot, measure_boot, correctPhase_boot]

@[simp] theorem controlBad_boot (s : State) (e : EvPacket) : (controlBad s e).boot = s.boot := by simp [controlBad]

@[simp] theorem tenseEvent_boot (s : State) (e : EvPacket) : (tenseEvent s e).boot = s.boot := by
  unfold tenseEvent
  grind [transportEvent_boot, internalTempo_boot, controlBad_boot, setPosition_boot, selectSource_boot, tempoPulse_boot]

@[simp] theorem tempoLoss_boot (s : State) (m : Nat) : (tempoLoss s m).boot = s.boot := by
  unfold tempoLoss
  grind [countUp_boot, setFlag_boot, raiseGloss_boot, newPiece_boot, setTransport_boot]

@[simp] theorem showPosition_boot (s : State) (pos : Nat) : (showPosition s pos).boot = s.boot := by simp [showPosition]

@[simp] theorem writeFrameRecord_boot (s : State) (n : Nat) (bs : List Byte) : (writeFrameRecord s n bs).boot = s.boot := by
  simp [writeFrameRecord]

@[simp] theorem commitEntry_boot (s : State) (m : Nat) (e : DWord × EvPacket) : (commitEntry s m e).boot = s.boot := by
  unfold commitEntry
  grind [countUp_boot, onTense_boot, offerEvent_boot]

@[simp] theorem commitMusical_boot (s : State) (m : Nat) : (commitMusical s m).boot = s.boot := by
  unfold commitMusical
  split
  · rw [refreshMstat_boot, foldl_boot (fun s e => commitEntry_boot s m e)]
  · rfl

@[simp] theorem tenseStep_boot (s : State) (m : Nat) (events : List EvPacket) : (tenseStep s m events).boot = s.boot := by
  have heard := foldl_boot tenseEvent_boot events
  unfold tenseStep
  grind [onTense_boot, dropPieces_boot, tempoLoss_boot, showPosition_boot, writeFrameRecord_boot, commitMusical_boot]

@[simp] theorem queueMusical_boot (s : State) (e : EvPacket) : (queueMusical s e).boot = s.boot := by
  unfold queueMusical
  grind [countUp_boot, refreshMstat_boot, onTense_boot]

@[simp] theorem writeMwin_boot (s : State) (value : Word) : (writeMwin s value).boot = s.boot := by
  unfold writeMwin
  grind [refuse_boot, onTense_boot, queueMusical_boot]

@[simp] theorem holdPosition_boot (s : State) (instant : DWord) : (holdPosition s instant).boot = s.boot := by simp [holdPosition]

/-! ### Events taken -/

@[simp] theorem leaveQueue_boot (s : State) (es : List QueuedEv) : (leaveQueue s es).boot = s.boot := by simp [leaveQueue]

@[simp] theorem mapMiss_boot (s : State) (part why what : Nat) : (mapMiss s part why what).boot = s.boot := by simp [mapMiss]

@[simp] theorem programEvent_boot (s : State) (p : EvPacket) : (programEvent s p).boot = s.boot := by
  unfold programEvent
  grind [mapMiss_boot]

@[simp] theorem noteRequest_boot (s : State) (part key noteId vel : Nat) (pos : DWord) (late : Bool) :
    (noteRequest s part key noteId vel pos late).1.boot = s.boot := by
  unfold noteRequest
  grind [mapMiss_boot]

@[simp] theorem noteOn_boot (s : State) (part key noteId vel : Nat) (pos : DWord) (late : Bool) :
    (noteOn s part key noteId vel pos late).boot = s.boot := by
  unfold noteOn
  grind [noteRequest_boot, runOp_boot]

@[simp] theorem controlAct_boot (s : State) (e : EvPacket) (pos : DWord) (i : Nat) (c : Control) :
    (controlAct s e pos i c).boot = s.boot := by
  unfold controlAct
  grind [runOp_boot, noteOn_boot]

@[simp] theorem eventActs_boot (s : State) (e : EvPacket) : (eventActs s e).boot = s.boot := by
  unfold eventActs
  dsimp only
  split
  · simp
  · simp
  · simp
  · simp
  · refine (foldl_boot (fun s (x : Nat × Control) => controlAct_boot s e _ x.1 x.2) _ _).trans ?_
    split <;> simp

@[simp] theorem logDeferral_boot (s : State) (n : Nat) : (logDeferral s n).boot = s.boot := by simp [logDeferral]

@[simp] theorem queueWork_boot (s : State) (p : Phrase) (w : Work) : (queueWork s p w).boot = s.boot := by
  unfold queueWork
  grind [writeWork_boot, onPhrase_boot]

@[simp] theorem armPhrase_boot (m : Nat) (s : State) (pos : Nat) : (armPhrase m s pos).boot = s.boot := by
  unfold armPhrase
  grind [logDeferral_boot, onPhrase_boot, diverge_boot, queueWork_boot]

@[simp] theorem armAll_boot (s : State) (m : Nat) : (armAll s m).boot = s.boot := by simp [armAll, foldl_boot]

@[simp] theorem runDeferred_boot (s : State) : (runDeferred s).boot = s.boot := by simp [runDeferred]

@[simp] theorem takeAndAllocate_boot (s : State) (m : Nat) (es : List QueuedEv) : (takeAndAllocate s m es).boot = s.boot := by
  simp [takeAndAllocate, foldl_boot]

/-! ### Word-frames -/

@[simp] theorem onFlow_boot (s : State) (k : FlowKey) (f : WordFrame → WordFrame) (g : EndedWf → EndedWf) :
    (onFlow s k f g).boot = s.boot := by
  simp [onFlow]

@[simp] theorem dropReleased_boot (s : State) : (dropReleased s).boot = s.boot := by simp [dropReleased]

@[simp] theorem refreshWin_boot (s : State) : (refreshWin s).boot = s.boot := by
  unfold refreshWin
  grind [wrFld_boot]

@[simp] theorem applyAlloc_boot (s : State) (frame pos : Nat) (u : Bool × Bool × Option Word) :
    (applyAlloc s frame pos u).boot = s.boot := by
  unfold applyAlloc
  grind [onPhrase_boot]

@[simp] theorem drainAlloc_boot (n : Nat) (s : State) : (drainAlloc n s).boot = s.boot := by
  fun_induction drainAlloc n s <;> grind [applyAlloc_boot, dropReleased_boot]

@[simp] theorem stageTrace_boot (s : State) (key : FlowKey) (verbs : List Nat) (slot reason : Nat) (bits128 : BitVec 128) :
    (stageTrace s key verbs slot reason bits128).boot = s.boot := by
  unfold stageTrace
  grind

theorem emitTrace_boot (s : State) (bs : List Byte) : ∀ t, emitTrace s bs = some t → t.boot = s.boot := by
  have sent := getD_boot (spExport_boot s (fld s R.parserTrctl 5 3) bs) (countUp_boot s R.parserTrdrop)
  intro t
  unfold emitTrace
  extract_lets port i
  grind [storeBytes_boot, setFlag_boot, wrFld_boot, linkTrace_boot]

@[simp] theorem putStaged_boot (s : State) (r : BitVec 128) : (putStaged s r).boot = s.boot := by
  unfold putStaged
  split <;> simp

@[simp] theorem passTrace_boot (n : Nat) (s : State) : (passTrace n s).boot = s.boot := by
  fun_induction passTrace n s <;> grind [putStaged_boot]

@[simp] theorem drainStaged_boot (n : Nat) (s : State) : (drainStaged n s).boot = s.boot := by
  fun_induction drainStaged n s <;> grind [emitTrace_boot]

@[simp] theorem drainTrace_boot (s : State) : (drainTrace s).boot = s.boot := by simp [drainTrace]

@[simp] theorem settleFlows_boot (s : State) : (settleFlows s).boot = s.boot := by simp [settleFlows]

/-! ### The end of a Word-frame -/

@[simp] theorem onWork_boot (s : State) (frame pos : Nat) (f : Phrase → Phrase) (g : Work → Work) :
    (onWork s frame pos f g).boot = s.boot := by
  simp [onWork]

@[simp] theorem copyHeld_boot (s : State) (p : Phrase) (x : Syntax) (w : Work) (v : Nat) (e : SynEdge) :
    (copyHeld s p x w v e).boot = s.boot := by
  unfold copyHeld
  split <;> simp

@[simp] theorem levelOf_boot (s : State) (p : Phrase) (x : Syntax) (w : Work) (v : Nat) : (levelOf s p x w v).1.boot = s.boot := by
  unfold levelOf
  split
  · rfl
  · split
    · rfl
    · extract_lets levelled
      clear_value levelled
      split
      · split
        rename_i t d bad n loaded
        exact (congrArg (·.1.boot) loaded).symm.trans (memLoad_boot _ _ _ _)
      · rfl

@[simp] theorem endPhraseFrame_boot (s : State) (p : Phrase) (w : Work) (last : Nat) (yielded : Bool) :
    (endPhraseFrame s p w last yielded).boot = s.boot := by
  have held (l : List SynEdge) (x : Syntax) (v : Nat) : (l.foldl (fun t e => copyHeld t p x w v e) s).boot = s.boot :=
    foldl_boot (fun t e => copyHeld_boot t p x w v e) l s
  unfold endPhraseFrame
  split
  · rfl
  · cases p.home with
    | none =>
      dsimp only
      split <;> rfl
    | some v =>
      dsimp only
      split <;> simp only [levelOf_boot] <;> split <;> simp [held]

@[simp] theorem wordEnded_boot (s : State) (frame pos widx : Nat) (done carry aborted : Bool) :
    (wordEnded s frame pos widx done carry aborted).boot = s.boot := by
  unfold wordEnded
  grind [onWork_boot, endPhraseFrame_boot]

@[simp] theorem noteFirst_boot (s : State) (v : Nat) : (noteFirst s v).boot = s.boot := by
  unfold noteFirst
  grind [onVerb_boot]

@[simp] theorem handover_boot (s : State) (v : Nat) : (handover s v).boot = s.boot := by simp [handover]

@[simp] theorem endWordFrame_boot (s : State) (v : Nat) (done carry aborted : Bool) :
    (endWordFrame s v done carry aborted).boot = s.boot := by
  unfold endWordFrame
  grind [raiseGloss_boot, stageTrace_boot, handover_boot, settleFlows_boot, noteFirst_boot, wordEnded_boot]

@[simp] theorem recordFault_boot (s : State) (v code : Nat) (w : WordFrame) (pc : Nat) : (recordFault s v code w pc).boot = s.boot := by
  unfold recordFault
  grind [setFlag_boot, wr_boot]

@[simp] theorem triggerRecovery_boot (s : State) (mask : Nat) : (triggerRecovery s mask).boot = s.boot := by
  unfold triggerRecovery
  grind [drawFree_boot, raiseGloss_boot]

@[simp] theorem logAbort_boot (s : State) (v code : Nat) (w : WordFrame) (pc : Nat) : (logAbort s v code w pc).boot = s.boot := by
  simp [logAbort]

@[simp] theorem setBank_boot (s : State) (v : Nat) (b : VerbBank) : (setBank s v b).boot = s.boot := by simp [setBank]

@[simp] theorem setBankAt_boot (s : State) (v : Nat) (other : Bool) (b : VerbBank) : (setBankAt s v other b).boot = s.boot := by
  unfold setBankAt
  split <;> simp

@[simp] theorem overCheckAt_boot (s : State) (v : Nat) (other : Bool) : (overCheckAt s v other).boot = s.boot := by
  unfold overCheckAt
  grind [setBankAt_boot, raiseGloss_boot, countUp_boot]

@[simp] theorem overCheck_boot (s : State) (v : Nat) : (overCheck s v).boot = s.boot := by simp [overCheck]

@[simp] theorem abortFrame_boot (s : State) (v code : Nat) : (abortFrame s v code).boot = s.boot := by
  unfold abortFrame
  grind [overCheck_boot, recordFault_boot, triggerRecovery_boot, logAbort_boot, voidFrame_boot, divergeWork_boot, endWordFrame_boot]

/-! ### Instructions of a Verb -/

@[simp] theorem drawLatency_boot (s : State) (bound : Nat) : (drawLatency s bound).1.boot = s.boot := by simp [drawLatency]

@[simp] theorem sharedValue_boot (s : State) (v : Nat) (w : WordFrame) (l : SharedLoad) : (sharedValue s v w l).1.boot = s.boot := by
  unfold sharedValue
  split <;> simp

@[simp] theorem deliverLoad_boot (s : State) (v : Nat) (other : Bool) : (deliverLoad s v other).boot = s.boot := by
  unfold deliverLoad
  split <;> simp

@[simp] theorem awaitLoads_boot (v : Nat) (regs : List Nat) (n : Nat) (s : State) (m : Nat) :
    (awaitLoads v regs n s m).1.boot = s.boot := by
  fun_induction awaitLoads v regs n s m <;> grind [drawLatency_boot, deliverLoad_boot]

@[simp] theorem localLoad_boot (s : State) (v : Nat) (useB : Bool) (w : WordFrame) (a size : Nat) :
    (localLoad s v useB w a size).1.boot = s.boot := by
  have loaded : (memLoad s (16 + v) (localAddr v a) size).1.boot = s.boot := memLoad_boot _ _ _ _
  unfold localLoad
  generalize memLoad s (16 + v) (localAddr v a) size = r at loaded ⊢
  dsimp only
  split
  · exact ((drawFree_boot _).trans (drawFree_boot _)).trans loaded
  · exact loaded

@[simp] theorem doMove_boot (s : State) (v : Nat) (l : VerbBank) (m : MoveField) (t : Nat) : (doMove s v l m t).1.boot = s.boot := by
  unfold doMove
  grind [setBank_boot, memStore_boot, localLoad_boot]

@[simp] theorem lexSample_boot (s : State) (v a fmt : Nat) : (lexSample s v a fmt).1.boot = s.boot := by
  unfold lexSample
  split <;> simp

@[simp] theorem missBlock_boot (s : State) (frame : Nat) : (missBlock s frame).boot = s.boot := by
  unfold missBlock
  split <;> simp

@[simp] theorem tableSample_boot (s : State) (v frame base : Nat) (a : Int) (fmt : Nat) :
    (tableSample s v frame base a fmt).1.boot = s.boot := by
  unfold tableSample
  grind [lexSample_boot, missBlock_boot]

@[simp] theorem tableResults_boot (s : State) (v frame : Nat) (r : TableReq) : (tableResults s v frame r).1.boot = s.boot := by
  unfold tableResults
  extract_lets fmt mode
  have read := foldl_pair_boot (α := Int) (f := fun (acc : State × List (Int × Bool)) o =>
    ((tableSample acc.1 v frame (bits r.cfg 23 0) (pointAddr r.pos r.cfg o) fmt).1,
      acc.2 ++ [((tableSample acc.1 v frame (bits r.cfg 23 0) (pointAddr r.pos r.cfg o) fmt).2.1,
        (tableSample acc.1 v frame (bits r.cfg 23 0) (pointAddr r.pos r.cfg o) fmt).2.2)]))
    (fun p x => tableSample_boot _ _ _ _ _ _) (tableOffsets mode) (s, [])
  grind

@[simp] theorem noteStream_boot (s : State) (wf : Option WordFrame) (r : TableReq) : (noteStream s wf r).boot = s.boot := by
  unfold noteStream
  split <;> simp

@[simp] theorem deliverTable_boot (s : State) (v : Nat) (other : Bool) : (deliverTable s v other).boot = s.boot := by
  unfold deliverTable
  split <;> simp

@[simp] theorem noteSent_boot (s : State) (m : MixItem) : (noteSent s m).boot = s.boot := by
  unfold noteSent
  split <;> simp

@[simp] theorem mixApply_boot (s : State) (m : MixItem) : (mixApply s m).boot = s.boot := by
  unfold mixApply
  grind [countUp_boot, noteSent_boot, memAdd_boot, addFeeds_boot]

@[simp] theorem drainMixOne_boot (s : State) (v : Nat) : (drainMixOne s v).boot = s.boot := by
  unfold drainMixOne
  split <;> simp

@[simp] theorem queueSend_boot (s : State) (v : Nat) (m : MixItem) : (queueSend s v m).boot = s.boot := by simp [queueSend]

@[simp] theorem awaitMix_boot (s : State) (v n t : Nat) : (awaitMix s v n t).1.boot = s.boot := by
  have drained (l : List Nat) : (l.foldl (fun u _ => drainMixOne u v) s).boot = s.boot := foldl_boot (fun u _ => drainMixOne_boot u v) l s
  unfold awaitMix
  grind [drawLatency_boot]

@[simp] theorem packetAt_boot (s : State) (v : Nat) (w : WordFrame) (addr : Word) : (packetAt s v w addr).1.boot = s.boot := by
  simp [packetAt]

@[simp] theorem postEvent_boot (s : State) (v : Nat) (addr : Word) : (postEvent s v addr).1.boot = s.boot := by
  unfold postEvent
  grind [setBank_boot, packetAt_boot]

theorem poisonedPacket_boot (s : State) (v : Nat) (w : WordFrame) (l : VerbBank) (i : VInstr) :
    ∀ t, poisonedPacket s v w l i = some t → t.boot = s.boot := by
  unfold poisonedPacket
  split <;> simp

@[simp] theorem spend_boot (s : State) (v t : Nat) : (spend s v t).boot = s.boot := by simp [spend]

@[simp] theorem operate_boot (s : State) (v : Nat) (l : VerbBank) (i : VInstr) (t : Nat) : (operate s v l i t).1.boot = s.boot := by
  unfold operate
  grind [setBank_boot, queueSend_boot, postEvent_boot]

@[simp] theorem awaitRoom_boot (s : State) (v loads t : Nat) : (awaitRoom s v loads t).1.boot = s.boot := by
  unfold awaitRoom
  grind [drawLatency_boot, deliverLoad_boot]

@[simp] theorem awaitTable_boot (s : State) (v : Nat) (i : VInstr) (t : Nat) : (awaitTable s v i t).1.boot = s.boot := by
  unfold awaitTable
  grind [drawLatency_boot, deliverTable_boot]

@[simp] theorem exitFrame_boot (s : State) (v : Nat) : (exitFrame s v).boot = s.boot := by
  unfold exitFrame
  grind [awaitLoads_boot, setBank_boot, overCheck_boot, abortFrame_boot, endWordFrame_boot]

@[simp] theorem issueAlways_boot (s : State) (v : Nat) (i : VInstr) : (issueAlways s v i).boot = s.boot := by
  unfold issueAlways
  grind [awaitLoads_boot, setBank_boot, spend_boot, awaitRoom_boot, awaitTable_boot, awaitMix_boot, overCheck_boot, abortFrame_boot,
    poisonedPacket_boot, doMove_boot, operate_boot, exitFrame_boot]

/-! ### The Parser -/

@[simp] theorem markMove_boot (s : State) (pos d q rate : Nat) (forced : Bool) : (markMove s pos d q rate forced).boot = s.boot := by
  simp [markMove]

@[simp] theorem markFlagged_boot (v target q rate n : Nat) (s : State) : (markFlagged v target q rate n s).boot = s.boot := by
  fun_induction markFlagged v target q rate n s <;> grind [markMove_boot]

@[simp] theorem markMoves_boot (s : State) : (markMoves s).boot = s.boot := by
  unfold markMoves
  exact foldl_boot (fun s x => by grind [onVerb_boot, markFlagged_boot]) _ _

@[simp] theorem unmark_boot (s : State) (pos : Nat) : (unmark s pos).boot = s.boot := by simp [unmark]

@[simp] theorem forceMove_boot (s : State) (pos : Nat) : (forceMove s pos).boot = s.boot := by
  unfold forceMove
  grind [markMove_boot, unmark_boot]

@[simp] theorem forceMoves_boot (s : State) : (forceMoves s).boot = s.boot := by simp [forceMoves, foldl_boot]

@[simp] theorem roomForMoves_boot (s : State) : (roomForMoves s).boot = s.boot := by
  unfold roomForMoves
  exact foldl_boot (fun s x => by grind [makeRoom_boot]) _ _

/-! ### Frame boundaries -/

@[simp] theorem abortOther_boot (s : State) (v : Nat) : (abortOther s v).boot = s.boot := by
  unfold abortOther
  grind [overCheckAt_boot, recordFault_boot, logAbort_boot, divergeWork_boot, voidFrame_boot, stageTrace_boot, onVerb_boot,
    settleFlows_boot, wordEnded_boot]

@[simp] theorem abortLate_boot (s : State) (m : Nat) : (abortLate s m).boot = s.boot := by
  unfold abortLate
  exact foldl_boot (fun s x => by grind [abortOther_boot, abortFrame_boot, onVerb_boot]) _ _

@[simp] theorem amendVoid_boot (s : State) (m : Nat) (causes : BitVec 10) : (amendVoid s m causes).boot = s.boot := by
  rw [amendVoid]
  split
  · rw [wrFld_boot, wrFld_boot]
  · rw [wrFld_boot]

@[simp] theorem reportVoid_boot (s : State) (m : Nat) (causes : BitVec 10) : (reportVoid s m causes).boot = s.boot := by simp [reportVoid]

@[simp] theorem reportVoids_boot (s : State) (m : Nat) : (reportVoids s m).boot = s.boot := by
  unfold reportVoids
  exact foldl_boot (fun s x => by grind [amendVoid_boot, reportVoid_boot]) _ _

@[simp] theorem stepFades_boot (s : State) (m : Nat) : (stepFades s m).boot = s.boot := by simp [stepFades]

@[simp] theorem phraseEnds_boot (s : State) (n : Nat) : (phraseEnds s n).boot = s.boot := by
  unfold phraseEnds
  split <;> simp

@[simp] theorem refreshVerbs_boot (s : State) : (refreshVerbs s).boot = s.boot := by
  unfold refreshVerbs
  exact (wrFld_boot _ _ _ _ _).trans (wrFld_boot _ _ _ _ _)

@[simp] theorem takeAdrift_boot (s : State) (p : Phrase) : (takeAdrift s p).boot = s.boot := by
  unfold takeAdrift
  split <;> simp

@[simp] theorem placeAll_boot (s : State) : (placeAll s).boot = s.boot := by simp [placeAll, foldl_boot]

/-! ### Digital audio ports -/

@[simp] theorem daiSlip_boot (s : State) (p kind : Nat) : (daiSlip s p kind).boot = s.boot := by
  unfold daiSlip
  grind [countUp_boot, setFlag_boot, onDai_boot, raiseGloss_boot]

@[simp] theorem daiDeliver_boot (s : State) (p u : Nat) (ws : List Word) : (daiDeliver s p u ws).boot = s.boot := by
  simp [daiDeliver, foldl_boot]

@[simp] theorem daiTake_boot (s : State) (p u : Nat) (slots : List Word) : (daiTake s p u slots).boot = s.boot := by simp [daiTake]

@[simp] theorem daiPast_boot (s : State) (p u : Nat) : (daiPast s p u).boot = s.boot := by simp [daiPast]

@[simp] theorem daiNone_boot (u : Nat) (s : State) (p : Nat) : (daiNone u s p).boot = s.boot := by
  unfold daiNone
  split <;> simp

@[simp] theorem daiTick_boot (u : Nat) (s : State) (p : Nat) : (daiTick u s p).boot = s.boot := by
  unfold daiTick
  grind [daiPast_boot, daiTake_boot, daiNone_boot]

@[simp] theorem ringWord_boot (s : State) (a : Nat) : (ringWord s a).1.boot = s.boot := by simp [ringWord]

@[simp] theorem keepSlots_boot (u : Nat) (s : State) (p : Nat) : (keepSlots u s p).boot = s.boot := by
  unfold keepSlots
  split <;> simp

@[simp] theorem slotSource_boot (s : State) (p k v : Nat) : (slotSource s p k v).1.boot = s.boot := by
  unfold slotSource
  grind [ringWord_boot]

@[simp] theorem slotWord_boot (v p : Nat) (acc : State × List (Option Word)) (k : Nat) : (slotWord v p acc k).1.boot = acc.1.boot := by
  unfold slotWord
  grind [slotSource_boot, setFlag_boot]

@[simp] theorem daiSend_boot (s : State) (p v : Nat) : (daiSend s p v).boot = s.boot := by
  unfold daiSend
  extract_lets d t
  have slipped : t.boot = s.boot := by
    unfold t
    split
    · split <;> simp
    · rfl
  have sent := foldl_pair_boot (slotWord_boot v p) (List.range (daiSlots t p)) (t, [])
  clear_value t
  grind [onDai_boot]

@[simp] theorem daiBegin_boot (u : Nat) (s : State) (p : Nat) : (daiBegin u s p).boot = s.boot := by
  unfold daiBegin
  split <;> simp

@[simp] theorem daiSync_boot (before : Option DWord) (s : State) : (daiSync before s).boot = s.boot := by simp [daiSync]

@[simp] theorem resetDai_boot (s : State) : (resetDai s).boot = s.boot := by simp [resetDai]

/-! ### The recorder's store -/

@[simp] theorem glossFreeze_boot (s : State) : (glossFreeze s).boot = s.boot := by simp [glossFreeze]

@[simp] theorem closeGap_boot (s : State) : (closeGap s).boot = s.boot := by
  unfold closeGap
  grind [onGloss_boot, glossEnqueue_boot, glossLose_boot]

@[simp] theorem glossResume_boot (s : State) : (glossResume s).boot = s.boot := by
  unfold glossResume
  grind [clrFlag_boot, onGloss_boot, closeGap_boot]

@[simp] theorem clearKeptArea_boot (s : State) : (clearKeptArea s).boot = s.boot := by simp [clearKeptArea]

@[simp] theorem clearCircArea_boot (s : State) : (clearCircArea s).boot = s.boot := by simp [clearCircArea]

@[simp] theorem glossCommand_boot (s : State) (key op : Nat) : (glossCommand s key op).boot = s.boot := by
  unfold glossCommand
  grind [refuse_boot, clearKeptArea_boot, clearCircArea_boot, onGloss_boot]

@[simp] theorem glossRate_boot (s : State) (v : Word) : (glossRate s v).boot = s.boot := by
  unfold Machine.glossRate
  grind [refuse_boot, onGloss_boot, wr_boot]

@[simp] theorem glossOverride_boot (s : State) (n : Nat) (v : Word) : (glossOverride s n v).boot = s.boot := by
  unfold glossOverride
  split <;> simp

/-! ### Stores and the flash -/

@[simp] theorem storeResult_boot (s : State) (r : Nat) : (storeResult s r).boot = s.boot := by
  have kept : Touches [] [R.nvmSstat, R.sysIrqstat] s (storeResult s r) := Store.touches_storeResult touches_rfl r (by decide) (by decide)
  exact kept.parts.boot (by decide)

@[simp] theorem refuseStore_boot (s : State) (kind r : Nat) (host : Bool) : (refuseStore s kind r host).boot = s.boot := by
  unfold refuseStore
  grind [storeResult_boot, raiseGloss_boot]

@[simp] theorem showHoldup_boot (s : State) (d : StoreDesc) : (showHoldup s d).boot = s.boot := by simp [showHoldup]

@[simp] theorem startStore_boot (s : State) (kind : Nat) (payload : List Byte) (host : Bool) :
    (startStore s kind payload host).boot = s.boot := by
  unfold startStore
  grind [refuseStore_boot, showHoldup_boot, clrFlag_boot, setFlag_boot]

@[simp] theorem fillSbuf_boot (s : State) (bs : List Byte) : (fillSbuf s bs).boot = s.boot := by
  unfold fillSbuf
  exact foldl_boot (fun s x => by grind [wr_boot]) _ _

@[simp] theorem startFlash_boot (s : State) (op : Nat) : (startFlash s op).boot = s.boot := by simp [startFlash]

/-! ### Serial ports -/

@[simp] theorem applyRxBaud_boot (s : State) (p : Nat) : (applyRxBaud s p).boot = s.boot := by simp [applyRxBaud]

@[simp] theorem afterBaud_boot (s : State) (p : Nat) : (afterBaud s p).boot = s.boot := by
  unfold afterBaud
  grind [onSp_boot, applyRxBaud_boot]

@[simp] theorem afterSpCtl_boot (s : State) (p : Nat) (old : Word) : (afterSpCtl s p old).boot = s.boot := by
  unfold afterSpCtl
  grind [onSp_boot, applyRxBaud_boot]

@[simp] theorem rxFlush_boot (s : State) (p : Nat) : (rxFlush s p).boot = s.boot := by simp [rxFlush]

@[simp] theorem txFlush_boot (s : State) (p : Nat) : (txFlush s p).boot = s.boot := by simp [txFlush]

@[simp] theorem setMute_boot (s : State) (p : Nat) : (setMute s p).boot = s.boot := by simp [setMute]

@[simp] theorem writeSpCmd_boot (s : State) (p : Nat) (v : Word) : (writeSpCmd s p v).boot = s.boot := by
  unfold writeSpCmd
  grind [rxFlush_boot, txFlush_boot, setMute_boot]

@[simp] theorem afterSpCfg_boot (s : State) (p : Nat) (old : Word) : (afterSpCfg s p old).boot = s.boot := by
  unfold afterSpCfg
  grind [onSp_boot]

@[simp] theorem writeTxd_boot (s : State) (p : Nat) (v : Word) : (writeTxd s p v).boot = s.boot := by
  unfold writeTxd
  grind [spPut_boot, setFlag_boot]

@[simp] theorem readRxd_boot (s : State) (p : Nat) : (readRxd s p).1.boot = s.boot := by
  unfold readRxd
  grind [rtsFollow_boot, onSp_boot, wr_boot]

/-! ### Timers -/

@[simp] theorem syncBalls_boot (s : State) : (syncBalls s).boot = s.boot := by simp [syncBalls]

@[simp] theorem actOnBall_boot (s : State) (ball action : Nat) : (actOnBall s ball action).boot = s.boot := by
  unfold actOnBall
  split <;> simp

@[simp] theorem timerEvent_boot (s : State) (n cause : Nat) (trunc : Bool) : (timerEvent s n cause trunc).boot = s.boot := by
  unfold timerEvent
  split <;> simp

@[simp] theorem causeEvents_boot (s : State) (n : Nat) (c : Causes) : (causeEvents s n c).boot = s.boot := by
  unfold causeEvents
  grind [timerEvent_boot]

@[simp] theorem timerWake_boot (s : State) (n : Nat) (enabled : Bool) : (timerWake s n enabled).boot = s.boot := by
  unfold timerWake
  split <;> simp

@[simp] theorem timerCount_boot (s : State) (n : Nat) : (timerCount s n).1.boot = s.boot := by simp [timerCount]

@[simp] theorem timerIdle_boot (s : State) (n : Nat) : (timerIdle s n).boot = s.boot := by simp [timerIdle]

@[simp] theorem timersTick_boot (s : State) : (timersTick s).boot = s.boot := by
  unfold timersTick
  split
  rename_i t acts counted
  rw [foldl_boot (fun t (x : Nat × Nat) => actOnBall_boot t x.1 x.2), syncBalls_boot]
  refine (congrArg (·.1.boot) counted).symm.trans (foldl_pair_boot (fun p n => ?_) _ _)
  obtain ⟨t, acts⟩ := p
  dsimp only
  split <;> simp

@[simp] theorem timerGo_boot (s : State) (mask : Nat) : (timerGo s mask).boot = s.boot := by
  unfold timerGo
  exact foldl_boot (fun s x => by grind [onTimer_boot]) _ _

@[simp] theorem capture_boot (s : State) (n : Nat) : (capture s n).boot = s.boot := by
  unfold capture
  grind [setFlag_boot, wr_boot, timerWake_boot, timerEvent_boot]

@[simp] theorem switchClock_boot (s : State) (ao : Bool) (cause : Nat) : (switchClock s ao cause).boot = s.boot := by simp [switchClock]

/-! ### Staged registers -/

@[simp] theorem clkSelect_boot (s : State) : (clkSelect s).boot = s.boot := by
  unfold clkSelect
  grind [wrFld_boot, raiseGloss_boot, clrFlag_boot]

@[simp] theorem restartTrace_boot (s : State) (old : Word) : (restartTrace s old).boot = s.boot := by
  unfold restartTrace
  split <;> simp

@[simp] theorem restartExport_boot (s : State) (old : Word) : (restartExport s old).boot = s.boot := by
  unfold restartExport
  split <;> simp

@[simp] theorem daiRestart_boot (s : State) (p : Nat) (old : Word) : (daiRestart s p old).boot = s.boot := by
  unfold daiRestart
  grind [onDai_boot]

@[simp] theorem stagedActs_boot (s : State) (a : Nat) (old : Word) : (stagedActs s a old).boot = s.boot := by
  unfold stagedActs
  grind [clkSelect_boot, restartTrace_boot, restartExport_boot, formatChanged_boot, onDac_boot, onCv_boot, daiRestart_boot]

@[simp] theorem applyOne_boot (s : State) (a : Nat) (v : Word) : (applyOne s a v).boot = s.boot := by simp [applyOne]

@[simp] theorem masksChanged_boot (s : State) (old : List Nat) : (masksChanged s old).boot = s.boot := by
  unfold masksChanged
  exact foldl_boot (fun s x => by grind [maskChanged_boot]) _ _

/-! ### Power domains -/

@[simp] theorem clearPage_boot (s : State) (page : Nat) : (clearPage s page).boot = s.boot := by simp [clearPage]

@[simp] theorem resetOutputs_boot (s : State) : (resetOutputs s).boot = s.boot := by simp [resetOutputs]

@[simp] theorem sdoLevel_boot (s : State) (p : Nat) : (sdoLevel s p).1.boot = s.boot := by
  unfold sdoLevel
  split <;> simp

@[simp] theorem sdoLevels_boot (s : State) : (sdoLevels s).1.boot = s.boot := by simp [sdoLevels, foldl_pair_boot]

@[simp] theorem padLevels_boot (s : State) : (padLevels s).boot = s.boot := by simp [padLevels]

@[simp] theorem latchPads_boot (s : State) (d : Nat) : (latchPads s d).boot = s.boot := by
  unfold latchPads
  grind [setFlag_boot, padLevels_boot]

@[simp] theorem loseDomain_boot (s : State) (d : Nat) : (loseDomain s d).boot = s.boot := by
  have cleared (l : List Nat) : (l.foldl clearPage s).boot = s.boot := foldl_boot clearPage_boot l s
  unfold loseDomain
  split
  · rfl
  · rfl
  · exact cleared _
  · exact (resetOutputs_boot _).trans (cleared _)
  · exact (resetInputs_boot _).trans (clearPage_boot _ _)
  · exact (familyPorts_boot _).trans ((resetDai_boot _).trans (cleared [R.spPage, R.linkPage, R.daiPage]))
  · rfl

@[simp] theorem domainOff_boot (s : State) (d : Nat) : (domainOff s d).boot = s.boot := by
  unfold domainOff
  split <;> simp

@[simp] theorem domainUp_boot (s : State) (d : Nat) : (domainUp s d).boot = s.boot := by
  unfold domainUp
  grind [setFlag_boot, clearRange_boot]

@[simp] theorem applyDomains_boot (s : State) : (applyDomains s).boot = s.boot := by
  unfold applyDomains
  grind [domainUp_boot, domainOff_boot]

@[simp] theorem writeDomen_boot (s : State) (v : Word) : (writeDomen s v).boot = s.boot := by
  unfold writeDomen
  grind [refuse_boot, wrFld_boot, applyDomains_boot]

@[simp] theorem writePadrel_boot (s : State) (v : Word) : (writePadrel s v).boot = s.boot := by
  unfold writePadrel
  grind [refuse_boot, clrFlag_boot, openAllParks_boot]

@[simp] theorem clearVinmin_boot (s : State) : (clearVinmin s).boot = s.boot := by simp [clearVinmin]

@[simp] theorem interruptFuse_boot (s : State) : (interruptFuse s).boot = s.boot := by
  unfold interruptFuse
  split <;> simp

/-! ### Frames of a system -/

@[simp] theorem frmPayload_boot (s : State) (m nevt : Nat) : (frmPayload s m nevt).1.boot = s.boot := by simp [frmPayload]

@[simp] theorem sendFrm_boot (s : State) (m nevt : Nat) : (sendFrm s m nevt).boot = s.boot := by
  unfold sendFrm
  split <;> simp

/-! ### Memory tests -/

@[simp] theorem setSpare_boot (s : State) (b k v : Nat) : (setSpare s b k v).boot = s.boot := by simp [setSpare]

@[simp] theorem readTableWords_boot (s : State) (l : List Nat) : (readTableWords s l).1.boot = s.boot := by
  fun_induction readTableWords s l <;> grind [memSwap_boot]

@[simp] theorem readTables_boot (s : State) : (readTables s).boot = s.boot := by
  unfold readTables
  grind [readTableWords_boot, raiseIrq_boot, setFlag_boot, raiseGloss_boot]

/-! ### The steps of a frame -/

@[simp] theorem applyAtEpoch_boot (s : State) : (applyAtEpoch s).boot = s.boot := by
  unfold applyAtEpoch
  grind [onTense_boot, timerGo_boot, transportEvent_boot]

@[simp] theorem setEpoch_boot (s : State) (at' : DWord) : (setEpoch s at').boot = s.boot := by simp [setEpoch]

@[simp] theorem atFrame_boot (s : State) (k : Nat) (f : State → State) (hf : ∀ s, (f s).boot = s.boot) :
    (atFrame s k f).boot = s.boot := by
  unfold atFrame
  grind

@[simp] theorem stepOne_boot (s : State) (k : Nat) : (stepOne s k).boot = s.boot := by simp [stepOne]

@[simp] theorem stepsTwo_boot (s : State) (k : Nat) : (stepsTwo s k).boot = s.boot := by simp [stepsTwo]

@[simp] theorem tryStepOne_boot (s : State) : (tryStepOne s).boot = s.boot := by
  unfold tryStepOne
  grind [atFrame_boot, stepOne_boot]

@[simp] theorem tryStepTwo_boot (s : State) : (tryStepTwo s).boot = s.boot := by
  unfold tryStepTwo
  grind [atFrame_boot, stepsTwo_boot]

@[simp] theorem catchUp_boot (s : State) : (catchUp s).boot = s.boot := by
  unfold catchUp
  split <;> simp

/-! ### A Verb runs -/

@[simp] theorem showFrozen_boot (s : State) (v : Nat) : (showFrozen s v).boot = s.boot := by
  unfold showFrozen
  split
  · exact wr_boot _ _ _
  · exact wr_boot _ _ _

@[simp] theorem haltVerb_boot (s : State) (v cause k : Nat) : (haltVerb s v cause k).boot = s.boot := by simp [haltVerb]

@[simp] theorem requestHalt_boot (s : State) (v : Nat) (atYield : Bool) : (requestHalt s v atYield).boot = s.boot := by
  unfold requestHalt
  grind [setFlag_boot, onVerb_boot, haltVerb_boot]

@[simp] theorem resumeVerb_boot (s : State) (v : Nat) : (resumeVerb s v).boot = s.boot := by
  unfold resumeVerb
  grind [clrFlag_boot, onVerb_boot, noteFirst_boot]

@[simp] theorem fetchInstr_boot (s : State) (v : Nat) : (fetchInstr s v).1.boot = s.boot := by
  have loaded := memLoad_boot s (16 + v) (localAddr v (8 * (bankOfVerb s v).pc)) 8
  rw [fetchInstr]
  generalize memLoad s (16 + v) (localAddr v (8 * (bankOfVerb s v).pc)) 8 = r at loaded ⊢
  obtain ⟨t, d, bad, n⟩ := r
  rw [spend_boot, loaded]

@[simp] theorem stepVerb_boot (s : State) (v : Nat) : (stepVerb s v).boot = s.boot := by
  have fetched := fetchInstr_boot s v
  unfold stepVerb
  generalize fetchInstr s v = r at fetched ⊢
  dsimp only
  split
  · exact refuse_boot _ _ _
  · split
    · rfl
    · rw [catchUp_boot, haltVerb_boot]
      split
      · rw [abortFrame_boot, overCheck_boot, fetched]
      · split
        · rw [abortFrame_boot, overCheck_boot, fetched]
        · rw [issueAlways_boot, overCheck_boot, fetched]

/-! ### Fuses -/

@[simp] theorem fuseResult_boot (s : State) (r : Nat) : (fuseResult s r).boot = s.boot := by
  unfold fuseResult
  grind [wrFld_boot, raiseIrq_boot, setFlag_boot]

@[simp] theorem fuseProgram_boot (s : State) (w : Nat) : (fuseProgram s w).boot = s.boot := by
  unfold fuseProgram
  grind [fuseResult_boot, setFlag_boot, clrFlag_boot]

/-! ### Declarations and Syntaxes of an image -/

@[simp] theorem readDecls_boot (n : Nat) (bs : List Byte) (s : State) : (readDecls n bs s).boot = s.boot := by
  fun_induction readDecls n bs s <;> grind [raiseGloss_boot]

@[simp] theorem applyDecls_boot (s : State) (verb : List Byte) : (applyDecls s verb).boot = s.boot := by simp [applyDecls]

@[simp] theorem rejectRecord_boot (s : State) (sid reason index : Nat) : (rejectRecord s sid reason index).boot = s.boot := by
  unfold rejectRecord
  grind [raiseGloss_boot, setFlag_boot]

@[simp] theorem readRecord_boot (payload : List Byte) (s : State) (dir : Nat) : (readRecord payload s dir).boot = s.boot := by
  unfold readRecord
  grind [rejectRecord_boot, clrFlag_boot, setFlag_boot]

@[simp] theorem applySyntaxes_boot (s : State) (payload : List Byte) : (applySyntaxes s payload).boot = s.boot := by
  unfold applySyntaxes
  dsimp only
  split
  · rw [raiseGloss_boot, foldl_boot (fun t i => by simp)]
  · rw [foldl_boot (readRecord_boot payload), foldl_boot (fun t i => by simp)]

@[simp] theorem checkFeeds_boot (s : State) : (checkFeeds s).boot = s.boot := by
  unfold checkFeeds
  split
  rename_i t passed checked
  refine (congrArg (·.1.boot) checked).symm.trans (foldl_pair_boot (fun p n => ?_) _ _)
  dsimp only
  split
  · rfl
  · split
    · rfl
    · exact (raiseGloss_boot _ _ _ _ _).trans (clrFlag_boot _ _ _)

/-! ### Maps and waves of an image -/

@[simp] theorem logMap_boot (s : State) (table index off : Nat) : (logMap s table index off).boot = s.boot := by simp [logMap]

@[simp] theorem mapRecords_boot {α : Type} (s : State) (table : Nat) (recs : List (Option Nat × α)) :
    (mapRecords s table recs).1.boot = s.boot := by
  unfold mapRecords
  refine foldl_pair_boot (fun p x => ?_) _ _
  obtain ⟨i, bad, y⟩ := x
  cases bad <;> simp

@[simp] theorem controlRecords_boot (s : State) (bs : List Byte) (off n : Nat) : (controlRecords s bs off n).1.boot = s.boot := by
  unfold controlRecords
  split
  rename_i t cs holds read
  refine (congrArg (·.1.boot) read).symm.trans (foldl_pair_boot (fun p i => ?_) _ _)
  dsimp only
  split <;> simp

@[simp] theorem applyEvmap_boot (s : State) (bs : List Byte) : (applyEvmap s bs).boot = s.boot := by
  unfold applyEvmap
  split <;> simp

@[simp] theorem applyWaves_boot (s : State) (bs : List Byte) (load : Bool) : (applyWaves s bs load).boot = s.boot := by
  unfold applyWaves
  extract_lets n
  split
  rename_i t ws read
  refine (congrArg (·.1.boot) read).symm.trans (foldl_pair_boot (fun p i => ?_) _ _)
  dsimp only
  split <;> simp

@[simp] theorem loadHeads_boot (s : State) : (loadHeads s).boot = s.boot := by
  unfold loadHeads
  exact foldl_boot (fun s x => by grind [putBytes_boot]) _ _

@[simp] theorem calTerms_boot (s : State) (b : List Byte) : (calTerms s b).boot = s.boot := by simp [calTerms]

@[simp] theorem applyStore_boot (s : State) (bs : Option (List Byte)) (ilen : Nat) : (applyStore s bs ilen).boot = s.boot := by
  unfold applyStore
  grind [clrFlag_boot, raiseGloss_boot, setFlag_boot]

/-! ### Clocks and time -/

@[simp] theorem clockDue_boot (s : State) (ao : Bool) (cause : Nat) : (clockDue s ao cause).boot = s.boot := by
  unfold Machine.clockDue
  split <;> rfl

@[simp] theorem applyClockDue_boot (s : State) : (applyClockDue s).boot = s.boot := by
  unfold applyClockDue
  split <;> simp

@[simp] theorem timeTick_boot (s : State) : (timeTick s).boot = s.boot := by simp [timeTick, foldl_boot]

@[simp] theorem latchUpper_boot (s : State) (c : CountReg) : (latchUpper s c).boot = s.boot := by simp [latchUpper]

@[simp] theorem sampleTick_boot (s : State) : (sampleTick s).boot = s.boot := by simp [sampleTick, foldl_boot]

@[simp] theorem sampleStep_boot (s : State) : (sampleStep s).boot = s.boot := by
  unfold sampleStep
  split <;> simp

@[simp] theorem sampleBefore_boot (s : State) (instant : DWord) : (sampleBefore s instant).boot = s.boot := by
  unfold sampleBefore
  grind [sampleStep_boot]

@[simp] theorem renumberWork_boot (s : State) : (renumberWork s).boot = s.boot := by simp [renumberWork]

@[simp] theorem rebaseEvent_boot (delta : DWord) (s : State) (q : QueuedEv) : (rebaseEvent delta s q).1.boot = s.boot := by
  unfold rebaseEvent
  grind [countUp_boot, raiseGloss_boot, voidFrame_boot]

@[simp] theorem rebaseEvents_boot (s : State) (delta : DWord) : (rebaseEvents s delta).boot = s.boot := by
  unfold rebaseEvents
  split
  rename_i t qs moved
  have kept : t.boot = s.boot := by
    refine (congrArg (·.1.boot) moved).symm.trans (foldl_pair_boot (fun p q => ?_) _ _)
    exact rebaseEvent_boot _ _ _
  refine (foldl_boot (fun u q => ?_) _ _).trans kept
  split
  · rfl
  · exact exportEvent_boot _ _

@[simp] theorem rebaseTense_boot (s : State) (delta : DWord) : (rebaseTense s delta).boot = s.boot := by simp [rebaseTense]

@[simp] theorem restartGrid_boot (before : Option DWord) (s : State) : (restartGrid before s).boot = s.boot := by simp [restartGrid]

@[simp] theorem logSync_boot (s : State) (instant delta : DWord) : (logSync s instant delta).boot = s.boot := by simp [logSync]

@[simp] theorem syncRendering_boot (s : State) (instant : DWord) : (syncRendering s instant).boot = s.boot := by
  unfold syncRendering
  grind [abortLate_boot, reportVoids_boot, swapMix_boot, logSync_boot, setEpoch_boot, renumberWork_boot, clrFlag_boot, voidFrame_boot,
    restartGrid_boot, rebaseTense_boot, rebaseEvents_boot]

@[simp] theorem takeSync_boot (s : State) (instant : DWord) : (takeSync s instant).boot = s.boot := by
  unfold takeSync
  grind [sampleBefore_boot, syncRendering_boot, setEpoch_boot, holdPosition_boot, restartGrid_boot, applyAtEpoch_boot, clrFlag_boot]

@[simp] theorem sendSync_boot (s : State) (new : Bool) : (sendSync s new).boot = s.boot := by simp [sendSync]

@[simp] theorem ownSync_boot (s : State) (instant : DWord) : (ownSync s instant).boot = s.boot := by
  unfold ownSync
  grind [takeSync_boot, sendSync_boot]

@[simp] theorem syncCommand_boot (s : State) : (syncCommand s).boot = s.boot := by simp [syncCommand]

/-! ### Register reads -/

@[simp] theorem accessReg_boot (s : State) (a : Nat) : (accessReg s a).1.boot = s.boot := by
  unfold accessReg
  grind [readRxd_boot, latchUpper_boot, refuse_boot]

@[simp] theorem readWord32_boot (s : State) (req a : Nat) : (readWord32 s req a).1.boot = s.boot := by
  unfold readWord32
  grind [busErr_boot, accessReg_boot, memLoad_boot, drawFree_boot]

/-! ### Register writes -/

@[simp] theorem stageValue_boot (s : State) (d : RegDesc) (a : Nat) (v : Word) : (stageValue s d a v).boot = s.boot := by
  unfold stageValue
  grind [masksChanged_boot, applyOne_boot]

@[simp] theorem plainWrite_boot (s : State) (d : RegDesc) (a : Nat) (v : Word) : (plainWrite s d a v).boot = s.boot := by
  unfold plainWrite
  grind [wr_boot, stageValue_boot]

@[simp] theorem clearErr_boot (s : State) (a : Nat) (v : Word) : (clearErr s a v).boot = s.boot := by
  unfold clearErr
  grind [wr_boot, clrFlag_boot]

@[simp] theorem clearRecord_boot (s : State) (a beside : Nat) (v : Word) : (clearRecord s a beside v).boot = s.boot := by
  unfold clearRecord
  grind [wr_boot, clrFlag_boot]

@[simp] theorem afterWrite_boot (s : State) (a : Nat) (old v : Word) : (afterWrite s a old v).boot = s.boot := by
  unfold afterWrite
  grind [selectSource_boot, internalTempo_boot, afterSpCfg_boot, afterBaud_boot, afterSpCtl_boot, afterDacCh_boot, afterCvCh_boot,
    enableDetector_boot, cutChannels_boot]

@[simp] theorem clrMax_boot (s : State) : (clrMax s).boot = s.boot := by simp [clrMax]

@[simp] theorem resumeRing_boot (s : State) : (resumeRing s).boot = s.boot := by simp [resumeRing]

@[simp] theorem writeVctl_boot (s : State) (n : Nat) (v : Word) : (writeVctl s n v).boot = s.boot := by
  unfold writeVctl
  grind [refuse_boot, wrFld_boot, resumeVerb_boot, stepVerb_boot, requestHalt_boot]

@[simp] theorem divergeFrozen_boot (s : State) (n : Nat) : (divergeFrozen s n).boot = s.boot := by
  unfold divergeFrozen
  split <;> simp

@[simp] theorem writeVrdata_boot (s : State) (n : Nat) (v : Word) : (writeVrdata s n v).boot = s.boot := by
  unfold writeVrdata
  split <;> simp

@[simp] theorem writeScmd_boot (s : State) (v : Word) : (writeScmd s v).boot = s.boot := by
  unfold writeScmd
  grind [startStore_boot, storeResult_boot, wrFld_boot, fillSbuf_boot, refuse_boot]

@[simp] theorem writeFcmd_boot (s : State) (v : Word) : (writeFcmd s v).boot = s.boot := by
  unfold writeFcmd
  grind [refuse_boot, clrFlag_boot, startFlash_boot]

@[simp] theorem writeReload_boot (s : State) (v : Word) : (writeReload s v).boot = s.boot := by
  unfold writeReload
  split <;> simp

@[simp] theorem writeRctl_boot (s : State) (v : Word) : (writeRctl s v).boot = s.boot := by
  unfold writeRctl
  grind [refuse_boot, wrFld_boot, clrFlag_boot]

@[simp] theorem clearFail_boot (s : State) (v : Word) : (clearFail s v).boot = s.boot := by
  unfold clearFail
  split <;> simp

@[simp] theorem writePctl_boot (s : State) (fromLink : Bool) (v : Word) : (writePctl s fromLink v).boot = s.boot := by
  unfold writePctl
  grind [refuse_boot, fuseProgram_boot]

@[simp] theorem writeGlossCtl_boot (s : State) (v : Word) : (writeGlossCtl s v).boot = s.boot := by
  unfold writeGlossCtl
  grind [wrFld_boot, glossFreeze_boot, glossResume_boot]

@[simp] theorem writeAdcCtrl_boot (s : State) (v : Word) : (writeAdcCtrl s v).boot = s.boot := by
  unfold writeAdcCtrl
  grind [wrFld_boot, cutChannels_boot, syncCommand_boot]

theorem recordCommand_boot (s : State) (a : Nat) (v : Word) : ∀ t, recordCommand s a v = some t → t.boot = s.boot := by
  unfold recordCommand
  grind [clearErr_boot, clearRecord_boot, resumeRing_boot, wr_boot]

theorem serialCommand_boot (s : State) (a : Nat) (v : Word) : ∀ t, serialCommand s a v = some t → t.boot = s.boot := by
  unfold serialCommand
  split <;> simp

@[simp] theorem noteRefusal_boot (s : State) (a : Nat) (v : Word) : (noteRefusal s a v).boot = s.boot := by
  unfold noteRefusal
  grind [setFlag_boot]

@[simp] theorem plainOn_boot (s : State) (d : RegDesc) (a : Nat) (v : Word) : (plainOn s d a v).boot = s.boot := by
  unfold plainOn
  grind [refuse_boot, noteRefusal_boot, afterWrite_boot, plainWrite_boot]

/-! ### Boot -/

@[simp] theorem logEntry_boot (s : State) (list i cause : Nat) : (logEntry s list i cause).boot = s.boot := by simp [logEntry]

@[simp] theorem passTime_boot (n : Nat) (s : State) : (passTime n s).boot = s.boot := by
  fun_induction passTime n s <;> grind [applyClockDue_boot, timeTick_boot]

@[simp] theorem waitReg_boot (a : Nat) (m v : Word) (n : Nat) (s : State) : (waitReg a m v n s).1.boot = s.boot := by
  fun_induction waitReg a m v n s <;> grind [readWord32_boot, applyClockDue_boot, timeTick_boot]

@[simp] theorem showRepairs_boot (s : State) : (showRepairs s).boot = s.boot := by simp [showRepairs, foldl_boot]

@[simp] theorem uniteRepairs_boot (s : State) : (uniteRepairs s).boot = s.boot := by simp [uniteRepairs]

@[simp] theorem loadPrograms_boot (s : State) (verb : List Byte) (vs : List Nat) : (loadPrograms s verb vs).boot = s.boot := by
  simp [loadPrograms, foldl_boot]

@[simp] theorem loadContent_boot (s : State) (img : List Byte) (skip : Bool) : (loadContent s img skip).boot = s.boot := by
  unfold loadContent
  grind [applyWaves_boot, loadHeads_boot, loadPrograms_boot]

/-! ### What a DEVICE list and the sections of an image can do to a boot that has not ended -/

/-- The boot has not ended. -/
abbrev Booting (s : State) : Prop := s.boot.complete = false

section Booting
variable {s : State}

theorem Booting.of_boot {t : State} (h : Booting s) (kept : t.boot = s.boot) : Booting t := (congrArg BootSt.complete kept).trans h

theorem booting_deviceReset (cause : Nat) : Booting (deviceReset s cause) := by
  unfold deviceReset
  grind [wrFld_boot]

theorem booting_pwrRequest (h : Booting s) (req : Nat) : Booting (pwrRequest s req) := by
  have busy := setFlag_boot s R.pwrStat 3
  unfold pwrRequest
  generalize setFlag s R.pwrStat 3 = u at busy ⊢
  dsimp only
  split
  · exact h.of_boot (refuse_boot _ _ _)
  · split
    · exact h.of_boot (refuse_boot _ _ _)
    · split
      · split
        · exact h.of_boot busy
        · split
          · exact h.of_boot (latchWake_boot _ _)
          · exact h.of_boot (refuse_boot _ _ _)
      · rw [if_pos (Or.inr (by simp [h]))]
        exact h.of_boot (refuse_boot _ _ _)
      · exact booting_deviceReset _
      · split
        · exact h.of_boot busy
        · exact h.of_boot (refuse_boot _ _ _)

theorem booting_writePwrCmd (h : Booting s) (v : Word) : Booting (writePwrCmd s v) := by
  unfold writePwrCmd
  split
  · exact h.of_boot (refuse_boot _ _ _)
  · exact booting_pwrRequest h _

theorem booting_powerCommand (h : Booting s) (a : Nat) (v : Word) : ∀ t, powerCommand s a v = some t → Booting t := by
  have command := booting_writePwrCmd h v
  intro t
  unfold powerCommand
  grind [writeDomen_boot, writePadrel_boot, clearVinmin_boot, clearFail_boot, writeScmd_boot, writeFcmd_boot, writeReload_boot, refuse_boot]

theorem booting_iteSome {c : Prop} [Decidable c] {u : State} {y : Option State} (now : Booting u)
    (otherwise : ∀ t, y = some t → Booting t) : ∀ t, (if c then some u else y) = some t → Booting t := by
  split
  · exact fun t e => Option.some.inj e ▸ now
  · exact otherwise

theorem booting_commandReg (h : Booting s) (fromLink : Bool) (a : Nat) (v : Word) :
    ∀ t, commandReg s fromLink a v = some t → Booting t := by
  have power := booting_powerCommand h a v
  have record := recordCommand_boot s a v
  have serial := serialCommand_boot s a v
  have maxima : Booting (if bitOf v 31 then clrMax s else s) := by
    split
    · exact h.of_boot (clrMax_boot s)
    · exact h
  unfold commandReg
  refine booting_iteSome (h.of_boot (writeHwin_boot _ _)) ?_
  refine booting_iteSome (h.of_boot (writeMwin_boot _ _)) ?_
  refine booting_iteSome (h.of_boot (timerGo_boot _ _)) ?_
  refine booting_iteSome maxima ?_
  refine booting_iteSome (h.of_boot (writeAdcCtrl_boot _ _)) ?_
  refine booting_iteSome (h.of_boot (writeCdata_boot _ _)) ?_
  refine booting_iteSome (h.of_boot (writeCdelay_boot _ _)) ?_
  refine booting_iteSome (h.of_boot (writeRctl_boot _ _)) ?_
  refine booting_iteSome (h.of_boot (writeGlossCtl_boot _ _)) ?_
  refine booting_iteSome (h.of_boot (glossCommand_boot _ _ _)) ?_
  refine booting_iteSome (h.of_boot (glossRate_boot _ _)) ?_
  refine booting_iteSome (h.of_boot (writePctl_boot _ _ _)) ?_
  intro t
  grind [glossOverride_boot, writeVctl_boot, writeVrdata_boot]

theorem booting_writeOn (h : Booting s) (fromLink : Bool) (d : RegDesc) (a : Nat) (v : Word) : Booting (writeOn s fromLink d a v) := by
  unfold writeOn
  cases named : commandReg s fromLink a v with
  | none => exact h.of_boot (plainOn_boot s d a v)
  | some t => exact booting_commandReg h fromLink a v t named

theorem booting_judged (h : Booting s) (e : Nat) {f : State → State} (kept : ∀ t, Booting t → Booting (f t)) :
    Booting (judged s e f).1 := by
  have judging := kept (wr s e 0) (h.of_boot (wr_boot s e 0))
  unfold judged
  generalize f (wr s e 0) = t at judging ⊢
  dsimp only
  split
  · exact judging.of_boot (wr_boot _ _ _)
  · exact judging.of_boot (wr_boot _ _ _)

theorem booting_writeReg (h : Booting s) (req a : Nat) (v : Word) : Booting (writeReg s req a v).1 := by
  unfold writeReg
  split
  · exact h.of_boot (busErr_boot _ _ _ _ _)
  · split
    · exact h
    · split
      · exact h.of_boot (clearErr_boot _ _ _)
      · split
        · exact booting_deviceReset _
        · exact booting_judged h _ fun t ht => booting_writeOn ht _ _ _ _

theorem booting_listWrite (h : Booting s) (list i a : Nat) (v : Word) : Booting (listWrite s list i a v) := by
  have written := booting_writeReg h 1 a v
  unfold listWrite
  generalize writeReg s 1 a v = r at written ⊢
  dsimp only
  split
  · exact written.of_boot (logEntry_boot _ _ _ _)
  · exact written

theorem booting_listEntry (h : Booting s) (list : Nat) (e : Nat × Nat × Nat × Nat) : Booting (listEntry list s e) := by
  obtain ⟨i, addr, m, v⟩ := e
  have read := readWord32_boot s 1 (addr - addr % 4)
  have met := waitReg_boot (addr - addr % 4) (w32 m) (w32 v) (msCycles s 1) s
  unfold listEntry
  dsimp only
  split
  · exact h.of_boot (passTime_boot _ _)
  · split
    · exact h.of_boot ((logEntry_boot _ _ _ _).trans (busErr_boot _ _ _ _ _))
    · split
      · exact booting_listWrite h _ _ _ _
      · split
        · split
          · exact h.of_boot ((logEntry_boot _ _ _ _).trans read)
          · exact booting_listWrite (h.of_boot read) _ _ _ _
        · split
          · exact h.of_boot ((logEntry_boot _ _ _ _).trans met)
          · split
            · exact h.of_boot met
            · exact h.of_boot ((logEntry_boot _ _ _ _).trans met)

theorem booting_foldl {α : Type} {f : State → α → State} (kept : ∀ t x, Booting t → Booting (f t x)) (h : Booting s) (l : List α) :
    Booting (l.foldl f s) :=
  List.foldlRecOn l f h fun t ht x _ => kept t x ht

theorem booting_runList (h : Booting s) (list : Nat) (bs : List Byte) : Booting (runList s list bs) := by
  unfold runList
  split
  · exact h.of_boot (logEntry_boot _ _ _ _)
  · exact booting_foldl (fun t e ht => booting_listEntry ht list e) h _

theorem booting_writeTense (h : Booting s) (bs : List Byte) : Booting (writeTense s bs) := by
  unfold writeTense
  refine Booting.of_boot ?_ (onTense_boot _ _)
  refine booting_foldl (fun t i ht => ?_) (booting_foldl (fun t e ht => booting_writeReg ht 1 _ _) h _) _
  exact booting_foldl (fun u e hu => booting_writeReg hu 1 _ _) ht _

theorem booting_applyTense (h : Booting s) (bs : Option (List Byte)) : Booting (applyTense s bs) := by
  have written : Booting (match bs with
      | none => s
      | some bs => match tenseFailure bs with
        | some o => raiseGloss s 0x1240 (w32 o) 0 0
        | none => writeTense s bs) := by
    split
    · exact h
    · split
      · exact h.of_boot (raiseGloss_boot _ _ _ _ _)
      · exact booting_writeTense h _
  exact written

theorem booting_applyCal (h : Booting s) (bs : Option (List Byte)) (serial : Nat) : Booting (applyCal s bs serial) := by
  unfold applyCal
  dsimp only
  split
  · exact Booting.of_boot (s := { s with boot := { s.boot with calApplied := true } }) h ((clrFlag_boot _ _ _).trans (calTerms_boot _ _))
  · exact Booting.of_boot (s := { s with boot := { s.boot with calApplied := true } }) h
      ((raiseGloss_boot _ _ _ _ _).trans ((setFlag_boot _ _ _).trans (calTerms_boot _ _)))

/-- The sections of an image and its DEVICE list leave the boot unended: a reset of the list's begins it anew. -/
theorem booting_configure (h : Booting s) (img : List Byte) : Booting (configure s img) := by
  unfold configure
  extract_lets boot t u boot' w x y evt z
  have begun : Booting t := h
  have listed : Booting u := by
    unfold u
    split
    · exact booting_runList begun 0 _
    · exact begun
  have declared : Booting x := Booting.of_boot (s := w) listed (applyDecls_boot _ _)
  have placed : Booting y := declared.of_boot ((checkFeeds_boot _).trans (applySyntaxes_boot _ _))
  have mapped : Booting z := by
    unfold z
    split
    · exact placed.of_boot (applyEvmap_boot _ _)
    · exact placed
  exact booting_applyCal (booting_applyTense mapped _) _ _

theorem booting_loadContent (h : Booting s) (img : List Byte) (skip : Bool) : Booting (loadContent s img skip) :=
  h.of_boot (loadContent_boot s img skip)

theorem booting_clearMemories (h : Booting s) : Booting (clearMemories s) := h

theorem booting_uniteRepairs (h : Booting s) : Booting (uniteRepairs s) := h.of_boot (uniteRepairs_boot s)

theorem booting_applyStore (h : Booting s) (bs : Option (List Byte)) (ilen : Nat) : Booting (applyStore s bs ilen) :=
  h.of_boot (applyStore_boot s bs ilen)

end Booting
end Sys2Proof.BootKept

/-! PROOFS. Boot, boot failure, reload and the program of a Verb domain (R415, R416, R419, R435, R436, R445, R455). -/

namespace Sys2Proof.Boots
open Sys2Proof.Machine Sys2Proof.Laws Sys2Proof.Architecture Sys2Proof.Answers Sys2Proof.Booted Sys2Proof.BootKept
open Sys2Proof.SerialPorts (flag_congr fld_congr)

/-! ### Steps 3 and 4 (R14, R416, R484) -/

section Steps
variable {s : State} {crystal : Bool}

/-- The registers that steps 3 and 4 write. -/
def hearRegs : List Nat := R.clkStat :: R.nvmBoot :: R.fusePerr :: baudRegs ++ (List.range 16).map (R.fuseWord + 4 * ·) ++ glossRegs

/-- What step 3 leaves: the host is heard, and the family is the crystal's. -/
structure HostHeard (s t : State) (crystal : Bool) : Prop where
  boot   : t.boot = { s.boot with ready := true }
  time   : t.time = { s.time with familyOpen := s.boot.ready && s.time.familyOpen }
  family : s.boot.ready = false → flag t R.clkStat 3 = crystal
  frame  : Touches [.boot, .power, .time, .sp, .gloss] hearRegs s t

/-- The family is shown, and the ports follow it. -/
def familyTaken (s : State) (crystal : Bool) : State :=
  wrFld (wrFld (familyPorts (wrFld s R.clkStat 3 3 (b2n crystal))) R.clkStat 5 4 0) R.nvmBoot 7 4 3

theorem stepThree_eq (cold : s.boot.ready = false) : stepThree s crystal = startCharger { familyTaken s crystal with
    boot := { (familyTaken s crystal).boot with ready := true }, time := { (familyTaken s crystal).time with familyOpen := false } } := by
  rw [stepThree, cold]
  rfl

theorem touches_familyTaken : Touches [.sp] (R.clkStat :: R.nvmBoot :: baudRegs) s (familyTaken s crystal) := by
  have shown : Touches [.sp] (R.clkStat :: R.nvmBoot :: baudRegs) s (wrFld s R.clkStat 3 3 (b2n crystal)) := touches_wrFld touches_rfl _ _ _ (by simp)
  have ports := touches_trans shown (touches_mono (familyPorts_facts _).1 (List.Subset.refl _)
    (List.subset_cons_of_subset _ (List.subset_cons_self _ _)))
  exact touches_wrFld (touches_wrFld ports _ _ _ (by simp)) _ _ _ (by simp)

theorem family_familyTaken : flag (familyTaken s crystal) R.clkStat 3 = crystal := by
  rw [familyTaken, flag_wrFld_ne (by decide), flag_wrFld_apart (by decide) (by decide) (by decide), flag_familyPorts (by decide),
    flag_wrFld (by decide)]
  cases crystal <;> decide

theorem touches_readFuse {w : Nat} (known : w < 16) :
    Touches [.gloss] (R.fusePerr :: (List.range 16).map (R.fuseWord + 4 * ·) ++ glossRegs) s (readFuse s w) := by
  have word : R.fuseWord + 4 * w ∈ R.fusePerr :: (List.range 16).map (R.fuseWord + 4 * ·) ++ glossRegs := by
    have all : ∀ w, w < 16 → R.fuseWord + 4 * w ∈ R.fusePerr :: (List.range 16).map (R.fuseWord + 4 * ·) ++ glossRegs := by decide
    exact all w known
  exact touches_ite (touches_wr touches_rfl _ word) (touches_raiseGloss (touches_setFlag (touches_wr touches_rfl _ word) _ (by simp)) _ _ _ _
    (by decide) (by decide))

theorem touches_readFuses : Touches [.gloss] (R.fusePerr :: (List.range 16).map (R.fuseWord + 4 * ·) ++ glossRegs) s (readFuses s) :=
  touches_foldl (touches_wrFld touches_rfl _ _ _ (by simp)) fun _ _ hw h => touches_trans h (touches_readFuse (List.mem_range.1 hw))

theorem hostHeard : HostHeard s (readFuses (stepThree s crystal)) crystal := by
  have fuses := touches_readFuses (s := stepThree s crystal)
  have fuses' := touches_mono fuses (ps := [.boot, .power, .time, .sp, .gloss]) (rs := hearRegs)
    (by decide) (by decide)
  cases ready : s.boot.ready with
  | true =>
    have same : stepThree s crystal = s := by rw [stepThree, if_pos ready]
    rw [same] at fuses fuses' ⊢
    refine ⟨?_, ?_, fun cold => absurd cold (by rw [ready]; decide), fuses'⟩
    · rw [fuses.parts.boot (by decide), ← ready]
    · rw [fuses.parts.time (by decide), ready, Bool.true_and]
  | false =>
    have heard := stepThree_eq (crystal := crystal) ready
    have taken := touches_familyTaken (s := s) (crystal := crystal)
    refine ⟨?_, ?_, fun _ => ?_, ?_⟩
    · rw [fuses.parts.boot (by decide), heard, startCharger, taken.parts.boot (by decide)]
    · rw [fuses.parts.time (by decide), heard, startCharger, taken.parts.time (by decide), ready, Bool.false_and]
    · rw [flag_congr (fuses.regs _ (by decide)), heard, startCharger, flag_lit]
      exact family_familyTaken
    · have began : Touches [.boot, .power, .time, .sp, .gloss] hearRegs s (stepThree s crystal) := by
        have wide := touches_mono taken (ps := [.boot, .power, .time, .sp, .gloss]) (rs := hearRegs) (by decide) (by decide)
        generalize familyTaken s crystal = f at wide heard
        have begun : Touches [.boot, .power, .time, .sp, .gloss] hearRegs s
            { f with boot := { f.boot with ready := true }, time := { f.time with familyOpen := false } } :=
          touches_time (touches_boot wide { f.boot with ready := true } (by decide)) { f.time with familyOpen := false } (by decide)
        rw [heard]
        exact touches_power begun _ (by decide)
      exact touches_trans began fuses'

end Steps

/-! ### Steps 5 to 13 (R416) -/

/-- A boot that has ended has the epoch still to set, and has raised its interrupt. -/
def EndShown (t : State) : Prop := t.boot.complete = true → t.time.epochSet = false ∧ flag t R.sysIrqstat 8 = true

section Ends
variable {s : State}

theorem endShown_of_booting (h : Booting s) : EndShown s := fun complete => absurd (h.symm.trans complete) (by decide)

theorem booting_bootFailure {step : Nat} (reason : Option Nat) (early : step ≤ 8) : Booting (bootFailure s step reason) :=
  (bootFailure_ends step reason early).2

theorem endShown_bootFailure {step : Nat} (reason : Option Nat) (early : step ≤ 8) : EndShown (bootFailure s step reason) :=
  endShown_of_booting (booting_bootFailure reason early)

theorem discoverFlash_boot (s : State) : (discoverFlash s).boot = s.boot := by
  simp [discoverFlash]

theorem discovered_boot (s : State) : (discovered s).boot = s.boot := by
  unfold discovered
  split
  · exact discoverFlash_boot s
  · rfl

theorem acceptImage_boot (s : State) (img : List Byte) (link : Bool) : (acceptImage s img link).boot = s.boot := by
  unfold acceptImage
  grind [familyPorts_boot, wrFld_boot, wr_boot, onTense_boot]

theorem booting_imageChecked (h : Booting s) (img : List Byte) (link skip : Bool) : Booting (imageChecked s img link skip).1 := by
  unfold imageChecked
  split
  · rename_i faulty
    exact booting_bootFailure _ (imageFault_step faulty)
  · exact h.of_boot (acceptImage_boot s img link)

theorem booting_checkedImage (h : Booting s) (link retained : Bool) : Booting (checkedImage s link retained).1 := by
  obtain ⟨d, hd⟩ : ∃ d, d = discovered s := ⟨_, rfl⟩
  have found : Booting d := hd ▸ h.of_boot (discovered_boot s)
  have value := checkedImage_eq (s := s) link retained
  rw [← hd] at value
  by_cases unread : !link ∧ !d.flash.responds
  · have failed := congrArg (fun r => r.1.boot.complete) (value.trans (if_pos unread))
    exact failed.trans (booting_bootFailure (some 0) (by decide))
  · have read := congrArg (fun r => r.1.boot.complete) (value.trans (if_neg unread))
    exact read.trans (booting_imageChecked found _ _ _)

theorem epoch_interruptMode (link : Bool) : (enterInterruptMode s link).time.epochSet = false := by
  obtain ⟨e, he⟩ : ∃ e, e = interruptEntered s link := ⟨_, rfl⟩
  have value : enterInterruptMode s link = startLinks (startRendering e 0) link := he ▸ rfl
  have entered : e.time.epochSet = false := by rw [he, interruptEntered, wrFld_time, wr_time]
  rw [value, (linksStarted_startLinks link).parts.time (by decide), Rendering.touches_rendering.parts.time (by decide)]
  exact entered

theorem endShown_finishBoot (link : Bool) (fails : Nat) : EndShown (finishBoot s link fails) := by
  intro _
  obtain ⟨u, hu⟩ : ∃ u, u = [11, 13, 15].foldl (fun t b => clrFlag t R.pwrDomstat b) (enterInterruptMode (selfTests s fails) link) := ⟨_, rfl⟩
  have value : finishBoot s link fails = scanStore (raiseIrq (openAllParks u) 8) := by rw [finishBoot, hu]
  have unset : u.time.epochSet = false := by
    rw [hu, List.foldl_cons, List.foldl_cons, List.foldl_cons, List.foldl_nil, clrFlag_time, clrFlag_time, clrFlag_time]
    exact epoch_interruptMode link
  have scanned := touches_scanStore (s := raiseIrq (openAllParks u) 8)
  rw [value]
  refine ⟨?_, ?_⟩
  · rw [scanned.parts.time (by decide), raiseIrq_time, touches_openAllParks.parts.time (by decide), unset]
  · rw [flag_congr (scanned.regs _ (by decide))]
    exact flag_setFlag _ _ _ (by decide)

theorem bootFromFive_endShown (h : Booting s) (link : Bool) (fails : Nat) : EndShown (bootFromFive s link fails) := by
  unfold bootFromFive
  have checked := booting_checkedImage h link false
  generalize checkedImage s link false = r at checked
  obtain ⟨t, image⟩ := r
  cases image with
  | none => exact endShown_of_booting checked
  | some image =>
    obtain ⟨img, skip⟩ := image
    have configured := booting_configure (booting_loadContent (booting_clearMemories (booting_uniteRepairs
      (booting_applyStore checked (sectionBytes img 9) (fieldAt img 8 4)))) img false) img
    dsimp only
    generalize configure _ img = c at configured
    split
    · exact endShown_of_booting configured
    · exact endShown_finishBoot link fails

theorem bootFromFour_endShown (h : Booting s) (link : Bool) (fails : Nat) (out : List BootStep) : EndShown (bootFromFour s link fails out) := by
  have read : Booting (readFuses s) := h.of_boot (touches_readFuses.parts.boot (by decide))
  unfold bootFromFour
  dsimp only
  split
  · exact endShown_bootFailure _ (by decide)
  · split
    · exact endShown_bootFailure _ (by decide)
    · refine bootFromFive_endShown ?_ _ _
      split
      · exact read.of_boot ((raiseGloss_boot _ _ _ _ _).trans (drawFree_boot _))
      · exact read

end Ends

/-! ### A flash that does not answer (R415, R419) -/

section Unread
variable {s : State} {crystal : Bool} {fails : BitVec 16}

/-- What the boot-failure state of a device without LBOOT leaves. -/
structure BootFailed (s t : State) (step reason : Nat) : Prop where
  shown   : rd t R.nvmBoot = w32 (0x80000000 + (w32 reason).toNat % 256 * 65536 + step * 16)
  domains : ∀ d ∈ [1, 2, 4, 5, 6, 7], domainOn t d = false
  boot    : t.boot = { s.boot with ready := true, complete := false, interruptMode := false, reloading := false }
  irq     : flag t R.sysIrqstat 8 = true
  time    : t.time = s.time
  flash   : t.flash = s.flash
  fuse    : t.fuse = s.fuse
  family  : flag t R.clkStat 3 = flag s R.clkStat 3

theorem bootFailure_failed {step reason : Nat} (alone : flag s R.linkCfg 2 = false) : BootFailed s (bootFailure s step (some reason)) step reason := by
  have value := bootFailure_eq (s := s) step (some reason)
  have domains : failureDomains s = [1, 2, 4, 5, 6, 7] := by rw [failureDomains, alone]; rfl
  rw [alone, Bool.not_false, if_pos rfl, domains] at value
  have shed : Domains.Shed false [1, 2, 4, 5, 6, 7] s ([1, 2, 4, 5, 6, 7].foldl dropDomain s) :=
    Domains.shed_all fun _ d hd => Domains.shed_dropDomain (by revert hd; simp; omega) (.inr (by rintro rfl; exact absurd hd (by decide)))
  obtain ⟨e, he⟩ : ∃ e, e = [1, 2, 4, 5, 6, 7].foldl dropDomain s := ⟨_, rfl⟩
  have value' : bootFailure s step (some reason) = bootEnded (failureShown e step (w32 reason)) := he ▸ value
  rw [← he] at shed
  have shown : Touches [] [R.nvmBoot, R.sysIrqstat, R.pwrStat] e (failureShown e step (w32 reason)) :=
    touches_clrFlag (touches_wrFld (touches_raiseIrq (touches_wr touches_rfl _ (by simp)) _ (by simp)) _ _ _ (by simp)) _ (by simp)
  have ended : Touches [.boot] [R.nvmBoot, R.sysIrqstat, R.pwrStat] e (bootEnded (failureShown e step (w32 reason))) :=
    touches_boot (touches_mono shown (List.nil_subset _) (List.Subset.refl _)) _ (by decide)
  rw [value']
  refine ⟨?_, fun d hd => ?_, ?_, ?_, ?_, ?_, ?_, ?_⟩
  · rw [bootEnded, rd_lit, nvmBoot_failureShown]
  · have off : domainOn e d = false := by
      rw [shed.domain d (by revert hd; simp; omega), List.contains_iff_mem.2 hd, Bool.not_true, Bool.and_false]
    rw [← off]
    exact flag_congr (ended.regs _ (by decide))
  · rw [bootEnded, shown.parts.boot (by decide), shed.boot]
  · rw [bootEnded, flag_lit, failureShown, clrFlag_eq, flag_wrFld_ne (by decide), flag_wrFld_ne (by decide)]
    exact flag_setFlag _ _ _ (by decide)
  · rw [ended.parts.time (by decide), shed.time]
  · rw [ended.parts.flash (by decide), shed.flash]
  · rw [ended.parts.fuse (by decide), shed.fuse]
  · rw [flag_congr (ended.regs _ (by decide))]
    exact flag_congr (shed.kept _ (by decide) (by decide))

/-- A boot that has failed once the host was heard. -/
theorem bootFailed_heard {a b t : State} {step reason : Nat} {x : Word} (heard : HostHeard s a crystal) (logged : Touches [.gloss] glossRegs a b)
    (failed : BootFailed b t step reason) (word : w32 (0x80000000 + (w32 reason).toNat % 256 * 65536 + step * 16) = x) (begun : s.boot.reloading = false) :
    rd t R.nvmBoot = x ∧ (s.boot.ready = false → flag t R.clkStat 3 = crystal) ∧ (∀ d ∈ [1, 2, 4, 5, 6, 7], domainOn t d = false) ∧
      t.boot = { s.boot with ready := true, complete := false, interruptMode := false } ∧ flag t R.sysIrqstat 8 = true ∧
      t.time = { s.time with familyOpen := s.boot.ready && s.time.familyOpen } ∧ t.flash = s.flash ∧ t.fuse = s.fuse := by
  refine ⟨failed.shown.trans word, fun cold => ?_, failed.domains, ?_, failed.irq, ?_, ?_, ?_⟩
  · rw [failed.family, flag_congr (logged.regs _ (by decide)), heard.family cold]
  · rw [failed.boot, logged.parts.boot (by decide), heard.boot, ← begun]
  · rw [failed.time, logged.parts.time (by decide), heard.time]
  · rw [failed.flash, logged.parts.flash (by decide), heard.frame.parts.flash (by decide)]
  · rw [failed.fuse, logged.parts.fuse (by decide), heard.frame.parts.fuse (by decide)]

theorem bootPending_reloading (pending : bootPending s = true) : s.boot.reloading = false := by
  unfold bootPending at pending
  simp only [Bool.and_eq_true, Bool.not_eq_true'] at pending
  exact pending.1.1.2

theorem bootFromFour_plain {link : Bool} {n : Nat} : bootFromFour s link n [] = bootFromFive (readFuses s) link n := by
  have none' : ∀ x : BootStep, ([] : List BootStep).contains x = false := fun _ => rfl
  unfold bootFromFour
  dsimp only
  rw [none', none', none', if_neg (by decide), if_neg (by decide), if_neg (by decide), timedOut, List.foldl_nil]

theorem bootFromFive_unread {t : State} {link : Bool} {n : Nat} (h : checkedImage s link false = (t, none)) : bootFromFive s link n = t := by
  rw [bootFromFive, h]

theorem bootFromFour_undiscovered {link : Bool} {n : Nat} :
    bootFromFour s link n [.discovery] = bootFailure (raiseGloss (readFuses s) 0x1110 1 0 0) 5 (some 1) := rfl

theorem bootSequence_unanswered (pending : bootPending s = true) (silent : s.flash.responds = false) (alone : flag s R.linkCfg 2 = false) :
    ∃ t, exec (.bootSequence fails crystal) s = .next t ∧ rd t R.nvmBoot = 0x80000050 ∧
      (s.boot.ready = false → flag t R.clkStat 3 = crystal) ∧ (∀ d ∈ [1, 2, 4, 5, 6, 7], domainOn t d = false) ∧
      t.boot = { s.boot with ready := true, complete := false, interruptMode := false } ∧ flag t R.sysIrqstat 8 = true ∧
      t.time = { s.time with familyOpen := s.boot.ready && s.time.familyOpen } ∧ t.flash = s.flash ∧ t.fuse = s.fuse := by
  obtain ⟨a, ha⟩ : ∃ a, a = readFuses (stepThree s crystal) := ⟨_, rfl⟩
  have heard : HostHeard s a crystal := ha ▸ hostHeard
  have silent' : a.flash.responds = false := by rw [heard.frame.parts.flash (by decide), silent]
  have logged : Touches [.gloss] glossRegs a (raiseGloss a 0x1110 0 0 0) := touches_raiseGloss touches_rfl _ _ _ _ (by decide) (List.Subset.refl _)
  have alone' : flag (raiseGloss a 0x1110 0 0 0) R.linkCfg 2 = false := by
    rw [flag_congr (logged.regs _ (by decide)), flag_congr (heard.frame.regs _ (by decide)), alone]
  have unread : checkedImage a false false = (bootFailure (raiseGloss a 0x1110 0 0 0) 5 (some 0), none) := by
    have unknown : discovered a = a := by rw [discovered, silent', if_neg (by decide)]
    have checked := checkedImage_eq (s := a) false false
    rw [unknown] at checked
    exact checked.trans (if_pos ⟨rfl, by rw [silent']; rfl⟩)
  have value : exec (.bootSequence fails crystal) s = .next (bootFailure (raiseGloss a 0x1110 0 0 0) 5 (some 0)) := by
    show execBootSequence fails crystal s = _
    rw [execBootSequence, if_pos pending, bootFromFour_plain, ← ha, bootFromFive_unread unread]
  exact ⟨_, value, bootFailed_heard heard logged (bootFailure_failed alone') (by decide) (bootPending_reloading pending)⟩

theorem bootTimeout_discovery (pending : bootPending s = true) (alone : flag s R.linkCfg 2 = false) :
    ∃ t, exec (.bootTimeout .discovery crystal) s = .next t ∧ rd t R.nvmBoot = 0x80010050 ∧
      (∀ d ∈ [1, 2, 4, 5, 6, 7], domainOn t d = false) ∧
      t.boot = { s.boot with ready := true, complete := false, interruptMode := false } ∧ flag t R.sysIrqstat 8 = true ∧
      t.time = { s.time with familyOpen := s.boot.ready && s.time.familyOpen } ∧ t.flash = s.flash ∧ t.fuse = s.fuse := by
  have begun := bootPending_reloading pending
  obtain ⟨a, ha⟩ : ∃ a, a = readFuses (stepThree s crystal) := ⟨_, rfl⟩
  have heard : HostHeard s a crystal := ha ▸ hostHeard
  have logged : Touches [.gloss] glossRegs a (raiseGloss a 0x1110 1 0 0) := touches_raiseGloss touches_rfl _ _ _ _ (by decide) (List.Subset.refl _)
  have alone' : flag (raiseGloss a 0x1110 1 0 0) R.linkCfg 2 = false := by
    rw [flag_congr (logged.regs _ (by decide)), flag_congr (heard.frame.regs _ (by decide)), alone]
  have value : exec (.bootTimeout .discovery crystal) s = .next (bootFailure (raiseGloss a 0x1110 1 0 0) 5 (some 1)) := by
    show execBootTimeout .discovery crystal s = _
    unfold execBootTimeout
    rw [begun, pending, if_neg (by decide), if_neg (by decide), ha]
    exact congrArg _ bootFromFour_undiscovered
  obtain ⟨shown, -, rest⟩ := bootFailed_heard (x := 0x80010050) heard logged (bootFailure_failed (step := 5) (reason := 1) alone') (by decide) begun
  exact ⟨_, value, shown, rest⟩

end Unread

/-! ### Time-outs that leave the boot as it is, or OFF (R455) -/

section Supply
variable {s : State} {crystal : Bool} {step : BootStep} {n d : Nat}

theorem bootTimeout_heard (heard : s.boot.ready = true) (begun : s.boot.reloading = false) (early : step = .alwaysOn ∨ step = .regulators) :
    exec (.bootTimeout step crystal) s = .next s := by
  show execBootTimeout step crystal s = _
  unfold execBootTimeout
  rw [begun, if_neg (by decide)]
  by_cases done : !bootPending s
  · exact if_pos done
  · rw [if_neg done]
    rcases early with rfl | rfl
    · exact congrArg Host.Outcome.next (if_pos heard)
    · exact congrArg Host.Outcome.next (if_pos heard)

theorem boot_not_pending {fails : BitVec 16} (done : bootPending s = false) :
    exec (.bootSequence fails crystal) s = .next s ∧
      exec (.bootTimeout step crystal) s = .next (if s.boot.reloading then
        { s with boot := { s.boot with reloadOut := step :: s.boot.reloadOut } } else s) := by
  refine ⟨?_, ?_⟩
  · show execBootSequence fails crystal s = _
    rw [execBootSequence, done, if_neg (by decide)]
  · show execBootTimeout step crystal s = _
    unfold execBootTimeout
    rw [done, Bool.not_false, if_pos rfl]
    cases s.boot.reloading
    · rw [if_neg (by decide), if_neg (by decide)]
    · rw [if_pos rfl, if_pos rfl]

theorem power_loseDomain (known : d ∈ [1, 2, 3, 4, 5, 6, 7]) : (loseDomain s d).power = s.power := by
  simp only [List.mem_cons, List.not_mem_nil, or_false] at known
  rcases known with rfl | rfl | rfl | rfl | rfl | rfl | rfl
  · rfl
  · rfl
  · rfl
  · rfl
  · rfl
  · rfl
  · exact (familyPorts_facts _).1.parts.power (by decide)

theorem power_dropDomain (known : d ∈ [1, 2, 3, 4, 5, 6, 7]) : (dropDomain s d).power = s.power := by
  unfold dropDomain
  split
  · rw [clrFlag_power, power_loseDomain known]
  · rfl

/-- Every domain but PD0 has been dropped. -/
def supplyLost (s : State) : State := [1, 2, 3, 4, 5, 6, 7].foldl dropDomain s

theorem power_supplyLost : (supplyLost s).power = s.power :=
  List.foldlRecOn (motive := fun t : State => t.power = s.power) _ _ rfl fun _ h _ hd => (power_dropDomain hd).trans h

theorem shed_supplyLost : Domains.Shed true [1, 2, 3, 4, 5, 6, 7] s (supplyLost s) :=
  Domains.shed_all fun _ _ hd => Domains.shed_dropDomain hd (.inl rfl)

theorem bootTimeout_supply (pending : bootPending s = true) (cold : s.boot.ready = false)
    (named : (step = .alwaysOn ∧ n = 2) ∨ (step = .regulators ∧ n = 3)) :
    ∃ t, exec (.bootTimeout step crystal) s = .next t ∧ devState t = 3 ∧ rd t R.pwrFail = w32 (0x80000004 + 16 * n) ∧ flag t R.pwrStat 7 = true ∧
      (∀ d, 1 ≤ d → d ≤ 7 → domainOn t d = false) ∧ t.power = { s.power with failed := true, domains := 0xFF } ∧
      flag t R.sysIrqstat 9 = true ∧ t.boot = { s.boot with ready := true, supplyFailed := true } ∧ t.time = s.time ∧
      t.flash = s.flash ∧ t.fuse = s.fuse := by
  have value : exec (.bootTimeout step crystal) s = .next (bootSupplyFailure s n) := by
    show execBootTimeout step crystal s = _
    unfold execBootTimeout
    rw [bootPending_reloading pending, pending, if_neg (by decide), if_neg (by decide)]
    rcases named with ⟨rfl, rfl⟩ | ⟨rfl, rfl⟩
    · exact congrArg Host.Outcome.next (if_neg (by rw [cold]; decide))
    · exact congrArg Host.Outcome.next (if_neg (by rw [cold]; decide))
  have shed := shed_supplyLost (s := s)
  have lost := power_supplyLost (s := s)
  have facts := States.supplyFailure_facts (s := supplyLost s) (n := n) (m := 0)
  obtain ⟨u, hu⟩ : ∃ u, u = supplyFailure (supplyLost s) n 0 := ⟨_, rfl⟩
  rw [← hu] at facts
  obtain ⟨v, hv⟩ : ∃ v : State, v = { u with power := { u.power with domains := 0xFF }, boot := { u.boot with ready := true, supplyFailed := true } } :=
    ⟨_, rfl⟩
  have fails : bootSupplyFailure s n = wrFld v R.pwrStat 2 0 3 := by rw [hv, hu]; rfl
  have same : ∀ a, rd v a = rd u a := fun a => by rw [hv, rd_lit]
  rw [fails] at value
  have off : Touches [] [R.pwrStat] v (wrFld v R.pwrStat 2 0 3) := touches_wrFld touches_rfl _ _ _ List.mem_cons_self
  refine ⟨_, value, fld_wrFld_fits (by decide) (by decide) (by decide), ?_, ?_, fun d least most => ?_, ?_, ?_, ?_, ?_, ?_, ?_⟩
  · rw [off.regs _ (by decide), same, facts.fail, Nat.mul_comm n 16, Nat.add_right_comm]
  · rw [flag_wrFld_apart (by decide) (by decide) (by decide), flag_congr (same _), facts.wfail]
  · have gone : domainOn (supplyLost s) d = false := by
      have named : d ∈ [1, 2, 3, 4, 5, 6, 7] := by simp; omega
      rw [shed.domain d (by omega), List.contains_iff_mem.2 named, Bool.not_true, Bool.and_false]
    rw [← gone]
    exact flag_congr ((off.regs _ (by decide)).trans ((same _).trans (facts.frame.regs _ (by decide))))
  · rw [wrFld_power, hv, facts.power, lost]
  · rw [flag_congr (off.regs _ (by decide)), flag_congr (same _), facts.irq]
  · rw [wrFld_boot, hv, facts.frame.parts.boot (by decide), shed.boot]
  · rw [wrFld_time, hv, facts.frame.parts.time (by decide), shed.time]
  · rw [wrFld_flash, hv, facts.frame.parts.flash (by decide), shed.flash]
  · rw [wrFld_fuse, hv, facts.frame.parts.fuse (by decide), shed.fuse]

end Supply

/-! ### NVM.RELOAD (R435, R436) -/

section Reload
variable {s : State} {v : Word}

theorem reload_row : ∃ d, Row R.nvmReload d := by
  have desc : (regDesc R.nvmReload).isSome = true := by decide
  obtain ⟨d, row⟩ := Option.isSome_iff_exists.1 desc
  exact ⟨d, by decide, by decide, row, by decide⟩

theorem reload_stays : ¬ ResetWrite s R.nvmReload v := fun h => absurd h.1 (by decide)

theorem command_reload {t : State} : commandReg t false R.nvmReload v = some (writeReload t v) := rfl

theorem reload_refused (may : HostMayWrite s R.nvmReload) (wrong : v ≠ 0xA5C3) : ∃ t, exec (.reload v) s = .next t ∧ Refused s t R.nvmReload true := by
  obtain ⟨d, row⟩ := reload_row
  exact ⟨_, rfl, row_refused rfl may row reload_stays (command_reload.trans (congrArg some (if_neg wrong)))⟩

/-- The right value: the page's ERR register is as it was, and a reload is asked for. -/
theorem exec_reload (may : HostMayWrite s R.nvmReload) : ∃ u, exec (.reload 0xA5C3) s = .next (startReload u) ∧ Touches [] [] s u := by
  obtain ⟨d, row⟩ := reload_row
  have command : commandReg (wr s (pageOf R.nvmReload + 0xFFFC) 0) false R.nvmReload 0xA5C3 = some (wr s (pageOf R.nvmReload + 0xFFFC) 0) :=
    command_reload.trans (congrArg some (if_pos rfl))
  obtain ⟨value, frame⟩ := row_done (ps := []) (rs := []) rfl may.tap may.domain row reload_stays command touches_rfl List.not_mem_nil
  exact ⟨_, congrArg _ (value.trans (if_pos rfl)), frame⟩

theorem reload_begins (may : HostMayWrite s R.nvmReload) (heard : s.boot.ready = true) (begun : s.boot.reloading = false) :
    ∃ t, exec (.reload 0xA5C3) s = .next t ∧ t.boot = { s.boot with complete := false, reloading := true, reloadOut := [] } ∧
      Touches [.boot] [] s t := by
  obtain ⟨u, value, frame⟩ := exec_reload may
  have boot : u.boot = s.boot := frame.parts.boot (by decide)
  have starts : startReload u = { u with boot := { u.boot with complete := false, reloading := true, reloadOut := [] } } := by
    rw [startReload, if_neg (by rw [boot, heard, begun]; decide)]
  refine ⟨_, value, ?_, ?_⟩
  · rw [starts, boot]
  · rw [starts]
    exact touches_boot (touches_mono frame (List.nil_subset _) (List.Subset.refl _)) _ (by decide)

theorem reload_waits (may : HostMayWrite s R.nvmReload) (begun : s.boot.reloading = true) :
    ∃ t, exec (.reload 0xA5C3) s = .next t ∧ Touches [] [] s t := by
  obtain ⟨u, value, frame⟩ := exec_reload may
  have boot : u.boot = s.boot := frame.parts.boot (by decide)
  refine ⟨_, value, ?_⟩
  rw [startReload, if_pos (.inr (by rw [boot]; exact begun))]
  exact frame

end Reload

/-! ### The program of a Verb domain (R445) -/

section Program
variable {s : State} {src d : Nat} {vs : List Nat}

/-- The program of a Verb is copied from an address to each of some Verbs. -/
def programsCopied (s : State) (src : Nat) (vs : List Nat) : State := vs.foldl (fun t v => copyWords t 8192 src (verbBase v)) s

/-- The program memories of two Verbs do not meet. -/
theorem verbBase_apart {v w : Nat} (h : v ≠ w) : verbBase v + 65536 ≤ verbBase w ∨ verbBase w + 65536 ≤ verbBase v := by
  unfold verbBase
  omega

/-- What the copies leave: memory alone differs, in the program memories alone, which hold the bytes of the source. -/
structure Copied (s t : State) (src : Nat) (vs : List Nat) : Prop where
  frame   : Touches [.mem] [] s t
  outside : ∀ b, (∀ v ∈ vs, b < verbBase v ∨ verbBase v + 65536 ≤ b) → memByte t b = memByte s b
  inside  : ∀ v ∈ vs, ∀ i, i < 65536 → memByte t (verbBase v + i) = memByte s (src + i)

theorem programsCopied_facts (distinct : vs.Nodup) (clean : s.ecc = [])
    (apart : ∀ v ∈ vs, src + 65536 ≤ verbBase v ∨ verbBase v + 65536 ≤ src) : Copied s (programsCopied s src vs) src vs := by
  induction vs generalizing s with
  | nil => exact ⟨touches_rfl, fun _ _ => rfl, fun _ h => absurd h List.not_mem_nil⟩
  | cons v vs ih =>
    obtain ⟨fresh, distinct⟩ := List.nodup_cons.1 distinct
    obtain ⟨alone, kept, copied⟩ := copyWords_noError 8192 clean src (verbBase v)
    obtain ⟨a, ha⟩ : ∃ a, a = copyWords s 8192 src (verbBase v) := ⟨_, rfl⟩
    rw [← ha] at alone kept copied
    have first : Touches [.mem] [] s a := by
      rw [alone]
      exact touches_mem touches_rfl _ (by decide)
    have rest := ih (s := a) distinct ((first.parts.ecc (by decide)).trans clean) fun w hw => apart w (List.mem_cons_of_mem _ hw)
    have value : programsCopied s src (v :: vs) = programsCopied a src vs := by rw [programsCopied, List.foldl_cons, ← ha, programsCopied]
    have here := apart v List.mem_cons_self
    rw [value]
    refine ⟨touches_trans first rest.frame, fun b hb => ?_, fun w hw i hi => ?_⟩
    · rw [rest.outside b fun w hw => hb w (List.mem_cons_of_mem _ hw), kept b (hb v List.mem_cons_self)]
    · rcases List.mem_cons.1 hw with rfl | later
      · have others : ∀ x ∈ vs, verbBase w + i < verbBase x ∨ verbBase x + 65536 ≤ verbBase w + i := fun x hx => by
          have := verbBase_apart (v := w) (w := x) fun same => fresh (same ▸ hx)
          omega
        rw [rest.outside _ others, copied here i hi]
      · rw [rest.inside w later i hi, kept _ (by omega)]

/-- The Verbs of a list are present. -/
def present (s : State) (vs : List Nat) : State := vs.foldl (fun t v => onVerb t v fun x => { x with absent := false }) s

theorem touches_present : Touches [.verbs] [] s (present s vs) := touches_foldl touches_rfl fun _ _ _ h => touches_onVerb h _ _ (by decide)

theorem verbOf_present (sixteen : s.verbs.length = 16) (known : ∀ v ∈ vs, v < 16) (m : Nat) :
    verbOf (present s vs) m = if m ∈ vs then { verbOf s m with absent := false } else verbOf s m := by
  induction vs generalizing s with
  | nil => rfl
  | cons v vs ih =>
    have rest := ih (s := onVerb s v fun x => { x with absent := false }) ((List.length_modify ..).trans sixteen)
      fun w hw => known w (List.mem_cons_of_mem _ hw)
    have value : present s (v :: vs) = present (onVerb s v fun x => { x with absent := false }) vs := rfl
    rw [value, rest]
    by_cases here : m = v
    · subst here
      have shown : verbOf (onVerb s m fun x => { x with absent := false }) m = { verbOf s m with absent := false } :=
        verbOf_onVerb _ (sixteen.symm ▸ known m List.mem_cons_self)
      rw [shown, if_pos List.mem_cons_self]
      split <;> rfl
    · have other : verbOf (onVerb s v fun x => { x with absent := false }) m = verbOf s m := nth_modify_ne _ _ _ _ _ here
      rw [other]
      exact if_congr (by simp [here]) rfl rfl

theorem loadDomain_copies (other : domainOn s (3 - d) = true) :
    loadDomain s d = present (programsCopied s (verbBase (8 * (2 - d))) (domainVerbs d)) (domainVerbs d) := by
  unfold loadDomain
  dsimp only
  rw [if_pos other, present, programsCopied]

theorem domainVerbs_nodup : (domainVerbs d).Nodup := List.nodup_range.map fun _ _ h => Nat.add_right_cancel h

theorem domainVerbs_place {v : Nat} (h : v ∈ domainVerbs d) : 8 * (d - 1) ≤ v ∧ v < 8 * (d - 1) + 8 := by
  obtain ⟨i, hi, rfl⟩ := List.mem_map.1 h
  have := List.mem_range.1 hi
  omega

theorem verbProgramLoad_copies {verbB : Bool} (named : d = if verbB then 2 else 1) (first : domainOn s 1 = true) (second : domainOn s 2 = true)
    (absent : ∀ v ∈ domainVerbs d, (verbOf s v).absent = true) (booted : s.boot.complete = true) (sixteen : s.verbs.length = 16) (clean : s.ecc = []) :
    ∃ t, exec (.verbProgramLoad verbB) s = .next t ∧
      (∀ v ∈ domainVerbs d, verbOf t v = { verbOf s v with absent := false }) ∧ (∀ v, v ∉ domainVerbs d → verbOf t v = verbOf s v) ∧
      (∀ v ∈ domainVerbs d, ∀ i, i < 65536 → memByte t (verbBase v + i) = memByte s (verbBase (8 * (2 - d)) + i)) ∧
      (∀ b, (∀ v ∈ domainVerbs d, b < verbBase v ∨ verbBase v + 65536 ≤ b) → memByte t b = memByte s b) ∧
      Touches [.verbs, .mem] [] s t := by
  have range : d = 1 ∨ d = 2 := by
    cases verbB
    · exact .inl named
    · exact .inr named
  have both : domainOn s d = true ∧ domainOn s (3 - d) = true := by
    rcases range with rfl | rfl
    · exact ⟨first, second⟩
    · exact ⟨second, first⟩
  have apart : ∀ v ∈ domainVerbs d, verbBase (8 * (2 - d)) + 65536 ≤ verbBase v ∨ verbBase v + 65536 ≤ verbBase (8 * (2 - d)) := fun v hv => by
    have place := domainVerbs_place hv
    exact verbBase_apart (by omega)
  obtain ⟨c, hc⟩ : ∃ c, c = programsCopied s (verbBase (8 * (2 - d))) (domainVerbs d) := ⟨_, rfl⟩
  have copied : Copied s c _ _ := hc ▸ programsCopied_facts domainVerbs_nodup clean apart
  have verbs : c.verbs = s.verbs := copied.frame.parts.verbs (by decide)
  have sixteen' : c.verbs.length = 16 := by rw [verbs, sixteen]
  have known : ∀ v ∈ domainVerbs d, v < 16 := fun v hv => by
    have place := domainVerbs_place hv
    omega
  have sameVerb : ∀ v, verbOf c v = verbOf s v := fun v => by rw [verbOf, verbs, verbOf]
  have shown := verbOf_present sixteen' known
  have all : (domainVerbs d).all (fun v => (verbOf s v).absent) = true := List.all_eq_true.2 absent
  have value : exec (.verbProgramLoad verbB) s = .next (present c (domainVerbs d)) := by
    show execVerbProgramLoad verbB s = _
    unfold execVerbProgramLoad
    dsimp only
    rw [← named, if_pos ⟨both.1, all, booted⟩, loadDomain_copies both.2, ← hc]
  have memory : ∀ b, memByte (present c (domainVerbs d)) b = memByte c b := fun b =>
    memByte_of_mem (touches_present.parts.mem (by decide))
  refine ⟨_, value, fun v hv => ?_, fun v hv => ?_, fun v hv i hi => ?_, fun b hb => ?_, ?_⟩
  · rw [shown, if_pos hv, sameVerb]
  · rw [shown, if_neg hv, sameVerb]
  · rw [memory, copied.inside v hv i hi]
  · rw [memory, copied.outside b hb]
  · exact touches_trans (touches_mono copied.frame (by decide) (List.Subset.refl _)) (touches_mono touches_present (by decide) (List.Subset.refl _))

theorem verbProgramLoad_idle {verbB : Bool} (named : d = if verbB then 2 else 1)
    (idle : domainOn s d = false ∨ (∃ v ∈ domainVerbs d, (verbOf s v).absent = false) ∨ s.boot.complete = false) :
    exec (.verbProgramLoad verbB) s = .next s := by
  show execVerbProgramLoad verbB s = _
  unfold execVerbProgramLoad
  dsimp only
  rw [← named]
  refine if_neg fun ⟨on, all, booted⟩ => ?_
  rcases idle with off | ⟨v, hv, there⟩ | failed
  · rw [off] at on
    cases on
  · have absent := List.all_eq_true.1 all v hv
    rw [there] at absent
    cases absent
  · rw [failed] at booted
    cases booted

end Program

/-! ### How a boot ends (R416, R419) -/

theorem bootPending_booting {s : State} (pending : bootPending s = true) : Booting s := by
  unfold bootPending at pending
  simp only [Bool.and_eq_true, Bool.not_eq_true'] at pending
  exact pending.1.1.1.1.2

theorem bootFromThree_ends {s : State} {crystal : Bool} (pending : bootPending s = true) (fails : Nat) (out : List BootStep) :
    BootOutcome (bootFromFour (stepThree s crystal) false fails out) ∧ EndShown (bootFromFour (stepThree s crystal) false fails out) := by
  have read : (readFuses (stepThree s crystal)).boot = (stepThree s crystal).boot := touches_readFuses.parts.boot (by decide)
  have heard : (stepThree s crystal).boot = { s.boot with ready := true } := read.symm.trans hostHeard.boot
  have begun : Booting (stepThree s crystal) := by
    rw [Booting, heard]
    exact bootPending_booting pending
  exact ⟨bootFromFour_outcome _ _ _, bootFromFour_endShown begun _ _ _⟩

theorem boot_ends {s : State} {c : Instr} (pending : bootPending s = true)
    (boots : (∃ fails x44, c = .bootSequence fails x44) ∨ (∃ step x44, c = .bootTimeout step x44 ∧ step ≠ .alwaysOn ∧ step ≠ .regulators)) :
    ∃ t, exec c s = .next t ∧ BootOutcome t ∧ (t.boot.complete = true → t.time.epochSet = false ∧ flag t R.sysIrqstat 8 = true) := by
  rcases boots with ⟨fails, crystal, rfl⟩ | ⟨step, crystal, rfl, known, powered⟩
  · refine ⟨_, ?_, bootFromThree_ends (crystal := crystal) pending fails.toNat []⟩
    exact if_pos pending
  · refine ⟨_, ?_, bootFromThree_ends (crystal := crystal) pending 0 [step]⟩
    show execBootTimeout step crystal s = _
    unfold execBootTimeout
    rw [bootPending_reloading pending, pending, if_neg (by decide), if_neg (by decide)]
    cases step with
    | alwaysOn => exact absurd rfl known
    | regulators => exact absurd rfl powered
    | fuses => rfl
    | discovery => rfl
    | load => rfl
    | selfTest v => rfl

/-- Settles O50: each way a boot can end is followed step by step; a DEVICE list, which may reset the device, ends no boot, since nothing
that it reaches marks one as complete. -/
theorem bootRuns : Obligations.BootRuns := by
  unfold Obligations.BootRuns
  exact ⟨fun _ _ => boot_ends, fun _ _ _ => bootSequence_unanswered, fun _ _ => bootTimeout_discovery, fun _ _ _ _ => bootTimeout_supply,
    fun _ _ _ => bootTimeout_heard, fun _ _ _ _ => boot_not_pending, fun _ _ => reload_refused, fun _ => reload_begins, fun _ => reload_waits,
    fun _ _ _ => verbProgramLoad_copies, fun _ _ _ => verbProgramLoad_idle⟩

end Sys2Proof.Boots
